-- ==== Sys2Proof/Word.lean ====
section
/-! DEFINITION. The word types of the OV-IX8 and the names of its register files (R11, R32). -/
namespace Sys2Proof

/-- A general register's contents: 64 bits (R11). -/
abbrev Word := BitVec 64
/-- One byte, the smallest addressable unit of memory. -/
abbrev Byte := BitVec 8
/-- A vector register's data: 16 lanes of 64 bits (R11). -/
abbrev VData := BitVec 1024
/-- A lane mask: 128 bits (R11). -/
abbrev Mask := BitVec 128
/-- A format tag (R73). -/
abbrev Tag := BitVec 8
/-- A partition tag (R471). -/
abbrev PTag := BitVec 6

/-- General register number: g0 to g63 (R32). -/
abbrev GReg := Fin 64
/-- Vector register number: v0 to v47 (R32). -/
abbrev VReg := Fin 48
/-- Predicate number: p0 to p7 (R32). -/
abbrev PReg := Fin 8
/-- Lane mask number: k0 to k7 (R32). -/
abbrev KReg := Fin 8

end Sys2Proof
end

