-- ==== Sys2Proof/Syntax.lean ====
section
/-! DEFINITION. The instructions and machine events of the OV-IX8: one constructor of `Instr` for each row of the
opcode table. A row that is an instruction word carries its guard and hints (`Hdr`) and its typed operands; a row
that is an event of the device carries the unit it happens at and, where the outside world supplies something, that
input. -/
namespace Sys2Proof

/-- What every instruction word carries beside its operation: the guard (R23) and the hints (R26). -/
structure Hdr where
  grd : BitVec 4 := 0#4
  stall : BitVec 4 := 0#4
  yld : Bool := false
  pri : Bool := false
  holdA : Bool := false
  holdB : Bool := false
  holdD : Bool := false
  deriving DecidableEq, Repr

/-- A source that is a vector register, or a general register broadcast to every element (R266). -/
inductive VGSrc where
  | v (r : VReg)
  | g (r : GReg)
  deriving DecidableEq, Repr

/-- The count of a shift: a register or an immediate (R114). -/
inductive ShSrc where
  | reg (b : GReg)
  | imm (n : BitVec 6)
  deriving DecidableEq, Repr

/-- The second operand of CMP: a register or an immediate (R120). -/
inductive CmpSrc where
  | reg (b : GReg)
  | imm (n : BitVec 32)
  deriving DecidableEq, Repr

/-- The two directions of MOVP (R118). -/
inductive MovpOps where
  | toG (d : GReg) (a : PReg)
  | toP (d : PReg) (a : GReg)
  deriving DecidableEq, Repr

/-- The directions of KMOV (R282): mask to mask, and either half of a mask from or to a general register. -/
inductive KmovOps where
  | kk (d a : KReg)
  | kg (hi : Bool) (d : KReg) (a : GReg)
  | gk (hi : Bool) (d : GReg) (a : KReg)
  deriving DecidableEq, Repr

/-- The source of VBCAST (R276): a general register, or one element of a vector register. -/
inductive VbSrc where
  | g (a : GReg)
  | v (a : VReg) (e : BitVec 32)
  deriving DecidableEq, Repr

/-- The causes of a trap (R456). DOUBLE goes to the service processors and FORCED_HALT is only recorded. -/
inductive Cause where
  | illegalOpc | illegalOpnd | priv | tagMismatch | align | bounds | access | scope | slot | xsize | zown | poison
  | scaleSeq | modulus | channel | stream | bkpt | syscall | domain | double | forcedHalt
  deriving DecidableEq, Repr

/-- The code of a cause (R456). -/
def Cause.code : Cause → BitVec 8
  | .illegalOpc => 1 | .illegalOpnd => 2 | .priv => 3 | .tagMismatch => 4 | .align => 5 | .bounds => 6 | .access => 7
  | .scope => 8 | .slot => 9 | .xsize => 10 | .zown => 11 | .poison => 12 | .scaleSeq => 13 | .modulus => 14
  | .channel => 15 | .stream => 16 | .bkpt => 17 | .syscall => 18 | .domain => 19 | .double => 20 | .forcedHalt => 21

/-- A message to an event line of another cluster (R236). -/
structure EvMsg where
  cl : Nat
  dst : Nat
  line : Fin 64
  count : BitVec 32
  tag : PTag
  sup : Bool
  time : Nat
  deriving DecidableEq, Repr

/-- A child barrier's arrival message to its parent (R239, R241, R243), with the package and cluster of the child, and the
supervisor bit of its packet (R450). -/
structure BarArrival where
  cl : Nat
  b : Fin 32
  pkg : Nat
  fromCl : Nat
  fromB : Fin 32
  sup : Bool
  pand : Bool
  por : Bool
  sync : Bool
  height : Nat
  time : Nat
  deriving DecidableEq, Repr

/-- A release message from a parent barrier to one of its children (R239, R241, R243), with the supervisor bit of its packet
(R450). -/
structure BarRelease where
  cl : Nat
  b : Fin 32
  sup : Bool
  pand : Bool
  por : Bool
  sameDie : Bool
  sync : Bool
  clk : Nat
  time : Nat
  deriving DecidableEq, Repr

/-- A claim (or, with `rel`, a release) of a receive slot by a channel (R391, R392): the logical number of the sender and its
channel, the core and slot it claims, the register that waits, and the partition. -/
structure Claim where
  rel : Bool
  src : Nat
  ch : Fin 16
  dst : Nat
  slot : Fin 16
  gdst : GReg
  tag : Option PTag
  decl : Nat := 0
  deriving DecidableEq, Repr

/-- The 64-byte payload of a message with what travels beside it (R393, R404): sender, channel, tag, logical
time, and the clk from which a timed message is valid. -/
structure ChanMsg where
  src : Nat
  ch : Fin 16
  data : BitVec 512
  tag : Tag
  time : Nat
  clk : Nat
  deriving DecidableEq, Repr

/-- What a data frame carries: a packet's header flit as sent, or a 128-byte line (R503). -/
inductive FrameItem where
  | flit (x : BitVec 128)
  | line (x : BitVec 1024)
  deriving DecidableEq, Repr

/-- A data frame of a die-to-die link that arrives (R503, R506): the number and the contents with which it is sent, the bits of its
header flit that the link turned over, and the payload bytes of which it turned bits over, each with its bits. -/
structure Frame where
  seq : BitVec 16
  items : List FrameItem
  headErr : BitVec 128 := 0
  payErr : List (Nat × BitVec 8) := []
  deriving DecidableEq, Repr

/-- An access that reaches the package from outside it (R511, R513, R517). -/
inductive PortAccess where
  | read (n : Nat)
  | write (data : List Byte)
  | amo (op : BitVec 4) (dbl : Bool) (b : BitVec 64)
  | cas (dbl : Bool) (cmp : BitVec 64) (b : BitVec 64)
  deriving DecidableEq, Repr

/-- A peer package's protected-region request of a group (R542, R543): the 64 bytes. -/
structure ProtReq where
  pkg : Fin 16
  req : BitVec 512
  deriving DecidableEq, Repr

/-- The symbols of one member of a group from an offset of its region on, in one epoch (R544, R546). -/
structure MemberSymbols where
  member : Nat
  off : Nat
  data : List Byte
  deriving DecidableEq, Repr

/-- What a read or a scrub found in one row of a stack (R527, R539, R541): the row, the address of a word in it, the data pin
that was corrected, if one was, and whether a burst could not be corrected. -/
structure RowEvent where
  stack : Fin 16
  chan : BitVec 4
  bank : BitVec 4
  row : BitVec 20
  addr : Nat
  pin : Option Nat
  uncorrectable : Bool
  deriving DecidableEq, Repr

/-- A unit that carries a suspicion score (R537). -/
inductive SuspUnit where
  | core (n : Nat)
  | array (cl : Nat)
  | l2Slice (n : Nat)
  | bank (core : Nat) (b : Fin 18)
  | stack (n : Fin 16)
  | link (n : Fin 50)
  deriving DecidableEq, Repr

/-- A unit that diagnosis may fence (R548). -/
inductive FenceUnit where
  | core (n : Nat)
  | bank (core : Nat) (b : Fin 18)
  | cluster (n : Nat)
  | die (n : Fin 9)
  | l2Slice (die : Fin 9) (slice : Fin 48)
  | stack (n : Fin 16)
  | ioDie (n : Fin 2)
  | link (n : Fin 50)
  deriving DecidableEq, Repr

/-- The instructions and events of the opcode table: the events of the device, then the instruction words of opcodes 0x14 to
0x37, those of 0x70 to 0x86, and the others, each in the table's order. -/
inductive Instr where
  /-- DIVIDER_RESULT (R104). -/
  | dividerResult (core : Nat)
  /-- EVC_WRITE (R230). -/
  | evcWrite (cl : Nat) (e : Fin 64) (x : BitVec 64)
  /-- BCFG_WRITE (R232). -/
  | bcfgWrite (cl : Nat) (b : Fin 32) (x : BitVec 64)
  /-- GLOBAL_ACCESS_COMPLETE (R216). -/
  | globalAccessComplete (core : Nat)
  /-- PAGE_WALK (R190). -/
  | pageWalk (die : Nat) (vsid : BitVec 8) (granule : Nat)
  /-- L1D_EVICTION (R204). -/
  | l1dEviction (cl : Nat) (line : Nat) (swm : Bool)
  /-- EVENT_MESSAGE (R235). -/
  | eventMessage (m : EvMsg)
  /-- BARRIER_ARRIVAL_MESSAGE (R239). -/
  | barrierArrivalMessage (m : BarArrival)
  /-- BARRIER_RELEASE_MESSAGE (R239). -/
  | barrierReleaseMessage (m : BarRelease)
  /-- CHANNEL_CLAIM (R391). -/
  | channelClaim (m : Claim)
  /-- CHANNEL_CLAIM_ANSWER (R391). -/
  | channelClaimAnswer (m : Claim) (granted : Bool)
  /-- CHANNEL_MESSAGE_LAND (R394). -/
  | channelMessageLand (core : Nat) (slot : Fin 16) (m : ChanMsg)
  /-- CHANNEL_GRANT (R395). -/
  | channelGrant (core : Nat) (ch : Fin 16)
  /-- TIMED_MESSAGE_LAND (R404). -/
  | timedMessageLand (core : Nat) (land : Fin 16) (m : ChanMsg)
  /-- STREAM_CHUNK_ARRIVE (R260). -/
  | streamChunkArrive (core : Nat) (port : Fin 4)
  /-- ARRAY_OP_START (R333). -/
  | arrayOpStart (cl : Nat) (sh : Fin 2)
  /-- ARRAY_ROW_WRITE (R333). -/
  | arrayRowWrite (cl : Nat) (sh : Fin 2) (parityBad : Bool)
  /-- ARRAY_OP_FINISH (R334). -/
  | arrayOpFinish (cl : Nat) (sh : Fin 2)
  /-- SCALE_WRITE_RELEASE (R329). -/
  | scaleWriteRelease (cl : Nat) (sh : Fin 2)
  /-- COMMAND_COMPLETE (R360). -/
  | commandComplete (core : Nat) (cls : Fin 4) (seq : Nat)
  /-- COMMAND_FAIL (R367). -/
  | commandFail (core : Nat) (cls : Fin 4) (seq : Nat)
  /-- COLLECTIVE_GENERATION (R370). -/
  | collectiveGeneration (lid : Nat) (vdev : Nat) (gid : BitVec 32)
  /-- SPSUM_PAIR_ADD (R371). -/
  | spsumPairAdd (n : Nat)
  /-- STORAGE_COMPLETION (R372). -/
  | storageCompletion (core : Nat) (seq : Nat) (mediaError : Bool)
  /-- NETWORK_RECEIVE (R522). -/
  | networkReceive (v : Fin 32) (ep : Fin 256) (immd : BitVec 64) (data : List (BitVec 8))
  /-- XBAR_PULSE_ARRIVE (R376). -/
  | xbarPulseArrive (cl : Nat)
  /-- YIELD_REQUEST (R469). -/
  | yieldRequest (core : Nat)
  /-- GRACE_EXPIRY (R464). -/
  | graceExpiry (cl : Nat)
  /-- LAUNCH_WINDOW_WRITE (R510). -/
  | launchWindowWrite (v : Fin 32) (req : Nat) (off : BitVec 7) (data : List (BitVec 8))
  /-- LAUNCH_ACTIVATE (R423). -/
  | launchActivate (v : Fin 32) (lid : Nat)
  /-- LAUNCH_COMPLETE (R425). -/
  | launchComplete (v : Fin 32) (lid : Nat)
  /-- TASK_POP (R419). -/
  | taskPop (core : Nat)
  /-- IDLE_SEARCH_WIDEN (R419). -/
  | idleSearchWiden (core : Nat)
  /-- QUEUE_AGING (R420). -/
  | queueAging
  /-- DOMAIN_CHARGE (R432). -/
  | domainCharge
  /-- AUDIT_REPLAY (R436). -/
  | auditReplay (sig2 : BitVec 64) (sig3 : BitVec 64) (unit2 : SuspUnit) (unit3 : SuspUnit)
  /-- SADDLE_TICK (R200). -/
  | saddleTick
  /-- PACKET_EJECT (R477). -/
  | packetEject (id : Nat)
  /-- COL_CHANNEL_ESCAPE (R493). -/
  | colChannelEscape (id : Nat)
  /-- DATA_FRAME_RECEIVE (R506). -/
  | dataFrameReceive (link : Fin 50) (dir : Fin 2) (f : Frame)
  /-- REPLAY_REQUEST (R506). -/
  | replayRequest (link : Fin 50) (dir : Fin 2) (acke : BitVec 16)
  /-- PROBE_TIMEOUT (R506). -/
  | probeTimeout (link : Fin 50) (dir : Fin 2)
  /-- PROBE (R506). -/
  | probe (link : Fin 50) (dir : Fin 2)
  /-- DIGEST (R507). -/
  | digest (link : Fin 50) (dir : Fin 2) (dseq : BitVec 16) (dig : BitVec 64)
  /-- RESET_REQUEST (R507). -/
  | resetRequest (link : Fin 50) (dir : Fin 2) (acke : BitVec 16)
  /-- LINK_RETRAIN (R508). -/
  | linkRetrain (link : Fin 50) (lanes : BitVec 16)
  /-- LINK_REROUTE (R508). -/
  | linkReroute
  /-- DIAGNOSIS_VOTE (R548). -/
  | diagnosisVote (u : FenceUnit) (vote0 : Bool) (vote1 : Bool) (peer : Option Bool)
  /-- DIE_TAKEOVER (R498). -/
  | dieTakeover (pdie : Fin 9) (remote : Option (Fin 16))
  /-- DIE_MAP_FLIP (R499). -/
  | dieMapFlip
  /-- PEER_WINDOW_ACCESS (R511). -/
  | peerWindowAccess (v : Fin 32) (req : Nat) (off : BitVec 36) (a : PortAccess)
  /-- POSTED_WRITE_ARRIVE (R512). -/
  | postedWriteArrive (v : Fin 32) (req : Nat)
  /-- CXL_MEM_ACCESS (R513). -/
  | cxlMemAccess (off : Nat) (a : PortAccess)
  /-- FABRIC_RECALL (R517). -/
  | fabricRecall (line : Nat) (invalidate : Bool)
  /-- REMOTE_ACCESS_ARRIVE (R517). -/
  | remoteAccessArrive (port : Nat) (pa : BitVec 47) (a : PortAccess)
  /-- LAYOUT_REQUEST (R476). -/
  | layoutRequest (sp : Fin 2)
  /-- LAYOUT_FLIP (R476). -/
  | layoutFlip
  /-- PROTECTION_REQUEST (R543). -/
  | protectionRequest (sp : Fin 2) (peers : List ProtReq)
  /-- ATTESTATION_REQUEST (R552). -/
  | attestationRequest (sp : Fin 2)
  /-- SERVER_MASK_REQUEST (R550). -/
  | serverMaskRequest (sp : Fin 2)
  /-- SP_WATCHDOG_RESET (R478). -/
  | spWatchdogReset (sp : Fin 2)
  /-- SP_LOSS (R535). -/
  | spLoss (sp : Fin 2)
  /-- VD_SNAPSHOT (R484). -/
  | vdSnapshot (v : Fin 32)
  /-- EPOCH_START (R544). -/
  | epochStart (gid : BitVec 32) (data : List MemberSymbols)
  /-- EPOCH_COMMIT (R545). -/
  | epochCommit (gid : BitVec 32)
  /-- GROUP_REBUILD (R546). -/
  | groupRebuild (gid : BitVec 32) (lost : List Nat) (symbols : List MemberSymbols)
  /-- PACKAGE_LOSS (R536). -/
  | packageLoss (pkg : Fin 16) (newId : BitVec 10)
  /-- CORE_HANG_TIMEOUT (R529). -/
  | coreHangTimeout (core : Nat)
  /-- CORE_FAILURE (R530). -/
  | coreFailure (core : Nat)
  /-- CLUSTER_FAILURE (R531). -/
  | clusterFailure (cl : Nat)
  /-- L2_SLICE_FENCE (R532). -/
  | l2SliceFence (die : Fin 9) (slice : Fin 48)
  /-- STACK_LOSS (R533). -/
  | stackLoss (k : Fin 16)
  /-- IO_DIE_LOSS (R534). -/
  | ioDieLoss (n : Fin 2)
  /-- HBM_SCRUB (R527). -/
  | hbmScrub (found : List RowEvent)
  /-- HBM_ROW_REPAIR (R540). -/
  | hbmRowRepair (k : Fin 16)
  /-- SCORE_DECAY (R537). -/
  | scoreDecay
  /-- UNIT_DRAIN (R538). -/
  | unitDrain (u : SuspUnit)
  /-- UNIT_TEST_DONE (R538). -/
  | unitTestDone (u : SuspUnit) (pass : Bool)
  /-- BRING_UP (R549). -/
  | bringUp (passing : BitVec 9) (supply : List (List (BitVec 8))) (fuseless : List (Fin 16 × BitVec 4 × BitVec 4))
  /-- VCORE_DROOP (R553). -/
  | vcoreDroop (cl : Nat) (mV : Nat)
  /-- THERMAL_THROTTLE (R553). -/
  | thermalThrottle (cl : Nat) (celsius : Int)
  /-- POWER_CAP (R553). -/
  | powerCap (milliwatt : Nat)
  /-- THERMAL_SHUTDOWN (R553). -/
  | thermalShutdown (celsius : Int)
  /-- PACKAGE_RESET (R541). -/
  | packageReset
  /-- PROTECTION_GROUP_TIMEOUT (R543). -/
  | protectionGroupTimeout (gid : BitVec 32)
  /-- PWCTL_WRITE (R511). -/
  | pwctlWrite (v : Fin 32) (x : BitVec 64)
  /-- VCORE_RECOVERY (R553). -/
  | vcoreRecovery (cl : Nat) (mV : Nat)
  /-- THROTTLE_RELEASE (R553). -/
  | throttleRelease (cl : Nat) (celsius : Int)
  /-- HALT_RESTART (R488). -/
  | haltRestart (core : Nat)
  /-- HALTED_PARTITION_END (R424). -/
  | haltedPartitionEnd (p : Fin 64)
  /-- REMOTE_SPARE_LEND (R501). -/
  | remoteSpareLend (borrower : Fin 16)
  /-- VD_MIGRATION (R484). -/
  | vdMigration (v : Fin 32) (cycleLast : BitVec 64) (saddleLast : BitVec 64)
  /-- NOP (R140). -/
  | nop (h : Hdr)
  /-- TIMED (R141). -/
  | timed (h : Hdr)
  /-- CHECKED (R142). -/
  | checked (h : Hdr)
  /-- GANG (R145). -/
  | gang (h : Hdr) (base : BitVec 5) (num : BitVec 5)
  /-- GSPLIT (R148). -/
  | gsplit (h : Hdr)
  /-- GJOIN (R149). -/
  | gjoin (h : Hdr)
  /-- LD (R176). -/
  | ld (h : Hdr) (d : GReg) (a : GReg) (sz : BitVec 2) (zx : Bool) (imm : BitVec 32)
  /-- ST (R176). -/
  | st (h : Hdr) (a : GReg) (b : GReg) (sz : BitVec 2) (imm : BitVec 32)
  /-- VLD (R177). -/
  | vld (h : Hdr) (tag : BitVec 8) (d : VReg) (a : GReg) (x : BitVec 2) (imm : BitVec 32)
  /-- VST (R177). -/
  | vst (h : Hdr) (a : GReg) (b : VReg) (x : BitVec 2) (imm : BitVec 32)
  /-- VLD_IMG (R178). -/
  | vldImg (h : Hdr) (d : VReg) (a : GReg) (x : BitVec 2) (imm : BitVec 32)
  /-- VST_IMG (R178). -/
  | vstImg (h : Hdr) (a : GReg) (b : VReg) (x : BitVec 2) (imm : BitVec 32)
  /-- VLDL (R179). -/
  | vldl (h : Hdr) (tag : BitVec 8) (d : VReg) (a : VReg) (km : KReg) (imm : BitVec 32)
  /-- VSTL (R179). -/
  | vstl (h : Hdr) (a : VReg) (b : VReg) (km : KReg) (imm : BitVec 32)
  /-- VGATH (R180). -/
  | vgath (h : Hdr) (tag : BitVec 8) (d : VReg) (a : GReg) (b : VReg) (km : KReg)
  /-- VSCAT (R180). -/
  | vscat (h : Hdr) (d : VReg) (a : GReg) (b : VReg) (km : KReg)
  /-- KLD (R176). -/
  | kld (h : Hdr) (d : KReg) (a : GReg) (imm : BitVec 32)
  /-- KST (R176). -/
  | kst (h : Hdr) (a : GReg) (b : KReg) (imm : BitVec 32)
  /-- GLD (R211). -/
  | gld (h : Hdr) (d : GReg) (a : GReg) (sz : BitVec 2) (zx : Bool) (imm : BitVec 32)
  /-- GST (R211). -/
  | gst (h : Hdr) (a : GReg) (b : GReg) (sz : BitVec 2) (imm : BitVec 32)
  /-- GLD_V (R212). -/
  | gldV (h : Hdr) (tag : BitVec 8) (d : VReg) (a : GReg) (x : BitVec 2) (imm : BitVec 32)
  /-- GST_V (R212). -/
  | gstV (h : Hdr) (a : GReg) (b : VReg) (x : BitVec 2) (imm : BitVec 32)
  /-- GLD_IMG (R212). -/
  | gldImg (h : Hdr) (d : VReg) (a : GReg) (x : BitVec 2) (imm : BitVec 32)
  /-- GST_IMG (R212). -/
  | gstImg (h : Hdr) (a : GReg) (b : VReg) (x : BitVec 2) (imm : BitVec 32)
  /-- RWB (R214). -/
  | rwb (h : Hdr) (a : GReg) (b : GReg)
  /-- RINV (R214). -/
  | rinv (h : Hdr) (a : GReg) (b : GReg)
  /-- RWBI (R214). -/
  | rwbi (h : Hdr) (a : GReg) (b : GReg)
  /-- PREF (R215). -/
  | pref (h : Hdr) (a : GReg) (l2 : Bool) (imm : BitVec 32)
  /-- AMO (R225). -/
  | amo (h : Hdr) (op : BitVec 4) (d : GReg) (a : GReg) (b : GReg) (sz : BitVec 2) (scope : BitVec 3) (imm : BitVec 32)
  /-- CAS (R225). -/
  | cas (h : Hdr) (d : GReg) (a : GReg) (b : GReg) (sz : BitVec 2) (scope : BitVec 3) (imm : BitVec 32)
  /-- RED (R225). -/
  | red (h : Hdr) (op : BitVec 4) (a : GReg) (b : GReg) (sz : BitVec 2) (scope : BitVec 3) (imm : BitVec 32)
  /-- EVSIG_EV (R236). -/
  | evsigEv (h : Hdr) (tgt : Option GReg) (e : BitVec 6) (cnt : BitVec 16)
  /-- EVSIG_UNLOCK (R236). -/
  | evsigUnlock (h : Hdr) (m : BitVec 5)
  /-- EVSIG_PULSE (R236). -/
  | evsigPulse (h : Hdr) (c : BitVec 4) (cnt : BitVec 16)
  /-- LDEV_WAIT (R237). -/
  | ldevWait (h : Hdr) (d : GReg) (e : BitVec 6)
  /-- LDEV_POLL (R237). -/
  | ldevPoll (h : Hdr) (d : GReg) (e : BitVec 6)
  /-- LDEV_LOCK (R237). -/
  | ldevLock (h : Hdr) (d : GReg) (m : BitVec 5)
  /-- LDEV_TRY (R237). -/
  | ldevTry (h : Hdr) (d : GReg) (m : BitVec 5)
  /-- BAR (R240). -/
  | bar (h : Hdr) (b : BitVec 5)
  /-- BARSS (R242). -/
  | barss (h : Hdr) (b : BitVec 5)
  /-- SPRED (R243). -/
  | spred (h : Hdr) (d : PReg) (a : PReg) (isOr : Bool) (b : BitVec 5)
  /-- FENCE (R247). -/
  | fence (h : Hdr) (scope : BitVec 3) (paths : BitVec 8)
  /-- CHDECL (R391). -/
  | chdecl (h : Hdr) (d : GReg) (a : GReg) (ch : BitVec 4) (slot : BitVec 4)
  /-- CHDECL_REL (R392). -/
  | chdeclRel (h : Hdr) (ch : BitVec 4)
  /-- CHSEND (R393). -/
  | chsend (h : Hdr) (b : VReg) (ch : BitVec 4)
  /-- CHRECV (R395). -/
  | chrecv (h : Hdr) (d : VReg) (slot : BitVec 4)
  /-- CHPOLL (R396). -/
  | chpoll (h : Hdr) (d : VReg) (slot : BitVec 4) (pf : PReg)
  /-- PHASE (R389). -/
  | phase (h : Hdr) (b : BitVec 5)
  /-- TSEND (R404). -/
  | tsend (h : Hdr) (b : VReg) (k : BitVec 8)
  /-- TRECV (R404). -/
  | trecv (h : Hdr) (d : VReg) (k : BitVec 8)
  /-- XCOPY (R379). -/
  | xcopy (h : Hdr) (d : GReg) (a : GReg) (imm : BitVec 32)
  /-- XGATH (R366). -/
  | xgath (h : Hdr) (d : GReg) (a : GReg) (imm : BitVec 32)
  /-- XSCAT (R366). -/
  | xscat (h : Hdr) (d : GReg) (a : GReg) (imm : BitVec 32)
  /-- XFILL (R366). -/
  | xfill (h : Hdr) (d : GReg) (a : GReg) (imm : BitVec 32)
  /-- XCOLL (R370). -/
  | xcoll (h : Hdr) (d : GReg) (a : GReg) (imm : BitVec 32)
  /-- XWAIT (R381). -/
  | xwait (h : Hdr) (a : GReg) (cls : Fin 4)
  /-- XSEQ (R381). -/
  | xseq (h : Hdr) (d : GReg) (cls : Fin 4)
  /-- XCANCEL (R382). -/
  | xcancel (h : Hdr) (d : GReg) (a : GReg) (cls : Fin 4)
  /-- EVXCFG_C (R383). -/
  | evxcfgC (h : Hdr) (a : GReg) (i : BitVec 4)
  /-- EVXCFG_T (R383). -/
  | evxcfgT (h : Hdr) (a : GReg) (b : GReg) (i : BitVec 5)
  /-- EVXCFG_R (R383). -/
  | evxcfgR (h : Hdr) (d : GReg) (term : Bool) (i : BitVec 5)
  /-- EVXARM (R379). -/
  | evxarm (h : Hdr) (d : GReg) (a : GReg) (t : BitVec 5) (imm : BitVec 32)
  /-- SRING (R380). -/
  | sring (h : Hdr) (d : GReg) (a : GReg) (r : BitVec 4)
  /-- NSEND (R374). -/
  | nsend (h : Hdr) (d : GReg) (a : GReg) (imm : BitVec 32)
  /-- LAUNCH (R439). -/
  | launch (h : Hdr) (d : GReg) (a : GReg) (imm : BitVec 32)
  /-- SPAWN (R440). -/
  | spawn (h : Hdr) (a : GReg) (pri : BitVec 3) (loc : Bool)
  /-- SPAWN_R (R440). -/
  | spawnR (h : Hdr) (a : GReg) (b : GReg) (pri : BitVec 3) (loc : Bool)
  /-- JOIN (R441). -/
  | join (h : Hdr) (d : GReg) (a : GReg)
  /-- TEND (R442). -/
  | tend (h : Hdr)
  /-- WID (R443). -/
  | wid (h : Hdr) (d : GReg)
  /-- WIDF (R443). -/
  | widf (h : Hdr) (d : GReg) (a : GReg) (i : BitVec 3)
  /-- CORENUM (R443). -/
  | corenum (h : Hdr) (d : GReg) (sel : BitVec 2)
  /-- CDOPEN (R444). -/
  | cdopen (h : Hdr) (a : GReg)
  /-- CDCLOSE (R447). -/
  | cdclose (h : Hdr) (d : GReg)
  /-- CDABORT (R448). -/
  | cdabort (h : Hdr)
  /-- CDABORT_RETRY (R448). -/
  | cdabortRetry (h : Hdr)
  /-- CDKEEP (R445). -/
  | cdkeep (h : Hdr) (a : GReg) (b : GReg) (snap : Bool)
  /-- CDSIG (R446). -/
  | cdsig (h : Hdr) (a : GReg) (b : GReg)
  /-- RDSYS (R454). -/
  | rdsys (h : Hdr) (d : GReg) (n : BitVec 12)
  /-- WRSYS (R454). -/
  | wrsys (h : Hdr) (a : GReg) (n : BitVec 12)
  /-- FBPOP0_READ (R194). -/
  | fbpop0Read (h : Hdr) (d : GReg)
  /-- DERRPOP_READ (R455). -/
  | derrpopRead (h : Hdr) (d : GReg)
  /-- FBSTAT_DROP_CLEAR (R193). -/
  | fbstatDropClear (h : Hdr) (a : GReg)
  /-- SPDOOR_CLEAR (R489). -/
  | spdoorClear (h : Hdr) (a : GReg)
  /-- SLOTCTL_GO (R402). -/
  | slotctlGo (h : Hdr) (a : GReg)
  /-- SWZ_WRITE (R170). -/
  | swzWrite (h : Hdr) (a : GReg) (i : Fin 4)
  /-- ZSHARE_WRITE (R313). -/
  | zshareWrite (h : Hdr) (a : GReg)
  /-- SYSCALL (R460). -/
  | syscall (h : Hdr) (imm : BitVec 32)
  /-- BKPT (R460). -/
  | bkpt (h : Hdr) (imm : BitVec 32)
  /-- XRET (R461). -/
  | xret (h : Hdr)
  /-- WFI (R488). -/
  | wfi (h : Hdr)
  /-- HALT (R488). -/
  | halt (h : Hdr)
  /-- TLBINV_PAGE (R485). -/
  | tlbinvPage (h : Hdr) (a : GReg) (b : GReg)
  /-- TLBINV_VSID (R485). -/
  | tlbinvVsid (h : Hdr) (b : GReg)
  /-- TLBINV_ALL (R485). -/
  | tlbinvAll (h : Hdr)
  /-- TLBREPLAY (R486). -/
  | tlbreplay (h : Hdr) (a : GReg)
  /-- LDOVT (R487). -/
  | ldovt (h : Hdr) (a : GReg) (b : GReg)
  /-- CTXSAVE (R464). -/
  | ctxsave (h : Hdr) (d : GReg) (a : GReg) (b : GReg) (swap : Bool)
  /-- CTXLOAD (R465). -/
  | ctxload (h : Hdr) (d : GReg) (a : GReg) (b : GReg)
  /-- ADD (R111). -/
  | add (h : Hdr) (d : GReg) (a : GReg) (b : GReg) (w : Bool)
  /-- SUB (R111). -/
  | sub (h : Hdr) (d : GReg) (a : GReg) (b : GReg) (w : Bool)
  /-- AND (R111). -/
  | andR (h : Hdr) (d : GReg) (a : GReg) (b : GReg)
  /-- OR (R111). -/
  | orR (h : Hdr) (d : GReg) (a : GReg) (b : GReg)
  /-- XOR (R111). -/
  | xorR (h : Hdr) (d : GReg) (a : GReg) (b : GReg)
  /-- ANDN (R111). -/
  | andn (h : Hdr) (d : GReg) (a : GReg) (b : GReg)
  /-- ORN (R111). -/
  | orn (h : Hdr) (d : GReg) (a : GReg) (b : GReg)
  /-- NEG (R111). -/
  | neg (h : Hdr) (d : GReg) (a : GReg) (w : Bool)
  /-- ADDI (R111). -/
  | addi (h : Hdr) (d : GReg) (a : GReg) (w : Bool) (imm : BitVec 32)
  /-- ANDI (R111). -/
  | andi (h : Hdr) (d : GReg) (a : GReg) (imm : BitVec 32)
  /-- ORI (R111). -/
  | ori (h : Hdr) (d : GReg) (a : GReg) (imm : BitVec 32)
  /-- XORI (R111). -/
  | xori (h : Hdr) (d : GReg) (a : GReg) (imm : BitVec 32)
  /-- SHL (R112). -/
  | shl (h : Hdr) (d : GReg) (a : GReg) (w : Bool) (src : ShSrc)
  /-- SHR (R112). -/
  | shr (h : Hdr) (d : GReg) (a : GReg) (w : Bool) (src : ShSrc)
  /-- SHRA (R112). -/
  | shra (h : Hdr) (d : GReg) (a : GReg) (w : Bool) (src : ShSrc)
  /-- ROL (R112). -/
  | rol (h : Hdr) (d : GReg) (a : GReg) (w : Bool) (src : ShSrc)
  /-- ROR (R112). -/
  | ror (h : Hdr) (d : GReg) (a : GReg) (w : Bool) (src : ShSrc)
  /-- MUL (R113). -/
  | mul (h : Hdr) (d : GReg) (a : GReg) (b : GReg) (w : Bool)
  /-- MULH (R113). -/
  | mulh (h : Hdr) (d : GReg) (a : GReg) (b : GReg) (w : Bool)
  /-- MULHN (R113). -/
  | mulhn (h : Hdr) (d : GReg) (a : GReg) (b : GReg) (w : Bool)
  /-- DIV (R114). -/
  | div (h : Hdr) (d : GReg) (a : GReg) (b : GReg) (w : Bool)
  /-- DIVN (R114). -/
  | divn (h : Hdr) (d : GReg) (a : GReg) (b : GReg) (w : Bool)
  /-- REM (R114). -/
  | rem (h : Hdr) (d : GReg) (a : GReg) (b : GReg) (w : Bool)
  /-- REMN (R114). -/
  | remn (h : Hdr) (d : GReg) (a : GReg) (b : GReg) (w : Bool)
  /-- CLZ (R115). -/
  | clz (h : Hdr) (d : GReg) (a : GReg) (w : Bool)
  /-- CTZ (R115). -/
  | ctz (h : Hdr) (d : GReg) (a : GReg) (w : Bool)
  /-- POPC (R115). -/
  | popc (h : Hdr) (d : GReg) (a : GReg) (w : Bool)
  /-- BREV (R115). -/
  | brev (h : Hdr) (d : GReg) (a : GReg) (w : Bool)
  /-- BSWAP (R115). -/
  | bswap (h : Hdr) (d : GReg) (a : GReg) (w : Bool)
  /-- BFX (R116). -/
  | bfx (h : Hdr) (d : GReg) (a : GReg) (w : Bool) (pos : BitVec 6) (len : BitVec 7)
  /-- BFXN (R116). -/
  | bfxn (h : Hdr) (d : GReg) (a : GReg) (w : Bool) (pos : BitVec 6) (len : BitVec 7)
  /-- BFI (R116). -/
  | bfi (h : Hdr) (d : GReg) (a : GReg) (w : Bool) (pos : BitVec 6) (len : BitVec 7)
  /-- MIN (R117). -/
  | min (h : Hdr) (d : GReg) (a : GReg) (b : GReg) (w : Bool)
  /-- MINN (R117). -/
  | minn (h : Hdr) (d : GReg) (a : GReg) (b : GReg) (w : Bool)
  /-- MAX (R117). -/
  | max (h : Hdr) (d : GReg) (a : GReg) (b : GReg) (w : Bool)
  /-- MAXN (R117). -/
  | maxn (h : Hdr) (d : GReg) (a : GReg) (b : GReg) (w : Bool)
  /-- SEL (R117). -/
  | sel (h : Hdr) (d : GReg) (a : GReg) (b : GReg) (c : PReg) (neg : Bool)
  /-- MOV (R118). -/
  | mov (h : Hdr) (d : GReg) (a : GReg)
  /-- MOVI (R118). -/
  | movi (h : Hdr) (d : GReg) (imm : BitVec 32)
  /-- MOVHI (R118). -/
  | movhi (h : Hdr) (d : GReg) (imm : BitVec 32)
  /-- MOVP (R118). -/
  | movp (h : Hdr) (o : MovpOps)
  /-- LEA (R119). -/
  | lea (h : Hdr) (d : GReg) (a : GReg) (b : GReg) (sc : BitVec 3) (imm : BitVec 32)
  /-- CMP (R120). -/
  | cmp (h : Hdr) (d : PReg) (a : GReg) (cc : BitVec 4) (w : Bool) (src : CmpSrc)
  /-- FADD (R122). -/
  | fadd (h : Hdr) (d : GReg) (a : GReg) (b : GReg) (rm : BitVec 3) (f32 : Bool)
  /-- FSUB (R122). -/
  | fsub (h : Hdr) (d : GReg) (a : GReg) (b : GReg) (rm : BitVec 3) (f32 : Bool)
  /-- FMUL (R122). -/
  | fmul (h : Hdr) (d : GReg) (a : GReg) (b : GReg) (rm : BitVec 3) (f32 : Bool)
  /-- FDIV (R122). -/
  | fdiv (h : Hdr) (d : GReg) (a : GReg) (b : GReg) (rm : BitVec 3) (f32 : Bool)
  /-- FSQRT (R122). -/
  | fsqrt (h : Hdr) (d : GReg) (a : GReg) (rm : BitVec 3) (f32 : Bool)
  /-- FMA (R122). -/
  | fma (h : Hdr) (d : GReg) (a : GReg) (b : GReg) (rm : BitVec 3) (f32 : Bool)
  /-- FCMP (R124). -/
  | fcmp (h : Hdr) (d : PReg) (a : GReg) (b : GReg) (cc : BitVec 3) (f32 : Bool)
  /-- FCLASS (R125). -/
  | fclass (h : Hdr) (d : GReg) (a : GReg) (f32 : Bool)
  /-- FMIN (R126). -/
  | fmin (h : Hdr) (d : GReg) (a : GReg) (b : GReg) (f32 : Bool)
  /-- FMAX (R126). -/
  | fmax (h : Hdr) (d : GReg) (a : GReg) (b : GReg) (f32 : Bool)
  /-- FABS (R127). -/
  | fabs (h : Hdr) (d : GReg) (a : GReg) (f32 : Bool)
  /-- FNEG (R127). -/
  | fneg (h : Hdr) (d : GReg) (a : GReg) (f32 : Bool)
  /-- FCPYS (R127). -/
  | fcpys (h : Hdr) (d : GReg) (a : GReg) (b : GReg) (f32 : Bool)
  /-- BR (R134). -/
  | br (h : Hdr) (lx : Bool) (imm : BitVec 32)
  /-- CALL (R134). -/
  | call (h : Hdr) (d : GReg) (imm : BitVec 32)
  /-- JR (R134). -/
  | jr (h : Hdr) (a : GReg) (lx : Bool) (imm : BitVec 32)
  /-- CALLR (R134). -/
  | callr (h : Hdr) (d : GReg) (a : GReg) (imm : BitVec 32)
  /-- RET (R134). -/
  | ret (h : Hdr) (a : GReg)
  /-- LOOP (R136). -/
  | loop (h : Hdr) (a : GReg) (len : BitVec 8)
  /-- LOOPI (R136). -/
  | loopi (h : Hdr) (len : BitVec 8) (cnt : BitVec 24)
  /-- PAND (R139). -/
  | pand (h : Hdr) (d : PReg) (a : PReg) (b : PReg) (na : Bool) (nb : Bool)
  /-- POR (R139). -/
  | por (h : Hdr) (d : PReg) (a : PReg) (b : PReg) (na : Bool) (nb : Bool)
  /-- PXOR (R139). -/
  | pxor (h : Hdr) (d : PReg) (a : PReg) (b : PReg) (na : Bool) (nb : Bool)
  /-- PNOT (R139). -/
  | pnot (h : Hdr) (d : PReg) (a : PReg)
  /-- PMOV (R139). -/
  | pmov (h : Hdr) (d : PReg) (a : PReg)
  /-- VCVT (R94). -/
  | vcvt (h : Hdr) (tag : BitVec 8) (d : VReg) (a : VReg) (rm : BitVec 3) (stm : Bool) (chunk : BitVec 4)
  /-- VCVTS (R95). -/
  | vcvts (h : Hdr) (tag : BitVec 8) (d : VReg) (a : VReg) (b : GReg) (rm : BitVec 3) (stm : Bool) (chunk : BitVec 4)
  /-- VTAG (R96). -/
  | vtag (h : Hdr) (tag : BitVec 8) (d : VReg) (a : VReg)
  /-- VTAGR (R97). -/
  | vtagr (h : Hdr) (d : GReg) (a : VReg)
  /-- VQUANT (R99). -/
  | vquant (h : Hdr) (tag : BitVec 8) (d : VReg) (a : VReg) (b : VReg) (rm : BitVec 3) (chunk : BitVec 4) (j : BitVec 6)
  /-- VDEQ (R100). -/
  | vdeq (h : Hdr) (d : VReg) (a : VReg) (b : VReg) (rm : BitVec 3) (chunk : BitVec 4) (j : BitVec 6)
  /-- VSCL (R98). -/
  | vscl (h : Hdr) (tag : BitVec 8) (d : VReg) (a : VReg) (j : BitVec 6)
  /-- SCVT (R101). -/
  | scvt (h : Hdr) (src : BitVec 3) (dt : BitVec 3) (d : GReg) (a : GReg) (rm : BitVec 3)
  /-- VADD (R269). -/
  | vadd (h : Hdr) (code : BitVec 6) (d : VReg) (a : VReg) (b : VGSrc) (stm : Bool) (km : KReg) (z : Bool)
  /-- VSUB (R269). -/
  | vsub (h : Hdr) (code : BitVec 6) (d : VReg) (a : VReg) (b : VGSrc) (stm : Bool) (km : KReg) (z : Bool)
  /-- VADDS (R269). -/
  | vadds (h : Hdr) (code : BitVec 6) (d : VReg) (a : VReg) (b : VGSrc) (stm : Bool) (km : KReg) (z : Bool)
  /-- VSUBS (R269). -/
  | vsubs (h : Hdr) (code : BitVec 6) (d : VReg) (a : VReg) (b : VGSrc) (stm : Bool) (km : KReg) (z : Bool)
  /-- VABS (R269). -/
  | vabs (h : Hdr) (code : BitVec 6) (d : VReg) (a : VReg) (stm : Bool) (km : KReg) (z : Bool)
  /-- VMUL (R269). -/
  | vmul (h : Hdr) (code : BitVec 6) (d : VReg) (a : VReg) (b : VGSrc) (stm : Bool) (km : KReg) (z : Bool)
  /-- VMULH (R269). -/
  | vmulh (h : Hdr) (code : BitVec 6) (d : VReg) (a : VReg) (b : VGSrc) (stm : Bool) (km : KReg) (z : Bool)
  /-- VMULHN (R269). -/
  | vmulhn (h : Hdr) (code : BitVec 6) (d : VReg) (a : VReg) (b : VGSrc) (stm : Bool) (km : KReg) (z : Bool)
  /-- VMIN (R269). -/
  | vmin (h : Hdr) (code : BitVec 6) (d : VReg) (a : VReg) (b : VGSrc) (stm : Bool) (km : KReg) (z : Bool)
  /-- VMINN (R269). -/
  | vminn (h : Hdr) (code : BitVec 6) (d : VReg) (a : VReg) (b : VGSrc) (stm : Bool) (km : KReg) (z : Bool)
  /-- VMAX (R269). -/
  | vmax (h : Hdr) (code : BitVec 6) (d : VReg) (a : VReg) (b : VGSrc) (stm : Bool) (km : KReg) (z : Bool)
  /-- VMAXN (R269). -/
  | vmaxn (h : Hdr) (code : BitVec 6) (d : VReg) (a : VReg) (b : VGSrc) (stm : Bool) (km : KReg) (z : Bool)
  /-- VFADD (R271). -/
  | vfadd (h : Hdr) (code : BitVec 6) (d : VReg) (a : VReg) (b : VGSrc) (rm : BitVec 3) (stm : Bool) (km : KReg) (z : Bool)
  /-- VFSUB (R271). -/
  | vfsub (h : Hdr) (code : BitVec 6) (d : VReg) (a : VReg) (b : VGSrc) (rm : BitVec 3) (stm : Bool) (km : KReg) (z : Bool)
  /-- VFMUL (R271). -/
  | vfmul (h : Hdr) (code : BitVec 6) (d : VReg) (a : VReg) (b : VGSrc) (rm : BitVec 3) (stm : Bool) (km : KReg) (z : Bool)
  /-- VFDIV (R271). -/
  | vfdiv (h : Hdr) (code : BitVec 6) (d : VReg) (a : VReg) (b : VGSrc) (rm : BitVec 3) (stm : Bool) (km : KReg) (z : Bool)
  /-- VFMA (R271). -/
  | vfma (h : Hdr) (code : BitVec 6) (d : VReg) (a : VReg) (b : VGSrc) (rm : BitVec 3) (stm : Bool) (km : KReg) (z : Bool)
  /-- VFMS (R271). -/
  | vfms (h : Hdr) (code : BitVec 6) (d : VReg) (a : VReg) (b : VGSrc) (rm : BitVec 3) (stm : Bool) (km : KReg) (z : Bool)
  /-- VFNMA (R271). -/
  | vfnma (h : Hdr) (code : BitVec 6) (d : VReg) (a : VReg) (b : VGSrc) (rm : BitVec 3) (stm : Bool) (km : KReg) (z : Bool)
  /-- VFNMS (R271). -/
  | vfnms (h : Hdr) (code : BitVec 6) (d : VReg) (a : VReg) (b : VGSrc) (rm : BitVec 3) (stm : Bool) (km : KReg) (z : Bool)
  /-- VFMIN (R271). -/
  | vfmin (h : Hdr) (code : BitVec 6) (d : VReg) (a : VReg) (b : VGSrc) (stm : Bool) (km : KReg) (z : Bool)
  /-- VFMAX (R271). -/
  | vfmax (h : Hdr) (code : BitVec 6) (d : VReg) (a : VReg) (b : VGSrc) (stm : Bool) (km : KReg) (z : Bool)
  /-- VFABS (R271). -/
  | vfabs (h : Hdr) (code : BitVec 6) (d : VReg) (a : VReg) (stm : Bool) (km : KReg) (z : Bool)
  /-- VFNEG (R271). -/
  | vfneg (h : Hdr) (code : BitVec 6) (d : VReg) (a : VReg) (stm : Bool) (km : KReg) (z : Bool)
  /-- VRCP (R272). -/
  | vrcp (h : Hdr) (code : BitVec 6) (d : VReg) (a : VReg) (stm : Bool) (km : KReg) (z : Bool)
  /-- VRSQ (R272). -/
  | vrsq (h : Hdr) (code : BitVec 6) (d : VReg) (a : VReg) (stm : Bool) (km : KReg) (z : Bool)
  /-- VSQRT (R271). -/
  | vsqrt (h : Hdr) (code : BitVec 6) (d : VReg) (a : VReg) (rm : BitVec 3) (stm : Bool) (km : KReg) (z : Bool)
  /-- VEXP2 (R272). -/
  | vexp2 (h : Hdr) (code : BitVec 6) (d : VReg) (a : VReg) (stm : Bool) (km : KReg) (z : Bool)
  /-- VLOG2 (R272). -/
  | vlog2 (h : Hdr) (code : BitVec 6) (d : VReg) (a : VReg) (stm : Bool) (km : KReg) (z : Bool)
  /-- VCMP (R273). -/
  | vcmp (h : Hdr) (code : BitVec 6) (d : KReg) (a : VReg) (b : VGSrc) (cc : BitVec 3) (stm : Bool) (km : KReg) (z : Bool)
  /-- VFCMP (R273). -/
  | vfcmp (h : Hdr) (code : BitVec 6) (d : KReg) (a : VReg) (b : VGSrc) (cc : BitVec 3) (stm : Bool) (km : KReg) (z : Bool)
  /-- VFCLASS (R273). -/
  | vfclass (h : Hdr) (code : BitVec 6) (d : VReg) (a : VReg) (stm : Bool) (km : KReg) (z : Bool)
  /-- VSEL (R274). -/
  | vsel (h : Hdr) (code : BitVec 6) (d : VReg) (a : VReg) (b : VReg) (stm : Bool) (km : KReg)
  /-- VAND (R270). -/
  | vand (h : Hdr) (code : BitVec 6) (d : VReg) (a : VReg) (b : VGSrc) (stm : Bool) (km : KReg) (z : Bool)
  /-- VOR (R270). -/
  | vor (h : Hdr) (code : BitVec 6) (d : VReg) (a : VReg) (b : VGSrc) (stm : Bool) (km : KReg) (z : Bool)
  /-- VXOR (R270). -/
  | vxor (h : Hdr) (code : BitVec 6) (d : VReg) (a : VReg) (b : VGSrc) (stm : Bool) (km : KReg) (z : Bool)
  /-- VANDN (R270). -/
  | vandn (h : Hdr) (code : BitVec 6) (d : VReg) (a : VReg) (b : VGSrc) (stm : Bool) (km : KReg) (z : Bool)
  /-- VSHL (R269). -/
  | vshl (h : Hdr) (code : BitVec 6) (d : VReg) (a : VReg) (b : VGSrc) (stm : Bool) (km : KReg) (z : Bool)
  /-- VSHR (R269). -/
  | vshr (h : Hdr) (code : BitVec 6) (d : VReg) (a : VReg) (b : VGSrc) (stm : Bool) (km : KReg) (z : Bool)
  /-- VSHRA (R269). -/
  | vshra (h : Hdr) (code : BitVec 6) (d : VReg) (a : VReg) (b : VGSrc) (stm : Bool) (km : KReg) (z : Bool)
  /-- VBCAST (R276). -/
  | vbcast (h : Hdr) (code : BitVec 6) (d : VReg) (stm : Bool) (km : KReg) (z : Bool) (src : VbSrc)
  /-- VEXT (R277). -/
  | vext (h : Hdr) (wc : BitVec 2) (d : GReg) (a : VReg) (b : GReg) (sx : Bool) (imm : BitVec 32)
  /-- VINS (R277). -/
  | vins (h : Hdr) (wc : BitVec 2) (d : VReg) (a : GReg) (b : GReg) (imm : BitVec 32)
  /-- VPERM (R278). -/
  | vperm (h : Hdr) (wc : BitVec 2) (d : VReg) (a : VReg) (b : VReg) (stm : Bool) (km : KReg) (z : Bool)
  /-- VSLIDEUP (R278). -/
  | vslideup (h : Hdr) (wc : BitVec 2) (d : VReg) (a : VReg) (b : GReg) (stm : Bool) (km : KReg) (z : Bool) (imm : BitVec 32)
  /-- VSLIDEDN (R278). -/
  | vslidedn (h : Hdr) (wc : BitVec 2) (d : VReg) (a : VReg) (b : GReg) (stm : Bool) (km : KReg) (z : Bool) (imm : BitVec 32)
  /-- VIOTA (R279). -/
  | viota (h : Hdr) (code : BitVec 6) (d : VReg) (a : GReg) (stm : Bool) (km : KReg) (z : Bool) (imm : BitVec 32)
  /-- KAND (R281). -/
  | kand (h : Hdr) (d : KReg) (a : KReg) (b : KReg)
  /-- KOR (R281). -/
  | kor (h : Hdr) (d : KReg) (a : KReg) (b : KReg)
  /-- KXOR (R281). -/
  | kxor (h : Hdr) (d : KReg) (a : KReg) (b : KReg)
  /-- KNOT (R281). -/
  | knot (h : Hdr) (d : KReg) (a : KReg)
  /-- KCNT (R281). -/
  | kcnt (h : Hdr) (d : GReg) (a : KReg) (n : BitVec 8)
  /-- KMOV (R281). -/
  | kmov (h : Hdr) (o : KmovOps)
  /-- VRADD (R282). -/
  | vradd (h : Hdr) (code : BitVec 6) (d : VReg) (a : VReg) (stm : Bool) (km : KReg)
  /-- VRMIN (R282). -/
  | vrmin (h : Hdr) (code : BitVec 6) (d : VReg) (a : VReg) (stm : Bool) (km : KReg)
  /-- VRMAX (R282). -/
  | vrmax (h : Hdr) (code : BitVec 6) (d : VReg) (a : VReg) (stm : Bool) (km : KReg)
  /-- VRFADD (R282). -/
  | vrfadd (h : Hdr) (code : BitVec 6) (d : VReg) (a : VReg) (rm : BitVec 3) (stm : Bool) (km : KReg)
  /-- VRFMIN (R282). -/
  | vrfmin (h : Hdr) (code : BitVec 6) (d : VReg) (a : VReg) (stm : Bool) (km : KReg)
  /-- VRFMAX (R282). -/
  | vrfmax (h : Hdr) (code : BitVec 6) (d : VReg) (a : VReg) (stm : Bool) (km : KReg)
  /-- SCFG (R283). -/
  | scfg (h : Hdr) (d : VReg) (a : GReg) (port : Fin 4) (imm : BitVec 32)
  /-- SFREE (R284). -/
  | sfree (h : Hdr) (port : Fin 4)
  /-- VLOOP (R285). -/
  | vloop (h : Hdr) (len : BitVec 8) (port : Fin 4)
  /-- VMOV (R280). -/
  | vmov (h : Hdr) (d : VReg) (a : VReg)
  /-- VMOVG_FROM_G (R280). -/
  | vmovgFromG (h : Hdr) (code : BitVec 6) (d : VReg) (a : GReg)
  /-- VMOVG_TO_G (R280). -/
  | vmovgToG (h : Hdr) (d : GReg) (a : VReg)
  /-- VMADD (R299). -/
  | vmadd (h : Hdr) (d : VReg) (a : VReg) (b : VGSrc) (m : Fin 4) (km : KReg) (z : Bool)
  /-- VMSUB (R299). -/
  | vmsub (h : Hdr) (d : VReg) (a : VReg) (b : VGSrc) (m : Fin 4) (km : KReg) (z : Bool)
  /-- VMNEG (R299). -/
  | vmneg (h : Hdr) (d : VReg) (a : VReg) (m : Fin 4) (km : KReg) (z : Bool)
  /-- VMMUL (R299). -/
  | vmmul (h : Hdr) (d : VReg) (a : VReg) (b : VGSrc) (m : Fin 4) (km : KReg) (z : Bool)
  /-- VMMAC (R299). -/
  | vmmac (h : Hdr) (d : VReg) (a : VReg) (b : VGSrc) (m : Fin 4) (km : KReg) (z : Bool)
  /-- VMRED (R300). -/
  | vmred (h : Hdr) (nat : Bool) (d : VReg) (a : VReg) (m : Fin 4) (km : KReg) (z : Bool)
  /-- VMCVT_I64 (R301). -/
  | vmcvtI64 (h : Hdr) (d : VReg) (a : VReg) (km : KReg) (z : Bool)
  /-- VMCVT_MN (R301). -/
  | vmcvtMn (h : Hdr) (d : VReg) (a : VReg) (m : Fin 4) (km : KReg) (z : Bool)
  /-- VMCVT_MS (R301). -/
  | vmcvtMs (h : Hdr) (d : VReg) (a : VReg) (m : Fin 4) (km : KReg) (z : Bool)
  /-- MQGEN (R302). -/
  | mqgen (h : Hdr) (a : VReg) (m : Fin 4)
  /-- MQLD (R303). -/
  | mqld (h : Hdr) (a : VReg) (b : VReg) (m : Fin 4)
  /-- BFLY (R304). -/
  | bfly (h : Hdr) (d : VReg) (a : VReg) (m : Fin 4) (km : KReg)
  /-- IBFLY (R304). -/
  | ibfly (h : Hdr) (d : VReg) (a : VReg) (m : Fin 4) (km : KReg)
  /-- BPERM (R305). -/
  | bperm (h : Hdr) (d : VReg) (a : VReg) (k : BitVec 2)
  /-- BPERMX (R306). -/
  | bpermx (h : Hdr) (d : VReg) (k : BitVec 2)
  /-- VBITREV (R307). -/
  | vbitrev (h : Hdr) (d : VReg) (a : VReg) (b : BitVec 3)
  /-- VFFT2 (R308). -/
  | vfft2 (h : Hdr) (d : VReg) (a : VReg) (rm : BitVec 3) (cj : Bool) (km : KReg)
  /-- VCMUL (R308). -/
  | vcmul (h : Hdr) (d : VReg) (a : VReg) (b : VReg) (rm : BitVec 3) (cj : Bool) (km : KReg) (z : Bool)
  /-- ZALLOC (R342). -/
  | zalloc (h : Hdr) (d : PReg) (t : Fin 4)
  /-- ZFREE (R342). -/
  | zfree (h : Hdr) (t : Fin 4)
  /-- ZZERO (R342). -/
  | zzero (h : Hdr) (i32 : Bool) (t : Fin 4)
  /-- ZMMA (R343). -/
  | zmma (h : Hdr) (tag : BitVec 8) (d : GReg) (a : GReg) (b : GReg) (t : Fin 4) (sc : Bool)
  /-- ZMMAS (R343). -/
  | zmmas (h : Hdr) (tag : BitVec 8) (d : GReg) (a : GReg) (b : GReg) (t : Fin 4) (sc : Bool)
  /-- ZLDC (R344). -/
  | zldc (h : Hdr) (i32 : Bool) (a : GReg) (t : Fin 4) (stride : BitVec 20)
  /-- ZSTORE (R344). -/
  | zstore (h : Hdr) (dt : BitVec 8) (a : GReg) (rm : BitVec 3) (t : Fin 4) (stride : BitVec 20)
  /-- ZREAD (R345). -/
  | zread (h : Hdr) (d : VReg) (a : GReg) (x : BitVec 2) (t : Fin 4) (c : BitVec 3)
  /-- ZWM (R346). -/
  | zwm (h : Hdr) (d : GReg) (t : Fin 4)
  /-- ZWAIT (R346). -/
  | zwait (h : Hdr) (a : GReg) (t : Fin 4) (imm : BitVec 32)
  /-- ZSCL (R347). -/
  | zscl (h : Hdr) (a : GReg) (b : VReg) (sideB : Bool) (j : BitVec 5) (q : BitVec 2)
  /-- ZSTAT_T (R348). -/
  | zstatT (h : Hdr) (d : GReg) (t : Fin 4) (clr : Bool)
  /-- ZSTAT_F (R348). -/
  | zstatF (h : Hdr) (d : GReg) (clr : Bool)
  /-- ZSTAT_S (R348). -/
  | zstatS (h : Hdr) (d : GReg)
  deriving DecidableEq, Repr

end Sys2Proof
end

