-- ==== Sys2Proof/Config.lean ====
section
/-! DEFINITION. What one device fixes and what the spec leaves free: plain constants of the model, and the free values,
each an opaque constant applied to what it may depend on. -/
namespace Sys2Proof.Config

/-- Cores of a cluster (R10). -/
def coresPerCluster : Nat := 24
/-- Clusters of a compute die (R10). -/
def clustersPerDie : Nat := 48
/-- Cores of a compute die (R16). -/
def coresPerDie : Nat := 1152
/-- Logical cores of a package (R16). -/
def coresPerPackage : Nat := 9216
/-- Compute dies of a package, the spare included (R7). -/
def dies : Nat := 9
/-- Bytes of a core scratchpad (R153). -/
def spadBytes : Nat := 98304
/-- Bytes of a die's chip scratchpad (R153). -/
def chipBytes : Nat := 50331648
/-- Bytes of HBM: 16 stacks of 64 GiB (R183, R534). -/
def hbmBytes : Nat := 2 ^ 40
/-- The read lease RL (R199). -/
def readLease : Nat := 4096
/-- This package's index in the scale-up domain. DESIGN CHOICE: 0, the package of the example numbering (log 6). -/
def package : Nat := 0

/-- The value that a byte of memory holds before anything has written it. DESIGN CHOICE: 0 (log 4). -/
def fillByte : Byte := 0#8

/-- How many clk an instruction of variable latency has delayed its stream by, seen only through CYCLE and the
counters: the spec sets no number (R568). The argument is the core's count of such instructions (log 8). -/
opaque cycleSlip : Nat → BitVec 64

/-- Whether a result of variable latency lands before an older result of fixed latency for the same register (R15, R143, R157): the
arguments are the core's count of such instructions and the clk at which the older one lands (log 157). -/
opaque slipFirst : Nat → Nat → Bool

/-- Whether a fetch of a word that has changed since its launch began returns the new word (R131): the arguments are the core, its
clk and the count of its words (log 48). -/
opaque fetchNew : Nat → Nat → Nat → Bool

/-- How many clk a packet of the package network takes (R492 to R494): an idle network gives a figure for a hop, no rule one for a
packet. The argument is the packet's number (log 166). -/
opaque transit : Nat → Nat

/-- How many clk a release message that is not die-synchronous takes for a hop of the chain (R241): at most 16 on an idle network, no
number otherwise. The arguments are the cluster that it reaches and the clk that it carries (log 11). -/
opaque releaseHop : Nat → Nat → Nat

/-- How many clk a row that ZLDC or ZSTORE asks a memory for takes beyond the least (R333), which the spec leaves open; the argument is
the count of draws (log 190). -/
opaque zArrive : Nat → Nat
/-- How many clk beyond 10 a header read from another core's scratchpad takes (R157: 10 to 24 clk); the argument is the count of draws
(log 190). -/
opaque clusterClk : Nat → Nat

/-- Which of the two values next to the exact one a faithfully rounded result takes (R272): true for the one of larger
magnitude. A fixed function of the form, the format code and the input pattern (log 12). -/
opaque faithfulUp : Nat → Nat → Nat → Bool

/-- The order that a merge network adds the pairs of one SPSUM entry in (R371), drawn once for each addition: the
index, modulo the number left, of the pair taken next (log 13). -/
opaque mergePick : Nat → Nat → Nat

/-- Bytes that an access of one path reads while another path writes them, with no fence between (R159, R206): true
where the read returns the new byte (log 14). -/
opaque raceNew : Nat → Nat → Bool

/-- How many lines a started command has done when XCANCEL stops it (R382): the spec sets no speed. The arguments are the
count of draws and the lines that the command may still do (log 16). -/
opaque cancelLines : Nat → Nat → Nat

/-- The index in CHANNEL's XVAL for TSEND and TRECV, which name no channel, slot or barrier: no rule gives it (R408). The
argument is the count of draws (log 19). -/
opaque channelIndex : Nat → BitVec 5

/-- A 64-bit value that an instruction writes where no rule states it; the argument is the count of draws (log 20). -/
opaque freeWord : Nat → BitVec 64

/-- How much a count of the caches, the tokens or the stalls, of which the spec sets no number, has grown since it was looked at: the
arguments are the core, the event and the count of draws (log 21). DESIGN CHOICE (log 156). -/
opaque pmCount : Nat → Nat → Nat → BitVec 32

/-- Whether the power cap stalls a word of a core (R553), which the spec leaves open: the core, and how many words it has
completed (log 25). -/
opaque capStall : Nat → Nat → Bool

/-- The 16 bits in which the header of a converted tile holds a dimension of 65,536 or more, which R318 gives no room and R364 does
not exclude (log 26). -/
opaque headerDim : Nat → BitVec 16

/-- SHAKE256 with an output of 64 bytes, Ed448 signatures under the package's device key, and the device's public key (R552): the
spec names them, and the key is the package's own (log 24). -/
opaque shake256 : List Byte → BitVec 512
opaque deviceSign : List Byte → BitVec 912
opaque deviceKey : BitVec 456
/-- The bytes of a context image behind its header, whose layout is internal (R463): the arguments are the draw of the save and the
offset (log 22). -/
opaque imageByte : Nat → Nat → Byte
/-- The partition tag that the OS server cores give a crossbar counter (0 to 15) or term (16 to 47) after a layout commit: R471 has them
write it and names no register for it. The arguments are the count of draws, the cluster and the place (log 175). -/
opaque xbarTag : Nat → Nat → Nat → BitVec 6
/-- The firmware image in on-module flash at the first power-on (R549, R551), of which the spec gives no byte (log 24). -/
opaque firmware : List Byte
/-- Whether an Ed448 signature, as RFC 8032 defines with SHAKE256, of 114 bytes over a message is valid under the vendor's public key whose
digest is fused (R551): the spec names the function, and the key is the vendor's (log 24). -/
opaque vendorSigned : List Byte → BitVec 912 → Bool
/-- The peer package of the launch that offers its idle spare at a takeover (R498, R501), if one does; the argument is the count of draws
(log 191). -/
opaque remoteSpare : Nat → Option (Fin 16)
/-- Bits that a link turns over in a control frame on its way (R503, R506): the byte of the frame and the bits, for each; the argument is
the count of draws (log 120). -/
opaque wireErrors : Nat → List (Nat × Byte)

end Sys2Proof.Config
end

