-- ==== Sys2Proof/WellFormed.lean ====
section
/-! DEFINITION. Which terms of `Instr` an instruction word can hold (R32 to R41, and the operand tables of the class
chapters): the sets of format tags and codes, the limits of fields, and register groups. Events are always well
formed: their operands are the device's own. -/
namespace Sys2Proof

/-- The narrow formats of a tag: binary8pP for P = 1 to 7 in four variants, binary4pP for P = 1 to 3 signed (R69, R73). -/
def isNarrowTag (t : Tag) : Bool :=
  let c := t.extractLsb' 0 6
  (c.ule 0x27#6 && (0x21#6).ule c) || ((0x29#6).ule c && c.ule 0x2B#6 && !(t.getLsbD 7))

/-- A binary4 tag (R74). -/
def isNarrow4Tag (t : Tag) : Bool := isNarrowTag t && (0x29#6).ule (t.extractLsb' 0 6)

/-- Set C of R90. -/
def inSetC (t : Tag) : Bool :=
  ((1#8).ule t && t.ule 4#8) || ((8#8).ule t && t.ule 0xF#8) || t == 0x11#8 || isNarrowTag t
/-- Set Q of R90. -/
def inSetQ (t : Tag) : Bool := isNarrowTag t || t == 8#8 || t == 0x11#8
/-- Set T of R90. -/
def inSetT (t : Tag) : Bool := t.ule 6#8 || ((8#8).ule t && t.ule 0xF#8) || t == 0x11#8 || isNarrowTag t
/-- Set MX of R323: the element formats of ZMMA. -/
def inSetMX (t : Tag) : Bool :=
  (2#8).ule t && t.ule 4#8 || t == 8#8 || t == 0x11#8 || isNarrowTag t
/-- The integer element formats of ZMMA. -/
def isIntMX (t : Tag) : Bool := t == 8#8 || t == 0x11#8
/-- The destination formats of ZSTORE (R339). -/
def inSetZst (t : Tag) : Bool :=
  (2#8).ule t && t.ule 4#8 || t == 0xA#8
/-- Set I of R265: I8 to I64. -/
def inSetI (c : BitVec 6) : Bool := (8#6).ule c && c.ule 0xB#6
/-- Set N of R265: N8 to N64. -/
def inSetN (c : BitVec 6) : Bool := (0xC#6).ule c && c.ule 0xF#6
/-- Sets I and N together (R265). -/
def inSetINT (c : BitVec 6) : Bool := (8#6).ule c && c.ule 0xF#6
/-- Set F of R265: FP64, FP32, FP16, BF16. -/
def inSetF (c : BitVec 6) : Bool := (1#6).ule c && c.ule 4#6
/-- Set H of R265: FP32, FP16, BF16. -/
def inSetH (c : BitVec 6) : Bool := (2#6).ule c && c.ule 4#6
/-- Set L of R265. -/
def inSetL (c : BitVec 6) : Bool := c == 0#6 || inSetINT c
/-- Set E of R265. -/
def inSetE (c : BitVec 6) : Bool := inSetF c || inSetINT c || c == 5#6 || c == 6#6 || c == 0x10#6 ||
  (0x21#6).ule c && c.ule 0x27#6
/-- The formats VMOVG writes (R285). -/
def inSetG (c : BitVec 6) : Bool := c == 0#6 || inSetF c || inSetINT c || c == 6#6
/-- The codes of VBCAST whose source must be a vector register: M64 and binary8 (R276). -/
def codeNeedsV (c : BitVec 6) : Bool := c == 0x10#6 || (0x21#6).ule c && c.ule 0x27#6
/-- The chunk of VQUANT must be below 4 for 8-bit and below 8 for 4-bit destinations (R99). -/
def quantChunkOk (t : Tag) (c : BitVec 4) : Bool :=
  if isNarrow4Tag t || t == 0x11#8 then c.ult 8#4 else c.ult 4#4
/-- The rounding field of ZSTORE: used for FP16 and BF16 only, and not SR (R340). -/
def zstoreRmOk (dt : Tag) (rm : BitVec 3) : Bool :=
  if dt == 3#8 || dt == 4#8 then rm.ult 5#3 else rm == 0#3
/-- The first column chunk of ZREAD is aligned to its group (R345). -/
def zchunkOk (x : BitVec 2) (c : BitVec 3) : Bool :=
  c.toNat % (1 <<< x.toNat) == 0
/-- A group of n registers of a file of `size` starts at a multiple of n and fits the file (R38). -/
def groupOk (n size v : Nat) : Bool := v % n == 0 && v + n ≤ size
/-- A register lies in the group of n that starts at `base`. -/
def inGroup (n base v : Nat) : Bool := base ≤ v && v < base + n

/-- The system registers that RDSYS reads with no row of their own in the table: those of R453 but for FBPOP0 and
DERRPOP. -/
def sysReadPlain (n : BitVec 12) : Bool := (0x000#12).ule n && n.ule 0x007#12 ||
  (0x010#12).ule n && n.ule 0x01b#12 ||
  (0x020#12).ule n && n.ule 0x023#12 ||
  (0x028#12).ule n && n.ule 0x02d#12 ||
  (0x030#12).ule n && n.ule 0x033#12 ||
  (0x038#12).ule n && n.ule 0x039#12 ||
  (0x040#12).ule n && n.ule 0x046#12 ||
  (0x048#12).ule n && n.ule 0x04f#12 ||
  (0x080#12).ule n && n.ule 0x081#12 ||
  n == 0x088#12 ||
  n == 0x08a#12 ||
  n == 0x090#12 ||
  n == 0x098#12 ||
  n == 0x0a8#12 ||
  (0x0b0#12).ule n && n.ule 0x0b1#12
/-- The system registers that WRSYS writes with no row of their own in the table. -/
def sysWritePlain (n : BitVec 12) : Bool := (0x000#12).ule n && n.ule 0x007#12 ||
  (0x010#12).ule n && n.ule 0x017#12 ||
  (0x020#12).ule n && n.ule 0x023#12 ||
  (0x028#12).ule n && n.ule 0x02d#12 ||
  (0x030#12).ule n && n.ule 0x033#12 ||
  (0x038#12).ule n && n.ule 0x039#12 ||
  (0x040#12).ule n && n.ule 0x046#12 ||
  (0x048#12).ule n && n.ule 0x04f#12 ||
  (0x080#12).ule n && n.ule 0x081#12 ||
  (0x089#12).ule n && n.ule 0x08a#12 ||
  n == 0x0a0#12 ||
  n == 0x0a8#12 ||
  n == 0x0b1#12

/-- The limits the encoding sets on an instruction's operands. -/
def Instr.wf : Instr → Bool
  | .dividerResult _ => true
  | .evcWrite _ _ _ => true
  | .bcfgWrite _ _ _ => true
  | .globalAccessComplete _ => true
  | .pageWalk _ _ _ => true
  | .l1dEviction _ _ _ => true
  | .eventMessage _ => true
  | .barrierArrivalMessage _ => true
  | .barrierReleaseMessage _ => true
  | .channelClaim _ => true
  | .channelClaimAnswer _ _ => true
  | .channelMessageLand _ _ _ => true
  | .channelGrant _ _ => true
  | .timedMessageLand _ _ _ => true
  | .streamChunkArrive _ _ => true
  | .arrayOpStart _ _ => true
  | .arrayRowWrite _ _ _ => true
  | .arrayOpFinish _ _ => true
  | .scaleWriteRelease _ _ => true
  | .commandComplete _ _ _ => true
  | .commandFail _ _ _ => true
  | .collectiveGeneration _ _ _ => true
  | .spsumPairAdd _ => true
  | .storageCompletion _ _ _ => true
  | .networkReceive _ _ _ _ => true
  | .xbarPulseArrive _ => true
  | .yieldRequest _ => true
  | .graceExpiry _ => true
  | .launchWindowWrite _ _ _ _ => true
  | .launchActivate _ _ => true
  | .launchComplete _ _ => true
  | .taskPop _ => true
  | .idleSearchWiden _ => true
  | .queueAging => true
  | .domainCharge => true
  | .auditReplay _ _ _ _ => true
  | .saddleTick => true
  | .packetEject _ => true
  | .colChannelEscape _ => true
  | .dataFrameReceive _ _ _ => true
  | .replayRequest _ _ _ => true
  | .probeTimeout _ _ => true
  | .probe _ _ => true
  | .digest _ _ _ _ => true
  | .resetRequest _ _ _ => true
  | .linkRetrain _ _ => true
  | .linkReroute => true
  | .diagnosisVote _ _ _ _ => true
  | .dieTakeover _ _ => true
  | .dieMapFlip => true
  | .peerWindowAccess _ _ _ _ => true
  | .postedWriteArrive _ _ => true
  | .cxlMemAccess _ _ => true
  | .fabricRecall _ _ => true
  | .remoteAccessArrive _ _ _ => true
  | .layoutRequest _ => true
  | .layoutFlip => true
  | .protectionRequest _ _ => true
  | .attestationRequest _ => true
  | .serverMaskRequest _ => true
  | .spWatchdogReset _ => true
  | .spLoss _ => true
  | .vdSnapshot _ => true
  | .epochStart _ _ => true
  | .epochCommit _ => true
  | .groupRebuild _ _ _ => true
  | .packageLoss _ _ => true
  | .coreHangTimeout _ => true
  | .coreFailure _ => true
  | .clusterFailure _ => true
  | .l2SliceFence _ _ => true
  | .stackLoss _ => true
  | .ioDieLoss _ => true
  | .hbmScrub _ => true
  | .hbmRowRepair _ => true
  | .scoreDecay => true
  | .unitDrain _ => true
  | .unitTestDone _ _ => true
  | .bringUp _ _ _ => true
  | .vcoreDroop _ _ => true
  | .thermalThrottle _ _ => true
  | .powerCap _ => true
  | .thermalShutdown _ => true
  | .packageReset => true
  | .protectionGroupTimeout _ => true
  | .pwctlWrite _ _ => true
  | .vcoreRecovery _ _ => true
  | .throttleRelease _ _ => true
  | .haltRestart _ => true
  | .haltedPartitionEnd _ => true
  | .remoteSpareLend _ => true
  | .vdMigration _ _ _ => true
  | .nop _ => true
  | .timed _ => true
  | .checked _ => true
  | .gang _ _ _ => true
  | .gsplit _ => true
  | .gjoin _ => true
  | .ld _ _ _ sz zx _ => (!(zx && sz == 3))
  | .st _ _ _ _ _ => true
  | .vld _ tag d _ x _ => (inSetT tag) && (groupOk (1 <<< x.toNat) 48 d.val) && (x != 3)
  | .vst _ _ b x _ => (groupOk (1 <<< x.toNat) 48 b.val) && (x != 3)
  | .vldImg _ d _ x _ => (groupOk (1 <<< x.toNat) 48 d.val) && (x != 3)
  | .vstImg _ _ b x _ => (groupOk (1 <<< x.toNat) 48 b.val) && (x != 3)
  | .vldl _ tag _ _ _ _ => (inSetT tag)
  | .vstl _ _ _ _ _ => true
  | .vgath _ tag _ _ _ _ => (inSetT tag)
  | .vscat _ _ _ _ _ => true
  | .kld _ _ _ _ => true
  | .kst _ _ _ _ => true
  | .gld _ _ _ sz zx _ => (!(zx && sz == 3))
  | .gst _ _ _ _ _ => true
  | .gldV _ tag d _ x _ => (inSetT tag) && (groupOk (1 <<< x.toNat) 48 d.val) && (x != 3)
  | .gstV _ _ b x _ => (groupOk (1 <<< x.toNat) 48 b.val) && (x != 3)
  | .gldImg _ d _ x _ => (groupOk (1 <<< x.toNat) 48 d.val) && (x != 3)
  | .gstImg _ _ b x _ => (groupOk (1 <<< x.toNat) 48 b.val) && (x != 3)
  | .rwb _ _ _ => true
  | .rinv _ _ _ => true
  | .rwbi _ _ _ => true
  | .pref _ _ _ _ => true
  | .amo _ op _ _ _ sz scope _ => (op.ult 10#4) && (sz == 2 || sz == 3) && (scope.ult 5)
  | .cas _ _ _ _ sz scope _ => (sz == 2 || sz == 3) && (scope.ult 5)
  | .red _ op _ _ sz scope _ => (op.ult 10#4 && op != 0#4) && (sz == 2 || sz == 3) && (scope.ult 5)
  | .evsigEv _ _ _ _ => true
  | .evsigUnlock _ _ => true
  | .evsigPulse _ _ _ => true
  | .ldevWait _ _ _ => true
  | .ldevPoll _ _ _ => true
  | .ldevLock _ _ _ => true
  | .ldevTry _ _ _ => true
  | .bar _ _ => true
  | .barss _ _ => true
  | .spred _ _ _ _ _ => true
  | .fence _ scope _ => (scope.ult 5)
  | .chdecl _ _ _ _ _ => true
  | .chdeclRel _ _ => true
  | .chsend _ _ _ => true
  | .chrecv _ _ _ => true
  | .chpoll _ _ _ _ => true
  | .phase _ _ => true
  | .tsend _ _ _ => true
  | .trecv _ _ _ => true
  | .xcopy _ _ _ _ => true
  | .xgath _ _ _ _ => true
  | .xscat _ _ _ _ => true
  | .xfill _ _ _ _ => true
  | .xcoll _ _ _ _ => true
  | .xwait _ _ _ => true
  | .xseq _ _ _ => true
  | .xcancel _ _ _ _ => true
  | .evxcfgC _ _ _ => true
  | .evxcfgT _ _ _ _ => true
  | .evxcfgR _ _ term i => ((term || i.ult 16#5))
  | .evxarm _ _ _ _ _ => true
  | .sring _ _ _ _ => true
  | .nsend _ _ _ _ => true
  | .launch _ _ _ _ => true
  | .spawn _ a pri _ => (groupOk 4 64 a.val) && (pri == 0 || pri.toNat >= 4)
  | .spawnR _ a _ pri _ => (groupOk 4 64 a.val) && (pri == 0 || pri.toNat >= 4)
  | .join _ _ _ => true
  | .tend _ => true
  | .wid _ _ => true
  | .widf _ _ _ i => (i.ult 6)
  | .corenum _ _ _ => true
  | .cdopen _ _ => true
  | .cdclose _ _ => true
  | .cdabort _ => true
  | .cdabortRetry _ => true
  | .cdkeep _ _ _ _ => true
  | .cdsig _ _ _ => true
  | .rdsys _ _ n => (sysReadPlain n)
  | .wrsys _ _ n => (sysWritePlain n)
  | .fbpop0Read _ _ => true
  | .derrpopRead _ _ => true
  | .fbstatDropClear _ _ => true
  | .spdoorClear _ _ => true
  | .slotctlGo _ _ => true
  | .swzWrite _ _ _ => true
  | .zshareWrite _ _ => true
  | .syscall _ _ => true
  | .bkpt _ _ => true
  | .xret _ => true
  | .wfi _ => true
  | .halt _ => true
  | .tlbinvPage _ _ _ => true
  | .tlbinvVsid _ _ => true
  | .tlbinvAll _ => true
  | .tlbreplay _ _ => true
  | .ldovt _ _ _ => true
  | .ctxsave _ _ _ _ _ => true
  | .ctxload _ _ _ _ => true
  | .add _ _ _ _ _ => true
  | .sub _ _ _ _ _ => true
  | .andR _ _ _ _ => true
  | .orR _ _ _ _ => true
  | .xorR _ _ _ _ => true
  | .andn _ _ _ _ => true
  | .orn _ _ _ _ => true
  | .neg _ _ _ _ => true
  | .addi _ _ _ _ _ => true
  | .andi _ _ _ _ => true
  | .ori _ _ _ _ => true
  | .xori _ _ _ _ => true
  | .shl _ _ _ w src => ((match src with | .imm n => !w || n.ult 32#6 | .reg _ => true))
  | .shr _ _ _ w src => ((match src with | .imm n => !w || n.ult 32#6 | .reg _ => true))
  | .shra _ _ _ w src => ((match src with | .imm n => !w || n.ult 32#6 | .reg _ => true))
  | .rol _ _ _ w src => ((match src with | .imm n => !w || n.ult 32#6 | .reg _ => true))
  | .ror _ _ _ w src => ((match src with | .imm n => !w || n.ult 32#6 | .reg _ => true))
  | .mul _ _ _ _ _ => true
  | .mulh _ _ _ _ _ => true
  | .mulhn _ _ _ _ _ => true
  | .div _ _ _ _ _ => true
  | .divn _ _ _ _ _ => true
  | .rem _ _ _ _ _ => true
  | .remn _ _ _ _ _ => true
  | .clz _ _ _ _ => true
  | .ctz _ _ _ _ => true
  | .popc _ _ _ _ => true
  | .brev _ _ _ _ => true
  | .bswap _ _ _ _ => true
  | .bfx _ _ _ _ _ _ => true
  | .bfxn _ _ _ _ _ _ => true
  | .bfi _ _ _ _ _ _ => true
  | .min _ _ _ _ _ => true
  | .minn _ _ _ _ _ => true
  | .max _ _ _ _ _ => true
  | .maxn _ _ _ _ _ => true
  | .sel _ _ _ _ _ _ => true
  | .mov _ _ _ => true
  | .movi _ _ _ => true
  | .movhi _ _ _ => true
  | .movp _ _ => true
  | .lea _ _ _ _ _ _ => true
  | .cmp _ _ _ cc _ _ => (cc.ult 8)
  | .fadd _ _ _ _ rm _ => (rm != 6 && rm != 7)
  | .fsub _ _ _ _ rm _ => (rm != 6 && rm != 7)
  | .fmul _ _ _ _ rm _ => (rm != 6 && rm != 7)
  | .fdiv _ _ _ _ rm _ => (rm != 6 && rm != 7)
  | .fsqrt _ _ _ rm _ => (rm != 6 && rm != 7)
  | .fma _ _ _ _ rm _ => (rm != 6 && rm != 7)
  | .fcmp _ _ _ _ cc _ => (cc.ult 5)
  | .fclass _ _ _ _ => true
  | .fmin _ _ _ _ _ => true
  | .fmax _ _ _ _ _ => true
  | .fabs _ _ _ _ => true
  | .fneg _ _ _ _ => true
  | .fcpys _ _ _ _ _ => true
  | .br _ _ _ => true
  | .call _ _ _ => true
  | .jr _ _ _ _ => true
  | .callr _ _ _ _ => true
  | .ret _ _ => true
  | .loop _ _ _ => true
  | .loopi _ _ _ => true
  | .pand _ _ _ _ _ _ => true
  | .por _ _ _ _ _ _ => true
  | .pxor _ _ _ _ _ _ => true
  | .pnot _ _ _ => true
  | .pmov _ _ _ => true
  | .vcvt _ tag _ _ rm _ _ => (inSetC tag) && (rm != 6 && rm != 7)
  | .vcvts _ tag _ _ _ rm _ _ => (inSetC tag) && (rm != 6 && rm != 7)
  | .vtag _ tag _ _ => (inSetT tag)
  | .vtagr _ _ _ => true
  | .vquant _ tag _ _ _ rm chunk _ => (inSetQ tag) && (rm != 6 && rm != 7) && (quantChunkOk tag chunk)
  | .vdeq _ _ _ _ rm chunk _ => (rm != 6 && rm != 7) && (chunk.ult 8)
  | .vscl _ tag _ _ _ => (inSetQ tag)
  | .scvt _ src dt _ _ rm => (src != dt) && (rm != 6 && rm != 7)
  | .vadd _ code _ _ _ _ _ _ => (inSetINT code)
  | .vsub _ code _ _ _ _ _ _ => (inSetINT code)
  | .vadds _ code _ _ _ _ _ _ => (inSetINT code)
  | .vsubs _ code _ _ _ _ _ _ => (inSetINT code)
  | .vabs _ code _ _ _ _ _ => (inSetI code)
  | .vmul _ code _ _ _ _ _ _ => (inSetINT code)
  | .vmulh _ code _ _ _ _ _ _ => (inSetI code)
  | .vmulhn _ code _ _ _ _ _ _ => (inSetN code)
  | .vmin _ code _ _ _ _ _ _ => (inSetI code)
  | .vminn _ code _ _ _ _ _ _ => (inSetN code)
  | .vmax _ code _ _ _ _ _ _ => (inSetI code)
  | .vmaxn _ code _ _ _ _ _ _ => (inSetN code)
  | .vfadd _ code _ _ _ rm _ _ _ => (inSetF code) && (rm != 6 && rm != 7)
  | .vfsub _ code _ _ _ rm _ _ _ => (inSetF code) && (rm != 6 && rm != 7)
  | .vfmul _ code _ _ _ rm _ _ _ => (inSetF code) && (rm != 6 && rm != 7)
  | .vfdiv _ code _ _ _ rm _ _ _ => (inSetF code) && (rm != 6 && rm != 7)
  | .vfma _ code _ _ _ rm _ _ _ => (inSetF code) && (rm != 6 && rm != 7)
  | .vfms _ code _ _ _ rm _ _ _ => (inSetF code) && (rm != 6 && rm != 7)
  | .vfnma _ code _ _ _ rm _ _ _ => (inSetF code) && (rm != 6 && rm != 7)
  | .vfnms _ code _ _ _ rm _ _ _ => (inSetF code) && (rm != 6 && rm != 7)
  | .vfmin _ code _ _ _ _ _ _ => (inSetF code)
  | .vfmax _ code _ _ _ _ _ _ => (inSetF code)
  | .vfabs _ code _ _ _ _ _ => (inSetF code)
  | .vfneg _ code _ _ _ _ _ => (inSetF code)
  | .vrcp _ code _ _ _ _ _ => (inSetH code)
  | .vrsq _ code _ _ _ _ _ => (inSetH code)
  | .vsqrt _ code _ _ rm _ _ _ => (inSetF code) && (rm != 6 && rm != 7)
  | .vexp2 _ code _ _ _ _ _ => (inSetH code)
  | .vlog2 _ code _ _ _ _ _ => (inSetH code)
  | .vcmp _ code _ _ _ cc _ _ _ => (inSetINT code) && (cc.ult 6)
  | .vfcmp _ code _ _ _ cc _ _ _ => (inSetF code) && (cc.ult 5)
  | .vfclass _ code _ _ _ _ _ => (inSetF code)
  | .vsel _ code _ _ _ _ _ => (inSetE code)
  | .vand _ code _ _ _ _ _ _ => (inSetL code)
  | .vor _ code _ _ _ _ _ _ => (inSetL code)
  | .vxor _ code _ _ _ _ _ _ => (inSetL code)
  | .vandn _ code _ _ _ _ _ _ => (inSetL code)
  | .vshl _ code _ _ _ _ _ _ => (inSetINT code)
  | .vshr _ code _ _ _ _ _ _ => (inSetINT code)
  | .vshra _ code _ _ _ _ _ _ => (inSetINT code)
  | .vbcast _ code _ _ _ _ src => (inSetE code) && ((match src with | .g _ => !(codeNeedsV code) | .v _ _ => true))
  | .vext _ _ _ _ _ _ _ => true
  | .vins _ _ _ _ _ _ => true
  | .vperm _ _ _ _ _ _ _ _ => true
  | .vslideup _ _ _ _ _ _ _ _ _ => true
  | .vslidedn _ _ _ _ _ _ _ _ _ => true
  | .viota _ code _ _ _ _ _ _ => (inSetINT code)
  | .kand _ _ _ _ => true
  | .kor _ _ _ _ => true
  | .kxor _ _ _ _ => true
  | .knot _ _ _ => true
  | .kcnt _ _ _ _ => true
  | .kmov _ _ => true
  | .vradd _ code _ _ _ _ => (inSetINT code)
  | .vrmin _ code _ _ _ _ => (inSetINT code)
  | .vrmax _ code _ _ _ _ => (inSetINT code)
  | .vrfadd _ code _ _ rm _ _ => (inSetF code) && (rm != 6 && rm != 7)
  | .vrfmin _ code _ _ _ _ => (inSetF code)
  | .vrfmax _ code _ _ _ _ => (inSetF code)
  | .scfg _ _ _ _ _ => true
  | .sfree _ _ => true
  | .vloop _ _ _ => true
  | .vmov _ _ _ => true
  | .vmovgFromG _ code _ a => (inSetG code) && (groupOk 16 64 a.val)
  | .vmovgToG _ d _ => (groupOk 16 64 d.val)
  | .vmadd _ _ _ _ _ _ _ => true
  | .vmsub _ _ _ _ _ _ _ => true
  | .vmneg _ _ _ _ _ _ => true
  | .vmmul _ _ _ _ _ _ _ => true
  | .vmmac _ _ _ _ _ _ _ => true
  | .vmred _ _ _ _ _ _ _ => true
  | .vmcvtI64 _ _ _ _ _ => true
  | .vmcvtMn _ _ _ _ _ _ => true
  | .vmcvtMs _ _ _ _ _ _ => true
  | .mqgen _ _ _ => true
  | .mqld _ _ _ _ => true
  | .bfly _ d a _ _ => (groupOk 2 48 d.val) && (!(inGroup 2 d.val a.val))
  | .ibfly _ d a _ _ => (groupOk 2 48 d.val) && (!(inGroup 2 d.val a.val))
  | .bperm _ _ _ _ => true
  | .bpermx _ d _ => (groupOk 2 48 d.val)
  | .vbitrev _ _ _ b => (b != 0 && b.ult 5)
  | .vfft2 _ d a rm _ _ => (groupOk 2 48 d.val) && (!(inGroup 2 d.val a.val)) && (rm != 6 && rm != 7)
  | .vcmul _ _ _ _ rm _ _ _ => (rm != 6 && rm != 7)
  | .zalloc _ _ _ => true
  | .zfree _ _ => true
  | .zzero _ _ _ => true
  | .zmma _ tag _ _ _ _ sc => (inSetMX tag) && (!(sc && isIntMX tag))
  | .zmmas _ tag _ _ _ _ sc => (inSetMX tag) && (!(sc && isIntMX tag))
  | .zldc _ _ _ _ _ => true
  | .zstore _ dt _ rm _ _ => (inSetZst dt) && (zstoreRmOk dt rm)
  | .zread _ d _ x _ c => (groupOk (1 <<< x.toNat) 48 d.val) && (x != 3) && (zchunkOk x c)
  | .zwm _ _ _ => true
  | .zwait _ _ _ _ => true
  | .zscl _ _ _ _ _ _ => true
  | .zstatT _ _ _ _ => true
  | .zstatF _ _ _ => true
  | .zstatS _ _ => true

/-- The constructors that are instruction words; the others are events of the device. -/
def Instr.isWord : Instr → Bool
  | .dividerResult _ => false
  | .evcWrite _ _ _ => false
  | .bcfgWrite _ _ _ => false
  | .globalAccessComplete _ => false
  | .pageWalk _ _ _ => false
  | .l1dEviction _ _ _ => false
  | .eventMessage _ => false
  | .barrierArrivalMessage _ => false
  | .barrierReleaseMessage _ => false
  | .channelClaim _ => false
  | .channelClaimAnswer _ _ => false
  | .channelMessageLand _ _ _ => false
  | .channelGrant _ _ => false
  | .timedMessageLand _ _ _ => false
  | .streamChunkArrive _ _ => false
  | .arrayOpStart _ _ => false
  | .arrayRowWrite _ _ _ => false
  | .arrayOpFinish _ _ => false
  | .scaleWriteRelease _ _ => false
  | .commandComplete _ _ _ => false
  | .commandFail _ _ _ => false
  | .collectiveGeneration _ _ _ => false
  | .spsumPairAdd _ => false
  | .storageCompletion _ _ _ => false
  | .networkReceive _ _ _ _ => false
  | .xbarPulseArrive _ => false
  | .yieldRequest _ => false
  | .graceExpiry _ => false
  | .launchWindowWrite _ _ _ _ => false
  | .launchActivate _ _ => false
  | .launchComplete _ _ => false
  | .taskPop _ => false
  | .idleSearchWiden _ => false
  | .queueAging => false
  | .domainCharge => false
  | .auditReplay _ _ _ _ => false
  | .saddleTick => false
  | .packetEject _ => false
  | .colChannelEscape _ => false
  | .dataFrameReceive _ _ _ => false
  | .replayRequest _ _ _ => false
  | .probeTimeout _ _ => false
  | .probe _ _ => false
  | .digest _ _ _ _ => false
  | .resetRequest _ _ _ => false
  | .linkRetrain _ _ => false
  | .linkReroute => false
  | .diagnosisVote _ _ _ _ => false
  | .dieTakeover _ _ => false
  | .dieMapFlip => false
  | .peerWindowAccess _ _ _ _ => false
  | .postedWriteArrive _ _ => false
  | .cxlMemAccess _ _ => false
  | .fabricRecall _ _ => false
  | .remoteAccessArrive _ _ _ => false
  | .layoutRequest _ => false
  | .layoutFlip => false
  | .protectionRequest _ _ => false
  | .attestationRequest _ => false
  | .serverMaskRequest _ => false
  | .spWatchdogReset _ => false
  | .spLoss _ => false
  | .vdSnapshot _ => false
  | .epochStart _ _ => false
  | .epochCommit _ => false
  | .groupRebuild _ _ _ => false
  | .packageLoss _ _ => false
  | .coreHangTimeout _ => false
  | .coreFailure _ => false
  | .clusterFailure _ => false
  | .l2SliceFence _ _ => false
  | .stackLoss _ => false
  | .ioDieLoss _ => false
  | .hbmScrub _ => false
  | .hbmRowRepair _ => false
  | .scoreDecay => false
  | .unitDrain _ => false
  | .unitTestDone _ _ => false
  | .bringUp _ _ _ => false
  | .vcoreDroop _ _ => false
  | .thermalThrottle _ _ => false
  | .powerCap _ => false
  | .thermalShutdown _ => false
  | .packageReset => false
  | .protectionGroupTimeout _ => false
  | .pwctlWrite _ _ => false
  | .vcoreRecovery _ _ => false
  | .throttleRelease _ _ => false
  | .haltRestart _ => false
  | .haltedPartitionEnd _ => false
  | .remoteSpareLend _ => false
  | .vdMigration _ _ _ => false
  | .nop _ => true
  | .timed _ => true
  | .checked _ => true
  | .gang _ _ _ => true
  | .gsplit _ => true
  | .gjoin _ => true
  | .ld _ _ _ _ _ _ => true
  | .st _ _ _ _ _ => true
  | .vld _ _ _ _ _ _ => true
  | .vst _ _ _ _ _ => true
  | .vldImg _ _ _ _ _ => true
  | .vstImg _ _ _ _ _ => true
  | .vldl _ _ _ _ _ _ => true
  | .vstl _ _ _ _ _ => true
  | .vgath _ _ _ _ _ _ => true
  | .vscat _ _ _ _ _ => true
  | .kld _ _ _ _ => true
  | .kst _ _ _ _ => true
  | .gld _ _ _ _ _ _ => true
  | .gst _ _ _ _ _ => true
  | .gldV _ _ _ _ _ _ => true
  | .gstV _ _ _ _ _ => true
  | .gldImg _ _ _ _ _ => true
  | .gstImg _ _ _ _ _ => true
  | .rwb _ _ _ => true
  | .rinv _ _ _ => true
  | .rwbi _ _ _ => true
  | .pref _ _ _ _ => true
  | .amo _ _ _ _ _ _ _ _ => true
  | .cas _ _ _ _ _ _ _ => true
  | .red _ _ _ _ _ _ _ => true
  | .evsigEv _ _ _ _ => true
  | .evsigUnlock _ _ => true
  | .evsigPulse _ _ _ => true
  | .ldevWait _ _ _ => true
  | .ldevPoll _ _ _ => true
  | .ldevLock _ _ _ => true
  | .ldevTry _ _ _ => true
  | .bar _ _ => true
  | .barss _ _ => true
  | .spred _ _ _ _ _ => true
  | .fence _ _ _ => true
  | .chdecl _ _ _ _ _ => true
  | .chdeclRel _ _ => true
  | .chsend _ _ _ => true
  | .chrecv _ _ _ => true
  | .chpoll _ _ _ _ => true
  | .phase _ _ => true
  | .tsend _ _ _ => true
  | .trecv _ _ _ => true
  | .xcopy _ _ _ _ => true
  | .xgath _ _ _ _ => true
  | .xscat _ _ _ _ => true
  | .xfill _ _ _ _ => true
  | .xcoll _ _ _ _ => true
  | .xwait _ _ _ => true
  | .xseq _ _ _ => true
  | .xcancel _ _ _ _ => true
  | .evxcfgC _ _ _ => true
  | .evxcfgT _ _ _ _ => true
  | .evxcfgR _ _ _ _ => true
  | .evxarm _ _ _ _ _ => true
  | .sring _ _ _ _ => true
  | .nsend _ _ _ _ => true
  | .launch _ _ _ _ => true
  | .spawn _ _ _ _ => true
  | .spawnR _ _ _ _ _ => true
  | .join _ _ _ => true
  | .tend _ => true
  | .wid _ _ => true
  | .widf _ _ _ _ => true
  | .corenum _ _ _ => true
  | .cdopen _ _ => true
  | .cdclose _ _ => true
  | .cdabort _ => true
  | .cdabortRetry _ => true
  | .cdkeep _ _ _ _ => true
  | .cdsig _ _ _ => true
  | .rdsys _ _ _ => true
  | .wrsys _ _ _ => true
  | .fbpop0Read _ _ => true
  | .derrpopRead _ _ => true
  | .fbstatDropClear _ _ => true
  | .spdoorClear _ _ => true
  | .slotctlGo _ _ => true
  | .swzWrite _ _ _ => true
  | .zshareWrite _ _ => true
  | .syscall _ _ => true
  | .bkpt _ _ => true
  | .xret _ => true
  | .wfi _ => true
  | .halt _ => true
  | .tlbinvPage _ _ _ => true
  | .tlbinvVsid _ _ => true
  | .tlbinvAll _ => true
  | .tlbreplay _ _ => true
  | .ldovt _ _ _ => true
  | .ctxsave _ _ _ _ _ => true
  | .ctxload _ _ _ _ => true
  | .add _ _ _ _ _ => true
  | .sub _ _ _ _ _ => true
  | .andR _ _ _ _ => true
  | .orR _ _ _ _ => true
  | .xorR _ _ _ _ => true
  | .andn _ _ _ _ => true
  | .orn _ _ _ _ => true
  | .neg _ _ _ _ => true
  | .addi _ _ _ _ _ => true
  | .andi _ _ _ _ => true
  | .ori _ _ _ _ => true
  | .xori _ _ _ _ => true
  | .shl _ _ _ _ _ => true
  | .shr _ _ _ _ _ => true
  | .shra _ _ _ _ _ => true
  | .rol _ _ _ _ _ => true
  | .ror _ _ _ _ _ => true
  | .mul _ _ _ _ _ => true
  | .mulh _ _ _ _ _ => true
  | .mulhn _ _ _ _ _ => true
  | .div _ _ _ _ _ => true
  | .divn _ _ _ _ _ => true
  | .rem _ _ _ _ _ => true
  | .remn _ _ _ _ _ => true
  | .clz _ _ _ _ => true
  | .ctz _ _ _ _ => true
  | .popc _ _ _ _ => true
  | .brev _ _ _ _ => true
  | .bswap _ _ _ _ => true
  | .bfx _ _ _ _ _ _ => true
  | .bfxn _ _ _ _ _ _ => true
  | .bfi _ _ _ _ _ _ => true
  | .min _ _ _ _ _ => true
  | .minn _ _ _ _ _ => true
  | .max _ _ _ _ _ => true
  | .maxn _ _ _ _ _ => true
  | .sel _ _ _ _ _ _ => true
  | .mov _ _ _ => true
  | .movi _ _ _ => true
  | .movhi _ _ _ => true
  | .movp _ _ => true
  | .lea _ _ _ _ _ _ => true
  | .cmp _ _ _ _ _ _ => true
  | .fadd _ _ _ _ _ _ => true
  | .fsub _ _ _ _ _ _ => true
  | .fmul _ _ _ _ _ _ => true
  | .fdiv _ _ _ _ _ _ => true
  | .fsqrt _ _ _ _ _ => true
  | .fma _ _ _ _ _ _ => true
  | .fcmp _ _ _ _ _ _ => true
  | .fclass _ _ _ _ => true
  | .fmin _ _ _ _ _ => true
  | .fmax _ _ _ _ _ => true
  | .fabs _ _ _ _ => true
  | .fneg _ _ _ _ => true
  | .fcpys _ _ _ _ _ => true
  | .br _ _ _ => true
  | .call _ _ _ => true
  | .jr _ _ _ _ => true
  | .callr _ _ _ _ => true
  | .ret _ _ => true
  | .loop _ _ _ => true
  | .loopi _ _ _ => true
  | .pand _ _ _ _ _ _ => true
  | .por _ _ _ _ _ _ => true
  | .pxor _ _ _ _ _ _ => true
  | .pnot _ _ _ => true
  | .pmov _ _ _ => true
  | .vcvt _ _ _ _ _ _ _ => true
  | .vcvts _ _ _ _ _ _ _ _ => true
  | .vtag _ _ _ _ => true
  | .vtagr _ _ _ => true
  | .vquant _ _ _ _ _ _ _ _ => true
  | .vdeq _ _ _ _ _ _ _ => true
  | .vscl _ _ _ _ _ => true
  | .scvt _ _ _ _ _ _ => true
  | .vadd _ _ _ _ _ _ _ _ => true
  | .vsub _ _ _ _ _ _ _ _ => true
  | .vadds _ _ _ _ _ _ _ _ => true
  | .vsubs _ _ _ _ _ _ _ _ => true
  | .vabs _ _ _ _ _ _ _ => true
  | .vmul _ _ _ _ _ _ _ _ => true
  | .vmulh _ _ _ _ _ _ _ _ => true
  | .vmulhn _ _ _ _ _ _ _ _ => true
  | .vmin _ _ _ _ _ _ _ _ => true
  | .vminn _ _ _ _ _ _ _ _ => true
  | .vmax _ _ _ _ _ _ _ _ => true
  | .vmaxn _ _ _ _ _ _ _ _ => true
  | .vfadd _ _ _ _ _ _ _ _ _ => true
  | .vfsub _ _ _ _ _ _ _ _ _ => true
  | .vfmul _ _ _ _ _ _ _ _ _ => true
  | .vfdiv _ _ _ _ _ _ _ _ _ => true
  | .vfma _ _ _ _ _ _ _ _ _ => true
  | .vfms _ _ _ _ _ _ _ _ _ => true
  | .vfnma _ _ _ _ _ _ _ _ _ => true
  | .vfnms _ _ _ _ _ _ _ _ _ => true
  | .vfmin _ _ _ _ _ _ _ _ => true
  | .vfmax _ _ _ _ _ _ _ _ => true
  | .vfabs _ _ _ _ _ _ _ => true
  | .vfneg _ _ _ _ _ _ _ => true
  | .vrcp _ _ _ _ _ _ _ => true
  | .vrsq _ _ _ _ _ _ _ => true
  | .vsqrt _ _ _ _ _ _ _ _ => true
  | .vexp2 _ _ _ _ _ _ _ => true
  | .vlog2 _ _ _ _ _ _ _ => true
  | .vcmp _ _ _ _ _ _ _ _ _ => true
  | .vfcmp _ _ _ _ _ _ _ _ _ => true
  | .vfclass _ _ _ _ _ _ _ => true
  | .vsel _ _ _ _ _ _ _ => true
  | .vand _ _ _ _ _ _ _ _ => true
  | .vor _ _ _ _ _ _ _ _ => true
  | .vxor _ _ _ _ _ _ _ _ => true
  | .vandn _ _ _ _ _ _ _ _ => true
  | .vshl _ _ _ _ _ _ _ _ => true
  | .vshr _ _ _ _ _ _ _ _ => true
  | .vshra _ _ _ _ _ _ _ _ => true
  | .vbcast _ _ _ _ _ _ _ => true
  | .vext _ _ _ _ _ _ _ => true
  | .vins _ _ _ _ _ _ => true
  | .vperm _ _ _ _ _ _ _ _ => true
  | .vslideup _ _ _ _ _ _ _ _ _ => true
  | .vslidedn _ _ _ _ _ _ _ _ _ => true
  | .viota _ _ _ _ _ _ _ _ => true
  | .kand _ _ _ _ => true
  | .kor _ _ _ _ => true
  | .kxor _ _ _ _ => true
  | .knot _ _ _ => true
  | .kcnt _ _ _ _ => true
  | .kmov _ _ => true
  | .vradd _ _ _ _ _ _ => true
  | .vrmin _ _ _ _ _ _ => true
  | .vrmax _ _ _ _ _ _ => true
  | .vrfadd _ _ _ _ _ _ _ => true
  | .vrfmin _ _ _ _ _ _ => true
  | .vrfmax _ _ _ _ _ _ => true
  | .scfg _ _ _ _ _ => true
  | .sfree _ _ => true
  | .vloop _ _ _ => true
  | .vmov _ _ _ => true
  | .vmovgFromG _ _ _ _ => true
  | .vmovgToG _ _ _ => true
  | .vmadd _ _ _ _ _ _ _ => true
  | .vmsub _ _ _ _ _ _ _ => true
  | .vmneg _ _ _ _ _ _ => true
  | .vmmul _ _ _ _ _ _ _ => true
  | .vmmac _ _ _ _ _ _ _ => true
  | .vmred _ _ _ _ _ _ _ => true
  | .vmcvtI64 _ _ _ _ _ => true
  | .vmcvtMn _ _ _ _ _ _ => true
  | .vmcvtMs _ _ _ _ _ _ => true
  | .mqgen _ _ _ => true
  | .mqld _ _ _ _ => true
  | .bfly _ _ _ _ _ => true
  | .ibfly _ _ _ _ _ => true
  | .bperm _ _ _ _ => true
  | .bpermx _ _ _ => true
  | .vbitrev _ _ _ _ => true
  | .vfft2 _ _ _ _ _ _ => true
  | .vcmul _ _ _ _ _ _ _ _ => true
  | .zalloc _ _ _ => true
  | .zfree _ _ => true
  | .zzero _ _ _ => true
  | .zmma _ _ _ _ _ _ _ => true
  | .zmmas _ _ _ _ _ _ _ => true
  | .zldc _ _ _ _ _ => true
  | .zstore _ _ _ _ _ _ => true
  | .zread _ _ _ _ _ _ => true
  | .zwm _ _ _ => true
  | .zwait _ _ _ _ => true
  | .zscl _ _ _ _ _ _ => true
  | .zstatT _ _ _ _ => true
  | .zstatF _ _ _ => true
  | .zstatS _ _ => true

/-- An instruction that some word encodes. -/
def Instr.WellFormed (i : Instr) : Prop := i.wf = true ∧ i.isWord = true

end Sys2Proof
end

