-- ==== Sys2Proof/Decode.lean ====
section
/-! DEFINITION. The 96-bit instruction word: its fields (R20), the decode checks in their order (R37), the form that
each opcode and FN name, and the encoder written from the same tables. The decoder is marked noncomputable only
because the runtime bounds how many constructors of one type compiled code can build; it reduces by structural
recursion and arithmetic alone. -/
namespace Sys2Proof

/-- An instruction word: 96 bits (R20). -/
abbrev IWord := BitVec 96

/-- The fields of an instruction word (R20). -/
structure Raw where
  opc : BitVec 8
  grd : BitVec 4
  hnt : BitVec 14
  dst : BitVec 7
  sa : BitVec 7
  sb : BitVec 7
  fn : BitVec 9
  mod : BitVec 8
  imm : BitVec 32
  deriving DecidableEq, Repr

/-- The hint field of a header: bits [83:79] are reserved and zero (R26). -/
def Hdr.hnt (h : Hdr) : BitVec 14 :=
  0#5 ++ BitVec.ofBool h.pri ++ BitVec.ofBool h.holdD ++ BitVec.ofBool h.holdB ++ BitVec.ofBool h.holdA ++
    BitVec.ofBool h.yld ++ h.stall

/-- The header that the guard and hint fields hold (R23, R26). -/
def Raw.hdr (r : Raw) : Hdr :=
  { grd := r.grd, stall := r.hnt.extractLsb' 0 4, yld := r.hnt.getLsbD 4, holdA := r.hnt.getLsbD 5,
    holdB := r.hnt.getLsbD 6, holdD := r.hnt.getLsbD 7, pri := r.hnt.getLsbD 8 }

/-- A word of an opcode with a header, every other field zero. -/
def Raw.base (opc : BitVec 8) (h : Hdr) : Raw :=
  { opc := opc, grd := h.grd, hnt := h.hnt, dst := 0#7, sa := 0#7, sb := 0#7, fn := 0#9, mod := 0#8, imm := 0#32 }

/-- The word of its fields (R20). -/
def Raw.pack (r : Raw) : IWord :=
  r.opc ++ r.grd ++ r.hnt ++ r.dst ++ r.sa ++ r.sb ++ r.fn ++ r.mod ++ r.imm

/-- The fields of a word (R20). -/
def Raw.unpack (w : IWord) : Raw :=
  { opc := w.extractLsb' 88 8, grd := w.extractLsb' 84 4, hnt := w.extractLsb' 70 14, dst := w.extractLsb' 63 7,
    sa := w.extractLsb' 56 7, sb := w.extractLsb' 49 7, fn := w.extractLsb' 40 9, mod := w.extractLsb' 32 8,
    imm := w.extractLsb' 0 32 }

/-- The operand number of a general register (R32). -/
def opG (r : GReg) : BitVec 7 := BitVec.ofNat 7 r.val
/-- The operand number of a vector register (R32). -/
def opV (r : VReg) : BitVec 7 := BitVec.ofNat 7 (64 + r.val)
/-- The operand number of a predicate (R32). -/
def opP (r : PReg) : BitVec 7 := BitVec.ofNat 7 (112 + r.val)
/-- The operand number of a lane mask (R32). -/
def opK (r : KReg) : BitVec 7 := BitVec.ofNat 7 (120 + r.val)
/-- The operand number of a vector or general source. -/
def opVG : VGSrc → BitVec 7
  | .v r => opV r
  | .g r => opG r

/-- Reads an operand number as a general register; meant for numbers below 64. -/
def gOf (x : BitVec 7) : GReg := ⟨x.toNat % 64, Nat.mod_lt _ (by decide)⟩
/-- Reads an operand number as a vector register; meant for numbers 64 to 111. -/
def vOf (x : BitVec 7) : VReg := ⟨(x.toNat - 64) % 48, Nat.mod_lt _ (by decide)⟩
/-- Reads an operand number as a predicate; meant for numbers 112 to 119. -/
def pOf (x : BitVec 7) : PReg := ⟨(x.toNat - 112) % 8, Nat.mod_lt _ (by decide)⟩
/-- Reads an operand number as a lane mask; meant for numbers 120 to 127. -/
def kOf (x : BitVec 7) : KReg := ⟨(x.toNat - 120) % 8, Nat.mod_lt _ (by decide)⟩
/-- The number names a general register (R32). -/
def isG (x : BitVec 7) : Bool := x.ult 64#7
/-- The number names a vector register (R32). -/
def isV (x : BitVec 7) : Bool := (64#7).ule x && x.ult 112#7
/-- The number names a predicate (R32). -/
def isP (x : BitVec 7) : Bool := (112#7).ule x && x.ult 120#7
/-- The number names a lane mask (R32). -/
def isK (x : BitVec 7) : Bool := (120#7).ule x
/-- Reads an operand number as a vector or general source. -/
def vgOf (x : BitVec 7) : VGSrc := if isG x then .g (gOf x) else .v (vOf x)

/-- Three bits as a number below 8. -/
def fin8 (x : BitVec 3) : Fin 8 := x.toFin
/-- Two bits as a number below 4. -/
def fin4 (x : BitVec 2) : Fin 4 := x.toFin
/-- One flag at bit `lo` of a field. -/
def bitAt (w lo : Nat) (b : Bool) : BitVec w := if b then BitVec.ofNat w (1 <<< lo) else 0

/-- The register classes that an operand field may name (R33). -/
inductive Cls where
  | none | g | v | p | k | vg | gp | gk
  deriving DecidableEq, Repr

/-- Check 8 of R37: the number is of the class. -/
def Cls.ok : Cls → BitVec 7 → Bool
  | .none, _ => true
  | .g, x => isG x
  | .v, x => isV x
  | .p, x => isP x
  | .k, x => isK x
  | .vg, x => isG x || isV x
  | .gp, x => isG x || isP x
  | .gk, x => isG x || isK x

/-- The number of a register within its own file. -/
def fileIndex (x : BitVec 7) : Nat :=
  if isG x then x.toNat else if isV x then x.toNat - 64 else if isP x then x.toNat - 112 else x.toNat - 120

/-- The size of the file an operand number lies in. -/
def fileSize (x : BitVec 7) : Nat := if isG x then 64 else if isV x then 48 else 8

/-- What the operand tables say of one form: the checks of R37 that depend on it. -/
structure Shape where
  modOk : Bool
  immBad : BitVec 32
  immOk : Bool
  dst : Cls
  sa : Cls
  sb : Cls
  dn : Nat
  an : Nat
  bn : Nat

/-- A form with the instruction its fields give. -/
structure Sel where
  shape : Shape
  instr : Instr

/-- What decoding answers: an instruction, or the trap of the first failing check (R37). -/
inductive Decoded where
  | ok (i : Instr)
  | bad (c : Cause) (x : BitVec 64)
  deriving DecidableEq, Repr

/-- The forms of opcode 0x01 (R107, R108, R109): the row of its table that FN, and where the table says so MOD or IMM, selects, with the
classes of its operand fields and the bits that must be 0. Any other FN is none: ILLEGAL_OPC at check 4 (R37). -/
def form01 (r : Raw) (h : Hdr) : Option Sel :=
  if r.fn == 0#9 then
    some ⟨{ modOk := r.mod &&& 239#8 == 0#8, immBad := 0xFFFFFFFF#32, immOk := true, dst := .g, sa := .g, sb := .g, dn := 1, an := 1, bn := 1 },
        .add h (gOf r.dst) (gOf r.sa) (gOf r.sb) (r.mod.getLsbD 4)⟩
  else
  if r.fn == 1#9 then
    some ⟨{ modOk := r.mod &&& 239#8 == 0#8, immBad := 0xFFFFFFFF#32, immOk := true, dst := .g, sa := .g, sb := .g, dn := 1, an := 1, bn := 1 },
        .sub h (gOf r.dst) (gOf r.sa) (gOf r.sb) (r.mod.getLsbD 4)⟩
  else
  if r.fn == 2#9 then
    some ⟨{ modOk := r.mod &&& 255#8 == 0#8, immBad := 0xFFFFFFFF#32, immOk := true, dst := .g, sa := .g, sb := .g, dn := 1, an := 1, bn := 1 },
        .andR h (gOf r.dst) (gOf r.sa) (gOf r.sb)⟩
  else
  if r.fn == 3#9 then
    some ⟨{ modOk := r.mod &&& 255#8 == 0#8, immBad := 0xFFFFFFFF#32, immOk := true, dst := .g, sa := .g, sb := .g, dn := 1, an := 1, bn := 1 },
        .orR h (gOf r.dst) (gOf r.sa) (gOf r.sb)⟩
  else
  if r.fn == 4#9 then
    some ⟨{ modOk := r.mod &&& 255#8 == 0#8, immBad := 0xFFFFFFFF#32, immOk := true, dst := .g, sa := .g, sb := .g, dn := 1, an := 1, bn := 1 },
        .xorR h (gOf r.dst) (gOf r.sa) (gOf r.sb)⟩
  else
  if r.fn == 5#9 then
    some ⟨{ modOk := r.mod &&& 255#8 == 0#8, immBad := 0xFFFFFFFF#32, immOk := true, dst := .g, sa := .g, sb := .g, dn := 1, an := 1, bn := 1 },
        .andn h (gOf r.dst) (gOf r.sa) (gOf r.sb)⟩
  else
  if r.fn == 6#9 then
    some ⟨{ modOk := r.mod &&& 255#8 == 0#8, immBad := 0xFFFFFFFF#32, immOk := true, dst := .g, sa := .g, sb := .g, dn := 1, an := 1, bn := 1 },
        .orn h (gOf r.dst) (gOf r.sa) (gOf r.sb)⟩
  else
  if r.fn == 7#9 then
    some ⟨{ modOk := r.mod &&& 239#8 == 0#8, immBad := 0xFFFFFFFF#32, immOk := true, dst := .g, sa := .g, sb := .none, dn := 1, an := 1, bn := 1 },
        .neg h (gOf r.dst) (gOf r.sa) (r.mod.getLsbD 4)⟩
  else none

/-- The forms of opcode 0x02 (R107, R108, R109): the row of its table that FN, and where the table says so MOD or IMM, selects, with the
classes of its operand fields and the bits that must be 0. Any other FN is none: ILLEGAL_OPC at check 4 (R37). -/
def form02 (r : Raw) (h : Hdr) : Option Sel :=
  if r.fn == 0#9 then
    some ⟨{ modOk := r.mod &&& 239#8 == 0#8, immBad := 0x00000000#32, immOk := true, dst := .g, sa := .g, sb := .none, dn := 1, an := 1, bn := 1 },
        .addi h (gOf r.dst) (gOf r.sa) (r.mod.getLsbD 4) r.imm⟩
  else
  if r.fn == 1#9 then
    some ⟨{ modOk := r.mod &&& 255#8 == 0#8, immBad := 0x00000000#32, immOk := true, dst := .g, sa := .g, sb := .none, dn := 1, an := 1, bn := 1 },
        .andi h (gOf r.dst) (gOf r.sa) r.imm⟩
  else
  if r.fn == 2#9 then
    some ⟨{ modOk := r.mod &&& 255#8 == 0#8, immBad := 0x00000000#32, immOk := true, dst := .g, sa := .g, sb := .none, dn := 1, an := 1, bn := 1 },
        .ori h (gOf r.dst) (gOf r.sa) r.imm⟩
  else
  if r.fn == 3#9 then
    some ⟨{ modOk := r.mod &&& 255#8 == 0#8, immBad := 0x00000000#32, immOk := true, dst := .g, sa := .g, sb := .none, dn := 1, an := 1, bn := 1 },
        .xori h (gOf r.dst) (gOf r.sa) r.imm⟩
  else none

/-- The forms of opcode 0x03 (R107, R108, R109): the row of its table that FN, and where the table says so MOD or IMM, selects, with the
classes of its operand fields and the bits that must be 0. Any other FN is none: ILLEGAL_OPC at check 4 (R37). -/
def form03 (r : Raw) (h : Hdr) : Option Sel :=
  if r.fn == 0#9 then
    some ⟨{ modOk := r.mod &&& 207#8 == 0#8, immBad := (if r.mod.getLsbD 5 then (if r.mod.getLsbD 4 then 0xFFFFFFE0#32 else 0xFFFFFFC0#32) else 0xFFFFFFFF#32), immOk := true, dst := .g, sa := .g, sb := (if r.mod.getLsbD 5 then .none else .g), dn := 1, an := 1, bn := 1 },
        .shl h (gOf r.dst) (gOf r.sa) (r.mod.getLsbD 4) (if r.mod.getLsbD 5 then .imm (r.imm.extractLsb' 0 6) else .reg (gOf r.sb))⟩
  else
  if r.fn == 1#9 then
    some ⟨{ modOk := r.mod &&& 207#8 == 0#8, immBad := (if r.mod.getLsbD 5 then (if r.mod.getLsbD 4 then 0xFFFFFFE0#32 else 0xFFFFFFC0#32) else 0xFFFFFFFF#32), immOk := true, dst := .g, sa := .g, sb := (if r.mod.getLsbD 5 then .none else .g), dn := 1, an := 1, bn := 1 },
        .shr h (gOf r.dst) (gOf r.sa) (r.mod.getLsbD 4) (if r.mod.getLsbD 5 then .imm (r.imm.extractLsb' 0 6) else .reg (gOf r.sb))⟩
  else
  if r.fn == 2#9 then
    some ⟨{ modOk := r.mod &&& 207#8 == 0#8, immBad := (if r.mod.getLsbD 5 then (if r.mod.getLsbD 4 then 0xFFFFFFE0#32 else 0xFFFFFFC0#32) else 0xFFFFFFFF#32), immOk := true, dst := .g, sa := .g, sb := (if r.mod.getLsbD 5 then .none else .g), dn := 1, an := 1, bn := 1 },
        .shra h (gOf r.dst) (gOf r.sa) (r.mod.getLsbD 4) (if r.mod.getLsbD 5 then .imm (r.imm.extractLsb' 0 6) else .reg (gOf r.sb))⟩
  else
  if r.fn == 3#9 then
    some ⟨{ modOk := r.mod &&& 207#8 == 0#8, immBad := (if r.mod.getLsbD 5 then (if r.mod.getLsbD 4 then 0xFFFFFFE0#32 else 0xFFFFFFC0#32) else 0xFFFFFFFF#32), immOk := true, dst := .g, sa := .g, sb := (if r.mod.getLsbD 5 then .none else .g), dn := 1, an := 1, bn := 1 },
        .rol h (gOf r.dst) (gOf r.sa) (r.mod.getLsbD 4) (if r.mod.getLsbD 5 then .imm (r.imm.extractLsb' 0 6) else .reg (gOf r.sb))⟩
  else
  if r.fn == 4#9 then
    some ⟨{ modOk := r.mod &&& 207#8 == 0#8, immBad := (if r.mod.getLsbD 5 then (if r.mod.getLsbD 4 then 0xFFFFFFE0#32 else 0xFFFFFFC0#32) else 0xFFFFFFFF#32), immOk := true, dst := .g, sa := .g, sb := (if r.mod.getLsbD 5 then .none else .g), dn := 1, an := 1, bn := 1 },
        .ror h (gOf r.dst) (gOf r.sa) (r.mod.getLsbD 4) (if r.mod.getLsbD 5 then .imm (r.imm.extractLsb' 0 6) else .reg (gOf r.sb))⟩
  else none

/-- The forms of opcode 0x04 (R107, R108, R109): the row of its table that FN, and where the table says so MOD or IMM, selects, with the
classes of its operand fields and the bits that must be 0. Any other FN is none: ILLEGAL_OPC at check 4 (R37). -/
def form04 (r : Raw) (h : Hdr) : Option Sel :=
  if r.fn == 0#9 then
    some ⟨{ modOk := r.mod &&& 239#8 == 0#8, immBad := 0xFFFFFFFF#32, immOk := true, dst := .g, sa := .g, sb := .g, dn := 1, an := 1, bn := 1 },
        .mul h (gOf r.dst) (gOf r.sa) (gOf r.sb) (r.mod.getLsbD 4)⟩
  else
  if r.fn == 1#9 then
    some ⟨{ modOk := r.mod &&& 239#8 == 0#8, immBad := 0xFFFFFFFF#32, immOk := true, dst := .g, sa := .g, sb := .g, dn := 1, an := 1, bn := 1 },
        .mulh h (gOf r.dst) (gOf r.sa) (gOf r.sb) (r.mod.getLsbD 4)⟩
  else
  if r.fn == 2#9 then
    some ⟨{ modOk := r.mod &&& 239#8 == 0#8, immBad := 0xFFFFFFFF#32, immOk := true, dst := .g, sa := .g, sb := .g, dn := 1, an := 1, bn := 1 },
        .mulhn h (gOf r.dst) (gOf r.sa) (gOf r.sb) (r.mod.getLsbD 4)⟩
  else
  if r.fn == 3#9 then
    some ⟨{ modOk := r.mod &&& 239#8 == 0#8, immBad := 0xFFFFFFFF#32, immOk := true, dst := .g, sa := .g, sb := .g, dn := 1, an := 1, bn := 1 },
        .div h (gOf r.dst) (gOf r.sa) (gOf r.sb) (r.mod.getLsbD 4)⟩
  else
  if r.fn == 4#9 then
    some ⟨{ modOk := r.mod &&& 239#8 == 0#8, immBad := 0xFFFFFFFF#32, immOk := true, dst := .g, sa := .g, sb := .g, dn := 1, an := 1, bn := 1 },
        .divn h (gOf r.dst) (gOf r.sa) (gOf r.sb) (r.mod.getLsbD 4)⟩
  else
  if r.fn == 5#9 then
    some ⟨{ modOk := r.mod &&& 239#8 == 0#8, immBad := 0xFFFFFFFF#32, immOk := true, dst := .g, sa := .g, sb := .g, dn := 1, an := 1, bn := 1 },
        .rem h (gOf r.dst) (gOf r.sa) (gOf r.sb) (r.mod.getLsbD 4)⟩
  else
  if r.fn == 6#9 then
    some ⟨{ modOk := r.mod &&& 239#8 == 0#8, immBad := 0xFFFFFFFF#32, immOk := true, dst := .g, sa := .g, sb := .g, dn := 1, an := 1, bn := 1 },
        .remn h (gOf r.dst) (gOf r.sa) (gOf r.sb) (r.mod.getLsbD 4)⟩
  else none

/-- The forms of opcode 0x05 (R107, R108, R109): the row of its table that FN, and where the table says so MOD or IMM, selects, with the
classes of its operand fields and the bits that must be 0. Any other FN is none: ILLEGAL_OPC at check 4 (R37). -/
def form05 (r : Raw) (h : Hdr) : Option Sel :=
  if r.fn == 0#9 then
    some ⟨{ modOk := r.mod &&& 239#8 == 0#8, immBad := 0xFFFFFFFF#32, immOk := true, dst := .g, sa := .g, sb := .none, dn := 1, an := 1, bn := 1 },
        .clz h (gOf r.dst) (gOf r.sa) (r.mod.getLsbD 4)⟩
  else
  if r.fn == 1#9 then
    some ⟨{ modOk := r.mod &&& 239#8 == 0#8, immBad := 0xFFFFFFFF#32, immOk := true, dst := .g, sa := .g, sb := .none, dn := 1, an := 1, bn := 1 },
        .ctz h (gOf r.dst) (gOf r.sa) (r.mod.getLsbD 4)⟩
  else
  if r.fn == 2#9 then
    some ⟨{ modOk := r.mod &&& 239#8 == 0#8, immBad := 0xFFFFFFFF#32, immOk := true, dst := .g, sa := .g, sb := .none, dn := 1, an := 1, bn := 1 },
        .popc h (gOf r.dst) (gOf r.sa) (r.mod.getLsbD 4)⟩
  else
  if r.fn == 3#9 then
    some ⟨{ modOk := r.mod &&& 239#8 == 0#8, immBad := 0xFFFFFFFF#32, immOk := true, dst := .g, sa := .g, sb := .none, dn := 1, an := 1, bn := 1 },
        .brev h (gOf r.dst) (gOf r.sa) (r.mod.getLsbD 4)⟩
  else
  if r.fn == 4#9 then
    some ⟨{ modOk := r.mod &&& 239#8 == 0#8, immBad := 0xFFFFFFFF#32, immOk := true, dst := .g, sa := .g, sb := .none, dn := 1, an := 1, bn := 1 },
        .bswap h (gOf r.dst) (gOf r.sa) (r.mod.getLsbD 4)⟩
  else none

/-- The forms of opcode 0x06 (R107, R108, R109): the row of its table that FN, and where the table says so MOD or IMM, selects, with the
classes of its operand fields and the bits that must be 0. Any other FN is none: ILLEGAL_OPC at check 4 (R37). -/
def form06 (r : Raw) (h : Hdr) : Option Sel :=
  if r.fn == 0#9 then
    some ⟨{ modOk := r.mod &&& 239#8 == 0#8, immBad := 0xFFFFE000#32, immOk := true, dst := .g, sa := .g, sb := .none, dn := 1, an := 1, bn := 1 },
        .bfx h (gOf r.dst) (gOf r.sa) (r.mod.getLsbD 4) (r.imm.extractLsb' 0 6) (r.imm.extractLsb' 6 7)⟩
  else
  if r.fn == 1#9 then
    some ⟨{ modOk := r.mod &&& 239#8 == 0#8, immBad := 0xFFFFE000#32, immOk := true, dst := .g, sa := .g, sb := .none, dn := 1, an := 1, bn := 1 },
        .bfxn h (gOf r.dst) (gOf r.sa) (r.mod.getLsbD 4) (r.imm.extractLsb' 0 6) (r.imm.extractLsb' 6 7)⟩
  else
  if r.fn == 2#9 then
    some ⟨{ modOk := r.mod &&& 239#8 == 0#8, immBad := 0xFFFFE000#32, immOk := true, dst := .g, sa := .g, sb := .none, dn := 1, an := 1, bn := 1 },
        .bfi h (gOf r.dst) (gOf r.sa) (r.mod.getLsbD 4) (r.imm.extractLsb' 0 6) (r.imm.extractLsb' 6 7)⟩
  else none

/-- The forms of opcode 0x07 (R107, R108, R109): the row of its table that FN, and where the table says so MOD or IMM, selects, with the
classes of its operand fields and the bits that must be 0. Any other FN is none: ILLEGAL_OPC at check 4 (R37). -/
def form07 (r : Raw) (h : Hdr) : Option Sel :=
  if r.fn == 0#9 then
    some ⟨{ modOk := r.mod &&& 239#8 == 0#8, immBad := 0xFFFFFFFF#32, immOk := true, dst := .g, sa := .g, sb := .g, dn := 1, an := 1, bn := 1 },
        .min h (gOf r.dst) (gOf r.sa) (gOf r.sb) (r.mod.getLsbD 4)⟩
  else
  if r.fn == 1#9 then
    some ⟨{ modOk := r.mod &&& 239#8 == 0#8, immBad := 0xFFFFFFFF#32, immOk := true, dst := .g, sa := .g, sb := .g, dn := 1, an := 1, bn := 1 },
        .minn h (gOf r.dst) (gOf r.sa) (gOf r.sb) (r.mod.getLsbD 4)⟩
  else
  if r.fn == 2#9 then
    some ⟨{ modOk := r.mod &&& 239#8 == 0#8, immBad := 0xFFFFFFFF#32, immOk := true, dst := .g, sa := .g, sb := .g, dn := 1, an := 1, bn := 1 },
        .max h (gOf r.dst) (gOf r.sa) (gOf r.sb) (r.mod.getLsbD 4)⟩
  else
  if r.fn == 3#9 then
    some ⟨{ modOk := r.mod &&& 239#8 == 0#8, immBad := 0xFFFFFFFF#32, immOk := true, dst := .g, sa := .g, sb := .g, dn := 1, an := 1, bn := 1 },
        .maxn h (gOf r.dst) (gOf r.sa) (gOf r.sb) (r.mod.getLsbD 4)⟩
  else
  if r.fn == 4#9 then
    some ⟨{ modOk := r.mod &&& 255#8 == 0#8, immBad := 0xFFFFFFF0#32, immOk := true, dst := .g, sa := .g, sb := .g, dn := 1, an := 1, bn := 1 },
        .sel h (gOf r.dst) (gOf r.sa) (gOf r.sb) (fin8 (r.imm.extractLsb' 0 3)) (r.imm.getLsbD 3)⟩
  else none

/-- The forms of opcode 0x08 (R107, R108, R109): the row of its table that FN, and where the table says so MOD or IMM, selects, with the
classes of its operand fields and the bits that must be 0. Any other FN is none: ILLEGAL_OPC at check 4 (R37). -/
def form08 (r : Raw) (h : Hdr) : Option Sel :=
  if r.fn == 0#9 then
    some ⟨{ modOk := r.mod &&& 255#8 == 0#8, immBad := 0xFFFFFFFF#32, immOk := true, dst := .g, sa := .g, sb := .none, dn := 1, an := 1, bn := 1 },
        .mov h (gOf r.dst) (gOf r.sa)⟩
  else
  if r.fn == 1#9 then
    some ⟨{ modOk := r.mod &&& 255#8 == 0#8, immBad := 0x00000000#32, immOk := true, dst := .g, sa := .none, sb := .none, dn := 1, an := 1, bn := 1 },
        .movi h (gOf r.dst) r.imm⟩
  else
  if r.fn == 2#9 then
    some ⟨{ modOk := r.mod &&& 255#8 == 0#8, immBad := 0x00000000#32, immOk := true, dst := .g, sa := .none, sb := .none, dn := 1, an := 1, bn := 1 },
        .movhi h (gOf r.dst) r.imm⟩
  else
  if r.fn == 3#9 then
    some ⟨{ modOk := r.mod &&& 255#8 == 0#8, immBad := 0xFFFFFFFF#32, immOk := true, dst := .gp, sa := (if isG r.dst then .p else .g), sb := .none, dn := 1, an := 1, bn := 1 },
        .movp h (if isG r.dst then .toG (gOf r.dst) (pOf r.sa) else .toP (pOf r.dst) (gOf r.sa))⟩
  else none

/-- The forms of opcode 0x09 (R107, R108, R109): the row of its table that FN, and where the table says so MOD or IMM, selects, with the
classes of its operand fields and the bits that must be 0. Any other FN is none: ILLEGAL_OPC at check 4 (R37). -/
def form09 (r : Raw) (h : Hdr) : Option Sel :=
  if r.fn == 0#9 then
    some ⟨{ modOk := r.mod &&& 143#8 == 0#8, immBad := 0x00000000#32, immOk := true, dst := .g, sa := .g, sb := .g, dn := 1, an := 1, bn := 1 },
        .lea h (gOf r.dst) (gOf r.sa) (gOf r.sb) (r.mod.extractLsb' 4 3) r.imm⟩
  else none

/-- The forms of opcode 0x0A (R107, R108, R109): the row of its table that FN, and where the table says so MOD or IMM, selects, with the
classes of its operand fields and the bits that must be 0. Any other FN is none: ILLEGAL_OPC at check 4 (R37). -/
def form0A (r : Raw) (h : Hdr) : Option Sel :=
  if r.fn == 0#9 then
    some ⟨{ modOk := r.mod &&& 192#8 == 0#8 && ((r.mod.extractLsb' 0 4).ult 8), immBad := (if r.mod.getLsbD 5 then 0#32 else 0xFFFFFFFF#32), immOk := true, dst := .p, sa := .g, sb := (if r.mod.getLsbD 5 then .none else .g), dn := 1, an := 1, bn := 1 },
        .cmp h (pOf r.dst) (gOf r.sa) (r.mod.extractLsb' 0 4) (r.mod.getLsbD 4) (if r.mod.getLsbD 5 then .imm r.imm else .reg (gOf r.sb))⟩
  else none

/-- The forms of opcode 0x0B (R107, R108, R109): the row of its table that FN, and where the table says so MOD or IMM, selects, with the
classes of its operand fields and the bits that must be 0. Any other FN is none: ILLEGAL_OPC at check 4 (R37). -/
def form0B (r : Raw) (h : Hdr) : Option Sel :=
  if r.fn == 0#9 then
    some ⟨{ modOk := r.mod &&& 232#8 == 0#8 && ((r.mod.extractLsb' 0 3) != 6 && (r.mod.extractLsb' 0 3) != 7), immBad := 0xFFFFFFFF#32, immOk := true, dst := .g, sa := .g, sb := .g, dn := 1, an := 1, bn := 1 },
        .fadd h (gOf r.dst) (gOf r.sa) (gOf r.sb) (r.mod.extractLsb' 0 3) (r.mod.getLsbD 4)⟩
  else
  if r.fn == 1#9 then
    some ⟨{ modOk := r.mod &&& 232#8 == 0#8 && ((r.mod.extractLsb' 0 3) != 6 && (r.mod.extractLsb' 0 3) != 7), immBad := 0xFFFFFFFF#32, immOk := true, dst := .g, sa := .g, sb := .g, dn := 1, an := 1, bn := 1 },
        .fsub h (gOf r.dst) (gOf r.sa) (gOf r.sb) (r.mod.extractLsb' 0 3) (r.mod.getLsbD 4)⟩
  else
  if r.fn == 2#9 then
    some ⟨{ modOk := r.mod &&& 232#8 == 0#8 && ((r.mod.extractLsb' 0 3) != 6 && (r.mod.extractLsb' 0 3) != 7), immBad := 0xFFFFFFFF#32, immOk := true, dst := .g, sa := .g, sb := .g, dn := 1, an := 1, bn := 1 },
        .fmul h (gOf r.dst) (gOf r.sa) (gOf r.sb) (r.mod.extractLsb' 0 3) (r.mod.getLsbD 4)⟩
  else
  if r.fn == 3#9 then
    some ⟨{ modOk := r.mod &&& 232#8 == 0#8 && ((r.mod.extractLsb' 0 3) != 6 && (r.mod.extractLsb' 0 3) != 7), immBad := 0xFFFFFFFF#32, immOk := true, dst := .g, sa := .g, sb := .g, dn := 1, an := 1, bn := 1 },
        .fdiv h (gOf r.dst) (gOf r.sa) (gOf r.sb) (r.mod.extractLsb' 0 3) (r.mod.getLsbD 4)⟩
  else
  if r.fn == 4#9 then
    some ⟨{ modOk := r.mod &&& 232#8 == 0#8 && ((r.mod.extractLsb' 0 3) != 6 && (r.mod.extractLsb' 0 3) != 7), immBad := 0xFFFFFFFF#32, immOk := true, dst := .g, sa := .g, sb := .none, dn := 1, an := 1, bn := 1 },
        .fsqrt h (gOf r.dst) (gOf r.sa) (r.mod.extractLsb' 0 3) (r.mod.getLsbD 4)⟩
  else
  if r.fn == 5#9 then
    some ⟨{ modOk := r.mod &&& 232#8 == 0#8 && ((r.mod.extractLsb' 0 3) != 6 && (r.mod.extractLsb' 0 3) != 7), immBad := 0xFFFFFFFF#32, immOk := true, dst := .g, sa := .g, sb := .g, dn := 1, an := 1, bn := 1 },
        .fma h (gOf r.dst) (gOf r.sa) (gOf r.sb) (r.mod.extractLsb' 0 3) (r.mod.getLsbD 4)⟩
  else none

/-- The forms of opcode 0x0C (R107, R108, R109): the row of its table that FN, and where the table says so MOD or IMM, selects, with the
classes of its operand fields and the bits that must be 0. Any other FN is none: ILLEGAL_OPC at check 4 (R37). -/
def form0C (r : Raw) (h : Hdr) : Option Sel :=
  if r.fn == 0#9 then
    some ⟨{ modOk := r.mod &&& 232#8 == 0#8 && ((r.mod.extractLsb' 0 3).ult 5), immBad := 0xFFFFFFFF#32, immOk := true, dst := .p, sa := .g, sb := .g, dn := 1, an := 1, bn := 1 },
        .fcmp h (pOf r.dst) (gOf r.sa) (gOf r.sb) (r.mod.extractLsb' 0 3) (r.mod.getLsbD 4)⟩
  else
  if r.fn == 1#9 then
    some ⟨{ modOk := r.mod &&& 239#8 == 0#8, immBad := 0xFFFFFFFF#32, immOk := true, dst := .g, sa := .g, sb := .none, dn := 1, an := 1, bn := 1 },
        .fclass h (gOf r.dst) (gOf r.sa) (r.mod.getLsbD 4)⟩
  else none

/-- The forms of opcode 0x0D (R107, R108, R109): the row of its table that FN, and where the table says so MOD or IMM, selects, with the
classes of its operand fields and the bits that must be 0. Any other FN is none: ILLEGAL_OPC at check 4 (R37). -/
noncomputable def form0D (r : Raw) (h : Hdr) : Option Sel :=
  if r.fn == 0#9 then
    some ⟨{ modOk := r.mod &&& 239#8 == 0#8, immBad := 0xFFFFFFFF#32, immOk := true, dst := .g, sa := .g, sb := .g, dn := 1, an := 1, bn := 1 },
        .fmin h (gOf r.dst) (gOf r.sa) (gOf r.sb) (r.mod.getLsbD 4)⟩
  else
  if r.fn == 1#9 then
    some ⟨{ modOk := r.mod &&& 239#8 == 0#8, immBad := 0xFFFFFFFF#32, immOk := true, dst := .g, sa := .g, sb := .g, dn := 1, an := 1, bn := 1 },
        .fmax h (gOf r.dst) (gOf r.sa) (gOf r.sb) (r.mod.getLsbD 4)⟩
  else
  if r.fn == 2#9 then
    some ⟨{ modOk := r.mod &&& 239#8 == 0#8, immBad := 0xFFFFFFFF#32, immOk := true, dst := .g, sa := .g, sb := .none, dn := 1, an := 1, bn := 1 },
        .fabs h (gOf r.dst) (gOf r.sa) (r.mod.getLsbD 4)⟩
  else
  if r.fn == 3#9 then
    some ⟨{ modOk := r.mod &&& 239#8 == 0#8, immBad := 0xFFFFFFFF#32, immOk := true, dst := .g, sa := .g, sb := .none, dn := 1, an := 1, bn := 1 },
        .fneg h (gOf r.dst) (gOf r.sa) (r.mod.getLsbD 4)⟩
  else
  if r.fn == 4#9 then
    some ⟨{ modOk := r.mod &&& 239#8 == 0#8, immBad := 0xFFFFFFFF#32, immOk := true, dst := .g, sa := .g, sb := .g, dn := 1, an := 1, bn := 1 },
        .fcpys h (gOf r.dst) (gOf r.sa) (gOf r.sb) (r.mod.getLsbD 4)⟩
  else none

/-- The forms of opcode 0x10 (R132, R133): the row of its table that FN, and where the table says so MOD or IMM, selects, with the
classes of its operand fields and the bits that must be 0. Any other FN is none: ILLEGAL_OPC at check 4 (R37). -/
noncomputable def form10 (r : Raw) (h : Hdr) : Option Sel :=
  if r.fn == 0#9 then
    some ⟨{ modOk := r.mod &&& 254#8 == 0#8, immBad := 0x00000000#32, immOk := true, dst := .none, sa := .none, sb := .none, dn := 1, an := 1, bn := 1 },
        .br h (r.mod.getLsbD 0) r.imm⟩
  else
  if r.fn == 1#9 then
    some ⟨{ modOk := r.mod &&& 255#8 == 0#8, immBad := 0x00000000#32, immOk := true, dst := .g, sa := .none, sb := .none, dn := 1, an := 1, bn := 1 },
        .call h (gOf r.dst) r.imm⟩
  else none

/-- The forms of opcode 0x11 (R132, R133): the row of its table that FN, and where the table says so MOD or IMM, selects, with the
classes of its operand fields and the bits that must be 0. Any other FN is none: ILLEGAL_OPC at check 4 (R37). -/
noncomputable def form11 (r : Raw) (h : Hdr) : Option Sel :=
  if r.fn == 0#9 then
    some ⟨{ modOk := r.mod &&& 254#8 == 0#8, immBad := 0x00000000#32, immOk := true, dst := .none, sa := .g, sb := .none, dn := 1, an := 1, bn := 1 },
        .jr h (gOf r.sa) (r.mod.getLsbD 0) r.imm⟩
  else
  if r.fn == 1#9 then
    some ⟨{ modOk := r.mod &&& 255#8 == 0#8, immBad := 0x00000000#32, immOk := true, dst := .g, sa := .g, sb := .none, dn := 1, an := 1, bn := 1 },
        .callr h (gOf r.dst) (gOf r.sa) r.imm⟩
  else
  if r.fn == 2#9 then
    some ⟨{ modOk := r.mod &&& 255#8 == 0#8, immBad := 0xFFFFFFFF#32, immOk := true, dst := .none, sa := .g, sb := .none, dn := 1, an := 1, bn := 1 },
        .ret h (gOf r.sa)⟩
  else none

/-- The forms of opcode 0x12 (R132, R133): the row of its table that FN, and where the table says so MOD or IMM, selects, with the
classes of its operand fields and the bits that must be 0. Any other FN is none: ILLEGAL_OPC at check 4 (R37). -/
noncomputable def form12 (r : Raw) (h : Hdr) : Option Sel :=
  if r.fn == 0#9 then
    some ⟨{ modOk := r.mod &&& 255#8 == 0#8, immBad := 0xFFFFFF00#32, immOk := true, dst := .none, sa := .g, sb := .none, dn := 1, an := 1, bn := 1 },
        .loop h (gOf r.sa) (r.imm.extractLsb' 0 8)⟩
  else
  if r.fn == 1#9 then
    some ⟨{ modOk := r.mod &&& 255#8 == 0#8, immBad := 0x00000000#32, immOk := true, dst := .none, sa := .none, sb := .none, dn := 1, an := 1, bn := 1 },
        .loopi h (r.imm.extractLsb' 0 8) (r.imm.extractLsb' 8 24)⟩
  else none

/-- The forms of opcode 0x13 (R132, R133): the row of its table that FN, and where the table says so MOD or IMM, selects, with the
classes of its operand fields and the bits that must be 0. Any other FN is none: ILLEGAL_OPC at check 4 (R37). -/
noncomputable def form13 (r : Raw) (h : Hdr) : Option Sel :=
  if r.fn == 0#9 then
    some ⟨{ modOk := r.mod &&& 252#8 == 0#8, immBad := 0xFFFFFFFF#32, immOk := true, dst := .p, sa := .p, sb := .p, dn := 1, an := 1, bn := 1 },
        .pand h (pOf r.dst) (pOf r.sa) (pOf r.sb) (r.mod.getLsbD 0) (r.mod.getLsbD 1)⟩
  else
  if r.fn == 1#9 then
    some ⟨{ modOk := r.mod &&& 252#8 == 0#8, immBad := 0xFFFFFFFF#32, immOk := true, dst := .p, sa := .p, sb := .p, dn := 1, an := 1, bn := 1 },
        .por h (pOf r.dst) (pOf r.sa) (pOf r.sb) (r.mod.getLsbD 0) (r.mod.getLsbD 1)⟩
  else
  if r.fn == 2#9 then
    some ⟨{ modOk := r.mod &&& 252#8 == 0#8, immBad := 0xFFFFFFFF#32, immOk := true, dst := .p, sa := .p, sb := .p, dn := 1, an := 1, bn := 1 },
        .pxor h (pOf r.dst) (pOf r.sa) (pOf r.sb) (r.mod.getLsbD 0) (r.mod.getLsbD 1)⟩
  else
  if r.fn == 3#9 then
    some ⟨{ modOk := r.mod &&& 255#8 == 0#8, immBad := 0xFFFFFFFF#32, immOk := true, dst := .p, sa := .p, sb := .none, dn := 1, an := 1, bn := 1 },
        .pnot h (pOf r.dst) (pOf r.sa)⟩
  else
  if r.fn == 4#9 then
    some ⟨{ modOk := r.mod &&& 255#8 == 0#8, immBad := 0xFFFFFFFF#32, immOk := true, dst := .p, sa := .p, sb := .none, dn := 1, an := 1, bn := 1 },
        .pmov h (pOf r.dst) (pOf r.sa)⟩
  else none

/-- The forms of opcode 0x14 (R132, R133): the row of its table that FN, and where the table says so MOD or IMM, selects, with the
classes of its operand fields and the bits that must be 0. Any other FN is none: ILLEGAL_OPC at check 4 (R37). -/
def form14 (r : Raw) (h : Hdr) : Option Sel :=
  if r.fn == 0#9 then
    some ⟨{ modOk := r.mod &&& 255#8 == 0#8, immBad := 0xFFFFFFFF#32, immOk := true, dst := .none, sa := .none, sb := .none, dn := 1, an := 1, bn := 1 },
        .nop h⟩
  else
  if r.fn == 1#9 then
    some ⟨{ modOk := r.mod &&& 255#8 == 0#8, immBad := 0xFFFFFFFF#32, immOk := true, dst := .none, sa := .none, sb := .none, dn := 1, an := 1, bn := 1 },
        .timed h⟩
  else
  if r.fn == 2#9 then
    some ⟨{ modOk := r.mod &&& 255#8 == 0#8, immBad := 0xFFFFFFFF#32, immOk := true, dst := .none, sa := .none, sb := .none, dn := 1, an := 1, bn := 1 },
        .checked h⟩
  else none

/-- The forms of opcode 0x15 (R132, R133): the row of its table that FN, and where the table says so MOD or IMM, selects, with the
classes of its operand fields and the bits that must be 0. Any other FN is none: ILLEGAL_OPC at check 4 (R37). -/
def form15 (r : Raw) (h : Hdr) : Option Sel :=
  if r.fn == 0#9 then
    some ⟨{ modOk := r.mod &&& 255#8 == 0#8, immBad := 0xFFFFFC00#32, immOk := true, dst := .none, sa := .none, sb := .none, dn := 1, an := 1, bn := 1 },
        .gang h (r.imm.extractLsb' 0 5) (r.imm.extractLsb' 5 5)⟩
  else
  if r.fn == 1#9 then
    some ⟨{ modOk := r.mod &&& 255#8 == 0#8, immBad := 0xFFFFFFFF#32, immOk := true, dst := .none, sa := .none, sb := .none, dn := 1, an := 1, bn := 1 },
        .gsplit h⟩
  else
  if r.fn == 2#9 then
    some ⟨{ modOk := r.mod &&& 255#8 == 0#8, immBad := 0xFFFFFFFF#32, immOk := true, dst := .none, sa := .none, sb := .none, dn := 1, an := 1, bn := 1 },
        .gjoin h⟩
  else none

/-- The forms of opcode 0x18 (R172, R173, R174): the row of its table that FN, and where the table says so MOD or IMM, selects, with the
classes of its operand fields and the bits that must be 0. Any other FN is none: ILLEGAL_OPC at check 4 (R37). -/
def form18 (r : Raw) (h : Hdr) : Option Sel :=
  if r.fn == 0#9 then
    some ⟨{ modOk := r.mod &&& 248#8 == 0#8 && (!((r.mod.getLsbD 2) && (r.mod.extractLsb' 0 2) == 3)), immBad := 0x00000000#32, immOk := true, dst := .g, sa := .g, sb := .none, dn := 1, an := 1, bn := 1 },
        .ld h (gOf r.dst) (gOf r.sa) (r.mod.extractLsb' 0 2) (r.mod.getLsbD 2) r.imm⟩
  else none

/-- The forms of opcode 0x19 (R172, R173, R174): the row of its table that FN, and where the table says so MOD or IMM, selects, with the
classes of its operand fields and the bits that must be 0. Any other FN is none: ILLEGAL_OPC at check 4 (R37). -/
def form19 (r : Raw) (h : Hdr) : Option Sel :=
  if r.fn == 0#9 then
    some ⟨{ modOk := r.mod &&& 252#8 == 0#8, immBad := 0x00000000#32, immOk := true, dst := .none, sa := .g, sb := .g, dn := 1, an := 1, bn := 1 },
        .st h (gOf r.sa) (gOf r.sb) (r.mod.extractLsb' 0 2) r.imm⟩
  else none

/-- The forms of opcode 0x1A (R172, R173, R174): the row of its table that FN, and where the table says so MOD or IMM, selects, with the
classes of its operand fields and the bits that must be 0. Any other FN is none: ILLEGAL_OPC at check 4 (R37). -/
def form1A (r : Raw) (h : Hdr) : Option Sel :=
  if r.fn.extractLsb' 8 1 == 0#1 && inSetT (r.fn.extractLsb' 0 8) then
    some ⟨{ modOk := r.mod &&& 207#8 == 0#8 && ((r.mod.extractLsb' 4 2) != 3), immBad := 0x00000000#32, immOk := true, dst := .v, sa := .g, sb := .none, dn := (1 <<< (r.mod.extractLsb' 4 2).toNat), an := 1, bn := 1 },
        .vld h (r.fn.extractLsb' 0 8) (vOf r.dst) (gOf r.sa) (r.mod.extractLsb' 4 2) r.imm⟩
  else
  if r.fn == 256#9 then
    some ⟨{ modOk := r.mod &&& 207#8 == 0#8 && ((r.mod.extractLsb' 4 2) != 3), immBad := 0x00000000#32, immOk := true, dst := .none, sa := .g, sb := .v, dn := 1, an := 1, bn := (1 <<< (r.mod.extractLsb' 4 2).toNat) },
        .vst h (gOf r.sa) (vOf r.sb) (r.mod.extractLsb' 4 2) r.imm⟩
  else
  if r.fn == 257#9 then
    some ⟨{ modOk := r.mod &&& 207#8 == 0#8 && ((r.mod.extractLsb' 4 2) != 3), immBad := 0x00000000#32, immOk := true, dst := .v, sa := .g, sb := .none, dn := (1 <<< (r.mod.extractLsb' 4 2).toNat), an := 1, bn := 1 },
        .vldImg h (vOf r.dst) (gOf r.sa) (r.mod.extractLsb' 4 2) r.imm⟩
  else
  if r.fn == 258#9 then
    some ⟨{ modOk := r.mod &&& 207#8 == 0#8 && ((r.mod.extractLsb' 4 2) != 3), immBad := 0x00000000#32, immOk := true, dst := .none, sa := .g, sb := .v, dn := 1, an := 1, bn := (1 <<< (r.mod.extractLsb' 4 2).toNat) },
        .vstImg h (gOf r.sa) (vOf r.sb) (r.mod.extractLsb' 4 2) r.imm⟩
  else none

/-- The forms of opcode 0x1B (R172, R173, R174): the row of its table that FN, and where the table says so MOD or IMM, selects, with the
classes of its operand fields and the bits that must be 0. Any other FN is none: ILLEGAL_OPC at check 4 (R37). -/
def form1B (r : Raw) (h : Hdr) : Option Sel :=
  if r.fn.extractLsb' 8 1 == 0#1 && inSetT (r.fn.extractLsb' 0 8) then
    some ⟨{ modOk := r.mod &&& 143#8 == 0#8, immBad := 0x00000000#32, immOk := true, dst := .v, sa := .v, sb := .none, dn := 1, an := 1, bn := 1 },
        .vldl h (r.fn.extractLsb' 0 8) (vOf r.dst) (vOf r.sa) (fin8 (r.mod.extractLsb' 4 3)) r.imm⟩
  else
  if r.fn == 256#9 then
    some ⟨{ modOk := r.mod &&& 143#8 == 0#8, immBad := 0x00000000#32, immOk := true, dst := .none, sa := .v, sb := .v, dn := 1, an := 1, bn := 1 },
        .vstl h (vOf r.sa) (vOf r.sb) (fin8 (r.mod.extractLsb' 4 3)) r.imm⟩
  else none

/-- The forms of opcode 0x1C (R172, R173, R174): the row of its table that FN, and where the table says so MOD or IMM, selects, with the
classes of its operand fields and the bits that must be 0. Any other FN is none: ILLEGAL_OPC at check 4 (R37). -/
def form1C (r : Raw) (h : Hdr) : Option Sel :=
  if r.fn.extractLsb' 8 1 == 0#1 && inSetT (r.fn.extractLsb' 0 8) then
    some ⟨{ modOk := r.mod &&& 143#8 == 0#8, immBad := 0xFFFFFFFF#32, immOk := true, dst := .v, sa := .g, sb := .v, dn := 1, an := 1, bn := 1 },
        .vgath h (r.fn.extractLsb' 0 8) (vOf r.dst) (gOf r.sa) (vOf r.sb) (fin8 (r.mod.extractLsb' 4 3))⟩
  else
  if r.fn == 256#9 then
    some ⟨{ modOk := r.mod &&& 143#8 == 0#8, immBad := 0xFFFFFFFF#32, immOk := true, dst := .v, sa := .g, sb := .v, dn := 1, an := 1, bn := 1 },
        .vscat h (vOf r.dst) (gOf r.sa) (vOf r.sb) (fin8 (r.mod.extractLsb' 4 3))⟩
  else none

/-- The forms of opcode 0x1D (R172, R173, R174): the row of its table that FN, and where the table says so MOD or IMM, selects, with the
classes of its operand fields and the bits that must be 0. Any other FN is none: ILLEGAL_OPC at check 4 (R37). -/
def form1D (r : Raw) (h : Hdr) : Option Sel :=
  if r.fn == 0#9 then
    some ⟨{ modOk := r.mod &&& 255#8 == 0#8, immBad := 0x00000000#32, immOk := true, dst := .k, sa := .g, sb := .none, dn := 1, an := 1, bn := 1 },
        .kld h (kOf r.dst) (gOf r.sa) r.imm⟩
  else
  if r.fn == 1#9 then
    some ⟨{ modOk := r.mod &&& 255#8 == 0#8, immBad := 0x00000000#32, immOk := true, dst := .none, sa := .g, sb := .k, dn := 1, an := 1, bn := 1 },
        .kst h (gOf r.sa) (kOf r.sb) r.imm⟩
  else none

/-- The forms of opcode 0x20 (R209, R210): the row of its table that FN, and where the table says so MOD or IMM, selects, with the
classes of its operand fields and the bits that must be 0. Any other FN is none: ILLEGAL_OPC at check 4 (R37). -/
def form20 (r : Raw) (h : Hdr) : Option Sel :=
  if r.fn.extractLsb' 8 1 == 0#1 && inSetT (r.fn.extractLsb' 0 8) then
    some ⟨{ modOk := r.mod &&& 207#8 == 0#8 && ((r.mod.extractLsb' 4 2) != 3), immBad := 0x00000000#32, immOk := true, dst := .v, sa := .g, sb := .none, dn := (1 <<< (r.mod.extractLsb' 4 2).toNat), an := 1, bn := 1 },
        .gldV h (r.fn.extractLsb' 0 8) (vOf r.dst) (gOf r.sa) (r.mod.extractLsb' 4 2) r.imm⟩
  else
  if r.fn == 256#9 then
    some ⟨{ modOk := r.mod &&& 248#8 == 0#8 && (!((r.mod.getLsbD 2) && (r.mod.extractLsb' 0 2) == 3)), immBad := 0x00000000#32, immOk := true, dst := .g, sa := .g, sb := .none, dn := 1, an := 1, bn := 1 },
        .gld h (gOf r.dst) (gOf r.sa) (r.mod.extractLsb' 0 2) (r.mod.getLsbD 2) r.imm⟩
  else
  if r.fn == 257#9 then
    some ⟨{ modOk := r.mod &&& 207#8 == 0#8 && ((r.mod.extractLsb' 4 2) != 3), immBad := 0x00000000#32, immOk := true, dst := .v, sa := .g, sb := .none, dn := (1 <<< (r.mod.extractLsb' 4 2).toNat), an := 1, bn := 1 },
        .gldImg h (vOf r.dst) (gOf r.sa) (r.mod.extractLsb' 4 2) r.imm⟩
  else none

/-- The forms of opcode 0x21 (R209, R210): the row of its table that FN, and where the table says so MOD or IMM, selects, with the
classes of its operand fields and the bits that must be 0. Any other FN is none: ILLEGAL_OPC at check 4 (R37). -/
def form21 (r : Raw) (h : Hdr) : Option Sel :=
  if r.fn == 0#9 then
    some ⟨{ modOk := r.mod &&& 252#8 == 0#8, immBad := 0x00000000#32, immOk := true, dst := .none, sa := .g, sb := .g, dn := 1, an := 1, bn := 1 },
        .gst h (gOf r.sa) (gOf r.sb) (r.mod.extractLsb' 0 2) r.imm⟩
  else
  if r.fn == 1#9 then
    some ⟨{ modOk := r.mod &&& 207#8 == 0#8 && ((r.mod.extractLsb' 4 2) != 3), immBad := 0x00000000#32, immOk := true, dst := .none, sa := .g, sb := .v, dn := 1, an := 1, bn := (1 <<< (r.mod.extractLsb' 4 2).toNat) },
        .gstV h (gOf r.sa) (vOf r.sb) (r.mod.extractLsb' 4 2) r.imm⟩
  else
  if r.fn == 2#9 then
    some ⟨{ modOk := r.mod &&& 207#8 == 0#8 && ((r.mod.extractLsb' 4 2) != 3), immBad := 0x00000000#32, immOk := true, dst := .none, sa := .g, sb := .v, dn := 1, an := 1, bn := (1 <<< (r.mod.extractLsb' 4 2).toNat) },
        .gstImg h (gOf r.sa) (vOf r.sb) (r.mod.extractLsb' 4 2) r.imm⟩
  else none

/-- The forms of opcode 0x22 (R209, R210): the row of its table that FN, and where the table says so MOD or IMM, selects, with the
classes of its operand fields and the bits that must be 0. Any other FN is none: ILLEGAL_OPC at check 4 (R37). -/
def form22 (r : Raw) (h : Hdr) : Option Sel :=
  if r.fn == 0#9 then
    some ⟨{ modOk := r.mod &&& 255#8 == 0#8, immBad := 0xFFFFFFFF#32, immOk := true, dst := .none, sa := .g, sb := .g, dn := 1, an := 1, bn := 1 },
        .rwb h (gOf r.sa) (gOf r.sb)⟩
  else
  if r.fn == 1#9 then
    some ⟨{ modOk := r.mod &&& 255#8 == 0#8, immBad := 0xFFFFFFFF#32, immOk := true, dst := .none, sa := .g, sb := .g, dn := 1, an := 1, bn := 1 },
        .rinv h (gOf r.sa) (gOf r.sb)⟩
  else
  if r.fn == 2#9 then
    some ⟨{ modOk := r.mod &&& 255#8 == 0#8, immBad := 0xFFFFFFFF#32, immOk := true, dst := .none, sa := .g, sb := .g, dn := 1, an := 1, bn := 1 },
        .rwbi h (gOf r.sa) (gOf r.sb)⟩
  else none

/-- The forms of opcode 0x23 (R209, R210): the row of its table that FN, and where the table says so MOD or IMM, selects, with the
classes of its operand fields and the bits that must be 0. Any other FN is none: ILLEGAL_OPC at check 4 (R37). -/
def form23 (r : Raw) (h : Hdr) : Option Sel :=
  if r.fn == 0#9 then
    some ⟨{ modOk := r.mod &&& 254#8 == 0#8, immBad := 0x00000000#32, immOk := true, dst := .none, sa := .g, sb := .none, dn := 1, an := 1, bn := 1 },
        .pref h (gOf r.sa) (r.mod.getLsbD 0) r.imm⟩
  else none

/-- The forms of opcode 0x28 (R223, R224): the row of its table that FN, and where the table says so MOD or IMM, selects, with the
classes of its operand fields and the bits that must be 0. Any other FN is none: ILLEGAL_OPC at check 4 (R37). -/
def form28 (r : Raw) (h : Hdr) : Option Sel :=
  if r.fn.ult 10#9 then
    some ⟨{ modOk := r.mod &&& 140#8 == 0#8 && ((r.mod.extractLsb' 0 2) == 2 || (r.mod.extractLsb' 0 2) == 3) && ((r.mod.extractLsb' 4 3).ult 5), immBad := 0x00000000#32, immOk := true, dst := .g, sa := .g, sb := .g, dn := 1, an := 1, bn := 1 },
        .amo h (r.fn.extractLsb' 0 4) (gOf r.dst) (gOf r.sa) (gOf r.sb) (r.mod.extractLsb' 0 2) (r.mod.extractLsb' 4 3) r.imm⟩
  else none

/-- The forms of opcode 0x29 (R223, R224): the row of its table that FN, and where the table says so MOD or IMM, selects, with the
classes of its operand fields and the bits that must be 0. Any other FN is none: ILLEGAL_OPC at check 4 (R37). -/
def form29 (r : Raw) (h : Hdr) : Option Sel :=
  if r.fn == 0#9 then
    some ⟨{ modOk := r.mod &&& 140#8 == 0#8 && ((r.mod.extractLsb' 0 2) == 2 || (r.mod.extractLsb' 0 2) == 3) && ((r.mod.extractLsb' 4 3).ult 5), immBad := 0x00000000#32, immOk := true, dst := .g, sa := .g, sb := .g, dn := 1, an := 1, bn := 1 },
        .cas h (gOf r.dst) (gOf r.sa) (gOf r.sb) (r.mod.extractLsb' 0 2) (r.mod.extractLsb' 4 3) r.imm⟩
  else none

/-- The forms of opcode 0x2A (R223, R224): the row of its table that FN, and where the table says so MOD or IMM, selects, with the
classes of its operand fields and the bits that must be 0. Any other FN is none: ILLEGAL_OPC at check 4 (R37). -/
def form2A (r : Raw) (h : Hdr) : Option Sel :=
  if r.fn.ult 10#9 && r.fn != 0#9 then
    some ⟨{ modOk := r.mod &&& 140#8 == 0#8 && ((r.mod.extractLsb' 0 2) == 2 || (r.mod.extractLsb' 0 2) == 3) && ((r.mod.extractLsb' 4 3).ult 5), immBad := 0x00000000#32, immOk := true, dst := .none, sa := .g, sb := .g, dn := 1, an := 1, bn := 1 },
        .red h (r.fn.extractLsb' 0 4) (gOf r.sa) (gOf r.sb) (r.mod.extractLsb' 0 2) (r.mod.extractLsb' 4 3) r.imm⟩
  else none

/-- The forms of opcode 0x2B (R223, R224): the row of its table that FN, and where the table says so MOD or IMM, selects, with the
classes of its operand fields and the bits that must be 0. Any other FN is none: ILLEGAL_OPC at check 4 (R37). -/
def form2B (r : Raw) (h : Hdr) : Option Sel :=
  if r.fn == 0#9 && r.mod.extractLsb' 0 2 == 0#2 then
    some ⟨{ modOk := r.mod &&& 251#8 == 0#8, immBad := 0x0000FFC0#32, immOk := true, dst := .none, sa := (if r.mod.getLsbD 2 then .g else .none), sb := .none, dn := 1, an := 1, bn := 1 },
        .evsigEv h (if r.mod.getLsbD 2 then some (gOf r.sa) else none) (r.imm.extractLsb' 0 6) (r.imm.extractLsb' 16 16)⟩
  else
  if r.fn == 0#9 && r.mod.extractLsb' 0 2 == 1#2 then
    some ⟨{ modOk := r.mod &&& 255#8 == 1#8, immBad := 0xFFFFFFE0#32, immOk := true, dst := .none, sa := .none, sb := .none, dn := 1, an := 1, bn := 1 },
        .evsigUnlock h (r.imm.extractLsb' 0 5)⟩
  else
  if r.fn == 0#9 && r.mod.extractLsb' 0 2 == 2#2 then
    some ⟨{ modOk := r.mod &&& 255#8 == 2#8, immBad := 0x0000FFF0#32, immOk := true, dst := .none, sa := .none, sb := .none, dn := 1, an := 1, bn := 1 },
        .evsigPulse h (r.imm.extractLsb' 0 4) (r.imm.extractLsb' 16 16)⟩
  else
  if r.fn == 1#9 && r.mod.extractLsb' 0 2 == 0#2 then
    some ⟨{ modOk := r.mod &&& 255#8 == 0#8, immBad := 0xFFFFFFC0#32, immOk := true, dst := .g, sa := .none, sb := .none, dn := 1, an := 1, bn := 1 },
        .ldevWait h (gOf r.dst) (r.imm.extractLsb' 0 6)⟩
  else
  if r.fn == 1#9 && r.mod.extractLsb' 0 2 == 1#2 then
    some ⟨{ modOk := r.mod &&& 255#8 == 1#8, immBad := 0xFFFFFFC0#32, immOk := true, dst := .g, sa := .none, sb := .none, dn := 1, an := 1, bn := 1 },
        .ldevPoll h (gOf r.dst) (r.imm.extractLsb' 0 6)⟩
  else
  if r.fn == 1#9 && r.mod.extractLsb' 0 2 == 2#2 then
    some ⟨{ modOk := r.mod &&& 255#8 == 2#8, immBad := 0xFFFFFFE0#32, immOk := true, dst := .g, sa := .none, sb := .none, dn := 1, an := 1, bn := 1 },
        .ldevLock h (gOf r.dst) (r.imm.extractLsb' 0 5)⟩
  else
  if r.fn == 1#9 && r.mod.extractLsb' 0 2 == 3#2 then
    some ⟨{ modOk := r.mod &&& 255#8 == 3#8, immBad := 0xFFFFFFE0#32, immOk := true, dst := .g, sa := .none, sb := .none, dn := 1, an := 1, bn := 1 },
        .ldevTry h (gOf r.dst) (r.imm.extractLsb' 0 5)⟩
  else
  if r.fn == 0#9 then some ⟨{ modOk := false, immBad := 0#32, immOk := true, dst := .none, sa := .none, sb := .none, dn := 1, an := 1, bn := 1 }, .nop h⟩
  else none

/-- The forms of opcode 0x2C (R223, R224): the row of its table that FN, and where the table says so MOD or IMM, selects, with the
classes of its operand fields and the bits that must be 0. Any other FN is none: ILLEGAL_OPC at check 4 (R37). -/
def form2C (r : Raw) (h : Hdr) : Option Sel :=
  if r.fn == 0#9 then
    some ⟨{ modOk := r.mod &&& 255#8 == 0#8, immBad := 0xFFFFFFE0#32, immOk := true, dst := .none, sa := .none, sb := .none, dn := 1, an := 1, bn := 1 },
        .bar h (r.imm.extractLsb' 0 5)⟩
  else
  if r.fn == 1#9 then
    some ⟨{ modOk := r.mod &&& 255#8 == 0#8, immBad := 0xFFFFFFE0#32, immOk := true, dst := .none, sa := .none, sb := .none, dn := 1, an := 1, bn := 1 },
        .barss h (r.imm.extractLsb' 0 5)⟩
  else none

/-- The forms of opcode 0x2D (R223, R224): the row of its table that FN, and where the table says so MOD or IMM, selects, with the
classes of its operand fields and the bits that must be 0. Any other FN is none: ILLEGAL_OPC at check 4 (R37). -/
def form2D (r : Raw) (h : Hdr) : Option Sel :=
  if r.fn == 0#9 then
    some ⟨{ modOk := r.mod &&& 143#8 == 0#8 && ((r.mod.extractLsb' 4 3).ult 5), immBad := 0xFFFFFF00#32, immOk := true, dst := .none, sa := .none, sb := .none, dn := 1, an := 1, bn := 1 },
        .fence h (r.mod.extractLsb' 4 3) (r.imm.extractLsb' 0 8)⟩
  else none

/-- The forms of opcode 0x2E (R223, R224): the row of its table that FN, and where the table says so MOD or IMM, selects, with the
classes of its operand fields and the bits that must be 0. Any other FN is none: ILLEGAL_OPC at check 4 (R37). -/
def form2E (r : Raw) (h : Hdr) : Option Sel :=
  if r.fn == 0#9 then
    some ⟨{ modOk := r.mod &&& 254#8 == 0#8, immBad := 0xFFFFFFE0#32, immOk := true, dst := .p, sa := .p, sb := .none, dn := 1, an := 1, bn := 1 },
        .spred h (pOf r.dst) (pOf r.sa) (r.mod.getLsbD 0) (r.imm.extractLsb' 0 5)⟩
  else none

/-- The forms of opcode 0x30 (R407): the row of its table that FN, and where the table says so MOD or IMM, selects, with the
classes of its operand fields and the bits that must be 0. Any other FN is none: ILLEGAL_OPC at check 4 (R37). -/
def form30 (r : Raw) (h : Hdr) : Option Sel :=
  if r.fn == 0#9 && !(r.mod.getLsbD 0) then
    some ⟨{ modOk := r.mod &&& 255#8 == 0#8, immBad := 0xFFFFF0F0#32, immOk := true, dst := .g, sa := .g, sb := .none, dn := 1, an := 1, bn := 1 },
        .chdecl h (gOf r.dst) (gOf r.sa) (r.imm.extractLsb' 0 4) (r.imm.extractLsb' 8 4)⟩
  else
  if r.fn == 0#9 && r.mod.getLsbD 0 then
    some ⟨{ modOk := r.mod &&& 255#8 == 1#8, immBad := 0xFFFFFFF0#32, immOk := true, dst := .none, sa := .none, sb := .none, dn := 1, an := 1, bn := 1 },
        .chdeclRel h (r.imm.extractLsb' 0 4)⟩
  else none

/-- The forms of opcode 0x31 (R407): the row of its table that FN, and where the table says so MOD or IMM, selects, with the
classes of its operand fields and the bits that must be 0. Any other FN is none: ILLEGAL_OPC at check 4 (R37). -/
def form31 (r : Raw) (h : Hdr) : Option Sel :=
  if r.fn == 0#9 then
    some ⟨{ modOk := r.mod &&& 255#8 == 0#8, immBad := 0xFFFFFFF0#32, immOk := true, dst := .none, sa := .none, sb := .v, dn := 1, an := 1, bn := 1 },
        .chsend h (vOf r.sb) (r.imm.extractLsb' 0 4)⟩
  else none

/-- The forms of opcode 0x32 (R407): the row of its table that FN, and where the table says so MOD or IMM, selects, with the
classes of its operand fields and the bits that must be 0. Any other FN is none: ILLEGAL_OPC at check 4 (R37). -/
def form32 (r : Raw) (h : Hdr) : Option Sel :=
  if r.fn == 0#9 then
    some ⟨{ modOk := r.mod &&& 255#8 == 0#8, immBad := 0xFFFFFFF0#32, immOk := true, dst := .v, sa := .none, sb := .none, dn := 1, an := 1, bn := 1 },
        .chrecv h (vOf r.dst) (r.imm.extractLsb' 0 4)⟩
  else
  if r.fn == 1#9 then
    some ⟨{ modOk := r.mod &&& 255#8 == 0#8, immBad := 0xFFFFFF80#32, immOk := true, dst := .v, sa := .none, sb := .none, dn := 1, an := 1, bn := 1 },
        .chpoll h (vOf r.dst) (r.imm.extractLsb' 0 4) (fin8 (r.imm.extractLsb' 4 3))⟩
  else none

/-- The forms of opcode 0x33 (R407): the row of its table that FN, and where the table says so MOD or IMM, selects, with the
classes of its operand fields and the bits that must be 0. Any other FN is none: ILLEGAL_OPC at check 4 (R37). -/
def form33 (r : Raw) (h : Hdr) : Option Sel :=
  if r.fn == 0#9 then
    some ⟨{ modOk := r.mod &&& 255#8 == 0#8, immBad := 0xFFFFFFE0#32, immOk := true, dst := .none, sa := .none, sb := .none, dn := 1, an := 1, bn := 1 },
        .phase h (r.imm.extractLsb' 0 5)⟩
  else none

/-- The forms of opcode 0x34 (R407): the row of its table that FN, and where the table says so MOD or IMM, selects, with the
classes of its operand fields and the bits that must be 0. Any other FN is none: ILLEGAL_OPC at check 4 (R37). -/
def form34 (r : Raw) (h : Hdr) : Option Sel :=
  if r.fn == 0#9 then
    some ⟨{ modOk := r.mod &&& 255#8 == 0#8, immBad := 0xFFFFFF00#32, immOk := true, dst := .none, sa := .none, sb := .v, dn := 1, an := 1, bn := 1 },
        .tsend h (vOf r.sb) (r.imm.extractLsb' 0 8)⟩
  else
  if r.fn == 1#9 then
    some ⟨{ modOk := r.mod &&& 255#8 == 0#8, immBad := 0xFFFFFF00#32, immOk := true, dst := .v, sa := .none, sb := .none, dn := 1, an := 1, bn := 1 },
        .trecv h (vOf r.dst) (r.imm.extractLsb' 0 8)⟩
  else none

/-- The forms of opcode 0x38 (R90, R91): the row of its table that FN, and where the table says so MOD or IMM, selects, with the
classes of its operand fields and the bits that must be 0. Any other FN is none: ILLEGAL_OPC at check 4 (R37). -/
noncomputable def form38 (r : Raw) (h : Hdr) : Option Sel :=
  if r.fn.extractLsb' 8 1 == 0#1 && inSetC (r.fn.extractLsb' 0 8) then
    some ⟨{ modOk := ((r.mod.extractLsb' 0 3) != 6 && (r.mod.extractLsb' 0 3) != 7), immBad := 0xFFFFFFFF#32, immOk := true, dst := .v, sa := .v, sb := .none, dn := 1, an := 1, bn := 1 },
        .vcvt h (r.fn.extractLsb' 0 8) (vOf r.dst) (vOf r.sa) (r.mod.extractLsb' 0 3) (r.mod.getLsbD 3) (r.mod.extractLsb' 4 4)⟩
  else none

/-- The forms of opcode 0x39 (R90, R91): the row of its table that FN, and where the table says so MOD or IMM, selects, with the
classes of its operand fields and the bits that must be 0. Any other FN is none: ILLEGAL_OPC at check 4 (R37). -/
noncomputable def form39 (r : Raw) (h : Hdr) : Option Sel :=
  if r.fn.extractLsb' 8 1 == 0#1 && inSetC (r.fn.extractLsb' 0 8) then
    some ⟨{ modOk := ((r.mod.extractLsb' 0 3) != 6 && (r.mod.extractLsb' 0 3) != 7), immBad := 0xFFFFFFFF#32, immOk := true, dst := .v, sa := .v, sb := .g, dn := 1, an := 1, bn := 1 },
        .vcvts h (r.fn.extractLsb' 0 8) (vOf r.dst) (vOf r.sa) (gOf r.sb) (r.mod.extractLsb' 0 3) (r.mod.getLsbD 3) (r.mod.extractLsb' 4 4)⟩
  else none

/-- The forms of opcode 0x3A (R90, R91): the row of its table that FN, and where the table says so MOD or IMM, selects, with the
classes of its operand fields and the bits that must be 0. Any other FN is none: ILLEGAL_OPC at check 4 (R37). -/
noncomputable def form3A (r : Raw) (h : Hdr) : Option Sel :=
  if r.fn.extractLsb' 8 1 == 0#1 && inSetT (r.fn.extractLsb' 0 8) then
    some ⟨{ modOk := r.mod &&& 255#8 == 0#8, immBad := 0xFFFFFFFF#32, immOk := true, dst := .v, sa := .v, sb := .none, dn := 1, an := 1, bn := 1 },
        .vtag h (r.fn.extractLsb' 0 8) (vOf r.dst) (vOf r.sa)⟩
  else
  if r.fn == 256#9 then
    some ⟨{ modOk := r.mod &&& 255#8 == 0#8, immBad := 0xFFFFFFFF#32, immOk := true, dst := .g, sa := .v, sb := .none, dn := 1, an := 1, bn := 1 },
        .vtagr h (gOf r.dst) (vOf r.sa)⟩
  else none

/-- The forms of opcode 0x3B (R90, R91): the row of its table that FN, and where the table says so MOD or IMM, selects, with the
classes of its operand fields and the bits that must be 0. Any other FN is none: ILLEGAL_OPC at check 4 (R37). -/
noncomputable def form3B (r : Raw) (h : Hdr) : Option Sel :=
  if r.fn.extractLsb' 8 1 == 0#1 && inSetQ (r.fn.extractLsb' 0 8) then
    some ⟨{ modOk := r.mod &&& 8#8 == 0#8 && ((r.mod.extractLsb' 0 3) != 6 && (r.mod.extractLsb' 0 3) != 7) && (quantChunkOk (r.fn.extractLsb' 0 8) (r.mod.extractLsb' 4 4)), immBad := 0xFFFFFFC0#32, immOk := true, dst := .v, sa := .v, sb := .v, dn := 1, an := 1, bn := 1 },
        .vquant h (r.fn.extractLsb' 0 8) (vOf r.dst) (vOf r.sa) (vOf r.sb) (r.mod.extractLsb' 0 3) (r.mod.extractLsb' 4 4) (r.imm.extractLsb' 0 6)⟩
  else
  if r.fn == 258#9 then
    some ⟨{ modOk := r.mod &&& 8#8 == 0#8 && ((r.mod.extractLsb' 0 3) != 6 && (r.mod.extractLsb' 0 3) != 7) && ((r.mod.extractLsb' 4 4).ult 8), immBad := 0xFFFFFFC0#32, immOk := true, dst := .v, sa := .v, sb := .v, dn := 1, an := 1, bn := 1 },
        .vdeq h (vOf r.dst) (vOf r.sa) (vOf r.sb) (r.mod.extractLsb' 0 3) (r.mod.extractLsb' 4 4) (r.imm.extractLsb' 0 6)⟩
  else none

/-- The forms of opcode 0x3C (R90, R91): the row of its table that FN, and where the table says so MOD or IMM, selects, with the
classes of its operand fields and the bits that must be 0. Any other FN is none: ILLEGAL_OPC at check 4 (R37). -/
noncomputable def form3C (r : Raw) (h : Hdr) : Option Sel :=
  if r.fn.extractLsb' 8 1 == 0#1 && inSetQ (r.fn.extractLsb' 0 8) then
    some ⟨{ modOk := r.mod &&& 255#8 == 0#8, immBad := 0xFFFFFFC0#32, immOk := true, dst := .v, sa := .v, sb := .none, dn := 1, an := 1, bn := 1 },
        .vscl h (r.fn.extractLsb' 0 8) (vOf r.dst) (vOf r.sa) (r.imm.extractLsb' 0 6)⟩
  else none

/-- The forms of opcode 0x3D (R90, R91): the row of its table that FN, and where the table says so MOD or IMM, selects, with the
classes of its operand fields and the bits that must be 0. Any other FN is none: ILLEGAL_OPC at check 4 (R37). -/
noncomputable def form3D (r : Raw) (h : Hdr) : Option Sel :=
  if r.fn.extractLsb' 7 2 == 0#2 && r.fn.extractLsb' 3 1 == 0#1 && r.fn.extractLsb' 4 3 != r.fn.extractLsb' 0 3 then
    some ⟨{ modOk := r.mod &&& 248#8 == 0#8 && ((r.mod.extractLsb' 0 3) != 6 && (r.mod.extractLsb' 0 3) != 7), immBad := 0xFFFFFFFF#32, immOk := true, dst := .g, sa := .g, sb := .none, dn := 1, an := 1, bn := 1 },
        .scvt h (r.fn.extractLsb' 4 3) (r.fn.extractLsb' 0 3) (gOf r.dst) (gOf r.sa) (r.mod.extractLsb' 0 3)⟩
  else none

/-- The forms of opcode 0x40 (R265, R266, R267): the row of its table that FN, and where the table says so MOD or IMM, selects, with the
classes of its operand fields and the bits that must be 0. Any other FN is none: ILLEGAL_OPC at check 4 (R37). -/
noncomputable def form40 (r : Raw) (h : Hdr) : Option Sel :=
  if r.fn.extractLsb' 6 3 == 0#3 && inSetINT (r.fn.extractLsb' 0 6) then
    some ⟨{ modOk := r.mod &&& 7#8 == 0#8, immBad := 0xFFFFFFFF#32, immOk := true, dst := .v, sa := .v, sb := .vg, dn := 1, an := 1, bn := 1 },
        .vadd h (r.fn.extractLsb' 0 6) (vOf r.dst) (vOf r.sa) (vgOf r.sb) (r.mod.getLsbD 3) (fin8 (r.mod.extractLsb' 4 3)) (r.mod.getLsbD 7)⟩
  else
  if r.fn.extractLsb' 6 3 == 1#3 && inSetINT (r.fn.extractLsb' 0 6) then
    some ⟨{ modOk := r.mod &&& 7#8 == 0#8, immBad := 0xFFFFFFFF#32, immOk := true, dst := .v, sa := .v, sb := .vg, dn := 1, an := 1, bn := 1 },
        .vsub h (r.fn.extractLsb' 0 6) (vOf r.dst) (vOf r.sa) (vgOf r.sb) (r.mod.getLsbD 3) (fin8 (r.mod.extractLsb' 4 3)) (r.mod.getLsbD 7)⟩
  else
  if r.fn.extractLsb' 6 3 == 2#3 && inSetINT (r.fn.extractLsb' 0 6) then
    some ⟨{ modOk := r.mod &&& 7#8 == 0#8, immBad := 0xFFFFFFFF#32, immOk := true, dst := .v, sa := .v, sb := .vg, dn := 1, an := 1, bn := 1 },
        .vadds h (r.fn.extractLsb' 0 6) (vOf r.dst) (vOf r.sa) (vgOf r.sb) (r.mod.getLsbD 3) (fin8 (r.mod.extractLsb' 4 3)) (r.mod.getLsbD 7)⟩
  else
  if r.fn.extractLsb' 6 3 == 3#3 && inSetINT (r.fn.extractLsb' 0 6) then
    some ⟨{ modOk := r.mod &&& 7#8 == 0#8, immBad := 0xFFFFFFFF#32, immOk := true, dst := .v, sa := .v, sb := .vg, dn := 1, an := 1, bn := 1 },
        .vsubs h (r.fn.extractLsb' 0 6) (vOf r.dst) (vOf r.sa) (vgOf r.sb) (r.mod.getLsbD 3) (fin8 (r.mod.extractLsb' 4 3)) (r.mod.getLsbD 7)⟩
  else
  if r.fn.extractLsb' 6 3 == 4#3 && inSetI (r.fn.extractLsb' 0 6) then
    some ⟨{ modOk := r.mod &&& 7#8 == 0#8, immBad := 0xFFFFFFFF#32, immOk := true, dst := .v, sa := .v, sb := .none, dn := 1, an := 1, bn := 1 },
        .vabs h (r.fn.extractLsb' 0 6) (vOf r.dst) (vOf r.sa) (r.mod.getLsbD 3) (fin8 (r.mod.extractLsb' 4 3)) (r.mod.getLsbD 7)⟩
  else none

/-- The forms of opcode 0x41 (R265, R266, R267): the row of its table that FN, and where the table says so MOD or IMM, selects, with the
classes of its operand fields and the bits that must be 0. Any other FN is none: ILLEGAL_OPC at check 4 (R37). -/
noncomputable def form41 (r : Raw) (h : Hdr) : Option Sel :=
  if r.fn.extractLsb' 6 3 == 0#3 && inSetINT (r.fn.extractLsb' 0 6) then
    some ⟨{ modOk := r.mod &&& 7#8 == 0#8, immBad := 0xFFFFFFFF#32, immOk := true, dst := .v, sa := .v, sb := .vg, dn := 1, an := 1, bn := 1 },
        .vmul h (r.fn.extractLsb' 0 6) (vOf r.dst) (vOf r.sa) (vgOf r.sb) (r.mod.getLsbD 3) (fin8 (r.mod.extractLsb' 4 3)) (r.mod.getLsbD 7)⟩
  else
  if r.fn.extractLsb' 6 3 == 1#3 && inSetI (r.fn.extractLsb' 0 6) then
    some ⟨{ modOk := r.mod &&& 7#8 == 0#8, immBad := 0xFFFFFFFF#32, immOk := true, dst := .v, sa := .v, sb := .vg, dn := 1, an := 1, bn := 1 },
        .vmulh h (r.fn.extractLsb' 0 6) (vOf r.dst) (vOf r.sa) (vgOf r.sb) (r.mod.getLsbD 3) (fin8 (r.mod.extractLsb' 4 3)) (r.mod.getLsbD 7)⟩
  else
  if r.fn.extractLsb' 6 3 == 2#3 && inSetN (r.fn.extractLsb' 0 6) then
    some ⟨{ modOk := r.mod &&& 7#8 == 0#8, immBad := 0xFFFFFFFF#32, immOk := true, dst := .v, sa := .v, sb := .vg, dn := 1, an := 1, bn := 1 },
        .vmulhn h (r.fn.extractLsb' 0 6) (vOf r.dst) (vOf r.sa) (vgOf r.sb) (r.mod.getLsbD 3) (fin8 (r.mod.extractLsb' 4 3)) (r.mod.getLsbD 7)⟩
  else none

/-- The forms of opcode 0x42 (R265, R266, R267): the row of its table that FN, and where the table says so MOD or IMM, selects, with the
classes of its operand fields and the bits that must be 0. Any other FN is none: ILLEGAL_OPC at check 4 (R37). -/
noncomputable def form42 (r : Raw) (h : Hdr) : Option Sel :=
  if r.fn.extractLsb' 6 3 == 0#3 && inSetI (r.fn.extractLsb' 0 6) then
    some ⟨{ modOk := r.mod &&& 7#8 == 0#8, immBad := 0xFFFFFFFF#32, immOk := true, dst := .v, sa := .v, sb := .vg, dn := 1, an := 1, bn := 1 },
        .vmin h (r.fn.extractLsb' 0 6) (vOf r.dst) (vOf r.sa) (vgOf r.sb) (r.mod.getLsbD 3) (fin8 (r.mod.extractLsb' 4 3)) (r.mod.getLsbD 7)⟩
  else
  if r.fn.extractLsb' 6 3 == 1#3 && inSetN (r.fn.extractLsb' 0 6) then
    some ⟨{ modOk := r.mod &&& 7#8 == 0#8, immBad := 0xFFFFFFFF#32, immOk := true, dst := .v, sa := .v, sb := .vg, dn := 1, an := 1, bn := 1 },
        .vminn h (r.fn.extractLsb' 0 6) (vOf r.dst) (vOf r.sa) (vgOf r.sb) (r.mod.getLsbD 3) (fin8 (r.mod.extractLsb' 4 3)) (r.mod.getLsbD 7)⟩
  else
  if r.fn.extractLsb' 6 3 == 2#3 && inSetI (r.fn.extractLsb' 0 6) then
    some ⟨{ modOk := r.mod &&& 7#8 == 0#8, immBad := 0xFFFFFFFF#32, immOk := true, dst := .v, sa := .v, sb := .vg, dn := 1, an := 1, bn := 1 },
        .vmax h (r.fn.extractLsb' 0 6) (vOf r.dst) (vOf r.sa) (vgOf r.sb) (r.mod.getLsbD 3) (fin8 (r.mod.extractLsb' 4 3)) (r.mod.getLsbD 7)⟩
  else
  if r.fn.extractLsb' 6 3 == 3#3 && inSetN (r.fn.extractLsb' 0 6) then
    some ⟨{ modOk := r.mod &&& 7#8 == 0#8, immBad := 0xFFFFFFFF#32, immOk := true, dst := .v, sa := .v, sb := .vg, dn := 1, an := 1, bn := 1 },
        .vmaxn h (r.fn.extractLsb' 0 6) (vOf r.dst) (vOf r.sa) (vgOf r.sb) (r.mod.getLsbD 3) (fin8 (r.mod.extractLsb' 4 3)) (r.mod.getLsbD 7)⟩
  else none

/-- The forms of opcode 0x43 (R265, R266, R267): the row of its table that FN, and where the table says so MOD or IMM, selects, with the
classes of its operand fields and the bits that must be 0. Any other FN is none: ILLEGAL_OPC at check 4 (R37). -/
noncomputable def form43 (r : Raw) (h : Hdr) : Option Sel :=
  if r.fn.extractLsb' 6 3 == 0#3 && inSetF (r.fn.extractLsb' 0 6) then
    some ⟨{ modOk := ((r.mod.extractLsb' 0 3) != 6 && (r.mod.extractLsb' 0 3) != 7), immBad := 0xFFFFFFFF#32, immOk := true, dst := .v, sa := .v, sb := .vg, dn := 1, an := 1, bn := 1 },
        .vfadd h (r.fn.extractLsb' 0 6) (vOf r.dst) (vOf r.sa) (vgOf r.sb) (r.mod.extractLsb' 0 3) (r.mod.getLsbD 3) (fin8 (r.mod.extractLsb' 4 3)) (r.mod.getLsbD 7)⟩
  else
  if r.fn.extractLsb' 6 3 == 1#3 && inSetF (r.fn.extractLsb' 0 6) then
    some ⟨{ modOk := ((r.mod.extractLsb' 0 3) != 6 && (r.mod.extractLsb' 0 3) != 7), immBad := 0xFFFFFFFF#32, immOk := true, dst := .v, sa := .v, sb := .vg, dn := 1, an := 1, bn := 1 },
        .vfsub h (r.fn.extractLsb' 0 6) (vOf r.dst) (vOf r.sa) (vgOf r.sb) (r.mod.extractLsb' 0 3) (r.mod.getLsbD 3) (fin8 (r.mod.extractLsb' 4 3)) (r.mod.getLsbD 7)⟩
  else none

/-- The forms of opcode 0x44 (R265, R266, R267): the row of its table that FN, and where the table says so MOD or IMM, selects, with the
classes of its operand fields and the bits that must be 0. Any other FN is none: ILLEGAL_OPC at check 4 (R37). -/
noncomputable def form44 (r : Raw) (h : Hdr) : Option Sel :=
  if r.fn.extractLsb' 6 3 == 0#3 && inSetF (r.fn.extractLsb' 0 6) then
    some ⟨{ modOk := ((r.mod.extractLsb' 0 3) != 6 && (r.mod.extractLsb' 0 3) != 7), immBad := 0xFFFFFFFF#32, immOk := true, dst := .v, sa := .v, sb := .vg, dn := 1, an := 1, bn := 1 },
        .vfmul h (r.fn.extractLsb' 0 6) (vOf r.dst) (vOf r.sa) (vgOf r.sb) (r.mod.extractLsb' 0 3) (r.mod.getLsbD 3) (fin8 (r.mod.extractLsb' 4 3)) (r.mod.getLsbD 7)⟩
  else
  if r.fn.extractLsb' 6 3 == 1#3 && inSetF (r.fn.extractLsb' 0 6) then
    some ⟨{ modOk := ((r.mod.extractLsb' 0 3) != 6 && (r.mod.extractLsb' 0 3) != 7), immBad := 0xFFFFFFFF#32, immOk := true, dst := .v, sa := .v, sb := .vg, dn := 1, an := 1, bn := 1 },
        .vfdiv h (r.fn.extractLsb' 0 6) (vOf r.dst) (vOf r.sa) (vgOf r.sb) (r.mod.extractLsb' 0 3) (r.mod.getLsbD 3) (fin8 (r.mod.extractLsb' 4 3)) (r.mod.getLsbD 7)⟩
  else none

/-- The forms of opcode 0x45 (R265, R266, R267): the row of its table that FN, and where the table says so MOD or IMM, selects, with the
classes of its operand fields and the bits that must be 0. Any other FN is none: ILLEGAL_OPC at check 4 (R37). -/
noncomputable def form45 (r : Raw) (h : Hdr) : Option Sel :=
  if r.fn.extractLsb' 6 3 == 0#3 && inSetF (r.fn.extractLsb' 0 6) then
    some ⟨{ modOk := ((r.mod.extractLsb' 0 3) != 6 && (r.mod.extractLsb' 0 3) != 7), immBad := 0xFFFFFFFF#32, immOk := true, dst := .v, sa := .v, sb := .vg, dn := 1, an := 1, bn := 1 },
        .vfma h (r.fn.extractLsb' 0 6) (vOf r.dst) (vOf r.sa) (vgOf r.sb) (r.mod.extractLsb' 0 3) (r.mod.getLsbD 3) (fin8 (r.mod.extractLsb' 4 3)) (r.mod.getLsbD 7)⟩
  else
  if r.fn.extractLsb' 6 3 == 1#3 && inSetF (r.fn.extractLsb' 0 6) then
    some ⟨{ modOk := ((r.mod.extractLsb' 0 3) != 6 && (r.mod.extractLsb' 0 3) != 7), immBad := 0xFFFFFFFF#32, immOk := true, dst := .v, sa := .v, sb := .vg, dn := 1, an := 1, bn := 1 },
        .vfms h (r.fn.extractLsb' 0 6) (vOf r.dst) (vOf r.sa) (vgOf r.sb) (r.mod.extractLsb' 0 3) (r.mod.getLsbD 3) (fin8 (r.mod.extractLsb' 4 3)) (r.mod.getLsbD 7)⟩
  else
  if r.fn.extractLsb' 6 3 == 2#3 && inSetF (r.fn.extractLsb' 0 6) then
    some ⟨{ modOk := ((r.mod.extractLsb' 0 3) != 6 && (r.mod.extractLsb' 0 3) != 7), immBad := 0xFFFFFFFF#32, immOk := true, dst := .v, sa := .v, sb := .vg, dn := 1, an := 1, bn := 1 },
        .vfnma h (r.fn.extractLsb' 0 6) (vOf r.dst) (vOf r.sa) (vgOf r.sb) (r.mod.extractLsb' 0 3) (r.mod.getLsbD 3) (fin8 (r.mod.extractLsb' 4 3)) (r.mod.getLsbD 7)⟩
  else
  if r.fn.extractLsb' 6 3 == 3#3 && inSetF (r.fn.extractLsb' 0 6) then
    some ⟨{ modOk := ((r.mod.extractLsb' 0 3) != 6 && (r.mod.extractLsb' 0 3) != 7), immBad := 0xFFFFFFFF#32, immOk := true, dst := .v, sa := .v, sb := .vg, dn := 1, an := 1, bn := 1 },
        .vfnms h (r.fn.extractLsb' 0 6) (vOf r.dst) (vOf r.sa) (vgOf r.sb) (r.mod.extractLsb' 0 3) (r.mod.getLsbD 3) (fin8 (r.mod.extractLsb' 4 3)) (r.mod.getLsbD 7)⟩
  else none

/-- The forms of opcode 0x46 (R265, R266, R267): the row of its table that FN, and where the table says so MOD or IMM, selects, with the
classes of its operand fields and the bits that must be 0. Any other FN is none: ILLEGAL_OPC at check 4 (R37). -/
noncomputable def form46 (r : Raw) (h : Hdr) : Option Sel :=
  if r.fn.extractLsb' 6 3 == 0#3 && inSetF (r.fn.extractLsb' 0 6) then
    some ⟨{ modOk := r.mod &&& 7#8 == 0#8, immBad := 0xFFFFFFFF#32, immOk := true, dst := .v, sa := .v, sb := .vg, dn := 1, an := 1, bn := 1 },
        .vfmin h (r.fn.extractLsb' 0 6) (vOf r.dst) (vOf r.sa) (vgOf r.sb) (r.mod.getLsbD 3) (fin8 (r.mod.extractLsb' 4 3)) (r.mod.getLsbD 7)⟩
  else
  if r.fn.extractLsb' 6 3 == 1#3 && inSetF (r.fn.extractLsb' 0 6) then
    some ⟨{ modOk := r.mod &&& 7#8 == 0#8, immBad := 0xFFFFFFFF#32, immOk := true, dst := .v, sa := .v, sb := .vg, dn := 1, an := 1, bn := 1 },
        .vfmax h (r.fn.extractLsb' 0 6) (vOf r.dst) (vOf r.sa) (vgOf r.sb) (r.mod.getLsbD 3) (fin8 (r.mod.extractLsb' 4 3)) (r.mod.getLsbD 7)⟩
  else
  if r.fn.extractLsb' 6 3 == 2#3 && inSetF (r.fn.extractLsb' 0 6) then
    some ⟨{ modOk := r.mod &&& 7#8 == 0#8, immBad := 0xFFFFFFFF#32, immOk := true, dst := .v, sa := .v, sb := .none, dn := 1, an := 1, bn := 1 },
        .vfabs h (r.fn.extractLsb' 0 6) (vOf r.dst) (vOf r.sa) (r.mod.getLsbD 3) (fin8 (r.mod.extractLsb' 4 3)) (r.mod.getLsbD 7)⟩
  else
  if r.fn.extractLsb' 6 3 == 3#3 && inSetF (r.fn.extractLsb' 0 6) then
    some ⟨{ modOk := r.mod &&& 7#8 == 0#8, immBad := 0xFFFFFFFF#32, immOk := true, dst := .v, sa := .v, sb := .none, dn := 1, an := 1, bn := 1 },
        .vfneg h (r.fn.extractLsb' 0 6) (vOf r.dst) (vOf r.sa) (r.mod.getLsbD 3) (fin8 (r.mod.extractLsb' 4 3)) (r.mod.getLsbD 7)⟩
  else none

/-- The forms of opcode 0x47 (R265, R266, R267): the row of its table that FN, and where the table says so MOD or IMM, selects, with the
classes of its operand fields and the bits that must be 0. Any other FN is none: ILLEGAL_OPC at check 4 (R37). -/
noncomputable def form47 (r : Raw) (h : Hdr) : Option Sel :=
  if r.fn.extractLsb' 6 3 == 0#3 && inSetH (r.fn.extractLsb' 0 6) then
    some ⟨{ modOk := r.mod &&& 7#8 == 0#8, immBad := 0xFFFFFFFF#32, immOk := true, dst := .v, sa := .v, sb := .none, dn := 1, an := 1, bn := 1 },
        .vrcp h (r.fn.extractLsb' 0 6) (vOf r.dst) (vOf r.sa) (r.mod.getLsbD 3) (fin8 (r.mod.extractLsb' 4 3)) (r.mod.getLsbD 7)⟩
  else
  if r.fn.extractLsb' 6 3 == 1#3 && inSetH (r.fn.extractLsb' 0 6) then
    some ⟨{ modOk := r.mod &&& 7#8 == 0#8, immBad := 0xFFFFFFFF#32, immOk := true, dst := .v, sa := .v, sb := .none, dn := 1, an := 1, bn := 1 },
        .vrsq h (r.fn.extractLsb' 0 6) (vOf r.dst) (vOf r.sa) (r.mod.getLsbD 3) (fin8 (r.mod.extractLsb' 4 3)) (r.mod.getLsbD 7)⟩
  else
  if r.fn.extractLsb' 6 3 == 2#3 && inSetF (r.fn.extractLsb' 0 6) then
    some ⟨{ modOk := ((r.mod.extractLsb' 0 3) != 6 && (r.mod.extractLsb' 0 3) != 7), immBad := 0xFFFFFFFF#32, immOk := true, dst := .v, sa := .v, sb := .none, dn := 1, an := 1, bn := 1 },
        .vsqrt h (r.fn.extractLsb' 0 6) (vOf r.dst) (vOf r.sa) (r.mod.extractLsb' 0 3) (r.mod.getLsbD 3) (fin8 (r.mod.extractLsb' 4 3)) (r.mod.getLsbD 7)⟩
  else
  if r.fn.extractLsb' 6 3 == 3#3 && inSetH (r.fn.extractLsb' 0 6) then
    some ⟨{ modOk := r.mod &&& 7#8 == 0#8, immBad := 0xFFFFFFFF#32, immOk := true, dst := .v, sa := .v, sb := .none, dn := 1, an := 1, bn := 1 },
        .vexp2 h (r.fn.extractLsb' 0 6) (vOf r.dst) (vOf r.sa) (r.mod.getLsbD 3) (fin8 (r.mod.extractLsb' 4 3)) (r.mod.getLsbD 7)⟩
  else
  if r.fn.extractLsb' 6 3 == 4#3 && inSetH (r.fn.extractLsb' 0 6) then
    some ⟨{ modOk := r.mod &&& 7#8 == 0#8, immBad := 0xFFFFFFFF#32, immOk := true, dst := .v, sa := .v, sb := .none, dn := 1, an := 1, bn := 1 },
        .vlog2 h (r.fn.extractLsb' 0 6) (vOf r.dst) (vOf r.sa) (r.mod.getLsbD 3) (fin8 (r.mod.extractLsb' 4 3)) (r.mod.getLsbD 7)⟩
  else none

/-- The forms of opcode 0x48 (R265, R266, R267): the row of its table that FN, and where the table says so MOD or IMM, selects, with the
classes of its operand fields and the bits that must be 0. Any other FN is none: ILLEGAL_OPC at check 4 (R37). -/
noncomputable def form48 (r : Raw) (h : Hdr) : Option Sel :=
  if r.fn.extractLsb' 6 3 == 0#3 && inSetINT (r.fn.extractLsb' 0 6) then
    some ⟨{ modOk := ((r.mod.extractLsb' 0 3).ult 6), immBad := 0xFFFFFFFF#32, immOk := true, dst := .k, sa := .v, sb := .vg, dn := 1, an := 1, bn := 1 },
        .vcmp h (r.fn.extractLsb' 0 6) (kOf r.dst) (vOf r.sa) (vgOf r.sb) (r.mod.extractLsb' 0 3) (r.mod.getLsbD 3) (fin8 (r.mod.extractLsb' 4 3)) (r.mod.getLsbD 7)⟩
  else none

/-- The forms of opcode 0x49 (R265, R266, R267): the row of its table that FN, and where the table says so MOD or IMM, selects, with the
classes of its operand fields and the bits that must be 0. Any other FN is none: ILLEGAL_OPC at check 4 (R37). -/
noncomputable def form49 (r : Raw) (h : Hdr) : Option Sel :=
  if r.fn.extractLsb' 6 3 == 0#3 && inSetF (r.fn.extractLsb' 0 6) then
    some ⟨{ modOk := ((r.mod.extractLsb' 0 3).ult 5), immBad := 0xFFFFFFFF#32, immOk := true, dst := .k, sa := .v, sb := .vg, dn := 1, an := 1, bn := 1 },
        .vfcmp h (r.fn.extractLsb' 0 6) (kOf r.dst) (vOf r.sa) (vgOf r.sb) (r.mod.extractLsb' 0 3) (r.mod.getLsbD 3) (fin8 (r.mod.extractLsb' 4 3)) (r.mod.getLsbD 7)⟩
  else
  if r.fn.extractLsb' 6 3 == 1#3 && inSetF (r.fn.extractLsb' 0 6) then
    some ⟨{ modOk := r.mod &&& 7#8 == 0#8, immBad := 0xFFFFFFFF#32, immOk := true, dst := .v, sa := .v, sb := .none, dn := 1, an := 1, bn := 1 },
        .vfclass h (r.fn.extractLsb' 0 6) (vOf r.dst) (vOf r.sa) (r.mod.getLsbD 3) (fin8 (r.mod.extractLsb' 4 3)) (r.mod.getLsbD 7)⟩
  else none

/-- The forms of opcode 0x4A (R265, R266, R267): the row of its table that FN, and where the table says so MOD or IMM, selects, with the
classes of its operand fields and the bits that must be 0. Any other FN is none: ILLEGAL_OPC at check 4 (R37). -/
noncomputable def form4A (r : Raw) (h : Hdr) : Option Sel :=
  if r.fn.extractLsb' 6 3 == 0#3 && inSetE (r.fn.extractLsb' 0 6) then
    some ⟨{ modOk := r.mod &&& 135#8 == 0#8, immBad := 0xFFFFFFFF#32, immOk := true, dst := .v, sa := .v, sb := .v, dn := 1, an := 1, bn := 1 },
        .vsel h (r.fn.extractLsb' 0 6) (vOf r.dst) (vOf r.sa) (vOf r.sb) (r.mod.getLsbD 3) (fin8 (r.mod.extractLsb' 4 3))⟩
  else none

/-- The forms of opcode 0x4B (R265, R266, R267): the row of its table that FN, and where the table says so MOD or IMM, selects, with the
classes of its operand fields and the bits that must be 0. Any other FN is none: ILLEGAL_OPC at check 4 (R37). -/
noncomputable def form4B (r : Raw) (h : Hdr) : Option Sel :=
  if r.fn.extractLsb' 6 3 == 0#3 && inSetL (r.fn.extractLsb' 0 6) then
    some ⟨{ modOk := r.mod &&& 7#8 == 0#8, immBad := 0xFFFFFFFF#32, immOk := true, dst := .v, sa := .v, sb := .vg, dn := 1, an := 1, bn := 1 },
        .vand h (r.fn.extractLsb' 0 6) (vOf r.dst) (vOf r.sa) (vgOf r.sb) (r.mod.getLsbD 3) (fin8 (r.mod.extractLsb' 4 3)) (r.mod.getLsbD 7)⟩
  else
  if r.fn.extractLsb' 6 3 == 1#3 && inSetL (r.fn.extractLsb' 0 6) then
    some ⟨{ modOk := r.mod &&& 7#8 == 0#8, immBad := 0xFFFFFFFF#32, immOk := true, dst := .v, sa := .v, sb := .vg, dn := 1, an := 1, bn := 1 },
        .vor h (r.fn.extractLsb' 0 6) (vOf r.dst) (vOf r.sa) (vgOf r.sb) (r.mod.getLsbD 3) (fin8 (r.mod.extractLsb' 4 3)) (r.mod.getLsbD 7)⟩
  else
  if r.fn.extractLsb' 6 3 == 2#3 && inSetL (r.fn.extractLsb' 0 6) then
    some ⟨{ modOk := r.mod &&& 7#8 == 0#8, immBad := 0xFFFFFFFF#32, immOk := true, dst := .v, sa := .v, sb := .vg, dn := 1, an := 1, bn := 1 },
        .vxor h (r.fn.extractLsb' 0 6) (vOf r.dst) (vOf r.sa) (vgOf r.sb) (r.mod.getLsbD 3) (fin8 (r.mod.extractLsb' 4 3)) (r.mod.getLsbD 7)⟩
  else
  if r.fn.extractLsb' 6 3 == 3#3 && inSetL (r.fn.extractLsb' 0 6) then
    some ⟨{ modOk := r.mod &&& 7#8 == 0#8, immBad := 0xFFFFFFFF#32, immOk := true, dst := .v, sa := .v, sb := .vg, dn := 1, an := 1, bn := 1 },
        .vandn h (r.fn.extractLsb' 0 6) (vOf r.dst) (vOf r.sa) (vgOf r.sb) (r.mod.getLsbD 3) (fin8 (r.mod.extractLsb' 4 3)) (r.mod.getLsbD 7)⟩
  else none

/-- The forms of opcode 0x4C (R265, R266, R267): the row of its table that FN, and where the table says so MOD or IMM, selects, with the
classes of its operand fields and the bits that must be 0. Any other FN is none: ILLEGAL_OPC at check 4 (R37). -/
noncomputable def form4C (r : Raw) (h : Hdr) : Option Sel :=
  if r.fn.extractLsb' 6 3 == 0#3 && inSetINT (r.fn.extractLsb' 0 6) then
    some ⟨{ modOk := r.mod &&& 7#8 == 0#8, immBad := 0xFFFFFFFF#32, immOk := true, dst := .v, sa := .v, sb := .vg, dn := 1, an := 1, bn := 1 },
        .vshl h (r.fn.extractLsb' 0 6) (vOf r.dst) (vOf r.sa) (vgOf r.sb) (r.mod.getLsbD 3) (fin8 (r.mod.extractLsb' 4 3)) (r.mod.getLsbD 7)⟩
  else
  if r.fn.extractLsb' 6 3 == 1#3 && inSetINT (r.fn.extractLsb' 0 6) then
    some ⟨{ modOk := r.mod &&& 7#8 == 0#8, immBad := 0xFFFFFFFF#32, immOk := true, dst := .v, sa := .v, sb := .vg, dn := 1, an := 1, bn := 1 },
        .vshr h (r.fn.extractLsb' 0 6) (vOf r.dst) (vOf r.sa) (vgOf r.sb) (r.mod.getLsbD 3) (fin8 (r.mod.extractLsb' 4 3)) (r.mod.getLsbD 7)⟩
  else
  if r.fn.extractLsb' 6 3 == 2#3 && inSetINT (r.fn.extractLsb' 0 6) then
    some ⟨{ modOk := r.mod &&& 7#8 == 0#8, immBad := 0xFFFFFFFF#32, immOk := true, dst := .v, sa := .v, sb := .vg, dn := 1, an := 1, bn := 1 },
        .vshra h (r.fn.extractLsb' 0 6) (vOf r.dst) (vOf r.sa) (vgOf r.sb) (r.mod.getLsbD 3) (fin8 (r.mod.extractLsb' 4 3)) (r.mod.getLsbD 7)⟩
  else none

/-- The forms of opcode 0x4D (R265, R266, R267): the row of its table that FN, and where the table says so MOD or IMM, selects, with the
classes of its operand fields and the bits that must be 0. Any other FN is none: ILLEGAL_OPC at check 4 (R37). -/
noncomputable def form4D (r : Raw) (h : Hdr) : Option Sel :=
  if r.fn.extractLsb' 6 3 == 0#3 && inSetE (r.fn.extractLsb' 0 6) then
    some ⟨{ modOk := r.mod &&& 7#8 == 0#8, immBad := (if isG r.sa then 0xFFFFFFFF#32 else 0#32), immOk := true, dst := .v, sa := (if codeNeedsV (r.fn.extractLsb' 0 6) then .v else .vg), sb := .none, dn := 1, an := 1, bn := 1 },
        .vbcast h (r.fn.extractLsb' 0 6) (vOf r.dst) (r.mod.getLsbD 3) (fin8 (r.mod.extractLsb' 4 3)) (r.mod.getLsbD 7) (if isG r.sa then .g (gOf r.sa) else .v (vOf r.sa) r.imm)⟩
  else none

/-- The forms of opcode 0x4E (R265, R266, R267): the row of its table that FN, and where the table says so MOD or IMM, selects, with the
classes of its operand fields and the bits that must be 0. Any other FN is none: ILLEGAL_OPC at check 4 (R37). -/
noncomputable def form4E (r : Raw) (h : Hdr) : Option Sel :=
  if r.fn.extractLsb' 2 7 == 0#7 then
    some ⟨{ modOk := r.mod &&& 254#8 == 0#8, immBad := 0x00000000#32, immOk := true, dst := .g, sa := .v, sb := .g, dn := 1, an := 1, bn := 1 },
        .vext h (r.fn.extractLsb' 0 2) (gOf r.dst) (vOf r.sa) (gOf r.sb) (r.mod.getLsbD 0) r.imm⟩
  else
  if r.fn.extractLsb' 2 7 == 16#7 then
    some ⟨{ modOk := r.mod &&& 255#8 == 0#8, immBad := 0x00000000#32, immOk := true, dst := .v, sa := .g, sb := .g, dn := 1, an := 1, bn := 1 },
        .vins h (r.fn.extractLsb' 0 2) (vOf r.dst) (gOf r.sa) (gOf r.sb) r.imm⟩
  else none

/-- The forms of opcode 0x4F (R265, R266, R267): the row of its table that FN, and where the table says so MOD or IMM, selects, with the
classes of its operand fields and the bits that must be 0. Any other FN is none: ILLEGAL_OPC at check 4 (R37). -/
noncomputable def form4F (r : Raw) (h : Hdr) : Option Sel :=
  if r.fn.extractLsb' 2 7 == 0#7 then
    some ⟨{ modOk := r.mod &&& 7#8 == 0#8, immBad := 0xFFFFFFFF#32, immOk := true, dst := .v, sa := .v, sb := .v, dn := 1, an := 1, bn := 1 },
        .vperm h (r.fn.extractLsb' 0 2) (vOf r.dst) (vOf r.sa) (vOf r.sb) (r.mod.getLsbD 3) (fin8 (r.mod.extractLsb' 4 3)) (r.mod.getLsbD 7)⟩
  else none

/-- The forms of opcode 0x50 (R265, R266, R267): the row of its table that FN, and where the table says so MOD or IMM, selects, with the
classes of its operand fields and the bits that must be 0. Any other FN is none: ILLEGAL_OPC at check 4 (R37). -/
noncomputable def form50 (r : Raw) (h : Hdr) : Option Sel :=
  if r.fn.extractLsb' 2 7 == 0#7 then
    some ⟨{ modOk := r.mod &&& 7#8 == 0#8, immBad := 0x00000000#32, immOk := true, dst := .v, sa := .v, sb := .g, dn := 1, an := 1, bn := 1 },
        .vslideup h (r.fn.extractLsb' 0 2) (vOf r.dst) (vOf r.sa) (gOf r.sb) (r.mod.getLsbD 3) (fin8 (r.mod.extractLsb' 4 3)) (r.mod.getLsbD 7) r.imm⟩
  else
  if r.fn.extractLsb' 2 7 == 16#7 then
    some ⟨{ modOk := r.mod &&& 7#8 == 0#8, immBad := 0x00000000#32, immOk := true, dst := .v, sa := .v, sb := .g, dn := 1, an := 1, bn := 1 },
        .vslidedn h (r.fn.extractLsb' 0 2) (vOf r.dst) (vOf r.sa) (gOf r.sb) (r.mod.getLsbD 3) (fin8 (r.mod.extractLsb' 4 3)) (r.mod.getLsbD 7) r.imm⟩
  else none

/-- The forms of opcode 0x51 (R265, R266, R267): the row of its table that FN, and where the table says so MOD or IMM, selects, with the
classes of its operand fields and the bits that must be 0. Any other FN is none: ILLEGAL_OPC at check 4 (R37). -/
noncomputable def form51 (r : Raw) (h : Hdr) : Option Sel :=
  if r.fn.extractLsb' 6 3 == 0#3 && inSetINT (r.fn.extractLsb' 0 6) then
    some ⟨{ modOk := r.mod &&& 7#8 == 0#8, immBad := 0x00000000#32, immOk := true, dst := .v, sa := .g, sb := .none, dn := 1, an := 1, bn := 1 },
        .viota h (r.fn.extractLsb' 0 6) (vOf r.dst) (gOf r.sa) (r.mod.getLsbD 3) (fin8 (r.mod.extractLsb' 4 3)) (r.mod.getLsbD 7) r.imm⟩
  else none

/-- The forms of opcode 0x52 (R265, R266, R267): the row of its table that FN, and where the table says so MOD or IMM, selects, with the
classes of its operand fields and the bits that must be 0. Any other FN is none: ILLEGAL_OPC at check 4 (R37). -/
noncomputable def form52 (r : Raw) (h : Hdr) : Option Sel :=
  if r.fn == 0#9 then
    some ⟨{ modOk := r.mod &&& 255#8 == 0#8, immBad := 0xFFFFFFFF#32, immOk := true, dst := .k, sa := .k, sb := .k, dn := 1, an := 1, bn := 1 },
        .kand h (kOf r.dst) (kOf r.sa) (kOf r.sb)⟩
  else
  if r.fn == 1#9 then
    some ⟨{ modOk := r.mod &&& 255#8 == 0#8, immBad := 0xFFFFFFFF#32, immOk := true, dst := .k, sa := .k, sb := .k, dn := 1, an := 1, bn := 1 },
        .kor h (kOf r.dst) (kOf r.sa) (kOf r.sb)⟩
  else
  if r.fn == 2#9 then
    some ⟨{ modOk := r.mod &&& 255#8 == 0#8, immBad := 0xFFFFFFFF#32, immOk := true, dst := .k, sa := .k, sb := .k, dn := 1, an := 1, bn := 1 },
        .kxor h (kOf r.dst) (kOf r.sa) (kOf r.sb)⟩
  else
  if r.fn == 3#9 then
    some ⟨{ modOk := r.mod &&& 255#8 == 0#8, immBad := 0xFFFFFFFF#32, immOk := true, dst := .k, sa := .k, sb := .none, dn := 1, an := 1, bn := 1 },
        .knot h (kOf r.dst) (kOf r.sa)⟩
  else
  if r.fn == 4#9 then
    some ⟨{ modOk := r.mod &&& 255#8 == 0#8, immBad := 0xFFFFFF00#32, immOk := true, dst := .g, sa := .k, sb := .none, dn := 1, an := 1, bn := 1 },
        .kcnt h (gOf r.dst) (kOf r.sa) (r.imm.extractLsb' 0 8)⟩
  else
  if r.fn == 5#9 then
    some ⟨{ modOk := (if isG r.dst || isG r.sa then r.mod &&& 0xFE#8 == 0#8 else r.mod == 0#8), immBad := 0xFFFFFFFF#32, immOk := true, dst := .gk, sa := (if isG r.dst then .k else .gk), sb := .none, dn := 1, an := 1, bn := 1 },
        .kmov h (if isG r.dst then .gk (r.mod.getLsbD 0) (gOf r.dst) (kOf r.sa) else if isG r.sa then .kg (r.mod.getLsbD 0) (kOf r.dst) (gOf r.sa) else .kk (kOf r.dst) (kOf r.sa))⟩
  else none

/-- The forms of opcode 0x53 (R265, R266, R267): the row of its table that FN, and where the table says so MOD or IMM, selects, with the
classes of its operand fields and the bits that must be 0. Any other FN is none: ILLEGAL_OPC at check 4 (R37). -/
noncomputable def form53 (r : Raw) (h : Hdr) : Option Sel :=
  if r.fn.extractLsb' 6 3 == 0#3 && inSetINT (r.fn.extractLsb' 0 6) then
    some ⟨{ modOk := r.mod &&& 135#8 == 0#8, immBad := 0xFFFFFFFF#32, immOk := true, dst := .v, sa := .v, sb := .none, dn := 1, an := 1, bn := 1 },
        .vradd h (r.fn.extractLsb' 0 6) (vOf r.dst) (vOf r.sa) (r.mod.getLsbD 3) (fin8 (r.mod.extractLsb' 4 3))⟩
  else
  if r.fn.extractLsb' 6 3 == 1#3 && inSetINT (r.fn.extractLsb' 0 6) then
    some ⟨{ modOk := r.mod &&& 135#8 == 0#8, immBad := 0xFFFFFFFF#32, immOk := true, dst := .v, sa := .v, sb := .none, dn := 1, an := 1, bn := 1 },
        .vrmin h (r.fn.extractLsb' 0 6) (vOf r.dst) (vOf r.sa) (r.mod.getLsbD 3) (fin8 (r.mod.extractLsb' 4 3))⟩
  else
  if r.fn.extractLsb' 6 3 == 2#3 && inSetINT (r.fn.extractLsb' 0 6) then
    some ⟨{ modOk := r.mod &&& 135#8 == 0#8, immBad := 0xFFFFFFFF#32, immOk := true, dst := .v, sa := .v, sb := .none, dn := 1, an := 1, bn := 1 },
        .vrmax h (r.fn.extractLsb' 0 6) (vOf r.dst) (vOf r.sa) (r.mod.getLsbD 3) (fin8 (r.mod.extractLsb' 4 3))⟩
  else none

/-- The forms of opcode 0x54 (R265, R266, R267): the row of its table that FN, and where the table says so MOD or IMM, selects, with the
classes of its operand fields and the bits that must be 0. Any other FN is none: ILLEGAL_OPC at check 4 (R37). -/
noncomputable def form54 (r : Raw) (h : Hdr) : Option Sel :=
  if r.fn.extractLsb' 6 3 == 0#3 && inSetF (r.fn.extractLsb' 0 6) then
    some ⟨{ modOk := r.mod &&& 128#8 == 0#8 && ((r.mod.extractLsb' 0 3) != 6 && (r.mod.extractLsb' 0 3) != 7), immBad := 0xFFFFFFFF#32, immOk := true, dst := .v, sa := .v, sb := .none, dn := 1, an := 1, bn := 1 },
        .vrfadd h (r.fn.extractLsb' 0 6) (vOf r.dst) (vOf r.sa) (r.mod.extractLsb' 0 3) (r.mod.getLsbD 3) (fin8 (r.mod.extractLsb' 4 3))⟩
  else
  if r.fn.extractLsb' 6 3 == 1#3 && inSetF (r.fn.extractLsb' 0 6) then
    some ⟨{ modOk := r.mod &&& 135#8 == 0#8, immBad := 0xFFFFFFFF#32, immOk := true, dst := .v, sa := .v, sb := .none, dn := 1, an := 1, bn := 1 },
        .vrfmin h (r.fn.extractLsb' 0 6) (vOf r.dst) (vOf r.sa) (r.mod.getLsbD 3) (fin8 (r.mod.extractLsb' 4 3))⟩
  else
  if r.fn.extractLsb' 6 3 == 2#3 && inSetF (r.fn.extractLsb' 0 6) then
    some ⟨{ modOk := r.mod &&& 135#8 == 0#8, immBad := 0xFFFFFFFF#32, immOk := true, dst := .v, sa := .v, sb := .none, dn := 1, an := 1, bn := 1 },
        .vrfmax h (r.fn.extractLsb' 0 6) (vOf r.dst) (vOf r.sa) (r.mod.getLsbD 3) (fin8 (r.mod.extractLsb' 4 3))⟩
  else none

/-- The forms of opcode 0x55 (R265, R266, R267): the row of its table that FN, and where the table says so MOD or IMM, selects, with the
classes of its operand fields and the bits that must be 0. Any other FN is none: ILLEGAL_OPC at check 4 (R37). -/
noncomputable def form55 (r : Raw) (h : Hdr) : Option Sel :=
  if r.fn == 0#9 then
    some ⟨{ modOk := r.mod &&& 252#8 == 0#8, immBad := 0x00000000#32, immOk := true, dst := .v, sa := .g, sb := .none, dn := 1, an := 1, bn := 1 },
        .scfg h (vOf r.dst) (gOf r.sa) (fin4 (r.mod.extractLsb' 0 2)) r.imm⟩
  else
  if r.fn == 1#9 then
    some ⟨{ modOk := r.mod &&& 252#8 == 0#8, immBad := 0xFFFFFFFF#32, immOk := true, dst := .none, sa := .none, sb := .none, dn := 1, an := 1, bn := 1 },
        .sfree h (fin4 (r.mod.extractLsb' 0 2))⟩
  else none

/-- The forms of opcode 0x56 (R265, R266, R267): the row of its table that FN, and where the table says so MOD or IMM, selects, with the
classes of its operand fields and the bits that must be 0. Any other FN is none: ILLEGAL_OPC at check 4 (R37). -/
noncomputable def form56 (r : Raw) (h : Hdr) : Option Sel :=
  if r.fn == 0#9 then
    some ⟨{ modOk := r.mod &&& 255#8 == 0#8, immBad := 0xFFFFFC00#32, immOk := true, dst := .none, sa := .none, sb := .none, dn := 1, an := 1, bn := 1 },
        .vloop h (r.imm.extractLsb' 0 8) (fin4 (r.imm.extractLsb' 8 2))⟩
  else none

/-- The forms of opcode 0x57 (R265, R266, R267): the row of its table that FN, and where the table says so MOD or IMM, selects, with the
classes of its operand fields and the bits that must be 0. Any other FN is none: ILLEGAL_OPC at check 4 (R37). -/
noncomputable def form57 (r : Raw) (h : Hdr) : Option Sel :=
  if r.fn == 0#9 then
    some ⟨{ modOk := r.mod &&& 255#8 == 0#8, immBad := 0xFFFFFFFF#32, immOk := true, dst := .v, sa := .v, sb := .none, dn := 1, an := 1, bn := 1 },
        .vmov h (vOf r.dst) (vOf r.sa)⟩
  else
  if r.fn.extractLsb' 6 3 == 1#3 && inSetG (r.fn.extractLsb' 0 6) then
    some ⟨{ modOk := r.mod &&& 255#8 == 0#8, immBad := 0xFFFFFFFF#32, immOk := true, dst := .v, sa := .g, sb := .none, dn := 1, an := 16, bn := 1 },
        .vmovgFromG h (r.fn.extractLsb' 0 6) (vOf r.dst) (gOf r.sa)⟩
  else
  if r.fn == 128#9 then
    some ⟨{ modOk := r.mod &&& 255#8 == 0#8, immBad := 0xFFFFFFFF#32, immOk := true, dst := .g, sa := .v, sb := .none, dn := 16, an := 1, bn := 1 },
        .vmovgToG h (gOf r.dst) (vOf r.sa)⟩
  else none

/-- The forms of opcode 0x60 (R296, R297, R298): the row of its table that FN, and where the table says so MOD or IMM, selects, with the
classes of its operand fields and the bits that must be 0. Any other FN is none: ILLEGAL_OPC at check 4 (R37). -/
noncomputable def form60 (r : Raw) (h : Hdr) : Option Sel :=
  if r.fn == 0#9 then
    some ⟨{ modOk := r.mod &&& 12#8 == 0#8, immBad := 0xFFFFFFFF#32, immOk := true, dst := .v, sa := .v, sb := .vg, dn := 1, an := 1, bn := 1 },
        .vmadd h (vOf r.dst) (vOf r.sa) (vgOf r.sb) (fin4 (r.mod.extractLsb' 0 2)) (fin8 (r.mod.extractLsb' 4 3)) (r.mod.getLsbD 7)⟩
  else
  if r.fn == 1#9 then
    some ⟨{ modOk := r.mod &&& 12#8 == 0#8, immBad := 0xFFFFFFFF#32, immOk := true, dst := .v, sa := .v, sb := .vg, dn := 1, an := 1, bn := 1 },
        .vmsub h (vOf r.dst) (vOf r.sa) (vgOf r.sb) (fin4 (r.mod.extractLsb' 0 2)) (fin8 (r.mod.extractLsb' 4 3)) (r.mod.getLsbD 7)⟩
  else
  if r.fn == 2#9 then
    some ⟨{ modOk := r.mod &&& 12#8 == 0#8, immBad := 0xFFFFFFFF#32, immOk := true, dst := .v, sa := .v, sb := .none, dn := 1, an := 1, bn := 1 },
        .vmneg h (vOf r.dst) (vOf r.sa) (fin4 (r.mod.extractLsb' 0 2)) (fin8 (r.mod.extractLsb' 4 3)) (r.mod.getLsbD 7)⟩
  else none

/-- The forms of opcode 0x61 (R296, R297, R298): the row of its table that FN, and where the table says so MOD or IMM, selects, with the
classes of its operand fields and the bits that must be 0. Any other FN is none: ILLEGAL_OPC at check 4 (R37). -/
noncomputable def form61 (r : Raw) (h : Hdr) : Option Sel :=
  if r.fn == 0#9 then
    some ⟨{ modOk := r.mod &&& 12#8 == 0#8, immBad := 0xFFFFFFFF#32, immOk := true, dst := .v, sa := .v, sb := .vg, dn := 1, an := 1, bn := 1 },
        .vmmul h (vOf r.dst) (vOf r.sa) (vgOf r.sb) (fin4 (r.mod.extractLsb' 0 2)) (fin8 (r.mod.extractLsb' 4 3)) (r.mod.getLsbD 7)⟩
  else
  if r.fn == 1#9 then
    some ⟨{ modOk := r.mod &&& 12#8 == 0#8, immBad := 0xFFFFFFFF#32, immOk := true, dst := .v, sa := .v, sb := .vg, dn := 1, an := 1, bn := 1 },
        .vmmac h (vOf r.dst) (vOf r.sa) (vgOf r.sb) (fin4 (r.mod.extractLsb' 0 2)) (fin8 (r.mod.extractLsb' 4 3)) (r.mod.getLsbD 7)⟩
  else none

/-- The forms of opcode 0x62 (R296, R297, R298): the row of its table that FN, and where the table says so MOD or IMM, selects, with the
classes of its operand fields and the bits that must be 0. Any other FN is none: ILLEGAL_OPC at check 4 (R37). -/
noncomputable def form62 (r : Raw) (h : Hdr) : Option Sel :=
  if (r.fn == 0x00B#9 || r.fn == 0x00F#9) then
    some ⟨{ modOk := r.mod &&& 12#8 == 0#8, immBad := 0xFFFFFFFF#32, immOk := true, dst := .v, sa := .v, sb := .none, dn := 1, an := 1, bn := 1 },
        .vmred h (r.fn == 0x00F#9) (vOf r.dst) (vOf r.sa) (fin4 (r.mod.extractLsb' 0 2)) (fin8 (r.mod.extractLsb' 4 3)) (r.mod.getLsbD 7)⟩
  else
  if r.fn == 256#9 then
    some ⟨{ modOk := r.mod &&& 15#8 == 0#8, immBad := 0xFFFFFFFF#32, immOk := true, dst := .v, sa := .v, sb := .none, dn := 1, an := 1, bn := 1 },
        .vmcvtI64 h (vOf r.dst) (vOf r.sa) (fin8 (r.mod.extractLsb' 4 3)) (r.mod.getLsbD 7)⟩
  else
  if r.fn == 257#9 then
    some ⟨{ modOk := r.mod &&& 12#8 == 0#8, immBad := 0xFFFFFFFF#32, immOk := true, dst := .v, sa := .v, sb := .none, dn := 1, an := 1, bn := 1 },
        .vmcvtMn h (vOf r.dst) (vOf r.sa) (fin4 (r.mod.extractLsb' 0 2)) (fin8 (r.mod.extractLsb' 4 3)) (r.mod.getLsbD 7)⟩
  else
  if r.fn == 258#9 then
    some ⟨{ modOk := r.mod &&& 12#8 == 0#8, immBad := 0xFFFFFFFF#32, immOk := true, dst := .v, sa := .v, sb := .none, dn := 1, an := 1, bn := 1 },
        .vmcvtMs h (vOf r.dst) (vOf r.sa) (fin4 (r.mod.extractLsb' 0 2)) (fin8 (r.mod.extractLsb' 4 3)) (r.mod.getLsbD 7)⟩
  else none

/-- The forms of opcode 0x63 (R296, R297, R298): the row of its table that FN, and where the table says so MOD or IMM, selects, with the
classes of its operand fields and the bits that must be 0. Any other FN is none: ILLEGAL_OPC at check 4 (R37). -/
noncomputable def form63 (r : Raw) (h : Hdr) : Option Sel :=
  if r.fn == 0#9 then
    some ⟨{ modOk := r.mod &&& 252#8 == 0#8, immBad := 0xFFFFFFFF#32, immOk := true, dst := .none, sa := .v, sb := .none, dn := 1, an := 1, bn := 1 },
        .mqgen h (vOf r.sa) (fin4 (r.mod.extractLsb' 0 2))⟩
  else
  if r.fn == 1#9 then
    some ⟨{ modOk := r.mod &&& 252#8 == 0#8, immBad := 0xFFFFFFFF#32, immOk := true, dst := .none, sa := .v, sb := .v, dn := 1, an := 1, bn := 1 },
        .mqld h (vOf r.sa) (vOf r.sb) (fin4 (r.mod.extractLsb' 0 2))⟩
  else none

/-- The forms of opcode 0x64 (R296, R297, R298): the row of its table that FN, and where the table says so MOD or IMM, selects, with the
classes of its operand fields and the bits that must be 0. Any other FN is none: ILLEGAL_OPC at check 4 (R37). -/
noncomputable def form64 (r : Raw) (h : Hdr) : Option Sel :=
  if r.fn == 0#9 then
    some ⟨{ modOk := r.mod &&& 140#8 == 0#8, immBad := 0xFFFFFFFF#32, immOk := true, dst := .v, sa := .v, sb := .none, dn := 2, an := 1, bn := 1 },
        .bfly h (vOf r.dst) (vOf r.sa) (fin4 (r.mod.extractLsb' 0 2)) (fin8 (r.mod.extractLsb' 4 3))⟩
  else
  if r.fn == 1#9 then
    some ⟨{ modOk := r.mod &&& 140#8 == 0#8, immBad := 0xFFFFFFFF#32, immOk := true, dst := .v, sa := .v, sb := .none, dn := 2, an := 1, bn := 1 },
        .ibfly h (vOf r.dst) (vOf r.sa) (fin4 (r.mod.extractLsb' 0 2)) (fin8 (r.mod.extractLsb' 4 3))⟩
  else none

/-- The forms of opcode 0x65 (R296, R297, R298): the row of its table that FN, and where the table says so MOD or IMM, selects, with the
classes of its operand fields and the bits that must be 0. Any other FN is none: ILLEGAL_OPC at check 4 (R37). -/
noncomputable def form65 (r : Raw) (h : Hdr) : Option Sel :=
  if r.fn == 0#9 then
    some ⟨{ modOk := r.mod &&& 255#8 == 0#8, immBad := 0xFFFFFFFC#32, immOk := true, dst := .v, sa := .v, sb := .none, dn := 1, an := 1, bn := 1 },
        .bperm h (vOf r.dst) (vOf r.sa) (r.imm.extractLsb' 0 2)⟩
  else
  if r.fn == 1#9 then
    some ⟨{ modOk := r.mod &&& 255#8 == 0#8, immBad := 0xFFFFFFFC#32, immOk := true, dst := .v, sa := .none, sb := .none, dn := 2, an := 1, bn := 1 },
        .bpermx h (vOf r.dst) (r.imm.extractLsb' 0 2)⟩
  else
  if r.fn == 2#9 then
    some ⟨{ modOk := r.mod &&& 255#8 == 0#8, immBad := 0xFFFFFFF8#32, immOk := ((r.imm.extractLsb' 0 3) != 0 && (r.imm.extractLsb' 0 3).ult 5), dst := .v, sa := .v, sb := .none, dn := 1, an := 1, bn := 1 },
        .vbitrev h (vOf r.dst) (vOf r.sa) (r.imm.extractLsb' 0 3)⟩
  else none

/-- The forms of opcode 0x66 (R296, R297, R298): the row of its table that FN, and where the table says so MOD or IMM, selects, with the
classes of its operand fields and the bits that must be 0. Any other FN is none: ILLEGAL_OPC at check 4 (R37). -/
noncomputable def form66 (r : Raw) (h : Hdr) : Option Sel :=
  if r.fn == 0#9 then
    some ⟨{ modOk := r.mod &&& 128#8 == 0#8 && ((r.mod.extractLsb' 0 3) != 6 && (r.mod.extractLsb' 0 3) != 7), immBad := 0xFFFFFFFF#32, immOk := true, dst := .v, sa := .v, sb := .none, dn := 2, an := 1, bn := 1 },
        .vfft2 h (vOf r.dst) (vOf r.sa) (r.mod.extractLsb' 0 3) (r.mod.getLsbD 3) (fin8 (r.mod.extractLsb' 4 3))⟩
  else
  if r.fn == 1#9 then
    some ⟨{ modOk := ((r.mod.extractLsb' 0 3) != 6 && (r.mod.extractLsb' 0 3) != 7), immBad := 0xFFFFFFFF#32, immOk := true, dst := .v, sa := .v, sb := .v, dn := 1, an := 1, bn := 1 },
        .vcmul h (vOf r.dst) (vOf r.sa) (vOf r.sb) (r.mod.extractLsb' 0 3) (r.mod.getLsbD 3) (fin8 (r.mod.extractLsb' 4 3)) (r.mod.getLsbD 7)⟩
  else none

/-- The forms of opcode 0x68 (R339, R340, R341): the row of its table that FN, and where the table says so MOD or IMM, selects, with the
classes of its operand fields and the bits that must be 0. Any other FN is none: ILLEGAL_OPC at check 4 (R37). -/
noncomputable def form68 (r : Raw) (h : Hdr) : Option Sel :=
  if r.fn == 0#9 then
    some ⟨{ modOk := r.mod &&& 207#8 == 0#8, immBad := 0xFFFFFFFF#32, immOk := true, dst := .p, sa := .none, sb := .none, dn := 1, an := 1, bn := 1 },
        .zalloc h (pOf r.dst) (fin4 (r.mod.extractLsb' 4 2))⟩
  else
  if r.fn == 1#9 then
    some ⟨{ modOk := r.mod &&& 207#8 == 0#8, immBad := 0xFFFFFFFF#32, immOk := true, dst := .none, sa := .none, sb := .none, dn := 1, an := 1, bn := 1 },
        .zfree h (fin4 (r.mod.extractLsb' 4 2))⟩
  else
  if (r.fn == 2#9 || r.fn == 3#9) then
    some ⟨{ modOk := r.mod &&& 207#8 == 0#8, immBad := 0xFFFFFFFF#32, immOk := true, dst := .none, sa := .none, sb := .none, dn := 1, an := 1, bn := 1 },
        .zzero h (r.fn == 3#9) (fin4 (r.mod.extractLsb' 4 2))⟩
  else none

/-- The forms of opcode 0x69 (R339, R340, R341): the row of its table that FN, and where the table says so MOD or IMM, selects, with the
classes of its operand fields and the bits that must be 0. Any other FN is none: ILLEGAL_OPC at check 4 (R37). -/
noncomputable def form69 (r : Raw) (h : Hdr) : Option Sel :=
  if r.fn.extractLsb' 8 1 == 0#1 && inSetMX (r.fn.extractLsb' 0 8) then
    some ⟨{ modOk := r.mod &&& 143#8 == 0#8 && (!((r.mod.getLsbD 6) && isIntMX (r.fn.extractLsb' 0 8))), immBad := 0xFFFFFFFF#32, immOk := true, dst := .g, sa := .g, sb := .g, dn := 1, an := 1, bn := 1 },
        .zmma h (r.fn.extractLsb' 0 8) (gOf r.dst) (gOf r.sa) (gOf r.sb) (fin4 (r.mod.extractLsb' 4 2)) (r.mod.getLsbD 6)⟩
  else none

/-- The forms of opcode 0x6A (R339, R340, R341): the row of its table that FN, and where the table says so MOD or IMM, selects, with the
classes of its operand fields and the bits that must be 0. Any other FN is none: ILLEGAL_OPC at check 4 (R37). -/
noncomputable def form6A (r : Raw) (h : Hdr) : Option Sel :=
  if r.fn.extractLsb' 8 1 == 0#1 && inSetMX (r.fn.extractLsb' 0 8) then
    some ⟨{ modOk := r.mod &&& 143#8 == 0#8 && (!((r.mod.getLsbD 6) && isIntMX (r.fn.extractLsb' 0 8))), immBad := 0xFFFFFFFF#32, immOk := true, dst := .g, sa := .g, sb := .g, dn := 1, an := 1, bn := 1 },
        .zmmas h (r.fn.extractLsb' 0 8) (gOf r.dst) (gOf r.sa) (gOf r.sb) (fin4 (r.mod.extractLsb' 4 2)) (r.mod.getLsbD 6)⟩
  else none

/-- The forms of opcode 0x6B (R339, R340, R341): the row of its table that FN, and where the table says so MOD or IMM, selects, with the
classes of its operand fields and the bits that must be 0. Any other FN is none: ILLEGAL_OPC at check 4 (R37). -/
noncomputable def form6B (r : Raw) (h : Hdr) : Option Sel :=
  if (r.fn == 2#9 || r.fn == 0x00A#9) then
    some ⟨{ modOk := r.mod &&& 207#8 == 0#8, immBad := 0xFFF00000#32, immOk := true, dst := .none, sa := .g, sb := .none, dn := 1, an := 1, bn := 1 },
        .zldc h (r.fn == 0x00A#9) (gOf r.sa) (fin4 (r.mod.extractLsb' 4 2)) (r.imm.extractLsb' 0 20)⟩
  else none

/-- The forms of opcode 0x6C (R339, R340, R341): the row of its table that FN, and where the table says so MOD or IMM, selects, with the
classes of its operand fields and the bits that must be 0. Any other FN is none: ILLEGAL_OPC at check 4 (R37). -/
noncomputable def form6C (r : Raw) (h : Hdr) : Option Sel :=
  if r.fn == 0#9 then
    some ⟨{ modOk := r.mod &&& 204#8 == 0#8 && ((r.mod.extractLsb' 0 2) != 3), immBad := (if r.mod.extractLsb' 0 2 == 2#2 then 0xFFFFFFFB#32 else if r.mod.extractLsb' 0 2 == 1#2 then 0xFFFFFFF9#32 else 0xFFFFFFF8#32), immOk := true, dst := .v, sa := .g, sb := .none, dn := (1 <<< (r.mod.extractLsb' 0 2).toNat), an := 1, bn := 1 },
        .zread h (vOf r.dst) (gOf r.sa) (r.mod.extractLsb' 0 2) (fin4 (r.mod.extractLsb' 4 2)) (r.imm.extractLsb' 0 3)⟩
  else
  if r.fn.extractLsb' 8 1 == 1#1 && inSetZst (r.fn.extractLsb' 0 8) then
    some ⟨{ modOk := r.mod &&& 200#8 == 0#8 && (zstoreRmOk (r.fn.extractLsb' 0 8) (r.mod.extractLsb' 0 3)), immBad := 0xFFF00000#32, immOk := true, dst := .none, sa := .g, sb := .none, dn := 1, an := 1, bn := 1 },
        .zstore h (r.fn.extractLsb' 0 8) (gOf r.sa) (r.mod.extractLsb' 0 3) (fin4 (r.mod.extractLsb' 4 2)) (r.imm.extractLsb' 0 20)⟩
  else none

/-- The forms of opcode 0x6D (R339, R340, R341): the row of its table that FN, and where the table says so MOD or IMM, selects, with the
classes of its operand fields and the bits that must be 0. Any other FN is none: ILLEGAL_OPC at check 4 (R37). -/
noncomputable def form6D (r : Raw) (h : Hdr) : Option Sel :=
  if r.fn == 0#9 then
    some ⟨{ modOk := r.mod &&& 207#8 == 0#8, immBad := 0xFFFFFFFF#32, immOk := true, dst := .g, sa := .none, sb := .none, dn := 1, an := 1, bn := 1 },
        .zwm h (gOf r.dst) (fin4 (r.mod.extractLsb' 4 2))⟩
  else
  if r.fn == 1#9 then
    some ⟨{ modOk := r.mod &&& 207#8 == 0#8, immBad := 0x00000000#32, immOk := true, dst := .none, sa := .g, sb := .none, dn := 1, an := 1, bn := 1 },
        .zwait h (gOf r.sa) (fin4 (r.mod.extractLsb' 4 2)) r.imm⟩
  else none

/-- The forms of opcode 0x6E (R339, R340, R341): the row of its table that FN, and where the table says so MOD or IMM, selects, with the
classes of its operand fields and the bits that must be 0. Any other FN is none: ILLEGAL_OPC at check 4 (R37). -/
noncomputable def form6E (r : Raw) (h : Hdr) : Option Sel :=
  if r.fn == 0#9 then
    some ⟨{ modOk := r.mod &&& 254#8 == 0#8, immBad := 0xFFFFFF80#32, immOk := true, dst := .none, sa := .g, sb := .v, dn := 1, an := 1, bn := 1 },
        .zscl h (gOf r.sa) (vOf r.sb) (r.mod.getLsbD 0) (r.imm.extractLsb' 0 5) (r.imm.extractLsb' 5 2)⟩
  else
  if r.fn == 1#9 then
    some ⟨{ modOk := r.mod &&& 79#8 == 0#8, immBad := 0xFFFFFFFF#32, immOk := true, dst := .g, sa := .none, sb := .none, dn := 1, an := 1, bn := 1 },
        .zstatT h (gOf r.dst) (fin4 (r.mod.extractLsb' 4 2)) (r.mod.getLsbD 7)⟩
  else
  if r.fn == 2#9 then
    some ⟨{ modOk := r.mod &&& 127#8 == 0#8, immBad := 0xFFFFFFFF#32, immOk := true, dst := .g, sa := .none, sb := .none, dn := 1, an := 1, bn := 1 },
        .zstatF h (gOf r.dst) (r.mod.getLsbD 7)⟩
  else
  if r.fn == 3#9 then
    some ⟨{ modOk := r.mod &&& 255#8 == 0#8, immBad := 0xFFFFFFFF#32, immOk := true, dst := .g, sa := .none, sb := .none, dn := 1, an := 1, bn := 1 },
        .zstatS h (gOf r.dst)⟩
  else none

/-- The forms of opcode 0x70 (R377, R378): the row of its table that FN, and where the table says so MOD or IMM, selects, with the
classes of its operand fields and the bits that must be 0. Any other FN is none: ILLEGAL_OPC at check 4 (R37). -/
def form70 (r : Raw) (h : Hdr) : Option Sel :=
  if r.fn == 0#9 then
    some ⟨{ modOk := r.mod &&& 255#8 == 0#8, immBad := 0x00000000#32, immOk := true, dst := .g, sa := .g, sb := .none, dn := 1, an := 1, bn := 1 },
        .xcopy h (gOf r.dst) (gOf r.sa) r.imm⟩
  else none

/-- The forms of opcode 0x71 (R377, R378): the row of its table that FN, and where the table says so MOD or IMM, selects, with the
classes of its operand fields and the bits that must be 0. Any other FN is none: ILLEGAL_OPC at check 4 (R37). -/
def form71 (r : Raw) (h : Hdr) : Option Sel :=
  if r.fn == 0#9 then
    some ⟨{ modOk := r.mod &&& 255#8 == 0#8, immBad := 0x00000000#32, immOk := true, dst := .g, sa := .g, sb := .none, dn := 1, an := 1, bn := 1 },
        .xgath h (gOf r.dst) (gOf r.sa) r.imm⟩
  else
  if r.fn == 1#9 then
    some ⟨{ modOk := r.mod &&& 255#8 == 0#8, immBad := 0x00000000#32, immOk := true, dst := .g, sa := .g, sb := .none, dn := 1, an := 1, bn := 1 },
        .xscat h (gOf r.dst) (gOf r.sa) r.imm⟩
  else none

/-- The forms of opcode 0x72 (R377, R378): the row of its table that FN, and where the table says so MOD or IMM, selects, with the
classes of its operand fields and the bits that must be 0. Any other FN is none: ILLEGAL_OPC at check 4 (R37). -/
def form72 (r : Raw) (h : Hdr) : Option Sel :=
  if r.fn == 0#9 then
    some ⟨{ modOk := r.mod &&& 255#8 == 0#8, immBad := 0x00000000#32, immOk := true, dst := .g, sa := .g, sb := .none, dn := 1, an := 1, bn := 1 },
        .xfill h (gOf r.dst) (gOf r.sa) r.imm⟩
  else none

/-- The forms of opcode 0x73 (R377, R378): the row of its table that FN, and where the table says so MOD or IMM, selects, with the
classes of its operand fields and the bits that must be 0. Any other FN is none: ILLEGAL_OPC at check 4 (R37). -/
def form73 (r : Raw) (h : Hdr) : Option Sel :=
  if r.fn == 0#9 then
    some ⟨{ modOk := r.mod &&& 255#8 == 0#8, immBad := 0x00000000#32, immOk := true, dst := .g, sa := .g, sb := .none, dn := 1, an := 1, bn := 1 },
        .xcoll h (gOf r.dst) (gOf r.sa) r.imm⟩
  else none

/-- The forms of opcode 0x74 (R377, R378): the row of its table that FN, and where the table says so MOD or IMM, selects, with the
classes of its operand fields and the bits that must be 0. Any other FN is none: ILLEGAL_OPC at check 4 (R37). -/
def form74 (r : Raw) (h : Hdr) : Option Sel :=
  if r.fn == 0#9 then
    some ⟨{ modOk := r.mod &&& 252#8 == 0#8, immBad := 0xFFFFFFFF#32, immOk := true, dst := .none, sa := .g, sb := .none, dn := 1, an := 1, bn := 1 },
        .xwait h (gOf r.sa) (fin4 (r.mod.extractLsb' 0 2))⟩
  else
  if r.fn == 1#9 then
    some ⟨{ modOk := r.mod &&& 252#8 == 0#8, immBad := 0xFFFFFFFF#32, immOk := true, dst := .g, sa := .none, sb := .none, dn := 1, an := 1, bn := 1 },
        .xseq h (gOf r.dst) (fin4 (r.mod.extractLsb' 0 2))⟩
  else
  if r.fn == 2#9 then
    some ⟨{ modOk := r.mod &&& 252#8 == 0#8, immBad := 0xFFFFFFFF#32, immOk := true, dst := .g, sa := .g, sb := .none, dn := 1, an := 1, bn := 1 },
        .xcancel h (gOf r.dst) (gOf r.sa) (fin4 (r.mod.extractLsb' 0 2))⟩
  else none

/-- The forms of opcode 0x75 (R377, R378): the row of its table that FN, and where the table says so MOD or IMM, selects, with the
classes of its operand fields and the bits that must be 0. Any other FN is none: ILLEGAL_OPC at check 4 (R37). -/
def form75 (r : Raw) (h : Hdr) : Option Sel :=
  if r.fn == 0#9 then
    some ⟨{ modOk := r.mod &&& 255#8 == 0#8, immBad := 0xFFFFFFF0#32, immOk := true, dst := .none, sa := .g, sb := .none, dn := 1, an := 1, bn := 1 },
        .evxcfgC h (gOf r.sa) (r.imm.extractLsb' 0 4)⟩
  else
  if r.fn == 1#9 then
    some ⟨{ modOk := r.mod &&& 255#8 == 0#8, immBad := 0xFFFFFFE0#32, immOk := true, dst := .none, sa := .g, sb := .g, dn := 1, an := 1, bn := 1 },
        .evxcfgT h (gOf r.sa) (gOf r.sb) (r.imm.extractLsb' 0 5)⟩
  else
  if r.fn == 2#9 then
    some ⟨{ modOk := r.mod &&& 255#8 == 0#8, immBad := (if r.imm.getLsbD 5 then 0xFFFFFFC0#32 else 0xFFFFFFF0#32), immOk := true, dst := .g, sa := .none, sb := .none, dn := 1, an := 1, bn := 1 },
        .evxcfgR h (gOf r.dst) (r.imm.getLsbD 5) (r.imm.extractLsb' 0 5)⟩
  else
  if r.fn == 3#9 then
    some ⟨{ modOk := r.mod &&& 224#8 == 0#8, immBad := 0x00000000#32, immOk := true, dst := .g, sa := .g, sb := .none, dn := 1, an := 1, bn := 1 },
        .evxarm h (gOf r.dst) (gOf r.sa) (r.mod.extractLsb' 0 5) r.imm⟩
  else none

/-- The forms of opcode 0x76 (R377, R378): the row of its table that FN, and where the table says so MOD or IMM, selects, with the
classes of its operand fields and the bits that must be 0. Any other FN is none: ILLEGAL_OPC at check 4 (R37). -/
def form76 (r : Raw) (h : Hdr) : Option Sel :=
  if r.fn == 0#9 then
    some ⟨{ modOk := r.mod &&& 255#8 == 0#8, immBad := 0xFFFFFFF0#32, immOk := true, dst := .g, sa := .g, sb := .none, dn := 1, an := 1, bn := 1 },
        .sring h (gOf r.dst) (gOf r.sa) (r.imm.extractLsb' 0 4)⟩
  else
  if r.fn == 1#9 then
    some ⟨{ modOk := r.mod &&& 255#8 == 0#8, immBad := 0x00000000#32, immOk := true, dst := .g, sa := .g, sb := .none, dn := 1, an := 1, bn := 1 },
        .nsend h (gOf r.dst) (gOf r.sa) r.imm⟩
  else none

/-- The forms of opcode 0x78 (R437, R438): the row of its table that FN, and where the table says so MOD or IMM, selects, with the
classes of its operand fields and the bits that must be 0. Any other FN is none: ILLEGAL_OPC at check 4 (R37). -/
def form78 (r : Raw) (h : Hdr) : Option Sel :=
  if r.fn == 0#9 then
    some ⟨{ modOk := r.mod &&& 255#8 == 0#8, immBad := 0x00000000#32, immOk := true, dst := .g, sa := .g, sb := .none, dn := 1, an := 1, bn := 1 },
        .launch h (gOf r.dst) (gOf r.sa) r.imm⟩
  else none

/-- The forms of opcode 0x79 (R437, R438): the row of its table that FN, and where the table says so MOD or IMM, selects, with the
classes of its operand fields and the bits that must be 0. Any other FN is none: ILLEGAL_OPC at check 4 (R37). -/
def form79 (r : Raw) (h : Hdr) : Option Sel :=
  if r.fn == 0#9 then
    some ⟨{ modOk := r.mod &&& 240#8 == 0#8 && ((r.mod.extractLsb' 0 3) == 0 || (r.mod.extractLsb' 0 3).toNat >= 4), immBad := 0xFFFFFFFF#32, immOk := true, dst := .none, sa := .g, sb := .none, dn := 1, an := 4, bn := 1 },
        .spawn h (gOf r.sa) (r.mod.extractLsb' 0 3) (r.mod.getLsbD 3)⟩
  else
  if r.fn == 1#9 then
    some ⟨{ modOk := r.mod &&& 240#8 == 0#8 && ((r.mod.extractLsb' 0 3) == 0 || (r.mod.extractLsb' 0 3).toNat >= 4), immBad := 0xFFFFFFFF#32, immOk := true, dst := .none, sa := .g, sb := .g, dn := 1, an := 4, bn := 1 },
        .spawnR h (gOf r.sa) (gOf r.sb) (r.mod.extractLsb' 0 3) (r.mod.getLsbD 3)⟩
  else
  if r.fn == 2#9 then
    some ⟨{ modOk := r.mod &&& 255#8 == 0#8, immBad := 0xFFFFFFFF#32, immOk := true, dst := .g, sa := .g, sb := .none, dn := 1, an := 1, bn := 1 },
        .join h (gOf r.dst) (gOf r.sa)⟩
  else
  if r.fn == 3#9 then
    some ⟨{ modOk := r.mod &&& 255#8 == 0#8, immBad := 0xFFFFFFFF#32, immOk := true, dst := .none, sa := .none, sb := .none, dn := 1, an := 1, bn := 1 },
        .tend h⟩
  else none

/-- The forms of opcode 0x7A (R437, R438): the row of its table that FN, and where the table says so MOD or IMM, selects, with the
classes of its operand fields and the bits that must be 0. Any other FN is none: ILLEGAL_OPC at check 4 (R37). -/
def form7A (r : Raw) (h : Hdr) : Option Sel :=
  if r.fn == 0#9 then
    some ⟨{ modOk := r.mod &&& 255#8 == 0#8, immBad := 0xFFFFFFFF#32, immOk := true, dst := .g, sa := .none, sb := .none, dn := 1, an := 1, bn := 1 },
        .wid h (gOf r.dst)⟩
  else
  if r.fn == 1#9 then
    some ⟨{ modOk := r.mod &&& 255#8 == 0#8, immBad := 0xFFFFFFF8#32, immOk := ((r.imm.extractLsb' 0 3).ult 6), dst := .g, sa := .g, sb := .none, dn := 1, an := 1, bn := 1 },
        .widf h (gOf r.dst) (gOf r.sa) (r.imm.extractLsb' 0 3)⟩
  else
  if r.fn == 2#9 then
    some ⟨{ modOk := r.mod &&& 255#8 == 0#8, immBad := 0xFFFFFFFC#32, immOk := true, dst := .g, sa := .none, sb := .none, dn := 1, an := 1, bn := 1 },
        .corenum h (gOf r.dst) (r.imm.extractLsb' 0 2)⟩
  else none

/-- The forms of opcode 0x7B (R437, R438): the row of its table that FN, and where the table says so MOD or IMM, selects, with the
classes of its operand fields and the bits that must be 0. Any other FN is none: ILLEGAL_OPC at check 4 (R37). -/
def form7B (r : Raw) (h : Hdr) : Option Sel :=
  if r.fn == 0#9 then
    some ⟨{ modOk := r.mod &&& 255#8 == 0#8, immBad := 0xFFFFFFFF#32, immOk := true, dst := .none, sa := .g, sb := .none, dn := 1, an := 1, bn := 1 },
        .cdopen h (gOf r.sa)⟩
  else
  if r.fn == 1#9 then
    some ⟨{ modOk := r.mod &&& 255#8 == 0#8, immBad := 0xFFFFFFFF#32, immOk := true, dst := .g, sa := .none, sb := .none, dn := 1, an := 1, bn := 1 },
        .cdclose h (gOf r.dst)⟩
  else
  if r.fn == 2#9 && !(r.mod.getLsbD 0) then
    some ⟨{ modOk := r.mod &&& 255#8 == 0#8, immBad := 0xFFFFFFFF#32, immOk := true, dst := .none, sa := .none, sb := .none, dn := 1, an := 1, bn := 1 },
        .cdabort h⟩
  else
  if r.fn == 2#9 && r.mod.getLsbD 0 then
    some ⟨{ modOk := r.mod &&& 255#8 == 1#8, immBad := 0xFFFFFFFF#32, immOk := true, dst := .none, sa := .none, sb := .none, dn := 1, an := 1, bn := 1 },
        .cdabortRetry h⟩
  else none

/-- The forms of opcode 0x7C (R437, R438): the row of its table that FN, and where the table says so MOD or IMM, selects, with the
classes of its operand fields and the bits that must be 0. Any other FN is none: ILLEGAL_OPC at check 4 (R37). -/
def form7C (r : Raw) (h : Hdr) : Option Sel :=
  if r.fn == 0#9 then
    some ⟨{ modOk := r.mod &&& 254#8 == 0#8, immBad := 0xFFFFFFFF#32, immOk := true, dst := .none, sa := .g, sb := .g, dn := 1, an := 1, bn := 1 },
        .cdkeep h (gOf r.sa) (gOf r.sb) (r.mod.getLsbD 0)⟩
  else
  if r.fn == 1#9 then
    some ⟨{ modOk := r.mod &&& 255#8 == 0#8, immBad := 0xFFFFFFFF#32, immOk := true, dst := .none, sa := .g, sb := .g, dn := 1, an := 1, bn := 1 },
        .cdsig h (gOf r.sa) (gOf r.sb)⟩
  else none

/-- The forms of opcode 0x80 (R452): the row of its table that FN, and where the table says so MOD or IMM, selects, with the
classes of its operand fields and the bits that must be 0. Any other FN is none: ILLEGAL_OPC at check 4 (R37). -/
def form80 (r : Raw) (h : Hdr) : Option Sel :=
  if r.fn == 0#9 && sysReadPlain (r.imm.extractLsb' 0 12) then
    some ⟨{ modOk := r.mod &&& 255#8 == 0#8, immBad := 0xFFFFF000#32, immOk := true, dst := .g, sa := .none, sb := .none, dn := 1, an := 1, bn := 1 },
        .rdsys h (gOf r.dst) (r.imm.extractLsb' 0 12)⟩
  else
  if r.fn == 0#9 && r.imm.extractLsb' 0 12 == 0x089#12 then
    some ⟨{ modOk := r.mod &&& 255#8 == 0#8, immBad := 0xFFFFF000#32, immOk := true, dst := .g, sa := .none, sb := .none, dn := 1, an := 1, bn := 1 },
        .fbpop0Read h (gOf r.dst)⟩
  else
  if r.fn == 0#9 && r.imm.extractLsb' 0 12 == 0x0A0#12 then
    some ⟨{ modOk := r.mod &&& 255#8 == 0#8, immBad := 0xFFFFF000#32, immOk := true, dst := .g, sa := .none, sb := .none, dn := 1, an := 1, bn := 1 },
        .derrpopRead h (gOf r.dst)⟩
  else
  if r.fn == 1#9 && sysWritePlain (r.imm.extractLsb' 0 12) then
    some ⟨{ modOk := r.mod &&& 255#8 == 0#8, immBad := 0xFFFFF000#32, immOk := true, dst := .none, sa := .g, sb := .none, dn := 1, an := 1, bn := 1 },
        .wrsys h (gOf r.sa) (r.imm.extractLsb' 0 12)⟩
  else
  if r.fn == 1#9 && r.imm.extractLsb' 0 12 == 0x088#12 then
    some ⟨{ modOk := r.mod &&& 255#8 == 0#8, immBad := 0xFFFFF000#32, immOk := true, dst := .none, sa := .g, sb := .none, dn := 1, an := 1, bn := 1 },
        .fbstatDropClear h (gOf r.sa)⟩
  else
  if r.fn == 1#9 && r.imm.extractLsb' 0 12 == 0x0B0#12 then
    some ⟨{ modOk := r.mod &&& 255#8 == 0#8, immBad := 0xFFFFF000#32, immOk := true, dst := .none, sa := .g, sb := .none, dn := 1, an := 1, bn := 1 },
        .spdoorClear h (gOf r.sa)⟩
  else
  if r.fn == 1#9 && r.imm.extractLsb' 0 12 == 0x098#12 then
    some ⟨{ modOk := r.mod &&& 255#8 == 0#8, immBad := 0xFFFFF000#32, immOk := true, dst := .none, sa := .g, sb := .none, dn := 1, an := 1, bn := 1 },
        .slotctlGo h (gOf r.sa)⟩
  else
  if r.fn == 1#9 && r.imm.extractLsb' 2 10 == 0x006#10 then
    some ⟨{ modOk := r.mod &&& 255#8 == 0#8, immBad := 0xFFFFF000#32, immOk := true, dst := .none, sa := .g, sb := .none, dn := 1, an := 1, bn := 1 },
        .swzWrite h (gOf r.sa) (fin4 (r.imm.extractLsb' 0 2))⟩
  else
  if r.fn == 1#9 && r.imm.extractLsb' 0 12 == 0x090#12 then
    some ⟨{ modOk := r.mod &&& 255#8 == 0#8, immBad := 0xFFFFF000#32, immOk := true, dst := .none, sa := .g, sb := .none, dn := 1, an := 1, bn := 1 },
        .zshareWrite h (gOf r.sa)⟩
  else none

/-- The forms of opcode 0x81 (R452): the row of its table that FN, and where the table says so MOD or IMM, selects, with the
classes of its operand fields and the bits that must be 0. Any other FN is none: ILLEGAL_OPC at check 4 (R37). -/
def form81 (r : Raw) (h : Hdr) : Option Sel :=
  if r.fn == 0#9 then
    some ⟨{ modOk := r.mod &&& 255#8 == 0#8, immBad := 0x00000000#32, immOk := true, dst := .none, sa := .none, sb := .none, dn := 1, an := 1, bn := 1 },
        .syscall h r.imm⟩
  else
  if r.fn == 1#9 then
    some ⟨{ modOk := r.mod &&& 255#8 == 0#8, immBad := 0x00000000#32, immOk := true, dst := .none, sa := .none, sb := .none, dn := 1, an := 1, bn := 1 },
        .bkpt h r.imm⟩
  else none

/-- The forms of opcode 0x82 (R452): the row of its table that FN, and where the table says so MOD or IMM, selects, with the
classes of its operand fields and the bits that must be 0. Any other FN is none: ILLEGAL_OPC at check 4 (R37). -/
def form82 (r : Raw) (h : Hdr) : Option Sel :=
  if r.fn == 0#9 then
    some ⟨{ modOk := r.mod &&& 255#8 == 0#8, immBad := 0xFFFFFFFF#32, immOk := true, dst := .none, sa := .none, sb := .none, dn := 1, an := 1, bn := 1 },
        .xret h⟩
  else none

/-- The forms of opcode 0x83 (R452): the row of its table that FN, and where the table says so MOD or IMM, selects, with the
classes of its operand fields and the bits that must be 0. Any other FN is none: ILLEGAL_OPC at check 4 (R37). -/
def form83 (r : Raw) (h : Hdr) : Option Sel :=
  if r.fn == 0#9 then
    some ⟨{ modOk := r.mod &&& 255#8 == 0#8, immBad := 0xFFFFFFFF#32, immOk := true, dst := .none, sa := .none, sb := .none, dn := 1, an := 1, bn := 1 },
        .wfi h⟩
  else
  if r.fn == 1#9 then
    some ⟨{ modOk := r.mod &&& 255#8 == 0#8, immBad := 0xFFFFFFFF#32, immOk := true, dst := .none, sa := .none, sb := .none, dn := 1, an := 1, bn := 1 },
        .halt h⟩
  else none

/-- The forms of opcode 0x84 (R452): the row of its table that FN, and where the table says so MOD or IMM, selects, with the
classes of its operand fields and the bits that must be 0. Any other FN is none: ILLEGAL_OPC at check 4 (R37). -/
def form84 (r : Raw) (h : Hdr) : Option Sel :=
  if r.fn == 0#9 && r.mod.extractLsb' 0 2 == 0#2 then
    some ⟨{ modOk := r.mod &&& 255#8 == 0#8, immBad := 0xFFFFFFFF#32, immOk := true, dst := .none, sa := .g, sb := .g, dn := 1, an := 1, bn := 1 },
        .tlbinvPage h (gOf r.sa) (gOf r.sb)⟩
  else
  if r.fn == 0#9 && r.mod.extractLsb' 0 2 == 1#2 then
    some ⟨{ modOk := r.mod &&& 255#8 == 1#8, immBad := 0xFFFFFFFF#32, immOk := true, dst := .none, sa := .none, sb := .g, dn := 1, an := 1, bn := 1 },
        .tlbinvVsid h (gOf r.sb)⟩
  else
  if r.fn == 0#9 && r.mod.extractLsb' 0 2 == 2#2 then
    some ⟨{ modOk := r.mod &&& 255#8 == 2#8, immBad := 0xFFFFFFFF#32, immOk := true, dst := .none, sa := .none, sb := .none, dn := 1, an := 1, bn := 1 },
        .tlbinvAll h⟩
  else
  if r.fn == 1#9 then
    some ⟨{ modOk := r.mod &&& 255#8 == 0#8, immBad := 0xFFFFFFFF#32, immOk := true, dst := .none, sa := .g, sb := .none, dn := 1, an := 1, bn := 1 },
        .tlbreplay h (gOf r.sa)⟩
  else
  if r.fn == 0#9 then some ⟨{ modOk := false, immBad := 0#32, immOk := true, dst := .none, sa := .none, sb := .none, dn := 1, an := 1, bn := 1 }, .nop h⟩
  else none

/-- The forms of opcode 0x85 (R452): the row of its table that FN, and where the table says so MOD or IMM, selects, with the
classes of its operand fields and the bits that must be 0. Any other FN is none: ILLEGAL_OPC at check 4 (R37). -/
def form85 (r : Raw) (h : Hdr) : Option Sel :=
  if r.fn == 0#9 then
    some ⟨{ modOk := r.mod &&& 255#8 == 0#8, immBad := 0xFFFFFFFF#32, immOk := true, dst := .none, sa := .g, sb := .g, dn := 1, an := 1, bn := 1 },
        .ldovt h (gOf r.sa) (gOf r.sb)⟩
  else none

/-- The forms of opcode 0x86 (R452): the row of its table that FN, and where the table says so MOD or IMM, selects, with the
classes of its operand fields and the bits that must be 0. Any other FN is none: ILLEGAL_OPC at check 4 (R37). -/
def form86 (r : Raw) (h : Hdr) : Option Sel :=
  if r.fn == 0#9 then
    some ⟨{ modOk := r.mod &&& 254#8 == 0#8, immBad := 0xFFFFFFFF#32, immOk := true, dst := .g, sa := .g, sb := .g, dn := 1, an := 1, bn := 1 },
        .ctxsave h (gOf r.dst) (gOf r.sa) (gOf r.sb) (r.mod.getLsbD 0)⟩
  else
  if r.fn == 1#9 then
    some ⟨{ modOk := r.mod &&& 255#8 == 0#8, immBad := 0xFFFFFFFF#32, immOk := true, dst := .g, sa := .g, sb := .g, dn := 1, an := 1, bn := 1 },
        .ctxload h (gOf r.dst) (gOf r.sa) (gOf r.sb)⟩
  else none

/-- The form of a word: the outer none where OPC is reserved (check 3), the inner where FN is (check 4). -/
noncomputable def formOf (r : Raw) (h : Hdr) : Option (Option Sel) :=
  if r.opc == 0x01#8 then some (form01 r h) else
  if r.opc == 0x02#8 then some (form02 r h) else
  if r.opc == 0x03#8 then some (form03 r h) else
  if r.opc == 0x04#8 then some (form04 r h) else
  if r.opc == 0x05#8 then some (form05 r h) else
  if r.opc == 0x06#8 then some (form06 r h) else
  if r.opc == 0x07#8 then some (form07 r h) else
  if r.opc == 0x08#8 then some (form08 r h) else
  if r.opc == 0x09#8 then some (form09 r h) else
  if r.opc == 0x0A#8 then some (form0A r h) else
  if r.opc == 0x0B#8 then some (form0B r h) else
  if r.opc == 0x0C#8 then some (form0C r h) else
  if r.opc == 0x0D#8 then some (form0D r h) else
  if r.opc == 0x10#8 then some (form10 r h) else
  if r.opc == 0x11#8 then some (form11 r h) else
  if r.opc == 0x12#8 then some (form12 r h) else
  if r.opc == 0x13#8 then some (form13 r h) else
  if r.opc == 0x14#8 then some (form14 r h) else
  if r.opc == 0x15#8 then some (form15 r h) else
  if r.opc == 0x18#8 then some (form18 r h) else
  if r.opc == 0x19#8 then some (form19 r h) else
  if r.opc == 0x1A#8 then some (form1A r h) else
  if r.opc == 0x1B#8 then some (form1B r h) else
  if r.opc == 0x1C#8 then some (form1C r h) else
  if r.opc == 0x1D#8 then some (form1D r h) else
  if r.opc == 0x20#8 then some (form20 r h) else
  if r.opc == 0x21#8 then some (form21 r h) else
  if r.opc == 0x22#8 then some (form22 r h) else
  if r.opc == 0x23#8 then some (form23 r h) else
  if r.opc == 0x28#8 then some (form28 r h) else
  if r.opc == 0x29#8 then some (form29 r h) else
  if r.opc == 0x2A#8 then some (form2A r h) else
  if r.opc == 0x2B#8 then some (form2B r h) else
  if r.opc == 0x2C#8 then some (form2C r h) else
  if r.opc == 0x2D#8 then some (form2D r h) else
  if r.opc == 0x2E#8 then some (form2E r h) else
  if r.opc == 0x30#8 then some (form30 r h) else
  if r.opc == 0x31#8 then some (form31 r h) else
  if r.opc == 0x32#8 then some (form32 r h) else
  if r.opc == 0x33#8 then some (form33 r h) else
  if r.opc == 0x34#8 then some (form34 r h) else
  if r.opc == 0x38#8 then some (form38 r h) else
  if r.opc == 0x39#8 then some (form39 r h) else
  if r.opc == 0x3A#8 then some (form3A r h) else
  if r.opc == 0x3B#8 then some (form3B r h) else
  if r.opc == 0x3C#8 then some (form3C r h) else
  if r.opc == 0x3D#8 then some (form3D r h) else
  if r.opc == 0x40#8 then some (form40 r h) else
  if r.opc == 0x41#8 then some (form41 r h) else
  if r.opc == 0x42#8 then some (form42 r h) else
  if r.opc == 0x43#8 then some (form43 r h) else
  if r.opc == 0x44#8 then some (form44 r h) else
  if r.opc == 0x45#8 then some (form45 r h) else
  if r.opc == 0x46#8 then some (form46 r h) else
  if r.opc == 0x47#8 then some (form47 r h) else
  if r.opc == 0x48#8 then some (form48 r h) else
  if r.opc == 0x49#8 then some (form49 r h) else
  if r.opc == 0x4A#8 then some (form4A r h) else
  if r.opc == 0x4B#8 then some (form4B r h) else
  if r.opc == 0x4C#8 then some (form4C r h) else
  if r.opc == 0x4D#8 then some (form4D r h) else
  if r.opc == 0x4E#8 then some (form4E r h) else
  if r.opc == 0x4F#8 then some (form4F r h) else
  if r.opc == 0x50#8 then some (form50 r h) else
  if r.opc == 0x51#8 then some (form51 r h) else
  if r.opc == 0x52#8 then some (form52 r h) else
  if r.opc == 0x53#8 then some (form53 r h) else
  if r.opc == 0x54#8 then some (form54 r h) else
  if r.opc == 0x55#8 then some (form55 r h) else
  if r.opc == 0x56#8 then some (form56 r h) else
  if r.opc == 0x57#8 then some (form57 r h) else
  if r.opc == 0x60#8 then some (form60 r h) else
  if r.opc == 0x61#8 then some (form61 r h) else
  if r.opc == 0x62#8 then some (form62 r h) else
  if r.opc == 0x63#8 then some (form63 r h) else
  if r.opc == 0x64#8 then some (form64 r h) else
  if r.opc == 0x65#8 then some (form65 r h) else
  if r.opc == 0x66#8 then some (form66 r h) else
  if r.opc == 0x68#8 then some (form68 r h) else
  if r.opc == 0x69#8 then some (form69 r h) else
  if r.opc == 0x6A#8 then some (form6A r h) else
  if r.opc == 0x6B#8 then some (form6B r h) else
  if r.opc == 0x6C#8 then some (form6C r h) else
  if r.opc == 0x6D#8 then some (form6D r h) else
  if r.opc == 0x6E#8 then some (form6E r h) else
  if r.opc == 0x70#8 then some (form70 r h) else
  if r.opc == 0x71#8 then some (form71 r h) else
  if r.opc == 0x72#8 then some (form72 r h) else
  if r.opc == 0x73#8 then some (form73 r h) else
  if r.opc == 0x74#8 then some (form74 r h) else
  if r.opc == 0x75#8 then some (form75 r h) else
  if r.opc == 0x76#8 then some (form76 r h) else
  if r.opc == 0x78#8 then some (form78 r h) else
  if r.opc == 0x79#8 then some (form79 r h) else
  if r.opc == 0x7A#8 then some (form7A r h) else
  if r.opc == 0x7B#8 then some (form7B r h) else
  if r.opc == 0x7C#8 then some (form7C r h) else
  if r.opc == 0x80#8 then some (form80 r h) else
  if r.opc == 0x81#8 then some (form81 r h) else
  if r.opc == 0x82#8 then some (form82 r h) else
  if r.opc == 0x83#8 then some (form83 r h) else
  if r.opc == 0x84#8 then some (form84 r h) else
  if r.opc == 0x85#8 then some (form85 r h) else
  if r.opc == 0x86#8 then some (form86 r h) else
  none

/-- Check 8 of R37, field by field. -/
def badClass (s : Shape) (r : Raw) : Option Nat :=
  if !s.dst.ok r.dst then some 1 else if !s.sa.ok r.sa then some 2 else if !s.sb.ok r.sb then some 3 else none
/-- Check 9 of R37: an unused field that is not zero. -/
def badUnused (s : Shape) (r : Raw) : Option Nat :=
  if s.dst == .none && r.dst != 0 then some 1
  else if s.sa == .none && r.sa != 0 then some 2
  else if s.sb == .none && r.sb != 0 then some 3 else none
/-- One register group is aligned and inside its file (R38). -/
def groupFits (n : Nat) (x : BitVec 7) : Bool := n == 1 || groupOk n (fileSize x) (fileIndex x)
/-- Check 10 of R37. -/
def badGroup (s : Shape) (r : Raw) : Option Nat :=
  if !groupFits s.dn r.dst then some 1 else if !groupFits s.an r.sa then some 2
  else if !groupFits s.bn r.sb then some 3 else none
/-- Check 11 of R37: a vector source inside the destination group of n registers (R38). -/
def badOverlap (s : Shape) (r : Raw) : Option Nat :=
  if s.dn == 1 || s.dst != .v then none
  else if s.sa == .v && inGroup s.dn (fileIndex r.dst) (fileIndex r.sa) then some 2
  else if s.sb == .v && inGroup s.dn (fileIndex r.dst) (fileIndex r.sb) then some 3 else none

/-- ILLEGAL_OPND with XVAL 0x100 times the field plus the reason (R37). -/
def opndTrap (f reason : Nat) : Decoded := .bad .illegalOpnd (BitVec.ofNat 64 (0x100 * f + reason))

/-- Checks 5 to 11 of R37, in order. -/
def checkSel (r : Raw) (q : Sel) : Decoded :=
  let s := q.shape
  if !s.modOk then .bad .illegalOpc 0x05
  else if r.hnt.extractLsb' 9 5 != 0 then .bad .illegalOpc 0x06
  else if r.imm &&& s.immBad != 0 || !s.immOk then .bad .illegalOpc 0x07
  else match badClass s r with
  | some f => opndTrap f 1
  | none => match badUnused s r with
    | some f => opndTrap f 2
    | none => match badGroup s r with
      | some f => opndTrap f 3
      | none => match badOverlap s r with
        | some f => opndTrap f 4
        | none => .ok q.instr

/-- Checks 1 to 11 of R37 and the instruction of a word that passes them. Checks 12 and 13 depend on the core's mode
and are made when the instruction executes. -/
noncomputable def decodeWord (w : IWord) : Decoded :=
  if w == 0#96 then .bad .illegalOpc 0x01
  else if w == BitVec.allOnes 96 then .bad .illegalOpc 0x02
  else
    let r := Raw.unpack w
    match formOf r r.hdr with
    | none => .bad .illegalOpc 0x03
    | some none => .bad .illegalOpc 0x04
    | some (some q) => checkSel r q

/-- A word from the 12 bytes of memory that hold it, lowest address first (R21). -/
def wordOfBytes : List Byte → IWord
  | [] => 0
  | b :: bs => (wordOfBytes bs <<< 8) ||| b.setWidth 96

/-- The 12 bytes of a word, lowest address first (R21). -/
def bytesOfWord (w : IWord) : List Byte := (List.range 12).map fun i => w.extractLsb' (8 * i) 8

/-- Decodes the first 12 bytes of a list. -/
noncomputable def decodeBytes (bs : List Byte) : Decoded := decodeWord (wordOfBytes (bs.take 12))

/-- The instruction that the decoder reads from a word given as a number; a word of the table has 96 bits and a
shorter one has zeros above it. -/
noncomputable def decodeTableWord (nbits w : Nat) : Option Instr :=
  match decodeBytes (bytesOfWord (BitVec.ofNat 96 (w % 2 ^ nbits))) with
  | .ok i => some i
  | .bad _ _ => none

/-- The fields of an instruction; none for an event, which no word encodes. -/
def encodeRaw : Instr → Option Raw
  | .dividerResult _ => none
  | .evcWrite _ _ _ => none
  | .bcfgWrite _ _ _ => none
  | .globalAccessComplete _ => none
  | .pageWalk _ _ _ => none
  | .l1dEviction _ _ _ => none
  | .eventMessage _ => none
  | .barrierArrivalMessage _ => none
  | .barrierReleaseMessage _ => none
  | .channelClaim _ => none
  | .channelClaimAnswer _ _ => none
  | .channelMessageLand _ _ _ => none
  | .channelGrant _ _ => none
  | .timedMessageLand _ _ _ => none
  | .streamChunkArrive _ _ => none
  | .arrayOpStart _ _ => none
  | .arrayRowWrite _ _ _ => none
  | .arrayOpFinish _ _ => none
  | .scaleWriteRelease _ _ => none
  | .commandComplete _ _ _ => none
  | .commandFail _ _ _ => none
  | .collectiveGeneration _ _ _ => none
  | .spsumPairAdd _ => none
  | .storageCompletion _ _ _ => none
  | .networkReceive _ _ _ _ => none
  | .xbarPulseArrive _ => none
  | .yieldRequest _ => none
  | .graceExpiry _ => none
  | .launchWindowWrite _ _ _ _ => none
  | .launchActivate _ _ => none
  | .launchComplete _ _ => none
  | .taskPop _ => none
  | .idleSearchWiden _ => none
  | .queueAging => none
  | .domainCharge => none
  | .auditReplay _ _ _ _ => none
  | .saddleTick => none
  | .packetEject _ => none
  | .colChannelEscape _ => none
  | .dataFrameReceive _ _ _ => none
  | .replayRequest _ _ _ => none
  | .probeTimeout _ _ => none
  | .probe _ _ => none
  | .digest _ _ _ _ => none
  | .resetRequest _ _ _ => none
  | .linkRetrain _ _ => none
  | .linkReroute => none
  | .diagnosisVote _ _ _ _ => none
  | .dieTakeover _ _ => none
  | .dieMapFlip => none
  | .peerWindowAccess _ _ _ _ => none
  | .postedWriteArrive _ _ => none
  | .cxlMemAccess _ _ => none
  | .fabricRecall _ _ => none
  | .remoteAccessArrive _ _ _ => none
  | .layoutRequest _ => none
  | .layoutFlip => none
  | .protectionRequest _ _ => none
  | .attestationRequest _ => none
  | .serverMaskRequest _ => none
  | .spWatchdogReset _ => none
  | .spLoss _ => none
  | .vdSnapshot _ => none
  | .epochStart _ _ => none
  | .epochCommit _ => none
  | .groupRebuild _ _ _ => none
  | .packageLoss _ _ => none
  | .coreHangTimeout _ => none
  | .coreFailure _ => none
  | .clusterFailure _ => none
  | .l2SliceFence _ _ => none
  | .stackLoss _ => none
  | .ioDieLoss _ => none
  | .hbmScrub _ => none
  | .hbmRowRepair _ => none
  | .scoreDecay => none
  | .unitDrain _ => none
  | .unitTestDone _ _ => none
  | .bringUp _ _ _ => none
  | .vcoreDroop _ _ => none
  | .thermalThrottle _ _ => none
  | .powerCap _ => none
  | .thermalShutdown _ => none
  | .packageReset => none
  | .protectionGroupTimeout _ => none
  | .pwctlWrite _ _ => none
  | .vcoreRecovery _ _ => none
  | .throttleRelease _ _ => none
  | .haltRestart _ => none
  | .haltedPartitionEnd _ => none
  | .remoteSpareLend _ => none
  | .vdMigration _ _ _ => none
  | .nop h  => some { (Raw.base 0x14#8 h) with fn := 0#9 }
  | .timed h  => some { (Raw.base 0x14#8 h) with fn := 1#9 }
  | .checked h  => some { (Raw.base 0x14#8 h) with fn := 2#9 }
  | .gang h base num => some { (Raw.base 0x15#8 h) with fn := 0#9, imm := (base.setWidth 32 <<< 0) ||| (num.setWidth 32 <<< 5) }
  | .gsplit h  => some { (Raw.base 0x15#8 h) with fn := 1#9 }
  | .gjoin h  => some { (Raw.base 0x15#8 h) with fn := 2#9 }
  | .ld h d a sz zx imm => some { (Raw.base 0x18#8 h) with dst := opG d, sa := opG a, fn := 0#9, mod := (sz.setWidth 8 <<< 0) ||| bitAt 8 2 zx, imm := imm }
  | .st h a b sz imm => some { (Raw.base 0x19#8 h) with sa := opG a, sb := opG b, fn := 0#9, mod := (sz.setWidth 8 <<< 0), imm := imm }
  | .vld h tag d a x imm => some { (Raw.base 0x1A#8 h) with dst := opV d, sa := opG a, fn := tag.setWidth 9, mod := (x.setWidth 8 <<< 4), imm := imm }
  | .vst h a b x imm => some { (Raw.base 0x1A#8 h) with sa := opG a, sb := opV b, fn := 256#9, mod := (x.setWidth 8 <<< 4), imm := imm }
  | .vldImg h d a x imm => some { (Raw.base 0x1A#8 h) with dst := opV d, sa := opG a, fn := 257#9, mod := (x.setWidth 8 <<< 4), imm := imm }
  | .vstImg h a b x imm => some { (Raw.base 0x1A#8 h) with sa := opG a, sb := opV b, fn := 258#9, mod := (x.setWidth 8 <<< 4), imm := imm }
  | .vldl h tag d a km imm => some { (Raw.base 0x1B#8 h) with dst := opV d, sa := opV a, fn := tag.setWidth 9, mod := (BitVec.ofNat 8 km.val <<< 4), imm := imm }
  | .vstl h a b km imm => some { (Raw.base 0x1B#8 h) with sa := opV a, sb := opV b, fn := 256#9, mod := (BitVec.ofNat 8 km.val <<< 4), imm := imm }
  | .vgath h tag d a b km => some { (Raw.base 0x1C#8 h) with dst := opV d, sa := opG a, sb := opV b, fn := tag.setWidth 9, mod := (BitVec.ofNat 8 km.val <<< 4) }
  | .vscat h d a b km => some { (Raw.base 0x1C#8 h) with dst := opV d, sa := opG a, sb := opV b, fn := 256#9, mod := (BitVec.ofNat 8 km.val <<< 4) }
  | .kld h d a imm => some { (Raw.base 0x1D#8 h) with dst := opK d, sa := opG a, fn := 0#9, imm := imm }
  | .kst h a b imm => some { (Raw.base 0x1D#8 h) with sa := opG a, sb := opK b, fn := 1#9, imm := imm }
  | .gld h d a sz zx imm => some { (Raw.base 0x20#8 h) with dst := opG d, sa := opG a, fn := 256#9, mod := (sz.setWidth 8 <<< 0) ||| bitAt 8 2 zx, imm := imm }
  | .gst h a b sz imm => some { (Raw.base 0x21#8 h) with sa := opG a, sb := opG b, fn := 0#9, mod := (sz.setWidth 8 <<< 0), imm := imm }
  | .gldV h tag d a x imm => some { (Raw.base 0x20#8 h) with dst := opV d, sa := opG a, fn := tag.setWidth 9, mod := (x.setWidth 8 <<< 4), imm := imm }
  | .gstV h a b x imm => some { (Raw.base 0x21#8 h) with sa := opG a, sb := opV b, fn := 1#9, mod := (x.setWidth 8 <<< 4), imm := imm }
  | .gldImg h d a x imm => some { (Raw.base 0x20#8 h) with dst := opV d, sa := opG a, fn := 257#9, mod := (x.setWidth 8 <<< 4), imm := imm }
  | .gstImg h a b x imm => some { (Raw.base 0x21#8 h) with sa := opG a, sb := opV b, fn := 2#9, mod := (x.setWidth 8 <<< 4), imm := imm }
  | .rwb h a b => some { (Raw.base 0x22#8 h) with sa := opG a, sb := opG b, fn := 0#9 }
  | .rinv h a b => some { (Raw.base 0x22#8 h) with sa := opG a, sb := opG b, fn := 1#9 }
  | .rwbi h a b => some { (Raw.base 0x22#8 h) with sa := opG a, sb := opG b, fn := 2#9 }
  | .pref h a l2 imm => some { (Raw.base 0x23#8 h) with sa := opG a, fn := 0#9, mod := bitAt 8 0 l2, imm := imm }
  | .amo h op d a b sz scope imm => some { (Raw.base 0x28#8 h) with dst := opG d, sa := opG a, sb := opG b, fn := op.setWidth 9, mod := (sz.setWidth 8 <<< 0) ||| (scope.setWidth 8 <<< 4), imm := imm }
  | .cas h d a b sz scope imm => some { (Raw.base 0x29#8 h) with dst := opG d, sa := opG a, sb := opG b, fn := 0#9, mod := (sz.setWidth 8 <<< 0) ||| (scope.setWidth 8 <<< 4), imm := imm }
  | .red h op a b sz scope imm => some { (Raw.base 0x2A#8 h) with sa := opG a, sb := opG b, fn := op.setWidth 9, mod := (sz.setWidth 8 <<< 0) ||| (scope.setWidth 8 <<< 4), imm := imm }
  | .evsigEv h tgt e cnt => some { (Raw.base 0x2B#8 h) with sa := (match tgt with | some a => opG a | none => 0#7), fn := 0#9, mod := (match tgt with | some _ => 4#8 | none => 0#8), imm := (e.setWidth 32 <<< 0) ||| (cnt.setWidth 32 <<< 16) }
  | .evsigUnlock h m => some { (Raw.base 0x2B#8 h) with fn := 0#9, mod := 1#8, imm := (m.setWidth 32 <<< 0) }
  | .evsigPulse h c cnt => some { (Raw.base 0x2B#8 h) with fn := 0#9, mod := 2#8, imm := (c.setWidth 32 <<< 0) ||| (cnt.setWidth 32 <<< 16) }
  | .ldevWait h d e => some { (Raw.base 0x2B#8 h) with dst := opG d, fn := 1#9, mod := 0#8, imm := (e.setWidth 32 <<< 0) }
  | .ldevPoll h d e => some { (Raw.base 0x2B#8 h) with dst := opG d, fn := 1#9, mod := 1#8, imm := (e.setWidth 32 <<< 0) }
  | .ldevLock h d m => some { (Raw.base 0x2B#8 h) with dst := opG d, fn := 1#9, mod := 2#8, imm := (m.setWidth 32 <<< 0) }
  | .ldevTry h d m => some { (Raw.base 0x2B#8 h) with dst := opG d, fn := 1#9, mod := 3#8, imm := (m.setWidth 32 <<< 0) }
  | .bar h b => some { (Raw.base 0x2C#8 h) with fn := 0#9, imm := (b.setWidth 32 <<< 0) }
  | .barss h b => some { (Raw.base 0x2C#8 h) with fn := 1#9, imm := (b.setWidth 32 <<< 0) }
  | .spred h d a isOr b => some { (Raw.base 0x2E#8 h) with dst := opP d, sa := opP a, fn := 0#9, mod := bitAt 8 0 isOr, imm := (b.setWidth 32 <<< 0) }
  | .fence h scope paths => some { (Raw.base 0x2D#8 h) with fn := 0#9, mod := (scope.setWidth 8 <<< 4), imm := (paths.setWidth 32 <<< 0) }
  | .chdecl h d a ch slot => some { (Raw.base 0x30#8 h) with dst := opG d, sa := opG a, fn := 0#9, mod := 0#8, imm := (ch.setWidth 32 <<< 0) ||| (slot.setWidth 32 <<< 8) }
  | .chdeclRel h ch => some { (Raw.base 0x30#8 h) with fn := 0#9, mod := 1#8, imm := (ch.setWidth 32 <<< 0) }
  | .chsend h b ch => some { (Raw.base 0x31#8 h) with sb := opV b, fn := 0#9, imm := (ch.setWidth 32 <<< 0) }
  | .chrecv h d slot => some { (Raw.base 0x32#8 h) with dst := opV d, fn := 0#9, imm := (slot.setWidth 32 <<< 0) }
  | .chpoll h d slot pf => some { (Raw.base 0x32#8 h) with dst := opV d, fn := 1#9, imm := (slot.setWidth 32 <<< 0) ||| (BitVec.ofNat 32 pf.val <<< 4) }
  | .phase h b => some { (Raw.base 0x33#8 h) with fn := 0#9, imm := (b.setWidth 32 <<< 0) }
  | .tsend h b k => some { (Raw.base 0x34#8 h) with sb := opV b, fn := 0#9, imm := (k.setWidth 32 <<< 0) }
  | .trecv h d k => some { (Raw.base 0x34#8 h) with dst := opV d, fn := 1#9, imm := (k.setWidth 32 <<< 0) }
  | .xcopy h d a imm => some { (Raw.base 0x70#8 h) with dst := opG d, sa := opG a, fn := 0#9, imm := imm }
  | .xgath h d a imm => some { (Raw.base 0x71#8 h) with dst := opG d, sa := opG a, fn := 0#9, imm := imm }
  | .xscat h d a imm => some { (Raw.base 0x71#8 h) with dst := opG d, sa := opG a, fn := 1#9, imm := imm }
  | .xfill h d a imm => some { (Raw.base 0x72#8 h) with dst := opG d, sa := opG a, fn := 0#9, imm := imm }
  | .xcoll h d a imm => some { (Raw.base 0x73#8 h) with dst := opG d, sa := opG a, fn := 0#9, imm := imm }
  | .xwait h a cls => some { (Raw.base 0x74#8 h) with sa := opG a, fn := 0#9, mod := (BitVec.ofNat 8 cls.val <<< 0) }
  | .xseq h d cls => some { (Raw.base 0x74#8 h) with dst := opG d, fn := 1#9, mod := (BitVec.ofNat 8 cls.val <<< 0) }
  | .xcancel h d a cls => some { (Raw.base 0x74#8 h) with dst := opG d, sa := opG a, fn := 2#9, mod := (BitVec.ofNat 8 cls.val <<< 0) }
  | .evxcfgC h a i => some { (Raw.base 0x75#8 h) with sa := opG a, fn := 0#9, imm := (i.setWidth 32 <<< 0) }
  | .evxcfgT h a b i => some { (Raw.base 0x75#8 h) with sa := opG a, sb := opG b, fn := 1#9, imm := (i.setWidth 32 <<< 0) }
  | .evxcfgR h d term i => some { (Raw.base 0x75#8 h) with dst := opG d, fn := 2#9, imm := bitAt 32 5 term ||| (i.setWidth 32 <<< 0) }
  | .evxarm h d a t imm => some { (Raw.base 0x75#8 h) with dst := opG d, sa := opG a, fn := 3#9, mod := (t.setWidth 8 <<< 0), imm := imm }
  | .sring h d a r => some { (Raw.base 0x76#8 h) with dst := opG d, sa := opG a, fn := 0#9, imm := (r.setWidth 32 <<< 0) }
  | .nsend h d a imm => some { (Raw.base 0x76#8 h) with dst := opG d, sa := opG a, fn := 1#9, imm := imm }
  | .launch h d a imm => some { (Raw.base 0x78#8 h) with dst := opG d, sa := opG a, fn := 0#9, imm := imm }
  | .spawn h a pri loc => some { (Raw.base 0x79#8 h) with sa := opG a, fn := 0#9, mod := (pri.setWidth 8 <<< 0) ||| bitAt 8 3 loc }
  | .spawnR h a b pri loc => some { (Raw.base 0x79#8 h) with sa := opG a, sb := opG b, fn := 1#9, mod := (pri.setWidth 8 <<< 0) ||| bitAt 8 3 loc }
  | .join h d a => some { (Raw.base 0x79#8 h) with dst := opG d, sa := opG a, fn := 2#9 }
  | .tend h  => some { (Raw.base 0x79#8 h) with fn := 3#9 }
  | .wid h d => some { (Raw.base 0x7A#8 h) with dst := opG d, fn := 0#9 }
  | .widf h d a i => some { (Raw.base 0x7A#8 h) with dst := opG d, sa := opG a, fn := 1#9, imm := (i.setWidth 32 <<< 0) }
  | .corenum h d sel => some { (Raw.base 0x7A#8 h) with dst := opG d, fn := 2#9, imm := (sel.setWidth 32 <<< 0) }
  | .cdopen h a => some { (Raw.base 0x7B#8 h) with sa := opG a, fn := 0#9 }
  | .cdclose h d => some { (Raw.base 0x7B#8 h) with dst := opG d, fn := 1#9 }
  | .cdabort h  => some { (Raw.base 0x7B#8 h) with fn := 2#9, mod := 0#8 }
  | .cdabortRetry h  => some { (Raw.base 0x7B#8 h) with fn := 2#9, mod := 1#8 }
  | .cdkeep h a b snap => some { (Raw.base 0x7C#8 h) with sa := opG a, sb := opG b, fn := 0#9, mod := bitAt 8 0 snap }
  | .cdsig h a b => some { (Raw.base 0x7C#8 h) with sa := opG a, sb := opG b, fn := 1#9 }
  | .rdsys h d n => some { (Raw.base 0x80#8 h) with dst := opG d, fn := 0#9, imm := (n.setWidth 32 <<< 0) }
  | .wrsys h a n => some { (Raw.base 0x80#8 h) with sa := opG a, fn := 1#9, imm := (n.setWidth 32 <<< 0) }
  | .fbpop0Read h d => some { (Raw.base 0x80#8 h) with dst := opG d, fn := 0#9, imm := 137#32 }
  | .derrpopRead h d => some { (Raw.base 0x80#8 h) with dst := opG d, fn := 0#9, imm := 160#32 }
  | .fbstatDropClear h a => some { (Raw.base 0x80#8 h) with sa := opG a, fn := 1#9, imm := 136#32 }
  | .spdoorClear h a => some { (Raw.base 0x80#8 h) with sa := opG a, fn := 1#9, imm := 176#32 }
  | .slotctlGo h a => some { (Raw.base 0x80#8 h) with sa := opG a, fn := 1#9, imm := 152#32 }
  | .swzWrite h a i => some { (Raw.base 0x80#8 h) with sa := opG a, fn := 1#9, imm := (0x018#32 ||| BitVec.ofNat 32 i.val) }
  | .zshareWrite h a => some { (Raw.base 0x80#8 h) with sa := opG a, fn := 1#9, imm := 144#32 }
  | .syscall h imm => some { (Raw.base 0x81#8 h) with fn := 0#9, imm := imm }
  | .bkpt h imm => some { (Raw.base 0x81#8 h) with fn := 1#9, imm := imm }
  | .xret h  => some { (Raw.base 0x82#8 h) with fn := 0#9 }
  | .wfi h  => some { (Raw.base 0x83#8 h) with fn := 0#9 }
  | .halt h  => some { (Raw.base 0x83#8 h) with fn := 1#9 }
  | .tlbinvPage h a b => some { (Raw.base 0x84#8 h) with sa := opG a, sb := opG b, fn := 0#9, mod := 0#8 }
  | .tlbinvVsid h b => some { (Raw.base 0x84#8 h) with sb := opG b, fn := 0#9, mod := 1#8 }
  | .tlbinvAll h  => some { (Raw.base 0x84#8 h) with fn := 0#9, mod := 2#8 }
  | .tlbreplay h a => some { (Raw.base 0x84#8 h) with sa := opG a, fn := 1#9 }
  | .ldovt h a b => some { (Raw.base 0x85#8 h) with sa := opG a, sb := opG b, fn := 0#9 }
  | .ctxsave h d a b swap => some { (Raw.base 0x86#8 h) with dst := opG d, sa := opG a, sb := opG b, fn := 0#9, mod := bitAt 8 0 swap }
  | .ctxload h d a b => some { (Raw.base 0x86#8 h) with dst := opG d, sa := opG a, sb := opG b, fn := 1#9 }
  | .add h d a b w => some { (Raw.base 0x01#8 h) with dst := opG d, sa := opG a, sb := opG b, fn := 0#9, mod := bitAt 8 4 w }
  | .sub h d a b w => some { (Raw.base 0x01#8 h) with dst := opG d, sa := opG a, sb := opG b, fn := 1#9, mod := bitAt 8 4 w }
  | .andR h d a b => some { (Raw.base 0x01#8 h) with dst := opG d, sa := opG a, sb := opG b, fn := 2#9 }
  | .orR h d a b => some { (Raw.base 0x01#8 h) with dst := opG d, sa := opG a, sb := opG b, fn := 3#9 }
  | .xorR h d a b => some { (Raw.base 0x01#8 h) with dst := opG d, sa := opG a, sb := opG b, fn := 4#9 }
  | .andn h d a b => some { (Raw.base 0x01#8 h) with dst := opG d, sa := opG a, sb := opG b, fn := 5#9 }
  | .orn h d a b => some { (Raw.base 0x01#8 h) with dst := opG d, sa := opG a, sb := opG b, fn := 6#9 }
  | .neg h d a w => some { (Raw.base 0x01#8 h) with dst := opG d, sa := opG a, fn := 7#9, mod := bitAt 8 4 w }
  | .addi h d a w imm => some { (Raw.base 0x02#8 h) with dst := opG d, sa := opG a, fn := 0#9, mod := bitAt 8 4 w, imm := imm }
  | .andi h d a imm => some { (Raw.base 0x02#8 h) with dst := opG d, sa := opG a, fn := 1#9, imm := imm }
  | .ori h d a imm => some { (Raw.base 0x02#8 h) with dst := opG d, sa := opG a, fn := 2#9, imm := imm }
  | .xori h d a imm => some { (Raw.base 0x02#8 h) with dst := opG d, sa := opG a, fn := 3#9, imm := imm }
  | .shl h d a w src => some { (Raw.base 0x03#8 h) with dst := opG d, sa := opG a, sb := (match src with | .imm _ => 0#7 | .reg b => opG b), fn := 0#9, mod := bitAt 8 4 w ||| (match src with | .imm _ => 0x20#8 | .reg _ => 0#8), imm := (match src with | .imm n => n.setWidth 32 | .reg _ => 0#32) }
  | .shr h d a w src => some { (Raw.base 0x03#8 h) with dst := opG d, sa := opG a, sb := (match src with | .imm _ => 0#7 | .reg b => opG b), fn := 1#9, mod := bitAt 8 4 w ||| (match src with | .imm _ => 0x20#8 | .reg _ => 0#8), imm := (match src with | .imm n => n.setWidth 32 | .reg _ => 0#32) }
  | .shra h d a w src => some { (Raw.base 0x03#8 h) with dst := opG d, sa := opG a, sb := (match src with | .imm _ => 0#7 | .reg b => opG b), fn := 2#9, mod := bitAt 8 4 w ||| (match src with | .imm _ => 0x20#8 | .reg _ => 0#8), imm := (match src with | .imm n => n.setWidth 32 | .reg _ => 0#32) }
  | .rol h d a w src => some { (Raw.base 0x03#8 h) with dst := opG d, sa := opG a, sb := (match src with | .imm _ => 0#7 | .reg b => opG b), fn := 3#9, mod := bitAt 8 4 w ||| (match src with | .imm _ => 0x20#8 | .reg _ => 0#8), imm := (match src with | .imm n => n.setWidth 32 | .reg _ => 0#32) }
  | .ror h d a w src => some { (Raw.base 0x03#8 h) with dst := opG d, sa := opG a, sb := (match src with | .imm _ => 0#7 | .reg b => opG b), fn := 4#9, mod := bitAt 8 4 w ||| (match src with | .imm _ => 0x20#8 | .reg _ => 0#8), imm := (match src with | .imm n => n.setWidth 32 | .reg _ => 0#32) }
  | .mul h d a b w => some { (Raw.base 0x04#8 h) with dst := opG d, sa := opG a, sb := opG b, fn := 0#9, mod := bitAt 8 4 w }
  | .mulh h d a b w => some { (Raw.base 0x04#8 h) with dst := opG d, sa := opG a, sb := opG b, fn := 1#9, mod := bitAt 8 4 w }
  | .mulhn h d a b w => some { (Raw.base 0x04#8 h) with dst := opG d, sa := opG a, sb := opG b, fn := 2#9, mod := bitAt 8 4 w }
  | .div h d a b w => some { (Raw.base 0x04#8 h) with dst := opG d, sa := opG a, sb := opG b, fn := 3#9, mod := bitAt 8 4 w }
  | .divn h d a b w => some { (Raw.base 0x04#8 h) with dst := opG d, sa := opG a, sb := opG b, fn := 4#9, mod := bitAt 8 4 w }
  | .rem h d a b w => some { (Raw.base 0x04#8 h) with dst := opG d, sa := opG a, sb := opG b, fn := 5#9, mod := bitAt 8 4 w }
  | .remn h d a b w => some { (Raw.base 0x04#8 h) with dst := opG d, sa := opG a, sb := opG b, fn := 6#9, mod := bitAt 8 4 w }
  | .clz h d a w => some { (Raw.base 0x05#8 h) with dst := opG d, sa := opG a, fn := 0#9, mod := bitAt 8 4 w }
  | .ctz h d a w => some { (Raw.base 0x05#8 h) with dst := opG d, sa := opG a, fn := 1#9, mod := bitAt 8 4 w }
  | .popc h d a w => some { (Raw.base 0x05#8 h) with dst := opG d, sa := opG a, fn := 2#9, mod := bitAt 8 4 w }
  | .brev h d a w => some { (Raw.base 0x05#8 h) with dst := opG d, sa := opG a, fn := 3#9, mod := bitAt 8 4 w }
  | .bswap h d a w => some { (Raw.base 0x05#8 h) with dst := opG d, sa := opG a, fn := 4#9, mod := bitAt 8 4 w }
  | .bfx h d a w pos len => some { (Raw.base 0x06#8 h) with dst := opG d, sa := opG a, fn := 0#9, mod := bitAt 8 4 w, imm := (pos.setWidth 32 <<< 0) ||| (len.setWidth 32 <<< 6) }
  | .bfxn h d a w pos len => some { (Raw.base 0x06#8 h) with dst := opG d, sa := opG a, fn := 1#9, mod := bitAt 8 4 w, imm := (pos.setWidth 32 <<< 0) ||| (len.setWidth 32 <<< 6) }
  | .bfi h d a w pos len => some { (Raw.base 0x06#8 h) with dst := opG d, sa := opG a, fn := 2#9, mod := bitAt 8 4 w, imm := (pos.setWidth 32 <<< 0) ||| (len.setWidth 32 <<< 6) }
  | .min h d a b w => some { (Raw.base 0x07#8 h) with dst := opG d, sa := opG a, sb := opG b, fn := 0#9, mod := bitAt 8 4 w }
  | .minn h d a b w => some { (Raw.base 0x07#8 h) with dst := opG d, sa := opG a, sb := opG b, fn := 1#9, mod := bitAt 8 4 w }
  | .max h d a b w => some { (Raw.base 0x07#8 h) with dst := opG d, sa := opG a, sb := opG b, fn := 2#9, mod := bitAt 8 4 w }
  | .maxn h d a b w => some { (Raw.base 0x07#8 h) with dst := opG d, sa := opG a, sb := opG b, fn := 3#9, mod := bitAt 8 4 w }
  | .sel h d a b c neg => some { (Raw.base 0x07#8 h) with dst := opG d, sa := opG a, sb := opG b, fn := 4#9, imm := (BitVec.ofNat 32 c.val <<< 0) ||| bitAt 32 3 neg }
  | .mov h d a => some { (Raw.base 0x08#8 h) with dst := opG d, sa := opG a, fn := 0#9 }
  | .movi h d imm => some { (Raw.base 0x08#8 h) with dst := opG d, fn := 1#9, imm := imm }
  | .movhi h d imm => some { (Raw.base 0x08#8 h) with dst := opG d, fn := 2#9, imm := imm }
  | .movp h o => some { (Raw.base 0x08#8 h) with dst := (match o with | .toG d _ => opG d | .toP d _ => opP d), sa := (match o with | .toG _ a => opP a | .toP _ a => opG a), fn := 3#9 }
  | .lea h d a b sc imm => some { (Raw.base 0x09#8 h) with dst := opG d, sa := opG a, sb := opG b, fn := 0#9, mod := (sc.setWidth 8 <<< 4), imm := imm }
  | .cmp h d a cc w src => some { (Raw.base 0x0A#8 h) with dst := opP d, sa := opG a, sb := (match src with | .imm _ => 0#7 | .reg b => opG b), fn := 0#9, mod := (cc.setWidth 8 <<< 0) ||| bitAt 8 4 w ||| (match src with | .imm _ => 0x20#8 | .reg _ => 0#8), imm := (match src with | .imm n => n | .reg _ => 0#32) }
  | .fadd h d a b rm f32 => some { (Raw.base 0x0B#8 h) with dst := opG d, sa := opG a, sb := opG b, fn := 0#9, mod := (rm.setWidth 8 <<< 0) ||| bitAt 8 4 f32 }
  | .fsub h d a b rm f32 => some { (Raw.base 0x0B#8 h) with dst := opG d, sa := opG a, sb := opG b, fn := 1#9, mod := (rm.setWidth 8 <<< 0) ||| bitAt 8 4 f32 }
  | .fmul h d a b rm f32 => some { (Raw.base 0x0B#8 h) with dst := opG d, sa := opG a, sb := opG b, fn := 2#9, mod := (rm.setWidth 8 <<< 0) ||| bitAt 8 4 f32 }
  | .fdiv h d a b rm f32 => some { (Raw.base 0x0B#8 h) with dst := opG d, sa := opG a, sb := opG b, fn := 3#9, mod := (rm.setWidth 8 <<< 0) ||| bitAt 8 4 f32 }
  | .fsqrt h d a rm f32 => some { (Raw.base 0x0B#8 h) with dst := opG d, sa := opG a, fn := 4#9, mod := (rm.setWidth 8 <<< 0) ||| bitAt 8 4 f32 }
  | .fma h d a b rm f32 => some { (Raw.base 0x0B#8 h) with dst := opG d, sa := opG a, sb := opG b, fn := 5#9, mod := (rm.setWidth 8 <<< 0) ||| bitAt 8 4 f32 }
  | .fcmp h d a b cc f32 => some { (Raw.base 0x0C#8 h) with dst := opP d, sa := opG a, sb := opG b, fn := 0#9, mod := (cc.setWidth 8 <<< 0) ||| bitAt 8 4 f32 }
  | .fclass h d a f32 => some { (Raw.base 0x0C#8 h) with dst := opG d, sa := opG a, fn := 1#9, mod := bitAt 8 4 f32 }
  | .fmin h d a b f32 => some { (Raw.base 0x0D#8 h) with dst := opG d, sa := opG a, sb := opG b, fn := 0#9, mod := bitAt 8 4 f32 }
  | .fmax h d a b f32 => some { (Raw.base 0x0D#8 h) with dst := opG d, sa := opG a, sb := opG b, fn := 1#9, mod := bitAt 8 4 f32 }
  | .fabs h d a f32 => some { (Raw.base 0x0D#8 h) with dst := opG d, sa := opG a, fn := 2#9, mod := bitAt 8 4 f32 }
  | .fneg h d a f32 => some { (Raw.base 0x0D#8 h) with dst := opG d, sa := opG a, fn := 3#9, mod := bitAt 8 4 f32 }
  | .fcpys h d a b f32 => some { (Raw.base 0x0D#8 h) with dst := opG d, sa := opG a, sb := opG b, fn := 4#9, mod := bitAt 8 4 f32 }
  | .br h lx imm => some { (Raw.base 0x10#8 h) with fn := 0#9, mod := bitAt 8 0 lx, imm := imm }
  | .call h d imm => some { (Raw.base 0x10#8 h) with dst := opG d, fn := 1#9, imm := imm }
  | .jr h a lx imm => some { (Raw.base 0x11#8 h) with sa := opG a, fn := 0#9, mod := bitAt 8 0 lx, imm := imm }
  | .callr h d a imm => some { (Raw.base 0x11#8 h) with dst := opG d, sa := opG a, fn := 1#9, imm := imm }
  | .ret h a => some { (Raw.base 0x11#8 h) with sa := opG a, fn := 2#9 }
  | .loop h a len => some { (Raw.base 0x12#8 h) with sa := opG a, fn := 0#9, imm := (len.setWidth 32 <<< 0) }
  | .loopi h len cnt => some { (Raw.base 0x12#8 h) with fn := 1#9, imm := (len.setWidth 32 <<< 0) ||| (cnt.setWidth 32 <<< 8) }
  | .pand h d a b na nb => some { (Raw.base 0x13#8 h) with dst := opP d, sa := opP a, sb := opP b, fn := 0#9, mod := bitAt 8 0 na ||| bitAt 8 1 nb }
  | .por h d a b na nb => some { (Raw.base 0x13#8 h) with dst := opP d, sa := opP a, sb := opP b, fn := 1#9, mod := bitAt 8 0 na ||| bitAt 8 1 nb }
  | .pxor h d a b na nb => some { (Raw.base 0x13#8 h) with dst := opP d, sa := opP a, sb := opP b, fn := 2#9, mod := bitAt 8 0 na ||| bitAt 8 1 nb }
  | .pnot h d a => some { (Raw.base 0x13#8 h) with dst := opP d, sa := opP a, fn := 3#9 }
  | .pmov h d a => some { (Raw.base 0x13#8 h) with dst := opP d, sa := opP a, fn := 4#9 }
  | .vcvt h tag d a rm stm chunk => some { (Raw.base 0x38#8 h) with dst := opV d, sa := opV a, fn := tag.setWidth 9, mod := (rm.setWidth 8 <<< 0) ||| bitAt 8 3 stm ||| (chunk.setWidth 8 <<< 4) }
  | .vcvts h tag d a b rm stm chunk => some { (Raw.base 0x39#8 h) with dst := opV d, sa := opV a, sb := opG b, fn := tag.setWidth 9, mod := (rm.setWidth 8 <<< 0) ||| bitAt 8 3 stm ||| (chunk.setWidth 8 <<< 4) }
  | .vtag h tag d a => some { (Raw.base 0x3A#8 h) with dst := opV d, sa := opV a, fn := tag.setWidth 9 }
  | .vtagr h d a => some { (Raw.base 0x3A#8 h) with dst := opG d, sa := opV a, fn := 256#9 }
  | .vquant h tag d a b rm chunk j => some { (Raw.base 0x3B#8 h) with dst := opV d, sa := opV a, sb := opV b, fn := tag.setWidth 9, mod := (rm.setWidth 8 <<< 0) ||| (chunk.setWidth 8 <<< 4), imm := (j.setWidth 32 <<< 0) }
  | .vdeq h d a b rm chunk j => some { (Raw.base 0x3B#8 h) with dst := opV d, sa := opV a, sb := opV b, fn := 258#9, mod := (rm.setWidth 8 <<< 0) ||| (chunk.setWidth 8 <<< 4), imm := (j.setWidth 32 <<< 0) }
  | .vscl h tag d a j => some { (Raw.base 0x3C#8 h) with dst := opV d, sa := opV a, fn := tag.setWidth 9, imm := (j.setWidth 32 <<< 0) }
  | .scvt h src dt d a rm => some { (Raw.base 0x3D#8 h) with dst := opG d, sa := opG a, fn := (0#2 ++ src ++ 0#1 ++ dt), mod := (rm.setWidth 8 <<< 0) }
  | .vadd h code d a b stm km z => some { (Raw.base 0x40#8 h) with dst := opV d, sa := opV a, sb := opVG b, fn := (0#3 ++ code), mod := bitAt 8 3 stm ||| (BitVec.ofNat 8 km.val <<< 4) ||| bitAt 8 7 z }
  | .vsub h code d a b stm km z => some { (Raw.base 0x40#8 h) with dst := opV d, sa := opV a, sb := opVG b, fn := (1#3 ++ code), mod := bitAt 8 3 stm ||| (BitVec.ofNat 8 km.val <<< 4) ||| bitAt 8 7 z }
  | .vadds h code d a b stm km z => some { (Raw.base 0x40#8 h) with dst := opV d, sa := opV a, sb := opVG b, fn := (2#3 ++ code), mod := bitAt 8 3 stm ||| (BitVec.ofNat 8 km.val <<< 4) ||| bitAt 8 7 z }
  | .vsubs h code d a b stm km z => some { (Raw.base 0x40#8 h) with dst := opV d, sa := opV a, sb := opVG b, fn := (3#3 ++ code), mod := bitAt 8 3 stm ||| (BitVec.ofNat 8 km.val <<< 4) ||| bitAt 8 7 z }
  | .vabs h code d a stm km z => some { (Raw.base 0x40#8 h) with dst := opV d, sa := opV a, fn := (4#3 ++ code), mod := bitAt 8 3 stm ||| (BitVec.ofNat 8 km.val <<< 4) ||| bitAt 8 7 z }
  | .vmul h code d a b stm km z => some { (Raw.base 0x41#8 h) with dst := opV d, sa := opV a, sb := opVG b, fn := (0#3 ++ code), mod := bitAt 8 3 stm ||| (BitVec.ofNat 8 km.val <<< 4) ||| bitAt 8 7 z }
  | .vmulh h code d a b stm km z => some { (Raw.base 0x41#8 h) with dst := opV d, sa := opV a, sb := opVG b, fn := (1#3 ++ code), mod := bitAt 8 3 stm ||| (BitVec.ofNat 8 km.val <<< 4) ||| bitAt 8 7 z }
  | .vmulhn h code d a b stm km z => some { (Raw.base 0x41#8 h) with dst := opV d, sa := opV a, sb := opVG b, fn := (2#3 ++ code), mod := bitAt 8 3 stm ||| (BitVec.ofNat 8 km.val <<< 4) ||| bitAt 8 7 z }
  | .vmin h code d a b stm km z => some { (Raw.base 0x42#8 h) with dst := opV d, sa := opV a, sb := opVG b, fn := (0#3 ++ code), mod := bitAt 8 3 stm ||| (BitVec.ofNat 8 km.val <<< 4) ||| bitAt 8 7 z }
  | .vminn h code d a b stm km z => some { (Raw.base 0x42#8 h) with dst := opV d, sa := opV a, sb := opVG b, fn := (1#3 ++ code), mod := bitAt 8 3 stm ||| (BitVec.ofNat 8 km.val <<< 4) ||| bitAt 8 7 z }
  | .vmax h code d a b stm km z => some { (Raw.base 0x42#8 h) with dst := opV d, sa := opV a, sb := opVG b, fn := (2#3 ++ code), mod := bitAt 8 3 stm ||| (BitVec.ofNat 8 km.val <<< 4) ||| bitAt 8 7 z }
  | .vmaxn h code d a b stm km z => some { (Raw.base 0x42#8 h) with dst := opV d, sa := opV a, sb := opVG b, fn := (3#3 ++ code), mod := bitAt 8 3 stm ||| (BitVec.ofNat 8 km.val <<< 4) ||| bitAt 8 7 z }
  | .vfadd h code d a b rm stm km z => some { (Raw.base 0x43#8 h) with dst := opV d, sa := opV a, sb := opVG b, fn := (0#3 ++ code), mod := (rm.setWidth 8 <<< 0) ||| bitAt 8 3 stm ||| (BitVec.ofNat 8 km.val <<< 4) ||| bitAt 8 7 z }
  | .vfsub h code d a b rm stm km z => some { (Raw.base 0x43#8 h) with dst := opV d, sa := opV a, sb := opVG b, fn := (1#3 ++ code), mod := (rm.setWidth 8 <<< 0) ||| bitAt 8 3 stm ||| (BitVec.ofNat 8 km.val <<< 4) ||| bitAt 8 7 z }
  | .vfmul h code d a b rm stm km z => some { (Raw.base 0x44#8 h) with dst := opV d, sa := opV a, sb := opVG b, fn := (0#3 ++ code), mod := (rm.setWidth 8 <<< 0) ||| bitAt 8 3 stm ||| (BitVec.ofNat 8 km.val <<< 4) ||| bitAt 8 7 z }
  | .vfdiv h code d a b rm stm km z => some { (Raw.base 0x44#8 h) with dst := opV d, sa := opV a, sb := opVG b, fn := (1#3 ++ code), mod := (rm.setWidth 8 <<< 0) ||| bitAt 8 3 stm ||| (BitVec.ofNat 8 km.val <<< 4) ||| bitAt 8 7 z }
  | .vfma h code d a b rm stm km z => some { (Raw.base 0x45#8 h) with dst := opV d, sa := opV a, sb := opVG b, fn := (0#3 ++ code), mod := (rm.setWidth 8 <<< 0) ||| bitAt 8 3 stm ||| (BitVec.ofNat 8 km.val <<< 4) ||| bitAt 8 7 z }
  | .vfms h code d a b rm stm km z => some { (Raw.base 0x45#8 h) with dst := opV d, sa := opV a, sb := opVG b, fn := (1#3 ++ code), mod := (rm.setWidth 8 <<< 0) ||| bitAt 8 3 stm ||| (BitVec.ofNat 8 km.val <<< 4) ||| bitAt 8 7 z }
  | .vfnma h code d a b rm stm km z => some { (Raw.base 0x45#8 h) with dst := opV d, sa := opV a, sb := opVG b, fn := (2#3 ++ code), mod := (rm.setWidth 8 <<< 0) ||| bitAt 8 3 stm ||| (BitVec.ofNat 8 km.val <<< 4) ||| bitAt 8 7 z }
  | .vfnms h code d a b rm stm km z => some { (Raw.base 0x45#8 h) with dst := opV d, sa := opV a, sb := opVG b, fn := (3#3 ++ code), mod := (rm.setWidth 8 <<< 0) ||| bitAt 8 3 stm ||| (BitVec.ofNat 8 km.val <<< 4) ||| bitAt 8 7 z }
  | .vfmin h code d a b stm km z => some { (Raw.base 0x46#8 h) with dst := opV d, sa := opV a, sb := opVG b, fn := (0#3 ++ code), mod := bitAt 8 3 stm ||| (BitVec.ofNat 8 km.val <<< 4) ||| bitAt 8 7 z }
  | .vfmax h code d a b stm km z => some { (Raw.base 0x46#8 h) with dst := opV d, sa := opV a, sb := opVG b, fn := (1#3 ++ code), mod := bitAt 8 3 stm ||| (BitVec.ofNat 8 km.val <<< 4) ||| bitAt 8 7 z }
  | .vfabs h code d a stm km z => some { (Raw.base 0x46#8 h) with dst := opV d, sa := opV a, fn := (2#3 ++ code), mod := bitAt 8 3 stm ||| (BitVec.ofNat 8 km.val <<< 4) ||| bitAt 8 7 z }
  | .vfneg h code d a stm km z => some { (Raw.base 0x46#8 h) with dst := opV d, sa := opV a, fn := (3#3 ++ code), mod := bitAt 8 3 stm ||| (BitVec.ofNat 8 km.val <<< 4) ||| bitAt 8 7 z }
  | .vrcp h code d a stm km z => some { (Raw.base 0x47#8 h) with dst := opV d, sa := opV a, fn := (0#3 ++ code), mod := bitAt 8 3 stm ||| (BitVec.ofNat 8 km.val <<< 4) ||| bitAt 8 7 z }
  | .vrsq h code d a stm km z => some { (Raw.base 0x47#8 h) with dst := opV d, sa := opV a, fn := (1#3 ++ code), mod := bitAt 8 3 stm ||| (BitVec.ofNat 8 km.val <<< 4) ||| bitAt 8 7 z }
  | .vsqrt h code d a rm stm km z => some { (Raw.base 0x47#8 h) with dst := opV d, sa := opV a, fn := (2#3 ++ code), mod := (rm.setWidth 8 <<< 0) ||| bitAt 8 3 stm ||| (BitVec.ofNat 8 km.val <<< 4) ||| bitAt 8 7 z }
  | .vexp2 h code d a stm km z => some { (Raw.base 0x47#8 h) with dst := opV d, sa := opV a, fn := (3#3 ++ code), mod := bitAt 8 3 stm ||| (BitVec.ofNat 8 km.val <<< 4) ||| bitAt 8 7 z }
  | .vlog2 h code d a stm km z => some { (Raw.base 0x47#8 h) with dst := opV d, sa := opV a, fn := (4#3 ++ code), mod := bitAt 8 3 stm ||| (BitVec.ofNat 8 km.val <<< 4) ||| bitAt 8 7 z }
  | .vcmp h code d a b cc stm km z => some { (Raw.base 0x48#8 h) with dst := opK d, sa := opV a, sb := opVG b, fn := (0#3 ++ code), mod := (cc.setWidth 8 <<< 0) ||| bitAt 8 3 stm ||| (BitVec.ofNat 8 km.val <<< 4) ||| bitAt 8 7 z }
  | .vfcmp h code d a b cc stm km z => some { (Raw.base 0x49#8 h) with dst := opK d, sa := opV a, sb := opVG b, fn := (0#3 ++ code), mod := (cc.setWidth 8 <<< 0) ||| bitAt 8 3 stm ||| (BitVec.ofNat 8 km.val <<< 4) ||| bitAt 8 7 z }
  | .vfclass h code d a stm km z => some { (Raw.base 0x49#8 h) with dst := opV d, sa := opV a, fn := (1#3 ++ code), mod := bitAt 8 3 stm ||| (BitVec.ofNat 8 km.val <<< 4) ||| bitAt 8 7 z }
  | .vsel h code d a b stm km => some { (Raw.base 0x4A#8 h) with dst := opV d, sa := opV a, sb := opV b, fn := (0#3 ++ code), mod := bitAt 8 3 stm ||| (BitVec.ofNat 8 km.val <<< 4) }
  | .vand h code d a b stm km z => some { (Raw.base 0x4B#8 h) with dst := opV d, sa := opV a, sb := opVG b, fn := (0#3 ++ code), mod := bitAt 8 3 stm ||| (BitVec.ofNat 8 km.val <<< 4) ||| bitAt 8 7 z }
  | .vor h code d a b stm km z => some { (Raw.base 0x4B#8 h) with dst := opV d, sa := opV a, sb := opVG b, fn := (1#3 ++ code), mod := bitAt 8 3 stm ||| (BitVec.ofNat 8 km.val <<< 4) ||| bitAt 8 7 z }
  | .vxor h code d a b stm km z => some { (Raw.base 0x4B#8 h) with dst := opV d, sa := opV a, sb := opVG b, fn := (2#3 ++ code), mod := bitAt 8 3 stm ||| (BitVec.ofNat 8 km.val <<< 4) ||| bitAt 8 7 z }
  | .vandn h code d a b stm km z => some { (Raw.base 0x4B#8 h) with dst := opV d, sa := opV a, sb := opVG b, fn := (3#3 ++ code), mod := bitAt 8 3 stm ||| (BitVec.ofNat 8 km.val <<< 4) ||| bitAt 8 7 z }
  | .vshl h code d a b stm km z => some { (Raw.base 0x4C#8 h) with dst := opV d, sa := opV a, sb := opVG b, fn := (0#3 ++ code), mod := bitAt 8 3 stm ||| (BitVec.ofNat 8 km.val <<< 4) ||| bitAt 8 7 z }
  | .vshr h code d a b stm km z => some { (Raw.base 0x4C#8 h) with dst := opV d, sa := opV a, sb := opVG b, fn := (1#3 ++ code), mod := bitAt 8 3 stm ||| (BitVec.ofNat 8 km.val <<< 4) ||| bitAt 8 7 z }
  | .vshra h code d a b stm km z => some { (Raw.base 0x4C#8 h) with dst := opV d, sa := opV a, sb := opVG b, fn := (2#3 ++ code), mod := bitAt 8 3 stm ||| (BitVec.ofNat 8 km.val <<< 4) ||| bitAt 8 7 z }
  | .vbcast h code d stm km z src => some { (Raw.base 0x4D#8 h) with dst := opV d, sa := (match src with | .g a => opG a | .v a _ => opV a), fn := (0#3 ++ code), mod := bitAt 8 3 stm ||| (BitVec.ofNat 8 km.val <<< 4) ||| bitAt 8 7 z, imm := (match src with | .g _ => 0#32 | .v _ e => e) }
  | .vext h wc d a b sx imm => some { (Raw.base 0x4E#8 h) with dst := opG d, sa := opV a, sb := opG b, fn := (0#7 ++ wc), mod := bitAt 8 0 sx, imm := imm }
  | .vins h wc d a b imm => some { (Raw.base 0x4E#8 h) with dst := opV d, sa := opG a, sb := opG b, fn := (16#7 ++ wc), imm := imm }
  | .vperm h wc d a b stm km z => some { (Raw.base 0x4F#8 h) with dst := opV d, sa := opV a, sb := opV b, fn := (0#7 ++ wc), mod := bitAt 8 3 stm ||| (BitVec.ofNat 8 km.val <<< 4) ||| bitAt 8 7 z }
  | .vslideup h wc d a b stm km z imm => some { (Raw.base 0x50#8 h) with dst := opV d, sa := opV a, sb := opG b, fn := (0#7 ++ wc), mod := bitAt 8 3 stm ||| (BitVec.ofNat 8 km.val <<< 4) ||| bitAt 8 7 z, imm := imm }
  | .vslidedn h wc d a b stm km z imm => some { (Raw.base 0x50#8 h) with dst := opV d, sa := opV a, sb := opG b, fn := (16#7 ++ wc), mod := bitAt 8 3 stm ||| (BitVec.ofNat 8 km.val <<< 4) ||| bitAt 8 7 z, imm := imm }
  | .viota h code d a stm km z imm => some { (Raw.base 0x51#8 h) with dst := opV d, sa := opG a, fn := (0#3 ++ code), mod := bitAt 8 3 stm ||| (BitVec.ofNat 8 km.val <<< 4) ||| bitAt 8 7 z, imm := imm }
  | .kand h d a b => some { (Raw.base 0x52#8 h) with dst := opK d, sa := opK a, sb := opK b, fn := 0#9 }
  | .kor h d a b => some { (Raw.base 0x52#8 h) with dst := opK d, sa := opK a, sb := opK b, fn := 1#9 }
  | .kxor h d a b => some { (Raw.base 0x52#8 h) with dst := opK d, sa := opK a, sb := opK b, fn := 2#9 }
  | .knot h d a => some { (Raw.base 0x52#8 h) with dst := opK d, sa := opK a, fn := 3#9 }
  | .kcnt h d a n => some { (Raw.base 0x52#8 h) with dst := opG d, sa := opK a, fn := 4#9, imm := (n.setWidth 32 <<< 0) }
  | .kmov h o => some { (Raw.base 0x52#8 h) with dst := (match o with | .kk d _ => opK d | .kg _ d _ => opK d | .gk _ d _ => opG d), sa := (match o with | .kk _ a => opK a | .kg _ _ a => opG a | .gk _ _ a => opK a), fn := 5#9, mod := (match o with | .kk _ _ => 0#8 | .kg hi _ _ => bitAt 8 0 hi | .gk hi _ _ => bitAt 8 0 hi) }
  | .vradd h code d a stm km => some { (Raw.base 0x53#8 h) with dst := opV d, sa := opV a, fn := (0#3 ++ code), mod := bitAt 8 3 stm ||| (BitVec.ofNat 8 km.val <<< 4) }
  | .vrmin h code d a stm km => some { (Raw.base 0x53#8 h) with dst := opV d, sa := opV a, fn := (1#3 ++ code), mod := bitAt 8 3 stm ||| (BitVec.ofNat 8 km.val <<< 4) }
  | .vrmax h code d a stm km => some { (Raw.base 0x53#8 h) with dst := opV d, sa := opV a, fn := (2#3 ++ code), mod := bitAt 8 3 stm ||| (BitVec.ofNat 8 km.val <<< 4) }
  | .vrfadd h code d a rm stm km => some { (Raw.base 0x54#8 h) with dst := opV d, sa := opV a, fn := (0#3 ++ code), mod := (rm.setWidth 8 <<< 0) ||| bitAt 8 3 stm ||| (BitVec.ofNat 8 km.val <<< 4) }
  | .vrfmin h code d a stm km => some { (Raw.base 0x54#8 h) with dst := opV d, sa := opV a, fn := (1#3 ++ code), mod := bitAt 8 3 stm ||| (BitVec.ofNat 8 km.val <<< 4) }
  | .vrfmax h code d a stm km => some { (Raw.base 0x54#8 h) with dst := opV d, sa := opV a, fn := (2#3 ++ code), mod := bitAt 8 3 stm ||| (BitVec.ofNat 8 km.val <<< 4) }
  | .scfg h d a port imm => some { (Raw.base 0x55#8 h) with dst := opV d, sa := opG a, fn := 0#9, mod := (BitVec.ofNat 8 port.val <<< 0), imm := imm }
  | .sfree h port => some { (Raw.base 0x55#8 h) with fn := 1#9, mod := (BitVec.ofNat 8 port.val <<< 0) }
  | .vloop h len port => some { (Raw.base 0x56#8 h) with fn := 0#9, imm := (len.setWidth 32 <<< 0) ||| (BitVec.ofNat 32 port.val <<< 8) }
  | .vmov h d a => some { (Raw.base 0x57#8 h) with dst := opV d, sa := opV a, fn := 0#9 }
  | .vmovgFromG h code d a => some { (Raw.base 0x57#8 h) with dst := opV d, sa := opG a, fn := (1#3 ++ code) }
  | .vmovgToG h d a => some { (Raw.base 0x57#8 h) with dst := opG d, sa := opV a, fn := 128#9 }
  | .vmadd h d a b m km z => some { (Raw.base 0x60#8 h) with dst := opV d, sa := opV a, sb := opVG b, fn := 0#9, mod := (BitVec.ofNat 8 m.val <<< 0) ||| (BitVec.ofNat 8 km.val <<< 4) ||| bitAt 8 7 z }
  | .vmsub h d a b m km z => some { (Raw.base 0x60#8 h) with dst := opV d, sa := opV a, sb := opVG b, fn := 1#9, mod := (BitVec.ofNat 8 m.val <<< 0) ||| (BitVec.ofNat 8 km.val <<< 4) ||| bitAt 8 7 z }
  | .vmneg h d a m km z => some { (Raw.base 0x60#8 h) with dst := opV d, sa := opV a, fn := 2#9, mod := (BitVec.ofNat 8 m.val <<< 0) ||| (BitVec.ofNat 8 km.val <<< 4) ||| bitAt 8 7 z }
  | .vmmul h d a b m km z => some { (Raw.base 0x61#8 h) with dst := opV d, sa := opV a, sb := opVG b, fn := 0#9, mod := (BitVec.ofNat 8 m.val <<< 0) ||| (BitVec.ofNat 8 km.val <<< 4) ||| bitAt 8 7 z }
  | .vmmac h d a b m km z => some { (Raw.base 0x61#8 h) with dst := opV d, sa := opV a, sb := opVG b, fn := 1#9, mod := (BitVec.ofNat 8 m.val <<< 0) ||| (BitVec.ofNat 8 km.val <<< 4) ||| bitAt 8 7 z }
  | .vmred h nat d a m km z => some { (Raw.base 0x62#8 h) with dst := opV d, sa := opV a, fn := (if nat then 0x00F#9 else 0x00B#9), mod := (BitVec.ofNat 8 m.val <<< 0) ||| (BitVec.ofNat 8 km.val <<< 4) ||| bitAt 8 7 z }
  | .vmcvtI64 h d a km z => some { (Raw.base 0x62#8 h) with dst := opV d, sa := opV a, fn := 256#9, mod := (BitVec.ofNat 8 km.val <<< 4) ||| bitAt 8 7 z }
  | .vmcvtMn h d a m km z => some { (Raw.base 0x62#8 h) with dst := opV d, sa := opV a, fn := 257#9, mod := (BitVec.ofNat 8 m.val <<< 0) ||| (BitVec.ofNat 8 km.val <<< 4) ||| bitAt 8 7 z }
  | .vmcvtMs h d a m km z => some { (Raw.base 0x62#8 h) with dst := opV d, sa := opV a, fn := 258#9, mod := (BitVec.ofNat 8 m.val <<< 0) ||| (BitVec.ofNat 8 km.val <<< 4) ||| bitAt 8 7 z }
  | .mqgen h a m => some { (Raw.base 0x63#8 h) with sa := opV a, fn := 0#9, mod := (BitVec.ofNat 8 m.val <<< 0) }
  | .mqld h a b m => some { (Raw.base 0x63#8 h) with sa := opV a, sb := opV b, fn := 1#9, mod := (BitVec.ofNat 8 m.val <<< 0) }
  | .bfly h d a m km => some { (Raw.base 0x64#8 h) with dst := opV d, sa := opV a, fn := 0#9, mod := (BitVec.ofNat 8 m.val <<< 0) ||| (BitVec.ofNat 8 km.val <<< 4) }
  | .ibfly h d a m km => some { (Raw.base 0x64#8 h) with dst := opV d, sa := opV a, fn := 1#9, mod := (BitVec.ofNat 8 m.val <<< 0) ||| (BitVec.ofNat 8 km.val <<< 4) }
  | .bperm h d a k => some { (Raw.base 0x65#8 h) with dst := opV d, sa := opV a, fn := 0#9, imm := (k.setWidth 32 <<< 0) }
  | .bpermx h d k => some { (Raw.base 0x65#8 h) with dst := opV d, fn := 1#9, imm := (k.setWidth 32 <<< 0) }
  | .vbitrev h d a b => some { (Raw.base 0x65#8 h) with dst := opV d, sa := opV a, fn := 2#9, imm := (b.setWidth 32 <<< 0) }
  | .vfft2 h d a rm cj km => some { (Raw.base 0x66#8 h) with dst := opV d, sa := opV a, fn := 0#9, mod := (rm.setWidth 8 <<< 0) ||| bitAt 8 3 cj ||| (BitVec.ofNat 8 km.val <<< 4) }
  | .vcmul h d a b rm cj km z => some { (Raw.base 0x66#8 h) with dst := opV d, sa := opV a, sb := opV b, fn := 1#9, mod := (rm.setWidth 8 <<< 0) ||| bitAt 8 3 cj ||| (BitVec.ofNat 8 km.val <<< 4) ||| bitAt 8 7 z }
  | .zalloc h d t => some { (Raw.base 0x68#8 h) with dst := opP d, fn := 0#9, mod := (BitVec.ofNat 8 t.val <<< 4) }
  | .zfree h t => some { (Raw.base 0x68#8 h) with fn := 1#9, mod := (BitVec.ofNat 8 t.val <<< 4) }
  | .zzero h i32 t => some { (Raw.base 0x68#8 h) with fn := (if i32 then 3#9 else 2#9), mod := (BitVec.ofNat 8 t.val <<< 4) }
  | .zmma h tag d a b t sc => some { (Raw.base 0x69#8 h) with dst := opG d, sa := opG a, sb := opG b, fn := tag.setWidth 9, mod := (BitVec.ofNat 8 t.val <<< 4) ||| bitAt 8 6 sc }
  | .zmmas h tag d a b t sc => some { (Raw.base 0x6A#8 h) with dst := opG d, sa := opG a, sb := opG b, fn := tag.setWidth 9, mod := (BitVec.ofNat 8 t.val <<< 4) ||| bitAt 8 6 sc }
  | .zldc h i32 a t stride => some { (Raw.base 0x6B#8 h) with sa := opG a, fn := (if i32 then 0x00A#9 else 2#9), mod := (BitVec.ofNat 8 t.val <<< 4), imm := (stride.setWidth 32 <<< 0) }
  | .zstore h dt a rm t stride => some { (Raw.base 0x6C#8 h) with sa := opG a, fn := (1#1 ++ dt), mod := (rm.setWidth 8 <<< 0) ||| (BitVec.ofNat 8 t.val <<< 4), imm := (stride.setWidth 32 <<< 0) }
  | .zread h d a x t c => some { (Raw.base 0x6C#8 h) with dst := opV d, sa := opG a, fn := 0#9, mod := (x.setWidth 8 <<< 0) ||| (BitVec.ofNat 8 t.val <<< 4), imm := (c.setWidth 32 <<< 0) }
  | .zwm h d t => some { (Raw.base 0x6D#8 h) with dst := opG d, fn := 0#9, mod := (BitVec.ofNat 8 t.val <<< 4) }
  | .zwait h a t imm => some { (Raw.base 0x6D#8 h) with sa := opG a, fn := 1#9, mod := (BitVec.ofNat 8 t.val <<< 4), imm := imm }
  | .zscl h a b sideB j q => some { (Raw.base 0x6E#8 h) with sa := opG a, sb := opV b, fn := 0#9, mod := bitAt 8 0 sideB, imm := (j.setWidth 32 <<< 0) ||| (q.setWidth 32 <<< 5) }
  | .zstatT h d t clr => some { (Raw.base 0x6E#8 h) with dst := opG d, fn := 1#9, mod := (BitVec.ofNat 8 t.val <<< 4) ||| bitAt 8 7 clr }
  | .zstatF h d clr => some { (Raw.base 0x6E#8 h) with dst := opG d, fn := 2#9, mod := bitAt 8 7 clr }
  | .zstatS h d => some { (Raw.base 0x6E#8 h) with dst := opG d, fn := 3#9 }

/-- The word of an instruction (R20, and the encoding tables of the class chapters). -/
def encode (i : Instr) : Option IWord := (encodeRaw i).map Raw.pack

end Sys2Proof
end

