-- ==== Sys2Proof/Machine/State.lean ====
section
/-! DEFINITION. The state of the machine: every piece of state the spec gives one package of the OV-IX8, as plain data.
Units of which there are many are held in lists keyed by index, the indexes rising; a unit not listed is as reset left
it. -/
namespace Sys2Proof.Machine
open Sys2Proof

/-- A memory: listed bytes, their addresses strictly rising, none equal to what an unlisted address reads as. -/
abbrev Mem := List Host.Cell

/-! ## A core -/

/-- A vector register: 1,024 bits and a format tag (R11). DESIGN CHOICE (log 2). -/
structure VR where
  bits : VData := 0
  tag : Tag := 0
  deriving DecidableEq, Repr

/-- One hardware loop level: LPAn and LPCn (R138). -/
structure LoopLvl where
  v : Bool := false
  len1 : BitVec 8 := 0
  beg : BitVec 54 := 0
  count : BitVec 64 := 0
  deriving DecidableEq, Repr

/-- A stream descriptor as SCFG read it (R255). -/
structure StreamDesc where
  base : BitVec 64
  n : List Nat
  s : List (BitVec 32)
  tag : Tag
  write : Bool
  deriving DecidableEq, Repr

/-- A bound stream port (R255, R257, R263): its register, descriptor and position, the logical time and core
of its binding, and the chunks fetched ahead, oldest first (R260). -/
structure StreamPort where
  reg : VReg
  desc : StreamDesc
  pos : Nat := 0
  chunks : List (BitVec 1024 × Bool) := []
  fetched : Nat := 0
  deriving DecidableEq, Repr

/-- A modulus set: moduli, reduction constants and the loaded flag (R287). -/
structure ModSet where
  mq : Vector Word 16 := Vector.replicate 16 0
  mc : Vector Word 16 := Vector.replicate 16 0
  loaded : Bool := false
  deriving DecidableEq, Repr

/-- The trap registers and the fields of XSTAT (R454). -/
structure TrapRegs where
  phase : BitVec 2 := 0
  pt : Bool := false
  ps : Bool := false
  exl : Bool := false
  sup : Bool := false
  tim : Bool := false
  xpc : Word := 0
  xcause : BitVec 8 := 0
  xval : Word := 0
  xprog : BitVec 3 := 0
  xvec : BitVec 54 := 0
  xrec : BitVec 49 := 0
  deriving DecidableEq, Repr

/-- The floating-point state of a core (R81, R84, R85, R87). -/
structure FpRegs where
  rmode : BitVec 3 := 1
  fflags : BitVec 5 := 0
  srs : Vector (BitVec 32) 16 := ⟨#[1, 2, 3, 4, 5, 6, 7, 8, 9, 10, 11, 12, 13, 14, 15, 16], rfl⟩
  ovt : BitVec 128 := 0x15555555555555555555555555555555#128
  deriving DecidableEq, Repr

/-- The registers of a core: what its program reads and writes by name (R11, R138, R168, R255, R287). -/
structure Regs where
  pc : Word := 0
  g : Vector Word 64 := Vector.replicate 64 0
  p : Vector Bool 8 := ⟨#[true, false, false, false, false, false, false, false], rfl⟩
  k : Vector Mask 8 := ⟨#[BitVec.allOnes 128, 0, 0, 0, 0, 0, 0, 0], rfl⟩
  v : Vector VR 48 := Vector.replicate 48 {}
  trap : TrapRegs := {}
  fp : FpRegs := {}
  loops : Vector LoopLvl 2 := Vector.replicate 2 {}
  swz : Vector (BitVec 64) 4 := Vector.replicate 4 0
  strm : Vector (Option StreamPort) 4 := Vector.replicate 4 none
  mods : Vector ModSet 4 := Vector.replicate 4 {}
  deriving DecidableEq, Repr

/-- A register write on its way (R143). -/
inductive Wr where
  | g (r : GReg) (x : Word)
  | p (r : PReg) (b : Bool)
  | k (r : KReg) (m : Mask)
  | v (r : VReg) (x : VR)
  deriving DecidableEq, Repr

/-- A result in flight: the clk from which it is visible, and whether it is interlocked in both modes (R15, R28). -/
structure Flight where
  land : Nat
  locked : Bool
  wr : Wr
  deriving DecidableEq, Repr

/-- The loop buffer (R130): the loop level whose body it captures, the body's begin address and length minus 1, the words captured on
the first pass with their addresses, whether the first pass has ended, and whether the fetch buffer still holds the words behind the
body. DEDUCED (log 47). -/
structure LoopBuf where
  lvl : Fin 2
  beg : Word
  len1 : BitVec 8
  words : List (Word × BitVec 96) := []
  full : Bool := false
  ahead : Bool := true
  deriving DecidableEq, Repr

/-- A core's issue state: the earliest next issue clk (R27), the clk at which its last word issued and whether that word was a taken
transfer (R129, R147), whether the word at the program counter has issued and waits inside its effect, with the core's logical time
as it issued (R247), the clk at which that was (`began`), of a FENCE how many of its paths are done (R247), of ZMMA and ZMMAS the two
headers with the clk at which they return (R331), results in flight in issue order, the clk until which the
divider, the FP datapath and the butterfly network are busy (R104, R254, R294), the operand buffer with the
instructions each entry still serves (R253), the loop buffer (R130), how many instructions of variable
latency have issued, how many words have completed, and the registers whose result waits for an answer (R391). -/
structure Timing where
  clk : Nat := 0
  issued : Nat := 0
  taken : Bool := false
  inside : Option Nat := none
  began : Nat := 0
  fenceDone : Nat := 0
  heads : Option (Nat × BitVec 128 × BitVec 128) := none
  flights : List Flight := []
  divBusy : Nat := 0
  fpBusy : Nat := 0
  netBusy : Nat := 0
  obuf : List (VReg × Nat) := []
  loopBuf : Option LoopBuf := none
  slips : Nat := 0
  words : Nat := 0
  owed : List (BitVec 7) := []
  deriving DecidableEq, Repr

/-- The instruction in which a core waits at a barrier: BAR or SPRED, BARSS, or PHASE (R240, R242, R389). -/
inductive BarKind where
  | bar | barss | phase
  deriving DecidableEq, Repr

/-- What a core waits for instead of issuing (R145, R149, R191, R238, R240, R391, R395, R455, R488). A barrier wait
holds the generation at arrival, the predicate to write, if any, with its choice of OR, and the instruction; a slot wait
the register to write; a walk wait the address. -/
inductive Wait where
  | none
  | line (e : Fin 64)
  | mutex (m : Fin 32)
  | barrier (b : Fin 32) (gen : BitVec 32) (wr : Option (PReg × Bool)) (kind : BarKind)
  | slot (s : Fin 16) (d : VReg)
  | gang (base num : Nat)
  | join
  | walk (va : Nat)
  | parked (va : Nat)
  | halted
  | errorStop
  | wfi
  deriving DecidableEq, Repr

/-- Whether a core issues: not yet brought up, idle, running, halted at an instruction boundary by a yield or a force
with its context, halted with its partition by a fault-on-fault, or fenced (R424, R469, R470, R197, R529). -/
inductive CoreMode where
  | held | idle | running | yielded | forced | faulted | fenced
  deriving DecidableEq, Repr

/-- A core's channel (R390): the logical core and slot it sends to, its credit, and whether its declaration is in flight
(R391), while it is not yet valid. -/
structure Chan where
  dst : Nat
  slot : Fin 16
  credit : Bool := true
  pending : Bool := false
  decl : Nat := 0
  deriving DecidableEq, Repr

/-- A receive slot: its owner (core and channel), whether it is full, and its contents (R390). -/
structure RSlot where
  owner : Option (Nat × Fin 16) := none
  full : Bool := false
  msg : ChanMsg := ⟨0, 0, 0, 0, 0, 0⟩
  held : Option ChanMsg := none
  deriving DecidableEq, Repr

/-- An entry of a core's slot schedule (R399). -/
structure SchedEntry where
  peer : Nat
  offset : Nat
  send : Bool
  land : Fin 16
  deriving DecidableEq, Repr

/-- The channels and timed communication of a core (R386 to R404). -/
structure Comm where
  chans : Vector (Option Chan) 16 := Vector.replicate 16 none
  slots : Vector RSlot 16 := Vector.replicate 16 {}
  landing : Vector (Option ChanMsg) 16 := Vector.replicate 16 none
  sched : List SchedEntry := []
  t0 : Nat := 0
  deriving DecidableEq, Repr

/-! ## Engine commands (R350 to R374) -/

/-- The memory that a range of bytes lies in: global virtual addresses, a core scratchpad, a chip scratchpad (R359). -/
inductive Space where
  | va | spad (core : Nat) | chip (die : Nat)
  deriving DecidableEq, Repr

/-- A range of the scoreboard: bytes from `lo` up to, not including, `hi` (R358). -/
structure Range where
  space : Space
  lo : Nat
  hi : Nat
  deriving DecidableEq, Repr

/-- What every descriptor asks for on completion (R352, R360). -/
structure DescHdr where
  cw : Bool := false
  pul : Bool := false
  evl : Bool := false
  ctr : Fin 16 := 0
  line : Fin 64 := 0
  cwa : Word := 0
  cwv : Word := 0
  deriving DecidableEq, Repr

/-- The body of a command: a copy with its dimensions (count, source stride, destination stride), a gather or scatter, a
fill, a collective, a send, or a storage request: its ring and place, with the entry's 64 bytes once read. -/
inductive CmdBody where
  | copy (srca dsta : Word) (dims : List (Nat × BitVec 32 × BitVec 32)) (conv : Nat) (sce : Bool) (tfmt : Tag)
      (seq : BitVec 32) (sca : Word)
  | rows (scatter : Bool) (tbl lst idxa : Word) (rowb nidx tstr nrows : Nat)
  | fill (dsta : Word) (len esz : Nat) (pat : Word)
  | coll (srca dsta : Word) (len trows : Nat) (gid : BitVec 32) (p op red : Nat) (dfmt : Tag)
  | send (srca : Word) (len : Nat) (eph : BitVec 32) (immd : Word)
  | storage (vd ring index : Nat) (entry : Option (BitVec 512))
  deriving DecidableEq, Repr

/-- Where a command stands: armed on a term; started; parked at an address; failing with a cause and value, its record
still to come; or stopped by a fault-on-fault (R191, R197, R367, R376). -/
inductive CmdState where
  | armed (term : Fin 32) | started | parked (va : Nat) | failing (c : Cause) (x : Word) | stopped
  deriving DecidableEq, Repr

/-- A command in flight (R355, R358): its class and number, its place in the order of acceptance, its scoreboard ranges,
where it stands, how much of its work is done (bytes, then scale writes), the agent's logical time (R245), the
translation, mode, tag and launch it was issued with; the bytes it has read but not yet written; whether its collective's
generation has formed or its message has been handed over; the index of the row in progress; the lowest index that it skipped or dropped; and the bytes it has
overwritten inside its own source range, as they were before (R363); and whether it waits with one of its cluster's two copy engines held
(R10, R365). -/
structure Cmd where
  cls : Fin 4
  seq : Nat
  order : Nat := 0
  body : CmdBody
  hdr : DescHdr := {}
  src : Option Range := none
  dst : Option Range := none
  st : CmdState := .started
  prog : Nat := 0
  time : Nat := 0
  root : BitVec 36 := 0
  vsid : BitVec 8 := 0
  xlate : Bool := false
  sup : Bool := false
  ptag : PTag := 0
  lid : Option (Nat × Nat) := none
  out : List Byte := []
  formed : Bool := false
  row : Option Nat := none
  dropped : Option Word := none
  before : List (Nat × Byte) := []
  engine : Bool := false
  deriving DecidableEq, Repr

/-- EFAULTc with its XVAL (R367, R368). -/
structure EFault where
  v : Bool := false
  more : Bool := false
  cause : BitVec 6 := 0
  seq : BitVec 48 := 0
  val : Word := 0
  clk : Nat := 0
  wid : Word := 0
  deriving DecidableEq, Repr

/-- A core's commands: the numbers issued, the commands in flight, the logical times of finished ones by class and number
(R381), the recorded failures, the commands that have held an access of the core (R359), and the latest time and the k-steps
of the core's array operations (R482). -/
structure Engines where
  isq : Vector Nat 4 := Vector.replicate 4 0
  cmds : List Cmd := []
  done : List (Fin 4 × Nat × Nat) := []
  efault : Vector EFault 4 := Vector.replicate 4 {}
  heldBy : List (Fin 4 × Nat) := []
  zdone : Nat := 0
  zsteps : Nat := 0
  deriving DecidableEq, Repr

/-! ## Tasks, launches and domains (R409 to R436) -/

/-- A continuation record (R416). -/
structure Cont where
  code : Word := 0
  frame : Word := 0
  joina : Word := 0
  wid : Word := 0
  deriving DecidableEq, Repr

/-- A queue entry (R418): its record and the WIDs it still holds, its launch (virtual device and identifier), priority,
domain tag (0: none), the tick it was enqueued at its priority, its logical time (R421), and the domain whose re-execution it is, if
any (R432). -/
structure QEntry where
  cont : Cont
  left : Nat := 1
  launch : Option (Nat × Nat) := none
  prio : Nat := 0
  dom : Word := 0
  tick : Nat := 0
  time : Nat := 0
  retry : Word := 0
  deriving DecidableEq, Repr

/-- The task or thread that a core runs (R417, R428): its launch, WID and priority, the domain it inherited, its rank in a bulk launch, its
entry record, its time, and the domain whose re-execution it is, if any (R432). -/
structure Task where
  launch : Option (Nat × Nat) := none
  wid : Word := 0
  prio : Nat := 0
  inherited : Word := 0
  rank : Option Nat := none
  entry : Cont := {}
  time : Nat := 0
  retry : Word := 0
  deriving DecidableEq, Repr

/-- A superstep checkpoint (R435): registers, channels, slots and landings, the barrier of the BARSS that opened the superstep (R406), and
how often the superstep was re-executed. -/
structure Ckpt where
  regs : Regs
  comm : Comm
  bar : Option (Nat × Nat) := none
  reexec : Nat := 0
  deriving DecidableEq, Repr


/-- A core (R11, R16, R453 and the chapters that own each part). `pmc` holds for each counter what its exact value is above the count
of its event (R482), `counts` the events of codes 2 and 4 to 9 that its requests have caused, and `pmcTick` each counter as it stood at the
last 64th saddle tick (R483). `slices` holds lane l's slice at 2,048 l (R179);
`spadSoft`,
`spadHard` and `spadBad` the indexes of words with one flipped bit, words that the row code must rebuild, and
words that are lost for good (R164 to R166), the check words of row r being numbered 12,288 + 2r and the next (R161); `ueCount` the uncorrectable words of each bank since reset (R165) and `ueSeen` those that could not be recovered and are not rewritten yet; `ft` the fence time of each path of R247; `access` the global
access the core is waiting to complete (R216), of which `moved` registers are done; `waitStall` the STALL hint
of the word it sleeps in (R27); `eng` its engine commands; `lid` the launch it works for, with its virtual device; `task` what it runs,
`doms` the domains that its task opened, innermost first (R428), `ckpt` its superstep checkpoint; `idleSince` and `widened` its search for work (R419); `slotctl` SLOTCTL and `installing` the
record of an installation in progress (R402);
`saving` the clk at which a CTXSAVE in progress began, and its partition (R464); `ctag` the tag of the live context (R474); `errStop` that a detected error has
stopped it (R455); `behind` and `ahead` that, in lock step, it still owes its leader's last word, `owes`, or has completed the word that
its leader issues again (R150); `haltBy` the clk by which a forced halt that was asked for stops it (R470). -/
structure Core where
  regs : Regs := {}
  tmg : Timing := {}
  mode : CoreMode := .idle
  wait : Wait := .none
  access : Option Instr := none
  moved : Nat := 0
  slices : Mem := []
  spad : Mem := []
  spadBad : List Nat := []
  spadSoft : List Nat := []
  spadHard : List Nat := []
  cecnt : BitVec 16 := 0
  rccnt : BitVec 16 := 0
  ue : Bool := false
  fail : BitVec 18 := 0
  ueCount : List (Nat × Nat) := []
  ueSeen : List Nat := []
  lt : Nat := 0
  ft : Vector Nat 8 := Vector.replicate 8 0
  pmsel : Vector (BitVec 8) 4 := Vector.replicate 4 0
  pmc : Vector (BitVec 64) 4 := Vector.replicate 4 0
  counts : Vector Nat 10 := Vector.replicate 10 0
  pmcTick : Vector (BitVec 64) 4 := Vector.replicate 4 0
  root : BitVec 36 := 0
  xlate : Bool := false
  vsid : BitVec 8 := 0
  fbpop1 : Word := 0
  comm : Comm := {}
  eng : Engines := {}
  lid : Option (Nat × Nat) := none
  task : Option Task := none
  doms : List Word := []
  ckpt : Option Ckpt := none
  idleSince : Nat := 0
  widened : Bool := false
  slotctl : Word := 0
  installing : Option (PTag × List Byte) := none
  saving : Option (Nat × PTag) := none
  ctag : Option PTag := none
  waitStall : Nat := 0
  yieldReq : Bool := false
  errStop : Bool := false
  vecBad : List VReg := []
  behind : Bool := false
  owes : Option Instr := none
  ahead : Bool := false
  haltBy : Option Nat := none
  deriving DecidableEq, Repr

/-! ## A cluster -/

/-- An event line: its counter and the cores asleep on it, oldest first (R230, R237). -/
structure EvLine where
  count : BitVec 32 := 0
  waiters : List Nat := []
  clk : Nat := 0
  deriving DecidableEq, Repr

/-- A mutex: its holder and the cores queued for it, oldest first (R231, R237). -/
structure Mutex where
  owner : Option Nat := none
  waiters : List Nat := []
  deriving DecidableEq, Repr

/-- A barrier: its configuration (R232), its state (R233), and what its event unit keeps for the open generation: each
member's contribution (R244), the sync bits and heights that arrived (R241), the children that arrived, arrivals held
for the next generation, whether it has completed (`done`) and has sent its arrival to its parent (R239), the latest logical time of an
arrival (R234), the mode of the latest arrival (R450), and its last release: clk, time, PAND and POR (R244). -/
structure Barrier where
  en : Bool := false
  ss : Bool := false
  pbar : BitVec 5 := 0
  chn : Bool := false
  plcn : BitVec 18 := 0
  nch : BitVec 5 := 0
  mask : BitVec 24 := 0
  gen : BitVec 32 := 0
  pand : Bool := true
  por : Bool := false
  carr : BitVec 5 := 0
  arr : BitVec 24 := 0
  contrib : List (Nat × (Bool × Bool)) := []
  sync : Bool := false
  height : Nat := 0
  children : List BarArrival := []
  held : List BarArrival := []
  done : Bool := false
  sent : Bool := false
  sup : Bool := false
  time : Nat := 0
  clk : Nat := 0
  last : Nat × Nat × Bool × Bool := (0, 0, true, false)
  deriving DecidableEq, Repr

/-- An L1D copy of a line: LEASED or SWM, its bytes, dirty bytes, the words that were uncorrectable at its home when it was filled (R213,
R569), and its lease (R199, R204). -/
structure Copy where
  line : Nat
  swm : Bool
  data : BitVec 1024
  dirty : BitVec 128 := 0
  bad : BitVec 16 := 0
  wts : Nat
  rts : Nat
  deriving DecidableEq, Repr

/-- A TLB entry: one page of level 1, 2 or 3 under a VSID (R190). -/
structure TlbEntry where
  vsid : BitVec 8
  level : Nat
  vpn : Nat
  leaf : BitVec 64
  deriving DecidableEq, Repr

/-- A gang: its base core index, its size, and of each member but the leader whether it runs in lock step and whether
it owes a GJOIN (R145 to R149); `joined` lists the positions waiting at GJOIN, and `depth` counts the traps of the leader from which
no XRET has returned (R150). -/
structure Gang where
  base : Nat
  num : Nat
  split : List Nat := []
  joined : List Nat := []
  depth : Nat := 0
  deriving DecidableEq, Repr

/-! ## The cluster array (R312 to R348) -/

/-- An accumulator tile: its owner with the launch it is recorded with, its tag, its rows of 256 32-bit elements, its
watermark and its flags (R315 to R317, R334). -/
structure ZTile where
  owner : Option Nat := none
  lid : Option (Nat × Nat) := none
  tag : Tag := 0
  rows : List (Nat × BitVec 8192) := []
  wm : Nat := 0
  flags : BitVec 5 := 0
  deriving DecidableEq, Repr

/-- A slot of the scale store: the S10 containers in groups of 64, keyed by 4j + q (R328). -/
structure ScaleSlot where
  seq : BitVec 32 := 0
  valid : BitVec 128 := 0
  groups : List (Nat × BitVec 1024) := []
  deriving DecidableEq, Repr

/-- A matrix operation: sparse or dense, scaled with a sequence, the element format, the places of A and B (the core
whose scratchpad, and the offset of the header), K and N, and the scale slots as they stood at acceptance (R318 to R330). -/
structure MmaOp where
  sparse : Bool
  scaled : Option (BitVec 32)
  fmt : Tag
  aCore : Nat
  aOff : Nat
  bCore : Nat
  bOff : Nat
  k : Nat
  n : Nat
  sa : ScaleSlot
  sb : ScaleSlot
  deriving DecidableEq, Repr

/-- The place of a tile's rows in memory: the memory, the offset of row 0, and the stride (R344). -/
structure RowPlace where
  space : Space
  off : Nat
  stride : Nat
  deriving DecidableEq, Repr

/-- A queued array operation (R331). -/
inductive ZKind where
  | free
  | zero (tag : Tag)
  | mma (x : MmaOp)
  | ldc (tag : Tag) (p : RowPlace)
  | store (dt : Tag) (p : RowPlace) (mode : BitVec 3) (ovt : BitVec 128)
  deriving DecidableEq, Repr

/-- An accepted operation: the core that issued it, its tile, whether it has started, the rows it will write with the flags
each raises, the next row, the agent's logical time, whether it is done; the clk of its acceptance, the clk of what it does next (`due`:
its start, the end of its streaming, its next row), whether its streaming has ended, and the fault that ends its streaming: its row, cause
and group (R327, R331, R333). -/
structure ZOp where
  core : Nat
  tile : Fin 4
  kind : ZKind
  started : Bool := false
  rows : List (BitVec 8192 × BitVec 5) := []
  next : Nat := 0
  time : Nat := 0
  done : Bool := false
  accepted : Nat := 0
  due : Nat := 0
  streamed : Bool := false
  stop : Option (Nat × Nat × Nat) := none
  deriving DecidableEq, Repr

/-- A share's fault record (R348). -/
structure ZFault where
  v : Bool := false
  cause : BitVec 2 := 0
  more : Bool := false
  tile : Fin 4 := 0
  row : Nat := 0
  lcn : Nat := 0
  group : Nat := 0
  deriving DecidableEq, Repr

/-- A share of the array (R312): its tiles, its queue in order of acceptance, the core served last, its fault record and
its scale slots. -/
structure Share where
  tiles : Vector ZTile 4 := Vector.replicate 4 {}
  queue : List ZOp := []
  served : Nat := 23
  fault : ZFault := {}
  aSlots : Vector ScaleSlot 4 := Vector.replicate 4 {}
  bSlots : Vector ScaleSlot 4 := Vector.replicate 4 {}
  deriving DecidableEq, Repr

/-! ## The event crossbar (R375, R376) -/

/-- A crossbar counter with its partition tag. -/
structure XCounter where
  en : Bool := false
  mp : Bool := false
  ms : Bool := false
  count : BitVec 32 := 0
  tag : PTag := 0
  deriving DecidableEq, Repr

/-- A crossbar term with its partition tag and its armed commands (core, class, number), oldest first. -/
structure XTerm where
  en : Bool := false
  orC : Bool := false
  v : BitVec 4 := 0
  sel : BitVec 16 := 0
  thr : BitVec 64 := 0
  tag : PTag := 0
  armed : List (Nat × Fin 4 × Nat) := []
  deriving DecidableEq, Repr

/-- What reaches an edge of the crossbar (R376): a configuration of EVXCFG, a pulse of a command or of EVSIG.PULSE (from a core, in user
or supervisor mode, under a tag) or of an array share, or nothing but the evaluation of the terms. -/
inductive Pulse where
  | counter (i : Fin 16) (w : Word)
  | term (i : Fin 32) (w thr : Word)
  | edge
  | command (ctr : Fin 16) (ptag : PTag) (sup : Bool)
  | matrix (sh : Fin 2)
  | signal (core : Nat) (ctr : Fin 16) (n : BitVec 16) (ptag : PTag) (sup : Bool)
  deriving DecidableEq, Repr

/-- A cluster context (R462): its partition, whether a core was halted by force, its cores with their logical numbers and
indexes, and its event-unit resources, gangs, share, crossbar counters and terms. -/
structure Ctx where
  ptag : PTag
  forced : Bool := false
  cores : List (Nat × Nat × Core) := []
  lines : List (Nat × EvLine) := []
  mtx : List (Nat × Mutex) := []
  bars : List (Nat × Barrier) := []
  gangs : List Gang := []
  share : Option Share := none
  xcnt : List (Nat × XCounter) := []
  xterm : List (Nat × XTerm) := []
  deriving DecidableEq, Repr

/-- A cluster (R10, R228). `rtag` holds the RTAG bytes; `glen` the glen store (R463); `stretched` and `throttled` what its monitors
do to its clock and to its issue rate (R553); `pulses` what is to reach the crossbar, with the clk of its edge (R376). DESIGN CHOICE (log 5). -/
structure Cluster where
  lines : List (Nat × EvLine) := []
  mtx : List (Nat × Mutex) := []
  bars : List (Nat × Barrier) := []
  rtag : List (Nat × Byte) := []
  l1d : List Copy := []
  l1tlb : List TlbEntry := []
  gangs : List Gang := []
  zshare : BitVec 64 := 0x0000000400000000#64
  shares : Vector Share 2 := Vector.replicate 2 {}
  xcnt : List (Nat × XCounter) := []
  xterm : List (Nat × XTerm) := []
  pulses : List (Nat × Pulse) := []
  glen : Option Ctx := none
  stretched : Bool := false
  throttled : Bool := false
  deriving DecidableEq, Repr

/-! ## A die -/

/-- A fault-buffer slot (R192, R194). -/
structure FaultSlot where
  count : BitVec 8
  vpn : BitVec 40
  ptag : PTag
  kind : BitVec 2
  level : BitVec 2
  path : BitVec 3
  vsid : BitVec 8
  lcn : BitVec 18
  read : Bool := false
  deriving DecidableEq, Repr

/-- A parked access: a core's, an engine command's by its partition, core, class and number, or one that no core issued, for a partition (R191). -/
inductive Park where
  | core (n : Nat)
  | cmd (p : PTag) (core : Nat) (cls : Fin 4) (seq : Nat)
  | event (p : PTag) (i : Instr)
  deriving DecidableEq, Repr

/-- A detected error (R455): its kind, the partition and the core charged, and the argument the kind has. -/
structure DErr where
  kind : BitVec 6
  ptag : PTag
  core : Nat
  deriving DecidableEq, Repr

/-- An error charged to a domain, still to be handled (R431, R432): the core charged; and where the charge is to a domain that the core
need no longer run in, that domain, its partition, its launch and its WID. -/
structure Charge where
  core : Nat
  dom : Option (Word × PTag × Option (Nat × Nat) × Word) := none
  deriving DecidableEq, Repr

/-- A compute die (R7). `derrWait` are postings that wait for a place in the error queue, each with its charge (R455). `chipBad` are the uncorrectable words of its chip scratchpad; after a takeover (`chipLost`) every word is
one but those written since (`chipOk`) (R499); `chipFenced` are fenced slices (R531). `door` holds the doorbell's set bits with their arguments, `doorWait` what the service processors hold
back meanwhile (R489). -/
structure Die where
  chip : Mem := []
  chipBad : List Nat := []
  chipLost : Bool := false
  chipOk : List Nat := []
  chipFenced : List Nat := []
  sliceTag : List (Nat × PTag) := []
  l2tlb : List TlbEntry := []
  fbuf : List FaultSlot := []
  drop : Bool := false
  dcnt : BitVec 32 := 0
  parks : List Park := []
  derrq : List DErr := []
  derrWait : List (DErr × Option Charge) := []
  door : Vector (Option Word) 3 := Vector.replicate 3 none
  doorWait : List (Fin 3 × Word) := []
  deriving DecidableEq, Repr

/-! ## The package -/

/-- The home of an access for logical time (R184, R199, R234): a global line, a core's scratchpad, a slice of a die's
chip scratchpad, or a cluster's event unit. -/
inductive HomeId where
  | line (n : Nat)
  | spad (core : Nat)
  | slice (die s : Nat)
  | evu (cl : Nat)
  deriving DecidableEq, Repr

/-- A pair of a sparse sum on its way to a member's table (R371): the member (its partition, core, class, number), the index and the
value. -/
structure SumPair where
  ptag : PTag
  core : Nat
  cls : Fin 4
  seq : Nat
  idx : Nat
  val : Word
  deriving DecidableEq, Repr

/-- Whose turn it is: a core, or an event of the device or of the world outside (log 6). -/
inductive Turn where
  | core (n : Nat)
  | event (i : Instr)
  deriving DecidableEq, Repr

/-- A memory that core stores reach and agents read: the global one by physical address, a core scratchpad, a die's chip scratchpad. -/
inductive Store where
  | global | spad (core : Nat) | chip (die : Nat)
  deriving DecidableEq, Repr

/-- A store of the core path that agents of other paths may not see yet (R14, R206, R249): its place, the bytes that it replaced, its logical
time, and the write time that its home had before it. -/
structure Recent where
  mem : Store
  pos : Nat
  old : List Byte
  time : Nat
  was : Nat
  deriving DecidableEq, Repr

/-- Memory as it stood when a launch began (R131): the stacks, the fabric, the core scratchpads of its partition by logical core number, and
the chip scratchpads by logical die. -/
structure Code where
  hbm : Mem
  fabric : Mem
  spads : List (Nat × Mem) := []
  chips : List (Nat × Mem) := []
  deriving DecidableEq, Repr

/-- The package's run state: held until bring-up, running, or shut down (R549, R553). -/
inductive RunState where
  | held | running | shutDown
  deriving DecidableEq, Repr

/-- What the device sends to the world outside it. -/
inductive Report where
  /-- Cause DOUBLE to the service processors, with the core and the faulting address (R197). -/
  | double (core : Nat) (addr : Nat)
  /-- HALT, with the core (R488). -/
  | halt (core : Nat)
  /-- An MSI-X message of a virtual device (R425). -/
  | msix (v : Nat) (vector : BitVec 32)
  /-- A message that NSEND hands to the scale-out port: virtual device, endpoint, immediate and bytes (R521). -/
  | netSend (v ep : Nat) (immd : Word) (data : List Byte)
  /-- A message to an event line of a core of another package (R236). -/
  | remoteEvent (lcn : Nat) (m : EvMsg)
  /-- A channel's message, claim, answer or grant to a core of another package (R386, R391). -/
  | remote (lcn : Nat) (ev : Instr)
  /-- The data of a completed read, or the old value of an atomic, to its requester (R511, R513, R517). -/
  | completion (req : Nat) (data : List Byte)
  /-- A read that is dropped completes with Unsupported Request status (R511). -/
  | unsupported (req : Nat)
  /-- An access of another package to a range that is not exported (R517). -/
  | errorCompletion (pkg : Nat)
  /-- A receiver-not-ready NAK of an endpoint (R522). -/
  | notReady (v ep : Nat)
  /-- A write at the home of a line of another package (R516). -/
  | fabricWrite (pa : Nat) (data : List Byte)
  /-- The answer to a recall or an invalidate, with the line's data where it was written back (R517). -/
  | recallAnswer (line : Nat) (data : Option (List Byte))
  /-- A back-invalidate of a host copy (R513). -/
  | backInvalidate (line : Nat)
  /-- Member 0's message of a new epoch to the other members of its group (R544). -/
  | epoch (gid : BitVec 32) (e : Nat)
  /-- A member's own snapshot for a rebuild (R546). -/
  | rebuild (gid : BitVec 32) (e : Nat)
  /-- This package's idle spare is lent to a peer (R501). -/
  | spareLent (pkg : Nat)
  /-- A borrowed spare goes back to its package, as this one is reset (R501). -/
  | spareReturned (pkg : Nat)
  /-- The PCI Express functions enumerate (R549). -/
  | enumerated
  deriving DecidableEq, Repr

/-- A packet of the package network on its way (R492): its destination core, partition tag and supervisor bit, the
sender, what it does when it is delivered, whether it has entered the col channel (R493), and the clk of its delivery. -/
structure Packet where
  id : Nat
  dst : Nat
  src : Nat
  tag : PTag
  sup : Bool
  ev : Instr
  col : Bool := false
  due : Nat := 0
  deriving DecidableEq, Repr

/-- A storage ring (R372, R479). -/
structure Ring where
  en : Bool := false
  base : BitVec 56 := 0
  log : Nat := 0
  head : Nat := 0
  tail : Nat := 0
  deriving DecidableEq, Repr

/-- A launch's state (R423). -/
inductive LState where
  | pending | active | completing | complete
  deriving DecidableEq, Repr

/-- A launch (R409 to R425): its header, the order of its submission, its state and status, the time its entries carry,
its counters, the times of its activation, the placement groups that are placed (R413), the cores of its threads in
rank order, the cores that ran its tasks, and memory as it stood when it began, whose words its cores fetch (R131). -/
structure Launch where
  vdev : Nat
  lid : Nat
  hdr : BitVec 1024
  order : Nat := 0
  core : Option Nat := none
  state : LState := .pending
  activated : Bool := false
  status : Nat := 0
  time : Nat := 0
  fcnt : Nat := 0
  rcnt : Nat := 0
  fwid : Word := 0
  tss : Word := 0
  tsc : Word := 0
  placed : List Nat := []
  set : List Nat := []
  code : Option Code := none
  ran : List Nat := []
  deriving DecidableEq, Repr

/-- The name of a task queue: a partition's local queue of a cluster, or its queue of a logical die (R418). -/
inductive QueueId where
  | cluster (p cl : Nat)
  | die (p d : Nat)
  deriving DecidableEq, Repr

/-- A closed domain that the auditor has selected (R436), with the core, launch and WID of the run that closed it. -/
structure Audit where
  ptag : PTag
  record : Word
  parent : Word
  sig : Word
  core : Nat
  launch : Option (Nat × Nat)
  wid : Word
  deriving DecidableEq, Repr

/-- A page snapshot of a virtual device (R484) with the epoch it belongs to (R544), as the memory it preserves. -/
structure Snap where
  hbm : Mem
  bad : List Nat
  epoch : Nat := 0
  deriving DecidableEq, Repr

/-- An access of a requester at a port (R511, R512): its virtual device, the offset and kind of what it does there, and whether it is a
write of the launch window (R510). -/
structure PortReq where
  req : Nat
  v : Nat
  off : Nat
  a : PortAccess
  launch : Bool := false
  deriving DecidableEq, Repr

/-- A virtual device (R410, R411, R479, R510, R511, R520 to R523): its policy, its launch window and counters, its rings,
endpoints with their receive counts, peer window, logical blocks and last snapshot. -/
structure Vd where
  en : Bool := false
  fsys : Bool := false
  fdev : Bool := false
  snapp : BitVec 16 := 0
  bad : BitVec 32 := 0
  full : BitVec 32 := 0
  cofs : Word := 0
  sofs : Word := 0
  ways : BitVec 16 := 0
  rings : List (Nat × Ring) := []
  buckets : List (Nat × BitVec 48) := []
  lastLid : Nat := 0
  window : BitVec 1024 := 0
  pwctl : Word := 0
  drops : BitVec 32 := 0
  endpoints : List (Nat × BitVec 512) := []
  received : List (Nat × Nat) := []
  first : Nat := 0
  count : Nat := 0
  snap : Option Snap := none
  deriving DecidableEq, Repr

/-- A partition's entry (R472), its audit LFSR (R436), and the logical dies on which a slot schedule is installed (R402). -/
structure Part where
  v : Bool := false
  vdev : BitVec 5 := 0
  audk : BitVec 5 := 0
  grace : BitVec 16 := 100
  aging : BitVec 32 := 0
  pxlt : BitVec 52 := 0
  lbase : BitVec 18 := 0
  lcount : BitVec 18 := 0
  evdrop : BitVec 16 := 0
  tagdrop : BitVec 32 := 0
  lfsr : BitVec 32 := 1
  scheds : List Nat := []
  deriving DecidableEq, Repr

/-- A context that was saved as an image (R463): the cluster of its save, what it holds, the draw that its body's bytes come from, the
floor at the save (R198), and whether the context is still out. -/
structure Image where
  cl : Nat
  ctx : Ctx
  stamp : Nat
  floor : Nat
  out : Bool := true
  deriving DecidableEq, Repr

/-- A delivery held for a context that is out (R467): its partition and cluster, and what it does. -/
structure Held where
  ptag : PTag
  cl : Nat
  ev : Instr
  deriving DecidableEq, Repr

/-! ## The package's network, service processors and ports (R491 to R553) -/

/-- An entry of the die maps (R495). -/
structure DieEntry where
  v : Bool := false
  rem : Bool := false
  deg : Bool := false
  pkg : BitVec 4 := 0
  pdie : BitVec 4 := 0
  deriving DecidableEq, Repr

/-- The spare: SSTATE and TAKEOVERS of SPARST (R496), and the package it is lent to (R501). -/
structure Spare where
  sstate : BitVec 2 := 0
  takeovers : BitVec 16 := 0
  lentTo : Option Nat := none
  deriving DecidableEq, Repr

/-- A takeover in progress (R498): the lost die, its place in the maps, the shadow maps, whether the local spare takes the number,
M, the largest logical time held at the stop, whether the next tick has come, and the requests of surviving dies that the lost
one did not take (R499). -/
structure Takeover where
  lost : Nat
  logical : Nat
  map : List DieEntry
  own : Bool
  peak : Nat
  ticked : Bool := false
  unanswered : List Packet := []
  deriving DecidableEq, Repr

/-- The dictionary state of a direction of a link (R505): entries that are not zero, IP and LL. -/
structure Dict where
  entries : List (Nat × BitVec 1024) := []
  ip : BitVec 6 := 0
  ll : BitVec 1024 := 0
  deriving DecidableEq, Repr

/-- A line record (R504). -/
inductive LineRec where
  | raw (x : BitVec 1024)
  | zero
  | diff (i : BitVec 6) (mask : BitVec 128) (bytes : List Byte)
  | rep
  deriving DecidableEq, Repr

/-- A data frame that is sent and not acknowledged: its number, what it carries, and its lines as records. -/
structure SentFrame where
  seq : BitVec 16
  items : List FrameItem
  recs : List LineRec
  deriving DecidableEq, Repr

/-- One direction of a link (R505 to R507). The sender's: its next FSEQ, the committed state, the state after every frame sent,
and the frames unacknowledged, oldest first. The receiver's: E, its dictionary, whether it has discarded since its last
acceptance, the digest of its state after the last frame whose number ends in 255, and what it has delivered. -/
structure LinkDir where
  next : BitVec 16 := 0
  base : Dict := {}
  tip : Dict := {}
  unacked : List SentFrame := []
  expect : BitVec 16 := 0
  dict : Dict := {}
  noted : Bool := false
  digest : Option (BitVec 16 × Word) := none
  delivered : List FrameItem := []
  deriving DecidableEq, Repr

/-- A die-to-die link: LINKST and its two directions (R508). -/
structure Link where
  up : Bool := false
  width : BitVec 2 := 0
  replays : BitVec 16 := 0
  resets : BitVec 16 := 0
  dirs : Vector LinkDir 2 := Vector.replicate 2 {}
  deriving DecidableEq, Repr

/-- A mailbox of a service processor (R525). -/
structure Mailbox where
  req : BitVec 512 := 0
  busy : Bool := false
  lstat : BitVec 8 := 0
  lseq : BitVec 32 := 0
  deriving DecidableEq, Repr

/-- The time-share slots of a core by their places (R473): the tag of each valid one. -/
abbrev Slots := List (Option PTag)

/-- How far a layout request has come (R476): contexts are being saved; the prepare record is written; the commit record is
written; the tables are active and contexts are being restored. -/
inductive LayoutStep where
  | saving | prepared | committed | restoring
  deriving DecidableEq, Repr

/-- The records of a layout request in one I/O die's MRAM (R476): SEQ and the CRC-32 of the request, at the prepare and at the commit. -/
structure Journal where
  prepare : Option (BitVec 32 × BitVec 32) := none
  commit : Option (BitVec 32 × BitVec 32) := none
  deriving DecidableEq, Repr

/-- A layout request in progress (R476): its processor, its record, its step, the affected partitions, and its tables: the
slots of each core, the partitions, the virtual devices, the slice tags; the count of draws as it began, which tells the images of its
saves; whether a tick has come since the commit, and how many launches it has completed with PARTITION_CHANGED (R475); whether the
processors make it on their own behalf, and then the cores whose slots it moves, each with the core that takes them (R530). -/
structure Layout where
  sp : Fin 2
  req : BitVec 512
  step : LayoutStep
  affected : List Nat
  assign : List (Nat × Slots)
  parts : List (Nat × Part)
  vds : List (Nat × Vd)
  slices : List (Nat × List (Nat × PTag))
  since : Nat := 0
  ticked : Bool := false
  changed : Nat := 0
  own : Bool := false
  moves : List (Nat × Option Nat) := []
  deriving DecidableEq, Repr

/-- A protected region (R542 to R546): its virtual device and index, its request, the last committed epoch with its snapshot, and
the epoch that has started, with its snapshot; `again` the data members' symbols of those that wait for it, oldest first. -/
structure Region where
  v : Nat
  req : BitVec 512
  epoch : Nat := 0
  snap : Option Snap := none
  started : Option Snap := none
  again : List (List MemberSymbols) := []
  deriving DecidableEq, Repr

/-- A protection request that waits for its group (R543): its mailbox, its record and the tick of its submission. -/
structure ProtWait where
  sp : Fin 2
  req : BitVec 512
  tick : Nat
  deriving DecidableEq, Repr

/-- An entry of the pending-repair list (R541); `asked` that the migration of its pages has been asked for (R540). -/
structure Repair where
  stack : Fin 16
  chan : BitVec 4
  bank : BitVec 4
  row : BitVec 20
  soft : Bool := false
  asked : Bool := false
  deriving DecidableEq, Repr

/-- The service processors and what they keep (R535, R537, R539, R541, R547, R550): those that are lost, the ticks of each one's
watchdog resets, the mailboxes, the layout and the protection requests in progress, the layout journals of both MRAMs, the regions, and in
MRAM the pending-repair
list and the kept scores; the boot configuration's server mask and the firmware image in flash, the measurement of both (R552), the failed
cores whose slots are still to be moved (R530), row corrections with their ticks, the rows in which a data pin was
corrected, the pins moved to spares, and the retired banks. -/
structure ServiceProc where
  lost : Vector Bool 2 := Vector.replicate 2 false
  resets : List (Fin 2 × Nat) := []
  mbox : Vector Mailbox 2 := Vector.replicate 2 {}
  layout : Option Layout := none
  journal : Vector Journal 2 := Vector.replicate 2 {}
  prot : List ProtWait := []
  regions : List Region := []
  repairs : List Repair := []
  kept : List (SuspUnit × Nat) := []
  bootMask : Option (BitVec 10368) := none
  image : List Byte := Config.firmware
  measured : BitVec 512 := 0
  remaps : List Nat := []
  hits : List (Repair × Nat) := []
  pins : List (Fin 16 × BitVec 4 × Nat × BitVec 4 × BitVec 20) := []
  spared : List (Fin 16 × BitVec 4 × Nat) := []
  retired : List (Fin 16 × BitVec 4 × BitVec 4) := []
  deriving DecidableEq, Repr

/-- The ports of the I/O dies and what their registers hold (R509 to R524): FPKG, the export table, CXLHDM, the lines that hosts
hold, the permissions of fabric and exported lines (true: write), XDROP, the latest time of
the posted writes of each requester, the accesses of requesters that have arrived, oldest first (R512), and the lost I/O dies. -/
structure Ports where
  fpkg : List (Nat × BitVec 64) := []
  exportTab : List (Nat × (BitVec 64 × BitVec 64)) := []
  cxlhdm : BitVec 64 := 0
  hostLines : List Nat := []
  perms : List (Nat × Bool) := []
  xdrop : BitVec 32 := 0
  posted : List (Nat × Nat) := []
  queue : List PortReq := []
  ioLost : List (Fin 2) := []
  deriving DecidableEq, Repr

/-- The machine. `cur` is the core whose turn it is; `agenda` the turns that are set beforehand, `pending` the events
that the device owes, oldest first; `draws` counts the free values drawn (log 6, log 7); `assign` the time-share slots of each
core (R473); `homeBase` the write time and lease of the unlisted lines of a home slice of a logical die (R499, R532); `fenced` the
fenced units, `recent` the core stores that agents may not see yet, newest first (R249), `ownCode` the bytes that launches' programs have
written, each with its launch, address and number (R131), `fdrop` FDROP (R498), `avoided` the links that routes avoid (R508), `takeover` a takeover in progress; `capped` that
the package's power is held (R553); `tainted` the open domains that may not be audited (R436). -/
structure State where
  cur : Nat
  agenda : List Turn
  pending : List Instr
  draws : Nat
  clk : Nat
  cores : List (Nat × Core)
  clusters : List (Nat × Cluster)
  dies : List (Nat × Die)
  hbm : Mem
  hbmBad : List Nat
  fabric : Mem
  homes : List (HomeId × (Nat × Nat))
  floor : Nat
  ticks : Nat
  tickMax : Nat
  run : RunState
  dieMap : List DieEntry
  serverMask : List (Nat × BitVec 24)
  reports : List Report
  net : List Packet
  nextId : Nat
  parts : List (Nat × Part)
  vds : List (Nat × Vd)
  sumPairs : List SumPair
  flash : Mem
  scores : List (SuspUnit × Nat)
  assign : List (Nat × Slots)
  queues : List (QueueId × List QEntry)
  launches : List Launch
  audits : List Audit
  charges : List Charge
  drains : List SuspUnit
  tainted : List (PTag × Word)
  images : List Image
  held : List Held
  homeBase : List ((Nat × Nat) × Nat)
  recent : List Recent
  ownCode : List ((Nat × Nat) × Nat × Nat)
  fenced : List FenceUnit
  fdrop : BitVec 32
  spare : Spare
  takeover : Option Takeover
  links : List (Nat × Link)
  avoided : List Nat
  sp : ServiceProc
  ports : Ports
  capped : Bool
  deriving DecidableEq, Repr

/-- Why the machine stops. -/
inductive Fault where
  /-- A physical address with no memory and no fabric behind it. Raised by every access that reaches memory through a
  page whose physical address lies outside the stacks and outside the fabric. Safe: the spec gives no effect. -/
  | noPhysicalMemory (pa : Nat)
  deriving DecidableEq, Repr

/-- Why an instruction has no meaning. -/
inductive Refusal where
  /-- An instruction without a meaning yet, by its mnemonic. Raised by `exec`. Safe: nothing is claimed of it. -/
  | notModelled (mnemonic : String)
  deriving DecidableEq, Repr

/-- The machine right after reset: every register as the spec says, or as the log names; memories list nothing. -/
def State.reset : State :=
  { cur := 0, agenda := [], pending := [], draws := 0, clk := 0, cores := [], clusters := [], dies := [], hbm := [],
    hbmBad := [], fabric := [], homes := [], floor := 0, ticks := 0, tickMax := 0, run := .held,
    dieMap := List.replicate 8 {}, serverMask := [], reports := [], net := [], nextId := 0, parts := [], vds := [],
    sumPairs := [], flash := [], scores := [], assign := [], queues := [], launches := [], audits := [], charges := [], drains := [], tainted := [],
    images := [], held := [], homeBase := [], recent := [], ownCode := [], fenced := [], fdrop := 0, spare := {}, takeover := none, links := [], avoided := [],
    sp := {}, ports := {}, capped := false }

end Sys2Proof.Machine
end

