-- ==== Sys2Proof/Machine/Ops.lean ====
section
/-! DEFINITION. The named operations over memories, units and registers, taking an exception and returning from one. -/
namespace Sys2Proof.Machine
open Sys2Proof

/-! ## Memories -/

/-- A memory keeps its canonical form: addresses strictly rising, no entry equal to what an unlisted address reads as. -/
def Mem.wfFrom : Nat → Mem → Bool
  | _, [] => true
  | lo, (a, b) :: m => decide (lo ≤ a) && b != Config.fillByte && Mem.wfFrom (a + 1) m

/-- The canonical form of a memory. -/
def Mem.wf (m : Mem) : Bool := Mem.wfFrom 0 m

/-- The byte of an address. -/
def Mem.get : Mem → Nat → Byte
  | [], _ => Config.fillByte
  | (k, b) :: m, a => if k = a then b else Mem.get m a

/-- Writes one byte and keeps the canonical form. -/
def Mem.set : Mem → Nat → Byte → Mem
  | [], a, b => if b = Config.fillByte then [] else [(a, b)]
  | (k, c) :: m, a, b =>
    if a < k then (if b = Config.fillByte then (k, c) :: m else (a, b) :: (k, c) :: m)
    else if a = k then (if b = Config.fillByte then m else (a, b) :: m)
    else (k, c) :: Mem.set m a b

/-- The `n` bytes from an address on, lowest first. -/
def Mem.bytes (m : Mem) (a n : Nat) : List Byte := (List.range n).map fun i => m.get (a + i)

/-- Writes a run of bytes, lowest address first. -/
def Mem.setBytes (m : Mem) (a : Nat) : List Byte → Mem
  | [] => m
  | b :: bs => Mem.setBytes (m.set a b) (a + 1) bs

/-- The value of little-endian bytes (R1). -/
def ofBytes (w : Nat) : List Byte → BitVec w
  | [] => 0
  | b :: bs => (ofBytes w bs <<< 8) ||| b.setWidth w

/-- The `n` low bytes of a value, lowest first (R1). -/
def toBytes (n : Nat) {w : Nat} (x : BitVec w) : List Byte := (List.range n).map fun i => x.extractLsb' (8 * i) 8

/-! ## Lists keyed by index -/

/-- The entry of a key, or the reset value of an unlisted one. -/
def Tab.get {α : Type} (d : α) : List (Nat × α) → Nat → α
  | [], _ => d
  | (k, x) :: t, n => if k = n then x else Tab.get d t n

/-- Writes the entry of a key, the keys rising. -/
def Tab.set {α : Type} : List (Nat × α) → Nat → α → List (Nat × α)
  | [], n, x => [(n, x)]
  | (k, y) :: t, n, x => if n < k then (n, x) :: (k, y) :: t else if n = k then (n, x) :: t else (k, y) :: Tab.set t n x

/-- Removes the entry of a key. -/
def Tab.erase {α : Type} : List (Nat × α) → Nat → List (Nat × α)
  | [], _ => []
  | (k, y) :: t, n => if n = k then t else (k, y) :: Tab.erase t n

/-! ## Units -/

/-- The physical die of a core. -/
def dieOf (n : Nat) : Nat := n / Config.coresPerDie
/-- The cluster of a core, counted over the package. -/
def clusterOf (n : Nat) : Nat := n / Config.coresPerCluster
/-- The index of a core in its cluster. -/
def indexOf (n : Nat) : Nat := n % Config.coresPerCluster
/-- The die of a cluster. -/
def clusterDie (cl : Nat) : Nat := cl / Config.clustersPerDie

/-- The server mask of a cluster: core 23 unless bring-up says otherwise (R17, R550). -/
def State.maskOf (s : State) (cl : Nat) : BitVec 24 := Tab.get 0x800000#24 s.serverMask cl
/-- An OS server core (R17). -/
def State.isServer (s : State) (n : Nat) : Bool := (s.maskOf (clusterOf n)).getLsbD (indexOf n)

/-- A core as bring-up leaves it: an OS server core is in supervisor mode (R450). DESIGN CHOICE (log 1). -/
def State.initCore (s : State) (n : Nat) : Core :=
  if s.isServer n then { regs := { trap := { sup := true } } } else {}

/-- The partition tag that a core's PTAG register reads (R450, R474). -/
def Core.ptag (c : Core) : PTag := c.ctag.getD 0
def State.core (s : State) (n : Nat) : Core := Tab.get (s.initCore n) s.cores n
def State.setCore (s : State) (n : Nat) (c : Core) : State := { s with cores := Tab.set s.cores n c }
/-- The core whose turn it is. -/
def State.cc (s : State) : Core := s.core s.cur
def State.setCc (s : State) (c : Core) : State := s.setCore s.cur c
def State.cluster (s : State) (n : Nat) : Cluster := Tab.get {} s.clusters n
def State.setCluster (s : State) (n : Nat) (c : Cluster) : State := { s with clusters := Tab.set s.clusters n c }
def State.die (s : State) (n : Nat) : Die := Tab.get {} s.dies n
def State.setDie (s : State) (n : Nat) (d : Die) : State := { s with dies := Tab.set s.dies n d }
/-- Counts up to the largest value. -/
def satInc {w : Nat} (x : BitVec w) : BitVec w := if x = BitVec.allOnes w then x else x + 1

/-- The device owes an event: it is added behind those owed already. -/
def State.owe (s : State) (i : Instr) : State := { s with pending := s.pending ++ [i] }
/-- A message to the world outside. -/
def State.report (s : State) (r : Report) : State := { s with reports := s.reports ++ [r] }

/-- Sends a packet of the network that is delivered at clk `due` (R450, R492); what it does on delivery is `ev`. -/
def State.sendAt (s : State) (due src dst : Nat) (tag : PTag) (sup : Bool) (ev : Instr) : State :=
  { s with net := s.net ++ [{ id := s.nextId, dst := dst, src := src, tag := tag, sup := sup, ev := ev, due := due }],
           nextId := s.nextId + 1 }
/-- Sends a packet from core `src` to core `dst` under the core's tag; how long it takes is free (R492 to R494). -/
def State.send (s : State) (src dst : Nat) (sup : Bool) (ev : Instr) : State :=
  s.sendAt (max s.clk (s.core src).tmg.clk + Config.transit s.nextId) src dst (s.core src).ptag sup ev
/-- Changes a partition's entry. -/
def State.onPart (s : State) (p : Nat) (f : Part → Part) : State :=
  { s with parts := Tab.set s.parts p (f (Tab.get {} s.parts p)) }
def State.part (s : State) (p : Nat) : Part := Tab.get {} s.parts p
def State.vd (s : State) (v : Nat) : Vd := Tab.get {} s.vds v
def State.onVd (s : State) (v : Nat) (f : Vd → Vd) : State := { s with vds := Tab.set s.vds v (f (s.vd v)) }
/-- The virtual device that a core's live context belongs to (R471). -/
def State.vdOf (s : State) (n : Nat) : Option Nat := (s.core n).ctag.map fun p => (s.part p.toNat).vdev.toNat
/-- HPOL of a core: FSYS and FDEV of its virtual device (R222, R454). -/
def State.hpol (s : State) (n : Nat) : Bool × Bool :=
  match s.vdOf n with
  | some v => ((s.vd v).fsys, (s.vd v).fdev)
  | none => (false, false)
/-- The scope check of user mode (R222): DEVICE needs FDEV, SYSTEM needs FSYS. -/
def State.scopeDenied (s : State) (scope : BitVec 3) : Bool :=
  !s.cc.regs.trap.sup &&
    ((scope == 3 && !(s.hpol s.cur).2) || (scope == 4 && !(s.hpol s.cur).1))
/-- A detected error is posted at its die and stops the charged core (R455); the domain handler is to act on its charge (R432). Past 64
entries the posting waits, and its charge with it. -/
def State.postErrorFor (s : State) (kind : BitVec 6) (ptag : PTag) (core : Nat) (x : Charge) : State :=
  let e : DErr := ⟨kind, ptag, core⟩
  let d := s.die (dieOf core)
  let stop := fun (s : State) => s.setCore core { s.core core with errStop := true }
  if d.derrq.length < 64 then
    let s := stop (s.setDie (dieOf core) { d with derrq := d.derrq ++ [e] })
    { s with charges := s.charges ++ [x], pending := s.pending ++ [.domainCharge] }
  else stop (s.setDie (dieOf core) { d with derrWait := d.derrWait ++ [(e, some x)] })
/-- A detected error is charged to what its core runs. -/
def State.postError (s : State) (kind : BitVec 6) (ptag : PTag) (core : Nat) : State := s.postErrorFor kind ptag core { core := core }

/-- Units that take no further work (R538). DEDUCED (log 138). -/
def State.drained (s : State) (u : SuspUnit) : Bool := s.drains.contains u

/-- A unit's suspicion score (R537). -/
def scoreOf (t : List (SuspUnit × Nat)) (u : SuspUnit) : Nat := ((t.find? (·.1 == u)).map (·.2)).getD 0

/-- A unit's suspicion score rises (R537); a unit that reaches 256 is to be drained (R538). -/
def State.suspect (s : State) (u : SuspUnit) (k : Nat) : State :=
  let x := scoreOf s.scores u
  let y := min 65535 (x + k)
  let s := { s with scores := (u, y) :: s.scores.filter (·.1 != u) }
  if x < 256 ∧ 256 ≤ y then s.owe (.unitDrain u) else s

/-- The die of this model that an entry of the die maps names (R495, R501, R502): a physical die, a die borrowed of a package, or
one without cores. DEDUCED (log 114). -/
def DieEntry.place (e : DieEntry) : Nat := if e.deg then 31 else if e.rem then 9 + e.pkg.toNat else e.pdie.toNat
/-- The logical number of a physical die, if it has one (R7); before the maps are built a die stands for itself. -/
def State.logicalDie (s : State) (d : Nat) : Option Nat :=
  if s.dieMap.all fun (e : DieEntry) => !e.v then (if d < 8 then some d else none)
  else s.dieMap.findIdx? fun (e : DieEntry) => e.v && !e.deg && e.place == d
/-- The physical die of a logical one (R7). -/
def State.physDie (s : State) (l : Nat) : Nat :=
  match s.dieMap[l]? with
  | some e => if e.v then e.place else l
  | none => l
/-- A unit is fenced (R528). -/
def State.isFenced (s : State) (u : FenceUnit) : Bool := s.fenced.contains u
/-- A physical die is fenced (R498). -/
def State.dieFenced (s : State) (d : Nat) : Bool := s.fenced.any fun (u : FenceUnit) => match u with
  | .die k => k.val == d
  | _ => false
/-- The physical address lies on a fenced stack (R533). -/
def State.stackLost (s : State) (pa : Nat) : Bool :=
  decide (pa < Config.hbmBytes) && s.fenced.any fun (u : FenceUnit) => match u with
    | .stack k => k.val == pa / 2 ^ 36
    | _ => false
/-- Entry i of a partition's translation table (R415, R472), as it stands in memory. -/
def State.xltEntry (s : State) (p : PTag) (i : Nat) : BitVec 32 :=
  ofBytes 32 ((List.range 4).map fun k =>
    let pa := (s.part p.toNat).pxlt.toNat + 4 * i + k
    if pa < Config.hbmBytes then s.hbm.get pa else s.fabric.get pa)
/-- The package and the core of that package that a valid translation entry names (R472). -/
def xltCore (e : BitVec 32) : Option (Nat × Nat) :=
  if e.getLsbD 31 then
    some ((e.extractLsb' 16 4).toNat,
      (e.extractLsb' 11 4).toNat * Config.coresPerDie + (e.extractLsb' 5 6).toNat * 24 + (e.extractLsb' 0 5).toNat)
  else none
/-- The logical core number that R16 gives a physical core of this package. DEDUCED (log 115). -/
def State.plainLcn (s : State) (n : Nat) : Nat :=
  Config.package * Config.coresPerPackage + ((s.logicalDie (dieOf n)).getD (dieOf n)) * Config.coresPerDie +
    n % Config.coresPerDie
/-- The partition whose table translates the numbers of a tag (R415), where it has one. -/
def State.translating (s : State) (p : Option PTag) : Option PTag :=
  p.bind fun q => if (s.part q.toNat).v && (s.part q.toNat).lcount != 0 then some q else none
/-- The logical number of a core in a partition (R415). -/
def State.lcnIn (s : State) (p : Option PTag) (n : Nat) : Nat :=
  match s.translating p with
  | none => s.plainLcn n
  | some q =>
    match (List.range (s.part q.toNat).lcount.toNat).find? fun i => xltCore (s.xltEntry q i) == some (Config.package, n) with
    | some i => (s.part q.toNat).lbase.toNat + i
    | none => s.plainLcn n
/-- The logical core number of a physical core of this package (R16, R415). -/
def State.lcn (s : State) (n : Nat) : Nat := s.lcnIn (s.core n).ctag n
/-- A core of a die that the maps borrow of another package is a core of this one (R501). -/
def State.borrowed (s : State) (x : Nat × Nat) : Nat × Nat :=
  if x.1 != Config.package && s.dieMap.any fun (e : DieEntry) => e.v && e.rem && e.pkg.toNat == x.1 && e.pdie.toNat == dieOf x.2 then
    (Config.package, (9 + x.1) * Config.coresPerDie + x.2 % Config.coresPerDie)
  else x
/-- The package and core that a logical core number names for a partition (R16, R415). -/
def State.locate (s : State) (p : Option PTag) (l : Nat) : Nat × Nat :=
  let plain := (l / Config.coresPerPackage,
    s.physDie (l % Config.coresPerPackage / Config.coresPerDie) * Config.coresPerDie + l % Config.coresPerDie)
  match s.translating p with
  | none => plain
  | some q =>
    let b := (s.part q.toNat).lbase.toNat
    if b ≤ l ∧ l < b + (s.part q.toNat).lcount.toNat then s.borrowed ((xltCore (s.xltEntry q (l - b))).getD plain) else plain
/-- The physical core of this package that a logical core number names for a partition. -/
def State.ofLcn (s : State) (p : Option PTag) (l : Nat) : Option Nat :=
  let x := s.locate p l
  if x.1 = Config.package then some x.2 else none
/-- The tags of the valid ones of a core's slots, the lowest place first. -/
def Slots.valid (x : Slots) : List PTag := x.filterMap id
/-- The tags of a core's valid time-share slots (R473). -/
def State.slotsOf (s : State) (n : Nat) : List PTag := Slots.valid (Tab.get [] s.assign n)
/-- The die of a core is the spare while it holds no logical number of this package: idle, lent or lost, it runs no tenant work of it (R8,
R496, R501). -/
def State.idleSpare (s : State) (n : Nat) : Bool := dieOf n == 8 && s.spare.sstate != 1
/-- A core belongs to the core set of a partition: it has a time-share slot of it, or runs its context (R471, R473). -/
def State.inPartition (s : State) (p : PTag) (n : Nat) : Bool :=
  ((s.slotsOf n).contains p && !s.idleSpare n) || (s.core n).ctag == some p

/-- The context of a partition is out of a cluster (R464, R467). -/
def State.ctxOut (s : State) (cl : Nat) (p : PTag) : Bool :=
  ((s.cluster cl).glen.any fun x => x.ptag == p) || s.images.any fun i => i.out && i.cl == cl && i.ctx.ptag == p
/-- The contexts that are out, each with the cluster it left. -/
def State.outCtxs (s : State) : List (Nat × Ctx) :=
  (s.clusters.filterMap fun e => e.2.glen.map fun x => (e.1, x)) ++
    (s.images.filter (·.out)).map fun i => (i.cl, i.ctx)
/-- The cores of the contexts that are out. -/
def State.outCores (s : State) : List Core := s.outCtxs.flatMap fun x => x.2.cores.map fun c => c.2.2

/-- Changes the contexts that are out, each with the cluster it left. -/
def State.mapOut (s : State) (f : Nat → Ctx → Ctx) : State :=
  { s with clusters := s.clusters.map fun (e : Nat × Cluster) => (e.1, { e.2 with glen := e.2.glen.map (f e.1) })
           images := s.images.map fun (i : Image) => if i.out then { i with ctx := f i.cl i.ctx } else i }

/-! ## Performance counters (R482, R483) -/

/-- How often a core's requests have caused an event (R482): words completed, k-steps of its array operations, or a count kept for
it. -/
def Core.eventCount (c : Core) (evt : BitVec 8) : Nat :=
  if evt = 1 then c.tmg.words else if evt = 3 then c.eng.zsteps else c.counts.toList.getD evt.toNat 0
/-- A counter's exact value (R483). -/
def Core.pmcExact (c : Core) (i : Fin 4) : Word := c.pmc[i] + BitVec.ofNat 64 (c.eventCount c.pmsel[i])
/-- The counts of core n whose number the spec leaves open have grown by free amounts (log 21). -/
def Core.grown (c : Core) (n draw : Nat) : Core :=
  { c with counts := ([2, 4, 5, 6, 8, 9] : List (Fin 10)).foldl (fun (v : Vector Nat 10) (e : Fin 10) =>
    v.set e (v[e] + (Config.pmCount n e.val draw).toNat)) c.counts }
def State.grow (s : State) (n : Nat) : State := { s with draws := s.draws + 1 }.setCore n ((s.core n).grown n s.draws)
/-- One more line of a core's own copy commands (R482). -/
def Core.countLine (c : Core) : Core := { c with counts := c.counts.set 7 (c.counts[7] + 1) }
/-- What users read of shared events is taken (R483). -/
def Core.latchCounts (c : Core) : Core := { c with pmcTick := Vector.ofFn c.pmcExact }
/-- At a tick that is a multiple of 64, what users read of shared events is taken, also in contexts that are out (R483). -/
def State.latchCounts (s : State) : State :=
  let s := { s with draws := s.draws + 1
                    cores := s.cores.map fun (e : Nat × Core) => (e.1, (e.2.grown e.1 s.draws).latchCounts) }
  s.mapOut fun _ x => { x with cores := x.cores.map fun (e : Nat × Nat × Core) => (e.1, e.2.1, e.2.2.latchCounts) }

/-- A cluster's crossbar is to be reached at an edge (R376). -/
def State.pulse (s : State) (cl edge : Nat) (x : Pulse) : State :=
  let c := s.cluster cl
  s.setCluster cl { c with pulses := c.pulses ++ [(edge, x)] }

/-- A delivery is held with the context that it is addressed to (R467). -/
def State.hold (s : State) (p : PTag) (cl : Nat) (ev : Instr) : State :=
  { s with held := s.held ++ [{ ptag := p, cl := cl, ev := ev }] }

/-! ## Registers -/

/-- Reads a general register; g0 reads zero (R11). -/
def Core.rdG (c : Core) (r : GReg) : Word := if r = 0 then 0 else c.regs.g[r]
/-- Reads a predicate; p0 reads true (R11). -/
def Core.rdP (c : Core) (r : PReg) : Bool := if r = 0 then true else c.regs.p[r]
/-- Reads a lane mask; k0 reads all ones (R11). -/
def Core.rdK (c : Core) (r : KReg) : Mask := if r = 0 then BitVec.allOnes 128 else c.regs.k[r]
/-- Reads a vector register with its tag. -/
def Core.rdV (c : Core) (r : VReg) : VR := c.regs.v[r]
/-- Writes a general register; a write of g0 is discarded (R11, R34). -/
def Core.wrG (c : Core) (r : GReg) (x : Word) : Core :=
  if r = 0 then c else { c with regs := { c.regs with g := c.regs.g.set r x } }
/-- Writes a predicate; a write of p0 is discarded. -/
def Core.wrP (c : Core) (r : PReg) (b : Bool) : Core :=
  if r = 0 then c else { c with regs := { c.regs with p := c.regs.p.set r b } }
/-- Writes a lane mask; a write of k0 is discarded. -/
def Core.wrK (c : Core) (r : KReg) (m : Mask) : Core :=
  if r = 0 then c else { c with regs := { c.regs with k := c.regs.k.set r m } }
/-- Writes a vector register with its tag; the operand buffer's entry of it is stale from now on (R253). -/
def Core.wrV (c : Core) (r : VReg) (x : VR) : Core :=
  { c with regs := { c.regs with v := c.regs.v.set r x },
           tmg := { c.tmg with obuf := c.tmg.obuf.filter (·.1 != r) } }
/-- Performs one register write. -/
def Core.wr (c : Core) : Wr → Core
  | .g r x => c.wrG r x
  | .p r b => c.wrP r b
  | .k r m => c.wrK r m
  | .v r x => c.wrV r x

/-- Changes the trap registers. -/
def Core.setTrap (c : Core) (f : TrapRegs → TrapRegs) : Core :=
  { c with regs := { c.regs with trap := f c.regs.trap } }
/-- Changes the floating-point state. -/
def Core.setFp (c : Core) (f : FpRegs → FpRegs) : Core := { c with regs := { c.regs with fp := f c.regs.fp } }
/-- Changes the issue state. -/
def Core.setTmg (c : Core) (f : Timing → Timing) : Core := { c with tmg := f c.tmg }
/-- Moves the program counter. -/
def Core.setPc (c : Core) (a : Word) : Core := { c with regs := { c.regs with pc := a } }

/-- XSTAT as RDSYS reads it (R454). -/
def Core.xstat (c : Core) : Word :=
  let t := c.regs.trap
  (t.phase.setWidth 64 <<< 14) ||| ((BitVec.ofBool t.pt).setWidth 64 <<< 11) |||
    ((BitVec.ofBool t.ps).setWidth 64 <<< 10) ||| ((BitVec.ofBool t.exl).setWidth 64 <<< 9) |||
    ((BitVec.ofBool t.sup).setWidth 64 <<< 8) ||| ((BitVec.ofBool t.tim).setWidth 64 <<< 4) |||
    c.regs.fp.rmode.setWidth 64

/-! ## Results in flight -/

/-- The operand number a write names. -/
def Wr.num : Wr → BitVec 7
  | .g r _ => opG r
  | .p r _ => opP r
  | .k r _ => opK r
  | .v r _ => opV r

/-- Every result that is visible at `t` is written, in the order in which they land, and of those that land together
in issue order (R143). -/
def landUpTo : Nat → Nat → List Flight → Core → Core × List Flight
  | _, _, [], c => (c, [])
  | 0, _, fs, c => (c, fs)
  | n + 1, t, fs, c =>
    match (fs.map (·.land)).min? with
    | none => (c, [])
    | some m =>
      if m ≤ t then
        let due := fs.filter (·.land == m)
        landUpTo n t (fs.filter (·.land != m)) (due.foldl (fun c f => c.wr f.wr) c)
      else (c, fs)

/-- The core with every result visible at `t` written. -/
def Core.settle (c : Core) (t : Nat) : Core :=
  let r := landUpTo c.tmg.flights.length t c.tmg.flights c
  r.1.setTmg fun m => { m with flights := r.2 }

/-- Every result in flight is written, as before a halt or a trap (R144, R458). -/
def Core.drain (c : Core) : Core :=
  let r := landUpTo c.tmg.flights.length (c.tmg.flights.foldl (fun m f => max m f.land) 0) c.tmg.flights c
  r.1.setTmg fun m => { m with flights := [] }

/-- A result of fixed latency L of an instruction issued at `t` (R28): a latency of 1 is written at once, after what
lands with it. -/
def Core.result (c : Core) (t lat : Nat) (w : Wr) : Core :=
  if lat ≤ 1 then (c.settle (t + 1)).wr w
  else c.setTmg fun m => { m with flights := m.flights ++ [{ land := t + lat, locked := false, wr := w }] }

/-- An interlocked result of latency L (R15). -/
def Core.lockedResult (c : Core) (t lat : Nat) (w : Wr) : Core :=
  c.setTmg fun m => { m with flights := m.flights ++ [{ land := t + lat, locked := true, wr := w }] }

/-- A result of variable latency (R15): interlocked, so that no later instruction can see the register before it; it is
written at once, and the core counts it. Of the results of fixed latency that older instructions still owe the same register in
TIMED mode, those that land before the latency `least` has passed are lost; whether one that lands later lands after this result, no
rule fixes (R143, R157). DESIGN CHOICE (log 157). -/
def Core.slipAfter (c : Core) (least : Nat) (w : Wr) : Core :=
  (c.wr w).setTmg fun m => { m with
    slips := m.slips + 1,
    flights := m.flights.filter fun f => f.wr.num != w.num || (decide (m.clk + least < f.land) && Config.slipFirst m.slips f.land) }
/-- A result of variable latency whose least latency no rule states: 3 clk, as no variable one is shorter. DESIGN CHOICE (log 157). -/
def Core.slipResult (c : Core) (w : Wr) : Core := c.slipAfter 3 w

/-! ## Physical memory and translation -/

/-- The bytes at a physical address: the stacks below 1 TiB, the fabric where bit 51 is set (R183, R516). -/
def State.physByte (s : State) (pa : Nat) : Byte := if pa < Config.hbmBytes then s.hbm.get pa else s.fabric.get pa
/-- A physical address with memory behind it. DESIGN CHOICE (log 142). -/
def physOk (pa : Nat) : Bool := decide (pa < Config.hbmBytes) || (decide (2 ^ 51 ≤ pa) && decide (pa < 2 ^ 52))
/-- DESIGN CHOICE (log 151). -/
def State.physBytes (s : State) (pa n : Nat) : List Byte := (List.range n).map fun i => s.physByte (pa + i)
def State.setPhysByte (s : State) (pa : Nat) (b : Byte) : State :=
  if s.stackLost pa then s
  else if pa < Config.hbmBytes then { s with hbm := s.hbm.set pa b }
  else if physOk pa then { s with fabric := s.fabric.set pa b } else s
def State.setPhysBytes (s : State) (pa : Nat) : List Byte → State
  | [] => s
  | b :: bs => State.setPhysBytes (s.setPhysByte pa b) (pa + 1) bs

/-- What a walk of the page tables finds (R186 to R188). -/
inductive WalkResult where
  | page (level : Nat) (leaf : BitVec 64)
  | fault (malformed : Bool) (level : Nat)
  deriving DecidableEq, Repr

/-- The lowest address bit that each level translates (R186). -/
def levelShift : Nat → Nat
  | 0 => 43
  | 1 => 30
  | 2 => 21
  | _ => 16
/-- The index bits of each level (R186). -/
def levelBits : Nat → Nat
  | 0 => 13
  | 1 => 13
  | 2 => 9
  | _ => 5

/-- An entry with V = 1 is malformed (R188). -/
def malformed (level : Nat) (e : BitVec 64) : Bool :=
  let leaf := e.getLsbD 1
  e.extractLsb' 53 11 != 0 || (leaf && level == 0) || (!leaf && level == 3) ||
    (if leaf then e.extractLsb' 6 2 == 3 || (e.extractLsb' 8 44).toNat % 2 ^ (levelShift level - 8) != 0
     else e.extractLsb' 2 6 != 0 || e.getLsbD 52 ||
       (e.extractLsb' 8 44).toNat % 2 ^ (levelBits (level + 1) + 3 - 8) != 0)

/-- A physical address on another package (R516). -/
def isFabric (pa : Nat) : Bool := decide (2 ^ 51 ≤ pa)
/-- The local place of a fabric address that names this package (R516). -/
def localPa (pa : Nat) : Nat := if isFabric pa && pa / 2 ^ 47 % 16 == Config.package then pa % 2 ^ 47 else pa
/-- Walks the tables from a level on; `fuel` counts the levels left. A pointer to an address with no memory behind it finds an entry that
reads as zero, which is not present. DESIGN CHOICE (log 142). -/
def State.walkFrom (s : State) (va : Nat) : Nat → Nat → Nat → WalkResult
  | 0, level, _ => .fault true level
  | fuel + 1, level, table =>
    let at_ := localPa (table + 8 * (va / 2 ^ levelShift level % 2 ^ levelBits level))
    let e := ofBytes 64 (s.physBytes at_ 8)
    if s.stackLost at_ then .fault true level
    else if !e.getLsbD 0 then .fault false level
    else if malformed level e then .fault true level
    else if e.getLsbD 1 then .page level e
    else State.walkFrom s va fuel (level + 1) ((e.extractLsb' 8 44).toNat * 256)

/-- A whole walk from a root (R185, R186). -/
def State.walk (s : State) (root : BitVec 36) (va : Nat) : WalkResult := s.walkFrom va 4 0 (root.toNat * 65536)

/-- The physical address a leaf gives (R187, R516). -/
def leafPa (level : Nat) (leaf : BitVec 64) (va : Nat) : Nat :=
  localPa ((leaf.extractLsb' 8 44).toNat * 256 + va % 2 ^ levelShift level)

/-- The page policies (R187). -/
inductive Policy where
  | leased | swm | uc
  deriving DecidableEq, Repr

/-- The policy of a leaf's page (R187); a fabric page's lines are in no L1D, also where it names this package (R516). -/
def leafPolicy (leaf : BitVec 64) : Policy :=
  if leaf.getLsbD 51 && leaf.extractLsb' 47 4 == BitVec.ofNat 4 Config.package then .uc
  else if leaf.extractLsb' 6 2 == 0 then .leased else if leaf.extractLsb' 6 2 == 1 then .swm else .uc

/-- A TLB entry covers an address. -/
def TlbEntry.hits (e : TlbEntry) (vsid : BitVec 8) (va : Nat) : Bool :=
  e.vsid == vsid && e.vpn == va / 2 ^ levelShift e.level

/-- The entry of a TLB for an address. -/
def tlbFind (t : List TlbEntry) (vsid : BitVec 8) (va : Nat) : Option TlbEntry := t.find? (·.hits vsid va)

/-- The set of the L2 TLB that an entry falls into: 8,192 entries in sets of eight (R190). DESIGN CHOICE (log 31). -/
def TlbEntry.set (e : TlbEntry) : Nat := e.vpn % 1024
/-- A translation enters an L2 TLB; of nine in one set the oldest leaves. -/
def l2Insert (e : TlbEntry) (t : List TlbEntry) : List TlbEntry :=
  let t := t.filter (· != e)
  let stay := (t.filter fun y => y.set == e.set).take 7
  e :: t.filter fun y => y.set != e.set || stay.contains y
/-- A walk's translation enters the L2 TLB of a die (R190). -/
def State.fillL2 (s : State) (d : Nat) (e : TlbEntry) : State :=
  let k := s.die d
  s.setDie d { k with l2tlb := l2Insert e k.l2tlb }

/-- The kinds of right an access needs (R189). -/
inductive Right where
  | read | write | atomic | exec
  deriving DecidableEq, Repr

/-- The leaf grants the right to the mode (R189). -/
def leafOk (leaf : BitVec 64) (r : Right) (user : Bool) : Bool :=
  (match r with
    | .read => leaf.getLsbD 2
    | .write => leaf.getLsbD 3
    | .atomic => leaf.getLsbD 2 && leaf.getLsbD 3
    | .exec => leaf.getLsbD 52) && (!user || leaf.getLsbD 4)

/-! ## Logical time -/

/-- The home of a physical line: a logical die and a slice of it (R184). -/
def homeDie (line : Nat) : Nat :=
  (List.range 15).foldl (fun (x : Nat) (i : Nat) => x ^^^ (line / 8 ^ i % 8)) 0
def homeSlice (line : Nat) : Nat := (line ^^^ (line / 2 ^ 17)) % 48

/-- The entry of a home, or what an unlisted one holds. -/
def HomeTab.get (d : Nat × Nat) : List (HomeId × (Nat × Nat)) → HomeId → Nat × Nat
  | [], _ => d
  | (k, x) :: t, h => if k = h then x else HomeTab.get d t h
def HomeTab.set : List (HomeId × (Nat × Nat)) → HomeId → Nat × Nat → List (HomeId × (Nat × Nat))
  | [], h, x => [(h, x)]
  | (k, y) :: t, h, x => if k = h then (h, x) :: t else (k, y) :: HomeTab.set t h x

/-- The write time and read lease that an unlisted home holds: 0 but for lines of a home slice that has moved (R499, R532). -/
def State.homeOf (s : State) (h : HomeId) : Nat :=
  match h with
  | .line n => ((s.homeBase.find? fun e => e.1 == (homeDie n, homeSlice n)).map (·.2)).getD 0
  | _ => 0
/-- The write time and read lease of a home (R184, R199). -/
def State.home (s : State) (h : HomeId) : Nat × Nat := HomeTab.get (s.homeOf h, s.homeOf h) s.homes h
def State.setHome (s : State) (h : HomeId) (x : Nat × Nat) : State := { s with homes := HomeTab.set s.homes h x }

/-- The time of a read at a home that keeps no copy (R199). -/
def State.readTime (s : State) (lt : Nat) (h : HomeId) : State × Nat :=
  let x := s.home h
  let t := max lt x.1
  (s.setHome h (x.1, max x.2 t), t)
/-- Before a home performs a write, the copy that a host holds is back-invalidated (R513). -/
def State.backInvalidate (s : State) (h : HomeId) : State :=
  match h with
  | .line n =>
    if s.ports.hostLines.contains n then
      { s with ports := { s.ports with hostLines := s.ports.hostLines.filter (· != n) } }.report (.backInvalidate n)
    else s
  | _ => s
/-- The time of a write or an atomic at a home (R199). -/
def State.writeTime (s : State) (lt : Nat) (h : HomeId) : State × Nat :=
  let x := s.home h
  let t := max lt (max (x.1 + 1) (x.2 + 1))
  ((s.backInvalidate h).setHome h (t, t), t)
/-- A core's core-path read at a home without copies: it raises the core's logical time (R199, R202). -/
def State.coreRead (s : State) (n : Nat) (h : HomeId) : State :=
  let r := s.readTime (s.core n).lt h
  r.1.setCore n { r.1.core n with lt := r.2 }
/-- A core's core-path write or atomic at a home (R199). -/
def State.coreWrite (s : State) (n : Nat) (h : HomeId) : State :=
  let r := s.writeTime (s.core n).lt h
  r.1.setCore n { r.1.core n with lt := r.2 }

/-- The 8-byte words that a run of bytes touches. -/
def wordsOf (off n : Nat) : List Nat :=
  if n = 0 then [] else (List.range ((off + n - 1) / 8 - off / 8 + 1)).map (off / 8 + ·)
/-- The words that a run of bytes covers whole: a store rewrites their check bits (R163). -/
def wordsCovered (off n : Nat) : List Nat := (wordsOf off n).filter fun w => decide (off ≤ 8 * w) && decide (8 * w + 8 ≤ off + n)

/-! ## Policies, copies and logical time (R199, R203 to R205) -/

/-- The copy of a line in a cluster's L1D. -/
def Cluster.copy (c : Cluster) (line : Nat) (swm : Bool) : Option Copy := c.l1d.find? fun x => x.line == line && x.swm == swm
/-- Puts a copy in place of any older one of its line and policy. The L1D holds 128 KiB, 1,024 lines (R10); beyond them the line that was
filled first is to be evicted. DESIGN CHOICE (log 165). -/
def State.setCopy (s : State) (cl : Nat) (x : Copy) : State :=
  let c := s.cluster cl
  let l := x :: c.l1d.filter fun y => !(y.line == x.line && y.swm == x.swm)
  let s := s.setCluster cl { c with l1d := l }
  match l.drop 1024 with
  | y :: _ => s.owe (.l1dEviction cl y.line y.swm)
  | [] => s
/-- Drops the copy of a line. -/
def State.dropCopy (s : State) (cl line : Nat) (swm : Bool) : State :=
  let c := s.cluster cl
  s.setCluster cl { c with l1d := c.l1d.filter fun y => !(y.line == line && y.swm == swm) }

/-- The bytes of a line's home. -/
def State.lineData (s : State) (line : Nat) : BitVec 1024 := ofBytes 1024 (s.physBytes (128 * line) 128)
/-- The words of a line that are uncorrectable at its home. -/
def State.lineBad (s : State) (line : Nat) : BitVec 16 :=
  (List.range 16).foldl (fun x i =>
    if s.stackLost (128 * line) || s.hbmBad.contains (16 * line + i) then x ||| BitVec.ofNat 16 (2 ^ i) else x) 0
/-- Bytes of a copy from an offset of its line on. -/
def copyBytes (d : BitVec 1024) (off n : Nat) : List Byte := (List.range n).map fun i => d.extractLsb' (8 * (off + i)) 8
/-- A line's data with bytes replaced from an offset on. -/
def patchLine (d : BitVec 1024) (off : Nat) (bs : List Byte) : BitVec 1024 :=
  ofBytes 1024 (copyBytes d 0 off ++ bs ++ copyBytes d (off + bs.length) (128 - off - bs.length))

/-- The home's bytes are written: a word covered whole is no longer uncorrectable, and no host keeps a copy (R213). -/
def State.writeHome (s : State) (pa : Nat) (bs : List Byte) : State :=
  let s := s.setPhysBytes pa bs
  { s with hbmBad := s.hbmBad.filter (!(wordsCovered pa bs.length).contains ·) }

/-- The dirty bytes of a copy merged over its home's bytes (R204). -/
def Copy.merged (x : Copy) (home : BitVec 1024) : List Byte :=
  (List.range 128).map fun i => if x.dirty.getLsbD i then x.data.extractLsb' (8 * i) 8 else home.extractLsb' (8 * i) 8
/-- The words of a copy all of whose bytes are dirty, numbered over memory. -/
def Copy.wholeWords (x : Copy) : List Nat :=
  ((List.range 16).filter fun i => x.dirty.extractLsb' (8 * i) 8 == 0xFF#8).map (16 * x.line + ·)
/-- A local range that other packages may reach (R517, R524): the entry's base is valid and covers the bytes. -/
def State.exported (s : State) (pa len : Nat) : Bool :=
  s.ports.exportTab.any fun (e : Nat × (BitVec 64 × BitVec 64)) =>
    let base := e.2.1.toNat / 65536 * 65536
    e.2.1.getLsbD 0 && decide (base ≤ pa) && decide (pa + len ≤ base + e.2.2.toNat)
/-- A line of another package as its home gives it: what the packages have written there meanwhile is not known here, and its logical time
is no less than it was (R518). DESIGN CHOICE (log 151). -/
def State.fetchFabric (s : State) (line : Nat) : State :=
  let bs := (List.range 16).flatMap fun i => toBytes 8 (Config.freeWord (s.draws + i))
  let h := s.home (.line line)
  let t := h.1 + (Config.freeWord (s.draws + 16)).toNat
  ({ s with draws := s.draws + 17 }.setHome (.line line) (t, max h.2 t)).setPhysBytes (128 * line) bs
/-- The home of a fabric line, or before a write of an exported one, holds the permission that the switch directory gives; a fabric line
comes with its first one (R516, R517, R518). DEDUCED (log 125). -/
def State.permit (s : State) (pa : Nat) (write : Bool) : State :=
  let line := pa / 128
  let grant := fun (s : State) =>
    { s with ports := { s.ports with perms := Tab.set s.ports.perms line (Tab.get false s.ports.perms line || write) } }
  if isFabric pa then grant (if s.ports.perms.any (·.1 == line) then s else s.fetchFabric line)
  else if write && s.exported pa 1 then grant s
  else s

/-- A write-back of a copy's dirty bytes at the home, at its logical time (R204): an uncorrectable word stays so unless each of its
bytes is written. -/
def State.mergeCopy (s : State) (x : Copy) (lt : Nat) : State × Nat :=
  let r := (s.permit (128 * x.line) true).writeTime lt (.line x.line)
  let t := r.1.setPhysBytes (128 * x.line) (x.merged (s.lineData x.line))
  ({ t with hbmBad := t.hbmBad.filter (!x.wholeWords.contains ·) }, r.2)

/-- Fills an SWM line from its home, as a read that takes no lease (R204); an access that hits the cluster's copy leaves the core's
logical time, for which no rule gives it one (R203). DESIGN CHOICE (log 164). -/
def State.fillSwm (s : State) (n line : Nat) : State × Copy :=
  let cl := clusterOf n
  match (s.cluster cl).copy line true with
  | some x => (s, x)
  | none =>
    let s := s.coreRead n (.line line)
    let x : Copy := { line := line, swm := true, data := s.lineData line, bad := s.lineBad line, wts := (s.home (.line line)).1, rts := 0 }
    (s.setCopy cl x, x)

/-- The copy that serves a read of core n at a line: a LEASED one whose lease has not run out, or an SWM one (R199, R203). -/
def State.served (s : State) (n line : Nat) (swm : Bool) : Option Copy :=
  match (s.cluster (clusterOf n)).copy line swm with
  | some x => if swm || decide ((s.core n).lt ≤ x.rts) then some x else none
  | none => none

/-- A LEASED read (R199): from a valid copy, or at the home with a new lease. -/
def State.leasedRead (s : State) (n pa len : Nat) : State × List Byte :=
  let cl := clusterOf n
  let line := pa / 128
  let c := s.core n
  match s.served n line false with
  | some x => (s.setCore n { c with lt := max c.lt x.wts }, copyBytes x.data (pa % 128) len)
  | none =>
    let h := s.home (.line line)
    let t := max c.lt h.1
    let r := max h.2 (t + Config.readLease)
    let s := (s.setHome (.line line) (h.1, r)).setCore n { c with lt := t }
    (s.setCopy cl { line := line, swm := false, data := s.lineData line, bad := s.lineBad line, wts := h.1, rts := r }, s.physBytes pa len)

/-- The policy under which a page's lines are accessed: a fabric line is in no L1D, and SWM behaves there as LEASED (R516). -/
def homePolicy (pa : Nat) (pol : Policy) : Policy := if isFabric pa then .uc else pol
/-- What an access gains before it is performed: a permission for its line; on a UC page of another package it is performed there, with
the line as it is there (R516). -/
def State.gain (s : State) (pa : Nat) (p : Policy) (write : Bool) : State :=
  if isFabric pa && p == .uc then s.fetchFabric (pa / 128) else s.permit pa write
/-- A write at the home of a page's line (R516). -/
def State.putHome (s : State) (pa : Nat) (p : Policy) (bs : List Byte) : State :=
  let s := s.writeHome pa bs
  if isFabric pa && p == .uc then s.report (.fabricWrite pa bs) else s

/-! ## Stores that are not ordered yet (R14, R131, R206, R249) -/

/-- A store of core n is noted as one that agents of other paths need not see before a fence (R206, R249): `was` is the write time of its home
before it, which now has its own. -/
def State.noteStore (s : State) (n was : Nat) (m : Store) (pos : Nat) (old : List Byte) : State :=
  { s with recent := { mem := m, pos := pos, old := old, time := (s.core n).lt, was := was } :: s.recent }

/-- The bytes that noted stores have replaced in a memory, as an agent whose next access is at time `t` reads them, older stores last: for
each aligned 8-byte word the agent has the value before the newest stores up to some one of them, as Config.raceNew says; `done` are the words of
which a newer store has been seen. A store of an earlier time it has always seen (R245, R247). DESIGN CHOICE (log 14). -/
def staleBytes (m : Store) (t draw : Nat) : List Recent → Nat → (Nat → Bool) → List (Nat × Byte)
  | [], _, _ => []
  | r :: rs, i, done =>
    if r.mem = m ∧ t ≤ r.time then
      let ps := (List.range r.old.length).map fun k => (r.pos + k, r.old.getD k 0)
      let seen := fun (w : Nat) => Config.raceNew (draw + i) w
      ps.filter (fun p => !done (p.1 / 8) && !seen (p.1 / 8)) ++
        staleBytes m t draw rs (i + 1) fun w => done w || (seen w && ps.any fun p => p.1 / 8 == w)
    else staleBytes m t draw rs (i + 1) done
/-- The bytes of a memory as an agent reads them at time `t`. -/
def State.staleIn (s : State) (m : Store) (t : Nat) : List (Nat × Byte) := staleBytes m t s.draws s.recent 0 fun _ => false
/-- `n` bytes of a memory from a place on, which now reads as `now`, as an agent reads them at time `t`. -/
def State.agentView (s : State) (m : Store) (t pos : Nat) (now : List Byte) : List Byte :=
  let xs := (s.staleIn m t).reverse
  (now.zipIdx).map fun b => ((xs.find? fun x => x.1 == pos + b.2).map (·.2)).getD b.1
/-- The time at which an agent has read such bytes: no later than the stores that it has not seen. -/
def State.agentTime (s : State) (m : Store) (t pos len : Nat) : Nat :=
  (s.recent.filter fun r => r.mem == m && decide (t ≤ r.time) && decide (r.pos < pos + len) && decide (pos < r.pos + r.old.length)).foldl
    (fun k r => max k r.was) t

/-- What stores have replaced in a memory is forgotten, as its contents change otherwise. -/
def State.forget (s : State) (m : Store) : State := { s with recent := s.recent.filter fun r => r.mem != m }

/-- The program of a launch writes physical memory by a core's access in user mode (R131). -/
def State.noteCode (s : State) (n pa len : Nat) (user : Bool) : State :=
  match (s.core n).task.bind (·.launch) with
  | some l =>
    if user && s.launches.any fun x => x.vdev == l.1 && x.lid == l.2 && x.code.isSome then { s with ownCode := (l, pa, len) :: s.ownCode }
    else s
  | none => s

/-- A write of core n at the home of a line, at a time of its own (R199, R516). -/
def State.storeHome (s : State) (n pa : Nat) (p : Policy) (bs : List Byte) : State :=
  let was := (s.home (.line (pa / 128))).1
  (((s.coreWrite n (.line (pa / 128))).noteStore n was .global pa (s.physBytes pa bs.length)).noteCode n pa bs.length
    (!(s.core n).regs.trap.sup)).putHome pa p bs

/-- A read of core n inside one line, under its page's policy (R199, R203, R205, R516). -/
def State.readGlobal (s0 : State) (n pa len : Nat) (p : Policy) : State × List Byte :=
  let s := s0.gain pa p false
  match homePolicy pa p with
  | .leased => s.leasedRead n pa len
  | .swm =>
    let r := s.fillSwm n (pa / 128)
    (r.1, copyBytes r.2.data (pa % 128) len)
  | .uc => (s.coreRead n (.line (pa / 128)), s.physBytes pa len)

/-- A core's write to a fenced stack is a detected error (R533), one for an instruction: its core has stopped at the first. DEDUCED
(log 124). -/
def State.lostWrite (s : State) (n pa : Nat) : State :=
  if s.stackLost pa && !(s.core n).errStop then s.postError 1 (s.core n).ptag n else s

/-- A write of core n inside one line, under its page's policy (R199, R204, R205, R516); to a fenced stack it is discarded (R533). -/
def State.writeGlobal (s0 : State) (n pa : Nat) (p : Policy) (bs : List Byte) : State :=
  let s := (s0.gain pa p true).lostWrite n pa
  if s.stackLost pa then s
  else match homePolicy pa p with
  | .swm =>
    let r := s.fillSwm n (pa / 128)
    let off := pa % 128
    (r.1.noteCode n pa bs.length (!(s.core n).regs.trap.sup)).setCopy (clusterOf n)
      { r.2 with data := patchLine r.2.data off bs,
                 dirty := r.2.dirty ||| (BitVec.ofNat 128 (2 ^ bs.length - 1) <<< off),
                 bad := (wordsCovered off bs.length).foldl (fun x i => x &&& ~~~(BitVec.ofNat 16 (2 ^ i))) r.2.bad }
  | _ => s.storeHome n pa p bs

/-- A read of these bytes at their home meets an uncorrectable word (R213). -/
def State.globalBad (s : State) (pa len : Nat) : Bool := s.stackLost pa || (wordsOf pa len).any (s.hbmBad.contains ·)
/-- A read of core n meets an uncorrectable word (R213): at the home, or in the copy that serves it, which is as the home was when it was
filled (R569). DEDUCED (log 150). -/
def State.readBad (s : State) (n pa len : Nat) (p : Policy) : Bool :=
  match homePolicy pa p with
  | .uc => s.globalBad pa len
  | q => match s.served n (pa / 128) (q == .swm) with
    | some x => (wordsOf (pa % 128) len).any (x.bad.getLsbD ·)
    | none => s.globalBad pa len
/-- The detected error of such a read (R213, R455). -/
def State.badRead (s : State) (n : Nat) (bad : Bool) : State := if bad then s.postError 1 (s.core n).ptag n else s

/-! ## Halting and exceptions -/

/-- A core's wait ends at clk T: what it wrote is in `f`, the word completes, and the next one issues from T on. -/
def State.wakeWith (s : State) (n T : Nat) (complete : Core → Core) : State :=
  let c := complete (s.core n)
  s.setCore n { c with wait := .none, access := none, tmg := { c.tmg with clk := max c.tmg.clk T } }

/-- What every halt does to a core: results in flight are written first (R144), and fetched chunks and the operand buffer are emptied
(R253, R264). -/
def Core.emptied (c : Core) : Core :=
  let d := c.drain
  { d with
    regs := { d.regs with strm := d.regs.strm.map fun p => p.map fun q => { q with chunks := [] } }
    tmg := { d.tmg with obuf := [] } }

/-- A core halts at its instruction boundary with its context: its buffers are emptied, and what it waited on is abandoned (R196, R238). -/
def Core.halt (c : Core) (m : CoreMode) : Core :=
  let d := c.emptied
  { d with mode := m, tmg := { d.tmg with loopBuf := none, inside := none } }

/-! ## Gangs and halts (R145, R150, R196, R238, R469, R470) -/

/-- The gang that a core belongs to, with its position. -/
def State.gangOf (s : State) (n : Nat) : Option (Gang × Nat) :=
  ((s.cluster (clusterOf n)).gangs.find? fun g =>
    decide (g.base ≤ indexOf n) && decide (indexOf n < g.base + g.num)).map fun g => (g, indexOf n - g.base)

/-- A follower in lock step. -/
def State.lockFollower (s : State) (n : Nat) : Bool :=
  match s.gangOf n with
  | some (g, j) => decide (j ≠ 0) && !g.split.contains j
  | none => false

/-- A core as it leaves lock step: its sequencer has captured no loop, and it owes its leader nothing. -/
def Core.alone (c : Core) : Core :=
  { c with behind := false, ahead := false, owes := none, tmg := { c.tmg with loopBuf := none } }

/-- A gang whose lock-step follower with cluster index `i`, if it has one, has left lock step. -/
def Gang.splitOff (g : Gang) (i : Nat) : Gang :=
  if g.base < i && i < g.base + g.num && !g.split.contains (i - g.base) then { g with split := (i - g.base) :: g.split } else g

/-- A lock-step follower leaves lock step as if by GSPLIT; it stays a member and owes a GJOIN (R148, R150). -/
def State.leaveLockstep (s : State) (n : Nat) : State :=
  if s.lockFollower n then
    let cl := s.cluster (clusterOf n)
    (s.setCore n (s.core n).alone).setCluster (clusterOf n) { cl with gangs := cl.gangs.map (·.splitOff (indexOf n)) }
  else s

/-- The lock-step followers of a gang's leader, with their positions. -/
def State.followers (s : State) (n : Nat) : List (Nat × Nat) :=
  match s.gangOf n with
  | some (g, 0) => ((List.range g.num).filter fun j => decide (j ≠ 0) && !g.split.contains j).map fun j => (n + j, j)
  | _ => []

/-- The cores that issue in lock step with a core, its leader first; the core alone where it is in no gang's lock step. -/
def State.lockGroup (s : State) (n : Nat) : List Nat :=
  match s.gangOf n with
  | some (g, j) =>
    if j ≠ 0 && g.split.contains j then [n]
    else let lead := n - j
      lead :: ((s.followers lead).map (·.1))
  | none => [n]

/-- A core leaves the queue of the line or mutex it sleeps at (R238). DEDUCED (log 102). -/
def State.leaveQueues (s : State) (n : Nat) : State :=
  let cl := s.cluster (clusterOf n)
  match (s.core n).wait with
  | .line e =>
    let l := Tab.get {} cl.lines e.val
    s.setCluster (clusterOf n) { cl with lines := Tab.set cl.lines e.val { l with waiters := l.waiters.filter (· != n) } }
  | .mutex m =>
    let l := Tab.get {} cl.mtx m.val
    s.setCluster (clusterOf n) { cl with mtx := Tab.set cl.mtx m.val { l with waiters := l.waiters.filter (· != n) } }
  | _ => s

/-- A wait that a halt abandons: its instruction is issued again on resume (R196, R238, R392, R395). -/
def Wait.abandoned : Wait → Bool
  | .line _ | .mutex _ | .slot .. | .walk _ | .parked _ => true
  | _ => false
/-- A wait of a word that a leader has already passed on to its gang. -/
def Wait.fanned : Wait → Bool
  | .none | .walk _ | .parked _ => false
  | _ => true

/-- Core n halts: it leaves the queues and the park list, and the wait that a halt abandons ends. -/
def State.haltCore (s : State) (n : Nat) (m : CoreMode) : State :=
  let s := s.leaveQueues n
  let d := s.die (dieOf n)
  let s := s.setDie (dieOf n) { d with parks := d.parks.filter (· != .core n) }
  let c := (s.core n).halt m
  s.setCore n { c with wait := if c.wait.abandoned then .none else c.wait, access := if c.wait.abandoned then none else c.access,
                       yieldReq := false, haltBy := none }

/-- A leader's word that it has passed on to its gang is still in progress: it waits on it, or inside its effect. -/
def Core.passedOn (c : Core) : Bool := c.wait.fanned || c.tmg.inside.isSome

/-- A core and its lock-step gang halt (R150): a follower that has completed the word which its leader will issue again is
ahead of it, and one whose own word is abandoned after its leader's was completed is behind it. -/
def State.haltGroup (s : State) (n : Nat) (m : CoreMode) : State :=
  let g := s.lockGroup n
  let lead := s.core (g.headD n)
  let again := (lead.wait.fanned && lead.wait.abandoned) || lead.tmg.inside.isSome
  let s := g.tail.foldl (fun (s : State) f =>
    let c := s.core f
    s.setCore f (if again then { c with ahead := c.wait == .none && !c.behind, behind := false }
      else { c with behind := c.behind || c.wait.abandoned })) s
  g.foldl (fun (s : State) k => s.haltCore k m) s

/-- Every lock-step member of a core's gang has completed the same words (R150). -/
def State.inStep (s : State) (n : Nat) : Bool :=
  let g := s.lockGroup n
  if (s.core (g.headD n)).passedOn then g.tail.all fun f => (s.core f).wait != .none || (s.core f).behind
  else g.tail.all fun f => (s.core f).wait == .none && !(s.core f).behind

/-- A wait at which a yield request halts a core (R469). -/
def Wait.yieldPoint : Wait → Bool
  | .line _ | .mutex _ | .slot .. | .parked _ => true
  | .barrier _ _ _ k => k != .barss
  | _ => false

/-- A core that a yield request may halt: outside handlers (R469), and outside communication phases (R406). DEDUCED (log 104). -/
def Core.mayYield (c : Core) : Bool := c.yieldReq && !c.regs.trap.exl && c.regs.trap.phase != 2

/-- A pending yield request acts where it may (R469): an idle core halts at once, a waiting one at a point of R469 where its
whole gang may stop. -/
def State.tryYield (s : State) (n : Nat) : State :=
  let c := s.core n
  let g := s.lockGroup n
  if !c.yieldReq then s
  else if c.mode = .idle then s.haltCore n .yielded
  else if c.mode ≠ .running then s.setCore n { c with yieldReq := false }
  else if (s.core (g.headD n)).mayYield && s.inStep n && (g.any fun k => (s.core k).wait.yieldPoint) &&
      (g.all fun k => (s.core k).wait == .none || (s.core k).wait.yieldPoint) then s.haltGroup n .yielded
  else s

/-- A yield request is pending for a core, and for the gang it is in lock step with. DEDUCED (log 105). -/
def State.askYield (s : State) (n : Nat) : State :=
  (s.lockGroup n).foldl (fun (s : State) k => s.setCore k { s.core k with yieldReq := true }) s

/-- The cores that share a core's partition: all of the same live tag; an OS server core stands alone (R197). -/
def State.partitionOf (s : State) (n : Nat) : List Nat :=
  match (s.core n).ctag with
  | none => [n]
  | some p => (n :: (s.cores.filter fun e => e.2.ctag == some p && e.1 != n).map (·.1))

/-- The contexts of a partition that are out stay halted as well, so that a later load runs none of their cores (R197). -/
def State.haltAway (s : State) (p : PTag) : State :=
  s.mapOut fun _ x => if x.ptag = p then
    { x with cores := x.cores.map fun (e : Nat × Nat × Core) => (e.1, e.2.1, { e.2.2 with mode := .faulted }) } else x
/-- Cores halt by force for a fault-on-fault, and with them the contexts of their partitions that are out (R197). -/
def State.haltFaulted (s : State) (ns : List Nat) : State :=
  let s1 := ns.foldl (fun (s : State) m => s.haltGroup m .faulted) s
  ((ns.filterMap fun n => (s.core n).ctag).eraseDups).foldl (fun (s : State) p => s.haltAway p) s1

/-- Fault-on-fault (R197): every core of the partition halts by force, and cause DOUBLE goes to the service processors
with the faulting address. DEDUCED (log 109). -/
def State.faultOnFault (s : State) (n : Nat) (addr : Nat) : State := (s.haltFaulted (s.partitionOf n)).report (.double n addr)

/-- The translation a core uses for an address of the hardware's own supervisor accesses, with no wait. -/
def State.translate (s : State) (n : Nat) (va : Nat) : WalkResult :=
  let c := s.core n
  match tlbFind (s.cluster (clusterOf n)).l1tlb c.vsid va with
  | some e => .page e.level e.leaf
  | none => match tlbFind (s.die (dieOf n)).l2tlb c.vsid va with
    | some e => .page e.level e.leaf
    | none => s.walk c.root va

/-- A pinned supervisor store of the hardware (R197, R459): the physical address and the page's policy, or none where it is a
fault-on-fault. -/
def State.pinned (s : State) (n : Nat) (va : Nat) : Option (Nat × Policy) :=
  if !(s.core n).xlate then none
  else match s.translate n va with
    | .page level leaf =>
      if leaf.getLsbD 5 && leaf.getLsbD 3 && physOk (leafPa level leaf va) then some (leafPa level leaf va, leafPolicy leaf) else none
    | .fault _ _ => none

/-- The bytes of the trap record, as entry sets them (R459). -/
def State.trapRecord (s : State) (n : Nat) (cycle : Word) : List Byte :=
  let c := s.core n
  let t := c.regs.trap
  toBytes 8 t.xpc ++ toBytes 8 (t.xcause.setWidth 64) ++ toBytes 8 t.xval ++ toBytes 8 (t.xprog.setWidth 64) ++
    toBytes 8 c.xstat ++ toBytes 8 (BitVec.ofNat 64 (s.lcn n)) ++ toBytes 8 cycle ++ toBytes 8 0#64

/-- CYCLE as RDSYS reads it (R454): clk since bring-up, plus what instructions of variable latency added, plus the offset of
the core's virtual device (R479). -/
def State.cycleOf (s : State) (n : Nat) (c : Core) : Word :=
  BitVec.ofNat 64 c.tmg.clk + (if c.tmg.slips = 0 then 0 else Config.cycleSlip c.tmg.slips) +
    ((s.vdOf n).map fun v => (s.vd v).cofs).getD 0

/-- The leader's traps from which it has not returned change (R150). -/
def State.onDepth (s : State) (n : Nat) (f : Nat → Nat) : State :=
  let cl := s.cluster (clusterOf n)
  s.setCluster (clusterOf n) { cl with gangs := cl.gangs.map fun g => if g.base = indexOf n then { g with depth := f g.depth } else g }

/-- Taking an exception on core n at the word at its pc (R458): results in flight are written; the address, cause, value
and progress are saved, then privilege and timing mode; the core enters supervisor and CHECKED mode with EXL set; the
record at XREC is written under its page's policy; and the pc becomes XVEC. With EXL set already, or a record that cannot be written, it is a
fault-on-fault (R197). DESIGN CHOICE (log 181). -/
def State.takeTrap (s : State) (n : Nat) (cause : Cause) (val : Word) (prog : BitVec 3) : State :=
  let c := (s.core n).drain
  let s := ((s.setCore n c).leaveLockstep n).onDepth n (· + 1)
  if c.regs.trap.exl then s.faultOnFault n c.regs.pc.toNat
  else
    let a := c.regs.pc
    let c1 := c.setTrap fun t =>
      { t with xpc := if cause = .syscall then a + 12 else a, xcause := cause.code, xval := val, xprog := prog,
               ps := t.sup, pt := t.tim, sup := true, tim := false, exl := true }
    let c2 := { c1 with wait := .none, access := none, behind := false, ahead := false, owes := none,
                        tmg := { c1.tmg with clk := c1.tmg.clk + 1, obuf := [], loopBuf := none, inside := none } }
    let s1 := s.setCore n c2
    let rec1 := (c.regs.trap.xrec.setWidth 64 <<< 7).toNat
    match s1.pinned n rec1 with
    | none => s1.faultOnFault n rec1
    | some (pa, pol) =>
      let s2 := s1.writeGlobal n pa pol (s1.trapRecord n (s1.cycleOf n c2))
      s2.setCore n ((s2.core n).setPc (c.regs.trap.xvec.setWidth 64 <<< 2))

/-- Returning from an exception on core n (R461): privilege and timing mode are restored, EXL is cleared, the pc becomes
XPC, XPROG stays, and the operand and loop buffers are emptied. -/
def Core.returnTrap (c : Core) : Core :=
  let d := c.setTrap fun t => { t with sup := t.ps, tim := t.pt, exl := false }
  { d with regs := { d.regs with pc := d.regs.trap.xpc }, tmg := { d.tmg with obuf := [], loopBuf := none } }

end Sys2Proof.Machine
end

