-- ==== Sys2Proof/Machine/Timing.lean ====
section
/-! DEFINITION. How a word issues and completes: the guard (R23, R24), interlocks and structural stalls (R15, R27, R28,
R104, R252 to R254, R294), the next address with the hardware loops (R129, R130, R137), and what may end a word. -/
namespace Sys2Proof.Machine
open Sys2Proof

/-- The unit that a form needs at issue (R104, R254, R294). -/
inductive IssueUnit where
  | none | div | fp | net
  deriving DecidableEq, Repr

/-- Which results in flight a form waits for before it issues: none of its own, every fixed-latency result (R142), or
every result (R454). -/
inductive Waits where
  | none | fixed | all
  deriving DecidableEq, Repr

/-- What a form reads and writes, by operand number, for its interlocks; the vector registers it reads from the banks, with those
that it reads only where the core as it issues the word makes it (R92, R98, R179); the unit it needs; and the results in flight it
waits for. -/
structure Uses where
  srcs : List (BitVec 7) := []
  dsts : List (BitVec 7) := []
  unit : IssueUnit := .none
  empty : Waits := .none
  also : Core → List (BitVec 7) := fun _ => []

/-- The registers whose writes are discarded name no dependence (R11). -/
def hardwired (x : BitVec 7) : Bool := x == opG 0 || x == opP 0 || x == opK 0

/-- The guard predicate (R23). -/
def guardReg (h : Hdr) : PReg := fin8 (h.grd.extractLsb' 0 3)
/-- A register that a form names waits for an answer on its way (R15, R391). -/
def Core.awaits (c : Core) (u : Uses) : Bool :=
  c.tmg.owed.any fun x => u.empty == .all || u.srcs.contains x || u.dsts.contains x
/-- The guard as the core reads it (R23). -/
def Core.guard (c : Core) (h : Hdr) : Bool := c.rdP (guardReg h) != h.grd.getLsbD 3

/-- The clk from which every pending write of the named registers that holds issue is visible: in CHECKED mode all of
them, in TIMED mode the interlocked ones (R15, R143). -/
def Core.readyClk (c : Core) (xs : List (BitVec 7)) : Nat :=
  c.tmg.flights.foldl (fun m f =>
    if (f.locked || !c.regs.trap.tim) && xs.contains f.wr.num && !hardwired f.wr.num then max m f.land else m) c.tmg.clk

/-- The clk at which the results a form waits for are visible. -/
def Core.emptyClk (c : Core) (w : Waits) : Nat :=
  c.tmg.flights.foldl (fun m f => if w = .all || (w = .fixed && !f.locked) then max m f.land else m) c.tmg.clk

/-- A vector register is bound to a stream (R258). -/
def Core.bound (c : Core) (r : VReg) : Option (Fin 4 × StreamPort) :=
  (List.finRange 4).findSome? fun i => match c.regs.strm[i] with
    | some p => if p.reg = r then some (i, p) else none
    | none => none

/-- The vector registers among operand numbers, each once. -/
def vregsOf (xs : List (BitVec 7)) : List VReg := ((xs.filter isV).map vOf).eraseDups

/-- How many clk the register-file banks delay an instruction that reads these registers (R252). -/
def Core.bankDelay (c : Core) (xs : List (BitVec 7)) : Nat :=
  let reads := (vregsOf xs).filter fun r => (c.bound r).isNone && !(c.tmg.obuf.any fun e => e.1 = r)
  (((List.range 6).map fun b => (reads.filter fun r => r.val % 6 == b).length).foldl max 0) - 1

/-- The clk until which a unit is busy. -/
def Core.unitClk (c : Core) : IssueUnit → Nat
  | .none => 0
  | .div => c.tmg.divBusy
  | .fp => c.tmg.fpBusy
  | .net => c.tmg.netBusy

/-- The first clk at which the guard can be read (R24). -/
def Core.guardClk (c : Core) (h : Hdr) : Nat := c.readyClk [opP (guardReg h)]

/-- The clk at which nothing but the register banks delays a word whose guard is true (R27). -/
def Core.unitsClk (c : Core) (h : Hdr) (u : Uses) (xs : List (BitVec 7)) : Nat :=
  max (max (c.readyClk (opP (guardReg h) :: xs ++ u.dsts)) (c.unitClk u.unit)) (c.emptyClk u.empty)

/-- The registers that a word reads as the core issues it. -/
def Core.reads (c : Core) (h : Hdr) (u : Uses) : List (BitVec 7) := u.srcs ++ u.also (c.settle (c.unitsClk h u u.srcs))

/-- The issue clk of a word whose guard is true, that of its last bank read (R27, R252): a write that lands before a read takes the
buffer entry away that would have spared its bank (R253), so the delay is taken again with what is visible after it; three reads
make a delay of at most two. -/
def Core.issueClk (c : Core) (h : Hdr) (u : Uses) : Nat :=
  let xs := c.reads h u
  let t := c.unitsClk h u xs
  let late := fun (d : Nat) => (c.settle (t + d)).bankDelay xs
  t + late (late (late 0))

/-- The clk at which a word reads its guard false, if it does (R24, R27): the guard is read at issue, so in TIMED mode a result that
lands on the predicate while the word is held can still make it false. DEDUCED (log 9). -/
def Core.falseAt (c : Core) (h : Hdr) (u : Uses) : Option Nat :=
  let t := c.guardClk h
  if !(c.settle t).guard h then some t
  else
    let hi := c.issueClk h u
    (((c.tmg.flights.filter fun f => f.wr.num == opP (guardReg h) && decide (t < f.land) && decide (f.land ≤ hi)).map
      (·.land)).filter fun n => !(c.settle n).guard h).min?

/-- The operand buffer one word later: each entry serves one word less (R253). -/
def Core.ageOperands (c : Core) : Core :=
  c.setTmg fun m => { m with
    obuf := (m.obuf.filter fun (e : VReg × Nat) => decide (1 < e.2)).map fun (e : VReg × Nat) => (e.1, e.2 - 1) }

/-- The operand buffer after a word that reads `xs`: older entries serve one word less, and the held sources enter it (R29, R253);
HOLD_D acts where DST is read beside SA and SB. Of more than three the oldest leave, as no rule says which. DESIGN CHOICE (log 158).
DESIGN CHOICE (log 179). -/
def Core.holdOperands (c : Core) (h : Hdr) (d sa sb : BitVec 7) (xs : List (BitVec 7)) : Core :=
  let enter := fun (on : Bool) (x : BitVec 7) => if on && isV x && (c.bound (vOf x)).isNone then [(vOf x, 2)] else []
  let dRead := decide ((sa == d).toNat + (sb == d).toNat < xs.count d)
  c.ageOperands.setTmg fun m => { m with
    obuf := (enter (h.holdA && xs.contains sa) sa ++ enter (h.holdB && xs.contains sb) sb ++ enter (h.holdD && dRead) d ++
      m.obuf).take 3 }

/-! ## The next address -/

/-- The begin address of a loop level (R138). -/
def LoopLvl.begin (l : LoopLvl) : Word := l.beg.setWidth 64 <<< 2
/-- The address of the last word of a loop level's body (R137). -/
def LoopLvl.last (l : LoopLvl) : Word := l.begin + 12 * l.len1.setWidth 64

/-- One level that the loop of R137 visits for a body word at `a`: the level after it, and the address it loops back to, if it does;
the outer answer is none where the word is not the level's last. A count of 0 wraps and so loops back (R137, R138).
DEDUCED (log 159). -/
def LoopLvl.after (l : LoopLvl) (a : Word) : Option (LoopLvl × Option Word) :=
  if a != l.last then none
  else if l.count - 1 != 0 then some ({ l with count := l.count - 1 }, some l.begin)
  else some ({ l with count := l.count - 1, v := false }, none)

/-- The next address after a completed word at `a` (R137): the loop levels from the innermost active one down, and whether the
sequencer loops back. Behind level 1 the sequencer visits level 0 without asking whether it is active. -/
def loopNext (ls : Vector LoopLvl 2) (a : Word) : Word × Vector LoopLvl 2 × Bool :=
  let outer := fun (ls : Vector LoopLvl 2) =>
    match ls[0].after a with
    | some (l, some b) => (b, ls.set 0 l, true)
    | some (l, none) => (a + 12, ls.set 0 l, false)
    | none => (a + 12, ls, false)
  if ls[1].v then
    match ls[1].after a with
    | some (l, some b) => (b, ls.set 1 l, true)
    | some (l, none) => outer (ls.set 1 l)
    | none => (a + 12, ls, false)
  else if ls[0].v then outer ls
  else (a + 12, ls, false)

/-- Pops the innermost active level, if there is one (R135). -/
def popLoop (ls : Vector LoopLvl 2) : Vector LoopLvl 2 :=
  if ls[1].v then ls.set 1 { ls[1] with v := false, count := 0 }
  else if ls[0].v then ls.set 0 { ls[0] with v := false, count := 0 }
  else ls

/-! ## The loop buffer (R130). DEDUCED (log 47). -/

/-- The outermost active loop level. -/
def outermost (ls : Vector LoopLvl 2) : Option (Fin 2) := if ls[0].v then some 0 else if ls[1].v then some 1 else none

/-- Sets the loop levels; a capture begins where the outermost active level becomes active. -/
def Core.setLoops (c : Core) (ls : Vector LoopLvl 2) : Core :=
  let old := c.regs.loops
  let buf : Option LoopBuf := match outermost ls with
    | none => none
    | some l =>
      if !old[l].v || old[l].beg != ls[l].beg || old[l].len1 != ls[l].len1 then
        some { lvl := l, beg := ls[l].begin, len1 := ls[l].len1 }
      else c.tmg.loopBuf
  { c with regs := { c.regs with loops := ls }, tmg := { c.tmg with loopBuf := buf } }

/-- The buffer holds the word at an address and its first pass has ended. -/
def LoopBuf.serves (b : LoopBuf) (a : Word) : Bool := b.full && b.words.any fun x => x.1 == a
/-- An address whose word issues from the loop buffer (R130). -/
def inLoopBuf (buf : Option LoopBuf) (a : Word) : Bool := buf.any (·.serves a)

/-- The word that the buffer holds for an address. -/
def LoopBuf.word (b : LoopBuf) (a : Word) : Option (BitVec 96) :=
  if b.full then (b.words.find? fun x => x.1 == a).map (·.2) else none

/-- A word of the body that issues on the first pass enters the buffer. -/
def LoopBuf.capture (b : LoopBuf) (a : Word) (w : BitVec 96) : LoopBuf :=
  if !b.full && b.beg.ule a && a.ule (b.beg + 12 * b.len1.setWidth 64) && !b.words.any (fun x => x.1 == a) then
    { b with words := b.words ++ [(a, w)] }
  else b

/-- The buffer after a word at `a`: one from outside it has emptied the fetch buffer of the words behind the body; the first pass ends
as the captured level loops back. -/
def LoopBuf.next (b : LoopBuf) (a : Word) (back : Bool) : LoopBuf :=
  { b with full := b.full || back, ahead := b.ahead && (!b.full || b.serves a) }

/-- The captured level loops back from the levels `old` to the levels `new`. -/
def LoopBuf.loopsBack (b : LoopBuf) (old new : Vector LoopLvl 2) : Bool :=
  new[b.lvl].v && old[b.lvl].count != new[b.lvl].count

/-- A last word of the last iteration that issues from the buffer, with the words behind the body no longer fetched ahead. -/
def LoopBuf.leaves (b : LoopBuf) (a : Word) (new : Vector LoopLvl 2) : Bool := b.serves a && !new[b.lvl].v && !b.ahead

/-! ## The end of a word -/

/-- How a word may end: completed; completed with another word in sequence; completed as a taken transfer, popping a loop level if it
says so; a trap, with the state it leaves; held at issue for a clk; waiting inside its effect for a clk; waiting so at a point where a
yield request halts the core (R469); asleep in a wait; or stopped. -/
inductive Eff where
  | done (s : State)
  | doneAt (s : State) (next : Word)
  | jump (s : State) (target : Word) (lx : Bool)
  | trap (s : State) (c : Cause) (x : Word) (m : BitVec 3)
  | stall (s : State)
  | within (s : State)
  | point (s : State)
  | sleep (s : State)
  | fault (f : Fault)

/-- While EXL = 0 the completion of a word sets XPROG to zero (R40). -/
def Core.clearProg (c : Core) : Core := c.setTrap fun t => if t.exl then t else { t with xprog := 0 }

/-- A word issued at `t` completes without a transfer: the next address (R137), and the earliest next issue (R27, R129, R130). -/
def Core.complete (c : Core) (t stall : Nat) : Core :=
  let a := c.regs.pc
  let r := loopNext c.regs.loops a
  let buf := c.tmg.loopBuf.map fun b => b.next a (b.loopsBack c.regs.loops r.2.1)
  let slow := if r.2.2 then !inLoopBuf buf r.1 else buf.any fun b => b.leaves a r.2.1
  let c := c.clearProg
  { c with
    regs := { c.regs with pc := r.1, loops := r.2.1 }
    tmg := { c.tmg with
                     clk := max c.tmg.clk (max (if slow then t + 3 else t + 1) (t + 1 + stall)), words := c.tmg.words + 1, taken := false, inside := none,
                     loopBuf := buf.filter fun b => r.2.1[b.lvl].v } }

/-- A taken transfer issued at `t` (R129, R135). -/
def Core.transfer (c : Core) (t stall : Nat) (target : Word) (lx : Bool) : Core :=
  let buf := c.tmg.loopBuf.map fun b => b.next c.regs.pc false
  let ls := if lx then popLoop c.regs.loops else c.regs.loops
  let hop := if inLoopBuf buf target then t + 1 else t + 3
  let c := c.clearProg
  { c with
    regs := { c.regs with pc := target, loops := ls }
    tmg := { c.tmg with
                     clk := max c.tmg.clk (max hop (t + 1 + stall)), words := c.tmg.words + 1, taken := true, inside := none,
                     loopBuf := buf.filter fun b => ls[b.lvl].v } }

/-- A word that is held at issue has not issued: the operand buffer stays as it was before it, `old`, for its next attempt (R253). -/
def Eff.unaged (old : List (VReg × Nat)) : Eff → Eff
  | .stall s => .stall (s.setCc (s.cc.setTmg fun m => { m with obuf := old }))
  | .within s => .within (s.setCc (s.cc.setTmg fun m => { m with obuf := old }))
  | .point s => .point (s.setCc (s.cc.setTmg fun m => { m with obuf := old }))
  | e => e

/-- A word waits a clk inside its effect: it has issued, at the logical time that is noted. -/
def Core.waitInside (c : Core) (t : Nat) : Core := c.setTmg fun m => { m with
  clk := t + 1, inside := some (m.inside.getD c.lt), began := if m.inside.isSome then m.began else t }
/-- The clk at which the word of a core issued, which may wait inside its effect since. -/
def Core.issuedAt (c : Core) : Nat := if c.tmg.inside.isSome then c.tmg.began else c.tmg.clk

/-- How the word issued at `t` by the current core ends. -/
def finish (h : Hdr) (t : Nat) : Eff → Host.Outcome State Fault Refusal
  | .done s => .next (s.setCc (s.cc.complete t h.stall.toNat))
  | .doneAt s a =>
    let c := s.cc.complete t h.stall.toNat
    .next (s.setCc (if c.regs.pc = s.cc.regs.pc + 12 then c.setPc a else c))
  | .jump s a lx => .next (s.setCc (s.cc.transfer t h.stall.toNat a lx))
  | .trap s c x m => .next (s.takeTrap s.cur c x m)
  | .stall s => .next (s.setCc (s.cc.setTmg fun m => { m with clk := t + 1 }))
  | .within s => .next (s.setCc (s.cc.waitInside t))
  | .point s =>
    if s.cc.mayYield && s.inStep s.cur then .next (s.haltGroup s.cur .yielded)
    else .next (s.setCc (s.cc.waitInside t))
  | .sleep s =>
    let s := s.setCc { s.cc.setTmg (fun m => { m with inside := none }) with waitStall := h.stall.toNat }
    .next (if s.cc.yieldReq then s.owe (.yieldRequest s.cur) else s)
  | .fault f => .fault f

/-- A decode-time trap of the current core (R37): checks 12 and 13 stand before the guard. -/
def decodeTrap (s : State) (c : Cause) (x : Word) : Host.Outcome State Fault Refusal := .next (s.takeTrap s.cur c x 0)

/-- The core about to perform a word at its issue clk `t`: what is visible is written, its clk is `t`, and its stall hint is kept for
a wait of the word. -/
def Core.atIssue (c : Core) (h : Hdr) (d sa sb : BitVec 7) (u : Uses) : Core :=
  let t := c.issueClk h u
  { ((c.settle t).holdOperands h d sa sb (c.reads h u)).setTmg fun m => { m with clk := t, issued := t } with
    waitStall := h.stall.toNat }

/-- A word whose guard is false only takes its issue clk `t` (R24). -/
def Core.skip (c : Core) (t stall : Nat) : Core :=
  ((c.settle t).ageOperands.setTmg fun m => { m with clk := t, issued := t }).complete t stall

/-- A word that waits for an answer on its way tries again a clk later (R391). -/
def Core.retry (c : Core) (t : Nat) : Core := (c.settle t).setTmg fun m => { m with clk := t + 1, issued := t }

/-- A word that waits inside its effect goes on: its guard and its operands stay as they were read at its issue (R24). -/
def Core.goOn (c : Core) (h : Hdr) : Core :=
  { c.ageOperands.setTmg (fun m => { m with issued := m.clk }) with waitStall := h.stall.toNat }

/-- Issues a word of the current core (R23, R24, R27): with a false guard it only takes its clk; with a true one its
effect is performed at the issue clk. `d`, `sa` and `sb` are its operand numbers, for the operand buffer. -/
def issueWord (h : Hdr) (d sa sb : BitVec 7) (u : Uses) (eff : State → Eff) (s : State) :
    Host.Outcome State Fault Refusal :=
  let c := s.cc
  let tg := c.guardClk h
  if c.tmg.inside.isSome then finish h c.tmg.clk ((eff (s.setCc (c.goOn h))).unaged c.tmg.obuf)
  else match c.falseAt h u with
  | some t => .next (s.setCc (c.skip t h.stall.toNat))
  | none =>
    if (c.settle tg).awaits u then .next (s.setCc (c.retry tg))
    else
    let c1 := c.atIssue h d sa sb u
    finish h c1.tmg.clk ((eff (s.setCc c1)).unaged (c.settle c1.tmg.clk).tmg.obuf)

/-- What a word does that concerns its own core alone: a new core, or a trap. -/
inductive CoreEff where
  | ok (c : Core)
  | trap (c : Cause) (x : Word)

/-- A word whose effect lies in its own core; a trap leaves the core as it was at issue. -/
def issueCore (h : Hdr) (d sa sb : BitVec 7) (u : Uses) (eff : Core → CoreEff) (s : State) :
    Host.Outcome State Fault Refusal :=
  issueWord h d sa sb u (fun s => match eff s.cc with
    | .ok c => .done (s.setCc c)
    | .trap k x => .trap s k x 0) s

end Sys2Proof.Machine
end

