-- ==== Sys2Proof/Machine/Operands.lean ====
section
/-! DEFINITION. The operand forms of the scalar classes: 64-bit and `.w` operands (R110), immediates (R36), the scalar
form with a general, predicate or mask destination, and the divider's form (R103, R104). -/
namespace Sys2Proof.Machine
open Sys2Proof

/-- A signed immediate (R36). -/
def sextImm (x : BitVec 32) : Word := x.signExtend 64
/-- A natural immediate (R36). -/
def zextImm (x : BitVec 32) : Word := x.setWidth 64
/-- The low 32 bits as a `.w` form reads a source (R110). -/
def lowW (x : Word) : BitVec 32 := x.setWidth 32
/-- A 32-bit result as a `.w` form writes it: sign-extended (R110). -/
def fromW (x : BitVec 32) : Word := x.signExtend 64

/-- An operation of one source at the form's width (R110). -/
def wide1 (w : Bool) (f : {n : Nat} → BitVec n → BitVec n) (a : Word) : Word :=
  if w then fromW (f (lowW a)) else f a
/-- An operation of two sources at the form's width (R110). -/
def wide2 (w : Bool) (f : {n : Nat} → BitVec n → BitVec n → BitVec n) (a b : Word) : Word :=
  if w then fromW (f (lowW a) (lowW b)) else f a b

/-- A scalar form: sources by operand number, a destination, a fixed latency (R103), and the write it makes. -/
def scalarForm (h : Hdr) (srcs : List (BitVec 7)) (lat : Nat) (dst : BitVec 7) (val : Core → Wr) (s : State) :
    Host.Outcome State Fault Refusal :=
  issueCore h 0 0 0 { srcs := srcs, dsts := [dst] } (fun c => .ok (c.result c.tmg.clk lat (val c))) s

/-- A scalar form with a general destination. -/
def gForm (h : Hdr) (d : GReg) (srcs : List GReg) (lat : Nat) (val : Core → Word) (s : State) :
    Host.Outcome State Fault Refusal :=
  scalarForm h (srcs.map opG) lat (opG d) (fun c => .g d (val c)) s

/-- A scalar form with a predicate destination. -/
def pForm (h : Hdr) (d : PReg) (srcs : List (BitVec 7)) (lat : Nat) (val : Core → Bool) (s : State) :
    Host.Outcome State Fault Refusal :=
  scalarForm h srcs lat (opP d) (fun c => .p d (val c)) s

/-- A divider form (R104): it takes the divider for its latency, and its destination is interlocked in both modes. -/
def divForm (h : Hdr) (d : GReg) (srcs : List GReg) (lat : Core → Nat) (eff : Core → Core × Word) (s : State) :
    Host.Outcome State Fault Refusal :=
  issueCore h 0 0 0 { srcs := srcs.map opG, dsts := [opG d], unit := .div } (fun c =>
    let t := c.tmg.clk
    let r := eff c
    .ok ((r.1.lockedResult t (lat c) (.g d r.2)).setTmg fun m => { m with divBusy := t + lat c })) s

/-- The count of a shift (R112). -/
def shiftAmount (w : Bool) (src : ShSrc) (c : Core) : Nat :=
  let k := match src with
    | .reg b => (c.rdG b).toNat
    | .imm n => n.toNat
  if w then k % 32 else k % 64
/-- The sources a shift reads. -/
def shiftSrcs (a : GReg) : ShSrc → List GReg
  | .reg b => [a, b]
  | .imm _ => [a]

end Sys2Proof.Machine
end

