-- ==== Sys2Proof/Machine/Flags.lean ====
section
/-! DEFINITION. Number formats (R62 to R72), exact values, rounding with its flags (R81 to R87), and exact arithmetic on
values (R122, R123). -/
namespace Sys2Proof.Machine
open Sys2Proof

/-! ## Flags (R87) -/

def flagNX : BitVec 5 := 1#5
def flagUF : BitVec 5 := 2#5
def flagOF : BitVec 5 := 4#5
def flagDZ : BitVec 5 := 8#5
def flagNV : BitVec 5 := 16#5

/-- Sets sticky flags (R87). -/
def FpRegs.raise (f : FpRegs) (x : BitVec 5) : FpRegs := { f with fflags := f.fflags ||| x }

/-! ## Formats -/

/-- The kinds of a format: IEEE, narrow (R67, R68), and integer. -/
inductive FmtKind where
  | ieee | narrow | int
  deriving DecidableEq, Repr

/-- A number format: its code (R74), width, precision with the implicit bit, the exponent of its smallest normal, whether
it has negative values, and whether it has infinities. -/
structure Fmt where
  code : Nat
  kind : FmtKind
  width : Nat
  prec : Nat := 0
  emin : Int := 0
  signed : Bool := true
  hasInf : Bool := false
  deriving DecidableEq, Repr

def fp64 : Fmt := { code := 1, kind := .ieee, width := 64, prec := 53, emin := -1022, hasInf := true }
def fp32 : Fmt := { code := 2, kind := .ieee, width := 32, prec := 24, emin := -126, hasInf := true }
def fp16 : Fmt := { code := 3, kind := .ieee, width := 16, prec := 11, emin := -14, hasInf := true }
def bf16 : Fmt := { code := 4, kind := .ieee, width := 16, prec := 8, emin := -126, hasInf := true }
def intFmt (code width : Nat) (signed : Bool) : Fmt := { code := code, kind := .int, width := width, signed := signed }

/-- The narrow format of a width, precision and variant (R67, R68). -/
def narrowFmt (code width prec : Nat) (ext unsigned : Bool) : Fmt :=
  let w := if unsigned then width - prec + 1 else width - prec
  { code := code, kind := .narrow, width := width, prec := prec, emin := 1 - (2 : Int) ^ (w - 1),
    signed := !unsigned, hasInf := ext }

/-- The format of a tag (R73, R74). RAW, CF32, S10 and M64 are read as unsigned words of their element width. -/
def fmtOf (t : Tag) : Fmt :=
  let c := (t.extractLsb' 0 6).toNat
  if c = 1 then fp64 else if c = 2 then fp32 else if c = 3 then fp16 else if c = 4 then bf16
  else if 8 ≤ c ∧ c ≤ 0xB then intFmt c (8 <<< (c - 8)) true
  else if 0xC ≤ c ∧ c ≤ 0xF then intFmt c (8 <<< (c - 0xC)) false
  else if c = 0x11 then intFmt c 4 true
  else if 0x21 ≤ c ∧ c ≤ 0x27 then narrowFmt c 8 (c - 0x20) (t.getLsbD 6) (t.getLsbD 7)
  else if 0x29 ≤ c ∧ c ≤ 0x2B then narrowFmt c 4 (c - 0x28) (t.getLsbD 6) false
  else intFmt c (if c = 6 then 16 else 64) false

/-- The element width of a tag (R74). -/
def tagWidth (t : Tag) : Nat := (fmtOf t).width

/-- The tag POISON (R79). -/
def poisonTag : Tag := 0x3F#8
/-- Every tag with the code of POISON is POISON (R79). -/
def isPoison (t : Tag) : Bool := t.extractLsb' 0 6 == 0x3F#6

/-- A tag that R73 and R74 allow: its code is assigned and its qualifier fits it. -/
def tagValid (t : Tag) : Bool := inSetT t || t.extractLsb' 0 6 == 0x10#6

/-- A tag as a restore or an image load takes it: anything invalid is POISON (R80). -/
def tagOrPoison (t : Tag) : Tag := if tagValid t then t else poisonTag

/-- The trailing significand bits of a floating format. -/
def Fmt.frac (f : Fmt) : Nat := f.prec - 1
/-- The bits of the magnitude. -/
def Fmt.magBits (f : Fmt) : Nat := if f.signed then f.width - 1 else f.width
/-- The magnitude code of the largest finite value (R62, R70). -/
def Fmt.maxCode (f : Fmt) : Nat :=
  match f.kind with
  | .ieee => 2 ^ f.magBits - 2 ^ f.frac - 1
  | .narrow => 2 ^ f.magBits - 1 - (if f.signed then 0 else 1) - (if f.hasInf then 1 else 0)
  | .int => if f.signed then 2 ^ (f.width - 1) - 1 else 2 ^ f.width - 1
/-- The pattern of the sign. -/
def Fmt.signBit (f : Fmt) (neg : Bool) : Nat := if neg && f.signed then 2 ^ (f.width - 1) else 0
/-- The NaN of a format (R63, R67, R68); zero for integers. -/
def Fmt.nan (f : Fmt) : Nat :=
  match f.kind with
  | .ieee => 2 ^ f.magBits - 2 ^ f.frac + 2 ^ (f.frac - 1)
  | .narrow => if f.signed then 2 ^ (f.width - 1) else 2 ^ f.width - 1
  | .int => 0
/-- The infinity of a sign, where the format has one (R62, R70). -/
def Fmt.inf (f : Fmt) (neg : Bool) : Nat :=
  match f.kind with
  | .ieee => f.signBit neg + (2 ^ f.magBits - 2 ^ f.frac)
  | _ => f.signBit neg + f.maxCode + 1
/-- The largest finite value of a sign. -/
def Fmt.maxFin (f : Fmt) (neg : Bool) : Nat := f.signBit neg + f.maxCode

/-! ## Exact values -/

/-- An exact value: a NaN (signalling or not), an infinity, or ± m × 2^e, where `sticky` says that the magnitude exceeds
m × 2^e by less than one unit of m. -/
inductive Ex where
  | nan (sig : Bool)
  | inf (neg : Bool)
  | num (neg : Bool) (m : Nat) (e : Int) (sticky : Bool)
  deriving DecidableEq, Repr

/-- The finite value of a magnitude code. -/
def Fmt.finite (f : Fmt) (neg : Bool) (mag : Nat) : Ex :=
  let e := mag / 2 ^ f.frac
  if e = 0 then .num neg mag (f.emin - f.frac) false
  else .num neg (2 ^ f.frac + mag % 2 ^ f.frac) (f.emin - f.frac + (e - 1 : Nat)) false

/-- The value of a pattern (R62, R65, R67, R68). -/
def Fmt.value (f : Fmt) (x : Nat) : Ex :=
  match f.kind with
  | .int => if f.signed && decide (2 ^ (f.width - 1) ≤ x) then .num true (2 ^ f.width - x) 0 false else .num false x 0 false
  | .ieee =>
    let neg := decide (2 ^ (f.width - 1) ≤ x)
    let mag := x % 2 ^ f.magBits
    let top := 2 ^ f.magBits - 2 ^ f.frac
    if mag = top then .inf neg
    else if mag > top then .nan (mag % 2 ^ f.frac < 2 ^ (f.frac - 1))
    else Fmt.finite f neg mag
  | .narrow =>
    if x = f.nan then .nan false
    else
      let neg := f.signed && decide (2 ^ (f.width - 1) ≤ x)
      let mag := x % 2 ^ f.magBits
      if f.hasInf && mag > f.maxCode then .inf neg else Fmt.finite f neg mag

/-- The value is zero. -/
def Ex.isZero : Ex → Bool
  | .num _ m _ st => m == 0 && !st
  | _ => false
def Ex.isNan : Ex → Bool
  | .nan _ => true
  | _ => false
def Ex.isSig : Ex → Bool
  | .nan b => b
  | _ => false
def Ex.isInf : Ex → Bool
  | .inf _ => true
  | _ => false
/-- The sign of a value that is no NaN. -/
def Ex.neg : Ex → Bool
  | .nan _ => false
  | .inf n => n
  | .num n _ _ _ => n
/-- The value with its sign changed. -/
def Ex.negate : Ex → Ex
  | .nan b => .nan b
  | .inf n => .inf (!n)
  | .num n m e st => .num (!n) m e st

/-! ## Rounding -/

/-- One use of a lane's generator steps it 32 times (R83). -/
def lfsrNext (x : BitVec 32) : BitVec 32 :=
  (List.range 32).foldl (fun (x : BitVec 32) _ =>
    if x.getLsbD 0 then (x >>> 1) ^^^ 0x80200003#32 else x >>> 1) x

/-- Stepping lane `l`'s generator (R83). -/
def FpRegs.stepSr (f : FpRegs) (l : Fin 16) : FpRegs := { f with srs := f.srs.set l (lfsrNext f.srs[l]) }

/-- The rounding modes as MOD[2:0] numbers them (R35). -/
def modeRNE : BitVec 3 := 1#3
def modeRTZ : BitVec 3 := 2#3
def modeRUP : BitVec 3 := 3#3
def modeRDN : BitVec 3 := 4#3
def modeSR : BitVec 3 := 5#3

/-- The mode of a form: its own, or the default in XSTAT (R81). -/
def FpRegs.mode (f : FpRegs) (rm : BitVec 3) : BitVec 3 := if rm = 0 then f.rmode else rm

/-- The overflow table's choice for a format (R85). -/
def FpRegs.choice (f : FpRegs) (code : Nat) : BitVec 2 := f.ovt.extractLsb' (2 * code) 2

/-- The helper `overflow` of R86: the pattern and the flags. -/
def overflowTo (f : Fmt) (choice : BitVec 2) (mode : BitVec 3) (neg infIn : Bool) : Nat × BitVec 5 :=
  if f.kind = .int then
    ((if neg then (if f.signed then 2 ^ (f.width - 1) else 0) else f.maxCode), flagNV)
  else if infIn && f.hasInf then (f.inf neg, 0)
  else
    (if choice = 2 then f.nan
     else if choice = 1 ∧ f.hasInf = true then
       (if mode = modeRTZ ∨ (mode = modeRUP ∧ neg = true) ∨ (mode = modeRDN ∧ neg = false) then f.maxFin neg
        else f.inf neg)
     else f.maxFin neg, flagOF ||| flagNX)

/-- How a magnitude y = n + rem / 2^r (and a little more, if sticky) is rounded to an integer (R82). -/
def roundUp (mode : BitVec 3) (rnd : BitVec 32) (neg : Bool) (n rem r : Nat) (sticky : Bool) : Bool :=
  if mode = modeRNE then
    decide (2 * rem > 2 ^ r) || (2 * rem == 2 ^ r && (sticky || n % 2 == 1))
  else if mode = modeRUP then (rem != 0 || sticky) && !neg
  else if mode = modeRDN then (rem != 0 || sticky) && neg
  else if mode = modeSR then decide (rem * 2 ^ 32 / 2 ^ r + rnd.toNat ≥ 2 ^ 32)
  else false

/-- The value rounded to a multiple of 2^k: the count of units and whether it was exact. -/
def toUnits (mode : BitVec 3) (rnd : BitVec 32) (neg : Bool) (m : Nat) (e k : Int) (sticky : Bool) : Nat × Bool :=
  if k ≤ e then (m * 2 ^ (e - k).toNat, !sticky)
  else
    let r := (k - e).toNat
    let n := m / 2 ^ r
    let rem := m % 2 ^ r
    (if roundUp mode rnd neg n rem r sticky then n + 1 else n, rem == 0 && !sticky)

/-- The helper `round` of R82 for a given table choice and random draw: the pattern and the flags. The largest magnitude of a signed
integer is maxfin, 2^(w-1) - 1 (R98), so -2^(w-1) overflows to itself with NV. DEDUCED (log 27). -/
def roundWith (f : Fmt) (choice : BitVec 2) (mode : BitVec 3) (rnd : BitVec 32) (x : Ex) : Nat × BitVec 5 :=
  match x with
  | .nan sig => (f.nan, if sig || f.kind == .int then flagNV else 0)
  | .inf neg => if neg && !f.signed then (f.nan, flagNV) else overflowTo f choice mode neg true
  | .num neg m e sticky =>
    if m = 0 ∧ sticky = false then (if f.kind = .ieee then f.signBit neg else 0, 0)
    else if neg && !f.signed then (f.nan, flagNV)
    else if f.kind = .int then
      let u := toUnits mode rnd neg m e 0 sticky
      if u.1 > f.maxCode then overflowTo f choice mode neg false
      else (if neg then (2 ^ f.width - u.1) % 2 ^ f.width else u.1, if u.2 then 0 else flagNX)
    else
      let top : Int := (m.log2 : Int) + e
      let k := max top f.emin - f.frac
      let u := toUnits mode rnd neg m e k sticky
      let code := (k - (f.emin - f.frac)).toNat * 2 ^ f.frac + u.1
      if code > f.maxCode then overflowTo f choice mode neg false
      else
        let tiny := decide (m = 0) || decide (top < f.emin)
        ((if f.kind = .narrow ∧ code = 0 then 0 else f.signBit neg + code),
          (if u.2 then 0 else flagNX ||| (if tiny then flagUF else 0)))

/-- The helper `round` of R82 on a core's floating-point state: the draw of R83 in SR, the flags of R87. -/
def FpRegs.round (st : FpRegs) (f : Fmt) (rm : BitVec 3) (lane : Fin 16) (x : Ex) : Nat × FpRegs :=
  let mode := st.mode rm
  let st := if mode = modeSR then st.stepSr lane else st
  let r := roundWith f (st.choice f.code) mode st.srs[lane] x
  (r.1, st.raise r.2)

/-! ## Exact arithmetic (R122, R123) -/

/-- A magnitude at a lower exponent. -/
def scaleTo (m : Nat) (e lo : Int) : Nat := m * 2 ^ (e - lo).toNat

/-- The exact sum; an exact zero of operands of opposite signs is negative only in RDN (R123). -/
def Ex.add (rdn : Bool) : Ex → Ex → Ex
  | .nan a, .nan b => .nan (a || b)
  | .nan a, _ => .nan a
  | _, .nan b => .nan b
  | .inf a, .inf b => if a = b then .inf a else .nan true
  | .inf a, _ => .inf a
  | _, .inf b => .inf b
  | .num na ma ea _, .num nb mb eb _ =>
    let lo := min ea eb
    let x := scaleTo ma ea lo
    let y := scaleTo mb eb lo
    if na = nb then .num na (x + y) lo false
    else if x = y then .num rdn 0 lo false
    else if x > y then .num na (x - y) lo false
    else .num nb (y - x) lo false

/-- The exact product. -/
def Ex.mul : Ex → Ex → Ex
  | .nan a, .nan b => .nan (a || b)
  | .nan a, _ => .nan a
  | _, .nan b => .nan b
  | .inf a, .inf b => .inf (a != b)
  | .inf a, .num nb mb _ _ => if mb = 0 then .nan true else .inf (a != nb)
  | .num na ma _ _, .inf b => if ma = 0 then .nan true else .inf (na != b)
  | .num na ma ea _, .num nb mb eb _ => .num (na != nb) (ma * mb) (ea + eb) false

/-- a × b + d with one rounding to come; 0 × ∞ is invalid even when d is a quiet NaN (R122). -/
def Ex.fma (rdn : Bool) (a b d : Ex) : Ex :=
  match a.mul b with
  | .nan true => .nan true
  | p => p.add rdn d

/-- The quotient to more bits than any format keeps. -/
def Ex.div : Ex → Ex → Ex
  | .nan a, .nan b => .nan (a || b)
  | .nan a, _ => .nan a
  | _, .nan b => .nan b
  | .inf _, .inf _ => .nan true
  | .inf a, .num nb _ _ _ => .inf (a != nb)
  | .num na _ ea _, .inf b => .num (na != b) 0 ea false
  | .num na ma ea _, .num nb mb eb _ =>
    if mb = 0 then (if ma = 0 then .nan true else .inf (na != nb))
    else
      let k := mb.log2 + 128
      let q := ma * 2 ^ k / mb
      .num (na != nb) q (ea - eb - k) (decide (ma * 2 ^ k % mb ≠ 0))

/-- A finite nonzero value divided by zero sets DZ (R122). -/
def divFlags : Ex → Ex → BitVec 5
  | .num _ ma _ _, .num _ mb _ _ => if mb = 0 ∧ ma ≠ 0 then flagDZ else 0
  | _, _ => 0

/-- The integer square root, one bit at a time from bit `n` down. -/
def isqrtFrom : Nat → Nat → Nat → Nat
  | 0, x, r => if (r + 1) * (r + 1) ≤ x then r + 1 else r
  | n + 1, x, r => isqrtFrom n x (if (r + 2 ^ (n + 1)) * (r + 2 ^ (n + 1)) ≤ x then r + 2 ^ (n + 1) else r)
def isqrt (x : Nat) : Nat := if x = 0 then 0 else isqrtFrom (x.log2 / 2 + 1) x 0

/-- The square root to more bits than any format keeps (R122). -/
def Ex.sqrt : Ex → Ex
  | .nan a => .nan a
  | .inf true => .nan true
  | .inf false => .inf false
  | .num neg m e _ =>
    if m = 0 then .num neg 0 e false
    else if neg then .nan true
    else
      let k : Nat := 256 + (e % 2).toNat
      let x := m * 2 ^ k
      let r := isqrt x
      .num false r ((e - k) / 2) (decide (r * r ≠ x))

/-- The order of two values that are no NaN, −0 equal to +0 (R124). -/
def Ex.cmp : Ex → Ex → Ordering
  | .inf a, .inf b => if a = b then .eq else if a then .lt else .gt
  | .inf a, _ => if a then .lt else .gt
  | _, .inf b => if b then .gt else .lt
  | .num na ma ea _, .num nb mb eb _ =>
    let lo := min ea eb
    let x : Int := if na then -(scaleTo ma ea lo : Int) else scaleTo ma ea lo
    let y : Int := if nb then -(scaleTo mb eb lo : Int) else scaleTo mb eb lo
    compare x y
  | _, _ => .eq

/-- A value times 2^n, for any n (R95); past every format's range the exponent is bounded, which changes no rounding. -/
def Ex.scale (n : Int) : Ex → Ex
  | .num neg m e st => .num neg m (e + max (-16384) (min 16384 n)) st
  | x => x

end Sys2Proof.Machine
end

