-- ==== Sys2Proof/Machine/Control.lean ====
section
/-! DEFINITION. Control flow, predicates, timing modes and gangs, opcodes 0x10 to 0x15 (R128 to R152). -/
namespace Sys2Proof.Machine
open Sys2Proof

/-! ## Branches, calls and returns (R134, R135) -/

/-- A transfer to `target`, writing the link first where there is one; a misaligned target traps and writes nothing
(R22, R134). -/
def transferTo (s : State) (target : Word) (link : Option GReg) (lx : Bool) : Eff :=
  let c := s.cc
  if target.toNat % 4 ≠ 0 then .trap s .align target 0
  else match link with
    | none => .jump s target lx
    | some d => .jump (s.setCc (c.result c.tmg.clk 1 (.g d (c.regs.pc + 12)))) target lx

def execBr (h : Hdr) (lx : Bool) (imm : BitVec 32) (s : State) : Host.Outcome State Fault Refusal :=
  issueWord h 0 0 0 {} (fun s => transferTo s (s.cc.regs.pc + sextImm imm) none lx) s
def execCall (h : Hdr) (d : GReg) (imm : BitVec 32) (s : State) : Host.Outcome State Fault Refusal :=
  issueWord h 0 0 0 { dsts := [opG d] } (fun s => transferTo s (s.cc.regs.pc + sextImm imm) (some d) false) s
def execJr (h : Hdr) (a : GReg) (lx : Bool) (imm : BitVec 32) (s : State) : Host.Outcome State Fault Refusal :=
  issueWord h 0 0 0 { srcs := [opG a] } (fun s => transferTo s (s.cc.rdG a + sextImm imm) none lx) s
def execCallr (h : Hdr) (d a : GReg) (imm : BitVec 32) (s : State) : Host.Outcome State Fault Refusal :=
  issueWord h 0 0 0 { srcs := [opG a], dsts := [opG d] }
    (fun s => transferTo s (s.cc.rdG a + sextImm imm) (some d) false) s
def execRet (h : Hdr) (a : GReg) (s : State) : Host.Outcome State Fault Refusal :=
  issueWord h 0 0 0 { srcs := [opG a] } (fun s => transferTo s (s.cc.rdG a) none false) s

/-! ## Hardware loops (R136) -/

/-- Activates a loop of `len` + 1 words after the word, or passes over its body for a count of zero. DEDUCED (log 45). -/
def startLoop (s : State) (len : BitVec 8) (count : BitVec 64) : Eff :=
  let c := s.cc
  let a := c.regs.pc
  if c.regs.loops[0].v && c.regs.loops[1].v then .trap s .illegalOpc 0x09 0
  else if count = 0 then .doneAt s (a + 12 * (len.setWidth 64 + 2))
  else
    let l : LoopLvl := { v := true, len1 := len, beg := (a + 12).extractLsb' 2 54, count := count }
    let ls := if c.regs.loops[0].v then c.regs.loops.set 1 l else c.regs.loops.set 0 l
    .done (s.setCc (c.setLoops ls))

def execLoop (h : Hdr) (a : GReg) (len : BitVec 8) (s : State) : Host.Outcome State Fault Refusal :=
  issueWord h 0 0 0 { srcs := [opG a] } (fun s => startLoop s len (s.cc.rdG a)) s
def execLoopi (h : Hdr) (len : BitVec 8) (cnt : BitVec 24) (s : State) : Host.Outcome State Fault Refusal :=
  issueWord h 0 0 0 {} (fun s => startLoop s len (cnt.setWidth 64)) s

/-! ## Predicate logic (R139) -/

def execPand (h : Hdr) (d a b : PReg) (na nb : Bool) (s : State) : Host.Outcome State Fault Refusal :=
  pForm h d [opP a, opP b] 1 (fun c => (c.rdP a != na) && (c.rdP b != nb)) s
def execPor (h : Hdr) (d a b : PReg) (na nb : Bool) (s : State) : Host.Outcome State Fault Refusal :=
  pForm h d [opP a, opP b] 1 (fun c => (c.rdP a != na) || (c.rdP b != nb)) s
def execPxor (h : Hdr) (d a b : PReg) (na nb : Bool) (s : State) : Host.Outcome State Fault Refusal :=
  pForm h d [opP a, opP b] 1 (fun c => (c.rdP a != na) != (c.rdP b != nb)) s
def execPnot (h : Hdr) (d a : PReg) (s : State) : Host.Outcome State Fault Refusal :=
  pForm h d [opP a] 1 (fun c => !c.rdP a) s
def execPmov (h : Hdr) (d a : PReg) (s : State) : Host.Outcome State Fault Refusal :=
  pForm h d [opP a] 1 (fun c => c.rdP a) s

/-! ## NOP and the timing modes (R140 to R142) -/

def execNop (h : Hdr) (s : State) : Host.Outcome State Fault Refusal :=
  issueCore h 0 0 0 {} (fun c => .ok c) s
def execTimed (h : Hdr) (s : State) : Host.Outcome State Fault Refusal :=
  issueCore h 0 0 0 {} (fun c => .ok (c.setTrap fun t => { t with tim := true })) s
/-- CHECKED waits for every fixed-latency result in flight, in either mode (R142). -/
def execChecked (h : Hdr) (s : State) : Host.Outcome State Fault Refusal :=
  issueCore h 0 0 0 { empty := .fixed }
    (fun c => .ok (c.setTrap fun t => { t with tim := false })) s

/-! ## Gangs (R145 to R151) -/

/-- Replaces the gang of a base in a cluster, or removes it. -/
def State.setGang (s : State) (cl base : Nat) (g : Option Gang) : State :=
  let c := s.cluster cl
  s.setCluster cl { c with gangs := (match g with
    | some g => [g]
    | none => []) ++ c.gangs.filter (·.base != base) }

/-- The buffers that GANG, GJOIN and GSPLIT empty (R130, R253). -/
def Core.emptyBuffers (c : Core) (loopToo : Bool) : Core :=
  c.setTmg fun m => { m with obuf := [], loopBuf := if loopToo then none else m.loopBuf }

/-- A gang forms at clk T (R145): the leader and the followers behind it leave their waits at the word after their own
GANG, with their results written and the leader's timing mode and loop levels. -/
def State.formGang (s : State) (cl base num : Nat) : State :=
  let first := cl * Config.coresPerCluster + base
  let ns := (List.range num).map (first + ·)
  let T := (ns.map fun n => (s.core n).tmg.clk).foldl max 0
  let B := max (T + 1) ((s.core first).tmg.clk + 1 + (s.core first).waitStall)
  let lead := s.core first
  let s := ns.foldl (fun s n =>
    let c := ((s.core n).drain.complete T (s.core n).waitStall).emptyBuffers true
    s.setCore n { c with
      wait := .none
      regs := { c.regs with trap := { c.regs.trap with tim := lead.regs.trap.tim } }
      tmg := { c.tmg with clk := B + (n - first) } }) s
  let next := (s.core first).regs
  let s := ns.foldl (fun (s : State) n => s.setCore n { s.core n with regs := { (s.core n).regs with pc := next.pc, loops := next.loops } }) s
  let c := s.cluster cl
  s.setCluster cl { c with gangs := { base := base, num := num } :: c.gangs }

/-- The reasons of R145 for which GANG raises ILLEGAL_OPC with XVAL 0x0A. DEDUCED (log 43). -/
def badGang (s : State) (n base num : Nat) : Bool :=
  let i := indexOf n
  let cl := clusterOf n
  let first := cl * Config.coresPerCluster
  decide (num < 2) || decide (base + num > 24) || decide (i < base) || decide (base + num ≤ i) ||
    (List.range num).any (fun j =>
      (s.core (first + base + j)).ctag != (s.core n).ctag || s.isServer (first + base + j)) ||
    (List.range 24).any (fun m => match (s.core (first + m)).wait with
      | .gang b k => decide (m ≠ i) && (b != base || k != num) &&
          ((decide (base ≤ m) && decide (m < base + num)) || (decide (b ≤ i) && decide (i < b + k)))
      | _ => false)

/-- The effect of GANG. Of two reasons, the one that R145 names first traps: the range before the membership. DESIGN CHOICE (log 160). -/
def startGang (s : State) (base num : Nat) : Eff :=
  let n := s.cur
  let cl := clusterOf n
  if badGang s n base num then .trap s .illegalOpc 0x0A 0
  else if (s.gangOf n).isSome then .trap s .illegalOpc 0x0B 0
  else
    let s := s.setCc { s.cc with wait := .gang base num }
    let all := (List.range num).all fun j => (s.core (cl * 24 + base + j)).wait == .gang base num
    .sleep (if all then s.formGang cl base num else s)

def execGang (h : Hdr) (base num : BitVec 5) (s : State) : Host.Outcome State Fault Refusal :=
  issueWord h 0 0 0 {} (fun s => startGang s base.toNat num.toNat) s

/-- A leader leaves its gang (R148, R151): the gang dissolves; its lock-step members go on by themselves at the word `next`, or behind
the last word that each has completed, `gap` clk after the clk of their own slot, and split members that wait at a GJOIN complete it,
and, where it issued by `t`, issue no earlier than three clk after. -/
def State.dissolve (s : State) (n t gap : Nat) (next : Option Word) : State :=
  match s.gangOf n with
  | some (g, 0) =>
    let lead := s.core n
    let s := s.setGang (clusterOf n) g.base none
    (List.range g.num).foldl (fun s j =>
      let c := s.core (n + j)
      if j = 0 then s
      else if !g.split.contains j then
        let regs := match next with
          | some a => { c.regs with pc := a, loops := lead.regs.loops }
          | none => c.regs
        s.setCore (n + j) ({ c.alone with regs := regs }.setTmg fun m => { m with clk := max m.clk (t + j + gap), obuf := [] })
      else if c.wait = .join then
        let d := c.complete (max t c.tmg.clk) c.waitStall
        s.setCore (n + j) { d with wait := .none, tmg := { d.tmg with clk := if c.tmg.clk ≤ t then max d.tmg.clk (t + 3) else d.tmg.clk } }
      else s) s
  | _ => s

/-- The effect of GSPLIT. One that leaves a gang is a transfer to the next word (R129, R148), so it counts no iteration of a loop
that it ends (R137). DEDUCED (log 46). One of a follower that has left lock step already leaves nothing: it has no effect.
DESIGN CHOICE (log 161). -/
def splitGang (s : State) : Eff :=
  let n := s.cur
  let t := s.cc.tmg.clk
  match s.gangOf n with
  | none => .done s
  | some (g, j) =>
    if j = 0 then
      let s := s.dissolve n t (max 3 (1 + s.cc.waitStall)) (some (s.cc.regs.pc + 12))
      .jump (s.setCc ((s.cc.setTmg fun m => { m with clk := t + 3 }).emptyBuffers false)) (s.cc.regs.pc + 12) false
    else if g.split.contains j then .done s
    else
      let s := s.leaveLockstep n
      .jump (s.setCc ((s.cc.setTmg fun m => { m with clk := t + 3 }).emptyBuffers false)) (s.cc.regs.pc + 12) false

def execGsplit (h : Hdr) (s : State) : Host.Outcome State Fault Refusal :=
  issueWord h 0 0 0 {} splitGang s

/-- The join of a gang completes at clk T (R149): every member is in lock step again, at the leader's next word. The results of those
that rejoin are written first (R144). Where the leader's GJOIN completes it, `byLead`, it is the lock-step members' word too. A GJOIN that
ends a loop's body is followed at T + 1 as any other. DESIGN CHOICE (log 178). -/
def State.completeJoin (s : State) (cl : Nat) (g : Gang) (byLead : Bool) : State :=
  let first := cl * Config.coresPerCluster + g.base
  let T := ((first :: (g.split.map (first + ·))).map fun n => (s.core n).tmg.clk).foldl max 0
  let B := max (T + 1) ((s.core first).tmg.clk + 1 + (s.core first).waitStall)
  let lead := s.core first
  let s := (List.range g.num).foldl (fun (s : State) j =>
    let c := if g.split.contains j then (s.core (first + j)).drain else s.core (first + j)
    let c := if j = 0 || byLead || g.split.contains j then c.complete T c.waitStall else c
    let c := if j = 0 || g.split.contains j then { c with wait := .none } else c
    s.setCore (first + j) ((c.emptyBuffers true).setTrap fun t => { t with tim := lead.regs.trap.tim })) s
  let next := (s.core first).regs
  let s := (List.range g.num).foldl (fun s j =>
    let c := (s.core (first + j)).setTmg fun m => { m with clk := B + j }
    s.setCore (first + j) { c with regs := { c.regs with pc := next.pc, loops := next.loops } }) s
  s.setGang cl g.base (some { g with split := [], joined := [] })

/-- The effect of GJOIN, whatever its guard (R149): the guard is a source all the same (R24). DEDUCED (log 44). -/
def joinGang (s : State) : Eff :=
  let n := s.cur
  let cl := clusterOf n
  match s.gangOf n with
  | none => .done s
  | some (g, j) =>
    if g.split.isEmpty || (decide (j ≠ 0) && !g.split.contains j) then .done (s.setCc (s.cc.emptyBuffers true))
    else
      let g := { g with joined := j :: g.joined }
      let s := (s.setCc { s.cc with wait := .join }).setGang cl g.base (some g)
      .sleep (if g.joined.contains 0 && g.split.all (g.joined.contains ·) then s.completeJoin cl g (j == 0) else s)

def execGjoin (h : Hdr) (s : State) : Host.Outcome State Fault Refusal :=
  issueWord { h with grd := 0 } 0 0 0 { srcs := [opP (guardReg h)] } joinGang s

/-- A member leaves its gang at the end of its task or thread (R151). Behind a leader the other members go on by themselves: at the
leader's TEND, `atWord`, each of them issues that TEND too, at its own slot (R146); at an end in the leader's handler, whose words
they do not issue (R150), or one from outside, each goes on behind the last word that it has completed. -/
def State.leaveGang (s : State) (n : Nat) (atWord : Bool) : State :=
  match s.gangOf n with
  | some (g, 0) => s.dissolve n (s.core n).tmg.clk 0 (if atWord && g.depth == 0 then some (s.core n).regs.pc else none)
  | some _ => s.leaveLockstep n
  | none => s

/-- The words for which lock-step members follow the leader's guard and target (R147). -/
def followsLeader : Instr → Bool
  | .br .. | .call .. | .jr .. | .callr .. | .ret .. | .loop .. | .loopi .. => true
  | _ => false

/-- The link register of a call. -/
def linkReg : Instr → Option GReg
  | .call _ d _ => some d
  | .callr _ d _ _ => some d
  | _ => none

/-- What a core's attempt at a word says of its issue clk: that of the word, or of the next attempt where it is held. -/
def issueOf (before after : Core) : Nat :=
  if after.tmg.words = before.tmg.words && after.wait == .none && after.mode == .running && after.regs.pc == before.regs.pc &&
      after.tmg.inside.isNone then
    after.tmg.clk
  else after.tmg.issued

/-- A core issues no word before clk `t`. -/
def State.notBefore (s : State) (n t : Nat) : State := s.setCore n ((s.core n).setTmg fun m => { m with clk := max m.clk t })

/-- A lock-step follower takes the leader's address and loop levels, and its words come from where the leader's do (R130). -/
def Core.follow (c lead : Core) : Core :=
  { c with regs := { c.regs with pc := lead.regs.pc, loops := lead.regs.loops }, tmg := { c.tmg with loopBuf := lead.tmg.loopBuf } }

/-- The clk at which a member of a leader's gang can issue the word `i` with its slot at `G` (R146), and the clk of its slot. -/
def State.memberClk (run : Instr → State → Host.Outcome State Fault Refusal) (i : Instr) (lead : Nat) (s : State) (G : Nat)
    (f : Nat × Nat) : Nat :=
  let s := s.notBefore f.1 (G + f.2)
  let c := (s.core f.1).follow (s.core lead)
  if f.2 ≠ 0 && followsLeader i then c.readyClk ((linkReg i).toList.map opG)
  else match run i { s.setCore f.1 c with cur := f.1 } with
    | .next s' => issueOf c (s'.core f.1)
    | _ => c.tmg.clk

/-- The leader's issue clk of a word that every member issues at its own slot (R146), from `G` on. -/
def State.gangClk (run : Instr → State → Host.Outcome State Fault Refusal) (i : Instr) (lead : Nat) (s : State) (G : Nat) : Nat :=
  (((lead, 0) :: s.followers lead).map fun f => State.memberClk run i lead s G f - f.2).foldl max G

/-- A leader about to issue a word (R146): it delays the word until every lock-step member can issue it at its own slot; each member's
slot is set. A member that some clk after clk cannot issue it holds the word. One that waits inside its effect has issued it. DEDUCED (log 10). -/
def State.alignGang (run : Instr → State → Host.Outcome State Fault Refusal) (i : Instr) (lead : Nat) (s : State) : State × Bool :=
  match s.gangOf lead with
  | some (g, 0) =>
    if g.depth ≠ 0 || (s.core lead).tmg.inside.isSome || (s.followers lead).isEmpty then (s, false)
    else
      let G := State.gangClk run i lead s (State.gangClk run i lead s (State.gangClk run i lead s (s.core lead).tmg.clk))
      let s1 := ((lead, 0) :: s.followers lead).foldl (fun s f => s.notBefore f.1 (G + f.2)) s
      (s1, decide (G < State.gangClk run i lead s1 G))
  | _ => (s, false)

/-- The other members of a gang issue the leader's word after it (R25, R146, R147): each with its own registers at the
leader's address; where a follower waits on memory for good it leaves lock step (R150); one that cannot issue the
word after all owes it. `run` is the meaning of instructions, `before` the leader as it issued the word. DEDUCED (log 10).
DEDUCED (log 42). -/
def fanOut (run : Instr → State → Host.Outcome State Fault Refusal) (i : Instr) (lead : Nat) (before : Core)
    (s : State) : Host.Outcome State Fault Refusal :=
  let after := s.core lead
  let one := fun (o : Host.Outcome State Fault Refusal) (f : Nat × Nat) => match o with
    | .next s =>
      let c := s.core f.1
      if c.ahead then .next (s.setCore f.1 { c with ahead := false })
      else if followsLeader i then
        let t := max c.tmg.clk (after.tmg.issued + f.2)
        let c := { c with tmg := { c.tmg with clk := t } }
        let c := match linkReg i with
          | some d => if after.tmg.taken then c.result t 1 (.g d (before.regs.pc + 12)) else c
          | none => c
        .next (s.setCore f.1 ((c.ageOperands.follow after).setTmg fun m =>
          { m with clk := after.tmg.clk + f.2, issued := t, words := m.words + 1 }))
      else
        let s := s.setCore f.1 { c.follow before with owes := some i }
        match run i { s with cur := f.1 } with
        | .next s =>
          let d := s.core f.1
          .next (match d.wait with
            | .parked _ => s.leaveLockstep f.1
            | .none => if d.tmg.words = c.tmg.words && s.lockFollower f.1 then s.setCore f.1 { d with behind := true } else s
            | _ => s)
        | o => o
    | o => o
  match (s.followers lead).foldl one (.next s) with
  | .next s => .next { s with cur := lead }
  | o => o

end Sys2Proof.Machine
end

