-- ==== Sys2Proof/Machine/Slots.lean ====
section
/-! DEFINITION. Slot schedules (R399 to R402): the record, the conditions of a valid schedule, and its installation. -/
namespace Sys2Proof.Machine
open Sys2Proof

/-- An entry of a schedule record as it stands (R399). -/
structure SlotEntry where
  core : Nat
  peer : Nat
  offset : Nat
  kind : Nat
  land : Nat
  tail : Nat
  deriving DecidableEq, Repr

/-- The little-endian number of `n` bytes of a record at an offset. -/
def numAt (bs : List Byte) (off n : Nat) : Nat := (ofBytes 64 ((bs.drop off).take n)).toNat

/-- The entries of a schedule record. -/
def slotEntries (bs : List Byte) : List SlotEntry :=
  (List.range (numAt bs 0 2)).map fun i =>
    let o := 16 + 16 * i
    { core := numAt bs o 4, peer := numAt bs (o + 4) 4, offset := numAt bs (o + 8) 2, kind := numAt bs (o + 10) 1,
      land := numAt bs (o + 11) 1, tail := numAt bs (o + 12) 4 }

/-- The row and the column of a core's cluster in the mesh of its die (R400). -/
def meshRow (n : Nat) : Nat := clusterOf n % Config.clustersPerDie / 8
def meshCol (n : Nat) : Nat := clusterOf n % Config.clustersPerDie % 8
def natDist (x y : Nat) : Nat := (x - y) + (y - x)
/-- Mesh hops between the clusters of two cores of one die. -/
def meshHops (a b : Nat) : Nat := natDist (meshRow a) (meshRow b) + natDist (meshCol a) (meshCol b)
/-- The timed latency between two cores of one die (R400). -/
def timedLatency (a b : Nat) : Nat := 6 + 2 * meshHops a b

/-- One step from x towards y. -/
def toward (x y : Nat) : Nat := if x < y then x + 1 else if y < x then x - 1 else x
/-- The links of the route between two mesh places, the column dimension first (R400). -/
def meshRoute : Nat → Nat × Nat → Nat × Nat → List ((Nat × Nat) × (Nat × Nat))
  | 0, _, _ => []
  | k + 1, p, q =>
    if p = q then []
    else
      let r := if p.2 = q.2 then (toward p.1 q.1, p.2) else (p.1, toward p.2 q.2)
      (p, r) :: meshRoute k r q

/-- A send with the physical cores of its ends. -/
structure SlotSend where
  src : Nat
  dst : Nat
  offset : Nat
  deriving DecidableEq, Repr

/-- The link clks that a timed message holds (R400). -/
def SlotSend.links (x : SlotSend) : List (((Nat × Nat) × (Nat × Nat)) × Nat) :=
  (meshRoute 16 (meshRow x.src, meshCol x.src) (meshRow x.dst, meshCol x.dst)).zipIdx.map fun e =>
    (e.1, x.offset + 2 * (e.2 + 1))
/-- Two timed messages hold one link, or arrive at one core, in one clk (R401). -/
def SlotSend.conflicts (x y : SlotSend) : Bool :=
  x.links.any (y.links.contains ·) ||
    (x.dst == y.dst && x.offset + timedLatency x.src x.dst == y.offset + timedLatency y.src y.dst)

/-- Some two members of a list are related. -/
def anyPair {α : Type} (r : α → α → Bool) : List α → Bool
  | [] => false
  | x :: xs => xs.any (r x) || anyPair r xs

/-- The core of a partition on a logical die that a logical number names (R401). -/
def State.slotCore (s : State) (p : PTag) (die l : Nat) : Option Nat :=
  (s.ofLcn (some p) l).bind fun n =>
    if s.inPartition p n && s.logicalDie (dieOf n) == some die && l < 16 * Config.coresPerPackage then some n else none

/-- The entries that match an entry but for its offset (R401). -/
def SlotEntry.matches (e : SlotEntry) (es : List SlotEntry) : List SlotEntry :=
  es.filter fun f => f.core == e.peer && f.peer == e.core && f.land == e.land && f.kind + e.kind == 3

/-- What is wrong with entry e, the i-th of a record, under the condition on a core's entries (R401, R402): REASON 6 or 7. -/
def SlotEntry.ownReason (e : SlotEntry) (i : Nat) (es : List SlotEntry) : Option Nat :=
  if 256 < (es.filter (·.core == e.core)).length then some 6
  else if (es.take i).any fun f => f.core == e.core && decide (e.offset ≤ f.offset) then some 7 else none

/-- What is wrong with entry e under the condition on matches (R401, R402): REASON 3 or 4; `latency` is that of two logical
cores. -/
def SlotEntry.matchReason (e : SlotEntry) (es : List SlotEntry) (latency : Nat → Nat → Nat) : Option Nat :=
  match e.matches es with
  | [f] =>
    let ends := if e.kind = 1 then (e, f) else (f, e)
    if ends.2.offset < ends.1.offset + latency ends.1.core ends.2.core then some 4 else none
  | _ => some 3

/-- The REASON for which a record is refused, 0 where it is valid (R401, R402): the conditions in order, and within one the
first failing entry. DEDUCED (log 84). -/
def State.slotReason (s : State) (p : PTag) (bs : List Byte) : Nat :=
  let n := numAt bs 0 2
  let die := numAt bs 2 1
  let es := slotEntries bs
  let at_ := fun (l : Nat) => s.slotCore p die l
  let latency := fun (a b : Nat) => timedLatency ((at_ a).getD 0) ((at_ b).getD 0)
  let sends := es.filterMap fun e => match e.kind, at_ e.core, at_ e.peer with
    | 1, some a, some b => some (⟨a, b, e.offset⟩ : SlotSend)
    | _, _, _ => none
  if n = 0 ∨ 4096 < n ∨ 7 < die ∨ (((bs.drop 3).take 13).any (· != 0)) = true then 1
  else if es.any fun e => (at_ e.core).isNone || (at_ e.peer).isNone || e.core == e.peer ||
      !(e.kind == 1 || e.kind == 2) || decide (15 < e.land) || e.tail != 0 then 2
  else match es.zipIdx.findSome? fun x => x.1.ownReason x.2 es with
    | some r => r
    | none => match es.findSome? fun e => e.matchReason es latency with
      | some r => r
      | none =>
        if anyPair (fun e f => e.kind == 2 && f.kind == 2 && e.core == f.core && e.land == f.land) es then 8
        else if anyPair SlotSend.conflicts sends then 5
        else 0

/-- The entries of one core, numbered upward in record order (R402). -/
def schedOf (l : Nat) (es : List SlotEntry) : List SchedEntry :=
  (es.filter (·.core == l)).map fun e =>
    { peer := e.peer, offset := e.offset, send := e.kind == 1, land := ⟨e.land % 16, Nat.mod_lt _ (by decide)⟩ }

/-- The listed cores of a partition on a logical die. -/
def State.partCoresOn (s : State) (p : PTag) (die : Nat) : List Nat :=
  ((s.cores.map (·.1)) ++ (s.assign.map (·.1))).eraseDups.filter fun n =>
    s.inPartition p n && s.logicalDie (dieOf n) == some die

/-- SLOTCTL with a STATUS and a REASON (R402). -/
def slotStatus (w : Word) (status reason : Nat) : Word :=
  (w &&& 0x00FFFFFFFFFFFFF0#64) ||| (BitVec.ofNat 64 status <<< 2) ||| (BitVec.ofNat 64 reason <<< 60)

/-- Installs a valid schedule: every core of the partition on its die receives its entries, those of contexts that are out
included (R402). -/
def State.installSlots (s : State) (p : PTag) (bs : List Byte) : State :=
  let die := numAt bs 2 1
  let es := slotEntries bs
  let cores := (s.partCoresOn p die ++ es.filterMap fun e => s.slotCore p die e.core).eraseDups
  let s := cores.foldl (fun (s : State) n =>
    let c := s.core n
    if c.ctag = some p then s.setCore n { c with comm := { c.comm with sched := schedOf (s.lcnIn (some p) n) es } } else s) s
  let out := fun (x : Ctx) => if x.ptag != p then x else
    { x with cores := x.cores.map fun (e : Nat × Nat × Core) => match s.ofLcn (some p) e.1 with
        | some n => if s.logicalDie (dieOf n) == some die then
            (e.1, e.2.1, { e.2.2 with comm := { e.2.2.comm with sched := schedOf e.1 es } }) else e
        | none => e }
  let s := { s with clusters := s.clusters.map fun (e : Nat × Cluster) => (e.1, { e.2 with glen := e.2.glen.map out })
                    images := s.images.map fun (i : Image) => { i with ctx := out i.ctx } }
  s.onPart p.toNat fun x => { x with scheds := (die :: x.scheds).eraseDups }

/-- An installation that core n started goes on once no core of the partition on the die is in COMM (R402). DEDUCED (log 85). -/
def State.tryInstall (s : State) (n : Nat) : State :=
  let c := s.core n
  match c.installing with
  | none => s
  | some (p, bs) =>
    let die := numAt bs 2 1
    if (s.partCoresOn p die).any fun m => (s.core m).ctag == some p && (s.core m).regs.trap.phase == 2 then s
    else
      let r := s.slotReason p bs
      let s := if r = 0 then s.installSlots p bs else s
      s.setCore n { s.core n with installing := none, slotctl := slotStatus c.slotctl (if r = 0 then 1 else 2) r }

/-- Every installation in progress is tried. -/
def State.tryInstalls (s : State) : State :=
  (s.cores.filterMap fun e => if e.2.installing.isSome then some e.1 else none).foldl State.tryInstall s

end Sys2Proof.Machine
end

