-- ==== Sys2Proof/Machine/Sync.lean ====
section
/-! DEFINITION. The cluster event unit (R228 to R244): event lines, mutexes and barriers, the instructions EVSIG, LDEV,
BAR, BARSS and SPRED, and the events of the unit. -/
namespace Sys2Proof.Machine
open Sys2Proof

/-! ## Resources and their tags (R228, R229) -/

/-- The address of an offset of window 0x04. -/
def evuAddr (off : Nat) : Word := BitVec.ofNat 64 (0x0104000000000000 + off)
/-- The RTAG byte of an event line, mutex or barrier. -/
def rtagLine (e : Nat) : Nat := e
def rtagMutex (m : Nat) : Nat := 0x40 + m
def rtagBarrier (b : Nat) : Nat := 0x60 + b
/-- A resource of a cluster may be used under a tag in user mode (R229). -/
def Cluster.owns (cl : Cluster) (rtag : Nat) (p : PTag) : Bool :=
  let b := Tab.get 0#8 cl.rtag rtag
  !b.getLsbD 7 && b.extractLsb' 0 6 == p
/-- The check of R229 for the current core: the address in XVAL where it fails. -/
def State.evuDenied (s : State) (rtag : Nat) : Bool :=
  !s.cc.regs.trap.sup && !(s.cluster (clusterOf s.cur)).owns rtag s.cc.ptag

def Cluster.line (c : Cluster) (e : Nat) : EvLine := Tab.get {} c.lines e
def Cluster.mutex (c : Cluster) (m : Nat) : Mutex := Tab.get {} c.mtx m
def Cluster.barrier (c : Cluster) (b : Nat) : Barrier := Tab.get {} c.bars b
def State.onLine (s : State) (cl e : Nat) (f : EvLine → EvLine) : State :=
  let c := s.cluster cl
  s.setCluster cl { c with lines := Tab.set c.lines e (f (c.line e)) }
def State.onMutex (s : State) (cl m : Nat) (f : Mutex → Mutex) : State :=
  let c := s.cluster cl
  s.setCluster cl { c with mtx := Tab.set c.mtx m (f (c.mutex m)) }
def State.onBarrier (s : State) (cl b : Nat) (f : Barrier → Barrier) : State :=
  let c := s.cluster cl
  s.setCluster cl { c with bars := Tab.set c.bars b (f (c.barrier b)) }

/-! ## Event lines -/

/-- The destination register of the LDEV that a core sleeps in. -/
def ldevDst : Option Instr → GReg
  | some (.ldevWait _ d _) => d
  | some (.ldevLock _ d _) => d
  | _ => 0

/-- When the reply of a grant at unit clk T lets a core issue that sampled at clk t + 4: no sleep where the event reached
the unit by then (R235). -/
def replyClk (t T : Nat) : Nat := if T ≤ t + 4 then t + 8 else T + 6

/-- A grant to a core that waits at the unit (R234, R237): an atomic of that core, its value, and its next issue. -/
def State.grant (s : State) (n T : Nat) (x : Word) : State :=
  let s := s.coreWrite n (.evu (clusterOf n))
  s.wakeWith n (replyClk (s.core n).tmg.clk T) fun c =>
    (c.slipResult (.g (ldevDst c.access) x)).complete c.tmg.clk c.waitStall

/-- Serves the waiters of a line from its counter, oldest first (R235, R237); `fuel` bounds the queue. DEDUCED (log 49). -/
def State.serveLine (s : State) (cl e T : Nat) : Nat → State
  | 0 => s
  | fuel + 1 =>
    let l := (s.cluster cl).line e
    match l.waiters with
    | [] => s
    | n :: rest =>
      if l.count = 0 then s
      else State.serveLine ((s.onLine cl e fun l => { l with count := l.count - 1, waiters := rest }).grant n T
        (l.count.setWidth 64)) cl e T fuel

/-- A signal of k events reaches a line at clk T (R230, R236): the counter saturates. -/
def State.signal (s : State) (cl e T : Nat) (k : BitVec 32) : State :=
  s.onLine cl e fun l => { l with count := BitVec.ofNat 32 (min (l.count.toNat + k.toNat) 0xFFFFFFFF), clk := max l.clk T }

/-- A ST to EVC e (R230): the counter is set. -/
def State.evcStore (s : State) (cl e T : Nat) (x : BitVec 64) : State :=
  s.onLine cl e fun l => { l with count := x.setWidth 32, clk := max l.clk T }

/-- A line has waiters that its counter can serve: they are served behind all that reaches the unit in the clk (R235). -/
def EvLine.ready (l : EvLine) : Bool := !l.waiters.isEmpty && l.count != 0
/-- The second step of a unit's clk for one line (R235): its waiters are served. -/
def State.serve (s : State) (cl e : Nat) : State :=
  let l := (s.cluster cl).line e
  s.serveLine cl e l.clk l.waiters.length

/-- The partition that an event line is tagged for, where its context is out of the cluster: what is sent to the line is held with it
(R467). -/
def State.lineOut (s : State) (cl e : Nat) : Option PTag :=
  let x := Tab.get 0#8 (s.cluster cl).rtag (rtagLine e)
  if !x.getLsbD 7 && s.ctxOut cl (x.extractLsb' 0 6) then some (x.extractLsb' 0 6) else none

/-- EVC_WRITE: a store to an event-line counter takes effect at the unit's clk edge (R230, R235). -/
def execEvcWrite (cl : Nat) (e : Fin 64) (x : BitVec 64) (s : State) : Host.Outcome State Fault Refusal :=
  .next (s.evcStore cl e.val (s.clk + 4) x)

/-- EVENT_MESSAGE (R235, R236): a remote message that leaves the network at the clk of the state reaches the unit 4 clk later, as a core's
request does; it is applied, unless a user's message names a line that it may not use;
that drop is counted for the sender's partition (R472). -/
def execEventMessage (m : EvMsg) (s : State) : Host.Outcome State Fault Refusal :=
  if !m.sup && !(s.cluster m.cl).owns (rtagLine m.line.val) m.tag then
    .next (s.onPart m.tag.toNat fun p => { p with evdrop := satInc p.evdrop })
  else
    let r := s.writeTime m.time (.evu m.cl)
    .next (r.1.signal m.cl m.line.val (s.clk + 4) m.count)

/-- The current core's access to its unit is a write of the core path (R234). -/
def State.evuWrite (s : State) : State := s.coreWrite s.cur (.evu (clusterOf s.cur))

/-- A logical core number that some core of the scale-up domain has (R16), as a partition names it: a degraded logical die has none
(R502). -/
def State.coreExists (s : State) (p : Option PTag) (x : Word) : Bool :=
  decide (x.toNat < 16 * Config.coresPerPackage) && !(s.ofLcn p x.toNat).any fun n => dieOf n == 31

/-- The effect of EVSIG.EV (R234, R236): a signal to another cluster takes its logical time at that cluster's unit as it issues, and
its message brings the events there. DEDUCED (log 54). -/
def signalEvent (tgt : Option GReg) (e : BitVec 6) (cnt : BitVec 16) (s : State) : Eff :=
  let n := s.cur
  let c := s.cc
  let line : Fin 64 := e.toFin
  match tgt with
  | none =>
    if s.evuDenied (rtagLine e.toNat) then .trap s .bounds (evuAddr (8 * e.toNat)) 0
    else match s.lineOut (clusterOf n) e.toNat with
      | some p => .done (s.evuWrite.hold p (clusterOf n) (.eventMessage
          { cl := clusterOf n, dst := n, line := line, count := cnt.setWidth 32, tag := c.ptag, sup := c.regs.trap.sup,
            time := s.evuWrite.cc.lt }))
      | none => .done (s.evuWrite.signal (clusterOf n) e.toNat (c.tmg.clk + 4) (cnt.setWidth 32))
  | some a =>
    let x := c.rdG a
    if !s.coreExists c.ctag x then .trap s .bounds x 0
    else
      let m : EvMsg := { cl := 0, dst := x.toNat, line := line, count := cnt.setWidth 32, tag := c.ptag,
                         sup := c.regs.trap.sup, time := c.lt + 1 }
      match s.ofLcn c.ctag x.toNat with
      | some t =>
        let s := s.coreWrite n (.evu (clusterOf t))
        .done (s.send n t c.regs.trap.sup (.eventMessage { m with cl := clusterOf t, dst := t, time := s.cc.lt }))
      | none => .done ((s.setCc { c with lt := c.lt + 1 }).report (.remoteEvent x.toNat m))

def execEvsigEv (h : Hdr) (tgt : Option GReg) (e : BitVec 6) (cnt : BitVec 16) (s : State) :
    Host.Outcome State Fault Refusal :=
  issueWord h 0 0 0 { srcs := match tgt with
    | some a => [opG a]
    | none => [] } (signalEvent tgt e cnt) s

/-! ## Mutexes (R231, R236, R237) -/

/-- Unlocks a mutex at clk T: ownership passes to the oldest waiter, which wakes with the number still queued. -/
def State.unlock (s : State) (cl m T : Nat) : State :=
  match ((s.cluster cl).mutex m).waiters with
  | [] => s.onMutex cl m fun x => { x with owner := none }
  | n :: rest =>
    (s.onMutex cl m fun x => { x with owner := some n, waiters := rest }).grant n T (BitVec.ofNat 64 rest.length)

def execEvsigUnlock (h : Hdr) (m : BitVec 5) (s : State) : Host.Outcome State Fault Refusal :=
  issueWord h 0 0 0 {} (fun s =>
    let cl := clusterOf s.cur
    if s.evuDenied (rtagMutex m.toNat) then .trap s .bounds (evuAddr (0x200 + 8 * m.toNat)) 0
    else if ((s.cluster cl).mutex m.toNat).owner ≠ some s.cur then .trap s .illegalOpc 0x0C 0
    else .done (s.evuWrite.unlock cl m.toNat (s.cc.tmg.clk + 4))) s

/-- An LDEV that its unit answers at once: an atomic, the value, and the reply 8 clk after issue (R235, R237). -/
def ldevReply (s : State) (d : GReg) (x : Word) : Eff :=
  let s := s.evuWrite
  let c := s.cc
  .done (s.setCc ((c.slipResult (.g d x)).setTmg fun t => { t with clk := t.clk + 8 }))

/-- The current core sleeps at its unit in an instruction (R238). -/
def State.sleepIn (s : State) (w : Wait) (i : Instr) : State := s.setCc { s.cc with wait := w, access := some i }

def execLdevWait (h : Hdr) (d : GReg) (e : BitVec 6) (s : State) : Host.Outcome State Fault Refusal :=
  issueWord h 0 0 0 { dsts := [opG d] } (fun s =>
    let cl := clusterOf s.cur
    let l := (s.cluster cl).line e.toNat
    if s.evuDenied (rtagLine e.toNat) then .trap s .bounds (evuAddr (8 * e.toNat)) 0
    else if l.count ≠ 0 && l.waiters.isEmpty then
      ldevReply (s.onLine cl e.toNat fun l => { l with count := l.count - 1 }) d (l.count.setWidth 64)
    else .sleep ((s.onLine cl e.toNat fun l => { l with waiters := l.waiters ++ [s.cur] }).sleepIn (.line e.toFin)
      (.ldevWait h d e))) s

def execLdevPoll (h : Hdr) (d : GReg) (e : BitVec 6) (s : State) : Host.Outcome State Fault Refusal :=
  issueWord h 0 0 0 { dsts := [opG d] } (fun s =>
    let cl := clusterOf s.cur
    let l := (s.cluster cl).line e.toNat
    if s.evuDenied (rtagLine e.toNat) then .trap s .bounds (evuAddr (8 * e.toNat)) 0
    else ldevReply (s.onLine cl e.toNat fun l => { l with count := if l.count = 0 then 0 else l.count - 1 }) d
      (l.count.setWidth 64)) s

def execLdevLock (h : Hdr) (d : GReg) (m : BitVec 5) (s : State) : Host.Outcome State Fault Refusal :=
  issueWord h 0 0 0 { dsts := [opG d] } (fun s =>
    let cl := clusterOf s.cur
    let x := (s.cluster cl).mutex m.toNat
    if s.evuDenied (rtagMutex m.toNat) then .trap s .bounds (evuAddr (0x200 + 8 * m.toNat)) 0
    else if x.owner = some s.cur then .trap s .illegalOpc 0x0E 0
    else if x.owner = none then ldevReply (s.onMutex cl m.toNat fun x => { x with owner := some s.cur }) d 0
    else .sleep ((s.onMutex cl m.toNat fun x => { x with waiters := x.waiters ++ [s.cur] }).sleepIn (.mutex m.toFin)
      (.ldevLock h d m))) s

def execLdevTry (h : Hdr) (d : GReg) (m : BitVec 5) (s : State) : Host.Outcome State Fault Refusal :=
  issueWord h 0 0 0 { dsts := [opG d] } (fun s =>
    let cl := clusterOf s.cur
    let x := (s.cluster cl).mutex m.toNat
    if s.evuDenied (rtagMutex m.toNat) then .trap s .bounds (evuAddr (0x200 + 8 * m.toNat)) 0
    else if x.owner = some s.cur then .trap s .illegalOpc 0x0E 0
    else if x.owner = none then ldevReply (s.onMutex cl m.toNat fun x => { x with owner := some s.cur }) d 1
    else ldevReply s d 0) s

/-! ## Barriers (R239 to R244) -/

/-- A message or claim that the core of a logical number has sent (R242). -/
def sentBy (l : Nat) : Instr → Bool
  | .channelMessageLand _ _ m => m.src == l
  | .channelClaim m => m.src == l
  | .channelClaimAnswer m _ => m.src == l
  | _ => false
/-- The channels of a core, of a context that is out where it is one of its. -/
def State.commOf (s : State) (p : Option PTag) (n : Nat) : Comm :=
  match p.bind fun q => (s.outCtxs.find? fun x => x.1 == clusterOf n && x.2.ptag == q).bind fun x =>
      x.2.cores.find? fun e => e.2.1 == indexOf n with
  | some e => e.2.2.comm
  | none => (s.core n).comm
/-- A grant that a core has returned for a channel declared to it (R242). -/
def State.grantedBy (s : State) (n : Nat) (p : Option PTag) : Instr → Bool
  | .channelGrant t ch => ((s.commOf p t).chans[ch]).any fun x => x.dst == s.lcn n
  | _ => false
/-- A message, claim or grant of a core is still on its way, or is held for a context that is out (R242). -/
def State.commInFlight (s : State) (n : Nat) : Bool :=
  let mine := fun (p : Option PTag) (i : Instr) => sentBy (s.lcn n) i || s.grantedBy n p i
  s.net.any (fun k => mine (s.core n).ctag k.ev) || s.pending.any (mine none) || s.held.any fun x => mine (some x.ptag) x.ev

/-- The cores of a cluster that have arrived at a barrier and wait there. -/
def State.waitersAt (s : State) (cl b : Nat) : List Nat :=
  ((List.range 24).map (cl * 24 + ·)).filter fun n => match (s.core n).wait with
    | .barrier k .. => k.val == b
    | _ => false

/-- The members of a barrier: the cores that its mask names (R232). -/
def Barrier.members (x : Barrier) (cl : Nat) : List Nat :=
  ((List.range 24).filter fun i => x.mask.getLsbD i).map (cl * 24 + ·)
/-- The core of the cluster that stands for a barrier in its messages: its lowest member. DEDUCED (log 167). -/
def Barrier.place (x : Barrier) (cl : Nat) : Nat := (x.members cl).headD (cl * 24)

/-- A barrier has completed its generation (R239); where a member arrived by BARSS, what each member has sent has landed (R242).
DEDUCED (log 52). DESIGN CHOICE (log 183). -/
def State.barrierReady (s : State) (cl b : Nat) : Bool :=
  let x := (s.cluster cl).barrier b
  let ends := (s.waitersAt cl b).any fun n => match (s.core n).wait with
    | .barrier _ _ _ .barss => true
    | _ => false
  x.en && x.arr == x.mask && x.carr == x.nch && (!ends || (x.members cl).all fun n => !s.commInFlight n)

/-- Held messages land when their core enters a phase other than COMPUTE (R388). -/
def Comm.landHeld (c : Comm) : Comm :=
  { c with slots := c.slots.map fun x => match x.held with
      | some m => { x with full := true, msg := m, held := none }
      | none => x }

/-- What a release does to a member's phase (R242, R389): BARSS opens a compute phase and checkpoints the superstep of a
bulk thread (R435); PHASE opens a communication phase whose origin is the release clk. -/
def Core.enterPhase (c : Core) (kind : BarKind) (origin : Nat) : Core :=
  match kind with
  | .bar => c
  | .barss => c.setTrap fun t => { t with phase := 1 }
  | .phase => { c.setTrap (fun t => { t with phase := 2 }) with
      comm := { c.comm.landHeld with landing := Vector.replicate 16 none, t0 := origin } }
/-- The checkpoint of a superstep (R406, R435), at the word that issues next: `bar` is the barrier that opened it, or that the launch gave
the thread. -/
def Core.checkpoint (c : Core) (bar : Nat × Nat) : Core :=
  if c.task.isSome then { c with ckpt := some { regs := c.regs, comm := c.comm, bar := some bar } } else c

/-- A core with a yield request pending halts at the release of a BARSS (R242, R469), but not in a handler. -/
def Core.yieldAt (c : Core) : Core :=
  if c.yieldReq && !c.regs.trap.exl then { c.halt .yielded with yieldReq := false } else c

/-- Completes a barrier word at its release for one member: the phase, the next word from clk T on, and the predicate, which is visible a
clk after the resume (R243). DEDUCED (log 51). -/
def Core.released (c : Core) (bar : Nat × Nat) (T origin : Nat) (wr : Option (PReg × Bool)) (kind : BarKind) (pand por : Bool) : Core :=
  let c := (c.enterPhase kind origin).complete c.tmg.clk c.waitStall
  let c := { c with wait := .none, access := none, tmg := { c.tmg with clk := max c.tmg.clk T } }
  let c := match wr with
    | some (d, isOr) => c.setTmg fun m => { m with
        flights := m.flights ++ [{ land := m.clk + 1, locked := false, wr := .p d (if isOr then por else pand) }] }
    | none => c
  if kind = .barss then (c.checkpoint bar).yieldAt else c

/-- The logical time that a release gives a member: after every arrival, by an atomic at the unit (R234). -/
def State.afterArrivals (s : State) (n time : Nat) : State :=
  let c := s.core n
  (s.setCore n { c with lt := max c.lt (time + 1) }).coreWrite n (.evu (clusterOf n))

/-- Wakes one member at the release (R240, R243): its logical time follows every arrival, SPRED's predicate is written,
and a BARSS or PHASE changes its phase. `origin` is the release clk. -/
def State.releaseMember (s : State) (n T origin time : Nat) (pand por : Bool) : State :=
  let c := s.core n
  match c.wait with
  | .barrier b _ wr kind =>
    if c.mode ≠ .running then s
    else
      let j := match s.gangOf n with
        | some (g, j) => if g.split.contains j then 0 else j
        | none => 0
      let s := s.afterArrivals n time
      s.setCore n ((s.core n).released (clusterOf n, b.val) (T + j) origin wr kind pand por)
  | _ => s

/-- The child lies on the barrier's own die. -/
def nearChild (m : BarArrival) : Bool := m.pkg == Config.package && clusterDie m.fromCl == clusterDie m.cl

/-- A child arrival counted in the open generation, or held for the next when CARR would pass NCH (R239, R241). -/
def Barrier.child (x : Barrier) (m : BarArrival) : Barrier :=
  if x.nch ≤ x.carr then { x with held := x.held ++ [m] }
  else
    { x with carr := x.carr + 1, pand := x.pand && m.pand, por := x.por || m.por,
             sync := x.sync || (nearChild m && m.sync), height := if nearChild m then max x.height (m.height + 1) else x.height,
             children := x.children ++ [m], time := max x.time m.time, sup := m.sup }

/-- A barrier's state after its release `last`: a fresh generation into which the held child arrivals go (R239). -/
def Barrier.fresh (last : Nat × Nat × Bool × Bool) (x : Barrier) : Barrier :=
  let y := { x with gen := x.gen + 1, pand := true, por := false, carr := 0, arr := 0, contrib := [], sync := false,
                    height := 0, children := [], held := [], done := false, sent := false, clk := 0, last := last }
  x.held.foldl Barrier.child y

/-- The partition that a barrier is tagged for (R229). -/
def State.barrierTag (s : State) (cl b : Nat) : Option PTag :=
  let x := Tab.get 0#8 (s.cluster cl).rtag (rtagBarrier b)
  if x.getLsbD 7 then none else some (x.extractLsb' 0 6)

/-- A barrier sends its release, of unit clk T, to a child: one of its own die whose release has a stamp is there at once, as the stamp
says when it acts; any other takes its time (R241). -/
def State.sendRelease (s : State) (cl b T time : Nat) (sup pand por : Bool) (stamp : Option Nat) (m : BarArrival) : State :=
  let sync := nearChild m && stamp.isSome
  let r : BarRelease := { cl := m.fromCl, b := m.fromB, sup := sup, pand := pand, por := por, sameDie := nearChild m, sync := sync,
                          clk := if nearChild m then stamp.getD T else T, time := time }
  if m.pkg = Config.package then
    s.sendAt (T - 4 + (if sync then 0 else Config.releaseHop m.fromCl T)) (((s.cluster cl).barrier b).place cl)
      (((s.cluster m.fromCl).barrier m.fromB.val).place m.fromCl) ((s.barrierTag cl b).getD 0) sup (.barrierReleaseMessage r)
  else s.report (.remote (m.pkg * Config.coresPerPackage + m.fromCl * 24) (.barrierReleaseMessage r))

/-- A barrier releases at clk T (R239, R241, R243): its members, then a message to each child that arrived. `stamp` is
the clk of a die-synchronous release, to which a member's STALL hint adds. -/
def State.release (s : State) (cl b T time : Nat) (pand por : Bool) (stamp : Option Nat) : State :=
  let x := (s.cluster cl).barrier b
  let members := s.waitersAt cl b
  let s := s.tryInstalls
  let origin := stamp.getD T
  let s := s.onBarrier cl b (Barrier.fresh (origin, time, pand, por))
  let s := members.foldl (fun s n => s.releaseMember n (match stamp with
    | some r => r + 2 + (s.core n).waitStall
    | none => T + 6) origin time pand por) s
  x.children.foldl (fun s m => s.sendRelease cl b T time x.sup pand por stamp m) s

/-- The clk that a die root stamps its release with, where the release is die-synchronous (R241). -/
def Barrier.stamp (x : Barrier) (T : Nat) : Option Nat :=
  if x.sync || x.ss then some (T + 16 * ((x.height - 1) + 1)) else none

/-- A barrier that has completed its generation at clk T sends its arrival to its parent, once (R239). One whose parent is no core, or
lies in a fenced cluster or die, holds the generation. -/
def State.sendArrival (s : State) (cl b T : Nat) : State :=
  let x := (s.cluster cl).barrier b
  let s1 := s.onBarrier cl b fun x => { x with done := true }
  let gone := s1.onBarrier cl b fun x => { x with sent := true }
  let m : BarArrival := { cl := 0, b := x.pbar.toFin, pkg := Config.package, fromCl := cl, fromB := ⟨b % 32, Nat.mod_lt _ (by decide)⟩,
                          sup := x.sup, pand := x.pand, por := x.por, sync := x.sync || x.ss, height := x.height, time := x.time }
  if x.sent then s
  else if !s.coreExists (s.barrierTag cl b) (x.plcn.setWidth 64) then s1
  else match s.ofLcn (s.barrierTag cl b) x.plcn.toNat with
    | none => gone.report (.remote x.plcn.toNat (.barrierArrivalMessage m))
    | some p =>
      if (s.core p).mode = .fenced || s.dieFenced (dieOf p) then s1
      else gone.sendAt (max s.clk (T - 4) + Config.transit s.nextId) (x.place cl) p ((s.barrierTag cl b).getD 0) x.sup
        (.barrierArrivalMessage { m with cl := clusterOf p })

/-- A barrier that has completed its generation, by something that reached its unit at clk T, releases as the root, or sends its
arrival to its parent (R239); held child arrivals may complete the next one too, which `fuel` bounds. -/
def State.settleFrom (cl b T : Nat) : Nat → State → State
  | 0, s => s
  | fuel + 1, s =>
    let x := (s.cluster cl).barrier b
    if !s.barrierReady cl b then s
    else if x.chn then s.sendArrival cl b (max x.clk T)
    else
      let T := max x.clk T
      let s := s.release cl b T x.time x.pand x.por (x.stamp T)
      if x.held.isEmpty then s else State.settleFrom cl b T fuel s
/-- A barrier is looked at as something reaches its unit at clk T (R239). -/
def State.settleBarrier (s : State) (cl b T : Nat) : State :=
  State.settleFrom cl b T (((s.cluster cl).barrier b).held.length + 1) s

/-- BARRIER_ARRIVAL_MESSAGE (R239): the message reaches the unit 4 clk after the clk of the state, as a core's request does. -/
def execBarrierArrivalMessage (m : BarArrival) (s : State) : Host.Outcome State Fault Refusal :=
  let r := s.writeTime m.time (.evu m.cl)
  let T := s.clk + 4
  .next ((r.1.onBarrier m.cl m.b.val fun x => ({ x with clk := max x.clk T }).child { m with time := r.2 }).settleBarrier
    m.cl m.b.val T)

/-- BARRIER_RELEASE_MESSAGE (R239, R241): the barrier releases its members and forwards the release; a barrier whose
parent lies on another die stamps its own. One that has not completed its generation has nothing to release. -/
def execBarrierReleaseMessage (m : BarRelease) (s : State) : Host.Outcome State Fault Refusal :=
  let x := (s.cluster m.cl).barrier m.b.val
  if !x.sent then .next s
  else
    let T := if m.sync then m.clk else s.clk + 4
    let s := s.release m.cl m.b.val T (max x.time m.time) m.pand m.por
      (if m.sameDie then (if m.sync then some m.clk else none) else x.stamp T)
    .next (if x.held.isEmpty then s else s.settleBarrier m.cl m.b.val T)

/-- Every barrier of a cluster that waited for messages to land is looked at again (R242). -/
def State.recheckBarriers (s : State) (cl : Nat) : State :=
  (List.range 32).foldl (fun s b =>
    if (s.waitersAt cl b).isEmpty then s else s.settleBarrier cl b s.clk) s

/-- A core's arrival at a barrier of its cluster (R240, R242, R243). -/
def arriveAt (i : Instr) (b : BitVec 5) (contrib : Option Bool) (wr : Option (PReg × Bool)) (sync : Bool) (kind : BarKind)
    (s : State) : Eff :=
  let n := s.cur
  let cl := clusterOf n
  let x := (s.cluster cl).barrier b.toNat
  if s.evuDenied (rtagBarrier b.toNat) then .trap s .bounds (evuAddr (0x300 + 32 * b.toNat)) 0
  else if !x.en || !x.mask.getLsbD (indexOf n) then .trap s .illegalOpc 0x0D 0
  else
    let s := s.evuWrite
    let lt := s.cc.lt
    let t := s.cc.tmg.clk
    let s := s.onBarrier cl b.toNat fun x =>
      { x with arr := x.arr ||| (1#24 <<< indexOf n), pand := x.pand && contrib.getD true,
               por := x.por || contrib.getD false, contrib := x.contrib ++ [(n, (contrib.getD true, contrib.getD false))],
               sync := x.sync || sync, time := max x.time lt, clk := max x.clk (t + 4), sup := s.cc.regs.trap.sup }
    .sleep ((s.sleepIn (.barrier b.toFin x.gen wr kind) i).settleBarrier cl b.toNat (t + 4))

def execBar (h : Hdr) (b : BitVec 5) (s : State) : Host.Outcome State Fault Refusal :=
  issueWord h 0 0 0 {} (arriveAt (.bar h b) b none none false .bar) s
def execBarss (h : Hdr) (b : BitVec 5) (s : State) : Host.Outcome State Fault Refusal :=
  issueWord h 0 0 0 {} (arriveAt (.barss h b) b none none true .barss) s
def execSpred (h : Hdr) (d a : PReg) (isOr : Bool) (b : BitVec 5) (s : State) : Host.Outcome State Fault Refusal :=
  issueWord h 0 0 0 { srcs := [opP a], dsts := [opP d] }
    (fun s => arriveAt (.spred h d a isOr b) b (some (s.cc.rdP a)) (some (d, isOr)) false .bar s) s

/-- A ST to BCFG b that reaches the unit at clk T (R232, R239): pending arrivals stay, and a generation that the new configuration
completes is completed at once. An arrival that has been sent is not sent again. DEDUCED (log 53). -/
def State.bcfgStore (s : State) (cl b T : Nat) (x : BitVec 64) : State :=
  let s := s.onBarrier cl b fun y =>
    { y with en := x.getLsbD 63, ss := x.getLsbD 62, pbar := x.extractLsb' 57 5, chn := x.getLsbD 56,
             plcn := x.extractLsb' 32 18, nch := x.extractLsb' 24 5, mask := x.extractLsb' 0 24, done := y.done && y.sent }
  let y := (s.cluster cl).barrier b
  if y.arr = 0 && y.carr = 0 then s else s.settleBarrier cl b T

/-- BCFG_WRITE: a store to a barrier's configuration takes effect at the unit's clk edge (R232, R235). -/
def execBcfgWrite (cl : Nat) (b : Fin 32) (x : BitVec 64) (s : State) : Host.Outcome State Fault Refusal :=
  .next (s.bcfgStore cl b.val (s.clk + 4) x)

/-- A logical number that a partition's table gives to a core of another package (R415, R472). -/
def State.farCore (s : State) (p : PTag) (l : Nat) : Bool :=
  let b := (s.part p.toNat).lbase.toNat
  (s.ofLcn (some p) l).isNone && decide (b ≤ l) && decide (l < b + (s.part p.toNat).lcount.toNat) &&
    (xltCore (s.xltEntry p (l - b))).isSome
/-- The checks of R232 that a user's ST to BCFG must pass. -/
def State.bcfgAllowed (s : State) (n : Nat) (x : BitVec 64) : Bool :=
  let first := clusterOf n * 24
  let t := (s.core n).ctag
  let l := x.extractLsb' 32 18
  (List.range 24).all (fun i => !x.getLsbD i || (s.core (first + i)).ctag == t) &&
    (!x.getLsbD 56 || (s.coreExists t (l.setWidth 64) && match s.ofLcn t l.toNat with
      | some p => (s.core p).ctag == t
      | none => t.any fun p => s.farCore p l.toNat))

/-- A barrier without the arrival of core n, whose task is abandoned; one that has completed its generation keeps it (R244).
DESIGN CHOICE (log 184). -/
def Barrier.withdrawn (n : Nat) (x : Barrier) : Barrier :=
  if x.done then x
  else
    let cs := x.contrib.filter (·.1 != n)
    { x with arr := x.arr &&& ~~~(1#24 <<< indexOf n), contrib := cs,
             pand := cs.all (·.2.1) && x.children.all (·.pand),
             por := cs.any (·.2.2) || x.children.any (·.por) }
/-- An arrival is withdrawn when its task is abandoned before the generation completes (R244). -/
def State.withdraw (s : State) (n : Nat) : State :=
  match (s.core n).wait with
  | .barrier b .. => s.onBarrier (clusterOf n) b.val (Barrier.withdrawn n)
  | _ => s

/-! ## Reading the unit (R230 to R233) -/

def Mutex.word (s : State) (m : Mutex) : Word :=
  match m.owner with
  | some n => (1#64 <<< 63) ||| (BitVec.ofNat 64 m.waiters.length <<< 32) ||| BitVec.ofNat 64 (s.lcn n)
  | none => 0
def Barrier.cfgWord (b : Barrier) : Word :=
  ((BitVec.ofBool b.en).setWidth 64 <<< 63) ||| ((BitVec.ofBool b.ss).setWidth 64 <<< 62) |||
    (b.pbar.setWidth 64 <<< 57) ||| ((BitVec.ofBool b.chn).setWidth 64 <<< 56) ||| (b.plcn.setWidth 64 <<< 32) |||
    (b.nch.setWidth 64 <<< 24) ||| b.mask.setWidth 64
def Barrier.statWord (b : Barrier) : Word :=
  (b.gen.setWidth 64 <<< 32) ||| ((BitVec.ofBool b.pand).setWidth 64 <<< 30) |||
    ((BitVec.ofBool b.por).setWidth 64 <<< 29) ||| (b.carr.setWidth 64 <<< 24) ||| b.arr.setWidth 64

/-- An offset of window 0x04 inside its map (R228). -/
def evuOffsetOk (off : Nat) : Bool :=
  off % 8 == 0 && (decide (off < 0x300) || (decide (off < 0x700)) || (decide (0x800 ≤ off) && decide (off < 0x880)))

/-- The resource of an offset, as its RTAG byte and the address of its register; none for the RTAG bytes themselves. -/
def evuResource (off : Nat) : Option (Nat × Nat) :=
  if off < 0x200 then some (rtagLine (off / 8), off)
  else if off < 0x300 then some (rtagMutex ((off - 0x200) / 8), off)
  else if off < 0x700 then some (rtagBarrier ((off - 0x300) / 32), off)
  else none

/-- What a LD.d of the unit reads. DEDUCED (log 50). -/
def State.evuRead (s : State) (cl off : Nat) : Word :=
  let c := s.cluster cl
  if off < 0x200 then (c.line (off / 8)).count.setWidth 64
  else if off < 0x300 then Mutex.word s (c.mutex ((off - 0x200) / 8))
  else if off < 0x700 then
    let b := c.barrier ((off - 0x300) / 32)
    if (off - 0x300) % 32 = 0 then b.cfgWord else if (off - 0x300) % 32 = 8 then b.statWord else 0
  else ofBytes 64 ((List.range 8).map fun i => Tab.get 0#8 c.rtag (off - 0x800 + i))

/-- What a ST.d of the unit does at clk T; a write of a read-only register has no effect (R3). -/
def State.evuStore (s : State) (cl off T : Nat) (x : Word) : State :=
  if off < 0x200 then (match s.lineOut cl (off / 8) with
    | some p => s.hold p cl (.evcWrite cl ⟨off / 8 % 64, Nat.mod_lt _ (by decide)⟩ x)
    | none => s.evcStore cl (off / 8) T x)
  else if off < 0x300 then s
  else if off < 0x700 then
    (if (off - 0x300) % 32 = 0 then s.bcfgStore cl ((off - 0x300) / 32) T x else s)
  else
    let c := s.cluster cl
    s.setCluster cl { c with rtag := (List.range 8).foldl (fun r i =>
      Tab.set r (off - 0x800 + i) (x.extractLsb' (8 * i) 8 &&& 0xBF#8)) c.rtag }

/-! ## Packets at ejection (R450, R467, R477) -/

/-- The partition whose context a delivery needs, with the cluster: the tag of the line or barrier it names, else the
sender's. DEDUCED (log 57). -/
def State.deliveryTag (s : State) (k : Packet) : Option PTag :=
  match k.ev with
  | .eventMessage m =>
    let x := Tab.get 0#8 (s.cluster m.cl).rtag (rtagLine m.line.val)
    if x.getLsbD 7 then none else some (x.extractLsb' 0 6)
  | .barrierArrivalMessage m => s.barrierTag m.cl m.b.val
  | .barrierReleaseMessage m => s.barrierTag m.cl m.b.val
  | _ => some k.tag

/-- A packet is gone: a barrier that waited for it to land is looked at again (R242). -/
def State.lostPacket (s : State) (k : Packet) : State := s.recheckBarriers (clusterOf k.src)

/-- A delivery acts on a core of its sender's partition. -/
def actsOnCore : Instr → Bool
  | .channelMessageLand .. | .channelClaim _ | .channelClaimAnswer .. | .channelGrant .. | .timedMessageLand .. => true
  | _ => false

/-- A packet is delivered, or held while the context it is addressed to is out (R467). One for a core of a partition that has no context
there, in or out, has nowhere to go. DEDUCED (log 57). -/
def State.deliver (s : State) (k : Packet) : State :=
  let cl := clusterOf k.dst
  match s.deliveryTag k with
  | some p =>
    if s.ctxOut cl p then s.hold p cl k.ev
    else if actsOnCore k.ev && (s.core k.dst).ctag != some p then s.lostPacket k
    else s.owe k.ev
  | none => s.owe k.ev

/-- A dropped packet is counted for a partition (R472). -/
def State.countDrop (s : State) (p : Option PTag) : State :=
  match p with
  | some p => s.onPart p.toNat fun x => { x with tagdrop := satInc x.tagdrop }
  | none => s

/-- The router's check of R450 and R477 passes a packet. -/
def State.admits (s : State) (k : Packet) : Bool := k.sup || (!s.isServer k.dst && (s.slotsOf k.dst).contains k.tag)

/-- A packet leaves the network (R450, R477): what fails the router's check is dropped and counted. -/
def State.eject (s : State) (k : Packet) : State :=
  if s.admits k then s.deliver k
  else if s.isServer k.dst then (s.countDrop (some k.tag)).lostPacket k
  else (s.countDrop ((s.core k.dst).ctag.orElse fun _ => (s.slotsOf k.dst).head?)).lostPacket k

end Sys2Proof.Machine
end

