-- ==== Sys2Proof/Machine/LocalMem.lean ====
section
/-! DEFINITION. Local memories and opcodes 0x18 to 0x1D (R153 to R182): windows and checks, the scratchpad's banks and
protection, scalar, mask, vector, image, lane, gather and scatter accesses. -/
namespace Sys2Proof.Machine
open Sys2Proof

/-! ## Windows and checks (R153 to R155) -/

/-- Where a checked local address lies. -/
inductive Place where
  | spad (own : Bool) (core off : Nat)
  | chip (die off : Nat)
  | evu (off : Nat)
  deriving DecidableEq, Repr

/-- A range of a chip scratchpad touches a fenced slice (R531). -/
def Die.sliceDown (d : Die) (off len : Nat) : Bool :=
  d.chipFenced.any fun i => decide (off < (i + 1) * 1048576) && decide (i * 1048576 < off + len)

/-- Window, field and bound checks of an access of `len` bytes by core n (R153, R154). -/
def State.windowOf (s : State) (n : Nat) (a : Word) (len : Nat) : Option Place :=
  let x := a.toNat
  let off := x % 2 ^ 48
  if a.extractLsb' 57 7 ≠ 0 ∨ a.getLsbD 56 = false then none
  else match (a.extractLsb' 48 8).toNat with
    | 0 => if off + len ≤ Config.spadBytes then some (.spad true n off) else none
    | 1 =>
      let c := x / 2 ^ 20 % 32
      let o := x % 2 ^ 20
      if a.extractLsb' 25 23 = 0 ∧ c ≤ 23 ∧ o + len ≤ Config.spadBytes then some (.spad false (clusterOf n * 24 + c) o)
      else none
    | 2 => if off + len ≤ Config.chipBytes ∧ (s.die (dieOf n)).sliceDown off len = false then some (.chip (dieOf n) off) else none
    | 3 =>
      let o := x % 2 ^ 32
      let d := s.physDie (x / 2 ^ 32 % 8)
      if a.extractLsb' 35 13 = 0 ∧ o + len ≤ Config.chipBytes ∧ d ≠ 31 ∧ (s.die d).sliceDown o len = false then some (.chip d o)
      else none
    | 4 => if a.extractLsb' 12 36 = 0 then some (.evu (x % 4096)) else none
    | _ => none

/-- The tag of a slice of a chip scratchpad, where the layout assigns one (R155, R524). -/
def Die.sliceOf (d : Die) (sl : Nat) : Option PTag := (d.sliceTag.find? (·.1 == sl)).map (·.2)

/-- The partition-tag check of user mode (R155), for a partition tag. -/
def State.placeOwned (s : State) (n : Nat) (len : Nat) : Place → Bool
  | .spad own c _ => own || (s.core c).ctag == (s.core n).ctag
  | .chip d off =>
    let p := some (s.core n).ptag
    (List.range ((off + len - 1) / 1048576 + 1 - off / 1048576)).all fun i => (s.die d).sliceOf (off / 1048576 + i) == p
  | .evu _ => true

/-- The place is an event unit's. -/
def Place.isEvu : Place → Bool
  | .evu _ => true
  | _ => false

/-- Every check of a local access (R154, R155, R182): the place, or the cause of the trap whose XVAL is the address. A form that
may not name an event unit finds that out before it looks at the alignment. -/
def State.checkLocal (s : State) (n : Nat) (user : Bool) (a : Word) (len align : Nat) : Except Cause Place :=
  match s.windowOf n a len with
  | none => .error .bounds
  | some p =>
    if user && !s.placeOwned n len p then .error .bounds
    else if p.isEvu = false ∧ a.toNat % align ≠ 0 then .error .align
    else .ok p

/-- The home of a place for logical time (R199). -/
def Place.home (cl : Nat) : Place → HomeId
  | .spad _ c _ => .spad c
  | .chip d off => .slice d (off / 1048576)
  | .evu _ => .evu cl
/-- The homes of `len` bytes of a place: one, but for a range that crosses from one slice of a chip scratchpad into another (R199). -/
def Place.homes (cl len : Nat) : Place → List HomeId
  | .chip d off => (List.range ((off + len - 1) / 1048576 + 1 - off / 1048576)).map fun i => .slice d (off / 1048576 + i)
  | p => [p.home cl]
/-- A core-path access at each of its homes, in ascending order (R199). -/
def State.coreReads (s : State) (n : Nat) (hs : List HomeId) : State := hs.foldl (fun s h => s.coreRead n h) s
def State.coreWrites (s : State) (n : Nat) (hs : List HomeId) : State := hs.foldl (fun s h => s.coreWrite n h) s

def State.readPlace (s : State) (n : Nat) : Place → List Byte
  | .spad _ c off => (s.core c).spad.bytes off n
  | .chip d off => (s.die d).chip.bytes off n
  | .evu _ => []

/-! ## Protection (R163 to R167) -/

/-- The bank of a scratchpad word: inside an enabled swizzle region the permuted one (R161, R169). -/
def bankFold (x : Nat) : Nat := x % 16 ^^^ (x / 16 % 16) ^^^ (x / 256 % 16) ^^^ (x / 4096 % 16)
def Core.bank (c : Core) (w : Nat) : Nat :=
  let r := w / 16
  match c.regs.swz.toList.find? fun z => z.getLsbD 63 &&
      decide ((z.extractLsb' 0 10).toNat ≤ r) &&
      decide (r < min ((z.extractLsb' 0 10).toNat + (z.extractLsb' 16 10).toNat) 768) with
  | some z =>
    let u := w - 16 * (z.extractLsb' 0 10).toNat
    (u % 16) ^^^ bankFold (u / 16)
  | none => w % 16

/-- The row and the bank of a word: a data word, or one of the two check words of its row (R161). -/
def wordRow (w : Nat) : Nat := if w < 12288 then w / 16 else (w - 12288) / 2
def Core.wordBank (c : Core) (w : Nat) : Nat := if w < 12288 then c.bank w else 16 + (w - 12288) % 2
/-- The 18 words of a row. -/
def rowWords (r : Nat) : List Nat := ((List.range 16).map (16 * r + ·)) ++ [12288 + 2 * r, 12288 + 2 * r + 1]
/-- A word that SECDED alone does not give: uncorrectable, or in a failed bank (R164, R165). -/
def Core.wordGone (c : Core) (w : Nat) : Bool :=
  c.spadHard.contains w || c.spadBad.contains w || c.fail.getLsbD (c.wordBank w)
/-- The row code gives up to two words of a row (R163, R165); an uncorrectable word of a row that lacks more, or one whose data is lost
for good, is not recovered (R166). -/
def Core.wordLost (c : Core) (w : Nat) : Bool :=
  c.spadBad.contains w || (c.wordGone w && decide (2 < ((rowWords (wordRow w)).filter c.wordGone).length))
/-- The data words of a scratchpad that are lost. -/
def Core.lostWords (c : Core) : List Nat :=
  let rows := if (List.range 18).countP (fun b => c.fail.getLsbD b) < 3 then ((c.spadBad ++ c.spadHard).map wordRow).eraseDups
    else List.range 768
  rows.flatMap fun r => ((rowWords r).filter fun w => decide (w < 12288)).filter c.wordLost

/-- A store to a run of bytes renews the codes of the words it writes and the check words of their rows (R163): a whole word is as
written; a part of a word that can be read is merged with its rest; a part of a lost word leaves it lost. -/
def Core.renew (c : Core) (off len : Nat) : Core :=
  let full := wordsCovered off len
  let fresh := fun w => full.contains w || ((wordsOf off len).contains w && !c.wordLost w) ||
    (decide (12288 ≤ w) && (wordsOf off len).any fun v => wordRow v == wordRow w)
  { c with spadBad := c.spadBad.filter (!fresh ·), spadHard := c.spadHard.filter (!fresh ·),
           spadSoft := c.spadSoft.filter (!fresh ·), ueSeen := c.ueSeen.filter (!fresh ·) }

def State.writePlace (s : State) (p : Place) (bs : List Byte) : State :=
  match p with
  | .spad _ c off =>
    let k := (s.core c).renew off bs.length
    s.setCore c { k with spad := k.spad.setBytes off bs }
  | .chip d off =>
    let k := s.die d
    let full := wordsCovered off bs.length
    s.setDie d { k with chip := k.chip.setBytes off bs, chipBad := k.chipBad.filter (!full.contains ·)
                        chipOk := if k.chipLost then (k.chipOk ++ full).eraseDups else k.chipOk }
  | .evu _ => s

/-- A bank has one uncorrectable word more; at its second it is marked failed (R165). -/
def Core.countUe (c : Core) (w : Nat) : Core :=
  let b := c.wordBank w
  let k := Tab.get 0 c.ueCount b + 1
  { c with ueCount := Tab.set c.ueCount b k, fail := if 2 ≤ k then c.fail ||| BitVec.ofNat 18 (1 <<< b) else c.fail }

/-- A word that SECDED cannot correct is rebuilt by the row code, written back and counted (R164). -/
def Core.rebuild (c : Core) (w : Nat) : Core :=
  ({ c with spadHard := c.spadHard.filter (· != w), rccnt := satInc c.rccnt } : Core).countUe w

/-- The words of a scratchpad that a read of some words takes: where one of them needs the row code, the rest of its row too, with its
check words (R164). The words of a failed bank hold nothing that is read. -/
def Core.readSet (c : Core) (ws : List Nat) : List Nat :=
  let rows := ((ws.filter c.wordGone).map wordRow).eraseDups
  (ws ++ (rows.flatMap rowWords).filter fun w => !c.fail.getLsbD (c.wordBank w)).eraseDups

/-- What reading words does to a scratchpad's own state: a flipped bit is corrected in place and counted (R529), every read of a word in
a failed bank is one of the row code, and a lost word counts once for its bank until it is rewritten (R164, R165, R166, R167). -/
def Core.readWords (c : Core) (ws : List Nat) : Core :=
  (c.readSet ws).foldl (fun c w =>
    if c.wordLost w then
      let c := { c with ue := true }
      if c.fail.getLsbD (c.wordBank w) || c.ueSeen.contains w then c else { c.countUe w with ueSeen := w :: c.ueSeen }
    else if c.fail.getLsbD (c.wordBank w) then { c with rccnt := satInc c.rccnt }
    else if c.spadHard.contains w then c.rebuild w
    else if c.spadSoft.contains w then { c with cecnt := satInc c.cecnt, spadSoft := c.spadSoft.filter (· != w) } else c) c

/-- How many banks are marked failed. -/
def failCount (x : BitVec 18) : Nat := (List.range 18).foldl (fun k i => if x.getLsbD i then k + 1 else k) 0

/-- A word of a chip scratchpad is uncorrectable (R166, R499). -/
def Die.chipWordBad (d : Die) (w : Nat) : Bool := d.chipBad.contains w || (d.chipLost && !d.chipOk.contains w)

/-- A read touches a place: whether a word of it is uncorrectable (R166), with the counts and, at a third failed bank, the
core failure it causes. -/
def State.scan (s : State) (p : Place) (len : Nat) : State × Bool :=
  match p with
  | .spad _ c off =>
    let k := s.core c
    let ws := wordsOf off len
    let k' := k.readWords ws
    let s := s.setCore c k'
    let s := ((k.readSet ws).filter fun w => !k.wordLost w && !k.fail.getLsbD (k.wordBank w) &&
        (k.spadHard.contains w || k.spadSoft.contains w)).foldl (fun s w =>
      s.suspect (.bank c ⟨k.wordBank w % 18, Nat.mod_lt _ (by decide)⟩) 1) s
    (if failCount k.fail < 3 && decide (3 ≤ failCount k'.fail) then s.owe (.coreFailure c) else s,
      ws.any k.wordLost)
  | .chip d off => (s, (wordsOf off len).any (s.die d).chipWordBad)
  | .evu _ => (s, false)

/-- A read of core n touches a place: an uncorrectable word is a detected error as well (R166, R455). -/
def State.touch (s : State) (n : Nat) (p : Place) (len : Nat) : State × Bool :=
  let r := s.scan p len
  (if r.2 then r.1.postError 1 (s.core n).ptag n else r.1, r.2)

/-! ## Timing of accesses (R157, R162) -/

/-- An access to the own scratchpad in `passes` bank passes delays the next issue (R162). -/
def State.passes (s : State) (p : Nat) : State := s.setCc (s.cc.setTmg fun m => { m with clk := m.clk + p })

/-- The passes of an access at an address: one outside the own scratchpad adds nothing (R162). -/
def State.ownPasses (s : State) (a : Word) (p : Nat) : State :=
  match s.windowOf s.cur a 1 with
  | some (.spad true _ _) => s.passes p
  | _ => s

/-- The least clk that a read of a place takes where its latency is variable; 0 for the own scratchpad, whose latency is fixed (R157). -/
def Place.slip : Place → Nat
  | .spad true _ _ => 0
  | .spad false _ _ => 10
  | .chip _ _ => 40
  | .evu _ => 3
/-- A load's result (R157): of fixed latency from the own scratchpad, its passes counted; of variable latency from elsewhere. -/
def Core.loaded (c : Core) (t passes slip : Nat) (w : Wr) : Core :=
  if slip = 0 then c.result t (2 + passes) w else c.slipAfter slip w

/-! ## Range scoreboard (R160) -/

/-- The range of the scoreboard that an access of core n names (R358, R359): windows naming one memory compare equal, and
global addresses are compared by virtual address. -/
def State.rangeOf (s : State) (n : Nat) (a : Word) (len : Nat) : Option Range :=
  if a.getLsbD 56 then
    match s.windowOf n a len with
    | some (.spad _ c off) => some ⟨.spad c, off, off + len⟩
    | some (.chip d off) => some ⟨.chip d, off, off + len⟩
    | _ => none
  else some ⟨.va, a.toNat, a.toNat + len⟩

/-- Two ranges share a byte. -/
def Range.meets (x y : Range) : Bool := x.space == y.space && decide (x.lo < y.hi) && decide (y.lo < x.hi)

/-- The commands of the current core that hold an access of it (R160, R359), by class and number. -/
def State.holders (s : State) (a : Word) (len : Nat) : List (Fin 4 × Nat) :=
  match s.rangeOf s.cur a len with
  | none => []
  | some r => (s.cc.eng.cmds.filter fun c => (c.src.any r.meets) || (c.dst.any r.meets)).map fun c => (c.cls, c.seq)

/-- An access that a copy in flight holds at issue (R160). -/
def State.rangeHeld (s : State) (a : Word) (len : Nat) : Bool := !(s.holders a len).isEmpty

/-- The word is held at issue; the core remembers the commands that held it (R359). -/
def State.noteHold (s : State) (xs : List (Fin 4 × Nat)) : State :=
  s.setCc { s.cc with eng := { s.cc.eng with heldBy := (xs ++ s.cc.eng.heldBy).eraseDups } }
/-- A word held by an overlap with one range. -/
def holdOn (s : State) (a : Word) (len : Nat) : Eff := .stall (s.noteHold (s.holders a len))
/-- A word held by an overlap with one of the 8-byte words that the active lanes name. -/
def holdLanes (s : State) (m : Mask) (adr : Nat → Word) : Eff :=
  .stall (s.noteHold ((List.range 16).flatMap fun l => if m.getLsbD l then s.holders (adr l) 8 else []))

/-- A form of this chapter names a register that is bound to a stream (R181): the operand number. -/
def Core.streamOperand (c : Core) (xs : List (BitVec 7)) : Option (BitVec 7) :=
  xs.find? fun x => isV x && (c.bound (vOf x)).isSome

/-- The commands that hold the registers of a group from number `m` on, and an image's tag word (R160): each range that the form accesses
is compared by itself. -/
def State.groupHolders (s : State) (a : Word) (m n : Nat) (img : Bool) : List (Fin 4 × Nat) :=
  ((List.range n).filter (m ≤ ·)).flatMap (fun i => s.holders (a + BitVec.ofNat 64 (128 * i)) 128) ++
    if img then s.holders (a + BitVec.ofNat 64 (128 * n)) 8 else []
/-- A group form held at issue by an overlap, or else its effect. -/
def groupHold (a : Word) (m n : Nat) (img : Bool) (k : State → Eff) (s : State) : Eff :=
  let xs := s.groupHolders a m n img
  if xs.isEmpty then k s else .stall (s.noteHold xs)

/-- The stream check that stands before a local or global access (R181, R182). -/
def noStream (xs : List (BitVec 7)) (k : State → Eff) (s : State) : Eff :=
  match s.cc.streamOperand xs with
  | some x => .trap s .stream (x.setWidth 64) 0
  | none => k s

/-! ## Scalar and mask accesses (R176) -/

/-- The bytes of a size field (R173). -/
def sizeOf (sz : BitVec 2) : Nat := 1 <<< sz.toNat

/-- A loaded value, extended to a register (R176). -/
def extendLoad (sz : BitVec 2) (zx : Bool) (bs : List Byte) : Word :=
  match sz.toNat with
  | 0 => if zx then (ofBytes 8 bs).setWidth 64 else (ofBytes 8 bs).signExtend 64
  | 1 => if zx then (ofBytes 16 bs).setWidth 64 else (ofBytes 16 bs).signExtend 64
  | 2 => if zx then (ofBytes 32 bs).setWidth 64 else (ofBytes 32 bs).signExtend 64
  | _ => ofBytes 64 bs

/-- The address of a base and displacement (R176). -/
def Core.addr (c : Core) (a : GReg) (imm : BitVec 32) : Word := c.rdG a + sextImm imm

/-- A load of `len` bytes from a place into one register; an uncorrectable word is a precise POISON trap (R166). -/
def loadScalar (a : Word) (len : Nat) (p : Place) (wr : List Byte → Wr) (s : State) : Eff :=
  let n := s.cur
  let r := s.touch n p len
  if r.2 then .trap r.1 .poison a 0
  else
    let s := r.1.coreRead n (p.home (clusterOf n))
    .done (s.setCc (s.cc.loaded s.cc.tmg.clk 1 p.slip (wr (s.readPlace len p))))

def execLd (h : Hdr) (d a : GReg) (sz : BitVec 2) (zx : Bool) (imm : BitVec 32) (s : State) :
    Host.Outcome State Fault Refusal :=
  issueWord h 0 0 0 { srcs := [opG a], dsts := [opG d] } (fun s =>
    let n := s.cur
    let c := s.cc
    let x := c.addr a imm
    let len := sizeOf sz
    if s.rangeHeld x len then holdOn s x len
    else match s.checkLocal n (!c.regs.trap.sup) x len 1 with
      | .error k => .trap s k x 0
      | .ok (.evu off) =>
        if sz ≠ 3 ∨ evuOffsetOk off = false then .trap s .bounds x 0
        else if (match evuResource off with
            | some (r, _) => s.evuDenied r
            | none => false) then .trap s .bounds x 0
        else
          let s := s.coreRead n (.evu (clusterOf n))
          let c := s.cc.slipResult (.g d (s.evuRead (clusterOf n) off))
          .done (s.setCc c)
      | .ok p =>
        if x.toNat % len ≠ 0 then .trap s .align x 0
        else loadScalar x len p (fun bs => .g d (extendLoad sz zx bs)) s) s

/-- The memory of a place and the position in it; event units hold none. -/
def Place.store : Place → Option (Store × Nat)
  | .spad _ c off => some (.spad c, off)
  | .chip d off => some (.chip d, off)
  | .evu _ => none

/-- A store of bytes to a place on the core path (R159, R199), which agents of other paths need not see before a fence (R206). -/
def storePlace (p : Place) (bs : List Byte) (s : State) : State :=
  let homes := p.homes (clusterOf s.cur) bs.length
  let was := homes.foldl (fun (k : Nat) h => max k (s.home h).1) 0
  let t := s.coreWrites s.cur homes
  (match p.store with
    | some x => t.noteStore s.cur was x.1 x.2 (s.readPlace bs.length p)
    | none => t).writePlace p bs

def execSt (h : Hdr) (a b : GReg) (sz : BitVec 2) (imm : BitVec 32) (s : State) : Host.Outcome State Fault Refusal :=
  issueWord h 0 0 0 { srcs := [opG a, opG b] } (fun s =>
    let n := s.cur
    let cl := clusterOf n
    let c := s.cc
    let x := c.addr a imm
    let len := sizeOf sz
    let v := c.rdG b
    if s.rangeHeld x len then holdOn s x len
    else match s.checkLocal n (!c.regs.trap.sup) x len 1 with
      | .error k => .trap s k x 0
      | .ok (.evu off) =>
        if sz ≠ 3 ∨ evuOffsetOk off = false then .trap s .bounds x 0
        else if (match evuResource off with
            | some (r, _) => s.evuDenied r
            | none => !c.regs.trap.sup) then .trap s .bounds x 0
        else if decide (0x300 ≤ off) && decide (off < 0x700) && (off - 0x300) % 32 == 0 && !c.regs.trap.sup &&
            !s.bcfgAllowed n v then .trap s .bounds x 0
        else .done (s.evuWrite.evuStore cl off (c.tmg.clk + 4) v)
      | .ok p =>
        if x.toNat % len ≠ 0 then .trap s .align x 0
        else .done (storePlace p (toBytes len v) s)) s

def execKld (h : Hdr) (d : KReg) (a : GReg) (imm : BitVec 32) (s : State) : Host.Outcome State Fault Refusal :=
  issueWord h 0 0 0 { srcs := [opG a], dsts := [opK d] } (fun s =>
    let x := s.cc.addr a imm
    if s.rangeHeld x 16 then holdOn s x 16
    else match s.checkLocal s.cur (!s.cc.regs.trap.sup) x 16 16 with
      | .error k => .trap s k x 0
      | .ok (.evu _) => .trap s .bounds x 0
      | .ok p => loadScalar x 16 p (fun bs => .k d (ofBytes 128 bs)) s) s

def execKst (h : Hdr) (a : GReg) (b : KReg) (imm : BitVec 32) (s : State) : Host.Outcome State Fault Refusal :=
  issueWord h 0 0 0 { srcs := [opG a, opK b] } (fun s =>
    let x := s.cc.addr a imm
    if s.rangeHeld x 16 then holdOn s x 16
    else match s.checkLocal s.cur (!s.cc.regs.trap.sup) x 16 16 with
      | .error k => .trap s k x 0
      | .ok (.evu _) => .trap s .bounds x 0
      | .ok p => .done (storePlace p (toBytes 16 (s.cc.rdK b)) s)) s

/-! ## Vector accesses and images (R177, R178) -/

/-- The registers of a group (R38). -/
def groupReg (r : VReg) (i : Nat) : VReg := ⟨(r.val + i) % 48, Nat.mod_lt _ (by decide)⟩
/-- The size of a group field (R173). -/
def groupSize (x : BitVec 2) : Nat := 1 <<< x.toNat
/-- The operand numbers of a group. -/
def groupNums (r : VReg) (x : BitVec 2) : List (BitVec 7) := (List.range (groupSize x)).map fun i => opV (groupReg r i)

/-- Lane l of a register. -/
def lane (x : VData) (l : Nat) : Word := x.extractLsb' (64 * l) 64
/-- A register of its lanes. -/
def ofLanes (f : Nat → Word) : VData := (List.range 16).foldl (fun x l => x ||| ((f l).setWidth 1024 <<< (64 * l))) 0

/-- Every lane is below its modulus of a set (R78). -/
def Core.residuesOk (c : Core) (m : Fin 4) (x : VData) : Bool :=
  (List.range 16).all fun l => decide ((lane x l).toNat < (c.regs.mods[m].mq.getD l 0).toNat)

/-- The tag that a register image's tag byte loads as (R78, R80, R178). -/
def Core.imageTag (c : Core) (t : Tag) (x : VData) : Tag :=
  if t.extractLsb' 0 6 = 0x10#6 then (if c.residuesOk (fin4 (t.extractLsb' 6 2)) x then t else poisonTag)
  else tagOrPoison t

/-- The tag byte of a register inside its image's tag word. -/
def tagByte (tw : Word) (i : Nat) : Tag := tw.extractLsb' (8 * i) 8

/-- A place of a vector form: the event unit is not reached (R154). -/
def State.checkVec (s : State) (a : Word) (len align : Nat) : Except Cause Place :=
  match s.checkLocal s.cur (!s.cc.regs.trap.sup) a len align with
  | .ok (.evu _) => .error .bounds
  | r => r

/-- Loads register i of a group and those after it (R177, R178); `tw` is the tag word of an image with whether it is
uncorrectable, or none for VLD with its tag. `left` counts the registers to go, and `passes` times the results. -/
def loadGroup (a : Word) (d : VReg) (tag : Tag) (tw : Option (Word × Bool)) (t passes : Nat) : Nat → Nat → State → Eff
  | 0, _, s => .done (s.ownPasses a passes)
  | left + 1, i, s =>
    let x := a + BitVec.ofNat 64 (128 * i)
    match s.checkVec x 128 8 with
    | .error k => .trap s k x (BitVec.ofNat 3 i)
    | .ok p =>
      let r := s.touch s.cur p 128
      let s := r.1.coreReads r.1.cur (p.homes (clusterOf r.1.cur) 128)
      let bits := ofBytes 1024 (s.readPlace 128 p)
      let tg := match tw with
        | none => tag
        | some (w, bad) => if bad then poisonTag else s.cc.imageTag (tagByte w i) bits
      let s := s.setCc (s.cc.loaded t passes p.slip (.v (groupReg d i) ⟨bits, if r.2 then poisonTag else tg⟩))
      loadGroup a d tag tw t passes left (i + 1) s

/-- Stores register i of a group and those after it, then the tag word of an image (R177, R178); `n` registers make the group, and
`passes` of them are stored now. DEDUCED (log 28). -/
def storeGroup (a : Word) (b : VReg) (n passes : Nat) (img : Option Place) : Nat → Nat → State → Eff
  | 0, _, s =>
    match img with
    | none => .done (s.ownPasses a passes)
    | some p =>
      let tw : Word := (List.range n).foldl (fun w i =>
        w ||| ((s.cc.rdV (groupReg b i)).tag.setWidth 64 <<< (8 * i))) 0
      .done ((storePlace p (toBytes 8 tw) s).ownPasses a (passes + 1))
  | left + 1, i, s =>
    let x := a + BitVec.ofNat 64 (128 * i)
    let v := s.cc.rdV (groupReg b i)
    if isPoison v.tag then .trap s .poison ((0x300#64 : Word) + v.tag.setWidth 64) (BitVec.ofNat 3 i)
    else match s.checkVec x 128 8 with
      | .error k => .trap s k x (BitVec.ofNat 3 i)
      | .ok p => storeGroup a b n passes img left (i + 1) (storePlace p (toBytes 128 v.bits) s)

/-- The register that a resumed group starts at (R40): XPROG's, or behind the wait of the form itself the first that is not done (R212). -/
def Core.progress (c : Core) (n : Nat) : Nat :=
  if c.access.isSome then min c.moved n else if c.regs.trap.exl then 0 else min c.regs.trap.xprog.toNat n

def execVld (h : Hdr) (tag : BitVec 8) (d : VReg) (a : GReg) (x : BitVec 2) (imm : BitVec 32) (s : State) :
    Host.Outcome State Fault Refusal :=
  issueWord h 0 0 0 { srcs := [opG a], dsts := groupNums d x } (noStream (groupNums d x) fun s =>
    let n := groupSize x
    let m := s.cc.progress n
    let adr := s.cc.addr a imm
    groupHold adr m n false (fun s => loadGroup adr d tag none s.cc.tmg.clk (n - m) (n - m) m s) s) s

def execVldImg (h : Hdr) (d : VReg) (a : GReg) (x : BitVec 2) (imm : BitVec 32) (s : State) :
    Host.Outcome State Fault Refusal :=
  issueWord h 0 0 0 { srcs := [opG a], dsts := groupNums d x } (noStream (groupNums d x) fun s =>
    let n := groupSize x
    let m := s.cc.progress n
    let adr := s.cc.addr a imm
    let ta := adr + BitVec.ofNat 64 (128 * n)
    groupHold adr m n true (fun s => match s.checkVec ta 8 8 with
      | .error k => .trap s k ta s.cc.regs.trap.xprog
      | .ok p =>
        let r := s.touch s.cur p 8
        let s := r.1.coreRead r.1.cur (p.home (clusterOf r.1.cur))
        let tw := ofBytes 64 (s.readPlace 8 p)
        loadGroup adr d 0 (some (tw, r.2)) s.cc.tmg.clk (n - m + 1) (n - m) m s) s) s

def execVst (h : Hdr) (a : GReg) (b : VReg) (x : BitVec 2) (imm : BitVec 32) (s : State) :
    Host.Outcome State Fault Refusal :=
  issueWord h 0 0 (opV b) { srcs := opG a :: groupNums b x } (noStream (groupNums b x) fun s =>
    let n := groupSize x
    let m := s.cc.progress n
    let adr := s.cc.addr a imm
    groupHold adr m n false (storeGroup adr b n (n - m) none (n - m) m) s) s

def execVstImg (h : Hdr) (a : GReg) (b : VReg) (x : BitVec 2) (imm : BitVec 32) (s : State) :
    Host.Outcome State Fault Refusal :=
  issueWord h 0 0 (opV b) { srcs := opG a :: groupNums b x } (noStream (groupNums b x) fun s =>
    let n := groupSize x
    let m := s.cc.progress n
    let adr := s.cc.addr a imm
    let ta := adr + BitVec.ofNat 64 (128 * n)
    groupHold adr m n true (fun s => match s.checkVec ta 8 8 with
      | .error k => .trap s k ta s.cc.regs.trap.xprog
      | .ok p => storeGroup adr b n (n - m) (some p) (n - m) m s) s) s

/-! ## Lane slices (R179) -/

/-- Reads a vector source of a form that checks no format: a poisoned one traps (R77, R79). `f` is the field of R76. -/
def poisonCheck (f : Nat) (v : VR) : Option Word :=
  if isPoison v.tag then some (BitVec.ofNat 64 (0x100 * f) + v.tag.setWidth 64) else none

/-- The first lane whose check fails, in ascending order. -/
def firstLane (m : Mask) (bad : Nat → Option (Cause × Word)) : Option (Cause × Word) :=
  (List.range 16).findSome? fun l => if m.getLsbD l then bad l else none

/-- The checks of a lane's offset (R179). -/
def laneCheck (o : Word) : Option (Cause × Word) :=
  if 2048 ≤ o.toNat then some (.bounds, o) else if o.toNat % 8 ≠ 0 then some (.align, o) else none

/-- Not every one of the 16 lanes is active (R179, R180). -/
def partialMask (m : Mask) : Bool := m.extractLsb' 0 16 != BitVec.allOnes 16

/-- The uses of a form that reads DST where not every lane is active (R179, R180). -/
def laneUses (d : VReg) (srcs : List (BitVec 7)) (km : KReg) : Uses :=
  { srcs := srcs ++ [opK km], dsts := [opV d], also := fun c => if partialMask (c.rdK km) then [opV d] else [] }

def execVldl (h : Hdr) (tag : BitVec 8) (d a : VReg) (km : KReg) (imm : BitVec 32) (s : State) :
    Host.Outcome State Fault Refusal :=
  issueWord h (opV d) (opV a) 0 (laneUses d [opV a] km) (noStream [opV d, opV a] fun s =>
    let c := s.cc
    let m := c.rdK km
    let v := c.rdV a
    let off := fun l => lane v.bits l + sextImm imm
    match poisonCheck 2 v with
    | some x => .trap s .poison x 0
    | none => match (if partialMask m then poisonCheck 1 (c.rdV d) else none) with
      | some x => .trap s .poison x 0
      | none => match firstLane m (fun l => laneCheck (off l)) with
        | some (k, x) => .trap s k x 0
        | none =>
          let r := ofLanes fun l => if m.getLsbD l
            then ofBytes 64 (c.slices.bytes (2048 * l + (off l).toNat) 8) else lane (c.rdV d).bits l
          .done (s.setCc (c.result c.tmg.clk 3 (.v d ⟨r, tag⟩)))) s

def execVstl (h : Hdr) (a b : VReg) (km : KReg) (imm : BitVec 32) (s : State) : Host.Outcome State Fault Refusal :=
  issueWord h 0 (opV a) (opV b) { srcs := [opV a, opV b, opK km] } (noStream [opV a, opV b] fun s =>
    let c := s.cc
    let m := c.rdK km
    let v := c.rdV a
    let off := fun l => lane v.bits l + sextImm imm
    match poisonCheck 2 v with
    | some x => .trap s .poison x 0
    | none => match poisonCheck 3 (c.rdV b) with
      | some x => .trap s .poison x 0
      | none => match firstLane m (fun l => laneCheck (off l)) with
        | some (k, x) => .trap s k x 0
        | none =>
          let z := (List.range 16).foldl (fun (z : Mem) l =>
            if m.getLsbD l then z.setBytes (2048 * l + (off l).toNat) (toBytes 8 (lane (c.rdV b).bits l)) else z)
            c.slices
          .done (s.setCc { c with slices := z })) s

/-! ## Gathers and scatters (R180) -/

/-- The own-scratchpad words that a gather or scatter accesses. -/
def ownWords (ps : List (Nat × Place)) : List Nat :=
  (ps.filterMap fun p => match p.2 with
    | .spad true _ off => some (off / 8)
    | _ => none).eraseDups

/-- The passes of a gather or scatter (R162): rows with a word in a failed bank, and the deepest other bank. DEDUCED (log 41). -/
def Core.gatherPasses (c : Core) (ws : List Nat) : Nat :=
  let rows := ((ws.filter fun w => c.fail.getLsbD (c.bank w)).map (· / 16)).eraseDups
  let rest := ws.filter fun w => !rows.contains (w / 16)
  max 1 (rows.length + ((List.range 16).map fun b => (rest.filter fun w => c.bank w == b).length).foldl max 0)

/-- The active lanes with their places, once every check has passed; lanes with one place share its access (R162). -/
def State.lanePlaces (s : State) (m : Mask) (adr : Nat → Word) : List (Nat × Place) :=
  (List.range 16).filterMap fun l =>
    if m.getLsbD l then match s.checkVec (adr l) 8 8 with
      | .ok p => some (l, p)
      | .error _ => none
    else none

/-- The first failing lane of a gather or scatter (R180). -/
def State.laneFault (s : State) (m : Mask) (adr : Nat → Word) : Option (Cause × Word) :=
  firstLane m fun l => match s.checkVec (adr l) 8 8 with
    | .ok _ => none
    | .error k => some (k, adr l)

def execVgath (h : Hdr) (tag : BitVec 8) (d : VReg) (a : GReg) (b : VReg) (km : KReg) (s : State) :
    Host.Outcome State Fault Refusal :=
  issueWord h (opV d) 0 (opV b) (laneUses d [opG a, opV b] km)
    (noStream [opV d, opV b] fun s =>
      let c := s.cc
      let m := c.rdK km
      let v := c.rdV b
      let adr := fun l => c.rdG a + lane v.bits l
      if (List.range 16).any (fun l => m.getLsbD l && s.rangeHeld (adr l) 8) then holdLanes s m adr
      else match poisonCheck 3 v with
      | some x => .trap s .poison x 0
      | none => match (if partialMask m then poisonCheck 1 (c.rdV d) else none) with
        | some x => .trap s .poison x 0
        | none => match s.laneFault m adr with
          | some (k, x) => .trap s k x 0
          | none =>
            let ps := s.lanePlaces m adr
            let slip := ps.foldl (fun m p => max m p.2.slip) 0
            let passes := c.gatherPasses (ownWords ps)
            let t := c.tmg.clk
            let r := (ps.map (·.2)).eraseDups.foldl (fun (st : State × Bool) p =>
              let q := st.1.touch st.1.cur p 8
              (q.1.coreRead q.1.cur (p.home (clusterOf q.1.cur)), st.2 || q.2)) (s, false)
            let bits := ofLanes fun l => match ps.find? (·.1 == l) with
              | some p => ofBytes 64 (r.1.readPlace 8 p.2)
              | none => lane (c.rdV d).bits l
            let s := r.1
            .done ((s.setCc (s.cc.loaded t passes slip (.v d ⟨bits, if r.2 then poisonTag else tag⟩))).passes
              passes)) s

def execVscat (h : Hdr) (d : VReg) (a : GReg) (b : VReg) (km : KReg) (s : State) :
    Host.Outcome State Fault Refusal :=
  issueWord h (opV d) 0 (opV b) { srcs := [opG a, opV d, opV b, opK km] } (noStream [opV d, opV b] fun s =>
    let c := s.cc
    let m := c.rdK km
    let v := c.rdV d
    let adr := fun l => c.rdG a + lane v.bits l
    if (List.range 16).any (fun l => m.getLsbD l && s.rangeHeld (adr l) 8) then holdLanes s m adr
    else match poisonCheck 3 (c.rdV b) with
    | some x => .trap s .poison x 0
    | none => match poisonCheck 1 v with
      | some x => .trap s .poison x 0
      | none => match s.laneFault m adr with
        | some (k, x) => .trap s k x 0
        | none =>
          let ps := s.lanePlaces m adr
          let passes := c.gatherPasses (ownWords ps)
          let s := ps.foldl (fun s p => storePlace p.2 (toBytes 8 (lane (c.rdV b).bits p.1)) s) s
          .done (s.passes passes)) s

end Sys2Proof.Machine
end

