-- ==== Sys2Proof/Machine/GlobalMem.lean ====
section
/-! DEFINITION. Global memory and opcodes 0x20 to 0x23 (R183 to R217, R569): translation, parking, the page policies with
their copies and logical times, scalar, vector and image accesses, range maintenance and prefetch, and the events of the
translation and cache hardware. -/
namespace Sys2Proof.Machine
open Sys2Proof

/-! ## Translation (R183 to R192) -/

/-- Why an access does not go on at once: a trap, a TLB miss at an address, or a page with no memory behind it. -/
inductive XErr where
  | trap (c : Cause) (x : Word)
  | miss (va : Nat)
  | noMemory (pa : Nat)
  deriving DecidableEq, Repr

/-- The translation of one access of core n through its TLBs (R185, R189, R190): the physical address and its leaf. -/
def State.xlate (s : State) (n : Nat) (va : Word) (r : Right) : Except XErr (Nat × BitVec 64) :=
  let c := s.core n
  if !c.xlate then .error (.trap .access va)
  else
    let hit := match tlbFind (s.cluster (clusterOf n)).l1tlb c.vsid va.toNat with
      | some e => some e
      | none => tlbFind (s.die (dieOf n)).l2tlb c.vsid va.toNat
    match hit with
    | none => .error (.miss va.toNat)
    | some e =>
      let pa := leafPa e.level e.leaf va.toNat
      if !leafOk e.leaf r (!c.regs.trap.sup) then .error (.trap .access va)
      else if !physOk pa then .error (.noMemory pa)
      else .ok (pa, e.leaf)

/-- A global access of core n: the checks of R211 before its translation. -/
def State.xlateChecked (s : State) (n : Nat) (va : Word) (len align : Nat) (r : Right) :
    Except XErr (Nat × BitVec 64) :=
  if 2 ^ 56 < va.toNat + len then .error (.trap .bounds va)
  else if va.toNat % align ≠ 0 then .error (.trap .align va)
  else s.xlate n va r

/-- The translations of the 8-byte words from an address on, in ascending order (R212). DEDUCED (log 29). -/
def State.xlateWords (s : State) (n : Nat) (va : Word) (r : Right) : Nat → Except XErr (List (Nat × BitVec 64))
  | 0 => .ok []
  | k + 1 =>
    match s.xlateChecked n va 8 8 r with
    | .error e => .error e
    | .ok x => match State.xlateWords s n (va + 8) r k with
      | .error e => .error e
      | .ok xs => .ok (x :: xs)

/-- The current core waits for a walk, with the instruction that it will complete (R190, R216); `done` registers of a
group are done (R196, R212), which XPROG shows outside handlers (R40). -/
def State.waitWalk (s : State) (va : Nat) (i : Option Instr) (done : Nat) : State :=
  let c := s.cc
  let c := if c.regs.trap.exl then c else c.setTrap fun t => { t with xprog := BitVec.ofNat 3 done }
  (s.setCc { c with wait := .walk va, access := i, moved := done }).owe (.pageWalk (dieOf s.cur) c.vsid (va / 65536))

/-- How an access that does not go on ends its word. -/
def xerr (s : State) (i : Instr) (done : Nat) : XErr → Eff
  | .trap c x => .trap s c x (BitVec.ofNat 3 done)
  | .miss va => .sleep (s.waitWalk va (some i) done)
  | .noMemory pa => .fault (.noPhysicalMemory pa)

/-! ## Scalar accesses (R211) -/

/-- The effect of GLD. -/
def gldEff (i : Instr) (d a : GReg) (sz : BitVec 2) (zx : Bool) (imm : BitVec 32) (s : State) : Eff :=
  let n := s.cur
  let x := s.cc.addr a imm
  let len := sizeOf sz
  if s.rangeHeld x len then holdOn s x len
  else match s.xlateChecked n x len len .read with
    | .error e => xerr s i 0 e
    | .ok (pa, leaf) =>
      if s.readBad n pa len (leafPolicy leaf) then .trap (s.badRead n true) .poison x 0
      else
        let r := s.readGlobal n pa len (leafPolicy leaf)
        .done (r.1.setCc (r.1.cc.slipResult (.g d (extendLoad sz zx r.2))))

/-- The effect of GST. -/
def gstEff (i : Instr) (a b : GReg) (sz : BitVec 2) (imm : BitVec 32) (s : State) : Eff :=
  let n := s.cur
  let x := s.cc.addr a imm
  let len := sizeOf sz
  if s.rangeHeld x len then holdOn s x len
  else match s.xlateChecked n x len len .write with
    | .error e => xerr s i 0 e
    | .ok (pa, leaf) => .done (s.writeGlobal n pa (leafPolicy leaf) (toBytes len (s.cc.rdG b)))

def execGld (h : Hdr) (d a : GReg) (sz : BitVec 2) (zx : Bool) (imm : BitVec 32) (s : State) :
    Host.Outcome State Fault Refusal :=
  issueWord h 0 0 0 { srcs := [opG a], dsts := [opG d] } (gldEff (.gld h d a sz zx imm) d a sz zx imm) s
def execGst (h : Hdr) (a b : GReg) (sz : BitVec 2) (imm : BitVec 32) (s : State) : Host.Outcome State Fault Refusal :=
  issueWord h 0 0 0 { srcs := [opG a, opG b] } (gstEff (.gst h a b sz imm) a b sz imm) s

/-! ## Vector accesses and images (R212) -/

/-- Reads words one by one, each under its own page's policy: the bytes, and whether one was uncorrectable. -/
def readWords (n : Nat) : List (Nat × BitVec 64) → State → State × List Byte × Bool
  | [], s => (s, [], false)
  | (pa, leaf) :: xs, s =>
    let bad := s.readBad n pa 8 (leafPolicy leaf)
    let r := s.readGlobal n pa 8 (leafPolicy leaf)
    let q := readWords n xs r.1
    (q.1, r.2 ++ q.2.1, bad || q.2.2)

/-- Writes words one by one. -/
def writeWords (n : Nat) : List (Nat × BitVec 64) → List Byte → State → State
  | [], _, s => s
  | (pa, leaf) :: xs, bs, s => writeWords n xs (bs.drop 8) (s.writeGlobal n pa (leafPolicy leaf) (bs.take 8))

/-- Loads the registers of a group from register i on (R177, R178, R212). DEDUCED (log 40). -/
def gloadGroup (ins : Instr) (a : Word) (d : VReg) (tag : Tag) (tw : Option (Word × Bool)) : Nat → Nat → State → Eff
  | 0, _, s => .done s
  | left + 1, i, s =>
    match s.xlateWords s.cur (a + BitVec.ofNat 64 (128 * i)) .read 16 with
    | .error e => xerr s ins i e
    | .ok ws =>
      let r := readWords s.cur ws s
      let bits := ofBytes 1024 r.2.1
      let tg := match tw with
        | none => tag
        | some (w, bad) => if bad then poisonTag else r.1.cc.imageTag (tagByte w i) bits
      let s := r.1.badRead r.1.cur r.2.2
      gloadGroup ins a d tag tw left (i + 1)
        (s.setCc (s.cc.slipResult (.v (groupReg d i) ⟨bits, if r.2.2 then poisonTag else tg⟩)))

/-- Stores the registers of a group from register i on, then an image's tag word (R177, R178, R212). -/
def gstoreGroup (ins : Instr) (a : Word) (b : VReg) (n : Nat) (img : Option (Nat × BitVec 64)) :
    Nat → Nat → State → Eff
  | 0, _, s =>
    match img with
    | none => .done s
    | some (pa, leaf) =>
      let tw : Word := (List.range n).foldl (fun w i =>
        w ||| ((s.cc.rdV (groupReg b i)).tag.setWidth 64 <<< (8 * i))) 0
      .done (s.writeGlobal s.cur pa (leafPolicy leaf) (toBytes 8 tw))
  | left + 1, i, s =>
    let v := s.cc.rdV (groupReg b i)
    if isPoison v.tag then .trap s .poison ((0x300#64 : Word) + v.tag.setWidth 64) (BitVec.ofNat 3 i)
    else match s.xlateWords s.cur (a + BitVec.ofNat 64 (128 * i)) .write 16 with
      | .error e => xerr s ins i e
      | .ok ws => gstoreGroup ins a b n img left (i + 1) (writeWords s.cur ws (toBytes 128 v.bits) s)

def gldVEff (ins : Instr) (tag : Tag) (d : VReg) (a : GReg) (x : BitVec 2) (imm : BitVec 32) : State → Eff :=
  noStream (groupNums d x) fun s =>
    let n := groupSize x
    let m := s.cc.progress n
    let adr := s.cc.addr a imm
    groupHold adr m n false (gloadGroup ins adr d tag none (n - m) m) s

def gldImgEff (ins : Instr) (d : VReg) (a : GReg) (x : BitVec 2) (imm : BitVec 32) : State → Eff :=
  noStream (groupNums d x) fun s =>
    let n := groupSize x
    let m := s.cc.progress n
    let adr := s.cc.addr a imm
    groupHold adr m n true (fun s => match s.xlateChecked s.cur (adr + BitVec.ofNat 64 (128 * n)) 8 8 .read with
      | .error e => xerr s ins m e
      | .ok (pa, leaf) =>
        let bad := s.readBad s.cur pa 8 (leafPolicy leaf)
        let r := (s.badRead s.cur bad).readGlobal s.cur pa 8 (leafPolicy leaf)
        gloadGroup ins adr d 0 (some (ofBytes 64 r.2, bad)) (n - m) m r.1) s

def gstVEff (ins : Instr) (a : GReg) (b : VReg) (x : BitVec 2) (imm : BitVec 32) : State → Eff :=
  noStream (groupNums b x) fun s =>
    let n := groupSize x
    let m := s.cc.progress n
    let adr := s.cc.addr a imm
    groupHold adr m n false (gstoreGroup ins adr b n none (n - m) m) s

def gstImgEff (ins : Instr) (a : GReg) (b : VReg) (x : BitVec 2) (imm : BitVec 32) : State → Eff :=
  noStream (groupNums b x) fun s =>
    let n := groupSize x
    let m := s.cc.progress n
    let adr := s.cc.addr a imm
    groupHold adr m n true (fun s => match s.xlateChecked s.cur (adr + BitVec.ofNat 64 (128 * n)) 8 8 .write with
      | .error e => xerr s ins m e
      | .ok p => gstoreGroup ins adr b n (some p) (n - m) m s) s

def execGldV (h : Hdr) (tag : BitVec 8) (d : VReg) (a : GReg) (x : BitVec 2) (imm : BitVec 32) (s : State) :
    Host.Outcome State Fault Refusal :=
  issueWord h 0 0 0 { srcs := [opG a], dsts := groupNums d x } (gldVEff (.gldV h tag d a x imm) tag d a x imm) s
def execGldImg (h : Hdr) (d : VReg) (a : GReg) (x : BitVec 2) (imm : BitVec 32) (s : State) :
    Host.Outcome State Fault Refusal :=
  issueWord h 0 0 0 { srcs := [opG a], dsts := groupNums d x } (gldImgEff (.gldImg h d a x imm) d a x imm) s
def execGstV (h : Hdr) (a : GReg) (b : VReg) (x : BitVec 2) (imm : BitVec 32) (s : State) :
    Host.Outcome State Fault Refusal :=
  issueWord h 0 0 (opV b) { srcs := opG a :: groupNums b x } (gstVEff (.gstV h a b x imm) a b x imm) s
def execGstImg (h : Hdr) (a : GReg) (b : VReg) (x : BitVec 2) (imm : BitVec 32) (s : State) :
    Host.Outcome State Fault Refusal :=
  issueWord h 0 0 (opV b) { srcs := opG a :: groupNums b x } (gstImgEff (.gstImg h a b x imm) a b x imm) s

/-! ## Range maintenance and prefetch (R214, R215) -/

/-- The three forms of range maintenance. -/
inductive Maint where
  | wb | inv | wbi
  deriving DecidableEq, Repr

/-- One line of a range: its SWM copy in the cluster is merged, discarded, or both (R214). -/
def State.maintLine (s : State) (n line : Nat) (op : Maint) : State :=
  let cl := clusterOf n
  match (s.cluster cl).copy line true with
  | none => s
  | some x =>
    match op with
    | .inv => s.dropCopy cl line true
    | _ =>
      let s := if x.dirty = 0 then s else
        let r := s.mergeCopy x (s.core n).lt
        r.1.setCore n { r.1.core n with lt := r.2 }
      if op = .wbi then s.dropCopy cl line true else s.setCopy cl { x with dirty := 0 }

/-- The pages of a range from an address on, in ascending order (R214); `k` counts the 64 KiB granules left. -/
def maintPages (op : Maint) (hi : Nat) : Nat → Nat → State → Eff
  | 0, _, s => .done s
  | k + 1, va, s =>
    if hi ≤ va then .done s
    else
      let n := s.cur
      let next := (va / 65536 + 1) * 65536
      let c := s.cc
      if !c.xlate then .trap s .access (BitVec.ofNat 64 va) 0
      else match s.translate n va with
      | .fault _ _ => maintPages op hi k next s
      | .page level leaf =>
        let right : Right := if op = .wb then .read else .write
        if !leafOk leaf right (!c.regs.trap.sup) then .trap s .access (BitVec.ofNat 64 va) 0
        else if leafPolicy leaf ≠ .swm then maintPages op hi k next s
        else
          let lo := leafPa level leaf va / 128
          let count := (min hi next - 1) / 128 - va / 128 + 1
          maintPages op hi k next ((List.range count).foldl (fun s i => s.maintLine n (lo + i) op) s)

/-- The effect of RWB, RINV and RWBI. -/
def maintEff (op : Maint) (a b : GReg) (s : State) : Eff :=
  let base := s.cc.rdG a
  let len := (s.cc.rdG b).toNat
  if len = 0 then .done s
  else if s.rangeHeld base len then holdOn s base len
  else if 2 ^ 56 < base.toNat + len then .trap s .bounds base 0
  else maintPages op (base.toNat + len) ((base.toNat % 65536 + len) / 65536 + 1) base.toNat s

def execRwb (h : Hdr) (a b : GReg) (s : State) : Host.Outcome State Fault Refusal :=
  issueWord h 0 0 0 { srcs := [opG a, opG b] } (maintEff .wb a b) s
def execRinv (h : Hdr) (a b : GReg) (s : State) : Host.Outcome State Fault Refusal :=
  issueWord h 0 0 0 { srcs := [opG a, opG b] } (maintEff .inv a b) s
def execRwbi (h : Hdr) (a b : GReg) (s : State) : Host.Outcome State Fault Refusal :=
  issueWord h 0 0 0 { srcs := [opG a, opG b] } (maintEff .wbi a b) s

/-- PREF brings the line into the L1D under its policy; the core's logical time does not move (R215). Its line is held like the
accesses of its class (R216). DEDUCED (log 30). -/
def execPref (h : Hdr) (a : GReg) (l2 : Bool) (imm : BitVec 32) (s : State) : Host.Outcome State Fault Refusal :=
  issueWord h 0 0 0 { srcs := [opG a] } (fun s =>
    let n := s.cur
    let c := s.cc
    let x := s.cc.addr a imm
    let line : Word := x &&& ~~~127#64
    if decide (2 ^ 56 ≤ x.toNat) || !c.xlate then .done s
    else match s.translate n x.toNat with
      | .fault _ _ => .done s
      | .page level leaf =>
        let pa := leafPa level leaf x.toNat
        if !leafOk leaf .read (!c.regs.trap.sup) || !physOk pa then .done s
        else if s.rangeHeld line 128 then holdOn s line 128
        else if l2 then .done s
        else
          let s' := match homePolicy pa (leafPolicy leaf) with
            | .leased => (s.leasedRead n pa 1).1
            | .swm => (s.fillSwm n (pa / 128)).1
            | .uc => s
          .done (s'.setCc { s'.cc with lt := c.lt })) s

/-! ## The events of the memory system -/

/-- The right that an access needs, and the PATH code of R194. -/
def accessPath : Option Instr → BitVec 3
  | none => 2
  | some (.gst ..) | some (.gstV ..) | some (.gstImg ..) | some (.amo ..) | some (.cas ..) | some (.red ..) | some (.join ..) => 1
  | some _ => 0

/-- A fault takes or joins a slot of the die's fault buffer, or is dropped (R192). -/
def Die.faultSlot (d : Die) (x : FaultSlot) : Die :=
  if d.fbuf.any (fun y => y.ptag == x.ptag && y.vpn == x.vpn) then
    { d with fbuf := d.fbuf.map fun y => if y.ptag == x.ptag && y.vpn == x.vpn then { y with count := satInc y.count } else y }
  else if d.fbuf.length < 8 then { d with fbuf := d.fbuf ++ [x] }
  else { d with drop := true, dcnt := satInc d.dcnt }

/-- An access of core n faults in user mode and parks (R191, R192); a lock-step follower leaves lock step (R150). -/
def State.parkCore (s : State) (n va : Nat) (kind : BitVec 2) (level : Nat) : State :=
  let c := s.core n
  let d := s.die (dieOf n)
  let x : FaultSlot := { count := 1, vpn := BitVec.ofNat 40 (va / 65536), ptag := c.ptag, kind := kind,
                         level := BitVec.ofNat 2 level, path := accessPath c.access, vsid := c.vsid,
                         lcn := BitVec.ofNat 18 (s.lcn n) }
  let d := d.faultSlot x
  let s := (s.setDie (dieOf n) { d with parks := d.parks ++ [.core n] }).setCore n { c with wait := .parked va }
  let s := if s.lockFollower n then s.leaveLockstep n else s
  if c.yieldReq then s.owe (.yieldRequest n) else s

/-- A translation enters the die's L2 TLB and a cluster's L1 TLB, when its walk ends: a hit in the L2 TLB leaves the L1 TLB as it is
(R190). DESIGN CHOICE (log 31). -/
def State.fillTlb (s : State) (n : Nat) (e : TlbEntry) : State :=
  let c := s.cluster (clusterOf n)
  (s.fillL2 (dieOf n) e).setCluster (clusterOf n)
    { c with l1tlb := (e :: c.l1tlb.filter (· != e)).take 128 }

/-- A walk's result for one waiting core: the translation, a park, or a fault-on-fault (R191, R197). -/
def State.walkFor (s : State) (n va : Nat) : State :=
  let c := s.core n
  match s.walk c.root va with
  | .page level leaf =>
    (s.fillTlb n { vsid := c.vsid, level := level, vpn := va / 2 ^ levelShift level, leaf := leaf }).owe
      (.globalAccessComplete n)
  | .fault m level =>
    if c.regs.trap.sup then s.faultOnFault n va else s.parkCore n va (if m then 1 else 0) level

/-- The listed cores of a die that wait for a walk of a granule under a VSID. -/
def State.walkers (s : State) (die : Nat) (vsid : BitVec 8) (granule : Nat) : List (Nat × Nat) :=
  s.cores.filterMap fun e => match e.2.wait with
    | .walk va => if dieOf e.1 == die && e.2.vsid == vsid && va / 65536 == granule then some (e.1, va) else none
    | _ => none

/-- PAGE_WALK: a die's walk of one granule ends, and every access that still waits for it goes on, parks or traps with it; one that a halt
has abandoned meanwhile does not (R196). -/
def execPageWalk (die : Nat) (vsid : BitVec 8) (granule : Nat) (s : State) : Host.Outcome State Fault Refusal :=
  .next ((s.walkers die vsid granule).foldl (fun s w => if (s.core w.1).wait = .walk w.2 then s.walkFor w.1 w.2 else s) s)

/-- L1D_EVICTION (R204): dirty bytes of an SWM line merge at the home at time F + 1; a clean or leased copy goes
silently. -/
def execL1dEviction (cl line : Nat) (swm : Bool) (s : State) : Host.Outcome State Fault Refusal :=
  match (s.cluster cl).copy line swm with
  | none => .next s
  | some x =>
    let s := s.dropCopy cl line swm
    .next (if swm && x.dirty != 0 then (s.mergeCopy x (s.floor + 1)).1 else s)

end Sys2Proof.Machine
end

