-- ==== Sys2Proof/Machine/Agent.lean ====
section
/-! DEFINITION. Accesses on the paths of the engines, the array and the ports (R191, R197, R245, R351, R367): no L1D copy is
used, a global access is performed at its home, and the agent's logical time rises with each access. -/
namespace Sys2Proof.Machine
open Sys2Proof

/-- What stops an access of an agent: a failure with its cause and value (R367), at once or with the state that its access up to then
leaves, a park (R191), a fault-on-fault (R197), or a page with no memory behind it. -/
inductive AStop where
  | fail (c : Cause) (x : Word)
  | failAt (s : State) (c : Cause) (x : Word)
  | park (va : Nat) (malformed : Bool) (level : Nat)
  | double (va : Nat)
  | noMemory (pa : Nat)
  deriving DecidableEq, Repr

/-- A stop of an access that has left the state `s` before it. -/
def AStop.behind (s : State) : AStop → AStop
  | .fail c x => .failAt s c x
  | e => e
/-- The state that a stop leaves, from the state before its access, and the stop. -/
def AStop.split (s : State) : AStop → State × AStop
  | .failAt t c x => (t, .fail c x)
  | e => (s, e)

/-- An agent: the core it works for (or whose die it uses), its translation, its mode, the logical time of its last access, which
every further access of it exceeds (R245), and whether it is the hardware's own for a partition, which sees every store (R427). -/
structure Agent where
  core : Nat
  root : BitVec 36 := 0
  vsid : BitVec 8 := 0
  xlate : Bool := false
  sup : Bool := false
  time : Nat := 0
  ordered : Bool := false
  deriving DecidableEq, Repr

/-- The translation of an agent's access through the L2 TLB of its die: the physical address and the page's policy. -/
def State.agentXlate (s : State) (g : Agent) (va : Nat) (r : Right) : Except AStop (State × Nat × Policy) :=
  let d := dieOf g.core
  let found : Except AStop (State × Nat × BitVec 64) :=
    match tlbFind (s.die d).l2tlb g.vsid va with
    | some e => .ok (s, e.level, e.leaf)
    | none => match s.walk g.root va with
      | .page level leaf =>
        .ok (s.fillL2 d { vsid := g.vsid, level := level, vpn := va / 2 ^ levelShift level, leaf := leaf }, level, leaf)
      | .fault m level => .error (if g.sup then .double va else .park va m level)
  if !g.xlate then .error (.fail .access (BitVec.ofNat 64 va))
  else match found with
    | .error e => .error e
    | .ok (s, level, leaf) =>
      let pa := leafPa level leaf va
      if !leafOk leaf r (!g.sup) then .error (.fail .access (BitVec.ofNat 64 va))
      else if !physOk pa then .error (.noMemory pa)
      else .ok (s, pa, leafPolicy leaf)

/-- What an agent has read of a memory (R206, R249): the bytes that now stand there at the time that its home gives, or those before stores
that no fence orders before its access. -/
def Agent.saw (g : Agent) (s : State) (m : Store) (pos : Nat) (now : List Byte) (r : State × Nat) : State × Agent × List Byte :=
  let bs := if g.ordered then now else s.agentView m (g.time + 1) pos now
  if bs = now then (r.1, { g with time := r.2 }, now)
  else ({ s with draws := s.draws + s.recent.length }, { g with time := s.agentTime m (g.time + 1) pos now.length }, bs)

/-- A read of `n` bytes inside one 128-byte line. -/
def State.agentRead1 (s : State) (g : Agent) (a : Word) (n : Nat) : Except AStop (State × Agent × List Byte) :=
  if a.getLsbD 56 then
    match s.windowOf g.core a n with
    | none | some (.evu _) => .error (.fail .bounds a)
    | some p =>
      let q := s.scan p n
      if q.2 then .error (.failAt q.1 .poison a)
      else
        match p.store with
        | some x => .ok (g.saw q.1 x.1 x.2 (q.1.readPlace n p) (q.1.readTime (g.time + 1) (p.home (clusterOf g.core))))
        | none => .error (.fail .bounds a)
  else if 2 ^ 56 < a.toNat + n then .error (.fail .bounds a)
  else match s.agentXlate g a.toNat .read with
    | .error e => .error e
    | .ok (s, pa, pol) =>
      if s.globalBad pa n then .error (.fail .poison a)
      else
        let s := s.gain pa pol false
        .ok (g.saw s .global pa (s.physBytes pa n) (s.readTime (g.time + 1) (.line (pa / 128))))

/-- A write of bytes inside one 128-byte line. -/
def State.agentWrite1 (s : State) (g : Agent) (a : Word) (bs : List Byte) : Except AStop (State × Agent) :=
  if a.getLsbD 56 then
    match s.windowOf g.core a bs.length with
    | none | some (.evu _) => .error (.fail .bounds a)
    | some p =>
      let r := s.writeTime (g.time + 1) (p.home (clusterOf g.core))
      .ok (r.1.writePlace p bs, { g with time := r.2 })
  else if 2 ^ 56 < a.toNat + bs.length then .error (.fail .bounds a)
  else match s.agentXlate g a.toNat .write with
    | .error e => .error e
    | .ok (s, pa, pol) =>
      let r := (s.gain pa pol true).writeTime (g.time + 1) (.line (pa / 128))
      .ok ((r.1.noteCode g.core pa bs.length (!g.sup)).putHome pa pol bs, { g with time := r.2 })

/-- An address computed from a global base does not leave the global space (R183, R367). -/
def leaves (base a : Word) : Bool := base.extractLsb' 56 8 == 0 && a.extractLsb' 56 8 != 0

/-- A read of `n` bytes, line by line; `fuel` bounds the lines. A line behind the global space fails (R367). -/
def State.agentRead (s : State) (g : Agent) (a : Word) : Nat → Nat → Except AStop (State × Agent × List Byte)
  | 0, _ => .ok (s, g, [])
  | fuel + 1, n =>
    if n = 0 then .ok (s, g, [])
    else
      let k := min n (128 - a.toNat % 128)
      let next := a + BitVec.ofNat 64 k
      match s.agentRead1 g a k with
      | .error e => .error e
      | .ok (s, g, bs) =>
        if k < n && leaves a next then .error (.failAt s .bounds next)
        else match State.agentRead s g next fuel (n - k) with
          | .error e => .error (e.behind s)
          | .ok (s, g, cs) => .ok (s, g, bs ++ cs)

/-- A read of `n` bytes by an agent. -/
def State.agentBytes (s : State) (g : Agent) (a : Word) (n : Nat) : Except AStop (State × Agent × List Byte) :=
  s.agentRead g a (n / 128 + 2) n

/-- A write of bytes, line by line; `fuel` bounds the lines. A line behind the global space fails, and what was written stays (R367). -/
def State.agentWrite (s : State) (g : Agent) (a : Word) : Nat → List Byte → Except AStop (State × Agent)
  | 0, _ => .ok (s, g)
  | fuel + 1, bs =>
    if bs.isEmpty then .ok (s, g)
    else
      let k := min bs.length (128 - a.toNat % 128)
      let next := a + BitVec.ofNat 64 k
      match s.agentWrite1 g a (bs.take k) with
      | .error e => .error e
      | .ok (s, g) =>
        if k < bs.length && leaves a next then .error (.failAt s .bounds next)
        else match State.agentWrite s g next fuel (bs.drop k) with
          | .error e => .error (e.behind s)
          | r => r

/-- A write of bytes by an agent. -/
def State.agentStore (s : State) (g : Agent) (a : Word) (bs : List Byte) : Except AStop (State × Agent) :=
  s.agentWrite g a (bs.length / 128 + 2) bs

/-- The byte at an address as it stands, for an agent that already writes there. -/
def State.peekByte (s : State) (g : Agent) (a : Word) : Byte :=
  if a.getLsbD 56 then
    match s.windowOf g.core a 1 with
    | some p => (s.readPlace 1 p).headD 0
    | none => 0
  else match s.agentXlate g a.toNat .write with
    | .ok (s, pa, _) => s.physByte pa
    | .error _ => 0

/-- An agent's access that no core issued, or an engine's, faults and parks (R191, R192): its slot and its place in the
park list. `path` is the code of R194. DESIGN CHOICE (log 182). -/
def State.parkAgent (s : State) (g : Agent) (ptag : PTag) (path : BitVec 3) (va : Nat) (m : Bool) (level : Nat) (p : Park) :
    State :=
  let d := s.die (dieOf g.core)
  let x : FaultSlot := { count := 1, vpn := BitVec.ofNat 40 (va / 65536), ptag := ptag, kind := if m then 1 else 0,
                         level := BitVec.ofNat 2 level, path := path, vsid := g.vsid,
                         lcn := BitVec.ofNat 18 (s.lcn g.core) }
  let d := d.faultSlot x
  s.setDie (dieOf g.core) { d with parks := d.parks ++ [p] }

end Sys2Proof.Machine
end

