-- ==== Sys2Proof/Machine/Vec.lean ====
section
/-! DEFINITION. The vector unit's shared operations: elements and masks (R251, R268), streams (R255 to R264), the tag and
stream checks of a vector form (R76, R259, R286), and the element-wise form. -/
namespace Sys2Proof.Machine
open Sys2Proof

/-! ## Elements (R251) -/

/-- Element e of width w. -/
def elem (w : Nat) (x : VData) (e : Nat) : Nat := (x.extractLsb' (e * w) w).toNat
/-- A register from its elements of width w. -/
def ofElems (w : Nat) (xs : List Nat) : VData :=
  xs.foldr (fun x (acc : VData) => (acc <<< w) ||| BitVec.ofNat 1024 (x % 2 ^ w)) 0
/-- The lane that holds element e (R251). -/
def laneOf (w e : Nat) : Fin 16 := ⟨e * w / 64 % 16, Nat.mod_lt _ (by decide)⟩

/-! ## Streams (R255 to R261) -/

/-- The number of elements of a stream. -/
def StreamDesc.count (d : StreamDesc) : Nat := d.n.foldl (· * ·) 1
/-- The address of element i (R256). -/
def StreamDesc.addr (d : StreamDesc) (i : Nat) : Word :=
  ((d.n.zip d.s).foldl (fun (p : Word × Nat) q => (p.1 + BitVec.ofNat 64 (p.2 % q.1) * q.2.signExtend 64, p.2 / q.1))
    (d.base, i)).1
/-- The element width of a stream. -/
def StreamDesc.width (d : StreamDesc) : Nat := tagWidth d.tag
/-- The elements of the next chunk that exist (R257). -/
def StreamPort.rest (p : StreamPort) : Nat := min (1024 / p.desc.width) (p.desc.count - p.pos)
/-- The tail mask of the next chunk (R257). -/
def StreamPort.tail (p : StreamPort) (e : Nat) : Bool := decide (e < p.rest)

/-- The checks of an access to windows 0x00 and 0x01 only (R256, R283). -/
def State.checkSpad (s : State) (a : Word) (bytes align : Nat) : Except Cause Place :=
  match s.windowOf s.cur a bytes with
  | some (.spad _ _ _) => s.checkLocal s.cur (!s.cc.regs.trap.sup) a bytes align
  | _ => .error .bounds

/-- The checks of one stream element (R256). -/
def State.checkElem (s : State) (a : Word) (bytes : Nat) : Except Cause Place := s.checkSpad a bytes bytes

/-- A chunk read from memory at element `pos` on, in ascending order: its elements, whether a word was uncorrectable with
its address, and the state with the logical times taken; or the trap of the first failing element. -/
def readChunk (d : StreamDesc) (pos : Nat) : Nat → State → Except (Cause × Word) (State × List Nat × Option Word)
  | 0, s => .ok (s, [], none)
  | k + 1, s =>
    let a := d.addr pos
    match s.checkElem a (d.width / 8) with
    | .error c => .error (c, a)
    | .ok p =>
      let r := s.touch s.cur p (d.width / 8)
      let s := r.1.coreRead r.1.cur (p.home (clusterOf r.1.cur))
      let x := (ofBytes 64 (s.readPlace (d.width / 8) p)).toNat
      match readChunk d (pos + 1) k s with
      | .error e => .error e
      | .ok (s, xs, bad) => .ok (s, x :: xs, if r.2 then some a else bad)

/-- Why a vector form does not complete: a trap, an uncorrectable element of a popped chunk with its address (R166, R286), or a hold
at issue by the range scoreboard (R160, R260). -/
inductive VStop where
  | trap (k : Cause) (x : Word)
  | bad (a : Word)
  | hold (xs : List (Fin 4 × Nat))
  deriving DecidableEq, Repr

/-- The addresses of the elements of a port's next chunk that an instruction accesses, with their size, in ascending order. -/
def StreamPort.accesses (p : StreamPort) (on : Nat → Bool) : List (Word × Nat) :=
  ((List.range p.rest).filter on).map fun e => (p.desc.addr (p.pos + e), p.desc.width / 8)
/-- The commands that hold such accesses (R160, R260). -/
def State.accessHolders (s : State) (xs : List (Word × Nat)) : List (Fin 4 × Nat) := xs.flatMap fun x => s.holders x.1 x.2

/-- The next chunk of a read stream: one that was fetched ahead, or one read now (R260, R261). DEDUCED (log 33). -/
def State.nextChunk (s : State) (p : StreamPort) : Except VStop (State × VData) :=
  match p.chunks with
  | (x, _) :: _ => .ok (s, x)
  | [] =>
    match readChunk p.desc p.pos p.rest s with
      | .error (k, x) => .error (.trap k x)
      | .ok (s, xs, none) => .ok (s, ofElems p.desc.width xs)
      | .ok (_, _, some a) => .error (.bad a)

/-- The port after a pop or push (R257). -/
def StreamPort.advance (p : StreamPort) : StreamPort :=
  { p with pos := p.pos + p.rest, chunks := p.chunks.drop 1, fetched := p.fetched - 1 }
/-- Puts a port back. -/
def Core.setPort (c : Core) (i : Fin 4) (p : Option StreamPort) : Core :=
  { c with regs := { c.regs with strm := c.regs.strm.set i p } }
/-- The bound register's own storage is written at once (R258). -/
def Core.store (c : Core) (r : VReg) (x : VR) : Core := { c with regs := { c.regs with v := c.regs.v.set r x } }

/-- STREAM_CHUNK_ARRIVE (R260, R261): the next chunk that a read stream has not fetched arrives, at most four ahead. An
element that may not be read is left for the pop to report. A core that has halted fetches nothing (R264); commands that hold the access
are noted (R359). -/
def execStreamChunkArrive (core : Nat) (port : Fin 4) (s : State) : Host.Outcome State Fault Refusal :=
  match (s.core core).regs.strm[port] with
  | none => .next s
  | some p =>
    let ahead := (List.range p.chunks.length).foldl (fun (q : StreamPort) _ => { q with pos := q.pos + q.rest }) p
    let back := s.cur
    let held := { s with cur := core }.accessHolders (ahead.accesses fun _ => true)
    if p.desc.write || decide (4 ≤ p.chunks.length) || ahead.rest == 0 || (s.core core).mode != .running ||
        (s.core core).wait == .halted then .next s
    else if !held.isEmpty then .next { { s with cur := core }.noteHold held with cur := back }
    else
      match readChunk p.desc ahead.pos ahead.rest { s with cur := core } with
      | .ok (s, xs, none) =>
        let c := s.core core
        .next { s.setCore core (c.setPort port (some { p with chunks := p.chunks ++ [(ofElems p.desc.width xs, true)],
                                                              fetched := p.fetched + 1 })) with cur := back }
      | _ => .next s

/-! ## Checks (R76, R259, R286) -/

/-- One operand of a vector form: its field number (R37), its register, whether it is read, and the tags it may carry. -/
structure VOp where
  f : Nat
  r : VReg
  allow : Tag → Bool

/-- XVAL of a stream trap (R259). -/
def streamVal (reason : Nat) (x : BitVec 7) : Word := BitVec.ofNat 64 (0x100 * reason) + x.setWidth 64

/-- The stream checks of reasons 1 and 2 (R259), on DST, SA, then SB, then reason 3 in the same order (R286). `dst` is written, `dstRead` says
that it is read as well, and `srcs` are the vector sources SA and SB. -/
def Core.streamBreach (c : Core) (dst : Option VReg) (dstRead : Bool) (srcs : List VReg) : Option Word :=
  let named := (match dst with
    | some d => [d]
    | none => []) ++ srcs
  let twice := fun (r : VReg) => decide (2 ≤ (named.filter (· = r)).length)
  let dstBad := match dst with
    | none => none
    | some d => match c.bound d with
      | none => none
      | some (_, p) =>
        if !p.desc.write || dstRead then some (streamVal 1 (opV d))
        else if twice d then some (streamVal 2 (opV d)) else none
  let srcBad := srcs.findSome? fun r => match c.bound r with
    | none => none
    | some (_, p) =>
      if p.desc.write then some (streamVal 1 (opV r)) else if twice r then some (streamVal 2 (opV r)) else none
  let empty := named.findSome? fun r => match c.bound r with
    | some (_, p) => if p.desc.count ≤ p.pos then some (streamVal 3 (opV r)) else none
    | none => none
  match dstBad with
  | some x => some x
  | none => match srcBad with
    | some x => some x
    | none => empty

/-- The tag an operand's read carries: a stream's own for a bound register (R257). -/
def Core.tagOf (c : Core) (r : VReg) : Tag :=
  match c.bound r with
  | some (_, p) => p.desc.tag
  | none => (c.rdV r).tag

/-- The helper tag_check on operands in order (R76). -/
def Core.tagBreach (c : Core) (ops : List VOp) : Option (Cause × Word) :=
  ops.findSome? fun o =>
    let t := c.tagOf o.r
    let x := BitVec.ofNat 64 (0x100 * o.f) + t.setWidth 64
    if isPoison t then some (.poison, x) else if o.allow t then none else some (.tagMismatch, x)

/-- A word that does not complete, at its issue state; the word in which an uncorrectable element lies is a detected error (R166). -/
def VStop.eff (s : State) : VStop → Eff
  | .trap k x => .trap s k x 0
  | .bad a =>
    let w := a - BitVec.ofNat 64 (a.toNat % 8)
    match s.checkSpad w 8 8 with
    | .ok p => .trap (s.touch s.cur p 8).1 .poison a 0
    | .error _ => .trap s .poison a 0
  | .hold xs => .stall (s.noteHold xs)
/-- A word that stops at its last checks leaves nothing of what it did before them. -/
def Eff.orElse (s : State) : Eff → Eff
  | .trap _ k x m => .trap s k x m
  | .stall t => .stall (s.noteHold t.cc.eng.heldBy)
  | e => e

/-- Pops the streams that sources name, in order: the values they read, and the core's ports advanced (R257, R258).
DEDUCED (log 32). -/
def popAll : List VReg → State → Except VStop (State × List (VData × (Nat → Bool)))
  | [], s => .ok (s, [])
  | r :: rs, s =>
    match s.cc.bound r with
    | none => match popAll rs s with
      | .error e => .error e
      | .ok (s', xs) => .ok (s', ((s.cc.rdV r).bits, fun _ => true) :: xs)
    | some (i, p) => match s.nextChunk p with
      | .error e => .error e
      | .ok (s, x) =>
        let c := (s.cc.setPort i (some p.advance)).store r ⟨x, p.desc.tag⟩
        match popAll rs (s.setCc c) with
        | .error e => .error e
        | .ok (s', xs) => .ok (s', (x, p.tail) :: xs)

/-- The ports of the read streams among the sources whose next chunk has not been fetched ahead. -/
def Core.unfetched (c : Core) (srcs : List VReg) : List StreamPort :=
  srcs.filterMap fun r => (c.bound r).bind fun x => if x.2.chunks.isEmpty then some x.2 else none

/-- The memory checks of an instruction's pops, in operand order, and of its push, `on` saying which elements it stores (R286): first the
hold by the range scoreboard, then BOUNDS and ALIGN of each element. -/
def memStop (dst : Option VReg) (srcs : List VReg) (on : Nat → Bool) (s : State) : Option VStop :=
  let xs := ((s.cc.unfetched srcs).flatMap (·.accesses fun _ => true)) ++
    ((dst.bind s.cc.bound).map fun x => x.2.accesses on).getD []
  if !(s.accessHolders xs).isEmpty then some (.hold (s.accessHolders xs))
  else xs.findSome? fun x => match s.checkElem x.1 x.2 with
    | .error k => some (.trap k x.1)
    | .ok _ => none

/-- The places that a push stores to, with their elements (R257): active elements, or all of them under Z. -/
def pushPlaces (s : State) (p : StreamPort) (stored : Nat → Bool) : List (Nat × Place) :=
  ((List.range p.rest).filter stored).filterMap fun e =>
    match s.checkElem (p.desc.addr (p.pos + e)) (p.desc.width / 8) with
    | .error _ => none
    | .ok q => some (e, q)

/-- Writes a vector result: to its register after its latency, or as a push of a write stream, whose checks have passed (R257, R258,
R260). -/
def putVec (d : VReg) (x : VR) (t lat : Nat) (stored : Nat → Bool) (s : State) : Eff :=
  match s.cc.bound d with
  | none => .done (s.setCc (s.cc.result t lat (.v d x)))
  | some (i, p) =>
    let w := p.desc.width
    let s := (pushPlaces s p stored).foldl (fun s q => storePlace q.2 (toBytes (w / 8) (BitVec.ofNat 64 (elem w x.bits q.1))) s) s
    let c := (s.cc.setPort i (some p.advance)).store d x
    .done (s.setCc c)

/-! ## The vector form (R268) -/

/-- What a vector form is: its element width, result tag, latency and FP datapath time (R254), its mask and STM, whether
inactive elements become zero, the tags that its sources may carry, whether it reads DST, and whether a push must carry its stream's
tag: R286 asks it of opcodes 0x40 to 0x57 alone (R102). -/
structure VForm where
  w : Nat
  tag : Tag
  lat : Nat
  fp : Nat := 0
  stm : Bool := false
  km : KReg := 0
  z : Bool := false
  allowA : Tag → Bool := fun _ => true
  allowB : Tag → Bool := fun _ => true
  readsD : Bool := false
  checkPush : Bool := true

/-- The mask and STM make DST a source (R268). -/
def keepsOld (stm : Bool) (km : KReg) (z : Bool) : Bool := (decide (km ≠ 0) || stm) && !z
/-- DST is read as a source (R268). -/
def VForm.dstSource (p : VForm) : Bool := p.readsD || keepsOld p.stm p.km p.z

/-- The vector register of a vector or general source. -/
def srcVregs : VGSrc → List VReg
  | .v r => [r]
  | .g _ => []

/-- Computes every element in ascending order: active ones by `f` on the floating-point state, inactive ones by `skip`
(R268). -/
def mapElems (n : Nat) (act : Nat → Bool) (rest : Nat → Nat) (f : Nat → FpRegs → Nat × FpRegs)
    (skip : Nat → FpRegs → FpRegs) (fp : FpRegs) : List Nat × FpRegs :=
  let r := (List.range n).foldl (fun (p : List Nat × FpRegs) e =>
    if act e then
      let q := f e p.2
      (q.1 :: p.1, q.2)
    else (rest e :: p.1, skip e p.2)) ([], fp)
  (r.1.reverse, r.2)

/-- The sources of a vector form once every check has passed: the state after the pops, the values of the vector sources
in order, the old DST, and the tail masks of the popped chunks. -/
structure VIn where
  s : State
  xs : List VData
  old : VData
  tail : Nat → Bool

/-- The value of source `i`. -/
def VIn.src (v : VIn) (i : Nat) : VData := v.xs.getD i 0

/-- The checks of a vector form before its memory accesses (R286): stream, tag, then push tag. `a` and `b` are the vector
sources in SA and SB. DESIGN CHOICE (log 185). -/
def vecChecks (p : VForm) (d : Option VReg) (a b : List VReg) (c : Core) : Option VStop :=
  let pushes := match d with
    | some r => (c.bound r).isSome
    | none => false
  let dRead := p.readsD || (p.dstSource && !pushes)
  match c.streamBreach d p.readsD (a ++ b) with
  | some x => some (.trap .stream x)
  | none =>
    let ops := (a.map fun r => (⟨2, r, p.allowA⟩ : VOp)) ++ (b.map fun r => ⟨3, r, p.allowB⟩) ++
      (match d with
        | some r => if dRead then [⟨1, r, fun t => t == p.tag⟩] else []
        | none => [])
    match c.tagBreach ops with
    | some (k, x) => some (.trap k x)
    | none => match d with
      | some r => match c.bound r with
        | some (_, q) =>
          if p.checkPush && q.desc.tag != p.tag then some (.trap .tagMismatch ((0x100#64 : Word) + p.tag.setWidth 64)) else none
        | none => none
      | none => none

/-- The tail masks of the chunks that the sources will pop (R257). -/
def Core.tails (c : Core) (srcs : List VReg) (e : Nat) : Bool := srcs.all fun r => (c.bound r).all fun x => x.2.tail e

/-- The checks of a vector form and its pops (R286); `stored` says, from the tail masks of its chunks, which elements a push of the form
stores. -/
def openVec (p : VForm) (d : Option VReg) (a b : List VReg) (stored : (Nat → Bool) → Nat → Bool) (s : State) : Except VStop VIn :=
  match vecChecks p d a b s.cc with
  | some e => .error e
  | none => match memStop d (a ++ b) (stored (s.cc.tails (a ++ b))) s with
    | some e => .error e
    | none => match popAll (a ++ b) s with
    | .error e => .error e
    | .ok (s', xs) =>
      .ok { s := s', xs := xs.map (·.1),
            old := match d with
              | some r => (s.cc.rdV r).bits
              | none => 0
            tail := fun e => xs.all fun x => x.2 e }

/-- The active elements of a form (R268). -/
def VForm.active (p : VForm) (c : Core) (v : VIn) (e : Nat) : Bool :=
  (c.rdK p.km).getLsbD e && (!p.stm || v.tail e)

/-- The uses of a vector form: its sources, mask and destination. -/
def vUses (d : BitVec 7) (dSource : Bool) (srcs : List (BitVec 7)) (km : KReg) (fp : Nat) : Uses :=
  { srcs := srcs ++ [opK km] ++ (if dSource then [d] else []), dsts := [d],
    unit := if fp = 0 then .none else .fp }

/-- The FP datapath is busy from issue on (R254). -/
def Core.busyFp (c : Core) (fp : Nat) : Core := if fp = 0 then c else c.setTmg fun m => { m with fpBusy := m.clk + fp }

/-- The effect of a form with a vector destination: `act` says which elements are active, `f` computes one of them, and
`retag` gives the tag of the result from its bits. DESIGN CHOICE (log 188). -/
def vecEff (p : VForm) (d : VReg) (a b : List VReg) (act : Core → VIn → Nat → Bool)
    (f : VIn → Nat → FpRegs → Nat × FpRegs) (skip : Nat → FpRegs → FpRegs) (retag : Core → VData → Tag) (s : State) :
    Eff :=
  match openVec p (some d) a b (fun tail e => act s.cc { s := s, xs := [], old := 0, tail := tail } e || p.z) s with
  | .error e => e.eff s
  | .ok v =>
    let on := act s.cc v
    let r := mapElems (1024 / p.w) on (fun e => if p.z then 0 else elem p.w v.old e) (f v) skip v.s.cc.regs.fp
    let x := ofElems p.w r.1
    let s1 := v.s.setCc ((v.s.cc.setFp fun _ => r.2).busyFp p.fp)
    (putVec d ⟨x, retag s.cc x⟩ s.cc.tmg.clk p.lat (fun e => on e || p.z) s1).orElse s

/-- An element-wise form with a vector destination. `f` computes an active element from a, b and the old DST. -/
def vecForm (h : Hdr) (p : VForm) (d a : VReg) (b : Option VGSrc)
    (f : Nat → Nat → Nat → Nat → FpRegs → Nat × FpRegs) (skip : Nat → FpRegs → FpRegs) (s : State) :
    Host.Outcome State Fault Refusal :=
  let nb := match b with
    | some x => [opVG x]
    | none => []
  issueWord h (opV d) (opV a) (nb.headD 0) (vUses (opV d) p.dstSource (opV a :: nb) p.km p.fp) (fun s =>
    let bv := match b with
      | some x => srcVregs x
      | none => []
    let bAt : VIn → Nat → Nat := fun v => match b with
      | some (.g r) => fun _ => (s.cc.rdG r).toNat % 2 ^ p.w
      | _ => elem p.w (v.src 1)
    vecEff p d [a] bv p.active (fun v e => f e (elem p.w (v.src 0) e) (bAt v e) (elem p.w v.old e)) skip
      (fun _ _ => p.tag) s) s

/-- An element-wise form with a mask destination (R268, R273). -/
def maskForm (h : Hdr) (p : VForm) (d : KReg) (a : VReg) (b : VGSrc)
    (f : Nat → Nat → FpRegs → Bool × FpRegs) (s : State) : Host.Outcome State Fault Refusal :=
  issueWord h (opK d) (opV a) (opVG b) (vUses (opK d) p.dstSource [opV a, opVG b] p.km p.fp) (fun s =>
      match openVec p none [a] (srcVregs b) (fun _ _ => false) s with
      | .error e => e.eff s
      | .ok v =>
        let bAt := match b with
          | .g r => fun _ => (s.cc.rdG r).toNat % 2 ^ p.w
          | .v _ => elem p.w (v.src 1)
        let old := s.cc.rdK d
        let r := mapElems (1024 / p.w) (p.active s.cc v) (fun e => if p.z then 0 else (old.getLsbD e).toNat)
          (fun e fp =>
            let q := f (elem p.w (v.src 0) e) (bAt e) fp
            (q.1.toNat, q.2)) (fun _ fp => fp) v.s.cc.regs.fp
        let m : Mask := r.1.foldr (fun x (acc : Mask) => (acc <<< 1) ||| BitVec.ofNat 128 x) 0
        let c := (v.s.cc.setFp fun _ => r.2).busyFp p.fp
        .done (v.s.setCc (c.result s.cc.tmg.clk p.lat (.k d m)))) s

/-- No generator steps. -/
def noSkip (_ : Nat) (fp : FpRegs) : FpRegs := fp
/-- In SR an inactive element steps its lane's generator (R268). -/
def srSkip (w : Nat) (rm : BitVec 3) (e : Nat) (fp : FpRegs) : FpRegs :=
  if fp.mode rm = modeSR then fp.stepSr (laneOf w e) else fp

/-- A code without qualifier as a tag. -/
def codeTag (c : BitVec 6) : Tag := c.setWidth 8
/-- A source's tag carries the code, with any qualifier (R265). -/
def hasCode (c : BitVec 6) (t : Tag) : Bool := t.extractLsb' 0 6 == c
/-- The format of a code. -/
def codeFmt (c : BitVec 6) : Fmt := fmtOf (codeTag c)

end Sys2Proof.Machine
end

