-- ==== Sys2Proof/Machine/Convert.lean ====
section
/-! DEFINITION. The conversion instructions, opcodes 0x38 to 0x3C (R90 to R102). -/
namespace Sys2Proof.Machine
open Sys2Proof

/-! ## Chunked maps (R92) -/

/-- Which source element fills destination element e, for widths ws and wd and chunk c; none outside a narrowing form's
chunk. -/
def chunkSrc (ws wd c e : Nat) : Option Nat :=
  let ns := 1024 / ws
  let nd := 1024 / wd
  if wd < ws then (if c * ns ≤ e ∧ e < c * ns + ns then some (e - c * ns) else none)
  else if ws < wd then some (c * nd + e)
  else some e

/-- XVAL of the chunk check (R92). -/
def chunkVal (t : Tag) : Word := 0x10200#64 + t.setWidth 64

/-- The elements of a write stream of width `w` that a result stores whose elements of width `wd` are stored as `on` says.
DESIGN CHOICE (log 180). -/
def pushElems (w wd : Nat) (on : Nat → Bool) (e : Nat) : Bool := on (e * w / wd)

/-- A conversion under R92: its checks (R259, R102), the map and the flags. `conv` converts one source element, given the
source's tag, every source, and the lane of its destination. The traps of its pops and pushes, which R102 does not list, come where R286
has them: STREAM before the tags, and those of memory behind the chunk check. A push need not carry its stream's tag. DEDUCED (log 36). -/
def convEff (tag : Tag) (d a : VReg) (b : List VReg) (allowA allowB : Tag → Bool) (rm : BitVec 3) (stm : Bool)
    (chunk : BitVec 4) (conv : Core → Tag → VIn → Fin 16 → Nat → FpRegs → Nat × FpRegs) (s : State) : Eff :=
  let ts := s.cc.tagOf a
  let ws := tagWidth ts
  let wd := tagWidth tag
  let c := chunk.toNat
  let p : VForm := { w := wd, tag := tag, lat := 4, stm := (decide (wd < ws) && decide (0 < c)) || stm,
                     allowA := allowA, allowB := allowB, checkPush := false }
  let pick := chunkSrc ws wd c
  let on := fun (tail : Nat → Bool) e => match pick e with
    | some i => !stm || tail i
    | none => false
  let clear := fun e => (pick e).isNone && c == 0
  let w := ((s.cc.bound d).map fun x => x.2.desc.width).getD wd
  let stored := fun (tail : Nat → Bool) => pushElems w wd fun e => on tail e || clear e
  match vecChecks p (some d) [a] b s.cc with
  | some e => e.eff s
  | none =>
    if max ws wd / min ws wd ≤ c then .trap s .tagMismatch (chunkVal ts) 0
    else match openVec p (some d) [a] b stored s with
      | .error e => e.eff s
      | .ok v =>
        let r := mapElems (1024 / wd) (on v.tail) (fun e => if clear e then 0 else elem wd v.old e)
          (fun e => conv s.cc ts v (laneOf wd e) (elem ws (v.src 0) ((pick e).getD 0)))
          (fun e fp => if (pick e).isSome then srSkip wd rm e fp else fp) v.s.cc.regs.fp
        (putVec d ⟨ofElems wd r.1, tag⟩ s.cc.tmg.clk 4 (stored v.tail) (v.s.setCc (v.s.cc.setFp fun _ => r.2))).orElse s

/-- What a conversion to `tag` reads and writes; DST under STM, and where a chunk but the first of a narrowing form keeps its other
elements (R92). -/
def convUses (tag : Tag) (d a : VReg) (srcs : List (BitVec 7)) (stm : Bool) (chunk : BitVec 4) : Uses :=
  { srcs := srcs ++ (if stm then [opV d] else []), dsts := [opV d]
    also := fun c => if !stm && chunk ≠ 0 && decide (tagWidth tag < tagWidth (c.tagOf a)) then [opV d] else [] }

/-- VCVT (R94). DEDUCED (log 35). -/
def execVcvt (h : Hdr) (tag : BitVec 8) (d a : VReg) (rm : BitVec 3) (stm : Bool) (chunk : BitVec 4) (s : State) :
    Host.Outcome State Fault Refusal :=
  issueWord h (opV d) (opV a) 0 (convUses tag d a [opV a] stm chunk)
    (convEff tag d a [] inSetC (fun _ => true) rm stm chunk
      (fun _ ts _ l x fp => fp.round (fmtOf tag) rm l ((fmtOf ts).value x))) s

/-- VCVTS (R95): times 2^n, n a signed general register. -/
def execVcvts (h : Hdr) (tag : BitVec 8) (d a : VReg) (b : GReg) (rm : BitVec 3) (stm : Bool) (chunk : BitVec 4)
    (s : State) : Host.Outcome State Fault Refusal :=
  issueWord h (opV d) (opV a) 0 (convUses tag d a [opV a, opG b] stm chunk)
    (convEff tag d a [] inSetC (fun _ => true) rm stm chunk
      (fun c ts _ l x fp => fp.round (fmtOf tag) rm l (((fmtOf ts).value x).scale (c.rdG b).toInt))) s

/-- VTAG (R96): the bits under a new tag. -/
def execVtag (h : Hdr) (tag : BitVec 8) (d a : VReg) (s : State) : Host.Outcome State Fault Refusal :=
  issueWord h (opV d) (opV a) 0 { srcs := [opV a], dsts := [opV d] } (fun s =>
    let p : VForm := { w := 64, tag := tag, lat := 2, checkPush := false }
    vecEff p d [a] [] p.active (fun v e fp => (elem 64 (v.src 0) e, fp)) noSkip (fun _ _ => tag) s) s

/-- VTAGR (R97): reads no data, pops nothing, and does not trap. Of a register bound to a write stream or to an exhausted read stream,
where no pop is to come, it reads the stream's declared tag. DESIGN CHOICE (log 162). -/
def execVtagr (h : Hdr) (d : GReg) (a : VReg) (s : State) : Host.Outcome State Fault Refusal :=
  scalarForm h [opV a] 2 (opG d) (fun c => .g d ((c.tagOf a).setWidth 64)) s

/-! ## Block scales (R71, R72, R98 to R100) -/

/-- The value of an S10 pattern that is no NaN scale, the rule carried on past the largest (R71). -/
def s10Finite (p : Nat) : Ex :=
  if p / 4 = 0 then .num false (p % 4) (-128) false else .num false (4 + p % 4) ((p / 4 : Int) - 129) false
/-- The value of an S10 container (R71, R72). -/
def s10Value (x : Nat) : Ex := if x % 1024 / 4 = 255 then .nan false else s10Finite (x % 1024)

/-- A tag is S10. -/
def isS10 (t : Tag) : Bool := t == 6#8
/-- A tag is FP32. -/
def isF32 (t : Tag) : Bool := t == 2#8

/-- The greatest of the finite magnitudes of a block. -/
def blockMax (xs : List Ex) : Ex :=
  xs.foldl (fun m x =>
    let y : Ex := if x.neg then x.negate else x
    if m.cmp y == .lt then y else m) (.num false 0 0 false)

/-- The largest finite value of a target format. -/
def Fmt.maxVal (f : Fmt) : Ex := f.value f.maxCode

/-- The smallest S10 pattern whose value times `big` is not below `amax` > 0: bit by bit, the largest pattern below, and
one more. -/
def s10Ceil (amax big : Ex) : Nat :=
  ((List.range 10).reverse.foldl (fun p i =>
    if ((s10Finite (p + 2 ^ i)).mul big).cmp amax == .lt then p + 2 ^ i else p) 0) + 1

/-- The scale of a block for a target, and its flags (R98). -/
def blockScale (target : Fmt) (xs : List Ex) : Nat × BitVec 5 :=
  if xs.any fun x => x.isNan || x.isInf then (0x3FC, 0)
  else
    let amax := blockMax xs
    if amax.isZero then (0x1FC, 0)
    else if ((s10Finite 0x3FB).mul target.maxVal).cmp amax == .lt then (0x3FB, flagOF)
    else (s10Ceil amax target.maxVal, 0)

/-- What VSCL reads and writes: DST only where its tag is S10 (R98). -/
def vsclUses (d a : VReg) : Uses :=
  { srcs := [opV a], dsts := [opV d], also := fun c => if (c.bound d).isNone && isS10 (c.rdV d).tag then [opV d] else [] }

/-- VSCL (R98): element j of DST; the others stay where DST's tag is S10 and no stream is bound to it, else become zero.
DEDUCED (log 37). -/
def execVscl (h : Hdr) (tag : BitVec 8) (d a : VReg) (j : BitVec 6) (s : State) : Host.Outcome State Fault Refusal :=
  issueWord h (opV d) (opV a) 0 (vsclUses d a) (fun s =>
    let p : VForm := { w := 16, tag := 6#8, lat := 4, z := true, allowA := isF32, checkPush := false }
    let keep := (s.cc.bound d).isNone && isS10 (s.cc.rdV d).tag
    match openVec p (some d) [a] [] (fun _ _ => true) s with
    | .error e => e.eff s
    | .ok v =>
      let r := blockScale (fmtOf tag) ((List.range 32).map fun e => fp32.value (elem 32 (v.src 0) e))
      let x := setElem16 (if keep then v.old else 0) j.toNat r.1
      (putVec d ⟨x, 6#8⟩ s.cc.tmg.clk 4 (fun _ => true) (v.s.setCc (v.s.cc.setFp fun f => f.raise r.2))).orElse s) s
where
  setElem16 (x : VData) (i v : Nat) : VData :=
    (x &&& ~~~(0xFFFF#1024 <<< (i * 16))) ||| (BitVec.ofNat 1024 (v % 65536) <<< (i * 16))

/-- VQUANT (R99): each FP32 element over the scale; a zero or NaN scale gives the format's NaN, or zero, and NV. -/
def execVquant (h : Hdr) (tag : BitVec 8) (d a b : VReg) (rm : BitVec 3) (chunk : BitVec 4) (j : BitVec 6) (s : State) :
    Host.Outcome State Fault Refusal :=
  issueWord h (opV d) (opV a) (opV b) (convUses tag d a [opV a, opV b] false chunk)
    (convEff tag d a [b] isF32 isS10 rm false chunk (fun _ _ v l x fp =>
      let sc := s10Value (elem 16 (v.src 1) j.toNat)
      if sc.isNan || sc.isZero then
        ((fmtOf tag).nan, (if fp.mode rm = modeSR then fp.stepSr l else fp).raise flagNV)
      else fp.round (fmtOf tag) rm l ((fp32.value x).div sc))) s

/-- VDEQ (R100): each element times the scale, to FP32. -/
def execVdeq (h : Hdr) (d a b : VReg) (rm : BitVec 3) (chunk : BitVec 4) (j : BitVec 6) (s : State) :
    Host.Outcome State Fault Refusal :=
  issueWord h (opV d) (opV a) (opV b) (convUses 2#8 d a [opV a, opV b] false chunk)
    (convEff 2#8 d a [b] inSetQ isS10 rm false chunk (fun _ ts v l x fp =>
      fp.round fp32 rm l (((fmtOf ts).value x).mul (s10Value (elem 16 (v.src 1) j.toNat))))) s

end Sys2Proof.Machine
end

