-- ==== Sys2Proof/Machine/Scalar.lean ====
section
/-! DEFINITION. The scalar integer and address instructions, opcodes 0x01 to 0x0A (R111 to R120), and the end of a
division (R104). -/
namespace Sys2Proof.Machine
open Sys2Proof

def execAdd (h : Hdr) (d a b : GReg) (w : Bool) (s : State) : Host.Outcome State Fault Refusal :=
  gForm h d [a, b] 1 (fun c => wide2 w (fun x y => x + y) (c.rdG a) (c.rdG b)) s
def execSub (h : Hdr) (d a b : GReg) (w : Bool) (s : State) : Host.Outcome State Fault Refusal :=
  gForm h d [a, b] 1 (fun c => wide2 w (fun x y => x - y) (c.rdG a) (c.rdG b)) s
def execAndR (h : Hdr) (d a b : GReg) (s : State) : Host.Outcome State Fault Refusal :=
  gForm h d [a, b] 1 (fun c => c.rdG a &&& c.rdG b) s
def execOrR (h : Hdr) (d a b : GReg) (s : State) : Host.Outcome State Fault Refusal :=
  gForm h d [a, b] 1 (fun c => c.rdG a ||| c.rdG b) s
def execXorR (h : Hdr) (d a b : GReg) (s : State) : Host.Outcome State Fault Refusal :=
  gForm h d [a, b] 1 (fun c => c.rdG a ^^^ c.rdG b) s
def execAndn (h : Hdr) (d a b : GReg) (s : State) : Host.Outcome State Fault Refusal :=
  gForm h d [a, b] 1 (fun c => c.rdG a &&& ~~~(c.rdG b)) s
def execOrn (h : Hdr) (d a b : GReg) (s : State) : Host.Outcome State Fault Refusal :=
  gForm h d [a, b] 1 (fun c => c.rdG a ||| ~~~(c.rdG b)) s
def execNeg (h : Hdr) (d a : GReg) (w : Bool) (s : State) : Host.Outcome State Fault Refusal :=
  gForm h d [a] 1 (fun c => wide1 w (fun x => 0 - x) (c.rdG a)) s
def execAddi (h : Hdr) (d a : GReg) (w : Bool) (imm : BitVec 32) (s : State) : Host.Outcome State Fault Refusal :=
  gForm h d [a] 1 (fun c => wide2 w (fun x y => x + y) (c.rdG a) (sextImm imm)) s
def execAndi (h : Hdr) (d a : GReg) (imm : BitVec 32) (s : State) : Host.Outcome State Fault Refusal :=
  gForm h d [a] 1 (fun c => c.rdG a &&& sextImm imm) s
def execOri (h : Hdr) (d a : GReg) (imm : BitVec 32) (s : State) : Host.Outcome State Fault Refusal :=
  gForm h d [a] 1 (fun c => c.rdG a ||| zextImm imm) s
def execXori (h : Hdr) (d a : GReg) (imm : BitVec 32) (s : State) : Host.Outcome State Fault Refusal :=
  gForm h d [a] 1 (fun c => c.rdG a ^^^ zextImm imm) s

/-! ## Shifts (R112) -/

def execShl (h : Hdr) (d a : GReg) (w : Bool) (src : ShSrc) (s : State) : Host.Outcome State Fault Refusal :=
  gForm h d (shiftSrcs a src) 1 (fun c => wide1 w (fun x => x <<< shiftAmount w src c) (c.rdG a)) s
def execShr (h : Hdr) (d a : GReg) (w : Bool) (src : ShSrc) (s : State) : Host.Outcome State Fault Refusal :=
  gForm h d (shiftSrcs a src) 1 (fun c => wide1 w (fun x => x >>> shiftAmount w src c) (c.rdG a)) s
def execShra (h : Hdr) (d a : GReg) (w : Bool) (src : ShSrc) (s : State) : Host.Outcome State Fault Refusal :=
  gForm h d (shiftSrcs a src) 1 (fun c => wide1 w (fun x => x.sshiftRight (shiftAmount w src c)) (c.rdG a)) s
def execRol (h : Hdr) (d a : GReg) (w : Bool) (src : ShSrc) (s : State) : Host.Outcome State Fault Refusal :=
  gForm h d (shiftSrcs a src) 1 (fun c => wide1 w (fun x => x.rotateLeft (shiftAmount w src c)) (c.rdG a)) s
def execRor (h : Hdr) (d a : GReg) (w : Bool) (src : ShSrc) (s : State) : Host.Outcome State Fault Refusal :=
  gForm h d (shiftSrcs a src) 1 (fun c => wide1 w (fun x => x.rotateRight (shiftAmount w src c)) (c.rdG a)) s

/-! ## Multiplication and division (R113, R114) -/

/-- The high half of the signed product (R113). -/
def mulHigh {n : Nat} (a b : BitVec n) : BitVec n := BitVec.ofInt n (a.toInt * b.toInt / (2 : Int) ^ n)
/-- The high half of the natural product (R113). -/
def mulHighN {n : Nat} (a b : BitVec n) : BitVec n := BitVec.ofNat n (a.toNat * b.toNat / 2 ^ n)

/-- The signed quotient and remainder of R114, defined for every input. -/
def idivS {n : Nat} (a b : BitVec n) : BitVec n × BitVec n :=
  if b = 0 then (BitVec.allOnes n, a)
  else if a = BitVec.intMin n ∧ b = BitVec.allOnes n then (a, 0)
  else (BitVec.ofInt n (a.toInt.tdiv b.toInt), BitVec.ofInt n (a.toInt.tmod b.toInt))
/-- The natural quotient and remainder of R114. -/
def idivN {n : Nat} (a b : BitVec n) : BitVec n × BitVec n :=
  if b = 0 then (BitVec.allOnes n, a) else (a / b, a % b)

/-- The bit length of a natural number. -/
def bitLen (n : Nat) : Nat := if n = 0 then 0 else n.log2 + 1

/-- The divider's latency for an integer form (R104). -/
def divLatency {n : Nat} (signed : Bool) (a b : BitVec n) : Nat :=
  if b = 0 then 5
  else if signed && decide (a = BitVec.intMin n ∧ b = BitVec.allOnes n) then 5
  else
    let q := if signed then (a.toInt.tdiv b.toInt).natAbs else a.toNat / b.toNat
    5 + (bitLen q + 1) / 2

/-- The latency at the form's width. -/
def divLatencyW (w signed : Bool) (a b : Word) : Nat :=
  if w then divLatency signed (lowW a) (lowW b) else divLatency signed a b

def execMul (h : Hdr) (d a b : GReg) (w : Bool) (s : State) : Host.Outcome State Fault Refusal :=
  gForm h d [a, b] 3 (fun c => wide2 w (fun x y => x * y) (c.rdG a) (c.rdG b)) s
def execMulh (h : Hdr) (d a b : GReg) (w : Bool) (s : State) : Host.Outcome State Fault Refusal :=
  gForm h d [a, b] 4 (fun c => wide2 w (fun x y => mulHigh x y) (c.rdG a) (c.rdG b)) s
def execMulhn (h : Hdr) (d a b : GReg) (w : Bool) (s : State) : Host.Outcome State Fault Refusal :=
  gForm h d [a, b] 4 (fun c => wide2 w (fun x y => mulHighN x y) (c.rdG a) (c.rdG b)) s
def execDiv (h : Hdr) (d a b : GReg) (w : Bool) (s : State) : Host.Outcome State Fault Refusal :=
  divForm h d [a, b] (fun c => divLatencyW w true (c.rdG a) (c.rdG b))
    (fun c => (c, wide2 w (fun x y => (idivS x y).1) (c.rdG a) (c.rdG b))) s
def execDivn (h : Hdr) (d a b : GReg) (w : Bool) (s : State) : Host.Outcome State Fault Refusal :=
  divForm h d [a, b] (fun c => divLatencyW w false (c.rdG a) (c.rdG b))
    (fun c => (c, wide2 w (fun x y => (idivN x y).1) (c.rdG a) (c.rdG b))) s
def execRem (h : Hdr) (d a b : GReg) (w : Bool) (s : State) : Host.Outcome State Fault Refusal :=
  divForm h d [a, b] (fun c => divLatencyW w true (c.rdG a) (c.rdG b))
    (fun c => (c, wide2 w (fun x y => (idivS x y).2) (c.rdG a) (c.rdG b))) s
def execRemn (h : Hdr) (d a b : GReg) (w : Bool) (s : State) : Host.Outcome State Fault Refusal :=
  divForm h d [a, b] (fun c => divLatencyW w false (c.rdG a) (c.rdG b))
    (fun c => (c, wide2 w (fun x y => (idivN x y).2) (c.rdG a) (c.rdG b))) s

/-- DIVIDER_RESULT (R104): the divider of a core has run for its latency, and what it computes is written; the core has
issued nothing meanwhile. -/
def execDividerResult (core : Nat) (s : State) : Host.Outcome State Fault Refusal :=
  let c := s.core core
  if c.tmg.flights.any (·.locked) then
    .next (s.setCore core ((c.settle (max c.tmg.clk c.tmg.divBusy)).setTmg fun m =>
      { m with clk := max c.tmg.clk c.tmg.divBusy }))
  else .next s

/-! ## Bit counts and orders (R115) -/

def clz {n : Nat} (a : BitVec n) : Nat := n - bitLen a.toNat
def ctz {n : Nat} (a : BitVec n) : Nat := if a = 0 then n else (a &&& (0 - a)).toNat.log2
def popc {n : Nat} (a : BitVec n) : Nat := (List.range n).foldl (fun k i => if a.getLsbD i then k + 1 else k) 0
def brev {n : Nat} (a : BitVec n) : BitVec n :=
  (List.range n).foldl (fun (x : BitVec n) i => (x <<< 1) ||| (BitVec.ofBool (a.getLsbD i)).setWidth n) 0
def bswap {n : Nat} (a : BitVec n) : BitVec n := ofBytes n (toBytes (n / 8) a).reverse

def execClz (h : Hdr) (d a : GReg) (w : Bool) (s : State) : Host.Outcome State Fault Refusal :=
  gForm h d [a] 1 (fun c => wide1 w (fun x => BitVec.ofNat _ (clz x)) (c.rdG a)) s
def execCtz (h : Hdr) (d a : GReg) (w : Bool) (s : State) : Host.Outcome State Fault Refusal :=
  gForm h d [a] 1 (fun c => wide1 w (fun x => BitVec.ofNat _ (ctz x)) (c.rdG a)) s
def execPopc (h : Hdr) (d a : GReg) (w : Bool) (s : State) : Host.Outcome State Fault Refusal :=
  gForm h d [a] 1 (fun c => wide1 w (fun x => BitVec.ofNat _ (popc x)) (c.rdG a)) s
def execBrev (h : Hdr) (d a : GReg) (w : Bool) (s : State) : Host.Outcome State Fault Refusal :=
  gForm h d [a] 1 (fun c => wide1 w (fun x => brev x) (c.rdG a)) s
def execBswap (h : Hdr) (d a : GReg) (w : Bool) (s : State) : Host.Outcome State Fault Refusal :=
  gForm h d [a] 1 (fun c => wide1 w (fun x => bswap x) (c.rdG a)) s

/-! ## Fields (R116) -/

/-- The length L of a field: none of it lies past the width. -/
def fieldLen (n pos len : Nat) : Nat := min len (n - pos)
def bfx {n : Nat} (pos len : Nat) (a : BitVec n) : BitVec n :=
  let l := fieldLen n pos len
  if l = 0 then 0 else (a.extractLsb' pos l).signExtend n
def bfxn {n : Nat} (pos len : Nat) (a : BitVec n) : BitVec n :=
  let l := fieldLen n pos len
  if l = 0 then 0 else (a.extractLsb' pos l).setWidth n
def bfi {n : Nat} (pos len : Nat) (d a : BitVec n) : BitVec n :=
  let l := fieldLen n pos len
  if l = 0 then d
  else
    let m := BitVec.ofNat n (2 ^ l - 1) <<< pos
    (d &&& ~~~m) ||| ((a <<< pos) &&& m)

def execBfx (h : Hdr) (d a : GReg) (w : Bool) (pos : BitVec 6) (len : BitVec 7) (s : State) :
    Host.Outcome State Fault Refusal :=
  gForm h d [a] 1 (fun c => wide1 w (fun x => bfx pos.toNat len.toNat x) (c.rdG a)) s
def execBfxn (h : Hdr) (d a : GReg) (w : Bool) (pos : BitVec 6) (len : BitVec 7) (s : State) :
    Host.Outcome State Fault Refusal :=
  gForm h d [a] 1 (fun c => wide1 w (fun x => bfxn pos.toNat len.toNat x) (c.rdG a)) s
def execBfi (h : Hdr) (d a : GReg) (w : Bool) (pos : BitVec 6) (len : BitVec 7) (s : State) :
    Host.Outcome State Fault Refusal :=
  gForm h d [d, a] 1 (fun c => wide2 w (fun x y => bfi pos.toNat len.toNat x y) (c.rdG d) (c.rdG a)) s

/-! ## Minimum, maximum and selection (R117) -/

def execMin (h : Hdr) (d a b : GReg) (w : Bool) (s : State) : Host.Outcome State Fault Refusal :=
  gForm h d [a, b] 1 (fun c => wide2 w (fun x y => if y.slt x then y else x) (c.rdG a) (c.rdG b)) s
def execMinn (h : Hdr) (d a b : GReg) (w : Bool) (s : State) : Host.Outcome State Fault Refusal :=
  gForm h d [a, b] 1 (fun c => wide2 w (fun x y => if y.ult x then y else x) (c.rdG a) (c.rdG b)) s
def execMax (h : Hdr) (d a b : GReg) (w : Bool) (s : State) : Host.Outcome State Fault Refusal :=
  gForm h d [a, b] 1 (fun c => wide2 w (fun x y => if x.slt y then y else x) (c.rdG a) (c.rdG b)) s
def execMaxn (h : Hdr) (d a b : GReg) (w : Bool) (s : State) : Host.Outcome State Fault Refusal :=
  gForm h d [a, b] 1 (fun c => wide2 w (fun x y => if x.ult y then y else x) (c.rdG a) (c.rdG b)) s
def execSel (h : Hdr) (d a b : GReg) (c : PReg) (neg : Bool) (s : State) : Host.Outcome State Fault Refusal :=
  scalarForm h [opG a, opG b, opP c] 1 (opG d) (fun k => .g d (if k.rdP c != neg then k.rdG a else k.rdG b)) s

/-! ## Moves and addresses (R118, R119) -/

def execMov (h : Hdr) (d a : GReg) (s : State) : Host.Outcome State Fault Refusal :=
  gForm h d [a] 1 (fun c => c.rdG a) s
def execMovi (h : Hdr) (d : GReg) (imm : BitVec 32) (s : State) : Host.Outcome State Fault Refusal :=
  gForm h d [] 1 (fun _ => sextImm imm) s
def execMovhi (h : Hdr) (d : GReg) (imm : BitVec 32) (s : State) : Host.Outcome State Fault Refusal :=
  gForm h d [d] 1 (fun c => imm ++ lowW (c.rdG d)) s
def execMovp (h : Hdr) (o : MovpOps) (s : State) : Host.Outcome State Fault Refusal :=
  match o with
  | .toG d a => scalarForm h [opP a] 1 (opG d) (fun c => .g d (if c.rdP a then 1 else 0)) s
  | .toP d a => scalarForm h [opG a] 1 (opP d) (fun c => .p d (c.rdG a != 0)) s
def execLea (h : Hdr) (d a b : GReg) (sc : BitVec 3) (imm : BitVec 32) (s : State) :
    Host.Outcome State Fault Refusal :=
  gForm h d [a, b] 1 (fun c => c.rdG a + (c.rdG b <<< sc.toNat) + sextImm imm) s

/-! ## Comparison (R120) -/

/-- The outcome of a condition over n bits. -/
def cmpCond {n : Nat} (cc : BitVec 4) (a b : BitVec n) : Bool :=
  match cc.toNat with
  | 0 => a == b
  | 1 => a != b
  | 2 => a.slt b
  | 3 => !a.slt b
  | 4 => a.ult b
  | 5 => !a.ult b
  | 6 => a &&& b != 0
  | _ => a &&& b == 0

def execCmp (h : Hdr) (d : PReg) (a : GReg) (cc : BitVec 4) (w : Bool) (src : CmpSrc) (s : State) :
    Host.Outcome State Fault Refusal :=
  let rhs := fun (c : Core) => match src with
    | .reg b => c.rdG b
    | .imm n => sextImm n
  let srcs := match src with
    | .reg b => [opG a, opG b]
    | .imm _ => [opG a]
  pForm h d srcs 1 (fun c => if w then cmpCond cc (lowW (c.rdG a)) (lowW (rhs c)) else cmpCond cc (c.rdG a) (rhs c)) s

end Sys2Proof.Machine
end

