-- ==== Sys2Proof/Machine/ScalarFp.lean ====
section
/-! DEFINITION. The scalar floating-point instructions, opcodes 0x0B to 0x0D (R121 to R127), and SCVT (R101). -/
namespace Sys2Proof.Machine
open Sys2Proof

/-- The format of a scalar form (R121). -/
def sFmt (f32 : Bool) : Fmt := if f32 then fp32 else fp64
/-- A source's pattern: `.f32` ignores bits [63:32] (R121). -/
def sBits (f32 : Bool) (x : Word) : Nat := if f32 then (x.setWidth 32).toNat else x.toNat
/-- A source's value. -/
def sVal (f32 : Bool) (x : Word) : Ex := (sFmt f32).value (sBits f32 x)
/-- A result pattern as it is written: `.f32` results zero-extended (R121). -/
def sOut (x : Nat) : Word := BitVec.ofNat 64 x

/-- Rounds a scalar result with lane 0's generator and sets the flags (R121). -/
def Core.roundS (c : Core) (f32 : Bool) (rm : BitVec 3) (x : Ex) (extra : BitVec 5) : Core × Word :=
  let r := c.regs.fp.round (sFmt f32) rm 0 x
  (c.setFp fun _ => r.2.raise extra, sOut r.1)

/-- A rounding scalar form of fixed latency 4. -/
def faForm (h : Hdr) (d : GReg) (srcs : List GReg) (rm : BitVec 3) (f32 : Bool) (op : Core → Bool → Ex) (s : State) :
    Host.Outcome State Fault Refusal :=
  issueCore h 0 0 0 { srcs := srcs.map opG, dsts := [opG d] } (fun c =>
    let r := c.roundS f32 rm (op c (c.regs.fp.mode rm == modeRDN)) 0
    .ok (r.1.result c.tmg.clk 4 (.g d r.2))) s

def execFadd (h : Hdr) (d a b : GReg) (rm : BitVec 3) (f32 : Bool) (s : State) : Host.Outcome State Fault Refusal :=
  faForm h d [a, b] rm f32 (fun c rdn => (sVal f32 (c.rdG a)).add rdn (sVal f32 (c.rdG b))) s
def execFsub (h : Hdr) (d a b : GReg) (rm : BitVec 3) (f32 : Bool) (s : State) : Host.Outcome State Fault Refusal :=
  faForm h d [a, b] rm f32 (fun c rdn => (sVal f32 (c.rdG a)).add rdn (sVal f32 (c.rdG b)).negate) s
def execFmul (h : Hdr) (d a b : GReg) (rm : BitVec 3) (f32 : Bool) (s : State) : Host.Outcome State Fault Refusal :=
  faForm h d [a, b] rm f32 (fun c _ => (sVal f32 (c.rdG a)).mul (sVal f32 (c.rdG b))) s
def execFma (h : Hdr) (d a b : GReg) (rm : BitVec 3) (f32 : Bool) (s : State) : Host.Outcome State Fault Refusal :=
  faForm h d [d, a, b] rm f32
    (fun c rdn => Ex.fma rdn (sVal f32 (c.rdG a)) (sVal f32 (c.rdG b)) (sVal f32 (c.rdG d))) s

/-- A value that is a power of two in magnitude: R104 does not say whether a negative divisor counts as one. DESIGN CHOICE (log 163). -/
def Ex.isPow2 : Ex → Bool
  | .num _ m _ _ => decide (m ≠ 0) && m == 2 ^ m.log2
  | _ => false
/-- A NaN, an infinity or a zero (R104). -/
def Ex.special (x : Ex) : Bool := x.isNan || x.isInf || x.isZero

/-- The divider's latency for FDIV (R104). -/
def fdivLatency (f32 : Bool) (a b : Ex) : Nat :=
  if a.special || b.special || b.isPow2 then (if f32 then 8 else 10) else (if f32 then 14 else 28)
/-- The divider's latency for FSQRT (R104). -/
def fsqrtLatency (f32 : Bool) (a : Ex) : Nat :=
  if a.special || a.neg then (if f32 then 8 else 10) else (if f32 then 14 else 28)

def execFdiv (h : Hdr) (d a b : GReg) (rm : BitVec 3) (f32 : Bool) (s : State) : Host.Outcome State Fault Refusal :=
  divForm h d [a, b] (fun c => fdivLatency f32 (sVal f32 (c.rdG a)) (sVal f32 (c.rdG b)))
    (fun c =>
      let x := sVal f32 (c.rdG a)
      let y := sVal f32 (c.rdG b)
      c.roundS f32 rm (x.div y) (divFlags x y)) s
def execFsqrt (h : Hdr) (d a : GReg) (rm : BitVec 3) (f32 : Bool) (s : State) : Host.Outcome State Fault Refusal :=
  divForm h d [a] (fun c => fsqrtLatency f32 (sVal f32 (c.rdG a)))
    (fun c => c.roundS f32 rm (sVal f32 (c.rdG a)).sqrt 0) s

/-! ## Comparison and class (R124, R125) -/

/-- The outcome of a floating comparison and its NV flag (R124). -/
def fcmpCond (cc : BitVec 3) (a b : Ex) : Bool × BitVec 5 :=
  let un := a.isNan || b.isNan
  let sig := a.isSig || b.isSig
  let o := a.cmp b
  match cc.toNat with
  | 0 => (!un && o == .eq, if sig then flagNV else 0)
  | 1 => (!un && o == .lt, if un then flagNV else 0)
  | 2 => (!un && o != .gt, if un then flagNV else 0)
  | 3 => (un, if sig then flagNV else 0)
  | _ => (un || o != .eq, if sig then flagNV else 0)

def execFcmp (h : Hdr) (d : PReg) (a b : GReg) (cc : BitVec 3) (f32 : Bool) (s : State) :
    Host.Outcome State Fault Refusal :=
  issueCore h 0 0 0 { srcs := [opG a, opG b], dsts := [opP d] } (fun c =>
    let r := fcmpCond cc (sVal f32 (c.rdG a)) (sVal f32 (c.rdG b))
    .ok ((c.setFp fun f => f.raise r.2).result c.tmg.clk 2 (.p d r.1))) s

/-- The class bit of a pattern (R125). -/
def fclassBits (f : Fmt) (x : Nat) : Nat :=
  match f.value x with
  | .inf true => 1
  | .inf false => 128
  | .nan true => 256
  | .nan false => 512
  | .num neg m e _ =>
    if m = 0 then (if decide (2 ^ (f.width - 1) ≤ x) && f.signed then 8 else 16)
    else if (m.log2 : Int) + e < f.emin then (if neg then 4 else 32)
    else (if neg then 2 else 64)

/-- A scalar form of latency 2 that moves or classifies patterns and may set flags. -/
def fsForm (h : Hdr) (d : GReg) (srcs : List GReg) (op : Core → Nat × BitVec 5) (s : State) :
    Host.Outcome State Fault Refusal :=
  issueCore h 0 0 0 { srcs := srcs.map opG, dsts := [opG d] } (fun c =>
    let r := op c
    .ok ((c.setFp fun f => f.raise r.2).result c.tmg.clk 2 (.g d (sOut r.1)))) s

def execFclass (h : Hdr) (d a : GReg) (f32 : Bool) (s : State) : Host.Outcome State Fault Refusal :=
  fsForm h d [a] (fun c => (fclassBits (sFmt f32) (sBits f32 (c.rdG a)), 0)) s

/-! ## Minimum, maximum and sign (R126, R127) -/

/-- The smaller or larger of two patterns (R126): −0 lies below +0, a lone NaN gives the other operand. -/
def fminmax (f : Fmt) (isMax : Bool) (x y : Nat) : Nat × BitVec 5 :=
  let a := f.value x
  let b := f.value y
  let fl := if a.isSig || b.isSig then flagNV else 0
  if a.isNan && b.isNan then (f.nan, fl)
  else if a.isNan then (y, fl)
  else if b.isNan then (x, fl)
  else
    let less := match a.cmp b with
      | .lt => true
      | .gt => false
      | .eq => a.neg && !b.neg
    (if less != isMax then x else y, fl)

def execFmin (h : Hdr) (d a b : GReg) (f32 : Bool) (s : State) : Host.Outcome State Fault Refusal :=
  fsForm h d [a, b] (fun c => fminmax (sFmt f32) false (sBits f32 (c.rdG a)) (sBits f32 (c.rdG b))) s
def execFmax (h : Hdr) (d a b : GReg) (f32 : Bool) (s : State) : Host.Outcome State Fault Refusal :=
  fsForm h d [a, b] (fun c => fminmax (sFmt f32) true (sBits f32 (c.rdG a)) (sBits f32 (c.rdG b))) s
def execFabs (h : Hdr) (d a : GReg) (f32 : Bool) (s : State) : Host.Outcome State Fault Refusal :=
  fsForm h d [a] (fun c => (sBits f32 (c.rdG a) % 2 ^ ((sFmt f32).width - 1), 0)) s
def execFneg (h : Hdr) (d a : GReg) (f32 : Bool) (s : State) : Host.Outcome State Fault Refusal :=
  fsForm h d [a] (fun c => (sBits f32 (c.rdG a) ^^^ 2 ^ ((sFmt f32).width - 1), 0)) s
def execFcpys (h : Hdr) (d a b : GReg) (f32 : Bool) (s : State) : Host.Outcome State Fault Refusal :=
  fsForm h d [a, b] (fun c =>
    let n := 2 ^ ((sFmt f32).width - 1)
    (sBits f32 (c.rdG a) % n + sBits f32 (c.rdG b) / n * n, 0)) s

/-! ## SCVT (R101) -/

/-- The formats that SCVT numbers. -/
def scvtFmt (k : BitVec 3) : Fmt :=
  match k.toNat with
  | 0 => intFmt 0xB 64 true
  | 1 => intFmt 0xA 32 true
  | 2 => intFmt 0xF 64 false
  | 3 => intFmt 0xE 32 false
  | 4 => fp64
  | 5 => fp32
  | 6 => fp16
  | _ => bf16

/-- SCVT: the source's low bits as its format, rounded once; only an i32 result is sign-extended. -/
def execScvt (h : Hdr) (src dt : BitVec 3) (d a : GReg) (rm : BitVec 3) (s : State) : Host.Outcome State Fault Refusal :=
  issueCore h 0 0 0 { srcs := [opG a], dsts := [opG d] } (fun c =>
    let f := scvtFmt src
    let r := c.regs.fp.round (scvtFmt dt) rm 0 (f.value ((c.rdG a).toNat % 2 ^ f.width))
    let out : Word := if dt = 1 then fromW (BitVec.ofNat 32 r.1) else sOut r.1
    .ok ((c.setFp fun _ => r.2).result c.tmg.clk 4 (.g d out))) s

end Sys2Proof.Machine
end

