-- ==== Sys2Proof/Machine/Vector.lean ====
section
/-! DEFINITION. The vector instructions, opcodes 0x40 to 0x57 (R268 to R286). -/
namespace Sys2Proof.Machine
open Sys2Proof

/-! ## Integer forms (R269, R270) -/

/-- An element of width w as a signed value. -/
def signedOf (w x : Nat) : Int := if 2 ^ (w - 1) ≤ x then (x : Int) - 2 ^ w else x
/-- An element of a format as a value: signed for I, natural otherwise. -/
def intOf (f : Fmt) (x : Nat) : Int := if f.signed then signedOf f.width x else x
/-- A value modulo 2^w. -/
def wrapTo (w : Nat) (x : Int) : Nat := (x % (2 : Int) ^ w).toNat
/-- A value saturated to a format. -/
def satTo (f : Fmt) (x : Int) : Nat :=
  let lo : Int := if f.signed then -((2 : Int) ^ (f.width - 1)) else 0
  wrapTo f.width (max lo (min (f.maxCode : Int) x))

/-- The form of an integer or logic instruction: latency 2, sources of the code's format. -/
def intVForm (code : BitVec 6) (stm : Bool) (km : KReg) (z : Bool) : VForm :=
  { w := (codeFmt code).width, tag := codeTag code, lat := 2, stm := stm, km := km, z := z,
    allowA := hasCode code, allowB := hasCode code }

/-- A binary integer form. -/
def vint2 (h : Hdr) (code : BitVec 6) (d a : VReg) (b : VGSrc) (stm : Bool) (km : KReg) (z : Bool)
    (op : Fmt → Nat → Nat → Nat) (s : State) : Host.Outcome State Fault Refusal :=
  vecForm h (intVForm code stm km z) d a (some b) (fun _ x y _ fp => (op (codeFmt code) x y, fp)) noSkip s

def execVadd (h : Hdr) (code : BitVec 6) (d a : VReg) (b : VGSrc) (stm : Bool) (km : KReg) (z : Bool) (s : State) :
    Host.Outcome State Fault Refusal :=
  vint2 h code d a b stm km z (fun f x y => (x + y) % 2 ^ f.width) s
def execVsub (h : Hdr) (code : BitVec 6) (d a : VReg) (b : VGSrc) (stm : Bool) (km : KReg) (z : Bool) (s : State) :
    Host.Outcome State Fault Refusal :=
  vint2 h code d a b stm km z (fun f x y => wrapTo f.width ((x : Int) - y)) s
def execVadds (h : Hdr) (code : BitVec 6) (d a : VReg) (b : VGSrc) (stm : Bool) (km : KReg) (z : Bool) (s : State) :
    Host.Outcome State Fault Refusal :=
  vint2 h code d a b stm km z (fun f x y => satTo f (intOf f x + intOf f y)) s
def execVsubs (h : Hdr) (code : BitVec 6) (d a : VReg) (b : VGSrc) (stm : Bool) (km : KReg) (z : Bool) (s : State) :
    Host.Outcome State Fault Refusal :=
  vint2 h code d a b stm km z (fun f x y => satTo f (intOf f x - intOf f y)) s
def execVabs (h : Hdr) (code : BitVec 6) (d a : VReg) (stm : Bool) (km : KReg) (z : Bool) (s : State) :
    Host.Outcome State Fault Refusal :=
  vecForm h (intVForm code stm km z) d a none
    (fun _ x _ _ fp => (wrapTo (codeFmt code).width ((signedOf (codeFmt code).width x).natAbs : Int), fp)) noSkip s
def execVmul (h : Hdr) (code : BitVec 6) (d a : VReg) (b : VGSrc) (stm : Bool) (km : KReg) (z : Bool) (s : State) :
    Host.Outcome State Fault Refusal :=
  vint2 h code d a b stm km z (fun f x y => x * y % 2 ^ f.width) s
def execVmulh (h : Hdr) (code : BitVec 6) (d a : VReg) (b : VGSrc) (stm : Bool) (km : KReg) (z : Bool) (s : State) :
    Host.Outcome State Fault Refusal :=
  vint2 h code d a b stm km z (fun f x y => wrapTo f.width (signedOf f.width x * signedOf f.width y / (2 : Int) ^ f.width)) s
def execVmulhn (h : Hdr) (code : BitVec 6) (d a : VReg) (b : VGSrc) (stm : Bool) (km : KReg) (z : Bool) (s : State) :
    Host.Outcome State Fault Refusal :=
  vint2 h code d a b stm km z (fun f x y => x * y / 2 ^ f.width) s
def execVmin (h : Hdr) (code : BitVec 6) (d a : VReg) (b : VGSrc) (stm : Bool) (km : KReg) (z : Bool) (s : State) :
    Host.Outcome State Fault Refusal :=
  vint2 h code d a b stm km z (fun f x y => if intOf f x ≤ intOf f y then x else y) s
def execVminn (h : Hdr) (code : BitVec 6) (d a : VReg) (b : VGSrc) (stm : Bool) (km : KReg) (z : Bool) (s : State) :
    Host.Outcome State Fault Refusal :=
  vint2 h code d a b stm km z (fun _ x y => if x ≤ y then x else y) s
def execVmax (h : Hdr) (code : BitVec 6) (d a : VReg) (b : VGSrc) (stm : Bool) (km : KReg) (z : Bool) (s : State) :
    Host.Outcome State Fault Refusal :=
  vint2 h code d a b stm km z (fun f x y => if intOf f y ≤ intOf f x then x else y) s
def execVmaxn (h : Hdr) (code : BitVec 6) (d a : VReg) (b : VGSrc) (stm : Bool) (km : KReg) (z : Bool) (s : State) :
    Host.Outcome State Fault Refusal :=
  vint2 h code d a b stm km z (fun _ x y => if y ≤ x then x else y) s
def execVand (h : Hdr) (code : BitVec 6) (d a : VReg) (b : VGSrc) (stm : Bool) (km : KReg) (z : Bool) (s : State) :
    Host.Outcome State Fault Refusal :=
  vint2 h code d a b stm km z (fun _ x y => x &&& y) s
def execVor (h : Hdr) (code : BitVec 6) (d a : VReg) (b : VGSrc) (stm : Bool) (km : KReg) (z : Bool) (s : State) :
    Host.Outcome State Fault Refusal :=
  vint2 h code d a b stm km z (fun _ x y => x ||| y) s
def execVxor (h : Hdr) (code : BitVec 6) (d a : VReg) (b : VGSrc) (stm : Bool) (km : KReg) (z : Bool) (s : State) :
    Host.Outcome State Fault Refusal :=
  vint2 h code d a b stm km z (fun _ x y => x ^^^ y) s
def execVandn (h : Hdr) (code : BitVec 6) (d a : VReg) (b : VGSrc) (stm : Bool) (km : KReg) (z : Bool) (s : State) :
    Host.Outcome State Fault Refusal :=
  vint2 h code d a b stm km z (fun f x y => x &&& (y ^^^ (2 ^ f.width - 1))) s
def execVshl (h : Hdr) (code : BitVec 6) (d a : VReg) (b : VGSrc) (stm : Bool) (km : KReg) (z : Bool) (s : State) :
    Host.Outcome State Fault Refusal :=
  vint2 h code d a b stm km z (fun f x y => x * 2 ^ (y % f.width) % 2 ^ f.width) s
def execVshr (h : Hdr) (code : BitVec 6) (d a : VReg) (b : VGSrc) (stm : Bool) (km : KReg) (z : Bool) (s : State) :
    Host.Outcome State Fault Refusal :=
  vint2 h code d a b stm km z (fun f x y => x / 2 ^ (y % f.width)) s
def execVshra (h : Hdr) (code : BitVec 6) (d a : VReg) (b : VGSrc) (stm : Bool) (km : KReg) (z : Bool) (s : State) :
    Host.Outcome State Fault Refusal :=
  vint2 h code d a b stm km z (fun f x y => wrapTo f.width (signedOf f.width x / (2 : Int) ^ (y % f.width))) s

/-- The conditions of VCMP (R266, R273). -/
def vcmpCond (cc : BitVec 3) (x y : Int) : Bool :=
  match cc.toNat with
  | 0 => x == y
  | 1 => x != y
  | 2 => decide (x < y)
  | 3 => decide (x ≤ y)
  | 4 => decide (y < x)
  | _ => decide (y ≤ x)

def execVcmp (h : Hdr) (code : BitVec 6) (d : KReg) (a : VReg) (b : VGSrc) (cc : BitVec 3) (stm : Bool) (km : KReg)
    (z : Bool) (s : State) : Host.Outcome State Fault Refusal :=
  maskForm h (intVForm code stm km z) d a b
    (fun x y fp => (vcmpCond cc (intOf (codeFmt code) x) (intOf (codeFmt code) y), fp)) s

/-! ## Floating-point forms (R271) -/

/-- The form of a floating-point instruction with its latency and its time on the FP datapath (R254). -/
def fpVForm (code : BitVec 6) (lat fp : Nat) (stm : Bool) (km : KReg) (z : Bool) : VForm :=
  { intVForm code stm km z with lat := lat, fp := fp }

/-- A form that rounds once from the exact result `op`, given whether the mode is RDN, with flags of its own. -/
def vfp (h : Hdr) (p : VForm) (code : BitVec 6) (d a : VReg) (b : Option VGSrc) (rm : BitVec 3)
    (op : Bool → Ex → Ex → Ex → Ex × BitVec 5) (s : State) : Host.Outcome State Fault Refusal :=
  let f := codeFmt code
  vecForm h p d a b (fun e x y c fp =>
    let q := op (fp.mode rm == modeRDN) (f.value x) (f.value y) (f.value c)
    let r := fp.round f rm (laneOf f.width e) q.1
    (r.1, r.2.raise q.2)) (srSkip f.width rm) s

def execVfadd (h : Hdr) (code : BitVec 6) (d a : VReg) (b : VGSrc) (rm : BitVec 3) (stm : Bool) (km : KReg) (z : Bool)
    (s : State) : Host.Outcome State Fault Refusal :=
  vfp h (fpVForm code 4 2 stm km z) code d a (some b) rm
    (fun rdn x y _ => (x.add rdn y, 0)) s
def execVfsub (h : Hdr) (code : BitVec 6) (d a : VReg) (b : VGSrc) (rm : BitVec 3) (stm : Bool) (km : KReg) (z : Bool)
    (s : State) : Host.Outcome State Fault Refusal :=
  vfp h (fpVForm code 4 2 stm km z) code d a (some b) rm
    (fun rdn x y _ => (x.add rdn y.negate, 0)) s
def execVfmul (h : Hdr) (code : BitVec 6) (d a : VReg) (b : VGSrc) (rm : BitVec 3) (stm : Bool) (km : KReg) (z : Bool)
    (s : State) : Host.Outcome State Fault Refusal :=
  vfp h (fpVForm code 4 2 stm km z) code d a (some b) rm
    (fun _ x y _ => (x.mul y, 0)) s
def execVfdiv (h : Hdr) (code : BitVec 6) (d a : VReg) (b : VGSrc) (rm : BitVec 3) (stm : Bool) (km : KReg) (z : Bool)
    (s : State) : Host.Outcome State Fault Refusal :=
  vfp h (fpVForm code 12 8 stm km z) code d a (some b) rm
    (fun _ x y _ => (x.div y, divFlags x y)) s
def execVfma (h : Hdr) (code : BitVec 6) (d a : VReg) (b : VGSrc) (rm : BitVec 3) (stm : Bool) (km : KReg) (z : Bool)
    (s : State) : Host.Outcome State Fault Refusal :=
  vfp h { fpVForm code 4 2 stm km z with readsD := true } code d a (some b) rm
    (fun rdn x y c => (Ex.fma rdn x y c, 0)) s
def execVfms (h : Hdr) (code : BitVec 6) (d a : VReg) (b : VGSrc) (rm : BitVec 3) (stm : Bool) (km : KReg) (z : Bool)
    (s : State) : Host.Outcome State Fault Refusal :=
  vfp h { fpVForm code 4 2 stm km z with readsD := true } code d a (some b) rm
    (fun rdn x y c => (Ex.fma rdn x y c.negate, 0)) s
def execVfnma (h : Hdr) (code : BitVec 6) (d a : VReg) (b : VGSrc) (rm : BitVec 3) (stm : Bool) (km : KReg) (z : Bool)
    (s : State) : Host.Outcome State Fault Refusal :=
  vfp h { fpVForm code 4 2 stm km z with readsD := true } code d a (some b) rm
    (fun rdn x y c => (Ex.fma rdn x.negate y c, 0)) s
def execVfnms (h : Hdr) (code : BitVec 6) (d a : VReg) (b : VGSrc) (rm : BitVec 3) (stm : Bool) (km : KReg) (z : Bool)
    (s : State) : Host.Outcome State Fault Refusal :=
  vfp h { fpVForm code 4 2 stm km z with readsD := true } code d a (some b) rm
    (fun rdn x y c => (Ex.fma rdn x.negate y c.negate, 0)) s
def execVsqrt (h : Hdr) (code : BitVec 6) (d a : VReg) (rm : BitVec 3) (stm : Bool) (km : KReg) (z : Bool) (s : State) :
    Host.Outcome State Fault Refusal :=
  vfp h (fpVForm code 12 8 stm km z) code d a none rm (fun _ x _ _ => (x.sqrt, 0)) s

/-- A form of latency 2 on patterns, with flags of its own. -/
def vfBits (h : Hdr) (code : BitVec 6) (d a : VReg) (b : Option VGSrc) (stm : Bool) (km : KReg) (z : Bool)
    (op : Fmt → Nat → Nat → Nat × BitVec 5) (s : State) : Host.Outcome State Fault Refusal :=
  vecForm h (fpVForm code 2 1 stm km z) d a b (fun _ x y _ fp =>
    let r := op (codeFmt code) x y
    (r.1, fp.raise r.2)) noSkip s

def execVfmin (h : Hdr) (code : BitVec 6) (d a : VReg) (b : VGSrc) (stm : Bool) (km : KReg) (z : Bool) (s : State) :
    Host.Outcome State Fault Refusal :=
  vfBits h code d a (some b) stm km z (fun f x y => fminmax f false x y) s
def execVfmax (h : Hdr) (code : BitVec 6) (d a : VReg) (b : VGSrc) (stm : Bool) (km : KReg) (z : Bool) (s : State) :
    Host.Outcome State Fault Refusal :=
  vfBits h code d a (some b) stm km z (fun f x y => fminmax f true x y) s
def execVfabs (h : Hdr) (code : BitVec 6) (d a : VReg) (stm : Bool) (km : KReg) (z : Bool) (s : State) :
    Host.Outcome State Fault Refusal :=
  vfBits h code d a none stm km z (fun f x _ => (x % 2 ^ (f.width - 1), 0)) s
def execVfneg (h : Hdr) (code : BitVec 6) (d a : VReg) (stm : Bool) (km : KReg) (z : Bool) (s : State) :
    Host.Outcome State Fault Refusal :=
  vfBits h code d a none stm km z (fun f x _ => (x ^^^ 2 ^ (f.width - 1), 0)) s

/-- VFCMP (R273): the conditions of R124 with their NV rules. -/
def execVfcmp (h : Hdr) (code : BitVec 6) (d : KReg) (a : VReg) (b : VGSrc) (cc : BitVec 3) (stm : Bool) (km : KReg)
    (z : Bool) (s : State) : Host.Outcome State Fault Refusal :=
  maskForm h (fpVForm code 2 1 stm km z) d a b (fun x y fp =>
    let r := fcmpCond cc ((codeFmt code).value x) ((codeFmt code).value y)
    (r.1, fp.raise r.2)) s

/-- The result tag of VFCLASS (R273). -/
def classTag (w : Nat) : Tag := if w = 64 then 0x0F#8 else if w = 32 then 0x0E#8 else 0x0D#8

def execVfclass (h : Hdr) (code : BitVec 6) (d a : VReg) (stm : Bool) (km : KReg) (z : Bool) (s : State) :
    Host.Outcome State Fault Refusal :=
  vecForm h { fpVForm code 2 1 stm km z with tag := classTag (codeFmt code).width } d a none
    (fun _ x _ _ fp => (fclassBits (codeFmt code) x, fp)) noSkip s

/-! ## The faithfully rounded functions (R272) -/

/-- Working bits of the functions below: more than any of the formats can tell from the exact value. -/
def fnBits : Nat := 320

/-- 2^x for x = 0.b1 b2 …, the bits highest first: the square root of 2^b1 times the rest. -/
def exp2Frac (bits : List Bool) : Nat :=
  bits.foldr (fun b r => isqrt ((if b then 2 * r else r) * 2 ^ fnBits)) (2 ^ fnBits)

/-- Binary digits of log2 y for 1 ≤ y < 2, y given in units of 2^-fnBits: by squaring, highest first. -/
def log2Digits : Nat → Nat → Nat → Nat
  | 0, _, acc => acc
  | n + 1, y, acc =>
    let q := y * y / 2 ^ fnBits
    if 2 ^ (fnBits + 1) ≤ q then log2Digits n (q / 2) (2 * acc + 1) else log2Digits n q (2 * acc)

/-- The digits after the point that `exLog2` computes. -/
def logDigits : Nat := 96

/-- The functions of VFSPEC. -/
inductive SpecFn where
  | rcp | rsq | exp2 | log2
  deriving DecidableEq, Repr

/-- The exact value below in magnitude, and the flags of the special cases. -/
def SpecFn.value : SpecFn → Ex → Ex × BitVec 5
  | .rcp, x => match x with
    | .nan b => (.nan b, 0)
    | .inf n => (.num n 0 0 false, 0)
    | .num n m e st => if m = 0 then (.inf n, flagDZ) else (Ex.div (.num false 1 0 false) (.num n m e st), 0)
  | .rsq, x => match x with
    | .nan b => (.nan b, 0)
    | .inf true => (.nan true, 0)
    | .inf false => (.num false 0 0 false, 0)
    | .num n m e _ =>
      if m = 0 then (.inf n, flagDZ)
      else if n then (.nan true, 0)
      else
        let odd := (e % 2).toNat
        let q := 2 ^ (2 * fnBits) / (m * 2 ^ odd)
        let r := isqrt q
        (.num false r (-(e - odd) / 2 - fnBits) (decide (r * r * (m * 2 ^ odd) ≠ 2 ^ (2 * fnBits))), 0)
  | .exp2, x => match x with
    | .nan b => (.nan b, 0)
    | .inf true => (.num false 0 0 false, 0)
    | .inf false => (.inf false, 0)
    | .num n m e _ =>
      if 20 ≤ (m.log2 : Int) + e then (.num false 1 (if n then -1048576 else 1048576) false, 0)
      else if 0 ≤ e then (.num false 1 (if n then -(m * 2 ^ e.toNat : Nat) else (m * 2 ^ e.toNat : Nat)) false, 0)
      else
        let k := (-e).toNat
        let y : Int := if n then -(m : Int) else m
        let whole := y / 2 ^ k
        let frac := (y % 2 ^ k).toNat
        if frac = 0 then (.num false 1 whole false, 0)
        else
          let bits := (List.range k).map fun i => frac.testBit (k - 1 - i)
          (.num false (exp2Frac bits) (whole - fnBits) true, 0)
  | .log2, x => match x with
    | .nan b => (.nan b, 0)
    | .inf true => (.nan true, 0)
    | .inf false => (.inf false, 0)
    | .num n m e _ =>
      if m = 0 then (.inf true, flagDZ)
      else if n then (.nan true, 0)
      else
        let whole : Int := (m.log2 : Int) + e
        if m = 2 ^ m.log2 then (.num (decide (whole < 0)) whole.natAbs 0 false, 0)
        else
          let frac := log2Digits logDigits (m * 2 ^ fnBits / 2 ^ m.log2) 0
          let v : Int := whole * 2 ^ logDigits + frac
          if 0 ≤ v then (.num false v.toNat (-(logDigits : Int)) true, 0)
          else (.num true (v.natAbs - 1) (-(logDigits : Int)) true, 0)

/-- A faithfully rounded result (R272): the exact value where it is representable, else one of its two neighbours, the
one that the device's fixed function takes (log 12); overflow as R86 has it in RNE. -/
def faithful (fn : SpecFn) (f : Fmt) (choice : BitVec 2) (x : Nat) : Nat × BitVec 5 :=
  let v := fn.value (f.value x)
  let near := roundWith f choice modeRNE 0 v.1
  let form := match fn with
    | .rcp => 0
    | .rsq => 1
    | .exp2 => 2
    | .log2 => 3
  let r := if near.2 &&& flagNX = 0 ∨ near.2 &&& flagOF ≠ 0 then near
    else if Config.faithfulUp form f.code x then
      let up := roundWith f choice (if v.1.neg then modeRDN else modeRUP) 0 v.1
      if up.2 &&& flagOF ≠ 0 then overflowTo f choice modeRNE v.1.neg false else up
    else roundWith f choice modeRTZ 0 v.1
  (r.1, r.2 ||| v.2)

/-- A form of VFSPEC. -/
def vspec (h : Hdr) (fn : SpecFn) (code : BitVec 6) (d a : VReg) (stm : Bool) (km : KReg) (z : Bool) (s : State) :
    Host.Outcome State Fault Refusal :=
  let f := codeFmt code
  vecForm h (fpVForm code 8 2 stm km z) d a none (fun _ x _ _ fp =>
    let r := faithful fn f (fp.choice f.code) x
    (r.1, fp.raise r.2)) noSkip s

def execVrcp (h : Hdr) (code : BitVec 6) (d a : VReg) (stm : Bool) (km : KReg) (z : Bool) (s : State) :
    Host.Outcome State Fault Refusal := vspec h .rcp code d a stm km z s
def execVrsq (h : Hdr) (code : BitVec 6) (d a : VReg) (stm : Bool) (km : KReg) (z : Bool) (s : State) :
    Host.Outcome State Fault Refusal := vspec h .rsq code d a stm km z s
def execVexp2 (h : Hdr) (code : BitVec 6) (d a : VReg) (stm : Bool) (km : KReg) (z : Bool) (s : State) :
    Host.Outcome State Fault Refusal := vspec h .exp2 code d a stm km z s
def execVlog2 (h : Hdr) (code : BitVec 6) (d a : VReg) (stm : Bool) (km : KReg) (z : Bool) (s : State) :
    Host.Outcome State Fault Refusal := vspec h .log2 code d a stm km z s

/-! ## Select (R274) -/

/-- VSEL: M selects and does not mask; SB must carry SA's tag. DEDUCED (log 34). -/
def execVsel (h : Hdr) (code : BitVec 6) (d a b : VReg) (stm : Bool) (km : KReg) (s : State) :
    Host.Outcome State Fault Refusal :=
  issueWord h (opV d) (opV a) (opV b) (vUses (opV d) stm [opV a, opV b] km 0) (fun s =>
    let t := s.cc.tagOf a
    let p : VForm := { w := (codeFmt code).width, tag := t, lat := 2, stm := stm, allowA := hasCode code,
                       allowB := fun x => x == t }
    vecEff p d [a] [b] p.active (fun v e fp =>
      (elem p.w (if (s.cc.rdK km).getLsbD e then v.src 0 else v.src 1) e, fp)) noSkip (fun _ _ => t) s) s

/-! ## Broadcasts and permutes (R275 to R278) -/

/-- The tag of a permute's result: an M64 source's values stay below their new lanes' moduli, or it is POISON (R275). -/
def permTag (t : Tag) (c : Core) (x : VData) : Tag :=
  if t.extractLsb' 0 6 = 0x10#6 then (if c.residuesOk (fin4 (t.extractLsb' 6 2)) x then t else poisonTag) else t

/-- A permute of latency 3: `f` gives element e of the result from SA's and SB's elements. -/
def permForm (h : Hdr) (w : Nat) (allowA : Tag → Bool) (d a : VReg) (b : List VReg) (num : BitVec 7) (stm : Bool) (km : KReg) (z : Bool)
    (f : Core → (Nat → Nat) → (Nat → Nat) → Nat → Nat) (s : State) : Host.Outcome State Fault Refusal :=
  issueWord h (opV d) (opV a) num (vUses (opV d) (keepsOld stm km z) [opV a, num] km 0) (fun s =>
    let t := s.cc.tagOf a
    let p : VForm := { w := w, tag := t, lat := 3, stm := stm, km := km, z := z, allowA := allowA }
    vecEff p d [a] b p.active (fun v e fp => (f s.cc (elem w (v.src 0)) (elem w (v.src 1)) e, fp)) noSkip
      (permTag t) s) s

/-- VBCAST (R276). -/
def execVbcast (h : Hdr) (code : BitVec 6) (d : VReg) (stm : Bool) (km : KReg) (z : Bool) (src : VbSrc) (s : State) :
    Host.Outcome State Fault Refusal :=
  let w := (codeFmt code).width
  match src with
  | .v a e => permForm h w (hasCode code) d a [] (opG 0) stm km z (fun _ x _ _ => x (e.toNat % (1024 / w))) s
  | .g a =>
    issueWord h (opV d) 0 0 (vUses (opV d) (keepsOld stm km z) [opG a] km 0) (fun s =>
      let p : VForm := { w := w, tag := codeTag code, lat := 3, stm := stm, km := km, z := z }
      vecEff p d [] [] p.active (fun _ _ fp => ((s.cc.rdG a).toNat % 2 ^ w, fp)) noSkip (fun _ _ => p.tag) s) s

/-- The width of a width code (R265). -/
def widthOf (wc : BitVec 2) : Nat := 8 * 2 ^ wc.toNat

/-- VPERM (R278): the index register is read as naturals, whatever its format. -/
def execVperm (h : Hdr) (wc : BitVec 2) (d a b : VReg) (stm : Bool) (km : KReg) (z : Bool) (s : State) :
    Host.Outcome State Fault Refusal :=
  let w := widthOf wc
  permForm h w (fun _ => true) d a [b] (opV b) stm km z (fun _ x y e => x (y e % (1024 / w))) s
def execVslideup (h : Hdr) (wc : BitVec 2) (d a : VReg) (b : GReg) (stm : Bool) (km : KReg) (z : Bool)
    (imm : BitVec 32) (s : State) : Host.Outcome State Fault Refusal :=
  permForm h (widthOf wc) (fun _ => true) d a [] (opG b) stm km z (fun c x _ e =>
    let k := (c.rdG b).toNat + imm.toNat
    if k ≤ e then x (e - k) else 0) s
def execVslidedn (h : Hdr) (wc : BitVec 2) (d a : VReg) (b : GReg) (stm : Bool) (km : KReg) (z : Bool)
    (imm : BitVec 32) (s : State) : Host.Outcome State Fault Refusal :=
  let w := widthOf wc
  permForm h w (fun _ => true) d a [] (opG b) stm km z (fun c x _ e =>
    let k := (c.rdG b).toNat + imm.toNat
    if e + k < 1024 / w then x (e + k) else 0) s

/-- The element that VEXT and VINS name (R277). -/
def Core.elemIndex (c : Core) (w : Nat) (b : GReg) (imm : BitVec 32) : Nat := (c.rdG b + zextImm imm).toNat % (1024 / w)

/-- VEXT (R277). -/
def execVext (h : Hdr) (wc : BitVec 2) (d : GReg) (a : VReg) (b : GReg) (sx : Bool) (imm : BitVec 32) (s : State) :
    Host.Outcome State Fault Refusal :=
  let w := widthOf wc
  issueWord h 0 (opV a) 0 { srcs := [opV a, opG b], dsts := [opG d] } (noStream [opV a] (fun s =>
    let c := s.cc
    match poisonCheck 2 (c.rdV a) with
    | some x => .trap s .poison x 0
    | none =>
      let x := elem w (c.rdV a).bits (c.elemIndex w b imm)
      let r : Word := if sx then BitVec.ofInt 64 (signedOf w x) else BitVec.ofNat 64 x
      .done (s.setCc (c.result c.tmg.clk 3 (.g d r))))) s

/-- One element of a register replaced. -/
def setElem (w : Nat) (x : VData) (i v : Nat) : VData :=
  (x &&& ~~~(BitVec.ofNat 1024 (2 ^ w - 1) <<< (i * w))) ||| (BitVec.ofNat 1024 (v % 2 ^ w) <<< (i * w))

/-- VINS (R277): DST keeps its tag, subject to R275. -/
def execVins (h : Hdr) (wc : BitVec 2) (d : VReg) (a b : GReg) (imm : BitVec 32) (s : State) :
    Host.Outcome State Fault Refusal :=
  let w := widthOf wc
  issueWord h (opV d) 0 0 { srcs := [opG a, opG b, opV d], dsts := [opV d] } (noStream [opV d] (fun s =>
    let c := s.cc
    let v := c.rdV d
    match poisonCheck 1 v with
    | some x => .trap s .poison x 0
    | none =>
      let x := setElem w v.bits (c.elemIndex w b imm) (c.rdG a).toNat
      .done (s.setCc (c.result c.tmg.clk 3 (.v d ⟨x, permTag v.tag c x⟩))))) s

/-- VIOTA (R279). -/
def execViota (h : Hdr) (code : BitVec 6) (d : VReg) (a : GReg) (stm : Bool) (km : KReg) (z : Bool) (imm : BitVec 32)
    (s : State) : Host.Outcome State Fault Refusal :=
  let w := (codeFmt code).width
  issueWord h (opV d) 0 0 (vUses (opV d) (keepsOld stm km z) [opG a] km 0) (fun s =>
    let p : VForm := { w := w, tag := codeTag code, lat := 3, stm := stm, km := km, z := z }
    vecEff p d [] [] p.active (fun _ e fp => (wrapTo w ((s.cc.rdG a).toNat + (e : Int) * imm.toInt), fp)) noSkip
      (fun _ _ => p.tag) s) s

/-- VMOV (R280): the bits and the tag. -/
def execVmov (h : Hdr) (d a : VReg) (s : State) : Host.Outcome State Fault Refusal :=
  issueWord h (opV d) (opV a) 0 { srcs := [opV a], dsts := [opV d] } (fun s =>
    let p : VForm := { w := 64, tag := s.cc.tagOf a, lat := 3 }
    vecEff p d [a] [] p.active (fun v e fp => (elem 64 (v.src 0) e, fp)) noSkip (fun _ _ => p.tag) s) s

/-- The general registers of a group of 16 (R267). -/
def gGroup (a : GReg) (l : Nat) : GReg := ⟨(a.val + l) % 64, Nat.mod_lt _ (by decide)⟩

/-- VMOVG occupies six issue clk (R254). -/
def sixIssues (s : State) : State := s.setCc (s.cc.setTmg fun m => { m with clk := m.clk + 6 })

/-- VMOVG from general registers (R280). -/
def execVmovgFromG (h : Hdr) (code : BitVec 6) (d : VReg) (a : GReg) (s : State) : Host.Outcome State Fault Refusal :=
  issueWord h 0 0 0 { srcs := (List.range 16).map fun l => opG (gGroup a l), dsts := [opV d] }
    (noStream [opV d] (fun s =>
      let c := s.cc
      let x := ofLanes fun l => c.rdG (gGroup a l)
      .done (sixIssues (s.setCc (c.result (c.tmg.clk + 5) 3 (.v d ⟨x, codeTag code⟩)))))) s

/-- VMOVG to general registers (R280). -/
def execVmovgToG (h : Hdr) (d : GReg) (a : VReg) (s : State) : Host.Outcome State Fault Refusal :=
  issueWord h 0 (opV a) 0 { srcs := [opV a], dsts := (List.range 16).map fun l => opG (gGroup d l) }
    (noStream [opV a] (fun s =>
      let c := s.cc
      match poisonCheck 2 (c.rdV a) with
      | some x => .trap s .poison x 0
      | none => .done (sixIssues (s.setCc ((List.range 16).foldl (fun c' l =>
          c'.result (c.tmg.clk + 5) 3 (.g (gGroup d l) (lane (c.rdV a).bits l))) c))))) s

/-! ## Masks (R281) -/

/-- A mask form of latency 1. -/
def kForm (h : Hdr) (d : KReg) (srcs : List (BitVec 7)) (val : Core → Mask) (s : State) :
    Host.Outcome State Fault Refusal :=
  scalarForm h srcs 1 (opK d) (fun c => .k d (val c)) s

def execKand (h : Hdr) (d a b : KReg) (s : State) : Host.Outcome State Fault Refusal :=
  kForm h d [opK a, opK b] (fun c => c.rdK a &&& c.rdK b) s
def execKor (h : Hdr) (d a b : KReg) (s : State) : Host.Outcome State Fault Refusal :=
  kForm h d [opK a, opK b] (fun c => c.rdK a ||| c.rdK b) s
def execKxor (h : Hdr) (d a b : KReg) (s : State) : Host.Outcome State Fault Refusal :=
  kForm h d [opK a, opK b] (fun c => c.rdK a ^^^ c.rdK b) s
def execKnot (h : Hdr) (d a : KReg) (s : State) : Host.Outcome State Fault Refusal :=
  kForm h d [opK a] (fun c => ~~~c.rdK a) s
/-- KCNT counts the ones in the low min(n, 128) bits. -/
def execKcnt (h : Hdr) (d : GReg) (a : KReg) (n : BitVec 8) (s : State) : Host.Outcome State Fault Refusal :=
  scalarForm h [opK a] 1 (opG d) (fun c =>
    .g d (BitVec.ofNat 64 ((List.range (min n.toNat 128)).countP fun i => (c.rdK a).getLsbD i))) s
/-- KMOV: a mask, or half `hi` of a mask from or to a general register; the other half stays. -/
def execKmov (h : Hdr) (o : KmovOps) (s : State) : Host.Outcome State Fault Refusal :=
  match o with
  | .kk d a => kForm h d [opK a] (fun c => c.rdK a) s
  | .kg hi d a => kForm h d [opG a, opK d] (fun c =>
      let old := c.rdK d
      if hi then c.rdG a ++ old.extractLsb' 0 64 else old.extractLsb' 64 64 ++ c.rdG a) s
  | .gk hi d a => scalarForm h [opK a] 1 (opG d) (fun c =>
      .g d (if hi then (c.rdK a).extractLsb' 64 64 else (c.rdK a).extractLsb' 0 64)) s

/-! ## Reductions (R282) -/

/-- One node of the tree: absent if both are absent, the other if one is; such a node only does `skip`. DEDUCED (log 39). -/
def combine (op : Nat → Nat → FpRegs → Nat × FpRegs) (skip : FpRegs → FpRegs) (x y : Option Nat) (fp : FpRegs) :
    Option Nat × FpRegs :=
  match x, y with
  | none, y => (y, skip fp)
  | x, none => (x, skip fp)
  | some x, some y => (some (op x y fp).1, (op x y fp).2)

/-- One level of the tree, in ascending order. -/
def treeLevel (op : Nat → Nat → FpRegs → Nat × FpRegs) (skip : FpRegs → FpRegs) :
    List (Option Nat) → FpRegs → List (Option Nat) × FpRegs
  | x :: y :: xs, fp =>
    let r := combine op skip x y fp
    let q := treeLevel op skip xs r.2
    (r.1 :: q.1, q.2)
  | xs, fp => (xs, fp)

/-- The tree, level by level. -/
def treeReduce (op : Nat → Nat → FpRegs → Nat × FpRegs) (skip : FpRegs → FpRegs) :
    Nat → List (Option Nat) → FpRegs → Option Nat × FpRegs
  | 0, xs, fp => (xs.headD none, fp)
  | n + 1, xs, fp =>
    let r := treeLevel op skip xs fp
    treeReduce op skip n r.1 r.2

/-- A reduction of the active elements into element 0; every other element becomes zero. DST is never read. DESIGN CHOICE (log 186). -/
def redForm (h : Hdr) (code : BitVec 6) (lat fpb : Nat) (d a : VReg) (stm : Bool) (km : KReg) (empty : Fmt → Nat)
    (op : Fmt → Nat → Nat → FpRegs → Nat × FpRegs) (skip : FpRegs → FpRegs) (s : State) : Host.Outcome State Fault Refusal :=
  let f := codeFmt code
  let n := 1024 / f.width
  issueWord h (opV d) (opV a) 0 (vUses (opV d) false [opV a] km fpb) (fun s =>
    let p : VForm := { w := f.width, tag := codeTag code, lat := lat, fp := fpb, stm := stm, km := km, z := true,
                       allowA := hasCode code }
    match openVec p (some d) [a] [] (fun _ _ => true) s with
    | .error e => e.eff s
    | .ok v =>
      let xs := (List.range n).map fun e => if p.active s.cc v e then some (elem f.width (v.src 0) e) else none
      let r := treeReduce (op f) skip n.log2 xs v.s.cc.regs.fp
      let s1 := v.s.setCc ((v.s.cc.setFp fun _ => r.2).busyFp fpb)
      (putVec d ⟨BitVec.ofNat 1024 (r.1.getD (empty f)), p.tag⟩ s.cc.tmg.clk lat (fun _ => true) s1).orElse s) s

def execVradd (h : Hdr) (code : BitVec 6) (d a : VReg) (stm : Bool) (km : KReg) (s : State) :
    Host.Outcome State Fault Refusal :=
  redForm h code 4 0 d a stm km (fun _ => 0) (fun f x y fp => ((x + y) % 2 ^ f.width, fp)) id s
def execVrmin (h : Hdr) (code : BitVec 6) (d a : VReg) (stm : Bool) (km : KReg) (s : State) :
    Host.Outcome State Fault Refusal :=
  redForm h code 4 0 d a stm km Fmt.maxCode (fun f x y fp => (if intOf f x ≤ intOf f y then x else y, fp)) id s
def execVrmax (h : Hdr) (code : BitVec 6) (d a : VReg) (stm : Bool) (km : KReg) (s : State) :
    Host.Outcome State Fault Refusal :=
  redForm h code 4 0 d a stm km (fun f => if f.signed then 2 ^ (f.width - 1) else 0)
    (fun f x y fp => (if intOf f y ≤ intOf f x then x else y, fp)) id s

/-- The latency of a floating-point reduction (R254). -/
def redLatency (code : BitVec 6) : Nat := 4 * (1024 / (codeFmt code).width).log2

/-- VRFADD: in SR every node steps the generator of lane 0, one with an absent operand too. -/
def execVrfadd (h : Hdr) (code : BitVec 6) (d a : VReg) (rm : BitVec 3) (stm : Bool) (km : KReg) (s : State) :
    Host.Outcome State Fault Refusal :=
  redForm h code (redLatency code) 2 d a stm km (fun _ => 0) (fun f x y fp =>
    fp.round f rm 0 ((f.value x).add (fp.mode rm == modeRDN) (f.value y))) (srSkip 64 rm 0) s
def execVrfmin (h : Hdr) (code : BitVec 6) (d a : VReg) (stm : Bool) (km : KReg) (s : State) :
    Host.Outcome State Fault Refusal :=
  redForm h code (redLatency code) 2 d a stm km (fun f => f.inf false) (fun f x y fp =>
    ((fminmax f false x y).1, fp.raise (fminmax f false x y).2)) id s
def execVrfmax (h : Hdr) (code : BitVec 6) (d a : VReg) (stm : Bool) (km : KReg) (s : State) :
    Host.Outcome State Fault Refusal :=
  redForm h code (redLatency code) 2 d a stm km (fun f => f.inf true) (fun f x y fp =>
    ((fminmax f true x y).1, fp.raise (fminmax f true x y).2)) id s

/-! ## Binding streams and stream loops (R283 to R285) -/

/-- The tags a stream may carry (R255). -/
def streamTag (t : Tag) : Bool :=
  let c := (t.extractLsb' 0 6).toNat
  if 0x21 ≤ c ∧ c ≤ 0x27 then true
  else t.extractLsb' 6 2 == 0 && (decide (1 ≤ c ∧ c ≤ 6) || decide (8 ≤ c ∧ c ≤ 0xF))

/-- The descriptor in 64 bytes, where it is valid (R255): BASE is a local address in window 0x00 or 0x01. -/
def parseDesc (x : BitVec 512) : Option StreamDesc :=
  let dims := (x.extractLsb' 0x150 8).toNat
  let tag : Tag := x.extractLsb' 0x140 8
  if x.extractLsb' 49 15 = 0x80#15 ∧ x.extractLsb' 0x158 168 = 0 ∧ 1 ≤ dims ∧ dims ≤ 4 ∧ streamTag tag = true ∧ (x.extractLsb' 0x148 8).toNat ≤ 1 then
    some { base := x.extractLsb' 0 64
           n := (List.range dims).map fun i => (x.extractLsb' (64 + 32 * i) 32).toNat
           s := (List.range dims).map fun i => x.extractLsb' (192 + 32 * i) 32
           tag := tag
           write := x.getLsbD 0x148 }
  else none

/-- SCFG (R283). -/
def execScfg (h : Hdr) (d : VReg) (a : GReg) (port : Fin 4) (imm : BitVec 32) (s : State) :
    Host.Outcome State Fault Refusal :=
  issueWord h 0 0 0 { srcs := [opG a], dsts := [opV d] } (fun s =>
    let c := s.cc
    if c.regs.strm[port].isSome || (c.bound d).isSome then .trap s .stream (streamVal 4 (opV d)) 0
    else
      let x := c.addr a imm
      if s.rangeHeld x 64 then holdOn s x 64
      else match s.checkSpad x 64 64 with
        | .error k => .trap s k x 0
        | .ok p =>
          let r := s.touch s.cur p 64
          if r.2 then .trap r.1 .poison x 0
          else
            let s1 := r.1.coreRead r.1.cur (p.home (clusterOf r.1.cur))
            match parseDesc (ofBytes 512 (s1.readPlace 64 p)) with
            | none => .trap s .stream (streamVal 5 (opV d)) 0
            | some q => .done (s1.setCc ((s1.cc.setPort port (some { reg := d, desc := q })).setTmg
                fun m => { m with slips := m.slips + 1 }))) s

/-- XVAL of a port that is not bound (R259). -/
def portVal (port : Fin 4) : Word := BitVec.ofNat 64 (0x600 + port.val)

/-- SFREE (R284): every push has been performed at its instruction's issue. -/
def execSfree (h : Hdr) (port : Fin 4) (s : State) : Host.Outcome State Fault Refusal :=
  issueCore h 0 0 0 {} (fun c =>
    if c.regs.strm[port].isSome then .ok (c.setPort port none) else .trap .stream (portVal port)) s

/-- VLOOP (R285). DESIGN CHOICE (log 187). -/
def execVloop (h : Hdr) (len : BitVec 8) (port : Fin 4) (s : State) : Host.Outcome State Fault Refusal :=
  issueWord h 0 0 0 {} (fun s =>
    match s.cc.regs.strm[port] with
    | none => .trap s .stream (portVal port) 0
    | some p =>
      let c := 1024 / p.desc.width
      startLoop s len (BitVec.ofNat 64 ((p.desc.count - p.pos + c - 1) / c))) s

end Sys2Proof.Machine
end

