-- ==== Sys2Proof/Machine/Array.lean ====
section
/-! DEFINITION. The cluster array (R312 to R337): shares and tiles, operand tiles in memory, block arithmetic, the scale
store, and the events of queued operations. -/
namespace Sys2Proof.Machine
open Sys2Proof

/-! ## Shares and tiles (R312 to R317) -/

/-- The rows of a share (R312, R313). -/
def Cluster.shareRows (c : Cluster) (sh : Fin 2) : Nat :=
  if c.zshare.getLsbD 63 then
    (if sh = 0 then 32 * (c.zshare.extractLsb' 32 3).toNat else 256 - 32 * (c.zshare.extractLsb' 32 3).toNat)
  else 256
/-- The first physical row of a share. -/
def Cluster.shareBase (c : Cluster) (sh : Fin 2) : Nat := if sh = 0 then 0 else 32 * (c.zshare.extractLsb' 32 3).toNat
/-- The share of a partition tag (R314). -/
def Cluster.shareOf (c : Cluster) (p : PTag) : Option (Fin 2) :=
  if c.zshare.getLsbD 31 && c.zshare.extractLsb' 0 6 == p then some 0
  else if c.zshare.getLsbD 63 && c.zshare.extractLsb' 56 6 == p then some 1
  else none

def Cluster.share (c : Cluster) (sh : Fin 2) : Share := c.shares[sh]
def State.onShare (s : State) (cl : Nat) (sh : Fin 2) (f : Share → Share) : State :=
  let c := s.cluster cl
  s.setCluster cl { c with shares := c.shares.set sh (f c.shares[sh]) }
def State.onTile (s : State) (cl : Nat) (sh : Fin 2) (t : Fin 4) (f : ZTile → ZTile) : State :=
  s.onShare cl sh fun x => { x with tiles := x.tiles.set t (f x.tiles[t]) }

/-- A row of a tile; a row not listed is +0. -/
def ZTile.row (t : ZTile) (r : Nat) : BitVec 8192 := Tab.get 0 t.rows r
def ZTile.setRow (t : ZTile) (r : Nat) (x : BitVec 8192) : ZTile := { t with rows := Tab.set t.rows r x }
/-- Element n of a row. -/
def rowElem (x : BitVec 8192) (n : Nat) : Nat := (x.extractLsb' (32 * n) 32).toNat
/-- A row of its elements. -/
def ofRow (xs : List Nat) : BitVec 8192 := xs.foldr (fun x r => (r <<< 32) ||| BitVec.ofNat 8192 (x % 2 ^ 32)) 0

/-- A share's fault (R327, R336, R348): a fault while one is recorded sets MORE alone. -/
def Share.record (x : Share) (cause : BitVec 2) (t : Fin 4) (row lcn group : Nat) : Share :=
  { x with fault := if x.fault.v then { x.fault with more := true }
                    else { v := true, cause := cause, more := false, tile := t, row := row, lcn := lcn, group := group } }

/-! ## Operations in the queue (R331 to R334) -/

/-- The form sets WM to 0 at its acceptance and sends a matrix pulse (R334). -/
def ZKind.pulses : ZKind → Bool
  | .zero _ | .mma _ | .ldc .. => true
  | _ => false
/-- The form streams (R332). -/
def ZKind.streams : ZKind → Bool
  | .mma _ => true
  | _ => false
/-- The form rewrites its tile whole, whatever its tag (R327). -/
def ZKind.rewrites : ZKind → Bool
  | .zero _ | .ldc .. | .free => true
  | _ => false

/-- An operation streams: it has started and its streaming has not ended. -/
def ZOp.streaming (o : ZOp) : Bool := o.kind.streams && o.started && !o.done && !o.streamed
/-- Operations not yet started: what the share's queue holds (R312). DEDUCED (log 61). -/
def Share.waiting (x : Share) : List ZOp := x.queue.filter fun o => !o.started
/-- Tile t has an accepted operation not yet finished. -/
def Share.busy (x : Share) (t : Fin 4) : Bool := x.queue.any fun o => o.tile == t

/-- The tag a tile will carry once its accepted operations are performed (R343). -/
def Share.pendingTag (x : Share) (t : Fin 4) : Tag :=
  x.queue.foldl (fun tag o => if o.tile == t && !o.done then (match o.kind with
    | .zero tg => tg
    | .ldc tg _ => tg
    | .free => 0
    | _ => tag) else tag) x.tiles[t].tag

/-- Updates the operation at a place of the queue. -/
def Share.setOp (x : Share) (i : Nat) (o : ZOp) : Share := { x with queue := x.queue.set i o }

/-- No later accepted operation on the tile has set WM to 0: the watermark is this operation's (R334). DEDUCED (log 60). -/
def Share.ownsWm (x : Share) (i : Nat) (t : Fin 4) : Bool :=
  !(x.queue.drop (i + 1)).any fun o => o.tile == t && o.kind.pulses

/-- Sets the watermark of an operation's tile, where it is the operation's. -/
def State.setWm (s : State) (cl : Nat) (sh : Fin 2) (i : Nat) (t : Fin 4) (w : Nat) : State :=
  if ((s.cluster cl).share sh).ownsWm i t then s.onTile cl sh t fun z => { z with wm := w } else s

/-- The matrix pulse of an operation (R334, R376). -/
def State.matrixPulse (s : State) (cl : Nat) (sh : Fin 2) : State :=
  s.pulse cl (s.clk + 2) (.matrix sh)

/-- An operation accepted at the end of the queue, at the clk of its core (R331); it starts two clk after at the earliest (R333).
DEDUCED (log 145). -/
def State.queueOp (s : State) (cl : Nat) (sh : Fin 2) (core : Nat) (t : Fin 4) (k : ZKind) : State :=
  let now := (s.core core).tmg.clk
  s.onShare cl sh fun x => { x with
    queue := x.queue ++ [{ core := core, tile := t, kind := k, accepted := now, due := now + 2 }]
    tiles := if k.pulses then x.tiles.set t { x.tiles[t] with wm := 0 } else x.tiles }

/-! ## Operand tiles (R318 to R321) -/

/-- An operand header. -/
structure OpHeader where
  fmt : Tag
  kind : Nat
  rows : Nat
  cols : Nat
  spn : Nat
  zero : Bool
  seq : BitVec 32

/-- The header in 16 bytes (R318). -/
def opHeader (bs : List Byte) : OpHeader :=
  let x := ofBytes 128 bs
  { fmt := x.extractLsb' 0 8, kind := (x.extractLsb' 8 8).toNat, rows := (x.extractLsb' 16 16).toNat,
    cols := (x.extractLsb' 32 16).toNat, spn := (x.extractLsb' 48 8).toNat,
    zero := x.extractLsb' 56 8 == 0 && x.extractLsb' 96 32 == 0, seq := x.extractLsb' 64 32 }

/-- A dimension in a header that an engine writes; R318 gives it 16 bits, and no rule says what stands there for a larger one
(R364, log 26). -/
def headerDim (x : Nat) : BitVec 16 := if x < 65536 then BitVec.ofNat 16 x else Config.headerDim x

/-- The 16 bytes of a dense header. -/
def headerBytes (fmt : Tag) (kind rows cols : Nat) (seq : BitVec 32) : List Byte :=
  [fmt, BitVec.ofNat 8 kind] ++ toBytes 2 (headerDim rows) ++ toBytes 2 (headerDim cols) ++ [0, 0] ++
    toBytes 4 seq ++ [0, 0, 0, 0]

/-- Bytes of the data of an A tile of M rows and k stored columns (R319). -/
def aBytes (m wb k : Nat) : Nat := k * wb * (m / 8)
/-- The offset of sparse metadata from the header (R320). -/
def metaOff (m wb k' : Nat) : Nat := (16 + aBytes m wb k' + 7) / 8 * 8
/-- Bytes of a whole A tile from its header on. -/
def aTileBytes (m wb k spn : Nat) : Nat :=
  if spn = 0 then 16 + aBytes m wb k else metaOff m wb (k * spn / 24) + k / 24 * m * 8
/-- Bytes of a whole B tile (R321). -/
def bTileBytes (wb k : Nat) : Nat := 16 + k * 32 * wb

/-- The pattern of element (row i, stored column k) of A's planes (R319); `get` reads the data from offset 16 on. -/
def aElem (get : Nat → Byte) (m wb i k : Nat) : Nat :=
  (List.range wb).foldl (fun x p =>
    if (get ((k * wb + p) * (m / 8) + i / 8)).getLsbD (i % 8) then x + 2 ^ p else x) 0
/-- The pattern of element (row k, column n) of B (R321). -/
def bElem (get : Nat → Byte) (wb k n : Nat) : Nat :=
  if wb = 4 then ((get (k * 128 + n / 2)).toNat >>> (4 * (n % 2))) % 16
  else (ofBytes 32 ((List.range (wb / 8)).map fun i => get (k * 32 * wb + n * (wb / 8) + i))).toNat

/-- The planes of an A tile from the rows of a matrix (R319, R364); `elem i k` is the pattern of row i, column k. -/
def aPlanes (m wb k : Nat) (elem : Nat → Nat → Nat) : List Byte :=
  (List.range (k * wb)).flatMap fun kp => (List.range (m / 8)).map fun b =>
    (List.range 8).foldl (fun (x : Byte) i =>
      if (elem (8 * b + i) (kp / wb)).testBit (kp % wb) then x ||| (1#8 <<< i) else x) 0

/-- A sparse group's entry: the positions it names (R320). -/
def metaPos (x : Word) (n : Nat) : List Nat := (List.range n).map fun j => (x.extractLsb' (5 * j) 5).toNat
/-- A legal entry: positions rise and lie below 24 (R320). -/
def metaLegal : List Nat → Bool
  | [] => true
  | [p] => decide (p < 24)
  | p :: q :: ps => decide (p < q) && metaLegal (q :: ps)

/-! ## Arithmetic (R323 to R326) -/

/-- The formats of set MX (R323). -/
def inMx (t : Tag) : Bool :=
  let c := (t.extractLsb' 0 6).toNat
  let q := t.extractLsb' 6 2
  (decide (0x21 ≤ c) && decide (c ≤ 0x27)) || (decide (0x29 ≤ c) && decide (c ≤ 0x2B) && q.getLsbD 1 == false) ||
    (q == 0 && (c == 2 || c == 3 || c == 4 || c == 8 || c == 0x11))
/-- The clk of one k-step of a format of set MX (R323): for a float half its significand planes, rounded up, and for an integer half its
width, but no less than 1. -/
def stepCost (t : Tag) : Nat :=
  let f := fmtOf t
  let planes := if f.kind = .int then f.width else f.prec - 1
  max 1 ((planes + 1) / 2)
/-- The tile tag of a format of set MX (R323). -/
def mxTile (t : Tag) : Tag := if t = 0x08#8 ∨ t = 0x11#8 then 0x0A#8 else 0x02#8

/-- A term of a block sum: a product with its scales (R324, R325), and whether it sets NV. -/
def mmaTerm (f : Fmt) (a b : Nat) (sa sb : Option Nat) : Ex × Bool :=
  let x := f.value a
  let y := f.value b
  let one : Ex := .num false 1 0 false
  let u := (sa.map s10Value).getD one
  let v := (sb.map s10Value).getD one
  if x.isNan || y.isNan || u.isNan || v.isNan then (.nan false, false)
  else
    let inf := x.isInf || y.isInf
    let zero := x.isZero || y.isZero || u.isZero || v.isZero
    if inf && zero then (.nan false, true)
    else (((x.mul y).mul u).mul v, false)

/-- The exact sum of a block's terms (R325): its value and whether NV is set. -/
def blockSum (ts : List (Ex × Bool)) : Ex × Bool :=
  let pos := ts.any fun t => t.1 == .inf false
  let neg := ts.any fun t => t.1 == .inf true
  let nv := ts.any (·.2) || (pos && neg)
  if ts.any (fun t => t.1.isNan) || (pos && neg) then (.nan false, nv)
  else if pos then (.inf false, nv)
  else if neg then (.inf true, nv)
  else match ts with
    | [] => (.num false 0 0 false, nv)
    | t :: r => (r.foldl (fun x y => x.add false y.1) t.1, nv)

/-- The helper acc (R324, R325): an accumulator and a block sum, rounded once to FP32 in RNE, overflow to infinity. -/
def accFp (c : Nat) (t : Ex × Bool) : Nat × BitVec 5 :=
  let nv : BitVec 5 := if t.2 then flagNV else 0
  match fp32.value c, t.1 with
  | .nan _, _ | _, .nan _ => (fp32.nan, nv)
  | .inf x, .inf y => if x = y then (fp32.inf x, nv) else (fp32.nan, flagNV)
  | x, y =>
    let r := roundWith fp32 1 modeRNE 0 (x.add false y)
    (r.1, r.2 ||| nv)

/-- One element of C after every block, with the flags (R324, R326): `term k` is A's and B's patterns at k, or none where A
stores none; `sa` and `sb` give the scales of a block. -/
def mmaElem (fmt : Tag) (k : Nat) (term : Nat → Option (Nat × Nat)) (sa sb : Nat → Option Nat) (c : Nat) :
    Nat × BitVec 5 :=
  let f := fmtOf fmt
  (List.range (k / 32)).foldl (fun (acc : Nat × BitVec 5) j =>
    let ts := (List.range 32).filterMap fun i => term (32 * j + i)
    if f.kind = .int then
      let x : Int := (ts.map fun t => intOf f t.1 * intOf f t.2).foldl (· + ·) 0
      (wrapTo 32 ((acc.1 : Int) + x), acc.2)
    else
      let r := accFp acc.1 (blockSum (ts.map fun t => mmaTerm f t.1 t.2 (sa j) (sb j)))
      (r.1, acc.2 ||| r.2)) (c, 0)

/-! ## The scale store (R328 to R330) -/

/-- Entry `i` of a slot. -/
def ScaleSlot.entry (x : ScaleSlot) (i : Nat) : Nat := ((Tab.get 0#1024 x.groups (i / 64)).extractLsb' (16 * (i % 64)) 16).toNat

/-- A scale write of 64 entries at block j, quarter q (R329). -/
def ScaleSlot.write (x : ScaleSlot) (seq : BitVec 32) (j q : Nat) (v : BitVec 1024) : ScaleSlot :=
  let x := if x.seq = seq then x else { x with seq := seq, valid := 0 }
  { x with groups := Tab.set x.groups (4 * j + q) v, valid := x.valid ||| (1#128 <<< (4 * j + q)) }

/-- The slot of a sequence number. -/
def slotOf (seq : BitVec 32) : Fin 4 := ⟨seq.toNat % 4, Nat.mod_lt _ (by decide)⟩

/-- An accepted operation still needs a slot (R329). -/
def Share.slotBusy (x : Share) (seq : BitVec 32) : Bool :=
  x.queue.any fun o => !o.done && !o.streamed && (match o.kind with
    | .mma m => (match m.scaled with
      | some q => slotOf q == slotOf seq
      | none => false)
    | _ => false)

/-- A scale write to a share. -/
def State.scaleWrite (s : State) (cl : Nat) (sh : Fin 2) (sideB : Bool) (seq : BitVec 32) (j q : Nat) (v : BitVec 1024) :
    State :=
  s.onShare cl sh fun x =>
    if sideB then { x with bSlots := x.bSlots.set (slotOf seq) (x.bSlots[slotOf seq].write seq j q v) }
    else { x with aSlots := x.aSlots.set (slotOf seq) (x.aSlots[slotOf seq].write seq j q v) }

/-- A slot holds every scale that an operation needs (R330). -/
def ScaleSlot.covers (x : ScaleSlot) (seq : BitVec 32) (k quarters : Nat) : Bool :=
  x.seq == seq && decide (k ≤ 1024) &&
    (List.range (k / 32)).all fun j => (List.range quarters).all fun q => x.valid.getLsbD (4 * j + q)

/-! ## Starting an operation (R327, R332, R333) -/

/-- The time that the first access of an agent of a core on a path of R247 exceeds (R245). -/
def State.agentStart (s : State) (core : Nat) (path : Fin 8) : Nat := max s.floor (s.core core).ft[path]

/-- The bytes from the first row of a tile in memory to its last (R344). -/
def RowPlace.range (p : RowPlace) (m rowBytes : Nat) : Range := ⟨p.space, p.off, p.off + (m - 1) * p.stride + rowBytes⟩

/-- The memory that an operation reads on path Z, or the memory it writes (R335). -/
def ZOp.ranges (o : ZOp) (m : Nat) : List Range :=
  match o.kind with
  | .mma x => [⟨.spad x.aCore, x.aOff, x.aOff + aTileBytes m (tagWidth x.fmt) x.k x.n⟩,
      ⟨.spad x.bCore, x.bOff, x.bOff + bTileBytes (tagWidth x.fmt) x.k⟩]
  | .ldc _ p => [p.range m 1024]
  | .store dt p _ _ => [p.range m (32 * tagWidth dt)]
  | _ => []

/-- An unfinished ZSTORE whose destination shares a byte with one of the ranges (R331, R335). -/
def ZOp.storesOver (o : ZOp) (m : Nat) (rs : List Range) : Bool :=
  (match o.kind with
    | .store .. => true
    | _ => false) && !o.done && (o.ranges m).any fun x => rs.any x.meets

/-- The operation at a place of the queue may start, once its clk has come: it is the oldest of its core that has not, with no earlier
operation on its tile and no earlier ZSTORE still to write memory that it names (R335), and, if it streams, while none streams. -/
def Share.eligible (x : Share) (m i : Nat) : Bool :=
  match x.queue[i]? with
  | none => false
  | some o =>
    !o.started && !(x.queue.take i).any (fun p => p.tile == o.tile || (p.core == o.core && !p.started) ||
        p.storesOver m (o.ranges m)) &&
      !(o.kind.streams && x.queue.any (·.streaming))
/-- The operations that may start, by their places in the queue. -/
def Share.startable (x : Share) (m : Nat) : List Nat := (List.range x.queue.length).filter (x.eligible m)
/-- The clk from which the operation at a place may act. -/
def Share.dueAt (x : Share) (i : Nat) : Nat := (x.queue[i]?.map (·.due)).getD 0

/-- The operation that the share takes next at a clk: of those that may start by then, round-robin by core from the one
after the core served last. DEDUCED (log 62). DEDUCED (log 144). -/
def Share.pick (x : Share) (m now : Nat) : Option Nat :=
  let is := (x.startable m).filter fun i => decide (x.dueAt i ≤ now)
  (List.range 24).findSome? fun d =>
    is.find? fun i => match x.queue[i]? with
      | some o => indexOf o.core == (x.served + 1 + d) % 24
      | none => false

/-- The first of the faults that a stream may meet: at the lowest step, and there in the lowest row. DEDUCED (log 64). -/
def firstStop (xs : List (Nat × Nat × Nat × Nat)) : Option (Nat × Nat × Nat × Nat) :=
  xs.foldl (fun best x => match best with
    | none => some x
    | some b => if x.1 < b.1 ∨ (x.1 = b.1 ∧ x.2.1 < b.2.1) then some x else some b) none

/-- What stops a stream (R327): step, row, cause and group of the first uncorrectable word or illegal entry. -/
def State.mmaStop (s : State) (m : Nat) (x : MmaOp) : Option (Nat × Nat × Nat × Nat) :=
  let wb := tagWidth x.fmt
  let cols := if x.n = 0 then x.k else x.k * x.n / 24
  let ka := s.core x.aCore
  let kb := s.core x.bCore
  let colBytes := wb * (m / 8)
  let inA := fun b => decide (x.aOff + 16 ≤ b) && decide (b < x.aOff + 16 + aBytes m wb cols)
  let low := fun (w top : Nat) (f : Nat → Nat) => (List.range 8).foldl (fun (lo : Nat) i =>
    if inA (8 * w + i) then min lo (f (8 * w + i - (x.aOff + 16))) else lo) top
  let aList := (ka.lostWords.filter fun w => (List.range 8).any fun i => inA (8 * w + i)).map fun w =>
    (low w cols (· / colBytes), low w m (fun r => r % (m / 8) * 8), 3, 0)
  let bList := (kb.lostWords.filter fun w => decide (x.bOff + 16 ≤ 8 * w + 7) && decide (8 * w < x.bOff + bTileBytes wb x.k)).map
    fun w =>
      let k := (8 * w - (x.bOff + 16)) / (32 * wb)
      ((if x.n = 0 then k else k / 24 * x.n), 0, 3, 0)
  let mo := x.aOff + metaOff m wb cols
  let metaList := if x.n = 0 then [] else (List.range (x.k / 24)).flatMap fun g => (List.range m).filterMap fun i =>
    let a := mo + (g * m + i) * 8
    if ka.wordLost (a / 8) then some (g * x.n, i, 3, 0)
    else if metaLegal (metaPos (ofBytes 64 (ka.spad.bytes a 8)) x.n) then none
    else some (g * x.n, i, 1, g)
  firstStop (metaList ++ aList ++ bList)

/-- Row i of C after an operation, from the row before it (R324 to R326), with the flags it raises. -/
def State.mmaRow (s : State) (m : Nat) (x : MmaOp) (i : Nat) (c : BitVec 8192) : BitVec 8192 × BitVec 5 :=
  let wb := tagWidth x.fmt
  let pa := (s.core x.aCore).spad
  let pb := (s.core x.bCore).spad
  let ga := fun o => pa.get (x.aOff + 16 + o)
  let gb := fun o => pb.get (x.bOff + 16 + o)
  let cols := if x.n = 0 then x.k else x.k * x.n / 24
  let stored := fun k =>
    if x.n = 0 then some k
    else
      let g := k / 24
      let e := ofBytes 64 (pa.bytes (x.aOff + metaOff m wb cols + (g * m + i) * 8) 8)
      ((metaPos e x.n).findIdx? (· == k % 24)).map fun j => g * x.n + j
  let row := (List.range x.k).map fun k => (stored k).map (aElem ga m wb i)
  let scale := fun (sl : ScaleSlot) (e : Nat) => if x.scaled.isSome then some (sl.entry e) else none
  let es := (List.range 256).map fun n =>
    mmaElem x.fmt x.k (fun k => (row.getD k none).map fun a => (a, bElem gb wb k n)) (fun j => scale x.sa (j * 256 + i))
      (fun j => scale x.sb (j * 256 + n)) (rowElem c n)
  (ofRow (es.map (·.1)), es.foldl (fun f e => f ||| e.2) 0)

/-- The scratchpads of cores as an array operation whose next access is at time `t` reads them (R206, R249). -/
def State.arrayView (s : State) (cores : List Nat) (t : Nat) : State :=
  let put := fun (v : State) (n : Nat) =>
    v.setCore n { v.core n with spad := (s.staleIn (.spad n) t).foldl (fun (m : Mem) b => m.set b.1 b.2) (v.core n).spad }
  { cores.eraseDups.foldl put s with draws := s.draws + s.recent.length }

/-- The k-steps that an operation streams (R333). -/
def MmaOp.steps (x : MmaOp) : Nat := if x.n = 0 then x.k else x.k * x.n / 24
/-- What an operation has read by the end of its step `k`: A's stored columns, B's rows and the metadata of the groups so far. Flipped
bits are corrected and counted, and the words that stop it are counted with them (R164, R165, R167). DEDUCED (log 192). -/
def State.streamRead (s : State) (m : Nat) (x : MmaOp) (k : Nat) : State :=
  let wb := tagWidth x.fmt
  let groups := k / x.n + 1
  let rows := if x.n = 0 then k + 1 else min x.k (24 * groups)
  let s := (s.scan (.spad false x.aCore (x.aOff + 16)) (aBytes m wb (k + 1))).1
  let s := (s.scan (.spad false x.bCore (x.bOff + 16)) (rows * 32 * wb)).1
  if x.n = 0 then s
  else (s.scan (.spad false x.aCore (x.aOff + metaOff m wb x.steps)) (min (x.k / 24) groups * m * 8)).1

/-- An operation ends by a fault (R327, R336): its tile becomes POISON with WM at M, the share records it. -/
def State.opFault (s : State) (cl : Nat) (sh : Fin 2) (i : Nat) (o : ZOp) (cause : BitVec 2) (row group : Nat) : State :=
  let m := (s.cluster cl).shareRows sh
  let lcn := s.lcn o.core
  let s := (s.onTile cl sh o.tile fun z => { z with tag := poisonTag }).setWm cl sh i o.tile m
  let s := s.onShare cl sh fun x => (x.record cause o.tile row lcn group).setOp i { o with started := true, done := true }
  (s.owe (.arrayOpFinish cl sh)).owe (.scaleWriteRelease cl sh)

/-- ARRAY_OP_START (R332, R333): the share takes an operation whose clk has come; ZZERO and ZFREE are performed, a streaming operation
reads its operands, forms its rows, and streams for its k-steps or up to the one that stops it (R327); one that reaches a POISON tile is
skipped (R327). DEDUCED (log 146). -/
def State.opStart (s : State) (cl : Nat) (sh : Fin 2) : State :=
  let x := (s.cluster cl).share sh
  let m := (s.cluster cl).shareRows sh
  match x.pick m s.clk with
  | none => s
  | some i =>
    match x.queue[i]? with
    | none => s
    | some o =>
      let o := { o with started := true, time := s.agentStart o.core 2 }
      let s := s.onShare cl sh fun x => { x with served := indexOf o.core }
      let tile := x.tiles[o.tile]
      let finish := fun (s : State) =>
        (s.onShare cl sh fun x => x.setOp i { o with done := true }).owe (.arrayOpFinish cl sh)
      let slow := { o with due := s.clk + Config.zArrive s.draws }
      if isPoison tile.tag && !o.kind.rewrites then
        (finish (s.setWm cl sh i o.tile m)).owe (.scaleWriteRelease cl sh)
      else match o.kind with
        | .free => finish ((s.onTile cl sh o.tile fun z => { z with rows := [], tag := 0, flags := 0 }).setWm cl sh i o.tile m)
        | .zero t => finish ((s.onTile cl sh o.tile fun z => { z with rows := [], tag := t }).setWm cl sh i o.tile m)
        | .mma op =>
          let v := s.arrayView [op.aCore, op.bCore] (o.time + 1)
          let stop := v.mmaStop m op
          let steps := (stop.map (·.1 + 1)).getD op.steps
          let rows := if stop.isSome then [] else (List.range m).map fun r => v.mmaRow m op r (tile.row r)
          let s := { s with draws := v.draws }
          let ra := s.readTime (o.time + 1) (.spad op.aCore)
          let rb := ra.1.readTime (ra.2 + 1) (.spad op.bCore)
          let s := rb.1.streamRead m op (steps - 1)
          let k := s.core o.core
          let s := s.setCore o.core { k with eng := { k.eng with zsteps := k.eng.zsteps + steps } }
          s.onShare cl sh fun x => x.setOp i { o with rows := rows, time := rb.2, due := s.clk + steps * stepCost op.fmt - 1,
                                                      stop := stop.map (·.2) }
        | .ldc t _ =>
          { (s.onTile cl sh o.tile fun z => { z with tag := t, rows := [] }).onShare cl sh fun x => x.setOp i slow with draws := s.draws + 1 }
        | .store .. => { s.onShare cl sh fun x => x.setOp i slow with draws := s.draws + 1 }

def execArrayOpStart (cl : Nat) (sh : Fin 2) (s : State) : Host.Outcome State Fault Refusal := .next (s.opStart cl sh)

/-! ## Rows (R333, R335, R336, R344) -/

/-- The place of row r of a tile in memory. -/
def RowPlace.place (p : RowPlace) (r : Nat) : Place :=
  match p.space with
  | .chip d => .chip d (p.off + r * p.stride)
  | .spad c => .spad false c (p.off + r * p.stride)
  | .va => .evu 0

/-- The bytes of a row as ZSTORE writes it (R344), with the flags. -/
def storeRow (tile : Tag) (dt : Tag) (mode : BitVec 3) (ovt : BitVec 128) (x : BitVec 8192) : List Byte × BitVec 5 :=
  if dt = tile then (toBytes 1024 x, 0)
  else
    let f := fmtOf dt
    (List.range 256).foldl (fun (acc : List Byte × BitVec 5) n =>
      let r := roundWith f (ovt.extractLsb' (2 * f.code) 2) mode 0 (fp32.value (rowElem x n))
      (acc.1 ++ toBytes (f.width / 8) (BitVec.ofNat 32 r.1), acc.2 ||| r.2)) ([], 0)

/-- The operation whose row is written next: of those that write rows, and have streamed if they stream, the one with the earliest clk,
the oldest of several, so that ZLDC and ZSTORE run beside a streaming operation on another tile (R332, R333). DEDUCED (log 173). -/
def Share.nextRow (x : Share) (m : Nat) : Option Nat :=
  let ready := fun (o : ZOp) => o.started && !o.done && !o.streaming && decide (o.next < m)
  (x.queue.zipIdx.foldl (fun (b : Option (ZOp × Nat)) (e : ZOp × Nat) =>
    if !ready e.1 then b else match b with
      | none => some e
      | some y => if e.1.due < y.1.due then some e else some y) none).map (·.2)

/-- ARRAY_ROW_WRITE: the next row of an operation that writes rows: a drained row of C, whose parity the drain
checks; a row that ZLDC loads; or a row that ZSTORE writes to memory. -/
def State.rowWrite (s : State) (cl : Nat) (sh : Fin 2) (parityBad : Bool) : State :=
  let x := (s.cluster cl).share sh
  let m := (s.cluster cl).shareRows sh
  match x.nextRow m with
  | none => s
  | some i =>
    match x.queue[i]? with
    | none => s
    | some o =>
      let r := o.next
      let step := fun (s : State) (o : ZOp) =>
        if r + 1 < m then s.onShare cl sh fun x => x.setOp i { o with next := r + 1, due := o.due + 1 }
        else (s.onShare cl sh fun x => x.setOp i { o with next := r + 1, done := true }).owe (.arrayOpFinish cl sh)
      let tile := x.tiles[o.tile]
      match o.kind with
      | .mma _ =>
        if parityBad then
          let owner := tile.owner.getD o.core
          ((s.opFault cl sh i o 2 r 0).postError 2 (s.core owner).ptag owner).suspect (.array cl) 16
        else
          let row := o.rows.getD r (0, 0)
          step ((s.onTile cl sh o.tile fun z => { z.setRow r row.1 with flags := z.flags ||| row.2 }).setWm cl sh i o.tile (r + 1)) o
      | .ldc _ p =>
        let pl := p.place r
        let q := s.scan pl 1024
        if q.2 then
          let s := q.1.opFault cl sh i o 3 r 0
          s.postError 1 (s.core o.core).ptag o.core
        else
          match pl.store with
          | none => q.1
          | some x =>
            let t := ({ core := o.core, time := o.time } : Agent).saw q.1 x.1 x.2 (q.1.readPlace 1024 pl) (q.1.readTime (o.time + 1) (pl.home cl))
            step ((t.1.onTile cl sh o.tile fun z => z.setRow r (ofBytes 8192 t.2.2)).setWm cl sh i o.tile (r + 1)) { o with time := t.2.1.time }
      | .store dt p mode ovt =>
        let pl := p.place r
        let b := storeRow tile.tag dt mode ovt (tile.row r)
        let t := s.writeTime (o.time + 1) (pl.home cl)
        step { (t.1.writePlace pl b.1).onTile cl sh o.tile fun z => { z with flags := z.flags ||| b.2 } with draws := s.draws + 1 }
          { o with time := t.2, due := o.due + Config.zArrive s.draws }
      | _ => s

def execArrayRowWrite (cl : Nat) (sh : Fin 2) (parityBad : Bool) (s : State) : Host.Outcome State Fault Refusal :=
  .next (s.rowWrite cl sh parityBad)

/-- Operations of a share that wait for another have their clk put off (R333). -/
def Share.putOff (x : Share) (clk : Nat) (those : ZOp → Bool) : Share :=
  { x with queue := x.queue.map fun o => if !o.started && those o then { o with due := max o.due clk } else o }

/-- ARRAY_OP_FINISH (R334): the oldest performed operation leaves the share; one that set WM to 0 sends its pulse, and its
core's accesses on path Z have the operation's time. What waits for its tile, or for the memory that it wrote, starts a clk later at the
earliest (R333, R335). -/
def State.opFinish (s : State) (cl : Nat) (sh : Fin 2) : State :=
  let x := (s.cluster cl).share sh
  match x.queue.findIdx? (·.done) with
  | none => s
  | some i =>
    match x.queue[i]? with
    | none => s
    | some o =>
      let m := (s.cluster cl).shareRows sh
      let waits := fun (y : ZOp) => y.tile == o.tile || { o with done := false }.storesOver m (y.ranges m)
      let s := s.onShare cl sh fun x => { x with queue := x.queue.eraseIdx i }.putOff (s.clk + 1) waits
      let k := s.core o.core
      let s := s.setCore o.core { k with eng := { k.eng with zdone := max k.eng.zdone o.time } }
      if o.kind.pulses then s.matrixPulse cl sh else s

def execArrayOpFinish (cl : Nat) (sh : Fin 2) (s : State) : Host.Outcome State Fault Refusal := .next (s.opFinish cl sh)

/-- The streaming of a share's operation ends at its clk (R327, R333): its drain begins 7 clk later, or the fault that stopped it is
recorded, an uncorrectable word as a detected error too; the next operation streams a clk later at the earliest. -/
def State.endStream (s : State) (cl : Nat) (sh : Fin 2) : State :=
  let x := (s.cluster cl).share sh
  match x.queue.findIdx? fun o => o.streaming && decide (o.due ≤ s.clk) with
  | none => s
  | some i =>
    match x.queue[i]? with
    | none => s
    | some o =>
      let s := s.onShare cl sh fun x => x.putOff (s.clk + 1) (·.kind.streams)
      match o.stop with
      | some (row, cause, group) =>
        let s := s.opFault cl sh i o (BitVec.ofNat 2 cause) row group
        if cause = 3 then s.postError 1 (s.core o.core).ptag o.core else s
      | none => s.onShare cl sh fun x => x.setOp i { o with streamed := true, due := o.due + 7 }

/-- SCALE_WRITE_RELEASE (R329, R333): a streaming ends, and the copies of a cluster's cores that wait for a scale slot go on. -/
def execScaleWriteRelease (cl : Nat) (sh : Fin 2) (s0 : State) : Host.Outcome State Fault Refusal :=
  let s := s0.endStream cl sh
  .next ((List.range 24).foldl (fun s i =>
    let n := cl * 24 + i
    (s.core n).eng.cmds.foldl (fun s c => match c.body with
      | .copy _ _ _ _ true _ _ _ => if (s.cluster cl).shareOf c.ptag = some sh then s.owe (.commandComplete n c.cls c.seq) else s
      | _ => s) s) s)

/-- What a share does next of its own accord (R333): an operation that starts, the end of a streaming, and a row, each with its clk. -/
def State.shareWork (s : State) (cl : Nat) (sh : Fin 2) : List (Nat × Instr) :=
  let x := (s.cluster cl).share sh
  let m := (s.cluster cl).shareRows sh
  (((x.startable m).map x.dueAt).min?.toList.map fun t => (t, .arrayOpStart cl sh)) ++
    ((x.queue.filter (·.streaming)).map fun o => (o.due, .scaleWriteRelease cl sh)) ++
    (x.nextRow m).toList.map fun i => (x.dueAt i, .arrayRowWrite cl sh false)

/-- A share loses its rows, tag or existence, or its launch ends: a tile is freed as by ZFREE, at once (R313, R317). -/
def ZTile.freed (m : Nat) : ZTile := { wm := m }

/-- A write of ZSHARE that takes effect on shares whose queues are empty (R313): reserved bits read zero, the writes that
are not allowed leave it as it is, and every share that changes loses its tiles and scale slots. -/
def zshareNext (old x : Word) : Word :=
  let y := x &&& 0xBF0000078000003F#64
  if y.getLsbD 63 && (y.extractLsb' 32 3 == 0 || !y.getLsbD 31 || y.extractLsb' 0 6 == y.extractLsb' 56 6) then old else y

/-- A share's rows, tag or existence differ between two values of ZSHARE. -/
def zshareChanges (old new : Word) (sh : Fin 2) : Bool :=
  let c : Cluster := { zshare := old }
  let d : Cluster := { zshare := new }
  let tag := fun (w : Word) => if sh = 0 then (w.getLsbD 31, w.extractLsb' 0 6) else (w.getLsbD 63, w.extractLsb' 56 6)
  tag old != tag new || c.shareRows sh != d.shareRows sh

/-- The write may take effect: every share that it changes has an empty queue with nothing streaming. -/
def Cluster.zshareReady (c : Cluster) (x : Word) : Bool :=
  (List.finRange 2).all fun sh => !zshareChanges c.zshare (zshareNext c.zshare x) sh || (c.share sh).queue.isEmpty

/-- ZSHARE after a write. -/
def Cluster.writeZshare (c : Cluster) (x : Word) : Cluster :=
  let new := zshareNext c.zshare x
  let d := { c with zshare := new }
  (List.finRange 2).foldl (fun (e : Cluster) sh =>
    if zshareChanges c.zshare new sh then
      { e with shares := e.shares.set sh { e.shares[sh] with
        tiles := Vector.replicate 4 (ZTile.freed (d.shareRows sh)), aSlots := Vector.replicate 4 {}, bSlots := Vector.replicate 4 {} } }
    else e) d

end Sys2Proof.Machine
end

