-- ==== Sys2Proof/Machine/Matrix.lean ====
section
/-! DEFINITION. The matrix instructions, opcodes 0x68 to 0x6E (R339 to R349). -/
namespace Sys2Proof.Machine
open Sys2Proof

/-- XVAL of an ownership trap (R315). -/
def zownVal (reason tile : Nat) : Word := BitVec.ofNat 64 (0x100 * reason + tile)

/-- A form of the array by the current core: its share, by PTAG (R314); `own` names the tile that the core must own.
DEDUCED (log 63). -/
def zCheck (own : Option (Fin 4)) (k : Fin 2 → State → Eff) (s : State) : Eff :=
  let cl := s.cluster (clusterOf s.cur)
  match cl.shareOf s.cc.ptag with
  | none => .trap s .zown (zownVal 0 0) 0
  | some sh => match own with
    | none => k sh s
    | some t =>
      if ((cl.share sh).tiles[t]).owner = some s.cur then k sh s else .trap s .zown (zownVal 1 t.val) 0

/-- The share of the current core as it stands. -/
def State.myShare (s : State) (sh : Fin 2) : Share := (s.cluster (clusterOf s.cur)).share sh
/-- The rows of a share of the current core's cluster. -/
def State.myRows (s : State) (sh : Fin 2) : Nat := (s.cluster (clusterOf s.cur)).shareRows sh

/-- A drained array takes no operation of a new launch (R538): one with no operation in its queue and no tile. -/
def State.arrayClosed (s : State) (sh : Fin 2) : Bool :=
  s.drained (.array (clusterOf s.cur)) && !((s.myShare sh).queue.any fun o => (s.core o.core).lid == s.cc.lid) &&
    !((s.myShare sh).tiles.toList.any fun z => z.owner.isSome && z.lid == s.cc.lid)

/-- A queued form: it stalls while the queue has no free entry (R331). -/
def zQueue (sh : Fin 2) (t : Fin 4) (k : ZKind) (s : State) : Eff :=
  if 8 ≤ (s.myShare sh).waiting.length || s.arrayClosed sh then .stall s else .done (s.queueOp (clusterOf s.cur) sh s.cur t k)

/-- A status word, of latency 2 and interlocked (R346, R348). -/
def zStatus (s : State) (d : GReg) (x : Word) : Eff := .done (s.setCc (s.cc.lockedResult s.cc.tmg.clk 2 (.g d x)))

/-! ## Tiles (R342) -/

def execZalloc (h : Hdr) (d : PReg) (t : Fin 4) (s : State) : Host.Outcome State Fault Refusal :=
  issueWord h 0 0 0 { dsts := [opP d] } (zCheck none fun sh s =>
    let z := (s.myShare sh).tiles[t]
    let got := z.owner.isNone || z.owner == some s.cur
    let s := if z.owner.isNone then
        s.onTile (clusterOf s.cur) sh t fun z => { z with owner := some s.cur, lid := s.cc.lid }
      else s
    .done (s.setCc (s.cc.lockedResult s.cc.tmg.clk 2 (.p d got)))) s

/-- DEDUCED (log 58). -/
def execZfree (h : Hdr) (t : Fin 4) (s : State) : Host.Outcome State Fault Refusal :=
  issueWord h 0 0 0 {} (zCheck (some t) fun sh s =>
    if 8 ≤ (s.myShare sh).waiting.length || s.arrayClosed sh then .stall s
    else .done ((s.onTile (clusterOf s.cur) sh t fun z => { z with owner := none, lid := none }).queueOp (clusterOf s.cur) sh
      s.cur t .free)) s

def execZzero (h : Hdr) (i32 : Bool) (t : Fin 4) (s : State) : Host.Outcome State Fault Refusal :=
  issueWord h 0 0 0 {} (zCheck (some t) fun sh => zQueue sh t (.zero (if i32 then 0x0A#8 else 0x02#8))) s

/-! ## Multiplication (R343) -/

/-- An operand's scratchpad (R322): the own one, or one of the cluster whose core has the issuing core's tag. -/
def State.operandPlace (s : State) (a : Word) : Except (Cause × Word) (Nat × Nat) :=
  match s.windowOf s.cur a 16 with
  | some (.spad own c off) =>
    if own || (s.core c).ctag == some s.cc.ptag then (if a.toNat % 16 = 0 then .ok (c, off) else .error (.align, a))
    else .error (.bounds, a)
  | _ => .error (.bounds, a)

/-- A header that the destination of an unfinished ZSTORE of the share covers is read once that has finished (R331). -/
def Share.storeCovers (x : Share) (m : Nat) (c off : Nat) : Bool :=
  x.queue.any fun o => o.storesOver m [⟨.spad c, off, off + 16⟩]

/-- A header as the form needs it (R318, R343): KIND, rows, columns, zero bytes, and the end of the tile. -/
def aHeaderOk (h : OpHeader) (sparse : Bool) (m off : Nat) : Bool :=
  let wb := tagWidth h.fmt
  h.zero && h.rows == m && h.cols != 0 &&
    (if sparse then h.kind == 1 && (h.spn == 12 || h.spn == 8 || h.spn == 6) && h.cols % 96 == 0
     else h.kind == 0 && h.spn == 0 && h.cols % 32 == 0) &&
    decide (off + aTileBytes m wb h.cols h.spn ≤ Config.spadBytes)
def bHeaderOk (h : OpHeader) (k off : Nat) : Bool :=
  h.zero && h.kind == 2 && h.spn == 0 && h.rows == k && h.cols == 256 &&
    decide (off + bTileBytes (tagWidth h.fmt) k ≤ Config.spadBytes)

/-- The first failing scale check (R330). -/
def scaleBreach (x : Share) (m : Nat) (q : BitVec 32) (a b : OpHeader) : Option Nat :=
  if a.seq ≠ q then some 0
  else if b.seq ≠ q then some 1
  else if !(x.aSlots[slotOf q]).covers q a.cols ((m + 63) / 64) then some 2
  else if !(x.bSlots[slotOf q]).covers q a.cols 4 then some 3
  else none

/-- The least clk of a header read (R157): 3 from the own scratchpad, more from another of the cluster. -/
def State.headClk (s : State) (c : Nat) : Nat := if c = s.cur then 3 else 10 + Config.clusterClk s.draws % 15
/-- The headers that the word has read, with the clk at which they return (R331). -/
def Core.headsRead (c : Core) : Option (Nat × BitVec 128 × BitVec 128) := if c.tmg.inside.isSome then c.tmg.heads else none

/-- The header reads of ZMMA and ZMMAS, loads of the core path in program order (R331): the word waits for their return. -/
def readHeads (xa xb : Word) (ca oa cb ob : Nat) (s : State) : Eff :=
  let ra := s.touch s.cur (.spad false ca oa) 16
  if ra.2 then .trap ra.1 .poison xa 0
  else
    let rb := (ra.1.coreRead s.cur (.spad ca)).touch s.cur (.spad false cb ob) 16
    if rb.2 then .trap rb.1 .poison xb 0
    else
      let s1 := rb.1.coreRead s.cur (.spad cb)
      let t := s.cc.tmg.clk + max (s.headClk ca) (s.headClk cb)
      let get := fun (c o : Nat) => ofBytes 128 (s1.readPlace 16 (.spad false c o))
      .within ({ s1 with draws := s.draws + 1 }.setCc (s1.cc.setTmg fun m => { m with heads := some (t, get ca oa, get cb ob) }))

/-- A form whose headers have returned is accepted, or waits for a free entry (R331). -/
def zAccept (sh : Fin 2) (t : Fin 4) (k : ZKind) (s : State) : Eff :=
  match zQueue sh t k s with
  | .stall s => .within s
  | e => e

/-- The checks of ZMMA and ZMMAS on their headers as they return (R343), then the queue. -/
def mmaHeads (sparse : Bool) (tag : Tag) (d : GReg) (t : Fin 4) (sc : Bool) (sh : Fin 2) (xa xb : Word) (ca oa cb ob : Nat)
    (ha hb : OpHeader) (s : State) : Eff :=
  let m := s.myRows sh
  let q := (s.cc.rdG d).setWidth 32
  if ha.fmt ≠ tag then .trap s .tagMismatch (0x200#64 + ha.fmt.setWidth 64) 0
  else if hb.fmt ≠ tag then .trap s .tagMismatch (0x300#64 + hb.fmt.setWidth 64) 0
  else if !aHeaderOk ha sparse m oa then .trap s .bounds xa 0
  else if !bHeaderOk hb ha.cols ob then .trap s .bounds xb 0
  else match (if sc then scaleBreach (s.myShare sh) m q ha hb else none) with
    | some n => .trap s .scaleSeq ((q.setWidth 64 <<< 32) ||| BitVec.ofNat 64 n) 0
    | none =>
      let x := s.myShare sh
      zAccept sh t (.mma { sparse := sparse, scaled := if sc then some q else none, fmt := tag, aCore := ca, aOff := oa,
                           bCore := cb, bOff := ob, k := ha.cols, n := ha.spn,
                           sa := if sc then x.aSlots[slotOf q] else {},
                           sb := if sc then x.bSlots[slotOf q] else {} }) s

/-- The effect of ZMMA and ZMMAS (R331, R343): the tile's checks and the header reads at issue; as these return, the checks on them, and
acceptance. -/
def mmaEff (sparse : Bool) (tag : Tag) (d a b : GReg) (t : Fin 4) (sc : Bool) : State → Eff :=
  zCheck (some t) fun sh s =>
    let m := s.myRows sh
    let pend := (s.myShare sh).pendingTag t
    let xa := s.cc.rdG a
    let xb := s.cc.rdG b
    if isPoison pend then .trap s .poison (0x100#64 + pend.setWidth 64) 0
    else if pend ≠ mxTile tag then .trap s .tagMismatch (0x100#64 + pend.setWidth 64) 0
    else match s.operandPlace xa, s.operandPlace xb with
      | .error (k, x), _ => .trap s k x 0
      | _, .error (k, x) => .trap s k x 0
      | .ok (ca, oa), .ok (cb, ob) => match s.cc.headsRead with
        | some (back, ha, hb) =>
          if s.cc.tmg.clk < back then .within s
          else mmaHeads sparse tag d t sc sh xa xb ca oa cb ob (opHeader (toBytes 16 ha)) (opHeader (toBytes 16 hb)) s
        | none =>
          if s.rangeHeld xa 16 then holdOn s xa 16
          else if s.rangeHeld xb 16 then holdOn s xb 16
          else if (s.myShare sh).storeCovers m ca oa || (s.myShare sh).storeCovers m cb ob then .stall s
          else readHeads xa xb ca oa cb ob s

def execZmma (h : Hdr) (tag : BitVec 8) (d a b : GReg) (t : Fin 4) (sc : Bool) (s : State) :
    Host.Outcome State Fault Refusal :=
  issueWord h 0 0 0 { srcs := [opG a, opG b, opG d] } (mmaEff false tag d a b t sc) s
def execZmmas (h : Hdr) (tag : BitVec 8) (d a b : GReg) (t : Fin 4) (sc : Bool) (s : State) :
    Host.Outcome State Fault Refusal :=
  issueWord h 0 0 0 { srcs := [opG a, opG b, opG d] } (mmaEff true tag d a b t sc) s

/-! ## Tiles in memory (R344) -/

/-- The rows of a tile at an address (R344): every check on the range. -/
def State.rowPlace (s : State) (m : Nat) (a : Word) (stride rowBytes : Nat) : Except (Cause × Word) RowPlace :=
  match s.checkLocal s.cur (!s.cc.regs.trap.sup) a ((m - 1) * stride + rowBytes) 1 with
  | .error k => .error (k, a)
  | .ok (.evu _) => .error (.bounds, a)
  | .ok p =>
    if a.toNat % 8 ≠ 0 ∨ stride % 8 ≠ 0 then .error (.align, a)
    else .ok (match p with
      | .spad _ c off => ⟨.spad c, off, stride⟩
      | .chip d off => ⟨.chip d, off, stride⟩
      | .evu _ => ⟨.va, 0, 0⟩)

def execZldc (h : Hdr) (i32 : Bool) (a : GReg) (t : Fin 4) (stride : BitVec 20) (s : State) :
    Host.Outcome State Fault Refusal :=
  issueWord h 0 0 0 { srcs := [opG a] } (zCheck (some t) fun sh s =>
    match s.rowPlace (s.myRows sh) (s.cc.rdG a) stride.toNat 1024 with
    | .error (k, x) => .trap s k x 0
    | .ok p => zQueue sh t (.ldc (if i32 then 0x0A#8 else 0x02#8) p) s) s

def execZstore (h : Hdr) (dt : BitVec 8) (a : GReg) (rm : BitVec 3) (t : Fin 4) (stride : BitVec 20) (s : State) :
    Host.Outcome State Fault Refusal :=
  issueWord h 0 0 0 { srcs := [opG a] } (zCheck (some t) fun sh s =>
    if (s.myShare sh).busy t then .point s
    else
      let tag := ((s.myShare sh).tiles[t]).tag
      let x := (0x100#64 : Word) + tag.setWidth 64
      if isPoison tag then .trap s .poison x 0
      else if !(tag == 0x02#8 && dt != 0x0A#8 || tag == 0x0A#8 && dt == 0x0A#8) then .trap s .tagMismatch x 0
      else match s.rowPlace (s.myRows sh) (s.cc.rdG a) stride.toNat (32 * tagWidth dt) with
        | .error (k, x) => .trap s k x 0
        | .ok p =>
          let fp := s.cc.regs.fp
          let mode := if rm ≠ 0 then rm else if fp.rmode = modeSR then modeRNE else fp.rmode
          zQueue sh t (.store dt p mode fp.ovt) s) s

/-! ## Reading rows (R345, R346) -/

/-- Chunk c of a row: 32 elements (R345). -/
def rowChunk (x : BitVec 8192) (c : Nat) : VData := x.extractLsb' (1024 * c) 1024

/-- DEDUCED (log 59). -/
def execZread (h : Hdr) (d : VReg) (a : GReg) (x : BitVec 2) (t : Fin 4) (c : BitVec 3) (s : State) :
    Host.Outcome State Fault Refusal :=
  issueWord h 0 0 0 { srcs := [opG a], dsts := groupNums d x } (noStream (groupNums d x) (zCheck (some t) fun sh s =>
    let r := (s.cc.rdG a).toNat
    let z := (s.myShare sh).tiles[t]
    if s.myRows sh ≤ r then .trap s .bounds (s.cc.rdG a) 0
    else if isPoison z.tag then .trap s .poison (BitVec.ofNat 64 (0x100 * r + t.val)) 0
    else if z.wm ≤ r then .point s
    else .done (s.setCc ((List.range (groupSize x)).foldl (fun k i =>
      k.slipResult (.v (groupReg d i) ⟨rowChunk (z.row r) (c.toNat + i), z.tag⟩)) s.cc)))) s

def execZwm (h : Hdr) (d : GReg) (t : Fin 4) (s : State) : Host.Outcome State Fault Refusal :=
  issueWord h 0 0 0 { dsts := [opG d] } (zCheck (some t) fun sh s =>
    zStatus s d (BitVec.ofNat 64 ((s.myShare sh).tiles[t]).wm)) s

def execZwait (h : Hdr) (a : GReg) (t : Fin 4) (imm : BitVec 32) (s : State) : Host.Outcome State Fault Refusal :=
  issueWord h 0 0 0 { srcs := [opG a] } (zCheck (some t) fun sh s =>
    if min (s.cc.rdG a + zextImm imm).toNat (s.myRows sh) ≤ ((s.myShare sh).tiles[t]).wm then .done s else .point s) s

/-! ## Scales and status (R347, R348) -/

def execZscl (h : Hdr) (a : GReg) (b : VReg) (sideB : Bool) (j : BitVec 5) (q : BitVec 2) (s : State) :
    Host.Outcome State Fault Refusal :=
  issueWord h 0 0 (opV b) { srcs := [opG a, opV b] } (noStream [opV b] (zCheck none fun sh s =>
    match s.cc.tagBreach [⟨3, b, isS10⟩] with
    | some (k, x) => .trap s k x 0
    | none =>
      let seq : BitVec 32 := (s.cc.rdG a).setWidth 32
      if (s.myShare sh).slotBusy seq then .stall s
      else .done (s.scaleWrite (clusterOf s.cur) sh sideB seq j.toNat q.toNat (s.cc.rdV b).bits))) s

def boolBit (b : Bool) (i : Nat) : Word := (BitVec.ofBool b).setWidth 64 <<< i

/-- ZSTAT.T of a tile (R348). -/
def State.tileWord (s : State) (x : Share) (t : Fin 4) : Word :=
  let z := x.tiles[t]
  let flag := fun i => z.flags.getLsbD i
  (z.tag.setWidth 64 <<< 56) ||| (match z.owner with
      | some n => (BitVec.ofNat 64 (s.lcn n) <<< 32) ||| boolBit true 31
      | none => 0) |||
    boolBit (x.busy t) 30 ||| boolBit (flag 4) 23 ||| boolBit (flag 2) 22 ||| boolBit (flag 1) 21 ||| boolBit (flag 0) 20 |||
    BitVec.ofNat 64 z.wm

/-- ZSTAT.F of a share (R348). -/
def ZFault.word (f : ZFault) : Word :=
  boolBit f.v 63 ||| (f.cause.setWidth 64 <<< 61) ||| boolBit f.more 60 ||| (BitVec.ofNat 64 f.tile.val <<< 58) |||
    (BitVec.ofNat 64 f.row <<< 50) ||| (BitVec.ofNat 64 f.lcn <<< 32) ||| BitVec.ofNat 64 f.group

def execZstatT (h : Hdr) (d : GReg) (t : Fin 4) (clr : Bool) (s : State) : Host.Outcome State Fault Refusal :=
  issueWord h 0 0 0 { dsts := [opG d] } (zCheck (if clr then some t else none) fun sh s =>
    let w := s.tileWord (s.myShare sh) t
    zStatus (if clr then s.onTile (clusterOf s.cur) sh t fun z => { z with flags := 0 } else s) d w) s

def execZstatF (h : Hdr) (d : GReg) (clr : Bool) (s : State) : Host.Outcome State Fault Refusal :=
  issueWord h 0 0 0 { dsts := [opG d] } (zCheck none fun sh s =>
    let w := (s.myShare sh).fault.word
    zStatus (if clr then s.onShare (clusterOf s.cur) sh fun x => { x with fault := {} } else s) d w) s

def execZstatS (h : Hdr) (d : GReg) (s : State) : Host.Outcome State Fault Refusal :=
  issueWord h 0 0 0 { dsts := [opG d] } (zCheck none fun sh s =>
    zStatus s d ((BitVec.ofNat 64 (s.myShare sh).waiting.length <<< 52) ||| (BitVec.ofNat 64 (s.myRows sh) <<< 32) |||
      boolBit (sh == 1) 8 ||| BitVec.ofNat 64 ((s.cluster (clusterOf s.cur)).shareBase sh))) s

end Sys2Proof.Machine
end

