-- ==== Sys2Proof/Machine/Engines.lean ====
section
/-! DEFINITION. Engine commands (R350 to R374): the scoreboard and retirement, the work of a command line by line, its
completion and failure, collectives and sparse sums, storage requests, and the events of the engines. -/
namespace Sys2Proof.Machine
open Sys2Proof

/-! ## Commands of a core (R355, R356, R358) -/

def State.onCore (s : State) (n : Nat) (f : Core → Core) : State := s.setCore n (f (s.core n))
/-- The command of a class and number, while it is in flight. -/
def State.cmd (s : State) (n : Nat) (cls : Fin 4) (seq : Nat) : Option Cmd :=
  (s.core n).eng.cmds.find? fun c => c.cls == cls && c.seq == seq
/-- Puts a command in flight back. -/
def State.putCmd (s : State) (n : Nat) (c : Cmd) : State :=
  s.onCore n fun k => { k with eng := { k.eng with
    cmds := k.eng.cmds.map fun d => if d.cls == c.cls && d.seq == c.seq then c else d } }
/-- RETSQ of a class (R356): every command up to it has finished. DEDUCED (log 79). -/
def Engines.retsq (e : Engines) (cls : Fin 4) : Nat :=
  match ((e.cmds.filter (·.cls == cls)).map (·.seq)).min? with
  | some q => q - 1
  | none => e.isq[cls]
/-- The largest logical time of the finished commands of a class up to a number (R381). -/
def Engines.doneTime (e : Engines) (cls : Fin 4) (upto : Nat) : Nat :=
  e.done.foldl (fun m d => if d.1 == cls && decide (d.2.1 ≤ upto) then max m d.2.2 else m) 0

/-- A pair of a sparse sum is bound for the table of a command of core n. -/
def SumPair.boundFor (p : SumPair) (n : Nat) (c : Cmd) : Bool :=
  p.ptag == c.ptag && p.core == n && p.cls == c.cls && p.seq == c.seq
/-- A command finishes (R356): it leaves its entry; the accesses that it held go on after it (R359). -/
def State.finishCmd (s : State) (n : Nat) (c : Cmd) : State :=
  { s with sumPairs := s.sumPairs.filter fun p => !p.boundFor n c }.onCore n fun k =>
    let held := k.eng.heldBy.contains (c.cls, c.seq)
    { k with
      lt := if held then max k.lt c.time else k.lt
      eng := { k.eng with
        cmds := k.eng.cmds.filter fun d => !(d.cls == c.cls && d.seq == c.seq)
        done := k.eng.done ++ [(c.cls, c.seq, c.time)]
        heldBy := k.eng.heldBy.filter (· != (c.cls, c.seq)) } }

/-- The path of a class in the order of R247. -/
def classPath (c : Fin 4) : Fin 8 := ([1, 3, 5, 6] : List (Fin 8)).getD c.val 1
/-- The PATH code of a class in a fault-buffer entry (R194). -/
def pathCode (c : Fin 4) : BitVec 3 := if c = 0 then 3 else if c = 1 then 4 else 5

/-- The agent of a command. -/
def Cmd.agent (c : Cmd) (n : Nat) : Agent :=
  { core := n, root := c.root, vsid := c.vsid, xlate := c.xlate, sup := c.sup, time := c.time }

/-- The event that takes a command on. -/
def Cmd.turn (c : Cmd) (n : Nat) : Instr :=
  match c.body with
  | .storage .. => .storageCompletion n c.seq false
  | .coll _ _ len _ gid _ op _ _ =>
    if c.formed || (op != 4 && len == 0) then .commandComplete n c.cls c.seq
    else .collectiveGeneration ((c.lid.map (·.2)).getD 0) ((c.lid.map (·.1)).getD 0) gid
  | _ => .commandComplete n c.cls c.seq

/-- The cores of a cluster. -/
def clusterCores (cl : Nat) : List Nat := (List.range 24).map (cl * 24 + ·)
/-- The commands that hold a copy engine of a cluster. -/
def State.enginesHeld (s : State) (cl : Nat) : Nat :=
  ((clusterCores cl).map fun n => ((s.core n).eng.cmds.filter (·.engine)).length).sum
/-- A command has an engine to run on: a cluster has two copy engines for the X commands of its cores (R10). -/
def State.hasEngine (s : State) (n : Nat) (c : Cmd) : Bool := c.cls != 0 || c.engine || decide (s.enginesHeld (clusterOf n) < 2)
/-- The X commands of a cluster that wait for an engine take their turns. -/
def State.engineFree (s : State) (cl : Nat) : State :=
  (clusterCores cl).foldl (fun (s : State) n =>
    ((s.core n).eng.cmds.filter fun c => c.cls == 0 && c.st == .started && !c.engine).foldl (fun (s : State) c => s.owe (c.turn n)) s) s
/-- A command that held an engine holds it no more. -/
def State.leftEngine (s : State) (n : Nat) (c : Cmd) : State := if c.engine then s.engineFree (clusterOf n) else s

/-- A command meets a stop (R191, R197, R367), with the state that its accesses up to then have left. -/
def State.stopCmd (s : State) (n : Nat) (c : Cmd) (e : AStop) : Host.Outcome State Fault Refusal :=
  let t := (e.split s).1
  let stop := fun (x : CmdState) => (t.putCmd n { c with st := x, engine := false }).leftEngine n c
  match e with
  | .fail k x | .failAt _ k x => .next ((stop (.failing k x)).owe (.commandFail n c.cls c.seq))
  | .park va m level =>
    .next ((stop (.parked va)).parkAgent (c.agent n) c.ptag (pathCode c.cls) va m level (.cmd c.ptag n c.cls c.seq))
  | .double va => .next ((stop .stopped).faultOnFault n va)
  | .noMemory pa => .fault (.noPhysicalMemory pa)

/-! ## The work of a command (R362 to R366) -/

/-- The offsets of run r of a copy: dimension 1 fastest (R363). The list holds the dimensions from 1 on. -/
def runOffsets : List (Nat × BitVec 32 × BitVec 32) → Nat → Word × Word
  | [], _ => (0, 0)
  | (n, ss, ds) :: rest, r =>
    let i := BitVec.ofNat 64 (r % n)
    let q := runOffsets rest (r / n)
    (i * sextImm ss + q.1, i * sextImm ds + q.2)

/-- The bytes of a copy. -/
def copyBytesOf (dims : List (Nat × BitVec 32 × BitVec 32)) : Nat := dims.foldl (fun x d => x * d.1) 1

/-- The place of a byte inside the source range of a command, where it is in that range (R363). -/
def State.sourceKey (s : State) (n : Nat) (c : Cmd) (a : Word) : Option Nat :=
  match c.src, s.rangeOf n a 1 with
  | some r, some x => if r.meets x then some x.lo else none
  | _, _ => none

/-- Reads a piece of the source: a byte that the command has overwritten reads as it was before or as it is now (R363,
log 14). -/
def State.readPiece (s : State) (n : Nat) (c : Cmd) (a : Word) (len : Nat) : Except AStop (State × Cmd × List Byte) :=
  match s.agentBytes (c.agent n) a len with
  | .error e => .error e
  | .ok (s, g, bs) =>
    let bs := if c.before.isEmpty then bs else
      (List.range len).map fun i =>
        match (s.sourceKey n c (a + BitVec.ofNat 64 i)).bind fun k => c.before.find? (·.1 == k) with
        | some (k, old) => if Config.raceNew s.draws k then bs.getD i 0 else old
        | none => bs.getD i 0
    .ok ({ s with draws := s.draws + 1 }, { c with time := g.time }, bs)

/-- Writes a piece of the destination, noting bytes of the source range as they were. -/
def State.writePiece (s : State) (n : Nat) (c : Cmd) (a : Word) (bs : List Byte) : Except AStop (State × Cmd) :=
  let old := (List.range bs.length).filterMap fun i =>
    let x := a + BitVec.ofNat 64 i
    (s.sourceKey n c x).bind fun k =>
      if c.before.any (·.1 == k) then none else some (k, s.peekByte (c.agent n) x)
  match s.agentStore (c.agent n) a bs with
  | .error e => .error e
  | .ok (s, g) => .ok (s, { c with time := g.time, before := old ++ c.before })

/-- One piece of a copy of bytes: read, then written. -/
def State.movePiece (s : State) (n : Nat) (c : Cmd) (srcBase src dstBase dst : Word) (len : Nat) :
    Except AStop (State × Cmd) :=
  if leaves srcBase src then .error (.fail .bounds src)
  else if leaves dstBase dst then .error (.fail .bounds dst)
  else match s.readPiece n c src len with
    | .error e => .error e
    | .ok (s, c, bs) => match s.writePiece n c dst bs with
      | .error e => .error (e.behind s)
      | .ok (s, c) => .ok (s, { c with prog := c.prog + len })

/-- The bytes of a line from a destination address on. -/
def toLine (a : Word) (left : Nat) : Nat := min left (128 - a.toNat % 128)

/-- How a command's work goes on: done in part, waiting, or stopped. -/
inductive Adv where
  | go (s : State) (c : Cmd)
  | wait (s : State) (c : Cmd)
  | stop (s : State) (c : Cmd) (e : AStop)

/-- The rows of the matrix of a conversion, read whole before the tile is written (R364). -/
def State.readRows (s : State) (n : Nat) (c : Cmd) (srca : Word) (rowBytes : Nat) (stride : BitVec 32) :
    Nat → Nat → Except AStop (State × Cmd × List Byte)
  | 0, _ => .ok (s, c, [])
  | left + 1, i =>
    let a := srca + BitVec.ofNat 64 i * sextImm stride
    if leaves srca a then .error (.fail .bounds a)
    else match s.readPiece n c a rowBytes with
      | .error e => .error e
      | .ok (s, c, bs) => match State.readRows s n c srca rowBytes stride left (i + 1) with
        | .error e => .error (e.behind s)
        | .ok (s, c, rest) => .ok (s, c, bs ++ rest)

/-- Element k of row i of a row-major matrix (R364, R65). -/
def matElem (bs : Array Byte) (rowBytes wb i k : Nat) : Nat :=
  if wb = 4 then ((bs.getD (i * rowBytes + k / 2) 0).toNat >>> (4 * (k % 2))) % 16
  else (ofBytes 32 ((List.range (wb / 8)).map fun j => bs.getD (i * rowBytes + k * (wb / 8) + j) 0)).toNat

/-- The tile that a conversion writes: its data and its header (R364). -/
def convTile (conv : Nat) (dims : List (Nat × BitVec 32 × BitVec 32)) (tfmt : Tag) (seq : BitVec 32) (bs : List Byte) :
    List Byte :=
  let wb := tagWidth tfmt
  let n0 := ((dims.map (·.1)).getD 0 0)
  let n1 := ((dims.map (·.1)).getD 1 0)
  if conv = 1 then
    let k := 8 * n0 / wb
    aPlanes n1 wb k (matElem bs.toArray n0 wb) ++ headerBytes tfmt 0 n1 k seq
  else bs ++ headerBytes tfmt 2 n1 256 seq

/-- The scale writes of a copy: blocks and quarters (R365). -/
def scaleQuarters (conv : Nat) (dims : List (Nat × BitVec 32 × BitVec 32)) : Nat :=
  if conv = 1 then (((dims.map (·.1)).getD 1 0) + 63) / 64 else 4
def convK (conv : Nat) (dims : List (Nat × BitVec 32 × BitVec 32)) (tfmt : Tag) : Nat :=
  if conv = 1 then 8 * ((dims.map (·.1)).getD 0 0) / tagWidth tfmt else (dims.map (·.1)).getD 1 0
def convTotal (conv : Nat) (dims : List (Nat × BitVec 32 × BitVec 32)) (tfmt : Tag) : Nat :=
  if conv = 1 then aTileBytes ((dims.map (·.1)).getD 1 0) (tagWidth tfmt) (convK conv dims tfmt) 0
  else bTileBytes (tagWidth tfmt) (convK conv dims tfmt)
def scaleCount (conv : Nat) (sce : Bool) (dims : List (Nat × BitVec 32 × BitVec 32)) (tfmt : Tag) : Nat :=
  if sce then convK conv dims tfmt / 32 * scaleQuarters conv dims else 0

/-- The next piece of a tile that a conversion writes: data first, then the header (R364). DEDUCED (log 72). -/
def State.tilePiece (s : State) (n : Nat) (c : Cmd) (dsta : Word) : Except AStop (State × Cmd) :=
  let body := c.out.length - 16
  let p := c.prog
  let a := if p < body then dsta + BitVec.ofNat 64 (16 + p) else dsta + BitVec.ofNat 64 (p - body)
  let len := if p < body then toLine a (body - p) else 16 - (p - body)
  if leaves dsta a then .error (.fail .bounds a)
  else match s.writePiece n c a ((c.out.drop p).take len) with
    | .error e => .error e
    | .ok (s, c) => .ok (s, { c with prog := p + len })

/-- One scale write of a copy (R365); with no share of the command's tag nothing is written (log 17). -/
def State.scalePiece (s : State) (n : Nat) (c : Cmd) (conv : Nat) (seq : BitVec 32) (sca : Word) (quarters k : Nat) : Adv :=
  let cl := clusterOf n
  match (s.cluster cl).shareOf c.ptag with
  | none => .go s { c with prog := c.prog + 1 }
  | some sh =>
    if ((s.cluster cl).share sh).slotBusy seq then .wait s c
    else
      let a := sca + BitVec.ofNat 64 (512 * (k / quarters) + 128 * (k % quarters))
      if leaves sca a then .stop s c (.fail .bounds a)
      else match s.agentBytes (c.agent n) a 128 with
        | .error e => .stop s c e
        | .ok (s, g, bs) =>
          .go (s.scaleWrite cl sh (conv == 2) seq (k / quarters) (k % quarters) (ofBytes 1024 bs))
            { c with time := g.time, prog := c.prog + 1 }

/-- The rows of a gather or scatter (R366): one piece, or a skipped row. -/
def State.rowPiece (s : State) (n : Nat) (c : Cmd) (scatter : Bool) (tbl lst idxa : Word) (rowb tstr nrows : Nat) :
    Except AStop (State × Cmd) :=
  let r := c.prog / rowb
  let o := c.prog % rowb
  let idx : Except AStop (State × Cmd × Nat) :=
    match (if o = 0 then none else c.row) with
    | some x => .ok (s, c, x)
    | none =>
      let a := idxa + BitVec.ofNat 64 (4 * r)
      if leaves idxa a then .error (.fail .bounds a)
      else match s.agentBytes (c.agent n) a 4 with
        | .error e => .error e
        | .ok (s, g, bs) => .ok (s, { c with time := g.time }, (ofBytes 32 bs).toNat)
  match idx with
  | .error e => .error e
  | .ok (s, c, x) =>
    if nrows ≤ x then
      .ok (s, { c with prog := (r + 1) * rowb, row := none, dropped := some (c.dropped.getD (BitVec.ofNat 64 r)) })
    else
      let t := tbl + BitVec.ofNat 64 (x * tstr + o)
      let k := lst + BitVec.ofNat 64 (r * rowb + o)
      let len := toLine (if scatter then t else k) (rowb - o)
      let c := { c with row := some x }
      if scatter then s.movePiece n c lst k tbl t len else s.movePiece n c tbl t lst k len

/-- The byte of a fill's pattern (R366). -/
def fillBytes (pat : Word) (esz p len : Nat) : List Byte :=
  (List.range len).map fun i => pat.extractLsb' (8 * ((p + i) % 2 ^ esz)) 8

/-- A step's answer. -/
def Adv.of (s : State) (c : Cmd) : Except AStop (State × Cmd) → Adv
  | .ok (s, c) => .go s c
  | .error e => .stop s c e

/-- Every pair bound for a command's table has been added (R371). -/
def State.sumDone (s : State) (n : Nat) (c : Cmd) : Bool :=
  !s.sumPairs.any fun p => p.boundFor n c

/-- The data of a command is done: step 1 of R360. -/
def State.dataDone (s : State) (n : Nat) (c : Cmd) : Bool :=
  match c.body with
  | .copy _ _ dims 0 _ _ _ _ => decide (copyBytesOf dims ≤ c.prog)
  | .copy _ _ dims conv sce tfmt _ _ =>
    decide (copyBytesOf dims = 0) || decide (convTotal conv dims tfmt + scaleCount conv sce dims tfmt ≤ c.prog)
  | .rows _ _ _ _ rowb nidx _ _ => decide (rowb * nidx ≤ c.prog)
  | .fill _ len _ _ => decide (len ≤ c.prog)
  | .coll _ _ len _ _ _ op _ _ =>
    (op != 4 && decide (len = 0)) || (c.formed && decide (c.out.length ≤ c.prog) && s.sumDone n c)
  | .send _ len _ _ => decide (len ≤ c.prog)
  | .storage .. => false

/-- The virtual device of a command: that of its partition. -/
def State.cmdVd (s : State) (c : Cmd) : Nat := (s.part c.ptag.toNat).vdev.toNat

/-- A send names an endpoint that its virtual device does not own (R374). -/
def State.ephDenied (s : State) (c : Cmd) : Bool :=
  match c.body with
  | .send _ _ eph _ => decide (256 ≤ eph.toNat) || !((Tab.get 0 (s.vd (s.cmdVd c)).endpoints eph.toNat).getLsbD 0)
  | _ => false

/-- One 128-byte line of a command, or one scale write. -/
def State.advance (s : State) (n : Nat) (c : Cmd) : Adv :=
  match c.body with
  | .copy srca dsta dims 0 _ _ _ _ =>
    let n0 := (dims.map (·.1)).getD 0 1
    let q := runOffsets (dims.drop 1) (c.prog / n0)
    let b := BitVec.ofNat 64 (c.prog % n0)
    let dst := dsta + q.2 + b
    .of s c (s.movePiece n c srca (srca + q.1 + b) dsta dst (toLine dst (n0 - c.prog % n0)))
  | .copy srca dsta dims conv _ tfmt seq sca =>
    let total := convTotal conv dims tfmt
    if c.out.isEmpty then
      match s.readRows n c srca ((dims.map (·.1)).getD 0 0) ((dims.map (·.2.1)).getD 1 0) ((dims.map (·.1)).getD 1 0) 0 with
      | .error e => .stop s c e
      | .ok (s, c, bs) => .go s { c with out := convTile conv dims tfmt seq bs }
    else if c.prog < total then .of s c (s.tilePiece n c dsta)
    else s.scalePiece n c conv seq sca (scaleQuarters conv dims) (c.prog - total)
  | .rows scatter tbl lst idxa rowb _ tstr nrows => .of s c (s.rowPiece n c scatter tbl lst idxa rowb tstr nrows)
  | .fill dsta len esz pat =>
    let a := dsta + BitVec.ofNat 64 c.prog
    let k := toLine a (len - c.prog)
    if leaves dsta a then .stop s c (.fail .bounds a)
    else match s.writePiece n c a (fillBytes pat esz c.prog k) with
      | .error e => .stop s c e
      | .ok (s, c) => .go s { c with prog := c.prog + k }
  | .coll _ dsta .. =>
    if !c.formed || decide (c.out.length ≤ c.prog) then .wait s c
    else
      let a := dsta + BitVec.ofNat 64 c.prog
      let k := toLine a (c.out.length - c.prog)
      if leaves dsta a then .stop s c (.fail .bounds a)
      else match s.writePiece n c a ((c.out.drop c.prog).take k) with
        | .error e => .stop s c e
        | .ok (s, c) => .go s { c with prog := c.prog + k }
  | .send srca len eph _ =>
    let a := srca + BitVec.ofNat 64 c.prog
    let k := toLine a (len - c.prog)
    if s.ephDenied c then .stop s c (.fail .bounds (eph.setWidth 64))
    else if leaves srca a then .stop s c (.fail .bounds a)
    else match s.readPiece n c a k with
      | .error e => .stop s c e
      | .ok (s, c, bs) => .go s { c with prog := c.prog + k, out := c.out ++ bs }
  | .storage .. => .wait s c

/-- The port takes the message of a send, once, as step 1 of its completion (R360, R374). -/
def State.handOver (s : State) (c : Cmd) : State × Cmd :=
  match c.body with
  | .send _ _ eph immd =>
    if c.formed then (s, c) else (s.report (.netSend (s.cmdVd c) eph.toNat immd c.out), { c with formed := true })
  | _ => (s, c)

/-- Steps 3 and 4 of R360: the event and the pulse; then the command finishes. -/
def State.signalCmd (s : State) (n : Nat) (c : Cmd) : State :=
  let cl := clusterOf n
  let m : EvMsg := { cl := cl, dst := n, line := c.hdr.line, count := 1, tag := c.ptag, sup := c.sup, time := c.time + 1 }
  let s := if !c.hdr.evl then s
    else if c.cls = 0 then s.owe (.eventMessage m) else s.send n n c.sup (.eventMessage m)
  let s := if c.hdr.pul then s.pulse cl (s.clk + 2) (.command c.hdr.ctr c.ptag c.sup) else s
  (s.finishCmd n c).leftEngine n c

/-- Step 2 of R360: the completion write; then steps 3 and 4. -/
def State.writeDone (s : State) (n : Nat) (c : Cmd) : Host.Outcome State Fault Refusal :=
  let w : Except AStop (State × Agent) :=
    if c.hdr.cw then s.agentStore (c.agent n) c.hdr.cwa (toBytes 8 c.hdr.cwv) else .ok (s, c.agent n)
  match w with
  | .error e => s.stopCmd n c e
  | .ok (s, g) => .next (s.signalCmd n { c with time := g.time })

/-- Steps 2 to 4 of R360, after the data: the completion write, then the signals. A row that was skipped or a pair that was dropped
fails the command instead (R366, R371), and so does an endpoint that is not its own (R374). -/
def State.completeCmd (s : State) (n : Nat) (c : Cmd) : Host.Outcome State Fault Refusal :=
  match c.dropped, c.body with
  | some x, _ => s.stopCmd n c (.fail .bounds x)
  | none, .send _ _ eph _ =>
    if s.ephDenied c then s.stopCmd n c (.fail .bounds (eph.setWidth 64)) else (s.handOver c).1.writeDone n (s.handOver c).2
  | none, _ => s.writeDone n c

/-- A step of a command's work is counted, where it moves a line of a copy engine (R482). DEDUCED (log 113). -/
def State.countLine (s : State) (n : Nat) (before after : Cmd) : State :=
  if after.cls = 0 ∧ before.prog ≠ after.prog then s.onCore n Core.countLine else s

/-- Takes a command on until it completes, waits or stops; `fuel` bounds its lines. -/
def State.runCmd (n : Nat) : Nat → Cmd → State → Host.Outcome State Fault Refusal
  | 0, c, s => .next (s.putCmd n c)
  | fuel + 1, c, s =>
    if s.dataDone n c then s.completeCmd n c
    else match s.advance n c with
      | .go s c' => State.runCmd n fuel c' (s.countLine n c c')
      | .wait s c => .next (s.putCmd n { c with engine := c.cls == 0 })
      | .stop s c e => s.stopCmd n c e

/-- A bound on the steps of a command's work. -/
def Cmd.work (c : Cmd) : Nat :=
  match c.body with
  | .copy _ _ dims 0 _ _ _ _ => copyBytesOf dims
  | .copy _ _ dims conv sce tfmt _ _ => convTotal conv dims tfmt + scaleCount conv sce dims tfmt + 1
  | .rows _ _ _ _ rowb nidx _ _ => rowb * nidx
  | .fill _ len _ _ => len
  | .coll .. => c.out.length
  | .send _ len _ _ => len
  | .storage .. => 0

/-- COMMAND_COMPLETE (R360): the engine performs the command's data writes, then its completion steps; it stops where it must
wait, park or fail. An X command takes one of its cluster's two copy engines, and keeps it while it waits at a scale slot (R10, R365). -/
def execCommandComplete (core : Nat) (cls : Fin 4) (seq : Nat) (s : State) : Host.Outcome State Fault Refusal :=
  match s.cmd core cls seq with
  | none => .next s
  | some c => if c.st = .started ∧ s.hasEngine core c = true then State.runCmd core (c.work + 2 - c.prog) c s else .next s

/-- COMMAND_FAIL (R367, R368): the first failure of a class is recorded, later ones set MORE; an uncorrectable word is a
detected error too. -/
def execCommandFail (core : Nat) (cls : Fin 4) (seq : Nat) (s : State) : Host.Outcome State Fault Refusal :=
  match s.cmd core cls seq with
  | none => .next s
  | some c => match c.st with
    | .failing k x =>
      let s := s.onCore core fun c => { c with eng := { c.eng with
        efault := c.eng.efault.set cls
          (if c.eng.efault[cls].v then { c.eng.efault[cls] with more := true }
           else { v := true, more := false, cause := k.code.setWidth 6, seq := BitVec.ofNat 48 seq, val := x, clk := s.clk,
                   wid := (c.task.map (·.wid)).getD 0 }) } }
      let s := if k = .poison then s.postError 3 c.ptag core else s
      .next (s.finishCmd core c)
    | _ => .next s

/-! ## Collectives and sparse sums (R369 to R371) -/

/-- One step of a reduction (R370): wrapping integer sums, sums rounded in RNE, minima and maxima. -/
def redStep (f : Fmt) (red x y : Nat) : Nat :=
  if f.kind = .int then
    (if red = 0 then (x + y) % 2 ^ f.width
     else if (if red = 1 then decide (intOf f x ≤ intOf f y) else decide (intOf f y ≤ intOf f x)) then x else y)
  else if red = 0 then
    (match (f.value x).add false (f.value y) with
      | .nan _ => f.nan
      | v => (roundWith f 1 modeRNE 0 v).1)
  else (fminmax f (red == 2) x y).1

/-- The elements of a run of bytes. -/
def elemsOf (w : Nat) (bs : List Byte) : List Nat :=
  (List.range (bs.length / (w / 8))).map fun i => (ofBytes 64 ((bs.drop (i * (w / 8))).take (w / 8))).toNat
def bytesOfElems (w : Nat) (xs : List Nat) : List Byte := xs.flatMap fun x => toBytes (w / 8) (BitVec.ofNat 64 x)

/-- The reduction of sources in rank order, folded left (R370). -/
def reduceAll (f : Fmt) (red : Nat) : List (List Byte) → List Byte
  | [] => []
  | x :: xs => bytesOfElems f.width (xs.foldl (fun acc y =>
      (acc.zip (elemsOf f.width y)).map fun p => redStep f red p.1 p.2) (elemsOf f.width x))

/-- A command of a collective with the core that issued it. -/
abbrev Member := Nat × Cmd

/-- A command waits at an access that has parked. -/
def Cmd.parked (c : Cmd) : Bool := match c.st with
  | .parked _ => true
  | _ => false

/-- The fields of a collective's body. -/
structure CollArgs where
  srca : Word
  dsta : Word
  len : Nat
  trows : Nat
  p : Nat
  op : Nat
  red : Nat
  dfmt : Tag
  deriving DecidableEq

def Cmd.coll (c : Cmd) : Option (BitVec 32 × CollArgs) :=
  match c.body with
  | .coll a b len t gid p op red f => some (gid, ⟨a, b, len, t, p, op, red, f⟩)
  | _ => none

/-- A command that is to form a generation of a group of a launch (R369): it has started, and may be parked at its source; one of no
bytes takes part in none (R357). -/
def Cmd.forming (launch : Nat × Nat) (gid : BitVec 32) (c : Cmd) : Bool :=
  (c.st == .started || c.parked) && !c.formed && c.lid == some launch && (match c.coll with
    | some (g, a) => g == gid && (a.op == 4 || a.len != 0)
    | none => false)
/-- The commands of a launch that name a group and have not formed a generation, in the order of acceptance. -/
def State.collPending (s : State) (launch : Nat × Nat) (gid : BitVec 32) : List Member :=
  let all := s.cores.flatMap fun e => (e.2.eng.cmds.filter (Cmd.forming launch gid)).map fun c => (e.1, c)
  all.mergeSort fun x y => decide (x.2.order ≤ y.2.order)

/-- Bytes of a member's source (R370, R371). -/
def CollArgs.srcBytes (a : CollArgs) : Nat := if a.op = 3 then a.p * a.len else if a.op = 4 then 16 * a.len else a.len

/-- Reads every member's source in rank order; a member that cannot be read stops alone. -/
def readMembers : List Member → State → Except (State × Member × AStop) (State × List (Member × List Byte))
  | [], s => .ok (s, [])
  | (n, c) :: ms, s =>
    match c.coll with
    | none => readMembers ms s
    | some (_, a) => match s.agentBytes (c.agent n) a.srca a.srcBytes with
      | .error e => .error (s, (n, c), e)
      | .ok (s, g, bs) => match readMembers ms s with
        | .error e => .error e
        | .ok (s, xs) => .ok (s, ((n, { c with time := g.time }), bs) :: xs)

/-- The pairs of a sparse sum's source (R371). -/
def pairsOf (bs : List Byte) : List (Nat × Word) :=
  (List.range (bs.length / 16)).map fun i =>
    ((ofBytes 64 ((bs.drop (16 * i)).take 8)).toNat, ofBytes 64 ((bs.drop (16 * i + 8)).take 8))

/-- What each member of a formed generation receives: its destination's bytes (R370). -/
def CollArgs.result (a : CollArgs) (rank : Nat) (xs : List (List Byte)) : List Byte :=
  let f := fmtOf a.dfmt
  if a.op = 1 then reduceAll f a.red xs
  else if a.op = 2 then xs.flatten
  else if a.op = 3 then reduceAll f a.red (xs.map fun x => (x.drop (rank * a.len)).take a.len)
  else []

/-- A generation forms (R369 to R371): every member's result, or its pairs, go on their way. DEDUCED (log 73). -/
def State.formGeneration (s : State) (a : CollArgs) (ms : List (Member × List Byte)) : State :=
  let time := ms.foldl (fun t m => max t m.1.2.time) 0
  let xs := ms.map (·.2)
  let trowsOf := fun (c : Cmd) => match c.coll with
    | some (_, b) => b.trows
    | none => 0
  let s := (ms.zipIdx).foldl (fun (s : State) (e : (Member × List Byte) × Nat) =>
    let n := e.1.1.1
    let c := e.1.1.2
    let bad := if a.op = 4 then ((pairsOf e.1.2).find? fun (p : Nat × Word) => decide (trowsOf c ≤ p.1)).map fun (p : Nat × Word) => BitVec.ofNat 64 p.1 else none
    s.putCmd n { c with formed := true, time := time, out := a.result e.2 xs, dropped := bad }) s
  let s := if a.op = 4 then
      let pairs := ms.flatMap fun d => ms.flatMap fun m =>
        ((pairsOf m.2).filter fun p => decide (p.1 < trowsOf m.1.2) && decide (p.1 < trowsOf d.1.2)).map fun p =>
          (⟨d.1.2.ptag, d.1.1, d.1.2.cls, d.1.2.seq, p.1, p.2⟩ : SumPair)
      (List.range pairs.length).foldl (fun s _ => s.owe (.spsumPairAdd 0)) { s with sumPairs := s.sumPairs ++ pairs }
    else s
  ms.foldl (fun s m => s.owe (.commandComplete m.1.1 m.1.2.cls m.1.2.seq)) s

/-- The first P commands of a launch that name a group form a generation (R369, R370), once none of them is parked. -/
def State.tryGeneration (s : State) (launch : Nat × Nat) (gid : BitVec 32) : Host.Outcome State Fault Refusal :=
  match s.collPending launch gid with
  | [] => .next s
  | first :: rest => match first.2.coll with
    | none => .next s
    | some (_, a) =>
      let ms := (first :: rest).take a.p
      if ms.length < a.p || ms.any fun m => m.2.parked then .next s
      else if ms.any fun m => match m.2.coll with
          | some (_, b) => !(b.op == a.op && b.red == a.red && b.dfmt == a.dfmt && b.len == a.len && b.p == a.p)
          | none => true then
        .next (ms.foldl (fun s m => (s.putCmd m.1 { m.2 with st := .failing .bounds (gid.setWidth 64) }).owe
          (.commandFail m.1 m.2.cls m.2.seq)) s)
      else
        let ranked := ms.mergeSort fun x y => decide (s.lcn x.1 ≤ s.lcn y.1)
        match readMembers ranked s with
        | .error (s, m, e) => s.stopCmd m.1 m.2 e
        | .ok (s, xs) => .next (s.formGeneration a xs)

/-- The sum of two pairs' values or of a pair and an entry, rounded once in RNE (R371). -/
def sumVal (f : Fmt) (x y : Word) : Word :=
  let m := fun (w : Word) => w.toNat % 2 ^ f.width
  BitVec.ofNat 64 (redStep f 0 (m x) (m y))

/-- The command whose table a pair is bound for, while it takes pairs. -/
def State.pairCmd (s : State) (p : SumPair) : Option Cmd :=
  (s.cmd p.core p.cls p.seq).filter fun c => c.ptag == p.ptag && c.st == .started

/-- The twin of a pair on its way: another for the same entry, with its place among those behind. -/
def SumPair.twin (p : SumPair) (rest : List SumPair) : Option (Nat × SumPair) :=
  let same := fun (q : SumPair) => { q with val := p.val } == p
  (rest.findIdx? same).bind fun t => rest[t]?.map fun q => (t, q)

/-- Adds one pair whose command takes pairs: merged into another pair of its entry on the way, or into the table at its home (R371);
the choice is the merge network's (log 13). The event of a pair whose command waits at a parked access is owed again as the access is
replayed. -/
def State.addPair (s : State) (i : Nat) : Host.Outcome State Fault Refusal :=
  let ready := (List.range s.sumPairs.length).filter fun j => (s.sumPairs[j]?.bind s.pairCmd).isSome
  match ready[(i + Config.mergePick s.draws ready.length) % ready.length]? with
  | none => .next s
  | some j =>
    match s.sumPairs[j]?, s.sumPairs[j]?.bind s.pairCmd with
    | some p, some c => match c.coll with
      | none => .next s
      | some (_, a) =>
        let f := fmtOf a.dfmt
        let rest := s.sumPairs.eraseIdx j
        let merge := decide (Config.mergePick (s.draws + 1) 2 = 1)
        let s := { s with draws := s.draws + 2 }
        match (if merge then p.twin rest else none) with
        | some (t, q) => .next { s with sumPairs := rest.set t { q with val := sumVal f q.val p.val } }
        | none =>
          let w := f.width / 8
          let at_ := a.dsta + BitVec.ofNat 64 (p.idx * w)
          if leaves a.dsta at_ then s.stopCmd p.core c (.fail .bounds at_)
          else match s.agentBytes (c.agent p.core) at_ w with
          | .error e => s.stopCmd p.core c e
          | .ok (s1, g, bs) =>
            match s1.agentStore g at_ (toBytes w (sumVal f (ofBytes 64 bs) p.val)) with
            | .error e => s1.stopCmd p.core c e
            | .ok (s2, g) =>
              .next (({ s2 with sumPairs := rest }.putCmd p.core { c with time := g.time }).owe
                (.commandComplete p.core p.cls p.seq))
    | _, _ => .next s

/-- A parked command is issued again (R195): it takes its turn, and so do the pairs that are bound for its table. -/
def State.reissueCmd (s : State) (n : Nat) (c : Cmd) : State :=
  (s.sumPairs.filter fun p => p.boundFor n c).foldl (fun (s : State) _ => s.owe (.spsumPairAdd 0))
    ((s.putCmd n { c with st := .started }).owe (c.turn n))

/-! ## Storage (R372, R373, R523) -/

/-- The fields of a ring entry. -/
structure StorageReq where
  opc : Nat
  tag : BitVec 32
  lba : Nat
  nblk : Nat
  buf : Word
  cpla : Word
  ok : Bool

/-- A ring entry (R372): a field outside its values makes it malformed. -/
def storageReq (x : BitVec 512) : StorageReq :=
  let opc := (x.extractLsb' 0 8).toNat
  let nblk := (x.extractLsb' 128 32).toNat
  let buf : Word := x.extractLsb' 192 64
  { opc := opc, tag := x.extractLsb' 32 32, lba := (x.extractLsb' 64 64).toNat, nblk := nblk, buf := buf,
    cpla := x.extractLsb' 256 64,
    ok := decide (1 ≤ opc) && decide (opc ≤ 4) && x.extractLsb' 9 7 == 0 && x.extractLsb' 16 16 == 0 &&
      x.extractLsb' 160 32 == 0 && x.extractLsb' 320 192 == 0 && x.extractLsb' 256 4 == 0 &&
      (if opc == 3 then nblk == 0 else decide (1 ≤ nblk) && decide (nblk ≤ 1024)) &&
      (if opc ≤ 2 then buf.extractLsb' 0 7 == 0 && buf.extractLsb' 56 8 == 0 else true) }

/-- The completion's 16 bytes (R372). -/
def storageDone (r : StorageReq) (status blocks : Nat) : List Byte :=
  toBytes 4 r.tag ++ toBytes 2 (BitVec.ofNat 16 status) ++ [0, 0] ++ toBytes 8 (BitVec.ofNat 64 blocks)

/-- The STATUS that an error of an entry's BUF gives (R372): 3 for ACCESS; no rule gives the others a code, and theirs is free. An
uncorrectable word is a detected error too (R367). DESIGN CHOICE (log 172). -/
def State.bufStatus (s : State) (n : Nat) (c : Cmd) (k : Cause) : State × Nat :=
  if k = .access then (s, 3)
  else
    let s' := if k = .poison then s.postError 3 c.ptag n else s
    ({ s' with draws := s'.draws + 1 }, (Config.freeWord s'.draws).toNat % 65536)

/-- The effect of a request on flash and memory: STATUS and the blocks transferred, or a stop. A trimmed block reads as
an unwritten one (log 18). -/
def State.storageWork (s : State) (n : Nat) (c : Cmd) (r : StorageReq) (media : Bool) :
    Except AStop (State × Agent × Nat × Nat) :=
  let v := s.vd (s.cmdVd c)
  let g := c.agent n
  let at_ := (v.first + r.lba) * 4096
  let len := r.nblk * 4096
  let bad := fun (e : AStop) => match (e.split s).2 with
    | .fail k _ =>
      let q := (e.split s).1.bufStatus n c k
      Except.ok (q.1, g, q.2, 0)
    | e => .error e
  if !r.ok then .ok (s, g, 4, 0)
  else if r.opc ≠ 3 ∧ v.count < r.lba + r.nblk then .ok (s, g, 2, 0)
  else if media then .ok (s, g, 1, 0)
  else if r.opc = 1 then
    match s.agentStore g r.buf (s.flash.bytes at_ len) with
    | .ok (s, g) => .ok (s, g, 0, r.nblk)
    | .error e => bad e
  else if r.opc = 2 then
    match s.agentBytes g r.buf len with
    | .ok (s, g, bs) => .ok ({ s with flash := s.flash.setBytes at_ bs }, g, 0, r.nblk)
    | .error e => bad e
  else if r.opc = 4 then
    .ok ({ s with flash := s.flash.setBytes at_ (List.replicate len Config.fillByte) }, g, 0, r.nblk)
  else .ok (s, g, 0, 0)

/-- The scoreboard ranges of a request (R358): the buffer of a write is read, that of a read is written. -/
def StorageReq.ranges (r : StorageReq) : Option Range × Option Range :=
  let x : Range := ⟨.va, r.buf.toNat, r.buf.toNat + 4096 * r.nblk⟩
  if !r.ok then (none, none) else if r.opc = 2 then (some x, none) else if r.opc = 1 then (none, some x) else (none, none)

/-- The ring's HEAD moves past an entry. -/
def State.ringRead (s : State) (v r i : Nat) : State :=
  s.onVd v fun d =>
    let ring := Tab.get {} d.rings r
    { d with rings := Tab.set d.rings r { ring with head := (i + 1) % 2 ^ ring.log } }

/-- Reads the ring entry of a request (R373); the ring's HEAD moves past it. -/
def State.readEntry (s : State) (n : Nat) (c : Cmd) (v r i : Nat) : Except AStop State :=
  match s.agentBytes (c.agent n) (BitVec.ofNat 64 ((Tab.get {} (s.vd v).rings r).base.toNat + 64 * i)) 64 with
  | .error e => .error e
  | .ok (s, g, bs) =>
    let x : BitVec 512 := ofBytes 512 bs
    let q := (storageReq x).ranges
    .ok ((s.ringRead v r i).putCmd n { c with body := .storage v r i (some x), src := q.1, dst := q.2, time := g.time })

/-- A request whose entry is not read yet: its ring and its place. -/
def Cmd.unread (c : Cmd) : Option (Nat × Nat × Nat) :=
  match c.body, c.st with
  | .storage v r i none, .started | .storage v r i none, .parked _ => some (v, r, i)
  | _, _ => none

/-- The oldest request of a ring whose entry is not read yet, with its core; one of a context that is out stands in the ring's order
too (R373, R384). -/
def State.nextUnread (s : State) (v r : Nat) : Option (Nat × Cmd) :=
  let out := s.outCtxs.flatMap fun x => x.2.cores.map fun (e : Nat × Nat × Core) => (x.1 * 24 + e.2.1, e.2.2)
  let all := (s.cores ++ out).flatMap fun e =>
    (e.2.eng.cmds.filter fun c => c.unread.any fun u => u.1 == v && u.2.1 == r).map fun c => (e.1, c)
  all.foldl (fun (m : Option (Nat × Cmd)) x => match m with
    | some y => if x.2.order < y.2.order then some x else some y
    | none => some x) none

/-- The next entry of a ring has a turn, where one of a core's requests names it. -/
def State.wakeRing (s : State) (v r : Nat) : State :=
  match s.nextUnread v r with
  | some (n, c) => if c.st == .started && s.cmd n c.cls c.seq == some c && !s.pending.contains (c.turn n) then s.owe (c.turn n) else s
  | none => s
/-- So has the next entry of every ring. -/
def State.wakeRings (s : State) : State :=
  s.vds.foldl (fun (s : State) v => v.2.rings.foldl (fun (s : State) r => s.wakeRing v.1 r.1) s) s

/-- Reads the entries of a ring in ring order (R373): up to one whose read parks, or reaches no memory, or whose core is out; one that
cannot be read fails its request. -/
def State.readRing (v r : Nat) : Nat → State → State
  | 0, s => s
  | fuel + 1, s =>
    match s.nextUnread v r with
    | none => s
    | some (n, c) =>
      if s.cmd n c.cls c.seq ≠ some c then s
      else match c.st, c.unread with
      | .started, some u => match s.readEntry n c v r u.2.2 with
        | .ok s => State.readRing v r fuel (if s.pending.contains (c.turn n) then s else s.owe (c.turn n))
        | .error e => match s.stopCmd n c e, (e.split s).2 with
          | .next s, .fail .. => State.readRing v r fuel (s.ringRead v r u.2.2)
          | .next s, _ => s
          | _, _ => s
      | _, _ => s

/-- A completion address where its request may write: a local one passes the checks of a store of the core (R155, R372). -/
def State.cplaOk (s : State) (n : Nat) (c : Cmd) (a : Word) : Bool :=
  !a.getLsbD 56 || (match s.checkLocal n (!c.sup) a 16 1 with
    | .ok (.evu _) | .error _ => false
    | .ok _ => true)
/-- The completion of a request whose work is done, and whose 16 bytes are kept meanwhile: they are written, and the command finishes. -/
def State.storageEnd (s : State) (n : Nat) (c : Cmd) (r : StorageReq) : Host.Outcome State Fault Refusal :=
  if !s.cplaOk n c r.cpla then s.stopCmd n c (.fail .bounds r.cpla)
  else match s.agentStore (c.agent n) r.cpla c.out with
    | .error e => s.stopCmd n c e
    | .ok (s, g) => .next (s.finishCmd n { c with time := g.time })

/-- STORAGE_COMPLETION (R372, R373): the request is done and its completion written; the command finishes. One whose entry is not
read yet has its ring read first, in ring order. -/
def execStorageCompletion (core seq : Nat) (mediaError : Bool) (s : State) : Host.Outcome State Fault Refusal :=
  match s.cmd core 2 seq with
  | none => .next s
  | some c =>
    match c.st, c.body with
    | .started, .storage _ _ _ (some x) =>
      let r := storageReq x
      if !c.out.isEmpty then s.storageEnd core c r
      else match s.storageWork core c r mediaError with
        | .error e => s.stopCmd core c e
        | .ok (s, g, status, blocks) => s.storageEnd core { c with time := g.time, out := storageDone r status blocks } r
    | .started, .storage v r i none =>
      match s.agentBytes (c.agent core) (BitVec.ofNat 64 ((Tab.get {} (s.vd v).rings r).base.toNat + 64 * i)) 64 with
      | .error (.noMemory pa) => .fault (.noPhysicalMemory pa)
      | _ => .next (s.readRing v r 128)
    | _, _ => .next s

/-! ## Commands whose context is out (R384) -/

/-- The cores of a partition's contexts that are out, by the places that they left. -/
def State.awayCores (s : State) (p : PTag) : List (Nat × Core) :=
  (s.outCtxs.filter fun x => x.2.ptag == p).flatMap fun x => x.2.cores.map fun (e : Nat × Nat × Core) => (x.1 * 24 + e.2.1, e.2.2)
/-- The cores of a partition's contexts that are out change places with what stands where they were; a second exchange undoes the
first. -/
def State.exchange (s : State) (p : PTag) : State :=
  let t := s.mapOut fun cl x => if x.ptag = p then
      { x with cores := x.cores.map fun (e : Nat × Nat × Core) => (e.1, e.2.1, s.core (cl * 24 + e.2.1)) } else x
  (s.awayCores p).foldl (fun (t : State) (e : Nat × Core) => t.setCore e.1 e.2) t

/-- What a step of the engines owes to commands of cores `ns`, and to sparse sums, is done at once; `fuel` bounds it. -/
def State.runAway (ns : List Nat) : Nat → State → Host.Outcome State Fault Refusal
  | 0, s => .next s
  | fuel + 1, s =>
    let mine := fun (i : Instr) => match i with
      | .commandComplete n k q | .commandFail n k q => ns.contains n && (s.cmd n k q).isSome
      | .storageCompletion n q _ => ns.contains n && (s.cmd n 2 q).isSome
      | .spsumPairAdd _ => true
      | _ => false
    match s.pending.find? mine with
    | none => .next s
    | some i =>
      let s := { s with pending := s.pending.erase i }
      match (match i with
        | .commandComplete n k q => execCommandComplete n k q s
        | .commandFail n k q => execCommandFail n k q s
        | .storageCompletion n q e => execStorageCompletion n q e s
        | _ => s.addPair 0) with
      | .next s => State.runAway ns fuel s
      | r => r

/-- The engines act for a partition, on its commands whose context is out too (R384): those of the paths K and P run on as if it were in,
and what is bound for the context is held by its delivery. DEDUCED (log 171). -/
def State.withAway (s : State) (p : PTag) (f : State → Host.Outcome State Fault Refusal) : Host.Outcome State Fault Refusal :=
  let ns := (s.awayCores p).map (·.1)
  if ns.isEmpty then f s
  else match f { s.exchange p with pending := [] } with
    | .next t => match State.runAway ns (4 * (t.sumPairs.length + t.pending.length) + 132) t with
      | .next t => .next { t.exchange p with pending := s.pending ++ t.pending }.wakeRings
      | r => r
    | r => r

/-- A parked command is issued again (R195), its context being in or out (R384). -/
def State.reissueParked (s : State) (p : PTag) (n : Nat) (cls : Fin 4) (seq : Nat) : Host.Outcome State Fault Refusal :=
  let again := fun (s : State) => match s.cmd n cls seq with
    | some c => s.reissueCmd n c
    | none => s
  if (s.awayCores p).any (·.1 == n) then s.withAway p fun s => .next (again s) else .next (again s)

/-- COLLECTIVE_GENERATION (R369, R370). -/
def execCollectiveGeneration (lid vdev : Nat) (gid : BitVec 32) (s : State) : Host.Outcome State Fault Refusal :=
  match s.launches.find? fun x => x.vdev == vdev && x.lid == lid with
  | some x => s.withAway (x.hdr.extractLsb' 48 6) fun s => s.tryGeneration (vdev, lid) gid
  | none => s.tryGeneration (vdev, lid) gid

/-- SPSUM_PAIR_ADD (R371). -/
def execSpsumPairAdd (n : Nat) (s : State) : Host.Outcome State Fault Refusal := s.addPair n

end Sys2Proof.Machine
end

