-- ==== Sys2Proof/Machine/Commands.lean ====
section
/-! DEFINITION. The engine instructions, opcodes 0x70 to 0x74 and 0x76 (R352 to R354, R377 to R382, R385), and FENCE (R246 to
R248). -/
namespace Sys2Proof.Machine
open Sys2Proof

/-! ## Descriptors (R352 to R354, R362 to R374) -/

/-- The field of `n` bytes at an offset of a descriptor. -/
def dfield (x : BitVec 1536) (off n : Nat) : Nat := (x.extractLsb' (8 * off) (8 * n)).toNat
def dword (x : BitVec 1536) (off : Nat) : Word := x.extractLsb' (8 * off) 64
/-- Bytes of a descriptor that must be zero. -/
def dzero (x : BitVec 1536) (off n : Nat) : Bool := dfield x off n == 0

/-- A parsed descriptor: its command, whether its body is well formed, and what the checks of R385 look at: address fields,
the size field with its largest value, fields with the multiple each must be, and ranges (low address and bytes), the first
two of which are the scoreboard's, with the address field they belong to where that is not their low address. -/
structure Parsed where
  cls : Fin 4
  body : CmdBody
  good : Bool
  addrs : List Word
  size : Nat
  sizeOk : Bool
  aligns : List (Word × Nat)
  src : Option (Word × Nat) := none
  dst : Option (Word × Nat) := none
  srcBase : Option Word := none
  dstBase : Option Word := none
  extra : List (Word × Nat) := []
  zero : Bool

/-- The lowest offset and the length of the bytes that strided runs cover (R358). -/
def spanOf (dims : List (Nat × Int)) : Int × Nat :=
  let d := dims.foldl (fun (acc : Int × Int) p =>
    let x : Int := ((p.1 : Int) - 1) * p.2
    (acc.1 + min 0 x, acc.2 + max 0 x)) (0, 0)
  (d.1, (d.2 - d.1).toNat)

/-- A copy (R362 to R365). -/
def parseCopy (x : BitVec 1536) (esz : Nat) : Parsed :=
  let e := 2 ^ esz
  let srca := dword x 0x18
  let dsta := dword x 0x20
  let nd := dfield x 0x28 1
  let conv := dfield x 0x29 1
  let sce := dfield x 0x2A 1
  let tf : Tag := x.extractLsb' (8 * 0x2B) 8
  let seq : BitVec 32 := x.extractLsb' (8 * 0x2C) 32
  let sca := dword x 0x30
  let all := (List.range 8).map fun j =>
    (dfield x (0x38 + 4 * j) 4, (x.extractLsb' (8 * (0x58 + 4 * j)) 32 : BitVec 32), (x.extractLsb' (8 * (0x78 + 4 * j)) 32 : BitVec 32))
  let dims := all.take nd
  let n0 := (dims.map (·.1)).getD 0 0
  let n1 : Nat := (dims.map (·.1)).getD 1 0
  let rest := dims.drop 1
  let wb := tagWidth tf
  let k := convK conv dims tf
  let convOk := conv == 0 || (inMx tf && nd == 2 && ((dims.map (·.2.2)).getD 1 0) == 0 && 2 ^ esz == max 1 (wb / 8) &&
    k != 0 && k % 32 == 0 && (if conv == 1 then 8 * n0 % wb == 0 && n1 % 8 == 0 && decide (8 ≤ n1) && decide (n1 ≤ 256)
      else n0 == 32 * wb) && (sce == 0 || decide (k ≤ 1024)))
  let bytes := copyBytesOf dims
  let ss := spanOf (rest.map fun d => (d.1, d.2.1.toInt))
  let ds := spanOf (rest.map fun d => (d.1, d.2.2.toInt))
  { cls := 0
    body := .copy srca dsta dims conv (sce == 1) tf seq sca
    good := decide (1 ≤ nd) && decide (nd ≤ 8) && decide (conv ≤ 2) && decide (sce ≤ 1) && (sce == 0 || conv != 0) &&
      (conv != 0 || tf == 0) && (all.headD (0, 0, 0)).2.1 == 0 && (all.headD (0, 0, 0)).2.2 == 0 &&
      (all.drop nd).all (fun d => d.1 == 0 && d.2.1 == 0 && d.2.2 == 0) && dzero x 0x98 40 && convOk
    addrs := [srca, dsta] ++ (if sce = 1 then [sca] else [])
    size := n0
    sizeOk := n0 % e == 0
    aligns := [(srca, e), (dsta, e)] ++ rest.map (fun d => (sextImm d.2.1, e)) ++ rest.map (fun d => (sextImm d.2.2, e)) ++
      (if conv ≠ 0 then [(dsta, 16)] else []) ++ (if sce = 1 then [(sca, 128)] else [])
    srcBase := some srca
    dstBase := some dsta
    src := some (srca + BitVec.ofInt 64 ss.1, ss.2 + n0)
    dst := some (if conv = 0 then (dsta + BitVec.ofInt 64 ds.1, ds.2 + n0) else (dsta, convTotal conv dims tf))
    extra := if sce = 1 then [(sca, 512 * (k / 32 - 1) + 128 * scaleQuarters conv dims)] else []
    zero := bytes == 0 }

/-- A gather or a scatter (R366). -/
def parseRows (x : BitVec 1536) (esz : Nat) (scatter : Bool) : Parsed :=
  let e := 2 ^ esz
  let tbl := dword x 0x18
  let lst := dword x 0x20
  let idxa := dword x 0x28
  let rowb := dfield x 0x30 4
  let nidx := dfield x 0x34 4
  let tstr := dfield x 0x38 4
  let nrows := dfield x 0x3C 4
  let table := some (tbl, nrows * tstr)
  let packed := some (lst, nidx * rowb)
  { cls := 0, body := .rows scatter tbl lst idxa rowb nidx tstr nrows, good := true, addrs := [tbl, lst, idxa], size := rowb
    sizeOk := rowb % e == 0
    aligns := [(tbl, e), (lst, e), (idxa, 4), (BitVec.ofNat 64 tstr, e)]
    src := if scatter then packed else table
    dst := if scatter then table else packed
    extra := (idxa, 4 * nidx) :: (if nrows = 0 then [] else [(tbl, (nrows - 1) * tstr + rowb)])
    zero := rowb * nidx == 0 }

/-- A fill (R366). -/
def parseFill (x : BitVec 1536) (esz : Nat) : Parsed :=
  let dsta := dword x 0x18
  let len := dfield x 0x20 8
  { cls := 0, body := .fill dsta len esz (dword x 0x28), good := dzero x 0x30 16, addrs := [dsta], size := len
    sizeOk := len % 2 ^ esz == 0, aligns := [(dsta, 2 ^ esz)], dst := some (dsta, len), zero := len == 0 }

/-- The formats of a collective (R369). -/
def collFmt (t : Tag) (op : Nat) : Bool :=
  if op = 4 then t == 0x0B || t == 0x0F || t == 2 || t == 1
  else t == 0x0A || t == 0x0B || t == 0x0E || t == 0x0F || t == 2 || t == 1 || t == 4

/-- A collective (R369 to R371); `cores` is the launch's core count. DEDUCED (log 74). -/
def parseColl (x : BitVec 1536) (esz cores : Nat) : Parsed :=
  let srca := dword x 0x18
  let dsta := dword x 0x20
  let len := dfield x 0x28 8
  let trows := dfield x 0x30 8
  let p := dfield x 0x3C 4
  let op := dfield x 0x40 1
  let red := dfield x 0x41 1
  let t : Tag := x.extractLsb' (8 * 0x42) 8
  let e := 2 ^ esz
  { cls := 1, body := .coll srca dsta len trows (x.extractLsb' (8 * 0x38) 32) p op red t
    good := decide (1 ≤ op) && decide (op ≤ 4) && decide (red ≤ 2) && (op != 2 || red == 0) && collFmt t op &&
      8 * e == tagWidth t && decide (2 ≤ p) && decide (p ≤ cores) && (op == 4 || trows == 0) && dzero x 0x43 61
    addrs := [srca, dsta]
    size := len
    sizeOk := op == 4 || len % e == 0
    aligns := if op = 4 then [(srca, 16)] else []
    src := some (srca, if op = 3 then p * len else if op = 4 then 16 * len else len)
    dst := some (dsta, if op = 2 then p * len else if op = 4 then trows * e else len)
    zero := op != 4 && len == 0 }

/-- A send (R374). -/
def parseSend (x : BitVec 1536) (esz : Nat) : Parsed :=
  let srca := dword x 0x18
  let len := dfield x 0x20 8
  { cls := 3, body := .send srca len (x.extractLsb' (8 * 0x28) 32) (dword x 0x30), good := dzero x 0x2C 4 && dzero x 0x38 8
    addrs := [srca], size := len, sizeOk := len % 2 ^ esz == 0 && decide (len ≤ 1048576), aligns := []
    src := some (srca, len), zero := len == 0 }

/-- The length of a descriptor by its kind (R352). -/
def descLen (kind : Nat) : Nat := if kind = 1 then 192 else if kind = 5 then 128 else 64

/-- The header that every descriptor begins with (R352). -/
def descHdr (x : BitVec 1536) : DescHdr :=
  { cw := x.getLsbD 16, pul := x.getLsbD 17, evl := x.getLsbD 18, ctr := (x.extractLsb' 24 4 : BitVec 4).toFin,
    line := (x.extractLsb' 32 6 : BitVec 6).toFin, cwa := dword x 8, cwv := dword x 0x10 }

/-- A descriptor of one of the kinds that an instruction takes; none where it is malformed (R353). DEDUCED (log 71). -/
def parseDescriptor (x : BitVec 1536) (kinds : List Nat) (cores : Nat) : Option Parsed :=
  let kind := dfield x 0 1
  let esz := dfield x 1 1
  if !kinds.contains kind || decide (3 < esz) || dfield x 2 1 / 8 != 0 || dfield x 3 1 / 16 != 0 || dfield x 4 1 / 64 != 0 ||
      !dzero x 5 3 then none
  else
    let p := match kind with
      | 1 => parseCopy x esz
      | 2 => parseRows x esz false
      | 3 => parseRows x esz true
      | 4 => parseFill x esz
      | 5 => parseColl x esz cores
      | _ => parseSend x esz
    if p.good then some p else none

/-- An address field is a global address, or a local one that is no event unit's (R153, R183, R353). DEDUCED (log 69).
DEDUCED (log 77). -/
def State.addrValid (s : State) (n : Nat) (a : Word) : Bool :=
  a.extractLsb' 56 8 == 0 || (match s.windowOf n a 1 with
    | some (.evu _) | none => false
    | some _ => true)

/-- The check of one range at issue, given with the address field that it belongs to: a local one is checked in full, and lies in the
window of that field (R353). -/
def State.localRangeOk (s : State) (n : Nat) (user : Bool) (base : Word) (r : Word × Nat) : Bool :=
  !base.getLsbD 56 || r.2 == 0 || (r.1.extractLsb' 48 16 == base.extractLsb' 48 16 && match s.checkLocal n user r.1 r.2 1 with
    | .ok (.evu _) | .error _ => false
    | .ok _ => true)

/-- The checks 4 to 6 of R385 on a parsed descriptor: the first that fails. DEDUCED (log 67). DEDUCED (log 68). DEDUCED (log 76). -/
def State.descBreach (s : State) (n : Nat) (user : Bool) (p : Parsed) (h : DescHdr) : Option (Cause × Word) :=
  let addrs := p.addrs ++ (if h.cw then [h.cwa] else [])
  let aligns := p.aligns ++ (if h.cw then [(h.cwa, 8)] else [])
  let own := fun (o : Option Word) (r : Word × Nat) => (o.getD r.1, r)
  let ranges := if p.zero then [] else p.src.toList.map (own p.srcBase) ++ p.dst.toList.map (own p.dstBase) ++ p.extra.map (own none)
  let ranges := ranges ++ (if h.cw then [(h.cwa, (h.cwa, 8))] else [])
  match addrs.find? fun a => !s.addrValid n a with
  | some a => some (.bounds, a)
  | none =>
    if !p.sizeOk then some (.xsize, BitVec.ofNat 64 p.size)
    else match aligns.find? fun x => x.1.toNat % x.2 != 0 with
      | some x => some (.align, x.1)
      | none => (ranges.find? fun r => !s.localRangeOk n user r.1 r.2).map fun r => (.bounds, r.2.1)

/-! ## Acceptance (R355, R358, R379) -/

/-- The cores of the launch that a core works for (R369). -/
def State.launchCores (s : State) (n : Nat) : Nat :=
  match (s.core n).lid with
  | none => 0
  | some (v, l) => match s.launches.find? fun x => x.vdev == v && x.lid == l with
    | none => 0
    | some x =>
      if x.set.isEmpty then (s.assign.filter fun e => (Slots.valid e.2).contains (x.hdr.extractLsb' 48 6)).length else x.set.length

/-- The next number of a class (R355). -/
def State.nextSeq (s : State) (n : Nat) (cls : Fin 4) : Nat := (s.core n).eng.isq[cls] + 1

/-- Accepts a command of core n (R355, R358): it takes the next number of its class. -/
def State.accept (s : State) (n : Nat) (c : Cmd) : State :=
  let k := s.core n
  let c := { c with seq := k.eng.isq[c.cls] + 1, order := s.nextId, root := k.root, vsid := k.vsid, xlate := k.xlate,
                    sup := k.regs.trap.sup, ptag := k.ptag, lid := k.lid }
  { s.setCore n { k with eng := { k.eng with isq := k.eng.isq.set c.cls c.seq, cmds := k.eng.cmds ++ [c] } } with
    nextId := s.nextId + 1 }

/-- A command starts in its engine's queue (R245, R379). -/
def State.startCmd (s : State) (n : Nat) (cls : Fin 4) (seq : Nat) : State :=
  match s.cmd n cls seq with
  | none => s
  | some c =>
    let c := { c with st := .started, time := s.agentStart n (classPath cls) }
    (s.putCmd n c).owe (c.turn n)

/-- A domain whose task issues a command that a replay could not repeat may not be audited (R436). -/
def State.taint (s : State) (n : Nat) : State :=
  { s with tainted := ((s.core n).doms.map fun r => ((s.core n).ptag, r)) ++ s.tainted }

/-- What follows acceptance: an armed command waits on its term; a started one enters its queue, and one of zero bytes
finishes at once (R357). DEDUCED (log 70). -/
def acceptEff (cmd : Cmd) (zero : Bool) (term : Option (Fin 32)) (d : GReg) (s : State) : Eff :=
  let n := s.cur
  let seq := s.nextSeq n cmd.cls
  let s := s.accept n { cmd with st := match term with
    | some t => .armed t
    | none => .started }
  let s := if cmd.cls = 1 || cmd.cls = 3 then s.taint n else s
  let s := s.setCc (s.cc.slipResult (.g d (BitVec.ofNat 64 seq)))
  match term with
  | some t =>
    let cl := s.cluster (clusterOf n)
    let x := Tab.get {} cl.xterm t.val
    .done ((s.setCluster (clusterOf n)
      { cl with xterm := Tab.set cl.xterm t.val { x with armed := x.armed ++ [(n, cmd.cls, seq)] } }).pulse (clusterOf n)
        (s.cc.tmg.clk + 1) .edge)
  | none =>
    let s := s.startCmd n cmd.cls seq
    if zero then
      match execCommandComplete n cmd.cls seq s with
      | .next s => .done s
      | .fault f => .fault f
      | .refused _ => .done s
    else .done s

/-- The scoreboard's range of an address field (R358): of a global field whose strides reach below address 0, the part from 0 on. -/
def State.coveredBy (s : State) (n : Nat) (base : Option Word) (y : Word × Nat) : Option Range :=
  if (base.getD y.1).extractLsb' 56 8 = 0 ∧ y.1.extractLsb' 56 8 ≠ 0 then some ⟨.va, 0, (y.1 + BitVec.ofNat 64 y.2).toNat⟩
  else s.rangeOf n y.1 y.2

/-- The effect of a descriptor instruction (R379, R385): the descriptor is read, checked, and its command accepted. -/
def descEff (kinds : List Nat) (term : Option (Fin 32)) (d a : GReg) (imm : BitVec 32) (s : State) : Eff :=
  let n := s.cur
  let x := s.cc.addr a imm
  let user := !s.cc.regs.trap.sup
  let first := match s.checkSpad x 64 64 with
    | .ok p => ((s.readPlace 1 p).headD 0).toNat
    | .error _ => 0
  let len := if kinds.contains first then descLen first else 64
  if s.rangeHeld x len then holdOn s x len
  else match s.checkSpad x len 64 with
    | .error k => .trap s k x 0
    | .ok p =>
      let r := s.touch n p len
      if r.2 then .trap r.1 .poison x 0
      else
        let s1 := r.1.coreRead n (p.home (clusterOf n))
        let v : BitVec 1536 := ofBytes 1536 (s1.readPlace len p)
        match parseDescriptor v kinds (s.launchCores n) with
        | none => .trap s .bounds x 0
        | some q =>
          let h := descHdr v
          match s.descBreach n user q h with
          | some (k, y) => .trap s k y 0
          | none =>
            if 128 ≤ s.cc.eng.cmds.length then .stall s
            else
              let rng := fun (o : Option (Word × Nat)) (base : Option Word) =>
                if q.zero then none else o.bind fun y => if y.2 = 0 then none else s1.coveredBy n base y
              acceptEff { cls := q.cls, seq := 0, body := q.body, hdr := h, src := rng q.src q.srcBase, dst := rng q.dst q.dstBase }
                q.zero term d s1

/-- A descriptor instruction. -/
def descForm (h : Hdr) (kinds : List Nat) (term : Option (Fin 32)) (d a : GReg) (imm : BitVec 32) (s : State) :
    Host.Outcome State Fault Refusal :=
  issueWord h 0 0 0 { srcs := [opG a], dsts := [opG d] } (descEff kinds term d a imm) s

def execXcopy (h : Hdr) (d a : GReg) (imm : BitVec 32) (s : State) : Host.Outcome State Fault Refusal :=
  descForm h [1] none d a imm s
def execXgath (h : Hdr) (d a : GReg) (imm : BitVec 32) (s : State) : Host.Outcome State Fault Refusal :=
  descForm h [2] none d a imm s
def execXscat (h : Hdr) (d a : GReg) (imm : BitVec 32) (s : State) : Host.Outcome State Fault Refusal :=
  descForm h [3] none d a imm s
def execXfill (h : Hdr) (d a : GReg) (imm : BitVec 32) (s : State) : Host.Outcome State Fault Refusal :=
  descForm h [4] none d a imm s
def execXcoll (h : Hdr) (d a : GReg) (imm : BitVec 32) (s : State) : Host.Outcome State Fault Refusal :=
  descForm h [5] none d a imm s
def execNsend (h : Hdr) (d a : GReg) (imm : BitVec 32) (s : State) : Host.Outcome State Fault Refusal :=
  descForm h [6] none d a imm s

/-- A counter or term of the crossbar carries another tag (R375): XVAL. -/
def State.xbarDenied (s : State) (term : Bool) (i : Nat) : Bool :=
  let cl := s.cluster (clusterOf s.cur)
  !s.cc.regs.trap.sup &&
    (if term then (Tab.get {} cl.xterm i).tag else (Tab.get {} cl.xcnt i).tag) != s.cc.ptag
def xbarVal (term : Bool) (i : Nat) : Word := BitVec.ofNat 64 ((if term then 0x100 else 0) + i)

def execEvxarm (h : Hdr) (d a : GReg) (t : BitVec 5) (imm : BitVec 32) (s : State) : Host.Outcome State Fault Refusal :=
  issueWord h 0 0 0 { srcs := [opG a], dsts := [opG d] } (fun s =>
    if s.xbarDenied true t.toNat then .trap s .bounds (xbarVal true t.toNat) 0
    else descEff [1, 2, 3, 4, 5, 6] (some t.toFin) d a imm s) s

/-! ## Waiting, sequence numbers, cancelling (R381, R382) -/

def execXwait (h : Hdr) (a : GReg) (cls : Fin 4) (s : State) : Host.Outcome State Fault Refusal :=
  issueWord h 0 0 0 { srcs := [opG a] } (fun s =>
    let c := s.cc
    let q := (c.rdG a).toNat
    let f := c.eng.efault[cls]
    if c.eng.retsq cls < q then .point s
    else if f.v && decide (f.seq.toNat ≤ q) then
      let cause := (([.access, .bounds, .poison] : List Cause).find? fun k => k.code.setWidth 6 == f.cause).getD .bounds
      .trap (s.setCc { c with eng := { c.eng with efault := c.eng.efault.set cls { f with v := false, more := false } } })
        cause f.val 0
    else .done (s.setCc { c with lt := max c.lt (c.eng.doneTime cls q) })) s

def execXseq (h : Hdr) (d : GReg) (cls : Fin 4) (s : State) : Host.Outcome State Fault Refusal :=
  issueWord h 0 0 0 { dsts := [opG d] } (fun s =>
    zStatus s d (BitVec.ofNat 64 (s.cc.eng.retsq cls))) s

/-- Takes a started command on by some of its lines before it is cancelled (R382). -/
def State.linesBeforeCancel (n : Nat) : Nat → Cmd → State → State × Cmd
  | 0, c, s => (s, c)
  | k + 1, c, s =>
    if s.dataDone n c then (s, c)
    else match s.advance n c with
      | .go s c' => State.linesBeforeCancel n k c' (s.countLine n c c')
      | _ => (s, c)

/-- The entry of a ring behind the one that a request named and no longer reads has its turn (R373). -/
def State.ringBehind (s : State) (c : Cmd) : State :=
  match c.unread with
  | some u => s.wakeRing u.1 u.2.1
  | none => s

/-- Cancels a command in flight (R382): 1 where it had not started, 2 where it had. -/
def State.cancel (s : State) (n : Nat) (c : Cmd) : State × Nat :=
  match c.st with
  | .armed t =>
    let cl := clusterOf n
    let k := s.cluster cl
    let x := Tab.get {} k.xterm t.val
    let s := s.setCluster cl { k with xterm := Tab.set k.xterm t.val { x with armed := x.armed.filter (· != (n, c.cls, c.seq)) } }
    (s.finishCmd n c, 1)
  | .started =>
    let lines := Config.cancelLines s.draws c.work
    let r := State.linesBeforeCancel n (if s.hasEngine n c then lines % (c.work + 1) else 0) c { s with draws := s.draws + 1 }
    (((r.1.finishCmd n r.2).leftEngine n c).ringBehind c, 2)
  | .parked _ =>
    let d := s.die (dieOf n)
    let s := s.setDie (dieOf n) { d with parks := d.parks.filter (· != .cmd c.ptag n c.cls c.seq) }
    ((s.finishCmd n c).ringBehind c, 2)
  | .failing .. | .stopped => (s.finishCmd n c, 2)

def execXcancel (h : Hdr) (d a : GReg) (cls : Fin 4) (s : State) : Host.Outcome State Fault Refusal :=
  issueWord h 0 0 0 { srcs := [opG a], dsts := [opG d] } (fun s =>
    let n := s.cur
    match s.cmd n cls (s.cc.rdG a).toNat with
    | none => .done (s.setCc (s.cc.slipResult (.g d 0)))
    | some c => match c.st with
      | .failing .. => .stall s
      | _ =>
        let r := s.cancel n c
        .done (r.1.setCc (r.1.cc.slipResult (.g d (BitVec.ofNat 64 r.2))))) s

/-! ## FENCE (R246 to R248) -/

/-- Operations of the core's share that were accepted before its word issued are not finished (R247). DEDUCED (log 65). -/
def State.arrayBusy (s : State) (n : Nat) : Bool :=
  let cl := s.cluster (clusterOf n)
  match cl.shareOf (s.core n).ptag with
  | some sh => (cl.share sh).queue.any fun o => decide (o.accepted < (s.core n).issuedAt)
  | none => false
/-- The latest time of the array operations of a core's context. -/
def State.arrayTime (s : State) (n : Nat) : Nat :=
  ((clusterCores (clusterOf n)).filter fun m => m == n || ((s.core m).ctag.isSome && (s.core m).ctag == (s.core n).ctag)).foldl
    (fun t m => max t (s.core m).eng.zdone) 0

/-- The class of a path's commands. -/
def pathClass (q : Nat) : Option (Fin 4) := if q = 1 then some 0 else if q = 3 then some 1 else if q = 5 then some 2
  else if q = 6 then some 3 else none

/-- Every earlier access of a path is performed. -/
def State.pathDone (s : State) (n q : Nat) : Bool :=
  if q = 2 then !s.arrayBusy n
  else match pathClass q with
    | some c => !(s.core n).eng.cmds.any (·.cls == c)
    | none => true

/-- The largest logical time of the earlier accesses of a path. -/
def State.pathTime (s : State) (n q : Nat) : Nat :=
  let e := (s.core n).eng
  if q = 2 then s.arrayTime n
  else match pathClass q with
    | some c => e.doneTime c e.isq[c]
    | none => 0

/-- The paths that a mask names, other than C. -/
def namedPaths (paths : BitVec 8) : List (Fin 8) := (List.finRange 8).filter fun q => q.val != 0 && paths.getLsbD q.val

/-- What a fence does for paths that are done, in order (R247); `core` says that it names path C. -/
def Core.fencedOn (c : Core) (times : Fin 8 → Nat) (core : Bool) (qs : List (Fin 8)) : Core :=
  qs.foldl (fun (c : Core) (q : Fin 8) =>
    let c := if core then { c with lt := max c.lt (times q) } else c
    { c with ft := c.ft.set q (max c.ft[q] c.lt) }) c
/-- What a fence does once every named path is done (R247). -/
def Core.fenced (c : Core) (times : Fin 8 → Nat) (paths : BitVec 8) : Core :=
  c.fencedOn times (paths.getLsbD 0) (namedPaths paths)

/-- The logical time that the floor has to reach before a FENCE of scope SYSTEM ends: that of the core as the FENCE issued, and of the
accesses of the named paths (R247). A tick that comes meanwhile raises the core past the floor, but none of its earlier accesses.
DEDUCED (log 168). -/
def State.fenceTime (s : State) (n : Nat) (paths : BitVec 8) : Nat :=
  (namedPaths paths).foldl (fun t q => max t (s.pathTime n q.val)) ((s.core n).tmg.inside.getD (s.core n).lt)

/-- The paths of a FENCE whose part of it is done. -/
def Core.fencePaths (c : Core) : Nat := if c.tmg.inside.isSome then c.tmg.fenceDone else 0

/-- The effect of FENCE: the named paths in order, each once it is done; what has been raised stays raised while it waits for the others,
and then, at SYSTEM scope, for the floor (R247, R248). DEDUCED (log 139). -/
def fenceEff (scope : BitVec 3) (paths : BitVec 8) (s : State) : Eff :=
  let n := s.cur
  if s.scopeDenied scope then .trap s .scope (scope.setWidth 64) 0
  else
    let left := (namedPaths paths).drop s.cc.fencePaths
    let ready := left.takeWhile fun q => s.pathDone n q.val
    let c := s.cc.fencedOn (fun q => s.pathTime n q.val) (paths.getLsbD 0) ready
    let s1 := s.setCc (c.setTmg fun m => { m with fenceDone := s.cc.fencePaths + ready.length })
    if ready.length < left.length then .point s1
    else if scope = 4 ∧ paths.getLsbD 0 = true ∧ s.floor < s.fenceTime n paths then .point s1
    else .done s1

def execFence (h : Hdr) (scope : BitVec 3) (paths : BitVec 8) (s : State) : Host.Outcome State Fault Refusal :=
  issueWord h 0 0 0 {} (fenceEff scope paths) s

/-! ## SRING (R380) -/

/-- Entries of a ring that its engine has not read. DEDUCED (log 75). -/
def State.ringUnread (s : State) (v r : Nat) : Nat :=
  (s.cores.flatMap fun e => e.2.eng.cmds.filter fun c => match c.body with
    | .storage w q _ none => w == v && q == r
    | _ => false).length

/-- Accepts the requests of a ring's entries from index i on, in ring order; `size` is the ring's. -/
def State.acceptRing (s : State) (n v r size : Nat) : Nat → Nat → State
  | 0, _ => s
  | k + 1, i =>
    let seq := s.nextSeq n 2
    State.acceptRing ((s.accept n { cls := 2, seq := 0, body := .storage v r (i % size) none }).startCmd n 2 seq) n v r size k (i + 1)

/-- A ring whose size is outside 2^4 to 2^12 entries is none that is configured (R372). DEDUCED (log 75). -/
def execSring (h : Hdr) (d a : GReg) (r : BitVec 4) (s : State) : Host.Outcome State Fault Refusal :=
  issueWord h 0 0 0 { srcs := [opG a], dsts := [opG d] } (fun s =>
    let n := s.cur
    let c := (s.cc.rdG a).toNat
    let v := (s.vdOf n).getD 0
    let ring := Tab.get {} (s.vd v).rings r.toNat
    let size := 2 ^ ring.log
    if !ring.en || decide (ring.log < 4) || decide (12 < ring.log) || (s.vdOf n).isNone then .trap s .bounds (r.setWidth 64) 0
    else if 64 < c ∨ size < c then .trap s .xsize (s.cc.rdG a) 0
    else if c = 0 then .done (s.setCc (s.cc.slipResult (.g d (BitVec.ofNat 64 s.cc.eng.isq[(2 : Fin 4)]))))
    else if !s.pathDone n 5 || decide (size < s.ringUnread v r.toNat + c) || decide (128 < s.cc.eng.cmds.length + c) then .stall s
    else
      let s := s.setCc (s.cc.fenced (fun q => s.pathTime n q.val) 0x21)
      let s := s.onVd v fun x => { x with rings := Tab.set x.rings r.toNat { ring with tail := (ring.tail + c) % size } }
      let s := State.readRing v r.toNat 128 ((s.taint n).acceptRing n v r.toNat size c ring.tail)
      .done (s.setCc (s.cc.slipResult (.g d (BitVec.ofNat 64 s.cc.eng.isq[(2 : Fin 4)]))))) s

end Sys2Proof.Machine
end

