-- ==== Sys2Proof/Machine/Crossbar.lean ====
section
/-! DEFINITION. The event crossbar (R375, R376, R383): its counters and terms, EVXCFG, EVSIG.PULSE, and the edge at which
pulses arrive and terms fire. -/
namespace Sys2Proof.Machine
open Sys2Proof

def Cluster.xcounter (c : Cluster) (i : Nat) : XCounter := Tab.get {} c.xcnt i
def Cluster.xtermAt (c : Cluster) (i : Nat) : XTerm := Tab.get {} c.xterm i

/-- EVXC i (R375). -/
def XCounter.word (x : XCounter) : Word :=
  boolBit x.en 63 ||| boolBit x.mp 56 ||| boolBit x.ms 48 ||| x.count.setWidth 64
def XCounter.ofWord (x : XCounter) (w : Word) : XCounter :=
  { x with en := w.getLsbD 63, mp := w.getLsbD 56, ms := w.getLsbD 48, count := w.setWidth 32 }
/-- Bits [63:0] of EVXT i (R375). -/
def XTerm.word (x : XTerm) : Word := boolBit x.en 63 ||| boolBit x.orC 62 ||| (x.v.setWidth 64 <<< 32) ||| x.sel.setWidth 64
def XTerm.ofWords (x : XTerm) (w thr : Word) : XTerm :=
  { x with en := w.getLsbD 63, orC := w.getLsbD 62, v := w.extractLsb' 32 4, sel := w.setWidth 16, thr := thr }

/-- Adds pulses to a counter, saturating (R375). -/
def XCounter.add (x : XCounter) (k : Nat) : XCounter := { x with count := BitVec.ofNat 32 (min 0xFFFFFFFF (x.count.toNat + k)) }

/-- A dropped pulse is counted for its sender's partition (R375, R472). DEDUCED (log 55). -/
def State.dropPulse (s : State) (p : PTag) : State := s.onPart p.toNat fun x => { x with evdrop := satInc x.evdrop }

/-- `k` pulses sent under a tag reach a counter (R375). DEDUCED (log 56). -/
def State.pulseCounter (s : State) (cl : Nat) (i : Nat) (k : Nat) (p : PTag) (sup : Bool) : State :=
  let c := s.cluster cl
  let x := c.xcounter i
  if !x.en || (!sup && x.tag != p) then s.dropPulse p else s.setCluster cl { c with xcnt := Tab.set c.xcnt i (x.add k) }

/-- The tag of a share (R313). -/
def Cluster.shareTag (c : Cluster) (sh : Fin 2) : PTag := if sh = 0 then c.zshare.setWidth 6 else c.zshare.extractLsb' 56 6

/-- A counter counts the matrix pulses of a share (R375). -/
def XCounter.counts (x : XCounter) (sh : Fin 2) : Bool := x.en && x.mp && (x.ms == (sh == 1))

/-- A matrix pulse of a share reaches every enabled counter that counts it; one of another tag drops it (R375). DEDUCED (log 143). -/
def State.matrixCount (s : State) (cl : Nat) (sh : Fin 2) : State :=
  let c := s.cluster cl
  let p := c.shareTag sh
  let hit := fun (e : Nat × XCounter) => if e.2.counts sh && e.2.tag == p then (e.1, e.2.add 1) else e
  let s1 := s.setCluster cl { c with xcnt := c.xcnt.map hit }
  (c.xcnt.filter fun e => e.2.counts sh && e.2.tag != p).foldl (fun s _ => s.dropPulse p) s1

/-- One thing that reaches an edge is applied: a configuration (R383), or a pulse. -/
def State.applyPulse (cl : Nat) (s : State) : Pulse → State
  | .counter i w =>
    let c := s.cluster cl
    s.setCluster cl { c with xcnt := Tab.set c.xcnt i.val ((c.xcounter i.val).ofWord w) }
  | .term i w thr =>
    let c := s.cluster cl
    s.setCluster cl { c with xterm := Tab.set c.xterm i.val ((c.xtermAt i.val).ofWords w thr) }
  | .edge => s
  | .command i p sup => s.pulseCounter cl i.val 1 p sup
  | .matrix sh => s.matrixCount cl sh
  | .signal _ i k p sup => s.pulseCounter cl i.val k.toNat p sup

/-- The order in which one edge applies what reaches it (R376): configurations, commands, the array, then cores by index. -/
def Pulse.rank : Pulse → Nat
  | .counter .. | .term .. | .edge => 0
  | .command .. => 1
  | .matrix _ => 2
  | .signal n .. => 3 + indexOf n

/-- Slot j of a term: its counter and threshold. -/
def XTerm.slotCounter (x : XTerm) (j : Nat) : Nat := (x.sel.extractLsb' (4 * j) 4).toNat
def XTerm.slotThreshold (x : XTerm) (j : Nat) : Nat := (x.thr.extractLsb' (16 * j) 16).toNat
/-- The valid slots of a term. -/
def XTerm.slots (x : XTerm) : List Nat := (List.range 4).filter fun j => x.v.getLsbD j

/-- The satisfied slots of a term, in ascending order, each after the thresholds of those before it (R376). -/
def XTerm.satisfied (x : XTerm) (count : Nat → Nat) : List Nat :=
  x.slots.foldl (fun (acc : List Nat) j =>
    let used := (acc.filter fun i => x.slotCounter i == x.slotCounter j).foldl (fun u i => u + x.slotThreshold i) 0
    if used + x.slotThreshold j ≤ count (x.slotCounter j) then acc ++ [j] else acc) []

/-- A term's condition holds: it is enabled, has a valid slot and an armed command (R376). -/
def XTerm.fires (x : XTerm) (count : Nat → Nat) : Bool :=
  let sat := x.satisfied count
  x.en && !x.slots.isEmpty && !x.armed.isEmpty &&
    (if x.orC then !sat.isEmpty else sat.length == x.slots.length)

/-- A cluster's counts. -/
def Cluster.count (c : Cluster) (i : Nat) : Nat := (c.xcounter i).count.toNat

/-- Evaluates one term (R376): where it fires, the counters lose its thresholds and its oldest armed command starts. -/
def State.evalTerm (cl : Nat) (s : State) (t : Nat) : State :=
  let c := s.cluster cl
  let x := c.xtermAt t
  if !x.fires c.count then s
  else
    let cnt := (x.satisfied c.count).foldl (fun (m : List (Nat × XCounter)) j =>
      let y := Tab.get {} m (x.slotCounter j)
      Tab.set m (x.slotCounter j) { y with count := y.count - BitVec.ofNat 32 (x.slotThreshold j) }) c.xcnt
    let s := s.setCluster cl { c with xcnt := cnt, xterm := Tab.set c.xterm t { x with armed := x.armed.drop 1 } }
    match x.armed.head? with
    | none => s
    | some (n, cls, seq) => s.startCmd n cls seq

/-- A pulse is bound for a counter of a context: its sender's, or for a sender in supervisor mode, the context's that has the counter; the
array's pulses are those of its own share. -/
def Pulse.boundFor (x : Ctx) : Pulse → Bool
  | .command i p sup | .signal _ i _ p sup => if sup then x.xcnt.any fun e => e.1 == i.val else p == x.ptag
  | .matrix _ | .counter .. | .term .. | .edge => false
/-- A pulse is held while the context that it is bound for is out (R384, R467). -/
def State.pulseHeld (s : State) (cl : Nat) (x : Pulse) : Bool := s.outCtxs.any fun e => e.1 == cl && x.boundFor e.2

/-- What is to reach the crossbar, without what is held. -/
def State.pulsesDue (s : State) (cl : Nat) : List (Nat × Pulse) := (s.cluster cl).pulses.filter fun x => !s.pulseHeld cl x.2

/-- An edge of the crossbar applies `ps` in the order of R376, evaluates the terms in ascending order, and where a term fired, there is
an edge at `again`. -/
def State.xbarEdge (s : State) (cl again : Nat) (ps : List Pulse) : State :=
  let s1 := (ps.mergeSort fun x y => decide (x.rank ≤ y.rank)).foldl (State.applyPulse cl) s
  let c1 := s1.cluster cl
  let fired := (List.range 32).any fun t => (c1.xtermAt t).fires c1.count
  let s2 := (List.range 32).foldl (State.evalTerm cl) s1
  if fired then s2.pulse cl again .edge else s2

/-- XBAR_PULSE_ARRIVE (R376): the crossbar's next edge at which something reaches it, or with nothing on its way an edge at the clk of the
state. -/
def execXbarPulseArrive (cl : Nat) (s : State) : Host.Outcome State Fault Refusal :=
  let c := s.cluster cl
  let due := s.pulsesDue cl
  let t := (due.map (·.1)).min?.getD s.clk
  let now := fun (x : Nat × Pulse) => x.1 == t && !s.pulseHeld cl x.2
  .next ((s.setCluster cl { c with pulses := c.pulses.filter fun x => !now x }).xbarEdge cl (t + 1) ((c.pulses.filter now).map (·.2)))

def execEvxcfgC (h : Hdr) (a : GReg) (i : BitVec 4) (s : State) : Host.Outcome State Fault Refusal :=
  issueWord h 0 0 0 { srcs := [opG a] } (fun s =>
    if s.xbarDenied false i.toNat then .trap s .bounds (xbarVal false i.toNat) 0
    else .done (s.pulse (clusterOf s.cur) (s.cc.tmg.clk + 1) (.counter i.toFin (s.cc.rdG a)))) s

def execEvxcfgT (h : Hdr) (a b : GReg) (i : BitVec 5) (s : State) : Host.Outcome State Fault Refusal :=
  issueWord h 0 0 0 { srcs := [opG a, opG b] } (fun s =>
    if s.xbarDenied true i.toNat then .trap s .bounds (xbarVal true i.toNat) 0
    else .done (s.pulse (clusterOf s.cur) (s.cc.tmg.clk + 1) (.term i.toFin (s.cc.rdG a) (s.cc.rdG b)))) s

def execEvxcfgR (h : Hdr) (d : GReg) (term : Bool) (i : BitVec 5) (s : State) : Host.Outcome State Fault Refusal :=
  issueWord h 0 0 0 { dsts := [opG d] } (fun s =>
    let c := s.cluster (clusterOf s.cur)
    if s.xbarDenied term i.toNat then .trap s .bounds (xbarVal term i.toNat) 0
    else
      let w := if term then (c.xtermAt i.toNat).word else (c.xcounter i.toNat).word
      .done (s.setCc (s.cc.result s.cc.tmg.clk 2 (.g d w)))) s

/-- EVSIG.PULSE (R236, R376): k pulses to a counter of the cluster at the second edge after its issue; a count of 0 has no effect. -/
def execEvsigPulse (h : Hdr) (c : BitVec 4) (cnt : BitVec 16) (s : State) : Host.Outcome State Fault Refusal :=
  issueWord h 0 0 0 {} (fun s =>
    if cnt = 0 then .done s
    else .done (s.pulse (clusterOf s.cur) (s.cc.tmg.clk + 2) (.signal s.cur c.toFin cnt s.cc.ptag s.cc.regs.trap.sup))) s

end Sys2Proof.Machine
end

