-- ==== Sys2Proof/Machine/Atomics.lean ====
section
/-! DEFINITION. Atomics, opcodes 0x28 to 0x2A (R218 to R227). -/
namespace Sys2Proof.Machine
open Sys2Proof

/-- The sum of an atomic FADD (R226): RNE, whatever XSTAT, SRSTATE and OVT hold, and no flags. -/
def atomicFadd (f : Fmt) (x y : Nat) : Nat := (roundWith f 1 modeRNE 0 ((f.value x).add false (f.value y))).1

/-- op(old, b) over n-bit values (R225). -/
def amoOp {n : Nat} (f : Fmt) (op : BitVec 4) (x y : BitVec n) : BitVec n :=
  match op.toNat with
  | 0 => y
  | 1 => x + y
  | 2 => x &&& y
  | 3 => x ||| y
  | 4 => x ^^^ y
  | 5 => if y.slt x then y else x
  | 6 => if y.ult x then y else x
  | 7 => if x.slt y then y else x
  | 8 => if x.ult y then y else x
  | _ => BitVec.ofNat n (atomicFadd f x.toNat y.toNat)

/-- The new value in memory of AMO and RED, at the size of the form. -/
def amoNew (op : BitVec 4) (dbl : Bool) (old b : Word) : Word :=
  if dbl then amoOp fp64 op old b else (amoOp fp32 op (lowW old) (lowW b)).setWidth 64
/-- The new value in memory of CAS (R225): b where the old value equals the compared one. -/
def casNew (dbl : Bool) (cmp old b : Word) : Word :=
  if dbl then (if old = cmp then b else old)
  else if lowW old = lowW cmp then (lowW b).setWidth 64 else old
/-- The old value as it is returned (R225). -/
def amoExtend (op : BitVec 4) (dbl : Bool) (old : Word) : Word :=
  if dbl then old else if op = 9 then (lowW old).setWidth 64 else fromW (lowW old)

/-- One atomic of the current core (R218, R225, R250): `f` gives the new value from the old one, `out` the register write
from it. On a fenced stack it is discarded and charged, and no rule states the old value (R533, log 20). -/
def atomicEff (ins : Instr) (scope : BitVec 3) (dbl : Bool) (x : Word) (f : Word → Word) (out : Word → Option Wr)
    (s : State) : Eff :=
  let n := s.cur
  let len := if dbl then 8 else 4
  let ret := fun (s : State) (old : Word) => match out old with
    | some w => Eff.done (s.setCc (s.cc.slipResult w))
    | none => Eff.done s
  if s.scopeDenied scope then .trap s .scope (scope.setWidth 64) 0
  else if s.rangeHeld x len then holdOn s x len
  else if x.getLsbD 56 then
    match s.checkLocal n (!s.cc.regs.trap.sup) x len len with
    | .error k => .trap s k x 0
    | .ok (.evu _) => .trap s .bounds x 0
    | .ok p =>
      let r := s.touch n p len
      if r.2 then .trap r.1 .poison x 0
      else
        let old := (ofBytes 64 (r.1.readPlace len p))
        ret (storePlace p (toBytes len (f old)) r.1) old
  else match s.xlateChecked n x len len .atomic with
    | .error e => xerr s ins 0 e
    | .ok (pa, leaf) =>
      if s.stackLost pa then ret { s.lostWrite n pa with draws := s.draws + 1 } (Config.freeWord s.draws)
      else if s.globalBad pa len then .trap (s.badRead n true) .poison x 0
      else
        let s1 := s.gain pa (leafPolicy leaf) true
        let old := ofBytes 64 (s1.physBytes pa len)
        ret (s1.storeHome n pa (leafPolicy leaf) (toBytes len (f old))) old

def amoEff (ins : Instr) (op : BitVec 4) (d a b : GReg) (sz : BitVec 2) (scope : BitVec 3) (imm : BitVec 32)
    (s : State) : Eff :=
  let dbl := sz == 3
  let y := s.cc.rdG b
  atomicEff ins scope dbl (s.cc.addr a imm) (fun old => amoNew op dbl old y)
    (fun old => some (.g d (amoExtend op dbl old))) s
def casEff (ins : Instr) (d a b : GReg) (sz : BitVec 2) (scope : BitVec 3) (imm : BitVec 32) (s : State) : Eff :=
  let dbl := sz == 3
  let y := s.cc.rdG b
  let cmp := s.cc.rdG d
  atomicEff ins scope dbl (s.cc.addr a imm) (fun old => casNew dbl cmp old y)
    (fun old => some (.g d (amoExtend 0 dbl old))) s
def redEff (ins : Instr) (op : BitVec 4) (a b : GReg) (sz : BitVec 2) (scope : BitVec 3) (imm : BitVec 32)
    (s : State) : Eff :=
  let dbl := sz == 3
  let y := s.cc.rdG b
  atomicEff ins scope dbl (s.cc.addr a imm) (fun old => amoNew op dbl old y) (fun _ => none) s

def execAmo (h : Hdr) (op : BitVec 4) (d a b : GReg) (sz : BitVec 2) (scope : BitVec 3) (imm : BitVec 32)
    (s : State) : Host.Outcome State Fault Refusal :=
  issueWord h 0 0 0 { srcs := [opG a, opG b], dsts := [opG d] }
    (amoEff (.amo h op d a b sz scope imm) op d a b sz scope imm) s
def execCas (h : Hdr) (d a b : GReg) (sz : BitVec 2) (scope : BitVec 3) (imm : BitVec 32) (s : State) :
    Host.Outcome State Fault Refusal :=
  issueWord h 0 0 0 { srcs := [opG a, opG b, opG d], dsts := [opG d] }
    (casEff (.cas h d a b sz scope imm) d a b sz scope imm) s
def execRed (h : Hdr) (op : BitVec 4) (a b : GReg) (sz : BitVec 2) (scope : BitVec 3) (imm : BitVec 32)
    (s : State) : Host.Outcome State Fault Refusal :=
  issueWord h 0 0 0 { srcs := [opG a, opG b] } (redEff (.red h op a b sz scope imm) op a b sz scope imm) s

end Sys2Proof.Machine
end

