-- ==== Sys2Proof/Machine/Messages.lean ====
section
/-! DEFINITION. Channels, phases and timed communication, opcodes 0x30 to 0x34 (R386 to R408). -/
namespace Sys2Proof.Machine
open Sys2Proof

/-- The XVAL of CHANNEL (R408). -/
def channelVal (reason index : Nat) : Word := BitVec.ofNat 64 (256 * reason + index)
/-- The XVAL of SLOT (R408). -/
def slotVal (offset reason k : Nat) : Word := BitVec.ofNat 64 (65536 * min offset 0xFFFFFFFF + 256 * reason + k)

/-- Changes the channels and slots of a core. -/
def State.onComm (s : State) (n : Nat) (f : Comm → Comm) : State :=
  let c := s.core n
  s.setCore n { c with comm := f c.comm }
def Comm.setChan (c : Comm) (i : Fin 16) (x : Option Chan) : Comm := { c with chans := c.chans.set i x }
def Comm.setSlot (c : Comm) (i : Fin 16) (x : RSlot) : Comm := { c with slots := c.slots.set i x }

/-- Sends a packet to the core of a logical number in a partition; a core of another package is reached outside this one. -/
def State.sendLcn (s : State) (n : Nat) (p : Option PTag) (l : Nat) (sup : Bool) (ev : Nat → Instr) : State :=
  match s.ofLcn p l with
  | some t => s.send n t sup (ev t)
  | none => s.report (.remote l (ev l))

/-- A logical number lies in the core set of a partition (R391). DEDUCED (log 82). -/
def State.inCoreSet (s : State) (p : PTag) (l : Nat) : Bool :=
  match s.ofLcn (some p) l with
  | some n => s.inPartition p n
  | none => s.farCore p l

/-! ## Channels (R390 to R396) -/

/-- The effect of CHDECL: the channel's declaration is in flight until its answer arrives. -/
def declareEff (d a : GReg) (ch slot : Fin 16) (s : State) : Eff :=
  let n := s.cur
  let c := s.cc
  let l := (c.rdG a).toNat
  if (c.comm.chans[ch]).isSome then .trap s .channel (channelVal 1 ch.val) 0
  else match c.ctag with
    | none => .trap s .channel (channelVal 2 ch.val) 0
    | some p =>
      if !s.coreExists (some p) (c.rdG a) || !s.inCoreSet p l then .trap s .channel (channelVal 2 ch.val) 0
      else
        let s := s.onComm n fun k => k.setChan ch (some { dst := l, slot := slot, credit := false, pending := true, decl := s.nextId })
        let s := s.setCc (s.cc.setTmg fun m => { m with owed := m.owed ++ [opG d] })
        let m : Claim := { rel := false, src := s.lcn n, ch := ch, dst := 0, slot := slot, gdst := d, tag := c.ctag, decl := s.nextId }
        .done (s.sendLcn n c.ctag l c.regs.trap.sup fun t => .channelClaim { m with dst := t })

def execChdecl (h : Hdr) (d a : GReg) (ch slot : BitVec 4) (s : State) : Host.Outcome State Fault Refusal :=
  issueWord h 0 0 0 { srcs := [opG a], dsts := [opG d] } (declareEff d a ch.toFin slot.toFin) s

/-- CHDECL.REL (R392): the slot is empty once the channel's credit has come back. DEDUCED (log 80). -/
def execChdeclRel (h : Hdr) (ch : BitVec 4) (s : State) : Host.Outcome State Fault Refusal :=
  issueWord h 0 0 0 {} (fun s =>
    let n := s.cur
    let c := s.cc
    match c.comm.chans[ch.toFin] with
    | none => .trap s .channel (channelVal 0 ch.toNat) 0
    | some x =>
      if x.pending then .stall s
      else if !x.credit then .point s
      else
        let m : Claim := { rel := true, src := s.lcn n, ch := ch.toFin, dst := 0, slot := x.slot, gdst := 0, tag := c.ctag }
        .done ((s.onComm n fun k => k.setChan ch.toFin none).sendLcn n c.ctag x.dst c.regs.trap.sup fun t =>
          .channelClaim { m with dst := t })) s

/-- Barriers that waited for a message, claim or grant of a core are looked at again (R242). -/
def State.landed (s : State) (p : Option PTag) (src : Nat) : State :=
  match s.ofLcn p src with
  | some n => s.recheckBarriers (clusterOf n)
  | none => s

/-- CHANNEL_CLAIM (R391, R392): a free slot takes the owner; a release frees its own. -/
def execChannelClaim (m : Claim) (s : State) : Host.Outcome State Fault Refusal :=
  let x := (s.core m.dst).comm.slots[m.slot]
  if m.rel then
    .next ((if x.owner = some (m.src, m.ch) then s.onComm m.dst fun c => c.setSlot m.slot {} else s).landed m.tag m.src)
  else
    let free := x.owner.isNone
    let s := if free then s.onComm m.dst fun c => c.setSlot m.slot { owner := some (m.src, m.ch) } else s
    .next (s.sendLcn m.dst m.tag m.src (s.core m.dst).regs.trap.sup fun _ => .channelClaimAnswer m free)

/-- A declaration that its task has not lived to see answered (R391): the slot that it took is freed by a release. -/
def State.undeclare (s : State) (n : Nat) (m : Claim) (granted : Bool) : State :=
  if granted then s.send n m.dst (s.core n).regs.trap.sup (.channelClaim { m with rel := true }) else s

/-- CHANNEL_CLAIM_ANSWER (R391): the channel becomes valid or stays free, and the result is written. The answer to a declaration whose
task has been abandoned, or whose launch has ended, leaves the core as it is. DEDUCED (log 80). -/
def execChannelClaimAnswer (m : Claim) (granted : Bool) (s : State) : Host.Outcome State Fault Refusal :=
  match s.ofLcn m.tag m.src with
  | none => .next s
  | some n =>
    let c := s.core n
    match (c.comm.chans[m.ch]).filter fun x => x.pending && x.decl == m.decl with
    | none => .next ((s.undeclare n m granted).recheckBarriers (clusterOf n))
    | some x =>
      let c := { c with comm := c.comm.setChan m.ch (if granted then some { x with credit := true, pending := false } else none) }
      let c := (c.slipResult (.g m.gdst (if granted then 1 else 0))).setTmg fun t => { t with owed := t.owed.erase (opG m.gdst) }
      .next ((s.setCore n c).recheckBarriers (clusterOf n))

/-- The logical time of a message (R397): the sender's clock moves. -/
def State.messageTime (s : State) : State × Nat := (s.setCc { s.cc with lt := s.cc.lt + 1 }, s.cc.lt + 1)

/-- The message of a register (R393, R404). -/
def messageOf (l : Nat) (ch : Fin 16) (v : VR) (time clk : Nat) : ChanMsg :=
  { src := l, ch := ch, data := v.bits.setWidth 512, tag := v.tag, time := time, clk := clk }

/-- DEDUCED (log 83). -/
def execChsend (h : Hdr) (b : VReg) (ch : BitVec 4) (s : State) : Host.Outcome State Fault Refusal :=
  issueWord h 0 0 (opV b) { srcs := [opV b] } (noStream [opV b] fun s =>
    let n := s.cur
    let c := s.cc
    if c.regs.trap.phase = 1 then .trap s .channel (channelVal 4 ch.toNat) 0
    else match c.comm.chans[ch.toFin] with
    | none => .trap s .channel (channelVal 0 ch.toNat) 0
    | some x =>
      if x.pending then .stall s
      else match poisonCheck 3 (c.rdV b) with
      | some y => .trap s .poison y 0
      | none =>
        if !x.credit then .stall s
        else
          let r := s.messageTime
          let s := r.1.onComm n fun k => k.setChan ch.toFin (some { x with credit := false })
          .done (s.sendLcn n c.ctag x.dst c.regs.trap.sup fun t =>
            .channelMessageLand t x.slot (messageOf (s.lcn n) ch.toFin (c.rdV b) r.2 0))) s

/-- The register that a message fills (R395): lanes 0 to 7, then zero; an M64 tag is checked against the core's set. -/
def Core.messageReg (c : Core) (m : ChanMsg) : VR :=
  let bits : VData := m.data.setWidth 1024
  ⟨bits, c.imageTag m.tag bits⟩

/-- A core reads a full slot (R395): the register and its time; the slot empties and the sender is granted its credit. -/
def State.receive (s : State) (n : Nat) (slot : Fin 16) (d : VReg) : State :=
  let c := s.core n
  let x := c.comm.slots[slot]
  let c := c.slipResult (.v d (c.messageReg x.msg))
  let s := s.setCore n { c with lt := max c.lt x.msg.time, comm := c.comm.setSlot slot { x with full := false } }
  match x.owner with
  | none => s
  | some (l, ch) => s.sendLcn n c.ctag l c.regs.trap.sup fun t => .channelGrant t ch

def execChrecv (h : Hdr) (d : VReg) (slot : BitVec 4) (s : State) : Host.Outcome State Fault Refusal :=
  issueWord h (opV d) 0 0 { dsts := [opV d] } (noStream [opV d] fun s =>
    let x := s.cc.comm.slots[slot.toFin]
    if x.owner.isNone then .trap s .channel (channelVal 3 slot.toNat) 0
    else if x.full then .done (s.receive s.cur slot.toFin d)
    else .sleep (s.setCc { s.cc with wait := .slot slot.toFin d })) s

def execChpoll (h : Hdr) (d : VReg) (slot : BitVec 4) (pf : PReg) (s : State) : Host.Outcome State Fault Refusal :=
  issueWord h (opV d) 0 0 { dsts := [opV d, opP pf] } (noStream [opV d] fun s =>
    let x := s.cc.comm.slots[slot.toFin]
    if x.owner.isNone then .trap s .channel (channelVal 3 slot.toNat) 0
    else
      let s := if x.full then s.receive s.cur slot.toFin d else s
      .done (s.setCc (s.cc.slipResult (.p pf x.full)))) s

/-- CHANNEL_MESSAGE_LAND (R388, R394, R395): the message fills its slot, or is held in a compute phase; a core asleep on the
slot wakes, and issues its next word 2 clk later as its clock was stopped (R235). A message whose channel no longer owns the slot has nowhere to land. DEDUCED (log 81). -/
def execChannelMessageLand (core : Nat) (slot : Fin 16) (m : ChanMsg) (s : State) : Host.Outcome State Fault Refusal :=
  let c := s.core core
  let x := c.comm.slots[slot]
  let p := c.ctag
  if x.owner ≠ some (m.src, m.ch) then .next (s.landed p m.src)
  else if c.regs.trap.phase = 1 then .next ((s.onComm core fun k => k.setSlot slot { x with held := some m }).landed p m.src)
  else
    let s := s.onComm core fun k => k.setSlot slot { x with full := true, msg := m }
    let s := match c.wait with
      | .slot i d => if i = slot then
          (s.receive core slot d).wakeWith core (s.clk + 2) fun c => c.complete c.tmg.clk c.waitStall else s
      | _ => s
    .next (s.landed p m.src)

/-- CHANNEL_GRANT (R395): the sender's credit comes back. -/
def execChannelGrant (core : Nat) (ch : Fin 16) (s : State) : Host.Outcome State Fault Refusal :=
  match (s.core core).comm.chans[ch] with
  | none => .next s
  | some x =>
    let s := s.onComm core fun c => c.setChan ch (some { x with credit := true })
    .next ((s.cores.map fun e => clusterOf e.1).eraseDups.foldl State.recheckBarriers s)

/-! ## PHASE (R387, R389) -/

def execPhase (h : Hdr) (b : BitVec 5) (s : State) : Host.Outcome State Fault Refusal :=
  if !s.cc.regs.trap.tim then decodeTrap s .illegalOpc 0x08
  else issueWord h 0 0 0 {} (fun s =>
    if s.cc.regs.trap.phase ≠ 1 then .trap s .channel (channelVal 4 b.toNat) 0
    else arriveAt (.bar h b) b none none true .phase s) s

/-! ## Timed sends and receives (R400, R403 to R405) -/

/-- The index that CHANNEL's XVAL holds for a form that names no channel, slot or barrier: no rule gives one (log 19). -/
def timedChannelTrap (s : State) : Eff :=
  .trap { s with draws := s.draws + 1 } .channel (channelVal 4 (Config.channelIndex s.draws).toNat) 0

/-- The checks of a timed form (R387, R403), and its entry. -/
def timedEntry (k : BitVec 8) (send : Bool) (s : State) (go : SchedEntry → Eff) : Eff :=
  let c := s.cc
  let off := c.tmg.clk - c.comm.t0
  if c.regs.trap.phase ≠ 2 then timedChannelTrap s
  else match c.comm.sched[k.toNat]? with
    | none => .trap s .slot (slotVal off 0 k.toNat) 0
    | some e =>
      if e.send != send then .trap s .slot (slotVal off 1 k.toNat) 0
      else if c.tmg.clk ≠ c.comm.t0 + e.offset then .trap s .slot (slotVal off 2 k.toNat) 0
      else go e

def execTsend (h : Hdr) (b : VReg) (k : BitVec 8) (s : State) : Host.Outcome State Fault Refusal :=
  if !s.cc.regs.trap.tim then decodeTrap s .illegalOpc 0x08
  else issueWord h 0 0 (opV b) { srcs := [opV b] } (noStream [opV b] fun s => timedEntry k true s fun e =>
    let n := s.cur
    let c := s.cc
    match poisonCheck 3 (c.rdV b) with
    | some y => .trap s .poison y 0
    | none =>
      let r := s.messageTime
      match s.ofLcn c.ctag e.peer with
      | none => .done r.1
      | some t =>
        let T := c.comm.t0 + e.offset + timedLatency n t
        .done (r.1.sendAt T n t c.ptag c.regs.trap.sup (.timedMessageLand t e.land (messageOf (s.lcn n) 0 (c.rdV b) r.2 T)))) s

/-- TIMED_MESSAGE_LAND (R388, R404): the landing entry becomes valid; a message lands only in COMM. -/
def execTimedMessageLand (core : Nat) (land : Fin 16) (m : ChanMsg) (s : State) : Host.Outcome State Fault Refusal :=
  if (s.core core).regs.trap.phase = 2 then .next (s.onComm core fun k => { k with landing := k.landing.set land (some m) })
  else .next s

/-- A timed message whose clk is at hand for a word of core n at clk t, though the device has not reached that clk: one that passes the
router's check (R477). -/
def State.arriving (s : State) (n : Nat) (land : Fin 16) (t : Nat) : Option ChanMsg :=
  (s.net.filterMap fun k => match k.ev with
    | .timedMessageLand m l x => if m = n ∧ l = land ∧ k.due ≤ t ∧ s.admits k = true then some x else none
    | _ => none).getLast?

/-- TRECV (R404): a landing is valid from its message's clk on. DEDUCED (log 57). -/
def execTrecv (h : Hdr) (d : VReg) (k : BitVec 8) (s : State) : Host.Outcome State Fault Refusal :=
  if !s.cc.regs.trap.tim then decodeTrap s .illegalOpc 0x08
  else issueWord h (opV d) 0 0 { dsts := [opV d] } (noStream [opV d] fun s => timedEntry k false s fun e =>
    let c := s.cc
    match (s.arriving s.cur e.land c.tmg.clk).or (c.comm.landing[e.land]) with
    | some m => .done (s.setCc ({ c with lt := max c.lt m.time }.result c.tmg.clk 3 (.v d (c.messageReg m))))
    | none => .done (s.setCc (c.result c.tmg.clk 3 (.v d ⟨0, poisonTag⟩)))) s

end Sys2Proof.Machine
end

