-- ==== Sys2Proof/Machine/Queues.lean ====
section
/-! DEFINITION. Domain records as memory holds them, task queues, the start and the end of a task, and the queue events (R412,
R413, R416 to R422, R426 to R428, R430). -/
namespace Sys2Proof.Machine
open Sys2Proof

/-! ## Check sums and records -/

/-- CRC-32 of R53 over bytes. -/
def crc32Byte (c : BitVec 32) (b : Byte) : BitVec 32 :=
  (List.range 8).foldl (fun (x : BitVec 32) _ => if x.getLsbD 0 then (x >>> 1) ^^^ 0xEDB88320#32 else x >>> 1)
    (c ^^^ b.setWidth 32)
/-- The sum after more bytes. Each byte's sum is a number before the next one is taken, so that a long string stays easy to evaluate. -/
def crc32From (c : BitVec 32) : List Byte → BitVec 32
  | [] => c
  | b :: bs => match (crc32Byte c b).toNat with
    | 0 => crc32From 0 bs
    | n + 1 => crc32From (BitVec.ofNat 32 (n + 1)) bs
/-- DEDUCED (log 141). -/
def crc32 (bs : List Byte) : BitVec 32 := ~~~(crc32From 0xFFFFFFFF#32 bs)
theorem crc32From_eq (c : BitVec 32) (bs : List Byte) : crc32From c bs = bs.foldl crc32Byte c := by
  induction bs generalizing c with
  | nil => rfl
  | cons b bs ih =>
    have h : BitVec.ofNat 32 (crc32Byte c b).toNat = crc32Byte c b := by simp
    rw [crc32From, List.foldl_cons, ← ih, ← h]
    split <;> simp_all

/-- crc64_fold (R430). -/
def crc64Fold (s : Word) (b : Byte) : Word :=
  (List.range 8).foldl (fun (x : Word) _ => if x.getLsbD 63 then (x <<< 1) ^^^ 0x42F0E1EBA9EA3693#64 else x <<< 1)
    (s ^^^ (b.setWidth 64 <<< 56))

/-- A field of a record, and a record with a field replaced. -/
def recGet (bs : List Byte) (off n : Nat) : Word := ofBytes 64 ((bs.drop off).take n)
def recPut (bs : List Byte) (off n : Nat) (x : Word) : List Byte := bs.take off ++ toBytes n x ++ bs.drop (off + n)

/-- The fields of a domain record (R427): offsets. -/
def recState : Nat := 0x00
def recRetry : Nat := 0x01
def recFlg : Nat := 0x02
def recParent : Nat := 0x08
def recEntry : Nat := 0x10
def recKeepA : Nat := 0x30
def recKeepL : Nat := 0x38
def recKeepU : Nat := 0x40
def recSig : Nat := 0x48
def recNtask : Nat := 0x50
def recOwner : Nat := 0x58

/-! ## Launches and partitions -/

def State.launch? (s : State) (l : Nat × Nat) : Option Launch := s.launches.find? fun x => x.vdev == l.1 && x.lid == l.2
def State.putLaunch (s : State) (x : Launch) : State :=
  { s with launches := s.launches.map fun y => if y.vdev == x.vdev && y.lid == x.lid then x else y }
def State.onLaunch (s : State) (l : Option (Nat × Nat)) (f : Launch → Launch) : State :=
  match l.bind s.launch? with
  | some x => s.putLaunch (f x)
  | none => s
/-- The fields of a launch header (R409). -/
def Launch.field (x : Launch) (off n : Nat) : Nat := (x.hdr.extractLsb' (8 * off) (8 * n)).toNat
def Launch.ptag (x : Launch) : PTag := x.hdr.extractLsb' 48 6
def Launch.cdrec (x : Launch) : Word := x.hdr.extractLsb' (8 * 0x58) 64
def Launch.bulk (x : Launch) : Bool := x.field 0 1 == 2
/-- The sum of the widths of the fields below i (R410). -/
def Launch.low (x : Launch) (i : Nat) : Nat := ((List.range i).map fun k => if k < 6 then x.field (8 + k) 1 else 0).foldl (· + ·) 0
/-- The group of a WID at a level (R412). -/
def Launch.group (x : Launch) (level : Nat) (w : Nat) : Nat := if 64 ≤ x.low level then 0 else w / 2 ^ x.low level
/-- Field i of a WID (R412). -/
def Launch.widField (x : Launch) (i : Nat) (w : Word) : Word :=
  if x.field 1 1 ≤ i then 0 else BitVec.ofNat 64 (w.toNat / 2 ^ x.low i % 2 ^ x.field (8 + i) 1)

/-- The cores of a partition, in ascending physical number. -/
def State.partCores (s : State) (p : PTag) : List Nat :=
  (((s.cores.map (·.1)) ++ (s.assign.map (·.1))).eraseDups.filter fun n => s.inPartition p n && !s.isServer n).mergeSort
    fun a b => decide (a ≤ b)
/-- A core with a live context of a partition, through which the hardware reaches its memory. -/
def State.actor (s : State) (p : PTag) : Option Nat := (s.partCores p).find? fun n => (s.core n).ctag == some p
/-- The agent of the launch machinery for a partition (R191, R410), by the tables of its lowest live core, else of a core of
a context that is out. DEDUCED (log 99). -/
def State.partAgent (s : State) (p : PTag) : Option Agent :=
  match s.actor p with
  | some n => some { core := n, root := (s.core n).root, vsid := (s.core n).vsid, xlate := (s.core n).xlate, ordered := true }
  | none => (s.outCtxs.find? fun x => x.2.ptag == p).bind fun x => x.2.cores.head?.map fun c =>
      { core := x.1 * 24 + c.2.1, root := c.2.2.root, vsid := c.2.2.vsid, xlate := c.2.2.xlate, ordered := true }

/-! ## The hardware's own accesses (R197, R427) -/

/-- Why an access of the hardware on its own does not go on. -/
inductive HwErr where
  | access | double | poison | noMemory (pa : Nat)
  deriving DecidableEq, Repr

/-- The translation of a supervisor access that the hardware makes for a core's partition, with the page's policy. -/
def State.hwPa (s : State) (n va : Nat) (write : Bool) : Except HwErr (Nat × Policy) :=
  if !(s.core n).xlate then .error .access
  else match s.translate n va with
    | .fault _ _ => .error .double
    | .page level leaf =>
      if !leafOk leaf (if write then .write else .read) false then .error .access
      else if !physOk (leafPa level leaf va) then .error (.noMemory (leafPa level leaf va))
      else .ok (leafPa level leaf va, leafPolicy leaf)

/-- The translation of an access that reads and writes (R427). -/
def State.hwPaEdit (s : State) (n va : Nat) : Except HwErr (Nat × Policy) :=
  match s.hwPa n va false with
  | .error e => .error e
  | .ok _ => s.hwPa n va true

/-- Reads a record of up to 128 bytes inside one line on the core path of core n (R213, R427). -/
def State.hwRead (s : State) (n : Nat) (a : Word) (len : Nat) : Except HwErr (State × List Byte) :=
  match s.hwPa n a.toNat false with
  | .error e => .error e
  | .ok x => if s.readBad n x.1 len x.2 then .error .poison else .ok (s.readGlobal n x.1 len x.2)
/-- Reads a record that the same instruction then changes (R449): its rights come before an uncorrectable word. -/
def State.hwReadToEdit (s : State) (n : Nat) (a : Word) (len : Nat) : Except HwErr (State × List Byte) :=
  match s.hwPaEdit n a.toNat with
  | .error e => .error e
  | .ok x => if s.readBad n x.1 len x.2 then .error .poison else .ok (s.readGlobal n x.1 len x.2)
/-- Writes bytes inside one line on the core path of core n. -/
def State.hwWrite (s : State) (n : Nat) (a : Word) (bs : List Byte) : Except HwErr State :=
  match s.hwPa n a.toNat true with
  | .error e => .error e
  | .ok x => .ok (s.writeGlobal n x.1 x.2 bs)
/-- The bytes that a change of a record starts from: an SWM page's are those of the cluster's copy (R204). -/
def State.editBase (s : State) (n pa len : Nat) (pol : Policy) : List Byte :=
  match homePolicy pa pol with
  | .swm => copyBytes (s.fillSwm n (pa / 128)).2.data (pa % 128) len
  | _ => s.physBytes pa len
/-- Changes a domain record as one access. -/
def State.hwEdit (s : State) (n : Nat) (r : Word) (f : List Byte → List Byte) : Except HwErr State :=
  match s.hwPaEdit n r.toNat with
  | .error e => .error e
  | .ok x =>
    if s.readBad n x.1 128 x.2 then .error .poison
    else
      let s := s.gain x.1 x.2 true
      .ok (s.writeGlobal n x.1 x.2 (f (s.editBase n x.1 128 x.2)))
/-- Changes 8 bytes of a domain record by one atomic at its home, as R219 has every atomic (R447). -/
def State.hwAtomic (s : State) (n : Nat) (a : Word) (f : Word → Word) : Except HwErr State :=
  match s.hwPaEdit n a.toNat with
  | .error e => .error e
  | .ok (pa, pol) =>
    if s.stackLost pa then .ok (s.lostWrite n pa)
    else if s.globalBad pa 8 then .error .poison
    else
      let s := s.gain pa pol true
      .ok (s.storeHome n pa pol (toBytes 8 (f (ofBytes 64 (s.physBytes pa 8)))))

/-- The cores of the partition that a record belongs to, where an OS server core's instruction reaches it: those that use the same
tables (R197). DEDUCED (log 169). -/
def State.ownersOf (s : State) (n : Nat) : List Nat :=
  let k := s.core n
  if k.ctag.isSome then []
  else (s.cores.filter fun e => e.2.ctag.isSome && e.2.root == k.root && e.2.vsid == k.vsid).map (·.1)
/-- A fault of the hardware's own access to a record (R197): the partition that owns the domain halts, and the core whose instruction made
the access. -/
def State.recordFault (s : State) (n : Nat) (a : Nat) : State :=
  (s.haltFaulted (s.ownersOf n)).faultOnFault n a
/-- A fault of such an access that no core makes (R197): the partition halts. -/
def State.haltPartition (s : State) (p : PTag) (n a : Nat) : State :=
  ((s.haltFaulted ((s.cores.filter fun e => e.2.ctag == some p).map (·.1))).haltAway p).report (.double n a)
/-- A failed access of the hardware for a domain is a fault-on-fault (R197). -/
def State.orDouble (s : State) (n : Nat) (a : Word) : Except HwErr State → State
  | .ok t => t
  | .error _ => s.recordFault n a.toNat
/-- How an instruction ends whose own access to a record failed (R449). -/
def hwStop (s : State) (a : Word) : HwErr → Eff
  | .access => .trap s .access a 0
  | .double => .sleep (s.recordFault s.cur a.toNat)
  | .poison => .trap (s.badRead s.cur true) .poison a 0
  | .noMemory pa => .fault (.noPhysicalMemory pa)

/-- The core through which the hardware reaches a partition's memory: one at hand, if its context is live there, else another of the
partition. -/
def State.through (s : State) (p : PTag) (n : Nat) : Option Nat := if (s.core n).ctag = some p then some n else s.actor p
/-- The agent that reaches it while none of its contexts is live. -/
def State.recordAgent (s : State) (p : PTag) : Option Agent := (s.partAgent p).map fun g => { g with sup := true, time := s.floor }
/-- Changes a record for a partition. -/
def State.editDomain (s : State) (p : PTag) (n : Nat) (r : Word) (f : List Byte → List Byte) : State :=
  match s.through p n with
  | some m => s.orDouble m r (s.hwEdit m r f)
  | none => match s.recordAgent p with
    | none => s
    | some g => match s.agentBytes g r 128 with
      | .error e => (e.split s).1.haltPartition p g.core r.toNat
      | .ok (s1, g1, bs) => match s1.agentStore g1 r (f bs) with
        | .error e => (e.split s1).1.haltPartition p g.core r.toNat
        | .ok (s2, _) => s2
/-- Adds to a domain's NTASK (R428). -/
def addNtask (k : Word) (bs : List Byte) : List Byte := recPut bs recNtask 8 (recGet bs recNtask 8 + k)
/-- Adds to a domain's NTASK (R428); 0 names no domain. -/
def State.addTasks (s : State) (p : PTag) (n : Nat) (r : Word) (k : Word) : State :=
  if r = 0 then s else s.editDomain p n r (addNtask k)
/-- The record of a domain as memory holds it, for a decision; none where it cannot be read. -/
def State.domain? (s : State) (p : PTag) (n : Nat) (r : Word) : Option (List Byte) :=
  match s.through p n with
  | some m => match s.hwRead m r 128 with
    | .ok (_, bs) => some bs
    | .error _ => none
  | none => (s.recordAgent p).bind fun g => match s.agentBytes g r 128 with
    | .ok (_, _, bs) => some bs
    | .error _ => none

/-! ## Queues (R418 to R420) -/

def State.queue (s : State) (q : QueueId) : List QEntry := ((s.queues.find? (·.1 == q)).map (·.2)).getD []
def State.setQueue (s : State) (q : QueueId) (es : List QEntry) : State :=
  { s with queues := if s.queues.any (·.1 == q) then s.queues.map fun x => if x.1 == q then (q, es) else x
           else s.queues ++ [(q, es)] }
/-- The die queue of a core's die for a partition. -/
def State.dieQueue (s : State) (p : PTag) (n : Nat) : QueueId := .die p.toNat ((s.logicalDie (dieOf n)).getD 8)
/-- DEDUCED (log 89). -/
def localQueue (p : PTag) (n : Nat) : QueueId := .cluster p.toNat (clusterOf n)

/-- The idle cores of a partition are offered what is queued (R419). -/
def State.offer (s : State) (p : PTag) : State :=
  (s.partCores p).foldl (fun s n =>
    let c := s.core n
    if c.mode = .idle ∧ c.ctag = some p ∧ !s.pending.contains (.taskPop n) then s.owe (.taskPop n) else s) s

/-- An entry is in its queue, and idle cores look again (R418, R419). -/
def State.putEntry (s : State) (p : PTag) (q : QueueId) (e : QEntry) : State :=
  (s.setQueue q (s.queue q ++ [{ e with tick := s.ticks }])).offer p
/-- Enqueues an entry (R418, R428): its domain counts it. `n` acts for the partition. -/
def State.enqueue (s : State) (n : Nat) (p : PTag) (q : QueueId) (e : QEntry) : State :=
  (s.addTasks p n e.dom (BitVec.ofNat 64 e.left)).putEntry p q e
/-- Enqueues an entry for an instruction of core n (R449): where its domain's record cannot be reached, nothing is enqueued. -/
def State.tryEnqueue (s : State) (n : Nat) (p : PTag) (q : QueueId) (e : QEntry) : Except HwErr State :=
  if e.dom = 0 then .ok (s.putEntry p q e)
  else match s.hwEdit n e.dom (addNtask (BitVec.ofNat 64 e.left)) with
    | .error x => .error x
    | .ok s => .ok (s.putEntry p q e)

/-- The position of the entry that a pop takes from a queue: the oldest of the highest priority. -/
def bestEntry (es : List QEntry) : Option Nat :=
  match (es.map (·.prio)).max? with
  | none => none
  | some m => es.findIdx? fun e => e.prio == m

/-- The queues that a core searches, in order (R419). -/
def State.searchOrder (s : State) (p : PTag) (n : Nat) (wide : Bool) : List QueueId :=
  let cl := clusterOf n
  let first := clusterDie cl * Config.clustersPerDie
  let d := (s.logicalDie (dieOf n)).getD 8
  let others := (((List.range Config.clustersPerDie).map (first + ·)).filter (· != cl)).mergeSort fun a b =>
    decide (meshHops (a * 24) n ≤ meshHops (b * 24) n)
  let dies := ((List.range 8).filter (· != d)).mergeSort fun a b => decide (natDist a d ≤ natDist b d)
  [localQueue p n, .die p.toNat d] ++
    (if wide then others.map (fun c => QueueId.cluster p.toNat c) ++ dies.map (fun x => QueueId.die p.toNat x) else [])

/-! ## The start and the end of a task (R417, R442) -/

/-- A core starts a task or thread (R417): its registers are cleared, its time follows the record's. -/
def Core.startTask (c : Core) (t : Task) (clk : Nat) : Core :=
  let x := t.entry
  let c := c.drain
  let g : Vector Word 64 := (((Vector.replicate 64 0).set 1 x.frame).set 2 x.joina).set 3 t.wid
  let c := if t.rank.isSome then c else { c with comm := c.comm.landHeld }
  let r : Regs := { c.regs with
    pc := x.code, g := g, p := ({} : Regs).p, k := ({} : Regs).k, v := Vector.replicate 48 {},
    fp := { c.regs.fp with fflags := 0 }, loops := Vector.replicate 2 {}, strm := Vector.replicate 4 none,
    trap := { c.regs.trap with phase := if t.rank.isSome then 1 else 0, sup := false, exl := false, tim := false, xprog := 0 } }
  { c with regs := r, mode := .running, wait := .none, access := none, lt := max c.lt t.time, task := some t, doms := [],
           lid := t.launch, widened := false,
           tmg := { c.tmg with clk := max c.tmg.clk clk, obuf := [], loopBuf := none, inside := none } }

/-- A bulk thread checkpoints its first superstep as it starts (R435), under the barrier that its launch gave it. -/
def Core.startThread (c : Core) (t : Task) (clk : Nat) (bar : Nat × Nat) : Core := (c.startTask t clk).checkpoint bar

/-- A core without a task: idle, its stack, loops, streams and phase cleared (R264, R442). -/
def Core.endTask (c : Core) : Core :=
  let d := c.drain
  { d with
    mode := .idle, wait := .none, access := none, task := none, doms := [], ckpt := none, widened := false
    idleSince := d.tmg.clk
    comm := d.comm.landHeld
    regs := { d.regs with strm := Vector.replicate 4 none, loops := Vector.replicate 2 {},
                          trap := { d.regs.trap with phase := 0, sup := false, exl := false, tim := false, xprog := 0 } }
    tmg := { d.tmg with obuf := [], loopBuf := none, inside := none } }

/-- What follows when a core becomes idle: a yield request halts it (R469); its launch may be complete, the next of its
partition may activate, and it looks for work (R419, R423). -/
def State.becameIdle (s : State) (n : Nat) (l : Option (Nat × Nat)) : State :=
  let c := s.core n
  let s := if c.yieldReq then s.setCore n { c with mode := .yielded, yieldReq := false } else s.owe (.taskPop n)
  let s := match l with
    | some (v, i) => s.owe (.launchComplete ⟨v % 32, Nat.mod_lt _ (by decide)⟩ i)
    | none => s
  match c.ctag with
  | none => s
  | some p =>
    (s.launches.filter fun x => x.state == .pending && x.ptag == p).foldl
      (fun s x => s.owe (.launchActivate ⟨x.vdev % 32, Nat.mod_lt _ (by decide)⟩ x.lid)) s

/-- The task or thread of a core ends, and its gang goes on without it (R442); a core that a fault-on-fault has halted stays halted
(R197). -/
def State.leaveTask (s : State) (n : Nat) : State :=
  let c := s.core n
  let l := c.task.bind (·.launch)
  let s := s.leaveGang n (!c.regs.trap.exl)
  let s' := s.setCore n (s.core n).endTask
  if c.mode = .faulted then s'.setCore n { s'.core n with mode := .faulted } else s'.becameIdle n l
/-- The task or thread of a core ends (R442): its inherited domain counts one task less. -/
def State.endTask (s : State) (n : Nat) : State :=
  let c := s.core n
  (match c.task with
    | some t => s.addTasks c.ptag n t.inherited (-1)
    | none => s).leaveTask n
/-- A core's own instruction ends its task (R442, R449): nothing ends where its domain's record cannot be reached. -/
def endTaskEff (n : Nat) (s : State) : Eff :=
  match ((s.core n).task.map (·.inherited)).filter (· != 0) with
  | none => .done (s.leaveTask n)
  | some r => match s.hwEdit n r (addNtask (-1)) with
    | .error e => hwStop s r e
    | .ok s => .done (s.leaveTask n)

/-! ## Pops (R413, R419, R422) -/

/-- The WIDs of an entry that follow its first one inside the same placement group (R413). -/
def Launch.followers (x : Launch) (wid : Word) (left : Nat) : Nat :=
  let plv := x.field 2 1
  if 64 ≤ x.low plv then left - 1 else min (left - 1) (2 ^ x.low plv - 1 - wid.toNat % 2 ^ x.low plv)

/-- A core takes the first WID of the entry at a place of a queue and starts it, at the clk that the device has reached.
DESIGN CHOICE (log 193). -/
def State.popAt (s : State) (n : Nat) (p : PTag) (q : QueueId) (i : Nat) (e : QEntry) : State :=
  let es := s.queue q
  let own := localQueue p n
  let x := e.launch.bind s.launch?
  let grp := x.map fun x => x.group (x.field 2 1) e.cont.wid.toNat
  let k : Nat := match x, grp with
    | some x, some g =>
      if q != own && !x.placed.contains g && decide ((s.queue own).length < 16) && !x.bulk then x.followers e.cont.wid e.left else 0
    | _, _ => 0
  let skip := 1 + k
  let left := e.left - skip
  let rest := if left = 0 then es.eraseIdx i
    else es.set i { e with left := left, cont := { e.cont with wid := e.cont.wid + BitVec.ofNat 64 skip } }
  let s := s.setQueue q rest
  let s := if k = 0 then s else
    (s.setQueue own (s.queue own ++ [{ e with left := k, cont := { e.cont with wid := e.cont.wid + 1 } }])).onLaunch e.launch
      fun y => { y with placed := grp.toList ++ y.placed }
  let s := s.onLaunch e.launch fun y => { y with ran := (s.lcnIn (some p) n :: y.ran).eraseDups }
  let inherited := if e.dom = 0 then ((e.launch.bind s.launch?).map Launch.cdrec).getD 0 else e.dom
  let t : Task := { launch := e.launch, wid := e.cont.wid, prio := e.prio, inherited := inherited, entry := e.cont, time := e.time, retry := e.retry }
  s.setCore n ((s.core n).startTask t s.clk)

/-- An idle core that searches (R419). -/
def State.searching (s : State) (n : Nat) : Option PTag :=
  let c := s.core n
  if c.mode = .idle ∧ c.task = none ∧ !c.errStop ∧ !s.isServer n ∧ !s.drained (.core n) ∧
      !(List.range 18).any (fun b => s.drained (.bank n ⟨b % 18, Nat.mod_lt _ (by decide)⟩)) then c.ctag else none

/-- TASK_POP (R419): an idle core takes the oldest entry of the highest priority of the first queue that holds one. -/
def execTaskPop (core : Nat) (s : State) : Host.Outcome State Fault Refusal :=
  match s.searching core with
  | none => .next s
  | some p =>
    match (s.searchOrder p core (s.core core).widened).findSome? fun q =>
        (bestEntry (s.queue q)).bind fun i => ((s.queue q)[i]?).map fun e => (q, i, e) with
    | none => .next s
    | some (q, i, e) => .next ((s.popAt core p q i e).offer p)

/-- The clk that the device has reached: that of the last turn of a core, or of its own work. -/
def State.now (s : State) : Nat := s.clk

/-- IDLE_SEARCH_WIDEN (R419): after 1,024 clk of idleness a core searches every queue of its partition. DEDUCED (log 96). -/
def execIdleSearchWiden (core : Nat) (s : State) : Host.Outcome State Fault Refusal :=
  let c := s.core core
  if c.mode = .idle ∧ c.idleSince + 1024 ≤ s.now then
    .next ((s.setCore core { c with widened := true }).owe (.taskPop core))
  else .next s

/-- One queue at a saddle tick (R420): entries that have waited too long move to the tail of the next priority. -/
def ageQueue (ticks limit : Nat) (es : List QEntry) : List QEntry :=
  let old := fun (e : QEntry) => decide (e.prio < 3) && decide (e.tick + limit < ticks)
  es.filter (fun e => !old e) ++ (es.filter old).map fun e => { e with prio := e.prio + 1, tick := ticks }

/-- QUEUE_AGING (R420). -/
def execQueueAging (s : State) : Host.Outcome State Fault Refusal :=
  .next { s with queues := s.queues.map fun x =>
    let p := match x.1 with
      | .cluster p _ => p
      | .die p _ => p
    let limit := (s.part p).aging.toNat
    if limit = 0 then x else (x.1, ageQueue s.ticks limit x.2) }

/-! ## SPAWN, JOIN, TEND (R440 to R442) -/

/-- The priority that MOD names for a spawned entry (R438, R440). -/
def Core.spawnPrio (c : Core) (pri : BitVec 3) : Nat :=
  if pri.getLsbD 2 then (pri.extractLsb' 0 2).toNat else (c.task.map (·.prio)).getD 0
/-- The innermost domain of a core (R428), or 0. -/
def Core.innermost (c : Core) : Word := c.doms.headD ((c.task.map (·.inherited)).getD 0)

/-- The effect of SPAWN and SPAWN.R: an entry of `count` WIDs. DEDUCED (log 87). DEDUCED (log 147). -/
def spawnEff (a : GReg) (count : Nat) (pri : BitVec 3) (loc : Bool) (s : State) : Eff :=
  let n := s.cur
  let c := s.cc
  let g := fun (i : Nat) => c.rdG ⟨(a.val + i) % 64, Nat.mod_lt _ (by decide)⟩
  let q := if loc then localQueue c.ptag n else s.dieQueue c.ptag n
  if count = 0 then .done s
  else if (g 0).toNat % 4 ≠ 0 ∨ (g 0).extractLsb' 56 8 ≠ 0 then .trap s .align (g 0) 0
  else if loc && decide (16 ≤ (s.queue q).length) then .stall s
  else
    let e : QEntry := { cont := ⟨g 0, g 1, g 2, g 3⟩, left := count, launch := c.lid, prio := c.spawnPrio pri, dom := c.innermost,
                        time := c.lt + 1 }
    match (s.setCc { c with lt := c.lt + 1 }).tryEnqueue n c.ptag q e with
    | .error x => hwStop s e.dom x
    | .ok s => .done s

/-- The operand numbers of a group of four general registers. -/
def group4 (a : GReg) : List (BitVec 7) := (List.range 4).map fun i => opG ⟨(a.val + i) % 64, Nat.mod_lt _ (by decide)⟩

def execSpawn (h : Hdr) (a : GReg) (pri : BitVec 3) (loc : Bool) (s : State) : Host.Outcome State Fault Refusal :=
  issueWord h 0 0 0 { srcs := group4 a } (spawnEff a 1 pri loc) s
def execSpawnR (h : Hdr) (a b : GReg) (pri : BitVec 3) (loc : Bool) (s : State) : Host.Outcome State Fault Refusal :=
  issueWord h 0 0 0 { srcs := opG b :: group4 a } (fun s => spawnEff a (s.cc.rdG b).toNat pri loc s) s

/-- A JOIN on a block's bytes (R441), whose COUNT has fallen by one in `s`: a new count of zero enqueues the record in the block; where it
cannot, nothing is written, and the state is `s0` (R449). -/
def joinBlock (d : GReg) (bs : List Byte) (s0 s : State) : Eff :=
  let n := s.cur
  let x := recGet bs 0 8 - 1
  let c := s.cc
  let s := s.setCc (c.slipResult (.g d x))
  if x ≠ 0 then .done s
  else
    let e : QEntry := { cont := ⟨recGet bs 0x10 8, recGet bs 0x18 8, recGet bs 0x20 8, recGet bs 0x28 8⟩, launch := c.lid,
                        prio := (recGet bs 8 1).toNat % 4, dom := (c.task.map (·.inherited)).getD 0, time := c.lt }
    match s.tryEnqueue n c.ptag (s.dieQueue c.ptag n) e with
    | .error x => hwStop s0 e.dom x
    | .ok s => .done s

/-- The places of a join block's three parts of 16 bytes, each by its own page with its policy (R441). -/
def State.joinPlaces (s : State) (n : Nat) (x : Word) : Except XErr (List (Nat × Policy)) :=
  match s.xlateChecked n x 48 16 .atomic, s.xlateChecked n (x + 16) 16 16 .atomic, s.xlateChecked n (x + 32) 16 16 .atomic with
  | .ok a, .ok b, .ok c => .ok ([a, b, c].map fun p => (p.1, leafPolicy p.2))
  | .error e, _, _ => .error e
  | _, .error e, _ => .error e
  | _, _, .error e => .error e

/-- The effect of JOIN: one atomic on the join block (R441, R449). -/
def joinEff (ins : Instr) (d a : GReg) (s : State) : Eff :=
  let n := s.cur
  let x := s.cc.rdG a
  if s.rangeHeld x 48 then holdOn s x 48
  else if x.getLsbD 56 then
    match s.checkLocal n (!s.cc.regs.trap.sup) x 48 16 with
    | .error k => .trap s k x 0
    | .ok (.evu _) => .trap s .bounds x 0
    | .ok p =>
      let r := s.touch n p 48
      if r.2 then .trap r.1 .poison x 0
      else
        let bs := r.1.readPlace 48 p
        joinBlock d bs s (storePlace p (toBytes 8 (recGet bs 0 8 - 1)) r.1)
  else match s.joinPlaces n x with
    | .error e => xerr s ins 0 e
    | .ok ps => match ps.find? fun p => s.stackLost p.1 with
      | some p => .done ({ s.lostWrite n p.1 with draws := s.draws + 1 }.setCc
          ((s.lostWrite n p.1).cc.slipResult (.g d (Config.freeWord s.draws))))
      | none =>
        if ps.any fun p => s.globalBad p.1 16 then .trap (s.badRead n true) .poison x 0
        else
          let s1 := ps.foldl (fun (s : State) p => s.gain p.1 p.2 true) s
          let bs := ps.flatMap fun p => s1.physBytes p.1 16
          let c := ps.headD (0, .uc)
          joinBlock d bs s (s1.storeHome n c.1 c.2 (toBytes 8 (recGet bs 0 8 - 1)))

/-- DEDUCED (log 88). -/
def execJoin (h : Hdr) (d a : GReg) (s : State) : Host.Outcome State Fault Refusal :=
  issueWord h 0 0 0 { srcs := [opG a], dsts := [opG d] } (joinEff (.join h d a) d a) s

/-! ## WID, WIDF, CORENUM (R443) -/

/-- A value of the current task or launch, written with a latency of 1 clk; outside one no rule states it (log 20).
DEDUCED (log 100). -/
def taskValue (d : GReg) (x : Option Word) (s : State) : Eff :=
  match x with
  | some w => .done (s.setCc (s.cc.result s.cc.tmg.clk 1 (.g d w)))
  | none => .done ({ s with draws := s.draws + 1 }.setCc (s.cc.result s.cc.tmg.clk 1 (.g d (Config.freeWord s.draws))))

def execWid (h : Hdr) (d : GReg) (s : State) : Host.Outcome State Fault Refusal :=
  issueWord h 0 0 0 { dsts := [opG d] } (fun s => taskValue d (s.cc.task.map (·.wid)) s) s

def execWidf (h : Hdr) (d a : GReg) (i : BitVec 3) (s : State) : Host.Outcome State Fault Refusal :=
  issueWord h 0 0 0 { srcs := [opG a], dsts := [opG d] } (fun s =>
    taskValue d ((s.cc.lid.bind s.launch?).map fun l => l.widField i.toNat (s.cc.rdG a)) s) s

/-- What CORENUM reads for each selector. -/
def State.coreNum (s : State) (n : Nat) (sel : BitVec 2) : Option Word :=
  let c := s.core n
  let rank := c.task.bind (·.rank)
  match sel.toNat with
  | 0 => some (BitVec.ofNat 64 (s.lcn n))
  | 1 => if c.task.isNone then none else match rank with
    | some r => some (BitVec.ofNat 64 r)
    | none => some (BitVec.allOnes 64)
  | 2 => if c.task.isNone then none else if rank.isSome then (c.lid.bind s.launch?).map fun l => BitVec.ofNat 64 l.set.length
    else some 0
  | _ => c.lid.map fun l => BitVec.ofNat 64 l.2

def execCorenum (h : Hdr) (d : GReg) (sel : BitVec 2) (s : State) : Host.Outcome State Fault Refusal :=
  issueWord h 0 0 0 { dsts := [opG d] } (fun s => taskValue d (s.coreNum s.cur sel) s) s

end Sys2Proof.Machine
end

