-- ==== Sys2Proof/Machine/Launches.lean ====
section
/-! DEFINITION. Launches (R409 to R415, R421, R423 to R425, R429, R510): submission, activation with its barriers and threads,
completion with its record and signal, and LAUNCH. -/
namespace Sys2Proof.Machine
open Sys2Proof

/-! ## The header (R409, R410) -/

/-- The partition that a launch names belongs to its virtual device. -/
def State.ownsPart (s : State) (v : Nat) (p : PTag) : Bool := (s.part p.toNat).v && (s.part p.toNat).vdev.toNat == v
/-- The partitions of a virtual device, lowest tag first. -/
def State.partsOf (s : State) (v : Nat) : List PTag :=
  ((List.range 64).map (BitVec.ofNat 6)).filter fun p => s.ownsPart v p
/-- The cores of a bulk launch, in ascending logical number (R415). -/
def State.coreSet (s : State) (x : Launch) : List Nat :=
  let p := x.ptag
  let lo := x.field 0x30 4
  ((s.partCores p).filter fun n =>
    decide (lo ≤ s.lcnIn (some p) n) && decide (s.lcnIn (some p) n < lo + x.field 0x34 4)).mergeSort
      fun a b => decide (s.lcnIn (some p) a ≤ s.lcnIn (some p) b)

/-- The page of an address as the launch machinery finds it for a partition: its leaf (R410). -/
def State.machineLeaf (s : State) (p : PTag) (va : Nat) : Option (BitVec 64) :=
  match s.partAgent p with
  | none => none
  | some g =>
    if !g.xlate then none
    else match s.walk g.root va with
      | .page _ leaf => some leaf
      | .fault _ _ => none
/-- An address that a completion can write (R410). DEDUCED (log 91). -/
def State.writableAt (s : State) (p : PTag) (a : Word) (align : Nat) : Bool :=
  a.extractLsb' 56 8 == 0 && a.toNat % align == 0 &&
    ((s.machineLeaf p a.toNat).map fun e => e.getLsbD 2 && e.getLsbD 3).getD false

/-- The last WID that a launch names. -/
def Launch.lastWid (x : Launch) (set : Nat) : Nat := x.field 0x20 8 + (if x.bulk then set else x.field 0x28 8) - 1

/-- A header is malformed (R410); `set` is the size of its core set. -/
def State.headerBad (s : State) (x : Launch) (set : Nat) : Bool :=
  let f := x.field
  let nfld := f 1 1
  let b := x.low nfld
  let zero := fun (off n : Nat) => f off n == 0
  !(f 0 1 == 1 || f 0 1 == 2) || nfld == 0 || decide (6 < nfld) || decide (nfld < f 2 1) || decide (nfld < f 3 1) ||
    decide (3 < f 4 1) || decide (3 < f 5 1) || decide (63 < f 6 1) || decide (31 < f 7 1) ||
    (List.range 6).any (fun i => if i < nfld then f (8 + i) 1 == 0 || decide (64 < f (8 + i) 1) else f (8 + i) 1 != 0) ||
    !zero 0x0E 2 || decide (2 ^ 56 ≤ f 0x10 8) || f 0x10 8 % 4 != 0 ||
    (if x.bulk then f 2 1 != 0 || f 0x28 8 != 0
     else f 3 1 != 0 || f 7 1 != 0 || f 0x28 8 == 0 || f 0x30 4 != 0 || f 0x34 4 != 0) ||
    decide (63 < f 0x50 1) || !zero 0x51 7 || !zero 0x60 28 ||
    decide (64 < b) || (decide (b < 64) && decide (2 ^ b ≤ x.lastWid set)) || decide (2 ^ 64 - 1 < x.lastWid set) ||
    !s.ownsPart x.vdev x.ptag || (x.bulk && set == 0) ||
    (f 0x7C 4 != 0 && (crc32 (toBytes 0x7C x.hdr)).toNat != f 0x7C 4) ||
    (x.cdrec != 0 && (x.cdrec.extractLsb' 56 8 != 0 || x.cdrec.toNat % 128 != 0 ||
      !((s.machineLeaf x.ptag x.cdrec.toNat).map fun e => e.getLsbD 5).getD false))

/-- Counts up a saturating 32-bit counter. -/
def bump (x : BitVec 32) : BitVec 32 := satInc x

/-- The partition under whose tables a launch's record and signal are reached (R410): the one that its header names, where that is one of its
virtual device's, else the device's lowest. -/
def State.reportTag (s : State) (x : Launch) : Option PTag :=
  if s.ownsPart x.vdev x.ptag && decide (x.field 6 1 < 64) then some x.ptag else (s.partsOf x.vdev).head?

/-- Submits a header (R410, R411): the identifier it takes, or 0 where it is refused. -/
def State.submit (s : State) (v : Nat) (hdr : BitVec 1024) (core : Option Nat) (time : Nat) : State × Nat :=
  let x : Launch := { vdev := v, lid := (s.vd v).lastLid + 1, hdr := hdr, order := s.nextId, core := core, time := time }
  let tag := s.reportTag x
  if 256 ≤ (s.launches.filter fun y => y.vdev == v && y.state == .pending).length then
    (s.onVd v fun d => { d with full := bump d.full }, 0)
  else if !(tag.map fun p => s.writableAt p (x.hdr.extractLsb' (8 * 0x38) 64) 64 &&
      s.writableAt p (x.hdr.extractLsb' (8 * 0x40) 64) 8).getD false then
    (s.onVd v fun d => { d with bad := bump d.bad }, 0)
  else
    let s := s.onVd v fun d => { d with lastLid := x.lid }
    ({ s with launches := s.launches ++ [x], nextId := s.nextId + 1 }.owe (.launchActivate ⟨v % 32, Nat.mod_lt _ (by decide)⟩ x.lid),
      x.lid)

/-! ## LAUNCH and the launch window (R439, R510) -/

/-- DEDUCED (log 148). -/
def execLaunch (h : Hdr) (d a : GReg) (imm : BitVec 32) (s : State) : Host.Outcome State Fault Refusal :=
  issueWord h 0 0 0 { srcs := [opG a], dsts := [opG d] } (fun s =>
    let n := s.cur
    let x := s.cc.addr a imm
    if s.rangeHeld x 128 then holdOn s x 128
    else match s.checkSpad x 128 128 with
      | .error k => .trap s k x 0
      | .ok p =>
        let r := s.touch n p 128
        if r.2 then .trap r.1 .poison x 0
        else
          let s := r.1.coreRead n (p.home (clusterOf n))
          let hdr : BitVec 1024 := ofBytes 1024 (s.readPlace 128 p)
          let time := s.cc.lt + 1
          let q := match s.vdOf n with
            | some v => s.submit v hdr (some n) time
            | none => (s, 0)
          let s := if q.2 = 0 then q.1 else q.1.setCc { q.1.cc with lt := time }
          .done (s.setCc (s.cc.slipResult (.g d (BitVec.ofNat 64 q.2))))) s

/-- Bytes applied to a 128-byte buffer from an offset on; bytes past its end are not part of it. -/
def patchHeader (w : BitVec 1024) (off : Nat) (bs : List Byte) : BitVec 1024 :=
  (bs.zipIdx).foldl (fun (w : BitVec 1024) (e : Byte × Nat) =>
    let i := 8 * (off + e.2)
    if off + e.2 < 128 then (w &&& ~~~((0xFF#1024) <<< i)) ||| (e.1.setWidth 1024 <<< i) else w) w

/-- The largest logical time of a requester's posted writes (R421, R512). -/
def State.postedTime (s : State) (req : Nat) : Nat := Tab.get 0 s.ports.posted req

/-- A write of a requester to the launch window takes effect (R411, R510): the bytes are applied, and a write of any byte from 0x78 on submits
the header. -/
def State.launchWrite (s : State) (v req off : Nat) (data : List Byte) : State :=
  let w := patchHeader (s.vd v).window off data
  let s := s.onVd v fun d => { d with window := w }
  if data.isEmpty || decide (off + data.length ≤ 0x78) then s else (s.submit v w none (s.postedTime req)).1

/-- An earlier access of a requester has not been performed: it holds back the later ones (R512). -/
def State.portBusy (s : State) (req : Nat) : Bool := s.ports.queue.any fun (x : PortReq) => x.req == req
/-- An access of a requester waits behind its earlier ones. -/
def State.enterPort (s : State) (x : PortReq) : State := { s with ports := { s.ports with queue := s.ports.queue ++ [x] } }

/-- LAUNCH_WINDOW_WRITE (R411, R510, R512). -/
def execLaunchWindowWrite (v : Fin 32) (req : Nat) (off : BitVec 7) (data : List (BitVec 8)) (s : State) :
    Host.Outcome State Fault Refusal :=
  .next (if s.portBusy req then s.enterPort { req := req, v := v.val, off := off.toNat, a := .write data, launch := true }
    else s.launchWrite v.val req off.toNat data)

/-! ## Activation (R414, R421, R423, R429) -/

/-- SADDLE and CYCLE as the launch machinery reads them for a virtual device (R424, R454, R479): the clk that the device has reached, plus
what instructions of variable latency added to it (log 8), with the device's offsets. -/
def State.guestTimes (s : State) (v : Nat) : Word × Word :=
  let slips := s.cores.foldl (fun k e => k + e.2.tmg.slips) 0
  (BitVec.ofNat 64 s.ticks + (s.vd v).sofs,
    BitVec.ofNat 64 s.now + (if slips = 0 then 0 else Config.cycleSlip slips) + (s.vd v).cofs)

/-- A domain is opened for a launch (R429). -/
def openForLaunch (bs : List Byte) : List Byte :=
  let bs := if recGet bs recState 1 = 2 then bs else recPut bs recRetry 1 0
  recPut (recPut (recPut (recPut bs recState 1 1) recParent 8 0) recSig 8 (BitVec.allOnes 64)) recOwner 4 0xFFFFFFFF#64

/-- A place in the tree of barriers of a domain: its cluster and barrier. -/
abbrev BarPlace := Nat × Nat

/-- The barrier domains of a bulk launch (R414): for each group its threads, as rank and core. -/
def Launch.domains (x : Launch) (set : List Nat) : List (Nat × List (Nat × Nat)) :=
  let w0 := x.field 0x20 8
  let threads := set.zipIdx.map fun e => (e.2, e.1)
  let group := fun (t : Nat × Nat) => x.group (x.field 3 1) (w0 + t.1)
  let gs := ((threads.map group).eraseDups).mergeSort fun a b => decide (a ≤ b)
  gs.map fun g => (g, threads.filter fun t => group t == g)

/-- The barrier that each cluster gives each domain: BBAR and up in ascending group order (R414). -/
def Launch.barrierOf (x : Launch) (ds : List (Nat × List (Nat × Nat))) (cl g : Nat) : Nat :=
  x.field 7 1 + ((ds.filter fun d => d.2.any fun t => clusterOf t.2 == cl).filter fun d => decide (d.1 < g)).length

/-- The clusters of a domain in ascending order of their lowest rank. -/
def domainClusters (ts : List (Nat × Nat)) : List Nat := (ts.map fun t => clusterOf t.2).eraseDups

/-- The parent of a domain's barrier in a cluster (R414): none for the root. -/
def parentCluster (ts : List (Nat × Nat)) (cl : Nat) : Option Nat :=
  let cs := domainClusters ts
  let dieFirst := cs.find? fun c => clusterDie c == clusterDie cl
  if cs.head? = some cl then none
  else if dieFirst = some cl then cs.head?
  else dieFirst

/-- Configures one barrier of a domain (R232, R414); RTAG names the partition. -/
def State.setDomainBarrier (s : State) (x : Launch) (ds : List (Nat × List (Nat × Nat))) (g cl : Nat) (ts : List (Nat × Nat)) :
    State :=
  let b := x.barrierOf ds cl g
  let mask := ts.foldl (fun (m : BitVec 24) t => if clusterOf t.2 == cl then m ||| (1#24 <<< indexOf t.2) else m) 0
  let kids := (domainClusters ts).filter fun c => parentCluster ts c == some cl
  let parent := parentCluster ts cl
  let s := s.onBarrier cl b fun y =>
    { en := true, ss := true, mask := mask, chn := parent.isSome, nch := BitVec.ofNat 5 kids.length, gen := y.gen, last := y.last
      pbar := BitVec.ofNat 5 ((parent.map fun c => x.barrierOf ds c g).getD 0)
      plcn := BitVec.ofNat 18 ((parent.map fun c =>
        s.lcnIn (some x.ptag) (((ts.find? fun t => clusterOf t.2 == c).map (·.2)).getD (c * 24))).getD 0) }
  let c := s.cluster cl
  s.setCluster cl { c with rtag := Tab.set c.rtag (rtagBarrier b) (x.ptag.setWidth 8) }

/-- Starts the threads of a bulk launch (R414, R417, R428). -/
def State.startThreads (s : State) (x : Launch) (set : List Nat) : State :=
  let ds := x.domains set
  set.zipIdx.foldl (fun (s : State) e =>
    let w : Word := BitVec.ofNat 64 (x.field 0x20 8 + e.2)
    let t : Task := { launch := some (x.vdev, x.lid), wid := w, prio := x.field 4 1, inherited := x.cdrec, rank := some e.2,
                      entry := ⟨x.hdr.extractLsb' (8 * 0x10) 64, x.hdr.extractLsb' (8 * 0x18) 64, 0, w⟩, time := x.time }
    let s := s.addTasks x.ptag e.1 x.cdrec 1
    if (s.core e.1).mode = .faulted then s
    else s.setCore e.1
      ((s.core e.1).startThread t s.clk (clusterOf e.1, x.barrierOf ds (clusterOf e.1) (x.group (x.field 3 1) w.toNat)))) s

/-- The range entry of a task launch (R418, R428). -/
def Launch.range (x : Launch) : QEntry :=
  { cont := ⟨x.hdr.extractLsb' (8 * 0x10) 64, x.hdr.extractLsb' (8 * 0x18) 64, 0, x.hdr.extractLsb' (8 * 0x20) 64⟩
    left := x.field 0x28 8, launch := some (x.vdev, x.lid), prio := x.field 4 1, dom := x.cdrec, time := x.time }

/-- The die queue that a launch's range entry enters (R418). -/
def State.launchQueue (s : State) (x : Launch) : QueueId :=
  match x.core with
  | some n => s.dieQueue x.ptag n
  | none => .die x.ptag.toNat ((((s.partCores x.ptag).filterMap fun n => s.logicalDie (dieOf n)).min?).getD 0)

/-- A launch's work begins, from its header (R414, R418, R429). -/
def State.beginWork (s : State) (x : Launch) (set : List Nat) : State :=
  let n := (s.actor x.ptag).getD 0
  if x.bulk then
    let ds := x.domains set
    let s := ds.foldl (fun (s : State) d => (domainClusters d.2).foldl (fun s cl => s.setDomainBarrier x ds d.1 cl d.2) s) s
    s.startThreads x set
  else s.enqueue n x.ptag (s.launchQueue x) x.range

/-- Barriers beyond the 32 of a cluster (R414). -/
def Launch.tooManyBarriers (x : Launch) (set : List Nat) : Bool :=
  let ds := x.domains set
  (set.map clusterOf).eraseDups.any fun cl =>
    decide (32 < x.field 7 1 + (ds.filter fun d => d.2.any fun t => clusterOf t.2 == cl).length)

/-- A launch goes to its completion with a status (R423). -/
def State.completing (s : State) (x : Launch) (status : Nat) : State :=
  (s.putLaunch { x with state := .completing, status := status }).owe (.launchComplete ⟨x.vdev % 32, Nat.mod_lt _ (by decide)⟩ x.lid)

/-- Every core of a bulk launch's set is idle under its partition (R423). -/
def State.setIdle (s : State) (x : Launch) (set : List Nat) : Bool :=
  set.all fun n => (s.core n).mode == .idle && !(s.core n).errStop && (s.core n).ctag == some x.ptag

/-- Memory as it stands for the fetches of a partition's launch (R131). -/
def State.codeNow (s : State) (p : PTag) : Code :=
  { hbm := s.hbm, fabric := s.fabric
    spads := (s.cores.filter fun e => e.2.ctag == some p).map fun e => (s.lcn e.1, e.2.spad)
    chips := s.dies.filterMap fun e => (s.logicalDie e.1).map fun l => (l, e.2.chip) }

/-- LAUNCH_ACTIVATE (R423): a pending launch whose turn it is becomes active; a malformed one completes. -/
def execLaunchActivate (v : Fin 32) (lid : Nat) (s : State) : Host.Outcome State Fault Refusal :=
  match s.launch? (v.val, lid) with
  | none => .next s
  | some x =>
    let set := if x.bulk then s.coreSet x else []
    if x.state ≠ .pending then .next s
    else if s.headerBad x set.length || (x.bulk && x.tooManyBarriers set) then .next (s.completing x 2)
    else if s.launches.any (fun y => y.state == .pending && y.ptag == x.ptag && decide (y.order < x.order)) ||
        (x.bulk && !s.setIdle x set) then .next s
    else
      let now := s.guestTimes v.val
      let time := if x.core.isSome then x.time else max x.time s.floor + 1
      let lcns := set.map (s.lcnIn (some x.ptag))
      let x := { x with state := .active, activated := true, time := time, tss := now.1, tsc := now.2, set := lcns, ran := lcns,
                        code := some (s.codeNow x.ptag) }
      let s := s.putLaunch x
      let s := if x.cdrec = 0 then s else s.editDomain x.ptag ((s.actor x.ptag).getD 0) x.cdrec openForLaunch
      let s := s.beginWork x set
      .next ((s.launches.filter fun y => y.state == .pending && y.ptag == x.ptag).foldl
        (fun s y => s.owe (.launchActivate ⟨y.vdev % 32, Nat.mod_lt _ (by decide)⟩ y.lid)) s)

/-! ## Completion (R317, R390, R423 to R425) -/

/-- The shares of the device, also of contexts that are out. -/
def State.allShares (s : State) : List Share :=
  s.clusters.flatMap (fun e => [e.2.shares[0], e.2.shares[1]]) ++ s.outCtxs.filterMap fun x => x.2.share
/-- A queued operation works on a tile that is recorded with a launch (R317). DEDUCED (log 66). -/
def State.tilesBusy (s : State) (l : Nat × Nat) : Bool :=
  s.allShares.any fun x => x.queue.any fun o => x.tiles[o.tile].lid == some l

/-- No entry, task, thread or audit of a launch is left, and no operation on its tiles. -/
def State.launchDone (s : State) (x : Launch) : Bool :=
  let l := some (x.vdev, x.lid)
  !(s.queues.any fun q => q.2.any fun e => e.launch == l) &&
    !(s.cores.any fun e => (e.2.task.bind (·.launch)) == l) && !(s.outCores.any fun c => (c.task.bind (·.launch)) == l) && !(s.audits.any fun a => a.launch == l) &&
    !(s.charges.any fun c => (s.core c.core).lid == l) && !s.tilesBusy (x.vdev, x.lid)

/-- Changes the cores of a context. -/
def Ctx.mapCores (x : Ctx) (f : Core → Core) : Ctx := { x with cores := x.cores.map fun e => (e.1, e.2.1, f e.2.2) }

/-- A share without the tiles that are recorded with a launch; `rows` is its height. -/
def Share.freeOf (x : Share) (l : Nat × Nat) (rows : Nat) : Share :=
  { x with tiles := x.tiles.map fun t => if t.lid == some l then ZTile.freed rows else t }
/-- Every tile recorded with a launch is freed, also in contexts that are out (R317). DEDUCED (log 66). -/
def State.freeTiles (s : State) (l : Nat × Nat) : State :=
  let free := fun (c : Cluster) => (c.shares.set 0 (c.shares[0].freeOf l (c.shareRows 0))).set 1 (c.shares[1].freeOf l (c.shareRows 1))
  let s := { s with clusters := s.clusters.map fun (e : Nat × Cluster) => (e.1, { e.2 with shares := free e.2 }) }
  s.mapOut fun cl x =>
    let c := s.cluster cl
    { x with share := x.share.map fun (h : Share) => h.freeOf l (((c.shareOf x.ptag).map c.shareRows).getD 0) }

/-- The channels of a core after the end of a launch: its own are gone where it worked for the launch, and so is what the launch's cores
own of its slots. -/
def Comm.released (c : Comm) (mine : Bool) (lcns : List Nat) : Comm :=
  { c with chans := if mine then Vector.replicate 16 none else c.chans
           slots := c.slots.map fun (r : RSlot) => match r.owner with
             | some (o, _) => if lcns.contains o then ({} : RSlot) else r
             | none => r }
/-- Every channel of a launch's cores is released, with the slots it owned, also in contexts that are out (R390). -/
def State.freeChannels (s : State) (x : Launch) : State :=
  let lcns := (x.ran ++ x.set).eraseDups
  let free := fun (c : Core) (own : Bool) => { c with comm := c.comm.released own lcns }
  let s := { s with cores := s.cores.map fun (e : Nat × Core) =>
    if e.2.ctag == some x.ptag then (e.1, free e.2 (lcns.contains (s.lcnIn (some x.ptag) e.1))) else e }
  s.mapOut fun _ y => if y.ptag != x.ptag then y else
    { y with cores := y.cores.map fun (e : Nat × Nat × Core) => (e.1, e.2.1, free e.2.2 (lcns.contains e.1)) }

/-- The completion record (R424). -/
def completionRecord (x : Launch) (status fcnt : Nat) (fwid tes tec : Word) : List Byte :=
  let bs := toBytes 4 (BitVec.ofNat 32 status) ++ toBytes 4 (BitVec.ofNat 32 fcnt) ++ toBytes 4 (BitVec.ofNat 32 x.rcnt) ++
    toBytes 4 0#32 ++ toBytes 8 x.tss ++ toBytes 8 x.tsc ++ toBytes 8 tes ++ toBytes 8 tec ++
    toBytes 8 (if fcnt = 0 then 0 else fwid) ++ toBytes 4 (BitVec.ofNat 32 x.lid)
  bs ++ toBytes 4 (crc32 bs)

/-- The first recorded failure of a core's commands, of those that stand. -/
def Core.firstFault (c : Core) : Option EFault :=
  (c.eng.efault.toList.filter (·.v)).foldl (fun (m : Option EFault) f => match m with
    | some g => if f.clk < g.clk then some f else m
    | none => some f) none
/-- The first failures of the cores of a launch whose EFAULT is set for some class at the end (R368, R424), one a core, also in contexts that
are out. -/
def State.faultyCores (s : State) (x : Launch) : List EFault :=
  let lcns := (x.ran ++ x.set).eraseDups
  ((s.cores.filter fun e => e.2.ctag == some x.ptag && lcns.contains (s.lcnIn (some x.ptag) e.1)).filterMap fun e => e.2.firstFault) ++
    ((s.outCtxs.filter fun y => y.2.ptag == x.ptag).flatMap fun y =>
      (y.2.cores.filter fun e => lcns.contains e.1).filterMap fun e => e.2.2.firstFault)
/-- FWID of a launch (R424): the WID of the first fault that was counted, else that of the earliest failure that EFAULT still shows.
DEDUCED (log 97). -/
def Launch.firstWid (x : Launch) (fs : List EFault) : Word :=
  if x.fcnt ≠ 0 then x.fwid
  else match (fs.map (·.clk)).min? with
    | some m => ((fs.find? fun f => f.clk == m).map (·.wid)).getD 0
    | none => 0

/-- The largest logical time that a core holds, or a command or operation of it. -/
def Core.maxTime (c : Core) : Nat :=
  c.eng.cmds.foldl (fun m x => max m x.time) (c.eng.done.foldl (fun m d => max m d.2.2) (max c.lt c.eng.zdone))
/-- The largest logical time that a core, a command or an operation of the device holds, also of contexts that are out. -/
def State.maxTime (s : State) : Nat := (s.cores.map (·.2) ++ s.outCores).foldl (fun m c => max m c.maxTime) s.floor

/-- The signal of a launch (R425), behind the logical time of its record: a counter increment, then MSI-X, then an event. An MSIV of 64 or more sends no message (R509). -/
def State.signalLaunch (s : State) (x : Launch) (time : Nat) : State :=
  let s := if x.field 5 1 % 2 = 1 ∧ x.field 0x48 4 < 64 then s.report (.msix x.vdev (x.hdr.extractLsb' (8 * 0x48) 32)) else s
  if x.field 5 1 / 2 % 2 = 0 then s
  else
    let l := x.field 0x4C 4
    let m : EvMsg := { cl := 0, dst := l, line := (x.hdr.extractLsb' (8 * 0x50) 6 : BitVec 6).toFin, count := 1, tag := x.ptag,
                       sup := true, time := max time s.maxTime + 1 }
    match s.ofLcn (some x.ptag) l with
    | some n => s.send n n true (.eventMessage { m with cl := clusterOf n, dst := n })
    | none => s.report (.remoteEvent l m)

/-- A launch's record and signal are written (R19, R424, R425): a page that has gone parks them (R191). DEDUCED (log 97). -/
def State.finishLaunch (s : State) (x : Launch) : Host.Outcome State Fault Refusal :=
  let done := fun (s : State) => Host.Outcome.next ({ s with ownCode := s.ownCode.filter fun y => y.1 != (x.vdev, x.lid) }.putLaunch { x with state := .complete, code := none })
  let tag := (s.reportTag x).getD 0
  match s.partAgent tag with
  | none => done s
  | some g =>
    let g := { g with time := s.maxTime }
    let faults := s.faultyCores x
    let fcnt := x.fcnt + faults.length
    let status := if x.status ≠ 0 then x.status else if fcnt = 0 then 0 else 1
    let now := s.guestTimes x.vdev
    let x' := if !x.activated then { x with tss := now.1, tsc := now.2 } else x
    let retry := fun (e : AStop) => match e with
      | .park va m level =>
        Host.Outcome.next (s.parkAgent g tag 5 va m level (.event tag (.launchComplete ⟨x.vdev % 32, Nat.mod_lt _ (by decide)⟩ x.lid)))
      | .noMemory pa => .fault (.noPhysicalMemory pa)
      | e => done (e.split s).1
    match s.agentStore g (x.hdr.extractLsb' (8 * 0x38) 64) (completionRecord x' status fcnt (x.firstWid faults) now.1 now.2) with
    | .error e => retry e
    | .ok (s1, g1) =>
      let siga : Word := x.hdr.extractLsb' (8 * 0x40) 64
      match s1.agentBytes g1 siga 8 with
      | .error e => retry e
      | .ok (s2, g2, bs) => match s2.agentStore g2 siga (toBytes 8 (ofBytes 64 bs + 1#64)) with
        | .error e => retry e
        | .ok (s3, g3) => done (s3.signalLaunch x' g3.time)

/-- LAUNCH_COMPLETE (R423, R425): a launch with no work left, or one that goes to its completion, frees its tiles and channels,
closes its outermost domain (R429), writes its record and raises its signal. -/
def execLaunchComplete (v : Fin 32) (lid : Nat) (s : State) : Host.Outcome State Fault Refusal :=
  match s.launch? (v.val, lid) with
  | none => .next s
  | some x =>
    if x.state = .completing ∨ (x.state = .active ∧ s.launchDone x = true) then
      let s := s.putLaunch { x with state := .completing }
      let s := (s.freeTiles (v.val, lid)).freeChannels x
      let s := if x.cdrec = 0 ∨ x.state = .completing then s
        else s.editDomain x.ptag ((s.actor x.ptag).getD 0) x.cdrec fun bs => recPut bs recState 1 0
      s.finishLaunch { x with state := .completing }
    else .next s

end Sys2Proof.Machine
end

