-- ==== Sys2Proof/Machine/Domains.lean ====
section
/-! DEFINITION. Containment domains (R427 to R436, R442, R444 to R449, R558, R559, R571): the instructions of opcodes 0x7B and
0x7C, TEND, the domain handler, superstep restores and the auditor. -/
namespace Sys2Proof.Machine
open Sys2Proof

/-! ## Records and their order -/

/-- A record descends from another or is it: its chain of parents reaches it (R432). -/
def State.descends (s : State) (p : PTag) (n : Nat) (d : Word) : Nat → Word → Bool
  | 0, _ => false
  | k + 1, x => x != 0 && (x == d || match s.domain? p n x with
    | some bs => State.descends s p n d k (recGet bs recParent 8)
    | none => false)

/-- A bound on the depth of a chain of parents that this model follows. -/
def chainDepth : Nat := 4096

/-- The XVAL of DOMAIN (R449). DEDUCED (log 90). -/
def domainVal (r : Word) (reason : Nat) : Word := (r &&& ~~~0xF#64) ||| BitVec.ofNat 64 reason

/-! ## The preserve area (R432, R445) -/

/-- Why a preserve area cannot be used. -/
inductive KeepErr where
  | hw (e : HwErr) (va : Word)
  | damaged
  deriving DecidableEq, Repr

/-- An entry of a preserve area: the range, whether it is a SNAP range, and the copy. -/
structure KeepEntry where
  at_ : Word
  len : Nat
  snap : Bool
  data : List Byte
  deriving DecidableEq, Repr

/-- Bytes padded to a multiple of 16. -/
def pad16 (n : Nat) : Nat := (n + 15) / 16 * 16

/-- Reads bytes of a preserve area, 16 at a time. -/
def State.keepBytes (s : State) (n : Nat) : Nat → Word → Except KeepErr (List Byte)
  | 0, _ => .ok []
  | k + 1, a =>
    match s.hwPa n a.toNat false with
    | .error e => .error (.hw e a)
    | .ok x =>
      if s.readBad n x.1 16 x.2 then .error .damaged
      else
        let r := s.readGlobal n x.1 16 x.2
        match State.keepBytes r.1 n k (a + 16) with
        | .error e => .error e
        | .ok bs => .ok (r.2 ++ bs)

/-- The entries of a preserve area from an offset to its end, in recording order. -/
def State.keepEntries (s : State) (n : Nat) (base : Word) (used : Nat) : Nat → Nat → Except KeepErr (List KeepEntry)
  | 0, _ => .ok []
  | fuel + 1, off =>
    if used < off + 16 then .ok []
    else match s.keepBytes n 1 (base + BitVec.ofNat 64 off) with
      | .error e => .error e
      | .ok h =>
        let w := recGet h 8 8
        let snap := w.getLsbD 63
        let len := w.toNat % 2 ^ 63
        let room := if snap then 0 else pad16 len
        if used < off + 16 + room then .error .damaged
        else match s.keepBytes n (room / 16) (base + BitVec.ofNat 64 (off + 16)) with
          | .error e => .error e
          | .ok bs => match State.keepEntries s n base used fuel (off + 16 + room) with
            | .error e => .error e
            | .ok es => .ok ({ at_ := recGet h 0 8, len := len, snap := snap, data := bs.take len } :: es)

/-- The preserved entries of a record. -/
def State.preserved (s : State) (n : Nat) (bs : List Byte) : Except KeepErr (List KeepEntry) :=
  let used := (recGet bs recKeepU 8).toNat
  s.keepEntries n (recGet bs recKeepA 8) used (used / 16 + 1) 0

/-- The core whose local windows a record's preserve entries name (R445): its owner's, where that core is one of this package. -/
def State.ownerCore (s : State) (p : PTag) (n : Nat) (bs : List Byte) : Nat :=
  let o := recGet bs recOwner 4
  if o = 0xFFFFFFFF#64 then n else (s.ofLcn (some p) o.toNat).getD n

/-- Writes bytes at a place of core m for a partition: into the scratchpad of its context, where that is out (R432). -/
def State.writeFor (s : State) (p : PTag) (m : Nat) (pl : Place) (bs : List Byte) : State :=
  match pl with
  | .spad _ k _ =>
    if (s.core k).ctag = some p then (s.coreWrite m (pl.home (clusterOf m))).writePlace pl bs
    else s.mapOut fun cl x =>
      if x.ptag = p ∧ cl = clusterOf k then
        { x with cores := x.cores.map fun (e : Nat × Nat × Core) =>
            if e.2.1 = indexOf k then (e.1, e.2.1, ((s.setCore k e.2.2).writePlace pl bs).core k) else e }
      else x
  | _ => (s.coreWrite m (pl.home (clusterOf m))).writePlace pl bs

/-- Writes restored bytes, line by line, on the core path of core n: to global memory, or to a local window of the owner `o` (R432,
R445). -/
def State.restoreBytes (s : State) (p : PTag) (n o : Nat) : Nat → Word → List Byte → Except KeepErr State
  | 0, _, _ => .ok s
  | fuel + 1, a, bs =>
    if bs.isEmpty then .ok s
    else
      let k := min bs.length (128 - a.toNat % 128)
      let next : Except KeepErr State :=
        if a.getLsbD 56 then match s.windowOf o a k with
          | some (.evu _) | none => .error (.hw .access a)
          | some pl => .ok (s.writeFor p o pl (bs.take k))
        else match s.hwPa n a.toNat true with
          | .error e => .error (.hw e a)
          | .ok x => .ok (s.writeGlobal n x.1 x.2 (bs.take k))
      match next with
      | .error e => .error e
      | .ok s => State.restoreBytes s p n o fuel (a + BitVec.ofNat 64 k) (bs.drop k)

/-- Where an address lay in memory when a snapshot was taken (R484): by the tables that the snapshot holds, where they map it. -/
def Snap.place (x : Snap) (s : State) (n va : Nat) (now : Nat) : Nat :=
  match { s with hbm := x.hbm, fenced := [] }.walk (s.core n).root va with
  | .page level leaf => leafPa level leaf va
  | .fault .. => now

/-- The bytes of a SNAP range as the last snapshot of its virtual device preserves them (R432, R484, R546). -/
def State.snapBytes (s : State) (n : Nat) : Nat → Word → Except KeepErr (List Byte)
  | 0, _ => .ok []
  | k + 1, a =>
    match s.hwPa n a.toNat false, ((s.vdOf n).map s.vd).bind (·.snap) with
    | .error e, _ => .error (.hw e a)
    | _, none => .error .damaged
    | .ok y, some x =>
      let pa := x.place s n a.toNat y.1
      if x.bad.contains (pa / 8) then .error .damaged
      else match State.snapBytes s n k (a + 1) with
        | .error e => .error e
        | .ok bs => .ok (x.hbm.get pa :: bs)

/-- Restores one entry. -/
def State.restoreEntry (p : PTag) (n o : Nat) (s : Except KeepErr State) (e : KeepEntry) : Except KeepErr State :=
  match s with
  | .error x => .error x
  | .ok s =>
    if e.snap then match s.snapBytes n e.len e.at_ with
      | .error x => .error x
      | .ok bs => s.restoreBytes p n o (e.len / 128 + 2) e.at_ bs
    else s.restoreBytes p n o (e.len / 128 + 2) e.at_ e.data

/-- Restores a domain's preserve area in reverse recording order (R432). -/
def State.restoreArea (s : State) (p : PTag) (n : Nat) (bs : List Byte) : Except KeepErr State :=
  match s.preserved n bs with
  | .error e => .error e
  | .ok es => es.reverse.foldl (State.restoreEntry p n (s.ownerCore p n bs)) (.ok s)

/-! ## Abandoning tasks (R432, R448) -/

/-- A core without the declarations that it has in flight (R391). -/
def Core.undeclared (c : Core) : Core :=
  { c with comm := { c.comm with chans := c.comm.chans.map fun x => x.filter fun (k : Chan) => !k.pending }
           tmg := { c.tmg with owed := [] } }
/-- A core's task is abandoned: what it waits on forgets it, its commands are cancelled, its context is discarded. -/
def State.abandon (s : State) (n : Nat) : State :=
  let s := (s.withdraw n).leaveQueues n
  let s := ((s.core n).eng.cmds).foldl (fun (s : State) c => (s.cancel n c).1) s
  let d := s.die (dieOf n)
  let s := s.setDie (dieOf n) { d with parks := d.parks.filter (· != .core n) }
  (s.setCore n (s.core n).undeclared).endTask n

/-- A core's task is tagged with a domain or a descendant of it, or opened it. -/
def State.taggedWith (s : State) (p : PTag) (n : Nat) (d : Word) (c : Core) : Bool :=
  c.doms.contains d || (match c.task with
    | some t => s.descends p n d chainDepth t.inherited
    | none => false)

/-- The cores whose task is tagged with a domain or a descendant of it, or opened it. -/
def State.taggedCores (s : State) (p : PTag) (n : Nat) (d : Word) : List Nat :=
  (s.cores.filter fun e => e.2.ctag == some p && s.taggedWith p n d e.2).map (·.1)

/-- The task of a core whose context is out ends there; its commands are cancelled. -/
def Core.dropTask (c : Core) : Core :=
  { c.endTask with mode := .yielded, eng := { c.eng with cmds := [], done := c.eng.done ++ c.eng.cmds.map fun x => (x.cls, x.seq, x.time) } }

/-- The tagged tasks of a partition's contexts that are out end there, and their arrivals at open generations are withdrawn (R244, R432);
`n` acts for the partition. DEDUCED (log 149). -/
def State.dropOut (s : State) (p : PTag) (n : Nat) (hit : Core → Bool) : State :=
  let gone := (s.outCtxs.filter (·.2.ptag == p)).flatMap fun x => (x.2.cores.map (·.2.2)).filter hit
  let s := gone.foldl (fun (s : State) c => match c.task with
    | some t => s.addTasks p n t.inherited (-1)
    | none => s) s
  s.mapOut fun cl x =>
    if x.ptag != p then x
    else
      let late := (x.cores.filter fun e => hit e.2.2).filterMap fun e => match e.2.2.wait with
        | .barrier b .. => some (cl * 24 + e.2.1, b.val)
        | _ => none
      { x.mapCores (fun c => if hit c then c.dropTask else c) with
        bars := late.foldl (fun (t : List (Nat × Barrier)) (k : Nat × Nat) =>
          t.map fun (e : Nat × Barrier) => if e.1 = k.2 then (e.1, e.2.withdrawn k.1) else e) x.bars }

/-- Removes the queued entries of a partition that are tagged with a domain or a descendant of it. -/
def State.removeTagged (s : State) (p : PTag) (n : Nat) (d : Word) : State :=
  s.queues.foldl (fun (s : State) q =>
    let mine := match q.1 with
      | .cluster x _ => x == p.toNat
      | .die x _ => x == p.toNat
    let hit := fun (e : QEntry) => mine && s.descends p n d chainDepth e.dom
    let s' := (q.2.filter hit).foldl (fun s e => s.addTasks p n e.dom (-(BitVec.ofNat 64 e.left))) s
    s'.setQueue q.1 (q.2.filter fun e => !hit e)) s

/-- The records that are known to descend from a domain: those open on cores, inherited, named by entries, or to be re-executed. -/
def State.descendants (s : State) (p : PTag) (n : Nat) (d : Word) : List Word :=
  let cores := (s.cores.map (·.2)).filter (·.ctag == some p) ++
    (s.outCtxs.filter (·.2.ptag == p)).flatMap fun x => x.2.cores.map (·.2.2)
  let open_ := cores.flatMap fun c => c.task.toList.flatMap (fun t => [t.inherited, t.retry]) ++ c.doms
  let mine := s.queues.filter fun q => match q.1 with
    | .cluster x _ | .die x _ => x == p.toNat
  let queued := mine.flatMap fun q => q.2.flatMap fun e => [e.dom, e.retry]
  ((open_ ++ queued).eraseDups).filter fun r => r != d && s.descends p n d chainDepth r

/-- Step 1 of R432: descendant records are closed, tasks abandoned, entries removed. DEDUCED (log 95). -/
def State.abandonDomain (s : State) (p : PTag) (n : Nat) (d : Word) (keep : Option Nat) : State :=
  let below := s.descendants p n d
  let cores := (s.taggedCores p n d).filter fun m => keep != some m
  let s := (s.dropOut p n (s.taggedWith p n d)).removeTagged p n d
  let s := cores.foldl State.abandon s
  below.foldl (fun s r => s.editDomain p n r fun bs => recPut bs recState 1 0) s

/-! ## The domain handler (R431, R432, R434) -/

/-- Removes a launch's entries of one queue, each no longer counted in its domain (R428). -/
def State.removeEntries (s : State) (l : Nat × Nat) (q : QueueId) : State :=
  let p : PTag := match q with
    | .cluster p _ | .die p _ => BitVec.ofNat 6 p
  let es := s.queue q
  let s' := (es.filter fun e => e.launch == some l).foldl (fun (s : State) e =>
    s.addTasks p ((s.actor p).getD 0) e.dom (-(BitVec.ofNat 64 e.left))) s
  s'.setQueue q (es.filter fun e => e.launch != some l)

/-- A launch ends with a status other than OK and FAULT (R434, R559, R423): its tasks and threads are abandoned, its entries
removed. -/
def State.endLaunch (s : State) (l : Nat × Nat) (status : Nat) : State :=
  let cores := (s.cores.filter fun e => (e.2.task.bind (·.launch)) == some l).map (·.1)
  let s := cores.foldl State.abandon s
  let s := (s.queues.map (·.1)).foldl (fun (s : State) q => s.removeEntries l q) s
  let ps := ((s.outCtxs.filter fun x => x.2.cores.any fun e => (e.2.2.task.bind (·.launch)) == some l).map (·.2.ptag)).eraseDups
  let s := ps.foldl (fun (s : State) p =>
    s.dropOut p ((s.actor p).getD 0) fun c => (c.task.bind (·.launch)) == some l) s
  match s.launch? l with
  | some x => if x.state = LState.active ∨ x.state = LState.pending then s.completing x status else s
  | none => s

/-- A launch that escalation ends (R434). -/
def State.abortLaunch (s : State) (l : Nat × Nat) : State := s.endLaunch l 4

/-- A charge is counted in its launch (R432, R559). -/
def Launch.charged (wid : Word) (again : Bool) (x : Launch) : Launch :=
  { x with fcnt := x.fcnt + 1, rcnt := if again then x.rcnt + 1 else x.rcnt, fwid := if x.fcnt = 0 then wid else x.fwid }

/-- The entry of a domain that is retried (R432, R429). -/
def retryEntry (bs : List Byte) (r : Word) (l : Option (Nat × Nat)) (prio : Nat) (time : Nat) : QEntry :=
  { cont := ⟨recGet bs 0x10 8, recGet bs 0x18 8, recGet bs 0x20 8, recGet bs 0x28 8⟩, launch := l, prio := prio
    dom := if recGet bs recOwner 4 = 0xFFFFFFFF#64 then r else recGet bs recParent 8, time := time, retry := r }

/-- Handles a charge to a domain, and to its ancestors where it escalates; `fuel` bounds the chain. `n` acts for the partition. -/
def State.chargeDomain (p : PTag) (n : Nat) (l : Option (Nat × Nat)) (wid : Word) : Nat → Word → State → State
  | 0, _, s => s
  | fuel + 1, r, s0 =>
    let s := s0.abandonDomain p n r none
    match s.domain? p n r with
    | none => s.haltPartition p n r.toNat
    | some bs =>
      let up := fun (s : State) =>
        let s := s.editDomain p n r fun bs => recPut bs recState 1 3
        if recGet bs recParent 8 = 0 then (match l with
          | some l => s.abortLaunch l
          | none => s)
        else State.chargeDomain p n l wid fuel (recGet bs recParent 8) s
      if recGet bs recRetry 1 = 3 then up s
      else match s.restoreArea p n bs with
        | .error .damaged => up s
        | .error (.hw _ va) => s.haltPartition p n va.toNat
        | .ok s =>
          let s := s.editDomain p n r fun bs => recPut (recPut bs recState 1 2) recRetry 1 (recGet bs recRetry 1 + 1)
          let s := s.onLaunch l (Launch.charged wid true)
          let x := l.bind s.launch?
          if recGet bs recOwner 4 = 0xFFFFFFFF#64 ∧ recGet bs 0x10 8 = 0 then
            (match x with
              | some x => s.beginWork x (x.set.filterMap (s.ofLcn (some p)))
              | none => s)
          else s.enqueue n p (s.dieQueue p n) (retryEntry bs r l ((x.map fun y => y.field 4 1).getD 0) s.maxTime)

/-! ## Superstep domains (R435, R558, R559) -/

/-- The barriers of a partition on a die, each with its cluster and number, also those of contexts that are out (R239). -/
def State.dieBarriers (s : State) (p : PTag) (die : Nat) : List (Nat × Nat × Barrier) :=
  ((s.clusters.filter fun e => clusterDie e.1 == die).flatMap fun e =>
    (e.2.bars.filter fun y => e.2.owns (rtagBarrier y.1) p).map fun y => (e.1, y.1, y.2)) ++
  (s.outCtxs.filter fun x => x.2.ptag == p && clusterDie x.1 == die).flatMap fun x => x.2.bars.map fun y => (x.1, y.1, y.2)
/-- The parent of a barrier, where it lies on the same die (R239). -/
def State.dieParent (s : State) (p : PTag) (die : Nat) (x : Barrier) : Option (Nat × Nat) :=
  if !x.chn then none
  else match s.ofLcn (some p) x.plcn.toNat with
    | some n => if dieOf n = die then some (clusterOf n, x.pbar.toNat) else none
    | none => none
/-- The barrier that tops the tree of a barrier on its die (R241). -/
def State.dieTop (s : State) (p : PTag) (die : Nat) (bs : List (Nat × Nat × Barrier)) : Nat → Nat × Nat → Nat × Nat
  | 0, b => b
  | k + 1, b =>
    match (bs.find? fun e => (e.1, e.2.1) == b).bind fun e => s.dieParent p die e.2.2 with
    | some q => State.dieTop s p die bs k q
    | none => b
/-- The barriers of a barrier's domain on its die (R239, R435). DEDUCED (log 94). -/
def State.dieDomain (s : State) (p : PTag) (b : Nat × Nat) : List (Nat × Nat × Barrier) :=
  let die := clusterDie b.1
  let bs := s.dieBarriers p die
  let top := s.dieTop p die bs bs.length
  bs.filter fun e => top (e.1, e.2.1) == top b
/-- A core's place is a member of one of some barriers (R232). -/
def memberOf (bs : List (Nat × Nat × Barrier)) (n : Nat) : Bool :=
  bs.any fun e => e.1 == clusterOf n && e.2.2.mask.getLsbD (indexOf n)

/-- A message that a broken superstep has on its way (R244, R406): of the cores of logical numbers `lcns` and places `cores`, live under
their partition, or of the barriers `bars`. -/
def State.ofSuperstep (s : State) (p : PTag) (lcns cores : List Nat) (bars : List (Nat × Nat)) : Instr → Bool
  | .channelMessageLand n _ m | .timedMessageLand n _ m => (s.core n).ctag == some p && lcns.contains m.src
  | .channelClaim m | .channelClaimAnswer m _ => (s.core m.dst).ctag == some p && lcns.contains m.src
  | .channelGrant c _ => (s.core c).ctag == some p && cores.contains c
  | .barrierArrivalMessage m => (m.pkg == Config.package && bars.contains (m.fromCl, m.fromB.val)) || bars.contains (m.cl, m.b.val)
  | .barrierReleaseMessage m => bars.contains (m.cl, m.b.val)
  | _ => false

/-- A core goes back to its superstep checkpoint, which counts `k` re-executions more. -/
def Core.restart (k' : Nat) (c : Core) : Core :=
  match c.ckpt with
  | none => c
  | some k =>
    let c := c.drain
    { c with regs := k.regs, comm := { k.comm with sched := c.comm.sched }, ckpt := some { k with reexec := k.reexec + k' }
             wait := .none, access := none, mode := .running
             tmg := { c.tmg with obuf := [], loopBuf := none, owed := [] } }

/-- A barrier whose superstep restarts: no arrival stands. -/
def Barrier.emptied (y : Barrier) : Barrier :=
  { y with arr := 0, carr := 0, pand := true, por := false, contrib := [], sync := false, height := 0, children := [], held := [],
           done := false, sent := false, clk := 0 }

/-- The barrier that opened a core's superstep, or that its launch gave its thread (R406, R435). -/
def Core.opener (c : Core) : Option (Nat × Nat) := c.ckpt.bind (·.bar)

/-- The broken superstep of a core restarts on every core of its barrier domain on the die, also in contexts that are out; what the
superstep has sent is discarded (R244, R406, R435). -/
def State.restartSuperstep (s : State) (n : Nat) (count : Nat) : State :=
  let p := (s.core n).ptag
  let bs := ((s.core n).opener.map fun b => s.dieDomain p b).getD []
  let live := (s.cores.filter fun e => e.2.ctag == some p && (e.1 == n || memberOf bs e.1)).map (·.1)
  let away := (s.awayCores p).filter fun e => memberOf bs e.1
  let lcns := (live ++ away.map (·.1)).map fun m => s.lcnIn (some p) m
  let bars := bs.map fun e => (e.1, e.2.1)
  let drop := s.ofSuperstep p lcns live bars
  let gone := (s.exchange p).ofSuperstep p lcns (live ++ away.map (·.1)) bars
  let s := { s with pending := s.pending.filter fun i => !drop i
                    net := s.net.filter fun k => !(k.tag == p && (gone k.ev || drop k.ev))
                    held := s.held.filter fun h => !(h.ptag == p && gone h.ev) }
  let s := bs.foldl (fun (s : State) e => if (s.cluster e.1).owns (rtagBarrier e.2.1) p then s.onBarrier e.1 e.2.1 Barrier.emptied else s) s
  let s := s.mapOut fun cl y =>
    if y.ptag ≠ p then y
    else
      { y with cores := y.cores.map fun (e : Nat × Nat × Core) =>
                 if memberOf bs (cl * 24 + e.2.1) then (e.1, e.2.1, { e.2.2.restart count with mode := e.2.2.mode }) else e
               bars := y.bars.map fun (e : Nat × Barrier) => if bars.contains (cl, e.1) then (e.1, e.2.emptied) else e }
  live.foldl (fun (s : State) m =>
    let d := s.die (dieOf m)
    ((s.setDie (dieOf m) { d with parks := d.parks.filter (· != .core m) }).setCore m ((s.core m).restart count)).notBefore m s.clk) s

/-- A charge to a thread's implicit domain (R435, R559): the fourth one aborts the launch. -/
def State.chargeSuperstep (s : State) (n : Nat) (x : Launch) (wid : Word) : State :=
  let k := ((s.core n).ckpt.map (·.reexec)).getD 0
  if 3 ≤ k then (s.onLaunch (some (x.vdev, x.lid)) (Launch.charged wid false)).abortLaunch (x.vdev, x.lid)
  else (s.onLaunch (some (x.vdev, x.lid)) (Launch.charged wid true)).restartSuperstep n 1

/-- A charge to a core (R431): to the outermost domain that its task opened, else the implicit domain of its superstep, else
the inherited domain, else its launch, whose task then ends. DEDUCED (log 93). -/
def State.chargeCore (s : State) (n : Nat) : State :=
  let c := s.core n
  match c.ctag, c.task with
  | some p, some t =>
    let x := t.launch.bind s.launch?
    match c.doms.getLast?, t.rank, x with
    | some r, _, _ => s.chargeDomain p n t.launch t.wid chainDepth r
    | none, some _, some x => s.chargeSuperstep n x t.wid
    | none, _, _ =>
      if t.inherited ≠ 0 then s.chargeDomain p n t.launch t.wid chainDepth t.inherited
      else (s.onLaunch t.launch (Launch.charged t.wid false)).abandon n
  | _, _ => s

/-- A user thread whose SLOT or CHANNEL trap the supervisor is to charge (R558). -/
def Core.failedPhase (c : Core) : Bool :=
  let t := c.regs.trap
  t.exl && !t.ps && t.phase == 2 && (t.xcause == Cause.slot.code || t.xcause == Cause.channel.code) &&
    (c.task.bind (·.rank)).isSome

/-- A core goes on where no charge to it is left to act on, and no posting of its waits for room at its die (R455). -/
def State.released (s : State) (n : Nat) : State :=
  if s.charges.any (·.core == n) || (s.die (dieOf n)).derrWait.any (·.1.core == n) then s
  else
    let s := (s.onCore n fun c => { c with errStop := false }).notBefore n s.clk
    if (s.core n).mode = .idle then s.becameIdle n none else s

/-- DOMAIN_CHARGE (R432, R558): the domain handler acts on the oldest charge; with none, it posts a thread whose communication
phase failed to DERRPOP, and charges it next. The stopped core goes on. -/
def execDomainCharge (s : State) : Host.Outcome State Fault Refusal :=
  match s.charges with
  | x :: rest =>
    let s := { s with charges := rest }
    match x.dom with
    | none => .next ((s.chargeCore x.core).released x.core)
    | some (r, p, l, w) => .next ((s.chargeDomain p x.core l w chainDepth r).released x.core)
  | [] =>
    match s.cores.find? fun e => e.2.failedPhase && !e.2.errStop with
    | none => .next s
    | some e => .next (s.postError 7 e.2.ptag e.1)

/-! ## CDOPEN, CDKEEP, CDSIG, CDCLOSE, CDABORT (R444 to R448) -/

/-- The record as CDOPEN leaves it (R444). -/
def openedRecord (parent : Word) (owner : Nat) (bs : List Byte) : List Byte :=
  let bs := if recGet bs recState 1 = 2 then bs else recPut bs recRetry 1 0
  recPut (recPut (recPut (recPut (recPut bs recState 1 1) recParent 8 parent) recKeepU 8 0) recSig 8 (BitVec.allOnes 64))
    recOwner 4 (BitVec.ofNat 64 owner)

def execCdopen (h : Hdr) (a : GReg) (s : State) : Host.Outcome State Fault Refusal :=
  issueWord h 0 0 0 { srcs := [opG a] } (fun s =>
    let n := s.cur
    let c := s.cc
    let r := c.rdG a
    if r.extractLsb' 56 8 ≠ 0 ∨ r.toNat % 128 ≠ 0 then .trap s .domain (domainVal r 5) 0
    else if 8 ≤ c.doms.length then .trap s .domain (domainVal r 1) 0
    else match s.hwReadToEdit n r 128 with
      | .error e => hwStop s r e
      | .ok (s1, bs) =>
        if recGet bs recState 1 = 1 then .trap s .domain (domainVal r 0) 0
        else match s1.hwEdit n r (openedRecord c.innermost (s.lcn n)) with
          | .error e => hwStop s r e
          | .ok s2 => .done (s2.setCc { s2.cc with doms := r :: s2.cc.doms })) s

/-- Reads a run of global bytes on the core path, line by line (R211, R445, R446): the bytes, and whether a word of them is
uncorrectable. -/
def State.globalRun (n : Nat) : Nat → Word → Nat → State → Except XErr (State × List Byte × Bool)
  | 0, _, _, s => .ok (s, [], false)
  | fuel + 1, a, len, s =>
    if len = 0 then .ok (s, [], false)
    else
      let k := min len (128 - a.toNat % 128)
      match s.xlateChecked n a k 1 .read with
      | .error e => .error e
      | .ok (pa, leaf) =>
        let r := s.readGlobal n pa k (leafPolicy leaf)
        match State.globalRun n fuel (a + BitVec.ofNat 64 k) (len - k) r.1 with
        | .error e => .error e
        | .ok (s', bs, bad) => .ok (s', r.2 ++ bs, bad || s.readBad n pa k (leafPolicy leaf))

/-- Loads a range for CDKEEP or CDSIG (R445, R446, R449), then goes on with its bytes. `bounds` is what stops the instruction behind the
BOUNDS of the range and before its translation, `pre` what stops it behind that and before an uncorrectable word of it does. -/
def loadRange (ins : Instr) (a : Word) (len : Nat) (bounds pre : Option Eff) (s : State) (go : State → List Byte → Eff) : Eff :=
  let n := s.cur
  let pre := bounds.or pre
  let poisoned := fun (s : State) => pre.getD (.trap s .poison a 0)
  let go := fun (s : State) (bs : List Byte) => pre.getD (go s bs)
  if len = 0 then go s []
  else if s.rangeHeld a len then holdOn s a len
  else if a.getLsbD 56 then
    match s.checkLocal n (!s.cc.regs.trap.sup) a len 1 with
    | .error k => .trap s k a 0
    | .ok (.evu _) => .trap s .bounds a 0
    | .ok p =>
      let r := s.touch n p len
      if r.2 then poisoned r.1
      else
        let s := r.1.coreRead n (p.home (clusterOf n))
        go s (s.readPlace len p)
  else if 2 ^ 56 < a.toNat + len then .trap s .bounds a 0
  else match s.globalRun n (len / 128 + 2) a len with
    | .error e => bounds.getD (xerr s ins 0 e)
    | .ok (s', bs, bad) => if bad then poisoned (s.badRead n true) else go s' bs

/-- What stops an access to a preserve area before any translation (R449): its bounds and alignment. -/
def keepBounds (a : Word) (size : Nat) (s : State) : Option Eff :=
  if a.extractLsb' 56 8 ≠ 0 ∨ 2 ^ 56 < a.toNat + size then some (.trap s .bounds a 0)
  else if a.toNat % 16 ≠ 0 then some (.trap s .align a 0)
  else none
/-- What its translation stops it with. -/
def keepStop (n : Nat) (a : Word) (size : Nat) (s : State) : Option Eff :=
  (List.range (size / 16)).findSome? fun i => match s.hwPa n (a.toNat + 16 * i) true with
    | .error e => some (hwStop s (a + BitVec.ofNat 64 (16 * i)) e)
    | .ok _ => none

/-- Writes an entry into a preserve area, 16 bytes at a time. -/
def State.keepWrite (s : State) (n : Nat) : Nat → Word → List Byte → Except HwErr State
  | 0, _, _ => .ok s
  | k + 1, a, bs =>
    match s.hwWrite n a (bs.take 16) with
    | .error e => .error e
    | .ok s => State.keepWrite s n k (a + 16) (bs.drop 16)

/-- The effect of CDKEEP. DEDUCED (log 92). -/
def cdkeepEff (ins : Instr) (a b : GReg) (snap : Bool) (s : State) : Eff :=
  let n := s.cur
  let c := s.cc
  let x := c.rdG a
  let len := (c.rdG b).toNat
  match c.doms with
  | [] => .trap s .domain 2 0
  | r :: _ =>
    match s.hwReadToEdit n r 128 with
    | .error e => hwStop s r e
    | .ok (s1, bs) =>
      let used := (recGet bs recKeepU 8).toNat
      let size := 16 + (if snap then 0 else pad16 len)
      if (recGet bs recKeepL 8).toNat < used + size then .trap s .domain (domainVal r 3) 0
      else
        let at_ := recGet bs recKeepA 8 + BitVec.ofNat 64 used
        let put := fun (s2 : State) (data : List Byte) =>
          let entry := toBytes 8 x ++ toBytes 8 (if snap then c.rdG b ||| (1#64 <<< 63) else c.rdG b) ++ data ++
            List.replicate (size - 16 - data.length) 0#8
          match s2.keepWrite n (size / 16) at_ entry with
          | .error e => hwStop s at_ e
          | .ok s3 => match s3.hwEdit n r fun bs => recPut bs recKeepU 8 (BitVec.ofNat 64 (used + size)) with
            | .error e => hwStop s r e
            | .ok s4 => .done s4
        let bounds := keepBounds at_ size s
        let stop := keepStop n at_ size s
        if snap then (bounds.or stop).getD (put s1 []) else loadRange ins x len bounds stop s1 put

def execCdkeep (h : Hdr) (a b : GReg) (snap : Bool) (s : State) : Host.Outcome State Fault Refusal :=
  issueWord h 0 0 0 { srcs := [opG a, opG b] } (cdkeepEff (.cdkeep h a b snap) a b snap) s

/-- The effect of CDSIG. -/
def cdsigEff (ins : Instr) (a b : GReg) (s : State) : Eff :=
  let n := s.cur
  let c := s.cc
  match c.doms with
  | [] => .trap s .domain 2 0
  | r :: _ =>
    if c.rdG b = 0 then .done s
    else loadRange ins (c.rdG a) (c.rdG b).toNat none (match s.hwPaEdit n r.toNat with
      | .error e => some (hwStop s r e)
      | .ok _ => none) s fun s1 bs =>
      match s1.hwEdit n r fun rc => recPut rc recSig 8 (bs.foldl crc64Fold (recGet rc recSig 8)) with
      | .error e => hwStop s r e
      | .ok s2 => .done s2

def execCdsig (h : Hdr) (a b : GReg) (s : State) : Host.Outcome State Fault Refusal :=
  issueWord h 0 0 0 { srcs := [opG a, opG b] } (cdsigEff (.cdsig h a b) a b) s

/-- One step of the audit generator (R83, R436). -/
def lfsrOnce (x : BitVec 32) : BitVec 32 := if x.getLsbD 0 then (x >>> 1) ^^^ 0x80200003#32 else x >>> 1

/-- A domain that closes may be selected for an audit (R436). -/
def State.maybeAudit (s : State) (n : Nat) (r : Word) (bs : List Byte) (sig : Word) : State :=
  let c := s.core n
  let p := c.ptag
  let x := s.part p.toNat
  let snaps := match s.preserved n bs with
    | .ok es => es.any (·.snap)
    | .error _ => true
  let eligible := c.ctag.isSome && x.audk != 0 && (recGet bs recFlg 1).getLsbD 0 && !snaps && !s.tainted.contains (p, r)
  let s := { s with tainted := s.tainted.filter (· != (p, r)) }
  if !eligible then s
  else
    let y := lfsrOnce x.lfsr
    let s := s.onPart p.toNat fun z => { z with lfsr := y }
    if y.toNat % 2 ^ (x.audk.toNat - 1) ≠ 0 then s
    else { s with audits := s.audits ++ [{ ptag := p, record := r, parent := recGet bs recParent 8, sig := sig, core := n,
                                           launch := c.lid, wid := (c.task.map (·.wid)).getD 0 }] }

def execCdclose (h : Hdr) (d : GReg) (s : State) : Host.Outcome State Fault Refusal :=
  issueWord h 0 0 0 { dsts := [opG d] } (fun s =>
    let n := s.cur
    match s.cc.doms with
    | [] => .trap s .domain 2 0
    | r :: rest =>
      match s.hwReadToEdit n r 128 with
      | .error e => hwStop s r e
      | .ok (s1, bs) =>
        if recGet bs recNtask 8 ≠ 0 ∨ (s.audits.any fun a => a.ptag == s.cc.ptag && s.descends s.cc.ptag n r chainDepth a.parent) = true then
          .point s
        else
          let sig := recGet bs recSig 8
          match s1.hwEdit n r fun bs => recPut bs recState 1 0 with
          | .error e => hwStop s r e
          | .ok s2 =>
            let up := recGet bs recParent 8
            match (if up = 0 then .ok s2 else s2.hwAtomic n (up + BitVec.ofNat 64 recSig) (· ^^^ sig)) with
            | .error e => hwStop s up e
            | .ok s3 =>
              let s4 := s3.maybeAudit n r bs sig
              let c := s4.cc
              .done (s4.setCc ({ c with doms := rest }.slipResult (.g d sig)))) s

/-- The end of an abort of a core's domain (R448), whose tasks are abandoned: the preserve area is restored, or the abort escalates.
Whether its task goes on. -/
def State.restoreAborted (s : State) (n : Nat) (r : Word) : State × Bool :=
  let p := (s.core n).ptag
  match s.domain? p n r with
  | none => (s.recordFault n r.toNat, false)
  | some bs =>
    match s.restoreArea p n bs with
    | .error (.hw _ va) => (s.recordFault n va.toNat, false)
    | .error .damaged =>
      let s := s.editDomain p n r fun bs => recPut bs recState 1 3
      let t := (s.core n).task
      let l := t.bind (·.launch)
      let up := recGet bs recParent 8
      let s := if up = 0 then (match l with
          | some l => s.abortLaunch l
          | none => s)
        else s.chargeDomain p n l ((t.map (·.wid)).getD 0) chainDepth up
      (if ((s.core n).task).isSome then s.abandon n else s, false)
    | .ok s =>
      let s := s.editDomain p n r fun bs => recPut bs recState 1 0
      (s.onCore n fun c => { c with doms := c.doms.filter (· != r) }, true)

/-- What stops the abort of a domain before any of its effects (R449): the access to its record, to its preserve area, or to the places that
this restores. -/
def State.abortStop (s : State) (n : Nat) (r : Word) : Option Eff :=
  match s.hwReadToEdit n r 128 with
  | .error e => some (hwStop s r e)
  | .ok (s1, bs) => match s1.restoreArea (s.core n).ptag n bs with
    | .error (.hw e va) => some (hwStop s va e)
    | _ => none
/-- Aborts domain r of the current core (R448): its tasks are abandoned, the abort waits while NTASK is not 0, and the preserve area is
restored; `go` is what follows where the task goes on. -/
def abortEff (n : Nat) (r : Word) (s : State) (go : State → Eff) : Eff :=
  match s.abortStop n r with
  | some e => e
  | none =>
    let p := (s.core n).ptag
    let s1 := s.abandonDomain p n r (some n)
    if (s1.domain? p n r).any fun bs => recGet bs recNtask 8 != 0 then .point s1
    else
      let x := s1.restoreAborted n r
      if x.2 then go x.1 else .sleep x.1

def execCdabort (h : Hdr) (s : State) : Host.Outcome State Fault Refusal :=
  issueWord h 0 0 0 {} (fun s =>
    let n := s.cur
    match s.cc.doms with
    | [] => .trap s .domain 2 0
    | r :: _ => abortEff n r s .done) s

/-- CDABORT.RETRY (R448): a detected error that the program declares; its task ends with the charge. -/
def execCdabortRetry (h : Hdr) (s : State) : Host.Outcome State Fault Refusal :=
  issueWord h 0 0 0 {} (fun s =>
    match s.cc.doms with
    | [] => .trap s .domain 2 0
    | _ :: _ => .done (s.postError 6 s.cc.ptag s.cur)) s

/-! ## TEND (R442, R571) -/

/-- The supervisor ends the trapped task (R571): its domains are aborted as by CDABORT, innermost first, and its launch counts a fault, also
where an abort escalates and ends the task itself. `fuel` bounds the domains. -/
def endTrapped (n : Nat) (count : State → State) : Nat → State → Eff
  | 0, s => endTaskEff n s
  | fuel + 1, s => match (s.core n).doms with
    | [] => match endTaskEff n s with
      | .done s => .done (count s)
      | e => e
    | r :: _ => match abortEff n r s (endTrapped n count fuel) with
      | .sleep t => .sleep (if (t.core n).mode = .faulted then t else count t)
      | e => e

def execTend (h : Hdr) (s : State) : Host.Outcome State Fault Refusal :=
  issueWord h 0 0 0 {} (fun s =>
    let n := s.cur
    let c := s.cc
    if c.regs.trap.sup && c.regs.trap.exl then
      endTrapped n (fun s => match c.task with
        | some t => s.onLaunch t.launch (Launch.charged t.wid false)
        | none => s) (c.doms.length + 1) s
    else match c.doms with
      | r :: _ => .trap s .domain (domainVal r 4) 0
      | [] =>
        if (List.finRange 4).any fun (k : Fin 4) => c.eng.retsq k != c.eng.isq[k] then .point s
        else
          let t := (List.finRange 4).foldl (fun (m : Nat) (k : Fin 4) => max m (c.eng.doneTime k c.eng.isq[k])) c.lt
          endTaskEff n (s.setCc { c with lt := t })) s

/-! ## The auditor (R436, R537) -/

/-- The core that a unit of a run lies at. -/
def unitCore : SuspUnit → Option Nat
  | .core n => some n
  | .bank n _ => some n
  | .array cl => some (cl * 24)
  | _ => none
/-- A replay may run on a unit (R436): on the spare die while that is idle, else in a cluster of another logical die than the run that it
checks. -/
def State.replayPlace (s : State) (a : Audit) (u : SuspUnit) : Bool :=
  match unitCore u with
  | none => false
  | some n =>
    if s.spare.sstate = 0 && !s.isFenced (.die 8) then dieOf n == 8
    else (s.logicalDie (dieOf n)).isSome && s.logicalDie (dieOf n) != s.logicalDie (dieOf a.core) && !s.dieFenced (dieOf n)

/-- AUDIT_REPLAY (R436): the oldest selected domain is decided by the signature of its replay on one unit and, where that differs, of a
third run on another; the losing units' suspicion rises, and a lost original charges the parent. What a replay computes is an operand of
the event, and so is its unit; a unit on which R436 lets no replay run decides nothing. DEDUCED (log 170). -/
def execAuditReplay (sig2 sig3 : BitVec 64) (unit2 unit3 : SuspUnit) (s : State) : Host.Outcome State Fault Refusal :=
  match s.audits with
  | [] => .next s
  | a :: rest =>
    let third := unit3 != unit2 && unit3 != .core a.core && (unitCore unit3).isSome
    if !s.replayPlace a unit2 || (sig2 != a.sig && !third) then .next s
    else
      let s := { s with audits := rest }
      let s := match a.launch with
        | some (v, i) => s.owe (.launchComplete ⟨v % 32, Nat.mod_lt _ (by decide)⟩ i)
        | none => s
      let lose := fun (s : State) (u : SuspUnit) => s.suspect u 80
      let charge := fun (s : State) =>
        if a.parent = 0 then s.onLaunch a.launch (Launch.charged a.wid false)
        else s.postErrorFor 5 a.ptag a.core { core := a.core, dom := some (a.parent, a.ptag, a.launch, a.wid) }
      if sig2 = a.sig then .next s
      else if sig3 = a.sig then .next (lose s unit2)
      else if sig3 = sig2 then .next (charge (lose s (.core a.core)))
      else .next (charge (lose (lose (lose s (.core a.core)) unit2) unit3))

end Sys2Proof.Machine
end

