-- ==== Sys2Proof/Machine/Access.lean ====
section
/-! DEFINITION. The completion of a global access (R216), of every form that waits for a walk or is parked. -/
namespace Sys2Proof.Machine
open Sys2Proof

/-- The effect that a core's waiting global access performs, with the word's header. -/
def accessEff : Instr → Option (Hdr × (State → Eff))
  | i@(.gld h d a sz zx imm) => some (h, gldEff i d a sz zx imm)
  | i@(.gst h a b sz imm) => some (h, gstEff i a b sz imm)
  | i@(.gldV h tag d a x imm) => some (h, gldVEff i tag d a x imm)
  | i@(.gldImg h d a x imm) => some (h, gldImgEff i d a x imm)
  | i@(.gstV h a b x imm) => some (h, gstVEff i a b x imm)
  | i@(.gstImg h a b x imm) => some (h, gstImgEff i a b x imm)
  | i@(.amo h op d a b sz scope imm) => some (h, amoEff i op d a b sz scope imm)
  | i@(.cas h d a b sz scope imm) => some (h, casEff i d a b sz scope imm)
  | i@(.red h op a b sz scope imm) => some (h, redEff i op a b sz scope imm)
  | i@(.join h d a) => some (h, joinEff i d a)
  | i@(.cdkeep h a b snap) => some (h, cdkeepEff i a b snap)
  | i@(.cdsig h a b) => some (h, cdsigEff i a b)
  | _ => none

/-- The issue of a word that is a global access, as a gang's followers issue it with the leader's hints (R31). -/
def runAccess : Instr → State → Host.Outcome State Fault Refusal
  | .gld h d a sz zx imm, s => execGld h d a sz zx imm s
  | .gst h a b sz imm, s => execGst h a b sz imm s
  | .gldV h tag d a x imm, s => execGldV h tag d a x imm s
  | .gldImg h d a x imm, s => execGldImg h d a x imm s
  | .gstV h a b x imm, s => execGstV h a b x imm s
  | .gstImg h a b x imm, s => execGstImg h a b x imm s
  | .amo h op d a b sz scope imm, s => execAmo h op d a b sz scope imm s
  | .cas h d a b sz scope imm, s => execCas h d a b sz scope imm s
  | .red h op a b sz scope imm, s => execRed h op a b sz scope imm s
  | .join h d a, s => execJoin h d a s
  | .cdkeep h a b snap, s => execCdkeep h a b snap s
  | .cdsig h a b, s => execCdsig h a b s
  | _, s => .next s

/-- The lock-step members of a leader issue nothing before their own slots behind clk `t` (R150). -/
def State.slotsFrom (s : State) (n t : Nat) : State := (s.followers n).foldl (fun (s : State) f => s.notBefore f.1 (t + f.2)) s

/-- A waiting access of core n is performed at the clk that the device has reached: the word completes, or waits or traps again; a gang
follows its leader. A group goes on behind the registers that are done (R212). -/
def State.completeAccess (s : State) (n : Nat) : Host.Outcome State Fault Refusal :=
  let c := s.core n
  let back := s.cur
  match c.wait with
  | .walk _ | .parked _ =>
    let s := { s.setCore n { c with wait := .none, tmg := { c.tmg with clk := max c.tmg.clk s.clk, issued := max c.tmg.clk s.clk } } with
      cur := n }
    match (c.access.bind accessEff) with
    | none => .next { s.setCore n { s.core n with access := none } with cur := back }
    | some (h, f) =>
      match finish h (max c.tmg.clk s.clk) (f s) with
      | .next s' =>
        let s' := if (s'.core n).wait == .none then s'.setCore n { s'.core n with access := none, moved := 0 } else s'
        if (s'.core n).tmg.words = c.tmg.words then .next { s' with cur := back }
        else match fanOut runAccess (c.access.getD (.globalAccessComplete n)) n c (s'.slotsFrom n (max c.tmg.clk s.clk)) with
          | .next s'' => .next { s'' with cur := back }
          | o => o
      | o => o
  | _ => .next s

/-- GLOBAL_ACCESS_COMPLETE (R216): the access takes its logical time at its home or copy and returns its result. -/
def execGlobalAccessComplete (core : Nat) (s : State) : Host.Outcome State Fault Refusal := s.completeAccess core

end Sys2Proof.Machine
end

