-- ==== Sys2Proof/Machine/Modular.lean ====
section
/-! DEFINITION. Modular arithmetic, the butterfly network and complex FP32, opcodes 0x60 to 0x66 (R287 to R311). -/
namespace Sys2Proof.Machine
open Sys2Proof

/-! ## Modulus sets (R287 to R292) -/

/-- A set's modulus of a lane. -/
def Core.modulus (c : Core) (m : Fin 4) (l : Nat) : Nat := (c.regs.mods[m].mq.getD l 0).toNat
/-- The helper mod_reduce (R289). -/
def Core.modReduce (c : Core) (m : Fin 4) (x : Int) (l : Nat) : Nat := (x % (c.modulus m l : Int)).toNat
/-- The tag M64 with a set as its qualifier (R73). -/
def m64Tag (m : Fin 4) : Tag := BitVec.ofNat 8 (0x10 + 64 * m.val)
/-- A tag is M64 of any set. -/
def isM64 (t : Tag) : Bool := t.extractLsb' 0 6 == 0x10#6

/-- XVAL of a MODULUS trap (R290). -/
def modVal (reason : Nat) (m : Fin 4) (lane : Nat) : Word := BitVec.ofNat 64 (256 * reason + 16 * m.val + lane)

/-- A modulus that R288 allows. -/
def modulusOk (q : Word) : Bool := q.getLsbD 0 && decide (3 ≤ q.toNat ∧ q.toNat < 2 ^ 62)
/-- The Barrett constant of a modulus (R288). -/
def barrett (q : Word) : Word := BitVec.ofNat 64 (2 ^ (2 * bitLen q.toNat) / q.toNat)

/-- A register of set `m` whose lanes are no longer below their moduli becomes POISON (R292). -/
def Core.recheck (c : Core) (m : Fin 4) (r : VR) : VR :=
  if (r.tag == m64Tag m) && !(c.residuesOk m r.bits) then { bits := r.bits, tag := poisonTag } else r

/-- Loads a set; a register tagged in it whose lanes are no longer below their moduli becomes POISON (R292). -/
def Core.loadSet (c : Core) (m : Fin 4) (q : Nat → Word) (mu : Nat → Word) : Core :=
  let ms : ModSet := { mq := Vector.ofFn fun i => q i.val, mc := Vector.ofFn fun i => mu i.val, loaded := true }
  let c := { c with regs := { c.regs with mods := c.regs.mods.set m ms } }
  { c with regs := { c.regs with v := c.regs.v.map (c.recheck m) } }

/-- MQSTAT (R291). -/
def Core.mqstat (c : Core) : Word :=
  BitVec.ofNat 64 ((List.finRange 4).foldl (fun x i => if c.regs.mods[i].loaded then x + 2 ^ i.val else x) 0)

/-! ## The shape of the class (R294, R295, R311) -/

/-- The butterfly network is busy from issue on (R294). -/
def busyNet (n : Nat) (s : State) : State := s.setCc (s.cc.setTmg fun m => { m with netBusy := m.clk + n })

/-- A form of this class: STREAM reason 0 on its operands, then MODULUS for an unloaded set, then its effect.
DESIGN CHOICE (log 189). -/
def modWord (h : Hdr) (d a b : BitVec 7) (more : List (BitVec 7)) (u : Uses) (set : Option (Fin 4))
    (eff : State → Eff) (s : State) : Host.Outcome State Fault Refusal :=
  issueWord h d a b u (noStream (d :: more ++ [a, b]) (fun s =>
    match set with
    | some m => if s.cc.regs.mods[m].loaded then eff s else .trap s .modulus (modVal 2 m 0) 0
    | none => eff s)) s

/-- An element-wise form over 16 lanes (R299): `f` computes a lane from a, b and the old DST. -/
def modForm (h : Hdr) (p : VForm) (set : Option (Fin 4)) (d a : VReg) (b : Option VGSrc)
    (f : Core → Nat → Nat → Nat → Nat → Nat) (s : State) : Host.Outcome State Fault Refusal :=
  let nb := match b with
    | some x => [opVG x]
    | none => []
  modWord h (opV d) (opV a) (nb.headD 0) [] (vUses (opV d) p.dstSource (opV a :: nb) p.km 0) set (fun s =>
    let bv := match b with
      | some x => srcVregs x
      | none => []
    vecEff p d [a] bv p.active (fun v l fp =>
      let y := match b with
        | some (.g r) => (s.cc.rdG r).toNat
        | _ => elem 64 (v.src 1) l
      (f s.cc l (elem 64 (v.src 0) l) y (elem 64 v.old l), fp)) noSkip (fun _ _ => p.tag) s) s

/-- The form of an arithmetic instruction of set m. -/
def setForm (m : Fin 4) (lat : Nat) (km : KReg) (z : Bool) : VForm :=
  { w := 64, tag := m64Tag m, lat := lat, km := km, z := z, allowA := fun t => t == m64Tag m,
    allowB := fun t => t == m64Tag m }

/-! ## Modular arithmetic (R299 to R301) -/

def execVmadd (h : Hdr) (d a : VReg) (b : VGSrc) (m : Fin 4) (km : KReg) (z : Bool) (s : State) :
    Host.Outcome State Fault Refusal :=
  modForm h (setForm m 2 km z) (some m) d a (some b) (fun c l x y _ => c.modReduce m (x + y) l) s
def execVmsub (h : Hdr) (d a : VReg) (b : VGSrc) (m : Fin 4) (km : KReg) (z : Bool) (s : State) :
    Host.Outcome State Fault Refusal :=
  modForm h (setForm m 2 km z) (some m) d a (some b) (fun c l x y _ => c.modReduce m ((x : Int) - y) l) s
def execVmneg (h : Hdr) (d a : VReg) (m : Fin 4) (km : KReg) (z : Bool) (s : State) :
    Host.Outcome State Fault Refusal :=
  modForm h (setForm m 2 km z) (some m) d a none (fun c l x _ _ => c.modReduce m (-(x : Int)) l) s
def execVmmul (h : Hdr) (d a : VReg) (b : VGSrc) (m : Fin 4) (km : KReg) (z : Bool) (s : State) :
    Host.Outcome State Fault Refusal :=
  modForm h (setForm m 6 km z) (some m) d a (some b) (fun c l x y _ => c.modReduce m (x * y) l) s
def execVmmac (h : Hdr) (d a : VReg) (b : VGSrc) (m : Fin 4) (km : KReg) (z : Bool) (s : State) :
    Host.Outcome State Fault Refusal :=
  modForm h { setForm m 6 km z with readsD := true } (some m) d a (some b)
    (fun c l x y o => c.modReduce m (o + x * y) l) s

/-- VMRED (R300): from I64, or N64 with `nat`. -/
def execVmred (h : Hdr) (nat : Bool) (d a : VReg) (m : Fin 4) (km : KReg) (z : Bool) (s : State) :
    Host.Outcome State Fault Refusal :=
  modForm h { setForm m 6 km z with allowA := fun t => t == (if nat then 0x0F#8 else 0x0B#8) } (some m) d a none
    (fun c l x _ _ => c.modReduce m (if nat then x else signedOf 64 x) l) s

/-- The set that an M64 tag names. -/
def tagSet (t : Tag) : Fin 4 := fin4 (t.extractLsb' 6 2)
/-- A residue's centred value (R301). -/
def Core.lift (c : Core) (m : Fin 4) (l v : Nat) : Int :=
  if 2 * v < c.modulus m l then v else (v : Int) - c.modulus m l

def execVmcvtI64 (h : Hdr) (d a : VReg) (km : KReg) (z : Bool) (s : State) : Host.Outcome State Fault Refusal :=
  modForm h { w := 64, tag := 0x0B#8, lat := 2, km := km, z := z, allowA := isM64 } none d a none
    (fun c l x _ _ => wrapTo 64 (c.lift (tagSet (c.rdV a).tag) l x)) s
def execVmcvtMn (h : Hdr) (d a : VReg) (m : Fin 4) (km : KReg) (z : Bool) (s : State) :
    Host.Outcome State Fault Refusal :=
  modForm h { setForm m 6 km z with allowA := isM64 } (some m) d a none (fun c l x _ _ => c.modReduce m x l) s
def execVmcvtMs (h : Hdr) (d a : VReg) (m : Fin 4) (km : KReg) (z : Bool) (s : State) :
    Host.Outcome State Fault Refusal :=
  modForm h { setForm m 6 km z with allowA := isM64 } (some m) d a none
    (fun c l x _ _ => c.modReduce m (c.lift (tagSet (c.rdV a).tag) l x) l) s

/-! ## Loading a set (R302, R303) -/

/-- A tag is N64. -/
def isN64 (t : Tag) : Bool := t == 0x0F#8

/-- The common part of MQGEN and MQLD: they wait for every result in flight, and the next word issues `gap` clk later. -/
def loadSetWord (h : Hdr) (a b : BitVec 7) (ops : List VOp) (m : Fin 4) (gap : Nat)
    (bad : Core → Option (Nat × Nat)) (q mu : Core → Nat → Word) (s : State) : Host.Outcome State Fault Refusal :=
  modWord h 0 a b [] { srcs := a :: (if b = 0 then [] else [b]), empty := .all } none (fun s =>
    let c := s.cc
    match c.tagBreach ops with
    | some (k, x) => .trap s k x 0
    | none => match bad c with
      | some (r, l) => .trap s .modulus (modVal r m l) 0
      | none => .done (s.setCc ((c.loadSet m (q c) (mu c)).setTmg fun t => { t with clk := t.clk + gap }))) s

def execMqgen (h : Hdr) (a : VReg) (m : Fin 4) (s : State) : Host.Outcome State Fault Refusal :=
  loadSetWord h (opV a) 0 [⟨2, a, isN64⟩] m 40
    (fun c => ((List.range 16).find? fun l => !modulusOk (lane (c.rdV a).bits l)).map fun l => (0, l))
    (fun c l => lane (c.rdV a).bits l) (fun c l => barrett (lane (c.rdV a).bits l)) s

def execMqld (h : Hdr) (a b : VReg) (m : Fin 4) (s : State) : Host.Outcome State Fault Refusal :=
  loadSetWord h (opV a) (opV b) [⟨2, a, isN64⟩, ⟨3, b, isN64⟩] m 8
    (fun c => (List.range 16).findSome? fun l =>
      if !modulusOk (lane (c.rdV a).bits l) then some (0, l)
      else if lane (c.rdV b).bits l ≠ barrett (lane (c.rdV a).bits l) then some (1, l) else none)
    (fun c l => lane (c.rdV a).bits l) (fun c l => lane (c.rdV b).bits l) s

/-! ## Butterflies (R304) -/

/-- The second register of a pair (R38). -/
def pairReg (d : VReg) : VReg := groupReg d 1

/-- A form in place on a pair: both registers are written together (R41). -/
def pairWord (h : Hdr) (d : VReg) (a : Option VReg) (km : KReg) (set : Option (Fin 4)) (lat busy : Nat)
    (allow : Tag → Bool) (f : Core → FpRegs → (VData × VData) × FpRegs) (s : State) :
    Host.Outcome State Fault Refusal :=
  let na := match a with
    | some x => [opV x]
    | none => []
  modWord h (opV d) (na.headD 0) 0 [opV (pairReg d)]
    { srcs := opV d :: opV (pairReg d) :: na ++ [opK km], dsts := [opV d, opV (pairReg d)], unit := .net } set (fun s =>
      let c := s.cc
      let ops := (match a with
        | some x => [(⟨2, x, allow⟩ : VOp)]
        | none => []) ++ [⟨1, d, allow⟩, ⟨1, pairReg d, fun t => allow t && (a.isSome || t == (c.rdV d).tag)⟩]
      match c.tagBreach ops with
      | some (k, x) => .trap s k x 0
      | none =>
        let r := f c c.regs.fp
        let tag := (c.rdV d).tag
        let c1 := (c.setFp fun _ => r.2).result c.tmg.clk lat (.v d ⟨r.1.1, permTag tag c r.1.1⟩)
        .done (busyNet busy (s.setCc (c1.result c.tmg.clk lat (.v (pairReg d) ⟨r.1.2, permTag tag c r.1.2⟩))))) s

/-- A butterfly on the active lanes. -/
def bflyWord (h : Hdr) (d a : VReg) (m : Fin 4) (km : KReg) (f : Core → Nat → Nat → Nat → Nat → Nat × Nat) (s : State) :
    Host.Outcome State Fault Refusal :=
  pairWord h d (some a) km (some m) 7 2 (fun t => t == m64Tag m) (fun c fp =>
    let p := fun l => (lane (c.rdV d).bits l).toNat
    let q := fun l => (lane (c.rdV (pairReg d)).bits l).toNat
    let out := fun l => if (c.rdK km).getLsbD l then f c l (p l) (q l) (lane (c.rdV a).bits l).toNat else (p l, q l)
    ((ofLanes fun l => BitVec.ofNat 64 (out l).1, ofLanes fun l => BitVec.ofNat 64 (out l).2), fp)) s

def execBfly (h : Hdr) (d a : VReg) (m : Fin 4) (km : KReg) (s : State) : Host.Outcome State Fault Refusal :=
  bflyWord h d a m km (fun c l x y w =>
    let t := c.modReduce m (w * y) l
    (c.modReduce m (x + t) l, c.modReduce m ((x : Int) - t) l)) s
def execIbfly (h : Hdr) (d a : VReg) (m : Fin 4) (km : KReg) (s : State) : Host.Outcome State Fault Refusal :=
  bflyWord h d a m km (fun c l x y w => (c.modReduce m (x + y) l, c.modReduce m (((x : Int) - y) * w) l)) s

/-! ## Permutations (R305 to R307) -/

/-- A permutation of a register's lanes. -/
def lanePerm (h : Hdr) (d a : VReg) (from_ : Nat → Nat) (s : State) : Host.Outcome State Fault Refusal :=
  modWord h (opV d) (opV a) 0 [] { srcs := [opV a], dsts := [opV d], unit := .net } none (fun s =>
    let c := s.cc
    match poisonCheck 2 (c.rdV a) with
    | some x => .trap s .poison x 0
    | none =>
      let x := ofLanes fun l => lane (c.rdV a).bits (from_ l)
      .done (busyNet 1 (s.setCc (c.result c.tmg.clk 3 (.v d ⟨x, permTag (c.rdV a).tag c x⟩))))) s

def execBperm (h : Hdr) (d a : VReg) (k : BitVec 2) (s : State) : Host.Outcome State Fault Refusal :=
  lanePerm h d a (fun l => l ^^^ 2 ^ k.toNat) s

/-- A lane number with its low b bits reversed. -/
def bitRev (b l : Nat) : Nat :=
  l / 2 ^ b * 2 ^ b + (List.range b).foldl (fun x i => if l.testBit i then x + 2 ^ (b - 1 - i) else x) 0

def execVbitrev (h : Hdr) (d a : VReg) (b : BitVec 3) (s : State) : Host.Outcome State Fault Refusal :=
  lanePerm h d a (bitRev b.toNat) s

/-- BPERMX (R306): lane l of the first register and lane l xor 2^k of the second change places where bit k of l is 1. -/
def execBpermx (h : Hdr) (d : VReg) (k : BitVec 2) (s : State) : Host.Outcome State Fault Refusal :=
  pairWord h d none 0 none 3 1 (fun _ => true) (fun c fp =>
    let x := (c.rdV d).bits
    let y := (c.rdV (pairReg d)).bits
    ((ofLanes fun l => if l.testBit k.toNat then lane y (l ^^^ 2 ^ k.toNat) else lane x l,
      ofLanes fun l => if l.testBit k.toNat then lane y l else lane x (l ^^^ 2 ^ k.toNat)), fp)) s

/-! ## Complex FP32 (R308 to R310) -/

/-- A term: a product of two values, negated or not. -/
structure Term where
  neg : Bool
  x : Ex
  y : Ex

/-- The exact sum of terms under R309. DEDUCED (log 38). -/
def sumTerms (rdn : Bool) (ts : List Term) : Ex :=
  let ps := ts.map fun t => if t.neg then (t.x.mul t.y).negate else t.x.mul t.y
  if ts.any fun t => t.x.isNan || t.y.isNan then .nan (ts.any fun t => t.x.isSig || t.y.isSig)
  else if ps.any Ex.isNan then .nan true
  else
    let r := (ps.drop 1).foldl (Ex.add rdn) (ps.headD (.nan true))
    if r.isZero then
      let neg := if ps.all fun p => p.neg then true else if ps.all fun p => !p.neg then false else rdn
      .num neg 0 0 false
    else r

/-- The value 1, the second factor of a term that is no product. -/
def exOne : Ex := .num false 1 0 false
/-- The parts of a CF32 value (R64). -/
def cfRe (x : Nat) : Ex := fp32.value (x % 2 ^ 32)
def cfIm (cj : Bool) (x : Nat) : Ex := if cj then (fp32.value (x / 2 ^ 32)).negate else fp32.value (x / 2 ^ 32)
/-- The terms of a product w·b: real and imaginary parts, all negated with `n`. -/
def prodRe (n cj : Bool) (w b : Nat) : List Term := [⟨n, cfRe w, cfRe b⟩, ⟨!n, cfIm cj w, cfIm false b⟩]
def prodIm (n cj : Bool) (w b : Nat) : List Term := [⟨n, cfRe w, cfIm false b⟩, ⟨n, cfIm cj w, cfRe b⟩]

/-- Rounds a list of components in order with a lane's generator. -/
def roundAll (rm : BitVec 3) (l : Fin 16) : List (List Term) → FpRegs → List Nat × FpRegs
  | [], fp => ([], fp)
  | t :: ts, fp =>
    let r := fp.round fp32 rm l (sumTerms (fp.mode rm == modeRDN) t)
    let q := roundAll rm l ts r.2
    (r.1 :: q.1, q.2)

/-- A lane's generator steps n times in SR. -/
def stepLane (rm : BitVec 3) (l : Fin 16) (n : Nat) (fp : FpRegs) : FpRegs :=
  if fp.mode rm = modeSR then (List.range n).foldl (fun fp _ => fp.stepSr l) fp else fp

/-- A tag is CF32. -/
def isCf32 (t : Tag) : Bool := t == 5#8

/-- VFFT2 (R308, R310). -/
def execVfft2 (h : Hdr) (d a : VReg) (rm : BitVec 3) (cj : Bool) (km : KReg) (s : State) :
    Host.Outcome State Fault Refusal :=
  pairWord h d (some a) km none 7 2 isCf32 (fun c fp =>
    let r := (List.finRange 16).foldl (fun (r : (VData × VData) × FpRegs) (l : Fin 16) =>
      let x := (lane (c.rdV d).bits l.val).toNat
      let y := (lane (c.rdV (pairReg d)).bits l.val).toNat
      let w := (lane (c.rdV a).bits l.val).toNat
      if (c.rdK km).getLsbD l.val then
        let o := roundAll rm l
          [⟨false, cfRe x, exOne⟩ :: prodRe false cj w y, ⟨false, cfIm false x, exOne⟩ :: prodIm false cj w y,
           ⟨false, cfRe x, exOne⟩ :: prodRe true cj w y, ⟨false, cfIm false x, exOne⟩ :: prodIm true cj w y] r.2
        ((setElem 64 r.1.1 l.val (o.1.getD 0 0 + 2 ^ 32 * o.1.getD 1 0),
          setElem 64 r.1.2 l.val (o.1.getD 2 0 + 2 ^ 32 * o.1.getD 3 0)), o.2)
      else (r.1, stepLane rm l 4 r.2)) (((c.rdV d).bits, (c.rdV (pairReg d)).bits), fp)
    r) s

/-- VCMUL (R308, R310). -/
def execVcmul (h : Hdr) (d a b : VReg) (rm : BitVec 3) (cj : Bool) (km : KReg) (z : Bool) (s : State) :
    Host.Outcome State Fault Refusal :=
  let p : VForm := { w := 64, tag := 5#8, lat := 6, km := km, z := z, allowA := isCf32, allowB := isCf32 }
  modWord h (opV d) (opV a) (opV b) [] { vUses (opV d) p.dstSource [opV a, opV b] km 0 with unit := .net } none (fun s =>
    match vecEff p d [a] [b] p.active (fun v e fp =>
        let r := roundAll rm (laneOf 64 e) [prodRe false cj (elem 64 (v.src 1) e) (elem 64 (v.src 0) e),
          prodIm false cj (elem 64 (v.src 1) e) (elem 64 (v.src 0) e)] fp
        (r.1.getD 0 0 + 2 ^ 32 * r.1.getD 1 0, r.2)) (fun e fp => stepLane rm (laneOf 64 e) 2 fp)
        (fun _ _ => p.tag) s with
    | .done s => .done (busyNet 1 s)
    | e => e) s

end Sys2Proof.Machine
end

