-- ==== Sys2Proof/Machine/System.lean ====
section
/-! DEFINITION. Opcodes 0x80 to 0x85 (R450 to R461, R482, R483, R485 to R490): the system registers, system calls and returns,
waiting, the TLB forms and the overflow table. -/
namespace Sys2Proof.Machine
open Sys2Proof

/-! ## Privilege (R451) -/

/-- A supervisor-only form: PRIV in user mode, before the guard (check 12 of R37). -/
def privileged (s : State) (k : State → Host.Outcome State Fault Refusal) : Host.Outcome State Fault Refusal :=
  if s.cc.regs.trap.sup then k s else decodeTrap s .priv 0

/-- A register that user mode may not name (R453). -/
def sysPrivileged (n : BitVec 12) : Bool := ((0x001#12).ule n && n.ule 0x006#12) || (0x080#12).ule n

/-! ## Performance counters (R482, R483) -/

/-- A counter as it reads: the exact value, or, of a shared event in user mode, the multiple of 1,024 below it at the last
64th saddle tick. DEDUCED (log 113). -/
def State.pmcRead (s0 : State) (n : Nat) (i : Fin 4) : State × Word :=
  let s := s0.grow n
  let c := s.core n
  let shared := (4#8).ule c.pmsel[i] && c.pmsel[i].ule 9#8
  (s, if shared && !c.regs.trap.sup then c.pmcTick[i] &&& ~~~1023#64 else c.pmcExact i)

/-- A write of PMSELn: what PMCn has counted stays; an unlisted code stores 0 (R482). -/
def State.pmselWrite (s0 : State) (n : Nat) (i : Fin 4) (x : Word) : State :=
  let s := s0.grow n
  let c := s.core n
  let evt := if (x.setWidth 8).ule 9#8 then x.setWidth 8 else 0#8
  s.setCore n { c with pmsel := c.pmsel.set i evt, pmc := c.pmc.set i (c.pmcExact i - BitVec.ofNat 64 (c.eventCount evt)) }

/-! ## Registers as they read (R453, R454) -/

/-- LPAn (R138). -/
def LoopLvl.word (l : LoopLvl) : Word :=
  (l.len1.setWidth 64 <<< 56) ||| (l.beg.setWidth 64 <<< 2) ||| (BitVec.ofBool l.v).setWidth 64
/-- STRMn (R263). -/
def strmWord : Option StreamPort → Word
  | none => 0
  | some p => (1#64 <<< 63) ||| ((BitVec.ofBool p.desc.write).setWidth 64 <<< 62) ||| (BitVec.ofNat 64 p.reg.val <<< 56) |||
      (p.desc.tag.setWidth 64 <<< 48) ||| BitVec.ofNat 64 (p.pos % 2 ^ 48)
/-- SPSTAT (R167). -/
def Core.spstat (c : Core) : Word :=
  (c.cecnt.setWidth 64 <<< 48) ||| (c.rccnt.setWidth 64 <<< 32) ||| ((BitVec.ofBool (c.fail != 0)).setWidth 64 <<< 19) |||
    ((BitVec.ofBool c.ue).setWidth 64 <<< 18) ||| c.fail.setWidth 64
/-- EFAULTc (R368). -/
def EFault.word (e : EFault) : Word :=
  ((BitVec.ofBool e.v).setWidth 64 <<< 63) ||| ((BitVec.ofBool e.more).setWidth 64 <<< 62) ||| (e.cause.setWidth 64 <<< 56) |||
    e.seq.setWidth 64
/-- FBSTAT (R193). -/
def Die.fbstat (d : Die) : Word :=
  (d.dcnt.setWidth 64 <<< 32) ||| (BitVec.ofNat 64 (d.fbuf.filter fun f => !f.read).length <<< 12) |||
    (BitVec.ofNat 64 d.fbuf.length <<< 8) ||| (BitVec.ofBool d.drop).setWidth 64
/-- The two words of a fault-buffer entry (R194). -/
def FaultSlot.word0 (f : FaultSlot) : Word :=
  (f.count.setWidth 64 <<< 56) ||| (f.vpn.setWidth 64 <<< 16) ||| (f.ptag.setWidth 64 <<< 10) ||| (f.kind.setWidth 64 <<< 8) |||
    (f.level.setWidth 64 <<< 6) ||| (f.path.setWidth 64 <<< 3) ||| 1#64
def FaultSlot.word1 (f : FaultSlot) : Word := (f.vsid.setWidth 64 <<< 32) ||| f.lcn.setWidth 64
/-- PGBASE (R185). -/
def Core.pgbase (c : Core) : Word := (c.root.setWidth 64 <<< 16) ||| (BitVec.ofBool c.xlate).setWidth 64
/-- GLENST (R454). -/
def glenWord : Option Ctx → Word
  | none => 0
  | some x => (1#64 <<< 63) ||| (x.ptag.setWidth 64 <<< 56) ||| (if x.forced then 21 else 0)
/-- SPDOOR and SPDARG (R454, R489). -/
def Die.spdoor (d : Die) : Word :=
  (List.finRange 3).foldl (fun (w : Word) i => if d.door[i].isSome then w ||| (1#64 <<< i.val) else w) 0
def Die.spdarg (d : Die) : Word := ((List.finRange 3).findSome? fun i => d.door[i]).getD 0
/-- The doorbell of a die is rung for a kind of work; while its bit is set the request is held back (R489). -/
def State.ringDoor (s : State) (die : Nat) (k : Fin 3) (arg : Word) : State :=
  let d := s.die die
  s.setDie die (if d.door[k].isSome then { d with doorWait := d.doorWait ++ [(k, arg)] } else { d with door := d.door.set k (some arg) })
/-- Half h of SRSTATE (R84). -/
def FpRegs.srHalf (f : FpRegs) (h : Fin 8) : Word :=
  ((f.srs[2 * h.val + 1]).setWidth 64 <<< 32) ||| (f.srs[2 * h.val]).setWidth 64

/-- What RDSYS returns for a register of R453, with the state after the read. -/
def State.sysRead (s : State) (n : Nat) (r : BitVec 12) : State × Word :=
  let c := s.core n
  let t := c.regs.trap
  let k := r.toNat
  let two : Fin 4 := ⟨k % 4, Nat.mod_lt _ (by decide)⟩
  let one : Fin 2 := ⟨k % 2, Nat.mod_lt _ (by decide)⟩
  let d := s.die (dieOf n)
  if k = 0x000 then (s, c.xstat)
  else if k = 0x001 then (s, t.xpc)
  else if k = 0x002 then (s, t.xcause.setWidth 64)
  else if k = 0x003 then (s, t.xval)
  else if k = 0x004 then (s, t.xprog.setWidth 64)
  else if k = 0x005 then (s, t.xvec.setWidth 64 <<< 2)
  else if k = 0x006 then (s, t.xrec.setWidth 64 <<< 7)
  else if k = 0x007 then (s, c.regs.fp.fflags.setWidth 64)
  else if 0x010 ≤ k ∧ k ≤ 0x017 then (s, c.regs.fp.srHalf ⟨k % 8, Nat.mod_lt _ (by decide)⟩)
  else if 0x018 ≤ k ∧ k ≤ 0x01B then (s, c.regs.swz[two])
  else if k = 0x020 ∨ k = 0x021 then (s, c.regs.loops[one].word)
  else if k = 0x022 ∨ k = 0x023 then (s, c.regs.loops[one].count)
  else if 0x028 ≤ k ∧ k ≤ 0x02B then (s, strmWord c.regs.strm[two])
  else if k = 0x02C then (s, c.mqstat)
  else if k = 0x02D then (s, c.spstat)
  else if 0x030 ≤ k ∧ k ≤ 0x033 then (s, (c.eng.efault[two]).word)
  else if k = 0x038 then (s, c.regs.fp.ovt.extractLsb' 0 64)
  else if k = 0x039 then (s, c.regs.fp.ovt.extractLsb' 64 64)
  else if k = 0x040 then (s, c.ptag.setWidth 64)
  else if k = 0x041 then (s, BitVec.ofNat 64 (s.lcn n))
  else if k = 0x042 then (s, 1)
  else if k = 0x043 then (s, s.cycleOf n c)
  else if k = 0x044 then (s, BitVec.ofNat 64 s.ticks + ((s.vdOf n).map fun v => (s.vd v).sofs).getD 0)
  else if k = 0x045 then (s, BitVec.ofNat 64 c.lt)
  else if k = 0x046 then (s, (if (s.hpol n).1 then 2 else 0) + (if (s.hpol n).2 then 1 else 0))
  else if 0x048 ≤ k ∧ k ≤ 0x04B then (s, (c.pmsel[two]).setWidth 64)
  else if 0x04C ≤ k ∧ k ≤ 0x04F then s.pmcRead n two
  else if k = 0x080 then (s, c.pgbase)
  else if k = 0x081 then (s, c.vsid.setWidth 64)
  else if k = 0x088 then (s, d.fbstat)
  else if k = 0x08A then (s, c.fbpop1)
  else if k = 0x090 then (s, (s.cluster (clusterOf n)).zshare)
  else if k = 0x098 then ((s.tryInstall n), ((s.tryInstall n).core n).slotctl)
  else if k = 0x0A8 then (s, glenWord (s.cluster (clusterOf n)).glen)
  else if k = 0x0B0 then (s, d.spdoor)
  else if k = 0x0B1 then (s, d.spdarg)
  else (s, 0)

/-- RDSYS (R454): interlocked, 2 clk, but for the registers of variable latency. -/
def execRdsys (h : Hdr) (d : GReg) (n : BitVec 12) (s : State) : Host.Outcome State Fault Refusal :=
  if sysPrivileged n && !s.cc.regs.trap.sup then decodeTrap s .priv 0
  else issueWord h 0 0 0 { dsts := [opG d] } (fun s =>
    let r := s.sysRead s.cur n
    if n = 0x088 ∨ n = 0x08A then .done (r.1.setCc (r.1.cc.slipResult (.g d r.2)))
    else .done (r.1.setCc (r.1.cc.lockedResult r.1.cc.tmg.clk 2 (.g d r.2)))) s

/-! ## Registers as they are written -/

/-- Writes half h of SRSTATE; a zero lane stores 1 (R84). -/
def FpRegs.setSrHalf (f : FpRegs) (h : Fin 8) (x : Word) : FpRegs :=
  let lane := fun (y : BitVec 32) => if y = 0 then 1#32 else y
  { f with srs := (f.srs.set (2 * h.val) (lane (x.extractLsb' 0 32))).set (2 * h.val + 1) (lane (x.extractLsb' 32 32)) }

/-- A write of XSTAT: RMODE where its code is one, and in supervisor mode PT, PS and EXL (R81, R454). -/
def Core.writeXstat (c : Core) (x : Word) : Core :=
  let m : BitVec 3 := x.extractLsb' 0 3
  let c := if (1#3).ule m && m.ule 5#3 then c.setFp fun f => { f with rmode := m } else c
  if c.regs.trap.sup then c.setTrap fun t => { t with pt := x.getLsbD 11, ps := x.getLsbD 10, exl := x.getLsbD 9 } else c

/-- Writes LPAn (R138). -/
def LoopLvl.setWord (l : LoopLvl) (x : Word) : LoopLvl :=
  { l with v := x.getLsbD 0, len1 := x.extractLsb' 56 8, beg := x.extractLsb' 2 54 }

/-- What WRSYS does to a register of R453; read-only registers and fields keep their value (R3). -/
def State.sysWrite (s : State) (n : Nat) (r : BitVec 12) (x : Word) : State :=
  let c := s.core n
  let k := r.toNat
  let two : Fin 4 := ⟨k % 4, Nat.mod_lt _ (by decide)⟩
  let one : Fin 2 := ⟨k % 2, Nat.mod_lt _ (by decide)⟩
  let trap := fun (f : TrapRegs → TrapRegs) => s.setCore n (c.setTrap f)
  let loop := fun (f : LoopLvl → LoopLvl) =>
    s.setCore n (c.setLoops (c.regs.loops.set one (f c.regs.loops[one])))
  if k = 0x000 then s.setCore n (c.writeXstat x)
  else if k = 0x001 then trap fun t => { t with xpc := x }
  else if k = 0x002 then trap fun t => { t with xcause := x.setWidth 8 }
  else if k = 0x003 then trap fun t => { t with xval := x }
  else if k = 0x004 then trap fun t => { t with xprog := x.setWidth 3 }
  else if k = 0x005 then trap fun t => { t with xvec := x.extractLsb' 2 54 }
  else if k = 0x006 then trap fun t => { t with xrec := x.extractLsb' 7 49 }
  else if k = 0x007 then s.setCore n (c.setFp fun f => { f with fflags := x.setWidth 5 })
  else if 0x010 ≤ k ∧ k ≤ 0x017 then s.setCore n (c.setFp fun f => f.setSrHalf ⟨k % 8, Nat.mod_lt _ (by decide)⟩ x)
  else if k = 0x020 ∨ k = 0x021 then loop fun l => l.setWord x
  else if k = 0x022 ∨ k = 0x023 then loop fun l => { l with count := x }
  else if k = 0x02D then s.setCore n { c with ue := c.ue && !x.getLsbD 18 }
  else if 0x048 ≤ k ∧ k ≤ 0x04B then s.pmselWrite n two x
  else if k = 0x080 then s.setCore n { c with root := x.extractLsb' 16 36, xlate := x.getLsbD 0 }
  else if k = 0x081 then s.setCore n { c with vsid := x.setWidth 8 }
  else s

/-- The shape of every WRSYS (R454): it issues once no result of the core is in flight. -/
def wrsysForm (h : Hdr) (a : GReg) (n : BitVec 12) (eff : Word → State → Eff) (s : State) : Host.Outcome State Fault Refusal :=
  if sysPrivileged n && !s.cc.regs.trap.sup then decodeTrap s .priv 0
  else issueWord h 0 0 0 { srcs := [opG a], empty := .all } (fun s => eff (s.cc.rdG a) s) s

def execWrsys (h : Hdr) (a : GReg) (n : BitVec 12) (s : State) : Host.Outcome State Fault Refusal :=
  wrsysForm h a n (fun x s => .done (s.sysWrite s.cur n x)) s

/-! ## Registers whose access acts on a unit -/

/-- FBPOP0_READ (R194): the oldest unread entry is marked read, and its second word is latched. -/
def execFbpop0Read (h : Hdr) (d : GReg) (s : State) : Host.Outcome State Fault Refusal :=
  privileged s fun s => issueWord h 0 0 0 { dsts := [opG d] } (fun s =>
    let n := s.cur
    let k := s.die (dieOf n)
    match k.fbuf.findIdx? fun f => !f.read with
    | none => .done (s.setCc ({ s.cc with fbpop1 := 0 }.slipResult (.g d 0)))
    | some i =>
      let f := k.fbuf[i]?.getD ⟨0, 0, 0, 0, 0, 0, 0, 0, true⟩
      let s := s.setDie (dieOf n) { k with fbuf := k.fbuf.set i { f with read := true } }
      .done (s.setCc ({ s.cc with fbpop1 := f.word1 }.slipResult (.g d f.word0)))) s

/-- DERRPOP_READ (R454, R455): the oldest entry leaves the queue, and a posting that waited enters it. -/
def execDerrpopRead (h : Hdr) (d : GReg) (s : State) : Host.Outcome State Fault Refusal :=
  privileged s fun s => issueWord h 0 0 0 { dsts := [opG d] } (fun s =>
    let k := s.die (dieOf s.cur)
    match k.derrq with
    | [] => .done (s.setCc (s.cc.slipResult (.g d 0)))
    | e :: rest =>
      let w : Word := (1#64 <<< 63) ||| (e.kind.setWidth 64 <<< 56) ||| (e.ptag.setWidth 64 <<< 50) |||
        (BitVec.ofNat 64 (s.lcnIn (some e.ptag) e.core) <<< 32)
      let s := s.setDie (dieOf s.cur) { k with derrq := rest ++ (k.derrWait.take 1).map (·.1), derrWait := k.derrWait.drop 1 }
      let s := match k.derrWait.head?.bind (·.2) with
        | some x => { s with charges := s.charges ++ [x], pending := s.pending ++ [Instr.domainCharge] }
        | none => s
      .done (s.setCc (s.cc.slipResult (.g d w)))) s

/-- FBSTAT_DROP_CLEAR (R193). -/
def execFbstatDropClear (h : Hdr) (a : GReg) (s : State) : Host.Outcome State Fault Refusal :=
  wrsysForm h a 0x088 (fun x s =>
    let k := s.die (dieOf s.cur)
    .done (s.setDie (dieOf s.cur) { k with drop := k.drop && !x.getLsbD 0 })) s

/-- SPDOOR_CLEAR (R489): a bit written 1 is cleared, and work of its kind that was held back sets it again. -/
def execSpdoorClear (h : Hdr) (a : GReg) (s : State) : Host.Outcome State Fault Refusal :=
  wrsysForm h a 0x0B0 (fun x s =>
    .done ((List.finRange 3).foldl (fun (s : State) (i : Fin 3) =>
      if x.getLsbD i.val then
        let k := s.die (dieOf s.cur)
        let next := (k.doorWait.find? fun e => e.1 == i).map (·.2)
        let j := k.doorWait.findIdx fun e => e.1 == i
        s.setDie (dieOf s.cur) { k with door := k.door.set i next, doorWait := k.doorWait.eraseIdx j }
      else s) s)) s

/-- Reads the record of a schedule, 16 bytes at a time (R402); an error comes with its address. DEDUCED (log 86). -/
def State.slotRecord (s : State) (n : Nat) : Nat → Word → Except (HwErr × Word) (State × List Byte)
  | 0, _ => .ok (s, [])
  | k + 1, a =>
    match s.hwRead n a 16 with
    | .error e => .error (e, a)
    | .ok (s1, bs) => match State.slotRecord s1 n k (a + 16) with
      | .error e => .error e
      | .ok (s2, cs) => .ok (s2, bs ++ cs)

/-- A record of a schedule that cannot be read is a fault-on-fault (R197, R402), as the trap table gives WRSYS no cause for it (R490); an
uncorrectable word is posted as well (R213, R455). -/
def slotFault (s : State) (e : HwErr × Word) : Eff := .sleep ((s.badRead s.cur (e.1 == .poison)).faultOnFault s.cur e.2.toNat)

/-- SLOTCTL_GO (R402): the record's address is written; GO reads the record and starts its installation. -/
def execSlotctlGo (h : Hdr) (a : GReg) (s : State) : Host.Outcome State Fault Refusal :=
  wrsysForm h a 0x098 (fun x s =>
    let n := s.cur
    let addr := x &&& 0x00FFFFFFFFFFFFF0#64
    let s := s.setCc { s.cc with slotctl := (s.cc.slotctl &&& ~~~0x00FFFFFFFFFFFFF0#64) ||| addr }
    if !x.getLsbD 0 then .done s
    else match s.slotRecord n 1 addr with
      | .error e => slotFault s e
      | .ok (s1, hdr) =>
        let count := (recGet hdr 0 2).toNat
        match s1.slotRecord n (if 1 ≤ count ∧ count ≤ 4096 then count else 0) (addr + 16) with
        | .error e => slotFault s1 e
        | .ok (s2, bs) =>
          .done ((s2.setCc { s2.cc with installing := some (s2.cc.ptag, hdr ++ bs), slotctl := slotStatus s2.cc.slotctl 3 0 }).tryInstall
            n)) s

/-- Where the words of a scratchpad lie after a change of its swizzle regions (R170): the word of new index that reads the
bank which word w's old index named. -/
def Core.movedWord (old new : Core) (w : Nat) : Nat :=
  if 12288 ≤ w then w else w / 16 * 16 + (w % 16 ^^^ (old.bank (w / 16 * 16)) ^^^ (new.bank (w / 16 * 16)))

/-- A scratchpad under a new SWZn (R168, R170): no word moves, but each is found at the index that its bank now has. -/
def Core.setSwz (c : Core) (i : Fin 4) (x : Word) : Core :=
  let new := { c with regs := { c.regs with swz := c.regs.swz.set i (x &&& 0x8000000003FF03FF#64) } }
  let f := c.movedWord new
  { new with
    spad := c.spad.foldl (fun (m : Mem) (e : Nat × Byte) => m.set (8 * f (e.1 / 8) + e.1 % 8) e.2) []
    spadBad := c.spadBad.map f, spadSoft := c.spadSoft.map f, spadHard := c.spadHard.map f, ueSeen := c.ueSeen.map f }

/-- SWZ_WRITE (R168, R170). -/
def execSwzWrite (h : Hdr) (a : GReg) (i : Fin 4) (s : State) : Host.Outcome State Fault Refusal :=
  wrsysForm h a (0x018 + BitVec.ofNat 12 i.val) (fun x s => .done ((s.forget (.spad s.cur)).setCc (s.cc.setSwz i x))) s

/-- ZSHARE_WRITE (R313): a write that changes a share waits for its queue to empty. -/
def execZshareWrite (h : Hdr) (a : GReg) (s : State) : Host.Outcome State Fault Refusal :=
  wrsysForm h a 0x090 (fun x s =>
    let c := s.cluster (clusterOf s.cur)
    if c.zshareReady x then .done (s.setCluster (clusterOf s.cur) (c.writeZshare x)) else .stall s) s

/-! ## SYSCALL, BKPT, XRET (R460, R461) -/

/-- The call record of a system call (R459). -/
def Core.callRecord (c : Core) (imm : BitVec 32) : List Byte :=
  toBytes 8 (imm.setWidth 64) ++ (List.range 6).flatMap (fun i => toBytes 8 (c.rdG ⟨(i + 1) % 64, Nat.mod_lt _ (by decide)⟩)) ++
    toBytes 8 (c.regs.pc + 12)

/-- SYSCALL writes the call record and then traps, with EXL set as well, where entry is a fault-on-fault (R458, R460). DEDUCED (log 101). -/
def execSyscall (h : Hdr) (imm : BitVec 32) (s : State) : Host.Outcome State Fault Refusal :=
  issueWord h 0 0 0 { srcs := (List.range 6).map fun i => opG ⟨(i + 1) % 64, Nat.mod_lt _ (by decide)⟩ } (fun s =>
    let n := s.cur
    let c := s.cc
    let a := (c.regs.trap.xrec.setWidth 64 <<< 7).toNat + 0x40
    match s.pinned n a with
    | none => .sleep (s.faultOnFault n a)
    | some (pa, pol) => .trap (s.writeGlobal n pa pol (c.callRecord imm)) .syscall (imm.setWidth 64) 0) s

def execBkpt (h : Hdr) (imm : BitVec 32) (s : State) : Host.Outcome State Fault Refusal :=
  issueWord h 0 0 0 {} (fun s => .trap s .bkpt (imm.setWidth 64) 0) s

/-- XRET (R461): the word at XPC issues no earlier than 3 clk later; XPROG stays. -/
def execXret (h : Hdr) (s : State) : Host.Outcome State Fault Refusal :=
  privileged s fun s => issueWord h 0 0 0 {} (fun s =>
    let c := s.cc
    if !c.regs.trap.exl then .trap s .illegalOpc 0x10 0
    else if c.regs.trap.xpc.toNat % 4 ≠ 0 then .trap s .align c.regs.trap.xpc 0
    else .sleep ((s.onDepth s.cur (· - 1)).setCc (c.returnTrap.setTmg fun m => { m with clk := m.clk + max 3 (1 + h.stall.toNat), words := m.words + 1 }))) s

/-! ## WFI and HALT (R488) -/

/-- What ends a WFI of a core (R488). DEDUCED (log 103). -/
def State.wfiReady (s : State) (n : Nat) : Bool :=
  let d := s.die (dieOf n)
  let c := s.cluster (clusterOf n)
  (d.fbuf.any fun f => !f.read) || d.drop || !d.derrq.isEmpty || d.spdoor != 0 ||
    (List.range 64).any fun e => (Tab.get 0#8 c.rtag (rtagLine e)).getLsbD 7 && (c.line e).count != 0

def execWfi (h : Hdr) (s : State) : Host.Outcome State Fault Refusal :=
  privileged s fun s => issueWord h 0 0 0 {} (fun s => if s.wfiReady s.cur then .done s else .sleep (s.setCc { s.cc with wait := .wfi })) s

def execHalt (h : Hdr) (s : State) : Host.Outcome State Fault Refusal :=
  privileged s fun s => issueWord h 0 0 0 {} (fun s =>
    .sleep ((s.setCc { s.cc.emptied with wait := .halted }).report (.halt s.cur))) s

/-- HALT_RESTART (R488): the service processors restart a halted core at the word after its HALT. -/
def execHaltRestart (core : Nat) (s : State) : Host.Outcome State Fault Refusal :=
  let c := s.core core
  match c.wait with
  | .halted => .next (s.setCore core { c.complete (max c.tmg.clk s.clk) c.waitStall with wait := .none })
  | _ => .next s

/-! ## The TLB forms (R485, R486) and LDOVT (R487) -/

/-- Every TLB of the package keeps only the entries that stay. -/
def State.keepTlb (s : State) (stays : TlbEntry → Bool) : State :=
  { s with clusters := s.clusters.map fun e => (e.1, { e.2 with l1tlb := e.2.l1tlb.filter stays })
           dies := s.dies.map fun e => (e.1, { e.2 with l2tlb := e.2.l2tlb.filter stays }) }

def execTlbinvPage (h : Hdr) (a b : GReg) (s : State) : Host.Outcome State Fault Refusal :=
  privileged s fun s => issueWord h 0 0 0 { srcs := [opG a, opG b] } (fun s =>
    let va := (s.cc.rdG a).toNat
    let id := (s.cc.rdG b).setWidth 8
    .done (s.keepTlb fun e => !e.hits id va)) s
def execTlbinvVsid (h : Hdr) (b : GReg) (s : State) : Host.Outcome State Fault Refusal :=
  privileged s fun s => issueWord h 0 0 0 { srcs := [opG b] } (fun s =>
    let id := (s.cc.rdG b).setWidth 8
    .done (s.keepTlb fun e => e.vsid != id)) s
def execTlbinvAll (h : Hdr) (s : State) : Host.Outcome State Fault Refusal :=
  privileged s fun s => issueWord h 0 0 0 {} (fun s => .done (s.keepTlb fun _ => false)) s

/-- The partition of a parked access. -/
def State.parkTag (s : State) : Park → PTag
  | .core n => (s.core n).ptag
  | .cmd p _ _ _ => p
  | .event p _ => p

/-- A parked access is issued again (R195); an access of a context that is out, too, which ends at once. -/
def State.reissue (s : State) : Park → Host.Outcome State Fault Refusal
  | .core n => .next (s.owe (.globalAccessComplete n))
  | .cmd p n cls seq => s.reissueParked p n cls seq
  | .event _ i => .next (s.owe i)
/-- Parked accesses are issued again, one after the other. -/
def State.reissueAll (s : State) : List Park → Host.Outcome State Fault Refusal
  | [] => .next s
  | x :: xs => match s.reissue x with
    | .next s => State.reissueAll s xs
    | o => o

/-- One die's part of TLBREPLAY: its slots of the partition are freed, and its parked accesses are issued again in the order in
which they parked. DEDUCED (log 112). -/
def State.replayDie (s : State) (d : Nat) (p : PTag) : Host.Outcome State Fault Refusal :=
  let k := s.die d
  let mine := k.parks.filter fun x => s.parkTag x == p
  let s' := s.setDie d { k with fbuf := k.fbuf.filter (·.ptag != p), parks := k.parks.filter fun x => s.parkTag x != p }
  s'.reissueAll mine
/-- TLBREPLAY's work on dies, one after the other. -/
def State.replayDies (s : State) (p : PTag) : List Nat → Host.Outcome State Fault Refusal
  | [] => .next s
  | d :: ds => match s.replayDie d p with
    | .next s => State.replayDies s p ds
    | o => o

/-- TLBREPLAY (R195, R486). -/
def execTlbreplay (h : Hdr) (a : GReg) (s : State) : Host.Outcome State Fault Refusal :=
  privileged s fun s => issueWord h 0 0 0 { srcs := [opG a] } (fun s =>
    let p : PTag := (s.cc.rdG a).setWidth 6
    match s.replayDies p (List.range Config.dies) with
    | .next t => .done t
    | .fault f => .fault f
    | .refused _ => .done s) s

def execLdovt (h : Hdr) (a b : GReg) (s : State) : Host.Outcome State Fault Refusal :=
  privileged s fun s => issueWord h 0 0 0 { srcs := [opG a, opG b], empty := .all } (fun s =>
    let c := s.cc
    let x : BitVec 128 := (((c.rdG b).extractLsb' 0 62).setWidth 128 <<< 64) ||| (c.rdG a).setWidth 128
    .done (s.setCc (c.setFp fun f => { f with ovt := x }))) s

end Sys2Proof.Machine
end

