-- ==== Sys2Proof/Machine/Context.lean ====
section
/-! DEFINITION. Pre-emption and contexts (R462 to R470), the routers' tag check (R450, R477), the saddle tick (R200), halted
partitions (R197, R424), and snapshots and migration of a virtual device (R484). -/
namespace Sys2Proof.Machine
open Sys2Proof

/-! ## Packets at ejection (R450, R477) -/

/-- A request of a surviving die that a lost one does not take is sent again after the flip (R499). DEDUCED (log 177). -/
def State.keepRequest (s : State) (k : Packet) : State :=
  match s.takeover with
  | some t => if dieOf k.dst = t.lost ∧ dieOf k.src ≠ t.lost then { s with takeover := some { t with unanswered := t.unanswered ++ [k] } } else s
  | none => s

/-- PACKET_EJECT (R450, R477): a router checks the tag of a packet without the supervisor bit; packets to and from a fenced die are
dropped (R498). DEDUCED (log 140). -/
def execPacketEject (id : Nat) (s : State) : Host.Outcome State Fault Refusal :=
  match s.net.find? fun k => k.id == id with
  | none => .next s
  | some k =>
    let s := { s with net := s.net.filter fun x => x.id != id }
    .next (if s.dieFenced (dieOf k.dst) || s.dieFenced (dieOf k.src) then
      ({ s with fdrop := satInc s.fdrop }.lostPacket k).keepRequest k
    else s.eject k)

/-! ## Yield requests and forced halts (R464, R469, R470) -/

/-- YIELD_REQUEST (R469): the request is pending, and acts where it may. -/
def execYieldRequest (core : Nat) (s : State) : Host.Outcome State Fault Refusal :=
  let c := s.core core
  if c.mode = .running ∨ c.mode = .idle then .next ((s.askYield core).tryYield core) else .next s

/-- The cores of a cluster on which a partition's context is live. -/
def State.liveIn (s : State) (cl : Nat) (p : PTag) : List Nat :=
  ((List.range 24).map (cl * 24 + ·)).filter fun n => (s.core n).ctag == some p

/-- A core of a context that has not halted yet. -/
def Core.stillRuns (c : Core) : Bool := c.mode == .running && c.wait != .halted

/-- The grace period of a partition in clk (R472). -/
def State.graceClk (s : State) (p : PTag) : Nat := 800 * (s.part p.toNat).grace.toNat

/-- Halts by force each core of a context that still runs (R470): a gang stops where every lock-step member has completed the same words
(R150), and where it reaches no such point, 480 clk after. DEDUCED (log 105). -/
def State.forceHalt (s : State) (cl : Nat) (p : PTag) : State :=
  (s.liveIn cl p).foldl (fun (s : State) n =>
    let c := s.core n
    if !c.stillRuns then s
    else if s.inStep n || c.haltBy.any (· ≤ s.now) then s.haltGroup n .forced
    else s.setCore n { c with haltBy := some (c.haltBy.getD (s.now + 480)) }) s

/-- GRACE_EXPIRY (R464, R470): the grace of each save in progress in the cluster that has passed. -/
def execGraceExpiry (cl : Nat) (s : State) : Host.Outcome State Fault Refusal :=
  .next (((List.range 24).map (cl * 24 + ·)).foldl (fun (s : State) n =>
    match (s.core n).saving with
    | some (t, p) => if t + s.graceClk p ≤ s.now then s.forceHalt cl p else s
    | none => s) s)

/-! ## What a context holds (R462) -/

/-- The parts of a core that belong to its hardware and not to a context: the protection state of its scratchpad (R164 to
R167), the registers of the OS server's work, and its place in time. DEDUCED (log 108). -/
def Core.physical (c k : Core) : Core :=
  { c with cecnt := k.cecnt, rccnt := k.rccnt, ue := k.ue, fail := k.fail, ueCount := k.ueCount, ueSeen := k.ueSeen, fbpop1 := k.fbpop1
           slotctl := k.slotctl, installing := k.installing, saving := k.saving
           tmg := { c.tmg with clk := max c.tmg.clk k.tmg.clk } }

/-- The RTAG of a resource names a partition. -/
def Cluster.tagged (c : Cluster) (p : PTag) (r : Nat) : Bool := c.owns r p

/-- A command whose context leaves: a parked X command starts afresh with its context, and holds no engine meanwhile; one of the paths K
and P stays parked, as it runs on (R384). -/
def Cmd.unpark (c : Cmd) : Cmd :=
  if c.cls ≠ 0 then c
  else match c.st with
    | .parked _ => { c with st := .started, engine := false }
    | _ => { c with engine := false }

/-- The context of a partition in a cluster, as it stands (R462). DEDUCED (log 78). -/
def State.capture (s : State) (cl : Nat) (p : PTag) : Ctx :=
  let c := s.cluster cl
  let live := s.liveIn cl p
  let core := fun (n : Nat) =>
    let k := s.core n
    { k with eng := { k.eng with cmds := k.eng.cmds.map Cmd.unpark } }
  { ptag := p
    forced := live.any fun n => (s.core n).mode == .forced
    cores := live.map fun n => (s.lcn n, indexOf n, core n)
    lines := c.lines.filter fun e => c.tagged p (rtagLine e.1)
    mtx := c.mtx.filter fun e => c.tagged p (rtagMutex e.1)
    bars := c.bars.filter fun e => c.tagged p (rtagBarrier e.1)
    gangs := c.gangs.filter fun g => live.contains (cl * 24 + g.base)
    share := (c.shareOf p).map fun i => c.shares[i]
    xcnt := c.xcnt.filter fun e => e.2.tag == p
    xterm := c.xterm.filter fun e => e.2.tag == p }

/-- A cluster without the context of a partition. -/
def Cluster.without (c : Cluster) (p : PTag) (x : Ctx) : Cluster :=
  let keep := fun {α : Type} (mine t : List (Nat × α)) => t.filter fun e => !(mine.any fun m => m.1 == e.1)
  let shares := match c.shareOf p with
    | some i => c.shares.set i { served := c.shares[i].served }
    | none => c.shares
  { c with lines := keep x.lines c.lines, mtx := keep x.mtx c.mtx, bars := keep x.bars c.bars
           gangs := c.gangs.filter fun g => !x.gangs.contains g, shares := shares
           xcnt := keep x.xcnt c.xcnt, xterm := keep x.xterm c.xterm }

/-- The context leaves the cluster: its cores are swapped. -/
def State.removeCtx (s : State) (cl : Nat) (x : Ctx) : State :=
  let cores := x.cores.map fun e => cl * 24 + e.2.1
  let s := cores.foldl (fun (s : State) n =>
    let k := s.core n
    (s.forget (.spad n)).setCore n ({ s.initCore n with tmg := { clk := k.tmg.clk } }.physical k)) s
  let d := s.die (clusterDie cl)
  let s := s.setDie (clusterDie cl) { d with parks := d.parks.filter fun y => match y with
    | .cmd p n cls _ => !(cores.contains n && p == x.ptag && cls == 0)
    | .core n => !cores.contains n
    | .event .. => true }
  (s.setCluster cl ((s.cluster cl).without x.ptag x)).engineFree cl

/-! ## A context comes back (R465, R466) -/

/-- The physical cores of a context's cores in a cluster, by their logical numbers; none where one lies elsewhere. -/
def State.placesOf (s : State) (cl : Nat) (x : Ctx) : Option (List (Nat × Nat)) :=
  x.cores.mapM fun e => match s.ofLcn (some x.ptag) e.1 with
    | some n => if clusterOf n = cl then some (e.2.1, n) else none
    | none => none

/-- A core's number in its new place. -/
def newPlace (old : Nat) (ps : List (Nat × Nat)) (n : Nat) : Nat :=
  if clusterOf n = old then ((ps.find? fun e => e.1 == indexOf n).map (·.2)).getD n else n

def Space.move (f : Nat → Nat) : Space → Space
  | .spad n => .spad (f n)
  | x => x
def Range.move (f : Nat → Nat) (r : Range) : Range := { r with space := r.space.move f }
def Cmd.move (f : Nat → Nat) (c : Cmd) : Cmd := { c with src := c.src.map (Range.move f), dst := c.dst.map (Range.move f) }
def Core.moveCmds (f : Nat → Nat) (c : Core) : Core := { c with eng := { c.eng with cmds := c.eng.cmds.map (Cmd.move f) } }
def ZOp.move (f : Nat → Nat) (o : ZOp) : ZOp :=
  { o with core := f o.core, kind := match o.kind with
    | .mma x => .mma { x with aCore := f x.aCore, bCore := f x.bCore }
    | .ldc t p => .ldc t { p with space := p.space.move f }
    | .store t p m v => .store t { p with space := p.space.move f } m v
    | k => k }
def Share.move (f : Nat → Nat) (x : Share) : Share :=
  { x with tiles := x.tiles.map fun t => { t with owner := t.owner.map f }, queue := x.queue.map (ZOp.move f) }
/-- The tag of a tile of a restored context (R80, R316): none but those of R316 is valid. -/
def ZTile.restored (t : ZTile) : ZTile :=
  if t.tag = 0x02#8 ∨ t.tag = 0x0A#8 ∨ t.tag = 0x00#8 ∨ isPoison t.tag = true then t else { t with tag := poisonTag }
/-- The share of a restored context. -/
def Share.restored (x : Share) : Share := { x with tiles := x.tiles.map ZTile.restored }
/-- A delivery to a context in its new place. -/
def moveEvent (cl : Nat) (f : Nat → Nat) : Instr → Instr
  | .eventMessage m => .eventMessage { m with cl := cl, dst := f m.dst }
  | .evcWrite _ e x => .evcWrite cl e x
  | .barrierArrivalMessage m => .barrierArrivalMessage { m with cl := cl }
  | .barrierReleaseMessage m => .barrierReleaseMessage { m with cl := cl }
  | .channelMessageLand n sl m => .channelMessageLand (f n) sl m
  | .timedMessageLand n sl m => .timedMessageLand (f n) sl m
  | .channelClaim m => .channelClaim { m with dst := f m.dst }
  | .channelGrant n ch => .channelGrant (f n) ch
  | i => i

/-- The state that a delivery leaves. -/
def afterDelivery (s : State) : Host.Outcome State Fault Refusal → State
  | .next t => t
  | _ => s
/-- A held delivery is applied (R466). -/
def State.applyHeld (s : State) : Instr → State
  | .eventMessage m => afterDelivery s (execEventMessage m s)
  | .evcWrite cl e x => afterDelivery s (execEvcWrite cl e x s)
  | .barrierArrivalMessage m => afterDelivery s (execBarrierArrivalMessage m s)
  | .barrierReleaseMessage m => afterDelivery s (execBarrierReleaseMessage m s)
  | .channelMessageLand n sl m => afterDelivery s (execChannelMessageLand n sl m s)
  | .timedMessageLand n sl m => afterDelivery s (execTimedMessageLand n sl m s)
  | .channelClaim m => afterDelivery s (execChannelClaim m s)
  | .channelClaimAnswer m b => afterDelivery s (execChannelClaimAnswer m b s)
  | .channelGrant n ch => afterDelivery s (execChannelGrant n ch s)
  | i => s.owe i

/-- A core of a restored context resumes (R244, R466): a barrier that has released meanwhile completes its word at once; an
idle core looks for work. -/
def State.resumeCore (s : State) (n : Nat) : State :=
  let c := s.core n
  let b := s.cluster (clusterOf n)
  if c.mode = .yielded ∨ c.mode = .forced then
    let s := s.setCore n { c with mode := if c.task.isSome then .running else .idle }
    match c.wait with
    | .barrier k gen wr kind =>
      let x := b.barrier k.val
      if x.gen = gen then s
      else
        let s := s.afterArrivals n x.last.2.1
        let c := s.core n
        s.setCore n (c.released (clusterOf n, k.val) c.tmg.clk x.last.1 wr kind x.last.2.2.1 x.last.2.2.2)
    | _ => if c.task.isSome then s else s.owe (.taskPop n)
  else s

/-- A superstep that a forced halt broke restarts, without counting as a re-execution (R406, R435, R468). DEDUCED (log 98). -/
def State.resumeBroken (s : State) (ns : List Nat) : State :=
  ns.foldl (fun (s : State) n =>
    let c := s.core n
    if c.mode = .forced ∧ c.regs.trap.phase = 2 ∧ c.ckpt.isSome = true then s.restartSuperstep n 0 else s) s

/-! ## What a restore checks (R80, R201, R293) -/

/-- A loaded set satisfies R288 in every lane. -/
def ModSet.sound (m : ModSet) : Bool := (List.range 16).all fun l => modulusOk (m.mq.getD l 0) && m.mc.getD l 0 == barrett (m.mq.getD l 0)
/-- The registers of a restored context (R80, R293): a loaded set that fails R288 is not loaded; an M64 register of a set that fails, or
whose lanes are not below its moduli, and a register of an invalid tag are POISON. -/
def Regs.restored (r : Regs) : Regs :=
  let mods := r.mods.map fun (m : ModSet) => if m.loaded && !m.sound then { m with loaded := false } else m
  let bad := fun (i : Fin 4) => r.mods[i].loaded && !r.mods[i].sound
  let c : Core := { regs := r }
  let tagOf := fun (x : VR) =>
    if isM64 x.tag && bad (fin4 (x.tag.extractLsb' 6 2)) then poisonTag else c.imageTag x.tag x.bits
  { r with mods := mods, v := r.v.map fun (x : VR) => { x with tag := tagOf x } }
/-- A core of a restored context: its registers and its checkpoint's are checked, and its logical time is past the floor, as ticks left
that of every core that was in (R201). DEDUCED (log 174). -/
def Core.restored (c : Core) (floor : Nat) : Core :=
  { c with regs := c.regs.restored, ckpt := c.ckpt.map fun (k : Ckpt) => { k with regs := k.regs.restored }, lt := max c.lt (floor + 1) }

/-- A mask of cores in their new places. -/
def moveMask (old : Nat) (f : Nat → Nat) (m : BitVec 24) : BitVec 24 :=
  (List.range 24).foldl (fun (x : BitVec 24) i => if m.getLsbD i then x ||| (1#24 <<< indexOf (f (old * 24 + i))) else x) 0
/-- A barrier whose members have new places. -/
def Barrier.move (old : Nat) (f : Nat → Nat) (b : Barrier) : Barrier :=
  { b with mask := moveMask old f b.mask, arr := moveMask old f b.arr, contrib := b.contrib.map fun e => (f e.1, e.2) }
/-- A checkpoint whose core has a new place. -/
def Ckpt.move (old cl : Nat) (k : Ckpt) : Ckpt := { k with bar := k.bar.map fun b => (if b.1 = old then cl else b.1, b.2) }

/-- What a restored core's commands owe. -/
def State.restartUnits (s : State) (ns : List Nat) : State :=
  ns.foldl (fun (s : State) n =>
    ((s.core n).eng.cmds.filter fun c => c.st == .started).foldl (fun (s : State) c => s.reissueCmd n c) s) s

/-- What the device keeps of a context's commands names their cores in their new places: parked accesses and pairs of sparse sums. -/
def State.moveWork (s : State) (p : PTag) (old : Nat) (f : Nat → Nat) : State :=
  let park := fun (y : Park) => match y with
    | .cmd q n cls seq => if q = p ∧ clusterOf n = old then Park.cmd q (f n) cls seq else y
    | y => y
  { s with dies := s.dies.map fun (e : Nat × Die) => (e.1, { e.2 with parks := e.2.parks.map park })
           sumPairs := s.sumPairs.map fun (y : SumPair) => if y.ptag = p ∧ clusterOf y.core = old then { y with core := f y.core } else y }

/-- A context is live again in a cluster: its state is in place, its held deliveries are applied, and its cores resume. -/
def State.restoreCtx (s : State) (old cl : Nat) (x : Ctx) (ps : List (Nat × Nat)) : State :=
  let f := newPlace old ps
  let ns := ps.map (·.2)
  let s := s.moveWork x.ptag old f
  let s := x.cores.foldl (fun (s : State) (e : Nat × Nat × Core) =>
    let n := f (old * 24 + e.2.1)
    let k := (e.2.2.moveCmds f).restored s.floor
    (s.setCore n ({ k with ckpt := k.ckpt.map (Ckpt.move old cl) }.physical (s.core n))).notBefore n s.clk) s
  let c := s.cluster cl
  let put := fun {α : Type} (mine t : List (Nat × α)) => mine.foldl (fun (t : List (Nat × α)) (e : Nat × α) => Tab.set t e.1 e.2) t
  let shares := match c.shareOf x.ptag, x.share with
    | some i, some sh => c.shares.set i { (sh.move f).restored with served := c.shares[i].served }
    | _, _ => c.shares
  let gang := fun (g : Gang) => { g with base := indexOf (f (old * 24 + g.base)) }
  let s := s.setCluster cl { c with
    lines := put x.lines c.lines
    mtx := put (x.mtx.map fun (e : Nat × Mutex) => (e.1, { e.2 with owner := e.2.owner.map f })) c.mtx
    bars := put (x.bars.map fun (e : Nat × Barrier) => (e.1, e.2.move old f)) c.bars, gangs := x.gangs.map gang ++ c.gangs, shares := shares
    xcnt := put x.xcnt c.xcnt
    xterm := put (x.xterm.map fun (e : Nat × XTerm) => (e.1, { e.2 with armed := e.2.armed.map fun a => (f a.1, a.2) })) c.xterm
  }
  let due := (s.cluster old).pulses.filter fun y => y.2.boundFor x
  let s := s.setCluster old { s.cluster old with pulses := (s.cluster old).pulses.filter fun y => !y.2.boundFor x }
  let s := s.xbarEdge cl (s.clk + 1) (due.map (·.2))
  let mine := s.held.filter fun h => h.ptag == x.ptag && h.cl == old
  let s := { s with held := s.held.filter fun h => !(h.ptag == x.ptag && h.cl == old) }
  let s := mine.foldl (fun (s : State) h => s.applyHeld (moveEvent cl f h.ev)) s
  let s := s.resumeBroken ns
  (ns.foldl State.resumeCore s).restartUnits ns

/-! ## Images (R463) -/

/-- Bytes of an image, and its pages. -/
def imageBytes : Nat := 5242880
def imagePages : Nat := 80

/-- The physical addresses of an image's pages as core n reaches them, each with its policy; the address of the first that fails (R197,
R463). -/
def State.imagePlaces (s : State) (n : Nat) (a : Word) (write : Bool) : Except Nat (List (Nat × Policy)) :=
  (List.range imagePages).mapM fun i =>
    let va := a.toNat + 65536 * i
    if !(s.core n).xlate ∨ 2 ^ 56 ≤ va then .error va
    else match s.translate n va with
      | .page level leaf =>
        if leaf.getLsbD 5 && leaf.getLsbD (if write then 3 else 2) && physOk (leafPa level leaf va) then
          .ok (leafPa level leaf va, leafPolicy leaf)
        else .error va
      | .fault _ _ => .error va

/-- The place of an image's line. -/
def imageLine (pages : List (Nat × Policy)) (i : Nat) : Nat × Policy :=
  let x := pages.getD (i / 512) (0, .uc)
  (x.1 + 128 * (i % 512), x.2)
/-- Writes an image, line by line, under the policies of its pages. -/
def State.imageStore (s : State) (n : Nat) (pages : List (Nat × Policy)) (bs : List Byte) : State :=
  (List.range (imageBytes / 128)).foldl (fun (s : State) i =>
    s.writeGlobal n (imageLine pages i).1 (imageLine pages i).2 ((bs.drop (128 * i)).take 128)) s
/-- Reads an image, line by line: none where a word of it is uncorrectable. -/
def State.imageLoad (s : State) (n : Nat) (pages : List (Nat × Policy)) : State × Option (List Byte) :=
  (List.range (imageBytes / 128)).foldl (fun (a : State × Option (List Byte)) i =>
    let x := imageLine pages i
    let r := a.1.readGlobal n x.1 128 x.2
    (r.1, if a.1.readBad n x.1 128 x.2 then none else a.2.map (· ++ r.2))) (s, some [])

/-- The header of an image (R463). -/
def imageHeader (x : Ctx) (cl ticks : Nat) (chk : BitVec 32) : List Byte :=
  toBytes 2 1#16 ++ toBytes 1 (x.ptag.setWidth 8) ++ toBytes 1 (if x.forced then 21#8 else 0#8) ++ toBytes 2 (BitVec.ofNat 16 cl) ++
    toBytes 2 (BitVec.ofNat 16 x.cores.length) ++ toBytes 8 (BitVec.ofNat 64 ticks) ++ toBytes 4 chk ++ List.replicate 44 0#8
/-- The bytes behind the header, whose layout is internal: free bytes, drawn at the save (log 22). -/
def imageBody (stamp : Nat) : List Byte := (List.range (imageBytes - 64)).map fun i => Config.imageByte stamp (i + 64)

/-- A context is written to an image (R463): its header, with the CRC-32 of what follows it, and its body, by which a load knows the
context again (log 22). -/
def State.writeImage (s : State) (n cl : Nat) (x : Ctx) (pages : List (Nat × Policy)) : State :=
  let body := imageBody s.draws
  let i : Image := { cl := cl, ctx := x, stamp := s.draws, floor := s.floor }
  let s := { s with draws := s.draws + 1 }.imageStore n pages (imageHeader x cl s.ticks (crc32 body) ++ body)
  { s with images := i :: s.images.map fun (j : Image) => if j.cl = cl ∧ j.ctx.ptag = x.ptag then { j with out := false } else j }

/-! ## CTXSAVE (R464) -/

/-- An event that the device owes to a context of a cluster: it is performed before the context is written. -/
def concerns (cl : Nat) : Instr → Bool
  | .globalAccessComplete n | .commandComplete n .. | .commandFail n .. | .channelMessageLand n .. | .channelGrant n _ |
    .timedMessageLand n .. | .streamChunkArrive n _ | .storageCompletion n .. => clusterOf n == cl
  | .channelClaim m => clusterOf m.dst == cl
  | .channelClaimAnswer .. => true
  | .eventMessage m => m.cl == cl
  | .barrierArrivalMessage m => m.cl == cl
  | .barrierReleaseMessage m => m.cl == cl
  | .arrayRowWrite c .. | .arrayOpFinish c _ => c == cl
  | _ => false

/-- A partition with a core that several partitions share (R474). -/
def State.timeShared (s : State) (p : PTag) : Bool := s.assign.any fun e => (Slots.valid e.2).contains p && decide (1 < (Slots.valid e.2).length)

/-- A status that a save refuses with, before its first step. DEDUCED (log 106). -/
def State.saveStatus (s : State) (cl : Nat) (p : PTag) (glen swap : Bool) : Option Nat :=
  if (s.liveIn cl p).isEmpty then
    if s.timeShared p && !(List.range 24).any (fun i => (s.slotsOf (cl * 24 + i)).contains p) then some 3 else some 1
  else if glen then
    match (s.cluster cl).glen with
    | some x => if !swap || x.ptag == p then some 2 else none
    | none => none
  else none

/-- A command of the paths K and P that runs on (R384). -/
def Cmd.runsOn (c : Cmd) : Bool := c.cls != 0 && c.st == .started && (match c.body with
  | .coll .. => c.formed
  | _ => true)

/-- What a save still waits for (R464): a core that runs, a streaming operation of the share, a command that runs on, or an
event owed to the context. DEDUCED (log 107). -/
def State.saveWaits (s : State) (cl : Nat) (p : PTag) : Bool :=
  let live := s.liveIn cl p
  let c := s.cluster cl
  (live.any fun n => (s.core n).stillRuns || (s.core n).eng.cmds.any Cmd.runsOn) ||
    (match c.shareOf p with
      | some i => c.shares[i].queue.any fun o => o.started
      | none => false) || s.pending.any (concerns cl)

/-- A save that waits: the grace period ends it, and commands that run on take their turns. -/
def State.saveTurn (s : State) (cl : Nat) (p : PTag) (since : Nat) : State :=
  let s := if since + s.graceClk p ≤ s.now ∧ !s.pending.contains (.graceExpiry cl) then s.owe (.graceExpiry cl) else s
  (s.liveIn cl p).foldl (fun (s : State) n =>
    ((s.core n).eng.cmds.filter Cmd.runsOn).foldl (fun (s : State) c =>
      if s.pending.contains (c.turn n) then s else s.owe (c.turn n)) s) s

/-- The result of a context instruction: it is of variable latency. -/
def ctxDone (s : State) (d : GReg) (status : Nat) : Eff :=
  .done (s.setCc ({ s.cc with saving := none }.slipResult (.g d (BitVec.ofNat 64 status))))

/-- A context is live on a core that a context names. -/
def State.anyLive (s : State) (ps : List (Nat × Nat)) : Bool := ps.any fun e => (s.core e.2).ctag.isSome

/-- A save that ends with a status other than 0 once its cores have halted: they go on; a superstep that their halt broke restarts. -/
def saveFailed (d : GReg) (p : PTag) (status : Nat) (s : State) : Eff :=
  let ns := s.liveIn (clusterOf s.cur) p
  ctxDone (ns.foldl State.resumeCore (s.resumeBroken ns)) d status

/-- The last step of a save (R464): the context is written, or changes places with the one in the glen store. A glen store that was
filled meanwhile, or whose context has no place in the cluster, refuses as at the start. DEDUCED (log 106). -/
def finishSave (d : GReg) (dest : Word) (p : PTag) (swap : Bool) (s : State) : Eff :=
  let n := s.cur
  let cl := clusterOf n
  let x := s.capture cl p
  if dest = 0 then
    match s.saveStatus cl p true swap with
    | some k => saveFailed d p k s
    | none =>
      let s1 := s.removeCtx cl x
      let s2 := s1.setCluster cl { s1.cluster cl with glen := some x }
      match (s.cluster cl).glen with
      | none => ctxDone s2 d 0
      | some q => match s1.placesOf cl q with
        | some ps => if s1.anyLive ps then saveFailed d p 2 s else ctxDone (s2.restoreCtx cl cl q ps) d 0
        | none => saveFailed d p 2 s
  else match s.imagePlaces n dest true with
    | .error va => .sleep (s.faultOnFault n va)
    | .ok pages => ctxDone ((s.writeImage n cl x pages).removeCtx cl x) d 0

def execCtxsave (h : Hdr) (d a b : GReg) (swap : Bool) (s : State) : Host.Outcome State Fault Refusal :=
  privileged s fun s => issueWord h 0 0 0 { srcs := [opG a, opG b], dsts := [opG d] } (fun s =>
    let n := s.cur
    let cl := clusterOf n
    let p : PTag := (s.cc.rdG a).setWidth 6
    let dest := s.cc.rdG b
    if dest.toNat % 65536 ≠ 0 then .trap s .align dest 0
    else match s.cc.saving with
      | none => match s.saveStatus cl p (dest == 0) swap with
        | some k => ctxDone s d k
        | none =>
          let s := s.setCc { s.cc with saving := some (s.cc.tmg.clk, p) }
          .within ((s.liveIn cl p).foldl (fun (s : State) m => (s.askYield m).tryYield m) s)
      | some (since, _) =>
        if s.saveWaits cl p then .within (s.saveTurn cl p since) else finishSave d dest p swap s) s

/-! ## CTXLOAD (R465) -/

/-- A context becomes live from a source, or the status that refuses it; a core that lies in no place of the cluster is as no
context at the source (log 22). -/
def loadCtx (d : GReg) (old : Nat) (x : Ctx) (s : State) (taken : State → State) : Eff :=
  let cl := clusterOf s.cur
  match s.placesOf cl x with
  | none => ctxDone s d 1
  | some ps => if s.anyLive ps then ctxDone s d 3 else ctxDone ((taken s).restoreCtx old cl x ps) d 0

/-- The saved context whose image these bytes are (R465): the header names version 1 and the partition, and its CHK holds. Bytes that no
save has written name no context, whatever their CHK (log 22). -/
def State.imageOf (s : State) (bs : List Byte) (p : PTag) : Option Image :=
  if recGet bs 0 2 = 1 ∧ recGet bs 2 1 = p.setWidth 64 ∧ recGet bs 0x10 4 = (crc32 (bs.drop 64)).setWidth 64 then
    s.images.find? fun i => i.ctx.ptag == p && imageBody i.stamp == bs.drop 64
  else none

def execCtxload (h : Hdr) (d a b : GReg) (s : State) : Host.Outcome State Fault Refusal :=
  privileged s fun s => issueWord h 0 0 0 { srcs := [opG a, opG b], dsts := [opG d] } (fun s =>
    let n := s.cur
    let cl := clusterOf n
    let p : PTag := (s.cc.rdG a).setWidth 6
    let src := s.cc.rdG b
    if src = 0 then
      match (s.cluster cl).glen with
      | none => ctxDone s d 1
      | some x =>
        if x.ptag ≠ p then ctxDone s d 1
        else loadCtx d cl x s fun s => s.setCluster cl { s.cluster cl with glen := none }
    else if src.toNat % 65536 ≠ 0 then ctxDone s d 1
    else match s.imagePlaces n src false with
      | .error va => .sleep (s.faultOnFault n va)
      | .ok pages =>
        let r := s.imageLoad n pages
        match r.2.bind fun bs => r.1.imageOf bs p with
        | none => ctxDone r.1 d 4
        | some i => loadCtx d i.cl i.ctx r.1 fun s =>
            { s with images := s.images.map fun (j : Image) => if j.stamp = i.stamp then { j with out := false } else j }) s

/-! ## HALTED_PARTITION_END (R197, R424) -/

/-- The service processors end a partition that a fault-on-fault halted: its launches complete with status HALTED. -/
def execHaltedPartitionEnd (p : Fin 64) (s : State) : Host.Outcome State Fault Refusal :=
  let tag : PTag := BitVec.ofNat 6 p.val
  let down := (s.partCores tag).filter fun n => (s.core n).mode == .faulted
  if down.isEmpty then .next s
  else
    let ls := s.launches.filter fun x => x.ptag == tag && (x.state == .active || x.state == .pending)
    let s := ls.foldl (fun (s : State) x => s.endLaunch (x.vdev, x.lid) 5) s
    .next (down.foldl (fun (s : State) n => s.setCore n { s.core n with mode := .faulted }) s)

/-! ## The saddle tick (R200) -/

/-- The subtraction that keeps logical times small: a value below 2^61 becomes 0. -/
def rebased (x : Nat) : Nat := x - 2 ^ 61

def rebaseMsg (m : ChanMsg) : ChanMsg := { m with time := rebased m.time }
def Comm.rebase (c : Comm) : Comm :=
  { c with slots := c.slots.map fun (r : RSlot) => { r with msg := rebaseMsg r.msg, held := r.held.map rebaseMsg }
           landing := c.landing.map fun m => m.map rebaseMsg }
def Engines.rebase (e : Engines) : Engines :=
  { e with cmds := e.cmds.map fun (c : Cmd) => { c with time := rebased c.time }
           done := e.done.map fun d => (d.1, d.2.1, rebased d.2.2), zdone := rebased e.zdone }
def Core.rebase (c : Core) : Core :=
  { c with lt := rebased c.lt, ft := c.ft.map rebased, comm := c.comm.rebase, eng := c.eng.rebase
           task := c.task.map fun (t : Task) => { t with time := rebased t.time }
           tmg := { c.tmg with inside := c.tmg.inside.map rebased }
           ckpt := c.ckpt.map fun (k : Ckpt) => { k with comm := k.comm.rebase } }
def Share.rebase (x : Share) : Share := { x with queue := x.queue.map fun (o : ZOp) => { o with time := rebased o.time } }
def Barrier.rebase (b : Barrier) : Barrier :=
  { b with time := rebased b.time, last := (b.last.1, rebased b.last.2.1, b.last.2.2)
           children := b.children.map fun (m : BarArrival) => { m with time := rebased m.time }
           held := b.held.map fun (m : BarArrival) => { m with time := rebased m.time } }
def Ctx.rebase (x : Ctx) : Ctx :=
  { x with cores := x.cores.map fun e => (e.1, e.2.1, e.2.2.rebase), bars := x.bars.map fun e => (e.1, e.2.rebase)
           share := x.share.map Share.rebase }
def Cluster.rebase (c : Cluster) : Cluster :=
  { c with l1d := c.l1d.map fun (k : Copy) => { k with wts := rebased k.wts, rts := rebased k.rts }
           bars := c.bars.map fun e => (e.1, e.2.rebase), shares := c.shares.map Share.rebase, glen := c.glen.map Ctx.rebase }
/-- A message on its way, with its logical time lowered. -/
def rebaseEvent : Instr → Instr
  | .eventMessage m => .eventMessage { m with time := rebased m.time }
  | .barrierArrivalMessage m => .barrierArrivalMessage { m with time := rebased m.time }
  | .barrierReleaseMessage m => .barrierReleaseMessage { m with time := rebased m.time }
  | .channelMessageLand n sl m => .channelMessageLand n sl (rebaseMsg m)
  | .timedMessageLand n sl m => .timedMessageLand n sl (rebaseMsg m)
  | i => i
/-- A packet on its way. -/
def Packet.rebase (k : Packet) : Packet := { k with ev := rebaseEvent k.ev }
/-- Every logical time that the device holds is lowered at once (R200). -/
def State.rebase (s : State) : State :=
  { s with cores := s.cores.map fun e => (e.1, e.2.rebase), clusters := s.clusters.map fun e => (e.1, e.2.rebase)
           homes := s.homes.map fun e => (e.1, (rebased e.2.1, rebased e.2.2)), homeBase := s.homeBase.map fun e => (e.1, rebased e.2)
           floor := rebased s.floor, tickMax := rebased s.tickMax
           recent := s.recent.map fun (x : Recent) => { x with time := rebased x.time, was := rebased x.was }
           pending := s.pending.map rebaseEvent, net := s.net.map Packet.rebase
           takeover := s.takeover.map fun (t : Takeover) =>
             { t with peak := rebased t.peak, unanswered := t.unanswered.map Packet.rebase }
           held := s.held.map fun (h : Held) => { h with ev := rebaseEvent h.ev }
           images := s.images.map fun (i : Image) => { i with ctx := i.ctx.rebase, floor := rebased i.floor }
           queues := s.queues.map fun q => (q.1, q.2.map fun (e : QEntry) => { e with time := rebased e.time })
           launches := s.launches.map fun (x : Launch) => { x with time := rebased x.time }
           ports := { s.ports with posted := s.ports.posted.map fun p => (p.1, rebased p.2) } }

/-- The largest logical time of a core, of those of contexts that are out too: what they wrote at it stands in memory (R201).
DEDUCED (log 110). -/
def State.coreMax (s : State) : Nat := (s.cores.map (·.2) ++ s.outCores).foldl (fun m c => max m c.lt) 0

/-- A link that routes are to avoid: it is down, fenced or drained (R508, R538). -/
def State.toAvoid (s : State) (i : Nat) : Bool :=
  let l := Tab.get {} s.links i
  (!l.up && decide (l.width = 3)) || s.isFenced (.link ⟨i % 50, Nat.mod_lt _ (by decide)⟩) ||
    s.drained (.link ⟨i % 50, Nat.mod_lt _ (by decide)⟩)
/-- The routes do not yet avoid the links they are to avoid. -/
def State.reroutes (s : State) : Bool := (List.range 50).filter s.toAvoid != s.avoided

/-- What the device does at certain ticks: snapshots (R484), the counters that users read (R483), the decay of suspicion scores (R537), a layout's steps (R476), protection requests whose
second is over (R543), and new routes (R508). -/
def State.tickWork (s : State) : State :=
  let due := s.vds.filter fun e => e.2.snapp != 0 && s.ticks % (1000 * e.2.snapp.toNat) == 0
  let s := due.foldl (fun (s : State) e => s.owe (.vdSnapshot ⟨e.1 % 32, Nat.mod_lt _ (by decide)⟩)) s
  let s := if s.ticks % 2 ^ 20 = 0 then s.owe .scoreDecay else s
  let s := if s.ticks % 64 = 0 then s.latchCounts else s
  let s := match s.sp.layout with
    | some x => s.owe (if x.step = LayoutStep.committed then .layoutFlip else .layoutRequest x.sp)
    | none => s
  let late := s.sp.prot.filter fun w => decide (w.tick + 1000000 ≤ s.ticks)
  let s := late.foldl (fun (s : State) w => s.owe (.protectionGroupTimeout (w.req.extractLsb' (8 * 0x18) 32))) s
  if s.reroutes then s.owe .linkReroute else s

/-- SADDLE_TICK (R200): the floor follows the largest time of the tick before, every core passes it, and times are lowered at
the tick after the floor has reached 2^62. -/
def execSaddleTick (s : State) : Host.Outcome State Fault Refusal :=
  let s := if 2 ^ 62 ≤ s.floor then s.rebase else s
  let F := max s.floor s.tickMax + 65536
  let s := { s with floor := F, ticks := s.ticks + 1, tickMax := s.coreMax
                    sp := { s.sp with layout := s.sp.layout.map fun (x : Layout) => { x with ticked := x.step == LayoutStep.committed } }
                    takeover := s.takeover.map fun (t : Takeover) => { t with ticked := true }
                    recent := s.recent.filter fun x => decide (s.floor ≤ x.time)
                    cores := s.cores.map fun (e : Nat × Core) => (e.1, { e.2 with lt := max e.2.lt (F + 1) }) }
  .next ((s.owe .queueAging).tickWork)

/-! ## Snapshots and migration (R484) -/

/-- VD_SNAPSHOT (R484): the pages of a virtual device are preserved as they stand. With protected regions the snapshot is the
group's, which member 0 starts and which completes when its epoch commits (R544, R545). -/
def execVdSnapshot (v : Fin 32) (s : State) : Host.Outcome State Fault Refusal :=
  let mine := s.sp.regions.filter fun r => r.v == v.val
  if (s.vd v.val).snapp = 0 then .next s
  else if !mine.isEmpty then
    .next ((mine.filter fun r => r.req.extractLsb' (8 * 0x1E) 8 == 0).foldl (fun (s : State) r =>
      s.owe (.epochStart (r.req.extractLsb' (8 * 0x18) 32) [])) s)
  else .next (s.onVd v.val fun d => { d with snap := some { hbm := s.hbm, bad := s.hbmBad, epoch := ((d.snap.map (·.epoch)).getD 0) + 1 } })

/-- An offset after which a register that now reads `now` reads no less than `last`: by how much more is not stated (log 20). -/
def notBelow (now last : Word) (draw : Nat) : Word := last - now + ((Config.freeWord draw) >>> 2)

/-- A saved context at the destination of its migration (R198, R484): each core's LEASE is the destination's floor and the offset that it
had from the source's. -/
def Image.migrated (floor : Nat) (i : Image) : Image :=
  { i with floor := floor
           ctx := { i.ctx with cores := i.ctx.cores.map fun (e : Nat × Nat × Core) =>
             (e.1, e.2.1, { e.2.2 with lt := floor + (e.2.2.lt - i.floor) }) } }

/-- VD_MIGRATION (R484), at its destination: CYCLE and SADDLE go on from what was last read; the contexts of the device, saved as images,
get their LEASE, and hold their exact counters and slot schedules (R402). DEDUCED (log 176). -/
def execVdMigration (v : Fin 32) (cycleLast saddleLast : BitVec 64) (s : State) : Host.Outcome State Fault Refusal :=
  let tick := BitVec.ofNat 64 s.ticks
  let s := s.onVd v.val fun d => { d with cofs := notBelow (BitVec.ofNat 64 s.now) cycleLast s.draws
                                          sofs := notBelow tick saddleLast (s.draws + 1) }
  .next { s with draws := s.draws + 2
                 images := s.images.map fun (i : Image) =>
                   if i.out && (s.part i.ctx.ptag.toNat).vdev.toNat == v.val then i.migrated s.floor else i }

end Sys2Proof.Machine
end

