-- ==== Sys2Proof/Machine/Links.lean ====
section
/-! DEFINITION. The package network and its die-to-die links (R491 to R494, R503 to R508): the col channel, frames with their
dictionaries, acknowledgement and replay, digests, retraining and routes. -/
namespace Sys2Proof.Machine
open Sys2Proof

/-- COL_CHANNEL_ESCAPE (R493): the packet stays in the col channel to its destination. -/
def execColChannelEscape (id : Nat) (s : State) : Host.Outcome State Fault Refusal :=
  .next { s with net := s.net.map fun (k : Packet) => if k.id = id then { k with col := true } else k }

/-! ## Dictionaries (R504, R505) -/

/-- The bytes of a line, lowest first. -/
def lineBytes (x : BitVec 1024) : List Byte := toBytes 128 x

/-- The state after a record is decoded to a line: LL, and for RAW and DIFF the next entry (R505). -/
def Dict.push (d : Dict) (r : LineRec) (x : BitVec 1024) : Dict :=
  match r with
  | .raw _ | .diff .. => { entries := Tab.set d.entries d.ip.toNat x, ip := d.ip + 1, ll := x }
  | _ => { d with ll := x }

/-- Entry i. -/
def Dict.entry (d : Dict) (i : Nat) : BitVec 1024 := Tab.get 0 d.entries i

/-- A base line with the bytes whose mask bit is set replaced, in ascending order (R504); none where their number is wrong. -/
def patchMask (x : BitVec 1024) (mask : BitVec 128) (bs : List Byte) : Option (BitVec 1024) :=
  let at_ := (List.range 128).filter fun i => mask.getLsbD i
  if at_.length ≠ bs.length then none
  else some ((at_.zip bs).foldl (fun (y : BitVec 1024) (e : Nat × Byte) =>
    (y &&& ~~~((0xFF#1024) <<< (8 * e.1))) ||| (e.2.setWidth 1024 <<< (8 * e.1))) x)

/-- The line of a record (R504). -/
def Dict.decode (d : Dict) : LineRec → Option (BitVec 1024)
  | .raw x => some x
  | .zero => some 0
  | .diff i mask bs => patchMask (d.entry i.toNat) mask bs
  | .rep => some d.ll

/-- The bytes in which two lines differ. -/
def diffMask (x y : BitVec 1024) : BitVec 128 :=
  (List.range 128).foldl (fun (m : BitVec 128) i =>
    if x.extractLsb' (8 * i) 8 = y.extractLsb' (8 * i) 8 then m else m ||| (1#128 <<< i)) 0
def maskCount (m : BitVec 128) : Nat := ((List.range 128).filter fun i => m.getLsbD i).length

/-- The entry with the fewest differing bytes, the lowest on ties. -/
def Dict.nearest (d : Dict) (x : BitVec 1024) : Nat × Nat :=
  (List.range 64).foldl (fun (best : Nat × Nat) i =>
    let k := maskCount (diffMask (d.entry i) x)
    if k < best.2 then (i, k) else best) (0, 129)

/-- The record a sender chooses for a line (R505); after a reset request RAW and ZERO only (R507). -/
def Dict.encode (d : Dict) (rawOnly : Bool) (x : BitVec 1024) : LineRec :=
  if x = 0 then .zero
  else if rawOnly then .raw x
  else if x = d.ll then .rep
  else
    let best := d.nearest x
    if best.2 < 96 then
      let m := diffMask (d.entry best.1) x
      .diff (BitVec.ofNat 6 best.1) m (((List.range 128).filter fun i => m.getLsbD i).map fun i => x.extractLsb' (8 * i) 8)
    else .raw x

/-- The lines of a frame as records, with the state after them. -/
def Dict.encodeAll (rawOnly : Bool) : Dict → List FrameItem → Dict × List LineRec
  | d, [] => (d, [])
  | d, .flit _ :: xs => Dict.encodeAll rawOnly d xs
  | d, .line x :: xs =>
    let r := d.encode rawOnly x
    let q := Dict.encodeAll rawOnly (d.push r x) xs
    (q.1, r :: q.2)

/-- The lines that a frame's records decode to, with the state after them (R505). -/
def Dict.decodeAll : Dict → List LineRec → Option (Dict × List (BitVec 1024))
  | d, [] => some (d, [])
  | d, r :: rs => match d.decode r with
    | none => none
    | some x => (Dict.decodeAll (d.push r x) rs).map fun q => (q.1, x :: q.2)

/-- The digest of a dictionary state (R507): entries 0 to 63, IP, LL. -/
def Dict.digest (d : Dict) : Word :=
  let bs := ((List.range 64).flatMap fun i => lineBytes (d.entry i)) ++ [d.ip.setWidth 8] ++ lineBytes d.ll
  bs.foldl crc64Fold (BitVec.allOnes 64)

/-! ## Directions of a link (R506, R507) -/

def State.link (s : State) (i : Nat) : Link := Tab.get {} s.links i
def State.onLink (s : State) (i : Nat) (f : Link → Link) : State := { s with links := Tab.set s.links i (f (s.link i)) }
def State.linkDir (s : State) (i : Nat) (k : Fin 2) : LinkDir := (s.link i).dirs[k]
def State.onDir (s : State) (i : Nat) (k : Fin 2) (f : LinkDir → LinkDir) : State :=
  s.onLink i fun l => { l with dirs := l.dirs.set k (f l.dirs[k]) }

/-- The lines of a frame. -/
def itemLines (xs : List FrameItem) : List (BitVec 1024) := xs.filterMap fun x => match x with
  | .line y => some y
  | .flit _ => none

/-- The sender sends a frame for the first time (R505): it keeps it, at most 64 of them (R503). -/
def LinkDir.send (d : LinkDir) (items : List FrameItem) : LinkDir :=
  let q := d.tip.encodeAll false items
  { d with next := d.next + 1, tip := q.1, unacked := d.unacked ++ [{ seq := d.next, items := items, recs := q.2 }] }

/-- The sender learns that its receiver expects frame A: it commits the updates of the frames below A and frees them (R506). -/
def LinkDir.commit (d : LinkDir) (a : BitVec 16) : LinkDir :=
  if a = d.next ∨ d.unacked.any (fun f => f.seq == a) then
    let done := d.unacked.takeWhile fun f => f.seq != a
    let base := done.foldl (fun (b : Dict) f => ((b.decodeAll f.recs).map (·.1)).getD b) d.base
    { d with base := base, unacked := d.unacked.drop done.length }
  else d

/-- The sender's dictionary after the frames it keeps up to number `q`, that one included (R507). -/
def LinkDir.after (d : LinkDir) (q : BitVec 16) : Dict :=
  let upTo := (d.unacked.takeWhile fun f => f.seq != q) ++ (d.unacked.find? fun f => f.seq == q).toList
  upTo.foldl (fun (b : Dict) f => ((b.decodeAll f.recs).map (·.1)).getD b) d.base

/-- The frames that are kept are encoded again from the committed state (R506, R507). -/
def LinkDir.reencode (d : LinkDir) (rawOnly : Bool) : LinkDir :=
  let q := d.unacked.foldl (fun (acc : Dict × List SentFrame) f =>
    let e := acc.1.encodeAll rawOnly f.items
    (e.1, acc.2 ++ [{ f with recs := e.2 }])) (d.base, [])
  { d with tip := q.1, unacked := q.2 }

/-- The frames kept go out again, in order, with good check sums. -/
def State.resend (s : State) (i : Fin 50) (k : Fin 2) : State :=
  (s.linkDir i.val k).unacked.foldl (fun (s : State) f =>
    s.owe (.dataFrameReceive i k { seq := f.seq, items := f.items })) s

/-! ## Frames on the wire (R503, R504) -/

/-- The bytes of a record (R504). -/
def LineRec.bytes : LineRec → List Byte
  | .raw x => 0x00#8 :: lineBytes x
  | .zero => [0x40#8]
  | .diff i m bs => (0x80#8 ||| i.setWidth 8) :: (toBytes 16 m ++ bs)
  | .rep => [0xC0#8]

/-- The record that bytes begin with, and the bytes after it; none where bits that are zero are set, or bytes are missing (R504). -/
def parseRec : List Byte → Option (LineRec × List Byte)
  | [] => none
  | b :: bs =>
    let low := b.extractLsb' 0 6
    let mask : BitVec 128 := ofBytes 128 (bs.take 16)
    let n := maskCount mask
    if b.extractLsb' 6 2 = 0 then
      (if low = 0 ∧ 128 ≤ bs.length then some (.raw (ofBytes 1024 (bs.take 128)), bs.drop 128) else none)
    else if b.extractLsb' 6 2 = 1 then (if low = 0 then some (.zero, bs) else none)
    else if b.extractLsb' 6 2 = 2 then
      (if 16 + n ≤ bs.length then some (.diff low mask ((bs.drop 16).take n), bs.drop (16 + n)) else none)
    else if low = 0 then some (.rep, bs)
    else none

/-- The payload of a data frame: header flits as sent, lines as records (R503). -/
def itemBytes : List FrameItem → List LineRec → List Byte
  | [], _ => []
  | .flit x :: xs, rs => toBytes 16 x ++ itemBytes xs rs
  | .line _ :: xs, r :: rs => r.bytes ++ itemBytes xs rs
  | .line _ :: xs, [] => itemBytes xs []
/-- The flits and records of a payload whose packets have the shape of `xs`: the layout by which a header flit tells its packet's
lines is internal to the package (R492). -/
def parseItems : List FrameItem → List Byte → Option (List (BitVec 128) × List LineRec)
  | [], _ => some ([], [])
  | .flit _ :: xs, bs =>
    if bs.length < 16 then none else (parseItems xs (bs.drop 16)).map fun q => (ofBytes 128 (bs.take 16) :: q.1, q.2)
  | .line _ :: xs, bs => match parseRec bs with
    | none => none
    | some r => (parseItems xs r.2).map fun q => (q.1, r.1 :: q.2)
/-- The packets of the shape of `xs` with the flits and lines that were received. -/
def fillItems : List FrameItem → List (BitVec 128) → List (BitVec 1024) → List FrameItem
  | [], _, _ => []
  | .flit _ :: xs, fs, ls => .flit (fs.headD 0) :: fillItems xs fs.tail ls
  | .line _ :: xs, fs, ls => .line (ls.headD 0) :: fillItems xs fs ls.tail
/-- Zero padding to whole flits. -/
def padFlits (bs : List Byte) : List Byte := bs ++ List.replicate ((16 - bs.length % 16) % 16) 0#8

/-- The most that the lines and flits of a frame take, with every record RAW: a frame that is sent again fits whatever its sender's
state. DEDUCED (log 120). -/
def itemRoom (xs : List FrameItem) : Nat :=
  xs.foldl (fun (n : Nat) x => n + match x with
    | .flit _ => 16
    | .line _ => 129) 0
/-- A frame holds at most 31 payload flits (R503). -/
def fitsFrame (xs : List FrameItem) : Bool := decide (itemRoom xs ≤ 31 * 16)

/-- LCRC (R503). -/
def linesCrc (ls : List (BitVec 1024)) : BitVec 32 := crc32 (ls.flatMap lineBytes)
/-- FCRC (R503): over bytes 0 to 11 of the header flit and the payload. -/
def frameCrc (h : BitVec 96) (pay : List Byte) : BitVec 32 := crc32 (toBytes 12 h ++ pay)
/-- The header flit of a data frame (R503). -/
def dataHead (seq acke : BitVec 16) (lcrc : BitVec 32) (pay : List Byte) : BitVec 128 :=
  let h : BitVec 96 := lcrc ++ (0#16 ++ (BitVec.ofNat 8 (pay.length / 16) ++ (0#8 ++ (acke ++ seq))))
  frameCrc h pay ++ h
def headSeq (h : BitVec 128) : BitVec 16 := h.extractLsb' 0 16
def headAcke (h : BitVec 128) : BitVec 16 := h.extractLsb' 16 16
def headKind (h : BitVec 128) : BitVec 8 := h.extractLsb' 32 8
def headLen (h : BitVec 128) : Nat := (h.extractLsb' 40 8).toNat
def headLcrc (h : BitVec 128) : BitVec 32 := h.extractLsb' 64 32
def headFcrc (h : BitVec 128) : BitVec 32 := h.extractLsb' 96 32
/-- Bytes with some bits turned over. -/
def flipBytes (bs : List Byte) (es : List (Nat × Byte)) : List Byte :=
  es.foldl (fun (bs : List Byte) e => bs.set e.1 (bs.getD e.1 0 ^^^ e.2)) bs
/-- What arrives of a frame that its sender keeps: the header flit and as much of the payload as its LEN says. -/
def arrivedFrame (f : Frame) (x : SentFrame) (acke : BitVec 16) : BitVec 128 × List Byte :=
  let pay := padFlits (itemBytes x.items x.recs)
  let h := dataHead x.seq acke (linesCrc (itemLines x.items)) pay ^^^ f.headErr
  (h, (flipBytes pay f.payErr).take (16 * headLen h))
/-- The header flit of a control frame (R503): FSEQ and LCRC are zero. -/
def controlHead (kind : Nat) (acke : BitVec 16) (pay : List Byte) : BitVec 128 :=
  let h : BitVec 96 := 0#32 ++ (0#16 ++ (BitVec.ofNat 8 (pay.length / 16) ++ (BitVec.ofNat 8 kind ++ (acke ++ 0#16))))
  frameCrc h pay ++ h
/-- The payload of a digest frame (R503). -/
def digestPay (dseq : BitVec 16) (x : Word) : List Byte := toBytes 2 dseq ++ List.replicate 6 0#8 ++ toBytes 8 x
/-- The FCRC of what arrived is correct. -/
def soundFrame (h : BitVec 128) (pay : List Byte) : Bool := frameCrc (h.extractLsb' 0 96) pay == headFcrc h

/-! ## Acceptance (R506, R507) -/

/-- The other direction of a link. -/
def otherDir (k : Fin 2) : Fin 2 := if k = 0 then 1 else 0
/-- A frame of a direction carries the E of its sender, which commits the frames below it of the other direction (R506). -/
def State.acknowledge (s : State) (i : Fin 50) (k : Fin 2) (acke : BitVec 16) : State :=
  s.onDir i.val (otherDir k) fun d => d.commit acke

/-- A control frame on its way (R503, R506, R507): what arrives of it, with the bits that the link has turned over, is read as it stands. One
with a wrong FCRC or an unknown KIND is discarded, and its receiver sends a replay request at the first discard after an acceptance, which may
be discarded in its turn: `fuel` of 3 covers the two directions. DEDUCED (log 120). -/
def State.controlFrame : Nat → State → Fin 50 → Fin 2 → Nat → BitVec 16 → List Byte → State
  | 0, s, _, _, _, _, _ => s
  | fuel + 1, s0, i, k, kind, acke, pay =>
    let got := flipBytes (toBytes 16 (controlHead kind acke pay) ++ pay) (Config.wireErrors s0.draws)
    let h : BitVec 128 := ofBytes 128 (got.take 16)
    let body := (got.drop 16).take (16 * headLen h)
    let s := { s0 with draws := s0.draws + 1 }
    let discard := fun (s : State) =>
      if (s.linkDir i.val k).noted then s
      else State.controlFrame fuel (s.onDir i.val k fun d => { d with noted := true }) i (otherDir k) 2 (s.linkDir i.val k).expect []
    if !soundFrame h body then discard (s.suspect (.link i) 16)
    else
      let s := s.acknowledge i k (headAcke h)
      match (headKind h).toNat with
      | 1 => s.owe (.probe i k)
      | 2 => s.owe (.replayRequest i (otherDir k) (headAcke h))
      | 3 => s.owe (.digest i k (ofBytes 16 (body.take 2)) (ofBytes 64 ((body.drop 8).take 8)))
      | 4 => s.owe (.resetRequest i (otherDir k) (headAcke h))
      | _ => discard s
/-- A control frame is sent. -/
def State.sendControl (s : State) (i : Fin 50) (k : Fin 2) (kind : Nat) (acke : BitVec 16) (pay : List Byte) : State :=
  s.controlFrame 3 i k kind acke pay

/-- A discarded frame: at the first one after an acceptance the receiver sends a replay request (R506). DEDUCED (log 152). -/
def State.discardFrame (s : State) (i : Fin 50) (k : Fin 2) : State :=
  let d := s.linkDir i.val k
  if d.noted then s else (s.onDir i.val k fun d => { d with noted := true }).sendControl i (otherDir k) 2 d.expect []

/-- A mismatch of a digest, or of LCRC with a correct FCRC (R507): the receiver resets its dictionary and sends a reset request,
and the link is suspected (R537). -/
def State.mismatch (s : State) (i : Fin 50) (k : Fin 2) : State :=
  let s := s.onLink i.val fun l => { l with resets := satInc l.resets }
  let s := s.onDir i.val k fun d => { d with dict := {}, noted := true, digest := none }
  (s.suspect (.link i) 16).sendControl i (otherDir k) 4 (s.linkDir i.val k).expect []

/-- The receiver's part of a data frame with a correct FCRC (R506, R507). DEDUCED (log 120). -/
def State.receiveData (s : State) (i : Fin 50) (k : Fin 2) (shape : List FrameItem) (h : BitVec 128) (pay : List Byte) : State :=
  let d := s.linkDir i.val k
  if headSeq h ≠ d.expect then s.discardFrame i k
  else match parseItems shape pay with
    | none => s.mismatch i k
    | some x => match d.dict.decodeAll x.2 with
      | none => s.mismatch i k
      | some q =>
        if linesCrc q.2 ≠ headLcrc h then s.mismatch i k
        else s.onDir i.val k fun d =>
          { d with dict := q.1, expect := d.expect + 1, noted := false, delivered := d.delivered ++ fillItems shape x.1 q.2
                   digest := if (headSeq h).toNat % 256 = 255 then some (headSeq h, q.1.digest) else d.digest }

/-- A frame arrives (R503, R506): with a wrong FCRC it is discarded and the link suspected (R537); else it acknowledges, and its KIND
tells what it is, a data frame or one that the errors of the link have made another; an unknown KIND discards it. -/
def State.receiveFrame (s0 : State) (i : Fin 50) (k : Fin 2) (shape : List FrameItem) (h : BitVec 128) (pay : List Byte) : State :=
  if !soundFrame h pay then (s0.suspect (.link i) 16).discardFrame i k
  else
    let s := s0.acknowledge i k (headAcke h)
    match (headKind h).toNat with
    | 0 => s.receiveData i k shape h pay
    | 1 => s.owe (.probe i k)
    | 2 => s.owe (.replayRequest i (otherDir k) (headAcke h))
    | 3 => s.owe (.digest i k (ofBytes 16 (pay.take 2)) (ofBytes 64 ((pay.drop 8).take 8)))
    | 4 => s.owe (.resetRequest i (otherDir k) (headAcke h))
    | _ => s.discardFrame i k

/-- DATA_FRAME_RECEIVE (R506): a frame that its sender sends for the first time, or one that it keeps, arrives. A frame whose number
ends its 256 is followed by its digest, each time it is sent (R507). A frame that no sender has is none. DEDUCED (log 153). -/
def execDataFrameReceive (link : Fin 50) (dir : Fin 2) (f : Frame) (s : State) : Host.Outcome State Fault Refusal :=
  let d := s.linkDir link.val dir
  let first := f.seq == d.next && decide (d.unacked.length < 64) && !(d.unacked.any fun x => x.seq == f.seq) && fitsFrame f.items
  let s1 := if first then s.onDir link.val dir fun d => d.send f.items else s
  match (s1.linkDir link.val dir).unacked.find? fun x => x.seq == f.seq with
  | none => .next s
  | some x =>
    let w := arrivedFrame f x (s.linkDir link.val (otherDir dir)).expect
    let s2 := s1.receiveFrame link dir x.items w.1 w.2
    .next (if f.seq.toNat % 256 = 255 then
        s2.sendControl link dir 3 (s.linkDir link.val (otherDir dir)).expect (digestPay f.seq ((s1.linkDir link.val dir).after f.seq).digest)
      else s2)

/-- REPLAY_REQUEST (R506): the sender commits, rolls back and resends, re-encoded from the committed state. -/
def execReplayRequest (link : Fin 50) (dir : Fin 2) (acke : BitVec 16) (s : State) : Host.Outcome State Fault Refusal :=
  let s := s.onLink link.val fun l => { l with replays := satInc l.replays }
  .next ((s.onDir link.val dir fun d => (d.commit acke).reencode false).resend link dir)

/-- PROBE_TIMEOUT (R506). -/
def execProbeTimeout (link : Fin 50) (dir : Fin 2) (s : State) : Host.Outcome State Fault Refusal :=
  .next (if (s.linkDir link.val dir).unacked.isEmpty then s else s.sendControl link dir 1 (s.linkDir link.val (otherDir dir)).expect [])

/-- PROBE (R506): it acknowledges, as every frame does, and is answered with a replay request. -/
def execProbe (link : Fin 50) (dir : Fin 2) (s : State) : Host.Outcome State Fault Refusal :=
  .next ((s.acknowledge link dir (s.linkDir link.val (otherDir dir)).expect).sendControl link (otherDir dir) 2 (s.linkDir link.val dir).expect [])

/-- DIGEST (R506, R507): it acknowledges; it is compared with the receiver's state after frame DSEQ, and ignored for a frame that the
receiver has not accepted. -/
def execDigest (link : Fin 50) (dir : Fin 2) (dseq : BitVec 16) (dig : BitVec 64) (s0 : State) : Host.Outcome State Fault Refusal :=
  let s := s0.acknowledge link dir (s0.linkDir link.val (otherDir dir)).expect
  match (s.linkDir link.val dir).digest with
  | none => .next s
  | some (q, x) => .next (if q = dseq ∧ x ≠ dig then s.mismatch link dir else s)

/-- RESET_REQUEST (R507): the sender commits the frames below E, resets its dictionary, and resends with RAW and ZERO records. -/
def execResetRequest (link : Fin 50) (dir : Fin 2) (acke : BitVec 16) (s : State) : Host.Outcome State Fault Refusal :=
  .next ((s.onDir link.val dir fun d => ({ d.commit acke with base := {} } : LinkDir).reencode true).resend link dir)

/-! ## Widths and routes (R508) -/

/-- The compute dies that each die-to-die link reaches (R491, R508); links of I/O dies reach one. -/
def linkDies : List (List Nat) :=
  [[0, 1], [1, 2], [3, 4], [4, 5], [6, 7], [7, 8], [0, 3], [1, 4], [2, 5], [3, 6], [4, 7], [5, 8],
   [0], [3], [6], [2], [5], [8]]
/-- The dies of a stack's two ports (R491). -/
def stackDies : List (Nat × Nat) :=
  [(0, 1), (0, 1), (1, 2), (1, 2), (0, 3), (1, 4), (2, 5), (3, 4), (4, 5), (3, 6), (4, 7), (5, 8), (6, 7), (6, 7), (7, 8), (7, 8)]
/-- The links of a compute die to its neighbours and to an I/O die. -/
def linksOf (d : Nat) : List Nat := (List.range 18).filter fun i => (linkDies.getD i []).contains d

/-- WIDTH of a direction with so many working lanes (R508). -/
def laneWidth (lanes : Nat) : BitVec 2 := if 16 ≤ lanes then 0 else if 8 ≤ lanes then 1 else if 4 ≤ lanes then 2 else 3

/-- A die whose every link is down (R508, R529). DEDUCED (log 121). -/
def State.cutOff (s : State) (d : Nat) : Bool := (linksOf d).all fun i => !(s.link i).up

/-- LINK_REROUTE (R508): the routes of the ordinary channels and of the col channel avoid such links. -/
def execLinkReroute (s : State) : Host.Outcome State Fault Refusal :=
  .next { s with avoided := (List.range 50).filter s.toAvoid }

end Sys2Proof.Machine
end

