-- ==== Sys2Proof/Machine/Sparing.lean ====
section
/-! DEFINITION. Losses of dies, cores, clusters, slices, stacks and I/O dies (R495 to R502, R528 to R535, R548): votes, fencing,
takeover by a spare, remapping and charges. -/
namespace Sys2Proof.Machine
open Sys2Proof

/-! ## What a loss leaves -/

/-- The logical time that a delivery carries. -/
def eventTime : Instr → Nat
  | .eventMessage m => m.time
  | .barrierArrivalMessage m => m.time
  | .barrierReleaseMessage m => m.time
  | .channelMessageLand _ _ m => m.time
  | .timedMessageLand _ _ m => m.time
  | _ => 0
/-- The logical times that a barrier holds. -/
def Barrier.times (b : Barrier) : List Nat := b.time :: b.last.2.1 :: (b.children ++ b.held).map (·.time)
/-- The logical times that channels and landings hold. -/
def Comm.times (c : Comm) : List Nat :=
  (c.slots.toList.flatMap fun x => x.msg.time :: (x.held.map (·.time)).toList) ++ c.landing.toList.filterMap fun m => m.map (·.time)
/-- The logical times that a core holds: its own, of its paths, its commands and its messages. -/
def Core.times (c : Core) : List Nat :=
  c.lt :: c.eng.zdone :: c.ft.toList ++ c.eng.cmds.map (·.time) ++ c.eng.done.map (·.2.2) ++ c.comm.times ++
    (c.ckpt.map (·.comm.times)).getD [] ++ (c.task.map (·.time)).toList
/-- The largest logical time held anywhere (R499). -/
def State.peakTime (s : State) : Nat :=
  let ts := s.homes.flatMap (fun e => [e.2.1, e.2.2]) ++ s.homeBase.map (·.2) ++
    s.clusters.flatMap (fun e => e.2.l1d.flatMap (fun k => [k.wts, k.rts]) ++ e.2.bars.flatMap fun b => b.2.times) ++
    (s.cores.map (·.2) ++ s.outCores).flatMap Core.times ++ s.net.map (fun k => eventTime k.ev) ++ s.pending.map eventTime ++
    s.held.map (fun h => eventTime h.ev) ++ s.queues.flatMap (fun q => q.2.map (·.time)) ++ s.launches.map (·.time) ++
    s.ports.posted.map (·.2)
  ts.foldl max s.maxTime

/-- A charge that no stopped core waits for is posted (R455, R529). -/
def State.postKind (s : State) (kind : BitVec 6) (die : Nat) (p : PTag) (n : Nat) : State :=
  let e : DErr := ⟨kind, p, n⟩
  let d := s.die die
  s.setDie die (if d.derrq.length < 64 then { d with derrq := d.derrq ++ [e] } else { d with derrWait := d.derrWait ++ [(e, none)] })

/-- The loss of a core is posted: at its die, or where that is lost at the die that takes its place. -/
def State.postLoss (s : State) (die : Nat) (p : PTag) (n : Nat) : State := s.postKind 4 die p n

/-- The charge of a lost task without a domain to its launch (R431): FCNT rises. A task ends, and its launch may have come to its end;
the superstep checkpoint of a lost thread is lost with it, so that its charge escalates (R434). DEDUCED (log 117). -/
def State.chargeLaunch (s : State) (l : Option (Nat × Nat)) (wid : Word) (thread : Bool) : State :=
  let s := s.onLaunch l (Launch.charged wid false)
  match l with
  | some x => if thread then s.abortLaunch x else s.owe (.launchComplete ⟨x.1 % 32, Nat.mod_lt _ (by decide)⟩ x.2)
  | none => s

/-- The charge of a lost core's task (R431, R500, R530): to its outermost domain, else the domain it inherited, else its launch.
DEDUCED (log 117). -/
def State.chargeLost (s : State) (n : Nat) : State :=
  let c := s.core n
  match c.ctag, c.task with
  | some p, some t =>
    match c.doms.getLast? with
    | some r => s.chargeDomain p n t.launch t.wid chainDepth r
    | none =>
      if t.inherited ≠ 0 then s.chargeDomain p n t.launch t.wid chainDepth t.inherited
      else (s.chargeLaunch t.launch t.wid t.rank.isSome).abandon n
  | _, _ => s

/-- The charges of a context that is lost in a glen store (R498, R531), by a live core of its partition: each task that an earlier charge
has not ended, each posted at a die (R529). -/
def State.chargeOut (s : State) (die cl : Nat) (x : Ctx) : State :=
  x.cores.foldl (fun (s : State) e =>
    let now := (s.outCtxs.find? fun y => y.1 == cl && y.2.ptag == x.ptag).bind fun y => y.2.cores.find? fun k => k.2.1 == e.2.1
    match now.bind (·.2.2.task) with
    | none => s
    | some t =>
      let s := s.postLoss die x.ptag (cl * 24 + e.2.1)
      let r := (e.2.2.doms.getLast?).getD t.inherited
      match s.actor x.ptag with
      | some n => if r ≠ 0 then s.chargeDomain x.ptag n t.launch t.wid chainDepth r
                  else s.chargeLaunch t.launch t.wid t.rank.isSome
      | none => s.chargeLaunch t.launch t.wid (t.rank.isSome || r != 0)) s

/-- A core fenced: its results in flight, its context and its commands are lost (R530). -/
def State.fenceCore (s : State) (n : Nat) : State :=
  let s := s.leaveGang n false
  let d := s.die (dieOf n)
  let s := s.setDie (dieOf n) { d with parks := d.parks.filter fun y => match y with
    | .cmd p k _ _ => k != n || some p != (s.core n).ctag
    | .core k => k != n
    | .event .. => true }
  { s.setCore n { s.initCore n with mode := .fenced, lt := (s.core n).maxTime } with charges := s.charges.filter fun (x : Charge) => x.core != n, drains := s.drains.filter (· != SuspUnit.core n) }

/-- A context of a partition as it starts afresh on a core (log 23): the tables are those of the partition. -/
def State.freshCore (s : State) (p : PTag) (n : Nat) : Core :=
  let k := s.core n
  let g := (s.partAgent p).getD { core := n }
  { s.initCore n with ctag := some p, root := g.root, vsid := g.vsid, xlate := g.xlate, lt := max (s.floor + 1) k.lt, idleSince := s.now
                      tmg := { clk := max s.now k.tmg.clk } }

/-- The place of a core in a context that is out and to which it belongs from now on: its own index, or one that the context leaves free. -/
def Ctx.freeIndex (x : Ctx) (i : Nat) : Nat :=
  let used := fun (k : Nat) => x.cores.any fun e => e.2.1 == k
  if used i then ((List.range 24).find? fun k => !used k).getD i else i

/-- The context of a partition that is out and whose logical cores lie in a cluster, where it will be restored (R476). -/
def State.outFor (s : State) (p : PTag) (cl : Nat) : Option (Nat × Ctx) :=
  s.outCtxs.find? fun x => x.2.ptag == p && x.2.cores.any fun e => (s.ofLcn (some p) e.1).map clusterOf == some cl

/-- A core that is not fenced, whose slots are valid and on which no context is live receives that of its lowest slot (log 23); where that
context is out, the core joins it there. DEDUCED (log 118). -/
def State.startSlots (s : State) (n : Nat) : State :=
  match s.slotsOf n, (s.core n).ctag with
  | p :: _, none =>
    if s.idleSpare n || (s.core n).mode == .fenced || s.isFenced (.core n) then s
    else match s.outFor p (clusterOf n) with
      | none => (s.setCore n (s.freshCore p n)).owe (.taskPop n)
      | some x =>
        if x.2.cores.any fun e => s.ofLcn (some p) e.1 == some n then s
        else s.mapOut fun (cl : Nat) (y : Ctx) =>
          if cl == x.1 && y.ptag == p then
            { y with cores := y.cores ++ [(s.lcnIn (some p) n, y.freeIndex (indexOf n), { s.freshCore p n with mode := .yielded })] }
          else y
  | _, _ => s

/-! ## Translation tables and the core assignment -/

/-- The fields of a core's place in a translation entry (R472). -/
def xltWord (pkg n : Nat) : BitVec 32 :=
  (1#32 <<< 31) ||| (BitVec.ofNat 32 pkg <<< 16) ||| (BitVec.ofNat 32 (dieOf n) <<< 11) |||
    (BitVec.ofNat 32 (n % Config.coresPerDie / 24) <<< 5) ||| BitVec.ofNat 32 (n % 24)

/-- Every translation entry that names a core is rewritten by a function of the core it names (R498, R530). -/
def State.rewriteXlt (s : State) (f : Nat → Option (BitVec 32)) : State :=
  (s.parts.filter fun e => e.2.v).foldl (fun (s : State) e =>
    (List.range e.2.lcount.toNat).foldl (fun (s : State) i =>
      match xltCore (s.xltEntry (BitVec.ofNat 6 e.1) i) with
      | some (k, n) =>
        if k = Config.package then
          match f n with
          | some w => s.setPhysBytes (e.2.pxlt.toNat + 4 * i) (toBytes 4 w)
          | none => s
        else s
      | none => s) s) s

/-- A core's place in the sets of launches is taken by another. -/
def State.replaceInLaunches (s : State) (f : Nat → Nat) : State :=
  { s with launches := s.launches.map fun (x : Launch) => { x with core := x.core.map f } }

/-! ## Core and cluster failures (R529 to R532) -/

/-- The core of the same die that takes a failed core's logical numbers: the lowest without a valid slot, a server-mask bit or a
fence (R530); none where the die is lost (R502). -/
def State.standIn (s : State) (n : Nat) : Option Nat :=
  if s.dieFenced (dieOf n) then none
  else ((List.range Config.coresPerDie).map (dieOf n * Config.coresPerDie + ·)).find? fun m =>
    (s.slotsOf m).isEmpty && !s.isServer m && (s.core m).mode != .fenced && !s.isFenced (FenceUnit.core m)

/-- A failed core that holds a valid slot, or is to hold one under the tables of a layout in progress, is to lose it by a layout change that
the service processors submit on their own behalf (R502, R530). -/
def State.remapCore (s : State) (n : Nat) : State :=
  let holds := fun (a : List (Nat × Slots)) => !(Slots.valid (Tab.get [] a n)).isEmpty
  if s.sp.remaps.contains n || !(holds s.assign || s.sp.layout.any fun x => holds x.assign) then s
  else
    let s' := { s with sp := { s.sp with remaps := s.sp.remaps ++ [n] } }
    if s.sp.remaps.isEmpty && s.sp.layout.isNone then s'.owe (.layoutRequest (if s.sp.lost[0] then 1 else 0)) else s'

/-- One core's failure (R530). DEDUCED (log 122). -/
def State.failCore (s : State) (n : Nat) : State :=
  if (s.core n).mode = .fenced then s
  else
    let p := (s.core n).ptag
    let s := (s.chargeLost n).postLoss (dieOf n) p n
    (({ s with fenced := s.fenced ++ [FenceUnit.core n] }).fenceCore n).remapCore n

/-- CORE_FAILURE (R530). DEDUCED (log 136). -/
def execCoreFailure (core : Nat) (s : State) : Host.Outcome State Fault Refusal := .next (s.failCore core)

/-- CORE_HANG_TIMEOUT (R529): a core that runs, waits at no point of R469 and has issued nothing for 2^24 clk has failed. -/
def execCoreHangTimeout (core : Nat) (s : State) : Host.Outcome State Fault Refusal :=
  let c := s.core core
  if c.mode = .running ∧ !c.wait.yieldPoint ∧ c.wait ≠ .halted ∧ c.tmg.clk + 2 ^ 24 ≤ s.now then .next (s.owe (.coreFailure core))
  else .next s

/-- The homes of a slice of a logical die hold their data from the stacks at time M + 1, and no L1D keeps a LEASED copy of their
lines (R499, R532). DEDUCED (log 123). -/
def State.moveHomes (s : State) (l : Nat) (mine : Nat → Bool) (time : Nat) : State :=
  let at_ := fun (n : Nat) => homeDie n == l && mine (homeSlice n)
  let base := ((List.range 48).filter mine).map fun i => ((l, i), time)
  { s with homes := s.homes.filter fun e => match e.1 with
             | .line n => !at_ n
             | _ => true
           homeBase := base ++ s.homeBase.filter fun e => !(e.1.1 == l && mine e.1.2)
           clusters := s.clusters.map fun e => (e.1, { e.2 with l1d := e.2.l1d.filter fun k => k.swm || !at_ k.line }) }

/-- The physical die whose slices serve the homes of a logical one (R495, R502). -/
def State.servingDie (s : State) (l : Nat) : Nat :=
  match s.dieMap[l]? with
  | some e => if e.v then (if e.deg then e.pdie.toNat else e.place) else l
  | none => l
/-- The slice of a die that serves the homes of its slice i: the next one, in ascending order modulo 48, that is not fenced (R532). -/
def State.servingSlice (s : State) (die i : Nat) : Option Nat :=
  ((List.range 48).map fun k => (i + k) % 48).find? fun k => !s.fenced.any fun (u : FenceUnit) => match u with
    | .l2Slice d j => d.val == die && j.val == k
    | _ => false
/-- The homes that a slice serves move (R532): those of every logical die that its die serves, and those that an earlier fence has moved
to it. -/
def State.moveSlice (s : State) (die slice : Nat) : State :=
  let m := s.peakTime + 1
  ((List.range 8).filter fun l => s.servingDie l == die).foldl (fun (t : State) l =>
    t.moveHomes l (fun i => s.servingSlice die i == some slice) m) s

/-- An L2 slice is fenced (R532). -/
def State.fenceSlice (s : State) (die : Fin 9) (slice : Fin 48) : State :=
  if s.isFenced (.l2Slice die slice) then s
  else { s.moveSlice die.val slice.val with fenced := s.fenced ++ [FenceUnit.l2Slice die slice] }

/-- L2_SLICE_FENCE (R532). -/
def execL2SliceFence (die : Fin 9) (slice : Fin 48) (s : State) : Host.Outcome State Fault Refusal := .next (s.fenceSlice die slice)

/-- CLUSTER_FAILURE (R531): its cores, array, event unit, crossbar, engines, glen store and both slices beside it are fenced, also where
it belongs to a borrowed die. -/
def execClusterFailure (cl : Nat) (s : State) : Host.Outcome State Fault Refusal :=
  if s.isFenced (.cluster cl) then .next s
  else
    let cores := ((List.range 24).map (cl * 24 + ·)).filter fun n => (s.core n).mode != .fenced
    let s := match (s.cluster cl).glen with
      | some x => s.chargeOut (clusterDie cl) cl x
      | none => s
    let s := cores.foldl (fun (s : State) n => (s.chargeLost n).postLoss (dieOf n) (s.core n).ptag n) s
    let s := { s with fenced := s.fenced ++ FenceUnit.cluster cl :: cores.map FenceUnit.core }
    let s := cores.foldl State.fenceCore s
    let s := s.setCluster cl {}
    let s := cores.foldl State.remapCore s
    let d := s.die (clusterDie cl)
    let s := s.setDie (clusterDie cl) { d with chipFenced := (cl % 48) :: d.chipFenced }
    .next (if h : clusterDie cl < 9 then s.fenceSlice ⟨clusterDie cl, h⟩ ⟨cl % 48, Nat.mod_lt _ (by decide)⟩
      else s.moveSlice (clusterDie cl) (cl % 48))

/-! ## Dies (R495 to R502) -/

/-- The lowest-numbered compute die that survives (R502). -/
def State.lowestDie (s : State) : Nat :=
  ((List.range Config.dies).find? fun d => (s.logicalDie d).isSome && !s.dieFenced d).getD 8

/-- The entry that takes a lost die's place (R498, R501, R502): the local spare, a remote one, or none. -/
def State.spareEntry (s : State) (remote : Option (Fin 16)) : DieEntry × Bool :=
  if s.spare.sstate = 0 ∧ !s.isFenced (.die 8) then ({ v := true, pdie := 8 }, true)
  else match remote with
    | some k => ({ v := true, rem := true, pkg := BitVec.ofNat 4 k.val, pdie := 8 }, false)
    | none =>
      ({ v := true, deg := true, pdie := BitVec.ofNat 4 s.lowestDie }, false)

/-- The core of a takeover's new die in place of a core of the lost one. -/
def standCore (e : DieEntry) (n : Nat) : Nat := e.place * Config.coresPerDie + n % Config.coresPerDie

/-- DIE_TAKEOVER (R498, steps 1 to 4): the die is fenced; where it held a logical number, everything stops, the shadow maps are
loaded and the translation entries that name it rewritten; numbers that it served without cores pass to the lowest survivor (R502). A loss
during a takeover waits for the flip. DEDUCED (log 154). -/
def execDieTakeover (pdie : Fin 9) (remote : Option (Fin 16)) (s : State) : Host.Outcome State Fault Refusal :=
  if s.isFenced (.die pdie) then .next s
  else if s.takeover.isSome then .next (s.owe (.dieTakeover pdie remote))
  else
    let s := { s with fenced := s.fenced ++ [FenceUnit.die pdie]
                      spare := if pdie = 8 then { s.spare with sstate := 3 } else s.spare }
    match s.dieMap.findIdx? fun (e : DieEntry) => e.v && !e.deg && e.place == pdie.val with
    | none => .next s
    | some l =>
      let e := s.spareEntry remote
      let map := (s.dieMap.set l e.1).map fun (y : DieEntry) =>
        if y.v && y.deg && y.pdie.toNat == pdie.val then { y with pdie := BitVec.ofNat 4 s.lowestDie } else y
      let s1 := { s with takeover := some { lost := pdie.val, logical := l, map := map, own := e.2, peak := s.peakTime } }
      if e.1.deg then .next s1
      else .next (s1.rewriteXlt fun n =>
        if dieOf n = pdie.val then
          some (xltWord (if e.1.rem then e.1.pkg.toNat else Config.package) (e.1.pdie.toNat * Config.coresPerDie + n % Config.coresPerDie))
        else none)

/-- The domains of the entries that are lost with a die's queues (R431): the entries are gone, counted in their domains no more (R428), and
each domain is charged once. -/
def State.chargeQueues (s : State) (lost l : Nat) : State :=
  s.queues.foldl (fun (s : State) q =>
    let mine := match q.1 with
      | .cluster p cl => if clusterDie cl = lost then some p else none
      | .die p d => if d = l then some p else none
    match mine with
    | none => s
    | some p =>
      let tag : PTag := BitVec.ofNat 6 p
      let es := s.queue q.1
      let s := es.foldl (fun (s : State) (e : QEntry) => s.addTasks tag ((s.actor tag).getD 0) e.dom (-(BitVec.ofNat 64 e.left))) (s.setQueue q.1 [])
      (es.foldl (fun (a : State × List Word) (e : QEntry) =>
        if e.dom = 0 then (a.1.chargeLaunch e.launch e.cont.wid false, a.2)
        else if a.2.contains e.dom then a
        else match a.1.actor tag with
          | some n => (a.1.chargeDomain tag n e.launch e.cont.wid chainDepth e.dom, e.dom :: a.2)
          | none => (a.1.chargeLaunch e.launch e.cont.wid true, e.dom :: a.2)) (s, [])).1) s

/-- What was kept for a lost die: its cores, clusters and packets (R499, R500). -/
def State.loseDie (s : State) (d : Nat) : State :=
  let cores := (s.cores.filter fun e => dieOf e.1 == d).map (·.1)
  let s := cores.foldl (fun (s : State) n => (s.leaveGang n false).setCore n { s.initCore n with mode := .fenced, lt := (s.core n).maxTime }) s
  let gone := s.net.filter fun k => dieOf k.dst == d || dieOf k.src == d
  { s with net := s.net.filter fun k => !(dieOf k.dst == d || dieOf k.src == d)
           fdrop := BitVec.ofNat 32 (min 0xFFFFFFFF (s.fdrop.toNat + gone.length))
           clusters := s.clusters.filter fun e => clusterDie e.1 != d
           charges := s.charges.filter fun x => dieOf x.core != d }

/-- A claim that a lost die has taken and whose answer has not arrived, as its sender sends it again (R391, R499). -/
def State.claimAgain (s : State) (f : Nat → Nat) (k : Packet) : Option Packet :=
  match k.ev with
  | .channelClaimAnswer m _ => some { k with src := f k.src, dst := f m.dst, due := k.due, sup := (s.core k.dst).regs.trap.sup
                                             ev := .channelClaim { m with dst := f m.dst } }
  | _ => none

/-- The requests that surviving dies sent to a lost one and that it has not answered, as their senders send them again to the die
that takes its place (R499): those on the way, those it has taken up and not answered, and those whose answers are on the way. -/
def State.reissued (s : State) (t : Takeover) (e : DieEntry) : List Packet :=
  let f := fun (n : Nat) => if dieOf n = t.lost then standCore e n else n
  let moved := (t.unanswered ++ s.net.filter fun k => dieOf k.dst == t.lost && dieOf k.src != t.lost).map fun (k : Packet) =>
    { k with dst := f k.dst, ev := moveEvent (clusterOf (f k.dst)) f k.ev }
  moved ++ (s.net.filter fun k => dieOf k.src == t.lost && dieOf k.dst != t.lost).filterMap (s.claimAgain f)
/-- The claims that a lost die is about to take, as events of the die that takes its place. -/
def State.claimsOwed (s : State) (t : Takeover) (e : DieEntry) : List Instr :=
  let f := fun (n : Nat) => if dieOf n = t.lost then standCore e n else n
  s.pending.map fun i => match i with
    | .channelClaim m => if dieOf m.dst = t.lost then .channelClaim { m with dst := f m.dst } else i
    | i => i

/-- The cores of a lost die in what a layout change in progress is to install have those of its successor in their place. -/
def Layout.movedCores (x : Layout) (f : Nat → Nat) : Layout :=
  { x with assign := x.assign.map fun a => (f a.1, a.2), moves := x.moves.map fun m => (f m.1, m.2.map f) }

/-- DIE_MAP_FLIP (R498 steps 5 and 6, R499, R500, R502): at the tick after the takeover the routers flip to the shadow maps.
DEDUCED (log 116). -/
def execDieMapFlip (s : State) : Host.Outcome State Fault Refusal :=
  match s.takeover with
  | none => .next s
  | some t =>
    if !t.ticked then .next s
    else
      let e := t.map.getD t.logical {}
      let lostCores := (s.cores.filter fun x => dieOf x.1 == t.lost && x.2.ctag.isSome).map fun x => (x.1, x.2.ptag)
      let outs := (s.clusters.filter fun x => clusterDie x.1 == t.lost).filterMap fun x => x.2.glen.map fun y => (x.1, y)
      let parks := (s.die t.lost).parks
      let doors := (List.finRange 3).filterMap (fun i => ((s.die t.lost).door[i]).map fun a => (i, a)) ++ (s.die t.lost).doorWait
      let slots := s.assign.filter fun x => dieOf x.1 == t.lost
      let tags := (s.die t.lost).sliceTag
      let again := if e.deg then [] else s.reissued t e
      let s := if e.deg then s else { s with pending := s.claimsOwed t e }
      let served := (List.range 8).filter fun l => l == t.logical || s.servingDie l == t.lost
      let s := served.foldl (fun (s : State) l => s.moveHomes l (fun _ => true) (t.peak + 1)) s
      let s := { s with clusters := s.clusters.map fun (x : Nat × Cluster) => (x.1, { x.2 with l1d := x.2.l1d.filter (·.swm) }) }
      -- the charges, while the lost cores' records can still be told
      let heir := if e.deg then e.pdie.toNat else e.place
      let s := outs.foldl (fun (s : State) x => s.chargeOut heir x.1 x.2) s
      let s := lostCores.foldl (fun (s : State) x => s.chargeLost x.1) s
      let s := s.chargeQueues t.lost t.logical
      let s := s.loseDie t.lost
      let s := { s with dieMap := t.map, takeover := none, net := s.net ++ again
                        cores := s.cores.map fun (x : Nat × Core) => (x.1, x.2.setTmg fun m => { m with clk := max m.clk s.clk }) }
      let s := doors.foldl (fun (s : State) x => s.ringDoor heir x.1 x.2) s
      if e.deg then
        let s := lostCores.foldl (fun (s : State) x => s.postLoss heir x.2 x.1) (s.setDie t.lost {})
        let soon := (s.sp.layout.map (·.assign)).getD []
        .next ((slots ++ soon.filter fun x => dieOf x.1 == t.lost).foldl (fun (s : State) x => s.remapCore x.1) s)
      else
        let new := e.place
        let k := s.die new
        let k := { k with chipLost := true, chipOk := [], l2tlb := [], fbuf := [], drop := false, dcnt := 0, sliceTag := tags }
        let s := (s.setDie t.lost {}).setDie new k
        let s := { s with spare := { s.spare with takeovers := satInc s.spare.takeovers, sstate := if t.own then 1 else s.spare.sstate } }
        let f := fun (n : Nat) => if dieOf n = t.lost then standCore e n else n
        let s := { s with assign := s.assign.filter fun x => dieOf x.1 != t.lost
                          sp := { s.sp with layout := s.sp.layout.map (·.movedCores f), remaps := s.sp.remaps.filter fun n => dieOf n != t.lost } }
        let s := slots.foldl (fun (s : State) x =>
          let m := standCore e x.1
          if s.isServer m then s else { s with assign := Tab.set s.assign m x.2 }) s
        let s := s.replaceInLaunches f
        let s := slots.foldl (fun (s : State) x => s.startSlots (standCore e x.1)) s
        let s := lostCores.foldl (fun (s : State) x => s.postLoss new x.2 (standCore e x.1)) s
        .next (parks.foldl (fun (s : State) y => match y with
          | .event _ i => s.owe i
          | _ => s) s)

/-- REMOTE_SPARE_LEND (R501): a peer package of the launch takes this package's idle spare. DEDUCED (log 119). -/
def execRemoteSpareLend (borrower : Fin 16) (s : State) : Host.Outcome State Fault Refusal :=
  if s.spare.sstate = 0 ∧ !s.isFenced (.die 8) then
    .next ({ s with spare := { s.spare with sstate := 2, lentTo := some borrower.val } }.report (.spareLent borrower.val))
  else .next s

/-! ## Stacks, I/O dies and votes (R529, R533 to R535, R548) -/

/-- The doorbell of the die of a partition's lowest core (R489). -/
def State.ringPart (s : State) (p : PTag) (k : Fin 3) (arg : Word) : State := s.ringDoor (dieOf ((s.partCores p).headD 0)) k arg

/-- The fields of a protection request (R542). -/
def protField (q : BitVec 512) (off n : Nat) : Nat := (q.extractLsb' (8 * off) (8 * n)).toNat
def Region.ptag (r : Region) : PTag := BitVec.ofNat 6 (protField r.req 3 1)
def Region.vbase (r : Region) : Nat := protField r.req 8 8
def Region.len (r : Region) : Nat := protField r.req 0x10 8
def Region.gid (r : Region) : BitVec 32 := r.req.extractLsb' (8 * 0x18) 32
def Region.ndata (r : Region) : Nat := protField r.req 0x1C 1
def Region.npar (r : Region) : Nat := protField r.req 0x1D 1
def Region.rank (r : Region) : Nat := protField r.req 0x1E 1
/-- The bytes that a member maps (R542). -/
def Region.span (r : Region) : Nat := if r.rank < r.ndata then r.len else 2 * r.len

/-- The argument of REBUILD (R454). -/
def Region.arg (r : Region) : Word :=
  r.gid.setWidth 64 ||| (BitVec.ofNat 64 (protField r.req 2 1 % 16) <<< 32) ||| (BitVec.ofNat 64 (r.v % 32) <<< 36)

/-- The physical address of a page of a region, where it is mapped. -/
def State.regionPage (s : State) (r : Region) (off : Nat) : Option Nat :=
  match s.partAgent r.ptag with
  | none => none
  | some g => match s.walk g.root (r.vbase + off) with
    | .page level leaf => some (leafPa level leaf (r.vbase + off))
    | .fault .. => none

/-- A region has a page on a stack (R533). -/
def State.regionOn (s : State) (r : Region) (k : Fin 16) : Bool :=
  (List.range (r.span / 65536)).any fun i => ((s.regionPage r (65536 * i)).map (· / 2 ^ 36)) == some k.val

/-- STACK_LOSS (R533): the stack is fenced; its range reads as an error, and protected regions with pages on it need new ones. -/
def execStackLoss (k : Fin 16) (s : State) : Host.Outcome State Fault Refusal :=
  if s.isFenced (.stack k) then .next s
  else
    let hit := s.sp.regions.filter fun r => s.regionOn r k
    let s := { s with fenced := s.fenced ++ [FenceUnit.stack k], hbm := s.hbm.filter fun b => b.1 / 2 ^ 36 != k.val }
    .next (hit.foldl (fun (s : State) r => s.ringPart r.ptag 2 r.arg) s)

/-- IO_DIE_LOSS (R534): the survivor carries every function; the service processor of the die is lost with it. -/
def execIoDieLoss (n : Fin 2) (s : State) : Host.Outcome State Fault Refusal :=
  if s.ports.ioLost.contains n then .next s
  else .next ({ s with ports := { s.ports with ioLost := n :: s.ports.ioLost }, fenced := s.fenced ++ [FenceUnit.ioDie n] }.owe (.spLoss n))

/-- The loss of a die is taken up (R498): where the spare is not idle, a peer may offer its own (R501). DESIGN CHOICE (log 191). -/
def State.loseUnit (s : State) (d : Fin 9) : State :=
  { s with draws := s.draws + 1 }.owe (.dieTakeover d (Config.remoteSpare s.draws))

/-- A link goes down (R508): a die that has lost every link, and an I/O die or a stack that has lost its own, is lost. -/
def State.linkDown (s : State) (link : Fin 50) : State :=
  let s := s.onLink link.val fun l => { l with up := false, width := 3 }
  let dies := ((linkDies.getD link.val []).filter s.cutOff).filterMap fun d => if h : d < 9 then some (⟨d, h⟩ : Fin 9) else none
  let s := dies.foldl State.loseUnit s
  let s := if 12 ≤ link.val ∧ link.val < 15 ∧ ([12, 13, 14].all fun i => !(s.link i).up) = true then s.owe (.ioDieLoss 0) else s
  let s := if 15 ≤ link.val ∧ link.val < 18 ∧ ([15, 16, 17].all fun i => !(s.link i).up) = true then s.owe (.ioDieLoss 1) else s
  let k := (link.val - 18) / 2
  if 18 ≤ link.val ∧ !(s.link (18 + 2 * k)).up ∧ !(s.link (19 + 2 * k)).up then s.owe (.stackLoss ⟨k % 16, Nat.mod_lt _ (by decide)⟩) else s

/-- LINK_RETRAIN (R508): the link runs at the widest width its lanes allow, its dictionaries kept, or goes down. A link that goes
down is routed around at the next tick. -/
def execLinkRetrain (link : Fin 50) (lanes : BitVec 16) (s : State) : Host.Outcome State Fault Refusal :=
  let w := laneWidth (((List.range 16).filter fun i => lanes.getLsbD i).length)
  .next (if w = 3 then s.linkDown link else s.onLink link.val fun l => { l with up := true, width := w })

/-- A link that is fenced goes down (R508, R529). -/
def State.dropLink (s : State) (i : Fin 50) : State :=
  if s.isFenced (.link i) then s else { s with fenced := s.fenced ++ [FenceUnit.link i] }.linkDown i

/-- A bank is marked failed (R165): the third is the core's failure. -/
def State.failBank (s : State) (n : Nat) (b : Fin 18) : State :=
  let c := s.core n
  let f := c.fail ||| BitVec.ofNat 18 (1 <<< b.val)
  let s := s.setCore n { c with fail := f }
  if 3 ≤ failCount f then s.owe (.coreFailure n) else s.owe (.taskPop n)

/-- What fencing a unit begins (R529). -/
def State.fenceUnit (s : State) : FenceUnit → State
  | .core n => s.owe (.coreFailure n)
  | .bank n b => s.failBank n b
  | .cluster cl => s.owe (.clusterFailure cl)
  | .die d => s.loseUnit d
  | .l2Slice d i => s.owe (.l2SliceFence d i)
  | .stack k => s.owe (.stackLoss k)
  | .ioDie n => s.owe (.ioDieLoss n)
  | .link i => s.dropLink i

/-- A unit that one service processor alone may fence (R548). -/
def oneVote : FenceUnit → Bool
  | .core _ | .bank .. | .cluster _ | .l2Slice .. => true
  | _ => false

/-- A unit that stays in service takes work again (R548). -/
def State.keepUnit (s : State) : FenceUnit → State
  | .link i => { s with drains := s.drains.filter (· != SuspUnit.link i) }
  | _ => s

/-- DIAGNOSIS_VOTE (R535, R548): a core, bank, slice or cluster is fenced by a local service processor; any other unit by two votes: those of
the local service processors that are not lost, and a peer's, which decides where they differ or one is lost; where too few agree the unit
stays in service. -/
def execDiagnosisVote (u : FenceUnit) (vote0 vote1 : Bool) (peer : Option Bool) (s : State) : Host.Outcome State Fault Refusal :=
  let one := fun (b : Bool) => if b then 1 else 0
  let here := one (vote0 && !s.sp.lost[0]) + one (vote1 && !s.sp.lost[1])
  .next (if (if oneVote u then 1 ≤ here else 2 ≤ here + one (peer == some true)) then s.fenceUnit u else s.keepUnit u)

end Sys2Proof.Machine
end

