-- ==== Sys2Proof/Machine/Ports.lean ====
section
/-! DEFINITION. The ports at the package's edge (R509 to R522): messages that arrive, the peer window and its ordering, CXL.mem, and
accesses and recalls of other packages. -/
namespace Sys2Proof.Machine
open Sys2Proof

/-! ## Scale-out messages (R520 to R522) -/

/-- The fields of an endpoint entry (R520). -/
def epField (e : BitVec 512) (off n : Nat) : Nat := (e.extractLsb' (8 * off) (8 * n)).toNat

/-- The logical time that an access which no core issued exceeds (R245). DEDUCED (log 130). -/
def State.portTime (s : State) : Nat := s.floor

/-- What a stopped access of a port does: it parks, to be made again on a replay (R191), or it is dropped. -/
def State.portStop (s : State) (g : Agent) (p : PTag) (again : Instr) (e : AStop) (drop : State → State) :
    Host.Outcome State Fault Refusal :=
  match e with
  | .park va m level => .next (s.parkAgent g p 5 va m level (.event p again))
  | .noMemory pa => .fault (.noPhysicalMemory pa)
  | e => .next (drop (e.split s).1)

/-- The completion of a received message (R522). -/
def rxCompletion (immd : Word) (len k : Nat) (cut : Bool) : List Byte :=
  toBytes 8 immd ++ toBytes 4 (BitVec.ofNat 32 len) ++ toBytes 2 (if cut then 1#16 else 0#16) ++ toBytes 2 (BitVec.ofNat 16 (k + 1))

/-- NETWORK_RECEIVE (R522): the message goes to its buffer and then its completion to the ring; with no buffer free the port answers
with a receiver-not-ready NAK. A message on an endpoint that is not valid, or whose partition has no tables, goes nowhere.
DEDUCED (log 128). -/
def execNetworkReceive (v : Fin 32) (ep : Fin 256) (immd : BitVec 64) (data : List (BitVec 8)) (s : State) :
    Host.Outcome State Fault Refusal :=
  let e := Tab.get 0 (s.vd v.val).endpoints ep.val
  let p : PTag := e.extractLsb' 8 6
  let again : Instr := .networkReceive v ep immd data
  let k := Tab.get 0 (s.vd v.val).received ep.val
  let ring := 2 ^ (epField e 3 1)
  let size := 2 ^ (epField e 2 1)
  let at_ := fun (off step : Nat) => e.extractLsb' (8 * off) 64 + BitVec.ofNat 64 (k % ring * step)
  if !e.getLsbD 0 then .next s
  else match s.partAgent p with
    | none => .next s
    | some g0 =>
      let g := { g0 with time := s.portTime, ordered := false }
      match s.agentBytes g (e.extractLsb' (8 * 0x38) 64) 8 with
      | .error x => s.portStop g p again x id
      | .ok (s1, g1, tail) =>
        if ring ≤ k - (ofBytes 64 tail).toNat then .next (s1.report (.notReady v.val ep.val))
        else
          let bs := data.take size
          match s1.agentStore g1 (at_ 0x28 size) bs with
          | .error x => s.portStop g p again x id
          | .ok (s2, g2) =>
            match s2.agentStore g2 (at_ 0x30 16)
                (rxCompletion immd bs.length k (decide (size < data.length))) with
            | .error x => s.portStop g p again x id
            | .ok (s3, _) => .next (s3.onVd v.val fun d => { d with received := Tab.set d.received ep.val (k + 1) })

/-! ## The peer window (R511, R512) -/

/-- PWCTL_WRITE (R511): a write that names a partition of another virtual device changes nothing; reserved bits stay 0. -/
def execPwctlWrite (v : Fin 32) (x : BitVec 64) (s : State) : Host.Outcome State Fault Refusal :=
  let p := (x.extractLsb' 56 6).toNat
  if (s.part p).v && (s.part p).vdev.toNat == v.val then .next (s.onVd v.val fun d => { d with pwctl := x &&& 0xBFFFFFFFFFFF0000#64 })
  else .next s

/-- PEER_WINDOW_ACCESS (R511, R512): an access through BAR2 arrives; accesses of one requester are served in order, so that one that
finds an earlier one, which may be parked, waits behind it. DEDUCED (log 155). -/
def execPeerWindowAccess (v : Fin 32) (req : Nat) (off : BitVec 36) (a : PortAccess) (s : State) : Host.Outcome State Fault Refusal :=
  let s1 := s.enterPort { req := req, v := v.val, off := off.toNat, a := a }
  .next (if s.portBusy req then s1 else s1.owe (.postedWriteArrive v req))

/-- The oldest access of a requester leaves, and the next one has its turn. -/
def State.popPort (s : State) (req : Nat) : State :=
  let q := s.ports.queue
  let rest := q.eraseIdx (q.findIdx fun (x : PortReq) => x.req == req)
  let s := { s with ports := { s.ports with queue := rest } }
  match rest.find? fun (x : PortReq) => x.req == req with
  | some x => s.owe (.postedWriteArrive ⟨x.v % 32, Nat.mod_lt _ (by decide)⟩ req)
  | none => s

/-- An access that is dropped is counted; a read completes with Unsupported Request (R511). -/
def State.dropPort (s : State) (x : PortReq) : State :=
  let s := (s.onVd x.v fun d => { d with drops := satInc d.drops }).popPort x.req
  match x.a with
  | .write _ => s
  | _ => s.report (.unsupported x.req)

/-- The bytes that an access covers. -/
def accessBytes : PortAccess → Nat
  | .read n => n
  | .write bs => bs.length
  | .amo _ dbl _ | .cas dbl _ _ => if dbl then 8 else 4

/-- An access of a requester takes effect through its agent: the state, the requester's new time, and a read's data; the window
serves reads and writes. -/
def State.windowAccess (s : State) (g : Agent) (va : Word) : PortAccess → Except AStop (State × Nat × Option (List Byte))
  | .read n => match s.agentBytes g va n with
    | .error e => .error e
    | .ok (s, g, bs) => .ok (s, g.time, some bs)
  | .write bs => match s.agentStore g va bs with
    | .error e => .error e
    | .ok (s, g) => .ok (s, g.time, none)
  | .amo .. | .cas .. => .error (.fail .access va)

/-- POSTED_WRITE_ARRIVE (R511, R512): the oldest access of a requester is performed, past every earlier one of it; a parked one
holds back the others. -/
def execPostedWriteArrive (v : Fin 32) (req : Nat) (s : State) : Host.Outcome State Fault Refusal :=
  match s.ports.queue.find? fun (x : PortReq) => x.req == req with
  | none => .next s
  | some x =>
    let d := s.vd x.v
    let p : PTag := d.pwctl.extractLsb' 56 6
    let va : Word := (d.pwctl &&& 0x00FFFFFFFFFF0000#64) + BitVec.ofNat 64 x.off
    if x.launch then .next ((match x.a with
      | .write bs => s.launchWrite x.v req x.off bs
      | _ => s).popPort req)
    else if !d.pwctl.getLsbD 63 || decide (2 ^ 56 < va.toNat + accessBytes x.a) then .next (s.dropPort x)
    else match s.partAgent p with
      | none => .next (s.dropPort x)
      | some g0 =>
        let g := { g0 with time := max s.portTime (s.postedTime req), ordered := false }
        match s.windowAccess g va x.a with
        | .error e => s.portStop g p (.postedWriteArrive v req) e fun t => t.dropPort x
        | .ok (s1, t, data) =>
          let s2 := { s1 with ports := { s1.ports with posted := Tab.set s1.ports.posted req (max t (s.postedTime req)) } }.popPort req
          .next (match data with
            | some bs => s2.report (.completion req bs)
            | none => s2)

/-! ## Accesses by physical address (R513, R516 to R518) -/

/-- A read at the homes of its lines; `fuel` bounds the lines. -/
def State.physRead (s : State) (t pa : Nat) : Nat → Nat → State × Nat × List Byte
  | 0, _ => (s, t, [])
  | fuel + 1, n =>
    if n = 0 then (s, t, [])
    else
      let k := min n (128 - pa % 128)
      let r := s.readTime t (.line (pa / 128))
      let q := State.physRead r.1 r.2 (pa + k) fuel (n - k)
      (q.1, q.2.1, s.physBytes pa k ++ q.2.2)
/-- A write at the homes of its lines. -/
def State.physWrite (s : State) (t pa : Nat) : Nat → List Byte → State × Nat
  | 0, _ => (s, t)
  | fuel + 1, bs =>
    if bs.isEmpty then (s, t)
    else
      let k := min bs.length (128 - pa % 128)
      let r := (s.permit pa true).writeTime t (.line (pa / 128))
      State.physWrite (r.1.writeHome pa (bs.take k)) r.2 (pa + k) fuel (bs.drop k)

/-- An atomic of another package at its home (R225, R517): the old value. -/
def State.physAtomic (s : State) (t pa : Nat) (dbl : Bool) (f : Word → Word) : State × List Byte :=
  let len := if dbl then 8 else 4
  let old := ofBytes 64 (s.physBytes pa len)
  ((s.physWrite t pa 2 (toBytes len (f old))).1, toBytes len old)

/-- An access at the homes, with a read's data or the old value of an atomic, from a time on. -/
def State.physAccess (s : State) (t pa : Nat) : PortAccess → State × Option (List Byte)
  | .read n => let r := s.physRead t pa (n / 128 + 2) n
    (r.1, some r.2.2)
  | .write bs => ((s.physWrite t pa (bs.length / 128 + 2) bs).1, none)
  | .amo op dbl b => let r := s.physAtomic t pa dbl fun old => amoNew op dbl old b
    (r.1, some r.2)
  | .cas dbl cmp b => let r := s.physAtomic t pa dbl fun old => casNew dbl cmp old b
    (r.1, some r.2)

/-- An access reads what it covers. -/
def accessReads : PortAccess → Bool
  | .write _ => false
  | _ => true

/-- CXL_MEM_ACCESS (R513): an access of the host to the range of CXLHDM takes its time at the home; the host keeps the lines that it
reads until they are back-invalidated. An access outside the range is none; an uncorrectable word answers with an error.
DEDUCED (log 127). -/
def execCxlMemAccess (off : Nat) (a : PortAccess) (s : State) : Host.Outcome State Fault Refusal :=
  let h := s.ports.cxlhdm
  let pa := (h.extractLsb' 30 10).toNat * 2 ^ 30 + off
  if !h.getLsbD 63 || decide ((h.extractLsb' 40 8).toNat * 2 ^ 30 < off + accessBytes a) || decide (Config.hbmBytes < pa + accessBytes a) then .next s
  else if accessReads a && s.globalBad pa (accessBytes a) then .next (s.report (.errorCompletion Config.package))
  else
    let r := s.physAccess (s.portTime + 1) pa a
    let lines := (List.range ((pa + accessBytes a + 127) / 128 - pa / 128)).map (pa / 128 + ·)
    .next (match a, r.2 with
      | .read _, some bs =>
        { r.1 with ports := { r.1.ports with hostLines := (lines ++ r.1.ports.hostLines).eraseDups } }.report (.completion 0 bs)
      | _, some bs => r.1.report (.completion 0 bs)
      | _, none => r.1)

/-- The copies of a line leave every L1D; a recall writes back the dirty bytes of an SWM one first (R204, R517). -/
def State.dropCopies (s : State) (line : Nat) (back : Bool) : State :=
  s.clusters.foldl (fun (s : State) e =>
    let mine := (s.cluster e.1).l1d.filter fun k => k.line == line
    let s := (mine.filter fun k => back && k.swm && k.dirty != 0).foldl (fun (s : State) k => (s.mergeCopy k (s.portTime + 1)).1) s
    if mine.isEmpty then s else s.setCluster e.1 { s.cluster e.1 with l1d := (s.cluster e.1).l1d.filter fun k => k.line != line }) s

/-- FABRIC_RECALL (R517): the copy and its permission are dropped; a recall of a line that may be dirty writes it back. What is held of a
line of another package goes with it. DEDUCED (log 126). -/
def execFabricRecall (line : Nat) (invalidate : Bool) (s : State) : Host.Outcome State Fault Refusal :=
  let s1 := s.dropCopies line (!invalidate)
  let dirty := !invalidate && Tab.get false s1.ports.perms line
  let s2 := { s1 with ports := { s1.ports with perms := Tab.erase s1.ports.perms line } }
  let s3 := if isFabric (128 * line) then s2.setPhysBytes (128 * line) (List.replicate 128 0) else s2
  .next (s3.report (.recallAnswer line (if dirty then some (s1.physBytes (128 * line) 128) else none)))

/-- REMOTE_ACCESS_ARRIVE (R517): an access of another package is served in an exported range, and else dropped and counted, with an
error completion for its requester. -/
def execRemoteAccessArrive (port : Nat) (pa : BitVec 47) (a : PortAccess) (s : State) : Host.Outcome State Fault Refusal :=
  if !s.exported pa.toNat (accessBytes a) || !physOk pa.toNat then
    .next ({ s with ports := { s.ports with xdrop := satInc s.ports.xdrop } }.report (.errorCompletion port))
  else if accessReads a && s.globalBad pa.toNat (accessBytes a) then .next (s.report (.errorCompletion port))
  else
    let r := s.physAccess (s.portTime + 1) pa.toNat a
    .next (match r.2 with
      | some bs => r.1.report (.completion port bs)
      | none => r.1)

end Sys2Proof.Machine
end

