-- ==== Sys2Proof/Machine/Layouts.lean ====
section
/-! DEFINITION. The service processors (R471 to R479, R524, R525, R535, R542, R543, R547, R550, R552): mailboxes, layout requests and
their flip, watchdogs, protection, attestation and server-mask requests, and the physical-function window. -/
namespace Sys2Proof.Machine
open Sys2Proof

/-! ## Mailboxes (R475, R525) -/

/-- The fields of a 64-byte request. -/
def reqSeq (q : BitVec 512) : BitVec 32 := q.extractLsb' 32 32
def reqResa (q : BitVec 512) : Nat := protField q 0x28 8
/-- Bytes of a request are zero. -/
def reqZero (q : BitVec 512) (off n : Nat) : Bool := decide (protField q off n = 0)

def State.onMbox (s : State) (k : Fin 2) (f : Mailbox → Mailbox) : State :=
  { s with sp := { s.sp with mbox := s.sp.mbox.set k (f s.sp.mbox[k]) } }

/-- The event that takes up a request, by its OP (R475, R542); a request with another OP is a layout request that fails. -/
def requestEvent (sp : Fin 2) (q : BitVec 512) : Instr :=
  match protField q 0 1 with
  | 2 => .protectionRequest sp []
  | 3 => .attestationRequest sp
  | 4 => .serverMaskRequest sp
  | _ => .layoutRequest sp

/-- The other service processor. -/
def partner (k : Fin 2) : Fin 2 := if k = 0 then 1 else 0

/-- A request completes (R475, R525): its result is written, SEQ, STATUS and 8 bytes, then MBSTAT; a request that waits in the
other mailbox has its turn. -/
def State.finishRequest (s : State) (sp : Fin 2) (q : BitVec 512) (status : Nat) (extra : Nat) : State :=
  let s := s.setPhysBytes (reqResa q) (toBytes 4 (reqSeq q) ++ toBytes 4 (BitVec.ofNat 32 status) ++ toBytes 8 (BitVec.ofNat 64 extra))
  let s := s.onMbox sp fun m => { m with busy := false, lstat := BitVec.ofNat 8 status, lseq := reqSeq q }
  let o := s.sp.mbox[partner sp]
  if o.busy then s.owe (requestEvent (partner sp) o.req) else s

/-- MBDOOR (R525): MBREQ is submitted; while the other mailbox is busy, or a layout change in progress freezes new requests (R476), it
waits. DEDUCED (log 131). -/
def State.submitMbox (s : State) (sp : Fin 2) : State :=
  let m := s.sp.mbox[sp]
  if m.busy then s
  else
    let s := s.onMbox sp fun m => { m with busy := true }
    if s.sp.mbox[partner sp].busy || s.sp.layout.isSome then s else s.owe (requestEvent sp m.req)

/-! ## The tables of a layout (R472, R473, R475, R479) -/

/-- Bytes of a partition's entry without its counters. -/
def Part.words (x : Part) : Word × Word × Word :=
  (((BitVec.ofBool x.v).setWidth 64 <<< 63) ||| (x.vdev.setWidth 64 <<< 56) ||| (x.audk.setWidth 64 <<< 48) |||
      (x.grace.setWidth 64 <<< 32) ||| x.aging.setWidth 64,
    x.pxlt.setWidth 64 &&& ~~~0x3F#64, x.lbase.setWidth 64 ||| (x.lcount.setWidth 64 <<< 32))

/-- A word of physical memory. -/
def State.physWord (s : State) (pa : Nat) : Word := ofBytes 64 (s.physBytes pa 8)

/-- A partition's new entry. -/
def State.readPart (s : State) (pa : Nat) (p : Nat) : Part :=
  let w := s.physWord (pa + 64 * p)
  let x := s.physWord (pa + 64 * p + 8)
  let l := s.physWord (pa + 64 * p + 16)
  { v := w.getLsbD 63, vdev := w.extractLsb' 56 5, audk := w.extractLsb' 48 5, grace := w.extractLsb' 32 16,
    aging := w.extractLsb' 0 32, pxlt := x.extractLsb' 0 52 &&& ~~~0x3F#52, lbase := l.extractLsb' 0 18,
    lcount := l.extractLsb' 32 18 }

/-- An entry takes the place of one: the counters, the audit generator and the schedules stay, but where it is newly valid (R436, R472). -/
def Part.install (cur new : Part) : Part :=
  let kept : Part := if new.v && !cur.v then {} else cur
  { new with evdrop := kept.evdrop, tagdrop := kept.tagdrop, lfsr := kept.lfsr, scheds := kept.scheds }

/-- A virtual device's new policy block (R479). -/
def State.readVd (s : State) (pa : Nat) (v : Nat) : Vd :=
  let at_ := fun (off : Nat) => s.physWord (pa + 0x400 * v + off)
  let w := at_ 0
  let ring := fun (r : Nat) =>
    let b := at_ (0x100 + 16 * r)
    let q := at_ (0x108 + 16 * r)
    { en := b.getLsbD 63, base := b.extractLsb' 0 56 &&& ~~~0x3F#56, log := (b.extractLsb' 0 4).toNat
      head := (q.extractLsb' 32 12).toNat, tail := (q.extractLsb' 0 12).toNat : Ring }
  { en := w.getLsbD 63, fsys := w.getLsbD 59, fdev := w.getLsbD 58, snapp := w.extractLsb' 32 16
    cofs := at_ 0x10, sofs := at_ 0x18, ways := (at_ 0x20).setWidth 16,
    rings := ((List.range 16).map fun r => (r, ring r)).filter fun e => e.2 != {},
    buckets := ((List.range 10).map fun c => (c, (at_ (0x200 + 8 * c)).setWidth 48)).filter fun e => e.2 != 0 }

/-- A policy block takes the place of one (R479): what counts and what the host driver has set stays, and so do the pointers of a ring that
stays where it is. -/
def Vd.install (cur new : Vd) : Vd :=
  let ring := fun (r : Nat) =>
    let o := Tab.get {} cur.rings r
    let x := Tab.get {} new.rings r
    if o.en = x.en ∧ o.base = x.base ∧ o.log = x.log then o else x
  { cur with
    en := new.en, fsys := new.fsys, fdev := new.fdev, snapp := new.snapp, cofs := new.cofs, sofs := new.sofs, ways := new.ways
    rings := ((List.range 16).map fun r => (r, ring r)).filter fun e => e.2 != {}
    buckets := new.buckets }

/-- The slots of a core in the core-assignment table (R473). -/
def State.readSlots (s : State) (pa n : Nat) : Slots :=
  (List.range 4).map fun i =>
    let b : Byte := s.physByte (pa + 4 * n + i)
    if b.getLsbD 7 then some (b.extractLsb' 0 6) else none

/-- The tags of a die's chip-scratchpad slices (R155, R524). -/
def State.readSlices (s : State) (pa d : Nat) : List (Nat × PTag) :=
  (List.range 48).filterMap fun i =>
    let b := s.physByte (pa + 48 * d + i)
    if b.getLsbD 7 then some (i, b.extractLsb' 0 6) else none

/-- The number of cores that the tables hold: nine dies. -/
def allCores : Nat := Config.dies * Config.coresPerDie

/-- The tables that a request names, read from memory. -/
def State.readLayout (s : State) (sp : Fin 2) (q : BitVec 512) : Layout :=
  let at_ := fun (i : Nat) => protField q (8 + 8 * i) 8
  { sp := sp, req := q, step := .saving, affected := []
    assign := ((List.range allCores).map fun n => (n, s.readSlots (at_ 0) n)).filter fun e => !(Slots.valid e.2).isEmpty
    parts := (List.range 64).map fun p => (p, s.readPart (at_ 1) p)
    vds := (List.range 32).map fun v => (v, s.readVd (at_ 2) v)
    slices := (List.range Config.dies).map fun d => (d, s.readSlices (at_ 3) d) }

/-- The class capacities of R480, in tokens per 1,024 clk. -/
def classCapacity : List Nat := [4096, 2048, 1024, 2560, 9, 4000, 2048, 32750, 1024, 2000]

/-- The rates of a class over the virtual devices. -/
def Layout.rate (x : Layout) (c : Nat) : Nat :=
  x.vds.foldl (fun (k : Nat) e => k + ((Tab.get 0 e.2.buckets c).extractLsb' 0 24).toNat) 0

/-- The valid translation entries of a new partition. -/
def State.newXlt (s : State) (x : Part) : List (Nat × Nat) :=
  (List.range x.lcount.toNat).filterMap fun i =>
    xltCore (ofBytes 32 (s.physBytes (x.pxlt.toNat + 4 * i) 4))

/-- A layout is valid (R473). DEDUCED (log 132). -/
def State.layoutValid (s : State) (x : Layout) : Bool :=
  (x.parts.all fun e =>
    let xs := s.newXlt e.2
    !e.2.v || (decide (e.2.audk.toNat ≤ 17) &&
      (xs.all fun k => k.1 != Config.package || (Slots.valid (Tab.get [] x.assign k.2)).contains (BitVec.ofNat 6 e.1)) &&
      decide (xs.eraseDups.length = xs.length))) &&
  (x.assign.all fun e => !s.isServer e.1) &&
  ((List.range 10).all fun c => decide (x.rate c ≤ classCapacity.getD c 0))

/-- The record of a layout request is well formed (R475). -/
def layoutRecord (q : BitVec 512) : Bool :=
  decide (protField q 0 1 = 1) && decide (protField q 1 1 < 2) && reqZero q 2 2 && reqZero q 0x30 16

/-- What the layout gives a virtual device as its policy. -/
def vdPolicy (x : Vd) : Bool × Bool × Bool × BitVec 16 × Word × Word × BitVec 16 × List (Nat × Bool × BitVec 56 × Nat) × List (Nat × BitVec 48) :=
  (x.en, x.fsys, x.fdev, x.snapp, x.cofs, x.sofs, x.ways, x.rings.map fun e => (e.1, e.2.en, e.2.base, e.2.log), x.buckets)

/-- The cores of a partition in an assignment. -/
def coresOf (a : List (Nat × Slots)) (p : Nat) : List Nat :=
  (a.filter fun e => (Slots.valid e.2).contains (BitVec.ofNat 6 p)).map (·.1)

/-- The partitions whose entry, cores or policy a layout changes (R476). -/
def State.affectedBy (s : State) (x : Layout) : List Nat :=
  (List.range 64).filter fun p =>
    let old := s.part p
    let new := Tab.get {} x.parts p
    (old.v || new.v) && (old.v != new.v || old.words != new.words || coresOf s.assign p != coresOf x.assign p ||
      vdPolicy (s.vd new.vdev.toNat) != vdPolicy (Tab.get {} x.vds new.vdev.toNat))

/-- A partition with a launch that is active. -/
def State.busyPart (s : State) (p : Nat) : Bool :=
  s.launches.any fun x => x.ptag.toNat == p && (x.state == .active || x.state == .completing)

/-- The dies on which a partition's context is live. -/
def State.liveDies (s : State) (ps : List Nat) : List Nat :=
  ((s.cores.filter fun e => match e.2.ctag with
    | some p => ps.contains p.toNat
    | none => false).map fun e => dieOf e.1).eraseDups

/-- The argument of LAYOUT (R454): SEQ and the step. -/
def layoutArg (q : BitVec 512) (step : Nat) : Word := (reqSeq q).setWidth 64 ||| (BitVec.ofNat 64 step <<< 32)

def State.setLayout (s : State) (x : Option Layout) : State := { s with sp := { s.sp with layout := x } }

/-! ## Layout requests (R476) -/

/-- Steps 1 to 3 of R476 for a request: what refuses it, or the saves that the OS server cores are asked for. -/
def State.beginLayout (s : State) (sp : Fin 2) : State :=
  let s := s.onMbox sp fun m => { m with busy := true }
  let q := s.sp.mbox[sp].req
  let x := s.readLayout sp q
  if !layoutRecord q || !s.layoutValid x then s.finishRequest sp q 2 0
  else
    let ps := s.affectedBy x
    if protField q 1 1 = 1 ∧ (ps.any fun p => s.busyPart p && ((s.liveDies [p]).length != 0 ||
        s.outCtxs.any fun c => c.2.ptag.toNat == p)) = true then s.finishRequest sp q 1 0
    else
      let s := s.setLayout (some { x with affected := ps, since := s.draws })
      let s := (s.liveDies ps).foldl (fun (s : State) d => s.ringDoor d 0 (layoutArg q 3)) s
      s.owe (.layoutRequest sp)

/-- Where the failed cores' slots go (R502, R530), one core after the other, with the assignment that this leaves. -/
def State.ownMoves (s : State) : State × List (Nat × Option Nat) :=
  s.sp.remaps.foldl (fun (acc : State × List (Nat × Option Nat)) n =>
    let slots := Tab.get [] acc.1.assign n
    if (Slots.valid slots).isEmpty then acc
    else
      let rest := Tab.erase acc.1.assign n
      let heir := acc.1.standIn n
      ({ acc.1 with assign := match heir with
          | some m => Tab.set rest m slots
          | none => rest }, acc.2 ++ [(n, heir)])) (s, [])

/-- The service processors' own change for failed cores begins (R476, R502, R530): none where no such core holds a slot any more.
DEDUCED (log 122). -/
def State.beginOwn (s : State) : State :=
  let sp : Fin 2 := if s.sp.lost[0] then 1 else 0
  let go := s.ownMoves
  let s := { s with sp := { s.sp with remaps := [] } }
  if go.2.isEmpty then s
  else
    let ps := ((go.2.flatMap fun m => s.slotsOf m.1).map (·.toNat)).eraseDups
    let s := s.setLayout (some { sp := sp, req := 0, step := .saving, affected := ps, assign := go.1.assign, parts := [], vds := []
                                 slices := [], since := s.draws, own := true, moves := go.2 })
    ((s.liveDies ps).foldl (fun (s : State) d => s.ringDoor d 0 (layoutArg 0 3)) s).owe (.layoutRequest sp)

/-- The record of a request in a journal: SEQ and its CRC-32 (R476). -/
def journalRecord (q : BitVec 512) : BitVec 32 × BitVec 32 := (reqSeq q, crc32 (toBytes 64 q))
/-- A record goes to the MRAMs of both I/O dies. -/
def State.onJournals (s : State) (f : Journal → Journal) : State := { s with sp := { s.sp with journal := s.sp.journal.map f } }
/-- A commit record of a request whose CRC is valid stands in either MRAM (R478). -/
def State.committed (s : State) (q : BitVec 512) : Bool := s.sp.journal.any fun (x : Journal) => x.commit == some (journalRecord q)

/-- Contexts that were saved for a request are still out: the OS server cores restore them (R476). DEDUCED (log 133). -/
def State.awaitsRestore (s : State) (x : Layout) : Bool :=
  s.images.any fun i => i.out && decide (x.since ≤ i.stamp) && x.affected.contains i.ctx.ptag.toNat

/-- Units whose score asks for a drain that a layout commit put off (R538). -/
def State.drainAgain (s : State) : State :=
  (s.scores.filter fun e => decide (256 ≤ e.2) && !s.drained e.1).foldl (fun (s : State) e => s.owe (.unitDrain e.1)) s

/-- A layout change ends: a request with its result (R475); after one of the processors' own, the requests that it held up have their turn.
Failed cores that it left, and drains that it put off, follow. -/
def State.endLayout (s0 : State) (x : Layout) (status : Nat) : State :=
  let s := s0.setLayout none
  let s := if s.sp.remaps.isEmpty then s else s.owe (.layoutRequest (if s.sp.lost[0] then 1 else 0))
  let s := if x.own then
      (match (List.finRange 2).find? fun (k : Fin 2) => s.sp.mbox[k].busy with
        | some k => s.owe (requestEvent k s.sp.mbox[k].req)
        | none => s)
    else s.finishRequest x.sp x.req status (if status = 0 then x.changed else 0)
  s.drainAgain

/-- LAYOUT_REQUEST (R476, R525): the processors' own change for failed cores comes first; a request is checked and its saves are asked for; once no affected context is live the prepare
record is written, and then the commit record; after the flip, the result, once the contexts are restored. A request in the other mailbox
waits. -/
def execLayoutRequest (sp : Fin 2) (s : State) : Host.Outcome State Fault Refusal :=
  match s.sp.layout with
  | none => .next (if !s.sp.remaps.isEmpty then (let t := s.beginOwn; if t.sp.layout.isNone && t.sp.mbox[sp].busy then t.beginLayout sp else t)
    else if s.sp.mbox[partner sp].busy && !s.sp.mbox[sp].busy then s.submitMbox sp else s.beginLayout sp)
  | some x =>
    if x.sp ≠ sp then .next (s.submitMbox sp)
    else match x.step with
      | .saving =>
        if (s.liveDies x.affected).isEmpty then
          .next (((s.onJournals fun _ => { prepare := some (journalRecord x.req), commit := none }).setLayout
            (some { x with step := .prepared })).owe (.layoutRequest sp))
        else .next s
      | .prepared =>
        .next ((s.onJournals fun j => { j with commit := some (journalRecord x.req) }).setLayout (some { x with step := .committed }))
      | .committed => .next s
      | .restoring =>
        .next (if s.awaitsRestore x then s else s.endLayout x 0)

/-- A context can be restored under a layout (R476): its logical cores are mapped to cores of its partition in one cluster. -/
def State.restorable (s : State) (x : Ctx) : Bool :=
  let at_ := x.cores.map fun e => s.ofLcn (some x.ptag) e.1
  (s.part x.ptag.toNat).v && at_.all (fun o => match o with
    | some n => (s.slotsOf n).contains x.ptag
    | none => false) && decide ((at_.map fun o => o.map clusterOf).eraseDups.length ≤ 1)

/-- Contexts that are out are discarded. -/
def State.discardOut (s : State) (gone : Nat → Ctx → Bool) : State :=
  let held := s.outCtxs.filter fun c => gone c.1 c.2
  { s with clusters := s.clusters.map fun (e : Nat × Cluster) =>
             (e.1, { e.2 with glen := e.2.glen.bind fun x => if gone e.1 x then none else some x })
           images := s.images.map fun (i : Image) => if gone i.cl i.ctx then { i with out := false } else i
           held := s.held.filter fun (h : Held) => !held.any fun c => c.1 == h.cl && c.2.ptag == h.ptag }

/-- A launch has a task or thread in a context. -/
def Ctx.runs (x : Ctx) (l : Launch) : Bool := x.cores.any fun e => (e.2.2.task.bind (·.launch)) == some (l.vdev, l.lid)

/-- A core of a launch's set exists no longer (R423, R502): its number names no core of the partition on this package. -/
def State.setGone (s : State) (l : Launch) : Bool :=
  l.set.any fun k => match s.ofLcn (some l.ptag) k with
    | some n => !(s.slotsOf n).contains l.ptag
    | none => false

/-- The launches of affected partitions that cannot go on under the active tables complete with PARTITION_CHANGED (R423, R476): those with
work in a context that is not restored, with a core that exists no longer, or of a partition without cores; how many, too. The contexts
are discarded. -/
def State.endChanged (s : State) (ps : List Nat) (gone : Nat → Ctx → Bool) : State × Nat :=
  let lost := s.outCtxs.filter fun c => gone c.1 c.2
  let ls := s.launches.filter fun l => ps.contains l.ptag.toNat && (l.state == .active || l.state == .pending) &&
    (!(s.part l.ptag.toNat).v || (s.partCores l.ptag).isEmpty || s.setGone l || lost.any fun c => c.2.runs l)
  ((ls.foldl (fun (s : State) l => s.endLaunch (l.vdev, l.lid) 3) s).discardOut gone, ls.length)

/-- The OS server cores write the crossbar tags of clusters after a commit (R471); no register of theirs is given, so the tags are free.
DESIGN CHOICE (log 175). -/
def State.retagXbars (s : State) (cls : List Nat) : State :=
  let d := s.draws
  cls.foldl (fun (s : State) cl =>
    let c := s.cluster cl
    s.setCluster cl { c with
      xcnt := (List.range 16).foldl (fun (t : List (Nat × XCounter)) i => Tab.set t i { Tab.get {} t i with tag := Config.xbarTag d cl i }) c.xcnt
      xterm := (List.range 32).foldl (fun (t : List (Nat × XTerm)) i =>
        Tab.set t i { Tab.get {} t i with tag := Config.xbarTag d cl (16 + i) }) c.xterm }) { s with draws := d + 1 }

/-- The shadow tables of a request become active. -/
def State.flipTables (s0 : State) (x : Layout) : State :=
  let s := { s0 with
    assign := x.assign
    parts := (x.parts.map fun e => (e.1, (s0.part e.1).install e.2)).filter fun e => e.2 != {}
    vds := (x.vds.map fun e => (e.1, (s0.vd e.1).install e.2)).filter fun e => e.2 != {} }
  x.slices.foldl (fun (s : State) e => s.setDie e.1 { s.die e.1 with sliceTag := e.2 }) s

/-- The processors' own change becomes active: the translation entries of each moved core name the core that takes its place, or none. -/
def State.flipOwn (s : State) (x : Layout) : State :=
  let heir := fun (n : Nat) => (x.moves.find? fun m => m.1 == n).map (·.2)
  ({ s with assign := x.assign }.rewriteXlt fun n => match heir n with
    | some (some m) => some (xltWord Config.package m)
    | some none => some 0
    | none => none).replaceInLaunches fun n => ((heir n).bind id).getD n

/-- A context that is out is not restored after a change (R476, R530): its logical cores are not mapped in one cluster of its partition, or a
core of its cluster has lost its slots and no core of that cluster has taken them. -/
def State.notRestored (s : State) (x : Layout) (old : List (Nat × Slots)) (cl : Nat) (c : Ctx) : Bool :=
  x.affected.contains c.ptag.toNat && (!s.restorable c || x.moves.any fun m =>
    clusterOf m.1 == cl && (Slots.valid (Tab.get [] old m.1)).contains c.ptag && m.2.map clusterOf != some cl)

/-- LAYOUT_FLIP (R476, steps 5 and 6), at the tick after the commit: of the affected partitions the dies of both layouts have writes to
make or contexts to restore. -/
def execLayoutFlip (s : State) : Host.Outcome State Fault Refusal :=
  match s.sp.layout with
  | none => .next s
  | some x =>
    if x.step ≠ .committed ∨ !x.ticked then .next s
    else
      let old := s.assign
      let s := if x.own then s.flipOwn x else s.flipTables x
      let r := s.endChanged x.affected (s.notRestored x old)
      let fresh := if x.own then x.moves.filterMap (·.2) else x.assign.map (·.1)
      let s := fresh.foldl State.startSlots (if x.own then r.1 else r.1.retagXbars ((x.assign.map fun e => clusterOf e.1).eraseDups))
      let dies := (((old ++ x.assign).filter fun e => (Slots.valid e.2).any fun p => x.affected.contains p.toNat).map fun e => dieOf e.1).eraseDups
      let s := (dies.filter fun d => !s.dieFenced d).foldl (fun (s : State) d => s.ringDoor d 0 (layoutArg x.req 6)) s
      let s := (s.launches.filter fun y => y.state == .pending && x.affected.contains y.ptag.toNat).foldl (fun (s : State) y =>
        s.owe (.launchActivate ⟨y.vdev % 32, Nat.mod_lt _ (by decide)⟩ y.lid)) s
      .next ((s.setLayout (some { x with step := .restoring, changed := r.2 })).owe (.layoutRequest x.sp))

/-! ## Watchdogs (R478, R535, R547) -/

/-- What a partner does with a layout in progress when a service processor resets (R478): with a valid commit record in either MRAM it goes
on with steps 5 and 6; with the prepare record alone the old layout stays, and the OS server cores are asked to restore the saved contexts
on it, and drains that the commit put off come (R538); before that the partner goes on with the request. -/
def State.partnerTakes (s : State) (sp : Fin 2) : State :=
  match s.sp.layout with
  | none => s
  | some x =>
    if x.sp ≠ sp ∨ s.committed x.req = true ∨ x.step = .saving then s
    else
      let dies := ((s.outCtxs.filter fun c => x.affected.contains c.2.ptag.toNat).map fun c => clusterDie c.1).eraseDups
      let s := if x.own then { s with sp := { s.sp with remaps := x.moves.map (·.1) ++ s.sp.remaps } } else s
      dies.foldl (fun (s : State) d => s.ringDoor d 0 (layoutArg x.req 6)) (s.endLayout x 3)

/-- SP_WATCHDOG_RESET (R478, R535): the third reset within 1 s is the processor's loss. -/
def execSpWatchdogReset (sp : Fin 2) (s : State) : Host.Outcome State Fault Refusal :=
  let recent := (s.sp.resets.filter fun e => e.1 == sp && decide (s.ticks < e.2 + 1000000))
  let s := { s with sp := { s.sp with resets := (sp, s.ticks) :: s.sp.resets } }
  let s := s.partnerTakes sp
  .next (if 2 ≤ recent.length then s.owe (.spLoss sp) else s)

/-- SP_LOSS (R535): the partner completes a layout commit and runs alone. -/
def execSpLoss (sp : Fin 2) (s : State) : Host.Outcome State Fault Refusal :=
  let s := s.partnerTakes sp
  .next { s with sp := { s.sp with lost := s.sp.lost.set sp true } }

/-! ## Protected regions: requests (R542, R543) -/

/-- The fields of a protection request are in range (R542). -/
def protValid (q : BitVec 512) : Bool :=
  decide (protField q 0 1 = 2) && decide (protField q 1 1 < 2) && decide (protField q 2 1 < 16) && decide (protField q 3 1 < 64) &&
    decide (protField q 8 8 % 2 ^ 21 = 0) && decide (protField q 0x10 8 % 2 ^ 21 = 0) && decide (protField q 0x10 8 ≤ 2 ^ 36) &&
    decide (1 ≤ protField q 0x1C 1) && decide (protField q 0x1C 1 ≤ 8) && decide (1 ≤ protField q 0x1D 1) && decide (protField q 0x1D 1 ≤ 2) &&
    decide (protField q 0x1E 1 < protField q 0x1C 1 + protField q 0x1D 1) && reqZero q 0x1F 9 && reqZero q 0x3F 1

/-- Member m's package, and its tray (R542). -/
def protPkg (q : BitVec 512) (m : Nat) : Nat := (q.extractLsb' (8 * 0x30 + 4 * m) 4).toNat
def protTray (q : BitVec 512) (m : Nat) : Nat := protField q (0x35 + m) 1
def protMembers (q : BitVec 512) : Nat := protField q 0x1C 1 + protField q 0x1D 1
/-- Two requests agree in GID, NDATA, NPAR, LEN, MEMB and TRAY (R543). -/
def protAgree (a b : BitVec 512) : Bool :=
  protField a 0x18 4 == protField b 0x18 4 && protField a 0x1C 1 == protField b 0x1C 1 && protField a 0x1D 1 == protField b 0x1D 1 &&
    protField a 0x10 8 == protField b 0x10 8 && protField a 0x30 5 == protField b 0x30 5 && protField a 0x35 10 == protField b 0x35 10

/-- How a request of a group ends: none while members are missing (R543). -/
def protOutcome (q : BitVec 512) (peers : List ProtReq) : Option Nat :=
  let own := protField q 0x1E 1
  let ms := List.range (protMembers q)
  let others := ms.filter (· != own)
  let of := fun (m : Nat) => peers.find? fun x => x.pkg.val == protPkg q m && protField x.req 0x18 4 == protField q 0x18 4
  if ((ms.map (protTray q)).eraseDups).length ≠ ms.length then some 4
  else if others.any fun m => (of m).isNone then none
  else if others.all fun m => match of m with
    | some x => protAgree q x.req
    | none => false then some 0
  else some 4

/-- PROTECTION_REQUEST (R542, R543): a region is removed, or installed once every member of its group has asked for it alike, within a
second of this one's submission. -/
def execProtectionRequest (sp : Fin 2) (peers : List ProtReq) (s0 : State) : Host.Outcome State Fault Refusal :=
  let s := s0.onMbox sp fun m => { m with busy := true }
  let q := s.sp.mbox[sp].req
  let v := (s.part (protField q 3 1)).vdev.toNat
  let reg := protField q 2 1
  let other := fun (r : Region) => !(r.v == v && protField r.req 2 1 == reg)
  let waits := s.sp.prot.filter fun w => w.sp != sp
  if !protValid q || (s.vd v).snapp == 0 then .next ({ s with sp := { s.sp with prot := waits } }.finishRequest sp q 2 0)
  else if protField q 1 1 = 0 then
    .next ({ s with sp := { s.sp with regions := s.sp.regions.filter other, prot := waits } }.finishRequest sp q 0 0)
  else if (s.sp.prot.any fun w => w.sp == sp && decide (w.tick + 1000000 ≤ s.ticks)) = true then
    .next ({ s with sp := { s.sp with prot := waits } }.finishRequest sp q 4 0)
  else match protOutcome q peers with
    | none =>
      if s.sp.prot.any fun w => w.sp == sp then .next s
      else .next { s with sp := { s.sp with prot := { sp := sp, req := q, tick := s.ticks } :: waits } }
    | some 0 =>
      .next ({ s with sp := { s.sp with regions := { v := v, req := q } :: s.sp.regions.filter other, prot := waits } }.finishRequest sp q 0 0)
    | some k => .next ({ s with sp := { s.sp with prot := waits } }.finishRequest sp q k 0)

/-- PROTECTION_GROUP_TIMEOUT (R543): a second after their submission the requests of a group that has not formed complete. -/
def execProtectionGroupTimeout (gid : BitVec 32) (s : State) : Host.Outcome State Fault Refusal :=
  let late := fun (w : ProtWait) => w.req.extractLsb' (8 * 0x18) 32 == gid && decide (w.tick + 1000000 ≤ s.ticks)
  let due := s.sp.prot.filter late
  .next (due.foldl (fun (s : State) w => s.finishRequest w.sp w.req 4 0)
    { s with sp := { s.sp with prot := s.sp.prot.filter fun w => !late w } })

/-! ## The server mask (R550) -/

/-- Bit b of a mask image. -/
def maskBit (m : BitVec 10368) (d : Nat) : List Bool := (List.range Config.coresPerDie).map fun i => m.getLsbD (d * Config.coresPerDie + i)
/-- Every compute die keeps a core inside the mask and one outside it (R550). -/
def maskValid (m : BitVec 10368) : Bool :=
  (List.range Config.dies).all fun d => (maskBit m d).any (fun b => b) && (maskBit m d).any (fun b => !b)

/-- SERVER_MASK_REQUEST (R550): a valid image is the boot configuration's mask from the next reset on. -/
def execServerMaskRequest (sp : Fin 2) (s0 : State) : Host.Outcome State Fault Refusal :=
  let s := s0.onMbox sp fun m => { m with busy := true }
  let q := s.sp.mbox[sp].req
  let m : BitVec 10368 := ofBytes 10368 (s.physBytes (protField q 8 8) 1296)
  if protField q 0 1 = 4 ∧ reqZero q 1 3 ∧ reqZero q 0x10 24 ∧ reqZero q 0x30 16 ∧ maskValid m then
    .next ({ s with sp := { s.sp with bootMask := some m } }.finishRequest sp q 0 0)
  else .next (s.finishRequest sp q 2 0)

/-! ## The physical-function window and a virtual function's registers (R495, R496, R508, R510, R511, R524, R525) -/

/-- DMAP (R495). -/
def DieEntry.word (e : DieEntry) : Word :=
  ((BitVec.ofBool e.v).setWidth 64 <<< 31) ||| ((BitVec.ofBool e.rem).setWidth 64 <<< 30) ||| ((BitVec.ofBool e.deg).setWidth 64 <<< 29) |||
    (e.pkg.setWidth 64 <<< 16) ||| e.pdie.setWidth 64
/-- SPARST (R496). -/
def State.sparst (s : State) : Word :=
  (s.spare.sstate.setWidth 64 <<< 62) ||| (8#64 <<< 48) |||
    (List.range 9).foldl (fun (w : Word) d => if s.dieFenced d then w ||| (1#64 <<< (32 + d)) else w) 0 ||| s.spare.takeovers.setWidth 64
/-- LINKST (R508). -/
def Link.word (l : Link) : Word :=
  ((BitVec.ofBool l.up).setWidth 64 <<< 63) ||| (l.width.setWidth 64 <<< 61) ||| (l.replays.setWidth 64 <<< 32) ||| (l.resets.setWidth 64 <<< 16)
/-- MBSTAT (R525). -/
def Mailbox.stat (m : Mailbox) : Word :=
  ((BitVec.ofBool m.busy).setWidth 64 <<< 63) ||| (m.lstat.setWidth 64 <<< 32) ||| m.lseq.setWidth 64
/-- LWSTAT (R510). -/
def State.lwstat (s : State) (v : Nat) : Word :=
  (BitVec.ofNat 64 (s.launches.filter fun y => y.vdev == v && y.state == .pending).length <<< 32) ||| (BitVec.ofNat 32 (s.vd v).lastLid).setWidth 64
/-- PWERR (R511). -/
def Vd.pwerr (d : Vd) : Word := d.drops.setWidth 64 <<< 32

/-- VDCFG (R479). -/
def Vd.cfg (x : Vd) : Word :=
  ((BitVec.ofBool x.en).setWidth 64 <<< 63) ||| ((BitVec.ofBool x.fsys).setWidth 64 <<< 59) ||| ((BitVec.ofBool x.fdev).setWidth 64 <<< 58) |||
    (x.snapp.setWidth 64 <<< 32)
/-- A core's word of the core-assignment table (R473): byte i is slot i. -/
def slotsWord (ps : Slots) : BitVec 32 :=
  (ps.zipIdx).foldl (fun (w : BitVec 32) (e : Option PTag × Nat) => match e.1 with
    | some p => w ||| ((0x80#32 ||| p.setWidth 32) <<< (8 * e.2))
    | none => w) 0

/-- What the host driver reads at a multiple of 8 of the physical-function window (R524). DEDUCED (log 135). -/
def State.windowRead (s : State) (off : Nat) : Word :=
  let mbox := fun (k : Fin 2) (o : Nat) =>
    if o < 0x40 then s.sp.mbox[k].req.extractLsb' (8 * o) 64 else if o = 0x48 then s.sp.mbox[k].stat else 0
  if 0x10000 ≤ off ∧ off < 0x10480 then
    (if off % 0x80 < 0x40 then (s.dieMap.getD (off % 0x80 / 8) {}).word else 0)
  else if off = 0x10800 then s.sparst
  else if off = 0x10808 then s.fdrop.setWidth 64
  else if 0x11000 ≤ off ∧ off < 0x11000 + 8 * 50 then (s.link ((off - 0x11000) / 8)).word
  else if 0x12000 ≤ off ∧ off < 0x12000 + 1296 then
    (List.range 64).foldl (fun (w : Word) i =>
      if s.isServer (8 * (off - 0x12000) + i) then w ||| (1#64 <<< i) else w) 0
  else if 0x20000 ≤ off ∧ off < 0x20100 then mbox 0 (off - 0x20000)
  else if 0x20100 ≤ off ∧ off < 0x20200 then mbox 1 (off - 0x20100)
  else if 0x30000 ≤ off ∧ off < 0x30080 then Tab.get 0 s.ports.fpkg ((off - 0x30000) / 8)
  else if 0x30100 ≤ off ∧ off < 0x30200 then
    let e := Tab.get (0, 0) s.ports.exportTab ((off - 0x30100) / 16)
    if off % 16 = 0 then e.1 else e.2
  else if off = 0x30200 then s.ports.xdrop.setWidth 64
  else if 0x31000 ≤ off ∧ off < 0x31200 then
    let d := s.vd ((off - 0x31000) / 16)
    BitVec.ofNat 64 (if off % 16 = 0 then d.first else d.count)
  else if off = 0x32000 then s.ports.cxlhdm
  else if 0x100000 ≤ off ∧ off < 0x101000 then
    let x := s.part ((off - 0x100000) / 64)
    match off % 64 with
    | 0 => x.words.1
    | 8 => x.words.2.1
    | 16 => x.words.2.2
    | 24 => (x.tagdrop.setWidth 64 <<< 32) ||| (x.evdrop.setWidth 64 <<< 16)
    | _ => 0
  else if 0x110000 ≤ off ∧ off < 0x118000 then
    let d := s.vd ((off - 0x110000) / 0x400)
    let o := off % 0x400
    if o = 0 then d.cfg
    else if o = 8 then (d.bad.setWidth 64 <<< 32) ||| d.full.setWidth 64
    else if o = 0x10 then d.cofs
    else if o = 0x18 then d.sofs
    else if o = 0x20 then d.ways.setWidth 64
    else if 0x100 ≤ o ∧ o < 0x200 then
      let r := Tab.get {} d.rings ((o - 0x100) / 16)
      if o % 16 = 0 then ((BitVec.ofBool r.en).setWidth 64 <<< 63) ||| r.base.setWidth 64 ||| BitVec.ofNat 64 r.log
      else (BitVec.ofNat 64 r.head <<< 32) ||| BitVec.ofNat 64 r.tail
    else if 0x200 ≤ o ∧ o < 0x250 then (Tab.get 0 d.buckets ((o - 0x200) / 8)).setWidth 64
    else 0
  else if 0x200000 ≤ off ∧ off < 0x200000 + 4 * allCores then
    let n := (off - 0x200000) / 4
    (slotsWord (Tab.get [] s.assign n)).setWidth 64 ||| ((slotsWord (Tab.get [] s.assign (n + 1))).setWidth 64 <<< 32)
  else if 0x300000 ≤ off ∧ off < 0x300000 + 432 then
    (List.range 8).foldl (fun (w : Word) i =>
      let k := off - 0x300000 + i
      match (s.die (k / 48)).sliceOf (k % 48) with
      | some p => w ||| ((0x80#64 ||| p.setWidth 64) <<< (8 * i))
      | none => w) 0
  else if 0x400000 ≤ off ∧ off < 0x400000 + 0x4000 * 32 then
    let e := Tab.get 0 (s.vd ((off - 0x400000) / 0x4000)).endpoints (off % 0x4000 / 64)
    e.extractLsb' (8 * (off % 64)) 64
  else 0

/-! ## Attestation (R549, R552) -/

/-- The boot configuration's bytes: the server mask. -/
def ServiceProc.bootBytes (x : ServiceProc) : List Byte := match x.bootMask with
  | some m => toBytes 1296 m
  | none => []
/-- The measurement of step 3 of bring-up: the digest of the image and of the boot configuration (R549, R550, R552). -/
def ServiceProc.measure (x : ServiceProc) : BitVec 512 := Config.shake256 (x.image ++ x.bootBytes)

/-- The bytes of `n` registers of the window from an offset on, as they read. -/
def State.windowBytes (s : State) (off n : Nat) : List Byte := (List.range n).flatMap fun i => toBytes 8 (s.windowRead (off + 8 * i))
/-- The active layout tables, in the order of a layout request (R475): core assignment, partition entries, policy blocks, slice tags. -/
def State.layoutBytes (s : State) : List Byte :=
  s.windowBytes 0x200000 (allCores / 2) ++ s.windowBytes 0x100000 512 ++ s.windowBytes 0x110000 4096 ++ s.windowBytes 0x300000 54
/-- A virtual device's policy block, and the entries of its partitions. -/
def State.vdTables (s : State) (v : Nat) : List Byte :=
  s.windowBytes (0x110000 + 0x400 * v) 128 ++
    (s.parts.filter fun e => e.2.v && e.2.vdev.toNat == v).flatMap fun e => s.windowBytes (0x100000 + 64 * e.1) 8

/-- The report of R552: bytes 0 to 295, then their signature. DEDUCED (log 130). -/
def State.attestation (s : State) (nonce : BitVec 256) (v : Nat) : List Byte :=
  let body := toBytes 4 1#32 ++ toBytes 4 (BitVec.ofNat 32 v) ++ toBytes 32 nonce ++
    toBytes 64 s.sp.measured ++ toBytes 64 (Config.shake256 s.layoutBytes) ++
    toBytes 64 (Config.shake256 (s.vdTables v)) ++ toBytes 57 Config.deviceKey ++ List.replicate 7 0#8
  body ++ toBytes 114 (Config.deviceSign body)

/-- ATTESTATION_REQUEST (R552). -/
def execAttestationRequest (sp : Fin 2) (s0 : State) : Host.Outcome State Fault Refusal :=
  let s := s0.onMbox sp fun m => { m with busy := true }
  let q := s.sp.mbox[sp].req
  if protField q 0 1 = 3 ∧ reqZero q 1 3 ∧ protField q 0x30 1 < 32 ∧ reqZero q 0x31 15 then
    let s := s.setPhysBytes (reqResa q + 16) (s.attestation (q.extractLsb' 64 256) (protField q 0x30 1))
    .next (s.finishRequest sp q 0 410)
  else .next (s.finishRequest sp q 2 0)

/-- A 64-bit part of a wider register is replaced. -/
def putWord {w : Nat} (x : BitVec w) (off : Nat) (y : Word) : BitVec w :=
  (x &&& ~~~((BitVec.allOnes 64).setWidth w <<< (8 * off))) ||| (y.setWidth w <<< (8 * off))

/-- What a write of the host driver to a multiple of 8 of the window does (R524, R525); other offsets ignore writes. -/
def State.windowWrite (s : State) (off : Nat) (x : Word) : State :=
  let mbox := fun (k : Fin 2) (o : Nat) =>
    if o < 0x40 then (if s.sp.mbox[k].busy then s else s.onMbox k fun m => { m with req := putWord m.req o x })
    else if o = 0x40 ∧ x.getLsbD 0 then s.submitMbox k else s
  if 0x20000 ≤ off ∧ off < 0x20100 then mbox 0 (off - 0x20000)
  else if 0x20100 ≤ off ∧ off < 0x20200 then mbox 1 (off - 0x20100)
  else if 0x30000 ≤ off ∧ off < 0x30080 then
    { s with ports := { s.ports with fpkg := Tab.set s.ports.fpkg ((off - 0x30000) / 8) (x &&& 0x80000000000003FF#64) } }
  else if 0x30100 ≤ off ∧ off < 0x30200 then
    let i := (off - 0x30100) / 16
    let e := Tab.get (0, 0) s.ports.exportTab i
    { s with ports := { s.ports with exportTab := Tab.set s.ports.exportTab i (if off % 16 = 0 then (x, e.2) else (e.1, x)) } }
  else if 0x31000 ≤ off ∧ off < 0x31200 then
    s.onVd ((off - 0x31000) / 16) fun d => if off % 16 = 0 then { d with first := x.toNat } else { d with count := x.toNat }
  else if off = 0x32000 then { s with ports := { s.ports with cxlhdm := x &&& 0x8000FF0000000000#64 ||| x &&& 0xFFC0000000#64 } }
  else if 0x400000 ≤ off ∧ off < 0x400000 + 0x4000 * 32 then
    s.onVd ((off - 0x400000) / 0x4000) fun d =>
      let i := off % 0x4000 / 64
      { d with endpoints := Tab.set d.endpoints i (putWord (Tab.get 0 d.endpoints i) (off % 64) x) }
  else s

/-- The registers of a virtual function's BAR0 (R510, R511): reads of the launch window return zero. -/
def State.functionRead (s : State) (v off : Nat) : Word :=
  if off = 0x1000 then s.lwstat v else if off = 0x1008 then (s.vd v).pwctl else if off = 0x1010 then (s.vd v).pwerr else 0

end Sys2Proof.Machine
end

