-- ==== Sys2Proof/Machine/Repair.lean ====
section
/-! DEFINITION. Recovery (R527, R536 to R546): HBM scrubbing and row repair, suspicion scores with drains and tests, protected
regions with their epochs and rebuilds, and the loss of a package. -/
namespace Sys2Proof.Machine
open Sys2Proof

/-! ## HBM (R527, R539 to R541) -/

/-- The row of an event. -/
def rowOf (e : RowEvent) : Repair := { stack := e.stack, chan := e.chan, bank := e.bank, row := e.row }
/-- Two entries name one row. -/
def Repair.same (a b : Repair) : Bool := a.stack == b.stack && a.chan == b.chan && a.bank == b.bank && a.row == b.row
/-- Two entries lie in one bank. -/
def Repair.sameBank (a b : Repair) : Bool := a.stack == b.stack && a.chan == b.chan && a.bank == b.bank
/-- An entry as MRAM holds it (R541). -/
def Repair.word (a : Repair) : Word :=
  (BitVec.ofNat 64 a.stack.val <<< 60) ||| (a.chan.setWidth 64 <<< 56) ||| (a.bank.setWidth 64 <<< 52) ||| (a.row.setWidth 64 <<< 32) |||
    ((BitVec.ofBool a.soft).setWidth 64 <<< 1) ||| 1#64

/-- The supervisor is asked to migrate the pages of a row, at the lower-numbered logical die of the stack's two (R489, R540).
DEDUCED (log 133). -/
def State.askMigration (s : State) (a : Repair) : State :=
  let d := stackDies.getD a.stack.val (0, 0)
  let die := match s.logicalDie d.1, s.logicalDie d.2 with
    | some x, some y => if x ≤ y then d.1 else d.2
    | none, some _ => d.2
    | _, none => d.1
  s.ringDoor die 1 a.word

/-- A bank is retired (R539): the pages of each of its rows are to be migrated (R540), but those whose migration has been asked for. -/
def State.retireBank (s : State) (a : Repair) : State :=
  let rows := (List.range (2 ^ 20)).map fun r => { a with row := BitVec.ofNat 20 r, soft := false, asked := false }
  (rows.filter fun x => !s.sp.repairs.any fun y => y.same x && y.asked).foldl State.askMigration
    { s with sp := { s.sp with retired := (a.stack, a.chan, a.bank) :: s.sp.retired } }

/-- A row enters the pending-repair list (R539, R541): a list that is full retires its page, and a bank with 16 rows in the list is
retired. -/
def State.listRow (s : State) (a : Repair) : State :=
  let xs := s.sp.repairs
  if xs.any a.same then s
  else if 1024 ≤ (xs.filter fun x => x.stack == a.stack).length then s.askMigration a
  else
    let ys := xs ++ [a]
    let full := decide (16 ≤ (ys.filter a.sameBank).length) && !s.sp.retired.contains (a.stack, a.chan, a.bank)
    let s := { s with sp := { s.sp with repairs := ys } }
    let s := if full then s.retireBank a else s
    s.owe (.hbmRowRepair a.stack)

/-- A corrected read (R537, R539): the stack is suspected; a second one of the row within 2^20 ticks lists the row; the third row of a
data pin moves the pin to its channel's spare one, where no other has taken that. -/
def State.corrected (s : State) (e : RowEvent) : State :=
  let a := rowOf e
  let again := s.sp.hits.any fun h => h.1.same a && decide (s.ticks < h.2 + 2 ^ 20)
  let s := s.suspect (.stack e.stack) 1
  let s := { s with sp := { s.sp with hits := (a, s.ticks) :: s.sp.hits.filter fun h => !h.1.same a } }
  let s := match e.pin with
    | none => s
    | some k =>
      let pins := ((e.stack, e.chan, k, e.bank, e.row) :: s.sp.pins).eraseDups
      let rows := (pins.filter fun x => x.1 == e.stack && x.2.1 == e.chan && x.2.2.1 == k).length
      let free := !s.sp.spared.any fun x => x.1 == e.stack && x.2.1 == e.chan
      { s with sp := { s.sp with pins := pins, spared := if 3 ≤ rows && free then (e.stack, e.chan, k) :: s.sp.spared else s.sp.spared } }
  if again then s.listRow a else s

/-- The words of the 64-byte burst at an address. -/
def burstWords (addr : Nat) : List Nat := (List.range 8).map (addr / 64 * 8 + ·)

/-- What a scrub found in one row (R527): a burst that cannot be corrected reads as uncorrectable from then on. -/
def State.scrubRow (s : State) (e : RowEvent) : State :=
  if e.uncorrectable then { s with hbmBad := (burstWords e.addr ++ s.hbmBad).eraseDups }.listRow (rowOf e) else s.corrected e

/-- HBM_SCRUB (R527): corrected data is written back. -/
def execHbmScrub (found : List RowEvent) (s : State) : Host.Outcome State Fault Refusal := .next (found.foldl State.scrubRow s)

/-- One listed row (R540): it is remapped to a free soft-repair row of its bank, or its migration is asked for. -/
def State.repairRow (s : State) (a : Repair) : State :=
  let put := fun (f : Repair → Repair) => { s with sp := { s.sp with repairs := s.sp.repairs.map fun x => if x.same a then f x else x } }
  if (s.sp.repairs.filter fun x => x.sameBank a && x.soft).length < 8 then put fun x => { x with soft := true }
  else (put fun x => { x with asked := true }).askMigration a

/-- HBM_ROW_REPAIR (R540): each row of a stack that the list holds and that is not repaired yet. -/
def execHbmRowRepair (k : Fin 16) (s : State) : Host.Outcome State Fault Refusal :=
  .next ((s.sp.repairs.filter fun x => x.stack == k && !x.soft && !x.asked).foldl State.repairRow s)

/-! ## Suspicion, drains and tests (R537, R538) -/

/-- SCORE_DECAY (R537): every score halves, and the MRAMs keep the 8,192 highest. -/
def execScoreDecay (s : State) : Host.Outcome State Fault Refusal :=
  let t := (s.scores.map fun e => (e.1, e.2 / 2)).filter fun e => e.2 != 0
  .next { s with scores := t, sp := { s.sp with kept := (t.mergeSort fun a b => decide (b.2 ≤ a.2)).take 8192 } }

/-- A layout commit is in progress (R538). -/
def State.committing (s : State) : Bool :=
  match s.sp.layout with
  | some x => x.step != LayoutStep.saving
  | none => false

/-- UNIT_DRAIN (R538): the unit takes no new work; a stack is not drained, and a layout commit comes first. -/
def execUnitDrain (u : SuspUnit) (s : State) : Host.Outcome State Fault Refusal :=
  let stack := match u with
    | .stack _ => true
    | _ => false
  .next (if stack || s.drained u || s.committing then s else { s with drains := s.drains ++ [u] })

/-- UNIT_TEST_DONE (R538): a unit that passes returns to service with a score of 0; one that fails is fenced under the fault table, a stack
or a link once it is voted for (R548): the link stays drained till then. -/
def execUnitTestDone (u : SuspUnit) (pass : Bool) (s : State) : Host.Outcome State Fault Refusal :=
  let s0 := s
  let s := { s with drains := s.drains.filter (· != u) }
  if pass then
    let s := { s with scores := s.scores.filter fun e => e.1 != u }
    .next (match u with
      | .core n | .bank n _ => s.owe (.taskPop n)
      | _ => s)
  else .next (match u with
    | .core n => s.owe (.coreFailure n)
    | .array cl => s.owe (.clusterFailure cl)
    | .l2Slice n => s.owe (.l2SliceFence ⟨n / 48 % 9, Nat.mod_lt _ (by decide)⟩ ⟨n % 48, Nat.mod_lt _ (by decide)⟩)
    | .bank n b => s.failBank n b
    | .stack _ | .link _ => s0)

/-! ## Charges to a whole partition (R536, R546) -/

/-- The outermost ancestor of a domain (R536): the one whose PARENT is 0; `fuel` bounds the chain. -/
def State.rootOf (s : State) (p : PTag) (n : Nat) : Nat → Word → Word
  | 0, d => d
  | fuel + 1, d => match s.domain? p n d with
    | none => d
    | some bs => if recGet bs recParent 8 = 0 then d else State.rootOf s p n fuel (recGet bs recParent 8)

/-- The innermost domain of a core's task, with its launch and WID. -/
def Core.openDomain (c : Core) (n : Nat) : Option (Nat × Word × Option (Nat × Nat) × Word) :=
  c.task.bind fun t =>
    let r := (c.doms.getLast?).getD t.inherited
    if r = 0 then none else some (n, r, t.launch, t.wid)
/-- The open outermost domains of a partition's tasks and queue entries, those of contexts that are out among them, each with the core that
acts for it, its launch and WID. -/
def State.openRoots (s : State) (p : PTag) : List (Nat × Word × Option (Nat × Nat) × Word) :=
  let n := (s.actor p).getD 0
  let live := s.cores.filterMap fun e => if e.2.ctag == some p then e.2.openDomain e.1 else none
  let out := (s.outCtxs.filter fun x => x.2.ptag == p).flatMap fun x => x.2.cores.filterMap fun e => e.2.2.openDomain n
  let queued := (s.queues.filter fun q => match q.1 with
    | .cluster k _ | .die k _ => k == p.toNat).flatMap fun q =>
      (q.2.filter fun e => e.dom != 0).map fun e => (n, e.dom, e.launch, e.cont.wid)
  (live ++ out ++ queued).map fun x => (x.1, s.rootOf p x.1 chainDepth x.2.1, x.2.2.1, x.2.2.2)

/-- Each of them whose launch is among those hit is charged once, and the charge posted (R529), with a KIND that no rule gives (log 117). -/
def State.chargePart (s : State) (p : PTag) (hit : Option (Nat × Nat) → Bool) : State :=
  let roots := (s.openRoots p).filter fun x => hit x.2.2.1
  let once := (roots.map fun x => x.2.1).eraseDups
  once.foldl (fun (s : State) r =>
    match roots.find? fun x => x.2.1 == r with
    | some x =>
      let s := { s with draws := s.draws + 1 }.postKind ((Config.freeWord s.draws).setWidth 6) (dieOf x.1) p x.1
      s.chargeDomain p x.1 x.2.2.1 x.2.2.2 chainDepth r
    | none => s) s

/-- PACKAGE_LOSS (R536): its launch package index is given to a replacement, and the launches that had a core on it are charged. -/
def execPackageLoss (pkg : Fin 16) (newId : BitVec 10) (s : State) : Host.Outcome State Fault Refusal :=
  let hit := (s.parts.filter fun e => e.2.v && (s.newXlt e.2).any fun k => k.1 == pkg.val).map (·.1)
  let s := { s with ports := { s.ports with fpkg := Tab.set s.ports.fpkg pkg.val ((1#64 <<< 63) ||| newId.setWidth 64) } }
  .next (hit.foldl (fun (s : State) p => s.chargePart (BitVec.ofNat 6 p) Option.isSome) s)

/-! ## The field of R544 -/

/-- Multiplication in GF(2^16) modulo x^16 + x^12 + x^3 + x + 1. -/
def gfMul (a b : BitVec 16) : BitVec 16 :=
  ((List.range 16).foldl (fun (acc : BitVec 16 × BitVec 16) i =>
    (if b.getLsbD i then acc.1 ^^^ acc.2 else acc.1, if acc.2.getLsbD 15 then (acc.2 <<< 1) ^^^ 0x100B#16 else acc.2 <<< 1)) (0, a)).1
/-- Powers of an element. -/
def gfPow (a : BitVec 16) : Nat → BitVec 16
  | 0 => 1
  | n + 1 => gfMul a (gfPow a n)
/-- The inverse: a to the power 2^16 - 2, by 15 squarings. -/
def gfInv (a : BitVec 16) : BitVec 16 :=
  ((List.range 15).foldl (fun (acc : BitVec 16 × BitVec 16) _ =>
    let q := gfMul acc.2 acc.2
    (gfMul acc.1 q, q)) (1, a)).1
/-- The power of alpha of data member i. -/
def gfAlpha (i : Nat) : BitVec 16 := gfPow 2 i

/-- P_0 and P_1 of data symbols (R544). -/
def parity0 (d : List (BitVec 16)) : BitVec 16 := d.foldl (· ^^^ ·) 0
def parity1 (d : List (BitVec 16)) : BitVec 16 := (d.zipIdx).foldl (fun (x : BitVec 16) (e : BitVec 16 × Nat) => x ^^^ gfMul (gfAlpha e.2) e.1) 0

/-- The data symbols of a group from those of its surviving members (R546); the members not known count as 0. -/
def solveData (nd : Nat) (known : Nat → Option (BitVec 16)) : List (BitVec 16) :=
  let d := (List.range nd).map fun i => (known i).getD 0
  let lost := (List.range nd).filter fun i => (known i).isNone
  let s0 := (known nd).getD 0 ^^^ parity0 d
  let s1 := (known (nd + 1)).getD 0 ^^^ parity1 d
  match lost with
  | [i] => d.set i (if (known nd).isSome then s0 else gfMul s1 (gfInv (gfAlpha i)))
  | [i, j] =>
    let y := gfMul (s1 ^^^ gfMul (gfAlpha i) s0) (gfInv (gfAlpha i ^^^ gfAlpha j))
    (d.set i (s0 ^^^ y)).set j y
  | _ => d
/-- The symbol of member m from the data symbols. -/
def memberSymbol (nd : Nat) (d : List (BitVec 16)) (m : Nat) : BitVec 16 :=
  if m < nd then d.getD m 0 else if m = nd then parity0 d else parity1 d

/-! ## Epochs and rebuilds (R544 to R546) -/

/-- Symbol i of a member's bytes. -/
def symbolAt (bs : List Byte) (i : Nat) : BitVec 16 := ofBytes 16 ((bs.drop (2 * i)).take 2)
/-- What members give at one offset determines every member's symbols there: as many parity members give theirs as data members do not. -/
def determined (nd : Nat) (xs : List MemberSymbols) : Bool :=
  decide (((List.range nd).filter fun i => !xs.any fun x => x.member == i).length ≤
    (([nd, nd + 1]).filter fun i => xs.any fun x => x.member == i).length)
/-- The bytes of member m, from those that members give at one offset. Where they do not determine them, the symbols are not known here, as the
others' unchanged pages are not sent (R544): free values from a draw on. DEDUCED (log 134). -/
def memberBytes (nd m draw : Nat) (xs : List MemberSymbols) : List Byte :=
  let n := ((xs.head?.map fun x => x.data.length).getD 0) / 2
  (List.range n).flatMap fun i =>
    if determined nd xs then
      toBytes 2 (memberSymbol nd (solveData nd fun k => (xs.find? fun x => x.member == k).map fun x => symbolAt x.data i) m)
    else toBytes 2 (Config.freeWord (draw + i))
/-- The offsets that members give symbols of. -/
def offsetsOf (xs : List MemberSymbols) : List Nat := (xs.map (·.off)).eraseDups

/-- Where a member keeps symbols of an epoch: a parity member in half e mod 2 (R544). -/
def Region.base (r : Region) (e : Nat) : Nat := r.vbase + (if r.rank < r.ndata then 0 else e % 2 * r.len)

/-- Writes a member's bytes for an epoch into its mapping, through the partition's tables, or the stop of one write. -/
def State.writeMember (s : State) (r : Region) (e : Nat) (xs : List MemberSymbols) : Except AStop State :=
  match s.partAgent r.ptag with
  | none => .ok s
  | some g0 =>
    (offsetsOf xs).foldl (fun (acc : Except AStop State) off =>
      match acc with
      | .error x => .error x
      | .ok s =>
        let bs := memberBytes r.ndata r.rank s.draws (xs.filter fun x => x.off == off)
        match { s with draws := s.draws + bs.length }.agentStore { g0 with time := s.portTime } (BitVec.ofNat 64 (r.base e + off)) bs with
        | .error x => .error x
        | .ok q => .ok q.1) (.ok s)

/-- A parity member's half starts as the half of the epoch before it: members send only the pages written since (R544).
DEDUCED (log 134). -/
def State.copyHalf (s : State) (r : Region) (e : Nat) : Except AStop State :=
  match s.partAgent r.ptag with
  | none => .ok s
  | some g0 =>
    let g := { g0 with time := s.portTime }
    match s.agentBytes g (BitVec.ofNat 64 (r.base (e + 1))) r.len with
    | .error x => .error x
    | .ok (s, g, bs) => match s.agentStore g (BitVec.ofNat 64 (r.base e)) bs with
      | .error x => .error x
      | .ok q => .ok q.1

def State.onRegions (s : State) (gid : BitVec 32) (f : Region → Region) : State :=
  { s with sp := { s.sp with regions := s.sp.regions.map fun r => if r.gid = gid then f r else r } }

/-- What a stopped write of the erasure engine does. -/
def State.regionStop (s : State) (r : Region) (again : Instr) (e : AStop) : Host.Outcome State Fault Refusal :=
  match s.partAgent r.ptag with
  | some g => s.portStop g r.ptag again e id
  | none => .next s

/-- EPOCH_START (R544, R545): the region is snapshotted for the next epoch; a parity member writes its half from the data members'
symbols. While an epoch has not committed the next one waits, and what the data members sent for it. -/
def execEpochStart (gid : BitVec 32) (data : List MemberSymbols) (s : State) : Host.Outcome State Fault Refusal :=
  match s.sp.regions.find? fun r => r.gid == gid with
  | none => .next s
  | some r =>
    let e := r.epoch + 1
    if r.started.isSome then .next (s.onRegions gid fun r => { r with again := r.again ++ [data] })
    else
      let s1 := s.onRegions gid fun r => { r with started := some { hbm := s.hbm, bad := s.hbmBad, epoch := e } }
      if r.rank < r.ndata then .next (if r.rank = 0 then s1.report (.epoch gid e) else s1)
      else match s1.copyHalf r e with
        | .error x => s.regionStop r (.epochStart gid data) x
        | .ok s2 => match s2.writeMember r e data with
          | .error x => s.regionStop r (.epochStart gid data) x
          | .ok s3 => .next s3

/-- EPOCH_COMMIT (R545): every parity member has acknowledged its half; the snapshot is complete. -/
def execEpochCommit (gid : BitVec 32) (s : State) : Host.Outcome State Fault Refusal :=
  match s.sp.regions.find? fun r => r.gid == gid with
  | none => .next s
  | some r => match r.started with
    | none => .next s
    | some x =>
      let s := s.onRegions gid fun r => { r with epoch := x.epoch, snap := some x, started := none, again := r.again.drop 1 }
      let s := s.onVd r.v fun d => { d with snap := some x }
      .next (match r.again.head? with
        | some data => s.owe (.epochStart gid data)
        | none => s)

/-- The words of memory behind a region. -/
def State.regionWords (s : State) (r : Region) : List Nat :=
  (List.range (r.span / 65536)).flatMap fun i =>
    match s.regionPage r (65536 * i) with
    | some pa => (List.range 8192).map (pa / 8 + ·)
    | none => []

/-- GROUP_REBUILD (R546): a lost member's region is written from the symbols of the surviving ones, and its domains are charged; past
NPAR losses its words read as uncorrectable, those of its snapshots, too, so that restored domains escalate (R434); a surviving member gives its snapshot. -/
def execGroupRebuild (gid : BitVec 32) (lost : List Nat) (symbols : List MemberSymbols) (s : State) :
    Host.Outcome State Fault Refusal :=
  match s.sp.regions.find? fun r => r.gid == gid with
  | none => .next s
  | some r =>
    if !lost.contains r.rank then .next (s.report (.rebuild gid r.epoch))
    else if r.npar < lost.eraseDups.length then
      let worse := fun (x : Snap) => { x with bad := ({ s with hbm := x.hbm, fenced := [] }.regionWords r ++ x.bad).eraseDups }
      let s := { s with hbmBad := (s.regionWords r ++ s.hbmBad).eraseDups }
      .next ((s.onRegions gid fun y => { y with snap := y.snap.map worse }).onVd r.v fun d => { d with snap := d.snap.map worse })
    else match s.writeMember r r.epoch (symbols.filter fun x => !lost.contains x.member) with
      | .error x => (match x with
        | .park .. => s.ringPart r.ptag 2 r.arg
        | _ => s).regionStop r (.groupRebuild gid lost symbols) x
      | .ok s1 => .next (s1.chargePart r.ptag fun _ => true)

end Sys2Proof.Machine
end

