-- ==== Sys2Proof/Machine/Power.lean ====
section
/-! DEFINITION. Bring-up, reset, supply and temperature (R496, R541, R549 to R551, R553). -/
namespace Sys2Proof.Machine
open Sys2Proof

/-! ## Bring-up (R496, R549, R550) -/

/-- The compute dies that pass the test of step 4, in ascending order. -/
def passingDies (p : BitVec 9) : List Nat := (List.range 9).filter fun d => p.getLsbD d

/-- The die maps that boot builds (R496): the eight lowest passing dies; a number left over names no die. -/
def bootMap (p : BitVec 9) : List DieEntry :=
  let ds := passingDies p
  (List.range 8).map fun l => match ds[l]? with
    | some d => { v := true, pdie := BitVec.ofNat 4 d }
    | none => { v := true, deg := true, pdie := BitVec.ofNat 4 (ds.headD 0) }

/-- The links that train: those whose compute dies all pass (R508, R549). -/
def bootLinks (p : BitVec 9) : List (Nat × Link) :=
  let ends := fun (i : Nat) => if i < 18 then linkDies.getD i [] else
    let d := stackDies.getD ((i - 18) / 2) (0, 0)
    [if i % 2 = 0 then d.1 else d.2]
  ((List.range 50).filter fun i => (ends i).all fun d => p.getLsbD d).map fun i => (i, { up := true })

/-- The server mask of the boot configuration, where it is valid; else each cluster has the default of R17 (R550). -/
def bootMasks (m : Option (BitVec 10368)) : List (Nat × BitVec 24) :=
  match m with
  | some m => if maskValid m then (List.range 432).map fun cl => (cl, m.extractLsb' (24 * cl) 24) else []
  | none => []

/-- The OS server cores of the passing dies, released (R450, R549). -/
def State.bootCores (s : State) (p : BitVec 9) : List (Nat × Core) :=
  ((passingDies p).flatMap fun d => (List.range 48).flatMap fun c => (List.range 24).map fun i => d * 1152 + c * 24 + i).filterMap fun n =>
    if s.isServer n then some (n, { s.initCore n with mode := .running }) else none

/-- An image is verified (R551): its last 114 bytes sign all before them. -/
def imageGood (x : List Byte) : Bool :=
  decide (114 ≤ x.length) && Config.vendorSigned (x.take (x.length - 114)) (ofBytes 912 (x.drop (x.length - 114)))
/-- The image that the package starts with (R551): that of its flash, or the first verified one of those that the partner and then the peers
supply, in the order in which they do. -/
def ServiceProc.startImage (x : ServiceProc) (supply : List (List Byte)) : Option (List Byte) := (x.image :: supply).find? imageGood

/-- BRING_UP (R549): without a verified image, or with no die that passes, the package stays held; a re-supplied image is written back to
flash. Image and boot configuration are measured (R552). A pending repair is made hard, or, in a bank without a fuse left, stays as it was: a
soft one soft again (R541), one that is neither soft nor migrated to be repaired (R540); the kept scores count on (R537). DESIGN CHOICE
(log 3). DEDUCED (log 137). -/
def execBringUp (passing : BitVec 9) (supply : List (List (BitVec 8))) (fuseless : List (Fin 16 × BitVec 4 × BitVec 4)) (s : State) :
    Host.Outcome State Fault Refusal :=
  if s.run ≠ .held ∨ passing = 0 then .next s
  else match s.sp.startImage supply with
    | none => .next s
    | some x =>
      let left := s.sp.repairs.filter fun x => fuseless.contains (x.stack, x.chan, x.bank)
      let sp : ServiceProc := { s.sp with repairs := left, image := x }
      let s := { s with dieMap := bootMap passing, links := bootLinks passing, serverMask := bootMasks s.sp.bootMask
                        spare := { sstate := if passing = 0x1FF then 0 else 3 }
                        sp := { sp with measured := sp.measure }
                        scores := s.sp.kept, clk := 0, ticks := 0, run := .running }
      let todo := ((left.filter fun (x : Repair) => !x.soft && !x.asked).map (·.stack)).eraseDups
      .next (todo.foldl (fun (s : State) k => s.owe (.hbmRowRepair k)) ({ s with cores := s.bootCores passing }.report .enumerated))

/-- PACKAGE_RESET (R454, R496, R501, R524, R537, R541, R550, R570): everything is as reset leaves it, but for what flash and the MRAMs
keep; a lent spare is back, and borrowed ones go back to their packages. The world outside and the draws of free values go on. -/
def execPackageReset (s : State) : Host.Outcome State Fault Refusal :=
  let back := (s.dieMap.filter fun (e : DieEntry) => e.v && e.rem).map fun e => Report.spareReturned e.pkg.toNat
  .next { State.reset with
    agenda := s.agenda, draws := s.draws, reports := s.reports ++ back, nextId := s.nextId, flash := s.flash
    sp := { bootMask := s.sp.bootMask, image := s.sp.image, repairs := s.sp.repairs, kept := s.sp.kept } }

/-! ## Supply and temperature (R553) -/

def State.onCluster (s : State) (cl : Nat) (f : Cluster → Cluster) : State := s.setCluster cl (f (s.cluster cl))

/-- VCORE_DROOP: below 330 mV the cluster stretches its clock; a stretched clk still counts as one. DEDUCED (log 129). -/
def execVcoreDroop (cl mV : Nat) (s : State) : Host.Outcome State Fault Refusal :=
  .next (if mV < 330 then s.onCluster cl fun c => { c with stretched := true } else s)

/-- VCORE_RECOVERY: above 330 mV it stops. -/
def execVcoreRecovery (cl mV : Nat) (s : State) : Host.Outcome State Fault Refusal :=
  .next (if 330 < mV then s.onCluster cl fun c => { c with stretched := false } else s)

/-- THERMAL_THROTTLE: at 100 °C the cluster issues at half rate. -/
def execThermalThrottle (cl : Nat) (celsius : Int) (s : State) : Host.Outcome State Fault Refusal :=
  .next (if 100 ≤ celsius then s.onCluster cl fun c => { c with throttled := true } else s)

/-- THROTTLE_RELEASE: below 95 °C it issues at full rate. -/
def execThrottleRelease (cl : Nat) (celsius : Int) (s : State) : Host.Outcome State Fault Refusal :=
  .next (if celsius < 95 then s.onCluster cl fun c => { c with throttled := false } else s)

/-- POWER_CAP: above the TDP of 3.8 kW over a window, stalls over all clusters hold the power. -/
def execPowerCap (milliwatt : Nat) (s : State) : Host.Outcome State Fault Refusal :=
  .next { s with capped := decide (3800000 < milliwatt) }

/-- THERMAL_SHUTDOWN: at 115 °C the package shuts down. -/
def execThermalShutdown (celsius : Int) (s : State) : Host.Outcome State Fault Refusal :=
  .next (if 115 ≤ celsius then { s with run := .shutDown } else s)

end Sys2Proof.Machine
end

