-- ==== Sys2Proof/Machine/Dispatch.lean ====
section
/-! DEFINITION. One arm per constructor of Instr: each calls that instruction's or event's meaning. -/
namespace Sys2Proof.Machine

def exec (i : Instr) (s : State) : Host.Outcome State Fault Refusal :=
  match i with
  | .dividerResult core => Sys2Proof.Machine.execDividerResult core s
  | .evcWrite cl e x => Sys2Proof.Machine.execEvcWrite cl e x s
  | .bcfgWrite cl b x => Sys2Proof.Machine.execBcfgWrite cl b x s
  | .globalAccessComplete core => Sys2Proof.Machine.execGlobalAccessComplete core s
  | .pageWalk die vsid granule => Sys2Proof.Machine.execPageWalk die vsid granule s
  | .l1dEviction cl line swm => Sys2Proof.Machine.execL1dEviction cl line swm s
  | .eventMessage m => Sys2Proof.Machine.execEventMessage m s
  | .barrierArrivalMessage m => Sys2Proof.Machine.execBarrierArrivalMessage m s
  | .barrierReleaseMessage m => Sys2Proof.Machine.execBarrierReleaseMessage m s
  | .channelClaim m => Sys2Proof.Machine.execChannelClaim m s
  | .channelClaimAnswer m granted => Sys2Proof.Machine.execChannelClaimAnswer m granted s
  | .channelMessageLand core slot m => Sys2Proof.Machine.execChannelMessageLand core slot m s
  | .channelGrant core ch => Sys2Proof.Machine.execChannelGrant core ch s
  | .timedMessageLand core land m => Sys2Proof.Machine.execTimedMessageLand core land m s
  | .streamChunkArrive core port => Sys2Proof.Machine.execStreamChunkArrive core port s
  | .arrayOpStart cl sh => Sys2Proof.Machine.execArrayOpStart cl sh s
  | .arrayRowWrite cl sh parityBad => Sys2Proof.Machine.execArrayRowWrite cl sh parityBad s
  | .arrayOpFinish cl sh => Sys2Proof.Machine.execArrayOpFinish cl sh s
  | .scaleWriteRelease cl sh => Sys2Proof.Machine.execScaleWriteRelease cl sh s
  | .commandComplete core cls seq => Sys2Proof.Machine.execCommandComplete core cls seq s
  | .commandFail core cls seq => Sys2Proof.Machine.execCommandFail core cls seq s
  | .collectiveGeneration lid vdev gid => Sys2Proof.Machine.execCollectiveGeneration lid vdev gid s
  | .spsumPairAdd n => Sys2Proof.Machine.execSpsumPairAdd n s
  | .storageCompletion core seq mediaError => Sys2Proof.Machine.execStorageCompletion core seq mediaError s
  | .networkReceive v ep immd data => Sys2Proof.Machine.execNetworkReceive v ep immd data s
  | .xbarPulseArrive cl => Sys2Proof.Machine.execXbarPulseArrive cl s
  | .yieldRequest core => Sys2Proof.Machine.execYieldRequest core s
  | .graceExpiry cl => Sys2Proof.Machine.execGraceExpiry cl s
  | .launchWindowWrite v req off data => Sys2Proof.Machine.execLaunchWindowWrite v req off data s
  | .launchActivate v lid => Sys2Proof.Machine.execLaunchActivate v lid s
  | .launchComplete v lid => Sys2Proof.Machine.execLaunchComplete v lid s
  | .taskPop core => Sys2Proof.Machine.execTaskPop core s
  | .idleSearchWiden core => Sys2Proof.Machine.execIdleSearchWiden core s
  | .queueAging => Sys2Proof.Machine.execQueueAging s
  | .domainCharge => Sys2Proof.Machine.execDomainCharge s
  | .auditReplay sig2 sig3 unit2 unit3 => Sys2Proof.Machine.execAuditReplay sig2 sig3 unit2 unit3 s
  | .saddleTick => Sys2Proof.Machine.execSaddleTick s
  | .packetEject id => Sys2Proof.Machine.execPacketEject id s
  | .colChannelEscape id => Sys2Proof.Machine.execColChannelEscape id s
  | .dataFrameReceive link dir f => Sys2Proof.Machine.execDataFrameReceive link dir f s
  | .replayRequest link dir acke => Sys2Proof.Machine.execReplayRequest link dir acke s
  | .probeTimeout link dir => Sys2Proof.Machine.execProbeTimeout link dir s
  | .probe link dir => Sys2Proof.Machine.execProbe link dir s
  | .digest link dir dseq dig => Sys2Proof.Machine.execDigest link dir dseq dig s
  | .resetRequest link dir acke => Sys2Proof.Machine.execResetRequest link dir acke s
  | .linkRetrain link lanes => Sys2Proof.Machine.execLinkRetrain link lanes s
  | .linkReroute => Sys2Proof.Machine.execLinkReroute s
  | .diagnosisVote u vote0 vote1 peer => Sys2Proof.Machine.execDiagnosisVote u vote0 vote1 peer s
  | .dieTakeover pdie remote => Sys2Proof.Machine.execDieTakeover pdie remote s
  | .dieMapFlip => Sys2Proof.Machine.execDieMapFlip s
  | .peerWindowAccess v req off a => Sys2Proof.Machine.execPeerWindowAccess v req off a s
  | .postedWriteArrive v req => Sys2Proof.Machine.execPostedWriteArrive v req s
  | .cxlMemAccess off a => Sys2Proof.Machine.execCxlMemAccess off a s
  | .fabricRecall line invalidate => Sys2Proof.Machine.execFabricRecall line invalidate s
  | .remoteAccessArrive port pa a => Sys2Proof.Machine.execRemoteAccessArrive port pa a s
  | .layoutRequest sp => Sys2Proof.Machine.execLayoutRequest sp s
  | .layoutFlip => Sys2Proof.Machine.execLayoutFlip s
  | .protectionRequest sp peers => Sys2Proof.Machine.execProtectionRequest sp peers s
  | .attestationRequest sp => Sys2Proof.Machine.execAttestationRequest sp s
  | .serverMaskRequest sp => Sys2Proof.Machine.execServerMaskRequest sp s
  | .spWatchdogReset sp => Sys2Proof.Machine.execSpWatchdogReset sp s
  | .spLoss sp => Sys2Proof.Machine.execSpLoss sp s
  | .vdSnapshot v => Sys2Proof.Machine.execVdSnapshot v s
  | .epochStart gid data => Sys2Proof.Machine.execEpochStart gid data s
  | .epochCommit gid => Sys2Proof.Machine.execEpochCommit gid s
  | .groupRebuild gid lost symbols => Sys2Proof.Machine.execGroupRebuild gid lost symbols s
  | .packageLoss pkg newId => Sys2Proof.Machine.execPackageLoss pkg newId s
  | .coreHangTimeout core => Sys2Proof.Machine.execCoreHangTimeout core s
  | .coreFailure core => Sys2Proof.Machine.execCoreFailure core s
  | .clusterFailure cl => Sys2Proof.Machine.execClusterFailure cl s
  | .l2SliceFence die slice => Sys2Proof.Machine.execL2SliceFence die slice s
  | .stackLoss k => Sys2Proof.Machine.execStackLoss k s
  | .ioDieLoss n => Sys2Proof.Machine.execIoDieLoss n s
  | .hbmScrub found => Sys2Proof.Machine.execHbmScrub found s
  | .hbmRowRepair k => Sys2Proof.Machine.execHbmRowRepair k s
  | .scoreDecay => Sys2Proof.Machine.execScoreDecay s
  | .unitDrain u => Sys2Proof.Machine.execUnitDrain u s
  | .unitTestDone u pass => Sys2Proof.Machine.execUnitTestDone u pass s
  | .bringUp passing supply fuseless => Sys2Proof.Machine.execBringUp passing supply fuseless s
  | .vcoreDroop cl mV => Sys2Proof.Machine.execVcoreDroop cl mV s
  | .thermalThrottle cl celsius => Sys2Proof.Machine.execThermalThrottle cl celsius s
  | .powerCap milliwatt => Sys2Proof.Machine.execPowerCap milliwatt s
  | .thermalShutdown celsius => Sys2Proof.Machine.execThermalShutdown celsius s
  | .packageReset => Sys2Proof.Machine.execPackageReset s
  | .protectionGroupTimeout gid => Sys2Proof.Machine.execProtectionGroupTimeout gid s
  | .pwctlWrite v x => Sys2Proof.Machine.execPwctlWrite v x s
  | .vcoreRecovery cl mV => Sys2Proof.Machine.execVcoreRecovery cl mV s
  | .throttleRelease cl celsius => Sys2Proof.Machine.execThrottleRelease cl celsius s
  | .haltRestart core => Sys2Proof.Machine.execHaltRestart core s
  | .haltedPartitionEnd p => Sys2Proof.Machine.execHaltedPartitionEnd p s
  | .remoteSpareLend borrower => Sys2Proof.Machine.execRemoteSpareLend borrower s
  | .vdMigration v cycleLast saddleLast => Sys2Proof.Machine.execVdMigration v cycleLast saddleLast s
  | .nop h => Sys2Proof.Machine.execNop h s
  | .timed h => Sys2Proof.Machine.execTimed h s
  | .checked h => Sys2Proof.Machine.execChecked h s
  | .gang h base num => Sys2Proof.Machine.execGang h base num s
  | .gsplit h => Sys2Proof.Machine.execGsplit h s
  | .gjoin h => Sys2Proof.Machine.execGjoin h s
  | .ld h d a sz zx imm => Sys2Proof.Machine.execLd h d a sz zx imm s
  | .st h a b sz imm => Sys2Proof.Machine.execSt h a b sz imm s
  | .vld h tag d a x imm => Sys2Proof.Machine.execVld h tag d a x imm s
  | .vst h a b x imm => Sys2Proof.Machine.execVst h a b x imm s
  | .vldImg h d a x imm => Sys2Proof.Machine.execVldImg h d a x imm s
  | .vstImg h a b x imm => Sys2Proof.Machine.execVstImg h a b x imm s
  | .vldl h tag d a km imm => Sys2Proof.Machine.execVldl h tag d a km imm s
  | .vstl h a b km imm => Sys2Proof.Machine.execVstl h a b km imm s
  | .vgath h tag d a b km => Sys2Proof.Machine.execVgath h tag d a b km s
  | .vscat h d a b km => Sys2Proof.Machine.execVscat h d a b km s
  | .kld h d a imm => Sys2Proof.Machine.execKld h d a imm s
  | .kst h a b imm => Sys2Proof.Machine.execKst h a b imm s
  | .gld h d a sz zx imm => Sys2Proof.Machine.execGld h d a sz zx imm s
  | .gst h a b sz imm => Sys2Proof.Machine.execGst h a b sz imm s
  | .gldV h tag d a x imm => Sys2Proof.Machine.execGldV h tag d a x imm s
  | .gstV h a b x imm => Sys2Proof.Machine.execGstV h a b x imm s
  | .gldImg h d a x imm => Sys2Proof.Machine.execGldImg h d a x imm s
  | .gstImg h a b x imm => Sys2Proof.Machine.execGstImg h a b x imm s
  | .rwb h a b => Sys2Proof.Machine.execRwb h a b s
  | .rinv h a b => Sys2Proof.Machine.execRinv h a b s
  | .rwbi h a b => Sys2Proof.Machine.execRwbi h a b s
  | .pref h a l2 imm => Sys2Proof.Machine.execPref h a l2 imm s
  | .amo h op d a b sz scope imm => Sys2Proof.Machine.execAmo h op d a b sz scope imm s
  | .cas h d a b sz scope imm => Sys2Proof.Machine.execCas h d a b sz scope imm s
  | .red h op a b sz scope imm => Sys2Proof.Machine.execRed h op a b sz scope imm s
  | .evsigEv h tgt e cnt => Sys2Proof.Machine.execEvsigEv h tgt e cnt s
  | .evsigUnlock h m => Sys2Proof.Machine.execEvsigUnlock h m s
  | .evsigPulse h c cnt => Sys2Proof.Machine.execEvsigPulse h c cnt s
  | .ldevWait h d e => Sys2Proof.Machine.execLdevWait h d e s
  | .ldevPoll h d e => Sys2Proof.Machine.execLdevPoll h d e s
  | .ldevLock h d m => Sys2Proof.Machine.execLdevLock h d m s
  | .ldevTry h d m => Sys2Proof.Machine.execLdevTry h d m s
  | .bar h b => Sys2Proof.Machine.execBar h b s
  | .barss h b => Sys2Proof.Machine.execBarss h b s
  | .spred h d a isOr b => Sys2Proof.Machine.execSpred h d a isOr b s
  | .fence h scope paths => Sys2Proof.Machine.execFence h scope paths s
  | .chdecl h d a ch slot => Sys2Proof.Machine.execChdecl h d a ch slot s
  | .chdeclRel h ch => Sys2Proof.Machine.execChdeclRel h ch s
  | .chsend h b ch => Sys2Proof.Machine.execChsend h b ch s
  | .chrecv h d slot => Sys2Proof.Machine.execChrecv h d slot s
  | .chpoll h d slot pf => Sys2Proof.Machine.execChpoll h d slot pf s
  | .phase h b => Sys2Proof.Machine.execPhase h b s
  | .tsend h b k => Sys2Proof.Machine.execTsend h b k s
  | .trecv h d k => Sys2Proof.Machine.execTrecv h d k s
  | .xcopy h d a imm => Sys2Proof.Machine.execXcopy h d a imm s
  | .xgath h d a imm => Sys2Proof.Machine.execXgath h d a imm s
  | .xscat h d a imm => Sys2Proof.Machine.execXscat h d a imm s
  | .xfill h d a imm => Sys2Proof.Machine.execXfill h d a imm s
  | .xcoll h d a imm => Sys2Proof.Machine.execXcoll h d a imm s
  | .xwait h a cls => Sys2Proof.Machine.execXwait h a cls s
  | .xseq h d cls => Sys2Proof.Machine.execXseq h d cls s
  | .xcancel h d a cls => Sys2Proof.Machine.execXcancel h d a cls s
  | .evxcfgC h a ix => Sys2Proof.Machine.execEvxcfgC h a ix s
  | .evxcfgT h a b ix => Sys2Proof.Machine.execEvxcfgT h a b ix s
  | .evxcfgR h d term ix => Sys2Proof.Machine.execEvxcfgR h d term ix s
  | .evxarm h d a t imm => Sys2Proof.Machine.execEvxarm h d a t imm s
  | .sring h d a r => Sys2Proof.Machine.execSring h d a r s
  | .nsend h d a imm => Sys2Proof.Machine.execNsend h d a imm s
  | .launch h d a imm => Sys2Proof.Machine.execLaunch h d a imm s
  | .spawn h a pri loc => Sys2Proof.Machine.execSpawn h a pri loc s
  | .spawnR h a b pri loc => Sys2Proof.Machine.execSpawnR h a b pri loc s
  | .join h d a => Sys2Proof.Machine.execJoin h d a s
  | .tend h => Sys2Proof.Machine.execTend h s
  | .wid h d => Sys2Proof.Machine.execWid h d s
  | .widf h d a ix => Sys2Proof.Machine.execWidf h d a ix s
  | .corenum h d sel => Sys2Proof.Machine.execCorenum h d sel s
  | .cdopen h a => Sys2Proof.Machine.execCdopen h a s
  | .cdclose h d => Sys2Proof.Machine.execCdclose h d s
  | .cdabort h => Sys2Proof.Machine.execCdabort h s
  | .cdabortRetry h => Sys2Proof.Machine.execCdabortRetry h s
  | .cdkeep h a b snap => Sys2Proof.Machine.execCdkeep h a b snap s
  | .cdsig h a b => Sys2Proof.Machine.execCdsig h a b s
  | .rdsys h d n => Sys2Proof.Machine.execRdsys h d n s
  | .wrsys h a n => Sys2Proof.Machine.execWrsys h a n s
  | .fbpop0Read h d => Sys2Proof.Machine.execFbpop0Read h d s
  | .derrpopRead h d => Sys2Proof.Machine.execDerrpopRead h d s
  | .fbstatDropClear h a => Sys2Proof.Machine.execFbstatDropClear h a s
  | .spdoorClear h a => Sys2Proof.Machine.execSpdoorClear h a s
  | .slotctlGo h a => Sys2Proof.Machine.execSlotctlGo h a s
  | .swzWrite h a ix => Sys2Proof.Machine.execSwzWrite h a ix s
  | .zshareWrite h a => Sys2Proof.Machine.execZshareWrite h a s
  | .syscall h imm => Sys2Proof.Machine.execSyscall h imm s
  | .bkpt h imm => Sys2Proof.Machine.execBkpt h imm s
  | .xret h => Sys2Proof.Machine.execXret h s
  | .wfi h => Sys2Proof.Machine.execWfi h s
  | .halt h => Sys2Proof.Machine.execHalt h s
  | .tlbinvPage h a b => Sys2Proof.Machine.execTlbinvPage h a b s
  | .tlbinvVsid h b => Sys2Proof.Machine.execTlbinvVsid h b s
  | .tlbinvAll h => Sys2Proof.Machine.execTlbinvAll h s
  | .tlbreplay h a => Sys2Proof.Machine.execTlbreplay h a s
  | .ldovt h a b => Sys2Proof.Machine.execLdovt h a b s
  | .ctxsave h d a b swap => Sys2Proof.Machine.execCtxsave h d a b swap s
  | .ctxload h d a b => Sys2Proof.Machine.execCtxload h d a b s
  | .add h d a b w => Sys2Proof.Machine.execAdd h d a b w s
  | .sub h d a b w => Sys2Proof.Machine.execSub h d a b w s
  | .andR h d a b => Sys2Proof.Machine.execAndR h d a b s
  | .orR h d a b => Sys2Proof.Machine.execOrR h d a b s
  | .xorR h d a b => Sys2Proof.Machine.execXorR h d a b s
  | .andn h d a b => Sys2Proof.Machine.execAndn h d a b s
  | .orn h d a b => Sys2Proof.Machine.execOrn h d a b s
  | .neg h d a w => Sys2Proof.Machine.execNeg h d a w s
  | .addi h d a w imm => Sys2Proof.Machine.execAddi h d a w imm s
  | .andi h d a imm => Sys2Proof.Machine.execAndi h d a imm s
  | .ori h d a imm => Sys2Proof.Machine.execOri h d a imm s
  | .xori h d a imm => Sys2Proof.Machine.execXori h d a imm s
  | .shl h d a w src => Sys2Proof.Machine.execShl h d a w src s
  | .shr h d a w src => Sys2Proof.Machine.execShr h d a w src s
  | .shra h d a w src => Sys2Proof.Machine.execShra h d a w src s
  | .rol h d a w src => Sys2Proof.Machine.execRol h d a w src s
  | .ror h d a w src => Sys2Proof.Machine.execRor h d a w src s
  | .mul h d a b w => Sys2Proof.Machine.execMul h d a b w s
  | .mulh h d a b w => Sys2Proof.Machine.execMulh h d a b w s
  | .mulhn h d a b w => Sys2Proof.Machine.execMulhn h d a b w s
  | .div h d a b w => Sys2Proof.Machine.execDiv h d a b w s
  | .divn h d a b w => Sys2Proof.Machine.execDivn h d a b w s
  | .rem h d a b w => Sys2Proof.Machine.execRem h d a b w s
  | .remn h d a b w => Sys2Proof.Machine.execRemn h d a b w s
  | .clz h d a w => Sys2Proof.Machine.execClz h d a w s
  | .ctz h d a w => Sys2Proof.Machine.execCtz h d a w s
  | .popc h d a w => Sys2Proof.Machine.execPopc h d a w s
  | .brev h d a w => Sys2Proof.Machine.execBrev h d a w s
  | .bswap h d a w => Sys2Proof.Machine.execBswap h d a w s
  | .bfx h d a w pos len => Sys2Proof.Machine.execBfx h d a w pos len s
  | .bfxn h d a w pos len => Sys2Proof.Machine.execBfxn h d a w pos len s
  | .bfi h d a w pos len => Sys2Proof.Machine.execBfi h d a w pos len s
  | .min h d a b w => Sys2Proof.Machine.execMin h d a b w s
  | .minn h d a b w => Sys2Proof.Machine.execMinn h d a b w s
  | .max h d a b w => Sys2Proof.Machine.execMax h d a b w s
  | .maxn h d a b w => Sys2Proof.Machine.execMaxn h d a b w s
  | .sel h d a b c neg => Sys2Proof.Machine.execSel h d a b c neg s
  | .mov h d a => Sys2Proof.Machine.execMov h d a s
  | .movi h d imm => Sys2Proof.Machine.execMovi h d imm s
  | .movhi h d imm => Sys2Proof.Machine.execMovhi h d imm s
  | .movp h o => Sys2Proof.Machine.execMovp h o s
  | .lea h d a b sc imm => Sys2Proof.Machine.execLea h d a b sc imm s
  | .cmp h d a cc w src => Sys2Proof.Machine.execCmp h d a cc w src s
  | .fadd h d a b rm f32 => Sys2Proof.Machine.execFadd h d a b rm f32 s
  | .fsub h d a b rm f32 => Sys2Proof.Machine.execFsub h d a b rm f32 s
  | .fmul h d a b rm f32 => Sys2Proof.Machine.execFmul h d a b rm f32 s
  | .fdiv h d a b rm f32 => Sys2Proof.Machine.execFdiv h d a b rm f32 s
  | .fsqrt h d a rm f32 => Sys2Proof.Machine.execFsqrt h d a rm f32 s
  | .fma h d a b rm f32 => Sys2Proof.Machine.execFma h d a b rm f32 s
  | .fcmp h d a b cc f32 => Sys2Proof.Machine.execFcmp h d a b cc f32 s
  | .fclass h d a f32 => Sys2Proof.Machine.execFclass h d a f32 s
  | .fmin h d a b f32 => Sys2Proof.Machine.execFmin h d a b f32 s
  | .fmax h d a b f32 => Sys2Proof.Machine.execFmax h d a b f32 s
  | .fabs h d a f32 => Sys2Proof.Machine.execFabs h d a f32 s
  | .fneg h d a f32 => Sys2Proof.Machine.execFneg h d a f32 s
  | .fcpys h d a b f32 => Sys2Proof.Machine.execFcpys h d a b f32 s
  | .br h lx imm => Sys2Proof.Machine.execBr h lx imm s
  | .call h d imm => Sys2Proof.Machine.execCall h d imm s
  | .jr h a lx imm => Sys2Proof.Machine.execJr h a lx imm s
  | .callr h d a imm => Sys2Proof.Machine.execCallr h d a imm s
  | .ret h a => Sys2Proof.Machine.execRet h a s
  | .loop h a len => Sys2Proof.Machine.execLoop h a len s
  | .loopi h len cnt => Sys2Proof.Machine.execLoopi h len cnt s
  | .pand h d a b na nb => Sys2Proof.Machine.execPand h d a b na nb s
  | .por h d a b na nb => Sys2Proof.Machine.execPor h d a b na nb s
  | .pxor h d a b na nb => Sys2Proof.Machine.execPxor h d a b na nb s
  | .pnot h d a => Sys2Proof.Machine.execPnot h d a s
  | .pmov h d a => Sys2Proof.Machine.execPmov h d a s
  | .vcvt h tag d a rm stm chunk => Sys2Proof.Machine.execVcvt h tag d a rm stm chunk s
  | .vcvts h tag d a b rm stm chunk => Sys2Proof.Machine.execVcvts h tag d a b rm stm chunk s
  | .vtag h tag d a => Sys2Proof.Machine.execVtag h tag d a s
  | .vtagr h d a => Sys2Proof.Machine.execVtagr h d a s
  | .vquant h tag d a b rm chunk j => Sys2Proof.Machine.execVquant h tag d a b rm chunk j s
  | .vdeq h d a b rm chunk j => Sys2Proof.Machine.execVdeq h d a b rm chunk j s
  | .vscl h tag d a j => Sys2Proof.Machine.execVscl h tag d a j s
  | .scvt h src dt d a rm => Sys2Proof.Machine.execScvt h src dt d a rm s
  | .vadd h code d a b stm km z => Sys2Proof.Machine.execVadd h code d a b stm km z s
  | .vsub h code d a b stm km z => Sys2Proof.Machine.execVsub h code d a b stm km z s
  | .vadds h code d a b stm km z => Sys2Proof.Machine.execVadds h code d a b stm km z s
  | .vsubs h code d a b stm km z => Sys2Proof.Machine.execVsubs h code d a b stm km z s
  | .vabs h code d a stm km z => Sys2Proof.Machine.execVabs h code d a stm km z s
  | .vmul h code d a b stm km z => Sys2Proof.Machine.execVmul h code d a b stm km z s
  | .vmulh h code d a b stm km z => Sys2Proof.Machine.execVmulh h code d a b stm km z s
  | .vmulhn h code d a b stm km z => Sys2Proof.Machine.execVmulhn h code d a b stm km z s
  | .vmin h code d a b stm km z => Sys2Proof.Machine.execVmin h code d a b stm km z s
  | .vminn h code d a b stm km z => Sys2Proof.Machine.execVminn h code d a b stm km z s
  | .vmax h code d a b stm km z => Sys2Proof.Machine.execVmax h code d a b stm km z s
  | .vmaxn h code d a b stm km z => Sys2Proof.Machine.execVmaxn h code d a b stm km z s
  | .vfadd h code d a b rm stm km z => Sys2Proof.Machine.execVfadd h code d a b rm stm km z s
  | .vfsub h code d a b rm stm km z => Sys2Proof.Machine.execVfsub h code d a b rm stm km z s
  | .vfmul h code d a b rm stm km z => Sys2Proof.Machine.execVfmul h code d a b rm stm km z s
  | .vfdiv h code d a b rm stm km z => Sys2Proof.Machine.execVfdiv h code d a b rm stm km z s
  | .vfma h code d a b rm stm km z => Sys2Proof.Machine.execVfma h code d a b rm stm km z s
  | .vfms h code d a b rm stm km z => Sys2Proof.Machine.execVfms h code d a b rm stm km z s
  | .vfnma h code d a b rm stm km z => Sys2Proof.Machine.execVfnma h code d a b rm stm km z s
  | .vfnms h code d a b rm stm km z => Sys2Proof.Machine.execVfnms h code d a b rm stm km z s
  | .vfmin h code d a b stm km z => Sys2Proof.Machine.execVfmin h code d a b stm km z s
  | .vfmax h code d a b stm km z => Sys2Proof.Machine.execVfmax h code d a b stm km z s
  | .vfabs h code d a stm km z => Sys2Proof.Machine.execVfabs h code d a stm km z s
  | .vfneg h code d a stm km z => Sys2Proof.Machine.execVfneg h code d a stm km z s
  | .vrcp h code d a stm km z => Sys2Proof.Machine.execVrcp h code d a stm km z s
  | .vrsq h code d a stm km z => Sys2Proof.Machine.execVrsq h code d a stm km z s
  | .vsqrt h code d a rm stm km z => Sys2Proof.Machine.execVsqrt h code d a rm stm km z s
  | .vexp2 h code d a stm km z => Sys2Proof.Machine.execVexp2 h code d a stm km z s
  | .vlog2 h code d a stm km z => Sys2Proof.Machine.execVlog2 h code d a stm km z s
  | .vcmp h code d a b cc stm km z => Sys2Proof.Machine.execVcmp h code d a b cc stm km z s
  | .vfcmp h code d a b cc stm km z => Sys2Proof.Machine.execVfcmp h code d a b cc stm km z s
  | .vfclass h code d a stm km z => Sys2Proof.Machine.execVfclass h code d a stm km z s
  | .vsel h code d a b stm km => Sys2Proof.Machine.execVsel h code d a b stm km s
  | .vand h code d a b stm km z => Sys2Proof.Machine.execVand h code d a b stm km z s
  | .vor h code d a b stm km z => Sys2Proof.Machine.execVor h code d a b stm km z s
  | .vxor h code d a b stm km z => Sys2Proof.Machine.execVxor h code d a b stm km z s
  | .vandn h code d a b stm km z => Sys2Proof.Machine.execVandn h code d a b stm km z s
  | .vshl h code d a b stm km z => Sys2Proof.Machine.execVshl h code d a b stm km z s
  | .vshr h code d a b stm km z => Sys2Proof.Machine.execVshr h code d a b stm km z s
  | .vshra h code d a b stm km z => Sys2Proof.Machine.execVshra h code d a b stm km z s
  | .vbcast h code d stm km z src => Sys2Proof.Machine.execVbcast h code d stm km z src s
  | .vext h wc d a b sx imm => Sys2Proof.Machine.execVext h wc d a b sx imm s
  | .vins h wc d a b imm => Sys2Proof.Machine.execVins h wc d a b imm s
  | .vperm h wc d a b stm km z => Sys2Proof.Machine.execVperm h wc d a b stm km z s
  | .vslideup h wc d a b stm km z imm => Sys2Proof.Machine.execVslideup h wc d a b stm km z imm s
  | .vslidedn h wc d a b stm km z imm => Sys2Proof.Machine.execVslidedn h wc d a b stm km z imm s
  | .viota h code d a stm km z imm => Sys2Proof.Machine.execViota h code d a stm km z imm s
  | .kand h d a b => Sys2Proof.Machine.execKand h d a b s
  | .kor h d a b => Sys2Proof.Machine.execKor h d a b s
  | .kxor h d a b => Sys2Proof.Machine.execKxor h d a b s
  | .knot h d a => Sys2Proof.Machine.execKnot h d a s
  | .kcnt h d a n => Sys2Proof.Machine.execKcnt h d a n s
  | .kmov h o => Sys2Proof.Machine.execKmov h o s
  | .vradd h code d a stm km => Sys2Proof.Machine.execVradd h code d a stm km s
  | .vrmin h code d a stm km => Sys2Proof.Machine.execVrmin h code d a stm km s
  | .vrmax h code d a stm km => Sys2Proof.Machine.execVrmax h code d a stm km s
  | .vrfadd h code d a rm stm km => Sys2Proof.Machine.execVrfadd h code d a rm stm km s
  | .vrfmin h code d a stm km => Sys2Proof.Machine.execVrfmin h code d a stm km s
  | .vrfmax h code d a stm km => Sys2Proof.Machine.execVrfmax h code d a stm km s
  | .scfg h d a port imm => Sys2Proof.Machine.execScfg h d a port imm s
  | .sfree h port => Sys2Proof.Machine.execSfree h port s
  | .vloop h len port => Sys2Proof.Machine.execVloop h len port s
  | .vmov h d a => Sys2Proof.Machine.execVmov h d a s
  | .vmovgFromG h code d a => Sys2Proof.Machine.execVmovgFromG h code d a s
  | .vmovgToG h d a => Sys2Proof.Machine.execVmovgToG h d a s
  | .vmadd h d a b m km z => Sys2Proof.Machine.execVmadd h d a b m km z s
  | .vmsub h d a b m km z => Sys2Proof.Machine.execVmsub h d a b m km z s
  | .vmneg h d a m km z => Sys2Proof.Machine.execVmneg h d a m km z s
  | .vmmul h d a b m km z => Sys2Proof.Machine.execVmmul h d a b m km z s
  | .vmmac h d a b m km z => Sys2Proof.Machine.execVmmac h d a b m km z s
  | .vmred h nat d a m km z => Sys2Proof.Machine.execVmred h nat d a m km z s
  | .vmcvtI64 h d a km z => Sys2Proof.Machine.execVmcvtI64 h d a km z s
  | .vmcvtMn h d a m km z => Sys2Proof.Machine.execVmcvtMn h d a m km z s
  | .vmcvtMs h d a m km z => Sys2Proof.Machine.execVmcvtMs h d a m km z s
  | .mqgen h a m => Sys2Proof.Machine.execMqgen h a m s
  | .mqld h a b m => Sys2Proof.Machine.execMqld h a b m s
  | .bfly h d a m km => Sys2Proof.Machine.execBfly h d a m km s
  | .ibfly h d a m km => Sys2Proof.Machine.execIbfly h d a m km s
  | .bperm h d a k => Sys2Proof.Machine.execBperm h d a k s
  | .bpermx h d k => Sys2Proof.Machine.execBpermx h d k s
  | .vbitrev h d a b => Sys2Proof.Machine.execVbitrev h d a b s
  | .vfft2 h d a rm cj km => Sys2Proof.Machine.execVfft2 h d a rm cj km s
  | .vcmul h d a b rm cj km z => Sys2Proof.Machine.execVcmul h d a b rm cj km z s
  | .zalloc h d t => Sys2Proof.Machine.execZalloc h d t s
  | .zfree h t => Sys2Proof.Machine.execZfree h t s
  | .zzero h i32 t => Sys2Proof.Machine.execZzero h i32 t s
  | .zmma h tag d a b t sc => Sys2Proof.Machine.execZmma h tag d a b t sc s
  | .zmmas h tag d a b t sc => Sys2Proof.Machine.execZmmas h tag d a b t sc s
  | .zldc h i32 a t stride => Sys2Proof.Machine.execZldc h i32 a t stride s
  | .zstore h dt a rm t stride => Sys2Proof.Machine.execZstore h dt a rm t stride s
  | .zread h d a x t c => Sys2Proof.Machine.execZread h d a x t c s
  | .zwm h d t => Sys2Proof.Machine.execZwm h d t s
  | .zwait h a t imm => Sys2Proof.Machine.execZwait h a t imm s
  | .zscl h a b sideB j q => Sys2Proof.Machine.execZscl h a b sideB j q s
  | .zstatT h d t clr => Sys2Proof.Machine.execZstatT h d t clr s
  | .zstatF h d clr => Sys2Proof.Machine.execZstatF h d clr s
  | .zstatS h d => Sys2Proof.Machine.execZstatS h d s

end Sys2Proof.Machine
end

