-- ==== Sys2Proof/Machine/Fetch.lean ====
section
/-! DEFINITION. Instruction fetch (R21, R128 to R131, R185, R189): the bytes of the word at a core's program counter. -/
namespace Sys2Proof.Machine
open Sys2Proof

/-- What a fetch answers: the 12 bytes of a word with the state that their read leaves, a trap with the state it leaves, a wait for a walk, or a page with no memory behind
it. -/
inductive Fetched where
  | bytes (s : State) (bs : List Byte)
  | trap (s : State) (c : Cause) (x : Word)
  | wait (s : State)
  | fault (f : Fault)

/-- The bytes of the global address `va` on, one translation for each byte: an instruction word may cross a page. -/
def State.fetchGlobal (s : State) (va : Word) : Nat → Except XErr (List (Nat × Byte))
  | 0 => .ok []
  | k + 1 =>
    match s.xlateChecked s.cur va 1 1 .exec with
    | .error e => .error e
    | .ok (pa, _) => match State.fetchGlobal s (va + 1) k with
      | .error e => .error e
      | .ok bs => .ok ((pa, s.physByte pa) :: bs)

/-- Memory as it stood when the launch that core n works for began (R131), where its user program fetches. -/
def State.atBegin (s : State) (n : Nat) : Option Code :=
  let c := s.core n
  if c.regs.trap.sup then none else (c.lid.bind s.launch?).bind (·.code)

/-- The byte at a global address as it stood when a launch began; none where no page held the address then. -/
def State.byteThen (s : State) (m : Code) (root : BitVec 36) (va : Nat) : Option Byte :=
  let old := { s with hbm := m.hbm, fabric := m.fabric }
  match old.walk root va with
  | .page level leaf => if physOk (leafPa level leaf va) then some (old.physByte (leafPa level leaf va)) else none
  | .fault _ _ => none

/-- The bytes of a place as they stood when a launch began; none where its context was not there. -/
def State.placeThen (s : State) (m : Code) (p : Place) (len : Nat) : Option (List Byte) :=
  match p with
  | .spad _ c off => (m.spads.find? fun e => e.1 == s.lcn c).map fun e => e.2.bytes off len
  | .chip d off => (s.logicalDie d).bind fun l => (m.chips.find? fun e => e.1 == l).map fun e => e.2.bytes off len
  | .evu _ => none

/-- The program of core n's launch has written some of these bytes of physical memory. -/
def State.ownCodeAt (s : State) (n : Nat) (pas : List Nat) : Bool :=
  s.ownCode.any fun x => (s.core n).lid == some x.1 && pas.any fun p => decide (x.2.1 ≤ p) && decide (p < x.2.1 + x.2.2)

/-- A word as fetch returns it (R131): the one that stood in memory when the launch began, `was`; where its own program has written it
since, that one or the one that stands there now. DESIGN CHOICE (log 48). -/
def State.fetched (s : State) (n : Nat) (was now : List Byte) (own : Bool) : List Byte :=
  let c := s.core n
  if was = now || !own then was else if Config.fetchNew n c.tmg.clk c.tmg.words then now else was

/-- A word of global memory, whose bytes now stand at `bs`, as core n fetches it (R131). -/
def State.fetchedGlobal (s : State) (n : Nat) (a : Word) (pas : List Nat) (now : List Byte) : List Byte :=
  match s.atBegin n with
  | none => now
  | some m =>
    let was := (List.range 12).map fun k => (s.byteThen m (s.core n).root (a.toNat + k)).getD (now.getD k 0)
    s.fetched n was now (s.ownCodeAt n pas)

/-- A word of a local memory as core n fetches it (R131): a change since the launch began is its program's. -/
def State.fetchedLocal (s : State) (n : Nat) (p : Place) (now : List Byte) : List Byte :=
  match s.atBegin n with
  | none => now
  | some m => s.fetched n ((s.placeThen m p 12).getD now) now true

/-- A core whose WFI ends goes on behind it (R488). -/
def State.endWfi (s : State) (n : Nat) : State :=
  let c := s.core n
  s.setCore n { c.complete (max c.tmg.clk s.clk) c.waitStall with wait := .none }

/-- The bytes of a fetch, each with its place: those of a line of another package come with its permission (R516). -/
def State.fabricFetch (s : State) (bs : List (Nat × Byte)) : State × List Byte :=
  let s1 := (bs.filter fun b => isFabric b.1).foldl (fun (s : State) b => s.permit b.1 false) s
  (s1, bs.map fun b => if isFabric b.1 then s1.physByte b.1 else b.2)

/-- The word of the current core at its program counter. One that its loop buffer holds comes from there (R130). A local address is read
like a load of the core in its mode (log 15); an uncorrectable word is a precise POISON trap and a detected error, as R166 and R213 have
it of a load. A wait for a walk of a fetch leaves the progress of a resumed group as it is (R196). DESIGN CHOICE (log 48). -/
def State.fetch (s : State) : Fetched :=
  let a := s.cc.regs.pc
  if s.cc.wait == .wfi then .wait (s.endWfi s.cur)
  else match s.cc.tmg.loopBuf.bind (·.word a) with
  | some w => .bytes s (bytesOfWord w)
  | none =>
    if a.getLsbD 56 then
      match s.checkLocal s.cur (!s.cc.regs.trap.sup) a 12 4 with
      | .error k => .trap s k a
      | .ok (.evu _) => .trap s .bounds a
      | .ok p =>
        let r := s.touch s.cur p 12
        if r.2 then .trap r.1 .poison a else .bytes r.1 (s.fetchedLocal s.cur p (s.readPlace 12 p))
    else match s.fetchGlobal a 12 with
      | .error (.trap c _) => .trap s c a
      | .error (.miss va) => .wait (s.waitWalk va none s.cc.regs.trap.xprog.toNat)
      | .error (.noMemory pa) => .fault (.noPhysicalMemory pa)
      | .ok bs =>
        if bs.any fun b => s.globalBad b.1 1 then .trap (s.badRead s.cur true) .poison a
        else
          let r := s.fabricFetch bs
          .bytes r.1 (s.fetchedGlobal s.cur a (bs.map (·.1)) r.2)

/-- A word that has been fetched enters the loop buffer where it is on the first pass of a captured loop (R130). -/
def State.captured (s : State) (n : Nat) (bs : List Byte) : State :=
  s.setCore n ((s.core n).setTmg fun m => { m with loopBuf := m.loopBuf.map (·.capture (s.core n).regs.pc (ofBytes 96 bs)) })

/-- The leader of a gang runs a handler, which its followers do not issue (R150): a trap of its has not returned. -/
def State.inHandler (s : State) (n : Nat) : Bool :=
  match s.gangOf n with
  | some (g, 0) => g.depth != 0
  | _ => false

/-- A core that may issue its next word: running, waiting for nothing, not stopped by an error, while the package runs and no takeover stops it (R498), with a sequencer of its own
(R12) or a word that its gang's leader has passed on, and, leading a gang, with every lock-step member ready (R146), itself in a handler
(R150), or its own word passed on and not ended; a WFI that may end goes on (R488). -/
def State.runnable (s : State) (n : Nat) : Bool :=
  let c := s.core n
  let wakes := c.wait == .wfi && s.wfiReady n
  s.run == .running && s.takeover.isNone && c.mode == .running && !c.errStop &&
    (wakes || (c.wait == .none && (!s.lockFollower n || c.behind) &&
      (s.inHandler n || c.tmg.inside.isSome ||
        (s.followers n).all fun f => (s.core f.1).wait == .none && !(s.core f.1).behind)))

/-- The leader's word has completed the join of its gang (R149). -/
def joinedBy (before : State) (n : Nat) (after : State) : Bool :=
  match before.gangOf n, after.gangOf n with
  | some (g, 0), some (g', 0) => !g.split.isEmpty && g'.split.isEmpty
  | _, _ => false

/-- After the leader's word has completed, gone to sleep at an event unit or channel, or begun to wait inside its effect, the lock-step
members issue it (R146, R150), once; a join that the leader completes takes them with it (R149). -/
def gangFollows (before : State) (n : Nat) (after : State) : Bool :=
  !(before.followers n).isEmpty && !before.inHandler n && !joinedBy before n after && (before.core n).tmg.inside.isNone &&
    ((after.core n).tmg.words != (before.core n).tmg.words || (after.core n).tmg.inside.isSome ||
      (match (after.core n).wait with
        | .none | .walk _ | .parked _ => false
        | _ => true))

/-- A lock-step member has not issued the word that its leader passed on to it. -/
def State.owing (s : State) (n : Nat) : Bool := (s.followers n).any fun f => (s.core f.1).behind && (s.core f.1).tmg.inside.isNone

/-- A core issues a word, and the lock-step members of a gang that it leads issue it behind it; where the leader's own issue takes what
a member would need, the leader delays the word (R146). `run` is the meaning of instructions. -/
def issueWithGang (run : Instr → State → Host.Outcome State Fault Refusal) (i : Instr) (n : Nat) (s : State) :
    Host.Outcome State Fault Refusal :=
  match run i s with
  | .next s' =>
    if gangFollows s n s' then
      match fanOut run i n s.cc s' with
      | .next t => .next (if t.owing n then s.notBefore n ((s.core n).tmg.clk + 1) else t)
      | o => o
    else .next s'
  | o => o

/-- The word that a lock-step follower owes, which it issues from no sequencer of its own (R12). -/
def State.owedWord (s : State) (n : Nat) : Option Instr :=
  let c := s.core n
  if s.lockFollower n && c.behind && c.wait == .none then c.owes else none

/-- A follower that has issued the word it owed, or that no longer follows, owes it no more. -/
def State.paid (s : State) (n words : Nat) : State :=
  let c := s.core n
  if c.tmg.words != words || c.wait != .none || c.mode != .running || !s.lockFollower n then
    s.setCore n { c with behind := false, owes := none }
  else s

/-- The vector registers of a core with a word that SECDED cannot correct are found at its turn (R526): each becomes POISON, and a detected
error is posted. DEDUCED (log 136). -/
def State.foundBad (s : State) (n : Nat) : State :=
  let c := s.core n
  let poison := fun (v : Vector VR 48) (r : VReg) => v.set r { v[r] with tag := poisonTag }
  (s.setCore n { c with regs := { c.regs with v := c.vecBad.foldl poison c.regs.v }, vecBad := [] }).badRead n true
/-- A core and its lock-step members that hold such registers. -/
def State.holdsBad (s : State) (n : Nat) : List Nat :=
  (n :: (s.followers n).map (·.1)).filter fun m => !(s.core m).vecBad.isEmpty

/-- A throttled cluster, or one whose package's power is held, delays its words by stalls at fetch (R553): at half rate by one clk
a word; how often the power cap stalls a word is not stated (log 25). -/
def State.atFetch (s : State) (n : Nat) : State :=
  let c := s.core n
  if (s.cluster (clusterOf n)).throttled || (s.capped && Config.capStall n c.tmg.words) then
    s.setCore n (c.setTmg fun t => { t with clk := t.clk + 1 })
  else s

/-- The clk of a core's turn with this outcome: that at which its word issued, or at which its turn began. -/
def State.turnClk (s : State) (n : Nat) : Host.Outcome State Fault Refusal → Nat
  | .next s' => max (s.core n).tmg.clk (s'.core n).tmg.issued
  | _ => (s.core n).tmg.clk

/-- The word of a core reads its event unit at the end of the clk, after what reaches the unit in it (R235). -/
noncomputable def State.readsUnit (s : State) (n : Nat) : Bool :=
  match ({ s with cur := n }.atFetch n).fetch with
  | .bytes _ bs => match decodeBytes bs with
    | .ok (.ldevWait ..) | .ok (.ldevPoll ..) | .ok (.ldevLock ..) | .ok (.ldevTry ..) => true
    | _ => false
  | _ => false

/-- The place of a core's turn at clk `t` among the turns (R235): four for each clk. -/
noncomputable def State.turnPlace (s : State) (n t : Nat) : Nat := 4 * t + (if s.readsUnit n then 2 else 0)

/-- The place of a packet's delivery: one for an event unit comes behind the requests of the cores in its clk (R235), any other before the
words (R394). -/
def Packet.place (k : Packet) : Nat :=
  4 * k.due + (match k.ev with
    | .eventMessage _ | .barrierArrivalMessage _ | .barrierReleaseMessage _ => 1
    | _ => 0)

/-- A doing of the device at a clk of its own: an event, or the second step of an event unit's clk for one of its lines (R235). -/
inductive Work where
  | event (i : Instr)
  | serve (cl e : Nat)
  deriving DecidableEq, Repr

/-- The first of the device's own doings, by their places. -/
def firstPlace (xs : List (Nat × Nat × Work)) : Option (Nat × Nat × Work) :=
  xs.foldl (fun (best : Option (Nat × Nat × Work)) x => match best with
    | some b => if x.1 < b.1 then some x else best
    | none => some x) none

/-- The event lines whose waiters are to be served, each with the place and the clk of it: behind all that reaches their units in the
clk, and before the words that read the units in it (R235). -/
def State.unitWork (s : State) : List (Nat × Nat × Work) :=
  s.clusters.flatMap fun e => (e.2.lines.filter (·.2.ready)).map fun l =>
    (4 * (l.2.clk - 4) + 1, l.2.clk - 4, .serve e.1 l.1)

/-- The idle cores whose search is to widen, each with its clk (R419). -/
def State.widenings (s : State) : List (Nat × Nat) :=
  (s.cores.filter fun e => (s.searching e.1).isSome && !e.2.widened).map fun e => (e.2.idleSince + 1024, e.1)

/-- What the device does at its own clks, each with its place and clk: the saddle tick, edges of the crossbars (R376), the widening of a
search (R419), the work of the arrays' shares behind the words of its clk (R333), the deliveries of packets, and behind those of a
clk the service of event lines (R235). A tick comes every 800 clk (R2, R200). DEDUCED (log 111). -/
def State.deviceWork (s : State) : List (Nat × Nat × Work) :=
  let tick := 800 * (s.ticks + 1)
  (if s.run == .running then [(4 * tick, tick, .event .saddleTick)] else []) ++
    (s.clusters.filterMap fun e => ((s.pulsesDue e.1).map (·.1)).min?.map fun t => (4 * t, t, .event (.xbarPulseArrive e.1))) ++
    (s.widenings.map fun w => (4 * w.1, w.1, .event (.idleSearchWiden w.2))) ++
    (s.clusters.flatMap fun e => ((List.finRange 2).flatMap (s.shareWork e.1)).map fun w => (4 * w.1 + 3, w.1, .event w.2)) ++
    (s.net.map fun k => (k.place, k.due, .event (.packetEject k.id))) ++ s.unitWork

/-- What the device does before a core's turn at a place, with its clk. -/
def State.dueWork (s : State) (place : Nat) : Option (Nat × Work) :=
  (firstPlace s.deviceWork).bind fun x => if x.1 ≤ place then some x.2 else none

/-- A package that has shut down does nothing until it is started anew: what reaches it goes unanswered (R553). -/
def State.dark (s : State) (i : Instr) : Bool :=
  s.run == .shutDown && (match i with
    | .packageReset | .bringUp .. => false
    | _ => true)

/-- While a takeover stops the package, the next tick and then the flip come first (R498), each with its clk. -/
def State.stopWork (s : State) : Option (Nat × Instr) :=
  if s.run = .shutDown then none else s.takeover.map fun (t : Takeover) => if t.ticked then (s.clk, .dieMapFlip) else (800 * (s.ticks + 1), .saddleTick)

end Sys2Proof.Machine
end

