-- ==== Sys2Proof/Machine/Step.lean ====
section
/-! DEFINITION. One step of the machine: a turn of the agenda, an event that the device owes, or one word of a core. -/
namespace Sys2Proof.Machine
open Sys2Proof

/-- Core `n` issues the word that it owes its leader, or fetches, decodes and issues the word at its program counter; the members of a gang
that it leads issue it with it, and hold it until each can. -/
noncomputable def stepCore (n : Nat) (s0 : State) : Host.Outcome State Fault Refusal :=
  let s := { s0 with cur := n }.atFetch n
  match s.owedWord n with
  | some i => match exec i s with
    | .next s' => .next (s'.paid n (s.core n).tmg.words)
    | o => o
  | none =>
  match s.fetch with
  | .trap s c x => .next (s.takeTrap n c x 0)
  | .wait s => .next s
  | .fault f => .fault f
  | .bytes s bs => match decodeBytes bs with
    | .bad c x => .next (s.takeTrap n c x 0)
    | .ok i =>
      let r := State.alignGang exec i n (s.captured n bs)
      if r.2 then .next r.1 else issueWithGang exec i n r.1

/-- Core `n` takes its turn, and the device reaches its clk: nothing happens where it may not issue, and errors that its registers hold
are found before its word (R526). -/
noncomputable def turnOf (n : Nat) (s : State) : Host.Outcome State Fault Refusal :=
  if s.runnable n then
    match (if s.holdsBad n = [] then stepCore n s else .next ((s.holdsBad n).foldl State.foundBad s)) with
    | .next s' => .next { s' with clk := max s'.clk (s.turnClk n (.next s')) }
    | o => o
  else .next s

/-- The turn that comes first by its place, of those that cores may take, and of several at one place that of the lowest index. -/
noncomputable def State.firstTurn (s : State) : Option (Nat × Host.Outcome State Fault Refusal) :=
  (s.cores.filter fun e => s.runnable e.1).foldl (fun best e =>
    let o := turnOf e.1 s
    let t := s.turnPlace e.1 (s.turnClk e.1 o)
    match best with
    | some b => if t < b.1 then some (t, o) else best
    | none => some (t, o)) none

/-- The device does what is due at a clk of its own. -/
def State.doWork (s : State) : Nat × Work → Host.Outcome State Fault Refusal
  | (t, .event i) => exec i { s with clk := max s.clk t }
  | (t, .serve cl e) => .next ({ s with clk := max s.clk t }.serve cl e)

/-- One step. What a takeover stops the package for comes first, then the agenda's turns, then the events that the device owes, oldest
first; then, in the order of clks, what the device does at its own clks and the turn of the core whose word issues first; with no core to
issue, a clk passes. -/
noncomputable def step (s : State) : Host.Outcome State Fault Refusal :=
  match s.stopWork with
  | some w => exec w.2 { s with clk := max s.clk w.1 }
  | none => match s.agenda with
    | .event i :: rest => if s.dark i then .next { s with agenda := rest } else exec i { s with agenda := rest }
    | .core n :: rest => turnOf n { s with agenda := rest }
    | [] =>
      if s.run = .shutDown then .next { s with clk := s.clk + 1 }
      else match s.pending with
        | i :: rest => exec i { s with pending := rest }
        | [] => match s.firstTurn with
          | some x => match s.dueWork x.1 with
            | some w => s.doWork w
            | none => x.2
          | none => match s.dueWork (4 * s.clk + 3) with
            | some w => s.doWork w
            | none => .next { s with clk := s.clk + 1 }

/-- The page that `withFetchWord` maps: page 0 of memory, with every right, pinned (R187). -/
def fetchLeaf : BitVec 64 := 0x001000000000003F#64

/-- The state in which the next step fetches and runs the instruction whose bits are `w`: the current core runs, its
program counter is a global address whose page maps to page 0 of memory with every right, and the word stands there, for a launch as
well (R131).
A program is loaded from outside the machine and runs once a launch or the supervisor starts a core (log 7); this stands for
that. -/
def State.withFetchWord (s : State) (nbits w : Nat) : State :=
  let c := s.cc
  let pc : Word := if c.regs.pc.toNat % 65536 ≤ 65524 ∧ c.regs.pc.toNat < 2 ^ 56 then c.regs.pc else 0
  let n := s.cur
  let e : TlbEntry := { vsid := c.vsid, level := 3, vpn := pc.toNat / 65536, leaf := fetchLeaf }
  let c1 := { c with mode := .running, wait := .none, access := none, xlate := true, errStop := false, vecBad := [], behind := false, owes := none,
                     regs := { c.regs with pc := pc }, tmg := { c.tmg with loopBuf := none } }
  let s1 := { s with fenced := [] }.setCc c1
  let cl := s1.cluster (clusterOf n)
  let s2 := s1.setCluster (clusterOf n) { cl with l1tlb := [e], gangs := [] }
  { s2.setPhysBytes (pc.toNat % 65536) (bytesOfWord (BitVec.ofNat 96 (w % 2 ^ nbits))) with
    agenda := [.core n], run := .running, takeover := none, hbmBad := [], fenced := []
    launches := s.launches.map fun x => { x with code := none } }

end Sys2Proof.Machine
end

