-- ==== Sys2Proof/Certificates/Slice0/Obligations.lean ====
section
/-! DEFINITION. The statements for the provers, and the few notions they are written with. A result statement says, for every
state and operands that meet its hypotheses, the very state that `exec` answers: what it does not name stays as it was. -/
open Sys2Proof Sys2Proof.Machine

namespace Sys2Proof.Claims

/-- A word issues with its effect (R15, R23, R24): no earlier attempt of it waits inside its effect, its guard reads true from the clk
at which it is first read to its issue, and no register that it names waits for an answer on its way. -/
def Issues (h : Hdr) (u : Uses) (s : State) : Prop :=
  s.cc.tmg.inside = none ∧ s.cc.falseAt h u = none ∧ (s.cc.settle (s.cc.guardClk h)).awaits u = false

/-- The state in which a word's effect is performed: its core at the issue clk, with what is visible then written (R27, R28).
`d`, `sa` and `sb` are the operands that the word may hold for the next ones (R29). -/
def issued (h : Hdr) (d sa sb : BitVec 7) (u : Uses) (s : State) : State := s.setCc (s.cc.atIssue h d sa sb u)

/-- The word issued at clk `t` completes in `s`: the next address, the loop levels and the earliest next issue (R27, R137). -/
def ends (h : Hdr) (t : Nat) (s : State) : State := s.setCc (s.cc.complete t h.stall.toNat)

/-- The word `i` of any header, whose operand numbers and uses are given, completes from every state in which it issues and `P`
holds at its issue, and its effect there is `f`. -/
def Completes (i : Hdr → Instr) (d sa sb : BitVec 7) (u : Uses) (P : State → Prop) (f : State → State) : Prop :=
  ∀ h s, Issues h u s → P (issued h d sa sb u s) →
    exec (i h) s = .next (ends h (s.cc.atIssue h d sa sb u).tmg.clk (f (issued h d sa sb u s)))

/-- The state in which a word that waits inside its effect goes on: its guard and its operands stay as they were read (R24). -/
def goingOn (h : Hdr) (s : State) : State := s.setCc (s.cc.goOn h)

/-- As `Completes`, for a word that waits inside its effect: it completes from every state in which `P` holds as it goes on. -/
def GoesOn (i : Hdr → Instr) (P : State → Prop) (f : State → State) : Prop :=
  ∀ h s, s.cc.tmg.inside.isSome = true → P (goingOn h s) → exec (i h) s = .next (ends h s.cc.tmg.clk (f (goingOn h s)))

/-- The word that `s` issues at clk `t` waits a clk inside its effect, in the state `r` that it has reached: the clk of its issue and the
logical time then are noted, and the operand buffer is as it was before it (R24, R253). -/
def waitsInside (s : State) (t : Nat) (r : State) : State :=
  r.setCc (r.cc.setTmg fun m => { m with
    clk := t + 1, inside := some r.cc.lt, began := t, obuf := (s.cc.settle t).tmg.obuf })

/-- Where `P` holds at its issue, the word takes the exception `k` with this XVAL and no progress instead. -/
def Traps (i : Hdr → Instr) (d sa sb : BitVec 7) (u : Uses) (P : State → Prop) (k : Cause) (x : State → Word) : Prop :=
  ∀ h s, Issues h u s → P (issued h d sa sb u s) →
    exec (i h) s = .next ((issued h d sa sb u s).takeTrap s.cur k (x (issued h d sa sb u s)) 0)

/-- Nothing is asked of the state. -/
def always (_ : State) : Prop := True

/-- The current core alone changes. -/
def onCore (f : Core → Core) (s : State) : State := s.setCc (f s.cc)

/-- A word that reads `srcs` and writes one register with a latency, and does nothing else. -/
def Writes (i : Hdr → Instr) (srcs : List (BitVec 7)) (dst : BitVec 7) (lat : Nat) (w : Core → Wr) : Prop :=
  Completes i 0 0 0 { srcs := srcs, dsts := [dst] } always (onCore fun c => c.result c.tmg.clk lat (w c))
/-- Such a word with a general destination. -/
def WritesG (i : Hdr → Instr) (srcs : List GReg) (d : GReg) (lat : Nat) (v : Core → Word) : Prop :=
  Writes i (srcs.map opG) (opG d) lat fun c => .g d (v c)
/-- Such a word with a predicate destination. -/
def WritesP (i : Hdr → Instr) (srcs : List (BitVec 7)) (d : PReg) (lat : Nat) (v : Core → Bool) : Prop :=
  Writes i srcs (opP d) lat fun c => .p d (v c)

/-- The low 32 bits of a source (R110). -/
def lo (x : Word) : BitVec 32 := x.setWidth 32
/-- A result of 32 bits under `.w`, sign-extended, or of 64 bits (R110). -/
def byWidth (w : Bool) (x : BitVec 32) (y : Word) : Word := if w then x.signExtend 64 else y
/-- An immediate, signed or natural (R36). -/
def sx (x : BitVec 32) : Word := x.signExtend 64
def zx (x : BitVec 32) : Word := x.setWidth 64

end Sys2Proof.Claims

open Sys2Proof.Claims
/-! ## Scalar words (R103 to R127) -/

/-- R111: the ALU forms, with a latency of 1. -/
def Obligations.ScalarArithmetic : Prop :=
  ∀ (d a b : GReg) (w : Bool) (imm : BitVec 32),
    WritesG (.add · d a b w) [a, b] d 1 (fun c => byWidth w (lo (c.rdG a) + lo (c.rdG b)) (c.rdG a + c.rdG b)) ∧
    WritesG (.sub · d a b w) [a, b] d 1 (fun c => byWidth w (lo (c.rdG a) - lo (c.rdG b)) (c.rdG a - c.rdG b)) ∧
    WritesG (.neg · d a w) [a] d 1 (fun c => byWidth w (0 - lo (c.rdG a)) (0 - c.rdG a)) ∧
    WritesG (.andR · d a b) [a, b] d 1 (fun c => c.rdG a &&& c.rdG b) ∧
    WritesG (.orR · d a b) [a, b] d 1 (fun c => c.rdG a ||| c.rdG b) ∧
    WritesG (.xorR · d a b) [a, b] d 1 (fun c => c.rdG a ^^^ c.rdG b) ∧
    WritesG (.andn · d a b) [a, b] d 1 (fun c => c.rdG a &&& ~~~c.rdG b) ∧
    WritesG (.orn · d a b) [a, b] d 1 (fun c => c.rdG a ||| ~~~c.rdG b) ∧
    WritesG (.addi · d a w imm) [a] d 1 (fun c => byWidth w (lo (c.rdG a) + lo (sx imm)) (c.rdG a + sx imm)) ∧
    WritesG (.andi · d a imm) [a] d 1 (fun c => c.rdG a &&& sx imm) ∧
    WritesG (.ori · d a imm) [a] d 1 (fun c => c.rdG a ||| zx imm) ∧
    WritesG (.xori · d a imm) [a] d 1 (fun c => c.rdG a ^^^ zx imm)

/-- R112, R115 to R119: shifts, bit counts, fields, minima, moves and addresses, with a latency of 1. The shift amount is taken
modulo the width. -/
def Sys2Proof.Claims.ScalarBitsAndMoves : Prop :=
  ∀ (d a b : GReg) (w : Bool) (src : ShSrc) (pos : BitVec 6) (len : BitVec 7) (q p : PReg) (neg : Bool) (sc : BitVec 3)
    (imm : BitVec 32),
    let amount : Core → Nat := fun c => (match src with
      | .reg r => (c.rdG r).toNat
      | .imm n => n.toNat) % (if w then 32 else 64)
    let sh := match src with
      | .reg r => [a, r]
      | .imm _ => [a]
    WritesG (.shl · d a w src) sh d 1 (fun c => byWidth w (lo (c.rdG a) <<< amount c) (c.rdG a <<< amount c)) ∧
    WritesG (.shr · d a w src) sh d 1 (fun c => byWidth w (lo (c.rdG a) >>> amount c) (c.rdG a >>> amount c)) ∧
    WritesG (.shra · d a w src) sh d 1
      (fun c => byWidth w ((lo (c.rdG a)).sshiftRight (amount c)) ((c.rdG a).sshiftRight (amount c))) ∧
    WritesG (.rol · d a w src) sh d 1
      (fun c => byWidth w ((lo (c.rdG a)).rotateLeft (amount c)) ((c.rdG a).rotateLeft (amount c))) ∧
    WritesG (.ror · d a w src) sh d 1
      (fun c => byWidth w ((lo (c.rdG a)).rotateRight (amount c)) ((c.rdG a).rotateRight (amount c))) ∧
    WritesG (.clz · d a w) [a] d 1
      (fun c => byWidth w (BitVec.ofNat 32 (clz (lo (c.rdG a)))) (BitVec.ofNat 64 (clz (c.rdG a)))) ∧
    WritesG (.ctz · d a w) [a] d 1
      (fun c => byWidth w (BitVec.ofNat 32 (ctz (lo (c.rdG a)))) (BitVec.ofNat 64 (ctz (c.rdG a)))) ∧
    WritesG (.popc · d a w) [a] d 1
      (fun c => byWidth w (BitVec.ofNat 32 (popc (lo (c.rdG a)))) (BitVec.ofNat 64 (popc (c.rdG a)))) ∧
    WritesG (.brev · d a w) [a] d 1 (fun c => byWidth w (brev (lo (c.rdG a))) (brev (c.rdG a))) ∧
    WritesG (.bswap · d a w) [a] d 1 (fun c => byWidth w (bswap (lo (c.rdG a))) (bswap (c.rdG a))) ∧
    WritesG (.bfx · d a w pos len) [a] d 1
      (fun c => byWidth w (bfx pos.toNat len.toNat (lo (c.rdG a))) (bfx pos.toNat len.toNat (c.rdG a))) ∧
    WritesG (.bfxn · d a w pos len) [a] d 1
      (fun c => byWidth w (bfxn pos.toNat len.toNat (lo (c.rdG a))) (bfxn pos.toNat len.toNat (c.rdG a))) ∧
    WritesG (.bfi · d a w pos len) [d, a] d 1
      (fun c => byWidth w (bfi pos.toNat len.toNat (lo (c.rdG d)) (lo (c.rdG a))) (bfi pos.toNat len.toNat (c.rdG d) (c.rdG a))) ∧
    WritesG (.min · d a b w) [a, b] d 1 (fun c => byWidth w
      (if (lo (c.rdG b)).slt (lo (c.rdG a)) then lo (c.rdG b) else lo (c.rdG a))
      (if (c.rdG b).slt (c.rdG a) then c.rdG b else c.rdG a)) ∧
    WritesG (.minn · d a b w) [a, b] d 1 (fun c => byWidth w
      (if lo (c.rdG b) < lo (c.rdG a) then lo (c.rdG b) else lo (c.rdG a))
      (if c.rdG b < c.rdG a then c.rdG b else c.rdG a)) ∧
    WritesG (.max · d a b w) [a, b] d 1 (fun c => byWidth w
      (if (lo (c.rdG a)).slt (lo (c.rdG b)) then lo (c.rdG b) else lo (c.rdG a))
      (if (c.rdG a).slt (c.rdG b) then c.rdG b else c.rdG a)) ∧
    WritesG (.maxn · d a b w) [a, b] d 1 (fun c => byWidth w
      (if lo (c.rdG a) < lo (c.rdG b) then lo (c.rdG b) else lo (c.rdG a))
      (if c.rdG a < c.rdG b then c.rdG b else c.rdG a)) ∧
    Writes (.sel · d a b p neg) [opG a, opG b, opP p] (opG d) 1
      (fun c => .g d (if (c.rdP p ^^ neg) = true then c.rdG a else c.rdG b)) ∧
    WritesG (.mov · d a) [a] d 1 (fun c => c.rdG a) ∧
    WritesG (.movi · d imm) [] d 1 (fun _ => sx imm) ∧
    WritesG (.movhi · d imm) [d] d 1 (fun c => imm ++ lo (c.rdG d)) ∧
    Writes (.movp · (.toG d p)) [opP p] (opG d) 1 (fun c => .g d (if c.rdP p then 1 else 0)) ∧
    WritesP (.movp · (.toP q a)) [opG a] q 1 (fun c => decide (c.rdG a ≠ 0)) ∧
    WritesG (.lea · d a b sc imm) [a, b] d 1 (fun c => c.rdG a + (c.rdG b <<< sc.toNat) + sx imm)

/-- R113: the products, with latencies of 3 and 4. R114, R104: the divider's forms, whose result is interlocked in both modes and
takes the divider for a time that depends on the operands alone. -/
def Sys2Proof.Claims.ScalarProductsAndQuotients : Prop :=
  ∀ (d a b : GReg) (w : Bool),
    let divides (i : Hdr → Instr) (signed : Bool) (v : Core → Word) : Prop :=
      Completes i 0 0 0 { srcs := [opG a, opG b], dsts := [opG d], unit := .div } always (onCore fun c =>
        (c.lockedResult c.tmg.clk (divLatencyW w signed (c.rdG a) (c.rdG b)) (.g d (v c))).setTmg fun m =>
          { m with divBusy := c.tmg.clk + divLatencyW w signed (c.rdG a) (c.rdG b) })
    WritesG (.mul · d a b w) [a, b] d 3 (fun c => byWidth w (lo (c.rdG a) * lo (c.rdG b)) (c.rdG a * c.rdG b)) ∧
    WritesG (.mulh · d a b w) [a, b] d 4
      (fun c => byWidth w (mulHigh (lo (c.rdG a)) (lo (c.rdG b))) (mulHigh (c.rdG a) (c.rdG b))) ∧
    WritesG (.mulhn · d a b w) [a, b] d 4
      (fun c => byWidth w (mulHighN (lo (c.rdG a)) (lo (c.rdG b))) (mulHighN (c.rdG a) (c.rdG b))) ∧
    divides (.div · d a b w) true
      (fun c => byWidth w (idivS (lo (c.rdG a)) (lo (c.rdG b))).1 (idivS (c.rdG a) (c.rdG b)).1) ∧
    divides (.rem · d a b w) true
      (fun c => byWidth w (idivS (lo (c.rdG a)) (lo (c.rdG b))).2 (idivS (c.rdG a) (c.rdG b)).2) ∧
    divides (.divn · d a b w) false
      (fun c => byWidth w (idivN (lo (c.rdG a)) (lo (c.rdG b))).1 (idivN (c.rdG a) (c.rdG b)).1) ∧
    divides (.remn · d a b w) false
      (fun c => byWidth w (idivN (lo (c.rdG a)) (lo (c.rdG b))).2 (idivN (c.rdG a) (c.rdG b)).2)

/-- R120, R139: comparisons and predicate logic, with a latency of 1. -/
def Obligations.ComparisonsAndPredicates : Prop :=
  ∀ (d p q : PReg) (a b : GReg) (na nb w : Bool) (imm : BitVec 32),
    let cond (cc : Nat) (x y : Word) : Bool :=
      let s64 (f : Word → Word → Bool) (g : BitVec 32 → BitVec 32 → Bool) : Bool := if w then g (lo x) (lo y) else f x y
      match cc with
      | 0 => s64 (fun x y => decide (x = y)) (fun x y => decide (x = y))
      | 1 => s64 (fun x y => decide (x ≠ y)) (fun x y => decide (x ≠ y))
      | 2 => s64 (fun x y => decide (x.toInt < y.toInt)) (fun x y => decide (x.toInt < y.toInt))
      | 3 => s64 (fun x y => decide (y.toInt ≤ x.toInt)) (fun x y => decide (y.toInt ≤ x.toInt))
      | 4 => s64 (fun x y => decide (x.toNat < y.toNat)) (fun x y => decide (x.toNat < y.toNat))
      | 5 => s64 (fun x y => decide (y.toNat ≤ x.toNat)) (fun x y => decide (y.toNat ≤ x.toNat))
      | 6 => s64 (fun x y => decide (x &&& y ≠ 0)) (fun x y => decide (x &&& y ≠ 0))
      | _ => s64 (fun x y => decide (x &&& y = 0)) (fun x y => decide (x &&& y = 0))
    (∀ cc : Fin 8,
      WritesP (.cmp · d a (BitVec.ofNat 4 cc.val) w (.reg b)) [opG a, opG b] d 1 (fun c => cond cc.val (c.rdG a) (c.rdG b)) ∧
      WritesP (.cmp · d a (BitVec.ofNat 4 cc.val) w (.imm imm)) [opG a] d 1 (fun c => cond cc.val (c.rdG a) (sx imm))) ∧
    WritesP (.pand · d p q na nb) [opP p, opP q] d 1 (fun c => (c.rdP p ^^ na) && (c.rdP q ^^ nb)) ∧
    WritesP (.por · d p q na nb) [opP p, opP q] d 1 (fun c => (c.rdP p ^^ na) || (c.rdP q ^^ nb)) ∧
    WritesP (.pxor · d p q na nb) [opP p, opP q] d 1 (fun c => (c.rdP p ^^ na) ^^ (c.rdP q ^^ nb)) ∧
    WritesP (.pnot · d p) [opP p] d 1 (fun c => !c.rdP p) ∧
    WritesP (.pmov · d p) [opP p] d 1 (fun c => c.rdP p)

/-- R113, R114: what the products and quotients are. The high half of a product, with the low half below it, is the exact
product; a quotient times the divisor with the remainder added is the dividend, and the remainder is smaller than the divisor and
has the dividend's sign; a division by zero gives all ones and the dividend, the most negative number over −1 itself and 0. -/
def Sys2Proof.Claims.ProductAndQuotientLaws : Prop :=
  ∀ (n : Nat) (a b : BitVec n), 0 < n →
    (mulHigh a b).toInt * 2 ^ n + (a * b).toNat = a.toInt * b.toInt ∧
    (mulHighN a b).toNat * 2 ^ n + (a * b).toNat = a.toNat * b.toNat ∧
    (b = 0 → idivS a b = (BitVec.allOnes n, a) ∧ idivN a b = (BitVec.allOnes n, a)) ∧
    (b ≠ 0 → (idivN a b).1.toNat * b.toNat + (idivN a b).2.toNat = a.toNat ∧ (idivN a b).2.toNat < b.toNat) ∧
    (a = BitVec.intMin n → b = BitVec.allOnes n → b ≠ 0 → idivS a b = (a, 0)) ∧
    (b ≠ 0 → ¬(a = BitVec.intMin n ∧ b = BitVec.allOnes n) →
      (idivS a b).1.toInt * b.toInt + (idivS a b).2.toInt = a.toInt ∧
      (idivS a b).2.toInt.natAbs < b.toInt.natAbs ∧ ((idivS a b).2 = 0 ∨ ((idivS a b).2.toInt < 0 ↔ a.toInt < 0)))

/-- R115, R116: what the bit forms are. -/
def Sys2Proof.Claims.BitCountLaws : Prop :=
  ∀ (n : Nat) (a : BitVec n), 0 < n →
    (a = 0 → clz a = n ∧ ctz a = n) ∧
    (a ≠ 0 → clz a < n ∧ a.getLsbD (n - 1 - clz a) = true ∧ ∀ i, n - 1 - clz a < i → a.getLsbD i = false) ∧
    (a ≠ 0 → ctz a < n ∧ a.getLsbD (ctz a) = true ∧ ∀ i, i < ctz a → a.getLsbD i = false) ∧
    popc a = ((List.range n).filter fun i => a.getLsbD i).length ∧
    (∀ i, i < n → (brev a).getLsbD i = a.getLsbD (n - 1 - i)) ∧
    (∀ pos len i : Nat, i < n →
      ((bfxn pos len a).getLsbD i = (decide (i < len) && decide (pos + i < n) && a.getLsbD (pos + i))) ∧
      (∀ d : BitVec n, (bfi pos len d a).getLsbD i =
        if pos ≤ i ∧ i < pos + len then a.getLsbD (i - pos) else d.getLsbD i))

/-- R122 to R127, R101: the scalar floating-point forms. The arithmetic ones round the exact result once with lane 0's generator,
and write with a latency of 4; the divider's are interlocked and take the divider; comparisons, classes, minima and sign forms take
2; FFLAGS gains the flags raised. -/
def Obligations.ScalarFloat : Prop :=
  ∀ (d a b : GReg) (p : PReg) (rm cc src dt : BitVec 3) (f32 : Bool),
    let f := if f32 then fp32 else fp64
    let pat (x : Word) : Nat := if f32 then (lo x).toNat else x.toNat
    let val (c : Core) (r : GReg) : Ex := f.value (pat (c.rdG r))
    let rdn (c : Core) : Bool := c.regs.fp.mode rm == modeRDN
    let rounds (i : Hdr → Instr) (srcs : List GReg) (x : Core → Ex) : Prop :=
      Completes i 0 0 0 { srcs := srcs.map opG, dsts := [opG d] } always (onCore fun c =>
        (c.setFp fun _ => (c.regs.fp.round f rm 0 (x c)).2.raise 0).result c.tmg.clk 4
          (.g d (BitVec.ofNat 64 (c.regs.fp.round f rm 0 (x c)).1)))
    let divides (i : Hdr → Instr) (srcs : List GReg) (lat : Core → Nat) (x : Core → Ex) (fl : Core → BitVec 5) : Prop :=
      Completes i 0 0 0 { srcs := srcs.map opG, dsts := [opG d], unit := .div } always (onCore fun c =>
        ((c.setFp fun _ => (c.regs.fp.round f rm 0 (x c)).2.raise (fl c)).lockedResult c.tmg.clk (lat c)
          (.g d (BitVec.ofNat 64 (c.regs.fp.round f rm 0 (x c)).1))).setTmg fun m => { m with divBusy := c.tmg.clk + lat c })
    let moves (i : Hdr → Instr) (srcs : List GReg) (x : Core → Nat × BitVec 5) : Prop :=
      Completes i 0 0 0 { srcs := srcs.map opG, dsts := [opG d] } always (onCore fun c =>
        (c.setFp fun t => t.raise (x c).2).result c.tmg.clk 2 (.g d (BitVec.ofNat 64 (x c).1)))
    rounds (.fadd · d a b rm f32) [a, b] (fun c => (val c a).add (rdn c) (val c b)) ∧
    rounds (.fsub · d a b rm f32) [a, b] (fun c => (val c a).add (rdn c) (val c b).negate) ∧
    rounds (.fmul · d a b rm f32) [a, b] (fun c => (val c a).mul (val c b)) ∧
    rounds (.fma · d a b rm f32) [d, a, b] (fun c => Ex.fma (rdn c) (val c a) (val c b) (val c d)) ∧
    divides (.fdiv · d a b rm f32) [a, b] (fun c => fdivLatency f32 (val c a) (val c b)) (fun c => (val c a).div (val c b))
      (fun c => divFlags (val c a) (val c b)) ∧
    divides (.fsqrt · d a rm f32) [a] (fun c => fsqrtLatency f32 (val c a)) (fun c => (val c a).sqrt) (fun _ => 0) ∧
    Completes (.fcmp · p a b cc f32) 0 0 0 { srcs := [opG a, opG b], dsts := [opP p] } always (onCore fun c =>
      (c.setFp fun t => t.raise (fcmpCond cc (val c a) (val c b)).2).result c.tmg.clk 2
        (.p p (fcmpCond cc (val c a) (val c b)).1)) ∧
    moves (.fclass · d a f32) [a] (fun c => (fclassBits f (pat (c.rdG a)), 0)) ∧
    moves (.fmin · d a b f32) [a, b] (fun c => fminmax f false (pat (c.rdG a)) (pat (c.rdG b))) ∧
    moves (.fmax · d a b f32) [a, b] (fun c => fminmax f true (pat (c.rdG a)) (pat (c.rdG b))) ∧
    moves (.fabs · d a f32) [a] (fun c => (pat (c.rdG a) % 2 ^ (f.width - 1), 0)) ∧
    moves (.fneg · d a f32) [a] (fun c => (pat (c.rdG a) ^^^ 2 ^ (f.width - 1), 0)) ∧
    moves (.fcpys · d a b f32) [a, b] (fun c =>
      (pat (c.rdG a) % 2 ^ (f.width - 1) + pat (c.rdG b) / 2 ^ (f.width - 1) * 2 ^ (f.width - 1), 0)) ∧
    Completes (.scvt · src dt d a rm) 0 0 0 { srcs := [opG a], dsts := [opG d] } always (onCore fun c =>
      let r := c.regs.fp.round (scvtFmt dt) rm 0 ((scvtFmt src).value ((c.rdG a).toNat % 2 ^ (scvtFmt src).width))
      (c.setFp fun _ => r.2).result c.tmg.clk 4
        (.g d (if dt = 1 then (BitVec.ofNat 32 r.1).signExtend 64 else BitVec.ofNat 64 r.1)))

/-! ## Control flow (R128 to R152) -/

/-- R129, R134, R135: a taken transfer. The target of BR and CALL is the word's own address plus the immediate, that of JR, CALLR
and RET comes from a register; the calls write the address of the next word to the link register. A target that is no multiple
of 4 takes ALIGN with the target as XVAL, and no link is written. -/
def Sys2Proof.Claims.ControlTransfers : Prop :=
  ∀ (d a : GReg) (lx : Bool) (imm : BitVec 32),
    let goes (i : Hdr → Instr) (u : Uses) (target : Core → Word) (link : Option GReg) (lx : Bool) : Prop :=
      (∀ h s, Issues h u s → (target (issued h 0 0 0 u s).cc).toNat % 4 = 0 →
        let c := (issued h 0 0 0 u s).cc
        let c1 := match link with
          | some r => c.result c.tmg.clk 1 (.g r (c.regs.pc + 12))
          | none => c
        exec (i h) s = .next (s.setCc (c1.transfer c.tmg.clk h.stall.toNat (target c) lx))) ∧
      Traps i 0 0 0 u (fun s => (target s.cc).toNat % 4 ≠ 0) .align (fun s => target s.cc)
    goes (.br · lx imm) {} (fun c => c.regs.pc + sx imm) none lx ∧
    goes (.call · d imm) { dsts := [opG d] } (fun c => c.regs.pc + sx imm) (some d) false ∧
    goes (.jr · a lx imm) { srcs := [opG a] } (fun c => c.rdG a + sx imm) none lx ∧
    goes (.callr · d a imm) { srcs := [opG a], dsts := [opG d] } (fun c => c.rdG a + sx imm) (some d) false ∧
    goes (.ret · a) { srcs := [opG a] } (fun c => c.rdG a) none false

/-- R135: what a transfer does to its core: the program counter is the target, `.lx` ends the innermost active level and leaves the
other one, with no level active it leaves both, the registers and the memory ports are otherwise as they were, and XPROG is zero where
EXL is 0 (R40). -/
def Sys2Proof.Claims.TransferRegisters : Prop :=
  ∀ (c : Core) (t stall : Nat) (target : Word) (lx : Bool),
    let r := c.transfer t stall target lx
    r.regs.pc = target ∧ r.regs.g = c.regs.g ∧ r.regs.p = c.regs.p ∧ r.regs.k = c.regs.k ∧ r.regs.v = c.regs.v ∧
      r.regs.strm = c.regs.strm ∧ r.regs.fp = c.regs.fp ∧ r.slices = c.slices ∧ r.spad = c.spad ∧ r.lt = c.lt ∧
      (lx = false → r.regs.loops = c.regs.loops) ∧
      (lx = true → c.regs.loops[1].v = true → r.regs.loops[1].v = false ∧ r.regs.loops[1].count = 0 ∧
        r.regs.loops[0] = c.regs.loops[0]) ∧
      (lx = true → c.regs.loops[1].v = false → c.regs.loops[0].v = true → r.regs.loops[0].v = false ∧ r.regs.loops[0].count = 0 ∧
        r.regs.loops[1] = c.regs.loops[1]) ∧
      (lx = true → c.regs.loops[1].v = false → c.regs.loops[0].v = false → r.regs.loops = c.regs.loops) ∧
      r.regs.trap.exl = c.regs.trap.exl ∧
      r.regs.trap.xprog = (if c.regs.trap.exl then c.regs.trap.xprog else 0) ∧
      t + 1 + stall ≤ r.tmg.clk

/-- R136: LOOP and LOOPI. With a count above zero the next level takes the count and the body that follows; with a count of zero
the body is passed over; with both levels active the word takes ILLEGAL_OPC with XVAL 9. Setting the levels changes nothing else but the
loop buffer (R130). -/
def Sys2Proof.Claims.LoopForms : Prop :=
  ∀ (a : GReg) (len : BitVec 8) (cnt : BitVec 24),
    let loops (i : Hdr → Instr) (u : Uses) (count : Core → Word) : Prop :=
      Completes i 0 0 0 u (fun s => (s.cc.regs.loops[0].v && s.cc.regs.loops[1].v) = false ∧ count s.cc ≠ 0)
        (onCore fun c =>
          let l : LoopLvl := { v := true, len1 := len, beg := (c.regs.pc + 12).extractLsb' 2 54, count := count c }
          c.setLoops (if c.regs.loops[0].v then c.regs.loops.set 1 l else c.regs.loops.set 0 l)) ∧
      (∀ h s, Issues h u s → ((issued h 0 0 0 u s).cc.regs.loops[0].v && (issued h 0 0 0 u s).cc.regs.loops[1].v) = false →
        count (issued h 0 0 0 u s).cc = 0 →
        let c := (issued h 0 0 0 u s).cc
        let c1 := c.complete c.tmg.clk h.stall.toNat
        exec (i h) s = .next (s.setCc
          (if c1.regs.pc = c.regs.pc + 12 then c1.setPc (c.regs.pc + 12 * (len.setWidth 64 + 2)) else c1))) ∧
      Traps i 0 0 0 u (fun s => s.cc.regs.loops[0].v = true ∧ s.cc.regs.loops[1].v = true) .illegalOpc (fun _ => 9)
    loops (.loop · a len) { srcs := [opG a] } (fun c => c.rdG a) ∧
    loops (.loopi · len cnt) {} (fun _ => cnt.setWidth 64) ∧
    ∀ (c : Core) (ls : Vector LoopLvl 2), (c.setLoops ls).regs = { c.regs with loops := ls } ∧
      (c.setLoops ls).tmg = { c.tmg with loopBuf := (c.setLoops ls).tmg.loopBuf } ∧
      (c.setLoops ls).spad = c.spad ∧ (c.setLoops ls).lt = c.lt

/-- R137: the next address after a word at `a`. Where the innermost active level's last word stands there, its count falls by one
and the sequencer goes back to the level's begin while a count is left, else the level ends; level 0 is visited then, whether or not it
is active. Elsewhere the next word follows. A count of 0 wraps and so loops back (log 159). -/
def Sys2Proof.Claims.LoopSequencing : Prop :=
  ∀ (ls : Vector LoopLvl 2) (a : Word),
    let inner := ls[1].v = true ∧ a = ls[1].last
    let outer := ls[0].v = true ∧ a = ls[0].last
    let ended : Vector LoopLvl 2 := ls.set 1 { ls[1] with v := false, count := 0 }
    (inner → ls[1].count ≠ 1 →
      loopNext ls a = (ls[1].begin, ls.set 1 { ls[1] with count := ls[1].count - 1 }, true)) ∧
    (inner → ls[1].count = 1 → a ≠ ls[0].last → loopNext ls a = (a + 12, ended, false)) ∧
    (inner → ls[1].count = 1 → a = ls[0].last → ls[0].count ≠ 1 →
      loopNext ls a = (ls[0].begin, ended.set 0 { ls[0] with count := ls[0].count - 1 }, true)) ∧
    (inner → ls[1].count = 1 → a = ls[0].last → ls[0].count = 1 →
      loopNext ls a = (a + 12, ended.set 0 { ls[0] with v := false, count := 0 }, false)) ∧
    (ls[1].v = true → a ≠ ls[1].last → loopNext ls a = (a + 12, ls, false)) ∧
    (ls[1].v = false → outer → ls[0].count ≠ 1 →
      loopNext ls a = (ls[0].begin, ls.set 0 { ls[0] with count := ls[0].count - 1 }, true)) ∧
    (ls[1].v = false → outer → ls[0].count = 1 →
      loopNext ls a = (a + 12, ls.set 0 { ls[0] with v := false, count := 0 }, false)) ∧
    (ls[1].v = false → ¬outer → loopNext ls a = (a + 12, ls, false))

/-- R140 to R142: NOP has no effect; TIMED and CHECKED change the timing mode, CHECKED once every fixed-latency result is visible. -/
def Obligations.NopAndTimingModes : Prop :=
  Completes .nop 0 0 0 {} always id ∧
  Completes .timed 0 0 0 {} always (onCore fun c => c.setTrap fun t => { t with tim := true }) ∧
  Completes .checked 0 0 0 { empty := .fixed } always (onCore fun c => c.setTrap fun t => { t with tim := false }) ∧
  ∀ (h : Hdr) (s : State), ∀ f ∈ s.cc.tmg.flights, f.locked = false →
    f.land ≤ (s.cc.atIssue h 0 0 0 { empty := .fixed }).tmg.clk

/-- R145 to R149: GANG waits until every core of its range waits with the same operands, and the gang of those cores then exists;
it traps on the operands and memberships that R145 names. GSPLIT and GJOIN outside a gang, and GSPLIT on a member that has left
lock step, only advance; the leader's GSPLIT ends the gang. -/
def Obligations.Gangs : Prop :=
  ∀ (base num : BitVec 5) (h : Hdr) (s : State),
    (Issues h {} s →
      let s1 := issued h 0 0 0 {} s
      (badGang s1 s.cur base.toNat num.toNat = true →
        exec (.gang h base num) s = .next (s1.takeTrap s.cur .illegalOpc 0x0A 0)) ∧
      (badGang s1 s.cur base.toNat num.toNat = false → (s1.gangOf s.cur).isSome = true →
        exec (.gang h base num) s = .next (s1.takeTrap s.cur .illegalOpc 0x0B 0)) ∧
      (badGang s1 s.cur base.toNat num.toNat = false → s1.gangOf s.cur = none → s1.cc.yieldReq = false →
        let all := (List.range num.toNat).all fun j =>
          ((s1.setCc { s1.cc with wait := .gang base.toNat num.toNat }).core (clusterOf s.cur * 24 + base.toNat + j)).wait ==
            .gang base.toNat num.toNat
        ∃ t, exec (.gang h base num) s = .next t ∧
          (all = false → t = s1.setCc { s1.cc with wait := .gang base.toNat num.toNat, waitStall := h.stall.toNat }) ∧
          (all = true → ∃ g ∈ (t.cluster (clusterOf s.cur)).gangs, g.base = base.toNat ∧ g.num = num.toNat ∧ g.split = [])) ∧
      (s1.gangOf s.cur = none → exec (.gsplit h) s = .next (ends h s1.cc.tmg.clk s1)) ∧
      (∀ g j, s1.gangOf s.cur = some (g, j) → j ≠ 0 → g.split.contains j = true →
        exec (.gsplit h) s = .next (ends h s1.cc.tmg.clk s1)) ∧
      (∀ g, s1.gangOf s.cur = some (g, 0) → ∃ t, exec (.gsplit h) s = .next t ∧
        ∀ x ∈ (t.cluster (clusterOf s.cur)).gangs, x.base ≠ g.base)) ∧
    (Issues { h with grd := 0 } { srcs := [opP (guardReg h)] } s →
      let s1 := issued { h with grd := 0 } 0 0 0 { srcs := [opP (guardReg h)] } s
      (s1.gangOf s.cur = none → exec (.gjoin h) s = .next (ends h s1.cc.tmg.clk s1)) ∧
      (∀ g j, s1.gangOf s.cur = some (g, j) → (g.split.isEmpty || (decide (j ≠ 0) && !g.split.contains j)) = true →
        exec (.gjoin h) s = .next (ends h s1.cc.tmg.clk (s1.setCc (s1.cc.emptyBuffers true)))))

/-! ## Vector words (R251 to R286) -/

namespace Sys2Proof.Claims

/-- A vector source that a word reads from its register: no stream is bound to it, and its tag is allowed and not POISON
(R76, R258, R286). -/
def Reads (c : Core) (r : VReg) (allow : Tag → Bool) : Prop :=
  c.bound r = none ∧ isPoison (c.rdV r).tag = false ∧ allow (c.rdV r).tag = true

/-- The sources and the destination of a vector form let it complete on registers (R76, R268, R286). -/
def Ready (p : VForm) (d : VReg) (a : List VReg) (b : Option VGSrc) (s : State) : Prop :=
  (∀ r ∈ a, Reads s.cc r p.allowA) ∧
  (match b with
    | some (.v r) => Reads s.cc r p.allowB
    | _ => True) ∧
  s.cc.bound d = none ∧ (p.dstSource = true → isPoison (s.cc.rdV d).tag = false ∧ (s.cc.rdV d).tag = p.tag)

/-- Element e of the second source: of a vector register, or the low bits of a general one (R268). -/
def second (w : Nat) (b : Option VGSrc) (c : Core) (e : Nat) : Nat :=
  match b with
  | some (.v r) => elem w (c.rdV r).bits e
  | some (.g r) => (c.rdG r).toNat % 2 ^ w
  | none => 0

/-- The operand numbers of the second source. -/
def nums (b : Option VGSrc) : List (BitVec 7) :=
  match b with
  | some x => [opVG x]
  | none => []

/-- An element-wise word without flags: active elements by `op` from a, b and the old DST, inactive ones zero under `.z` and else
kept (R268), written with the form's latency and tag. -/
def Elements (i : Hdr → Instr) (p : VForm) (d a : VReg) (b : Option VGSrc) (op : Nat → Nat → Nat → Nat) : Prop :=
  Completes i (opV d) (opV a) ((nums b).headD 0) (vUses (opV d) p.dstSource (opV a :: nums b) p.km p.fp) (Ready p d [a] b)
    (onCore fun c => (c.busyFp p.fp).result c.tmg.clk p.lat (.v d ⟨ofElems p.w ((List.range (1024 / p.w)).map fun e =>
      if (c.rdK p.km).getLsbD e then op (elem p.w (c.rdV a).bits e) (second p.w b c e) (elem p.w (c.rdV d).bits e)
      else if p.z then 0 else elem p.w (c.rdV d).bits e), p.tag⟩))

/-- An element-wise floating-point word: the elements in ascending order, each on the flags and generators that the ones before it
left (R268, R271); `skip` is what an inactive element does to them. -/
def FpElements (i : Hdr → Instr) (p : VForm) (d a : VReg) (b : Option VGSrc)
    (op : Nat → Nat → Nat → Nat → FpRegs → Nat × FpRegs) (skip : Nat → FpRegs → FpRegs) : Prop :=
  Completes i (opV d) (opV a) ((nums b).headD 0) (vUses (opV d) p.dstSource (opV a :: nums b) p.km p.fp) (Ready p d [a] b)
    (onCore fun c =>
      let r := mapElems (1024 / p.w) (fun e => (c.rdK p.km).getLsbD e) (fun e => if p.z then 0 else elem p.w (c.rdV d).bits e)
        (fun e => op e (elem p.w (c.rdV a).bits e) (second p.w b c e) (elem p.w (c.rdV d).bits e)) skip c.regs.fp
      ((c.setFp fun _ => r.2).busyFp p.fp).result c.tmg.clk p.lat (.v d ⟨ofElems p.w r.1, p.tag⟩))

/-- A comparison into a mask: one bit for each element, inactive bits zero under `.z` and else kept (R268, R273). -/
def MaskElements (i : Hdr → Instr) (p : VForm) (d : KReg) (a : VReg) (b : VGSrc)
    (op : Nat → Nat → FpRegs → Bool × FpRegs) : Prop :=
  Completes i (opK d) (opV a) (opVG b) (vUses (opK d) p.dstSource [opV a, opVG b] p.km p.fp)
    (fun s => Reads s.cc a p.allowA ∧ match b with
      | .v r => Reads s.cc r p.allowB
      | .g _ => True)
    (onCore fun c =>
      let r := mapElems (1024 / p.w) (fun e => (c.rdK p.km).getLsbD e)
        (fun e => if p.z then 0 else ((c.rdK d).getLsbD e).toNat)
        (fun e fp => ((op (elem p.w (c.rdV a).bits e) (second p.w (some b) c e) fp).1.toNat,
          (op (elem p.w (c.rdV a).bits e) (second p.w (some b) c e) fp).2)) (fun _ fp => fp) c.regs.fp
      ((c.setFp fun _ => r.2).busyFp p.fp).result c.tmg.clk p.lat
        (.k d (r.1.foldr (fun x (acc : Mask) => (acc <<< 1) ||| BitVec.ofNat 128 x) 0)))

end Sys2Proof.Claims

/-- R268 to R270: the integer and logic forms: latency 2, sources of the code's format, the result under the code's tag. -/
def Sys2Proof.Claims.VectorIntegers : Prop :=
  ∀ (code : BitVec 6) (d a : VReg) (k : KReg) (b : VGSrc) (stm : Bool) (km : KReg) (z : Bool),
    let f := codeFmt code
    let w := f.width
    let p : VForm := { w := w, tag := codeTag code, lat := 2, stm := stm, km := km, z := z,
                       allowA := hasCode code, allowB := hasCode code }
    let two (i : Hdr → Instr) (op : Nat → Nat → Nat) : Prop := Elements i p d a (some b) (fun x y _ => op x y)
    two (.vadd · code d a b stm km z) (fun x y => (x + y) % 2 ^ w) ∧
    two (.vsub · code d a b stm km z) (fun x y => wrapTo w (x - y)) ∧
    two (.vadds · code d a b stm km z) (fun x y => satTo f (intOf f x + intOf f y)) ∧
    two (.vsubs · code d a b stm km z) (fun x y => satTo f (intOf f x - intOf f y)) ∧
    Elements (.vabs · code d a stm km z) p d a none (fun x _ _ => wrapTo w (signedOf w x).natAbs) ∧
    two (.vmul · code d a b stm km z) (fun x y => x * y % 2 ^ w) ∧
    two (.vmulh · code d a b stm km z) (fun x y => wrapTo w (signedOf w x * signedOf w y / 2 ^ w)) ∧
    two (.vmulhn · code d a b stm km z) (fun x y => x * y / 2 ^ w) ∧
    two (.vmin · code d a b stm km z) (fun x y => if intOf f x ≤ intOf f y then x else y) ∧
    two (.vminn · code d a b stm km z) (fun x y => min x y) ∧
    two (.vmax · code d a b stm km z) (fun x y => if intOf f y ≤ intOf f x then x else y) ∧
    two (.vmaxn · code d a b stm km z) (fun x y => max x y) ∧
    two (.vand · code d a b stm km z) (fun x y => x &&& y) ∧
    two (.vor · code d a b stm km z) (fun x y => x ||| y) ∧
    two (.vxor · code d a b stm km z) (fun x y => x ^^^ y) ∧
    two (.vandn · code d a b stm km z) (fun x y => x &&& (y ^^^ (2 ^ w - 1))) ∧
    two (.vshl · code d a b stm km z) (fun x y => x * 2 ^ (y % w) % 2 ^ w) ∧
    two (.vshr · code d a b stm km z) (fun x y => x / 2 ^ (y % w)) ∧
    two (.vshra · code d a b stm km z) (fun x y => wrapTo w (signedOf w x / 2 ^ (y % w))) ∧
    ∀ cc : BitVec 3, MaskElements (.vcmp · code k a b cc stm km z) p k a b (fun x y fp => (match cc.toNat with
      | 0 => decide (intOf f x = intOf f y)
      | 1 => decide (intOf f x ≠ intOf f y)
      | 2 => decide (intOf f x < intOf f y)
      | 3 => decide (intOf f x ≤ intOf f y)
      | 4 => decide (intOf f y < intOf f x)
      | _ => decide (intOf f y ≤ intOf f x), fp))

/-- R251, R269: what the elements are. A register is its elements, each of the bits at its place; the arithmetic is that of bit
vectors of the width, and a saturated result is the exact one brought into the format's range. -/
def Sys2Proof.Claims.ElementLaws : Prop :=
  (∀ (w : Nat) (xs : List Nat) (e : Nat), w ∈ [8, 16, 32, 64] → xs.length = 1024 / w → e < 1024 / w →
    elem w (ofElems w xs) e = xs.getD e 0 % 2 ^ w) ∧
  (∀ (w : Nat) (x : VData), w ∈ [8, 16, 32, 64] → ofElems w ((List.range (1024 / w)).map (elem w x)) = x) ∧
  (∀ (w x y : Nat), 0 < w → x < 2 ^ w → y < 2 ^ w →
    signedOf w x = (BitVec.ofNat w x).toInt ∧
    wrapTo w ((x : Int) - y) = (BitVec.ofNat w x - BitVec.ofNat w y).toNat ∧
    wrapTo w (signedOf w x * signedOf w y) = (BitVec.ofNat w x * BitVec.ofNat w y).toNat ∧
    ∀ k, wrapTo w (signedOf w x / 2 ^ k) = ((BitVec.ofNat w x).sshiftRight k).toNat) ∧
  (∀ (code : BitVec 6) (x : Int), code ∈ [0x08#6, 0x09#6, 0x0A#6, 0x0B#6, 0x0C#6, 0x0D#6, 0x0E#6, 0x0F#6] →
    let f := codeFmt code
    intOf f (satTo f x) = max (if f.signed then -(2 ^ (f.width - 1) : Int) else 0)
      (min ((if f.signed then 2 ^ (f.width - 1) else 2 ^ f.width : Int) - 1) x)) ∧
  (∀ (n : Nat) (act : Nat → Bool) (rest : Nat → Nat) (f : Nat → Nat) (fp : FpRegs),
    mapElems n act rest (fun e fp => (f e, fp)) noSkip fp = ((List.range n).map fun e => if act e then f e else rest e, fp))

/-- R271 to R273: the floating-point forms. Arithmetic rounds the exact result once in the lane of its element; divisions and
roots take 12 clk and the others 4; minima, sign forms and comparisons take 2; the faithful functions take 8. -/
def Obligations.VectorFloats : Prop :=
  ∀ (code : BitVec 6) (d a : VReg) (k : KReg) (b : VGSrc) (rm cc : BitVec 3) (stm : Bool) (km : KReg) (z : Bool),
    let f := codeFmt code
    let w := f.width
    let p (lat fp : Nat) (readsD : Bool) : VForm :=
      { w := w, tag := codeTag code, lat := lat, fp := fp, stm := stm, km := km, z := z,
        allowA := hasCode code, allowB := hasCode code, readsD := readsD }
    let rounds (i : Hdr → Instr) (p : VForm) (b : Option VGSrc) (x : Bool → Ex → Ex → Ex → Ex)
        (fl : Ex → Ex → BitVec 5) : Prop :=
      FpElements i p d a b (fun e x1 x2 x3 fp =>
        let r := fp.round f rm (laneOf w e) (x (fp.mode rm == modeRDN) (f.value x1) (f.value x2) (f.value x3))
        (r.1, r.2.raise (fl (f.value x1) (f.value x2)))) (srSkip w rm)
    let moves (i : Hdr → Instr) (p : VForm) (b : Option VGSrc) (x : Nat → Nat → Nat × BitVec 5) : Prop :=
      FpElements i p d a b (fun _ x1 x2 _ fp => ((x x1 x2).1, fp.raise (x x1 x2).2)) noSkip
    let faithfully (i : Hdr → Instr) (fn : SpecFn) : Prop :=
      FpElements i (p 8 2 false) d a none (fun _ x _ _ fp =>
        ((faithful fn f (fp.choice f.code) x).1, fp.raise (faithful fn f (fp.choice f.code) x).2)) noSkip
    rounds (.vfadd · code d a b rm stm km z) (p 4 2 false) (some b) (fun rdn x y _ => x.add rdn y) (fun _ _ => 0) ∧
    rounds (.vfsub · code d a b rm stm km z) (p 4 2 false) (some b) (fun rdn x y _ => x.add rdn y.negate) (fun _ _ => 0) ∧
    rounds (.vfmul · code d a b rm stm km z) (p 4 2 false) (some b) (fun _ x y _ => x.mul y) (fun _ _ => 0) ∧
    rounds (.vfdiv · code d a b rm stm km z) (p 12 8 false) (some b) (fun _ x y _ => x.div y) divFlags ∧
    rounds (.vfma · code d a b rm stm km z) (p 4 2 true) (some b) (fun rdn x y c => Ex.fma rdn x y c) (fun _ _ => 0) ∧
    rounds (.vfms · code d a b rm stm km z) (p 4 2 true) (some b) (fun rdn x y c => Ex.fma rdn x y c.negate) (fun _ _ => 0) ∧
    rounds (.vfnma · code d a b rm stm km z) (p 4 2 true) (some b) (fun rdn x y c => Ex.fma rdn x.negate y c) (fun _ _ => 0) ∧
    rounds (.vfnms · code d a b rm stm km z) (p 4 2 true) (some b) (fun rdn x y c => Ex.fma rdn x.negate y c.negate)
      (fun _ _ => 0) ∧
    rounds (.vsqrt · code d a rm stm km z) (p 12 8 false) none (fun _ x _ _ => x.sqrt) (fun _ _ => 0) ∧
    moves (.vfmin · code d a b stm km z) (p 2 1 false) (some b) (fminmax f false) ∧
    moves (.vfmax · code d a b stm km z) (p 2 1 false) (some b) (fminmax f true) ∧
    moves (.vfabs · code d a stm km z) (p 2 1 false) none (fun x _ => (x % 2 ^ (w - 1), 0)) ∧
    moves (.vfneg · code d a stm km z) (p 2 1 false) none (fun x _ => (x ^^^ 2 ^ (w - 1), 0)) ∧
    FpElements (.vfclass · code d a stm km z) { p 2 1 false with tag := classTag w } d a none
      (fun _ x _ _ fp => (fclassBits f x, fp)) noSkip ∧
    MaskElements (.vfcmp · code k a b cc stm km z) (p 2 1 false) k a b (fun x y fp =>
      ((fcmpCond cc (f.value x) (f.value y)).1, fp.raise (fcmpCond cc (f.value x) (f.value y)).2)) ∧
    faithfully (.vrcp · code d a stm km z) .rcp ∧ faithfully (.vrsq · code d a stm km z) .rsq ∧
    faithfully (.vexp2 · code d a stm km z) .exp2 ∧ faithfully (.vlog2 · code d a stm km z) .log2

namespace Sys2Proof.Claims

/-- A permute of latency 3 (R275): active elements by `f` from the elements of SA and SB, the result under SA's tag, which turns
POISON where an M64 source's values are not below their new lanes' moduli. -/
def Permutes (i : Hdr → Instr) (w : Nat) (allowA : Tag → Bool) (d a : VReg) (b : Option VGSrc) (num : BitVec 7) (stm : Bool)
    (km : KReg) (z : Bool) (f : Core → (Nat → Nat) → (Nat → Nat) → Nat → Nat) : Prop :=
  Completes i (opV d) (opV a) num (vUses (opV d) (keepsOld stm km z) [opV a, num] km 0)
    (fun s => Ready { w := w, tag := (s.cc.rdV a).tag, lat := 3, stm := stm, km := km, z := z, allowA := allowA } d [a] b s)
    (onCore fun c =>
      let x := ofElems w ((List.range (1024 / w)).map fun e =>
        if (c.rdK km).getLsbD e then f c (elem w (c.rdV a).bits) (second w b c) e
        else if z then 0 else elem w (c.rdV d).bits e)
      c.result c.tmg.clk 3 (.v d ⟨x, permTag (c.rdV a).tag c x⟩))

/-- A word that makes its elements from general registers alone, with a latency of 3. -/
def Spreads (i : Hdr → Instr) (code : BitVec 6) (d : VReg) (a : GReg) (stm : Bool) (km : KReg) (z : Bool)
    (f : Core → Nat → Nat) : Prop :=
  let w := (codeFmt code).width
  Completes i (opV d) 0 0 (vUses (opV d) (keepsOld stm km z) [opG a] km 0)
    (fun s => Ready { w := w, tag := codeTag code, lat := 3, stm := stm, km := km, z := z } d [] none s)
    (onCore fun c => c.result c.tmg.clk 3 (.v d ⟨ofElems w ((List.range (1024 / w)).map fun e =>
      if (c.rdK km).getLsbD e then f c e else if z then 0 else elem w (c.rdV d).bits e), codeTag code⟩))

/-- A register without stream whose value is not POISON (R77, R181). -/
def Whole (c : Core) (r : VReg) : Prop := c.bound r = none ∧ isPoison (c.rdV r).tag = false

end Sys2Proof.Claims

/-- R274 to R280: selection, broadcasts, permutes, single elements, index vectors and moves. -/
def Sys2Proof.Claims.VectorMoves : Prop :=
  ∀ (code : BitVec 6) (wc : BitVec 2) (d a b : VReg) (g r : GReg) (e : BitVec 32) (stm sgn : Bool) (km : KReg) (z : Bool)
    (imm : BitVec 32),
    let w := widthOf wc
    let cw := (codeFmt code).width
    let shift (c : Core) : Nat := (c.rdG g).toNat + imm.toNat
    Completes (.vsel · code d a b stm km) (opV d) (opV a) (opV b) (vUses (opV d) stm [opV a, opV b] km 0)
      (fun s => Ready { w := cw, tag := (s.cc.rdV a).tag, lat := 2, stm := stm, allowA := hasCode code,
                        allowB := fun t => t == (s.cc.rdV a).tag } d [a] (some (.v b)) s)
      (onCore fun c => c.result c.tmg.clk 2 (.v d ⟨ofElems cw ((List.range (1024 / cw)).map fun e =>
        if e < 128 then elem cw (if (c.rdK km).getLsbD e then (c.rdV a).bits else (c.rdV b).bits) e
        else elem cw (c.rdV d).bits e), (c.rdV a).tag⟩)) ∧
    Permutes (.vbcast · code d stm km z (.v a e)) cw (hasCode code) d a none (opG 0) stm km z
      (fun _ x _ _ => x (e.toNat % (1024 / cw))) ∧
    Spreads (.vbcast · code d stm km z (.g g)) code d g stm km z (fun c _ => (c.rdG g).toNat % 2 ^ cw) ∧
    Permutes (.vperm · wc d a b stm km z) w (fun _ => true) d a (some (.v b)) (opV b) stm km z
      (fun _ x y e => x (y e % (1024 / w))) ∧
    Permutes (.vslideup · wc d a g stm km z imm) w (fun _ => true) d a none (opG g) stm km z
      (fun c x _ e => if shift c ≤ e then x (e - shift c) else 0) ∧
    Permutes (.vslidedn · wc d a g stm km z imm) w (fun _ => true) d a none (opG g) stm km z
      (fun c x _ e => if e + shift c < 1024 / w then x (e + shift c) else 0) ∧
    Completes (.vext · wc r a g sgn imm) 0 (opV a) 0 { srcs := [opV a, opG g], dsts := [opG r] } (fun s => Whole s.cc a)
      (onCore fun c =>
        let x := elem w (c.rdV a).bits (shift c % (1024 / w))
        c.result c.tmg.clk 3 (.g r (if sgn then (BitVec.ofNat w x).signExtend 64 else (BitVec.ofNat w x).setWidth 64))) ∧
    Completes (.vins · wc d r g imm) (opV d) 0 0 { srcs := [opG r, opG g, opV d], dsts := [opV d] } (fun s => Whole s.cc d)
      (onCore fun c =>
        let x := setElem w (c.rdV d).bits (shift c % (1024 / w)) (c.rdG r).toNat
        c.result c.tmg.clk 3 (.v d ⟨x, permTag (c.rdV d).tag c x⟩)) ∧
    Spreads (.viota · code d g stm km z imm) code d g stm km z (fun c e => wrapTo cw ((c.rdG g).toNat + (e : Int) * imm.toInt)) ∧
    Completes (.vmov · d a) (opV d) (opV a) 0 { srcs := [opV a], dsts := [opV d] }
      (fun s => Whole s.cc a ∧ s.cc.bound d = none) (onCore fun c => c.result c.tmg.clk 3 (.v d (c.rdV a))) ∧
    Completes (.vmovgFromG · code d g) 0 0 0 { srcs := (List.range 16).map fun l => opG (gGroup g l), dsts := [opV d] }
      (fun s => s.cc.bound d = none) (onCore fun c => (c.result (c.tmg.clk + 5) 3
        (.v d ⟨ofLanes fun l => c.rdG (gGroup g l), codeTag code⟩)).setTmg fun m => { m with clk := m.clk + 6 }) ∧
    Completes (.vmovgToG · g a) 0 (opV a) 0 { srcs := [opV a], dsts := (List.range 16).map fun l => opG (gGroup g l) }
      (fun s => Whole s.cc a) (onCore fun c => ((List.range 16).foldl (fun c' l =>
        c'.result (c.tmg.clk + 5) 3 (.g (gGroup g l) (lane (c.rdV a).bits l))) c).setTmg fun m => { m with clk := m.clk + 6 })

/-- R281: the mask forms, with a latency of 1. -/
def Sys2Proof.Claims.Masks : Prop :=
  ∀ (d a b : KReg) (g : GReg) (n : BitVec 8) (hi : Bool),
    let writes (i : Hdr → Instr) (srcs : List (BitVec 7)) (v : Core → Mask) : Prop :=
      Writes i srcs (opK d) 1 fun c => .k d (v c)
    writes (.kand · d a b) [opK a, opK b] (fun c => c.rdK a &&& c.rdK b) ∧
    writes (.kor · d a b) [opK a, opK b] (fun c => c.rdK a ||| c.rdK b) ∧
    writes (.kxor · d a b) [opK a, opK b] (fun c => c.rdK a ^^^ c.rdK b) ∧
    writes (.knot · d a) [opK a] (fun c => ~~~c.rdK a) ∧
    Writes (.kcnt · g a n) [opK a] (opG g) 1 (fun c =>
      .g g (BitVec.ofNat 64 (((List.range 128).filter fun i => decide (i < n.toNat) && (c.rdK a).getLsbD i).length))) ∧
    writes (.kmov · (.kk d a)) [opK a] (fun c => c.rdK a) ∧
    writes (.kmov · (.kg hi d g)) [opG g, opK d] (fun c =>
      if hi then c.rdG g ++ (c.rdK d).extractLsb' 0 64 else (c.rdK d).extractLsb' 64 64 ++ c.rdG g) ∧
    Writes (.kmov · (.gk hi g a)) [opK a] (opG g) 1 (fun c => .g g ((c.rdK a).extractLsb' (if hi then 64 else 0) 64))

/-- R282: the reductions. The active elements are combined in a tree, level by level, each node of two neighbours in ascending
order and an absent one passed over (in SR it still steps the generator); element 0 is the outcome, or what the form gives where no element is active, and every other
element zero. -/
def Obligations.Reductions : Prop :=
  ∀ (code : BitVec 6) (d a : VReg) (rm : BitVec 3) (stm : Bool) (km : KReg),
    let f := codeFmt code
    let w := f.width
    let n := 1024 / w
    let reduces (i : Hdr → Instr) (lat fp : Nat) (empty : Nat) (op : Nat → Nat → FpRegs → Nat × FpRegs)
        (skip : FpRegs → FpRegs) : Prop :=
      Completes i (opV d) (opV a) 0 (vUses (opV d) false [opV a] km fp)
        (fun s => Reads s.cc a (hasCode code) ∧ s.cc.bound d = none)
        (onCore fun c =>
          let r := treeReduce op skip n.log2
            ((List.range n).map fun e => if (c.rdK km).getLsbD e then some (elem w (c.rdV a).bits e) else none) c.regs.fp
          ((c.setFp fun _ => r.2).busyFp fp).result c.tmg.clk lat (.v d ⟨BitVec.ofNat 1024 (r.1.getD empty), codeTag code⟩))
    let lat := 4 * n.log2
    reduces (.vradd · code d a stm km) 4 0 0 (fun x y fp => ((x + y) % 2 ^ w, fp)) id ∧
    reduces (.vrmin · code d a stm km) 4 0 f.maxCode (fun x y fp => (if intOf f x ≤ intOf f y then x else y, fp)) id ∧
    reduces (.vrmax · code d a stm km) 4 0 (if f.signed then 2 ^ (w - 1) else 0)
      (fun x y fp => (if intOf f y ≤ intOf f x then x else y, fp)) id ∧
    reduces (.vrfadd · code d a rm stm km) lat 2 0
      (fun x y fp => fp.round f rm 0 ((f.value x).add (fp.mode rm == modeRDN) (f.value y))) (fun fp => if fp.mode rm = modeSR then fp.stepSr 0 else fp) ∧
    reduces (.vrfmin · code d a stm km) lat 2 (f.inf false)
      (fun x y fp => ((fminmax f false x y).1, fp.raise (fminmax f false x y).2)) id ∧
    reduces (.vrfmax · code d a stm km) lat 2 (f.inf true)
      (fun x y fp => ((fminmax f true x y).1, fp.raise (fminmax f true x y).2)) id

/-- R255 to R259, R283 to R285: the port words, each from every state that meets conditions on it alone. SCFG on a free port completes: it
reads the 64 bytes of a descriptor that the checks admit and binds the register. SFREE on a bound port completes: the port is free. VLOOP
on a bound port with an element left and a free level completes: the loop takes one pass for each chunk that is left. SCFG on a bound port
or register takes STREAM with reason 4, SFREE and VLOOP on a free port with reason 6. -/
def Sys2Proof.Claims.Streams : Prop :=
  ∀ (d : VReg) (a : GReg) (port : Fin 4) (imm : BitVec 32) (len : BitVec 8),
    (∀ h s p q, let u : Uses := { srcs := [opG a], dsts := [opV d] }
      Issues h u s →
      let s1 := issued h 0 0 0 u s
      let x := s1.cc.rdG a + sx imm
      s1.cc.regs.strm[port] = none → s1.cc.bound d = none → s1.rangeHeld x 64 = false → s1.checkSpad x 64 64 = .ok p →
      let q1 := s1.touch s1.cur p 64
      q1.2 = false →
      let s2 := q1.1.coreRead q1.1.cur (p.home (clusterOf q1.1.cur))
      parseDesc (ofBytes 512 (s2.readPlace 64 p)) = some q →
      exec (.scfg h d a port imm) s = .next (ends h s1.cc.tmg.clk (s2.setCc
        ((s2.cc.setPort port (some { reg := d, desc := q })).setTmg fun m => { m with slips := m.slips + 1 })))) ∧
    Traps (.scfg · d a port imm) 0 0 0 { srcs := [opG a], dsts := [opV d] }
      (fun s => s.cc.regs.strm[port] ≠ none ∨ s.cc.bound d ≠ none) .stream (fun _ => streamVal 4 (opV d)) ∧
    Completes (.sfree · port) 0 0 0 {} (fun s => s.cc.regs.strm[port] ≠ none) (onCore fun c => c.setPort port none) ∧
    Traps (.sfree · port) 0 0 0 {} (fun s => s.cc.regs.strm[port] = none) .stream (fun _ => BitVec.ofNat 64 (0x600 + port.val)) ∧
    (∀ p, Completes (.vloop · len port) 0 0 0 {}
      (fun s => s.cc.regs.strm[port] = some p ∧ p.pos < p.desc.count ∧ 0 < p.desc.width ∧ p.desc.width ≤ 1024 ∧
        p.desc.count < 2 ^ 63 ∧ (s.cc.regs.loops[0].v && s.cc.regs.loops[1].v) = false)
      (onCore fun c =>
        let l : LoopLvl := { v := true, len1 := len, beg := (c.regs.pc + 12).extractLsb' 2 54,
                             count := BitVec.ofNat 64 ((p.desc.count - p.pos + 1024 / p.desc.width - 1) / (1024 / p.desc.width)) }
        c.setLoops (if c.regs.loops[0].v then c.regs.loops.set 1 l else c.regs.loops.set 0 l))) ∧
    Traps (.vloop · len port) 0 0 0 {} (fun s => s.cc.regs.strm[port] = none) .stream
      (fun _ => BitVec.ofNat 64 (0x600 + port.val))

/-- R256 to R258: popping a stream. The next chunk of a read stream is the elements at its addresses in ascending order, element by
element; the position moves by the elements that were left, at most a register's. -/
def Sys2Proof.Claims.StreamChunks : Prop :=
  (∀ (d : StreamDesc) (i : Nat), d.n = [] → d.addr i = d.base) ∧
  (∀ (d : StreamDesc) (n : Nat) (st : BitVec 32) (i : Nat), d.n = [n] → d.s = [st] → i < n →
    d.addr i = d.base + BitVec.ofNat 64 i * st.signExtend 64) ∧
  (∀ (d : StreamDesc) (n m : Nat) (st tt : BitVec 32) (i : Nat), d.n = [n, m] → d.s = [st, tt] → 0 < n → i < n * m →
    d.addr i = d.base + BitVec.ofNat 64 (i % n) * st.signExtend 64 + BitVec.ofNat 64 (i / n) * tt.signExtend 64) ∧
  (∀ p : StreamPort, p.rest ≤ 1024 / p.desc.width ∧ p.pos + p.rest ≤ max p.pos p.desc.count ∧ p.advance.pos = p.pos + p.rest) ∧
  (∀ (s : State) (p : StreamPort) (x : VData) (b : Bool) (rest : List (VData × Bool)), p.chunks = (x, b) :: rest →
    s.nextChunk p = .ok (s, x))

/-! ## Conversions (R90 to R102) -/

namespace Sys2Proof.Claims

/-- A conversion of one chunk (R92): destination elements of the chunk are converted in ascending order; a narrowing form's other
elements become zero for chunk 0 and stay for the others. `conv` converts one element in the lane of its destination, given the
core, the source's tag and the second source. -/
def Converts (i : Hdr → Instr) (tag : Tag) (d a : VReg) (b : Option VReg) (more : List (BitVec 7)) (allowA allowB : Tag → Bool)
    (stm : Bool) (chunk : BitVec 4) (conv : Core → Tag → VData → Fin 16 → Nat → FpRegs → Nat × FpRegs) : Prop :=
  let keeps (c : Core) : Bool := (decide (tagWidth tag < tagWidth (c.rdV a).tag) && decide (0 < chunk.toNat)) || stm
  Completes i (opV d) (opV a) ((b.map opV).getD 0) (convUses tag d a ([opV a] ++ (b.map opV).toList ++ more) stm chunk)
    (fun s => Reads s.cc a allowA ∧ (∀ r, b = some r → Reads s.cc r allowB) ∧ s.cc.bound d = none ∧
      (keeps s.cc = true → isPoison (s.cc.rdV d).tag = false ∧ (s.cc.rdV d).tag = tag) ∧
      chunk.toNat < max (tagWidth (s.cc.rdV a).tag) (tagWidth tag) / min (tagWidth (s.cc.rdV a).tag) (tagWidth tag))
    (onCore fun c =>
      let ts := (c.rdV a).tag
      let ws := tagWidth ts
      let wd := tagWidth tag
      let pick := chunkSrc ws wd chunk.toNat
      let second := ((b.map fun r => (c.rdV r).bits).getD 0)
      let r := mapElems (1024 / wd) (fun e => (pick e).isSome)
        (fun e => if chunk = 0 then 0 else elem wd (c.rdV d).bits e)
        (fun e => conv c ts second (laneOf wd e) (elem ws (c.rdV a).bits ((pick e).getD 0)))
        (fun _ fp => fp) c.regs.fp
      (c.setFp fun _ => r.2).result c.tmg.clk 4 (.v d ⟨ofElems wd r.1, tag⟩))

end Sys2Proof.Claims

/-- R94 to R100: the conversion forms, each rounding once in the lane of its destination element; VTAG keeps the bits, VTAGR reads
the tag alone, of a bound register the stream's (where no pop is to come that is the model's choice, log 162), VSCL makes the scale of a
block. -/
def Obligations.Conversions : Prop :=
  ∀ (tag : BitVec 8) (d a b : VReg) (g : GReg) (rm : BitVec 3) (stm : Bool) (chunk : BitVec 4) (j : BitVec 6),
    Converts (.vcvt · tag d a rm stm chunk) tag d a none [] inSetC (fun _ => true) stm chunk
      (fun _ ts _ l x fp => fp.round (fmtOf tag) rm l ((fmtOf ts).value x)) ∧
    Converts (.vcvts · tag d a g rm stm chunk) tag d a none [opG g] inSetC (fun _ => true) stm chunk
      (fun c ts _ l x fp => fp.round (fmtOf tag) rm l (((fmtOf ts).value x).scale (c.rdG g).toInt)) ∧
    Converts (.vquant · tag d a b rm chunk j) tag d a (some b) [] (fun t => t == 2#8) (fun t => t == 6#8) false chunk
      (fun _ _ y l x fp =>
        let sc := s10Value (elem 16 y j.toNat)
        if sc.isNan || sc.isZero then
          ((fmtOf tag).nan, (if fp.mode rm = modeSR then fp.stepSr l else fp).raise flagNV)
        else fp.round (fmtOf tag) rm l ((fp32.value x).div sc)) ∧
    Converts (.vdeq · d a b rm chunk j) 2#8 d a (some b) [] inSetQ (fun t => t == 6#8) false chunk
      (fun _ ts y l x fp => fp.round fp32 rm l (((fmtOf ts).value x).mul (s10Value (elem 16 y j.toNat)))) ∧
    Completes (.vtag · tag d a) (opV d) (opV a) 0 { srcs := [opV a], dsts := [opV d] }
      (fun s => Whole s.cc a ∧ s.cc.bound d = none) (onCore fun c => c.result c.tmg.clk 2 (.v d ⟨(c.rdV a).bits, tag⟩)) ∧
    Completes (.vtagr · g a) 0 0 0 { srcs := [opV a], dsts := [opG g] } (fun s => s.cc.bound a = none)
      (onCore fun c => c.result c.tmg.clk 2 (.g g ((c.rdV a).tag.setWidth 64))) ∧
    (∀ i p, Completes (.vtagr · g a) 0 0 0 { srcs := [opV a], dsts := [opG g] } (fun s => s.cc.bound a = some (i, p))
      (onCore fun c => c.result c.tmg.clk 2 (.g g (p.desc.tag.setWidth 64)))) ∧
    Completes (.vscl · tag d a j) (opV d) (opV a) 0 (vsclUses d a)
      (fun s => Reads s.cc a (fun t => t == 2#8) ∧ s.cc.bound d = none)
      (onCore fun c =>
        let r := blockScale (fmtOf tag) ((List.range 32).map fun e => fp32.value (elem 32 (c.rdV a).bits e))
        (c.setFp fun f => f.raise r.2).result c.tmg.clk 4
          (.v d ⟨setElem 16 (if (c.rdV d).tag = 6#8 then (c.rdV d).bits else 0) j.toNat r.1, 6#8⟩))

/-! ## Modular and complex words (R287 to R311) -/

namespace Sys2Proof.Claims

/-- An element-wise word over 16 lanes (R295, R299): its set, if it uses one, is loaded. -/
def ModElements (i : Hdr → Instr) (p : VForm) (set : Option (Fin 4)) (d a : VReg) (b : Option VGSrc)
    (op : Core → Nat → Nat → Nat → Nat → Nat) : Prop :=
  Completes i (opV d) (opV a) ((nums b).headD 0) (vUses (opV d) p.dstSource (opV a :: nums b) p.km 0)
    (fun s => Ready p d [a] b s ∧ ∀ m, set = some m → s.cc.regs.mods[m].loaded = true)
    (onCore fun c => c.result c.tmg.clk p.lat (.v d ⟨ofElems 64 ((List.range 16).map fun l =>
      if (c.rdK p.km).getLsbD l then op c l (elem 64 (c.rdV a).bits l) (second 64 b c l) (elem 64 (c.rdV d).bits l)
      else if p.z then 0 else elem 64 (c.rdV d).bits l), p.tag⟩))

/-- A word in place on a pair of registers: both are written together (R41), and the butterfly network is busy (R294). -/
def Pairs (i : Hdr → Instr) (d : VReg) (a : Option VReg) (km : KReg) (set : Option (Fin 4)) (lat busy : Nat)
    (allow : Tag → Bool) (f : Core → (VData × VData) × FpRegs) : Prop :=
  Completes i (opV d) ((a.map opV).getD 0) 0
    { srcs := opV d :: opV (pairReg d) :: (a.map opV).toList ++ [opK km], dsts := [opV d, opV (pairReg d)], unit := .net }
    (fun s => Reads s.cc d allow ∧ Reads s.cc (pairReg d) allow ∧
      (match a with
        | some r => Reads s.cc r allow
        | none => (s.cc.rdV (pairReg d)).tag = (s.cc.rdV d).tag) ∧
      ∀ m, set = some m → s.cc.regs.mods[m].loaded = true)
    (onCore fun c =>
      let r := f c
      let tag := (c.rdV d).tag
      (((c.setFp fun _ => r.2).result c.tmg.clk lat (.v d ⟨r.1.1, permTag tag c r.1.1⟩)).result c.tmg.clk lat
        (.v (pairReg d) ⟨r.1.2, permTag tag c r.1.2⟩)).setTmg fun m => { m with netBusy := m.clk + busy })

end Sys2Proof.Claims

/-- R299 to R303: arithmetic modulo a lane's modulus, reductions and lifts, and loading a set. -/
def Obligations.ModularArithmetic : Prop :=
  ∀ (d a b : VReg) (y : VGSrc) (m : Fin 4) (nat : Bool) (km : KReg) (z : Bool),
    let q (c : Core) (l : Nat) : Int := ((c.regs.mods[m].mq.getD l 0).toNat : Int)
    let p (lat : Nat) : VForm := { w := 64, tag := m64Tag m, lat := lat, km := km, z := z,
                                   allowA := fun t => t == m64Tag m, allowB := fun t => t == m64Tag m }
    let two (i : Hdr → Instr) (lat : Nat) (op : Int → Int → Int) : Prop :=
      ModElements i (p lat) (some m) d a (some y) (fun c l x y _ => (op x y % q c l).toNat)
    two (.vmadd · d a y m km z) 2 (fun x y => x + y) ∧
    two (.vmsub · d a y m km z) 2 (fun x y => x - y) ∧
    two (.vmmul · d a y m km z) 6 (fun x y => x * y) ∧
    ModElements (.vmneg · d a m km z) (p 2) (some m) d a none (fun c l x _ _ => (-(x : Int) % q c l).toNat) ∧
    ModElements (.vmmac · d a y m km z) { p 6 with readsD := true } (some m) d a (some y)
      (fun c l x y o => (((o : Int) + x * y) % q c l).toNat) ∧
    ModElements (.vmred · nat d a m km z) { p 6 with allowA := fun t => t == (if nat then 0x0F#8 else 0x0B#8) } (some m) d a none
      (fun c l x _ _ => ((if nat then (x : Int) else signedOf 64 x) % q c l).toNat) ∧
    ModElements (.vmcvtI64 · d a km z) { w := 64, tag := 0x0B#8, lat := 2, km := km, z := z, allowA := isM64 } none d a none
      (fun c l x _ _ => wrapTo 64 (c.lift (tagSet (c.rdV a).tag) l x)) ∧
    ModElements (.vmcvtMn · d a m km z) { p 6 with allowA := isM64 } (some m) d a none (fun c l x _ _ => ((x : Int) % q c l).toNat) ∧
    ModElements (.vmcvtMs · d a m km z) { p 6 with allowA := isM64 } (some m) d a none
      (fun c l x _ _ => (c.lift (tagSet (c.rdV a).tag) l x % q c l).toNat) ∧
    Completes (.mqgen · a m) 0 (opV a) 0 { srcs := [opV a], empty := .all }
      (fun s => Reads s.cc a isN64 ∧ ∀ l < 16, modulusOk (lane (s.cc.rdV a).bits l) = true)
      (onCore fun c => (c.loadSet m (fun l => lane (c.rdV a).bits l) (fun l => barrett (lane (c.rdV a).bits l))).setTmg
        fun t => { t with clk := t.clk + 40 }) ∧
    Completes (.mqld · a b m) 0 (opV a) (opV b) { srcs := [opV a, opV b], empty := .all }
      (fun s => Reads s.cc a isN64 ∧ Reads s.cc b isN64 ∧ ∀ l < 16, modulusOk (lane (s.cc.rdV a).bits l) = true ∧
        lane (s.cc.rdV b).bits l = barrett (lane (s.cc.rdV a).bits l))
      (onCore fun c => (c.loadSet m (fun l => lane (c.rdV a).bits l) (fun l => lane (c.rdV b).bits l)).setTmg
        fun t => { t with clk := t.clk + 8 }) ∧
    Traps (.vmmul · d a y m km z) (opV d) (opV a) (opVG y) (vUses (opV d) (p 6).dstSource [opV a, opVG y] km 0)
      (fun s => s.cc.bound d = none ∧ s.cc.bound a = none ∧ (∀ r, y = .v r → s.cc.bound r = none) ∧
        s.cc.regs.mods[m].loaded = false) .modulus (fun _ => BitVec.ofNat 64 (512 + 16 * m.val))

/-- R304 to R310: butterflies, lane permutations and complex products. -/
def Obligations.Butterflies : Prop :=
  ∀ (d a b : VReg) (m : Fin 4) (k : BitVec 2) (n : BitVec 3) (rm : BitVec 3) (cj : Bool) (km : KReg) (z : Bool),
    let bfly (i : Hdr → Instr) (f : Int → Int → Int → Int → Int × Int) : Prop :=
      Pairs i d (some a) km (some m) 7 2 (fun t => t == m64Tag m) (fun c =>
        let x (l : Nat) : Nat := (lane (c.rdV d).bits l).toNat
        let y (l : Nat) : Nat := (lane (c.rdV (pairReg d)).bits l).toNat
        let q (l : Nat) : Int := ((c.regs.mods[m].mq.getD l 0).toNat : Int)
        let o (l : Nat) : Nat × Nat := if (c.rdK km).getLsbD l then
            ((f (x l) (y l) (lane (c.rdV a).bits l).toNat (q l)).1 % q l |>.toNat,
             (f (x l) (y l) (lane (c.rdV a).bits l).toNat (q l)).2 % q l |>.toNat)
          else (x l, y l)
        ((ofLanes fun l => BitVec.ofNat 64 (o l).1, ofLanes fun l => BitVec.ofNat 64 (o l).2), c.regs.fp))
    let perm (i : Hdr → Instr) (src : Nat → Nat) : Prop :=
      Completes i (opV d) (opV a) 0 { srcs := [opV a], dsts := [opV d], unit := .net } (fun s => Whole s.cc a ∧ s.cc.bound d = none)
        (onCore fun c =>
          let x := ofLanes fun l => lane (c.rdV a).bits (src l)
          (c.result c.tmg.clk 3 (.v d ⟨x, permTag (c.rdV a).tag c x⟩)).setTmg fun t => { t with netBusy := t.clk + 1 })
    bfly (.bfly · d a m km) (fun x y w q => (x + w * y % q, x - w * y % q)) ∧
    bfly (.ibfly · d a m km) (fun x y w _ => (x + y, (x - y) * w)) ∧
    perm (.bperm · d a k) (fun l => l ^^^ 2 ^ k.toNat) ∧
    perm (.vbitrev · d a n) (bitRev n.toNat) ∧
    Pairs (.bpermx · d k) d none 0 none 3 1 (fun _ => true) (fun c =>
      let x := (c.rdV d).bits
      let y := (c.rdV (pairReg d)).bits
      ((ofLanes fun l => if l.testBit k.toNat then lane y (l ^^^ 2 ^ k.toNat) else lane x l,
        ofLanes fun l => if l.testBit k.toNat then lane y l else lane x (l ^^^ 2 ^ k.toNat)), c.regs.fp)) ∧
    Pairs (.vfft2 · d a rm cj km) d (some a) km none 7 2 isCf32 (fun c =>
      (List.finRange 16).foldl (fun (r : (VData × VData) × FpRegs) (l : Fin 16) =>
        let x := (lane (c.rdV d).bits l.val).toNat
        let y := (lane (c.rdV (pairReg d)).bits l.val).toNat
        let w := (lane (c.rdV a).bits l.val).toNat
        if (c.rdK km).getLsbD l.val then
          let o := roundAll rm l
            [⟨false, cfRe x, exOne⟩ :: prodRe false cj w y, ⟨false, cfIm false x, exOne⟩ :: prodIm false cj w y,
             ⟨false, cfRe x, exOne⟩ :: prodRe true cj w y, ⟨false, cfIm false x, exOne⟩ :: prodIm true cj w y] r.2
          ((setElem 64 r.1.1 l.val (o.1.getD 0 0 + 2 ^ 32 * o.1.getD 1 0),
            setElem 64 r.1.2 l.val (o.1.getD 2 0 + 2 ^ 32 * o.1.getD 3 0)), o.2)
        else (r.1, stepLane rm l 4 r.2)) (((c.rdV d).bits, (c.rdV (pairReg d)).bits), c.regs.fp)) ∧
    (let p : VForm := { w := 64, tag := 5#8, lat := 6, km := km, z := z, allowA := isCf32, allowB := isCf32 }
     Completes (.vcmul · d a b rm cj km z) (opV d) (opV a) (opV b)
      { vUses (opV d) p.dstSource [opV a, opV b] km 0 with unit := .net } (Ready p d [a] (some (.v b)))
      (onCore fun c =>
        let r := mapElems 16 (fun e => (c.rdK km).getLsbD e) (fun e => if z then 0 else elem 64 (c.rdV d).bits e)
          (fun e fp =>
            let o := roundAll rm (laneOf 64 e)
              [prodRe false cj (elem 64 (c.rdV b).bits e) (elem 64 (c.rdV a).bits e),
               prodIm false cj (elem 64 (c.rdV b).bits e) (elem 64 (c.rdV a).bits e)] fp
            (o.1.getD 0 0 + 2 ^ 32 * o.1.getD 1 0, o.2))
          (fun e fp => stepLane rm (laneOf 64 e) 2 fp) c.regs.fp
        ((c.setFp fun _ => r.2).result c.tmg.clk 6 (.v d ⟨ofElems 64 r.1, 5#8⟩)).setTmg
          fun t => { t with netBusy := t.clk + 1 }))

/-! ## Local memory (R153 to R182) -/

namespace Sys2Proof.Claims

/-- A read of `len` bytes at a place into one register, on the core path (R159, R164, R199): the words are looked at, the core's
logical time follows, and the result is of fixed latency from the own scratchpad and of variable latency, of its kind's least at least, from
elsewhere (R157). -/
def loadFrom (len : Nat) (p : Place) (wr : List Byte → Wr) (s : State) : State :=
  let s2 := (s.touch s.cur p len).1.coreRead s.cur (p.home (clusterOf s.cur))
  s2.setCc (s2.cc.loaded s2.cc.tmg.clk 1 p.slip (wr (s2.readPlace len p)))

/-- A local access that no copy in flight holds, that the checks admit at place `p`, and that is aligned (R154, R155, R160). -/
def Admits (s : State) (x : Word) (len align : Nat) (p : Place) : Prop :=
  s.rangeHeld x len = false ∧ s.checkLocal s.cur (!s.cc.regs.trap.sup) x len 1 = .ok p ∧ (∀ off, p ≠ .evu off) ∧ x.toNat % align = 0

/-- A read of the place meets no uncorrectable word (R166). -/
def Sound (s : State) (p : Place) (len : Nat) : Prop := (s.touch s.cur p len).2 = false

end Sys2Proof.Claims

/-- R176, R228: scalar and mask accesses to local memory and to the event unit, and their traps: a failing check with its cause, a
misaligned address with ALIGN, an uncorrectable word with POISON, each with the address in XVAL. -/
def Sys2Proof.Claims.LocalScalars : Prop :=
  ∀ (d a b : GReg) (k : KReg) (sz : BitVec 2) (ext : Bool) (imm : BitVec 32) (p : Place) (cause : Cause) (off : Nat),
    let n := 1 <<< sz.toNat
    let adr (s : State) : Word := s.cc.rdG a + sx imm
    let ldU : Uses := { srcs := [opG a], dsts := [opG d] }
    let stU : Uses := { srcs := [opG a, opG b] }
    let kldU : Uses := { srcs := [opG a], dsts := [opK k] }
    let kstU : Uses := { srcs := [opG a, opK k] }
    let check (s : State) (len align : Nat) : Except Cause Place := s.checkLocal s.cur (!s.cc.regs.trap.sup) (adr s) len align
    Completes (.ld · d a sz ext imm) 0 0 0 ldU (fun s => Admits s (adr s) n n p ∧ Sound s p n)
      (loadFrom n p fun bs => .g d (extendLoad sz ext bs)) ∧
    Completes (.st · a b sz imm) 0 0 0 stU (fun s => Admits s (adr s) n n p)
      (fun s => storePlace p (toBytes n (s.cc.rdG b)) s) ∧
    Completes (.kld · k a imm) 0 0 0 kldU (fun s => Admits s (adr s) 16 16 p ∧ Sound s p 16)
      (loadFrom 16 p fun bs => .k k (ofBytes 128 bs)) ∧
    Completes (.kst · a k imm) 0 0 0 kstU (fun s => Admits s (adr s) 16 16 p)
      (fun s => storePlace p (toBytes 16 (s.cc.rdK k)) s) ∧
    Completes (.ld · d a sz ext imm) 0 0 0 ldU
      (fun s => s.rangeHeld (adr s) n = false ∧ check s n 1 = .ok (.evu off) ∧ sz = 3 ∧ evuOffsetOk off = true ∧
        ∀ r x, evuResource off = some (r, x) → s.evuDenied r = false)
      (fun s =>
        let s2 := s.coreRead s.cur (.evu (clusterOf s.cur))
        s2.setCc (s2.cc.slipResult (.g d (s2.evuRead (clusterOf s.cur) off)))) ∧
    Completes (.st · a b sz imm) 0 0 0 stU
      (fun s => s.rangeHeld (adr s) n = false ∧ check s n 1 = .ok (.evu off) ∧ sz = 3 ∧ evuOffsetOk off = true ∧
        s.cc.regs.trap.sup = true)
      (fun s => s.evuWrite.evuStore (clusterOf s.cur) off (s.cc.tmg.clk + 4) (s.cc.rdG b)) ∧
    Traps (.ld · d a sz ext imm) 0 0 0 ldU (fun s => s.rangeHeld (adr s) n = false ∧ check s n 1 = .error cause) cause adr ∧
    Traps (.st · a b sz imm) 0 0 0 stU (fun s => s.rangeHeld (adr s) n = false ∧ check s n 1 = .error cause) cause adr ∧
    Traps (.kld · k a imm) 0 0 0 kldU (fun s => s.rangeHeld (adr s) 16 = false ∧ check s 16 16 = .error cause) cause adr ∧
    Traps (.kst · a k imm) 0 0 0 kstU (fun s => s.rangeHeld (adr s) 16 = false ∧ check s 16 16 = .error cause) cause adr ∧
    Traps (.ld · d a sz ext imm) 0 0 0 ldU (fun s => s.rangeHeld (adr s) n = false ∧ check s n 1 = .ok p ∧ (∀ o, p ≠ .evu o) ∧
      (adr s).toNat % n ≠ 0) .align adr ∧
    Traps (.st · a b sz imm) 0 0 0 stU (fun s => s.rangeHeld (adr s) n = false ∧ check s n 1 = .ok p ∧ (∀ o, p ≠ .evu o) ∧
      (adr s).toNat % n ≠ 0) .align adr

/-- R177, R178, R39, R40: vector groups and register images, from the register that XPROG names where a handler resumes one. The
registers are done in ascending order, each at its 128 bytes, and held each by itself (R160); an image's tag word stands behind the
data. -/
def Obligations.LocalVectors : Prop :=
  ∀ (d a' : VReg) (a : GReg) (tag : BitVec 8) (x : BitVec 2) (imm : BitVec 32) (m : Nat) (pl : Nat → Place) (pt : Place),
    let n := groupSize x
    let adr (s : State) : Word := s.cc.rdG a + sx imm
    let regs (s : State) (r : VReg) (img : Bool) : Prop :=
      (∀ i < n, s.cc.bound (groupReg r i) = none) ∧ s.cc.progress n = m ∧ s.groupHolders (adr s) m n img = [] ∧
        ∀ i < n, m ≤ i → s.checkVec (adr s + BitVec.ofNat 64 (128 * i)) 128 8 = .ok (pl i)
    let sources (s : State) : Prop := ∀ i < n, m ≤ i → isPoison (s.cc.rdV (groupReg a' i)).tag = false
    let todo := (List.range (n - m)).map (m + ·)
    let load (t passes : Nat) (tg : Core → Nat → VData → Tag) (s : State) (i : Nat) : State :=
      let q := s.touch s.cur (pl i) 128
      let s2 := q.1.coreReads q.1.cur ((pl i).homes (clusterOf q.1.cur) 128)
      let bits := ofBytes 1024 (s2.readPlace 128 (pl i))
      s2.setCc (s2.cc.loaded t passes (pl i).slip
        (.v (groupReg d i) ⟨bits, if q.2 then poisonTag else tg s2.cc i bits⟩))
    let put (s : State) (i : Nat) : State := storePlace (pl i) (toBytes 128 (s.cc.rdV (groupReg a' i)).bits) s
    Completes (.vld · tag d a x imm) 0 0 0 { srcs := [opG a], dsts := groupNums d x } (fun s => regs s d false)
      (fun s => (todo.foldl (load s.cc.tmg.clk (n - m) fun _ _ _ => tag) s).ownPasses (adr s) (n - m)) ∧
    Completes (.vldImg · d a x imm) 0 0 0 { srcs := [opG a], dsts := groupNums d x }
      (fun s => regs s d true ∧ s.checkVec (adr s + BitVec.ofNat 64 (128 * n)) 8 8 = .ok pt)
      (fun s =>
        let q := s.touch s.cur pt 8
        let s2 := q.1.coreRead q.1.cur (pt.home (clusterOf q.1.cur))
        let tw := ofBytes 64 (s2.readPlace 8 pt)
        (todo.foldl (load s2.cc.tmg.clk (n - m + 1) fun c i bits =>
          if q.2 then poisonTag else c.imageTag (tagByte tw i) bits) s2).ownPasses (adr s) (n - m + 1)) ∧
    Completes (.vst · a a' x imm) 0 0 (opV a') { srcs := opG a :: groupNums a' x } (fun s => regs s a' false ∧ sources s)
      (fun s => (todo.foldl put s).ownPasses (adr s) (n - m)) ∧
    Completes (.vstImg · a a' x imm) 0 0 (opV a') { srcs := opG a :: groupNums a' x }
      (fun s => regs s a' true ∧ sources s ∧ s.checkVec (adr s + BitVec.ofNat 64 (128 * n)) 8 8 = .ok pt)
      (fun s =>
        let s2 := todo.foldl put s
        let tw : Word := (List.range n).foldl (fun w i => w ||| ((s2.cc.rdV (groupReg a' i)).tag.setWidth 64 <<< (8 * i))) 0
        (storePlace pt (toBytes 8 tw) s2).ownPasses (adr s) (n - m + 1)) ∧
    (∀ h s, let u : Uses := { srcs := opG a :: groupNums a' x }
      Issues h u s →
      let s1 := issued h 0 0 (opV a') u s
      regs s1 a' false → m < n → isPoison (s1.cc.rdV (groupReg a' m)).tag = true →
      exec (.vst h a a' x imm) s = .next (s1.takeTrap s.cur .poison
        ((0x300#64 : Word) + (s1.cc.rdV (groupReg a' m)).tag.setWidth 64) (BitVec.ofNat 3 m)))

/-- R179, R180: lane-slice accesses, gathers and scatters. Every active lane's check has passed before any lane accesses memory, lanes
with one place share its access (R162), and DST is read only where some lane is inactive. -/
def Obligations.LanesGathersScatters : Prop :=
  ∀ (d b v : VReg) (a : GReg) (tag : BitVec 8) (km : KReg) (imm : BitVec 32),
    let off (s : State) (l : Nat) : Word := lane (s.cc.rdV v).bits l + sx imm
    let adr (s : State) (l : Nat) : Word := s.cc.rdG a + lane (s.cc.rdV v).bits l
    let lanesOk (s : State) : Prop := ∀ l < 16, (s.cc.rdK km).getLsbD l = true → (off s l).toNat < 2048 ∧ (off s l).toNat % 8 = 0
    let old (s : State) : Prop := s.cc.bound d = none ∧
      ((∃ l < 16, (s.cc.rdK km).getLsbD l = false) → isPoison (s.cc.rdV d).tag = false)
    let free (s : State) : Prop := (∀ l < 16, (s.cc.rdK km).getLsbD l = true → s.rangeHeld (adr s l) 8 = false) ∧
      ∀ l < 16, (s.cc.rdK km).getLsbD l = true → ∃ p, s.checkVec (adr s l) 8 8 = .ok p
    Completes (.vldl · tag d v km imm) (opV d) (opV v) 0 (laneUses d [opV v] km)
      (fun s => Whole s.cc v ∧ old s ∧ lanesOk s)
      (fun s => onCore (fun c => c.result c.tmg.clk 3 (.v d ⟨ofLanes fun l =>
        if (c.rdK km).getLsbD l then ofBytes 64 (c.slices.bytes (2048 * l + (off s l).toNat) 8)
        else lane (c.rdV d).bits l, tag⟩)) s) ∧
    Completes (.vstl · v b km imm) 0 (opV v) (opV b) { srcs := [opV v, opV b, opK km] }
      (fun s => Whole s.cc v ∧ Whole s.cc b ∧ lanesOk s)
      (fun s => onCore (fun c =>
        let z := (List.range 16).foldl (fun (z : Mem) l => if (c.rdK km).getLsbD l
          then z.setBytes (2048 * l + (off s l).toNat) (toBytes 8 (lane (c.rdV b).bits l)) else z) c.slices
        { c with slices := z }) s) ∧
    Completes (.vgath · tag d a v km) (opV d) 0 (opV v) (laneUses d [opG a, opV v] km)
      (fun s => Whole s.cc v ∧ old s ∧ free s)
      (fun s =>
        let ps := s.lanePlaces (s.cc.rdK km) (adr s)
        let passes := s.cc.gatherPasses (ownWords ps)
        let r := (ps.map (·.2)).eraseDups.foldl (fun (st : State × Bool) p =>
          let q := st.1.touch st.1.cur p 8
          (q.1.coreRead q.1.cur (p.home (clusterOf q.1.cur)), st.2 || q.2)) (s, false)
        let bits := ofLanes fun l => match ps.find? (·.1 == l) with
          | some p => ofBytes 64 (r.1.readPlace 8 p.2)
          | none => lane (s.cc.rdV d).bits l
        (r.1.setCc (r.1.cc.loaded s.cc.tmg.clk passes (ps.foldl (fun m p => max m p.2.slip) 0)
          (.v d ⟨bits, if r.2 then poisonTag else tag⟩))).passes passes) ∧
    Completes (.vscat · v a b km) (opV v) 0 (opV b) { srcs := [opG a, opV v, opV b, opK km] }
      (fun s => Whole s.cc v ∧ Whole s.cc b ∧
        (∀ l < 16, (s.cc.rdK km).getLsbD l = true → s.rangeHeld (adr s l) 8 = false) ∧
        ∀ l < 16, (s.cc.rdK km).getLsbD l = true → ∃ p, s.checkVec (adr s l) 8 8 = .ok p)
      (fun s =>
        let ps := s.lanePlaces (s.cc.rdK km) (adr s)
        (ps.foldl (fun s' p => storePlace p.2 (toBytes 8 (lane (s.cc.rdV b).bits p.1)) s') s).passes
          (s.cc.gatherPasses (ownWords ps)))

/-- R1, R153, R159, R199: what a local store of core n leaves: the bytes of the place hold what was stored, lowest byte first, and every
other byte of every scratchpad and of memory reads as before; no register changes, and of the core's own state only its logical time does. The
store is noted for the agents of other paths, with what it replaced (log 14). -/
def Sys2Proof.Claims.LocalStoreBytes : Prop :=
  ∀ (s : State) (core off : Nat) (own : Bool) (die : Nat) (bs : List Byte),
    let t := storePlace (.spad own core off) bs s
    let u := storePlace (.chip die off) bs s
    ((s.core core).spad.wf = true → ∀ i, i < bs.length → (t.core core).spad.get (off + i) = bs.getD i 0) ∧
    (∀ c x, c ≠ core ∨ x < off ∨ off + bs.length ≤ x → (t.core c).spad.get x = (s.core c).spad.get x) ∧
    (∀ c, (t.core c).slices = (s.core c).slices ∧ (t.core c).regs = (s.core c).regs ∧ (t.core c).tmg = (s.core c).tmg ∧
      (c ≠ s.cur → (t.core c).lt = (s.core c).lt)) ∧
    t.hbm = s.hbm ∧ t.fabric = s.fabric ∧ (∀ d, (t.die d).chip = (s.die d).chip) ∧
    ((s.die die).chip.wf = true → ∀ i, i < bs.length → (u.die die).chip.get (off + i) = bs.getD i 0) ∧
    (∀ c x, c ≠ die ∨ x < off ∨ off + bs.length ≤ x → (u.die c).chip.get x = (s.die c).chip.get x) ∧
    (∀ c, (u.core c).spad = (s.core c).spad ∧ (u.core c).regs = (s.core c).regs ∧ (u.core c).tmg = (s.core c).tmg ∧
      (c ≠ s.cur → (u.core c).lt = (s.core c).lt)) ∧
    u.hbm = s.hbm ∧ u.fabric = s.fabric ∧
    ((s.core core).spad.wf = true → (t.core core).spad.wf = true) ∧ ((s.die die).chip.wf = true → (u.die die).chip.wf = true)
/-! ## Global memory (R183 to R217) -/

namespace Sys2Proof.Claims

/-- A global access of `len` bytes that no copy in flight holds and whose checks and translation give a physical address with its
leaf (R185 to R190, R211). -/
def Reaches (s : State) (x : Word) (len : Nat) (r : Right) (pa : Nat) (leaf : BitVec 64) : Prop :=
  s.rangeHeld x len = false ∧ s.xlateChecked s.cur x len len r = .ok (pa, leaf)

end Sys2Proof.Claims

/-- R211, R216, R190: scalar accesses to global memory. The access is performed under the policy of its page; a load's result is of
variable latency. A failing check or right traps with the address as XVAL; where no TLB holds the translation, the core waits for a
walk of its die. -/
def Sys2Proof.Claims.GlobalScalars : Prop :=
  ∀ (d a b : GReg) (sz : BitVec 2) (ext : Bool) (imm : BitVec 32) (pa : Nat) (leaf : BitVec 64) (cause : Cause) (va : Nat),
    let n := 1 <<< sz.toNat
    let adr (s : State) : Word := s.cc.rdG a + sx imm
    let ldU : Uses := { srcs := [opG a], dsts := [opG d] }
    let stU : Uses := { srcs := [opG a, opG b] }
    Completes (.gld · d a sz ext imm) 0 0 0 ldU (fun s => Reaches s (adr s) n .read pa leaf ∧ s.readBad s.cur pa n (leafPolicy leaf) = false)
      (fun s =>
        let r := s.readGlobal s.cur pa n (leafPolicy leaf)
        r.1.setCc (r.1.cc.slipResult (.g d (extendLoad sz ext r.2)))) ∧
    Completes (.gst · a b sz imm) 0 0 0 stU (fun s => Reaches s (adr s) n .write pa leaf)
      (fun s => s.writeGlobal s.cur pa (leafPolicy leaf) (toBytes n (s.cc.rdG b))) ∧
    Traps (.gld · d a sz ext imm) 0 0 0 ldU
      (fun s => s.rangeHeld (adr s) n = false ∧ s.xlateChecked s.cur (adr s) n n .read = .error (.trap cause (adr s))) cause adr ∧
    Traps (.gst · a b sz imm) 0 0 0 stU
      (fun s => s.rangeHeld (adr s) n = false ∧ s.xlateChecked s.cur (adr s) n n .write = .error (.trap cause (adr s))) cause adr ∧
    (∀ h s, Issues h ldU s → let s1 := issued h 0 0 0 ldU s
      s1.rangeHeld (adr s1) n = false → s1.xlateChecked s1.cur (adr s1) n n .read = .error (.miss va) →
      s1.cc.yieldReq = false →
      let c := if s1.cc.regs.trap.exl then s1.cc else s1.cc.setTrap fun t => { t with xprog := 0 }
      exec (.gld h d a sz ext imm) s = .next ((s1.setCc { c with
        wait := .walk va, access := some (.gld h d a sz ext imm), moved := 0, waitStall := h.stall.toNat }).owe
          (.pageWalk (dieOf s.cur) s1.cc.vsid (va / 65536))))

/-- R199, R203 to R205, R213: what reads and writes under the page policies do on the package's own memory. An uncached access reads or
writes the home and moves the logical times there; a leased read takes a valid copy of its cluster or the home's bytes with a new
lease; a leased write goes to the home; a write of a software-managed page stays in the cluster's copy, whose words written whole are
sound again. A store to the home is noted for the agents of other paths and for the program's own later fetches, with what it replaced
(log 14, log 48). -/
def Sys2Proof.Claims.PagePolicies : Prop :=
  ∀ (s : State) (n pa len : Nat) (bs : List Byte),
    pa < Config.hbmBytes → s.stackLost pa = false →
    let line := HomeId.line (pa / 128)
    (s.readGlobal n pa len .uc = (s.coreRead n line, s.physBytes pa len)) ∧
    (∀ x, (s.cluster (clusterOf n)).copy (pa / 128) false = some x → (s.core n).lt ≤ x.rts →
      (s.readGlobal n pa len .leased).2 = copyBytes x.data (pa % 128) len ∧
      ((s.readGlobal n pa len .leased).1.core n).lt = max (s.core n).lt x.wts) ∧
    ((s.cluster (clusterOf n)).copy (pa / 128) false = none →
      (s.readGlobal n pa len .leased).2 = s.physBytes pa len ∧
      ((s.readGlobal n pa len .leased).1.core n).lt = max (s.core n).lt (s.home line).1 ∧
      (s.readGlobal n pa len .leased).1.home line =
        ((s.home line).1, max (s.home line).2 (max (s.core n).lt (s.home line).1 + Config.readLease))) ∧
    (∀ x, (s.cluster (clusterOf n)).copy (pa / 128) true = some x →
      s.readGlobal n pa len .swm = (s, copyBytes x.data (pa % 128) len)) ∧
    (s.exported pa 1 = false →
      let t := (((s.coreWrite n line).noteStore n (s.home line).1 .global pa (s.physBytes pa bs.length)).noteCode n pa bs.length
        (!(s.core n).regs.trap.sup)).writeHome pa bs
      s.writeGlobal n pa .uc bs = t ∧ s.writeGlobal n pa .leased bs = t) ∧
    (∀ x, s.exported pa 1 = false → (s.cluster (clusterOf n)).copy (pa / 128) true = some x →
      (s.writeGlobal n pa .swm bs).hbm = s.hbm ∧ (s.writeGlobal n pa .swm bs).homes = s.homes ∧
      ∃ bad : BitVec 16, (∀ i < 16, bad.getLsbD i = (x.bad.getLsbD i && !(wordsCovered (pa % 128) bs.length).contains i)) ∧
        ((s.writeGlobal n pa .swm bs).cluster (clusterOf n)).copy (pa / 128) true = some
          { x with data := patchLine x.data (pa % 128) bs, bad := bad,
                   dirty := x.dirty ||| (BitVec.ofNat 128 (2 ^ bs.length - 1) <<< (pa % 128)) }) ∧
    (s.home line).1 < ((s.coreWrite n line).core n).lt ∧ (s.home line).2 < ((s.coreWrite n line).core n).lt ∧
    (s.core n).lt ≤ ((s.coreWrite n line).core n).lt

/-- R212, R178: vector groups and register images in global memory, each 8-byte word under the policy of its own page. -/
def Obligations.GlobalVectors : Prop :=
  ∀ (d v : VReg) (a : GReg) (tag : BitVec 8) (x : BitVec 2) (imm : BitVec 32) (m : Nat)
    (ws : Nat → List (Nat × BitVec 64)) (wt : Nat × BitVec 64),
    let n := groupSize x
    let adr (s : State) : Word := s.cc.rdG a + sx imm
    let regs (s : State) (r : VReg) (img : Bool) (right : Right) : Prop :=
      (∀ i < n, s.cc.bound (groupReg r i) = none) ∧ s.cc.progress n = m ∧ s.groupHolders (adr s) m n img = [] ∧
        ∀ i < n, m ≤ i → s.xlateWords s.cur (adr s + BitVec.ofNat 64 (128 * i)) right 16 = .ok (ws i)
    let sources (s : State) : Prop := ∀ i < n, m ≤ i → isPoison (s.cc.rdV (groupReg v i)).tag = false
    let tagAt (s : State) (right : Right) : Prop :=
      s.xlateChecked s.cur (adr s + BitVec.ofNat 64 (128 * n)) 8 8 right = .ok wt
    let todo := (List.range (n - m)).map (m + ·)
    let load (tg : Core → Nat → VData → Tag) (s : State) (i : Nat) : State :=
      let q := readWords s.cur (ws i) s
      let bits := ofBytes 1024 q.2.1
      let s2 := q.1.badRead q.1.cur q.2.2
      s2.setCc (s2.cc.slipResult (.v (groupReg d i) ⟨bits, if q.2.2 then poisonTag else tg q.1.cc i bits⟩))
    let put (s : State) (i : Nat) : State := writeWords s.cur (ws i) (toBytes 128 (s.cc.rdV (groupReg v i)).bits) s
    Completes (.gldV · tag d a x imm) 0 0 0 { srcs := [opG a], dsts := groupNums d x } (fun s => regs s d false .read)
      (fun s => todo.foldl (load fun _ _ _ => tag) s) ∧
    Completes (.gldImg · d a x imm) 0 0 0 { srcs := [opG a], dsts := groupNums d x }
      (fun s => regs s d true .read ∧ tagAt s .read)
      (fun s =>
        let bad := s.readBad s.cur wt.1 8 (leafPolicy wt.2)
        let r := (s.badRead s.cur bad).readGlobal s.cur wt.1 8 (leafPolicy wt.2)
        todo.foldl (load fun c i bits => if bad then poisonTag else c.imageTag (tagByte (ofBytes 64 r.2) i) bits) r.1) ∧
    Completes (.gstV · a v x imm) 0 0 (opV v) { srcs := opG a :: groupNums v x }
      (fun s => regs s v false .write ∧ sources s) (fun s => todo.foldl put s) ∧
    Completes (.gstImg · a v x imm) 0 0 (opV v) { srcs := opG a :: groupNums v x }
      (fun s => regs s v true .write ∧ sources s ∧ tagAt s .write)
      (fun s =>
        let s2 := todo.foldl put s
        let tw : Word := (List.range n).foldl (fun w i => w ||| ((s2.cc.rdV (groupReg v i)).tag.setWidth 64 <<< (8 * i))) 0
        s2.writeGlobal s2.cur wt.1 (leafPolicy wt.2) (toBytes 8 tw))

/-- R214, R215: range maintenance walks the pages of its range in ascending order and acts on the software-managed lines of each;
an empty range has no effect, and one that leaves the address space takes BOUNDS with its base. PREF leaves the core's registers,
its logical time and memory as they were. -/
def Sys2Proof.Claims.RangesAndPrefetch : Prop :=
  ∀ (a b : GReg) (l2 : Bool) (imm : BitVec 32) (e : Nat → TlbEntry),
    let u : Uses := { srcs := [opG a, opG b] }
    let base (s : State) : Nat := (s.cc.rdG a).toNat
    let len (s : State) : Nat := (s.cc.rdG b).toNat
    let va (s : State) (j : Nat) : Nat := if j = 0 then base s else (base s / 65536 + j) * 65536
    let next (s : State) (j : Nat) : Nat := (base s / 65536 + j + 1) * 65536
    let pages (s : State) : Nat := (base s % 65536 + len s + 65535) / 65536
    let maintains (i : Hdr → Instr) (op : Maint) : Prop :=
      Completes i 0 0 0 u (fun s => len s = 0) id ∧
      Traps i 0 0 0 u (fun s => len s ≠ 0 ∧ s.rangeHeld (s.cc.rdG a) (len s) = false ∧ 2 ^ 56 < base s + len s) .bounds (fun s => s.cc.rdG a) ∧
      Completes i 0 0 0 u
        (fun s => len s ≠ 0 ∧ base s + len s ≤ 2 ^ 56 ∧ s.rangeHeld (s.cc.rdG a) (len s) = false ∧ s.cc.xlate = true ∧
          ∀ j < pages s, tlbFind (s.cluster (clusterOf s.cur)).l1tlb s.cc.vsid (va s j) = some (e j) ∧
            leafOk (e j).leaf (if op = .wb then .read else .write) (!s.cc.regs.trap.sup) = true)
        (fun s => (List.range (pages s)).foldl (fun t j =>
          if leafPolicy (e j).leaf = .swm then
            (List.range ((min (base s + len s) (next s j) - 1) / 128 - va s j / 128 + 1)).foldl
              (fun t i => t.maintLine s.cur (leafPa (e j).level (e j).leaf (va s j) / 128 + i) op) t
          else t) s)
    maintains (.rwb · a b) .wb ∧ maintains (.rinv · a b) .inv ∧ maintains (.rwbi · a b) .wbi ∧
    (∀ h s, Issues h { srcs := [opG a] } s →
      let s1 := issued h 0 0 0 { srcs := [opG a] } s
      s1.rangeHeld ((s1.cc.rdG a + sx imm) &&& ~~~127#64) 128 = false →
      ∃ t, exec (.pref h a l2 imm) s = .next (ends h s1.cc.tmg.clk t) ∧ t.cc = s1.cc ∧ t.hbm = s1.hbm ∧ t.fabric = s1.fabric ∧
        (l2 = true → t = s1))

/-- R204, R214: one line of a range. A discarded line's copy is gone and nothing is written; a write-back merges the dirty bytes over
the home's and keeps a clean copy; the third form does both; a line without a copy is passed over. -/
def Sys2Proof.Claims.LineMaintenance : Prop :=
  ∀ (s : State) (n line : Nat) (op : Maint),
    let cl := clusterOf n
    ((s.cluster cl).copy line true = none → s.maintLine n line op = s) ∧
    (∀ x, (s.cluster cl).copy line true = some x →
      (s.maintLine n line .inv).hbm = s.hbm ∧ ((s.maintLine n line .inv).cluster cl).copy line true = none ∧
      ((s.maintLine n line .wbi).cluster cl).copy line true = none ∧
      (x.dirty = 0 → (s.maintLine n line .wb).hbm = s.hbm) ∧
      (∃ y, ((s.maintLine n line .wb).cluster cl).copy line true = some y ∧ y.data = x.data ∧ y.dirty = 0) ∧
      ∀ i < 128, (x.merged (s.lineData line)).getD i 0 =
        if x.dirty.getLsbD i then x.data.extractLsb' (8 * i) 8 else (s.lineData line).extractLsb' (8 * i) 8)

/-! ## Atomics (R218 to R227) -/

/-- R218, R222, R225: the atomic forms, in local and in global memory: the old value is read, the new one is written at the same place
and time, and AMO and CAS return the old one, sign-extended where it is of 32 bits (zero-extended for FADD). A scope that the
partition may not use takes SCOPE. -/
def Obligations.Atomics : Prop :=
  ∀ (op : BitVec 4) (d a b : GReg) (dbl : Bool) (scope : BitVec 3) (imm : BitVec 32) (p : Place) (pa : Nat) (leaf : BitVec 64),
    let sz : BitVec 2 := if dbl then 3 else 2
    let n := if dbl then 8 else 4
    let adr (s : State) : Word := s.cc.rdG a + sx imm
    let kept (w : Nat) (x y : BitVec w) (f : Fmt) : BitVec w := match op.toNat with
      | 0 => y
      | 1 => x + y
      | 2 => x &&& y
      | 3 => x ||| y
      | 4 => x ^^^ y
      | 5 => if y.toInt < x.toInt then y else x
      | 6 => if y.toNat < x.toNat then y else x
      | 7 => if x.toInt < y.toInt then y else x
      | 8 => if x.toNat < y.toNat then y else x
      | _ => BitVec.ofNat w (atomicFadd f x.toNat y.toNat)
    let combined (s : State) (old : Word) : Word :=
      if dbl then kept 64 old (s.cc.rdG b) fp64 else (kept 32 (lo old) (lo (s.cc.rdG b)) fp32).setWidth 64
    let swapped (s : State) (old : Word) : Word :=
      if dbl then (if old = s.cc.rdG d then s.cc.rdG b else old)
      else if lo old = lo (s.cc.rdG d) then (lo (s.cc.rdG b)).setWidth 64 else old
    let back (fadd : Bool) (old : Word) : Word :=
      if dbl then old else if fadd then (lo old).setWidth 64 else (lo old).signExtend 64
    let atomic (i : Hdr → Instr) (u : Uses) (new : State → Word → Word) (out : Option (Word → Word)) : Prop :=
      let ret (s : State) (old : Word) : State := match out with
        | some f => s.setCc (s.cc.slipResult (.g d (f old)))
        | none => s
      Completes i 0 0 0 u
        (fun s => s.scopeDenied scope = false ∧ s.rangeHeld (adr s) n = false ∧ (adr s).getLsbD 56 = true ∧
          s.checkLocal s.cur (!s.cc.regs.trap.sup) (adr s) n n = .ok p ∧ (∀ o, p ≠ .evu o) ∧ Sound s p n)
        (fun s =>
          let q := (s.touch s.cur p n).1
          let old := ofBytes 64 (q.readPlace n p)
          ret (storePlace p (toBytes n (new s old)) q) old) ∧
      Completes i 0 0 0 u
        (fun s => s.scopeDenied scope = false ∧ Reaches s (adr s) n .atomic pa leaf ∧ (adr s).getLsbD 56 = false ∧
          s.globalBad pa n = false)
        (fun s =>
          let q := s.gain pa (leafPolicy leaf) true
          let old := ofBytes 64 (q.physBytes pa n)
          ret (q.storeHome s.cur pa (leafPolicy leaf) (toBytes n (new s old))) old) ∧
      Traps i 0 0 0 u (fun s => s.scopeDenied scope = true) .scope (fun _ => scope.setWidth 64)
    atomic (.amo · op d a b sz scope imm) { srcs := [opG a, opG b], dsts := [opG d] } combined (some (back (op == 9))) ∧
    atomic (.cas · d a b sz scope imm) { srcs := [opG a, opG b, opG d], dsts := [opG d] } swapped (some (back false)) ∧
    atomic (.red · op a b sz scope imm) { srcs := [opG a, opG b] } combined none

/-! ## The event unit, barriers and the crossbar (R228 to R244, R375, R376) -/

/-- R230, R231, R236, R237, R467: signals, event lines and mutexes. A signal adds its count to the line, and is held where the line's
context is out; LDEV takes an event at once where
one is there and no one waits, and else sleeps behind those waiting; a poll and a try never sleep; an unlock passes the mutex on to
the oldest waiter. A user's access to a resource of another partition takes BOUNDS with its register's address. -/
def Sys2Proof.Claims.EventsAndMutexes : Prop :=
  ∀ (d a : GReg) (e : BitVec 6) (m : BitVec 5) (cnt : BitVec 16) (t : Nat),
    let cl (s : State) : Nat := clusterOf s.cur
    let line (s : State) : EvLine := (s.cluster (cl s)).line e.toNat
    let mtx (s : State) : Mutex := (s.cluster (cl s)).mutex m.toNat
    let lineOk (s : State) : Prop := s.evuDenied e.toNat = false
    let mutexOk (s : State) : Prop := s.evuDenied (0x40 + m.toNat) = false
    let lineAt : Word := BitVec.ofNat 64 (0x0104000000000000 + 8 * e.toNat)
    let mutexAt : Word := BitVec.ofNat 64 (0x0104000000000200 + 8 * m.toNat)
    let answers (x : Word) (s : State) : State :=
      onCore (fun c => (c.slipResult (.g d x)).setTmg fun t => { t with clk := t.clk + 8 }) s.evuWrite
    let sleeps (i : Hdr → Instr) (u : Uses) (P : State → Prop) (w : Wait) (f : State → State) : Prop :=
      ∀ h s, Issues h u s → let s1 := issued h 0 0 0 u s
        P s1 → s1.cc.yieldReq = false → exec (i h) s = .next (onCore (fun c =>
          { c with wait := w, access := some (i h), waitStall := h.stall.toNat }) (f s1))
    Completes (.evsigEv · none e cnt) 0 0 0 {} (fun s => lineOk s ∧ s.lineOut (cl s) e.toNat = none)
      (fun s => s.evuWrite.signal (cl s) e.toNat (s.cc.tmg.clk + 4) (cnt.setWidth 32)) ∧
    (∀ p, Completes (.evsigEv · none e cnt) 0 0 0 {} (fun s => lineOk s ∧ s.lineOut (cl s) e.toNat = some p)
      (fun s => s.evuWrite.hold p (cl s) (.eventMessage
        { cl := cl s, dst := s.cur, line := e.toFin, count := cnt.setWidth 32, tag := s.cc.ptag, sup := s.cc.regs.trap.sup,
          time := s.evuWrite.cc.lt }))) ∧
    Traps (.evsigEv · none e cnt) 0 0 0 {} (fun s => s.evuDenied e.toNat = true) .bounds (fun _ => lineAt) ∧
    Completes (.evsigEv · (some a) e cnt) 0 0 0 { srcs := [opG a] }
      (fun s => s.coreExists s.cc.ctag (s.cc.rdG a) = true ∧ s.ofLcn s.cc.ctag (s.cc.rdG a).toNat = some t)
      (fun s => let s2 := s.coreWrite s.cur (.evu (clusterOf t))
        s2.send s.cur t s.cc.regs.trap.sup (.eventMessage
          { cl := clusterOf t, dst := t, line := e.toFin, count := cnt.setWidth 32, tag := s.cc.ptag,
            sup := s.cc.regs.trap.sup, time := s2.cc.lt })) ∧
    Traps (.evsigEv · (some a) e cnt) 0 0 0 { srcs := [opG a] } (fun s => s.coreExists s.cc.ctag (s.cc.rdG a) = false) .bounds
      (fun s => s.cc.rdG a) ∧
    Completes (.evsigUnlock · m) 0 0 0 {} (fun s => mutexOk s ∧ (mtx s).owner = some s.cur)
      (fun s => s.evuWrite.unlock (cl s) m.toNat (s.cc.tmg.clk + 4)) ∧
    Traps (.evsigUnlock · m) 0 0 0 {} (fun s => mutexOk s ∧ (mtx s).owner ≠ some s.cur) .illegalOpc (fun _ => 0x0C) ∧
    Completes (.ldevWait · d e) 0 0 0 { dsts := [opG d] } (fun s => lineOk s ∧ (line s).count ≠ 0 ∧ (line s).waiters = [])
      (fun s => answers ((line s).count.setWidth 64) (s.onLine (cl s) e.toNat fun l => { l with count := l.count - 1 })) ∧
    sleeps (.ldevWait · d e) { dsts := [opG d] } (fun s => lineOk s ∧ ((line s).count = 0 ∨ (line s).waiters ≠ []))
      (.line e.toFin) (fun s => s.onLine (cl s) e.toNat fun l => { l with waiters := l.waiters ++ [s.cur] }) ∧
    Completes (.ldevPoll · d e) 0 0 0 { dsts := [opG d] } lineOk
      (fun s => answers ((line s).count.setWidth 64)
        (s.onLine (cl s) e.toNat fun l => { l with count := if l.count = 0 then 0 else l.count - 1 })) ∧
    Completes (.ldevLock · d m) 0 0 0 { dsts := [opG d] } (fun s => mutexOk s ∧ (mtx s).owner = none)
      (fun s => answers 0 (s.onMutex (cl s) m.toNat fun x => { x with owner := some s.cur })) ∧
    sleeps (.ldevLock · d m) { dsts := [opG d] }
      (fun s => mutexOk s ∧ (mtx s).owner ≠ none ∧ (mtx s).owner ≠ some s.cur) (.mutex m.toFin)
      (fun s => s.onMutex (cl s) m.toNat fun x => { x with waiters := x.waiters ++ [s.cur] }) ∧
    Completes (.ldevTry · d m) 0 0 0 { dsts := [opG d] } (fun s => mutexOk s ∧ (mtx s).owner ≠ some s.cur)
      (fun s => if (mtx s).owner = none then
          answers 1 (s.onMutex (cl s) m.toNat fun x => { x with owner := some s.cur })
        else answers 0 s) ∧
    Traps (.ldevLock · d m) 0 0 0 { dsts := [opG d] } (fun s => mutexOk s ∧ (mtx s).owner = some s.cur) .illegalOpc
      (fun _ => 0x0E) ∧
    Traps (.ldevTry · d m) 0 0 0 { dsts := [opG d] } (fun s => s.evuDenied (0x40 + m.toNat) = true) .bounds (fun _ => mutexAt)

/-- R230, R235 to R237: what a signal, the service of its line and an unlock do. A signal leaves the sum, saturated, and the clk at which the
unit has it. Behind all that reaches the unit in that clk the line is served: with waiters, the oldest takes the count and wakes while a count
is left; a mutex without waiters is free, else the oldest waiter owns it. -/
def Sys2Proof.Claims.SignalsServeWaiters : Prop :=
  ∀ (s : State) (cl e T : Nat) (k : BitVec 32),
    let l := (s.cluster cl).line e
    let sum : BitVec 32 := BitVec.ofNat 32 (min (l.count.toNat + k.toNat) 0xFFFFFFFF)
    (s.signal cl e T k = s.onLine cl e fun l => { l with count := sum, clk := max l.clk T }) ∧
    (l.waiters = [] ∨ l.count = 0 → s.serve cl e = s) ∧
    (∀ n, l.waiters = [n] → l.count ≠ 0 →
      s.serve cl e = (s.onLine cl e fun l => { l with count := l.count - 1, waiters := [] }).grant n l.clk (l.count.setWidth 64)) ∧
    (((s.cluster cl).mutex e).waiters = [] → s.unlock cl e T = s.onMutex cl e fun x => { x with owner := none }) ∧
    (∀ n rest, ((s.cluster cl).mutex e).waiters = n :: rest →
      s.unlock cl e T = (s.onMutex cl e fun x => { x with owner := some n, waiters := rest }).grant n T
        (BitVec.ofNat 64 rest.length))

/-- R239, R240, R242, R243, R389: an arrival at a barrier is recorded, with what SPRED contributes, and the core waits there; where it
completes the generation of a barrier without parent, the core goes on and a new generation is open. PHASE in CHECKED mode takes
ILLEGAL_OPC with XVAL 8, and outside a compute phase CHANNEL. -/
def Obligations.Barriers : Prop :=
  ∀ (b : BitVec 5) (d a : PReg) (isOr : Bool) (h : Hdr) (s : State),
    let arrives (i : Instr) (u : Uses) (contrib : Core → Option Bool) (wr : Option (PReg × Bool)) (sync : Bool) (kind : BarKind)
        (as_ : Instr) (P : State → Prop) : Prop :=
      Issues h u s →
      let s1 := issued h 0 0 0 u s
      let n := s.cur
      let cl := clusterOf n
      let x := (s1.cluster cl).barrier b.toNat
      P s1 → s1.evuDenied (0x60 + b.toNat) = false → x.en = true → x.mask.getLsbD (indexOf n) = true → s1.cc.yieldReq = false →
      s1.cc.mode = .running →
      let v := contrib s1.cc
      let s2 := (s1.evuWrite.onBarrier cl b.toNat fun x =>
        { x with arr := x.arr ||| (1#24 <<< indexOf n), pand := x.pand && v.getD true, por := x.por || v.getD false,
                 contrib := x.contrib ++ [(n, (v.getD true, v.getD false))], sync := x.sync || sync,
                 time := max x.time s1.evuWrite.cc.lt, clk := max x.clk (s1.cc.tmg.clk + 4),
                 sup := s1.cc.regs.trap.sup }).sleepIn
          (.barrier b.toFin x.gen wr kind) as_
      (s2.barrierReady cl b.toNat = false → exec i s = .next (s2.setCc { s2.cc with waitStall := h.stall.toNat })) ∧
      (s2.barrierReady cl b.toNat = true → x.chn = false →
        ∃ t, exec i s = .next t ∧ t.cc.wait = .none ∧ ((t.cluster cl).barrier b.toNat).gen = x.gen + 1)
    arrives (.bar h b) {} (fun _ => none) none false .bar (.bar h b) (fun _ => True) ∧
    arrives (.barss h b) {} (fun _ => none) none true .barss (.barss h b) (fun _ => True) ∧
    arrives (.spred h d a isOr b) { srcs := [opP a], dsts := [opP d] } (fun c => some (c.rdP a)) (some (d, isOr)) false .bar
      (.spred h d a isOr b) (fun _ => True) ∧
    (s.cc.regs.trap.tim = true → arrives (.phase h b) {} (fun _ => none) none true .phase (.bar h b)
      (fun s => s.cc.regs.trap.phase = 1)) ∧
    (s.cc.regs.trap.tim = false → exec (.phase h b) s = .next (s.takeTrap s.cur .illegalOpc 8 0)) ∧
    (s.cc.regs.trap.tim = true → Issues h {} s → (issued h 0 0 0 {} s).cc.regs.trap.phase ≠ 1 →
      exec (.phase h b) s = .next ((issued h 0 0 0 {} s).takeTrap s.cur .channel (BitVec.ofNat 64 (1024 + b.toNat)) 0)) ∧
    (Issues h {} s → (issued h 0 0 0 {} s).evuDenied (0x60 + b.toNat) = false →
      (((issued h 0 0 0 {} s).cluster (clusterOf s.cur)).barrier b.toNat).en = false →
      exec (.bar h b) s = .next ((issued h 0 0 0 {} s).takeTrap s.cur .illegalOpc 0x0D 0))

/-- R375, R376, R383: the crossbar's configuration words and pulses. A configuration is written at the next edge, before its pulses; a
pulse reaches its counter at the second one. -/
def Sys2Proof.Claims.CrossbarWords : Prop :=
  ∀ (d a b : GReg) (i : BitVec 4) (j : BitVec 5) (term : Bool) (cnt : BitVec 16),
    let cl (s : State) : Nat := clusterOf s.cur
    let comes (s : State) (edge : Nat) (x : Pulse) : State :=
      s.setCluster (cl s) { s.cluster (cl s) with pulses := (s.cluster (cl s)).pulses ++ [(edge, x)] }
    Completes (.evxcfgC · a i) 0 0 0 { srcs := [opG a] } (fun s => s.xbarDenied false i.toNat = false)
      (fun s => comes s (s.cc.tmg.clk + 1) (.counter i.toFin (s.cc.rdG a))) ∧
    Completes (.evxcfgT · a b j) 0 0 0 { srcs := [opG a, opG b] } (fun s => s.xbarDenied true j.toNat = false)
      (fun s => comes s (s.cc.tmg.clk + 1) (.term j.toFin (s.cc.rdG a) (s.cc.rdG b))) ∧
    (∀ (s : State) (k : Nat) (w : Word), State.applyPulse k s (.counter i.toFin w) = s.setCluster k { s.cluster k with
      xcnt := Tab.set (s.cluster k).xcnt i.toNat { (s.cluster k).xcounter i.toNat with
        en := w.getLsbD 63, mp := w.getLsbD 56, ms := w.getLsbD 48, count := w.setWidth 32 } }) ∧
    (∀ (s : State) (k : Nat) (w thr : Word), State.applyPulse k s (.term j.toFin w thr) = s.setCluster k { s.cluster k with
      xterm := Tab.set (s.cluster k).xterm j.toNat { (s.cluster k).xtermAt j.toNat with
        en := w.getLsbD 63, orC := w.getLsbD 62, v := w.extractLsb' 32 4, sel := w.setWidth 16, thr := thr } }) ∧
    Completes (.evxcfgR · d term j) 0 0 0 { dsts := [opG d] } (fun s => s.xbarDenied term j.toNat = false)
      (fun s => onCore (fun c => c.result c.tmg.clk 2 (.g d (if term then ((s.cluster (cl s)).xtermAt j.toNat).word
        else ((s.cluster (cl s)).xcounter j.toNat).word))) s) ∧
    Completes (.evsigPulse · i cnt) 0 0 0 {} (fun _ => cnt = 0) id ∧
    Completes (.evsigPulse · i cnt) 0 0 0 {} (fun _ => cnt ≠ 0)
      (fun s => comes s (s.cc.tmg.clk + 2) (.signal s.cur i.toFin cnt s.cc.ptag s.cc.regs.trap.sup)) ∧
    Traps (.evxcfgC · a i) 0 0 0 { srcs := [opG a] } (fun s => s.xbarDenied false i.toNat = true) .bounds
      (fun _ => xbarVal false i.toNat)

/-! ## Channels and timed communication (R386 to R408) -/

/-- R390 to R396, R408: the channel forms. -/
def Obligations.Channels : Prop :=
  ∀ (d b : VReg) (g a : GReg) (ch slot : BitVec 4) (pf : PReg) (x : Chan) (p : PTag),
    let chan (s : State) : Option Chan := s.cc.comm.chans[ch.toFin]
    let full (s : State) : Bool := (s.cc.comm.slots[slot.toFin]).full
    let owned (s : State) : Prop := (s.cc.comm.slots[slot.toFin]).owner ≠ none
    Completes (.chdecl · g a ch slot) 0 0 0 { srcs := [opG a], dsts := [opG g] }
      (fun s => chan s = none ∧ s.cc.ctag = some p ∧ s.coreExists (some p) (s.cc.rdG a) = true ∧ s.inCoreSet p (s.cc.rdG a).toNat = true)
      (fun s =>
        let l := (s.cc.rdG a).toNat
        let x : Chan := { dst := l, slot := slot.toFin, credit := false, pending := true, decl := s.nextId }
        let c := { s.cc with comm := s.cc.comm.setChan ch.toFin (some x) }
        let s1 := s.setCc (c.setTmg fun m => { m with owed := m.owed ++ [opG g] })
        s1.sendLcn s.cur (some p) l s.cc.regs.trap.sup fun t => .channelClaim
          { rel := false, src := s1.lcn s.cur, ch := ch.toFin, dst := t, slot := slot.toFin, gdst := g, tag := some p, decl := s.nextId }) ∧
    Traps (.chdecl · g a ch slot) 0 0 0 { srcs := [opG a], dsts := [opG g] } (fun s => chan s ≠ none) .channel
      (fun _ => BitVec.ofNat 64 (256 + ch.toNat)) ∧
    Completes (.chdeclRel · ch) 0 0 0 {} (fun s => chan s = some x ∧ x.pending = false ∧ x.credit = true)
      (fun s => (onCore (fun c => { c with comm := c.comm.setChan ch.toFin none }) s).sendLcn s.cur s.cc.ctag x.dst
        s.cc.regs.trap.sup fun t => .channelClaim
          { rel := true, src := s.lcn s.cur, ch := ch.toFin, dst := t, slot := x.slot, gdst := 0, tag := s.cc.ctag }) ∧
    Completes (.chsend · b ch) 0 0 (opV b) { srcs := [opV b] }
      (fun s => Whole s.cc b ∧ s.cc.regs.trap.phase ≠ 1 ∧ chan s = some x ∧ x.pending = false ∧ x.credit = true)
      (fun s =>
        let s1 := onCore (fun c => { c with lt := c.lt + 1, comm := c.comm.setChan ch.toFin (some { x with credit := false }) }) s
        s1.sendLcn s.cur s.cc.ctag x.dst s.cc.regs.trap.sup fun t => .channelMessageLand t x.slot
          { src := s1.lcn s.cur, ch := ch.toFin, data := (s.cc.rdV b).bits.setWidth 512, tag := (s.cc.rdV b).tag,
            time := s.cc.lt + 1, clk := 0 }) ∧
    Traps (.chsend · b ch) 0 0 (opV b) { srcs := [opV b] } (fun s => s.cc.bound b = none ∧ s.cc.regs.trap.phase = 1) .channel
      (fun _ => BitVec.ofNat 64 (1024 + ch.toNat)) ∧
    Completes (.chrecv · d slot) (opV d) 0 0 { dsts := [opV d] } (fun s => s.cc.bound d = none ∧ owned s ∧ full s = true)
      (fun s => s.receive s.cur slot.toFin d) ∧
    (∀ h s, Issues h { dsts := [opV d] } s → let s1 := issued h (opV d) 0 0 { dsts := [opV d] } s
      s1.cc.bound d = none → owned s1 → full s1 = false → s1.cc.yieldReq = false →
      exec (.chrecv h d slot) s = .next (onCore (fun c => { c with wait := .slot slot.toFin d, waitStall := h.stall.toNat }) s1)) ∧
    Completes (.chpoll · d slot pf) (opV d) 0 0 { dsts := [opV d, opP pf] } (fun s => s.cc.bound d = none ∧ owned s)
      (fun s => onCore (fun c => c.slipResult (.p pf (full s))) (if full s then s.receive s.cur slot.toFin d else s)) ∧
    Traps (.chrecv · d slot) (opV d) 0 0 { dsts := [opV d] } (fun s => s.cc.bound d = none ∧ ¬owned s) .channel
      (fun _ => BitVec.ofNat 64 (768 + slot.toNat))

/-- R387, R400, R403, R404, R408: timed sends and receives of a communication phase complete in TIMED mode at the clk of their entry. A send
reads lanes 0 to 7 and the tag of its source, and its message lands at its entry's clk and the latency of the route later, at a PEER of this
package; a receive takes what has landed by its clk, in the device or on its way with that clk behind it, else POISON, and its result has a
latency of 3 clk. Outside TIMED mode both take ILLEGAL_OPC with XVAL 8, and a word that is not its entry's at its clk takes SLOT. -/
def Obligations.TimedCommunication : Prop :=
  ∀ (d b : VReg) (k : BitVec 8) (e : SchedEntry) (peer : Nat) (m : ChanMsg),
    let entry (s : State) (send : Bool) : Prop := s.cc.regs.trap.phase = 2 ∧ s.cc.comm.sched[k.toNat]? = some e ∧ e.send = send
    let onTime (s : State) : Prop := s.cc.tmg.clk = s.cc.comm.t0 + e.offset
    let slot (s : State) (reason : Nat) : Word :=
      BitVec.ofNat 64 (65536 * min (s.cc.tmg.clk - s.cc.comm.t0) 0xFFFFFFFF + 256 * reason + k.toNat)
    let landed (s : State) : Option ChanMsg := (s.arriving s.cur e.land s.cc.tmg.clk).or s.cc.comm.landing[e.land]
    let completesTimed (i : Hdr → Instr) (da sb : BitVec 7) (u : Uses) (P : State → Prop) (f : State → State) : Prop :=
      ∀ h s, s.cc.regs.trap.tim = true → Issues h u s → P (issued h da 0 sb u s) →
        exec (i h) s = .next (ends h (s.cc.atIssue h da 0 sb u).tmg.clk (f (issued h da 0 sb u s)))
    let trapsTimed (i : Hdr → Instr) (da sb : BitVec 7) (u : Uses) (P : State → Prop) (c : Cause) (x : State → Word) : Prop :=
      ∀ h s, s.cc.regs.trap.tim = true → Issues h u s → P (issued h da 0 sb u s) →
        exec (i h) s = .next ((issued h da 0 sb u s).takeTrap s.cur c (x (issued h da 0 sb u s)) 0)
    let sendU : Uses := { srcs := [opV b] }
    let recvU : Uses := { dsts := [opV d] }
    completesTimed (.tsend · b k) 0 (opV b) sendU
      (fun s => Whole s.cc b ∧ entry s true ∧ onTime s ∧ s.ofLcn s.cc.ctag e.peer = some peer)
      (fun s =>
        let T := s.cc.comm.t0 + e.offset + timedLatency s.cur peer
        (onCore (fun c => { c with lt := c.lt + 1 }) s).sendAt T s.cur peer s.cc.ptag s.cc.regs.trap.sup (.timedMessageLand peer e.land
          { src := s.lcn s.cur, ch := 0, data := (s.cc.rdV b).bits.setWidth 512, tag := (s.cc.rdV b).tag, time := s.cc.lt + 1, clk := T })) ∧
    completesTimed (.tsend · b k) 0 (opV b) sendU
      (fun s => Whole s.cc b ∧ entry s true ∧ onTime s ∧ s.ofLcn s.cc.ctag e.peer = none) (onCore fun c => { c with lt := c.lt + 1 }) ∧
    completesTimed (.trecv · d k) (opV d) 0 recvU (fun s => s.cc.bound d = none ∧ entry s false ∧ onTime s ∧ landed s = some m)
      (onCore fun c => { c with lt := max c.lt m.time }.result c.tmg.clk 3 (.v d (c.messageReg m))) ∧
    completesTimed (.trecv · d k) (opV d) 0 recvU (fun s => s.cc.bound d = none ∧ entry s false ∧ onTime s ∧ landed s = none)
      (onCore fun c => c.result c.tmg.clk 3 (.v d ⟨0, poisonTag⟩)) ∧
    (∀ h s, s.cc.regs.trap.tim = false → exec (.tsend h b k) s = .next (s.takeTrap s.cur .illegalOpc 8 0) ∧
      exec (.trecv h d k) s = .next (s.takeTrap s.cur .illegalOpc 8 0)) ∧
    trapsTimed (.tsend · b k) 0 (opV b) sendU
      (fun s => s.cc.bound b = none ∧ s.cc.regs.trap.phase = 2 ∧ s.cc.comm.sched[k.toNat]? = none) .slot (slot · 0) ∧
    trapsTimed (.trecv · d k) (opV d) 0 recvU
      (fun s => s.cc.bound d = none ∧ s.cc.regs.trap.phase = 2 ∧ s.cc.comm.sched[k.toNat]? = none) .slot (slot · 0) ∧
    trapsTimed (.tsend · b k) 0 (opV b) sendU (fun s => s.cc.bound b = none ∧ entry s false) .slot (slot · 1) ∧
    trapsTimed (.trecv · d k) (opV d) 0 recvU (fun s => s.cc.bound d = none ∧ entry s true) .slot (slot · 1) ∧
    trapsTimed (.tsend · b k) 0 (opV b) sendU (fun s => s.cc.bound b = none ∧ entry s true ∧ ¬onTime s) .slot (slot · 2) ∧
    trapsTimed (.trecv · d k) (opV d) 0 recvU (fun s => s.cc.bound d = none ∧ entry s false ∧ ¬onTime s) .slot (slot · 2)

/-! ## The cluster array (R312 to R349) -/

namespace Sys2Proof.Claims

/-- The cluster of the current core. -/
def ownCluster (s : State) : Nat := clusterOf s.cur
/-- The current core's partition has share `sh` of the array (R314). -/
def Shares (s : State) (sh : Fin 2) : Prop := (s.cluster (ownCluster s)).shareOf s.cc.ptag = some sh
/-- Tile `t` of that share as it stands. -/
def tileOf (s : State) (sh : Fin 2) (t : Fin 4) : ZTile := (((s.cluster (ownCluster s)).share sh).tiles[t])
/-- The core owns tile `t` (R315). -/
def Owns (s : State) (sh : Fin 2) (t : Fin 4) : Prop := Shares s sh ∧ (tileOf s sh t).owner = some s.cur
/-- The share's queue takes an operation (R331, R538). -/
def Room (s : State) (sh : Fin 2) : Prop := (s.myShare sh).waiting.length < 8 ∧ s.arrayClosed sh = false
/-- An operation at the end of the share's queue, for the current core (R331). -/
def queues (sh : Fin 2) (t : Fin 4) (k : ZKind) (s : State) : State := s.queueOp (ownCluster s) sh s.cur t k
/-- A status word, visible 2 clk after its issue and interlocked in both modes (R342, R346, R348). -/
def status (w : Wr) (s : State) : State := onCore (fun c => c.lockedResult c.tmg.clk 2 w) s

end Sys2Proof.Claims

/-- R314, R315, R342, R344 to R348: the tile and status forms. ZALLOC takes a free tile; ZFREE gives the own tile up; the queued forms
go to the end of the share's queue; ZREAD and ZWAIT go on once the watermark has passed their row; ZSTAT reads a status word and
may clear it. -/
def Sys2Proof.Claims.TileForms : Prop :=
  ∀ (d : PReg) (g a : GReg) (v : VReg) (t : Fin 4) (sh : Fin 2) (i32 sideB clr : Bool) (dt : BitVec 8) (rm c : BitVec 3)
    (x q : BitVec 2) (j : BitVec 5) (stride : BitVec 20) (imm : BitVec 32) (p : RowPlace),
    let fmt : Tag := if i32 then 0x0A#8 else 0x02#8
    let rowOf (s : State) : Nat := (s.cc.rdG a).toNat
    let gU : Uses := { srcs := [opG a] }
    let mode (s : State) : BitVec 3 :=
      if rm ≠ 0 then rm else if s.cc.regs.fp.rmode = modeSR then modeRNE else s.cc.regs.fp.rmode
    Completes (.zalloc · d t) 0 0 0 { dsts := [opP d] } (fun s => Shares s sh ∧ (tileOf s sh t).owner = none)
      (fun s => status (.p d true) (s.onTile (ownCluster s) sh t fun z => { z with owner := some s.cur, lid := s.cc.lid })) ∧
    Completes (.zalloc · d t) 0 0 0 { dsts := [opP d] } (fun s => Owns s sh t) (status (.p d true)) ∧
    Completes (.zalloc · d t) 0 0 0 { dsts := [opP d] }
      (fun s => Shares s sh ∧ (tileOf s sh t).owner ≠ none ∧ (tileOf s sh t).owner ≠ some s.cur) (status (.p d false)) ∧
    Completes (.zfree · t) 0 0 0 {} (fun s => Owns s sh t ∧ Room s sh)
      (fun s => queues sh t .free (s.onTile (ownCluster s) sh t fun z => { z with owner := none, lid := none })) ∧
    Completes (.zzero · i32 t) 0 0 0 {} (fun s => Owns s sh t ∧ Room s sh) (queues sh t (.zero fmt)) ∧
    Completes (.zldc · i32 a t stride) 0 0 0 gU
      (fun s => Owns s sh t ∧ Room s sh ∧ s.rowPlace (s.myRows sh) (s.cc.rdG a) stride.toNat 1024 = .ok p)
      (queues sh t (.ldc fmt p)) ∧
    Completes (.zstore · dt a rm t stride) 0 0 0 gU
      (fun s => Owns s sh t ∧ Room s sh ∧ (s.myShare sh).busy t = false ∧
        ((tileOf s sh t).tag = 0x02#8 ∧ dt ≠ 0x0A#8 ∨ (tileOf s sh t).tag = 0x0A#8 ∧ dt = 0x0A#8) ∧
        s.rowPlace (s.myRows sh) (s.cc.rdG a) stride.toNat (32 * tagWidth dt) = .ok p)
      (fun s => queues sh t (.store dt p (mode s) s.cc.regs.fp.ovt) s) ∧
    Completes (.zread · v a x t c) 0 0 0 { srcs := [opG a], dsts := groupNums v x }
      (fun s => s.cc.streamOperand (groupNums v x) = none ∧ Owns s sh t ∧ rowOf s < (tileOf s sh t).wm ∧
        rowOf s < s.myRows sh ∧ isPoison (tileOf s sh t).tag = false)
      (fun s => onCore (fun k => (List.range (groupSize x)).foldl (fun k i =>
        k.slipResult (.v (groupReg v i) ⟨((tileOf s sh t).row (rowOf s)).extractLsb' (1024 * (c.toNat + i)) 1024,
          (tileOf s sh t).tag⟩)) k) s) ∧
    Completes (.zwm · g t) 0 0 0 { dsts := [opG g] } (fun s => Owns s sh t)
      (fun s => status (.g g (BitVec.ofNat 64 (tileOf s sh t).wm)) s) ∧
    Completes (.zwait · a t imm) 0 0 0 gU
      (fun s => Owns s sh t ∧ min (s.cc.rdG a + zx imm).toNat (s.myRows sh) ≤ (tileOf s sh t).wm) id ∧
    Completes (.zscl · a v sideB j q) 0 0 (opV v) { srcs := [opG a, opV v] }
      (fun s => s.cc.streamOperand [opV v] = none ∧ Shares s sh ∧ s.cc.tagBreach [⟨3, v, isS10⟩] = none ∧
        (s.myShare sh).slotBusy (lo (s.cc.rdG a)) = false)
      (fun s => s.scaleWrite (ownCluster s) sh sideB (lo (s.cc.rdG a)) j.toNat q.toNat (s.cc.rdV v).bits) ∧
    Completes (.zstatT · g t clr) 0 0 0 { dsts := [opG g] } (fun s => Shares s sh ∧ (clr = true → Owns s sh t))
      (fun s => status (.g g (s.tileWord (s.myShare sh) t))
        (if clr then s.onTile (ownCluster s) sh t fun z => { z with flags := 0 } else s)) ∧
    Completes (.zstatF · g clr) 0 0 0 { dsts := [opG g] } (fun s => Shares s sh)
      (fun s => status (.g g (s.myShare sh).fault.word)
        (if clr then s.onShare (ownCluster s) sh fun x => { x with fault := {} } else s)) ∧
    Completes (.zstatS · g) 0 0 0 { dsts := [opG g] } (fun s => Shares s sh)
      (fun s => status (.g g ((BitVec.ofNat 64 (s.myShare sh).waiting.length <<< 52) |||
        (BitVec.ofNat 64 (s.myRows sh) <<< 32) ||| (if sh = 1 then 0x100 else 0) |||
        BitVec.ofNat 64 ((s.cluster (ownCluster s)).shareBase sh))) s)

/-- R315, R327, R343, R345: where the forms of the array trap. Without a share they take ZOWN with XVAL 0, on a tile that the core does
not own ZOWN with XVAL 0x100 and the tile; a row beyond the share BOUNDS with the row; a POISON tile POISON; a scaled form whose
operands do not carry its sequence SCALE_SEQ. -/
def Sys2Proof.Claims.TileTraps : Prop :=
  ∀ (d : PReg) (g a b : GReg) (v : VReg) (t : Fin 4) (sh : Fin 2) (sc : Bool) (tag dt : BitVec 8) (rm c : BitVec 3)
    (x : BitVec 2) (stride : BitVec 20) (imm : BitVec 32),
    let alien (i : Hdr → Instr) (u : Uses) (P : State → Prop) : Prop :=
      Traps i 0 0 0 u (fun s => P s ∧ (s.cluster (ownCluster s)).shareOf s.cc.ptag = none) .zown (fun _ => 0) ∧
      Traps i 0 0 0 u (fun s => P s ∧ Shares s sh ∧ (tileOf s sh t).owner ≠ some s.cur) .zown
        (fun _ => 0x100 + BitVec.ofNat 64 t.val)
    let threeU : Uses := { srcs := [opG a, opG b, opG g] }
    let readU : Uses := { srcs := [opG a], dsts := groupNums v x }
    let noStr (s : State) : Prop := s.cc.streamOperand (groupNums v x) = none
    Traps (.zalloc · d t) 0 0 0 { dsts := [opP d] } (fun s => (s.cluster (ownCluster s)).shareOf s.cc.ptag = none) .zown
      (fun _ => 0) ∧
    alien (.zfree · t) {} always ∧
    alien (.zmma · tag g a b t sc) threeU always ∧
    alien (.zmmas · tag g a b t sc) threeU always ∧
    alien (.zldc · sc a t stride) { srcs := [opG a] } always ∧
    alien (.zstore · dt a rm t stride) { srcs := [opG a] } always ∧
    alien (.zread · v a x t c) readU noStr ∧
    alien (.zwait · a t imm) { srcs := [opG a] } always ∧
    Traps (.zread · v a x t c) 0 0 0 readU (fun s => noStr s ∧ Owns s sh t ∧ s.myRows sh ≤ (s.cc.rdG a).toNat) .bounds
      (fun s => s.cc.rdG a) ∧
    Traps (.zread · v a x t c) 0 0 0 readU
      (fun s => noStr s ∧ Owns s sh t ∧ (s.cc.rdG a).toNat < s.myRows sh ∧ isPoison (tileOf s sh t).tag = true) .poison
      (fun s => BitVec.ofNat 64 (0x100 * (s.cc.rdG a).toNat + t.val)) ∧
    Traps (.zmma · tag g a b t sc) 0 0 0 threeU
      (fun s => Owns s sh t ∧ isPoison ((s.myShare sh).pendingTag t) = true) .poison
      (fun s => 0x100 + ((s.myShare sh).pendingTag t).setWidth 64) ∧
    Traps (.zmma · tag g a b t sc) 0 0 0 threeU
      (fun s => Owns s sh t ∧ isPoison ((s.myShare sh).pendingTag t) = false ∧ (s.myShare sh).pendingTag t ≠ mxTile tag)
      .tagMismatch (fun s => 0x100 + ((s.myShare sh).pendingTag t).setWidth 64)

/-- R318, R322, R330, R331, R343: ZMMA and ZMMAS. With the tile's tag the one of the product's format and both headers at scratchpad places
that nothing holds and that read sound, the word reads both as it issues and waits for their return. As they return, and are of the form's
format and shape and, under S = 1, of the sequence whose scales the slots hold, the operation enters the share's queue with the operands'
places and the scales as they stand, and the word completes; while the queue has no free entry, it waits. -/
def Obligations.MatrixProducts : Prop :=
  ∀ (tag : BitVec 8) (d a b : GReg) (t : Fin 4) (sh : Fin 2) (sc sparse : Bool) (ca oa cb ob back : Nat) (wa wb : BitVec 128),
    let u : Uses := { srcs := [opG a, opG b, opG d] }
    let word (h : Hdr) : Instr := if sparse then .zmmas h tag d a b t sc else .zmma h tag d a b t sc
    let ha : OpHeader := opHeader (toBytes 16 wa)
    let hb : OpHeader := opHeader (toBytes 16 wb)
    let seq (s : State) : BitVec 32 := lo (s.cc.rdG d)
    let x (s : State) : Share := s.myShare sh
    let tileOk (s : State) : Prop := Owns s sh t ∧ isPoison ((x s).pendingTag t) = false ∧ (x s).pendingTag t = mxTile tag ∧
      s.operandPlace (s.cc.rdG a) = .ok (ca, oa) ∧ s.operandPlace (s.cc.rdG b) = .ok (cb, ob)
    let shapeA (s : State) : Prop := ha.zero = true ∧ ha.rows = s.myRows sh ∧ ha.cols ≠ 0 ∧
      (if sparse then ha.kind = 1 ∧ (ha.spn = 12 ∨ ha.spn = 8 ∨ ha.spn = 6) ∧ ha.cols % 96 = 0
       else ha.kind = 0 ∧ ha.spn = 0 ∧ ha.cols % 32 = 0) ∧
      oa + aTileBytes (s.myRows sh) (tagWidth tag) ha.cols ha.spn ≤ 98304
    let shapeB : Prop := hb.zero = true ∧ hb.kind = 2 ∧ hb.spn = 0 ∧ hb.rows = ha.cols ∧
      hb.cols = 256 ∧ ob + bTileBytes (tagWidth tag) ha.cols ≤ 98304
    let scales (s : State) : Prop := sc = true →
      ha.seq = seq s ∧ hb.seq = seq s ∧
      (x s).aSlots[slotOf (seq s)].covers (seq s) ha.cols ((s.myRows sh + 63) / 64) = true ∧
      (x s).bSlots[slotOf (seq s)].covers (seq s) ha.cols 4 = true
    let returned (s : State) : Prop := s.cc.tmg.heads = some (back, wa, wb) ∧ back ≤ s.cc.tmg.clk
    let headersOk (s : State) : Prop := ha.fmt = tag ∧ hb.fmt = tag ∧ shapeA s ∧ shapeB ∧ scales s
    let op (s : State) : MmaOp :=
      { sparse := sparse, scaled := if sc then some (seq s) else none, fmt := tag, aCore := ca, aOff := oa, bCore := cb, bOff := ob,
        k := ha.cols, n := ha.spn, sa := if sc then (x s).aSlots[slotOf (seq s)] else {},
        sb := if sc then (x s).bSlots[slotOf (seq s)] else {} }
    (∀ h s, Issues h u s → let s1 := issued h 0 0 0 u s
      let ra := s1.touch s.cur (.spad false ca oa) 16
      let rb := (ra.1.coreRead s.cur (.spad ca)).touch s.cur (.spad false cb ob) 16
      let s2 := rb.1.coreRead s.cur (.spad cb)
      let bits (c o : Nat) : BitVec 128 := ofBytes 128 (s2.readPlace 16 (.spad false c o))
      tileOk s1 → s1.rangeHeld (s1.cc.rdG a) 16 = false → s1.rangeHeld (s1.cc.rdG b) 16 = false →
      (x s1).storeCovers (s1.myRows sh) ca oa = false → (x s1).storeCovers (s1.myRows sh) cb ob = false →
      ra.2 = false → rb.2 = false →
      exec (word h) s = .next (waitsInside s s1.cc.tmg.clk ({ s2 with draws := s1.draws + 1 }.setCc (s2.cc.setTmg fun m =>
        { m with heads := some (s1.cc.tmg.clk + max (s1.headClk ca) (s1.headClk cb), bits ca oa, bits cb ob) })))) ∧
    (∀ (s : State) (c : Nat), s.headClk s.cur = 3 ∧ (c ≠ s.cur → 10 ≤ s.headClk c)) ∧
    GoesOn word (fun s => tileOk s ∧ returned s ∧ headersOk s ∧ Room s sh) (fun s => queues sh t (.mma (op s)) s) ∧
    (∀ h s, s.cc.tmg.inside.isSome = true → let s1 := goingOn h s
      tileOk s1 → s1.cc.tmg.heads = some (back, wa, wb) → (s1.cc.tmg.clk < back ∨ headersOk s1 ∧ ¬Room s1 sh) →
      exec (word h) s = .next (s1.setCc (s1.cc.setTmg fun m => { m with clk := m.clk + 1, obuf := s.cc.tmg.obuf })))

/-! ## The engines (R350 to R385) and FENCE (R246 to R248) -/

namespace Sys2Proof.Claims

/-- A descriptor stands at scratchpad place `p`: nothing holds its bytes, the checks admit it, and it is readable (R352, R379). -/
def DescAt (s : State) (x : Word) (len : Nat) (own : Bool) (c off : Nat) : Prop :=
  s.rangeHeld x len = false ∧ (s.touch s.cur (.spad own c off) len).2 = false ∧
    s.checkLocal s.cur (!s.cc.regs.trap.sup) x 64 64 = .ok (.spad own c off) ∧
    s.checkLocal s.cur (!s.cc.regs.trap.sup) x len 64 = .ok (.spad own c off)
/-- The state after it has been read. -/
def descRead (len : Nat) (own : Bool) (c off : Nat) (s : State) : State :=
  (s.touch s.cur (.spad own c off) len).1.coreRead s.cur ((Place.spad own c off).home (clusterOf s.cur))
/-- Its bits. -/
def descBits (len : Nat) (own : Bool) (c off : Nat) (s : State) : BitVec 1536 :=
  ofBytes 1536 ((descRead len own c off s).readPlace len (.spad own c off))
/-- The command of a parsed descriptor: its kind's body, its header, and its ranges on the scoreboard (R353, R358). -/
def commandOf (q : Parsed) (h : DescHdr) (st : CmdState) (s : State) : Cmd :=
  let range (o : Option (Word × Nat)) (base : Option Word) : Option Range :=
    if q.zero then none else o.bind fun y => if y.2 = 0 then none else s.coveredBy s.cur base y
  { cls := q.cls, seq := 0, body := q.body, hdr := h, src := range q.src q.srcBase, dst := range q.dst q.dstBase, st := st }
/-- Its acceptance: the next number of its class, which the destination receives (R355, R379). A command of the classes K and P
marks the domains of its task as not to be audited (R436). -/
def accepted (d : GReg) (q : Parsed) (h : DescHdr) (st : CmdState) (s : State) : State :=
  let s1 := s.accept s.cur (commandOf q h st s)
  let s2 := if q.cls = 1 ∨ q.cls = 3 then s1.taint s.cur else s1
  onCore (fun c => c.slipResult (.g d (BitVec.ofNat 64 (s.nextSeq s.cur q.cls)))) s2

end Sys2Proof.Claims

/-- R352, R353, R355, R357, R379, R385: the descriptor forms. A descriptor of the form's kind that passes the checks is accepted and
starts; one of zero bytes completes at once; EVXARM leaves the command armed at its term. A malformed descriptor takes BOUNDS with
its address, a failing check its own cause. -/
def Sys2Proof.Claims.DescriptorForms : Prop :=
  ∀ (d a : GReg) (imm : BitVec 32) (t : BitVec 5) (kind : Nat) (q : Parsed) (own : Bool) (c off : Nat) (cause : Cause) (v : Word),
    let len := descLen kind
    let adr (s : State) : Word := s.cc.rdG a + sx imm
    let u : Uses := { srcs := [opG a], dsts := [opG d] }
    let bits (s : State) : BitVec 1536 := descBits len own c off s
    let here (s : State) : Prop := DescAt s (adr s) len own c off ∧
      ((s.readPlace 1 (.spad own c off)).headD 0).toNat = kind
    let parsed (s : State) (kinds : List Nat) : Prop := here s ∧ parseDescriptor (bits s) kinds (s.launchCores s.cur) = some q
    let sound (s : State) (kinds : List Nat) : Prop := parsed s kinds ∧
      s.descBreach s.cur (!s.cc.regs.trap.sup) q (descHdr (bits s)) = none ∧ s.cc.eng.cmds.length < 128
    let started (s : State) : State :=
      (accepted d q (descHdr (bits s)) .started (descRead len own c off s)).startCmd s.cur q.cls
        ((descRead len own c off s).nextSeq s.cur q.cls)
    let form (i : Hdr → Instr) : Prop :=
      Completes i 0 0 0 u (fun s => sound s [kind] ∧ q.zero = false) started ∧
      (∀ h s r, Issues h u s → let s1 := issued h 0 0 0 u s
        sound s1 [kind] → q.zero = true →
        execCommandComplete s.cur q.cls ((descRead len own c off s1).nextSeq s.cur q.cls) (started s1) = .next r →
        exec (i h) s = .next (ends h (s.cc.atIssue h 0 0 0 u).tmg.clk r)) ∧
      Traps i 0 0 0 u (fun s => here s ∧ parseDescriptor (bits s) [kind] (s.launchCores s.cur) = none) .bounds adr ∧
      Traps i 0 0 0 u (fun s => parsed s [kind] ∧
        s.descBreach s.cur (!s.cc.regs.trap.sup) q (descHdr (bits s)) = some (cause, v)) cause (fun _ => v)
    (kind = 1 → form (.xcopy · d a imm)) ∧
    (kind = 2 → form (.xgath · d a imm)) ∧
    (kind = 3 → form (.xscat · d a imm)) ∧
    (kind = 4 → form (.xfill · d a imm)) ∧
    (kind = 5 → form (.xcoll · d a imm)) ∧
    (kind = 6 → form (.nsend · d a imm)) ∧
    Completes (.evxarm · d a t imm) 0 0 0 u
      (fun s => s.xbarDenied true t.toNat = false ∧ 1 ≤ kind ∧ kind ≤ 6 ∧ sound s [1, 2, 3, 4, 5, 6])
      (fun s =>
        let cl := ownCluster s
        let s1 := accepted d q (descHdr (bits s)) (.armed t.toFin) (descRead len own c off s)
        let x := (s1.cluster cl).xtermAt t.toNat
        let seq := (descRead len own c off s).nextSeq s.cur q.cls
        s1.setCluster cl { s1.cluster cl with
          xterm := Tab.set (s1.cluster cl).xterm t.toNat { x with armed := x.armed ++ [(s.cur, q.cls, seq)] }
          pulses := (s1.cluster cl).pulses ++ [(s.cc.tmg.clk + 1, .edge)] }) ∧
    Traps (.evxarm · d a t imm) 0 0 0 u (fun s => s.xbarDenied true t.toNat = true) .bounds
      (fun _ => 0x100 + t.setWidth 64)

/-- R356, R380 to R382: waiting, status, cancelling and storage requests. XWAIT goes on once the number has retired, with the core's
logical time after the command's; a failure recorded up to there is taken and cleared. XCANCEL answers 0 for a command that has
finished, 1 where it had not started and 2 where it had. SRING accepts as many requests as asked for from the tail on of a ring of 2^4
to 2^12 entries (log 75). -/
def Sys2Proof.Claims.EngineWaits : Prop :=
  ∀ (d a : GReg) (cls : Fin 4) (r : BitVec 4) (cmd : Cmd) (v : Nat),
    let num (s : State) : Nat := (s.cc.rdG a).toNat
    let fault (s : State) : EFault := s.cc.eng.efault[cls]
    let u : Uses := { srcs := [opG a], dsts := [opG d] }
    let answer (x : Nat) (s : State) : State := onCore (fun c => c.slipResult (.g d (BitVec.ofNat 64 x))) s
    let ring (s : State) : Ring := Tab.get {} (s.vd v).rings r.toNat
    let size (s : State) : Nat := 2 ^ (ring s).log
    let open_ (s : State) : Prop := s.vdOf s.cur = some v ∧ (ring s).en = true ∧ 4 ≤ (ring s).log ∧ (ring s).log ≤ 12
    Completes (.xwait · a cls) 0 0 0 { srcs := [opG a] }
      (fun s => num s ≤ s.cc.eng.retsq cls ∧ ((fault s).v = false ∨ num s < (fault s).seq.toNat))
      (onCore fun c => { c with lt := max c.lt (c.eng.doneTime cls (c.rdG a).toNat) }) ∧
    (∀ h s, Issues h { srcs := [opG a] } s → let s1 := issued h 0 0 0 { srcs := [opG a] } s
      num s1 ≤ s1.cc.eng.retsq cls → (fault s1).v = true → (fault s1).seq.toNat ≤ num s1 →
      ∀ k, k = .access ∨ k = .bounds ∨ k = .poison → (fault s1).cause = k.code.setWidth 6 →
        exec (.xwait h a cls) s = .next ((onCore (fun c => { c with eng := { c.eng with
          efault := c.eng.efault.set cls { c.eng.efault[cls] with v := false, more := false } } }) s1).takeTrap s.cur k
            (fault s1).val 0)) ∧
    Completes (.xseq · d cls) 0 0 0 { dsts := [opG d] } always
      (fun s => status (.g d (BitVec.ofNat 64 (s.cc.eng.retsq cls))) s) ∧
    Completes (.xcancel · d a cls) 0 0 0 u (fun s => s.cmd s.cur cls (num s) = none) (answer 0) ∧
    Completes (.xcancel · d a cls) 0 0 0 u (fun s => s.cmd s.cur cls (num s) = some cmd ∧ ∀ k x, cmd.st ≠ .failing k x)
      (fun s => answer (s.cancel s.cur cmd).2 (s.cancel s.cur cmd).1) ∧
    (∀ s : State, (∃ t, cmd.st = .armed t) → (s.cancel s.cur cmd).2 = 1) ∧
    (∀ s : State, cmd.st = .started → (s.cancel s.cur cmd).2 = 2) ∧
    Completes (.sring · d a r) 0 0 0 u (fun s => open_ s ∧ num s = 0)
      (fun s => answer s.cc.eng.isq[(2 : Fin 4)] s) ∧
    Completes (.sring · d a r) 0 0 0 u
      (fun s => open_ s ∧ num s ≠ 0 ∧ num s ≤ 64 ∧ num s ≤ size s ∧ s.pathDone s.cur 5 = true ∧
        s.ringUnread v r.toNat + num s ≤ size s ∧ s.cc.eng.cmds.length + num s ≤ 128)
      (fun s =>
        let s1 := onCore (fun c => c.fenced (fun q => s.pathTime s.cur q.val) 0x21) s
        let next : Ring := { ring s with tail := ((ring s).tail + num s) % size s }
        let s2 := s1.onVd v fun x => { x with rings := Tab.set x.rings r.toNat next }
        let s3 := State.readRing v r.toNat 128 ((s2.taint s.cur).acceptRing s.cur v r.toNat (size s) (num s) (ring s).tail)
        answer s3.cc.eng.isq[(2 : Fin 4)] s3) ∧
    Traps (.sring · d a r) 0 0 0 u
      (fun s => s.vdOf s.cur = some v ∧ ((ring s).en = false ∨ (ring s).log < 4 ∨ 12 < (ring s).log)) .bounds
      (fun _ => r.setWidth 64) ∧
    Traps (.sring · d a r) 0 0 0 u (fun s => open_ s ∧ (64 < num s ∨ size s < num s)) .xsize (fun s => s.cc.rdG a)

/-- R246 to R248: FENCE completes once every access of the named paths is performed, the core's logical time then being no lower
than theirs where it names path C, and each later access of a named path coming after it; a path that is done while another is not keeps
what it has raised; a package fence over path C waits until
the package's floor has reached the time of the core as it issued and of those accesses (log 168); a scope that the partition may not
use takes SCOPE. -/
def Sys2Proof.Claims.Fences : Prop :=
  ∀ (scope : BitVec 3) (paths : BitVec 8),
    let ready (s : State) : Prop := ∀ q < 8, q ≠ 0 → paths.getLsbD q = true → s.pathDone s.cur q = true
    let left (s : State) : List (Fin 8) := (namedPaths paths).drop s.cc.tmg.fenceDone
    let after (s : State) : Core := s.cc.fenced (fun q => s.pathTime s.cur q.val) paths
    Completes (.fence · scope paths) 0 0 0 {}
      (fun s => s.scopeDenied scope = false ∧ ready s ∧
        (scope ≠ 4 ∨ paths.getLsbD 0 = false ∨
          (s.cc.lt ≤ s.floor ∧ ∀ q < 8, q ≠ 0 → paths.getLsbD q = true → s.pathTime s.cur q ≤ s.floor)))
      (fun s => s.setCc ((after s).setTmg fun m => { m with fenceDone := (namedPaths paths).length })) ∧
    Traps (.fence · scope paths) 0 0 0 {} (fun s => s.scopeDenied scope = true) .scope (fun _ => scope.setWidth 64) ∧
    (∀ h s, Issues h {} s → let s1 := issued h 0 0 0 {} s
      ∀ q : Fin 8, q.val ≠ 0 → paths.getLsbD q.val = true → s1.pathDone s.cur q.val = false → s1.cc.mayYield = false →
        s1.scopeDenied scope = false →
        let done := (namedPaths paths).takeWhile fun q => s1.pathDone s.cur q.val
        let c1 := s1.cc.fencedOn (fun q => s1.pathTime s.cur q.val) (paths.getLsbD 0) done
        exec (.fence h scope paths) s = .next (waitsInside s s1.cc.tmg.clk
          (s1.setCc (c1.setTmg fun m => { m with fenceDone := done.length })))) ∧
    GoesOn (.fence · scope paths)
      (fun s => s.scopeDenied scope = false ∧ (∀ q ∈ left s, s.pathDone s.cur q.val = true) ∧
        (scope ≠ 4 ∨ paths.getLsbD 0 = false ∨ s.fenceTime s.cur paths ≤ s.floor))
      (fun s => s.setCc ((s.cc.fencedOn (fun q => s.pathTime s.cur q.val) (paths.getLsbD 0) (left s)).setTmg fun m =>
        { m with fenceDone := m.fenceDone + (left s).length })) ∧
    (∀ s : State, (after s).regs = s.cc.regs ∧ (after s).spad = s.cc.spad ∧ s.cc.lt ≤ (after s).lt ∧
      (paths.getLsbD 0 = true → ∀ q : Fin 8, q.val ≠ 0 → paths.getLsbD q.val = true →
        s.pathTime s.cur q.val ≤ (after s).lt) ∧
      (paths.getLsbD 0 = false → (after s).lt = s.cc.lt) ∧
      (∀ q : Fin 8, q.val ≠ 0 → paths.getLsbD q.val = true → s.cc.lt ≤ (after s).ft[q]) ∧
      ∀ q : Fin 8, s.cc.ft[q] ≤ (after s).ft[q])

/-! ## Launches, tasks and domains (R409 to R449, R571) -/

namespace Sys2Proof.Claims

/-- The general register `i` places after `a`. -/
def nth (s : State) (a : GReg) (i : Nat) : Word := s.cc.rdG ⟨(a.val + i) % 64, Nat.mod_lt _ (by decide)⟩
/-- How a JOIN on a block's bytes goes on (R441): its answer is the new count, and a count of zero enqueues the block's record, which the
task's domain counts (R428); `s` is the state with the new count written. -/
def Joins (d : GReg) (bs : List Byte) (s t : State) : Prop :=
  let left := recGet bs 0 8 - 1
  let s1 := onCore (fun c => c.slipResult (.g d left)) s
  (left ≠ 0 ∧ t = s1) ∨
  (left = 0 ∧ s1.tryEnqueue s.cur s.cc.ptag (s1.dieQueue s.cc.ptag s.cur)
    { cont := ⟨recGet bs 0x10 8, recGet bs 0x18 8, recGet bs 0x20 8, recGet bs 0x28 8⟩, launch := s.cc.lid,
      prio := (recGet bs 8 1).toNat % 4, dom := (s.cc.task.map (·.inherited)).getD 0, time := s.cc.lt } = .ok t)
/-- A range that CDKEEP or CDSIG loads: no bytes, a readable local range, or a readable global one; `t` is the state after its
reads and `bs` its bytes (R445, R446). -/
def Loads (s : State) (a : Word) (len : Nat) (t : State) (bs : List Byte) : Prop :=
  (len = 0 ∧ t = s ∧ bs = []) ∨
  (len ≠ 0 ∧ s.rangeHeld a len = false ∧ a.getLsbD 56 = true ∧ ∃ p, (∀ o, p ≠ .evu o) ∧
    s.checkLocal s.cur (!s.cc.regs.trap.sup) a len 1 = .ok p ∧ (s.touch s.cur p len).2 = false ∧
    t = (s.touch s.cur p len).1.coreRead s.cur (p.home (clusterOf s.cur)) ∧ bs = t.readPlace len p) ∨
  (len ≠ 0 ∧ s.rangeHeld a len = false ∧ a.getLsbD 56 = false ∧ a.toNat + len ≤ 2 ^ 56 ∧
    State.globalRun s.cur (len / 128 + 2) a len s = .ok (t, bs, false))

end Sys2Proof.Claims

/-- R410, R411, R439 to R443, R449: LAUNCH submits the header that stands at a scratchpad place and answers its identifier, or 0 where
it is refused; SPAWN enqueues an entry, JOIN counts a block down; WID, WIDF and CORENUM read the task; TEND ends it, or the trapped task
from a handler, whose launch counts a fault (R571). -/
def Obligations.TaskForms : Prop :=
  ∀ (d a b : GReg) (imm : BitVec 32) (pri i : BitVec 3) (loc own : Bool) (c off : Nat) (sel : BitVec 2) (p : Place) (pa pb pc : Nat)
    (l1 l2 l3 : BitVec 64) (task : Task) (l : Launch) (w r : Word) (rest : List Word) (t : State),
    let u : Uses := { srcs := [opG a], dsts := [opG d] }
    let one : Uses := { dsts := [opG d] }
    let answer (x : Word) (s : State) : State := onCore (fun c => c.slipResult (.g d x)) s
    let soon (x : Word) (s : State) : State := onCore (fun c => c.result c.tmg.clk 1 (.g d x)) s
    let adr (s : State) : Word := s.cc.rdG a + sx imm
    let queue (s : State) : QueueId := if loc then localQueue s.cc.ptag s.cur else s.dieQueue s.cc.ptag s.cur
    let spawnOk (s : State) : Prop := (nth s a 0).toNat % 4 = 0 ∧ (nth s a 0).extractLsb' 56 8 = 0 ∧
      (loc = true → (s.queue (queue s)).length < 16)
    let spawned (count : Nat) (s : State) : Except HwErr State :=
      (onCore (fun c => { c with lt := c.lt + 1 }) s).tryEnqueue s.cur s.cc.ptag (queue s)
        { cont := ⟨nth s a 0, nth s a 1, nth s a 2, nth s a 3⟩, left := count, launch := s.cc.lid, prio := s.cc.spawnPrio pri,
          dom := s.cc.innermost, time := s.cc.lt + 1 }
    let spU : Uses := { srcs := (List.range 4).map fun i => opG ⟨(a.val + i) % 64, Nat.mod_lt _ (by decide)⟩ }
    let block (s : State) : Word := s.cc.rdG a
    let retired (s : State) : Prop := ∀ k : Fin 4, s.cc.eng.retsq k = s.cc.eng.isq[k]
    let handler (s : State) : Bool := s.cc.regs.trap.sup && s.cc.regs.trap.exl
    let parent (s : State) : Word := (s.cc.task.map (·.inherited)).getD 0
    let caughtUp : State → State := onCore fun c =>
      { c with lt := (List.finRange 4).foldl (fun m k => max m (c.eng.doneTime k c.eng.isq[k])) c.lt }
    let counted (s t : State) : State := match s.cc.task with
      | some k => t.onLaunch k.launch (Launch.charged k.wid false)
      | none => t
    Completes (.launch · d a imm) 0 0 0 u
      (fun s => s.rangeHeld (adr s) 128 = false ∧ (s.touch s.cur (.spad own c off) 128).2 = false ∧
        s.checkLocal s.cur (!s.cc.regs.trap.sup) (adr s) 128 128 = .ok (.spad own c off))
      (fun s =>
        let s1 := (s.touch s.cur (.spad own c off) 128).1.coreRead s.cur ((Place.spad own c off).home (clusterOf s.cur))
        let hdr := ofBytes 1024 (s1.readPlace 128 (.spad own c off))
        match s1.vdOf s.cur with
        | some v =>
          let q := s1.submit v hdr (some s.cur) (s1.cc.lt + 1)
          answer (BitVec.ofNat 64 q.2) (if q.2 = 0 then q.1 else onCore (fun c => { c with lt := s1.cc.lt + 1 }) q.1)
        | none => answer 0 s1) ∧
    (∀ (s : State) v hdr core time, 256 ≤ (s.launches.filter fun y => y.vdev == v && y.state == .pending).length →
      (s.submit v hdr core time).2 = 0 ∧ (s.submit v hdr core time).1.launches = s.launches) ∧
    (∀ (s : State) v hdr core time, (s.submit v hdr core time).2 ≠ 0 →
      (s.submit v hdr core time).2 = (s.vd v).lastLid + 1 ∧ ∃ x, (s.submit v hdr core time).1.launches = s.launches ++ [x] ∧
        x.hdr = hdr ∧ x.vdev = v ∧ x.lid = (s.vd v).lastLid + 1 ∧ x.state = .pending ∧ x.time = time) ∧
    Completes (.spawn · a pri loc) 0 0 0 spU (fun s => spawnOk s ∧ spawned 1 s = .ok t) (fun _ => t) ∧
    Completes (.spawnR · a b pri loc) 0 0 0 { srcs := opG b :: spU.srcs }
      (fun s => spawnOk s ∧ (s.cc.rdG b).toNat ≠ 0 ∧ spawned (s.cc.rdG b).toNat s = .ok t) (fun _ => t) ∧
    (∀ (s : State) n q (e : QEntry), e.dom = 0 → s.tryEnqueue n s.cc.ptag q e = .ok (s.putEntry s.cc.ptag q e)) ∧
    Traps (.spawn · a pri loc) 0 0 0 spU (fun s => spawnOk s ∧ spawned 1 s = .error .access) .access (fun s => s.cc.innermost) ∧
    Completes (.spawnR · a b pri loc) 0 0 0 { srcs := opG b :: spU.srcs } (fun s => s.cc.rdG b = 0) id ∧
    Traps (.spawn · a pri loc) 0 0 0 spU (fun s => (nth s a 0).toNat % 4 ≠ 0 ∨ (nth s a 0).extractLsb' 56 8 ≠ 0) .align
      (fun s => nth s a 0) ∧
    Completes (.join · d a) 0 0 0 u
      (fun s => s.rangeHeld (block s) 48 = false ∧ (block s).getLsbD 56 = true ∧ (∀ o, p ≠ .evu o) ∧
        s.checkLocal s.cur (!s.cc.regs.trap.sup) (block s) 48 16 = .ok p ∧ (s.touch s.cur p 48).2 = false ∧
        let s1 := (s.touch s.cur p 48).1
        let bs := s1.readPlace 48 p
        Joins d bs (storePlace p (toBytes 8 (recGet bs 0 8 - 1)) s1) t) (fun _ => t) ∧
    Completes (.join · d a) 0 0 0 u
      (fun s => s.rangeHeld (block s) 48 = false ∧ (block s).getLsbD 56 = false ∧
        s.xlateChecked s.cur (block s) 48 16 .atomic = .ok (pa, l1) ∧
        s.xlateChecked s.cur (block s + 16) 16 16 .atomic = .ok (pb, l2) ∧
        s.xlateChecked s.cur (block s + 32) 16 16 .atomic = .ok (pc, l3) ∧
        s.stackLost pa = false ∧ s.stackLost pb = false ∧ s.stackLost pc = false ∧
        s.globalBad pa 16 = false ∧ s.globalBad pb 16 = false ∧ s.globalBad pc 16 = false ∧
        let s1 := ((s.gain pa (leafPolicy l1) true).gain pb (leafPolicy l2) true).gain pc (leafPolicy l3) true
        let bs := s1.physBytes pa 16 ++ s1.physBytes pb 16 ++ s1.physBytes pc 16
        Joins d bs (s1.storeHome s.cur pa (leafPolicy l1) (toBytes 8 (recGet bs 0 8 - 1))) t)
      (fun _ => t) ∧
    Completes (.wid · d) 0 0 0 one (fun s => s.cc.task = some task) (soon task.wid) ∧
    Completes (.wid · d) 0 0 0 one (fun s => s.cc.task = none)
      (fun s => soon (Config.freeWord s.draws) { s with draws := s.draws + 1 }) ∧
    Completes (.widf · d a i) 0 0 0 u (fun s => (s.cc.lid.bind s.launch?) = some l)
      (fun s => soon (if l.field 1 1 ≤ i.toNat then 0
        else BitVec.ofNat 64 ((s.cc.rdG a).toNat / 2 ^ l.low i.toNat % 2 ^ l.field (8 + i.toNat) 1)) s) ∧
    Completes (.widf · d a i) 0 0 0 u (fun s => (s.cc.lid.bind s.launch?) = none)
      (fun s => soon (Config.freeWord s.draws) { s with draws := s.draws + 1 }) ∧
    Completes (.corenum · d sel) 0 0 0 one (fun s => s.coreNum s.cur sel = some w) (soon w) ∧
    Completes (.corenum · d sel) 0 0 0 one (fun s => s.coreNum s.cur sel = none)
      (fun s => soon (Config.freeWord s.draws) { s with draws := s.draws + 1 }) ∧
    (∀ s : State, s.coreNum s.cur 0 = some (BitVec.ofNat 64 (s.lcn s.cur)) ∧
      (s.cc.task = some task → s.coreNum s.cur 1 = some (task.rank.elim (BitVec.allOnes 64) (BitVec.ofNat 64))) ∧
      (s.cc.task = some task → task.rank = none → s.coreNum s.cur 2 = some 0)) ∧
    Completes (.tend ·) 0 0 0 {} (fun s => handler s = false ∧ s.cc.doms = [] ∧ retired s ∧ parent s = 0)
      (fun s => (caughtUp s).leaveTask s.cur) ∧
    Completes (.tend ·) 0 0 0 {}
      (fun s => handler s = false ∧ s.cc.doms = [] ∧ retired s ∧ parent s ≠ 0 ∧
        (caughtUp s).hwEdit s.cur (parent s) (addNtask (-1)) = .ok t) (fun s => t.leaveTask s.cur) ∧
    (∀ h s, Issues h {} s → let s1 := issued h 0 0 0 {} s
      handler s1 = false → s1.cc.doms = [] → retired s1 → parent s1 ≠ 0 →
      (caughtUp s1).hwEdit s.cur (parent s1) (addNtask (-1)) = .error .access →
      exec (.tend h) s = .next ((caughtUp s1).takeTrap s.cur .access (parent s1) 0)) ∧
    Completes (.tend ·) 0 0 0 {} (fun s => handler s = true ∧ s.cc.doms = [] ∧ parent s = 0)
      (fun s => counted s (s.leaveTask s.cur)) ∧
    Completes (.tend ·) 0 0 0 {} (fun s => handler s = true ∧ s.cc.doms = [] ∧ parent s ≠ 0 ∧
      s.hwEdit s.cur (parent s) (addNtask (-1)) = .ok t) (fun s => counted s (t.leaveTask s.cur)) ∧
    Completes (.tend ·) 0 0 0 {} (fun s => handler s = true ∧ s.cc.doms = [r] ∧ s.abortStop s.cur r = none ∧
      let s' := s.abandonDomain s.cc.ptag s.cur r (some s.cur)
      (∀ bs ∈ s'.domain? s.cc.ptag s.cur r, recGet bs 0x50 8 = 0) ∧ s'.restoreAborted s.cur r = (t, true) ∧
        t.cur = s.cur ∧ t.cc.doms = [] ∧ parent t = 0) (fun s => counted s (t.leaveTask s.cur)) ∧
    (∀ (s : State) n, ((s.leaveTask n).core n).task = none ∧ ((s.leaveTask n).core n).doms = [] ∧ (s.leaveTask n).hbm = s.hbm) ∧
    Traps (.tend ·) 0 0 0 {} (fun s => handler s = false ∧ s.cc.doms = r :: rest) .domain
      (fun _ => (r &&& ~~~0xF#64) ||| 4)

/-- R428, R430, R444 to R449: containment domains. CDOPEN opens a closed record whose parent is the innermost domain so far; CDKEEP
copies a range behind those already kept; CDSIG folds a range's bytes into the signature; CDCLOSE closes the record once no task
counts on it, its answer being the signature, which it adds to its parent's; CDABORT restores and closes it. -/
def Obligations.DomainForms : Prop :=
  ∀ (d a b : GReg) (snap : Bool) (r : Word) (rest : List Word) (s1 s2 s3 s4 : State) (rec data : List Byte)
    (x : Nat × Policy),
    let cur (s : State) : Prop := s.cc.doms = r :: rest ∧ s.hwReadToEdit s.cur r 128 = .ok (s1, rec)
    let used := (recGet rec 0x40 8).toNat
    let size (len : Nat) : Nat := 16 + (if snap then 0 else (len + 15) / 16 * 16)
    let at_ (s : State) : Word := s.cc.rdG a
    let len (s : State) : Nat := (s.cc.rdG b).toNat
    let two : Uses := { srcs := [opG a, opG b] }
    let none_ (i : Hdr → Instr) (u : Uses) : Prop := Traps i 0 0 0 u (fun s => s.cc.doms = []) .domain (fun _ => 2)
    Completes (.cdopen · a) 0 0 0 { srcs := [opG a] }
      (fun s => (at_ s).extractLsb' 56 8 = 0 ∧ (at_ s).toNat % 128 = 0 ∧ s.cc.doms.length < 8 ∧
        s.hwReadToEdit s.cur (at_ s) 128 = .ok (s1, rec) ∧ recGet rec 0 1 ≠ 1 ∧
        s1.hwEdit s.cur (at_ s) (fun bs => recPut (recPut (recPut (recPut (recPut
          (if recGet bs 0 1 = 2 then bs else recPut bs 1 1 0) 0 1 1) 8 8 s.cc.innermost) 0x40 8 0) 0x48 8 (BitVec.allOnes 64))
            0x58 4 (BitVec.ofNat 64 (s.lcn s.cur))) = .ok s2)
      (fun s => onCore (fun c => { c with doms := at_ s :: c.doms }) s2) ∧
    Traps (.cdopen · a) 0 0 0 { srcs := [opG a] } (fun s => (at_ s).extractLsb' 56 8 ≠ 0 ∨ (at_ s).toNat % 128 ≠ 0) .domain
      (fun s => (at_ s &&& ~~~0xF#64) ||| 5) ∧
    Traps (.cdopen · a) 0 0 0 { srcs := [opG a] }
      (fun s => (at_ s).extractLsb' 56 8 = 0 ∧ (at_ s).toNat % 128 = 0 ∧ 8 ≤ s.cc.doms.length) .domain
      (fun s => (at_ s &&& ~~~0xF#64) ||| 1) ∧
    Traps (.cdopen · a) 0 0 0 { srcs := [opG a] }
      (fun s => (at_ s).extractLsb' 56 8 = 0 ∧ (at_ s).toNat % 128 = 0 ∧ s.cc.doms.length < 8 ∧
        s.hwReadToEdit s.cur (at_ s) 128 = .ok (s1, rec) ∧ recGet rec 0 1 = 1) .domain (fun s => at_ s &&& ~~~0xF#64) ∧
    Completes (.cdkeep · a b snap) 0 0 0 two
      (fun s => cur s ∧ used + size (len s) ≤ (recGet rec 0x38 8).toNat ∧
        keepBounds (recGet rec 0x30 8 + BitVec.ofNat 64 used) (size (len s)) s = none ∧
        keepStop s.cur (recGet rec 0x30 8 + BitVec.ofNat 64 used) (size (len s)) s = none ∧
        (snap = true → s2 = s1 ∧ data = []) ∧ (snap = false → Loads s1 (at_ s) (len s) s2 data) ∧
        State.keepWrite s2 s.cur (size (len s) / 16) (recGet rec 0x30 8 + BitVec.ofNat 64 used)
          (toBytes 8 (at_ s) ++ toBytes 8 (if snap then s.cc.rdG b ||| (1#64 <<< 63) else s.cc.rdG b) ++ data ++
            List.replicate (size (len s) - 16 - data.length) 0#8) = .ok s3 ∧
        s3.hwEdit s.cur r (fun bs => recPut bs 0x40 8 (BitVec.ofNat 64 (used + size (len s)))) = .ok s4) (fun _ => s4) ∧
    Traps (.cdkeep · a b snap) 0 0 0 two (fun s => cur s ∧ (recGet rec 0x38 8).toNat < used + size (len s)) .domain
      (fun _ => (r &&& ~~~0xF#64) ||| 3) ∧
    Traps (.cdkeep · a b snap) 0 0 0 two (fun s => snap = true ∧ cur s ∧ used + size (len s) ≤ (recGet rec 0x38 8).toNat ∧
        (recGet rec 0x30 8 + BitVec.ofNat 64 used).extractLsb' 56 8 ≠ 0) .bounds
      (fun _ => recGet rec 0x30 8 + BitVec.ofNat 64 used) ∧
    Completes (.cdsig · a b) 0 0 0 two
      (fun s => s.cc.doms = r :: rest ∧ len s ≠ 0 ∧ s.hwPaEdit s.cur r.toNat = .ok x ∧ Loads s (at_ s) (len s) s1 data ∧
        s1.hwEdit s.cur r (fun bs => recPut bs 0x48 8 (data.foldl crc64Fold (recGet bs 0x48 8))) = .ok s2) (fun _ => s2) ∧
    Completes (.cdsig · a b) 0 0 0 two (fun s => s.cc.doms = r :: rest ∧ s.cc.rdG b = 0) id ∧
    Completes (.cdclose · d) 0 0 0 { dsts := [opG d] }
      (fun s => cur s ∧ recGet rec 0x50 8 = 0 ∧
        (∀ x ∈ s.audits, x.ptag = s.cc.ptag → s.descends s.cc.ptag s.cur r chainDepth x.parent = false) ∧
        s1.hwEdit s.cur r (fun bs => recPut bs 0 1 0) = .ok s2 ∧
        (if recGet rec 8 8 = 0 then s3 = s2 else s2.hwAtomic s.cur (recGet rec 8 8 + 0x48)
          (· ^^^ recGet rec 0x48 8) = .ok s3))
      (fun s =>
        let s4 := s3.maybeAudit s.cur r rec (recGet rec 0x48 8)
        onCore (fun c => { c with doms := rest }.slipResult (.g d (recGet rec 0x48 8))) s4) ∧
    Completes (.cdabort ·) 0 0 0 {}
      (fun s => s.cc.doms = r :: rest ∧ s.abortStop s.cur r = none ∧
        let s' := s.abandonDomain s.cc.ptag s.cur r (some s.cur)
        (∀ bs ∈ s'.domain? s.cc.ptag s.cur r, recGet bs 0x50 8 = 0) ∧ s'.restoreAborted s.cur r = (s2, true)) (fun _ => s2) ∧
    Completes (.cdabortRetry ·) 0 0 0 {} (fun s => s.cc.doms = r :: rest) (fun s => s.postError 6 s.cc.ptag s.cur) ∧
    (∀ s : State, s.domain? s.cc.ptag s.cur r = some rec → s.restoreArea s.cc.ptag s.cur rec = .ok s2 →
      s.restoreAborted s.cur r =
        ((s2.editDomain s.cc.ptag s.cur r fun bs => recPut bs 0 1 0).onCore s.cur fun c => { c with doms := c.doms.filter (· != r) },
          true)) ∧
    (∀ (s : State) (n : Nat), s.hwReadToEdit n r 128 = .ok (s1, rec) → s1.restoreArea (s.core n).ptag n rec = .ok s2 →
      s.abortStop n r = none) ∧
    Traps (.cdabort ·) 0 0 0 {} (fun s => s.cc.doms = r :: rest ∧ s.hwReadToEdit s.cur r 128 = .error .access) .access (fun _ => r) ∧
    none_ (.cdkeep · a b snap) two ∧
    none_ (.cdsig · a b) two ∧
    none_ (.cdclose · d) { dsts := [opG d] } ∧
    none_ (.cdabort ·) {} ∧
    none_ (.cdabortRetry ·) {}

/-! ## The system (R450 to R490) -/

namespace Sys2Proof.Claims

/-- As `Completes`, in supervisor mode (R451). -/
def CompletesSup (i : Hdr → Instr) (d sa sb : BitVec 7) (u : Uses) (P : State → Prop) (f : State → State) : Prop :=
  ∀ h s, s.cc.regs.trap.sup = true → Issues h u s → P (issued h d sa sb u s) →
    exec (i h) s = .next (ends h (s.cc.atIssue h d sa sb u).tmg.clk (f (issued h d sa sb u s)))
/-- A user's use of the form takes PRIV with XVAL 0, whatever its guard (R37, R451). -/
def SupOnly (i : Hdr → Instr) : Prop :=
  ∀ h s, s.cc.regs.trap.sup = false → exec (i h) s = .next (s.takeTrap s.cur .priv 0 0)
/-- What WRSYS waits for: every result in flight (R454). -/
def wrUses (a : GReg) : Uses := { srcs := [opG a], empty := .all }

/-- As `GoesOn`, in supervisor mode. -/
def GoesOnSup (i : Hdr → Instr) (P : State → Prop) (f : State → State) : Prop :=
  ∀ h s, s.cc.regs.trap.sup = true → s.cc.tmg.inside.isSome = true → P (goingOn h s) →
    exec (i h) s = .next (ends h s.cc.tmg.clk (f (goingOn h s)))

end Sys2Proof.Claims

/-- R138, R453, R454: RDSYS reads a register's value as it stands; WRSYS writes the writable fields of one and nothing else. A register
that only the supervisor may name takes PRIV in user mode. -/
def Sys2Proof.Claims.SystemRegisters : Prop :=
  ∀ (d a : GReg) (n : BitVec 12),
    let open_ (s : State) : Prop := s.cc.regs.trap.sup = true ∨ ((n < 1 ∨ 6 < n) ∧ n < 0x80)
    let slow : Prop := n = 0x088 ∨ n = 0x08A
    let read (s : State) (k : BitVec 12) : Word := (s.sysRead s.cur k).2
    let wrote (s : State) (k : BitVec 12) (x : Word) : Regs := ((s.sysWrite s.cur k x).core s.cur).regs
    (∀ h s, open_ s → Issues h { dsts := [opG d] } s → let s1 := issued h 0 0 0 { dsts := [opG d] } s
      let r := s1.sysRead s.cur n
      exec (.rdsys h d n) s = .next (ends h s1.cc.tmg.clk (onCore (fun c =>
        if slow then c.slipResult (.g d r.2) else c.lockedResult c.tmg.clk 2 (.g d r.2)) r.1))) ∧
    (∀ h s, open_ s → Issues h (wrUses a) s → let s1 := issued h 0 0 0 (wrUses a) s
      exec (.wrsys h a n) s = .next (ends h s1.cc.tmg.clk (s1.sysWrite s.cur n (s1.cc.rdG a)))) ∧
    (∀ h s, s.cc.regs.trap.sup = false → (1 ≤ n ∧ n ≤ 6 ∨ 0x80 ≤ n) →
      exec (.rdsys h d n) s = .next (s.takeTrap s.cur .priv 0 0) ∧
      exec (.wrsys h a n) s = .next (s.takeTrap s.cur .priv 0 0)) ∧
    (∀ s : State, let r := s.cc.regs
      read s 0x001 = r.trap.xpc ∧ read s 0x002 = r.trap.xcause.setWidth 64 ∧ read s 0x003 = r.trap.xval ∧
      read s 0x004 = r.trap.xprog.setWidth 64 ∧ read s 0x005 = r.trap.xvec.setWidth 64 <<< 2 ∧
      read s 0x006 = r.trap.xrec.setWidth 64 <<< 7 ∧ read s 0x007 = r.fp.fflags.setWidth 64 ∧
      (∀ i : Fin 4, read s (0x018 + BitVec.ofNat 12 i.val) = r.swz[i]) ∧
      (∀ i : Fin 2, read s (0x022 + BitVec.ofNat 12 i.val) = r.loops[i].count) ∧
      read s 0x040 = s.cc.ptag.setWidth 64 ∧ read s 0x041 = BitVec.ofNat 64 (s.lcn s.cur) ∧
      read s 0x045 = BitVec.ofNat 64 s.cc.lt ∧ read s 0x081 = s.cc.vsid.setWidth 64) ∧
    (∀ (s : State) (x : Word), let r := s.cc.regs
      wrote s 0x001 x = { r with trap := { r.trap with xpc := x } } ∧
      wrote s 0x002 x = { r with trap := { r.trap with xcause := x.setWidth 8 } } ∧
      wrote s 0x003 x = { r with trap := { r.trap with xval := x } } ∧
      wrote s 0x004 x = { r with trap := { r.trap with xprog := x.setWidth 3 } } ∧
      wrote s 0x005 x = { r with trap := { r.trap with xvec := x.extractLsb' 2 54 } } ∧
      wrote s 0x006 x = { r with trap := { r.trap with xrec := x.extractLsb' 7 49 } } ∧
      wrote s 0x007 x = { r with fp := { r.fp with fflags := x.setWidth 5 } } ∧
      (∀ i : Fin 2, (wrote s (0x020 + BitVec.ofNat 12 i.val) x).loops =
        r.loops.set i { r.loops[i] with v := x.getLsbD 0, len1 := x.extractLsb' 56 8, beg := x.extractLsb' 2 54 }) ∧
      (∀ i : Fin 2, wrote s (0x022 + BitVec.ofNat 12 i.val) x = { r with loops := r.loops.set i { r.loops[i] with count := x } }) ∧
      (∀ k : BitVec 12, (k = 0x040 ∨ k = 0x041 ∨ k = 0x042 ∨ k = 0x043 ∨ k = 0x044 ∨ k = 0x045 ∨ k = 0x046 ∨ k = 0x02C ∨
        0x028 ≤ k ∧ k ≤ 0x02B ∨ 0x030 ≤ k ∧ k ≤ 0x033 ∨ k = 0x038 ∨ k = 0x039) → s.sysWrite s.cur k x = s))

/-- R168, R170, R193, R194, R313, R402, R451, R453 to R455, R489: the register accesses that act on a unit. FBPOP0 and DERRPOP take
the oldest unread entry; FBSTAT and SPDOOR clear bits; GO of SLOTCTL reads a schedule; SWZn moves the banks of a region; ZSHARE takes
effect once the shares that it changes are idle. In user mode each takes PRIV. -/
def Sys2Proof.Claims.UnitRegisters : Prop :=
  ∀ (d a : GReg) (i : Nat) (k : Fin 4) (f : FaultSlot) (e : DErr) (rest : List DErr) (s1 s2 : State) (hdr bs : List Byte)
    (e2 : DErr) (charge : Option Charge) (more : List (DErr × Option Charge)),
    let die (s : State) : Die := s.die (dieOf s.cur)
    let one : Uses := { dsts := [opG d] }
    let wr : Uses := wrUses a
    let x (s : State) : Word := s.cc.rdG a
    let adr (s : State) : Word := x s &&& 0x00FFFFFFFFFFFFF0
    let named (s : State) : State := onCore (fun c =>
      { c with slotctl := (c.slotctl &&& ~~~0x00FFFFFFFFFFFFF0#64) ||| adr s }) s
    let slots : Nat := (recGet hdr 0 2).toNat
    let popped (s : State) : Word := (1#64 <<< 63) ||| (e.kind.setWidth 64 <<< 56) ||| (e.ptag.setWidth 64 <<< 50) |||
      (BitVec.ofNat 64 (s.lcnIn (some e.ptag) e.core) <<< 32)
    CompletesSup (.fbpop0Read · d) 0 0 0 one (fun s => (die s).fbuf.findIdx? (fun f => !f.read) = none)
      (onCore fun c => { c with fbpop1 := 0 }.slipResult (.g d 0)) ∧
    CompletesSup (.fbpop0Read · d) 0 0 0 one
      (fun s => (die s).fbuf.findIdx? (fun f => !f.read) = some i ∧ (die s).fbuf[i]? = some f)
      (fun s => onCore (fun c => { c with fbpop1 := f.word1 }.slipResult (.g d f.word0))
        (s.setDie (dieOf s.cur) { die s with fbuf := (die s).fbuf.set i { f with read := true } })) ∧
    CompletesSup (.derrpopRead · d) 0 0 0 one (fun s => (die s).derrq = []) (onCore fun c => c.slipResult (.g d 0)) ∧
    CompletesSup (.derrpopRead · d) 0 0 0 one (fun s => (die s).derrq = e :: rest ∧ (die s).derrWait = [])
      (fun s => onCore (fun c => c.slipResult (.g d (popped s)))
        (s.setDie (dieOf s.cur) { die s with derrq := rest, derrWait := [] })) ∧
    CompletesSup (.derrpopRead · d) 0 0 0 one (fun s => (die s).derrq = e :: rest ∧ (die s).derrWait = (e2, charge) :: more)
      (fun s =>
        let s1 := s.setDie (dieOf s.cur) { die s with derrq := rest ++ [e2], derrWait := more }
        let s2 : State := match charge with
          | some x => { s1 with charges := s1.charges ++ [x], pending := s1.pending ++ [Instr.domainCharge] }
          | none => s1;
        onCore (fun c => c.slipResult (.g d (popped s))) s2) ∧
    CompletesSup (.fbstatDropClear · a) 0 0 0 wr always
      (fun s => s.setDie (dieOf s.cur) { die s with drop := (die s).drop && !(x s).getLsbD 0 }) ∧
    CompletesSup (.spdoorClear · a) 0 0 0 wr (fun s => ((x s).setWidth 3 : BitVec 3) = 0) id ∧
    (∀ h s, s.cc.regs.trap.sup = true → Issues h wr s → let s1 := issued h 0 0 0 wr s
      (die s1).doorWait = [] → ∃ t, exec (.spdoorClear h a) s = .next t ∧
        ∀ j : Fin 3, (t.die (dieOf s.cur)).door[j] = if (x s1).getLsbD j.val then none else (die s1).door[j]) ∧
    CompletesSup (.slotctlGo · a) 0 0 0 wr (fun s => (x s).getLsbD 0 = false) named ∧
    CompletesSup (.slotctlGo · a) 0 0 0 wr
      (fun s => (x s).getLsbD 0 = true ∧ (named s).slotRecord s.cur 1 (adr s) = .ok (s1, hdr) ∧
        s1.slotRecord s.cur (if 1 ≤ slots ∧ slots ≤ 4096 then slots else 0) (adr s + 16) = .ok (s2, bs))
      (fun s => (onCore (fun c =>
        { c with installing := some (c.ptag, hdr ++ bs), slotctl := slotStatus c.slotctl 3 0 }) s2).tryInstall s.cur) ∧
    Completes (.swzWrite · a k) 0 0 0 wr always (fun s => onCore (fun c => c.setSwz k (x s)) (s.forget (.spad s.cur))) ∧
    CompletesSup (.zshareWrite · a) 0 0 0 wr (fun s => (s.cluster (ownCluster s)).zshareReady (x s) = true)
      (fun s => s.setCluster (ownCluster s) ((s.cluster (ownCluster s)).writeZshare (x s))) ∧
    SupOnly (.fbpop0Read · d) ∧ SupOnly (.derrpopRead · d) ∧ SupOnly (.fbstatDropClear · a) ∧ SupOnly (.spdoorClear · a) ∧
    SupOnly (.slotctlGo · a) ∧ SupOnly (.zshareWrite · a)

/-- R195, R460, R461, R485 to R488, R451: SYSCALL and BKPT trap, SYSCALL after its call record is written; XRET goes back to XPC; WFI
goes on where something waits for it; HALT stops the core until the service processors restart it; TLBINV drops translations, TLBREPLAY
issues a partition's parked accesses again; LDOVT writes the overflow table. In user mode the privileged ones take PRIV. -/
def Obligations.CallsWaitsAndTlbs : Prop :=
  ∀ (a b : GReg) (imm : BitVec 32) (pa core : Nat) (pol : Policy) (t : State),
    let callU : Uses := { srcs := (List.range 6).map fun i => opG ⟨(i + 1) % 64, Nat.mod_lt _ (by decide)⟩ }
    let two : Uses := { srcs := [opG a, opG b] }
    let callAt (s : State) : Nat := (s.cc.regs.trap.xrec.setWidth 64 <<< 7 : Word).toNat + 0x40
    let callRec (c : Core) : List Byte := toBytes 8 (zx imm) ++
      (List.range 6).flatMap (fun i => toBytes 8 (c.rdG ⟨(i + 1) % 64, Nat.mod_lt _ (by decide)⟩)) ++ toBytes 8 (c.regs.pc + 12)
    let vsid (s : State) : BitVec 8 := (s.cc.rdG b).setWidth 8
    (∀ h s, Issues h callU s → let s1 := issued h 0 0 0 callU s
      (s1.pinned s.cur (callAt s1) = some (pa, pol) →
        exec (.syscall h imm) s = .next ((s1.writeGlobal s.cur pa pol (callRec s1.cc)).takeTrap s.cur .syscall (zx imm) 0)) ∧
      (s1.pinned s.cur (callAt s1) = none → s1.cc.yieldReq = false → let t := s1.faultOnFault s.cur (callAt s1)
        t.cc.yieldReq = false →
        exec (.syscall h imm) s = .next (onCore (fun c => { c.setTmg fun m => { m with inside := none } with waitStall := h.stall.toNat }) t))) ∧
    Traps (.bkpt · imm) 0 0 0 {} always .bkpt (fun _ => zx imm) ∧
    (∀ h s, s.cc.regs.trap.sup = true → Issues h {} s → let s1 := issued h 0 0 0 {} s
      (s1.cc.regs.trap.exl = true → s1.cc.regs.trap.xpc.toNat % 4 = 0 → s1.cc.yieldReq = false →
        exec (.xret h) s = .next (onCore (fun c => { c.returnTrap.setTmg fun m =>
          { m with clk := m.clk + max 3 (1 + h.stall.toNat), words := m.words + 1, inside := none } with waitStall := h.stall.toNat })
            (s1.onDepth s.cur (· - 1)))) ∧
      (s1.cc.regs.trap.exl = false → exec (.xret h) s = .next (s1.takeTrap s.cur .illegalOpc 0x10 0)) ∧
      (s1.cc.regs.trap.exl = true → s1.cc.regs.trap.xpc.toNat % 4 ≠ 0 →
        exec (.xret h) s = .next (s1.takeTrap s.cur .align s1.cc.regs.trap.xpc 0))) ∧
    (∀ c : Core, let r := c.returnTrap.regs
      r.pc = c.regs.trap.xpc ∧ r.trap.sup = c.regs.trap.ps ∧ r.trap.tim = c.regs.trap.pt ∧ r.trap.exl = false ∧
      r.trap.xprog = c.regs.trap.xprog ∧ r.g = c.regs.g ∧ r.p = c.regs.p ∧ r.k = c.regs.k ∧ r.v = c.regs.v ∧ r.fp = c.regs.fp ∧
      r.loops = c.regs.loops ∧ r.strm = c.regs.strm) ∧
    CompletesSup .wfi 0 0 0 {} (fun s => s.wfiReady s.cur = true) id ∧
    (∀ h s, s.cc.regs.trap.sup = true → Issues h {} s → let s1 := issued h 0 0 0 {} s
      s1.wfiReady s.cur = false → s1.cc.yieldReq = false → exec (.wfi h) s = .next (onCore (fun c =>
        { c.setTmg fun m => { m with inside := none } with wait := .wfi, waitStall := h.stall.toNat }) s1)) ∧
    (∀ h s, s.cc.regs.trap.sup = true → Issues h {} s → let s1 := issued h 0 0 0 {} s
      s1.cc.yieldReq = false → exec (.halt h) s = .next (onCore (fun c =>
          { c.setTmg fun m => { m with inside := none } with waitStall := h.stall.toNat }) ((onCore (fun c => { c.emptied with wait := .halted }) s1).report (.halt s.cur)))) ∧
    (∀ s : State, (s.core core).wait = .halted → exec (.haltRestart core) s = .next (s.setCore core
      { (s.core core).complete (max (s.core core).tmg.clk s.clk) (s.core core).waitStall with wait := .none })) ∧
    CompletesSup (.tlbinvPage · a b) 0 0 0 two always
      (fun s => s.keepTlb fun e => !e.hits (vsid s) (s.cc.rdG a).toNat) ∧
    CompletesSup (.tlbinvVsid · b) 0 0 0 { srcs := [opG b] } always (fun s => s.keepTlb fun e => e.vsid != vsid s) ∧
    CompletesSup (.tlbinvAll ·) 0 0 0 {} always (fun s => s.keepTlb fun _ => false) ∧
    CompletesSup (.tlbreplay · a) 0 0 0 { srcs := [opG a] }
      (fun s => s.replayDies ((s.cc.rdG a).setWidth 6) (List.range 9) = .next t) (fun _ => t) ∧
    (∀ (s : State) die p, let mine := (s.die die).parks.filter fun x => s.parkTag x == p
      (∀ y ∈ mine, ∃ n, y = .core n) →
      s.replayDie die p = .next (mine.foldl (fun (t : State) y => match y with
          | .core n => t.owe (.globalAccessComplete n)
          | _ => t)
        (s.setDie die { s.die die with fbuf := (s.die die).fbuf.filter (·.ptag != p)
                                       parks := (s.die die).parks.filter fun x => s.parkTag x != p }))) ∧
    CompletesSup (.ldovt · a b) 0 0 0 { two with empty := .all } always
      (onCore fun c => c.setFp fun f =>
        { f with ovt := ((c.rdG b).extractLsb' 0 62).setWidth 128 <<< 64 ||| (c.rdG a).setWidth 128 }) ∧
    SupOnly .xret ∧ SupOnly .wfi ∧ SupOnly .halt ∧ SupOnly (.tlbinvPage · a b) ∧ SupOnly (.tlbinvVsid · b) ∧
    SupOnly .tlbinvAll ∧ SupOnly (.tlbreplay · a) ∧ SupOnly (.ldovt · a b)

/-! ## Exceptions and contexts -/

/-- R39, R142, R458, R459: taking an exception. Results in flight are written first; XPC holds the word's address, after a SYSCALL
the next word's; XCAUSE, XVAL and XPROG hold the cause, the value and the progress; PS and PT hold the privilege and the timing mode,
and the core is then in supervisor and CHECKED mode with EXL = 1; the trap record stands at XREC and the program counter is XVEC.
General, predicate, mask and vector registers, streams, loops and floating-point state keep what they held. -/
def Obligations.TrapEntry : Prop :=
  ∀ (s : State) (n : Nat) (cause : Cause) (x : Word) (m : BitVec 3) (pa : Nat) (pol : Policy),
    let c := (s.core n).drain
    let t := s.takeTrap n cause x m
    let r := (t.core n).regs
    let entered := c.regs.trap
    let recAt := (entered.xrec.setWidth 64 <<< 7 : Word).toNat
    let inside : Core := { c with
      regs := { c.regs with trap := { entered with
        xpc := if cause = .syscall then c.regs.pc + 12 else c.regs.pc, xcause := cause.code, xval := x, xprog := m,
        ps := entered.sup, pt := entered.tim, sup := true, tim := false, exl := true } },
      wait := .none, access := none, behind := false, ahead := false, owes := none,
      tmg := { c.tmg with clk := c.tmg.clk + 1, obuf := [], loopBuf := none, inside := none } }
    let s0 := ((s.setCore n c).leaveLockstep n).onDepth n (· + 1)
    let s1 := s0.setCore n inside
    let s2 := s1.writeGlobal n pa pol (s1.trapRecord n (s1.cycleOf n inside))
    (entered.exl = false → s1.pinned n recAt = some (pa, pol) →
      r.pc = entered.xvec.setWidth 64 <<< 2 ∧ r.trap.xpc = (if cause = .syscall then c.regs.pc + 12 else c.regs.pc) ∧
      r.trap.xcause = cause.code ∧ r.trap.xval = x ∧ r.trap.xprog = m ∧ r.trap.ps = entered.sup ∧ r.trap.pt = entered.tim ∧
      r.trap.sup = true ∧ r.trap.tim = false ∧ r.trap.exl = true ∧ r.trap.xvec = entered.xvec ∧ r.trap.xrec = entered.xrec ∧
      r.g = c.regs.g ∧ r.p = c.regs.p ∧ r.k = c.regs.k ∧ r.v = c.regs.v ∧ r.strm = c.regs.strm ∧ r.loops = c.regs.loops ∧
      r.fp = c.regs.fp ∧ (t.core n).spad = (s.core n).spad ∧ (t.core n).slices = (s.core n).slices ∧
      t.hbm = s2.hbm ∧ t.clusters = s2.clusters ∧ t.cur = s.cur) ∧
    (entered.exl = false → s1.pinned n recAt = none → t = s1.faultOnFault n recAt) ∧
    (entered.exl = true → t = s0.faultOnFault n c.regs.pc.toNat) ∧
    s1.trapRecord n (s1.cycleOf n inside) =
      toBytes 8 inside.regs.trap.xpc ++ toBytes 8 (cause.code.setWidth 64) ++ toBytes 8 x ++ toBytes 8 (m.setWidth 64) ++
        toBytes 8 inside.xstat ++ toBytes 8 (BitVec.ofNat 64 (s1.lcn n)) ++ toBytes 8 (s1.cycleOf n inside) ++ toBytes 8 0#64

/-- R464 to R470: contexts. CTXSAVE asks the cores of the context to halt and, once nothing of it runs, moves it to the glen store or
to an image; CTXLOAD brings it back to the places that its logical cores name. A yield request halts a core where R469 lets it, the
grace period's end does so by force, and a halted partition's launches end with status 5. -/
def Obligations.ContextForms : Prop :=
  ∀ (d a b : GReg) (swap : Bool) (k since core cl : Nat) (q : PTag) (x : Ctx) (ps : List (Nat × Nat))
    (pages : List (Nat × Policy)) (im : Image) (p : Fin 64) (o : Option (List Byte)) (bs : List Byte) (s' : State),
    let u : Uses := { srcs := [opG a, opG b], dsts := [opG d] }
    let tag (s : State) : PTag := (s.cc.rdG a).setWidth 6
    let adr (s : State) : Word := s.cc.rdG b
    let told (n : Nat) (s : State) : State :=
      onCore (fun c => { c with saving := none }.slipResult (.g d (BitVec.ofNat 64 n))) s
    let idle (s : State) : Prop := (adr s).toNat % 65536 = 0 ∧ s.cc.saving = some (since, q) ∧
      s.saveWaits (ownCluster s) (tag s) = false
    let saved (s : State) : Ctx := s.capture (ownCluster s) (tag s)
    CompletesSup (.ctxsave · d a b swap) 0 0 0 u
      (fun s => (adr s).toNat % 65536 = 0 ∧ s.cc.saving = none ∧
        s.saveStatus (ownCluster s) (tag s) (adr s == 0) swap = some k) (told k) ∧
    (∀ h s, s.cc.regs.trap.sup = true → Issues h u s → let s1 := issued h 0 0 0 u s
      (adr s1).toNat % 65536 = 0 → s1.cc.saving = none → s1.saveStatus (ownCluster s1) (tag s1) (adr s1 == 0) swap = none →
      let s2 := onCore (fun c => { c with saving := some (c.tmg.clk, tag s1) }) s1
      exec (.ctxsave h d a b swap) s = .next (onCore (fun c => c.setTmg fun m =>
          { m with clk := s1.cc.tmg.clk + 1, obuf := (s.cc.settle s1.cc.tmg.clk).tmg.obuf, inside := some (m.inside.getD c.lt),
                   began := if m.inside.isSome then m.began else s1.cc.tmg.clk })
        ((s2.liveIn (ownCluster s1) (tag s1)).foldl (fun (s : State) m => (s.askYield m).tryYield m) s2))) ∧
    GoesOnSup (.ctxsave · d a b swap)
      (fun s => idle s ∧ adr s = 0 ∧ (s.cluster (ownCluster s)).glen = none ∧ s.saveStatus (ownCluster s) (tag s) true swap = none)
      (fun s =>
        let t := s.removeCtx (ownCluster s) (saved s)
        told 0 (t.setCluster (ownCluster s) { t.cluster (ownCluster s) with glen := some (saved s) })) ∧
    GoesOnSup (.ctxsave · d a b swap)
      (fun s => idle s ∧ adr s = 0 ∧ (s.cluster (ownCluster s)).glen = some x ∧ s.saveStatus (ownCluster s) (tag s) true swap = none ∧
        let t := s.removeCtx (ownCluster s) (saved s)
        t.placesOf (ownCluster s) x = some ps ∧ t.anyLive ps = false)
      (fun s =>
        let t := s.removeCtx (ownCluster s) (saved s)
        told 0 ((t.setCluster (ownCluster s) { t.cluster (ownCluster s) with glen := some (saved s) }).restoreCtx (ownCluster s)
          (ownCluster s) x ps)) ∧
    GoesOnSup (.ctxsave · d a b swap)
      (fun s => idle s ∧ adr s ≠ 0 ∧ s.imagePlaces s.cur (adr s) true = .ok pages)
      (fun s => told 0 ((s.writeImage s.cur (ownCluster s) (saved s) pages).removeCtx (ownCluster s) (saved s))) ∧
    CompletesSup (.ctxload · d a b) 0 0 0 u
      (fun s => adr s = 0 ∧ (s.cluster (ownCluster s)).glen = some x ∧ x.ptag = tag s ∧
        s.placesOf (ownCluster s) x = some ps ∧ s.anyLive ps = false)
      (fun s => told 0 ((s.setCluster (ownCluster s) { s.cluster (ownCluster s) with glen := none }).restoreCtx
        (ownCluster s) (ownCluster s) x ps)) ∧
    CompletesSup (.ctxload · d a b) 0 0 0 u
      (fun s => adr s ≠ 0 ∧ (adr s).toNat % 65536 = 0 ∧ s.imagePlaces s.cur (adr s) false = .ok pages ∧
        s.imageLoad s.cur pages = (s', some bs) ∧ s'.imageOf bs (tag s) = some im ∧
        s'.placesOf (ownCluster s') im.ctx = some ps ∧ s'.anyLive ps = false)
      (fun _ => told 0 (({ s' with images := s'.images.map fun (j : Image) => if j.stamp = im.stamp then { j with out := false } else j
        } : State).restoreCtx im.cl (ownCluster s') im.ctx ps)) ∧
    (∀ s : State, s.imageOf bs q = some im → recGet bs 0 2 = 1 ∧ recGet bs 2 1 = q.setWidth 64 ∧
      recGet bs 0x10 4 = (crc32 (bs.drop 64)).setWidth 64 ∧ im.ctx.ptag = q) ∧
    CompletesSup (.ctxload · d a b) 0 0 0 u (fun s => adr s = 0 ∧ (s.cluster (ownCluster s)).glen = none) (told 1) ∧
    CompletesSup (.ctxload · d a b) 0 0 0 u
      (fun s => adr s = 0 ∧ (s.cluster (ownCluster s)).glen = some x ∧ x.ptag = tag s ∧
        s.placesOf (ownCluster s) x = some ps ∧ s.anyLive ps = true) (told 3) ∧
    CompletesSup (.ctxload · d a b) 0 0 0 u
      (fun s => adr s ≠ 0 ∧ (adr s).toNat % 65536 = 0 ∧ s.imagePlaces s.cur (adr s) false = .ok pages ∧
        s.imageLoad s.cur pages = (s', o) ∧ (o.bind fun bs => s'.imageOf bs (tag s)) = none) (fun _ => told 4 s') ∧
    SupOnly (.ctxsave · d a b swap) ∧ SupOnly (.ctxload · d a b) ∧
    (∀ h s, s.cc.regs.trap.sup = true → Issues h u s → (adr (issued h 0 0 0 u s)).toNat % 65536 ≠ 0 →
      exec (.ctxsave h d a b swap) s =
        .next ((issued h 0 0 0 u s).takeTrap s.cur .align (adr (issued h 0 0 0 u s)) 0)) ∧
    (∀ s : State, ((s.core core).mode = .running ∨ (s.core core).mode = .idle) →
      exec (.yieldRequest core) s = .next ((s.askYield core).tryYield core)) ∧
    (∀ s : State, (s.core core).mode ≠ .running → (s.core core).mode ≠ .idle → exec (.yieldRequest core) s = .next s) ∧
    (∀ s : State, exec (.graceExpiry cl) s = .next (((List.range 24).map (cl * 24 + ·)).foldl (fun (t : State) n =>
      match (t.core n).saving with
      | some (at_, r) => if at_ + 800 * (t.part r.toNat).grace.toNat ≤ t.now then t.forceHalt cl r else t
      | none => t) s)) ∧
    (∀ s : State, let p6 := BitVec.ofNat 6 p.val
      let down := (s.partCores p6).filter fun n => (s.core n).mode == .faulted
      (down = [] → exec (.haltedPartitionEnd p) s = .next s) ∧
      (down ≠ [] → exec (.haltedPartitionEnd p) s = .next (down.foldl
        (fun (t : State) n => t.setCore n { t.core n with mode := .faulted })
        ((s.launches.filter fun y => y.ptag == p6 && (y.state == .active || y.state == .pending)).foldl
          (fun (t : State) y => t.endLaunch (y.vdev, y.lid) 5) s))))

/-! ## What the units do on their own: cores, memory and messages -/

/-- R104, R190, R195, R204, R216, R230, R232, R235, R260, R261, R376: the events of a core's units and of memory. A division in flight
lands; a store to the event unit takes effect at its edge; a waiting access is performed and its word completes; a walk's
translation lets every access that still waits for it go on, and a user's failing one parks; an evicted software-managed copy merges
its dirty bytes at the floor's time; a running core's read stream fetches its next chunk; the crossbar applies its pulses, then its terms. -/
def Obligations.UnitEvents : Prop :=
  ∀ (s : State) (core die cl line n va level done : Nat) (e : Fin 64) (b : Fin 32) (x : BitVec 64) (vsid : BitVec 8) (granule : Nat)
    (swm : Bool) (y : Copy) (port : Fin 4) (p : StreamPort) (h : Hdr) (d a : GReg) (sz : BitVec 2) (ext : Bool) (imm : BitVec 32)
    (pa : Nat) (leaf : BitVec 64) (s1 : State) (xs : List Nat),
    let c := s.core core
    (c.tmg.flights.any (·.locked) = true → exec (.dividerResult core) s = .next (s.setCore core
      ((c.settle (max c.tmg.clk c.tmg.divBusy)).setTmg fun m => { m with clk := max c.tmg.clk c.tmg.divBusy }))) ∧
    (c.tmg.flights.any (·.locked) = false → exec (.dividerResult core) s = .next s) ∧
    exec (.evcWrite cl e x) s = .next (s.onLine cl e.val fun l => { l with count := x.setWidth 32, clk := max l.clk (s.clk + 4) }) ∧
    (∃ t, exec (.bcfgWrite cl b x) s = .next t ∧ (((s.cluster cl).barrier b.val).arr = 0 →
      ((s.cluster cl).barrier b.val).carr = 0 →
      let y := (t.cluster cl).barrier b.val
      y.en = x.getLsbD 63 ∧ y.ss = x.getLsbD 62 ∧ y.pbar = x.extractLsb' 57 5 ∧ y.chn = x.getLsbD 56 ∧
        y.plcn = x.extractLsb' 32 18 ∧ y.nch = x.extractLsb' 24 5 ∧ y.mask = x.extractLsb' 0 24 ∧
        y.gen = ((s.cluster cl).barrier b.val).gen)) ∧
    (c.wait = .none → exec (.globalAccessComplete core) s = .next s) ∧
    (∀ w, w = Wait.walk va ∨ w = .parked va → c.wait = w → c.access = some (.gld h d a sz ext imm) → s.gangOf core = none →
      let at_ := max c.tmg.clk s.clk
      let c0 : Core := { c with wait := .none, tmg := { c.tmg with clk := at_, issued := at_ } }
      let s0 : State := { s.setCore core c0 with cur := core }
      let n := 1 <<< sz.toNat
      Reaches s0 (c.rdG a + sx imm) n .read pa leaf → s0.readBad core pa n (leafPolicy leaf) = false →
        let r := s0.readGlobal core pa n (leafPolicy leaf)
        let k := (r.1.core core).slipResult (.g d (extendLoad sz ext r.2))
        exec (.globalAccessComplete core) s =
          .next { r.1.setCore core { k.complete at_ h.stall.toNat with access := none, moved := 0 } with cur := s.cur }) ∧
    exec (.pageWalk die vsid granule) s =
      .next ((s.walkers die vsid granule).foldl
        (fun (t : State) w => if (t.core w.1).wait = .walk w.2 then t.walkFor w.1 w.2 else t) s) ∧
    ((n, va) ∈ s.walkers die vsid granule ↔ dieOf n = die ∧ va / 65536 = granule ∧
      ∃ k, (n, k) ∈ s.cores ∧ k.vsid = vsid ∧ k.wait = .walk va) ∧
    (s.walk (s.core n).root va = .page level leaf → s.walkFor n va = (s.fillTlb n
      { vsid := (s.core n).vsid, level := level, vpn := va / 2 ^ levelShift level, leaf := leaf }).owe (.globalAccessComplete n)) ∧
    (s.walk (s.core n).root va = .fault swm level → (s.core n).regs.trap.sup = false →
      s.walkFor n va = s.parkCore n va (if swm then 1 else 0) level) ∧
    (s.walk (s.core n).root va = .fault swm level → (s.core n).regs.trap.sup = true → s.walkFor n va = s.faultOnFault n va) ∧
    ((s.cluster cl).copy line swm = none → exec (.l1dEviction cl line swm) s = .next s) ∧
    ((s.cluster cl).copy line swm = some y → (swm = false ∨ y.dirty = 0) →
      exec (.l1dEviction cl line swm) s = .next (s.dropCopy cl line swm)) ∧
    ((s.cluster cl).copy line true = some y → y.dirty ≠ 0 →
      exec (.l1dEviction cl line true) s = .next ((s.dropCopy cl line true).mergeCopy y (s.floor + 1)).1) ∧
    ((c.regs.strm[port] = none ∨ c.mode ≠ .running ∨ c.wait = .halted ∨
        ∃ q, c.regs.strm[port] = some q ∧ (q.desc.write = true ∨ 4 ≤ q.chunks.length)) →
      exec (.streamChunkArrive core port) s = .next s) ∧
    (c.regs.strm[port] = some p → p.desc.write = false → p.chunks.length < 4 → c.mode = .running → c.wait ≠ .halted →
      let ahead := (List.range p.chunks.length).foldl (fun (q : StreamPort) _ => { q with pos := q.pos + q.rest }) p
      ahead.rest ≠ 0 → ({ s with cur := core } : State).accessHolders (ahead.accesses fun _ => true) = [] →
      readChunk p.desc ahead.pos ahead.rest { s with cur := core } = .ok (s1, xs, none) →
      let q : StreamPort := { p with chunks := p.chunks ++ [(ofElems p.desc.width xs, true)], fetched := p.fetched + 1 }
      exec (.streamChunkArrive core port) s =
        .next { s1.setCore core ((s1.core core).setPort port (some q)) with cur := s.cur }) ∧
    (let k := s.cluster cl
      let edge := ((s.pulsesDue cl).map (·.1)).min?.getD s.clk
      let now (q : Nat × Pulse) : Bool := q.1 == edge && !s.pulseHeld cl q.2;
      exec (.xbarPulseArrive cl) s = .next ((s.setCluster cl { k with pulses := k.pulses.filter fun q => !now q }).xbarEdge cl (edge + 1)
        ((k.pulses.filter now).map (·.2)))) ∧
    (∀ (again : Nat) (qs : List Pulse),
      let t := (qs.mergeSort fun q r => decide (q.rank ≤ r.rank)).foldl (State.applyPulse cl) s
      let u := (List.range 32).foldl (State.evalTerm cl) t
      s.xbarEdge cl again qs = if (List.range 32).any fun j => ((t.cluster cl).xtermAt j).fires (t.cluster cl).count
        then u.pulse cl again .edge else u) ∧
    (let k := (s.cluster cl).xtermAt line;
      k.fires (s.cluster cl).count = false → State.evalTerm cl s line = s)

/-- R235, R236, R239, R241, R388, R391, R394, R395, R404, R472, R522: messages as they land. An event message adds to its line, or a
user's to a line of another partition is dropped and counted; a child's arrival is counted in its barrier; a release that is due
goes on; a claim takes a free slot, and its answer settles the channel; a channel message fills its slot, or is held in a compute
phase, or wakes the core that sleeps on it; a grant returns the credit; the answer to a declaration that is no more gives its slot back; a timed message becomes valid in its landing entry. -/
def Obligations.MessageEvents : Prop :=
  ∀ (s : State) (m : EvMsg) (ba : BarArrival) (br : BarRelease) (cm : Claim) (core : Nat) (slot ch land : Fin 16) (cmsg : ChanMsg)
    (n : Nat) (x : Chan) (v : Fin 32) (ep : Fin 256) (immd : BitVec 64) (data : List (BitVec 8)),
    let mayUse := m.sup || (s.cluster m.cl).owns (0x00 + m.line.val) m.tag
    let bar := (s.cluster br.cl).barrier br.b.val
    let due := if br.sync then br.clk else s.clk + 4
    let passed := s.release br.cl br.b.val due (max bar.time br.time) br.pand br.por
      (if br.sameDie then (if br.sync then some br.clk else none) else bar.stamp due)
    let sl := (s.core core).comm.slots[slot]
    let tgt := (s.core cm.dst).comm.slots[cm.slot]
    (mayUse = true → exec (.eventMessage m) s =
      .next ((s.writeTime m.time (.evu m.cl)).1.signal m.cl m.line.val (s.clk + 4) m.count)) ∧
    (mayUse = false → exec (.eventMessage m) s = .next (s.onPart m.tag.toNat fun p =>
      { p with evdrop := if p.evdrop = BitVec.allOnes 16 then p.evdrop else p.evdrop + 1 })) ∧
    (let t := s.signal m.cl m.line.val (s.clk + 4) m.count;
      t.cores = s.cores ∧ ((t.cluster m.cl).line m.line.val).count =
        BitVec.ofNat 32 (min (((s.cluster m.cl).line m.line.val).count.toNat + m.count.toNat) 0xFFFFFFFF)) ∧
    (let r := s.writeTime ba.time (.evu ba.cl);
      exec (.barrierArrivalMessage ba) s = .next ((r.1.onBarrier ba.cl ba.b.val fun y =>
        ({ y with clk := max y.clk (s.clk + 4) }).child { ba with time := r.2 }).settleBarrier ba.cl ba.b.val (s.clk + 4))) ∧
    (∀ y : Barrier, y.carr < y.nch → (y.child ba).carr = y.carr + 1 ∧ (y.child ba).pand = (y.pand && ba.pand) ∧
      (y.child ba).por = (y.por || ba.por) ∧ (y.child ba).time = max y.time ba.time) ∧
    (∀ y : Barrier, y.nch ≤ y.carr → y.child ba = { y with held := y.held ++ [ba] }) ∧
    (bar.sent = false → exec (.barrierReleaseMessage br) s = .next s) ∧
    (bar.sent = true → exec (.barrierReleaseMessage br) s = .next (if bar.held = [] then passed
      else passed.settleBarrier br.cl br.b.val due)) ∧
    (cm.rel = true → tgt.owner = some (cm.src, cm.ch) → exec (.channelClaim cm) s =
      .next ((s.onComm cm.dst fun c => c.setSlot cm.slot {}).landed cm.tag cm.src)) ∧
    (cm.rel = false → tgt.owner = none → exec (.channelClaim cm) s =
      .next ((s.onComm cm.dst fun c => c.setSlot cm.slot { owner := some (cm.src, cm.ch) }).sendLcn cm.dst cm.tag cm.src (s.core cm.dst).regs.trap.sup
        fun _ => .channelClaimAnswer cm true)) ∧
    (cm.rel = false → tgt.owner ≠ none → exec (.channelClaim cm) s =
      .next (s.sendLcn cm.dst cm.tag cm.src (s.core cm.dst).regs.trap.sup fun _ => .channelClaimAnswer cm false)) ∧
    (s.ofLcn cm.tag cm.src = some n → (s.core n).comm.chans[cm.ch] = some x → x.pending = true → x.decl = cm.decl → ∀ granted,
      let c := s.core n
      let y : Option Chan := if granted then some { x with credit := true, pending := false } else none
      let c1 := { c with comm := c.comm.setChan cm.ch y }
      exec (.channelClaimAnswer cm granted) s = .next ((s.setCore n
        ((c1.slipResult (.g cm.gdst (if granted then 1 else 0))).setTmg fun t =>
          { t with owed := t.owed.erase (opG cm.gdst) })).recheckBarriers (clusterOf n))) ∧
    (s.ofLcn cm.tag cm.src = some n → ((s.core n).comm.chans[cm.ch] = none ∨ ∃ x, (s.core n).comm.chans[cm.ch] = some x ∧
        (x.pending = false ∨ x.decl ≠ cm.decl)) →
      exec (.channelClaimAnswer cm false) s = .next (s.recheckBarriers (clusterOf n)) ∧
      exec (.channelClaimAnswer cm true) s = .next ((s.send n cm.dst (s.core n).regs.trap.sup
        (.channelClaim { cm with rel := true })).recheckBarriers (clusterOf n))) ∧
    (sl.owner ≠ some (cmsg.src, cmsg.ch) → exec (.channelMessageLand core slot cmsg) s =
      .next (s.landed (s.core core).ctag cmsg.src)) ∧
    (sl.owner = some (cmsg.src, cmsg.ch) → (s.core core).regs.trap.phase = 1 → exec (.channelMessageLand core slot cmsg) s =
      .next ((s.onComm core fun k => k.setSlot slot { sl with held := some cmsg }).landed (s.core core).ctag cmsg.src)) ∧
    (sl.owner = some (cmsg.src, cmsg.ch) → (s.core core).regs.trap.phase ≠ 1 → (s.core core).wait = .none →
      exec (.channelMessageLand core slot cmsg) s =
        .next ((s.onComm core fun k => k.setSlot slot { sl with full := true, msg := cmsg }).landed (s.core core).ctag cmsg.src)) ∧
    (∀ d, sl.owner = some (cmsg.src, cmsg.ch) → (s.core core).regs.trap.phase ≠ 1 → (s.core core).wait = .slot slot d →
      let s1 := (s.onComm core fun k => k.setSlot slot { sl with full := true, msg := cmsg }).receive core slot d
      exec (.channelMessageLand core slot cmsg) s = .next ((s1.wakeWith core (s.clk + 2) fun c =>
        c.complete c.tmg.clk c.waitStall).landed (s.core core).ctag cmsg.src)) ∧
    ((s.core core).comm.chans[ch] = none → exec (.channelGrant core ch) s = .next s) ∧
    ((s.core core).comm.chans[ch] = some x → ∃ t, exec (.channelGrant core ch) s = .next t ∧
      let s1 := s.onComm core fun c => c.setChan ch (some { x with credit := true })
      t = (s1.cores.map fun e => clusterOf e.1).eraseDups.foldl State.recheckBarriers s1) ∧
    (exec (.timedMessageLand core land cmsg) s =
      .next (if (s.core core).regs.trap.phase = 2
        then s.onComm core fun k => { k with landing := k.landing.set land (some cmsg) } else s)) ∧
    ((Tab.get 0 (s.vd v.val).endpoints ep.val).getLsbD 0 = false → exec (.networkReceive v ep immd data) s = .next s)

/-- R327, R329, R332 to R336, R344: the array's own steps. The share takes the operation that its order names, once its clk has come; a
zeroing or freeing is performed as it starts, one that reaches a POISON tile is skipped, a product forms its rows from the operands that
it reads and streams for its k-steps, or up to the one that its stream stops at; the end of a streaming records that fault or lets the
drain begin 7 clk later; the row of the earliest clk is written next (log 173), raises the watermark, and the next is due a clk later; a
finished operation leaves the queue. -/
def Obligations.ArrayEvents : Prop :=
  ∀ (s : State) (cl : Nat) (sh : Fin 2) (i : Nat) (o : ZOp) (t dt : Tag) (m : MmaOp) (row cause group : Nat) (p : RowPlace)
    (mode : BitVec 3) (ovt : BitVec 128),
    let x : Share := (s.cluster cl).share sh
    let rows := (s.cluster cl).shareRows sh
    let begun : ZOp := { o with started := true, time := s.agentStart o.core 2 }
    let served : State := s.onShare cl sh fun y => { y with served := indexOf o.core }
    let done (o : ZOp) (s : State) : State :=
      (s.onShare cl sh fun y => y.setOp i { o with done := true }).owe (.arrayOpFinish cl sh)
    let picks : Prop := x.pick rows s.clk = some i ∧ x.queue[i]? = some o
    let tile := x.tiles[o.tile]
    let runs := isPoison tile.tag = false ∨ o.kind.rewrites = true
    let slow : State := { served.onShare cl sh fun y => y.setOp i { begun with due := s.clk + Config.zArrive s.draws } with draws := s.draws + 1 }
    let ready (o : ZOp) : Bool := o.started && !o.done && !o.streaming && decide (o.next < rows)
    let writes : Prop := x.nextRow rows = some i ∧ x.queue[i]? = some o
    let ends : Prop := x.queue.findIdx? (fun q => q.streaming && decide (q.due ≤ s.clk)) = some i ∧ x.queue[i]? = some o
    (x.pick rows s.clk = none → exec (.arrayOpStart cl sh) s = .next s) ∧
    (picks → isPoison tile.tag = true → o.kind.rewrites = false →
      exec (.arrayOpStart cl sh) s = .next ((done begun (served.setWm cl sh i o.tile rows)).owe (.scaleWriteRelease cl sh))) ∧
    (picks → o.kind = .zero t → exec (.arrayOpStart cl sh) s = .next (done begun
      ((served.onTile cl sh o.tile fun z => { z with rows := [], tag := t }).setWm cl sh i o.tile rows))) ∧
    (picks → o.kind = .free → exec (.arrayOpStart cl sh) s = .next (done begun
      ((served.onTile cl sh o.tile fun z => { z with rows := [], tag := 0, flags := 0 }).setWm cl sh i o.tile rows))) ∧
    (picks → runs → o.kind = .store dt p mode ovt → exec (.arrayOpStart cl sh) s = .next slow) ∧
    (picks → o.kind = .mma m → isPoison tile.tag = false → ∃ t, exec (.arrayOpStart cl sh) s = .next t ∧
      let v := served.arrayView [m.aCore, m.bCore] (begun.time + 1)
      let stop := v.mmaStop rows m
      let steps := (stop.map (·.1 + 1)).getD m.steps
      ∃ q, ((t.cluster cl).share sh).queue[i]? = some q ∧ q.started = true ∧ q.done = o.done ∧ q.next = o.next ∧ q.kind = o.kind ∧
        q.stop = stop.map (·.2) ∧ q.due = s.clk + steps * stepCost m.fmt - 1 ∧
        q.rows = if stop.isSome then [] else (List.range rows).map fun r => v.mmaRow rows m r (tile.row r)) ∧
    (∀ (y : Share) (j now : Nat), y.pick rows now = some j → ∃ q : ZOp, y.queue[j]? = some q ∧ q.started = false ∧ q.due ≤ now ∧
      (∀ (k : Nat) (q' : ZOp), k < j → y.queue[k]? = some q' → q'.tile ≠ q.tile ∧ (q'.core = q.core → q'.started = true) ∧
        q'.storesOver rows (q.ranges rows) = false) ∧
      (q.kind.streams = true → ∀ q' ∈ y.queue, q'.streaming = false)) ∧
    (∀ (y : Share) j, y.nextRow rows = some j → ∃ q : ZOp, y.queue[j]? = some q ∧ ready q = true ∧
      ∀ q' ∈ y.queue, ready q' = true → q.due ≤ q'.due) ∧
    (∀ y : Share, y.nextRow rows = none → ∀ q ∈ y.queue, ready q = false) ∧
    (x.nextRow rows = none → ∀ bad, exec (.arrayRowWrite cl sh bad) s = .next s) ∧
    (writes → o.kind = .mma m →
      let written := (s.onTile cl sh o.tile fun z =>
        { z.setRow o.next (o.rows.getD o.next (0, 0)).1 with flags := z.flags ||| (o.rows.getD o.next (0, 0)).2 }).setWm cl sh i
          o.tile (o.next + 1)
      let owner := tile.owner.getD o.core
      exec (.arrayRowWrite cl sh false) s = .next (if o.next + 1 < rows then written.onShare cl sh fun y =>
          y.setOp i { o with next := o.next + 1, due := o.due + 1 }
        else done { o with next := o.next + 1 } written) ∧
      exec (.arrayRowWrite cl sh true) s = .next (((s.opFault cl sh i o 2 o.next 0).postError 2 (s.core owner).ptag owner).suspect (.array cl) 16)) ∧
    (writes → o.kind = .store dt p mode ovt → o.next + 1 < rows →
      let b := storeRow tile.tag dt mode ovt (tile.row o.next)
      let w := s.writeTime (o.time + 1) ((p.place o.next).home cl)
      exec (.arrayRowWrite cl sh false) s = .next
        ({ (w.1.writePlace (p.place o.next) b.1).onTile cl sh o.tile fun z => { z with flags := z.flags ||| b.2 } with
            draws := s.draws + 1 }.onShare cl sh fun y =>
          y.setOp i { o with time := w.2, due := o.due + Config.zArrive s.draws + 1, next := o.next + 1 })) ∧
    (x.queue.findIdx? (·.done) = none → exec (.arrayOpFinish cl sh) s = .next s) ∧
    (x.queue.findIdx? (·.done) = some i → x.queue[i]? = some o →
      let waits (y : ZOp) : Bool := y.tile == o.tile || ({ o with done := false } : ZOp).storesOver rows (y.ranges rows)
      let s1 := s.onShare cl sh fun y => { y with queue := y.queue.eraseIdx i }.putOff (s.clk + 1) waits
      let s2 := s1.onCore o.core fun c => { c with eng := { c.eng with zdone := max c.eng.zdone o.time } }
      exec (.arrayOpFinish cl sh) s = .next (if o.kind.pulses then s2.matrixPulse cl sh else s2)) ∧
    (∀ (y : Share) (clk : Nat) (those : ZOp → Bool) (j : Nat) (q : ZOp), y.queue[j]? = some q → (y.putOff clk those).queue[j]? =
      some (if q.started = false ∧ those q = true then { q with due := max q.due clk } else q)) ∧
    (let streams := s.onShare cl sh fun y => y.putOff (s.clk + 1) (·.kind.streams);
      (ends → o.stop = none → s.endStream cl sh = streams.onShare cl sh fun y => y.setOp i { o with streamed := true, due := o.due + 7 }) ∧
      (ends → o.stop = some (row, cause, group) → cause ≠ 3 →
        s.endStream cl sh = streams.opFault cl sh i o (BitVec.ofNat 2 cause) row group) ∧
      (ends → o.stop = some (row, cause, group) → cause = 3 →
        let f := streams.opFault cl sh i o 3 row group
        s.endStream cl sh = f.postError 1 (f.core o.core).ptag o.core)) ∧
    (∃ t, exec (.scaleWriteRelease cl sh) s = .next t ∧ t.cores = (s.endStream cl sh).cores ∧
      t.clusters = (s.endStream cl sh).clusters ∧ ∀ e ∈ (s.endStream cl sh).pending, e ∈ t.pending)

/-- R355 to R374, R522: what the engines do with accepted commands. A started command runs on line by line until it completes, waits or
stops, an X command on one of the two engines of its cluster; COMMAND_COMPLETE completes one whose data is done: its message is handed over, its completion word is written, its event and its pulse are raised,
and it leaves its entry; a failing one is recorded in its class; the first P commands of a launch that name a group form a generation,
once none of them is parked; a pair is added to its entry; the entries of a ring are read in order, and a storage request writes its
completion; a received message goes to its buffer and its completion to the ring. -/
def Obligations.EngineEvents : Prop :=
  ∀ (s : State) (core seq : Nat) (cls : Fin 4) (c : Cmd) (k : Cause) (v : Word) (s1 s2 s3 : State) (g g1 g2 g3 : Agent) (lid vdev : Nat)
    (gid : BitVec 32) (first : Member) (rest : List Member) (a : CollArgs) (xs : List (Member × List Byte)) (media : Bool)
    (status blocks : Nat) (x : BitVec 512) (vd : Fin 32) (ep : Fin 256) (immd : BitVec 64) (data tail : List Byte),
    let here : Prop := s.cmd core cls seq = some c
    let gone (t : State) (c : Cmd) : State := (t.finishCmd core c).leftEngine core c
    let kept (n : Nat) (t : State) (c : Cmd) : Prop := (t.core n).eng.cmds.all (fun d => !(d.cls == c.cls && d.seq == c.seq)) = true
    let group := s.collPending (vdev, lid) gid
    let live : Prop := ∀ x ∈ s.launches.find? fun x => x.vdev == vdev && x.lid == lid, s.awayCores (x.hdr.extractLsb' 48 6) = []
    let e := Tab.get 0 (s.vd vd.val).endpoints ep.val
    let n := Tab.get 0 (s.vd vd.val).received ep.val
    let ring := 2 ^ ((e.extractLsb' 24 8).toNat)
    let size := 2 ^ ((e.extractLsb' 16 8).toNat)
    (s.cmd core cls seq = none → exec (.commandComplete core cls seq) s = .next s) ∧
    (here → c.st ≠ .started ∨ s.hasEngine core c = false → exec (.commandComplete core cls seq) s = .next s) ∧
    (s.hasEngine core c = false → c.cls = 0 ∧ c.engine = false ∧ 2 ≤ s.enginesHeld (clusterOf core)) ∧
    (here → c.st = .started → s.hasEngine core c = true → exec (.commandComplete core cls seq) s = State.runCmd core (c.work + 2 - c.prog) c s) ∧
    (∀ fuel, s.dataDone core c = true → State.runCmd core (fuel + 1) c s = s.completeCmd core c) ∧
    (∀ fuel c1, s.dataDone core c = false → s.advance core c = .go s1 c1 →
      State.runCmd core (fuel + 1) c s = State.runCmd core fuel c1 (s1.countLine core c c1)) ∧
    (∀ fuel c1, s.dataDone core c = false → s.advance core c = .wait s1 c1 →
      State.runCmd core (fuel + 1) c s = .next (s1.putCmd core { c1 with engine := c1.cls == 0 })) ∧
    (here → c.st = .started → s.hasEngine core c = true → s.dataDone core c = true → c.prog < c.work + 2 → c.dropped = none → s.ephDenied c = false →
      let x := s.handOver c
      (c.hdr.cw = false → exec (.commandComplete core cls seq) s = .next (x.1.signalCmd core x.2)) ∧
      (c.hdr.cw = true → x.1.agentStore (x.2.agent core) c.hdr.cwa (toBytes 8 c.hdr.cwv) = .ok (s1, g) →
        exec (.commandComplete core cls seq) s = .next (s1.signalCmd core { x.2 with time := g.time }))) ∧
    ((∀ q l h w, c.body ≠ .send q l h w) → s.ephDenied c = false ∧ s.handOver c = (s, c)) ∧
    (∀ q l e w, c.body = .send q l e w → c.formed = false →
      s.handOver c = (s.report (.netSend (s.cmdVd c) e.toNat w c.out), { c with formed := true })) ∧
    (c.hdr.evl = false → c.hdr.pul = false → s.signalCmd core c = gone s c) ∧
    (c.hdr.evl = false → c.hdr.pul = true →
      s.signalCmd core c = gone (s.pulse (clusterOf core) (s.clk + 2) (.command c.hdr.ctr c.ptag c.sup)) c) ∧
    kept core (gone s c) c ∧
    (s.cmd core cls seq = none → exec (.commandFail core cls seq) s = .next s) ∧
    (here → c.st = .failing k v → ∃ t, exec (.commandFail core cls seq) s = .next t ∧ kept core t c ∧
      let f := (s.core core).eng.efault[cls]
      (t.core core).eng.efault[cls] = if f.v then { f with more := true }
        else { v := true, more := false, cause := k.code.setWidth 6, seq := BitVec.ofNat 48 seq, val := v, clk := s.clk,
               wid := ((s.core core).task.map (·.wid)).getD 0 }) ∧
    (∀ x ∈ s.launches.find? fun x => x.vdev == vdev && x.lid == lid,
      exec (.collectiveGeneration lid vdev gid) s =
        s.withAway (x.hdr.extractLsb' 48 6) fun s => s.tryGeneration (vdev, lid) gid) ∧
    (∀ (p : PTag) (f : State → Host.Outcome State Fault Refusal), s.awayCores p = [] → s.withAway p f = f s) ∧
    (live → group = [] → exec (.collectiveGeneration lid vdev gid) s = .next s) ∧
    (live → group = first :: rest → first.2.coll = some (gid, a) → group.length < a.p →
      exec (.collectiveGeneration lid vdev gid) s = .next s) ∧
    (live → group = first :: rest → first.2.coll = some (gid, a) → (∃ m ∈ group.take a.p, m.2.parked = true) →
      exec (.collectiveGeneration lid vdev gid) s = .next s) ∧
    (live → group = first :: rest → first.2.coll = some (gid, a) → a.p ≤ group.length →
      (∀ m ∈ group.take a.p, m.2.parked = false ∧ ∃ b, m.2.coll = some (gid, b) ∧ b.op = a.op ∧ b.red = a.red ∧ b.dfmt = a.dfmt ∧
        b.len = a.len ∧ b.p = a.p) →
      readMembers ((group.take a.p).mergeSort fun x y => decide (s.lcn x.1 ≤ s.lcn y.1)) s = .ok (s1, xs) →
      exec (.collectiveGeneration lid vdev gid) s = .next (s1.formGeneration a xs)) ∧
    (s.sumPairs = [] → ∀ j, exec (.spsumPairAdd j) s = .next s) ∧
    (∀ (p : SumPair) b, s.sumPairs = [p] → s.cmd p.core p.cls p.seq = some c → c.ptag = p.ptag → c.st = .started → c.coll = some (gid, a) →
      let w := (fmtOf a.dfmt).width / 8
      let at_ := a.dsta + BitVec.ofNat 64 (p.idx * w)
      leaves a.dsta at_ = false →
      { s with draws := s.draws + 2 }.agentBytes (c.agent p.core) at_ w = .ok (s1, g, b) →
      s1.agentStore g at_ (toBytes w (sumVal (fmtOf a.dfmt) (ofBytes 64 b) p.val)) = .ok (s2, g1) →
      ∀ j, exec (.spsumPairAdd j) s = .next (({ s2 with sumPairs := [] }.putCmd p.core { c with time := g1.time }).owe
        (.commandComplete p.core p.cls p.seq))) ∧
    (s.cmd core 2 seq = none → exec (.storageCompletion core seq media) s = .next s) ∧
    (∀ v r i, s.cmd core 2 seq = some c → c.st = .started → c.body = .storage v r i (some x) → c.out = [] →
      s.storageWork core c (storageReq x) media = .ok (s2, g, status, blocks) →
      let done := storageDone (storageReq x) status blocks
      (s2.cplaOk core c (storageReq x).cpla = false → exec (.storageCompletion core seq media) s =
        s2.stopCmd core { c with time := g.time, out := done } (.fail .bounds (storageReq x).cpla)) ∧
      (s2.cplaOk core c (storageReq x).cpla = true → s2.agentStore { c.agent core with time := g.time } (storageReq x).cpla done = .ok (s3, g1) →
      exec (.storageCompletion core seq media) s = .next (s3.finishCmd core { c with time := g1.time, out := done }))) ∧
    (∀ v r i, s.cmd core 2 seq = some c → c.st = .started → c.body = .storage v r i none →
      (∀ pa, s.agentBytes (c.agent core) (BitVec.ofNat 64 ((Tab.get {} (s.vd v).rings r).base.toNat + 64 * i)) 64 ≠
        .error (.noMemory pa)) →
      exec (.storageCompletion core seq media) s = .next (State.readRing v r 128 s)) ∧
    (∀ v r fuel, s.nextUnread v r = none → State.readRing v r fuel s = s) ∧
    (∀ v r fuel, s.nextUnread v r = some (core, c) → s.cmd core c.cls c.seq ≠ some c ∨ c.st ≠ .started →
      State.readRing v r fuel s = s) ∧
    (∀ v r i fuel, s.nextUnread v r = some (core, c) → s.cmd core c.cls c.seq = some c → c.st = .started → c.body = .storage v r i none →
      s.readEntry core c v r i = .ok s1 →
      State.readRing v r (fuel + 1) s =
        State.readRing v r fuel (if s1.pending.contains (c.turn core) then s1 else s1.owe (c.turn core))) ∧
    ((storageReq x).ok = false → s.storageWork core c (storageReq x) media = .ok (s, c.agent core, 4, 0)) ∧
    (e.getLsbD 0 = true → s.partAgent (e.extractLsb' 8 6) = some g →
      s.agentBytes { g with time := s.portTime, ordered := false } (e.extractLsb' 448 64) 8 = .ok (s1, g1, tail) →
      (n - (ofBytes 64 tail : Word).toNat < ring →
        s1.agentStore g1 (e.extractLsb' 320 64 + BitVec.ofNat 64 (n % ring * size)) (data.take size) = .ok (s2, g2) →
        s2.agentStore g2 (e.extractLsb' 384 64 + BitVec.ofNat 64 (n % ring * 16))
          (rxCompletion immd (data.take size).length n (decide (size < data.length))) = .ok (s3, g3) →
        exec (.networkReceive vd ep immd data) s =
          .next (s3.onVd vd.val fun d => { d with received := Tab.set d.received ep.val (n + 1) })) ∧
      (ring ≤ n - (ofBytes 64 tail : Word).toNat →
        exec (.networkReceive vd ep immd data) s = .next (s1.report (.notReady vd.val ep.val))))

/-! ## Launches, queues, the tick and the network -/

/-- R410, R411, R414, R418, R419, R420, R423, R425, R512: a write of the launch window waits behind its requester's earlier writes, and submits its header once it
covers 0x78 or more; a
pending launch whose turn it is becomes active and its work begins, a malformed one completes; one with no work left completes with its
record and signal; an idle core takes the oldest entry of the highest priority of the first queue in its order; entries that waited
too long move up one priority, and none is lost. -/
def Obligations.LaunchEvents : Prop :=
  ∀ (s : State) (v : Fin 32) (req : Nat) (off : BitVec 7) (data : List (BitVec 8)) (lid core : Nat) (x : Launch) (p : PTag)
    (q : QueueId) (i : Nat) (e : QEntry) (es : List QEntry) (limit : Nat),
    let w := patchHeader (s.vd v.val).window off.toNat data
    let s0 := s.onVd v.val fun d => { d with window := w }
    let set := if x.bulk then s.coreSet x else []
    let here : Prop := s.launch? (v.val, lid) = some x
    let bad : Bool := s.headerBad x set.length || (x.bulk && x.tooManyBarriers set)
    let held : Bool := s.launches.any (fun y => y.state == .pending && y.ptag == x.ptag && decide (y.order < x.order)) ||
      (x.bulk && !s.setIdle x set)
    let c := s.core core
    (s.portBusy req = true → exec (.launchWindowWrite v req off data) s =
      .next (s.enterPort { req := req, v := v.val, off := off.toNat, a := .write data, launch := true })) ∧
    (s.portBusy req = false → data = [] ∨ off.toNat + data.length ≤ 0x78 → exec (.launchWindowWrite v req off data) s = .next s0) ∧
    (s.portBusy req = false → data ≠ [] → 0x78 < off.toNat + data.length → exec (.launchWindowWrite v req off data) s =
      .next (s0.submit v.val w none (s0.postedTime req)).1) ∧
    ((256 ≤ (s.launches.filter fun y => y.vdev == v.val && y.state == .pending).length → ∀ hdr n t,
      (s.submit v.val hdr n t).2 = 0 ∧ (s.submit v.val hdr n t).1.launches = s.launches)) ∧
    (s.launch? (v.val, lid) = none → exec (.launchActivate v lid) s = .next s ∧ exec (.launchComplete v lid) s = .next s) ∧
    (here → x.state ≠ .pending → exec (.launchActivate v lid) s = .next s) ∧
    (here → x.state = .pending → bad = true → exec (.launchActivate v lid) s = .next (s.completing x 2)) ∧
    (here → x.state = .pending → bad = false → held = true → exec (.launchActivate v lid) s = .next s) ∧
    (here → x.state = .pending → bad = false → held = false →
      let r := s.guestTimes v.val
      let time := if x.core.isSome then x.time else max x.time s.floor + 1
      let lcns := set.map (s.lcnIn (some x.ptag))
      let y : Launch := { x with state := .active, activated := true, time := time, tss := r.1, tsc := r.2, set := lcns, ran := lcns,
                                 code := some (s.codeNow x.ptag) }
      let s1 := s.putLaunch y
      let s2 := if x.cdrec = 0 then s1 else s1.editDomain x.ptag ((s1.actor x.ptag).getD 0) x.cdrec openForLaunch
      let t := s2.beginWork y set
      exec (.launchActivate v lid) s = .next ((t.launches.filter fun z => z.state == .pending && z.ptag == x.ptag).foldl
        (fun (u : State) z => u.owe (.launchActivate ⟨z.vdev % 32, Nat.mod_lt _ (by decide)⟩ z.lid)) t)) ∧
    (x.bulk = false → s.beginWork x set = s.enqueue ((s.actor x.ptag).getD 0) x.ptag (s.launchQueue x) x.range) ∧
    (here → ¬ (x.state = .completing ∨ (x.state = .active ∧ s.launchDone x = true)) → exec (.launchComplete v lid) s = .next s) ∧
    (here → x.state = .completing ∨ (x.state = .active ∧ s.launchDone x = true) → x.cdrec = 0 →
      let y : Launch := { x with state := .completing }
      exec (.launchComplete v lid) s = (((s.putLaunch y).freeTiles (v.val, lid)).freeChannels y).finishLaunch y) ∧
    (∀ (g : Agent) s1 g1 s2 g2 bs s3 g3,
      s.partAgent ((s.reportTag x).getD 0) = some g →
      let faults := s.faultyCores x
      let n := x.fcnt + faults.length
      let r := s.guestTimes x.vdev
      let y : Launch := if x.activated then x else { x with tss := r.1, tsc := r.2 }
      let sig : Word := x.hdr.extractLsb' (8 * 0x40) 64
      s.agentStore { g with time := s.maxTime } (x.hdr.extractLsb' (8 * 0x38) 64)
        (completionRecord y (if x.status ≠ 0 then x.status else if n = 0 then 0 else 1) n (x.firstWid faults) r.1 r.2) = .ok (s1, g1) →
      s1.agentBytes g1 sig 8 = .ok (s2, g2, bs) → s2.agentStore g2 sig (toBytes 8 (ofBytes 64 bs + 1#64)) = .ok (s3, g3) →
      let t := s3.signalLaunch y g3.time
      s.finishLaunch x = .next ({ t with ownCode := t.ownCode.filter fun z => z.1 != (x.vdev, x.lid) }.putLaunch
        { x with state := .complete, code := none })) ∧
    (s.searching core = none → exec (.taskPop core) s = .next s) ∧
    (s.searching core = some p → (s.searchOrder p core c.widened).all (fun q => (s.queue q).isEmpty) = true →
      exec (.taskPop core) s = .next s) ∧
    (s.searching core = some p → (s.searchOrder p core c.widened).find? (fun q => !(s.queue q).isEmpty) = some q →
      bestEntry (s.queue q) = some i → (s.queue q)[i]? = some e →
      exec (.taskPop core) s = .next ((s.popAt core p q i e).offer p)) ∧
    (∃ k, (s.popAt core p q i e).core core = c.startTask k s.clk ∧ k.wid = e.cont.wid ∧ k.prio = e.prio ∧ k.entry = e.cont ∧
      k.launch = e.launch) ∧
    (bestEntry es = some i → es[i]? = some e → (∀ d ∈ es, d.prio ≤ e.prio) ∧
      ∀ (j : Nat) (d : QEntry), j < i → es[j]? = some d → d.prio < e.prio) ∧
    (c.mode = .idle → c.idleSince + 1024 ≤ s.now →
      exec (.idleSearchWiden core) s = .next ((s.setCore core { c with widened := true }).owe (.taskPop core))) ∧
    (¬ (c.mode = .idle ∧ c.idleSince + 1024 ≤ s.now) → exec (.idleSearchWiden core) s = .next s) ∧
    (exec .queueAging s = .next { s with queues := s.queues.map fun (k : QueueId × List QEntry) =>
      let limit := (s.part (match k.1 with | .cluster p _ => p | .die p _ => p)).aging.toNat
      if limit = 0 then k else (k.1, ageQueue s.ticks limit k.2) }) ∧
    ((ageQueue s.ticks limit es).length = es.length ∧
      (∀ d ∈ es, 3 ≤ d.prio ∨ s.ticks ≤ d.tick + limit → d ∈ ageQueue s.ticks limit es) ∧
      ∀ d ∈ es, d.prio < 3 → d.tick + limit < s.ticks →
        { d with prio := d.prio + 1, tick := s.ticks } ∈ ageQueue s.ticks limit es)

/-- R200, R432, R436, R450, R467, R477, R484, R498: the domain handler takes the oldest charge; an audit is decided by the signatures of
its runs; the tick moves the floor, and every core past it; snapshots and migration; a packet is delivered, dropped and counted, or
refused by its tag. -/
def Obligations.TickAndNetworkEvents : Prop :=
  ∀ (s : State) (x : Charge) (more : List Charge) (a : Audit) (audits : List Audit) (sig2 sig3 : BitVec 64) (unit2 unit3 : SuspUnit)
    (v : Fin 32) (cycleLast saddleLast : BitVec 64) (id : Nat) (k : Packet) (r w : Word) (p : PTag) (l : Option (Nat × Nat))
    (e : Nat × Core),
    let took := { s with charges := more }
    let decided := let t := { s with audits := audits }
      match a.launch with
      | some (d, i) => t.owe (.launchComplete ⟨d % 32, Nat.mod_lt _ (by decide)⟩ i)
      | none => t
    let charged (t : State) : State := if a.parent = 0 then t.onLaunch a.launch (Launch.charged a.wid false)
      else t.postErrorFor 5 a.ptag a.core { core := a.core, dom := some (a.parent, a.ptag, a.launch, a.wid) }
    let placed : Prop := s.replayPlace a unit2 = true
    let third : Prop := unit3 ≠ unit2 ∧ unit3 ≠ .core a.core ∧ (unitCore unit3).isSome = true
    let gone := { s with net := s.net.filter fun y => y.id != id }
    let found : Prop := s.net.find? (fun y => y.id == id) = some k
    let fenced := s.dieFenced (dieOf k.dst) || s.dieFenced (dieOf k.src)
    let slots := s.slotsOf k.dst
    (∀ n, s.charges.any (fun y => y.core == n) = true ∨ (s.die (dieOf n)).derrWait.any (fun y => y.1.core == n) = true →
      s.released n = s) ∧
    (∀ n, s.charges.any (fun y => y.core == n) = false → (s.die (dieOf n)).derrWait.any (fun y => y.1.core == n) = false →
      (s.core n).mode ≠ .idle → s.released n = (s.onCore n fun c => { c with errStop := false }).notBefore n s.clk) ∧
    (s.charges = [] → s.cores.find? (fun e => e.2.failedPhase && !e.2.errStop) = none → exec .domainCharge s = .next s) ∧
    (s.charges = [] → s.cores.find? (fun e => e.2.failedPhase && !e.2.errStop) = some e →
      exec .domainCharge s = .next (s.postError 7 e.2.ptag e.1)) ∧
    (s.charges = x :: more → x.dom = none → exec .domainCharge s = .next ((took.chargeCore x.core).released x.core)) ∧
    (s.charges = x :: more → x.dom = some (r, p, l, w) → exec .domainCharge s =
      .next ((took.chargeDomain p x.core l w chainDepth r).released x.core)) ∧
    (s.audits = [] → exec (.auditReplay sig2 sig3 unit2 unit3) s = .next s) ∧
    (s.audits = a :: audits → placed → sig2 = a.sig → exec (.auditReplay sig2 sig3 unit2 unit3) s = .next decided) ∧
    (s.audits = a :: audits → placed → third → sig2 ≠ a.sig → sig3 = a.sig →
      exec (.auditReplay sig2 sig3 unit2 unit3) s = .next (decided.suspect unit2 80)) ∧
    (s.audits = a :: audits → placed → third → sig2 ≠ a.sig → sig3 = sig2 →
      exec (.auditReplay sig2 sig3 unit2 unit3) s = .next (charged (decided.suspect (.core a.core) 80))) ∧
    (s.audits = a :: audits → placed → third → sig2 ≠ a.sig → sig3 ≠ a.sig → sig3 ≠ sig2 → exec (.auditReplay sig2 sig3 unit2 unit3) s =
      .next (charged (((decided.suspect (.core a.core) 80).suspect unit2 80).suspect unit3 80))) ∧
    (s.audits = a :: audits → s.replayPlace a unit2 = false → exec (.auditReplay sig2 sig3 unit2 unit3) s = .next s) ∧
    (∃ t, exec .saddleTick s = .next t ∧ t.ticks = s.ticks + 1 ∧ t.hbm = s.hbm ∧
      (s.floor < 2 ^ 62 → t.floor = max s.floor s.tickMax + 65536 ∧ t.tickMax = s.coreMax) ∧
      ∀ e ∈ t.cores, t.floor < e.2.lt) ∧
    ((s.vd v.val).snapp = 0 → exec (.vdSnapshot v) s = .next s) ∧
    ((s.vd v.val).snapp ≠ 0 → s.sp.regions.any (fun g => g.v == v.val) = false → ∃ t, exec (.vdSnapshot v) s = .next t ∧
      ∃ y, (t.vd v.val).snap = some y ∧ y.hbm = s.hbm ∧ y.bad = s.hbmBad ∧ t.hbm = s.hbm) ∧
    (∃ t, exec (.vdMigration v cycleLast saddleLast) s = .next t ∧
      (cycleLast.toNat < 2 ^ 63 → cycleLast.toNat ≤ (BitVec.ofNat 64 s.now + (t.vd v.val).cofs).toNat) ∧
      (saddleLast.toNat < 2 ^ 63 → saddleLast.toNat ≤ (BitVec.ofNat 64 s.ticks + (t.vd v.val).sofs).toNat) ∧
      ∀ im ∈ s.images, im.out = true → (s.part im.ctx.ptag.toNat).vdev.toNat = v.val → ∃ im' ∈ t.images, im'.floor = s.floor ∧
        im'.ctx.cores = im.ctx.cores.map fun (e : Nat × Nat × Core) =>
          (e.1, e.2.1, { e.2.2 with lt := s.floor + (e.2.2.lt - im.floor) })) ∧
    (s.net.find? (fun y => y.id == id) = none → exec (.packetEject id) s = .next s) ∧
    (found → fenced = true → exec (.packetEject id) s =
      .next ((({ gone with fdrop := satInc s.fdrop } : State).lostPacket k).keepRequest k)) ∧
    (found → fenced = false → k.sup = true → exec (.packetEject id) s = .next (gone.deliver k)) ∧
    (found → fenced = false → k.sup = false → s.isServer k.dst = true →
      exec (.packetEject id) s = .next ((gone.countDrop (some k.tag)).lostPacket k)) ∧
    (found → fenced = false → k.sup = false → s.isServer k.dst = false → k.tag ∉ slots →
      exec (.packetEject id) s = .next ((gone.countDrop ((s.core k.dst).ctag.orElse fun _ => slots.head?)).lostPacket k)) ∧
    (found → fenced = false → k.sup = false → s.isServer k.dst = false → k.tag ∈ slots →
      exec (.packetEject id) s = .next (gone.deliver k)) ∧
    (s.deliveryTag k = none → s.deliver k = s.owe k.ev) ∧
    (∀ p, s.deliveryTag k = some p → s.ctxOut (clusterOf k.dst) p = false → actsOnCore k.ev = false ∨ (s.core k.dst).ctag = some p →
      s.deliver k = s.owe k.ev) ∧
    (∀ p, s.deliveryTag k = some p → s.ctxOut (clusterOf k.dst) p = false → actsOnCore k.ev = true → (s.core k.dst).ctag ≠ some p →
      s.deliver k = s.lostPacket k) ∧
    (∀ p, s.deliveryTag k = some p → s.ctxOut (clusterOf k.dst) p = true →
      s.deliver k = { s with held := s.held ++ [{ ptag := p, cl := clusterOf k.dst, ev := k.ev }] })

/-! ## Links, losses, ports, layouts, repair and power -/

/-- R493, R503 to R508: a packet may enter the col channel; a frame sent for the first time is encoded against the sender's dictionary,
and a receiver in the same dictionary state decodes exactly its lines and delivers what was sent; a frame that arrives with a wrong FCRC or
another number is not accepted, and one whose lines do not match LCRC resets the dictionary; every frame acknowledges; a control frame is a
frame too, and one that arrives as it was sent is what its KIND says; replay and reset requests make the sender commit, encode again and resend; a link that retrains to fewer than four lanes
goes down, and new routes avoid the links that are down, fenced or drained. -/
def Obligations.LinkEvents : Prop :=
  ∀ (s : State) (id : Nat) (link : Fin 50) (dir : Fin 2) (f : Frame) (acke dseq q : BitVec 16) (dig y : BitVec 64) (lanes : BitVec 16)
    (dict : Dict) (items : List FrameItem) (raw : Bool) (flits : List (BitVec 128)) (recs : List LineRec) (lines : List (BitVec 1024)),
    let d := s.linkDir link.val dir
    let fresh : Bool := f.seq == d.next && decide (d.unacked.length < 64) && !(d.unacked.any fun k => k.seq == f.seq) && fitsFrame f.items
    let acks := (s.linkDir link.val (otherDir dir)).expect
    let w := arrivedFrame f { seq := f.seq, items := f.items, recs := (Dict.encodeAll false d.tip f.items).2 } acks
    let back := s.acknowledge link dir acks
    let sound : Prop := soundFrame w.1 w.2 = true ∧ headKind w.1 = 0
    let good := ((List.range 16).filter fun i => lanes.getLsbD i).length
    let enc := Dict.encodeAll raw dict items
    (exec (.colChannelEscape id) s =
      .next { s with net := s.net.map fun (k : Packet) => if k.id = id then { k with col := true } else k }) ∧
    (Dict.decodeAll dict enc.2 = some (enc.1, itemLines items)) ∧
    (fresh = false → d.unacked.all (fun k => k.seq != f.seq) = true → exec (.dataFrameReceive link dir f) s = .next s) ∧
    (fresh = true → f.headErr = 0 → f.payErr = [] → f.seq = d.expect → d.dict = d.tip →
      ∃ t, exec (.dataFrameReceive link dir f) s = .next t ∧ let e := t.linkDir link.val dir
        e.delivered = d.delivered ++ f.items ∧ e.expect = d.expect + 1 ∧ e.next = d.next + 1 ∧ e.dict = e.tip ∧
          (f.seq.toNat % 256 ≠ 255 → e.noted = false ∧ e.base = d.base)) ∧
    (fresh = true → soundFrame w.1 w.2 = false ∨ (sound ∧ headSeq w.1 ≠ d.expect) →
      ∃ t, exec (.dataFrameReceive link dir f) s = .next t ∧ let e := t.linkDir link.val dir
        e.delivered = d.delivered ∧ e.expect = d.expect ∧ e.next = d.next + 1 ∧ e.dict = d.dict ∧ e.noted = true) ∧
    (fresh = true → sound → headSeq w.1 = d.expect → parseItems f.items w.2 = some (flits, recs) → d.dict.decodeAll recs = some (dict, lines) →
      linesCrc lines ≠ headLcrc w.1 →
      ∃ t, exec (.dataFrameReceive link dir f) s = .next t ∧ let e := t.linkDir link.val dir
        e.delivered = d.delivered ∧ e.expect = d.expect ∧ e.dict = {} ∧ (t.link link.val).resets = satInc (s.link link.val).resets) ∧
    (back.linkDir link.val (otherDir dir) = (s.linkDir link.val (otherDir dir)).commit acks ∧ back.linkDir link.val dir = d) ∧
    (∃ t, exec (.replayRequest link dir acke) s = .next t ∧ t.linkDir link.val dir = (d.commit acke).reencode false ∧
      (t.link link.val).replays = satInc (s.link link.val).replays ∧ (t.link link.val).up = (s.link link.val).up) ∧
    (d.unacked = [] → exec (.probeTimeout link dir) s = .next s) ∧
    (d.unacked ≠ [] → exec (.probeTimeout link dir) s = .next (s.sendControl link dir 1 acks [])) ∧
    (exec (.probe link dir) s = .next (back.sendControl link (otherDir dir) 2 d.expect [])) ∧
    (Config.wireErrors s.draws = [] → let a := State.acknowledge { s with draws := s.draws + 1 } link dir acke;
      s.sendControl link dir 1 acke [] = a.owe (.probe link dir) ∧
      s.sendControl link dir 2 acke [] = a.owe (.replayRequest link (otherDir dir) acke) ∧
      s.sendControl link dir 3 acke (digestPay dseq dig) = a.owe (.digest link dir dseq dig) ∧
      s.sendControl link dir 4 acke [] = a.owe (.resetRequest link (otherDir dir) acke)) ∧
    (∀ (j : Fin 2) (kind : Nat) (pay : List Byte),
      let e := (s.sendControl link dir kind acke pay).linkDir link.val j
      let e0 := s.linkDir link.val j
      e.delivered = e0.delivered ∧ e.expect = e0.expect ∧ e.dict = e0.dict ∧ e.next = e0.next ∧ (e0.noted = true → e.noted = true)) ∧
    (d.digest = none → exec (.digest link dir dseq dig) s = .next back) ∧
    (d.digest = some (q, y) → q ≠ dseq ∨ y = dig → exec (.digest link dir dseq dig) s = .next back) ∧
    (d.digest = some (q, y) → q = dseq → y ≠ dig → ∃ t, exec (.digest link dir dseq dig) s = .next t ∧
      (t.linkDir link.val dir).dict = {} ∧ (t.linkDir link.val dir).expect = d.expect ∧
      (t.link link.val).resets = satInc (s.link link.val).resets) ∧
    (∃ t, exec (.resetRequest link dir acke) s = .next t ∧
      t.linkDir link.val dir = LinkDir.reencode { d.commit acke with base := {} } true) ∧
    (4 ≤ good → exec (.linkRetrain link lanes) s = .next (s.onLink link.val fun l =>
      { l with up := true, width := if 16 ≤ good then 0 else if 8 ≤ good then 1 else 2 })) ∧
    (good < 4 → ∃ t, exec (.linkRetrain link lanes) s = .next t ∧ (t.link link.val).up = false ∧ (t.link link.val).width = 3 ∧
      (t.link link.val).dirs = (s.link link.val).dirs) ∧
    (exec .linkReroute s = .next { s with avoided := (List.range 50).filter s.toAvoid })

/-- R498 to R502, R529 to R536, R548: votes, and what a loss leaves. A core, bank, slice or cluster is fenced by one local vote, any other unit by two,
and a unit with too few stays in service; a lost die's place is
taken at the tick after; a core that hangs has failed; failed units are fenced with what they held, and slices, stacks, I/O dies and
packages are lost once. -/
def Obligations.LossEvents : Prop :=
  ∀ (s : State) (u : FenceUnit) (vote0 vote1 : Bool) (peer : Option Bool) (pdie : Fin 9) (remote : Option (Fin 16)) (x : Takeover)
    (core cl l place : Nat) (slice : Fin 48) (k : Fin 16) (io : Fin 2) (newId : BitVec 10),
    let one (b : Bool) : Nat := if b then 1 else 0
    let here := one (vote0 && !s.sp.lost[0]) + one (vote1 && !s.sp.lost[1])
    let enough : Prop := match u with
      | .die _ | .stack _ | .link _ | .ioDie _ => 2 ≤ here + one (peer == some true)
      | _ => 1 ≤ here
    let c := s.core core
    let hung : Prop := c.mode = .running ∧ c.wait.yieldPoint = false ∧ c.wait ≠ .halted ∧ c.tmg.clk + 2 ^ 24 ≤ s.now
    let holds (e : DieEntry) : Bool := e.v && !e.deg && e.place == pdie.val
    let freeSpare : Prop := s.spare.sstate = 0 ∧ s.isFenced (.die 8) = false
    (enough → exec (.diagnosisVote u vote0 vote1 peer) s = .next (s.fenceUnit u)) ∧
    (¬ enough → exec (.diagnosisVote u vote0 vote1 peer) s = .next (s.keepUnit u)) ∧
    ((∀ i, u ≠ .link i) → s.keepUnit u = s) ∧
    (s.fenceUnit (.die pdie) = State.owe { s with draws := s.draws + 1 } (.dieTakeover pdie (Config.remoteSpare s.draws))) ∧
    (s.isFenced (.die pdie) = true → exec (.dieTakeover pdie remote) s = .next s) ∧
    (s.isFenced (.die pdie) = false → s.takeover.isSome = true →
      exec (.dieTakeover pdie remote) s = .next (s.owe (.dieTakeover pdie remote))) ∧
    (s.isFenced (.die pdie) = false → s.takeover = none → s.dieMap.findIdx? holds = none → pdie ≠ 8 →
      exec (.dieTakeover pdie remote) s = .next { s with fenced := s.fenced ++ [FenceUnit.die pdie] }) ∧
    (s.isFenced (.die pdie) = false → s.takeover = none → s.dieMap.findIdx? holds = some place →
      ∃ t y, exec (.dieTakeover pdie remote) s = .next t ∧ t.takeover = some y ∧ t.isFenced (.die pdie) = true ∧ y.lost = pdie.val ∧
        y.logical = place ∧ y.ticked = false ∧ t.dieMap = s.dieMap ∧
        (pdie = 8 → t.spare.sstate = 3) ∧
        (freeSpare → pdie ≠ 8 → y.own = true ∧ y.map = (s.dieMap.set place { v := true, pdie := 8 }).map fun (z : DieEntry) =>
          if z.v && z.deg && z.pdie.toNat == pdie.val then
            { z with pdie := BitVec.ofNat 4 (State.lowestDie { s with fenced := s.fenced ++ [FenceUnit.die pdie] }) } else z)) ∧
    (s.takeover = none → exec .dieMapFlip s = .next s) ∧
    (s.takeover = some x → x.ticked = false → exec .dieMapFlip s = .next s) ∧
    (s.takeover = some x → x.ticked = true → ∃ t, exec .dieMapFlip s = .next t ∧ t.dieMap = x.map ∧ t.takeover = none) ∧
    (hung → exec (.coreHangTimeout core) s = .next (s.owe (.coreFailure core))) ∧
    (¬ hung → exec (.coreHangTimeout core) s = .next s) ∧
    (c.mode = .fenced → exec (.coreFailure core) s = .next s) ∧
    (c.mode ≠ .fenced → exec (.coreFailure core) s = .next (
      let t := (s.chargeLost core).postLoss (dieOf core) c.ptag core
      (State.fenceCore { t with fenced := t.fenced ++ [FenceUnit.core core] } core).remapCore core)) ∧
    (((s.fenceCore core).core core).mode = .fenced) ∧
    (Slots.valid (Tab.get [] s.assign core) = [] → s.sp.layout = none → s.remapCore core = s) ∧
    (Slots.valid (Tab.get [] s.assign core) ≠ [] → core ∈ (s.remapCore core).sp.remaps ∧ (s.remapCore core).assign = s.assign) ∧
    (s.isFenced (.cluster cl) = true → exec (.clusterFailure cl) s = .next s) ∧
    (s.isFenced (.cluster cl) = false → ∃ t, exec (.clusterFailure cl) s = .next t ∧
      cl % 48 ∈ (t.die (clusterDie cl)).chipFenced) ∧
    (s.isFenced (.l2Slice pdie slice) = true → exec (.l2SliceFence pdie slice) s = .next s) ∧
    (s.isFenced (.l2Slice pdie slice) = false → exec (.l2SliceFence pdie slice) s =
      .next { s.moveSlice pdie.val slice.val with fenced := s.fenced ++ [FenceUnit.l2Slice pdie slice] }) ∧
    ((∀ i < 8, s.servingDie i ≠ pdie.val) → s.moveSlice pdie.val slice.val = s) ∧
    ((List.range 8).filter (fun i => s.servingDie i == pdie.val) = [l] → s.moveSlice pdie.val slice.val =
      s.moveHomes l (fun i => s.servingSlice pdie.val i == some slice.val) (s.peakTime + 1)) ∧
    (s.isFenced (.stack k) = true → exec (.stackLoss k) s = .next s) ∧
    (s.isFenced (.stack k) = false → ∃ t, exec (.stackLoss k) s = .next t ∧ t.fenced = s.fenced ++ [FenceUnit.stack k] ∧
      t.hbm = s.hbm.filter (fun b => b.1 / 2 ^ 36 != k.val) ∧ t.cores = s.cores ∧ t.launches = s.launches) ∧
    (io ∈ s.ports.ioLost → exec (.ioDieLoss io) s = .next s) ∧
    (io ∉ s.ports.ioLost → exec (.ioDieLoss io) s = .next (State.owe
      { s with ports := { s.ports with ioLost := io :: s.ports.ioLost }, fenced := s.fenced ++ [FenceUnit.ioDie io] } (.spLoss io))) ∧
    (freeSpare → exec (.remoteSpareLend k) s =
      .next (State.report { s with spare := { s.spare with sstate := 2, lentTo := some k.val } } (.spareLent k.val))) ∧
    (¬ freeSpare → exec (.remoteSpareLend k) s = .next s) ∧
    (let hit := (s.parts.filter fun e => e.2.v && (s.newXlt e.2).any fun y => y.1 == k.val).map (·.1);
      exec (.packageLoss k newId) s = .next (hit.foldl (fun (t : State) p => t.chargePart (BitVec.ofNat 6 p) Option.isSome)
        { s with ports := { s.ports with fpkg := Tab.set s.ports.fpkg k.val ((1#64 <<< 63) ||| newId.setWidth 64) } }))

/-- R510 to R518: the ports. A valid write of PWCTL is kept without its reserved bits, another one changes nothing; accesses through
the peer window, and writes to the launch window behind them, wait their turn by requester, whatever the virtual device, and are performed past the earlier ones of it, or dropped and counted; an access of the
host or of another package reads and writes memory at its home in its range, and is refused outside; a recall drops the copies. -/
def Obligations.PortEvents : Prop :=
  ∀ (s : State) (v : Fin 32) (x : BitVec 64) (req off port line n : Nat) (off36 : BitVec 36) (a : PortAccess) (q : PortReq) (g g1 : Agent)
    (s1 : State) (bs : List Byte) (inv : Bool) (pa47 : BitVec 47),
    let d := s.vd q.v
    let named := s.part (x.extractLsb' 56 6).toNat
    let takes : Prop := named.v = true ∧ named.vdev.toNat = v.val
    let first : Prop := s.ports.queue.find? (fun (y : PortReq) => y.req == req) = some q
    let va : Word := (d.pwctl &&& 0x00FFFFFFFFFF0000#64) + BitVec.ofNat 64 q.off
    let inside := d.pwctl.getLsbD 63 = true ∧ va.toNat + accessBytes q.a ≤ 2 ^ 56
    let agent : Agent := { g with time := max s.portTime (s.postedTime req), ordered := false }
    let later (t : State) (time : Nat) : State :=
      State.popPort { t with ports := { t.ports with posted := Tab.set t.ports.posted req (max time (s.postedTime req)) } } req
    let entered := s.enterPort { req := req, v := v.val, off := off36.toNat, a := a }
    let h := s.ports.cxlhdm
    let pa := (h.extractLsb' 30 10).toNat * 2 ^ 30 + off
    let hostOk := h.getLsbD 63 = true ∧ off + accessBytes a ≤ (h.extractLsb' 40 8).toNat * 2 ^ 30 ∧ pa + accessBytes a ≤ Config.hbmBytes
    let served := s.exported pa47.toNat (accessBytes a) = true ∧ physOk pa47.toNat = true
    (takes → exec (.pwctlWrite v x) s = .next (s.onVd v.val fun y => { y with pwctl := x &&& 0xBFFFFFFFFFFF0000#64 })) ∧
    (¬ takes → exec (.pwctlWrite v x) s = .next s) ∧
    (s.portBusy req = false → exec (.peerWindowAccess v req off36 a) s = .next (entered.owe (.postedWriteArrive v req))) ∧
    (s.portBusy req = true → exec (.peerWindowAccess v req off36 a) s = .next entered) ∧
    (s.ports.queue.find? (fun (y : PortReq) => y.req == req) = none → exec (.postedWriteArrive v req) s = .next s) ∧
    (first → q.launch = true → q.a = .write bs →
      exec (.postedWriteArrive v req) s = .next ((s.launchWrite q.v req q.off bs).popPort req)) ∧
    (first → q.launch = false → ¬ inside ∨ s.partAgent (d.pwctl.extractLsb' 56 6) = none →
      exec (.postedWriteArrive v req) s = .next (s.dropPort q)) ∧
    (first → q.launch = false → inside → s.partAgent (d.pwctl.extractLsb' 56 6) = some g → q.a = .write bs →
      s.agentStore agent va bs = .ok (s1, g1) → exec (.postedWriteArrive v req) s = .next (later s1 g1.time)) ∧
    (first → q.launch = false → inside → s.partAgent (d.pwctl.extractLsb' 56 6) = some g → q.a = .read n →
      s.agentBytes agent va n = .ok (s1, g1, bs) →
      exec (.postedWriteArrive v req) s = .next ((later s1 g1.time).report (.completion req bs))) ∧
    (¬ hostOk → exec (.cxlMemAccess off a) s = .next s) ∧
    (hostOk → a = .write bs →
      exec (.cxlMemAccess off a) s = .next (s.physWrite (s.portTime + 1) pa (bs.length / 128 + 2) bs).1) ∧
    (hostOk → a = .read n → s.globalBad pa n = false → ∃ t, exec (.cxlMemAccess off a) s = .next t ∧ t.hbm = s.hbm ∧
      (∃ data, t.reports = s.reports ++ [.completion 0 data] ∧ data.length = n) ∧
      ∀ i, pa / 128 ≤ i → i < (pa + n + 127) / 128 → i ∈ t.ports.hostLines) ∧
    (hostOk → accessReads a = true → s.globalBad pa (accessBytes a) = true →
      exec (.cxlMemAccess off a) s = .next (s.report (.errorCompletion Config.package))) ∧
    (let s1 := s.dropCopies line (!inv); ∃ t, exec (.fabricRecall line inv) s = .next t ∧
      (inv = true → t.hbm = s.hbm) ∧ (∀ cl, ∀ y ∈ (t.cluster cl).l1d, y.line ≠ line) ∧ t.ports.perms = Tab.erase s1.ports.perms line ∧
      t.reports = s1.reports ++ [.recallAnswer line
        (if inv = false ∧ Tab.get false s1.ports.perms line = true then some (s1.physBytes (128 * line) 128) else none)]) ∧
    (¬ served → exec (.remoteAccessArrive port pa47 a) s = .next
      (State.report { s with ports := { s.ports with xdrop := satInc s.ports.xdrop } } (.errorCompletion port))) ∧
    (served → a = .write bs → exec (.remoteAccessArrive port pa47 a) s =
      .next (s.physWrite (s.portTime + 1) pa47.toNat (bs.length / 128 + 2) bs).1) ∧
    (served → a = .read n → s.globalBad pa47.toNat n = false → exec (.remoteAccessArrive port pa47 a) s =
      .next ((s.physRead (s.portTime + 1) pa47.toNat (n / 128 + 2) n).1.report
        (.completion port (s.physRead (s.portTime + 1) pa47.toNat (n / 128 + 2) n).2.2)))

/-- R471 to R478, R525, R535, R542, R543, R550, R552: the service processors. A malformed layout request completes with status 2, and a
valid one goes through its steps only once every affected context is out; a change of the processors' own comes first; a partition's
counters stay through a change; the tables change at the tick after the commit, and the
result is written once the contexts are restored; a processor that resets between the records leaves the old layout; protection, mask and attestation requests complete with their result. -/
def Obligations.LayoutEvents : Prop :=
  ∀ (s : State) (sp : Fin 2) (x : Layout) (peers : List ProtReq) (gid : BitVec 32) (k : Nat),
    let m := s.sp.mbox[sp]
    let q := m.req
    let taken := s.onMbox sp fun y => { y with busy := true }
    let runs : Prop := s.sp.layout = some x
    let idle : Prop := s.sp.layout = none ∧ s.sp.remaps = [] ∧ (s.sp.mbox[partner sp].busy = false ∨ m.busy = true)
    let table := taken.readLayout sp q
    let valid := layoutRecord q = true ∧ taken.layoutValid table = true
    let vdev := (s.part (protField q 3 1)).vdev.toNat
    let waits := s.sp.prot.filter fun w => w.sp != sp
    let others := s.sp.regions.filter fun r => !(r.v == vdev && protField r.req 2 1 == protField q 2 1)
    let protOk := protValid q = true ∧ (s.vd vdev).snapp ≠ 0
    let outcome := protOutcome q peers
    let mask : BitVec 10368 := ofBytes 10368 (s.physBytes (protField q 8 8) 1296)
    let maskOk := protField q 0 1 = 4 ∧ reqZero q 1 3 = true ∧ reqZero q 0x10 24 = true ∧ reqZero q 0x30 16 = true ∧ maskValid mask = true
    let attOk := protField q 0 1 = 3 ∧ reqZero q 1 3 = true ∧ protField q 0x30 1 < 32 ∧ reqZero q 0x31 15 = true
    let late (w : ProtWait) : Bool := w.req.extractLsb' (8 * 0x18) 32 == gid && decide (w.tick + 1000000 ≤ s.ticks)
    let expired := s.sp.prot.any fun w => w.sp == sp && decide (w.tick + 1000000 ≤ s.ticks)
    let recent := s.sp.resets.filter fun e => e.1 == sp && decide (s.ticks < e.2 + 1000000)
    let noted := { s with sp := { s.sp with resets := (sp, s.ticks) :: s.sp.resets } }
    (idle → ¬ valid → exec (.layoutRequest sp) s = .next (taken.finishRequest sp q 2 0)) ∧
    (idle → valid → protField q 1 1 = 0 → exec (.layoutRequest sp) s = .next (
      let ps := taken.affectedBy table
      let t := taken.setLayout (some { table with affected := ps, since := taken.draws })
      ((t.liveDies ps).foldl (fun (u : State) d => u.ringDoor d 0 (layoutArg q 3)) t).owe (.layoutRequest sp))) ∧
    (s.sp.layout = none → s.sp.remaps ≠ [] → exec (.layoutRequest sp) s = .next (
      if s.beginOwn.sp.layout = none ∧ s.beginOwn.sp.mbox[sp].busy = true then s.beginOwn.beginLayout sp else s.beginOwn)) ∧
    (s.sp.layout = none → s.sp.remaps = [] → s.sp.mbox[partner sp].busy = true → m.busy = false →
      exec (.layoutRequest sp) s = .next (s.submitMbox sp) ∧ s.submitMbox sp = taken) ∧
    (runs → x.sp ≠ sp → exec (.layoutRequest sp) s = .next (s.submitMbox sp)) ∧
    (runs → x.sp = sp → x.step = .saving → s.liveDies x.affected ≠ [] → exec (.layoutRequest sp) s = .next s) ∧
    (runs → x.sp = sp → x.step = .saving → s.liveDies x.affected = [] → exec (.layoutRequest sp) s =
      .next (((s.onJournals fun _ => { prepare := some (journalRecord x.req), commit := none }).setLayout
        (some { x with step := LayoutStep.prepared })).owe (.layoutRequest sp))) ∧
    (runs → x.sp = sp → x.step = .prepared → exec (.layoutRequest sp) s =
      .next ((s.onJournals fun j => { j with commit := some (journalRecord x.req) }).setLayout
        (some { x with step := LayoutStep.committed }))) ∧
    (runs → x.sp = sp → x.step = .restoring → s.awaitsRestore x = true → exec (.layoutRequest sp) s = .next s) ∧
    (runs → x.sp = sp → x.step = .restoring → s.awaitsRestore x = false → exec (.layoutRequest sp) s = .next (s.endLayout x 0)) ∧
    (s.sp.remaps = [] → x.own = false → s.endLayout x k =
      ((s.setLayout none).finishRequest x.sp x.req k (if k = 0 then x.changed else 0)).drainAgain) ∧
    (runs → x.sp = sp → x.own = false → x.step = .restoring → s.awaitsRestore x = false → ∃ t, exec (.layoutRequest sp) s = .next t ∧
      t.sp.layout = none ∧ t.sp.mbox[sp].busy = false ∧ t.sp.mbox[sp].lstat = 0 ∧ t.sp.mbox[sp].lseq = reqSeq x.req ∧
      t.assign = s.assign) ∧
    (runs → x.sp = sp → x.step = .committed → exec (.layoutRequest sp) s = .next s) ∧
    (s.sp.layout = none → exec .layoutFlip s = .next s) ∧
    (runs → x.step ≠ .committed ∨ x.ticked = false → exec .layoutFlip s = .next s) ∧
    (runs → x.step = .committed → x.ticked = true → ∃ t, exec .layoutFlip s = .next t ∧ t.assign = x.assign ∧
      ∃ n, t.sp.layout = some { x with step := LayoutStep.restoring, changed := n }) ∧
    (∀ cur new : Part, (cur.install new).words = new.words ∧
      (cur.v = true ∨ new.v = false → (cur.install new).evdrop = cur.evdrop ∧ (cur.install new).tagdrop = cur.tagdrop) ∧
      (cur.v = false → new.v = true → (cur.install new).evdrop = 0 ∧ (cur.install new).tagdrop = 0)) ∧
    (¬ protOk → exec (.protectionRequest sp peers) s =
      .next (State.finishRequest { taken with sp := { taken.sp with prot := waits } } sp q 2 0)) ∧
    (protOk → protField q 1 1 = 0 → exec (.protectionRequest sp peers) s =
      .next (State.finishRequest { taken with sp := { taken.sp with regions := others, prot := waits } } sp q 0 0)) ∧
    (protOk → protField q 1 1 ≠ 0 → expired = true → exec (.protectionRequest sp peers) s =
      .next (State.finishRequest { taken with sp := { taken.sp with prot := waits } } sp q 4 0)) ∧
    (protOk → protField q 1 1 ≠ 0 → expired = false → outcome = some 0 → exec (.protectionRequest sp peers) s =
      .next (State.finishRequest { taken with sp := { taken.sp with regions := { v := vdev, req := q } :: others, prot := waits } }
        sp q 0 0)) ∧
    (protOk → protField q 1 1 ≠ 0 → outcome = some k → k ≠ 0 → k = 4 ∧ exec (.protectionRequest sp peers) s =
      .next (State.finishRequest { taken with sp := { taken.sp with prot := waits } } sp q 4 0)) ∧
    (protOk → protField q 1 1 ≠ 0 → expired = false → outcome = none → (s.sp.prot.any fun w => w.sp == sp) = false →
      exec (.protectionRequest sp peers) s =
        .next { taken with sp := { taken.sp with prot := { sp := sp, req := q, tick := s.ticks } :: waits } }) ∧
    (s.sp.prot.any late = false → exec (.protectionGroupTimeout gid) s = .next s) ∧
    (∀ w, s.sp.prot.filter late = [w] → exec (.protectionGroupTimeout gid) s = .next
      (State.finishRequest { s with sp := { s.sp with prot := s.sp.prot.filter fun y => !late y } } w.sp w.req 4 0)) ∧
    (maskOk → exec (.serverMaskRequest sp) s =
      .next (State.finishRequest { taken with sp := { taken.sp with bootMask := some mask } } sp q 0 0)) ∧
    (¬ maskOk → exec (.serverMaskRequest sp) s = .next (taken.finishRequest sp q 2 0)) ∧
    (attOk → exec (.attestationRequest sp) s = .next (State.finishRequest
      (taken.setPhysBytes (reqResa q + 16) (taken.attestation (q.extractLsb' 64 256) (protField q 0x30 1))) sp q 0 410)) ∧
    (¬ attOk → exec (.attestationRequest sp) s = .next (taken.finishRequest sp q 2 0)) ∧
    ((taken.attestation (q.extractLsb' 64 256) k).length = 410) ∧
    (recent.length < 2 → exec (.spWatchdogReset sp) s = .next (noted.partnerTakes sp)) ∧
    (2 ≤ recent.length → exec (.spWatchdogReset sp) s = .next ((noted.partnerTakes sp).owe (.spLoss sp))) ∧
    (runs → x.sp = sp → x.own = false → x.step ≠ .saving → s.committed x.req = false → s.partnerTakes sp =
      let dies := ((s.outCtxs.filter fun c => x.affected.contains c.2.ptag.toNat).map fun c => clusterDie c.1).eraseDups
      dies.foldl (fun (t : State) d => t.ringDoor d 0 (layoutArg x.req 6)) (s.endLayout x 3)) ∧
    (runs → x.sp ≠ sp ∨ x.step = .saving ∨ s.committed x.req = true → s.partnerTakes sp = s) ∧
    (s.committed x.req = true ↔ ∃ i : Fin 2, s.sp.journal[i].commit = some (reqSeq x.req, crc32 (toBytes 64 x.req))) ∧
    (∃ t, exec (.spLoss sp) s = .next t ∧ t.sp.lost[sp] = true ∧ t.sp.lost[partner sp] = s.sp.lost[partner sp] ∧
      t.assign = s.assign ∧ t.parts = s.parts)

/-- R527, R537 to R541, R544 to R546, R549 to R551, R553: repair and power. Scrubbing and row repair; scores decay, units drain and are
tested; an epoch of a protected region starts, commits, and rebuilds lost members up to the number of parity members; bring-up, with the first image that
is verified, and package reset; and the thresholds of supply and temperature. -/
def Obligations.RepairAndPowerEvents : Prop :=
  ∀ (s s1 s2 : State) (e : RowEvent) (found : List RowEvent) (k : Fin 16) (u : SuspUnit) (gid : BitVec 32) (r : Region) (x : Snap)
    (data : List MemberSymbols) (lost : List Nat) (passing : BitVec 9) (supply : List (List (BitVec 8))) (fuseless : List (Fin 16 × BitVec 4 × BitVec 4)) (cl mV milliwatt core : Nat)
    (celsius : Int) (pin : Fin 50),
    let rowsOf := s.sp.repairs.filter fun a => a.stack == k && !a.soft && !a.asked
    let stack := match u with
      | .stack _ => true
      | _ => false
    let here : Prop := s.sp.regions.find? (fun y => y.gid == gid) = some r
    let begun := s.onRegions gid fun y => { y with started := some { hbm := s.hbm, bad := s.hbmBad, epoch := r.epoch + 1 } }
    let held := s.run ≠ .held ∨ passing = 0 ∨ s.sp.startImage supply = none
    let on (f : Cluster → Cluster) : Host.Outcome State Fault Refusal := .next (s.setCluster cl (f (s.cluster cl)))
    let served := { s with drains := s.drains.filter (· != u) }
    (exec (.hbmScrub []) s = .next s ∧ (exec (.hbmScrub found) s = .next s1 → exec (.hbmScrub (found ++ [e])) s = .next (s1.scrubRow e)) ∧
      (exec (.hbmScrub found) s = .next (found.foldl State.scrubRow s))) ∧
    (e.uncorrectable = true → ∀ i, i / 8 = e.addr / 64 → i ∈ (s.scrubRow e).hbmBad) ∧
    (rowsOf = [] → exec (.hbmRowRepair k) s = .next s) ∧
    (exec (.hbmRowRepair k) s = .next (rowsOf.foldl State.repairRow s)) ∧
    (∃ t, exec .scoreDecay s = .next t ∧ (∀ i n, (i, n) ∈ t.scores → ∃ m, (i, m) ∈ s.scores ∧ n = m / 2 ∧ n ≠ 0) ∧
      t.sp.kept.length ≤ 8192 ∧ ∀ i ∈ t.sp.kept, i ∈ t.scores) ∧
    (stack = false → s.drained u = false → s.committing = false →
      exec (.unitDrain u) s = .next { s with drains := s.drains ++ [u] }) ∧
    (stack = true ∨ s.drained u = true ∨ s.committing = true → exec (.unitDrain u) s = .next s) ∧
    (∃ t, exec (.unitTestDone u true) s = .next t ∧ t.drains = s.drains.filter (· != u) ∧
      t.scores = s.scores.filter (fun e => e.1 != u) ∧ t.cores = s.cores ∧ t.fenced = s.fenced) ∧
    (u = .core core → exec (.unitTestDone u false) s = .next (served.owe (.coreFailure core))) ∧
    (u = .stack k ∨ u = .link pin → exec (.unitTestDone u false) s = .next s) ∧
    (u = .array cl → exec (.unitTestDone u false) s = .next (served.owe (.clusterFailure cl))) ∧
    (s.sp.regions.find? (fun y => y.gid == gid) = none → exec (.epochStart gid data) s = .next s ∧
      exec (.epochCommit gid) s = .next s ∧ exec (.groupRebuild gid lost data) s = .next s) ∧
    (here → r.started.isSome = true →
      exec (.epochStart gid data) s = .next (s.onRegions gid fun y => { y with again := y.again ++ [data] })) ∧
    (here → r.started = none → r.rank < r.ndata →
      exec (.epochStart gid data) s = .next (if r.rank = 0 then begun.report (.epoch gid (r.epoch + 1)) else begun)) ∧
    (here → r.started = none → r.ndata ≤ r.rank → begun.copyHalf r (r.epoch + 1) = .ok s1 →
      s1.writeMember r (r.epoch + 1) data = .ok s2 → exec (.epochStart gid data) s = .next s2) ∧
    (here → r.started = none → exec (.epochCommit gid) s = .next s) ∧
    (here → r.started = some x →
      let t := (s.onRegions gid fun y => { y with epoch := x.epoch, snap := some x, started := none, again := y.again.drop 1 }).onVd r.v
        fun d => { d with snap := some x }
      (r.again = [] → exec (.epochCommit gid) s = .next t) ∧
      ∀ rest, r.again = data :: rest → exec (.epochCommit gid) s = .next (t.owe (.epochStart gid data))) ∧
    (here → r.rank ∉ lost → exec (.groupRebuild gid lost data) s = .next (s.report (.rebuild gid r.epoch))) ∧
    (here → r.rank ∈ lost → r.npar < lost.eraseDups.length → ∃ t, exec (.groupRebuild gid lost data) s = .next t ∧
      (∀ i ∈ s.regionWords r, i ∈ t.hbmBad) ∧ t.hbm = s.hbm) ∧
    (here → r.rank ∈ lost → lost.eraseDups.length ≤ r.npar →
      s.writeMember r r.epoch (data.filter fun y => !lost.contains y.member) = .ok s1 →
      exec (.groupRebuild gid lost data) s = .next (s1.chargePart r.ptag fun _ => true)) ∧
    (held → exec (.bringUp passing supply fuseless) s = .next s) ∧
    (¬ held → ∃ t, exec (.bringUp passing supply fuseless) s = .next t ∧ t.run = .running ∧ t.ticks = 0 ∧ t.scores = s.sp.kept ∧
      (∀ im, s.sp.startImage supply = some im → imageGood im = true ∧ im ∈ s.sp.image :: supply ∧ t.sp.image = im ∧
        t.sp.measured = Config.shake256 (im ++ s.sp.bootBytes)) ∧
      t.sp.repairs = (s.sp.repairs.filter fun y => fuseless.contains (y.stack, y.chan, y.bank)) ∧
      t.dieMap.length = 8 ∧ t.spare.sstate = (if passing = 0x1FF then 0 else 3) ∧
      (∀ n c, (n, c) ∈ t.cores → passing.getLsbD (dieOf n) = true ∧ c.mode = .running ∧ c.regs.trap.sup = true ∧ c.regs.pc = 0)) ∧
    (∃ t, exec .packageReset s = .next t ∧ t.run = State.reset.run ∧ t.hbm = State.reset.hbm ∧ t.cores = State.reset.cores ∧
      t.sp.repairs = s.sp.repairs ∧ t.sp.kept = s.sp.kept ∧ t.sp.bootMask = s.sp.bootMask ∧ t.sp.image = s.sp.image ∧ t.flash = s.flash) ∧
    (exec (.vcoreDroop cl mV) s = if mV < 330 then on fun c => { c with stretched := true } else .next s) ∧
    (exec (.vcoreRecovery cl mV) s = if 330 < mV then on fun c => { c with stretched := false } else .next s) ∧
    (exec (.thermalThrottle cl celsius) s = if 100 ≤ celsius then on fun c => { c with throttled := true } else .next s) ∧
    (exec (.throttleRelease cl celsius) s = if celsius < 95 then on fun c => { c with throttled := false } else .next s) ∧
    (exec (.powerCap milliwatt) s = .next { s with capped := decide (3800000 < milliwatt) }) ∧
    (exec (.thermalShutdown celsius) s = .next (if 115 ≤ celsius then { s with run := .shutDown } else s))

/-! ## The statements that two or three of the parts above make together -/

/-- R113, R114: the products and quotients, as words and as exact integers. -/
def Obligations.ProductsAndQuotients : Prop := Claims.ScalarProductsAndQuotients ∧ Claims.ProductAndQuotientLaws
/-- R112, R115 to R119: the shifts, bit forms, selections, moves and addresses, and what the bit forms are. -/
def Obligations.BitsAndMoves : Prop := Claims.ScalarBitsAndMoves ∧ Claims.BitCountLaws
/-- R129, R132 to R135: the transfers, and the registers that they write. -/
def Obligations.Transfers : Prop := Claims.ControlTransfers ∧ Claims.TransferRegisters
/-- R136 to R138: the loop words, and how a body is sequenced. -/
def Obligations.Loops : Prop := Claims.LoopForms ∧ Claims.LoopSequencing
/-- R251, R268 to R270: the vector integer words, and what they do with one element. -/
def Obligations.VectorIntegerForms : Prop := Claims.VectorIntegers ∧ Claims.ElementLaws
/-- R274 to R281: vector moves and lane masks. -/
def Obligations.VectorMovesAndMasks : Prop := Claims.VectorMoves ∧ Claims.Masks
/-- R255 to R259, R283 to R285: the port words SCFG, SFREE and VLOOP, each with the next state in which it completes, and the chunks
that the streams move. -/
def Obligations.StreamForms : Prop := Claims.Streams ∧ Claims.StreamChunks
/-- R1, R153, R159, R176, R228: scalar accesses to local memory, and the bytes that a store writes. -/
def Obligations.LocalScalarForms : Prop := Claims.LocalScalars ∧ Claims.LocalStoreBytes
/-- R190, R199, R203 to R205, R211, R213, R216: scalar accesses to global memory, and the policies of their pages. -/
def Obligations.GlobalScalarForms : Prop := Claims.GlobalScalars ∧ Claims.PagePolicies
/-- R204, R214, R215: ranges, prefetches and the lines that they maintain. -/
def Obligations.RangesAndLines : Prop := Claims.RangesAndPrefetch ∧ Claims.LineMaintenance
/-- R230, R231, R236, R237, R375, R376, R383, R467: the words of the event unit and of the crossbar, and what a signal does. -/
def Obligations.EventAndCrossbarForms : Prop := Claims.EventsAndMutexes ∧ Claims.SignalsServeWaiters ∧ Claims.CrossbarWords
/-- R314, R315, R327, R342 to R348: the tile words, and where they trap. -/
def Obligations.TileWords : Prop := Claims.TileForms ∧ Claims.TileTraps
/-- R246 to R248, R352, R353, R355 to R357, R379 to R382, R385: the words that give the engines work, that wait for it, and that order it. -/
def Obligations.EngineWords : Prop := Claims.DescriptorForms ∧ Claims.EngineWaits ∧ Claims.Fences
/-- R138, R313, R402, R451, R453 to R455, R489: the system registers, of the core and of its units. -/
def Obligations.SystemRegisterForms : Prop := Claims.SystemRegisters ∧ Claims.UnitRegisters

/-! ## The machine as a whole -/

namespace Sys2Proof.Claims

/-- A core's register holds what a write put there; the registers that discard writes hold nothing of it. -/
def Holds (c : Core) : Wr → Prop
  | .g r x => r ≠ 0 → c.rdG r = x
  | .p r b => r ≠ 0 → c.rdP r = b
  | .k r m => r ≠ 0 → c.rdK r = m
  | .v r x => c.rdV r = x

/-- The core after a word whose guard read false at clk `t` (R24). -/
def passed (h : Hdr) (c : Core) : Core :=
  let t := c.guardClk h
  ((c.settle t).ageOperands.setTmg fun m => { m with clk := t, issued := t }).complete t h.stall.toNat

/-- The opcodes of R35 that hold forms. -/
def usedOpcodes : List Nat :=
  (List.range 13).map (1 + ·) ++ (List.range 6).map (0x10 + ·) ++ (List.range 6).map (0x18 + ·) ++ (List.range 4).map (0x20 + ·) ++
    (List.range 7).map (0x28 + ·) ++ (List.range 5).map (0x30 + ·) ++ (List.range 6).map (0x38 + ·) ++ (List.range 24).map (0x40 + ·) ++
    (List.range 7).map (0x60 + ·) ++ (List.range 7).map (0x68 + ·) ++ (List.range 7).map (0x70 + ·) ++ (List.range 5).map (0x78 + ·) ++
    (List.range 7).map (0x80 + ·)

end Sys2Proof.Claims

/-- R1, R183: memories. Bytes written are read back and every other byte reads as before; every operation keeps the canonical form, and
equal memories are equal data; a value of n bytes is its bytes, lowest first; a write of physical memory changes its bytes alone. -/
def Obligations.MemoryBytes : Prop :=
  ∀ (m m' : Mem) (a x pa : Nat) (b : Byte) (bs : List Byte) (s : State) (w : BitVec 64) (n : Nat),
    (m.wf = true → (m.set a b).wf = true ∧ (m.setBytes a bs).wf = true ∧ (m.set a b).get a = b ∧
      ∀ i, i < bs.length → (m.setBytes a bs).get (a + i) = bs.getD i 0) ∧
    (x ≠ a → (m.set a b).get x = m.get x) ∧
    (x < a ∨ a + bs.length ≤ x → (m.setBytes a bs).get x = m.get x) ∧
    (m.wf = true → m'.wf = true → (∀ i, m.get i = m'.get i) → m = m') ∧
    (ofBytes 64 (toBytes 8 w) = w ∧ (toBytes n w).length = n ∧
      ∀ i, i < n → (toBytes n w).getD i 0 = w.extractLsb' (8 * i) 8) ∧
    (s.hbm.wf = true → s.fabric.wf = true → let t := s.setPhysBytes pa bs
      t.hbm.wf = true ∧ t.fabric.wf = true ∧
      ∀ i, i < bs.length → physOk (pa + i) = true → s.stackLost (pa + i) = false → t.physByte (pa + i) = bs.getD i 0) ∧
    (x < pa ∨ pa + bs.length ≤ x → (s.setPhysBytes pa bs).physByte x = s.physByte x ∧ (s.writeHome pa bs).physByte x = s.physByte x) ∧
    ((s.writeHome pa bs).cores = s.cores ∧ (s.writeHome pa bs).clusters = s.clusters ∧ (s.writeHome pa bs).dies = s.dies ∧
      (s.writeHome pa bs).hbm = (s.setPhysBytes pa bs).hbm)

/-- R28, R34: registers. A write is read back and no other register changes; writes of g0, p0 and k0 are discarded, and words that name
them decode; a result of latency L is not visible before t + L and is from then on. -/
def Obligations.RegisterFile : Prop :=
  ∀ (c : Core) (d e : GReg) (x : Word) (p q : PReg) (b : Bool) (k l : KReg) (m : Mask) (v w : VReg) (y : VR) (h : Hdr)
    (lat t t' : Nat) (r : Wr),
    (c.rdG 0 = 0 ∧ c.rdP 0 = true ∧ c.rdK 0 = BitVec.allOnes 128) ∧
    (c.wrG 0 x = c ∧ c.wrP 0 b = c ∧ c.wrK 0 m = c) ∧
    ((Instr.mov h 0 d).wf = true ∧ (Instr.pmov h 0 p).wf = true ∧ (Instr.knot h 0 k).wf = true) ∧
    (Holds (c.wr r) r) ∧
    (e ≠ d → (c.wrG d x).rdG e = c.rdG e) ∧ (q ≠ p → (c.wrP p b).rdP q = c.rdP q) ∧ (l ≠ k → (c.wrK k m).rdK l = c.rdK l) ∧
    (w ≠ v → (c.wrV v y).rdV w = c.rdV w) ∧
    ((c.wrG d x).regs = { c.regs with g := (c.wrG d x).regs.g } ∧ (c.wrP p b).regs = { c.regs with p := (c.wrP p b).regs.p } ∧
      (c.wrK k m).regs = { c.regs with k := (c.wrK k m).regs.k } ∧ (c.wrV v y).regs = { c.regs with v := (c.wrV v y).regs.v }) ∧
    (2 ≤ lat → t' < t + lat → ((c.result t lat r).settle t').regs = (c.settle t').regs) ∧
    (1 ≤ lat → t + lat ≤ t' → (∀ f ∈ c.tmg.flights, f.wr.num ≠ r.num) → Holds ((c.result t lat r).settle t') r) ∧
    (∀ xs f, c.regs.trap.tim = false → f ∈ c.tmg.flights → f.wr.num ∈ xs → hardwired f.wr.num = false →
      f.land ≤ c.readyClk xs ∧ c.tmg.clk ≤ c.readyClk xs)

/-- R23, R24, R149: a word whose guard is false takes its one clk and its STALL hint and does nothing else, whatever its form but
GJOIN, which joins whatever its guard reads; a supervisor's form in user mode, and a form of the other timing mode, still take the traps of checks 12 and 13. GRD = 0 always
executes, GRD = 8 never. -/
def Obligations.FalseGuards : Prop :=
  ∀ (s : State) (i : Instr) (r : Raw), i.wf = true → encodeRaw i = some r →
    let h := r.hdr
    let t := s.cc.guardClk h
    let sup := s.cc.regs.trap.sup
    let tim := s.cc.regs.trap.tim
    let timedOnly := r.opc = 0x33 ∨ r.opc = 0x34
    let k := passed h s.cc
    (r.grd = 0 → (s.cc.settle t).guard h = true) ∧ (r.grd = 8 → (s.cc.settle t).guard h = false) ∧
    (∀ h', i = .gjoin h' → exec i s = exec (.gjoin { h' with grd := h'.grd ^^^ 8 }) s ∧
      (s.cc.tmg.flights = [] → s.cc.tmg.owed = [] → exec i s = exec (.gjoin { h' with grd := 0 }) s)) ∧
    ((s.cc.settle t).guard h = false → s.cc.tmg.inside = none → (∀ h', i ≠ .gjoin h') →
      (r.opc < 0x80 → ¬ timedOnly → exec i s = .next (s.setCc k)) ∧
      (timedOnly → tim = true → exec i s = .next (s.setCc k)) ∧
      (timedOnly → tim = false → exec i s = .next (s.takeTrap s.cur .illegalOpc 0x08 0)) ∧
      (0x80 ≤ r.opc → sup = true → exec i s = .next (s.setCc k)) ∧
      (0x80 ≤ r.opc → sup = false → exec i s = .next (s.setCc k) ∨ exec i s = .next (s.takeTrap s.cur .priv 0 0))) ∧
    (k.regs.g = (s.cc.settle t).regs.g ∧ k.regs.p = (s.cc.settle t).regs.p ∧ k.regs.k = (s.cc.settle t).regs.k ∧
      k.regs.v = (s.cc.settle t).regs.v ∧ k.regs.strm = s.cc.regs.strm ∧ k.regs.fp = s.cc.regs.fp ∧ k.spad = s.cc.spad ∧
      k.slices = s.cc.slices ∧ k.eng = s.cc.eng ∧ k.comm = s.cc.comm ∧ t + 1 + h.stall.toNat ≤ k.tmg.clk ∧
      (s.cc.regs.trap.exl = false → k.regs.trap.xprog = 0))

/-- R103 to R127, R129 to R142: the frame of the scalar, floating-point, control, predicate and mode words. Such a word changes its own
core alone, or takes an exception there; of the core's registers, once every result has landed, only its destination differs, with
FFLAGS and SRSTATE lane 0 for the floating-point words, the program counter, the loop registers and XPROG; scratchpads, slices, channels, engines and
every byte of memory stay. -/
def Obligations.ScalarFrames : Prop :=
  ∀ (s t : State) (i : Instr) (r : Raw), i.wf = true → encodeRaw i = some r → r.opc ≤ 0x14 → exec i s = .next t →
    (∃ c k x, t = (s.setCc c).takeTrap s.cur k x 0) ∨
    (t = s.setCc t.cc ∧ (∀ pa, t.physByte pa = s.physByte pa) ∧ (∀ n, n ≠ s.cur → t.core n = s.core n) ∧
      t.cc.spad = s.cc.spad ∧ t.cc.slices = s.cc.slices ∧ t.cc.comm = s.cc.comm ∧ t.cc.eng = s.cc.eng ∧ t.cc.lt = s.cc.lt ∧
      t.cc.task = s.cc.task ∧ t.cc.doms = s.cc.doms ∧
      let a := t.cc.drain.regs
      let b := s.cc.drain.regs
      (∀ g : GReg, opG g ≠ r.dst → a.g[g] = b.g[g]) ∧ (∀ p : PReg, opP p ≠ r.dst → a.p[p] = b.p[p]) ∧ a.k = b.k ∧ a.v = b.v ∧
        a.strm = b.strm ∧ a.trap = { b.trap with tim := a.trap.tim, xprog := a.trap.xprog } ∧
        a.fp = { b.fp with fflags := a.fp.fflags, srs := a.fp.srs } ∧ (∀ j : Fin 16, j ≠ 0 → a.fp.srs[j] = b.fp.srs[j]) ∧
        (r.opc ≠ 0x0B → a.fp.srs = b.fp.srs) ∧ (r.opc ≠ 0x0B → r.opc ≠ 0x0C → r.opc ≠ 0x0D → a.fp = b.fp) ∧
        (r.opc ≠ 0x14 → a.trap.tim = b.trap.tim))

/-- R11, R17, R450, R549: reset. The package is held and issues nothing: every memory lists nothing and is in canonical form, every core
is at program counter 0 with its registers zero (the model's choice where the spec states no value: log 1 to log 5), an OS server core
is in supervisor mode, and a step lets a clk pass. -/
def Obligations.ResetState : Prop :=
  let s := State.reset
  s.run = .held ∧ s.hbm = [] ∧ s.fabric = [] ∧ s.flash = [] ∧ s.hbm.wf = true ∧ s.fabric.wf = true ∧
    (∀ n, let c := s.core n
      c.regs.pc = 0 ∧ (∀ r, c.rdG r = 0) ∧ (∀ r : PReg, r ≠ 0 → c.rdP r = false) ∧ (∀ r : KReg, r ≠ 0 → c.rdK r = 0) ∧
        c.regs.trap.exl = false ∧ c.regs.trap.tim = false ∧ (c.regs.trap.sup = true ↔ n % 24 = 23) ∧ c.spad = [] ∧ c.tmg.flights = [] ∧
        s.runnable n = false) ∧
    step s = .next { s with clk := 1 }

/-- R12, R21, R37: a step runs the decoded word. A turn of a core that may issue fetches the bytes at its program counter; where they
decode to an instruction, the turn is that instruction's effect, with which the members of a gang that the core leads issue it too, each
at its own slot; a member that could not issues it as the word that it owes its leader; a word that does not decode takes its trap.
Errors that the core's
registers hold are found before that (R526). What a takeover stops the package for comes first, then the agenda's turns; with it empty
the owed events come first, and of the cores that may issue the one whose place is first takes its turn, once the device has
done what is due before it (the order is the model's: log 6); a package that has shut down does nothing. -/
def Obligations.StepRunsDecodedWord : Prop :=
  ∀ (s : State) (n place : Nat) (rest : List Turn) (i : Instr) (bs : List Byte) (c : Cause) (x : Word) (o : Host.Outcome State Fault Refusal)
    (w : Nat × Work) (w0 : Nat × Instr) (u v : State),
    let s1 := State.atFetch { s with cur := n } n
    let s2 := u.captured n bs
    let reached (u : State) : State := { u with clk := max u.clk (s.turnClk n (.next u)) }
    (s1.owedWord n = some i → exec i s1 = .next u → stepCore n s = .next (u.paid n (s1.core n).tmg.words)) ∧
    (s1.owedWord n = none → s1.fetch = .bytes u bs → decodeBytes bs = .ok i →
      (State.alignGang exec i n s2 = (v, true) → stepCore n s = .next v) ∧
      (State.alignGang exec i n s2 = (v, false) → stepCore n s = issueWithGang exec i n v) ∧
      (s2.followers n = [] → State.alignGang exec i n s2 = (s2, false) ∧ stepCore n s = exec i s2)) ∧
    (exec i u = .next v → gangFollows u n v = false → issueWithGang exec i n u = .next v) ∧
    (∀ t, exec i u = .next v → gangFollows u n v = true → fanOut exec i n u.cc v = .next t →
      issueWithGang exec i n u = .next (if t.owing n then u.notBefore n ((u.core n).tmg.clk + 1) else t)) ∧
    (s1.owedWord n = none → s1.fetch = .bytes u bs → decodeBytes bs = .bad c x → stepCore n s = .next (u.takeTrap n c x 0)) ∧
    (s1.owedWord n = none → s1.fetch = .trap u c x → stepCore n s = .next (u.takeTrap n c x 0)) ∧
    (s1.owedWord n = none → s1.fetch = .wait u → stepCore n s = .next u) ∧
    (s.runnable n = true → s.holdsBad n ≠ [] → turnOf n s = .next (reached ((s.holdsBad n).foldl State.foundBad s))) ∧
    (s.runnable n = true → s.holdsBad n = [] → (∀ u, stepCore n s = .next u → turnOf n s = .next (reached u)) ∧
      ∀ f, stepCore n s = .fault f → turnOf n s = .fault f) ∧
    (s.runnable n = false → turnOf n s = .next s) ∧
    (s.stopWork = some w0 → step s = exec w0.2 { s with clk := max s.clk w0.1 }) ∧
    (s.stopWork = none → s.agenda = .core n :: rest → step s = turnOf n { s with agenda := rest }) ∧
    (s.stopWork = none → s.agenda = .event i :: rest →
      step s = if s.dark i then .next { s with agenda := rest } else exec i { s with agenda := rest }) ∧
    (s.stopWork = none → s.agenda = [] → s.run = .shutDown → step s = .next { s with clk := s.clk + 1 }) ∧
    (s.stopWork = none → s.agenda = [] → s.run ≠ .shutDown →
      (∀ es, s.pending = i :: es → step s = exec i { s with pending := es }) ∧
      (s.pending = [] → s.firstTurn = some (place, o) → (s.dueWork place = none → step s = o) ∧
        (s.dueWork place = some w → step s = s.doWork w)) ∧
      (s.pending = [] → s.firstTurn = none → (s.dueWork (4 * s.clk + 3) = none → step s = .next { s with clk := s.clk + 1 }) ∧
        (s.dueWork (4 * s.clk + 3) = some w → step s = s.doWork w))) ∧
    (∀ t cl e, s.doWork (t, .event i) = exec i { s with clk := max s.clk t } ∧
      s.doWork (t, .serve cl e) = .next (State.serve { s with clk := max s.clk t } cl e)) ∧
    (s.firstTurn = some (place, o) → ∃ m, s.runnable m = true ∧ o = turnOf m s ∧ place = s.turnPlace m (s.turnClk m o) ∧
      ∀ e ∈ s.cores, s.runnable e.1 = true → place ≤ s.turnPlace e.1 (s.turnClk e.1 (turnOf e.1 s)))

/-- R20, R32, R37: some of the spec's own example words, and the instructions that they are. -/
def Obligations.SampleWords : Prop :=
  let h : Hdr := { grd := 0, stall := 0, yld := false, pri := false, holdA := false, holdB := false, holdD := false }
  decodeWord 0x013008808206000000000000 = .ok (.add { h with grd := 3, stall := 2, holdA := true } 1 2 3 false) ∧
  decodeWord 0x0900000082060030FFFFFFF0 = .ok (.lea h 1 2 3 3 0xFFFFFFF0) ∧
  decodeWord 0x1010000000000000FFFFFFC4 = .ok (.br { h with grd := 1 } false 0xFFFFFFC4) ∧
  decodeWord 0x120000000000010000006401 = .ok (.loopi h 1 100) ∧
  decodeWord 0x200000028401000300000010 = .ok (.gld h 5 4 3 false 16) ∧
  decodeWord 0x2D0000000000002000000003 = .ok (.fence h 2 3) ∧
  decodeWord 0x690000000206040000000000 = .ok (.zmma h 4 0 2 3 0 false) ∧
  decodeWord 0x700000038100000000000000 = .ok (.xcopy h 7 1 0) ∧
  decodeWord 0x790000000800000000000000 = .ok (.spawn h 8 0 false) ∧
  decodeWord 0x810000000000000000000007 = .ok (.syscall h 7) ∧
  decodeWord 0x820000000000000000000000 = .ok (.xret h)

/-- R20, R32 to R41: an encoded instruction decodes to itself. For every well-formed instruction that a word encodes, whatever its
header and its operands, decoding its word gives it back. -/
def Obligations.DecodeEncode : Prop := ∀ (i : Instr) (w : IWord), i.wf = true → encode i = some w → decodeWord w = .ok i

/-- R20, R32 to R41: a decoded word encodes to itself. The instruction that the decoder reads is well formed, and its encoding is that
very word: no bit of a word is passed over, and no two words are one instruction. -/
def Obligations.EncodeDecode : Prop := ∀ (w : IWord) (i : Instr), decodeWord w = .ok i → i.wf = true ∧ encode i = some w

/-- R33, R35, R37: the words that no instruction has. The all-zero and the all-one word are refused first; a reserved opcode and
reserved hint bits are never accepted; every refusal is ILLEGAL_OPC with a reason of 1 to 7, or ILLEGAL_OPND with the field and a
reason of 1 to 4. -/
def Obligations.DecodeRefusals : Prop :=
  ∀ (w : IWord) (i : Instr) (c : Cause) (x : BitVec 64),
    decodeWord 0 = .bad .illegalOpc 0x01 ∧ decodeWord (BitVec.allOnes 96) = .bad .illegalOpc 0x02 ∧
    (w ≠ 0 → w ≠ BitVec.allOnes 96 → (w.extractLsb' 88 8).toNat ∉ usedOpcodes → decodeWord w = .bad .illegalOpc 0x03) ∧
    (decodeWord w = .ok i → (w.extractLsb' 88 8).toNat ∈ usedOpcodes ∧ w.extractLsb' 79 5 = 0) ∧
    (decodeWord w = .bad c x → (c = .illegalOpc ∧ 1 ≤ x.toNat ∧ x.toNat ≤ 7) ∨
      (c = .illegalOpnd ∧ ∃ f reason, 1 ≤ f ∧ f ≤ 3 ∧ 1 ≤ reason ∧ reason ≤ 4 ∧ x.toNat = 0x100 * f + reason))

/-- No step refuses: every word that decodes and every event has its effect, or stops only at a physical address with no memory
behind it. -/
def Obligations.StepNeverRefuses : Prop :=
  ∀ (s : State) (i : Instr), (∀ r, exec i s ≠ .refused r) ∧ (∀ r, step s ≠ .refused r) ∧
    (∀ f, step s = .fault f → ∃ pa, f = .noPhysicalMemory pa ∧ physOk pa = false)

/-- Every step keeps the canonical form of memory, whatever runs: a word of a core, an event of a unit, of a link or of a service
processor. -/
def Obligations.MemoryFormKept : Prop :=
  ∀ s t : State, s.hbm.wf = true → s.fabric.wf = true → step s = .next t → t.hbm.wf = true ∧ t.fabric.wf = true
end

