-- ==== Sys2Proof/Laws/Encoding.lean ====
section
/-! SUPPORT. Small lemmas of the encoding: operand numbers, the header's fields, the row of each opcode. -/
namespace Sys2Proof

@[simp] theorem gOf_opG (r : GReg) : gOf (opG r) = r := by revert r; decide
@[simp] theorem vOf_opV (r : VReg) : vOf (opV r) = r := by revert r; decide
@[simp] theorem pOf_opP (r : PReg) : pOf (opP r) = r := by revert r; decide
@[simp] theorem kOf_opK (r : KReg) : kOf (opK r) = r := by revert r; decide
@[simp] theorem isG_opG (r : GReg) : isG (opG r) = true := by revert r; decide
@[simp] theorem isV_opV (r : VReg) : isV (opV r) = true := by revert r; decide
@[simp] theorem isP_opP (r : PReg) : isP (opP r) = true := by revert r; decide
@[simp] theorem isK_opK (r : KReg) : isK (opK r) = true := by revert r; decide
@[simp] theorem isG_opV (r : VReg) : isG (opV r) = false := by revert r; decide
@[simp] theorem isG_opP (r : PReg) : isG (opP r) = false := by revert r; decide
@[simp] theorem isG_opK (r : KReg) : isG (opK r) = false := by revert r; decide
@[simp] theorem isV_opG (r : GReg) : isV (opG r) = false := by revert r; decide
@[simp] theorem isP_opG (r : GReg) : isP (opG r) = false := by revert r; decide
@[simp] theorem isK_opG (r : GReg) : isK (opG r) = false := by revert r; decide
@[simp] theorem fileIndex_opV (r : VReg) : fileIndex (opV r) = r.val := by revert r; decide
@[simp] theorem fileIndex_opG (r : GReg) : fileIndex (opG r) = r.val := by revert r; decide
@[simp] theorem fileSize_opV (r : VReg) : fileSize (opV r) = 48 := by revert r; decide
@[simp] theorem fileSize_opG (r : GReg) : fileSize (opG r) = 64 := by revert r; decide
@[simp] theorem vgOf_opVG (r : VGSrc) : vgOf (opVG r) = r := by cases r <;> rename_i r <;> revert r <;> decide
@[simp] theorem vgOk_opVG (r : VGSrc) : (isG (opVG r) || isV (opVG r)) = true := by
  cases r <;> rename_i r <;> revert r <;> decide
@[simp] theorem sysReadPlain_137 : sysReadPlain 137#12 = false := by decide
@[simp] theorem sysReadPlain_160 : sysReadPlain 160#12 = false := by decide
@[simp] theorem sysWritePlain_136 : sysWritePlain 136#12 = false := by decide
@[simp] theorem sysWritePlain_144 : sysWritePlain 144#12 = false := by decide
@[simp] theorem sysWritePlain_152 : sysWritePlain 152#12 = false := by decide
@[simp] theorem sysWritePlain_176 : sysWritePlain 176#12 = false := by decide

/-- Where the hint field holds each hint (R26), and that its reserved bits are zero. -/
theorem hnt_fields (g st : BitVec 4) (y p a b d : Bool) :
    let x := Hdr.hnt ⟨g, st, y, p, a, b, d⟩
    x.extractLsb' 0 4 = st ∧ x.getLsbD 4 = y ∧ x.getLsbD 5 = a ∧ x.getLsbD 6 = b ∧ x.getLsbD 7 = d ∧
      x.getLsbD 8 = p ∧ x.extractLsb' 9 5 = 0 := by
  simp only [Hdr.hnt]
  clear g
  revert st y p a b d
  decide

/-- A word whose guard and hint fields are a header's has that header. -/
theorem hdr_of_fields (h : Hdr) (r : Raw) (hg : r.grd = h.grd) (hh : r.hnt = h.hnt) : r.hdr = h := by
  obtain ⟨g, st, y, p, a, b, d⟩ := h
  have := hnt_fields g st y p a b d
  simp_all [Raw.hdr]

@[simp] theorem hnt_reserved (h : Hdr) : h.hnt.extractLsb' 9 5 = 0 := by
  obtain ⟨g, st, y, p, a, b, d⟩ := h
  have := hnt_fields g st y p a b d
  simp_all

section
set_option Elab.async false

theorem formOf_01 (r : Raw) (h : Hdr) (ho : r.opc = 0x01#8) : formOf r h = some (form01 r h) := by
  unfold formOf; rw [ho]; rfl
theorem formOf_02 (r : Raw) (h : Hdr) (ho : r.opc = 0x02#8) : formOf r h = some (form02 r h) := by
  unfold formOf; rw [ho]; rfl
theorem formOf_03 (r : Raw) (h : Hdr) (ho : r.opc = 0x03#8) : formOf r h = some (form03 r h) := by
  unfold formOf; rw [ho]; rfl
theorem formOf_04 (r : Raw) (h : Hdr) (ho : r.opc = 0x04#8) : formOf r h = some (form04 r h) := by
  unfold formOf; rw [ho]; rfl
theorem formOf_05 (r : Raw) (h : Hdr) (ho : r.opc = 0x05#8) : formOf r h = some (form05 r h) := by
  unfold formOf; rw [ho]; rfl
theorem formOf_06 (r : Raw) (h : Hdr) (ho : r.opc = 0x06#8) : formOf r h = some (form06 r h) := by
  unfold formOf; rw [ho]; rfl
theorem formOf_07 (r : Raw) (h : Hdr) (ho : r.opc = 0x07#8) : formOf r h = some (form07 r h) := by
  unfold formOf; rw [ho]; rfl
theorem formOf_08 (r : Raw) (h : Hdr) (ho : r.opc = 0x08#8) : formOf r h = some (form08 r h) := by
  unfold formOf; rw [ho]; rfl
theorem formOf_09 (r : Raw) (h : Hdr) (ho : r.opc = 0x09#8) : formOf r h = some (form09 r h) := by
  unfold formOf; rw [ho]; rfl
theorem formOf_0A (r : Raw) (h : Hdr) (ho : r.opc = 0x0A#8) : formOf r h = some (form0A r h) := by
  unfold formOf; rw [ho]; rfl
theorem formOf_0B (r : Raw) (h : Hdr) (ho : r.opc = 0x0B#8) : formOf r h = some (form0B r h) := by
  unfold formOf; rw [ho]; rfl
theorem formOf_0C (r : Raw) (h : Hdr) (ho : r.opc = 0x0C#8) : formOf r h = some (form0C r h) := by
  unfold formOf; rw [ho]; rfl
theorem formOf_0D (r : Raw) (h : Hdr) (ho : r.opc = 0x0D#8) : formOf r h = some (form0D r h) := by
  unfold formOf; rw [ho]; rfl
theorem formOf_10 (r : Raw) (h : Hdr) (ho : r.opc = 0x10#8) : formOf r h = some (form10 r h) := by
  unfold formOf; rw [ho]; rfl
theorem formOf_11 (r : Raw) (h : Hdr) (ho : r.opc = 0x11#8) : formOf r h = some (form11 r h) := by
  unfold formOf; rw [ho]; rfl
theorem formOf_12 (r : Raw) (h : Hdr) (ho : r.opc = 0x12#8) : formOf r h = some (form12 r h) := by
  unfold formOf; rw [ho]; rfl
theorem formOf_13 (r : Raw) (h : Hdr) (ho : r.opc = 0x13#8) : formOf r h = some (form13 r h) := by
  unfold formOf; rw [ho]; rfl
theorem formOf_14 (r : Raw) (h : Hdr) (ho : r.opc = 0x14#8) : formOf r h = some (form14 r h) := by
  unfold formOf; rw [ho]; rfl
theorem formOf_15 (r : Raw) (h : Hdr) (ho : r.opc = 0x15#8) : formOf r h = some (form15 r h) := by
  unfold formOf; rw [ho]; rfl
theorem formOf_18 (r : Raw) (h : Hdr) (ho : r.opc = 0x18#8) : formOf r h = some (form18 r h) := by
  unfold formOf; rw [ho]; rfl
theorem formOf_19 (r : Raw) (h : Hdr) (ho : r.opc = 0x19#8) : formOf r h = some (form19 r h) := by
  unfold formOf; rw [ho]; rfl
theorem formOf_1A (r : Raw) (h : Hdr) (ho : r.opc = 0x1A#8) : formOf r h = some (form1A r h) := by
  unfold formOf; rw [ho]; rfl
theorem formOf_1B (r : Raw) (h : Hdr) (ho : r.opc = 0x1B#8) : formOf r h = some (form1B r h) := by
  unfold formOf; rw [ho]; rfl
theorem formOf_1C (r : Raw) (h : Hdr) (ho : r.opc = 0x1C#8) : formOf r h = some (form1C r h) := by
  unfold formOf; rw [ho]; rfl
theorem formOf_1D (r : Raw) (h : Hdr) (ho : r.opc = 0x1D#8) : formOf r h = some (form1D r h) := by
  unfold formOf; rw [ho]; rfl
theorem formOf_20 (r : Raw) (h : Hdr) (ho : r.opc = 0x20#8) : formOf r h = some (form20 r h) := by
  unfold formOf; rw [ho]; rfl
theorem formOf_21 (r : Raw) (h : Hdr) (ho : r.opc = 0x21#8) : formOf r h = some (form21 r h) := by
  unfold formOf; rw [ho]; rfl
theorem formOf_22 (r : Raw) (h : Hdr) (ho : r.opc = 0x22#8) : formOf r h = some (form22 r h) := by
  unfold formOf; rw [ho]; rfl
theorem formOf_23 (r : Raw) (h : Hdr) (ho : r.opc = 0x23#8) : formOf r h = some (form23 r h) := by
  unfold formOf; rw [ho]; rfl
theorem formOf_28 (r : Raw) (h : Hdr) (ho : r.opc = 0x28#8) : formOf r h = some (form28 r h) := by
  unfold formOf; rw [ho]; rfl
theorem formOf_29 (r : Raw) (h : Hdr) (ho : r.opc = 0x29#8) : formOf r h = some (form29 r h) := by
  unfold formOf; rw [ho]; rfl
theorem formOf_2A (r : Raw) (h : Hdr) (ho : r.opc = 0x2A#8) : formOf r h = some (form2A r h) := by
  unfold formOf; rw [ho]; rfl
theorem formOf_2B (r : Raw) (h : Hdr) (ho : r.opc = 0x2B#8) : formOf r h = some (form2B r h) := by
  unfold formOf; rw [ho]; rfl
theorem formOf_2C (r : Raw) (h : Hdr) (ho : r.opc = 0x2C#8) : formOf r h = some (form2C r h) := by
  unfold formOf; rw [ho]; rfl
theorem formOf_2D (r : Raw) (h : Hdr) (ho : r.opc = 0x2D#8) : formOf r h = some (form2D r h) := by
  unfold formOf; rw [ho]; rfl
theorem formOf_2E (r : Raw) (h : Hdr) (ho : r.opc = 0x2E#8) : formOf r h = some (form2E r h) := by
  unfold formOf; rw [ho]; rfl
theorem formOf_30 (r : Raw) (h : Hdr) (ho : r.opc = 0x30#8) : formOf r h = some (form30 r h) := by
  unfold formOf; rw [ho]; rfl
theorem formOf_31 (r : Raw) (h : Hdr) (ho : r.opc = 0x31#8) : formOf r h = some (form31 r h) := by
  unfold formOf; rw [ho]; rfl
theorem formOf_32 (r : Raw) (h : Hdr) (ho : r.opc = 0x32#8) : formOf r h = some (form32 r h) := by
  unfold formOf; rw [ho]; rfl
theorem formOf_33 (r : Raw) (h : Hdr) (ho : r.opc = 0x33#8) : formOf r h = some (form33 r h) := by
  unfold formOf; rw [ho]; rfl
theorem formOf_34 (r : Raw) (h : Hdr) (ho : r.opc = 0x34#8) : formOf r h = some (form34 r h) := by
  unfold formOf; rw [ho]; rfl
theorem formOf_38 (r : Raw) (h : Hdr) (ho : r.opc = 0x38#8) : formOf r h = some (form38 r h) := by
  unfold formOf; rw [ho]; rfl
theorem formOf_39 (r : Raw) (h : Hdr) (ho : r.opc = 0x39#8) : formOf r h = some (form39 r h) := by
  unfold formOf; rw [ho]; rfl
theorem formOf_3A (r : Raw) (h : Hdr) (ho : r.opc = 0x3A#8) : formOf r h = some (form3A r h) := by
  unfold formOf; rw [ho]; rfl
theorem formOf_3B (r : Raw) (h : Hdr) (ho : r.opc = 0x3B#8) : formOf r h = some (form3B r h) := by
  unfold formOf; rw [ho]; rfl
theorem formOf_3C (r : Raw) (h : Hdr) (ho : r.opc = 0x3C#8) : formOf r h = some (form3C r h) := by
  unfold formOf; rw [ho]; rfl
theorem formOf_3D (r : Raw) (h : Hdr) (ho : r.opc = 0x3D#8) : formOf r h = some (form3D r h) := by
  unfold formOf; rw [ho]; rfl
theorem formOf_40 (r : Raw) (h : Hdr) (ho : r.opc = 0x40#8) : formOf r h = some (form40 r h) := by
  unfold formOf; rw [ho]; rfl
theorem formOf_41 (r : Raw) (h : Hdr) (ho : r.opc = 0x41#8) : formOf r h = some (form41 r h) := by
  unfold formOf; rw [ho]; rfl
theorem formOf_42 (r : Raw) (h : Hdr) (ho : r.opc = 0x42#8) : formOf r h = some (form42 r h) := by
  unfold formOf; rw [ho]; rfl
theorem formOf_43 (r : Raw) (h : Hdr) (ho : r.opc = 0x43#8) : formOf r h = some (form43 r h) := by
  unfold formOf; rw [ho]; rfl
theorem formOf_44 (r : Raw) (h : Hdr) (ho : r.opc = 0x44#8) : formOf r h = some (form44 r h) := by
  unfold formOf; rw [ho]; rfl
theorem formOf_45 (r : Raw) (h : Hdr) (ho : r.opc = 0x45#8) : formOf r h = some (form45 r h) := by
  unfold formOf; rw [ho]; rfl
theorem formOf_46 (r : Raw) (h : Hdr) (ho : r.opc = 0x46#8) : formOf r h = some (form46 r h) := by
  unfold formOf; rw [ho]; rfl
theorem formOf_47 (r : Raw) (h : Hdr) (ho : r.opc = 0x47#8) : formOf r h = some (form47 r h) := by
  unfold formOf; rw [ho]; rfl
theorem formOf_48 (r : Raw) (h : Hdr) (ho : r.opc = 0x48#8) : formOf r h = some (form48 r h) := by
  unfold formOf; rw [ho]; rfl
theorem formOf_49 (r : Raw) (h : Hdr) (ho : r.opc = 0x49#8) : formOf r h = some (form49 r h) := by
  unfold formOf; rw [ho]; rfl
theorem formOf_4A (r : Raw) (h : Hdr) (ho : r.opc = 0x4A#8) : formOf r h = some (form4A r h) := by
  unfold formOf; rw [ho]; rfl
theorem formOf_4B (r : Raw) (h : Hdr) (ho : r.opc = 0x4B#8) : formOf r h = some (form4B r h) := by
  unfold formOf; rw [ho]; rfl
theorem formOf_4C (r : Raw) (h : Hdr) (ho : r.opc = 0x4C#8) : formOf r h = some (form4C r h) := by
  unfold formOf; rw [ho]; rfl
theorem formOf_4D (r : Raw) (h : Hdr) (ho : r.opc = 0x4D#8) : formOf r h = some (form4D r h) := by
  unfold formOf; rw [ho]; rfl
theorem formOf_4E (r : Raw) (h : Hdr) (ho : r.opc = 0x4E#8) : formOf r h = some (form4E r h) := by
  unfold formOf; rw [ho]; rfl
theorem formOf_4F (r : Raw) (h : Hdr) (ho : r.opc = 0x4F#8) : formOf r h = some (form4F r h) := by
  unfold formOf; rw [ho]; rfl
theorem formOf_50 (r : Raw) (h : Hdr) (ho : r.opc = 0x50#8) : formOf r h = some (form50 r h) := by
  unfold formOf; rw [ho]; rfl
theorem formOf_51 (r : Raw) (h : Hdr) (ho : r.opc = 0x51#8) : formOf r h = some (form51 r h) := by
  unfold formOf; rw [ho]; rfl
theorem formOf_52 (r : Raw) (h : Hdr) (ho : r.opc = 0x52#8) : formOf r h = some (form52 r h) := by
  unfold formOf; rw [ho]; rfl
theorem formOf_53 (r : Raw) (h : Hdr) (ho : r.opc = 0x53#8) : formOf r h = some (form53 r h) := by
  unfold formOf; rw [ho]; rfl
theorem formOf_54 (r : Raw) (h : Hdr) (ho : r.opc = 0x54#8) : formOf r h = some (form54 r h) := by
  unfold formOf; rw [ho]; rfl
theorem formOf_55 (r : Raw) (h : Hdr) (ho : r.opc = 0x55#8) : formOf r h = some (form55 r h) := by
  unfold formOf; rw [ho]; rfl
theorem formOf_56 (r : Raw) (h : Hdr) (ho : r.opc = 0x56#8) : formOf r h = some (form56 r h) := by
  unfold formOf; rw [ho]; rfl
theorem formOf_57 (r : Raw) (h : Hdr) (ho : r.opc = 0x57#8) : formOf r h = some (form57 r h) := by
  unfold formOf; rw [ho]; rfl
theorem formOf_60 (r : Raw) (h : Hdr) (ho : r.opc = 0x60#8) : formOf r h = some (form60 r h) := by
  unfold formOf; rw [ho]; rfl
theorem formOf_61 (r : Raw) (h : Hdr) (ho : r.opc = 0x61#8) : formOf r h = some (form61 r h) := by
  unfold formOf; rw [ho]; rfl
theorem formOf_62 (r : Raw) (h : Hdr) (ho : r.opc = 0x62#8) : formOf r h = some (form62 r h) := by
  unfold formOf; rw [ho]; rfl
theorem formOf_63 (r : Raw) (h : Hdr) (ho : r.opc = 0x63#8) : formOf r h = some (form63 r h) := by
  unfold formOf; rw [ho]; rfl
theorem formOf_64 (r : Raw) (h : Hdr) (ho : r.opc = 0x64#8) : formOf r h = some (form64 r h) := by
  unfold formOf; rw [ho]; rfl
theorem formOf_65 (r : Raw) (h : Hdr) (ho : r.opc = 0x65#8) : formOf r h = some (form65 r h) := by
  unfold formOf; rw [ho]; rfl
theorem formOf_66 (r : Raw) (h : Hdr) (ho : r.opc = 0x66#8) : formOf r h = some (form66 r h) := by
  unfold formOf; rw [ho]; rfl
theorem formOf_68 (r : Raw) (h : Hdr) (ho : r.opc = 0x68#8) : formOf r h = some (form68 r h) := by
  unfold formOf; rw [ho]; rfl
theorem formOf_69 (r : Raw) (h : Hdr) (ho : r.opc = 0x69#8) : formOf r h = some (form69 r h) := by
  unfold formOf; rw [ho]; rfl
theorem formOf_6A (r : Raw) (h : Hdr) (ho : r.opc = 0x6A#8) : formOf r h = some (form6A r h) := by
  unfold formOf; rw [ho]; rfl
theorem formOf_6B (r : Raw) (h : Hdr) (ho : r.opc = 0x6B#8) : formOf r h = some (form6B r h) := by
  unfold formOf; rw [ho]; rfl
theorem formOf_6C (r : Raw) (h : Hdr) (ho : r.opc = 0x6C#8) : formOf r h = some (form6C r h) := by
  unfold formOf; rw [ho]; rfl
theorem formOf_6D (r : Raw) (h : Hdr) (ho : r.opc = 0x6D#8) : formOf r h = some (form6D r h) := by
  unfold formOf; rw [ho]; rfl
theorem formOf_6E (r : Raw) (h : Hdr) (ho : r.opc = 0x6E#8) : formOf r h = some (form6E r h) := by
  unfold formOf; rw [ho]; rfl
theorem formOf_70 (r : Raw) (h : Hdr) (ho : r.opc = 0x70#8) : formOf r h = some (form70 r h) := by
  unfold formOf; rw [ho]; rfl
theorem formOf_71 (r : Raw) (h : Hdr) (ho : r.opc = 0x71#8) : formOf r h = some (form71 r h) := by
  unfold formOf; rw [ho]; rfl
theorem formOf_72 (r : Raw) (h : Hdr) (ho : r.opc = 0x72#8) : formOf r h = some (form72 r h) := by
  unfold formOf; rw [ho]; rfl
theorem formOf_73 (r : Raw) (h : Hdr) (ho : r.opc = 0x73#8) : formOf r h = some (form73 r h) := by
  unfold formOf; rw [ho]; rfl
theorem formOf_74 (r : Raw) (h : Hdr) (ho : r.opc = 0x74#8) : formOf r h = some (form74 r h) := by
  unfold formOf; rw [ho]; rfl
theorem formOf_75 (r : Raw) (h : Hdr) (ho : r.opc = 0x75#8) : formOf r h = some (form75 r h) := by
  unfold formOf; rw [ho]; rfl
theorem formOf_76 (r : Raw) (h : Hdr) (ho : r.opc = 0x76#8) : formOf r h = some (form76 r h) := by
  unfold formOf; rw [ho]; rfl
theorem formOf_78 (r : Raw) (h : Hdr) (ho : r.opc = 0x78#8) : formOf r h = some (form78 r h) := by
  unfold formOf; rw [ho]; rfl
theorem formOf_79 (r : Raw) (h : Hdr) (ho : r.opc = 0x79#8) : formOf r h = some (form79 r h) := by
  unfold formOf; rw [ho]; rfl
theorem formOf_7A (r : Raw) (h : Hdr) (ho : r.opc = 0x7A#8) : formOf r h = some (form7A r h) := by
  unfold formOf; rw [ho]; rfl
theorem formOf_7B (r : Raw) (h : Hdr) (ho : r.opc = 0x7B#8) : formOf r h = some (form7B r h) := by
  unfold formOf; rw [ho]; rfl
theorem formOf_7C (r : Raw) (h : Hdr) (ho : r.opc = 0x7C#8) : formOf r h = some (form7C r h) := by
  unfold formOf; rw [ho]; rfl
theorem formOf_80 (r : Raw) (h : Hdr) (ho : r.opc = 0x80#8) : formOf r h = some (form80 r h) := by
  unfold formOf; rw [ho]; rfl
theorem formOf_81 (r : Raw) (h : Hdr) (ho : r.opc = 0x81#8) : formOf r h = some (form81 r h) := by
  unfold formOf; rw [ho]; rfl
theorem formOf_82 (r : Raw) (h : Hdr) (ho : r.opc = 0x82#8) : formOf r h = some (form82 r h) := by
  unfold formOf; rw [ho]; rfl
theorem formOf_83 (r : Raw) (h : Hdr) (ho : r.opc = 0x83#8) : formOf r h = some (form83 r h) := by
  unfold formOf; rw [ho]; rfl
theorem formOf_84 (r : Raw) (h : Hdr) (ho : r.opc = 0x84#8) : formOf r h = some (form84 r h) := by
  unfold formOf; rw [ho]; rfl
theorem formOf_85 (r : Raw) (h : Hdr) (ho : r.opc = 0x85#8) : formOf r h = some (form85 r h) := by
  unfold formOf; rw [ho]; rfl
theorem formOf_86 (r : Raw) (h : Hdr) (ho : r.opc = 0x86#8) : formOf r h = some (form86 r h) := by
  unfold formOf; rw [ho]; rfl

end

/-! ## Bits -/

section
set_option Elab.async false

theorem bits_0 : ∀ (x0 : BitVec 5) (x1 : BitVec 5), (((x0.setWidth 32 <<< 0) ||| (x1.setWidth 32 <<< 5)) &&& 0xFFFFFC00#32) = 0#32 := by decide
theorem bits_1 : ∀ (x0 : BitVec 5) (x1 : BitVec 5), (((x0.setWidth 32 <<< 0) ||| (x1.setWidth 32 <<< 5)).extractLsb' 0 5) = x0 := by decide
theorem bits_2 : ∀ (x0 : BitVec 5) (x1 : BitVec 5), (((x0.setWidth 32 <<< 0) ||| (x1.setWidth 32 <<< 5)).extractLsb' 5 5) = x1 := by decide
theorem bits_3 : ∀ (x0 : BitVec 2) (x1 : Bool), (((x0.setWidth 8 <<< 0) ||| bitAt 8 2 x1) &&& 248#8) = 0#8 := by decide
theorem bits_4 : ∀ (x0 : BitVec 2) (x1 : Bool), (((x0.setWidth 8 <<< 0) ||| bitAt 8 2 x1).extractLsb' 0 2) = x0 := by decide
theorem bits_5 : ∀ (x0 : BitVec 2) (x1 : Bool), (((x0.setWidth 8 <<< 0) ||| bitAt 8 2 x1).getLsbD 2) = x1 := by decide
theorem bits_6 : ∀ (x0 : BitVec 2), (((x0.setWidth 8 <<< 0)) &&& 252#8) = 0#8 := by decide
theorem bits_7 : ∀ (x0 : BitVec 2), (((x0.setWidth 8 <<< 0)).extractLsb' 0 2) = x0 := by decide
theorem bits_8 : ∀ (x0 : BitVec 2), (((x0.setWidth 8 <<< 4)) &&& 207#8) = 0#8 := by decide
theorem bits_9 : ∀ (x0 : BitVec 2), (((x0.setWidth 8 <<< 4)).extractLsb' 4 2) = x0 := by decide
theorem bits_10 : ∀ (x0 : BitVec 8), ((x0.setWidth 9).extractLsb' 0 8) = x0 := by decide
theorem bits_11 : ∀ (x0 : BitVec 8), ((x0.setWidth 9).extractLsb' 8 1) = 0#1 := by decide
theorem bits_12 : ∀ (x0 : KReg), (((BitVec.ofNat 8 x0.val <<< 4)) &&& 143#8) = 0#8 := by decide
theorem bits_13 : ∀ (x0 : KReg), ((fin8 (((BitVec.ofNat 8 x0.val <<< 4)).extractLsb' 4 3))) = x0 := by decide
theorem bits_14 : ∀ (x0 : Bool), ((bitAt 8 0 x0) &&& 254#8) = 0#8 := by decide
theorem bits_15 : ∀ (x0 : Bool), ((bitAt 8 0 x0).getLsbD 0) = x0 := by decide
theorem bits_16 : ∀ (x0 : BitVec 2) (x1 : BitVec 3), (((x0.setWidth 8 <<< 0) ||| (x1.setWidth 8 <<< 4)) &&& 140#8) = 0#8 := by decide
theorem bits_17 : ∀ (x0 : BitVec 2) (x1 : BitVec 3), (((x0.setWidth 8 <<< 0) ||| (x1.setWidth 8 <<< 4)).extractLsb' 0 2) = x0 := by decide
theorem bits_18 : ∀ (x0 : BitVec 2) (x1 : BitVec 3), (((x0.setWidth 8 <<< 0) ||| (x1.setWidth 8 <<< 4)).extractLsb' 4 3) = x1 := by decide
theorem bits_19 : ∀ (x0 : BitVec 4), ((x0.setWidth 9).extractLsb' 0 4) = x0 := by decide
theorem bits_20 : ∀ (x0 : BitVec 4), ((x0.setWidth 9).ult 10#9) = x0.ult 10#4 := by decide
theorem bits_21 : ∀ (x0 : BitVec 4), ((x0.setWidth 9) == 0#9) = (x0 == 0#4) := by decide
theorem bits_22 : ∀ (x0 : BitVec 6) (x1 : BitVec 16), (((x0.setWidth 32 <<< 0) ||| (x1.setWidth 32 <<< 16)) &&& 0x0000FFC0#32) = 0#32 := by
  intro x0 x1
  apply BitVec.eq_of_getLsbD_eq; intro i hi; interval_cases i <;> simp
theorem bits_23 : ∀ (x0 : BitVec 6) (x1 : BitVec 16), (((x0.setWidth 32 <<< 0) ||| (x1.setWidth 32 <<< 16)).extractLsb' 0 6) = x0 := by
  intro x0 x1
  apply BitVec.eq_of_getLsbD_eq; intro i hi; interval_cases i <;> simp
theorem bits_24 : ∀ (x0 : BitVec 6) (x1 : BitVec 16), (((x0.setWidth 32 <<< 0) ||| (x1.setWidth 32 <<< 16)).extractLsb' 16 16) = x1 := by
  intro x0 x1
  apply BitVec.eq_of_getLsbD_eq; intro i hi; interval_cases i <;> simp
theorem bits_25 : ∀ (x0 : BitVec 5), (((x0.setWidth 32 <<< 0)) &&& 0xFFFFFFE0#32) = 0#32 := by decide
theorem bits_26 : ∀ (x0 : BitVec 5), (((x0.setWidth 32 <<< 0)).extractLsb' 0 5) = x0 := by decide
theorem bits_27 : ∀ (x0 : BitVec 4) (x1 : BitVec 16), (((x0.setWidth 32 <<< 0) ||| (x1.setWidth 32 <<< 16)) &&& 0x0000FFF0#32) = 0#32 := by
  intro x0 x1
  apply BitVec.eq_of_getLsbD_eq; intro i hi; interval_cases i <;> simp
theorem bits_28 : ∀ (x0 : BitVec 4) (x1 : BitVec 16), (((x0.setWidth 32 <<< 0) ||| (x1.setWidth 32 <<< 16)).extractLsb' 0 4) = x0 := by
  intro x0 x1
  apply BitVec.eq_of_getLsbD_eq; intro i hi; interval_cases i <;> simp
theorem bits_29 : ∀ (x0 : BitVec 4) (x1 : BitVec 16), (((x0.setWidth 32 <<< 0) ||| (x1.setWidth 32 <<< 16)).extractLsb' 16 16) = x1 := by
  intro x0 x1
  apply BitVec.eq_of_getLsbD_eq; intro i hi; interval_cases i <;> simp
theorem bits_30 : ∀ (x0 : BitVec 6), (((x0.setWidth 32 <<< 0)) &&& 0xFFFFFFC0#32) = 0#32 := by decide
theorem bits_31 : ∀ (x0 : BitVec 6), (((x0.setWidth 32 <<< 0)).extractLsb' 0 6) = x0 := by decide
theorem bits_32 : ∀ (x0 : BitVec 3), (((x0.setWidth 8 <<< 4)) &&& 143#8) = 0#8 := by decide
theorem bits_33 : ∀ (x0 : BitVec 3), (((x0.setWidth 8 <<< 4)).extractLsb' 4 3) = x0 := by decide
theorem bits_34 : ∀ (x0 : BitVec 8), (((x0.setWidth 32 <<< 0)) &&& 0xFFFFFF00#32) = 0#32 := by decide
theorem bits_35 : ∀ (x0 : BitVec 8), (((x0.setWidth 32 <<< 0)).extractLsb' 0 8) = x0 := by decide
theorem bits_36 : ∀ (x0 : BitVec 4) (x1 : BitVec 4), (((x0.setWidth 32 <<< 0) ||| (x1.setWidth 32 <<< 8)) &&& 0xFFFFF0F0#32) = 0#32 := by decide
theorem bits_37 : ∀ (x0 : BitVec 4) (x1 : BitVec 4), (((x0.setWidth 32 <<< 0) ||| (x1.setWidth 32 <<< 8)).extractLsb' 0 4) = x0 := by decide
theorem bits_38 : ∀ (x0 : BitVec 4) (x1 : BitVec 4), (((x0.setWidth 32 <<< 0) ||| (x1.setWidth 32 <<< 8)).extractLsb' 8 4) = x1 := by decide
theorem bits_39 : ∀ (x0 : BitVec 4), (((x0.setWidth 32 <<< 0)) &&& 0xFFFFFFF0#32) = 0#32 := by decide
theorem bits_40 : ∀ (x0 : BitVec 4), (((x0.setWidth 32 <<< 0)).extractLsb' 0 4) = x0 := by decide
theorem bits_41 : ∀ (x0 : BitVec 4) (x1 : PReg), (((x0.setWidth 32 <<< 0) ||| (BitVec.ofNat 32 x1.val <<< 4)) &&& 0xFFFFFF80#32) = 0#32 := by decide
theorem bits_42 : ∀ (x0 : BitVec 4) (x1 : PReg), (((x0.setWidth 32 <<< 0) ||| (BitVec.ofNat 32 x1.val <<< 4)).extractLsb' 0 4) = x0 := by decide
theorem bits_43 : ∀ (x0 : BitVec 4) (x1 : PReg), ((fin8 (((x0.setWidth 32 <<< 0) ||| (BitVec.ofNat 32 x1.val <<< 4)).extractLsb' 4 3))) = x1 := by decide
theorem bits_44 : ∀ (x0 : Fin 4), (((BitVec.ofNat 8 x0.val <<< 0)) &&& 252#8) = 0#8 := by decide
theorem bits_45 : ∀ (x0 : Fin 4), ((fin4 (((BitVec.ofNat 8 x0.val <<< 0)).extractLsb' 0 2))) = x0 := by decide
theorem bits_46 : ∀ (x0 : Bool) (x1 : BitVec 5), (x0 || x1.ult 16#5) = true → ((bitAt 32 5 x0 ||| (x1.setWidth 32 <<< 0)) &&& (if x0 then 0xFFFFFFC0#32 else 0xFFFFFFF0#32)) = 0#32 := by decide
theorem bits_47 : ∀ (x0 : Bool) (x1 : BitVec 5), ((bitAt 32 5 x0 ||| (x1.setWidth 32 <<< 0)).getLsbD 5) = x0 := by decide
theorem bits_48 : ∀ (x0 : Bool) (x1 : BitVec 5), ((bitAt 32 5 x0 ||| (x1.setWidth 32 <<< 0)).extractLsb' 0 5) = x1 := by decide
theorem bits_49 : ∀ (x0 : BitVec 5), (((x0.setWidth 8 <<< 0)) &&& 224#8) = 0#8 := by decide
theorem bits_50 : ∀ (x0 : BitVec 5), (((x0.setWidth 8 <<< 0)).extractLsb' 0 5) = x0 := by decide
theorem bits_51 : ∀ (x0 : BitVec 3) (x1 : Bool), (((x0.setWidth 8 <<< 0) ||| bitAt 8 3 x1) &&& 240#8) = 0#8 := by decide
theorem bits_52 : ∀ (x0 : BitVec 3) (x1 : Bool), (((x0.setWidth 8 <<< 0) ||| bitAt 8 3 x1).extractLsb' 0 3) = x0 := by decide
theorem bits_53 : ∀ (x0 : BitVec 3) (x1 : Bool), (((x0.setWidth 8 <<< 0) ||| bitAt 8 3 x1).getLsbD 3) = x1 := by decide
theorem bits_54 : ∀ (x0 : BitVec 3), (((x0.setWidth 32 <<< 0)) &&& 0xFFFFFFF8#32) = 0#32 := by decide
theorem bits_55 : ∀ (x0 : BitVec 3), (((x0.setWidth 32 <<< 0)).extractLsb' 0 3) = x0 := by decide
theorem bits_56 : ∀ (x0 : BitVec 2), (((x0.setWidth 32 <<< 0)) &&& 0xFFFFFFFC#32) = 0#32 := by decide
theorem bits_57 : ∀ (x0 : BitVec 2), (((x0.setWidth 32 <<< 0)).extractLsb' 0 2) = x0 := by decide
theorem bits_58 : ∀ (x0 : BitVec 12), (((x0.setWidth 32 <<< 0)) &&& 0xFFFFF000#32) = 0#32 := by
  intro x0
  apply BitVec.eq_of_getLsbD_eq; intro i hi; interval_cases i <;> simp
theorem bits_59 : ∀ (x0 : BitVec 12), (((x0.setWidth 32 <<< 0)).extractLsb' 0 12) = x0 := by
  intro x0
  apply BitVec.eq_of_getLsbD_eq; intro i hi; interval_cases i <;> simp
theorem bits_60 : ∀ (x0 : Fin 4), (((0x018#32 ||| BitVec.ofNat 32 x0.val)) &&& 0xFFFFF000#32) = 0#32 := by decide
theorem bits_61 : ∀ (x0 : Fin 4), ((fin4 (((0x018#32 ||| BitVec.ofNat 32 x0.val)).extractLsb' 0 2))) = x0 := by decide
theorem bits_62 : ∀ (x0 : Fin 4), (((0x018#32 ||| BitVec.ofNat 32 x0.val)).extractLsb' 2 10 == 0x006#10) = true := by decide
theorem bits_63 : ∀ (x0 : Fin 4), (sysWritePlain (((0x018#32 ||| BitVec.ofNat 32 x0.val)).extractLsb' 0 12)) = false := by decide
theorem bits_64 : ∀ (x0 : Fin 4), (((0x018#32 ||| BitVec.ofNat 32 x0.val)).extractLsb' 0 12 == 0x088#12) = false := by decide
theorem bits_65 : ∀ (x0 : Fin 4), (((0x018#32 ||| BitVec.ofNat 32 x0.val)).extractLsb' 0 12 == 0x0b0#12) = false := by decide
theorem bits_66 : ∀ (x0 : Fin 4), (((0x018#32 ||| BitVec.ofNat 32 x0.val)).extractLsb' 0 12 == 0x098#12) = false := by decide
theorem bits_67 : ∀ (x0 : Fin 4), (((0x018#32 ||| BitVec.ofNat 32 x0.val)).extractLsb' 0 12 == 0x090#12) = false := by decide
theorem bits_68 : ∀ (x0 : Bool), ((bitAt 8 4 x0) &&& 239#8) = 0#8 := by decide
theorem bits_69 : ∀ (x0 : Bool), ((bitAt 8 4 x0).getLsbD 4) = x0 := by decide
theorem bits_70 : ∀ (x0 : Bool), ((bitAt 8 4 x0 ||| 0x20#8) &&& 207#8) = 0#8 := by decide
theorem bits_71 : ∀ (x0 : Bool), ((bitAt 8 4 x0 ||| 0x20#8).getLsbD 4) = x0 := by decide
theorem bits_72 : ∀ (x0 : Bool), ((bitAt 8 4 x0 ||| 0x20#8).getLsbD 5) = true := by decide
theorem bits_73 : ∀ (x0 : Bool) (x1 : BitVec 6), (!x0 || x1.ult 32#6) = true → ((x1.setWidth 32) &&& (if x0 then 0xFFFFFFE0#32 else 0xFFFFFFC0#32)) = 0#32 := by decide
theorem bits_74 : ∀ (x0 : BitVec 6), ((x0.setWidth 32).extractLsb' 0 6) = x0 := by decide
theorem bits_75 : ∀ (x0 : Bool), ((bitAt 8 4 x0 ||| 0#8) &&& 207#8) = 0#8 := by decide
theorem bits_76 : ∀ (x0 : Bool), ((bitAt 8 4 x0 ||| 0#8).getLsbD 4) = x0 := by decide
theorem bits_77 : ∀ (x0 : Bool), ((bitAt 8 4 x0 ||| 0#8).getLsbD 5) = false := by decide
theorem bits_78 : ∀ (x0 : BitVec 6) (x1 : BitVec 7), (((x0.setWidth 32 <<< 0) ||| (x1.setWidth 32 <<< 6)) &&& 0xFFFFE000#32) = 0#32 := by
  intro x0 x1
  apply BitVec.eq_of_getLsbD_eq; intro i hi; interval_cases i <;> simp
theorem bits_79 : ∀ (x0 : BitVec 6) (x1 : BitVec 7), (((x0.setWidth 32 <<< 0) ||| (x1.setWidth 32 <<< 6)).extractLsb' 0 6) = x0 := by
  intro x0 x1
  apply BitVec.eq_of_getLsbD_eq; intro i hi; interval_cases i <;> simp
theorem bits_80 : ∀ (x0 : BitVec 6) (x1 : BitVec 7), (((x0.setWidth 32 <<< 0) ||| (x1.setWidth 32 <<< 6)).extractLsb' 6 7) = x1 := by
  intro x0 x1
  apply BitVec.eq_of_getLsbD_eq; intro i hi; interval_cases i <;> simp
theorem bits_81 : ∀ (x0 : PReg) (x1 : Bool), (((BitVec.ofNat 32 x0.val <<< 0) ||| bitAt 32 3 x1) &&& 0xFFFFFFF0#32) = 0#32 := by decide
theorem bits_82 : ∀ (x0 : PReg) (x1 : Bool), ((fin8 (((BitVec.ofNat 32 x0.val <<< 0) ||| bitAt 32 3 x1).extractLsb' 0 3))) = x0 := by decide
theorem bits_83 : ∀ (x0 : PReg) (x1 : Bool), (((BitVec.ofNat 32 x0.val <<< 0) ||| bitAt 32 3 x1).getLsbD 3) = x1 := by decide
theorem bits_84 : ∀ (x0 : BitVec 4) (x1 : Bool), (((x0.setWidth 8 <<< 0) ||| bitAt 8 4 x1 ||| 0x20#8) &&& 192#8) = 0#8 := by decide
theorem bits_85 : ∀ (x0 : BitVec 4) (x1 : Bool), (((x0.setWidth 8 <<< 0) ||| bitAt 8 4 x1 ||| 0x20#8).extractLsb' 0 4) = x0 := by decide
theorem bits_86 : ∀ (x0 : BitVec 4) (x1 : Bool), (((x0.setWidth 8 <<< 0) ||| bitAt 8 4 x1 ||| 0x20#8).getLsbD 4) = x1 := by decide
theorem bits_87 : ∀ (x0 : BitVec 4) (x1 : Bool), (((x0.setWidth 8 <<< 0) ||| bitAt 8 4 x1 ||| 0x20#8).getLsbD 5) = true := by decide
theorem bits_88 : ∀ (x0 : BitVec 4) (x1 : Bool), (((x0.setWidth 8 <<< 0) ||| bitAt 8 4 x1 ||| 0#8) &&& 192#8) = 0#8 := by decide
theorem bits_89 : ∀ (x0 : BitVec 4) (x1 : Bool), (((x0.setWidth 8 <<< 0) ||| bitAt 8 4 x1 ||| 0#8).extractLsb' 0 4) = x0 := by decide
theorem bits_90 : ∀ (x0 : BitVec 4) (x1 : Bool), (((x0.setWidth 8 <<< 0) ||| bitAt 8 4 x1 ||| 0#8).getLsbD 4) = x1 := by decide
theorem bits_91 : ∀ (x0 : BitVec 4) (x1 : Bool), (((x0.setWidth 8 <<< 0) ||| bitAt 8 4 x1 ||| 0#8).getLsbD 5) = false := by decide
theorem bits_92 : ∀ (x0 : BitVec 3) (x1 : Bool), (((x0.setWidth 8 <<< 0) ||| bitAt 8 4 x1) &&& 232#8) = 0#8 := by decide
theorem bits_93 : ∀ (x0 : BitVec 3) (x1 : Bool), (((x0.setWidth 8 <<< 0) ||| bitAt 8 4 x1).extractLsb' 0 3) = x0 := by decide
theorem bits_94 : ∀ (x0 : BitVec 3) (x1 : Bool), (((x0.setWidth 8 <<< 0) ||| bitAt 8 4 x1).getLsbD 4) = x1 := by decide
theorem bits_95 : ∀ (x0 : BitVec 8) (x1 : BitVec 24), (((x0.setWidth 32 <<< 0) ||| (x1.setWidth 32 <<< 8)) &&& 0x00000000#32) = 0#32 := by
  intro x0 x1
  apply BitVec.eq_of_getLsbD_eq; intro i hi; interval_cases i <;> simp
theorem bits_96 : ∀ (x0 : BitVec 8) (x1 : BitVec 24), (((x0.setWidth 32 <<< 0) ||| (x1.setWidth 32 <<< 8)).extractLsb' 0 8) = x0 := by
  intro x0 x1
  apply BitVec.eq_of_getLsbD_eq; intro i hi; interval_cases i <;> simp
theorem bits_97 : ∀ (x0 : BitVec 8) (x1 : BitVec 24), (((x0.setWidth 32 <<< 0) ||| (x1.setWidth 32 <<< 8)).extractLsb' 8 24) = x1 := by
  intro x0 x1
  apply BitVec.eq_of_getLsbD_eq; intro i hi; interval_cases i <;> simp
theorem bits_98 : ∀ (x0 : Bool) (x1 : Bool), ((bitAt 8 0 x0 ||| bitAt 8 1 x1) &&& 252#8) = 0#8 := by decide
theorem bits_99 : ∀ (x0 : Bool) (x1 : Bool), ((bitAt 8 0 x0 ||| bitAt 8 1 x1).getLsbD 0) = x0 := by decide
theorem bits_100 : ∀ (x0 : Bool) (x1 : Bool), ((bitAt 8 0 x0 ||| bitAt 8 1 x1).getLsbD 1) = x1 := by decide
theorem bits_101 : ∀ (x0 : BitVec 3) (x1 : Bool) (x2 : BitVec 4), (((x0.setWidth 8 <<< 0) ||| bitAt 8 3 x1 ||| (x2.setWidth 8 <<< 4)).extractLsb' 0 3) = x0 := by decide
theorem bits_102 : ∀ (x0 : BitVec 3) (x1 : Bool) (x2 : BitVec 4), (((x0.setWidth 8 <<< 0) ||| bitAt 8 3 x1 ||| (x2.setWidth 8 <<< 4)).getLsbD 3) = x1 := by decide
theorem bits_103 : ∀ (x0 : BitVec 3) (x1 : Bool) (x2 : BitVec 4), (((x0.setWidth 8 <<< 0) ||| bitAt 8 3 x1 ||| (x2.setWidth 8 <<< 4)).extractLsb' 4 4) = x2 := by decide
theorem bits_104 : ∀ (x0 : BitVec 3) (x1 : BitVec 4), (((x0.setWidth 8 <<< 0) ||| (x1.setWidth 8 <<< 4)) &&& 8#8) = 0#8 := by decide
theorem bits_105 : ∀ (x0 : BitVec 3) (x1 : BitVec 4), (((x0.setWidth 8 <<< 0) ||| (x1.setWidth 8 <<< 4)).extractLsb' 0 3) = x0 := by decide
theorem bits_106 : ∀ (x0 : BitVec 3) (x1 : BitVec 4), (((x0.setWidth 8 <<< 0) ||| (x1.setWidth 8 <<< 4)).extractLsb' 4 4) = x1 := by decide
theorem bits_107 : ∀ (x0 : BitVec 3), (((x0.setWidth 8 <<< 0)) &&& 248#8) = 0#8 := by decide
theorem bits_108 : ∀ (x0 : BitVec 3), (((x0.setWidth 8 <<< 0)).extractLsb' 0 3) = x0 := by decide
theorem bits_109 : ∀ (x0 : BitVec 3) (x1 : BitVec 3), (((0#2 ++ x0 ++ 0#1 ++ x1)).extractLsb' 4 3) = x0 := by decide
theorem bits_110 : ∀ (x0 : BitVec 3) (x1 : BitVec 3), (((0#2 ++ x0 ++ 0#1 ++ x1)).extractLsb' 0 3) = x1 := by decide
theorem bits_111 : ∀ (x0 : BitVec 3) (x1 : BitVec 3), (((0#2 ++ x0 ++ 0#1 ++ x1)).extractLsb' 7 2) = 0#2 := by decide
theorem bits_112 : ∀ (x0 : BitVec 3) (x1 : BitVec 3), (((0#2 ++ x0 ++ 0#1 ++ x1)).extractLsb' 3 1) = 0#1 := by decide
theorem bits_113 : ∀ (x0 : Bool) (x1 : KReg) (x2 : Bool), ((bitAt 8 3 x0 ||| (BitVec.ofNat 8 x1.val <<< 4) ||| bitAt 8 7 x2) &&& 7#8) = 0#8 := by decide
theorem bits_114 : ∀ (x0 : Bool) (x1 : KReg) (x2 : Bool), ((bitAt 8 3 x0 ||| (BitVec.ofNat 8 x1.val <<< 4) ||| bitAt 8 7 x2).getLsbD 3) = x0 := by decide
theorem bits_115 : ∀ (x0 : Bool) (x1 : KReg) (x2 : Bool), ((fin8 ((bitAt 8 3 x0 ||| (BitVec.ofNat 8 x1.val <<< 4) ||| bitAt 8 7 x2).extractLsb' 4 3))) = x1 := by decide
theorem bits_116 : ∀ (x0 : Bool) (x1 : KReg) (x2 : Bool), ((bitAt 8 3 x0 ||| (BitVec.ofNat 8 x1.val <<< 4) ||| bitAt 8 7 x2).getLsbD 7) = x2 := by decide
theorem bits_117 : ∀ (x0 : BitVec 6), (((0#3 ++ x0)).extractLsb' 0 6) = x0 := by decide
theorem bits_118 : ∀ (x0 : BitVec 6), (((0#3 ++ x0)).extractLsb' 6 3) = 0#3 := by decide
theorem bits_119 : ∀ (x0 : BitVec 6), (((1#3 ++ x0)).extractLsb' 0 6) = x0 := by decide
theorem bits_120 : ∀ (x0 : BitVec 6), (((1#3 ++ x0)).extractLsb' 6 3) = 1#3 := by decide
theorem bits_121 : ∀ (x0 : BitVec 6), (((1#3 ++ x0)) == 0#9) = false := by decide
theorem bits_122 : ∀ (x0 : BitVec 6), (((2#3 ++ x0)).extractLsb' 0 6) = x0 := by decide
theorem bits_123 : ∀ (x0 : BitVec 6), (((2#3 ++ x0)).extractLsb' 6 3) = 2#3 := by decide
theorem bits_124 : ∀ (x0 : BitVec 6), (((2#3 ++ x0)) == 0#9) = false := by decide
theorem bits_125 : ∀ (x0 : BitVec 6), (((3#3 ++ x0)).extractLsb' 0 6) = x0 := by decide
theorem bits_126 : ∀ (x0 : BitVec 6), (((3#3 ++ x0)).extractLsb' 6 3) = 3#3 := by decide
theorem bits_127 : ∀ (x0 : BitVec 6), (((3#3 ++ x0)) == 0#9) = false := by decide
theorem bits_128 : ∀ (x0 : BitVec 6), (((4#3 ++ x0)).extractLsb' 0 6) = x0 := by decide
theorem bits_129 : ∀ (x0 : BitVec 6), (((4#3 ++ x0)).extractLsb' 6 3) = 4#3 := by decide
theorem bits_130 : ∀ (x0 : BitVec 6), (((4#3 ++ x0)) == 0#9) = false := by decide
theorem bits_131 : ∀ (x0 : BitVec 3) (x1 : Bool) (x2 : KReg) (x3 : Bool), (((x0.setWidth 8 <<< 0) ||| bitAt 8 3 x1 ||| (BitVec.ofNat 8 x2.val <<< 4) ||| bitAt 8 7 x3).extractLsb' 0 3) = x0 := by decide
theorem bits_132 : ∀ (x0 : BitVec 3) (x1 : Bool) (x2 : KReg) (x3 : Bool), (((x0.setWidth 8 <<< 0) ||| bitAt 8 3 x1 ||| (BitVec.ofNat 8 x2.val <<< 4) ||| bitAt 8 7 x3).getLsbD 3) = x1 := by decide
theorem bits_133 : ∀ (x0 : BitVec 3) (x1 : Bool) (x2 : KReg) (x3 : Bool), ((fin8 (((x0.setWidth 8 <<< 0) ||| bitAt 8 3 x1 ||| (BitVec.ofNat 8 x2.val <<< 4) ||| bitAt 8 7 x3).extractLsb' 4 3))) = x2 := by decide
theorem bits_134 : ∀ (x0 : BitVec 3) (x1 : Bool) (x2 : KReg) (x3 : Bool), (((x0.setWidth 8 <<< 0) ||| bitAt 8 3 x1 ||| (BitVec.ofNat 8 x2.val <<< 4) ||| bitAt 8 7 x3).getLsbD 7) = x3 := by decide
theorem bits_135 : ∀ (x0 : Bool) (x1 : KReg), ((bitAt 8 3 x0 ||| (BitVec.ofNat 8 x1.val <<< 4)) &&& 135#8) = 0#8 := by decide
theorem bits_136 : ∀ (x0 : Bool) (x1 : KReg), ((bitAt 8 3 x0 ||| (BitVec.ofNat 8 x1.val <<< 4)).getLsbD 3) = x0 := by decide
theorem bits_137 : ∀ (x0 : Bool) (x1 : KReg), ((fin8 ((bitAt 8 3 x0 ||| (BitVec.ofNat 8 x1.val <<< 4)).extractLsb' 4 3))) = x1 := by decide
theorem bits_138 : ∀ (x0 : BitVec 6), (codeNeedsV (((0#3 ++ x0)).extractLsb' 0 6)) = codeNeedsV x0 := by decide
theorem bits_139 : ∀ (x0 : BitVec 2), (((0#7 ++ x0)).extractLsb' 0 2) = x0 := by decide
theorem bits_140 : ∀ (x0 : BitVec 2), (((0#7 ++ x0)).extractLsb' 2 7) = 0#7 := by decide
theorem bits_141 : ∀ (x0 : BitVec 2), (((16#7 ++ x0)).extractLsb' 0 2) = x0 := by decide
theorem bits_142 : ∀ (x0 : BitVec 2), (((16#7 ++ x0)).extractLsb' 2 7) = 16#7 := by decide
theorem bits_143 : ∀ (x0 : Bool), ((bitAt 8 0 x0) &&& 0xFE#8) = 0#8 := by decide
theorem bits_144 : ∀ (x0 : BitVec 3) (x1 : Bool) (x2 : KReg), (((x0.setWidth 8 <<< 0) ||| bitAt 8 3 x1 ||| (BitVec.ofNat 8 x2.val <<< 4)) &&& 128#8) = 0#8 := by decide
theorem bits_145 : ∀ (x0 : BitVec 3) (x1 : Bool) (x2 : KReg), (((x0.setWidth 8 <<< 0) ||| bitAt 8 3 x1 ||| (BitVec.ofNat 8 x2.val <<< 4)).extractLsb' 0 3) = x0 := by decide
theorem bits_146 : ∀ (x0 : BitVec 3) (x1 : Bool) (x2 : KReg), (((x0.setWidth 8 <<< 0) ||| bitAt 8 3 x1 ||| (BitVec.ofNat 8 x2.val <<< 4)).getLsbD 3) = x1 := by decide
theorem bits_147 : ∀ (x0 : BitVec 3) (x1 : Bool) (x2 : KReg), ((fin8 (((x0.setWidth 8 <<< 0) ||| bitAt 8 3 x1 ||| (BitVec.ofNat 8 x2.val <<< 4)).extractLsb' 4 3))) = x2 := by decide
theorem bits_148 : ∀ (x0 : BitVec 8) (x1 : Fin 4), (((x0.setWidth 32 <<< 0) ||| (BitVec.ofNat 32 x1.val <<< 8)) &&& 0xFFFFFC00#32) = 0#32 := by decide
theorem bits_149 : ∀ (x0 : BitVec 8) (x1 : Fin 4), (((x0.setWidth 32 <<< 0) ||| (BitVec.ofNat 32 x1.val <<< 8)).extractLsb' 0 8) = x0 := by decide
theorem bits_150 : ∀ (x0 : BitVec 8) (x1 : Fin 4), ((fin4 (((x0.setWidth 32 <<< 0) ||| (BitVec.ofNat 32 x1.val <<< 8)).extractLsb' 8 2))) = x1 := by decide
theorem bits_151 : ∀ (x0 : Fin 4) (x1 : KReg) (x2 : Bool), (((BitVec.ofNat 8 x0.val <<< 0) ||| (BitVec.ofNat 8 x1.val <<< 4) ||| bitAt 8 7 x2) &&& 12#8) = 0#8 := by decide
theorem bits_152 : ∀ (x0 : Fin 4) (x1 : KReg) (x2 : Bool), ((fin4 (((BitVec.ofNat 8 x0.val <<< 0) ||| (BitVec.ofNat 8 x1.val <<< 4) ||| bitAt 8 7 x2).extractLsb' 0 2))) = x0 := by decide
theorem bits_153 : ∀ (x0 : Fin 4) (x1 : KReg) (x2 : Bool), ((fin8 (((BitVec.ofNat 8 x0.val <<< 0) ||| (BitVec.ofNat 8 x1.val <<< 4) ||| bitAt 8 7 x2).extractLsb' 4 3))) = x1 := by decide
theorem bits_154 : ∀ (x0 : Fin 4) (x1 : KReg) (x2 : Bool), (((BitVec.ofNat 8 x0.val <<< 0) ||| (BitVec.ofNat 8 x1.val <<< 4) ||| bitAt 8 7 x2).getLsbD 7) = x2 := by decide
theorem bits_155 : ∀ (x0 : Bool), ((((if x0 then 0x00F#9 else 0x00B#9)) == 0x00F#9)) = x0 := by decide
theorem bits_156 : ∀ (x0 : Bool), (((if x0 then 0x00F#9 else 0x00B#9)) == 0x00B#9) = !x0 := by decide
theorem bits_157 : ∀ (x0 : KReg) (x1 : Bool), (((BitVec.ofNat 8 x0.val <<< 4) ||| bitAt 8 7 x1) &&& 15#8) = 0#8 := by decide
theorem bits_158 : ∀ (x0 : KReg) (x1 : Bool), ((fin8 (((BitVec.ofNat 8 x0.val <<< 4) ||| bitAt 8 7 x1).extractLsb' 4 3))) = x0 := by decide
theorem bits_159 : ∀ (x0 : KReg) (x1 : Bool), (((BitVec.ofNat 8 x0.val <<< 4) ||| bitAt 8 7 x1).getLsbD 7) = x1 := by decide
theorem bits_160 : ∀ (x0 : Fin 4) (x1 : KReg), (((BitVec.ofNat 8 x0.val <<< 0) ||| (BitVec.ofNat 8 x1.val <<< 4)) &&& 140#8) = 0#8 := by decide
theorem bits_161 : ∀ (x0 : Fin 4) (x1 : KReg), ((fin4 (((BitVec.ofNat 8 x0.val <<< 0) ||| (BitVec.ofNat 8 x1.val <<< 4)).extractLsb' 0 2))) = x0 := by decide
theorem bits_162 : ∀ (x0 : Fin 4) (x1 : KReg), ((fin8 (((BitVec.ofNat 8 x0.val <<< 0) ||| (BitVec.ofNat 8 x1.val <<< 4)).extractLsb' 4 3))) = x1 := by decide
theorem bits_163 : ∀ (x0 : Fin 4), (((BitVec.ofNat 8 x0.val <<< 4)) &&& 207#8) = 0#8 := by decide
theorem bits_164 : ∀ (x0 : Fin 4), ((fin4 (((BitVec.ofNat 8 x0.val <<< 4)).extractLsb' 4 2))) = x0 := by decide
theorem bits_165 : ∀ (x0 : Bool), ((((if x0 then 3#9 else 2#9)) == 3#9)) = x0 := by decide
theorem bits_166 : ∀ (x0 : Bool), (((if x0 then 3#9 else 2#9)) == 2#9) = !x0 := by decide
theorem bits_167 : ∀ (x0 : Bool), (((if x0 then 3#9 else 2#9)) == 0#9) = false := by decide
theorem bits_168 : ∀ (x0 : Bool), (((if x0 then 3#9 else 2#9)) == 1#9) = false := by decide
theorem bits_169 : ∀ (x0 : Fin 4) (x1 : Bool), (((BitVec.ofNat 8 x0.val <<< 4) ||| bitAt 8 6 x1) &&& 143#8) = 0#8 := by decide
theorem bits_170 : ∀ (x0 : Fin 4) (x1 : Bool), ((fin4 (((BitVec.ofNat 8 x0.val <<< 4) ||| bitAt 8 6 x1).extractLsb' 4 2))) = x0 := by decide
theorem bits_171 : ∀ (x0 : Fin 4) (x1 : Bool), (((BitVec.ofNat 8 x0.val <<< 4) ||| bitAt 8 6 x1).getLsbD 6) = x1 := by decide
theorem bits_172 : ∀ (x0 : BitVec 20), (((x0.setWidth 32 <<< 0)) &&& 0xFFF00000#32) = 0#32 := by
  intro x0
  apply BitVec.eq_of_getLsbD_eq; intro i hi; interval_cases i <;> simp
theorem bits_173 : ∀ (x0 : BitVec 20), (((x0.setWidth 32 <<< 0)).extractLsb' 0 20) = x0 := by
  intro x0
  apply BitVec.eq_of_getLsbD_eq; intro i hi; interval_cases i <;> simp
theorem bits_174 : ∀ (x0 : Bool), ((((if x0 then 0x00A#9 else 2#9)) == 0x00A#9)) = x0 := by decide
theorem bits_175 : ∀ (x0 : Bool), (((if x0 then 0x00A#9 else 2#9)) == 2#9) = !x0 := by decide
theorem bits_176 : ∀ (x0 : BitVec 3) (x1 : Fin 4), (((x0.setWidth 8 <<< 0) ||| (BitVec.ofNat 8 x1.val <<< 4)) &&& 200#8) = 0#8 := by decide
theorem bits_177 : ∀ (x0 : BitVec 3) (x1 : Fin 4), (((x0.setWidth 8 <<< 0) ||| (BitVec.ofNat 8 x1.val <<< 4)).extractLsb' 0 3) = x0 := by decide
theorem bits_178 : ∀ (x0 : BitVec 3) (x1 : Fin 4), ((fin4 (((x0.setWidth 8 <<< 0) ||| (BitVec.ofNat 8 x1.val <<< 4)).extractLsb' 4 2))) = x1 := by decide
theorem bits_179 : ∀ (x0 : BitVec 8), (((1#1 ++ x0)).extractLsb' 0 8) = x0 := by decide
theorem bits_180 : ∀ (x0 : BitVec 8), (((1#1 ++ x0)).extractLsb' 8 1) = 1#1 := by decide
theorem bits_181 : ∀ (x0 : BitVec 8), (((1#1 ++ x0)) == 0#9) = false := by decide
theorem bits_182 : ∀ (x0 : BitVec 2) (x1 : Fin 4), (((x0.setWidth 8 <<< 0) ||| (BitVec.ofNat 8 x1.val <<< 4)) &&& 204#8) = 0#8 := by decide
theorem bits_183 : ∀ (x0 : BitVec 2) (x1 : Fin 4), (((x0.setWidth 8 <<< 0) ||| (BitVec.ofNat 8 x1.val <<< 4)).extractLsb' 0 2) = x0 := by decide
theorem bits_184 : ∀ (x0 : BitVec 2) (x1 : Fin 4), ((fin4 (((x0.setWidth 8 <<< 0) ||| (BitVec.ofNat 8 x1.val <<< 4)).extractLsb' 4 2))) = x1 := by decide
theorem bits_185 : ∀ (x0 : BitVec 2) (x1 : BitVec 3), zchunkOk x0 x1 = true → (((x1.setWidth 32 <<< 0)) &&& (if x0 == 2#2 then 0xFFFFFFFB#32 else if x0 == 1#2 then 0xFFFFFFF9#32 else 0xFFFFFFF8#32)) = 0#32 := by decide
theorem bits_186 : ∀ (x0 : BitVec 5) (x1 : BitVec 2), (((x0.setWidth 32 <<< 0) ||| (x1.setWidth 32 <<< 5)) &&& 0xFFFFFF80#32) = 0#32 := by decide
theorem bits_187 : ∀ (x0 : BitVec 5) (x1 : BitVec 2), (((x0.setWidth 32 <<< 0) ||| (x1.setWidth 32 <<< 5)).extractLsb' 0 5) = x0 := by decide
theorem bits_188 : ∀ (x0 : BitVec 5) (x1 : BitVec 2), (((x0.setWidth 32 <<< 0) ||| (x1.setWidth 32 <<< 5)).extractLsb' 5 2) = x1 := by decide
theorem bits_189 : ∀ (x0 : Fin 4) (x1 : Bool), (((BitVec.ofNat 8 x0.val <<< 4) ||| bitAt 8 7 x1) &&& 79#8) = 0#8 := by decide
theorem bits_190 : ∀ (x0 : Fin 4) (x1 : Bool), ((fin4 (((BitVec.ofNat 8 x0.val <<< 4) ||| bitAt 8 7 x1).extractLsb' 4 2))) = x0 := by decide
theorem bits_191 : ∀ (x0 : Fin 4) (x1 : Bool), (((BitVec.ofNat 8 x0.val <<< 4) ||| bitAt 8 7 x1).getLsbD 7) = x1 := by decide
theorem bits_192 : ∀ (x0 : Bool), ((bitAt 8 7 x0) &&& 127#8) = 0#8 := by decide
theorem bits_193 : ∀ (x0 : Bool), ((bitAt 8 7 x0).getLsbD 7) = x0 := by decide

end

/-! ## End of bits -/

end Sys2Proof

namespace Sys2Proof.Laws.Fields

/-- The fields that the encoder gives a well-formed instruction select, in the tables, a row that gives the instruction back, and
pass every check of R37. -/
def Statement (i : Instr) : Prop :=
  i.wf = true → ∀ r, encodeRaw i = some r → ∃ q, formOf r r.hdr = some (some q) ∧ checkSel r q = .ok i

end Sys2Proof.Laws.Fields
end

