-- ==== Sys2Proof/Laws/State.lean ====
section
/-! SUPPORT. The small laws of the state: tables keyed by index, and for each update of the state or of a core one lemma per field
that it leaves or writes, all by rfl. -/
namespace Sys2Proof.Machine
open Sys2Proof

section
set_option Elab.async false

/-! ## Tables -/

theorem Tab.get_set_self {α : Type} (d : α) (t : List (Nat × α)) (n : Nat) (x : α) : Tab.get d (Tab.set t n x) n = x := by
  induction t with
  | nil => simp [Tab.set, Tab.get]
  | cons e t ih =>
    obtain ⟨k, y⟩ := e
    simp only [Tab.set]
    split
    · simp [Tab.get]
    · split
      · simp [Tab.get]
      · rename_i h
        simp [Tab.get, Ne.symm h, ih]

theorem Tab.get_set_ne {α : Type} (d : α) (t : List (Nat × α)) (n m : Nat) (x : α) (h : m ≠ n) :
    Tab.get d (Tab.set t n x) m = Tab.get d t m := by
  induction t with
  | nil => simp [Tab.set, Tab.get, Ne.symm h]
  | cons e t ih =>
    obtain ⟨k, y⟩ := e
    simp only [Tab.set]
    split
    · simp [Tab.get, Ne.symm h]
    · split
      · rename_i hk
        subst hk
        simp [Tab.get, Ne.symm h]
      · simp [Tab.get, ih]

theorem Tab.set_set {α : Type} (t : List (Nat × α)) (n : Nat) (x y : α) : Tab.set (Tab.set t n x) n y = Tab.set t n y := by
  induction t with
  | nil => simp [Tab.set]
  | cons e t ih =>
    obtain ⟨k, z⟩ := e
    simp only [Tab.set]
    split
    · simp [Tab.set]
    · split
      · simp [Tab.set]
      · rename_i h1 h2
        simp [Tab.set, h1, h2, ih]

/-! ## Cores, clusters and dies -/

@[simp] theorem State.initCore_setCore (s : State) (n m : Nat) (c : Core) : (s.setCore n c).initCore m = s.initCore m := rfl
@[simp] theorem State.core_setCore (s : State) (n : Nat) (c : Core) : (s.setCore n c).core n = c := Tab.get_set_self _ _ _ _
theorem State.core_setCore_ne (s : State) (n m : Nat) (c : Core) (h : m ≠ n) : (s.setCore n c).core m = s.core m :=
  Tab.get_set_ne _ _ _ _ _ h
@[simp] theorem State.setCore_setCore (s : State) (n : Nat) (c d : Core) : (s.setCore n c).setCore n d = s.setCore n d := by
  simp [State.setCore, Tab.set_set]
@[simp] theorem State.cc_setCc (s : State) (c : Core) : (s.setCc c).cc = c := State.core_setCore _ _ _
@[simp] theorem State.setCc_setCc (s : State) (c d : Core) : (s.setCc c).setCc d = s.setCc d := State.setCore_setCore _ _ _ _
@[simp] theorem State.core_cur_setCc (s : State) (c : Core) : (s.setCc c).core s.cur = c := State.core_setCore _ _ _
@[simp] theorem State.cluster_setCluster (s : State) (n : Nat) (c : Cluster) : (s.setCluster n c).cluster n = c :=
  Tab.get_set_self _ _ _ _
theorem State.cluster_setCluster_ne (s : State) (n m : Nat) (c : Cluster) (h : m ≠ n) :
    (s.setCluster n c).cluster m = s.cluster m := Tab.get_set_ne _ _ _ _ _ h
@[simp] theorem State.setCluster_setCluster (s : State) (n : Nat) (c d : Cluster) :
    (s.setCluster n c).setCluster n d = s.setCluster n d := by simp [State.setCluster, Tab.set_set]
@[simp] theorem State.die_setDie (s : State) (n : Nat) (d : Die) : (s.setDie n d).die n = d := Tab.get_set_self _ _ _ _
theorem State.die_setDie_ne (s : State) (n m : Nat) (d : Die) (h : m ≠ n) : (s.setDie n d).die m = s.die m :=
  Tab.get_set_ne _ _ _ _ _ h
@[simp] theorem State.setDie_setDie (s : State) (n : Nat) (d e : Die) : (s.setDie n d).setDie n e = s.setDie n e := by
  simp [State.setDie, Tab.set_set]
@[simp] theorem State.vd_onVd (s : State) (v : Nat) (f : Vd → Vd) : (s.onVd v f).vd v = f (s.vd v) := Tab.get_set_self _ _ _ _
@[simp] theorem State.part_onPart (s : State) (p : Nat) (f : Part → Part) : (s.onPart p f).part p = f (s.part p) :=
  Tab.get_set_self _ _ _ _

/-! ## Fields of the state after an update -/

@[simp] theorem State.setCore_cur (s : State) (n : Nat) (c : Core) : (s.setCore n c).cur = s.cur := rfl
@[simp] theorem State.setCore_agenda (s : State) (n : Nat) (c : Core) : (s.setCore n c).agenda = s.agenda := rfl
@[simp] theorem State.setCore_pending (s : State) (n : Nat) (c : Core) : (s.setCore n c).pending = s.pending := rfl
@[simp] theorem State.setCore_draws (s : State) (n : Nat) (c : Core) : (s.setCore n c).draws = s.draws := rfl
@[simp] theorem State.setCore_clk (s : State) (n : Nat) (c : Core) : (s.setCore n c).clk = s.clk := rfl
@[simp] theorem State.setCore_clusters (s : State) (n : Nat) (c : Core) : (s.setCore n c).clusters = s.clusters := rfl
@[simp] theorem State.setCore_dies (s : State) (n : Nat) (c : Core) : (s.setCore n c).dies = s.dies := rfl
@[simp] theorem State.setCore_hbm (s : State) (n : Nat) (c : Core) : (s.setCore n c).hbm = s.hbm := rfl
@[simp] theorem State.setCore_hbmBad (s : State) (n : Nat) (c : Core) : (s.setCore n c).hbmBad = s.hbmBad := rfl
@[simp] theorem State.setCore_fabric (s : State) (n : Nat) (c : Core) : (s.setCore n c).fabric = s.fabric := rfl
@[simp] theorem State.setCore_homes (s : State) (n : Nat) (c : Core) : (s.setCore n c).homes = s.homes := rfl
@[simp] theorem State.setCore_floor (s : State) (n : Nat) (c : Core) : (s.setCore n c).floor = s.floor := rfl
@[simp] theorem State.setCore_ticks (s : State) (n : Nat) (c : Core) : (s.setCore n c).ticks = s.ticks := rfl
@[simp] theorem State.setCore_tickMax (s : State) (n : Nat) (c : Core) : (s.setCore n c).tickMax = s.tickMax := rfl
@[simp] theorem State.setCore_run (s : State) (n : Nat) (c : Core) : (s.setCore n c).run = s.run := rfl
@[simp] theorem State.setCore_dieMap (s : State) (n : Nat) (c : Core) : (s.setCore n c).dieMap = s.dieMap := rfl
@[simp] theorem State.setCore_serverMask (s : State) (n : Nat) (c : Core) : (s.setCore n c).serverMask = s.serverMask := rfl
@[simp] theorem State.setCore_reports (s : State) (n : Nat) (c : Core) : (s.setCore n c).reports = s.reports := rfl
@[simp] theorem State.setCore_net (s : State) (n : Nat) (c : Core) : (s.setCore n c).net = s.net := rfl
@[simp] theorem State.setCore_nextId (s : State) (n : Nat) (c : Core) : (s.setCore n c).nextId = s.nextId := rfl
@[simp] theorem State.setCore_parts (s : State) (n : Nat) (c : Core) : (s.setCore n c).parts = s.parts := rfl
@[simp] theorem State.setCore_vds (s : State) (n : Nat) (c : Core) : (s.setCore n c).vds = s.vds := rfl
@[simp] theorem State.setCore_sumPairs (s : State) (n : Nat) (c : Core) : (s.setCore n c).sumPairs = s.sumPairs := rfl
@[simp] theorem State.setCore_flash (s : State) (n : Nat) (c : Core) : (s.setCore n c).flash = s.flash := rfl
@[simp] theorem State.setCore_scores (s : State) (n : Nat) (c : Core) : (s.setCore n c).scores = s.scores := rfl
@[simp] theorem State.setCore_assign (s : State) (n : Nat) (c : Core) : (s.setCore n c).assign = s.assign := rfl
@[simp] theorem State.setCore_queues (s : State) (n : Nat) (c : Core) : (s.setCore n c).queues = s.queues := rfl
@[simp] theorem State.setCore_launches (s : State) (n : Nat) (c : Core) : (s.setCore n c).launches = s.launches := rfl
@[simp] theorem State.setCore_audits (s : State) (n : Nat) (c : Core) : (s.setCore n c).audits = s.audits := rfl
@[simp] theorem State.setCore_charges (s : State) (n : Nat) (c : Core) : (s.setCore n c).charges = s.charges := rfl
@[simp] theorem State.setCore_drains (s : State) (n : Nat) (c : Core) : (s.setCore n c).drains = s.drains := rfl
@[simp] theorem State.setCore_tainted (s : State) (n : Nat) (c : Core) : (s.setCore n c).tainted = s.tainted := rfl
@[simp] theorem State.setCore_images (s : State) (n : Nat) (c : Core) : (s.setCore n c).images = s.images := rfl
@[simp] theorem State.setCore_held (s : State) (n : Nat) (c : Core) : (s.setCore n c).held = s.held := rfl
@[simp] theorem State.setCore_homeBase (s : State) (n : Nat) (c : Core) : (s.setCore n c).homeBase = s.homeBase := rfl
@[simp] theorem State.setCore_recent (s : State) (n : Nat) (c : Core) : (s.setCore n c).recent = s.recent := rfl
@[simp] theorem State.setCore_ownCode (s : State) (n : Nat) (c : Core) : (s.setCore n c).ownCode = s.ownCode := rfl
@[simp] theorem State.setCore_fenced (s : State) (n : Nat) (c : Core) : (s.setCore n c).fenced = s.fenced := rfl
@[simp] theorem State.setCore_fdrop (s : State) (n : Nat) (c : Core) : (s.setCore n c).fdrop = s.fdrop := rfl
@[simp] theorem State.setCore_spare (s : State) (n : Nat) (c : Core) : (s.setCore n c).spare = s.spare := rfl
@[simp] theorem State.setCore_takeover (s : State) (n : Nat) (c : Core) : (s.setCore n c).takeover = s.takeover := rfl
@[simp] theorem State.setCore_links (s : State) (n : Nat) (c : Core) : (s.setCore n c).links = s.links := rfl
@[simp] theorem State.setCore_avoided (s : State) (n : Nat) (c : Core) : (s.setCore n c).avoided = s.avoided := rfl
@[simp] theorem State.setCore_sp (s : State) (n : Nat) (c : Core) : (s.setCore n c).sp = s.sp := rfl
@[simp] theorem State.setCore_ports (s : State) (n : Nat) (c : Core) : (s.setCore n c).ports = s.ports := rfl
@[simp] theorem State.setCore_capped (s : State) (n : Nat) (c : Core) : (s.setCore n c).capped = s.capped := rfl
@[simp] theorem State.setCc_cur (s : State) (c : Core) : (s.setCc c).cur = s.cur := rfl
@[simp] theorem State.setCc_agenda (s : State) (c : Core) : (s.setCc c).agenda = s.agenda := rfl
@[simp] theorem State.setCc_pending (s : State) (c : Core) : (s.setCc c).pending = s.pending := rfl
@[simp] theorem State.setCc_draws (s : State) (c : Core) : (s.setCc c).draws = s.draws := rfl
@[simp] theorem State.setCc_clk (s : State) (c : Core) : (s.setCc c).clk = s.clk := rfl
@[simp] theorem State.setCc_clusters (s : State) (c : Core) : (s.setCc c).clusters = s.clusters := rfl
@[simp] theorem State.setCc_dies (s : State) (c : Core) : (s.setCc c).dies = s.dies := rfl
@[simp] theorem State.setCc_hbm (s : State) (c : Core) : (s.setCc c).hbm = s.hbm := rfl
@[simp] theorem State.setCc_hbmBad (s : State) (c : Core) : (s.setCc c).hbmBad = s.hbmBad := rfl
@[simp] theorem State.setCc_fabric (s : State) (c : Core) : (s.setCc c).fabric = s.fabric := rfl
@[simp] theorem State.setCc_homes (s : State) (c : Core) : (s.setCc c).homes = s.homes := rfl
@[simp] theorem State.setCc_floor (s : State) (c : Core) : (s.setCc c).floor = s.floor := rfl
@[simp] theorem State.setCc_ticks (s : State) (c : Core) : (s.setCc c).ticks = s.ticks := rfl
@[simp] theorem State.setCc_tickMax (s : State) (c : Core) : (s.setCc c).tickMax = s.tickMax := rfl
@[simp] theorem State.setCc_run (s : State) (c : Core) : (s.setCc c).run = s.run := rfl
@[simp] theorem State.setCc_dieMap (s : State) (c : Core) : (s.setCc c).dieMap = s.dieMap := rfl
@[simp] theorem State.setCc_serverMask (s : State) (c : Core) : (s.setCc c).serverMask = s.serverMask := rfl
@[simp] theorem State.setCc_reports (s : State) (c : Core) : (s.setCc c).reports = s.reports := rfl
@[simp] theorem State.setCc_net (s : State) (c : Core) : (s.setCc c).net = s.net := rfl
@[simp] theorem State.setCc_nextId (s : State) (c : Core) : (s.setCc c).nextId = s.nextId := rfl
@[simp] theorem State.setCc_parts (s : State) (c : Core) : (s.setCc c).parts = s.parts := rfl
@[simp] theorem State.setCc_vds (s : State) (c : Core) : (s.setCc c).vds = s.vds := rfl
@[simp] theorem State.setCc_sumPairs (s : State) (c : Core) : (s.setCc c).sumPairs = s.sumPairs := rfl
@[simp] theorem State.setCc_flash (s : State) (c : Core) : (s.setCc c).flash = s.flash := rfl
@[simp] theorem State.setCc_scores (s : State) (c : Core) : (s.setCc c).scores = s.scores := rfl
@[simp] theorem State.setCc_assign (s : State) (c : Core) : (s.setCc c).assign = s.assign := rfl
@[simp] theorem State.setCc_queues (s : State) (c : Core) : (s.setCc c).queues = s.queues := rfl
@[simp] theorem State.setCc_launches (s : State) (c : Core) : (s.setCc c).launches = s.launches := rfl
@[simp] theorem State.setCc_audits (s : State) (c : Core) : (s.setCc c).audits = s.audits := rfl
@[simp] theorem State.setCc_charges (s : State) (c : Core) : (s.setCc c).charges = s.charges := rfl
@[simp] theorem State.setCc_drains (s : State) (c : Core) : (s.setCc c).drains = s.drains := rfl
@[simp] theorem State.setCc_tainted (s : State) (c : Core) : (s.setCc c).tainted = s.tainted := rfl
@[simp] theorem State.setCc_images (s : State) (c : Core) : (s.setCc c).images = s.images := rfl
@[simp] theorem State.setCc_held (s : State) (c : Core) : (s.setCc c).held = s.held := rfl
@[simp] theorem State.setCc_homeBase (s : State) (c : Core) : (s.setCc c).homeBase = s.homeBase := rfl
@[simp] theorem State.setCc_recent (s : State) (c : Core) : (s.setCc c).recent = s.recent := rfl
@[simp] theorem State.setCc_ownCode (s : State) (c : Core) : (s.setCc c).ownCode = s.ownCode := rfl
@[simp] theorem State.setCc_fenced (s : State) (c : Core) : (s.setCc c).fenced = s.fenced := rfl
@[simp] theorem State.setCc_fdrop (s : State) (c : Core) : (s.setCc c).fdrop = s.fdrop := rfl
@[simp] theorem State.setCc_spare (s : State) (c : Core) : (s.setCc c).spare = s.spare := rfl
@[simp] theorem State.setCc_takeover (s : State) (c : Core) : (s.setCc c).takeover = s.takeover := rfl
@[simp] theorem State.setCc_links (s : State) (c : Core) : (s.setCc c).links = s.links := rfl
@[simp] theorem State.setCc_avoided (s : State) (c : Core) : (s.setCc c).avoided = s.avoided := rfl
@[simp] theorem State.setCc_sp (s : State) (c : Core) : (s.setCc c).sp = s.sp := rfl
@[simp] theorem State.setCc_ports (s : State) (c : Core) : (s.setCc c).ports = s.ports := rfl
@[simp] theorem State.setCc_capped (s : State) (c : Core) : (s.setCc c).capped = s.capped := rfl
@[simp] theorem State.setCluster_cur (s : State) (n : Nat) (c : Cluster) : (s.setCluster n c).cur = s.cur := rfl
@[simp] theorem State.setCluster_agenda (s : State) (n : Nat) (c : Cluster) : (s.setCluster n c).agenda = s.agenda := rfl
@[simp] theorem State.setCluster_pending (s : State) (n : Nat) (c : Cluster) : (s.setCluster n c).pending = s.pending := rfl
@[simp] theorem State.setCluster_draws (s : State) (n : Nat) (c : Cluster) : (s.setCluster n c).draws = s.draws := rfl
@[simp] theorem State.setCluster_clk (s : State) (n : Nat) (c : Cluster) : (s.setCluster n c).clk = s.clk := rfl
@[simp] theorem State.setCluster_cores (s : State) (n : Nat) (c : Cluster) : (s.setCluster n c).cores = s.cores := rfl
@[simp] theorem State.setCluster_dies (s : State) (n : Nat) (c : Cluster) : (s.setCluster n c).dies = s.dies := rfl
@[simp] theorem State.setCluster_hbm (s : State) (n : Nat) (c : Cluster) : (s.setCluster n c).hbm = s.hbm := rfl
@[simp] theorem State.setCluster_hbmBad (s : State) (n : Nat) (c : Cluster) : (s.setCluster n c).hbmBad = s.hbmBad := rfl
@[simp] theorem State.setCluster_fabric (s : State) (n : Nat) (c : Cluster) : (s.setCluster n c).fabric = s.fabric := rfl
@[simp] theorem State.setCluster_homes (s : State) (n : Nat) (c : Cluster) : (s.setCluster n c).homes = s.homes := rfl
@[simp] theorem State.setCluster_floor (s : State) (n : Nat) (c : Cluster) : (s.setCluster n c).floor = s.floor := rfl
@[simp] theorem State.setCluster_ticks (s : State) (n : Nat) (c : Cluster) : (s.setCluster n c).ticks = s.ticks := rfl
@[simp] theorem State.setCluster_tickMax (s : State) (n : Nat) (c : Cluster) : (s.setCluster n c).tickMax = s.tickMax := rfl
@[simp] theorem State.setCluster_run (s : State) (n : Nat) (c : Cluster) : (s.setCluster n c).run = s.run := rfl
@[simp] theorem State.setCluster_dieMap (s : State) (n : Nat) (c : Cluster) : (s.setCluster n c).dieMap = s.dieMap := rfl
@[simp] theorem State.setCluster_serverMask (s : State) (n : Nat) (c : Cluster) : (s.setCluster n c).serverMask = s.serverMask := rfl
@[simp] theorem State.setCluster_reports (s : State) (n : Nat) (c : Cluster) : (s.setCluster n c).reports = s.reports := rfl
@[simp] theorem State.setCluster_net (s : State) (n : Nat) (c : Cluster) : (s.setCluster n c).net = s.net := rfl
@[simp] theorem State.setCluster_nextId (s : State) (n : Nat) (c : Cluster) : (s.setCluster n c).nextId = s.nextId := rfl
@[simp] theorem State.setCluster_parts (s : State) (n : Nat) (c : Cluster) : (s.setCluster n c).parts = s.parts := rfl
@[simp] theorem State.setCluster_vds (s : State) (n : Nat) (c : Cluster) : (s.setCluster n c).vds = s.vds := rfl
@[simp] theorem State.setCluster_sumPairs (s : State) (n : Nat) (c : Cluster) : (s.setCluster n c).sumPairs = s.sumPairs := rfl
@[simp] theorem State.setCluster_flash (s : State) (n : Nat) (c : Cluster) : (s.setCluster n c).flash = s.flash := rfl
@[simp] theorem State.setCluster_scores (s : State) (n : Nat) (c : Cluster) : (s.setCluster n c).scores = s.scores := rfl
@[simp] theorem State.setCluster_assign (s : State) (n : Nat) (c : Cluster) : (s.setCluster n c).assign = s.assign := rfl
@[simp] theorem State.setCluster_queues (s : State) (n : Nat) (c : Cluster) : (s.setCluster n c).queues = s.queues := rfl
@[simp] theorem State.setCluster_launches (s : State) (n : Nat) (c : Cluster) : (s.setCluster n c).launches = s.launches := rfl
@[simp] theorem State.setCluster_audits (s : State) (n : Nat) (c : Cluster) : (s.setCluster n c).audits = s.audits := rfl
@[simp] theorem State.setCluster_charges (s : State) (n : Nat) (c : Cluster) : (s.setCluster n c).charges = s.charges := rfl
@[simp] theorem State.setCluster_drains (s : State) (n : Nat) (c : Cluster) : (s.setCluster n c).drains = s.drains := rfl
@[simp] theorem State.setCluster_tainted (s : State) (n : Nat) (c : Cluster) : (s.setCluster n c).tainted = s.tainted := rfl
@[simp] theorem State.setCluster_images (s : State) (n : Nat) (c : Cluster) : (s.setCluster n c).images = s.images := rfl
@[simp] theorem State.setCluster_held (s : State) (n : Nat) (c : Cluster) : (s.setCluster n c).held = s.held := rfl
@[simp] theorem State.setCluster_homeBase (s : State) (n : Nat) (c : Cluster) : (s.setCluster n c).homeBase = s.homeBase := rfl
@[simp] theorem State.setCluster_recent (s : State) (n : Nat) (c : Cluster) : (s.setCluster n c).recent = s.recent := rfl
@[simp] theorem State.setCluster_ownCode (s : State) (n : Nat) (c : Cluster) : (s.setCluster n c).ownCode = s.ownCode := rfl
@[simp] theorem State.setCluster_fenced (s : State) (n : Nat) (c : Cluster) : (s.setCluster n c).fenced = s.fenced := rfl
@[simp] theorem State.setCluster_fdrop (s : State) (n : Nat) (c : Cluster) : (s.setCluster n c).fdrop = s.fdrop := rfl
@[simp] theorem State.setCluster_spare (s : State) (n : Nat) (c : Cluster) : (s.setCluster n c).spare = s.spare := rfl
@[simp] theorem State.setCluster_takeover (s : State) (n : Nat) (c : Cluster) : (s.setCluster n c).takeover = s.takeover := rfl
@[simp] theorem State.setCluster_links (s : State) (n : Nat) (c : Cluster) : (s.setCluster n c).links = s.links := rfl
@[simp] theorem State.setCluster_avoided (s : State) (n : Nat) (c : Cluster) : (s.setCluster n c).avoided = s.avoided := rfl
@[simp] theorem State.setCluster_sp (s : State) (n : Nat) (c : Cluster) : (s.setCluster n c).sp = s.sp := rfl
@[simp] theorem State.setCluster_ports (s : State) (n : Nat) (c : Cluster) : (s.setCluster n c).ports = s.ports := rfl
@[simp] theorem State.setCluster_capped (s : State) (n : Nat) (c : Cluster) : (s.setCluster n c).capped = s.capped := rfl
@[simp] theorem State.setDie_cur (s : State) (n : Nat) (d : Die) : (s.setDie n d).cur = s.cur := rfl
@[simp] theorem State.setDie_agenda (s : State) (n : Nat) (d : Die) : (s.setDie n d).agenda = s.agenda := rfl
@[simp] theorem State.setDie_pending (s : State) (n : Nat) (d : Die) : (s.setDie n d).pending = s.pending := rfl
@[simp] theorem State.setDie_draws (s : State) (n : Nat) (d : Die) : (s.setDie n d).draws = s.draws := rfl
@[simp] theorem State.setDie_clk (s : State) (n : Nat) (d : Die) : (s.setDie n d).clk = s.clk := rfl
@[simp] theorem State.setDie_cores (s : State) (n : Nat) (d : Die) : (s.setDie n d).cores = s.cores := rfl
@[simp] theorem State.setDie_clusters (s : State) (n : Nat) (d : Die) : (s.setDie n d).clusters = s.clusters := rfl
@[simp] theorem State.setDie_hbm (s : State) (n : Nat) (d : Die) : (s.setDie n d).hbm = s.hbm := rfl
@[simp] theorem State.setDie_hbmBad (s : State) (n : Nat) (d : Die) : (s.setDie n d).hbmBad = s.hbmBad := rfl
@[simp] theorem State.setDie_fabric (s : State) (n : Nat) (d : Die) : (s.setDie n d).fabric = s.fabric := rfl
@[simp] theorem State.setDie_homes (s : State) (n : Nat) (d : Die) : (s.setDie n d).homes = s.homes := rfl
@[simp] theorem State.setDie_floor (s : State) (n : Nat) (d : Die) : (s.setDie n d).floor = s.floor := rfl
@[simp] theorem State.setDie_ticks (s : State) (n : Nat) (d : Die) : (s.setDie n d).ticks = s.ticks := rfl
@[simp] theorem State.setDie_tickMax (s : State) (n : Nat) (d : Die) : (s.setDie n d).tickMax = s.tickMax := rfl
@[simp] theorem State.setDie_run (s : State) (n : Nat) (d : Die) : (s.setDie n d).run = s.run := rfl
@[simp] theorem State.setDie_dieMap (s : State) (n : Nat) (d : Die) : (s.setDie n d).dieMap = s.dieMap := rfl
@[simp] theorem State.setDie_serverMask (s : State) (n : Nat) (d : Die) : (s.setDie n d).serverMask = s.serverMask := rfl
@[simp] theorem State.setDie_reports (s : State) (n : Nat) (d : Die) : (s.setDie n d).reports = s.reports := rfl
@[simp] theorem State.setDie_net (s : State) (n : Nat) (d : Die) : (s.setDie n d).net = s.net := rfl
@[simp] theorem State.setDie_nextId (s : State) (n : Nat) (d : Die) : (s.setDie n d).nextId = s.nextId := rfl
@[simp] theorem State.setDie_parts (s : State) (n : Nat) (d : Die) : (s.setDie n d).parts = s.parts := rfl
@[simp] theorem State.setDie_vds (s : State) (n : Nat) (d : Die) : (s.setDie n d).vds = s.vds := rfl
@[simp] theorem State.setDie_sumPairs (s : State) (n : Nat) (d : Die) : (s.setDie n d).sumPairs = s.sumPairs := rfl
@[simp] theorem State.setDie_flash (s : State) (n : Nat) (d : Die) : (s.setDie n d).flash = s.flash := rfl
@[simp] theorem State.setDie_scores (s : State) (n : Nat) (d : Die) : (s.setDie n d).scores = s.scores := rfl
@[simp] theorem State.setDie_assign (s : State) (n : Nat) (d : Die) : (s.setDie n d).assign = s.assign := rfl
@[simp] theorem State.setDie_queues (s : State) (n : Nat) (d : Die) : (s.setDie n d).queues = s.queues := rfl
@[simp] theorem State.setDie_launches (s : State) (n : Nat) (d : Die) : (s.setDie n d).launches = s.launches := rfl
@[simp] theorem State.setDie_audits (s : State) (n : Nat) (d : Die) : (s.setDie n d).audits = s.audits := rfl
@[simp] theorem State.setDie_charges (s : State) (n : Nat) (d : Die) : (s.setDie n d).charges = s.charges := rfl
@[simp] theorem State.setDie_drains (s : State) (n : Nat) (d : Die) : (s.setDie n d).drains = s.drains := rfl
@[simp] theorem State.setDie_tainted (s : State) (n : Nat) (d : Die) : (s.setDie n d).tainted = s.tainted := rfl
@[simp] theorem State.setDie_images (s : State) (n : Nat) (d : Die) : (s.setDie n d).images = s.images := rfl
@[simp] theorem State.setDie_held (s : State) (n : Nat) (d : Die) : (s.setDie n d).held = s.held := rfl
@[simp] theorem State.setDie_homeBase (s : State) (n : Nat) (d : Die) : (s.setDie n d).homeBase = s.homeBase := rfl
@[simp] theorem State.setDie_recent (s : State) (n : Nat) (d : Die) : (s.setDie n d).recent = s.recent := rfl
@[simp] theorem State.setDie_ownCode (s : State) (n : Nat) (d : Die) : (s.setDie n d).ownCode = s.ownCode := rfl
@[simp] theorem State.setDie_fenced (s : State) (n : Nat) (d : Die) : (s.setDie n d).fenced = s.fenced := rfl
@[simp] theorem State.setDie_fdrop (s : State) (n : Nat) (d : Die) : (s.setDie n d).fdrop = s.fdrop := rfl
@[simp] theorem State.setDie_spare (s : State) (n : Nat) (d : Die) : (s.setDie n d).spare = s.spare := rfl
@[simp] theorem State.setDie_takeover (s : State) (n : Nat) (d : Die) : (s.setDie n d).takeover = s.takeover := rfl
@[simp] theorem State.setDie_links (s : State) (n : Nat) (d : Die) : (s.setDie n d).links = s.links := rfl
@[simp] theorem State.setDie_avoided (s : State) (n : Nat) (d : Die) : (s.setDie n d).avoided = s.avoided := rfl
@[simp] theorem State.setDie_sp (s : State) (n : Nat) (d : Die) : (s.setDie n d).sp = s.sp := rfl
@[simp] theorem State.setDie_ports (s : State) (n : Nat) (d : Die) : (s.setDie n d).ports = s.ports := rfl
@[simp] theorem State.setDie_capped (s : State) (n : Nat) (d : Die) : (s.setDie n d).capped = s.capped := rfl
@[simp] theorem State.owe_cur (s : State) (i : Instr) : (s.owe i).cur = s.cur := rfl
@[simp] theorem State.owe_agenda (s : State) (i : Instr) : (s.owe i).agenda = s.agenda := rfl
@[simp] theorem State.owe_draws (s : State) (i : Instr) : (s.owe i).draws = s.draws := rfl
@[simp] theorem State.owe_clk (s : State) (i : Instr) : (s.owe i).clk = s.clk := rfl
@[simp] theorem State.owe_cores (s : State) (i : Instr) : (s.owe i).cores = s.cores := rfl
@[simp] theorem State.owe_clusters (s : State) (i : Instr) : (s.owe i).clusters = s.clusters := rfl
@[simp] theorem State.owe_dies (s : State) (i : Instr) : (s.owe i).dies = s.dies := rfl
@[simp] theorem State.owe_hbm (s : State) (i : Instr) : (s.owe i).hbm = s.hbm := rfl
@[simp] theorem State.owe_hbmBad (s : State) (i : Instr) : (s.owe i).hbmBad = s.hbmBad := rfl
@[simp] theorem State.owe_fabric (s : State) (i : Instr) : (s.owe i).fabric = s.fabric := rfl
@[simp] theorem State.owe_homes (s : State) (i : Instr) : (s.owe i).homes = s.homes := rfl
@[simp] theorem State.owe_floor (s : State) (i : Instr) : (s.owe i).floor = s.floor := rfl
@[simp] theorem State.owe_ticks (s : State) (i : Instr) : (s.owe i).ticks = s.ticks := rfl
@[simp] theorem State.owe_tickMax (s : State) (i : Instr) : (s.owe i).tickMax = s.tickMax := rfl
@[simp] theorem State.owe_run (s : State) (i : Instr) : (s.owe i).run = s.run := rfl
@[simp] theorem State.owe_dieMap (s : State) (i : Instr) : (s.owe i).dieMap = s.dieMap := rfl
@[simp] theorem State.owe_serverMask (s : State) (i : Instr) : (s.owe i).serverMask = s.serverMask := rfl
@[simp] theorem State.owe_reports (s : State) (i : Instr) : (s.owe i).reports = s.reports := rfl
@[simp] theorem State.owe_net (s : State) (i : Instr) : (s.owe i).net = s.net := rfl
@[simp] theorem State.owe_nextId (s : State) (i : Instr) : (s.owe i).nextId = s.nextId := rfl
@[simp] theorem State.owe_parts (s : State) (i : Instr) : (s.owe i).parts = s.parts := rfl
@[simp] theorem State.owe_vds (s : State) (i : Instr) : (s.owe i).vds = s.vds := rfl
@[simp] theorem State.owe_sumPairs (s : State) (i : Instr) : (s.owe i).sumPairs = s.sumPairs := rfl
@[simp] theorem State.owe_flash (s : State) (i : Instr) : (s.owe i).flash = s.flash := rfl
@[simp] theorem State.owe_scores (s : State) (i : Instr) : (s.owe i).scores = s.scores := rfl
@[simp] theorem State.owe_assign (s : State) (i : Instr) : (s.owe i).assign = s.assign := rfl
@[simp] theorem State.owe_queues (s : State) (i : Instr) : (s.owe i).queues = s.queues := rfl
@[simp] theorem State.owe_launches (s : State) (i : Instr) : (s.owe i).launches = s.launches := rfl
@[simp] theorem State.owe_audits (s : State) (i : Instr) : (s.owe i).audits = s.audits := rfl
@[simp] theorem State.owe_charges (s : State) (i : Instr) : (s.owe i).charges = s.charges := rfl
@[simp] theorem State.owe_drains (s : State) (i : Instr) : (s.owe i).drains = s.drains := rfl
@[simp] theorem State.owe_tainted (s : State) (i : Instr) : (s.owe i).tainted = s.tainted := rfl
@[simp] theorem State.owe_images (s : State) (i : Instr) : (s.owe i).images = s.images := rfl
@[simp] theorem State.owe_held (s : State) (i : Instr) : (s.owe i).held = s.held := rfl
@[simp] theorem State.owe_homeBase (s : State) (i : Instr) : (s.owe i).homeBase = s.homeBase := rfl
@[simp] theorem State.owe_recent (s : State) (i : Instr) : (s.owe i).recent = s.recent := rfl
@[simp] theorem State.owe_ownCode (s : State) (i : Instr) : (s.owe i).ownCode = s.ownCode := rfl
@[simp] theorem State.owe_fenced (s : State) (i : Instr) : (s.owe i).fenced = s.fenced := rfl
@[simp] theorem State.owe_fdrop (s : State) (i : Instr) : (s.owe i).fdrop = s.fdrop := rfl
@[simp] theorem State.owe_spare (s : State) (i : Instr) : (s.owe i).spare = s.spare := rfl
@[simp] theorem State.owe_takeover (s : State) (i : Instr) : (s.owe i).takeover = s.takeover := rfl
@[simp] theorem State.owe_links (s : State) (i : Instr) : (s.owe i).links = s.links := rfl
@[simp] theorem State.owe_avoided (s : State) (i : Instr) : (s.owe i).avoided = s.avoided := rfl
@[simp] theorem State.owe_sp (s : State) (i : Instr) : (s.owe i).sp = s.sp := rfl
@[simp] theorem State.owe_ports (s : State) (i : Instr) : (s.owe i).ports = s.ports := rfl
@[simp] theorem State.owe_capped (s : State) (i : Instr) : (s.owe i).capped = s.capped := rfl
@[simp] theorem State.report_cur (s : State) (r : Report) : (s.report r).cur = s.cur := rfl
@[simp] theorem State.report_agenda (s : State) (r : Report) : (s.report r).agenda = s.agenda := rfl
@[simp] theorem State.report_pending (s : State) (r : Report) : (s.report r).pending = s.pending := rfl
@[simp] theorem State.report_draws (s : State) (r : Report) : (s.report r).draws = s.draws := rfl
@[simp] theorem State.report_clk (s : State) (r : Report) : (s.report r).clk = s.clk := rfl
@[simp] theorem State.report_cores (s : State) (r : Report) : (s.report r).cores = s.cores := rfl
@[simp] theorem State.report_clusters (s : State) (r : Report) : (s.report r).clusters = s.clusters := rfl
@[simp] theorem State.report_dies (s : State) (r : Report) : (s.report r).dies = s.dies := rfl
@[simp] theorem State.report_hbm (s : State) (r : Report) : (s.report r).hbm = s.hbm := rfl
@[simp] theorem State.report_hbmBad (s : State) (r : Report) : (s.report r).hbmBad = s.hbmBad := rfl
@[simp] theorem State.report_fabric (s : State) (r : Report) : (s.report r).fabric = s.fabric := rfl
@[simp] theorem State.report_homes (s : State) (r : Report) : (s.report r).homes = s.homes := rfl
@[simp] theorem State.report_floor (s : State) (r : Report) : (s.report r).floor = s.floor := rfl
@[simp] theorem State.report_ticks (s : State) (r : Report) : (s.report r).ticks = s.ticks := rfl
@[simp] theorem State.report_tickMax (s : State) (r : Report) : (s.report r).tickMax = s.tickMax := rfl
@[simp] theorem State.report_run (s : State) (r : Report) : (s.report r).run = s.run := rfl
@[simp] theorem State.report_dieMap (s : State) (r : Report) : (s.report r).dieMap = s.dieMap := rfl
@[simp] theorem State.report_serverMask (s : State) (r : Report) : (s.report r).serverMask = s.serverMask := rfl
@[simp] theorem State.report_net (s : State) (r : Report) : (s.report r).net = s.net := rfl
@[simp] theorem State.report_nextId (s : State) (r : Report) : (s.report r).nextId = s.nextId := rfl
@[simp] theorem State.report_parts (s : State) (r : Report) : (s.report r).parts = s.parts := rfl
@[simp] theorem State.report_vds (s : State) (r : Report) : (s.report r).vds = s.vds := rfl
@[simp] theorem State.report_sumPairs (s : State) (r : Report) : (s.report r).sumPairs = s.sumPairs := rfl
@[simp] theorem State.report_flash (s : State) (r : Report) : (s.report r).flash = s.flash := rfl
@[simp] theorem State.report_scores (s : State) (r : Report) : (s.report r).scores = s.scores := rfl
@[simp] theorem State.report_assign (s : State) (r : Report) : (s.report r).assign = s.assign := rfl
@[simp] theorem State.report_queues (s : State) (r : Report) : (s.report r).queues = s.queues := rfl
@[simp] theorem State.report_launches (s : State) (r : Report) : (s.report r).launches = s.launches := rfl
@[simp] theorem State.report_audits (s : State) (r : Report) : (s.report r).audits = s.audits := rfl
@[simp] theorem State.report_charges (s : State) (r : Report) : (s.report r).charges = s.charges := rfl
@[simp] theorem State.report_drains (s : State) (r : Report) : (s.report r).drains = s.drains := rfl
@[simp] theorem State.report_tainted (s : State) (r : Report) : (s.report r).tainted = s.tainted := rfl
@[simp] theorem State.report_images (s : State) (r : Report) : (s.report r).images = s.images := rfl
@[simp] theorem State.report_held (s : State) (r : Report) : (s.report r).held = s.held := rfl
@[simp] theorem State.report_homeBase (s : State) (r : Report) : (s.report r).homeBase = s.homeBase := rfl
@[simp] theorem State.report_recent (s : State) (r : Report) : (s.report r).recent = s.recent := rfl
@[simp] theorem State.report_ownCode (s : State) (r : Report) : (s.report r).ownCode = s.ownCode := rfl
@[simp] theorem State.report_fenced (s : State) (r : Report) : (s.report r).fenced = s.fenced := rfl
@[simp] theorem State.report_fdrop (s : State) (r : Report) : (s.report r).fdrop = s.fdrop := rfl
@[simp] theorem State.report_spare (s : State) (r : Report) : (s.report r).spare = s.spare := rfl
@[simp] theorem State.report_takeover (s : State) (r : Report) : (s.report r).takeover = s.takeover := rfl
@[simp] theorem State.report_links (s : State) (r : Report) : (s.report r).links = s.links := rfl
@[simp] theorem State.report_avoided (s : State) (r : Report) : (s.report r).avoided = s.avoided := rfl
@[simp] theorem State.report_sp (s : State) (r : Report) : (s.report r).sp = s.sp := rfl
@[simp] theorem State.report_ports (s : State) (r : Report) : (s.report r).ports = s.ports := rfl
@[simp] theorem State.report_capped (s : State) (r : Report) : (s.report r).capped = s.capped := rfl
@[simp] theorem State.setHome_cur (s : State) (k : HomeId) (x : Nat × Nat) : (s.setHome k x).cur = s.cur := rfl
@[simp] theorem State.setHome_agenda (s : State) (k : HomeId) (x : Nat × Nat) : (s.setHome k x).agenda = s.agenda := rfl
@[simp] theorem State.setHome_pending (s : State) (k : HomeId) (x : Nat × Nat) : (s.setHome k x).pending = s.pending := rfl
@[simp] theorem State.setHome_draws (s : State) (k : HomeId) (x : Nat × Nat) : (s.setHome k x).draws = s.draws := rfl
@[simp] theorem State.setHome_clk (s : State) (k : HomeId) (x : Nat × Nat) : (s.setHome k x).clk = s.clk := rfl
@[simp] theorem State.setHome_cores (s : State) (k : HomeId) (x : Nat × Nat) : (s.setHome k x).cores = s.cores := rfl
@[simp] theorem State.setHome_clusters (s : State) (k : HomeId) (x : Nat × Nat) : (s.setHome k x).clusters = s.clusters := rfl
@[simp] theorem State.setHome_dies (s : State) (k : HomeId) (x : Nat × Nat) : (s.setHome k x).dies = s.dies := rfl
@[simp] theorem State.setHome_hbm (s : State) (k : HomeId) (x : Nat × Nat) : (s.setHome k x).hbm = s.hbm := rfl
@[simp] theorem State.setHome_hbmBad (s : State) (k : HomeId) (x : Nat × Nat) : (s.setHome k x).hbmBad = s.hbmBad := rfl
@[simp] theorem State.setHome_fabric (s : State) (k : HomeId) (x : Nat × Nat) : (s.setHome k x).fabric = s.fabric := rfl
@[simp] theorem State.setHome_floor (s : State) (k : HomeId) (x : Nat × Nat) : (s.setHome k x).floor = s.floor := rfl
@[simp] theorem State.setHome_ticks (s : State) (k : HomeId) (x : Nat × Nat) : (s.setHome k x).ticks = s.ticks := rfl
@[simp] theorem State.setHome_tickMax (s : State) (k : HomeId) (x : Nat × Nat) : (s.setHome k x).tickMax = s.tickMax := rfl
@[simp] theorem State.setHome_run (s : State) (k : HomeId) (x : Nat × Nat) : (s.setHome k x).run = s.run := rfl
@[simp] theorem State.setHome_dieMap (s : State) (k : HomeId) (x : Nat × Nat) : (s.setHome k x).dieMap = s.dieMap := rfl
@[simp] theorem State.setHome_serverMask (s : State) (k : HomeId) (x : Nat × Nat) : (s.setHome k x).serverMask = s.serverMask := rfl
@[simp] theorem State.setHome_reports (s : State) (k : HomeId) (x : Nat × Nat) : (s.setHome k x).reports = s.reports := rfl
@[simp] theorem State.setHome_net (s : State) (k : HomeId) (x : Nat × Nat) : (s.setHome k x).net = s.net := rfl
@[simp] theorem State.setHome_nextId (s : State) (k : HomeId) (x : Nat × Nat) : (s.setHome k x).nextId = s.nextId := rfl
@[simp] theorem State.setHome_parts (s : State) (k : HomeId) (x : Nat × Nat) : (s.setHome k x).parts = s.parts := rfl
@[simp] theorem State.setHome_vds (s : State) (k : HomeId) (x : Nat × Nat) : (s.setHome k x).vds = s.vds := rfl
@[simp] theorem State.setHome_sumPairs (s : State) (k : HomeId) (x : Nat × Nat) : (s.setHome k x).sumPairs = s.sumPairs := rfl
@[simp] theorem State.setHome_flash (s : State) (k : HomeId) (x : Nat × Nat) : (s.setHome k x).flash = s.flash := rfl
@[simp] theorem State.setHome_scores (s : State) (k : HomeId) (x : Nat × Nat) : (s.setHome k x).scores = s.scores := rfl
@[simp] theorem State.setHome_assign (s : State) (k : HomeId) (x : Nat × Nat) : (s.setHome k x).assign = s.assign := rfl
@[simp] theorem State.setHome_queues (s : State) (k : HomeId) (x : Nat × Nat) : (s.setHome k x).queues = s.queues := rfl
@[simp] theorem State.setHome_launches (s : State) (k : HomeId) (x : Nat × Nat) : (s.setHome k x).launches = s.launches := rfl
@[simp] theorem State.setHome_audits (s : State) (k : HomeId) (x : Nat × Nat) : (s.setHome k x).audits = s.audits := rfl
@[simp] theorem State.setHome_charges (s : State) (k : HomeId) (x : Nat × Nat) : (s.setHome k x).charges = s.charges := rfl
@[simp] theorem State.setHome_drains (s : State) (k : HomeId) (x : Nat × Nat) : (s.setHome k x).drains = s.drains := rfl
@[simp] theorem State.setHome_tainted (s : State) (k : HomeId) (x : Nat × Nat) : (s.setHome k x).tainted = s.tainted := rfl
@[simp] theorem State.setHome_images (s : State) (k : HomeId) (x : Nat × Nat) : (s.setHome k x).images = s.images := rfl
@[simp] theorem State.setHome_held (s : State) (k : HomeId) (x : Nat × Nat) : (s.setHome k x).held = s.held := rfl
@[simp] theorem State.setHome_homeBase (s : State) (k : HomeId) (x : Nat × Nat) : (s.setHome k x).homeBase = s.homeBase := rfl
@[simp] theorem State.setHome_recent (s : State) (k : HomeId) (x : Nat × Nat) : (s.setHome k x).recent = s.recent := rfl
@[simp] theorem State.setHome_ownCode (s : State) (k : HomeId) (x : Nat × Nat) : (s.setHome k x).ownCode = s.ownCode := rfl
@[simp] theorem State.setHome_fenced (s : State) (k : HomeId) (x : Nat × Nat) : (s.setHome k x).fenced = s.fenced := rfl
@[simp] theorem State.setHome_fdrop (s : State) (k : HomeId) (x : Nat × Nat) : (s.setHome k x).fdrop = s.fdrop := rfl
@[simp] theorem State.setHome_spare (s : State) (k : HomeId) (x : Nat × Nat) : (s.setHome k x).spare = s.spare := rfl
@[simp] theorem State.setHome_takeover (s : State) (k : HomeId) (x : Nat × Nat) : (s.setHome k x).takeover = s.takeover := rfl
@[simp] theorem State.setHome_links (s : State) (k : HomeId) (x : Nat × Nat) : (s.setHome k x).links = s.links := rfl
@[simp] theorem State.setHome_avoided (s : State) (k : HomeId) (x : Nat × Nat) : (s.setHome k x).avoided = s.avoided := rfl
@[simp] theorem State.setHome_sp (s : State) (k : HomeId) (x : Nat × Nat) : (s.setHome k x).sp = s.sp := rfl
@[simp] theorem State.setHome_ports (s : State) (k : HomeId) (x : Nat × Nat) : (s.setHome k x).ports = s.ports := rfl
@[simp] theorem State.setHome_capped (s : State) (k : HomeId) (x : Nat × Nat) : (s.setHome k x).capped = s.capped := rfl
@[simp] theorem State.onVd_cur (s : State) (v : Nat) (f : Vd → Vd) : (s.onVd v f).cur = s.cur := rfl
@[simp] theorem State.onVd_agenda (s : State) (v : Nat) (f : Vd → Vd) : (s.onVd v f).agenda = s.agenda := rfl
@[simp] theorem State.onVd_pending (s : State) (v : Nat) (f : Vd → Vd) : (s.onVd v f).pending = s.pending := rfl
@[simp] theorem State.onVd_draws (s : State) (v : Nat) (f : Vd → Vd) : (s.onVd v f).draws = s.draws := rfl
@[simp] theorem State.onVd_clk (s : State) (v : Nat) (f : Vd → Vd) : (s.onVd v f).clk = s.clk := rfl
@[simp] theorem State.onVd_cores (s : State) (v : Nat) (f : Vd → Vd) : (s.onVd v f).cores = s.cores := rfl
@[simp] theorem State.onVd_clusters (s : State) (v : Nat) (f : Vd → Vd) : (s.onVd v f).clusters = s.clusters := rfl
@[simp] theorem State.onVd_dies (s : State) (v : Nat) (f : Vd → Vd) : (s.onVd v f).dies = s.dies := rfl
@[simp] theorem State.onVd_hbm (s : State) (v : Nat) (f : Vd → Vd) : (s.onVd v f).hbm = s.hbm := rfl
@[simp] theorem State.onVd_hbmBad (s : State) (v : Nat) (f : Vd → Vd) : (s.onVd v f).hbmBad = s.hbmBad := rfl
@[simp] theorem State.onVd_fabric (s : State) (v : Nat) (f : Vd → Vd) : (s.onVd v f).fabric = s.fabric := rfl
@[simp] theorem State.onVd_homes (s : State) (v : Nat) (f : Vd → Vd) : (s.onVd v f).homes = s.homes := rfl
@[simp] theorem State.onVd_floor (s : State) (v : Nat) (f : Vd → Vd) : (s.onVd v f).floor = s.floor := rfl
@[simp] theorem State.onVd_ticks (s : State) (v : Nat) (f : Vd → Vd) : (s.onVd v f).ticks = s.ticks := rfl
@[simp] theorem State.onVd_tickMax (s : State) (v : Nat) (f : Vd → Vd) : (s.onVd v f).tickMax = s.tickMax := rfl
@[simp] theorem State.onVd_run (s : State) (v : Nat) (f : Vd → Vd) : (s.onVd v f).run = s.run := rfl
@[simp] theorem State.onVd_dieMap (s : State) (v : Nat) (f : Vd → Vd) : (s.onVd v f).dieMap = s.dieMap := rfl
@[simp] theorem State.onVd_serverMask (s : State) (v : Nat) (f : Vd → Vd) : (s.onVd v f).serverMask = s.serverMask := rfl
@[simp] theorem State.onVd_reports (s : State) (v : Nat) (f : Vd → Vd) : (s.onVd v f).reports = s.reports := rfl
@[simp] theorem State.onVd_net (s : State) (v : Nat) (f : Vd → Vd) : (s.onVd v f).net = s.net := rfl
@[simp] theorem State.onVd_nextId (s : State) (v : Nat) (f : Vd → Vd) : (s.onVd v f).nextId = s.nextId := rfl
@[simp] theorem State.onVd_parts (s : State) (v : Nat) (f : Vd → Vd) : (s.onVd v f).parts = s.parts := rfl
@[simp] theorem State.onVd_sumPairs (s : State) (v : Nat) (f : Vd → Vd) : (s.onVd v f).sumPairs = s.sumPairs := rfl
@[simp] theorem State.onVd_flash (s : State) (v : Nat) (f : Vd → Vd) : (s.onVd v f).flash = s.flash := rfl
@[simp] theorem State.onVd_scores (s : State) (v : Nat) (f : Vd → Vd) : (s.onVd v f).scores = s.scores := rfl
@[simp] theorem State.onVd_assign (s : State) (v : Nat) (f : Vd → Vd) : (s.onVd v f).assign = s.assign := rfl
@[simp] theorem State.onVd_queues (s : State) (v : Nat) (f : Vd → Vd) : (s.onVd v f).queues = s.queues := rfl
@[simp] theorem State.onVd_launches (s : State) (v : Nat) (f : Vd → Vd) : (s.onVd v f).launches = s.launches := rfl
@[simp] theorem State.onVd_audits (s : State) (v : Nat) (f : Vd → Vd) : (s.onVd v f).audits = s.audits := rfl
@[simp] theorem State.onVd_charges (s : State) (v : Nat) (f : Vd → Vd) : (s.onVd v f).charges = s.charges := rfl
@[simp] theorem State.onVd_drains (s : State) (v : Nat) (f : Vd → Vd) : (s.onVd v f).drains = s.drains := rfl
@[simp] theorem State.onVd_tainted (s : State) (v : Nat) (f : Vd → Vd) : (s.onVd v f).tainted = s.tainted := rfl
@[simp] theorem State.onVd_images (s : State) (v : Nat) (f : Vd → Vd) : (s.onVd v f).images = s.images := rfl
@[simp] theorem State.onVd_held (s : State) (v : Nat) (f : Vd → Vd) : (s.onVd v f).held = s.held := rfl
@[simp] theorem State.onVd_homeBase (s : State) (v : Nat) (f : Vd → Vd) : (s.onVd v f).homeBase = s.homeBase := rfl
@[simp] theorem State.onVd_recent (s : State) (v : Nat) (f : Vd → Vd) : (s.onVd v f).recent = s.recent := rfl
@[simp] theorem State.onVd_ownCode (s : State) (v : Nat) (f : Vd → Vd) : (s.onVd v f).ownCode = s.ownCode := rfl
@[simp] theorem State.onVd_fenced (s : State) (v : Nat) (f : Vd → Vd) : (s.onVd v f).fenced = s.fenced := rfl
@[simp] theorem State.onVd_fdrop (s : State) (v : Nat) (f : Vd → Vd) : (s.onVd v f).fdrop = s.fdrop := rfl
@[simp] theorem State.onVd_spare (s : State) (v : Nat) (f : Vd → Vd) : (s.onVd v f).spare = s.spare := rfl
@[simp] theorem State.onVd_takeover (s : State) (v : Nat) (f : Vd → Vd) : (s.onVd v f).takeover = s.takeover := rfl
@[simp] theorem State.onVd_links (s : State) (v : Nat) (f : Vd → Vd) : (s.onVd v f).links = s.links := rfl
@[simp] theorem State.onVd_avoided (s : State) (v : Nat) (f : Vd → Vd) : (s.onVd v f).avoided = s.avoided := rfl
@[simp] theorem State.onVd_sp (s : State) (v : Nat) (f : Vd → Vd) : (s.onVd v f).sp = s.sp := rfl
@[simp] theorem State.onVd_ports (s : State) (v : Nat) (f : Vd → Vd) : (s.onVd v f).ports = s.ports := rfl
@[simp] theorem State.onVd_capped (s : State) (v : Nat) (f : Vd → Vd) : (s.onVd v f).capped = s.capped := rfl
@[simp] theorem State.onPart_cur (s : State) (p : Nat) (f : Part → Part) : (s.onPart p f).cur = s.cur := rfl
@[simp] theorem State.onPart_agenda (s : State) (p : Nat) (f : Part → Part) : (s.onPart p f).agenda = s.agenda := rfl
@[simp] theorem State.onPart_pending (s : State) (p : Nat) (f : Part → Part) : (s.onPart p f).pending = s.pending := rfl
@[simp] theorem State.onPart_draws (s : State) (p : Nat) (f : Part → Part) : (s.onPart p f).draws = s.draws := rfl
@[simp] theorem State.onPart_clk (s : State) (p : Nat) (f : Part → Part) : (s.onPart p f).clk = s.clk := rfl
@[simp] theorem State.onPart_cores (s : State) (p : Nat) (f : Part → Part) : (s.onPart p f).cores = s.cores := rfl
@[simp] theorem State.onPart_clusters (s : State) (p : Nat) (f : Part → Part) : (s.onPart p f).clusters = s.clusters := rfl
@[simp] theorem State.onPart_dies (s : State) (p : Nat) (f : Part → Part) : (s.onPart p f).dies = s.dies := rfl
@[simp] theorem State.onPart_hbm (s : State) (p : Nat) (f : Part → Part) : (s.onPart p f).hbm = s.hbm := rfl
@[simp] theorem State.onPart_hbmBad (s : State) (p : Nat) (f : Part → Part) : (s.onPart p f).hbmBad = s.hbmBad := rfl
@[simp] theorem State.onPart_fabric (s : State) (p : Nat) (f : Part → Part) : (s.onPart p f).fabric = s.fabric := rfl
@[simp] theorem State.onPart_homes (s : State) (p : Nat) (f : Part → Part) : (s.onPart p f).homes = s.homes := rfl
@[simp] theorem State.onPart_floor (s : State) (p : Nat) (f : Part → Part) : (s.onPart p f).floor = s.floor := rfl
@[simp] theorem State.onPart_ticks (s : State) (p : Nat) (f : Part → Part) : (s.onPart p f).ticks = s.ticks := rfl
@[simp] theorem State.onPart_tickMax (s : State) (p : Nat) (f : Part → Part) : (s.onPart p f).tickMax = s.tickMax := rfl
@[simp] theorem State.onPart_run (s : State) (p : Nat) (f : Part → Part) : (s.onPart p f).run = s.run := rfl
@[simp] theorem State.onPart_dieMap (s : State) (p : Nat) (f : Part → Part) : (s.onPart p f).dieMap = s.dieMap := rfl
@[simp] theorem State.onPart_serverMask (s : State) (p : Nat) (f : Part → Part) : (s.onPart p f).serverMask = s.serverMask := rfl
@[simp] theorem State.onPart_reports (s : State) (p : Nat) (f : Part → Part) : (s.onPart p f).reports = s.reports := rfl
@[simp] theorem State.onPart_net (s : State) (p : Nat) (f : Part → Part) : (s.onPart p f).net = s.net := rfl
@[simp] theorem State.onPart_nextId (s : State) (p : Nat) (f : Part → Part) : (s.onPart p f).nextId = s.nextId := rfl
@[simp] theorem State.onPart_vds (s : State) (p : Nat) (f : Part → Part) : (s.onPart p f).vds = s.vds := rfl
@[simp] theorem State.onPart_sumPairs (s : State) (p : Nat) (f : Part → Part) : (s.onPart p f).sumPairs = s.sumPairs := rfl
@[simp] theorem State.onPart_flash (s : State) (p : Nat) (f : Part → Part) : (s.onPart p f).flash = s.flash := rfl
@[simp] theorem State.onPart_scores (s : State) (p : Nat) (f : Part → Part) : (s.onPart p f).scores = s.scores := rfl
@[simp] theorem State.onPart_assign (s : State) (p : Nat) (f : Part → Part) : (s.onPart p f).assign = s.assign := rfl
@[simp] theorem State.onPart_queues (s : State) (p : Nat) (f : Part → Part) : (s.onPart p f).queues = s.queues := rfl
@[simp] theorem State.onPart_launches (s : State) (p : Nat) (f : Part → Part) : (s.onPart p f).launches = s.launches := rfl
@[simp] theorem State.onPart_audits (s : State) (p : Nat) (f : Part → Part) : (s.onPart p f).audits = s.audits := rfl
@[simp] theorem State.onPart_charges (s : State) (p : Nat) (f : Part → Part) : (s.onPart p f).charges = s.charges := rfl
@[simp] theorem State.onPart_drains (s : State) (p : Nat) (f : Part → Part) : (s.onPart p f).drains = s.drains := rfl
@[simp] theorem State.onPart_tainted (s : State) (p : Nat) (f : Part → Part) : (s.onPart p f).tainted = s.tainted := rfl
@[simp] theorem State.onPart_images (s : State) (p : Nat) (f : Part → Part) : (s.onPart p f).images = s.images := rfl
@[simp] theorem State.onPart_held (s : State) (p : Nat) (f : Part → Part) : (s.onPart p f).held = s.held := rfl
@[simp] theorem State.onPart_homeBase (s : State) (p : Nat) (f : Part → Part) : (s.onPart p f).homeBase = s.homeBase := rfl
@[simp] theorem State.onPart_recent (s : State) (p : Nat) (f : Part → Part) : (s.onPart p f).recent = s.recent := rfl
@[simp] theorem State.onPart_ownCode (s : State) (p : Nat) (f : Part → Part) : (s.onPart p f).ownCode = s.ownCode := rfl
@[simp] theorem State.onPart_fenced (s : State) (p : Nat) (f : Part → Part) : (s.onPart p f).fenced = s.fenced := rfl
@[simp] theorem State.onPart_fdrop (s : State) (p : Nat) (f : Part → Part) : (s.onPart p f).fdrop = s.fdrop := rfl
@[simp] theorem State.onPart_spare (s : State) (p : Nat) (f : Part → Part) : (s.onPart p f).spare = s.spare := rfl
@[simp] theorem State.onPart_takeover (s : State) (p : Nat) (f : Part → Part) : (s.onPart p f).takeover = s.takeover := rfl
@[simp] theorem State.onPart_links (s : State) (p : Nat) (f : Part → Part) : (s.onPart p f).links = s.links := rfl
@[simp] theorem State.onPart_avoided (s : State) (p : Nat) (f : Part → Part) : (s.onPart p f).avoided = s.avoided := rfl
@[simp] theorem State.onPart_sp (s : State) (p : Nat) (f : Part → Part) : (s.onPart p f).sp = s.sp := rfl
@[simp] theorem State.onPart_ports (s : State) (p : Nat) (f : Part → Part) : (s.onPart p f).ports = s.ports := rfl
@[simp] theorem State.onPart_capped (s : State) (p : Nat) (f : Part → Part) : (s.onPart p f).capped = s.capped := rfl
@[simp] theorem State.owe_pending (s : State) (i : Instr) : (s.owe i).pending = s.pending ++ [i] := rfl
@[simp] theorem State.report_reports (s : State) (r : Report) : (s.report r).reports = s.reports ++ [r] := rfl
@[simp] theorem State.setCore_cluster (s : State) (n : Nat) (c : Core) (n' : Nat) : (s.setCore n c).cluster n' = s.cluster n' := rfl
@[simp] theorem State.setCore_die (s : State) (n : Nat) (c : Core) (n' : Nat) : (s.setCore n c).die n' = s.die n' := rfl
@[simp] theorem State.setCore_vd (s : State) (n : Nat) (c : Core) (n' : Nat) : (s.setCore n c).vd n' = s.vd n' := rfl
@[simp] theorem State.setCore_part (s : State) (n : Nat) (c : Core) (n' : Nat) : (s.setCore n c).part n' = s.part n' := rfl
@[simp] theorem State.setCore_physByte (s : State) (n : Nat) (c : Core) (n' : Nat) : (s.setCore n c).physByte n' = s.physByte n' := rfl
@[simp] theorem State.setCc_cluster (s : State) (c : Core) (n' : Nat) : (s.setCc c).cluster n' = s.cluster n' := rfl
@[simp] theorem State.setCc_die (s : State) (c : Core) (n' : Nat) : (s.setCc c).die n' = s.die n' := rfl
@[simp] theorem State.setCc_vd (s : State) (c : Core) (n' : Nat) : (s.setCc c).vd n' = s.vd n' := rfl
@[simp] theorem State.setCc_part (s : State) (c : Core) (n' : Nat) : (s.setCc c).part n' = s.part n' := rfl
@[simp] theorem State.setCc_physByte (s : State) (c : Core) (n' : Nat) : (s.setCc c).physByte n' = s.physByte n' := rfl
@[simp] theorem State.setCluster_core (s : State) (n : Nat) (c : Cluster) (n' : Nat) : (s.setCluster n c).core n' = s.core n' := rfl
@[simp] theorem State.setCluster_die (s : State) (n : Nat) (c : Cluster) (n' : Nat) : (s.setCluster n c).die n' = s.die n' := rfl
@[simp] theorem State.setCluster_vd (s : State) (n : Nat) (c : Cluster) (n' : Nat) : (s.setCluster n c).vd n' = s.vd n' := rfl
@[simp] theorem State.setCluster_part (s : State) (n : Nat) (c : Cluster) (n' : Nat) : (s.setCluster n c).part n' = s.part n' := rfl
@[simp] theorem State.setCluster_physByte (s : State) (n : Nat) (c : Cluster) (n' : Nat) : (s.setCluster n c).physByte n' = s.physByte n' := rfl
@[simp] theorem State.setCluster_cc (s : State) (n : Nat) (c : Cluster) : (s.setCluster n c).cc = s.cc := rfl
@[simp] theorem State.setDie_core (s : State) (n : Nat) (d : Die) (n' : Nat) : (s.setDie n d).core n' = s.core n' := rfl
@[simp] theorem State.setDie_cluster (s : State) (n : Nat) (d : Die) (n' : Nat) : (s.setDie n d).cluster n' = s.cluster n' := rfl
@[simp] theorem State.setDie_vd (s : State) (n : Nat) (d : Die) (n' : Nat) : (s.setDie n d).vd n' = s.vd n' := rfl
@[simp] theorem State.setDie_part (s : State) (n : Nat) (d : Die) (n' : Nat) : (s.setDie n d).part n' = s.part n' := rfl
@[simp] theorem State.setDie_physByte (s : State) (n : Nat) (d : Die) (n' : Nat) : (s.setDie n d).physByte n' = s.physByte n' := rfl
@[simp] theorem State.setDie_cc (s : State) (n : Nat) (d : Die) : (s.setDie n d).cc = s.cc := rfl
@[simp] theorem State.owe_core (s : State) (i : Instr) (n' : Nat) : (s.owe i).core n' = s.core n' := rfl
@[simp] theorem State.owe_cluster (s : State) (i : Instr) (n' : Nat) : (s.owe i).cluster n' = s.cluster n' := rfl
@[simp] theorem State.owe_die (s : State) (i : Instr) (n' : Nat) : (s.owe i).die n' = s.die n' := rfl
@[simp] theorem State.owe_vd (s : State) (i : Instr) (n' : Nat) : (s.owe i).vd n' = s.vd n' := rfl
@[simp] theorem State.owe_part (s : State) (i : Instr) (n' : Nat) : (s.owe i).part n' = s.part n' := rfl
@[simp] theorem State.owe_physByte (s : State) (i : Instr) (n' : Nat) : (s.owe i).physByte n' = s.physByte n' := rfl
@[simp] theorem State.owe_cc (s : State) (i : Instr) : (s.owe i).cc = s.cc := rfl
@[simp] theorem State.report_core (s : State) (r : Report) (n' : Nat) : (s.report r).core n' = s.core n' := rfl
@[simp] theorem State.report_cluster (s : State) (r : Report) (n' : Nat) : (s.report r).cluster n' = s.cluster n' := rfl
@[simp] theorem State.report_die (s : State) (r : Report) (n' : Nat) : (s.report r).die n' = s.die n' := rfl
@[simp] theorem State.report_vd (s : State) (r : Report) (n' : Nat) : (s.report r).vd n' = s.vd n' := rfl
@[simp] theorem State.report_part (s : State) (r : Report) (n' : Nat) : (s.report r).part n' = s.part n' := rfl
@[simp] theorem State.report_physByte (s : State) (r : Report) (n' : Nat) : (s.report r).physByte n' = s.physByte n' := rfl
@[simp] theorem State.report_cc (s : State) (r : Report) : (s.report r).cc = s.cc := rfl
@[simp] theorem State.setHome_core (s : State) (k : HomeId) (x : Nat × Nat) (n' : Nat) : (s.setHome k x).core n' = s.core n' := rfl
@[simp] theorem State.setHome_cluster (s : State) (k : HomeId) (x : Nat × Nat) (n' : Nat) : (s.setHome k x).cluster n' = s.cluster n' := rfl
@[simp] theorem State.setHome_die (s : State) (k : HomeId) (x : Nat × Nat) (n' : Nat) : (s.setHome k x).die n' = s.die n' := rfl
@[simp] theorem State.setHome_vd (s : State) (k : HomeId) (x : Nat × Nat) (n' : Nat) : (s.setHome k x).vd n' = s.vd n' := rfl
@[simp] theorem State.setHome_part (s : State) (k : HomeId) (x : Nat × Nat) (n' : Nat) : (s.setHome k x).part n' = s.part n' := rfl
@[simp] theorem State.setHome_physByte (s : State) (k : HomeId) (x : Nat × Nat) (n' : Nat) : (s.setHome k x).physByte n' = s.physByte n' := rfl
@[simp] theorem State.setHome_cc (s : State) (k : HomeId) (x : Nat × Nat) : (s.setHome k x).cc = s.cc := rfl
@[simp] theorem State.onVd_core (s : State) (v : Nat) (f : Vd → Vd) (n' : Nat) : (s.onVd v f).core n' = s.core n' := rfl
@[simp] theorem State.onVd_cluster (s : State) (v : Nat) (f : Vd → Vd) (n' : Nat) : (s.onVd v f).cluster n' = s.cluster n' := rfl
@[simp] theorem State.onVd_die (s : State) (v : Nat) (f : Vd → Vd) (n' : Nat) : (s.onVd v f).die n' = s.die n' := rfl
@[simp] theorem State.onVd_part (s : State) (v : Nat) (f : Vd → Vd) (n' : Nat) : (s.onVd v f).part n' = s.part n' := rfl
@[simp] theorem State.onVd_physByte (s : State) (v : Nat) (f : Vd → Vd) (n' : Nat) : (s.onVd v f).physByte n' = s.physByte n' := rfl
@[simp] theorem State.onVd_cc (s : State) (v : Nat) (f : Vd → Vd) : (s.onVd v f).cc = s.cc := rfl
@[simp] theorem State.onPart_core (s : State) (p : Nat) (f : Part → Part) (n' : Nat) : (s.onPart p f).core n' = s.core n' := rfl
@[simp] theorem State.onPart_cluster (s : State) (p : Nat) (f : Part → Part) (n' : Nat) : (s.onPart p f).cluster n' = s.cluster n' := rfl
@[simp] theorem State.onPart_die (s : State) (p : Nat) (f : Part → Part) (n' : Nat) : (s.onPart p f).die n' = s.die n' := rfl
@[simp] theorem State.onPart_vd (s : State) (p : Nat) (f : Part → Part) (n' : Nat) : (s.onPart p f).vd n' = s.vd n' := rfl
@[simp] theorem State.onPart_physByte (s : State) (p : Nat) (f : Part → Part) (n' : Nat) : (s.onPart p f).physByte n' = s.physByte n' := rfl
@[simp] theorem State.onPart_cc (s : State) (p : Nat) (f : Part → Part) : (s.onPart p f).cc = s.cc := rfl

/-! ## Fields of a core after an update -/

@[simp] theorem Core.setTrap_tmg (c : Core) (f : TrapRegs → TrapRegs) : (c.setTrap f).tmg = c.tmg := rfl
@[simp] theorem Core.setTrap_mode (c : Core) (f : TrapRegs → TrapRegs) : (c.setTrap f).mode = c.mode := rfl
@[simp] theorem Core.setTrap_wait (c : Core) (f : TrapRegs → TrapRegs) : (c.setTrap f).wait = c.wait := rfl
@[simp] theorem Core.setTrap_access (c : Core) (f : TrapRegs → TrapRegs) : (c.setTrap f).access = c.access := rfl
@[simp] theorem Core.setTrap_moved (c : Core) (f : TrapRegs → TrapRegs) : (c.setTrap f).moved = c.moved := rfl
@[simp] theorem Core.setTrap_slices (c : Core) (f : TrapRegs → TrapRegs) : (c.setTrap f).slices = c.slices := rfl
@[simp] theorem Core.setTrap_spad (c : Core) (f : TrapRegs → TrapRegs) : (c.setTrap f).spad = c.spad := rfl
@[simp] theorem Core.setTrap_spadBad (c : Core) (f : TrapRegs → TrapRegs) : (c.setTrap f).spadBad = c.spadBad := rfl
@[simp] theorem Core.setTrap_spadSoft (c : Core) (f : TrapRegs → TrapRegs) : (c.setTrap f).spadSoft = c.spadSoft := rfl
@[simp] theorem Core.setTrap_spadHard (c : Core) (f : TrapRegs → TrapRegs) : (c.setTrap f).spadHard = c.spadHard := rfl
@[simp] theorem Core.setTrap_cecnt (c : Core) (f : TrapRegs → TrapRegs) : (c.setTrap f).cecnt = c.cecnt := rfl
@[simp] theorem Core.setTrap_rccnt (c : Core) (f : TrapRegs → TrapRegs) : (c.setTrap f).rccnt = c.rccnt := rfl
@[simp] theorem Core.setTrap_ue (c : Core) (f : TrapRegs → TrapRegs) : (c.setTrap f).ue = c.ue := rfl
@[simp] theorem Core.setTrap_fail (c : Core) (f : TrapRegs → TrapRegs) : (c.setTrap f).fail = c.fail := rfl
@[simp] theorem Core.setTrap_ueCount (c : Core) (f : TrapRegs → TrapRegs) : (c.setTrap f).ueCount = c.ueCount := rfl
@[simp] theorem Core.setTrap_ueSeen (c : Core) (f : TrapRegs → TrapRegs) : (c.setTrap f).ueSeen = c.ueSeen := rfl
@[simp] theorem Core.setTrap_lt (c : Core) (f : TrapRegs → TrapRegs) : (c.setTrap f).lt = c.lt := rfl
@[simp] theorem Core.setTrap_ft (c : Core) (f : TrapRegs → TrapRegs) : (c.setTrap f).ft = c.ft := rfl
@[simp] theorem Core.setTrap_pmsel (c : Core) (f : TrapRegs → TrapRegs) : (c.setTrap f).pmsel = c.pmsel := rfl
@[simp] theorem Core.setTrap_pmc (c : Core) (f : TrapRegs → TrapRegs) : (c.setTrap f).pmc = c.pmc := rfl
@[simp] theorem Core.setTrap_counts (c : Core) (f : TrapRegs → TrapRegs) : (c.setTrap f).counts = c.counts := rfl
@[simp] theorem Core.setTrap_pmcTick (c : Core) (f : TrapRegs → TrapRegs) : (c.setTrap f).pmcTick = c.pmcTick := rfl
@[simp] theorem Core.setTrap_root (c : Core) (f : TrapRegs → TrapRegs) : (c.setTrap f).root = c.root := rfl
@[simp] theorem Core.setTrap_xlate (c : Core) (f : TrapRegs → TrapRegs) : (c.setTrap f).xlate = c.xlate := rfl
@[simp] theorem Core.setTrap_vsid (c : Core) (f : TrapRegs → TrapRegs) : (c.setTrap f).vsid = c.vsid := rfl
@[simp] theorem Core.setTrap_fbpop1 (c : Core) (f : TrapRegs → TrapRegs) : (c.setTrap f).fbpop1 = c.fbpop1 := rfl
@[simp] theorem Core.setTrap_comm (c : Core) (f : TrapRegs → TrapRegs) : (c.setTrap f).comm = c.comm := rfl
@[simp] theorem Core.setTrap_eng (c : Core) (f : TrapRegs → TrapRegs) : (c.setTrap f).eng = c.eng := rfl
@[simp] theorem Core.setTrap_lid (c : Core) (f : TrapRegs → TrapRegs) : (c.setTrap f).lid = c.lid := rfl
@[simp] theorem Core.setTrap_task (c : Core) (f : TrapRegs → TrapRegs) : (c.setTrap f).task = c.task := rfl
@[simp] theorem Core.setTrap_doms (c : Core) (f : TrapRegs → TrapRegs) : (c.setTrap f).doms = c.doms := rfl
@[simp] theorem Core.setTrap_ckpt (c : Core) (f : TrapRegs → TrapRegs) : (c.setTrap f).ckpt = c.ckpt := rfl
@[simp] theorem Core.setTrap_idleSince (c : Core) (f : TrapRegs → TrapRegs) : (c.setTrap f).idleSince = c.idleSince := rfl
@[simp] theorem Core.setTrap_widened (c : Core) (f : TrapRegs → TrapRegs) : (c.setTrap f).widened = c.widened := rfl
@[simp] theorem Core.setTrap_slotctl (c : Core) (f : TrapRegs → TrapRegs) : (c.setTrap f).slotctl = c.slotctl := rfl
@[simp] theorem Core.setTrap_installing (c : Core) (f : TrapRegs → TrapRegs) : (c.setTrap f).installing = c.installing := rfl
@[simp] theorem Core.setTrap_saving (c : Core) (f : TrapRegs → TrapRegs) : (c.setTrap f).saving = c.saving := rfl
@[simp] theorem Core.setTrap_ctag (c : Core) (f : TrapRegs → TrapRegs) : (c.setTrap f).ctag = c.ctag := rfl
@[simp] theorem Core.setTrap_waitStall (c : Core) (f : TrapRegs → TrapRegs) : (c.setTrap f).waitStall = c.waitStall := rfl
@[simp] theorem Core.setTrap_yieldReq (c : Core) (f : TrapRegs → TrapRegs) : (c.setTrap f).yieldReq = c.yieldReq := rfl
@[simp] theorem Core.setTrap_errStop (c : Core) (f : TrapRegs → TrapRegs) : (c.setTrap f).errStop = c.errStop := rfl
@[simp] theorem Core.setTrap_vecBad (c : Core) (f : TrapRegs → TrapRegs) : (c.setTrap f).vecBad = c.vecBad := rfl
@[simp] theorem Core.setTrap_behind (c : Core) (f : TrapRegs → TrapRegs) : (c.setTrap f).behind = c.behind := rfl
@[simp] theorem Core.setTrap_owes (c : Core) (f : TrapRegs → TrapRegs) : (c.setTrap f).owes = c.owes := rfl
@[simp] theorem Core.setTrap_ahead (c : Core) (f : TrapRegs → TrapRegs) : (c.setTrap f).ahead = c.ahead := rfl
@[simp] theorem Core.setTrap_haltBy (c : Core) (f : TrapRegs → TrapRegs) : (c.setTrap f).haltBy = c.haltBy := rfl
@[simp] theorem Core.setTrap_regs_pc (c : Core) (f : TrapRegs → TrapRegs) : (c.setTrap f).regs.pc = c.regs.pc := rfl
@[simp] theorem Core.setTrap_regs_g (c : Core) (f : TrapRegs → TrapRegs) : (c.setTrap f).regs.g = c.regs.g := rfl
@[simp] theorem Core.setTrap_regs_p (c : Core) (f : TrapRegs → TrapRegs) : (c.setTrap f).regs.p = c.regs.p := rfl
@[simp] theorem Core.setTrap_regs_k (c : Core) (f : TrapRegs → TrapRegs) : (c.setTrap f).regs.k = c.regs.k := rfl
@[simp] theorem Core.setTrap_regs_v (c : Core) (f : TrapRegs → TrapRegs) : (c.setTrap f).regs.v = c.regs.v := rfl
@[simp] theorem Core.setTrap_regs_fp (c : Core) (f : TrapRegs → TrapRegs) : (c.setTrap f).regs.fp = c.regs.fp := rfl
@[simp] theorem Core.setTrap_regs_loops (c : Core) (f : TrapRegs → TrapRegs) : (c.setTrap f).regs.loops = c.regs.loops := rfl
@[simp] theorem Core.setTrap_regs_swz (c : Core) (f : TrapRegs → TrapRegs) : (c.setTrap f).regs.swz = c.regs.swz := rfl
@[simp] theorem Core.setTrap_regs_strm (c : Core) (f : TrapRegs → TrapRegs) : (c.setTrap f).regs.strm = c.regs.strm := rfl
@[simp] theorem Core.setTrap_regs_mods (c : Core) (f : TrapRegs → TrapRegs) : (c.setTrap f).regs.mods = c.regs.mods := rfl
@[simp] theorem Core.setFp_tmg (c : Core) (f : FpRegs → FpRegs) : (c.setFp f).tmg = c.tmg := rfl
@[simp] theorem Core.setFp_mode (c : Core) (f : FpRegs → FpRegs) : (c.setFp f).mode = c.mode := rfl
@[simp] theorem Core.setFp_wait (c : Core) (f : FpRegs → FpRegs) : (c.setFp f).wait = c.wait := rfl
@[simp] theorem Core.setFp_access (c : Core) (f : FpRegs → FpRegs) : (c.setFp f).access = c.access := rfl
@[simp] theorem Core.setFp_moved (c : Core) (f : FpRegs → FpRegs) : (c.setFp f).moved = c.moved := rfl
@[simp] theorem Core.setFp_slices (c : Core) (f : FpRegs → FpRegs) : (c.setFp f).slices = c.slices := rfl
@[simp] theorem Core.setFp_spad (c : Core) (f : FpRegs → FpRegs) : (c.setFp f).spad = c.spad := rfl
@[simp] theorem Core.setFp_spadBad (c : Core) (f : FpRegs → FpRegs) : (c.setFp f).spadBad = c.spadBad := rfl
@[simp] theorem Core.setFp_spadSoft (c : Core) (f : FpRegs → FpRegs) : (c.setFp f).spadSoft = c.spadSoft := rfl
@[simp] theorem Core.setFp_spadHard (c : Core) (f : FpRegs → FpRegs) : (c.setFp f).spadHard = c.spadHard := rfl
@[simp] theorem Core.setFp_cecnt (c : Core) (f : FpRegs → FpRegs) : (c.setFp f).cecnt = c.cecnt := rfl
@[simp] theorem Core.setFp_rccnt (c : Core) (f : FpRegs → FpRegs) : (c.setFp f).rccnt = c.rccnt := rfl
@[simp] theorem Core.setFp_ue (c : Core) (f : FpRegs → FpRegs) : (c.setFp f).ue = c.ue := rfl
@[simp] theorem Core.setFp_fail (c : Core) (f : FpRegs → FpRegs) : (c.setFp f).fail = c.fail := rfl
@[simp] theorem Core.setFp_ueCount (c : Core) (f : FpRegs → FpRegs) : (c.setFp f).ueCount = c.ueCount := rfl
@[simp] theorem Core.setFp_ueSeen (c : Core) (f : FpRegs → FpRegs) : (c.setFp f).ueSeen = c.ueSeen := rfl
@[simp] theorem Core.setFp_lt (c : Core) (f : FpRegs → FpRegs) : (c.setFp f).lt = c.lt := rfl
@[simp] theorem Core.setFp_ft (c : Core) (f : FpRegs → FpRegs) : (c.setFp f).ft = c.ft := rfl
@[simp] theorem Core.setFp_pmsel (c : Core) (f : FpRegs → FpRegs) : (c.setFp f).pmsel = c.pmsel := rfl
@[simp] theorem Core.setFp_pmc (c : Core) (f : FpRegs → FpRegs) : (c.setFp f).pmc = c.pmc := rfl
@[simp] theorem Core.setFp_counts (c : Core) (f : FpRegs → FpRegs) : (c.setFp f).counts = c.counts := rfl
@[simp] theorem Core.setFp_pmcTick (c : Core) (f : FpRegs → FpRegs) : (c.setFp f).pmcTick = c.pmcTick := rfl
@[simp] theorem Core.setFp_root (c : Core) (f : FpRegs → FpRegs) : (c.setFp f).root = c.root := rfl
@[simp] theorem Core.setFp_xlate (c : Core) (f : FpRegs → FpRegs) : (c.setFp f).xlate = c.xlate := rfl
@[simp] theorem Core.setFp_vsid (c : Core) (f : FpRegs → FpRegs) : (c.setFp f).vsid = c.vsid := rfl
@[simp] theorem Core.setFp_fbpop1 (c : Core) (f : FpRegs → FpRegs) : (c.setFp f).fbpop1 = c.fbpop1 := rfl
@[simp] theorem Core.setFp_comm (c : Core) (f : FpRegs → FpRegs) : (c.setFp f).comm = c.comm := rfl
@[simp] theorem Core.setFp_eng (c : Core) (f : FpRegs → FpRegs) : (c.setFp f).eng = c.eng := rfl
@[simp] theorem Core.setFp_lid (c : Core) (f : FpRegs → FpRegs) : (c.setFp f).lid = c.lid := rfl
@[simp] theorem Core.setFp_task (c : Core) (f : FpRegs → FpRegs) : (c.setFp f).task = c.task := rfl
@[simp] theorem Core.setFp_doms (c : Core) (f : FpRegs → FpRegs) : (c.setFp f).doms = c.doms := rfl
@[simp] theorem Core.setFp_ckpt (c : Core) (f : FpRegs → FpRegs) : (c.setFp f).ckpt = c.ckpt := rfl
@[simp] theorem Core.setFp_idleSince (c : Core) (f : FpRegs → FpRegs) : (c.setFp f).idleSince = c.idleSince := rfl
@[simp] theorem Core.setFp_widened (c : Core) (f : FpRegs → FpRegs) : (c.setFp f).widened = c.widened := rfl
@[simp] theorem Core.setFp_slotctl (c : Core) (f : FpRegs → FpRegs) : (c.setFp f).slotctl = c.slotctl := rfl
@[simp] theorem Core.setFp_installing (c : Core) (f : FpRegs → FpRegs) : (c.setFp f).installing = c.installing := rfl
@[simp] theorem Core.setFp_saving (c : Core) (f : FpRegs → FpRegs) : (c.setFp f).saving = c.saving := rfl
@[simp] theorem Core.setFp_ctag (c : Core) (f : FpRegs → FpRegs) : (c.setFp f).ctag = c.ctag := rfl
@[simp] theorem Core.setFp_waitStall (c : Core) (f : FpRegs → FpRegs) : (c.setFp f).waitStall = c.waitStall := rfl
@[simp] theorem Core.setFp_yieldReq (c : Core) (f : FpRegs → FpRegs) : (c.setFp f).yieldReq = c.yieldReq := rfl
@[simp] theorem Core.setFp_errStop (c : Core) (f : FpRegs → FpRegs) : (c.setFp f).errStop = c.errStop := rfl
@[simp] theorem Core.setFp_vecBad (c : Core) (f : FpRegs → FpRegs) : (c.setFp f).vecBad = c.vecBad := rfl
@[simp] theorem Core.setFp_behind (c : Core) (f : FpRegs → FpRegs) : (c.setFp f).behind = c.behind := rfl
@[simp] theorem Core.setFp_owes (c : Core) (f : FpRegs → FpRegs) : (c.setFp f).owes = c.owes := rfl
@[simp] theorem Core.setFp_ahead (c : Core) (f : FpRegs → FpRegs) : (c.setFp f).ahead = c.ahead := rfl
@[simp] theorem Core.setFp_haltBy (c : Core) (f : FpRegs → FpRegs) : (c.setFp f).haltBy = c.haltBy := rfl
@[simp] theorem Core.setFp_regs_pc (c : Core) (f : FpRegs → FpRegs) : (c.setFp f).regs.pc = c.regs.pc := rfl
@[simp] theorem Core.setFp_regs_g (c : Core) (f : FpRegs → FpRegs) : (c.setFp f).regs.g = c.regs.g := rfl
@[simp] theorem Core.setFp_regs_p (c : Core) (f : FpRegs → FpRegs) : (c.setFp f).regs.p = c.regs.p := rfl
@[simp] theorem Core.setFp_regs_k (c : Core) (f : FpRegs → FpRegs) : (c.setFp f).regs.k = c.regs.k := rfl
@[simp] theorem Core.setFp_regs_v (c : Core) (f : FpRegs → FpRegs) : (c.setFp f).regs.v = c.regs.v := rfl
@[simp] theorem Core.setFp_regs_trap (c : Core) (f : FpRegs → FpRegs) : (c.setFp f).regs.trap = c.regs.trap := rfl
@[simp] theorem Core.setFp_regs_loops (c : Core) (f : FpRegs → FpRegs) : (c.setFp f).regs.loops = c.regs.loops := rfl
@[simp] theorem Core.setFp_regs_swz (c : Core) (f : FpRegs → FpRegs) : (c.setFp f).regs.swz = c.regs.swz := rfl
@[simp] theorem Core.setFp_regs_strm (c : Core) (f : FpRegs → FpRegs) : (c.setFp f).regs.strm = c.regs.strm := rfl
@[simp] theorem Core.setFp_regs_mods (c : Core) (f : FpRegs → FpRegs) : (c.setFp f).regs.mods = c.regs.mods := rfl
@[simp] theorem Core.setTmg_regs (c : Core) (f : Timing → Timing) : (c.setTmg f).regs = c.regs := rfl
@[simp] theorem Core.setTmg_mode (c : Core) (f : Timing → Timing) : (c.setTmg f).mode = c.mode := rfl
@[simp] theorem Core.setTmg_wait (c : Core) (f : Timing → Timing) : (c.setTmg f).wait = c.wait := rfl
@[simp] theorem Core.setTmg_access (c : Core) (f : Timing → Timing) : (c.setTmg f).access = c.access := rfl
@[simp] theorem Core.setTmg_moved (c : Core) (f : Timing → Timing) : (c.setTmg f).moved = c.moved := rfl
@[simp] theorem Core.setTmg_slices (c : Core) (f : Timing → Timing) : (c.setTmg f).slices = c.slices := rfl
@[simp] theorem Core.setTmg_spad (c : Core) (f : Timing → Timing) : (c.setTmg f).spad = c.spad := rfl
@[simp] theorem Core.setTmg_spadBad (c : Core) (f : Timing → Timing) : (c.setTmg f).spadBad = c.spadBad := rfl
@[simp] theorem Core.setTmg_spadSoft (c : Core) (f : Timing → Timing) : (c.setTmg f).spadSoft = c.spadSoft := rfl
@[simp] theorem Core.setTmg_spadHard (c : Core) (f : Timing → Timing) : (c.setTmg f).spadHard = c.spadHard := rfl
@[simp] theorem Core.setTmg_cecnt (c : Core) (f : Timing → Timing) : (c.setTmg f).cecnt = c.cecnt := rfl
@[simp] theorem Core.setTmg_rccnt (c : Core) (f : Timing → Timing) : (c.setTmg f).rccnt = c.rccnt := rfl
@[simp] theorem Core.setTmg_ue (c : Core) (f : Timing → Timing) : (c.setTmg f).ue = c.ue := rfl
@[simp] theorem Core.setTmg_fail (c : Core) (f : Timing → Timing) : (c.setTmg f).fail = c.fail := rfl
@[simp] theorem Core.setTmg_ueCount (c : Core) (f : Timing → Timing) : (c.setTmg f).ueCount = c.ueCount := rfl
@[simp] theorem Core.setTmg_ueSeen (c : Core) (f : Timing → Timing) : (c.setTmg f).ueSeen = c.ueSeen := rfl
@[simp] theorem Core.setTmg_lt (c : Core) (f : Timing → Timing) : (c.setTmg f).lt = c.lt := rfl
@[simp] theorem Core.setTmg_ft (c : Core) (f : Timing → Timing) : (c.setTmg f).ft = c.ft := rfl
@[simp] theorem Core.setTmg_pmsel (c : Core) (f : Timing → Timing) : (c.setTmg f).pmsel = c.pmsel := rfl
@[simp] theorem Core.setTmg_pmc (c : Core) (f : Timing → Timing) : (c.setTmg f).pmc = c.pmc := rfl
@[simp] theorem Core.setTmg_counts (c : Core) (f : Timing → Timing) : (c.setTmg f).counts = c.counts := rfl
@[simp] theorem Core.setTmg_pmcTick (c : Core) (f : Timing → Timing) : (c.setTmg f).pmcTick = c.pmcTick := rfl
@[simp] theorem Core.setTmg_root (c : Core) (f : Timing → Timing) : (c.setTmg f).root = c.root := rfl
@[simp] theorem Core.setTmg_xlate (c : Core) (f : Timing → Timing) : (c.setTmg f).xlate = c.xlate := rfl
@[simp] theorem Core.setTmg_vsid (c : Core) (f : Timing → Timing) : (c.setTmg f).vsid = c.vsid := rfl
@[simp] theorem Core.setTmg_fbpop1 (c : Core) (f : Timing → Timing) : (c.setTmg f).fbpop1 = c.fbpop1 := rfl
@[simp] theorem Core.setTmg_comm (c : Core) (f : Timing → Timing) : (c.setTmg f).comm = c.comm := rfl
@[simp] theorem Core.setTmg_eng (c : Core) (f : Timing → Timing) : (c.setTmg f).eng = c.eng := rfl
@[simp] theorem Core.setTmg_lid (c : Core) (f : Timing → Timing) : (c.setTmg f).lid = c.lid := rfl
@[simp] theorem Core.setTmg_task (c : Core) (f : Timing → Timing) : (c.setTmg f).task = c.task := rfl
@[simp] theorem Core.setTmg_doms (c : Core) (f : Timing → Timing) : (c.setTmg f).doms = c.doms := rfl
@[simp] theorem Core.setTmg_ckpt (c : Core) (f : Timing → Timing) : (c.setTmg f).ckpt = c.ckpt := rfl
@[simp] theorem Core.setTmg_idleSince (c : Core) (f : Timing → Timing) : (c.setTmg f).idleSince = c.idleSince := rfl
@[simp] theorem Core.setTmg_widened (c : Core) (f : Timing → Timing) : (c.setTmg f).widened = c.widened := rfl
@[simp] theorem Core.setTmg_slotctl (c : Core) (f : Timing → Timing) : (c.setTmg f).slotctl = c.slotctl := rfl
@[simp] theorem Core.setTmg_installing (c : Core) (f : Timing → Timing) : (c.setTmg f).installing = c.installing := rfl
@[simp] theorem Core.setTmg_saving (c : Core) (f : Timing → Timing) : (c.setTmg f).saving = c.saving := rfl
@[simp] theorem Core.setTmg_ctag (c : Core) (f : Timing → Timing) : (c.setTmg f).ctag = c.ctag := rfl
@[simp] theorem Core.setTmg_waitStall (c : Core) (f : Timing → Timing) : (c.setTmg f).waitStall = c.waitStall := rfl
@[simp] theorem Core.setTmg_yieldReq (c : Core) (f : Timing → Timing) : (c.setTmg f).yieldReq = c.yieldReq := rfl
@[simp] theorem Core.setTmg_errStop (c : Core) (f : Timing → Timing) : (c.setTmg f).errStop = c.errStop := rfl
@[simp] theorem Core.setTmg_vecBad (c : Core) (f : Timing → Timing) : (c.setTmg f).vecBad = c.vecBad := rfl
@[simp] theorem Core.setTmg_behind (c : Core) (f : Timing → Timing) : (c.setTmg f).behind = c.behind := rfl
@[simp] theorem Core.setTmg_owes (c : Core) (f : Timing → Timing) : (c.setTmg f).owes = c.owes := rfl
@[simp] theorem Core.setTmg_ahead (c : Core) (f : Timing → Timing) : (c.setTmg f).ahead = c.ahead := rfl
@[simp] theorem Core.setTmg_haltBy (c : Core) (f : Timing → Timing) : (c.setTmg f).haltBy = c.haltBy := rfl
@[simp] theorem Core.setPc_tmg (c : Core) (a : Word) : (c.setPc a).tmg = c.tmg := rfl
@[simp] theorem Core.setPc_mode (c : Core) (a : Word) : (c.setPc a).mode = c.mode := rfl
@[simp] theorem Core.setPc_wait (c : Core) (a : Word) : (c.setPc a).wait = c.wait := rfl
@[simp] theorem Core.setPc_access (c : Core) (a : Word) : (c.setPc a).access = c.access := rfl
@[simp] theorem Core.setPc_moved (c : Core) (a : Word) : (c.setPc a).moved = c.moved := rfl
@[simp] theorem Core.setPc_slices (c : Core) (a : Word) : (c.setPc a).slices = c.slices := rfl
@[simp] theorem Core.setPc_spad (c : Core) (a : Word) : (c.setPc a).spad = c.spad := rfl
@[simp] theorem Core.setPc_spadBad (c : Core) (a : Word) : (c.setPc a).spadBad = c.spadBad := rfl
@[simp] theorem Core.setPc_spadSoft (c : Core) (a : Word) : (c.setPc a).spadSoft = c.spadSoft := rfl
@[simp] theorem Core.setPc_spadHard (c : Core) (a : Word) : (c.setPc a).spadHard = c.spadHard := rfl
@[simp] theorem Core.setPc_cecnt (c : Core) (a : Word) : (c.setPc a).cecnt = c.cecnt := rfl
@[simp] theorem Core.setPc_rccnt (c : Core) (a : Word) : (c.setPc a).rccnt = c.rccnt := rfl
@[simp] theorem Core.setPc_ue (c : Core) (a : Word) : (c.setPc a).ue = c.ue := rfl
@[simp] theorem Core.setPc_fail (c : Core) (a : Word) : (c.setPc a).fail = c.fail := rfl
@[simp] theorem Core.setPc_ueCount (c : Core) (a : Word) : (c.setPc a).ueCount = c.ueCount := rfl
@[simp] theorem Core.setPc_ueSeen (c : Core) (a : Word) : (c.setPc a).ueSeen = c.ueSeen := rfl
@[simp] theorem Core.setPc_lt (c : Core) (a : Word) : (c.setPc a).lt = c.lt := rfl
@[simp] theorem Core.setPc_ft (c : Core) (a : Word) : (c.setPc a).ft = c.ft := rfl
@[simp] theorem Core.setPc_pmsel (c : Core) (a : Word) : (c.setPc a).pmsel = c.pmsel := rfl
@[simp] theorem Core.setPc_pmc (c : Core) (a : Word) : (c.setPc a).pmc = c.pmc := rfl
@[simp] theorem Core.setPc_counts (c : Core) (a : Word) : (c.setPc a).counts = c.counts := rfl
@[simp] theorem Core.setPc_pmcTick (c : Core) (a : Word) : (c.setPc a).pmcTick = c.pmcTick := rfl
@[simp] theorem Core.setPc_root (c : Core) (a : Word) : (c.setPc a).root = c.root := rfl
@[simp] theorem Core.setPc_xlate (c : Core) (a : Word) : (c.setPc a).xlate = c.xlate := rfl
@[simp] theorem Core.setPc_vsid (c : Core) (a : Word) : (c.setPc a).vsid = c.vsid := rfl
@[simp] theorem Core.setPc_fbpop1 (c : Core) (a : Word) : (c.setPc a).fbpop1 = c.fbpop1 := rfl
@[simp] theorem Core.setPc_comm (c : Core) (a : Word) : (c.setPc a).comm = c.comm := rfl
@[simp] theorem Core.setPc_eng (c : Core) (a : Word) : (c.setPc a).eng = c.eng := rfl
@[simp] theorem Core.setPc_lid (c : Core) (a : Word) : (c.setPc a).lid = c.lid := rfl
@[simp] theorem Core.setPc_task (c : Core) (a : Word) : (c.setPc a).task = c.task := rfl
@[simp] theorem Core.setPc_doms (c : Core) (a : Word) : (c.setPc a).doms = c.doms := rfl
@[simp] theorem Core.setPc_ckpt (c : Core) (a : Word) : (c.setPc a).ckpt = c.ckpt := rfl
@[simp] theorem Core.setPc_idleSince (c : Core) (a : Word) : (c.setPc a).idleSince = c.idleSince := rfl
@[simp] theorem Core.setPc_widened (c : Core) (a : Word) : (c.setPc a).widened = c.widened := rfl
@[simp] theorem Core.setPc_slotctl (c : Core) (a : Word) : (c.setPc a).slotctl = c.slotctl := rfl
@[simp] theorem Core.setPc_installing (c : Core) (a : Word) : (c.setPc a).installing = c.installing := rfl
@[simp] theorem Core.setPc_saving (c : Core) (a : Word) : (c.setPc a).saving = c.saving := rfl
@[simp] theorem Core.setPc_ctag (c : Core) (a : Word) : (c.setPc a).ctag = c.ctag := rfl
@[simp] theorem Core.setPc_waitStall (c : Core) (a : Word) : (c.setPc a).waitStall = c.waitStall := rfl
@[simp] theorem Core.setPc_yieldReq (c : Core) (a : Word) : (c.setPc a).yieldReq = c.yieldReq := rfl
@[simp] theorem Core.setPc_errStop (c : Core) (a : Word) : (c.setPc a).errStop = c.errStop := rfl
@[simp] theorem Core.setPc_vecBad (c : Core) (a : Word) : (c.setPc a).vecBad = c.vecBad := rfl
@[simp] theorem Core.setPc_behind (c : Core) (a : Word) : (c.setPc a).behind = c.behind := rfl
@[simp] theorem Core.setPc_owes (c : Core) (a : Word) : (c.setPc a).owes = c.owes := rfl
@[simp] theorem Core.setPc_ahead (c : Core) (a : Word) : (c.setPc a).ahead = c.ahead := rfl
@[simp] theorem Core.setPc_haltBy (c : Core) (a : Word) : (c.setPc a).haltBy = c.haltBy := rfl
@[simp] theorem Core.setPc_regs_g (c : Core) (a : Word) : (c.setPc a).regs.g = c.regs.g := rfl
@[simp] theorem Core.setPc_regs_p (c : Core) (a : Word) : (c.setPc a).regs.p = c.regs.p := rfl
@[simp] theorem Core.setPc_regs_k (c : Core) (a : Word) : (c.setPc a).regs.k = c.regs.k := rfl
@[simp] theorem Core.setPc_regs_v (c : Core) (a : Word) : (c.setPc a).regs.v = c.regs.v := rfl
@[simp] theorem Core.setPc_regs_trap (c : Core) (a : Word) : (c.setPc a).regs.trap = c.regs.trap := rfl
@[simp] theorem Core.setPc_regs_fp (c : Core) (a : Word) : (c.setPc a).regs.fp = c.regs.fp := rfl
@[simp] theorem Core.setPc_regs_loops (c : Core) (a : Word) : (c.setPc a).regs.loops = c.regs.loops := rfl
@[simp] theorem Core.setPc_regs_swz (c : Core) (a : Word) : (c.setPc a).regs.swz = c.regs.swz := rfl
@[simp] theorem Core.setPc_regs_strm (c : Core) (a : Word) : (c.setPc a).regs.strm = c.regs.strm := rfl
@[simp] theorem Core.setPc_regs_mods (c : Core) (a : Word) : (c.setPc a).regs.mods = c.regs.mods := rfl
@[simp] theorem Core.store_tmg (c : Core) (r : VReg) (x : VR) : (c.store r x).tmg = c.tmg := rfl
@[simp] theorem Core.store_mode (c : Core) (r : VReg) (x : VR) : (c.store r x).mode = c.mode := rfl
@[simp] theorem Core.store_wait (c : Core) (r : VReg) (x : VR) : (c.store r x).wait = c.wait := rfl
@[simp] theorem Core.store_access (c : Core) (r : VReg) (x : VR) : (c.store r x).access = c.access := rfl
@[simp] theorem Core.store_moved (c : Core) (r : VReg) (x : VR) : (c.store r x).moved = c.moved := rfl
@[simp] theorem Core.store_slices (c : Core) (r : VReg) (x : VR) : (c.store r x).slices = c.slices := rfl
@[simp] theorem Core.store_spad (c : Core) (r : VReg) (x : VR) : (c.store r x).spad = c.spad := rfl
@[simp] theorem Core.store_spadBad (c : Core) (r : VReg) (x : VR) : (c.store r x).spadBad = c.spadBad := rfl
@[simp] theorem Core.store_spadSoft (c : Core) (r : VReg) (x : VR) : (c.store r x).spadSoft = c.spadSoft := rfl
@[simp] theorem Core.store_spadHard (c : Core) (r : VReg) (x : VR) : (c.store r x).spadHard = c.spadHard := rfl
@[simp] theorem Core.store_cecnt (c : Core) (r : VReg) (x : VR) : (c.store r x).cecnt = c.cecnt := rfl
@[simp] theorem Core.store_rccnt (c : Core) (r : VReg) (x : VR) : (c.store r x).rccnt = c.rccnt := rfl
@[simp] theorem Core.store_ue (c : Core) (r : VReg) (x : VR) : (c.store r x).ue = c.ue := rfl
@[simp] theorem Core.store_fail (c : Core) (r : VReg) (x : VR) : (c.store r x).fail = c.fail := rfl
@[simp] theorem Core.store_ueCount (c : Core) (r : VReg) (x : VR) : (c.store r x).ueCount = c.ueCount := rfl
@[simp] theorem Core.store_ueSeen (c : Core) (r : VReg) (x : VR) : (c.store r x).ueSeen = c.ueSeen := rfl
@[simp] theorem Core.store_lt (c : Core) (r : VReg) (x : VR) : (c.store r x).lt = c.lt := rfl
@[simp] theorem Core.store_ft (c : Core) (r : VReg) (x : VR) : (c.store r x).ft = c.ft := rfl
@[simp] theorem Core.store_pmsel (c : Core) (r : VReg) (x : VR) : (c.store r x).pmsel = c.pmsel := rfl
@[simp] theorem Core.store_pmc (c : Core) (r : VReg) (x : VR) : (c.store r x).pmc = c.pmc := rfl
@[simp] theorem Core.store_counts (c : Core) (r : VReg) (x : VR) : (c.store r x).counts = c.counts := rfl
@[simp] theorem Core.store_pmcTick (c : Core) (r : VReg) (x : VR) : (c.store r x).pmcTick = c.pmcTick := rfl
@[simp] theorem Core.store_root (c : Core) (r : VReg) (x : VR) : (c.store r x).root = c.root := rfl
@[simp] theorem Core.store_xlate (c : Core) (r : VReg) (x : VR) : (c.store r x).xlate = c.xlate := rfl
@[simp] theorem Core.store_vsid (c : Core) (r : VReg) (x : VR) : (c.store r x).vsid = c.vsid := rfl
@[simp] theorem Core.store_fbpop1 (c : Core) (r : VReg) (x : VR) : (c.store r x).fbpop1 = c.fbpop1 := rfl
@[simp] theorem Core.store_comm (c : Core) (r : VReg) (x : VR) : (c.store r x).comm = c.comm := rfl
@[simp] theorem Core.store_eng (c : Core) (r : VReg) (x : VR) : (c.store r x).eng = c.eng := rfl
@[simp] theorem Core.store_lid (c : Core) (r : VReg) (x : VR) : (c.store r x).lid = c.lid := rfl
@[simp] theorem Core.store_task (c : Core) (r : VReg) (x : VR) : (c.store r x).task = c.task := rfl
@[simp] theorem Core.store_doms (c : Core) (r : VReg) (x : VR) : (c.store r x).doms = c.doms := rfl
@[simp] theorem Core.store_ckpt (c : Core) (r : VReg) (x : VR) : (c.store r x).ckpt = c.ckpt := rfl
@[simp] theorem Core.store_idleSince (c : Core) (r : VReg) (x : VR) : (c.store r x).idleSince = c.idleSince := rfl
@[simp] theorem Core.store_widened (c : Core) (r : VReg) (x : VR) : (c.store r x).widened = c.widened := rfl
@[simp] theorem Core.store_slotctl (c : Core) (r : VReg) (x : VR) : (c.store r x).slotctl = c.slotctl := rfl
@[simp] theorem Core.store_installing (c : Core) (r : VReg) (x : VR) : (c.store r x).installing = c.installing := rfl
@[simp] theorem Core.store_saving (c : Core) (r : VReg) (x : VR) : (c.store r x).saving = c.saving := rfl
@[simp] theorem Core.store_ctag (c : Core) (r : VReg) (x : VR) : (c.store r x).ctag = c.ctag := rfl
@[simp] theorem Core.store_waitStall (c : Core) (r : VReg) (x : VR) : (c.store r x).waitStall = c.waitStall := rfl
@[simp] theorem Core.store_yieldReq (c : Core) (r : VReg) (x : VR) : (c.store r x).yieldReq = c.yieldReq := rfl
@[simp] theorem Core.store_errStop (c : Core) (r : VReg) (x : VR) : (c.store r x).errStop = c.errStop := rfl
@[simp] theorem Core.store_vecBad (c : Core) (r : VReg) (x : VR) : (c.store r x).vecBad = c.vecBad := rfl
@[simp] theorem Core.store_behind (c : Core) (r : VReg) (x : VR) : (c.store r x).behind = c.behind := rfl
@[simp] theorem Core.store_owes (c : Core) (r : VReg) (x : VR) : (c.store r x).owes = c.owes := rfl
@[simp] theorem Core.store_ahead (c : Core) (r : VReg) (x : VR) : (c.store r x).ahead = c.ahead := rfl
@[simp] theorem Core.store_haltBy (c : Core) (r : VReg) (x : VR) : (c.store r x).haltBy = c.haltBy := rfl
@[simp] theorem Core.store_regs_pc (c : Core) (r : VReg) (x : VR) : (c.store r x).regs.pc = c.regs.pc := rfl
@[simp] theorem Core.store_regs_g (c : Core) (r : VReg) (x : VR) : (c.store r x).regs.g = c.regs.g := rfl
@[simp] theorem Core.store_regs_p (c : Core) (r : VReg) (x : VR) : (c.store r x).regs.p = c.regs.p := rfl
@[simp] theorem Core.store_regs_k (c : Core) (r : VReg) (x : VR) : (c.store r x).regs.k = c.regs.k := rfl
@[simp] theorem Core.store_regs_trap (c : Core) (r : VReg) (x : VR) : (c.store r x).regs.trap = c.regs.trap := rfl
@[simp] theorem Core.store_regs_fp (c : Core) (r : VReg) (x : VR) : (c.store r x).regs.fp = c.regs.fp := rfl
@[simp] theorem Core.store_regs_loops (c : Core) (r : VReg) (x : VR) : (c.store r x).regs.loops = c.regs.loops := rfl
@[simp] theorem Core.store_regs_swz (c : Core) (r : VReg) (x : VR) : (c.store r x).regs.swz = c.regs.swz := rfl
@[simp] theorem Core.store_regs_strm (c : Core) (r : VReg) (x : VR) : (c.store r x).regs.strm = c.regs.strm := rfl
@[simp] theorem Core.store_regs_mods (c : Core) (r : VReg) (x : VR) : (c.store r x).regs.mods = c.regs.mods := rfl
@[simp] theorem Core.setPort_tmg (c : Core) (i : Fin 4) (p : Option StreamPort) : (c.setPort i p).tmg = c.tmg := rfl
@[simp] theorem Core.setPort_mode (c : Core) (i : Fin 4) (p : Option StreamPort) : (c.setPort i p).mode = c.mode := rfl
@[simp] theorem Core.setPort_wait (c : Core) (i : Fin 4) (p : Option StreamPort) : (c.setPort i p).wait = c.wait := rfl
@[simp] theorem Core.setPort_access (c : Core) (i : Fin 4) (p : Option StreamPort) : (c.setPort i p).access = c.access := rfl
@[simp] theorem Core.setPort_moved (c : Core) (i : Fin 4) (p : Option StreamPort) : (c.setPort i p).moved = c.moved := rfl
@[simp] theorem Core.setPort_slices (c : Core) (i : Fin 4) (p : Option StreamPort) : (c.setPort i p).slices = c.slices := rfl
@[simp] theorem Core.setPort_spad (c : Core) (i : Fin 4) (p : Option StreamPort) : (c.setPort i p).spad = c.spad := rfl
@[simp] theorem Core.setPort_spadBad (c : Core) (i : Fin 4) (p : Option StreamPort) : (c.setPort i p).spadBad = c.spadBad := rfl
@[simp] theorem Core.setPort_spadSoft (c : Core) (i : Fin 4) (p : Option StreamPort) : (c.setPort i p).spadSoft = c.spadSoft := rfl
@[simp] theorem Core.setPort_spadHard (c : Core) (i : Fin 4) (p : Option StreamPort) : (c.setPort i p).spadHard = c.spadHard := rfl
@[simp] theorem Core.setPort_cecnt (c : Core) (i : Fin 4) (p : Option StreamPort) : (c.setPort i p).cecnt = c.cecnt := rfl
@[simp] theorem Core.setPort_rccnt (c : Core) (i : Fin 4) (p : Option StreamPort) : (c.setPort i p).rccnt = c.rccnt := rfl
@[simp] theorem Core.setPort_ue (c : Core) (i : Fin 4) (p : Option StreamPort) : (c.setPort i p).ue = c.ue := rfl
@[simp] theorem Core.setPort_fail (c : Core) (i : Fin 4) (p : Option StreamPort) : (c.setPort i p).fail = c.fail := rfl
@[simp] theorem Core.setPort_ueCount (c : Core) (i : Fin 4) (p : Option StreamPort) : (c.setPort i p).ueCount = c.ueCount := rfl
@[simp] theorem Core.setPort_ueSeen (c : Core) (i : Fin 4) (p : Option StreamPort) : (c.setPort i p).ueSeen = c.ueSeen := rfl
@[simp] theorem Core.setPort_lt (c : Core) (i : Fin 4) (p : Option StreamPort) : (c.setPort i p).lt = c.lt := rfl
@[simp] theorem Core.setPort_ft (c : Core) (i : Fin 4) (p : Option StreamPort) : (c.setPort i p).ft = c.ft := rfl
@[simp] theorem Core.setPort_pmsel (c : Core) (i : Fin 4) (p : Option StreamPort) : (c.setPort i p).pmsel = c.pmsel := rfl
@[simp] theorem Core.setPort_pmc (c : Core) (i : Fin 4) (p : Option StreamPort) : (c.setPort i p).pmc = c.pmc := rfl
@[simp] theorem Core.setPort_counts (c : Core) (i : Fin 4) (p : Option StreamPort) : (c.setPort i p).counts = c.counts := rfl
@[simp] theorem Core.setPort_pmcTick (c : Core) (i : Fin 4) (p : Option StreamPort) : (c.setPort i p).pmcTick = c.pmcTick := rfl
@[simp] theorem Core.setPort_root (c : Core) (i : Fin 4) (p : Option StreamPort) : (c.setPort i p).root = c.root := rfl
@[simp] theorem Core.setPort_xlate (c : Core) (i : Fin 4) (p : Option StreamPort) : (c.setPort i p).xlate = c.xlate := rfl
@[simp] theorem Core.setPort_vsid (c : Core) (i : Fin 4) (p : Option StreamPort) : (c.setPort i p).vsid = c.vsid := rfl
@[simp] theorem Core.setPort_fbpop1 (c : Core) (i : Fin 4) (p : Option StreamPort) : (c.setPort i p).fbpop1 = c.fbpop1 := rfl
@[simp] theorem Core.setPort_comm (c : Core) (i : Fin 4) (p : Option StreamPort) : (c.setPort i p).comm = c.comm := rfl
@[simp] theorem Core.setPort_eng (c : Core) (i : Fin 4) (p : Option StreamPort) : (c.setPort i p).eng = c.eng := rfl
@[simp] theorem Core.setPort_lid (c : Core) (i : Fin 4) (p : Option StreamPort) : (c.setPort i p).lid = c.lid := rfl
@[simp] theorem Core.setPort_task (c : Core) (i : Fin 4) (p : Option StreamPort) : (c.setPort i p).task = c.task := rfl
@[simp] theorem Core.setPort_doms (c : Core) (i : Fin 4) (p : Option StreamPort) : (c.setPort i p).doms = c.doms := rfl
@[simp] theorem Core.setPort_ckpt (c : Core) (i : Fin 4) (p : Option StreamPort) : (c.setPort i p).ckpt = c.ckpt := rfl
@[simp] theorem Core.setPort_idleSince (c : Core) (i : Fin 4) (p : Option StreamPort) : (c.setPort i p).idleSince = c.idleSince := rfl
@[simp] theorem Core.setPort_widened (c : Core) (i : Fin 4) (p : Option StreamPort) : (c.setPort i p).widened = c.widened := rfl
@[simp] theorem Core.setPort_slotctl (c : Core) (i : Fin 4) (p : Option StreamPort) : (c.setPort i p).slotctl = c.slotctl := rfl
@[simp] theorem Core.setPort_installing (c : Core) (i : Fin 4) (p : Option StreamPort) : (c.setPort i p).installing = c.installing := rfl
@[simp] theorem Core.setPort_saving (c : Core) (i : Fin 4) (p : Option StreamPort) : (c.setPort i p).saving = c.saving := rfl
@[simp] theorem Core.setPort_ctag (c : Core) (i : Fin 4) (p : Option StreamPort) : (c.setPort i p).ctag = c.ctag := rfl
@[simp] theorem Core.setPort_waitStall (c : Core) (i : Fin 4) (p : Option StreamPort) : (c.setPort i p).waitStall = c.waitStall := rfl
@[simp] theorem Core.setPort_yieldReq (c : Core) (i : Fin 4) (p : Option StreamPort) : (c.setPort i p).yieldReq = c.yieldReq := rfl
@[simp] theorem Core.setPort_errStop (c : Core) (i : Fin 4) (p : Option StreamPort) : (c.setPort i p).errStop = c.errStop := rfl
@[simp] theorem Core.setPort_vecBad (c : Core) (i : Fin 4) (p : Option StreamPort) : (c.setPort i p).vecBad = c.vecBad := rfl
@[simp] theorem Core.setPort_behind (c : Core) (i : Fin 4) (p : Option StreamPort) : (c.setPort i p).behind = c.behind := rfl
@[simp] theorem Core.setPort_owes (c : Core) (i : Fin 4) (p : Option StreamPort) : (c.setPort i p).owes = c.owes := rfl
@[simp] theorem Core.setPort_ahead (c : Core) (i : Fin 4) (p : Option StreamPort) : (c.setPort i p).ahead = c.ahead := rfl
@[simp] theorem Core.setPort_haltBy (c : Core) (i : Fin 4) (p : Option StreamPort) : (c.setPort i p).haltBy = c.haltBy := rfl
@[simp] theorem Core.setPort_regs_pc (c : Core) (i : Fin 4) (p : Option StreamPort) : (c.setPort i p).regs.pc = c.regs.pc := rfl
@[simp] theorem Core.setPort_regs_g (c : Core) (i : Fin 4) (p : Option StreamPort) : (c.setPort i p).regs.g = c.regs.g := rfl
@[simp] theorem Core.setPort_regs_p (c : Core) (i : Fin 4) (p : Option StreamPort) : (c.setPort i p).regs.p = c.regs.p := rfl
@[simp] theorem Core.setPort_regs_k (c : Core) (i : Fin 4) (p : Option StreamPort) : (c.setPort i p).regs.k = c.regs.k := rfl
@[simp] theorem Core.setPort_regs_v (c : Core) (i : Fin 4) (p : Option StreamPort) : (c.setPort i p).regs.v = c.regs.v := rfl
@[simp] theorem Core.setPort_regs_trap (c : Core) (i : Fin 4) (p : Option StreamPort) : (c.setPort i p).regs.trap = c.regs.trap := rfl
@[simp] theorem Core.setPort_regs_fp (c : Core) (i : Fin 4) (p : Option StreamPort) : (c.setPort i p).regs.fp = c.regs.fp := rfl
@[simp] theorem Core.setPort_regs_loops (c : Core) (i : Fin 4) (p : Option StreamPort) : (c.setPort i p).regs.loops = c.regs.loops := rfl
@[simp] theorem Core.setPort_regs_swz (c : Core) (i : Fin 4) (p : Option StreamPort) : (c.setPort i p).regs.swz = c.regs.swz := rfl
@[simp] theorem Core.setPort_regs_mods (c : Core) (i : Fin 4) (p : Option StreamPort) : (c.setPort i p).regs.mods = c.regs.mods := rfl
@[simp] theorem Core.setTrap_trap (c : Core) (f : TrapRegs → TrapRegs) : (c.setTrap f).regs.trap = f c.regs.trap := rfl
@[simp] theorem Core.setFp_fp (c : Core) (f : FpRegs → FpRegs) : (c.setFp f).regs.fp = f c.regs.fp := rfl
@[simp] theorem Core.setTmg_tmg (c : Core) (f : Timing → Timing) : (c.setTmg f).tmg = f c.tmg := rfl
@[simp] theorem Core.setPc_pc (c : Core) (a : Word) : (c.setPc a).regs.pc = a := rfl

/-! ## Registers (R11) -/

@[simp] theorem Core.rdG_zero (c : Core) : c.rdG 0 = 0 := rfl
@[simp] theorem Core.rdP_zero (c : Core) : c.rdP 0 = true := rfl
@[simp] theorem Core.rdK_zero (c : Core) : c.rdK 0 = BitVec.allOnes 128 := rfl
theorem Core.wrG_zero (c : Core) (x : Word) : c.wrG 0 x = c := rfl
theorem Core.wrP_zero (c : Core) (b : Bool) : c.wrP 0 b = c := rfl
theorem Core.wrK_zero (c : Core) (m : Mask) : c.wrK 0 m = c := rfl
theorem Core.rdG_wrG (c : Core) (r q : GReg) (x : Word) : (c.wrG r x).rdG q = if q = r ∧ r ≠ 0 then x else c.rdG q := by
  by_cases hr : r = 0
  · subst hr; simp [Core.wrG]
  · by_cases hq : q = 0
    · subst hq; simp [Core.rdG, Ne.symm hr]
    · by_cases h : q = r
      · subst h; simp [Core.rdG, Core.wrG, hr]
      · simp [Core.rdG, Core.wrG, hr, hq, h, Fin.val_ne_of_ne (Ne.symm h)]
theorem Core.rdV_wrV (c : Core) (r q : VReg) (x : VR) : (c.wrV r x).rdV q = if q = r then x else c.rdV q := by
  by_cases h : q = r
  · subst h; simp [Core.rdV, Core.wrV]
  · simp [Core.rdV, Core.wrV, h, Fin.val_ne_of_ne (Ne.symm h)]
@[simp] theorem Core.rdG_wrP (c : Core) (r : PReg) (q : GReg) (b : Bool) : (c.wrP r b).rdG q = c.rdG q := by
  unfold Core.wrP; split <;> rfl
@[simp] theorem Core.rdG_wrK (c : Core) (r : KReg) (q : GReg) (m : Mask) : (c.wrK r m).rdG q = c.rdG q := by
  unfold Core.wrK; split <;> rfl
@[simp] theorem Core.rdG_wrV (c : Core) (r : VReg) (q : GReg) (x : VR) : (c.wrV r x).rdG q = c.rdG q := rfl
@[simp] theorem Core.rdV_wrG (c : Core) (r : GReg) (q : VReg) (x : Word) : (c.wrG r x).rdV q = c.rdV q := by
  unfold Core.wrG; split <;> rfl

end

end Sys2Proof.Machine
end

