-- ==== Sys2Proof/Laws/Issue.lean ====
section
/-! SUPPORT. What issuing a word, and the shared forms built on it, can do: one lemma for each way it ends. -/
namespace Sys2Proof.Machine
open Sys2Proof

/-! ## The ends of a word -/

@[simp] theorem finish_done (h : Hdr) (t : Nat) (s : State) :
    finish h t (.done s) = .next (s.setCc (s.cc.complete t h.stall.toNat)) := rfl
@[simp] theorem finish_jump (h : Hdr) (t : Nat) (s : State) (a : Word) (lx : Bool) :
    finish h t (.jump s a lx) = .next (s.setCc (s.cc.transfer t h.stall.toNat a lx)) := rfl
@[simp] theorem finish_trap (h : Hdr) (t : Nat) (s : State) (k : Cause) (x : Word) (m : BitVec 3) :
    finish h t (.trap s k x m) = .next (s.takeTrap s.cur k x m) := rfl
@[simp] theorem finish_stall (h : Hdr) (t : Nat) (s : State) :
    finish h t (.stall s) = .next (s.setCc (s.cc.setTmg fun m => { m with clk := t + 1 })) := rfl
@[simp] theorem finish_within (h : Hdr) (t : Nat) (s : State) : finish h t (.within s) = .next (s.setCc (s.cc.waitInside t)) := rfl
@[simp] theorem finish_fault (h : Hdr) (t : Nat) (f : Fault) : finish h t (.fault f) = .fault f := rfl

/-- A word ends with a fault only where its effect says so. -/
theorem finish_eq_fault {h : Hdr} {t : Nat} {e : Eff} {f : Fault} (hf : finish h t e = .fault f) : e = .fault f := by
  cases e with
  | fault g => simpa [finish] using hf
  | point s =>
    simp only [finish] at hf
    split at hf <;> simp at hf
  | _ => simp [finish] at hf

/-- No word is refused. -/
theorem finish_ne_refused (h : Hdr) (t : Nat) (e : Eff) (r : Refusal) : finish h t e ≠ .refused r := by
  cases e with
  | point s =>
    simp only [finish]
    split <;> simp
  | _ => simp [finish]

/-! ## A word held at issue -/

@[simp] theorem Eff.unaged_done (o : List (VReg × Nat)) (s : State) : (Eff.done s).unaged o = .done s := rfl
@[simp] theorem Eff.unaged_doneAt (o : List (VReg × Nat)) (s : State) (a : Word) : (Eff.doneAt s a).unaged o = .doneAt s a := rfl
@[simp] theorem Eff.unaged_jump (o : List (VReg × Nat)) (s : State) (a : Word) (lx : Bool) :
    (Eff.jump s a lx).unaged o = .jump s a lx := rfl
@[simp] theorem Eff.unaged_trap (o : List (VReg × Nat)) (s : State) (k : Cause) (x : Word) (m : BitVec 3) :
    (Eff.trap s k x m).unaged o = .trap s k x m := rfl
@[simp] theorem Eff.unaged_sleep (o : List (VReg × Nat)) (s : State) : (Eff.sleep s).unaged o = .sleep s := rfl
@[simp] theorem Eff.unaged_fault (o : List (VReg × Nat)) (f : Fault) : (Eff.fault f).unaged o = .fault f := rfl
@[simp] theorem Eff.unaged_stall (o : List (VReg × Nat)) (s : State) :
    (Eff.stall s).unaged o = .stall (s.setCc (s.cc.setTmg fun m => { m with obuf := o })) := rfl

/-! ## Issue -/

/-- A word that has not issued, whose guard is true up to its issue and which waits for no answer, performs its effect at its issue
clk. -/
theorem issueWord_issues {h : Hdr} {d sa sb : BitVec 7} {u : Uses} {eff : State → Eff} {s : State}
    (hi : s.cc.tmg.inside = none) (hg : s.cc.falseAt h u = none) (ha : (s.cc.settle (s.cc.guardClk h)).awaits u = false) :
    issueWord h d sa sb u eff s =
      finish h (s.cc.atIssue h d sa sb u).tmg.clk
        ((eff (s.setCc (s.cc.atIssue h d sa sb u))).unaged (s.cc.settle (s.cc.atIssue h d sa sb u).tmg.clk).tmg.obuf) := by
  simp [issueWord, hi, hg, ha]

/-- Such a word that waits for an answer tries again a clk later. -/
theorem issueWord_waits {h : Hdr} {d sa sb : BitVec 7} {u : Uses} {eff : State → Eff} {s : State}
    (hi : s.cc.tmg.inside = none) (hg : s.cc.falseAt h u = none) (ha : (s.cc.settle (s.cc.guardClk h)).awaits u = true) :
    issueWord h d sa sb u eff s = .next (s.setCc (s.cc.retry (s.cc.guardClk h))) := by
  simp [issueWord, hi, hg, ha]

/-- A word whose guard is false at a clk before its issue only takes that clk. -/
theorem issueWord_skips {h : Hdr} {d sa sb : BitVec 7} {u : Uses} {eff : State → Eff} {s : State} {t : Nat}
    (hi : s.cc.tmg.inside = none) (hg : s.cc.falseAt h u = some t) :
    issueWord h d sa sb u eff s = .next (s.setCc (s.cc.skip t h.stall.toNat)) := by
  simp [issueWord, hi, hg]

/-- A word that has issued and waits inside its effect goes on with it. -/
theorem issueWord_goesOn {h : Hdr} {d sa sb : BitVec 7} {u : Uses} {eff : State → Eff} {s : State} {t : Nat}
    (hi : s.cc.tmg.inside = some t) :
    issueWord h d sa sb u eff s =
      finish h s.cc.tmg.clk ((eff (s.setCc (s.cc.goOn h))).unaged s.cc.tmg.obuf) := by
  simp [issueWord, hi]

/-- What a word answers: never a refusal. -/
theorem issueWord_ne_refused (h : Hdr) (d sa sb : BitVec 7) (u : Uses) (eff : State → Eff) (s : State) (r : Refusal) :
    issueWord h d sa sb u eff s ≠ .refused r := by
  simp only [issueWord]
  split
  · exact finish_ne_refused _ _ _ _
  · split
    · simp
    · split
      · simp
      · exact finish_ne_refused _ _ _ _

/-- A word of its own core alone: at issue it makes its new core, or traps. -/
theorem issueCore_issues {h : Hdr} {d sa sb : BitVec 7} {u : Uses} {eff : Core → CoreEff} {s : State}
    (hi : s.cc.tmg.inside = none) (hg : s.cc.falseAt h u = none) (ha : (s.cc.settle (s.cc.guardClk h)).awaits u = false) :
    issueCore h d sa sb u eff s =
      match eff (s.cc.atIssue h d sa sb u) with
      | .ok c => .next (s.setCc (c.complete (s.cc.atIssue h d sa sb u).tmg.clk h.stall.toNat))
      | .trap k x => .next ((s.setCc (s.cc.atIssue h d sa sb u)).takeTrap s.cur k x 0) := by
  rw [issueCore, issueWord_issues hi hg ha]
  simp only [State.cc_setCc]
  cases eff (s.cc.atIssue h d sa sb u) <;> simp

/-- A scalar form writes its one result and completes. -/
theorem scalarForm_issues {h : Hdr} {srcs : List (BitVec 7)} {lat : Nat} {dst : BitVec 7} {val : Core → Wr} {s : State}
    (hi : s.cc.tmg.inside = none) (hg : s.cc.falseAt h { srcs := srcs, dsts := [dst] } = none)
    (ha : (s.cc.settle (s.cc.guardClk h)).awaits { srcs := srcs, dsts := [dst] } = false) :
    scalarForm h srcs lat dst val s =
      .next (s.setCc (((s.cc.atIssue h 0 0 0 { srcs := srcs, dsts := [dst] }).result
        (s.cc.atIssue h 0 0 0 { srcs := srcs, dsts := [dst] }).tmg.clk lat
        (val (s.cc.atIssue h 0 0 0 { srcs := srcs, dsts := [dst] }))).complete
        (s.cc.atIssue h 0 0 0 { srcs := srcs, dsts := [dst] }).tmg.clk h.stall.toNat)) := by
  rw [scalarForm, issueCore_issues hi hg ha]

end Sys2Proof.Machine
end

