-- ==== Sys2Proof/Laws/Exec.lean ====
section
/-! SUPPORT. What `exec` is on each constructor of Instr: the meaning that its arm calls. -/
namespace Sys2Proof.Machine
open Sys2Proof

section
set_option Elab.async false

@[simp] theorem exec_dividerResult (core : Nat) (s : State) :
    exec (.dividerResult core) s = execDividerResult core s := rfl
@[simp] theorem exec_evcWrite (cl : Nat) (e : Fin 64) (x : BitVec 64) (s : State) :
    exec (.evcWrite cl e x) s = execEvcWrite cl e x s := rfl
@[simp] theorem exec_bcfgWrite (cl : Nat) (b : Fin 32) (x : BitVec 64) (s : State) :
    exec (.bcfgWrite cl b x) s = execBcfgWrite cl b x s := rfl
@[simp] theorem exec_globalAccessComplete (core : Nat) (s : State) :
    exec (.globalAccessComplete core) s = execGlobalAccessComplete core s := rfl
@[simp] theorem exec_pageWalk (die : Nat) (vsid : BitVec 8) (granule : Nat) (s : State) :
    exec (.pageWalk die vsid granule) s = execPageWalk die vsid granule s := rfl
@[simp] theorem exec_l1dEviction (cl : Nat) (line : Nat) (swm : Bool) (s : State) :
    exec (.l1dEviction cl line swm) s = execL1dEviction cl line swm s := rfl
@[simp] theorem exec_eventMessage (m : EvMsg) (s : State) :
    exec (.eventMessage m) s = execEventMessage m s := rfl
@[simp] theorem exec_barrierArrivalMessage (m : BarArrival) (s : State) :
    exec (.barrierArrivalMessage m) s = execBarrierArrivalMessage m s := rfl
@[simp] theorem exec_barrierReleaseMessage (m : BarRelease) (s : State) :
    exec (.barrierReleaseMessage m) s = execBarrierReleaseMessage m s := rfl
@[simp] theorem exec_channelClaim (m : Claim) (s : State) :
    exec (.channelClaim m) s = execChannelClaim m s := rfl
@[simp] theorem exec_channelClaimAnswer (m : Claim) (granted : Bool) (s : State) :
    exec (.channelClaimAnswer m granted) s = execChannelClaimAnswer m granted s := rfl
@[simp] theorem exec_channelMessageLand (core : Nat) (slot : Fin 16) (m : ChanMsg) (s : State) :
    exec (.channelMessageLand core slot m) s = execChannelMessageLand core slot m s := rfl
@[simp] theorem exec_channelGrant (core : Nat) (ch : Fin 16) (s : State) :
    exec (.channelGrant core ch) s = execChannelGrant core ch s := rfl
@[simp] theorem exec_timedMessageLand (core : Nat) (land : Fin 16) (m : ChanMsg) (s : State) :
    exec (.timedMessageLand core land m) s = execTimedMessageLand core land m s := rfl
@[simp] theorem exec_streamChunkArrive (core : Nat) (port : Fin 4) (s : State) :
    exec (.streamChunkArrive core port) s = execStreamChunkArrive core port s := rfl
@[simp] theorem exec_arrayOpStart (cl : Nat) (sh : Fin 2) (s : State) :
    exec (.arrayOpStart cl sh) s = execArrayOpStart cl sh s := rfl
@[simp] theorem exec_arrayRowWrite (cl : Nat) (sh : Fin 2) (parityBad : Bool) (s : State) :
    exec (.arrayRowWrite cl sh parityBad) s = execArrayRowWrite cl sh parityBad s := rfl
@[simp] theorem exec_arrayOpFinish (cl : Nat) (sh : Fin 2) (s : State) :
    exec (.arrayOpFinish cl sh) s = execArrayOpFinish cl sh s := rfl
@[simp] theorem exec_scaleWriteRelease (cl : Nat) (sh : Fin 2) (s : State) :
    exec (.scaleWriteRelease cl sh) s = execScaleWriteRelease cl sh s := rfl
@[simp] theorem exec_commandComplete (core : Nat) (cls : Fin 4) (seq : Nat) (s : State) :
    exec (.commandComplete core cls seq) s = execCommandComplete core cls seq s := rfl
@[simp] theorem exec_commandFail (core : Nat) (cls : Fin 4) (seq : Nat) (s : State) :
    exec (.commandFail core cls seq) s = execCommandFail core cls seq s := rfl
@[simp] theorem exec_collectiveGeneration (lid : Nat) (vdev : Nat) (gid : BitVec 32) (s : State) :
    exec (.collectiveGeneration lid vdev gid) s = execCollectiveGeneration lid vdev gid s := rfl
@[simp] theorem exec_spsumPairAdd (n : Nat) (s : State) :
    exec (.spsumPairAdd n) s = execSpsumPairAdd n s := rfl
@[simp] theorem exec_storageCompletion (core : Nat) (seq : Nat) (mediaError : Bool) (s : State) :
    exec (.storageCompletion core seq mediaError) s = execStorageCompletion core seq mediaError s := rfl
@[simp] theorem exec_networkReceive (v : Fin 32) (ep : Fin 256) (immd : BitVec 64) (data : List (BitVec 8)) (s : State) :
    exec (.networkReceive v ep immd data) s = execNetworkReceive v ep immd data s := rfl
@[simp] theorem exec_xbarPulseArrive (cl : Nat) (s : State) :
    exec (.xbarPulseArrive cl) s = execXbarPulseArrive cl s := rfl
@[simp] theorem exec_yieldRequest (core : Nat) (s : State) :
    exec (.yieldRequest core) s = execYieldRequest core s := rfl
@[simp] theorem exec_graceExpiry (cl : Nat) (s : State) :
    exec (.graceExpiry cl) s = execGraceExpiry cl s := rfl
@[simp] theorem exec_launchWindowWrite (v : Fin 32) (req : Nat) (off : BitVec 7) (data : List (BitVec 8)) (s : State) :
    exec (.launchWindowWrite v req off data) s = execLaunchWindowWrite v req off data s := rfl
@[simp] theorem exec_launchActivate (v : Fin 32) (lid : Nat) (s : State) :
    exec (.launchActivate v lid) s = execLaunchActivate v lid s := rfl
@[simp] theorem exec_launchComplete (v : Fin 32) (lid : Nat) (s : State) :
    exec (.launchComplete v lid) s = execLaunchComplete v lid s := rfl
@[simp] theorem exec_taskPop (core : Nat) (s : State) :
    exec (.taskPop core) s = execTaskPop core s := rfl
@[simp] theorem exec_idleSearchWiden (core : Nat) (s : State) :
    exec (.idleSearchWiden core) s = execIdleSearchWiden core s := rfl
@[simp] theorem exec_queueAging (s : State) :
    exec (.queueAging) s = execQueueAging s := rfl
@[simp] theorem exec_domainCharge (s : State) :
    exec (.domainCharge) s = execDomainCharge s := rfl
@[simp] theorem exec_auditReplay (sig2 : BitVec 64) (sig3 : BitVec 64) (unit2 : SuspUnit) (unit3 : SuspUnit) (s : State) :
    exec (.auditReplay sig2 sig3 unit2 unit3) s = execAuditReplay sig2 sig3 unit2 unit3 s := rfl
@[simp] theorem exec_saddleTick (s : State) :
    exec (.saddleTick) s = execSaddleTick s := rfl
@[simp] theorem exec_packetEject (id : Nat) (s : State) :
    exec (.packetEject id) s = execPacketEject id s := rfl
@[simp] theorem exec_colChannelEscape (id : Nat) (s : State) :
    exec (.colChannelEscape id) s = execColChannelEscape id s := rfl
@[simp] theorem exec_dataFrameReceive (link : Fin 50) (dir : Fin 2) (f : Frame) (s : State) :
    exec (.dataFrameReceive link dir f) s = execDataFrameReceive link dir f s := rfl
@[simp] theorem exec_replayRequest (link : Fin 50) (dir : Fin 2) (acke : BitVec 16) (s : State) :
    exec (.replayRequest link dir acke) s = execReplayRequest link dir acke s := rfl
@[simp] theorem exec_probeTimeout (link : Fin 50) (dir : Fin 2) (s : State) :
    exec (.probeTimeout link dir) s = execProbeTimeout link dir s := rfl
@[simp] theorem exec_probe (link : Fin 50) (dir : Fin 2) (s : State) :
    exec (.probe link dir) s = execProbe link dir s := rfl
@[simp] theorem exec_digest (link : Fin 50) (dir : Fin 2) (dseq : BitVec 16) (dig : BitVec 64) (s : State) :
    exec (.digest link dir dseq dig) s = execDigest link dir dseq dig s := rfl
@[simp] theorem exec_resetRequest (link : Fin 50) (dir : Fin 2) (acke : BitVec 16) (s : State) :
    exec (.resetRequest link dir acke) s = execResetRequest link dir acke s := rfl
@[simp] theorem exec_linkRetrain (link : Fin 50) (lanes : BitVec 16) (s : State) :
    exec (.linkRetrain link lanes) s = execLinkRetrain link lanes s := rfl
@[simp] theorem exec_linkReroute (s : State) :
    exec (.linkReroute) s = execLinkReroute s := rfl
@[simp] theorem exec_diagnosisVote (u : FenceUnit) (vote0 : Bool) (vote1 : Bool) (peer : Option Bool) (s : State) :
    exec (.diagnosisVote u vote0 vote1 peer) s = execDiagnosisVote u vote0 vote1 peer s := rfl
@[simp] theorem exec_dieTakeover (pdie : Fin 9) (remote : Option (Fin 16)) (s : State) :
    exec (.dieTakeover pdie remote) s = execDieTakeover pdie remote s := rfl
@[simp] theorem exec_dieMapFlip (s : State) :
    exec (.dieMapFlip) s = execDieMapFlip s := rfl
@[simp] theorem exec_peerWindowAccess (v : Fin 32) (req : Nat) (off : BitVec 36) (a : PortAccess) (s : State) :
    exec (.peerWindowAccess v req off a) s = execPeerWindowAccess v req off a s := rfl
@[simp] theorem exec_postedWriteArrive (v : Fin 32) (req : Nat) (s : State) :
    exec (.postedWriteArrive v req) s = execPostedWriteArrive v req s := rfl
@[simp] theorem exec_cxlMemAccess (off : Nat) (a : PortAccess) (s : State) :
    exec (.cxlMemAccess off a) s = execCxlMemAccess off a s := rfl
@[simp] theorem exec_fabricRecall (line : Nat) (invalidate : Bool) (s : State) :
    exec (.fabricRecall line invalidate) s = execFabricRecall line invalidate s := rfl
@[simp] theorem exec_remoteAccessArrive (port : Nat) (pa : BitVec 47) (a : PortAccess) (s : State) :
    exec (.remoteAccessArrive port pa a) s = execRemoteAccessArrive port pa a s := rfl
@[simp] theorem exec_layoutRequest (sp : Fin 2) (s : State) :
    exec (.layoutRequest sp) s = execLayoutRequest sp s := rfl
@[simp] theorem exec_layoutFlip (s : State) :
    exec (.layoutFlip) s = execLayoutFlip s := rfl
@[simp] theorem exec_protectionRequest (sp : Fin 2) (peers : List ProtReq) (s : State) :
    exec (.protectionRequest sp peers) s = execProtectionRequest sp peers s := rfl
@[simp] theorem exec_attestationRequest (sp : Fin 2) (s : State) :
    exec (.attestationRequest sp) s = execAttestationRequest sp s := rfl
@[simp] theorem exec_serverMaskRequest (sp : Fin 2) (s : State) :
    exec (.serverMaskRequest sp) s = execServerMaskRequest sp s := rfl
@[simp] theorem exec_spWatchdogReset (sp : Fin 2) (s : State) :
    exec (.spWatchdogReset sp) s = execSpWatchdogReset sp s := rfl
@[simp] theorem exec_spLoss (sp : Fin 2) (s : State) :
    exec (.spLoss sp) s = execSpLoss sp s := rfl
@[simp] theorem exec_vdSnapshot (v : Fin 32) (s : State) :
    exec (.vdSnapshot v) s = execVdSnapshot v s := rfl
@[simp] theorem exec_epochStart (gid : BitVec 32) (data : List MemberSymbols) (s : State) :
    exec (.epochStart gid data) s = execEpochStart gid data s := rfl
@[simp] theorem exec_epochCommit (gid : BitVec 32) (s : State) :
    exec (.epochCommit gid) s = execEpochCommit gid s := rfl
@[simp] theorem exec_groupRebuild (gid : BitVec 32) (lost : List Nat) (symbols : List MemberSymbols) (s : State) :
    exec (.groupRebuild gid lost symbols) s = execGroupRebuild gid lost symbols s := rfl
@[simp] theorem exec_packageLoss (pkg : Fin 16) (newId : BitVec 10) (s : State) :
    exec (.packageLoss pkg newId) s = execPackageLoss pkg newId s := rfl
@[simp] theorem exec_coreHangTimeout (core : Nat) (s : State) :
    exec (.coreHangTimeout core) s = execCoreHangTimeout core s := rfl
@[simp] theorem exec_coreFailure (core : Nat) (s : State) :
    exec (.coreFailure core) s = execCoreFailure core s := rfl
@[simp] theorem exec_clusterFailure (cl : Nat) (s : State) :
    exec (.clusterFailure cl) s = execClusterFailure cl s := rfl
@[simp] theorem exec_l2SliceFence (die : Fin 9) (slice : Fin 48) (s : State) :
    exec (.l2SliceFence die slice) s = execL2SliceFence die slice s := rfl
@[simp] theorem exec_stackLoss (k : Fin 16) (s : State) :
    exec (.stackLoss k) s = execStackLoss k s := rfl
@[simp] theorem exec_ioDieLoss (n : Fin 2) (s : State) :
    exec (.ioDieLoss n) s = execIoDieLoss n s := rfl
@[simp] theorem exec_hbmScrub (found : List RowEvent) (s : State) :
    exec (.hbmScrub found) s = execHbmScrub found s := rfl
@[simp] theorem exec_hbmRowRepair (k : Fin 16) (s : State) :
    exec (.hbmRowRepair k) s = execHbmRowRepair k s := rfl
@[simp] theorem exec_scoreDecay (s : State) :
    exec (.scoreDecay) s = execScoreDecay s := rfl
@[simp] theorem exec_unitDrain (u : SuspUnit) (s : State) :
    exec (.unitDrain u) s = execUnitDrain u s := rfl
@[simp] theorem exec_unitTestDone (u : SuspUnit) (pass : Bool) (s : State) :
    exec (.unitTestDone u pass) s = execUnitTestDone u pass s := rfl
@[simp] theorem exec_bringUp (passing : BitVec 9) (supply : List (List (BitVec 8))) (fuseless : List (Fin 16 × BitVec 4 × BitVec 4)) (s : State) :
    exec (.bringUp passing supply fuseless) s = execBringUp passing supply fuseless s := rfl
@[simp] theorem exec_vcoreDroop (cl : Nat) (mV : Nat) (s : State) :
    exec (.vcoreDroop cl mV) s = execVcoreDroop cl mV s := rfl
@[simp] theorem exec_thermalThrottle (cl : Nat) (celsius : Int) (s : State) :
    exec (.thermalThrottle cl celsius) s = execThermalThrottle cl celsius s := rfl
@[simp] theorem exec_powerCap (milliwatt : Nat) (s : State) :
    exec (.powerCap milliwatt) s = execPowerCap milliwatt s := rfl
@[simp] theorem exec_thermalShutdown (celsius : Int) (s : State) :
    exec (.thermalShutdown celsius) s = execThermalShutdown celsius s := rfl
@[simp] theorem exec_packageReset (s : State) :
    exec (.packageReset) s = execPackageReset s := rfl
@[simp] theorem exec_protectionGroupTimeout (gid : BitVec 32) (s : State) :
    exec (.protectionGroupTimeout gid) s = execProtectionGroupTimeout gid s := rfl
@[simp] theorem exec_pwctlWrite (v : Fin 32) (x : BitVec 64) (s : State) :
    exec (.pwctlWrite v x) s = execPwctlWrite v x s := rfl
@[simp] theorem exec_vcoreRecovery (cl : Nat) (mV : Nat) (s : State) :
    exec (.vcoreRecovery cl mV) s = execVcoreRecovery cl mV s := rfl
@[simp] theorem exec_throttleRelease (cl : Nat) (celsius : Int) (s : State) :
    exec (.throttleRelease cl celsius) s = execThrottleRelease cl celsius s := rfl
@[simp] theorem exec_haltRestart (core : Nat) (s : State) :
    exec (.haltRestart core) s = execHaltRestart core s := rfl
@[simp] theorem exec_haltedPartitionEnd (p : Fin 64) (s : State) :
    exec (.haltedPartitionEnd p) s = execHaltedPartitionEnd p s := rfl
@[simp] theorem exec_remoteSpareLend (borrower : Fin 16) (s : State) :
    exec (.remoteSpareLend borrower) s = execRemoteSpareLend borrower s := rfl
@[simp] theorem exec_vdMigration (v : Fin 32) (cycleLast : BitVec 64) (saddleLast : BitVec 64) (s : State) :
    exec (.vdMigration v cycleLast saddleLast) s = execVdMigration v cycleLast saddleLast s := rfl
@[simp] theorem exec_nop (h : Hdr) (s : State) :
    exec (.nop h) s = execNop h s := rfl
@[simp] theorem exec_timed (h : Hdr) (s : State) :
    exec (.timed h) s = execTimed h s := rfl
@[simp] theorem exec_checked (h : Hdr) (s : State) :
    exec (.checked h) s = execChecked h s := rfl
@[simp] theorem exec_gang (h : Hdr) (base : BitVec 5) (num : BitVec 5) (s : State) :
    exec (.gang h base num) s = execGang h base num s := rfl
@[simp] theorem exec_gsplit (h : Hdr) (s : State) :
    exec (.gsplit h) s = execGsplit h s := rfl
@[simp] theorem exec_gjoin (h : Hdr) (s : State) :
    exec (.gjoin h) s = execGjoin h s := rfl
@[simp] theorem exec_ld (h : Hdr) (d : GReg) (a : GReg) (sz : BitVec 2) (zx : Bool) (imm : BitVec 32) (s : State) :
    exec (.ld h d a sz zx imm) s = execLd h d a sz zx imm s := rfl
@[simp] theorem exec_st (h : Hdr) (a : GReg) (b : GReg) (sz : BitVec 2) (imm : BitVec 32) (s : State) :
    exec (.st h a b sz imm) s = execSt h a b sz imm s := rfl
@[simp] theorem exec_vld (h : Hdr) (tag : BitVec 8) (d : VReg) (a : GReg) (x : BitVec 2) (imm : BitVec 32) (s : State) :
    exec (.vld h tag d a x imm) s = execVld h tag d a x imm s := rfl
@[simp] theorem exec_vst (h : Hdr) (a : GReg) (b : VReg) (x : BitVec 2) (imm : BitVec 32) (s : State) :
    exec (.vst h a b x imm) s = execVst h a b x imm s := rfl
@[simp] theorem exec_vldImg (h : Hdr) (d : VReg) (a : GReg) (x : BitVec 2) (imm : BitVec 32) (s : State) :
    exec (.vldImg h d a x imm) s = execVldImg h d a x imm s := rfl
@[simp] theorem exec_vstImg (h : Hdr) (a : GReg) (b : VReg) (x : BitVec 2) (imm : BitVec 32) (s : State) :
    exec (.vstImg h a b x imm) s = execVstImg h a b x imm s := rfl
@[simp] theorem exec_vldl (h : Hdr) (tag : BitVec 8) (d : VReg) (a : VReg) (km : KReg) (imm : BitVec 32) (s : State) :
    exec (.vldl h tag d a km imm) s = execVldl h tag d a km imm s := rfl
@[simp] theorem exec_vstl (h : Hdr) (a : VReg) (b : VReg) (km : KReg) (imm : BitVec 32) (s : State) :
    exec (.vstl h a b km imm) s = execVstl h a b km imm s := rfl
@[simp] theorem exec_vgath (h : Hdr) (tag : BitVec 8) (d : VReg) (a : GReg) (b : VReg) (km : KReg) (s : State) :
    exec (.vgath h tag d a b km) s = execVgath h tag d a b km s := rfl
@[simp] theorem exec_vscat (h : Hdr) (d : VReg) (a : GReg) (b : VReg) (km : KReg) (s : State) :
    exec (.vscat h d a b km) s = execVscat h d a b km s := rfl
@[simp] theorem exec_kld (h : Hdr) (d : KReg) (a : GReg) (imm : BitVec 32) (s : State) :
    exec (.kld h d a imm) s = execKld h d a imm s := rfl
@[simp] theorem exec_kst (h : Hdr) (a : GReg) (b : KReg) (imm : BitVec 32) (s : State) :
    exec (.kst h a b imm) s = execKst h a b imm s := rfl
@[simp] theorem exec_gld (h : Hdr) (d : GReg) (a : GReg) (sz : BitVec 2) (zx : Bool) (imm : BitVec 32) (s : State) :
    exec (.gld h d a sz zx imm) s = execGld h d a sz zx imm s := rfl
@[simp] theorem exec_gst (h : Hdr) (a : GReg) (b : GReg) (sz : BitVec 2) (imm : BitVec 32) (s : State) :
    exec (.gst h a b sz imm) s = execGst h a b sz imm s := rfl
@[simp] theorem exec_gldV (h : Hdr) (tag : BitVec 8) (d : VReg) (a : GReg) (x : BitVec 2) (imm : BitVec 32) (s : State) :
    exec (.gldV h tag d a x imm) s = execGldV h tag d a x imm s := rfl
@[simp] theorem exec_gstV (h : Hdr) (a : GReg) (b : VReg) (x : BitVec 2) (imm : BitVec 32) (s : State) :
    exec (.gstV h a b x imm) s = execGstV h a b x imm s := rfl
@[simp] theorem exec_gldImg (h : Hdr) (d : VReg) (a : GReg) (x : BitVec 2) (imm : BitVec 32) (s : State) :
    exec (.gldImg h d a x imm) s = execGldImg h d a x imm s := rfl
@[simp] theorem exec_gstImg (h : Hdr) (a : GReg) (b : VReg) (x : BitVec 2) (imm : BitVec 32) (s : State) :
    exec (.gstImg h a b x imm) s = execGstImg h a b x imm s := rfl
@[simp] theorem exec_rwb (h : Hdr) (a : GReg) (b : GReg) (s : State) :
    exec (.rwb h a b) s = execRwb h a b s := rfl
@[simp] theorem exec_rinv (h : Hdr) (a : GReg) (b : GReg) (s : State) :
    exec (.rinv h a b) s = execRinv h a b s := rfl
@[simp] theorem exec_rwbi (h : Hdr) (a : GReg) (b : GReg) (s : State) :
    exec (.rwbi h a b) s = execRwbi h a b s := rfl
@[simp] theorem exec_pref (h : Hdr) (a : GReg) (l2 : Bool) (imm : BitVec 32) (s : State) :
    exec (.pref h a l2 imm) s = execPref h a l2 imm s := rfl
@[simp] theorem exec_amo (h : Hdr) (op : BitVec 4) (d : GReg) (a : GReg) (b : GReg) (sz : BitVec 2) (scope : BitVec 3) (imm : BitVec 32) (s : State) :
    exec (.amo h op d a b sz scope imm) s = execAmo h op d a b sz scope imm s := rfl
@[simp] theorem exec_cas (h : Hdr) (d : GReg) (a : GReg) (b : GReg) (sz : BitVec 2) (scope : BitVec 3) (imm : BitVec 32) (s : State) :
    exec (.cas h d a b sz scope imm) s = execCas h d a b sz scope imm s := rfl
@[simp] theorem exec_red (h : Hdr) (op : BitVec 4) (a : GReg) (b : GReg) (sz : BitVec 2) (scope : BitVec 3) (imm : BitVec 32) (s : State) :
    exec (.red h op a b sz scope imm) s = execRed h op a b sz scope imm s := rfl
@[simp] theorem exec_evsigEv (h : Hdr) (tgt : Option GReg) (e : BitVec 6) (cnt : BitVec 16) (s : State) :
    exec (.evsigEv h tgt e cnt) s = execEvsigEv h tgt e cnt s := rfl
@[simp] theorem exec_evsigUnlock (h : Hdr) (m : BitVec 5) (s : State) :
    exec (.evsigUnlock h m) s = execEvsigUnlock h m s := rfl
@[simp] theorem exec_evsigPulse (h : Hdr) (c : BitVec 4) (cnt : BitVec 16) (s : State) :
    exec (.evsigPulse h c cnt) s = execEvsigPulse h c cnt s := rfl
@[simp] theorem exec_ldevWait (h : Hdr) (d : GReg) (e : BitVec 6) (s : State) :
    exec (.ldevWait h d e) s = execLdevWait h d e s := rfl
@[simp] theorem exec_ldevPoll (h : Hdr) (d : GReg) (e : BitVec 6) (s : State) :
    exec (.ldevPoll h d e) s = execLdevPoll h d e s := rfl
@[simp] theorem exec_ldevLock (h : Hdr) (d : GReg) (m : BitVec 5) (s : State) :
    exec (.ldevLock h d m) s = execLdevLock h d m s := rfl
@[simp] theorem exec_ldevTry (h : Hdr) (d : GReg) (m : BitVec 5) (s : State) :
    exec (.ldevTry h d m) s = execLdevTry h d m s := rfl
@[simp] theorem exec_bar (h : Hdr) (b : BitVec 5) (s : State) :
    exec (.bar h b) s = execBar h b s := rfl
@[simp] theorem exec_barss (h : Hdr) (b : BitVec 5) (s : State) :
    exec (.barss h b) s = execBarss h b s := rfl
@[simp] theorem exec_spred (h : Hdr) (d : PReg) (a : PReg) (isOr : Bool) (b : BitVec 5) (s : State) :
    exec (.spred h d a isOr b) s = execSpred h d a isOr b s := rfl
@[simp] theorem exec_fence (h : Hdr) (scope : BitVec 3) (paths : BitVec 8) (s : State) :
    exec (.fence h scope paths) s = execFence h scope paths s := rfl
@[simp] theorem exec_chdecl (h : Hdr) (d : GReg) (a : GReg) (ch : BitVec 4) (slot : BitVec 4) (s : State) :
    exec (.chdecl h d a ch slot) s = execChdecl h d a ch slot s := rfl
@[simp] theorem exec_chdeclRel (h : Hdr) (ch : BitVec 4) (s : State) :
    exec (.chdeclRel h ch) s = execChdeclRel h ch s := rfl
@[simp] theorem exec_chsend (h : Hdr) (b : VReg) (ch : BitVec 4) (s : State) :
    exec (.chsend h b ch) s = execChsend h b ch s := rfl
@[simp] theorem exec_chrecv (h : Hdr) (d : VReg) (slot : BitVec 4) (s : State) :
    exec (.chrecv h d slot) s = execChrecv h d slot s := rfl
@[simp] theorem exec_chpoll (h : Hdr) (d : VReg) (slot : BitVec 4) (pf : PReg) (s : State) :
    exec (.chpoll h d slot pf) s = execChpoll h d slot pf s := rfl
@[simp] theorem exec_phase (h : Hdr) (b : BitVec 5) (s : State) :
    exec (.phase h b) s = execPhase h b s := rfl
@[simp] theorem exec_tsend (h : Hdr) (b : VReg) (k : BitVec 8) (s : State) :
    exec (.tsend h b k) s = execTsend h b k s := rfl
@[simp] theorem exec_trecv (h : Hdr) (d : VReg) (k : BitVec 8) (s : State) :
    exec (.trecv h d k) s = execTrecv h d k s := rfl
@[simp] theorem exec_xcopy (h : Hdr) (d : GReg) (a : GReg) (imm : BitVec 32) (s : State) :
    exec (.xcopy h d a imm) s = execXcopy h d a imm s := rfl
@[simp] theorem exec_xgath (h : Hdr) (d : GReg) (a : GReg) (imm : BitVec 32) (s : State) :
    exec (.xgath h d a imm) s = execXgath h d a imm s := rfl
@[simp] theorem exec_xscat (h : Hdr) (d : GReg) (a : GReg) (imm : BitVec 32) (s : State) :
    exec (.xscat h d a imm) s = execXscat h d a imm s := rfl
@[simp] theorem exec_xfill (h : Hdr) (d : GReg) (a : GReg) (imm : BitVec 32) (s : State) :
    exec (.xfill h d a imm) s = execXfill h d a imm s := rfl
@[simp] theorem exec_xcoll (h : Hdr) (d : GReg) (a : GReg) (imm : BitVec 32) (s : State) :
    exec (.xcoll h d a imm) s = execXcoll h d a imm s := rfl
@[simp] theorem exec_xwait (h : Hdr) (a : GReg) (cls : Fin 4) (s : State) :
    exec (.xwait h a cls) s = execXwait h a cls s := rfl
@[simp] theorem exec_xseq (h : Hdr) (d : GReg) (cls : Fin 4) (s : State) :
    exec (.xseq h d cls) s = execXseq h d cls s := rfl
@[simp] theorem exec_xcancel (h : Hdr) (d : GReg) (a : GReg) (cls : Fin 4) (s : State) :
    exec (.xcancel h d a cls) s = execXcancel h d a cls s := rfl
@[simp] theorem exec_evxcfgC (h : Hdr) (a : GReg) (i : BitVec 4) (s : State) :
    exec (.evxcfgC h a i) s = execEvxcfgC h a i s := rfl
@[simp] theorem exec_evxcfgT (h : Hdr) (a : GReg) (b : GReg) (i : BitVec 5) (s : State) :
    exec (.evxcfgT h a b i) s = execEvxcfgT h a b i s := rfl
@[simp] theorem exec_evxcfgR (h : Hdr) (d : GReg) (term : Bool) (i : BitVec 5) (s : State) :
    exec (.evxcfgR h d term i) s = execEvxcfgR h d term i s := rfl
@[simp] theorem exec_evxarm (h : Hdr) (d : GReg) (a : GReg) (t : BitVec 5) (imm : BitVec 32) (s : State) :
    exec (.evxarm h d a t imm) s = execEvxarm h d a t imm s := rfl
@[simp] theorem exec_sring (h : Hdr) (d : GReg) (a : GReg) (r : BitVec 4) (s : State) :
    exec (.sring h d a r) s = execSring h d a r s := rfl
@[simp] theorem exec_nsend (h : Hdr) (d : GReg) (a : GReg) (imm : BitVec 32) (s : State) :
    exec (.nsend h d a imm) s = execNsend h d a imm s := rfl
@[simp] theorem exec_launch (h : Hdr) (d : GReg) (a : GReg) (imm : BitVec 32) (s : State) :
    exec (.launch h d a imm) s = execLaunch h d a imm s := rfl
@[simp] theorem exec_spawn (h : Hdr) (a : GReg) (pri : BitVec 3) (loc : Bool) (s : State) :
    exec (.spawn h a pri loc) s = execSpawn h a pri loc s := rfl
@[simp] theorem exec_spawnR (h : Hdr) (a : GReg) (b : GReg) (pri : BitVec 3) (loc : Bool) (s : State) :
    exec (.spawnR h a b pri loc) s = execSpawnR h a b pri loc s := rfl
@[simp] theorem exec_join (h : Hdr) (d : GReg) (a : GReg) (s : State) :
    exec (.join h d a) s = execJoin h d a s := rfl
@[simp] theorem exec_tend (h : Hdr) (s : State) :
    exec (.tend h) s = execTend h s := rfl
@[simp] theorem exec_wid (h : Hdr) (d : GReg) (s : State) :
    exec (.wid h d) s = execWid h d s := rfl
@[simp] theorem exec_widf (h : Hdr) (d : GReg) (a : GReg) (i : BitVec 3) (s : State) :
    exec (.widf h d a i) s = execWidf h d a i s := rfl
@[simp] theorem exec_corenum (h : Hdr) (d : GReg) (sel : BitVec 2) (s : State) :
    exec (.corenum h d sel) s = execCorenum h d sel s := rfl
@[simp] theorem exec_cdopen (h : Hdr) (a : GReg) (s : State) :
    exec (.cdopen h a) s = execCdopen h a s := rfl
@[simp] theorem exec_cdclose (h : Hdr) (d : GReg) (s : State) :
    exec (.cdclose h d) s = execCdclose h d s := rfl
@[simp] theorem exec_cdabort (h : Hdr) (s : State) :
    exec (.cdabort h) s = execCdabort h s := rfl
@[simp] theorem exec_cdabortRetry (h : Hdr) (s : State) :
    exec (.cdabortRetry h) s = execCdabortRetry h s := rfl
@[simp] theorem exec_cdkeep (h : Hdr) (a : GReg) (b : GReg) (snap : Bool) (s : State) :
    exec (.cdkeep h a b snap) s = execCdkeep h a b snap s := rfl
@[simp] theorem exec_cdsig (h : Hdr) (a : GReg) (b : GReg) (s : State) :
    exec (.cdsig h a b) s = execCdsig h a b s := rfl
@[simp] theorem exec_rdsys (h : Hdr) (d : GReg) (n : BitVec 12) (s : State) :
    exec (.rdsys h d n) s = execRdsys h d n s := rfl
@[simp] theorem exec_wrsys (h : Hdr) (a : GReg) (n : BitVec 12) (s : State) :
    exec (.wrsys h a n) s = execWrsys h a n s := rfl
@[simp] theorem exec_fbpop0Read (h : Hdr) (d : GReg) (s : State) :
    exec (.fbpop0Read h d) s = execFbpop0Read h d s := rfl
@[simp] theorem exec_derrpopRead (h : Hdr) (d : GReg) (s : State) :
    exec (.derrpopRead h d) s = execDerrpopRead h d s := rfl
@[simp] theorem exec_fbstatDropClear (h : Hdr) (a : GReg) (s : State) :
    exec (.fbstatDropClear h a) s = execFbstatDropClear h a s := rfl
@[simp] theorem exec_spdoorClear (h : Hdr) (a : GReg) (s : State) :
    exec (.spdoorClear h a) s = execSpdoorClear h a s := rfl
@[simp] theorem exec_slotctlGo (h : Hdr) (a : GReg) (s : State) :
    exec (.slotctlGo h a) s = execSlotctlGo h a s := rfl
@[simp] theorem exec_swzWrite (h : Hdr) (a : GReg) (i : Fin 4) (s : State) :
    exec (.swzWrite h a i) s = execSwzWrite h a i s := rfl
@[simp] theorem exec_zshareWrite (h : Hdr) (a : GReg) (s : State) :
    exec (.zshareWrite h a) s = execZshareWrite h a s := rfl
@[simp] theorem exec_syscall (h : Hdr) (imm : BitVec 32) (s : State) :
    exec (.syscall h imm) s = execSyscall h imm s := rfl
@[simp] theorem exec_bkpt (h : Hdr) (imm : BitVec 32) (s : State) :
    exec (.bkpt h imm) s = execBkpt h imm s := rfl
@[simp] theorem exec_xret (h : Hdr) (s : State) :
    exec (.xret h) s = execXret h s := rfl
@[simp] theorem exec_wfi (h : Hdr) (s : State) :
    exec (.wfi h) s = execWfi h s := rfl
@[simp] theorem exec_halt (h : Hdr) (s : State) :
    exec (.halt h) s = execHalt h s := rfl
@[simp] theorem exec_tlbinvPage (h : Hdr) (a : GReg) (b : GReg) (s : State) :
    exec (.tlbinvPage h a b) s = execTlbinvPage h a b s := rfl
@[simp] theorem exec_tlbinvVsid (h : Hdr) (b : GReg) (s : State) :
    exec (.tlbinvVsid h b) s = execTlbinvVsid h b s := rfl
@[simp] theorem exec_tlbinvAll (h : Hdr) (s : State) :
    exec (.tlbinvAll h) s = execTlbinvAll h s := rfl
@[simp] theorem exec_tlbreplay (h : Hdr) (a : GReg) (s : State) :
    exec (.tlbreplay h a) s = execTlbreplay h a s := rfl
@[simp] theorem exec_ldovt (h : Hdr) (a : GReg) (b : GReg) (s : State) :
    exec (.ldovt h a b) s = execLdovt h a b s := rfl
@[simp] theorem exec_ctxsave (h : Hdr) (d : GReg) (a : GReg) (b : GReg) (swap : Bool) (s : State) :
    exec (.ctxsave h d a b swap) s = execCtxsave h d a b swap s := rfl
@[simp] theorem exec_ctxload (h : Hdr) (d : GReg) (a : GReg) (b : GReg) (s : State) :
    exec (.ctxload h d a b) s = execCtxload h d a b s := rfl
@[simp] theorem exec_add (h : Hdr) (d : GReg) (a : GReg) (b : GReg) (w : Bool) (s : State) :
    exec (.add h d a b w) s = execAdd h d a b w s := rfl
@[simp] theorem exec_sub (h : Hdr) (d : GReg) (a : GReg) (b : GReg) (w : Bool) (s : State) :
    exec (.sub h d a b w) s = execSub h d a b w s := rfl
@[simp] theorem exec_andR (h : Hdr) (d : GReg) (a : GReg) (b : GReg) (s : State) :
    exec (.andR h d a b) s = execAndR h d a b s := rfl
@[simp] theorem exec_orR (h : Hdr) (d : GReg) (a : GReg) (b : GReg) (s : State) :
    exec (.orR h d a b) s = execOrR h d a b s := rfl
@[simp] theorem exec_xorR (h : Hdr) (d : GReg) (a : GReg) (b : GReg) (s : State) :
    exec (.xorR h d a b) s = execXorR h d a b s := rfl
@[simp] theorem exec_andn (h : Hdr) (d : GReg) (a : GReg) (b : GReg) (s : State) :
    exec (.andn h d a b) s = execAndn h d a b s := rfl
@[simp] theorem exec_orn (h : Hdr) (d : GReg) (a : GReg) (b : GReg) (s : State) :
    exec (.orn h d a b) s = execOrn h d a b s := rfl
@[simp] theorem exec_neg (h : Hdr) (d : GReg) (a : GReg) (w : Bool) (s : State) :
    exec (.neg h d a w) s = execNeg h d a w s := rfl
@[simp] theorem exec_addi (h : Hdr) (d : GReg) (a : GReg) (w : Bool) (imm : BitVec 32) (s : State) :
    exec (.addi h d a w imm) s = execAddi h d a w imm s := rfl
@[simp] theorem exec_andi (h : Hdr) (d : GReg) (a : GReg) (imm : BitVec 32) (s : State) :
    exec (.andi h d a imm) s = execAndi h d a imm s := rfl
@[simp] theorem exec_ori (h : Hdr) (d : GReg) (a : GReg) (imm : BitVec 32) (s : State) :
    exec (.ori h d a imm) s = execOri h d a imm s := rfl
@[simp] theorem exec_xori (h : Hdr) (d : GReg) (a : GReg) (imm : BitVec 32) (s : State) :
    exec (.xori h d a imm) s = execXori h d a imm s := rfl
@[simp] theorem exec_shl (h : Hdr) (d : GReg) (a : GReg) (w : Bool) (src : ShSrc) (s : State) :
    exec (.shl h d a w src) s = execShl h d a w src s := rfl
@[simp] theorem exec_shr (h : Hdr) (d : GReg) (a : GReg) (w : Bool) (src : ShSrc) (s : State) :
    exec (.shr h d a w src) s = execShr h d a w src s := rfl
@[simp] theorem exec_shra (h : Hdr) (d : GReg) (a : GReg) (w : Bool) (src : ShSrc) (s : State) :
    exec (.shra h d a w src) s = execShra h d a w src s := rfl
@[simp] theorem exec_rol (h : Hdr) (d : GReg) (a : GReg) (w : Bool) (src : ShSrc) (s : State) :
    exec (.rol h d a w src) s = execRol h d a w src s := rfl
@[simp] theorem exec_ror (h : Hdr) (d : GReg) (a : GReg) (w : Bool) (src : ShSrc) (s : State) :
    exec (.ror h d a w src) s = execRor h d a w src s := rfl
@[simp] theorem exec_mul (h : Hdr) (d : GReg) (a : GReg) (b : GReg) (w : Bool) (s : State) :
    exec (.mul h d a b w) s = execMul h d a b w s := rfl
@[simp] theorem exec_mulh (h : Hdr) (d : GReg) (a : GReg) (b : GReg) (w : Bool) (s : State) :
    exec (.mulh h d a b w) s = execMulh h d a b w s := rfl
@[simp] theorem exec_mulhn (h : Hdr) (d : GReg) (a : GReg) (b : GReg) (w : Bool) (s : State) :
    exec (.mulhn h d a b w) s = execMulhn h d a b w s := rfl
@[simp] theorem exec_div (h : Hdr) (d : GReg) (a : GReg) (b : GReg) (w : Bool) (s : State) :
    exec (.div h d a b w) s = execDiv h d a b w s := rfl
@[simp] theorem exec_divn (h : Hdr) (d : GReg) (a : GReg) (b : GReg) (w : Bool) (s : State) :
    exec (.divn h d a b w) s = execDivn h d a b w s := rfl
@[simp] theorem exec_rem (h : Hdr) (d : GReg) (a : GReg) (b : GReg) (w : Bool) (s : State) :
    exec (.rem h d a b w) s = execRem h d a b w s := rfl
@[simp] theorem exec_remn (h : Hdr) (d : GReg) (a : GReg) (b : GReg) (w : Bool) (s : State) :
    exec (.remn h d a b w) s = execRemn h d a b w s := rfl
@[simp] theorem exec_clz (h : Hdr) (d : GReg) (a : GReg) (w : Bool) (s : State) :
    exec (.clz h d a w) s = execClz h d a w s := rfl
@[simp] theorem exec_ctz (h : Hdr) (d : GReg) (a : GReg) (w : Bool) (s : State) :
    exec (.ctz h d a w) s = execCtz h d a w s := rfl
@[simp] theorem exec_popc (h : Hdr) (d : GReg) (a : GReg) (w : Bool) (s : State) :
    exec (.popc h d a w) s = execPopc h d a w s := rfl
@[simp] theorem exec_brev (h : Hdr) (d : GReg) (a : GReg) (w : Bool) (s : State) :
    exec (.brev h d a w) s = execBrev h d a w s := rfl
@[simp] theorem exec_bswap (h : Hdr) (d : GReg) (a : GReg) (w : Bool) (s : State) :
    exec (.bswap h d a w) s = execBswap h d a w s := rfl
@[simp] theorem exec_bfx (h : Hdr) (d : GReg) (a : GReg) (w : Bool) (pos : BitVec 6) (len : BitVec 7) (s : State) :
    exec (.bfx h d a w pos len) s = execBfx h d a w pos len s := rfl
@[simp] theorem exec_bfxn (h : Hdr) (d : GReg) (a : GReg) (w : Bool) (pos : BitVec 6) (len : BitVec 7) (s : State) :
    exec (.bfxn h d a w pos len) s = execBfxn h d a w pos len s := rfl
@[simp] theorem exec_bfi (h : Hdr) (d : GReg) (a : GReg) (w : Bool) (pos : BitVec 6) (len : BitVec 7) (s : State) :
    exec (.bfi h d a w pos len) s = execBfi h d a w pos len s := rfl
@[simp] theorem exec_min (h : Hdr) (d : GReg) (a : GReg) (b : GReg) (w : Bool) (s : State) :
    exec (.min h d a b w) s = execMin h d a b w s := rfl
@[simp] theorem exec_minn (h : Hdr) (d : GReg) (a : GReg) (b : GReg) (w : Bool) (s : State) :
    exec (.minn h d a b w) s = execMinn h d a b w s := rfl
@[simp] theorem exec_max (h : Hdr) (d : GReg) (a : GReg) (b : GReg) (w : Bool) (s : State) :
    exec (.max h d a b w) s = execMax h d a b w s := rfl
@[simp] theorem exec_maxn (h : Hdr) (d : GReg) (a : GReg) (b : GReg) (w : Bool) (s : State) :
    exec (.maxn h d a b w) s = execMaxn h d a b w s := rfl
@[simp] theorem exec_sel (h : Hdr) (d : GReg) (a : GReg) (b : GReg) (c : PReg) (neg : Bool) (s : State) :
    exec (.sel h d a b c neg) s = execSel h d a b c neg s := rfl
@[simp] theorem exec_mov (h : Hdr) (d : GReg) (a : GReg) (s : State) :
    exec (.mov h d a) s = execMov h d a s := rfl
@[simp] theorem exec_movi (h : Hdr) (d : GReg) (imm : BitVec 32) (s : State) :
    exec (.movi h d imm) s = execMovi h d imm s := rfl
@[simp] theorem exec_movhi (h : Hdr) (d : GReg) (imm : BitVec 32) (s : State) :
    exec (.movhi h d imm) s = execMovhi h d imm s := rfl
@[simp] theorem exec_movp (h : Hdr) (o : MovpOps) (s : State) :
    exec (.movp h o) s = execMovp h o s := rfl
@[simp] theorem exec_lea (h : Hdr) (d : GReg) (a : GReg) (b : GReg) (sc : BitVec 3) (imm : BitVec 32) (s : State) :
    exec (.lea h d a b sc imm) s = execLea h d a b sc imm s := rfl
@[simp] theorem exec_cmp (h : Hdr) (d : PReg) (a : GReg) (cc : BitVec 4) (w : Bool) (src : CmpSrc) (s : State) :
    exec (.cmp h d a cc w src) s = execCmp h d a cc w src s := rfl
@[simp] theorem exec_fadd (h : Hdr) (d : GReg) (a : GReg) (b : GReg) (rm : BitVec 3) (f32 : Bool) (s : State) :
    exec (.fadd h d a b rm f32) s = execFadd h d a b rm f32 s := rfl
@[simp] theorem exec_fsub (h : Hdr) (d : GReg) (a : GReg) (b : GReg) (rm : BitVec 3) (f32 : Bool) (s : State) :
    exec (.fsub h d a b rm f32) s = execFsub h d a b rm f32 s := rfl
@[simp] theorem exec_fmul (h : Hdr) (d : GReg) (a : GReg) (b : GReg) (rm : BitVec 3) (f32 : Bool) (s : State) :
    exec (.fmul h d a b rm f32) s = execFmul h d a b rm f32 s := rfl
@[simp] theorem exec_fdiv (h : Hdr) (d : GReg) (a : GReg) (b : GReg) (rm : BitVec 3) (f32 : Bool) (s : State) :
    exec (.fdiv h d a b rm f32) s = execFdiv h d a b rm f32 s := rfl
@[simp] theorem exec_fsqrt (h : Hdr) (d : GReg) (a : GReg) (rm : BitVec 3) (f32 : Bool) (s : State) :
    exec (.fsqrt h d a rm f32) s = execFsqrt h d a rm f32 s := rfl
@[simp] theorem exec_fma (h : Hdr) (d : GReg) (a : GReg) (b : GReg) (rm : BitVec 3) (f32 : Bool) (s : State) :
    exec (.fma h d a b rm f32) s = execFma h d a b rm f32 s := rfl
@[simp] theorem exec_fcmp (h : Hdr) (d : PReg) (a : GReg) (b : GReg) (cc : BitVec 3) (f32 : Bool) (s : State) :
    exec (.fcmp h d a b cc f32) s = execFcmp h d a b cc f32 s := rfl
@[simp] theorem exec_fclass (h : Hdr) (d : GReg) (a : GReg) (f32 : Bool) (s : State) :
    exec (.fclass h d a f32) s = execFclass h d a f32 s := rfl
@[simp] theorem exec_fmin (h : Hdr) (d : GReg) (a : GReg) (b : GReg) (f32 : Bool) (s : State) :
    exec (.fmin h d a b f32) s = execFmin h d a b f32 s := rfl
@[simp] theorem exec_fmax (h : Hdr) (d : GReg) (a : GReg) (b : GReg) (f32 : Bool) (s : State) :
    exec (.fmax h d a b f32) s = execFmax h d a b f32 s := rfl
@[simp] theorem exec_fabs (h : Hdr) (d : GReg) (a : GReg) (f32 : Bool) (s : State) :
    exec (.fabs h d a f32) s = execFabs h d a f32 s := rfl
@[simp] theorem exec_fneg (h : Hdr) (d : GReg) (a : GReg) (f32 : Bool) (s : State) :
    exec (.fneg h d a f32) s = execFneg h d a f32 s := rfl
@[simp] theorem exec_fcpys (h : Hdr) (d : GReg) (a : GReg) (b : GReg) (f32 : Bool) (s : State) :
    exec (.fcpys h d a b f32) s = execFcpys h d a b f32 s := rfl
@[simp] theorem exec_br (h : Hdr) (lx : Bool) (imm : BitVec 32) (s : State) :
    exec (.br h lx imm) s = execBr h lx imm s := rfl
@[simp] theorem exec_call (h : Hdr) (d : GReg) (imm : BitVec 32) (s : State) :
    exec (.call h d imm) s = execCall h d imm s := rfl
@[simp] theorem exec_jr (h : Hdr) (a : GReg) (lx : Bool) (imm : BitVec 32) (s : State) :
    exec (.jr h a lx imm) s = execJr h a lx imm s := rfl
@[simp] theorem exec_callr (h : Hdr) (d : GReg) (a : GReg) (imm : BitVec 32) (s : State) :
    exec (.callr h d a imm) s = execCallr h d a imm s := rfl
@[simp] theorem exec_ret (h : Hdr) (a : GReg) (s : State) :
    exec (.ret h a) s = execRet h a s := rfl
@[simp] theorem exec_loop (h : Hdr) (a : GReg) (len : BitVec 8) (s : State) :
    exec (.loop h a len) s = execLoop h a len s := rfl
@[simp] theorem exec_loopi (h : Hdr) (len : BitVec 8) (cnt : BitVec 24) (s : State) :
    exec (.loopi h len cnt) s = execLoopi h len cnt s := rfl
@[simp] theorem exec_pand (h : Hdr) (d : PReg) (a : PReg) (b : PReg) (na : Bool) (nb : Bool) (s : State) :
    exec (.pand h d a b na nb) s = execPand h d a b na nb s := rfl
@[simp] theorem exec_por (h : Hdr) (d : PReg) (a : PReg) (b : PReg) (na : Bool) (nb : Bool) (s : State) :
    exec (.por h d a b na nb) s = execPor h d a b na nb s := rfl
@[simp] theorem exec_pxor (h : Hdr) (d : PReg) (a : PReg) (b : PReg) (na : Bool) (nb : Bool) (s : State) :
    exec (.pxor h d a b na nb) s = execPxor h d a b na nb s := rfl
@[simp] theorem exec_pnot (h : Hdr) (d : PReg) (a : PReg) (s : State) :
    exec (.pnot h d a) s = execPnot h d a s := rfl
@[simp] theorem exec_pmov (h : Hdr) (d : PReg) (a : PReg) (s : State) :
    exec (.pmov h d a) s = execPmov h d a s := rfl
@[simp] theorem exec_vcvt (h : Hdr) (tag : BitVec 8) (d : VReg) (a : VReg) (rm : BitVec 3) (stm : Bool) (chunk : BitVec 4) (s : State) :
    exec (.vcvt h tag d a rm stm chunk) s = execVcvt h tag d a rm stm chunk s := rfl
@[simp] theorem exec_vcvts (h : Hdr) (tag : BitVec 8) (d : VReg) (a : VReg) (b : GReg) (rm : BitVec 3) (stm : Bool) (chunk : BitVec 4) (s : State) :
    exec (.vcvts h tag d a b rm stm chunk) s = execVcvts h tag d a b rm stm chunk s := rfl
@[simp] theorem exec_vtag (h : Hdr) (tag : BitVec 8) (d : VReg) (a : VReg) (s : State) :
    exec (.vtag h tag d a) s = execVtag h tag d a s := rfl
@[simp] theorem exec_vtagr (h : Hdr) (d : GReg) (a : VReg) (s : State) :
    exec (.vtagr h d a) s = execVtagr h d a s := rfl
@[simp] theorem exec_vquant (h : Hdr) (tag : BitVec 8) (d : VReg) (a : VReg) (b : VReg) (rm : BitVec 3) (chunk : BitVec 4) (j : BitVec 6) (s : State) :
    exec (.vquant h tag d a b rm chunk j) s = execVquant h tag d a b rm chunk j s := rfl
@[simp] theorem exec_vdeq (h : Hdr) (d : VReg) (a : VReg) (b : VReg) (rm : BitVec 3) (chunk : BitVec 4) (j : BitVec 6) (s : State) :
    exec (.vdeq h d a b rm chunk j) s = execVdeq h d a b rm chunk j s := rfl
@[simp] theorem exec_vscl (h : Hdr) (tag : BitVec 8) (d : VReg) (a : VReg) (j : BitVec 6) (s : State) :
    exec (.vscl h tag d a j) s = execVscl h tag d a j s := rfl
@[simp] theorem exec_scvt (h : Hdr) (src : BitVec 3) (dt : BitVec 3) (d : GReg) (a : GReg) (rm : BitVec 3) (s : State) :
    exec (.scvt h src dt d a rm) s = execScvt h src dt d a rm s := rfl
@[simp] theorem exec_vadd (h : Hdr) (code : BitVec 6) (d : VReg) (a : VReg) (b : VGSrc) (stm : Bool) (km : KReg) (z : Bool) (s : State) :
    exec (.vadd h code d a b stm km z) s = execVadd h code d a b stm km z s := rfl
@[simp] theorem exec_vsub (h : Hdr) (code : BitVec 6) (d : VReg) (a : VReg) (b : VGSrc) (stm : Bool) (km : KReg) (z : Bool) (s : State) :
    exec (.vsub h code d a b stm km z) s = execVsub h code d a b stm km z s := rfl
@[simp] theorem exec_vadds (h : Hdr) (code : BitVec 6) (d : VReg) (a : VReg) (b : VGSrc) (stm : Bool) (km : KReg) (z : Bool) (s : State) :
    exec (.vadds h code d a b stm km z) s = execVadds h code d a b stm km z s := rfl
@[simp] theorem exec_vsubs (h : Hdr) (code : BitVec 6) (d : VReg) (a : VReg) (b : VGSrc) (stm : Bool) (km : KReg) (z : Bool) (s : State) :
    exec (.vsubs h code d a b stm km z) s = execVsubs h code d a b stm km z s := rfl
@[simp] theorem exec_vabs (h : Hdr) (code : BitVec 6) (d : VReg) (a : VReg) (stm : Bool) (km : KReg) (z : Bool) (s : State) :
    exec (.vabs h code d a stm km z) s = execVabs h code d a stm km z s := rfl
@[simp] theorem exec_vmul (h : Hdr) (code : BitVec 6) (d : VReg) (a : VReg) (b : VGSrc) (stm : Bool) (km : KReg) (z : Bool) (s : State) :
    exec (.vmul h code d a b stm km z) s = execVmul h code d a b stm km z s := rfl
@[simp] theorem exec_vmulh (h : Hdr) (code : BitVec 6) (d : VReg) (a : VReg) (b : VGSrc) (stm : Bool) (km : KReg) (z : Bool) (s : State) :
    exec (.vmulh h code d a b stm km z) s = execVmulh h code d a b stm km z s := rfl
@[simp] theorem exec_vmulhn (h : Hdr) (code : BitVec 6) (d : VReg) (a : VReg) (b : VGSrc) (stm : Bool) (km : KReg) (z : Bool) (s : State) :
    exec (.vmulhn h code d a b stm km z) s = execVmulhn h code d a b stm km z s := rfl
@[simp] theorem exec_vmin (h : Hdr) (code : BitVec 6) (d : VReg) (a : VReg) (b : VGSrc) (stm : Bool) (km : KReg) (z : Bool) (s : State) :
    exec (.vmin h code d a b stm km z) s = execVmin h code d a b stm km z s := rfl
@[simp] theorem exec_vminn (h : Hdr) (code : BitVec 6) (d : VReg) (a : VReg) (b : VGSrc) (stm : Bool) (km : KReg) (z : Bool) (s : State) :
    exec (.vminn h code d a b stm km z) s = execVminn h code d a b stm km z s := rfl
@[simp] theorem exec_vmax (h : Hdr) (code : BitVec 6) (d : VReg) (a : VReg) (b : VGSrc) (stm : Bool) (km : KReg) (z : Bool) (s : State) :
    exec (.vmax h code d a b stm km z) s = execVmax h code d a b stm km z s := rfl
@[simp] theorem exec_vmaxn (h : Hdr) (code : BitVec 6) (d : VReg) (a : VReg) (b : VGSrc) (stm : Bool) (km : KReg) (z : Bool) (s : State) :
    exec (.vmaxn h code d a b stm km z) s = execVmaxn h code d a b stm km z s := rfl
@[simp] theorem exec_vfadd (h : Hdr) (code : BitVec 6) (d : VReg) (a : VReg) (b : VGSrc) (rm : BitVec 3) (stm : Bool) (km : KReg) (z : Bool) (s : State) :
    exec (.vfadd h code d a b rm stm km z) s = execVfadd h code d a b rm stm km z s := rfl
@[simp] theorem exec_vfsub (h : Hdr) (code : BitVec 6) (d : VReg) (a : VReg) (b : VGSrc) (rm : BitVec 3) (stm : Bool) (km : KReg) (z : Bool) (s : State) :
    exec (.vfsub h code d a b rm stm km z) s = execVfsub h code d a b rm stm km z s := rfl
@[simp] theorem exec_vfmul (h : Hdr) (code : BitVec 6) (d : VReg) (a : VReg) (b : VGSrc) (rm : BitVec 3) (stm : Bool) (km : KReg) (z : Bool) (s : State) :
    exec (.vfmul h code d a b rm stm km z) s = execVfmul h code d a b rm stm km z s := rfl
@[simp] theorem exec_vfdiv (h : Hdr) (code : BitVec 6) (d : VReg) (a : VReg) (b : VGSrc) (rm : BitVec 3) (stm : Bool) (km : KReg) (z : Bool) (s : State) :
    exec (.vfdiv h code d a b rm stm km z) s = execVfdiv h code d a b rm stm km z s := rfl
@[simp] theorem exec_vfma (h : Hdr) (code : BitVec 6) (d : VReg) (a : VReg) (b : VGSrc) (rm : BitVec 3) (stm : Bool) (km : KReg) (z : Bool) (s : State) :
    exec (.vfma h code d a b rm stm km z) s = execVfma h code d a b rm stm km z s := rfl
@[simp] theorem exec_vfms (h : Hdr) (code : BitVec 6) (d : VReg) (a : VReg) (b : VGSrc) (rm : BitVec 3) (stm : Bool) (km : KReg) (z : Bool) (s : State) :
    exec (.vfms h code d a b rm stm km z) s = execVfms h code d a b rm stm km z s := rfl
@[simp] theorem exec_vfnma (h : Hdr) (code : BitVec 6) (d : VReg) (a : VReg) (b : VGSrc) (rm : BitVec 3) (stm : Bool) (km : KReg) (z : Bool) (s : State) :
    exec (.vfnma h code d a b rm stm km z) s = execVfnma h code d a b rm stm km z s := rfl
@[simp] theorem exec_vfnms (h : Hdr) (code : BitVec 6) (d : VReg) (a : VReg) (b : VGSrc) (rm : BitVec 3) (stm : Bool) (km : KReg) (z : Bool) (s : State) :
    exec (.vfnms h code d a b rm stm km z) s = execVfnms h code d a b rm stm km z s := rfl
@[simp] theorem exec_vfmin (h : Hdr) (code : BitVec 6) (d : VReg) (a : VReg) (b : VGSrc) (stm : Bool) (km : KReg) (z : Bool) (s : State) :
    exec (.vfmin h code d a b stm km z) s = execVfmin h code d a b stm km z s := rfl
@[simp] theorem exec_vfmax (h : Hdr) (code : BitVec 6) (d : VReg) (a : VReg) (b : VGSrc) (stm : Bool) (km : KReg) (z : Bool) (s : State) :
    exec (.vfmax h code d a b stm km z) s = execVfmax h code d a b stm km z s := rfl
@[simp] theorem exec_vfabs (h : Hdr) (code : BitVec 6) (d : VReg) (a : VReg) (stm : Bool) (km : KReg) (z : Bool) (s : State) :
    exec (.vfabs h code d a stm km z) s = execVfabs h code d a stm km z s := rfl
@[simp] theorem exec_vfneg (h : Hdr) (code : BitVec 6) (d : VReg) (a : VReg) (stm : Bool) (km : KReg) (z : Bool) (s : State) :
    exec (.vfneg h code d a stm km z) s = execVfneg h code d a stm km z s := rfl
@[simp] theorem exec_vrcp (h : Hdr) (code : BitVec 6) (d : VReg) (a : VReg) (stm : Bool) (km : KReg) (z : Bool) (s : State) :
    exec (.vrcp h code d a stm km z) s = execVrcp h code d a stm km z s := rfl
@[simp] theorem exec_vrsq (h : Hdr) (code : BitVec 6) (d : VReg) (a : VReg) (stm : Bool) (km : KReg) (z : Bool) (s : State) :
    exec (.vrsq h code d a stm km z) s = execVrsq h code d a stm km z s := rfl
@[simp] theorem exec_vsqrt (h : Hdr) (code : BitVec 6) (d : VReg) (a : VReg) (rm : BitVec 3) (stm : Bool) (km : KReg) (z : Bool) (s : State) :
    exec (.vsqrt h code d a rm stm km z) s = execVsqrt h code d a rm stm km z s := rfl
@[simp] theorem exec_vexp2 (h : Hdr) (code : BitVec 6) (d : VReg) (a : VReg) (stm : Bool) (km : KReg) (z : Bool) (s : State) :
    exec (.vexp2 h code d a stm km z) s = execVexp2 h code d a stm km z s := rfl
@[simp] theorem exec_vlog2 (h : Hdr) (code : BitVec 6) (d : VReg) (a : VReg) (stm : Bool) (km : KReg) (z : Bool) (s : State) :
    exec (.vlog2 h code d a stm km z) s = execVlog2 h code d a stm km z s := rfl
@[simp] theorem exec_vcmp (h : Hdr) (code : BitVec 6) (d : KReg) (a : VReg) (b : VGSrc) (cc : BitVec 3) (stm : Bool) (km : KReg) (z : Bool) (s : State) :
    exec (.vcmp h code d a b cc stm km z) s = execVcmp h code d a b cc stm km z s := rfl
@[simp] theorem exec_vfcmp (h : Hdr) (code : BitVec 6) (d : KReg) (a : VReg) (b : VGSrc) (cc : BitVec 3) (stm : Bool) (km : KReg) (z : Bool) (s : State) :
    exec (.vfcmp h code d a b cc stm km z) s = execVfcmp h code d a b cc stm km z s := rfl
@[simp] theorem exec_vfclass (h : Hdr) (code : BitVec 6) (d : VReg) (a : VReg) (stm : Bool) (km : KReg) (z : Bool) (s : State) :
    exec (.vfclass h code d a stm km z) s = execVfclass h code d a stm km z s := rfl
@[simp] theorem exec_vsel (h : Hdr) (code : BitVec 6) (d : VReg) (a : VReg) (b : VReg) (stm : Bool) (km : KReg) (s : State) :
    exec (.vsel h code d a b stm km) s = execVsel h code d a b stm km s := rfl
@[simp] theorem exec_vand (h : Hdr) (code : BitVec 6) (d : VReg) (a : VReg) (b : VGSrc) (stm : Bool) (km : KReg) (z : Bool) (s : State) :
    exec (.vand h code d a b stm km z) s = execVand h code d a b stm km z s := rfl
@[simp] theorem exec_vor (h : Hdr) (code : BitVec 6) (d : VReg) (a : VReg) (b : VGSrc) (stm : Bool) (km : KReg) (z : Bool) (s : State) :
    exec (.vor h code d a b stm km z) s = execVor h code d a b stm km z s := rfl
@[simp] theorem exec_vxor (h : Hdr) (code : BitVec 6) (d : VReg) (a : VReg) (b : VGSrc) (stm : Bool) (km : KReg) (z : Bool) (s : State) :
    exec (.vxor h code d a b stm km z) s = execVxor h code d a b stm km z s := rfl
@[simp] theorem exec_vandn (h : Hdr) (code : BitVec 6) (d : VReg) (a : VReg) (b : VGSrc) (stm : Bool) (km : KReg) (z : Bool) (s : State) :
    exec (.vandn h code d a b stm km z) s = execVandn h code d a b stm km z s := rfl
@[simp] theorem exec_vshl (h : Hdr) (code : BitVec 6) (d : VReg) (a : VReg) (b : VGSrc) (stm : Bool) (km : KReg) (z : Bool) (s : State) :
    exec (.vshl h code d a b stm km z) s = execVshl h code d a b stm km z s := rfl
@[simp] theorem exec_vshr (h : Hdr) (code : BitVec 6) (d : VReg) (a : VReg) (b : VGSrc) (stm : Bool) (km : KReg) (z : Bool) (s : State) :
    exec (.vshr h code d a b stm km z) s = execVshr h code d a b stm km z s := rfl
@[simp] theorem exec_vshra (h : Hdr) (code : BitVec 6) (d : VReg) (a : VReg) (b : VGSrc) (stm : Bool) (km : KReg) (z : Bool) (s : State) :
    exec (.vshra h code d a b stm km z) s = execVshra h code d a b stm km z s := rfl
@[simp] theorem exec_vbcast (h : Hdr) (code : BitVec 6) (d : VReg) (stm : Bool) (km : KReg) (z : Bool) (src : VbSrc) (s : State) :
    exec (.vbcast h code d stm km z src) s = execVbcast h code d stm km z src s := rfl
@[simp] theorem exec_vext (h : Hdr) (wc : BitVec 2) (d : GReg) (a : VReg) (b : GReg) (sx : Bool) (imm : BitVec 32) (s : State) :
    exec (.vext h wc d a b sx imm) s = execVext h wc d a b sx imm s := rfl
@[simp] theorem exec_vins (h : Hdr) (wc : BitVec 2) (d : VReg) (a : GReg) (b : GReg) (imm : BitVec 32) (s : State) :
    exec (.vins h wc d a b imm) s = execVins h wc d a b imm s := rfl
@[simp] theorem exec_vperm (h : Hdr) (wc : BitVec 2) (d : VReg) (a : VReg) (b : VReg) (stm : Bool) (km : KReg) (z : Bool) (s : State) :
    exec (.vperm h wc d a b stm km z) s = execVperm h wc d a b stm km z s := rfl
@[simp] theorem exec_vslideup (h : Hdr) (wc : BitVec 2) (d : VReg) (a : VReg) (b : GReg) (stm : Bool) (km : KReg) (z : Bool) (imm : BitVec 32) (s : State) :
    exec (.vslideup h wc d a b stm km z imm) s = execVslideup h wc d a b stm km z imm s := rfl
@[simp] theorem exec_vslidedn (h : Hdr) (wc : BitVec 2) (d : VReg) (a : VReg) (b : GReg) (stm : Bool) (km : KReg) (z : Bool) (imm : BitVec 32) (s : State) :
    exec (.vslidedn h wc d a b stm km z imm) s = execVslidedn h wc d a b stm km z imm s := rfl
@[simp] theorem exec_viota (h : Hdr) (code : BitVec 6) (d : VReg) (a : GReg) (stm : Bool) (km : KReg) (z : Bool) (imm : BitVec 32) (s : State) :
    exec (.viota h code d a stm km z imm) s = execViota h code d a stm km z imm s := rfl
@[simp] theorem exec_kand (h : Hdr) (d : KReg) (a : KReg) (b : KReg) (s : State) :
    exec (.kand h d a b) s = execKand h d a b s := rfl
@[simp] theorem exec_kor (h : Hdr) (d : KReg) (a : KReg) (b : KReg) (s : State) :
    exec (.kor h d a b) s = execKor h d a b s := rfl
@[simp] theorem exec_kxor (h : Hdr) (d : KReg) (a : KReg) (b : KReg) (s : State) :
    exec (.kxor h d a b) s = execKxor h d a b s := rfl
@[simp] theorem exec_knot (h : Hdr) (d : KReg) (a : KReg) (s : State) :
    exec (.knot h d a) s = execKnot h d a s := rfl
@[simp] theorem exec_kcnt (h : Hdr) (d : GReg) (a : KReg) (n : BitVec 8) (s : State) :
    exec (.kcnt h d a n) s = execKcnt h d a n s := rfl
@[simp] theorem exec_kmov (h : Hdr) (o : KmovOps) (s : State) :
    exec (.kmov h o) s = execKmov h o s := rfl
@[simp] theorem exec_vradd (h : Hdr) (code : BitVec 6) (d : VReg) (a : VReg) (stm : Bool) (km : KReg) (s : State) :
    exec (.vradd h code d a stm km) s = execVradd h code d a stm km s := rfl
@[simp] theorem exec_vrmin (h : Hdr) (code : BitVec 6) (d : VReg) (a : VReg) (stm : Bool) (km : KReg) (s : State) :
    exec (.vrmin h code d a stm km) s = execVrmin h code d a stm km s := rfl
@[simp] theorem exec_vrmax (h : Hdr) (code : BitVec 6) (d : VReg) (a : VReg) (stm : Bool) (km : KReg) (s : State) :
    exec (.vrmax h code d a stm km) s = execVrmax h code d a stm km s := rfl
@[simp] theorem exec_vrfadd (h : Hdr) (code : BitVec 6) (d : VReg) (a : VReg) (rm : BitVec 3) (stm : Bool) (km : KReg) (s : State) :
    exec (.vrfadd h code d a rm stm km) s = execVrfadd h code d a rm stm km s := rfl
@[simp] theorem exec_vrfmin (h : Hdr) (code : BitVec 6) (d : VReg) (a : VReg) (stm : Bool) (km : KReg) (s : State) :
    exec (.vrfmin h code d a stm km) s = execVrfmin h code d a stm km s := rfl
@[simp] theorem exec_vrfmax (h : Hdr) (code : BitVec 6) (d : VReg) (a : VReg) (stm : Bool) (km : KReg) (s : State) :
    exec (.vrfmax h code d a stm km) s = execVrfmax h code d a stm km s := rfl
@[simp] theorem exec_scfg (h : Hdr) (d : VReg) (a : GReg) (port : Fin 4) (imm : BitVec 32) (s : State) :
    exec (.scfg h d a port imm) s = execScfg h d a port imm s := rfl
@[simp] theorem exec_sfree (h : Hdr) (port : Fin 4) (s : State) :
    exec (.sfree h port) s = execSfree h port s := rfl
@[simp] theorem exec_vloop (h : Hdr) (len : BitVec 8) (port : Fin 4) (s : State) :
    exec (.vloop h len port) s = execVloop h len port s := rfl
@[simp] theorem exec_vmov (h : Hdr) (d : VReg) (a : VReg) (s : State) :
    exec (.vmov h d a) s = execVmov h d a s := rfl
@[simp] theorem exec_vmovgFromG (h : Hdr) (code : BitVec 6) (d : VReg) (a : GReg) (s : State) :
    exec (.vmovgFromG h code d a) s = execVmovgFromG h code d a s := rfl
@[simp] theorem exec_vmovgToG (h : Hdr) (d : GReg) (a : VReg) (s : State) :
    exec (.vmovgToG h d a) s = execVmovgToG h d a s := rfl
@[simp] theorem exec_vmadd (h : Hdr) (d : VReg) (a : VReg) (b : VGSrc) (m : Fin 4) (km : KReg) (z : Bool) (s : State) :
    exec (.vmadd h d a b m km z) s = execVmadd h d a b m km z s := rfl
@[simp] theorem exec_vmsub (h : Hdr) (d : VReg) (a : VReg) (b : VGSrc) (m : Fin 4) (km : KReg) (z : Bool) (s : State) :
    exec (.vmsub h d a b m km z) s = execVmsub h d a b m km z s := rfl
@[simp] theorem exec_vmneg (h : Hdr) (d : VReg) (a : VReg) (m : Fin 4) (km : KReg) (z : Bool) (s : State) :
    exec (.vmneg h d a m km z) s = execVmneg h d a m km z s := rfl
@[simp] theorem exec_vmmul (h : Hdr) (d : VReg) (a : VReg) (b : VGSrc) (m : Fin 4) (km : KReg) (z : Bool) (s : State) :
    exec (.vmmul h d a b m km z) s = execVmmul h d a b m km z s := rfl
@[simp] theorem exec_vmmac (h : Hdr) (d : VReg) (a : VReg) (b : VGSrc) (m : Fin 4) (km : KReg) (z : Bool) (s : State) :
    exec (.vmmac h d a b m km z) s = execVmmac h d a b m km z s := rfl
@[simp] theorem exec_vmred (h : Hdr) (nat : Bool) (d : VReg) (a : VReg) (m : Fin 4) (km : KReg) (z : Bool) (s : State) :
    exec (.vmred h nat d a m km z) s = execVmred h nat d a m km z s := rfl
@[simp] theorem exec_vmcvtI64 (h : Hdr) (d : VReg) (a : VReg) (km : KReg) (z : Bool) (s : State) :
    exec (.vmcvtI64 h d a km z) s = execVmcvtI64 h d a km z s := rfl
@[simp] theorem exec_vmcvtMn (h : Hdr) (d : VReg) (a : VReg) (m : Fin 4) (km : KReg) (z : Bool) (s : State) :
    exec (.vmcvtMn h d a m km z) s = execVmcvtMn h d a m km z s := rfl
@[simp] theorem exec_vmcvtMs (h : Hdr) (d : VReg) (a : VReg) (m : Fin 4) (km : KReg) (z : Bool) (s : State) :
    exec (.vmcvtMs h d a m km z) s = execVmcvtMs h d a m km z s := rfl
@[simp] theorem exec_mqgen (h : Hdr) (a : VReg) (m : Fin 4) (s : State) :
    exec (.mqgen h a m) s = execMqgen h a m s := rfl
@[simp] theorem exec_mqld (h : Hdr) (a : VReg) (b : VReg) (m : Fin 4) (s : State) :
    exec (.mqld h a b m) s = execMqld h a b m s := rfl
@[simp] theorem exec_bfly (h : Hdr) (d : VReg) (a : VReg) (m : Fin 4) (km : KReg) (s : State) :
    exec (.bfly h d a m km) s = execBfly h d a m km s := rfl
@[simp] theorem exec_ibfly (h : Hdr) (d : VReg) (a : VReg) (m : Fin 4) (km : KReg) (s : State) :
    exec (.ibfly h d a m km) s = execIbfly h d a m km s := rfl
@[simp] theorem exec_bperm (h : Hdr) (d : VReg) (a : VReg) (k : BitVec 2) (s : State) :
    exec (.bperm h d a k) s = execBperm h d a k s := rfl
@[simp] theorem exec_bpermx (h : Hdr) (d : VReg) (k : BitVec 2) (s : State) :
    exec (.bpermx h d k) s = execBpermx h d k s := rfl
@[simp] theorem exec_vbitrev (h : Hdr) (d : VReg) (a : VReg) (b : BitVec 3) (s : State) :
    exec (.vbitrev h d a b) s = execVbitrev h d a b s := rfl
@[simp] theorem exec_vfft2 (h : Hdr) (d : VReg) (a : VReg) (rm : BitVec 3) (cj : Bool) (km : KReg) (s : State) :
    exec (.vfft2 h d a rm cj km) s = execVfft2 h d a rm cj km s := rfl
@[simp] theorem exec_vcmul (h : Hdr) (d : VReg) (a : VReg) (b : VReg) (rm : BitVec 3) (cj : Bool) (km : KReg) (z : Bool) (s : State) :
    exec (.vcmul h d a b rm cj km z) s = execVcmul h d a b rm cj km z s := rfl
@[simp] theorem exec_zalloc (h : Hdr) (d : PReg) (t : Fin 4) (s : State) :
    exec (.zalloc h d t) s = execZalloc h d t s := rfl
@[simp] theorem exec_zfree (h : Hdr) (t : Fin 4) (s : State) :
    exec (.zfree h t) s = execZfree h t s := rfl
@[simp] theorem exec_zzero (h : Hdr) (i32 : Bool) (t : Fin 4) (s : State) :
    exec (.zzero h i32 t) s = execZzero h i32 t s := rfl
@[simp] theorem exec_zmma (h : Hdr) (tag : BitVec 8) (d : GReg) (a : GReg) (b : GReg) (t : Fin 4) (sc : Bool) (s : State) :
    exec (.zmma h tag d a b t sc) s = execZmma h tag d a b t sc s := rfl
@[simp] theorem exec_zmmas (h : Hdr) (tag : BitVec 8) (d : GReg) (a : GReg) (b : GReg) (t : Fin 4) (sc : Bool) (s : State) :
    exec (.zmmas h tag d a b t sc) s = execZmmas h tag d a b t sc s := rfl
@[simp] theorem exec_zldc (h : Hdr) (i32 : Bool) (a : GReg) (t : Fin 4) (stride : BitVec 20) (s : State) :
    exec (.zldc h i32 a t stride) s = execZldc h i32 a t stride s := rfl
@[simp] theorem exec_zstore (h : Hdr) (dt : BitVec 8) (a : GReg) (rm : BitVec 3) (t : Fin 4) (stride : BitVec 20) (s : State) :
    exec (.zstore h dt a rm t stride) s = execZstore h dt a rm t stride s := rfl
@[simp] theorem exec_zread (h : Hdr) (d : VReg) (a : GReg) (x : BitVec 2) (t : Fin 4) (c : BitVec 3) (s : State) :
    exec (.zread h d a x t c) s = execZread h d a x t c s := rfl
@[simp] theorem exec_zwm (h : Hdr) (d : GReg) (t : Fin 4) (s : State) :
    exec (.zwm h d t) s = execZwm h d t s := rfl
@[simp] theorem exec_zwait (h : Hdr) (a : GReg) (t : Fin 4) (imm : BitVec 32) (s : State) :
    exec (.zwait h a t imm) s = execZwait h a t imm s := rfl
@[simp] theorem exec_zscl (h : Hdr) (a : GReg) (b : VReg) (sideB : Bool) (j : BitVec 5) (q : BitVec 2) (s : State) :
    exec (.zscl h a b sideB j q) s = execZscl h a b sideB j q s := rfl
@[simp] theorem exec_zstatT (h : Hdr) (d : GReg) (t : Fin 4) (clr : Bool) (s : State) :
    exec (.zstatT h d t clr) s = execZstatT h d t clr s := rfl
@[simp] theorem exec_zstatF (h : Hdr) (d : GReg) (clr : Bool) (s : State) :
    exec (.zstatF h d clr) s = execZstatF h d clr s := rfl
@[simp] theorem exec_zstatS (h : Hdr) (d : GReg) (s : State) :
    exec (.zstatS h d) s = execZstatS h d s := rfl

end

end Sys2Proof.Machine
end

