-- ==== Sys2Proof/Laws/Mem.lean ====
section
/-! SUPPORT. Memories: every operation keeps the canonical form, a byte written is read back, every other byte reads as before. -/
namespace Sys2Proof.Machine
open Sys2Proof

/-- A memory whose addresses start higher starts from here too. -/
theorem Mem.wfFrom_mono {lo lo' : Nat} {m : Mem} (h : Mem.wfFrom lo m = true) (hl : lo' ≤ lo) : Mem.wfFrom lo' m = true := by
  cases m with
  | nil => rfl
  | cons x m => simp only [Mem.wfFrom, Bool.and_eq_true, decide_eq_true_eq] at h ⊢; exact ⟨⟨by omega, h.1.2⟩, h.2⟩

theorem Mem.wfFrom_set {a : Nat} {b : Byte} : ∀ {lo : Nat} {m : Mem}, Mem.wfFrom lo m = true → lo ≤ a →
    Mem.wfFrom lo (Mem.set m a b) = true
  | lo, [], _, hl => by
    simp only [Mem.set]
    split
    · rfl
    · simp_all [Mem.wfFrom]
  | lo, (k, c) :: m, h, hl => by
    simp only [Mem.wfFrom, Bool.and_eq_true, decide_eq_true_eq, bne_iff_ne] at h
    simp only [Mem.set]
    split
    · split
      · simp_all [Mem.wfFrom]
      · simp only [Mem.wfFrom, Bool.and_eq_true, decide_eq_true_eq, bne_iff_ne]
        exact ⟨⟨hl, ‹_›⟩, ⟨by omega, h.1.2⟩, h.2⟩
    · split
      · split
        · exact Mem.wfFrom_mono h.2 (by omega)
        · subst_vars; simp_all [Mem.wfFrom]
      · simp only [Mem.wfFrom, Bool.and_eq_true, decide_eq_true_eq, bne_iff_ne]
        exact ⟨h.1, Mem.wfFrom_set h.2 (by omega)⟩

/-- Writing a byte keeps the canonical form. -/
theorem Mem.wf_set {m : Mem} (h : m.wf = true) (a : Nat) (b : Byte) : (m.set a b).wf = true := Mem.wfFrom_set h (Nat.zero_le a)

/-- Writing bytes keeps it. -/
theorem Mem.wf_setBytes : ∀ {bs : List Byte} {m : Mem} (_ : m.wf = true) (a : Nat), (m.setBytes a bs).wf = true
  | [], _, h, _ => h
  | _ :: _, _, h, a => Mem.wf_setBytes (Mem.wf_set h a _) (a + 1)

/-- Dropping entries keeps it. -/
theorem Mem.wfFrom_filter {p : Nat × Byte → Bool} : ∀ {lo : Nat} {m : Mem}, Mem.wfFrom lo m = true →
    Mem.wfFrom lo (m.filter p) = true
  | _, [], _ => rfl
  | lo, (k, c) :: m, h => by
    simp only [Mem.wfFrom, Bool.and_eq_true, decide_eq_true_eq] at h
    have ih := Mem.wfFrom_filter (p := p) h.2
    simp only [List.filter_cons]
    split
    · simp only [Mem.wfFrom, Bool.and_eq_true, decide_eq_true_eq]; exact ⟨h.1, ih⟩
    · exact Mem.wfFrom_mono ih (by omega)
theorem Mem.wf_filter {m : Mem} (h : m.wf = true) (p : Nat × Byte → Bool) : Mem.wf (m.filter p) = true := Mem.wfFrom_filter h

/-- A byte below every listed address is not listed. -/
theorem Mem.get_below {a : Nat} : ∀ {lo : Nat} {m : Mem}, Mem.wfFrom lo m = true → a < lo → m.get a = Config.fillByte
  | _, [], _, _ => rfl
  | lo, (k, c) :: m, h, hl => by
    simp only [Mem.wfFrom, Bool.and_eq_true, decide_eq_true_eq] at h
    have : k ≠ a := by omega
    simp only [Mem.get, this, if_false]
    exact Mem.get_below h.2 (by omega)

theorem Mem.getFrom_set {a : Nat} {b : Byte} : ∀ {lo : Nat} {m : Mem}, Mem.wfFrom lo m = true → (Mem.set m a b).get a = b
  | _, [], _ => by
    simp only [Mem.set]
    split <;> simp_all [Mem.get]
  | lo, (k, c) :: m, h => by
    simp only [Mem.wfFrom, Bool.and_eq_true, decide_eq_true_eq] at h
    simp only [Mem.set]
    split
    · split
      · have hk : k ≠ a := by omega
        subst_vars
        simp only [Mem.get, hk, if_false]
        exact Mem.get_below h.2 (by omega)
      · simp [Mem.get]
    · split
      · split
        · subst_vars; exact Mem.get_below h.2 (by omega)
        · simp [Mem.get]
      · have hk : k ≠ a := by omega
        simp only [Mem.get, hk, if_false]
        exact Mem.getFrom_set h.2

/-- A byte written to a memory in canonical form is read back. -/
theorem Mem.get_set {m : Mem} (h : m.wf = true) (a : Nat) (b : Byte) : (m.set a b).get a = b := Mem.getFrom_set h

/-- Every other byte reads as before. -/
theorem Mem.get_set_ne {a x : Nat} {b : Byte} (hx : x ≠ a) : ∀ m : Mem, (m.set a b).get x = m.get x
  | [] => by
    simp only [Mem.set]
    split
    · rfl
    · simp [Mem.get, Ne.symm hx]
  | (k, c) :: m => by
    simp only [Mem.set]
    split
    · split
      · rfl
      · simp [Mem.get, Ne.symm hx]
    · split
      · subst_vars
        split <;> simp [Mem.get, Ne.symm hx]
      · simp only [Mem.get, Mem.get_set_ne hx m]

/-- Outside the bytes written, a memory reads as before. -/
theorem Mem.get_setBytes_ne {x : Nat} : ∀ {bs : List Byte} {m : Mem} {a : Nat}, x < a ∨ a + bs.length ≤ x →
    (m.setBytes a bs).get x = m.get x
  | [], _, _, _ => rfl
  | _ :: bs, m, a, h => by
    simp only [List.length_cons] at h
    rw [Mem.setBytes, Mem.get_setBytes_ne (bs := bs) (by omega), Mem.get_set_ne (by omega)]

/-- The bytes written are read back. -/
theorem Mem.get_setBytes : ∀ {bs : List Byte} {m : Mem} (_ : m.wf = true) (a : Nat) {i : Nat} (_ : i < bs.length),
    (m.setBytes a bs).get (a + i) = bs.getD i 0
  | b :: bs, m, h, a, 0, _ => by
    rw [Mem.setBytes, Mem.get_setBytes_ne (by omega)]
    simpa using Mem.get_set h a b
  | b :: bs, m, h, a, i + 1, hi => by
    have := Mem.get_setBytes (Mem.wf_set h a b) (a + 1) (i := i) (by simpa using hi)
    rw [Mem.setBytes, show a + (i + 1) = a + 1 + i by omega, this]
    simp

/-- A byte of physical memory, and a run of them, keep both forms. -/
theorem State.wf_setPhysByte {s : State} (h : s.hbm.wf = true) (hf : s.fabric.wf = true) (pa : Nat) (b : Byte) :
    (s.setPhysByte pa b).hbm.wf = true ∧ (s.setPhysByte pa b).fabric.wf = true := by
  unfold State.setPhysByte
  split
  · exact ⟨h, hf⟩
  · split
    · exact ⟨Mem.wf_set h pa b, hf⟩
    · split
      · exact ⟨h, Mem.wf_set hf pa b⟩
      · exact ⟨h, hf⟩
theorem State.wf_setPhysBytes : ∀ {bs : List Byte} {s : State} (_ : s.hbm.wf = true) (_ : s.fabric.wf = true) (pa : Nat),
    (s.setPhysBytes pa bs).hbm.wf = true ∧ (s.setPhysBytes pa bs).fabric.wf = true
  | [], _, h, hf, _ => ⟨h, hf⟩
  | b :: _, _, h, hf, pa =>
    State.wf_setPhysBytes (State.wf_setPhysByte h hf pa b).1 (State.wf_setPhysByte h hf pa b).2 (pa + 1)

/-- The memories of the machine after reset are in canonical form. -/
theorem State.reset_mem_wf : State.reset.hbm.wf = true ∧ State.reset.fabric.wf = true ∧ State.reset.flash.wf = true :=
  ⟨rfl, rfl, rfl⟩

end Sys2Proof.Machine
end

