-- ==== Sys2Proof/Laws/Ops.lean ====
section
/-! SUPPORT. What the shared operations can do: a result that lands, an access that takes its time at a home, an exception taken and
an exception returned from. -/
namespace Sys2Proof.Machine
open Sys2Proof

/-! ## Results that land -/

/-- What a register write leaves of a core: everything but the register files and the operand buffer. -/
def Core.besides (c : Core) : Core :=
  { c with regs := { c.regs with g := ({} : Regs).g, p := ({} : Regs).p, k := ({} : Regs).k, v := ({} : Regs).v }
           tmg := { c.tmg with obuf := [], flights := [] } }

theorem Core.besides_wr (c : Core) (w : Wr) : (c.wr w).besides = c.besides := by
  cases w with
  | g r x => simp only [Core.wr, Core.wrG]; split <;> rfl
  | p r x => simp only [Core.wr, Core.wrP]; split <;> rfl
  | k r x => simp only [Core.wr, Core.wrK]; split <;> rfl
  | v r x => rfl

theorem Core.besides_wrs : ∀ (fs : List Flight) (c : Core), (fs.foldl (fun c f => c.wr f.wr) c).besides = c.besides
  | [], _ => rfl
  | f :: fs, c => by rw [List.foldl_cons, Core.besides_wrs fs, Core.besides_wr]

theorem besides_landUpTo : ∀ (n t : Nat) (fs : List Flight) (c : Core), (landUpTo n t fs c).1.besides = c.besides
  | 0, _, [], _ => rfl
  | _ + 1, _, [], _ => rfl
  | 0, _, _ :: _, _ => rfl
  | n + 1, t, f :: fs, c => by
    simp only [landUpTo]
    split
    · rfl
    · split
      · rw [besides_landUpTo, Core.besides_wrs]
      · rfl

/-- What settles at a clk writes registers only. -/
theorem Core.besides_settle (c : Core) (t : Nat) : (c.settle t).besides = c.besides := by
  simpa [Core.settle, Core.besides, Core.setTmg] using besides_landUpTo c.tmg.flights.length t c.tmg.flights c
/-- So does what lands before a halt or a trap. -/
theorem Core.besides_drain (c : Core) : c.drain.besides = c.besides := by
  simpa [Core.drain, Core.besides, Core.setTmg] using
    besides_landUpTo c.tmg.flights.length (c.tmg.flights.foldl (fun m f => max m f.land) 0) c.tmg.flights c

/-- Cores alike besides their register files agree in every other piece of state. -/
theorem Core.besides_fields {c d : Core} (h : c.besides = d.besides) :
    c.regs.pc = d.regs.pc ∧ c.regs.trap = d.regs.trap ∧ c.regs.fp = d.regs.fp ∧ c.regs.strm = d.regs.strm ∧
      c.regs.loops = d.regs.loops ∧ c.spad = d.spad ∧ c.slices = d.slices ∧ c.eng = d.eng ∧ c.comm = d.comm ∧ c.lt = d.lt ∧
      c.task = d.task ∧ c.doms = d.doms ∧ c.mode = d.mode ∧ c.wait = d.wait ∧ c.ctag = d.ctag :=
  ⟨congrArg (·.regs.pc) h, congrArg (·.regs.trap) h, congrArg (·.regs.fp) h, congrArg (·.regs.strm) h, congrArg (·.regs.loops) h,
    congrArg (·.spad) h, congrArg (·.slices) h, congrArg (·.eng) h, congrArg (·.comm) h, congrArg (·.lt) h, congrArg (·.task) h,
    congrArg (·.doms) h, congrArg (·.mode) h, congrArg (·.wait) h, congrArg (·.ctag) h⟩

theorem Core.settle_fields (c : Core) (t : Nat) :
    (c.settle t).regs.trap = c.regs.trap ∧ (c.settle t).regs.fp = c.regs.fp ∧ (c.settle t).regs.strm = c.regs.strm ∧
      (c.settle t).regs.loops = c.regs.loops ∧ (c.settle t).regs.pc = c.regs.pc ∧ (c.settle t).spad = c.spad ∧
      (c.settle t).slices = c.slices ∧ (c.settle t).eng = c.eng ∧ (c.settle t).comm = c.comm ∧ (c.settle t).lt = c.lt :=
  let h := Core.besides_fields (Core.besides_settle c t)
  ⟨h.2.1, h.2.2.1, h.2.2.2.1, h.2.2.2.2.1, h.1, h.2.2.2.2.2.1, h.2.2.2.2.2.2.1, h.2.2.2.2.2.2.2.1, h.2.2.2.2.2.2.2.2.1,
    h.2.2.2.2.2.2.2.2.2.1⟩

/-! ## Times at homes -/

@[simp] theorem State.readTime_hbm (s : State) (lt : Nat) (k : HomeId) : (s.readTime lt k).1.hbm = s.hbm := rfl
@[simp] theorem State.readTime_cores (s : State) (lt : Nat) (k : HomeId) : (s.readTime lt k).1.cores = s.cores := rfl
@[simp] theorem State.backInvalidate_hbm (s : State) (k : HomeId) : (s.backInvalidate k).hbm = s.hbm := by
  cases k <;> simp only [State.backInvalidate] <;> try rfl
  split <;> rfl
@[simp] theorem State.backInvalidate_fabric (s : State) (k : HomeId) : (s.backInvalidate k).fabric = s.fabric := by
  cases k <;> simp only [State.backInvalidate] <;> try rfl
  split <;> rfl
@[simp] theorem State.backInvalidate_cores (s : State) (k : HomeId) : (s.backInvalidate k).cores = s.cores := by
  cases k <;> simp only [State.backInvalidate] <;> try rfl
  split <;> rfl
@[simp] theorem State.writeTime_hbm (s : State) (lt : Nat) (k : HomeId) : (s.writeTime lt k).1.hbm = s.hbm := by
  simp [State.writeTime]
@[simp] theorem State.writeTime_fabric (s : State) (lt : Nat) (k : HomeId) : (s.writeTime lt k).1.fabric = s.fabric := by
  simp [State.writeTime]
@[simp] theorem State.coreRead_hbm (s : State) (n : Nat) (k : HomeId) : (s.coreRead n k).hbm = s.hbm := rfl
@[simp] theorem State.coreRead_fabric (s : State) (n : Nat) (k : HomeId) : (s.coreRead n k).fabric = s.fabric := rfl
@[simp] theorem State.coreWrite_hbm (s : State) (n : Nat) (k : HomeId) : (s.coreWrite n k).hbm = s.hbm := by
  simp [State.coreWrite]
@[simp] theorem State.coreWrite_fabric (s : State) (n : Nat) (k : HomeId) : (s.coreWrite n k).fabric = s.fabric := by
  simp [State.coreWrite]
/-! ## Exceptions -/

/-- The core inside the handler, but for its program counter (R458). -/
def Core.inHandler (c : Core) (cause : Cause) (val : Word) (prog : BitVec 3) : Core :=
  { c.setTrap fun t => { t with xpc := if cause = .syscall then c.regs.pc + 12 else c.regs.pc, xcause := cause.code, xval := val,
                                xprog := prog, ps := t.sup, pt := t.tim, sup := true, tim := false, exl := true } with
    wait := .none, access := none, behind := false, ahead := false, owes := none
    tmg := { c.tmg with clk := c.tmg.clk + 1, obuf := [], loopBuf := none, inside := none } }

/-- Everything that taking an exception can do: fault-on-fault inside a handler or where the record cannot be written, else the entry. -/
theorem State.takeTrap_cases (s : State) (n : Nat) (cause : Cause) (val : Word) (prog : BitVec 3) :
    let c := (s.core n).drain
    let s0 := ((s.setCore n c).leaveLockstep n).onDepth n (· + 1)
    let s1 := s0.setCore n (c.inHandler cause val prog)
    let at_ := (c.regs.trap.xrec.setWidth 64 <<< 7 : Word).toNat
    (c.regs.trap.exl = true ∧ s.takeTrap n cause val prog = s0.faultOnFault n c.regs.pc.toNat) ∨
    (c.regs.trap.exl = false ∧ s1.pinned n at_ = none ∧ s.takeTrap n cause val prog = s1.faultOnFault n at_) ∨
    ∃ pa pol, c.regs.trap.exl = false ∧ s1.pinned n at_ = some (pa, pol) ∧
      let s2 := s1.writeGlobal n pa pol (s1.trapRecord n (s1.cycleOf n (c.inHandler cause val prog)))
      s.takeTrap n cause val prog = s2.setCore n ((s2.core n).setPc (c.regs.trap.xvec.setWidth 64 <<< 2)) := by
  intro c s0 s1 at_
  have key : s.takeTrap n cause val prog = if c.regs.trap.exl then s0.faultOnFault n c.regs.pc.toNat
      else match s1.pinned n at_ with
        | none => s1.faultOnFault n at_
        | some (pa, pol) =>
          let s2 := s1.writeGlobal n pa pol (s1.trapRecord n (s1.cycleOf n (c.inHandler cause val prog)))
          s2.setCore n ((s2.core n).setPc (c.regs.trap.xvec.setWidth 64 <<< 2)) := rfl
  rw [key]
  cases he : c.regs.trap.exl
  · cases hp : s1.pinned n at_ with
    | none => exact .inr (.inl ⟨rfl, rfl, rfl⟩)
    | some x => exact .inr (.inr ⟨x.1, x.2, rfl, rfl, rfl⟩)
  · exact .inl ⟨rfl, rfl⟩

/-- What returning from an exception leaves (R461). -/
theorem Core.returnTrap_fields (c : Core) :
    c.returnTrap.regs.pc = c.regs.trap.xpc ∧ c.returnTrap.regs.trap.sup = c.regs.trap.ps ∧
      c.returnTrap.regs.trap.tim = c.regs.trap.pt ∧ c.returnTrap.regs.trap.exl = false ∧
      c.returnTrap.regs.trap.xprog = c.regs.trap.xprog ∧ c.returnTrap.regs.g = c.regs.g ∧ c.returnTrap.regs.v = c.regs.v ∧
      c.returnTrap.regs.p = c.regs.p ∧ c.returnTrap.regs.k = c.regs.k ∧ c.returnTrap.regs.fp = c.regs.fp :=
  ⟨rfl, rfl, rfl, rfl, rfl, rfl, rfl, rfl, rfl, rfl⟩

end Sys2Proof.Machine
end

