-- ==== Sys2Proof/Laws/PerInstr.lean ====
section
/-! SUPPORT. One lemma per constructor of Instr: the fields that the encoder gives it select its own row of the tables and pass
every check of R37. The text is uniform: what each field of MOD, IMM and FN holds, then the checks. -/
open Sys2Proof Sys2Proof.Laws

section
set_option Elab.async false
set_option linter.unusedSimpArgs false
set_option linter.unreachableTactic false
set_option linter.unusedTactic false

theorem Sys2Proof.Laws.Fields.dividerResult (core : Nat) :
    Fields.Statement (.dividerResult core) := by
  intro hw r hr
  cases hr

theorem Sys2Proof.Laws.Fields.evcWrite (cl : Nat) (e : Fin 64) (x : BitVec 64) :
    Fields.Statement (.evcWrite cl e x) := by
  intro hw r hr
  cases hr

theorem Sys2Proof.Laws.Fields.bcfgWrite (cl : Nat) (b : Fin 32) (x : BitVec 64) :
    Fields.Statement (.bcfgWrite cl b x) := by
  intro hw r hr
  cases hr

theorem Sys2Proof.Laws.Fields.globalAccessComplete (core : Nat) :
    Fields.Statement (.globalAccessComplete core) := by
  intro hw r hr
  cases hr

theorem Sys2Proof.Laws.Fields.pageWalk (die : Nat) (vsid : BitVec 8) (granule : Nat) :
    Fields.Statement (.pageWalk die vsid granule) := by
  intro hw r hr
  cases hr

theorem Sys2Proof.Laws.Fields.l1dEviction (cl : Nat) (line : Nat) (swm : Bool) :
    Fields.Statement (.l1dEviction cl line swm) := by
  intro hw r hr
  cases hr

theorem Sys2Proof.Laws.Fields.eventMessage (m : EvMsg) :
    Fields.Statement (.eventMessage m) := by
  intro hw r hr
  cases hr

theorem Sys2Proof.Laws.Fields.barrierArrivalMessage (m : BarArrival) :
    Fields.Statement (.barrierArrivalMessage m) := by
  intro hw r hr
  cases hr

theorem Sys2Proof.Laws.Fields.barrierReleaseMessage (m : BarRelease) :
    Fields.Statement (.barrierReleaseMessage m) := by
  intro hw r hr
  cases hr

theorem Sys2Proof.Laws.Fields.channelClaim (m : Claim) :
    Fields.Statement (.channelClaim m) := by
  intro hw r hr
  cases hr

theorem Sys2Proof.Laws.Fields.channelClaimAnswer (m : Claim) (granted : Bool) :
    Fields.Statement (.channelClaimAnswer m granted) := by
  intro hw r hr
  cases hr

theorem Sys2Proof.Laws.Fields.channelMessageLand (core : Nat) (slot : Fin 16) (m : ChanMsg) :
    Fields.Statement (.channelMessageLand core slot m) := by
  intro hw r hr
  cases hr

theorem Sys2Proof.Laws.Fields.channelGrant (core : Nat) (ch : Fin 16) :
    Fields.Statement (.channelGrant core ch) := by
  intro hw r hr
  cases hr

theorem Sys2Proof.Laws.Fields.timedMessageLand (core : Nat) (land : Fin 16) (m : ChanMsg) :
    Fields.Statement (.timedMessageLand core land m) := by
  intro hw r hr
  cases hr

theorem Sys2Proof.Laws.Fields.streamChunkArrive (core : Nat) (port : Fin 4) :
    Fields.Statement (.streamChunkArrive core port) := by
  intro hw r hr
  cases hr

theorem Sys2Proof.Laws.Fields.arrayOpStart (cl : Nat) (sh : Fin 2) :
    Fields.Statement (.arrayOpStart cl sh) := by
  intro hw r hr
  cases hr

theorem Sys2Proof.Laws.Fields.arrayRowWrite (cl : Nat) (sh : Fin 2) (parityBad : Bool) :
    Fields.Statement (.arrayRowWrite cl sh parityBad) := by
  intro hw r hr
  cases hr

theorem Sys2Proof.Laws.Fields.arrayOpFinish (cl : Nat) (sh : Fin 2) :
    Fields.Statement (.arrayOpFinish cl sh) := by
  intro hw r hr
  cases hr

theorem Sys2Proof.Laws.Fields.scaleWriteRelease (cl : Nat) (sh : Fin 2) :
    Fields.Statement (.scaleWriteRelease cl sh) := by
  intro hw r hr
  cases hr

theorem Sys2Proof.Laws.Fields.commandComplete (core : Nat) (cls : Fin 4) (seq : Nat) :
    Fields.Statement (.commandComplete core cls seq) := by
  intro hw r hr
  cases hr

theorem Sys2Proof.Laws.Fields.commandFail (core : Nat) (cls : Fin 4) (seq : Nat) :
    Fields.Statement (.commandFail core cls seq) := by
  intro hw r hr
  cases hr

theorem Sys2Proof.Laws.Fields.collectiveGeneration (lid : Nat) (vdev : Nat) (gid : BitVec 32) :
    Fields.Statement (.collectiveGeneration lid vdev gid) := by
  intro hw r hr
  cases hr

theorem Sys2Proof.Laws.Fields.spsumPairAdd (n : Nat) :
    Fields.Statement (.spsumPairAdd n) := by
  intro hw r hr
  cases hr

theorem Sys2Proof.Laws.Fields.storageCompletion (core : Nat) (seq : Nat) (mediaError : Bool) :
    Fields.Statement (.storageCompletion core seq mediaError) := by
  intro hw r hr
  cases hr

theorem Sys2Proof.Laws.Fields.networkReceive (v : Fin 32) (ep : Fin 256) (immd : BitVec 64) (data : List (BitVec 8)) :
    Fields.Statement (.networkReceive v ep immd data) := by
  intro hw r hr
  cases hr

theorem Sys2Proof.Laws.Fields.xbarPulseArrive (cl : Nat) :
    Fields.Statement (.xbarPulseArrive cl) := by
  intro hw r hr
  cases hr

theorem Sys2Proof.Laws.Fields.yieldRequest (core : Nat) :
    Fields.Statement (.yieldRequest core) := by
  intro hw r hr
  cases hr

theorem Sys2Proof.Laws.Fields.graceExpiry (cl : Nat) :
    Fields.Statement (.graceExpiry cl) := by
  intro hw r hr
  cases hr

theorem Sys2Proof.Laws.Fields.launchWindowWrite (v : Fin 32) (req : Nat) (off : BitVec 7) (data : List (BitVec 8)) :
    Fields.Statement (.launchWindowWrite v req off data) := by
  intro hw r hr
  cases hr

theorem Sys2Proof.Laws.Fields.launchActivate (v : Fin 32) (lid : Nat) :
    Fields.Statement (.launchActivate v lid) := by
  intro hw r hr
  cases hr

theorem Sys2Proof.Laws.Fields.launchComplete (v : Fin 32) (lid : Nat) :
    Fields.Statement (.launchComplete v lid) := by
  intro hw r hr
  cases hr

theorem Sys2Proof.Laws.Fields.taskPop (core : Nat) :
    Fields.Statement (.taskPop core) := by
  intro hw r hr
  cases hr

theorem Sys2Proof.Laws.Fields.idleSearchWiden (core : Nat) :
    Fields.Statement (.idleSearchWiden core) := by
  intro hw r hr
  cases hr

theorem Sys2Proof.Laws.Fields.queueAging :
    Fields.Statement (.queueAging) := by
  intro hw r hr
  cases hr

theorem Sys2Proof.Laws.Fields.domainCharge :
    Fields.Statement (.domainCharge) := by
  intro hw r hr
  cases hr

theorem Sys2Proof.Laws.Fields.auditReplay (sig2 : BitVec 64) (sig3 : BitVec 64) (unit2 : SuspUnit) (unit3 : SuspUnit) :
    Fields.Statement (.auditReplay sig2 sig3 unit2 unit3) := by
  intro hw r hr
  cases hr

theorem Sys2Proof.Laws.Fields.saddleTick :
    Fields.Statement (.saddleTick) := by
  intro hw r hr
  cases hr

theorem Sys2Proof.Laws.Fields.packetEject (id : Nat) :
    Fields.Statement (.packetEject id) := by
  intro hw r hr
  cases hr

theorem Sys2Proof.Laws.Fields.colChannelEscape (id : Nat) :
    Fields.Statement (.colChannelEscape id) := by
  intro hw r hr
  cases hr

theorem Sys2Proof.Laws.Fields.dataFrameReceive (link : Fin 50) (dir : Fin 2) (f : Frame) :
    Fields.Statement (.dataFrameReceive link dir f) := by
  intro hw r hr
  cases hr

theorem Sys2Proof.Laws.Fields.replayRequest (link : Fin 50) (dir : Fin 2) (acke : BitVec 16) :
    Fields.Statement (.replayRequest link dir acke) := by
  intro hw r hr
  cases hr

theorem Sys2Proof.Laws.Fields.probeTimeout (link : Fin 50) (dir : Fin 2) :
    Fields.Statement (.probeTimeout link dir) := by
  intro hw r hr
  cases hr

theorem Sys2Proof.Laws.Fields.probe (link : Fin 50) (dir : Fin 2) :
    Fields.Statement (.probe link dir) := by
  intro hw r hr
  cases hr

theorem Sys2Proof.Laws.Fields.digest (link : Fin 50) (dir : Fin 2) (dseq : BitVec 16) (dig : BitVec 64) :
    Fields.Statement (.digest link dir dseq dig) := by
  intro hw r hr
  cases hr

theorem Sys2Proof.Laws.Fields.resetRequest (link : Fin 50) (dir : Fin 2) (acke : BitVec 16) :
    Fields.Statement (.resetRequest link dir acke) := by
  intro hw r hr
  cases hr

theorem Sys2Proof.Laws.Fields.linkRetrain (link : Fin 50) (lanes : BitVec 16) :
    Fields.Statement (.linkRetrain link lanes) := by
  intro hw r hr
  cases hr

theorem Sys2Proof.Laws.Fields.linkReroute :
    Fields.Statement (.linkReroute) := by
  intro hw r hr
  cases hr

theorem Sys2Proof.Laws.Fields.diagnosisVote (u : FenceUnit) (vote0 : Bool) (vote1 : Bool) (peer : Option Bool) :
    Fields.Statement (.diagnosisVote u vote0 vote1 peer) := by
  intro hw r hr
  cases hr

theorem Sys2Proof.Laws.Fields.dieTakeover (pdie : Fin 9) (remote : Option (Fin 16)) :
    Fields.Statement (.dieTakeover pdie remote) := by
  intro hw r hr
  cases hr

theorem Sys2Proof.Laws.Fields.dieMapFlip :
    Fields.Statement (.dieMapFlip) := by
  intro hw r hr
  cases hr

theorem Sys2Proof.Laws.Fields.peerWindowAccess (v : Fin 32) (req : Nat) (off : BitVec 36) (a : PortAccess) :
    Fields.Statement (.peerWindowAccess v req off a) := by
  intro hw r hr
  cases hr

theorem Sys2Proof.Laws.Fields.postedWriteArrive (v : Fin 32) (req : Nat) :
    Fields.Statement (.postedWriteArrive v req) := by
  intro hw r hr
  cases hr

theorem Sys2Proof.Laws.Fields.cxlMemAccess (off : Nat) (a : PortAccess) :
    Fields.Statement (.cxlMemAccess off a) := by
  intro hw r hr
  cases hr

theorem Sys2Proof.Laws.Fields.fabricRecall (line : Nat) (invalidate : Bool) :
    Fields.Statement (.fabricRecall line invalidate) := by
  intro hw r hr
  cases hr

theorem Sys2Proof.Laws.Fields.remoteAccessArrive (port : Nat) (pa : BitVec 47) (a : PortAccess) :
    Fields.Statement (.remoteAccessArrive port pa a) := by
  intro hw r hr
  cases hr

theorem Sys2Proof.Laws.Fields.layoutRequest (sp : Fin 2) :
    Fields.Statement (.layoutRequest sp) := by
  intro hw r hr
  cases hr

theorem Sys2Proof.Laws.Fields.layoutFlip :
    Fields.Statement (.layoutFlip) := by
  intro hw r hr
  cases hr

theorem Sys2Proof.Laws.Fields.protectionRequest (sp : Fin 2) (peers : List ProtReq) :
    Fields.Statement (.protectionRequest sp peers) := by
  intro hw r hr
  cases hr

theorem Sys2Proof.Laws.Fields.attestationRequest (sp : Fin 2) :
    Fields.Statement (.attestationRequest sp) := by
  intro hw r hr
  cases hr

theorem Sys2Proof.Laws.Fields.serverMaskRequest (sp : Fin 2) :
    Fields.Statement (.serverMaskRequest sp) := by
  intro hw r hr
  cases hr

theorem Sys2Proof.Laws.Fields.spWatchdogReset (sp : Fin 2) :
    Fields.Statement (.spWatchdogReset sp) := by
  intro hw r hr
  cases hr

theorem Sys2Proof.Laws.Fields.spLoss (sp : Fin 2) :
    Fields.Statement (.spLoss sp) := by
  intro hw r hr
  cases hr

theorem Sys2Proof.Laws.Fields.vdSnapshot (v : Fin 32) :
    Fields.Statement (.vdSnapshot v) := by
  intro hw r hr
  cases hr

theorem Sys2Proof.Laws.Fields.epochStart (gid : BitVec 32) (data : List MemberSymbols) :
    Fields.Statement (.epochStart gid data) := by
  intro hw r hr
  cases hr

theorem Sys2Proof.Laws.Fields.epochCommit (gid : BitVec 32) :
    Fields.Statement (.epochCommit gid) := by
  intro hw r hr
  cases hr

theorem Sys2Proof.Laws.Fields.groupRebuild (gid : BitVec 32) (lost : List Nat) (symbols : List MemberSymbols) :
    Fields.Statement (.groupRebuild gid lost symbols) := by
  intro hw r hr
  cases hr

theorem Sys2Proof.Laws.Fields.packageLoss (pkg : Fin 16) (newId : BitVec 10) :
    Fields.Statement (.packageLoss pkg newId) := by
  intro hw r hr
  cases hr

theorem Sys2Proof.Laws.Fields.coreHangTimeout (core : Nat) :
    Fields.Statement (.coreHangTimeout core) := by
  intro hw r hr
  cases hr

theorem Sys2Proof.Laws.Fields.coreFailure (core : Nat) :
    Fields.Statement (.coreFailure core) := by
  intro hw r hr
  cases hr

theorem Sys2Proof.Laws.Fields.clusterFailure (cl : Nat) :
    Fields.Statement (.clusterFailure cl) := by
  intro hw r hr
  cases hr

theorem Sys2Proof.Laws.Fields.l2SliceFence (die : Fin 9) (slice : Fin 48) :
    Fields.Statement (.l2SliceFence die slice) := by
  intro hw r hr
  cases hr

theorem Sys2Proof.Laws.Fields.stackLoss (k : Fin 16) :
    Fields.Statement (.stackLoss k) := by
  intro hw r hr
  cases hr

theorem Sys2Proof.Laws.Fields.ioDieLoss (n : Fin 2) :
    Fields.Statement (.ioDieLoss n) := by
  intro hw r hr
  cases hr

theorem Sys2Proof.Laws.Fields.hbmScrub (found : List RowEvent) :
    Fields.Statement (.hbmScrub found) := by
  intro hw r hr
  cases hr

theorem Sys2Proof.Laws.Fields.hbmRowRepair (k : Fin 16) :
    Fields.Statement (.hbmRowRepair k) := by
  intro hw r hr
  cases hr

theorem Sys2Proof.Laws.Fields.scoreDecay :
    Fields.Statement (.scoreDecay) := by
  intro hw r hr
  cases hr

theorem Sys2Proof.Laws.Fields.unitDrain (u : SuspUnit) :
    Fields.Statement (.unitDrain u) := by
  intro hw r hr
  cases hr

theorem Sys2Proof.Laws.Fields.unitTestDone (u : SuspUnit) (pass : Bool) :
    Fields.Statement (.unitTestDone u pass) := by
  intro hw r hr
  cases hr

theorem Sys2Proof.Laws.Fields.bringUp (passing : BitVec 9) (supply : List (List (BitVec 8))) (fuseless : List (Fin 16 × BitVec 4 × BitVec 4)) :
    Fields.Statement (.bringUp passing supply fuseless) := by
  intro hw r hr
  cases hr

theorem Sys2Proof.Laws.Fields.vcoreDroop (cl : Nat) (mV : Nat) :
    Fields.Statement (.vcoreDroop cl mV) := by
  intro hw r hr
  cases hr

theorem Sys2Proof.Laws.Fields.thermalThrottle (cl : Nat) (celsius : Int) :
    Fields.Statement (.thermalThrottle cl celsius) := by
  intro hw r hr
  cases hr

theorem Sys2Proof.Laws.Fields.powerCap (milliwatt : Nat) :
    Fields.Statement (.powerCap milliwatt) := by
  intro hw r hr
  cases hr

theorem Sys2Proof.Laws.Fields.thermalShutdown (celsius : Int) :
    Fields.Statement (.thermalShutdown celsius) := by
  intro hw r hr
  cases hr

theorem Sys2Proof.Laws.Fields.packageReset :
    Fields.Statement (.packageReset) := by
  intro hw r hr
  cases hr

theorem Sys2Proof.Laws.Fields.protectionGroupTimeout (gid : BitVec 32) :
    Fields.Statement (.protectionGroupTimeout gid) := by
  intro hw r hr
  cases hr

theorem Sys2Proof.Laws.Fields.pwctlWrite (v : Fin 32) (x : BitVec 64) :
    Fields.Statement (.pwctlWrite v x) := by
  intro hw r hr
  cases hr

theorem Sys2Proof.Laws.Fields.vcoreRecovery (cl : Nat) (mV : Nat) :
    Fields.Statement (.vcoreRecovery cl mV) := by
  intro hw r hr
  cases hr

theorem Sys2Proof.Laws.Fields.throttleRelease (cl : Nat) (celsius : Int) :
    Fields.Statement (.throttleRelease cl celsius) := by
  intro hw r hr
  cases hr

theorem Sys2Proof.Laws.Fields.haltRestart (core : Nat) :
    Fields.Statement (.haltRestart core) := by
  intro hw r hr
  cases hr

theorem Sys2Proof.Laws.Fields.haltedPartitionEnd (p : Fin 64) :
    Fields.Statement (.haltedPartitionEnd p) := by
  intro hw r hr
  cases hr

theorem Sys2Proof.Laws.Fields.remoteSpareLend (borrower : Fin 16) :
    Fields.Statement (.remoteSpareLend borrower) := by
  intro hw r hr
  cases hr

theorem Sys2Proof.Laws.Fields.vdMigration (v : Fin 32) (cycleLast : BitVec 64) (saddleLast : BitVec 64) :
    Fields.Statement (.vdMigration v cycleLast saddleLast) := by
  intro hw r hr
  cases hr

theorem Sys2Proof.Laws.Fields.nop (h : Hdr)  :
    Fields.Statement (.nop h ) := by
  intro hw r hr
  cases hr
  rw [hdr_of_fields h _ rfl rfl, formOf_14 _ _ rfl]
  dsimp only [form14, Raw.base]
  simp [Instr.wf, checkSel, badClass, badUnused, badGroup, badOverlap, groupFits, Cls.ok] at hw ⊢
  all_goals simp_all

theorem Sys2Proof.Laws.Fields.timed (h : Hdr)  :
    Fields.Statement (.timed h ) := by
  intro hw r hr
  cases hr
  rw [hdr_of_fields h _ rfl rfl, formOf_14 _ _ rfl]
  dsimp only [form14, Raw.base]
  simp [Instr.wf, checkSel, badClass, badUnused, badGroup, badOverlap, groupFits, Cls.ok] at hw ⊢
  all_goals simp_all

theorem Sys2Proof.Laws.Fields.checked (h : Hdr)  :
    Fields.Statement (.checked h ) := by
  intro hw r hr
  cases hr
  rw [hdr_of_fields h _ rfl rfl, formOf_14 _ _ rfl]
  dsimp only [form14, Raw.base]
  simp [Instr.wf, checkSel, badClass, badUnused, badGroup, badOverlap, groupFits, Cls.ok] at hw ⊢
  all_goals simp_all

theorem Sys2Proof.Laws.Fields.gang (h : Hdr) (base : BitVec 5) (num : BitVec 5) :
    Fields.Statement (.gang h base num) := by
  intro hw r hr
  cases hr
  rw [hdr_of_fields h _ rfl rfl, formOf_15 _ _ rfl]
  dsimp only [form15, Raw.base]
  have jj0 := bits_0 base num
  have jj1 := bits_1 base num
  have jj2 := bits_2 base num
  generalize ((base.setWidth 32 <<< 0) ||| (num.setWidth 32 <<< 5)) = jj at *
  simp only [jj0, jj1, jj2]
  simp [Instr.wf, checkSel, badClass, badUnused, badGroup, badOverlap, groupFits, Cls.ok] at hw ⊢
  all_goals simp_all

theorem Sys2Proof.Laws.Fields.gsplit (h : Hdr)  :
    Fields.Statement (.gsplit h ) := by
  intro hw r hr
  cases hr
  rw [hdr_of_fields h _ rfl rfl, formOf_15 _ _ rfl]
  dsimp only [form15, Raw.base]
  simp [Instr.wf, checkSel, badClass, badUnused, badGroup, badOverlap, groupFits, Cls.ok] at hw ⊢
  all_goals simp_all

theorem Sys2Proof.Laws.Fields.gjoin (h : Hdr)  :
    Fields.Statement (.gjoin h ) := by
  intro hw r hr
  cases hr
  rw [hdr_of_fields h _ rfl rfl, formOf_15 _ _ rfl]
  dsimp only [form15, Raw.base]
  simp [Instr.wf, checkSel, badClass, badUnused, badGroup, badOverlap, groupFits, Cls.ok] at hw ⊢
  all_goals simp_all

theorem Sys2Proof.Laws.Fields.ld (h : Hdr) (d : GReg) (a : GReg) (sz : BitVec 2) (zx : Bool) (imm : BitVec 32) :
    Fields.Statement (.ld h d a sz zx imm) := by
  intro hw r hr
  cases hr
  rw [hdr_of_fields h _ rfl rfl, formOf_18 _ _ rfl]
  dsimp only [form18, Raw.base]
  have mm0 := bits_3 sz zx
  have mm1 := bits_4 sz zx
  have mm2 := bits_5 sz zx
  generalize ((sz.setWidth 8 <<< 0) ||| bitAt 8 2 zx) = mm at *
  simp only [mm0, mm1, mm2]
  simp [Instr.wf, checkSel, badClass, badUnused, badGroup, badOverlap, groupFits, Cls.ok] at hw ⊢
  all_goals simp_all [Instr.wf, checkSel, badClass, badUnused, badGroup, badOverlap, groupFits, Cls.ok]
  all_goals (intro hx; simp_all)

theorem Sys2Proof.Laws.Fields.st (h : Hdr) (a : GReg) (b : GReg) (sz : BitVec 2) (imm : BitVec 32) :
    Fields.Statement (.st h a b sz imm) := by
  intro hw r hr
  cases hr
  rw [hdr_of_fields h _ rfl rfl, formOf_19 _ _ rfl]
  dsimp only [form19, Raw.base]
  have mm0 := bits_6 sz
  have mm1 := bits_7 sz
  generalize ((sz.setWidth 8 <<< 0)) = mm at *
  simp only [mm0, mm1]
  simp [Instr.wf, checkSel, badClass, badUnused, badGroup, badOverlap, groupFits, Cls.ok] at hw ⊢
  all_goals simp_all

theorem Sys2Proof.Laws.Fields.vld (h : Hdr) (tag : BitVec 8) (d : VReg) (a : GReg) (x : BitVec 2) (imm : BitVec 32) :
    Fields.Statement (.vld h tag d a x imm) := by
  intro hw r hr
  cases hr
  rw [hdr_of_fields h _ rfl rfl, formOf_1A _ _ rfl]
  dsimp only [form1A, Raw.base]
  have mm0 := bits_8 x
  have mm1 := bits_9 x
  generalize ((x.setWidth 8 <<< 4)) = mm at *
  have ff0 := bits_10 tag
  have ff1 := bits_11 tag
  generalize (tag.setWidth 9) = ff at *
  simp only [mm0, mm1, ff0, ff1]
  simp [Instr.wf, checkSel, badClass, badUnused, badGroup, badOverlap, groupFits, Cls.ok] at hw ⊢
  all_goals simp_all [Instr.wf, checkSel, badClass, badUnused, badGroup, badOverlap, groupFits, Cls.ok]

theorem Sys2Proof.Laws.Fields.vst (h : Hdr) (a : GReg) (b : VReg) (x : BitVec 2) (imm : BitVec 32) :
    Fields.Statement (.vst h a b x imm) := by
  intro hw r hr
  cases hr
  rw [hdr_of_fields h _ rfl rfl, formOf_1A _ _ rfl]
  dsimp only [form1A, Raw.base]
  have mm0 := bits_8 x
  have mm1 := bits_9 x
  generalize ((x.setWidth 8 <<< 4)) = mm at *
  simp only [mm0, mm1]
  simp [Instr.wf, checkSel, badClass, badUnused, badGroup, badOverlap, groupFits, Cls.ok] at hw ⊢
  all_goals simp_all

theorem Sys2Proof.Laws.Fields.vldImg (h : Hdr) (d : VReg) (a : GReg) (x : BitVec 2) (imm : BitVec 32) :
    Fields.Statement (.vldImg h d a x imm) := by
  intro hw r hr
  cases hr
  rw [hdr_of_fields h _ rfl rfl, formOf_1A _ _ rfl]
  dsimp only [form1A, Raw.base]
  have mm0 := bits_8 x
  have mm1 := bits_9 x
  generalize ((x.setWidth 8 <<< 4)) = mm at *
  simp only [mm0, mm1]
  simp [Instr.wf, checkSel, badClass, badUnused, badGroup, badOverlap, groupFits, Cls.ok] at hw ⊢
  all_goals simp_all

theorem Sys2Proof.Laws.Fields.vstImg (h : Hdr) (a : GReg) (b : VReg) (x : BitVec 2) (imm : BitVec 32) :
    Fields.Statement (.vstImg h a b x imm) := by
  intro hw r hr
  cases hr
  rw [hdr_of_fields h _ rfl rfl, formOf_1A _ _ rfl]
  dsimp only [form1A, Raw.base]
  have mm0 := bits_8 x
  have mm1 := bits_9 x
  generalize ((x.setWidth 8 <<< 4)) = mm at *
  simp only [mm0, mm1]
  simp [Instr.wf, checkSel, badClass, badUnused, badGroup, badOverlap, groupFits, Cls.ok] at hw ⊢
  all_goals simp_all

theorem Sys2Proof.Laws.Fields.vldl (h : Hdr) (tag : BitVec 8) (d : VReg) (a : VReg) (km : KReg) (imm : BitVec 32) :
    Fields.Statement (.vldl h tag d a km imm) := by
  intro hw r hr
  cases hr
  rw [hdr_of_fields h _ rfl rfl, formOf_1B _ _ rfl]
  dsimp only [form1B, Raw.base]
  have mm0 := bits_12 km
  have mm1 := bits_13 km
  generalize ((BitVec.ofNat 8 km.val <<< 4)) = mm at *
  have ff0 := bits_10 tag
  have ff1 := bits_11 tag
  generalize (tag.setWidth 9) = ff at *
  simp only [mm0, mm1, ff0, ff1]
  simp [Instr.wf, checkSel, badClass, badUnused, badGroup, badOverlap, groupFits, Cls.ok] at hw ⊢
  all_goals simp_all [Instr.wf, checkSel, badClass, badUnused, badGroup, badOverlap, groupFits, Cls.ok]

theorem Sys2Proof.Laws.Fields.vstl (h : Hdr) (a : VReg) (b : VReg) (km : KReg) (imm : BitVec 32) :
    Fields.Statement (.vstl h a b km imm) := by
  intro hw r hr
  cases hr
  rw [hdr_of_fields h _ rfl rfl, formOf_1B _ _ rfl]
  dsimp only [form1B, Raw.base]
  have mm0 := bits_12 km
  have mm1 := bits_13 km
  generalize ((BitVec.ofNat 8 km.val <<< 4)) = mm at *
  simp only [mm0, mm1]
  simp [Instr.wf, checkSel, badClass, badUnused, badGroup, badOverlap, groupFits, Cls.ok] at hw ⊢
  all_goals simp_all

theorem Sys2Proof.Laws.Fields.vgath (h : Hdr) (tag : BitVec 8) (d : VReg) (a : GReg) (b : VReg) (km : KReg) :
    Fields.Statement (.vgath h tag d a b km) := by
  intro hw r hr
  cases hr
  rw [hdr_of_fields h _ rfl rfl, formOf_1C _ _ rfl]
  dsimp only [form1C, Raw.base]
  have mm0 := bits_12 km
  have mm1 := bits_13 km
  generalize ((BitVec.ofNat 8 km.val <<< 4)) = mm at *
  have ff0 := bits_10 tag
  have ff1 := bits_11 tag
  generalize (tag.setWidth 9) = ff at *
  simp only [mm0, mm1, ff0, ff1]
  simp [Instr.wf, checkSel, badClass, badUnused, badGroup, badOverlap, groupFits, Cls.ok] at hw ⊢
  all_goals simp_all [Instr.wf, checkSel, badClass, badUnused, badGroup, badOverlap, groupFits, Cls.ok]

theorem Sys2Proof.Laws.Fields.vscat (h : Hdr) (d : VReg) (a : GReg) (b : VReg) (km : KReg) :
    Fields.Statement (.vscat h d a b km) := by
  intro hw r hr
  cases hr
  rw [hdr_of_fields h _ rfl rfl, formOf_1C _ _ rfl]
  dsimp only [form1C, Raw.base]
  have mm0 := bits_12 km
  have mm1 := bits_13 km
  generalize ((BitVec.ofNat 8 km.val <<< 4)) = mm at *
  simp only [mm0, mm1]
  simp [Instr.wf, checkSel, badClass, badUnused, badGroup, badOverlap, groupFits, Cls.ok] at hw ⊢
  all_goals simp_all

theorem Sys2Proof.Laws.Fields.kld (h : Hdr) (d : KReg) (a : GReg) (imm : BitVec 32) :
    Fields.Statement (.kld h d a imm) := by
  intro hw r hr
  cases hr
  rw [hdr_of_fields h _ rfl rfl, formOf_1D _ _ rfl]
  dsimp only [form1D, Raw.base]
  simp [Instr.wf, checkSel, badClass, badUnused, badGroup, badOverlap, groupFits, Cls.ok] at hw ⊢
  all_goals simp_all

theorem Sys2Proof.Laws.Fields.kst (h : Hdr) (a : GReg) (b : KReg) (imm : BitVec 32) :
    Fields.Statement (.kst h a b imm) := by
  intro hw r hr
  cases hr
  rw [hdr_of_fields h _ rfl rfl, formOf_1D _ _ rfl]
  dsimp only [form1D, Raw.base]
  simp [Instr.wf, checkSel, badClass, badUnused, badGroup, badOverlap, groupFits, Cls.ok] at hw ⊢
  all_goals simp_all

theorem Sys2Proof.Laws.Fields.gld (h : Hdr) (d : GReg) (a : GReg) (sz : BitVec 2) (zx : Bool) (imm : BitVec 32) :
    Fields.Statement (.gld h d a sz zx imm) := by
  intro hw r hr
  cases hr
  rw [hdr_of_fields h _ rfl rfl, formOf_20 _ _ rfl]
  dsimp only [form20, Raw.base]
  have mm0 := bits_3 sz zx
  have mm1 := bits_4 sz zx
  have mm2 := bits_5 sz zx
  generalize ((sz.setWidth 8 <<< 0) ||| bitAt 8 2 zx) = mm at *
  simp only [mm0, mm1, mm2]
  simp [Instr.wf, checkSel, badClass, badUnused, badGroup, badOverlap, groupFits, Cls.ok] at hw ⊢
  all_goals simp_all [Instr.wf, checkSel, badClass, badUnused, badGroup, badOverlap, groupFits, Cls.ok]
  all_goals (intro hx; simp_all)

theorem Sys2Proof.Laws.Fields.gst (h : Hdr) (a : GReg) (b : GReg) (sz : BitVec 2) (imm : BitVec 32) :
    Fields.Statement (.gst h a b sz imm) := by
  intro hw r hr
  cases hr
  rw [hdr_of_fields h _ rfl rfl, formOf_21 _ _ rfl]
  dsimp only [form21, Raw.base]
  have mm0 := bits_6 sz
  have mm1 := bits_7 sz
  generalize ((sz.setWidth 8 <<< 0)) = mm at *
  simp only [mm0, mm1]
  simp [Instr.wf, checkSel, badClass, badUnused, badGroup, badOverlap, groupFits, Cls.ok] at hw ⊢
  all_goals simp_all

theorem Sys2Proof.Laws.Fields.gldV (h : Hdr) (tag : BitVec 8) (d : VReg) (a : GReg) (x : BitVec 2) (imm : BitVec 32) :
    Fields.Statement (.gldV h tag d a x imm) := by
  intro hw r hr
  cases hr
  rw [hdr_of_fields h _ rfl rfl, formOf_20 _ _ rfl]
  dsimp only [form20, Raw.base]
  have mm0 := bits_8 x
  have mm1 := bits_9 x
  generalize ((x.setWidth 8 <<< 4)) = mm at *
  have ff0 := bits_10 tag
  have ff1 := bits_11 tag
  generalize (tag.setWidth 9) = ff at *
  simp only [mm0, mm1, ff0, ff1]
  simp [Instr.wf, checkSel, badClass, badUnused, badGroup, badOverlap, groupFits, Cls.ok] at hw ⊢
  all_goals simp_all [Instr.wf, checkSel, badClass, badUnused, badGroup, badOverlap, groupFits, Cls.ok]

theorem Sys2Proof.Laws.Fields.gstV (h : Hdr) (a : GReg) (b : VReg) (x : BitVec 2) (imm : BitVec 32) :
    Fields.Statement (.gstV h a b x imm) := by
  intro hw r hr
  cases hr
  rw [hdr_of_fields h _ rfl rfl, formOf_21 _ _ rfl]
  dsimp only [form21, Raw.base]
  have mm0 := bits_8 x
  have mm1 := bits_9 x
  generalize ((x.setWidth 8 <<< 4)) = mm at *
  simp only [mm0, mm1]
  simp [Instr.wf, checkSel, badClass, badUnused, badGroup, badOverlap, groupFits, Cls.ok] at hw ⊢
  all_goals simp_all

theorem Sys2Proof.Laws.Fields.gldImg (h : Hdr) (d : VReg) (a : GReg) (x : BitVec 2) (imm : BitVec 32) :
    Fields.Statement (.gldImg h d a x imm) := by
  intro hw r hr
  cases hr
  rw [hdr_of_fields h _ rfl rfl, formOf_20 _ _ rfl]
  dsimp only [form20, Raw.base]
  have mm0 := bits_8 x
  have mm1 := bits_9 x
  generalize ((x.setWidth 8 <<< 4)) = mm at *
  simp only [mm0, mm1]
  simp [Instr.wf, checkSel, badClass, badUnused, badGroup, badOverlap, groupFits, Cls.ok] at hw ⊢
  all_goals simp_all

theorem Sys2Proof.Laws.Fields.gstImg (h : Hdr) (a : GReg) (b : VReg) (x : BitVec 2) (imm : BitVec 32) :
    Fields.Statement (.gstImg h a b x imm) := by
  intro hw r hr
  cases hr
  rw [hdr_of_fields h _ rfl rfl, formOf_21 _ _ rfl]
  dsimp only [form21, Raw.base]
  have mm0 := bits_8 x
  have mm1 := bits_9 x
  generalize ((x.setWidth 8 <<< 4)) = mm at *
  simp only [mm0, mm1]
  simp [Instr.wf, checkSel, badClass, badUnused, badGroup, badOverlap, groupFits, Cls.ok] at hw ⊢
  all_goals simp_all

theorem Sys2Proof.Laws.Fields.rwb (h : Hdr) (a : GReg) (b : GReg) :
    Fields.Statement (.rwb h a b) := by
  intro hw r hr
  cases hr
  rw [hdr_of_fields h _ rfl rfl, formOf_22 _ _ rfl]
  dsimp only [form22, Raw.base]
  simp [Instr.wf, checkSel, badClass, badUnused, badGroup, badOverlap, groupFits, Cls.ok] at hw ⊢
  all_goals simp_all

theorem Sys2Proof.Laws.Fields.rinv (h : Hdr) (a : GReg) (b : GReg) :
    Fields.Statement (.rinv h a b) := by
  intro hw r hr
  cases hr
  rw [hdr_of_fields h _ rfl rfl, formOf_22 _ _ rfl]
  dsimp only [form22, Raw.base]
  simp [Instr.wf, checkSel, badClass, badUnused, badGroup, badOverlap, groupFits, Cls.ok] at hw ⊢
  all_goals simp_all

theorem Sys2Proof.Laws.Fields.rwbi (h : Hdr) (a : GReg) (b : GReg) :
    Fields.Statement (.rwbi h a b) := by
  intro hw r hr
  cases hr
  rw [hdr_of_fields h _ rfl rfl, formOf_22 _ _ rfl]
  dsimp only [form22, Raw.base]
  simp [Instr.wf, checkSel, badClass, badUnused, badGroup, badOverlap, groupFits, Cls.ok] at hw ⊢
  all_goals simp_all

theorem Sys2Proof.Laws.Fields.pref (h : Hdr) (a : GReg) (l2 : Bool) (imm : BitVec 32) :
    Fields.Statement (.pref h a l2 imm) := by
  intro hw r hr
  cases hr
  rw [hdr_of_fields h _ rfl rfl, formOf_23 _ _ rfl]
  dsimp only [form23, Raw.base]
  have mm0 := bits_14 l2
  have mm1 := bits_15 l2
  generalize (bitAt 8 0 l2) = mm at *
  simp only [mm0, mm1]
  simp [Instr.wf, checkSel, badClass, badUnused, badGroup, badOverlap, groupFits, Cls.ok] at hw ⊢
  all_goals simp_all

theorem Sys2Proof.Laws.Fields.amo (h : Hdr) (op : BitVec 4) (d : GReg) (a : GReg) (b : GReg) (sz : BitVec 2) (scope : BitVec 3) (imm : BitVec 32) :
    Fields.Statement (.amo h op d a b sz scope imm) := by
  intro hw r hr
  cases hr
  rw [hdr_of_fields h _ rfl rfl, formOf_28 _ _ rfl]
  dsimp only [form28, Raw.base]
  have mm0 := bits_16 sz scope
  have mm1 := bits_17 sz scope
  have mm2 := bits_18 sz scope
  generalize ((sz.setWidth 8 <<< 0) ||| (scope.setWidth 8 <<< 4)) = mm at *
  have ff0 := bits_19 op
  have ff1 := bits_20 op
  have ff2 := bits_21 op
  generalize (op.setWidth 9) = ff at *
  simp only [mm0, mm1, mm2, ff0, ff1, ff2]
  simp [Instr.wf, checkSel, badClass, badUnused, badGroup, badOverlap, groupFits, Cls.ok] at hw ⊢
  all_goals simp_all [Instr.wf, checkSel, badClass, badUnused, badGroup, badOverlap, groupFits, Cls.ok]

theorem Sys2Proof.Laws.Fields.cas (h : Hdr) (d : GReg) (a : GReg) (b : GReg) (sz : BitVec 2) (scope : BitVec 3) (imm : BitVec 32) :
    Fields.Statement (.cas h d a b sz scope imm) := by
  intro hw r hr
  cases hr
  rw [hdr_of_fields h _ rfl rfl, formOf_29 _ _ rfl]
  dsimp only [form29, Raw.base]
  have mm0 := bits_16 sz scope
  have mm1 := bits_17 sz scope
  have mm2 := bits_18 sz scope
  generalize ((sz.setWidth 8 <<< 0) ||| (scope.setWidth 8 <<< 4)) = mm at *
  simp only [mm0, mm1, mm2]
  simp [Instr.wf, checkSel, badClass, badUnused, badGroup, badOverlap, groupFits, Cls.ok] at hw ⊢
  all_goals simp_all

theorem Sys2Proof.Laws.Fields.red (h : Hdr) (op : BitVec 4) (a : GReg) (b : GReg) (sz : BitVec 2) (scope : BitVec 3) (imm : BitVec 32) :
    Fields.Statement (.red h op a b sz scope imm) := by
  intro hw r hr
  cases hr
  rw [hdr_of_fields h _ rfl rfl, formOf_2A _ _ rfl]
  dsimp only [form2A, Raw.base]
  have mm0 := bits_16 sz scope
  have mm1 := bits_17 sz scope
  have mm2 := bits_18 sz scope
  generalize ((sz.setWidth 8 <<< 0) ||| (scope.setWidth 8 <<< 4)) = mm at *
  have ff0 := bits_19 op
  have ff1 := bits_20 op
  have ff2 := bits_21 op
  generalize (op.setWidth 9) = ff at *
  simp only [mm0, mm1, mm2, ff0, ff1, ff2]
  simp [Instr.wf, checkSel, badClass, badUnused, badGroup, badOverlap, groupFits, Cls.ok] at hw ⊢
  all_goals simp_all [Instr.wf, checkSel, badClass, badUnused, badGroup, badOverlap, groupFits, Cls.ok]

theorem Sys2Proof.Laws.Fields.evsigEv (h : Hdr) (tgt : Option GReg) (e : BitVec 6) (cnt : BitVec 16) :
    Fields.Statement (.evsigEv h tgt e cnt) := by
  intro hw r hr
  cases tgt with
  | some a =>
    cases hr
    rw [hdr_of_fields h _ rfl rfl, formOf_2B _ _ rfl]
    dsimp only [form2B, Raw.base]
    have jj0 := bits_22 e cnt
    have jj1 := bits_23 e cnt
    have jj2 := bits_24 e cnt
    generalize ((e.setWidth 32 <<< 0) ||| (cnt.setWidth 32 <<< 16)) = jj at *
    simp only [jj0, jj1, jj2]
    simp [Instr.wf, checkSel, badClass, badUnused, badGroup, badOverlap, groupFits, Cls.ok] at hw ⊢
    all_goals simp_all [Instr.wf, checkSel, badClass, badUnused, badGroup, badOverlap, groupFits, Cls.ok]
  | none =>
    cases hr
    rw [hdr_of_fields h _ rfl rfl, formOf_2B _ _ rfl]
    dsimp only [form2B, Raw.base]
    have jj0 := bits_22 e cnt
    have jj1 := bits_23 e cnt
    have jj2 := bits_24 e cnt
    generalize ((e.setWidth 32 <<< 0) ||| (cnt.setWidth 32 <<< 16)) = jj at *
    simp only [jj0, jj1, jj2]
    simp [Instr.wf, checkSel, badClass, badUnused, badGroup, badOverlap, groupFits, Cls.ok] at hw ⊢
    all_goals simp_all [Instr.wf, checkSel, badClass, badUnused, badGroup, badOverlap, groupFits, Cls.ok]

theorem Sys2Proof.Laws.Fields.evsigUnlock (h : Hdr) (m : BitVec 5) :
    Fields.Statement (.evsigUnlock h m) := by
  intro hw r hr
  cases hr
  rw [hdr_of_fields h _ rfl rfl, formOf_2B _ _ rfl]
  dsimp only [form2B, Raw.base]
  have jj0 := bits_25 m
  have jj1 := bits_26 m
  generalize ((m.setWidth 32 <<< 0)) = jj at *
  simp only [jj0, jj1]
  simp [Instr.wf, checkSel, badClass, badUnused, badGroup, badOverlap, groupFits, Cls.ok] at hw ⊢
  all_goals simp_all

theorem Sys2Proof.Laws.Fields.evsigPulse (h : Hdr) (c : BitVec 4) (cnt : BitVec 16) :
    Fields.Statement (.evsigPulse h c cnt) := by
  intro hw r hr
  cases hr
  rw [hdr_of_fields h _ rfl rfl, formOf_2B _ _ rfl]
  dsimp only [form2B, Raw.base]
  have jj0 := bits_27 c cnt
  have jj1 := bits_28 c cnt
  have jj2 := bits_29 c cnt
  generalize ((c.setWidth 32 <<< 0) ||| (cnt.setWidth 32 <<< 16)) = jj at *
  simp only [jj0, jj1, jj2]
  simp [Instr.wf, checkSel, badClass, badUnused, badGroup, badOverlap, groupFits, Cls.ok] at hw ⊢
  all_goals simp_all

theorem Sys2Proof.Laws.Fields.ldevWait (h : Hdr) (d : GReg) (e : BitVec 6) :
    Fields.Statement (.ldevWait h d e) := by
  intro hw r hr
  cases hr
  rw [hdr_of_fields h _ rfl rfl, formOf_2B _ _ rfl]
  dsimp only [form2B, Raw.base]
  have jj0 := bits_30 e
  have jj1 := bits_31 e
  generalize ((e.setWidth 32 <<< 0)) = jj at *
  simp only [jj0, jj1]
  simp [Instr.wf, checkSel, badClass, badUnused, badGroup, badOverlap, groupFits, Cls.ok] at hw ⊢
  all_goals simp_all

theorem Sys2Proof.Laws.Fields.ldevPoll (h : Hdr) (d : GReg) (e : BitVec 6) :
    Fields.Statement (.ldevPoll h d e) := by
  intro hw r hr
  cases hr
  rw [hdr_of_fields h _ rfl rfl, formOf_2B _ _ rfl]
  dsimp only [form2B, Raw.base]
  have jj0 := bits_30 e
  have jj1 := bits_31 e
  generalize ((e.setWidth 32 <<< 0)) = jj at *
  simp only [jj0, jj1]
  simp [Instr.wf, checkSel, badClass, badUnused, badGroup, badOverlap, groupFits, Cls.ok] at hw ⊢
  all_goals simp_all

theorem Sys2Proof.Laws.Fields.ldevLock (h : Hdr) (d : GReg) (m : BitVec 5) :
    Fields.Statement (.ldevLock h d m) := by
  intro hw r hr
  cases hr
  rw [hdr_of_fields h _ rfl rfl, formOf_2B _ _ rfl]
  dsimp only [form2B, Raw.base]
  have jj0 := bits_25 m
  have jj1 := bits_26 m
  generalize ((m.setWidth 32 <<< 0)) = jj at *
  simp only [jj0, jj1]
  simp [Instr.wf, checkSel, badClass, badUnused, badGroup, badOverlap, groupFits, Cls.ok] at hw ⊢
  all_goals simp_all

theorem Sys2Proof.Laws.Fields.ldevTry (h : Hdr) (d : GReg) (m : BitVec 5) :
    Fields.Statement (.ldevTry h d m) := by
  intro hw r hr
  cases hr
  rw [hdr_of_fields h _ rfl rfl, formOf_2B _ _ rfl]
  dsimp only [form2B, Raw.base]
  have jj0 := bits_25 m
  have jj1 := bits_26 m
  generalize ((m.setWidth 32 <<< 0)) = jj at *
  simp only [jj0, jj1]
  simp [Instr.wf, checkSel, badClass, badUnused, badGroup, badOverlap, groupFits, Cls.ok] at hw ⊢
  all_goals simp_all

theorem Sys2Proof.Laws.Fields.bar (h : Hdr) (b : BitVec 5) :
    Fields.Statement (.bar h b) := by
  intro hw r hr
  cases hr
  rw [hdr_of_fields h _ rfl rfl, formOf_2C _ _ rfl]
  dsimp only [form2C, Raw.base]
  have jj0 := bits_25 b
  have jj1 := bits_26 b
  generalize ((b.setWidth 32 <<< 0)) = jj at *
  simp only [jj0, jj1]
  simp [Instr.wf, checkSel, badClass, badUnused, badGroup, badOverlap, groupFits, Cls.ok] at hw ⊢
  all_goals simp_all

theorem Sys2Proof.Laws.Fields.barss (h : Hdr) (b : BitVec 5) :
    Fields.Statement (.barss h b) := by
  intro hw r hr
  cases hr
  rw [hdr_of_fields h _ rfl rfl, formOf_2C _ _ rfl]
  dsimp only [form2C, Raw.base]
  have jj0 := bits_25 b
  have jj1 := bits_26 b
  generalize ((b.setWidth 32 <<< 0)) = jj at *
  simp only [jj0, jj1]
  simp [Instr.wf, checkSel, badClass, badUnused, badGroup, badOverlap, groupFits, Cls.ok] at hw ⊢
  all_goals simp_all

theorem Sys2Proof.Laws.Fields.spred (h : Hdr) (d : PReg) (a : PReg) (isOr : Bool) (b : BitVec 5) :
    Fields.Statement (.spred h d a isOr b) := by
  intro hw r hr
  cases hr
  rw [hdr_of_fields h _ rfl rfl, formOf_2E _ _ rfl]
  dsimp only [form2E, Raw.base]
  have mm0 := bits_14 isOr
  have mm1 := bits_15 isOr
  generalize (bitAt 8 0 isOr) = mm at *
  have jj0 := bits_25 b
  have jj1 := bits_26 b
  generalize ((b.setWidth 32 <<< 0)) = jj at *
  simp only [mm0, mm1, jj0, jj1]
  simp [Instr.wf, checkSel, badClass, badUnused, badGroup, badOverlap, groupFits, Cls.ok] at hw ⊢
  all_goals simp_all

theorem Sys2Proof.Laws.Fields.fence (h : Hdr) (scope : BitVec 3) (paths : BitVec 8) :
    Fields.Statement (.fence h scope paths) := by
  intro hw r hr
  cases hr
  rw [hdr_of_fields h _ rfl rfl, formOf_2D _ _ rfl]
  dsimp only [form2D, Raw.base]
  have mm0 := bits_32 scope
  have mm1 := bits_33 scope
  generalize ((scope.setWidth 8 <<< 4)) = mm at *
  have jj0 := bits_34 paths
  have jj1 := bits_35 paths
  generalize ((paths.setWidth 32 <<< 0)) = jj at *
  simp only [mm0, mm1, jj0, jj1]
  simp [Instr.wf, checkSel, badClass, badUnused, badGroup, badOverlap, groupFits, Cls.ok] at hw ⊢
  all_goals simp_all

theorem Sys2Proof.Laws.Fields.chdecl (h : Hdr) (d : GReg) (a : GReg) (ch : BitVec 4) (slot : BitVec 4) :
    Fields.Statement (.chdecl h d a ch slot) := by
  intro hw r hr
  cases hr
  rw [hdr_of_fields h _ rfl rfl, formOf_30 _ _ rfl]
  dsimp only [form30, Raw.base]
  have jj0 := bits_36 ch slot
  have jj1 := bits_37 ch slot
  have jj2 := bits_38 ch slot
  generalize ((ch.setWidth 32 <<< 0) ||| (slot.setWidth 32 <<< 8)) = jj at *
  simp only [jj0, jj1, jj2]
  simp [Instr.wf, checkSel, badClass, badUnused, badGroup, badOverlap, groupFits, Cls.ok] at hw ⊢
  all_goals simp_all

theorem Sys2Proof.Laws.Fields.chdeclRel (h : Hdr) (ch : BitVec 4) :
    Fields.Statement (.chdeclRel h ch) := by
  intro hw r hr
  cases hr
  rw [hdr_of_fields h _ rfl rfl, formOf_30 _ _ rfl]
  dsimp only [form30, Raw.base]
  have jj0 := bits_39 ch
  have jj1 := bits_40 ch
  generalize ((ch.setWidth 32 <<< 0)) = jj at *
  simp only [jj0, jj1]
  simp [Instr.wf, checkSel, badClass, badUnused, badGroup, badOverlap, groupFits, Cls.ok] at hw ⊢
  all_goals simp_all

theorem Sys2Proof.Laws.Fields.chsend (h : Hdr) (b : VReg) (ch : BitVec 4) :
    Fields.Statement (.chsend h b ch) := by
  intro hw r hr
  cases hr
  rw [hdr_of_fields h _ rfl rfl, formOf_31 _ _ rfl]
  dsimp only [form31, Raw.base]
  have jj0 := bits_39 ch
  have jj1 := bits_40 ch
  generalize ((ch.setWidth 32 <<< 0)) = jj at *
  simp only [jj0, jj1]
  simp [Instr.wf, checkSel, badClass, badUnused, badGroup, badOverlap, groupFits, Cls.ok] at hw ⊢
  all_goals simp_all

theorem Sys2Proof.Laws.Fields.chrecv (h : Hdr) (d : VReg) (slot : BitVec 4) :
    Fields.Statement (.chrecv h d slot) := by
  intro hw r hr
  cases hr
  rw [hdr_of_fields h _ rfl rfl, formOf_32 _ _ rfl]
  dsimp only [form32, Raw.base]
  have jj0 := bits_39 slot
  have jj1 := bits_40 slot
  generalize ((slot.setWidth 32 <<< 0)) = jj at *
  simp only [jj0, jj1]
  simp [Instr.wf, checkSel, badClass, badUnused, badGroup, badOverlap, groupFits, Cls.ok] at hw ⊢
  all_goals simp_all

theorem Sys2Proof.Laws.Fields.chpoll (h : Hdr) (d : VReg) (slot : BitVec 4) (pf : PReg) :
    Fields.Statement (.chpoll h d slot pf) := by
  intro hw r hr
  cases hr
  rw [hdr_of_fields h _ rfl rfl, formOf_32 _ _ rfl]
  dsimp only [form32, Raw.base]
  have jj0 := bits_41 slot pf
  have jj1 := bits_42 slot pf
  have jj2 := bits_43 slot pf
  generalize ((slot.setWidth 32 <<< 0) ||| (BitVec.ofNat 32 pf.val <<< 4)) = jj at *
  simp only [jj0, jj1, jj2]
  simp [Instr.wf, checkSel, badClass, badUnused, badGroup, badOverlap, groupFits, Cls.ok] at hw ⊢
  all_goals simp_all

theorem Sys2Proof.Laws.Fields.phase (h : Hdr) (b : BitVec 5) :
    Fields.Statement (.phase h b) := by
  intro hw r hr
  cases hr
  rw [hdr_of_fields h _ rfl rfl, formOf_33 _ _ rfl]
  dsimp only [form33, Raw.base]
  have jj0 := bits_25 b
  have jj1 := bits_26 b
  generalize ((b.setWidth 32 <<< 0)) = jj at *
  simp only [jj0, jj1]
  simp [Instr.wf, checkSel, badClass, badUnused, badGroup, badOverlap, groupFits, Cls.ok] at hw ⊢
  all_goals simp_all

theorem Sys2Proof.Laws.Fields.tsend (h : Hdr) (b : VReg) (k : BitVec 8) :
    Fields.Statement (.tsend h b k) := by
  intro hw r hr
  cases hr
  rw [hdr_of_fields h _ rfl rfl, formOf_34 _ _ rfl]
  dsimp only [form34, Raw.base]
  have jj0 := bits_34 k
  have jj1 := bits_35 k
  generalize ((k.setWidth 32 <<< 0)) = jj at *
  simp only [jj0, jj1]
  simp [Instr.wf, checkSel, badClass, badUnused, badGroup, badOverlap, groupFits, Cls.ok] at hw ⊢
  all_goals simp_all

theorem Sys2Proof.Laws.Fields.trecv (h : Hdr) (d : VReg) (k : BitVec 8) :
    Fields.Statement (.trecv h d k) := by
  intro hw r hr
  cases hr
  rw [hdr_of_fields h _ rfl rfl, formOf_34 _ _ rfl]
  dsimp only [form34, Raw.base]
  have jj0 := bits_34 k
  have jj1 := bits_35 k
  generalize ((k.setWidth 32 <<< 0)) = jj at *
  simp only [jj0, jj1]
  simp [Instr.wf, checkSel, badClass, badUnused, badGroup, badOverlap, groupFits, Cls.ok] at hw ⊢
  all_goals simp_all

theorem Sys2Proof.Laws.Fields.xcopy (h : Hdr) (d : GReg) (a : GReg) (imm : BitVec 32) :
    Fields.Statement (.xcopy h d a imm) := by
  intro hw r hr
  cases hr
  rw [hdr_of_fields h _ rfl rfl, formOf_70 _ _ rfl]
  dsimp only [form70, Raw.base]
  simp [Instr.wf, checkSel, badClass, badUnused, badGroup, badOverlap, groupFits, Cls.ok] at hw ⊢
  all_goals simp_all

theorem Sys2Proof.Laws.Fields.xgath (h : Hdr) (d : GReg) (a : GReg) (imm : BitVec 32) :
    Fields.Statement (.xgath h d a imm) := by
  intro hw r hr
  cases hr
  rw [hdr_of_fields h _ rfl rfl, formOf_71 _ _ rfl]
  dsimp only [form71, Raw.base]
  simp [Instr.wf, checkSel, badClass, badUnused, badGroup, badOverlap, groupFits, Cls.ok] at hw ⊢
  all_goals simp_all

theorem Sys2Proof.Laws.Fields.xscat (h : Hdr) (d : GReg) (a : GReg) (imm : BitVec 32) :
    Fields.Statement (.xscat h d a imm) := by
  intro hw r hr
  cases hr
  rw [hdr_of_fields h _ rfl rfl, formOf_71 _ _ rfl]
  dsimp only [form71, Raw.base]
  simp [Instr.wf, checkSel, badClass, badUnused, badGroup, badOverlap, groupFits, Cls.ok] at hw ⊢
  all_goals simp_all

theorem Sys2Proof.Laws.Fields.xfill (h : Hdr) (d : GReg) (a : GReg) (imm : BitVec 32) :
    Fields.Statement (.xfill h d a imm) := by
  intro hw r hr
  cases hr
  rw [hdr_of_fields h _ rfl rfl, formOf_72 _ _ rfl]
  dsimp only [form72, Raw.base]
  simp [Instr.wf, checkSel, badClass, badUnused, badGroup, badOverlap, groupFits, Cls.ok] at hw ⊢
  all_goals simp_all

theorem Sys2Proof.Laws.Fields.xcoll (h : Hdr) (d : GReg) (a : GReg) (imm : BitVec 32) :
    Fields.Statement (.xcoll h d a imm) := by
  intro hw r hr
  cases hr
  rw [hdr_of_fields h _ rfl rfl, formOf_73 _ _ rfl]
  dsimp only [form73, Raw.base]
  simp [Instr.wf, checkSel, badClass, badUnused, badGroup, badOverlap, groupFits, Cls.ok] at hw ⊢
  all_goals simp_all

theorem Sys2Proof.Laws.Fields.xwait (h : Hdr) (a : GReg) (cls : Fin 4) :
    Fields.Statement (.xwait h a cls) := by
  intro hw r hr
  cases hr
  rw [hdr_of_fields h _ rfl rfl, formOf_74 _ _ rfl]
  dsimp only [form74, Raw.base]
  have mm0 := bits_44 cls
  have mm1 := bits_45 cls
  generalize ((BitVec.ofNat 8 cls.val <<< 0)) = mm at *
  simp only [mm0, mm1]
  simp [Instr.wf, checkSel, badClass, badUnused, badGroup, badOverlap, groupFits, Cls.ok] at hw ⊢
  all_goals simp_all

theorem Sys2Proof.Laws.Fields.xseq (h : Hdr) (d : GReg) (cls : Fin 4) :
    Fields.Statement (.xseq h d cls) := by
  intro hw r hr
  cases hr
  rw [hdr_of_fields h _ rfl rfl, formOf_74 _ _ rfl]
  dsimp only [form74, Raw.base]
  have mm0 := bits_44 cls
  have mm1 := bits_45 cls
  generalize ((BitVec.ofNat 8 cls.val <<< 0)) = mm at *
  simp only [mm0, mm1]
  simp [Instr.wf, checkSel, badClass, badUnused, badGroup, badOverlap, groupFits, Cls.ok] at hw ⊢
  all_goals simp_all

theorem Sys2Proof.Laws.Fields.xcancel (h : Hdr) (d : GReg) (a : GReg) (cls : Fin 4) :
    Fields.Statement (.xcancel h d a cls) := by
  intro hw r hr
  cases hr
  rw [hdr_of_fields h _ rfl rfl, formOf_74 _ _ rfl]
  dsimp only [form74, Raw.base]
  have mm0 := bits_44 cls
  have mm1 := bits_45 cls
  generalize ((BitVec.ofNat 8 cls.val <<< 0)) = mm at *
  simp only [mm0, mm1]
  simp [Instr.wf, checkSel, badClass, badUnused, badGroup, badOverlap, groupFits, Cls.ok] at hw ⊢
  all_goals simp_all

theorem Sys2Proof.Laws.Fields.evxcfgC (h : Hdr) (a : GReg) (i : BitVec 4) :
    Fields.Statement (.evxcfgC h a i) := by
  intro hw r hr
  cases hr
  rw [hdr_of_fields h _ rfl rfl, formOf_75 _ _ rfl]
  dsimp only [form75, Raw.base]
  have jj0 := bits_39 i
  have jj1 := bits_40 i
  generalize ((i.setWidth 32 <<< 0)) = jj at *
  simp only [jj0, jj1]
  simp [Instr.wf, checkSel, badClass, badUnused, badGroup, badOverlap, groupFits, Cls.ok] at hw ⊢
  all_goals simp_all

theorem Sys2Proof.Laws.Fields.evxcfgT (h : Hdr) (a : GReg) (b : GReg) (i : BitVec 5) :
    Fields.Statement (.evxcfgT h a b i) := by
  intro hw r hr
  cases hr
  rw [hdr_of_fields h _ rfl rfl, formOf_75 _ _ rfl]
  dsimp only [form75, Raw.base]
  have jj0 := bits_25 i
  have jj1 := bits_26 i
  generalize ((i.setWidth 32 <<< 0)) = jj at *
  simp only [jj0, jj1]
  simp [Instr.wf, checkSel, badClass, badUnused, badGroup, badOverlap, groupFits, Cls.ok] at hw ⊢
  all_goals simp_all

theorem Sys2Proof.Laws.Fields.evxcfgR (h : Hdr) (d : GReg) (term : Bool) (i : BitVec 5) :
    Fields.Statement (.evxcfgR h d term i) := by
  intro hw r hr
  cases hr
  rw [hdr_of_fields h _ rfl rfl, formOf_75 _ _ rfl]
  dsimp only [form75, Raw.base]
  have jj0 := bits_46 term i (by simpa [Instr.wf] using hw)
  have jj1 := bits_47 term i
  have jj2 := bits_48 term i
  generalize (bitAt 32 5 term ||| (i.setWidth 32 <<< 0)) = jj at *
  simp only [jj0, jj1, jj2]
  simp [Instr.wf, checkSel, badClass, badUnused, badGroup, badOverlap, groupFits, Cls.ok] at hw ⊢
  all_goals simp_all [Instr.wf, checkSel, badClass, badUnused, badGroup, badOverlap, groupFits, Cls.ok]

theorem Sys2Proof.Laws.Fields.evxarm (h : Hdr) (d : GReg) (a : GReg) (t : BitVec 5) (imm : BitVec 32) :
    Fields.Statement (.evxarm h d a t imm) := by
  intro hw r hr
  cases hr
  rw [hdr_of_fields h _ rfl rfl, formOf_75 _ _ rfl]
  dsimp only [form75, Raw.base]
  have mm0 := bits_49 t
  have mm1 := bits_50 t
  generalize ((t.setWidth 8 <<< 0)) = mm at *
  simp only [mm0, mm1]
  simp [Instr.wf, checkSel, badClass, badUnused, badGroup, badOverlap, groupFits, Cls.ok] at hw ⊢
  all_goals simp_all

theorem Sys2Proof.Laws.Fields.sring (h : Hdr) (d : GReg) (a : GReg) (r : BitVec 4) :
    Fields.Statement (.sring h d a r) := by
  intro hw r hr
  cases hr
  rw [hdr_of_fields h _ rfl rfl, formOf_76 _ _ rfl]
  dsimp only [form76, Raw.base]
  have jj0 := bits_39 r
  have jj1 := bits_40 r
  generalize ((r.setWidth 32 <<< 0)) = jj at *
  simp only [jj0, jj1]
  simp [Instr.wf, checkSel, badClass, badUnused, badGroup, badOverlap, groupFits, Cls.ok] at hw ⊢
  all_goals simp_all

theorem Sys2Proof.Laws.Fields.nsend (h : Hdr) (d : GReg) (a : GReg) (imm : BitVec 32) :
    Fields.Statement (.nsend h d a imm) := by
  intro hw r hr
  cases hr
  rw [hdr_of_fields h _ rfl rfl, formOf_76 _ _ rfl]
  dsimp only [form76, Raw.base]
  simp [Instr.wf, checkSel, badClass, badUnused, badGroup, badOverlap, groupFits, Cls.ok] at hw ⊢
  all_goals simp_all

theorem Sys2Proof.Laws.Fields.launch (h : Hdr) (d : GReg) (a : GReg) (imm : BitVec 32) :
    Fields.Statement (.launch h d a imm) := by
  intro hw r hr
  cases hr
  rw [hdr_of_fields h _ rfl rfl, formOf_78 _ _ rfl]
  dsimp only [form78, Raw.base]
  simp [Instr.wf, checkSel, badClass, badUnused, badGroup, badOverlap, groupFits, Cls.ok] at hw ⊢
  all_goals simp_all

theorem Sys2Proof.Laws.Fields.spawn (h : Hdr) (a : GReg) (pri : BitVec 3) (loc : Bool) :
    Fields.Statement (.spawn h a pri loc) := by
  intro hw r hr
  cases hr
  rw [hdr_of_fields h _ rfl rfl, formOf_79 _ _ rfl]
  dsimp only [form79, Raw.base]
  have mm0 := bits_51 pri loc
  have mm1 := bits_52 pri loc
  have mm2 := bits_53 pri loc
  generalize ((pri.setWidth 8 <<< 0) ||| bitAt 8 3 loc) = mm at *
  simp only [mm0, mm1, mm2]
  simp [Instr.wf, checkSel, badClass, badUnused, badGroup, badOverlap, groupFits, Cls.ok] at hw ⊢
  all_goals simp_all [Instr.wf, checkSel, badClass, badUnused, badGroup, badOverlap, groupFits, Cls.ok]
  all_goals (intro hx; simp_all)

theorem Sys2Proof.Laws.Fields.spawnR (h : Hdr) (a : GReg) (b : GReg) (pri : BitVec 3) (loc : Bool) :
    Fields.Statement (.spawnR h a b pri loc) := by
  intro hw r hr
  cases hr
  rw [hdr_of_fields h _ rfl rfl, formOf_79 _ _ rfl]
  dsimp only [form79, Raw.base]
  have mm0 := bits_51 pri loc
  have mm1 := bits_52 pri loc
  have mm2 := bits_53 pri loc
  generalize ((pri.setWidth 8 <<< 0) ||| bitAt 8 3 loc) = mm at *
  simp only [mm0, mm1, mm2]
  simp [Instr.wf, checkSel, badClass, badUnused, badGroup, badOverlap, groupFits, Cls.ok] at hw ⊢
  all_goals simp_all [Instr.wf, checkSel, badClass, badUnused, badGroup, badOverlap, groupFits, Cls.ok]
  all_goals (intro hx; simp_all)

theorem Sys2Proof.Laws.Fields.join (h : Hdr) (d : GReg) (a : GReg) :
    Fields.Statement (.join h d a) := by
  intro hw r hr
  cases hr
  rw [hdr_of_fields h _ rfl rfl, formOf_79 _ _ rfl]
  dsimp only [form79, Raw.base]
  simp [Instr.wf, checkSel, badClass, badUnused, badGroup, badOverlap, groupFits, Cls.ok] at hw ⊢
  all_goals simp_all

theorem Sys2Proof.Laws.Fields.tend (h : Hdr)  :
    Fields.Statement (.tend h ) := by
  intro hw r hr
  cases hr
  rw [hdr_of_fields h _ rfl rfl, formOf_79 _ _ rfl]
  dsimp only [form79, Raw.base]
  simp [Instr.wf, checkSel, badClass, badUnused, badGroup, badOverlap, groupFits, Cls.ok] at hw ⊢
  all_goals simp_all

theorem Sys2Proof.Laws.Fields.wid (h : Hdr) (d : GReg) :
    Fields.Statement (.wid h d) := by
  intro hw r hr
  cases hr
  rw [hdr_of_fields h _ rfl rfl, formOf_7A _ _ rfl]
  dsimp only [form7A, Raw.base]
  simp [Instr.wf, checkSel, badClass, badUnused, badGroup, badOverlap, groupFits, Cls.ok] at hw ⊢
  all_goals simp_all

theorem Sys2Proof.Laws.Fields.widf (h : Hdr) (d : GReg) (a : GReg) (i : BitVec 3) :
    Fields.Statement (.widf h d a i) := by
  intro hw r hr
  cases hr
  rw [hdr_of_fields h _ rfl rfl, formOf_7A _ _ rfl]
  dsimp only [form7A, Raw.base]
  have jj0 := bits_54 i
  have jj1 := bits_55 i
  generalize ((i.setWidth 32 <<< 0)) = jj at *
  simp only [jj0, jj1]
  simp [Instr.wf, checkSel, badClass, badUnused, badGroup, badOverlap, groupFits, Cls.ok] at hw ⊢
  all_goals simp_all

theorem Sys2Proof.Laws.Fields.corenum (h : Hdr) (d : GReg) (sel : BitVec 2) :
    Fields.Statement (.corenum h d sel) := by
  intro hw r hr
  cases hr
  rw [hdr_of_fields h _ rfl rfl, formOf_7A _ _ rfl]
  dsimp only [form7A, Raw.base]
  have jj0 := bits_56 sel
  have jj1 := bits_57 sel
  generalize ((sel.setWidth 32 <<< 0)) = jj at *
  simp only [jj0, jj1]
  simp [Instr.wf, checkSel, badClass, badUnused, badGroup, badOverlap, groupFits, Cls.ok] at hw ⊢
  all_goals simp_all

theorem Sys2Proof.Laws.Fields.cdopen (h : Hdr) (a : GReg) :
    Fields.Statement (.cdopen h a) := by
  intro hw r hr
  cases hr
  rw [hdr_of_fields h _ rfl rfl, formOf_7B _ _ rfl]
  dsimp only [form7B, Raw.base]
  simp [Instr.wf, checkSel, badClass, badUnused, badGroup, badOverlap, groupFits, Cls.ok] at hw ⊢
  all_goals simp_all

theorem Sys2Proof.Laws.Fields.cdclose (h : Hdr) (d : GReg) :
    Fields.Statement (.cdclose h d) := by
  intro hw r hr
  cases hr
  rw [hdr_of_fields h _ rfl rfl, formOf_7B _ _ rfl]
  dsimp only [form7B, Raw.base]
  simp [Instr.wf, checkSel, badClass, badUnused, badGroup, badOverlap, groupFits, Cls.ok] at hw ⊢
  all_goals simp_all

theorem Sys2Proof.Laws.Fields.cdabort (h : Hdr)  :
    Fields.Statement (.cdabort h ) := by
  intro hw r hr
  cases hr
  rw [hdr_of_fields h _ rfl rfl, formOf_7B _ _ rfl]
  dsimp only [form7B, Raw.base]
  simp [Instr.wf, checkSel, badClass, badUnused, badGroup, badOverlap, groupFits, Cls.ok] at hw ⊢
  all_goals simp_all

theorem Sys2Proof.Laws.Fields.cdabortRetry (h : Hdr)  :
    Fields.Statement (.cdabortRetry h ) := by
  intro hw r hr
  cases hr
  rw [hdr_of_fields h _ rfl rfl, formOf_7B _ _ rfl]
  dsimp only [form7B, Raw.base]
  simp [Instr.wf, checkSel, badClass, badUnused, badGroup, badOverlap, groupFits, Cls.ok] at hw ⊢
  all_goals simp_all

theorem Sys2Proof.Laws.Fields.cdkeep (h : Hdr) (a : GReg) (b : GReg) (snap : Bool) :
    Fields.Statement (.cdkeep h a b snap) := by
  intro hw r hr
  cases hr
  rw [hdr_of_fields h _ rfl rfl, formOf_7C _ _ rfl]
  dsimp only [form7C, Raw.base]
  have mm0 := bits_14 snap
  have mm1 := bits_15 snap
  generalize (bitAt 8 0 snap) = mm at *
  simp only [mm0, mm1]
  simp [Instr.wf, checkSel, badClass, badUnused, badGroup, badOverlap, groupFits, Cls.ok] at hw ⊢
  all_goals simp_all

theorem Sys2Proof.Laws.Fields.cdsig (h : Hdr) (a : GReg) (b : GReg) :
    Fields.Statement (.cdsig h a b) := by
  intro hw r hr
  cases hr
  rw [hdr_of_fields h _ rfl rfl, formOf_7C _ _ rfl]
  dsimp only [form7C, Raw.base]
  simp [Instr.wf, checkSel, badClass, badUnused, badGroup, badOverlap, groupFits, Cls.ok] at hw ⊢
  all_goals simp_all

theorem Sys2Proof.Laws.Fields.rdsys (h : Hdr) (d : GReg) (n : BitVec 12) :
    Fields.Statement (.rdsys h d n) := by
  intro hw r hr
  cases hr
  rw [hdr_of_fields h _ rfl rfl, formOf_80 _ _ rfl]
  dsimp only [form80, Raw.base]
  have jj0 := bits_58 n
  have jj1 := bits_59 n
  generalize ((n.setWidth 32 <<< 0)) = jj at *
  simp only [jj0, jj1]
  simp [Instr.wf, checkSel, badClass, badUnused, badGroup, badOverlap, groupFits, Cls.ok] at hw ⊢
  all_goals simp_all [Instr.wf, checkSel, badClass, badUnused, badGroup, badOverlap, groupFits, Cls.ok]

theorem Sys2Proof.Laws.Fields.wrsys (h : Hdr) (a : GReg) (n : BitVec 12) :
    Fields.Statement (.wrsys h a n) := by
  intro hw r hr
  cases hr
  rw [hdr_of_fields h _ rfl rfl, formOf_80 _ _ rfl]
  dsimp only [form80, Raw.base]
  have jj0 := bits_58 n
  have jj1 := bits_59 n
  generalize ((n.setWidth 32 <<< 0)) = jj at *
  simp only [jj0, jj1]
  simp [Instr.wf, checkSel, badClass, badUnused, badGroup, badOverlap, groupFits, Cls.ok] at hw ⊢
  all_goals simp_all [Instr.wf, checkSel, badClass, badUnused, badGroup, badOverlap, groupFits, Cls.ok]

theorem Sys2Proof.Laws.Fields.fbpop0Read (h : Hdr) (d : GReg) :
    Fields.Statement (.fbpop0Read h d) := by
  intro hw r hr
  cases hr
  rw [hdr_of_fields h _ rfl rfl, formOf_80 _ _ rfl]
  dsimp only [form80, Raw.base]
  simp [Instr.wf, checkSel, badClass, badUnused, badGroup, badOverlap, groupFits, Cls.ok] at hw ⊢
  all_goals simp_all [Instr.wf, checkSel, badClass, badUnused, badGroup, badOverlap, groupFits, Cls.ok]

theorem Sys2Proof.Laws.Fields.derrpopRead (h : Hdr) (d : GReg) :
    Fields.Statement (.derrpopRead h d) := by
  intro hw r hr
  cases hr
  rw [hdr_of_fields h _ rfl rfl, formOf_80 _ _ rfl]
  dsimp only [form80, Raw.base]
  simp [Instr.wf, checkSel, badClass, badUnused, badGroup, badOverlap, groupFits, Cls.ok] at hw ⊢
  all_goals simp_all [Instr.wf, checkSel, badClass, badUnused, badGroup, badOverlap, groupFits, Cls.ok]

theorem Sys2Proof.Laws.Fields.fbstatDropClear (h : Hdr) (a : GReg) :
    Fields.Statement (.fbstatDropClear h a) := by
  intro hw r hr
  cases hr
  rw [hdr_of_fields h _ rfl rfl, formOf_80 _ _ rfl]
  dsimp only [form80, Raw.base]
  simp [Instr.wf, checkSel, badClass, badUnused, badGroup, badOverlap, groupFits, Cls.ok] at hw ⊢
  all_goals simp_all [Instr.wf, checkSel, badClass, badUnused, badGroup, badOverlap, groupFits, Cls.ok]

theorem Sys2Proof.Laws.Fields.spdoorClear (h : Hdr) (a : GReg) :
    Fields.Statement (.spdoorClear h a) := by
  intro hw r hr
  cases hr
  rw [hdr_of_fields h _ rfl rfl, formOf_80 _ _ rfl]
  dsimp only [form80, Raw.base]
  simp [Instr.wf, checkSel, badClass, badUnused, badGroup, badOverlap, groupFits, Cls.ok] at hw ⊢
  all_goals simp_all [Instr.wf, checkSel, badClass, badUnused, badGroup, badOverlap, groupFits, Cls.ok]

theorem Sys2Proof.Laws.Fields.slotctlGo (h : Hdr) (a : GReg) :
    Fields.Statement (.slotctlGo h a) := by
  intro hw r hr
  cases hr
  rw [hdr_of_fields h _ rfl rfl, formOf_80 _ _ rfl]
  dsimp only [form80, Raw.base]
  simp [Instr.wf, checkSel, badClass, badUnused, badGroup, badOverlap, groupFits, Cls.ok] at hw ⊢
  all_goals simp_all [Instr.wf, checkSel, badClass, badUnused, badGroup, badOverlap, groupFits, Cls.ok]

theorem Sys2Proof.Laws.Fields.swzWrite (h : Hdr) (a : GReg) (i : Fin 4) :
    Fields.Statement (.swzWrite h a i) := by
  intro hw r hr
  cases hr
  rw [hdr_of_fields h _ rfl rfl, formOf_80 _ _ rfl]
  dsimp only [form80, Raw.base]
  have jj0 := bits_60 i
  have jj1 := bits_61 i
  have jj2 := bits_62 i
  have jj3 := bits_63 i
  have jj4 := bits_64 i
  have jj5 := bits_65 i
  have jj6 := bits_66 i
  have jj7 := bits_67 i
  generalize ((0x018#32 ||| BitVec.ofNat 32 i.val)) = jj at *
  simp only [jj0, jj1, jj2, jj3, jj4, jj5, jj6, jj7]
  simp [Instr.wf, checkSel, badClass, badUnused, badGroup, badOverlap, groupFits, Cls.ok] at hw ⊢
  all_goals simp_all [Instr.wf, checkSel, badClass, badUnused, badGroup, badOverlap, groupFits, Cls.ok]

theorem Sys2Proof.Laws.Fields.zshareWrite (h : Hdr) (a : GReg) :
    Fields.Statement (.zshareWrite h a) := by
  intro hw r hr
  cases hr
  rw [hdr_of_fields h _ rfl rfl, formOf_80 _ _ rfl]
  dsimp only [form80, Raw.base]
  simp [Instr.wf, checkSel, badClass, badUnused, badGroup, badOverlap, groupFits, Cls.ok] at hw ⊢
  all_goals simp_all [Instr.wf, checkSel, badClass, badUnused, badGroup, badOverlap, groupFits, Cls.ok]

theorem Sys2Proof.Laws.Fields.syscall (h : Hdr) (imm : BitVec 32) :
    Fields.Statement (.syscall h imm) := by
  intro hw r hr
  cases hr
  rw [hdr_of_fields h _ rfl rfl, formOf_81 _ _ rfl]
  dsimp only [form81, Raw.base]
  simp [Instr.wf, checkSel, badClass, badUnused, badGroup, badOverlap, groupFits, Cls.ok] at hw ⊢
  all_goals simp_all

theorem Sys2Proof.Laws.Fields.bkpt (h : Hdr) (imm : BitVec 32) :
    Fields.Statement (.bkpt h imm) := by
  intro hw r hr
  cases hr
  rw [hdr_of_fields h _ rfl rfl, formOf_81 _ _ rfl]
  dsimp only [form81, Raw.base]
  simp [Instr.wf, checkSel, badClass, badUnused, badGroup, badOverlap, groupFits, Cls.ok] at hw ⊢
  all_goals simp_all

theorem Sys2Proof.Laws.Fields.xret (h : Hdr)  :
    Fields.Statement (.xret h ) := by
  intro hw r hr
  cases hr
  rw [hdr_of_fields h _ rfl rfl, formOf_82 _ _ rfl]
  dsimp only [form82, Raw.base]
  simp [Instr.wf, checkSel, badClass, badUnused, badGroup, badOverlap, groupFits, Cls.ok] at hw ⊢
  all_goals simp_all

theorem Sys2Proof.Laws.Fields.wfi (h : Hdr)  :
    Fields.Statement (.wfi h ) := by
  intro hw r hr
  cases hr
  rw [hdr_of_fields h _ rfl rfl, formOf_83 _ _ rfl]
  dsimp only [form83, Raw.base]
  simp [Instr.wf, checkSel, badClass, badUnused, badGroup, badOverlap, groupFits, Cls.ok] at hw ⊢
  all_goals simp_all

theorem Sys2Proof.Laws.Fields.halt (h : Hdr)  :
    Fields.Statement (.halt h ) := by
  intro hw r hr
  cases hr
  rw [hdr_of_fields h _ rfl rfl, formOf_83 _ _ rfl]
  dsimp only [form83, Raw.base]
  simp [Instr.wf, checkSel, badClass, badUnused, badGroup, badOverlap, groupFits, Cls.ok] at hw ⊢
  all_goals simp_all

theorem Sys2Proof.Laws.Fields.tlbinvPage (h : Hdr) (a : GReg) (b : GReg) :
    Fields.Statement (.tlbinvPage h a b) := by
  intro hw r hr
  cases hr
  rw [hdr_of_fields h _ rfl rfl, formOf_84 _ _ rfl]
  dsimp only [form84, Raw.base]
  simp [Instr.wf, checkSel, badClass, badUnused, badGroup, badOverlap, groupFits, Cls.ok] at hw ⊢
  all_goals simp_all

theorem Sys2Proof.Laws.Fields.tlbinvVsid (h : Hdr) (b : GReg) :
    Fields.Statement (.tlbinvVsid h b) := by
  intro hw r hr
  cases hr
  rw [hdr_of_fields h _ rfl rfl, formOf_84 _ _ rfl]
  dsimp only [form84, Raw.base]
  simp [Instr.wf, checkSel, badClass, badUnused, badGroup, badOverlap, groupFits, Cls.ok] at hw ⊢
  all_goals simp_all

theorem Sys2Proof.Laws.Fields.tlbinvAll (h : Hdr)  :
    Fields.Statement (.tlbinvAll h ) := by
  intro hw r hr
  cases hr
  rw [hdr_of_fields h _ rfl rfl, formOf_84 _ _ rfl]
  dsimp only [form84, Raw.base]
  simp [Instr.wf, checkSel, badClass, badUnused, badGroup, badOverlap, groupFits, Cls.ok] at hw ⊢
  all_goals simp_all

theorem Sys2Proof.Laws.Fields.tlbreplay (h : Hdr) (a : GReg) :
    Fields.Statement (.tlbreplay h a) := by
  intro hw r hr
  cases hr
  rw [hdr_of_fields h _ rfl rfl, formOf_84 _ _ rfl]
  dsimp only [form84, Raw.base]
  simp [Instr.wf, checkSel, badClass, badUnused, badGroup, badOverlap, groupFits, Cls.ok] at hw ⊢
  all_goals simp_all

theorem Sys2Proof.Laws.Fields.ldovt (h : Hdr) (a : GReg) (b : GReg) :
    Fields.Statement (.ldovt h a b) := by
  intro hw r hr
  cases hr
  rw [hdr_of_fields h _ rfl rfl, formOf_85 _ _ rfl]
  dsimp only [form85, Raw.base]
  simp [Instr.wf, checkSel, badClass, badUnused, badGroup, badOverlap, groupFits, Cls.ok] at hw ⊢
  all_goals simp_all

theorem Sys2Proof.Laws.Fields.ctxsave (h : Hdr) (d : GReg) (a : GReg) (b : GReg) (swap : Bool) :
    Fields.Statement (.ctxsave h d a b swap) := by
  intro hw r hr
  cases hr
  rw [hdr_of_fields h _ rfl rfl, formOf_86 _ _ rfl]
  dsimp only [form86, Raw.base]
  have mm0 := bits_14 swap
  have mm1 := bits_15 swap
  generalize (bitAt 8 0 swap) = mm at *
  simp only [mm0, mm1]
  simp [Instr.wf, checkSel, badClass, badUnused, badGroup, badOverlap, groupFits, Cls.ok] at hw ⊢
  all_goals simp_all

theorem Sys2Proof.Laws.Fields.ctxload (h : Hdr) (d : GReg) (a : GReg) (b : GReg) :
    Fields.Statement (.ctxload h d a b) := by
  intro hw r hr
  cases hr
  rw [hdr_of_fields h _ rfl rfl, formOf_86 _ _ rfl]
  dsimp only [form86, Raw.base]
  simp [Instr.wf, checkSel, badClass, badUnused, badGroup, badOverlap, groupFits, Cls.ok] at hw ⊢
  all_goals simp_all

theorem Sys2Proof.Laws.Fields.add (h : Hdr) (d : GReg) (a : GReg) (b : GReg) (w : Bool) :
    Fields.Statement (.add h d a b w) := by
  intro hw r hr
  cases hr
  rw [hdr_of_fields h _ rfl rfl, formOf_01 _ _ rfl]
  dsimp only [form01, Raw.base]
  have mm0 := bits_68 w
  have mm1 := bits_69 w
  generalize (bitAt 8 4 w) = mm at *
  simp only [mm0, mm1]
  simp [Instr.wf, checkSel, badClass, badUnused, badGroup, badOverlap, groupFits, Cls.ok] at hw ⊢
  all_goals simp_all

theorem Sys2Proof.Laws.Fields.sub (h : Hdr) (d : GReg) (a : GReg) (b : GReg) (w : Bool) :
    Fields.Statement (.sub h d a b w) := by
  intro hw r hr
  cases hr
  rw [hdr_of_fields h _ rfl rfl, formOf_01 _ _ rfl]
  dsimp only [form01, Raw.base]
  have mm0 := bits_68 w
  have mm1 := bits_69 w
  generalize (bitAt 8 4 w) = mm at *
  simp only [mm0, mm1]
  simp [Instr.wf, checkSel, badClass, badUnused, badGroup, badOverlap, groupFits, Cls.ok] at hw ⊢
  all_goals simp_all

theorem Sys2Proof.Laws.Fields.andR (h : Hdr) (d : GReg) (a : GReg) (b : GReg) :
    Fields.Statement (.andR h d a b) := by
  intro hw r hr
  cases hr
  rw [hdr_of_fields h _ rfl rfl, formOf_01 _ _ rfl]
  dsimp only [form01, Raw.base]
  simp [Instr.wf, checkSel, badClass, badUnused, badGroup, badOverlap, groupFits, Cls.ok] at hw ⊢
  all_goals simp_all

theorem Sys2Proof.Laws.Fields.orR (h : Hdr) (d : GReg) (a : GReg) (b : GReg) :
    Fields.Statement (.orR h d a b) := by
  intro hw r hr
  cases hr
  rw [hdr_of_fields h _ rfl rfl, formOf_01 _ _ rfl]
  dsimp only [form01, Raw.base]
  simp [Instr.wf, checkSel, badClass, badUnused, badGroup, badOverlap, groupFits, Cls.ok] at hw ⊢
  all_goals simp_all

theorem Sys2Proof.Laws.Fields.xorR (h : Hdr) (d : GReg) (a : GReg) (b : GReg) :
    Fields.Statement (.xorR h d a b) := by
  intro hw r hr
  cases hr
  rw [hdr_of_fields h _ rfl rfl, formOf_01 _ _ rfl]
  dsimp only [form01, Raw.base]
  simp [Instr.wf, checkSel, badClass, badUnused, badGroup, badOverlap, groupFits, Cls.ok] at hw ⊢
  all_goals simp_all

theorem Sys2Proof.Laws.Fields.andn (h : Hdr) (d : GReg) (a : GReg) (b : GReg) :
    Fields.Statement (.andn h d a b) := by
  intro hw r hr
  cases hr
  rw [hdr_of_fields h _ rfl rfl, formOf_01 _ _ rfl]
  dsimp only [form01, Raw.base]
  simp [Instr.wf, checkSel, badClass, badUnused, badGroup, badOverlap, groupFits, Cls.ok] at hw ⊢
  all_goals simp_all

theorem Sys2Proof.Laws.Fields.orn (h : Hdr) (d : GReg) (a : GReg) (b : GReg) :
    Fields.Statement (.orn h d a b) := by
  intro hw r hr
  cases hr
  rw [hdr_of_fields h _ rfl rfl, formOf_01 _ _ rfl]
  dsimp only [form01, Raw.base]
  simp [Instr.wf, checkSel, badClass, badUnused, badGroup, badOverlap, groupFits, Cls.ok] at hw ⊢
  all_goals simp_all

theorem Sys2Proof.Laws.Fields.neg (h : Hdr) (d : GReg) (a : GReg) (w : Bool) :
    Fields.Statement (.neg h d a w) := by
  intro hw r hr
  cases hr
  rw [hdr_of_fields h _ rfl rfl, formOf_01 _ _ rfl]
  dsimp only [form01, Raw.base]
  have mm0 := bits_68 w
  have mm1 := bits_69 w
  generalize (bitAt 8 4 w) = mm at *
  simp only [mm0, mm1]
  simp [Instr.wf, checkSel, badClass, badUnused, badGroup, badOverlap, groupFits, Cls.ok] at hw ⊢
  all_goals simp_all

theorem Sys2Proof.Laws.Fields.addi (h : Hdr) (d : GReg) (a : GReg) (w : Bool) (imm : BitVec 32) :
    Fields.Statement (.addi h d a w imm) := by
  intro hw r hr
  cases hr
  rw [hdr_of_fields h _ rfl rfl, formOf_02 _ _ rfl]
  dsimp only [form02, Raw.base]
  have mm0 := bits_68 w
  have mm1 := bits_69 w
  generalize (bitAt 8 4 w) = mm at *
  simp only [mm0, mm1]
  simp [Instr.wf, checkSel, badClass, badUnused, badGroup, badOverlap, groupFits, Cls.ok] at hw ⊢
  all_goals simp_all

theorem Sys2Proof.Laws.Fields.andi (h : Hdr) (d : GReg) (a : GReg) (imm : BitVec 32) :
    Fields.Statement (.andi h d a imm) := by
  intro hw r hr
  cases hr
  rw [hdr_of_fields h _ rfl rfl, formOf_02 _ _ rfl]
  dsimp only [form02, Raw.base]
  simp [Instr.wf, checkSel, badClass, badUnused, badGroup, badOverlap, groupFits, Cls.ok] at hw ⊢
  all_goals simp_all

theorem Sys2Proof.Laws.Fields.ori (h : Hdr) (d : GReg) (a : GReg) (imm : BitVec 32) :
    Fields.Statement (.ori h d a imm) := by
  intro hw r hr
  cases hr
  rw [hdr_of_fields h _ rfl rfl, formOf_02 _ _ rfl]
  dsimp only [form02, Raw.base]
  simp [Instr.wf, checkSel, badClass, badUnused, badGroup, badOverlap, groupFits, Cls.ok] at hw ⊢
  all_goals simp_all

theorem Sys2Proof.Laws.Fields.xori (h : Hdr) (d : GReg) (a : GReg) (imm : BitVec 32) :
    Fields.Statement (.xori h d a imm) := by
  intro hw r hr
  cases hr
  rw [hdr_of_fields h _ rfl rfl, formOf_02 _ _ rfl]
  dsimp only [form02, Raw.base]
  simp [Instr.wf, checkSel, badClass, badUnused, badGroup, badOverlap, groupFits, Cls.ok] at hw ⊢
  all_goals simp_all

theorem Sys2Proof.Laws.Fields.shl (h : Hdr) (d : GReg) (a : GReg) (w : Bool) (src : ShSrc) :
    Fields.Statement (.shl h d a w src) := by
  intro hw r hr
  cases src with
  | imm n =>
    cases hr
    rw [hdr_of_fields h _ rfl rfl, formOf_03 _ _ rfl]
    dsimp only [form03, Raw.base]
    have mm0 := bits_70 w
    have mm1 := bits_71 w
    have mm2 := bits_72 w
    generalize (bitAt 8 4 w ||| 0x20#8) = mm at *
    have jj0 := bits_73 w n (by simpa [Instr.wf] using hw)
    have jj1 := bits_74 n
    generalize (n.setWidth 32) = jj at *
    simp only [mm0, mm1, mm2, jj0, jj1]
    simp [Instr.wf, checkSel, badClass, badUnused, badGroup, badOverlap, groupFits, Cls.ok] at hw ⊢
    all_goals simp_all [Instr.wf, checkSel, badClass, badUnused, badGroup, badOverlap, groupFits, Cls.ok]
  | reg b =>
    cases hr
    rw [hdr_of_fields h _ rfl rfl, formOf_03 _ _ rfl]
    dsimp only [form03, Raw.base]
    have mm0 := bits_75 w
    have mm1 := bits_76 w
    have mm2 := bits_77 w
    generalize (bitAt 8 4 w ||| 0#8) = mm at *
    simp only [mm0, mm1, mm2]
    simp [Instr.wf, checkSel, badClass, badUnused, badGroup, badOverlap, groupFits, Cls.ok] at hw ⊢
    all_goals simp_all [Instr.wf, checkSel, badClass, badUnused, badGroup, badOverlap, groupFits, Cls.ok]

theorem Sys2Proof.Laws.Fields.shr (h : Hdr) (d : GReg) (a : GReg) (w : Bool) (src : ShSrc) :
    Fields.Statement (.shr h d a w src) := by
  intro hw r hr
  cases src with
  | imm n =>
    cases hr
    rw [hdr_of_fields h _ rfl rfl, formOf_03 _ _ rfl]
    dsimp only [form03, Raw.base]
    have mm0 := bits_70 w
    have mm1 := bits_71 w
    have mm2 := bits_72 w
    generalize (bitAt 8 4 w ||| 0x20#8) = mm at *
    have jj0 := bits_73 w n (by simpa [Instr.wf] using hw)
    have jj1 := bits_74 n
    generalize (n.setWidth 32) = jj at *
    simp only [mm0, mm1, mm2, jj0, jj1]
    simp [Instr.wf, checkSel, badClass, badUnused, badGroup, badOverlap, groupFits, Cls.ok] at hw ⊢
    all_goals simp_all [Instr.wf, checkSel, badClass, badUnused, badGroup, badOverlap, groupFits, Cls.ok]
  | reg b =>
    cases hr
    rw [hdr_of_fields h _ rfl rfl, formOf_03 _ _ rfl]
    dsimp only [form03, Raw.base]
    have mm0 := bits_75 w
    have mm1 := bits_76 w
    have mm2 := bits_77 w
    generalize (bitAt 8 4 w ||| 0#8) = mm at *
    simp only [mm0, mm1, mm2]
    simp [Instr.wf, checkSel, badClass, badUnused, badGroup, badOverlap, groupFits, Cls.ok] at hw ⊢
    all_goals simp_all [Instr.wf, checkSel, badClass, badUnused, badGroup, badOverlap, groupFits, Cls.ok]

theorem Sys2Proof.Laws.Fields.shra (h : Hdr) (d : GReg) (a : GReg) (w : Bool) (src : ShSrc) :
    Fields.Statement (.shra h d a w src) := by
  intro hw r hr
  cases src with
  | imm n =>
    cases hr
    rw [hdr_of_fields h _ rfl rfl, formOf_03 _ _ rfl]
    dsimp only [form03, Raw.base]
    have mm0 := bits_70 w
    have mm1 := bits_71 w
    have mm2 := bits_72 w
    generalize (bitAt 8 4 w ||| 0x20#8) = mm at *
    have jj0 := bits_73 w n (by simpa [Instr.wf] using hw)
    have jj1 := bits_74 n
    generalize (n.setWidth 32) = jj at *
    simp only [mm0, mm1, mm2, jj0, jj1]
    simp [Instr.wf, checkSel, badClass, badUnused, badGroup, badOverlap, groupFits, Cls.ok] at hw ⊢
    all_goals simp_all [Instr.wf, checkSel, badClass, badUnused, badGroup, badOverlap, groupFits, Cls.ok]
  | reg b =>
    cases hr
    rw [hdr_of_fields h _ rfl rfl, formOf_03 _ _ rfl]
    dsimp only [form03, Raw.base]
    have mm0 := bits_75 w
    have mm1 := bits_76 w
    have mm2 := bits_77 w
    generalize (bitAt 8 4 w ||| 0#8) = mm at *
    simp only [mm0, mm1, mm2]
    simp [Instr.wf, checkSel, badClass, badUnused, badGroup, badOverlap, groupFits, Cls.ok] at hw ⊢
    all_goals simp_all [Instr.wf, checkSel, badClass, badUnused, badGroup, badOverlap, groupFits, Cls.ok]

theorem Sys2Proof.Laws.Fields.rol (h : Hdr) (d : GReg) (a : GReg) (w : Bool) (src : ShSrc) :
    Fields.Statement (.rol h d a w src) := by
  intro hw r hr
  cases src with
  | imm n =>
    cases hr
    rw [hdr_of_fields h _ rfl rfl, formOf_03 _ _ rfl]
    dsimp only [form03, Raw.base]
    have mm0 := bits_70 w
    have mm1 := bits_71 w
    have mm2 := bits_72 w
    generalize (bitAt 8 4 w ||| 0x20#8) = mm at *
    have jj0 := bits_73 w n (by simpa [Instr.wf] using hw)
    have jj1 := bits_74 n
    generalize (n.setWidth 32) = jj at *
    simp only [mm0, mm1, mm2, jj0, jj1]
    simp [Instr.wf, checkSel, badClass, badUnused, badGroup, badOverlap, groupFits, Cls.ok] at hw ⊢
    all_goals simp_all [Instr.wf, checkSel, badClass, badUnused, badGroup, badOverlap, groupFits, Cls.ok]
  | reg b =>
    cases hr
    rw [hdr_of_fields h _ rfl rfl, formOf_03 _ _ rfl]
    dsimp only [form03, Raw.base]
    have mm0 := bits_75 w
    have mm1 := bits_76 w
    have mm2 := bits_77 w
    generalize (bitAt 8 4 w ||| 0#8) = mm at *
    simp only [mm0, mm1, mm2]
    simp [Instr.wf, checkSel, badClass, badUnused, badGroup, badOverlap, groupFits, Cls.ok] at hw ⊢
    all_goals simp_all [Instr.wf, checkSel, badClass, badUnused, badGroup, badOverlap, groupFits, Cls.ok]

theorem Sys2Proof.Laws.Fields.ror (h : Hdr) (d : GReg) (a : GReg) (w : Bool) (src : ShSrc) :
    Fields.Statement (.ror h d a w src) := by
  intro hw r hr
  cases src with
  | imm n =>
    cases hr
    rw [hdr_of_fields h _ rfl rfl, formOf_03 _ _ rfl]
    dsimp only [form03, Raw.base]
    have mm0 := bits_70 w
    have mm1 := bits_71 w
    have mm2 := bits_72 w
    generalize (bitAt 8 4 w ||| 0x20#8) = mm at *
    have jj0 := bits_73 w n (by simpa [Instr.wf] using hw)
    have jj1 := bits_74 n
    generalize (n.setWidth 32) = jj at *
    simp only [mm0, mm1, mm2, jj0, jj1]
    simp [Instr.wf, checkSel, badClass, badUnused, badGroup, badOverlap, groupFits, Cls.ok] at hw ⊢
    all_goals simp_all [Instr.wf, checkSel, badClass, badUnused, badGroup, badOverlap, groupFits, Cls.ok]
  | reg b =>
    cases hr
    rw [hdr_of_fields h _ rfl rfl, formOf_03 _ _ rfl]
    dsimp only [form03, Raw.base]
    have mm0 := bits_75 w
    have mm1 := bits_76 w
    have mm2 := bits_77 w
    generalize (bitAt 8 4 w ||| 0#8) = mm at *
    simp only [mm0, mm1, mm2]
    simp [Instr.wf, checkSel, badClass, badUnused, badGroup, badOverlap, groupFits, Cls.ok] at hw ⊢
    all_goals simp_all [Instr.wf, checkSel, badClass, badUnused, badGroup, badOverlap, groupFits, Cls.ok]

theorem Sys2Proof.Laws.Fields.mul (h : Hdr) (d : GReg) (a : GReg) (b : GReg) (w : Bool) :
    Fields.Statement (.mul h d a b w) := by
  intro hw r hr
  cases hr
  rw [hdr_of_fields h _ rfl rfl, formOf_04 _ _ rfl]
  dsimp only [form04, Raw.base]
  have mm0 := bits_68 w
  have mm1 := bits_69 w
  generalize (bitAt 8 4 w) = mm at *
  simp only [mm0, mm1]
  simp [Instr.wf, checkSel, badClass, badUnused, badGroup, badOverlap, groupFits, Cls.ok] at hw ⊢
  all_goals simp_all

theorem Sys2Proof.Laws.Fields.mulh (h : Hdr) (d : GReg) (a : GReg) (b : GReg) (w : Bool) :
    Fields.Statement (.mulh h d a b w) := by
  intro hw r hr
  cases hr
  rw [hdr_of_fields h _ rfl rfl, formOf_04 _ _ rfl]
  dsimp only [form04, Raw.base]
  have mm0 := bits_68 w
  have mm1 := bits_69 w
  generalize (bitAt 8 4 w) = mm at *
  simp only [mm0, mm1]
  simp [Instr.wf, checkSel, badClass, badUnused, badGroup, badOverlap, groupFits, Cls.ok] at hw ⊢
  all_goals simp_all

theorem Sys2Proof.Laws.Fields.mulhn (h : Hdr) (d : GReg) (a : GReg) (b : GReg) (w : Bool) :
    Fields.Statement (.mulhn h d a b w) := by
  intro hw r hr
  cases hr
  rw [hdr_of_fields h _ rfl rfl, formOf_04 _ _ rfl]
  dsimp only [form04, Raw.base]
  have mm0 := bits_68 w
  have mm1 := bits_69 w
  generalize (bitAt 8 4 w) = mm at *
  simp only [mm0, mm1]
  simp [Instr.wf, checkSel, badClass, badUnused, badGroup, badOverlap, groupFits, Cls.ok] at hw ⊢
  all_goals simp_all

theorem Sys2Proof.Laws.Fields.div (h : Hdr) (d : GReg) (a : GReg) (b : GReg) (w : Bool) :
    Fields.Statement (.div h d a b w) := by
  intro hw r hr
  cases hr
  rw [hdr_of_fields h _ rfl rfl, formOf_04 _ _ rfl]
  dsimp only [form04, Raw.base]
  have mm0 := bits_68 w
  have mm1 := bits_69 w
  generalize (bitAt 8 4 w) = mm at *
  simp only [mm0, mm1]
  simp [Instr.wf, checkSel, badClass, badUnused, badGroup, badOverlap, groupFits, Cls.ok] at hw ⊢
  all_goals simp_all

theorem Sys2Proof.Laws.Fields.divn (h : Hdr) (d : GReg) (a : GReg) (b : GReg) (w : Bool) :
    Fields.Statement (.divn h d a b w) := by
  intro hw r hr
  cases hr
  rw [hdr_of_fields h _ rfl rfl, formOf_04 _ _ rfl]
  dsimp only [form04, Raw.base]
  have mm0 := bits_68 w
  have mm1 := bits_69 w
  generalize (bitAt 8 4 w) = mm at *
  simp only [mm0, mm1]
  simp [Instr.wf, checkSel, badClass, badUnused, badGroup, badOverlap, groupFits, Cls.ok] at hw ⊢
  all_goals simp_all

theorem Sys2Proof.Laws.Fields.rem (h : Hdr) (d : GReg) (a : GReg) (b : GReg) (w : Bool) :
    Fields.Statement (.rem h d a b w) := by
  intro hw r hr
  cases hr
  rw [hdr_of_fields h _ rfl rfl, formOf_04 _ _ rfl]
  dsimp only [form04, Raw.base]
  have mm0 := bits_68 w
  have mm1 := bits_69 w
  generalize (bitAt 8 4 w) = mm at *
  simp only [mm0, mm1]
  simp [Instr.wf, checkSel, badClass, badUnused, badGroup, badOverlap, groupFits, Cls.ok] at hw ⊢
  all_goals simp_all

theorem Sys2Proof.Laws.Fields.remn (h : Hdr) (d : GReg) (a : GReg) (b : GReg) (w : Bool) :
    Fields.Statement (.remn h d a b w) := by
  intro hw r hr
  cases hr
  rw [hdr_of_fields h _ rfl rfl, formOf_04 _ _ rfl]
  dsimp only [form04, Raw.base]
  have mm0 := bits_68 w
  have mm1 := bits_69 w
  generalize (bitAt 8 4 w) = mm at *
  simp only [mm0, mm1]
  simp [Instr.wf, checkSel, badClass, badUnused, badGroup, badOverlap, groupFits, Cls.ok] at hw ⊢
  all_goals simp_all

theorem Sys2Proof.Laws.Fields.clz (h : Hdr) (d : GReg) (a : GReg) (w : Bool) :
    Fields.Statement (.clz h d a w) := by
  intro hw r hr
  cases hr
  rw [hdr_of_fields h _ rfl rfl, formOf_05 _ _ rfl]
  dsimp only [form05, Raw.base]
  have mm0 := bits_68 w
  have mm1 := bits_69 w
  generalize (bitAt 8 4 w) = mm at *
  simp only [mm0, mm1]
  simp [Instr.wf, checkSel, badClass, badUnused, badGroup, badOverlap, groupFits, Cls.ok] at hw ⊢
  all_goals simp_all

theorem Sys2Proof.Laws.Fields.ctz (h : Hdr) (d : GReg) (a : GReg) (w : Bool) :
    Fields.Statement (.ctz h d a w) := by
  intro hw r hr
  cases hr
  rw [hdr_of_fields h _ rfl rfl, formOf_05 _ _ rfl]
  dsimp only [form05, Raw.base]
  have mm0 := bits_68 w
  have mm1 := bits_69 w
  generalize (bitAt 8 4 w) = mm at *
  simp only [mm0, mm1]
  simp [Instr.wf, checkSel, badClass, badUnused, badGroup, badOverlap, groupFits, Cls.ok] at hw ⊢
  all_goals simp_all

theorem Sys2Proof.Laws.Fields.popc (h : Hdr) (d : GReg) (a : GReg) (w : Bool) :
    Fields.Statement (.popc h d a w) := by
  intro hw r hr
  cases hr
  rw [hdr_of_fields h _ rfl rfl, formOf_05 _ _ rfl]
  dsimp only [form05, Raw.base]
  have mm0 := bits_68 w
  have mm1 := bits_69 w
  generalize (bitAt 8 4 w) = mm at *
  simp only [mm0, mm1]
  simp [Instr.wf, checkSel, badClass, badUnused, badGroup, badOverlap, groupFits, Cls.ok] at hw ⊢
  all_goals simp_all

theorem Sys2Proof.Laws.Fields.brev (h : Hdr) (d : GReg) (a : GReg) (w : Bool) :
    Fields.Statement (.brev h d a w) := by
  intro hw r hr
  cases hr
  rw [hdr_of_fields h _ rfl rfl, formOf_05 _ _ rfl]
  dsimp only [form05, Raw.base]
  have mm0 := bits_68 w
  have mm1 := bits_69 w
  generalize (bitAt 8 4 w) = mm at *
  simp only [mm0, mm1]
  simp [Instr.wf, checkSel, badClass, badUnused, badGroup, badOverlap, groupFits, Cls.ok] at hw ⊢
  all_goals simp_all

theorem Sys2Proof.Laws.Fields.bswap (h : Hdr) (d : GReg) (a : GReg) (w : Bool) :
    Fields.Statement (.bswap h d a w) := by
  intro hw r hr
  cases hr
  rw [hdr_of_fields h _ rfl rfl, formOf_05 _ _ rfl]
  dsimp only [form05, Raw.base]
  have mm0 := bits_68 w
  have mm1 := bits_69 w
  generalize (bitAt 8 4 w) = mm at *
  simp only [mm0, mm1]
  simp [Instr.wf, checkSel, badClass, badUnused, badGroup, badOverlap, groupFits, Cls.ok] at hw ⊢
  all_goals simp_all

theorem Sys2Proof.Laws.Fields.bfx (h : Hdr) (d : GReg) (a : GReg) (w : Bool) (pos : BitVec 6) (len : BitVec 7) :
    Fields.Statement (.bfx h d a w pos len) := by
  intro hw r hr
  cases hr
  rw [hdr_of_fields h _ rfl rfl, formOf_06 _ _ rfl]
  dsimp only [form06, Raw.base]
  have mm0 := bits_68 w
  have mm1 := bits_69 w
  generalize (bitAt 8 4 w) = mm at *
  have jj0 := bits_78 pos len
  have jj1 := bits_79 pos len
  have jj2 := bits_80 pos len
  generalize ((pos.setWidth 32 <<< 0) ||| (len.setWidth 32 <<< 6)) = jj at *
  simp only [mm0, mm1, jj0, jj1, jj2]
  simp [Instr.wf, checkSel, badClass, badUnused, badGroup, badOverlap, groupFits, Cls.ok] at hw ⊢
  all_goals simp_all

theorem Sys2Proof.Laws.Fields.bfxn (h : Hdr) (d : GReg) (a : GReg) (w : Bool) (pos : BitVec 6) (len : BitVec 7) :
    Fields.Statement (.bfxn h d a w pos len) := by
  intro hw r hr
  cases hr
  rw [hdr_of_fields h _ rfl rfl, formOf_06 _ _ rfl]
  dsimp only [form06, Raw.base]
  have mm0 := bits_68 w
  have mm1 := bits_69 w
  generalize (bitAt 8 4 w) = mm at *
  have jj0 := bits_78 pos len
  have jj1 := bits_79 pos len
  have jj2 := bits_80 pos len
  generalize ((pos.setWidth 32 <<< 0) ||| (len.setWidth 32 <<< 6)) = jj at *
  simp only [mm0, mm1, jj0, jj1, jj2]
  simp [Instr.wf, checkSel, badClass, badUnused, badGroup, badOverlap, groupFits, Cls.ok] at hw ⊢
  all_goals simp_all

theorem Sys2Proof.Laws.Fields.bfi (h : Hdr) (d : GReg) (a : GReg) (w : Bool) (pos : BitVec 6) (len : BitVec 7) :
    Fields.Statement (.bfi h d a w pos len) := by
  intro hw r hr
  cases hr
  rw [hdr_of_fields h _ rfl rfl, formOf_06 _ _ rfl]
  dsimp only [form06, Raw.base]
  have mm0 := bits_68 w
  have mm1 := bits_69 w
  generalize (bitAt 8 4 w) = mm at *
  have jj0 := bits_78 pos len
  have jj1 := bits_79 pos len
  have jj2 := bits_80 pos len
  generalize ((pos.setWidth 32 <<< 0) ||| (len.setWidth 32 <<< 6)) = jj at *
  simp only [mm0, mm1, jj0, jj1, jj2]
  simp [Instr.wf, checkSel, badClass, badUnused, badGroup, badOverlap, groupFits, Cls.ok] at hw ⊢
  all_goals simp_all

theorem Sys2Proof.Laws.Fields.min (h : Hdr) (d : GReg) (a : GReg) (b : GReg) (w : Bool) :
    Fields.Statement (.min h d a b w) := by
  intro hw r hr
  cases hr
  rw [hdr_of_fields h _ rfl rfl, formOf_07 _ _ rfl]
  dsimp only [form07, Raw.base]
  have mm0 := bits_68 w
  have mm1 := bits_69 w
  generalize (bitAt 8 4 w) = mm at *
  simp only [mm0, mm1]
  simp [Instr.wf, checkSel, badClass, badUnused, badGroup, badOverlap, groupFits, Cls.ok] at hw ⊢
  all_goals simp_all

theorem Sys2Proof.Laws.Fields.minn (h : Hdr) (d : GReg) (a : GReg) (b : GReg) (w : Bool) :
    Fields.Statement (.minn h d a b w) := by
  intro hw r hr
  cases hr
  rw [hdr_of_fields h _ rfl rfl, formOf_07 _ _ rfl]
  dsimp only [form07, Raw.base]
  have mm0 := bits_68 w
  have mm1 := bits_69 w
  generalize (bitAt 8 4 w) = mm at *
  simp only [mm0, mm1]
  simp [Instr.wf, checkSel, badClass, badUnused, badGroup, badOverlap, groupFits, Cls.ok] at hw ⊢
  all_goals simp_all

theorem Sys2Proof.Laws.Fields.max (h : Hdr) (d : GReg) (a : GReg) (b : GReg) (w : Bool) :
    Fields.Statement (.max h d a b w) := by
  intro hw r hr
  cases hr
  rw [hdr_of_fields h _ rfl rfl, formOf_07 _ _ rfl]
  dsimp only [form07, Raw.base]
  have mm0 := bits_68 w
  have mm1 := bits_69 w
  generalize (bitAt 8 4 w) = mm at *
  simp only [mm0, mm1]
  simp [Instr.wf, checkSel, badClass, badUnused, badGroup, badOverlap, groupFits, Cls.ok] at hw ⊢
  all_goals simp_all

theorem Sys2Proof.Laws.Fields.maxn (h : Hdr) (d : GReg) (a : GReg) (b : GReg) (w : Bool) :
    Fields.Statement (.maxn h d a b w) := by
  intro hw r hr
  cases hr
  rw [hdr_of_fields h _ rfl rfl, formOf_07 _ _ rfl]
  dsimp only [form07, Raw.base]
  have mm0 := bits_68 w
  have mm1 := bits_69 w
  generalize (bitAt 8 4 w) = mm at *
  simp only [mm0, mm1]
  simp [Instr.wf, checkSel, badClass, badUnused, badGroup, badOverlap, groupFits, Cls.ok] at hw ⊢
  all_goals simp_all

theorem Sys2Proof.Laws.Fields.sel (h : Hdr) (d : GReg) (a : GReg) (b : GReg) (c : PReg) (neg : Bool) :
    Fields.Statement (.sel h d a b c neg) := by
  intro hw r hr
  cases hr
  rw [hdr_of_fields h _ rfl rfl, formOf_07 _ _ rfl]
  dsimp only [form07, Raw.base]
  have jj0 := bits_81 c neg
  have jj1 := bits_82 c neg
  have jj2 := bits_83 c neg
  generalize ((BitVec.ofNat 32 c.val <<< 0) ||| bitAt 32 3 neg) = jj at *
  simp only [jj0, jj1, jj2]
  simp [Instr.wf, checkSel, badClass, badUnused, badGroup, badOverlap, groupFits, Cls.ok] at hw ⊢
  all_goals simp_all

theorem Sys2Proof.Laws.Fields.mov (h : Hdr) (d : GReg) (a : GReg) :
    Fields.Statement (.mov h d a) := by
  intro hw r hr
  cases hr
  rw [hdr_of_fields h _ rfl rfl, formOf_08 _ _ rfl]
  dsimp only [form08, Raw.base]
  simp [Instr.wf, checkSel, badClass, badUnused, badGroup, badOverlap, groupFits, Cls.ok] at hw ⊢
  all_goals simp_all

theorem Sys2Proof.Laws.Fields.movi (h : Hdr) (d : GReg) (imm : BitVec 32) :
    Fields.Statement (.movi h d imm) := by
  intro hw r hr
  cases hr
  rw [hdr_of_fields h _ rfl rfl, formOf_08 _ _ rfl]
  dsimp only [form08, Raw.base]
  simp [Instr.wf, checkSel, badClass, badUnused, badGroup, badOverlap, groupFits, Cls.ok] at hw ⊢
  all_goals simp_all

theorem Sys2Proof.Laws.Fields.movhi (h : Hdr) (d : GReg) (imm : BitVec 32) :
    Fields.Statement (.movhi h d imm) := by
  intro hw r hr
  cases hr
  rw [hdr_of_fields h _ rfl rfl, formOf_08 _ _ rfl]
  dsimp only [form08, Raw.base]
  simp [Instr.wf, checkSel, badClass, badUnused, badGroup, badOverlap, groupFits, Cls.ok] at hw ⊢
  all_goals simp_all

theorem Sys2Proof.Laws.Fields.movp (h : Hdr) (o : MovpOps) :
    Fields.Statement (.movp h o) := by
  intro hw r hr
  cases o with
  | toG d a =>
    cases hr
    rw [hdr_of_fields h _ rfl rfl, formOf_08 _ _ rfl]
    dsimp only [form08, Raw.base]
    simp [Instr.wf, checkSel, badClass, badUnused, badGroup, badOverlap, groupFits, Cls.ok] at hw ⊢
    all_goals simp_all [Instr.wf, checkSel, badClass, badUnused, badGroup, badOverlap, groupFits, Cls.ok]
  | toP d a =>
    cases hr
    rw [hdr_of_fields h _ rfl rfl, formOf_08 _ _ rfl]
    dsimp only [form08, Raw.base]
    simp [Instr.wf, checkSel, badClass, badUnused, badGroup, badOverlap, groupFits, Cls.ok] at hw ⊢
    all_goals simp_all [Instr.wf, checkSel, badClass, badUnused, badGroup, badOverlap, groupFits, Cls.ok]

theorem Sys2Proof.Laws.Fields.lea (h : Hdr) (d : GReg) (a : GReg) (b : GReg) (sc : BitVec 3) (imm : BitVec 32) :
    Fields.Statement (.lea h d a b sc imm) := by
  intro hw r hr
  cases hr
  rw [hdr_of_fields h _ rfl rfl, formOf_09 _ _ rfl]
  dsimp only [form09, Raw.base]
  have mm0 := bits_32 sc
  have mm1 := bits_33 sc
  generalize ((sc.setWidth 8 <<< 4)) = mm at *
  simp only [mm0, mm1]
  simp [Instr.wf, checkSel, badClass, badUnused, badGroup, badOverlap, groupFits, Cls.ok] at hw ⊢
  all_goals simp_all

theorem Sys2Proof.Laws.Fields.cmp (h : Hdr) (d : PReg) (a : GReg) (cc : BitVec 4) (w : Bool) (src : CmpSrc) :
    Fields.Statement (.cmp h d a cc w src) := by
  intro hw r hr
  cases src with
  | imm n =>
    cases hr
    rw [hdr_of_fields h _ rfl rfl, formOf_0A _ _ rfl]
    dsimp only [form0A, Raw.base]
    have mm0 := bits_84 cc w
    have mm1 := bits_85 cc w
    have mm2 := bits_86 cc w
    have mm3 := bits_87 cc w
    generalize ((cc.setWidth 8 <<< 0) ||| bitAt 8 4 w ||| 0x20#8) = mm at *
    simp only [mm0, mm1, mm2, mm3]
    simp [Instr.wf, checkSel, badClass, badUnused, badGroup, badOverlap, groupFits, Cls.ok] at hw ⊢
    all_goals simp_all [Instr.wf, checkSel, badClass, badUnused, badGroup, badOverlap, groupFits, Cls.ok]
  | reg b =>
    cases hr
    rw [hdr_of_fields h _ rfl rfl, formOf_0A _ _ rfl]
    dsimp only [form0A, Raw.base]
    have mm0 := bits_88 cc w
    have mm1 := bits_89 cc w
    have mm2 := bits_90 cc w
    have mm3 := bits_91 cc w
    generalize ((cc.setWidth 8 <<< 0) ||| bitAt 8 4 w ||| 0#8) = mm at *
    simp only [mm0, mm1, mm2, mm3]
    simp [Instr.wf, checkSel, badClass, badUnused, badGroup, badOverlap, groupFits, Cls.ok] at hw ⊢
    all_goals simp_all [Instr.wf, checkSel, badClass, badUnused, badGroup, badOverlap, groupFits, Cls.ok]

theorem Sys2Proof.Laws.Fields.fadd (h : Hdr) (d : GReg) (a : GReg) (b : GReg) (rm : BitVec 3) (f32 : Bool) :
    Fields.Statement (.fadd h d a b rm f32) := by
  intro hw r hr
  cases hr
  rw [hdr_of_fields h _ rfl rfl, formOf_0B _ _ rfl]
  dsimp only [form0B, Raw.base]
  have mm0 := bits_92 rm f32
  have mm1 := bits_93 rm f32
  have mm2 := bits_94 rm f32
  generalize ((rm.setWidth 8 <<< 0) ||| bitAt 8 4 f32) = mm at *
  simp only [mm0, mm1, mm2]
  simp [Instr.wf, checkSel, badClass, badUnused, badGroup, badOverlap, groupFits, Cls.ok] at hw ⊢
  all_goals simp_all

theorem Sys2Proof.Laws.Fields.fsub (h : Hdr) (d : GReg) (a : GReg) (b : GReg) (rm : BitVec 3) (f32 : Bool) :
    Fields.Statement (.fsub h d a b rm f32) := by
  intro hw r hr
  cases hr
  rw [hdr_of_fields h _ rfl rfl, formOf_0B _ _ rfl]
  dsimp only [form0B, Raw.base]
  have mm0 := bits_92 rm f32
  have mm1 := bits_93 rm f32
  have mm2 := bits_94 rm f32
  generalize ((rm.setWidth 8 <<< 0) ||| bitAt 8 4 f32) = mm at *
  simp only [mm0, mm1, mm2]
  simp [Instr.wf, checkSel, badClass, badUnused, badGroup, badOverlap, groupFits, Cls.ok] at hw ⊢
  all_goals simp_all

theorem Sys2Proof.Laws.Fields.fmul (h : Hdr) (d : GReg) (a : GReg) (b : GReg) (rm : BitVec 3) (f32 : Bool) :
    Fields.Statement (.fmul h d a b rm f32) := by
  intro hw r hr
  cases hr
  rw [hdr_of_fields h _ rfl rfl, formOf_0B _ _ rfl]
  dsimp only [form0B, Raw.base]
  have mm0 := bits_92 rm f32
  have mm1 := bits_93 rm f32
  have mm2 := bits_94 rm f32
  generalize ((rm.setWidth 8 <<< 0) ||| bitAt 8 4 f32) = mm at *
  simp only [mm0, mm1, mm2]
  simp [Instr.wf, checkSel, badClass, badUnused, badGroup, badOverlap, groupFits, Cls.ok] at hw ⊢
  all_goals simp_all

theorem Sys2Proof.Laws.Fields.fdiv (h : Hdr) (d : GReg) (a : GReg) (b : GReg) (rm : BitVec 3) (f32 : Bool) :
    Fields.Statement (.fdiv h d a b rm f32) := by
  intro hw r hr
  cases hr
  rw [hdr_of_fields h _ rfl rfl, formOf_0B _ _ rfl]
  dsimp only [form0B, Raw.base]
  have mm0 := bits_92 rm f32
  have mm1 := bits_93 rm f32
  have mm2 := bits_94 rm f32
  generalize ((rm.setWidth 8 <<< 0) ||| bitAt 8 4 f32) = mm at *
  simp only [mm0, mm1, mm2]
  simp [Instr.wf, checkSel, badClass, badUnused, badGroup, badOverlap, groupFits, Cls.ok] at hw ⊢
  all_goals simp_all

theorem Sys2Proof.Laws.Fields.fsqrt (h : Hdr) (d : GReg) (a : GReg) (rm : BitVec 3) (f32 : Bool) :
    Fields.Statement (.fsqrt h d a rm f32) := by
  intro hw r hr
  cases hr
  rw [hdr_of_fields h _ rfl rfl, formOf_0B _ _ rfl]
  dsimp only [form0B, Raw.base]
  have mm0 := bits_92 rm f32
  have mm1 := bits_93 rm f32
  have mm2 := bits_94 rm f32
  generalize ((rm.setWidth 8 <<< 0) ||| bitAt 8 4 f32) = mm at *
  simp only [mm0, mm1, mm2]
  simp [Instr.wf, checkSel, badClass, badUnused, badGroup, badOverlap, groupFits, Cls.ok] at hw ⊢
  all_goals simp_all

theorem Sys2Proof.Laws.Fields.fma (h : Hdr) (d : GReg) (a : GReg) (b : GReg) (rm : BitVec 3) (f32 : Bool) :
    Fields.Statement (.fma h d a b rm f32) := by
  intro hw r hr
  cases hr
  rw [hdr_of_fields h _ rfl rfl, formOf_0B _ _ rfl]
  dsimp only [form0B, Raw.base]
  have mm0 := bits_92 rm f32
  have mm1 := bits_93 rm f32
  have mm2 := bits_94 rm f32
  generalize ((rm.setWidth 8 <<< 0) ||| bitAt 8 4 f32) = mm at *
  simp only [mm0, mm1, mm2]
  simp [Instr.wf, checkSel, badClass, badUnused, badGroup, badOverlap, groupFits, Cls.ok] at hw ⊢
  all_goals simp_all

theorem Sys2Proof.Laws.Fields.fcmp (h : Hdr) (d : PReg) (a : GReg) (b : GReg) (cc : BitVec 3) (f32 : Bool) :
    Fields.Statement (.fcmp h d a b cc f32) := by
  intro hw r hr
  cases hr
  rw [hdr_of_fields h _ rfl rfl, formOf_0C _ _ rfl]
  dsimp only [form0C, Raw.base]
  have mm0 := bits_92 cc f32
  have mm1 := bits_93 cc f32
  have mm2 := bits_94 cc f32
  generalize ((cc.setWidth 8 <<< 0) ||| bitAt 8 4 f32) = mm at *
  simp only [mm0, mm1, mm2]
  simp [Instr.wf, checkSel, badClass, badUnused, badGroup, badOverlap, groupFits, Cls.ok] at hw ⊢
  all_goals simp_all

theorem Sys2Proof.Laws.Fields.fclass (h : Hdr) (d : GReg) (a : GReg) (f32 : Bool) :
    Fields.Statement (.fclass h d a f32) := by
  intro hw r hr
  cases hr
  rw [hdr_of_fields h _ rfl rfl, formOf_0C _ _ rfl]
  dsimp only [form0C, Raw.base]
  have mm0 := bits_68 f32
  have mm1 := bits_69 f32
  generalize (bitAt 8 4 f32) = mm at *
  simp only [mm0, mm1]
  simp [Instr.wf, checkSel, badClass, badUnused, badGroup, badOverlap, groupFits, Cls.ok] at hw ⊢
  all_goals simp_all

theorem Sys2Proof.Laws.Fields.fmin (h : Hdr) (d : GReg) (a : GReg) (b : GReg) (f32 : Bool) :
    Fields.Statement (.fmin h d a b f32) := by
  intro hw r hr
  cases hr
  rw [hdr_of_fields h _ rfl rfl, formOf_0D _ _ rfl]
  dsimp only [form0D, Raw.base]
  have mm0 := bits_68 f32
  have mm1 := bits_69 f32
  generalize (bitAt 8 4 f32) = mm at *
  simp only [mm0, mm1]
  simp [Instr.wf, checkSel, badClass, badUnused, badGroup, badOverlap, groupFits, Cls.ok] at hw ⊢
  all_goals simp_all

theorem Sys2Proof.Laws.Fields.fmax (h : Hdr) (d : GReg) (a : GReg) (b : GReg) (f32 : Bool) :
    Fields.Statement (.fmax h d a b f32) := by
  intro hw r hr
  cases hr
  rw [hdr_of_fields h _ rfl rfl, formOf_0D _ _ rfl]
  dsimp only [form0D, Raw.base]
  have mm0 := bits_68 f32
  have mm1 := bits_69 f32
  generalize (bitAt 8 4 f32) = mm at *
  simp only [mm0, mm1]
  simp [Instr.wf, checkSel, badClass, badUnused, badGroup, badOverlap, groupFits, Cls.ok] at hw ⊢
  all_goals simp_all

theorem Sys2Proof.Laws.Fields.fabs (h : Hdr) (d : GReg) (a : GReg) (f32 : Bool) :
    Fields.Statement (.fabs h d a f32) := by
  intro hw r hr
  cases hr
  rw [hdr_of_fields h _ rfl rfl, formOf_0D _ _ rfl]
  dsimp only [form0D, Raw.base]
  have mm0 := bits_68 f32
  have mm1 := bits_69 f32
  generalize (bitAt 8 4 f32) = mm at *
  simp only [mm0, mm1]
  simp [Instr.wf, checkSel, badClass, badUnused, badGroup, badOverlap, groupFits, Cls.ok] at hw ⊢
  all_goals simp_all

theorem Sys2Proof.Laws.Fields.fneg (h : Hdr) (d : GReg) (a : GReg) (f32 : Bool) :
    Fields.Statement (.fneg h d a f32) := by
  intro hw r hr
  cases hr
  rw [hdr_of_fields h _ rfl rfl, formOf_0D _ _ rfl]
  dsimp only [form0D, Raw.base]
  have mm0 := bits_68 f32
  have mm1 := bits_69 f32
  generalize (bitAt 8 4 f32) = mm at *
  simp only [mm0, mm1]
  simp [Instr.wf, checkSel, badClass, badUnused, badGroup, badOverlap, groupFits, Cls.ok] at hw ⊢
  all_goals simp_all

theorem Sys2Proof.Laws.Fields.fcpys (h : Hdr) (d : GReg) (a : GReg) (b : GReg) (f32 : Bool) :
    Fields.Statement (.fcpys h d a b f32) := by
  intro hw r hr
  cases hr
  rw [hdr_of_fields h _ rfl rfl, formOf_0D _ _ rfl]
  dsimp only [form0D, Raw.base]
  have mm0 := bits_68 f32
  have mm1 := bits_69 f32
  generalize (bitAt 8 4 f32) = mm at *
  simp only [mm0, mm1]
  simp [Instr.wf, checkSel, badClass, badUnused, badGroup, badOverlap, groupFits, Cls.ok] at hw ⊢
  all_goals simp_all

theorem Sys2Proof.Laws.Fields.br (h : Hdr) (lx : Bool) (imm : BitVec 32) :
    Fields.Statement (.br h lx imm) := by
  intro hw r hr
  cases hr
  rw [hdr_of_fields h _ rfl rfl, formOf_10 _ _ rfl]
  dsimp only [form10, Raw.base]
  have mm0 := bits_14 lx
  have mm1 := bits_15 lx
  generalize (bitAt 8 0 lx) = mm at *
  simp only [mm0, mm1]
  simp [Instr.wf, checkSel, badClass, badUnused, badGroup, badOverlap, groupFits, Cls.ok] at hw ⊢
  all_goals simp_all

theorem Sys2Proof.Laws.Fields.call (h : Hdr) (d : GReg) (imm : BitVec 32) :
    Fields.Statement (.call h d imm) := by
  intro hw r hr
  cases hr
  rw [hdr_of_fields h _ rfl rfl, formOf_10 _ _ rfl]
  dsimp only [form10, Raw.base]
  simp [Instr.wf, checkSel, badClass, badUnused, badGroup, badOverlap, groupFits, Cls.ok] at hw ⊢
  all_goals simp_all

theorem Sys2Proof.Laws.Fields.jr (h : Hdr) (a : GReg) (lx : Bool) (imm : BitVec 32) :
    Fields.Statement (.jr h a lx imm) := by
  intro hw r hr
  cases hr
  rw [hdr_of_fields h _ rfl rfl, formOf_11 _ _ rfl]
  dsimp only [form11, Raw.base]
  have mm0 := bits_14 lx
  have mm1 := bits_15 lx
  generalize (bitAt 8 0 lx) = mm at *
  simp only [mm0, mm1]
  simp [Instr.wf, checkSel, badClass, badUnused, badGroup, badOverlap, groupFits, Cls.ok] at hw ⊢
  all_goals simp_all

theorem Sys2Proof.Laws.Fields.callr (h : Hdr) (d : GReg) (a : GReg) (imm : BitVec 32) :
    Fields.Statement (.callr h d a imm) := by
  intro hw r hr
  cases hr
  rw [hdr_of_fields h _ rfl rfl, formOf_11 _ _ rfl]
  dsimp only [form11, Raw.base]
  simp [Instr.wf, checkSel, badClass, badUnused, badGroup, badOverlap, groupFits, Cls.ok] at hw ⊢
  all_goals simp_all

theorem Sys2Proof.Laws.Fields.ret (h : Hdr) (a : GReg) :
    Fields.Statement (.ret h a) := by
  intro hw r hr
  cases hr
  rw [hdr_of_fields h _ rfl rfl, formOf_11 _ _ rfl]
  dsimp only [form11, Raw.base]
  simp [Instr.wf, checkSel, badClass, badUnused, badGroup, badOverlap, groupFits, Cls.ok] at hw ⊢
  all_goals simp_all

theorem Sys2Proof.Laws.Fields.loop (h : Hdr) (a : GReg) (len : BitVec 8) :
    Fields.Statement (.loop h a len) := by
  intro hw r hr
  cases hr
  rw [hdr_of_fields h _ rfl rfl, formOf_12 _ _ rfl]
  dsimp only [form12, Raw.base]
  have jj0 := bits_34 len
  have jj1 := bits_35 len
  generalize ((len.setWidth 32 <<< 0)) = jj at *
  simp only [jj0, jj1]
  simp [Instr.wf, checkSel, badClass, badUnused, badGroup, badOverlap, groupFits, Cls.ok] at hw ⊢
  all_goals simp_all

theorem Sys2Proof.Laws.Fields.loopi (h : Hdr) (len : BitVec 8) (cnt : BitVec 24) :
    Fields.Statement (.loopi h len cnt) := by
  intro hw r hr
  cases hr
  rw [hdr_of_fields h _ rfl rfl, formOf_12 _ _ rfl]
  dsimp only [form12, Raw.base]
  have jj0 := bits_95 len cnt
  have jj1 := bits_96 len cnt
  have jj2 := bits_97 len cnt
  generalize ((len.setWidth 32 <<< 0) ||| (cnt.setWidth 32 <<< 8)) = jj at *
  simp only [jj0, jj1, jj2]
  simp [Instr.wf, checkSel, badClass, badUnused, badGroup, badOverlap, groupFits, Cls.ok] at hw ⊢
  all_goals simp_all

theorem Sys2Proof.Laws.Fields.pand (h : Hdr) (d : PReg) (a : PReg) (b : PReg) (na : Bool) (nb : Bool) :
    Fields.Statement (.pand h d a b na nb) := by
  intro hw r hr
  cases hr
  rw [hdr_of_fields h _ rfl rfl, formOf_13 _ _ rfl]
  dsimp only [form13, Raw.base]
  have mm0 := bits_98 na nb
  have mm1 := bits_99 na nb
  have mm2 := bits_100 na nb
  generalize (bitAt 8 0 na ||| bitAt 8 1 nb) = mm at *
  simp only [mm0, mm1, mm2]
  simp [Instr.wf, checkSel, badClass, badUnused, badGroup, badOverlap, groupFits, Cls.ok] at hw ⊢
  all_goals simp_all

theorem Sys2Proof.Laws.Fields.por (h : Hdr) (d : PReg) (a : PReg) (b : PReg) (na : Bool) (nb : Bool) :
    Fields.Statement (.por h d a b na nb) := by
  intro hw r hr
  cases hr
  rw [hdr_of_fields h _ rfl rfl, formOf_13 _ _ rfl]
  dsimp only [form13, Raw.base]
  have mm0 := bits_98 na nb
  have mm1 := bits_99 na nb
  have mm2 := bits_100 na nb
  generalize (bitAt 8 0 na ||| bitAt 8 1 nb) = mm at *
  simp only [mm0, mm1, mm2]
  simp [Instr.wf, checkSel, badClass, badUnused, badGroup, badOverlap, groupFits, Cls.ok] at hw ⊢
  all_goals simp_all

theorem Sys2Proof.Laws.Fields.pxor (h : Hdr) (d : PReg) (a : PReg) (b : PReg) (na : Bool) (nb : Bool) :
    Fields.Statement (.pxor h d a b na nb) := by
  intro hw r hr
  cases hr
  rw [hdr_of_fields h _ rfl rfl, formOf_13 _ _ rfl]
  dsimp only [form13, Raw.base]
  have mm0 := bits_98 na nb
  have mm1 := bits_99 na nb
  have mm2 := bits_100 na nb
  generalize (bitAt 8 0 na ||| bitAt 8 1 nb) = mm at *
  simp only [mm0, mm1, mm2]
  simp [Instr.wf, checkSel, badClass, badUnused, badGroup, badOverlap, groupFits, Cls.ok] at hw ⊢
  all_goals simp_all

theorem Sys2Proof.Laws.Fields.pnot (h : Hdr) (d : PReg) (a : PReg) :
    Fields.Statement (.pnot h d a) := by
  intro hw r hr
  cases hr
  rw [hdr_of_fields h _ rfl rfl, formOf_13 _ _ rfl]
  dsimp only [form13, Raw.base]
  simp [Instr.wf, checkSel, badClass, badUnused, badGroup, badOverlap, groupFits, Cls.ok] at hw ⊢
  all_goals simp_all

theorem Sys2Proof.Laws.Fields.pmov (h : Hdr) (d : PReg) (a : PReg) :
    Fields.Statement (.pmov h d a) := by
  intro hw r hr
  cases hr
  rw [hdr_of_fields h _ rfl rfl, formOf_13 _ _ rfl]
  dsimp only [form13, Raw.base]
  simp [Instr.wf, checkSel, badClass, badUnused, badGroup, badOverlap, groupFits, Cls.ok] at hw ⊢
  all_goals simp_all

theorem Sys2Proof.Laws.Fields.vcvt (h : Hdr) (tag : BitVec 8) (d : VReg) (a : VReg) (rm : BitVec 3) (stm : Bool) (chunk : BitVec 4) :
    Fields.Statement (.vcvt h tag d a rm stm chunk) := by
  intro hw r hr
  cases hr
  rw [hdr_of_fields h _ rfl rfl, formOf_38 _ _ rfl]
  dsimp only [form38, Raw.base]
  have mm0 := bits_101 rm stm chunk
  have mm1 := bits_102 rm stm chunk
  have mm2 := bits_103 rm stm chunk
  generalize ((rm.setWidth 8 <<< 0) ||| bitAt 8 3 stm ||| (chunk.setWidth 8 <<< 4)) = mm at *
  have ff0 := bits_10 tag
  have ff1 := bits_11 tag
  generalize (tag.setWidth 9) = ff at *
  simp only [mm0, mm1, mm2, ff0, ff1]
  simp [Instr.wf, checkSel, badClass, badUnused, badGroup, badOverlap, groupFits, Cls.ok] at hw ⊢
  all_goals simp_all

theorem Sys2Proof.Laws.Fields.vcvts (h : Hdr) (tag : BitVec 8) (d : VReg) (a : VReg) (b : GReg) (rm : BitVec 3) (stm : Bool) (chunk : BitVec 4) :
    Fields.Statement (.vcvts h tag d a b rm stm chunk) := by
  intro hw r hr
  cases hr
  rw [hdr_of_fields h _ rfl rfl, formOf_39 _ _ rfl]
  dsimp only [form39, Raw.base]
  have mm0 := bits_101 rm stm chunk
  have mm1 := bits_102 rm stm chunk
  have mm2 := bits_103 rm stm chunk
  generalize ((rm.setWidth 8 <<< 0) ||| bitAt 8 3 stm ||| (chunk.setWidth 8 <<< 4)) = mm at *
  have ff0 := bits_10 tag
  have ff1 := bits_11 tag
  generalize (tag.setWidth 9) = ff at *
  simp only [mm0, mm1, mm2, ff0, ff1]
  simp [Instr.wf, checkSel, badClass, badUnused, badGroup, badOverlap, groupFits, Cls.ok] at hw ⊢
  all_goals simp_all

theorem Sys2Proof.Laws.Fields.vtag (h : Hdr) (tag : BitVec 8) (d : VReg) (a : VReg) :
    Fields.Statement (.vtag h tag d a) := by
  intro hw r hr
  cases hr
  rw [hdr_of_fields h _ rfl rfl, formOf_3A _ _ rfl]
  dsimp only [form3A, Raw.base]
  have ff0 := bits_10 tag
  have ff1 := bits_11 tag
  generalize (tag.setWidth 9) = ff at *
  simp only [ff0, ff1]
  simp [Instr.wf, checkSel, badClass, badUnused, badGroup, badOverlap, groupFits, Cls.ok] at hw ⊢
  all_goals simp_all [Instr.wf, checkSel, badClass, badUnused, badGroup, badOverlap, groupFits, Cls.ok]

theorem Sys2Proof.Laws.Fields.vtagr (h : Hdr) (d : GReg) (a : VReg) :
    Fields.Statement (.vtagr h d a) := by
  intro hw r hr
  cases hr
  rw [hdr_of_fields h _ rfl rfl, formOf_3A _ _ rfl]
  dsimp only [form3A, Raw.base]
  simp [Instr.wf, checkSel, badClass, badUnused, badGroup, badOverlap, groupFits, Cls.ok] at hw ⊢
  all_goals simp_all

theorem Sys2Proof.Laws.Fields.vquant (h : Hdr) (tag : BitVec 8) (d : VReg) (a : VReg) (b : VReg) (rm : BitVec 3) (chunk : BitVec 4) (j : BitVec 6) :
    Fields.Statement (.vquant h tag d a b rm chunk j) := by
  intro hw r hr
  cases hr
  rw [hdr_of_fields h _ rfl rfl, formOf_3B _ _ rfl]
  dsimp only [form3B, Raw.base]
  have mm0 := bits_104 rm chunk
  have mm1 := bits_105 rm chunk
  have mm2 := bits_106 rm chunk
  generalize ((rm.setWidth 8 <<< 0) ||| (chunk.setWidth 8 <<< 4)) = mm at *
  have jj0 := bits_30 j
  have jj1 := bits_31 j
  generalize ((j.setWidth 32 <<< 0)) = jj at *
  have ff0 := bits_10 tag
  have ff1 := bits_11 tag
  generalize (tag.setWidth 9) = ff at *
  simp only [mm0, mm1, mm2, jj0, jj1, ff0, ff1]
  simp [Instr.wf, checkSel, badClass, badUnused, badGroup, badOverlap, groupFits, Cls.ok] at hw ⊢
  all_goals simp_all [Instr.wf, checkSel, badClass, badUnused, badGroup, badOverlap, groupFits, Cls.ok]

theorem Sys2Proof.Laws.Fields.vdeq (h : Hdr) (d : VReg) (a : VReg) (b : VReg) (rm : BitVec 3) (chunk : BitVec 4) (j : BitVec 6) :
    Fields.Statement (.vdeq h d a b rm chunk j) := by
  intro hw r hr
  cases hr
  rw [hdr_of_fields h _ rfl rfl, formOf_3B _ _ rfl]
  dsimp only [form3B, Raw.base]
  have mm0 := bits_104 rm chunk
  have mm1 := bits_105 rm chunk
  have mm2 := bits_106 rm chunk
  generalize ((rm.setWidth 8 <<< 0) ||| (chunk.setWidth 8 <<< 4)) = mm at *
  have jj0 := bits_30 j
  have jj1 := bits_31 j
  generalize ((j.setWidth 32 <<< 0)) = jj at *
  simp only [mm0, mm1, mm2, jj0, jj1]
  simp [Instr.wf, checkSel, badClass, badUnused, badGroup, badOverlap, groupFits, Cls.ok] at hw ⊢
  all_goals simp_all

theorem Sys2Proof.Laws.Fields.vscl (h : Hdr) (tag : BitVec 8) (d : VReg) (a : VReg) (j : BitVec 6) :
    Fields.Statement (.vscl h tag d a j) := by
  intro hw r hr
  cases hr
  rw [hdr_of_fields h _ rfl rfl, formOf_3C _ _ rfl]
  dsimp only [form3C, Raw.base]
  have jj0 := bits_30 j
  have jj1 := bits_31 j
  generalize ((j.setWidth 32 <<< 0)) = jj at *
  have ff0 := bits_10 tag
  have ff1 := bits_11 tag
  generalize (tag.setWidth 9) = ff at *
  simp only [jj0, jj1, ff0, ff1]
  simp [Instr.wf, checkSel, badClass, badUnused, badGroup, badOverlap, groupFits, Cls.ok] at hw ⊢
  all_goals simp_all

theorem Sys2Proof.Laws.Fields.scvt (h : Hdr) (src : BitVec 3) (dt : BitVec 3) (d : GReg) (a : GReg) (rm : BitVec 3) :
    Fields.Statement (.scvt h src dt d a rm) := by
  intro hw r hr
  cases hr
  rw [hdr_of_fields h _ rfl rfl, formOf_3D _ _ rfl]
  dsimp only [form3D, Raw.base]
  have mm0 := bits_107 rm
  have mm1 := bits_108 rm
  generalize ((rm.setWidth 8 <<< 0)) = mm at *
  have ff0 := bits_109 src dt
  have ff1 := bits_110 src dt
  have ff2 := bits_111 src dt
  have ff3 := bits_112 src dt
  generalize ((0#2 ++ src ++ 0#1 ++ dt)) = ff at *
  simp only [mm0, mm1, ff0, ff1, ff2, ff3]
  simp [Instr.wf, checkSel, badClass, badUnused, badGroup, badOverlap, groupFits, Cls.ok] at hw ⊢
  all_goals simp_all

theorem Sys2Proof.Laws.Fields.vadd (h : Hdr) (code : BitVec 6) (d : VReg) (a : VReg) (b : VGSrc) (stm : Bool) (km : KReg) (z : Bool) :
    Fields.Statement (.vadd h code d a b stm km z) := by
  intro hw r hr
  cases hr
  rw [hdr_of_fields h _ rfl rfl, formOf_40 _ _ rfl]
  dsimp only [form40, Raw.base]
  have mm0 := bits_113 stm km z
  have mm1 := bits_114 stm km z
  have mm2 := bits_115 stm km z
  have mm3 := bits_116 stm km z
  generalize (bitAt 8 3 stm ||| (BitVec.ofNat 8 km.val <<< 4) ||| bitAt 8 7 z) = mm at *
  have ff0 := bits_117 code
  have ff1 := bits_118 code
  generalize ((0#3 ++ code)) = ff at *
  simp only [mm0, mm1, mm2, mm3, ff0, ff1]
  simp [Instr.wf, checkSel, badClass, badUnused, badGroup, badOverlap, groupFits, Cls.ok] at hw ⊢
  all_goals simp_all

theorem Sys2Proof.Laws.Fields.vsub (h : Hdr) (code : BitVec 6) (d : VReg) (a : VReg) (b : VGSrc) (stm : Bool) (km : KReg) (z : Bool) :
    Fields.Statement (.vsub h code d a b stm km z) := by
  intro hw r hr
  cases hr
  rw [hdr_of_fields h _ rfl rfl, formOf_40 _ _ rfl]
  dsimp only [form40, Raw.base]
  have mm0 := bits_113 stm km z
  have mm1 := bits_114 stm km z
  have mm2 := bits_115 stm km z
  have mm3 := bits_116 stm km z
  generalize (bitAt 8 3 stm ||| (BitVec.ofNat 8 km.val <<< 4) ||| bitAt 8 7 z) = mm at *
  have ff0 := bits_119 code
  have ff1 := bits_120 code
  have ff2 := bits_121 code
  generalize ((1#3 ++ code)) = ff at *
  simp only [mm0, mm1, mm2, mm3, ff0, ff1, ff2]
  simp [Instr.wf, checkSel, badClass, badUnused, badGroup, badOverlap, groupFits, Cls.ok] at hw ⊢
  all_goals simp_all

theorem Sys2Proof.Laws.Fields.vadds (h : Hdr) (code : BitVec 6) (d : VReg) (a : VReg) (b : VGSrc) (stm : Bool) (km : KReg) (z : Bool) :
    Fields.Statement (.vadds h code d a b stm km z) := by
  intro hw r hr
  cases hr
  rw [hdr_of_fields h _ rfl rfl, formOf_40 _ _ rfl]
  dsimp only [form40, Raw.base]
  have mm0 := bits_113 stm km z
  have mm1 := bits_114 stm km z
  have mm2 := bits_115 stm km z
  have mm3 := bits_116 stm km z
  generalize (bitAt 8 3 stm ||| (BitVec.ofNat 8 km.val <<< 4) ||| bitAt 8 7 z) = mm at *
  have ff0 := bits_122 code
  have ff1 := bits_123 code
  have ff2 := bits_124 code
  generalize ((2#3 ++ code)) = ff at *
  simp only [mm0, mm1, mm2, mm3, ff0, ff1, ff2]
  simp [Instr.wf, checkSel, badClass, badUnused, badGroup, badOverlap, groupFits, Cls.ok] at hw ⊢
  all_goals simp_all

theorem Sys2Proof.Laws.Fields.vsubs (h : Hdr) (code : BitVec 6) (d : VReg) (a : VReg) (b : VGSrc) (stm : Bool) (km : KReg) (z : Bool) :
    Fields.Statement (.vsubs h code d a b stm km z) := by
  intro hw r hr
  cases hr
  rw [hdr_of_fields h _ rfl rfl, formOf_40 _ _ rfl]
  dsimp only [form40, Raw.base]
  have mm0 := bits_113 stm km z
  have mm1 := bits_114 stm km z
  have mm2 := bits_115 stm km z
  have mm3 := bits_116 stm km z
  generalize (bitAt 8 3 stm ||| (BitVec.ofNat 8 km.val <<< 4) ||| bitAt 8 7 z) = mm at *
  have ff0 := bits_125 code
  have ff1 := bits_126 code
  have ff2 := bits_127 code
  generalize ((3#3 ++ code)) = ff at *
  simp only [mm0, mm1, mm2, mm3, ff0, ff1, ff2]
  simp [Instr.wf, checkSel, badClass, badUnused, badGroup, badOverlap, groupFits, Cls.ok] at hw ⊢
  all_goals simp_all

theorem Sys2Proof.Laws.Fields.vabs (h : Hdr) (code : BitVec 6) (d : VReg) (a : VReg) (stm : Bool) (km : KReg) (z : Bool) :
    Fields.Statement (.vabs h code d a stm km z) := by
  intro hw r hr
  cases hr
  rw [hdr_of_fields h _ rfl rfl, formOf_40 _ _ rfl]
  dsimp only [form40, Raw.base]
  have mm0 := bits_113 stm km z
  have mm1 := bits_114 stm km z
  have mm2 := bits_115 stm km z
  have mm3 := bits_116 stm km z
  generalize (bitAt 8 3 stm ||| (BitVec.ofNat 8 km.val <<< 4) ||| bitAt 8 7 z) = mm at *
  have ff0 := bits_128 code
  have ff1 := bits_129 code
  have ff2 := bits_130 code
  generalize ((4#3 ++ code)) = ff at *
  simp only [mm0, mm1, mm2, mm3, ff0, ff1, ff2]
  simp [Instr.wf, checkSel, badClass, badUnused, badGroup, badOverlap, groupFits, Cls.ok] at hw ⊢
  all_goals simp_all

theorem Sys2Proof.Laws.Fields.vmul (h : Hdr) (code : BitVec 6) (d : VReg) (a : VReg) (b : VGSrc) (stm : Bool) (km : KReg) (z : Bool) :
    Fields.Statement (.vmul h code d a b stm km z) := by
  intro hw r hr
  cases hr
  rw [hdr_of_fields h _ rfl rfl, formOf_41 _ _ rfl]
  dsimp only [form41, Raw.base]
  have mm0 := bits_113 stm km z
  have mm1 := bits_114 stm km z
  have mm2 := bits_115 stm km z
  have mm3 := bits_116 stm km z
  generalize (bitAt 8 3 stm ||| (BitVec.ofNat 8 km.val <<< 4) ||| bitAt 8 7 z) = mm at *
  have ff0 := bits_117 code
  have ff1 := bits_118 code
  generalize ((0#3 ++ code)) = ff at *
  simp only [mm0, mm1, mm2, mm3, ff0, ff1]
  simp [Instr.wf, checkSel, badClass, badUnused, badGroup, badOverlap, groupFits, Cls.ok] at hw ⊢
  all_goals simp_all

theorem Sys2Proof.Laws.Fields.vmulh (h : Hdr) (code : BitVec 6) (d : VReg) (a : VReg) (b : VGSrc) (stm : Bool) (km : KReg) (z : Bool) :
    Fields.Statement (.vmulh h code d a b stm km z) := by
  intro hw r hr
  cases hr
  rw [hdr_of_fields h _ rfl rfl, formOf_41 _ _ rfl]
  dsimp only [form41, Raw.base]
  have mm0 := bits_113 stm km z
  have mm1 := bits_114 stm km z
  have mm2 := bits_115 stm km z
  have mm3 := bits_116 stm km z
  generalize (bitAt 8 3 stm ||| (BitVec.ofNat 8 km.val <<< 4) ||| bitAt 8 7 z) = mm at *
  have ff0 := bits_119 code
  have ff1 := bits_120 code
  have ff2 := bits_121 code
  generalize ((1#3 ++ code)) = ff at *
  simp only [mm0, mm1, mm2, mm3, ff0, ff1, ff2]
  simp [Instr.wf, checkSel, badClass, badUnused, badGroup, badOverlap, groupFits, Cls.ok] at hw ⊢
  all_goals simp_all

theorem Sys2Proof.Laws.Fields.vmulhn (h : Hdr) (code : BitVec 6) (d : VReg) (a : VReg) (b : VGSrc) (stm : Bool) (km : KReg) (z : Bool) :
    Fields.Statement (.vmulhn h code d a b stm km z) := by
  intro hw r hr
  cases hr
  rw [hdr_of_fields h _ rfl rfl, formOf_41 _ _ rfl]
  dsimp only [form41, Raw.base]
  have mm0 := bits_113 stm km z
  have mm1 := bits_114 stm km z
  have mm2 := bits_115 stm km z
  have mm3 := bits_116 stm km z
  generalize (bitAt 8 3 stm ||| (BitVec.ofNat 8 km.val <<< 4) ||| bitAt 8 7 z) = mm at *
  have ff0 := bits_122 code
  have ff1 := bits_123 code
  have ff2 := bits_124 code
  generalize ((2#3 ++ code)) = ff at *
  simp only [mm0, mm1, mm2, mm3, ff0, ff1, ff2]
  simp [Instr.wf, checkSel, badClass, badUnused, badGroup, badOverlap, groupFits, Cls.ok] at hw ⊢
  all_goals simp_all

theorem Sys2Proof.Laws.Fields.vmin (h : Hdr) (code : BitVec 6) (d : VReg) (a : VReg) (b : VGSrc) (stm : Bool) (km : KReg) (z : Bool) :
    Fields.Statement (.vmin h code d a b stm km z) := by
  intro hw r hr
  cases hr
  rw [hdr_of_fields h _ rfl rfl, formOf_42 _ _ rfl]
  dsimp only [form42, Raw.base]
  have mm0 := bits_113 stm km z
  have mm1 := bits_114 stm km z
  have mm2 := bits_115 stm km z
  have mm3 := bits_116 stm km z
  generalize (bitAt 8 3 stm ||| (BitVec.ofNat 8 km.val <<< 4) ||| bitAt 8 7 z) = mm at *
  have ff0 := bits_117 code
  have ff1 := bits_118 code
  generalize ((0#3 ++ code)) = ff at *
  simp only [mm0, mm1, mm2, mm3, ff0, ff1]
  simp [Instr.wf, checkSel, badClass, badUnused, badGroup, badOverlap, groupFits, Cls.ok] at hw ⊢
  all_goals simp_all

theorem Sys2Proof.Laws.Fields.vminn (h : Hdr) (code : BitVec 6) (d : VReg) (a : VReg) (b : VGSrc) (stm : Bool) (km : KReg) (z : Bool) :
    Fields.Statement (.vminn h code d a b stm km z) := by
  intro hw r hr
  cases hr
  rw [hdr_of_fields h _ rfl rfl, formOf_42 _ _ rfl]
  dsimp only [form42, Raw.base]
  have mm0 := bits_113 stm km z
  have mm1 := bits_114 stm km z
  have mm2 := bits_115 stm km z
  have mm3 := bits_116 stm km z
  generalize (bitAt 8 3 stm ||| (BitVec.ofNat 8 km.val <<< 4) ||| bitAt 8 7 z) = mm at *
  have ff0 := bits_119 code
  have ff1 := bits_120 code
  have ff2 := bits_121 code
  generalize ((1#3 ++ code)) = ff at *
  simp only [mm0, mm1, mm2, mm3, ff0, ff1, ff2]
  simp [Instr.wf, checkSel, badClass, badUnused, badGroup, badOverlap, groupFits, Cls.ok] at hw ⊢
  all_goals simp_all

theorem Sys2Proof.Laws.Fields.vmax (h : Hdr) (code : BitVec 6) (d : VReg) (a : VReg) (b : VGSrc) (stm : Bool) (km : KReg) (z : Bool) :
    Fields.Statement (.vmax h code d a b stm km z) := by
  intro hw r hr
  cases hr
  rw [hdr_of_fields h _ rfl rfl, formOf_42 _ _ rfl]
  dsimp only [form42, Raw.base]
  have mm0 := bits_113 stm km z
  have mm1 := bits_114 stm km z
  have mm2 := bits_115 stm km z
  have mm3 := bits_116 stm km z
  generalize (bitAt 8 3 stm ||| (BitVec.ofNat 8 km.val <<< 4) ||| bitAt 8 7 z) = mm at *
  have ff0 := bits_122 code
  have ff1 := bits_123 code
  have ff2 := bits_124 code
  generalize ((2#3 ++ code)) = ff at *
  simp only [mm0, mm1, mm2, mm3, ff0, ff1, ff2]
  simp [Instr.wf, checkSel, badClass, badUnused, badGroup, badOverlap, groupFits, Cls.ok] at hw ⊢
  all_goals simp_all

theorem Sys2Proof.Laws.Fields.vmaxn (h : Hdr) (code : BitVec 6) (d : VReg) (a : VReg) (b : VGSrc) (stm : Bool) (km : KReg) (z : Bool) :
    Fields.Statement (.vmaxn h code d a b stm km z) := by
  intro hw r hr
  cases hr
  rw [hdr_of_fields h _ rfl rfl, formOf_42 _ _ rfl]
  dsimp only [form42, Raw.base]
  have mm0 := bits_113 stm km z
  have mm1 := bits_114 stm km z
  have mm2 := bits_115 stm km z
  have mm3 := bits_116 stm km z
  generalize (bitAt 8 3 stm ||| (BitVec.ofNat 8 km.val <<< 4) ||| bitAt 8 7 z) = mm at *
  have ff0 := bits_125 code
  have ff1 := bits_126 code
  have ff2 := bits_127 code
  generalize ((3#3 ++ code)) = ff at *
  simp only [mm0, mm1, mm2, mm3, ff0, ff1, ff2]
  simp [Instr.wf, checkSel, badClass, badUnused, badGroup, badOverlap, groupFits, Cls.ok] at hw ⊢
  all_goals simp_all

theorem Sys2Proof.Laws.Fields.vfadd (h : Hdr) (code : BitVec 6) (d : VReg) (a : VReg) (b : VGSrc) (rm : BitVec 3) (stm : Bool) (km : KReg) (z : Bool) :
    Fields.Statement (.vfadd h code d a b rm stm km z) := by
  intro hw r hr
  cases hr
  rw [hdr_of_fields h _ rfl rfl, formOf_43 _ _ rfl]
  dsimp only [form43, Raw.base]
  have mm0 := bits_131 rm stm km z
  have mm1 := bits_132 rm stm km z
  have mm2 := bits_133 rm stm km z
  have mm3 := bits_134 rm stm km z
  generalize ((rm.setWidth 8 <<< 0) ||| bitAt 8 3 stm ||| (BitVec.ofNat 8 km.val <<< 4) ||| bitAt 8 7 z) = mm at *
  have ff0 := bits_117 code
  have ff1 := bits_118 code
  generalize ((0#3 ++ code)) = ff at *
  simp only [mm0, mm1, mm2, mm3, ff0, ff1]
  simp [Instr.wf, checkSel, badClass, badUnused, badGroup, badOverlap, groupFits, Cls.ok] at hw ⊢
  all_goals simp_all

theorem Sys2Proof.Laws.Fields.vfsub (h : Hdr) (code : BitVec 6) (d : VReg) (a : VReg) (b : VGSrc) (rm : BitVec 3) (stm : Bool) (km : KReg) (z : Bool) :
    Fields.Statement (.vfsub h code d a b rm stm km z) := by
  intro hw r hr
  cases hr
  rw [hdr_of_fields h _ rfl rfl, formOf_43 _ _ rfl]
  dsimp only [form43, Raw.base]
  have mm0 := bits_131 rm stm km z
  have mm1 := bits_132 rm stm km z
  have mm2 := bits_133 rm stm km z
  have mm3 := bits_134 rm stm km z
  generalize ((rm.setWidth 8 <<< 0) ||| bitAt 8 3 stm ||| (BitVec.ofNat 8 km.val <<< 4) ||| bitAt 8 7 z) = mm at *
  have ff0 := bits_119 code
  have ff1 := bits_120 code
  have ff2 := bits_121 code
  generalize ((1#3 ++ code)) = ff at *
  simp only [mm0, mm1, mm2, mm3, ff0, ff1, ff2]
  simp [Instr.wf, checkSel, badClass, badUnused, badGroup, badOverlap, groupFits, Cls.ok] at hw ⊢
  all_goals simp_all

theorem Sys2Proof.Laws.Fields.vfmul (h : Hdr) (code : BitVec 6) (d : VReg) (a : VReg) (b : VGSrc) (rm : BitVec 3) (stm : Bool) (km : KReg) (z : Bool) :
    Fields.Statement (.vfmul h code d a b rm stm km z) := by
  intro hw r hr
  cases hr
  rw [hdr_of_fields h _ rfl rfl, formOf_44 _ _ rfl]
  dsimp only [form44, Raw.base]
  have mm0 := bits_131 rm stm km z
  have mm1 := bits_132 rm stm km z
  have mm2 := bits_133 rm stm km z
  have mm3 := bits_134 rm stm km z
  generalize ((rm.setWidth 8 <<< 0) ||| bitAt 8 3 stm ||| (BitVec.ofNat 8 km.val <<< 4) ||| bitAt 8 7 z) = mm at *
  have ff0 := bits_117 code
  have ff1 := bits_118 code
  generalize ((0#3 ++ code)) = ff at *
  simp only [mm0, mm1, mm2, mm3, ff0, ff1]
  simp [Instr.wf, checkSel, badClass, badUnused, badGroup, badOverlap, groupFits, Cls.ok] at hw ⊢
  all_goals simp_all

theorem Sys2Proof.Laws.Fields.vfdiv (h : Hdr) (code : BitVec 6) (d : VReg) (a : VReg) (b : VGSrc) (rm : BitVec 3) (stm : Bool) (km : KReg) (z : Bool) :
    Fields.Statement (.vfdiv h code d a b rm stm km z) := by
  intro hw r hr
  cases hr
  rw [hdr_of_fields h _ rfl rfl, formOf_44 _ _ rfl]
  dsimp only [form44, Raw.base]
  have mm0 := bits_131 rm stm km z
  have mm1 := bits_132 rm stm km z
  have mm2 := bits_133 rm stm km z
  have mm3 := bits_134 rm stm km z
  generalize ((rm.setWidth 8 <<< 0) ||| bitAt 8 3 stm ||| (BitVec.ofNat 8 km.val <<< 4) ||| bitAt 8 7 z) = mm at *
  have ff0 := bits_119 code
  have ff1 := bits_120 code
  have ff2 := bits_121 code
  generalize ((1#3 ++ code)) = ff at *
  simp only [mm0, mm1, mm2, mm3, ff0, ff1, ff2]
  simp [Instr.wf, checkSel, badClass, badUnused, badGroup, badOverlap, groupFits, Cls.ok] at hw ⊢
  all_goals simp_all

theorem Sys2Proof.Laws.Fields.vfma (h : Hdr) (code : BitVec 6) (d : VReg) (a : VReg) (b : VGSrc) (rm : BitVec 3) (stm : Bool) (km : KReg) (z : Bool) :
    Fields.Statement (.vfma h code d a b rm stm km z) := by
  intro hw r hr
  cases hr
  rw [hdr_of_fields h _ rfl rfl, formOf_45 _ _ rfl]
  dsimp only [form45, Raw.base]
  have mm0 := bits_131 rm stm km z
  have mm1 := bits_132 rm stm km z
  have mm2 := bits_133 rm stm km z
  have mm3 := bits_134 rm stm km z
  generalize ((rm.setWidth 8 <<< 0) ||| bitAt 8 3 stm ||| (BitVec.ofNat 8 km.val <<< 4) ||| bitAt 8 7 z) = mm at *
  have ff0 := bits_117 code
  have ff1 := bits_118 code
  generalize ((0#3 ++ code)) = ff at *
  simp only [mm0, mm1, mm2, mm3, ff0, ff1]
  simp [Instr.wf, checkSel, badClass, badUnused, badGroup, badOverlap, groupFits, Cls.ok] at hw ⊢
  all_goals simp_all

theorem Sys2Proof.Laws.Fields.vfms (h : Hdr) (code : BitVec 6) (d : VReg) (a : VReg) (b : VGSrc) (rm : BitVec 3) (stm : Bool) (km : KReg) (z : Bool) :
    Fields.Statement (.vfms h code d a b rm stm km z) := by
  intro hw r hr
  cases hr
  rw [hdr_of_fields h _ rfl rfl, formOf_45 _ _ rfl]
  dsimp only [form45, Raw.base]
  have mm0 := bits_131 rm stm km z
  have mm1 := bits_132 rm stm km z
  have mm2 := bits_133 rm stm km z
  have mm3 := bits_134 rm stm km z
  generalize ((rm.setWidth 8 <<< 0) ||| bitAt 8 3 stm ||| (BitVec.ofNat 8 km.val <<< 4) ||| bitAt 8 7 z) = mm at *
  have ff0 := bits_119 code
  have ff1 := bits_120 code
  have ff2 := bits_121 code
  generalize ((1#3 ++ code)) = ff at *
  simp only [mm0, mm1, mm2, mm3, ff0, ff1, ff2]
  simp [Instr.wf, checkSel, badClass, badUnused, badGroup, badOverlap, groupFits, Cls.ok] at hw ⊢
  all_goals simp_all

theorem Sys2Proof.Laws.Fields.vfnma (h : Hdr) (code : BitVec 6) (d : VReg) (a : VReg) (b : VGSrc) (rm : BitVec 3) (stm : Bool) (km : KReg) (z : Bool) :
    Fields.Statement (.vfnma h code d a b rm stm km z) := by
  intro hw r hr
  cases hr
  rw [hdr_of_fields h _ rfl rfl, formOf_45 _ _ rfl]
  dsimp only [form45, Raw.base]
  have mm0 := bits_131 rm stm km z
  have mm1 := bits_132 rm stm km z
  have mm2 := bits_133 rm stm km z
  have mm3 := bits_134 rm stm km z
  generalize ((rm.setWidth 8 <<< 0) ||| bitAt 8 3 stm ||| (BitVec.ofNat 8 km.val <<< 4) ||| bitAt 8 7 z) = mm at *
  have ff0 := bits_122 code
  have ff1 := bits_123 code
  have ff2 := bits_124 code
  generalize ((2#3 ++ code)) = ff at *
  simp only [mm0, mm1, mm2, mm3, ff0, ff1, ff2]
  simp [Instr.wf, checkSel, badClass, badUnused, badGroup, badOverlap, groupFits, Cls.ok] at hw ⊢
  all_goals simp_all

theorem Sys2Proof.Laws.Fields.vfnms (h : Hdr) (code : BitVec 6) (d : VReg) (a : VReg) (b : VGSrc) (rm : BitVec 3) (stm : Bool) (km : KReg) (z : Bool) :
    Fields.Statement (.vfnms h code d a b rm stm km z) := by
  intro hw r hr
  cases hr
  rw [hdr_of_fields h _ rfl rfl, formOf_45 _ _ rfl]
  dsimp only [form45, Raw.base]
  have mm0 := bits_131 rm stm km z
  have mm1 := bits_132 rm stm km z
  have mm2 := bits_133 rm stm km z
  have mm3 := bits_134 rm stm km z
  generalize ((rm.setWidth 8 <<< 0) ||| bitAt 8 3 stm ||| (BitVec.ofNat 8 km.val <<< 4) ||| bitAt 8 7 z) = mm at *
  have ff0 := bits_125 code
  have ff1 := bits_126 code
  have ff2 := bits_127 code
  generalize ((3#3 ++ code)) = ff at *
  simp only [mm0, mm1, mm2, mm3, ff0, ff1, ff2]
  simp [Instr.wf, checkSel, badClass, badUnused, badGroup, badOverlap, groupFits, Cls.ok] at hw ⊢
  all_goals simp_all

theorem Sys2Proof.Laws.Fields.vfmin (h : Hdr) (code : BitVec 6) (d : VReg) (a : VReg) (b : VGSrc) (stm : Bool) (km : KReg) (z : Bool) :
    Fields.Statement (.vfmin h code d a b stm km z) := by
  intro hw r hr
  cases hr
  rw [hdr_of_fields h _ rfl rfl, formOf_46 _ _ rfl]
  dsimp only [form46, Raw.base]
  have mm0 := bits_113 stm km z
  have mm1 := bits_114 stm km z
  have mm2 := bits_115 stm km z
  have mm3 := bits_116 stm km z
  generalize (bitAt 8 3 stm ||| (BitVec.ofNat 8 km.val <<< 4) ||| bitAt 8 7 z) = mm at *
  have ff0 := bits_117 code
  have ff1 := bits_118 code
  generalize ((0#3 ++ code)) = ff at *
  simp only [mm0, mm1, mm2, mm3, ff0, ff1]
  simp [Instr.wf, checkSel, badClass, badUnused, badGroup, badOverlap, groupFits, Cls.ok] at hw ⊢
  all_goals simp_all

theorem Sys2Proof.Laws.Fields.vfmax (h : Hdr) (code : BitVec 6) (d : VReg) (a : VReg) (b : VGSrc) (stm : Bool) (km : KReg) (z : Bool) :
    Fields.Statement (.vfmax h code d a b stm km z) := by
  intro hw r hr
  cases hr
  rw [hdr_of_fields h _ rfl rfl, formOf_46 _ _ rfl]
  dsimp only [form46, Raw.base]
  have mm0 := bits_113 stm km z
  have mm1 := bits_114 stm km z
  have mm2 := bits_115 stm km z
  have mm3 := bits_116 stm km z
  generalize (bitAt 8 3 stm ||| (BitVec.ofNat 8 km.val <<< 4) ||| bitAt 8 7 z) = mm at *
  have ff0 := bits_119 code
  have ff1 := bits_120 code
  have ff2 := bits_121 code
  generalize ((1#3 ++ code)) = ff at *
  simp only [mm0, mm1, mm2, mm3, ff0, ff1, ff2]
  simp [Instr.wf, checkSel, badClass, badUnused, badGroup, badOverlap, groupFits, Cls.ok] at hw ⊢
  all_goals simp_all

theorem Sys2Proof.Laws.Fields.vfabs (h : Hdr) (code : BitVec 6) (d : VReg) (a : VReg) (stm : Bool) (km : KReg) (z : Bool) :
    Fields.Statement (.vfabs h code d a stm km z) := by
  intro hw r hr
  cases hr
  rw [hdr_of_fields h _ rfl rfl, formOf_46 _ _ rfl]
  dsimp only [form46, Raw.base]
  have mm0 := bits_113 stm km z
  have mm1 := bits_114 stm km z
  have mm2 := bits_115 stm km z
  have mm3 := bits_116 stm km z
  generalize (bitAt 8 3 stm ||| (BitVec.ofNat 8 km.val <<< 4) ||| bitAt 8 7 z) = mm at *
  have ff0 := bits_122 code
  have ff1 := bits_123 code
  have ff2 := bits_124 code
  generalize ((2#3 ++ code)) = ff at *
  simp only [mm0, mm1, mm2, mm3, ff0, ff1, ff2]
  simp [Instr.wf, checkSel, badClass, badUnused, badGroup, badOverlap, groupFits, Cls.ok] at hw ⊢
  all_goals simp_all

theorem Sys2Proof.Laws.Fields.vfneg (h : Hdr) (code : BitVec 6) (d : VReg) (a : VReg) (stm : Bool) (km : KReg) (z : Bool) :
    Fields.Statement (.vfneg h code d a stm km z) := by
  intro hw r hr
  cases hr
  rw [hdr_of_fields h _ rfl rfl, formOf_46 _ _ rfl]
  dsimp only [form46, Raw.base]
  have mm0 := bits_113 stm km z
  have mm1 := bits_114 stm km z
  have mm2 := bits_115 stm km z
  have mm3 := bits_116 stm km z
  generalize (bitAt 8 3 stm ||| (BitVec.ofNat 8 km.val <<< 4) ||| bitAt 8 7 z) = mm at *
  have ff0 := bits_125 code
  have ff1 := bits_126 code
  have ff2 := bits_127 code
  generalize ((3#3 ++ code)) = ff at *
  simp only [mm0, mm1, mm2, mm3, ff0, ff1, ff2]
  simp [Instr.wf, checkSel, badClass, badUnused, badGroup, badOverlap, groupFits, Cls.ok] at hw ⊢
  all_goals simp_all

theorem Sys2Proof.Laws.Fields.vrcp (h : Hdr) (code : BitVec 6) (d : VReg) (a : VReg) (stm : Bool) (km : KReg) (z : Bool) :
    Fields.Statement (.vrcp h code d a stm km z) := by
  intro hw r hr
  cases hr
  rw [hdr_of_fields h _ rfl rfl, formOf_47 _ _ rfl]
  dsimp only [form47, Raw.base]
  have mm0 := bits_113 stm km z
  have mm1 := bits_114 stm km z
  have mm2 := bits_115 stm km z
  have mm3 := bits_116 stm km z
  generalize (bitAt 8 3 stm ||| (BitVec.ofNat 8 km.val <<< 4) ||| bitAt 8 7 z) = mm at *
  have ff0 := bits_117 code
  have ff1 := bits_118 code
  generalize ((0#3 ++ code)) = ff at *
  simp only [mm0, mm1, mm2, mm3, ff0, ff1]
  simp [Instr.wf, checkSel, badClass, badUnused, badGroup, badOverlap, groupFits, Cls.ok] at hw ⊢
  all_goals simp_all

theorem Sys2Proof.Laws.Fields.vrsq (h : Hdr) (code : BitVec 6) (d : VReg) (a : VReg) (stm : Bool) (km : KReg) (z : Bool) :
    Fields.Statement (.vrsq h code d a stm km z) := by
  intro hw r hr
  cases hr
  rw [hdr_of_fields h _ rfl rfl, formOf_47 _ _ rfl]
  dsimp only [form47, Raw.base]
  have mm0 := bits_113 stm km z
  have mm1 := bits_114 stm km z
  have mm2 := bits_115 stm km z
  have mm3 := bits_116 stm km z
  generalize (bitAt 8 3 stm ||| (BitVec.ofNat 8 km.val <<< 4) ||| bitAt 8 7 z) = mm at *
  have ff0 := bits_119 code
  have ff1 := bits_120 code
  have ff2 := bits_121 code
  generalize ((1#3 ++ code)) = ff at *
  simp only [mm0, mm1, mm2, mm3, ff0, ff1, ff2]
  simp [Instr.wf, checkSel, badClass, badUnused, badGroup, badOverlap, groupFits, Cls.ok] at hw ⊢
  all_goals simp_all

theorem Sys2Proof.Laws.Fields.vsqrt (h : Hdr) (code : BitVec 6) (d : VReg) (a : VReg) (rm : BitVec 3) (stm : Bool) (km : KReg) (z : Bool) :
    Fields.Statement (.vsqrt h code d a rm stm km z) := by
  intro hw r hr
  cases hr
  rw [hdr_of_fields h _ rfl rfl, formOf_47 _ _ rfl]
  dsimp only [form47, Raw.base]
  have mm0 := bits_131 rm stm km z
  have mm1 := bits_132 rm stm km z
  have mm2 := bits_133 rm stm km z
  have mm3 := bits_134 rm stm km z
  generalize ((rm.setWidth 8 <<< 0) ||| bitAt 8 3 stm ||| (BitVec.ofNat 8 km.val <<< 4) ||| bitAt 8 7 z) = mm at *
  have ff0 := bits_122 code
  have ff1 := bits_123 code
  have ff2 := bits_124 code
  generalize ((2#3 ++ code)) = ff at *
  simp only [mm0, mm1, mm2, mm3, ff0, ff1, ff2]
  simp [Instr.wf, checkSel, badClass, badUnused, badGroup, badOverlap, groupFits, Cls.ok] at hw ⊢
  all_goals simp_all

theorem Sys2Proof.Laws.Fields.vexp2 (h : Hdr) (code : BitVec 6) (d : VReg) (a : VReg) (stm : Bool) (km : KReg) (z : Bool) :
    Fields.Statement (.vexp2 h code d a stm km z) := by
  intro hw r hr
  cases hr
  rw [hdr_of_fields h _ rfl rfl, formOf_47 _ _ rfl]
  dsimp only [form47, Raw.base]
  have mm0 := bits_113 stm km z
  have mm1 := bits_114 stm km z
  have mm2 := bits_115 stm km z
  have mm3 := bits_116 stm km z
  generalize (bitAt 8 3 stm ||| (BitVec.ofNat 8 km.val <<< 4) ||| bitAt 8 7 z) = mm at *
  have ff0 := bits_125 code
  have ff1 := bits_126 code
  have ff2 := bits_127 code
  generalize ((3#3 ++ code)) = ff at *
  simp only [mm0, mm1, mm2, mm3, ff0, ff1, ff2]
  simp [Instr.wf, checkSel, badClass, badUnused, badGroup, badOverlap, groupFits, Cls.ok] at hw ⊢
  all_goals simp_all

theorem Sys2Proof.Laws.Fields.vlog2 (h : Hdr) (code : BitVec 6) (d : VReg) (a : VReg) (stm : Bool) (km : KReg) (z : Bool) :
    Fields.Statement (.vlog2 h code d a stm km z) := by
  intro hw r hr
  cases hr
  rw [hdr_of_fields h _ rfl rfl, formOf_47 _ _ rfl]
  dsimp only [form47, Raw.base]
  have mm0 := bits_113 stm km z
  have mm1 := bits_114 stm km z
  have mm2 := bits_115 stm km z
  have mm3 := bits_116 stm km z
  generalize (bitAt 8 3 stm ||| (BitVec.ofNat 8 km.val <<< 4) ||| bitAt 8 7 z) = mm at *
  have ff0 := bits_128 code
  have ff1 := bits_129 code
  have ff2 := bits_130 code
  generalize ((4#3 ++ code)) = ff at *
  simp only [mm0, mm1, mm2, mm3, ff0, ff1, ff2]
  simp [Instr.wf, checkSel, badClass, badUnused, badGroup, badOverlap, groupFits, Cls.ok] at hw ⊢
  all_goals simp_all

theorem Sys2Proof.Laws.Fields.vcmp (h : Hdr) (code : BitVec 6) (d : KReg) (a : VReg) (b : VGSrc) (cc : BitVec 3) (stm : Bool) (km : KReg) (z : Bool) :
    Fields.Statement (.vcmp h code d a b cc stm km z) := by
  intro hw r hr
  cases hr
  rw [hdr_of_fields h _ rfl rfl, formOf_48 _ _ rfl]
  dsimp only [form48, Raw.base]
  have mm0 := bits_131 cc stm km z
  have mm1 := bits_132 cc stm km z
  have mm2 := bits_133 cc stm km z
  have mm3 := bits_134 cc stm km z
  generalize ((cc.setWidth 8 <<< 0) ||| bitAt 8 3 stm ||| (BitVec.ofNat 8 km.val <<< 4) ||| bitAt 8 7 z) = mm at *
  have ff0 := bits_117 code
  have ff1 := bits_118 code
  generalize ((0#3 ++ code)) = ff at *
  simp only [mm0, mm1, mm2, mm3, ff0, ff1]
  simp [Instr.wf, checkSel, badClass, badUnused, badGroup, badOverlap, groupFits, Cls.ok] at hw ⊢
  all_goals simp_all

theorem Sys2Proof.Laws.Fields.vfcmp (h : Hdr) (code : BitVec 6) (d : KReg) (a : VReg) (b : VGSrc) (cc : BitVec 3) (stm : Bool) (km : KReg) (z : Bool) :
    Fields.Statement (.vfcmp h code d a b cc stm km z) := by
  intro hw r hr
  cases hr
  rw [hdr_of_fields h _ rfl rfl, formOf_49 _ _ rfl]
  dsimp only [form49, Raw.base]
  have mm0 := bits_131 cc stm km z
  have mm1 := bits_132 cc stm km z
  have mm2 := bits_133 cc stm km z
  have mm3 := bits_134 cc stm km z
  generalize ((cc.setWidth 8 <<< 0) ||| bitAt 8 3 stm ||| (BitVec.ofNat 8 km.val <<< 4) ||| bitAt 8 7 z) = mm at *
  have ff0 := bits_117 code
  have ff1 := bits_118 code
  generalize ((0#3 ++ code)) = ff at *
  simp only [mm0, mm1, mm2, mm3, ff0, ff1]
  simp [Instr.wf, checkSel, badClass, badUnused, badGroup, badOverlap, groupFits, Cls.ok] at hw ⊢
  all_goals simp_all

theorem Sys2Proof.Laws.Fields.vfclass (h : Hdr) (code : BitVec 6) (d : VReg) (a : VReg) (stm : Bool) (km : KReg) (z : Bool) :
    Fields.Statement (.vfclass h code d a stm km z) := by
  intro hw r hr
  cases hr
  rw [hdr_of_fields h _ rfl rfl, formOf_49 _ _ rfl]
  dsimp only [form49, Raw.base]
  have mm0 := bits_113 stm km z
  have mm1 := bits_114 stm km z
  have mm2 := bits_115 stm km z
  have mm3 := bits_116 stm km z
  generalize (bitAt 8 3 stm ||| (BitVec.ofNat 8 km.val <<< 4) ||| bitAt 8 7 z) = mm at *
  have ff0 := bits_119 code
  have ff1 := bits_120 code
  have ff2 := bits_121 code
  generalize ((1#3 ++ code)) = ff at *
  simp only [mm0, mm1, mm2, mm3, ff0, ff1, ff2]
  simp [Instr.wf, checkSel, badClass, badUnused, badGroup, badOverlap, groupFits, Cls.ok] at hw ⊢
  all_goals simp_all

theorem Sys2Proof.Laws.Fields.vsel (h : Hdr) (code : BitVec 6) (d : VReg) (a : VReg) (b : VReg) (stm : Bool) (km : KReg) :
    Fields.Statement (.vsel h code d a b stm km) := by
  intro hw r hr
  cases hr
  rw [hdr_of_fields h _ rfl rfl, formOf_4A _ _ rfl]
  dsimp only [form4A, Raw.base]
  have mm0 := bits_135 stm km
  have mm1 := bits_136 stm km
  have mm2 := bits_137 stm km
  generalize (bitAt 8 3 stm ||| (BitVec.ofNat 8 km.val <<< 4)) = mm at *
  have ff0 := bits_117 code
  have ff1 := bits_118 code
  generalize ((0#3 ++ code)) = ff at *
  simp only [mm0, mm1, mm2, ff0, ff1]
  simp [Instr.wf, checkSel, badClass, badUnused, badGroup, badOverlap, groupFits, Cls.ok] at hw ⊢
  all_goals simp_all

theorem Sys2Proof.Laws.Fields.vand (h : Hdr) (code : BitVec 6) (d : VReg) (a : VReg) (b : VGSrc) (stm : Bool) (km : KReg) (z : Bool) :
    Fields.Statement (.vand h code d a b stm km z) := by
  intro hw r hr
  cases hr
  rw [hdr_of_fields h _ rfl rfl, formOf_4B _ _ rfl]
  dsimp only [form4B, Raw.base]
  have mm0 := bits_113 stm km z
  have mm1 := bits_114 stm km z
  have mm2 := bits_115 stm km z
  have mm3 := bits_116 stm km z
  generalize (bitAt 8 3 stm ||| (BitVec.ofNat 8 km.val <<< 4) ||| bitAt 8 7 z) = mm at *
  have ff0 := bits_117 code
  have ff1 := bits_118 code
  generalize ((0#3 ++ code)) = ff at *
  simp only [mm0, mm1, mm2, mm3, ff0, ff1]
  simp [Instr.wf, checkSel, badClass, badUnused, badGroup, badOverlap, groupFits, Cls.ok] at hw ⊢
  all_goals simp_all

theorem Sys2Proof.Laws.Fields.vor (h : Hdr) (code : BitVec 6) (d : VReg) (a : VReg) (b : VGSrc) (stm : Bool) (km : KReg) (z : Bool) :
    Fields.Statement (.vor h code d a b stm km z) := by
  intro hw r hr
  cases hr
  rw [hdr_of_fields h _ rfl rfl, formOf_4B _ _ rfl]
  dsimp only [form4B, Raw.base]
  have mm0 := bits_113 stm km z
  have mm1 := bits_114 stm km z
  have mm2 := bits_115 stm km z
  have mm3 := bits_116 stm km z
  generalize (bitAt 8 3 stm ||| (BitVec.ofNat 8 km.val <<< 4) ||| bitAt 8 7 z) = mm at *
  have ff0 := bits_119 code
  have ff1 := bits_120 code
  have ff2 := bits_121 code
  generalize ((1#3 ++ code)) = ff at *
  simp only [mm0, mm1, mm2, mm3, ff0, ff1, ff2]
  simp [Instr.wf, checkSel, badClass, badUnused, badGroup, badOverlap, groupFits, Cls.ok] at hw ⊢
  all_goals simp_all

theorem Sys2Proof.Laws.Fields.vxor (h : Hdr) (code : BitVec 6) (d : VReg) (a : VReg) (b : VGSrc) (stm : Bool) (km : KReg) (z : Bool) :
    Fields.Statement (.vxor h code d a b stm km z) := by
  intro hw r hr
  cases hr
  rw [hdr_of_fields h _ rfl rfl, formOf_4B _ _ rfl]
  dsimp only [form4B, Raw.base]
  have mm0 := bits_113 stm km z
  have mm1 := bits_114 stm km z
  have mm2 := bits_115 stm km z
  have mm3 := bits_116 stm km z
  generalize (bitAt 8 3 stm ||| (BitVec.ofNat 8 km.val <<< 4) ||| bitAt 8 7 z) = mm at *
  have ff0 := bits_122 code
  have ff1 := bits_123 code
  have ff2 := bits_124 code
  generalize ((2#3 ++ code)) = ff at *
  simp only [mm0, mm1, mm2, mm3, ff0, ff1, ff2]
  simp [Instr.wf, checkSel, badClass, badUnused, badGroup, badOverlap, groupFits, Cls.ok] at hw ⊢
  all_goals simp_all

theorem Sys2Proof.Laws.Fields.vandn (h : Hdr) (code : BitVec 6) (d : VReg) (a : VReg) (b : VGSrc) (stm : Bool) (km : KReg) (z : Bool) :
    Fields.Statement (.vandn h code d a b stm km z) := by
  intro hw r hr
  cases hr
  rw [hdr_of_fields h _ rfl rfl, formOf_4B _ _ rfl]
  dsimp only [form4B, Raw.base]
  have mm0 := bits_113 stm km z
  have mm1 := bits_114 stm km z
  have mm2 := bits_115 stm km z
  have mm3 := bits_116 stm km z
  generalize (bitAt 8 3 stm ||| (BitVec.ofNat 8 km.val <<< 4) ||| bitAt 8 7 z) = mm at *
  have ff0 := bits_125 code
  have ff1 := bits_126 code
  have ff2 := bits_127 code
  generalize ((3#3 ++ code)) = ff at *
  simp only [mm0, mm1, mm2, mm3, ff0, ff1, ff2]
  simp [Instr.wf, checkSel, badClass, badUnused, badGroup, badOverlap, groupFits, Cls.ok] at hw ⊢
  all_goals simp_all

theorem Sys2Proof.Laws.Fields.vshl (h : Hdr) (code : BitVec 6) (d : VReg) (a : VReg) (b : VGSrc) (stm : Bool) (km : KReg) (z : Bool) :
    Fields.Statement (.vshl h code d a b stm km z) := by
  intro hw r hr
  cases hr
  rw [hdr_of_fields h _ rfl rfl, formOf_4C _ _ rfl]
  dsimp only [form4C, Raw.base]
  have mm0 := bits_113 stm km z
  have mm1 := bits_114 stm km z
  have mm2 := bits_115 stm km z
  have mm3 := bits_116 stm km z
  generalize (bitAt 8 3 stm ||| (BitVec.ofNat 8 km.val <<< 4) ||| bitAt 8 7 z) = mm at *
  have ff0 := bits_117 code
  have ff1 := bits_118 code
  generalize ((0#3 ++ code)) = ff at *
  simp only [mm0, mm1, mm2, mm3, ff0, ff1]
  simp [Instr.wf, checkSel, badClass, badUnused, badGroup, badOverlap, groupFits, Cls.ok] at hw ⊢
  all_goals simp_all

theorem Sys2Proof.Laws.Fields.vshr (h : Hdr) (code : BitVec 6) (d : VReg) (a : VReg) (b : VGSrc) (stm : Bool) (km : KReg) (z : Bool) :
    Fields.Statement (.vshr h code d a b stm km z) := by
  intro hw r hr
  cases hr
  rw [hdr_of_fields h _ rfl rfl, formOf_4C _ _ rfl]
  dsimp only [form4C, Raw.base]
  have mm0 := bits_113 stm km z
  have mm1 := bits_114 stm km z
  have mm2 := bits_115 stm km z
  have mm3 := bits_116 stm km z
  generalize (bitAt 8 3 stm ||| (BitVec.ofNat 8 km.val <<< 4) ||| bitAt 8 7 z) = mm at *
  have ff0 := bits_119 code
  have ff1 := bits_120 code
  have ff2 := bits_121 code
  generalize ((1#3 ++ code)) = ff at *
  simp only [mm0, mm1, mm2, mm3, ff0, ff1, ff2]
  simp [Instr.wf, checkSel, badClass, badUnused, badGroup, badOverlap, groupFits, Cls.ok] at hw ⊢
  all_goals simp_all

theorem Sys2Proof.Laws.Fields.vshra (h : Hdr) (code : BitVec 6) (d : VReg) (a : VReg) (b : VGSrc) (stm : Bool) (km : KReg) (z : Bool) :
    Fields.Statement (.vshra h code d a b stm km z) := by
  intro hw r hr
  cases hr
  rw [hdr_of_fields h _ rfl rfl, formOf_4C _ _ rfl]
  dsimp only [form4C, Raw.base]
  have mm0 := bits_113 stm km z
  have mm1 := bits_114 stm km z
  have mm2 := bits_115 stm km z
  have mm3 := bits_116 stm km z
  generalize (bitAt 8 3 stm ||| (BitVec.ofNat 8 km.val <<< 4) ||| bitAt 8 7 z) = mm at *
  have ff0 := bits_122 code
  have ff1 := bits_123 code
  have ff2 := bits_124 code
  generalize ((2#3 ++ code)) = ff at *
  simp only [mm0, mm1, mm2, mm3, ff0, ff1, ff2]
  simp [Instr.wf, checkSel, badClass, badUnused, badGroup, badOverlap, groupFits, Cls.ok] at hw ⊢
  all_goals simp_all

theorem Sys2Proof.Laws.Fields.vbcast (h : Hdr) (code : BitVec 6) (d : VReg) (stm : Bool) (km : KReg) (z : Bool) (src : VbSrc) :
    Fields.Statement (.vbcast h code d stm km z src) := by
  intro hw r hr
  cases src with
  | g a =>
    cases hr
    rw [hdr_of_fields h _ rfl rfl, formOf_4D _ _ rfl]
    dsimp only [form4D, Raw.base]
    have mm0 := bits_113 stm km z
    have mm1 := bits_114 stm km z
    have mm2 := bits_115 stm km z
    have mm3 := bits_116 stm km z
    generalize (bitAt 8 3 stm ||| (BitVec.ofNat 8 km.val <<< 4) ||| bitAt 8 7 z) = mm at *
    have ff0 := bits_117 code
    have ff1 := bits_118 code
    generalize ((0#3 ++ code)) = ff at *
    simp only [mm0, mm1, mm2, mm3, ff0, ff1]
    simp [Instr.wf, checkSel, badClass, badUnused, badGroup, badOverlap, groupFits, Cls.ok] at hw ⊢
    all_goals simp_all [Instr.wf, checkSel, badClass, badUnused, badGroup, badOverlap, groupFits, Cls.ok]
  | v a e =>
    cases hcn : codeNeedsV code
    all_goals
      cases hr
      rw [hdr_of_fields h _ rfl rfl, formOf_4D _ _ rfl]
      dsimp only [form4D, Raw.base]
      have mm0 := bits_113 stm km z
      have mm1 := bits_114 stm km z
      have mm2 := bits_115 stm km z
      have mm3 := bits_116 stm km z
      generalize (bitAt 8 3 stm ||| (BitVec.ofNat 8 km.val <<< 4) ||| bitAt 8 7 z) = mm at *
      have ff0 := bits_117 code
      have ff1 := bits_118 code
      have ff2 := bits_138 code
      generalize ((0#3 ++ code)) = ff at *
      simp only [mm0, mm1, mm2, mm3, ff0, ff1, ff2]
      simp [Instr.wf, checkSel, badClass, badUnused, badGroup, badOverlap, groupFits, Cls.ok] at hw ⊢
      all_goals simp_all [Instr.wf, checkSel, badClass, badUnused, badGroup, badOverlap, groupFits, Cls.ok]

theorem Sys2Proof.Laws.Fields.vext (h : Hdr) (wc : BitVec 2) (d : GReg) (a : VReg) (b : GReg) (sx : Bool) (imm : BitVec 32) :
    Fields.Statement (.vext h wc d a b sx imm) := by
  intro hw r hr
  cases hr
  rw [hdr_of_fields h _ rfl rfl, formOf_4E _ _ rfl]
  dsimp only [form4E, Raw.base]
  have mm0 := bits_14 sx
  have mm1 := bits_15 sx
  generalize (bitAt 8 0 sx) = mm at *
  have ff0 := bits_139 wc
  have ff1 := bits_140 wc
  generalize ((0#7 ++ wc)) = ff at *
  simp only [mm0, mm1, ff0, ff1]
  simp [Instr.wf, checkSel, badClass, badUnused, badGroup, badOverlap, groupFits, Cls.ok] at hw ⊢
  all_goals simp_all

theorem Sys2Proof.Laws.Fields.vins (h : Hdr) (wc : BitVec 2) (d : VReg) (a : GReg) (b : GReg) (imm : BitVec 32) :
    Fields.Statement (.vins h wc d a b imm) := by
  intro hw r hr
  cases hr
  rw [hdr_of_fields h _ rfl rfl, formOf_4E _ _ rfl]
  dsimp only [form4E, Raw.base]
  have ff0 := bits_141 wc
  have ff1 := bits_142 wc
  generalize ((16#7 ++ wc)) = ff at *
  simp only [ff0, ff1]
  simp [Instr.wf, checkSel, badClass, badUnused, badGroup, badOverlap, groupFits, Cls.ok] at hw ⊢
  all_goals simp_all

theorem Sys2Proof.Laws.Fields.vperm (h : Hdr) (wc : BitVec 2) (d : VReg) (a : VReg) (b : VReg) (stm : Bool) (km : KReg) (z : Bool) :
    Fields.Statement (.vperm h wc d a b stm km z) := by
  intro hw r hr
  cases hr
  rw [hdr_of_fields h _ rfl rfl, formOf_4F _ _ rfl]
  dsimp only [form4F, Raw.base]
  have mm0 := bits_113 stm km z
  have mm1 := bits_114 stm km z
  have mm2 := bits_115 stm km z
  have mm3 := bits_116 stm km z
  generalize (bitAt 8 3 stm ||| (BitVec.ofNat 8 km.val <<< 4) ||| bitAt 8 7 z) = mm at *
  have ff0 := bits_139 wc
  have ff1 := bits_140 wc
  generalize ((0#7 ++ wc)) = ff at *
  simp only [mm0, mm1, mm2, mm3, ff0, ff1]
  simp [Instr.wf, checkSel, badClass, badUnused, badGroup, badOverlap, groupFits, Cls.ok] at hw ⊢
  all_goals simp_all

theorem Sys2Proof.Laws.Fields.vslideup (h : Hdr) (wc : BitVec 2) (d : VReg) (a : VReg) (b : GReg) (stm : Bool) (km : KReg) (z : Bool) (imm : BitVec 32) :
    Fields.Statement (.vslideup h wc d a b stm km z imm) := by
  intro hw r hr
  cases hr
  rw [hdr_of_fields h _ rfl rfl, formOf_50 _ _ rfl]
  dsimp only [form50, Raw.base]
  have mm0 := bits_113 stm km z
  have mm1 := bits_114 stm km z
  have mm2 := bits_115 stm km z
  have mm3 := bits_116 stm km z
  generalize (bitAt 8 3 stm ||| (BitVec.ofNat 8 km.val <<< 4) ||| bitAt 8 7 z) = mm at *
  have ff0 := bits_139 wc
  have ff1 := bits_140 wc
  generalize ((0#7 ++ wc)) = ff at *
  simp only [mm0, mm1, mm2, mm3, ff0, ff1]
  simp [Instr.wf, checkSel, badClass, badUnused, badGroup, badOverlap, groupFits, Cls.ok] at hw ⊢
  all_goals simp_all

theorem Sys2Proof.Laws.Fields.vslidedn (h : Hdr) (wc : BitVec 2) (d : VReg) (a : VReg) (b : GReg) (stm : Bool) (km : KReg) (z : Bool) (imm : BitVec 32) :
    Fields.Statement (.vslidedn h wc d a b stm km z imm) := by
  intro hw r hr
  cases hr
  rw [hdr_of_fields h _ rfl rfl, formOf_50 _ _ rfl]
  dsimp only [form50, Raw.base]
  have mm0 := bits_113 stm km z
  have mm1 := bits_114 stm km z
  have mm2 := bits_115 stm km z
  have mm3 := bits_116 stm km z
  generalize (bitAt 8 3 stm ||| (BitVec.ofNat 8 km.val <<< 4) ||| bitAt 8 7 z) = mm at *
  have ff0 := bits_141 wc
  have ff1 := bits_142 wc
  generalize ((16#7 ++ wc)) = ff at *
  simp only [mm0, mm1, mm2, mm3, ff0, ff1]
  simp [Instr.wf, checkSel, badClass, badUnused, badGroup, badOverlap, groupFits, Cls.ok] at hw ⊢
  all_goals simp_all

theorem Sys2Proof.Laws.Fields.viota (h : Hdr) (code : BitVec 6) (d : VReg) (a : GReg) (stm : Bool) (km : KReg) (z : Bool) (imm : BitVec 32) :
    Fields.Statement (.viota h code d a stm km z imm) := by
  intro hw r hr
  cases hr
  rw [hdr_of_fields h _ rfl rfl, formOf_51 _ _ rfl]
  dsimp only [form51, Raw.base]
  have mm0 := bits_113 stm km z
  have mm1 := bits_114 stm km z
  have mm2 := bits_115 stm km z
  have mm3 := bits_116 stm km z
  generalize (bitAt 8 3 stm ||| (BitVec.ofNat 8 km.val <<< 4) ||| bitAt 8 7 z) = mm at *
  have ff0 := bits_117 code
  have ff1 := bits_118 code
  generalize ((0#3 ++ code)) = ff at *
  simp only [mm0, mm1, mm2, mm3, ff0, ff1]
  simp [Instr.wf, checkSel, badClass, badUnused, badGroup, badOverlap, groupFits, Cls.ok] at hw ⊢
  all_goals simp_all

theorem Sys2Proof.Laws.Fields.kand (h : Hdr) (d : KReg) (a : KReg) (b : KReg) :
    Fields.Statement (.kand h d a b) := by
  intro hw r hr
  cases hr
  rw [hdr_of_fields h _ rfl rfl, formOf_52 _ _ rfl]
  dsimp only [form52, Raw.base]
  simp [Instr.wf, checkSel, badClass, badUnused, badGroup, badOverlap, groupFits, Cls.ok] at hw ⊢
  all_goals simp_all

theorem Sys2Proof.Laws.Fields.kor (h : Hdr) (d : KReg) (a : KReg) (b : KReg) :
    Fields.Statement (.kor h d a b) := by
  intro hw r hr
  cases hr
  rw [hdr_of_fields h _ rfl rfl, formOf_52 _ _ rfl]
  dsimp only [form52, Raw.base]
  simp [Instr.wf, checkSel, badClass, badUnused, badGroup, badOverlap, groupFits, Cls.ok] at hw ⊢
  all_goals simp_all

theorem Sys2Proof.Laws.Fields.kxor (h : Hdr) (d : KReg) (a : KReg) (b : KReg) :
    Fields.Statement (.kxor h d a b) := by
  intro hw r hr
  cases hr
  rw [hdr_of_fields h _ rfl rfl, formOf_52 _ _ rfl]
  dsimp only [form52, Raw.base]
  simp [Instr.wf, checkSel, badClass, badUnused, badGroup, badOverlap, groupFits, Cls.ok] at hw ⊢
  all_goals simp_all

theorem Sys2Proof.Laws.Fields.knot (h : Hdr) (d : KReg) (a : KReg) :
    Fields.Statement (.knot h d a) := by
  intro hw r hr
  cases hr
  rw [hdr_of_fields h _ rfl rfl, formOf_52 _ _ rfl]
  dsimp only [form52, Raw.base]
  simp [Instr.wf, checkSel, badClass, badUnused, badGroup, badOverlap, groupFits, Cls.ok] at hw ⊢
  all_goals simp_all

theorem Sys2Proof.Laws.Fields.kcnt (h : Hdr) (d : GReg) (a : KReg) (n : BitVec 8) :
    Fields.Statement (.kcnt h d a n) := by
  intro hw r hr
  cases hr
  rw [hdr_of_fields h _ rfl rfl, formOf_52 _ _ rfl]
  dsimp only [form52, Raw.base]
  have jj0 := bits_34 n
  have jj1 := bits_35 n
  generalize ((n.setWidth 32 <<< 0)) = jj at *
  simp only [jj0, jj1]
  simp [Instr.wf, checkSel, badClass, badUnused, badGroup, badOverlap, groupFits, Cls.ok] at hw ⊢
  all_goals simp_all

theorem Sys2Proof.Laws.Fields.kmov (h : Hdr) (o : KmovOps) :
    Fields.Statement (.kmov h o) := by
  intro hw r hr
  cases o with
  | kk d a =>
    cases hr
    rw [hdr_of_fields h _ rfl rfl, formOf_52 _ _ rfl]
    dsimp only [form52, Raw.base]
    simp [Instr.wf, checkSel, badClass, badUnused, badGroup, badOverlap, groupFits, Cls.ok] at hw ⊢
    all_goals simp_all [Instr.wf, checkSel, badClass, badUnused, badGroup, badOverlap, groupFits, Cls.ok]
  | kg hi d a =>
    cases hr
    rw [hdr_of_fields h _ rfl rfl, formOf_52 _ _ rfl]
    dsimp only [form52, Raw.base]
    have mm0 := bits_143 hi
    have mm1 := bits_15 hi
    generalize (bitAt 8 0 hi) = mm at *
    simp only [mm0, mm1]
    simp [Instr.wf, checkSel, badClass, badUnused, badGroup, badOverlap, groupFits, Cls.ok] at hw ⊢
    all_goals simp_all [Instr.wf, checkSel, badClass, badUnused, badGroup, badOverlap, groupFits, Cls.ok]
  | gk hi d a =>
    cases hr
    rw [hdr_of_fields h _ rfl rfl, formOf_52 _ _ rfl]
    dsimp only [form52, Raw.base]
    have mm0 := bits_143 hi
    have mm1 := bits_15 hi
    generalize (bitAt 8 0 hi) = mm at *
    simp only [mm0, mm1]
    simp [Instr.wf, checkSel, badClass, badUnused, badGroup, badOverlap, groupFits, Cls.ok] at hw ⊢
    all_goals simp_all [Instr.wf, checkSel, badClass, badUnused, badGroup, badOverlap, groupFits, Cls.ok]

theorem Sys2Proof.Laws.Fields.vradd (h : Hdr) (code : BitVec 6) (d : VReg) (a : VReg) (stm : Bool) (km : KReg) :
    Fields.Statement (.vradd h code d a stm km) := by
  intro hw r hr
  cases hr
  rw [hdr_of_fields h _ rfl rfl, formOf_53 _ _ rfl]
  dsimp only [form53, Raw.base]
  have mm0 := bits_135 stm km
  have mm1 := bits_136 stm km
  have mm2 := bits_137 stm km
  generalize (bitAt 8 3 stm ||| (BitVec.ofNat 8 km.val <<< 4)) = mm at *
  have ff0 := bits_117 code
  have ff1 := bits_118 code
  generalize ((0#3 ++ code)) = ff at *
  simp only [mm0, mm1, mm2, ff0, ff1]
  simp [Instr.wf, checkSel, badClass, badUnused, badGroup, badOverlap, groupFits, Cls.ok] at hw ⊢
  all_goals simp_all

theorem Sys2Proof.Laws.Fields.vrmin (h : Hdr) (code : BitVec 6) (d : VReg) (a : VReg) (stm : Bool) (km : KReg) :
    Fields.Statement (.vrmin h code d a stm km) := by
  intro hw r hr
  cases hr
  rw [hdr_of_fields h _ rfl rfl, formOf_53 _ _ rfl]
  dsimp only [form53, Raw.base]
  have mm0 := bits_135 stm km
  have mm1 := bits_136 stm km
  have mm2 := bits_137 stm km
  generalize (bitAt 8 3 stm ||| (BitVec.ofNat 8 km.val <<< 4)) = mm at *
  have ff0 := bits_119 code
  have ff1 := bits_120 code
  have ff2 := bits_121 code
  generalize ((1#3 ++ code)) = ff at *
  simp only [mm0, mm1, mm2, ff0, ff1, ff2]
  simp [Instr.wf, checkSel, badClass, badUnused, badGroup, badOverlap, groupFits, Cls.ok] at hw ⊢
  all_goals simp_all

theorem Sys2Proof.Laws.Fields.vrmax (h : Hdr) (code : BitVec 6) (d : VReg) (a : VReg) (stm : Bool) (km : KReg) :
    Fields.Statement (.vrmax h code d a stm km) := by
  intro hw r hr
  cases hr
  rw [hdr_of_fields h _ rfl rfl, formOf_53 _ _ rfl]
  dsimp only [form53, Raw.base]
  have mm0 := bits_135 stm km
  have mm1 := bits_136 stm km
  have mm2 := bits_137 stm km
  generalize (bitAt 8 3 stm ||| (BitVec.ofNat 8 km.val <<< 4)) = mm at *
  have ff0 := bits_122 code
  have ff1 := bits_123 code
  have ff2 := bits_124 code
  generalize ((2#3 ++ code)) = ff at *
  simp only [mm0, mm1, mm2, ff0, ff1, ff2]
  simp [Instr.wf, checkSel, badClass, badUnused, badGroup, badOverlap, groupFits, Cls.ok] at hw ⊢
  all_goals simp_all

theorem Sys2Proof.Laws.Fields.vrfadd (h : Hdr) (code : BitVec 6) (d : VReg) (a : VReg) (rm : BitVec 3) (stm : Bool) (km : KReg) :
    Fields.Statement (.vrfadd h code d a rm stm km) := by
  intro hw r hr
  cases hr
  rw [hdr_of_fields h _ rfl rfl, formOf_54 _ _ rfl]
  dsimp only [form54, Raw.base]
  have mm0 := bits_144 rm stm km
  have mm1 := bits_145 rm stm km
  have mm2 := bits_146 rm stm km
  have mm3 := bits_147 rm stm km
  generalize ((rm.setWidth 8 <<< 0) ||| bitAt 8 3 stm ||| (BitVec.ofNat 8 km.val <<< 4)) = mm at *
  have ff0 := bits_117 code
  have ff1 := bits_118 code
  generalize ((0#3 ++ code)) = ff at *
  simp only [mm0, mm1, mm2, mm3, ff0, ff1]
  simp [Instr.wf, checkSel, badClass, badUnused, badGroup, badOverlap, groupFits, Cls.ok] at hw ⊢
  all_goals simp_all

theorem Sys2Proof.Laws.Fields.vrfmin (h : Hdr) (code : BitVec 6) (d : VReg) (a : VReg) (stm : Bool) (km : KReg) :
    Fields.Statement (.vrfmin h code d a stm km) := by
  intro hw r hr
  cases hr
  rw [hdr_of_fields h _ rfl rfl, formOf_54 _ _ rfl]
  dsimp only [form54, Raw.base]
  have mm0 := bits_135 stm km
  have mm1 := bits_136 stm km
  have mm2 := bits_137 stm km
  generalize (bitAt 8 3 stm ||| (BitVec.ofNat 8 km.val <<< 4)) = mm at *
  have ff0 := bits_119 code
  have ff1 := bits_120 code
  have ff2 := bits_121 code
  generalize ((1#3 ++ code)) = ff at *
  simp only [mm0, mm1, mm2, ff0, ff1, ff2]
  simp [Instr.wf, checkSel, badClass, badUnused, badGroup, badOverlap, groupFits, Cls.ok] at hw ⊢
  all_goals simp_all

theorem Sys2Proof.Laws.Fields.vrfmax (h : Hdr) (code : BitVec 6) (d : VReg) (a : VReg) (stm : Bool) (km : KReg) :
    Fields.Statement (.vrfmax h code d a stm km) := by
  intro hw r hr
  cases hr
  rw [hdr_of_fields h _ rfl rfl, formOf_54 _ _ rfl]
  dsimp only [form54, Raw.base]
  have mm0 := bits_135 stm km
  have mm1 := bits_136 stm km
  have mm2 := bits_137 stm km
  generalize (bitAt 8 3 stm ||| (BitVec.ofNat 8 km.val <<< 4)) = mm at *
  have ff0 := bits_122 code
  have ff1 := bits_123 code
  have ff2 := bits_124 code
  generalize ((2#3 ++ code)) = ff at *
  simp only [mm0, mm1, mm2, ff0, ff1, ff2]
  simp [Instr.wf, checkSel, badClass, badUnused, badGroup, badOverlap, groupFits, Cls.ok] at hw ⊢
  all_goals simp_all

theorem Sys2Proof.Laws.Fields.scfg (h : Hdr) (d : VReg) (a : GReg) (port : Fin 4) (imm : BitVec 32) :
    Fields.Statement (.scfg h d a port imm) := by
  intro hw r hr
  cases hr
  rw [hdr_of_fields h _ rfl rfl, formOf_55 _ _ rfl]
  dsimp only [form55, Raw.base]
  have mm0 := bits_44 port
  have mm1 := bits_45 port
  generalize ((BitVec.ofNat 8 port.val <<< 0)) = mm at *
  simp only [mm0, mm1]
  simp [Instr.wf, checkSel, badClass, badUnused, badGroup, badOverlap, groupFits, Cls.ok] at hw ⊢
  all_goals simp_all

theorem Sys2Proof.Laws.Fields.sfree (h : Hdr) (port : Fin 4) :
    Fields.Statement (.sfree h port) := by
  intro hw r hr
  cases hr
  rw [hdr_of_fields h _ rfl rfl, formOf_55 _ _ rfl]
  dsimp only [form55, Raw.base]
  have mm0 := bits_44 port
  have mm1 := bits_45 port
  generalize ((BitVec.ofNat 8 port.val <<< 0)) = mm at *
  simp only [mm0, mm1]
  simp [Instr.wf, checkSel, badClass, badUnused, badGroup, badOverlap, groupFits, Cls.ok] at hw ⊢
  all_goals simp_all

theorem Sys2Proof.Laws.Fields.vloop (h : Hdr) (len : BitVec 8) (port : Fin 4) :
    Fields.Statement (.vloop h len port) := by
  intro hw r hr
  cases hr
  rw [hdr_of_fields h _ rfl rfl, formOf_56 _ _ rfl]
  dsimp only [form56, Raw.base]
  have jj0 := bits_148 len port
  have jj1 := bits_149 len port
  have jj2 := bits_150 len port
  generalize ((len.setWidth 32 <<< 0) ||| (BitVec.ofNat 32 port.val <<< 8)) = jj at *
  simp only [jj0, jj1, jj2]
  simp [Instr.wf, checkSel, badClass, badUnused, badGroup, badOverlap, groupFits, Cls.ok] at hw ⊢
  all_goals simp_all [Instr.wf, checkSel, badClass, badUnused, badGroup, badOverlap, groupFits, Cls.ok]

theorem Sys2Proof.Laws.Fields.vmov (h : Hdr) (d : VReg) (a : VReg) :
    Fields.Statement (.vmov h d a) := by
  intro hw r hr
  cases hr
  rw [hdr_of_fields h _ rfl rfl, formOf_57 _ _ rfl]
  dsimp only [form57, Raw.base]
  simp [Instr.wf, checkSel, badClass, badUnused, badGroup, badOverlap, groupFits, Cls.ok] at hw ⊢
  all_goals simp_all

theorem Sys2Proof.Laws.Fields.vmovgFromG (h : Hdr) (code : BitVec 6) (d : VReg) (a : GReg) :
    Fields.Statement (.vmovgFromG h code d a) := by
  intro hw r hr
  cases hr
  rw [hdr_of_fields h _ rfl rfl, formOf_57 _ _ rfl]
  dsimp only [form57, Raw.base]
  have ff0 := bits_119 code
  have ff1 := bits_120 code
  have ff2 := bits_121 code
  generalize ((1#3 ++ code)) = ff at *
  simp only [ff0, ff1, ff2]
  simp [Instr.wf, checkSel, badClass, badUnused, badGroup, badOverlap, groupFits, Cls.ok] at hw ⊢
  all_goals simp_all [Instr.wf, checkSel, badClass, badUnused, badGroup, badOverlap, groupFits, Cls.ok]

theorem Sys2Proof.Laws.Fields.vmovgToG (h : Hdr) (d : GReg) (a : VReg) :
    Fields.Statement (.vmovgToG h d a) := by
  intro hw r hr
  cases hr
  rw [hdr_of_fields h _ rfl rfl, formOf_57 _ _ rfl]
  dsimp only [form57, Raw.base]
  simp [Instr.wf, checkSel, badClass, badUnused, badGroup, badOverlap, groupFits, Cls.ok] at hw ⊢
  all_goals simp_all

theorem Sys2Proof.Laws.Fields.vmadd (h : Hdr) (d : VReg) (a : VReg) (b : VGSrc) (m : Fin 4) (km : KReg) (z : Bool) :
    Fields.Statement (.vmadd h d a b m km z) := by
  intro hw r hr
  cases hr
  rw [hdr_of_fields h _ rfl rfl, formOf_60 _ _ rfl]
  dsimp only [form60, Raw.base]
  have mm0 := bits_151 m km z
  have mm1 := bits_152 m km z
  have mm2 := bits_153 m km z
  have mm3 := bits_154 m km z
  generalize ((BitVec.ofNat 8 m.val <<< 0) ||| (BitVec.ofNat 8 km.val <<< 4) ||| bitAt 8 7 z) = mm at *
  simp only [mm0, mm1, mm2, mm3]
  simp [Instr.wf, checkSel, badClass, badUnused, badGroup, badOverlap, groupFits, Cls.ok] at hw ⊢
  all_goals simp_all

theorem Sys2Proof.Laws.Fields.vmsub (h : Hdr) (d : VReg) (a : VReg) (b : VGSrc) (m : Fin 4) (km : KReg) (z : Bool) :
    Fields.Statement (.vmsub h d a b m km z) := by
  intro hw r hr
  cases hr
  rw [hdr_of_fields h _ rfl rfl, formOf_60 _ _ rfl]
  dsimp only [form60, Raw.base]
  have mm0 := bits_151 m km z
  have mm1 := bits_152 m km z
  have mm2 := bits_153 m km z
  have mm3 := bits_154 m km z
  generalize ((BitVec.ofNat 8 m.val <<< 0) ||| (BitVec.ofNat 8 km.val <<< 4) ||| bitAt 8 7 z) = mm at *
  simp only [mm0, mm1, mm2, mm3]
  simp [Instr.wf, checkSel, badClass, badUnused, badGroup, badOverlap, groupFits, Cls.ok] at hw ⊢
  all_goals simp_all

theorem Sys2Proof.Laws.Fields.vmneg (h : Hdr) (d : VReg) (a : VReg) (m : Fin 4) (km : KReg) (z : Bool) :
    Fields.Statement (.vmneg h d a m km z) := by
  intro hw r hr
  cases hr
  rw [hdr_of_fields h _ rfl rfl, formOf_60 _ _ rfl]
  dsimp only [form60, Raw.base]
  have mm0 := bits_151 m km z
  have mm1 := bits_152 m km z
  have mm2 := bits_153 m km z
  have mm3 := bits_154 m km z
  generalize ((BitVec.ofNat 8 m.val <<< 0) ||| (BitVec.ofNat 8 km.val <<< 4) ||| bitAt 8 7 z) = mm at *
  simp only [mm0, mm1, mm2, mm3]
  simp [Instr.wf, checkSel, badClass, badUnused, badGroup, badOverlap, groupFits, Cls.ok] at hw ⊢
  all_goals simp_all

theorem Sys2Proof.Laws.Fields.vmmul (h : Hdr) (d : VReg) (a : VReg) (b : VGSrc) (m : Fin 4) (km : KReg) (z : Bool) :
    Fields.Statement (.vmmul h d a b m km z) := by
  intro hw r hr
  cases hr
  rw [hdr_of_fields h _ rfl rfl, formOf_61 _ _ rfl]
  dsimp only [form61, Raw.base]
  have mm0 := bits_151 m km z
  have mm1 := bits_152 m km z
  have mm2 := bits_153 m km z
  have mm3 := bits_154 m km z
  generalize ((BitVec.ofNat 8 m.val <<< 0) ||| (BitVec.ofNat 8 km.val <<< 4) ||| bitAt 8 7 z) = mm at *
  simp only [mm0, mm1, mm2, mm3]
  simp [Instr.wf, checkSel, badClass, badUnused, badGroup, badOverlap, groupFits, Cls.ok] at hw ⊢
  all_goals simp_all

theorem Sys2Proof.Laws.Fields.vmmac (h : Hdr) (d : VReg) (a : VReg) (b : VGSrc) (m : Fin 4) (km : KReg) (z : Bool) :
    Fields.Statement (.vmmac h d a b m km z) := by
  intro hw r hr
  cases hr
  rw [hdr_of_fields h _ rfl rfl, formOf_61 _ _ rfl]
  dsimp only [form61, Raw.base]
  have mm0 := bits_151 m km z
  have mm1 := bits_152 m km z
  have mm2 := bits_153 m km z
  have mm3 := bits_154 m km z
  generalize ((BitVec.ofNat 8 m.val <<< 0) ||| (BitVec.ofNat 8 km.val <<< 4) ||| bitAt 8 7 z) = mm at *
  simp only [mm0, mm1, mm2, mm3]
  simp [Instr.wf, checkSel, badClass, badUnused, badGroup, badOverlap, groupFits, Cls.ok] at hw ⊢
  all_goals simp_all

theorem Sys2Proof.Laws.Fields.vmred (h : Hdr) (nat : Bool) (d : VReg) (a : VReg) (m : Fin 4) (km : KReg) (z : Bool) :
    Fields.Statement (.vmred h nat d a m km z) := by
  intro hw r hr
  cases hr
  rw [hdr_of_fields h _ rfl rfl, formOf_62 _ _ rfl]
  dsimp only [form62, Raw.base]
  have mm0 := bits_151 m km z
  have mm1 := bits_152 m km z
  have mm2 := bits_153 m km z
  have mm3 := bits_154 m km z
  generalize ((BitVec.ofNat 8 m.val <<< 0) ||| (BitVec.ofNat 8 km.val <<< 4) ||| bitAt 8 7 z) = mm at *
  have ff0 := bits_155 nat
  have ff1 := bits_156 nat
  generalize ((if nat then 0x00F#9 else 0x00B#9)) = ff at *
  simp only [mm0, mm1, mm2, mm3, ff0, ff1]
  simp [Instr.wf, checkSel, badClass, badUnused, badGroup, badOverlap, groupFits, Cls.ok] at hw ⊢
  all_goals simp_all [Instr.wf, checkSel, badClass, badUnused, badGroup, badOverlap, groupFits, Cls.ok]

theorem Sys2Proof.Laws.Fields.vmcvtI64 (h : Hdr) (d : VReg) (a : VReg) (km : KReg) (z : Bool) :
    Fields.Statement (.vmcvtI64 h d a km z) := by
  intro hw r hr
  cases hr
  rw [hdr_of_fields h _ rfl rfl, formOf_62 _ _ rfl]
  dsimp only [form62, Raw.base]
  have mm0 := bits_157 km z
  have mm1 := bits_158 km z
  have mm2 := bits_159 km z
  generalize ((BitVec.ofNat 8 km.val <<< 4) ||| bitAt 8 7 z) = mm at *
  simp only [mm0, mm1, mm2]
  simp [Instr.wf, checkSel, badClass, badUnused, badGroup, badOverlap, groupFits, Cls.ok] at hw ⊢
  all_goals simp_all

theorem Sys2Proof.Laws.Fields.vmcvtMn (h : Hdr) (d : VReg) (a : VReg) (m : Fin 4) (km : KReg) (z : Bool) :
    Fields.Statement (.vmcvtMn h d a m km z) := by
  intro hw r hr
  cases hr
  rw [hdr_of_fields h _ rfl rfl, formOf_62 _ _ rfl]
  dsimp only [form62, Raw.base]
  have mm0 := bits_151 m km z
  have mm1 := bits_152 m km z
  have mm2 := bits_153 m km z
  have mm3 := bits_154 m km z
  generalize ((BitVec.ofNat 8 m.val <<< 0) ||| (BitVec.ofNat 8 km.val <<< 4) ||| bitAt 8 7 z) = mm at *
  simp only [mm0, mm1, mm2, mm3]
  simp [Instr.wf, checkSel, badClass, badUnused, badGroup, badOverlap, groupFits, Cls.ok] at hw ⊢
  all_goals simp_all

theorem Sys2Proof.Laws.Fields.vmcvtMs (h : Hdr) (d : VReg) (a : VReg) (m : Fin 4) (km : KReg) (z : Bool) :
    Fields.Statement (.vmcvtMs h d a m km z) := by
  intro hw r hr
  cases hr
  rw [hdr_of_fields h _ rfl rfl, formOf_62 _ _ rfl]
  dsimp only [form62, Raw.base]
  have mm0 := bits_151 m km z
  have mm1 := bits_152 m km z
  have mm2 := bits_153 m km z
  have mm3 := bits_154 m km z
  generalize ((BitVec.ofNat 8 m.val <<< 0) ||| (BitVec.ofNat 8 km.val <<< 4) ||| bitAt 8 7 z) = mm at *
  simp only [mm0, mm1, mm2, mm3]
  simp [Instr.wf, checkSel, badClass, badUnused, badGroup, badOverlap, groupFits, Cls.ok] at hw ⊢
  all_goals simp_all

theorem Sys2Proof.Laws.Fields.mqgen (h : Hdr) (a : VReg) (m : Fin 4) :
    Fields.Statement (.mqgen h a m) := by
  intro hw r hr
  cases hr
  rw [hdr_of_fields h _ rfl rfl, formOf_63 _ _ rfl]
  dsimp only [form63, Raw.base]
  have mm0 := bits_44 m
  have mm1 := bits_45 m
  generalize ((BitVec.ofNat 8 m.val <<< 0)) = mm at *
  simp only [mm0, mm1]
  simp [Instr.wf, checkSel, badClass, badUnused, badGroup, badOverlap, groupFits, Cls.ok] at hw ⊢
  all_goals simp_all

theorem Sys2Proof.Laws.Fields.mqld (h : Hdr) (a : VReg) (b : VReg) (m : Fin 4) :
    Fields.Statement (.mqld h a b m) := by
  intro hw r hr
  cases hr
  rw [hdr_of_fields h _ rfl rfl, formOf_63 _ _ rfl]
  dsimp only [form63, Raw.base]
  have mm0 := bits_44 m
  have mm1 := bits_45 m
  generalize ((BitVec.ofNat 8 m.val <<< 0)) = mm at *
  simp only [mm0, mm1]
  simp [Instr.wf, checkSel, badClass, badUnused, badGroup, badOverlap, groupFits, Cls.ok] at hw ⊢
  all_goals simp_all

theorem Sys2Proof.Laws.Fields.bfly (h : Hdr) (d : VReg) (a : VReg) (m : Fin 4) (km : KReg) :
    Fields.Statement (.bfly h d a m km) := by
  intro hw r hr
  cases hr
  rw [hdr_of_fields h _ rfl rfl, formOf_64 _ _ rfl]
  dsimp only [form64, Raw.base]
  have mm0 := bits_160 m km
  have mm1 := bits_161 m km
  have mm2 := bits_162 m km
  generalize ((BitVec.ofNat 8 m.val <<< 0) ||| (BitVec.ofNat 8 km.val <<< 4)) = mm at *
  simp only [mm0, mm1, mm2]
  simp [Instr.wf, checkSel, badClass, badUnused, badGroup, badOverlap, groupFits, Cls.ok] at hw ⊢
  all_goals simp_all

theorem Sys2Proof.Laws.Fields.ibfly (h : Hdr) (d : VReg) (a : VReg) (m : Fin 4) (km : KReg) :
    Fields.Statement (.ibfly h d a m km) := by
  intro hw r hr
  cases hr
  rw [hdr_of_fields h _ rfl rfl, formOf_64 _ _ rfl]
  dsimp only [form64, Raw.base]
  have mm0 := bits_160 m km
  have mm1 := bits_161 m km
  have mm2 := bits_162 m km
  generalize ((BitVec.ofNat 8 m.val <<< 0) ||| (BitVec.ofNat 8 km.val <<< 4)) = mm at *
  simp only [mm0, mm1, mm2]
  simp [Instr.wf, checkSel, badClass, badUnused, badGroup, badOverlap, groupFits, Cls.ok] at hw ⊢
  all_goals simp_all

theorem Sys2Proof.Laws.Fields.bperm (h : Hdr) (d : VReg) (a : VReg) (k : BitVec 2) :
    Fields.Statement (.bperm h d a k) := by
  intro hw r hr
  cases hr
  rw [hdr_of_fields h _ rfl rfl, formOf_65 _ _ rfl]
  dsimp only [form65, Raw.base]
  have jj0 := bits_56 k
  have jj1 := bits_57 k
  generalize ((k.setWidth 32 <<< 0)) = jj at *
  simp only [jj0, jj1]
  simp [Instr.wf, checkSel, badClass, badUnused, badGroup, badOverlap, groupFits, Cls.ok] at hw ⊢
  all_goals simp_all

theorem Sys2Proof.Laws.Fields.bpermx (h : Hdr) (d : VReg) (k : BitVec 2) :
    Fields.Statement (.bpermx h d k) := by
  intro hw r hr
  cases hr
  rw [hdr_of_fields h _ rfl rfl, formOf_65 _ _ rfl]
  dsimp only [form65, Raw.base]
  have jj0 := bits_56 k
  have jj1 := bits_57 k
  generalize ((k.setWidth 32 <<< 0)) = jj at *
  simp only [jj0, jj1]
  simp [Instr.wf, checkSel, badClass, badUnused, badGroup, badOverlap, groupFits, Cls.ok] at hw ⊢
  all_goals simp_all

theorem Sys2Proof.Laws.Fields.vbitrev (h : Hdr) (d : VReg) (a : VReg) (b : BitVec 3) :
    Fields.Statement (.vbitrev h d a b) := by
  intro hw r hr
  cases hr
  rw [hdr_of_fields h _ rfl rfl, formOf_65 _ _ rfl]
  dsimp only [form65, Raw.base]
  have jj0 := bits_54 b
  have jj1 := bits_55 b
  generalize ((b.setWidth 32 <<< 0)) = jj at *
  simp only [jj0, jj1]
  simp [Instr.wf, checkSel, badClass, badUnused, badGroup, badOverlap, groupFits, Cls.ok] at hw ⊢
  all_goals simp_all

theorem Sys2Proof.Laws.Fields.vfft2 (h : Hdr) (d : VReg) (a : VReg) (rm : BitVec 3) (cj : Bool) (km : KReg) :
    Fields.Statement (.vfft2 h d a rm cj km) := by
  intro hw r hr
  cases hr
  rw [hdr_of_fields h _ rfl rfl, formOf_66 _ _ rfl]
  dsimp only [form66, Raw.base]
  have mm0 := bits_144 rm cj km
  have mm1 := bits_145 rm cj km
  have mm2 := bits_146 rm cj km
  have mm3 := bits_147 rm cj km
  generalize ((rm.setWidth 8 <<< 0) ||| bitAt 8 3 cj ||| (BitVec.ofNat 8 km.val <<< 4)) = mm at *
  simp only [mm0, mm1, mm2, mm3]
  simp [Instr.wf, checkSel, badClass, badUnused, badGroup, badOverlap, groupFits, Cls.ok] at hw ⊢
  all_goals simp_all

theorem Sys2Proof.Laws.Fields.vcmul (h : Hdr) (d : VReg) (a : VReg) (b : VReg) (rm : BitVec 3) (cj : Bool) (km : KReg) (z : Bool) :
    Fields.Statement (.vcmul h d a b rm cj km z) := by
  intro hw r hr
  cases hr
  rw [hdr_of_fields h _ rfl rfl, formOf_66 _ _ rfl]
  dsimp only [form66, Raw.base]
  have mm0 := bits_131 rm cj km z
  have mm1 := bits_132 rm cj km z
  have mm2 := bits_133 rm cj km z
  have mm3 := bits_134 rm cj km z
  generalize ((rm.setWidth 8 <<< 0) ||| bitAt 8 3 cj ||| (BitVec.ofNat 8 km.val <<< 4) ||| bitAt 8 7 z) = mm at *
  simp only [mm0, mm1, mm2, mm3]
  simp [Instr.wf, checkSel, badClass, badUnused, badGroup, badOverlap, groupFits, Cls.ok] at hw ⊢
  all_goals simp_all

theorem Sys2Proof.Laws.Fields.zalloc (h : Hdr) (d : PReg) (t : Fin 4) :
    Fields.Statement (.zalloc h d t) := by
  intro hw r hr
  cases hr
  rw [hdr_of_fields h _ rfl rfl, formOf_68 _ _ rfl]
  dsimp only [form68, Raw.base]
  have mm0 := bits_163 t
  have mm1 := bits_164 t
  generalize ((BitVec.ofNat 8 t.val <<< 4)) = mm at *
  simp only [mm0, mm1]
  simp [Instr.wf, checkSel, badClass, badUnused, badGroup, badOverlap, groupFits, Cls.ok] at hw ⊢
  all_goals simp_all

theorem Sys2Proof.Laws.Fields.zfree (h : Hdr) (t : Fin 4) :
    Fields.Statement (.zfree h t) := by
  intro hw r hr
  cases hr
  rw [hdr_of_fields h _ rfl rfl, formOf_68 _ _ rfl]
  dsimp only [form68, Raw.base]
  have mm0 := bits_163 t
  have mm1 := bits_164 t
  generalize ((BitVec.ofNat 8 t.val <<< 4)) = mm at *
  simp only [mm0, mm1]
  simp [Instr.wf, checkSel, badClass, badUnused, badGroup, badOverlap, groupFits, Cls.ok] at hw ⊢
  all_goals simp_all

theorem Sys2Proof.Laws.Fields.zzero (h : Hdr) (i32 : Bool) (t : Fin 4) :
    Fields.Statement (.zzero h i32 t) := by
  intro hw r hr
  cases hr
  rw [hdr_of_fields h _ rfl rfl, formOf_68 _ _ rfl]
  dsimp only [form68, Raw.base]
  have mm0 := bits_163 t
  have mm1 := bits_164 t
  generalize ((BitVec.ofNat 8 t.val <<< 4)) = mm at *
  have ff0 := bits_165 i32
  have ff1 := bits_166 i32
  have ff2 := bits_167 i32
  have ff3 := bits_168 i32
  generalize ((if i32 then 3#9 else 2#9)) = ff at *
  simp only [mm0, mm1, ff0, ff1, ff2, ff3]
  simp [Instr.wf, checkSel, badClass, badUnused, badGroup, badOverlap, groupFits, Cls.ok] at hw ⊢
  all_goals simp_all [Instr.wf, checkSel, badClass, badUnused, badGroup, badOverlap, groupFits, Cls.ok]

theorem Sys2Proof.Laws.Fields.zmma (h : Hdr) (tag : BitVec 8) (d : GReg) (a : GReg) (b : GReg) (t : Fin 4) (sc : Bool) :
    Fields.Statement (.zmma h tag d a b t sc) := by
  intro hw r hr
  cases hr
  rw [hdr_of_fields h _ rfl rfl, formOf_69 _ _ rfl]
  dsimp only [form69, Raw.base]
  have mm0 := bits_169 t sc
  have mm1 := bits_170 t sc
  have mm2 := bits_171 t sc
  generalize ((BitVec.ofNat 8 t.val <<< 4) ||| bitAt 8 6 sc) = mm at *
  have ff0 := bits_10 tag
  have ff1 := bits_11 tag
  generalize (tag.setWidth 9) = ff at *
  simp only [mm0, mm1, mm2, ff0, ff1]
  simp [Instr.wf, checkSel, badClass, badUnused, badGroup, badOverlap, groupFits, Cls.ok] at hw ⊢
  all_goals simp_all [Instr.wf, checkSel, badClass, badUnused, badGroup, badOverlap, groupFits, Cls.ok]
  all_goals (intro hx; simp_all)

theorem Sys2Proof.Laws.Fields.zmmas (h : Hdr) (tag : BitVec 8) (d : GReg) (a : GReg) (b : GReg) (t : Fin 4) (sc : Bool) :
    Fields.Statement (.zmmas h tag d a b t sc) := by
  intro hw r hr
  cases hr
  rw [hdr_of_fields h _ rfl rfl, formOf_6A _ _ rfl]
  dsimp only [form6A, Raw.base]
  have mm0 := bits_169 t sc
  have mm1 := bits_170 t sc
  have mm2 := bits_171 t sc
  generalize ((BitVec.ofNat 8 t.val <<< 4) ||| bitAt 8 6 sc) = mm at *
  have ff0 := bits_10 tag
  have ff1 := bits_11 tag
  generalize (tag.setWidth 9) = ff at *
  simp only [mm0, mm1, mm2, ff0, ff1]
  simp [Instr.wf, checkSel, badClass, badUnused, badGroup, badOverlap, groupFits, Cls.ok] at hw ⊢
  all_goals simp_all [Instr.wf, checkSel, badClass, badUnused, badGroup, badOverlap, groupFits, Cls.ok]
  all_goals (intro hx; simp_all)

theorem Sys2Proof.Laws.Fields.zldc (h : Hdr) (i32 : Bool) (a : GReg) (t : Fin 4) (stride : BitVec 20) :
    Fields.Statement (.zldc h i32 a t stride) := by
  intro hw r hr
  cases hr
  rw [hdr_of_fields h _ rfl rfl, formOf_6B _ _ rfl]
  dsimp only [form6B, Raw.base]
  have mm0 := bits_163 t
  have mm1 := bits_164 t
  generalize ((BitVec.ofNat 8 t.val <<< 4)) = mm at *
  have jj0 := bits_172 stride
  have jj1 := bits_173 stride
  generalize ((stride.setWidth 32 <<< 0)) = jj at *
  have ff0 := bits_174 i32
  have ff1 := bits_175 i32
  generalize ((if i32 then 0x00A#9 else 2#9)) = ff at *
  simp only [mm0, mm1, jj0, jj1, ff0, ff1]
  simp [Instr.wf, checkSel, badClass, badUnused, badGroup, badOverlap, groupFits, Cls.ok] at hw ⊢
  all_goals simp_all [Instr.wf, checkSel, badClass, badUnused, badGroup, badOverlap, groupFits, Cls.ok]

theorem Sys2Proof.Laws.Fields.zstore (h : Hdr) (dt : BitVec 8) (a : GReg) (rm : BitVec 3) (t : Fin 4) (stride : BitVec 20) :
    Fields.Statement (.zstore h dt a rm t stride) := by
  intro hw r hr
  cases hr
  rw [hdr_of_fields h _ rfl rfl, formOf_6C _ _ rfl]
  dsimp only [form6C, Raw.base]
  have mm0 := bits_176 rm t
  have mm1 := bits_177 rm t
  have mm2 := bits_178 rm t
  generalize ((rm.setWidth 8 <<< 0) ||| (BitVec.ofNat 8 t.val <<< 4)) = mm at *
  have jj0 := bits_172 stride
  have jj1 := bits_173 stride
  generalize ((stride.setWidth 32 <<< 0)) = jj at *
  have ff0 := bits_179 dt
  have ff1 := bits_180 dt
  have ff2 := bits_181 dt
  generalize ((1#1 ++ dt)) = ff at *
  simp only [mm0, mm1, mm2, jj0, jj1, ff0, ff1, ff2]
  simp [Instr.wf, checkSel, badClass, badUnused, badGroup, badOverlap, groupFits, Cls.ok] at hw ⊢
  all_goals simp_all [Instr.wf, checkSel, badClass, badUnused, badGroup, badOverlap, groupFits, Cls.ok]

theorem Sys2Proof.Laws.Fields.zread (h : Hdr) (d : VReg) (a : GReg) (x : BitVec 2) (t : Fin 4) (c : BitVec 3) :
    Fields.Statement (.zread h d a x t c) := by
  intro hw r hr
  cases hr
  rw [hdr_of_fields h _ rfl rfl, formOf_6C _ _ rfl]
  dsimp only [form6C, Raw.base]
  have mm0 := bits_182 x t
  have mm1 := bits_183 x t
  have mm2 := bits_184 x t
  generalize ((x.setWidth 8 <<< 0) ||| (BitVec.ofNat 8 t.val <<< 4)) = mm at *
  have jj0 := bits_185 x c (by simp [Instr.wf] at hw; exact hw.2)
  have jj1 := bits_55 c
  generalize ((c.setWidth 32 <<< 0)) = jj at *
  simp only [mm0, mm1, mm2, jj0, jj1]
  simp [Instr.wf, checkSel, badClass, badUnused, badGroup, badOverlap, groupFits, Cls.ok] at hw ⊢
  all_goals simp_all [Instr.wf, checkSel, badClass, badUnused, badGroup, badOverlap, groupFits, Cls.ok]

theorem Sys2Proof.Laws.Fields.zwm (h : Hdr) (d : GReg) (t : Fin 4) :
    Fields.Statement (.zwm h d t) := by
  intro hw r hr
  cases hr
  rw [hdr_of_fields h _ rfl rfl, formOf_6D _ _ rfl]
  dsimp only [form6D, Raw.base]
  have mm0 := bits_163 t
  have mm1 := bits_164 t
  generalize ((BitVec.ofNat 8 t.val <<< 4)) = mm at *
  simp only [mm0, mm1]
  simp [Instr.wf, checkSel, badClass, badUnused, badGroup, badOverlap, groupFits, Cls.ok] at hw ⊢
  all_goals simp_all

theorem Sys2Proof.Laws.Fields.zwait (h : Hdr) (a : GReg) (t : Fin 4) (imm : BitVec 32) :
    Fields.Statement (.zwait h a t imm) := by
  intro hw r hr
  cases hr
  rw [hdr_of_fields h _ rfl rfl, formOf_6D _ _ rfl]
  dsimp only [form6D, Raw.base]
  have mm0 := bits_163 t
  have mm1 := bits_164 t
  generalize ((BitVec.ofNat 8 t.val <<< 4)) = mm at *
  simp only [mm0, mm1]
  simp [Instr.wf, checkSel, badClass, badUnused, badGroup, badOverlap, groupFits, Cls.ok] at hw ⊢
  all_goals simp_all

theorem Sys2Proof.Laws.Fields.zscl (h : Hdr) (a : GReg) (b : VReg) (sideB : Bool) (j : BitVec 5) (q : BitVec 2) :
    Fields.Statement (.zscl h a b sideB j q) := by
  intro hw r hr
  cases hr
  rw [hdr_of_fields h _ rfl rfl, formOf_6E _ _ rfl]
  dsimp only [form6E, Raw.base]
  have mm0 := bits_14 sideB
  have mm1 := bits_15 sideB
  generalize (bitAt 8 0 sideB) = mm at *
  have jj0 := bits_186 j q
  have jj1 := bits_187 j q
  have jj2 := bits_188 j q
  generalize ((j.setWidth 32 <<< 0) ||| (q.setWidth 32 <<< 5)) = jj at *
  simp only [mm0, mm1, jj0, jj1, jj2]
  simp [Instr.wf, checkSel, badClass, badUnused, badGroup, badOverlap, groupFits, Cls.ok] at hw ⊢
  all_goals simp_all

theorem Sys2Proof.Laws.Fields.zstatT (h : Hdr) (d : GReg) (t : Fin 4) (clr : Bool) :
    Fields.Statement (.zstatT h d t clr) := by
  intro hw r hr
  cases hr
  rw [hdr_of_fields h _ rfl rfl, formOf_6E _ _ rfl]
  dsimp only [form6E, Raw.base]
  have mm0 := bits_189 t clr
  have mm1 := bits_190 t clr
  have mm2 := bits_191 t clr
  generalize ((BitVec.ofNat 8 t.val <<< 4) ||| bitAt 8 7 clr) = mm at *
  simp only [mm0, mm1, mm2]
  simp [Instr.wf, checkSel, badClass, badUnused, badGroup, badOverlap, groupFits, Cls.ok] at hw ⊢
  all_goals simp_all

theorem Sys2Proof.Laws.Fields.zstatF (h : Hdr) (d : GReg) (clr : Bool) :
    Fields.Statement (.zstatF h d clr) := by
  intro hw r hr
  cases hr
  rw [hdr_of_fields h _ rfl rfl, formOf_6E _ _ rfl]
  dsimp only [form6E, Raw.base]
  have mm0 := bits_192 clr
  have mm1 := bits_193 clr
  generalize (bitAt 8 7 clr) = mm at *
  simp only [mm0, mm1]
  simp [Instr.wf, checkSel, badClass, badUnused, badGroup, badOverlap, groupFits, Cls.ok] at hw ⊢
  all_goals simp_all

theorem Sys2Proof.Laws.Fields.zstatS (h : Hdr) (d : GReg) :
    Fields.Statement (.zstatS h d) := by
  intro hw r hr
  cases hr
  rw [hdr_of_fields h _ rfl rfl, formOf_6E _ _ rfl]
  dsimp only [form6E, Raw.base]
  simp [Instr.wf, checkSel, badClass, badUnused, badGroup, badOverlap, groupFits, Cls.ok] at hw ⊢
  all_goals simp_all

end
end

