-- ==== Sys2Proof/Laws/Vec.lean ====
section
/-! SUPPORT. What the vector unit's shared operations do on registers that no stream is bound to: the checks pass, the sources
are the registers' contents, and the result goes to the destination register. -/
namespace Sys2Proof.Machine
open Sys2Proof

/-- No stream check speaks of registers without a stream. -/
theorem streamBreach_unbound {c : Core} {d : Option VReg} {rd : Bool} {srcs : List VReg} (hd : ∀ r, d = some r → c.bound r = none)
    (hs : ∀ r ∈ srcs, c.bound r = none) : c.streamBreach d rd srcs = none := by
  cases d with
  | none =>
    simp only [Core.streamBreach, List.nil_append]
    rw [List.findSome?_eq_none_iff.mpr fun r hr => by simp [hs r hr]]
    exact List.findSome?_eq_none_iff.mpr fun r hr => by simp [hs r hr]
  | some e =>
    simp only [Core.streamBreach, hd e rfl]
    rw [List.findSome?_eq_none_iff.mpr fun r hr => by simp [hs r hr]]
    exact List.findSome?_eq_none_iff.mpr fun r hr => by
      rcases List.mem_append.mp hr with h | h
      · simp at h; simp [h, hd e rfl]
      · simp [hs r h]

/-- An unbound register carries its own tag. -/
theorem tagOf_unbound {c : Core} {r : VReg} (h : c.bound r = none) : c.tagOf r = (c.rdV r).tag := by
  simp [Core.tagOf, h]

/-- Operands with allowed tags pass the tag check. -/
theorem tagBreach_none {c : Core} {ops : List VOp}
    (h : ∀ o ∈ ops, isPoison (c.tagOf o.r) = false ∧ o.allow (c.tagOf o.r) = true) : c.tagBreach ops = none := by
  unfold Core.tagBreach
  exact List.findSome?_eq_none_iff.mpr fun o ho => by simp [(h o ho).1, (h o ho).2]

/-- Unbound sources are read from their registers, and nothing is popped. -/
theorem popAll_unbound {s : State} : ∀ {rs : List VReg}, (∀ r ∈ rs, s.cc.bound r = none) →
    popAll rs s = .ok (s, rs.map fun r => ((s.cc.rdV r).bits, fun _ => true))
  | [], _ => rfl
  | r :: rs, h => by
    simp only [popAll, h r (by simp)]
    rw [popAll_unbound (rs := rs) fun q hq => h q (by simp [hq])]
    rfl

/-- The checks of a form on unbound registers with allowed tags pass. -/
theorem vecChecks_none {p : VForm} {d : Option VReg} {a b : List VReg} {c : Core}
    (ha : ∀ r ∈ a, c.bound r = none ∧ isPoison (c.rdV r).tag = false ∧ p.allowA (c.rdV r).tag = true)
    (hb : ∀ r ∈ b, c.bound r = none ∧ isPoison (c.rdV r).tag = false ∧ p.allowB (c.rdV r).tag = true)
    (hd : ∀ r, d = some r → c.bound r = none ∧
      (p.dstSource = true → isPoison (c.rdV r).tag = false ∧ (c.rdV r).tag = p.tag)) : vecChecks p d a b c = none := by
  unfold vecChecks
  rw [streamBreach_unbound (fun r hr => (hd r hr).1)
    (fun r hr => (List.mem_append.mp hr).elim (fun h => (ha r h).1) fun h => (hb r h).1)]
  simp only
  rw [tagBreach_none]
  · cases d with
    | none => rfl
    | some e => simp [(hd e rfl).1]
  · intro o ho
    rcases List.mem_append.mp ho with h | h
    · rcases List.mem_append.mp h with h | h
      · obtain ⟨r, hr, rfl⟩ := List.mem_map.mp h
        simpa [tagOf_unbound (ha r hr).1] using (ha r hr).2
      · obtain ⟨r, hr, rfl⟩ := List.mem_map.mp h
        simpa [tagOf_unbound (hb r hr).1] using (hb r hr).2
    · cases d with
      | none => simp at h
      | some e =>
        simp only at h
        split at h
        · rename_i hr
          have hs : p.dstSource = true := by
            rcases Bool.or_eq_true _ _ |>.mp hr with h' | h'
            · simp [VForm.dstSource, h']
            · exact (Bool.and_eq_true _ _ |>.mp h').1
          simp at h
          simpa [h, tagOf_unbound (hd e rfl).1] using (hd e rfl).2 hs
        · simp at h

/-- Unbound registers name no chunk to fetch. -/
theorem unfetched_unbound {c : Core} {rs : List VReg} (h : ∀ r ∈ rs, c.bound r = none) : c.unfetched rs = [] :=
  List.filterMap_eq_nil_iff.mpr fun r hr => by simp [h r hr]

/-- On unbound registers nothing is accessed, and so nothing stops the form. -/
theorem memStop_unbound {d : Option VReg} {srcs : List VReg} {on : Nat → Bool} {s : State} (hd : ∀ r, d = some r → s.cc.bound r = none)
    (hs : ∀ r ∈ srcs, s.cc.bound r = none) : memStop d srcs on s = none := by
  have hb : d.bind s.cc.bound = none := by cases d with
    | none => rfl
    | some r => exact hd r rfl
  simp [memStop, unfetched_unbound hs, hb, State.accessHolders]

theorem all_const_true {α : Type} (l : List α) : (l.all fun _ => true) = true := List.all_eq_true.mpr fun _ _ => rfl

/-- A form on unbound registers with allowed tags reads them as they stand. -/
theorem openVec_ready {p : VForm} {d : VReg} {a b : List VReg} {stored : (Nat → Bool) → Nat → Bool} {s : State}
    (ha : ∀ r ∈ a, s.cc.bound r = none ∧ isPoison (s.cc.rdV r).tag = false ∧ p.allowA (s.cc.rdV r).tag = true)
    (hb : ∀ r ∈ b, s.cc.bound r = none ∧ isPoison (s.cc.rdV r).tag = false ∧ p.allowB (s.cc.rdV r).tag = true)
    (hd : s.cc.bound d = none) (ht : p.dstSource = true → isPoison (s.cc.rdV d).tag = false ∧ (s.cc.rdV d).tag = p.tag) :
    openVec p (some d) a b stored s =
      .ok { s := s, xs := (a ++ b).map fun r => (s.cc.rdV r).bits, old := (s.cc.rdV d).bits, tail := fun _ => true } := by
  unfold openVec
  rw [vecChecks_none ha hb (fun r hr => by cases hr; exact ⟨hd, ht⟩)]
  have hs : ∀ r ∈ a ++ b, s.cc.bound r = none := fun r hr =>
    (List.mem_append.mp hr).elim (fun h => (ha r h).1) fun h => (hb r h).1
  simp only [memStop_unbound (d := some d) (on := stored (s.cc.tails (a ++ b))) (fun r hr => by cases hr; exact hd) hs, popAll_unbound hs]
  simp [Function.comp_def, all_const_true]

/-- Such a form into a mask reads the sources as they stand. -/
theorem openVec_mask {p : VForm} {a b : List VReg} {stored : (Nat → Bool) → Nat → Bool} {s : State}
    (ha : ∀ r ∈ a, s.cc.bound r = none ∧ isPoison (s.cc.rdV r).tag = false ∧ p.allowA (s.cc.rdV r).tag = true)
    (hb : ∀ r ∈ b, s.cc.bound r = none ∧ isPoison (s.cc.rdV r).tag = false ∧ p.allowB (s.cc.rdV r).tag = true) :
    openVec p none a b stored s =
      .ok { s := s, xs := (a ++ b).map fun r => (s.cc.rdV r).bits, old := 0, tail := fun _ => true } := by
  unfold openVec
  rw [vecChecks_none ha hb (fun r hr => by cases hr)]
  have hs : ∀ r ∈ a ++ b, s.cc.bound r = none := fun r hr =>
    (List.mem_append.mp hr).elim (fun h => (ha r h).1) fun h => (hb r h).1
  simp only [memStop_unbound (d := none) (on := stored (s.cc.tails (a ++ b))) (fun r hr => by cases hr) hs, popAll_unbound hs]
  simp [Function.comp_def, all_const_true]

/-- What names a stream is in the ports alone. -/
theorem bound_congr {c c' : Core} (h : c'.regs.strm = c.regs.strm) (r : VReg) : c'.bound r = c.bound r := by
  unfold Core.bound; rw [h]

/-- A result for an unbound destination is written after its latency. -/
theorem putVec_unbound {d : VReg} {x : VR} {t lat : Nat} {stored : Nat → Bool} {s : State} (h : s.cc.bound d = none) :
    putVec d x t lat stored s = .done (s.setCc (s.cc.result t lat (.v d x))) := by
  simp [putVec, h]

@[simp] theorem Core.busyFp_strm (c : Core) (n : Nat) : (c.busyFp n).regs.strm = c.regs.strm := by
  unfold Core.busyFp; split <;> rfl
@[simp] theorem Core.busyFp_clk (c : Core) (n : Nat) : (c.busyFp n).tmg.clk = c.tmg.clk := by
  unfold Core.busyFp; split <;> rfl

/-- A form with a vector destination on unbound registers with allowed tags completes with its elements. -/
theorem vecEff_ready {p : VForm} {d : VReg} {a b : List VReg} {act : Core → VIn → Nat → Bool}
    {f : VIn → Nat → FpRegs → Nat × FpRegs} {skip : Nat → FpRegs → FpRegs} {retag : Core → VData → Tag} {s : State}
    (ha : ∀ r ∈ a, s.cc.bound r = none ∧ isPoison (s.cc.rdV r).tag = false ∧ p.allowA (s.cc.rdV r).tag = true)
    (hb : ∀ r ∈ b, s.cc.bound r = none ∧ isPoison (s.cc.rdV r).tag = false ∧ p.allowB (s.cc.rdV r).tag = true)
    (hd : s.cc.bound d = none) (ht : p.dstSource = true → isPoison (s.cc.rdV d).tag = false ∧ (s.cc.rdV d).tag = p.tag) :
    vecEff p d a b act f skip retag s =
      let v : VIn := { s := s, xs := (a ++ b).map fun r => (s.cc.rdV r).bits, old := (s.cc.rdV d).bits, tail := fun _ => true }
      let r := mapElems (1024 / p.w) (act s.cc v) (fun e => if p.z then 0 else elem p.w v.old e) (f v) skip s.cc.regs.fp
      let x := ofElems p.w r.1
      .done (s.setCc (((s.cc.setFp fun _ => r.2).busyFp p.fp).result s.cc.tmg.clk p.lat (.v d ⟨x, retag s.cc x⟩))) := by
  unfold vecEff
  rw [openVec_ready ha hb hd ht]
  simp only
  rw [putVec_unbound]
  · simp [Eff.orElse]
  · simpa using (bound_congr (c := s.cc) (by simp [Core.setFp]) d).trans hd

/-- With whole sources, the mask alone says which elements are active. -/
@[simp] theorem active_whole (p : VForm) (c : Core) (s : State) (xs : List VData) (old : VData) :
    p.active c { s := s, xs := xs, old := old, tail := fun _ => true } = fun e => (c.rdK p.km).getLsbD e := by
  funext e; simp [VForm.active]

/-- Elements whose computation leaves the floating-point state alone are a plain map. -/
theorem mapElems_pure (n : Nat) (act : Nat → Bool) (rest f : Nat → Nat) (fp : FpRegs) :
    mapElems n act rest (fun e fp => (f e, fp)) noSkip fp = ((List.range n).map fun e => if act e then f e else rest e, fp) := by
  have key : ∀ (l : List Nat) (acc : List Nat),
      l.foldl (fun (p : List Nat × FpRegs) e => if act e then
        (let q := (fun e fp => ((f e, fp) : Nat × FpRegs)) e p.2; (q.1 :: p.1, q.2)) else (rest e :: p.1, noSkip e p.2)) (acc, fp) =
        ((l.map fun e => if act e then f e else rest e).reverse ++ acc, fp) := by
    intro l
    induction l with
    | nil => intro acc; rfl
    | cons x xs ih =>
      intro acc
      simp only [List.foldl_cons]
      cases hx : act x
      · simp only [Bool.false_eq_true, if_false, noSkip]
        have := ih (rest x :: acc)
        simp only [noSkip] at this
        rw [this]; simp [hx]
      · simp only [if_true]
        rw [ih (f x :: acc)]; simp [hx]
  unfold mapElems
  simp only [key]
  simp

end Sys2Proof.Machine
end

