-- ==== Sys2Proof/Safety.lean ====
section
/-! DEFINITION. What a safe run is: no step of it stops with a fault. -/
namespace Sys2Proof.Safety
open Sys2Proof.Machine

/-- A run of `n` steps from `s` stops with no fault. -/
def SafeRun (n : Nat) (s : State) : Prop := ∀ f : Fault, Host.Core.run Sys2Proof.core n s ≠ .fault f

end Sys2Proof.Safety
end

