-- ==== Sys2Proof/Tests/Slice0.lean ====
section
/-! SUPPORT. Tests of single steps and of single functions. Expected values come from the spec: its encoding tables, its worked
examples, or a calculation by hand from its rules. -/
open Sys2Proof Sys2Proof.Machine Sys2Proof.Claims

namespace Sys2Proof.Tests

section
set_option Elab.async false

/-- The header of a word without guard and without hints. -/
def h : Hdr := { grd := 0, stall := 0, yld := false, pri := false, holdA := false, holdB := false, holdD := false }

/-- Each word decodes to its instruction, and the instruction encodes to the word. -/
noncomputable def agree (l : List (IWord × Instr)) : Bool :=
  l.all fun p => decide (decodeWord p.1 = .ok p.2) && decide (encode p.2 = some p.1) && p.2.wf

/-- R107 to R109: opcodes 0x01 and 0x02. Words written field by field from the tables, and the instructions that they are. -/
theorem test_words_alu : agree [
    (0x010000008206001000000000, .add h 1 2 3 true),
    (0x01000002050C010000000000, .sub h 4 5 6 false),
    (0x01000000827E020000000000, .andR h 1 2 63),
    (0x010000008206030000000000, .orR h 1 2 3),
    (0x010000008206040000000000, .xorR h 1 2 3),
    (0x010000008206050000000000, .andn h 1 2 3),
    (0x010000008206060000000000, .orn h 1 2 3),
    (0x010000008200071000000000, .neg h 1 2 true),
    (0x0200000082000010FFFFFFFF, .addi h 1 2 true 0xFFFFFFFF),
    (0x020000008200010000000005, .andi h 1 2 5),
    (0x020000008200020000000005, .ori h 1 2 5),
    (0x020000008200030000000005, .xori h 1 2 5)] = true := by decide +kernel

/-- R107 to R109: opcodes 0x03 and 0x04. Words written field by field from the tables, and the instructions that they are. -/
theorem test_words_shifts : agree [
    (0x030000008206000000000000, .shl h 1 2 false (.reg 3)),
    (0x03000000820001200000003F, .shr h 1 2 false (.imm 63)),
    (0x03000000820002300000001F, .shra h 1 2 true (.imm 31)),
    (0x030000008206031000000000, .rol h 1 2 true (.reg 3)),
    (0x030000008206040000000000, .ror h 1 2 false (.reg 3)),
    (0x040000008206000000000000, .mul h 1 2 3 false),
    (0x040000008206010000000000, .mulh h 1 2 3 false),
    (0x040000008206021000000000, .mulhn h 1 2 3 true),
    (0x040000008206030000000000, .div h 1 2 3 false),
    (0x040000008206040000000000, .divn h 1 2 3 false),
    (0x040000008206051000000000, .rem h 1 2 3 true),
    (0x040000008206060000000000, .remn h 1 2 3 false)] = true := by decide +kernel

/-- R107 to R109: opcodes 0x05 to 0x0A. Words written field by field from the tables, and the instructions that they are. -/
theorem test_words_bits : agree [
    (0x050000008200000000000000, .clz h 1 2 false),
    (0x050000008200011000000000, .ctz h 1 2 true),
    (0x050000008200020000000000, .popc h 1 2 false),
    (0x050000008200030000000000, .brev h 1 2 false),
    (0x050000008200040000000000, .bswap h 1 2 false),
    (0x060000008200000000000445, .bfx h 1 2 false 5 17),
    (0x06000000820001100000103F, .bfxn h 1 2 true 63 64),
    (0x060000008200020000000040, .bfi h 1 2 false 0 1),
    (0x070000008206000000000000, .min h 1 2 3 false),
    (0x070000008206010000000000, .minn h 1 2 3 false),
    (0x070000008206021000000000, .max h 1 2 3 true),
    (0x070000008206030000000000, .maxn h 1 2 3 false),
    (0x07000000820604000000000D, .sel h 1 2 3 5 true),
    (0x080000008200000000000000, .mov h 1 2),
    (0x0800000080000100FFFFFFFD, .movi h 1 0xFFFFFFFD),
    (0x080000008000020000000007, .movhi h 1 7),
    (0x08000000F200030000000000, .movp h (.toG 1 2)),
    (0x080000398900030000000000, .movp h (.toP 3 9)),
    (0x0900000082060030FFFFFFF0, .lea h 1 2 3 3 0xFFFFFFF0),
    (0x0A0000388206001400000000, .cmp h 1 2 4 true (.reg 3)),
    (0x0A00003882000022FFFFFFFF, .cmp h 1 2 2 false (.imm 0xFFFFFFFF))] = true := by decide +kernel

/-- R107 to R109, R101: opcodes 0x0B to 0x0D and 0x3D. Words written field by field from the tables, and the instructions that they are. -/
theorem test_words_floats : agree [
    (0x0B0000008206001100000000, .fadd h 1 2 3 1 true),
    (0x0B0000008206010200000000, .fsub h 1 2 3 2 false),
    (0x0B0000008206020000000000, .fmul h 1 2 3 0 false),
    (0x0B0000008206030500000000, .fdiv h 1 2 3 5 false),
    (0x0B0000008200040400000000, .fsqrt h 1 2 4 false),
    (0x0B0000008206051300000000, .fma h 1 2 3 3 true),
    (0x0C0000388206000400000000, .fcmp h 1 2 3 4 false),
    (0x0C0000008200011000000000, .fclass h 1 2 true),
    (0x0D0000008206000000000000, .fmin h 1 2 3 false),
    (0x0D0000008206011000000000, .fmax h 1 2 3 true),
    (0x0D0000008200020000000000, .fabs h 1 2 false),
    (0x0D0000008200031000000000, .fneg h 1 2 true),
    (0x0D0000008206040000000000, .fcpys h 1 2 3 false),
    (0x3D0000008200560300000000, .scvt h 5 6 1 2 3)] = true := by decide +kernel

/-- R132, R133: opcodes 0x10 to 0x15. Words written field by field from the tables, and the instructions that they are. -/
theorem test_words_control : agree [
    (0x1000000000000001FFFFFFC4, .br h true 0xFFFFFFC4),
    (0x100000048000010000000078, .call h 9 120),
    (0x11000000030000010000000C, .jr h 3 true 12),
    (0x11000004830001000000000C, .callr h 9 3 12),
    (0x110000000900020000000000, .ret h 9),
    (0x1200000004000000000000FF, .loop h 4 255),
    (0x120000000000010000006401, .loopi h 1 100),
    (0x13000038F2E6000100000000, .pand h 1 2 3 true false),
    (0x13000038F2E6010200000000, .por h 1 2 3 false true),
    (0x13000038F2E6020000000000, .pxor h 1 2 3 false false),
    (0x13000038F200030000000000, .pnot h 1 2),
    (0x1300003BF200040000000000, .pmov h 7 2),
    (0x140000000000000000000000, .nop h),
    (0x140000000000010000000000, .timed h),
    (0x140000000000020000000000, .checked h),
    (0x150000000000000000000088, .gang h 8 4),
    (0x150000000000010000000000, .gsplit h),
    (0x150000000000020000000000, .gjoin h)] = true := by decide +kernel

/-- R172 to R174: opcodes 0x18 to 0x1D. Words written field by field from the tables, and the instructions that they are. -/
theorem test_words_localMem : agree [
    (0x1800000082000006FFFFFFF8, .ld h 1 2 2 true 0xFFFFFFF8),
    (0x190000000206000300000008, .st h 2 3 3 8),
    (0x1A0000220200022000000040, .vld h 2 4 2 2 64),
    (0x1A000000028D001000000040, .vst h 2 6 1 64),
    (0x1A0000208201010000000000, .vldImg h 1 2 0 0),
    (0x1A0000000291022000000000, .vstImg h 2 8 2 0),
    (0x1B00002348000F5000000000, .vldl h 0x0F 6 8 5 0),
    (0x1B000000488D001000000008, .vstl h 8 6 1 8),
    (0x1C0000220684050000000000, .vgath h 5 4 6 2 0),
    (0x1C0000220685007000000000, .vscat h 4 6 2 7),
    (0x1D00003D8200000000000010, .kld h 3 2 16),
    (0x1D00000002F8010000000020, .kst h 2 4 32)] = true := by decide +kernel

/-- R209, R210: opcodes 0x20 to 0x23. Words written field by field from the tables, and the instructions that they are. -/
theorem test_words_globalMem : agree [
    (0x200000028401000300000010, .gld h 5 4 3 false 16),
    (0x21000000040A000100000010, .gst h 4 5 1 16),
    (0x200000210400641000000000, .gldV h 0x64 2 4 1 0),
    (0x200000220401012000000000, .gldImg h 4 4 2 0),
    (0x210000000486010000000080, .gstV h 4 3 0 128),
    (0x210000000486020000000100, .gstImg h 4 3 0 256),
    (0x22000000030A000000000000, .rwb h 3 5),
    (0x22000000030A010000000000, .rinv h 3 5),
    (0x22000000030A020000000000, .rwbi h 3 5),
    (0x230000000300000100000080, .pref h 3 true 128)] = true := by decide +kernel

/-- R223, R224, R247: opcodes 0x28 to 0x2E. Words written field by field from the tables, and the instructions that they are. -/
theorem test_words_atomics : agree [
    (0x28000002840C092300000008, .amo h 9 5 4 6 3 2 8),
    (0x29000002840C004200000008, .cas h 5 4 6 2 4 8),
    (0x2A000000040C010300000008, .red h 1 4 6 3 0 8),
    (0x2B000000000000000003003F, .evsigEv h none 63 3),
    (0x2B0000000700000400030005, .evsigEv h (some 7) 5 3),
    (0x2B000000000000010000001F, .evsigUnlock h 31),
    (0x2B000000000000020009000F, .evsigPulse h 15 9),
    (0x2B000002800001000000003F, .ldevWait h 5 63),
    (0x2B000002800001010000003F, .ldevPoll h 5 63),
    (0x2B000002800001020000001F, .ldevLock h 5 31),
    (0x2B000002800001030000001F, .ldevTry h 5 31),
    (0x2C000000000000000000001F, .bar h 31),
    (0x2C0000000000010000000002, .barss h 2),
    (0x2D0000000000001000000007, .fence h 1 7),
    (0x2E000038F200000100000007, .spred h 1 2 true 7)] = true := by decide +kernel

/-- R407: opcodes 0x30 to 0x34. Words written field by field from the tables, and the instructions that they are. -/
theorem test_words_messages : agree [
    (0x300000018400000000000902, .chdecl h 3 4 2 9),
    (0x30000000000000010000000F, .chdeclRel h 15),
    (0x31000000008A000000000003, .chsend h 5 3),
    (0x320000228000000000000003, .chrecv h 5 3),
    (0x320000228000010000000063, .chpoll h 5 3 6),
    (0x330000000000000000000000, .phase h 0),
    (0x340000000082000000000000, .tsend h 1 0),
    (0x340000210000010000000001, .trecv h 2 1)] = true := by decide +kernel

/-- R90 to R100: opcodes 0x38 to 0x3C. Words written field by field from the tables, and the instructions that they are. -/
theorem test_words_conversions : agree [
    (0x3800002141002A0100000000, .vcvt h 0x2A 2 1 1 false 0),
    (0x380000214100643A00000000, .vcvt h 0x64 2 1 2 true 3),
    (0x39000021410C640100000000, .vcvts h 0x64 2 1 6 1 false 0),
    (0x3A0000214100A30000000000, .vtag h 0xA3 2 1),
    (0x3A000002C101000000000000, .vtagr h 5 1),
    (0x3B000023C18C2A710000001F, .vquant h 0x2A 7 1 6 1 7 31),
    (0x3B000024478D020100000000, .vdeq h 8 7 6 1 0 0),
    (0x3C000023410064000000003F, .vscl h 0x64 6 1 63)] = true := by decide +kernel

/-- R265 to R267: opcodes 0x40 to 0x42 and 0x4C. Words written field by field from the tables, and the instructions that they are. -/
theorem test_words_vecInt : agree [
    (0x40000020C2860AD800000000, .vadd h 0xA 1 2 (.v 3) true 5 true),
    (0x40000020C2124A0000000000, .vsub h 0xA 1 2 (.g 9) false 0 false),
    (0x40000020C2868C0000000000, .vadds h 0xC 1 2 (.v 3) false 0 false),
    (0x40000020C286C80000000000, .vsubs h 8 1 2 (.v 3) false 0 false),
    (0x40000020C2010B0000000000, .vabs h 0xB 1 2 false 0 false),
    (0x41000020C2860F0000000000, .vmul h 0xF 1 2 (.v 3) false 0 false),
    (0x41000020C286490000000000, .vmulh h 9 1 2 (.v 3) false 0 false),
    (0x41000020C2868D0000000000, .vmulhn h 0xD 1 2 (.v 3) false 0 false),
    (0x42000020C286080000000000, .vmin h 8 1 2 (.v 3) false 0 false),
    (0x42000020C2864E0000000000, .vminn h 0xE 1 2 (.v 3) false 0 false),
    (0x42000020C2868A0000000000, .vmax h 0xA 1 2 (.v 3) false 0 false),
    (0x42000020C286CE0000000000, .vmaxn h 0xE 1 2 (.v 3) false 0 false),
    (0x4C000020C2860A0000000000, .vshl h 0xA 1 2 (.v 3) false 0 false),
    (0x4C000020C2084A0000000000, .vshr h 0xA 1 2 (.g 4) false 0 false),
    (0x4C000020C2868A0000000000, .vshra h 0xA 1 2 (.v 3) false 0 false)] = true := by decide +kernel

/-- R265 to R267: opcodes 0x43 to 0x47. Words written field by field from the tables, and the instructions that they are. -/
theorem test_words_vecFloat : agree [
    (0x430000214482020000000000, .vfadd h 2 2 4 (.v 1) 0 false 0 false),
    (0x43000021440E411D00000000, .vfsub h 1 2 4 (.g 7) 5 true 1 false),
    (0x440000214482030000000000, .vfmul h 3 2 4 (.v 1) 0 false 0 false),
    (0x440000214482440000000000, .vfdiv h 4 2 4 (.v 1) 0 false 0 false),
    (0x450000214482020100000000, .vfma h 2 2 4 (.v 1) 1 false 0 false),
    (0x450000214482420000000000, .vfms h 2 2 4 (.v 1) 0 false 0 false),
    (0x450000214482820000000000, .vfnma h 2 2 4 (.v 1) 0 false 0 false),
    (0x450000214482C20000000000, .vfnms h 2 2 4 (.v 1) 0 false 0 false),
    (0x460000214482020000000000, .vfmin h 2 2 4 (.v 1) false 0 false),
    (0x460000214482420000000000, .vfmax h 2 2 4 (.v 1) false 0 false),
    (0x460000214400820000000000, .vfabs h 2 2 4 false 0 false),
    (0x460000214400C20000000000, .vfneg h 2 2 4 false 0 false),
    (0x470000214400020000000000, .vrcp h 2 2 4 false 0 false),
    (0x470000214400430000000000, .vrsq h 3 2 4 false 0 false),
    (0x470000214400810200000000, .vsqrt h 1 2 4 2 false 0 false),
    (0x470000214400C40000000000, .vexp2 h 4 2 4 false 0 false),
    (0x470000214401020000000000, .vlog2 h 2 2 4 false 0 false)] = true := by decide +kernel

/-- R265 to R267: opcodes 0x48 to 0x51. Words written field by field from the tables, and the instructions that they are. -/
theorem test_words_vecSelect : agree [
    (0x4800003CC2860A0500000000, .vcmp h 0xA 1 2 (.v 3) 5 false 0 false),
    (0x4900003CC286020400000000, .vfcmp h 2 1 2 (.v 3) 4 false 0 false),
    (0x49000020C200420000000000, .vfclass h 2 1 2 false 0 false),
    (0x4A000020C286102000000000, .vsel h 0x10 1 2 3 false 2),
    (0x4B000020C286000000000000, .vand h 0 1 2 (.v 3) false 0 false),
    (0x4B000020C286480000000000, .vor h 8 1 2 (.v 3) false 0 false),
    (0x4B000020C286880000000000, .vxor h 8 1 2 (.v 3) false 0 false),
    (0x4B000020C286C80000000000, .vandn h 8 1 2 (.v 3) false 0 false),
    (0x4D0000208700020000000000, .vbcast h 2 1 false 0 false (.g 7)),
    (0x4D000020C700240000000005, .vbcast h 0x24 1 false 0 false (.v 7 5)),
    (0x4E000002C20C020100000003, .vext h 2 5 2 6 true 3),
    (0x4E000022820C430000000003, .vins h 3 5 2 6 3),
    (0x4F000022C28C010000000000, .vperm h 1 5 2 6 false 0 false),
    (0x50000022C20C020000000001, .vslideup h 2 5 2 6 false 0 false 1),
    (0x50000022C20C420000000001, .vslidedn h 2 5 2 6 false 0 false 1),
    (0x5100002282000F00FFFFFFFF, .viota h 0xF 5 2 false 0 false 0xFFFFFFFF)] = true := by decide +kernel

/-- R265 to R267: opcodes 0x52 to 0x57. Words written field by field from the tables, and the instructions that they are. -/
theorem test_words_masksStreams : agree [
    (0x5200003CFAF6000000000000, .kand h 1 2 3),
    (0x5200003CFAF6010000000000, .kor h 1 2 3),
    (0x5200003CFAF6020000000000, .kxor h 1 2 3),
    (0x5200003CFA00030000000000, .knot h 1 2),
    (0x52000002FA00040000000080, .kcnt h 5 2 128),
    (0x5200003CFA00050000000000, .kmov h (.kk 1 2)),
    (0x5200003C8900050100000000, .kmov h (.kg true 1 9)),
    (0x52000004F900050000000000, .kmov h (.gk false 9 1)),
    (0x53000020C2000A0000000000, .vradd h 0xA 1 2 false 0),
    (0x53000020C2004A0000000000, .vrmin h 0xA 1 2 false 0),
    (0x53000020C2008A3800000000, .vrmax h 0xA 1 2 true 3),
    (0x54000020C200020500000000, .vrfadd h 2 1 2 5 false 0),
    (0x54000020C200420000000000, .vrfmin h 2 1 2 false 0),
    (0x54000020C200820000000000, .vrfmax h 2 1 2 false 0),
    (0x550000208100000100000040, .scfg h 1 1 1 64),
    (0x550000000000010200000000, .sfree h 2),
    (0x560000000000000000000301, .vloop h 1 3),
    (0x57000020C200000000000000, .vmov h 1 2),
    (0x570000209000460000000000, .vmovgFromG h 6 1 16),
    (0x570000184100800000000000, .vmovgToG h 48 1)] = true := by decide +kernel

/-- R296 to R298: opcodes 0x60 to 0x66. Words written field by field from the tables, and the instructions that they are. -/
theorem test_words_modular : agree [
    (0x60000020C286009200000000, .vmadd h 1 2 (.v 3) 2 1 true),
    (0x60000020C212010000000000, .vmsub h 1 2 (.g 9) 0 0 false),
    (0x60000020C200020300000000, .vmneg h 1 2 3 0 false),
    (0x61000020C286000000000000, .vmmul h 1 2 (.v 3) 0 0 false),
    (0x61000020C286010100000000, .vmmac h 1 2 (.v 3) 1 0 false),
    (0x62000020C2000B0000000000, .vmred h false 1 2 0 0 false),
    (0x62000020C2000F0000000000, .vmred h true 1 2 0 0 false),
    (0x62000020C201000000000000, .vmcvtI64 h 1 2 0 false),
    (0x62000020C201010100000000, .vmcvtMn h 1 2 1 0 false),
    (0x62000020C201020100000000, .vmcvtMs h 1 2 1 0 false),
    (0x630000004200000000000000, .mqgen h 2 0),
    (0x630000004286010100000000, .mqld h 2 3 1),
    (0x640000214600000000000000, .bfly h 2 6 0 0),
    (0x640000214600011100000000, .ibfly h 2 6 1 1),
    (0x65000020C200000000000003, .bperm h 1 2 3),
    (0x650000210000010000000002, .bpermx h 2 2),
    (0x65000020C200020000000004, .vbitrev h 1 2 4),
    (0x660000214600000A00000000, .vfft2 h 2 6 2 true 0),
    (0x66000021468E018100000000, .vcmul h 2 6 7 1 false 0 true)] = true := by decide +kernel

/-- R339 to R341: opcodes 0x68 to 0x6E. Words written field by field from the tables, and the instructions that they are. -/
theorem test_words_matrix : agree [
    (0x680000388000002000000000, .zalloc h 1 2),
    (0x680000000000013000000000, .zfree h 3),
    (0x680000000000021000000000, .zzero h false 1),
    (0x680000000000030000000000, .zzero h true 0),
    (0x690000000206040000000000, .zmma h 4 0 2 3 0 false),
    (0x6A0000038206645000000000, .zmmas h 0x64 7 2 3 1 true),
    (0x6B0000000400021000000400, .zldc h false 4 1 1024),
    (0x6B00000004000A00000FFFFF, .zldc h true 4 0 0xFFFFF),
    (0x6C0000000401031200000200, .zstore h 3 4 2 1 512),
    (0x6C00000004010A0000000200, .zstore h 0xA 4 0 0 512),
    (0x6C0000220500002200000004, .zread h 4 5 2 2 4),
    (0x6D0000028000001000000000, .zwm h 5 1),
    (0x6D0000000500011000000010, .zwait h 5 1 16),
    (0x6E000000058C00010000007F, .zscl h 5 6 true 31 3),
    (0x6E0000028000019000000000, .zstatT h 5 1 true),
    (0x6E0000028000020000000000, .zstatF h 5 false),
    (0x6E0000028000030000000000, .zstatS h 5)] = true := by decide +kernel

/-- R377, R378: opcodes 0x70 to 0x76. Words written field by field from the tables, and the instructions that they are. -/
theorem test_words_engines : agree [
    (0x700000038100000000000000, .xcopy h 7 1 0),
    (0x7100000381000000FFFFFF40, .xgath h 7 1 0xFFFFFF40),
    (0x710000038100010000000000, .xscat h 7 1 0),
    (0x720000038100000000000000, .xfill h 7 1 0),
    (0x730000038100000000000000, .xcoll h 7 1 0),
    (0x740000000100000300000000, .xwait h 1 3),
    (0x740000038000010100000000, .xseq h 7 1),
    (0x740000038100020200000000, .xcancel h 7 1 2),
    (0x75000000010000000000000F, .evxcfgC h 1 15),
    (0x75000000010401000000001F, .evxcfgT h 1 2 31),
    (0x75000003800002000000003F, .evxcfgR h 7 true 31),
    (0x75000003800002000000000F, .evxcfgR h 7 false 15),
    (0x750000038100031F000000C0, .evxarm h 7 1 31 0xC0),
    (0x76000003810000000000000F, .sring h 7 1 15),
    (0x760000038100010000000000, .nsend h 7 1 0)] = true := by decide +kernel

/-- R437, R438: opcodes 0x78 to 0x7C. Words written field by field from the tables, and the instructions that they are. -/
theorem test_words_tasks : agree [
    (0x780000038100000000000080, .launch h 7 1 128),
    (0x790000000800000000000000, .spawn h 8 0 false),
    (0x790000000812010F00000000, .spawnR h 8 9 7 true),
    (0x790000028200020000000000, .join h 5 2),
    (0x790000000000030000000000, .tend h),
    (0x7A0000028000000000000000, .wid h 5),
    (0x7A0000028200010000000005, .widf h 5 2 5),
    (0x7A0000028000020000000003, .corenum h 5 3),
    (0x7B0000000200000000000000, .cdopen h 2),
    (0x7B0000028000010000000000, .cdclose h 5),
    (0x7B0000000000020000000000, .cdabort h),
    (0x7B0000000000020100000000, .cdabortRetry h),
    (0x7C000000071A000000000000, .cdkeep h 7 13 false),
    (0x7C000000071A000100000000, .cdkeep h 7 13 true),
    (0x7C000000071A010000000000, .cdsig h 7 13)] = true := by decide +kernel

/-- R452, R453: opcodes 0x80 to 0x86. Words written field by field from the tables, and the instructions that they are. -/
theorem test_words_system : agree [
    (0x800000018000000000000043, .rdsys h 3 0x043),
    (0x800000018000000000000089, .fbpop0Read h 3),
    (0x8000000180000000000000A0, .derrpopRead h 3),
    (0x800000000300010000000005, .wrsys h 3 0x005),
    (0x800000000300010000000088, .fbstatDropClear h 3),
    (0x8000000003000100000000B0, .spdoorClear h 3),
    (0x800000000300010000000098, .slotctlGo h 3),
    (0x80000000030001000000001A, .swzWrite h 3 2),
    (0x800000000300010000000090, .zshareWrite h 3),
    (0x810000000000000000000007, .syscall h 7),
    (0x810000000000010000000007, .bkpt h 7),
    (0x820000000000000000000000, .xret h),
    (0x830000000000000000000000, .wfi h),
    (0x830000000000010000000000, .halt h),
    (0x840000000104000000000000, .tlbinvPage h 1 2),
    (0x840000000004000100000000, .tlbinvVsid h 2),
    (0x840000000000000200000000, .tlbinvAll h),
    (0x840000001000010000000000, .tlbreplay h 16),
    (0x850000000104000000000000, .ldovt h 1 2),
    (0x860000018104000100000000, .ctxsave h 3 1 2 true),
    (0x860000018104010000000000, .ctxload h 3 1 2)] = true := by decide +kernel

/-- R37: one word for each of the checks 1 to 11, and its cause and reason. -/
theorem test_words_refused :
    decodeWord 0x000000000000000000000000 = .bad .illegalOpc 0x01 ∧
    decodeWord 0xFFFFFFFFFFFFFFFFFFFFFFFF = .bad .illegalOpc 0x02 ∧
    decodeWord 0x0E0000000000000000000000 = .bad .illegalOpc 0x03 ∧
    decodeWord 0x010000008206080000000000 = .bad .illegalOpc 0x04 ∧
    decodeWord 0x0B0000008206000600000000 = .bad .illegalOpc 0x05 ∧
    decodeWord 0x010080008206000000000000 = .bad .illegalOpc 0x06 ∧
    decodeWord 0x010000008206000000000001 = .bad .illegalOpc 0x07 ∧
    decodeWord 0x010000008286000000000000 = .bad .illegalOpnd 0x301 ∧
    decodeWord 0x020000008206000000000000 = .bad .illegalOpnd 0x302 ∧
    decodeWord 0x1A0000208200021000000000 = .bad .illegalOpnd 0x103 ∧
    decodeWord 0x640000214300000000000000 = .bad .illegalOpnd 0x204 ∧
    decodeWord 0x180000008200000700000000 = .bad .illegalOpc 0x05 ∧
    decodeWord 0x1A0000210200100000000000 = .bad .illegalOpc 0x04 ∧
    decodeWord 0x80000001800000000000000F = .bad .illegalOpc 0x04 := by decide +kernel
/-! ## Ill-formed terms, one or more for each check of `Instr.wf` -/

/-- Every term is refused. -/
def refuses (l : List Instr) : Bool := l.all fun i => !i.wf

theorem test_wf_size : refuses [.ld h 1 2 3 true 0, .gld h 1 2 3 true 0, .amo h 0 1 2 3 1 0 0, .cas h 1 2 3 0 0 0, .red h 1 2 3 1 0 0] = true := by
  decide
theorem test_wf_group : refuses [.vld h 0 1 2 1 0, .vld h 0 4 2 3 0, .vst h 2 6 2 0, .vldImg h 46 2 2 0, .vstImg h 2 3 1 0,
    .gldV h 0 1 2 1 0, .gstV h 2 2 2 0, .gldImg h 1 2 1 0, .gstImg h 2 47 1 0, .spawn h 9 0 false, .spawnR h 2 3 0 false,
    .vmovgFromG h 2 1 8, .vmovgToG h 63 1, .zread h 2 1 2 0 0, .bfly h 3 6 0 0, .ibfly h 1 6 0 0, .bpermx h 5 0,
    .vfft2 h 7 1 1 false 0] = true := by decide
theorem test_wf_groupSize : refuses [.vst h 2 4 3 0, .vldImg h 4 2 3 0, .vstImg h 2 4 3 0, .gldV h 0 4 2 3 0, .gstV h 2 4 3 0,
    .gldImg h 4 2 3 0, .gstImg h 2 4 3 0, .zread h 4 1 3 0 0] = true := by decide
theorem test_wf_overlap : refuses [.bfly h 2 3 0 0, .ibfly h 2 2 0 0, .vfft2 h 4 5 1 false 0] = true := by decide
theorem test_wf_tags : refuses [.vld h 7 0 2 0 0, .vldl h 0x10 6 8 0 0, .vgath h 0x3F 4 6 2 0, .gldV h 0x10 2 4 0 0, .vtag h 0x10 2 1,
    .vcvt h 0 2 1 1 false 0, .vcvts h 5 2 1 6 1 false 0, .vquant h 2 7 1 6 1 0 0, .vscl h 1 6 1 0, .zmma h 1 0 2 3 0 false,
    .zmmas h 9 0 2 3 0 false, .zmma h 8 0 2 3 0 true, .zmmas h 0x11 0 2 3 0 true, .zstore h 1 4 0 0 512] = true := by decide
theorem test_wf_atomicOps : refuses [.amo h 10 1 2 3 3 0 0, .red h 0 2 3 3 0 0, .red h 10 2 3 3 0 0] = true := by decide
theorem test_wf_scopes : refuses [.amo h 0 1 2 3 3 5 0, .cas h 1 2 3 3 7 0, .red h 1 2 3 3 6 0, .fence h 5 1] = true := by decide
theorem test_wf_rounding : refuses [.fadd h 1 2 3 6 false, .fsub h 1 2 3 7 false, .fmul h 1 2 3 6 true, .fdiv h 1 2 3 7 false,
    .fsqrt h 1 2 6 false, .fma h 1 2 3 7 false, .scvt h 0 4 1 2 6, .vcvt h 2 2 1 6 false 0, .vcvts h 2 2 1 6 7 false 0,
    .vquant h 8 7 1 6 6 0 0, .vdeq h 8 7 6 7 0 0, .vfadd h 2 2 4 (.v 1) 6 false 0 false, .vfsub h 2 2 4 (.v 1) 7 false 0 false,
    .vfmul h 2 2 4 (.v 1) 6 false 0 false, .vfdiv h 2 2 4 (.v 1) 6 false 0 false, .vfma h 2 2 4 (.v 1) 6 false 0 false,
    .vfms h 2 2 4 (.v 1) 6 false 0 false, .vfnma h 2 2 4 (.v 1) 6 false 0 false, .vfnms h 2 2 4 (.v 1) 7 false 0 false,
    .vsqrt h 2 2 4 6 false 0 false, .vrfadd h 2 1 2 7 false 0, .vfft2 h 2 6 6 false 0, .vcmul h 2 6 7 7 false 0 false,
    .zstore h 3 4 5 0 512, .zstore h 2 4 1 0 512] = true := by decide
theorem test_wf_conditions : refuses [.cmp h 1 2 8 false (.reg 3), .fcmp h 1 2 3 5 false, .vcmp h 8 1 2 (.v 3) 6 false 0 false,
    .vfcmp h 2 1 2 (.v 3) 5 false 0 false] = true := by decide
theorem test_wf_chunks : refuses [.vquant h 8 7 1 6 1 4 0, .vquant h 0x11 7 1 6 1 8 0, .vdeq h 8 7 6 1 8 0, .zread h 2 1 1 0 1,
    .zread h 4 1 2 0 2] = true := by decide
theorem test_wf_shifts : refuses [.shl h 1 2 true (.imm 32), .shr h 1 2 true (.imm 63), .shra h 1 2 true (.imm 40), .rol h 1 2 true (.imm 32),
    .ror h 1 2 true (.imm 32)] = true := by decide
theorem test_wf_fields : refuses [.evxcfgR h 7 false 16, .spawn h 8 1 false, .spawnR h 8 9 3 true, .widf h 5 2 6, .rdsys h 3 0x089,
    .rdsys h 3 0x00F, .wrsys h 3 0x088, .wrsys h 3 0x01A, .scvt h 4 4 1 2 1, .vbitrev h 1 2 0, .vbitrev h 1 2 5] = true := by decide
theorem test_wf_integerCodes : refuses [.vadd h 2 1 2 (.v 3) false 0 false, .vsub h 7 1 2 (.v 3) false 0 false, .vadds h 0 1 2 (.v 3) false 0 false,
    .vsubs h 0x10 1 2 (.v 3) false 0 false, .vabs h 0xC 1 2 false 0 false, .vmul h 1 1 2 (.v 3) false 0 false, .vmulh h 0xC 1 2 (.v 3) false 0 false,
    .vmulhn h 8 1 2 (.v 3) false 0 false, .vmin h 0xC 1 2 (.v 3) false 0 false, .vminn h 8 1 2 (.v 3) false 0 false,
    .vmax h 0xF 1 2 (.v 3) false 0 false, .vmaxn h 0xB 1 2 (.v 3) false 0 false, .vcmp h 2 1 2 (.v 3) 0 false 0 false,
    .vshl h 0 1 2 (.v 3) false 0 false, .vshr h 2 1 2 (.v 3) false 0 false, .vshra h 0x11 1 2 (.v 3) false 0 false, .viota h 2 5 2 false 0 false 1,
    .vradd h 2 1 2 false 0, .vrmin h 0 1 2 false 0, .vrmax h 7 1 2 false 0] = true := by decide
theorem test_wf_floatCodes : refuses [.vfadd h 8 2 4 (.v 1) 0 false 0 false, .vfsub h 0 2 4 (.v 1) 0 false 0 false, .vfmul h 5 2 4 (.v 1) 0 false 0 false,
    .vfdiv h 8 2 4 (.v 1) 0 false 0 false, .vfma h 8 2 4 (.v 1) 0 false 0 false, .vfms h 8 2 4 (.v 1) 0 false 0 false,
    .vfnma h 8 2 4 (.v 1) 0 false 0 false, .vfnms h 8 2 4 (.v 1) 0 false 0 false, .vfmin h 8 2 4 (.v 1) false 0 false,
    .vfmax h 0 2 4 (.v 1) false 0 false, .vfabs h 8 2 4 false 0 false, .vfneg h 6 2 4 false 0 false, .vrcp h 1 2 4 false 0 false,
    .vrsq h 1 2 4 false 0 false, .vsqrt h 8 2 4 0 false 0 false, .vexp2 h 1 2 4 false 0 false, .vlog2 h 1 2 4 false 0 false,
    .vfcmp h 8 1 2 (.v 3) 0 false 0 false, .vfclass h 8 1 2 false 0 false, .vrfadd h 8 1 2 0 false 0, .vrfmin h 8 1 2 false 0,
    .vrfmax h 0 1 2 false 0] = true := by decide
theorem test_wf_otherCodes : refuses [.vsel h 0 1 2 3 false 0, .vand h 2 1 2 (.v 3) false 0 false, .vor h 7 1 2 (.v 3) false 0 false,
    .vxor h 0x10 1 2 (.v 3) false 0 false, .vandn h 1 1 2 (.v 3) false 0 false, .vbcast h 0 1 false 0 false (.g 2),
    .vbcast h 0x10 1 false 0 false (.g 2), .vbcast h 0x24 1 false 0 false (.g 2), .vmovgFromG h 5 1 16] = true := by decide

/-! ## States that meet the hypotheses of the statements -/

/-- A state in which core 0 is `c` and all else is as at reset. -/
def st (c : Core) : State := State.reset.setCc c

/-- A core without results in flight, without owed answers and with no word that waits issues any word that has no guard. -/
theorem issues_of (c : Core) (u : Uses) (hf : c.tmg.flights = []) (ho : c.tmg.owed = []) (hi : c.tmg.inside = none) :
    Issues h u (st c) := by
  have e : (st c).cc = c := by simp [st]
  have k (t : Nat) : c.settle t = c.setTmg fun m => { m with flights := [] } := by simp [Core.settle, hf, landUpTo]
  have g (t : Nat) : (c.settle t).guard h = true := by rw [k]; simp [Core.guard, guardReg, h, Core.rdP]; exact .inl rfl
  refine ⟨by rw [e, hi], ?_, ?_⟩
  · rw [e]; simp [Core.falseAt, g, hf]
  · rw [e, k]; simp [Core.awaits, Core.setTmg, ho]

/-- ScalarArithmetic, ScalarFloat, BitsAndMoves, ProductsAndQuotients, ComparisonsAndPredicates and the other statements without a
further condition: the word issues on the reset state. -/
theorem test_witness_issues (u : Uses) : Issues h u (st {}) := issues_of {} u rfl rfl rfl

/-- Such a core at the issue of a word. -/
def iss (u : Uses) (c : Core) : State := issued h 0 0 0 u (st c)

/-- A core whose general registers hold `x` in g1 and `y` in g2. -/
def gs (x y : Word) : Core := { regs := { g := ((Vector.replicate 64 0).set 1 x).set 2 y } }

/-- ProductsAndQuotients: the corners of R114, each clause of the laws on one pair. -/
theorem test_witness_quotients :
    (idivS (5#8) 0 = (0xFF, 5) ∧ idivN (5#8) 0 = (0xFF, 5)) ∧ (idivS (0x80#8) 0xFF = (0x80, 0)) ∧
    (0x80#8 = BitVec.intMin 8 ∧ 0xFF#8 = BitVec.allOnes 8 ∧ (0xFF#8) ≠ 0) ∧
    ((idivS (0xF9#8) 2).1 = 0xFD ∧ (idivS (0xF9#8) 2).2 = 0xFF) ∧ (idivN (0xF9#8) 2 = (0x7C, 1)) := by decide +kernel

/-- Transfers: a register with an aligned target and one with a target that is no multiple of 4; `.lx` with level 1 and with level 0
alone active. -/
theorem test_witness_transfers :
    ((iss { srcs := [opG 1] } (gs 0x100 0)).cc.rdG 1 + sx 12).toNat % 4 = 0 ∧
    ((iss { srcs := [opG 1] } (gs 0x102 0)).cc.rdG 1 + sx 0).toNat % 4 ≠ 0 := by decide +kernel

/-- An active loop level of one pass left over the words from 0x100 to 0x10C. -/
def lvl (count : Word) : LoopLvl := { v := true, len1 := 1, beg := 0x40, count := count }

/-- Loops: a count above zero, a count of zero and two active levels; for each clause of the sequencing, levels that meet it. -/
theorem test_witness_loops :
    ((iss { srcs := [opG 1] } (gs 3 0)).cc.regs.loops[0].v && (iss { srcs := [opG 1] } (gs 3 0)).cc.regs.loops[1].v) = false ∧
    (iss { srcs := [opG 1] } (gs 3 0)).cc.rdG 1 ≠ 0 ∧ (iss { srcs := [opG 1] } (gs 0 0)).cc.rdG 1 = 0 ∧
    (let c : Core := { regs := { loops := ⟨#[lvl 2, lvl 2], rfl⟩ } };
      (iss {} c).cc.regs.loops[0].v = true ∧ (iss {} c).cc.regs.loops[1].v = true) ∧
    (lvl 2).last = 0x10C ∧ (lvl 2).count ≠ 1 ∧ (lvl 1).count = 1 ∧ ({} : LoopLvl).v = false ∧ (0x10C : Word) ≠ ({} : LoopLvl).last := by
  decide +kernel

/-- NopAndTimingModes: both timing modes. -/
theorem test_witness_modes :
    (st { regs := { trap := { tim := true } } }).cc.regs.trap.tim = true ∧ (st {}).cc.regs.trap.tim = false := by decide +kernel

/-- A running gang of cores 0 and 1 that core 0 leads; core 1 has left lock step where `split` names it. -/
def ganged (split : List Nat) : State := (st {}).setCluster 0 { gangs := [{ base := 0, num := 2, split := split }] }

/-- Gangs: operands that R145 forbids, a member of a gang, a core without gang, the leader, and a member that has left lock step. -/
theorem test_witness_gangs :
    badGang (iss {} {}) 0 0 1 = true ∧ badGang (iss {} {}) 0 0 2 = false ∧ ((iss {} {}).gangOf 0).isNone = true ∧
    (iss {} {}).cc.yieldReq = false ∧ badGang (ganged []) 0 0 2 = false ∧ ((ganged []).gangOf 0).isSome = true ∧
    ((ganged []).gangOf 0).map (·.2) = some 0 ∧ ((ganged [1]).gangOf 1).map (fun g => (g.1.split.contains g.2, g.2)) = some (true, 1) ∧
    ((ganged []).gangOf 0).map (fun g => g.1.split.isEmpty) = some true := by decide +kernel

/-- A register of `bits` under a tag, in v1 to v3. -/
def vs (t : Tag) (x y z : VData) : Core :=
  { regs := { v := (((Vector.replicate 48 {}).set 1 ⟨x, t⟩).set 2 ⟨y, t⟩).set 3 ⟨z, t⟩ } }

/-- VectorIntegerForms, VectorFloats, Reductions: sources of the code's format, with and without DST as a source; the formats of each
width. -/
theorem test_witness_vectors :
    Ready { w := 32, tag := codeTag 0xA, lat := 2, allowA := hasCode 0xA, allowB := hasCode 0xA } 3 [1] (some (.v 2))
      (issued h (opV 3) (opV 1) (opV 2) (vUses (opV 3) false [opV 1, opV 2] 0 0) (st (vs 0x0A 1 2 3))) ∧
    Ready { w := 32, tag := codeTag 2, lat := 4, readsD := true, allowA := hasCode 2, allowB := hasCode 2 } 3 [1] (some (.v 2))
      (issued h (opV 3) (opV 1) (opV 2) (vUses (opV 3) true [opV 1, opV 2] 0 0) (st (vs 0x02 1 2 3))) ∧
    Reads (issued h (opV 3) (opV 1) 0 (vUses (opV 3) false [opV 1] 0 0) (st (vs 0x01 1 2 3))).cc 1 (hasCode 1) := by
  refine ⟨⟨?_, ⟨?_, ?_, ?_⟩, ?_, ?_⟩, ⟨?_, ⟨?_, ?_, ?_⟩, ?_, ?_⟩, ?_, ?_, ?_⟩
  case refine_1 | refine_7 => intro r hr; simp only [List.mem_singleton] at hr; subst hr; exact ⟨by decide +kernel, by decide +kernel, by decide +kernel⟩
  all_goals decide +kernel
/-- The start of the own scratchpad (R153). -/
def own : Word := 0x0100000000000000

/-- A port bound to v5: a read stream of four FP32 elements of which `pos` are popped. -/
def port (pos : Nat) : StreamPort := { reg := 5, desc := { base := own, n := [4], s := [4], tag := 2, write := false }, pos := pos }

/-- VectorMovesAndMasks, Conversions, Butterflies: a whole register without stream, an even chunk, a pair of loaded set 0. -/
theorem test_witness_wholeRegisters :
    Whole (issued h (opV 3) (opV 1) 0 { srcs := [opV 1], dsts := [opV 3] } (st (vs 0x0A 1 2 3))).cc 1 ∧
    Whole (issued h (opV 3) 0 0 { srcs := [opG 1, opG 2, opV 3], dsts := [opV 3] } (st (vs 0x10 1 2 3))).cc 3 ∧
    Reads (issued h (opV 3) (opV 1) 0 { srcs := [opV 1], dsts := [opV 3] } (st (vs 0x64 1 2 3))).cc 1 inSetQ ∧
    Reads (issued h (opV 3) (opV 1) 0 { srcs := [opV 1], dsts := [opV 3] } (st (vs 0x02 1 2 3))).cc 1 inSetC ∧
    (3 : Nat) < max (tagWidth 2) (tagWidth 0x64) / min (tagWidth 2) (tagWidth 0x64) := by
  refine ⟨⟨?_, ?_⟩, ⟨?_, ?_⟩, ⟨?_, ?_, ?_⟩, ⟨?_, ?_, ?_⟩, ?_⟩ <;> decide +kernel

/-- StreamForms: a free port and a bound one, an exhausted stream, descriptors of each number of dimensions, and 64 bytes that are a
descriptor. -/
theorem test_witness_streams :
    (st {}).cc.regs.strm[(0 : Fin 4)] = none ∧ (st {}).cc.bound 5 = none ∧ (iss {} {}).rangeHeld own 64 = false ∧
    ((iss {} (gs own 0)).checkSpad own 64 64).toOption = some (.spad true 0 0) ∧
    ((iss {} {}).touch 0 (.spad true 0 0) 64).2 = false ∧
    (parseDesc ((0x010002#512 <<< 0x140) ||| (4#512 <<< 64) ||| (4#512 <<< 192) ||| own.setWidth 512)).isSome = true ∧
    (let c : Core := { regs := { strm := (Vector.replicate 4 none).set 1 (some (port 0)) } };
      c.regs.strm[(1 : Fin 4)] = some (port 0) ∧ (c.bound 5).isSome = true ∧ (port 0).pos < (port 0).desc.count ∧
        0 < (port 0).desc.width ∧ (port 0).desc.width ≤ 1024 ∧ (port 0).desc.count < 2 ^ 63) ∧
    ¬ (port 4).pos < (port 4).desc.count := by decide +kernel

/-- ModularArithmetic, Butterflies: a loaded set whose lanes' moduli are 17, residues below it, an unloaded set, and moduli at both ends
of what R288 allows. -/
theorem test_witness_modular :
    (let c : Core := { vs 0x10 1 2 3 with regs := { (vs 0x10 1 2 3).regs with
        mods := (Vector.replicate 4 {}).set 0 { loaded := true, mq := Vector.replicate 16 17, mc := Vector.replicate 16 (barrett 17) } } };
      c.regs.mods[(0 : Fin 4)].loaded = true ∧ c.regs.mods[(1 : Fin 4)].loaded = false ∧ (c.rdV 1).tag = m64Tag 0 ∧
      isPoison (c.rdV 1).tag = false ∧ c.bound 1 = none) ∧
    modulusOk 3 = true ∧ modulusOk 0x3FFFFFFFFFFFFFFF = true ∧ modulusOk 2 = false ∧ modulusOk 0x4000000000000001 = false ∧
    isN64 0x0F = true ∧ isCf32 5 = true ∧ barrett 17 = 60 := by decide +kernel
/-- LocalScalarForms: an access in the own scratchpad, its last word, a misaligned address, an address outside, and a register of the
event unit that the core may use. -/
theorem test_witness_localScalars :
    ((iss {} {}).rangeHeld (own + 0x17FF8) 8 = false ∧ (iss {} {}).rangeHeld own 1 = false) ∧
    (((iss {} {}).checkLocal 0 true (own + 0x17FF8) 8 1).toOption = some (.spad true 0 0x17FF8) ∧
      ((iss {} {}).touch 0 (.spad true 0 0x17FF8) 8).2 = false ∧ (own + 0x17FF8).toNat % 8 = 0 ∧ (own + 0x17FF9).toNat % 8 ≠ 0) ∧
    ((iss {} {}).checkLocal 0 true (own + 0x17FF9) 8 1).toOption = none ∧
    ((iss {} {}).checkLocal 0 true 0 1 1).toOption = none ∧
    ((iss {} {}).checkLocal 0 true 0x0104000000000000 8 1).toOption = some (.evu 0) ∧ evuOffsetOk 0 = true ∧
    (evuResource 0).all (fun q => !(iss {} { regs := { trap := { sup := true } } }).evuDenied q.1) = true ∧
    (st { regs := { trap := { sup := true } } }).cc.regs.trap.sup = true ∧ State.reset.hbm.wf = true ∧
    ((st {}).core 0).spad.wf = true ∧ ((st {}).die 0).chip.wf = true := by decide +kernel

/-- LocalVectors: a group of four registers and its tag word in the own scratchpad, from the first register and, after a
trap and its handler, from the third; sources that are not POISON, and one that is. -/
theorem test_witness_localVectors :
    (∀ i < 4, (iss {} {}).cc.bound (groupReg 4 i) = none) ∧ (iss {} {}).cc.progress 4 = 0 ∧
    (iss {} { regs := { trap := { xprog := 2 } } }).cc.progress 4 = 2 ∧ (iss {} {}).rangeHeld own 520 = false ∧
    (∀ i < 4, ((iss {} {}).checkVec (own + BitVec.ofNat 64 (128 * i)) 128 8).toOption = some (.spad true 0 (128 * i))) ∧
    ((iss {} {}).checkVec (own + 512) 8 8).toOption = some (.spad true 0 512) ∧
    isPoison ((iss {} (vs 0x02 1 2 3)).cc.rdV 1).tag = false ∧ isPoison ((iss {} (vs 0x3F 1 2 3)).cc.rdV 1).tag = true := by
  decide +kernel

/-- LanesGathersScatters: offsets of all lanes inside their slices, addresses of all lanes in the own scratchpad, a mask that leaves
lanes out. -/
theorem test_witness_lanes :
    (let c := vs 0x0F 0 0x7F8 0;
      (∀ l < 16, (lane (c.rdV 2).bits l + sx 0).toNat < 2048 ∧ (lane (c.rdV 2).bits l + sx 0).toNat % 8 = 0) ∧
      isPoison (c.rdV 2).tag = false ∧ c.bound 2 = none ∧ (c.rdK 1).getLsbD 3 = false ∧ isPoison (c.rdV 1).tag = false) ∧
    (∀ l < 16, (iss {} {}).rangeHeld (own + lane 0x7F8 l) 8 = false) ∧
    (∀ l < 16, ((iss {} {}).checkVec (own + lane 0x7F8 l) 8 8).toOption.isSome = true) := by decide +kernel

/-- A core with translation enabled whose cluster's TLB holds the page of 1 GiB at address 0 with this leaf. -/
def paged (leaf : BitVec 64) : State :=
  (st { xlate := true }).setCluster 0 { l1tlb := [{ vsid := 0, level := 1, vpn := 0, leaf := leaf }] }

/-- GlobalScalarForms, GlobalVectors, Atomics: an access of each kind in a page of each policy, a page without the right, a misaligned
address, one beyond the address space, and one that no TLB holds. -/
theorem test_witness_global :
    (paged 0x1F).rangeHeld 0x40 8 = false ∧
    ((paged 0x1F).xlateChecked 0 0x40 8 8 .read).toOption = some (0x40, 0x1F) ∧ leafPolicy 0x1F = .leased ∧
    ((paged 0x5F).xlateChecked 0 0x3FFFFFF8 8 8 .write).toOption = some (0x3FFFFFF8, 0x5F) ∧ leafPolicy 0x5F = .swm ∧
    ((paged 0x9F).xlateChecked 0 0x40 4 4 .atomic).toOption = some (0x40, 0x9F) ∧ leafPolicy 0x9F = .uc ∧
    (match (paged 0x17).xlateChecked 0 0x40 8 8 .write with | .error (.trap .access 0x40) => true | _ => false) = true ∧
    (match (paged 0x1F).xlateChecked 0 0x41 8 8 .read with | .error (.trap .align 0x41) => true | _ => false) = true ∧
    (match (paged 0x1F).xlateChecked 0 0x00FFFFFFFFFFFFFC 8 8 .read with | .error (.trap .bounds _) => true | _ => false) = true ∧
    (match (paged 0x1F).xlateChecked 0 0x40000000 8 8 .read with | .error (.miss 0x40000000) => true | _ => false) = true ∧
    (paged 0x1F).globalBad 0x40 8 = false ∧ (paged 0x1F).cc.yieldReq = false ∧
    (((paged 0x1F).xlateWords 0 0x80 .read 16).toOption.map List.length) = some 16 ∧ ((paged 0x1F).cc.progress 1) = 0 ∧
    0x40 < Config.hbmBytes ∧ (paged 0x1F).stackLost 0x40 = false ∧ (paged 0x1F).exported 0x40 1 = false ∧
    (paged 0x1F).scopeDenied 0 = false ∧ (0x40 : Word).getLsbD 56 = false ∧ own.getLsbD 56 = true ∧
    ((iss {} {}).checkLocal 0 true own 8 8).toOption = some (.spad true 0 0) ∧
    (List.range 8).any (fun i => (paged 0x1F).scopeDenied (BitVec.ofNat 3 i)) = true := by decide +kernel

/-- A copy of line 0 in cluster 0: software-managed and dirty, or leased. -/
def copied (swm : Bool) : State :=
  (st { lt := 4 }).setCluster 0 { l1d := [{ line := 0, swm := swm, data := 5, dirty := if swm then 1 else 0, wts := 2, rts := 4 }] }

/-- GlobalScalarForms (the page policies), RangesAndLines: copies of a line, an empty range, one that ends with the address space and
one beyond it, and a page that the range's pages are found in. -/
theorem test_witness_lines :
    ((copied true).cluster 0).copy 0 true ≠ none ∧ ((copied true).cluster 0).copy 0 false = none ∧
    (((copied false).cluster 0).copy 0 false).map (fun x => decide (((copied false).core 0).lt ≤ x.rts)) = some true ∧
    (((copied true).cluster 0).copy 0 true).map (·.dirty) = some 1 ∧
    ((gs 0x00FFFFFFFFFFFF80 0x80).rdG 1).toNat + ((gs 0x00FFFFFFFFFFFF80 0x80).rdG 2).toNat ≤ 2 ^ 56 ∧
    2 ^ 56 < ((gs 0x00FFFFFFFFFFFF80 0x81).rdG 1).toNat + ((gs 0x00FFFFFFFFFFFF80 0x81).rdG 2).toNat ∧
    ((gs 0x40 0).rdG 2).toNat = 0 ∧ (paged 0x5F).cc.xlate = true ∧
    tlbFind ((paged 0x5F).cluster 0).l1tlb 0 0x40 = some { vsid := 0, level := 1, vpn := 0, leaf := 0x5F } ∧
    leafOk 0x5F .read true = true ∧ leafOk 0x5F .write true = true := by decide +kernel
/-- The reset state with core 0 a running core in supervisor mode and cluster 0 as given. -/
def evu (k : Cluster) : State := (st { mode := .running, regs := { trap := { sup := true } } }).setCluster 0 k
/-- The same with core 0 in user mode, under partition 3, whose tag the resource `r` carries. -/
def evuUser (r : Nat) : State :=
  (st { mode := .running, ctag := some 3 }).setCluster 0 { rtag := [(r, 3)] }

/-- EventAndCrossbarForms: a line and a mutex that may be used, at both ends of their numbers, and one that may not; a line with events
and none waiting, an empty line, one with a waiter; a free, an own and a foreign mutex; counters and terms. -/
theorem test_witness_events :
    ((evu {}).evuDenied 0 = false ∧ (evu {}).evuDenied 0x3F = false ∧ (evu {}).evuDenied 0x40 = false ∧ (evu {}).evuDenied 0x5F = false) ∧
    ((evuUser 0x3F).evuDenied 0x3F = false ∧ (evuUser 0x3F).evuDenied 0x3E = true ∧ (evuUser 0x3F).evuDenied 0x40 = true) ∧
    (((evu { lines := [(5, { count := 1 })] }).cluster 0).line 5).count ≠ 0 ∧ (((evu {}).cluster 0).line 5).count = 0 ∧
    (((evu { lines := [(5, { waiters := [7] })] }).cluster 0).line 5).waiters = [7] ∧
    (((evu {}).cluster 0).mutex 31).owner = none ∧ (((evu { mtx := [(31, { owner := some 0 })] }).cluster 0).mutex 31).owner = some 0 ∧
    (((evu { mtx := [(31, { owner := some 4, waiters := [6, 7] })] }).cluster 0).mutex 31).owner ≠ some 0 ∧
    (evu {}).coreExists none 0 = true ∧ (evu {}).coreExists none 147455 = true ∧ (evu {}).coreExists none 147456 = false ∧ (evu {}).ofLcn none 0 = some 0 ∧
    ((evu {}).xbarDenied false 15 = false ∧ (evu {}).xbarDenied true 31 = false ∧ (evuUser 0).xbarDenied true 31 = true ∧
      (evuUser 0).xbarDenied false 0 = true) := by decide +kernel

/-- A barrier with cores 0 and 1 as members, or with core 0 alone. -/
def bar (mask : BitVec 24) : State := evu { bars := [(31, { en := true, mask := mask })] }

/-- Barriers: an enabled barrier of which core 0 is a member, one that its arrival completes and one that waits for another; a disabled
one; PHASE in a compute phase, outside one, and in CHECKED mode. -/
theorem test_witness_barriers :
    (bar 1).evuDenied (0x60 + 31) = false ∧ (((bar 1).cluster 0).barrier 31).en = true ∧
    (((bar 1).cluster 0).barrier 31).mask.getLsbD (indexOf 0) = true ∧ (bar 1).cc.yieldReq = false ∧ (bar 1).cc.mode = .running ∧
    (((bar 1).onBarrier 0 31 fun x => { x with arr := 1 }).barrierReady 0 31 = true) ∧
    (((bar 3).onBarrier 0 31 fun x => { x with arr := 1 }).barrierReady 0 31 = false) ∧
    (((bar 1).cluster 0).barrier 31).done = false ∧ (((bar 1).cluster 0).barrier 31).chn = false ∧
    (((bar 1).cluster 0).barrier 30).en = false ∧
    (st { regs := { trap := { tim := true, phase := 1 } } }).cc.regs.trap.phase = 1 ∧
    (st { regs := { trap := { tim := true } } }).cc.regs.trap.phase ≠ 1 ∧ (st {}).cc.regs.trap.tim = false := by decide +kernel

/-- Channels: a free and a declared channel with and without its credit, an owned slot full and empty, one without owner, both kinds of
phase, and a logical core of the core set of partition 3. -/
theorem test_witness_channels :
    (let c : Core := { ctag := some 3, comm := {
        chans := (Vector.replicate 16 none).set 15 (some { dst := 0, slot := 2 }),
        slots := ((Vector.replicate 16 {}).set 15 { owner := some (0, 0), full := true }).set 14 { owner := some (0, 0) } } };
      c.comm.chans[(0 : Fin 16)] = none ∧ c.comm.chans[(15 : Fin 16)] = some { dst := 0, slot := 2, credit := true, pending := false } ∧
      (c.comm.slots[(15 : Fin 16)]).owner ≠ none ∧ (c.comm.slots[(15 : Fin 16)]).full = true ∧
      (c.comm.slots[(14 : Fin 16)]).full = false ∧ (c.comm.slots[(0 : Fin 16)]).owner = none ∧ c.bound 3 = none ∧
      c.regs.trap.phase ≠ 1 ∧ c.yieldReq = false) ∧
    ({ (st { ctag := some 3 }) with run := .running, parts := [(3, { v := true, lcount := 1 })] } : State).inCoreSet 3 0 = true ∧
    (st {}).coreExists (some 3) 0 = true := by decide +kernel

/-- A core in TIMED mode and in a communication phase whose schedule has a send at offset 2 and a receive at offset 8. -/
def timed (clk : Nat) (landing : Option ChanMsg) : Core :=
  { regs := { trap := { tim := true, phase := 2 } }, tmg := { clk := clk },
    comm := { sched := [⟨0, 2, true, 0⟩, ⟨0, 8, false, 1⟩], landing := (Vector.replicate 16 none).set 1 landing } }

/-- A state in which core 0 is such a core at its entry's clk. -/
def timedSt (clk : Nat) (landing : Option ChanMsg) : State := st (timed clk landing)
/-- A message that has landed, and its packet on its way to core 0. -/
def timedMsg : ChanMsg := ⟨0, 0, 5, 0, 3, 8⟩
def timedPacket (due : Nat) : Packet :=
  { id := 1, dst := 0, src := 0, tag := 0, sup := true, due := due, ev := .timedMessageLand 0 1 timedMsg }

/-- TimedCommunication: a send at its entry's clk, to a PEER of this package and to one of another; a receive at its entry's clk of what has
landed, of what is on its way with its clk behind it, and of nothing; a late word, an index beyond the schedule, an entry of the other kind. -/
theorem test_witness_timed :
    (let u : Uses := { srcs := [opV 1] }
      let s := timedSt 2 none
      let s1 := issued h 0 0 (opV 1) u s
      s.cc.regs.trap.tim = true ∧ Issues h u s ∧ Whole s1.cc 1 ∧ s1.cc.regs.trap.phase = 2 ∧ s1.cc.comm.sched[0]? = some ⟨0, 2, true, 0⟩ ∧
      s1.cc.tmg.clk = s1.cc.comm.t0 + 2 ∧ s1.ofLcn s1.cc.ctag 0 = some 0 ∧ s1.ofLcn s1.cc.ctag 20000 = none ∧
      s1.cc.comm.sched[255]? = none ∧ (SchedEntry.mk 0 2 true 0).send ≠ false) ∧
    (let u : Uses := { dsts := [opV 1] }
      let land (s : State) : Option ChanMsg := (s.arriving s.cur 1 s.cc.tmg.clk).or s.cc.comm.landing[(1 : Fin 16)]
      let at_ (s : State) : State := issued h (opV 1) 0 0 u s
      (timedSt 8 none).cc.regs.trap.tim = true ∧ Issues h u (timedSt 8 none) ∧ (at_ (timedSt 8 none)).cc.bound 1 = none ∧
      (at_ (timedSt 8 none)).cc.comm.sched[1]? = some ⟨0, 8, false, 1⟩ ∧
      (at_ (timedSt 8 none)).cc.tmg.clk = (at_ (timedSt 8 none)).cc.comm.t0 + 8 ∧ land (at_ (timedSt 8 none)) = none ∧
      land (at_ (timedSt 8 (some timedMsg))) = some timedMsg ∧ land (at_ { timedSt 8 none with net := [timedPacket 8] }) = some timedMsg ∧
      land (at_ { timedSt 8 none with net := [timedPacket 9] }) = none ∧
      (at_ (timedSt 9 none)).cc.tmg.clk ≠ (at_ (timedSt 9 none)).cc.comm.t0 + 8) ∧
    (st {}).cc.regs.trap.tim = false := by
  refine ⟨⟨?_, issues_of _ _ rfl rfl rfl, ?_, ?_, ?_, ?_, ?_, ?_, ?_, ?_⟩, ⟨?_, issues_of _ _ rfl rfl rfl, ?_, ?_, ?_, ?_, ?_, ?_, ?_, ?_⟩, ?_⟩
  case refine_2 => exact ⟨by decide +kernel, by decide +kernel⟩
  all_goals decide +kernel

/-- Core 0 in a cluster whose share 0, of all 256 rows, is partition 0's; tile 3 as given, and a queue. -/
def arr (z : ZTile) (q : List ZOp) (c : Core) : State :=
  (st c).setCluster 0 { zshare := 0x0000000480000000, shares := (Vector.replicate 2 {}).set 0 { tiles := (Vector.replicate 4 {}).set 3 z, queue := q } }

/-- TileWords: a share, none, a free, an own and a foreign tile, a queue with room, rows before and behind the watermark and the
share's end, a POISON tile, places of rows, a free scale slot. -/
theorem test_witness_tiles :
    Shares (arr {} [] {}) 0 ∧ (tileOf (arr {} [] {}) 0 3).owner = none ∧ Owns (arr { owner := some 0 } [] {}) 0 3 ∧
    (tileOf (arr { owner := some 5 } [] {}) 0 3).owner = some 5 ∧ Room (arr {} [] {}) 0 ∧
    ((st {}).cluster (ownCluster (st {}))).shareOf (st {}).cc.ptag = none ∧ (arr {} [] {}).myRows 0 = 256 ∧
    ((arr {} [] {}).rowPlace 1 own 1024 1024).toOption = some ⟨.spad 0, 0, 1024⟩ ∧
    ((arr { owner := some 0, tag := 2, wm := 256 } [] {}).myShare 0).busy 3 = false ∧
    (tileOf (arr { owner := some 0, tag := 2, wm := 256 } [] {}) 0 3).wm = 256 ∧
    isPoison (tileOf (arr { owner := some 0, tag := 0x3F } [] {}) 0 3).tag = true ∧
    isPoison (((arr { owner := some 0, tag := 0x3F } [] {}).myShare 0).pendingTag 3) = true ∧
    ((arr { owner := some 0, tag := 0x0A } [] {}).myShare 0).pendingTag 3 ≠ mxTile 4 ∧
    (arr {} [] {}).cc.streamOperand [opV 1] = none ∧ (arr {} [] (vs 6 0 0 0)).cc.tagBreach [⟨3, 1, isS10⟩] = none ∧
    ((arr {} [] {}).myShare 0).slotBusy 7 = false := by
  unfold Owns Room Shares; decide +kernel
/-- A core with these bytes in its scratchpad from offset 0 on, g1 and g2 at its start and at 0x8000, and `q` in g3. -/
def withBytes (m : List (Nat × List Byte)) (q : Word) : Core :=
  { regs := { g := (((Vector.replicate 64 0).set 1 own).set 2 (own + 0x8000)).set 3 q }
    spad := m.foldl (fun (x : Mem) (p : Nat × List Byte) => x.setBytes p.1 p.2) [] }

/-- A header with its SPN byte. -/
def header (kind rows cols : Nat) (spn : Byte) : List Byte :=
  (headerBytes 4 kind rows cols 7).take 6 ++ [spn] ++ (headerBytes 4 kind rows cols 7).drop 7

/-- Core 0 owns tile 3, FP32, of a share of 256 rows whose scale slots 3 hold the scales of sequence 7 for K = 96. -/
def mma (a : List Byte) (k : Nat) : State :=
  let sl : ScaleSlot := { seq := 7, valid := 0xFFF }
  (st (withBytes [(0, a), (0x8000, header 2 k 256 0)] 7)).setCluster 0 {
    zshare := 0x0000000480000000, shares := (Vector.replicate 2 {}).set 0 {
      tiles := (Vector.replicate 4 {}).set 3 { owner := some 0, tag := 2 }, aSlots := (Vector.replicate 4 {}).set 3 sl, bSlots := (Vector.replicate 4 {}).set 3 sl } }

/-- MatrixProducts: two FP8 headers at places of the own scratchpad that pass every check, dense with K = 32 and sparse with K = 96, with
the scales of sequence 7. -/
def mmaReady (s : State) (sparse : Bool) : Bool :=
  let ra := s.touch s.cur (.spad false 0 0) 16
  let rb := (ra.1.coreRead s.cur (.spad 0)).touch s.cur (.spad false 0 0x8000) 16
  let r := rb.1.coreRead s.cur (.spad 0)
  let ha := opHeader (r.readPlace 16 (.spad false 0 0))
  let hb := opHeader (r.readPlace 16 (.spad false 0 0x8000))
  let x := r.myShare 0
  ((s.cluster (ownCluster s)).shareOf s.cc.ptag == some 0) && (((s.myShare 0).tiles[(3 : Fin 4)]).owner == some s.cur) &&
    !isPoison ((s.myShare 0).pendingTag 3) && ((s.myShare 0).pendingTag 3 == mxTile 4) &&
    !s.rangeHeld (s.cc.rdG 1) 16 && !s.rangeHeld (s.cc.rdG 2) 16 &&
    ((s.operandPlace (s.cc.rdG 1)).toOption == some (0, 0)) && ((s.operandPlace (s.cc.rdG 2)).toOption == some (0, 0x8000)) &&
    !(s.myShare 0).storeCovers (s.myRows 0) 0 0 && !(s.myShare 0).storeCovers (s.myRows 0) 0 0x8000 && !ra.2 && !rb.2 &&
    (ha.fmt == 4) && (hb.fmt == 4) && aHeaderOk ha sparse (s.myRows 0) 0 && bHeaderOk hb ha.cols 0x8000 &&
    (scaleBreach x (r.myRows 0) (lo (r.cc.rdG 3)) ha hb).isNone && decide (x.waiting.length < 8) && !r.arrayClosed 0

theorem test_witness_products :
    mmaReady (issued h 0 0 0 { srcs := [opG 1, opG 2, opG 3] } (mma (header 0 256 32 0) 32)) false = true ∧
    mmaReady (issued h 0 0 0 { srcs := [opG 1, opG 2, opG 3] } (mma (header 1 256 96 12) 96)) true = true := by decide +kernel

/-- MatrixProducts, the acceptance: a word whose two headers have returned at clk 3 and are sound, with room in the queue; one clk before,
and with a full queue, it waits. -/
theorem test_witness_acceptance :
    let wa : BitVec 128 := ofBytes 128 (header 1 256 96 12)
    let wb : BitVec 128 := ofBytes 128 (header 2 96 256 0)
    let on (clk : Nat) : State :=
      let s := mma (header 1 256 96 12) 96
      s.setCc (s.cc.setTmg fun m => { m with inside := some 0, heads := some (3, wa, wb), clk := clk })
    let s := goingOn h (on 3)
    let ha := opHeader (toBytes 16 wa)
    let hb := opHeader (toBytes 16 wb)
    let x := s.myShare 0
    (on 3).cc.tmg.inside.isSome = true ∧ s.cc.tmg.heads = some (3, wa, wb) ∧ 3 ≤ s.cc.tmg.clk ∧ (goingOn h (on 2)).cc.tmg.clk < 3 ∧
    (x.tiles[(3 : Fin 4)].owner = some 0 ∧ isPoison (x.pendingTag 3) = false ∧ x.pendingTag 3 = mxTile 4) ∧
    (s.operandPlace (s.cc.rdG 1)).toOption = some (0, 0) ∧ (s.operandPlace (s.cc.rdG 2)).toOption = some (0, 0x8000) ∧
    (ha.fmt = 4 ∧ hb.fmt = 4 ∧ aHeaderOk ha true (s.myRows 0) 0 = true ∧ bHeaderOk hb ha.cols 0x8000 = true) ∧
    (scaleBreach x (s.myRows 0) (lo (s.cc.rdG 3)) ha hb).isNone = true ∧ (x.waiting.length < 8 ∧ s.arrayClosed 0 = false) := by
  refine ⟨?_, ?_, ?_, ?_, ?_, ?_, ?_, ?_, ?_, ?_⟩ <;> decide +kernel

/-- A descriptor in the own scratchpad. -/
def withDesc (bs : List (Nat × List Byte)) : State := st (withBytes bs 0)
/-- R385's first example: a copy of 1,024 bytes from 0x0100_0000_0000_1000 to 0x0101_0000_0050_0000 with ESZ 3 and FLG 0x02. -/
def copyDesc : List (Nat × List Byte) :=
  [(0, [1, 3, 2]), (0x18, toBytes 8 (0x0100000000001000#64)), (0x20, toBytes 8 (0x0101000000500000#64)), (0x28, [1]),
   (0x38, toBytes 4 (1024#32))]
/-- What a descriptor form asks of a state, with the descriptor at the start of the own scratchpad. -/
noncomputable def descSound (s : State) (kind : Nat) : Option Bool :=
  let x := descBits (descLen kind) true 0 0 s
  (parseDescriptor x [kind] (s.launchCores s.cur)).bind fun q =>
    if s.rangeHeld (s.cc.rdG 1) (descLen kind) = false ∧ (s.touch s.cur (.spad true 0 0) (descLen kind)).2 = false ∧
        (s.checkLocal s.cur (!s.cc.regs.trap.sup) (s.cc.rdG 1) 64 64).toOption = some (.spad true 0 0) ∧
        (s.checkLocal s.cur (!s.cc.regs.trap.sup) (s.cc.rdG 1) (descLen kind) 64).toOption = some (.spad true 0 0) ∧
        ((s.readPlace 1 (.spad true 0 0)).headD 0).toNat = kind ∧
        s.descBreach s.cur (!s.cc.regs.trap.sup) q (descHdr x) = none ∧ s.cc.eng.cmds.length < 128
      then some q.zero else none

/-- EngineWords, the descriptor forms: each kind with a descriptor that passes the checks, one of zero bytes, one that is malformed and one
that fails a check. -/
theorem test_witness_descriptors :
    let u : Uses := { srcs := [opG 1], dsts := [opG 4] }
    let on (bs : List (Nat × List Byte)) : State := issued h 0 0 0 u (withDesc bs)
    let adr (a : Nat) (x : Word) : Nat × List Byte := (a, toBytes 8 x)
    descSound (on copyDesc) 1 = some false ∧
    descSound (on [(0, [2, 2]), adr 0x18 0x10000, adr 0x20 0x20000, adr 0x28 0x30000, (0x30, [4]), (0x34, [2]), (0x38, [4]), (0x3C, [8])]) 2 =
      some false ∧
    descSound (on [(0, [3, 2]), adr 0x18 0x10000, adr 0x20 0x20000, adr 0x28 0x30000, (0x30, [4]), (0x34, [2]), (0x38, [4]), (0x3C, [8])]) 3 =
      some false ∧
    descSound (on [(0, [4, 3]), adr 0x18 0x10000, (0x20, [8])]) 4 = some false ∧
    descSound (on [(0, [4, 3]), adr 0x18 0x10000]) 4 = some true ∧
    descSound (on [(0, [6, 3]), adr 0x18 0x10000, (0x20, [8])]) 6 = some false ∧
    parseDescriptor (descBits 64 true 0 0 (on [(0, [4, 3, 0x10])])) [4] 0 = none ∧
    ((parseDescriptor (descBits 64 true 0 0 (on [(0, [4, 3]), adr 0x18 0x10004, (0x20, [8])])) [4] 0).bind fun q =>
      (on []).descBreach 0 true q {}) = some (.align, 0x10004) ∧
    ((on copyDesc).readPlace 1 (.spad true 0 0)).headD 0 = 1 ∧ (evuUser 0).xbarDenied true 31 = true ∧
    (evu {}).xbarDenied true 31 = false := by
  refine ⟨?_, ?_, ?_, ?_, ?_, ?_, ?_, ?_, ?_, ?_, ?_⟩ <;> decide +kernel

/-- A collective of a launch of two cores. -/
theorem test_witness_collective :
    let s : State := { (withDesc [(0, [5, 3]), (0x18, toBytes 8 (0x10000#64)), (0x20, toBytes 8 (0x20000#64)), (0x28, [16]),
        (0x3C, [2]), (0x40, [1, 0, 0x0F])]) with launches := [{ vdev := 0, lid := 1, hdr := 0, set := [0, 1] }] }
    descSound (issued h 0 0 0 { srcs := [opG 1], dsts := [opG 4] } (s.setCc { s.cc with lid := some (0, 1) })) 5 = some false := by
  decide +kernel

/-- A core with engines as given and g1 = x. -/
def eng (x : Word) (e : Engines) : Core := { gs x 0 with eng := e }

/-- EngineWords, the waits: a number that has retired with and without a recorded failure; commands in each state; a ring with room. -/
theorem test_witness_engineWaits :
    let c : Cmd := { cls := 0, seq := 1, body := .fill 0 8 3 0 }
    let u : Uses := { srcs := [opG 1], dsts := [opG 4] }
    ((iss u (eng 1 { isq := Vector.replicate 4 2 })).cc.rdG 1).toNat ≤ (iss u (eng 1 { isq := Vector.replicate 4 2 })).cc.eng.retsq 0 ∧
    ((iss u (eng 1 {})).cc.eng.efault[(0 : Fin 4)]).v = false ∧
    (∀ k, k = Cause.access ∨ k = .bounds ∨ k = .poison →
      ((iss u (eng 2 { isq := Vector.replicate 4 2, efault := Vector.replicate 4 { v := true, cause := k.code.setWidth 6, seq := 2 } })).cc.eng.efault[(3 : Fin 4)]).seq.toNat ≤ 2) ∧
    (iss u (eng 1 {})).cmd 0 0 1 = none ∧
    (∀ x, x = CmdState.started ∨ x = .armed 31 ∨ x = .parked 0 ∨ x = .stopped →
      (iss u (eng 1 { cmds := [{ c with st := x }] })).cmd 0 0 1 = some { c with st := x }) := by
  refine ⟨?_, ?_, ?_, ?_, ?_⟩
  · decide +kernel
  · decide +kernel
  · rintro k (rfl | rfl | rfl) <;> decide +kernel
  · decide +kernel
  · rintro x (rfl | rfl | rfl | rfl) <;> decide +kernel

/-- The reset state whose virtual device 0, of core 0, has ring 15 with 64 entries. -/
def ringed (n : Word) (en : Bool) : State :=
  { (st { gs n 0 with ctag := some 1 }) with
    parts := [(1, { v := true, vdev := 0 })], vds := [(0, { rings := [(15, { en := en, log := 6 })] })] }

/-- EngineWords, storage requests: an enabled ring asked for no entry, for as many as it has and for more; one that is not enabled. -/
theorem test_witness_rings :
    let u : Uses := { srcs := [opG 1], dsts := [opG 4] }
    let on (n : Word) (en : Bool) : State := issued h 0 0 0 u (ringed n en)
    (on 0 true).vdOf 0 = some 0 ∧ (Tab.get {} ((on 64 true).vd 0).rings 15).en = true ∧ ((on 64 true).cc.rdG 1).toNat = 64 ∧
    2 ^ (Tab.get {} ((on 64 true).vd 0).rings 15).log = 64 ∧ (on 64 true).pathDone 0 5 = true ∧
    (on 64 true).ringUnread 0 15 + 64 ≤ 64 ∧ (on 64 true).cc.eng.cmds.length + 64 ≤ 128 ∧
    64 < ((on 65 true).cc.rdG 1).toNat ∧ (Tab.get {} ((on 1 false).vd 0).rings 15).en = false := by decide +kernel

/-- EngineWords, FENCE: paths without and with a command in flight, and a package fence over path C at the floor. -/
theorem test_witness_fences :
    let busy : State := iss {} (eng 0 { cmds := [{ cls := 0, seq := 1, body := .fill 0 8 3 0 }] })
    (∀ q < 8, q ≠ 0 → (0xFF : BitVec 8).getLsbD q = true → (iss {} {}).pathDone 0 q = true) ∧
    (((iss {} {}).cc.fenced (fun q => (iss {} {}).pathTime 0 q.val) 0xFF).lt ≤ (iss {} {}).floor) ∧
    (let s := goingOn h (st { tmg := { inside := some 0 }, regs := { trap := { sup := true } } });
      s.scopeDenied 4 = false ∧ (∀ q < 8, q ≠ 0 → s.pathDone 0 q = true) ∧ s.fenceTime 0 0xFF ≤ s.floor) ∧
    (∃ q : Fin 8, q.val ≠ 0 ∧ (0xFF : BitVec 8).getLsbD q.val = true ∧ busy.pathDone 0 q.val = false) ∧
    busy.cc.mayYield = false := by decide +kernel
/-- Core 0 as given, live for partition 1 of virtual device 0, whose page tables map the first GiB to itself, pinned and with every
right; `m` in memory besides. -/
def world (m : List (Nat × List Byte)) (c : Core) : State :=
  { (st { c with ctag := some 1, xlate := true, root := 1, mode := .running }).setCluster 0 { l1tlb := [{ vsid := 0, level := 1, vpn := 0, leaf := 0x3F }] } with
    run := .running, parts := [(1, { v := true, lcount := 1 })], assign := [(0, [some 1])],
    hbm := ((0x10000, toBytes 8 (0x20001#64)) :: (0x20000, toBytes 8 (0x3F#64)) :: m).foldl
      (fun (x : Mem) (p : Nat × List Byte) => x.setBytes p.1 p.2) [] }

/-- A launch of core 0's partition. -/
def launch1 (st : LState) : Launch := { vdev := 0, lid := 1, hdr := 0x01000000000102#1024, state := st, set := [0] }

/-- TaskForms: a header in the own scratchpad that a submission accepts, and a full queue; targets of SPAWN, counts, a queue with room; a
JOIN block in the scratchpad and one in memory; a task with and without a rank, and none; a launch. -/
theorem test_witness_tasks :
    let busy : State := { world [] {} with launches := List.replicate 256 (launch1 .pending) }
    let on (c : Core) : State := issued h 0 0 0 { srcs := [opG 1], dsts := [opG 4] } (world [] c)
    let t : Task := { launch := some (0, 1), wid := 5 }
    ((on (gs own 0)).rangeHeld own 128 = false ∧ ((on (gs own 0)).touch 0 (.spad true 0 0) 128).2 = false ∧
      ((on (gs own 0)).checkLocal 0 true own 128 128).toOption = some (.spad true 0 0)) ∧
    ((world [] {}).submit 0 ((0x01000000000102#1024) ||| (0x1000#1024 <<< 0x1C0)) none 0).2 = 1 ∧
    256 ≤ (busy.launches.filter fun y => y.vdev == 0 && y.state == .pending).length ∧
    (((on (gs 0x40 0)).cc.rdG 1).toNat % 4 = 0 ∧ ((on (gs 0x40 0)).cc.rdG 1).extractLsb' 56 8 = 0 ∧
      ((on {}).queue (localQueue 1 0)).length < 16 ∧ ((on (gs 0x42 0)).cc.rdG 1).toNat % 4 ≠ 0) ∧
    ((on {}).checkLocal 0 true own 48 16).toOption = some (.spad true 0 0) ∧
    ((on {}).xlateChecked 0 0x100 48 16 .atomic).toOption = some (0x100, 0x3F) ∧
    (∀ i < 2, ((on {}).xlateChecked 0 (0x100 + 16 * (BitVec.ofNat 64 i + 1)) 16 16 .atomic).toOption = some (0x100 + 16 * (i + 1), 0x3F)) ∧
    ((on {}).tryEnqueue 0 1 (localQueue 1 0) { cont := {} }).toOption.isSome = true ∧
    (match (iss {} {}).tryEnqueue 0 0 (localQueue 0 0) { cont := {}, dom := 0x80 } with | .error .access => true | _ => false) = true ∧
    ((on {}).readPlace 8 (.spad true 0 0) = List.replicate 8 0#8) ∧
    (∀ i < 3, (on {}).stackLost (0x100 + 16 * i) = false ∧ (on {}).globalBad (0x100 + 16 * i) 16 = false) ∧ (on {}).rangeHeld 0x100 48 = false ∧
    (on { task := some t }).cc.task = some t ∧ (on {}).cc.task = none ∧ t.rank = none ∧
    (({ on { lid := some (0, 1) } with launches := [launch1 .active] } : State).launch? (0, 1)) = some (launch1 .active) ∧
    ((on {}).cc.lid.bind (on {}).launch?) = none ∧ (on {}).coreNum 0 0 = some 0 ∧ (on {}).coreNum 0 1 = none ∧
    (∀ k : Fin 4, (on {}).cc.eng.retsq k = (on {}).cc.eng.isq[k]) ∧ (on {}).cc.doms = [] := by
  refine ⟨?_, ?_, ?_, ?_, ?_, ?_, ?_, ?_, ?_, ?_, ?_, ?_, ?_, ?_, ?_, ?_, ?_, ?_, ?_, ?_, ?_⟩ <;> decide +kernel

/-- A domain record at 0x80, its state, its parent and its NTASK given, with a preserve area of 64 bytes at 0x1000. -/
def domRec (state : Byte) (parent ntask : BitVec 64) : List (Nat × List Byte) :=
  [(0x80, [state]), (0x88, toBytes 8 parent), (0xB0, toBytes 8 (0x1000#64)), (0xB8, toBytes 8 (64#64)), (0xD0, toBytes 8 ntask)]
/-- A state with the record and the domains that the core has opened. -/
def domAt (x y : Word) (ds : List Word) (state : Byte) (parent : BitVec 64) : State :=
  issued h 0 0 0 { srcs := [opG 1, opG 2] } (world (domRec state parent 0) { gs x y with doms := ds })

/-- DomainForms: a closed and an open record, no and eight opened domains, an area with room and without, a range that the core loads, a
record without tasks with and without a parent, an abort that restores. -/
theorem test_witness_domains :
    let rec_ (s : State) : List Byte := ((s.hwRead 0 0x80 128).toOption.map (·.2)).getD []
    let ok {α : Type} (x : Except HwErr α) : Bool := x.toOption.isSome
    recGet (rec_ (domAt 0x80 0 [] 0 0)) 0 1 = 0 ∧ (domAt 0x80 0 [] 0 0).cc.doms.length = 0 ∧
    ok ((domAt 0x80 0 [] 0 0).hwEdit 0 0x80 fun bs => recPut bs 0 1 1) = true ∧
    recGet (rec_ (domAt 0x80 0 [] 1 0)) 0 1 = 1 ∧ (domAt 0x80 0 (List.replicate 8 0x80) 0 0).cc.doms.length = 8 ∧
    ((0x80 : Word).extractLsb' 56 8 = 0 ∧ (0x80 : Word).toNat % 128 = 0 ∧ (0x88 : Word).toNat % 128 ≠ 0) ∧
    ((recGet (rec_ (domAt 0x200 48 [0x80] 1 0)) 0x40 8).toNat + (16 + (48 + 15) / 16 * 16) ≤
      (recGet (rec_ (domAt 0x200 48 [0x80] 1 0)) 0x38 8).toNat ∧
     (recGet (rec_ (domAt 0x200 49 [0x80] 1 0)) 0x38 8).toNat < 16 + (49 + 15) / 16 * 16) ∧
    ((State.globalRun 0 2 0x200 48 (domAt 0x200 48 [0x80] 1 0)).toOption.map fun x => (x.2.1.length, x.2.2)) = some (48, false) ∧
    ((domAt own 48 [0x80] 1 0).checkLocal 0 true own 48 1).toOption = some (.spad true 0 0) ∧
    ((domAt own 48 [0x80] 1 0).touch 0 (.spad true 0 0) 48).2 = false ∧
    ok (State.keepWrite (domAt 0x200 48 [0x80] 1 0) 0 4 0x1000 (List.replicate 64 0#8)) = true ∧
    recGet (rec_ (domAt 0 0 [0x80] 1 0)) 0x50 8 = 0 ∧ recGet (rec_ (domAt 0 0 [0x80] 1 0x100)) 8 8 = 0x100 ∧
    ok ((domAt 0 0 [0x80] 1 0x100).hwAtomic 0 (0x100 + 0x48) id) = true ∧ (domAt 0 0 [0x80] 1 0).audits = [] ∧
    (domAt 0 0 [0x80] 1 0).cc.doms = [0x80] := by
  refine ⟨?_, ?_, ?_, ?_, ?_, ?_, ?_, ?_, ?_, ?_, ?_, ?_, ?_, ?_, ?_, ?_⟩ <;> decide +kernel

/-- DomainForms and TaskForms, aborts: a domain of the core whose abort nothing stops, with no task left on it, whose restore lets the task go
on; the same under a handler of the supervisor, for TEND; a handler without domains, whose task counts on none or on a record that can be
written; and a record that no page holds. -/
theorem test_witness_aborts :
    let aborts (s : State) : Bool := (s.abortStop 0 0x80).isNone &&
      (let t := s.abandonDomain s.cc.ptag 0 0x80 (some 0)
       ((t.domain? s.cc.ptag 0 0x80).all fun bs => recGet bs 0x50 8 == 0) && (t.restoreAborted 0 0x80).2 &&
         (t.restoreAborted 0 0x80).1.cur == s.cur && (t.restoreAborted 0 0x80).1.cc.doms.isEmpty &&
         ((t.restoreAborted 0 0x80).1.cc.task.map (·.inherited)).getD 0 == 0)
    let handler (s : State) (ds : List Word) (inh : Word) : State := s.setCc { s.cc with
      doms := ds, task := some { launch := none, wid := 0, inherited := inh }, regs := { s.cc.regs with trap := { sup := true, exl := true } } }
    aborts (domAt 0 0 [0x80] 1 0) = true ∧ aborts (handler (domAt 0 0 [] 1 0) [0x80] 0) = true ∧
    (handler (domAt 0 0 [] 1 0) [] 0).cc.doms = [] ∧
    ((handler (domAt 0 0 [] 1 0) [] 0x80).hwEdit 0 0x80 (addNtask (-1))).toOption.isSome = true ∧
    (match (iss {} {}).hwReadToEdit 0 0x80 128 with | .error .access => true | _ => false) = true ∧
    (match (iss {} {}).hwEdit 0 0x80 (addNtask (-1)) with | .error .access => true | _ => false) = true := by
  refine ⟨?_, ?_, ?_, ?_, ?_, ?_⟩ <;> decide +kernel
/-- A core in supervisor mode with x in g1 and y in g2. -/
def sup (x y : Word) (exl : Bool) : Core :=
  { regs := { (gs x y).regs with trap := { sup := true, exl := exl, xpc := 0x1000 } } }
/-- The world with it, at the issue of a word. -/
def supAt (m : List (Nat × List Byte)) (c : Core) : State := issued h 0 0 0 { srcs := [opG 1, opG 2], dsts := [opG 4] } (world m c)

/-- SystemRegisterForms: both modes, registers of each kind, a fault buffer and an error queue with and without an entry, GO of SLOTCTL
with a record in memory, and a ZSHARE that changes no busy share. -/
theorem test_witness_systemRegisters :
    let f : FaultSlot := { count := 1, vpn := 0, ptag := 1, kind := 0, level := 0, path := 0, vsid := 0, lcn := 0 }
    let e : DErr := { kind := 6, ptag := 1, core := 0 }
    let on (d : Die) : State := (supAt [] (sup 1 0 false)).setDie 0 d
    (supAt [] (sup 1 0 false)).cc.regs.trap.sup = true ∧ (st {}).cc.regs.trap.sup = false ∧ ((7 : BitVec 12) < 0x80 ∧ (6 : BitVec 12) < 7) ∧
    ((supAt [] {}).die 0).fbuf.findIdx? (fun x => !x.read) = none ∧
    ((on { fbuf := [{ f with read := true }, f] }).die 0).fbuf.findIdx? (fun x => !x.read) = some 1 ∧
    ((on { derrq := [e] }).die 0).derrq = [e] ∧ ((on { derrq := [e] }).die 0).derrWait = [] ∧
    ((on { derrq := [e], derrWait := [(e, some { core := 0 })] }).die 0).derrWait = [(e, some { core := 0 })] ∧ ((supAt [] {}).die 0).derrq = [] ∧ ((supAt [] {}).die 0).doorWait = [] ∧
    (0 : Word).setWidth 3 = (0 : BitVec 3) ∧ (sup 0x1001 0 false).rdG 1 &&& 0x00FFFFFFFFFFFFF0 = 0x1000 ∧
    ((supAt [(0x1000, [1])] (sup 0x1001 0 false)).slotRecord 0 1 0x1000).toOption.isSome = true ∧
    ((supAt [(0x1000, [1])] (sup 0x1001 0 false)).slotRecord 0 1 0x1010).toOption.isSome = true ∧
    ((supAt [] (sup 0x480000000 0 false)).cluster 0).zshareReady 0x480000000 = true := by
  refine ⟨?_, ?_, ?_, ?_, ?_, ?_, ?_, ?_, ?_, ?_, ?_, ?_, ?_, ?_, ?_⟩ <;> decide +kernel

/-- CallsWaitsAndTlbs, TrapEntry: EXL of each value, a pinned record page and none, an aligned and a misaligned XPC, a wait that ends and
one that goes on, a halted core. -/
theorem test_witness_traps :
    (supAt [] (sup 0 0 false)).cc.regs.trap.exl = false ∧ (supAt [] (sup 0 0 true)).cc.regs.trap.exl = true ∧
    (supAt [] (sup 0 0 false)).pinned 0 0x40 = some (0x40, .leased) ∧ (iss {} (sup 0 0 false)).pinned 0 0x40 = none ∧
    ((iss {} (sup 0 0 false)).faultOnFault 0 0x40).cc.yieldReq = false ∧
    (supAt [] (sup 0 0 true)).cc.regs.trap.xpc.toNat % 4 = 0 ∧ (supAt [] (sup 0 0 true)).cc.yieldReq = false ∧
    (supAt [] { regs := { trap := { sup := true, exl := true, xpc := 2 } } }).cc.regs.trap.xpc.toNat % 4 ≠ 0 ∧
    ((supAt [] (sup 0 0 false)).setDie 0 { derrq := [⟨6, 1, 0⟩] }).wfiReady 0 = true ∧ (supAt [] (sup 0 0 false)).wfiReady 0 = false ∧
    ((st { wait := .halted }).core 0).wait = .halted := by
  refine ⟨?_, ?_, ?_, ?_, ?_, ?_, ?_, ?_, ?_, ?_, ?_⟩ <;> decide +kernel

/-- ContextForms: a save that is refused, one that begins, and, as it goes on, one that goes to the glen store, one that changes places
with the context there, and one to an image; loads from the glen store; addresses; a core of each mode; a halted partition. -/
theorem test_witness_contexts :
    let yielded (x y : Word) : Core := { sup x y false with mode := .yielded }
    let at_ (c : Core) : State :=
      let s := supAt [] c
      goingOn h (s.setCc { s.cc with mode := c.mode, saving := some (0, 1), tmg := { s.cc.tmg with inside := some 0 } })
    let x : Ctx := { ptag := 2 }
    let full (s : State) : State := s.setCluster 0 { s.cluster 0 with glen := some x }
    let pages : List (Nat × Policy) := (List.range 80).map fun i => (0x100000 + 65536 * i, .leased)
    (supAt [] (sup 2 0 false)).saveStatus 0 2 true false = some 1 ∧ (supAt [] (sup 1 0 false)).saveStatus 0 1 true false = none ∧
    (supAt [] (sup 1 0 false)).cc.saving = none ∧ (at_ (yielded 1 0)).saveWaits 0 1 = false ∧ (at_ (yielded 1 0)).cc.saving = some (0, 1) ∧
    ((at_ (yielded 1 0)).cluster 0).glen = none ∧ ((0x100000 : Word).toNat % 65536 = 0 ∧ (0x100008 : Word).toNat % 65536 ≠ 0) ∧
    (at_ (yielded 1 0)).saveStatus 0 1 true false = none ∧ (full (at_ (yielded 1 0))).saveStatus 0 1 true true = none ∧
    (let s := full (at_ (yielded 1 0)); let t := s.removeCtx 0 (s.capture 0 1); t.placesOf 0 x = some [] ∧ t.anyLive [] = false) ∧
    ((supAt [] (sup 1 0x100000 false)).imagePlaces 0 0x100000 true).toOption = some pages ∧
    ((supAt [] (sup 1 0x100000 false)).imagePlaces 0 0x100000 false).toOption = some pages ∧
    (supAt [] {}).placesOf 0 x = some [] ∧ (supAt [] {}).anyLive [] = false ∧ (supAt [] {}).anyLive [(0, 0)] = true ∧
    (st { mode := .running }).cc.mode = .running ∧ (st { mode := .faulted }).cc.mode ≠ .running ∧ (st { mode := .faulted }).cc.mode ≠ .idle ∧
    (((world [] {}).partCores 1).filter fun n => ((world [] {}).core n).mode == .faulted) = [] ∧
    (let s : State := (world [] {}).setCore 0 { mode := .faulted, ctag := some 1 };
      (s.partCores 1).filter fun n => (s.core n).mode == .faulted) = [0] := by
  refine ⟨?_, ?_, ?_, ?_, ?_, ?_, ?_, ?_, ?_, ?_, ?_, ?_, ?_, ?_, ?_, ?_, ?_, ?_, ?_, ?_⟩ <;> decide +kernel

/-- Four bytes of a word, lowest first, are the word. -/
theorem ofBytes_four (c : BitVec 32) : ofBytes 64 [c.extractLsb' 0 8, c.extractLsb' 8 8, c.extractLsb' 16 8, c.extractLsb' 24 8] = c.setWidth 64 := by
  apply BitVec.eq_of_getLsbD_eq
  intro i hi
  simp only [ofBytes, BitVec.getLsbD_or, BitVec.getLsbD_shiftLeft, BitVec.getLsbD_setWidth, BitVec.getLsbD_extractLsb']
  rcases Nat.lt_or_ge i 8 with h | h
  · simp [h, hi]
  rcases Nat.lt_or_ge i 16 with h2 | h2
  · have : 8 + (i - 8) = i := by omega
    simp [hi, this, show ¬ i < 8 by omega, show i - 8 < 8 by omega]
    intros; omega
  rcases Nat.lt_or_ge i 24 with h3 | h3
  · have : 16 + (i - 8 - 8) = i := by omega
    simp [hi, this, show ¬ i < 8 by omega, show ¬ i - 8 < 8 by omega, show i - 8 - 8 < 8 by omega, show i - 8 < 64 by omega]
    intros; omega
  rcases Nat.lt_or_ge i 32 with h4 | h4
  · have : 24 + (i - 8 - 8 - 8) = i := by omega
    simp [hi, this, show ¬ i < 8 by omega, show ¬ i - 8 < 8 by omega, show ¬ i - 8 - 8 < 8 by omega, show i - 8 - 8 - 8 < 8 by omega, show i - 8 < 64 by omega, show i - 8 - 8 < 64 by omega, show i - 8 - 8 - 8 < 64 by omega]
  · have : c.getLsbD i = false := BitVec.getLsbD_of_ge c i h4
    simp [this, show ¬ i < 8 by omega, show ¬ i - 8 < 8 by omega, show ¬ i - 8 - 8 < 8 by omega, show ¬ i - 8 - 8 - 8 < 8 by omega]

/-- ContextForms, the image: the bytes that a save writes hold the version, the tag and the check sum of what follows the header, so that a
load knows the context that they are the image of. -/
theorem test_witness_image (s : State) (im : Image) (ht : im.ctx.ptag = 2) (hs : s.images = [im]) :
    s.imageOf (imageHeader im.ctx im.cl 0 (crc32 (imageBody im.stamp)) ++ imageBody im.stamp) 2 = some im := by
  have k0 (c : BitVec 32) (body : List Byte) : (imageHeader im.ctx im.cl 0 c ++ body).drop 64 = body := by
    simp [imageHeader, toBytes, List.range, List.range.loop, List.replicate]
  have k1 (c : BitVec 32) (body : List Byte) : recGet (imageHeader im.ctx im.cl 0 c ++ body) 0 2 = 1 := by
    simp [imageHeader, recGet, toBytes, List.range, List.range.loop]; rfl
  have k2 (c : BitVec 32) (body : List Byte) :
      recGet (imageHeader im.ctx im.cl 0 c ++ body) 2 1 = (2 : PTag).setWidth 64 := by
    simp [imageHeader, recGet, toBytes, List.range, List.range.loop, ht]; rfl
  have k3 (c : BitVec 32) (body : List Byte) : recGet (imageHeader im.ctx im.cl 0 c ++ body) 0x10 4 = c.setWidth 64 := by
    rw [← ofBytes_four]; simp [imageHeader, recGet, toBytes, List.range, List.range.loop]
  unfold State.imageOf
  rw [k0, k1, k2, k3, hs]
  simp [ht]
/-- UnitEvents: a result in flight and none; an access that waits for a walk or is parked and whose page is then known; walks that find a
page and none, for either mode; copies; ports with room, full, exhausted and of a read stream; a term that does not fire. -/
theorem test_witness_units :
    let fl : Flight := { land := 9, locked := true, wr := .g 1 2 }
    let on (c : Core) : State := st c
    let w (c : Core) : State := world [] { c with wait := .walk 0x40, access := some (.gld h 1 2 3 false 0) }
    let full : StreamPort := { port 0 with chunks := List.replicate 4 (0, true) }
    let c1 : Core := { regs := { strm := (Vector.replicate 4 none).set 3 (some (port 0)) } }
    (((on { tmg := { flights := [fl] } }).core 0).tmg.flights.any (·.locked)) = true ∧ ((on {}).core 0).tmg.flights.any (·.locked) = false ∧
    (((on {}).cluster 0).line 63).waiters = [] ∧ (((on {}).cluster 0).barrier 31).arr = 0 ∧ ((on {}).core 0).wait = .none ∧
    ((w {}).core 0).wait = .walk 0x40 ∧ ((w {}).core 0).access = some (.gld h 1 2 3 false 0) ∧ (w {}).gangOf 0 = none ∧
    (((world [] {}).xlateChecked 0 0x40 8 8 .read).toOption = some (0x40, 0x3F) ∧ (world [] {}).rangeHeld 0x40 8 = false ∧
      (world [] {}).readBad 0 0x40 8 .leased = false) ∧
    (w {}).walkers 0 0 0 = [(0, 0x40)] ∧ (w {}).walk 1 0x40 = .page 1 0x3F ∧ (w {}).walk 1 0x40000000 = .fault false 1 ∧
    (((copied true).cluster 0).copy 0 true).isSome = true ∧ ((copied true).cluster 0).copy 0 false = none ∧
    (c1.regs.strm[(3 : Fin 4)] = some (port 0) ∧ c1.regs.strm[(0 : Fin 4)] = none ∧ (port 0).rest ≠ 0 ∧ 4 ≤ full.chunks.length) ∧
    ({ on c1 with cur := 0 } : State).accessHolders ((port 0).accesses fun _ => true) = [] ∧
    (match readChunk (port 0).desc 0 (port 0).rest (on c1) with | .ok (_, _, none) => true | _ => false) = true ∧
    (((on {}).cluster 0).xtermAt 31).fires ((on {}).cluster 0).count = false := by
  refine ⟨?_, ?_, ?_, ?_, ?_, ?_, ?_, ?_, ?_, ?_, ?_, ?_, ?_, ?_, ?_, ?_, ?_, ?_⟩ <;> decide +kernel

/-- MessageEvents: messages that may and may not land; barriers; a claimed, free and foreign slot; a declared channel; a message of the
slot's owner and of another, in a compute phase and outside; an endpoint that is not valid. -/
theorem test_witness_messages :
    let m (sup : Bool) : EvMsg := { cl := 0, dst := 0, line := 63, count := 1, tag := 5, sup := sup, time := 0 }
    let may (s : State) (m : EvMsg) : Bool := m.sup || (s.cluster m.cl).owns m.line.val m.tag
    let own_ : RSlot := { owner := some (0, 2) }
    let c : Core := { comm := {
      chans := (Vector.replicate 16 none).set 2 (some { dst := 0, slot := 15, pending := true }),
      slots := (Vector.replicate 16 {}).set 15 own_ } }
    let msg : ChanMsg := ⟨0, 2, 5, 0, 0, 0⟩
    (may (st {}) (m true) = true ∧ may (st {}) (m false) = false ∧ (((st {}).cluster 0).line 63).waiters = []) ∧
    (((st {}).cluster 0).barrier 31).sent = false ∧ (((st {}).cluster 0).barrier 31).held = [] ∧
    ((((st {}).setCluster 0 { bars := [(31, { sent := true, carr := 1, nch := 1 })] }).cluster 0).barrier 31).sent = true ∧
    (¬ ({ carr := 1, nch := 1 } : Barrier).carr < ({ carr := 1, nch := 1 } : Barrier).nch ∧
      ({ nch := 1 } : Barrier).carr < ({ nch := 1 } : Barrier).nch) ∧
    (((st c).core 0).comm.slots[(15 : Fin 16)]).owner = some (0, 2) ∧ (((st c).core 0).comm.slots[(0 : Fin 16)]).owner = none ∧
    (st c).ofLcn none 0 = some 0 ∧ ((st c).core 0).comm.chans[(2 : Fin 16)] = some { dst := 0, slot := 15, pending := true } ∧
    own_.owner = some (msg.src, msg.ch) ∧ own_.owner ≠ some (msg.src, 3) ∧ ((st c).core 0).regs.trap.phase ≠ 1 ∧
    ((st c).core 0).wait = .none ∧ (st { regs := { trap := { phase := 1 } } }).cc.regs.trap.phase = 1 ∧
    ((st c).core 0).comm.chans[(15 : Fin 16)] = none ∧ (Tab.get 0 ((st {}).vd 31).endpoints 255).getLsbD 0 = false := by
  refine ⟨?_, ?_, ?_, ?_, ?_, ?_, ?_, ?_, ?_, ?_, ?_, ?_, ?_, ?_, ?_, ?_⟩ <;> decide +kernel

/-- ArrayEvents: an empty queue, a queue whose next operation is of each kind, before and at its clk, on a sound and on a POISON tile, one
that meets an unreadable word, one with a row to write, one that still streams, one whose streaming ends with and without a fault of each kind,
one that is done. -/
theorem test_witness_array :
    let m : MmaOp :=
      { sparse := false, scaled := none, fmt := 4, aCore := 0, aOff := 0, bCore := 0, bOff := 0x8000, k := 32, n := 0, sa := {}, sb := {} }
    let o (k : ZKind) : ZOp := { core := 0, tile := 3, kind := k }
    let x (tag : Tag) (o : ZOp) : Share := (arr { owner := some 0, tag := tag } [o] {}).myShare 0
    let st_ : ZKind := .store 2 ⟨.spad 0, 0, 1024⟩ 1 0
    let run : ZOp := { o (.mma m) with started := true, due := 3 }
    let ends (q : ZOp) (clk : Nat) : Bool := (x 2 q).queue.findIdx? (fun q => q.streaming && decide (q.due ≤ clk)) == some 0
    ((arr {} [] {}).myShare 0).pick 256 0 = none ∧ (x 2 (o .free)).pick 256 0 = some 0 ∧ (x 2 (o (.zero 2))).pick 256 0 = some 0 ∧
    ((x 2 (o (.mma m))).pick 256 0 = some 0 ∧ (x 2 (o st_)).pick 256 0 = some 0 ∧ (x 2 { o .free with due := 2 }).pick 256 1 = none ∧
      (x 2 { o .free with due := 2 }).pick 256 2 = some 0) ∧
    (isPoison ((x 0x3F (o (.mma m))).tiles[(3 : Fin 4)]).tag = true ∧ (o (.mma m)).kind.rewrites = false ∧
      isPoison ((x 2 (o st_)).tiles[(3 : Fin 4)]).tag = false) ∧
    (arr {} [] {}).mmaStop 256 m = none ∧ (arr {} [] { spadBad := [2] }).mmaStop 256 m = some (0, 0, 3, 0) ∧
    ((arr {} [] {}).mmaStop 256 { m with fmt := 9, k := 64 }) = none ∧
    ((x 2 { run with streamed := true, next := 1 }).nextRow 256 = some 0 ∧ (x 2 { o st_ with started := true, next := 5 }).nextRow 256 = some 0) ∧
    (((arr {} [] {}).myShare 0).nextRow 256 = none ∧ (x 2 run).nextRow 256 = none) ∧
    (ends run 3 = true ∧ ends run 2 = false ∧ ends { run with stop := some (7, 3, 0) } 3 = true ∧
      ends { run with stop := some (7, 1, 2) } 3 = true) ∧
    ((x 2 { o (.mma m) with done := true }).queue.findIdx? (·.done) = some 0 ∧ (x 2 run).queue.findIdx? (·.done) = none) := by
  refine ⟨?_, ?_, ?_, ?_, ?_, ?_, ?_, ?_, ?_, ?_, ?_, ?_⟩ <;> decide +kernel

/-- A command of core 0 of the world, in its memory's pages. -/
def cmd (b : CmdBody) : Cmd := { cls := 1, seq := 1, body := b, root := 1, xlate := true, lid := some (0, 1), ptag := 1 }

/-- EngineEvents: a command that is done, one that goes on, one that is armed and one that fails; completion words; a group
with too few members and with all of them; pairs; storage requests that are sound and not; an endpoint with and without room. -/
theorem test_witness_engineEvents :
    let f : Cmd := cmd (.fill 0x1000 8 3 0)
    let q : Cmd := cmd (.coll 0x1000 0x2000 16 0 7 2 1 0 0x0F)
    let on (cs : List Cmd) : State := world [(0x4000, [1]), (0x4010, [1]), (0x4020, toBytes 8 (0x5000#64))] { eng := { cmds := cs } }
    let r : StorageReq := storageReq (1#512 ||| (1#512 <<< 128) ||| (0x1000#512 <<< 192) ||| (0x2000#512 <<< 256))
    let p : SumPair := { core := 0, cls := 1, seq := 1, ptag := 1, idx := 0, val := 1 }
    let w : Cmd := { f with prog := 8, hdr := { cw := true, cwa := 0x3000, cwv := 5 } }
    let snd : Cmd := cmd (.send 0 0 1 2)
    let cp : Cmd := { f with cls := 0 }
    let okS {α : Type} (x : Except AStop α) : Bool := x.toOption.isSome
    (on []).cmd 0 1 1 = none ∧ (on [f]).cmd 0 1 1 = some f ∧ f.st = .started ∧
    (on [{ f with st := .failing .bounds 7 }]).cmd 0 1 1 = some { f with st := .failing .bounds 7 } ∧
    (on [f]).dataDone 0 f = false ∧ (on [f]).dataDone 0 { f with prog := 8 } = true ∧
    (match (on [f]).advance 0 f with | .go _ _ => true | _ => false) = true ∧
    ((on [f]).hasEngine 0 f = true ∧ (on (List.replicate 3 { cp with engine := true })).hasEngine 0 { cp with seq := 9 } = false) ∧
    ((on []).cplaOk 0 f 0x3000 = true ∧ (on []).cplaOk 0 f 0x3008 = true ∧ leaves 0x1000 (0x1000 + 8) = false) ∧
    okS ((on [f]).agentStore (f.agent 0) 0x3000 (toBytes 8 (5#64))) = true ∧
    ((on [q]).collPending (0, 1) 7).length = 1 ∧ (readMembers ((on [q]).collPending (0, 1) 7) (on [q])).toOption.isSome = true ∧
    ({ on [q] with sumPairs := [p] } : State).sumPairs = [p] ∧ q.coll = some (7, ⟨0x1000, 0x2000, 16, 0, 2, 1, 0, 0x0F⟩) ∧ 1 < 2 ∧
    ((on [cmd (.coll 0x1000 0x2000 16 0 7 1 1 0 0x0F)]).collPending (0, 1) 7).map (fun m => m.2.coll.map (·.2.p)) = [some 1] ∧
    okS ((on [q]).agentBytes (q.agent 0) 0x2000 8) = true ∧ r.ok = true ∧ (storageReq 0).ok = false ∧
    okS ((on []).storageWork 0 (cmd (.storage 0 15 0 none)) r false) = true ∧
    okS ((on []).readEntry 0 (cmd (.storage 0 15 0 none)) 0 15 0) = true ∧
    ((on [cmd (.storage 0 15 0 none)]).nextUnread 0 15).map (·.1) = some 0 ∧ (on []).nextUnread 0 15 = none ∧
    (w.prog < w.work + 2 ∧ w.dropped = none ∧ (on [w]).ephDenied w = false ∧ (on [w]).cmd 0 1 1 = some w ∧ (on [w]).dataDone 0 w = true) ∧
    okS (((on [w]).handOver w).1.agentStore (((on [w]).handOver w).2.agent 0) w.hdr.cwa (toBytes 8 w.hdr.cwv)) = true ∧
    ({ w with hdr := {} } : Cmd).hdr.cw = false ∧ snd.formed = false ∧ ({ w with hdr := { pul := true } } : Cmd).hdr.pul = true ∧
    ((on [q]).awayCores 1 = [] ∧ (((on [{ q with st := .parked 0 }]).collPending (0, 1) 7).map (·.2.parked)) = [true]) ∧
    ((on []).partAgent 1).isSome = true ∧
    (0 : Nat) - (5 : Nat) < 2 ^ 0 ∧ 2 ^ 0 ≤ (6 : Nat) - 5 := by
  refine ⟨?_, ?_, ?_, ?_, ?_, ?_, ?_, ?_, ?_, ?_, ?_, ?_, ?_, ?_, ?_, ?_, ?_, ?_, ?_, ?_, ?_, ?_, ?_, ?_, ?_, ?_, ?_, ?_, ?_, ?_, ?_⟩ <;> decide +kernel
/-- A well-formed header of partition 1: KIND 1, one field of 8 bits, one work item. -/
def goodHdr : BitVec 1024 := 0x0001000000000101#1024 ||| (8#1024 <<< 64) ||| (1#1024 <<< 0x140)

/-- LaunchEvents: windows on both sides of 0x78; a launch that is malformed, one that is held and one that activates, one that is done and
one that is not; a core that searches, its queues empty and not, the best of two entries; an idle core on both sides of its limit. -/
theorem test_witness_launches :
    let x : Launch := { vdev := 0, lid := 1, hdr := goodHdr }
    let on (ls : List Launch) (c : Core) : State := { world [] c with launches := ls, run := .running }
    let e (prio : Nat) : QEntry := { cont := {}, prio := prio, launch := some (0, 1) }
    let idle : State := (world [] {}).setCore 0 { mode := .idle, ctag := some 1 }
    ((1 : BitVec 7).toNat + 0x77 = 0x78 ∧ 0x78 < (1 : BitVec 7).toNat + 0x78) ∧
    (on [x] {}).launch? (0, 1) = some x ∧ (on [] {}).launch? (0, 1) = none ∧ (on [x] {}).headerBad x 0 = false ∧
    (on [x] {}).headerBad { x with hdr := 0 } 0 = true ∧ x.bulk = false ∧ x.cdrec = 0 ∧
    ((on [x, { x with lid := 2, order := 1 }] {}).launches.any
      fun y => y.state == .pending && y.ptag == x.ptag && decide (y.order < 1)) = true ∧
    ((on [x] {}).launches.any fun y => y.state == .pending && y.ptag == x.ptag && decide (y.order < x.order)) = false ∧
    (on [x] {}).launchDone x = true ∧ ({ on [x] {} with queues := [(.die 1 0, [e 0])] } : State).launchDone x = false ∧
    idle.searching 0 = some 1 ∧ (world [] {}).searching 0 = none ∧
    (idle.searchOrder 1 0 false).all (fun q => (idle.queue q).isEmpty) = true ∧
    (({ idle with queues := [(localQueue 1 0, [e 0])] } : State).searchOrder 1 0 false).find?
      (fun q => !(({ idle with queues := [(localQueue 1 0, [e 0])] } : State).queue q).isEmpty) = some (localQueue 1 0) ∧
    bestEntry [e 1, e 3, e 3] = some 1 ∧ bestEntry [] = none ∧
    ({ idle with clk := 1024 } : State).now = 1024 ∧ ({ idle with clk := 1023 } : State).now = 1023 := by
  refine ⟨?_, ?_, ?_, ?_, ?_, ?_, ?_, ?_, ?_, ?_, ?_, ?_, ?_, ?_, ?_, ?_, ?_, ?_, ?_⟩ <;> decide +kernel

/-- LaunchEvents, the completion: its record and its signal are written through the partition's tables. -/
theorem test_witness_completion :
    let g : Agent := { core := 0, root := 1, vsid := 0, xlate := true, ordered := true }
    let x : Launch := { vdev := 0, lid := 1, hdr := goodHdr }
    (world [] {}).partAgent (((world [] {}).reportTag x).getD 0) = some g ∧
    ((world [] {}).portBusy 3 = false ∧
      ({ world [] {} with ports := { queue := [{ req := 3, v := 0, off := 0, a := .write [1] }] } } : State).portBusy 3 = true) ∧ ((world [] {}).agentStore g 0x1000 (List.replicate 64 0#8)).toOption.isSome = true ∧
    ((world [] {}).agentBytes g 0x2000 8).toOption.isSome = true := by
  refine ⟨?_, ?_, ?_, ?_⟩ <;> decide +kernel

/-- TickAndNetworkEvents: charges with and without a domain, and none; audits with each outcome of the runs; snapshots off and on; a
packet that is fenced off, of the supervisor, to a server, of a foreign tag and of the destination's; a context that is out. -/
theorem test_witness_network :
    let a : Audit := { ptag := 1, record := 0x80, parent := 0, sig := 5, core := 0, launch := none, wid := 0 }
    let k (sup : Bool) (tag : PTag) (dst : Nat) : Packet := { id := 1, dst := dst, src := 0, tag := tag, sup := sup, ev := .channelGrant 0 0 }
    let ch : List Charge := [{ core := 0 }, { core := 0, dom := some (0x80, 1, none, 0) }]
    let s : State := { world [] {} with net := [k false 1 0], charges := ch }
    s.charges = ch ∧ (world [] {}).charges = [] ∧
    (world [] {}).cores.find? (fun e => e.2.failedPhase && !e.2.errStop) = none ∧
    (((world [] { regs := { trap := { exl := true, phase := 2, xcause := Cause.slot.code } }, task := some { rank := some 0 } }).cores.find?
      fun e => e.2.failedPhase && !e.2.errStop).map (·.1)) = some 0 ∧
    (s.replayPlace a (.core 9216) = true ∧ s.replayPlace a (.core 0) = false ∧ (unitCore (.core 1)).isSome = true ∧
      (SuspUnit.core 1 ≠ .core 9216 ∧ SuspUnit.core 1 ≠ .core a.core)) ∧ (5 : BitVec 64) = a.sig ∧ (6 : BitVec 64) ≠ a.sig ∧
    ((world [] {}).vd 0).snapp = 0 ∧ (({ s with vds := [(0, { snapp := 1 })] } : State).vd 0).snapp ≠ 0 ∧
    s.sp.regions.any (fun g => g.v == 0) = false ∧ s.net.find? (fun y => y.id == 1) = some (k false 1 0) ∧
    s.net.find? (fun y => y.id == 2) = none ∧ s.dieFenced 0 = false ∧ ({ s with fenced := [.die 0] } : State).dieFenced 0 = true ∧
    s.isServer 0 = false ∧ s.isServer 23 = true ∧ (1 : PTag) ∈ s.slotsOf 0 ∧ (2 : PTag) ∉ s.slotsOf 0 ∧
    s.deliveryTag (k false 1 0) = some 1 ∧ s.ctxOut 0 1 = false ∧ (s.setCluster 0 { glen := some { ptag := 1 } }).ctxOut 0 1 = true ∧
    s.floor < 2 ^ 62 ∧ (actsOnCore (.channelGrant 0 0) = true ∧ (s.core 0).ctag = some 1 ∧
      ({ s with cores := [] } : State).deliveryTag (k false 1 0) = some 1 ∧ (({ s with cores := [] } : State).core 0).ctag ≠ some 1) ∧
    (s.charges.any (fun y => y.core == 0) = true ∧ s.charges.any (fun y => y.core == 1) = false ∧
      (s.die (dieOf 1)).derrWait.any (fun y => y.1.core == 1) = false ∧ (s.core 0).mode ≠ .idle) := by
  refine ⟨?_, ?_, ?_, ?_, ?_, ?_, ?_, ?_, ?_, ?_, ?_, ?_, ?_, ?_, ?_, ?_, ?_, ?_, ?_, ?_, ?_, ?_, ?_, ?_⟩ <;> decide +kernel

/-- LinkEvents: a new and a repeated frame, sound and with each defect; a digest that agrees and one that does not; both sides of four
lanes. LossEvents: votes on both sides of what is needed; a place in the maps and none; takeovers; a hung core; fenced and unfenced units. -/
theorem test_witness_links :
    let d : LinkDir := {}
    let f : Frame := { seq := 0, items := [.line 5] }
    let s : State := { st {} with dieMap := (List.range 8).map fun i => { v := true, pdie := BitVec.ofNat 4 i } }
    let x (t : Bool) : Takeover := { lost := 0, logical := 0, map := s.dieMap, own := true, peak := 0, ticked := t }
    (f.seq == d.next && decide (d.unacked.length < 64) && !(d.unacked.any fun k => k.seq == f.seq) && fitsFrame f.items) = true ∧
    (({ f with seq := 1 } : Frame).seq == d.next) = false ∧ f.seq = d.expect ∧ d.dict = d.tip ∧
    (some ((255 : BitVec 16), (7 : Word)) : Option (BitVec 16 × Word)) = ({ d with digest := some (255, 7) } : LinkDir).digest ∧
    ((List.range 16).filter fun i => (0x000F : BitVec 16).getLsbD i).length = 4 ∧
    ((List.range 16).filter fun i => (0x0007 : BitVec 16).getLsbD i).length = 3 ∧
    s.dieMap.findIdx? (fun e => e.v && !e.deg && e.place == 7) = some 7 ∧ (st {}).dieMap.findIdx? (fun e => e.v && !e.deg && e.place == 0) = none ∧
    (s.isFenced (.die 0) = false ∧ s.takeover = none ∧ s.spare.sstate = 0 ∧ s.isFenced (.die 8) = false) ∧
    ({ s with takeover := some (x true) } : State).takeover = some (x true) ∧ (x false).ticked = false ∧
    (let t : State := { st { mode := .running } with clk := 2 ^ 24 };
      (t.core 0).mode = .running ∧ (t.core 0).wait.yieldPoint = false ∧ (t.core 0).tmg.clk + 2 ^ 24 ≤ t.now) ∧
    (st { mode := .fenced }).cc.mode = .fenced ∧ s.slotsOf 0 = [] ∧
    ({ s with fenced := [.cluster 0, .l2Slice 0 47, .stack 15] } : State).isFenced (.l2Slice 0 47) = true ∧
    s.logicalDie 7 = some 7 ∧ s.logicalDie 8 = none ∧ (0 : Fin 2) ∉ s.ports.ioLost ∧
    ((List.range 8).filter (fun i => s.servingDie i == 7) = [7] ∧ (∀ i < 8, s.servingDie i ≠ 8) ∧ s.servingSlice 7 47 = some 47 ∧
      ({ s with fenced := [.l2Slice 7 47] } : State).servingSlice 7 47 = some 0) ∧
    (Slots.valid (Tab.get [] ({ s with assign := [(5, [some 1])] } : State).assign 5) ≠ [] ∧ Slots.valid (Tab.get [] s.assign 5) = [] ∧
      s.sp.layout = none) ∧
    (d.unacked = [] ∧ ({ d with unacked := [{ seq := 0, items := [], recs := [] }] } : LinkDir).unacked ≠ [] ∧ ({ d with noted := true } : LinkDir).noted = true) := by
  refine ⟨?_, ?_, ?_, ?_, ?_, ?_, ?_, ?_, ?_, ?_, ?_, ?_, ?_, ?_, ?_, ?_, ?_, ?_, ?_, ?_, ?_, ?_⟩ <;> decide +kernel

/-- R503, R504: a frame with a header flit and two lines, the first one ZERO and the second one REPEAT, as it arrives: LEN 2, and the
payload ends in padding. A DIFF record with three bytes has 20 (R508), and a record with bits set that are zero is none. -/
theorem test_frame_bytes :
    let f : Frame := { seq := 7, items := [.flit 0x0F, .line 0, .line 5] }
    let w := arrivedFrame f { seq := 7, items := f.items, recs := [.zero, .rep] } 9
    w.2 = [15, 0, 0, 0, 0, 0, 0, 0, 0, 0, 0, 0, 0, 0, 0, 0, 0x40, 0xC0, 0, 0, 0, 0, 0, 0, 0, 0, 0, 0, 0, 0, 0, 0] ∧
    headSeq w.1 = 7 ∧ headAcke w.1 = 9 ∧ headKind w.1 = 0 ∧ headLen w.1 = 2 ∧ soundFrame w.1 w.2 = true ∧
    parseItems f.items w.2 = some ([0x0F], [.zero, .rep]) ∧ (LineRec.diff 5 0x7 [1, 2, 3]).bytes.length = 20 ∧
    parseRec ((LineRec.diff 5 0x7 [1, 2, 3]).bytes ++ [9]) = some (.diff 5 0x7 [1, 2, 3], [9]) ∧ parseRec [0x41] = none := by
  refine ⟨?_, ?_, ?_, ?_, ?_, ?_, ?_, ?_, ?_, ?_⟩ <;> decide +kernel

/-- LinkEvents: a frame with a bit turned over in its header flit has a wrong FCRC; one that is sound and has another number than the
receiver expects; one that decodes at a receiver whose last line differs, against its LCRC. -/
theorem test_witness_frames :
    let w (l : BitVec 1024) (h : BitVec 128) := arrivedFrame { seq := 0, items := [.line l], headErr := h }
      { seq := 0, items := [.line l], recs := [if l = 0 then LineRec.zero else .rep] } 0
    soundFrame (w 0 1).1 (w 0 1).2 = false ∧
    (soundFrame (w 0 0).1 (w 0 0).2 = true ∧ headKind (w 0 0).1 = 0 ∧ headSeq (w 0 0).1 ≠ ({ expect := 1 } : LinkDir).expect) ∧
    (soundFrame (w 5 0).1 (w 5 0).2 = true ∧ headKind (w 5 0).1 = 0 ∧ headSeq (w 5 0).1 = ({} : LinkDir).expect ∧
      parseItems [.line 5] (w 5 0).2 = some ([], [.rep]) ∧
      Dict.decodeAll { ll := 7 } [.rep] = some (({ ll := 7 } : Dict), [7]) ∧ linesCrc [7] ≠ headLcrc (w 5 0).1) := by
  refine ⟨?_, ⟨?_, ?_, ?_⟩, ?_, ?_, ?_, ?_, ?_, ?_⟩ <;> decide +kernel
/-- PortEvents: a write of PWCTL for the device's own partition and for another; an access at hand and none, a write of the launch window
that has waited, accesses inside the window and beyond it; host accesses inside the exposed range and beyond; an exported range and an access
that it does not hold. -/
theorem test_witness_ports :
    let q (off : Nat) : PortReq := { req := 3, v := 0, off := off, a := .write [7] }
    let w : PortReq := { q 0x7F with req := 5, launch := true }
    let s (off : Nat) : State := { world [] {} with
      vds := [(0, { pwctl := (1 <<< 63) ||| (1 <<< 56) })],
      ports := { queue := [q off, w], exportTab := [(0, (1, 0x1000))], cxlhdm := (1 <<< 63) ||| (1 <<< 40) } }
    let d := (s 0).vd 0
    ((s 0).part 1).v = true ∧ ((s 0).part 1).vdev.toNat = 0 ∧ ((s 0).part 2).v = false ∧
    ((s 0).ports.queue.find? (fun y => y.req == 3) = some (q 0) ∧ (q 0).launch = false) ∧
    ((s 0).ports.queue.find? (fun y => y.req == 5) = some w ∧ w.launch = true ∧ w.a = .write [7]) ∧
    ((s 0).ports.queue.find? (fun y => y.req == 4) = none ∧ (s 0).portBusy 3 = true ∧ (s 0).portBusy 4 = false) ∧ d.pwctl.getLsbD 63 = true ∧
    accessBytes (q 0).a ≤ 2 ^ 56 ∧ ((world [] {}).vd 0).pwctl.getLsbD 63 = false ∧ ((s 0).partAgent (d.pwctl.extractLsb' 56 6)).isSome = true ∧
    (((s 0).partAgent 1).bind fun g => (((s 0).agentStore g 0 [7]).toOption.map fun _ => true)) = some true ∧
    (((s 0).partAgent 1).bind fun g => (((s 0).agentBytes g 0 8).toOption.map fun _ => true)) = some true ∧
    ((s 0).ports.cxlhdm.getLsbD 63 = true ∧ 2 ^ 30 - 8 + accessBytes (.read 8) ≤ ((s 0).ports.cxlhdm.extractLsb' 40 8).toNat * 2 ^ 30 ∧
      ¬ 2 ^ 30 - 7 + accessBytes (.read 8) ≤ ((s 0).ports.cxlhdm.extractLsb' 40 8).toNat * 2 ^ 30) ∧
    (s 0).globalBad 0 8 = false ∧ ({ s 0 with hbmBad := [0] } : State).globalBad 0 8 = true ∧ (s 0).exported 0xFF8 8 = true ∧
    (s 0).exported 0xFF9 8 = false ∧ physOk 0xFF8 = true := by
  refine ⟨?_, ?_, ?_, ?_, ?_, ?_, ?_, ?_, ?_, ?_, ?_, ?_, ?_, ?_, ?_, ?_, ?_, ?_⟩ <;> decide +kernel

/-- A state whose first mailbox holds a request. -/
def asked (q : BitVec 512) : State := { world [] {} with sp := { mbox := (Vector.replicate 2 {}).set 0 { req := q } } }
/-- A protection request of one data member and one parity member, member 0's, on trays `t` and 1. -/
def protReq (t : BitVec 512) : BitVec 512 :=
  2#512 ||| (1#512 <<< 24) ||| (0x200000#512 <<< 128) ||| (1#512 <<< 0xE0) ||| (1#512 <<< 0xE8) ||| (0x10#512 <<< 0x180) |||
    (t <<< 0x1A8) ||| (1#512 <<< 0x1B0)

/-- LayoutEvents: a layout that is malformed, one that is valid; requests in each step, of either processor; protection requests that are
malformed, complete, refused for their trays and waiting; server masks; attestation; watchdog resets on both sides of three. -/
theorem test_witness_layouts :
    let x (step : LayoutStep) : Layout :=
      { sp := 0, req := 1, step := step, affected := [], assign := [], parts := [], vds := [], slices := [] }
    let mask (b : Byte) : State := world ((List.range 9).map fun i => (0x30000 + 144 * i, [b])) {}
    layoutRecord 1 = true ∧ layoutRecord 2 = false ∧ (world [] {}).layoutValid (x .saving) = true ∧ protField 1 1 1 = 0 ∧
    (asked 1).sp.layout = none ∧ (asked 1).sp.mbox[partner 0].busy = false ∧ (world [] {}).liveDies [] = [] ∧ (world [] {}).liveDies [1] ≠ [] ∧
    (protValid (protReq 0) = true ∧ protValid 0 = false) ∧ protOutcome (protReq 0) [] = none ∧ protOutcome (protReq 1) [] = some 4 ∧
    protOutcome (protReq 0) [{ pkg := 1, req := protReq 0 ||| (1#512 <<< 0xF0) }] = some 0 ∧
    maskValid (ofBytes 10368 ((mask 1).physBytes 0x30000 1296)) = true ∧ maskValid (ofBytes 10368 ((mask 0).physBytes 0x30000 1296)) = false ∧
    (protField 3 0 1 = 3 ∧ reqZero 3 1 3 = true ∧ protField 3 0x30 1 < 32 ∧ reqZero 3 0x31 15 = true) ∧
    (asked 1).committed 1 = false ∧
    ({ asked 1 with sp := { (asked 1).sp with journal := Vector.replicate 2 { commit := some (journalRecord 1) } } } : State).committed 1 = true ∧
    (asked 1).awaitsRestore (x .restoring) = false ∧
    ({ asked 1 with images := [{ cl := 0, ctx := { ptag := 1 }, stamp := 0, floor := 0 }] } : State).awaitsRestore
      { x .restoring with affected := [1] } = true ∧
    (asked 1).sp.resets.length < 2 ∧ (asked 1).sp.prot = [] ∧
    (((asked 1).sp.remaps = [] ∧ ({ asked 1 with sp := { (asked 1).sp with remaps := [5] } } : State).sp.remaps ≠ []) ∧
      ({ asked 1 with sp := { (asked 1).sp with mbox := (Vector.replicate 2 {}).set 1 { busy := true } } } : State).sp.mbox[partner 0].busy = true ∧
      (x .restoring).own = false) ∧
    (let w : ProtWait := { sp := 0, req := protReq 0, tick := 5 };
      (decide (w.tick + 1000000 ≤ 1000005) = true ∧ decide (w.tick + 1000000 ≤ 1000004) = false) ∧
      [w].filter (fun (y : ProtWait) => y.req.extractLsb' (8 * 0x18) 32 == (protReq 0).extractLsb' (8 * 0x18) 32 && decide (y.tick + 1000000 ≤ 1000005)) = [w]) ∧
    (let p : Part := { v := true, evdrop := 3, tagdrop := 4 };
      p.v = true ∧ ({} : Part).v = false ∧ (({} : Part).install p).evdrop = 0 ∧ (p.install { p with evdrop := 0 }).evdrop = 3) := by
  refine ⟨?_, ?_, ?_, ?_, ?_, ?_, ?_, ?_, ?_, ?_, ?_, ?_, ?_, ?_, ?_, ?_, ?_, ?_, ?_, ?_, ?_, ?_, ?_, ?_⟩ <;> decide +kernel

/-- RepairAndPowerEvents: rows to repair and none; a unit that is in service, one that is drained; a region of a data member and of a parity
member, with an epoch that has started and none; losses within the parity and beyond it; bring-up with each of its conditions. -/
theorem test_witness_repair :
    let r (rank : BitVec 512) : Region := { v := 0, req := protReq 0 ||| (rank <<< 0xF0) }
    let s (x : Region) : State := { world [] {} with sp := { regions := [x], repairs := [{ stack := 15, chan := 1, bank := 1, row := 1 }] } }
    ((s (r 0)).sp.repairs.filter fun a => a.stack == 15 && !a.soft && !a.asked) ≠ [] ∧
    ((s (r 0)).sp.repairs.filter fun a => a.stack == 0 && !a.soft && !a.asked) = [] ∧
    (s (r 0)).drained (.core 5) = false ∧ ({ s (r 0) with drains := [.core 5] } : State).drained (.core 5) = true ∧ (s (r 0)).committing = false ∧
    (s (r 0)).sp.regions.find? (fun y => y.gid == 0) = some (r 0) ∧ (s (r 0)).sp.regions.find? (fun y => y.gid == 1) = none ∧
    (r 0).rank < (r 0).ndata ∧ (r 1).ndata ≤ (r 1).rank ∧ (r 0).started = none ∧
    ((s { r 0 with started := some { hbm := [], bad := [] } }).sp.regions.find? (fun y => y.gid == 0)).map (·.started.isSome) = some true ∧
    ((s (r 1)).writeMember (r 1) 1 []).toOption.isSome = true ∧
    ((s (r 1)).copyHalf { r 1 with req := (r 1).req ^^^ (0x200000#512 <<< 128) } 1).toOption.isSome = true ∧ (0 : Nat) ∉ [1] ∧ (r 0).npar < [0, 1].eraseDups.length ∧
    [0].eraseDups.length ≤ (r 0).npar ∧ State.reset.run = .held := by
  refine ⟨?_, ?_, ?_, ?_, ?_, ?_, ?_, ?_, ?_, ?_, ?_, ?_, ?_, ?_, ?_, ?_, ?_⟩ <;> decide +kernel

/-- RepairAndPowerEvents: with no image that is verified there is none to start with; a verified one, supplied after one that is not, is
what a package starts with whose own is not. -/
theorem test_witness_start (x : List Byte) (hx : imageGood x = true) (y : ServiceProc) (hy : imageGood y.image = false) :
    y.startImage [[]] = none ∧ y.startImage [[], x] = some x := by
  have e : imageGood [] = false := by decide
  simp [ServiceProc.startImage, hy, e, hx]
theorem test_witness_noImage : ({ image := [] } : ServiceProc).startImage [[]] = none := by
  have e : imageGood [] = false := by decide
  simp [ServiceProc.startImage, e]

/-- RepairAndPowerEvents: a region with an epoch that waits behind the running one, and one without. -/
theorem test_witness_again :
    let r : Region := { v := 0, req := protReq 0, started := some { hbm := [], bad := [] } }
    r.again = [] ∧ ({ r with again := [[⟨0, 0, [1, 0]⟩]] } : Region).again = [⟨0, 0, [1, 0]⟩] :: [] ∧ r.started ≠ none := by
  decide +kernel
/-- A running core at address 0x40000, whose memory holds a word there, and whose cluster translates its page. -/
def atWord (w : IWord) (c : Core) : State :=
  (world [(0x40000, bytesOfWord w)] { c with regs := { c.regs with pc := 0x40000 } }).setCluster 0
    { l1tlb := [{ vsid := 0, level := 1, vpn := 0, leaf := 0x001000000000003F }] }
/-- What a step gives. -/
noncomputable def after (s : State) : Option State := match step s with
  | .next t => some t
  | _ => none

/-- StepRunsDecodedWord, ScalarFrames, FalseGuards, DecodeEncode, DecodeRefusals: the agenda names a core that issues, with a word that
decodes and one that does not; a place where no word can be fetched; a word whose guard is false. -/
theorem test_witness_steps :
    let s : State := { atWord 0x013008808206000000000000 {} with agenda := [.core 0] }
    let fetched (s : State) : Option (List Byte) := match (State.atFetch s 0).fetch with | .bytes _ bs => some bs | _ => none
    s.runnable 0 = true ∧ (atWord 0 {}).runnable 0 = true ∧ (st {}).runnable 0 = false ∧
    s.holdsBad 0 = [] ∧ (atWord 0 { vecBad := [7] }).holdsBad 0 = [0] ∧
    (((atWord 0 { vecBad := [7] }).foundBad 0).core 0).rdV 7 = { ((atWord 0 {}).core 0).rdV 7 with tag := poisonTag } ∧
    ((fetched s).map fun bs => match decodeBytes bs with | .ok (.add h 1 2 3 false) => h.grd == 3 | _ => false) = some true ∧
    ((fetched (atWord 0 {})).map fun bs => match decodeBytes bs with | .bad .illegalOpc x => x == 1 | _ => false) = some true ∧
    (match (State.atFetch (st { regs := { pc := 0x0200000000000000 } }) 0).fetch with | .trap _ _ _ => true | _ => false) = true ∧
    (Instr.add { h with grd := 8 } 1 2 3 false).wf = true ∧ (encodeRaw (.add { h with grd := 8 } 1 2 3 false)).map (·.grd) = some 8 ∧
    (encodeRaw (.tsend { h with grd := 8 } 1 2)).map (·.opc) = some 0x34 ∧ (st {}).stopWork = none ∧
    ((atWord 0 {}).pending = [] ∧ (atWord 0 {}).agenda = []) ∧ ((atWord 0 {}).firstTurn.map (·.1)) = some 0 ∧
    (atWord 0 {}).dueWork 0 = none ∧ ((atWord 0 {}).dueWork 3600).map (·.2) = some (.event .saddleTick) ∧
    ((atWord 0 { tmg := { clk := 900 } }).firstTurn.map (·.1)) = some 3600 ∧ ((State.atFetch s 0).followers 0 = []) ∧ (encode (.add h 1 2 3 false)).isSome = true ∧ (0xFF : Nat) ∉ usedOpcodes := by
  refine ⟨?_, ?_, ?_, ?_, ?_, ?_, ?_, ?_, ?_, ?_, ?_, ?_, ?_, ?_, ?_, ?_, ?_, ?_, ?_, ?_⟩ <;> decide +kernel

/-- StepRunsDecodedWord: a lock-step member that owes its leader a word and one that owes none, a leader with such a member, and a gang whose
leader's word goes on to its members; a takeover before and after its tick, and in a package that has shut down; events for a package that is
dark and for one that is not. -/
theorem test_witness_gangSteps :
    let g (c : Core) : State := (ganged []).setCore 1 c
    let due : Core := { behind := true, owes := some (.nop h) }
    let x (b : Bool) : Takeover := { lost := 0, logical := 0, map := [], own := true, peak := 0, ticked := b }
    let s (r : RunState) (b : Bool) : State := { st {} with run := r, takeover := some (x b) }
    (g due).owedWord 1 = some (.nop h) ∧ (g {}).owedWord 1 = none ∧ (g due).owedWord 0 = none ∧ (g due).owing 0 = true ∧ (g {}).owing 0 = false ∧
    gangFollows (g {}) 0 ((g {}).setCore 0 { tmg := { words := 1 } }) = true ∧ gangFollows (st {}) 0 (st {}) = false ∧
    (s .running true).stopWork = some (0, .dieMapFlip) ∧ (s .running false).stopWork = some (800, .saddleTick) ∧
    (s .shutDown true).stopWork = none ∧ (s .shutDown true).dark (.packetEject 0) = true ∧ (s .shutDown true).dark .packageReset = false ∧
    (s .running true).dark (.packetEject 0) = false := by
  refine ⟨?_, ?_, ?_, ?_, ?_, ?_, ?_, ?_, ?_, ?_, ?_, ?_, ?_⟩ <;> decide +kernel

/-- MemoryBytes, MemoryFormKept, ResetState: reset has the form. -/
theorem test_reset_form : State.reset.hbm.wf = true ∧ State.reset.fabric.wf = true ∧ Mem.wf [(3, 1), (4, 2)] = true := by decide +kernel

/-! ## Steps and functions of the spec's examples -/

/-- The core after the step that runs a word, seen after every result has landed. -/
noncomputable def runs (w : IWord) (c : Core) : Core := match after (atWord w c) with
  | some t => t.cc.drain
  | none => {}
/-- The word of an instruction. -/
def word (i : Instr) : IWord := (encode i).getD 0
/-- A core that holds these general registers. -/
def regs (l : List (GReg × Word)) : Core := l.foldl (fun (c : Core) (p : GReg × Word) => c.wrG p.1 p.2) {}
/-- A core whose vector registers hold these bits in every element of 64, under a tag. -/
def vregs (t : Tag) (l : List (VReg × Word)) : Core :=
  l.foldl (fun (c : Core) (p : VReg × Word) =>
    c.wrV p.1 ⟨(List.range 16).foldl (fun (x : VData) i => x ||| (p.2.setWidth 1024 <<< (64 * i))) 0, t⟩) {}

/-- R111: a sum wraps, and a source may be the destination; R16: the next word stands 12 bytes on. -/
theorem test_add_wraps :
    let c := runs (word (.add h 2 2 3 false)) (regs [(2, BitVec.allOnes 64), (3, 2)]);
    c.rdG 2 = 1 ∧ c.rdG 3 = 2 ∧ c.regs.pc = 0x4000C := by decide +kernel
/-- R34: a write of g0 is discarded. -/
theorem test_g0_stays : (runs (word (.add h 0 2 3 false)) (regs [(2, 5), (3, 2)])).rdG 0 = 0 := by decide +kernel
/-- R114's example: the most negative number by -1, and a division by zero. -/
theorem test_div :
    (runs (word (.div h 5 2 3 false)) (regs [(2, 0x8000000000000000), (3, 0xFFFFFFFFFFFFFFFF)])).rdG 5 = 0x8000000000000000 ∧
    (runs (word (.divn h 7 2 4 false)) (regs [(2, 0x8000000000000000)])).rdG 7 = 0xFFFFFFFFFFFFFFFF ∧
    (runs (word (.remn h 8 2 4 false)) (regs [(2, 0x8000000000000000)])).rdG 8 = 0x8000000000000000 := by
  refine ⟨?_, ?_, ?_⟩ <;> decide +kernel
/-- The same example, of the low words: -7 / 2. -/
theorem test_div_w :
    (runs (word (.div h 9 10 11 true)) (regs [(10, 0xFFFFFFFFFFFFFFF9), (11, 2)])).rdG 9 = 0xFFFFFFFFFFFFFFFD ∧
    (runs (word (.rem h 12 10 11 true)) (regs [(10, 0xFFFFFFFFFFFFFFF9), (11, 2)])).rdG 12 = 0xFFFFFFFFFFFFFFFF := by
  refine ⟨?_, ?_⟩ <;> decide +kernel
/-- The floating-point example of chapter 4: one rounding of the exact product and sum, and NX. -/
theorem test_fma :
    let c := runs (word (.fma h 4 2 2 1 false)) (regs [(2, 0x3FF0000000000001), (4, 0x3FF0000000000001)]);
    c.rdG 4 = 0x4000000000000002 ∧ c.regs.fp.fflags = 1 := by decide +kernel
/-- The same example: an exact difference, and a zero whose sign the mode gives. -/
theorem test_fadd_fsub :
    (let c := runs (word (.fadd h 5 2 3 1 false)) (regs [(2, 0x3FF0000000000001), (3, 0xBFF0000000000000)]);
      c.rdG 5 = 0x3CB0000000000000 ∧ c.regs.fp.fflags = 0) ∧
    (runs (word (.fsub h 6 3 3 4 false)) (regs [(3, 0xBFF0000000000000)])).rdG 6 = 0x8000000000000000 := by
  refine ⟨?_, ?_⟩ <;> decide +kernel
/-- The example of chapter 3: 0x3FA02000 lies above the midpoint of 1.0 and 1.5 in binary4p2. -/
theorem test_vcvt :
    let c := runs 0x3800002141002A0100000000 (vregs 0x02 [(1, 0x3FA020003FA02000)]);
    c.rdV 2 = ⟨(0x55555555555555555555555555555555 : BitVec 128).setWidth 1024, 0x2A⟩ ∧ c.regs.fp.fflags = 1 := by decide +kernel
/-- The example of chapter 3's scaled conversions: quantizing 500 and 1.0 by the scale 2.5. -/
theorem test_vquant :
    let v (c : Core) (r : VReg) (x : VData) (t : Tag) : Core := c.wrV r ⟨x, t⟩
    ((runs (word (.vscl h 0x64 6 1 0)) (v {} 1 0x3F80000043FA0000 0x02)).rdV 6).bits.extractLsb' 0 16 = (0x0201 : BitVec 16) ∧
    (let c := runs (word (.vquant h 0x64 7 1 6 1 0 0)) (v (v {} 1 0x3F80000043FA0000 0x02) 6 0x0201 6);
      c.rdV 7 = ⟨0x357C, 0x64⟩ ∧ c.regs.fp.fflags = 1) := by
  refine ⟨?_, ?_⟩ <;> decide +kernel
/-- The complex example of chapter 10: a radix-2 stage with twiddle -i. -/
theorem test_vfft2 :
    let c := runs 0x660000244A00000100000000
      (((vregs 5 [(8, 0x400000003F800000), (9, 0x4080000040400000), (10, 0xBF80000000000000)])));
    c.rdV 8 = (vregs 5 [(8, 0xBF80000040A00000)]).rdV 8 ∧ c.rdV 9 = (vregs 5 [(9, 0x40A00000C0400000)]).rdV 9 := by
  decide +kernel
/-- The branch example of chapter 5: with p1 true it goes to 60 bytes before itself; with p1 false, to the next word. -/
theorem test_br :
    (runs 0x1010000000000000FFFFFFC4 (({} : Core).wrP 1 true)).regs.pc = 0x40000 - 60 ∧
    (runs 0x1010000000000000FFFFFFC4 {}).regs.pc = 0x4000C := by refine ⟨?_, ?_⟩ <;> decide +kernel
/-- The example of chapter 8: an atomic addition of 3 to 10. -/
theorem test_amo_add :
    (match after ((atWord 0x28000002840C012300000008 (regs [(4, 0x200), (6, 3)])).writeHome 0x208 [10]) with
      | some t => t.cc.rdG 5 == 10 && t.physBytes 0x208 8 == [13, 0, 0, 0, 0, 0, 0, 0]
      | none => false) = true := by decide +kernel
/-- The example of chapter 2: a group of four that runs off the scratchpad stops at its third register. -/
theorem test_vld_group :
    let c := runs (word (.vld h 2 8 4 2 0)) (regs [(4, 0x0100000000017F00)]);
    c.regs.trap.xcause = Cause.bounds.code ∧ c.regs.trap.xprog = 2 ∧ c.regs.trap.xval = 0x0100000000018000 ∧ (c.rdV 9).tag = 2 ∧
      (c.rdV 10).tag = 0 := by decide +kernel
/-- The example of chapter 15: SYSCALL 7 from user code in TIMED mode, and XRET back. -/
theorem test_syscall_xret :
    (let c := runs 0x810000000000000000000007 { regs := { trap := { tim := true, xvec := 0x8000 } } };
      c.regs.trap.xpc = 0x4000C ∧ c.regs.trap.xcause = 18 ∧ c.regs.trap.xval = 7 ∧ c.xstat = 0xB01 ∧ c.regs.pc = 0x20000) ∧
    (let c := runs 0x820000000000000000000000 { regs := { trap := { sup := true, exl := true, pt := true, xpc := 0x100000012C } } };
      c.regs.pc = 0x100000012C ∧ c.xstat = 0x811) := by refine ⟨?_, ?_⟩ <;> decide +kernel
/-- The example of chapter 7: an address's indexes at each level of the tables. -/
theorem test_walk_indexes :
    (List.range 4).map (fun l => 0x0000123456780000 / 2 ^ levelShift l % 2 ^ levelBits l) = [0x002, 0x8D1, 0x0B3, 0x18] ∧
    leafPa 3 0x000000090000005F 0x0000123456780040 = 0x900000040 ∧ leafPolicy 0x000000090000005F = .swm := by decide +kernel
/-- The example of chapter 17: members 1 and 2 of a group of three and two are rebuilt. -/
theorem test_group_rebuild :
    let xs : List MemberSymbols := [⟨0, 0, [1, 0]⟩, ⟨3, 0, [0, 0]⟩, ⟨4, 0, [9, 0]⟩]
    memberBytes 3 1 0 xs = [2, 0] ∧ memberBytes 3 2 0 xs = [3, 0] ∧ determined 3 xs = true ∧ determined 3 (xs.take 2) = false := by decide +kernel
/-- RegisterFile: registers that differ, a result of latency 2 before and at its landing, and a CHECKED core that reads a register in
flight. EncodeDecode: a word that decodes. -/
theorem test_witness_registers :
    (1 : GReg) ≠ 2 ∧ (5 + 1 < 5 + 2 ∧ 5 + 2 ≤ 7) ∧ ({} : Core).regs.trap.tim = false ∧ ({} : Core).tmg.flights = [] ∧
    hardwired (Wr.g 1 5).num = false ∧ hardwired (Wr.g 0 5).num = true ∧
    (let c := ({} : Core).result 5 2 (.g 1 9); (c.settle 6).rdG 1 = 0 ∧ (c.settle 7).rdG 1 = 9) ∧
    decodeWord 0x820000000000000000000000 = .ok (.xret h) := by decide +kernel
/-- StepNeverRefuses: a page whose physical address has neither a stack nor the fabric behind it stops the machine. -/
theorem test_witness_fault :
    (match step ((atWord 0 {}).setCluster 0 { l1tlb := [{ vsid := 0, level := 1, vpn := 0, leaf := 0x001004000000003F }] }) with
      | .fault (.noPhysicalMemory pa) => pa == 0x40000040000 && !physOk pa
      | _ => false) = true := by decide +kernel

/-- StreamForms: SCFG with a descriptor at the start of the own scratchpad meets every hypothesis together, and with its NDIM out of
range it is malformed; VLOOP on a bound port with a free level; a register whose stream VTAGR looks at. -/
theorem test_witness_portForms :
    let bytes : List Byte := toBytes 64 ((0x010002#512 <<< 0x140) ||| (4#512 <<< 64) ||| (4#512 <<< 192) ||| own.setWidth 512)
    let p : Place := .spad true 0 0
    let s1 := issued h 0 0 0 { srcs := [opG 1], dsts := [opV 5] } (withDesc [(0, bytes)])
    let q1 := s1.touch s1.cur p 64
    let s2 := q1.1.coreRead q1.1.cur (p.home (clusterOf q1.1.cur))
    let c : Core := { regs := { strm := (Vector.replicate 4 none).set 1 (some (port 0)) } }
    s1.cc.regs.strm[(3 : Fin 4)] = none ∧ s1.cc.bound 5 = none ∧ s1.rangeHeld (s1.cc.rdG 1 + sx 0) 64 = false ∧
    (s1.checkSpad (s1.cc.rdG 1 + sx 0) 64 64).toOption = some p ∧ q1.2 = false ∧
    (parseDesc (ofBytes 512 (s2.readPlace 64 p))).isSome = true ∧
    (c.regs.strm[(1 : Fin 4)] = some (port 0) ∧ (c.regs.loops[0].v && c.regs.loops[1].v) = false ∧ c.bound 5 = some (1, port 0)) := by
  decide +kernel

/-- Loops: an inner level whose last word is the outer one's too, one whose last word is not; the outer level with and without a pass
left. -/
theorem test_witness_nested :
    let ls (x y : Word) : Vector LoopLvl 2 := ⟨#[lvl x, lvl y], rfl⟩
    ((ls 2 1)[1].v = true ∧ (0x10C : Word) = (ls 2 1)[1].last ∧ (ls 2 1)[1].count = 1 ∧ (0x10C : Word) = (ls 2 1)[0].last ∧
      (ls 2 1)[0].count ≠ 1 ∧ (ls 1 1)[0].count = 1) ∧
    (let ms : Vector LoopLvl 2 := ⟨#[{ lvl 2 with len1 := 4 }, lvl 1], rfl⟩; (0x10C : Word) = ms[1].last ∧ (0x10C : Word) ≠ ms[0].last) ∧
    (0x100 : Word) ≠ (ls 2 2)[1].last := by decide +kernel

/-- LocalVectors, GlobalScalarForms, GlobalVectors, RangesAndLines: groups, scalars and prefetches that no command in flight holds, and
reads that meet no uncorrectable word. -/
theorem test_witness_unheld :
    (iss {} {}).groupHolders own 0 4 true = [] ∧ (paged 0x1F).groupHolders 0x80 0 1 false = [] ∧
    (paged 0x1F).readBad 0 0x40 8 .leased = false ∧ (paged 0x1F).rangeHeld ((0x1234 + sx 5) &&& ~~~127#64) 128 = false := by
  decide +kernel

/-- EventAndCrossbarForms, Barriers: a line whose context is in, one of partition 3 whose context the glen store holds, a barrier without
parent. -/
theorem test_witness_linesOut :
    (evu {}).lineOut 0 5 = none ∧ (evu { rtag := [(rtagLine 5, 3)], glen := some { ptag := 3 } }).lineOut 0 5 = some 3 ∧
    ((bar 1).cluster 0).barrier 31 = { en := true, mask := 1 } ∧ (((bar 1).cluster 0).barrier 31).chn = false := by
  decide +kernel

/-- EngineWords: rings whose sizes R372 does not allow, of 2^3 and 2^13 entries, and of 2^12, which it allows; a fence of a scope that
partition 3 may not use. -/
theorem test_witness_sizes :
    let on (k : Nat) : State := { (st { gs 1 0 with ctag := some 1 }) with
      parts := [(1, { v := true, vdev := 0 })], vds := [(0, { rings := [(15, { en := true, log := k })] })] }
    let ring (k : Nat) : Ring := Tab.get {} ((on k).vd 0).rings 15
    (on 3).vdOf 0 = some 0 ∧ (ring 3).log < 4 ∧ 12 < (ring 13).log ∧ (4 ≤ (ring 12).log ∧ (ring 12).log ≤ 12 ∧ (ring 12).en = true) ∧
    (evuUser 0).scopeDenied 4 = true := by decide +kernel

end

end Sys2Proof.Tests
end

section
/-! Memories as data: a memory in canonical form is the list of its bytes, a value of n bytes is its bytes, and a write of physical
memory changes the bytes it names alone (R1, R183). -/
namespace Sys2Proof.Machine
open Sys2Proof

/-! ## A canonical memory is what it reads as -/

/-- The lowest listed address of a canonical memory reads as something else than an unlisted one. -/
theorem Mem.get_head_ne {lo k : Nat} {c : Byte} {m : Mem} (h : Mem.wfFrom lo ((k, c) :: m) = true) :
    Mem.get ((k, c) :: m) k ≠ Config.fillByte := by
  simp only [Mem.wfFrom, Bool.and_eq_true, bne_iff_ne] at h
  simpa [Mem.get] using h.1.2

/-- The memory behind the lowest entry reads as the whole one at every address but that entry's. -/
theorem Mem.get_tail_of_ne {k a : Nat} {c : Byte} {m : Mem} (h : k ≠ a) : Mem.get ((k, c) :: m) a = m.get a := by
  simp [Mem.get, h]

/-- A canonical memory starts at its lowest entry. -/
theorem Mem.wfFrom_head {lo k : Nat} {c : Byte} {m : Mem} (h : Mem.wfFrom lo ((k, c) :: m) = true) :
    Mem.wfFrom k ((k, c) :: m) = true := by
  simp only [Mem.wfFrom, Bool.and_eq_true, decide_eq_true_eq] at h ⊢
  exact ⟨⟨le_refl k, h.1.2⟩, h.2⟩

/-- Memories in canonical form that read alike are equal. -/
theorem Mem.ext_from : ∀ {lo : Nat} {m m' : Mem}, Mem.wfFrom lo m = true → Mem.wfFrom lo m' = true →
    (∀ i, m.get i = m'.get i) → m = m'
  | _, [], [], _, _, _ => rfl
  | _, [], (k, _) :: _, _, h', e => absurd (e k).symm (Mem.get_head_ne h')
  | _, (k, _) :: _, [], h, _, e => absurd (e k) (Mem.get_head_ne h)
  | _, (k, c) :: m, (k', c') :: m', h, h', e => by
    have hk := Mem.get_head_ne h
    have hk' := Mem.get_head_ne h'
    have first : k = k' := by
      rcases Nat.lt_trichotomy k k' with lt | eq | gt
      · exact absurd ((e k).trans (Mem.get_below (Mem.wfFrom_head h') lt)) hk
      · exact eq
      · exact absurd ((e k').symm.trans (Mem.get_below (Mem.wfFrom_head h) gt)) hk'
    subst first
    have same : c = c' := by simpa [Mem.get] using e k
    subst same
    simp only [Mem.wfFrom, Bool.and_eq_true] at h h'
    have rest : ∀ i, Mem.get m i = Mem.get m' i := fun i => by
      by_cases hi : k = i
      · subst hi
        rw [Mem.get_below h.2 (by omega), Mem.get_below h'.2 (by omega)]
      · simpa [Mem.get, hi] using e i
    rw [Mem.ext_from h.2 h'.2 rest]

/-- Memories in canonical form that read alike are equal. -/
theorem Mem.ext_of_wf {m m' : Mem} (h : m.wf = true) (h' : m'.wf = true) (e : ∀ i, m.get i = m'.get i) : m = m' :=
  Mem.ext_from h h' e

/-! ## A value is its bytes -/

@[simp] theorem toBytes_length {w : Nat} (n : Nat) (x : BitVec w) : (toBytes n x).length = n := by simp [toBytes]

theorem toBytes_getD {w n i : Nat} (x : BitVec w) (h : i < n) : (toBytes n x).getD i 0 = x.extractLsb' (8 * i) 8 := by
  simp [toBytes, List.getD_eq_getElem?_getD, h]

/-- Bit i of a value read from bytes is bit i % 8 of byte i / 8. -/
theorem ofBytes_getLsbD {w : Nat} : ∀ (bs : List Byte) (i : Nat), i < w →
    (ofBytes w bs).getLsbD i = (bs.getD (i / 8) 0).getLsbD (i % 8)
  | [], i, _ => by simp [ofBytes]
  | b :: bs, i, hi => by
    have ih := ofBytes_getLsbD (w := w) bs (i - 8) (by omega)
    simp only [ofBytes, BitVec.getLsbD_or, BitVec.getLsbD_shiftLeft, BitVec.getLsbD_setWidth, hi, decide_true, Bool.true_and]
    by_cases low : i < 8
    · simp [low, Nat.div_eq_of_lt low, Nat.mod_eq_of_lt low]
    · have next : i / 8 = (i - 8) / 8 + 1 := by omega
      have same : i % 8 = (i - 8) % 8 := by omega
      rw [ih, next, same]
      simp [low, BitVec.getLsbD_of_ge b i (by omega)]

/-- A 64-bit word is its eight bytes. -/
theorem ofBytes_toBytes (x : Word) : ofBytes 64 (toBytes 8 x) = x := by
  apply BitVec.eq_of_getLsbD_eq
  intro i hi
  rw [ofBytes_getLsbD _ _ hi, toBytes_getD x (by omega)]
  simp only [BitVec.getLsbD_extractLsb', show i % 8 < 8 by omega, decide_true, Bool.true_and]
  congr 1
  omega

/-! ## Physical memory -/

/-- What a write of one physical byte leaves: everything but the two memories. -/
theorem State.setPhysByte_frame (s : State) (pa : Nat) (b : Byte) :
    (s.setPhysByte pa b).cores = s.cores ∧ (s.setPhysByte pa b).clusters = s.clusters ∧ (s.setPhysByte pa b).dies = s.dies ∧
      (s.setPhysByte pa b).fenced = s.fenced := by
  unfold State.setPhysByte
  split
  · exact ⟨rfl, rfl, rfl, rfl⟩
  · split
    · exact ⟨rfl, rfl, rfl, rfl⟩
    · split <;> exact ⟨rfl, rfl, rfl, rfl⟩

theorem State.setPhysBytes_frame : ∀ (bs : List Byte) (s : State) (pa : Nat),
    (s.setPhysBytes pa bs).cores = s.cores ∧ (s.setPhysBytes pa bs).clusters = s.clusters ∧ (s.setPhysBytes pa bs).dies = s.dies
  | [], _, _ => ⟨rfl, rfl, rfl⟩
  | b :: bs, s, pa => by
    obtain ⟨hc, hl, hd, -⟩ := s.setPhysByte_frame pa b
    simpa only [State.setPhysBytes, hc, hl, hd] using State.setPhysBytes_frame bs (s.setPhysByte pa b) (pa + 1)

@[simp] theorem State.stackLost_setPhysByte (s : State) (pa x : Nat) (b : Byte) :
    (s.setPhysByte pa b).stackLost x = s.stackLost x := by
  rw [State.stackLost, State.stackLost, (s.setPhysByte_frame pa b).2.2.2]

/-- A write of one byte with memory behind it, on no fenced stack, is read back. -/
theorem State.physByte_setPhysByte {s : State} (h : s.hbm.wf = true) (hf : s.fabric.wf = true) {pa : Nat} (b : Byte)
    (ok : physOk pa = true) (there : s.stackLost pa = false) : (s.setPhysByte pa b).physByte pa = b := by
  by_cases stack : pa < Config.hbmBytes
  · simp [State.setPhysByte, State.physByte, there, stack, Mem.get_set h]
  · simp [State.setPhysByte, State.physByte, there, stack, ok, Mem.get_set hf]

/-- Every other byte reads as before. -/
theorem State.physByte_setPhysByte_ne (s : State) {pa x : Nat} (b : Byte) (hx : x ≠ pa) :
    (s.setPhysByte pa b).physByte x = s.physByte x := by
  unfold State.setPhysByte
  split
  · rfl
  · split
    · simp only [State.physByte, Mem.get_set_ne hx]
    · split
      · simp only [State.physByte, Mem.get_set_ne hx]
      · rfl

/-- Outside the bytes written, physical memory reads as before. -/
theorem State.physByte_setPhysBytes_ne {x : Nat} : ∀ (bs : List Byte) (s : State) (pa : Nat), x < pa ∨ pa + bs.length ≤ x →
    (s.setPhysBytes pa bs).physByte x = s.physByte x
  | [], _, _, _ => rfl
  | b :: bs, s, pa, h => by
    simp only [List.length_cons] at h
    rw [State.setPhysBytes, State.physByte_setPhysBytes_ne bs _ _ (by omega), State.physByte_setPhysByte_ne _ _ (by omega)]

/-- The bytes written are read back, where memory is behind them and no fenced stack. -/
theorem State.physByte_setPhysBytes {bs : List Byte} {s : State} {pa i : Nat} (h : s.hbm.wf = true) (hf : s.fabric.wf = true)
    (hi : i < bs.length) (ok : physOk (pa + i) = true) (there : s.stackLost (pa + i) = false) :
    (s.setPhysBytes pa bs).physByte (pa + i) = bs.getD i 0 := by
  induction bs generalizing s pa i with
  | nil => simp at hi
  | cons b bs ih =>
    rw [State.setPhysBytes]
    cases i with
    | zero =>
      rw [Nat.add_zero] at ok there ⊢
      rw [State.physByte_setPhysBytes_ne bs _ _ (by omega), List.getD_cons_zero]
      exact State.physByte_setPhysByte h hf b ok there
    | succ i =>
      obtain ⟨h1, hf1⟩ := State.wf_setPhysByte h hf pa b
      rw [show pa + (i + 1) = pa + 1 + i by omega] at ok there ⊢
      rw [ih h1 hf1 (Nat.lt_of_succ_lt_succ hi) ok ((s.stackLost_setPhysByte pa _ b).trans there), List.getD_cons_succ]

end Sys2Proof.Machine

namespace Sys2Proof
open Machine

/-- Settles O49: the byte laws of a memory, by induction on its list; those of a value, bit by bit; and those of physical memory, byte
by byte. -/
theorem memoryBytes : Obligations.MemoryBytes := by
  intro m m' a x pa b bs s w n
  refine ⟨fun h => ⟨Mem.wf_set h a b, Mem.wf_setBytes h a, Mem.get_set h a b, fun i hi => Mem.get_setBytes h a hi⟩,
    fun hx => Mem.get_set_ne hx m, fun hx => Mem.get_setBytes_ne hx, Mem.ext_of_wf,
    ⟨ofBytes_toBytes w, toBytes_length n w, fun i hi => toBytes_getD w hi⟩, fun h hf => ?_, fun hx => ?_, ?_⟩
  · obtain ⟨h', hf'⟩ := State.wf_setPhysBytes (bs := bs) h hf pa
    exact ⟨h', hf', fun i hi ok there => State.physByte_setPhysBytes h hf hi ok there⟩
  · have same := State.physByte_setPhysBytes_ne bs s pa hx
    exact ⟨same, same⟩
  · obtain ⟨hc, hl, hd⟩ := State.setPhysBytes_frame bs s pa
    exact ⟨hc, hl, hd, rfl⟩

end Sys2Proof
end

section
/-! Scalar accesses to local memory (R153 to R182): the forms of R176, and what a local store leaves. -/
namespace Sys2Proof.Machine
open Sys2Proof Sys2Proof.Claims

/-! ## Words that are given by an effect at issue -/

/-- A word completes as stated where its effect does, from each state that meets the hypothesis. -/
theorem completes_of_issueWord {i : Hdr → Instr} {d sa sb : BitVec 7} {u : Uses} {P : State → Prop} {f : State → State} {eff : State → Eff}
    (meaning : ∀ h s, exec (i h) s = issueWord h d sa sb u eff s) (done : ∀ s, P s → eff s = .done (f s)) :
    Completes i d sa sb u P f := by
  intro h s ⟨inside, guard, awaits⟩ hP
  rw [meaning, issueWord_issues inside guard awaits, show eff (s.setCc _) = _ from done _ hP]
  rfl

/-- A word takes the exception as stated where its effect does, in the state of its issue. -/
theorem traps_of_issueWord {i : Hdr → Instr} {d sa sb : BitVec 7} {u : Uses} {P : State → Prop} {k : Cause} {x : State → Word}
    {eff : State → Eff} (meaning : ∀ h s, exec (i h) s = issueWord h d sa sb u eff s) (traps : ∀ s, P s → eff s = .trap s k (x s) 0) :
    Traps i d sa sb u P k x := by
  intro h s ⟨inside, guard, awaits⟩ hP
  rw [meaning, issueWord_issues inside guard awaits, show eff (s.setCc _) = _ from traps _ hP]
  rfl

/-! ## The checks of a local access -/

theorem Core.addr_eq (c : Core) (a : GReg) (imm : BitVec 32) : c.addr a imm = c.rdG a + sx imm := rfl
theorem sizeOf_eq (sz : BitVec 2) : Machine.sizeOf sz = 1 <<< sz.toNat := rfl

/-- An access that passes the checks of every alignment passes those of its own. -/
theorem State.checkLocal_aligned {s : State} {n len align : Nat} {user : Bool} {a : Word} {p : Place}
    (ok : s.checkLocal n user a len 1 = .ok p) (aligned : a.toNat % align = 0) : s.checkLocal n user a len align = .ok p := by
  simpa [State.checkLocal, Nat.mod_one, aligned] using ok

theorem loadScalar_sound {a : Word} {len : Nat} {p : Place} {wr : List Byte → Wr} {s : State} (sound : Sound s p len) :
    loadScalar a len p wr s = .done (loadFrom len p wr s) := by
  simp only [loadScalar, show (s.touch s.cur p len).2 = false from sound]
  rfl

/-! ## What a local store leaves -/

/-- From `s` to `t` nothing is changed of the cores but the logical time of core `n`, and nothing of the scratchpads of the dies nor of
memory. -/
structure TimesOnly (n : Nat) (s t : State) : Prop where
  core : ∀ c, t.core c = { s.core c with lt := (t.core c).lt }
  others : ∀ c, c ≠ n → t.core c = s.core c
  dies : t.dies = s.dies
  hbm : t.hbm = s.hbm
  fabric : t.fabric = s.fabric

theorem TimesOnly.refl (n : Nat) (s : State) : TimesOnly n s s := ⟨fun _ => rfl, fun _ _ => rfl, rfl, rfl, rfl⟩
theorem TimesOnly.trans {n : Nat} {s t u : State} (a : TimesOnly n s t) (b : TimesOnly n t u) : TimesOnly n s u where
  core c := by rw [b.core c, a.core c]
  others c h := (b.others c h).trans (a.others c h)
  dies := b.dies.trans a.dies
  hbm := b.hbm.trans a.hbm
  fabric := b.fabric.trans a.fabric

theorem TimesOnly.die {n : Nat} {s t : State} (h : TimesOnly n s t) (d : Nat) : t.die d = s.die d := by
  rw [State.die, h.dies, State.die]

theorem State.backInvalidate_timesOnly (s : State) (n : Nat) (h : HomeId) : TimesOnly n s (s.backInvalidate h) := by
  unfold State.backInvalidate
  split
  · split <;> exact ⟨fun _ => rfl, fun _ _ => rfl, rfl, rfl, rfl⟩
  · exact .refl n s

theorem State.coreWrite_timesOnly (s : State) (n : Nat) (h : HomeId) : TimesOnly n s (s.coreWrite n h) := by
  refine (s.backInvalidate_timesOnly n h).trans ⟨fun c => ?_, fun c hc => ?_, rfl, rfl, rfl⟩
  · by_cases hc : c = n
    · subst hc
      simp only [State.coreWrite, State.core_setCore]
      rfl
    · simp only [State.coreWrite, State.core_setCore_ne _ _ _ _ hc]
      rfl
  · exact State.core_setCore_ne _ _ _ _ hc

theorem State.coreWrites_timesOnly (s : State) (n : Nat) (hs : List HomeId) : TimesOnly n s (s.coreWrites n hs) :=
  List.foldlRecOn hs _ (TimesOnly.refl n s) fun t ok h _ => ok.trans (t.coreWrite_timesOnly n h)

/-- A local store is a write to its place after the core's logical time and the note of the store. -/
theorem storePlace_eq (p : Place) (bs : List Byte) (s : State) :
    ∃ t, TimesOnly s.cur s t ∧ storePlace p bs s = t.writePlace p bs := by
  have times := s.coreWrites_timesOnly s.cur (p.homes (clusterOf s.cur) bs.length)
  refine ⟨_, ?_, rfl⟩
  split
  · exact times.trans ⟨fun _ => rfl, fun _ _ => rfl, rfl, rfl, rfl⟩
  · exact times

theorem State.core_writePlace_spad (s : State) (own : Bool) (n off : Nat) (bs : List Byte) :
    (s.writePlace (.spad own n off) bs).core n =
      { (s.core n).renew off bs.length with spad := (s.core n).spad.setBytes off bs } := State.core_setCore _ _ _
theorem State.core_writePlace_spad_ne (s : State) (own : Bool) {n c : Nat} (off : Nat) (bs : List Byte) (h : c ≠ n) :
    (s.writePlace (.spad own n off) bs).core c = s.core c := State.core_setCore_ne _ _ _ _ h
theorem State.writePlace_spad_keeps (s : State) (own : Bool) (n off : Nat) (bs : List Byte) (c : Nat) :
    let t := s.writePlace (.spad own n off) bs
    (t.core c).slices = (s.core c).slices ∧ (t.core c).regs = (s.core c).regs ∧ (t.core c).tmg = (s.core c).tmg ∧
      (t.core c).lt = (s.core c).lt := by
  by_cases h : c = n
  · subst h
    simp [State.core_writePlace_spad, Core.renew]
  · simp [State.core_writePlace_spad_ne _ _ _ _ h]

/-- The scratchpad bytes of a core that a store writes, and those that it does not reach. -/
theorem State.spad_writePlace (s : State) (own : Bool) (n off : Nat) (bs : List Byte) :
    ((s.writePlace (.spad own n off) bs).core n).spad = (s.core n).spad.setBytes off bs := by
  rw [State.core_writePlace_spad]
theorem State.spad_get_writePlace_ne (s : State) (own : Bool) (n off : Nat) (bs : List Byte) {c x : Nat}
    (h : c ≠ n ∨ x < off ∨ off + bs.length ≤ x) :
    ((s.writePlace (.spad own n off) bs).core c).spad.get x = (s.core c).spad.get x := by
  by_cases hc : c = n
  · subst hc
    rw [State.spad_writePlace, Mem.get_setBytes_ne (h.resolve_left fun h => h rfl)]
  · rw [State.core_writePlace_spad_ne _ _ _ _ hc]
theorem State.chip_writePlace_chip (s : State) (n off : Nat) (bs : List Byte) :
    ((s.writePlace (.chip n off) bs).die n).chip = (s.die n).chip.setBytes off bs := congrArg Die.chip (State.die_setDie _ _ _)
theorem State.die_writePlace_chip_ne (s : State) {n d : Nat} (off : Nat) (bs : List Byte) (h : d ≠ n) :
    (s.writePlace (.chip n off) bs).die d = s.die d := State.die_setDie_ne _ _ _ _ h

theorem State.chip_get_writePlace_ne (s : State) (n off : Nat) (bs : List Byte) {d x : Nat}
    (h : d ≠ n ∨ x < off ∨ off + bs.length ≤ x) :
    ((s.writePlace (.chip n off) bs).die d).chip.get x = (s.die d).chip.get x := by
  by_cases hd : d = n
  · subst hd
    rw [State.chip_writePlace_chip, Mem.get_setBytes_ne (h.resolve_left fun h => h rfl)]
  · rw [State.die_writePlace_chip_ne _ _ _ hd]

theorem TimesOnly.spad {n : Nat} {s t : State} (h : TimesOnly n s t) (c : Nat) : (t.core c).spad = (s.core c).spad := by rw [h.core c]
theorem TimesOnly.slices {n : Nat} {s t : State} (h : TimesOnly n s t) (c : Nat) : (t.core c).slices = (s.core c).slices := by
  rw [h.core c]
theorem TimesOnly.regs {n : Nat} {s t : State} (h : TimesOnly n s t) (c : Nat) : (t.core c).regs = (s.core c).regs := by rw [h.core c]
theorem TimesOnly.tmg {n : Nat} {s t : State} (h : TimesOnly n s t) (c : Nat) : (t.core c).tmg = (s.core c).tmg := by rw [h.core c]
theorem TimesOnly.lt {n : Nat} {s t : State} (h : TimesOnly n s t) {c : Nat} (hc : c ≠ n) : (t.core c).lt = (s.core c).lt := by
  rw [h.others c hc]

end Sys2Proof.Machine

namespace Sys2Proof
open Machine Claims

/-- R176, R228: each form at its issue, by the range scoreboard, the checks and the place that they give. -/
theorem localScalars : Claims.LocalScalars := by
  intro d a b k sz ext imm p cause off
  dsimp only
  refine ⟨?_, ?_, ?_, ?_, ?_, ?_, ?_, ?_, ?_, ?_, ?_, ?_⟩
  · refine completes_of_issueWord (fun h s => exec_ld h d a sz ext imm s) ?_
    rintro s ⟨⟨held, ok, noEvu, aligned⟩, sound⟩
    cases p with
    | evu off => exact absurd rfl (noEvu off)
    | _ => simp [Core.addr_eq, sizeOf_eq, held, ok, aligned, loadScalar_sound sound, -BitVec.toNat_add]
  · refine completes_of_issueWord (fun h s => exec_st h a b sz imm s) ?_
    rintro s ⟨held, ok, noEvu, aligned⟩
    cases p with
    | evu off => exact absurd rfl (noEvu off)
    | _ => simp [Core.addr_eq, sizeOf_eq, held, ok, aligned, -BitVec.toNat_add]
  · refine completes_of_issueWord (fun h s => exec_kld h k a imm s) ?_
    rintro s ⟨⟨held, ok, noEvu, aligned⟩, sound⟩
    cases p with
    | evu off => exact absurd rfl (noEvu off)
    | _ => simp [Core.addr_eq, held, State.checkLocal_aligned ok aligned, loadScalar_sound sound]
  · refine completes_of_issueWord (fun h s => exec_kst h a k imm s) ?_
    rintro s ⟨held, ok, noEvu, aligned⟩
    cases p with
    | evu off => exact absurd rfl (noEvu off)
    | _ => simp [Core.addr_eq, held, State.checkLocal_aligned ok aligned]
  · refine completes_of_issueWord (fun h s => exec_ld h d a sz ext imm s) ?_
    rintro s ⟨held, ok, size, there, allowed⟩
    simp only [Core.addr_eq, sizeOf_eq, held, ok, Bool.false_eq_true, if_false]
    simp [size, there]
    split
    · rename_i r x hr
      exact allowed r x hr
    · rfl
  · refine completes_of_issueWord (fun h s => exec_st h a b sz imm s) ?_
    rintro s ⟨held, ok, size, there, sup⟩
    simp only [Core.addr_eq, sizeOf_eq, held, ok, Bool.false_eq_true, if_false]
    simp [size, there, sup, State.evuDenied]
    split <;> rfl
  · refine traps_of_issueWord (fun h s => exec_ld h d a sz ext imm s) ?_
    rintro s ⟨held, bad⟩
    simp [Core.addr_eq, sizeOf_eq, held, bad]
  · refine traps_of_issueWord (fun h s => exec_st h a b sz imm s) ?_
    rintro s ⟨held, bad⟩
    simp [Core.addr_eq, sizeOf_eq, held, bad]
  · refine traps_of_issueWord (fun h s => exec_kld h k a imm s) ?_
    rintro s ⟨held, bad⟩
    simp [Core.addr_eq, held, bad]
  · refine traps_of_issueWord (fun h s => exec_kst h a k imm s) ?_
    rintro s ⟨held, bad⟩
    simp [Core.addr_eq, held, bad]
  · refine traps_of_issueWord (fun h s => exec_ld h d a sz ext imm s) ?_
    rintro s ⟨held, ok, noEvu, misaligned⟩
    cases p with
    | evu off => exact absurd rfl (noEvu off)
    | _ => simp [Core.addr_eq, sizeOf_eq, held, ok, misaligned, -BitVec.toNat_add]
  · refine traps_of_issueWord (fun h s => exec_st h a b sz imm s) ?_
    rintro s ⟨held, ok, noEvu, misaligned⟩
    cases p with
    | evu off => exact absurd rfl (noEvu off)
    | _ => simp [Core.addr_eq, sizeOf_eq, held, ok, misaligned, -BitVec.toNat_add]

/-- R1, R153, R159, R199: the write to the place of a store, in the state in which the core's logical time is raised. -/
theorem localStoreBytes : Claims.LocalStoreBytes := by
  intro s core off own die bs
  obtain ⟨s1, spad, stored1⟩ := storePlace_eq (.spad own core off) bs s
  obtain ⟨s2, chip, stored2⟩ := storePlace_eq (.chip die off) bs s
  dsimp only
  rw [stored1, stored2]
  refine ⟨fun wf i hi => ?_, fun c x hx => ?_, fun c => ?_, spad.hbm, spad.fabric, fun d => congrArg Die.chip (spad.die d),
    fun wf i hi => ?_, fun d x hx => ?_, fun c => ⟨chip.spad c, chip.regs c, chip.tmg c, chip.lt⟩, chip.hbm, chip.fabric,
    fun wf => ?_, fun wf => ?_⟩
  · rw [State.spad_writePlace, spad.spad, Mem.get_setBytes wf off hi]
  · rw [State.spad_get_writePlace_ne _ _ _ _ _ hx, spad.spad]
  · obtain ⟨slices, regs, tmg, lt⟩ := s1.writePlace_spad_keeps own core off bs c
    exact ⟨slices.trans (spad.slices c), regs.trans (spad.regs c), tmg.trans (spad.tmg c), fun hc => lt.trans (spad.lt hc)⟩
  · rw [State.chip_writePlace_chip, chip.die, Mem.get_setBytes wf off hi]
  · rw [State.chip_get_writePlace_ne _ _ _ _ hx, chip.die]
  · rw [State.spad_writePlace, spad.spad]
    exact Mem.wf_setBytes wf off
  · rw [State.chip_writePlace_chip, chip.die]
    exact Mem.wf_setBytes wf off

/-- Settles O42: the forms by the effect of each at its issue, and the bytes of a store by the write to its place, which nothing but
logical time precedes. -/
theorem localScalarForms : Obligations.LocalScalarForms := ⟨localScalars, localStoreBytes⟩

end Sys2Proof
end

section
/-! The canonical form of physical memory as an invariant (R1, R183): one rule for each operation of the machine, in the order of the
model. `ok.f` says that the operation `f` keeps the form that `ok` gives its state. -/
namespace Sys2Proof.Machine
open Sys2Proof

/-! ## The invariant, and what ends with it -/

/-- Both physical memories are in canonical form. -/
def State.MemOk (s : State) : Prop := s.hbm.wf = true ∧ s.fabric.wf = true

/-- The effect of a word leaves a state with the invariant, where it leaves one. -/
def Eff.MemOk : Eff → Prop
  | .done s | .doneAt s _ | .jump s _ _ | .trap s _ _ _ | .stall s | .within s | .point s | .sleep s => s.MemOk
  | .fault _ => True

/-- An outcome leaves a state with the invariant, where it leaves one. -/
def MemOkAfter : Host.Outcome State Fault Refusal → Prop
  | .next s => s.MemOk
  | _ => True

theorem State.MemOk.ite {p : Prop} {_ : Decidable p} {a b : State} (ha : a.MemOk) (hb : b.MemOk) : (if p then a else b).MemOk := by
  split <;> assumption
theorem Eff.MemOk.ite {p : Prop} {_ : Decidable p} {a b : Eff} (ha : a.MemOk) (hb : b.MemOk) : (if p then a else b).MemOk := by
  split <;> assumption
theorem MemOkAfter.ite {p : Prop} {_ : Decidable p} {a b : Host.Outcome State Fault Refusal} (ha : MemOkAfter a) (hb : MemOkAfter b) :
    MemOkAfter (if p then a else b) := by
  split <;> assumption

theorem MemOkAfter.get {o : Host.Outcome State Fault Refusal} {s : State} (h : MemOkAfter o) (hr : o = .next s) : s.MemOk := by
  subst hr
  exact h

/-- A sequence of operations keeps the invariant where each of them does. -/
theorem State.MemOk.foldl {α : Type} {f : State → α → State} {xs : List α} {s : State} (ok : s.MemOk)
    (step : ∀ {s : State} {x : α}, s.MemOk → (f s x).MemOk) : (xs.foldl f s).MemOk :=
  List.foldlRecOn xs f ok fun _ ok _ _ => step ok
/-- The same where each of them answers something beside its state. -/
theorem State.MemOk.foldl_fst {α β : Type} {f : State × β → α → State × β} {xs : List α} {x : State × β} (ok : x.1.MemOk)
    (step : ∀ {x : State × β} {a : α}, x.1.MemOk → (f x a).1.MemOk) : (xs.foldl f x).1.MemOk :=
  List.foldlRecOn (motive := fun x : State × β => x.1.MemOk) xs f ok fun _ ok _ _ => step ok

theorem State.MemOk.ite_fst {α : Type} {p : Prop} {_ : Decidable p} {a b : State × α} (ha : a.1.MemOk) (hb : b.1.MemOk) :
    (if p then a else b).1.MemOk := by
  split <;> assumption

/-- The effect of a stop, where there is one, leaves a state with the invariant. -/
def StopOk (e : Option Eff) : Prop := ∀ x ∈ e, x.MemOk

theorem StopOk.none : StopOk none := fun _ h => absurd h (Option.not_mem_none _)
theorem StopOk.some {e : Eff} (h : e.MemOk) : StopOk (some e) := by
  rintro _ ⟨⟩
  exact h
theorem StopOk.ite {p : Prop} {_ : Decidable p} {a b : Option Eff} (ha : StopOk a) (hb : StopOk b) : StopOk (if p then a else b) := by
  split <;> assumption
theorem StopOk.or {a b : Option Eff} (ha : StopOk a) (hb : StopOk b) : StopOk (a.or b) := by
  cases a with
  | none => exact hb
  | some e => exact ha
theorem StopOk.getD {a : Option Eff} {e : Eff} (ha : StopOk a) (he : e.MemOk) : (a.getD e).MemOk := by
  cases a with
  | none => exact he
  | some x => exact ha x rfl

/-! ## Results that carry a state beside an answer -/

/-- The state that an operation answers, where it answers one. -/
def StateOk {ε : Type} : Except ε State → Prop
  | .ok s => s.MemOk
  | .error _ => True
/-- The state that an operation answers beside other data, where it answers one. -/
def FirstOk {ε α : Type} : Except ε (State × α) → Prop
  | .ok r => r.1.MemOk
  | .error _ => True

theorem StateOk.get {ε : Type} {x : Except ε State} {s : State} (h : StateOk x) (hr : x = .ok s) : s.MemOk := by
  subst hr
  exact h
theorem FirstOk.get {ε α : Type} {x : Except ε (State × α)} {s : State} {a : α} (h : FirstOk x) (hr : x = .ok (s, a)) :
    s.MemOk := by
  subst hr
  exact h
theorem State.MemOk.of_pair {α : Type} {x : State × α} {s : State} {a : α} (h : x.1.MemOk) (hr : x = (s, a)) : s.MemOk := by
  subst hr
  exact h
theorem StateOk.ite {ε : Type} {p : Prop} {_ : Decidable p} {a b : Except ε State} (ha : StateOk a) (hb : StateOk b) :
    StateOk (if p then a else b) := by
  split <;> assumption
theorem FirstOk.ite {ε α : Type} {p : Prop} {_ : Decidable p} {a b : Except ε (State × α)} (ha : FirstOk a) (hb : FirstOk b) :
    FirstOk (if p then a else b) := by
  split <;> assumption

/-- What stops an access of an agent carries a state with the invariant, where it carries one. -/
def AStop.MemOk : AStop → Prop
  | .failAt s _ _ => s.MemOk
  | _ => True
/-- The states that an agent's access leaves, beside what it reads, or with which it stops. -/
def AgentOk {α : Type} : Except AStop (State × α) → Prop
  | .ok r => r.1.MemOk
  | .error e => e.MemOk
/-- The same for an access that answers a state alone. -/
def AgentStateOk : Except AStop State → Prop
  | .ok s => s.MemOk
  | .error e => e.MemOk
/-- The state in which a vector form has its sources. -/
def VInOk {ε : Type} : Except ε VIn → Prop
  | .ok v => v.s.MemOk
  | .error _ => True
/-- The state after a step of a command's work. -/
def Adv.MemOk : Adv → Prop
  | .go s _ | .wait s _ => s.MemOk
  | .stop s _ e => s.MemOk ∧ e.MemOk

theorem AgentOk.get {α : Type} {x : Except AStop (State × α)} {s : State} {a : α} (h : AgentOk x) (hr : x = .ok (s, a)) :
    s.MemOk := by
  subst hr
  exact h
theorem AgentOk.error {α : Type} {x : Except AStop (State × α)} {e : AStop} (h : AgentOk x) (hr : x = .error e) : e.MemOk := by
  subst hr
  exact h
theorem AgentStateOk.get {x : Except AStop State} {s : State} (h : AgentStateOk x) (hr : x = .ok s) : s.MemOk := by
  subst hr
  exact h
theorem AgentStateOk.error {x : Except AStop State} {e : AStop} (h : AgentStateOk x) (hr : x = .error e) : e.MemOk := by
  subst hr
  exact h
theorem VInOk.get {ε : Type} {x : Except ε VIn} {v : VIn} (h : VInOk x) (hr : x = .ok v) : v.s.MemOk := by
  subst hr
  exact h
theorem AgentOk.ite {α : Type} {p : Prop} {_ : Decidable p} {a b : Except AStop (State × α)} (ha : AgentOk a) (hb : AgentOk b) :
    AgentOk (if p then a else b) := by
  split <;> assumption
theorem Adv.MemOk.ite {p : Prop} {_ : Decidable p} {a b : Adv} (ha : a.MemOk) (hb : b.MemOk) : (if p then a else b).MemOk := by
  split <;> assumption

end Sys2Proof.Machine
end

section
/-! The canonical form of memory: the state and the issue of a word. -/
namespace Sys2Proof.Machine
open Sys2Proof
variable {s : State}

/-! ## Memories, units and registers -/

theorem State.MemOk.setCore {n c} (ok : s.MemOk) : (s.setCore n c).MemOk := ok
theorem State.MemOk.setCc {c} (ok : s.MemOk) : (s.setCc c).MemOk := ok.setCore
theorem State.MemOk.setCluster {n c} (ok : s.MemOk) : (s.setCluster n c).MemOk := ok
theorem State.MemOk.setDie {n d} (ok : s.MemOk) : (s.setDie n d).MemOk := ok
theorem State.MemOk.owe {i} (ok : s.MemOk) : (s.owe i).MemOk := ok
theorem State.MemOk.report {r} (ok : s.MemOk) : (s.report r).MemOk := ok
theorem State.MemOk.sendAt {due src dst tag sup ev} (ok : s.MemOk) : (s.sendAt due src dst tag sup ev).MemOk := ok
theorem State.MemOk.send {src dst sup ev} (ok : s.MemOk) : (s.send src dst sup ev).MemOk := ok.sendAt
theorem State.MemOk.onPart {p f} (ok : s.MemOk) : (s.onPart p f).MemOk := ok
theorem State.MemOk.onVd {v f} (ok : s.MemOk) : (s.onVd v f).MemOk := ok

theorem State.MemOk.postErrorFor {kind ptag core x} (ok : s.MemOk) : (s.postErrorFor kind ptag core x).MemOk := by
  unfold State.postErrorFor
  exact .ite ok ok.setDie.setCore

theorem State.MemOk.postError {kind ptag core} (ok : s.MemOk) : (s.postError kind ptag core).MemOk := ok.postErrorFor

theorem State.MemOk.suspect {u k} (ok : s.MemOk) : (s.suspect u k).MemOk := by
  unfold State.suspect
  exact .ite (.owe ok) ok

theorem State.MemOk.mapOut {f} (ok : s.MemOk) : (s.mapOut f).MemOk := ok
theorem State.MemOk.grow {n} (ok : s.MemOk) : (s.grow n).MemOk := .setCore ok

theorem State.MemOk.latchCounts (ok : s.MemOk) : s.latchCounts.MemOk := by
  unfold State.latchCounts
  exact .mapOut ok

theorem State.MemOk.pulse {cl edge x} (ok : s.MemOk) : (s.pulse cl edge x).MemOk := ok.setCluster
theorem State.MemOk.hold {p cl ev} (ok : s.MemOk) : (s.hold p cl ev).MemOk := ok
theorem State.MemOk.setPhysByte {pa b} (ok : s.MemOk) : (s.setPhysByte pa b).MemOk := State.wf_setPhysByte ok.1 ok.2 pa b
theorem State.MemOk.setPhysBytes {pa bs} (ok : s.MemOk) : (s.setPhysBytes pa bs).MemOk := State.wf_setPhysBytes ok.1 ok.2 pa
theorem State.MemOk.fillL2 {d e} (ok : s.MemOk) : (s.fillL2 d e).MemOk := ok.setDie
theorem State.MemOk.setHome {h x} (ok : s.MemOk) : (s.setHome h x).MemOk := ok
theorem State.MemOk.readTime {lt h} (ok : s.MemOk) : (s.readTime lt h).1.MemOk := ok.setHome

theorem State.MemOk.backInvalidate {h} (ok : s.MemOk) : (s.backInvalidate h).MemOk := by
  unfold State.backInvalidate
  dsimp only
  split
  · exact .ite (.report ok) ok
  · exact ok

theorem State.MemOk.writeTime {lt h} (ok : s.MemOk) : (s.writeTime lt h).1.MemOk := ok.backInvalidate.setHome
theorem State.MemOk.coreRead {n h} (ok : s.MemOk) : (s.coreRead n h).MemOk := ok.readTime.setCore
theorem State.MemOk.coreWrite {n h} (ok : s.MemOk) : (s.coreWrite n h).MemOk := ok.writeTime.setCore

theorem State.MemOk.setCopy {cl x} (ok : s.MemOk) : (s.setCopy cl x).MemOk := by
  unfold State.setCopy
  dsimp only
  split
  · exact ok.setCluster.owe
  · exact ok.setCluster

theorem State.MemOk.dropCopy {cl line swm} (ok : s.MemOk) : (s.dropCopy cl line swm).MemOk := ok.setCluster

theorem State.MemOk.writeHome {pa bs} (ok : s.MemOk) : (s.writeHome pa bs).MemOk := by
  unfold State.writeHome
  dsimp only [State.MemOk]
  exact ok.setPhysBytes

theorem State.MemOk.fetchFabric {line} (ok : s.MemOk) : (s.fetchFabric line).MemOk := by
  unfold State.fetchFabric
  exact .setPhysBytes (.setHome ok)

theorem State.MemOk.permit {pa write} (ok : s.MemOk) : (s.permit pa write).MemOk := by
  unfold State.permit
  dsimp only
  split
  · dsimp only [State.MemOk]
    exact State.MemOk.ite ok ok.fetchFabric
  · exact .ite ok ok

theorem State.MemOk.mergeCopy {x lt} (ok : s.MemOk) : (s.mergeCopy x lt).1.MemOk := by
  unfold State.mergeCopy
  show State.MemOk _
  dsimp only [State.MemOk]
  exact ok.permit.writeTime.setPhysBytes

theorem State.MemOk.fillSwm {n line} (ok : s.MemOk) : (s.fillSwm n line).1.MemOk := by
  unfold State.fillSwm
  dsimp only
  split
  · exact ok
  · exact ok.coreRead.setCopy

theorem State.MemOk.leasedRead {n pa len} (ok : s.MemOk) : (s.leasedRead n pa len).1.MemOk := by
  unfold State.leasedRead
  dsimp only
  split
  · exact ok.setCore
  · exact ok.setHome.setCore.setCopy

theorem State.MemOk.gain {pa p write} (ok : s.MemOk) : (s.gain pa p write).MemOk := .ite ok.fetchFabric ok.permit

theorem State.MemOk.putHome {pa p bs} (ok : s.MemOk) : (s.putHome pa p bs).MemOk := by
  unfold State.putHome
  exact .ite ok.writeHome.report ok.writeHome

theorem State.MemOk.noteStore {n was m pos old} (ok : s.MemOk) : (s.noteStore n was m pos old).MemOk := ok
theorem State.MemOk.forget {m} (ok : s.MemOk) : (s.forget m).MemOk := ok

theorem State.MemOk.noteCode {n pa len user} (ok : s.MemOk) : (s.noteCode n pa len user).MemOk := by
  unfold State.noteCode
  split
  · exact .ite ok ok
  · exact ok

theorem State.MemOk.storeHome {n pa p bs} (ok : s.MemOk) : (s.storeHome n pa p bs).MemOk :=
  ok.coreWrite.noteStore.noteCode.putHome

theorem State.MemOk.readGlobal {n pa len p} (ok : s.MemOk) : (s.readGlobal n pa len p).1.MemOk := by
  unfold State.readGlobal
  dsimp only
  split
  · exact ok.gain.leasedRead
  · exact ok.gain.fillSwm
  · exact ok.gain.coreRead

theorem State.MemOk.lostWrite {n pa} (ok : s.MemOk) : (s.lostWrite n pa).MemOk := .ite ok.postError ok

theorem State.MemOk.writeGlobal {n pa p bs} (ok : s.MemOk) : (s.writeGlobal n pa p bs).MemOk := by
  unfold State.writeGlobal
  dsimp only
  split
  · exact ok.gain.lostWrite
  · split
    · exact ok.gain.lostWrite.fillSwm.noteCode.setCopy
    · exact ok.gain.lostWrite.storeHome

theorem State.MemOk.badRead {n bad} (ok : s.MemOk) : (s.badRead n bad).MemOk := .ite ok.postError ok
theorem State.MemOk.wakeWith {n T complete} (ok : s.MemOk) : (s.wakeWith n T complete).MemOk := ok.setCore
theorem State.MemOk.leaveLockstep {n} (ok : s.MemOk) : (s.leaveLockstep n).MemOk := .ite ok.setCore.setCluster ok

theorem State.MemOk.leaveQueues {n} (ok : s.MemOk) : (s.leaveQueues n).MemOk := by
  unfold State.leaveQueues
  dsimp only
  split
  · exact ok.setCluster
  · exact ok.setCluster
  · exact ok

theorem State.MemOk.haltCore {n m} (ok : s.MemOk) : (s.haltCore n m).MemOk := ok.leaveQueues.setDie.setCore

theorem State.MemOk.haltGroup {n m} (ok : s.MemOk) : (s.haltGroup n m).MemOk := by
  unfold State.haltGroup
  exact (ok.foldl fun ok => ok.setCore).foldl fun ok => ok.haltCore

theorem State.MemOk.tryYield {n} (ok : s.MemOk) : (s.tryYield n).MemOk := by
  unfold State.tryYield
  exact .ite ok (.ite ok.haltCore (.ite ok.setCore (.ite ok.haltGroup ok)))

theorem State.MemOk.askYield {n} (ok : s.MemOk) : (s.askYield n).MemOk := ok.foldl fun ok => ok.setCore
theorem State.MemOk.haltAway {p} (ok : s.MemOk) : (s.haltAway p).MemOk := ok.mapOut

theorem State.MemOk.haltFaulted {ns} (ok : s.MemOk) : (s.haltFaulted ns).MemOk := by
  unfold State.haltFaulted
  exact (ok.foldl fun ok => ok.haltGroup).foldl fun ok => ok.haltAway

theorem State.MemOk.faultOnFault {n addr} (ok : s.MemOk) : (s.faultOnFault n addr).MemOk := ok.haltFaulted.report
theorem State.MemOk.onDepth {n f} (ok : s.MemOk) : (s.onDepth n f).MemOk := ok.setCluster

theorem State.MemOk.takeTrap {n cause val prog} (ok : s.MemOk) : (s.takeTrap n cause val prog).MemOk := by
  unfold State.takeTrap
  dsimp only
  split
  · exact ok.setCore.leaveLockstep.onDepth.faultOnFault
  · split
    · exact ok.setCore.leaveLockstep.onDepth.setCore.faultOnFault
    · exact ok.setCore.leaveLockstep.onDepth.setCore.writeGlobal.setCore

/-! ## Issue and completion -/

theorem Eff.MemOk.unaged {old e} (h : Eff.MemOk e) : (Eff.unaged old e).MemOk := by
  cases e with
  | stall s => exact State.MemOk.setCc h
  | within s => exact State.MemOk.setCc h
  | point s => exact State.MemOk.setCc h
  | _ => exact h

/-- A word that ends, however it ends. -/
theorem Eff.MemOk.finish {h t e} (he : Eff.MemOk e) : MemOkAfter (finish h t e) := by
  cases e with
  | done s => exact State.MemOk.setCc he
  | doneAt s a => exact State.MemOk.setCc he
  | jump s a lx => exact State.MemOk.setCc he
  | trap s c x m => exact State.MemOk.takeTrap he
  | stall s => exact State.MemOk.setCc he
  | within s => exact State.MemOk.setCc he
  | point s => exact .ite (State.MemOk.haltGroup he) (State.MemOk.setCc he)
  | sleep s => exact State.MemOk.ite (State.MemOk.setCc he).owe (State.MemOk.setCc he)
  | fault f => trivial

theorem State.MemOk.decodeTrap {c x} (ok : s.MemOk) : MemOkAfter (decodeTrap s c x) := ok.takeTrap

/-- A word keeps the invariant where its effect does. -/
theorem State.MemOk.issueWord {h d sa sb u eff} (ok : s.MemOk) (step : ∀ {s : State}, s.MemOk → (eff s).MemOk) :
    MemOkAfter (issueWord h d sa sb u eff s) := by
  unfold Machine.issueWord
  dsimp only
  split
  · exact (step ok.setCc).unaged.finish
  · split
    · exact ok.setCc
    · split
      · exact ok.setCc
      · exact (step ok.setCc).unaged.finish

theorem State.MemOk.issueCore {h d sa sb u eff} (ok : s.MemOk) : MemOkAfter (issueCore h d sa sb u eff s) := by
  unfold Machine.issueCore
  refine ok.issueWord fun ok => ?_
  split
  · exact ok.setCc
  · exact ok

/-! ## Operand forms -/

theorem State.MemOk.scalarForm {h srcs lat dst val} (ok : s.MemOk) : MemOkAfter (scalarForm h srcs lat dst val s) := ok.issueCore
theorem State.MemOk.gForm {h d srcs lat val} (ok : s.MemOk) : MemOkAfter (gForm h d srcs lat val s) := ok.scalarForm
theorem State.MemOk.pForm {h d srcs lat val} (ok : s.MemOk) : MemOkAfter (pForm h d srcs lat val s) := ok.scalarForm
theorem State.MemOk.divForm {h d srcs lat eff} (ok : s.MemOk) : MemOkAfter (divForm h d srcs lat eff s) := ok.issueCore

/-! ## Control flow and gangs -/

theorem State.MemOk.transferTo {target link lx} (ok : s.MemOk) : (transferTo s target link lx).MemOk := by
  unfold Machine.transferTo
  dsimp only
  split
  · exact ok
  · split
    · exact ok
    · exact ok.setCc

theorem State.MemOk.execBr {h lx imm} (ok : s.MemOk) : MemOkAfter (execBr h lx imm s) := ok.issueWord fun ok => ok.transferTo
theorem State.MemOk.execCall {h d imm} (ok : s.MemOk) : MemOkAfter (execCall h d imm s) := ok.issueWord fun ok => ok.transferTo
theorem State.MemOk.execJr {h a lx imm} (ok : s.MemOk) : MemOkAfter (execJr h a lx imm s) := ok.issueWord fun ok => ok.transferTo

theorem State.MemOk.execCallr {h d a imm} (ok : s.MemOk) : MemOkAfter (execCallr h d a imm s) :=
  ok.issueWord fun ok => ok.transferTo

theorem State.MemOk.execRet {h a} (ok : s.MemOk) : MemOkAfter (execRet h a s) := ok.issueWord fun ok => ok.transferTo

theorem State.MemOk.startLoop {len count} (ok : s.MemOk) : (startLoop s len count).MemOk := by
  unfold Machine.startLoop
  exact .ite ok (.ite ok ok.setCc)

theorem State.MemOk.execLoop {h a len} (ok : s.MemOk) : MemOkAfter (execLoop h a len s) := ok.issueWord fun ok => ok.startLoop

theorem State.MemOk.execLoopi {h len cnt} (ok : s.MemOk) : MemOkAfter (execLoopi h len cnt s) :=
  ok.issueWord fun ok => ok.startLoop

theorem State.MemOk.execPand {h d a b na nb} (ok : s.MemOk) : MemOkAfter (execPand h d a b na nb s) := ok.pForm
theorem State.MemOk.execPor {h d a b na nb} (ok : s.MemOk) : MemOkAfter (execPor h d a b na nb s) := ok.pForm
theorem State.MemOk.execPxor {h d a b na nb} (ok : s.MemOk) : MemOkAfter (execPxor h d a b na nb s) := ok.pForm
theorem State.MemOk.execPnot {h d a} (ok : s.MemOk) : MemOkAfter (execPnot h d a s) := ok.pForm
theorem State.MemOk.execPmov {h d a} (ok : s.MemOk) : MemOkAfter (execPmov h d a s) := ok.pForm
theorem State.MemOk.execNop {h} (ok : s.MemOk) : MemOkAfter (execNop h s) := ok.issueCore
theorem State.MemOk.execTimed {h} (ok : s.MemOk) : MemOkAfter (execTimed h s) := ok.issueCore
theorem State.MemOk.execChecked {h} (ok : s.MemOk) : MemOkAfter (execChecked h s) := ok.issueCore
theorem State.MemOk.setGang {cl base g} (ok : s.MemOk) : (s.setGang cl base g).MemOk := ok.setCluster

theorem State.MemOk.formGang {cl base num} (ok : s.MemOk) : (s.formGang cl base num).MemOk := by
  unfold State.formGang
  exact ((ok.foldl fun ok => ok.setCore).foldl fun ok => ok.setCore).setCluster

theorem State.MemOk.startGang {base num} (ok : s.MemOk) : (startGang s base num).MemOk := by
  unfold Machine.startGang
  exact .ite ok (.ite ok (State.MemOk.ite ok.setCc.formGang ok.setCc))

theorem State.MemOk.execGang {h base num} (ok : s.MemOk) : MemOkAfter (execGang h base num s) :=
  ok.issueWord fun ok => ok.startGang

theorem State.MemOk.dissolve {n t gap next} (ok : s.MemOk) : (s.dissolve n t gap next).MemOk := by
  unfold State.dissolve
  dsimp only
  split
  · exact ok.setGang.foldl fun ok => .ite ok (.ite ok.setCore (.ite ok.setCore ok))
  · exact ok

theorem State.MemOk.splitGang (ok : s.MemOk) : (splitGang s).MemOk := by
  unfold Machine.splitGang
  dsimp only
  split
  · exact ok
  · exact .ite ok.dissolve.setCc (.ite ok ok.leaveLockstep.setCc)

theorem State.MemOk.execGsplit {h} (ok : s.MemOk) : MemOkAfter (execGsplit h s) := ok.issueWord fun ok => ok.splitGang

theorem State.MemOk.completeJoin {cl g byLead} (ok : s.MemOk) : (s.completeJoin cl g byLead).MemOk := by
  unfold State.completeJoin
  exact ((ok.foldl fun ok => ok.setCore).foldl fun ok => ok.setCore).setGang

theorem State.MemOk.joinGang (ok : s.MemOk) : (joinGang s).MemOk := by
  unfold Machine.joinGang
  dsimp only
  split
  · exact ok
  · exact .ite ok.setCc (State.MemOk.ite ok.setCc.setGang.completeJoin ok.setCc.setGang)

theorem State.MemOk.execGjoin {h} (ok : s.MemOk) : MemOkAfter (execGjoin h s) := ok.issueWord fun ok => ok.joinGang

theorem State.MemOk.leaveGang {n atWord} (ok : s.MemOk) : (s.leaveGang n atWord).MemOk := by
  unfold State.leaveGang
  split
  · exact ok.dissolve
  · exact ok.leaveLockstep
  · exact ok

theorem State.MemOk.notBefore {n t} (ok : s.MemOk) : (s.notBefore n t).MemOk := ok.setCore

theorem State.MemOk.alignGang {run i lead} (ok : s.MemOk) : (State.alignGang run i lead s).1.MemOk := by
  unfold State.alignGang
  dsimp only
  split
  · split
    · exact ok
    · exact ok.foldl fun ok => ok.notBefore
  · exact ok

/-- A gang's members keep the invariant where the meaning of instructions does. -/
theorem State.MemOk.fanOut {run i lead before} (ok : s.MemOk) (step : ∀ {i} {s : State}, s.MemOk → MemOkAfter (run i s)) :
    MemOkAfter (fanOut run i lead before s) := by
  unfold Machine.fanOut
  extract_lets after one
  have member : ∀ (o : Host.Outcome State Fault Refusal) (f : Nat × Nat), MemOkAfter o → MemOkAfter (one o f) := by
    intro o f ok
    cases o with
    | next s =>
      dsimp only [one]
      split
      · exact ok.setCore
      · split
        · exact ok.setCore
        · split
          · rename_i hr
            have ran := MemOkAfter.get (step (by exact ok)) hr
            show State.MemOk _
            split
            · exact ran.leaveLockstep
            · exact .ite ran.setCore ran
            · exact ran
          · exact step (by exact ok)
    | fault _ => trivial
    | refused _ => trivial
  have all : MemOkAfter ((s.followers lead).foldl one (.next s)) := List.foldlRecOn _ one ok fun o ok f _ => member o f ok
  split
  · rename_i hr
    have followed := all.get hr
    exact followed
  · exact all

/-! ## Slot schedules -/

theorem State.MemOk.installSlots {p bs} (ok : s.MemOk) : (s.installSlots p bs).MemOk := by
  unfold State.installSlots
  refine State.MemOk.onPart ?_
  dsimp only [State.MemOk]
  exact ok.foldl fun ok => .ite ok.setCore ok

theorem State.MemOk.tryInstall {n} (ok : s.MemOk) : (s.tryInstall n).MemOk := by
  unfold State.tryInstall
  dsimp only
  split
  · exact ok
  · exact .ite ok (.setCore (.ite ok.installSlots ok))

theorem State.MemOk.tryInstalls (ok : s.MemOk) : s.tryInstalls.MemOk := ok.foldl fun ok => ok.tryInstall

/-! ## The event unit -/

theorem State.MemOk.onLine {cl e f} (ok : s.MemOk) : (s.onLine cl e f).MemOk := ok.setCluster
theorem State.MemOk.onMutex {cl m f} (ok : s.MemOk) : (s.onMutex cl m f).MemOk := ok.setCluster
theorem State.MemOk.onBarrier {cl b f} (ok : s.MemOk) : (s.onBarrier cl b f).MemOk := ok.setCluster
theorem State.MemOk.grant {n T x} (ok : s.MemOk) : (s.grant n T x).MemOk := ok.coreWrite.wakeWith

theorem State.MemOk.serveLine {cl e T fuel} (ok : s.MemOk) : (s.serveLine cl e T fuel).MemOk := by
  induction fuel generalizing s with
  | zero => exact ok
  | succ fuel ih =>
    unfold State.serveLine
    dsimp only
    split
    · exact ok
    · exact .ite ok (ih ok.onLine.grant)

theorem State.MemOk.signal {cl e T k} (ok : s.MemOk) : (s.signal cl e T k).MemOk := ok.onLine
theorem State.MemOk.evcStore {cl e T x} (ok : s.MemOk) : (s.evcStore cl e T x).MemOk := ok.onLine
theorem State.MemOk.serve {cl e} (ok : s.MemOk) : (s.serve cl e).MemOk := ok.serveLine
theorem State.MemOk.execEvcWrite {cl e x} (ok : s.MemOk) : MemOkAfter (execEvcWrite cl e x s) := ok.evcStore
theorem State.MemOk.execEventMessage {m} (ok : s.MemOk) : MemOkAfter (execEventMessage m s) := .ite ok.onPart ok.writeTime.signal
theorem State.MemOk.evuWrite (ok : s.MemOk) : s.evuWrite.MemOk := ok.coreWrite

theorem State.MemOk.signalEvent {tgt e cnt} (ok : s.MemOk) : (signalEvent tgt e cnt s).MemOk := by
  unfold Machine.signalEvent
  dsimp only
  split
  · split
    · exact ok
    · split
      · exact ok.evuWrite.hold
      · exact ok.evuWrite.signal
  · split
    · exact ok
    · split
      · exact ok.coreWrite.send
      · exact ok.setCc.report

theorem State.MemOk.execEvsigEv {h tgt e cnt} (ok : s.MemOk) : MemOkAfter (execEvsigEv h tgt e cnt s) :=
  ok.issueWord fun ok => ok.signalEvent

theorem State.MemOk.unlock {cl m T} (ok : s.MemOk) : (s.unlock cl m T).MemOk := by
  unfold State.unlock
  split
  · exact ok.onMutex
  · exact ok.onMutex.grant

theorem State.MemOk.execEvsigUnlock {h m} (ok : s.MemOk) : MemOkAfter (execEvsigUnlock h m s) :=
  ok.issueWord fun ok => .ite ok (.ite ok ok.evuWrite.unlock)

theorem State.MemOk.ldevReply {d x} (ok : s.MemOk) : (ldevReply s d x).MemOk := by
  unfold Machine.ldevReply
  exact ok.evuWrite.setCc

theorem State.MemOk.sleepIn {w i} (ok : s.MemOk) : (s.sleepIn w i).MemOk := ok.setCc

theorem State.MemOk.execLdevWait {h d e} (ok : s.MemOk) : MemOkAfter (execLdevWait h d e s) :=
  ok.issueWord fun ok => .ite ok (.ite ok.onLine.ldevReply ok.onLine.sleepIn)

theorem State.MemOk.execLdevPoll {h d e} (ok : s.MemOk) : MemOkAfter (execLdevPoll h d e s) :=
  ok.issueWord fun ok => .ite ok ok.onLine.ldevReply

theorem State.MemOk.execLdevLock {h d m} (ok : s.MemOk) : MemOkAfter (execLdevLock h d m s) :=
  ok.issueWord fun ok => .ite ok (.ite ok (.ite ok.onMutex.ldevReply ok.onMutex.sleepIn))

theorem State.MemOk.execLdevTry {h d m} (ok : s.MemOk) : MemOkAfter (execLdevTry h d m s) :=
  ok.issueWord fun ok => .ite ok (.ite ok (.ite ok.onMutex.ldevReply ok.ldevReply))

theorem State.MemOk.afterArrivals {n time} (ok : s.MemOk) : (s.afterArrivals n time).MemOk := ok.setCore.coreWrite

theorem State.MemOk.releaseMember {n T origin time pand por} (ok : s.MemOk) : (s.releaseMember n T origin time pand por).MemOk := by
  unfold State.releaseMember
  dsimp only
  split
  · exact .ite ok ok.afterArrivals.setCore
  · exact ok

theorem State.MemOk.sendRelease {cl b T time sup pand por stamp m} (ok : s.MemOk) :
    (s.sendRelease cl b T time sup pand por stamp m).MemOk := by
  unfold State.sendRelease
  exact .ite ok.sendAt ok.report

theorem State.MemOk.release {cl b T time pand por stamp} (ok : s.MemOk) : (s.release cl b T time pand por stamp).MemOk := by
  unfold State.release
  exact (ok.tryInstalls.onBarrier.foldl fun ok => ok.releaseMember).foldl fun ok => ok.sendRelease

theorem State.MemOk.sendArrival {cl b T} (ok : s.MemOk) : (s.sendArrival cl b T).MemOk := by
  unfold State.sendArrival
  dsimp only
  split
  · exact ok
  · split
    · exact ok.onBarrier
    · split
      · exact ok.onBarrier.onBarrier.report
      · exact .ite ok.onBarrier ok.onBarrier.onBarrier.sendAt

theorem State.MemOk.settleFrom {cl b T fuel} (ok : s.MemOk) : (State.settleFrom cl b T fuel s).MemOk := by
  induction fuel generalizing s T with
  | zero => exact ok
  | succ fuel ih => exact .ite ok (.ite ok.sendArrival (.ite ok.release (ih ok.release)))

theorem State.MemOk.settleBarrier {cl b T} (ok : s.MemOk) : (s.settleBarrier cl b T).MemOk := ok.settleFrom

theorem State.MemOk.execBarrierArrivalMessage {m} (ok : s.MemOk) : MemOkAfter (execBarrierArrivalMessage m s) := by
  unfold Machine.execBarrierArrivalMessage
  exact ok.writeTime.onBarrier.settleBarrier

theorem State.MemOk.execBarrierReleaseMessage {m} (ok : s.MemOk) : MemOkAfter (execBarrierReleaseMessage m s) := by
  unfold Machine.execBarrierReleaseMessage
  exact .ite ok (State.MemOk.ite ok.release ok.release.settleBarrier)

theorem State.MemOk.recheckBarriers {cl} (ok : s.MemOk) : (s.recheckBarriers cl).MemOk :=
  ok.foldl fun ok => .ite ok ok.settleBarrier

theorem State.MemOk.arriveAt {i b contrib wr sync kind} (ok : s.MemOk) : (arriveAt i b contrib wr sync kind s).MemOk := by
  unfold Machine.arriveAt
  exact .ite ok (.ite ok ok.evuWrite.onBarrier.sleepIn.settleBarrier)

theorem State.MemOk.execBar {h b} (ok : s.MemOk) : MemOkAfter (execBar h b s) := ok.issueWord fun ok => ok.arriveAt
theorem State.MemOk.execBarss {h b} (ok : s.MemOk) : MemOkAfter (execBarss h b s) := ok.issueWord fun ok => ok.arriveAt

theorem State.MemOk.execSpred {h d a isOr b} (ok : s.MemOk) : MemOkAfter (execSpred h d a isOr b s) :=
  ok.issueWord fun ok => ok.arriveAt

theorem State.MemOk.bcfgStore {cl b T x} (ok : s.MemOk) : (s.bcfgStore cl b T x).MemOk := by
  unfold State.bcfgStore
  exact .ite ok.onBarrier ok.onBarrier.settleBarrier

theorem State.MemOk.execBcfgWrite {cl b x} (ok : s.MemOk) : MemOkAfter (execBcfgWrite cl b x s) := ok.bcfgStore

theorem State.MemOk.withdraw {n} (ok : s.MemOk) : (s.withdraw n).MemOk := by
  unfold State.withdraw
  split
  · exact ok.onBarrier
  · exact ok

theorem State.MemOk.evuStore {cl off T x} (ok : s.MemOk) : (s.evuStore cl off T x).MemOk := by
  unfold State.evuStore
  dsimp only
  split
  · split
    · exact ok.hold
    · exact ok.evcStore
  · exact .ite ok (.ite (.ite ok.bcfgStore ok) ok.setCluster)

theorem State.MemOk.lostPacket {k} (ok : s.MemOk) : (s.lostPacket k).MemOk := ok.recheckBarriers

theorem State.MemOk.deliver {k} (ok : s.MemOk) : (s.deliver k).MemOk := by
  unfold State.deliver
  dsimp only
  split
  · exact .ite ok.hold (.ite ok.lostPacket ok.owe)
  · exact ok.owe

theorem State.MemOk.countDrop {p} (ok : s.MemOk) : (s.countDrop p).MemOk := by
  unfold State.countDrop
  split
  · exact ok.onPart
  · exact ok

theorem State.MemOk.eject {k} (ok : s.MemOk) : (s.eject k).MemOk :=
  .ite ok.deliver (.ite ok.countDrop.lostPacket ok.countDrop.lostPacket)

end Sys2Proof.Machine
end

section
/-! The canonical form of memory: the memories and the accesses to them. -/
namespace Sys2Proof.Machine
open Sys2Proof
variable {s : State}

/-! ## Local memories -/

theorem State.MemOk.coreReads {n hs} (ok : s.MemOk) : (s.coreReads n hs).MemOk := ok.foldl fun ok => ok.coreRead
theorem State.MemOk.coreWrites {n hs} (ok : s.MemOk) : (s.coreWrites n hs).MemOk := ok.foldl fun ok => ok.coreWrite

theorem State.MemOk.writePlace {p bs} (ok : s.MemOk) : (s.writePlace p bs).MemOk := by
  unfold State.writePlace
  dsimp only
  split
  · exact ok.setCore
  · exact ok.setDie
  · exact ok

theorem State.MemOk.scan {p len} (ok : s.MemOk) : (s.scan p len).1.MemOk := by
  unfold State.scan
  dsimp only
  split
  · exact .ite ((ok.setCore.foldl fun ok => ok.suspect).owe) (ok.setCore.foldl fun ok => ok.suspect)
  · exact ok
  · exact ok

theorem State.MemOk.touch {n p len} (ok : s.MemOk) : (s.touch n p len).1.MemOk := by
  unfold State.touch
  exact .ite ok.scan.postError ok.scan

theorem State.MemOk.passes {p} (ok : s.MemOk) : (s.passes p).MemOk := ok.setCc

theorem State.MemOk.ownPasses {a p} (ok : s.MemOk) : (s.ownPasses a p).MemOk := by
  unfold State.ownPasses
  split
  · exact ok.passes
  · exact ok

theorem State.MemOk.noteHold {xs} (ok : s.MemOk) : (s.noteHold xs).MemOk := ok.setCc
theorem State.MemOk.holdOn {a len} (ok : s.MemOk) : (holdOn s a len).MemOk := ok.noteHold
theorem State.MemOk.holdLanes {m adr} (ok : s.MemOk) : (holdLanes s m adr).MemOk := ok.noteHold

theorem State.MemOk.groupHold {a m n img k} (ok : s.MemOk) (step : ∀ {s : State}, s.MemOk → (k s).MemOk) :
    (groupHold a m n img k s).MemOk := by
  unfold Machine.groupHold
  exact .ite (step ok) ok.noteHold

theorem State.MemOk.noStream {xs k} (ok : s.MemOk) (step : ∀ {s : State}, s.MemOk → (k s).MemOk) : (noStream xs k s).MemOk := by
  unfold Machine.noStream
  split
  · exact ok
  · exact step ok

theorem State.MemOk.loadScalar {a len p wr} (ok : s.MemOk) : (loadScalar a len p wr s).MemOk := by
  unfold Machine.loadScalar
  exact .ite ok.touch ok.touch.coreRead.setCc

theorem State.MemOk.execLd {h d a sz zx imm} (ok : s.MemOk) : MemOkAfter (execLd h d a sz zx imm s) := by
  unfold Machine.execLd
  refine ok.issueWord fun ok => ?_
  dsimp only
  split
  · exact ok.holdOn
  · split
    · exact ok
    · exact .ite ok (.ite ok ok.coreRead.setCc)
    · exact .ite ok ok.loadScalar

theorem State.MemOk.storePlace {p bs} (ok : s.MemOk) : (storePlace p bs s).MemOk := by
  unfold Machine.storePlace
  refine State.MemOk.writePlace ?_
  split
  · exact ok.coreWrites.noteStore
  · exact ok.coreWrites

theorem State.MemOk.execSt {h a b sz imm} (ok : s.MemOk) : MemOkAfter (execSt h a b sz imm s) := by
  unfold Machine.execSt
  refine ok.issueWord fun ok => ?_
  dsimp only
  split
  · exact ok.holdOn
  · split
    · exact ok
    · exact .ite ok (.ite ok (.ite ok ok.evuWrite.evuStore))
    · exact .ite ok ok.storePlace

theorem State.MemOk.execKld {h d a imm} (ok : s.MemOk) : MemOkAfter (execKld h d a imm s) := by
  unfold Machine.execKld
  refine ok.issueWord fun ok => ?_
  dsimp only
  split
  · exact ok.holdOn
  · split
    · exact ok
    · exact ok
    · exact ok.loadScalar

theorem State.MemOk.execKst {h a b imm} (ok : s.MemOk) : MemOkAfter (execKst h a b imm s) := by
  unfold Machine.execKst
  refine ok.issueWord fun ok => ?_
  dsimp only
  split
  · exact ok.holdOn
  · split
    · exact ok
    · exact ok
    · exact ok.storePlace

theorem State.MemOk.loadGroup {a d tag tw t passes left i} (ok : s.MemOk) : (loadGroup a d tag tw t passes left i s).MemOk := by
  induction left generalizing s i with
  | zero => exact ok.ownPasses
  | succ left ih =>
    unfold Machine.loadGroup
    dsimp only
    split
    · exact ok
    · exact ih ok.touch.coreReads.setCc

theorem State.MemOk.storeGroup {a b n passes img left i} (ok : s.MemOk) : (storeGroup a b n passes img left i s).MemOk := by
  induction left generalizing s i with
  | zero =>
    unfold Machine.storeGroup
    split
    · exact ok.ownPasses
    · exact ok.storePlace.ownPasses
  | succ left ih =>
    unfold Machine.storeGroup
    dsimp only
    split
    · exact ok
    · split
      · exact ok
      · exact ih ok.storePlace

theorem State.MemOk.execVld {h tag d a x imm} (ok : s.MemOk) : MemOkAfter (execVld h tag d a x imm s) :=
  ok.issueWord fun ok => ok.noStream fun ok => ok.groupHold fun ok => ok.loadGroup

theorem State.MemOk.execVldImg {h d a x imm} (ok : s.MemOk) : MemOkAfter (execVldImg h d a x imm s) := by
  unfold Machine.execVldImg
  refine ok.issueWord fun ok => ?_
  refine ok.noStream fun ok => ?_
  refine ok.groupHold fun ok => ?_
  dsimp only
  split
  · exact ok
  · exact ok.touch.coreRead.loadGroup

theorem State.MemOk.execVst {h a b x imm} (ok : s.MemOk) : MemOkAfter (execVst h a b x imm s) :=
  ok.issueWord fun ok => ok.noStream fun ok => ok.groupHold fun ok => ok.storeGroup

theorem State.MemOk.execVstImg {h a b x imm} (ok : s.MemOk) : MemOkAfter (execVstImg h a b x imm s) := by
  unfold Machine.execVstImg
  refine ok.issueWord fun ok => ?_
  refine ok.noStream fun ok => ?_
  refine ok.groupHold fun ok => ?_
  split
  · exact ok
  · exact ok.storeGroup

theorem State.MemOk.execVldl {h tag d a km imm} (ok : s.MemOk) : MemOkAfter (execVldl h tag d a km imm s) := by
  unfold Machine.execVldl
  refine ok.issueWord fun ok => ?_
  refine ok.noStream fun ok => ?_
  dsimp only
  split
  · exact ok
  · split
    · exact ok
    · split
      · exact ok
      · exact ok.setCc

theorem State.MemOk.execVstl {h a b km imm} (ok : s.MemOk) : MemOkAfter (execVstl h a b km imm s) := by
  unfold Machine.execVstl
  refine ok.issueWord fun ok => ?_
  refine ok.noStream fun ok => ?_
  dsimp only
  split
  · exact ok
  · split
    · exact ok
    · split
      · exact ok
      · exact ok.setCc

theorem State.MemOk.execVgath {h tag d a b km} (ok : s.MemOk) : MemOkAfter (execVgath h tag d a b km s) := by
  unfold Machine.execVgath
  refine ok.issueWord fun ok => ?_
  refine ok.noStream fun ok => ?_
  dsimp only
  split
  · exact ok.holdLanes
  · split
    · exact ok
    · split
      · exact ok
      · split
        · exact ok
        · refine State.MemOk.passes (State.MemOk.setCc (State.MemOk.foldl_fst ?_ fun ok => ?_))
          · exact ok
          · exact ok.touch.coreRead

theorem State.MemOk.execVscat {h d a b km} (ok : s.MemOk) : MemOkAfter (execVscat h d a b km s) := by
  unfold Machine.execVscat
  refine ok.issueWord fun ok => ?_
  refine ok.noStream fun ok => ?_
  dsimp only
  split
  · exact ok.holdLanes
  · split
    · exact ok
    · split
      · exact ok
      · split
        · exact ok
        · exact (ok.foldl fun ok => ok.storePlace).passes

/-! ## Global memory -/

theorem State.MemOk.waitWalk {va i done} (ok : s.MemOk) : (s.waitWalk va i done).MemOk := ok.setCc.owe

theorem State.MemOk.xerr {i done e} (ok : s.MemOk) : (xerr s i done e).MemOk := by
  unfold Machine.xerr
  split
  · exact ok
  · exact ok.waitWalk
  · trivial

theorem State.MemOk.gldEff {i d a sz zx imm} (ok : s.MemOk) : (gldEff i d a sz zx imm s).MemOk := by
  unfold Machine.gldEff
  dsimp only
  split
  · exact ok.holdOn
  · split
    · exact ok.xerr
    · exact .ite ok.badRead ok.readGlobal.setCc

theorem State.MemOk.gstEff {i a b sz imm} (ok : s.MemOk) : (gstEff i a b sz imm s).MemOk := by
  unfold Machine.gstEff
  dsimp only
  split
  · exact ok.holdOn
  · split
    · exact ok.xerr
    · exact ok.writeGlobal

theorem State.MemOk.execGld {h d a sz zx imm} (ok : s.MemOk) : MemOkAfter (execGld h d a sz zx imm s) :=
  ok.issueWord fun ok => ok.gldEff

theorem State.MemOk.execGst {h a b sz imm} (ok : s.MemOk) : MemOkAfter (execGst h a b sz imm s) :=
  ok.issueWord fun ok => ok.gstEff

theorem State.MemOk.readWords {n ws} (ok : s.MemOk) : (readWords n ws s).1.MemOk := by
  induction ws generalizing s with
  | nil => exact ok
  | cons w ws ih => exact ih ok.readGlobal

theorem State.MemOk.writeWords {n ws bs} (ok : s.MemOk) : (writeWords n ws bs s).MemOk := by
  induction ws generalizing s bs with
  | nil => exact ok
  | cons w ws ih => exact ih ok.writeGlobal

theorem State.MemOk.gloadGroup {ins a d tag tw left i} (ok : s.MemOk) : (gloadGroup ins a d tag tw left i s).MemOk := by
  induction left generalizing s i with
  | zero => exact ok
  | succ left ih =>
    unfold Machine.gloadGroup
    split
    · exact ok.xerr
    · exact ih ok.readWords.badRead.setCc

theorem State.MemOk.gstoreGroup {ins a b n img left i} (ok : s.MemOk) : (gstoreGroup ins a b n img left i s).MemOk := by
  induction left generalizing s i with
  | zero =>
    unfold Machine.gstoreGroup
    split
    · exact ok
    · exact ok.writeGlobal
  | succ left ih =>
    unfold Machine.gstoreGroup
    dsimp only
    split
    · exact ok
    · split
      · exact ok.xerr
      · exact ih ok.writeWords

theorem State.MemOk.gldVEff {ins tag d a x imm} (ok : s.MemOk) : (gldVEff ins tag d a x imm s).MemOk :=
  ok.noStream fun ok => ok.groupHold fun ok => ok.gloadGroup

theorem State.MemOk.gldImgEff {ins d a x imm} (ok : s.MemOk) : (gldImgEff ins d a x imm s).MemOk := by
  unfold Machine.gldImgEff
  refine ok.noStream fun ok => ?_
  refine ok.groupHold fun ok => ?_
  dsimp only
  split
  · exact ok.xerr
  · exact ok.badRead.readGlobal.gloadGroup

theorem State.MemOk.gstVEff {ins a b x imm} (ok : s.MemOk) : (gstVEff ins a b x imm s).MemOk :=
  ok.noStream fun ok => ok.groupHold fun ok => ok.gstoreGroup

theorem State.MemOk.gstImgEff {ins a b x imm} (ok : s.MemOk) : (gstImgEff ins a b x imm s).MemOk := by
  unfold Machine.gstImgEff
  refine ok.noStream fun ok => ?_
  refine ok.groupHold fun ok => ?_
  split
  · exact ok.xerr
  · exact ok.gstoreGroup

theorem State.MemOk.execGldV {h tag d a x imm} (ok : s.MemOk) : MemOkAfter (execGldV h tag d a x imm s) :=
  ok.issueWord fun ok => ok.gldVEff

theorem State.MemOk.execGldImg {h d a x imm} (ok : s.MemOk) : MemOkAfter (execGldImg h d a x imm s) :=
  ok.issueWord fun ok => ok.gldImgEff

theorem State.MemOk.execGstV {h a b x imm} (ok : s.MemOk) : MemOkAfter (execGstV h a b x imm s) :=
  ok.issueWord fun ok => ok.gstVEff

theorem State.MemOk.execGstImg {h a b x imm} (ok : s.MemOk) : MemOkAfter (execGstImg h a b x imm s) :=
  ok.issueWord fun ok => ok.gstImgEff

theorem State.MemOk.maintLine {n line op} (ok : s.MemOk) : (s.maintLine n line op).MemOk := by
  unfold State.maintLine
  dsimp only
  split
  · exact ok
  · split
    · exact ok.dropCopy
    · exact .ite (.dropCopy (.ite ok ok.mergeCopy.setCore)) (.setCopy (.ite ok ok.mergeCopy.setCore))

theorem State.MemOk.maintPages {op hi k va} (ok : s.MemOk) : (maintPages op hi k va s).MemOk := by
  induction k generalizing s va with
  | zero => exact ok
  | succ k ih =>
    unfold Machine.maintPages
    dsimp only
    split
    · exact ok
    · split
      · exact ok
      · split
        · exact ih ok
        · exact .ite ok (.ite (ih ok) (ih (ok.foldl fun ok => ok.maintLine)))

theorem State.MemOk.maintEff {op a b} (ok : s.MemOk) : (maintEff op a b s).MemOk := by
  unfold Machine.maintEff
  exact .ite ok (.ite ok.holdOn (.ite ok ok.maintPages))

theorem State.MemOk.execRwb {h a b} (ok : s.MemOk) : MemOkAfter (execRwb h a b s) := ok.issueWord fun ok => ok.maintEff
theorem State.MemOk.execRinv {h a b} (ok : s.MemOk) : MemOkAfter (execRinv h a b s) := ok.issueWord fun ok => ok.maintEff
theorem State.MemOk.execRwbi {h a b} (ok : s.MemOk) : MemOkAfter (execRwbi h a b s) := ok.issueWord fun ok => ok.maintEff

theorem State.MemOk.execPref {h a l2 imm} (ok : s.MemOk) : MemOkAfter (execPref h a l2 imm s) := by
  unfold Machine.execPref
  refine ok.issueWord fun ok => ?_
  dsimp only
  split
  · exact ok
  · split
    · exact ok
    · split
      · exact ok
      · split
        · exact ok.holdOn
        · split
          · exact ok
          · show State.MemOk _
            refine State.MemOk.setCc ?_
            split
            · exact ok.leasedRead
            · exact ok.fillSwm
            · exact ok

theorem State.MemOk.parkCore {n va kind level} (ok : s.MemOk) : (s.parkCore n va kind level).MemOk := by
  unfold State.parkCore
  extract_lets c d x slot parked left
  have left_ok : left.MemOk := .ite ok.setDie.setCore.leaveLockstep ok.setDie.setCore
  exact .ite left_ok.owe left_ok

theorem State.MemOk.fillTlb {n e} (ok : s.MemOk) : (s.fillTlb n e).MemOk := ok.fillL2.setCluster

theorem State.MemOk.walkFor {n va} (ok : s.MemOk) : (s.walkFor n va).MemOk := by
  unfold State.walkFor
  dsimp only
  split
  · exact ok.fillTlb.owe
  · exact .ite ok.faultOnFault ok.parkCore

theorem State.MemOk.execPageWalk {die vsid granule} (ok : s.MemOk) : MemOkAfter (execPageWalk die vsid granule s) :=
  ok.foldl fun ok => .ite ok.walkFor ok

theorem State.MemOk.execL1dEviction {cl line swm} (ok : s.MemOk) : MemOkAfter (execL1dEviction cl line swm s) := by
  unfold Machine.execL1dEviction
  dsimp only
  split
  · exact ok
  · exact State.MemOk.ite ok.dropCopy.mergeCopy ok.dropCopy

/-! ## Accesses of the engines, the array and the ports -/

/-- A stop behind an access that has left a state carries that state, or its own. -/
theorem State.MemOk.behind {e} (ok : s.MemOk) (bad : e.MemOk) : (AStop.behind s e).MemOk := by
  cases e with
  | fail c x => exact ok
  | failAt t c x => exact bad
  | _ => trivial

theorem State.MemOk.split {e} (ok : s.MemOk) (bad : e.MemOk) : (AStop.split s e).1.MemOk := by
  cases e with
  | failAt t c x => exact bad
  | _ => exact ok

theorem State.MemOk.agentXlate {g va r} (ok : s.MemOk) : AgentOk (s.agentXlate g va r) := by
  unfold State.agentXlate
  extract_lets d found
  have walked : AgentOk found := by
    dsimp only [found]
    split
    · exact ok
    · split
      · exact ok.fillL2
      · dsimp only [AgentOk]
        split <;> trivial
  clear_value found
  split
  · trivial
  · split
    · exact walked
    · exact .ite trivial (.ite trivial walked)

theorem State.MemOk.saw {g m pos now r} (ok : s.MemOk) (read : r.1.MemOk) : (Agent.saw g s m pos now r).1.MemOk := by
  unfold Agent.saw
  extract_lets bs
  split
  · exact read
  · exact ok

theorem State.MemOk.agentRead1 {g a n} (ok : s.MemOk) : AgentOk (s.agentRead1 g a n) := by
  unfold State.agentRead1
  split
  · split
    · trivial
    · trivial
    · dsimp only
      split
      · exact ok.scan
      · split
        · exact ok.scan.saw ok.scan.readTime
        · trivial
  · split
    · trivial
    · split
      · rename_i hr
        exact ok.agentXlate.error hr
      · rename_i hr
        have ok := ok.agentXlate.get hr
        exact .ite trivial (ok.gain.saw ok.gain.readTime)

theorem State.MemOk.agentWrite1 {g a bs} (ok : s.MemOk) : AgentOk (s.agentWrite1 g a bs) := by
  unfold State.agentWrite1
  dsimp only
  split
  · split
    · trivial
    · trivial
    · exact ok.writeTime.writePlace
  · split
    · trivial
    · split
      · rename_i hr
        exact ok.agentXlate.error hr
      · rename_i hr
        exact (ok.agentXlate.get hr).gain.writeTime.noteCode.putHome

theorem State.MemOk.agentRead {g a fuel n} (ok : s.MemOk) : AgentOk (s.agentRead g a fuel n) := by
  induction fuel generalizing s g a n with
  | zero => exact ok
  | succ fuel ih =>
    unfold State.agentRead
    split
    · exact ok
    · dsimp only
      split
      · rename_i hr
        exact ok.agentRead1.error hr
      · rename_i hr
        have read := ok.agentRead1.get hr
        split
        · exact read
        · split
          · rename_i hr1
            exact read.behind ((ih read).error hr1)
          · rename_i hr1
            exact (ih read).get hr1

theorem State.MemOk.agentBytes {g a n} (ok : s.MemOk) : AgentOk (s.agentBytes g a n) := ok.agentRead

theorem State.MemOk.agentWrite {g a fuel bs} (ok : s.MemOk) : AgentOk (s.agentWrite g a fuel bs) := by
  induction fuel generalizing s g a bs with
  | zero => exact ok
  | succ fuel ih =>
    unfold State.agentWrite
    split
    · exact ok
    · dsimp only
      split
      · rename_i hr
        exact ok.agentWrite1.error hr
      · rename_i hr
        have written := ok.agentWrite1.get hr
        split
        · exact written
        · split
          · rename_i hr1
            exact written.behind ((ih written).error hr1)
          · exact ih written

theorem State.MemOk.agentStore {g a bs} (ok : s.MemOk) : AgentOk (s.agentStore g a bs) := ok.agentWrite

theorem State.MemOk.parkAgent {g ptag path va m level p} (ok : s.MemOk) : (s.parkAgent g ptag path va m level p).MemOk :=
  ok.setDie

end Sys2Proof.Machine
end

section
/-! The canonical form of memory: the scalar, vector and matrix instructions. -/
namespace Sys2Proof.Machine
open Sys2Proof
variable {s : State}

/-! ## The vector unit's shared operations -/

theorem State.MemOk.readChunk {d pos k} (ok : s.MemOk) : FirstOk (readChunk d pos k s) := by
  induction k generalizing s pos with
  | zero => exact ok
  | succ k ih =>
    unfold Machine.readChunk
    dsimp only
    split
    · trivial
    · split
      · trivial
      · rename_i hr
        exact (ih ok.touch.coreRead).get hr

theorem State.MemOk.nextChunk {p} (ok : s.MemOk) : FirstOk (s.nextChunk p) := by
  unfold State.nextChunk
  split
  · exact ok
  · split
    · trivial
    · rename_i hr
      exact ok.readChunk.get hr
    · trivial

theorem State.MemOk.execStreamChunkArrive {core port} (ok : s.MemOk) : MemOkAfter (execStreamChunkArrive core port s) := by
  unfold Machine.execStreamChunkArrive
  dsimp only
  split
  · exact ok
  · refine .ite ok (.ite ok ?_)
    have read := fun d pos k => State.MemOk.readChunk (s := { s with cur := core }) (d := d) (pos := pos) (k := k) ok
    split
    · rename_i hr
      have fetched := (read _ _ _).get hr
      exact fetched
    · exact ok

theorem State.MemOk.eff {e} (ok : s.MemOk) : (VStop.eff s e).MemOk := by
  unfold Machine.VStop.eff
  dsimp only
  split
  · exact ok
  · split
    · exact ok.touch
    · exact ok
  · exact ok.noteHold

theorem State.MemOk.orElse {e} (ok : s.MemOk) (bad : e.MemOk) : (Eff.orElse s e).MemOk := by
  unfold Machine.Eff.orElse
  split
  · exact ok
  · exact ok.noteHold
  · exact bad

theorem State.MemOk.popAll {rs} (ok : s.MemOk) : FirstOk (popAll rs s) := by
  induction rs generalizing s with
  | nil => exact ok
  | cons r rs ih =>
    unfold Machine.popAll
    split
    · split
      · trivial
      · rename_i hr
        exact (ih ok).get hr
    · split
      · trivial
      · rename_i hr
        dsimp only
        split
        · trivial
        · rename_i hr1
          exact (ih (ok.nextChunk.get hr).setCc).get hr1

theorem State.MemOk.putVec {d x t lat stored} (ok : s.MemOk) : (putVec d x t lat stored s).MemOk := by
  unfold Machine.putVec
  dsimp only
  split
  · exact ok.setCc
  · exact (ok.foldl fun ok => ok.storePlace).setCc

theorem State.MemOk.openVec {p d a b stored} (ok : s.MemOk) : VInOk (openVec p d a b stored s) := by
  unfold Machine.openVec
  split
  · trivial
  · split
    · trivial
    · split
      · trivial
      · rename_i hr
        exact ok.popAll.get hr

theorem State.MemOk.vecEff {p d a b act f skip retag} (ok : s.MemOk) : (vecEff p d a b act f skip retag s).MemOk := by
  unfold Machine.vecEff
  dsimp only
  split
  · exact ok.eff
  · rename_i hr
    exact ok.orElse ((ok.openVec.get hr).setCc.putVec)

theorem State.MemOk.vecForm {h p d a b f skip} (ok : s.MemOk) : MemOkAfter (vecForm h p d a b f skip s) := by
  unfold Machine.vecForm
  exact ok.issueWord fun ok => ok.vecEff

theorem State.MemOk.maskForm {h p d a b f} (ok : s.MemOk) : MemOkAfter (maskForm h p d a b f s) := by
  unfold Machine.maskForm
  refine ok.issueWord fun ok => ?_
  dsimp only
  split
  · exact ok.eff
  · rename_i hr
    exact (ok.openVec.get hr).setCc

/-! ## Conversions -/

theorem State.MemOk.convEff {tag d a b allowA allowB rm stm chunk conv} (ok : s.MemOk) :
    (convEff tag d a b allowA allowB rm stm chunk conv s).MemOk := by
  unfold Machine.convEff
  dsimp only
  split
  · exact ok.eff
  · split
    · exact ok
    · split
      · exact ok.eff
      · rename_i hr
        exact ok.orElse ((ok.openVec.get hr).setCc.putVec)

theorem State.MemOk.execVcvt {h tag d a rm stm chunk} (ok : s.MemOk) : MemOkAfter (execVcvt h tag d a rm stm chunk s) :=
  ok.issueWord fun ok => ok.convEff

theorem State.MemOk.execVcvts {h tag d a b rm stm chunk} (ok : s.MemOk) : MemOkAfter (execVcvts h tag d a b rm stm chunk s) :=
  ok.issueWord fun ok => ok.convEff

theorem State.MemOk.execVtag {h tag d a} (ok : s.MemOk) : MemOkAfter (execVtag h tag d a s) := ok.issueWord fun ok => ok.vecEff
theorem State.MemOk.execVtagr {h d a} (ok : s.MemOk) : MemOkAfter (execVtagr h d a s) := ok.scalarForm

theorem State.MemOk.execVscl {h tag d a j} (ok : s.MemOk) : MemOkAfter (execVscl h tag d a j s) := by
  unfold Machine.execVscl
  refine ok.issueWord fun ok => ?_
  dsimp only
  split
  · exact ok.eff
  · rename_i hr
    exact ok.orElse ((ok.openVec.get hr).setCc.putVec)

theorem State.MemOk.execVquant {h tag d a b rm chunk j} (ok : s.MemOk) : MemOkAfter (execVquant h tag d a b rm chunk j s) :=
  ok.issueWord fun ok => ok.convEff

theorem State.MemOk.execVdeq {h d a b rm chunk j} (ok : s.MemOk) : MemOkAfter (execVdeq h d a b rm chunk j s) :=
  ok.issueWord fun ok => ok.convEff

/-! ## Scalar instructions -/

theorem State.MemOk.execAdd {h d a b w} (ok : s.MemOk) : MemOkAfter (execAdd h d a b w s) := ok.gForm
theorem State.MemOk.execSub {h d a b w} (ok : s.MemOk) : MemOkAfter (execSub h d a b w s) := ok.gForm
theorem State.MemOk.execAndR {h d a b} (ok : s.MemOk) : MemOkAfter (execAndR h d a b s) := ok.gForm
theorem State.MemOk.execOrR {h d a b} (ok : s.MemOk) : MemOkAfter (execOrR h d a b s) := ok.gForm
theorem State.MemOk.execXorR {h d a b} (ok : s.MemOk) : MemOkAfter (execXorR h d a b s) := ok.gForm
theorem State.MemOk.execAndn {h d a b} (ok : s.MemOk) : MemOkAfter (execAndn h d a b s) := ok.gForm
theorem State.MemOk.execOrn {h d a b} (ok : s.MemOk) : MemOkAfter (execOrn h d a b s) := ok.gForm
theorem State.MemOk.execNeg {h d a w} (ok : s.MemOk) : MemOkAfter (execNeg h d a w s) := ok.gForm
theorem State.MemOk.execAddi {h d a w imm} (ok : s.MemOk) : MemOkAfter (execAddi h d a w imm s) := ok.gForm
theorem State.MemOk.execAndi {h d a imm} (ok : s.MemOk) : MemOkAfter (execAndi h d a imm s) := ok.gForm
theorem State.MemOk.execOri {h d a imm} (ok : s.MemOk) : MemOkAfter (execOri h d a imm s) := ok.gForm
theorem State.MemOk.execXori {h d a imm} (ok : s.MemOk) : MemOkAfter (execXori h d a imm s) := ok.gForm
theorem State.MemOk.execShl {h d a w src} (ok : s.MemOk) : MemOkAfter (execShl h d a w src s) := ok.gForm
theorem State.MemOk.execShr {h d a w src} (ok : s.MemOk) : MemOkAfter (execShr h d a w src s) := ok.gForm
theorem State.MemOk.execShra {h d a w src} (ok : s.MemOk) : MemOkAfter (execShra h d a w src s) := ok.gForm
theorem State.MemOk.execRol {h d a w src} (ok : s.MemOk) : MemOkAfter (execRol h d a w src s) := ok.gForm
theorem State.MemOk.execRor {h d a w src} (ok : s.MemOk) : MemOkAfter (execRor h d a w src s) := ok.gForm
theorem State.MemOk.execMul {h d a b w} (ok : s.MemOk) : MemOkAfter (execMul h d a b w s) := ok.gForm
theorem State.MemOk.execMulh {h d a b w} (ok : s.MemOk) : MemOkAfter (execMulh h d a b w s) := ok.gForm
theorem State.MemOk.execMulhn {h d a b w} (ok : s.MemOk) : MemOkAfter (execMulhn h d a b w s) := ok.gForm
theorem State.MemOk.execDiv {h d a b w} (ok : s.MemOk) : MemOkAfter (execDiv h d a b w s) := ok.divForm
theorem State.MemOk.execDivn {h d a b w} (ok : s.MemOk) : MemOkAfter (execDivn h d a b w s) := ok.divForm
theorem State.MemOk.execRem {h d a b w} (ok : s.MemOk) : MemOkAfter (execRem h d a b w s) := ok.divForm
theorem State.MemOk.execRemn {h d a b w} (ok : s.MemOk) : MemOkAfter (execRemn h d a b w s) := ok.divForm

theorem State.MemOk.execDividerResult {core} (ok : s.MemOk) : MemOkAfter (execDividerResult core s) := by
  unfold Machine.execDividerResult
  exact .ite ok.setCore ok

theorem State.MemOk.execClz {h d a w} (ok : s.MemOk) : MemOkAfter (execClz h d a w s) := ok.gForm
theorem State.MemOk.execCtz {h d a w} (ok : s.MemOk) : MemOkAfter (execCtz h d a w s) := ok.gForm
theorem State.MemOk.execPopc {h d a w} (ok : s.MemOk) : MemOkAfter (execPopc h d a w s) := ok.gForm
theorem State.MemOk.execBrev {h d a w} (ok : s.MemOk) : MemOkAfter (execBrev h d a w s) := ok.gForm
theorem State.MemOk.execBswap {h d a w} (ok : s.MemOk) : MemOkAfter (execBswap h d a w s) := ok.gForm
theorem State.MemOk.execBfx {h d a w pos len} (ok : s.MemOk) : MemOkAfter (execBfx h d a w pos len s) := ok.gForm
theorem State.MemOk.execBfxn {h d a w pos len} (ok : s.MemOk) : MemOkAfter (execBfxn h d a w pos len s) := ok.gForm
theorem State.MemOk.execBfi {h d a w pos len} (ok : s.MemOk) : MemOkAfter (execBfi h d a w pos len s) := ok.gForm
theorem State.MemOk.execMin {h d a b w} (ok : s.MemOk) : MemOkAfter (execMin h d a b w s) := ok.gForm
theorem State.MemOk.execMinn {h d a b w} (ok : s.MemOk) : MemOkAfter (execMinn h d a b w s) := ok.gForm
theorem State.MemOk.execMax {h d a b w} (ok : s.MemOk) : MemOkAfter (execMax h d a b w s) := ok.gForm
theorem State.MemOk.execMaxn {h d a b w} (ok : s.MemOk) : MemOkAfter (execMaxn h d a b w s) := ok.gForm
theorem State.MemOk.execSel {h d a b c neg} (ok : s.MemOk) : MemOkAfter (execSel h d a b c neg s) := ok.scalarForm
theorem State.MemOk.execMov {h d a} (ok : s.MemOk) : MemOkAfter (execMov h d a s) := ok.gForm
theorem State.MemOk.execMovi {h d imm} (ok : s.MemOk) : MemOkAfter (execMovi h d imm s) := ok.gForm
theorem State.MemOk.execMovhi {h d imm} (ok : s.MemOk) : MemOkAfter (execMovhi h d imm s) := ok.gForm

theorem State.MemOk.execMovp {h o} (ok : s.MemOk) : MemOkAfter (execMovp h o s) := by
  unfold Machine.execMovp
  split
  · exact ok.scalarForm
  · exact ok.scalarForm

theorem State.MemOk.execLea {h d a b sc imm} (ok : s.MemOk) : MemOkAfter (execLea h d a b sc imm s) := ok.gForm

theorem State.MemOk.execCmp {h d a cc w src} (ok : s.MemOk) : MemOkAfter (execCmp h d a cc w src s) := by
  unfold Machine.execCmp
  exact ok.pForm

/-! ## Scalar floating-point instructions -/

theorem State.MemOk.faForm {h d srcs rm f32 op} (ok : s.MemOk) : MemOkAfter (faForm h d srcs rm f32 op s) := ok.issueCore
theorem State.MemOk.execFadd {h d a b rm f32} (ok : s.MemOk) : MemOkAfter (execFadd h d a b rm f32 s) := ok.faForm
theorem State.MemOk.execFsub {h d a b rm f32} (ok : s.MemOk) : MemOkAfter (execFsub h d a b rm f32 s) := ok.faForm
theorem State.MemOk.execFmul {h d a b rm f32} (ok : s.MemOk) : MemOkAfter (execFmul h d a b rm f32 s) := ok.faForm
theorem State.MemOk.execFma {h d a b rm f32} (ok : s.MemOk) : MemOkAfter (execFma h d a b rm f32 s) := ok.faForm
theorem State.MemOk.execFdiv {h d a b rm f32} (ok : s.MemOk) : MemOkAfter (execFdiv h d a b rm f32 s) := ok.divForm
theorem State.MemOk.execFsqrt {h d a rm f32} (ok : s.MemOk) : MemOkAfter (execFsqrt h d a rm f32 s) := ok.divForm
theorem State.MemOk.execFcmp {h d a b cc f32} (ok : s.MemOk) : MemOkAfter (execFcmp h d a b cc f32 s) := ok.issueCore
theorem State.MemOk.fsForm {h d srcs op} (ok : s.MemOk) : MemOkAfter (fsForm h d srcs op s) := ok.issueCore
theorem State.MemOk.execFclass {h d a f32} (ok : s.MemOk) : MemOkAfter (execFclass h d a f32 s) := ok.fsForm
theorem State.MemOk.execFmin {h d a b f32} (ok : s.MemOk) : MemOkAfter (execFmin h d a b f32 s) := ok.fsForm
theorem State.MemOk.execFmax {h d a b f32} (ok : s.MemOk) : MemOkAfter (execFmax h d a b f32 s) := ok.fsForm
theorem State.MemOk.execFabs {h d a f32} (ok : s.MemOk) : MemOkAfter (execFabs h d a f32 s) := ok.fsForm
theorem State.MemOk.execFneg {h d a f32} (ok : s.MemOk) : MemOkAfter (execFneg h d a f32 s) := ok.fsForm
theorem State.MemOk.execFcpys {h d a b f32} (ok : s.MemOk) : MemOkAfter (execFcpys h d a b f32 s) := ok.fsForm
theorem State.MemOk.execScvt {h src dt d a rm} (ok : s.MemOk) : MemOkAfter (execScvt h src dt d a rm s) := ok.issueCore

/-! ## Vector instructions -/

theorem State.MemOk.vint2 {h code d a b stm km z op} (ok : s.MemOk) : MemOkAfter (vint2 h code d a b stm km z op s) := ok.vecForm
theorem State.MemOk.execVadd {h code d a b stm km z} (ok : s.MemOk) : MemOkAfter (execVadd h code d a b stm km z s) := ok.vint2
theorem State.MemOk.execVsub {h code d a b stm km z} (ok : s.MemOk) : MemOkAfter (execVsub h code d a b stm km z s) := ok.vint2
theorem State.MemOk.execVadds {h code d a b stm km z} (ok : s.MemOk) : MemOkAfter (execVadds h code d a b stm km z s) := ok.vint2
theorem State.MemOk.execVsubs {h code d a b stm km z} (ok : s.MemOk) : MemOkAfter (execVsubs h code d a b stm km z s) := ok.vint2
theorem State.MemOk.execVabs {h code d a stm km z} (ok : s.MemOk) : MemOkAfter (execVabs h code d a stm km z s) := ok.vecForm
theorem State.MemOk.execVmul {h code d a b stm km z} (ok : s.MemOk) : MemOkAfter (execVmul h code d a b stm km z s) := ok.vint2
theorem State.MemOk.execVmulh {h code d a b stm km z} (ok : s.MemOk) : MemOkAfter (execVmulh h code d a b stm km z s) := ok.vint2

theorem State.MemOk.execVmulhn {h code d a b stm km z} (ok : s.MemOk) : MemOkAfter (execVmulhn h code d a b stm km z s) :=
  ok.vint2

theorem State.MemOk.execVmin {h code d a b stm km z} (ok : s.MemOk) : MemOkAfter (execVmin h code d a b stm km z s) := ok.vint2
theorem State.MemOk.execVminn {h code d a b stm km z} (ok : s.MemOk) : MemOkAfter (execVminn h code d a b stm km z s) := ok.vint2
theorem State.MemOk.execVmax {h code d a b stm km z} (ok : s.MemOk) : MemOkAfter (execVmax h code d a b stm km z s) := ok.vint2
theorem State.MemOk.execVmaxn {h code d a b stm km z} (ok : s.MemOk) : MemOkAfter (execVmaxn h code d a b stm km z s) := ok.vint2
theorem State.MemOk.execVand {h code d a b stm km z} (ok : s.MemOk) : MemOkAfter (execVand h code d a b stm km z s) := ok.vint2
theorem State.MemOk.execVor {h code d a b stm km z} (ok : s.MemOk) : MemOkAfter (execVor h code d a b stm km z s) := ok.vint2
theorem State.MemOk.execVxor {h code d a b stm km z} (ok : s.MemOk) : MemOkAfter (execVxor h code d a b stm km z s) := ok.vint2
theorem State.MemOk.execVandn {h code d a b stm km z} (ok : s.MemOk) : MemOkAfter (execVandn h code d a b stm km z s) := ok.vint2
theorem State.MemOk.execVshl {h code d a b stm km z} (ok : s.MemOk) : MemOkAfter (execVshl h code d a b stm km z s) := ok.vint2
theorem State.MemOk.execVshr {h code d a b stm km z} (ok : s.MemOk) : MemOkAfter (execVshr h code d a b stm km z s) := ok.vint2
theorem State.MemOk.execVshra {h code d a b stm km z} (ok : s.MemOk) : MemOkAfter (execVshra h code d a b stm km z s) := ok.vint2

theorem State.MemOk.execVcmp {h code d a b cc stm km z} (ok : s.MemOk) : MemOkAfter (execVcmp h code d a b cc stm km z s) :=
  ok.maskForm

theorem State.MemOk.vfp {h p code d a b rm op} (ok : s.MemOk) : MemOkAfter (vfp h p code d a b rm op s) := by
  unfold Machine.vfp
  exact ok.vecForm

theorem State.MemOk.execVfadd {h code d a b rm stm km z} (ok : s.MemOk) : MemOkAfter (execVfadd h code d a b rm stm km z s) :=
  ok.vfp

theorem State.MemOk.execVfsub {h code d a b rm stm km z} (ok : s.MemOk) : MemOkAfter (execVfsub h code d a b rm stm km z s) :=
  ok.vfp

theorem State.MemOk.execVfmul {h code d a b rm stm km z} (ok : s.MemOk) : MemOkAfter (execVfmul h code d a b rm stm km z s) :=
  ok.vfp

theorem State.MemOk.execVfdiv {h code d a b rm stm km z} (ok : s.MemOk) : MemOkAfter (execVfdiv h code d a b rm stm km z s) :=
  ok.vfp

theorem State.MemOk.execVfma {h code d a b rm stm km z} (ok : s.MemOk) : MemOkAfter (execVfma h code d a b rm stm km z s) :=
  ok.vfp

theorem State.MemOk.execVfms {h code d a b rm stm km z} (ok : s.MemOk) : MemOkAfter (execVfms h code d a b rm stm km z s) :=
  ok.vfp

theorem State.MemOk.execVfnma {h code d a b rm stm km z} (ok : s.MemOk) : MemOkAfter (execVfnma h code d a b rm stm km z s) :=
  ok.vfp

theorem State.MemOk.execVfnms {h code d a b rm stm km z} (ok : s.MemOk) : MemOkAfter (execVfnms h code d a b rm stm km z s) :=
  ok.vfp

theorem State.MemOk.execVsqrt {h code d a rm stm km z} (ok : s.MemOk) : MemOkAfter (execVsqrt h code d a rm stm km z s) := ok.vfp

theorem State.MemOk.vfBits {h code d a b stm km z op} (ok : s.MemOk) : MemOkAfter (vfBits h code d a b stm km z op s) :=
  ok.vecForm

theorem State.MemOk.execVfmin {h code d a b stm km z} (ok : s.MemOk) : MemOkAfter (execVfmin h code d a b stm km z s) := ok.vfBits
theorem State.MemOk.execVfmax {h code d a b stm km z} (ok : s.MemOk) : MemOkAfter (execVfmax h code d a b stm km z s) := ok.vfBits
theorem State.MemOk.execVfabs {h code d a stm km z} (ok : s.MemOk) : MemOkAfter (execVfabs h code d a stm km z s) := ok.vfBits
theorem State.MemOk.execVfneg {h code d a stm km z} (ok : s.MemOk) : MemOkAfter (execVfneg h code d a stm km z s) := ok.vfBits

theorem State.MemOk.execVfcmp {h code d a b cc stm km z} (ok : s.MemOk) : MemOkAfter (execVfcmp h code d a b cc stm km z s) :=
  ok.maskForm

theorem State.MemOk.execVfclass {h code d a stm km z} (ok : s.MemOk) : MemOkAfter (execVfclass h code d a stm km z s) :=
  ok.vecForm

theorem State.MemOk.vspec {h fn code d a stm km z} (ok : s.MemOk) : MemOkAfter (vspec h fn code d a stm km z s) := by
  unfold Machine.vspec
  exact ok.vecForm

theorem State.MemOk.execVrcp {h code d a stm km z} (ok : s.MemOk) : MemOkAfter (execVrcp h code d a stm km z s) := ok.vspec
theorem State.MemOk.execVrsq {h code d a stm km z} (ok : s.MemOk) : MemOkAfter (execVrsq h code d a stm km z s) := ok.vspec
theorem State.MemOk.execVexp2 {h code d a stm km z} (ok : s.MemOk) : MemOkAfter (execVexp2 h code d a stm km z s) := ok.vspec
theorem State.MemOk.execVlog2 {h code d a stm km z} (ok : s.MemOk) : MemOkAfter (execVlog2 h code d a stm km z s) := ok.vspec

theorem State.MemOk.execVsel {h code d a b stm km} (ok : s.MemOk) : MemOkAfter (execVsel h code d a b stm km s) :=
  ok.issueWord fun ok => ok.vecEff

theorem State.MemOk.permForm {h w allowA d a b num stm km z f} (ok : s.MemOk) :
    MemOkAfter (permForm h w allowA d a b num stm km z f s) :=
  ok.issueWord fun ok => ok.vecEff

theorem State.MemOk.execVbcast {h code d stm km z src} (ok : s.MemOk) : MemOkAfter (execVbcast h code d stm km z src s) := by
  unfold Machine.execVbcast
  dsimp only
  split
  · exact ok.permForm
  · exact ok.issueWord fun ok => ok.vecEff

theorem State.MemOk.execVperm {h wc d a b stm km z} (ok : s.MemOk) : MemOkAfter (execVperm h wc d a b stm km z s) := by
  unfold Machine.execVperm
  exact ok.permForm

theorem State.MemOk.execVslideup {h wc d a b stm km z imm} (ok : s.MemOk) : MemOkAfter (execVslideup h wc d a b stm km z imm s) :=
  ok.permForm

theorem State.MemOk.execVslidedn {h wc d a b stm km z imm} (ok : s.MemOk) : MemOkAfter (execVslidedn h wc d a b stm km z imm s) := by
  unfold Machine.execVslidedn
  exact ok.permForm

theorem State.MemOk.execVext {h wc d a b sx imm} (ok : s.MemOk) : MemOkAfter (execVext h wc d a b sx imm s) := by
  unfold Machine.execVext
  refine ok.issueWord fun ok => ?_
  refine ok.noStream fun ok => ?_
  dsimp only
  split
  · exact ok
  · exact ok.setCc

theorem State.MemOk.execVins {h wc d a b imm} (ok : s.MemOk) : MemOkAfter (execVins h wc d a b imm s) := by
  unfold Machine.execVins
  refine ok.issueWord fun ok => ?_
  refine ok.noStream fun ok => ?_
  dsimp only
  split
  · exact ok
  · exact ok.setCc

theorem State.MemOk.execViota {h code d a stm km z imm} (ok : s.MemOk) : MemOkAfter (execViota h code d a stm km z imm s) := by
  unfold Machine.execViota
  exact ok.issueWord fun ok => ok.vecEff

theorem State.MemOk.execVmov {h d a} (ok : s.MemOk) : MemOkAfter (execVmov h d a s) := ok.issueWord fun ok => ok.vecEff
theorem State.MemOk.sixIssues (ok : s.MemOk) : (sixIssues s).MemOk := ok.setCc

theorem State.MemOk.execVmovgFromG {h code d a} (ok : s.MemOk) : MemOkAfter (execVmovgFromG h code d a s) :=
  ok.issueWord fun ok => ok.noStream fun ok => ok.setCc.sixIssues

theorem State.MemOk.execVmovgToG {h d a} (ok : s.MemOk) : MemOkAfter (execVmovgToG h d a s) := by
  unfold Machine.execVmovgToG
  refine ok.issueWord fun ok => ?_
  refine ok.noStream fun ok => ?_
  dsimp only
  split
  · exact ok
  · exact ok.setCc.sixIssues

theorem State.MemOk.kForm {h d srcs val} (ok : s.MemOk) : MemOkAfter (kForm h d srcs val s) := ok.scalarForm
theorem State.MemOk.execKand {h d a b} (ok : s.MemOk) : MemOkAfter (execKand h d a b s) := ok.kForm
theorem State.MemOk.execKor {h d a b} (ok : s.MemOk) : MemOkAfter (execKor h d a b s) := ok.kForm
theorem State.MemOk.execKxor {h d a b} (ok : s.MemOk) : MemOkAfter (execKxor h d a b s) := ok.kForm
theorem State.MemOk.execKnot {h d a} (ok : s.MemOk) : MemOkAfter (execKnot h d a s) := ok.kForm
theorem State.MemOk.execKcnt {h d a n} (ok : s.MemOk) : MemOkAfter (execKcnt h d a n s) := ok.scalarForm

theorem State.MemOk.execKmov {h o} (ok : s.MemOk) : MemOkAfter (execKmov h o s) := by
  unfold Machine.execKmov
  dsimp only
  split
  · exact ok.kForm
  · exact ok.kForm
  · exact ok.scalarForm

theorem State.MemOk.redForm {h code lat fpb d a stm km empty op skip} (ok : s.MemOk) :
    MemOkAfter (redForm h code lat fpb d a stm km empty op skip s) := by
  unfold Machine.redForm
  refine ok.issueWord fun ok => ?_
  dsimp only
  split
  · exact ok.eff
  · rename_i hr
    exact ok.orElse ((ok.openVec.get hr).setCc.putVec)

theorem State.MemOk.execVradd {h code d a stm km} (ok : s.MemOk) : MemOkAfter (execVradd h code d a stm km s) := ok.redForm
theorem State.MemOk.execVrmin {h code d a stm km} (ok : s.MemOk) : MemOkAfter (execVrmin h code d a stm km s) := ok.redForm
theorem State.MemOk.execVrmax {h code d a stm km} (ok : s.MemOk) : MemOkAfter (execVrmax h code d a stm km s) := ok.redForm

theorem State.MemOk.execVrfadd {h code d a rm stm km} (ok : s.MemOk) : MemOkAfter (execVrfadd h code d a rm stm km s) :=
  ok.redForm

theorem State.MemOk.execVrfmin {h code d a stm km} (ok : s.MemOk) : MemOkAfter (execVrfmin h code d a stm km s) := ok.redForm
theorem State.MemOk.execVrfmax {h code d a stm km} (ok : s.MemOk) : MemOkAfter (execVrfmax h code d a stm km s) := ok.redForm

theorem State.MemOk.execScfg {h d a port imm} (ok : s.MemOk) : MemOkAfter (execScfg h d a port imm s) := by
  unfold Machine.execScfg
  refine ok.issueWord fun ok => ?_
  dsimp only
  split
  · exact ok
  · split
    · exact ok.holdOn
    · split
      · exact ok
      · split
        · exact ok.touch
        · split
          · exact ok
          · exact ok.touch.coreRead.setCc

theorem State.MemOk.execSfree {h port} (ok : s.MemOk) : MemOkAfter (execSfree h port s) := ok.issueCore

theorem State.MemOk.execVloop {h len port} (ok : s.MemOk) : MemOkAfter (execVloop h len port s) := by
  unfold Machine.execVloop
  refine ok.issueWord fun ok => ?_
  dsimp only
  split
  · exact ok
  · exact ok.startLoop

/-! ## The cluster array -/

theorem State.MemOk.onShare {cl sh f} (ok : s.MemOk) : (s.onShare cl sh f).MemOk := ok.setCluster
theorem State.MemOk.onTile {cl sh t f} (ok : s.MemOk) : (s.onTile cl sh t f).MemOk := ok.onShare
theorem State.MemOk.setWm {cl sh i t w} (ok : s.MemOk) : (s.setWm cl sh i t w).MemOk := .ite ok.onTile ok
theorem State.MemOk.matrixPulse {cl sh} (ok : s.MemOk) : (s.matrixPulse cl sh).MemOk := ok.pulse
theorem State.MemOk.queueOp {cl sh core t k} (ok : s.MemOk) : (s.queueOp cl sh core t k).MemOk := ok.onShare
theorem State.MemOk.scaleWrite {cl sh sideB seq j q v} (ok : s.MemOk) : (s.scaleWrite cl sh sideB seq j q v).MemOk := ok.onShare

theorem State.MemOk.arrayView {cores t} (ok : s.MemOk) : (s.arrayView cores t).MemOk := by
  unfold State.arrayView
  dsimp only [State.MemOk]
  exact ok.foldl fun ok => ok.setCore

theorem State.MemOk.streamRead {m x k} (ok : s.MemOk) : (s.streamRead m x k).MemOk := by
  unfold State.streamRead
  exact .ite ok.scan.scan ok.scan.scan.scan

theorem State.MemOk.opFault {cl sh i o cause row group} (ok : s.MemOk) : (s.opFault cl sh i o cause row group).MemOk :=
  ok.onTile.setWm.onShare.owe.owe

theorem State.MemOk.opStart {cl sh} (ok : s.MemOk) : (s.opStart cl sh).MemOk := by
  unfold State.opStart
  dsimp only
  split
  · exact ok
  · split
    · exact ok
    · split
      · exact ok.onShare.setWm.onShare.owe.owe
      · split
        · exact ok.onShare.onTile.setWm.onShare.owe
        · exact ok.onShare.onTile.setWm.onShare.owe
        · exact .onShare (.setCore (.streamRead (.readTime (.readTime ok))))
        · exact ok
        · exact ok

theorem State.MemOk.execArrayOpStart {cl sh} (ok : s.MemOk) : MemOkAfter (execArrayOpStart cl sh s) := ok.opStart

theorem State.MemOk.rowWrite {cl sh parityBad} (ok : s.MemOk) : (s.rowWrite cl sh parityBad).MemOk := by
  unfold State.rowWrite
  extract_lets x m
  split
  · exact ok
  · split
    · exact ok
    · extract_lets r step tile
      have step_ok : ∀ {s o}, s.MemOk → (step s o).MemOk := fun ok => .ite ok.onShare ok.onShare.owe
      split
      · exact .ite ok.opFault.postError.suspect (step_ok ok.onTile.setWm)
      · refine .ite ok.scan.opFault.postError ?_
        split
        · exact ok.scan
        · exact step_ok (ok.scan.saw ok.scan.readTime).onTile.setWm
      · exact step_ok (by exact ok.writeTime.writePlace)
      · exact ok

theorem State.MemOk.execArrayRowWrite {cl sh parityBad} (ok : s.MemOk) : MemOkAfter (execArrayRowWrite cl sh parityBad s) :=
  ok.rowWrite

theorem State.MemOk.opFinish {cl sh} (ok : s.MemOk) : (s.opFinish cl sh).MemOk := by
  unfold State.opFinish
  dsimp only
  split
  · exact ok
  · split
    · exact ok
    · exact .ite ok.onShare.setCore.matrixPulse ok.onShare.setCore

theorem State.MemOk.execArrayOpFinish {cl sh} (ok : s.MemOk) : MemOkAfter (execArrayOpFinish cl sh s) := ok.opFinish

theorem State.MemOk.endStream {cl sh} (ok : s.MemOk) : (s.endStream cl sh).MemOk := by
  unfold State.endStream
  dsimp only
  split
  · exact ok
  · split
    · exact ok
    · split
      · exact .ite ok.onShare.opFault.postError ok.onShare.opFault
      · exact ok.onShare.onShare

theorem State.MemOk.execScaleWriteRelease {cl sh} (ok : s.MemOk) : MemOkAfter (execScaleWriteRelease cl sh s) := by
  refine ok.endStream.foldl fun ok => ok.foldl fun ok => ?_
  split
  · exact .ite ok.owe ok
  · exact ok

/-! ## Matrix instructions -/

theorem State.MemOk.zCheck {own k} (ok : s.MemOk) (step : ∀ {x} {s : State}, s.MemOk → (k x s).MemOk) : (zCheck own k s).MemOk := by
  unfold Machine.zCheck
  dsimp only
  split
  · exact ok
  · split
    · exact step ok
    · exact .ite (step ok) ok

theorem State.MemOk.zQueue {sh t k} (ok : s.MemOk) : (zQueue sh t k s).MemOk := .ite ok ok.queueOp
theorem State.MemOk.zStatus {d x} (ok : s.MemOk) : (zStatus s d x).MemOk := ok.setCc

theorem State.MemOk.execZalloc {h d t} (ok : s.MemOk) : MemOkAfter (execZalloc h d t s) :=
  ok.issueWord fun ok => ok.zCheck fun ok => State.MemOk.setCc (.ite ok.onTile ok)

theorem State.MemOk.execZfree {h t} (ok : s.MemOk) : MemOkAfter (execZfree h t s) :=
  ok.issueWord fun ok => ok.zCheck fun ok => .ite ok ok.onTile.queueOp

theorem State.MemOk.execZzero {h i32 t} (ok : s.MemOk) : MemOkAfter (execZzero h i32 t s) :=
  ok.issueWord fun ok => ok.zCheck fun ok => ok.zQueue

theorem State.MemOk.readHeads {xa xb ca oa cb ob} (ok : s.MemOk) : (readHeads xa xb ca oa cb ob s).MemOk := by
  unfold Machine.readHeads
  dsimp only
  split
  · exact ok.touch
  · split
    · exact ok.touch.coreRead.touch
    · show State.MemOk _
      refine State.MemOk.setCc ?_
      dsimp only [State.MemOk]
      exact ok.touch.coreRead.touch.coreRead

theorem State.MemOk.zAccept {sh t k} (ok : s.MemOk) : (zAccept sh t k s).MemOk := by
  unfold Machine.zAccept
  have queued : (Machine.zQueue sh t k s).MemOk := ok.zQueue
  split
  · rename_i hr
    rw [hr] at queued
    exact queued
  · exact queued

theorem State.MemOk.mmaHeads {sparse tag d t sc sh xa xb ca oa cb ob ha hb} (ok : s.MemOk) :
    (mmaHeads sparse tag d t sc sh xa xb ca oa cb ob ha hb s).MemOk := by
  unfold Machine.mmaHeads
  dsimp only
  split
  · exact ok
  · split
    · exact ok
    · split
      · exact ok
      · split
        · exact ok
        · split
          · exact ok
          · exact ok.zAccept

theorem State.MemOk.mmaEff {sparse tag d a b t sc} (ok : s.MemOk) : (mmaEff sparse tag d a b t sc s).MemOk := by
  unfold Machine.mmaEff
  refine ok.zCheck fun ok => ?_
  dsimp only
  split
  · exact ok
  · split
    · exact ok
    · split
      · exact ok
      · exact ok
      · split
        · exact .ite ok ok.mmaHeads
        · exact .ite ok.holdOn (.ite ok.holdOn (.ite ok ok.readHeads))

theorem State.MemOk.execZmma {h tag d a b t sc} (ok : s.MemOk) : MemOkAfter (execZmma h tag d a b t sc s) :=
  ok.issueWord fun ok => ok.mmaEff

theorem State.MemOk.execZmmas {h tag d a b t sc} (ok : s.MemOk) : MemOkAfter (execZmmas h tag d a b t sc s) :=
  ok.issueWord fun ok => ok.mmaEff

theorem State.MemOk.execZldc {h i32 a t stride} (ok : s.MemOk) : MemOkAfter (execZldc h i32 a t stride s) := by
  unfold Machine.execZldc
  refine ok.issueWord fun ok => ?_
  refine ok.zCheck fun ok => ?_
  split
  · exact ok
  · exact ok.zQueue

theorem State.MemOk.execZstore {h dt a rm t stride} (ok : s.MemOk) : MemOkAfter (execZstore h dt a rm t stride s) := by
  unfold Machine.execZstore
  refine ok.issueWord fun ok => ?_
  refine ok.zCheck fun ok => ?_
  dsimp only
  split
  · exact ok
  · split
    · exact ok
    · split
      · exact ok
      · split
        · exact ok
        · exact ok.zQueue

theorem State.MemOk.execZread {h d a x t c} (ok : s.MemOk) : MemOkAfter (execZread h d a x t c s) :=
  ok.issueWord fun ok => ok.noStream fun ok => ok.zCheck fun ok => .ite ok (.ite ok (.ite ok ok.setCc))

theorem State.MemOk.execZwm {h d t} (ok : s.MemOk) : MemOkAfter (execZwm h d t s) :=
  ok.issueWord fun ok => ok.zCheck fun ok => ok.zStatus

theorem State.MemOk.execZwait {h a t imm} (ok : s.MemOk) : MemOkAfter (execZwait h a t imm s) :=
  ok.issueWord fun ok => ok.zCheck fun ok => .ite ok ok

theorem State.MemOk.execZscl {h a b sideB j q} (ok : s.MemOk) : MemOkAfter (execZscl h a b sideB j q s) := by
  unfold Machine.execZscl
  refine ok.issueWord fun ok => ?_
  refine ok.noStream fun ok => ?_
  refine ok.zCheck fun ok => ?_
  dsimp only
  split
  · exact ok
  · exact .ite ok ok.scaleWrite

theorem State.MemOk.execZstatT {h d t clr} (ok : s.MemOk) : MemOkAfter (execZstatT h d t clr s) :=
  ok.issueWord fun ok => ok.zCheck fun ok => State.MemOk.zStatus (.ite ok.onTile ok)

theorem State.MemOk.execZstatF {h d clr} (ok : s.MemOk) : MemOkAfter (execZstatF h d clr s) :=
  ok.issueWord fun ok => ok.zCheck fun ok => State.MemOk.zStatus (.ite ok.onShare ok)

theorem State.MemOk.execZstatS {h d} (ok : s.MemOk) : MemOkAfter (execZstatS h d s) :=
  ok.issueWord fun ok => ok.zCheck fun ok => ok.zStatus

end Sys2Proof.Machine
end

section
/-! The canonical form of memory: commands and messages. -/
namespace Sys2Proof.Machine
open Sys2Proof
variable {s : State}

/-! ## The work of commands -/

theorem State.MemOk.onCore {n f} (ok : s.MemOk) : (s.onCore n f).MemOk := ok.setCore
theorem State.MemOk.putCmd {n c} (ok : s.MemOk) : (s.putCmd n c).MemOk := ok.onCore
theorem State.MemOk.finishCmd {n c} (ok : s.MemOk) : (s.finishCmd n c).MemOk := .onCore ok
theorem State.MemOk.engineFree {cl} (ok : s.MemOk) : (s.engineFree cl).MemOk := ok.foldl fun ok => ok.foldl fun ok => ok.owe
theorem State.MemOk.leftEngine {n c} (ok : s.MemOk) : (s.leftEngine n c).MemOk := .ite ok.engineFree ok

theorem State.MemOk.stopCmd {n c e} (ok : s.MemOk) (bad : e.MemOk) : MemOkAfter (s.stopCmd n c e) := by
  have stopped := ok.split bad
  cases e with
  | fail k x => exact stopped.putCmd.leftEngine.owe
  | failAt t k x => exact stopped.putCmd.leftEngine.owe
  | park va m level => exact stopped.putCmd.leftEngine.parkAgent
  | double va => exact stopped.putCmd.leftEngine.faultOnFault
  | noMemory pa => trivial

theorem State.MemOk.readPiece {n c a len} (ok : s.MemOk) : AgentOk (s.readPiece n c a len) := by
  unfold State.readPiece
  dsimp only
  split
  · rename_i hr
    exact ok.agentBytes.error hr
  · rename_i hr
    show State.MemOk _
    dsimp only [State.MemOk]
    exact ok.agentBytes.get hr

theorem State.MemOk.writePiece {n c a bs} (ok : s.MemOk) : AgentOk (s.writePiece n c a bs) := by
  unfold State.writePiece
  dsimp only
  split
  · rename_i hr
    exact ok.agentStore.error hr
  · rename_i hr
    exact ok.agentStore.get hr

theorem State.MemOk.movePiece {n c srcBase src dstBase dst len} (ok : s.MemOk) :
    AgentOk (s.movePiece n c srcBase src dstBase dst len) := by
  unfold State.movePiece
  split
  · trivial
  · split
    · trivial
    · split
      · rename_i hr
        exact ok.readPiece.error hr
      · rename_i hr
        split
        · rename_i hr1
          exact (ok.readPiece.get hr).behind ((ok.readPiece.get hr).writePiece.error hr1)
        · rename_i hr1
          exact (ok.readPiece.get hr).writePiece.get hr1

theorem State.MemOk.readRows {n c srca rowBytes stride left i} (ok : s.MemOk) :
    AgentOk (s.readRows n c srca rowBytes stride left i) := by
  induction left generalizing s c i with
  | zero => exact ok
  | succ left ih =>
    unfold State.readRows
    dsimp only
    split
    · trivial
    · split
      · rename_i hr
        exact ok.readPiece.error hr
      · rename_i hr
        have read := ok.readPiece.get hr
        split
        · rename_i hr1
          exact read.behind ((ih read).error hr1)
        · rename_i hr1
          exact (ih read).get hr1

theorem State.MemOk.tilePiece {n c dsta} (ok : s.MemOk) : AgentOk (s.tilePiece n c dsta) := by
  unfold State.tilePiece
  dsimp only
  split
  · split
    · trivial
    · split
      · rename_i hr
        exact ok.writePiece.error hr
      · rename_i hr
        exact ok.writePiece.get hr
  · split
    · trivial
    · split
      · rename_i hr
        exact ok.writePiece.error hr
      · rename_i hr
        exact ok.writePiece.get hr

theorem State.MemOk.scalePiece {n c conv seq sca quarters k} (ok : s.MemOk) : (s.scalePiece n c conv seq sca quarters k).MemOk := by
  unfold State.scalePiece
  dsimp only
  split
  · exact ok
  · split
    · exact ok
    · split
      · exact .intro ok trivial
      · split
        · rename_i hr
          exact .intro ok (ok.agentBytes.error hr)
        · rename_i hr
          exact (ok.agentBytes.get hr).scaleWrite

theorem State.MemOk.rowPiece {n c scatter tbl lst idxa rowb tstr nrows} (ok : s.MemOk) :
    AgentOk (s.rowPiece n c scatter tbl lst idxa rowb tstr nrows) := by
  unfold State.rowPiece
  extract_lets r o a idx
  have index : AgentOk idx := by
    dsimp only [idx]
    split
    · exact ok
    · split
      · trivial
      · split
        · rename_i hr
          exact ok.agentBytes.error hr
        · rename_i hr
          exact ok.agentBytes.get hr
  clear_value idx
  split
  · exact index
  · have ok := State.MemOk.of_pair index rfl
    exact .ite ok (.ite ok.movePiece ok.movePiece)

theorem State.MemOk.of {c x} (ok : s.MemOk) (done : AgentOk x) : (Adv.of s c x).MemOk := by
  cases x with
  | ok r => exact done
  | error e => exact .intro ok done

theorem State.MemOk.advance {n c} (ok : s.MemOk) : (s.advance n c).MemOk := by
  unfold State.advance
  dsimp only
  split
  · exact ok.of ok.movePiece
  · split
    · split
      · rename_i hr
        exact .intro ok (ok.readRows.error hr)
      · rename_i hr
        exact ok.readRows.get hr
    · exact .ite (ok.of ok.tilePiece) ok.scalePiece
  · exact ok.of ok.rowPiece
  · split
    · exact .intro ok trivial
    · split
      · rename_i hr
        exact .intro ok (ok.writePiece.error hr)
      · rename_i hr
        exact ok.writePiece.get hr
  · split
    · exact ok
    · split
      · exact .intro ok trivial
      · split
        · rename_i hr
          exact .intro ok (ok.writePiece.error hr)
        · rename_i hr
          exact ok.writePiece.get hr
  · split
    · exact .intro ok trivial
    · split
      · exact .intro ok trivial
      · split
        · rename_i hr
          exact .intro ok (ok.readPiece.error hr)
        · rename_i hr
          exact ok.readPiece.get hr
  · exact ok

theorem State.MemOk.handOver {c} (ok : s.MemOk) : (s.handOver c).1.MemOk := by
  unfold State.handOver
  split
  · split
    · exact ok
    · exact ok.report
  · exact ok

theorem State.MemOk.signalCmd {n c} (ok : s.MemOk) : (s.signalCmd n c).MemOk := by
  unfold State.signalCmd
  extract_lets cl m told pulsed
  have told_ok : told.MemOk := .ite ok (.ite ok.owe ok.send)
  have pulsed_ok : pulsed.MemOk := .ite told_ok.pulse told_ok
  exact pulsed_ok.finishCmd.leftEngine

theorem State.MemOk.writeDone {n c} (ok : s.MemOk) : MemOkAfter (s.writeDone n c) := by
  unfold State.writeDone
  extract_lets written
  have written_ok : AgentOk written := .ite ok.agentStore ok
  clear_value written
  split
  · exact ok.stopCmd written_ok
  · exact State.MemOk.signalCmd written_ok

theorem State.MemOk.completeCmd {n c} (ok : s.MemOk) : MemOkAfter (s.completeCmd n c) := by
  unfold State.completeCmd
  split
  · exact ok.stopCmd trivial
  · exact .ite (ok.stopCmd trivial) ok.handOver.writeDone
  · exact ok.writeDone

theorem State.MemOk.countLine {n before after} (ok : s.MemOk) : (s.countLine n before after).MemOk := .ite ok.onCore ok

theorem State.MemOk.runCmd {n fuel c} (ok : s.MemOk) : MemOkAfter (State.runCmd n fuel c s) := by
  induction fuel generalizing s c with
  | zero => exact ok.putCmd
  | succ fuel ih =>
    unfold State.runCmd
    have next : (s.advance n c).MemOk := ok.advance
    split
    · exact ok.completeCmd
    · split
      all_goals
        rename_i hr
        rw [hr] at next
      · exact ih (State.MemOk.countLine next)
      · exact State.MemOk.putCmd next
      · exact next.1.stopCmd next.2

theorem State.MemOk.execCommandComplete {core cls seq} (ok : s.MemOk) : MemOkAfter (execCommandComplete core cls seq s) := by
  unfold Machine.execCommandComplete
  split
  · exact ok
  · exact .ite ok.runCmd ok

theorem State.MemOk.execCommandFail {core cls seq} (ok : s.MemOk) : MemOkAfter (execCommandFail core cls seq s) := by
  unfold Machine.execCommandFail
  dsimp only
  split
  · exact ok
  · split
    · exact State.MemOk.finishCmd (.ite ok.onCore.postError ok.onCore)
    · exact ok

/-- The states that reading the contributions of a collective leaves, or with which it stops. -/
def MembersOk : Except (State × Member × AStop) (State × List (Member × List Byte)) → Prop
  | .ok r => r.1.MemOk
  | .error e => e.1.MemOk ∧ e.2.2.MemOk
theorem State.MemOk.readMembers {ms} (ok : s.MemOk) : MembersOk (readMembers ms s) := by
  induction ms generalizing s with
  | nil => exact ok
  | cons m ms ih =>
    unfold Machine.readMembers
    split
    · exact ih ok
    · split
      · rename_i hr
        exact .intro ok (ok.agentBytes.error hr)
      · rename_i hr
        have rest := ih (ok.agentBytes.get hr)
        split
        all_goals
          rename_i hr1
          rw [hr1] at rest
          exact rest

theorem State.MemOk.formGeneration {a ms} (ok : s.MemOk) : (s.formGeneration a ms).MemOk := by
  unfold State.formGeneration
  extract_lets time xs trowsOf put pairs add
  have formed : put.MemOk := ok.foldl fun ok => ok.putCmd
  have paired : add.MemOk := .ite (State.MemOk.foldl formed fun ok => ok.owe) formed
  exact paired.foldl fun ok => ok.owe

theorem State.MemOk.tryGeneration {launch gid} (ok : s.MemOk) : MemOkAfter (s.tryGeneration launch gid) := by
  unfold State.tryGeneration
  split
  · exact ok
  · split
    · exact ok
    · extract_lets ms ranked
      refine .ite ok (.ite (ok.foldl fun ok => ok.putCmd.owe) ?_)
      have read : MembersOk (Machine.readMembers ranked s) := ok.readMembers
      split
      all_goals
        rename_i hr
        rw [hr] at read
      · exact read.1.stopCmd read.2
      · exact State.MemOk.formGeneration read

theorem State.MemOk.addPair {i} (ok : s.MemOk) : MemOkAfter (s.addPair i) := by
  unfold State.addPair
  dsimp only
  split
  · exact ok
  · split
    · split
      · exact ok
      · have read := fun g a n => State.MemOk.agentBytes (s := { s with draws := s.draws + 2 }) (g := g) (a := a) (n := n) ok
        split
        · exact ok
        · refine .ite (State.MemOk.stopCmd (by exact ok) trivial) ?_
          split
          · rename_i hr
            exact State.MemOk.stopCmd (by exact ok) ((read _ _ _).error hr)
          · rename_i hr
            have ok := (read _ _ _).get hr
            split
            · rename_i hr1
              exact ok.stopCmd (ok.agentStore.error hr1)
            · rename_i hr1
              have stored := ok.agentStore.get hr1
              exact State.MemOk.owe (State.MemOk.putCmd (by exact stored))
    · exact ok

theorem State.MemOk.reissueCmd {n c} (ok : s.MemOk) : (s.reissueCmd n c).MemOk := ok.putCmd.owe.foldl fun ok => ok.owe

theorem State.MemOk.bufStatus {n c k} (ok : s.MemOk) : (s.bufStatus n c k).1.MemOk := by
  unfold State.bufStatus
  dsimp only
  split
  · exact ok
  · show State.MemOk _
    dsimp only [State.MemOk]
    exact State.MemOk.ite ok.postError ok

theorem State.MemOk.storageWork {n c r media} (ok : s.MemOk) : AgentOk (s.storageWork n c r media) := by
  unfold State.storageWork
  extract_lets v g first len bad
  have failed : ∀ e : AStop, e.MemOk → AgentOk (bad e) := by
    intro e he
    cases e with
    | fail k x => exact ok.bufStatus
    | failAt t k x => exact State.MemOk.bufStatus he
    | _ => trivial
  refine .ite ok (.ite ok (.ite ok (.ite ?_ (.ite ?_ (.ite ok ok)))))
  · split
    · rename_i hr
      exact ok.agentStore.get hr
    · rename_i hr
      exact failed _ (ok.agentStore.error hr)
  · split
    · rename_i hr
      have read := ok.agentBytes.get hr
      exact read
    · rename_i hr
      exact failed _ (ok.agentBytes.error hr)

theorem State.MemOk.ringRead {v r i} (ok : s.MemOk) : (s.ringRead v r i).MemOk := ok.onVd

theorem State.MemOk.readEntry {n c v r i} (ok : s.MemOk) : AgentStateOk (s.readEntry n c v r i) := by
  unfold State.readEntry
  dsimp only
  split
  · rename_i hr
    exact ok.agentBytes.error hr
  · rename_i hr
    exact (ok.agentBytes.get hr).ringRead.putCmd

theorem State.MemOk.wakeRing {v r} (ok : s.MemOk) : (s.wakeRing v r).MemOk := by
  unfold State.wakeRing
  split
  · exact .ite ok.owe ok
  · exact ok

theorem State.MemOk.wakeRings (ok : s.MemOk) : s.wakeRings.MemOk := ok.foldl fun ok => ok.foldl fun ok => ok.wakeRing

theorem State.MemOk.readRing {v r fuel} (ok : s.MemOk) : (State.readRing v r fuel s).MemOk := by
  induction fuel generalizing s with
  | zero => exact ok
  | succ fuel ih =>
    unfold State.readRing
    split
    · exact ok
    · split
      · exact ok
      · split
        · split
          · rename_i hr
            have read := ok.readEntry.get hr
            exact ih (.ite read read.owe)
          · rename_i hr
            have stopped := fun n c => ok.stopCmd (n := n) (c := c) (ok.readEntry.error hr)
            split
            · rename_i hr1 _
              exact ih ((stopped _ _).get hr1).ringRead
            · rename_i hr1 _
              exact (stopped _ _).get hr1
            · exact ok
        · exact ok

theorem State.MemOk.storageEnd {n c r} (ok : s.MemOk) : MemOkAfter (s.storageEnd n c r) := by
  unfold State.storageEnd
  split
  · exact ok.stopCmd trivial
  · split
    · rename_i hr
      exact ok.stopCmd (ok.agentStore.error hr)
    · rename_i hr
      exact (ok.agentStore.get hr).finishCmd

theorem State.MemOk.execStorageCompletion {core seq mediaError} (ok : s.MemOk) :
    MemOkAfter (execStorageCompletion core seq mediaError s) := by
  unfold Machine.execStorageCompletion
  dsimp only
  split
  · exact ok
  · split
    · split
      · exact ok.storageEnd
      · split
        · rename_i hr
          exact ok.stopCmd (ok.storageWork.error hr)
        · rename_i hr
          exact (ok.storageWork.get hr).storageEnd
    · split
      · trivial
      · exact ok.readRing
    · exact ok

theorem State.MemOk.exchange {p} (ok : s.MemOk) : (s.exchange p).MemOk := by
  unfold State.exchange
  exact ok.mapOut.foldl fun ok => ok.setCore

theorem State.MemOk.runAway {ns fuel} (ok : s.MemOk) : MemOkAfter (State.runAway ns fuel s) := by
  induction fuel generalizing s with
  | zero => exact ok
  | succ fuel ih =>
    unfold State.runAway
    dsimp only
    split
    · exact ok
    · rename_i i found
      clear found
      have ran : ∀ {s : State}, s.MemOk → MemOkAfter (match i with
          | .commandComplete n k q => Machine.execCommandComplete n k q s
          | .commandFail n k q => Machine.execCommandFail n k q s
          | .storageCompletion n q e => Machine.execStorageCompletion n q e s
          | _ => s.addPair 0) := by
        intro s ok
        split
        · exact ok.execCommandComplete
        · exact ok.execCommandFail
        · exact ok.execStorageCompletion
        · exact ok.addPair
      split
      · rename_i hr
        exact ih ((ran (by exact ok)).get hr)
      · exact ran (by exact ok)

theorem State.MemOk.withAway {p f} (ok : s.MemOk) (step : ∀ {s : State}, s.MemOk → MemOkAfter (f s)) : MemOkAfter (s.withAway p f) := by
  unfold State.withAway
  extract_lets ns
  split
  · exact step ok
  · have ran := @step { s.exchange p with pending := [] } ok.exchange
    split
    · rename_i hr
      have away := fun fuel => (ran.get hr).runAway (ns := ns) (fuel := fuel)
      split
      · rename_i hr1
        exact State.MemOk.wakeRings (by exact ((away _).get hr1).exchange)
      · exact away _
    · exact ran

theorem State.MemOk.reissueParked {p n cls seq} (ok : s.MemOk) : MemOkAfter (s.reissueParked p n cls seq) := by
  unfold State.reissueParked
  dsimp only
  split
  · refine ok.withAway fun ok => ?_
    show State.MemOk _
    split
    · exact ok.reissueCmd
    · exact ok
  · show State.MemOk _
    split
    · exact ok.reissueCmd
    · exact ok

theorem State.MemOk.execCollectiveGeneration {lid vdev gid} (ok : s.MemOk) : MemOkAfter (execCollectiveGeneration lid vdev gid s) := by
  unfold Machine.execCollectiveGeneration
  split
  · exact ok.withAway fun ok => ok.tryGeneration
  · exact ok.tryGeneration

theorem State.MemOk.execSpsumPairAdd {n} (ok : s.MemOk) : MemOkAfter (execSpsumPairAdd n s) := ok.addPair

/-! ## Engine instructions -/

theorem State.MemOk.accept {n c} (ok : s.MemOk) : (s.accept n c).MemOk := ok

theorem State.MemOk.startCmd {n cls seq} (ok : s.MemOk) : (s.startCmd n cls seq).MemOk := by
  unfold State.startCmd
  dsimp only
  split
  · exact ok
  · exact ok.putCmd.owe

theorem State.MemOk.taint {n} (ok : s.MemOk) : (s.taint n).MemOk := ok

theorem State.MemOk.acceptEff {cmd zero term d} (ok : s.MemOk) : (acceptEff cmd zero term d s).MemOk := by
  unfold Machine.acceptEff
  extract_lets n seq taken tainted told cl started
  have told_ok : told.MemOk := State.MemOk.setCc (.ite ok.accept.taint ok.accept)
  have started_ok : started.MemOk := told_ok.startCmd
  split
  · exact told_ok.setCluster.pulse
  · refine .ite ?_ started_ok
    have ended := started_ok.execCommandComplete (core := n) (cls := cmd.cls) (seq := seq)
    split
    · rename_i hr
      exact ended.get hr
    · trivial
    · exact started_ok

theorem State.MemOk.descEff {kinds term d a imm} (ok : s.MemOk) : (descEff kinds term d a imm s).MemOk := by
  unfold Machine.descEff
  dsimp only
  split
  · split
    · split
      · exact ok.holdOn
      · split
        · exact ok
        · split
          · exact ok.touch
          · split
            · exact ok
            · split
              · exact ok
              · exact .ite ok ok.touch.coreRead.acceptEff
    · split
      · exact ok.holdOn
      · split
        · exact ok
        · split
          · exact ok.touch
          · split
            · exact ok
            · split
              · exact ok
              · exact .ite ok ok.touch.coreRead.acceptEff
  · split
    · split
      · exact ok.holdOn
      · split
        · exact ok
        · split
          · exact ok.touch
          · split
            · exact ok
            · split
              · exact ok
              · exact .ite ok ok.touch.coreRead.acceptEff
    · split
      · exact ok.holdOn
      · split
        · exact ok
        · split
          · exact ok.touch
          · split
            · exact ok
            · split
              · exact ok
              · exact .ite ok ok.touch.coreRead.acceptEff

theorem State.MemOk.descForm {h kinds term d a imm} (ok : s.MemOk) : MemOkAfter (descForm h kinds term d a imm s) :=
  ok.issueWord fun ok => ok.descEff

theorem State.MemOk.execXcopy {h d a imm} (ok : s.MemOk) : MemOkAfter (execXcopy h d a imm s) := ok.descForm
theorem State.MemOk.execXgath {h d a imm} (ok : s.MemOk) : MemOkAfter (execXgath h d a imm s) := ok.descForm
theorem State.MemOk.execXscat {h d a imm} (ok : s.MemOk) : MemOkAfter (execXscat h d a imm s) := ok.descForm
theorem State.MemOk.execXfill {h d a imm} (ok : s.MemOk) : MemOkAfter (execXfill h d a imm s) := ok.descForm
theorem State.MemOk.execXcoll {h d a imm} (ok : s.MemOk) : MemOkAfter (execXcoll h d a imm s) := ok.descForm
theorem State.MemOk.execNsend {h d a imm} (ok : s.MemOk) : MemOkAfter (execNsend h d a imm s) := ok.descForm

theorem State.MemOk.execEvxarm {h d a t imm} (ok : s.MemOk) : MemOkAfter (execEvxarm h d a t imm s) :=
  ok.issueWord fun ok => .ite ok ok.descEff

theorem State.MemOk.execXwait {h a cls} (ok : s.MemOk) : MemOkAfter (execXwait h a cls s) :=
  ok.issueWord fun ok => .ite ok (.ite ok.setCc ok.setCc)

theorem State.MemOk.execXseq {h d cls} (ok : s.MemOk) : MemOkAfter (execXseq h d cls s) := ok.issueWord fun ok => ok.zStatus

theorem State.MemOk.linesBeforeCancel {n fuel c} (ok : s.MemOk) : (State.linesBeforeCancel n fuel c s).1.MemOk := by
  induction fuel generalizing s c with
  | zero => exact ok
  | succ fuel ih =>
    unfold State.linesBeforeCancel
    have next : (s.advance n c).MemOk := ok.advance
    split
    · exact ok
    · split
      · rename_i hr
        rw [hr] at next
        exact ih (State.MemOk.countLine next)
      · exact ok

theorem State.MemOk.ringBehind {c} (ok : s.MemOk) : (s.ringBehind c).MemOk := by
  unfold State.ringBehind
  split
  · exact ok.wakeRing
  · exact ok

theorem State.MemOk.cancel {n c} (ok : s.MemOk) : (s.cancel n c).1.MemOk := by
  unfold State.cancel
  dsimp only
  split
  · exact ok.setCluster.finishCmd
  · exact .ringBehind (.leftEngine (.finishCmd (.linesBeforeCancel ok)))
  · exact ok.setDie.finishCmd.ringBehind
  · exact ok.finishCmd
  · exact ok.finishCmd

theorem State.MemOk.execXcancel {h d a cls} (ok : s.MemOk) : MemOkAfter (execXcancel h d a cls s) := by
  unfold Machine.execXcancel
  refine ok.issueWord fun ok => ?_
  dsimp only
  split
  · exact ok.setCc
  · split
    · exact ok
    · exact ok.cancel.setCc

theorem State.MemOk.fenceEff {scope paths} (ok : s.MemOk) : (fenceEff scope paths s).MemOk := by
  unfold Machine.fenceEff
  exact .ite ok (.ite ok.setCc (.ite ok.setCc ok.setCc))

theorem State.MemOk.execFence {h scope paths} (ok : s.MemOk) : MemOkAfter (execFence h scope paths s) :=
  ok.issueWord fun ok => ok.fenceEff

theorem State.MemOk.acceptRing {n v r size k i} (ok : s.MemOk) : (s.acceptRing n v r size k i).MemOk := by
  induction k generalizing s i with
  | zero => exact ok
  | succ k ih => exact ih ok.accept.startCmd

theorem State.MemOk.execSring {h d a r} (ok : s.MemOk) : MemOkAfter (execSring h d a r s) :=
  ok.issueWord fun ok => .ite ok (.ite ok (.ite ok.setCc (.ite ok ok.setCc.onVd.taint.acceptRing.readRing.setCc)))

/-! ## The event crossbar -/

theorem State.MemOk.dropPulse {p} (ok : s.MemOk) : (s.dropPulse p).MemOk := ok.onPart

theorem State.MemOk.pulseCounter {cl i k p sup} (ok : s.MemOk) : (s.pulseCounter cl i k p sup).MemOk := by
  unfold State.pulseCounter
  exact .ite ok.dropPulse ok.setCluster

theorem State.MemOk.matrixCount {cl sh} (ok : s.MemOk) : (s.matrixCount cl sh).MemOk := by
  unfold State.matrixCount
  exact ok.setCluster.foldl fun ok => ok.dropPulse

theorem State.MemOk.applyPulse {cl p} (ok : s.MemOk) : (State.applyPulse cl s p).MemOk := by
  unfold State.applyPulse
  dsimp only
  split
  · exact ok.setCluster
  · exact ok.setCluster
  · exact ok
  · exact ok.pulseCounter
  · exact ok.matrixCount
  · exact ok.pulseCounter

theorem State.MemOk.evalTerm {cl t} (ok : s.MemOk) : (State.evalTerm cl s t).MemOk := by
  unfold State.evalTerm
  dsimp only
  split
  · exact ok
  · split
    · exact ok.setCluster
    · exact ok.setCluster.startCmd

theorem State.MemOk.xbarEdge {cl again ps} (ok : s.MemOk) : (s.xbarEdge cl again ps).MemOk := by
  unfold State.xbarEdge
  extract_lets counted c fired evaluated
  have evaluated_ok : evaluated.MemOk := (ok.foldl fun ok => ok.applyPulse).foldl fun ok => ok.evalTerm
  exact .ite evaluated_ok.pulse evaluated_ok

theorem State.MemOk.execXbarPulseArrive {cl} (ok : s.MemOk) : MemOkAfter (execXbarPulseArrive cl s) := by
  unfold Machine.execXbarPulseArrive
  exact ok.setCluster.xbarEdge

theorem State.MemOk.execEvxcfgC {h a i} (ok : s.MemOk) : MemOkAfter (execEvxcfgC h a i s) :=
  ok.issueWord fun ok => .ite ok ok.pulse

theorem State.MemOk.execEvxcfgT {h a b i} (ok : s.MemOk) : MemOkAfter (execEvxcfgT h a b i s) :=
  ok.issueWord fun ok => .ite ok ok.pulse

theorem State.MemOk.execEvxcfgR {h d term i} (ok : s.MemOk) : MemOkAfter (execEvxcfgR h d term i s) :=
  ok.issueWord fun ok => .ite ok ok.setCc

theorem State.MemOk.execEvsigPulse {h c cnt} (ok : s.MemOk) : MemOkAfter (execEvsigPulse h c cnt s) :=
  ok.issueWord fun ok => .ite ok ok.pulse

/-! ## Atomics -/

theorem State.MemOk.atomicEff {ins scope dbl x f out} (ok : s.MemOk) : (atomicEff ins scope dbl x f out s).MemOk := by
  unfold Machine.atomicEff
  dsimp only
  split
  · exact ok
  · split
    · split
      · exact ok.holdOn
      · split
        · split
          · exact ok
          · exact ok
          · split
            · exact ok.touch
            · split
              · exact ok.touch.storePlace.setCc
              · exact ok.touch.storePlace
        · split
          · exact ok.xerr
          · split
            · split
              · show State.MemOk _
                refine State.MemOk.setCc ?_
                dsimp only [State.MemOk]
                exact ok.lostWrite
              · show State.MemOk _
                dsimp only [State.MemOk]
                exact ok.lostWrite
            · split
              · exact ok.badRead
              · split
                · exact ok.gain.storeHome.setCc
                · exact ok.gain.storeHome
    · split
      · exact ok.holdOn
      · split
        · split
          · exact ok
          · exact ok
          · split
            · exact ok.touch
            · split
              · exact ok.touch.storePlace.setCc
              · exact ok.touch.storePlace
        · split
          · exact ok.xerr
          · split
            · split
              · show State.MemOk _
                refine State.MemOk.setCc ?_
                dsimp only [State.MemOk]
                exact ok.lostWrite
              · show State.MemOk _
                dsimp only [State.MemOk]
                exact ok.lostWrite
            · split
              · exact ok.badRead
              · split
                · exact ok.gain.storeHome.setCc
                · exact ok.gain.storeHome

theorem State.MemOk.amoEff {ins op d a b sz scope imm} (ok : s.MemOk) : (amoEff ins op d a b sz scope imm s).MemOk := by
  unfold Machine.amoEff
  exact ok.atomicEff

theorem State.MemOk.casEff {ins d a b sz scope imm} (ok : s.MemOk) : (casEff ins d a b sz scope imm s).MemOk := by
  unfold Machine.casEff
  exact ok.atomicEff

theorem State.MemOk.redEff {ins op a b sz scope imm} (ok : s.MemOk) : (redEff ins op a b sz scope imm s).MemOk := by
  unfold Machine.redEff
  exact ok.atomicEff

theorem State.MemOk.execAmo {h op d a b sz scope imm} (ok : s.MemOk) : MemOkAfter (execAmo h op d a b sz scope imm s) :=
  ok.issueWord fun ok => ok.amoEff

theorem State.MemOk.execCas {h d a b sz scope imm} (ok : s.MemOk) : MemOkAfter (execCas h d a b sz scope imm s) :=
  ok.issueWord fun ok => ok.casEff

theorem State.MemOk.execRed {h op a b sz scope imm} (ok : s.MemOk) : MemOkAfter (execRed h op a b sz scope imm s) :=
  ok.issueWord fun ok => ok.redEff

/-! ## Channels and timed communication -/

theorem State.MemOk.onComm {n f} (ok : s.MemOk) : (s.onComm n f).MemOk := ok.setCore

theorem State.MemOk.sendLcn {n p l sup ev} (ok : s.MemOk) : (s.sendLcn n p l sup ev).MemOk := by
  unfold State.sendLcn
  split
  · exact ok.send
  · exact ok.report

theorem State.MemOk.declareEff {d a ch slot} (ok : s.MemOk) : (declareEff d a ch slot s).MemOk := by
  unfold Machine.declareEff
  dsimp only
  split
  · exact ok
  · split
    · exact ok
    · exact .ite ok ok.onComm.setCc.sendLcn

theorem State.MemOk.execChdecl {h d a ch slot} (ok : s.MemOk) : MemOkAfter (execChdecl h d a ch slot s) :=
  ok.issueWord fun ok => ok.declareEff

theorem State.MemOk.execChdeclRel {h ch} (ok : s.MemOk) : MemOkAfter (execChdeclRel h ch s) := by
  unfold Machine.execChdeclRel
  refine ok.issueWord fun ok => ?_
  dsimp only
  split
  · exact ok
  · exact .ite ok (.ite ok ok.onComm.sendLcn)

theorem State.MemOk.landed {p src} (ok : s.MemOk) : (s.landed p src).MemOk := by
  unfold State.landed
  split
  · exact ok.recheckBarriers
  · exact ok

theorem State.MemOk.execChannelClaim {m} (ok : s.MemOk) : MemOkAfter (execChannelClaim m s) := by
  unfold Machine.execChannelClaim
  exact .ite (State.MemOk.landed (.ite ok.onComm ok)) (State.MemOk.sendLcn (.ite ok.onComm ok))

theorem State.MemOk.undeclare {n m granted} (ok : s.MemOk) : (s.undeclare n m granted).MemOk := .ite ok.send ok

theorem State.MemOk.execChannelClaimAnswer {m granted} (ok : s.MemOk) : MemOkAfter (execChannelClaimAnswer m granted s) := by
  unfold Machine.execChannelClaimAnswer
  dsimp only
  split
  · exact ok
  · split
    · exact ok.undeclare.recheckBarriers
    · exact ok.setCore.recheckBarriers

theorem State.MemOk.messageTime (ok : s.MemOk) : (s.messageTime).1.MemOk := ok.setCc

theorem State.MemOk.execChsend {h b ch} (ok : s.MemOk) : MemOkAfter (execChsend h b ch s) := by
  unfold Machine.execChsend
  refine ok.issueWord fun ok => ?_
  refine ok.noStream fun ok => ?_
  dsimp only
  split
  · exact ok
  · split
    · exact ok
    · split
      · exact ok
      · split
        · exact ok
        · exact .ite ok ok.messageTime.onComm.sendLcn

theorem State.MemOk.receive {n slot d} (ok : s.MemOk) : (s.receive n slot d).MemOk := by
  unfold State.receive
  dsimp only
  split
  · exact ok.setCore
  · exact ok.setCore.sendLcn

theorem State.MemOk.execChrecv {h d slot} (ok : s.MemOk) : MemOkAfter (execChrecv h d slot s) :=
  ok.issueWord fun ok => ok.noStream fun ok => .ite ok (.ite ok.receive ok.setCc)

theorem State.MemOk.execChpoll {h d slot pf} (ok : s.MemOk) : MemOkAfter (execChpoll h d slot pf s) :=
  ok.issueWord fun ok => ok.noStream fun ok => .ite ok (State.MemOk.setCc (.ite ok.receive ok))

theorem State.MemOk.execChannelMessageLand {core slot m} (ok : s.MemOk) : MemOkAfter (execChannelMessageLand core slot m s) := by
  unfold Machine.execChannelMessageLand
  dsimp only
  split
  · exact ok.landed
  · split
    · exact ok.onComm.landed
    · show State.MemOk _
      refine State.MemOk.landed ?_
      split
      · exact .ite ok.onComm.receive.wakeWith ok.onComm
      · exact ok.onComm

theorem State.MemOk.execChannelGrant {core ch} (ok : s.MemOk) : MemOkAfter (execChannelGrant core ch s) := by
  unfold Machine.execChannelGrant
  dsimp only
  split
  · exact ok
  · exact ok.onComm.foldl fun ok => ok.recheckBarriers

theorem State.MemOk.execPhase {h b} (ok : s.MemOk) : MemOkAfter (execPhase h b s) :=
  .ite ok.decodeTrap (ok.issueWord fun ok => .ite ok ok.arriveAt)

theorem State.MemOk.timedChannelTrap (ok : s.MemOk) : (timedChannelTrap s).MemOk := ok

theorem State.MemOk.timedEntry {k send go} (ok : s.MemOk) (step : ∀ e, (go e).MemOk) : (timedEntry k send s go).MemOk := by
  unfold Machine.timedEntry
  refine .ite ok.timedChannelTrap ?_
  split
  · exact ok
  · exact .ite ok (.ite ok (step _))

theorem State.MemOk.execTsend {h b k} (ok : s.MemOk) : MemOkAfter (execTsend h b k s) := by
  refine .ite ok.decodeTrap (ok.issueWord fun ok => ok.noStream fun ok => ok.timedEntry fun e => ?_)
  dsimp only
  split
  · exact ok
  · split
    · exact ok.messageTime
    · exact ok.messageTime.sendAt

theorem State.MemOk.execTimedMessageLand {core land m} (ok : s.MemOk) : MemOkAfter (execTimedMessageLand core land m s) :=
  .ite ok.onComm ok

theorem State.MemOk.execTrecv {h d k} (ok : s.MemOk) : MemOkAfter (execTrecv h d k s) := by
  refine .ite ok.decodeTrap (ok.issueWord fun ok => ok.noStream fun ok => ok.timedEntry fun e => ?_)
  dsimp only
  split
  · exact ok.setCc
  · exact ok.setCc

end Sys2Proof.Machine
end

section
/-! The canonical form of memory: tasks, domains and the system. -/
namespace Sys2Proof.Machine
open Sys2Proof
variable {s : State}

/-! ## Task queues -/

theorem State.MemOk.putLaunch {x} (ok : s.MemOk) : (s.putLaunch x).MemOk := ok

theorem State.MemOk.onLaunch {l f} (ok : s.MemOk) : (s.onLaunch l f).MemOk := by
  unfold State.onLaunch
  split
  · exact ok.putLaunch
  · exact ok

theorem State.MemOk.hwRead {n a len} (ok : s.MemOk) : FirstOk (s.hwRead n a len) := by
  unfold State.hwRead
  split
  · trivial
  · exact .ite trivial ok.readGlobal

theorem State.MemOk.hwReadToEdit {n a len} (ok : s.MemOk) : FirstOk (s.hwReadToEdit n a len) := by
  unfold State.hwReadToEdit
  split
  · trivial
  · exact .ite trivial ok.readGlobal

theorem State.MemOk.hwWrite {n a bs} (ok : s.MemOk) : StateOk (s.hwWrite n a bs) := by
  unfold State.hwWrite
  split
  · trivial
  · exact ok.writeGlobal

theorem State.MemOk.hwEdit {n r f} (ok : s.MemOk) : StateOk (s.hwEdit n r f) := by
  unfold State.hwEdit
  dsimp only
  split
  · trivial
  · exact .ite trivial ok.gain.writeGlobal

theorem State.MemOk.hwAtomic {n a f} (ok : s.MemOk) : StateOk (s.hwAtomic n a f) := by
  unfold State.hwAtomic
  dsimp only
  split
  · trivial
  · exact .ite ok.lostWrite (.ite trivial ok.gain.storeHome)

theorem State.MemOk.recordFault {n a} (ok : s.MemOk) : (s.recordFault n a).MemOk := ok.haltFaulted.faultOnFault
theorem State.MemOk.haltPartition {p n a} (ok : s.MemOk) : (s.haltPartition p n a).MemOk := ok.haltFaulted.haltAway.report

theorem State.MemOk.orDouble {n a r} (ok : s.MemOk) (written : StateOk r) : (s.orDouble n a r).MemOk := by
  cases r with
  | ok t => exact written
  | error e => exact ok.recordFault

theorem State.MemOk.hwStop {a e} (ok : s.MemOk) : (hwStop s a e).MemOk := by
  unfold Machine.hwStop
  split
  · exact ok
  · exact ok.recordFault
  · exact ok.badRead
  · trivial

theorem State.MemOk.editDomain {p n r f} (ok : s.MemOk) : (s.editDomain p n r f).MemOk := by
  unfold State.editDomain
  split
  · exact ok.orDouble ok.hwEdit
  · split
    · exact ok
    · split
      · rename_i hr
        exact (ok.split (ok.agentBytes.error hr)).haltPartition
      · rename_i hr
        split
        · rename_i hr1
          exact ((ok.agentBytes.get hr).split ((ok.agentBytes.get hr).agentStore.error hr1)).haltPartition
        · rename_i hr1
          exact (ok.agentBytes.get hr).agentStore.get hr1

theorem State.MemOk.addTasks {p n r k} (ok : s.MemOk) : (s.addTasks p n r k).MemOk := .ite ok ok.editDomain
theorem State.MemOk.setQueue {q es} (ok : s.MemOk) : (s.setQueue q es).MemOk := ok
theorem State.MemOk.offer {p} (ok : s.MemOk) : (s.offer p).MemOk := ok.foldl fun ok => .ite ok.owe ok
theorem State.MemOk.putEntry {p q e} (ok : s.MemOk) : (s.putEntry p q e).MemOk := ok.setQueue.offer
theorem State.MemOk.enqueue {n p q e} (ok : s.MemOk) : (s.enqueue n p q e).MemOk := ok.addTasks.putEntry

theorem State.MemOk.tryEnqueue {n p q e} (ok : s.MemOk) : StateOk (s.tryEnqueue n p q e) := by
  unfold State.tryEnqueue
  split
  · exact ok.putEntry
  · split
    · trivial
    · rename_i hr
      exact (ok.hwEdit.get hr).putEntry

theorem State.MemOk.becameIdle {n l} (ok : s.MemOk) : (s.becameIdle n l).MemOk := by
  unfold State.becameIdle
  extract_lets c yielded ended
  have yielded_ok : yielded.MemOk := .ite ok.setCore ok.owe
  have ended_ok : ended.MemOk := by
    cases l with
    | none => exact yielded_ok
    | some l => exact yielded_ok.owe
  split
  · exact ended_ok
  · exact ended_ok.foldl fun ok => ok.owe

theorem State.MemOk.leaveTask {n} (ok : s.MemOk) : (s.leaveTask n).MemOk := by
  unfold State.leaveTask
  exact .ite ok.leaveGang.setCore.setCore ok.leaveGang.setCore.becameIdle

theorem State.MemOk.endTask {n} (ok : s.MemOk) : (s.endTask n).MemOk := by
  unfold State.endTask
  refine State.MemOk.leaveTask ?_
  split
  · exact ok.addTasks
  · exact ok

theorem State.MemOk.endTaskEff {n} (ok : s.MemOk) : (endTaskEff n s).MemOk := by
  unfold Machine.endTaskEff
  split
  · exact ok.leaveTask
  · split
    · exact ok.hwStop
    · rename_i hr
      exact (ok.hwEdit.get hr).leaveTask

theorem State.MemOk.popAt {n p q i e} (ok : s.MemOk) : (s.popAt n p q i e).MemOk := by
  unfold State.popAt
  exact .setCore (.onLaunch (.ite ok.setQueue ok.setQueue.setQueue.onLaunch))

theorem State.MemOk.execTaskPop {core} (ok : s.MemOk) : MemOkAfter (execTaskPop core s) := by
  unfold Machine.execTaskPop
  split
  · exact ok
  · split
    · exact ok
    · exact ok.popAt.offer

theorem State.MemOk.execIdleSearchWiden {core} (ok : s.MemOk) : MemOkAfter (execIdleSearchWiden core s) := by
  unfold Machine.execIdleSearchWiden
  exact .ite ok.setCore.owe ok

theorem State.MemOk.execQueueAging (ok : s.MemOk) : MemOkAfter (execQueueAging s) := ok

theorem State.MemOk.spawnEff {a count pri loc} (ok : s.MemOk) : (spawnEff a count pri loc s).MemOk := by
  unfold Machine.spawnEff
  dsimp only
  split
  · exact ok
  · split
    · exact ok
    · split
      · split
        · exact ok
        · split
          · exact ok.hwStop
          · rename_i hr
            exact ok.setCc.tryEnqueue.get hr
      · split
        · exact ok
        · split
          · exact ok.hwStop
          · rename_i hr
            exact ok.setCc.tryEnqueue.get hr

theorem State.MemOk.execSpawn {h a pri loc} (ok : s.MemOk) : MemOkAfter (execSpawn h a pri loc s) :=
  ok.issueWord fun ok => ok.spawnEff

theorem State.MemOk.execSpawnR {h a b pri loc} (ok : s.MemOk) : MemOkAfter (execSpawnR h a b pri loc s) :=
  ok.issueWord fun ok => ok.spawnEff

theorem State.MemOk.joinBlock {d bs s0} (ok0 : s0.MemOk) (ok : s.MemOk) : (joinBlock d bs s0 s).MemOk := by
  unfold Machine.joinBlock
  refine .ite ok.setCc ?_
  dsimp only
  split
  · exact ok0.hwStop
  · rename_i hr
    exact ok.setCc.tryEnqueue.get hr

theorem State.MemOk.joinEff {ins d a} (ok : s.MemOk) : (joinEff ins d a s).MemOk := by
  unfold Machine.joinEff
  dsimp only
  refine .ite ok.holdOn (.ite ?_ ?_)
  · split
    · exact ok
    · exact ok
    · exact .ite ok.touch (ok.joinBlock ok.touch.storePlace)
  · split
    · exact ok.xerr
    · split
      · exact State.MemOk.setCc (by exact ok.lostWrite)
      · exact .ite ok.badRead (ok.joinBlock (ok.foldl fun ok => ok.gain).storeHome)

theorem State.MemOk.execJoin {h d a} (ok : s.MemOk) : MemOkAfter (execJoin h d a s) := ok.issueWord fun ok => ok.joinEff

theorem State.MemOk.taskValue {d x} (ok : s.MemOk) : (taskValue d x s).MemOk := by
  unfold Machine.taskValue
  split
  · exact ok.setCc
  · exact State.MemOk.setCc ok

theorem State.MemOk.execWid {h d} (ok : s.MemOk) : MemOkAfter (execWid h d s) := ok.issueWord fun ok => ok.taskValue
theorem State.MemOk.execWidf {h d a i} (ok : s.MemOk) : MemOkAfter (execWidf h d a i s) := ok.issueWord fun ok => ok.taskValue

theorem State.MemOk.execCorenum {h d sel} (ok : s.MemOk) : MemOkAfter (execCorenum h d sel s) :=
  ok.issueWord fun ok => ok.taskValue

/-! ## Launches -/

theorem State.MemOk.submit {v hdr core time} (ok : s.MemOk) : (s.submit v hdr core time).1.MemOk := by
  unfold State.submit
  dsimp only
  split
  · exact ok.onVd
  · split
    · exact ok.onVd
    · exact .owe ok

theorem State.MemOk.execLaunch {h d a imm} (ok : s.MemOk) : MemOkAfter (execLaunch h d a imm s) := by
  unfold Machine.execLaunch
  refine ok.issueWord fun ok => ?_
  dsimp only
  split
  · exact ok.holdOn
  · split
    · exact ok
    · split
      · exact ok.touch
      · show State.MemOk _
        refine State.MemOk.setCc ?_
        split
        · exact .ite ok.touch.coreRead.submit ok.touch.coreRead.submit.setCc
        · exact .ite ok.touch.coreRead ok.touch.coreRead.setCc

theorem State.MemOk.launchWrite {v req off data} (ok : s.MemOk) : (s.launchWrite v req off data).MemOk := by
  unfold State.launchWrite
  exact .ite ok.onVd ok.onVd.submit

theorem State.MemOk.enterPort {x} (ok : s.MemOk) : (s.enterPort x).MemOk := ok

theorem State.MemOk.execLaunchWindowWrite {v req off data} (ok : s.MemOk) : MemOkAfter (execLaunchWindowWrite v req off data s) :=
  State.MemOk.ite ok.enterPort ok.launchWrite

theorem State.MemOk.setDomainBarrier {x ds g cl ts} (ok : s.MemOk) : (s.setDomainBarrier x ds g cl ts).MemOk :=
  ok.onBarrier.setCluster

theorem State.MemOk.startThreads {x set} (ok : s.MemOk) : (s.startThreads x set).MemOk := by
  unfold State.startThreads
  exact ok.foldl fun ok => .ite ok.addTasks ok.addTasks.setCore

theorem State.MemOk.beginWork {x set} (ok : s.MemOk) : (s.beginWork x set).MemOk := by
  unfold State.beginWork
  exact .ite ((ok.foldl fun ok => ok.foldl fun ok => ok.setDomainBarrier).startThreads) ok.enqueue

theorem State.MemOk.completing {x status} (ok : s.MemOk) : (s.completing x status).MemOk := ok.putLaunch.owe

theorem State.MemOk.execLaunchActivate {v lid} (ok : s.MemOk) : MemOkAfter (execLaunchActivate v lid s) := by
  unfold Machine.execLaunchActivate
  dsimp only
  split
  · exact ok
  · exact .ite ok (.ite ok.completing (.ite ok (State.MemOk.foldl (.beginWork (.ite ok.putLaunch ok.putLaunch.editDomain)) fun ok => ok.owe)))

theorem State.MemOk.freeTiles {l} (ok : s.MemOk) : (s.freeTiles l).MemOk := by
  unfold State.freeTiles
  exact .mapOut ok

theorem State.MemOk.freeChannels {x} (ok : s.MemOk) : (s.freeChannels x).MemOk := by
  unfold State.freeChannels
  exact .mapOut ok

theorem State.MemOk.signalLaunch {x time} (ok : s.MemOk) : (s.signalLaunch x time).MemOk := by
  unfold State.signalLaunch
  dsimp only
  split
  · exact .ite ok.report ok
  · split
    · exact .send (.ite ok.report ok)
    · exact .report (.ite ok.report ok)

theorem State.MemOk.finishLaunch {x} (ok : s.MemOk) : MemOkAfter (s.finishLaunch x) := by
  unfold State.finishLaunch
  dsimp only
  split
  · exact State.MemOk.putLaunch ok
  · split
    · rename_i hr
      split
      · exact ok.parkAgent
      · trivial
      · show State.MemOk _
        refine State.MemOk.putLaunch ?_
        dsimp only [State.MemOk]
        exact ok.split (ok.agentStore.error hr)
    · rename_i hr
      split
      · rename_i hr1
        split
        · exact ok.parkAgent
        · trivial
        · show State.MemOk _
          refine State.MemOk.putLaunch ?_
          dsimp only [State.MemOk]
          exact ok.split ((ok.agentStore.get hr).agentBytes.error hr1)
      · rename_i hr1
        split
        · rename_i hr2
          split
          · exact ok.parkAgent
          · trivial
          · show State.MemOk _
            refine State.MemOk.putLaunch ?_
            dsimp only [State.MemOk]
            exact ok.split (((ok.agentStore.get hr).agentBytes.get hr1).agentStore.error hr2)
        · rename_i hr2
          show State.MemOk _
          refine State.MemOk.putLaunch ?_
          dsimp only [State.MemOk]
          exact (((ok.agentStore.get hr).agentBytes.get hr1).agentStore.get hr2).signalLaunch

theorem State.MemOk.execLaunchComplete {v lid} (ok : s.MemOk) : MemOkAfter (execLaunchComplete v lid s) := by
  unfold Machine.execLaunchComplete
  dsimp only
  split
  · exact ok
  · exact .ite (State.MemOk.finishLaunch (.ite ok.putLaunch.freeTiles.freeChannels ok.putLaunch.freeTiles.freeChannels.editDomain)) ok

/-! ## Containment domains -/

theorem State.MemOk.writeFor {p m pl bs} (ok : s.MemOk) : (s.writeFor p m pl bs).MemOk := by
  unfold State.writeFor
  split
  · exact .ite ok.coreWrite.writePlace ok.mapOut
  · exact ok.coreWrite.writePlace

theorem State.MemOk.restoreBytes {p n o fuel a bs} (ok : s.MemOk) : StateOk (s.restoreBytes p n o fuel a bs) := by
  induction fuel generalizing s a bs with
  | zero => exact ok
  | succ fuel ih =>
    unfold State.restoreBytes
    extract_lets k next
    have written : StateOk next := by
      refine .ite ?_ ?_
      · split
        · trivial
        · trivial
        · exact ok.writeFor
      · split
        · trivial
        · exact ok.writeGlobal
    clear_value next
    refine .ite ok ?_
    split
    · trivial
    · exact ih written

theorem StateOk.restoreEntry {p n o e} {x : Except KeepErr State} (h : StateOk x) : StateOk (State.restoreEntry p n o x e) := by
  cases x with
  | error x => trivial
  | ok s =>
    refine .ite ?_ (State.MemOk.restoreBytes h)
    split
    · trivial
    · exact State.MemOk.restoreBytes h

theorem State.MemOk.restoreArea {p n bs} (ok : s.MemOk) : StateOk (s.restoreArea p n bs) := by
  unfold State.restoreArea
  split
  · trivial
  · exact List.foldlRecOn (motive := StateOk) _ _ ok fun _ ok _ _ => ok.restoreEntry

theorem State.MemOk.abandon {n} (ok : s.MemOk) : (s.abandon n).MemOk := by
  unfold State.abandon
  exact (ok.withdraw.leaveQueues.foldl fun ok => ok.cancel).setDie.setCore.endTask

theorem State.MemOk.dropOut {p n hit} (ok : s.MemOk) : (s.dropOut p n hit).MemOk := by
  refine State.MemOk.mapOut (ok.foldl fun ok => ?_)
  split
  · exact ok.addTasks
  · exact ok

theorem State.MemOk.removeTagged {p n d} (ok : s.MemOk) : (s.removeTagged p n d).MemOk :=
  ok.foldl fun ok => (ok.foldl fun ok => ok.addTasks).setQueue

theorem State.MemOk.abandonDomain {p n d keep} (ok : s.MemOk) : (s.abandonDomain p n d keep).MemOk := by
  unfold State.abandonDomain
  exact (ok.dropOut.removeTagged.foldl fun ok => ok.abandon).foldl fun ok => ok.editDomain

theorem State.MemOk.removeEntries {l q} (ok : s.MemOk) : (s.removeEntries l q).MemOk := by
  unfold State.removeEntries
  exact (ok.foldl fun ok => ok.addTasks).setQueue

theorem State.MemOk.endLaunch {l status} (ok : s.MemOk) : (s.endLaunch l status).MemOk := by
  unfold State.endLaunch
  extract_lets cores abandoned removed ps dropped
  have dropped_ok : dropped.MemOk :=
    ((ok.foldl fun ok => ok.abandon).foldl fun ok => ok.removeEntries).foldl fun ok => ok.dropOut
  split
  · exact .ite dropped_ok.completing dropped_ok
  · exact dropped_ok

theorem State.MemOk.abortLaunch {l} (ok : s.MemOk) : (s.abortLaunch l).MemOk := ok.endLaunch

theorem State.MemOk.chargeDomain {p n l wid fuel r} (ok : s.MemOk) : (State.chargeDomain p n l wid fuel r s).MemOk := by
  induction fuel generalizing s r with
  | zero => exact ok
  | succ fuel ih =>
    unfold State.chargeDomain
    extract_lets left
    have left_ok : left.MemOk := ok.abandonDomain
    split
    · exact left_ok.haltPartition
    · extract_lets up
      have up_ok : ∀ {s : State}, s.MemOk → (up s).MemOk := by
        intro s ok
        refine .ite ?_ (ih ok.editDomain)
        cases l with
        | none => exact ok.editDomain
        | some l => exact ok.editDomain.abortLaunch
      refine .ite (up_ok left_ok) ?_
      split
      · exact up_ok left_ok
      · exact left_ok.haltPartition
      · rename_i hr
        have charged := fun f => ((left_ok.restoreArea.get hr).editDomain (p := p) (n := n) (r := r) (f := f)).onLaunch (l := l)
          (f := Launch.charged wid true)
        refine .ite ?_ (charged _).enqueue
        split
        · exact (charged _).beginWork
        · exact charged _

theorem State.MemOk.restartSuperstep {n count} (ok : s.MemOk) : (s.restartSuperstep n count).MemOk := by
  unfold State.restartSuperstep
  exact .foldl (.mapOut (.foldl ok fun ok => .ite ok.onBarrier ok)) fun ok => ok.setDie.setCore.notBefore

theorem State.MemOk.chargeSuperstep {n x wid} (ok : s.MemOk) : (s.chargeSuperstep n x wid).MemOk := by
  unfold State.chargeSuperstep
  exact .ite ok.onLaunch.abortLaunch ok.onLaunch.restartSuperstep

theorem State.MemOk.chargeCore {n} (ok : s.MemOk) : (s.chargeCore n).MemOk := by
  unfold State.chargeCore
  dsimp only
  split
  · split
    · exact ok.chargeDomain
    · exact ok.chargeSuperstep
    · exact .ite ok.chargeDomain ok.onLaunch.abandon
  · exact ok

theorem State.MemOk.released {n} (ok : s.MemOk) : (s.released n).MemOk :=
  .ite ok (.ite ok.onCore.notBefore.becameIdle ok.onCore.notBefore)

theorem State.MemOk.execDomainCharge (ok : s.MemOk) : MemOkAfter (execDomainCharge s) := by
  unfold Machine.execDomainCharge
  dsimp only
  split
  · split
    · exact State.MemOk.released (.chargeCore ok)
    · exact State.MemOk.released (.chargeDomain ok)
  · split
    · exact ok
    · exact ok.postError

theorem State.MemOk.execCdopen {h a} (ok : s.MemOk) : MemOkAfter (execCdopen h a s) := by
  unfold Machine.execCdopen
  refine ok.issueWord fun ok => ?_
  dsimp only
  split
  · exact ok
  · split
    · exact ok
    · split
      · exact ok.hwStop
      · rename_i hr
        split
        · exact ok
        · split
          · exact ok.hwStop
          · rename_i hr1
            exact ((ok.hwReadToEdit.get hr).hwEdit.get hr1).setCc

theorem State.MemOk.globalRun {n fuel a len} (ok : s.MemOk) : FirstOk (State.globalRun n fuel a len s) := by
  induction fuel generalizing s a len with
  | zero => exact ok
  | succ fuel ih =>
    unfold State.globalRun
    refine .ite ok ?_
    dsimp only
    split
    · trivial
    · split
      · trivial
      · rename_i hr
        exact (ih ok.readGlobal).get hr

/-- A read of a range keeps the invariant where its stops do and what goes on with the bytes does. -/
theorem State.MemOk.loadRange {ins a len bounds pre go} (ok : s.MemOk) (hb : StopOk bounds) (hp : StopOk pre)
    (step : ∀ {bs} {s : State}, s.MemOk → (go s bs).MemOk) : (loadRange ins a len bounds pre s go).MemOk := by
  unfold Machine.loadRange
  extract_lets n stop poisoned next
  have poisoned_ok : ∀ {s : State}, s.MemOk → (poisoned s).MemOk := fun ok => (hb.or hp).getD ok
  have next_ok : ∀ {bs} {s : State}, s.MemOk → (next s bs).MemOk := fun ok => (hb.or hp).getD (step ok)
  refine .ite (next_ok ok) (.ite ok.holdOn (.ite ?_ (.ite ok ?_)))
  · split
    · exact ok
    · exact ok
    · exact .ite (poisoned_ok ok.touch) (next_ok ok.touch.coreRead)
  · split
    · exact hb.getD ok.xerr
    · rename_i hr
      exact .ite (poisoned_ok ok.badRead) (next_ok (ok.globalRun.get hr))

theorem State.MemOk.keepBounds {a size} (ok : s.MemOk) : StopOk (keepBounds a size s) := .ite (.some ok) (.ite (.some ok) .none)

theorem State.MemOk.keepStop {n a size} (ok : s.MemOk) : StopOk (keepStop n a size s) := by
  intro e he
  obtain ⟨i, _, hi⟩ := List.exists_of_findSome?_eq_some he
  split at hi
  · cases hi
    exact ok.hwStop
  · cases hi

theorem State.MemOk.keepWrite {n k a bs} (ok : s.MemOk) : StateOk (s.keepWrite n k a bs) := by
  induction k generalizing s a bs with
  | zero => exact ok
  | succ k ih =>
    unfold State.keepWrite
    split
    · trivial
    · rename_i hr
      exact ih (ok.hwWrite.get hr)

theorem State.MemOk.cdkeepEff {ins a b snap} (ok : s.MemOk) : (cdkeepEff ins a b snap s).MemOk := by
  unfold Machine.cdkeepEff
  extract_lets n c x len size
  split
  · exact ok
  · split
    · exact ok.hwStop
    · rename_i hr
      have read := ok.hwReadToEdit.get hr
      extract_lets used at_ put bounds stop
      have put_ok : ∀ {bs} {s : State}, s.MemOk → (put s bs).MemOk := by
        intro bs s1 ok1
        dsimp only [put]
        split
        · exact ok.hwStop
        · rename_i hr1
          split
          · exact ok.hwStop
          · rename_i hr2
            exact (ok1.keepWrite.get hr1).hwEdit.get hr2
      exact .ite ok (.ite ((ok.keepBounds.or ok.keepStop).getD (put_ok read)) (read.loadRange ok.keepBounds ok.keepStop put_ok))

theorem State.MemOk.execCdkeep {h a b snap} (ok : s.MemOk) : MemOkAfter (execCdkeep h a b snap s) :=
  ok.issueWord fun ok => ok.cdkeepEff

theorem State.MemOk.cdsigEff {ins a b} (ok : s.MemOk) : (cdsigEff ins a b s).MemOk := by
  unfold Machine.cdsigEff
  dsimp only
  split
  · exact ok
  · refine .ite ok (ok.loadRange .none ?_ fun ok1 => ?_)
    · split
      · exact .some ok.hwStop
      · exact .none
    · split
      · exact ok.hwStop
      · rename_i hr
        exact ok1.hwEdit.get hr

theorem State.MemOk.execCdsig {h a b} (ok : s.MemOk) : MemOkAfter (execCdsig h a b s) := ok.issueWord fun ok => ok.cdsigEff

theorem State.MemOk.maybeAudit {n r bs sig} (ok : s.MemOk) : (s.maybeAudit n r bs sig).MemOk := by
  unfold State.maybeAudit
  exact .ite ok (.ite (.onPart ok) ok)

theorem State.MemOk.execCdclose {h d} (ok : s.MemOk) : MemOkAfter (execCdclose h d s) := by
  refine ok.issueWord fun {s} ok => ?_
  dsimp only
  split
  · exact ok
  · split
    · exact ok.hwStop
    · rename_i hr
      refine .ite ok ?_
      split
      · exact ok.hwStop
      · rename_i hr1
        have closed := (ok.hwReadToEdit.get hr).hwEdit.get hr1
        split
        · exact ok.hwStop
        · rename_i hr2
          have signed := StateOk.get (.ite (by exact closed) closed.hwAtomic) hr2
          exact signed.maybeAudit.setCc

theorem State.MemOk.restoreAborted {n r} (ok : s.MemOk) : (s.restoreAborted n r).1.MemOk := by
  unfold State.restoreAborted
  extract_lets p edited t l
  split
  · exact ok.recordFault
  · split
    · exact ok.recordFault
    · extract_lets up left
      clear_value l
      have left_ok : left.MemOk := by
        refine .ite ?_ ok.editDomain.chargeDomain
        split
        · exact ok.editDomain.abortLaunch
        · exact ok.editDomain
      clear_value left
      exact State.MemOk.ite left_ok.abandon left_ok
    · rename_i hr
      exact (ok.restoreArea.get hr).editDomain.onCore

theorem State.MemOk.abortStop {n r} (ok : s.MemOk) : StopOk (s.abortStop n r) := by
  unfold State.abortStop
  split
  · exact .some ok.hwStop
  · split
    · exact .some ok.hwStop
    · exact .none

theorem State.MemOk.abortEff {n r go} (ok : s.MemOk) (step : ∀ {s : State}, s.MemOk → (go s).MemOk) : (abortEff n r s go).MemOk := by
  unfold Machine.abortEff
  split
  · rename_i hr
    exact ok.abortStop _ hr
  · have restored := (ok.abandonDomain (p := (s.core n).ptag) (n := n) (d := r) (keep := some n)).restoreAborted (n := n) (r := r)
    exact .ite ok.abandonDomain (.ite (step restored) restored)

theorem State.MemOk.execCdabort {h} (ok : s.MemOk) : MemOkAfter (execCdabort h s) := by
  unfold Machine.execCdabort
  refine ok.issueWord fun ok => ?_
  dsimp only
  split
  · exact ok
  · exact ok.abortEff fun ok => ok

theorem State.MemOk.execCdabortRetry {h} (ok : s.MemOk) : MemOkAfter (execCdabortRetry h s) := by
  unfold Machine.execCdabortRetry
  refine ok.issueWord fun ok => ?_
  split
  · exact ok
  · exact ok.postError

theorem State.MemOk.endTrapped {n count fuel} (ok : s.MemOk) (step : ∀ {s : State}, s.MemOk → (count s).MemOk) :
    (endTrapped n count fuel s).MemOk := by
  induction fuel generalizing s with
  | zero => exact ok.endTaskEff
  | succ fuel ih =>
    unfold Machine.endTrapped
    split
    · have ended : (Machine.endTaskEff n s).MemOk := ok.endTaskEff
      split
      · rename_i hr
        rw [hr] at ended
        exact step ended
      · exact ended
    · rename_i r _ _
      have aborted : (Machine.abortEff n r s (Machine.endTrapped n count fuel)).MemOk := ok.abortEff ih
      split
      · rename_i hr
        rw [hr] at aborted
        exact State.MemOk.ite aborted (step aborted)
      · exact aborted

theorem State.MemOk.execTend {h} (ok : s.MemOk) : MemOkAfter (execTend h s) := by
  unfold Machine.execTend
  refine ok.issueWord fun ok => ?_
  dsimp only
  split
  · refine ok.endTrapped fun ok => ?_
    split
    · exact ok.onLaunch
    · exact ok
  · split
    · exact ok
    · exact .ite ok ok.setCc.endTaskEff

theorem State.MemOk.execAuditReplay {sig2 sig3 unit2 unit3} (ok : s.MemOk) : MemOkAfter (execAuditReplay sig2 sig3 unit2 unit3 s) := by
  unfold Machine.execAuditReplay
  dsimp only
  split
  · exact ok
  · split
    · exact ok
    · split
      · show State.MemOk _
        split
        · exact .owe ok
        · exact ok
      · split
        · show State.MemOk _
          refine State.MemOk.suspect ?_
          split
          · exact .owe ok
          · exact ok
        · split
          · show State.MemOk _
            split
            · refine State.MemOk.onLaunch ?_
              refine State.MemOk.suspect ?_
              split
              · exact .owe ok
              · exact ok
            · refine State.MemOk.postErrorFor ?_
              refine State.MemOk.suspect ?_
              split
              · exact .owe ok
              · exact ok
          · show State.MemOk _
            split
            · refine State.MemOk.onLaunch ?_
              refine State.MemOk.suspect ?_
              refine State.MemOk.suspect ?_
              refine State.MemOk.suspect ?_
              split
              · exact .owe ok
              · exact ok
            · refine State.MemOk.postErrorFor ?_
              refine State.MemOk.suspect ?_
              refine State.MemOk.suspect ?_
              refine State.MemOk.suspect ?_
              split
              · exact .owe ok
              · exact ok

/-! ## Global accesses that complete later -/

theorem State.MemOk.accessEff {i h f} (ok : s.MemOk) (hf : accessEff i = some (h, f)) : (f s).MemOk := by
  unfold Machine.accessEff at hf
  split at hf
  all_goals cases hf
  · exact ok.gldEff
  · exact ok.gstEff
  · exact ok.gldVEff
  · exact ok.gldImgEff
  · exact ok.gstVEff
  · exact ok.gstImgEff
  · exact ok.amoEff
  · exact ok.casEff
  · exact ok.redEff
  · exact ok.joinEff
  · exact ok.cdkeepEff
  · exact ok.cdsigEff

theorem State.MemOk.runAccess {i} (ok : s.MemOk) : MemOkAfter (runAccess i s) := by
  unfold Machine.runAccess
  split
  · exact ok.execGld
  · exact ok.execGst
  · exact ok.execGldV
  · exact ok.execGldImg
  · exact ok.execGstV
  · exact ok.execGstImg
  · exact ok.execAmo
  · exact ok.execCas
  · exact ok.execRed
  · exact ok.execJoin
  · exact ok.execCdkeep
  · exact ok.execCdsig
  · exact ok

theorem State.MemOk.slotsFrom {n t} (ok : s.MemOk) : (s.slotsFrom n t).MemOk := ok.foldl fun ok => ok.notBefore

theorem State.MemOk.completeAccess {n} (ok : s.MemOk) : MemOkAfter (s.completeAccess n) := by
  unfold State.completeAccess
  extract_lets c back _ set awake
  have awake_ok : awake.MemOk := ok
  clear_value awake
  split
  case h_3 => exact ok
  all_goals
    split
    · exact awake_ok
    · rename_i h f hf
      obtain ⟨i, _, hi⟩ := Option.bind_eq_some_iff.mp hf
      have ran := (awake_ok.accessEff hi).finish (h := h) (t := max c.tmg.clk awake.clk)
      split
      · rename_i hr
        extract_lets _ ended
        have ended_ok : ended.MemOk := .ite (ran.get hr).setCore (ran.get hr)
        refine .ite ended_ok ?_
        have followed := ended_ok.slotsFrom.fanOut (run := Machine.runAccess) (i := c.access.getD (.globalAccessComplete n)) (lead := n)
          (before := c) (s := ended.slotsFrom n (max c.tmg.clk awake.clk)) fun ok => ok.runAccess
        split
        · rename_i hr1
          have all := followed.get hr1
          exact all
        · exact followed
      · exact ran

theorem State.MemOk.execGlobalAccessComplete {core} (ok : s.MemOk) : MemOkAfter (execGlobalAccessComplete core s) :=
  ok.completeAccess

/-! ## Modular arithmetic and the butterfly network -/

theorem State.MemOk.busyNet {n} (ok : s.MemOk) : (busyNet n s).MemOk := ok.setCc

theorem State.MemOk.modWord {h d a b more u set eff} (ok : s.MemOk) (step : ∀ {s : State}, s.MemOk → (eff s).MemOk) :
    MemOkAfter (modWord h d a b more u set eff s) := by
  unfold Machine.modWord
  refine ok.issueWord fun ok => ?_
  refine ok.noStream fun ok => ?_
  split
  · exact .ite (step ok) ok
  · exact step ok

theorem State.MemOk.modForm {h p set d a b f} (ok : s.MemOk) : MemOkAfter (modForm h p set d a b f s) := by
  unfold Machine.modForm
  exact ok.modWord fun ok => ok.vecEff

theorem State.MemOk.execVmadd {h d a b m km z} (ok : s.MemOk) : MemOkAfter (execVmadd h d a b m km z s) := ok.modForm
theorem State.MemOk.execVmsub {h d a b m km z} (ok : s.MemOk) : MemOkAfter (execVmsub h d a b m km z s) := ok.modForm
theorem State.MemOk.execVmneg {h d a m km z} (ok : s.MemOk) : MemOkAfter (execVmneg h d a m km z s) := ok.modForm
theorem State.MemOk.execVmmul {h d a b m km z} (ok : s.MemOk) : MemOkAfter (execVmmul h d a b m km z s) := ok.modForm
theorem State.MemOk.execVmmac {h d a b m km z} (ok : s.MemOk) : MemOkAfter (execVmmac h d a b m km z s) := ok.modForm
theorem State.MemOk.execVmred {h nat d a m km z} (ok : s.MemOk) : MemOkAfter (execVmred h nat d a m km z s) := ok.modForm
theorem State.MemOk.execVmcvtI64 {h d a km z} (ok : s.MemOk) : MemOkAfter (execVmcvtI64 h d a km z s) := ok.modForm
theorem State.MemOk.execVmcvtMn {h d a m km z} (ok : s.MemOk) : MemOkAfter (execVmcvtMn h d a m km z s) := ok.modForm
theorem State.MemOk.execVmcvtMs {h d a m km z} (ok : s.MemOk) : MemOkAfter (execVmcvtMs h d a m km z s) := ok.modForm

theorem State.MemOk.loadSetWord {h a b ops m gap bad q mu} (ok : s.MemOk) : MemOkAfter (loadSetWord h a b ops m gap bad q mu s) := by
  unfold Machine.loadSetWord
  refine ok.modWord fun ok => ?_
  dsimp only
  split
  · exact ok
  · split
    · exact ok
    · exact ok.setCc

theorem State.MemOk.execMqgen {h a m} (ok : s.MemOk) : MemOkAfter (execMqgen h a m s) := ok.loadSetWord
theorem State.MemOk.execMqld {h a b m} (ok : s.MemOk) : MemOkAfter (execMqld h a b m s) := ok.loadSetWord

theorem State.MemOk.pairWord {h d a km set lat busy allow f} (ok : s.MemOk) :
    MemOkAfter (pairWord h d a km set lat busy allow f s) := by
  unfold Machine.pairWord
  refine ok.modWord fun ok => ?_
  dsimp only
  split
  · exact ok
  · exact ok.setCc.busyNet

theorem State.MemOk.bflyWord {h d a m km f} (ok : s.MemOk) : MemOkAfter (bflyWord h d a m km f s) := ok.pairWord
theorem State.MemOk.execBfly {h d a m km} (ok : s.MemOk) : MemOkAfter (execBfly h d a m km s) := ok.bflyWord
theorem State.MemOk.execIbfly {h d a m km} (ok : s.MemOk) : MemOkAfter (execIbfly h d a m km s) := ok.bflyWord

theorem State.MemOk.lanePerm {h d a from_} (ok : s.MemOk) : MemOkAfter (lanePerm h d a from_ s) := by
  unfold Machine.lanePerm
  refine ok.modWord fun ok => ?_
  dsimp only
  split
  · exact ok
  · exact ok.setCc.busyNet

theorem State.MemOk.execBperm {h d a k} (ok : s.MemOk) : MemOkAfter (execBperm h d a k s) := ok.lanePerm
theorem State.MemOk.execVbitrev {h d a b} (ok : s.MemOk) : MemOkAfter (execVbitrev h d a b s) := ok.lanePerm
theorem State.MemOk.execBpermx {h d k} (ok : s.MemOk) : MemOkAfter (execBpermx h d k s) := ok.pairWord
theorem State.MemOk.execVfft2 {h d a rm cj km} (ok : s.MemOk) : MemOkAfter (execVfft2 h d a rm cj km s) := ok.pairWord

theorem State.MemOk.execVcmul {h d a b rm cj km z} (ok : s.MemOk) : MemOkAfter (execVcmul h d a b rm cj km z s) := by
  unfold Machine.execVcmul
  refine ok.modWord fun {s} ok => ?_
  generalize hv : Machine.vecEff _ _ _ _ _ _ _ _ s = e
  have ran : Eff.MemOk e := hv ▸ ok.vecEff
  split
  · exact State.MemOk.busyNet ran
  · exact ran

/-! ## System registers, calls and returns -/

theorem State.MemOk.privileged {k} (ok : s.MemOk) (step : ∀ {s : State}, s.MemOk → MemOkAfter (k s)) : MemOkAfter (privileged s k) :=
  .ite (step ok) ok.decodeTrap

theorem State.MemOk.pmcRead {n i} (ok : s.MemOk) : (s.pmcRead n i).1.MemOk := ok.grow
theorem State.MemOk.pmselWrite {n i x} (ok : s.MemOk) : (s.pmselWrite n i x).MemOk := ok.grow.setCore
theorem State.MemOk.ringDoor {die k arg} (ok : s.MemOk) : (s.ringDoor die k arg).MemOk := ok.setDie

theorem State.MemOk.sysRead {n r} (ok : s.MemOk) : (s.sysRead n r).1.MemOk := by
  unfold State.sysRead
  extract_lets c t k two one d
  repeat refine .ite_fst ok ?_
  refine .ite_fst (by exact ok.tryInstall) ?_
  repeat refine .ite_fst ok ?_
  exact ok

theorem State.MemOk.execRdsys {h d n} (ok : s.MemOk) : MemOkAfter (execRdsys h d n s) :=
  .ite ok.decodeTrap (ok.issueWord fun ok => .ite ok.sysRead.setCc ok.sysRead.setCc)

theorem State.MemOk.sysWrite {n r x} (ok : s.MemOk) : (s.sysWrite n r x).MemOk := by
  unfold State.sysWrite
  extract_lets c k two one trap loop
  repeat refine .ite ok.setCore ?_
  exact .ite ok.pmselWrite (.ite ok.setCore (.ite ok.setCore ok))

theorem State.MemOk.wrsysForm {h a n eff} (ok : s.MemOk) (step : ∀ {x} {s : State}, s.MemOk → (eff x s).MemOk) :
    MemOkAfter (wrsysForm h a n eff s) :=
  .ite ok.decodeTrap (ok.issueWord fun ok => step ok)

theorem State.MemOk.execWrsys {h a n} (ok : s.MemOk) : MemOkAfter (execWrsys h a n s) := ok.wrsysForm fun ok => ok.sysWrite

theorem State.MemOk.execFbpop0Read {h d} (ok : s.MemOk) : MemOkAfter (execFbpop0Read h d s) := by
  unfold Machine.execFbpop0Read
  refine ok.privileged fun ok => ?_
  refine ok.issueWord fun ok => ?_
  dsimp only
  split
  · exact ok.setCc
  · exact ok.setDie.setCc

theorem State.MemOk.execDerrpopRead {h d} (ok : s.MemOk) : MemOkAfter (execDerrpopRead h d s) := by
  unfold Machine.execDerrpopRead
  refine ok.privileged fun ok => ?_
  refine ok.issueWord fun ok => ?_
  dsimp only
  split
  · exact ok.setCc
  · show State.MemOk _
    refine State.MemOk.setCc ?_
    split
    · exact ok
    · exact ok.setDie

theorem State.MemOk.execFbstatDropClear {h a} (ok : s.MemOk) : MemOkAfter (execFbstatDropClear h a s) :=
  ok.wrsysForm fun ok => ok.setDie

theorem State.MemOk.execSpdoorClear {h a} (ok : s.MemOk) : MemOkAfter (execSpdoorClear h a s) :=
  ok.wrsysForm fun ok => ok.foldl fun ok => .ite ok.setDie ok

theorem State.MemOk.slotRecord {n k a} (ok : s.MemOk) : FirstOk (s.slotRecord n k a) := by
  induction k generalizing s a with
  | zero => exact ok
  | succ k ih =>
    unfold State.slotRecord
    split
    · trivial
    · rename_i hr
      split
      · trivial
      · rename_i hr1
        exact (ih (ok.hwRead.get hr)).get hr1

theorem State.MemOk.slotFault {e} (ok : s.MemOk) : (slotFault s e).MemOk := ok.badRead.faultOnFault

theorem State.MemOk.execSlotctlGo {h a} (ok : s.MemOk) : MemOkAfter (execSlotctlGo h a s) := by
  unfold Machine.execSlotctlGo
  refine ok.wrsysForm fun ok => ?_
  dsimp only
  split
  · exact ok.setCc
  · split
    · exact ok.setCc.slotFault
    · rename_i hr
      split
      · exact (ok.setCc.slotRecord.get hr).slotFault
      · rename_i hr1
        exact ((ok.setCc.slotRecord.get hr).slotRecord.get hr1).setCc.tryInstall

theorem State.MemOk.execSwzWrite {h a i} (ok : s.MemOk) : MemOkAfter (execSwzWrite h a i s) :=
  ok.wrsysForm fun ok => ok.forget.setCc

theorem State.MemOk.execZshareWrite {h a} (ok : s.MemOk) : MemOkAfter (execZshareWrite h a s) :=
  ok.wrsysForm fun ok => .ite ok.setCluster ok

theorem State.MemOk.execSyscall {h imm} (ok : s.MemOk) : MemOkAfter (execSyscall h imm s) := by
  unfold Machine.execSyscall
  refine ok.issueWord fun ok => ?_
  dsimp only
  split
  · exact ok.faultOnFault
  · exact ok.writeGlobal

theorem State.MemOk.execBkpt {h imm} (ok : s.MemOk) : MemOkAfter (execBkpt h imm s) := ok.issueWord fun ok => ok

theorem State.MemOk.execXret {h} (ok : s.MemOk) : MemOkAfter (execXret h s) :=
  ok.privileged fun ok => ok.issueWord fun ok => .ite ok (.ite ok ok.onDepth.setCc)

theorem State.MemOk.execWfi {h} (ok : s.MemOk) : MemOkAfter (execWfi h s) :=
  ok.privileged fun ok => ok.issueWord fun ok => .ite ok ok.setCc

theorem State.MemOk.execHalt {h} (ok : s.MemOk) : MemOkAfter (execHalt h s) :=
  ok.privileged fun ok => ok.issueWord fun ok => ok.setCc.report

theorem State.MemOk.execHaltRestart {core} (ok : s.MemOk) : MemOkAfter (execHaltRestart core s) := by
  unfold Machine.execHaltRestart
  dsimp only
  split
  · exact ok.setCore
  · exact ok

theorem State.MemOk.keepTlb {stays} (ok : s.MemOk) : (s.keepTlb stays).MemOk := ok

theorem State.MemOk.execTlbinvPage {h a b} (ok : s.MemOk) : MemOkAfter (execTlbinvPage h a b s) :=
  ok.privileged fun ok => ok.issueWord fun ok => ok.keepTlb

theorem State.MemOk.execTlbinvVsid {h b} (ok : s.MemOk) : MemOkAfter (execTlbinvVsid h b s) :=
  ok.privileged fun ok => ok.issueWord fun ok => ok.keepTlb

theorem State.MemOk.execTlbinvAll {h} (ok : s.MemOk) : MemOkAfter (execTlbinvAll h s) :=
  ok.privileged fun ok => ok.issueWord fun ok => ok.keepTlb

theorem State.MemOk.reissue {p} (ok : s.MemOk) : MemOkAfter (s.reissue p) := by
  unfold State.reissue
  split
  · exact ok.owe
  · exact ok.reissueParked
  · exact ok.owe

theorem State.MemOk.reissueAll {xs} (ok : s.MemOk) : MemOkAfter (s.reissueAll xs) := by
  induction xs generalizing s with
  | nil => exact ok
  | cons x xs ih =>
    unfold State.reissueAll
    split
    · rename_i hr
      exact ih (ok.reissue.get hr)
    · exact ok.reissue

theorem State.MemOk.replayDie {d p} (ok : s.MemOk) : MemOkAfter (s.replayDie d p) := by
  unfold State.replayDie
  exact ok.setDie.reissueAll

theorem State.MemOk.replayDies {p ds} (ok : s.MemOk) : MemOkAfter (s.replayDies p ds) := by
  induction ds generalizing s with
  | nil => exact ok
  | cons d ds ih =>
    unfold State.replayDies
    split
    · rename_i hr
      exact ih (ok.replayDie.get hr)
    · exact ok.replayDie

theorem State.MemOk.execTlbreplay {h a} (ok : s.MemOk) : MemOkAfter (execTlbreplay h a s) := by
  refine ok.privileged fun ok => ok.issueWord fun {s} ok => ?_
  dsimp only
  split
  · rename_i hr
    exact ok.replayDies.get hr
  · trivial
  · exact ok

theorem State.MemOk.execLdovt {h a b} (ok : s.MemOk) : MemOkAfter (execLdovt h a b s) :=
  ok.privileged fun ok => ok.issueWord fun ok => ok.setCc

/-! ## Contexts -/

theorem State.MemOk.keepRequest {k} (ok : s.MemOk) : (s.keepRequest k).MemOk := by
  unfold State.keepRequest
  split
  · exact .ite ok ok
  · exact ok

theorem State.MemOk.execPacketEject {id} (ok : s.MemOk) : MemOkAfter (execPacketEject id s) := by
  unfold Machine.execPacketEject
  dsimp only
  split
  · exact ok
  · exact State.MemOk.ite (.keepRequest (.lostPacket ok)) (.eject ok)

theorem State.MemOk.execYieldRequest {core} (ok : s.MemOk) : MemOkAfter (execYieldRequest core s) := by
  unfold Machine.execYieldRequest
  exact .ite ok.askYield.tryYield ok

theorem State.MemOk.forceHalt {cl p} (ok : s.MemOk) : (s.forceHalt cl p).MemOk :=
  ok.foldl fun ok => .ite ok (.ite ok.haltGroup ok.setCore)

theorem State.MemOk.execGraceExpiry {cl} (ok : s.MemOk) : MemOkAfter (execGraceExpiry cl s) := by
  refine ok.foldl fun ok => ?_
  split
  · exact .ite ok.forceHalt ok
  · exact ok

theorem State.MemOk.removeCtx {cl x} (ok : s.MemOk) : (s.removeCtx cl x).MemOk := by
  unfold State.removeCtx
  exact (ok.foldl fun ok => ok.forget.setCore).setDie.setCluster.engineFree

theorem State.MemOk.afterDelivery {o} (ok : s.MemOk) (done : MemOkAfter o) : (afterDelivery s o).MemOk := by
  cases o with
  | next t => exact done
  | _ => exact ok

theorem State.MemOk.applyHeld {ev} (ok : s.MemOk) : (s.applyHeld ev).MemOk := by
  unfold State.applyHeld
  split
  · exact ok.afterDelivery ok.execEventMessage
  · exact ok.afterDelivery ok.execEvcWrite
  · exact ok.afterDelivery ok.execBarrierArrivalMessage
  · exact ok.afterDelivery ok.execBarrierReleaseMessage
  · exact ok.afterDelivery ok.execChannelMessageLand
  · exact ok.afterDelivery ok.execTimedMessageLand
  · exact ok.afterDelivery ok.execChannelClaim
  · exact ok.afterDelivery ok.execChannelClaimAnswer
  · exact ok.afterDelivery ok.execChannelGrant
  · exact ok.owe

theorem State.MemOk.resumeCore {n} (ok : s.MemOk) : (s.resumeCore n).MemOk := by
  unfold State.resumeCore
  dsimp only
  split
  · split
    · exact .ite ok.setCore ok.setCore.afterArrivals.setCore
    · exact .ite ok.setCore ok.setCore.owe
  · exact ok

theorem State.MemOk.resumeBroken {ns} (ok : s.MemOk) : (s.resumeBroken ns).MemOk :=
  ok.foldl fun ok => .ite ok.restartSuperstep ok

theorem State.MemOk.restartUnits {ns} (ok : s.MemOk) : (s.restartUnits ns).MemOk :=
  ok.foldl fun ok => ok.foldl fun ok => ok.reissueCmd

theorem State.MemOk.moveWork {p old f} (ok : s.MemOk) : (s.moveWork p old f).MemOk := ok

theorem State.MemOk.restoreCtx {old cl x ps} (ok : s.MemOk) : (s.restoreCtx old cl x ps).MemOk := by
  unfold State.restoreCtx
  extract_lets f ns moved cored c put shares gang placed due _ cleared edged mine unheld applied resumed
  have cored_ok : cored.MemOk := ok.moveWork.foldl fun ok => ok.setCore.notBefore
  have edged_ok : edged.MemOk := cored_ok.setCluster.setCluster.xbarEdge
  have applied_ok : applied.MemOk := State.MemOk.foldl (s := unheld) edged_ok fun ok => ok.applyHeld
  exact (applied_ok.resumeBroken.foldl fun ok => ok.resumeCore).restartUnits

theorem State.MemOk.imageStore {n pages bs} (ok : s.MemOk) : (s.imageStore n pages bs).MemOk := ok.foldl fun ok => ok.writeGlobal

theorem State.MemOk.imageLoad {n pages} (ok : s.MemOk) : (s.imageLoad n pages).1.MemOk :=
  State.MemOk.foldl_fst ok fun ok => ok.readGlobal

theorem State.MemOk.setImages {images} (ok : s.MemOk) : State.MemOk { s with images := images } := ok
theorem State.MemOk.writeImage {n cl x pages} (ok : s.MemOk) : (s.writeImage n cl x pages).MemOk :=
  State.MemOk.setImages (State.MemOk.imageStore (by exact ok))

theorem State.MemOk.saveTurn {cl p since} (ok : s.MemOk) : (s.saveTurn cl p since).MemOk := by
  unfold State.saveTurn
  exact .foldl (.ite ok.owe ok) fun ok => ok.foldl fun ok => .ite ok ok.owe

theorem State.MemOk.ctxDone {d status} (ok : s.MemOk) : (ctxDone s d status).MemOk := ok.setCc

theorem State.MemOk.saveFailed {d p status} (ok : s.MemOk) : (saveFailed d p status s).MemOk := by
  unfold Machine.saveFailed
  exact (ok.resumeBroken.foldl fun ok => ok.resumeCore).ctxDone

theorem State.MemOk.finishSave {d dest p swap} (ok : s.MemOk) : (finishSave d dest p swap s).MemOk := by
  unfold Machine.finishSave
  dsimp only
  split
  · split
    · exact ok.saveFailed
    · split
      · exact ok.removeCtx.setCluster.ctxDone
      · split
        · exact .ite ok.saveFailed ok.removeCtx.setCluster.restoreCtx.ctxDone
        · exact ok.saveFailed
  · split
    · exact ok.faultOnFault
    · exact ok.writeImage.removeCtx.ctxDone

theorem State.MemOk.execCtxsave {h d a b swap} (ok : s.MemOk) : MemOkAfter (execCtxsave h d a b swap s) := by
  unfold Machine.execCtxsave
  refine ok.privileged fun ok => ?_
  refine ok.issueWord fun ok => ?_
  dsimp only
  split
  · exact ok
  · split
    · split
      · exact ok.ctxDone
      · exact ok.setCc.foldl fun ok => ok.askYield.tryYield
    · exact .ite ok.saveTurn ok.finishSave

theorem State.MemOk.loadCtx {d old x taken} (ok : s.MemOk) (step : ∀ {s : State}, s.MemOk → (taken s).MemOk) :
    (loadCtx d old x s taken).MemOk := by
  unfold Machine.loadCtx
  dsimp only
  split
  · exact ok.ctxDone
  · exact .ite ok.ctxDone ((step ok).restoreCtx.ctxDone)

theorem State.MemOk.execCtxload {h d a b} (ok : s.MemOk) : MemOkAfter (execCtxload h d a b s) := by
  refine ok.privileged fun ok => ok.issueWord fun {s} ok => ?_
  extract_lets n cl p src
  refine .ite ?_ (.ite ok.ctxDone ?_)
  · split
    · exact ok.ctxDone
    · exact .ite ok.ctxDone (ok.loadCtx fun ok => ok.setCluster)
  · split
    · exact ok.faultOnFault
    · rename_i pages _
      have loaded : (s.imageLoad n pages).1.MemOk := ok.imageLoad
      dsimp only
      split
      · exact loaded.ctxDone
      · exact loaded.loadCtx fun ok => ok.setImages

theorem State.MemOk.execHaltedPartitionEnd {p} (ok : s.MemOk) : MemOkAfter (execHaltedPartitionEnd p s) := by
  unfold Machine.execHaltedPartitionEnd
  exact .ite ok ((ok.foldl fun ok => ok.endLaunch).foldl fun ok => ok.setCore)

theorem State.MemOk.rebase (ok : s.MemOk) : s.rebase.MemOk := ok

theorem State.MemOk.tickWork (ok : s.MemOk) : s.tickWork.MemOk := by
  unfold State.tickWork
  extract_lets due snapped decayed latched laid late timed
  have snapped_ok : snapped.MemOk := ok.foldl fun ok => ok.owe
  have decayed_ok : decayed.MemOk := .ite snapped_ok.owe snapped_ok
  have latched_ok : latched.MemOk := .ite decayed_ok.latchCounts decayed_ok
  have laid_ok : laid.MemOk := by
    dsimp only [laid]
    split
    · exact latched_ok.owe
    · exact latched_ok
  have timed_ok : timed.MemOk := laid_ok.foldl fun ok => ok.owe
  exact .ite timed_ok.owe timed_ok

theorem State.MemOk.execSaddleTick (ok : s.MemOk) : MemOkAfter (execSaddleTick s) := by
  unfold Machine.execSaddleTick
  show State.MemOk _
  refine State.MemOk.tickWork ?_
  refine State.MemOk.owe ?_
  dsimp only [State.MemOk]
  exact State.MemOk.ite ok.rebase ok

theorem State.MemOk.execVdSnapshot {v} (ok : s.MemOk) : MemOkAfter (execVdSnapshot v s) := by
  unfold Machine.execVdSnapshot
  exact .ite ok (.ite (ok.foldl fun ok => ok.owe) ok.onVd)

theorem State.MemOk.execVdMigration {v cycleLast saddleLast} (ok : s.MemOk) :
    MemOkAfter (execVdMigration v cycleLast saddleLast s) := by
  unfold Machine.execVdMigration
  exact ok

end Sys2Proof.Machine
end

section
/-! The canonical form of memory: the package. -/
namespace Sys2Proof.Machine
open Sys2Proof
variable {s : State}

/-! ## Links -/

theorem State.MemOk.execColChannelEscape {id} (ok : s.MemOk) : MemOkAfter (execColChannelEscape id s) := ok
theorem State.MemOk.onLink {i f} (ok : s.MemOk) : (s.onLink i f).MemOk := ok
theorem State.MemOk.onDir {i k f} (ok : s.MemOk) : (s.onDir i k f).MemOk := ok.onLink
theorem State.MemOk.resend {i k} (ok : s.MemOk) : (s.resend i k).MemOk := ok.foldl fun ok => ok.owe
theorem State.MemOk.acknowledge {i k acke} (ok : s.MemOk) : (s.acknowledge i k acke).MemOk := ok.onDir

theorem State.MemOk.controlFrame {fuel i k kind acke pay} (ok : s.MemOk) : (State.controlFrame fuel s i k kind acke pay).MemOk := by
  induction fuel generalizing s k kind acke pay with
  | zero => exact ok
  | succ fuel ih =>
    unfold State.controlFrame
    extract_lets got h body drawn discard acked
    have drawn_ok : drawn.MemOk := ok
    have discard_ok : ∀ {s : State}, s.MemOk → (discard s).MemOk := fun ok => .ite ok (ih ok.onDir)
    refine .ite (discard_ok drawn_ok.suspect) ?_
    have acked_ok : acked.MemOk := drawn_ok.acknowledge
    split
    · exact acked_ok.owe
    · exact acked_ok.owe
    · exact acked_ok.owe
    · exact acked_ok.owe
    · exact discard_ok acked_ok

theorem State.MemOk.sendControl {i k kind acke pay} (ok : s.MemOk) : (s.sendControl i k kind acke pay).MemOk := ok.controlFrame

theorem State.MemOk.discardFrame {i k} (ok : s.MemOk) : (s.discardFrame i k).MemOk := by
  unfold State.discardFrame
  exact .ite ok ok.onDir.sendControl

theorem State.MemOk.mismatch {i k} (ok : s.MemOk) : (s.mismatch i k).MemOk := ok.onLink.onDir.suspect.sendControl

theorem State.MemOk.receiveData {i k shape h pay} (ok : s.MemOk) : (s.receiveData i k shape h pay).MemOk := by
  unfold State.receiveData
  dsimp only
  split
  · exact ok.discardFrame
  · split
    · exact ok.mismatch
    · split
      · exact ok.mismatch
      · exact .ite ok.mismatch ok.onDir

theorem State.MemOk.receiveFrame {i k shape h pay} (ok : s.MemOk) : (s.receiveFrame i k shape h pay).MemOk := by
  unfold State.receiveFrame
  dsimp only
  split
  · exact ok.suspect.discardFrame
  · split
    · exact ok.acknowledge.receiveData
    · exact ok.acknowledge.owe
    · exact ok.acknowledge.owe
    · exact ok.acknowledge.owe
    · exact ok.acknowledge.owe
    · exact ok.acknowledge.discardFrame

theorem State.MemOk.execDataFrameReceive {link dir f} (ok : s.MemOk) : MemOkAfter (execDataFrameReceive link dir f s) := by
  unfold Machine.execDataFrameReceive
  dsimp only
  split
  · exact ok
  · exact State.MemOk.ite (.sendControl (.receiveFrame (.ite ok.onDir ok))) (.receiveFrame (.ite ok.onDir ok))

theorem State.MemOk.execReplayRequest {link dir acke} (ok : s.MemOk) : MemOkAfter (execReplayRequest link dir acke s) := by
  unfold Machine.execReplayRequest
  exact ok.onLink.onDir.resend

theorem State.MemOk.execProbeTimeout {link dir} (ok : s.MemOk) : MemOkAfter (execProbeTimeout link dir s) :=
  State.MemOk.ite ok ok.sendControl

theorem State.MemOk.execProbe {link dir} (ok : s.MemOk) : MemOkAfter (execProbe link dir s) := ok.acknowledge.sendControl

theorem State.MemOk.execDigest {link dir dseq dig} (ok : s.MemOk) : MemOkAfter (execDigest link dir dseq dig s) := by
  unfold Machine.execDigest
  dsimp only
  split
  · exact ok.acknowledge
  · exact State.MemOk.ite ok.acknowledge.mismatch ok.acknowledge

theorem State.MemOk.execResetRequest {link dir acke} (ok : s.MemOk) : MemOkAfter (execResetRequest link dir acke s) :=
  ok.onDir.resend

theorem State.MemOk.execLinkReroute (ok : s.MemOk) : MemOkAfter (execLinkReroute s) := ok

/-! ## Losses and sparing -/

theorem State.MemOk.postKind {kind die p n} (ok : s.MemOk) : (s.postKind kind die p n).MemOk := ok.setDie
theorem State.MemOk.postLoss {die p n} (ok : s.MemOk) : (s.postLoss die p n).MemOk := ok.postKind

theorem State.MemOk.chargeLaunch {l wid thread} (ok : s.MemOk) : (s.chargeLaunch l wid thread).MemOk := by
  unfold State.chargeLaunch
  dsimp only
  split
  · exact .ite ok.onLaunch.abortLaunch ok.onLaunch.owe
  · exact ok.onLaunch

theorem State.MemOk.chargeLost {n} (ok : s.MemOk) : (s.chargeLost n).MemOk := by
  unfold State.chargeLost
  dsimp only
  split
  · split
    · exact ok.chargeDomain
    · exact .ite ok.chargeDomain ok.chargeLaunch.abandon
  · exact ok

theorem State.MemOk.chargeOut {die cl x} (ok : s.MemOk) : (s.chargeOut die cl x).MemOk := by
  refine ok.foldl fun ok => ?_
  dsimp only
  split
  · exact ok
  · split
    · exact .ite ok.postLoss.chargeDomain ok.postLoss.chargeLaunch
    · exact ok.postLoss.chargeLaunch

theorem State.MemOk.fenceCore {n} (ok : s.MemOk) : (s.fenceCore n).MemOk := by
  unfold State.fenceCore
  dsimp only [State.MemOk]
  exact ok.leaveGang.setDie.setCore

theorem State.MemOk.startSlots {n} (ok : s.MemOk) : (s.startSlots n).MemOk := by
  unfold State.startSlots
  dsimp only
  split
  · split
    · exact ok
    · split
      · exact ok.setCore.owe
      · exact .ite ok ok.mapOut
  · exact ok

theorem State.MemOk.rewriteXlt {f} (ok : s.MemOk) : (s.rewriteXlt f).MemOk := by
  refine ok.foldl fun ok => ok.foldl fun ok => ?_
  split
  · refine .ite ?_ ok
    split
    · exact ok.setPhysBytes
    · exact ok
  · exact ok

theorem State.MemOk.replaceInLaunches {f} (ok : s.MemOk) : (s.replaceInLaunches f).MemOk := ok

theorem State.MemOk.remapCore {n} (ok : s.MemOk) : (s.remapCore n).MemOk := by
  unfold State.remapCore
  exact .ite ok (.ite (.owe ok) ok)

theorem State.MemOk.failCore {n} (ok : s.MemOk) : (s.failCore n).MemOk := by
  unfold State.failCore
  dsimp only
  split
  · exact ok
  · refine State.MemOk.remapCore ?_
    refine State.MemOk.fenceCore ?_
    dsimp only [State.MemOk]
    exact ok.chargeLost.postLoss

theorem State.MemOk.execCoreFailure {core} (ok : s.MemOk) : MemOkAfter (execCoreFailure core s) := ok.failCore

theorem State.MemOk.execCoreHangTimeout {core} (ok : s.MemOk) : MemOkAfter (execCoreHangTimeout core s) := by
  unfold Machine.execCoreHangTimeout
  exact .ite ok.owe ok

theorem State.MemOk.moveHomes {l mine time} (ok : s.MemOk) : (s.moveHomes l mine time).MemOk := ok

theorem State.MemOk.moveSlice {die slice} (ok : s.MemOk) : (s.moveSlice die slice).MemOk := by
  unfold State.moveSlice
  exact ok.foldl fun ok => ok.moveHomes

theorem State.MemOk.fenceSlice {die slice} (ok : s.MemOk) : (s.fenceSlice die slice).MemOk := by
  unfold State.fenceSlice
  dsimp only
  split
  · exact ok
  · dsimp only [State.MemOk]
    exact ok.moveSlice

theorem State.MemOk.execL2SliceFence {die slice} (ok : s.MemOk) : MemOkAfter (execL2SliceFence die slice s) := ok.fenceSlice

theorem State.MemOk.execClusterFailure {cl} (ok : s.MemOk) : MemOkAfter (execClusterFailure cl s) := by
  refine .ite ok ?_
  extract_lets cores charged lost fenced gone cleared remapped d marked
  have charged_ok : charged.MemOk := by
    dsimp only [charged]
    split
    · exact ok.chargeOut
    · exact ok
  have lost_ok : lost.MemOk := charged_ok.foldl fun ok => ok.chargeLost.postLoss
  have gone_ok : gone.MemOk := State.MemOk.foldl (s := fenced) lost_ok fun ok => ok.fenceCore
  have marked_ok : marked.MemOk := (gone_ok.setCluster.foldl fun ok => ok.remapCore).setDie
  show State.MemOk _
  split
  · exact marked_ok.fenceSlice
  · exact marked_ok.moveSlice

theorem State.MemOk.execDieTakeover {pdie remote} (ok : s.MemOk) : MemOkAfter (execDieTakeover pdie remote s) := by
  unfold Machine.execDieTakeover
  dsimp only
  split
  · exact ok
  · split
    · exact ok.owe
    · split
      · exact ok
      · exact .ite ok (State.MemOk.rewriteXlt ok)

theorem State.MemOk.chargeQueues {lost l} (ok : s.MemOk) : (s.chargeQueues lost l).MemOk := by
  refine ok.foldl fun ok => ?_
  extract_lets mine
  clear_value mine
  split
  · exact ok
  · refine State.MemOk.foldl_fst (ok.setQueue.foldl fun ok => ok.addTasks) fun ok => ?_
    refine .ite_fst ok.chargeLaunch (.ite_fst ok ?_)
    split
    · exact ok.chargeDomain
    · exact ok.chargeLaunch

theorem State.MemOk.loseDie {d} (ok : s.MemOk) : (s.loseDie d).MemOk := by
  unfold State.loseDie
  dsimp only [State.MemOk]
  exact ok.foldl fun ok => ok.leaveGang.setCore

theorem State.MemOk.execDieMapFlip (ok : s.MemOk) : MemOkAfter (execDieMapFlip s) := by
  unfold Machine.execDieMapFlip
  split
  · exact ok
  · split
    · exact ok
    extract_lets e lostCores outs parks doors slots tags again claimed served homed dropped heir out lost queued gone flipped rung
      lostHere soon new k k1 placed _ counted f _ moved assigned replaced started posted
    have claimed_ok : claimed.MemOk := .ite ok ok
    have homed_ok : homed.MemOk := claimed_ok.foldl fun ok => ok.moveHomes
    have lost_ok : lost.MemOk :=
      (State.MemOk.foldl (s := dropped) homed_ok fun ok => ok.chargeOut).foldl fun ok => ok.chargeLost
    have gone_ok : gone.MemOk := lost_ok.chargeQueues.loseDie
    have rung_ok : rung.MemOk := State.MemOk.foldl (s := flipped) gone_ok fun ok => ok.ringDoor
    refine .ite ?_ ?_
    · exact (rung_ok.setDie.foldl fun ok => ok.postLoss).foldl fun ok => ok.remapCore
    · have placed_ok : placed.MemOk := rung_ok.setDie.setDie
      have assigned_ok : assigned.MemOk := State.MemOk.foldl (s := moved) placed_ok fun ok => .ite ok ok
      have started_ok : started.MemOk := assigned_ok.replaceInLaunches.foldl fun ok => ok.startSlots
      have posted_ok : posted.MemOk := started_ok.foldl fun ok => ok.postLoss
      refine posted_ok.foldl fun ok => ?_
      split
      · exact ok.owe
      · exact ok

theorem State.MemOk.execRemoteSpareLend {borrower} (ok : s.MemOk) : MemOkAfter (execRemoteSpareLend borrower s) :=
  .ite (State.MemOk.report ok) ok

theorem State.MemOk.ringPart {p k arg} (ok : s.MemOk) : (s.ringPart p k arg).MemOk := ok.ringDoor

/-- A stack that is lost takes its bytes out of memory, and the form stays. -/
theorem State.MemOk.execStackLoss {k} (ok : s.MemOk) : MemOkAfter (execStackLoss k s) := by
  refine .ite ok (State.MemOk.foldl ?_ fun ok => ok.ringPart)
  exact ⟨Mem.wf_filter ok.1 _, ok.2⟩

theorem State.MemOk.execIoDieLoss {n} (ok : s.MemOk) : MemOkAfter (execIoDieLoss n s) := .ite ok (State.MemOk.owe ok)
theorem State.MemOk.loseUnit {d} (ok : s.MemOk) : (s.loseUnit d).MemOk := .owe ok

theorem State.MemOk.linkDown {link} (ok : s.MemOk) : (s.linkDown link).MemOk := by
  unfold State.linkDown
  extract_lets down dies lost io0 io1 k
  have lost_ok : lost.MemOk := ok.onLink.foldl fun ok => ok.loseUnit
  have io0_ok : io0.MemOk := .ite lost_ok.owe lost_ok
  have io1_ok : io1.MemOk := .ite io0_ok.owe io0_ok
  exact .ite io1_ok.owe io1_ok

theorem State.MemOk.execLinkRetrain {link lanes} (ok : s.MemOk) : MemOkAfter (execLinkRetrain link lanes s) := by
  unfold Machine.execLinkRetrain
  exact State.MemOk.ite ok.linkDown ok.onLink

theorem State.MemOk.dropLink {i} (ok : s.MemOk) : (s.dropLink i).MemOk := .ite ok (.linkDown ok)

theorem State.MemOk.failBank {n b} (ok : s.MemOk) : (s.failBank n b).MemOk := by
  unfold State.failBank
  exact .ite ok.setCore.owe ok.setCore.owe

theorem State.MemOk.fenceUnit {u} (ok : s.MemOk) : (s.fenceUnit u).MemOk := by
  unfold State.fenceUnit
  split
  · exact ok.owe
  · exact ok.failBank
  · exact ok.owe
  · exact ok.loseUnit
  · exact ok.owe
  · exact ok.owe
  · exact ok.owe
  · exact ok.dropLink

theorem State.MemOk.keepUnit {u} (ok : s.MemOk) : (s.keepUnit u).MemOk := by
  unfold State.keepUnit
  split
  · exact ok
  · exact ok

theorem State.MemOk.execDiagnosisVote {u vote0 vote1 peer} (ok : s.MemOk) : MemOkAfter (execDiagnosisVote u vote0 vote1 peer s) := by
  unfold Machine.execDiagnosisVote
  exact State.MemOk.ite ok.fenceUnit ok.keepUnit

/-! ## The ports -/

theorem State.MemOk.portStop {g p again e drop} (ok : s.MemOk) (bad : e.MemOk) (step : ∀ {s : State}, s.MemOk → (drop s).MemOk) :
    MemOkAfter (s.portStop g p again e drop) := by
  unfold State.portStop
  split
  · exact ok.parkAgent
  · trivial
  · exact step (ok.split bad)

theorem State.MemOk.execNetworkReceive {v ep immd data} (ok : s.MemOk) : MemOkAfter (execNetworkReceive v ep immd data s) := by
  unfold Machine.execNetworkReceive
  extract_lets e p again k ring size at_
  refine .ite ok ?_
  split
  · exact ok
  · extract_lets g
    split
    · rename_i hr
      exact ok.portStop (ok.agentBytes.error hr) id
    · rename_i hr
      have read := ok.agentBytes.get hr
      refine .ite read.report ?_
      split
      · rename_i hr1
        exact ok.portStop (read.agentStore.error hr1) id
      · rename_i hr1
        have stored := read.agentStore.get hr1
        split
        · rename_i hr2
          exact ok.portStop (stored.agentStore.error hr2) id
        · rename_i hr2
          exact (stored.agentStore.get hr2).onVd

theorem State.MemOk.execPwctlWrite {v x} (ok : s.MemOk) : MemOkAfter (execPwctlWrite v x s) := by
  unfold Machine.execPwctlWrite
  exact .ite ok.onVd ok

theorem State.MemOk.execPeerWindowAccess {v req off a} (ok : s.MemOk) : MemOkAfter (execPeerWindowAccess v req off a s) := by
  unfold Machine.execPeerWindowAccess
  exact State.MemOk.ite ok.enterPort ok.enterPort.owe

theorem State.MemOk.popPort {req} (ok : s.MemOk) : (s.popPort req).MemOk := by
  unfold State.popPort
  dsimp only
  split
  · exact .owe ok
  · exact ok

theorem State.MemOk.dropPort {x} (ok : s.MemOk) : (s.dropPort x).MemOk := by
  unfold State.dropPort
  dsimp only
  split
  · exact ok.onVd.popPort
  · exact ok.onVd.popPort.report

theorem State.MemOk.windowAccess {g va a} (ok : s.MemOk) : AgentOk (s.windowAccess g va a) := by
  unfold State.windowAccess
  split
  · split
    · rename_i hr
      exact ok.agentBytes.error hr
    · rename_i hr
      exact ok.agentBytes.get hr
  · split
    · rename_i hr
      exact ok.agentStore.error hr
    · rename_i hr
      exact ok.agentStore.get hr
  · trivial
  · trivial

theorem State.MemOk.execPostedWriteArrive {v req} (ok : s.MemOk) : MemOkAfter (execPostedWriteArrive v req s) := by
  unfold Machine.execPostedWriteArrive
  dsimp only
  split
  · exact ok
  · split
    · show State.MemOk _
      refine State.MemOk.popPort ?_
      split
      · exact ok.launchWrite
      · exact ok
    · split
      · exact ok.dropPort
      · split
        · exact ok.dropPort
        · split
          · rename_i hr
            exact ok.portStop (ok.windowAccess.error hr) (fun ok => ok.dropPort)
          · rename_i hr
            show State.MemOk _
            split
            · refine State.MemOk.report ?_
              refine State.MemOk.popPort ?_
              dsimp only [State.MemOk]
              exact ok.windowAccess.get hr
            · refine State.MemOk.popPort ?_
              dsimp only [State.MemOk]
              exact ok.windowAccess.get hr

theorem State.MemOk.physRead {t pa fuel n} (ok : s.MemOk) : (s.physRead t pa fuel n).1.MemOk := by
  induction fuel generalizing s t pa n with
  | zero => exact ok
  | succ fuel ih => exact .ite_fst ok (ih ok.readTime)

theorem State.MemOk.physWrite {t pa fuel bs} (ok : s.MemOk) : (s.physWrite t pa fuel bs).1.MemOk := by
  induction fuel generalizing s t pa bs with
  | zero => exact ok
  | succ fuel ih => exact .ite_fst ok (ih ok.permit.writeTime.writeHome)

theorem State.MemOk.physAtomic {t pa dbl f} (ok : s.MemOk) : (s.physAtomic t pa dbl f).1.MemOk := ok.physWrite

theorem State.MemOk.physAccess {t pa a} (ok : s.MemOk) : (s.physAccess t pa a).1.MemOk := by
  cases a with
  | read n => exact ok.physRead
  | write bs => exact ok.physWrite
  | amo op dbl b =>
    have changed := ok.physAtomic (t := t) (pa := pa) (dbl := dbl) (f := fun old => amoNew op dbl old b)
    exact changed
  | cas dbl cmp b =>
    have changed := ok.physAtomic (t := t) (pa := pa) (dbl := dbl) (f := fun old => casNew dbl cmp old b)
    exact changed

theorem State.MemOk.setPorts {ports} (ok : s.MemOk) : State.MemOk { s with ports := ports } := ok
theorem State.MemOk.execCxlMemAccess {off a} (ok : s.MemOk) : MemOkAfter (execCxlMemAccess off a s) := by
  refine .ite ok (.ite ok.report ?_)
  have done := fun pa => ok.physAccess (t := s.portTime + 1) (pa := pa) (a := a)
  dsimp only [MemOkAfter]
  split
  · exact (done _).setPorts.report
  · exact (done _).report
  · exact done _

theorem State.MemOk.dropCopies {line back} (ok : s.MemOk) : (s.dropCopies line back).MemOk :=
  ok.foldl fun ok => .ite (ok.foldl fun ok => ok.mergeCopy) ((ok.foldl fun ok => ok.mergeCopy).setCluster)

theorem State.MemOk.execFabricRecall {line invalidate} (ok : s.MemOk) : MemOkAfter (execFabricRecall line invalidate s) := by
  unfold Machine.execFabricRecall
  show State.MemOk _
  refine State.MemOk.report ?_
  dsimp only
  split
  · refine State.MemOk.setPhysBytes ?_
    dsimp only [State.MemOk]
    exact ok.dropCopies
  · dsimp only [State.MemOk]
    exact ok.dropCopies

theorem State.MemOk.execRemoteAccessArrive {port pa a} (ok : s.MemOk) : MemOkAfter (execRemoteAccessArrive port pa a s) := by
  unfold Machine.execRemoteAccessArrive
  dsimp only
  split
  · exact State.MemOk.report ok
  · split
    · exact ok.report
    · show State.MemOk _
      split
      · exact ok.physAccess.report
      · exact ok.physAccess

/-! ## The service processors -/

theorem State.MemOk.onMbox {k f} (ok : s.MemOk) : (s.onMbox k f).MemOk := ok

theorem State.MemOk.finishRequest {sp q status extra} (ok : s.MemOk) : (s.finishRequest sp q status extra).MemOk := by
  unfold State.finishRequest
  exact .ite ok.setPhysBytes.onMbox.owe ok.setPhysBytes.onMbox

theorem State.MemOk.submitMbox {sp} (ok : s.MemOk) : (s.submitMbox sp).MemOk := by
  unfold State.submitMbox
  exact .ite ok (.ite ok.onMbox ok.onMbox.owe)

theorem State.MemOk.setLayout {x} (ok : s.MemOk) : (s.setLayout x).MemOk := ok

theorem State.MemOk.beginLayout {sp} (ok : s.MemOk) : (s.beginLayout sp).MemOk := by
  unfold State.beginLayout
  exact .ite ok.onMbox.finishRequest (.ite ok.onMbox.finishRequest ((ok.onMbox.setLayout.foldl fun ok => ok.ringDoor).owe))

theorem State.MemOk.ownMoves (ok : s.MemOk) : s.ownMoves.1.MemOk := State.MemOk.foldl_fst ok fun ok => .ite_fst ok ok

theorem State.MemOk.beginOwn (ok : s.MemOk) : s.beginOwn.MemOk := by
  unfold State.beginOwn
  exact .ite ok (.owe (.foldl (.setLayout ok) fun ok => ok.ringDoor))

theorem State.MemOk.onJournals {f} (ok : s.MemOk) : (s.onJournals f).MemOk := ok
theorem State.MemOk.drainAgain (ok : s.MemOk) : s.drainAgain.MemOk := ok.foldl fun ok => ok.owe

theorem State.MemOk.endLayout {x status} (ok : s.MemOk) : (s.endLayout x status).MemOk := by
  unfold State.endLayout
  refine State.MemOk.drainAgain ?_
  split
  · split
    · exact .owe (.ite ok.setLayout ok.setLayout.owe)
    · exact .ite ok.setLayout ok.setLayout.owe
  · exact .finishRequest (.ite ok.setLayout ok.setLayout.owe)

theorem State.MemOk.execLayoutRequest {sp} (ok : s.MemOk) : MemOkAfter (execLayoutRequest sp s) := by
  unfold Machine.execLayoutRequest
  dsimp only
  split
  · exact State.MemOk.ite (.ite ok.beginOwn.beginLayout ok.beginOwn) (.ite ok.submitMbox ok.beginLayout)
  · split
    · exact ok.submitMbox
    · split
      · exact .ite ok.onJournals.setLayout.owe ok
      · exact ok.onJournals.setLayout
      · exact ok
      · exact State.MemOk.ite ok ok.endLayout

theorem State.MemOk.discardOut {gone} (ok : s.MemOk) : (s.discardOut gone).MemOk := ok

theorem State.MemOk.endChanged {ps gone} (ok : s.MemOk) : (s.endChanged ps gone).1.MemOk := by
  unfold State.endChanged
  exact (ok.foldl fun ok => ok.endLaunch).discardOut

theorem State.MemOk.retagXbars {cls} (ok : s.MemOk) : (s.retagXbars cls).MemOk := by
  unfold State.retagXbars
  exact .foldl ok fun ok => ok.setCluster

theorem State.MemOk.flipTables {x} (ok : s.MemOk) : (s.flipTables x).MemOk := by
  unfold State.flipTables
  exact .foldl ok fun ok => ok.setDie

theorem State.MemOk.flipOwn {x} (ok : s.MemOk) : (s.flipOwn x).MemOk := by
  unfold State.flipOwn
  exact .replaceInLaunches (.rewriteXlt ok)

theorem State.MemOk.execLayoutFlip (ok : s.MemOk) : MemOkAfter (execLayoutFlip s) := by
  unfold Machine.execLayoutFlip
  split
  · exact ok
  · refine .ite ok ?_
    extract_lets old flipped ended fresh started dies rung told
    have flipped_ok : flipped.MemOk := .ite ok.flipOwn ok.flipTables
    have started_ok : started.MemOk :=
      State.MemOk.foldl (.ite flipped_ok.endChanged flipped_ok.endChanged.retagXbars) fun ok => ok.startSlots
    have told_ok : told.MemOk := (started_ok.foldl fun ok => ok.ringDoor).foldl fun ok => ok.owe
    exact told_ok.setLayout.owe

theorem State.MemOk.partnerTakes {sp} (ok : s.MemOk) : (s.partnerTakes sp).MemOk := by
  unfold State.partnerTakes
  dsimp only
  split
  · exact ok
  · exact .ite ok (.foldl (.endLayout (.ite ok ok)) fun ok => ok.ringDoor)

theorem State.MemOk.execSpWatchdogReset {sp} (ok : s.MemOk) : MemOkAfter (execSpWatchdogReset sp s) := by
  unfold Machine.execSpWatchdogReset
  exact State.MemOk.ite (.owe (.partnerTakes ok)) (.partnerTakes ok)

theorem State.MemOk.execSpLoss {sp} (ok : s.MemOk) : MemOkAfter (execSpLoss sp s) := by
  unfold Machine.execSpLoss
  show State.MemOk _
  dsimp only [State.MemOk]
  exact ok.partnerTakes

theorem State.MemOk.execProtectionRequest {sp peers} (ok : s.MemOk) : MemOkAfter (execProtectionRequest sp peers s) := by
  unfold Machine.execProtectionRequest
  dsimp only
  split
  · exact State.MemOk.finishRequest ok
  · split
    · exact State.MemOk.finishRequest ok
    · split
      · exact State.MemOk.finishRequest ok
      · split
        · exact .ite ok.onMbox ok
        · exact State.MemOk.finishRequest ok
        · exact State.MemOk.finishRequest ok

theorem State.MemOk.execProtectionGroupTimeout {gid} (ok : s.MemOk) : MemOkAfter (execProtectionGroupTimeout gid s) := by
  unfold Machine.execProtectionGroupTimeout
  exact State.MemOk.foldl ok fun ok => ok.finishRequest

theorem State.MemOk.execServerMaskRequest {sp} (ok : s.MemOk) : MemOkAfter (execServerMaskRequest sp s) := by
  unfold Machine.execServerMaskRequest
  exact .ite (State.MemOk.finishRequest ok) ok.onMbox.finishRequest

theorem State.MemOk.execAttestationRequest {sp} (ok : s.MemOk) : MemOkAfter (execAttestationRequest sp s) := by
  unfold Machine.execAttestationRequest
  exact .ite ok.onMbox.setPhysBytes.finishRequest ok.onMbox.finishRequest

/-! ## Recovery -/

theorem State.MemOk.askMigration {a} (ok : s.MemOk) : (s.askMigration a).MemOk := ok.ringDoor

theorem State.MemOk.retireBank {a} (ok : s.MemOk) : (s.retireBank a).MemOk := by
  unfold State.retireBank
  exact .foldl ok fun ok => ok.askMigration

theorem State.MemOk.listRow {a} (ok : s.MemOk) : (s.listRow a).MemOk := by
  unfold State.listRow
  exact .ite ok (.ite ok.askMigration (.owe (.ite (.retireBank ok) ok)))

theorem State.MemOk.corrected {e} (ok : s.MemOk) : (s.corrected e).MemOk := by
  unfold State.corrected
  dsimp only
  split
  · refine State.MemOk.listRow ?_
    split
    · dsimp only [State.MemOk]
      exact ok.suspect
    · dsimp only [State.MemOk]
      exact ok.suspect
  · split
    · dsimp only [State.MemOk]
      exact ok.suspect
    · dsimp only [State.MemOk]
      exact ok.suspect

theorem State.MemOk.scrubRow {e} (ok : s.MemOk) : (s.scrubRow e).MemOk := .ite (.listRow ok) ok.corrected
theorem State.MemOk.execHbmScrub {found} (ok : s.MemOk) : MemOkAfter (execHbmScrub found s) := ok.foldl fun ok => ok.scrubRow

theorem State.MemOk.repairRow {a} (ok : s.MemOk) : (s.repairRow a).MemOk := by
  unfold State.repairRow
  exact .ite ok (.askMigration ok)

theorem State.MemOk.execHbmRowRepair {k} (ok : s.MemOk) : MemOkAfter (execHbmRowRepair k s) := ok.foldl fun ok => ok.repairRow

theorem State.MemOk.execScoreDecay (ok : s.MemOk) : MemOkAfter (execScoreDecay s) := by
  unfold Machine.execScoreDecay
  exact ok

theorem State.MemOk.execUnitDrain {u} (ok : s.MemOk) : MemOkAfter (execUnitDrain u s) := by
  unfold Machine.execUnitDrain
  exact State.MemOk.ite ok ok

theorem State.MemOk.execUnitTestDone {u pass} (ok : s.MemOk) : MemOkAfter (execUnitTestDone u pass s) := by
  unfold Machine.execUnitTestDone
  dsimp only
  split
  · show State.MemOk _
    split
    · exact .owe ok
    · exact .owe ok
    · exact ok
  · show State.MemOk _
    split
    · exact .owe ok
    · exact .owe ok
    · exact .owe ok
    · exact .failBank ok
    · exact ok
    · exact ok

theorem State.MemOk.chargePart {p hit} (ok : s.MemOk) : (s.chargePart p hit).MemOk := by
  refine ok.foldl fun ok => ?_
  split
  · exact State.MemOk.chargeDomain (State.MemOk.postKind (by exact ok))
  · exact ok

theorem State.MemOk.execPackageLoss {pkg newId} (ok : s.MemOk) : MemOkAfter (execPackageLoss pkg newId s) := by
  unfold Machine.execPackageLoss
  exact State.MemOk.foldl ok fun ok => ok.chargePart

theorem State.MemOk.writeMember {r e xs} (ok : s.MemOk) : AgentStateOk (s.writeMember r e xs) := by
  unfold State.writeMember
  split
  · exact ok
  · refine List.foldlRecOn (motive := AgentStateOk) _ _ ok fun acc written off _ => ?_
    cases acc with
    | error x => exact written
    | ok s =>
      have stored := fun g a bs n => State.MemOk.agentStore (s := { s with draws := n }) (g := g) (a := a) (bs := bs) written
      dsimp only
      split
      · rename_i hr
        exact (stored _ _ _ _).error hr
      · rename_i hr
        exact (stored _ _ _ _).get hr

theorem State.MemOk.copyHalf {r e} (ok : s.MemOk) : AgentStateOk (s.copyHalf r e) := by
  unfold State.copyHalf
  split
  · exact ok
  · extract_lets g
    split
    · rename_i hr
      exact ok.agentBytes.error hr
    · rename_i hr
      have read := ok.agentBytes.get hr
      split
      · rename_i hr1
        exact read.agentStore.error hr1
      · rename_i hr1
        exact read.agentStore.get hr1

theorem State.MemOk.onRegions {gid f} (ok : s.MemOk) : (s.onRegions gid f).MemOk := ok

theorem State.MemOk.regionStop {r again e} (ok : s.MemOk) (bad : e.MemOk) : MemOkAfter (s.regionStop r again e) := by
  unfold State.regionStop
  split
  · exact ok.portStop bad id
  · exact ok

theorem State.MemOk.execEpochStart {gid data} (ok : s.MemOk) : MemOkAfter (execEpochStart gid data s) := by
  unfold Machine.execEpochStart
  dsimp only
  split
  · exact ok
  · split
    · exact ok.onRegions
    · split
      · exact State.MemOk.ite ok.onRegions.report ok.onRegions
      · split
        · rename_i hr
          exact ok.regionStop (ok.onRegions.copyHalf.error hr)
        · rename_i hr
          split
          · rename_i hr1
            exact ok.regionStop ((ok.onRegions.copyHalf.get hr).writeMember.error hr1)
          · rename_i hr1
            exact (ok.onRegions.copyHalf.get hr).writeMember.get hr1

theorem State.MemOk.execEpochCommit {gid} (ok : s.MemOk) : MemOkAfter (execEpochCommit gid s) := by
  unfold Machine.execEpochCommit
  dsimp only
  split
  · exact ok
  · split
    · exact ok
    · show State.MemOk _
      split
      · exact ok.onRegions.onVd.owe
      · exact ok.onRegions.onVd

theorem State.MemOk.execGroupRebuild {gid lost symbols} (ok : s.MemOk) : MemOkAfter (execGroupRebuild gid lost symbols s) := by
  unfold Machine.execGroupRebuild
  dsimp only
  split
  · exact ok
  · split
    · exact ok.report
    · split
      · exact State.MemOk.onVd (.onRegions ok)
      · split
        · rename_i hr
          refine State.MemOk.regionStop ?_ (ok.writeMember.error hr)
          split
          · exact ok.ringPart
          · exact ok
        · rename_i hr
          exact (ok.writeMember.get hr).chargePart

/-! ## Bring-up and reset -/

theorem State.MemOk.execBringUp {passing supply fuseless} (ok : s.MemOk) : MemOkAfter (execBringUp passing supply fuseless s) := by
  unfold Machine.execBringUp
  dsimp only
  split
  · exact ok
  · split
    · exact ok
    · exact State.MemOk.foldl (.report ok) fun ok => ok.owe

/-- A reset of the package leaves empty memories. -/
theorem State.MemOk.execPackageReset (_ : s.MemOk) : MemOkAfter (execPackageReset s) := .intro rfl rfl

theorem State.MemOk.onCluster {cl f} (ok : s.MemOk) : (s.onCluster cl f).MemOk := ok.setCluster
theorem State.MemOk.execVcoreDroop {cl mV} (ok : s.MemOk) : MemOkAfter (execVcoreDroop cl mV s) := State.MemOk.ite ok.onCluster ok

theorem State.MemOk.execVcoreRecovery {cl mV} (ok : s.MemOk) : MemOkAfter (execVcoreRecovery cl mV s) :=
  State.MemOk.ite ok.onCluster ok

theorem State.MemOk.execThermalThrottle {cl celsius} (ok : s.MemOk) : MemOkAfter (execThermalThrottle cl celsius s) :=
  State.MemOk.ite ok.onCluster ok

theorem State.MemOk.execThrottleRelease {cl celsius} (ok : s.MemOk) : MemOkAfter (execThrottleRelease cl celsius s) :=
  State.MemOk.ite ok.onCluster ok

theorem State.MemOk.execPowerCap {milliwatt} (ok : s.MemOk) : MemOkAfter (execPowerCap milliwatt s) := ok

theorem State.MemOk.execThermalShutdown {celsius} (ok : s.MemOk) : MemOkAfter (execThermalShutdown celsius s) :=
  State.MemOk.ite ok ok

end Sys2Proof.Machine
end

section
/-! The canonical form of memory: a step. -/
namespace Sys2Proof.Machine
open Sys2Proof
variable {s : State}

/-! ## The meaning of instructions -/

/-- Every instruction and every event keeps the invariant, by the rule of its meaning. -/
theorem State.MemOk.exec {i} (ok : s.MemOk) : MemOkAfter (exec i s) := by
  unfold Machine.exec
  split
  · exact ok.execDividerResult
  · exact ok.execEvcWrite
  · exact ok.execBcfgWrite
  · exact ok.execGlobalAccessComplete
  · exact ok.execPageWalk
  · exact ok.execL1dEviction
  · exact ok.execEventMessage
  · exact ok.execBarrierArrivalMessage
  · exact ok.execBarrierReleaseMessage
  · exact ok.execChannelClaim
  · exact ok.execChannelClaimAnswer
  · exact ok.execChannelMessageLand
  · exact ok.execChannelGrant
  · exact ok.execTimedMessageLand
  · exact ok.execStreamChunkArrive
  · exact ok.execArrayOpStart
  · exact ok.execArrayRowWrite
  · exact ok.execArrayOpFinish
  · exact ok.execScaleWriteRelease
  · exact ok.execCommandComplete
  · exact ok.execCommandFail
  · exact ok.execCollectiveGeneration
  · exact ok.execSpsumPairAdd
  · exact ok.execStorageCompletion
  · exact ok.execNetworkReceive
  · exact ok.execXbarPulseArrive
  · exact ok.execYieldRequest
  · exact ok.execGraceExpiry
  · exact ok.execLaunchWindowWrite
  · exact ok.execLaunchActivate
  · exact ok.execLaunchComplete
  · exact ok.execTaskPop
  · exact ok.execIdleSearchWiden
  · exact ok.execQueueAging
  · exact ok.execDomainCharge
  · exact ok.execAuditReplay
  · exact ok.execSaddleTick
  · exact ok.execPacketEject
  · exact ok.execColChannelEscape
  · exact ok.execDataFrameReceive
  · exact ok.execReplayRequest
  · exact ok.execProbeTimeout
  · exact ok.execProbe
  · exact ok.execDigest
  · exact ok.execResetRequest
  · exact ok.execLinkRetrain
  · exact ok.execLinkReroute
  · exact ok.execDiagnosisVote
  · exact ok.execDieTakeover
  · exact ok.execDieMapFlip
  · exact ok.execPeerWindowAccess
  · exact ok.execPostedWriteArrive
  · exact ok.execCxlMemAccess
  · exact ok.execFabricRecall
  · exact ok.execRemoteAccessArrive
  · exact ok.execLayoutRequest
  · exact ok.execLayoutFlip
  · exact ok.execProtectionRequest
  · exact ok.execAttestationRequest
  · exact ok.execServerMaskRequest
  · exact ok.execSpWatchdogReset
  · exact ok.execSpLoss
  · exact ok.execVdSnapshot
  · exact ok.execEpochStart
  · exact ok.execEpochCommit
  · exact ok.execGroupRebuild
  · exact ok.execPackageLoss
  · exact ok.execCoreHangTimeout
  · exact ok.execCoreFailure
  · exact ok.execClusterFailure
  · exact ok.execL2SliceFence
  · exact ok.execStackLoss
  · exact ok.execIoDieLoss
  · exact ok.execHbmScrub
  · exact ok.execHbmRowRepair
  · exact ok.execScoreDecay
  · exact ok.execUnitDrain
  · exact ok.execUnitTestDone
  · exact ok.execBringUp
  · exact ok.execVcoreDroop
  · exact ok.execThermalThrottle
  · exact ok.execPowerCap
  · exact ok.execThermalShutdown
  · exact ok.execPackageReset
  · exact ok.execProtectionGroupTimeout
  · exact ok.execPwctlWrite
  · exact ok.execVcoreRecovery
  · exact ok.execThrottleRelease
  · exact ok.execHaltRestart
  · exact ok.execHaltedPartitionEnd
  · exact ok.execRemoteSpareLend
  · exact ok.execVdMigration
  · exact ok.execNop
  · exact ok.execTimed
  · exact ok.execChecked
  · exact ok.execGang
  · exact ok.execGsplit
  · exact ok.execGjoin
  · exact ok.execLd
  · exact ok.execSt
  · exact ok.execVld
  · exact ok.execVst
  · exact ok.execVldImg
  · exact ok.execVstImg
  · exact ok.execVldl
  · exact ok.execVstl
  · exact ok.execVgath
  · exact ok.execVscat
  · exact ok.execKld
  · exact ok.execKst
  · exact ok.execGld
  · exact ok.execGst
  · exact ok.execGldV
  · exact ok.execGstV
  · exact ok.execGldImg
  · exact ok.execGstImg
  · exact ok.execRwb
  · exact ok.execRinv
  · exact ok.execRwbi
  · exact ok.execPref
  · exact ok.execAmo
  · exact ok.execCas
  · exact ok.execRed
  · exact ok.execEvsigEv
  · exact ok.execEvsigUnlock
  · exact ok.execEvsigPulse
  · exact ok.execLdevWait
  · exact ok.execLdevPoll
  · exact ok.execLdevLock
  · exact ok.execLdevTry
  · exact ok.execBar
  · exact ok.execBarss
  · exact ok.execSpred
  · exact ok.execFence
  · exact ok.execChdecl
  · exact ok.execChdeclRel
  · exact ok.execChsend
  · exact ok.execChrecv
  · exact ok.execChpoll
  · exact ok.execPhase
  · exact ok.execTsend
  · exact ok.execTrecv
  · exact ok.execXcopy
  · exact ok.execXgath
  · exact ok.execXscat
  · exact ok.execXfill
  · exact ok.execXcoll
  · exact ok.execXwait
  · exact ok.execXseq
  · exact ok.execXcancel
  · exact ok.execEvxcfgC
  · exact ok.execEvxcfgT
  · exact ok.execEvxcfgR
  · exact ok.execEvxarm
  · exact ok.execSring
  · exact ok.execNsend
  · exact ok.execLaunch
  · exact ok.execSpawn
  · exact ok.execSpawnR
  · exact ok.execJoin
  · exact ok.execTend
  · exact ok.execWid
  · exact ok.execWidf
  · exact ok.execCorenum
  · exact ok.execCdopen
  · exact ok.execCdclose
  · exact ok.execCdabort
  · exact ok.execCdabortRetry
  · exact ok.execCdkeep
  · exact ok.execCdsig
  · exact ok.execRdsys
  · exact ok.execWrsys
  · exact ok.execFbpop0Read
  · exact ok.execDerrpopRead
  · exact ok.execFbstatDropClear
  · exact ok.execSpdoorClear
  · exact ok.execSlotctlGo
  · exact ok.execSwzWrite
  · exact ok.execZshareWrite
  · exact ok.execSyscall
  · exact ok.execBkpt
  · exact ok.execXret
  · exact ok.execWfi
  · exact ok.execHalt
  · exact ok.execTlbinvPage
  · exact ok.execTlbinvVsid
  · exact ok.execTlbinvAll
  · exact ok.execTlbreplay
  · exact ok.execLdovt
  · exact ok.execCtxsave
  · exact ok.execCtxload
  · exact ok.execAdd
  · exact ok.execSub
  · exact ok.execAndR
  · exact ok.execOrR
  · exact ok.execXorR
  · exact ok.execAndn
  · exact ok.execOrn
  · exact ok.execNeg
  · exact ok.execAddi
  · exact ok.execAndi
  · exact ok.execOri
  · exact ok.execXori
  · exact ok.execShl
  · exact ok.execShr
  · exact ok.execShra
  · exact ok.execRol
  · exact ok.execRor
  · exact ok.execMul
  · exact ok.execMulh
  · exact ok.execMulhn
  · exact ok.execDiv
  · exact ok.execDivn
  · exact ok.execRem
  · exact ok.execRemn
  · exact ok.execClz
  · exact ok.execCtz
  · exact ok.execPopc
  · exact ok.execBrev
  · exact ok.execBswap
  · exact ok.execBfx
  · exact ok.execBfxn
  · exact ok.execBfi
  · exact ok.execMin
  · exact ok.execMinn
  · exact ok.execMax
  · exact ok.execMaxn
  · exact ok.execSel
  · exact ok.execMov
  · exact ok.execMovi
  · exact ok.execMovhi
  · exact ok.execMovp
  · exact ok.execLea
  · exact ok.execCmp
  · exact ok.execFadd
  · exact ok.execFsub
  · exact ok.execFmul
  · exact ok.execFdiv
  · exact ok.execFsqrt
  · exact ok.execFma
  · exact ok.execFcmp
  · exact ok.execFclass
  · exact ok.execFmin
  · exact ok.execFmax
  · exact ok.execFabs
  · exact ok.execFneg
  · exact ok.execFcpys
  · exact ok.execBr
  · exact ok.execCall
  · exact ok.execJr
  · exact ok.execCallr
  · exact ok.execRet
  · exact ok.execLoop
  · exact ok.execLoopi
  · exact ok.execPand
  · exact ok.execPor
  · exact ok.execPxor
  · exact ok.execPnot
  · exact ok.execPmov
  · exact ok.execVcvt
  · exact ok.execVcvts
  · exact ok.execVtag
  · exact ok.execVtagr
  · exact ok.execVquant
  · exact ok.execVdeq
  · exact ok.execVscl
  · exact ok.execScvt
  · exact ok.execVadd
  · exact ok.execVsub
  · exact ok.execVadds
  · exact ok.execVsubs
  · exact ok.execVabs
  · exact ok.execVmul
  · exact ok.execVmulh
  · exact ok.execVmulhn
  · exact ok.execVmin
  · exact ok.execVminn
  · exact ok.execVmax
  · exact ok.execVmaxn
  · exact ok.execVfadd
  · exact ok.execVfsub
  · exact ok.execVfmul
  · exact ok.execVfdiv
  · exact ok.execVfma
  · exact ok.execVfms
  · exact ok.execVfnma
  · exact ok.execVfnms
  · exact ok.execVfmin
  · exact ok.execVfmax
  · exact ok.execVfabs
  · exact ok.execVfneg
  · exact ok.execVrcp
  · exact ok.execVrsq
  · exact ok.execVsqrt
  · exact ok.execVexp2
  · exact ok.execVlog2
  · exact ok.execVcmp
  · exact ok.execVfcmp
  · exact ok.execVfclass
  · exact ok.execVsel
  · exact ok.execVand
  · exact ok.execVor
  · exact ok.execVxor
  · exact ok.execVandn
  · exact ok.execVshl
  · exact ok.execVshr
  · exact ok.execVshra
  · exact ok.execVbcast
  · exact ok.execVext
  · exact ok.execVins
  · exact ok.execVperm
  · exact ok.execVslideup
  · exact ok.execVslidedn
  · exact ok.execViota
  · exact ok.execKand
  · exact ok.execKor
  · exact ok.execKxor
  · exact ok.execKnot
  · exact ok.execKcnt
  · exact ok.execKmov
  · exact ok.execVradd
  · exact ok.execVrmin
  · exact ok.execVrmax
  · exact ok.execVrfadd
  · exact ok.execVrfmin
  · exact ok.execVrfmax
  · exact ok.execScfg
  · exact ok.execSfree
  · exact ok.execVloop
  · exact ok.execVmov
  · exact ok.execVmovgFromG
  · exact ok.execVmovgToG
  · exact ok.execVmadd
  · exact ok.execVmsub
  · exact ok.execVmneg
  · exact ok.execVmmul
  · exact ok.execVmmac
  · exact ok.execVmred
  · exact ok.execVmcvtI64
  · exact ok.execVmcvtMn
  · exact ok.execVmcvtMs
  · exact ok.execMqgen
  · exact ok.execMqld
  · exact ok.execBfly
  · exact ok.execIbfly
  · exact ok.execBperm
  · exact ok.execBpermx
  · exact ok.execVbitrev
  · exact ok.execVfft2
  · exact ok.execVcmul
  · exact ok.execZalloc
  · exact ok.execZfree
  · exact ok.execZzero
  · exact ok.execZmma
  · exact ok.execZmmas
  · exact ok.execZldc
  · exact ok.execZstore
  · exact ok.execZread
  · exact ok.execZwm
  · exact ok.execZwait
  · exact ok.execZscl
  · exact ok.execZstatT
  · exact ok.execZstatF
  · exact ok.execZstatS

/-! ## Fetch -/

theorem State.MemOk.endWfi {n} (ok : s.MemOk) : (s.endWfi n).MemOk := ok.setCore

theorem State.MemOk.fabricFetch {bs} (ok : s.MemOk) : (s.fabricFetch bs).1.MemOk := by
  unfold State.fabricFetch
  exact ok.foldl fun ok => ok.permit

/-- The state in which the word of a core is fetched, or its fetch stops. -/
def Fetched.MemOk : Fetched → Prop
  | .bytes s _ | .trap s _ _ | .wait s => s.MemOk
  | .fault _ => True
theorem State.MemOk.fetch (ok : s.MemOk) : s.fetch.MemOk := by
  unfold State.fetch
  dsimp only
  split
  · exact ok.endWfi
  · split
    · exact ok
    · split
      · split
        · exact ok
        · exact ok
        · split
          · exact ok.touch
          · exact ok.touch
      · split
        · exact ok
        · exact ok.waitWalk
        · trivial
        · split
          · exact ok.badRead
          · exact ok.fabricFetch

theorem State.MemOk.captured {n bs} (ok : s.MemOk) : (s.captured n bs).MemOk := ok.setCore

theorem State.MemOk.issueWithGang {run i n} (ok : s.MemOk) (step : ∀ {i} {s : State}, s.MemOk → MemOkAfter (run i s)) :
    MemOkAfter (issueWithGang run i n s) := by
  unfold Machine.issueWithGang
  have ran := step (i := i) ok
  split
  · rename_i hr
    have followed := (ran.get hr).fanOut (run := run) (i := i) (lead := n) (before := s.cc) step
    refine .ite ?_ (ran.get hr)
    split
    · rename_i hr1
      exact State.MemOk.ite ok.notBefore (followed.get hr1)
    · exact followed
  · exact ran

theorem State.MemOk.paid {n words} (ok : s.MemOk) : (s.paid n words).MemOk := by
  unfold State.paid
  exact .ite ok.setCore ok

theorem State.MemOk.foundBad {n} (ok : s.MemOk) : (s.foundBad n).MemOk := ok.setCore.badRead

theorem State.MemOk.atFetch {n} (ok : s.MemOk) : (s.atFetch n).MemOk := by
  unfold State.atFetch
  exact .ite ok.setCore ok

/-! ## Steps -/

theorem State.MemOk.stepCore {n} (ok : s.MemOk) : MemOkAfter (stepCore n s) := by
  unfold Machine.stepCore
  extract_lets fetching
  have fetching_ok : fetching.MemOk := State.MemOk.atFetch ok
  split
  · split
    · rename_i hr
      exact (fetching_ok.exec.get hr).paid
    · exact fetching_ok.exec
  · have fetched : fetching.fetch.MemOk := fetching_ok.fetch
    split
    all_goals
      rename_i hr
      rw [hr] at fetched
    · exact State.MemOk.takeTrap fetched
    · exact fetched
    · trivial
    · split
      · exact State.MemOk.takeTrap fetched
      · have aligned := fun i bs => (State.MemOk.captured fetched (n := n) (bs := bs)).alignGang (run := Machine.exec) (i := i) (lead := n)
        exact .ite (aligned _ _) ((aligned _ _).issueWithGang fun ok => ok.exec)

theorem State.MemOk.turnOf {n} (ok : s.MemOk) : MemOkAfter (turnOf n s) := by
  unfold Machine.turnOf
  refine .ite ?_ ok
  have turned : MemOkAfter (if s.holdsBad n = [] then Machine.stepCore n s else .next ((s.holdsBad n).foldl State.foundBad s)) :=
    .ite ok.stepCore (ok.foldl fun ok => ok.foundBad)
  split
  · rename_i hr
    have ran := turned.get hr
    exact ran
  · exact turned

theorem State.MemOk.firstTurn {x} (ok : s.MemOk) (hx : s.firstTurn = some x) : MemOkAfter x.2 := by
  have turns : ∀ y ∈ s.firstTurn, MemOkAfter y.2 := by
    refine List.foldlRecOn (motive := fun b : Option (Nat × Host.Outcome State Fault Refusal) => ∀ y ∈ b, MemOkAfter y.2) _ _
      (fun _ h => absurd h (Option.not_mem_none _)) fun best before e _ => ?_
    dsimp only
    split
    · split
      · rintro _ ⟨⟩
        exact ok.turnOf
      · exact before
    · rintro _ ⟨⟩
      exact ok.turnOf
  exact turns x hx

theorem State.MemOk.doWork {w} (ok : s.MemOk) : MemOkAfter (s.doWork w) := by
  unfold State.doWork
  split
  · exact State.MemOk.exec ok
  · exact State.MemOk.serve ok

/-- A step keeps the invariant: it is an event, the service of a cluster, or the turn of a core. -/
theorem State.MemOk.step (ok : s.MemOk) : MemOkAfter (step s) := by
  unfold Machine.step
  split
  · exact State.MemOk.exec (by exact ok)
  · split
    · exact .ite ok (State.MemOk.exec (by exact ok))
    · exact State.MemOk.turnOf (by exact ok)
    · refine .ite ok ?_
      split
      · exact State.MemOk.exec (by exact ok)
      · split
        · rename_i hx
          split
          · exact ok.doWork
          · exact ok.firstTurn hx
        · split
          · exact ok.doWork
          · exact ok

end Sys2Proof.Machine
end

section
namespace Sys2Proof
open Machine

/-- Settles O60: each operation of the machine keeps the invariant, in the order of the model, and so does a step. -/
theorem memoryFormKept : Obligations.MemoryFormKept := fun s _ hbm fabric hstep => (State.MemOk.step (s := s) ⟨hbm, fabric⟩).get hstep

end Sys2Proof
end

section
/-! What reset leaves (R11, R17, R450, R549), and what a turn and a step run (R12, R21, R37): an equation for each of their cases. -/
namespace Sys2Proof.Machine
open Sys2Proof
variable {s u v : State} {n : Nat} {i : Instr} {bs : List Byte}

/-! ## Reset -/

/-- After reset every core is as bring-up leaves it (R450). -/
theorem core_reset (n : Nat) : State.reset.core n = State.reset.initCore n := rfl

/-- Without a server mask of bring-up the OS server core of a cluster is its core 23 (R17). -/
theorem isServer_reset (n : Nat) : State.reset.isServer n = true ↔ n % 24 = 23 := by
  change (0x800000#24).getLsbD (n % 24) = true ↔ _
  have hn : n % 24 < 24 := Nat.mod_lt _ (by decide)
  generalize n % 24 = k at hn
  revert k
  decide

/-- A core as bring-up leaves it differs from another in its mode alone. -/
theorem regs_initCore (s : State) (n : Nat) : (s.initCore n).regs = { trap := { sup := s.isServer n } } := by
  unfold State.initCore
  cases s.isServer n <;> rfl

theorem spad_initCore (s : State) (n : Nat) : (s.initCore n).spad = [] := by
  unfold State.initCore
  split <;> rfl
theorem flights_initCore (s : State) (n : Nat) : (s.initCore n).tmg.flights = [] := by
  unfold State.initCore
  split <;> rfl

theorem rdG_initCore (s : State) (n : Nat) (r : GReg) : (s.initCore n).rdG r = 0 := by
  simp [Core.rdG, regs_initCore]
theorem rdP_initCore (s : State) (n : Nat) {r : PReg} (hr : r ≠ 0) : (s.initCore n).rdP r = false := by
  rw [Core.rdP, if_neg hr, regs_initCore]
  change ({} : Regs).p[r] = false
  revert r
  decide
theorem rdK_initCore (s : State) (n : Nat) {r : KReg} (hr : r ≠ 0) : (s.initCore n).rdK r = 0 := by
  rw [Core.rdK, if_neg hr, regs_initCore]
  change ({} : Regs).k[r] = 0
  revert r
  decide

/-- A package that is held, with nothing pending, lets a clk pass. -/
theorem step_reset : step State.reset = .next { State.reset with clk := 1 } := rfl

/-! ## Gangs without followers -/

theorem alignGang_of_no_followers {run} (h : s.followers n = []) : State.alignGang run i n s = (s, false) := by
  unfold State.alignGang
  split
  · simp [h]
  · rfl

theorem gangFollows_of_no_followers (h : s.followers n = []) : gangFollows s n v = false := by
  simp [gangFollows, h]

/-- A word that no member follows is the leader's alone (R146). -/
theorem issueWithGang_alone {run} (hr : run i s = .next v) (hg : gangFollows s n v = false) : issueWithGang run i n s = .next v := by
  simp [issueWithGang, hr, hg]

theorem issueWithGang_of_no_followers {run} (h : s.followers n = []) : issueWithGang run i n s = run i s := by
  unfold issueWithGang
  split
  · rename_i hr
    simp [gangFollows_of_no_followers h, hr]
  · rfl

/-- A word that the members follow is passed on to them; where one of them owes it still, the leader is held back instead. -/
theorem issueWithGang_followed {run t} (hr : run i s = .next v) (hg : gangFollows s n v = true)
    (hf : fanOut run i n s.cc v = .next t) :
    issueWithGang run i n s = .next (if t.owing n then s.notBefore n ((s.core n).tmg.clk + 1) else t) := by
  simp [issueWithGang, hr, hg, hf]

/-! ## The turn of a core -/

/-- The state in which a core's word is fetched. -/
def State.fetching (s : State) (n : Nat) : State := State.atFetch { s with cur := n } n

theorem stepCore_of_owed (ho : (s.fetching n).owedWord n = some i) (hx : exec i (s.fetching n) = .next u) :
    stepCore n s = .next (u.paid n ((s.fetching n).core n).tmg.words) := by
  unfold State.fetching at *
  simp only [stepCore, ho, hx]

theorem stepCore_of_decoded (ho : (s.fetching n).owedWord n = none) (hf : (s.fetching n).fetch = .bytes u bs)
    (hd : decodeBytes bs = .ok i) :
    stepCore n s =
      if (State.alignGang exec i n (u.captured n bs)).2 then .next (State.alignGang exec i n (u.captured n bs)).1
      else issueWithGang exec i n (State.alignGang exec i n (u.captured n bs)).1 := by
  unfold State.fetching at *
  simp only [stepCore, ho, hf, hd]

/-- The leader of a gang that is not aligned yet, and so waits for its members (R146). -/
theorem stepCore_of_delayed (ho : (s.fetching n).owedWord n = none) (hf : (s.fetching n).fetch = .bytes u bs)
    (hd : decodeBytes bs = .ok i) (ha : State.alignGang exec i n (u.captured n bs) = (v, true)) : stepCore n s = .next v := by
  simp [stepCore_of_decoded ho hf hd, ha]

theorem stepCore_of_aligned (ho : (s.fetching n).owedWord n = none) (hf : (s.fetching n).fetch = .bytes u bs)
    (hd : decodeBytes bs = .ok i) (ha : State.alignGang exec i n (u.captured n bs) = (v, false)) :
    stepCore n s = issueWithGang exec i n v := by
  simp [stepCore_of_decoded ho hf hd, ha]

theorem stepCore_of_alone (ho : (s.fetching n).owedWord n = none) (hf : (s.fetching n).fetch = .bytes u bs)
    (hd : decodeBytes bs = .ok i) (ha : (u.captured n bs).followers n = []) : stepCore n s = exec i (u.captured n bs) := by
  rw [stepCore_of_aligned ho hf hd (alignGang_of_no_followers ha), issueWithGang_of_no_followers ha]

theorem stepCore_of_undecoded {c x} (ho : (s.fetching n).owedWord n = none) (hf : (s.fetching n).fetch = .bytes u bs)
    (hd : decodeBytes bs = .bad c x) : stepCore n s = .next (u.takeTrap n c x 0) := by
  unfold State.fetching at *
  simp only [stepCore, ho, hf, hd]

theorem stepCore_of_fetchTrap {c x} (ho : (s.fetching n).owedWord n = none) (hf : (s.fetching n).fetch = .trap u c x) :
    stepCore n s = .next (u.takeTrap n c x 0) := by
  unfold State.fetching at *
  simp only [stepCore, ho, hf]

theorem stepCore_of_fetchWait (ho : (s.fetching n).owedWord n = none) (hf : (s.fetching n).fetch = .wait u) :
    stepCore n s = .next u := by
  unfold State.fetching at *
  simp only [stepCore, ho, hf]

/-- The device reaches the clk of a core's turn. -/
def State.reached (s : State) (n : Nat) (u : State) : State := { u with clk := max u.clk (s.turnClk n (.next u)) }

theorem turnOf_of_not_runnable (hr : s.runnable n = false) : turnOf n s = .next s := by
  simp [turnOf, hr]

/-- Errors that its registers hold are found before the word of a core (R526). -/
theorem turnOf_of_holdsBad (hr : s.runnable n = true) (hb : s.holdsBad n ≠ []) :
    turnOf n s = .next (s.reached n ((s.holdsBad n).foldl State.foundBad s)) := by
  simp [turnOf, hr, hb, State.reached]

theorem turnOf_of_next (hr : s.runnable n = true) (hb : s.holdsBad n = []) (hs : stepCore n s = .next u) :
    turnOf n s = .next (s.reached n u) := by
  simp [turnOf, hr, hb, hs, State.reached]

theorem turnOf_of_fault {f} (hr : s.runnable n = true) (hb : s.holdsBad n = []) (hs : stepCore n s = .fault f) :
    turnOf n s = .fault f := by
  simp [turnOf, hr, hb, hs]

/-! ## The first turn -/

/-- The earlier of two by their places, and of two at one place the one that was met first. -/
def keepFirst {α β : Type} (key : α → Nat) (val : α → β) (best : Option (Nat × β)) (e : α) : Option (Nat × β) :=
  match best with
  | some b => if key e < b.1 then some (key e, val e) else best
  | none => some (key e, val e)

/-- The first of a list by their places: one of them, with no other before it. -/
def IsFirst {α β : Type} (key : α → Nat) (val : α → β) (xs : List α) : Option (Nat × β) → Prop
  | none => xs = []
  | some b => (∃ e ∈ xs, b = (key e, val e)) ∧ ∀ e ∈ xs, b.1 ≤ key e

theorem isFirst_foldl {α β : Type} (key : α → Nat) (val : α → β) (xs : List α) :
    IsFirst key val xs (xs.foldl (keepFirst key val) none) := by
  induction xs using List.reverseRecOn with
  | nil => rfl
  | append_singleton xs x ih =>
    rw [List.foldl_concat]
    generalize xs.foldl (keepFirst key val) none = best at ih
    cases best with
    | none =>
      obtain rfl : xs = [] := ih
      simp [IsFirst, keepFirst]
    | some b =>
      obtain ⟨⟨e, he, hb⟩, least⟩ := ih
      by_cases hlt : key x < b.1
      · rw [keepFirst, if_pos hlt]
        refine ⟨⟨x, by simp, rfl⟩, fun y hy => ?_⟩
        rcases List.mem_append.mp hy with hy | hy
        · exact hlt.le.trans (least y hy)
        · rw [List.mem_singleton.mp hy]
      · rw [keepFirst, if_neg hlt]
        refine ⟨⟨e, by simp [he], hb⟩, fun y hy => ?_⟩
        rcases List.mem_append.mp hy with hy | hy
        · exact least y hy
        · rw [List.mem_singleton.mp hy]
          exact not_lt.mp hlt

/-- The place of the turn that an entry of the core table may take. -/
noncomputable def State.placeOf (s : State) (e : Nat × Core) : Nat := s.turnPlace e.1 (s.turnClk e.1 (turnOf e.1 s))

/-- The first turn is the first, by their places, of the turns of the cores that may issue. -/
theorem firstTurn_isFirst (s : State) :
    IsFirst s.placeOf (fun e => turnOf e.1 s) (s.cores.filter fun e => s.runnable e.1) s.firstTurn := by
  have folded : s.firstTurn =
      (s.cores.filter fun e => s.runnable e.1).foldl (keepFirst s.placeOf fun e => turnOf e.1 s) none := by
    unfold State.firstTurn
    congr 1
    funext best e
    cases best <;> rfl
  rw [folded]
  exact isFirst_foldl _ _ _

theorem firstTurn_eq_some {place o} (h : s.firstTurn = some (place, o)) :
    ∃ m, s.runnable m = true ∧ o = turnOf m s ∧ place = s.turnPlace m (s.turnClk m o) ∧
      ∀ e ∈ s.cores, s.runnable e.1 = true → place ≤ s.turnPlace e.1 (s.turnClk e.1 (turnOf e.1 s)) := by
  have first := firstTurn_isFirst s
  rw [h] at first
  obtain ⟨⟨e, he, heq⟩, least⟩ := first
  obtain ⟨rfl, rfl⟩ := Prod.mk.inj heq
  exact ⟨e.1, (List.mem_filter.mp he).2, rfl, rfl, fun y hy hr => least y (List.mem_filter.mpr ⟨hy, hr⟩)⟩

/-! ## A step -/

theorem step_of_stopWork {w} (h : s.stopWork = some w) : step s = exec w.2 { s with clk := max s.clk w.1 } := by
  simp only [step, h]

theorem step_of_core {rest} (h : s.stopWork = none) (ha : s.agenda = .core n :: rest) :
    step s = turnOf n { s with agenda := rest } := by
  simp only [step, h, ha]

theorem step_of_event {rest} (h : s.stopWork = none) (ha : s.agenda = .event i :: rest) :
    step s = if s.dark i then .next { s with agenda := rest } else exec i { s with agenda := rest } := by
  simp only [step, h, ha]

theorem step_of_shutDown (h : s.stopWork = none) (ha : s.agenda = []) (hr : s.run = .shutDown) :
    step s = .next { s with clk := s.clk + 1 } := by
  simp only [step, h, ha, hr, if_true]

theorem step_of_pending {es} (h : s.stopWork = none) (ha : s.agenda = []) (hr : s.run ≠ .shutDown) (hp : s.pending = i :: es) :
    step s = exec i { s with pending := es } := by
  simp only [step, h, ha, hr, hp, if_false]

/-- With nothing owed the first turn is taken (log 6). -/
theorem step_of_firstTurn {place o} (h : s.stopWork = none) (ha : s.agenda = []) (hr : s.run ≠ .shutDown) (hp : s.pending = [])
    (hf : s.firstTurn = some (place, o)) (hd : s.dueWork place = none) : step s = o := by
  simp only [step, h, ha, hr, hp, hf, hd, if_false]

/-- What the device has to do before the first turn it does first (log 6). -/
theorem step_of_due_before_turn {place o w} (h : s.stopWork = none) (ha : s.agenda = []) (hr : s.run ≠ .shutDown)
    (hp : s.pending = []) (hf : s.firstTurn = some (place, o)) (hd : s.dueWork place = some w) : step s = s.doWork w := by
  simp only [step, h, ha, hr, hp, hf, hd, if_false]

/-- With no core to issue and nothing to do a clk passes. -/
theorem step_of_quiet (h : s.stopWork = none) (ha : s.agenda = []) (hr : s.run ≠ .shutDown) (hp : s.pending = [])
    (hf : s.firstTurn = none) (hd : s.dueWork (4 * s.clk + 3) = none) : step s = .next { s with clk := s.clk + 1 } := by
  simp only [step, h, ha, hr, hp, hf, hd, if_false]

/-- With no core to issue the device does what is due in this clk. -/
theorem step_of_due {w} (h : s.stopWork = none) (ha : s.agenda = []) (hr : s.run ≠ .shutDown) (hp : s.pending = [])
    (hf : s.firstTurn = none) (hd : s.dueWork (4 * s.clk + 3) = some w) : step s = s.doWork w := by
  simp only [step, h, ha, hr, hp, hf, hd, if_false]

end Sys2Proof.Machine

namespace Sys2Proof
open Machine

/-- Settles O53: after reset every core is as bring-up leaves it, and with nothing owed and no core to issue a clk passes. -/
theorem resetState : Obligations.ResetState := by
  refine ⟨rfl, rfl, rfl, rfl, rfl, rfl, fun n => ?_, step_reset⟩
  rw [core_reset]
  refine ⟨?_, rdG_initCore _ n, fun _ => rdP_initCore _ n, fun _ => rdK_initCore _ n, ?_, ?_, ?_, spad_initCore _ n,
    flights_initCore _ n, rfl⟩
  · rw [regs_initCore]
  · rw [regs_initCore]
  · rw [regs_initCore]
  · rw [regs_initCore, ← isServer_reset n]

/-- Settles O54: each clause is a case of the turn, of the first turn or of the step. -/
theorem stepRunsDecodedWord : Obligations.StepRunsDecodedWord := by
  intro s n place rest i bs c x o w w0 u v
  exact ⟨stepCore_of_owed,
    fun ho hf hd => ⟨stepCore_of_delayed ho hf hd, stepCore_of_aligned ho hf hd,
      fun ha => ⟨alignGang_of_no_followers ha, stepCore_of_alone ho hf hd ha⟩⟩,
    issueWithGang_alone, fun _ => issueWithGang_followed, stepCore_of_undecoded, stepCore_of_fetchTrap, stepCore_of_fetchWait,
    turnOf_of_holdsBad, fun hr hb => ⟨fun _ => turnOf_of_next hr hb, fun _ => turnOf_of_fault hr hb⟩, turnOf_of_not_runnable,
    step_of_stopWork, step_of_core, step_of_event, step_of_shutDown,
    fun h ha hr => ⟨fun _ => step_of_pending h ha hr,
      fun hp hf => ⟨step_of_firstTurn h ha hr hp hf, step_of_due_before_turn h ha hr hp hf⟩,
      fun hp hf => ⟨step_of_quiet h ha hr hp hf, step_of_due h ha hr hp hf⟩⟩,
    fun _ _ _ => ⟨rfl, rfl⟩, firstTurn_eq_some⟩

end Sys2Proof
end

section
/-! No step refuses (R12, R37): the meanings of words. Every word that decodes has its effect, or stops at an address with no memory. -/
namespace Sys2Proof.Machine
open Sys2Proof
variable {s : State}

/-! ## What a stop may say -/

/-- A fault names a physical address that lies outside the stacks and outside the fabric (R491, R516; log 142). -/
def Fault.Unbacked : Fault → Prop
  | .noPhysicalMemory pa => physOk pa = false

/-- An outcome is a meaning: it is no refusal, and a fault of it names an address with no memory behind it. -/
def Meant : Host.Outcome State Fault Refusal → Prop
  | .next _ => True
  | .fault f => f.Unbacked
  | .refused _ => False

/-- The effect of a word ends with no fault but at an address with no memory behind it. -/
def Eff.Meant : Eff → Prop
  | .fault f => f.Unbacked
  | _ => True

/-- What stops a translation for want of memory has none. -/
def XErr.Meant : XErr → Prop
  | .noMemory pa => physOk pa = false
  | _ => True
/-- What stops an access of an agent for want of memory has none. -/
def AStop.Meant : AStop → Prop
  | .noMemory pa => physOk pa = false
  | _ => True
/-- What stops an access of the hardware for want of memory has none. -/
def HwErr.Meant : HwErr → Prop
  | .noMemory pa => physOk pa = false
  | _ => True
/-- The same where a preserve area is restored. -/
def KeepErr.Meant : KeepErr → Prop
  | .hw e _ => e.Meant
  | .damaged => True

/-- Where an operation fails, its error is one of `P`. -/
def FailsAs {ε α : Type} (P : ε → Prop) : Except ε α → Prop
  | .ok _ => True
  | .error e => P e

theorem FailsAs.get {ε α : Type} {P : ε → Prop} {x : Except ε α} {e : ε} (h : FailsAs P x) (hr : x = .error e) : P e := by
  subst hr
  exact h
theorem FailsAs.ok {ε α : Type} {P : ε → Prop} {a : α} : FailsAs P (.ok a : Except ε α) := trivial
theorem FailsAs.ite {ε α : Type} {P : ε → Prop} {p : Prop} {_ : Decidable p} {a b : Except ε α} (ha : FailsAs P a)
    (hb : FailsAs P b) : FailsAs P (if p then a else b) := by
  split <;> assumption
theorem Meant.ite {p : Prop} {_ : Decidable p} {a b : Host.Outcome State Fault Refusal} (ha : Meant a) (hb : Meant b) :
    Meant (if p then a else b) := by
  split <;> assumption
theorem Eff.Meant.ite {p : Prop} {_ : Decidable p} {a b : Eff} (ha : a.Meant) (hb : b.Meant) : (if p then a else b).Meant := by
  split <;> assumption
/-! ## The issue of a word -/

theorem finish_meant {h t e} (he : Eff.Meant e) : Meant (finish h t e) := by
  cases ho : finish h t e with
  | next t => trivial
  | fault f =>
    obtain rfl := finish_eq_fault ho
    exact he
  | refused r => exact absurd ho (finish_ne_refused _ _ _ r)

theorem Eff.Meant.unaged {old e} (he : Eff.Meant e) : (e.unaged old).Meant := by
  cases e with
  | fault f => exact he
  | _ => trivial

/-- A word has a meaning where its effect does. -/
theorem issueWord_meant {h d sa sb u eff} (he : ∀ s, Eff.Meant (eff s)) : Meant (issueWord h d sa sb u eff s) := by
  unfold issueWord
  refine .ite (finish_meant (he _).unaged) ?_
  split
  · trivial
  · exact .ite trivial (finish_meant (he _).unaged)

theorem issueCore_meant {h d sa sb u eff} : Meant (issueCore h d sa sb u eff s) := by
  unfold issueCore
  refine issueWord_meant fun s => ?_
  split <;> trivial

theorem scalarForm_meant {h srcs lat dst val} : Meant (scalarForm h srcs lat dst val s) := issueCore_meant
theorem gForm_meant {h d srcs lat val} : Meant (gForm h d srcs lat val s) := scalarForm_meant
theorem pForm_meant {h d srcs lat val} : Meant (pForm h d srcs lat val s) := scalarForm_meant
theorem divForm_meant {h d srcs lat eff} : Meant (divForm h d srcs lat eff s) := issueCore_meant

theorem faForm_meant {h d srcs rm f32 op} : Meant (faForm h d srcs rm f32 op s) := issueCore_meant
theorem fsForm_meant {h d srcs op} : Meant (fsForm h d srcs op s) := issueCore_meant

theorem execCmp_meant {h d a cc w src} : Meant (execCmp h d a cc w src s) := by
  unfold execCmp
  exact pForm_meant

theorem privileged_meant {k : State → Host.Outcome State Fault Refusal} (hk : Meant (k s)) : Meant (privileged s k) := .ite hk trivial
theorem wrsysForm_meant {h a n eff} (he : ∀ x s, Eff.Meant (eff x s)) : Meant (wrsysForm h a n eff s) :=
  .ite trivial (issueWord_meant fun s => he _ s)

theorem noStream_meant {xs k} (hk : ∀ s, Eff.Meant (k s)) : (noStream xs k s).Meant := by
  unfold noStream
  split
  · trivial
  · exact hk s

theorem groupHold_meant {a m n img k} (hk : ∀ s, Eff.Meant (k s)) : (groupHold a m n img k s).Meant := .ite (hk s) trivial

/-! ## Control flow, gangs and the event unit -/

theorem transferTo_meant {target link lx} : (transferTo s target link lx).Meant := by
  unfold transferTo
  refine .ite trivial ?_
  split <;> trivial

theorem startLoop_meant {len count} : (startLoop s len count).Meant := .ite trivial (.ite trivial trivial)
theorem startGang_meant {base num} : (startGang s base num).Meant := .ite trivial (.ite trivial trivial)

theorem splitGang_meant : (splitGang s).Meant := by
  unfold splitGang
  dsimp only
  split
  · trivial
  · exact .ite trivial (.ite trivial trivial)

theorem joinGang_meant : (joinGang s).Meant := by
  unfold joinGang
  dsimp only
  split
  · trivial
  · exact .ite trivial trivial

theorem signalEvent_meant {tgt e cnt} : (signalEvent tgt e cnt s).Meant := by
  unfold signalEvent
  dsimp only
  split
  · refine .ite trivial ?_
    split <;> trivial
  · refine .ite trivial ?_
    split <;> trivial

theorem arriveAt_meant {i b contrib wr sync kind} : (arriveAt i b contrib wr sync kind s).Meant := .ite trivial (.ite trivial trivial)

theorem execEvsigUnlock_meant {h m} : Meant (execEvsigUnlock h m s) := issueWord_meant fun _ => .ite trivial (.ite trivial trivial)
theorem execLdevWait_meant {h d e} : Meant (execLdevWait h d e s) := issueWord_meant fun _ => .ite trivial (.ite trivial trivial)
theorem execLdevPoll_meant {h d e} : Meant (execLdevPoll h d e s) := issueWord_meant fun _ => .ite trivial trivial
theorem execLdevLock_meant {h d m} : Meant (execLdevLock h d m s) :=
  issueWord_meant fun _ => .ite trivial (.ite trivial (.ite trivial trivial))
theorem execLdevTry_meant {h d m} : Meant (execLdevTry h d m s) :=
  issueWord_meant fun _ => .ite trivial (.ite trivial (.ite trivial trivial))

theorem execPhase_meant {h b} : Meant (execPhase h b s) :=
  .ite trivial (issueWord_meant fun _ => .ite trivial arriveAt_meant)

theorem execEventMessage_meant {m} : Meant (execEventMessage m s) := .ite trivial trivial
theorem execBarrierReleaseMessage_meant {m} : Meant (execBarrierReleaseMessage m s) := .ite trivial trivial

/-! ## Local memory -/

theorem loadScalar_meant {a len p wr} : (loadScalar a len p wr s).Meant := .ite trivial trivial

theorem execLd_meant {h d a sz zx imm} : Meant (execLd h d a sz zx imm s) := by
  refine issueWord_meant fun s => .ite trivial ?_
  split
  · trivial
  · exact .ite trivial (.ite trivial trivial)
  · exact .ite trivial loadScalar_meant

theorem execSt_meant {h a b sz imm} : Meant (execSt h a b sz imm s) := by
  refine issueWord_meant fun s => .ite trivial ?_
  split
  · trivial
  · exact .ite trivial (.ite trivial (.ite trivial trivial))
  · exact .ite trivial trivial

theorem execKld_meant {h d a imm} : Meant (execKld h d a imm s) := by
  refine issueWord_meant fun s => .ite trivial ?_
  split
  · trivial
  · trivial
  · exact loadScalar_meant

theorem execKst_meant {h a b imm} : Meant (execKst h a b imm s) := by
  refine issueWord_meant fun s => .ite trivial ?_
  split <;> trivial

theorem loadGroup_meant {a d tag tw t passes left i} : (loadGroup a d tag tw t passes left i s).Meant := by
  induction left generalizing i s with
  | zero => trivial
  | succ left ih =>
    unfold loadGroup
    dsimp only
    split
    · trivial
    · exact ih

theorem storeGroup_meant {a b n passes img left i} : (storeGroup a b n passes img left i s).Meant := by
  induction left generalizing i s with
  | zero =>
    unfold storeGroup
    split <;> trivial
  | succ left ih =>
    unfold storeGroup
    refine .ite trivial ?_
    split
    · trivial
    · exact ih

theorem execVld_meant {h tag d a x imm} : Meant (execVld h tag d a x imm s) :=
  issueWord_meant fun _ => noStream_meant fun _ => groupHold_meant fun _ => loadGroup_meant

theorem execVldImg_meant {h d a x imm} : Meant (execVldImg h d a x imm s) := by
  refine issueWord_meant fun _ => noStream_meant fun _ => groupHold_meant fun s => ?_
  split
  · trivial
  · exact loadGroup_meant

theorem execVst_meant {h a b x imm} : Meant (execVst h a b x imm s) :=
  issueWord_meant fun _ => noStream_meant fun _ => groupHold_meant fun _ => storeGroup_meant

theorem execVstImg_meant {h a b x imm} : Meant (execVstImg h a b x imm s) := by
  refine issueWord_meant fun _ => noStream_meant fun _ => groupHold_meant fun s => ?_
  split
  · trivial
  · exact storeGroup_meant

theorem execVldl_meant {h tag d a km imm} : Meant (execVldl h tag d a km imm s) := by
  refine issueWord_meant fun _ => noStream_meant fun s => ?_
  dsimp only
  split
  · trivial
  · split
    · trivial
    · split <;> trivial

theorem execVstl_meant {h a b km imm} : Meant (execVstl h a b km imm s) := by
  refine issueWord_meant fun _ => noStream_meant fun s => ?_
  dsimp only
  split
  · trivial
  · split
    · trivial
    · split <;> trivial

theorem execVgath_meant {h tag d a b km} : Meant (execVgath h tag d a b km s) := by
  refine issueWord_meant fun _ => noStream_meant fun s => .ite trivial ?_
  split
  · trivial
  · split
    · trivial
    · split <;> trivial

theorem execVscat_meant {h d a b km} : Meant (execVscat h d a b km s) := by
  refine issueWord_meant fun _ => noStream_meant fun s => .ite trivial ?_
  split
  · trivial
  · split
    · trivial
    · split <;> trivial

end Sys2Proof.Machine
end

section
/-! No step refuses: global memory, vectors, the cluster array and messages. -/
namespace Sys2Proof.Machine
open Sys2Proof
variable {s : State}

/-! ## Global memory -/

/-- A translation that ends without memory has found none: what raises the stop is the check of the address itself (R491, R516). -/
theorem xlate_meant {n va r} : FailsAs XErr.Meant (s.xlate n va r) := by
  unfold State.xlate
  extract_lets c hit
  refine .ite trivial ?_
  clear_value hit
  cases hit with
  | none => trivial
  | some e =>
    refine .ite trivial ?_
    split
    · rename_i none_there
      exact (Bool.not_eq_true' _).mp none_there
    · trivial

theorem xlateChecked_meant {n va len align r} : FailsAs XErr.Meant (s.xlateChecked n va len align r) :=
  .ite trivial (.ite trivial xlate_meant)

theorem xlateWords_meant {n va r k} : FailsAs XErr.Meant (s.xlateWords n va r k) := by
  induction k generalizing va with
  | zero => trivial
  | succ k ih =>
    unfold State.xlateWords
    split
    · rename_i he
      exact xlateChecked_meant.get he
    · split
      · rename_i he
        exact ih.get he
      · trivial

theorem xerr_meant {i done e} (he : XErr.Meant e) : (xerr s i done e).Meant := by
  cases e with
  | noMemory pa => exact he
  | _ => trivial

theorem gldEff_meant {i d a sz zx imm} : (gldEff i d a sz zx imm s).Meant := by
  refine .ite trivial ?_
  split
  · rename_i he
    exact xerr_meant (xlateChecked_meant.get he)
  · exact .ite trivial trivial

theorem gstEff_meant {i a b sz imm} : (gstEff i a b sz imm s).Meant := by
  refine .ite trivial ?_
  split
  · rename_i he
    exact xerr_meant (xlateChecked_meant.get he)
  · trivial

theorem gloadGroup_meant {ins a d tag tw left i} : (gloadGroup ins a d tag tw left i s).Meant := by
  induction left generalizing i s with
  | zero => trivial
  | succ left ih =>
    unfold gloadGroup
    split
    · rename_i he
      exact xerr_meant (xlateWords_meant.get he)
    · exact ih

theorem gstoreGroup_meant {ins a b n img left i} : (gstoreGroup ins a b n img left i s).Meant := by
  induction left generalizing i s with
  | zero =>
    unfold gstoreGroup
    split <;> trivial
  | succ left ih =>
    unfold gstoreGroup
    refine .ite trivial ?_
    split
    · rename_i he
      exact xerr_meant (xlateWords_meant.get he)
    · exact ih

theorem gldVEff_meant {ins tag d a x imm} : (gldVEff ins tag d a x imm s).Meant :=
  noStream_meant fun _ => groupHold_meant fun _ => gloadGroup_meant

theorem gldImgEff_meant {ins d a x imm} : (gldImgEff ins d a x imm s).Meant := by
  refine noStream_meant fun _ => groupHold_meant fun s => ?_
  split
  · rename_i he
    exact xerr_meant (xlateChecked_meant.get he)
  · exact gloadGroup_meant

theorem gstVEff_meant {ins a b x imm} : (gstVEff ins a b x imm s).Meant :=
  noStream_meant fun _ => groupHold_meant fun _ => gstoreGroup_meant

theorem gstImgEff_meant {ins a b x imm} : (gstImgEff ins a b x imm s).Meant := by
  refine noStream_meant fun _ => groupHold_meant fun s => ?_
  split
  · rename_i he
    exact xerr_meant (xlateChecked_meant.get he)
  · exact gstoreGroup_meant

theorem maintPages_meant {op hi k va} : (maintPages op hi k va s).Meant := by
  induction k generalizing va s with
  | zero => trivial
  | succ k ih =>
    unfold maintPages
    refine .ite trivial (.ite trivial ?_)
    split
    · exact ih
    · exact .ite trivial (.ite ih ih)

theorem maintEff_meant {op a b} : (maintEff op a b s).Meant := .ite trivial (.ite trivial (.ite trivial maintPages_meant))

theorem execPref_meant {h a l2 imm} : Meant (execPref h a l2 imm s) := by
  refine issueWord_meant fun s => .ite trivial ?_
  split
  · trivial
  · exact .ite trivial (.ite trivial (.ite trivial trivial))

theorem execL1dEviction_meant {cl line swm} : Meant (execL1dEviction cl line swm s) := by
  unfold execL1dEviction
  split <;> trivial

theorem atomicEff_meant {ins scope dbl x f out} : (atomicEff ins scope dbl x f out s).Meant := by
  unfold atomicEff
  extract_lets n len ret
  have answer (s : State) (old : Word) : (ret s old).Meant := by
    dsimp only [ret]
    split <;> trivial
  refine .ite trivial (.ite trivial (.ite ?_ ?_))
  · split
    · trivial
    · trivial
    · exact .ite trivial (answer _ _)
  · split
    · rename_i he
      exact xerr_meant (xlateChecked_meant.get he)
    · exact .ite (answer _ _) (.ite trivial (answer _ _))

theorem amoEff_meant {ins op d a b sz scope imm} : (amoEff ins op d a b sz scope imm s).Meant := by
  unfold amoEff
  exact atomicEff_meant
theorem casEff_meant {ins d a b sz scope imm} : (casEff ins d a b sz scope imm s).Meant := by
  unfold casEff
  exact atomicEff_meant
theorem redEff_meant {ins op a b sz scope imm} : (redEff ins op a b sz scope imm s).Meant := by
  unfold redEff
  exact atomicEff_meant

/-! ## Vectors -/

theorem VStop.eff_meant {e : VStop} : (e.eff s).Meant := by
  cases e with
  | bad a =>
    dsimp only [VStop.eff]
    split <;> trivial
  | _ => trivial

theorem Eff.Meant.orElse {e : Eff} (he : e.Meant) : (e.orElse s).Meant := by
  cases e with
  | fault f => exact he
  | _ => trivial

theorem putVec_meant {d x t lat stored} : (putVec d x t lat stored s).Meant := by
  unfold putVec
  split <;> trivial

theorem vecEff_meant {p d a b act f skip retag} : (vecEff p d a b act f skip retag s).Meant := by
  unfold vecEff
  split
  · exact VStop.eff_meant
  · exact putVec_meant.orElse

theorem vecForm_meant {h p d a b f skip} : Meant (vecForm h p d a b f skip s) := by
  unfold vecForm
  exact issueWord_meant fun _ => vecEff_meant

theorem vint2_meant {h code d a b stm km z op} : Meant (vint2 h code d a b stm km z op s) := vecForm_meant
theorem vfp_meant {h p code d a b rm op} : Meant (vfp h p code d a b rm op s) := by
  unfold vfp
  exact vecForm_meant
theorem vfBits_meant {h code d a b stm km z op} : Meant (vfBits h code d a b stm km z op s) := vecForm_meant
theorem vspec_meant {h fn code d a stm km z} : Meant (vspec h fn code d a stm km z s) := by
  unfold vspec
  exact vecForm_meant

theorem maskForm_meant {h p d a b f} : Meant (maskForm h p d a b f s) := by
  refine issueWord_meant fun s => ?_
  split
  · exact VStop.eff_meant
  · trivial

theorem convEff_meant {tag d a b allowA allowB rm stm chunk conv} :
    (convEff tag d a b allowA allowB rm stm chunk conv s).Meant := by
  unfold convEff
  extract_lets ts ws wd c p pick on clear w stored
  split
  · exact VStop.eff_meant
  · refine .ite trivial ?_
    split
    · exact VStop.eff_meant
    · exact putVec_meant.orElse

theorem execVscl_meant {h tag d a j} : Meant (execVscl h tag d a j s) := by
  refine issueWord_meant fun s => ?_
  dsimp only
  split
  · exact VStop.eff_meant
  · exact putVec_meant.orElse

theorem redForm_meant {h code lat fpb d a stm km empty op skip} : Meant (redForm h code lat fpb d a stm km empty op skip s) := by
  unfold redForm
  refine issueWord_meant fun s => ?_
  dsimp only
  split
  · exact VStop.eff_meant
  · exact putVec_meant.orElse

theorem permForm_meant {h w allowA d a b num stm km z f} : Meant (permForm h w allowA d a b num stm km z f s) :=
  issueWord_meant fun _ => vecEff_meant

theorem execVbcast_meant {h code d stm km z src} : Meant (execVbcast h code d stm km z src s) := by
  unfold execVbcast
  dsimp only
  split
  · exact permForm_meant
  · exact issueWord_meant fun _ => vecEff_meant

theorem execVperm_meant {h wc d a b stm km z} : Meant (execVperm h wc d a b stm km z s) := by
  unfold execVperm
  exact permForm_meant

theorem execVslidedn_meant {h wc d a b stm km z imm} : Meant (execVslidedn h wc d a b stm km z imm s) := by
  unfold execVslidedn
  exact permForm_meant

theorem execViota_meant {h code d a stm km z imm} : Meant (execViota h code d a stm km z imm s) := by
  unfold execViota
  exact issueWord_meant fun _ => vecEff_meant

theorem execVext_meant {h wc d a b sx imm} : Meant (execVext h wc d a b sx imm s) := by
  refine issueWord_meant fun _ => noStream_meant fun s => ?_
  dsimp only
  split <;> trivial

theorem execVins_meant {h wc d a b imm} : Meant (execVins h wc d a b imm s) := by
  refine issueWord_meant fun _ => noStream_meant fun s => ?_
  dsimp only
  split <;> trivial

theorem execVmovgFromG_meant {h code d a} : Meant (execVmovgFromG h code d a s) :=
  issueWord_meant fun _ => noStream_meant fun _ => trivial

theorem execVmovgToG_meant {h d a} : Meant (execVmovgToG h d a s) := by
  refine issueWord_meant fun _ => noStream_meant fun s => ?_
  dsimp only
  split <;> trivial

theorem kForm_meant {h d srcs val} : Meant (kForm h d srcs val s) := scalarForm_meant

theorem execKmov_meant {h o} : Meant (execKmov h o s) := by
  unfold execKmov
  split
  · exact kForm_meant
  · exact kForm_meant
  · exact scalarForm_meant

theorem execMovp_meant {h o} : Meant (execMovp h o s) := by
  unfold execMovp
  split <;> exact scalarForm_meant

theorem execScfg_meant {h d a port imm} : Meant (execScfg h d a port imm s) := by
  refine issueWord_meant fun s => .ite trivial (.ite trivial ?_)
  split
  · trivial
  · refine .ite trivial ?_
    dsimp only
    split <;> trivial

theorem execVloop_meant {h len port} : Meant (execVloop h len port s) := by
  refine issueWord_meant fun s => ?_
  split
  · trivial
  · exact startLoop_meant

theorem execStreamChunkArrive_meant {core port} : Meant (execStreamChunkArrive core port s) := by
  unfold execStreamChunkArrive
  split
  · trivial
  · refine .ite trivial (.ite trivial ?_)
    split <;> trivial

/-! ## Modular arithmetic and the butterfly network -/

theorem modWord_meant {h d a b more u set eff} (he : ∀ s, Eff.Meant (eff s)) : Meant (modWord h d a b more u set eff s) := by
  refine issueWord_meant fun _ => noStream_meant fun s => ?_
  split
  · exact .ite (he s) trivial
  · exact he s

theorem modForm_meant {h p set d a b f} : Meant (modForm h p set d a b f s) := modWord_meant fun _ => vecEff_meant

theorem loadSetWord_meant {h a b ops m gap bad q mu} : Meant (loadSetWord h a b ops m gap bad q mu s) := by
  refine modWord_meant fun s => ?_
  dsimp only
  split
  · trivial
  · split <;> trivial

theorem pairWord_meant {h d a km set lat busy allow f} : Meant (pairWord h d a km set lat busy allow f s) := by
  refine modWord_meant fun s => ?_
  dsimp only
  split <;> trivial

theorem bflyWord_meant {h d a m km f} : Meant (bflyWord h d a m km f s) := pairWord_meant

theorem lanePerm_meant {h d a from_} : Meant (lanePerm h d a from_ s) := by
  refine modWord_meant fun s => ?_
  dsimp only
  split <;> trivial

theorem execVcmul_meant {h d a b rm cj km z} : Meant (execVcmul h d a b rm cj km z s) := by
  unfold execVcmul
  refine modWord_meant fun s => ?_
  split
  · trivial
  · exact vecEff_meant

/-! ## The cluster array -/

theorem zCheck_meant {own k} (hk : ∀ sh s, Eff.Meant (k sh s)) : (zCheck own k s).Meant := by
  unfold zCheck
  dsimp only
  split
  · trivial
  · split
    · exact hk _ s
    · exact .ite (hk _ s) trivial

theorem zQueue_meant {sh t k} : (zQueue sh t k s).Meant := .ite trivial trivial

theorem zAccept_meant {sh t k} : (zAccept sh t k s).Meant := by
  unfold zAccept
  split
  · trivial
  · exact zQueue_meant

theorem readHeads_meant {xa xb ca oa cb ob} : (readHeads xa xb ca oa cb ob s).Meant := .ite trivial (.ite trivial trivial)

theorem mmaHeads_meant {sparse tag d t sc sh xa xb ca oa cb ob ha hb} :
    (mmaHeads sparse tag d t sc sh xa xb ca oa cb ob ha hb s).Meant := by
  refine .ite trivial (.ite trivial (.ite trivial (.ite trivial ?_)))
  split
  · trivial
  · exact zAccept_meant

theorem mmaEff_meant {sparse tag d a b t sc} : (mmaEff sparse tag d a b t sc s).Meant := by
  refine zCheck_meant fun sh s => .ite trivial (.ite trivial ?_)
  split
  · trivial
  · trivial
  · split
    · exact .ite trivial mmaHeads_meant
    · exact .ite trivial (.ite trivial (.ite trivial readHeads_meant))

theorem execZalloc_meant {h d t} : Meant (execZalloc h d t s) := issueWord_meant fun _ => zCheck_meant fun _ _ => trivial
theorem execZfree_meant {h t} : Meant (execZfree h t s) := issueWord_meant fun _ => zCheck_meant fun _ _ => .ite trivial trivial
theorem execZzero_meant {h i32 t} : Meant (execZzero h i32 t s) := issueWord_meant fun _ => zCheck_meant fun _ _ => zQueue_meant

theorem execZldc_meant {h i32 a t stride} : Meant (execZldc h i32 a t stride s) := by
  refine issueWord_meant fun _ => zCheck_meant fun sh s => ?_
  split
  · trivial
  · exact zQueue_meant

theorem execZstore_meant {h dt a rm t stride} : Meant (execZstore h dt a rm t stride s) := by
  refine issueWord_meant fun _ => zCheck_meant fun sh s => .ite trivial (.ite trivial (.ite trivial ?_))
  split
  · trivial
  · exact zQueue_meant

theorem execZread_meant {h d a x t c} : Meant (execZread h d a x t c s) :=
  issueWord_meant fun _ => noStream_meant fun _ => zCheck_meant fun _ _ => .ite trivial (.ite trivial (.ite trivial trivial))
theorem execZwm_meant {h d t} : Meant (execZwm h d t s) := issueWord_meant fun _ => zCheck_meant fun _ _ => trivial
theorem execZwait_meant {h a t imm} : Meant (execZwait h a t imm s) := issueWord_meant fun _ => zCheck_meant fun _ _ => .ite trivial trivial

theorem execZscl_meant {h a b sideB j q} : Meant (execZscl h a b sideB j q s) := by
  refine issueWord_meant fun _ => noStream_meant fun _ => zCheck_meant fun sh s => ?_
  split
  · trivial
  · exact .ite trivial trivial

theorem execZstatT_meant {h d t clr} : Meant (execZstatT h d t clr s) := issueWord_meant fun _ => zCheck_meant fun _ _ => trivial
theorem execZstatF_meant {h d clr} : Meant (execZstatF h d clr s) := issueWord_meant fun _ => zCheck_meant fun _ _ => trivial
theorem execZstatS_meant {h d} : Meant (execZstatS h d s) := issueWord_meant fun _ => zCheck_meant fun _ _ => trivial

/-! ## Channels and timed communication -/

theorem declareEff_meant {d a ch slot} : (declareEff d a ch slot s).Meant := by
  refine .ite trivial ?_
  split
  · trivial
  · exact .ite trivial trivial

theorem execChdeclRel_meant {h ch} : Meant (execChdeclRel h ch s) := by
  refine issueWord_meant fun s => ?_
  dsimp only
  split
  · trivial
  · exact .ite trivial (.ite trivial trivial)

theorem execChannelClaim_meant {m} : Meant (execChannelClaim m s) := .ite trivial trivial

theorem execChannelClaimAnswer_meant {m granted} : Meant (execChannelClaimAnswer m granted s) := by
  unfold execChannelClaimAnswer
  split
  · trivial
  · dsimp only
    split <;> trivial

theorem execChsend_meant {h b ch} : Meant (execChsend h b ch s) := by
  refine issueWord_meant fun _ => noStream_meant fun s => .ite trivial ?_
  split
  · trivial
  · refine .ite trivial ?_
    split
    · trivial
    · exact .ite trivial trivial

theorem execChrecv_meant {h d slot} : Meant (execChrecv h d slot s) :=
  issueWord_meant fun _ => noStream_meant fun _ => .ite trivial (.ite trivial trivial)
theorem execChpoll_meant {h d slot pf} : Meant (execChpoll h d slot pf s) :=
  issueWord_meant fun _ => noStream_meant fun _ => .ite trivial trivial
theorem execChannelMessageLand_meant {core slot m} : Meant (execChannelMessageLand core slot m s) :=
  .ite trivial (.ite trivial trivial)

theorem execChannelGrant_meant {core ch} : Meant (execChannelGrant core ch s) := by
  unfold execChannelGrant
  split <;> trivial

theorem timedEntry_meant {k send go} (hg : ∀ e, Eff.Meant (go e)) : (timedEntry k send s go).Meant := by
  refine .ite trivial ?_
  split
  · trivial
  · exact .ite trivial (.ite trivial (hg _))

theorem execTsend_meant {h b k} : Meant (execTsend h b k s) := by
  refine .ite trivial (issueWord_meant fun _ => noStream_meant fun s => timedEntry_meant fun e => ?_)
  dsimp only
  split
  · trivial
  · split <;> trivial

theorem execTimedMessageLand_meant {core land m} : Meant (execTimedMessageLand core land m s) := .ite trivial trivial

theorem execTrecv_meant {h d k} : Meant (execTrecv h d k s) := by
  refine .ite trivial (issueWord_meant fun _ => noStream_meant fun s => timedEntry_meant fun e => ?_)
  dsimp only
  split <;> trivial

end Sys2Proof.Machine
end

section
/-! No step refuses: agents, commands, tasks, domains and the system. -/
namespace Sys2Proof.Machine
open Sys2Proof
variable {s : State}

/-! ## Agents -/

theorem agentXlate_meant {g va r} : FailsAs AStop.Meant (s.agentXlate g va r) := by
  unfold State.agentXlate
  extract_lets d found
  have walked : FailsAs AStop.Meant found := by
    dsimp only [found]
    split
    · trivial
    · split
      · trivial
      · cases g.sup <;> trivial
  refine .ite trivial ?_
  clear_value found
  cases found with
  | error e => exact walked
  | ok x =>
    refine .ite trivial ?_
    split
    · rename_i none_there
      exact (Bool.not_eq_true' _).mp none_there
    · trivial

theorem agentRead1_meant {g a n} : FailsAs AStop.Meant (s.agentRead1 g a n) := by
  refine .ite ?_ (.ite trivial ?_)
  · split
    · trivial
    · trivial
    · refine .ite trivial ?_
      split <;> trivial
  · split
    · rename_i he
      exact agentXlate_meant.get he
    · exact .ite trivial trivial

theorem agentWrite1_meant {g a bs} : FailsAs AStop.Meant (s.agentWrite1 g a bs) := by
  refine .ite ?_ (.ite trivial ?_)
  · split <;> trivial
  · split
    · rename_i he
      exact agentXlate_meant.get he
    · trivial

theorem AStop.Meant.behind {e : AStop} (he : e.Meant) : (e.behind s).Meant := by
  cases e with
  | noMemory pa => exact he
  | _ => trivial

theorem AStop.Meant.split {e : AStop} (he : e.Meant) : (e.split s).2.Meant := by
  cases e with
  | noMemory pa => exact he
  | _ => trivial

theorem agentRead_meant {g a fuel n} : FailsAs AStop.Meant (s.agentRead g a fuel n) := by
  induction fuel generalizing s g a n with
  | zero => trivial
  | succ fuel ih =>
    unfold State.agentRead
    refine .ite trivial ?_
    dsimp only
    split
    · rename_i he
      exact agentRead1_meant.get he
    · refine .ite trivial ?_
      split
      · rename_i he
        exact (ih.get he).behind
      · trivial

theorem agentBytes_meant {g a n} : FailsAs AStop.Meant (s.agentBytes g a n) := agentRead_meant

theorem agentWrite_meant {g a fuel bs} : FailsAs AStop.Meant (s.agentWrite g a fuel bs) := by
  induction fuel generalizing s g a bs with
  | zero => trivial
  | succ fuel ih =>
    unfold State.agentWrite
    refine .ite trivial ?_
    dsimp only
    split
    · rename_i he
      exact agentWrite1_meant.get he
    · refine .ite trivial ?_
      split
      · rename_i he
        exact (ih.get he).behind
      · exact ih

theorem agentStore_meant {g a bs} : FailsAs AStop.Meant (s.agentStore g a bs) := agentWrite_meant

/-! ## The work of commands -/

theorem stopCmd_meant {n c e} (he : AStop.Meant e) : Meant (s.stopCmd n c e) := by
  cases e with
  | noMemory pa => exact he
  | _ => trivial

theorem readPiece_meant {n c a len} : FailsAs AStop.Meant (s.readPiece n c a len) := by
  unfold State.readPiece
  split
  · rename_i he
    exact agentBytes_meant.get he
  · trivial

theorem writePiece_meant {n c a bs} : FailsAs AStop.Meant (s.writePiece n c a bs) := by
  unfold State.writePiece
  dsimp only
  split
  · rename_i he
    exact agentStore_meant.get he
  · trivial

theorem movePiece_meant {n c srcBase src dstBase dst len} : FailsAs AStop.Meant (s.movePiece n c srcBase src dstBase dst len) := by
  refine .ite trivial (.ite trivial ?_)
  split
  · rename_i he
    exact readPiece_meant.get he
  · split
    · rename_i he
      exact (writePiece_meant.get he).behind
    · trivial

theorem readRows_meant {n c srca rowBytes stride left i} : FailsAs AStop.Meant (s.readRows n c srca rowBytes stride left i) := by
  induction left generalizing s c i with
  | zero => trivial
  | succ left ih =>
    refine .ite trivial ?_
    split
    · rename_i he
      exact readPiece_meant.get he
    · split
      · rename_i he
        exact (ih.get he).behind
      · trivial

theorem tilePiece_meant {n c dsta} : FailsAs AStop.Meant (s.tilePiece n c dsta) := by
  unfold State.tilePiece
  refine .ite trivial ?_
  split
  · rename_i he
    exact writePiece_meant.get he
  · trivial

theorem rowPiece_meant {n c scatter tbl lst idxa rowb tstr nrows} :
    FailsAs AStop.Meant (s.rowPiece n c scatter tbl lst idxa rowb tstr nrows) := by
  unfold State.rowPiece
  extract_lets r o a idx at_
  have read : FailsAs AStop.Meant idx := by
    dsimp only [idx]
    split
    · trivial
    · refine .ite trivial ?_
      split
      · rename_i he
        exact agentBytes_meant.get he
      · trivial
  clear_value idx
  cases idx with
  | error e => exact read
  | ok x => exact .ite trivial (.ite movePiece_meant movePiece_meant)

/-- A step of a command's work that stops it stops it at an address with no memory behind it, where it does so for want of memory. -/
def Adv.Meant : Adv → Prop
  | .stop _ _ e => e.Meant
  | _ => True
theorem Adv.Meant.ite {p : Prop} {_ : Decidable p} {a b : Adv} (ha : a.Meant) (hb : b.Meant) : (if p then a else b).Meant := by
  split <;> assumption
theorem Adv.Meant.of {c x} (hx : FailsAs AStop.Meant x) : (Adv.of s c x).Meant := by
  cases x with
  | ok y => trivial
  | error e => exact hx

theorem scalePiece_meant {n c conv seq sca quarters k} : (s.scalePiece n c conv seq sca quarters k).Meant := by
  unfold State.scalePiece
  dsimp only
  split
  · trivial
  · refine .ite trivial (.ite trivial ?_)
    split
    · rename_i he
      exact agentBytes_meant.get he
    · trivial

theorem advance_meant {n c} : (s.advance n c).Meant := by
  unfold State.advance
  split
  · exact .of movePiece_meant
  · refine .ite ?_ (.ite (.of tilePiece_meant) scalePiece_meant)
    split
    · rename_i he
      exact readRows_meant.get he
    · trivial
  · exact .of rowPiece_meant
  · refine .ite trivial ?_
    split
    · rename_i he
      exact writePiece_meant.get he
    · trivial
  · refine .ite trivial (.ite trivial ?_)
    split
    · rename_i he
      exact writePiece_meant.get he
    · trivial
  · refine .ite trivial (.ite trivial ?_)
    split
    · rename_i he
      exact readPiece_meant.get he
    · trivial
  · trivial

theorem writeDone_meant {n c} : Meant (s.writeDone n c) := by
  unfold State.writeDone
  extract_lets w
  have stored : FailsAs AStop.Meant w := .ite agentStore_meant trivial
  clear_value w
  cases w with
  | error e => exact stopCmd_meant stored
  | ok x => trivial

theorem completeCmd_meant {n c} : Meant (s.completeCmd n c) := by
  unfold State.completeCmd
  split
  · exact stopCmd_meant trivial
  · exact .ite (stopCmd_meant trivial) writeDone_meant
  · exact writeDone_meant

theorem runCmd_meant {n fuel c} : Meant (State.runCmd n fuel c s) := by
  induction fuel generalizing c s with
  | zero => trivial
  | succ fuel ih =>
    refine .ite completeCmd_meant ?_
    have advanced := advance_meant (s := s) (n := n) (c := c)
    split
    · exact ih
    · trivial
    · rename_i hr
      rw [hr] at advanced
      exact stopCmd_meant advanced

theorem execCommandComplete_meant {core cls seq} : Meant (execCommandComplete core cls seq s) := by
  unfold execCommandComplete
  split
  · trivial
  · exact .ite runCmd_meant trivial

theorem execCommandFail_meant {core cls seq} : Meant (execCommandFail core cls seq s) := by
  unfold execCommandFail
  split
  · trivial
  · split <;> trivial

theorem readMembers_meant {ms} : FailsAs (fun e => e.2.2.Meant) (readMembers ms s) := by
  induction ms generalizing s with
  | nil => trivial
  | cons m ms ih =>
    unfold readMembers
    split
    · exact ih
    · split
      · rename_i he
        exact agentBytes_meant.get he
      · split
        · rename_i he
          exact ih.get he
        · trivial

theorem tryGeneration_meant {launch gid} : Meant (s.tryGeneration launch gid) := by
  unfold State.tryGeneration
  split
  · trivial
  · split
    · trivial
    · refine .ite trivial (.ite trivial ?_)
      dsimp only
      split
      · rename_i he
        exact stopCmd_meant (readMembers_meant.get he)
      · trivial

theorem addPair_meant {i} : Meant (s.addPair i) := by
  unfold State.addPair
  dsimp only
  split
  · trivial
  · split
    · split
      · trivial
      · split
        · trivial
        · refine .ite (stopCmd_meant trivial) ?_
          split
          · rename_i he
            exact stopCmd_meant (agentBytes_meant.get he)
          · split
            · rename_i he
              exact stopCmd_meant (agentStore_meant.get he)
            · trivial
    · trivial

theorem storageWork_meant {n c r media} : FailsAs AStop.Meant (s.storageWork n c r media) := by
  unfold State.storageWork
  extract_lets v g at_ len bad
  have buffer {e} (he : AStop.Meant e) : FailsAs AStop.Meant (bad e) := by
    dsimp only [bad]
    split
    · trivial
    · exact he.split
  refine .ite trivial (.ite trivial (.ite trivial (.ite ?_ (.ite ?_ (.ite trivial trivial)))))
  · split
    · trivial
    · rename_i he
      exact buffer (agentStore_meant.get he)
  · split
    · trivial
    · rename_i he
      exact buffer (agentBytes_meant.get he)

theorem storageEnd_meant {n c r} : Meant (s.storageEnd n c r) := by
  refine .ite (stopCmd_meant trivial) ?_
  split
  · rename_i he
    exact stopCmd_meant (agentStore_meant.get he)
  · trivial

theorem execStorageCompletion_meant {core seq mediaError} : Meant (execStorageCompletion core seq mediaError s) := by
  unfold execStorageCompletion
  split
  · trivial
  · split
    · refine .ite storageEnd_meant ?_
      split
      · rename_i he
        exact stopCmd_meant (storageWork_meant.get he)
      · exact storageEnd_meant
    · split
      · rename_i he
        exact agentBytes_meant.get he
      · trivial
    · trivial

theorem runAway_meant {ns fuel} : Meant (State.runAway ns fuel s) := by
  induction fuel generalizing s with
  | zero => trivial
  | succ fuel ih =>
    unfold State.runAway
    extract_lets mine
    split
    · trivial
    · extract_lets s1
      rename_i i found
      clear found
      have ran : Meant (match i with
        | .commandComplete n k q => execCommandComplete n k q s1
        | .commandFail n k q => execCommandFail n k q s1
        | .storageCompletion n q e => execStorageCompletion n q e s1
        | _ => s1.addPair 0) := by
        split
        · exact execCommandComplete_meant
        · exact execCommandFail_meant
        · exact execStorageCompletion_meant
        · exact addPair_meant
      split
      · exact ih
      · exact ran

theorem withAway_meant {p f} (hf : ∀ s, Meant (f s)) : Meant (s.withAway p f) := by
  refine .ite (hf s) ?_
  have ran := hf { s.exchange p with pending := [] }
  split
  · rename_i t _
    have away := runAway_meant (s := t) (ns := (s.awayCores p).map (·.1)) (fuel := 4 * (t.sumPairs.length + t.pending.length) + 132)
    split
    · trivial
    · exact away
  · exact ran

theorem reissueParked_meant {p n cls seq} : Meant (s.reissueParked p n cls seq) := .ite (withAway_meant fun _ => trivial) trivial

theorem execCollectiveGeneration_meant {lid vdev gid} : Meant (execCollectiveGeneration lid vdev gid s) := by
  unfold execCollectiveGeneration
  split
  · exact withAway_meant fun _ => tryGeneration_meant
  · exact tryGeneration_meant

/-! ## Engine instructions and the event crossbar -/

theorem acceptEff_meant {cmd zero term d} : (acceptEff cmd zero term d s).Meant := by
  unfold acceptEff
  extract_lets n seq s1 s2 s3
  split
  · trivial
  · refine .ite ?_ trivial
    have completed := execCommandComplete_meant (s := s3.startCmd n cmd.cls seq) (core := n) (cls := cmd.cls) (seq := seq)
    split
    · trivial
    · rename_i he
      rw [he] at completed
      exact completed
    · trivial

theorem descEff_meant {kinds term d a imm} : (descEff kinds term d a imm s).Meant := by
  unfold descEff
  extract_lets n x user first len
  refine .ite trivial ?_
  split
  · trivial
  · refine .ite trivial ?_
    dsimp only
    split
    · trivial
    · split
      · trivial
      · exact .ite trivial acceptEff_meant

theorem descForm_meant {h kinds term d a imm} : Meant (descForm h kinds term d a imm s) := issueWord_meant fun _ => descEff_meant
theorem execEvxarm_meant {h d a t imm} : Meant (execEvxarm h d a t imm s) := issueWord_meant fun _ => .ite trivial descEff_meant
theorem execXwait_meant {h a cls} : Meant (execXwait h a cls s) := issueWord_meant fun _ => .ite trivial (.ite trivial trivial)

theorem execXcancel_meant {h d a cls} : Meant (execXcancel h d a cls s) := by
  refine issueWord_meant fun s => ?_
  dsimp only
  split
  · trivial
  · split <;> trivial

theorem fenceEff_meant {scope paths} : (fenceEff scope paths s).Meant := .ite trivial (.ite trivial (.ite trivial trivial))
theorem execSring_meant {h d a r} : Meant (execSring h d a r s) :=
  issueWord_meant fun _ => .ite trivial (.ite trivial (.ite trivial (.ite trivial trivial)))
theorem execEvxcfgC_meant {h a i} : Meant (execEvxcfgC h a i s) := issueWord_meant fun _ => .ite trivial trivial
theorem execEvxcfgT_meant {h a b i} : Meant (execEvxcfgT h a b i s) := issueWord_meant fun _ => .ite trivial trivial
theorem execEvxcfgR_meant {h d term i} : Meant (execEvxcfgR h d term i s) := issueWord_meant fun _ => .ite trivial trivial
theorem execEvsigPulse_meant {h c cnt} : Meant (execEvsigPulse h c cnt s) := issueWord_meant fun _ => .ite trivial trivial

/-! ## Tasks and launches -/

theorem hwPa_meant {n va write} : FailsAs HwErr.Meant (s.hwPa n va write) := by
  refine .ite trivial ?_
  split
  · trivial
  · refine .ite trivial ?_
    split
    · rename_i none_there
      exact (Bool.not_eq_true' _).mp none_there
    · trivial

theorem hwPaEdit_meant {n va} : FailsAs HwErr.Meant (s.hwPaEdit n va) := by
  unfold State.hwPaEdit
  split
  · rename_i he
    exact hwPa_meant.get he
  · exact hwPa_meant

theorem hwReadToEdit_meant {n a len} : FailsAs HwErr.Meant (s.hwReadToEdit n a len) := by
  unfold State.hwReadToEdit
  split
  · rename_i he
    exact hwPaEdit_meant.get he
  · exact .ite trivial trivial

theorem hwWrite_meant {n a bs} : FailsAs HwErr.Meant (s.hwWrite n a bs) := by
  unfold State.hwWrite
  split
  · rename_i he
    exact hwPa_meant.get he
  · trivial

theorem hwEdit_meant {n r f} : FailsAs HwErr.Meant (s.hwEdit n r f) := by
  unfold State.hwEdit
  split
  · rename_i he
    exact hwPaEdit_meant.get he
  · exact .ite trivial trivial

theorem hwAtomic_meant {n a f} : FailsAs HwErr.Meant (s.hwAtomic n a f) := by
  unfold State.hwAtomic
  split
  · rename_i he
    exact hwPaEdit_meant.get he
  · exact .ite trivial (.ite trivial trivial)

theorem hwStop_meant {a e} (he : HwErr.Meant e) : (hwStop s a e).Meant := by
  cases e with
  | noMemory pa => exact he
  | _ => trivial

theorem tryEnqueue_meant {n p q e} : FailsAs HwErr.Meant (s.tryEnqueue n p q e) := by
  refine .ite trivial ?_
  split
  · rename_i he
    exact hwEdit_meant.get he
  · trivial

theorem endTaskEff_meant {n} : (endTaskEff n s).Meant := by
  unfold endTaskEff
  split
  · trivial
  · split
    · rename_i he
      exact hwStop_meant (hwEdit_meant.get he)
    · trivial

theorem execTaskPop_meant {core} : Meant (execTaskPop core s) := by
  unfold execTaskPop
  split
  · trivial
  · split <;> trivial

theorem execIdleSearchWiden_meant {core} : Meant (execIdleSearchWiden core s) := .ite trivial trivial

theorem spawnEff_meant {a count pri loc} : (spawnEff a count pri loc s).Meant := by
  unfold spawnEff
  extract_lets n c g q e
  refine .ite trivial (.ite trivial (.ite trivial ?_))
  split
  · rename_i he
    exact hwStop_meant (tryEnqueue_meant.get he)
  · trivial

theorem joinBlock_meant {d bs s0} : (joinBlock d bs s0 s).Meant := by
  unfold joinBlock
  refine .ite trivial ?_
  dsimp only
  split
  · rename_i he
    exact hwStop_meant (tryEnqueue_meant.get he)
  · trivial

theorem joinPlaces_meant {n x} : FailsAs XErr.Meant (s.joinPlaces n x) := by
  unfold State.joinPlaces
  split
  · trivial
  · rename_i he
    exact xlateChecked_meant.get he
  · rename_i he _
    exact xlateChecked_meant.get he
  · rename_i he _ _
    exact xlateChecked_meant.get he

theorem joinEff_meant {ins d a} : (joinEff ins d a s).Meant := by
  refine .ite trivial (.ite ?_ ?_)
  · split
    · trivial
    · trivial
    · exact .ite trivial joinBlock_meant
  · split
    · rename_i he
      exact xerr_meant (joinPlaces_meant.get he)
    · split
      · trivial
      · exact .ite trivial joinBlock_meant

theorem taskValue_meant {d x} : (taskValue d x s).Meant := by
  unfold taskValue
  split <;> trivial

theorem execLaunch_meant {h d a imm} : Meant (execLaunch h d a imm s) := by
  refine issueWord_meant fun s => .ite trivial ?_
  split
  · trivial
  · exact .ite trivial trivial

theorem execLaunchActivate_meant {v lid} : Meant (execLaunchActivate v lid s) := by
  unfold execLaunchActivate
  split
  · trivial
  · exact .ite trivial (.ite trivial (.ite trivial trivial))

theorem finishLaunch_meant {x} : Meant (s.finishLaunch x) := by
  unfold State.finishLaunch
  extract_lets done tag faults fcnt status now x' siga
  split
  · trivial
  · extract_lets g retry
    have again {e} (he : AStop.Meant e) : Meant (retry e) := by
      cases e with
      | noMemory pa => exact he
      | _ => trivial
    split
    · rename_i he
      exact again (agentStore_meant.get he)
    · split
      · rename_i he
        exact again (agentBytes_meant.get he)
      · split
        · rename_i he
          exact again (agentStore_meant.get he)
        · trivial

theorem execLaunchComplete_meant {v lid} : Meant (execLaunchComplete v lid s) := by
  unfold execLaunchComplete
  split
  · trivial
  · exact .ite finishLaunch_meant trivial

/-! ## Containment domains -/

theorem keepBytes_meant {n k a} : FailsAs KeepErr.Meant (s.keepBytes n k a) := by
  induction k generalizing s a with
  | zero => trivial
  | succ k ih =>
    unfold State.keepBytes
    split
    · rename_i he
      exact hwPa_meant.get he
    · refine .ite trivial ?_
      dsimp only
      split
      · rename_i he
        exact ih.get he
      · trivial

theorem keepEntries_meant {n base used fuel off} : FailsAs KeepErr.Meant (s.keepEntries n base used fuel off) := by
  induction fuel generalizing off with
  | zero => trivial
  | succ fuel ih =>
    refine .ite trivial ?_
    split
    · rename_i he
      exact keepBytes_meant.get he
    · refine .ite trivial ?_
      split
      · rename_i he
        exact keepBytes_meant.get he
      · split
        · rename_i he
          exact ih.get he
        · trivial

theorem restoreBytes_meant {p n o fuel a bs} : FailsAs KeepErr.Meant (s.restoreBytes p n o fuel a bs) := by
  induction fuel generalizing s a bs with
  | zero => trivial
  | succ fuel ih =>
    refine .ite trivial ?_
    extract_lets k next
    have wrote : FailsAs KeepErr.Meant next := by
      refine .ite ?_ ?_
      · split <;> trivial
      · split
        · rename_i he
          exact hwPa_meant.get he
        · trivial
    clear_value next
    cases next with
    | error e => exact wrote
    | ok s => exact ih

theorem snapBytes_meant {n k a} : FailsAs KeepErr.Meant (s.snapBytes n k a) := by
  induction k generalizing a with
  | zero => trivial
  | succ k ih =>
    unfold State.snapBytes
    split
    · rename_i he
      exact hwPa_meant.get he
    · trivial
    · refine .ite trivial ?_
      split
      · rename_i he
        exact ih.get he
      · trivial

theorem restoreEntry_meant {p n o x e} (hx : FailsAs KeepErr.Meant x) : FailsAs KeepErr.Meant (State.restoreEntry p n o x e) := by
  unfold State.restoreEntry
  split
  · exact hx
  · refine .ite ?_ restoreBytes_meant
    split
    · rename_i he
      exact snapBytes_meant.get he
    · exact restoreBytes_meant

theorem restoreArea_meant {p n bs} : FailsAs KeepErr.Meant (s.restoreArea p n bs) := by
  unfold State.restoreArea
  split
  · rename_i he
    exact keepEntries_meant.get he
  · exact List.foldlRecOn (motive := FailsAs KeepErr.Meant) _ _ trivial fun _ hx _ _ => restoreEntry_meant hx

theorem execCdopen_meant {h a} : Meant (execCdopen h a s) := by
  refine issueWord_meant fun s => .ite trivial (.ite trivial ?_)
  split
  · rename_i he
    exact hwStop_meant (hwReadToEdit_meant.get he)
  · refine .ite trivial ?_
    split
    · rename_i he
      exact hwStop_meant (hwEdit_meant.get he)
    · trivial

theorem globalRun_meant {n fuel a len} : FailsAs XErr.Meant (State.globalRun n fuel a len s) := by
  induction fuel generalizing a len s with
  | zero => trivial
  | succ fuel ih =>
    unfold State.globalRun
    refine .ite trivial ?_
    dsimp only
    split
    · rename_i he
      exact xlateChecked_meant.get he
    · split
      · rename_i he
        exact ih.get he
      · trivial

/-- A stop that a word may find, where it finds one, ends as an effect may. -/
def StopMeant (e : Option Eff) : Prop := ∀ x ∈ e, x.Meant

theorem StopMeant.none : StopMeant none := fun _ h => absurd h (Option.not_mem_none _)
theorem StopMeant.some {e : Eff} (h : e.Meant) : StopMeant (some e) := by
  rintro _ ⟨⟩
  exact h
theorem StopMeant.or {a b : Option Eff} (ha : StopMeant a) (hb : StopMeant b) : StopMeant (a.or b) := by
  cases a with
  | none => exact hb
  | some e => exact ha
theorem StopMeant.getD {a : Option Eff} {e : Eff} (ha : StopMeant a) (he : e.Meant) : (a.getD e).Meant := by
  cases a with
  | none => exact he
  | some x => exact ha x rfl

theorem loadRange_meant {ins a len bounds pre go} (hb : StopMeant bounds) (hp : StopMeant pre) (hg : ∀ s bs, Eff.Meant (go s bs)) :
    (loadRange ins a len bounds pre s go).Meant := by
  have stop := hb.or hp
  refine .ite (stop.getD (hg _ _)) (.ite trivial (.ite ?_ (.ite trivial ?_)))
  · split
    · trivial
    · trivial
    · exact .ite (stop.getD trivial) (stop.getD (hg _ _))
  · split
    · rename_i he
      exact hb.getD (xerr_meant (globalRun_meant.get he))
    · exact .ite (stop.getD trivial) (stop.getD (hg _ _))

theorem keepBounds_meant {a size} : StopMeant (keepBounds a size s) := by
  unfold keepBounds
  split
  · exact .some trivial
  · split
    · exact .some trivial
    · exact .none

theorem keepStop_meant {n a size} : StopMeant (keepStop n a size s) := by
  intro e found
  obtain ⟨i, -, stops⟩ := List.exists_of_findSome?_eq_some found
  split at stops
  · rename_i he
    obtain rfl := Option.some.inj stops
    exact hwStop_meant (hwPa_meant.get he)
  · exact absurd stops nofun

theorem keepWrite_meant {n k a bs} : FailsAs HwErr.Meant (s.keepWrite n k a bs) := by
  induction k generalizing s a bs with
  | zero => trivial
  | succ k ih =>
    unfold State.keepWrite
    split
    · rename_i he
      exact hwWrite_meant.get he
    · exact ih

theorem cdkeepEff_meant {ins a b snap} : (cdkeepEff ins a b snap s).Meant := by
  unfold cdkeepEff
  extract_lets n c x len size
  split
  · trivial
  · split
    · rename_i he
      exact hwStop_meant (hwReadToEdit_meant.get he)
    · extract_lets used at_ put bounds stop
      have record (s2 : State) (data : List Byte) : (put s2 data).Meant := by
        dsimp only [put]
        split
        · rename_i he
          exact hwStop_meant (keepWrite_meant.get he)
        · split
          · rename_i he
            exact hwStop_meant (hwEdit_meant.get he)
          · trivial
      exact .ite trivial (.ite ((keepBounds_meant.or keepStop_meant).getD (record _ _))
        (loadRange_meant keepBounds_meant keepStop_meant record))

theorem cdsigEff_meant {ins a b} : (cdsigEff ins a b s).Meant := by
  unfold cdsigEff
  dsimp only
  split
  · trivial
  · refine .ite trivial (loadRange_meant .none ?_ fun s1 bs => ?_)
    · split
      · rename_i he
        exact .some (hwStop_meant (hwPaEdit_meant.get he))
      · exact .none
    · split
      · rename_i he
        exact hwStop_meant (hwEdit_meant.get he)
      · trivial

theorem execCdclose_meant {h d} : Meant (execCdclose h d s) := by
  refine issueWord_meant fun s => ?_
  dsimp only
  split
  · trivial
  · split
    · rename_i he
      exact hwStop_meant (hwReadToEdit_meant.get he)
    · refine .ite trivial ?_
      split
      · rename_i he
        exact hwStop_meant (hwEdit_meant.get he)
      · split
        · rename_i he
          exact hwStop_meant ((FailsAs.ite .ok hwAtomic_meant).get he)
        · trivial

theorem abortStop_meant {n r} : StopMeant (s.abortStop n r) := by
  unfold State.abortStop
  split
  · rename_i he
    exact .some (hwStop_meant (hwReadToEdit_meant.get he))
  · split
    · rename_i he
      exact .some (hwStop_meant (restoreArea_meant.get he))
    · exact .none

theorem abortEff_meant {n r go} (hg : ∀ s, Eff.Meant (go s)) : (abortEff n r s go).Meant := by
  unfold abortEff
  have stop := abortStop_meant (s := s) (n := n) (r := r)
  split
  · rename_i hr
    exact stop _ hr
  · exact .ite trivial (.ite (hg _) trivial)

theorem execCdabort_meant {h} : Meant (execCdabort h s) := by
  refine issueWord_meant fun s => ?_
  dsimp only
  split
  · trivial
  · exact abortEff_meant fun _ => trivial

theorem execCdabortRetry_meant {h} : Meant (execCdabortRetry h s) := by
  refine issueWord_meant fun s => ?_
  split <;> trivial

theorem endTrapped_meant {n count fuel} : (endTrapped n count fuel s).Meant := by
  induction fuel generalizing s with
  | zero => exact endTaskEff_meant
  | succ fuel ih =>
    unfold endTrapped
    split
    · split
      · trivial
      · exact endTaskEff_meant
    · split
      · trivial
      · exact abortEff_meant fun _ => ih

theorem execTend_meant {h} : Meant (execTend h s) := by
  refine issueWord_meant fun s => .ite endTrapped_meant ?_
  split
  · trivial
  · exact .ite trivial endTaskEff_meant

theorem execDomainCharge_meant : Meant (execDomainCharge s) := by
  unfold execDomainCharge
  split
  · dsimp only
    split <;> trivial
  · split <;> trivial

theorem execAuditReplay_meant {sig2 sig3 unit2 unit3} : Meant (execAuditReplay sig2 sig3 unit2 unit3 s) := by
  unfold execAuditReplay
  split
  · trivial
  · exact .ite trivial (.ite trivial (.ite trivial (.ite trivial trivial)))

/-! ## Global accesses that complete later, and the members of a gang -/

/-- The words that a core may issue again as its access completes. -/
theorem accessEff_meant {i h f} (hi : accessEff i = some (h, f)) : (f s).Meant := by
  unfold accessEff at hi
  split at hi <;> cases hi
  · exact gldEff_meant
  · exact gstEff_meant
  · exact gldVEff_meant
  · exact gldImgEff_meant
  · exact gstVEff_meant
  · exact gstImgEff_meant
  · exact amoEff_meant
  · exact casEff_meant
  · exact redEff_meant
  · exact joinEff_meant
  · exact cdkeepEff_meant
  · exact cdsigEff_meant

theorem runAccess_meant {i} : Meant (runAccess i s) := by
  unfold runAccess
  split
  · exact issueWord_meant fun _ => gldEff_meant
  · exact issueWord_meant fun _ => gstEff_meant
  · exact issueWord_meant fun _ => gldVEff_meant
  · exact issueWord_meant fun _ => gldImgEff_meant
  · exact issueWord_meant fun _ => gstVEff_meant
  · exact issueWord_meant fun _ => gstImgEff_meant
  · exact issueWord_meant fun _ => amoEff_meant
  · exact issueWord_meant fun _ => casEff_meant
  · exact issueWord_meant fun _ => redEff_meant
  · exact issueWord_meant fun _ => joinEff_meant
  · exact issueWord_meant fun _ => cdkeepEff_meant
  · exact issueWord_meant fun _ => cdsigEff_meant
  · trivial

/-- The members of a gang answer as the meaning of words does. -/
theorem fanOut_meant {run i lead before} (hr : ∀ i s, Meant (run i s)) : Meant (fanOut run i lead before s) := by
  unfold fanOut
  extract_lets after one
  have member (o : Host.Outcome State Fault Refusal) (f : Nat × Nat) (ho : Meant o) : Meant (one o f) := by
    cases o with
    | next s =>
      refine .ite trivial (.ite trivial ?_)
      dsimp only
      split
      · trivial
      · exact hr _ _
    | fault f => exact ho
    | refused r => exact ho
  have all : Meant ((s.followers lead).foldl one (.next s)) :=
    List.foldlRecOn (motive := Meant) _ _ trivial fun o ho f _ => member o f ho
  split
  · trivial
  · exact all

theorem completeAccess_meant {n} : Meant (s.completeAccess n) := by
  unfold State.completeAccess
  extract_lets c back _ set awake
  clear_value awake
  split
  case h_3 => trivial
  all_goals
    split
    · trivial
    · rename_i h f hf
      obtain ⟨i, -, hi⟩ := Option.bind_eq_some_iff.mp hf
      have ran := finish_meant (h := h) (t := max c.tmg.clk awake.clk) (accessEff_meant (s := awake) hi)
      split
      · refine .ite trivial ?_
        split
        · trivial
        · exact fanOut_meant fun _ _ => runAccess_meant
      · exact ran

/-! ## The system -/

theorem execRdsys_meant {h d n} : Meant (execRdsys h d n s) := .ite trivial (issueWord_meant fun _ => .ite trivial trivial)

theorem execFbpop0Read_meant {h d} : Meant (execFbpop0Read h d s) := by
  refine privileged_meant (issueWord_meant fun s => ?_)
  dsimp only
  split <;> trivial

theorem execDerrpopRead_meant {h d} : Meant (execDerrpopRead h d s) := by
  refine privileged_meant (issueWord_meant fun s => ?_)
  dsimp only
  split <;> trivial

theorem execSlotctlGo_meant {h a} : Meant (execSlotctlGo h a s) := by
  refine wrsysForm_meant fun x s => .ite trivial ?_
  split
  · trivial
  · dsimp only
    split <;> trivial

theorem execZshareWrite_meant {h a} : Meant (execZshareWrite h a s) := wrsysForm_meant fun _ _ => .ite trivial trivial

theorem execSyscall_meant {h imm} : Meant (execSyscall h imm s) := by
  refine issueWord_meant fun s => ?_
  dsimp only
  split <;> trivial

theorem execXret_meant {h} : Meant (execXret h s) :=
  privileged_meant (issueWord_meant fun _ => .ite trivial (.ite trivial trivial))
theorem execWfi_meant {h} : Meant (execWfi h s) := privileged_meant (issueWord_meant fun _ => .ite trivial trivial)

theorem execHaltRestart_meant {core} : Meant (execHaltRestart core s) := by
  unfold execHaltRestart
  dsimp only
  split <;> trivial

theorem reissue_meant {x} : Meant (s.reissue x) := by
  cases x with
  | cmd p n cls seq => exact reissueParked_meant
  | _ => trivial

theorem reissueAll_meant {xs} : Meant (s.reissueAll xs) := by
  induction xs generalizing s with
  | nil => trivial
  | cons x xs ih =>
    unfold State.reissueAll
    split
    · exact ih
    · exact reissue_meant

theorem replayDies_meant {p ds} : Meant (s.replayDies p ds) := by
  induction ds generalizing s with
  | nil => trivial
  | cons d ds ih =>
    unfold State.replayDies
    split
    · exact ih
    · exact reissueAll_meant

theorem execTlbreplay_meant {h a} : Meant (execTlbreplay h a s) := by
  refine privileged_meant (issueWord_meant fun s => ?_)
  have replayed := replayDies_meant (s := s) (p := (s.cc.rdG a).setWidth 6) (ds := List.range Config.dies)
  dsimp only
  split
  · trivial
  · rename_i he
    rw [he] at replayed
    exact replayed
  · trivial

theorem execYieldRequest_meant {core} : Meant (execYieldRequest core s) := .ite trivial trivial

theorem execPacketEject_meant {id} : Meant (execPacketEject id s) := by
  unfold execPacketEject
  split <;> trivial

/-! ## Contexts -/

theorem finishSave_meant {d dest p swap} : (finishSave d dest p swap s).Meant := by
  refine .ite ?_ ?_
  · split
    · trivial
    · dsimp only
      split
      · trivial
      · split
        · exact .ite trivial trivial
        · trivial
  · split <;> trivial

theorem execCtxsave_meant {h d a b swap} : Meant (execCtxsave h d a b swap s) := by
  refine privileged_meant (issueWord_meant fun s => .ite trivial ?_)
  split
  · split <;> trivial
  · exact .ite trivial finishSave_meant

theorem loadCtx_meant {d old x taken} : (loadCtx d old x s taken).Meant := by
  unfold loadCtx
  dsimp only
  split
  · trivial
  · exact .ite trivial trivial

theorem execCtxload_meant {h d a b} : Meant (execCtxload h d a b s) := by
  refine privileged_meant (issueWord_meant fun s => .ite ?_ (.ite trivial ?_))
  · split
    · trivial
    · exact .ite trivial loadCtx_meant
  · split
    · trivial
    · dsimp only
      split
      · trivial
      · exact loadCtx_meant

end Sys2Proof.Machine
end

section
/-! No step refuses: the package, the meaning of instructions, and a step. -/
namespace Sys2Proof.Machine
open Sys2Proof
variable {s : State}

theorem execDividerResult_meant {core} : Meant (execDividerResult core s) := .ite trivial trivial

/-! ## Links, losses and sparing -/

theorem execDataFrameReceive_meant {link dir f} : Meant (execDataFrameReceive link dir f s) := by
  unfold execDataFrameReceive
  dsimp only
  split <;> trivial

theorem execDigest_meant {link dir dseq dig} : Meant (execDigest link dir dseq dig s) := by
  unfold execDigest
  dsimp only
  split <;> trivial

theorem execCoreHangTimeout_meant {core} : Meant (execCoreHangTimeout core s) := .ite trivial trivial
theorem execClusterFailure_meant {cl} : Meant (execClusterFailure cl s) := .ite trivial trivial

theorem execDieTakeover_meant {pdie remote} : Meant (execDieTakeover pdie remote s) := by
  refine .ite trivial (.ite trivial ?_)
  dsimp only
  split
  · trivial
  · exact .ite trivial trivial

theorem execDieMapFlip_meant : Meant (execDieMapFlip s) := by
  unfold execDieMapFlip
  split
  · trivial
  · exact .ite trivial (.ite trivial trivial)

theorem execRemoteSpareLend_meant {borrower} : Meant (execRemoteSpareLend borrower s) := .ite trivial trivial
theorem execStackLoss_meant {k} : Meant (execStackLoss k s) := .ite trivial trivial
theorem execIoDieLoss_meant {n} : Meant (execIoDieLoss n s) := .ite trivial trivial
theorem execHaltedPartitionEnd_meant {p} : Meant (execHaltedPartitionEnd p s) := .ite trivial trivial
theorem execVdSnapshot_meant {v} : Meant (execVdSnapshot v s) := .ite trivial (.ite trivial trivial)

/-! ## The ports -/

theorem portStop_meant {g p again e drop} (he : AStop.Meant e) : Meant (s.portStop g p again e drop) := by
  cases e with
  | noMemory pa => exact he
  | _ => trivial

theorem execNetworkReceive_meant {v ep immd data} : Meant (execNetworkReceive v ep immd data s) := by
  unfold execNetworkReceive
  extract_lets e p again k ring size at_
  refine .ite trivial ?_
  split
  · trivial
  · dsimp only
    split
    · rename_i he
      exact portStop_meant (agentBytes_meant.get he)
    · refine .ite trivial ?_
      split
      · rename_i he
        exact portStop_meant (agentStore_meant.get he)
      · split
        · rename_i he
          exact portStop_meant (agentStore_meant.get he)
        · trivial

theorem execPwctlWrite_meant {v x} : Meant (execPwctlWrite v x s) := .ite trivial trivial

theorem windowAccess_meant {g va a} : FailsAs AStop.Meant (s.windowAccess g va a) := by
  cases a with
  | read n =>
    dsimp only [State.windowAccess]
    split
    · rename_i he
      exact agentBytes_meant.get he
    · trivial
  | write bs =>
    dsimp only [State.windowAccess]
    split
    · rename_i he
      exact agentStore_meant.get he
    · trivial
  | _ => trivial

theorem execPostedWriteArrive_meant {v req} : Meant (execPostedWriteArrive v req s) := by
  unfold execPostedWriteArrive
  split
  · trivial
  · refine .ite trivial (.ite trivial ?_)
    split
    · trivial
    · dsimp only
      split
      · rename_i he
        exact portStop_meant (windowAccess_meant.get he)
      · trivial

theorem execCxlMemAccess_meant {off a} : Meant (execCxlMemAccess off a s) := .ite trivial (.ite trivial trivial)
theorem execRemoteAccessArrive_meant {port pa a} : Meant (execRemoteAccessArrive port pa a s) := .ite trivial (.ite trivial trivial)

/-! ## The service processors -/

theorem execLayoutRequest_meant {sp} : Meant (execLayoutRequest sp s) := by
  unfold execLayoutRequest
  split
  · trivial
  · refine .ite trivial ?_
    split
    · exact .ite trivial trivial
    · trivial
    · trivial
    · trivial

theorem execLayoutFlip_meant : Meant (execLayoutFlip s) := by
  unfold execLayoutFlip
  split
  · trivial
  · exact .ite trivial trivial

theorem execProtectionRequest_meant {sp peers} : Meant (execProtectionRequest sp peers s) := by
  refine .ite trivial (.ite trivial (.ite trivial ?_))
  split
  · exact .ite trivial trivial
  · trivial
  · trivial

theorem execServerMaskRequest_meant {sp} : Meant (execServerMaskRequest sp s) := .ite trivial trivial
theorem execAttestationRequest_meant {sp} : Meant (execAttestationRequest sp s) := .ite trivial trivial
theorem execUnitTestDone_meant {u pass} : Meant (execUnitTestDone u pass s) := .ite trivial trivial

/-! ## Recovery, bring-up and reset -/

theorem writeMember_meant {r e xs} : FailsAs AStop.Meant (s.writeMember r e xs) := by
  unfold State.writeMember
  split
  · trivial
  · refine List.foldlRecOn (motive := FailsAs AStop.Meant) _ _ trivial fun acc ha off _ => ?_
    cases acc with
    | error x => exact ha
    | ok s =>
      dsimp only
      split
      · rename_i he
        exact agentStore_meant.get he
      · trivial

theorem copyHalf_meant {r e} : FailsAs AStop.Meant (s.copyHalf r e) := by
  unfold State.copyHalf
  split
  · trivial
  · dsimp only
    split
    · rename_i he
      exact agentBytes_meant.get he
    · split
      · rename_i he
        exact agentStore_meant.get he
      · trivial

theorem regionStop_meant {r again e} (he : AStop.Meant e) : Meant (s.regionStop r again e) := by
  unfold State.regionStop
  split
  · exact portStop_meant he
  · trivial

theorem execEpochStart_meant {gid data} : Meant (execEpochStart gid data s) := by
  unfold execEpochStart
  split
  · trivial
  · refine .ite trivial (.ite trivial ?_)
    split
    · rename_i he
      exact regionStop_meant (copyHalf_meant.get he)
    · split
      · rename_i he
        exact regionStop_meant (writeMember_meant.get he)
      · trivial

theorem execEpochCommit_meant {gid} : Meant (execEpochCommit gid s) := by
  unfold execEpochCommit
  split
  · trivial
  · split <;> trivial

theorem execGroupRebuild_meant {gid lost symbols} : Meant (execGroupRebuild gid lost symbols s) := by
  unfold execGroupRebuild
  split
  · trivial
  · refine .ite trivial (.ite trivial ?_)
    split
    · rename_i he
      exact regionStop_meant (writeMember_meant.get he)
    · trivial

theorem execBringUp_meant {passing supply fuseless} : Meant (execBringUp passing supply fuseless s) := by
  refine .ite trivial ?_
  split <;> trivial

end Sys2Proof.Machine
end

section
/-! No step refuses: every word that is a case of a form, the meaning of instructions, and a step. -/
namespace Sys2Proof.Machine
open Sys2Proof
variable {s : State}

/-! ## The words that are cases of a form -/

/-! ### Control flow, predicates and gangs -/

theorem execBr_meant {h lx imm} : Meant (execBr h lx imm s) := issueWord_meant fun _ => transferTo_meant
theorem execCall_meant {h d imm} : Meant (execCall h d imm s) := issueWord_meant fun _ => transferTo_meant
theorem execJr_meant {h a lx imm} : Meant (execJr h a lx imm s) := issueWord_meant fun _ => transferTo_meant
theorem execCallr_meant {h d a imm} : Meant (execCallr h d a imm s) := issueWord_meant fun _ => transferTo_meant
theorem execRet_meant {h a} : Meant (execRet h a s) := issueWord_meant fun _ => transferTo_meant
theorem execLoop_meant {h a len} : Meant (execLoop h a len s) := issueWord_meant fun _ => startLoop_meant
theorem execLoopi_meant {h len cnt} : Meant (execLoopi h len cnt s) := issueWord_meant fun _ => startLoop_meant
theorem execPand_meant {h d a b na nb} : Meant (execPand h d a b na nb s) := pForm_meant
theorem execPor_meant {h d a b na nb} : Meant (execPor h d a b na nb s) := pForm_meant
theorem execPxor_meant {h d a b na nb} : Meant (execPxor h d a b na nb s) := pForm_meant
theorem execPnot_meant {h d a} : Meant (execPnot h d a s) := pForm_meant
theorem execPmov_meant {h d a} : Meant (execPmov h d a s) := pForm_meant
theorem execNop_meant {h} : Meant (execNop h s) := issueCore_meant
theorem execTimed_meant {h} : Meant (execTimed h s) := issueCore_meant
theorem execChecked_meant {h} : Meant (execChecked h s) := issueCore_meant
theorem execGang_meant {h base num} : Meant (execGang h base num s) := issueWord_meant fun _ => startGang_meant
theorem execGsplit_meant {h} : Meant (execGsplit h s) := issueWord_meant fun _ => splitGang_meant
theorem execGjoin_meant {h} : Meant (execGjoin h s) := issueWord_meant fun _ => joinGang_meant

/-! ### The event unit and barriers -/

theorem execEvsigEv_meant {h tgt e cnt} : Meant (execEvsigEv h tgt e cnt s) := issueWord_meant fun _ => signalEvent_meant
theorem execBar_meant {h b} : Meant (execBar h b s) := issueWord_meant fun _ => arriveAt_meant
theorem execBarss_meant {h b} : Meant (execBarss h b s) := issueWord_meant fun _ => arriveAt_meant
theorem execSpred_meant {h d a isOr b} : Meant (execSpred h d a isOr b s) := issueWord_meant fun _ => arriveAt_meant

/-! ### Global memory -/

theorem execGld_meant {h d a sz zx imm} : Meant (execGld h d a sz zx imm s) := issueWord_meant fun _ => gldEff_meant
theorem execGst_meant {h a b sz imm} : Meant (execGst h a b sz imm s) := issueWord_meant fun _ => gstEff_meant
theorem execGldV_meant {h tag d a x imm} : Meant (execGldV h tag d a x imm s) := issueWord_meant fun _ => gldVEff_meant
theorem execGldImg_meant {h d a x imm} : Meant (execGldImg h d a x imm s) := issueWord_meant fun _ => gldImgEff_meant
theorem execGstV_meant {h a b x imm} : Meant (execGstV h a b x imm s) := issueWord_meant fun _ => gstVEff_meant
theorem execGstImg_meant {h a b x imm} : Meant (execGstImg h a b x imm s) := issueWord_meant fun _ => gstImgEff_meant
theorem execRwb_meant {h a b} : Meant (execRwb h a b s) := issueWord_meant fun _ => maintEff_meant
theorem execRinv_meant {h a b} : Meant (execRinv h a b s) := issueWord_meant fun _ => maintEff_meant
theorem execRwbi_meant {h a b} : Meant (execRwbi h a b s) := issueWord_meant fun _ => maintEff_meant

/-! ### Conversions and tags -/

theorem execVcvt_meant {h tag d a rm stm chunk} : Meant (execVcvt h tag d a rm stm chunk s) := issueWord_meant fun _ => convEff_meant
theorem execVcvts_meant {h tag d a b rm stm chunk} : Meant (execVcvts h tag d a b rm stm chunk s) := issueWord_meant fun _ => convEff_meant
theorem execVtag_meant {h tag d a} : Meant (execVtag h tag d a s) := issueWord_meant fun _ => vecEff_meant
theorem execVtagr_meant {h d a} : Meant (execVtagr h d a s) := scalarForm_meant
theorem execVquant_meant {h tag d a b rm chunk j} : Meant (execVquant h tag d a b rm chunk j s) := issueWord_meant fun _ => convEff_meant
theorem execVdeq_meant {h d a b rm chunk j} : Meant (execVdeq h d a b rm chunk j s) := issueWord_meant fun _ => convEff_meant

/-! ### Scalar instructions -/

theorem execAdd_meant {h d a b w} : Meant (execAdd h d a b w s) := gForm_meant
theorem execSub_meant {h d a b w} : Meant (execSub h d a b w s) := gForm_meant
theorem execAndR_meant {h d a b} : Meant (execAndR h d a b s) := gForm_meant
theorem execOrR_meant {h d a b} : Meant (execOrR h d a b s) := gForm_meant
theorem execXorR_meant {h d a b} : Meant (execXorR h d a b s) := gForm_meant
theorem execAndn_meant {h d a b} : Meant (execAndn h d a b s) := gForm_meant
theorem execOrn_meant {h d a b} : Meant (execOrn h d a b s) := gForm_meant
theorem execNeg_meant {h d a w} : Meant (execNeg h d a w s) := gForm_meant
theorem execAddi_meant {h d a w imm} : Meant (execAddi h d a w imm s) := gForm_meant
theorem execAndi_meant {h d a imm} : Meant (execAndi h d a imm s) := gForm_meant
theorem execOri_meant {h d a imm} : Meant (execOri h d a imm s) := gForm_meant
theorem execXori_meant {h d a imm} : Meant (execXori h d a imm s) := gForm_meant
theorem execShl_meant {h d a w src} : Meant (execShl h d a w src s) := gForm_meant
theorem execShr_meant {h d a w src} : Meant (execShr h d a w src s) := gForm_meant
theorem execShra_meant {h d a w src} : Meant (execShra h d a w src s) := gForm_meant
theorem execRol_meant {h d a w src} : Meant (execRol h d a w src s) := gForm_meant
theorem execRor_meant {h d a w src} : Meant (execRor h d a w src s) := gForm_meant
theorem execMul_meant {h d a b w} : Meant (execMul h d a b w s) := gForm_meant
theorem execMulh_meant {h d a b w} : Meant (execMulh h d a b w s) := gForm_meant
theorem execMulhn_meant {h d a b w} : Meant (execMulhn h d a b w s) := gForm_meant
theorem execDiv_meant {h d a b w} : Meant (execDiv h d a b w s) := divForm_meant
theorem execDivn_meant {h d a b w} : Meant (execDivn h d a b w s) := divForm_meant
theorem execRem_meant {h d a b w} : Meant (execRem h d a b w s) := divForm_meant
theorem execRemn_meant {h d a b w} : Meant (execRemn h d a b w s) := divForm_meant
theorem execClz_meant {h d a w} : Meant (execClz h d a w s) := gForm_meant
theorem execCtz_meant {h d a w} : Meant (execCtz h d a w s) := gForm_meant
theorem execPopc_meant {h d a w} : Meant (execPopc h d a w s) := gForm_meant
theorem execBrev_meant {h d a w} : Meant (execBrev h d a w s) := gForm_meant
theorem execBswap_meant {h d a w} : Meant (execBswap h d a w s) := gForm_meant
theorem execBfx_meant {h d a w pos len} : Meant (execBfx h d a w pos len s) := gForm_meant
theorem execBfxn_meant {h d a w pos len} : Meant (execBfxn h d a w pos len s) := gForm_meant
theorem execBfi_meant {h d a w pos len} : Meant (execBfi h d a w pos len s) := gForm_meant
theorem execMin_meant {h d a b w} : Meant (execMin h d a b w s) := gForm_meant
theorem execMinn_meant {h d a b w} : Meant (execMinn h d a b w s) := gForm_meant
theorem execMax_meant {h d a b w} : Meant (execMax h d a b w s) := gForm_meant
theorem execMaxn_meant {h d a b w} : Meant (execMaxn h d a b w s) := gForm_meant
theorem execSel_meant {h d a b c neg} : Meant (execSel h d a b c neg s) := scalarForm_meant
theorem execMov_meant {h d a} : Meant (execMov h d a s) := gForm_meant
theorem execMovi_meant {h d imm} : Meant (execMovi h d imm s) := gForm_meant
theorem execMovhi_meant {h d imm} : Meant (execMovhi h d imm s) := gForm_meant
theorem execLea_meant {h d a b sc imm} : Meant (execLea h d a b sc imm s) := gForm_meant

/-! ### Scalar floating-point instructions -/

theorem execFadd_meant {h d a b rm f32} : Meant (execFadd h d a b rm f32 s) := faForm_meant
theorem execFsub_meant {h d a b rm f32} : Meant (execFsub h d a b rm f32 s) := faForm_meant
theorem execFmul_meant {h d a b rm f32} : Meant (execFmul h d a b rm f32 s) := faForm_meant
theorem execFma_meant {h d a b rm f32} : Meant (execFma h d a b rm f32 s) := faForm_meant
theorem execFdiv_meant {h d a b rm f32} : Meant (execFdiv h d a b rm f32 s) := divForm_meant
theorem execFsqrt_meant {h d a rm f32} : Meant (execFsqrt h d a rm f32 s) := divForm_meant
theorem execFcmp_meant {h d a b cc f32} : Meant (execFcmp h d a b cc f32 s) := issueCore_meant
theorem execFclass_meant {h d a f32} : Meant (execFclass h d a f32 s) := fsForm_meant
theorem execFmin_meant {h d a b f32} : Meant (execFmin h d a b f32 s) := fsForm_meant
theorem execFmax_meant {h d a b f32} : Meant (execFmax h d a b f32 s) := fsForm_meant
theorem execFabs_meant {h d a f32} : Meant (execFabs h d a f32 s) := fsForm_meant
theorem execFneg_meant {h d a f32} : Meant (execFneg h d a f32 s) := fsForm_meant
theorem execFcpys_meant {h d a b f32} : Meant (execFcpys h d a b f32 s) := fsForm_meant
theorem execScvt_meant {h src dt d a rm} : Meant (execScvt h src dt d a rm s) := issueCore_meant

/-! ### Vector instructions -/

theorem execVadd_meant {h code d a b stm km z} : Meant (execVadd h code d a b stm km z s) := vint2_meant
theorem execVsub_meant {h code d a b stm km z} : Meant (execVsub h code d a b stm km z s) := vint2_meant
theorem execVadds_meant {h code d a b stm km z} : Meant (execVadds h code d a b stm km z s) := vint2_meant
theorem execVsubs_meant {h code d a b stm km z} : Meant (execVsubs h code d a b stm km z s) := vint2_meant
theorem execVabs_meant {h code d a stm km z} : Meant (execVabs h code d a stm km z s) := vecForm_meant
theorem execVmul_meant {h code d a b stm km z} : Meant (execVmul h code d a b stm km z s) := vint2_meant
theorem execVmulh_meant {h code d a b stm km z} : Meant (execVmulh h code d a b stm km z s) := vint2_meant
theorem execVmulhn_meant {h code d a b stm km z} : Meant (execVmulhn h code d a b stm km z s) := vint2_meant
theorem execVmin_meant {h code d a b stm km z} : Meant (execVmin h code d a b stm km z s) := vint2_meant
theorem execVminn_meant {h code d a b stm km z} : Meant (execVminn h code d a b stm km z s) := vint2_meant
theorem execVmax_meant {h code d a b stm km z} : Meant (execVmax h code d a b stm km z s) := vint2_meant
theorem execVmaxn_meant {h code d a b stm km z} : Meant (execVmaxn h code d a b stm km z s) := vint2_meant
theorem execVand_meant {h code d a b stm km z} : Meant (execVand h code d a b stm km z s) := vint2_meant
theorem execVor_meant {h code d a b stm km z} : Meant (execVor h code d a b stm km z s) := vint2_meant
theorem execVxor_meant {h code d a b stm km z} : Meant (execVxor h code d a b stm km z s) := vint2_meant
theorem execVandn_meant {h code d a b stm km z} : Meant (execVandn h code d a b stm km z s) := vint2_meant
theorem execVshl_meant {h code d a b stm km z} : Meant (execVshl h code d a b stm km z s) := vint2_meant
theorem execVshr_meant {h code d a b stm km z} : Meant (execVshr h code d a b stm km z s) := vint2_meant
theorem execVshra_meant {h code d a b stm km z} : Meant (execVshra h code d a b stm km z s) := vint2_meant
theorem execVcmp_meant {h code d a b cc stm km z} : Meant (execVcmp h code d a b cc stm km z s) := maskForm_meant
theorem execVfadd_meant {h code d a b rm stm km z} : Meant (execVfadd h code d a b rm stm km z s) := vfp_meant
theorem execVfsub_meant {h code d a b rm stm km z} : Meant (execVfsub h code d a b rm stm km z s) := vfp_meant
theorem execVfmul_meant {h code d a b rm stm km z} : Meant (execVfmul h code d a b rm stm km z s) := vfp_meant
theorem execVfdiv_meant {h code d a b rm stm km z} : Meant (execVfdiv h code d a b rm stm km z s) := vfp_meant
theorem execVfma_meant {h code d a b rm stm km z} : Meant (execVfma h code d a b rm stm km z s) := vfp_meant
theorem execVfms_meant {h code d a b rm stm km z} : Meant (execVfms h code d a b rm stm km z s) := vfp_meant
theorem execVfnma_meant {h code d a b rm stm km z} : Meant (execVfnma h code d a b rm stm km z s) := vfp_meant
theorem execVfnms_meant {h code d a b rm stm km z} : Meant (execVfnms h code d a b rm stm km z s) := vfp_meant
theorem execVsqrt_meant {h code d a rm stm km z} : Meant (execVsqrt h code d a rm stm km z s) := vfp_meant
theorem execVfmin_meant {h code d a b stm km z} : Meant (execVfmin h code d a b stm km z s) := vfBits_meant
theorem execVfmax_meant {h code d a b stm km z} : Meant (execVfmax h code d a b stm km z s) := vfBits_meant
theorem execVfabs_meant {h code d a stm km z} : Meant (execVfabs h code d a stm km z s) := vfBits_meant
theorem execVfneg_meant {h code d a stm km z} : Meant (execVfneg h code d a stm km z s) := vfBits_meant
theorem execVfcmp_meant {h code d a b cc stm km z} : Meant (execVfcmp h code d a b cc stm km z s) := maskForm_meant
theorem execVfclass_meant {h code d a stm km z} : Meant (execVfclass h code d a stm km z s) := vecForm_meant
theorem execVrcp_meant {h code d a stm km z} : Meant (execVrcp h code d a stm km z s) := vspec_meant
theorem execVrsq_meant {h code d a stm km z} : Meant (execVrsq h code d a stm km z s) := vspec_meant
theorem execVexp2_meant {h code d a stm km z} : Meant (execVexp2 h code d a stm km z s) := vspec_meant
theorem execVlog2_meant {h code d a stm km z} : Meant (execVlog2 h code d a stm km z s) := vspec_meant
theorem execVsel_meant {h code d a b stm km} : Meant (execVsel h code d a b stm km s) := issueWord_meant fun _ => vecEff_meant
theorem execVslideup_meant {h wc d a b stm km z imm} : Meant (execVslideup h wc d a b stm km z imm s) := permForm_meant
theorem execVmov_meant {h d a} : Meant (execVmov h d a s) := issueWord_meant fun _ => vecEff_meant
theorem execKand_meant {h d a b} : Meant (execKand h d a b s) := kForm_meant
theorem execKor_meant {h d a b} : Meant (execKor h d a b s) := kForm_meant
theorem execKxor_meant {h d a b} : Meant (execKxor h d a b s) := kForm_meant
theorem execKnot_meant {h d a} : Meant (execKnot h d a s) := kForm_meant
theorem execKcnt_meant {h d a n} : Meant (execKcnt h d a n s) := scalarForm_meant
theorem execVradd_meant {h code d a stm km} : Meant (execVradd h code d a stm km s) := redForm_meant
theorem execVrmin_meant {h code d a stm km} : Meant (execVrmin h code d a stm km s) := redForm_meant
theorem execVrmax_meant {h code d a stm km} : Meant (execVrmax h code d a stm km s) := redForm_meant
theorem execVrfadd_meant {h code d a rm stm km} : Meant (execVrfadd h code d a rm stm km s) := redForm_meant
theorem execVrfmin_meant {h code d a stm km} : Meant (execVrfmin h code d a stm km s) := redForm_meant
theorem execVrfmax_meant {h code d a stm km} : Meant (execVrfmax h code d a stm km s) := redForm_meant
theorem execSfree_meant {h port} : Meant (execSfree h port s) := issueCore_meant

/-! ### Matrix instructions -/

theorem execZmma_meant {h tag d a b t sc} : Meant (execZmma h tag d a b t sc s) := issueWord_meant fun _ => mmaEff_meant
theorem execZmmas_meant {h tag d a b t sc} : Meant (execZmmas h tag d a b t sc s) := issueWord_meant fun _ => mmaEff_meant

/-! ### The work of commands -/

theorem execSpsumPairAdd_meant {n} : Meant (execSpsumPairAdd n s) := addPair_meant

/-! ### Engine instructions -/

theorem execXcopy_meant {h d a imm} : Meant (execXcopy h d a imm s) := descForm_meant
theorem execXgath_meant {h d a imm} : Meant (execXgath h d a imm s) := descForm_meant
theorem execXscat_meant {h d a imm} : Meant (execXscat h d a imm s) := descForm_meant
theorem execXfill_meant {h d a imm} : Meant (execXfill h d a imm s) := descForm_meant
theorem execXcoll_meant {h d a imm} : Meant (execXcoll h d a imm s) := descForm_meant
theorem execNsend_meant {h d a imm} : Meant (execNsend h d a imm s) := descForm_meant
theorem execXseq_meant {h d cls} : Meant (execXseq h d cls s) := issueWord_meant fun _ => trivial
theorem execFence_meant {h scope paths} : Meant (execFence h scope paths s) := issueWord_meant fun _ => fenceEff_meant

/-! ### Atomics -/

theorem execAmo_meant {h op d a b sz scope imm} : Meant (execAmo h op d a b sz scope imm s) := issueWord_meant fun _ => amoEff_meant
theorem execCas_meant {h d a b sz scope imm} : Meant (execCas h d a b sz scope imm s) := issueWord_meant fun _ => casEff_meant
theorem execRed_meant {h op a b sz scope imm} : Meant (execRed h op a b sz scope imm s) := issueWord_meant fun _ => redEff_meant

/-! ### Channels -/

theorem execChdecl_meant {h d a ch slot} : Meant (execChdecl h d a ch slot s) := issueWord_meant fun _ => declareEff_meant

/-! ### Tasks -/

theorem execSpawn_meant {h a pri loc} : Meant (execSpawn h a pri loc s) := issueWord_meant fun _ => spawnEff_meant
theorem execSpawnR_meant {h a b pri loc} : Meant (execSpawnR h a b pri loc s) := issueWord_meant fun _ => spawnEff_meant
theorem execJoin_meant {h d a} : Meant (execJoin h d a s) := issueWord_meant fun _ => joinEff_meant
theorem execWid_meant {h d} : Meant (execWid h d s) := issueWord_meant fun _ => taskValue_meant
theorem execWidf_meant {h d a ix} : Meant (execWidf h d a ix s) := issueWord_meant fun _ => taskValue_meant
theorem execCorenum_meant {h d sel} : Meant (execCorenum h d sel s) := issueWord_meant fun _ => taskValue_meant

/-! ### Containment domains -/

theorem execCdkeep_meant {h a b snap} : Meant (execCdkeep h a b snap s) := issueWord_meant fun _ => cdkeepEff_meant
theorem execCdsig_meant {h a b} : Meant (execCdsig h a b s) := issueWord_meant fun _ => cdsigEff_meant

/-! ### Global accesses that complete later -/

theorem execGlobalAccessComplete_meant {core} : Meant (execGlobalAccessComplete core s) := completeAccess_meant

/-! ### Modular arithmetic and the butterfly network -/

theorem execVmadd_meant {h d a b m km z} : Meant (execVmadd h d a b m km z s) := modForm_meant
theorem execVmsub_meant {h d a b m km z} : Meant (execVmsub h d a b m km z s) := modForm_meant
theorem execVmneg_meant {h d a m km z} : Meant (execVmneg h d a m km z s) := modForm_meant
theorem execVmmul_meant {h d a b m km z} : Meant (execVmmul h d a b m km z s) := modForm_meant
theorem execVmmac_meant {h d a b m km z} : Meant (execVmmac h d a b m km z s) := modForm_meant
theorem execVmred_meant {h nat d a m km z} : Meant (execVmred h nat d a m km z s) := modForm_meant
theorem execVmcvtI64_meant {h d a km z} : Meant (execVmcvtI64 h d a km z s) := modForm_meant
theorem execVmcvtMn_meant {h d a m km z} : Meant (execVmcvtMn h d a m km z s) := modForm_meant
theorem execVmcvtMs_meant {h d a m km z} : Meant (execVmcvtMs h d a m km z s) := modForm_meant
theorem execMqgen_meant {h a m} : Meant (execMqgen h a m s) := loadSetWord_meant
theorem execMqld_meant {h a b m} : Meant (execMqld h a b m s) := loadSetWord_meant
theorem execBfly_meant {h d a m km} : Meant (execBfly h d a m km s) := bflyWord_meant
theorem execIbfly_meant {h d a m km} : Meant (execIbfly h d a m km s) := bflyWord_meant
theorem execBperm_meant {h d a k} : Meant (execBperm h d a k s) := lanePerm_meant
theorem execVbitrev_meant {h d a b} : Meant (execVbitrev h d a b s) := lanePerm_meant
theorem execBpermx_meant {h d k} : Meant (execBpermx h d k s) := pairWord_meant
theorem execVfft2_meant {h d a rm cj km} : Meant (execVfft2 h d a rm cj km s) := pairWord_meant

/-! ### System registers, calls and returns -/

theorem execWrsys_meant {h a n} : Meant (execWrsys h a n s) := wrsysForm_meant fun _ _ => trivial
theorem execFbstatDropClear_meant {h a} : Meant (execFbstatDropClear h a s) := wrsysForm_meant fun _ _ => trivial
theorem execSpdoorClear_meant {h a} : Meant (execSpdoorClear h a s) := wrsysForm_meant fun _ _ => trivial
theorem execSwzWrite_meant {h a ix} : Meant (execSwzWrite h a ix s) := wrsysForm_meant fun _ _ => trivial
theorem execBkpt_meant {h imm} : Meant (execBkpt h imm s) := issueWord_meant fun _ => trivial
theorem execHalt_meant {h} : Meant (execHalt h s) := privileged_meant (issueWord_meant fun _ => trivial)
theorem execTlbinvPage_meant {h a b} : Meant (execTlbinvPage h a b s) := privileged_meant (issueWord_meant fun _ => trivial)
theorem execTlbinvVsid_meant {h b} : Meant (execTlbinvVsid h b s) := privileged_meant (issueWord_meant fun _ => trivial)
theorem execTlbinvAll_meant {h} : Meant (execTlbinvAll h s) := privileged_meant (issueWord_meant fun _ => trivial)
theorem execLdovt_meant {h a b} : Meant (execLdovt h a b s) := privileged_meant (issueWord_meant fun _ => trivial)

/-! ## The meaning of instructions -/

/-- Every instruction and every event has a meaning, by the form that it is of (R12, R37). -/
theorem exec_meant (i : Instr) (s : State) : Meant (exec i s) := by
  cases i with
  | evcWrite | bcfgWrite | pageWalk | barrierArrivalMessage | arrayOpStart | arrayRowWrite | arrayOpFinish | scaleWriteRelease
  | xbarPulseArrive | graceExpiry | launchWindowWrite | queueAging | saddleTick | colChannelEscape | replayRequest | probeTimeout
  | probe | resetRequest | linkRetrain | linkReroute | diagnosisVote | peerWindowAccess | fabricRecall | spWatchdogReset | spLoss
  | packageLoss | coreFailure | l2SliceFence | hbmScrub | hbmRowRepair | scoreDecay | unitDrain | vcoreDroop | thermalThrottle
  | powerCap | thermalShutdown | packageReset | protectionGroupTimeout | vcoreRecovery | throttleRelease | vdMigration => trivial
  | dividerResult => exact execDividerResult_meant
  | globalAccessComplete => exact execGlobalAccessComplete_meant
  | l1dEviction => exact execL1dEviction_meant
  | eventMessage => exact execEventMessage_meant
  | barrierReleaseMessage => exact execBarrierReleaseMessage_meant
  | channelClaim => exact execChannelClaim_meant
  | channelClaimAnswer => exact execChannelClaimAnswer_meant
  | channelMessageLand => exact execChannelMessageLand_meant
  | channelGrant => exact execChannelGrant_meant
  | timedMessageLand => exact execTimedMessageLand_meant
  | streamChunkArrive => exact execStreamChunkArrive_meant
  | commandComplete => exact execCommandComplete_meant
  | commandFail => exact execCommandFail_meant
  | collectiveGeneration => exact execCollectiveGeneration_meant
  | spsumPairAdd => exact execSpsumPairAdd_meant
  | storageCompletion => exact execStorageCompletion_meant
  | networkReceive => exact execNetworkReceive_meant
  | yieldRequest => exact execYieldRequest_meant
  | launchActivate => exact execLaunchActivate_meant
  | launchComplete => exact execLaunchComplete_meant
  | taskPop => exact execTaskPop_meant
  | idleSearchWiden => exact execIdleSearchWiden_meant
  | domainCharge => exact execDomainCharge_meant
  | auditReplay => exact execAuditReplay_meant
  | packetEject => exact execPacketEject_meant
  | dataFrameReceive => exact execDataFrameReceive_meant
  | digest => exact execDigest_meant
  | dieTakeover => exact execDieTakeover_meant
  | dieMapFlip => exact execDieMapFlip_meant
  | postedWriteArrive => exact execPostedWriteArrive_meant
  | cxlMemAccess => exact execCxlMemAccess_meant
  | remoteAccessArrive => exact execRemoteAccessArrive_meant
  | layoutRequest => exact execLayoutRequest_meant
  | layoutFlip => exact execLayoutFlip_meant
  | protectionRequest => exact execProtectionRequest_meant
  | attestationRequest => exact execAttestationRequest_meant
  | serverMaskRequest => exact execServerMaskRequest_meant
  | vdSnapshot => exact execVdSnapshot_meant
  | epochStart => exact execEpochStart_meant
  | epochCommit => exact execEpochCommit_meant
  | groupRebuild => exact execGroupRebuild_meant
  | coreHangTimeout => exact execCoreHangTimeout_meant
  | clusterFailure => exact execClusterFailure_meant
  | stackLoss => exact execStackLoss_meant
  | ioDieLoss => exact execIoDieLoss_meant
  | unitTestDone => exact execUnitTestDone_meant
  | bringUp => exact execBringUp_meant
  | pwctlWrite => exact execPwctlWrite_meant
  | haltRestart => exact execHaltRestart_meant
  | haltedPartitionEnd => exact execHaltedPartitionEnd_meant
  | remoteSpareLend => exact execRemoteSpareLend_meant
  | nop => exact execNop_meant
  | timed => exact execTimed_meant
  | checked => exact execChecked_meant
  | gang => exact execGang_meant
  | gsplit => exact execGsplit_meant
  | gjoin => exact execGjoin_meant
  | ld => exact execLd_meant
  | st => exact execSt_meant
  | vld => exact execVld_meant
  | vst => exact execVst_meant
  | vldImg => exact execVldImg_meant
  | vstImg => exact execVstImg_meant
  | vldl => exact execVldl_meant
  | vstl => exact execVstl_meant
  | vgath => exact execVgath_meant
  | vscat => exact execVscat_meant
  | kld => exact execKld_meant
  | kst => exact execKst_meant
  | gld => exact execGld_meant
  | gst => exact execGst_meant
  | gldV => exact execGldV_meant
  | gstV => exact execGstV_meant
  | gldImg => exact execGldImg_meant
  | gstImg => exact execGstImg_meant
  | rwb => exact execRwb_meant
  | rinv => exact execRinv_meant
  | rwbi => exact execRwbi_meant
  | pref => exact execPref_meant
  | amo => exact execAmo_meant
  | cas => exact execCas_meant
  | red => exact execRed_meant
  | evsigEv => exact execEvsigEv_meant
  | evsigUnlock => exact execEvsigUnlock_meant
  | evsigPulse => exact execEvsigPulse_meant
  | ldevWait => exact execLdevWait_meant
  | ldevPoll => exact execLdevPoll_meant
  | ldevLock => exact execLdevLock_meant
  | ldevTry => exact execLdevTry_meant
  | bar => exact execBar_meant
  | barss => exact execBarss_meant
  | spred => exact execSpred_meant
  | fence => exact execFence_meant
  | chdecl => exact execChdecl_meant
  | chdeclRel => exact execChdeclRel_meant
  | chsend => exact execChsend_meant
  | chrecv => exact execChrecv_meant
  | chpoll => exact execChpoll_meant
  | phase => exact execPhase_meant
  | tsend => exact execTsend_meant
  | trecv => exact execTrecv_meant
  | xcopy => exact execXcopy_meant
  | xgath => exact execXgath_meant
  | xscat => exact execXscat_meant
  | xfill => exact execXfill_meant
  | xcoll => exact execXcoll_meant
  | xwait => exact execXwait_meant
  | xseq => exact execXseq_meant
  | xcancel => exact execXcancel_meant
  | evxcfgC => exact execEvxcfgC_meant
  | evxcfgT => exact execEvxcfgT_meant
  | evxcfgR => exact execEvxcfgR_meant
  | evxarm => exact execEvxarm_meant
  | sring => exact execSring_meant
  | nsend => exact execNsend_meant
  | launch => exact execLaunch_meant
  | spawn => exact execSpawn_meant
  | spawnR => exact execSpawnR_meant
  | join => exact execJoin_meant
  | tend => exact execTend_meant
  | wid => exact execWid_meant
  | widf => exact execWidf_meant
  | corenum => exact execCorenum_meant
  | cdopen => exact execCdopen_meant
  | cdclose => exact execCdclose_meant
  | cdabort => exact execCdabort_meant
  | cdabortRetry => exact execCdabortRetry_meant
  | cdkeep => exact execCdkeep_meant
  | cdsig => exact execCdsig_meant
  | rdsys => exact execRdsys_meant
  | wrsys => exact execWrsys_meant
  | fbpop0Read => exact execFbpop0Read_meant
  | derrpopRead => exact execDerrpopRead_meant
  | fbstatDropClear => exact execFbstatDropClear_meant
  | spdoorClear => exact execSpdoorClear_meant
  | slotctlGo => exact execSlotctlGo_meant
  | swzWrite => exact execSwzWrite_meant
  | zshareWrite => exact execZshareWrite_meant
  | syscall => exact execSyscall_meant
  | bkpt => exact execBkpt_meant
  | xret => exact execXret_meant
  | wfi => exact execWfi_meant
  | halt => exact execHalt_meant
  | tlbinvPage => exact execTlbinvPage_meant
  | tlbinvVsid => exact execTlbinvVsid_meant
  | tlbinvAll => exact execTlbinvAll_meant
  | tlbreplay => exact execTlbreplay_meant
  | ldovt => exact execLdovt_meant
  | ctxsave => exact execCtxsave_meant
  | ctxload => exact execCtxload_meant
  | add => exact execAdd_meant
  | sub => exact execSub_meant
  | andR => exact execAndR_meant
  | orR => exact execOrR_meant
  | xorR => exact execXorR_meant
  | andn => exact execAndn_meant
  | orn => exact execOrn_meant
  | neg => exact execNeg_meant
  | addi => exact execAddi_meant
  | andi => exact execAndi_meant
  | ori => exact execOri_meant
  | xori => exact execXori_meant
  | shl => exact execShl_meant
  | shr => exact execShr_meant
  | shra => exact execShra_meant
  | rol => exact execRol_meant
  | ror => exact execRor_meant
  | mul => exact execMul_meant
  | mulh => exact execMulh_meant
  | mulhn => exact execMulhn_meant
  | div => exact execDiv_meant
  | divn => exact execDivn_meant
  | rem => exact execRem_meant
  | remn => exact execRemn_meant
  | clz => exact execClz_meant
  | ctz => exact execCtz_meant
  | popc => exact execPopc_meant
  | brev => exact execBrev_meant
  | bswap => exact execBswap_meant
  | bfx => exact execBfx_meant
  | bfxn => exact execBfxn_meant
  | bfi => exact execBfi_meant
  | min => exact execMin_meant
  | minn => exact execMinn_meant
  | max => exact execMax_meant
  | maxn => exact execMaxn_meant
  | sel => exact execSel_meant
  | mov => exact execMov_meant
  | movi => exact execMovi_meant
  | movhi => exact execMovhi_meant
  | movp => exact execMovp_meant
  | lea => exact execLea_meant
  | cmp => exact execCmp_meant
  | fadd => exact execFadd_meant
  | fsub => exact execFsub_meant
  | fmul => exact execFmul_meant
  | fdiv => exact execFdiv_meant
  | fsqrt => exact execFsqrt_meant
  | fma => exact execFma_meant
  | fcmp => exact execFcmp_meant
  | fclass => exact execFclass_meant
  | fmin => exact execFmin_meant
  | fmax => exact execFmax_meant
  | fabs => exact execFabs_meant
  | fneg => exact execFneg_meant
  | fcpys => exact execFcpys_meant
  | br => exact execBr_meant
  | call => exact execCall_meant
  | jr => exact execJr_meant
  | callr => exact execCallr_meant
  | ret => exact execRet_meant
  | loop => exact execLoop_meant
  | loopi => exact execLoopi_meant
  | pand => exact execPand_meant
  | por => exact execPor_meant
  | pxor => exact execPxor_meant
  | pnot => exact execPnot_meant
  | pmov => exact execPmov_meant
  | vcvt => exact execVcvt_meant
  | vcvts => exact execVcvts_meant
  | vtag => exact execVtag_meant
  | vtagr => exact execVtagr_meant
  | vquant => exact execVquant_meant
  | vdeq => exact execVdeq_meant
  | vscl => exact execVscl_meant
  | scvt => exact execScvt_meant
  | vadd => exact execVadd_meant
  | vsub => exact execVsub_meant
  | vadds => exact execVadds_meant
  | vsubs => exact execVsubs_meant
  | vabs => exact execVabs_meant
  | vmul => exact execVmul_meant
  | vmulh => exact execVmulh_meant
  | vmulhn => exact execVmulhn_meant
  | vmin => exact execVmin_meant
  | vminn => exact execVminn_meant
  | vmax => exact execVmax_meant
  | vmaxn => exact execVmaxn_meant
  | vfadd => exact execVfadd_meant
  | vfsub => exact execVfsub_meant
  | vfmul => exact execVfmul_meant
  | vfdiv => exact execVfdiv_meant
  | vfma => exact execVfma_meant
  | vfms => exact execVfms_meant
  | vfnma => exact execVfnma_meant
  | vfnms => exact execVfnms_meant
  | vfmin => exact execVfmin_meant
  | vfmax => exact execVfmax_meant
  | vfabs => exact execVfabs_meant
  | vfneg => exact execVfneg_meant
  | vrcp => exact execVrcp_meant
  | vrsq => exact execVrsq_meant
  | vsqrt => exact execVsqrt_meant
  | vexp2 => exact execVexp2_meant
  | vlog2 => exact execVlog2_meant
  | vcmp => exact execVcmp_meant
  | vfcmp => exact execVfcmp_meant
  | vfclass => exact execVfclass_meant
  | vsel => exact execVsel_meant
  | vand => exact execVand_meant
  | vor => exact execVor_meant
  | vxor => exact execVxor_meant
  | vandn => exact execVandn_meant
  | vshl => exact execVshl_meant
  | vshr => exact execVshr_meant
  | vshra => exact execVshra_meant
  | vbcast => exact execVbcast_meant
  | vext => exact execVext_meant
  | vins => exact execVins_meant
  | vperm => exact execVperm_meant
  | vslideup => exact execVslideup_meant
  | vslidedn => exact execVslidedn_meant
  | viota => exact execViota_meant
  | kand => exact execKand_meant
  | kor => exact execKor_meant
  | kxor => exact execKxor_meant
  | knot => exact execKnot_meant
  | kcnt => exact execKcnt_meant
  | kmov => exact execKmov_meant
  | vradd => exact execVradd_meant
  | vrmin => exact execVrmin_meant
  | vrmax => exact execVrmax_meant
  | vrfadd => exact execVrfadd_meant
  | vrfmin => exact execVrfmin_meant
  | vrfmax => exact execVrfmax_meant
  | scfg => exact execScfg_meant
  | sfree => exact execSfree_meant
  | vloop => exact execVloop_meant
  | vmov => exact execVmov_meant
  | vmovgFromG => exact execVmovgFromG_meant
  | vmovgToG => exact execVmovgToG_meant
  | vmadd => exact execVmadd_meant
  | vmsub => exact execVmsub_meant
  | vmneg => exact execVmneg_meant
  | vmmul => exact execVmmul_meant
  | vmmac => exact execVmmac_meant
  | vmred => exact execVmred_meant
  | vmcvtI64 => exact execVmcvtI64_meant
  | vmcvtMn => exact execVmcvtMn_meant
  | vmcvtMs => exact execVmcvtMs_meant
  | mqgen => exact execMqgen_meant
  | mqld => exact execMqld_meant
  | bfly => exact execBfly_meant
  | ibfly => exact execIbfly_meant
  | bperm => exact execBperm_meant
  | bpermx => exact execBpermx_meant
  | vbitrev => exact execVbitrev_meant
  | vfft2 => exact execVfft2_meant
  | vcmul => exact execVcmul_meant
  | zalloc => exact execZalloc_meant
  | zfree => exact execZfree_meant
  | zzero => exact execZzero_meant
  | zmma => exact execZmma_meant
  | zmmas => exact execZmmas_meant
  | zldc => exact execZldc_meant
  | zstore => exact execZstore_meant
  | zread => exact execZread_meant
  | zwm => exact execZwm_meant
  | zwait => exact execZwait_meant
  | zscl => exact execZscl_meant
  | zstatT => exact execZstatT_meant
  | zstatF => exact execZstatF_meant
  | zstatS => exact execZstatS_meant

/-! ## Fetch and steps -/

theorem fetchGlobal_meant {va k} : FailsAs XErr.Meant (s.fetchGlobal va k) := by
  induction k generalizing va with
  | zero => trivial
  | succ k ih =>
    unfold State.fetchGlobal
    split
    · rename_i he
      exact xlateChecked_meant.get he
    · split
      · rename_i he
        exact ih.get he
      · trivial

/-- A fetch that ends with a fault does so at an address with no memory behind it. -/
theorem fetch_eq_fault {f} (hf : s.fetch = .fault f) : f.Unbacked := by
  unfold State.fetch at hf
  extract_lets a at hf
  split at hf
  · cases hf
  · split at hf
    · cases hf
    · split at hf
      · split at hf
        · cases hf
        · cases hf
        · dsimp only at hf
          split at hf <;> cases hf
      · split at hf
        · cases hf
        · cases hf
        · rename_i he
          cases hf
          exact fetchGlobal_meant.get he
        · dsimp only at hf
          split at hf <;> cases hf

theorem issueWithGang_meant {i n} : Meant (issueWithGang exec i n s) := by
  unfold issueWithGang
  split
  · refine .ite ?_ trivial
    split
    · trivial
    · exact fanOut_meant exec_meant
  · exact exec_meant i s

theorem stepCore_meant {n} : Meant (stepCore n s) := by
  unfold stepCore
  extract_lets fetching
  split
  · split
    · trivial
    · exact exec_meant _ _
  · split
    · trivial
    · trivial
    · rename_i hf
      exact fetch_eq_fault hf
    · split
      · trivial
      · exact .ite trivial issueWithGang_meant

theorem turnOf_meant {n} : Meant (turnOf n s) := by
  refine .ite ?_ trivial
  split
  · trivial
  · exact .ite stepCore_meant trivial

theorem doWork_meant {w} : Meant (s.doWork w) := by
  unfold State.doWork
  split
  · exact exec_meant _ _
  · trivial

theorem step_meant : Meant (step s) := by
  unfold step
  split
  · exact exec_meant _ _
  · split
    · exact .ite trivial (exec_meant _ _)
    · exact turnOf_meant
    · refine .ite trivial ?_
      split
      · exact exec_meant _ _
      · split
        · rename_i hx
          obtain ⟨n, -, first, -⟩ := firstTurn_eq_some hx
          split
          · exact doWork_meant
          · rw [first]
            exact turnOf_meant
        · split
          · exact doWork_meant
          · trivial

theorem Meant.ne_refused {o r} (ho : Meant o) : o ≠ .refused r := by
  rintro rfl
  exact ho
theorem Meant.fault {o f} (ho : Meant o) (hf : o = .fault f) : ∃ pa, f = .noPhysicalMemory pa ∧ physOk pa = false := by
  subst hf
  cases f with
  | noPhysicalMemory pa => exact ⟨pa, rfl, ho⟩

end Sys2Proof.Machine

namespace Sys2Proof
open Machine

/-- Settles O59: each meaning is one, form by form, and so is a step: an event, the service of an event line or the turn of a core. -/
theorem stepNeverRefuses : Obligations.StepNeverRefuses := fun _ i =>
  ⟨fun _ => (exec_meant i _).ne_refused, fun _ => step_meant.ne_refused, fun _ => step_meant.fault⟩

end Sys2Proof
end

section
/-! The decoder and the encoder read one table (R20, R32 to R41): a word is its fields, the fields that the encoder gives an instruction
pass every check of its row, and the fields that pass the checks of a row are those that the encoder gives its instruction. -/
namespace Sys2Proof
open Laws

/-! ## A word is its fields (R20) -/

open BitVec in
theorem Raw.unpack_pack (r : Raw) : Raw.unpack r.pack = r := by
  obtain ⟨opc, grd, hnt, dst, sa, sb, fn, mod, imm⟩ := r
  simp only [Raw.unpack, Raw.pack, extractLsb'_append_eq_of_le (v := 64) (w := 32), extractLsb'_append_eq_of_le (v := 56) (w := 8),
    extractLsb'_append_eq_of_le (v := 47) (w := 9), extractLsb'_append_eq_of_le (v := 40) (w := 7),
    extractLsb'_append_eq_of_le (v := 33) (w := 7), extractLsb'_append_eq_of_le (v := 26) (w := 7),
    extractLsb'_append_eq_of_le (v := 12) (w := 14), extractLsb'_append_eq_of_le (v := 8) (w := 4),
    Nat.reduceLeDiff, Nat.reduceSub, Raw.mk.injEq]
  exact ⟨extractLsb'_eq_self, extractLsb'_append_eq_right, extractLsb'_append_eq_right, extractLsb'_append_eq_right,
    extractLsb'_append_eq_right, extractLsb'_append_eq_right, extractLsb'_append_eq_right, extractLsb'_append_eq_right,
    extractLsb'_append_eq_right⟩

theorem Raw.pack_unpack (w : IWord) : (Raw.unpack w).pack = w := by
  simp only [Raw.unpack, Raw.pack, BitVec.extractLsb'_append_extractLsb'_eq_extractLsb']
  exact BitVec.extractLsb'_eq_self

theorem extractLsb'_within {w : Nat} (x : BitVec w) {s n t m : Nat} (h : t + m ≤ n) :
    (x.extractLsb' s n).extractLsb' t m = x.extractLsb' (s + t) m := by
  ext i hi
  simp [show t + i < n by omega, Nat.add_assoc]

theorem Raw.mk_eq_iff {r : Raw} {o g hn d a b f m i} : Raw.mk o g hn d a b f m i = r ↔
    o = r.opc ∧ g = r.grd ∧ hn = r.hnt ∧ d = r.dst ∧ a = r.sa ∧ b = r.sb ∧ f = r.fn ∧ m = r.mod ∧ i = r.imm := by
  cases r
  simp

/-! ## The rows that decoding finds (R35, R37) -/

/-- The opcodes that have a table are those of R35 that hold forms. -/
theorem formOf_isSome_iff (r : Raw) (h : Hdr) : (formOf r h).isSome = true ↔ r.opc.toNat ∈ Claims.usedOpcodes := by
  simp only [formOf, apply_ite Option.isSome, Option.isSome_some, Option.isSome_none]
  generalize r.opc = o
  revert o
  decide

theorem decodeWord_zero : decodeWord 0 = .bad .illegalOpc 0x01 := rfl
theorem decodeWord_allOnes : decodeWord (BitVec.allOnes 96) = .bad .illegalOpc 0x02 := rfl

/-- A word that is neither all zeros nor all ones is decoded by its fields (R37). -/
theorem decodeWord_of_ne {w : IWord} (zero : w ≠ 0) (ones : w ≠ BitVec.allOnes 96) :
    decodeWord w = match formOf (Raw.unpack w) (Raw.unpack w).hdr with
      | none => .bad .illegalOpc 0x03
      | some none => .bad .illegalOpc 0x04
      | some (some q) => checkSel (Raw.unpack w) q := by
  rw [decodeWord, if_neg (by simpa using zero), if_neg (by simpa using ones)] <;> rfl

/-- A word whose opcode and FN select a row is decoded by the checks of the row. -/
theorem decodeWord_of_row {w : IWord} {q : Sel} (row : formOf (Raw.unpack w) (Raw.unpack w).hdr = some (some q)) :
    decodeWord w = checkSel (Raw.unpack w) q := by
  have used := (formOf_isSome_iff (Raw.unpack w) (Raw.unpack w).hdr).mp (by simp [row])
  rw [decodeWord_of_ne, row]
  · rintro rfl
    exact absurd used (by decide)
  · rintro rfl
    exact absurd used (by decide)

/-- A word that decodes has a row. -/
theorem row_of_decodeWord {w : IWord} {i : Instr} (h : decodeWord w = .ok i) :
    ∃ q, formOf (Raw.unpack w) (Raw.unpack w).hdr = some (some q) ∧ checkSel (Raw.unpack w) q = .ok i := by
  by_cases zero : w = 0
  · rw [zero, decodeWord_zero] at h
    cases h
  by_cases ones : w = BitVec.allOnes 96
  · rw [ones, decodeWord_allOnes] at h
    cases h
  rw [decodeWord_of_ne zero ones] at h
  match row : formOf (Raw.unpack w) (Raw.unpack w).hdr with
  | none => simp [row] at h
  | some none => simp [row] at h
  | some (some q) => exact ⟨q, rfl, by simpa [row] using h⟩

/-! ## What an accepted word passes (R37) -/

/-- What the checks 5 to 11 of R37 ask of the fields of a word, for a row of the tables. -/
structure Passes (s : Shape) (r : Raw) : Prop where
  mod : s.modOk = true
  hint : r.hnt.extractLsb' 9 5 = 0
  imm : r.imm &&& s.immBad = 0
  immOk : s.immOk = true
  dst : s.dst.ok r.dst = true
  sa : s.sa.ok r.sa = true
  sb : s.sb.ok r.sb = true
  dst0 : s.dst = .none → r.dst = 0
  sa0 : s.sa = .none → r.sa = 0
  sb0 : s.sb = .none → r.sb = 0
  dn : groupFits s.dn r.dst = true
  an : groupFits s.an r.sa = true
  bn : groupFits s.bn r.sb = true
  overlap : badOverlap s r = none

theorem badClass_eq_none {s : Shape} {r : Raw} (h : badClass s r = none) :
    s.dst.ok r.dst = true ∧ s.sa.ok r.sa = true ∧ s.sb.ok r.sb = true := by
  simpa [badClass, ite_eq_iff] using h
theorem badUnused_eq_none {s : Shape} {r : Raw} (h : badUnused s r = none) :
    (s.dst = .none → r.dst = 0) ∧ (s.sa = .none → r.sa = 0) ∧ (s.sb = .none → r.sb = 0) := by
  simpa [badUnused, ite_eq_iff, -BitVec.ofNat_eq_ofNat] using h
theorem badGroup_eq_none {s : Shape} {r : Raw} (h : badGroup s r = none) :
    groupFits s.dn r.dst = true ∧ groupFits s.an r.sa = true ∧ groupFits s.bn r.sb = true := by
  simpa [badGroup, ite_eq_iff] using h

/-- The fields that a check of the operands names (R37). -/
theorem badClass_field {s : Shape} {r : Raw} {f : Nat} (h : badClass s r = some f) : 1 ≤ f ∧ f ≤ 3 := by
  unfold badClass at h
  grind
theorem badUnused_field {s : Shape} {r : Raw} {f : Nat} (h : badUnused s r = some f) : 1 ≤ f ∧ f ≤ 3 := by
  unfold badUnused at h
  grind
theorem badGroup_field {s : Shape} {r : Raw} {f : Nat} (h : badGroup s r = some f) : 1 ≤ f ∧ f ≤ 3 := by
  unfold badGroup at h
  grind
theorem badOverlap_field {s : Shape} {r : Raw} {f : Nat} (h : badOverlap s r = some f) : 1 ≤ f ∧ f ≤ 3 := by
  unfold badOverlap at h
  grind

/-- What a refusal may be (R37): a reason of the opcode, or a field with a reason of its operand. -/
def IsRefusal (c : Cause) (x : BitVec 64) : Prop :=
  (c = .illegalOpc ∧ 1 ≤ x.toNat ∧ x.toNat ≤ 7) ∨
    (c = .illegalOpnd ∧ ∃ f reason, 1 ≤ f ∧ f ≤ 3 ∧ 1 ≤ reason ∧ reason ≤ 4 ∧ x.toNat = 0x100 * f + reason)

theorem isRefusal_opcode {reason : BitVec 64} (h : 1 ≤ reason.toNat ∧ reason.toNat ≤ 7) : IsRefusal .illegalOpc reason := .inl ⟨rfl, h⟩
theorem isRefusal_operand {f reason : Nat} (hf : 1 ≤ f ∧ f ≤ 3) (hr : 1 ≤ reason ∧ reason ≤ 4) :
    IsRefusal .illegalOpnd (BitVec.ofNat 64 (0x100 * f + reason)) := by
  refine .inr ⟨rfl, f, reason, hf.1, hf.2, hr.1, hr.2, ?_⟩
  rw [BitVec.toNat_ofNat]
  omega

/-- The checks of a row pass, and the word is the row's instruction, or the first that fails is a refusal of R37. -/
theorem checkSel_cases (r : Raw) (q : Sel) :
    (Passes q.shape r ∧ checkSel r q = .ok q.instr) ∨ ∃ c x, checkSel r q = .bad c x ∧ IsRefusal c x := by
  rw [checkSel]
  split
  · exact .inr ⟨_, _, rfl, isRefusal_opcode (by decide)⟩
  split
  · exact .inr ⟨_, _, rfl, isRefusal_opcode (by decide)⟩
  split
  · exact .inr ⟨_, _, rfl, isRefusal_opcode (by decide)⟩
  rename_i modOk hint imm
  split
  · exact .inr ⟨_, _, rfl, isRefusal_operand (badClass_field ‹_›) (by decide)⟩
  rename_i cls
  split
  · exact .inr ⟨_, _, rfl, isRefusal_operand (badUnused_field ‹_›) (by decide)⟩
  rename_i unused
  split
  · exact .inr ⟨_, _, rfl, isRefusal_operand (badGroup_field ‹_›) (by decide)⟩
  rename_i group
  split
  · exact .inr ⟨_, _, rfl, isRefusal_operand (badOverlap_field ‹_›) (by decide)⟩
  rename_i overlap
  simp only [Bool.not_eq_true', Bool.not_eq_false, bne_iff_ne, ne_eq, not_not, Bool.or_eq_true, not_or] at modOk hint imm
  obtain ⟨dst, sa, sb⟩ := badClass_eq_none cls
  obtain ⟨dst0, sa0, sb0⟩ := badUnused_eq_none unused
  obtain ⟨dn, an, bn⟩ := badGroup_eq_none group
  exact .inl ⟨⟨modOk, hint, imm.1, imm.2, dst, sa, sb, dst0, sa0, sb0, dn, an, bn, overlap⟩, rfl⟩

theorem checkSel_eq_ok {r : Raw} {q : Sel} {i : Instr} (h : checkSel r q = .ok i) : Passes q.shape r ∧ q.instr = i := by
  rcases checkSel_cases r q with ⟨passes, ok⟩ | ⟨c, x, bad, -⟩
  · exact ⟨passes, by simpa [ok] using h⟩
  · simp [bad] at h
theorem checkSel_eq_bad {r : Raw} {q : Sel} {c : Cause} {x : BitVec 64} (h : checkSel r q = .bad c x) : IsRefusal c x := by
  rcases checkSel_cases r q with ⟨-, ok⟩ | ⟨c', x', bad, refusal⟩
  · simp [ok] at h
  · cases bad.symm.trans h
    exact refusal

/-- Every refusal is one of R37. -/
theorem refusal_of_decodeWord {w : IWord} {c : Cause} {x : BitVec 64} (h : decodeWord w = .bad c x) : IsRefusal c x := by
  by_cases zero : w = 0
  · rw [zero, decodeWord_zero] at h
    cases h
    exact isRefusal_opcode (by decide)
  by_cases ones : w = BitVec.allOnes 96
  · rw [ones, decodeWord_allOnes] at h
    cases h
    exact isRefusal_opcode (by decide)
  rw [decodeWord_of_ne zero ones] at h
  split at h
  · cases h
    exact isRefusal_opcode (by decide)
  · cases h
    exact isRefusal_opcode (by decide)
  · exact checkSel_eq_bad h

/-! ## Operand numbers name registers (R32, R33, R38) -/

@[simp] theorem opG_gOf {x : BitVec 7} (h : isG x = true) : opG (gOf x) = x := by revert x; decide
@[simp] theorem opV_vOf {x : BitVec 7} (h : isV x = true) : opV (vOf x) = x := by revert x; decide
@[simp] theorem opP_pOf {x : BitVec 7} (h : isP x = true) : opP (pOf x) = x := by revert x; decide
@[simp] theorem opK_kOf {x : BitVec 7} (h : isK x = true) : opK (kOf x) = x := by revert x; decide
@[simp] theorem opVG_vgOf {x : BitVec 7} (h : isG x = true ∨ isV x = true) : opVG (vgOf x) = x := by revert x; decide
@[simp] theorem isG_of_isV {x : BitVec 7} (h : isV x = true) : isG x = false := by revert x; decide
@[simp] theorem isG_of_isP {x : BitVec 7} (h : isP x = true) : isG x = false := by revert x; decide
@[simp] theorem isG_of_isK {x : BitVec 7} (h : isK x = true) : isG x = false := by revert x; decide
@[simp] theorem fileIndex_of_isG {x : BitVec 7} (h : isG x = true) : fileIndex x = (gOf x).val := by revert x; decide
@[simp] theorem fileIndex_of_isV {x : BitVec 7} (h : isV x = true) : fileIndex x = (vOf x).val := by revert x; decide
@[simp] theorem fileSize_of_isG {x : BitVec 7} (h : isG x = true) : fileSize x = 64 := by simp [fileSize, h]
@[simp] theorem fileSize_of_isV {x : BitVec 7} (h : isV x = true) : fileSize x = 48 := by simp [fileSize, h]

theorem groupOk_one {n : Nat} (v : Fin n) : groupOk 1 n v.val = true := by simp [groupOk, Nat.mod_one]
@[simp] theorem groupFits_one (x : BitVec 7) : groupFits 1 x = true := rfl
@[simp] theorem groupFits_of_isG {n : Nat} {x : BitVec 7} (h : isG x = true) : groupFits n x = groupOk n 64 (gOf x).val := by
  by_cases hn : n = 1 <;> simp [groupFits, h, hn, groupOk_one]
@[simp] theorem groupFits_of_isV {n : Nat} {x : BitVec 7} (h : isV x = true) : groupFits n x = groupOk n 48 (vOf x).val := by
  by_cases hn : n = 1 <;> simp [groupFits, h, hn, groupOk_one]

/-! ## Fields that are put together from their parts (R26, R36)

A part of a field, back at its place, is the field under a mask; so the parts that a form names are the field where the bits outside
them are zero. The lemmas for simp speak of the fields of a word alone. -/

theorem setWidth_extractLsb'_shift {w : Nat} (x : BitVec w) (lo n : Nat) :
    (x.extractLsb' lo n).setWidth w <<< lo = x &&& ((BitVec.allOnes n).setWidth w <<< lo) := by
  ext i hi
  by_cases h : i < lo
  · simp [h]
  · simp [h, show lo + (i - lo) = i by omega, Bool.and_comm, BitVec.getLsbD_eq_getElem hi]
theorem setWidth_extractLsb'_zero {w : Nat} (x : BitVec w) (n : Nat) :
    (x.extractLsb' 0 n).setWidth w = x &&& ((BitVec.allOnes n).setWidth w) := by
  simpa using setWidth_extractLsb'_shift x 0 n
theorem ofBool_getLsbD {w : Nat} (x : BitVec w) (i : Nat) : BitVec.ofBool (x.getLsbD i) = x.extractLsb' i 1 := by
  ext j hj
  simp [show j = 0 by omega]
theorem bitAt_eq (w lo : Nat) (b : Bool) : bitAt w lo b = (BitVec.ofBool b).setWidth w <<< lo := by
  cases b
  · simp [bitAt]
  · apply BitVec.eq_of_toNat_eq
    simp [bitAt, Nat.shiftLeft_eq, ← Nat.pow_mod]
theorem bitAt_getElem {w : Nat} (x : BitVec w) (lo : Nat) (h : lo < w) : bitAt w lo x[lo] = x &&& 1#w <<< lo := by
  have one : (BitVec.allOnes 1).setWidth w = 1#w := BitVec.eq_of_toNat_eq (by simp)
  rw [bitAt_eq, ← BitVec.getLsbD_eq_getElem, ofBool_getLsbD, setWidth_extractLsb'_shift, one]
theorem append_extractLsb'_low {k n : Nat} {x : BitVec (k + n)} {c : BitVec k} (h : x.extractLsb' n k = c) :
    c ++ x.extractLsb' 0 n = x := by
  subst h
  exact BitVec.extractLsb'_append_extractLsb'

/-- A field is the part under a mask where its other bits are zero. -/
theorem and_eq_self_iff {w : Nat} (x m : BitVec w) : x &&& m = x ↔ x &&& ~~~m = 0 := by
  simp only [BitVec.eq_of_getLsbD_eq_iff, BitVec.getLsbD_and, BitVec.getLsbD_not]
  refine forall₂_congr fun i hi => ?_
  cases x.getLsbD i <;> cases m.getLsbD i <;> simp [hi]
theorem and_submask {w : Nat} {x a b : BitVec w} (h : x &&& a = 0#w) (sub : a &&& b = b) : x &&& b = 0#w := by
  rw [← sub, ← BitVec.and_assoc, h, BitVec.zero_and]

section
variable (r : Raw)

@[simp] theorem Raw.mod_part (lo n : Nat) : (r.mod.extractLsb' lo n).setWidth 8 <<< lo = r.mod &&& ((BitVec.allOnes n).setWidth 8 <<< lo) :=
  setWidth_extractLsb'_shift ..
@[simp] theorem Raw.mod_low (n : Nat) : (r.mod.extractLsb' 0 n).setWidth 8 = r.mod &&& ((BitVec.allOnes n).setWidth 8) :=
  setWidth_extractLsb'_zero ..
@[simp] theorem Raw.mod_bit (lo : Nat) (h : lo < 8) : bitAt 8 lo r.mod[lo] = r.mod &&& 1#8 <<< lo := bitAt_getElem ..
@[simp] theorem Raw.mod_parts (a b : BitVec 8) : r.mod &&& a ||| r.mod &&& b = r.mod &&& (a ||| b) := BitVec.and_or_distrib_left.symm
@[simp] theorem Raw.mod_whole (m : BitVec 8) : r.mod &&& m = r.mod ↔ r.mod &&& ~~~m = 0 := and_eq_self_iff ..
@[simp] theorem Raw.mod_ones : r.mod &&& 255#8 = r.mod := BitVec.and_allOnes

@[simp] theorem Raw.imm_part (lo n : Nat) :
    (r.imm.extractLsb' lo n).setWidth 32 <<< lo = r.imm &&& ((BitVec.allOnes n).setWidth 32 <<< lo) := setWidth_extractLsb'_shift ..
@[simp] theorem Raw.imm_low (n : Nat) : (r.imm.extractLsb' 0 n).setWidth 32 = r.imm &&& ((BitVec.allOnes n).setWidth 32) :=
  setWidth_extractLsb'_zero ..
@[simp] theorem Raw.imm_bit (lo : Nat) (h : lo < 32) : bitAt 32 lo r.imm[lo] = r.imm &&& 1#32 <<< lo := bitAt_getElem ..
@[simp] theorem Raw.imm_parts (a b : BitVec 32) : r.imm &&& a ||| r.imm &&& b = r.imm &&& (a ||| b) := BitVec.and_or_distrib_left.symm
@[simp] theorem Raw.imm_whole (m : BitVec 32) : r.imm &&& m = r.imm ↔ r.imm &&& ~~~m = 0 := and_eq_self_iff ..
@[simp] theorem Raw.imm_ones : r.imm &&& 4294967295#32 = r.imm := BitVec.and_allOnes

@[simp] theorem Raw.fn_of_tag (h : r.fn.extractLsb' 8 1 = 0#1) : (r.fn.extractLsb' 0 8).setWidth 9 = r.fn := by
  have key : ∀ x : BitVec 9, x.extractLsb' 8 1 = 0#1 → (x.extractLsb' 0 8).setWidth 9 = x := by decide
  exact key r.fn h
@[simp] theorem Raw.fn_of_store {c : BitVec 1} (h : r.fn.extractLsb' 8 1 = c) : c ++ r.fn.extractLsb' 0 8 = r.fn :=
  append_extractLsb'_low h
@[simp] theorem Raw.fn_of_kind {c : BitVec 3} (h : r.fn.extractLsb' 6 3 = c) : c ++ r.fn.extractLsb' 0 6 = r.fn :=
  append_extractLsb'_low h
@[simp] theorem Raw.fn_of_width {c : BitVec 7} (h : r.fn.extractLsb' 2 7 = c) : c ++ r.fn.extractLsb' 0 2 = r.fn :=
  append_extractLsb'_low h

@[simp] theorem Raw.hdr_grd : r.hdr.grd = r.grd := rfl
@[simp] theorem Raw.hdr_hnt (h : r.hnt.extractLsb' 9 5 = 0) : r.hdr.hnt = r.hnt := by
  have reserved : 0#5 = r.hnt.extractLsb' 9 5 := h.symm
  simp only [Hdr.hnt, Raw.hdr, ofBool_getLsbD, reserved, BitVec.extractLsb'_append_extractLsb'_eq_extractLsb']
  exact BitVec.extractLsb'_eq_self

end

@[simp] theorem ofNat_fin8 (w : Nat) (x : BitVec 3) : BitVec.ofNat w (fin8 x).val = x.setWidth w := BitVec.ofNat_toNat ..
@[simp] theorem ofNat_fin4 (w : Nat) (x : BitVec 2) : BitVec.ofNat w (fin4 x).val = x.setWidth w := BitVec.ofNat_toNat ..

/-! ## A row is passed by the fields of its instruction alone -/

/-- Where the row `o` of the tables, if it is one, is passed by the fields `r`, its instruction is well formed and has these fields. -/
def Exact (r : Raw) (o : Option Sel) : Prop :=
  ∀ q, o = some q → Passes q.shape r → q.instr.wf = true ∧ encodeRaw q.instr = some r

theorem Exact.none {r : Raw} : Exact r .none := fun _ h => by cases h

theorem Exact.row {r : Raw} {s : Shape} {i : Instr}
    (h : s.modOk = true → r.hnt.extractLsb' 9 5 = 0 → r.imm &&& s.immBad = 0 → s.immOk = true →
      s.dst.ok r.dst = true → s.sa.ok r.sa = true → s.sb.ok r.sb = true →
      (s.dst = .none → r.dst = 0) → (s.sa = .none → r.sa = 0) → (s.sb = .none → r.sb = 0) →
      groupFits s.dn r.dst = true → groupFits s.an r.sa = true → groupFits s.bn r.sb = true → badOverlap s r = Option.none →
      i.wf = true ∧ encodeRaw i = some r) : Exact r (some ⟨s, i⟩) := by
  rintro q hq ⟨mod, hint, imm, immOk, dst, sa, sb, dst0, sa0, sb0, dn, an, bn, overlap⟩
  cases hq
  exact h mod hint imm immOk dst sa sb dst0 sa0 sb0 dn an bn overlap

theorem Exact.ite {r : Raw} {c : Prop} [Decidable c] {a b : Option Sel} (ha : c → Exact r a) (hb : Exact r b) :
    Exact r (if c then a else b) := by
  split
  · exact ha ‹c›
  · exact hb

/-! One lemma for each opcode: its table, row by row. The text is uniform but where a field depends on another one. -/

section
set_option Elab.async false

theorem exact_form01 {r : Raw} (ho : r.opc = 0x01#8) : Exact r (form01 r r.hdr) := by
  unfold form01
  repeat' first | exact Exact.none | refine Exact.ite (fun fn => Exact.row ?_) ?_
  all_goals intros; simp_all [Cls.ok, badOverlap, Instr.wf, encodeRaw, Raw.base, Raw.mk_eq_iff]
theorem exact_form02 {r : Raw} (ho : r.opc = 0x02#8) : Exact r (form02 r r.hdr) := by
  unfold form02
  repeat' first | exact Exact.none | refine Exact.ite (fun fn => Exact.row ?_) ?_
  all_goals intros; simp_all [Cls.ok, badOverlap, Instr.wf, encodeRaw, Raw.base, Raw.mk_eq_iff]
/-- MOD of a shift (R112): the width bit, and the bit that an immediate count sets. -/
theorem shiftMod_immediate {x : BitVec 8} (h : x &&& 207#8 = 0#8) (b : x[5] = true) : x &&& 16#8 ||| 32#8 = x := by revert x; decide
theorem shiftMod_register {x : BitVec 8} (h : x &&& 207#8 = 0#8) (b : x[5] = false) : x &&& 239#8 = 0#8 := by revert x; decide
/-- An immediate count is below the width of the shift. -/
theorem shiftCount_fits {x : BitVec 32} {w : Bool} (h : x &&& (if w = true then 0xFFFFFFE0#32 else 0xFFFFFFC0#32) = 0#32) :
    (w = false ∨ (x.extractLsb' 0 6).ult 32#6 = true) ∧ x &&& 0xFFFFFFC0#32 = 0#32 := by
  cases w
  · exact ⟨.inl rfl, h⟩
  · have low := congrArg (·.extractLsb' 0 6) h
    simp only [BitVec.extractLsb'_and] at low
    refine ⟨.inr ?_, and_submask h rfl⟩
    clear h
    generalize x.extractLsb' 0 6 = y at low ⊢
    revert y
    decide
theorem exact_form03 {r : Raw} (ho : r.opc = 0x03#8) : Exact r (form03 r r.hdr) := by
  unfold form03
  repeat' first | exact Exact.none | refine Exact.ite (fun fn => Exact.row ?_) ?_
  all_goals
    intro mod hint imm
    intros
    cases source : r.mod[5]
    · simp_all [Cls.ok, badOverlap, Instr.wf, encodeRaw, Raw.base, Raw.mk_eq_iff, shiftMod_register]
    · have fits := shiftCount_fits (w := r.mod[4]) (by simpa [source] using imm)
      simp_all [Cls.ok, badOverlap, Instr.wf, encodeRaw, Raw.base, Raw.mk_eq_iff, shiftMod_immediate]
theorem exact_form04 {r : Raw} (ho : r.opc = 0x04#8) : Exact r (form04 r r.hdr) := by
  unfold form04
  repeat' first | exact Exact.none | refine Exact.ite (fun fn => Exact.row ?_) ?_
  all_goals intros; simp_all [Cls.ok, badOverlap, Instr.wf, encodeRaw, Raw.base, Raw.mk_eq_iff]
theorem exact_form05 {r : Raw} (ho : r.opc = 0x05#8) : Exact r (form05 r r.hdr) := by
  unfold form05
  repeat' first | exact Exact.none | refine Exact.ite (fun fn => Exact.row ?_) ?_
  all_goals intros; simp_all [Cls.ok, badOverlap, Instr.wf, encodeRaw, Raw.base, Raw.mk_eq_iff]
theorem exact_form06 {r : Raw} (ho : r.opc = 0x06#8) : Exact r (form06 r r.hdr) := by
  unfold form06
  repeat' first | exact Exact.none | refine Exact.ite (fun fn => Exact.row ?_) ?_
  all_goals intros; simp_all [Cls.ok, badOverlap, Instr.wf, encodeRaw, Raw.base, Raw.mk_eq_iff]
theorem exact_form07 {r : Raw} (ho : r.opc = 0x07#8) : Exact r (form07 r r.hdr) := by
  unfold form07
  repeat' first | exact Exact.none | refine Exact.ite (fun fn => Exact.row ?_) ?_
  all_goals intros; simp_all [Cls.ok, badOverlap, Instr.wf, encodeRaw, Raw.base, Raw.mk_eq_iff]
theorem exact_form08 {r : Raw} (ho : r.opc = 0x08#8) : Exact r (form08 r r.hdr) := by
  unfold form08
  repeat' first | exact Exact.none | refine Exact.ite (fun fn => Exact.row ?_) ?_
  all_goals intros; cases toG : isG r.dst <;> simp_all [Cls.ok, badOverlap, Instr.wf, encodeRaw, Raw.base, Raw.mk_eq_iff]
theorem exact_form09 {r : Raw} (ho : r.opc = 0x09#8) : Exact r (form09 r r.hdr) := by
  unfold form09
  repeat' first | exact Exact.none | refine Exact.ite (fun fn => Exact.row ?_) ?_
  all_goals intros; simp_all [Cls.ok, badOverlap, Instr.wf, encodeRaw, Raw.base, Raw.mk_eq_iff]
/-- MOD of CMP (R120): the condition, the width bit, and the bit that an immediate operand sets. -/
theorem cmpMod_immediate {x : BitVec 8} (h : x &&& 192#8 = 0#8) (b : x[5] = true) : x &&& 31#8 ||| 32#8 = x := by revert x; decide
theorem cmpMod_register {x : BitVec 8} (h : x &&& 192#8 = 0#8) (b : x[5] = false) : x &&& 224#8 = 0#8 := by revert x; decide
theorem exact_form0A {r : Raw} (ho : r.opc = 0x0A#8) : Exact r (form0A r r.hdr) := by
  unfold form0A
  repeat' first | exact Exact.none | refine Exact.ite (fun fn => Exact.row ?_) ?_
  all_goals
    intros
    cases source : r.mod[5]
    · simp_all [Cls.ok, badOverlap, Instr.wf, encodeRaw, Raw.base, Raw.mk_eq_iff, cmpMod_register]
    · simp_all [Cls.ok, badOverlap, Instr.wf, encodeRaw, Raw.base, Raw.mk_eq_iff, cmpMod_immediate]
theorem exact_form0B {r : Raw} (ho : r.opc = 0x0B#8) : Exact r (form0B r r.hdr) := by
  unfold form0B
  repeat' first | exact Exact.none | refine Exact.ite (fun fn => Exact.row ?_) ?_
  all_goals intros; simp_all [Cls.ok, badOverlap, Instr.wf, encodeRaw, Raw.base, Raw.mk_eq_iff]
theorem exact_form0C {r : Raw} (ho : r.opc = 0x0C#8) : Exact r (form0C r r.hdr) := by
  unfold form0C
  repeat' first | exact Exact.none | refine Exact.ite (fun fn => Exact.row ?_) ?_
  all_goals intros; simp_all [Cls.ok, badOverlap, Instr.wf, encodeRaw, Raw.base, Raw.mk_eq_iff]
theorem exact_form0D {r : Raw} (ho : r.opc = 0x0D#8) : Exact r (form0D r r.hdr) := by
  unfold form0D
  repeat' first | exact Exact.none | refine Exact.ite (fun fn => Exact.row ?_) ?_
  all_goals intros; simp_all [Cls.ok, badOverlap, Instr.wf, encodeRaw, Raw.base, Raw.mk_eq_iff]
theorem exact_form10 {r : Raw} (ho : r.opc = 0x10#8) : Exact r (form10 r r.hdr) := by
  unfold form10
  repeat' first | exact Exact.none | refine Exact.ite (fun fn => Exact.row ?_) ?_
  all_goals intros; simp_all [Cls.ok, badOverlap, Instr.wf, encodeRaw, Raw.base, Raw.mk_eq_iff]
theorem exact_form11 {r : Raw} (ho : r.opc = 0x11#8) : Exact r (form11 r r.hdr) := by
  unfold form11
  repeat' first | exact Exact.none | refine Exact.ite (fun fn => Exact.row ?_) ?_
  all_goals intros; simp_all [Cls.ok, badOverlap, Instr.wf, encodeRaw, Raw.base, Raw.mk_eq_iff]
theorem exact_form12 {r : Raw} (ho : r.opc = 0x12#8) : Exact r (form12 r r.hdr) := by
  unfold form12
  repeat' first | exact Exact.none | refine Exact.ite (fun fn => Exact.row ?_) ?_
  all_goals intros; simp_all [Cls.ok, badOverlap, Instr.wf, encodeRaw, Raw.base, Raw.mk_eq_iff]
theorem exact_form13 {r : Raw} (ho : r.opc = 0x13#8) : Exact r (form13 r r.hdr) := by
  unfold form13
  repeat' first | exact Exact.none | refine Exact.ite (fun fn => Exact.row ?_) ?_
  all_goals intros; simp_all [Cls.ok, badOverlap, Instr.wf, encodeRaw, Raw.base, Raw.mk_eq_iff]
theorem exact_form14 {r : Raw} (ho : r.opc = 0x14#8) : Exact r (form14 r r.hdr) := by
  unfold form14
  repeat' first | exact Exact.none | refine Exact.ite (fun fn => Exact.row ?_) ?_
  all_goals intros; simp_all [Cls.ok, badOverlap, Instr.wf, encodeRaw, Raw.base, Raw.mk_eq_iff]
theorem exact_form15 {r : Raw} (ho : r.opc = 0x15#8) : Exact r (form15 r r.hdr) := by
  unfold form15
  repeat' first | exact Exact.none | refine Exact.ite (fun fn => Exact.row ?_) ?_
  all_goals intros; simp_all [Cls.ok, badOverlap, Instr.wf, encodeRaw, Raw.base, Raw.mk_eq_iff]
theorem exact_form18 {r : Raw} (ho : r.opc = 0x18#8) : Exact r (form18 r r.hdr) := by
  unfold form18
  repeat' first | exact Exact.none | refine Exact.ite (fun fn => Exact.row ?_) ?_
  all_goals intros; simp_all [Cls.ok, badOverlap, Instr.wf, encodeRaw, Raw.base, Raw.mk_eq_iff]
theorem exact_form19 {r : Raw} (ho : r.opc = 0x19#8) : Exact r (form19 r r.hdr) := by
  unfold form19
  repeat' first | exact Exact.none | refine Exact.ite (fun fn => Exact.row ?_) ?_
  all_goals intros; simp_all [Cls.ok, badOverlap, Instr.wf, encodeRaw, Raw.base, Raw.mk_eq_iff]
theorem exact_form1A {r : Raw} (ho : r.opc = 0x1A#8) : Exact r (form1A r r.hdr) := by
  unfold form1A
  repeat' first | exact Exact.none | refine Exact.ite (fun fn => Exact.row ?_) ?_
  all_goals intros; simp_all [Cls.ok, badOverlap, Instr.wf, encodeRaw, Raw.base, Raw.mk_eq_iff]
theorem exact_form1B {r : Raw} (ho : r.opc = 0x1B#8) : Exact r (form1B r r.hdr) := by
  unfold form1B
  repeat' first | exact Exact.none | refine Exact.ite (fun fn => Exact.row ?_) ?_
  all_goals intros; simp_all [Cls.ok, badOverlap, Instr.wf, encodeRaw, Raw.base, Raw.mk_eq_iff]
theorem exact_form1C {r : Raw} (ho : r.opc = 0x1C#8) : Exact r (form1C r r.hdr) := by
  unfold form1C
  repeat' first | exact Exact.none | refine Exact.ite (fun fn => Exact.row ?_) ?_
  all_goals intros; simp_all [Cls.ok, badOverlap, Instr.wf, encodeRaw, Raw.base, Raw.mk_eq_iff]
theorem exact_form1D {r : Raw} (ho : r.opc = 0x1D#8) : Exact r (form1D r r.hdr) := by
  unfold form1D
  repeat' first | exact Exact.none | refine Exact.ite (fun fn => Exact.row ?_) ?_
  all_goals intros; simp_all [Cls.ok, badOverlap, Instr.wf, encodeRaw, Raw.base, Raw.mk_eq_iff]
theorem exact_form20 {r : Raw} (ho : r.opc = 0x20#8) : Exact r (form20 r r.hdr) := by
  unfold form20
  repeat' first | exact Exact.none | refine Exact.ite (fun fn => Exact.row ?_) ?_
  all_goals intros; simp_all [Cls.ok, badOverlap, Instr.wf, encodeRaw, Raw.base, Raw.mk_eq_iff]
theorem exact_form21 {r : Raw} (ho : r.opc = 0x21#8) : Exact r (form21 r r.hdr) := by
  unfold form21
  repeat' first | exact Exact.none | refine Exact.ite (fun fn => Exact.row ?_) ?_
  all_goals intros; simp_all [Cls.ok, badOverlap, Instr.wf, encodeRaw, Raw.base, Raw.mk_eq_iff]
theorem exact_form22 {r : Raw} (ho : r.opc = 0x22#8) : Exact r (form22 r r.hdr) := by
  unfold form22
  repeat' first | exact Exact.none | refine Exact.ite (fun fn => Exact.row ?_) ?_
  all_goals intros; simp_all [Cls.ok, badOverlap, Instr.wf, encodeRaw, Raw.base, Raw.mk_eq_iff]
theorem exact_form23 {r : Raw} (ho : r.opc = 0x23#8) : Exact r (form23 r r.hdr) := by
  unfold form23
  repeat' first | exact Exact.none | refine Exact.ite (fun fn => Exact.row ?_) ?_
  all_goals intros; simp_all [Cls.ok, badOverlap, Instr.wf, encodeRaw, Raw.base, Raw.mk_eq_iff]
/-- FN of an atomic (R217) names one of ten operations. -/
theorem operation_of_fn {x : BitVec 9} (h : x.ult 10#9 = true) :
    (x.extractLsb' 0 4).ult 10#4 = true ∧ (x.extractLsb' 0 4 = 0#4 ↔ x = 0#9) ∧ (x.extractLsb' 0 4).setWidth 9 = x := by
  revert x; decide
theorem exact_form28 {r : Raw} (ho : r.opc = 0x28#8) : Exact r (form28 r r.hdr) := by
  unfold form28
  repeat' first | exact Exact.none | refine Exact.ite (fun fn => Exact.row ?_) ?_
  all_goals intros; simp_all [Cls.ok, badOverlap, Instr.wf, encodeRaw, Raw.base, Raw.mk_eq_iff, operation_of_fn]
theorem exact_form29 {r : Raw} (ho : r.opc = 0x29#8) : Exact r (form29 r r.hdr) := by
  unfold form29
  repeat' first | exact Exact.none | refine Exact.ite (fun fn => Exact.row ?_) ?_
  all_goals intros; simp_all [Cls.ok, badOverlap, Instr.wf, encodeRaw, Raw.base, Raw.mk_eq_iff]
theorem exact_form2A {r : Raw} (ho : r.opc = 0x2A#8) : Exact r (form2A r r.hdr) := by
  unfold form2A
  repeat' first | exact Exact.none | refine Exact.ite (fun fn => Exact.row ?_) ?_
  all_goals intros; simp_all [Cls.ok, badOverlap, Instr.wf, encodeRaw, Raw.base, Raw.mk_eq_iff, operation_of_fn]
/-- MOD of EVSIG to an event line says whether a register names the target cluster. -/
theorem evsigMod_target {x : BitVec 8} (h : x &&& 251#8 = 0#8) (b : x[2] = true) : 4#8 = x := by revert x; decide
theorem evsigMod_own {x : BitVec 8} (h : x &&& 251#8 = 0#8) (b : x[2] = false) : 0#8 = x := by revert x; decide
theorem exact_form2B {r : Raw} (ho : r.opc = 0x2B#8) : Exact r (form2B r r.hdr) := by
  unfold form2B
  repeat' first | exact Exact.none | refine Exact.ite (fun fn => Exact.row ?_) ?_
  case refine_1 =>
    intro mod hint imm
    intros
    cases target : r.mod[2]
    · simp_all [Cls.ok, badOverlap, Instr.wf, encodeRaw, Raw.base, Raw.mk_eq_iff]
      exact evsigMod_own mod target
    · simp_all [Cls.ok, badOverlap, Instr.wf, encodeRaw, Raw.base, Raw.mk_eq_iff]
      exact evsigMod_target mod target
  all_goals intros; simp_all [Cls.ok, badOverlap, Instr.wf, encodeRaw, Raw.base, Raw.mk_eq_iff]
theorem exact_form2C {r : Raw} (ho : r.opc = 0x2C#8) : Exact r (form2C r r.hdr) := by
  unfold form2C
  repeat' first | exact Exact.none | refine Exact.ite (fun fn => Exact.row ?_) ?_
  all_goals intros; simp_all [Cls.ok, badOverlap, Instr.wf, encodeRaw, Raw.base, Raw.mk_eq_iff]
theorem exact_form2D {r : Raw} (ho : r.opc = 0x2D#8) : Exact r (form2D r r.hdr) := by
  unfold form2D
  repeat' first | exact Exact.none | refine Exact.ite (fun fn => Exact.row ?_) ?_
  all_goals intros; simp_all [Cls.ok, badOverlap, Instr.wf, encodeRaw, Raw.base, Raw.mk_eq_iff]
theorem exact_form2E {r : Raw} (ho : r.opc = 0x2E#8) : Exact r (form2E r r.hdr) := by
  unfold form2E
  repeat' first | exact Exact.none | refine Exact.ite (fun fn => Exact.row ?_) ?_
  all_goals intros; simp_all [Cls.ok, badOverlap, Instr.wf, encodeRaw, Raw.base, Raw.mk_eq_iff]
theorem exact_form30 {r : Raw} (ho : r.opc = 0x30#8) : Exact r (form30 r r.hdr) := by
  unfold form30
  repeat' first | exact Exact.none | refine Exact.ite (fun fn => Exact.row ?_) ?_
  all_goals intros; simp_all [Cls.ok, badOverlap, Instr.wf, encodeRaw, Raw.base, Raw.mk_eq_iff]
theorem exact_form31 {r : Raw} (ho : r.opc = 0x31#8) : Exact r (form31 r r.hdr) := by
  unfold form31
  repeat' first | exact Exact.none | refine Exact.ite (fun fn => Exact.row ?_) ?_
  all_goals intros; simp_all [Cls.ok, badOverlap, Instr.wf, encodeRaw, Raw.base, Raw.mk_eq_iff]
theorem exact_form32 {r : Raw} (ho : r.opc = 0x32#8) : Exact r (form32 r r.hdr) := by
  unfold form32
  repeat' first | exact Exact.none | refine Exact.ite (fun fn => Exact.row ?_) ?_
  all_goals intros; simp_all [Cls.ok, badOverlap, Instr.wf, encodeRaw, Raw.base, Raw.mk_eq_iff]
theorem exact_form33 {r : Raw} (ho : r.opc = 0x33#8) : Exact r (form33 r r.hdr) := by
  unfold form33
  repeat' first | exact Exact.none | refine Exact.ite (fun fn => Exact.row ?_) ?_
  all_goals intros; simp_all [Cls.ok, badOverlap, Instr.wf, encodeRaw, Raw.base, Raw.mk_eq_iff]
theorem exact_form34 {r : Raw} (ho : r.opc = 0x34#8) : Exact r (form34 r r.hdr) := by
  unfold form34
  repeat' first | exact Exact.none | refine Exact.ite (fun fn => Exact.row ?_) ?_
  all_goals intros; simp_all [Cls.ok, badOverlap, Instr.wf, encodeRaw, Raw.base, Raw.mk_eq_iff]
theorem exact_form38 {r : Raw} (ho : r.opc = 0x38#8) : Exact r (form38 r r.hdr) := by
  unfold form38
  repeat' first | exact Exact.none | refine Exact.ite (fun fn => Exact.row ?_) ?_
  all_goals intros; simp_all [Cls.ok, badOverlap, Instr.wf, encodeRaw, Raw.base, Raw.mk_eq_iff]
theorem exact_form39 {r : Raw} (ho : r.opc = 0x39#8) : Exact r (form39 r r.hdr) := by
  unfold form39
  repeat' first | exact Exact.none | refine Exact.ite (fun fn => Exact.row ?_) ?_
  all_goals intros; simp_all [Cls.ok, badOverlap, Instr.wf, encodeRaw, Raw.base, Raw.mk_eq_iff]
theorem exact_form3A {r : Raw} (ho : r.opc = 0x3A#8) : Exact r (form3A r r.hdr) := by
  unfold form3A
  repeat' first | exact Exact.none | refine Exact.ite (fun fn => Exact.row ?_) ?_
  all_goals intros; simp_all [Cls.ok, badOverlap, Instr.wf, encodeRaw, Raw.base, Raw.mk_eq_iff]
theorem exact_form3B {r : Raw} (ho : r.opc = 0x3B#8) : Exact r (form3B r r.hdr) := by
  unfold form3B
  repeat' first | exact Exact.none | refine Exact.ite (fun fn => Exact.row ?_) ?_
  all_goals intros; simp_all [Cls.ok, badOverlap, Instr.wf, encodeRaw, Raw.base, Raw.mk_eq_iff]
theorem exact_form3C {r : Raw} (ho : r.opc = 0x3C#8) : Exact r (form3C r r.hdr) := by
  unfold form3C
  repeat' first | exact Exact.none | refine Exact.ite (fun fn => Exact.row ?_) ?_
  all_goals intros; simp_all [Cls.ok, badOverlap, Instr.wf, encodeRaw, Raw.base, Raw.mk_eq_iff]
/-- FN of VCVT holds the two formats. -/
theorem fn_of_formats {x : BitVec 9} (hi : x.extractLsb' 7 2 = 0#2) (mid : x.extractLsb' 3 1 = 0#1) :
    0#2 ++ x.extractLsb' 4 3 ++ 0#1 ++ x.extractLsb' 0 3 = x := by revert x; decide
theorem exact_form3D {r : Raw} (ho : r.opc = 0x3D#8) : Exact r (form3D r r.hdr) := by
  unfold form3D
  repeat' first | exact Exact.none | refine Exact.ite (fun fn => Exact.row ?_) ?_
  all_goals intros; simp_all [Cls.ok, badOverlap, Instr.wf, encodeRaw, Raw.base, Raw.mk_eq_iff, fn_of_formats]
theorem exact_form40 {r : Raw} (ho : r.opc = 0x40#8) : Exact r (form40 r r.hdr) := by
  unfold form40
  repeat' first | exact Exact.none | refine Exact.ite (fun fn => Exact.row ?_) ?_
  all_goals intros; simp_all [Cls.ok, badOverlap, Instr.wf, encodeRaw, Raw.base, Raw.mk_eq_iff]
theorem exact_form41 {r : Raw} (ho : r.opc = 0x41#8) : Exact r (form41 r r.hdr) := by
  unfold form41
  repeat' first | exact Exact.none | refine Exact.ite (fun fn => Exact.row ?_) ?_
  all_goals intros; simp_all [Cls.ok, badOverlap, Instr.wf, encodeRaw, Raw.base, Raw.mk_eq_iff]
theorem exact_form42 {r : Raw} (ho : r.opc = 0x42#8) : Exact r (form42 r r.hdr) := by
  unfold form42
  repeat' first | exact Exact.none | refine Exact.ite (fun fn => Exact.row ?_) ?_
  all_goals intros; simp_all [Cls.ok, badOverlap, Instr.wf, encodeRaw, Raw.base, Raw.mk_eq_iff]
theorem exact_form43 {r : Raw} (ho : r.opc = 0x43#8) : Exact r (form43 r r.hdr) := by
  unfold form43
  repeat' first | exact Exact.none | refine Exact.ite (fun fn => Exact.row ?_) ?_
  all_goals intros; simp_all [Cls.ok, badOverlap, Instr.wf, encodeRaw, Raw.base, Raw.mk_eq_iff]
theorem exact_form44 {r : Raw} (ho : r.opc = 0x44#8) : Exact r (form44 r r.hdr) := by
  unfold form44
  repeat' first | exact Exact.none | refine Exact.ite (fun fn => Exact.row ?_) ?_
  all_goals intros; simp_all [Cls.ok, badOverlap, Instr.wf, encodeRaw, Raw.base, Raw.mk_eq_iff]
theorem exact_form45 {r : Raw} (ho : r.opc = 0x45#8) : Exact r (form45 r r.hdr) := by
  unfold form45
  repeat' first | exact Exact.none | refine Exact.ite (fun fn => Exact.row ?_) ?_
  all_goals intros; simp_all [Cls.ok, badOverlap, Instr.wf, encodeRaw, Raw.base, Raw.mk_eq_iff]
theorem exact_form46 {r : Raw} (ho : r.opc = 0x46#8) : Exact r (form46 r r.hdr) := by
  unfold form46
  repeat' first | exact Exact.none | refine Exact.ite (fun fn => Exact.row ?_) ?_
  all_goals intros; simp_all [Cls.ok, badOverlap, Instr.wf, encodeRaw, Raw.base, Raw.mk_eq_iff]
theorem exact_form47 {r : Raw} (ho : r.opc = 0x47#8) : Exact r (form47 r r.hdr) := by
  unfold form47
  repeat' first | exact Exact.none | refine Exact.ite (fun fn => Exact.row ?_) ?_
  all_goals intros; simp_all [Cls.ok, badOverlap, Instr.wf, encodeRaw, Raw.base, Raw.mk_eq_iff]
theorem exact_form48 {r : Raw} (ho : r.opc = 0x48#8) : Exact r (form48 r r.hdr) := by
  unfold form48
  repeat' first | exact Exact.none | refine Exact.ite (fun fn => Exact.row ?_) ?_
  all_goals intros; simp_all [Cls.ok, badOverlap, Instr.wf, encodeRaw, Raw.base, Raw.mk_eq_iff]
theorem exact_form49 {r : Raw} (ho : r.opc = 0x49#8) : Exact r (form49 r r.hdr) := by
  unfold form49
  repeat' first | exact Exact.none | refine Exact.ite (fun fn => Exact.row ?_) ?_
  all_goals intros; simp_all [Cls.ok, badOverlap, Instr.wf, encodeRaw, Raw.base, Raw.mk_eq_iff]
theorem exact_form4A {r : Raw} (ho : r.opc = 0x4A#8) : Exact r (form4A r r.hdr) := by
  unfold form4A
  repeat' first | exact Exact.none | refine Exact.ite (fun fn => Exact.row ?_) ?_
  all_goals intros; simp_all [Cls.ok, badOverlap, Instr.wf, encodeRaw, Raw.base, Raw.mk_eq_iff]
theorem exact_form4B {r : Raw} (ho : r.opc = 0x4B#8) : Exact r (form4B r r.hdr) := by
  unfold form4B
  repeat' first | exact Exact.none | refine Exact.ite (fun fn => Exact.row ?_) ?_
  all_goals intros; simp_all [Cls.ok, badOverlap, Instr.wf, encodeRaw, Raw.base, Raw.mk_eq_iff]
theorem exact_form4C {r : Raw} (ho : r.opc = 0x4C#8) : Exact r (form4C r r.hdr) := by
  unfold form4C
  repeat' first | exact Exact.none | refine Exact.ite (fun fn => Exact.row ?_) ?_
  all_goals intros; simp_all [Cls.ok, badOverlap, Instr.wf, encodeRaw, Raw.base, Raw.mk_eq_iff]
theorem exact_form4D {r : Raw} (ho : r.opc = 0x4D#8) : Exact r (form4D r r.hdr) := by
  unfold form4D
  repeat' first | exact Exact.none | refine Exact.ite (fun fn => Exact.row ?_) ?_
  all_goals
    intros
    cases vectorOnly : codeNeedsV (r.fn.extractLsb' 0 6) <;> cases fromG : isG r.sa <;>
      simp_all [Cls.ok, badOverlap, Instr.wf, encodeRaw, Raw.base, Raw.mk_eq_iff]
theorem exact_form4E {r : Raw} (ho : r.opc = 0x4E#8) : Exact r (form4E r r.hdr) := by
  unfold form4E
  repeat' first | exact Exact.none | refine Exact.ite (fun fn => Exact.row ?_) ?_
  all_goals intros; simp_all [Cls.ok, badOverlap, Instr.wf, encodeRaw, Raw.base, Raw.mk_eq_iff]
theorem exact_form4F {r : Raw} (ho : r.opc = 0x4F#8) : Exact r (form4F r r.hdr) := by
  unfold form4F
  repeat' first | exact Exact.none | refine Exact.ite (fun fn => Exact.row ?_) ?_
  all_goals intros; simp_all [Cls.ok, badOverlap, Instr.wf, encodeRaw, Raw.base, Raw.mk_eq_iff]
theorem exact_form50 {r : Raw} (ho : r.opc = 0x50#8) : Exact r (form50 r r.hdr) := by
  unfold form50
  repeat' first | exact Exact.none | refine Exact.ite (fun fn => Exact.row ?_) ?_
  all_goals intros; simp_all [Cls.ok, badOverlap, Instr.wf, encodeRaw, Raw.base, Raw.mk_eq_iff]
theorem exact_form51 {r : Raw} (ho : r.opc = 0x51#8) : Exact r (form51 r r.hdr) := by
  unfold form51
  repeat' first | exact Exact.none | refine Exact.ite (fun fn => Exact.row ?_) ?_
  all_goals intros; simp_all [Cls.ok, badOverlap, Instr.wf, encodeRaw, Raw.base, Raw.mk_eq_iff]
theorem exact_form52 {r : Raw} (ho : r.opc = 0x52#8) : Exact r (form52 r r.hdr) := by
  unfold form52
  repeat' first | exact Exact.none | refine Exact.ite (fun fn => Exact.row ?_) ?_
  all_goals
    intros
    cases toG : isG r.dst <;> cases fromG : isG r.sa <;>
      simp_all [Cls.ok, badOverlap, Instr.wf, encodeRaw, Raw.base, Raw.mk_eq_iff]
theorem exact_form53 {r : Raw} (ho : r.opc = 0x53#8) : Exact r (form53 r r.hdr) := by
  unfold form53
  repeat' first | exact Exact.none | refine Exact.ite (fun fn => Exact.row ?_) ?_
  all_goals intros; simp_all [Cls.ok, badOverlap, Instr.wf, encodeRaw, Raw.base, Raw.mk_eq_iff]
theorem exact_form54 {r : Raw} (ho : r.opc = 0x54#8) : Exact r (form54 r r.hdr) := by
  unfold form54
  repeat' first | exact Exact.none | refine Exact.ite (fun fn => Exact.row ?_) ?_
  all_goals intros; simp_all [Cls.ok, badOverlap, Instr.wf, encodeRaw, Raw.base, Raw.mk_eq_iff]
theorem exact_form55 {r : Raw} (ho : r.opc = 0x55#8) : Exact r (form55 r r.hdr) := by
  unfold form55
  repeat' first | exact Exact.none | refine Exact.ite (fun fn => Exact.row ?_) ?_
  all_goals intros; simp_all [Cls.ok, badOverlap, Instr.wf, encodeRaw, Raw.base, Raw.mk_eq_iff]
theorem exact_form56 {r : Raw} (ho : r.opc = 0x56#8) : Exact r (form56 r r.hdr) := by
  unfold form56
  repeat' first | exact Exact.none | refine Exact.ite (fun fn => Exact.row ?_) ?_
  all_goals intros; simp_all [Cls.ok, badOverlap, Instr.wf, encodeRaw, Raw.base, Raw.mk_eq_iff]
theorem exact_form57 {r : Raw} (ho : r.opc = 0x57#8) : Exact r (form57 r r.hdr) := by
  unfold form57
  repeat' first | exact Exact.none | refine Exact.ite (fun fn => Exact.row ?_) ?_
  all_goals intros; simp_all [Cls.ok, badOverlap, Instr.wf, encodeRaw, Raw.base, Raw.mk_eq_iff]
theorem exact_form60 {r : Raw} (ho : r.opc = 0x60#8) : Exact r (form60 r r.hdr) := by
  unfold form60
  repeat' first | exact Exact.none | refine Exact.ite (fun fn => Exact.row ?_) ?_
  all_goals intros; simp_all [Cls.ok, badOverlap, Instr.wf, encodeRaw, Raw.base, Raw.mk_eq_iff]
theorem exact_form61 {r : Raw} (ho : r.opc = 0x61#8) : Exact r (form61 r r.hdr) := by
  unfold form61
  repeat' first | exact Exact.none | refine Exact.ite (fun fn => Exact.row ?_) ?_
  all_goals intros; simp_all [Cls.ok, badOverlap, Instr.wf, encodeRaw, Raw.base, Raw.mk_eq_iff]
theorem exact_form62 {r : Raw} (ho : r.opc = 0x62#8) : Exact r (form62 r r.hdr) := by
  unfold form62
  repeat' first | exact Exact.none | refine Exact.ite (fun fn => Exact.row ?_) ?_
  all_goals intros; simp_all [Cls.ok, badOverlap, Instr.wf, encodeRaw, Raw.base, Raw.mk_eq_iff]
  rcases fn with fn | fn <;> simp [fn]
theorem exact_form63 {r : Raw} (ho : r.opc = 0x63#8) : Exact r (form63 r r.hdr) := by
  unfold form63
  repeat' first | exact Exact.none | refine Exact.ite (fun fn => Exact.row ?_) ?_
  all_goals intros; simp_all [Cls.ok, badOverlap, Instr.wf, encodeRaw, Raw.base, Raw.mk_eq_iff]
theorem exact_form64 {r : Raw} (ho : r.opc = 0x64#8) : Exact r (form64 r r.hdr) := by
  unfold form64
  repeat' first | exact Exact.none | refine Exact.ite (fun fn => Exact.row ?_) ?_
  all_goals intros; simp_all [Cls.ok, badOverlap, Instr.wf, encodeRaw, Raw.base, Raw.mk_eq_iff]
theorem exact_form65 {r : Raw} (ho : r.opc = 0x65#8) : Exact r (form65 r r.hdr) := by
  unfold form65
  repeat' first | exact Exact.none | refine Exact.ite (fun fn => Exact.row ?_) ?_
  all_goals intros; simp_all [Cls.ok, badOverlap, Instr.wf, encodeRaw, Raw.base, Raw.mk_eq_iff]
theorem exact_form66 {r : Raw} (ho : r.opc = 0x66#8) : Exact r (form66 r r.hdr) := by
  unfold form66
  repeat' first | exact Exact.none | refine Exact.ite (fun fn => Exact.row ?_) ?_
  all_goals intros; simp_all [Cls.ok, badOverlap, Instr.wf, encodeRaw, Raw.base, Raw.mk_eq_iff]
theorem exact_form68 {r : Raw} (ho : r.opc = 0x68#8) : Exact r (form68 r r.hdr) := by
  unfold form68
  repeat' first | exact Exact.none | refine Exact.ite (fun fn => Exact.row ?_) ?_
  all_goals intros; simp_all [Cls.ok, badOverlap, Instr.wf, encodeRaw, Raw.base, Raw.mk_eq_iff]
  rcases fn with fn | fn <;> simp [fn]
theorem exact_form69 {r : Raw} (ho : r.opc = 0x69#8) : Exact r (form69 r r.hdr) := by
  unfold form69
  repeat' first | exact Exact.none | refine Exact.ite (fun fn => Exact.row ?_) ?_
  all_goals intros; simp_all [Cls.ok, badOverlap, Instr.wf, encodeRaw, Raw.base, Raw.mk_eq_iff]
theorem exact_form6A {r : Raw} (ho : r.opc = 0x6A#8) : Exact r (form6A r r.hdr) := by
  unfold form6A
  repeat' first | exact Exact.none | refine Exact.ite (fun fn => Exact.row ?_) ?_
  all_goals intros; simp_all [Cls.ok, badOverlap, Instr.wf, encodeRaw, Raw.base, Raw.mk_eq_iff]
theorem exact_form6B {r : Raw} (ho : r.opc = 0x6B#8) : Exact r (form6B r r.hdr) := by
  unfold form6B
  repeat' first | exact Exact.none | refine Exact.ite (fun fn => Exact.row ?_) ?_
  all_goals intros; simp_all [Cls.ok, badOverlap, Instr.wf, encodeRaw, Raw.base, Raw.mk_eq_iff]
  rcases fn with fn | fn <;> simp [fn]
/-- The column chunk of ZREAD is a multiple of its group (R345). -/
theorem zreadChunk_fits {g : BitVec 2} {x : BitVec 32} (hg : ¬ g = 3#2)
    (h : x &&& (if g = 2#2 then 0xFFFFFFFB#32 else if g = 1#2 then 0xFFFFFFF9#32 else 0xFFFFFFF8#32) = 0#32) :
    zchunkOk g (x.extractLsb' 0 3) = true ∧ x &&& 0xFFFFFFF8#32 = 0#32 := by
  have low := congrArg (·.extractLsb' 0 3) h
  simp only [BitVec.extractLsb'_and] at low
  refine ⟨?_, and_submask h ?_⟩ <;> clear h
  · generalize x.extractLsb' 0 3 = y at low ⊢
    revert g y
    decide
  · clear low x
    revert g
    decide
theorem exact_form6C {r : Raw} (ho : r.opc = 0x6C#8) : Exact r (form6C r r.hdr) := by
  unfold form6C
  repeat' first | exact Exact.none | refine Exact.ite (fun fn => Exact.row ?_) ?_
  all_goals
    intro mod hint imm
    intros
    simp_all [Cls.ok, badOverlap, Instr.wf, encodeRaw, Raw.base, Raw.mk_eq_iff]
  exact zreadChunk_fits mod.2 imm
theorem exact_form6D {r : Raw} (ho : r.opc = 0x6D#8) : Exact r (form6D r r.hdr) := by
  unfold form6D
  repeat' first | exact Exact.none | refine Exact.ite (fun fn => Exact.row ?_) ?_
  all_goals intros; simp_all [Cls.ok, badOverlap, Instr.wf, encodeRaw, Raw.base, Raw.mk_eq_iff]
theorem exact_form6E {r : Raw} (ho : r.opc = 0x6E#8) : Exact r (form6E r r.hdr) := by
  unfold form6E
  repeat' first | exact Exact.none | refine Exact.ite (fun fn => Exact.row ?_) ?_
  all_goals intros; simp_all [Cls.ok, badOverlap, Instr.wf, encodeRaw, Raw.base, Raw.mk_eq_iff]
theorem exact_form70 {r : Raw} (ho : r.opc = 0x70#8) : Exact r (form70 r r.hdr) := by
  unfold form70
  repeat' first | exact Exact.none | refine Exact.ite (fun fn => Exact.row ?_) ?_
  all_goals intros; simp_all [Cls.ok, badOverlap, Instr.wf, encodeRaw, Raw.base, Raw.mk_eq_iff]
theorem exact_form71 {r : Raw} (ho : r.opc = 0x71#8) : Exact r (form71 r r.hdr) := by
  unfold form71
  repeat' first | exact Exact.none | refine Exact.ite (fun fn => Exact.row ?_) ?_
  all_goals intros; simp_all [Cls.ok, badOverlap, Instr.wf, encodeRaw, Raw.base, Raw.mk_eq_iff]
theorem exact_form72 {r : Raw} (ho : r.opc = 0x72#8) : Exact r (form72 r r.hdr) := by
  unfold form72
  repeat' first | exact Exact.none | refine Exact.ite (fun fn => Exact.row ?_) ?_
  all_goals intros; simp_all [Cls.ok, badOverlap, Instr.wf, encodeRaw, Raw.base, Raw.mk_eq_iff]
theorem exact_form73 {r : Raw} (ho : r.opc = 0x73#8) : Exact r (form73 r r.hdr) := by
  unfold form73
  repeat' first | exact Exact.none | refine Exact.ite (fun fn => Exact.row ?_) ?_
  all_goals intros; simp_all [Cls.ok, badOverlap, Instr.wf, encodeRaw, Raw.base, Raw.mk_eq_iff]
theorem exact_form74 {r : Raw} (ho : r.opc = 0x74#8) : Exact r (form74 r r.hdr) := by
  unfold form74
  repeat' first | exact Exact.none | refine Exact.ite (fun fn => Exact.row ?_) ?_
  all_goals intros; simp_all [Cls.ok, badOverlap, Instr.wf, encodeRaw, Raw.base, Raw.mk_eq_iff]
/-- EVXCFG.R reads one of 32 terms or one of 16 counters. -/
theorem evxcfgIndex_fits {x : BitVec 32} (h : x &&& (if x[5] = true then 0xFFFFFFC0#32 else 0xFFFFFFF0#32) = 0#32) :
    (x[5] = true ∨ (x.extractLsb' 0 5).ult 16#5 = true) ∧ x &&& 0xFFFFFFC0#32 = 0#32 := by
  cases term : x[5]
  · simp only [term, Bool.false_eq_true, if_false] at h
    have low := congrArg (·.extractLsb' 0 5) h
    simp only [BitVec.extractLsb'_and] at low
    refine ⟨.inr ?_, and_submask h rfl⟩
    clear h term
    generalize x.extractLsb' 0 5 = y at low ⊢
    revert y
    decide
  · simpa [term] using h
theorem exact_form75 {r : Raw} (ho : r.opc = 0x75#8) : Exact r (form75 r r.hdr) := by
  unfold form75
  repeat' first | exact Exact.none | refine Exact.ite (fun fn => Exact.row ?_) ?_
  all_goals
    intro mod hint imm
    intros
    simp_all [Cls.ok, badOverlap, Instr.wf, encodeRaw, Raw.base, Raw.mk_eq_iff]
  exact evxcfgIndex_fits imm
theorem exact_form76 {r : Raw} (ho : r.opc = 0x76#8) : Exact r (form76 r r.hdr) := by
  unfold form76
  repeat' first | exact Exact.none | refine Exact.ite (fun fn => Exact.row ?_) ?_
  all_goals intros; simp_all [Cls.ok, badOverlap, Instr.wf, encodeRaw, Raw.base, Raw.mk_eq_iff]
theorem exact_form78 {r : Raw} (ho : r.opc = 0x78#8) : Exact r (form78 r r.hdr) := by
  unfold form78
  repeat' first | exact Exact.none | refine Exact.ite (fun fn => Exact.row ?_) ?_
  all_goals intros; simp_all [Cls.ok, badOverlap, Instr.wf, encodeRaw, Raw.base, Raw.mk_eq_iff]
theorem exact_form79 {r : Raw} (ho : r.opc = 0x79#8) : Exact r (form79 r r.hdr) := by
  unfold form79
  repeat' first | exact Exact.none | refine Exact.ite (fun fn => Exact.row ?_) ?_
  all_goals intros; simp_all [Cls.ok, badOverlap, Instr.wf, encodeRaw, Raw.base, Raw.mk_eq_iff]
theorem exact_form7A {r : Raw} (ho : r.opc = 0x7A#8) : Exact r (form7A r r.hdr) := by
  unfold form7A
  repeat' first | exact Exact.none | refine Exact.ite (fun fn => Exact.row ?_) ?_
  all_goals intros; simp_all [Cls.ok, badOverlap, Instr.wf, encodeRaw, Raw.base, Raw.mk_eq_iff]
theorem exact_form7B {r : Raw} (ho : r.opc = 0x7B#8) : Exact r (form7B r r.hdr) := by
  unfold form7B
  repeat' first | exact Exact.none | refine Exact.ite (fun fn => Exact.row ?_) ?_
  all_goals intros; simp_all [Cls.ok, badOverlap, Instr.wf, encodeRaw, Raw.base, Raw.mk_eq_iff]
theorem exact_form7C {r : Raw} (ho : r.opc = 0x7C#8) : Exact r (form7C r r.hdr) := by
  unfold form7C
  repeat' first | exact Exact.none | refine Exact.ite (fun fn => Exact.row ?_) ?_
  all_goals intros; simp_all [Cls.ok, badOverlap, Instr.wf, encodeRaw, Raw.base, Raw.mk_eq_iff]
/-- The number of a system register with a row of its own is the whole immediate. -/
theorem sysNumber_eq {x : BitVec 32} {n : BitVec 12} (h : x &&& 0xFFFFF000#32 = 0#32) (hn : x.extractLsb' 0 12 = n) :
    n.setWidth 32 = x := by
  rw [← hn, setWidth_extractLsb'_zero, and_eq_self_iff]
  exact h
/-- The number of PMSEL holds the counter that it selects for (R482). -/
theorem pmselNumber_eq {x : BitVec 32} (h : x &&& 0xFFFFF000#32 = 0#32) (hn : x.extractLsb' 2 10 = 6#10) :
    24#32 ||| x &&& 3#32 = x := by
  have high : 24#32 = x &&& 0xFFC#32 := by
    have := setWidth_extractLsb'_shift x 2 10
    rwa [hn] at this
  rw [high, ← BitVec.and_or_distrib_left, and_eq_self_iff]
  exact h
theorem exact_form80 {r : Raw} (ho : r.opc = 0x80#8) : Exact r (form80 r r.hdr) := by
  unfold form80
  repeat' first | exact Exact.none | refine Exact.ite (fun fn => Exact.row ?_) ?_
  all_goals
    intro mod hint imm
    intros
    simp_all [Cls.ok, badOverlap, Instr.wf, encodeRaw, Raw.base, Raw.mk_eq_iff, pmselNumber_eq]
  all_goals exact sysNumber_eq imm fn.2
theorem exact_form81 {r : Raw} (ho : r.opc = 0x81#8) : Exact r (form81 r r.hdr) := by
  unfold form81
  repeat' first | exact Exact.none | refine Exact.ite (fun fn => Exact.row ?_) ?_
  all_goals intros; simp_all [Cls.ok, badOverlap, Instr.wf, encodeRaw, Raw.base, Raw.mk_eq_iff]
theorem exact_form82 {r : Raw} (ho : r.opc = 0x82#8) : Exact r (form82 r r.hdr) := by
  unfold form82
  repeat' first | exact Exact.none | refine Exact.ite (fun fn => Exact.row ?_) ?_
  all_goals intros; simp_all [Cls.ok, badOverlap, Instr.wf, encodeRaw, Raw.base, Raw.mk_eq_iff]
theorem exact_form83 {r : Raw} (ho : r.opc = 0x83#8) : Exact r (form83 r r.hdr) := by
  unfold form83
  repeat' first | exact Exact.none | refine Exact.ite (fun fn => Exact.row ?_) ?_
  all_goals intros; simp_all [Cls.ok, badOverlap, Instr.wf, encodeRaw, Raw.base, Raw.mk_eq_iff]
theorem exact_form84 {r : Raw} (ho : r.opc = 0x84#8) : Exact r (form84 r r.hdr) := by
  unfold form84
  repeat' first | exact Exact.none | refine Exact.ite (fun fn => Exact.row ?_) ?_
  all_goals intros; simp_all [Cls.ok, badOverlap, Instr.wf, encodeRaw, Raw.base, Raw.mk_eq_iff]
theorem exact_form85 {r : Raw} (ho : r.opc = 0x85#8) : Exact r (form85 r r.hdr) := by
  unfold form85
  repeat' first | exact Exact.none | refine Exact.ite (fun fn => Exact.row ?_) ?_
  all_goals intros; simp_all [Cls.ok, badOverlap, Instr.wf, encodeRaw, Raw.base, Raw.mk_eq_iff]
theorem exact_form86 {r : Raw} (ho : r.opc = 0x86#8) : Exact r (form86 r r.hdr) := by
  unfold form86
  repeat' first | exact Exact.none | refine Exact.ite (fun fn => Exact.row ?_) ?_
  all_goals intros; simp_all [Cls.ok, badOverlap, Instr.wf, encodeRaw, Raw.base, Raw.mk_eq_iff]

/-- As `Exact`, for the table that an opcode names. -/
def ExactOpcode (r : Raw) (o : Option (Option Sel)) : Prop := ∀ f, o = some f → Exact r f

theorem ExactOpcode.none {r : Raw} : ExactOpcode r .none := fun _ h => by cases h
theorem ExactOpcode.op {r : Raw} {opc : BitVec 8} {f : Option Sel} {rest : Option (Option Sel)} (hf : r.opc = opc → Exact r f)
    (hrest : ExactOpcode r rest) : ExactOpcode r (if r.opc == opc then some f else rest) := by
  split
  · rintro _ ⟨⟩
    exact hf (by simpa using ‹(r.opc == opc) = true›)
  · exact hrest

theorem exact_formOf (r : Raw) : ExactOpcode r (formOf r r.hdr) :=
  .op exact_form01 <| .op exact_form02 <| .op exact_form03 <| .op exact_form04 <| .op exact_form05 <| .op exact_form06 <| .op exact_form07
  <| .op exact_form08 <| .op exact_form09 <| .op exact_form0A <| .op exact_form0B <| .op exact_form0C <| .op exact_form0D <| .op
  exact_form10 <| .op exact_form11 <| .op exact_form12 <| .op exact_form13 <| .op exact_form14 <| .op exact_form15 <| .op exact_form18 <|
  .op exact_form19 <| .op exact_form1A <| .op exact_form1B <| .op exact_form1C <| .op exact_form1D <| .op exact_form20 <| .op exact_form21
  <| .op exact_form22 <| .op exact_form23 <| .op exact_form28 <| .op exact_form29 <| .op exact_form2A <| .op exact_form2B <| .op
  exact_form2C <| .op exact_form2D <| .op exact_form2E <| .op exact_form30 <| .op exact_form31 <| .op exact_form32 <| .op exact_form33 <|
  .op exact_form34 <| .op exact_form38 <| .op exact_form39 <| .op exact_form3A <| .op exact_form3B <| .op exact_form3C <| .op exact_form3D
  <| .op exact_form40 <| .op exact_form41 <| .op exact_form42 <| .op exact_form43 <| .op exact_form44 <| .op exact_form45 <| .op
  exact_form46 <| .op exact_form47 <| .op exact_form48 <| .op exact_form49 <| .op exact_form4A <| .op exact_form4B <| .op exact_form4C <|
  .op exact_form4D <| .op exact_form4E <| .op exact_form4F <| .op exact_form50 <| .op exact_form51 <| .op exact_form52 <| .op exact_form53
  <| .op exact_form54 <| .op exact_form55 <| .op exact_form56 <| .op exact_form57 <| .op exact_form60 <| .op exact_form61 <| .op
  exact_form62 <| .op exact_form63 <| .op exact_form64 <| .op exact_form65 <| .op exact_form66 <| .op exact_form68 <| .op exact_form69 <|
  .op exact_form6A <| .op exact_form6B <| .op exact_form6C <| .op exact_form6D <| .op exact_form6E <| .op exact_form70 <| .op exact_form71
  <| .op exact_form72 <| .op exact_form73 <| .op exact_form74 <| .op exact_form75 <| .op exact_form76 <| .op exact_form78 <| .op
  exact_form79 <| .op exact_form7A <| .op exact_form7B <| .op exact_form7C <| .op exact_form80 <| .op exact_form81 <| .op exact_form82 <|
  .op exact_form83 <| .op exact_form84 <| .op exact_form85 <| .op exact_form86 <| .none

end

/-- The fields of every instruction that a word encodes pass its row. -/
theorem fields_statement (i : Instr) : Fields.Statement i :=
  @Instr.casesOn Fields.Statement i
    Fields.dividerResult Fields.evcWrite Fields.bcfgWrite Fields.globalAccessComplete Fields.pageWalk Fields.l1dEviction
    Fields.eventMessage Fields.barrierArrivalMessage Fields.barrierReleaseMessage Fields.channelClaim Fields.channelClaimAnswer
    Fields.channelMessageLand Fields.channelGrant Fields.timedMessageLand Fields.streamChunkArrive Fields.arrayOpStart
    Fields.arrayRowWrite Fields.arrayOpFinish Fields.scaleWriteRelease Fields.commandComplete Fields.commandFail
    Fields.collectiveGeneration Fields.spsumPairAdd Fields.storageCompletion Fields.networkReceive Fields.xbarPulseArrive
    Fields.yieldRequest Fields.graceExpiry Fields.launchWindowWrite Fields.launchActivate Fields.launchComplete Fields.taskPop
    Fields.idleSearchWiden Fields.queueAging Fields.domainCharge Fields.auditReplay Fields.saddleTick Fields.packetEject
    Fields.colChannelEscape Fields.dataFrameReceive Fields.replayRequest Fields.probeTimeout Fields.probe Fields.digest
    Fields.resetRequest Fields.linkRetrain Fields.linkReroute Fields.diagnosisVote Fields.dieTakeover Fields.dieMapFlip
    Fields.peerWindowAccess Fields.postedWriteArrive Fields.cxlMemAccess Fields.fabricRecall Fields.remoteAccessArrive
    Fields.layoutRequest Fields.layoutFlip Fields.protectionRequest Fields.attestationRequest Fields.serverMaskRequest
    Fields.spWatchdogReset Fields.spLoss Fields.vdSnapshot Fields.epochStart Fields.epochCommit Fields.groupRebuild Fields.packageLoss
    Fields.coreHangTimeout Fields.coreFailure Fields.clusterFailure Fields.l2SliceFence Fields.stackLoss Fields.ioDieLoss Fields.hbmScrub
    Fields.hbmRowRepair Fields.scoreDecay Fields.unitDrain Fields.unitTestDone Fields.bringUp Fields.vcoreDroop Fields.thermalThrottle
    Fields.powerCap Fields.thermalShutdown Fields.packageReset Fields.protectionGroupTimeout Fields.pwctlWrite Fields.vcoreRecovery
    Fields.throttleRelease Fields.haltRestart Fields.haltedPartitionEnd Fields.remoteSpareLend Fields.vdMigration Fields.nop Fields.timed
    Fields.checked Fields.gang Fields.gsplit Fields.gjoin Fields.ld Fields.st Fields.vld Fields.vst Fields.vldImg Fields.vstImg
    Fields.vldl Fields.vstl Fields.vgath Fields.vscat Fields.kld Fields.kst Fields.gld Fields.gst Fields.gldV Fields.gstV Fields.gldImg
    Fields.gstImg Fields.rwb Fields.rinv Fields.rwbi Fields.pref Fields.amo Fields.cas Fields.red Fields.evsigEv Fields.evsigUnlock
    Fields.evsigPulse Fields.ldevWait Fields.ldevPoll Fields.ldevLock Fields.ldevTry Fields.bar Fields.barss Fields.spred Fields.fence
    Fields.chdecl Fields.chdeclRel Fields.chsend Fields.chrecv Fields.chpoll Fields.phase Fields.tsend Fields.trecv Fields.xcopy
    Fields.xgath Fields.xscat Fields.xfill Fields.xcoll Fields.xwait Fields.xseq Fields.xcancel Fields.evxcfgC Fields.evxcfgT
    Fields.evxcfgR Fields.evxarm Fields.sring Fields.nsend Fields.launch Fields.spawn Fields.spawnR Fields.join Fields.tend Fields.wid
    Fields.widf Fields.corenum Fields.cdopen Fields.cdclose Fields.cdabort Fields.cdabortRetry Fields.cdkeep Fields.cdsig Fields.rdsys
    Fields.wrsys Fields.fbpop0Read Fields.derrpopRead Fields.fbstatDropClear Fields.spdoorClear Fields.slotctlGo Fields.swzWrite
    Fields.zshareWrite Fields.syscall Fields.bkpt Fields.xret Fields.wfi Fields.halt Fields.tlbinvPage Fields.tlbinvVsid Fields.tlbinvAll
    Fields.tlbreplay Fields.ldovt Fields.ctxsave Fields.ctxload Fields.add Fields.sub Fields.andR Fields.orR Fields.xorR Fields.andn
    Fields.orn Fields.neg Fields.addi Fields.andi Fields.ori Fields.xori Fields.shl Fields.shr Fields.shra Fields.rol Fields.ror
    Fields.mul Fields.mulh Fields.mulhn Fields.div Fields.divn Fields.rem Fields.remn Fields.clz Fields.ctz Fields.popc Fields.brev
    Fields.bswap Fields.bfx Fields.bfxn Fields.bfi Fields.min Fields.minn Fields.max Fields.maxn Fields.sel Fields.mov Fields.movi
    Fields.movhi Fields.movp Fields.lea Fields.cmp Fields.fadd Fields.fsub Fields.fmul Fields.fdiv Fields.fsqrt Fields.fma Fields.fcmp
    Fields.fclass Fields.fmin Fields.fmax Fields.fabs Fields.fneg Fields.fcpys Fields.br Fields.call Fields.jr Fields.callr Fields.ret
    Fields.loop Fields.loopi Fields.pand Fields.por Fields.pxor Fields.pnot Fields.pmov Fields.vcvt Fields.vcvts Fields.vtag Fields.vtagr
    Fields.vquant Fields.vdeq Fields.vscl Fields.scvt Fields.vadd Fields.vsub Fields.vadds Fields.vsubs Fields.vabs Fields.vmul
    Fields.vmulh Fields.vmulhn Fields.vmin Fields.vminn Fields.vmax Fields.vmaxn Fields.vfadd Fields.vfsub Fields.vfmul Fields.vfdiv
    Fields.vfma Fields.vfms Fields.vfnma Fields.vfnms Fields.vfmin Fields.vfmax Fields.vfabs Fields.vfneg Fields.vrcp Fields.vrsq
    Fields.vsqrt Fields.vexp2 Fields.vlog2 Fields.vcmp Fields.vfcmp Fields.vfclass Fields.vsel Fields.vand Fields.vor Fields.vxor
    Fields.vandn Fields.vshl Fields.vshr Fields.vshra Fields.vbcast Fields.vext Fields.vins Fields.vperm Fields.vslideup Fields.vslidedn
    Fields.viota Fields.kand Fields.kor Fields.kxor Fields.knot Fields.kcnt Fields.kmov Fields.vradd Fields.vrmin Fields.vrmax
    Fields.vrfadd Fields.vrfmin Fields.vrfmax Fields.scfg Fields.sfree Fields.vloop Fields.vmov Fields.vmovgFromG Fields.vmovgToG
    Fields.vmadd Fields.vmsub Fields.vmneg Fields.vmmul Fields.vmmac Fields.vmred Fields.vmcvtI64 Fields.vmcvtMn Fields.vmcvtMs
    Fields.mqgen Fields.mqld Fields.bfly Fields.ibfly Fields.bperm Fields.bpermx Fields.vbitrev Fields.vfft2 Fields.vcmul Fields.zalloc
    Fields.zfree Fields.zzero Fields.zmma Fields.zmmas Fields.zldc Fields.zstore Fields.zread Fields.zwm Fields.zwait Fields.zscl
    Fields.zstatT Fields.zstatF Fields.zstatS

/-- Settles O56: the encoder's fields are those of the word, and they select and pass the instruction's own row. -/
theorem decodeEncode : Obligations.DecodeEncode := by
  intro i w wf enc
  obtain ⟨r, fields, rfl⟩ := Option.map_eq_some_iff.mp enc
  obtain ⟨q, row, passes⟩ := fields_statement i wf r fields
  rw [decodeWord_of_row (q := q) (by rw [Raw.unpack_pack, row]), Raw.unpack_pack, passes]

/-- Settles O57: the fields that pass a row are those of its instruction, and a word is its fields. -/
theorem encodeDecode : Obligations.EncodeDecode := by
  intro w i h
  obtain ⟨q, row, ok⟩ := row_of_decodeWord h
  obtain ⟨passes, rfl⟩ := checkSel_eq_ok ok
  obtain ⟨wf, fields⟩ := exact_formOf _ _ row q rfl passes
  exact ⟨wf, by rw [encode, fields, Option.map_some, Raw.pack_unpack]⟩

/-- Settles O58: by the rows that decoding finds and by what the checks of a row answer. -/
theorem decodeRefusals : Obligations.DecodeRefusals := by
  intro w i c x
  refine ⟨decodeWord_zero, decodeWord_allOnes, fun zero ones reserved => ?_, fun ok => ?_, fun bad => ?_⟩
  · have none := mt (formOf_isSome_iff (Raw.unpack w) (Raw.unpack w).hdr).mp reserved
    rw [decodeWord_of_ne zero ones, Option.not_isSome_iff_eq_none.mp none]
  · obtain ⟨q, row, checks⟩ := row_of_decodeWord ok
    obtain ⟨passes, -⟩ := checkSel_eq_ok checks
    have used := (formOf_isSome_iff (Raw.unpack w) (Raw.unpack w).hdr).mp (by simp [row])
    have reserved : (w.extractLsb' 70 14).extractLsb' 9 5 = w.extractLsb' 79 5 := extractLsb'_within w (by decide)
    exact ⟨used, reserved ▸ passes.hint⟩
  · exact refusal_of_decodeWord bad

/-- Settles O55: each word is the encoding of its instruction, and so decodes to it (O56). -/
theorem sampleWords : Obligations.SampleWords := by
  refine ⟨?_, ?_, ?_, ?_, ?_, ?_, ?_, ?_, ?_, ?_, ?_⟩ <;> exact decodeEncode _ _ rfl rfl

end Sys2Proof
end

section
/-! The register files and the results in flight (R11, R28, R34, R143). -/
namespace Sys2Proof.Machine
open Sys2Proof Sys2Proof.Claims

/-! ## Reads after writes -/

theorem Core.rdP_wrP (c : Core) (r q : PReg) (b : Bool) : (c.wrP r b).rdP q = if q = r ∧ r ≠ 0 then b else c.rdP q := by
  by_cases hr : r = 0
  · subst hr; simp [Core.wrP]
  · by_cases hq : q = 0
    · subst hq; simp [Core.rdP, Ne.symm hr]
    · by_cases h : q = r
      · subst h; simp [Core.rdP, Core.wrP, hr]
      · simp [Core.rdP, Core.wrP, hr, hq, h, Fin.val_ne_of_ne (Ne.symm h)]
theorem Core.rdK_wrK (c : Core) (r q : KReg) (m : Mask) : (c.wrK r m).rdK q = if q = r ∧ r ≠ 0 then m else c.rdK q := by
  by_cases hr : r = 0
  · subst hr; simp [Core.wrK]
  · by_cases hq : q = 0
    · subst hq; simp [Core.rdK, Ne.symm hr]
    · by_cases h : q = r
      · subst h; simp [Core.rdK, Core.wrK, hr]
      · simp [Core.rdK, Core.wrK, hr, hq, h, Fin.val_ne_of_ne (Ne.symm h)]

/-- A write of one file leaves the others. -/
theorem Core.wrG_regs (c : Core) (r : GReg) (x : Word) : (c.wrG r x).regs = { c.regs with g := (c.wrG r x).regs.g } := by
  unfold Core.wrG; split <;> rfl
theorem Core.wrP_regs (c : Core) (r : PReg) (b : Bool) : (c.wrP r b).regs = { c.regs with p := (c.wrP r b).regs.p } := by
  unfold Core.wrP; split <;> rfl
theorem Core.wrK_regs (c : Core) (r : KReg) (m : Mask) : (c.wrK r m).regs = { c.regs with k := (c.wrK r m).regs.k } := by
  unfold Core.wrK; split <;> rfl
@[simp] theorem Core.rdP_wrG (c : Core) (r : GReg) (q : PReg) (x : Word) : (c.wrG r x).rdP q = c.rdP q := by
  rw [Core.rdP, Core.wrG_regs, Core.rdP]
@[simp] theorem Core.rdP_wrK (c : Core) (r : KReg) (q : PReg) (m : Mask) : (c.wrK r m).rdP q = c.rdP q := by
  rw [Core.rdP, Core.wrK_regs, Core.rdP]
@[simp] theorem Core.rdP_wrV (c : Core) (r : VReg) (q : PReg) (x : VR) : (c.wrV r x).rdP q = c.rdP q := rfl
@[simp] theorem Core.rdK_wrG (c : Core) (r : GReg) (q : KReg) (x : Word) : (c.wrG r x).rdK q = c.rdK q := by
  rw [Core.rdK, Core.wrG_regs, Core.rdK]
@[simp] theorem Core.rdK_wrP (c : Core) (r : PReg) (q : KReg) (b : Bool) : (c.wrP r b).rdK q = c.rdK q := by
  rw [Core.rdK, Core.wrP_regs, Core.rdK]
@[simp] theorem Core.rdK_wrV (c : Core) (r : VReg) (q : KReg) (x : VR) : (c.wrV r x).rdK q = c.rdK q := rfl
@[simp] theorem Core.rdV_wrP (c : Core) (r : PReg) (q : VReg) (b : Bool) : (c.wrP r b).rdV q = c.rdV q := by
  rw [Core.rdV, Core.wrP_regs, Core.rdV]
@[simp] theorem Core.rdV_wrK (c : Core) (r : KReg) (q : VReg) (m : Mask) : (c.wrK r m).rdV q = c.rdV q := by
  rw [Core.rdV, Core.wrK_regs, Core.rdV]

/-- What a write puts into a register is in it. -/
theorem holds_wr_self (c : Core) (w : Wr) : Holds (c.wr w) w := by
  cases w with
  | g r x => exact fun hr => by simp [Core.wr, Core.rdG_wrG, hr]
  | p r b => exact fun hr => by simp [Core.wr, Core.rdP_wrP, hr]
  | k r m => exact fun hr => by simp [Core.wr, Core.rdK_wrK, hr]
  | v r x => exact (by simp [Core.rdV_wrV] : (c.wrV r x).rdV r = x)

theorem holds_congr {c d : Core} {w : Wr} (h : Holds c w) (regs : d.regs = c.regs) : Holds d w := by
  cases w <;> simpa only [Holds, Core.rdG, Core.rdP, Core.rdK, Core.rdV, regs] using h

/-- A write of another register leaves it there. -/
theorem holds_wr_of_ne {c : Core} {w v : Wr} (h : Holds c w) (ne : v.num ≠ w.num) : Holds (c.wr v) w := by
  cases w with
  | g q y =>
    intro hq
    cases v with
    | g r x => rw [← h hq, Core.wr, Core.rdG_wrG, if_neg fun e => ne (by rw [e.1]; rfl)]
    | _ => simpa [Core.wr] using h hq
  | p q y =>
    intro hq
    cases v with
    | p r x => rw [← h hq, Core.wr, Core.rdP_wrP, if_neg fun e => ne (by rw [e.1]; rfl)]
    | _ => simpa [Core.wr] using h hq
  | k q y =>
    intro hq
    cases v with
    | k r x => rw [← h hq, Core.wr, Core.rdK_wrK, if_neg fun e => ne (by rw [e.1]; rfl)]
    | _ => simpa [Core.wr] using h hq
  | v q y =>
    have hv : c.rdV q = y := h
    show (c.wr v).rdV q = y
    cases v with
    | v r x => rw [← hv, Core.wr, Core.rdV_wrV, if_neg fun e => ne (by rw [e]; rfl)]
    | _ => simpa [Core.wr] using hv

/-! ## Results in flight (R28, R143) -/

theorem holds_wr {c : Core} {w v : Wr} (alone : v.num = w.num → v = w) (h : Holds c w ∨ v = w) : Holds (c.wr v) w := by
  by_cases same : v = w
  · subst same
    exact holds_wr_self c v
  · exact holds_wr_of_ne (h.resolve_right same) fun e => same (alone e)

/-- A result among those that land together is in its register, where no other of them is for the register. -/
theorem holds_wrs {w : Wr} {fs : List Flight} {c : Core} (alone : ∀ f ∈ fs, f.wr.num = w.num → f.wr = w)
    (h : Holds c w ∨ ∃ f ∈ fs, f.wr = w) : Holds (fs.foldl (fun c f => c.wr f.wr) c) w := by
  induction fs generalizing c with
  | nil => exact h.resolve_right (by simp)
  | cons f fs ih =>
    refine ih (fun g hg => alone g (.tail _ hg)) ?_
    rcases h with h | ⟨g, hg, e⟩
    · exact .inl (holds_wr (alone f (.head _)) (.inl h))
    · rcases List.mem_cons.mp hg with rfl | hg
      · exact .inl (holds_wr (alone g (.head _)) (.inr e))
      · exact .inr ⟨g, hg, e⟩

/-- What lands first leaves fewer on their way. -/
theorem length_rest_lt {fs : List Flight} {m : Nat} (first : (fs.map (·.land)).min? = some m) :
    (fs.filter (·.land != m)).length < fs.length := by
  obtain ⟨f, hf, e⟩ := List.mem_map.mp (List.min?_mem first)
  exact List.length_filter_lt_length_iff_exists.mpr ⟨f, hf, by simp [e]⟩

/-- At clk `t` every result on its way is still to land, or some land first. -/
theorem later_or_first (t : Nat) (fs : List Flight) :
    (∀ f ∈ fs, t < f.land) ∨ ∃ m, m ≤ t ∧ (fs.map (·.land)).min? = some m := by
  by_cases later : ∀ f ∈ fs, t < f.land
  · exact .inl later
  · obtain ⟨f, hf, landed⟩ : ∃ f ∈ fs, f.land ≤ t := by simpa using later
    obtain ⟨m, first⟩ := Option.isSome_iff_exists.mp (List.isSome_min?_of_mem (List.mem_map_of_mem (f := (·.land)) hf))
    exact .inr ⟨m, ((List.min?_eq_some_iff.mp first).2 _ (List.mem_map_of_mem hf)).trans landed, first⟩

theorem landUpTo_of_later {n t : Nat} {fs : List Flight} (c : Core) (later : ∀ f ∈ fs, t < f.land) : landUpTo n t fs c = (c, fs) := by
  cases fs with
  | nil => cases n <;> rfl
  | cons f fs =>
    cases n with
    | zero => rfl
    | succ n =>
      simp only [landUpTo]
      split
      · rename_i none
        simp at none
      · rename_i m first
        obtain ⟨g, hg, e⟩ := List.mem_map.mp (List.min?_mem first)
        exact if_neg (Nat.not_le.mpr (e ▸ later g hg))

/-- The results that land first are written, and then the others as they land. -/
theorem landUpTo_of_first {n t m : Nat} {fs : List Flight} (c : Core) (now : m ≤ t) (first : (fs.map (·.land)).min? = some m) :
    landUpTo (n + 1) t fs c =
      landUpTo n t (fs.filter (·.land != m)) ((fs.filter (·.land == m)).foldl (fun c f => c.wr f.wr) c) := by
  cases fs with
  | nil => simp at first
  | cons f fs => simp only [landUpTo, first, now, if_true]

/-- A result that is visible at clk `t` is in its register then, where no other on its way is for the register. -/
theorem holds_landUpTo {w : Wr} {n t : Nat} {fs : List Flight} {c : Core} (fuel : fs.length ≤ n)
    (alone : ∀ f ∈ fs, f.wr.num = w.num → f.wr = w) (h : Holds c w ∨ ∃ f ∈ fs, f.wr = w ∧ f.land ≤ t) :
    Holds (landUpTo n t fs c).1 w := by
  induction n generalizing fs c with
  | zero =>
    rw [List.eq_nil_of_length_eq_zero (Nat.le_zero.mp fuel)] at h ⊢
    exact h.resolve_right (by simp)
  | succ n ih =>
    rcases later_or_first t fs with later | ⟨m, now, first⟩
    · rw [landUpTo_of_later c later]
      exact h.resolve_right fun ⟨f, hf, _, landed⟩ => absurd landed (Nat.not_le.mpr (later f hf))
    · rw [landUpTo_of_first c now first]
      have due (f) (hf : f ∈ fs.filter (·.land == m)) : f.wr.num = w.num → f.wr = w := alone f (List.mem_of_mem_filter hf)
      refine ih (Nat.le_of_lt_succ ((length_rest_lt first).trans_le fuel)) (fun f hf => alone f (List.mem_of_mem_filter hf)) ?_
      rcases h with h | ⟨f, hf, e, landed⟩
      · exact .inl (holds_wrs due (.inl h))
      · by_cases hm : f.land = m
        · exact .inl (holds_wrs due (.inr ⟨f, by simp [hf, hm], e⟩))
        · exact .inr ⟨f, by simp [hf, hm], e, landed⟩

/-- What stays on its way was on its way. -/
theorem mem_of_mem_landUpTo {n t : Nat} {fs : List Flight} {c : Core} {f : Flight} (h : f ∈ (landUpTo n t fs c).2) : f ∈ fs := by
  induction n generalizing fs c with
  | zero => cases fs <;> exact h
  | succ n ih =>
    rcases later_or_first t fs with later | ⟨m, now, first⟩
    · rwa [landUpTo_of_later c later] at h
    · rw [landUpTo_of_first c now first] at h
      exact List.mem_of_mem_filter (ih h)

/-- Writes act on the register files alone. -/
theorem Core.wr_regs_congr {c d : Core} (h : c.regs = d.regs) (w : Wr) : (c.wr w).regs = (d.wr w).regs := by
  cases w with
  | g r x => simp only [Core.wr, Core.wrG]; split <;> simp [h]
  | p r x => simp only [Core.wr, Core.wrP]; split <;> simp [h]
  | k r x => simp only [Core.wr, Core.wrK]; split <;> simp [h]
  | v r x => simp [Core.wr, Core.wrV, h]
theorem Core.wrs_regs_congr {c d : Core} (h : c.regs = d.regs) (fs : List Flight) :
    (fs.foldl (fun c f => c.wr f.wr) c).regs = (fs.foldl (fun c f => c.wr f.wr) d).regs := by
  induction fs generalizing c d with
  | nil => exact h
  | cons f fs ih => exact ih (Core.wr_regs_congr h f.wr)

/-- A result that lands after clk `t` changes nothing of what is visible at `t`. -/
theorem landUpTo_append_later {f : Flight} {n k t : Nat} {fs : List Flight} {c d : Core} (regs : c.regs = d.regs) (later : t < f.land)
    (fuel : fs.length + 1 ≤ n) (fuel' : fs.length ≤ k) : (landUpTo n t (fs ++ [f]) c).1.regs = (landUpTo k t fs d).1.regs := by
  induction n generalizing fs c d k with
  | zero => omega
  | succ n ih =>
    rcases later_or_first t fs with others | ⟨m, now, first⟩
    · rw [landUpTo_of_later d others, landUpTo_of_later c (by simpa [or_imp, forall_and] using ⟨others, later⟩)]
      exact regs
    · have behind : f.land ≠ m := by omega
      have rest := length_rest_lt first
      have first' : ((fs ++ [f]).map (·.land)).min? = some m := by
        rw [List.min?_eq_some_iff] at first ⊢
        simp only [List.map_append, List.mem_append]
        exact ⟨.inl first.1, fun x hx => hx.elim (first.2 x) fun hx => by simp at hx; omega⟩
      obtain ⟨k, rfl⟩ : ∃ j, k = j + 1 := ⟨k - 1, by omega⟩
      have due : (fs ++ [f]).filter (·.land == m) = fs.filter (·.land == m) := by simp [behind]
      have others : (fs ++ [f]).filter (·.land != m) = fs.filter (·.land != m) ++ [f] := by simp [behind]
      rw [landUpTo_of_first c now first', landUpTo_of_first d now first, due, others]
      exact ih (Core.wrs_regs_congr regs _) (by omega) (by omega)

/-! ## Results of fixed latency (R28) -/

theorem Core.settle_regs (c : Core) (t : Nat) : (c.settle t).regs = (landUpTo c.tmg.flights.length t c.tmg.flights c).1.regs := rfl

/-- What settles leaves the other results of the core on their way. -/
theorem Core.mem_flights_settle {c : Core} {t : Nat} {f : Flight} (h : f ∈ (c.settle t).tmg.flights) : f ∈ c.tmg.flights :=
  mem_of_mem_landUpTo h

theorem Core.holds_settle {c : Core} {w : Wr} {t : Nat} (alone : ∀ f ∈ c.tmg.flights, f.wr.num = w.num → f.wr = w)
    (h : Holds c w ∨ ∃ f ∈ c.tmg.flights, f.wr = w ∧ f.land ≤ t) : Holds (c.settle t) w :=
  holds_congr (holds_landUpTo le_rfl alone h) (c.settle_regs t)

theorem Core.flights_wr (c : Core) (w : Wr) : (c.wr w).tmg.flights = c.tmg.flights := by
  cases w with
  | g r x => simp only [Core.wr, Core.wrG]; split <;> rfl
  | p r x => simp only [Core.wr, Core.wrP]; split <;> rfl
  | k r x => simp only [Core.wr, Core.wrK]; split <;> rfl
  | v r x => rfl

/-- A result of latency 2 or more is on its way, behind the others. -/
theorem Core.result_of_two_le {lat : Nat} (h : 2 ≤ lat) (c : Core) (t : Nat) (w : Wr) : c.result t lat w =
    c.setTmg fun m => { m with flights := m.flights ++ [{ land := t + lat, locked := false, wr := w }] } :=
  if_neg (by omega)

/-- A result is not visible before its latency has passed. -/
theorem Core.settle_result_before {c : Core} {t lat t' : Nat} {w : Wr} (long : 2 ≤ lat) (before : t' < t + lat) :
    ((c.result t lat w).settle t').regs = (c.settle t').regs := by
  rw [Core.result_of_two_le long, Core.settle_regs, Core.settle_regs]
  exact landUpTo_append_later rfl before (by simp) le_rfl

/-- It is visible from then on, where no other result on its way is for its register. -/
theorem Core.holds_settle_result {c : Core} {t lat t' : Nat} {w : Wr} (after : t + lat ≤ t')
    (alone : ∀ f ∈ c.tmg.flights, f.wr.num ≠ w.num) : Holds ((c.result t lat w).settle t') w := by
  by_cases short : lat ≤ 1
  · rw [Core.result, if_pos short]
    refine Core.holds_settle (fun f hf => ?_) (.inl (holds_wr_self _ w))
    rw [Core.flights_wr] at hf
    exact fun e => absurd e (alone f (Core.mem_flights_settle hf))
  · rw [Core.result_of_two_le (by omega)]
    refine Core.holds_settle (fun f hf e => ?_) (.inr ⟨_, List.mem_append_right _ (.head _), rfl, after⟩)
    rcases List.mem_append.mp hf with hf | hf
    · exact absurd e (alone f hf)
    · rw [List.mem_singleton.mp hf]

theorem le_foldl_max {α : Type} (p : α → Bool) (g : α → Nat) (l : List α) (m : Nat) :
    m ≤ l.foldl (fun m a => if p a then max m (g a) else m) m ∧
      ∀ a ∈ l, p a = true → g a ≤ l.foldl (fun m a => if p a then max m (g a) else m) m := by
  induction l generalizing m with
  | nil => exact ⟨le_rfl, by simp⟩
  | cons b l ih =>
    obtain ⟨start, each⟩ := ih (if p b then max m (g b) else m)
    refine ⟨le_trans (by split <;> omega) start, fun a ha hp => ?_⟩
    rcases List.mem_cons.mp ha with rfl | ha
    · exact le_trans (by rw [if_pos hp]; omega) start
    · exact each a ha hp

/-- Issue waits for its clk, and in CHECKED mode for every write on its way of a register that the word names (R15). -/
theorem Core.clk_le_readyClk (c : Core) (xs : List (BitVec 7)) : c.tmg.clk ≤ c.readyClk xs := (le_foldl_max _ _ _ _).1
theorem Core.land_le_readyClk {c : Core} {xs : List (BitVec 7)} {f : Flight} (checked : c.regs.trap.tim = false)
    (hf : f ∈ c.tmg.flights) (named : f.wr.num ∈ xs) (real : hardwired f.wr.num = false) : f.land ≤ c.readyClk xs :=
  (le_foldl_max _ _ _ _).2 f hf (by simp [checked, named, real])

end Sys2Proof.Machine

namespace Sys2Proof
open Machine Claims

/-- Settles O50: what a register read returns after a write, and what of the results in flight is visible at a clk. -/
theorem registerFile : Obligations.RegisterFile := by
  intro c d e x p q b k l m v w y h lat t t' r
  refine ⟨⟨rfl, rfl, rfl⟩, ⟨rfl, rfl, rfl⟩, ⟨rfl, rfl, rfl⟩, holds_wr_self c r, fun ne => ?_, fun ne => ?_, fun ne => ?_, fun ne => ?_,
    ⟨c.wrG_regs d x, c.wrP_regs p b, c.wrK_regs k m, rfl⟩, Core.settle_result_before, fun _ => Core.holds_settle_result,
    fun xs f checked hf named real => ⟨Core.land_le_readyClk checked hf named real, Core.clk_le_readyClk c xs⟩⟩
  · rw [Core.rdG_wrG, if_neg fun e => ne e.1]
  · rw [Core.rdP_wrP, if_neg fun e => ne e.1]
  · rw [Core.rdK_wrK, if_neg fun e => ne e.1]
  · rw [Core.rdV_wrV, if_neg ne]

end Sys2Proof
end

section
/-! Upkeep: what errors, times and copies change of the cores and of the layout of local memory (R154, R155, R199, R455). -/
namespace Sys2Proof.Machine
open Sys2Proof

/-! ## The relation -/

/-- From `s` to `t` nothing is changed of the cores but logical times and stops for an error, and nothing of the dies that the checks
of a local access read. -/
structure Upkeep (s t : State) : Prop where
  cur : t.cur = s.cur
  core : ∀ c, t.core c = { s.core c with lt := (t.core c).lt, errStop := (t.core c).errStop }
  dieMap : t.dieMap = s.dieMap
  chipFenced : ∀ d, (t.die d).chipFenced = (s.die d).chipFenced
  sliceTag : ∀ d, (t.die d).sliceTag = (s.die d).sliceTag

theorem Upkeep.refl (s : State) : Upkeep s s := ⟨rfl, fun _ => rfl, rfl, fun _ => rfl, fun _ => rfl⟩
theorem Upkeep.trans {s t u : State} (a : Upkeep s t) (b : Upkeep t u) : Upkeep s u where
  cur := b.cur.trans a.cur
  core c := by rw [b.core c, a.core c]
  dieMap := b.dieMap.trans a.dieMap
  chipFenced d := (b.chipFenced d).trans (a.chipFenced d)
  sliceTag d := (b.sliceTag d).trans (a.sliceTag d)

theorem Upkeep.ite {p : Prop} {_ : Decidable p} {s t u : State} (a : Upkeep s t) (b : Upkeep s u) :
    Upkeep s (if p then t else u) := by
  split <;> assumption
theorem Upkeep.foldl {α : Type} {f : State → α → State} (step : ∀ s x, Upkeep s (f s x)) (s : State) (xs : List α) :
    Upkeep s (xs.foldl f s) :=
  List.foldlRecOn xs _ (Upkeep.refl s) fun t ok x _ => ok.trans (step t x)

variable {s t : State}

theorem Upkeep.regs (h : Upkeep s t) (c : Nat) : (t.core c).regs = (s.core c).regs := by rw [h.core c]
theorem Upkeep.ctag (h : Upkeep s t) (c : Nat) : (t.core c).ctag = (s.core c).ctag := by rw [h.core c]

/-! ## Units, reports and errors -/

theorem Upkeep.setCore {n : Nat} {c : Core} (hc : c = { s.core n with lt := c.lt, errStop := c.errStop }) :
    Upkeep s (s.setCore n c) := by
  refine ⟨rfl, fun k => ?_, rfl, fun _ => rfl, fun _ => rfl⟩
  by_cases hk : k = n
  · subst hk
    simpa using hc
  · simp [State.core_setCore_ne _ _ _ _ hk]

theorem Upkeep.setDie {n : Nat} {d : Die} (fenced : d.chipFenced = (s.die n).chipFenced) (tags : d.sliceTag = (s.die n).sliceTag) :
    Upkeep s (s.setDie n d) := by
  refine ⟨rfl, fun _ => rfl, rfl, fun k => ?_, fun k => ?_⟩
  · by_cases hk : k = n
    · rwa [hk, State.die_setDie]
    · rw [State.die_setDie_ne _ _ _ _ hk]
  · by_cases hk : k = n
    · rwa [hk, State.die_setDie]
    · rw [State.die_setDie_ne _ _ _ _ hk]

theorem State.setCluster_upkeep (s : State) (n : Nat) (c : Cluster) : Upkeep s (s.setCluster n c) :=
  ⟨rfl, fun _ => rfl, rfl, fun _ => rfl, fun _ => rfl⟩
theorem State.owe_upkeep (s : State) (i : Instr) : Upkeep s (s.owe i) := ⟨rfl, fun _ => rfl, rfl, fun _ => rfl, fun _ => rfl⟩
theorem State.report_upkeep (s : State) (r : Report) : Upkeep s (s.report r) := ⟨rfl, fun _ => rfl, rfl, fun _ => rfl, fun _ => rfl⟩

theorem State.postErrorFor_upkeep (s : State) (kind : BitVec 6) (p : PTag) (n : Nat) (x : Charge) :
    Upkeep s (s.postErrorFor kind p n x) := by
  have stop (t : State) : Upkeep t (t.setCore n { t.core n with errStop := true }) := .setCore rfl
  have queued (q : List DErr) (w : List (DErr × Option Charge)) :
      Upkeep s (s.setDie (dieOf n) { s.die (dieOf n) with derrq := q, derrWait := w }) := .setDie rfl rfl
  unfold State.postErrorFor
  refine .ite ?_ ((queued _ _).trans (stop _))
  exact ((queued _ _).trans (stop _)).trans ⟨rfl, fun _ => rfl, rfl, fun _ => rfl, fun _ => rfl⟩

theorem State.postError_upkeep (s : State) (kind : BitVec 6) (p : PTag) (n : Nat) : Upkeep s (s.postError kind p n) :=
  s.postErrorFor_upkeep kind p n _

theorem State.suspect_upkeep (s : State) (u : SuspUnit) (k : Nat) : Upkeep s (s.suspect u k) := by
  unfold State.suspect
  refine .ite ?_ ?_ <;> exact ⟨rfl, fun _ => rfl, rfl, fun _ => rfl, fun _ => rfl⟩

/-! ## Physical memory, homes and copies -/

theorem State.setPhysByte_upkeep (s : State) (pa : Nat) (b : Byte) : Upkeep s (s.setPhysByte pa b) := by
  unfold State.setPhysByte
  refine .ite (.refl s) (.ite ?_ (.ite ?_ (.refl s))) <;> exact ⟨rfl, fun _ => rfl, rfl, fun _ => rfl, fun _ => rfl⟩

theorem State.setPhysBytes_upkeep : ∀ (bs : List Byte) (s : State) (pa : Nat), Upkeep s (s.setPhysBytes pa bs)
  | [], s, _ => .refl s
  | b :: bs, s, pa => (s.setPhysByte_upkeep pa b).trans (State.setPhysBytes_upkeep bs _ _)

theorem State.setHome_upkeep (s : State) (h : HomeId) (x : Nat × Nat) : Upkeep s (s.setHome h x) :=
  ⟨rfl, fun _ => rfl, rfl, fun _ => rfl, fun _ => rfl⟩

theorem State.backInvalidate_upkeep (s : State) (h : HomeId) : Upkeep s (s.backInvalidate h) := by
  unfold State.backInvalidate
  split
  · exact .ite ⟨rfl, fun _ => rfl, rfl, fun _ => rfl, fun _ => rfl⟩ (.refl s)
  · exact .refl s

theorem State.coreRead_upkeep (s : State) (n : Nat) (h : HomeId) : Upkeep s (s.coreRead n h) :=
  (s.setHome_upkeep _ _).trans (.setCore rfl)
theorem State.coreWrite_upkeep (s : State) (n : Nat) (h : HomeId) : Upkeep s (s.coreWrite n h) :=
  ((s.backInvalidate_upkeep h).trans (State.setHome_upkeep _ _ _)).trans (.setCore rfl)
theorem State.coreReads_upkeep (s : State) (n : Nat) (hs : List HomeId) : Upkeep s (s.coreReads n hs) :=
  .foldl (fun s h => s.coreRead_upkeep n h) s hs
theorem State.coreWrites_upkeep (s : State) (n : Nat) (hs : List HomeId) : Upkeep s (s.coreWrites n hs) :=
  .foldl (fun s h => s.coreWrite_upkeep n h) s hs

theorem State.setCopy_upkeep (s : State) (cl : Nat) (x : Copy) : Upkeep s (s.setCopy cl x) := by
  unfold State.setCopy
  dsimp only
  split
  · exact (s.setCluster_upkeep _ _).trans (State.owe_upkeep _ _)
  · exact s.setCluster_upkeep _ _

theorem State.fetchFabric_upkeep (s : State) (line : Nat) : Upkeep s (s.fetchFabric line) := by
  unfold State.fetchFabric
  dsimp only
  refine Upkeep.trans ?_ (State.setPhysBytes_upkeep _ _ _)
  exact ⟨rfl, fun _ => rfl, rfl, fun _ => rfl, fun _ => rfl⟩

theorem State.permit_upkeep (s : State) (pa : Nat) (write : Bool) : Upkeep s (s.permit pa write) := by
  have grant (t : State) (x : List (Nat × Bool)) : Upkeep t { t with ports := { t.ports with perms := x } } :=
    ⟨rfl, fun _ => rfl, rfl, fun _ => rfl, fun _ => rfl⟩
  unfold State.permit
  exact .ite (Upkeep.trans (.ite (.refl s) (s.fetchFabric_upkeep _)) (grant _ _)) (.ite (grant _ _) (.refl s))

theorem State.gain_upkeep (s : State) (pa : Nat) (p : Policy) (write : Bool) : Upkeep s (s.gain pa p write) :=
  .ite (s.fetchFabric_upkeep _) (s.permit_upkeep _ _)
theorem State.lostWrite_upkeep (s : State) (n pa : Nat) : Upkeep s (s.lostWrite n pa) :=
  .ite (s.postError_upkeep _ _ _) (.refl s)

theorem State.fillSwm_upkeep (s : State) (n line : Nat) : Upkeep s (s.fillSwm n line).1 := by
  unfold State.fillSwm
  dsimp only
  split
  · exact .refl s
  · exact (s.coreRead_upkeep _ _).trans (State.setCopy_upkeep _ _ _)

theorem State.putHome_upkeep (s : State) (pa : Nat) (p : Policy) (bs : List Byte) : Upkeep s (s.putHome pa p bs) := by
  have home : Upkeep s (s.writeHome pa bs) :=
    (State.setPhysBytes_upkeep bs s pa).trans ⟨rfl, fun _ => rfl, rfl, fun _ => rfl, fun _ => rfl⟩
  exact .ite (home.trans (State.report_upkeep _ _)) home

theorem State.noteStore_upkeep (s : State) (n was : Nat) (m : Store) (pos : Nat) (old : List Byte) :
    Upkeep s (s.noteStore n was m pos old) := ⟨rfl, fun _ => rfl, rfl, fun _ => rfl, fun _ => rfl⟩

theorem State.noteCode_upkeep (s : State) (n pa len : Nat) (user : Bool) : Upkeep s (s.noteCode n pa len user) := by
  unfold State.noteCode
  split
  · exact .ite ⟨rfl, fun _ => rfl, rfl, fun _ => rfl, fun _ => rfl⟩ (.refl s)
  · exact .refl s

theorem State.storeHome_upkeep (s : State) (n pa : Nat) (p : Policy) (bs : List Byte) : Upkeep s (s.storeHome n pa p bs) :=
  (((s.coreWrite_upkeep _ _).trans (State.noteStore_upkeep ..)).trans (State.noteCode_upkeep ..)).trans (State.putHome_upkeep ..)

/-- A write to memory is upkeep for the cores, whichever page policy performs it. -/
theorem State.writeGlobal_upkeep (s : State) (n pa : Nat) (p : Policy) (bs : List Byte) : Upkeep s (s.writeGlobal n pa p bs) := by
  have gained := (s.gain_upkeep pa p true).trans (State.lostWrite_upkeep _ n pa)
  unfold State.writeGlobal
  dsimp only
  split
  · exact gained
  · split
    · exact gained.trans (((State.fillSwm_upkeep _ _ _).trans (State.noteCode_upkeep ..)).trans (State.setCopy_upkeep ..))
    · exact gained.trans (State.storeHome_upkeep ..)

end Sys2Proof.Machine
end

section
/-! Taking an exception (R39, R142, R458, R459). -/
namespace Sys2Proof.Machine
open Sys2Proof

theorem State.cur_leaveLockstep (s : State) (n : Nat) : (s.leaveLockstep n).cur = s.cur := by
  unfold State.leaveLockstep
  split <;> rfl

/-- The core after an entry whose record is written: inside the handler, at XVEC; the write of the record leaves it but for its logical
time and a stop for an error. -/
theorem State.core_enter (s : State) (n pa : Nat) (pol : Policy) (c : Core) (bs : List Byte) (xvec : Word) :
    let s2 := (s.setCore n c).writeGlobal n pa pol bs
    (s2.setCore n ((s2.core n).setPc xvec)).core n =
      { c.setPc xvec with lt := (s2.core n).lt, errStop := (s2.core n).errStop } := by
  intro s2
  have kept : s2.core n = { c with lt := (s2.core n).lt, errStop := (s2.core n).errStop } := by
    simpa using (State.writeGlobal_upkeep (s.setCore n c) n pa pol bs).core n
  rw [State.core_setCore, kept]
  rfl

/-- The trap record of a core in its handler holds what the entry saved (R459). -/
theorem State.trapRecord_inHandler (s : State) (n : Nat) (c : Core) (cause : Cause) (x : Word) (m : BitVec 3) (cycle : Word) :
    let k := c.inHandler cause x m
    let s1 := s.setCore n k
    s1.trapRecord n cycle =
      toBytes 8 k.regs.trap.xpc ++ toBytes 8 (cause.code.setWidth 64) ++ toBytes 8 x ++ toBytes 8 (m.setWidth 64) ++
        toBytes 8 k.xstat ++ toBytes 8 (BitVec.ofNat 64 (s1.lcn n)) ++ toBytes 8 cycle ++ toBytes 8 0#64 := by
  intro k s1
  rw [State.trapRecord, State.core_setCore]
  rfl

end Sys2Proof.Machine

namespace Sys2Proof
open Machine

/-- Settles O22: of the three ways to take an exception, each hypothesis leaves one; the write of the record is upkeep for the core. -/
theorem trapEntry : Obligations.TrapEntry := by
  intro s n cause x m pa pol
  obtain ⟨-, -, -, -, -, spad, slices, -⟩ := Core.besides_fields (s.core n).besides_drain
  refine ⟨fun noExl pinned => ?_, fun noExl unpinned => ?_, fun exl => ?_, State.trapRecord_inHandler _ n _ cause x m _⟩
  · obtain ⟨exl, -⟩ | ⟨-, unpinned, -⟩ | ⟨pa', pol', -, pinned', entry⟩ := s.takeTrap_cases n cause x m
    · exact absurd (noExl.symm.trans exl) Bool.false_ne_true
    · exact absurd (pinned.symm.trans unpinned) (Option.some_ne_none _)
    · cases Option.some.inj (pinned.symm.trans pinned')
      dsimp only
      rw [entry]
      simp only [State.core_enter]
      refine ⟨rfl, rfl, rfl, rfl, rfl, rfl, rfl, rfl, rfl, rfl, rfl, rfl, rfl, rfl, rfl, rfl, rfl, rfl, rfl, spad, slices, rfl, rfl, ?_⟩
      exact (State.writeGlobal_upkeep _ n pa pol _).cur.trans (State.cur_leaveLockstep _ n)
  · obtain ⟨exl, -⟩ | ⟨-, -, fault⟩ | ⟨pa', pol', -, pinned, -⟩ := s.takeTrap_cases n cause x m
    · exact absurd (noExl.symm.trans exl) Bool.false_ne_true
    · exact fault
    · exact absurd (pinned.symm.trans unpinned) (Option.some_ne_none _)
  · obtain ⟨-, fault⟩ | ⟨noExl, -⟩ | ⟨pa', pol', noExl, -⟩ := s.takeTrap_cases n cause x m
    · exact fault
    · exact absurd (noExl.symm.trans exl) Bool.false_ne_true
    · exact absurd (noExl.symm.trans exl) Bool.false_ne_true

end Sys2Proof
end

section
/-! Vector groups and register images in local memory (R39, R40, R160, R177, R178). -/
namespace Sys2Proof.Machine
open Sys2Proof Sys2Proof.Claims

/-! ## The checks of a local access, after others -/

/-- `s` and `t` agree in whatever the checks of a local access read (R154, R155, R531). -/
structure SameChecks (s t : State) : Prop where
  cur : t.cur = s.cur
  trap : ∀ c, (t.core c).regs.trap = (s.core c).regs.trap
  ctag : ∀ c, (t.core c).ctag = (s.core c).ctag
  dieMap : t.dieMap = s.dieMap
  chipFenced : ∀ d, (t.die d).chipFenced = (s.die d).chipFenced
  sliceTag : ∀ d, (t.die d).sliceTag = (s.die d).sliceTag

theorem SameChecks.refl (s : State) : SameChecks s s := ⟨rfl, fun _ => rfl, fun _ => rfl, rfl, fun _ => rfl, fun _ => rfl⟩
theorem SameChecks.trans {s t u : State} (a : SameChecks s t) (b : SameChecks t u) : SameChecks s u where
  cur := b.cur.trans a.cur
  trap c := (b.trap c).trans (a.trap c)
  ctag c := (b.ctag c).trans (a.ctag c)
  dieMap := b.dieMap.trans a.dieMap
  chipFenced d := (b.chipFenced d).trans (a.chipFenced d)
  sliceTag d := (b.sliceTag d).trans (a.sliceTag d)

theorem Upkeep.sameChecks {s t : State} (h : Upkeep s t) : SameChecks s t :=
  ⟨h.cur, fun c => congrArg Regs.trap (h.regs c), h.ctag, h.dieMap, h.chipFenced, h.sliceTag⟩

theorem SameChecks.setCore {s : State} {n : Nat} {c : Core} (trap : c.regs.trap = (s.core n).regs.trap)
    (ctag : c.ctag = (s.core n).ctag) : SameChecks s (s.setCore n c) := by
  refine ⟨rfl, fun k => ?_, fun k => ?_, rfl, fun _ => rfl, fun _ => rfl⟩
  · by_cases hk : k = n
    · rwa [hk, State.core_setCore]
    · rw [State.core_setCore_ne _ _ _ _ hk]
  · by_cases hk : k = n
    · rwa [hk, State.core_setCore]
    · rw [State.core_setCore_ne _ _ _ _ hk]

theorem SameChecks.windowOf {s t : State} (h : SameChecks s t) (n : Nat) (a : Word) (len : Nat) :
    t.windowOf n a len = s.windowOf n a len := by
  have down (d off : Nat) : (t.die d).sliceDown off len = (s.die d).sliceDown off len := by
    simp only [Die.sliceDown, h.chipFenced]
  have phys (l : Nat) : t.physDie l = s.physDie l := by simp only [State.physDie, h.dieMap]
  simp only [State.windowOf, down, phys]

theorem SameChecks.placeOwned {s t : State} (h : SameChecks s t) (n len : Nat) (p : Place) :
    t.placeOwned n len p = s.placeOwned n len p := by
  cases p <;> simp only [State.placeOwned, Core.ptag, Die.sliceOf, h.ctag, h.sliceTag]

theorem SameChecks.checkLocal {s t : State} (h : SameChecks s t) (n : Nat) (user : Bool) (a : Word) (len align : Nat) :
    t.checkLocal n user a len align = s.checkLocal n user a len align := by
  simp only [State.checkLocal, h.windowOf, h.placeOwned]

theorem SameChecks.checkVec {s t : State} (h : SameChecks s t) (a : Word) (len align : Nat) :
    t.checkVec a len align = s.checkVec a len align := by
  rw [State.checkVec, h.checkLocal, State.cc, h.cur, h.trap, State.checkVec, State.cc]

/-! ## What loads and stores leave of the checks -/

/-- Reading the words of a scratchpad changes its own state only. -/
theorem Core.readWords_fields (c : Core) (ws : List Nat) :
    (c.readWords ws).regs = c.regs ∧ (c.readWords ws).ctag = c.ctag := by
  refine List.foldlRecOn (motive := fun k : Core => k.regs = c.regs ∧ k.ctag = c.ctag) _ _ ⟨rfl, rfl⟩ fun k ok w _ => ?_
  dsimp only
  split
  · split <;> exact ok
  · split
    · exact ok
    · split
      · exact ok
      · split <;> exact ok

theorem State.scan_sameChecks (s : State) (p : Place) (len : Nat) : SameChecks s (s.scan p len).1 := by
  cases p with
  | spad own c off =>
    obtain ⟨regs, ctag⟩ := (s.core c).readWords_fields (wordsOf off len)
    have read : SameChecks s (s.setCore c ((s.core c).readWords (wordsOf off len))) := .setCore (congrArg Regs.trap regs) ctag
    have suspected (u : Nat → SuspUnit) (ws : List Nat) := read.trans
      (Upkeep.foldl (fun t w => t.suspect_upkeep (u w) 1) _ ws).sameChecks
    simp only [State.scan]
    split
    · exact (suspected _ _).trans (State.owe_upkeep _ _).sameChecks
    · exact suspected _ _
  | chip d off => exact .refl s
  | evu off => exact .refl s

theorem State.touch_sameChecks (s : State) (n : Nat) (p : Place) (len : Nat) : SameChecks s (s.touch n p len).1 := by
  have scanned := s.scan_sameChecks p len
  simp only [State.touch]
  split
  · exact scanned.trans (State.postError_upkeep _ _ _ _).sameChecks
  · exact scanned

theorem Core.loaded_fields (c : Core) (t passes slip : Nat) (w : Wr) :
    (c.loaded t passes slip w).regs.trap = c.regs.trap ∧ (c.loaded t passes slip w).ctag = c.ctag := by
  have written : (c.wr w).regs.trap = c.regs.trap ∧ (c.wr w).ctag = c.ctag := by
    obtain ⟨-, trap, -, -, -, -, -, -, -, -, -, -, -, -, ctag⟩ := Core.besides_fields (c.besides_wr w)
    exact ⟨trap, ctag⟩
  have late : ¬ 2 + passes ≤ 1 := by omega
  unfold Core.loaded
  split
  · rw [Core.result, if_neg late]
    exact ⟨rfl, rfl⟩
  · exact written

/-- A store leaves the registers of every core. -/
theorem storePlace_keeps (p : Place) (bs : List Byte) (s : State) :
    SameChecks s (storePlace p bs s) ∧ ∀ c, ((storePlace p bs s).core c).regs = (s.core c).regs := by
  have put {t : State} (h : Upkeep s t) :
      SameChecks s (t.writePlace p bs) ∧ ∀ c, ((t.writePlace p bs).core c).regs = (s.core c).regs := by
    cases p with
    | spad own n off =>
      exact ⟨h.sameChecks.trans (.setCore rfl rfl), fun c => (t.writePlace_spad_keeps own n off bs c).2.1.trans (h.regs c)⟩
    | chip d off => exact ⟨(h.trans (.setDie (by rfl) (by rfl))).sameChecks, h.regs⟩
    | evu off => exact ⟨h.sameChecks, h.regs⟩
  have timed := s.coreWrites_upkeep s.cur (p.homes (clusterOf s.cur) bs.length)
  unfold storePlace
  dsimp only
  split
  · exact put (timed.trans (State.noteStore_upkeep ..))
  · exact put timed

/-! ## The registers of a group, one after the other -/

/-- One register of a group is loaded from its place. -/
def loadReg (d : VReg) (t passes : Nat) (pl : Nat → Place) (tg : Core → Nat → VData → Tag) (s : State) (i : Nat) : State :=
  let q := s.touch s.cur (pl i) 128
  let s2 := q.1.coreReads q.1.cur ((pl i).homes (clusterOf q.1.cur) 128)
  let bits := ofBytes 1024 (s2.readPlace 128 (pl i))
  s2.setCc (s2.cc.loaded t passes (pl i).slip (.v (groupReg d i) ⟨bits, if q.2 then poisonTag else tg s2.cc i bits⟩))

/-- One register of a group is stored to its place. -/
def storeReg (b : VReg) (pl : Nat → Place) (s : State) (i : Nat) : State :=
  storePlace (pl i) (toBytes 128 (s.cc.rdV (groupReg b i)).bits) s

theorem loadReg_sameChecks (d : VReg) (t passes : Nat) (pl : Nat → Place) (tg : Core → Nat → VData → Tag) (s : State) (i : Nat) :
    SameChecks s (loadReg d t passes pl tg s i) := by
  obtain ⟨trap, ctag⟩ := Core.loaded_fields _ t passes (pl i).slip _
  exact ((s.touch_sameChecks s.cur (pl i) 128).trans (State.coreReads_upkeep _ _ _).sameChecks).trans (.setCore trap ctag)

theorem storeReg_rdV (b : VReg) (pl : Nat → Place) (s : State) (i : Nat) (r : VReg) :
    (storeReg b pl s i).cc.rdV r = s.cc.rdV r := by
  obtain ⟨checks, regs⟩ := storePlace_keeps (pl i) (toBytes 128 (s.cc.rdV (groupReg b i)).bits) s
  rw [storeReg, State.cc, Core.rdV, checks.cur, regs, State.cc, Core.rdV]

/-- The tag that a register of a group is loaded with, by the form's own tag or by an image's tag word. -/
def groupTag (tag : Tag) : Option (Word × Bool) → Core → Nat → VData → Tag
  | none, _, _, _ => tag
  | some (w, bad), c, i, bits => if bad then poisonTag else c.imageTag (tagByte w i) bits

/-- A group whose places all pass the checks is loaded register by register. -/
theorem loadGroup_passes (a : Word) (d : VReg) (tag : Tag) (tw : Option (Word × Bool)) (t passes : Nat) (pl : Nat → Place)
    (left m : Nat) (s : State) (ok : ∀ i, m ≤ i → i < m + left → s.checkVec (a + BitVec.ofNat 64 (128 * i)) 128 8 = .ok (pl i)) :
    loadGroup a d tag tw t passes left m s =
      .done (((List.range' m left).foldl (loadReg d t passes pl (groupTag tag tw)) s).ownPasses a passes) := by
  induction left generalizing m s with
  | zero => rfl
  | succ left ih =>
    have next (i : Nat) (lo : m + 1 ≤ i) (hi : i < m + 1 + left) :
        (loadReg d t passes pl (groupTag tag tw) s m).checkVec (a + BitVec.ofNat 64 (128 * i)) 128 8 = .ok (pl i) := by
      rw [(loadReg_sameChecks ..).checkVec]
      exact ok i (by omega) (by omega)
    rw [loadGroup, ok m le_rfl (by omega), List.range'_succ, List.foldl_cons, ← ih (m + 1) _ next]
    cases tw <;> rfl

/-- A group whose places all pass the checks and whose sources are not poisoned is stored register by register; then the tag word of an
image stands to be written. -/
theorem storeGroup_passes (a : Word) (b : VReg) (n passes : Nat) (img : Option Place) (pl : Nat → Place) (left m : Nat) (s : State)
    (ok : ∀ i, m ≤ i → i < m + left → s.checkVec (a + BitVec.ofNat 64 (128 * i)) 128 8 = .ok (pl i))
    (sound : ∀ i, m ≤ i → i < m + left → isPoison (s.cc.rdV (groupReg b i)).tag = false) :
    storeGroup a b n passes img left m s =
      storeGroup a b n passes img 0 (m + left) ((List.range' m left).foldl (storeReg b pl) s) := by
  induction left generalizing m s with
  | zero => rfl
  | succ left ih =>
    have ok' (i : Nat) (lo : m + 1 ≤ i) (hi : i < m + 1 + left) :
        (storeReg b pl s m).checkVec (a + BitVec.ofNat 64 (128 * i)) 128 8 = .ok (pl i) := by
      rw [storeReg, (storePlace_keeps ..).1.checkVec]
      exact ok i (by omega) (by omega)
    have sound' (i : Nat) (lo : m + 1 ≤ i) (hi : i < m + 1 + left) :
        isPoison ((storeReg b pl s m).cc.rdV (groupReg b i)).tag = false := by
      rw [storeReg_rdV]
      exact sound i (by omega) (by omega)
    rw [storeGroup, if_neg (by simp [sound m le_rfl (by omega)]), ok m le_rfl (by omega), List.range'_succ, List.foldl_cons]
    dsimp only
    rw [show m + (left + 1) = m + 1 + left by omega, ← ih (m + 1) _ ok' sound']
    rfl

/-- A group whose first register to store is poisoned traps there, before the access. -/
theorem storeGroup_poison (a : Word) (b : VReg) (n passes : Nat) (img : Option Place) {left m : Nat} {s : State} (more : 0 < left)
    (poison : isPoison (s.cc.rdV (groupReg b m)).tag = true) :
    storeGroup a b n passes img left m s =
      .trap s .poison ((0x300#64 : Word) + (s.cc.rdV (groupReg b m)).tag.setWidth 64) (BitVec.ofNat 3 m) := by
  obtain ⟨left, rfl⟩ := Nat.exists_eq_add_one.mpr more
  rw [storeGroup]
  exact if_pos poison

/-! ## What stands before the access -/

theorem noStream_groupNums {r : VReg} {x : BitVec 2} {s : State} (unbound : ∀ i < groupSize x, s.cc.bound (groupReg r i) = none)
    (k : State → Eff) : noStream (groupNums r x) k s = k s := by
  have none' : s.cc.streamOperand (groupNums r x) = none := by
    simp only [Core.streamOperand, groupNums, List.find?_eq_none, List.mem_map, List.mem_range]
    rintro _ ⟨i, hi, rfl⟩
    simp [unbound i hi]
  rw [noStream, none']

theorem groupHold_free {a : Word} {m n : Nat} {img : Bool} {s : State} (free : s.groupHolders a m n img = []) (k : State → Eff) :
    groupHold a m n img k s = k s := by
  simp [groupHold, free]

theorem Core.progress_le (c : Core) (n : Nat) : c.progress n ≤ n := by
  unfold Core.progress
  split
  · exact Nat.min_le_right ..
  · split
    · exact Nat.zero_le n
    · exact Nat.min_le_right ..

end Sys2Proof.Machine

namespace Sys2Proof
open Machine Claims

/-- Settles O11: no stream is named and no command holds the ranges, so that each form does its registers one after the other, by
induction on those left; no load and no store changes what the checks of the next register read. -/
theorem localVectors : Obligations.LocalVectors := by
  intro d b a tag x imm m pl pt
  dsimp only
  simp only [← List.range'_eq_map_range]
  refine ⟨?_, ?_, ?_, ?_, ?_⟩
  · refine completes_of_issueWord (fun h s => exec_vld h tag d a x imm s) ?_
    rintro s ⟨unbound, progress, free, ok⟩
    have le := progress ▸ s.cc.progress_le (groupSize x)
    rw [noStream_groupNums unbound]
    dsimp only
    rw [progress, Core.addr_eq, groupHold_free free]
    exact loadGroup_passes _ d tag none _ _ pl _ m s fun i lo hi => ok i (by omega) lo
  · refine completes_of_issueWord (fun h s => exec_vldImg h d a x imm s) ?_
    rintro s ⟨⟨unbound, progress, free, ok⟩, okTags⟩
    have le := progress ▸ s.cc.progress_le (groupSize x)
    have checks := (s.touch_sameChecks s.cur pt 8).trans (State.coreRead_upkeep _ (s.touch s.cur pt 8).1.cur
      (pt.home (clusterOf (s.touch s.cur pt 8).1.cur))).sameChecks
    rw [noStream_groupNums unbound]
    dsimp only
    rw [progress, Core.addr_eq, groupHold_free free, okTags]
    exact loadGroup_passes _ d 0 (some _) _ _ pl _ m _ fun i lo hi => (checks.checkVec ..).trans (ok i (by omega) lo)
  · refine completes_of_issueWord (fun h s => exec_vst h a b x imm s) ?_
    rintro s ⟨⟨unbound, progress, free, ok⟩, sound⟩
    have le := progress ▸ s.cc.progress_le (groupSize x)
    rw [noStream_groupNums unbound]
    dsimp only
    rw [progress, Core.addr_eq, groupHold_free free]
    exact storeGroup_passes _ b _ _ none pl _ m s (fun i lo hi => ok i (by omega) lo) fun i lo hi => sound i (by omega) lo
  · refine completes_of_issueWord (fun h s => exec_vstImg h a b x imm s) ?_
    rintro s ⟨⟨unbound, progress, free, ok⟩, sound, okTags⟩
    have le := progress ▸ s.cc.progress_le (groupSize x)
    rw [noStream_groupNums unbound]
    dsimp only
    rw [progress, Core.addr_eq, groupHold_free free, okTags]
    exact storeGroup_passes _ b _ _ (some pt) pl _ m s (fun i lo hi => ok i (by omega) lo) fun i lo hi => sound i (by omega) lo
  · rintro h s ⟨inside, guard, awaits⟩ ⟨unbound, progress, free, -⟩ more poison
    rw [exec_vst, execVst, issueWord_issues inside guard awaits, ← issued, noStream_groupNums unbound]
    dsimp only
    rw [progress, Core.addr_eq, groupHold_free free, storeGroup_poison _ b _ _ none (by omega) poison]
    rfl

end Sys2Proof
end

section
/-! Scalar floating-point words (R121 to R127) and SCVT (R101): what each shared form does where it issues. -/
namespace Sys2Proof.Machine
open Sys2Proof Sys2Proof.Claims

/-! ## Words that are given by an effect in their core -/

/-- A word of its own core completes as stated where its effect makes that core. -/
theorem completes_of_issueCore {i : Hdr → Instr} {d sa sb : BitVec 7} {u : Uses} {P : State → Prop} {f : Core → Core}
    {eff : Core → CoreEff} (meaning : ∀ h s, exec (i h) s = issueCore h d sa sb u eff s)
    (makes : ∀ s, P s → eff s.cc = .ok (f s.cc)) :
    Completes i d sa sb u P (onCore f) :=
  completes_of_issueWord meaning fun s hP => by
    rw [makes s hP]
    rfl

/-- A scalar form completes with its one result. -/
theorem completes_of_scalarForm {i : Hdr → Instr} {srcs : List (BitVec 7)} {lat : Nat} {dst : BitVec 7} {P : State → Prop}
    {w val : Core → Wr} (meaning : ∀ h s, exec (i h) s = scalarForm h srcs lat dst val s) (same : ∀ s, P s → val s.cc = w s.cc) :
    Completes i 0 0 0 { srcs := srcs, dsts := [dst] } P (onCore fun c => c.result c.tmg.clk lat (w c)) :=
  completes_of_issueCore meaning fun s hP => by
    rw [same s hP]

/-! ## Scalar floating-point forms -/

/-- R121: a rounding form rounds its exact value once with lane 0's generator, and writes it with a latency of 4. -/
theorem completes_of_faForm {i : Hdr → Instr} {d : GReg} {srcs : List GReg} {rm : BitVec 3} {f32 : Bool} {op : Core → Bool → Ex}
    {x : Core → Ex} (meaning : ∀ h s, exec (i h) s = faForm h d srcs rm f32 op s)
    (value : ∀ c, op c (c.regs.fp.mode rm == modeRDN) = x c) :
    Completes i 0 0 0 { srcs := srcs.map opG, dsts := [opG d] } always (onCore fun c =>
      (c.setFp fun _ => (c.regs.fp.round (sFmt f32) rm 0 (x c)).2.raise 0).result c.tmg.clk 4
        (.g d (BitVec.ofNat 64 (c.regs.fp.round (sFmt f32) rm 0 (x c)).1))) :=
  completes_of_issueCore meaning fun s _ => by
    rw [value]
    rfl

/-- R104, R123: a rounding form of the divider takes it for its latency, and its result is interlocked. -/
theorem completes_of_divForm {i : Hdr → Instr} {d : GReg} {srcs : List GReg} {rm : BitVec 3} {f32 : Bool} {lat : Core → Nat}
    {eff : Core → Core × Word} {x : Core → Ex} {fl : Core → BitVec 5} (meaning : ∀ h s, exec (i h) s = divForm h d srcs lat eff s)
    (rounds : ∀ c, eff c = c.roundS f32 rm (x c) (fl c)) :
    Completes i 0 0 0 { srcs := srcs.map opG, dsts := [opG d], unit := .div } always (onCore fun c =>
      ((c.setFp fun _ => (c.regs.fp.round (sFmt f32) rm 0 (x c)).2.raise (fl c)).lockedResult c.tmg.clk (lat c)
        (.g d (BitVec.ofNat 64 (c.regs.fp.round (sFmt f32) rm 0 (x c)).1))).setTmg fun m => { m with divBusy := c.tmg.clk + lat c }) :=
  completes_of_issueCore meaning fun s _ => by
    simp only [rounds]
    rfl

/-- R125 to R127: a form that moves or classifies patterns raises its flags and writes with a latency of 2. -/
theorem completes_of_fsForm {i : Hdr → Instr} {d : GReg} {srcs : List GReg} {op : Core → Nat × BitVec 5} {x : Core → Nat}
    {fl : Core → BitVec 5} (meaning : ∀ h s, exec (i h) s = fsForm h d srcs op s) (value : ∀ c, op c = (x c, fl c)) :
    Completes i 0 0 0 { srcs := srcs.map opG, dsts := [opG d] } always (onCore fun c =>
      (c.setFp fun t => t.raise (fl c)).result c.tmg.clk 2 (.g d (BitVec.ofNat 64 (x c)))) :=
  completes_of_issueCore meaning fun s _ => by
    simp only [value]
    rfl

end Sys2Proof.Machine

namespace Sys2Proof
open Machine Claims

/-- Settles O3: each word is a case of a shared form, whose effect lies in its own core and makes the very core that is stated. -/
theorem scalarFloat : Obligations.ScalarFloat := by
  intro d a b p rm cc src dt f32
  dsimp only
  refine ⟨?add, ?sub, ?mul, ?fma, ?div, ?sqrt, ?cmp, ?cls, ?min, ?max, ?abs, ?neg, ?cpys, ?scvt⟩
  case add => exact completes_of_faForm (fun h s => exec_fadd h d a b rm f32 s) fun _ => rfl
  case sub => exact completes_of_faForm (fun h s => exec_fsub h d a b rm f32 s) fun _ => rfl
  case mul => exact completes_of_faForm (fun h s => exec_fmul h d a b rm f32 s) fun _ => rfl
  case fma => exact completes_of_faForm (fun h s => exec_fma h d a b rm f32 s) fun _ => rfl
  case div => exact completes_of_divForm (fun h s => exec_fdiv h d a b rm f32 s) fun _ => rfl
  case sqrt => exact completes_of_divForm (fun h s => exec_fsqrt h d a rm f32 s) fun _ => rfl
  case cmp => exact completes_of_issueCore (fun h s => exec_fcmp h p a b cc f32 s) fun _ _ => rfl
  case cls => exact completes_of_fsForm (fun h s => exec_fclass h d a f32 s) fun _ => rfl
  case min => exact completes_of_fsForm (fun h s => exec_fmin h d a b f32 s) fun _ => rfl
  case max => exact completes_of_fsForm (fun h s => exec_fmax h d a b f32 s) fun _ => rfl
  case abs => exact completes_of_fsForm (fun h s => exec_fabs h d a f32 s) fun _ => rfl
  case neg => exact completes_of_fsForm (fun h s => exec_fneg h d a f32 s) fun _ => rfl
  case cpys => exact completes_of_fsForm (fun h s => exec_fcpys h d a b f32 s) fun _ => rfl
  case scvt => exact completes_of_issueCore (fun h s => exec_scvt h src dt d a rm s) fun _ _ => rfl

end Sys2Proof
end

section
/-! Conversions and tags (R90 to R100): a register is its elements, and what a conversion does on registers that no stream is bound to. -/
namespace Sys2Proof.Machine
open Sys2Proof Sys2Proof.Claims

/-! ## A register is its elements (R251) -/

/-- Bit i of a register is a bit of the element that holds it. -/
theorem getLsbD_ofElems {w : Nat} (pos : 0 < w) (xs : List Nat) (i : Nat) :
    (ofElems w xs).getLsbD i = (decide (i < 1024) && (xs.getD (i / w) 0).testBit (i % w)) := by
  induction xs generalizing i with
  | nil => simp [ofElems]
  | cons x xs ih =>
    have step : ofElems w (x :: xs) = (ofElems w xs <<< w) ||| BitVec.ofNat 1024 (x % 2 ^ w) := rfl
    rw [step, BitVec.getLsbD_or, BitVec.getLsbD_shiftLeft, ih, BitVec.getLsbD_ofNat, Nat.testBit_mod_two_pow]
    by_cases first : i < w
    · simp [first, Nat.div_eq_of_lt first, Nat.mod_eq_of_lt first]
    · obtain ⟨j, rfl⟩ : ∃ j, i = j + w := ⟨i - w, by omega⟩
      have inside : (decide (j + w < 1024) && decide (j < 1024)) = decide (j + w < 1024) := by simp; omega
      simp [pos, ← Bool.and_assoc, inside]

theorem testBit_elem (w : Nat) (x : VData) (e i : Nat) : (elem w x e).testBit i = (decide (i < w) && x.getLsbD (e * w + i)) := by
  rw [elem, ← BitVec.getLsbD, BitVec.getLsbD_extractLsb']

/-- A register is put together from its elements. -/
theorem ofElems_elem {w n : Nat} (whole : n * w = 1024) (x : VData) : ofElems w ((List.range n).map (elem w x)) = x := by
  have pos : 0 < w := Nat.pos_of_ne_zero fun zero => by simp [zero] at whole
  refine BitVec.eq_of_getLsbD_eq fun i hi => ?_
  have inside : i / w < n := Nat.div_lt_of_lt_mul (by rwa [Nat.mul_comm, whole])
  rw [getLsbD_ofElems pos]
  simp [hi, inside, testBit_elem, Nat.mod_lt i pos, Nat.div_add_mod']

/-! ## The map of a conversion (R92) -/

/-- Elements are computed alike where the same ones are active, the active ones go by the same function, and the others have the same
value and leave the floating-point state. -/
theorem mapElems_congr {n : Nat} {act act' : Nat → Bool} {rest rest' : Nat → Nat} {f : Nat → FpRegs → Nat × FpRegs}
    {skip skip' : Nat → FpRegs → FpRegs} {fp : FpRegs} (acts : act = act')
    (others : ∀ e, act' e = false → rest e = rest' e ∧ skip e = skip' e) :
    mapElems n act rest f skip fp = mapElems n act' rest' f skip' fp := by
  subst acts
  have step : ∀ (e : Nat) (p : List Nat × FpRegs),
      (if act e then ((f e p.2).1 :: p.1, (f e p.2).2) else (rest e :: p.1, skip e p.2)) =
        if act e then ((f e p.2).1 :: p.1, (f e p.2).2) else (rest' e :: p.1, skip' e p.2) := by
    intro e p
    cases he : act e with
    | true => rfl
    | false => rw [(others e he).1, (others e he).2]
  simp only [mapElems, step]

/-- Floating-point state says nothing of streams. -/
@[simp] theorem Core.bound_setFp (c : Core) (f : FpRegs → FpRegs) (r : VReg) : (c.setFp f).bound r = c.bound r := bound_congr rfl r

/-- A conversion on unbound registers with allowed tags, of a chunk that it has, completes with its elements, each converted in the lane
of its destination. -/
theorem convEff_ready {tag : Tag} {d a : VReg} {b : List VReg} {allowA allowB : Tag → Bool} {rm : BitVec 3} {stm : Bool}
    {chunk : BitVec 4} {conv : Core → Tag → VIn → Fin 16 → Nat → FpRegs → Nat × FpRegs} {s : State}
    (ha : Reads s.cc a allowA) (hb : ∀ r ∈ b, Reads s.cc r allowB) (hd : s.cc.bound d = none)
    (keeps : (decide (tagWidth tag < tagWidth (s.cc.rdV a).tag) && decide (0 < chunk.toNat) || stm) = true →
      isPoison (s.cc.rdV d).tag = false ∧ (s.cc.rdV d).tag = tag)
    (inside : chunk.toNat <
      max (tagWidth (s.cc.rdV a).tag) (tagWidth tag) / min (tagWidth (s.cc.rdV a).tag) (tagWidth tag)) :
    convEff tag d a b allowA allowB rm stm chunk conv s =
      let ws := tagWidth (s.cc.rdV a).tag
      let wd := tagWidth tag
      let pick := chunkSrc ws wd chunk.toNat
      let v : VIn := { s := s, xs := (a :: b).map fun r => (s.cc.rdV r).bits, old := (s.cc.rdV d).bits, tail := fun _ => true }
      let r := mapElems (1024 / wd) (fun e => (pick e).isSome) (fun e => if chunk = 0 then 0 else elem wd (s.cc.rdV d).bits e)
        (fun e => conv s.cc (s.cc.rdV a).tag v (laneOf wd e) (elem ws (s.cc.rdV a).bits ((pick e).getD 0)))
        (fun _ fp => fp) s.cc.regs.fp
      .done (s.setCc ((s.cc.setFp fun _ => r.2).result s.cc.tmg.clk 4 (.v d ⟨ofElems wd r.1, tag⟩))) := by
  have ha' : ∀ r ∈ [a], Reads s.cc r allowA := by simpa using ha
  simp only [convEff, tagOf_unbound ha.1]
  rw [vecChecks_none ha' hb (fun r hr => by cases hr; exact ⟨hd, fun h => keeps (by simpa [VForm.dstSource, keepsOld] using h)⟩)]
  simp only [Nat.not_le.mpr inside, if_false]
  rw [openVec_ready ha' hb hd (fun h => keeps (by simpa [VForm.dstSource, keepsOld] using h))]
  dsimp only
  rw [mapElems_congr (act' := fun e => (chunkSrc _ _ chunk.toNat e).isSome)
    (rest' := fun e => if chunk = 0 then 0 else elem (tagWidth tag) (s.cc.rdV d).bits e) (skip' := fun _ fp => fp) ?acts ?others,
    putVec_unbound]
  · simp only [State.cc_setCc, State.setCc_setCc]
    rfl
  · simpa using hd
  case acts =>
    funext e
    cases chunkSrc _ _ chunk.toNat e <;> simp
  case others =>
    intro e none
    simp [Option.isSome_eq_false_iff.mp none, none, BitVec.toNat_eq]

/-- R92: a word whose effect is a conversion converts as stated, its second source read from the register of that source. -/
theorem converts_of_convEff {i : Hdr → Instr} {tag : Tag} {d a : VReg} {b : Option VReg} {more : List (BitVec 7)}
    {allowA allowB : Tag → Bool} {rm : BitVec 3} {stm : Bool} {chunk : BitVec 4}
    {conv : Core → Tag → VData → Fin 16 → Nat → FpRegs → Nat × FpRegs}
    {conv' : Core → Tag → VIn → Fin 16 → Nat → FpRegs → Nat × FpRegs}
    (meaning : ∀ h s, exec (i h) s = issueWord h (opV d) (opV a) ((b.map opV).getD 0)
      (convUses tag d a ([opV a] ++ (b.map opV).toList ++ more) stm chunk) (convEff tag d a b.toList allowA allowB rm stm chunk conv') s)
    (same : ∀ c t v, conv' c t v = conv c t (v.src 1)) : Converts i tag d a b more allowA allowB stm chunk conv := by
  unfold Converts
  refine completes_of_issueWord meaning ?_
  rintro s ⟨readsA, readsB, unbound, keeps, inside⟩
  rw [convEff_ready readsA (fun r hr => readsB r (Option.mem_toList.mp hr)) unbound keeps inside]
  simp only [same]
  cases b <;> rfl

/-! ## Tags and block scales (R96 to R98) -/

/-- Where every element is active and leaves the floating-point state alone, the elements are a plain map of their numbers. -/
theorem mapElems_all {n : Nat} {act : Nat → Bool} (all : ∀ e < n, act e = true) (rest f : Nat → Nat) (fp : FpRegs) :
    mapElems n act rest (fun e fp => (f e, fp)) noSkip fp = ((List.range n).map f, fp) := by
  rw [mapElems_pure]
  congr 1
  exact List.map_congr_left fun e he => if_pos (all e (List.mem_range.mp he))

/-- Every bit of the mask that names no register is set. -/
theorem Core.getLsbD_rdK_zero (c : Core) {e : Nat} (he : e < 128) : (c.rdK 0).getLsbD e = true := by
  rw [Core.rdK_zero, BitVec.getLsbD_allOnes, decide_eq_true he]

/-- VSCL writes its element as the other forms write theirs. -/
theorem setElem16_eq (x : VData) (i v : Nat) : execVscl.setElem16 x i v = setElem 16 x i v := rfl

end Sys2Proof.Machine

namespace Sys2Proof
open Machine Claims

/-- Settles O8: on registers without a stream every check passes; a conversion is then the map of its chunk, a register is its elements,
and the tag that is read is the register's own or, where a stream is bound to it, the stream's. -/
theorem conversions : Obligations.Conversions := by
  intro tag d a b g rm stm chunk j
  refine ⟨?vcvt, ?vcvts, ?vquant, ?vdeq, ?vtag, ?vtagr, ?bound, ?vscl⟩
  case vcvt => exact converts_of_convEff (fun h s => exec_vcvt h tag d a rm stm chunk s) fun _ _ _ => rfl
  case vcvts => exact converts_of_convEff (fun h s => exec_vcvts h tag d a g rm stm chunk s) fun _ _ _ => rfl
  case vquant => exact converts_of_convEff (fun h s => exec_vquant h tag d a b rm chunk j s) fun _ _ _ => rfl
  case vdeq => exact converts_of_convEff (fun h s => exec_vdeq h d a b rm chunk j s) fun _ _ _ => rfl
  case vtag =>
    refine completes_of_issueWord (fun h s => exec_vtag h tag d a s) fun s ⟨whole, unbound⟩ => ?_
    dsimp only
    rw [vecEff_ready (by simpa [Whole] using whole) (by simp) unbound (by simp [VForm.dstSource, keepsOld])]
    dsimp only
    rw [active_whole, mapElems_all (n := 16) (fun e he => s.cc.getLsbD_rdK_zero (by omega)), ofElems_elem rfl]
    rfl
  case vtagr =>
    exact completes_of_scalarForm (fun h s => exec_vtagr h g a s) fun s unbound => by rw [tagOf_unbound unbound]
  case bound =>
    intro i p
    exact completes_of_scalarForm (fun h s => exec_vtagr h g a s) fun s bound => by rw [Core.tagOf, bound]
  case vscl =>
    refine completes_of_issueWord (fun h s => exec_vscl h tag d a j s) fun s ⟨reads, unbound⟩ => ?_
    dsimp only
    rw [openVec_ready (by simpa [Reads, isF32] using reads) (by simp) unbound (by simp [VForm.dstSource, keepsOld])]
    dsimp only
    rw [putVec_unbound]
    · simp only [State.cc_setCc, State.setCc_setCc, setElem16_eq, unbound, isS10, Option.isNone_none, Bool.true_and, beq_iff_eq]
      rfl
    · simpa using unbound

end Sys2Proof
end

section
/-! The products and quotients of scalar words as exact integers (R113, R114), at every width. -/
namespace Sys2Proof.Machine
open Sys2Proof

/-! ## Products (R113) -/

/-- The low half of a product is the exact signed product modulo the width. -/
theorem toNat_mul_eq_emod {n : Nat} (a b : BitVec n) : ((a * b).toNat : Int) = a.toInt * b.toInt % 2 ^ n := by
  have pos : (0 : Int) < 2 ^ n := by positivity
  calc ((a * b).toNat : Int) = ((BitVec.ofInt n (a.toInt * b.toInt)).toNat : Int) := by
        rw [BitVec.ofInt_mul, BitVec.ofInt_toInt, BitVec.ofInt_toInt]
    _ = a.toInt * b.toInt % 2 ^ n := by
        rw [BitVec.toNat_ofInt, Int.toNat_of_nonneg (Int.emod_nonneg _ (by simp))]
        simp

/-- The high half of the signed product fits its word: the exact product lies within half of its 2n bits. -/
theorem toInt_mulHigh {n : Nat} (hn : 0 < n) (a b : BitVec n) : (mulHigh a b).toInt = a.toInt * b.toInt / 2 ^ n := by
  have pos : (0 : Int) < 2 ^ n := by positivity
  have split : (2 : Int) ^ (n * 2 - 2) < 2 ^ (n - 1) * 2 ^ n := by
    rw [← pow_add]
    exact pow_lt_pow_right₀ (by norm_num) (by omega)
  have low := BitVec.le_toInt_mul_toInt (x := a) (y := b)
  have high := BitVec.toInt_mul_toInt_le (x := a) (y := b)
  refine BitVec.toInt_ofInt_eq_self hn ?_ ?_
  · rw [Int.le_ediv_iff_mul_le pos, neg_mul]
    exact (neg_le_neg split.le).trans low
  · rw [Int.ediv_lt_iff_lt_mul pos]
    exact high.trans_lt split

theorem mulHigh_mul_add {n : Nat} (hn : 0 < n) (a b : BitVec n) :
    (mulHigh a b).toInt * 2 ^ n + (a * b).toNat = a.toInt * b.toInt := by
  rw [toInt_mulHigh hn, toNat_mul_eq_emod, Int.ediv_mul_add_emod]

theorem mulHighN_mul_add {n : Nat} (a b : BitVec n) : (mulHighN a b).toNat * 2 ^ n + (a * b).toNat = a.toNat * b.toNat := by
  have fits : a.toNat * b.toNat / 2 ^ n < 2 ^ n :=
    Nat.div_lt_of_lt_mul (Nat.mul_lt_mul'' a.isLt b.isLt)
  rw [mulHighN, BitVec.toNat_ofNat, Nat.mod_eq_of_lt fits, BitVec.toNat_mul, Nat.div_add_mod']

/-! ## Quotients (R114) -/

theorem idivN_of_ne_zero {n : Nat} {a b : BitVec n} (hb : b ≠ 0) : idivN a b = (a / b, a % b) := if_neg hb

theorem idivN_mul_add {n : Nat} {a b : BitVec n} (hb : b ≠ 0) :
    (idivN a b).1.toNat * b.toNat + (idivN a b).2.toNat = a.toNat ∧ (idivN a b).2.toNat < b.toNat := by
  rw [idivN_of_ne_zero hb, BitVec.toNat_udiv, BitVec.toNat_umod]
  exact ⟨Nat.div_add_mod' _ _, Nat.mod_lt _ (Nat.pos_of_ne_zero fun h => hb (BitVec.eq_of_toNat_eq h))⟩

/-- Outside the overflow the signed quotient and remainder are the exact ones, rounded toward zero. -/
theorem toInt_idivS {n : Nat} {a b : BitVec n} (hb : b ≠ 0) (fits : ¬(a = BitVec.intMin n ∧ b = BitVec.allOnes n)) :
    (idivS a b).1.toInt = a.toInt.tdiv b.toInt ∧ (idivS a b).2.toInt = a.toInt.tmod b.toInt := by
  have quotient : BitVec.ofInt n (a.toInt.tdiv b.toInt) = a.sdiv b := by
    apply BitVec.eq_of_toInt_eq
    rw [BitVec.toInt_ofInt, BitVec.toInt_sdiv]
  have remainder : BitVec.ofInt n (a.toInt.tmod b.toInt) = a.srem b := by
    rw [← BitVec.toInt_srem, BitVec.ofInt_toInt]
  rw [idivS, if_neg hb, if_neg fits, quotient, remainder]
  refine ⟨BitVec.toInt_sdiv_of_ne_or_ne a b ?_, BitVec.toInt_srem a b⟩
  rwa [BitVec.neg_one_eq_allOnes, ← not_and_or]

theorem idivS_mul_add {n : Nat} {a b : BitVec n} (hb : b ≠ 0) (fits : ¬(a = BitVec.intMin n ∧ b = BitVec.allOnes n)) :
    (idivS a b).1.toInt * b.toInt + (idivS a b).2.toInt = a.toInt ∧
      (idivS a b).2.toInt.natAbs < b.toInt.natAbs ∧ ((idivS a b).2 = 0 ∨ ((idivS a b).2.toInt < 0 ↔ a.toInt < 0)) := by
  obtain ⟨quotient, remainder⟩ := toInt_idivS hb fits
  have nonzero : b.toInt ≠ 0 := fun h => hb (BitVec.eq_of_toInt_eq (by simpa using h))
  refine ⟨?_, ?_, ?_⟩
  · rw [quotient, remainder, Int.tdiv_mul_add_tmod]
  · rw [remainder, Int.natAbs_tmod]
    exact Nat.mod_lt _ (Int.natAbs_pos.mpr nonzero)
  · by_cases divides : b.toInt ∣ a.toInt
    · refine .inl (BitVec.eq_of_toInt_eq ?_)
      rw [remainder, Int.tmod_eq_zero_of_dvd divides, BitVec.ofNat_eq_ofNat, BitVec.toInt_zero]
    · refine .inr ?_
      rw [remainder, ← Int.sign_eq_neg_one_iff_neg, Int.sign_tmod, if_neg divides, Int.sign_eq_neg_one_iff_neg]

end Sys2Proof.Machine

namespace Sys2Proof
open Machine

/-- R113, R114: the halves of a product by division with remainder; of a quotient, each corner by its branch. -/
theorem productAndQuotientLaws : Claims.ProductAndQuotientLaws := by
  intro n a b hn
  exact ⟨mulHigh_mul_add hn a b, mulHighN_mul_add a b, fun hb => ⟨if_pos hb, if_pos hb⟩, idivN_mul_add,
    fun ha hb nonzero => (if_neg nonzero).trans (if_pos ⟨ha, hb⟩), idivS_mul_add⟩

end Sys2Proof
end

section
/-! What the bit forms of scalar words are (R115, R116), at every width. -/
namespace Sys2Proof.Machine
open Sys2Proof

/-! ## Bit counts (R115) -/

theorem clz_zero (n : Nat) : clz (0 : BitVec n) = n := by simp [clz, bitLen]
theorem ctz_zero (n : Nat) : ctz (0 : BitVec n) = n := if_pos rfl

/-- The most significant 1 of a word lies below its leading zeros. -/
theorem clz_of_ne_zero {n : Nat} {a : BitVec n} (ha : a ≠ 0) : a.toNat.log2 < n ∧ clz a = n - 1 - a.toNat.log2 := by
  have nonzero : a.toNat ≠ 0 := fun h => ha (BitVec.eq_of_toNat_eq h)
  have := (Nat.log2_lt nonzero).mpr a.isLt
  rw [clz, bitLen, if_neg nonzero]
  omega

theorem clz_spec {n : Nat} {a : BitVec n} (ha : a ≠ 0) :
    clz a < n ∧ a.getLsbD (n - 1 - clz a) = true ∧ ∀ i, n - 1 - clz a < i → a.getLsbD i = false := by
  obtain ⟨inside, count⟩ := clz_of_ne_zero ha
  have top : n - 1 - clz a = a.toNat.log2 := by omega
  rw [top]
  refine ⟨by omega, Nat.testBit_log2 fun h => ha (BitVec.eq_of_toNat_eq h), fun i hi => Nat.testBit_lt_two_pow ?_⟩
  exact Nat.lt_log2_self.trans_le (Nat.pow_le_pow_right (by norm_num) hi)

/-- A word and its negation have the least significant 1 in common, and no other bit. -/
theorem and_neg_eq_twoPow {n : Nat} {a : BitVec n} (ha : a ≠ 0) : a &&& (0 - a) = BitVec.twoPow n a.ctz.toNat := by
  apply BitVec.eq_of_getLsbD_eq
  intro i hi
  have least : a.getLsbD a.ctz.toNat = true := BitVec.getLsbD_true_ctz_of_ne_zero ha
  have below {j : Nat} (hj : j < a.ctz.toNat) : a.getLsbD j = false := BitVec.getLsbD_false_of_lt_ctz hj
  rw [BitVec.getLsbD_and, show (0 : BitVec n) - a = -a from BitVec.zero_sub a, BitVec.getLsbD_neg, BitVec.getLsbD_twoPow]
  obtain lt | eq | gt := lt_trichotomy i a.ctz.toNat
  · simp [below lt, lt.ne']
  · subst eq
    have noneBelow : ¬∃ j < a.ctz.toNat, a.getLsbD j = true := fun ⟨j, hj, one⟩ => by simp [below hj] at one
    simp [least, noneBelow, hi]
  · have oneBelow : ∃ j < i, a.getLsbD j = true := ⟨_, gt, least⟩
    simp [oneBelow, hi, gt.ne]

theorem ctz_of_ne_zero {n : Nat} {a : BitVec n} (ha : a ≠ 0) : a.ctz.toNat < n ∧ ctz a = a.ctz.toNat := by
  have inside : a.ctz.toNat < n := BitVec.lt_of_getLsbD (BitVec.getLsbD_true_ctz_of_ne_zero ha)
  rw [ctz, if_neg ha, and_neg_eq_twoPow ha, BitVec.toNat_twoPow_of_lt inside, Nat.log2_two_pow]
  exact ⟨inside, rfl⟩

theorem ctz_spec {n : Nat} {a : BitVec n} (ha : a ≠ 0) :
    ctz a < n ∧ a.getLsbD (ctz a) = true ∧ ∀ i, i < ctz a → a.getLsbD i = false := by
  obtain ⟨inside, count⟩ := ctz_of_ne_zero ha
  rw [count]
  exact ⟨inside, BitVec.getLsbD_true_ctz_of_ne_zero ha, fun _ => BitVec.getLsbD_false_of_lt_ctz⟩

theorem foldl_succ_eq_add_length_filter {α : Type} (p : α → Bool) (xs : List α) (k : Nat) :
    xs.foldl (fun k x => if p x then k + 1 else k) k = k + (xs.filter p).length := by
  induction xs generalizing k with
  | nil => rfl
  | cons x xs ih =>
    rw [List.foldl_cons, ih]
    cases hx : p x
    · simp [hx]
    · simp only [if_true, List.filter_cons_of_pos hx, List.length_cons]
      omega

theorem popc_eq_length {n : Nat} (a : BitVec n) : popc a = ((List.range n).filter fun i => a.getLsbD i).length :=
  (foldl_succ_eq_add_length_filter _ _ _).trans (Nat.zero_add _)

/-! ## Reversal (R115) -/

/-- The reversal after `m` of its steps: the low `m` bits of the word, in reverse. -/
theorem getLsbD_brevSteps {n : Nat} (a : BitVec n) (m i : Nat) (hi : i < n) :
    ((List.range m).foldl (fun (x : BitVec n) i => (x <<< 1) ||| (BitVec.ofBool (a.getLsbD i)).setWidth n) 0).getLsbD i =
      (decide (i < m) && a.getLsbD (m - 1 - i)) := by
  induction m generalizing i with
  | zero => simp
  | succ m ih =>
    rw [List.range_succ, List.foldl_append, List.foldl_cons, List.foldl_nil, BitVec.getLsbD_or, BitVec.getLsbD_shiftLeft]
    cases i with
    | zero => simp [hi]
    | succ i =>
      rw [Nat.add_sub_cancel, ih i (by omega), show m + 1 - 1 - (i + 1) = m - 1 - i by omega]
      simp [hi]

theorem getLsbD_brev {n : Nat} (a : BitVec n) {i : Nat} (hi : i < n) : (brev a).getLsbD i = a.getLsbD (n - 1 - i) := by
  rw [brev, getLsbD_brevSteps a n i hi]
  simp [hi]

/-! ## Fields (R116) -/

theorem getLsbD_bfxn {n : Nat} (pos len : Nat) (a : BitVec n) {i : Nat} (hi : i < n) :
    (bfxn pos len a).getLsbD i = (decide (i < len) && decide (pos + i < n) && a.getLsbD (pos + i)) := by
  by_cases empty : fieldLen n pos len = 0
  · rw [bfxn, if_pos empty]
    rw [fieldLen] at empty
    simp only [BitVec.ofNat_eq_ofNat, BitVec.getLsbD_zero, ← Bool.decide_and]
    rw [decide_eq_false (by omega), Bool.false_and]
  · rw [bfxn, if_neg empty, BitVec.getLsbD_setWidth, BitVec.getLsbD_extractLsb', decide_eq_true hi, Bool.true_and, ← Bool.decide_and]
    congr 2
    rw [fieldLen, eq_iff_iff]
    omega

theorem getLsbD_bfi {n : Nat} (pos len : Nat) (a d : BitVec n) {i : Nat} (hi : i < n) :
    (bfi pos len d a).getLsbD i = if pos ≤ i ∧ i < pos + len then a.getLsbD (i - pos) else d.getLsbD i := by
  have mask : (BitVec.ofNat n (2 ^ fieldLen n pos len - 1) <<< pos).getLsbD i = decide (pos ≤ i ∧ i < pos + len) := by
    rw [BitVec.getLsbD_shiftLeft, BitVec.getLsbD_ofNat, Nat.testBit_two_pow_sub_one, Bool.eq_iff_iff]
    simp only [Bool.and_eq_true, Bool.not_eq_true', decide_eq_true_eq, decide_eq_false_iff_not]
    rw [fieldLen]
    omega
  by_cases empty : fieldLen n pos len = 0
  · rw [bfi, if_pos empty]
    rw [fieldLen] at empty
    rw [if_neg (by omega)]
  · rw [bfi, if_neg empty]
    simp only [BitVec.getLsbD_or, BitVec.getLsbD_and, BitVec.getLsbD_not, mask, BitVec.getLsbD_shiftLeft]
    by_cases field : pos ≤ i ∧ i < pos + len
    · simp [field, hi, field.1.not_gt]
    · simp [field, hi]

end Sys2Proof.Machine

namespace Sys2Proof
open Machine

/-- R115, R116: each form by the law of its own. -/
theorem bitCountLaws : Claims.BitCountLaws := by
  intro n a _
  exact ⟨fun ha => ha ▸ ⟨clz_zero n, ctz_zero n⟩, clz_spec, ctz_spec, popc_eq_length a, fun _ => getLsbD_brev a,
    fun pos len _ hi => ⟨getLsbD_bfxn pos len a hi, fun d => getLsbD_bfi pos len a d hi⟩⟩

end Sys2Proof
end

section
/-! Scalar integer words (R110 to R119): each is a case of a shared form, with the value of its rule. -/
namespace Sys2Proof.Machine
open Sys2Proof Sys2Proof.Claims

/-! ## Forms with a general or a predicate destination -/

theorem writesG_of_gForm {i : Hdr → Instr} {srcs : List GReg} {d : GReg} {lat : Nat} {val v : Core → Word}
    (meaning : ∀ h s, exec (i h) s = gForm h d srcs lat val s) (value : ∀ c, val c = v c) : WritesG i srcs d lat v :=
  completes_of_scalarForm meaning fun s _ => by rw [value]

/-- R110: an operation of one source at the form's width is that of its low word or of the whole, and so for two sources. -/
theorem wide1_eq (w : Bool) (f : {n : Nat} → BitVec n → BitVec n) (a : Word) : wide1 w f a = byWidth w (f (lo a)) (f a) := rfl
theorem wide2_eq (w : Bool) (f : {n : Nat} → BitVec n → BitVec n → BitVec n) (a b : Word) :
    wide2 w f a b = byWidth w (f (lo a) (lo b)) (f a b) := rfl

/-- R104, R114: a form of the divider that raises no flag takes it for its latency, and its result is interlocked. -/
theorem divides_of_divForm {i : Hdr → Instr} {d : GReg} {srcs : List GReg} {lat : Core → Nat} {val v : Core → Word}
    (meaning : ∀ h s, exec (i h) s = divForm h d srcs lat (fun c => (c, val c)) s) (value : ∀ c, val c = v c) :
    Completes i 0 0 0 { srcs := srcs.map opG, dsts := [opG d], unit := .div } always (onCore fun c =>
      (c.lockedResult c.tmg.clk (lat c) (.g d (v c))).setTmg fun m => { m with divBusy := c.tmg.clk + lat c }) :=
  completes_of_issueCore meaning fun s _ => by
    rw [← value]

/-- R112: a shift is by its count at the width of the form. -/
theorem writesG_of_shift {i : Hdr → Instr} {d a : GReg} {w : Bool} {src : ShSrc} (f : {n : Nat} → BitVec n → Nat → BitVec n)
    (meaning : ∀ h s, exec (i h) s =
      gForm h d (shiftSrcs a src) 1 (fun c => wide1 w (fun x => f x (shiftAmount w src c)) (c.rdG a)) s) :
    WritesG i (shiftSrcs a src) d 1 fun c =>
      byWidth w (f (lo (c.rdG a)) (shiftAmount w src c)) (f (c.rdG a) (shiftAmount w src c)) :=
  writesG_of_gForm meaning fun c => wide1_eq w (fun x => f x (shiftAmount w src c)) _

end Sys2Proof.Machine

namespace Sys2Proof
open Machine Claims

/-- Settles O1: each word is a form with a general destination, and its operation at the form's width is the one that is stated. -/
theorem scalarArithmetic : Obligations.ScalarArithmetic := by
  intro d a b w imm
  refine ⟨?add, ?sub, ?neg, ?and, ?or, ?xor, ?andn, ?orn, ?addi, ?andi, ?ori, ?xori⟩
  case add => exact writesG_of_gForm (fun h s => exec_add h d a b w s) fun c => wide2_eq w (· + ·) _ _
  case sub => exact writesG_of_gForm (fun h s => exec_sub h d a b w s) fun c => wide2_eq w (· - ·) _ _
  case neg => exact writesG_of_gForm (fun h s => exec_neg h d a w s) fun c => wide1_eq w (0 - ·) _
  case and => exact writesG_of_gForm (fun h s => exec_andR h d a b s) fun _ => rfl
  case or => exact writesG_of_gForm (fun h s => exec_orR h d a b s) fun _ => rfl
  case xor => exact writesG_of_gForm (fun h s => exec_xorR h d a b s) fun _ => rfl
  case andn => exact writesG_of_gForm (fun h s => exec_andn h d a b s) fun _ => rfl
  case orn => exact writesG_of_gForm (fun h s => exec_orn h d a b s) fun _ => rfl
  case addi => exact writesG_of_gForm (fun h s => exec_addi h d a w imm s) fun c => wide2_eq w (· + ·) _ _
  case andi => exact writesG_of_gForm (fun h s => exec_andi h d a imm s) fun _ => rfl
  case ori => exact writesG_of_gForm (fun h s => exec_ori h d a imm s) fun _ => rfl
  case xori => exact writesG_of_gForm (fun h s => exec_xori h d a imm s) fun _ => rfl

/-- R104, R113, R114: the products are forms with a general destination, the quotients forms of the divider. -/
theorem scalarProductsAndQuotients : Claims.ScalarProductsAndQuotients := by
  intro d a b w
  dsimp only
  refine ⟨?mul, ?mulh, ?mulhn, ?div, ?rem, ?divn, ?remn⟩
  case mul => exact writesG_of_gForm (fun h s => exec_mul h d a b w s) fun c => wide2_eq w (· * ·) _ _
  case mulh => exact writesG_of_gForm (fun h s => exec_mulh h d a b w s) fun c => wide2_eq w mulHigh _ _
  case mulhn => exact writesG_of_gForm (fun h s => exec_mulhn h d a b w s) fun c => wide2_eq w mulHighN _ _
  case div => exact divides_of_divForm (srcs := [a, b]) (fun h s => exec_div h d a b w s) fun c => wide2_eq w (fun x y => (idivS x y).1) _ _
  case rem => exact divides_of_divForm (srcs := [a, b]) (fun h s => exec_rem h d a b w s) fun c => wide2_eq w (fun x y => (idivS x y).2) _ _
  case divn => exact divides_of_divForm (srcs := [a, b]) (fun h s => exec_divn h d a b w s) fun c => wide2_eq w (fun x y => (idivN x y).1) _ _
  case remn => exact divides_of_divForm (srcs := [a, b]) (fun h s => exec_remn h d a b w s) fun c => wide2_eq w (fun x y => (idivN x y).2) _ _

/-- Settles O35: the words by their forms, the laws by arithmetic on integers at every width. -/
theorem productsAndQuotients : Obligations.ProductsAndQuotients := ⟨scalarProductsAndQuotients, productAndQuotientLaws⟩

/-- R112, R115 to R119: each word is a case of a form, and its operation the one that is stated. -/
theorem scalarBitsAndMoves : Claims.ScalarBitsAndMoves := by
  intro d a b w src pos len q p neg sc imm amount sources
  have amountEq : amount = shiftAmount w src := by
    funext c
    cases src <;> cases w <;> rfl
  have sourcesEq : sources = shiftSrcs a src := by cases src <;> rfl
  clear_value amount sources
  subst amountEq sourcesEq
  refine ⟨?shl, ?shr, ?shra, ?rol, ?ror, ?clz, ?ctz, ?popc, ?brev, ?bswap, ?bfx, ?bfxn, ?bfi, ?min, ?minn, ?max, ?maxn, ?sel, ?mov,
    ?movi, ?movhi, ?toG, ?toP, ?lea⟩
  case shl => exact writesG_of_shift (fun x k => x <<< k) fun h s => exec_shl h d a w src s
  case shr => exact writesG_of_shift (fun x k => x >>> k) fun h s => exec_shr h d a w src s
  case shra => exact writesG_of_shift BitVec.sshiftRight fun h s => exec_shra h d a w src s
  case rol => exact writesG_of_shift BitVec.rotateLeft fun h s => exec_rol h d a w src s
  case ror => exact writesG_of_shift BitVec.rotateRight fun h s => exec_ror h d a w src s
  case clz => exact writesG_of_gForm (fun h s => exec_clz h d a w s) fun c => wide1_eq w (fun x => BitVec.ofNat _ (clz x)) _
  case ctz => exact writesG_of_gForm (fun h s => exec_ctz h d a w s) fun c => wide1_eq w (fun x => BitVec.ofNat _ (ctz x)) _
  case popc => exact writesG_of_gForm (fun h s => exec_popc h d a w s) fun c => wide1_eq w (fun x => BitVec.ofNat _ (popc x)) _
  case brev => exact writesG_of_gForm (fun h s => exec_brev h d a w s) fun c => wide1_eq w brev _
  case bswap => exact writesG_of_gForm (fun h s => exec_bswap h d a w s) fun c => wide1_eq w bswap _
  case bfx => exact writesG_of_gForm (fun h s => exec_bfx h d a w pos len s) fun c => wide1_eq w (bfx _ _) _
  case bfxn => exact writesG_of_gForm (fun h s => exec_bfxn h d a w pos len s) fun c => wide1_eq w (bfxn _ _) _
  case bfi => exact writesG_of_gForm (fun h s => exec_bfi h d a w pos len s) fun c => wide2_eq w (bfi _ _) _ _
  case min => exact writesG_of_gForm (fun h s => exec_min h d a b w s) fun c => wide2_eq w (fun x y => if y.slt x then y else x) _ _
  case minn =>
    refine writesG_of_gForm (fun h s => exec_minn h d a b w s) fun c => ?_
    rw [wide2_eq]
    simp only [BitVec.ult_iff_lt]
  case max => exact writesG_of_gForm (fun h s => exec_max h d a b w s) fun c => wide2_eq w (fun x y => if x.slt y then y else x) _ _
  case maxn =>
    refine writesG_of_gForm (fun h s => exec_maxn h d a b w s) fun c => ?_
    rw [wide2_eq]
    simp only [BitVec.ult_iff_lt]
  case sel => exact completes_of_scalarForm (fun h s => exec_sel h d a b p neg s) fun _ _ => rfl
  case mov => exact writesG_of_gForm (fun h s => exec_mov h d a s) fun _ => rfl
  case movi => exact writesG_of_gForm (fun h s => exec_movi h d imm s) fun _ => rfl
  case movhi => exact writesG_of_gForm (fun h s => exec_movhi h d imm s) fun _ => rfl
  case toG => exact completes_of_scalarForm (fun h s => exec_movp h (.toG d p) s) fun _ _ => rfl
  case toP =>
    refine completes_of_scalarForm (fun h s => exec_movp h (.toP q a) s) fun s _ => ?_
    exact congrArg (Wr.p q) (Bool.eq_iff_iff.mpr (by simp))
  case lea => exact writesG_of_gForm (fun h s => exec_lea h d a b sc imm s) fun _ => rfl

/-- Settles O36: the words by their forms, the laws of the bit forms bit by bit at every width. -/
theorem bitsAndMoves : Obligations.BitsAndMoves := ⟨scalarBitsAndMoves, bitCountLaws⟩

end Sys2Proof
end

section
/-! What a read of global memory leaves of the gangs and of the cores (R145, R199). -/
namespace Sys2Proof.Machine
open Sys2Proof Sys2Proof.Claims

/-! ## Of the gangs -/

/-- From `s` to `t` the gangs of every cluster stay. -/
def KeepsGangs (s t : State) : Prop := ∀ cl, (t.cluster cl).gangs = (s.cluster cl).gangs

theorem KeepsGangs.of_clusters {s t : State} (h : t.clusters = s.clusters) : KeepsGangs s t := fun cl => by
  rw [State.cluster, h, State.cluster]
theorem KeepsGangs.trans {s t u : State} (a : KeepsGangs s t) (b : KeepsGangs t u) : KeepsGangs s u :=
  fun cl => (b cl).trans (a cl)
theorem KeepsGangs.owe {s t : State} (h : KeepsGangs s t) (i : Instr) : KeepsGangs s (t.owe i) := h
theorem KeepsGangs.gangOf {s t : State} (h : KeepsGangs s t) (n : Nat) : t.gangOf n = s.gangOf n := by
  rw [State.gangOf, h, State.gangOf]

theorem State.setCluster_keepsGangs {s : State} {n : Nat} {c : Cluster} (h : c.gangs = (s.cluster n).gangs) :
    KeepsGangs s (s.setCluster n c) := fun cl => by
  by_cases hc : cl = n
  · rw [hc, State.cluster_setCluster, h]
  · rw [State.cluster_setCluster_ne _ _ _ _ hc]

theorem State.setPhysByte_clusters (s : State) (pa : Nat) (b : Byte) : (s.setPhysByte pa b).clusters = s.clusters := by
  unfold State.setPhysByte
  split_ifs <;> rfl
theorem State.setPhysBytes_clusters : ∀ (bs : List Byte) (s : State) (pa : Nat), (s.setPhysBytes pa bs).clusters = s.clusters
  | [], _, _ => rfl
  | _ :: bs, _, _ => (State.setPhysBytes_clusters bs _ _).trans (State.setPhysByte_clusters _ _ _)
theorem State.fetchFabric_clusters (s : State) (line : Nat) : (s.fetchFabric line).clusters = s.clusters :=
  State.setPhysBytes_clusters _ _ _
theorem State.permit_clusters (s : State) (pa : Nat) (write : Bool) : (s.permit pa write).clusters = s.clusters := by
  have home : (if s.ports.perms.any (·.1 == pa / 128) then s else s.fetchFabric (pa / 128)).clusters = s.clusters := by
    split
    · rfl
    · exact s.fetchFabric_clusters _
  rw [State.permit]
  split
  · exact home
  · split <;> rfl
theorem State.gain_clusters (s : State) (pa : Nat) (p : Policy) (write : Bool) : (s.gain pa p write).clusters = s.clusters := by
  unfold State.gain
  split_ifs
  · exact s.fetchFabric_clusters _
  · exact s.permit_clusters _ _

theorem State.setCopy_keepsGangs (s : State) (cl : Nat) (x : Copy) : KeepsGangs s (s.setCopy cl x) := by
  unfold State.setCopy
  dsimp only
  split
  · exact KeepsGangs.owe (State.setCluster_keepsGangs (by exact rfl)) _
  · exact State.setCluster_keepsGangs rfl
theorem State.fillSwm_keepsGangs (s : State) (n line : Nat) : KeepsGangs s (s.fillSwm n line).1 := by
  unfold State.fillSwm
  dsimp only
  split
  · exact .of_clusters rfl
  · exact KeepsGangs.trans (t := s.coreRead n (.line line)) (.of_clusters rfl) (State.setCopy_keepsGangs _ _ _)
theorem State.leasedRead_keepsGangs (s : State) (n pa len : Nat) : KeepsGangs s (s.leasedRead n pa len).1 := by
  unfold State.leasedRead
  dsimp only
  split
  · exact .of_clusters rfl
  · exact KeepsGangs.trans (.of_clusters rfl) (State.setCopy_keepsGangs _ _ _)
theorem State.readGlobal_keepsGangs (s : State) (n pa len : Nat) (p : Policy) : KeepsGangs s (s.readGlobal n pa len p).1 := by
  have gained : KeepsGangs s (s.gain pa p false) := .of_clusters (s.gain_clusters pa p false)
  unfold State.readGlobal
  dsimp only
  split
  · exact gained.trans (State.leasedRead_keepsGangs _ _ _ _)
  · exact gained.trans (State.fillSwm_keepsGangs _ _ _)
  · exact gained.trans (.of_clusters rfl)

/-! ## Of the cores -/

theorem State.leasedRead_upkeep (s : State) (n pa len : Nat) : Upkeep s (s.leasedRead n pa len).1 := by
  unfold State.leasedRead
  dsimp only
  split
  · exact .setCore rfl
  · exact ((State.setHome_upkeep ..).trans (.setCore rfl)).trans (State.setCopy_upkeep ..)

/-- A read of memory is upkeep for the cores, whichever page policy performs it. -/
theorem State.readGlobal_upkeep (s : State) (n pa len : Nat) (p : Policy) : Upkeep s (s.readGlobal n pa len p).1 := by
  have gained := s.gain_upkeep pa p false
  unfold State.readGlobal
  dsimp only
  split
  · exact gained.trans (State.leasedRead_upkeep ..)
  · exact gained.trans (State.fillSwm_upkeep ..)
  · exact gained.trans (State.coreRead_upkeep ..)

theorem Upkeep.wait {s t : State} (h : Upkeep s t) (c : Nat) : (t.core c).wait = (s.core c).wait := by rw [h.core c]
theorem Upkeep.tmg {s t : State} (h : Upkeep s t) (c : Nat) : (t.core c).tmg = (s.core c).tmg := by rw [h.core c]

end Sys2Proof.Machine
end

section
/-! The events of a core's units and of memory (R104, R190, R195, R204, R216, R230, R232, R260, R376). -/
namespace Sys2Proof.Machine
open Sys2Proof Sys2Proof.Claims

/-! ## A waiting access that is performed (R216) -/

/-- A result of variable latency is no end of a wait, and no word. -/
theorem Core.slipResult_wait_words (c : Core) (w : Wr) :
    (c.slipResult w).wait = c.wait ∧ (c.slipResult w).tmg.words = c.tmg.words := by
  have kept := c.besides_wr w
  have wait : (c.wr w).besides.wait = c.besides.wait := by rw [kept]
  have words : (c.wr w).besides.tmg.words = c.besides.tmg.words := by rw [kept]
  exact ⟨wait, words⟩

/-- A load whose checks and translation pass reads its bytes and writes its result at a variable latency (R211). -/
theorem gldEff_reaches {i : Instr} {d a : GReg} {sz : BitVec 2} {ext : Bool} {imm : BitVec 32} {s : State} {pa : Nat}
    {leaf : BitVec 64} (reaches : Reaches s (s.cc.rdG a + sx imm) (1 <<< sz.toNat) .read pa leaf)
    (sound : s.readBad s.cur pa (1 <<< sz.toNat) (leafPolicy leaf) = false) :
    gldEff i d a sz ext imm s =
      let r := s.readGlobal s.cur pa (1 <<< sz.toNat) (leafPolicy leaf)
      .done (r.1.setCc (r.1.cc.slipResult (.g d (extendLoad sz ext r.2)))) := by
  obtain ⟨free, reached⟩ := reaches
  simp only [gldEff, Core.addr_eq, sizeOf_eq, free, reached, sound, Bool.false_eq_true, if_false]

/-- A core whose waiting access goes on at clk `t`. -/
def Core.resumed (c : Core) (t : Nat) : Core := { c with wait := .none, tmg := { c.tmg with clk := t, issued := t } }
/-- The state in which the waiting access of core `n` is performed, at the clk that the device has reached. -/
def State.resuming (s : State) (n : Nat) : State :=
  { s.setCore n ((s.core n).resumed (max (s.core n).tmg.clk s.clk)) with cur := n }

theorem State.core_resuming (s : State) (n : Nat) : (s.resuming n).core n = (s.core n).resumed (max (s.core n).tmg.clk s.clk) :=
  State.core_setCore s n _
theorem State.cc_resuming (s : State) (n : Nat) : (s.resuming n).cc = (s.core n).resumed (max (s.core n).tmg.clk s.clk) :=
  s.core_resuming n

theorem Core.complete_words (c : Core) (t stall : Nat) : (c.complete t stall).tmg.words = c.tmg.words + 1 := rfl

theorem slotsFrom_of_no_followers {s : State} {n : Nat} (t : Nat) (h : s.followers n = []) : s.slotsFrom n t = s := by
  rw [State.slotsFrom, h, List.foldl_nil]
theorem fanOut_of_no_followers {run : Instr → State → Host.Outcome State Fault Refusal} {i : Instr} {n : Nat} {before : Core}
    {s : State} (h : s.followers n = []) : fanOut run i n before s = .next { s with cur := n } := by
  simp [fanOut, h]

/-- A core that no longer has an access to perform. -/
def Core.accessDone (c : Core) : Core := { c with access := none, moved := 0 }
/-- Where core `n` waits no more, its access is done. -/
def State.endAccess (s : State) (n : Nat) : State := if (s.core n).wait == .none then s.setCore n (s.core n).accessDone else s
/-- What follows the answer `s` to the access of core `n`, which was `c` before it: where the core has completed its word, the members of
its gang follow; `back` is the current core of the device. -/
def State.afterAccess (s : State) (n back T : Nat) (c : Core) : Host.Outcome State Fault Refusal :=
  if ((s.endAccess n).core n).tmg.words = c.tmg.words then .next { s.endAccess n with cur := back }
  else match fanOut runAccess (c.access.getD (.globalAccessComplete n)) n c ((s.endAccess n).slotsFrom n T) with
    | .next s'' => .next { s'' with cur := back }
    | o => o

/-- A core without a gang that has completed its word is done. -/
theorem State.afterAccess_alone {s : State} {n back T : Nat} {c k : Core} (ended : k.wait = .none)
    (completed : k.tmg.words ≠ c.tmg.words) (alone : s.gangOf n = none) :
    (s.setCore n k).afterAccess n back T c = .next { s.setCore n k.accessDone with cur := back } := by
  have free : (s.setCore n k.accessDone).followers n = [] := by
    have : (s.setCore n k.accessDone).gangOf n = none := alone
    rw [State.followers, this]
  have done : (s.setCore n k).endAccess n = s.setCore n k.accessDone := by
    rw [State.endAccess, State.core_setCore, State.setCore_setCore, ended]
    rfl
  have one : ((s.setCore n k.accessDone).core n).tmg.words ≠ c.tmg.words := by rwa [State.core_setCore]
  rw [State.afterAccess, done, if_neg one, slotsFrom_of_no_followers _ free, fanOut_of_no_followers free]

/-- A waiting access is performed by its effect, and then follows what its answer calls for. -/
theorem State.completeAccess_eq {s : State} {n va : Nat} {h : Hdr} {eff : State → Eff}
    (waits : (s.core n).wait = .walk va ∨ (s.core n).wait = .parked va) (access : (s.core n).access.bind accessEff = some (h, eff)) :
    s.completeAccess n = match finish h (max (s.core n).tmg.clk s.clk) (eff (s.resuming n)) with
      | .next t => t.afterAccess n s.cur (max (s.core n).tmg.clk s.clk) (s.core n)
      | o => o := by
  obtain w | w := waits <;> simp only [State.completeAccess, w, access] <;> rfl

/-- Where the effect of a waiting access is done, its word completes at that clk; a core without a gang completes it alone. -/
theorem State.completeAccess_done {s t : State} {n va : Nat} {h : Hdr} {eff : State → Eff}
    (waits : (s.core n).wait = .walk va ∨ (s.core n).wait = .parked va) (access : (s.core n).access.bind accessEff = some (h, eff))
    (done : eff (s.resuming n) = .done t) (cur : t.cur = n) (ended : (t.core n).wait = .none)
    (words : (t.core n).tmg.words = (s.core n).tmg.words) (alone : t.gangOf n = none) :
    s.completeAccess n = .next { t.setCore n ((t.core n).complete (max (s.core n).tmg.clk s.clk) h.stall.toNat).accessDone with
      cur := s.cur } := by
  rw [State.completeAccess_eq waits access, done, finish_done, State.setCc, State.cc, cur]
  refine State.afterAccess_alone ended ?_ alone
  rw [Core.complete_words, words]
  exact Nat.succ_ne_self _

/-- A load that waited reads its bytes, writes its result and completes: the read leaves the gangs, and of the core all but its logical
time and a stop for an error. -/
theorem State.completeAccess_gld {s : State} {n va : Nat} {h : Hdr} {d a : GReg} {sz : BitVec 2} {ext : Bool} {imm : BitVec 32}
    {pa : Nat} {leaf : BitVec 64} (waits : (s.core n).wait = .walk va ∨ (s.core n).wait = .parked va)
    (access : (s.core n).access = some (.gld h d a sz ext imm)) (alone : s.gangOf n = none)
    (reaches : Reaches (s.resuming n) ((s.core n).rdG a + sx imm) (1 <<< sz.toNat) .read pa leaf)
    (sound : (s.resuming n).readBad n pa (1 <<< sz.toNat) (leafPolicy leaf) = false) :
    let r := (s.resuming n).readGlobal n pa (1 <<< sz.toNat) (leafPolicy leaf)
    s.completeAccess n = .next { r.1.setCore n (((r.1.core n).slipResult (.g d (extendLoad sz ext r.2))).complete
      (max (s.core n).tmg.clk s.clk) h.stall.toNat).accessDone with cur := s.cur } := by
  intro r
  have kept : Upkeep (s.resuming n) r.1 := State.readGlobal_upkeep ..
  have gangs : KeepsGangs (s.resuming n) r.1 := State.readGlobal_keepsGangs _ _ _ _ _
  have cur : r.1.cur = n := kept.cur
  have done : gldEff (.gld h d a sz ext imm) d a sz ext imm (s.resuming n) =
      .done (r.1.setCore n ((r.1.core n).slipResult (.g d (extendLoad sz ext r.2)))) := by
    rw [gldEff_reaches (by rw [State.cc_resuming]; exact reaches) sound]
    change Eff.done (r.1.setCore r.1.cur ((r.1.core r.1.cur).slipResult
      (.g d (extendLoad sz ext r.2)))) = _
    rw [cur]
  clear_value r
  have result := (r.1.core n).slipResult_wait_words (.g d (extendLoad sz ext r.2))
  generalize (r.1.core n).slipResult (.g d (extendLoad sz ext r.2)) = k at done result ⊢
  obtain ⟨wait, words⟩ := result
  have went := s.core_resuming n
  have completes := State.completeAccess_done waits (by rw [access]; rfl) done cur
    (by rw [State.core_setCore, wait, kept.wait, went]; rfl) (by rw [State.core_setCore, words, kept.tmg, went]; rfl)
    ((gangs.gangOf n).trans alone)
  rwa [State.core_setCore, State.setCore_setCore] at completes

theorem State.completeAccess_of_no_wait {s : State} {n : Nat} (h : (s.core n).wait = .none) : s.completeAccess n = .next s := by
  simp only [State.completeAccess, h]

/-! ## Barriers, walks and evictions (R190, R204, R232) -/

@[simp] theorem State.barrier_onBarrier (s : State) (cl b : Nat) (f : Barrier → Barrier) :
    ((s.onBarrier cl b f).cluster cl).barrier b = f ((s.cluster cl).barrier b) := by
  simp [State.onBarrier, Cluster.barrier, Tab.get_set_self]

/-- A configuration that meets no arrival is written and completes nothing (R232). -/
theorem State.bcfgStore_of_no_arrivals {s : State} {cl b : Nat} (T : Nat) (x : BitVec 64)
    (arr : ((s.cluster cl).barrier b).arr = 0) (carr : ((s.cluster cl).barrier b).carr = 0) :
    s.bcfgStore cl b T x = s.onBarrier cl b fun y =>
      { y with en := x.getLsbD 63, ss := x.getLsbD 62, pbar := x.extractLsb' 57 5, chn := x.getLsbD 56,
               plcn := x.extractLsb' 32 18, nch := x.extractLsb' 24 5, mask := x.extractLsb' 0 24, done := y.done && y.sent } := by
  simp [State.bcfgStore, arr, carr]

theorem State.mem_walkers {s : State} {die granule n va : Nat} {vsid : BitVec 8} :
    (n, va) ∈ s.walkers die vsid granule ↔
      dieOf n = die ∧ va / 65536 = granule ∧ ∃ k, (n, k) ∈ s.cores ∧ k.vsid = vsid ∧ k.wait = .walk va := by
  unfold State.walkers
  rw [List.mem_filterMap]
  constructor
  · rintro ⟨⟨m, k⟩, listed, waits⟩
    dsimp only at waits
    split at waits
    · rename_i va' walks
      obtain ⟨⟨⟨die, vsid⟩, granule⟩, rfl, rfl⟩ := by simpa using waits
      exact ⟨die, granule, k, listed, vsid, walks⟩
    · cases waits
  · rintro ⟨rfl, rfl, k, listed, rfl, walks⟩
    exact ⟨(n, k), listed, by simp [walks]⟩

theorem State.walkFor_page {s : State} {n va level : Nat} {leaf : BitVec 64} (h : s.walk (s.core n).root va = .page level leaf) :
    s.walkFor n va = (s.fillTlb n
      { vsid := (s.core n).vsid, level := level, vpn := va / 2 ^ levelShift level, leaf := leaf }).owe (.globalAccessComplete n) := by
  simp only [State.walkFor, h]
theorem State.walkFor_fault {s : State} {n va level : Nat} {malformed : Bool} (h : s.walk (s.core n).root va = .fault malformed level) :
    s.walkFor n va = if (s.core n).regs.trap.sup then s.faultOnFault n va
      else s.parkCore n va (if malformed then 1 else 0) level := by
  simp only [State.walkFor, h]

theorem execL1dEviction_of_none {s : State} {cl line : Nat} {swm : Bool} (h : (s.cluster cl).copy line swm = none) :
    execL1dEviction cl line swm s = .next s := by
  simp only [execL1dEviction, h]
theorem execL1dEviction_of_some {s : State} {cl line : Nat} {swm : Bool} {x : Copy} (h : (s.cluster cl).copy line swm = some x) :
    execL1dEviction cl line swm s =
      .next (if swm && x.dirty != 0 then ((s.dropCopy cl line swm).mergeCopy x (s.floor + 1)).1 else s.dropCopy cl line swm) := by
  simp only [execL1dEviction, h]
  rfl

/-! ## Chunks that arrive (R260, R261, R264) -/

/-- A port behind the chunks that it has fetched. -/
def StreamPort.behindChunks (p : StreamPort) : StreamPort :=
  (List.range p.chunks.length).foldl (fun (q : StreamPort) _ => { q with pos := q.pos + q.rest }) p

theorem execStreamChunkArrive_of_none {s : State} {core : Nat} {port : Fin 4} (h : (s.core core).regs.strm[port] = none) :
    execStreamChunkArrive core port s = .next s := by
  simp only [execStreamChunkArrive, h]

/-- A write stream, one with four chunks, and a core that has halted fetch nothing. -/
theorem execStreamChunkArrive_idle {s : State} {core : Nat} {port : Fin 4} {p : StreamPort}
    (h : (s.core core).regs.strm[port] = some p)
    (idle : p.desc.write = true ∨ 4 ≤ p.chunks.length ∨ (s.core core).mode ≠ .running ∨ (s.core core).wait = .halted) :
    execStreamChunkArrive core port s = .next s := by
  simp only [execStreamChunkArrive, h]
  rw [if_pos]
  simp only [Bool.or_eq_true, decide_eq_true_eq, bne_iff_ne, beq_iff_eq]
  tauto

/-- The next chunk that no command holds and whose elements can all be read joins the port's chunks. -/
theorem execStreamChunkArrive_fetches {s s1 : State} {core : Nat} {port : Fin 4} {p : StreamPort} {xs : List Nat}
    (h : (s.core core).regs.strm[port] = some p) (reads : p.desc.write = false) (room : p.chunks.length < 4)
    (running : (s.core core).mode = .running) (awake : (s.core core).wait ≠ .halted) (more : p.behindChunks.rest ≠ 0)
    (free : ({ s with cur := core } : State).accessHolders (p.behindChunks.accesses fun _ => true) = [])
    (fetched : readChunk p.desc p.behindChunks.pos p.behindChunks.rest { s with cur := core } = .ok (s1, xs, none)) :
    execStreamChunkArrive core port s = .next { s1.setCore core ((s1.core core).setPort port
      (some { p with chunks := p.chunks ++ [(ofElems p.desc.width xs, true)], fetched := p.fetched + 1 })) with cur := s.cur } := by
  simp only [StreamPort.behindChunks] at more free fetched
  simp [execStreamChunkArrive, h, reads, room, running, awake, more, free, fetched]

end Sys2Proof.Machine

namespace Sys2Proof
open Machine Claims

/-- Settles O24: each event by its own lemma. A load that completes is an effect that is done, and the read that it performs leaves
the gangs, and of the cores all but logical times and stops for an error. -/
theorem unitEvents : Obligations.UnitEvents := by
  intro s core die cl line n va level done e b x vsid granule swm y port p h d a sz ext imm pa leaf s1 xs
  dsimp only
  refine ⟨?divides, ?divided, ?evc, ?bcfg, ?noWait, ?load, ?walk, ?walkers, ?page, ?parks, ?faults, ?noCopy, ?silent, ?merged, ?idle, ?chunk,
    ?pulse, ?edge, ?term⟩
  case divides => exact fun runs => if_pos runs
  case divided => exact fun idle => if_neg (by simp [idle])
  case evc => rfl
  case bcfg =>
    refine ⟨_, rfl, fun arr carr => ?_⟩
    rw [State.bcfgStore_of_no_arrivals _ _ arr carr, State.barrier_onBarrier]
    exact ⟨rfl, rfl, rfl, rfl, rfl, rfl, rfl, rfl⟩
  case noWait => exact State.completeAccess_of_no_wait
  case load =>
    intro w hw waits access alone reaches sound
    exact State.completeAccess_gld (va := va) (hw.imp waits.trans waits.trans) access alone reaches sound
  case walk => rfl
  case walkers => exact State.mem_walkers
  case page => exact State.walkFor_page
  case parks => exact fun fault user => (State.walkFor_fault fault).trans (if_neg (by simp [user]))
  case faults => exact fun fault sup => (State.walkFor_fault fault).trans (if_pos sup)
  case noCopy => exact execL1dEviction_of_none
  case silent =>
    intro copy clean
    refine (execL1dEviction_of_some copy).trans ?_
    rw [if_neg]
    simpa [imp_iff_not_or] using clean
  case merged =>
    intro copy dirty
    refine (execL1dEviction_of_some copy).trans ?_
    rw [if_pos (by simpa using dirty)]
  case idle =>
    intro idle
    cases bound : (s.core core).regs.strm[port] with
    | none => exact execStreamChunkArrive_of_none bound
    | some q =>
      refine execStreamChunkArrive_idle bound ?_
      rw [bound] at idle
      obtain absent | stopped | halted | ⟨q', same, done⟩ := idle
      · cases absent
      · exact .inr (.inr (.inl stopped))
      · exact .inr (.inr (.inr halted))
      · cases same
        exact done.imp_right .inl
  case chunk => exact execStreamChunkArrive_fetches
  case pulse => rfl
  case edge => exact fun _ _ => rfl
  case term => exact fun idle => if_pos (by simp [idle])

end Sys2Proof
end

section
/-! How a word that issues ends, by its effect in the state of its issue (R24, R27). -/
namespace Sys2Proof.Machine
open Sys2Proof Sys2Proof.Claims

@[simp] theorem cc_issued (h : Hdr) (d sa sb : BitVec 7) (u : Uses) (s : State) : (issued h d sa sb u s).cc = s.cc.atIssue h d sa sb u :=
  State.cc_setCc _ _
@[simp] theorem cur_issued (h : Hdr) (d sa sb : BitVec 7) (u : Uses) (s : State) : (issued h d sa sb u s).cur = s.cur := rfl

section
variable {h : Hdr} {d sa sb : BitVec 7} {u : Uses} {eff : State → Eff} {s t : State}

theorem issueWord_of_issues (issues : Issues h u s) :
    issueWord h d sa sb u eff s = finish h (issued h d sa sb u s).cc.tmg.clk
      ((eff (issued h d sa sb u s)).unaged (s.cc.settle (s.cc.atIssue h d sa sb u).tmg.clk).tmg.obuf) := by
  obtain ⟨inside, guard, awaits⟩ := issues
  rw [issueWord_issues inside guard awaits, cc_issued]
  rfl

theorem issueWord_done (issues : Issues h u s) (done : eff (issued h d sa sb u s) = .done t) :
    issueWord h d sa sb u eff s = .next (ends h (issued h d sa sb u s).cc.tmg.clk t) := by
  rw [issueWord_of_issues issues, done]
  rfl

theorem issueWord_traps {r : State} {k : Cause} {x : Word} {m : BitVec 3} (issues : Issues h u s)
    (traps : eff (issued h d sa sb u s) = .trap r k x m) : issueWord h d sa sb u eff s = .next (r.takeTrap r.cur k x m) := by
  rw [issueWord_of_issues issues, traps]
  rfl

theorem issueWord_jumps {a : Word} {lx : Bool} (issues : Issues h u s) (jumps : eff (issued h d sa sb u s) = .jump t a lx) :
    issueWord h d sa sb u eff s = .next (t.setCc (t.cc.transfer (issued h d sa sb u s).cc.tmg.clk h.stall.toNat a lx)) := by
  rw [issueWord_of_issues issues, jumps]
  rfl

theorem issueWord_sleeps (issues : Issues h u s) (sleeps : eff (issued h d sa sb u s) = .sleep t) :
    issueWord h d sa sb u eff s = finish h (issued h d sa sb u s).cc.tmg.clk (.sleep t) := by
  rw [issueWord_of_issues issues, sleeps]
  rfl

end

/-- A word that issues has not waited inside its effect. -/
theorem Core.inside_atIssue (c : Core) (h : Hdr) (d sa sb : BitVec 7) (u : Uses) : (c.atIssue h d sa sb u).tmg.inside = c.tmg.inside :=
  congrArg (·.tmg.inside) (c.besides_settle (c.issueClk h u))

/-- A core sleeps in its wait as the word left it, where no yield request is pending. -/
theorem finish_sleep {h : Hdr} {t : Nat} {s : State} (inside : s.cc.tmg.inside = none) (stays : s.cc.yieldReq = false) :
    finish h t (.sleep s) = .next (s.setCc { s.cc with waitStall := h.stall.toNat }) := by
  have same : { s.cc.tmg with inside := none } = s.cc.tmg := by rw [← inside]
  simp [finish, Core.setTmg, stays, same]

end Sys2Proof.Machine
end

section
/-! Comparisons, predicate logic and the timing modes (R120, R139 to R142). -/
namespace Sys2Proof.Machine
open Sys2Proof Sys2Proof.Claims

/-! ## Forms with a predicate destination -/

theorem writesP_of_pForm {i : Hdr → Instr} {srcs : List (BitVec 7)} {d : PReg} {lat : Nat} {val v : Core → Bool}
    (meaning : ∀ h s, exec (i h) s = pForm h d srcs lat val s) (value : ∀ c, val c = v c) : WritesP i srcs d lat v :=
  completes_of_scalarForm meaning fun s _ => by rw [value]

/-! ## Conditions (R120) -/

section
variable {n : Nat} (a b : BitVec n)

theorem cmpCond_eq : cmpCond 0 a b = decide (a = b) := rfl
theorem cmpCond_ne : cmpCond 1 a b = decide (a ≠ b) := (decide_not).symm
theorem cmpCond_lt : cmpCond 2 a b = decide (a.toInt < b.toInt) := rfl
theorem cmpCond_ge : cmpCond 3 a b = decide (b.toInt ≤ a.toInt) :=
  (decide_not (p := a.toInt < b.toInt)).symm.trans (decide_eq_decide.mpr Int.not_lt)
theorem cmpCond_below : cmpCond 4 a b = decide (a.toNat < b.toNat) := rfl
theorem cmpCond_above : cmpCond 5 a b = decide (b.toNat ≤ a.toNat) :=
  (decide_not (p := a.toNat < b.toNat)).symm.trans (decide_eq_decide.mpr Nat.not_lt)
theorem cmpCond_meet : cmpCond 6 a b = decide (a &&& b ≠ 0) := (decide_not).symm
theorem cmpCond_apart : cmpCond 7 a b = decide (a &&& b = 0) := rfl

end

/-! ## What a word waits for (R142) -/

theorem Core.land_le_emptyClk {c : Core} {f : Flight} (hf : f ∈ c.tmg.flights) (fixed : f.locked = false) :
    f.land ≤ c.emptyClk .fixed := by
  refine le_trans ((le_foldl_max (fun f : Flight => !f.locked) (·.land) _ c.tmg.clk).2 f hf (by simp [fixed])) (le_of_eq ?_)
  simp [Core.emptyClk]

theorem Core.emptyClk_le_issueClk (c : Core) (h : Hdr) (u : Uses) : c.emptyClk u.empty ≤ c.issueClk h u :=
  (le_max_right _ _).trans (Nat.le_add_right _ _)

end Sys2Proof.Machine

namespace Sys2Proof
open Machine Claims

/-- Settles O2: each word is a form with a predicate destination; a comparison's condition is one of eight at the form's width. -/
theorem comparisonsAndPredicates : Obligations.ComparisonsAndPredicates := by
  intro d p q a b na nb w imm cond
  have condition (cc : Fin 8) (x y : Word) :
      (if w then cmpCond (BitVec.ofNat 4 cc.val) (lowW x) (lowW y) else cmpCond (BitVec.ofNat 4 cc.val) x y) = cond cc.val x y := by
    match cc with
    | 0 => exact congrArg₂ (ite (w = true)) (cmpCond_eq _ _) (cmpCond_eq _ _)
    | 1 => exact congrArg₂ (ite (w = true)) (cmpCond_ne _ _) (cmpCond_ne _ _)
    | 2 => exact congrArg₂ (ite (w = true)) (cmpCond_lt _ _) (cmpCond_lt _ _)
    | 3 => exact congrArg₂ (ite (w = true)) (cmpCond_ge _ _) (cmpCond_ge _ _)
    | 4 => exact congrArg₂ (ite (w = true)) (cmpCond_below _ _) (cmpCond_below _ _)
    | 5 => exact congrArg₂ (ite (w = true)) (cmpCond_above _ _) (cmpCond_above _ _)
    | 6 => exact congrArg₂ (ite (w = true)) (cmpCond_meet _ _) (cmpCond_meet _ _)
    | 7 => exact congrArg₂ (ite (w = true)) (cmpCond_apart _ _) (cmpCond_apart _ _)
  refine ⟨fun cc => ⟨?reg, ?imm⟩, ?and, ?or, ?xor, ?not, ?mov⟩
  case reg => exact writesP_of_pForm (fun h s => exec_cmp h d a _ w (.reg b) s) fun c => condition cc _ _
  case imm => exact writesP_of_pForm (fun h s => exec_cmp h d a _ w (.imm imm) s) fun c => condition cc _ _
  case and => exact writesP_of_pForm (fun h s => exec_pand h d p q na nb s) fun _ => rfl
  case or => exact writesP_of_pForm (fun h s => exec_por h d p q na nb s) fun _ => rfl
  case xor => exact writesP_of_pForm (fun h s => exec_pxor h d p q na nb s) fun _ => rfl
  case not => exact writesP_of_pForm (fun h s => exec_pnot h d p s) fun _ => rfl
  case mov => exact writesP_of_pForm (fun h s => exec_pmov h d p s) fun _ => rfl

/-- Settles O4: NOP makes the core that it finds, TIMED and CHECKED change its mode; CHECKED issues no earlier than what it waits for. -/
theorem nopAndTimingModes : Obligations.NopAndTimingModes := by
  refine ⟨fun h s ⟨inside, guard, awaits⟩ _ => ?nop, ?timed, ?checked, fun h s f hf fixed => ?waits⟩
  case nop =>
    rw [exec_nop, execNop, issueCore_issues inside guard awaits]
    simp [ends, issued]
  case timed => exact completes_of_issueCore (fun h s => exec_timed h s) fun _ _ => rfl
  case checked => exact completes_of_issueCore (fun h s => exec_checked h s) fun _ _ => rfl
  case waits => exact (Core.land_le_emptyClk hf fixed).trans (Core.emptyClk_le_issueClk s.cc h { empty := .fixed })

end Sys2Proof
end

section
/-! Branches, calls, returns and hardware loops (R128 to R138). -/
namespace Sys2Proof.Machine
open Sys2Proof Sys2Proof.Claims

/-! ## Transfers (R134, R135) -/

theorem transferTo_misaligned {s : State} {target : Word} (bad : target.toNat % 4 ≠ 0) (link : Option GReg) (lx : Bool) :
    transferTo s target link lx = .trap s .align target 0 := if_pos bad
theorem transferTo_none {s : State} {target : Word} (aligned : target.toNat % 4 = 0) (lx : Bool) :
    transferTo s target none lx = .jump s target lx := if_neg (not_not.mpr aligned)
theorem transferTo_some {s : State} {target : Word} (aligned : target.toNat % 4 = 0) (r : GReg) (lx : Bool) :
    transferTo s target (some r) lx = .jump (s.setCc (s.cc.result s.cc.tmg.clk 1 (.g r (s.cc.regs.pc + 12)))) target lx :=
  if_neg (not_not.mpr aligned)

/-! ## Loop levels (R135, R137) -/

theorem popLoop_inner {ls : Vector LoopLvl 2} (h : ls[1].v = true) : popLoop ls = ls.set 1 { ls[1] with v := false, count := 0 } := if_pos h
theorem popLoop_outer {ls : Vector LoopLvl 2} (h1 : ls[1].v = false) (h0 : ls[0].v = true) :
    popLoop ls = ls.set 0 { ls[0] with v := false, count := 0 } := by simp [popLoop, h1, h0]
theorem popLoop_idle {ls : Vector LoopLvl 2} (h1 : ls[1].v = false) (h0 : ls[0].v = false) : popLoop ls = ls := by simp [popLoop, h1, h0]

theorem LoopLvl.after_of_ne {l : LoopLvl} {a : Word} (h : a ≠ l.last) : l.after a = none := by simp [LoopLvl.after, h]
/-- At its last word a level loops back, unless its count is 1. -/
theorem LoopLvl.after_last {l : LoopLvl} {a : Word} (h : a = l.last) (more : l.count ≠ 1) :
    l.after a = some ({ l with count := l.count - 1 }, some l.begin) := by
  have left : (l.count - 1 != 0) = true := bne_iff_ne.mpr (sub_ne_zero.mpr more)
  rw [LoopLvl.after, if_neg (by simp [h]), if_pos left]
theorem LoopLvl.after_last_one {l : LoopLvl} {a : Word} (h : a = l.last) (one : l.count = 1) :
    l.after a = some ({ l with v := false, count := 0 }, none) := by
  simp [LoopLvl.after, h, one]

theorem Core.clearProg_exl (c : Core) : c.clearProg.regs.trap.exl = c.regs.trap.exl := by
  simp only [Core.clearProg, Core.setTrap_trap]
  split <;> rfl
theorem Core.clearProg_xprog (c : Core) : c.clearProg.regs.trap.xprog = if c.regs.trap.exl then c.regs.trap.xprog else 0 := by
  simp only [Core.clearProg, Core.setTrap_trap]
  split <;> rfl

theorem Core.transfer_loops (c : Core) (t stall : Nat) (target : Word) (lx : Bool) :
    (c.transfer t stall target lx).regs.loops = if lx then popLoop c.regs.loops else c.regs.loops := rfl

/-! ## The start of a loop (R136) -/

/-- The level that a loop word makes for the body behind it. -/
def loopBehind (c : Core) (len : BitVec 8) (count : Word) : LoopLvl :=
  { v := true, len1 := len, beg := (c.regs.pc + 12).extractLsb' 2 54, count := count }

theorem startLoop_full {s : State} (full : (s.cc.regs.loops[0].v && s.cc.regs.loops[1].v) = true) (len : BitVec 8) (count : Word) :
    startLoop s len count = .trap s .illegalOpc 9 0 := if_pos full
theorem startLoop_zero {s : State} (free : (s.cc.regs.loops[0].v && s.cc.regs.loops[1].v) = false) (len : BitVec 8) :
    startLoop s len 0 = .doneAt s (s.cc.regs.pc + 12 * (len.setWidth 64 + 2)) := by simp [startLoop, free]
theorem startLoop_next {s : State} (free : (s.cc.regs.loops[0].v && s.cc.regs.loops[1].v) = false) (len : BitVec 8) {count : Word}
    (turns : count ≠ 0) :
    startLoop s len count = .done (s.setCc (s.cc.setLoops (if s.cc.regs.loops[0].v
      then s.cc.regs.loops.set 1 (loopBehind s.cc len count) else s.cc.regs.loops.set 0 (loopBehind s.cc len count)))) := by
  rw [startLoop, if_neg (by simp [free]), if_neg turns]
  rfl

end Sys2Proof.Machine

namespace Sys2Proof
open Machine Claims

/-- R129, R134, R135: every transfer is `transferTo` at its issue. -/
theorem controlTransfers : Claims.ControlTransfers := by
  intro d a lx imm goes
  have transfers {i : Hdr → Instr} {u : Uses} {target : Core → Word} {link : Option GReg} {lx : Bool}
      (meaning : ∀ h s, exec (i h) s = issueWord h 0 0 0 u (fun s => transferTo s (target s.cc) link lx) s) :
      goes i u target link lx := by
    refine ⟨fun h s issues aligned => ?_, traps_of_issueWord meaning fun s bad => transferTo_misaligned bad link lx⟩
    cases link with
    | none =>
      rw [meaning, issueWord_jumps issues (transferTo_none aligned lx)]
      simp [issued]
    | some r =>
      rw [meaning, issueWord_jumps issues (transferTo_some aligned r lx)]
      simp [issued]
  clear_value goes
  refine ⟨?br, ?call, ?jr, ?callr, ?ret⟩
  case br => exact transfers fun h s => exec_br h lx imm s
  case call => exact transfers fun h s => exec_call h d imm s
  case jr => exact transfers fun h s => exec_jr h a lx imm s
  case callr => exact transfers fun h s => exec_callr h d a imm s
  case ret => exact transfers fun h s => exec_ret h a s

/-- R40, R129, R135: the levels by `popLoop`, XPROG by the completion of every word. -/
theorem transferRegisters : Claims.TransferRegisters := by
  intro c t stall target lx r
  have loops : r.regs.loops = if lx then popLoop c.regs.loops else c.regs.loops := c.transfer_loops t stall target lx
  refine ⟨rfl, rfl, rfl, rfl, rfl, rfl, rfl, rfl, rfl, rfl, fun stay => ?stay, fun pop inner => ?inner, fun pop idle outer => ?outer,
    fun pop idle idle' => ?idle, c.clearProg_exl, c.clearProg_xprog, (le_max_right _ _).trans (le_max_right _ _)⟩
  case stay => simp [loops, stay]
  case inner => simp [loops, pop, popLoop_inner inner]
  case outer => simp [loops, pop, popLoop_outer idle outer]
  case idle => simp [loops, pop, popLoop_idle idle idle']

/-- Settles O37: the words by the effect that they share, the registers by the end of a taken transfer. -/
theorem transfers : Obligations.Transfers := ⟨controlTransfers, transferRegisters⟩

/-- R136: both words are `startLoop` at their issue. -/
theorem loopForms : Claims.LoopForms := by
  intro a len cnt loops
  have starts {i : Hdr → Instr} {u : Uses} {count : Core → Word}
      (meaning : ∀ h s, exec (i h) s = issueWord h 0 0 0 u (fun s => startLoop s len (count s.cc)) s) : loops i u count := by
    refine ⟨completes_of_issueWord meaning fun s ⟨free, turns⟩ => startLoop_next free len turns,
      fun h s issues free zero => ?_,
      traps_of_issueWord meaning fun s ⟨outer, inner⟩ => startLoop_full (by rw [outer, inner]; rfl) len _⟩
    rw [meaning, issueWord_of_issues issues, zero, startLoop_zero free]
    simp [issued, finish]
  clear_value loops
  refine ⟨?loop, ?loopi, fun c ls => ⟨rfl, rfl, rfl, rfl⟩⟩
  case loop => exact starts fun h s => exec_loop h a len s
  case loopi => exact starts fun h s => exec_loopi h len cnt s

/-- R137, R138: the levels that the sequencer visits at a word, from the inner one down. -/
theorem loopSequencing : Claims.LoopSequencing := by
  intro ls a inner outer ended
  refine ⟨?back, ?innerEnds, ?outerBack, ?bothEnd, ?body, ?outerOnlyBack, ?outerOnlyEnds, ?elsewhere⟩
  case back =>
    rintro ⟨on, last⟩ more
    simp [loopNext, on, LoopLvl.after_last last more]
  case innerEnds =>
    rintro ⟨on, last⟩ one other
    simp [loopNext, on, LoopLvl.after_last_one last one, LoopLvl.after_of_ne other, ended]
  case outerBack =>
    rintro ⟨on, last⟩ one last' more
    simp [loopNext, on, LoopLvl.after_last_one last one, LoopLvl.after_last last' more, ended]
  case bothEnd =>
    rintro ⟨on, last⟩ one last' one'
    simp [loopNext, on, LoopLvl.after_last_one last one, LoopLvl.after_last_one last' one', ended]
  case body =>
    intro on other
    simp [loopNext, on, LoopLvl.after_of_ne other]
  case outerOnlyBack =>
    rintro off ⟨on, last⟩ more
    simp [loopNext, off, on, LoopLvl.after_last last more]
  case outerOnlyEnds =>
    rintro off ⟨on, last⟩ one
    simp [loopNext, off, on, LoopLvl.after_last_one last one]
  case elsewhere =>
    intro off outside
    by_cases on : ls[0].v = true
    · simp [loopNext, off, on, LoopLvl.after_of_ne fun last => outside ⟨on, last⟩]
    · simp [loopNext, off, on]

/-- Settles O38: the words by the effect that they share, the sequencing level by level. -/
theorem loops : Obligations.Loops := ⟨loopForms, loopSequencing⟩

end Sys2Proof
end

section
/-! Gangs (R145 to R149). -/
namespace Sys2Proof.Machine
open Sys2Proof Sys2Proof.Claims

/-! ## What the words leave of the gangs -/

theorem State.setCore_keepsGangs (s : State) (n : Nat) (c : Core) : KeepsGangs s (s.setCore n c) := .of_clusters rfl

theorem KeepsGangs.foldl {α : Type} {f : State → α → State} (step : ∀ s a, KeepsGangs s (f s a)) (xs : List α) (s : State) :
    KeepsGangs s (xs.foldl f s) :=
  List.foldlRecOn xs f (fun _ => rfl) fun t kept a _ => kept.trans (step t a)

theorem finish_sleep_keepsGangs (h : Hdr) (t : Nat) (s : State) : ∃ r, finish h t (.sleep s) = .next r ∧ KeepsGangs s r := by
  refine ⟨_, rfl, ?_⟩
  split
  · exact (s.setCore_keepsGangs _ _).owe _
  · exact s.setCore_keepsGangs _ _

theorem State.mem_gangs_formGang (s : State) (cl base num : Nat) :
    { base := base, num := num } ∈ ((s.formGang cl base num).cluster cl).gangs := by
  simp [State.formGang]

/-- Of the gangs of its cluster, the one that the leader's GSPLIT dissolves is gone. -/
theorem State.gangs_dissolve {s : State} {n : Nat} {g : Gang} (leads : s.gangOf n = some (g, 0)) (t gap : Nat) (next : Option Word) :
    ((s.dissolve n t gap next).cluster (clusterOf n)).gangs = (s.cluster (clusterOf n)).gangs.filter (·.base != g.base) := by
  rw [State.dissolve, leads]
  refine (KeepsGangs.foldl (fun s j => ?_) _ (s.setGang (clusterOf n) g.base none) _).trans (by simp [State.setGang])
  dsimp only
  split_ifs <;> exact fun _ => rfl

/-! ## GANG (R145) -/

section
variable {s : State} {base num : Nat}

/-- The current core waits with the operands of a GANG. -/
def State.awaitGang (s : State) (base num : Nat) : State := s.setCc { s.cc with wait := .gang base num }
@[simp] theorem State.cc_awaitGang (s : State) (base num : Nat) : (s.awaitGang base num).cc = { s.cc with wait := .gang base num } :=
  State.cc_setCc _ _
/-- Every core of a range of the current core's cluster waits with the operands of a GANG. -/
def State.gangWaits (s : State) (base num : Nat) : Bool :=
  (List.range num).all fun j => (s.core (clusterOf s.cur * 24 + base + j)).wait == .gang base num

theorem startGang_bad (bad : badGang s s.cur base num = true) : startGang s base num = .trap s .illegalOpc 0x0A 0 := if_pos bad
theorem startGang_member (good : badGang s s.cur base num = false) (member : (s.gangOf s.cur).isSome = true) :
    startGang s base num = .trap s .illegalOpc 0x0B 0 := by simp [startGang, good, member]
theorem startGang_waits (good : badGang s s.cur base num = false) (free : s.gangOf s.cur = none)
    (few : (s.awaitGang base num).gangWaits base num = false) : startGang s base num = .sleep (s.awaitGang base num) := by
  rw [startGang, if_neg (by simp [good]), if_neg (by simp [free])]
  exact congrArg Eff.sleep (if_neg (Bool.not_eq_true _ ▸ few))
theorem startGang_forms (good : badGang s s.cur base num = false) (free : s.gangOf s.cur = none)
    (all : (s.awaitGang base num).gangWaits base num = true) :
    startGang s base num = .sleep ((s.awaitGang base num).formGang (clusterOf s.cur) base num) := by
  rw [startGang, if_neg (by simp [good]), if_neg (by simp [free])]
  exact congrArg Eff.sleep (if_pos all)

end

/-! ## GSPLIT and GJOIN (R148, R149) -/

section
variable {s : State} {g : Gang} {j : Nat}

theorem splitGang_free (free : s.gangOf s.cur = none) : splitGang s = .done s := by rw [splitGang, free]
theorem splitGang_gone (member : s.gangOf s.cur = some (g, j)) (follower : j ≠ 0) (gone : g.split.contains j = true) :
    splitGang s = .done s := by simp only [splitGang, member, if_neg follower, if_pos gone]
/-- The leader's GSPLIT is a transfer after the end of its gang. -/
theorem splitGang_leader (leads : s.gangOf s.cur = some (g, 0)) :
    ∃ gap a c b, splitGang s = .jump ((s.dissolve s.cur s.cc.tmg.clk gap (some a)).setCc c) b false := by
  simp only [splitGang, leads, if_true]
  exact ⟨_, _, _, _, rfl⟩

theorem joinGang_free (free : s.gangOf s.cur = none) : joinGang s = .done s := by rw [joinGang, free]
theorem joinGang_whole (member : s.gangOf s.cur = some (g, j))
    (whole : (g.split.isEmpty || (decide (j ≠ 0) && !g.split.contains j)) = true) :
    joinGang s = .done (s.setCc (s.cc.emptyBuffers true)) := by simp only [joinGang, member, if_pos whole]

end

end Sys2Proof.Machine

namespace Sys2Proof
open Machine Claims

/-- Settles O5: each word by its effect at its issue, and the gangs by what a wait, the end of a gang and a transfer leave of them. -/
theorem gangs : Obligations.Gangs := by
  intro base num h s
  refine ⟨fun issues => ⟨fun bad => ?bad, fun good member => ?member, fun good free stays => ?free, fun free => ?splitFree,
    fun g j member follower gone => ?splitGone, fun g leads => ?splitLeader⟩, fun issues => ⟨fun free => ?joinFree,
    fun g j member whole => ?joinWhole⟩⟩
  case bad => exact (exec_gang ..).trans (issueWord_traps issues (startGang_bad bad))
  case member => exact (exec_gang ..).trans (issueWord_traps issues (startGang_member good member))
  case free =>
    let s1 := issued h 0 0 0 {} s
    cases waits : (s1.awaitGang base.toNat num.toNat).gangWaits base.toNat num.toNat with
    | false =>
      have inside : (s1.awaitGang base.toNat num.toNat).cc.tmg.inside = none := by simpa [s1, Core.inside_atIssue] using issues.1
      have sleeps : exec (.gang h base num) s = _ := (exec_gang ..).trans (issueWord_sleeps issues (startGang_waits good free waits))
      refine ⟨_, sleeps.trans (finish_sleep inside (by simpa [s1] using stays)), fun _ => ?_,
        fun all => absurd (waits.symm.trans all) (by decide)⟩
      simp [State.awaitGang]
    | true =>
      obtain ⟨t, ends, kept⟩ := finish_sleep_keepsGangs h s1.cc.tmg.clk
        ((s1.awaitGang base.toNat num.toNat).formGang (clusterOf s.cur) base.toNat num.toNat)
      refine ⟨t, (exec_gang ..).trans ((issueWord_sleeps issues (startGang_forms good free waits)).trans ends),
        fun few => absurd (waits.symm.trans few) (by decide), fun _ => ⟨{ base := base.toNat, num := num.toNat }, ?_, rfl, rfl, rfl⟩⟩
      rw [kept]
      exact State.mem_gangs_formGang ..
  case splitFree => exact issueWord_done issues (splitGang_free free)
  case splitGone => exact issueWord_done issues (splitGang_gone member follower gone)
  case splitLeader =>
    obtain ⟨gap, a, c, b, jumps⟩ := splitGang_leader leads
    refine ⟨_, issueWord_jumps issues jumps, fun x hx => ?_⟩
    rw [State.setCc, State.setCore_keepsGangs, State.setCc, State.setCore_keepsGangs] at hx
    rw [cur_issued, State.gangs_dissolve leads] at hx
    simpa using (List.mem_filter.mp hx).2
  case joinFree => exact issueWord_done issues (joinGang_free free)
  case joinWhole => exact issueWord_done issues (joinGang_whole member whole)

end Sys2Proof
end

section
/-! The system registers (R138, R168, R193, R194, R313, R402, R451 to R455, R489). -/
namespace Sys2Proof.Machine
open Sys2Proof Sys2Proof.Claims

/-- The end of a word is its core's alone. -/
theorem die_ends (h : Hdr) (t : Nat) (s : State) (n : Nat) : (ends h t s).die n = s.die n := rfl

/-! ## Privilege (R451, R453) -/

/-- The registers that only the supervisor may name, and the other ones. -/
theorem sysPrivileged_iff {n : BitVec 12} : sysPrivileged n = true ↔ 1 ≤ n ∧ n ≤ 6 ∨ 0x80 ≤ n := by
  simp [sysPrivileged, BitVec.ule_iff_le]
theorem sysPrivileged_eq_false {n : BitVec 12} : sysPrivileged n = false ↔ (n < 1 ∨ 6 < n) ∧ n < 0x80 := by
  rw [← Bool.not_eq_true, sysPrivileged_iff]
  simp only [not_or, not_and, BitVec.not_le, Decidable.imp_iff_not_or]
theorem sysPrivileged_swz (k : Fin 4) : sysPrivileged (0x018 + BitVec.ofNat 12 k.val) = false := by revert k; decide

/-- A supervisor's form traps in user mode before it reads its guard. -/
theorem privileged_user {s : State} (user : s.cc.regs.trap.sup = false) (k : State → Host.Outcome State Fault Refusal) :
    privileged s k = .next (s.takeTrap s.cur .priv 0 0) := if_neg (by simp [user])
theorem privileged_sup {s : State} (sup : s.cc.regs.trap.sup = true) (k : State → Host.Outcome State Fault Refusal) :
    privileged s k = k s := if_pos sup

theorem wrsysForm_user {h : Hdr} {a : GReg} {n : BitVec 12} {s : State} (user : s.cc.regs.trap.sup = false)
    (closed : sysPrivileged n = true) (eff : Word → State → Eff) :
    wrsysForm h a n eff s = .next (s.takeTrap s.cur .priv 0 0) := if_pos (by simp [user, closed])
theorem wrsysForm_issues {h : Hdr} {a : GReg} {n : BitVec 12} {s : State} (may : s.cc.regs.trap.sup = true ∨ sysPrivileged n = false)
    (eff : Word → State → Eff) :
    wrsysForm h a n eff s = issueWord h 0 0 0 (wrUses a) (fun s => eff (s.cc.rdG a) s) s :=
  if_neg (by rcases may with may | may <;> simp [may])
theorem execRdsys_user {h : Hdr} {d : GReg} {n : BitVec 12} {s : State} (user : s.cc.regs.trap.sup = false)
    (closed : sysPrivileged n = true) : execRdsys h d n s = .next (s.takeTrap s.cur .priv 0 0) := if_pos (by simp [user, closed])

/-- The effect of RDSYS: the value is written 2 clk later, or as a result of variable latency. -/
def rdsysEff (d : GReg) (n : BitVec 12) (s : State) : Eff :=
  .done (onCore (fun c => if n = 0x088 ∨ n = 0x08A then c.slipResult (.g d (s.sysRead s.cur n).2)
    else c.lockedResult c.tmg.clk 2 (.g d (s.sysRead s.cur n).2)) (s.sysRead s.cur n).1)
theorem execRdsys_issues {h : Hdr} {d : GReg} {n : BitVec 12} {s : State} (may : s.cc.regs.trap.sup = true ∨ sysPrivileged n = false) :
    execRdsys h d n s = issueWord h 0 0 0 { dsts := [opG d] } (rdsysEff d n) s := by
  refine (if_neg (by rcases may with may | may <;> simp [may])).trans (congrArg (issueWord h 0 0 0 _ · s) (funext fun s => ?_))
  unfold rdsysEff onCore
  split <;> rfl

/-- A read completes as stated in supervisor mode where its effect does. -/
theorem completesSup_of_privileged {i : Hdr → Instr} {u : Uses} {P : State → Prop} {f eff}
    (meaning : ∀ h s, exec (i h) s = privileged s (issueWord h 0 0 0 u eff)) (done : ∀ s, P s → eff s = .done (f s)) :
    CompletesSup i 0 0 0 u P f := by
  intro h s sup issues hP
  rw [meaning, privileged_sup sup, issueWord_done issues (done _ hP), cc_issued]
/-- A write of a system register completes as stated where its effect does. -/
theorem completesSup_of_wrsysForm {i : Hdr → Instr} {a : GReg} {n : BitVec 12} {P : State → Prop} {f : State → State}
    {eff : Word → State → Eff} (meaning : ∀ h s, exec (i h) s = wrsysForm h a n eff s)
    (done : ∀ s, P s → eff (s.cc.rdG a) s = .done (f s)) : CompletesSup i 0 0 0 (wrUses a) P f := by
  intro h s sup issues hP
  rw [meaning, wrsysForm_issues (.inl sup), issueWord_done issues (by exact done _ hP), cc_issued]
/-- The same in either mode, for a register that user mode may name. -/
theorem completes_of_wrsysForm {i : Hdr → Instr} {a : GReg} {n : BitVec 12} {P : State → Prop} {f : State → State}
    {eff : Word → State → Eff} (meaning : ∀ h s, exec (i h) s = wrsysForm h a n eff s) (open_ : sysPrivileged n = false)
    (done : ∀ s, P s → eff (s.cc.rdG a) s = .done (f s)) : Completes i 0 0 0 (wrUses a) P f :=
  completes_of_issueWord (fun h s => (meaning h s).trans (wrsysForm_issues (.inr open_) eff)) done
theorem supOnly_of_wrsysForm {i : Hdr → Instr} {a : GReg} {n : BitVec 12} {eff : Word → State → Eff}
    (meaning : ∀ h s, exec (i h) s = wrsysForm h a n eff s) (closed : sysPrivileged n = true) : SupOnly i :=
  fun h s user => (meaning h s).trans (wrsysForm_user user closed eff)

/-! ## Registers of a core as they are read and written (R453, R454) -/

section
variable (s : State) (n : Nat)

theorem sysRead_swz (i : Fin 4) : (s.sysRead n (0x018 + BitVec.ofNat 12 i.val)).2 = (s.core n).regs.swz[i] := by
  fin_cases i <;> rfl
theorem sysRead_loopCount (i : Fin 2) : (s.sysRead n (0x022 + BitVec.ofNat 12 i.val)).2 = (s.core n).regs.loops[i].count := by
  fin_cases i <;> rfl

theorem sysWrite_loopAddr (i : Fin 2) (x : Word) : s.sysWrite n (0x020 + BitVec.ofNat 12 i.val) x =
    s.setCore n ((s.core n).setLoops ((s.core n).regs.loops.set i ((s.core n).regs.loops[i].setWord x))) := by
  fin_cases i <;> rfl
theorem sysWrite_loopCount (i : Fin 2) (x : Word) : s.sysWrite n (0x022 + BitVec.ofNat 12 i.val) x =
    s.setCore n ((s.core n).setLoops ((s.core n).regs.loops.set i { (s.core n).regs.loops[i] with count := x })) := by
  fin_cases i <;> rfl

theorem regs_of_sysWrite {k : BitVec 12} {x : Word} {c : Core} (writes : s.sysWrite n k x = s.setCore n c) :
    ((s.sysWrite n k x).core n).regs = c.regs := by rw [writes, State.core_setCore]

/-- A register that WRSYS has no field of keeps its value. -/
theorem sysWrite_readOnly {k : BitVec 12} (x : Word)
    (h : 0x024 ≤ k.toNat ∧ k.toNat ≤ 0x02C ∨ 0x02E ≤ k.toNat ∧ k.toNat ≤ 0x047) : s.sysWrite n k x = s := by
  unfold State.sysWrite
  dsimp only
  repeat rw [if_neg (by omega)]

end

/-! ## Registers that act on a unit -/

/-- SPDOOR_CLEAR of one kind: its doorbell takes the first request that was held back, if there is one (R489). -/
def State.clearDoor (x : Word) (s : State) (i : Fin 3) : State :=
  if x.getLsbD i.val then
    let k := s.die (dieOf s.cur)
    s.setDie (dieOf s.cur) { k with door := k.door.set i ((k.doorWait.find? fun e => e.1 == i).map (·.2)),
                                    doorWait := k.doorWait.eraseIdx (k.doorWait.findIdx fun e => e.1 == i) }
  else s

theorem exec_spdoorClear_clearDoor (h : Hdr) (a : GReg) (s : State) :
    exec (.spdoorClear h a) s = wrsysForm h a 0x0B0 (fun x s => .done ((List.finRange 3).foldl (State.clearDoor x) s)) s := rfl

theorem State.foldl_clearDoor_none {x : Word} (none : (x.setWidth 3 : BitVec 3) = 0) (s : State) (is : List (Fin 3)) :
    is.foldl (State.clearDoor x) s = s := by
  refine List.foldlRecOn (motive := (· = s)) is _ rfl fun t same i _ => ?_
  have off : x.getLsbD i.val = false := by simpa [i.isLt] using congrArg (·.getLsbD i.val) none
  simpa [State.clearDoor, off] using same

/-- With nothing held back, the doorbells that are named become silent, and the others stay. -/
theorem State.door_foldl_clearDoor (x : Word) (is : List (Fin 3)) : ∀ s : State, (s.die (dieOf s.cur)).doorWait = [] →
    ∀ j : Fin 3, ((is.foldl (State.clearDoor x) s).die (dieOf s.cur)).door[j] =
      if j ∈ is ∧ x.getLsbD j.val = true then none else (s.die (dieOf s.cur)).door[j] := by
  induction is with
  | nil => simp
  | cons i is ih =>
    intro s quiet j
    by_cases on : x.getLsbD i.val = true
    · obtain ⟨cur, wait, door⟩ : (s.clearDoor x i).cur = s.cur ∧ ((s.clearDoor x i).die (dieOf s.cur)).doorWait = [] ∧
          ((s.clearDoor x i).die (dieOf s.cur)).door = (s.die (dieOf s.cur)).door.set i none := by
        simp [State.clearDoor, on, quiet]
      have rest := ih (s.clearDoor x i) (by rw [cur, wait]) j
      rw [cur, door] at rest
      rw [List.foldl_cons, rest]
      by_cases same : i = j
      · subst same
        simp [on]
      · simp [Ne.symm same, Fin.val_ne_of_ne same]
    · have skip : s.clearDoor x i = s := if_neg on
      rw [List.foldl_cons, skip, ih s quiet j]
      by_cases same : j = i
      · subst same
        simp [on]
      · simp [same]

end Sys2Proof.Machine

namespace Sys2Proof
open Machine Claims

/-- R138, R453, R454: the two words at their issue, and each register by its own case of what is read and written. -/
theorem systemRegisters : Claims.SystemRegisters := by
  intro d a n open_ slow read wrote
  refine ⟨?rdsys, ?wrsys, ?user, fun s => ?read, fun s x => ?write⟩
  case rdsys =>
    intro h s may issues s1 r
    exact (exec_rdsys ..).trans ((execRdsys_issues (may.imp_right sysPrivileged_eq_false.mpr)).trans (issueWord_done issues rfl))
  case wrsys =>
    intro h s may issues s1
    exact (exec_wrsys ..).trans ((wrsysForm_issues (may.imp_right sysPrivileged_eq_false.mpr) _).trans (issueWord_done issues rfl))
  case user =>
    intro h s user closed
    exact ⟨(exec_rdsys ..).trans (execRdsys_user user (sysPrivileged_iff.mpr closed)),
      (exec_wrsys ..).trans (wrsysForm_user user (sysPrivileged_iff.mpr closed) _)⟩
  case read =>
    exact ⟨rfl, rfl, rfl, rfl, rfl, rfl, rfl, sysRead_swz s s.cur, sysRead_loopCount s s.cur, rfl, rfl, rfl, rfl⟩
  case write =>
    have writes {k : BitVec 12} {c : Core} (h : s.sysWrite s.cur k x = s.setCore s.cur c) : wrote s k x = c.regs :=
      regs_of_sysWrite s s.cur h
    refine ⟨(writes rfl).trans rfl, (writes rfl).trans rfl, (writes rfl).trans rfl, (writes rfl).trans rfl, (writes rfl).trans rfl,
      (writes rfl).trans rfl, (writes rfl).trans rfl, fun i => ?_, fun i => ?_, fun k h => ?_⟩
    · rw [writes (sysWrite_loopAddr s s.cur i x)]
      rfl
    · rw [writes (sysWrite_loopCount s s.cur i x)]
      rfl
    · refine sysWrite_readOnly s s.cur x ?_
      simp only [BitVec.le_def, ← BitVec.toNat_inj, BitVec.reduceToNat] at h
      omega

/-- R168 to R489: each access to a unit by the case of its effect. -/
theorem unitRegisters : Claims.UnitRegisters := by
  intro d a i k f e rest s1 s2 hdr bs e2 charge more
  dsimp only
  refine ⟨?noFault, ?fault, ?noErr, ?err, ?errWaits, ?drop, ?noDoor, ?door, ?slotAddr, ?slotGo, ?swz, ?zshare,
    ?fbUser, ?derrUser, ?dropUser, ?doorUser, ?slotUser, ?zshareUser⟩
  case noFault =>
    refine completesSup_of_privileged (fun h s => exec_fbpop0Read h d s) fun s none => ?_
    simp only [none]
    rfl
  case fault =>
    refine completesSup_of_privileged (fun h s => exec_fbpop0Read h d s) fun s ⟨oldest, entry⟩ => ?_
    simp only [oldest, entry]
    rfl
  case noErr =>
    refine completesSup_of_privileged (fun h s => exec_derrpopRead h d s) fun s none => ?_
    simp only [none]
    rfl
  case err =>
    refine completesSup_of_privileged (fun h s => exec_derrpopRead h d s) fun s ⟨oldest, quiet⟩ => ?_
    simp only [oldest, quiet]
    simp [onCore]
  case errWaits =>
    refine completesSup_of_privileged (fun h s => exec_derrpopRead h d s) fun s ⟨oldest, waits⟩ => ?_
    simp only [oldest, waits]
    cases charge <;> rfl
  case drop => exact completesSup_of_wrsysForm (fun h s => exec_fbstatDropClear h a s) fun _ _ => rfl
  case noDoor =>
    exact completesSup_of_wrsysForm (fun h s => exec_spdoorClear_clearDoor h a s) fun s none =>
      congrArg Eff.done (State.foldl_clearDoor_none none s _)
  case door =>
    intro h s sup issues quiet
    have clears := (exec_spdoorClear_clearDoor h a s).trans ((wrsysForm_issues (.inl sup) _).trans (issueWord_done issues rfl))
    refine ⟨_, clears, fun j => ?_⟩
    have cleared := State.door_foldl_clearDoor ((issued h 0 0 0 (wrUses a) s).cc.rdG a) (List.finRange 3) _ quiet j
    rw [die_ends]
    simpa using cleared
  case slotAddr =>
    refine completesSup_of_wrsysForm (fun h s => exec_slotctlGo h a s) fun s off => ?_
    simp only [off]
    rfl
  case slotGo =>
    refine completesSup_of_wrsysForm (fun h s => exec_slotctlGo h a s) fun s ⟨go, first, others⟩ => ?_
    simp only [onCore, BitVec.ofNat_eq_ofNat] at first others
    simp only [go, first, others, BitVec.ofNat_eq_ofNat, Bool.not_true, Bool.false_eq_true, if_false]
    rfl
  case swz => exact completes_of_wrsysForm (fun h s => exec_swzWrite h a k s) (sysPrivileged_swz k) fun _ _ => rfl
  case zshare =>
    refine completesSup_of_wrsysForm (fun h s => exec_zshareWrite h a s) fun s ready => ?_
    exact if_pos ready
  case fbUser => exact fun h s user => privileged_user user _
  case derrUser => exact fun h s user => privileged_user user _
  case dropUser => exact supOnly_of_wrsysForm (fun h s => exec_fbstatDropClear h a s) rfl
  case doorUser => exact supOnly_of_wrsysForm (fun h s => exec_spdoorClear h a s) rfl
  case slotUser => exact supOnly_of_wrsysForm (fun h s => exec_slotctlGo h a s) rfl
  case zshareUser => exact supOnly_of_wrsysForm (fun h s => exec_zshareWrite h a s) rfl

/-- Settles O48: the registers of the core by the case of each, those of its units by the effect of the word that names them. -/
theorem systemRegisterForms : Obligations.SystemRegisterForms := ⟨systemRegisters, unitRegisters⟩

end Sys2Proof
end

section
/-! Lane slices, gathers and scatters (R162, R179, R180, R181): a check that passes on every active lane stops nothing. -/
namespace Sys2Proof.Machine
open Sys2Proof Sys2Proof.Claims

/-! ## The checks before the lanes -/

theorem noStream_unbound {rs : List VReg} {s : State} (unbound : ∀ r ∈ rs, s.cc.bound r = none) (k : State → Eff) :
    noStream (rs.map opV) k s = k s := by
  have none' : s.cc.streamOperand (rs.map opV) = none := by
    simp only [Core.streamOperand, List.find?_eq_none, List.mem_map]
    rintro _ ⟨r, hr, rfl⟩
    simp [unbound r hr]
  rw [noStream, none']

theorem noStream_pair {a b : VReg} {s : State} (ha : s.cc.bound a = none) (hb : s.cc.bound b = none) (k : State → Eff) :
    noStream [opV a, opV b] k s = k s :=
  noStream_unbound (rs := [a, b]) (by simp [ha, hb]) k

theorem poisonCheck_sound (f : Nat) {v : VR} (sound : isPoison v.tag = false) : poisonCheck f v = none := by
  simp [poisonCheck, sound]

theorem partialMask_iff (m : Mask) : partialMask m = true ↔ ∃ l < 16, m.getLsbD l = false := by
  have whole : m.extractLsb' 0 16 = BitVec.allOnes 16 ↔ ∀ l < 16, m.getLsbD l = true := by
    refine ⟨fun h l hl => ?_, fun h => BitVec.eq_of_getLsbD_eq fun l hl => ?_⟩
    · have same : (m.extractLsb' 0 16).getLsbD l = (BitVec.allOnes 16).getLsbD l := by rw [h]
      rwa [BitVec.getLsbD_extractLsb', BitVec.getLsbD_allOnes, Nat.zero_add, decide_eq_true hl, Bool.true_and] at same
    · rw [BitVec.getLsbD_extractLsb', BitVec.getLsbD_allOnes, Nat.zero_add, h l hl, Bool.and_true]
  simp only [partialMask, bne_iff_ne, ne_eq, whole, not_forall, exists_prop, Bool.not_eq_true]

/-- DST is checked only where it is read (R179, R180). -/
theorem oldCheck_sound {m : Mask} {v : VR} (sound : (∃ l < 16, m.getLsbD l = false) → isPoison v.tag = false) :
    (if partialMask m then poisonCheck 1 v else none) = none := by
  split
  case isTrue inactive => exact poisonCheck_sound 1 (sound ((partialMask_iff m).mp inactive))
  case isFalse => rfl

theorem firstLane_none {m : Mask} {bad : Nat → Option (Cause × Word)}
    (passes : ∀ l < 16, m.getLsbD l = true → bad l = none) : firstLane m bad = none := by
  refine List.findSome?_eq_none_iff.mpr fun l hl => ?_
  split
  case isTrue active => exact passes l (List.mem_range.mp hl) active
  case isFalse => rfl

/-- Aligned offsets inside their slices pass the checks of the active lanes (R179). -/
theorem laneChecks_none {m : Mask} (off : Nat → Word)
    (ok : ∀ l < 16, m.getLsbD l = true → (off l).toNat < 2048 ∧ (off l).toNat % 8 = 0) :
    firstLane m (fun l => laneCheck (off l)) = none := by
  refine firstLane_none fun l hl active => ?_
  obtain ⟨inside, aligned⟩ := ok l hl active
  rw [laneCheck, if_neg (by omega), if_neg (by omega)]

theorem State.laneFault_none {s : State} {m : Mask} {adr : Nat → Word}
    (ok : ∀ l < 16, m.getLsbD l = true → ∃ p, s.checkVec (adr l) 8 8 = .ok p) : s.laneFault m adr = none := by
  refine firstLane_none fun l hl active => ?_
  obtain ⟨p, hp⟩ := ok l hl active
  rw [hp]

/-- No command holds the words of the active lanes (R160). -/
theorem lanesHeld_free {s : State} {m : Mask} {adr : Nat → Word}
    (free : ∀ l < 16, m.getLsbD l = true → s.rangeHeld (adr l) 8 = false) :
    ¬ (List.range 16).any (fun l => m.getLsbD l && s.rangeHeld (adr l) 8) = true := by
  simpa using free

end Sys2Proof.Machine

namespace Sys2Proof
open Machine Claims

/-- Settles O12: of the checks that stand before the lanes each passes, in the order of the form, so that the lanes are what is left. -/
theorem lanesGathersScatters : Obligations.LanesGathersScatters := by
  intro d b v a tag km imm
  dsimp only
  refine ⟨?load, ?store, ?gather, ?scatter⟩
  case load =>
    refine completes_of_issueWord (fun h s => exec_vldl h tag d v km imm s) ?_
    rintro s ⟨⟨unbound, sound⟩, ⟨unboundOld, soundOld⟩, lanes⟩
    rw [noStream_pair unboundOld unbound]
    dsimp only
    rw [poisonCheck_sound 2 sound, oldCheck_sound soundOld,
      laneChecks_none (fun l => lane (s.cc.rdV v).bits l + sextImm imm) lanes]
    rfl
  case store =>
    refine completes_of_issueWord (fun h s => exec_vstl h v b km imm s) ?_
    rintro s ⟨⟨unbound, sound⟩, ⟨unboundB, soundB⟩, lanes⟩
    rw [noStream_pair unbound unboundB]
    dsimp only
    rw [poisonCheck_sound 2 sound, poisonCheck_sound 3 soundB,
      laneChecks_none (fun l => lane (s.cc.rdV v).bits l + sextImm imm) lanes]
    rfl
  case gather =>
    refine completes_of_issueWord (fun h s => exec_vgath h tag d a v km s) ?_
    rintro s ⟨⟨unbound, sound⟩, ⟨unboundOld, soundOld⟩, free, ok⟩
    rw [noStream_pair unboundOld unbound]
    dsimp only
    rw [if_neg (lanesHeld_free free), poisonCheck_sound 3 sound, oldCheck_sound soundOld, State.laneFault_none ok]
  case scatter =>
    refine completes_of_issueWord (fun h s => exec_vscat h v a b km s) ?_
    rintro s ⟨⟨unbound, sound⟩, ⟨unboundB, soundB⟩, free, ok⟩
    rw [noStream_pair unbound unboundB]
    dsimp only
    rw [if_neg (lanesHeld_free free), poisonCheck_sound 3 soundB, poisonCheck_sound 1 sound, State.laneFault_none ok]

end Sys2Proof
end

section
/-! An access to memory leaves the TLBs as they are, whichever page policy performs it (R189, R190, R199). -/
namespace Sys2Proof.Machine
open Sys2Proof

/-- From `s` to `t` the TLBs of every cluster and of every die stay. -/
structure KeepsTlbs (s t : State) : Prop where
  l1 : ∀ cl, (t.cluster cl).l1tlb = (s.cluster cl).l1tlb
  l2 : ∀ d, (t.die d).l2tlb = (s.die d).l2tlb

theorem KeepsTlbs.refl (s : State) : KeepsTlbs s s := ⟨fun _ => rfl, fun _ => rfl⟩
theorem KeepsTlbs.trans {s t u : State} (a : KeepsTlbs s t) (b : KeepsTlbs t u) : KeepsTlbs s u :=
  ⟨fun cl => (b.l1 cl).trans (a.l1 cl), fun d => (b.l2 d).trans (a.l2 d)⟩
theorem KeepsTlbs.ite {p : Prop} {_ : Decidable p} {s t u : State} (a : KeepsTlbs s t) (b : KeepsTlbs s u) :
    KeepsTlbs s (if p then t else u) := by
  split <;> assumption

section
variable {s t : State} (h : KeepsTlbs s t)
include h

/-! ## Units and errors -/

theorem KeepsTlbs.of_units {u : State} (clusters : u.clusters = t.clusters) (dies : u.dies = t.dies) : KeepsTlbs s u :=
  ⟨fun cl => by rw [State.cluster, clusters]; exact h.l1 cl, fun d => by rw [State.die, dies]; exact h.l2 d⟩

theorem KeepsTlbs.owe {i : Instr} : KeepsTlbs s (t.owe i) := h.of_units rfl rfl
theorem KeepsTlbs.setCore {n : Nat} {c : Core} : KeepsTlbs s (t.setCore n c) := h.of_units rfl rfl

theorem KeepsTlbs.setCluster {n : Nat} {c : Cluster} (hc : c.l1tlb = (t.cluster n).l1tlb) : KeepsTlbs s (t.setCluster n c) := by
  refine h.trans ⟨fun cl => ?_, fun _ => rfl⟩
  by_cases hcl : cl = n
  · rw [hcl, State.cluster_setCluster, hc]
  · rw [State.cluster_setCluster_ne _ _ _ _ hcl]

theorem KeepsTlbs.setDie {n : Nat} {d : Die} (hd : d.l2tlb = (t.die n).l2tlb) : KeepsTlbs s (t.setDie n d) := by
  refine h.trans ⟨fun _ => rfl, fun k => ?_⟩
  by_cases hk : k = n
  · rw [hk, State.die_setDie, hd]
  · rw [State.die_setDie_ne _ _ _ _ hk]

theorem KeepsTlbs.postError {kind : BitVec 6} {p : PTag} {n : Nat} : KeepsTlbs s (t.postError kind p n) := by
  have queued (q : List DErr) (w : List (DErr × Option Charge)) :
      KeepsTlbs s (t.setDie (dieOf n) { t.die (dieOf n) with derrq := q, derrWait := w }) := h.setDie rfl
  unfold State.postError State.postErrorFor
  exact .ite ((queued _ _).of_units rfl rfl) (queued _ _).setCore

theorem KeepsTlbs.badRead {n : Nat} {bad : Bool} : KeepsTlbs s (t.badRead n bad) := .ite h.postError h
theorem KeepsTlbs.lostWrite {n pa : Nat} : KeepsTlbs s (t.lostWrite n pa) := .ite h.postError h

/-! ## Physical memory, homes and copies -/

theorem KeepsTlbs.setPhysByte {pa : Nat} {b : Byte} : KeepsTlbs s (t.setPhysByte pa b) := by
  unfold State.setPhysByte
  exact .ite h (.ite (h.of_units rfl rfl) (.ite (h.of_units rfl rfl) h))

theorem KeepsTlbs.setPhysBytes {pa : Nat} {bs : List Byte} : KeepsTlbs s (t.setPhysBytes pa bs) := by
  induction bs generalizing t pa with
  | nil => exact h
  | cons b bs ih => exact ih h.setPhysByte

theorem KeepsTlbs.writeHome {pa : Nat} {bs : List Byte} : KeepsTlbs s (t.writeHome pa bs) :=
  h.setPhysBytes.of_units rfl rfl

theorem KeepsTlbs.setHome {k : HomeId} {x : Nat × Nat} : KeepsTlbs s (t.setHome k x) := h.of_units rfl rfl
theorem KeepsTlbs.coreRead {n : Nat} {k : HomeId} : KeepsTlbs s (t.coreRead n k) := h.of_units rfl rfl
theorem KeepsTlbs.coreWrite {n : Nat} {k : HomeId} : KeepsTlbs s (t.coreWrite n k) := by
  have invalidated : KeepsTlbs s (t.backInvalidate k) := by
    unfold State.backInvalidate
    split
    · exact .ite (h.of_units rfl rfl) h
    · exact h
  exact invalidated.of_units rfl rfl

theorem KeepsTlbs.fetchFabric {line : Nat} : KeepsTlbs s (t.fetchFabric line) := by
  unfold State.fetchFabric
  refine .setPhysBytes (.setHome ?_)
  exact h.of_units rfl rfl

theorem KeepsTlbs.permit {pa : Nat} {write : Bool} : KeepsTlbs s (t.permit pa write) := by
  have fetched : KeepsTlbs s (if t.ports.perms.any (·.1 == pa / 128) then t else t.fetchFabric (pa / 128)) := .ite h h.fetchFabric
  unfold State.permit
  exact .ite (fetched.of_units rfl rfl) (.ite (h.of_units rfl rfl) h)

theorem KeepsTlbs.gain {pa : Nat} {p : Policy} {write : Bool} : KeepsTlbs s (t.gain pa p write) := .ite h.fetchFabric h.permit

theorem KeepsTlbs.setCopy {cl : Nat} {x : Copy} : KeepsTlbs s (t.setCopy cl x) := by
  unfold State.setCopy
  dsimp only
  split
  · exact (h.setCluster (by rfl)).owe
  · exact h.setCluster rfl

theorem KeepsTlbs.fillSwm {n line : Nat} : KeepsTlbs s (t.fillSwm n line).1 := by
  unfold State.fillSwm
  dsimp only
  split
  · exact h
  · exact h.coreRead.setCopy

theorem KeepsTlbs.leasedRead {n pa len : Nat} : KeepsTlbs s (t.leasedRead n pa len).1 := by
  unfold State.leasedRead
  dsimp only
  split
  · exact h.setCore
  · exact h.setHome.setCore.setCopy

theorem KeepsTlbs.noteCode {n pa len : Nat} {user : Bool} : KeepsTlbs s (t.noteCode n pa len user) := by
  unfold State.noteCode
  split
  · exact .ite (h.of_units rfl rfl) h
  · exact h

theorem KeepsTlbs.noteStore {n was : Nat} {m : Store} {pos : Nat} {old : List Byte} : KeepsTlbs s (t.noteStore n was m pos old) :=
  h.of_units rfl rfl

theorem KeepsTlbs.putHome {pa : Nat} {p : Policy} {bs : List Byte} : KeepsTlbs s (t.putHome pa p bs) :=
  .ite (h.writeHome.of_units rfl rfl) h.writeHome

theorem KeepsTlbs.storeHome {n pa : Nat} {p : Policy} {bs : List Byte} : KeepsTlbs s (t.storeHome n pa p bs) :=
  h.coreWrite.noteStore.noteCode.putHome

theorem KeepsTlbs.readGlobal {n pa len : Nat} {p : Policy} : KeepsTlbs s (t.readGlobal n pa len p).1 := by
  unfold State.readGlobal
  dsimp only
  split
  · exact h.gain.leasedRead
  · exact h.gain.fillSwm
  · exact h.gain.coreRead

theorem KeepsTlbs.writeGlobal {n pa : Nat} {p : Policy} {bs : List Byte} : KeepsTlbs s (t.writeGlobal n pa p bs) := by
  unfold State.writeGlobal
  dsimp only
  split
  · exact h.gain.lostWrite
  · split
    · exact h.gain.lostWrite.fillSwm.noteCode.setCopy
    · exact h.gain.lostWrite.storeHome

end

end Sys2Proof.Machine
end

section
/-! Vector groups and register images in global memory (R39, R40, R178, R212): no access of a register changes the translations of the
next one. -/
namespace Sys2Proof.Machine
open Sys2Proof Sys2Proof.Claims

/-- A word whose effect may name the word itself completes as stated where its effect does. -/
theorem completes_of_ownWord {i : Hdr → Instr} {d sa sb : BitVec 7} {u : Uses} {P : State → Prop} {f : State → State}
    {eff : Instr → State → Eff} (meaning : ∀ h s, exec (i h) s = issueWord h d sa sb u (eff (i h)) s)
    (done : ∀ ins s, P s → eff ins s = .done (f s)) : Completes i d sa sb u P f := by
  intro h s ⟨inside, guard, awaits⟩ hP
  rw [meaning, issueWord_issues inside guard awaits, show eff (i h) (s.setCc _) = _ from done _ _ hP]
  rfl

/-! ## Accesses and translations -/

/-- From `s` to `t` nothing is changed but by accesses to memory: upkeep for the cores, and no change of the TLBs. -/
structure Accessed (s t : State) : Prop extends Upkeep s t, KeepsTlbs s t

theorem Accessed.trans {s t u : State} (a : Accessed s t) (b : Accessed t u) : Accessed s u :=
  ⟨a.toUpkeep.trans b.toUpkeep, a.toKeepsTlbs.trans b.toKeepsTlbs⟩

theorem State.badRead_accessed (s : State) (n : Nat) (bad : Bool) : Accessed s (s.badRead n bad) :=
  ⟨.ite (s.postError_upkeep _ _ _) (.refl s), (KeepsTlbs.refl s).badRead⟩
theorem State.readGlobal_accessed (s : State) (n pa len : Nat) (p : Policy) : Accessed s (s.readGlobal n pa len p).1 :=
  ⟨s.readGlobal_upkeep n pa len p, (KeepsTlbs.refl s).readGlobal⟩
theorem State.writeGlobal_accessed (s : State) (n pa : Nat) (p : Policy) (bs : List Byte) : Accessed s (s.writeGlobal n pa p bs) :=
  ⟨s.writeGlobal_upkeep n pa p bs, (KeepsTlbs.refl s).writeGlobal⟩

theorem readWords_accessed (n : Nat) (ws : List (Nat × BitVec 64)) (s : State) : Accessed s (readWords n ws s).1 := by
  induction ws generalizing s with
  | nil => exact ⟨.refl s, .refl s⟩
  | cons w ws ih => exact (s.readGlobal_accessed n w.1 8 (leafPolicy w.2)).trans (ih _)

theorem writeWords_accessed (n : Nat) (ws : List (Nat × BitVec 64)) (bs : List Byte) (s : State) :
    Accessed s (writeWords n ws bs s) := by
  induction ws generalizing bs s with
  | nil => exact ⟨.refl s, .refl s⟩
  | cons w ws ih => exact (s.writeGlobal_accessed n w.1 (leafPolicy w.2) (bs.take 8)).trans (ih _ _)

/-- `s` and `t` agree in whatever a translation reads (R185, R189, R190). -/
structure SameXlate (s t : State) : Prop extends KeepsTlbs s t where
  cur : t.cur = s.cur
  trap : ∀ n, (t.core n).regs.trap = (s.core n).regs.trap
  vsid : ∀ n, (t.core n).vsid = (s.core n).vsid
  xlate : ∀ n, (t.core n).xlate = (s.core n).xlate

theorem SameXlate.trans {s t u : State} (a : SameXlate s t) (b : SameXlate t u) : SameXlate s u where
  toKeepsTlbs := a.toKeepsTlbs.trans b.toKeepsTlbs
  cur := b.cur.trans a.cur
  trap n := (b.trap n).trans (a.trap n)
  vsid n := (b.vsid n).trans (a.vsid n)
  xlate n := (b.xlate n).trans (a.xlate n)

theorem Accessed.sameXlate {s t : State} (h : Accessed s t) : SameXlate s t :=
  ⟨h.toKeepsTlbs, h.cur, fun n => congrArg Regs.trap (h.regs n), fun n => by rw [h.core n], fun n => by rw [h.core n]⟩

/-- A result of variable latency is no change of what the core translates with. -/
theorem State.slipResult_sameXlate (s : State) (w : Wr) : SameXlate s (s.setCc (s.cc.slipResult w)) := by
  have kept := s.cc.besides_wr w
  have field {α : Type} (f : Core → α) (same : f (s.cc.slipResult w) = f s.cc) (n : Nat) :
      f ((s.setCc (s.cc.slipResult w)).core n) = f (s.core n) := by
    by_cases hn : n = s.cur
    · rwa [hn, State.core_cur_setCc]
    · rw [State.setCc, State.core_setCore_ne _ _ _ _ hn]
  exact ⟨(KeepsTlbs.refl s).setCore, rfl, field (·.regs.trap) (congrArg (·.regs.trap) kept),
    field (·.vsid) (congrArg (·.vsid) kept), field (·.xlate) (congrArg (·.xlate) kept)⟩

theorem SameXlate.xlateChecked {s t : State} (h : SameXlate s t) (n : Nat) (va : Word) (len align : Nat) (r : Right) :
    t.xlateChecked n va len align r = s.xlateChecked n va len align r := by
  simp only [State.xlateChecked, State.xlate, h.xlate, h.vsid, h.trap, h.l1, h.l2]

theorem SameXlate.xlateWords {s t : State} (h : SameXlate s t) (n : Nat) (va : Word) (r : Right) (k : Nat) :
    t.xlateWords n va r k = s.xlateWords n va r k := by
  induction k generalizing va with
  | zero => rfl
  | succ k ih => simp only [State.xlateWords, h.xlateChecked, ih]

/-- What the current core of `s` translates is translated alike in `t`. -/
theorem SameXlate.xlateWords_cur {s t : State} (h : SameXlate s t) (va : Word) (r : Right) (k : Nat) :
    t.xlateWords t.cur va r k = s.xlateWords s.cur va r k := by
  rw [h.cur, h.xlateWords]

/-! ## The registers of a group, one after the other -/

/-- One register of a group is loaded from its words. -/
def gloadReg (d : VReg) (ws : Nat → List (Nat × BitVec 64)) (tg : Core → Nat → VData → Tag) (s : State) (i : Nat) : State :=
  let q := readWords s.cur (ws i) s
  let bits := ofBytes 1024 q.2.1
  let s2 := q.1.badRead q.1.cur q.2.2
  s2.setCc (s2.cc.slipResult (.v (groupReg d i) ⟨bits, if q.2.2 then poisonTag else tg q.1.cc i bits⟩))

/-- One register of a group is stored to its words. -/
def gstoreReg (b : VReg) (ws : Nat → List (Nat × BitVec 64)) (s : State) (i : Nat) : State :=
  writeWords s.cur (ws i) (toBytes 128 (s.cc.rdV (groupReg b i)).bits) s

theorem gloadReg_sameXlate (d : VReg) (ws : Nat → List (Nat × BitVec 64)) (tg : Core → Nat → VData → Tag) (s : State) (i : Nat) :
    SameXlate s (gloadReg d ws tg s i) :=
  ((readWords_accessed s.cur (ws i) s).trans (State.badRead_accessed _ _ _)).sameXlate.trans (State.slipResult_sameXlate _ _)

theorem gstoreReg_accessed (b : VReg) (ws : Nat → List (Nat × BitVec 64)) (s : State) (i : Nat) : Accessed s (gstoreReg b ws s i) :=
  writeWords_accessed _ _ _ s

theorem Accessed.rdV {s t : State} (h : Accessed s t) (r : VReg) : t.cc.rdV r = s.cc.rdV r := by
  rw [State.cc, Core.rdV, h.cur, h.regs, State.cc, Core.rdV]

/-- A group whose words are all translated is loaded register by register. -/
theorem gloadGroup_passes (ins : Instr) (a : Word) (d : VReg) (tag : Tag) (tw : Option (Word × Bool))
    (ws : Nat → List (Nat × BitVec 64)) (left m : Nat) (s : State)
    (ok : ∀ i, m ≤ i → i < m + left → s.xlateWords s.cur (a + BitVec.ofNat 64 (128 * i)) .read 16 = .ok (ws i)) :
    gloadGroup ins a d tag tw left m s = .done ((List.range' m left).foldl (gloadReg d ws (groupTag tag tw)) s) := by
  induction left generalizing m s with
  | zero => rfl
  | succ left ih =>
    have next (i : Nat) (lo : m + 1 ≤ i) (hi : i < m + 1 + left) :
        (gloadReg d ws (groupTag tag tw) s m).xlateWords (gloadReg d ws (groupTag tag tw) s m).cur
          (a + BitVec.ofNat 64 (128 * i)) .read 16 = .ok (ws i) :=
      ((gloadReg_sameXlate ..).xlateWords_cur ..).trans (ok i (by omega) (by omega))
    rw [gloadGroup, ok m le_rfl (by omega), List.range'_succ, List.foldl_cons, ← ih (m + 1) _ next]
    cases tw <;> rfl

/-- A group whose words are all translated and whose sources are not poisoned is stored register by register; then the tag word of an
image stands to be written. -/
theorem gstoreGroup_passes (ins : Instr) (a : Word) (b : VReg) (n : Nat) (img : Option (Nat × BitVec 64))
    (ws : Nat → List (Nat × BitVec 64)) (left m : Nat) (s : State)
    (ok : ∀ i, m ≤ i → i < m + left → s.xlateWords s.cur (a + BitVec.ofNat 64 (128 * i)) .write 16 = .ok (ws i))
    (sound : ∀ i, m ≤ i → i < m + left → isPoison (s.cc.rdV (groupReg b i)).tag = false) :
    gstoreGroup ins a b n img left m s =
      gstoreGroup ins a b n img 0 (m + left) ((List.range' m left).foldl (gstoreReg b ws) s) := by
  induction left generalizing m s with
  | zero => rfl
  | succ left ih =>
    have stored := gstoreReg_accessed b ws s m
    have ok' (i : Nat) (lo : m + 1 ≤ i) (hi : i < m + 1 + left) :
        (gstoreReg b ws s m).xlateWords (gstoreReg b ws s m).cur (a + BitVec.ofNat 64 (128 * i)) .write 16 = .ok (ws i) :=
      (stored.sameXlate.xlateWords_cur ..).trans (ok i (by omega) (by omega))
    have sound' (i : Nat) (lo : m + 1 ≤ i) (hi : i < m + 1 + left) :
        isPoison ((gstoreReg b ws s m).cc.rdV (groupReg b i)).tag = false := by
      rw [stored.rdV]
      exact sound i (by omega) (by omega)
    rw [gstoreGroup, if_neg (by simp [sound m le_rfl (by omega)]), ok m le_rfl (by omega), List.range'_succ, List.foldl_cons]
    dsimp only
    rw [show m + (left + 1) = m + 1 + left by omega, ← ih (m + 1) _ ok' sound']
    rfl

end Sys2Proof.Machine

namespace Sys2Proof
open Machine Claims

/-- Settles O13: no stream is named and no command holds the ranges, so that each form does its registers one after the other, by
induction on those left; no load and no store changes what the words of the next register are translated with. -/
theorem globalVectors : Obligations.GlobalVectors := by
  intro d v a tag x imm m ws wt
  dsimp only
  simp only [← List.range'_eq_map_range]
  refine ⟨?load, ?loadImage, ?store, ?storeImage⟩
  case load =>
    refine completes_of_ownWord (eff := fun ins => gldVEff ins tag d a x imm) (fun h s => exec_gldV h tag d a x imm s) ?_
    rintro ins s ⟨unbound, progress, free, ok⟩
    have le := progress ▸ s.cc.progress_le (groupSize x)
    rw [gldVEff, noStream_groupNums unbound]
    dsimp only
    rw [progress, Core.addr_eq, groupHold_free free]
    exact gloadGroup_passes ins _ d tag none ws _ m s fun i lo hi => ok i (by omega) lo
  case loadImage =>
    refine completes_of_ownWord (eff := fun ins => gldImgEff ins d a x imm) (fun h s => exec_gldImg h d a x imm s) ?_
    rintro ins s ⟨⟨unbound, progress, free, ok⟩, okTags⟩
    have le := progress ▸ s.cc.progress_le (groupSize x)
    have tagsRead := ((s.badRead_accessed s.cur (s.readBad s.cur wt.1 8 (leafPolicy wt.2))).trans
      (State.readGlobal_accessed _ s.cur wt.1 8 (leafPolicy wt.2))).sameXlate
    rw [gldImgEff, noStream_groupNums unbound]
    dsimp only
    rw [progress, Core.addr_eq, groupHold_free free, okTags]
    exact gloadGroup_passes ins _ d 0 (some _) ws _ m _ fun i lo hi => (tagsRead.xlateWords_cur ..).trans (ok i (by omega) lo)
  case store =>
    refine completes_of_ownWord (eff := fun ins => gstVEff ins a v x imm) (fun h s => exec_gstV h a v x imm s) ?_
    rintro ins s ⟨⟨unbound, progress, free, ok⟩, sound⟩
    have le := progress ▸ s.cc.progress_le (groupSize x)
    rw [gstVEff, noStream_groupNums unbound]
    dsimp only
    rw [progress, Core.addr_eq, groupHold_free free]
    exact gstoreGroup_passes ins _ v _ none ws _ m s (fun i lo hi => ok i (by omega) lo) fun i lo hi => sound i (by omega) lo
  case storeImage =>
    refine completes_of_ownWord (eff := fun ins => gstImgEff ins a v x imm) (fun h s => exec_gstImg h a v x imm s) ?_
    rintro ins s ⟨⟨unbound, progress, free, ok⟩, sound, okTags⟩
    have le := progress ▸ s.cc.progress_le (groupSize x)
    rw [gstImgEff, noStream_groupNums unbound]
    dsimp only
    rw [progress, Core.addr_eq, groupHold_free free, okTags]
    exact gstoreGroup_passes ins _ v _ (some wt) ws _ m s (fun i lo hi => ok i (by omega) lo) fun i lo hi => sound i (by omega) lo

end Sys2Proof
end

section
/-! The copies of lines in a cluster's L1D (R199, R203, R204): what an operation on one leaves of the others and of the rest. -/
namespace Sys2Proof.Machine
open Sys2Proof

/-! ## The copy of a line -/

theorem Cluster.copy_eq_some {c : Cluster} {line : Nat} {swm : Bool} {x : Copy} (h : c.copy line swm = some x) :
    x.line = line ∧ x.swm = swm := by
  simpa using List.find?_some h

/-- What is put in the L1D is the copy of its line. -/
theorem State.copy_setCopy (s : State) (cl : Nat) {x : Copy} {line : Nat} {swm : Bool} (hl : x.line = line) (hs : x.swm = swm) :
    ((s.setCopy cl x).cluster cl).copy line swm = some x := by
  subst hl hs
  unfold State.setCopy
  dsimp only
  split <;> simp [State.owe, State.cluster, State.setCluster, Tab.get_set_self, Cluster.copy]

/-- A line has no copy after its copy is dropped. -/
theorem State.copy_dropCopy (s : State) (cl line : Nat) (swm : Bool) :
    ((s.dropCopy cl line swm).cluster cl).copy line swm = none := by
  rw [State.dropCopy, State.cluster_setCluster, Cluster.copy, List.find?_eq_none]
  intro x hx
  simpa only [Bool.not_eq_true, Bool.not_eq_true'] using (List.mem_filter.mp hx).2

/-! ## What stays -/

theorem State.setCopy_frame (s : State) (cl : Nat) (x : Copy) :
    (s.setCopy cl x).hbm = s.hbm ∧ (s.setCopy cl x).homes = s.homes ∧ ∀ k, (s.setCopy cl x).home k = s.home k := by
  unfold State.setCopy
  dsimp only
  split <;> exact ⟨rfl, rfl, fun _ => rfl⟩

theorem State.setCopy_timesOnly (s : State) (n cl : Nat) (x : Copy) : TimesOnly n s (s.setCopy cl x) := by
  unfold State.setCopy
  dsimp only
  split <;> exact ⟨fun _ => rfl, fun _ _ => rfl, rfl, rfl, rfl⟩

theorem TimesOnly.setLt {n : Nat} {s t : State} (h : TimesOnly n s t) (lt : Nat) :
    TimesOnly n s (t.setCore n { t.core n with lt := lt }) := by
  refine h.trans ⟨fun c => ?_, fun c hc => State.core_setCore_ne _ _ _ _ hc, rfl, rfl, rfl⟩
  by_cases hc : c = n
  · rw [hc, State.core_setCore]
  · rw [State.core_setCore_ne _ _ _ _ hc]

theorem TimesOnly.setHome {n : Nat} {s t : State} (h : TimesOnly n s t) (k : HomeId) (x : Nat × Nat) :
    TimesOnly n s (t.setHome k x) := h.trans ⟨fun _ => rfl, fun _ _ => rfl, rfl, rfl, rfl⟩

theorem State.coreRead_timesOnly (s : State) (n : Nat) (k : HomeId) : TimesOnly n s (s.coreRead n k) :=
  ((TimesOnly.refl n s).setHome _ _).setLt _

theorem State.fillSwm_timesOnly (s : State) (n line : Nat) : TimesOnly n s (s.fillSwm n line).1 := by
  unfold State.fillSwm
  dsimp only
  split
  · exact .refl n s
  · exact (s.coreRead_timesOnly n _).trans (State.setCopy_timesOnly _ n _ _)

theorem State.leasedRead_timesOnly (s : State) (n pa len : Nat) : TimesOnly n s (s.leasedRead n pa len).1 := by
  unfold State.leasedRead
  dsimp only
  split
  · exact (TimesOnly.refl n s).setLt _
  · exact (((TimesOnly.refl n s).setHome _ _).setLt _).trans (State.setCopy_timesOnly _ n _ _)

end Sys2Proof.Machine
end

section
/-! Range maintenance and prefetch (R204, R214, R215): a line, the pages of a range one after the other, and the word. -/
namespace Sys2Proof.Machine
open Sys2Proof Sys2Proof.Claims

/-! ## One line of a range (R204, R214) -/

section
variable {s : State} {n line : Nat} {op : Maint} {x : Copy}

/-- The state in which a write-back has merged the dirty bytes of a copy at its line's home. -/
def State.writtenBack (s : State) (n : Nat) (x : Copy) : State :=
  if x.dirty = 0 then s else
    let r := s.mergeCopy x (s.core n).lt
    r.1.setCore n { r.1.core n with lt := r.2 }

theorem maintLine_none (h : (s.cluster (clusterOf n)).copy line true = none) : s.maintLine n line op = s := by
  rw [State.maintLine, h]
theorem maintLine_inv (h : (s.cluster (clusterOf n)).copy line true = some x) :
    s.maintLine n line .inv = s.dropCopy (clusterOf n) line true := by
  rw [State.maintLine, h]
theorem maintLine_wb (h : (s.cluster (clusterOf n)).copy line true = some x) :
    s.maintLine n line .wb = (s.writtenBack n x).setCopy (clusterOf n) { x with dirty := 0 } := by
  rw [State.maintLine, h]
  rfl
theorem maintLine_wbi (h : (s.cluster (clusterOf n)).copy line true = some x) :
    s.maintLine n line .wbi = (s.writtenBack n x).dropCopy (clusterOf n) line true := by
  rw [State.maintLine, h]
  rfl

end

/-! ## A line's maintenance leaves the translations as they are -/

theorem Accessed.refl (s : State) : Accessed s s := ⟨.refl s, .refl s⟩

theorem State.writeTime_accessed (s : State) (lt : Nat) (k : HomeId) : Accessed s (s.writeTime lt k).1 := by
  have tlbs : KeepsTlbs s (s.backInvalidate k) := by
    unfold State.backInvalidate
    split
    · exact .ite ((KeepsTlbs.refl s).of_units rfl rfl) (.refl s)
    · exact .refl s
  exact ⟨(s.backInvalidate_upkeep k).trans (State.setHome_upkeep ..), tlbs.setHome⟩

theorem Accessed.setPhysBytes {s t : State} (h : Accessed s t) (pa : Nat) (bs : List Byte) : Accessed s (t.setPhysBytes pa bs) :=
  ⟨h.toUpkeep.trans (State.setPhysBytes_upkeep ..), h.toKeepsTlbs.setPhysBytes⟩
theorem Accessed.setBad {s t : State} (h : Accessed s t) (bad : List Nat) : Accessed s { t with hbmBad := bad } :=
  ⟨h.toUpkeep.trans ⟨rfl, fun _ => rfl, rfl, fun _ => rfl, fun _ => rfl⟩, h.toKeepsTlbs.of_units rfl rfl⟩

theorem State.mergeCopy_accessed (s : State) (x : Copy) (lt : Nat) : Accessed s (s.mergeCopy x lt).1 := by
  have permitted : Accessed s (s.permit (128 * x.line) true) := ⟨s.permit_upkeep _ _, (KeepsTlbs.refl s).permit⟩
  exact ((permitted.trans (State.writeTime_accessed ..)).setPhysBytes ..).setBad _

theorem State.writtenBack_accessed (s : State) (n : Nat) (x : Copy) : Accessed s (s.writtenBack n x) := by
  unfold State.writtenBack
  split
  · exact .refl s
  · exact (s.mergeCopy_accessed x _).trans ⟨.setCore rfl, (KeepsTlbs.refl _).setCore⟩

theorem State.maintLine_accessed (s : State) (n line : Nat) (op : Maint) : Accessed s (s.maintLine n line op) := by
  have dropped (t : State) : Accessed t (t.dropCopy (clusterOf n) line true) :=
    ⟨t.setCluster_upkeep _ _, (KeepsTlbs.refl t).setCluster rfl⟩
  cases copy : (s.cluster (clusterOf n)).copy line true with
  | none => rw [maintLine_none copy]; exact .refl s
  | some x =>
    cases op with
    | inv => rw [maintLine_inv copy]; exact dropped s
    | wb =>
      rw [maintLine_wb copy]
      exact (s.writtenBack_accessed n x).trans ⟨State.setCopy_upkeep .., (KeepsTlbs.refl _).setCopy⟩
    | wbi => rw [maintLine_wbi copy]; exact (s.writtenBack_accessed n x).trans (dropped _)

/-! ## The pages of a range (R214) -/

/-- The part of a range in the 64 KiB granule of `va`: on a software-managed page, the maintenance of its lines. -/
def maintPage (op : Maint) (hi n : Nat) (x : TlbEntry) (va : Nat) (s : State) : State :=
  if leafPolicy x.leaf = .swm then
    (List.range ((min hi ((va / 65536 + 1) * 65536) - 1) / 128 - va / 128 + 1)).foldl
      (fun t i => t.maintLine n (leafPa x.level x.leaf va / 128 + i) op) s
  else s

/-- The entry `x` translates `va` for the current core, in the L1 TLB of its cluster, and grants the right of the form (R214). -/
def Mapped (s : State) (op : Maint) (x : TlbEntry) (va : Nat) : Prop :=
  tlbFind (s.cluster (clusterOf s.cur)).l1tlb s.cc.vsid va = some x ∧
    leafOk x.leaf (if op = .wb then .read else .write) (!s.cc.regs.trap.sup) = true

theorem maintPage_accessed (op : Maint) (hi n : Nat) (x : TlbEntry) (va : Nat) (s : State) :
    Accessed s (maintPage op hi n x va s) := by
  unfold maintPage
  split
  · exact List.foldlRecOn _ _ (Accessed.refl s) fun t ok i _ => ok.trans (t.maintLine_accessed ..)
  · exact .refl s

theorem SameXlate.mapped {s t : State} {op : Maint} {x : TlbEntry} {va : Nat} (h : SameXlate s t) (mapped : Mapped s op x va) :
    Mapped t op x va := by
  rw [Mapped, State.cc, h.cur, h.l1, h.vsid, h.trap]
  exact mapped
theorem SameXlate.xlate_cur {s t : State} (h : SameXlate s t) (on : s.cc.xlate = true) : t.cc.xlate = true := by
  rw [State.cc, h.cur, h.xlate]
  exact on

/-- A mapped page of a range is maintained, and the range goes on at the next granule. -/
theorem maintPages_mapped {op : Maint} {hi k va : Nat} {x : TlbEntry} {s : State} (on : s.cc.xlate = true) (below : va < hi)
    (mapped : Mapped s op x va) :
    maintPages op hi (k + 1) va s = maintPages op hi k ((va / 65536 + 1) * 65536) (maintPage op hi s.cur x va s) := by
  obtain ⟨entry, right⟩ := mapped
  have page : s.translate s.cur va = .page x.level x.leaf := by
    simp only [State.translate, show s.core s.cur = s.cc from rfl, entry]
  rw [maintPages, if_neg (by omega)]
  dsimp only
  rw [if_neg (by simp [on]), page]
  dsimp only
  rw [if_neg (by simp [right]), maintPage, ite_not]
  split <;> rfl

/-- A range whose pages are all mapped is maintained page by page: `va` gives the address at which the part of each page begins. -/
theorem maintPages_passes {op : Maint} {hi : Nat} (va : Nat → Nat) (e : Nat → TlbEntry)
    (next : ∀ j, va (j + 1) = (va j / 65536 + 1) * 65536) (left m k : Nat) (s : State) (on : s.cc.xlate = true)
    (fuel : left ≤ k) (last : hi ≤ va (m + left)) (below : ∀ j, m ≤ j → j < m + left → va j < hi)
    (mapped : ∀ j, m ≤ j → j < m + left → Mapped s op (e j) (va j)) :
    maintPages op hi k (va m) s = .done ((List.range' m left).foldl (fun t j => maintPage op hi s.cur (e j) (va j) t) s) := by
  induction left generalizing m k s with
  | zero =>
    cases k with
    | zero => rfl
    | succ k => exact if_pos last
  | succ left ih =>
    obtain ⟨k, rfl⟩ : ∃ k', k = k' + 1 := ⟨k - 1, by omega⟩
    have same := (maintPage_accessed op hi s.cur (e m) (va m) s).sameXlate
    rw [maintPages_mapped on (below m le_rfl (by omega)) (mapped m le_rfl (by omega)), ← next,
      ih (m + 1) k _ (same.xlate_cur on) (by omega) (by rwa [show m + 1 + left = m + (left + 1) by omega])
        (fun j lo hi' => below j (by omega) (by omega)) (fun j lo hi' => same.mapped (mapped j (by omega) (by omega))),
      List.range'_succ, List.foldl_cons, same.cur]

/-! ## The pages that a range covers -/

/-- Where the part of a range in its page `j` begins. -/
def rangeVa (base j : Nat) : Nat := if j = 0 then base else (base / 65536 + j) * 65536
/-- How many pages a range has a part in. -/
def rangePages (base len : Nat) : Nat := (base % 65536 + len + 65535) / 65536

theorem rangeVa_page (base j : Nat) : rangeVa base j / 65536 = base / 65536 + j := by
  unfold rangeVa
  split <;> omega
theorem rangeVa_succ (base j : Nat) : rangeVa base (j + 1) = (rangeVa base j / 65536 + 1) * 65536 := by
  rw [rangeVa_page, rangeVa, if_neg (by omega), Nat.add_assoc]

theorem rangeVa_below {base len j : Nat} (nonempty : len ≠ 0) (hj : j < rangePages base len) : rangeVa base j < base + len := by
  unfold rangePages at hj
  unfold rangeVa
  split <;> omega
theorem rangeVa_end (base len : Nat) : base + len ≤ rangeVa base (rangePages base len) := by
  unfold rangeVa rangePages
  split <;> omega

/-! ## The word -/

section
variable {op : Maint} {a b : GReg} {s : State}

theorem maintEff_empty (empty : (s.cc.rdG b).toNat = 0) : maintEff op a b s = .done s := if_pos empty
theorem maintEff_bounds (nonempty : (s.cc.rdG b).toNat ≠ 0) (free : s.rangeHeld (s.cc.rdG a) (s.cc.rdG b).toNat = false)
    (beyond : 2 ^ 56 < (s.cc.rdG a).toNat + (s.cc.rdG b).toNat) : maintEff op a b s = .trap s .bounds (s.cc.rdG a) 0 := by
  rw [maintEff, if_neg nonempty, if_neg (by simp [free]), if_pos beyond]

theorem maintEff_mapped (e : Nat → TlbEntry) (nonempty : (s.cc.rdG b).toNat ≠ 0)
    (inside : (s.cc.rdG a).toNat + (s.cc.rdG b).toNat ≤ 2 ^ 56) (free : s.rangeHeld (s.cc.rdG a) (s.cc.rdG b).toNat = false)
    (on : s.cc.xlate = true)
    (mapped : ∀ j < rangePages (s.cc.rdG a).toNat (s.cc.rdG b).toNat, Mapped s op (e j) (rangeVa (s.cc.rdG a).toNat j)) :
    maintEff op a b s = .done ((List.range (rangePages (s.cc.rdG a).toNat (s.cc.rdG b).toNat)).foldl (fun t j =>
      maintPage op ((s.cc.rdG a).toNat + (s.cc.rdG b).toNat) s.cur (e j) (rangeVa (s.cc.rdG a).toNat j) t) s) := by
  rw [maintEff, if_neg nonempty, if_neg (by simp [free]), if_neg (by omega), List.range_eq_range']
  refine maintPages_passes (rangeVa (s.cc.rdG a).toNat) e (rangeVa_succ _) _ 0 _ s on ?_ ?_ (fun j _ hj => ?_) fun j _ hj => ?_
  · unfold rangePages
    omega
  · rw [Nat.zero_add]
    exact rangeVa_end ..
  · exact rangeVa_below nonempty (by omega)
  · exact mapped j (by omega)

end

/-- The bytes that a write-back writes: the dirty ones are the copy's, the others the home's. -/
theorem Copy.merged_getD (x : Copy) (home : BitVec 1024) {i : Nat} (hi : i < 128) :
    (x.merged home).getD i 0 = if x.dirty.getLsbD i then x.data.extractLsb' (8 * i) 8 else home.extractLsb' (8 * i) 8 := by
  simp [Copy.merged, List.getD_eq_getElem?_getD, hi]

/-! ## PREF (R215) -/

/-- What PREF brings into the L1D leaves its core, once its logical time is set back, and memory as they were. -/
theorem prefetched_frame {s t : State} (times : TimesOnly s.cur s t) (cur : t.cur = s.cur) :
    let u := t.setCc { t.cc with lt := s.cc.lt }
    u.cc = s.cc ∧ u.hbm = s.hbm ∧ u.fabric = s.fabric := by
  refine ⟨?_, times.hbm, times.fabric⟩
  rw [State.cc_setCc, State.cc, cur, times.core]
  rfl

/-- The effect of PREF. -/
def prefEff (a : GReg) (l2 : Bool) (imm : BitVec 32) (s : State) : Eff :=
  let n := s.cur
  let c := s.cc
  let x := s.cc.addr a imm
  let line : Word := x &&& ~~~127#64
  if decide (2 ^ 56 ≤ x.toNat) || !c.xlate then .done s
  else match s.translate n x.toNat with
    | .fault _ _ => .done s
    | .page level leaf =>
      let pa := leafPa level leaf x.toNat
      if !leafOk leaf .read (!c.regs.trap.sup) || !physOk pa then .done s
      else if s.rangeHeld line 128 then holdOn s line 128
      else if l2 then .done s
      else
        let s' := match homePolicy pa (leafPolicy leaf) with
          | .leased => (s.leasedRead n pa 1).1
          | .swm => (s.fillSwm n (pa / 128)).1
          | .uc => s
        .done (s'.setCc { s'.cc with lt := c.lt })

theorem exec_pref_prefEff (h : Hdr) (a : GReg) (l2 : Bool) (imm : BitVec 32) (s : State) :
    exec (.pref h a l2 imm) s = issueWord h 0 0 0 { srcs := [opG a] } (prefEff a l2 imm) s := rfl

theorem prefEff_done {a : GReg} {imm : BitVec 32} {s : State} (l2 : Bool)
    (free : s.rangeHeld ((s.cc.rdG a + sx imm) &&& ~~~127#64) 128 = false) :
    ∃ t, prefEff a l2 imm s = .done t ∧ (t.cc = s.cc ∧ t.hbm = s.hbm ∧ t.fabric = s.fabric) ∧ (l2 = true → t = s) := by
  have nothing : ∃ t, Eff.done s = .done t ∧ (t.cc = s.cc ∧ t.hbm = s.hbm ∧ t.fabric = s.fabric) ∧ (l2 = true → t = s) :=
    ⟨s, rfl, ⟨rfl, rfl, rfl⟩, fun _ => rfl⟩
  rw [prefEff]
  dsimp only
  split
  · exact nothing
  split
  · exact nothing
  next level leaf page =>
    split
    · exact nothing
    rw [if_neg (by rw [Core.addr_eq, free]; decide)]
    split
    · exact nothing
    next l1 =>
      refine ⟨_, rfl, ?_, fun h => absurd h l1⟩
      split
      · exact prefetched_frame (s.leasedRead_timesOnly ..) (s.leasedRead_upkeep ..).cur
      · exact prefetched_frame (s.fillSwm_timesOnly ..) (s.fillSwm_upkeep ..).cur
      · exact prefetched_frame (.refl _ s) rfl

end Sys2Proof.Machine

namespace Sys2Proof
open Machine Claims

/-- R214, R215: a range page by page, each of its pages by the entry that translates it; and PREF by the policy of its line. -/
theorem rangesAndPrefetch : Claims.RangesAndPrefetch := by
  intro a b l2 imm e u base len va next pages maintains
  have form {i : Hdr → Instr} {op : Maint}
      (meaning : ∀ h s, exec (i h) s = issueWord h 0 0 0 { srcs := [opG a, opG b] } (maintEff op a b) s) : maintains i op := by
    refine ⟨completes_of_issueWord meaning fun s empty => maintEff_empty empty,
      traps_of_issueWord meaning fun s ⟨nonempty, free, beyond⟩ => maintEff_bounds nonempty free beyond,
      completes_of_issueWord meaning fun s ⟨nonempty, inside, free, on, mapped⟩ => ?_⟩
    rw [maintEff_mapped e nonempty inside free on mapped]
    simp only [maintPage, rangeVa_page]
    rfl
  refine ⟨form fun h s => exec_rwb h a b s, form fun h s => exec_rinv h a b s, form fun h s => exec_rwbi h a b s, ?_⟩
  intro h s issues s1 free
  obtain ⟨t, done, frame, same⟩ := prefEff_done l2 free
  obtain ⟨core, hbm, fabric⟩ := frame
  exact ⟨t, (exec_pref_prefEff h a l2 imm s).trans (issueWord_done issues done), core, hbm, fabric, same⟩

/-- R204, R214: a line by whether it has a copy, and by the form. -/
theorem lineMaintenance : Claims.LineMaintenance := by
  intro s n line op cl
  refine ⟨maintLine_none, fun x copy => ?_⟩
  rw [maintLine_inv copy, maintLine_wb copy, maintLine_wbi copy]
  obtain ⟨same, swm⟩ := Cluster.copy_eq_some copy
  refine ⟨rfl, State.copy_dropCopy .., State.copy_dropCopy .., fun clean => ?_, ⟨_, State.copy_setCopy _ _ same swm, rfl, rfl⟩,
    fun i hi => x.merged_getD _ hi⟩
  rw [(State.setCopy_frame ..).1, State.writtenBack, if_pos clean]

/-- Settles O44: a range by its pages, a page by its lines, and a line by its copy. -/
theorem rangesAndLines : Obligations.RangesAndLines := ⟨rangesAndPrefetch, lineMaintenance⟩

end Sys2Proof
end

section
/-! Scalar accesses to global memory (R190, R211, R216), and what the page policies do on the package's own memory (R199, R203 to
R205, R213). -/
namespace Sys2Proof.Machine
open Sys2Proof Sys2Proof.Claims

/-! ## Scalar accesses -/

/-- A word whose effect may name the word itself takes the exception as stated where its effect does. -/
theorem traps_of_ownWord {i : Hdr → Instr} {d sa sb : BitVec 7} {u : Uses} {P : State → Prop} {k : Cause} {x : State → Word}
    {eff : Instr → State → Eff} (meaning : ∀ h s, exec (i h) s = issueWord h d sa sb u (eff (i h)) s)
    (traps : ∀ ins s, P s → eff ins s = .trap s k (x s) 0) : Traps i d sa sb u P k x := by
  intro h s issues hP
  rw [meaning, issueWord_traps issues (traps _ _ hP)]
  rfl

/-- The core that waits for a walk of its access, of which it has completed nothing; XPROG shows this outside handlers (R40, R190). -/
def Core.walking (c : Core) (va : Nat) (i : Option Instr) : Core :=
  { if c.regs.trap.exl then c else c.setTrap fun t => { t with xprog := 0 } with wait := .walk va, access := i, moved := 0 }

/-- A word whose access waits for a walk sleeps as it issued, where no yield request is pending. -/
theorem finish_waitWalk {h : Hdr} {t va : Nat} {i : Option Instr} {s : State} (inside : s.cc.tmg.inside = none)
    (stays : s.cc.yieldReq = false) : finish h t (.sleep (s.waitWalk va i 0)) =
      .next ((s.setCc { s.cc.walking va i with waitStall := h.stall.toNat }).owe (.pageWalk (dieOf s.cur) s.cc.vsid (va / 65536))) := by
  have asleep : s.waitWalk va i 0 = (s.setCc (s.cc.walking va i)).owe (.pageWalk (dieOf s.cur) s.cc.vsid (va / 65536)) := by
    unfold State.waitWalk Core.walking
    dsimp only
    split <;> rfl
  have core : (s.waitWalk va i 0).cc = s.cc.walking va i := by rw [asleep]; exact State.cc_setCc s _
  have timing : (s.cc.walking va i).tmg = s.cc.tmg := by unfold Core.walking; split <;> rfl
  have asks : (s.cc.walking va i).yieldReq = s.cc.yieldReq := by unfold Core.walking; split <;> rfl
  rw [finish_sleep (by rw [core, timing, inside]) (by rw [core, asks, stays]), core, asleep]
  exact congrArg (fun t : State => Host.Outcome.next (t.owe (.pageWalk (dieOf s.cur) s.cc.vsid (va / 65536)))) (s.setCc_setCc _ _)

section
variable {ins : Instr} {d a b : GReg} {sz : BitVec 2} {ext : Bool} {imm : BitVec 32} {s : State}

theorem gldEff_fails {e : XErr} (free : s.rangeHeld (s.cc.rdG a + sx imm) (1 <<< sz.toNat) = false)
    (fails : s.xlateChecked s.cur (s.cc.rdG a + sx imm) (1 <<< sz.toNat) (1 <<< sz.toNat) .read = .error e) :
    gldEff ins d a sz ext imm s = xerr s ins 0 e := by
  rw [gldEff]
  dsimp only
  rw [Core.addr_eq, sizeOf_eq, if_neg (ne_true_of_eq_false free), fails]

theorem gldEff_loads {pa : Nat} {leaf : BitVec 64} (reaches : Reaches s (s.cc.rdG a + sx imm) (1 <<< sz.toNat) .read pa leaf)
    (sound : s.readBad s.cur pa (1 <<< sz.toNat) (leafPolicy leaf) = false) : gldEff ins d a sz ext imm s =
      let r := s.readGlobal s.cur pa (1 <<< sz.toNat) (leafPolicy leaf)
      .done (r.1.setCc (r.1.cc.slipResult (.g d (extendLoad sz ext r.2)))) := by
  obtain ⟨free, ok⟩ := reaches
  rw [gldEff]
  dsimp only
  rw [Core.addr_eq, sizeOf_eq, if_neg (ne_true_of_eq_false free), ok]
  exact if_neg (ne_true_of_eq_false sound)

theorem gstEff_fails {e : XErr} (free : s.rangeHeld (s.cc.rdG a + sx imm) (1 <<< sz.toNat) = false)
    (fails : s.xlateChecked s.cur (s.cc.rdG a + sx imm) (1 <<< sz.toNat) (1 <<< sz.toNat) .write = .error e) :
    gstEff ins a b sz imm s = xerr s ins 0 e := by
  rw [gstEff, Core.addr_eq, sizeOf_eq, if_neg (ne_true_of_eq_false free), fails]

theorem gstEff_stores {pa : Nat} {leaf : BitVec 64} (reaches : Reaches s (s.cc.rdG a + sx imm) (1 <<< sz.toNat) .write pa leaf) :
    gstEff ins a b sz imm s =
      .done (s.writeGlobal s.cur pa (leafPolicy leaf) (toBytes (1 <<< sz.toNat) (s.cc.rdG b))) := by
  obtain ⟨free, ok⟩ := reaches
  rw [gstEff, Core.addr_eq, sizeOf_eq, if_neg (ne_true_of_eq_false free), ok]

end

/-! ## An access to the package's own stacks (R183, R516) -/

section
variable {s : State} {n pa len : Nat} (own : pa < Config.hbmBytes)
include own

theorem isFabric_stack : isFabric pa = false := by
  have : Config.hbmBytes ≤ 2 ^ 51 := by decide
  simp only [isFabric, decide_eq_false_iff_not]
  omega

theorem homePolicy_stack (p : Policy) : homePolicy pa p = p := by simp [homePolicy, isFabric_stack own]

theorem State.gain_read_stack (p : Policy) : s.gain pa p false = s := by simp [State.gain, State.permit, isFabric_stack own]
theorem State.gain_write_stack (inside : s.exported pa 1 = false) (p : Policy) : s.gain pa p true = s := by
  simp [State.gain, State.permit, isFabric_stack own, inside]

theorem State.readGlobal_uc : s.readGlobal n pa len .uc = (s.coreRead n (.line (pa / 128)), s.physBytes pa len) := by
  rw [State.readGlobal, State.gain_read_stack own, homePolicy_stack own]
theorem State.readGlobal_leased : s.readGlobal n pa len .leased = s.leasedRead n pa len := by
  rw [State.readGlobal, State.gain_read_stack own, homePolicy_stack own]
theorem State.readGlobal_swm : s.readGlobal n pa len .swm =
    ((s.fillSwm n (pa / 128)).1, copyBytes (s.fillSwm n (pa / 128)).2.data (pa % 128) len) := by
  rw [State.readGlobal, State.gain_read_stack own, homePolicy_stack own]

end

/-! ## Reads from copies and of homes (R199, R203) -/

theorem HomeTab.get_set_self (d : Nat × Nat) (t : List (HomeId × (Nat × Nat))) (h : HomeId) (x : Nat × Nat) :
    HomeTab.get d (HomeTab.set t h x) h = x := by
  induction t with
  | nil => simp [HomeTab.set, HomeTab.get]
  | cons e t ih =>
    rw [HomeTab.set]
    split
    · simp [HomeTab.get]
    next other => rw [HomeTab.get, if_neg other, ih]

section
variable {s : State} {n pa len : Nat} {x : Copy}

theorem State.served_leased (copy : (s.cluster (clusterOf n)).copy (pa / 128) false = some x) (valid : (s.core n).lt ≤ x.rts) :
    s.served n (pa / 128) false = some x := by
  simp [State.served, copy, valid]
theorem State.served_none {swm : Bool} (none' : (s.cluster (clusterOf n)).copy (pa / 128) swm = none) :
    s.served n (pa / 128) swm = none := by
  rw [State.served, none']

/-- A valid leased copy serves a read, at a time no earlier than its own. -/
theorem State.leasedRead_served (served : s.served n (pa / 128) false = some x) :
    s.leasedRead n pa len = (s.setCore n { s.core n with lt := max (s.core n).lt x.wts }, copyBytes x.data (pa % 128) len) := by
  rw [State.leasedRead, served]

/-- Without one the home serves it, with a new lease. -/
theorem State.leasedRead_home (served : s.served n (pa / 128) false = none) :
    let h := s.home (.line (pa / 128))
    let t := max (s.core n).lt h.1
    (s.leasedRead n pa len).2 = s.physBytes pa len ∧ ((s.leasedRead n pa len).1.core n).lt = t ∧
      (s.leasedRead n pa len).1.home (.line (pa / 128)) = (h.1, max h.2 (t + Config.readLease)) := by
  intro h t
  rw [State.leasedRead, served]
  refine ⟨rfl, ?_, ?_⟩
  · rw [(State.setCopy_timesOnly _ (n + 1) _ _).others n (by omega), State.core_setCore]
  · rw [(State.setCopy_frame _ _ _).2.2]
    exact HomeTab.get_set_self _ s.homes _ _

theorem State.fillSwm_hit {line : Nat} (copy : (s.cluster (clusterOf n)).copy line true = some x) : s.fillSwm n line = (s, x) := by
  rw [State.fillSwm, copy]

end

/-! ## Writes to the home and to a software-managed copy (R199, R204, R205, R213) -/

/-- A word of a copy that a store covers whole is sound again. -/
theorem getLsbD_soundAgain (ws : List Nat) (bad : BitVec 16) {i : Nat} (hi : i < 16) :
    (ws.foldl (fun x i => x &&& ~~~(BitVec.ofNat 16 (2 ^ i))) bad).getLsbD i = (bad.getLsbD i && !ws.contains i) := by
  induction ws generalizing bad with
  | nil => simp
  | cons w ws ih =>
    have bit : (BitVec.ofNat 16 (2 ^ w)).getLsbD i = (i == w) := by
      rw [BitVec.getLsbD_ofNat, Nat.testBit_two_pow, decide_eq_true hi, Bool.true_and]
      exact decide_eq_decide.mpr eq_comm
    rw [List.foldl_cons, ih, BitVec.getLsbD_and, BitVec.getLsbD_not, bit, List.contains_cons, Bool.not_or, decide_eq_true hi,
      Bool.true_and, Bool.and_assoc]

theorem State.noteCode_frame (s : State) (n pa len : Nat) (user : Bool) :
    (s.noteCode n pa len user).hbm = s.hbm ∧ (s.noteCode n pa len user).homes = s.homes := by
  unfold State.noteCode
  split
  · split <;> exact ⟨rfl, rfl⟩
  · exact ⟨rfl, rfl⟩

section
variable {s : State} {n pa : Nat} {bs : List Byte} (own : pa < Config.hbmBytes) (there : s.stackLost pa = false)
  (inside : s.exported pa 1 = false)
include own there inside

theorem State.writeGlobal_home {p : Policy} (home : p ≠ .swm) : s.writeGlobal n pa p bs =
    (((s.coreWrite n (.line (pa / 128))).noteStore n (s.home (.line (pa / 128))).1 .global pa (s.physBytes pa bs.length)).noteCode n pa
      bs.length (!(s.core n).regs.trap.sup)).writeHome pa bs := by
  have gained : (s.gain pa p true).lostWrite n pa = s := by simp [State.gain_write_stack own inside, State.lostWrite, there]
  have stored : s.writeGlobal n pa p bs = s.storeHome n pa p bs := by
    rw [State.writeGlobal, gained, if_neg (by simp [there]), homePolicy_stack own]
    cases p with
    | swm => exact absurd rfl home
    | _ => rfl
  rw [stored, State.storeHome, State.putHome, isFabric_stack own]
  rfl

/-- A store to a software-managed page ends with its line's copy. -/
theorem State.writeGlobal_swm {x : Copy} (copy : (s.cluster (clusterOf n)).copy (pa / 128) true = some x) :
    s.writeGlobal n pa .swm bs = (s.noteCode n pa bs.length (!(s.core n).regs.trap.sup)).setCopy (clusterOf n)
      { x with data := patchLine x.data (pa % 128) bs,
               dirty := x.dirty ||| (BitVec.ofNat 128 (2 ^ bs.length - 1) <<< (pa % 128)),
               bad := (wordsCovered (pa % 128) bs.length).foldl (fun x i => x &&& ~~~(BitVec.ofNat 16 (2 ^ i))) x.bad } := by
  have gained : (s.gain pa .swm true).lostWrite n pa = s := by simp [State.gain_write_stack own inside, State.lostWrite, there]
  rw [State.writeGlobal, gained, if_neg (by simp [there]), homePolicy_stack own, State.fillSwm_hit copy]

end

/-- A write moves its core past the write time and the read lease of its home. -/
theorem State.lt_coreWrite (s : State) (n : Nat) (k : HomeId) :
    ((s.coreWrite n k).core n).lt = max (s.core n).lt (max ((s.home k).1 + 1) ((s.home k).2 + 1)) := by
  rw [State.coreWrite, State.core_setCore]
  rfl

end Sys2Proof.Machine

namespace Sys2Proof
open Machine Claims

/-- R190, R211, R216: the two forms at their issue, by the range scoreboard, the checks and the translation. -/
theorem globalScalars : Claims.GlobalScalars := by
  intro d a b sz ext imm pa leaf cause va
  dsimp only
  refine ⟨?load, ?store, ?loadTraps, ?storeTraps, ?walk⟩
  case load =>
    exact completes_of_ownWord (eff := fun ins => gldEff ins d a sz ext imm) (fun h s => exec_gld h d a sz ext imm s)
      fun _ _ ⟨reaches, sound⟩ => gldEff_loads reaches sound
  case store =>
    exact completes_of_ownWord (eff := fun ins => gstEff ins a b sz imm) (fun h s => exec_gst h a b sz imm s)
      fun _ _ reaches => gstEff_stores reaches
  case loadTraps =>
    exact traps_of_ownWord (eff := fun ins => gldEff ins d a sz ext imm) (fun h s => exec_gld h d a sz ext imm s)
      fun _ _ ⟨free, fails⟩ => gldEff_fails free fails
  case storeTraps =>
    exact traps_of_ownWord (eff := fun ins => gstEff ins a b sz imm) (fun h s => exec_gst h a b sz imm s)
      fun _ _ ⟨free, fails⟩ => gstEff_fails free fails
  case walk =>
    intro h s issues free miss stays
    have notBefore := (Core.inside_atIssue s.cc h 0 0 0 { srcs := [opG a], dsts := [opG d] }).trans issues.1
    rw [exec_gld, execGld, issueWord_sleeps issues (gldEff_fails free miss), finish_waitWalk (by rwa [cc_issued]) stays]
    rfl

/-- R199, R203 to R205, R213: each policy by the read or the write that it performs. -/
theorem pagePolicies : Claims.PagePolicies := by
  intro s n pa len bs own there line
  refine ⟨State.readGlobal_uc own, fun x copy valid => ?leasedHit, fun none' => ?leasedMiss, fun x copy => ?swmRead,
    fun inside => ⟨State.writeGlobal_home own there inside (by decide), State.writeGlobal_home own there inside (by decide)⟩,
    fun x inside copy => ?swmWrite, ?past, ?pastLease, ?notBack⟩
  case leasedHit =>
    rw [State.readGlobal_leased own, State.leasedRead_served (State.served_leased copy valid), State.core_setCore]
    exact ⟨rfl, rfl⟩
  case leasedMiss =>
    rw [State.readGlobal_leased own]
    exact State.leasedRead_home (State.served_none none')
  case swmRead => rw [State.readGlobal_swm own, State.fillSwm_hit copy]
  case swmWrite =>
    obtain ⟨same, swm⟩ := Cluster.copy_eq_some copy
    rw [State.writeGlobal_swm own there inside copy]
    refine ⟨(State.setCopy_frame ..).1.trans (s.noteCode_frame ..).1, (State.setCopy_frame ..).2.1.trans (s.noteCode_frame ..).2,
      _, fun i hi => getLsbD_soundAgain _ x.bad hi, State.copy_setCopy _ _ same swm⟩
  case past => rw [State.lt_coreWrite]; omega
  case pastLease => rw [State.lt_coreWrite]; omega
  case notBack => rw [State.lt_coreWrite]; omega

/-- Settles O43: the two forms by what stands before their access, the access by the policy of its page. -/
theorem globalScalarForms : Obligations.GlobalScalarForms := ⟨globalScalars, pagePolicies⟩

end Sys2Proof
end

section
/-! Calls, returns, waits and the TLBs (R195, R451, R460, R461, R485 to R488). -/
namespace Sys2Proof.Machine
open Sys2Proof Sys2Proof.Claims

/-! ## Privileged words (R451) -/

theorem supOnly_of_privileged {i : Hdr → Instr} {k : Hdr → State → Host.Outcome State Fault Refusal}
    (meaning : ∀ h s, exec (i h) s = privileged s (k h)) : SupOnly i :=
  fun h s user => (meaning h s).trans (privileged_user user (k h))

/-- A word sleeps in its wait as its effect left it, where no yield request is pending. -/
theorem issueWord_stays {h : Hdr} {u : Uses} {eff : State → Eff} {s t : State} (issues : Issues h u s)
    (sleeps : eff (issued h 0 0 0 u s) = .sleep t) (stays : t.cc.yieldReq = false) : issueWord h 0 0 0 u eff s =
      .next (onCore (fun c => { c.setTmg fun m => { m with inside := none } with waitStall := h.stall.toNat }) t) := by
  rw [issueWord_sleeps issues sleeps, finish]
  simp [stays, onCore, Core.setTmg]

theorem onCore_setCc (f : Core → Core) (s : State) (c : Core) : onCore f (s.setCc c) = s.setCc (f c) := by
  rw [onCore, State.cc_setCc, State.setCc_setCc]

/-! ## SYSCALL (R459, R460) -/

/-- Where the call record of a core's system call stands. -/
def Core.callAddr (c : Core) : Nat := (c.regs.trap.xrec.setWidth 64 <<< 7 : Word).toNat + 0x40
/-- The general registers that SYSCALL reads. -/
def callUses : Uses := { srcs := (List.range 6).map fun i => opG ⟨(i + 1) % 64, Nat.mod_lt _ (by decide)⟩ }

/-- The effect of SYSCALL. -/
def syscallEff (imm : BitVec 32) (s : State) : Eff :=
  match s.pinned s.cur s.cc.callAddr with
  | none => .sleep (s.faultOnFault s.cur s.cc.callAddr)
  | some (pa, pol) => .trap (s.writeGlobal s.cur pa pol (s.cc.callRecord imm)) .syscall (imm.setWidth 64) 0

theorem exec_syscall_syscallEff (h : Hdr) (imm : BitVec 32) (s : State) :
    exec (.syscall h imm) s = issueWord h 0 0 0 callUses (syscallEff imm) s := rfl

section
variable {imm : BitVec 32} {s : State}

theorem syscallEff_pinned {pa : Nat} {pol : Policy} (pinned : s.pinned s.cur s.cc.callAddr = some (pa, pol)) :
    syscallEff imm s = .trap (s.writeGlobal s.cur pa pol (s.cc.callRecord imm)) .syscall (imm.setWidth 64) 0 := by
  rw [syscallEff, pinned]
theorem syscallEff_unpinned (unpinned : s.pinned s.cur s.cc.callAddr = none) :
    syscallEff imm s = .sleep (s.faultOnFault s.cur s.cc.callAddr) := by
  rw [syscallEff, unpinned]

end

/-! ## XRET (R461) -/

/-- The effect of XRET. -/
def xretEff (stall : Nat) (s : State) : Eff :=
  let c := s.cc
  if !c.regs.trap.exl then .trap s .illegalOpc 0x10 0
  else if c.regs.trap.xpc.toNat % 4 ≠ 0 then .trap s .align c.regs.trap.xpc 0
  else .sleep ((s.onDepth s.cur (· - 1)).setCc
    (c.returnTrap.setTmg fun m => { m with clk := m.clk + max 3 (1 + stall), words := m.words + 1 }))

theorem exec_xret_xretEff (h : Hdr) (s : State) : exec (.xret h) s = privileged s (issueWord h 0 0 0 {} (xretEff h.stall.toNat)) := rfl

section
variable {stall : Nat} {s : State}

theorem xretEff_outside (outside : s.cc.regs.trap.exl = false) : xretEff stall s = .trap s .illegalOpc 0x10 0 :=
  if_pos (by simp [outside])
theorem xretEff_misaligned (inHandler : s.cc.regs.trap.exl = true) (odd : s.cc.regs.trap.xpc.toNat % 4 ≠ 0) :
    xretEff stall s = .trap s .align s.cc.regs.trap.xpc 0 :=
  (if_neg (by simp [inHandler])).trans (if_pos odd)
theorem xretEff_returns (inHandler : s.cc.regs.trap.exl = true) (aligned : s.cc.regs.trap.xpc.toNat % 4 = 0) :
    xretEff stall s = .sleep ((s.onDepth s.cur (· - 1)).setCc
      (s.cc.returnTrap.setTmg fun m => { m with clk := m.clk + max 3 (1 + stall), words := m.words + 1 })) :=
  (if_neg (by simp [inHandler])).trans (if_neg (by simp [aligned]))

end

/-! ## HALT (R488) -/

/-- Writing results in flight makes no yield request. -/
theorem Core.yieldReq_emptied (c : Core) : c.emptied.yieldReq = c.yieldReq := congrArg (·.yieldReq) c.besides_drain

/-! ## Parked accesses (R195) -/

/-- The access of a core goes on. -/
def State.reissueCore (s : State) : Park → State
  | .core n => s.owe (.globalAccessComplete n)
  | _ => s

theorem State.reissueAll_cores {parks : List Park} (cores : ∀ y ∈ parks, ∃ n, y = .core n) (s : State) :
    s.reissueAll parks = .next (parks.foldl State.reissueCore s) := by
  induction parks generalizing s with
  | nil => rfl
  | cons y ys ih =>
    obtain ⟨n, rfl⟩ := cores y List.mem_cons_self
    exact ih (fun z hz => cores z (List.mem_cons_of_mem _ hz)) _

end Sys2Proof.Machine

namespace Sys2Proof
open Machine Claims

/-- Settles O21: each word by the effect of its issue; the parked accesses of cores one after the other. -/
theorem callsWaitsAndTlbs : Obligations.CallsWaitsAndTlbs := by
  intro a b imm pa core pol t
  dsimp only
  refine ⟨?syscall, ?bkpt, ?xret, fun c => ⟨rfl, rfl, rfl, rfl, rfl, rfl, rfl, rfl, rfl, rfl, rfl, rfl⟩, ?wfiGoesOn, ?wfiWaits, ?halt,
    ?restart, ?page, ?vsid, ?all, ?replay, ?replayDie, ?ldovt, ?users⟩
  case syscall =>
    intro h s issues
    refine ⟨fun pinned => ?_, fun unpinned _ stays => ?_⟩
    · have traps := (exec_syscall_syscallEff h imm s).trans (issueWord_traps issues (syscallEff_pinned pinned))
      rw [(State.writeGlobal_upkeep ..).cur] at traps
      exact traps
    · exact (exec_syscall_syscallEff h imm s).trans (issueWord_stays issues (syscallEff_unpinned unpinned) stays)
  case bkpt => exact traps_of_issueWord (fun h s => exec_bkpt h imm s) fun _ _ => rfl
  case xret =>
    intro h s sup issues
    have meaning := (exec_xret_xretEff h s).trans (privileged_sup sup _)
    refine ⟨fun inHandler aligned stays => ?_, fun outside => ?_, fun inHandler misaligned => ?_⟩
    · rw [meaning, issueWord_stays issues (xretEff_returns inHandler aligned) (by rw [State.cc_setCc]; exact stays), onCore_setCc]
      rfl
    · exact meaning.trans (issueWord_traps issues (xretEff_outside outside))
    · exact meaning.trans (issueWord_traps issues (xretEff_misaligned inHandler misaligned))
  case wfiGoesOn => exact completesSup_of_privileged exec_wfi fun s ready => if_pos ready
  case wfiWaits =>
    intro h s sup issues waits stays
    rw [exec_wfi, execWfi, privileged_sup sup, issueWord_stays issues (if_neg (ne_true_of_eq_false waits))
      (by rw [State.cc_setCc]; exact stays), onCore_setCc]
    rfl
  case halt =>
    intro h s sup issues stays
    refine (exec_halt h s).trans ((privileged_sup sup _).trans (issueWord_stays issues rfl ?_))
    have halts := congrArg (·.yieldReq) (State.cc_setCc (issued h 0 0 0 {} s)
      { (issued h 0 0 0 {} s).cc.emptied with wait := .halted })
    exact halts.trans ((Core.yieldReq_emptied _).trans stays)
  case restart =>
    intro s halted
    rw [exec_haltRestart, execHaltRestart]
    simp only [halted]
  case page => exact completesSup_of_privileged (fun h s => exec_tlbinvPage h a b s) fun _ _ => rfl
  case vsid => exact completesSup_of_privileged (fun h s => exec_tlbinvVsid h b s) fun _ _ => rfl
  case all => exact completesSup_of_privileged exec_tlbinvAll fun _ _ => rfl
  case replay =>
    refine completesSup_of_privileged (fun h s => exec_tlbreplay h a s) fun s replays => ?_
    have dies : Config.dies = 9 := rfl
    simp only [dies, replays]
  case replayDie =>
    intro s die p cores
    exact State.reissueAll_cores cores _
  case ldovt => exact completesSup_of_privileged (fun h s => exec_ldovt h a b s) fun _ _ => rfl
  case users =>
    exact ⟨supOnly_of_privileged exec_xret, supOnly_of_privileged exec_wfi, supOnly_of_privileged exec_halt,
      supOnly_of_privileged fun h s => exec_tlbinvPage h a b s, supOnly_of_privileged fun h s => exec_tlbinvVsid h b s,
      supOnly_of_privileged exec_tlbinvAll, supOnly_of_privileged fun h s => exec_tlbreplay h a s,
      supOnly_of_privileged fun h s => exec_ldovt h a b s⟩

end Sys2Proof
end

section
/-! The domain handler, the auditor, the tick, snapshots, migration and packets at ejection (R200, R432, R436, R450, R467, R477, R484,
R498). -/
namespace Sys2Proof.Machine
open Sys2Proof Sys2Proof.Claims

/-! ## The domain handler and the auditor (R432, R436, R455) -/

section
variable {s : State}

theorem released_held {n : Nat}
    (left : s.charges.any (fun y => y.core == n) = true ∨ (s.die (dieOf n)).derrWait.any (fun y => y.1.core == n) = true) :
    s.released n = s := if_pos (by simpa only [Bool.or_eq_true] using left)

theorem released_goesOn {n : Nat} (charges : s.charges.any (fun y => y.core == n) = false)
    (posted : (s.die (dieOf n)).derrWait.any (fun y => y.1.core == n) = false) (busy : (s.core n).mode ≠ .idle) :
    s.released n = (s.onCore n fun c => { c with errStop := false }).notBefore n s.clk := by
  have mode : (((s.onCore n fun c => { c with errStop := false }).notBefore n s.clk).core n).mode = (s.core n).mode := by
    rw [State.notBefore, State.core_setCore, State.onCore, State.core_setCore]
    rfl
  rw [State.released, if_neg (by rw [charges, posted]; decide)]
  exact if_neg (by rw [mode]; exact busy)

/-- The state in which the oldest audit is decided: its launch may complete now. -/
def State.decided (s : State) (a : Audit) (audits : List Audit) : State :=
  match a.launch with
  | some (v, i) => { s with audits := audits }.owe (.launchComplete ⟨v % 32, Nat.mod_lt _ (by decide)⟩ i)
  | none => { s with audits := audits }
/-- An audit whose original run lost charges the parent of its domain, or its launch. -/
def State.chargeAudit (a : Audit) (s : State) : State :=
  if a.parent = 0 then s.onLaunch a.launch (Launch.charged a.wid false)
  else s.postErrorFor 5 a.ptag a.core { core := a.core, dom := some (a.parent, a.ptag, a.launch, a.wid) }

/-- A replay on a unit that R436 allows, with a third run where it differs, decides the oldest audit by the signatures. -/
theorem execAuditReplay_decides {a : Audit} {audits : List Audit} {sig2 sig3 : BitVec 64} {unit2 unit3 : SuspUnit}
    (oldest : s.audits = a :: audits) (placed : s.replayPlace a unit2 = true)
    (third : sig2 ≠ a.sig → unit3 ≠ unit2 ∧ unit3 ≠ .core a.core ∧ (unitCore unit3).isSome = true) :
    execAuditReplay sig2 sig3 unit2 unit3 s = let t := s.decided a audits
      if sig2 = a.sig then .next t
      else if sig3 = a.sig then .next (t.suspect unit2 80)
      else if sig3 = sig2 then .next (State.chargeAudit a (t.suspect (.core a.core) 80))
      else .next (State.chargeAudit a (((t.suspect (.core a.core) 80).suspect unit2 80).suspect unit3 80)) := by
  rw [execAuditReplay, oldest]
  dsimp only
  rw [if_neg]
  · rfl
  · by_cases same : sig2 = a.sig
    · simp [placed, same]
    · simp [placed, third same]

end

/-! ## The tick (R200) -/

/-- From `s` to `t` neither the floor, the ticks, the logical times of the cores nor the memory of the package change. -/
structure KeepsTimes (s t : State) : Prop where
  floor : t.floor = s.floor
  ticks : t.ticks = s.ticks
  tickMax : t.tickMax = s.tickMax
  hbm : t.hbm = s.hbm
  lts : t.cores.map (·.2.lt) = s.cores.map (·.2.lt)

theorem KeepsTimes.refl (s : State) : KeepsTimes s s := ⟨rfl, rfl, rfl, rfl, rfl⟩

section
variable {s t : State}

theorem KeepsTimes.owe (h : KeepsTimes s t) (i : Instr) : KeepsTimes s (t.owe i) := ⟨h.floor, h.ticks, h.tickMax, h.hbm, h.lts⟩
theorem KeepsTimes.ite {p : Prop} {_ : Decidable p} {u : State} (a : KeepsTimes s t) (b : KeepsTimes s u) :
    KeepsTimes s (if p then t else u) := by
  split <;> assumption
theorem KeepsTimes.foldl_owe {α : Type} {f : α → Instr} {xs : List α} (h : KeepsTimes s t) :
    KeepsTimes s (xs.foldl (fun u x => u.owe (f x)) t) :=
  List.foldlRecOn xs _ h fun _ ok x _ => ok.owe (f x)
theorem KeepsTimes.latchCounts (h : KeepsTimes s t) : KeepsTimes s t.latchCounts := by
  refine ⟨h.floor, h.ticks, h.tickMax, h.hbm, Eq.trans ?_ h.lts⟩
  simp only [State.latchCounts, State.mapOut, List.map_map]
  rfl

/-- What the device does at certain ticks moves no time. -/
theorem KeepsTimes.tickWork (h : KeepsTimes s t) : KeepsTimes s t.tickWork := by
  unfold State.tickWork
  extract_lets due snapped decayed latched laid late timed
  have snapped_ok : KeepsTimes s snapped := h.foldl_owe
  have decayed_ok : KeepsTimes s decayed := .ite (snapped_ok.owe _) snapped_ok
  have latched_ok : KeepsTimes s latched := .ite decayed_ok.latchCounts decayed_ok
  have laid_ok : KeepsTimes s laid := by
    dsimp only [laid]
    split
    · exact latched_ok.owe _
    · exact latched_ok
  have timed_ok : KeepsTimes s timed := laid_ok.foldl_owe
  exact .ite (timed_ok.owe _) timed_ok

end

/-- The device past a tick, before its work at certain ticks. -/
def State.ticked (s : State) : State :=
  { s with floor := max s.floor s.tickMax + 65536, ticks := s.ticks + 1, tickMax := s.coreMax
           sp := { s.sp with layout := s.sp.layout.map fun (x : Layout) => { x with ticked := x.step == LayoutStep.committed } }
           takeover := s.takeover.map fun (t : Takeover) => { t with ticked := true }
           recent := s.recent.filter fun x => decide (s.floor ≤ x.time)
           cores := s.cores.map fun (e : Nat × Core) =>
             (e.1, { e.2 with lt := max e.2.lt (max s.floor s.tickMax + 65536 + 1) }) }

theorem execSaddleTick_eq (s : State) :
    execSaddleTick s = .next (((if 2 ^ 62 ≤ s.floor then s.rebase else s).ticked.owe .queueAging).tickWork) := rfl

/-- The floor after a tick lies below the logical time of every core. -/
theorem floor_lt_of_tick {s t : State} (h : KeepsTimes s.ticked t) : ∀ e ∈ t.cores, t.floor < e.2.lt := by
  intro e he
  have time : e.2.lt ∈ s.ticked.cores.map (·.2.lt) := h.lts ▸ List.mem_map_of_mem he
  simp only [State.ticked, List.map_map, List.mem_map, Function.comp_apply] at time
  obtain ⟨e', -, same⟩ := time
  rw [h.floor, ← same]
  exact Nat.lt_of_lt_of_le (Nat.lt_succ_self _) (le_max_right _ _)

/-! ## Snapshots and migration (R484) -/

/-- Without protected regions the pages of a virtual device are preserved as they stand. -/
theorem execVdSnapshot_takes {s : State} {v : Fin 32} (on : (s.vd v.val).snapp ≠ 0)
    (alone : s.sp.regions.any (fun g => g.v == v.val) = false) : execVdSnapshot v s = .next (s.onVd v.val fun d =>
      { d with snap := some { hbm := s.hbm, bad := s.hbmBad, epoch := ((d.snap.map (·.epoch)).getD 0) + 1 } }) := by
  have none' : s.sp.regions.filter (fun g => g.v == v.val) = [] := by simpa using alone
  rw [execVdSnapshot, none']
  exact if_neg on

/-- A device whose CYCLE and SADDLE go on from what was last read of them. -/
def Vd.goingOn (s : State) (cycleLast saddleLast : Word) (d : Vd) : Vd :=
  { d with cofs := notBelow (BitVec.ofNat 64 s.now) cycleLast s.draws
           sofs := notBelow (BitVec.ofNat 64 s.ticks) saddleLast (s.draws + 1) }
/-- The destination of a migration, with the device and its saved contexts. -/
def State.migrated (s : State) (v : Fin 32) (cycleLast saddleLast : Word) : State :=
  { s.onVd v.val (Vd.goingOn s cycleLast saddleLast) with
    draws := s.draws + 2
    images := s.images.map fun (i : Image) =>
      if i.out && (s.part i.ctx.ptag.toNat).vdev.toNat == v.val then i.migrated s.floor else i }

theorem execVdMigration_eq (v : Fin 32) (cycleLast saddleLast : Word) (s : State) :
    execVdMigration v cycleLast saddleLast s = .next (s.migrated v cycleLast saddleLast) := rfl
theorem State.vd_migrated (s : State) (v : Fin 32) (cycleLast saddleLast : Word) :
    (s.migrated v cycleLast saddleLast).vd v.val = (s.vd v.val).goingOn s cycleLast saddleLast := s.vd_onVd v.val _

/-- A register that reads its offset beyond what it counts reads no less than it last did, below half of what it can hold. -/
theorem le_add_notBelow {now last : Word} {draw : Nat} (small : last.toNat < 2 ^ 63) :
    last.toNat ≤ (now + notBelow now last draw).toNat := by
  have more : (Config.freeWord draw >>> 2).toNat < 2 ^ 62 := by
    rw [BitVec.toNat_ushiftRight, Nat.shiftRight_eq_div_pow]
    omega
  have sum : now + notBelow now last draw = last + Config.freeWord draw >>> 2 := by
    rw [notBelow, ← add_assoc, add_sub_cancel]
  rw [sum, BitVec.toNat_add]
  omega

/-! ## Packets at ejection (R450, R467, R477, R498) -/

section
variable {s : State} {id : Nat} {k : Packet}

/-- The network without the packets of a number. -/
def State.without (s : State) (id : Nat) : State := { s with net := s.net.filter fun y => y.id != id }

theorem execPacketEject_none (none' : s.net.find? (fun y => y.id == id) = none) : execPacketEject id s = .next s := by
  rw [execPacketEject, none']
theorem execPacketEject_fenced (found : s.net.find? (fun y => y.id == id) = some k)
    (fenced : (s.dieFenced (dieOf k.dst) || s.dieFenced (dieOf k.src)) = true) : execPacketEject id s =
      .next ((({ s.without id with fdrop := satInc s.fdrop } : State).lostPacket k).keepRequest k) := by
  rw [execPacketEject, found]
  exact congrArg Host.Outcome.next (if_pos fenced)
theorem execPacketEject_ejects (found : s.net.find? (fun y => y.id == id) = some k)
    (clear : (s.dieFenced (dieOf k.dst) || s.dieFenced (dieOf k.src)) = false) :
    execPacketEject id s = .next ((s.without id).eject k) := by
  rw [execPacketEject, found]
  exact congrArg Host.Outcome.next (if_neg (ne_true_of_eq_false clear))

/-- What the router's check does with a packet. -/
theorem eject_sup (sup : k.sup = true) : s.eject k = s.deliver k := if_pos (by simp [State.admits, sup])
theorem eject_server (user : k.sup = false) (server : s.isServer k.dst = true) :
    s.eject k = (s.countDrop (some k.tag)).lostPacket k :=
  (if_neg (by simp [State.admits, user, server])).trans (if_pos server)
theorem eject_otherTag (user : k.sup = false) (guest : s.isServer k.dst = false) (other : k.tag ∉ s.slotsOf k.dst) :
    s.eject k = (s.countDrop ((s.core k.dst).ctag.orElse fun _ => (s.slotsOf k.dst).head?)).lostPacket k :=
  (if_neg (by simp [State.admits, user, guest, other])).trans (if_neg (ne_true_of_eq_false guest))
theorem eject_ownTag (user : k.sup = false) (guest : s.isServer k.dst = false) (own : k.tag ∈ s.slotsOf k.dst) :
    s.eject k = s.deliver k := if_pos (by simp [State.admits, user, guest, own])

theorem deliver_untagged (untagged : s.deliveryTag k = none) : s.deliver k = s.owe k.ev := by
  rw [State.deliver, untagged]
theorem deliver_away {p : PTag} (tag : s.deliveryTag k = some p) (away : s.ctxOut (clusterOf k.dst) p = true) :
    s.deliver k = s.hold p (clusterOf k.dst) k.ev := by
  rw [State.deliver, tag]
  exact if_pos away
theorem deliver_here {p : PTag} (tag : s.deliveryTag k = some p) (here : s.ctxOut (clusterOf k.dst) p = false) :
    s.deliver k = if actsOnCore k.ev && (s.core k.dst).ctag != some p then s.lostPacket k else s.owe k.ev := by
  rw [State.deliver, tag]
  exact if_neg (ne_true_of_eq_false here)

end

end Sys2Proof.Machine

namespace Sys2Proof
open Machine Claims

/-- Settles O29: each event by the case of what it finds. -/
theorem tickAndNetworkEvents : Obligations.TickAndNetworkEvents := by
  intro s x more a audits sig2 sig3 unit2 unit3 v cycleLast saddleLast id k r w p l e took decided charged placed third gone found
    fenced slots
  have audit (oldest : s.audits = a :: audits) (ok : placed) (differs : sig2 ≠ a.sig → third) :=
    (exec_auditReplay sig2 sig3 unit2 unit3 s).trans (execAuditReplay_decides (sig3 := sig3) oldest ok differs)
  have ejected (found' : found) (clear : fenced = false) := (exec_packetEject id s).trans (execPacketEject_ejects found' clear)
  refine ⟨fun n => released_held, fun n => released_goesOn, ?noCharge, ?phase, ?core, ?domain, ?noAudit, ?agrees, ?secondLost,
    ?firstLost, ?allLost, ?misplaced, ?tick, ?noSnapshot, ?snapshot, ?migration, ?noPacket, ?dropped, ?supervisor, ?server, ?otherTag,
    ?delivered, ?untagged, ?here, ?nowhere, ?out⟩
  case noCharge =>
    intro none' quiet
    rw [exec_domainCharge, execDomainCharge, none']
    dsimp only
    rw [quiet]
  case phase =>
    intro none' failed
    rw [exec_domainCharge, execDomainCharge, none']
    dsimp only
    rw [failed]
  case core =>
    intro oldest dom
    rw [exec_domainCharge, execDomainCharge, oldest]
    dsimp only
    rw [dom]
  case domain =>
    intro oldest dom
    rw [exec_domainCharge, execDomainCharge, oldest]
    dsimp only
    rw [dom]
  case noAudit =>
    intro none'
    rw [exec_auditReplay, execAuditReplay, none']
  case agrees =>
    intro oldest ok same
    exact (audit oldest ok fun h => absurd same h).trans (if_pos same)
  case secondLost =>
    intro oldest ok other differs same
    exact (audit oldest ok fun _ => other).trans ((if_neg differs).trans (if_pos same))
  case firstLost =>
    intro oldest ok other differs same
    have lost : sig3 ≠ a.sig := fun h => differs (same ▸ h)
    exact (audit oldest ok fun _ => other).trans ((if_neg differs).trans ((if_neg lost).trans (if_pos same)))
  case allLost =>
    intro oldest ok other differs lost differ
    exact (audit oldest ok fun _ => other).trans ((if_neg differs).trans ((if_neg lost).trans (if_neg differ)))
  case misplaced =>
    intro oldest bad
    rw [exec_auditReplay, execAuditReplay, oldest]
    exact if_pos (by simp [bad])
  case tick =>
    have kept := ((KeepsTimes.refl (if 2 ^ 62 ≤ s.floor then s.rebase else s).ticked).owe .queueAging).tickWork
    refine ⟨_, (exec_saddleTick s).trans (execSaddleTick_eq s), ?_, ?_, fun low => ?_, floor_lt_of_tick kept⟩
    · rw [kept.ticks]
      split <;> rfl
    · rw [kept.hbm]
      split <;> rfl
    · rw [kept.floor, kept.tickMax, if_neg (by omega)]
      exact ⟨rfl, rfl⟩
  case noSnapshot =>
    intro off
    exact (exec_vdSnapshot v s).trans (if_pos off)
  case snapshot =>
    intro on alone
    refine ⟨_, (exec_vdSnapshot v s).trans (execVdSnapshot_takes on alone), ?_⟩
    rw [State.vd_onVd]
    exact ⟨_, rfl, rfl, rfl, rfl⟩
  case migration =>
    refine ⟨_, (exec_vdMigration v cycleLast saddleLast s).trans (execVdMigration_eq ..), fun small => ?_, fun small => ?_,
      fun im kept out dev => ?_⟩
    · rw [State.vd_migrated]
      exact le_add_notBelow small
    · rw [State.vd_migrated]
      exact le_add_notBelow small
    · exact ⟨im.migrated s.floor, List.mem_map.mpr ⟨im, kept, if_pos (by simp [out, dev])⟩, rfl, rfl⟩
  case noPacket => exact fun none' => (exec_packetEject id s).trans (execPacketEject_none none')
  case dropped => exact fun found fenced => (exec_packetEject id s).trans (execPacketEject_fenced found fenced)
  case supervisor => exact fun found clear sup => (ejected found clear).trans (congrArg _ (eject_sup sup))
  case server => exact fun found clear user server => (ejected found clear).trans (congrArg _ (eject_server user server))
  case otherTag => exact fun found clear user guest other => (ejected found clear).trans (congrArg _ (eject_otherTag user guest other))
  case delivered => exact fun found clear user guest own => (ejected found clear).trans (congrArg _ (eject_ownTag user guest own))
  case untagged => exact deliver_untagged
  case here =>
    intro p tag inside mine
    rw [deliver_here tag inside, if_neg]
    rcases mine with still | mine
    · simp [still]
    · simp [mine]
  case nowhere =>
    intro p tag inside acts other
    rw [deliver_here tag inside, if_pos]
    simp [acts, other]
  case out => exact fun p => deliver_away

end Sys2Proof
end

section
/-! Atomics (R218, R222, R225, R226): the value that each operation leaves, and an access of one in local and in global memory. -/
namespace Sys2Proof.Machine
open Sys2Proof Sys2Proof.Claims

/-! ## The access of an atomic -/

/-- An atomic's completion: its old value to the destination of a form that returns it. -/
def atomicReturn (d : GReg) (out : Option (Word → Word)) (s : State) (old : Word) : State :=
  match out with
  | some f => s.setCc (s.cc.slipResult (.g d (f old)))
  | none => s

section
variable {ins : Instr} {scope : BitVec 3} {dbl : Bool} {x : Word} {f : Word → Word} {d : GReg} {out : Option (Word → Word)} {s : State}

theorem atomicEff_denied {w : Word → Option Wr} (denied : s.scopeDenied scope = true) :
    atomicEff ins scope dbl x f w s = .trap s .scope (scope.setWidth 64) 0 := if_pos denied

theorem atomicEff_local {p : Place} {len : Nat} (size : len = if dbl then 8 else 4) (allowed : s.scopeDenied scope = false)
    (free : s.rangeHeld x len = false) (isLocal : x.getLsbD 56 = true)
    (ok : s.checkLocal s.cur (!s.cc.regs.trap.sup) x len len = .ok p) (noUnit : ∀ o, p ≠ .evu o) (sound : Sound s p len) :
    atomicEff ins scope dbl x f (fun old => out.map fun g => .g d (g old)) s =
      let q := (s.touch s.cur p len).1
      let old := ofBytes 64 (q.readPlace len p)
      .done (atomicReturn d out (storePlace p (toBytes len (f old)) q) old) := by
  subst size
  have sound' : (s.touch s.cur p (if dbl then 8 else 4)).2 = false := sound
  unfold atomicEff
  dsimp only
  rw [if_neg (ne_true_of_eq_false allowed), if_neg (ne_true_of_eq_false free), if_pos isLocal, ok]
  cases p with
  | evu o => exact absurd rfl (noUnit o)
  | _ =>
    refine (if_neg (ne_true_of_eq_false sound')).trans ?_
    cases out <;> rfl

theorem atomicEff_global {pa : Nat} {leaf : BitVec 64} {len : Nat} (size : len = if dbl then 8 else 4)
    (allowed : s.scopeDenied scope = false) (reaches : Reaches s x len .atomic pa leaf) (isGlobal : x.getLsbD 56 = false)
    (sound : s.globalBad pa len = false) :
    atomicEff ins scope dbl x f (fun old => out.map fun g => .g d (g old)) s =
      let q := s.gain pa (leafPolicy leaf) true
      let old := ofBytes 64 (q.physBytes pa len)
      .done (atomicReturn d out (q.storeHome s.cur pa (leafPolicy leaf) (toBytes len (f old))) old) := by
  subst size
  obtain ⟨free, ok⟩ := reaches
  have there : s.stackLost pa = false := (Bool.or_eq_false_iff.mp sound).1
  unfold atomicEff
  dsimp only
  rw [if_neg (ne_true_of_eq_false allowed), if_neg (ne_true_of_eq_false free), if_neg (ne_true_of_eq_false isGlobal), ok]
  dsimp only
  rw [if_neg (ne_true_of_eq_false there), if_neg (ne_true_of_eq_false sound)]
  cases out <;> rfl

end

theorem amoExtend_eq (op : BitVec 4) (dbl : Bool) (old : Word) : amoExtend op dbl old =
    if dbl then old else if op == 9 then (lo old).setWidth 64 else (lo old).signExtend 64 := by
  simp only [beq_iff_eq]
  rfl

end Sys2Proof.Machine

namespace Sys2Proof
open Machine Claims

/-- Settles O14: each form is the atomic access with its own new value, which the operation's rule gives at the form's width. -/
theorem atomics : Obligations.Atomics := by
  intro op d a b dbl scope imm p pa leaf sz n adr kept combined swapped back atomic
  have size : (sz == 3) = dbl := by cases dbl <;> rfl
  have operation (w : Nat) (x y : BitVec w) (f : Fmt) : amoOp f op x y = kept w x y f := by
    simp only [amoOp, kept, BitVec.slt, BitVec.ult, decide_eq_true_eq] <;> rfl
  have access {i : Hdr → Instr} {u : Uses} {new : State → Word → Word} {out : Option (Word → Word)}
      (meaning : ∀ h s, exec (i h) s = issueWord h 0 0 0 u (fun s =>
        atomicEff (i h) scope dbl (adr s) (new s) (fun old => out.map fun g => .g d (g old)) s) s) : atomic i u new out := by
    let eff (ins : Instr) (s : State) : Eff :=
      atomicEff ins scope dbl (adr s) (new s) (fun old => out.map fun g => .g d (g old)) s
    refine ⟨completes_of_ownWord (eff := eff) meaning ?_, completes_of_ownWord (eff := eff) meaning ?_,
      traps_of_ownWord (eff := eff) meaning fun _ _ denied => atomicEff_denied denied⟩
    · rintro ins s ⟨allowed, free, isLocal, ok, noUnit, sound⟩
      exact atomicEff_local rfl allowed free isLocal ok noUnit sound
    · rintro ins s ⟨allowed, reaches, isGlobal, sound⟩
      exact atomicEff_global rfl allowed reaches isGlobal sound
  have newValue (y old : Word) : amoNew op dbl old y =
      if dbl then kept 64 old y fp64 else (kept 32 (lo old) (lo y) fp32).setWidth 64 := by
    rw [← operation, ← operation]
    rfl
  have returned : (fun old => some (Wr.g d (amoExtend op dbl old))) = fun old => (some (back (op == 9))).map fun g => Wr.g d (g old) :=
    funext fun old => congrArg (fun x => some (Wr.g d x)) (amoExtend_eq op dbl old)
  refine ⟨access (new := combined) (out := some (back (op == 9))) fun h s => ?amo,
    access (new := swapped) (out := some (back false)) fun h s => ?cas, access (new := combined) (out := none) fun h s => ?red⟩
  case amo =>
    rw [exec_amo, execAmo]
    congr 1
    funext s
    rw [amoEff, size, returned]
    simp only [newValue]
    rfl
  case cas =>
    rw [exec_cas, execCas]
    congr 1
    funext s
    rw [casEff, size]
    rfl
  case red =>
    rw [exec_red, execRed]
    congr 1
    funext s
    rw [redEff, size]
    simp only [newValue]
    rfl

end Sys2Proof
end

section
/-! Events, mutexes and the crossbar's words (R230, R231, R234 to R238, R375, R376, R383, R467). -/
namespace Sys2Proof.Machine
open Sys2Proof Sys2Proof.Claims

/-! ## A word that sleeps at its unit -/

/-- A word whose effect has changed nothing of its core sleeps as it issued, where no yield request is pending (R238). -/
theorem exec_sleepIn {i : Instr} {h : Hdr} {u : Uses} {eff : State → Eff} {w : Wait} {s t : State}
    (meaning : exec i s = issueWord h 0 0 0 u eff s) (issues : Issues h u s)
    (sleeps : eff (issued h 0 0 0 u s) = .sleep (t.sleepIn w i)) (keeps : t.cc = (issued h 0 0 0 u s).cc)
    (stays : (issued h 0 0 0 u s).cc.yieldReq = false) :
    exec i s = .next (onCore (fun c => { c with wait := w, access := some i, waitStall := h.stall.toNat }) t) := by
  have asleep : (t.sleepIn w i).cc = { (issued h 0 0 0 u s).cc with wait := w, access := some i } := by
    rw [State.sleepIn, State.cc_setCc, keeps]
  have notBefore : (t.sleepIn w i).cc.tmg.inside = none := by
    rw [asleep, cc_issued]
    exact (s.cc.inside_atIssue h 0 0 0 u).trans issues.1
  rw [meaning, issueWord_sleeps issues sleeps, finish_sleep notBefore (by rw [asleep]; exact stays), State.sleepIn, State.cc_setCc]
  exact congrArg Host.Outcome.next (State.setCc_setCc ..)

/-! ## The words of the event unit -/

section
variable {d : GReg} {e : BitVec 6} {m : BitVec 5} {ins : Instr} {s : State}

/-- The effect of LDEV.WAIT (R235, R237); `ins` is the word itself, which a core that sleeps in it keeps. -/
def ldevWaitEff (d : GReg) (e : BitVec 6) (ins : Instr) (s : State) : Eff :=
  let cl := clusterOf s.cur
  let l := (s.cluster cl).line e.toNat
  if s.evuDenied (rtagLine e.toNat) then .trap s .bounds (evuAddr (8 * e.toNat)) 0
  else if l.count ≠ 0 && l.waiters.isEmpty then
    ldevReply (s.onLine cl e.toNat fun l => { l with count := l.count - 1 }) d (l.count.setWidth 64)
  else .sleep ((s.onLine cl e.toNat fun l => { l with waiters := l.waiters ++ [s.cur] }).sleepIn (.line e.toFin) ins)

theorem exec_ldevWait_ldevWaitEff (h : Hdr) (s : State) :
    exec (.ldevWait h d e) s = issueWord h 0 0 0 { dsts := [opG d] } (ldevWaitEff d e (.ldevWait h d e)) s := rfl

/-- The effect of LDEV.LOCK (R231, R237). -/
def ldevLockEff (d : GReg) (m : BitVec 5) (ins : Instr) (s : State) : Eff :=
  let cl := clusterOf s.cur
  let x := (s.cluster cl).mutex m.toNat
  if s.evuDenied (rtagMutex m.toNat) then .trap s .bounds (evuAddr (0x200 + 8 * m.toNat)) 0
  else if x.owner = some s.cur then .trap s .illegalOpc 0x0E 0
  else if x.owner = none then ldevReply (s.onMutex cl m.toNat fun x => { x with owner := some s.cur }) d 0
  else .sleep ((s.onMutex cl m.toNat fun x => { x with waiters := x.waiters ++ [s.cur] }).sleepIn (.mutex m.toFin) ins)

theorem exec_ldevLock_ldevLockEff (h : Hdr) (s : State) :
    exec (.ldevLock h d m) s = issueWord h 0 0 0 { dsts := [opG d] } (ldevLockEff d m (.ldevLock h d m)) s := rfl

theorem ldevWaitEff_takes (mine : s.evuDenied e.toNat = false) (event : ((s.cluster (clusterOf s.cur)).line e.toNat).count ≠ 0)
    (first : ((s.cluster (clusterOf s.cur)).line e.toNat).waiters = []) :
    ldevWaitEff d e ins s = ldevReply (s.onLine (clusterOf s.cur) e.toNat fun l => { l with count := l.count - 1 }) d
      (((s.cluster (clusterOf s.cur)).line e.toNat).count.setWidth 64) := by
  refine (if_neg (ne_true_of_eq_false mine)).trans (if_pos ?_)
  simpa [first] using event

theorem ldevWaitEff_sleeps (mine : s.evuDenied e.toNat = false) (behind : ((s.cluster (clusterOf s.cur)).line e.toNat).count = 0 ∨
      ((s.cluster (clusterOf s.cur)).line e.toNat).waiters ≠ []) :
    ldevWaitEff d e ins s =
      .sleep ((s.onLine (clusterOf s.cur) e.toNat fun l => { l with waiters := l.waiters ++ [s.cur] }).sleepIn (.line e.toFin) ins) := by
  refine (if_neg (ne_true_of_eq_false mine)).trans (if_neg ?_)
  rcases behind with none' | others
  · simp [none']
  · simp [others]

end

/-- The register of a mutex, from the start of the unit's window and from that of the mutexes (R228). -/
theorem evuAddr_mutex (m : Nat) : evuAddr (0x200 + 8 * m) = BitVec.ofNat 64 (0x0104000000000200 + 8 * m) :=
  congrArg (BitVec.ofNat 64) (Nat.add_assoc 0x0104000000000000 0x200 (8 * m)).symm

/-! ## The service of a line (R235, R237) -/

theorem State.serve_idle {s : State} {cl e : Nat}
    (idle : ((s.cluster cl).line e).waiters = [] ∨ ((s.cluster cl).line e).count = 0) : s.serve cl e = s := by
  unfold State.serve
  dsimp only
  cases queue : ((s.cluster cl).line e).waiters with
  | nil => rfl
  | cons n rest =>
    have none' := idle.resolve_left (by simp [queue])
    simp [State.serveLine, queue, none']

/-- The only waiter of a line takes the count where there is one. -/
theorem State.serve_one {s : State} {cl e n : Nat} (one : ((s.cluster cl).line e).waiters = [n])
    (event : ((s.cluster cl).line e).count ≠ 0) :
    s.serve cl e = (s.onLine cl e fun l => { l with count := l.count - 1, waiters := [] }).grant n ((s.cluster cl).line e).clk
      (((s.cluster cl).line e).count.setWidth 64) := by
  unfold State.serve
  dsimp only
  rw [one, List.length_singleton, State.serveLine, one]
  exact if_neg event

theorem State.unlock_free {s : State} {cl m T : Nat} (free : ((s.cluster cl).mutex m).waiters = []) :
    s.unlock cl m T = s.onMutex cl m fun x => { x with owner := none } := by
  rw [State.unlock, free]

theorem State.unlock_passes {s : State} {cl m T n : Nat} {rest : List Nat} (queue : ((s.cluster cl).mutex m).waiters = n :: rest) :
    s.unlock cl m T = (s.onMutex cl m fun x => { x with owner := some n, waiters := rest }).grant n T (BitVec.ofNat 64 rest.length) := by
  rw [State.unlock, queue]

end Sys2Proof.Machine

namespace Sys2Proof
open Machine Claims

/-- R230, R231, R234 to R238, R467: each word by the branch of its effect. -/
theorem eventsAndMutexes : Claims.EventsAndMutexes := by
  intro d a e m cnt t cl line mtx lineOk mutexOk lineAt mutexAt answers sleeps
  have mine {s : State} {r : Nat} (ok : s.evuDenied r = false) : ¬ s.evuDenied r = true := ne_true_of_eq_false ok
  have waits := fun (h : Hdr) (s : State) => exec_ldevWait_ldevWaitEff (d := d) (e := e) h s
  have locks := fun (h : Hdr) (s : State) => exec_ldevLock_ldevLockEff (d := d) (m := m) h s
  refine ⟨?signal, fun p => ?held, ?signalDenied, ?remote, ?noCore, ?unlock, ?notOwner, ?wait, ?waitSleeps, ?poll, ?lock, ?lockSleeps,
    ?tries, ?again, ?tryDenied⟩
  case signal =>
    refine completes_of_issueWord (fun h s => exec_evsigEv h none e cnt s) fun s ⟨ok, inside⟩ => (if_neg (mine ok)).trans ?_
    rw [inside]
  case held =>
    refine completes_of_issueWord (fun h s => exec_evsigEv h none e cnt s) fun s ⟨ok, out⟩ => (if_neg (mine ok)).trans ?_
    rw [out]
  case signalDenied => exact traps_of_issueWord (fun h s => exec_evsigEv h none e cnt s) fun s denied => if_pos denied
  case remote =>
    refine completes_of_issueWord (fun h s => exec_evsigEv h (some a) e cnt s) fun s ⟨there, core⟩ => ?_
    rw [signalEvent]
    simp only [there, core]
    rfl
  case noCore =>
    refine traps_of_issueWord (fun h s => exec_evsigEv h (some a) e cnt s) fun s none' => ?_
    rw [signalEvent]
    simp only [none']
    rfl
  case unlock =>
    exact completes_of_issueWord (fun h s => exec_evsigUnlock h m s) fun s ⟨ok, owner⟩ =>
      (if_neg (mine ok)).trans (if_neg (not_not.mpr owner))
  case notOwner =>
    exact traps_of_issueWord (fun h s => exec_evsigUnlock h m s) fun s ⟨ok, other⟩ => (if_neg (mine ok)).trans (if_pos other)
  case wait => exact completes_of_ownWord waits fun ins s ⟨ok, event, first⟩ => ldevWaitEff_takes ok event first
  case waitSleeps =>
    intro h s issues s1 ⟨ok, behind⟩ stays
    exact exec_sleepIn (waits h s) issues (ldevWaitEff_sleeps ok behind) rfl stays
  case poll => exact completes_of_issueWord (fun h s => exec_ldevPoll h d e s) fun s ok => if_neg (mine ok)
  case lock =>
    exact completes_of_ownWord locks fun ins s ⟨ok, free⟩ =>
      (if_neg (mine ok)).trans ((if_neg (by rw [free]; exact nofun)).trans (if_pos free))
  case lockSleeps =>
    intro h s issues s1 ⟨ok, taken, other⟩ stays
    exact exec_sleepIn (locks h s) issues ((if_neg (mine ok)).trans ((if_neg other).trans (if_neg taken))) rfl stays
  case tries =>
    refine completes_of_issueWord (fun h s => exec_ldevTry h d m s) fun s ⟨ok, other⟩ =>
      (if_neg (mine ok)).trans ((if_neg other).trans ?_)
    split <;> rfl
  case again =>
    exact traps_of_ownWord locks fun ins s ⟨ok, own⟩ => (if_neg (mine ok)).trans (if_pos own)
  case tryDenied =>
    exact traps_of_issueWord (fun h s => exec_ldevTry h d m s) fun s denied =>
      (if_pos denied).trans (congrArg (Eff.trap s .bounds · 0) (evuAddr_mutex m.toNat))

/-- R230, R235 to R237: a line by its waiters and its count, a mutex by its waiters. -/
theorem signalsServeWaiters : Claims.SignalsServeWaiters := by
  intro s cl e T k l sum
  exact ⟨rfl, State.serve_idle, fun _ => State.serve_one, State.unlock_free, fun _ _ => State.unlock_passes⟩

/-- R375, R376, R383: each word by the branch of its effect, a configuration by the register that it writes. -/
theorem crossbarWords : Claims.CrossbarWords := by
  intro d a b i j term cnt cl comes
  have mine {s : State} {term : Bool} {r : Nat} (ok : s.xbarDenied term r = false) : ¬ s.xbarDenied term r = true :=
    ne_true_of_eq_false ok
  refine ⟨?counter, ?term, fun _ _ _ => rfl, fun _ _ _ _ => rfl, ?read, ?none', ?pulse, ?denied⟩
  case counter => exact completes_of_issueWord (fun h s => exec_evxcfgC h a i s) fun s ok => if_neg (mine ok)
  case term => exact completes_of_issueWord (fun h s => exec_evxcfgT h a b j s) fun s ok => if_neg (mine ok)
  case read => exact completes_of_issueWord (fun h s => exec_evxcfgR h d term j s) fun s ok => if_neg (mine ok)
  case none' => exact completes_of_issueWord (fun h s => exec_evsigPulse h i cnt s) fun s zero => if_pos zero
  case pulse => exact completes_of_issueWord (fun h s => exec_evsigPulse h i cnt s) fun s some' => if_neg some'
  case denied => exact traps_of_issueWord (fun h s => exec_evxcfgC h a i s) fun s denied => if_pos denied

/-- Settles O45: the words by the branches of their effects, the unit by what waits at it. -/
theorem eventAndCrossbarForms : Obligations.EventAndCrossbarForms := ⟨eventsAndMutexes, signalsServeWaiters, crossbarWords⟩

end Sys2Proof
end

section
/-! Barriers (R228, R239 to R243, R389): an arrival, the generation that it completes, and the words that arrive. -/
namespace Sys2Proof.Machine
open Sys2Proof Sys2Proof.Claims

/-! ## What leaves a core in its wait -/

/-- From `s` to `t` core `n` goes on waiting as it did, and no barrier changes. -/
structure StillWaits (n : Nat) (s t : State) : Prop where
  cur : t.cur = s.cur
  wait : (t.core n).wait = (s.core n).wait
  mode : (t.core n).mode = (s.core n).mode
  yieldReq : (t.core n).yieldReq = (s.core n).yieldReq
  bars : ∀ cl, (t.cluster cl).bars = (s.cluster cl).bars

section
variable {n : Nat} {s t u : State}

theorem StillWaits.refl (n : Nat) (s : State) : StillWaits n s s := ⟨rfl, rfl, rfl, rfl, fun _ => rfl⟩
theorem StillWaits.trans (a : StillWaits n s t) (b : StillWaits n t u) : StillWaits n s u :=
  ⟨b.cur.trans a.cur, b.wait.trans a.wait, b.mode.trans a.mode, b.yieldReq.trans a.yieldReq, fun cl => (b.bars cl).trans (a.bars cl)⟩
theorem StillWaits.foldl {α : Type} {f : State → α → State} (step : ∀ s x, StillWaits n s (f s x)) (s : State) (xs : List α) :
    StillWaits n s (xs.foldl f s) :=
  List.foldlRecOn xs _ (.refl n s) fun t ok x _ => ok.trans (step t x)

theorem StillWaits.setCore_ne {m : Nat} (other : n ≠ m) (s : State) (c : Core) : StillWaits n s (s.setCore m c) := by
  have same := State.core_setCore_ne s m n c other
  exact ⟨rfl, by rw [same], by rw [same], by rw [same], fun _ => rfl⟩
theorem StillWaits.setCore {m : Nat} {c : Core} (wait : c.wait = (s.core m).wait) (mode : c.mode = (s.core m).mode)
    (yieldReq : c.yieldReq = (s.core m).yieldReq) : StillWaits n s (s.setCore m c) := by
  by_cases same : n = m
  · subst same
    exact ⟨rfl, by rwa [State.core_setCore], by rwa [State.core_setCore], by rwa [State.core_setCore], fun _ => rfl⟩
  · exact .setCore_ne same s c

theorem StillWaits.barrier (a : StillWaits n s t) (cl b : Nat) : (t.cluster cl).barrier b = (s.cluster cl).barrier b := by
  rw [Cluster.barrier, a.bars, Cluster.barrier]

/-- Writes and atomics at a unit change the logical time of their core only. -/
theorem State.coreWrite_stillWaits (s : State) (m cl : Nat) : StillWaits n s (s.coreWrite m (.evu cl)) :=
  StillWaits.trans (t := (s.writeTime (s.core m).lt (.evu cl)).1) ⟨rfl, rfl, rfl, rfl, fun _ => rfl⟩ (.setCore rfl rfl rfl)

/-! ## Installations (R402) -/

theorem Tab.get_map_snd {α β : Type} (d : α) (f : α → α) (g : α → β) (same : ∀ x, g (f x) = g x) (t : List (Nat × α))
    (k : Nat) :
    g (Tab.get d (t.map fun e => (e.1, f e.2)) k) = g (Tab.get d t k) := by
  induction t with
  | nil => rfl
  | cons e t ih =>
    simp only [List.map_cons, Tab.get]
    split
    · exact same e.2
    · exact ih

theorem State.installSlots_stillWaits (s : State) (p : PTag) (bs : List Byte) : StillWaits n s (s.installSlots p bs) := by
  unfold State.installSlots
  dsimp only
  refine StillWaits.trans (.foldl (fun t m => ?_) s _) ⟨rfl, rfl, rfl, rfl, fun cl => ?_⟩
  · split
    · exact .setCore rfl rfl rfl
    · exact .refl n t
  · exact Tab.get_map_snd {} (fun c : Cluster => { c with glen := c.glen.map _ }) Cluster.bars (fun _ => rfl) _ cl

theorem State.tryInstall_stillWaits (s : State) (m : Nat) : StillWaits n s (s.tryInstall m) := by
  unfold State.tryInstall
  dsimp only
  split
  · exact .refl n s
  · split
    · exact .refl n s
    · refine StillWaits.trans ?_ (.setCore rfl rfl rfl)
      split
      · exact s.installSlots_stillWaits _ _
      · exact .refl n s

theorem State.tryInstalls_stillWaits (s : State) : StillWaits n s s.tryInstalls := .foldl (fun t m => t.tryInstall_stillWaits m) s _

/-! ## A member at the release (R240, R243) -/

/-- A core without a yield request goes on at its release. -/
theorem Core.wait_released {c : Core} {bar : Nat × Nat} {T origin : Nat} {wr : Option (PReg × Bool)} {kind : BarKind} {pand por : Bool}
    (stays : c.yieldReq = false) : (c.released bar T origin wr kind pand por).wait = .none := by
  have asked : (c.enterPhase kind origin).yieldReq = false := by cases kind <;> exact stays
  have stop (c : Core) (still : c.yieldReq = false) : c.yieldAt = c := if_neg (by simp [still])
  have mark (c : Core) (bar : Nat × Nat) : (c.checkpoint bar).wait = c.wait ∧ (c.checkpoint bar).yieldReq = c.yieldReq := by
    unfold Core.checkpoint
    split <;> exact ⟨rfl, rfl⟩
  have done : ∀ c' : Core, c'.wait = .none → c'.yieldReq = false →
      (if kind = .barss then (c'.checkpoint bar).yieldAt else c').wait = .none := by
    intro c' free still
    split
    · rw [stop _ ((mark c' bar).2.trans still), (mark c' bar).1, free]
    · exact free
  cases wr <;> exact done _ rfl asked

/-- A core that the release of its barrier lets go on: it waits at a barrier, runs, and is asked for no yield. -/
structure Released (n : Nat) (s : State) : Prop where
  wait : ∃ b gen wr kind, (s.core n).wait = .barrier b gen wr kind
  mode : (s.core n).mode = .running
  stays : (s.core n).yieldReq = false

theorem Released.of_stillWaits (ok : Released n s) (kept : StillWaits n s t) : Released n t :=
  ⟨by rw [kept.wait]; exact ok.wait, kept.mode.trans ok.mode, kept.yieldReq.trans ok.stays⟩

section
variable {m T origin time : Nat} {pand por : Bool}

theorem State.afterArrivals_stillWaits (s : State) (m time : Nat) : StillWaits n s (s.afterArrivals m time) :=
  StillWaits.trans (.setCore (c := { s.core m with lt := max (s.core m).lt (time + 1) }) rfl rfl rfl)
    (State.coreWrite_stillWaits _ m _)

theorem State.releaseMember_free (free : (s.core m).wait = .none) : s.releaseMember m T origin time pand por = s := by
  rw [State.releaseMember, free]

theorem State.releaseMember_ne (other : n ≠ m) (s : State) : StillWaits n s (s.releaseMember m T origin time pand por) := by
  unfold State.releaseMember
  dsimp only
  split
  · split
    · exact .refl n s
    · exact (s.afterArrivals_stillWaits m time).trans (.setCore_ne other _ _)
  · exact .refl n s

theorem State.releaseMember_wakes (ok : Released n s) :
    ((s.releaseMember n T origin time pand por).core n).wait = .none := by
  obtain ⟨b, gen, wr, kind, wait⟩ := ok.wait
  rw [State.releaseMember, wait]
  dsimp only
  rw [if_neg (not_not.mpr ok.mode), State.core_setCore]
  exact Core.wait_released ((s.afterArrivals_stillWaits n time).yieldReq.trans ok.stays)

theorem State.releaseMember_bars (s : State) (m cl : Nat) :
    (s.releaseMember m T origin time pand por).cur = s.cur ∧
      ((s.releaseMember m T origin time pand por).cluster cl).bars = (s.cluster cl).bars :=
  let kept := State.releaseMember_ne (n := m + 1) (T := T) (origin := origin) (time := time) (pand := pand) (por := por) (by omega) s
  ⟨kept.cur, kept.bars cl⟩

/-- The members of a release, one after the other, each from its own clk on. -/
def State.releaseAll (clk : State → Nat → Nat) (origin time : Nat) (pand por : Bool) (ms : List Nat) (s : State) : State :=
  ms.foldl (fun s m => s.releaseMember m (clk s m) origin time pand por) s

theorem State.releaseAll_bars (clk : State → Nat → Nat) (ms : List Nat) (s : State) :
    (s.releaseAll clk origin time pand por ms).cur = s.cur ∧
      ∀ cl, ((s.releaseAll clk origin time pand por ms).cluster cl).bars = (s.cluster cl).bars := by
  refine List.foldlRecOn (motive := fun t : State => t.cur = s.cur ∧ ∀ cl, (t.cluster cl).bars = (s.cluster cl).bars) ms _
    ⟨rfl, fun _ => rfl⟩ fun t ⟨cur, bars⟩ m _ => ?_
  exact ⟨(t.releaseMember_bars m 0).1.trans cur, fun cl => (t.releaseMember_bars m cl).2.trans (bars cl)⟩

theorem State.releaseAll_free {clk : State → Nat → Nat} (ms : List Nat) (free : (s.core n).wait = .none) :
    ((s.releaseAll clk origin time pand por ms).core n).wait = .none := by
  refine List.foldlRecOn (motive := fun t : State => (t.core n).wait = .none) ms _ free fun t free m _ => ?_
  by_cases same : n = m
  · subst same
    rw [State.releaseMember_free free, free]
  · exact (State.releaseMember_ne same t).wait.trans free

/-- Every member that waits at the barrier goes on. -/
theorem State.releaseAll_wakes {clk : State → Nat → Nat} {ms : List Nat} (member : n ∈ ms) (ok : Released n s) :
    ((s.releaseAll clk origin time pand por ms).core n).wait = .none := by
  induction ms generalizing s with
  | nil => exact absurd member List.not_mem_nil
  | cons m ms ih =>
    by_cases same : n = m
    · subst same
      exact State.releaseAll_free ms (State.releaseMember_wakes ok)
    · exact ih ((List.mem_cons.mp member).resolve_left same) (ok.of_stillWaits (State.releaseMember_ne same s))

end

/-! ## A release and a generation that is complete (R239, R241) -/

theorem State.sendRelease_stillWaits (s : State) (cl b T time : Nat) (sup pand por : Bool) (stamp : Option Nat) (m : BarArrival) :
    StillWaits n s (s.sendRelease cl b T time sup pand por stamp m) := by
  unfold State.sendRelease
  dsimp only
  split <;> exact ⟨rfl, rfl, rfl, rfl, fun _ => rfl⟩

/-- The clk from which a member goes on: after a die-synchronous release its STALL hint adds to it (R241). -/
def resumeClk (T : Nat) (stamp : Option Nat) (s : State) (m : Nat) : Nat :=
  match stamp with
  | some r => r + 2 + (s.core m).waitStall
  | none => T + 6

theorem State.release_releases {cl b T time : Nat} {pand por : Bool} {stamp : Option Nat} (member : n ∈ s.waitersAt cl b)
    (ok : Released n s) :
    let t := s.release cl b T time pand por stamp
    t.cur = s.cur ∧ (t.core n).wait = .none ∧
      (t.cluster cl).barrier b = Barrier.fresh (stamp.getD T, time, pand, por) ((s.cluster cl).barrier b) := by
  intro t
  let opened := s.tryInstalls.onBarrier cl b (Barrier.fresh (stamp.getD T, time, pand, por))
  let gone := opened.releaseAll (resumeClk T stamp) (stamp.getD T) time pand por (s.waitersAt cl b)
  have installed := s.tryInstalls_stillWaits (n := n)
  have told : StillWaits n gone t := .foldl (fun t m => t.sendRelease_stillWaits ..) _ _
  obtain ⟨cur, bars⟩ := opened.releaseAll_bars (origin := stamp.getD T) (time := time) (pand := pand) (por := por) (resumeClk T stamp)
    (s.waitersAt cl b)
  refine ⟨(told.cur.trans cur).trans installed.cur, told.wait.trans (State.releaseAll_wakes member ?_), ?_⟩
  · obtain ⟨wait, mode, stays⟩ := ok.of_stillWaits installed
    exact ⟨wait, mode, stays⟩
  · rw [told.barrier, Cluster.barrier, bars]
    exact (State.barrier_onBarrier ..).trans (congrArg _ (installed.barrier cl b))

/-- What the held arrivals of children leave of a fresh generation. -/
theorem Barrier.fresh_fields (last : Nat × Nat × Bool × Bool) (x : Barrier) :
    (x.fresh last).gen = x.gen + 1 ∧ (x.fresh last).arr = 0 ∧ (x.fresh last).mask = x.mask := by
  refine List.foldlRecOn (motive := fun y : Barrier => y.gen = x.gen + 1 ∧ y.arr = 0 ∧ y.mask = x.mask) x.held _
    ⟨rfl, rfl, rfl⟩ fun y ok m _ => ?_
  unfold Barrier.child
  split <;> exact ok

/-- A barrier with a member that has not arrived has not completed its generation. -/
theorem State.barrierReady_missing {cl b : Nat} (missing : ((s.cluster cl).barrier b).arr ≠ ((s.cluster cl).barrier b).mask) :
    s.barrierReady cl b = false := by
  simp [State.barrierReady, missing]

theorem State.settleFrom_notReady {cl b T : Nat} (open_ : s.barrierReady cl b = false) :
    ∀ fuel, State.settleFrom cl b T fuel s = s
  | 0 => rfl
  | _ + 1 => if_pos (by rw [open_]; rfl)

theorem State.settleBarrier_notReady {cl b T : Nat} (open_ : s.barrierReady cl b = false) : s.settleBarrier cl b T = s :=
  State.settleFrom_notReady open_ _

/-- A complete generation of a barrier without parent is released, and the next one, which a member has yet to reach, is open. -/
theorem State.settleBarrier_releases {cl b T : Nat} {i : Nat} (ready : s.barrierReady cl b = true)
    (root : ((s.cluster cl).barrier b).chn = false) (some' : ((s.cluster cl).barrier b).mask.getLsbD i = true)
    (member : n ∈ s.waitersAt cl b) (ok : Released n s) :
    let t := s.settleBarrier cl b T
    t.cur = s.cur ∧ (t.core n).wait = .none ∧ ((t.cluster cl).barrier b).gen = ((s.cluster cl).barrier b).gen + 1 := by
  intro t
  let x := (s.cluster cl).barrier b
  let r := s.release cl b (max x.clk T) x.time x.pand x.por (x.stamp (max x.clk T))
  obtain ⟨cur, wait, bar⟩ : r.cur = s.cur ∧ (r.core n).wait = .none ∧ (r.cluster cl).barrier b = x.fresh _ :=
    State.release_releases member ok
  obtain ⟨gen, arr, mask⟩ := Barrier.fresh_fields ((x.stamp (max x.clk T)).getD (max x.clk T), x.time, x.pand, x.por) x
  have missing : r.barrierReady cl b = false := by
    refine State.barrierReady_missing ?_
    rw [bar, arr, mask]
    intro none'
    rw [show ((s.cluster cl).barrier b).mask = 0#24 from none'.symm, BitVec.getLsbD_zero] at some'
    exact absurd some' nofun
  have settled : t = r := by
    show State.settleFrom cl b T _ s = r
    rw [State.settleFrom]
    dsimp only
    rw [if_neg (by rw [ready]; exact nofun), if_neg (ne_true_of_eq_false root), State.settleFrom_notReady missing]
    exact ite_self r
  rw [settled, bar]
  exact ⟨cur, wait, gen⟩

/-! ## An arrival (R239, R240) -/

/-- The current core's arrival at a barrier of its cluster, in which it sleeps: what it contributes is recorded. -/
def State.arrived (s : State) (i : Instr) (b : BitVec 5) (contrib : Option Bool) (wr : Option (PReg × Bool)) (sync : Bool)
    (kind : BarKind) : State :=
  (s.evuWrite.onBarrier (clusterOf s.cur) b.toNat fun x =>
    { x with arr := x.arr ||| (1#24 <<< indexOf s.cur), pand := x.pand && contrib.getD true, por := x.por || contrib.getD false,
             contrib := x.contrib ++ [(s.cur, (contrib.getD true, contrib.getD false))], sync := x.sync || sync,
             time := max x.time s.evuWrite.cc.lt, clk := max x.clk (s.cc.tmg.clk + 4), sup := s.cc.regs.trap.sup }).sleepIn
    (.barrier b.toFin ((s.cluster (clusterOf s.cur)).barrier b.toNat).gen wr kind) i

theorem State.evuWrite_cc (s : State) : s.evuWrite.cc = { s.cc with lt := s.evuWrite.cc.lt } :=
  (s.coreWrite_timesOnly s.cur (.evu (clusterOf s.cur))).core s.cur

section
variable {i : Instr} {b : BitVec 5} {contrib : Option Bool} {wr : Option (PReg × Bool)} {sync : Bool} {kind : BarKind}

theorem State.cc_arrived (s : State) : (s.arrived i b contrib wr sync kind).cc = { s.cc with
    lt := s.evuWrite.cc.lt, access := some i
    wait := .barrier b.toFin ((s.cluster (clusterOf s.cur)).barrier b.toNat).gen wr kind } := by
  refine (State.cc_setCc ..).trans ?_
  show ({ s.evuWrite.cc with wait := _, access := _ } : Core) = _
  rw [s.evuWrite_cc]

@[simp] theorem State.cluster_sleepIn (s : State) (w : Wait) (i : Instr) (cl : Nat) : (s.sleepIn w i).cluster cl = s.cluster cl := rfl

theorem State.barrier_arrived (s : State) :
    let x := (s.cluster (clusterOf s.cur)).barrier b.toNat
    let y := ((s.arrived i b contrib wr sync kind).cluster (clusterOf s.cur)).barrier b.toNat
    y.gen = x.gen ∧ y.chn = x.chn ∧ y.mask = x.mask := by
  dsimp only
  rw [State.arrived, State.cluster_sleepIn, State.barrier_onBarrier]
  exact ⟨rfl, rfl, rfl⟩

theorem arriveAt_sleeps (mine : s.evuDenied (0x60 + b.toNat) = false)
    (on : ((s.cluster (clusterOf s.cur)).barrier b.toNat).en = true)
    (named : ((s.cluster (clusterOf s.cur)).barrier b.toNat).mask.getLsbD (indexOf s.cur) = true) :
    arriveAt i b contrib wr sync kind s = .sleep ((s.arrived i b contrib wr sync kind).settleBarrier (clusterOf s.cur) b.toNat
      (s.cc.tmg.clk + 4)) := by
  have same : s.evuWrite.cc.tmg = s.cc.tmg ∧ s.evuWrite.cc.regs = s.cc.regs := by
    rw [s.evuWrite_cc]
    exact ⟨rfl, rfl⟩
  refine (if_neg (ne_true_of_eq_false mine)).trans ((if_neg (by rw [on, named]; exact nofun)).trans ?_)
  dsimp only
  rw [same.1, same.2]
  rfl

theorem arriveAt_off (mine : s.evuDenied (0x60 + b.toNat) = false)
    (off : ((s.cluster (clusterOf s.cur)).barrier b.toNat).en = false) :
    arriveAt i b contrib wr sync kind s = .trap s .illegalOpc 0x0D 0 :=
  (if_neg (ne_true_of_eq_false mine)).trans (if_pos (by rw [off]; rfl))

/-- The core that arrives is one of those that wait at the barrier. -/
theorem State.mem_waitersAt_arrived (s : State) :
    s.cur ∈ (s.arrived i b contrib wr sync kind).waitersAt (clusterOf s.cur) b.toNat := by
  have wait : ((s.arrived i b contrib wr sync kind).core s.cur).wait = _ := congrArg Core.wait s.cc_arrived
  have place : clusterOf s.cur * 24 + indexOf s.cur = s.cur := Nat.div_add_mod' s.cur 24
  have index : indexOf s.cur < 24 := Nat.mod_lt _ (by decide)
  refine List.mem_filter.mpr ⟨List.mem_map.mpr ⟨indexOf s.cur, List.mem_range.mpr index, place⟩, ?_⟩
  rw [wait]
  exact beq_self_eq_true _

end

/-- A sleep leaves what the core waits for and the clusters, whether a yield request is pending or not. -/
theorem finish_sleep_keeps (h : Hdr) (t : Nat) (s : State) :
    ∃ u, finish h t (.sleep s) = .next u ∧ u.cc.wait = s.cc.wait ∧ ∀ cl, u.cluster cl = s.cluster cl := by
  have core : (s.setCc { s.cc.setTmg (fun m => { m with inside := none }) with waitStall := h.stall.toNat }).cc.wait = s.cc.wait := by
    rw [State.cc_setCc]
    rfl
  by_cases asked : (s.setCc { s.cc.setTmg (fun m => { m with inside := none }) with waitStall := h.stall.toNat }).cc.yieldReq = true
  · exact ⟨_, congrArg Host.Outcome.next (if_pos asked), core, fun _ => rfl⟩
  · exact ⟨_, congrArg Host.Outcome.next (if_neg asked), core, fun _ => rfl⟩

/-- The word `i` arrives at a barrier that names its core: it sleeps there, or where the generation is complete and the barrier has no
parent, its core goes on and a new generation is open. -/
theorem exec_arrives {i as_ : Instr} {h : Hdr} {u : Uses} {eff : State → Eff} {b : BitVec 5} {contrib : Option Bool}
    {wr : Option (PReg × Bool)} {sync : Bool} {kind : BarKind} {s1 : State} (meaning : exec i s = issueWord h 0 0 0 u eff s)
    (issues : Issues h u s) (here : s1 = issued h 0 0 0 u s) (arrives : eff s1 = arriveAt as_ b contrib wr sync kind s1)
    (mine : s1.evuDenied (0x60 + b.toNat) = false) (on : ((s1.cluster (clusterOf s1.cur)).barrier b.toNat).en = true)
    (named : ((s1.cluster (clusterOf s1.cur)).barrier b.toNat).mask.getLsbD (indexOf s1.cur) = true)
    (stays : s1.cc.yieldReq = false) (running : s1.cc.mode = .running) :
    let s2 := s1.arrived as_ b contrib wr sync kind
    (s2.barrierReady (clusterOf s1.cur) b.toNat = false →
      exec i s = .next (s2.setCc { s2.cc with waitStall := h.stall.toNat })) ∧
    (s2.barrierReady (clusterOf s1.cur) b.toNat = true → ((s1.cluster (clusterOf s1.cur)).barrier b.toNat).chn = false →
      ∃ t, exec i s = .next t ∧ t.cc.wait = .none ∧
        ((t.cluster (clusterOf s1.cur)).barrier b.toNat).gen = ((s1.cluster (clusterOf s1.cur)).barrier b.toNat).gen + 1) := by
  intro s2
  have core : s2.cc = _ := s1.cc_arrived
  obtain ⟨gen, chn, mask⟩ := s1.barrier_arrived (i := as_) (b := b) (contrib := contrib) (wr := wr) (sync := sync) (kind := kind)
  have slept : exec i s = finish h s1.cc.tmg.clk (.sleep (s2.settleBarrier (clusterOf s1.cur) b.toNat (s1.cc.tmg.clk + 4))) := by
    subst here
    rw [meaning, issueWord_sleeps issues (arrives.trans (arriveAt_sleeps mine on named))]
  constructor
  · intro open_
    have notBefore : s2.cc.tmg.inside = none := by
      rw [core, here, cc_issued]
      exact (s.cc.inside_atIssue h 0 0 0 u).trans issues.1
    rw [slept, State.settleBarrier_notReady open_, finish_sleep notBefore (by rw [core]; exact stays)]
  · intro ready root
    have released : Released s1.cur s2 := ⟨⟨_, _, _, _, congrArg Core.wait core⟩, (congrArg Core.mode core).trans running,
      (congrArg Core.yieldReq core).trans stays⟩
    obtain ⟨cur, wait, next⟩ := State.settleBarrier_releases (T := s1.cc.tmg.clk + 4) ready (chn.trans root) (by rw [mask]; exact named)
      s1.mem_waitersAt_arrived released
    obtain ⟨t, ends, keeps, clusters⟩ := finish_sleep_keeps h s1.cc.tmg.clk
      (s2.settleBarrier (clusterOf s1.cur) b.toNat (s1.cc.tmg.clk + 4))
    refine ⟨t, slept.trans ends, keeps.trans ?_, ?_⟩
    · rw [State.cc, cur]
      exact wait
    · rw [clusters, next, gen]

end

end Sys2Proof.Machine

namespace Sys2Proof
open Machine Claims

/-- Settles O15: each word is an arrival in the state of its issue; a complete generation is released, its members one after the other. -/
theorem barriers : Obligations.Barriers := by
  intro b d a isOr h s arrives
  refine ⟨?bar, ?barss, ?spred, fun tim => ?phase, fun notTim => ?notTimed, fun tim => ?notCompute, ?off⟩
  case bar =>
    intro issues s1 n cl x _ mine on named stays running
    exact exec_arrives (exec_bar h b s) issues rfl rfl mine on named stays running
  case barss =>
    intro issues s1 n cl x _ mine on named stays running
    exact exec_arrives (exec_barss h b s) issues rfl rfl mine on named stays running
  case spred =>
    intro issues s1 n cl x _ mine on named stays running
    exact exec_arrives (exec_spred h d a isOr b s) issues rfl rfl mine on named stays running
  case phase =>
    intro issues s1 n cl x compute mine on named stays running
    exact exec_arrives ((exec_phase h b s).trans (if_neg (by rw [tim]; exact nofun))) issues rfl (if_neg (not_not.mpr compute)) mine on
      named stays running
  case notTimed => exact (exec_phase h b s).trans (if_pos (by rw [notTim]; rfl))
  case notCompute =>
    intro issues other
    exact ((exec_phase h b s).trans (if_neg (by rw [tim]; exact nofun))).trans (issueWord_traps issues (if_pos other))
  case off =>
    intro issues mine off
    exact (exec_bar h b s).trans (issueWord_traps issues (arriveAt_off mine off))

end Sys2Proof
end

section
/-! Messages as they land (R235, R236, R239, R241, R388, R391, R394, R395, R404, R472, R522). -/
namespace Sys2Proof.Machine
open Sys2Proof

variable {s : State}

@[simp] theorem State.line_onLine (s : State) (cl e : Nat) (f : EvLine → EvLine) :
    ((s.onLine cl e f).cluster cl).line e = f ((s.cluster cl).line e) := by
  simp [State.onLine, Cluster.line, Tab.get_set_self]

/-! ## Child arrivals and releases (R239, R241) -/

theorem Barrier.child_counted {x : Barrier} {m : BarArrival} (room : x.carr < x.nch) :
    (x.child m).carr = x.carr + 1 ∧ (x.child m).pand = (x.pand && m.pand) ∧ (x.child m).por = (x.por || m.por) ∧
      (x.child m).time = max x.time m.time := by
  rw [Barrier.child, if_neg (BitVec.not_le.mpr room)]
  exact ⟨rfl, rfl, rfl, rfl⟩

theorem Barrier.child_held {x : Barrier} {m : BarArrival} (full : x.nch ≤ x.carr) : x.child m = { x with held := x.held ++ [m] } :=
  if_pos full

theorem execBarrierReleaseMessage_sent {m : BarRelease} (sent : ((s.cluster m.cl).barrier m.b.val).sent = true) :
    let x := (s.cluster m.cl).barrier m.b.val
    let due := if m.sync then m.clk else s.clk + 4
    let passed := s.release m.cl m.b.val due (max x.time m.time) m.pand m.por
      (if m.sameDie then (if m.sync then some m.clk else none) else x.stamp due)
    execBarrierReleaseMessage m s = .next (if x.held = [] then passed else passed.settleBarrier m.cl m.b.val due) := by
  intro x due passed
  rw [execBarrierReleaseMessage]
  refine (if_neg (by rw [sent]; exact nofun)).trans ?_
  simp only [List.isEmpty_iff]
  rfl

/-! ## Claims and their answers (R391, R392) -/

section
variable {m : Claim} {n : Nat}

theorem execChannelClaim_releases (rel : m.rel = true) (own : (s.core m.dst).comm.slots[m.slot].owner = some (m.src, m.ch)) :
    execChannelClaim m s = .next ((s.onComm m.dst fun c => c.setSlot m.slot {}).landed m.tag m.src) :=
  (if_pos rel).trans (by rw [if_pos own])

theorem execChannelClaim_grants (claims : m.rel = false) (free : (s.core m.dst).comm.slots[m.slot].owner = none) :
    execChannelClaim m s = .next ((s.onComm m.dst fun c => c.setSlot m.slot { owner := some (m.src, m.ch) }).sendLcn m.dst m.tag m.src
      (s.core m.dst).regs.trap.sup fun _ => .channelClaimAnswer m true) := by
  refine (if_neg (ne_true_of_eq_false claims)).trans ?_
  rw [free, Option.isNone_none, if_pos rfl]
  rw [State.onComm, State.core_setCore]

theorem execChannelClaim_refuses (claims : m.rel = false) (taken : (s.core m.dst).comm.slots[m.slot].owner ≠ none) :
    execChannelClaim m s = .next (s.sendLcn m.dst m.tag m.src (s.core m.dst).regs.trap.sup fun _ => .channelClaimAnswer m false) := by
  refine (if_neg (ne_true_of_eq_false claims)).trans ?_
  rw [Option.isNone_eq_false_iff.mpr (Option.isSome_iff_ne_none.mpr taken), if_neg nofun]

/-- The answer settles the declaration that it was for. -/
theorem execChannelClaimAnswer_settles {x : Chan} (place : s.ofLcn m.tag m.src = some n) (chan : (s.core n).comm.chans[m.ch] = some x)
    (pending : x.pending = true) (same : x.decl = m.decl) (granted : Bool) :
    let c := s.core n
    let y : Option Chan := if granted then some { x with credit := true, pending := false } else none
    let c1 := { c with comm := c.comm.setChan m.ch y }
    execChannelClaimAnswer m granted s = .next ((s.setCore n
      ((c1.slipResult (.g m.gdst (if granted then 1 else 0))).setTmg fun t =>
        { t with owed := t.owed.erase (opG m.gdst) })).recheckBarriers (clusterOf n)) := by
  rw [execChannelClaimAnswer, place]
  dsimp only
  rw [chan, Option.filter_some_pos (by simp [pending, same])]

/-- The answer to a declaration that is no more. -/
theorem execChannelClaimAnswer_late (place : s.ofLcn m.tag m.src = some n) (gone : (s.core n).comm.chans[m.ch] = none ∨
      ∃ x, (s.core n).comm.chans[m.ch] = some x ∧ (x.pending = false ∨ x.decl ≠ m.decl)) (granted : Bool) :
    execChannelClaimAnswer m granted s = .next ((s.undeclare n m granted).recheckBarriers (clusterOf n)) := by
  have none' : ((s.core n).comm.chans[m.ch]).filter (fun x => x.pending && x.decl == m.decl) = none := by
    rcases gone with none' | ⟨x, chan, settled | other⟩
    · rw [none', Option.filter_none]
    · rw [chan, Option.filter_some_neg (by simp [settled])]
    · rw [chan, Option.filter_some_neg (by simp [other])]
  rw [execChannelClaimAnswer, place]
  dsimp only
  rw [none']

end

/-! ## Channel messages (R388, R394, R395) -/

section
variable {core : Nat} {slot : Fin 16} {m : ChanMsg}

theorem execChannelMessageLand_lost (lost : (s.core core).comm.slots[slot].owner ≠ some (m.src, m.ch)) :
    execChannelMessageLand core slot m s = .next (s.landed (s.core core).ctag m.src) := if_pos lost

theorem execChannelMessageLand_held (own : (s.core core).comm.slots[slot].owner = some (m.src, m.ch))
    (compute : (s.core core).regs.trap.phase = 1) : execChannelMessageLand core slot m s =
      .next ((s.onComm core fun k => k.setSlot slot { (s.core core).comm.slots[slot] with held := some m }).landed
        (s.core core).ctag m.src) :=
  (if_neg (not_not.mpr own)).trans (if_pos compute)

theorem execChannelMessageLand_fills (own : (s.core core).comm.slots[slot].owner = some (m.src, m.ch))
    (outside : (s.core core).regs.trap.phase ≠ 1) (awake : (s.core core).wait = .none) : execChannelMessageLand core slot m s =
      .next ((s.onComm core fun k => k.setSlot slot { (s.core core).comm.slots[slot] with full := true, msg := m }).landed
        (s.core core).ctag m.src) := by
  refine (if_neg (not_not.mpr own)).trans ((if_neg outside).trans ?_)
  rw [awake]

theorem execChannelMessageLand_wakes {d : VReg} (own : (s.core core).comm.slots[slot].owner = some (m.src, m.ch))
    (outside : (s.core core).regs.trap.phase ≠ 1) (asleep : (s.core core).wait = .slot slot d) :
    let s1 := (s.onComm core fun k => k.setSlot slot { (s.core core).comm.slots[slot] with full := true, msg := m }).receive core slot d
    execChannelMessageLand core slot m s =
      .next ((s1.wakeWith core (s.clk + 2) fun c => c.complete c.tmg.clk c.waitStall).landed (s.core core).ctag m.src) := by
  refine (if_neg (not_not.mpr own)).trans ((if_neg outside).trans ?_)
  rw [asleep]
  dsimp only
  rw [if_pos rfl]
  rfl

end

end Sys2Proof.Machine

namespace Sys2Proof
open Machine

/-- Settles O25: each message by the branch that it meets where it lands. -/
theorem messageEvents : Obligations.MessageEvents := by
  intro s m ba br cm core slot ch land cmsg n x v ep immd data mayUse bar due passed sl tgt
  have denied : (!m.sup && !(s.cluster m.cl).owns (rtagLine m.line.val) m.tag) = !mayUse := by simp [mayUse, rtagLine]
  refine ⟨fun may => ?used, fun mayNot => ?dropped, ⟨rfl, ?count⟩, rfl, fun _ => Barrier.child_counted, fun _ => Barrier.child_held,
    fun unsent => ?early, fun sent => ?released, fun rel own => ?givenUp, fun claims free => ?granted, fun claims taken => ?refused,
    fun place chan pending same granted => ?settled, fun place gone => ⟨?lateRefusal, ?lateGrant⟩, fun lost => ?lost,
    fun own compute => ?held, fun own outside awake => ?filled, fun d own outside asleep => ?woken, fun none' => ?noChannel,
    fun chan => ?credit, ?timed, fun invalid => ?noEndpoint⟩
  case used => exact if_neg (by rw [denied, may]; exact nofun)
  case dropped => exact if_pos (by rw [denied, mayNot]; rfl)
  case count => exact congrArg EvLine.count (s.line_onLine m.cl m.line.val _)
  case early => exact if_pos (by rw [unsent]; rfl)
  case released => exact execBarrierReleaseMessage_sent sent
  case givenUp => exact execChannelClaim_releases rel own
  case granted => exact execChannelClaim_grants claims free
  case refused => exact execChannelClaim_refuses claims taken
  case settled => exact execChannelClaimAnswer_settles place chan pending same granted
  case lateRefusal => exact execChannelClaimAnswer_late place gone false
  case lateGrant => exact execChannelClaimAnswer_late place gone true
  case lost => exact execChannelMessageLand_lost lost
  case held => exact execChannelMessageLand_held own compute
  case filled => exact execChannelMessageLand_fills own outside awake
  case woken => exact execChannelMessageLand_wakes own outside asleep
  case noChannel => rw [exec_channelGrant, execChannelGrant, none']
  case credit => exact ⟨_, by rw [exec_channelGrant, execChannelGrant, chan], rfl⟩
  case timed => exact (apply_ite Host.Outcome.next ..).symm
  case noEndpoint => exact if_pos (by rw [invalid]; rfl)

end Sys2Proof
end

section
/-! FENCE (R246 to R248): what a path that is done leaves of the core, and the paths in order. -/
namespace Sys2Proof.Machine
open Sys2Proof Sys2Proof.Claims

/-! ## A word that completes, and one that waits inside its effect (R24) -/

theorem issueWord_completes {h : Hdr} {d sa sb : BitVec 7} {u : Uses} {eff : State → Eff} {s t : State} (issues : Issues h u s)
    (done : eff (issued h d sa sb u s) = .done t) :
    issueWord h d sa sb u eff s = .next (ends h (s.cc.atIssue h d sa sb u).tmg.clk t) := by
  rw [issueWord_done issues done, cc_issued]

/-- A word whose effect stops at a point where no yield acts waits there for a clk. -/
theorem issueWord_points {h : Hdr} {d sa sb : BitVec 7} {u : Uses} {eff : State → Eff} {s r : State} (issues : Issues h u s)
    (points : eff (issued h d sa sb u s) = .point r) (stays : r.cc.mayYield = false) (notBefore : r.cc.tmg.inside = none) :
    issueWord h d sa sb u eff s = .next (waitsInside s (issued h d sa sb u s).cc.tmg.clk r) := by
  rw [issueWord_of_issues issues, points, cc_issued]
  refine (if_neg ?_).trans (congrArg Host.Outcome.next ?_)
  · rw [State.cc_setCc]
    show ¬ (r.cc.mayYield && _) = true
    rw [stays]
    exact nofun
  · rw [State.cc_setCc, waitsInside, Core.waitInside]
    refine (State.setCc_setCc ..).trans ?_
    simp only [Core.setTmg, notBefore]
    rfl

/-! ## The paths of a fence, one after the other -/

section
variable (c : Core) (times : Fin 8 → Nat) (core : Bool) (q : Fin 8) (qs : List (Fin 8))

/-- One path that is done (R247). -/
def Core.fencedPath : Core :=
  let c := if core then { c with lt := max c.lt (times q) } else c
  { c with ft := c.ft.set q (max c.ft[q] c.lt) }

theorem Core.fencedOn_cons : c.fencedOn times core (q :: qs) = (c.fencedPath times core q).fencedOn times core qs := rfl

theorem Core.fencedPath_lt : (c.fencedPath times core q).lt = if core then max c.lt (times q) else c.lt := by
  cases core <;> rfl
theorem Core.fencedPath_ft (p : Fin 8) : (c.fencedPath times core q).ft[p] =
    if q = p then max c.ft[p] (c.fencedPath times core q).lt else c.ft[p] := by
  by_cases same : q = p
  · subst same
    rw [if_pos rfl]
    cases core <;> exact Vector.getElem_set_self _
  · have places : q.val ≠ p.val := fun h => same (Fin.ext h)
    rw [if_neg same]
    cases core <;> exact Vector.getElem_set_ne q.isLt p.isLt places

/-- A fence changes the logical time and the fence times of its core. -/
theorem Core.fencedOn_eq :
    c.fencedOn times core qs = { c with lt := (c.fencedOn times core qs).lt, ft := (c.fencedOn times core qs).ft } := by
  refine List.foldlRecOn (motive := fun k : Core => k = { c with lt := k.lt, ft := k.ft }) qs _ rfl fun k ok q _ => ?_
  cases core <;> (rw [ok]; rfl)
theorem Core.fencedOn_fields : (c.fencedOn times core qs).regs = c.regs ∧ (c.fencedOn times core qs).spad = c.spad ∧
    (c.fencedOn times core qs).tmg = c.tmg ∧ (c.fencedOn times core qs).mayYield = c.mayYield := by
  rw [Core.fencedOn_eq]
  exact ⟨rfl, rfl, rfl, rfl⟩

end

section
variable {c : Core} {times : Fin 8 → Nat} {core : Bool} {q : Fin 8} {qs : List (Fin 8)}

theorem Core.le_lt_fencedPath : c.lt ≤ (c.fencedPath times core q).lt := by
  rw [Core.fencedPath_lt]
  split
  · exact le_max_left _ _
  · exact le_rfl
theorem Core.le_ft_fencedPath (p : Fin 8) : c.ft[p] ≤ (c.fencedPath times core q).ft[p] := by
  rw [Core.fencedPath_ft]
  split
  · exact le_max_left _ _
  · exact le_rfl
theorem Core.lt_le_ft_fencedPath : c.lt ≤ (c.fencedPath times core q).ft[q] := by
  rw [Core.fencedPath_ft, if_pos rfl]
  exact Core.le_lt_fencedPath.trans (le_max_right _ _)

theorem Core.le_lt_fencedOn : c.lt ≤ (c.fencedOn times core qs).lt := by
  induction qs generalizing c with
  | nil => exact le_rfl
  | cons q qs ih => exact Core.le_lt_fencedPath.trans ih

theorem Core.le_ft_fencedOn (p : Fin 8) : c.ft[p] ≤ (c.fencedOn times core qs).ft[p] := by
  induction qs generalizing c with
  | nil => exact le_rfl
  | cons q qs ih => exact (Core.le_ft_fencedPath p).trans ih

theorem Core.lt_fencedOn_of_other_path : (c.fencedOn times false qs).lt = c.lt := by
  induction qs generalizing c with
  | nil => rfl
  | cons q qs ih => exact ih.trans (Core.fencedPath_lt ..)

/-- Where path C is named, the core's logical time is no lower than that of a named path (R247). -/
theorem Core.le_lt_fencedOn_of_mem (named : q ∈ qs) : times q ≤ (c.fencedOn times true qs).lt := by
  induction qs generalizing c with
  | nil => exact absurd named List.not_mem_nil
  | cons p qs ih =>
    rcases List.mem_cons.mp named with rfl | later
    · have step : times q ≤ (c.fencedPath times true q).lt := by
        rw [Core.fencedPath_lt]
        exact le_max_right _ _
      exact step.trans Core.le_lt_fencedOn
    · exact ih later

/-- Later accesses of a named path come after the core's logical time (R247). -/
theorem Core.lt_le_ft_fencedOn (named : q ∈ qs) : c.lt ≤ (c.fencedOn times core qs).ft[q] := by
  induction qs generalizing c with
  | nil => exact absurd named List.not_mem_nil
  | cons p qs ih =>
    rcases List.mem_cons.mp named with rfl | later
    · exact Core.lt_le_ft_fencedPath.trans (Core.le_ft_fencedOn q)
    · exact Core.le_lt_fencedPath.trans (ih later)

theorem mem_namedPaths {paths : BitVec 8} : q ∈ namedPaths paths ↔ q.val ≠ 0 ∧ paths.getLsbD q.val = true := by
  simp [namedPaths, -ne_eq]

end

/-! ## The effect of FENCE -/

section
variable {scope : BitVec 3} {paths : BitVec 8} {s : State}

/-- The time that a fence waits for is no later than that of the core as it issued and those of the named paths. -/
theorem State.fenceTime_le {n k : Nat} (start : (s.core n).tmg.inside.getD (s.core n).lt ≤ k)
    (named : ∀ q ∈ namedPaths paths, s.pathTime n q.val ≤ k) : s.fenceTime n paths ≤ k :=
  List.foldlRecOn (motive := (· ≤ k)) _ _ start fun _ ok q hq => max_le ok (named q hq)

theorem fenceEff_denied (denied : s.scopeDenied scope = true) : fenceEff scope paths s = .trap s .scope (scope.setWidth 64) 0 :=
  if_pos denied

/-- With every path that is left done, and the floor where it has to be, a fence completes. -/
theorem fenceEff_done {left : List (Fin 8)} (toDo : left = (namedPaths paths).drop s.cc.fencePaths)
    (allowed : s.scopeDenied scope = false) (done : ∀ q ∈ left, s.pathDone s.cur q.val = true)
    (reached : scope ≠ 4 ∨ paths.getLsbD 0 = false ∨ s.fenceTime s.cur paths ≤ s.floor) :
    fenceEff scope paths s = .done (s.setCc ((s.cc.fencedOn (fun q => s.pathTime s.cur q.val) (paths.getLsbD 0) left).setTmg fun m =>
      { m with fenceDone := s.cc.fencePaths + left.length })) := by
  have all : left.takeWhile (fun q => s.pathDone s.cur q.val) = left := List.takeWhile_eq_self_iff.mpr done
  have noWait : ¬ (scope = 4 ∧ paths.getLsbD 0 = true ∧ s.floor < s.fenceTime s.cur paths) := by
    rintro ⟨system, core, below⟩
    rcases reached with other | others | low
    · exact other system
    · exact absurd (core.symm.trans others) nofun
    · omega
  refine (if_neg (ne_true_of_eq_false allowed)).trans ?_
  rw [← toDo, all, if_neg (lt_irrefl _), if_neg noWait]

/-- A path that is not done holds the fence, which keeps what the paths before it have raised. -/
theorem fenceEff_points {left done : List (Fin 8)} {q : Fin 8} (toDo : left = (namedPaths paths).drop s.cc.fencePaths)
    (before : done = left.takeWhile fun q => s.pathDone s.cur q.val) (allowed : s.scopeDenied scope = false) (named : q ∈ left)
    (busy : s.pathDone s.cur q.val = false) :
    fenceEff scope paths s = .point (s.setCc ((s.cc.fencedOn (fun q => s.pathTime s.cur q.val) (paths.getLsbD 0) done).setTmg fun m =>
      { m with fenceDone := s.cc.fencePaths + done.length })) := by
  have fewer : done.length < left.length := by
    have initial : done <+: left := before ▸ List.takeWhile_prefix _
    refine lt_of_le_of_ne initial.length_le fun same => ?_
    have all := List.takeWhile_eq_self_iff.mp (before.symm.trans (initial.eq_of_length same)) q named
    exact absurd (busy.symm.trans all) nofun
  refine (if_neg (ne_true_of_eq_false allowed)).trans ?_
  rw [← toDo, ← before, if_pos fewer]

end

end Sys2Proof.Machine

namespace Sys2Proof
open Machine Claims

/-- R246 to R248: the word by the paths that are done where it issues, and where it goes on; the paths one after the other. -/
theorem fences : Claims.Fences := by
  intro scope paths ready left after
  have meaning (h : Hdr) (s : State) : exec (.fence h scope paths) s = issueWord h 0 0 0 {} (fenceEff scope paths) s := exec_fence ..
  have fresh {h : Hdr} {s : State} (issues : Issues h {} s) : (issued h 0 0 0 {} s).cc.tmg.inside = none := by
    rw [cc_issued]
    exact (s.cc.inside_atIssue h 0 0 0 {}).trans issues.1
  have first {s : State} (none' : s.cc.tmg.inside = none) : s.cc.fencePaths = 0 := if_neg (by rw [none']; exact nofun)
  refine ⟨?completes, traps_of_issueWord meaning fun s denied => fenceEff_denied denied, ?waits, ?goesOn, fun s => ⟨?regs, ?spad,
    Core.le_lt_fencedOn, fun core q other named => ?past, fun notCore => ?kept, fun q other named => ?later, fun q =>
      Core.le_ft_fencedOn q⟩⟩
  case completes =>
    intro h s issues ⟨allowed, done, floor⟩
    have none' := first (fresh issues)
    rw [meaning, issueWord_completes issues (fenceEff_done (left := namedPaths paths) (by rw [none']; rfl) allowed ?_ ?_), none',
      Nat.zero_add]
    · rfl
    · intro q named
      obtain ⟨other, inMask⟩ := mem_namedPaths.mp named
      exact done q q.isLt other inMask
    · refine floor.imp_right (Or.imp_right fun ⟨core, named⟩ => State.fenceTime_le ?_ fun q hq => ?_)
      · rw [← State.cc, fresh issues]
        exact core
      · obtain ⟨other, inMask⟩ := mem_namedPaths.mp hq
        exact named q q.isLt other inMask
  case waits =>
    intro h s issues s1 q other inMask busy stays allowed done c1
    have none' := first (fresh issues)
    obtain ⟨-, -, tmg, yields⟩ := Core.fencedOn_fields s1.cc (fun q => s1.pathTime s.cur q.val) (paths.getLsbD 0) done
    rw [meaning, issueWord_points issues (fenceEff_points (left := namedPaths paths) (done := done) (q := q) (by rw [none']; rfl) rfl
      allowed (mem_namedPaths.mpr ⟨other, inMask⟩) busy) ?_ ?_, none', Nat.zero_add]
    · rfl
    · rw [State.cc_setCc]
      exact yields.trans stays
    · rw [State.cc_setCc]
      exact (congrArg Timing.inside tmg).trans (fresh issues)
  case goesOn =>
    intro h s inside ⟨allowed, done, floor⟩
    have again : (goingOn h s).cc.tmg.inside = s.cc.tmg.inside := by
      rw [goingOn, State.cc_setCc]
      rfl
    have since : (goingOn h s).cc.fencePaths = (goingOn h s).cc.tmg.fenceDone := if_pos (by rw [again]; exact inside)
    obtain ⟨-, -, tmg, -⟩ := Core.fencedOn_fields (goingOn h s).cc (fun q => (goingOn h s).pathTime s.cur q.val) (paths.getLsbD 0)
      (left (goingOn h s))
    obtain ⟨start, atStart⟩ := Option.isSome_iff_exists.mp inside
    have effect := fenceEff_done (left := left (goingOn h s)) (by rw [since]) allowed done floor
    rw [meaning, issueWord_goesOn atStart, show fenceEff scope paths (s.setCc (s.cc.goOn h)) = _ from effect, since,
      ← congrArg Timing.fenceDone tmg]
    rfl
  case regs => exact (Core.fencedOn_fields ..).1
  case spad => exact (Core.fencedOn_fields ..).2.1
  case past =>
    show _ ≤ (Core.fencedOn _ _ _ _).lt
    rw [core]
    exact Core.le_lt_fencedOn_of_mem (times := fun q => s.pathTime s.cur q.val) (mem_namedPaths.mpr ⟨other, named⟩)
  case kept =>
    show (Core.fencedOn _ _ _ _).lt = _
    rw [notCore]
    exact Core.lt_fencedOn_of_other_path
  case later => exact Core.lt_le_ft_fencedOn (mem_namedPaths.mpr ⟨other, named⟩)

end Sys2Proof
end

section
/-! Waiting for the engines' commands, cancelling them, and requests of a storage ring (R356, R380 to R382). -/
namespace Sys2Proof.Machine
open Sys2Proof Sys2Proof.Claims

/-! ## Cancelling (R382) -/

section
variable {s : State} {n : Nat} {cmd : Cmd}

theorem State.cancel_armed {t : Fin 32} (armed : cmd.st = .armed t) : (s.cancel n cmd).2 = 1 := by
  rw [State.cancel, armed]
theorem State.cancel_started (started : cmd.st = .started) : (s.cancel n cmd).2 = 2 := by
  rw [State.cancel, started]

end

/-! ## Requests of a ring (R372, R380) -/

/-- The rings that may be asked: of the core's virtual device, enabled, and of a size that is configured. -/
def Ring.usable (r : Ring) : Prop := r.en = true ∧ 4 ≤ r.log ∧ r.log ≤ 12

/-- The effect of SRING (R380) on ring `r` of the core's virtual device `v`. -/
def sringEff (d a : GReg) (r : BitVec 4) (v : Nat) (ring : Ring) (s : State) : Eff :=
  let c := (s.cc.rdG a).toNat
  let size := 2 ^ ring.log
  if !ring.en || decide (ring.log < 4) || decide (12 < ring.log) || (s.vdOf s.cur).isNone then .trap s .bounds (r.setWidth 64) 0
  else if 64 < c ∨ size < c then .trap s .xsize (s.cc.rdG a) 0
  else if c = 0 then .done (s.setCc (s.cc.slipResult (.g d (BitVec.ofNat 64 s.cc.eng.isq[(2 : Fin 4)]))))
  else if !s.pathDone s.cur 5 || decide (size < s.ringUnread v r.toNat + c) || decide (128 < s.cc.eng.cmds.length + c) then .stall s
  else
    let n := s.cur
    let s := s.setCc (s.cc.fenced (fun q => s.pathTime n q.val) 0x21)
    let s := s.onVd v fun x => { x with rings := Tab.set x.rings r.toNat { ring with tail := (ring.tail + c) % size } }
    let s := State.readRing v r.toNat 128 ((s.taint n).acceptRing n v r.toNat size c ring.tail)
    .done (s.setCc (s.cc.slipResult (.g d (BitVec.ofNat 64 s.cc.eng.isq[(2 : Fin 4)]))))

/-- A ring of a virtual device. -/
def State.ringAt (s : State) (v : Nat) (r : BitVec 4) : Ring := Tab.get {} (s.vd v).rings r.toNat

theorem exec_sring_sringEff (h : Hdr) (d a : GReg) (r : BitVec 4) (s : State) :
    exec (.sring h d a r) s = issueWord h 0 0 0 { srcs := [opG a], dsts := [opG d] }
      (fun s => sringEff d a r ((s.vdOf s.cur).getD 0) (s.ringAt ((s.vdOf s.cur).getD 0) r) s) s := rfl

section
variable {d a : GReg} {r : BitVec 4} {v : Nat} {ring : Ring} {s : State}

theorem sringEff_unusable (bad : ring.en = false ∨ ring.log < 4 ∨ 12 < ring.log) :
    sringEff d a r v ring s = .trap s .bounds (r.setWidth 64) 0 := by
  refine if_pos ?_
  rcases bad with off | small | large
  · simp [off]
  · simp [small]
  · simp [large]

variable (place : s.vdOf s.cur = some v) (usable : ring.usable)
include place usable

theorem Ring.not_refused :
    ¬ (!ring.en || decide (ring.log < 4) || decide (12 < ring.log) || (s.vdOf s.cur).isNone) = true := by
  obtain ⟨on, low, high⟩ := usable
  simp [on, place, low, high]

theorem sringEff_tooMany (many : 64 < (s.cc.rdG a).toNat ∨ 2 ^ ring.log < (s.cc.rdG a).toNat) :
    sringEff d a r v ring s = .trap s .xsize (s.cc.rdG a) 0 :=
  (if_neg (Ring.not_refused place usable)).trans (if_pos many)

theorem sringEff_none (none' : (s.cc.rdG a).toNat = 0) : sringEff d a r v ring s =
    .done (onCore (fun c => c.slipResult (.g d (BitVec.ofNat 64 s.cc.eng.isq[(2 : Fin 4)]))) s) := by
  refine (if_neg (Ring.not_refused place usable)).trans ((if_neg ?_).trans (if_pos none'))
  rw [none']
  exact (·.elim (Nat.not_lt_zero _) (Nat.not_lt_zero _))

theorem sringEff_accepts (some' : (s.cc.rdG a).toNat ≠ 0) (most : (s.cc.rdG a).toNat ≤ 64)
    (fits : (s.cc.rdG a).toNat ≤ 2 ^ ring.log) (done : s.pathDone s.cur 5 = true)
    (room : s.ringUnread v r.toNat + (s.cc.rdG a).toNat ≤ 2 ^ ring.log)
    (inFlight : s.cc.eng.cmds.length + (s.cc.rdG a).toNat ≤ 128) :
    sringEff d a r v ring s =
      let c := (s.cc.rdG a).toNat
      let s1 := onCore (fun c => c.fenced (fun q => s.pathTime s.cur q.val) 0x21) s
      let s2 := s1.onVd v fun x => { x with rings := Tab.set x.rings r.toNat { ring with tail := (ring.tail + c) % 2 ^ ring.log } }
      let s3 := State.readRing v r.toNat 128 ((s2.taint s.cur).acceptRing s.cur v r.toNat (2 ^ ring.log) c ring.tail)
      .done (onCore (fun c => c.slipResult (.g d (BitVec.ofNat 64 s3.cc.eng.isq[(2 : Fin 4)]))) s3) := by
  refine (if_neg (Ring.not_refused place usable)).trans ((if_neg (by omega)).trans ((if_neg some').trans (if_neg ?_)))
  simp [done, room, inFlight]

end

/-! ## A failure that XWAIT takes (R381) -/

theorem EFault.taken_iff (f : EFault) (q : Nat) : (f.v && decide (f.seq.toNat ≤ q)) = true ↔ f.v = true ∧ f.seq.toNat ≤ q := by
  rw [Bool.and_eq_true_iff, decide_eq_true_iff]

/-- The causes of a failed command are told apart by their codes. -/
theorem find_failCause {k : Cause} {f : BitVec 6} (kind : k = .access ∨ k = .bounds ∨ k = .poison) (code : f = k.code.setWidth 6) :
    (([.access, .bounds, .poison] : List Cause).find? fun k => k.code.setWidth 6 == f).getD .bounds = k := by
  subst code
  rcases kind with rfl | rfl | rfl <;> rfl

end Sys2Proof.Machine

namespace Sys2Proof
open Machine Claims

/-- R356, R380 to R382: each word by the branch of its effect. -/
theorem engineWaits : Claims.EngineWaits := by
  intro d a cls r cmd v num fault u answer ring size open_
  have asks := fun (h : Hdr) (s : State) => exec_sring_sringEff h d a r s
  have device {s : State} (place : s.vdOf s.cur = some v) :
      sringEff d a r ((s.vdOf s.cur).getD 0) (s.ringAt ((s.vdOf s.cur).getD 0) r) s = sringEff d a r v (ring s) s := by
    rw [place, Option.getD_some]
    rfl
  refine ⟨?retired, ?failed, ?number, ?finished, ?inFlight, fun s ⟨t, armed⟩ => State.cancel_armed armed,
    fun s started => State.cancel_started started, ?none', ?accepts, ?unusable, ?tooMany⟩
  case retired =>
    refine completes_of_issueWord (fun h s => exec_xwait h a cls s) fun s ⟨passed, sound⟩ =>
      (if_neg (Nat.not_lt.mpr passed)).trans (if_neg ?_)
    rw [EFault.taken_iff]
    rintro ⟨v', upTo⟩
    rcases sound with none' | later
    · exact absurd (none'.symm.trans v') nofun
    · exact absurd later (Nat.not_lt.mpr upTo)
  case failed =>
    intro h s issues s1 passed v' upTo k kind cause
    have taken := (EFault.taken_iff (fault s1) (num s1)).mpr ⟨v', upTo⟩
    refine (exec_xwait h a cls s).trans (issueWord_traps issues ((if_neg (Nat.not_lt.mpr passed)).trans ((if_pos taken).trans ?_)))
    rw [find_failCause kind cause]
    rfl
  case number => exact completes_of_issueWord (fun h s => exec_xseq h d cls s) fun s _ => rfl
  case finished =>
    refine completes_of_issueWord (fun h s => exec_xcancel h d a cls s) fun s none' => ?_
    dsimp only
    rw [show s.cmd s.cur cls (s.cc.rdG a).toNat = none from none']
    rfl
  case inFlight =>
    refine completes_of_issueWord (fun h s => exec_xcancel h d a cls s) fun s ⟨found, running⟩ => ?_
    dsimp only
    rw [show s.cmd s.cur cls (s.cc.rdG a).toNat = some cmd from found]
    dsimp only
    split
    next k x failing => exact absurd failing (running _ _)
    · rfl
  case none' =>
    exact completes_of_issueWord asks fun s ⟨⟨place, usable⟩, none'⟩ => (device place).trans (sringEff_none place usable none')
  case accepts =>
    exact completes_of_issueWord asks fun s ⟨⟨place, usable⟩, some', most, fits, done, room, cmds⟩ =>
      (device place).trans (sringEff_accepts place usable some' most fits done room cmds)
  case unusable =>
    exact traps_of_issueWord asks fun s ⟨place, bad⟩ => (device place).trans (sringEff_unusable bad)
  case tooMany =>
    exact traps_of_issueWord asks fun s ⟨⟨place, usable⟩, many⟩ => (device place).trans (sringEff_tooMany place usable many)

end Sys2Proof
end

section
/-! Descriptors (R352, R353, R355, R357, R379, R385): a descriptor that is read, what its checks answer, and its command's acceptance. -/
namespace Sys2Proof.Machine
open Sys2Proof Sys2Proof.Claims

/-! ## The place of a descriptor, and what reading it leaves -/

section
variable {s : State} {x : Word} {len c off : Nat} {own : Bool}

/-- A scratchpad place that passes the checks of a local access passes those of a scratchpad access. -/
theorem State.checkSpad_of_checkLocal {align : Nat}
    (ok : s.checkLocal s.cur (!s.cc.regs.trap.sup) x len align = .ok (.spad own c off)) :
    s.checkSpad x len align = .ok (.spad own c off) := by
  have window : s.windowOf s.cur x len = some (.spad own c off) := by
    unfold State.checkLocal at ok
    split at ok
    · exact absurd ok nofun
    next p found =>
      split at ok
      · exact absurd ok nofun
      · split at ok
        · exact absurd ok nofun
        · rw [found, Except.ok.inj ok]
  rw [State.checkSpad, window]
  exact ok

theorem Core.tmg_readWords (c : Core) (ws : List Nat) : (c.readWords ws).tmg = c.tmg := by
  refine List.foldlRecOn (motive := fun k : Core => k.tmg = c.tmg) _ _ rfl fun k ok w _ => ?_
  dsimp only
  split
  · split <;> exact ok
  · split
    · exact ok
    · split
      · exact ok
      · split <;> exact ok

theorem State.tmg_touch_spad (s : State) (n : Nat) (own : Bool) (c off len m : Nat) :
    ((s.touch n (.spad own c off) len).1.core m).tmg = (s.core m).tmg := by
  have read : ((s.setCore c ((s.core c).readWords (wordsOf off len))).core m).tmg = (s.core m).tmg := by
    by_cases same : m = c
    · rw [same, State.core_setCore, Core.tmg_readWords]
    · rw [State.core_setCore_ne _ _ _ _ same]
  have suspected (u : Nat → SuspUnit) (ws : List Nat) := (Upkeep.foldl (fun t w => t.suspect_upkeep (u w) 1)
    (s.setCore c ((s.core c).readWords (wordsOf off len))) ws).tmg m
  have scanned : ((s.scan (.spad own c off) len).1.core m).tmg = (s.core m).tmg := by
    simp only [State.scan]
    split <;> exact (suspected _ _).trans read
  simp only [State.touch]
  split
  · exact ((State.postError_upkeep _ _ _ _).tmg m).trans scanned
  · exact scanned

theorem descRead_cur : (descRead len own c off s).cur = s.cur := (s.touch_sameChecks s.cur (.spad own c off) len).cur
theorem descRead_clk : (descRead len own c off s).cc.tmg = s.cc.tmg := by
  rw [State.cc, descRead_cur]
  exact ((State.coreRead_upkeep _ _ _).tmg s.cur).trans (s.tmg_touch_spad ..)

end

/-! ## The checks of a descriptor that has been read (R353, R385) -/

/-- What a descriptor instruction does with the bits that it has read, in the state `s1` that the read leaves. -/
def descChecked (kinds : List Nat) (term : Option (Fin 32)) (d : GReg) (x : Word) (bits : BitVec 1536) (s s1 : State) : Eff :=
  match parseDescriptor bits kinds (s.launchCores s.cur) with
  | none => .trap s .bounds x 0
  | some q =>
    match s.descBreach s.cur (!s.cc.regs.trap.sup) q (descHdr bits) with
    | some (k, y) => .trap s k y 0
    | none =>
      if 128 ≤ s.cc.eng.cmds.length then .stall s
      else
        let rng := fun (o : Option (Word × Nat)) (base : Option Word) =>
          if q.zero then none else o.bind fun y => if y.2 = 0 then none else s1.coveredBy s.cur base y
        acceptEff { cls := q.cls, seq := 0, body := q.body, hdr := descHdr bits, src := rng q.src q.srcBase, dst := rng q.dst q.dstBase }
          q.zero term d s1

section
variable {kinds : List Nat} {term : Option (Fin 32)} {d a : GReg} {imm : BitVec 32} {s : State} {own : Bool} {c off kind : Nat}

/-- A descriptor of a kind that the form takes is read whole, at its kind's length (R352). -/
theorem descEff_descChecked (taken : kinds.contains kind = true) (at_ : DescAt s (s.cc.rdG a + sx imm) (descLen kind) own c off)
    (first : ((s.readPlace 1 (.spad own c off)).headD 0).toNat = kind) :
    descEff kinds term d a imm s = descChecked kinds term d (s.cc.rdG a + sx imm) (descBits (descLen kind) own c off s) s
      (descRead (descLen kind) own c off s) := by
  obtain ⟨free, sound, head, whole⟩ := at_
  unfold descEff
  simp only [Core.addr_eq, State.checkSpad_of_checkLocal head, first, taken, if_true]
  rw [if_neg (ne_true_of_eq_false free), State.checkSpad_of_checkLocal whole]
  exact if_neg (ne_true_of_eq_false sound)

variable {x : Word} {bits : BitVec 1536} {s1 : State} {q : Parsed}

theorem descChecked_malformed (malformed : parseDescriptor bits kinds (s.launchCores s.cur) = none) :
    descChecked kinds term d x bits s s1 = .trap s .bounds x 0 := by
  rw [descChecked, malformed]

theorem descChecked_breach {k : Cause} {y : Word} (parsed : parseDescriptor bits kinds (s.launchCores s.cur) = some q)
    (breach : s.descBreach s.cur (!s.cc.regs.trap.sup) q (descHdr bits) = some (k, y)) :
    descChecked kinds term d x bits s s1 = .trap s k y 0 := by
  rw [descChecked, parsed]
  dsimp only
  rw [breach]

/-- A sound descriptor's command is accepted (R355, R379). -/
theorem descChecked_accepts (parsed : parseDescriptor bits kinds (s.launchCores s.cur) = some q)
    (sound : s.descBreach s.cur (!s.cc.regs.trap.sup) q (descHdr bits) = none) (room : s.cc.eng.cmds.length < 128)
    (cur : s1.cur = s.cur) :
    descChecked kinds term d x bits s s1 = acceptEff (commandOf q (descHdr bits) .started s1) q.zero term d s1 := by
  rw [descChecked, parsed]
  dsimp only
  rw [sound]
  dsimp only
  rw [if_neg (Nat.not_le.mpr room), ← cur]
  rfl

end

/-! ## Acceptance (R355, R357, R379) -/

section
variable {d : GReg} {q : Parsed} {hd : DescHdr} {s : State}

/-- A command that its instruction starts, and that has bytes to move. -/
theorem acceptEff_starts {n : Nat} (cur : s.cur = n) (bytes : q.zero = false) :
    acceptEff (commandOf q hd .started s) q.zero none d s =
      .done ((accepted d q hd .started s).startCmd n q.cls (s.nextSeq n q.cls)) := by
  subst cur
  unfold acceptEff
  simp only [Bool.or_eq_true, decide_eq_true_eq, bytes]
  rfl

/-- How a word ends that finishes its command at once. -/
def completionEff (kept : State) : Host.Outcome State Fault Refusal → Eff
  | .next t => .done t
  | .fault f => .fault f
  | .refused _ => .done kept

/-- One of zero bytes finishes as it starts. -/
theorem acceptEff_finishes {n : Nat} {r : State} (cur : s.cur = n) (none' : q.zero = true)
    (finishes : execCommandComplete n q.cls (s.nextSeq n q.cls) ((accepted d q hd .started s).startCmd n q.cls (s.nextSeq n q.cls)) =
      .next r) : acceptEff (commandOf q hd .started s) q.zero none d s = .done r := by
  subst cur
  have whole : acceptEff (commandOf q hd .started s) q.zero none d s =
      completionEff ((accepted d q hd .started s).startCmd s.cur q.cls (s.nextSeq s.cur q.cls))
        (execCommandComplete s.cur q.cls (s.nextSeq s.cur q.cls)
          ((accepted d q hd .started s).startCmd s.cur q.cls (s.nextSeq s.cur q.cls))) := by
    unfold acceptEff
    simp only [Bool.or_eq_true, decide_eq_true_eq, none']
    rfl
  rw [whole, finishes, completionEff]

/-- One that waits on its term, with an edge of the crossbar to come. -/
theorem acceptEff_arms (t : Fin 32) : acceptEff (commandOf q hd .started s) q.zero (some t) d s =
    let cl := clusterOf s.cur
    let s1 := accepted d q hd (.armed t) s
    let x := (s1.cluster cl).xtermAt t.val
    .done ((s1.setCluster cl { s1.cluster cl with
      xterm := Tab.set (s1.cluster cl).xterm t.val { x with armed := x.armed ++ [(s.cur, q.cls, s.nextSeq s.cur q.cls)] } }).pulse cl
        (s1.cc.tmg.clk + 1) .edge) := by
  unfold acceptEff
  simp only [Bool.or_eq_true, decide_eq_true_eq]
  rfl

theorem accepted_clk (st : CmdState) : (accepted d q hd st s).cc.tmg.clk = s.cc.tmg.clk := by
  have slip (c : Core) (w : Wr) : (c.slipResult w).tmg.clk = c.tmg.clk := congrArg (·.tmg.clk) (c.besides_wr w)
  have numbered : (s.accept s.cur (commandOf q hd st s)).cc.tmg = s.cc.tmg := by
    have put : (s.accept s.cur (commandOf q hd st s)).cc = _ := State.core_setCore s s.cur _
    rw [put]
    rfl
  rw [accepted, onCore, State.cc_setCc, slip]
  split <;> exact congrArg Timing.clk numbered

end

theorem State.pulse_setCluster (s : State) (cl edge : Nat) (c : Cluster) (x : Pulse) :
    (s.setCluster cl c).pulse cl edge x = s.setCluster cl { c with pulses := c.pulses ++ [(edge, x)] } := by
  simp [State.pulse]

end Sys2Proof.Machine

namespace Sys2Proof
open Machine Claims

/-- R352, R353, R355, R357, R379, R385: a form reads the descriptor of its kind, and its checks say how the word ends. -/
theorem descriptorForms : Claims.DescriptorForms := by
  intro d a imm t kind q own c off cause v len adr u bits here parsed sound started form
  have forms {i : Hdr → Instr} (meaning : ∀ h s, exec (i h) s = descForm h [kind] none d a imm s) : form i := by
    have reads {s : State} (at_ : here s) := descEff_descChecked (term := none) (d := d) (a := a) (imm := imm)
      (show [kind].contains kind = true by simp) at_.1 at_.2
    refine ⟨completes_of_issueWord meaning fun s ⟨⟨⟨at_, ok⟩, fine, room⟩, bytes⟩ => ?_, ?_,
      traps_of_issueWord meaning fun s ⟨at_, bad⟩ => (reads at_).trans (descChecked_malformed bad),
      traps_of_issueWord meaning fun s ⟨⟨at_, ok⟩, breach⟩ => (reads at_).trans (descChecked_breach ok breach)⟩
    · exact ((reads at_).trans (descChecked_accepts ok fine room descRead_cur)).trans (acceptEff_starts descRead_cur bytes)
    · intro h s r issues s1 ⟨⟨at_, ok⟩, fine, room⟩ none' fin
      exact (meaning h s).trans (issueWord_completes issues
        (((reads at_).trans (descChecked_accepts ok fine room descRead_cur)).trans (acceptEff_finishes descRead_cur none' fin)))
  refine ⟨fun k => forms fun h s => ?copy, fun k => forms fun h s => ?gath, fun k => forms fun h s => ?scat,
    fun k => forms fun h s => ?fill, fun k => forms fun h s => ?coll, fun k => forms fun h s => ?send, ?arms, ?denied⟩
  case copy => rw [k, exec_xcopy, execXcopy]
  case gath => rw [k, exec_xgath, execXgath]
  case scat => rw [k, exec_xscat, execXscat]
  case fill => rw [k, exec_xfill, execXfill]
  case coll => rw [k, exec_xcoll, execXcoll]
  case send => rw [k, exec_nsend, execNsend]
  case arms =>
    refine completes_of_issueWord (fun h s => exec_evxarm h d a t imm s) fun s ⟨mine, low, high, ⟨⟨at_, first⟩, ok⟩, fine, room⟩ =>
      (if_neg (ne_true_of_eq_false mine)).trans ?_
    have taken : ([1, 2, 3, 4, 5, 6] : List Nat).contains kind = true := by
      simp only [List.contains_eq_mem, List.mem_cons, List.not_mem_nil, decide_eq_true_eq]
      omega
    refine ((descEff_descChecked taken at_ first).trans (descChecked_accepts ok fine room descRead_cur)).trans
      ((acceptEff_arms t.toFin).trans ?_)
    dsimp only
    rw [State.pulse_setCluster, accepted_clk, descRead_clk, descRead_cur]
    rfl
  case denied =>
    refine traps_of_issueWord (fun h s => exec_evxarm h d a t imm s) fun s denied =>
      (if_pos denied).trans (congrArg (Eff.trap s .bounds · 0) ?_)
    rw [xbarVal, if_pos rfl]
    bv_omega

/-- Settles O47: the descriptor words by what is read and checked, the waits by the branches of their effects, FENCE path by path. -/
theorem engineWords : Obligations.EngineWords := ⟨descriptorForms, engineWaits, fences⟩

end Sys2Proof
end

section
/-! Vector words on registers that no stream is bound to (R251, R266 to R273): what the element-wise forms do where they issue, and the
arithmetic of elements. -/
namespace Sys2Proof.Machine
open Sys2Proof Sys2Proof.Claims

/-! ## The second source (R268) -/

theorem elem_zero (w e : Nat) : elem w 0 e = 0 := by simp [elem]
theorem elem_lt (w : Nat) (x : VData) (e : Nat) : elem w x e < 2 ^ w := BitVec.isLt _

/-- The vector register that the second source is, if it is one. -/
def secondRegs : Option VGSrc → List VReg
  | some b => srcVregs b
  | none => []

/-- Element e of the second source, as a form has it from its operands. -/
def secondIn (w : Nat) (b : Option VGSrc) (c : Core) (v : VIn) : Nat → Nat :=
  match b with
  | some (.g r) => fun _ => (c.rdG r).toNat % 2 ^ w
  | _ => elem w (v.src 1)

/-- Where the operands are the registers' contents, the second source is that of the register it names. -/
theorem secondIn_read (w : Nat) (a : VReg) (b : Option VGSrc) (s t : State) (old : VData) (tail : Nat → Bool) :
    secondIn w b s.cc { s := t, xs := ([a] ++ secondRegs b).map fun r => (s.cc.rdV r).bits, old := old, tail := tail } =
      second w b s.cc := by
  obtain _ | r | r := b
  case none =>
    funext e
    exact elem_zero w e
  case some.v => rfl
  case some.g => rfl

theorem reads_secondRegs {p : VForm} {d : VReg} {a : List VReg} {b : Option VGSrc} {s : State} (ready : Ready p d a b s) :
    ∀ r ∈ secondRegs b, Reads s.cc r p.allowB := by
  obtain ⟨-, hb, -⟩ := ready
  obtain _ | q | q := b
  case none => simp [secondRegs]
  case some.v => simpa [secondRegs, srcVregs] using hb
  case some.g => simp [secondRegs, srcVregs]

/-! ## Element-wise forms with a vector destination (R268) -/

section
variable {i : Hdr → Instr} {p : VForm} {d a : VReg} {b : Option VGSrc} {skip : Nat → FpRegs → FpRegs}

/-- What an element-wise form does where it issues. -/
def elementsEff (p : VForm) (d a : VReg) (b : Option VGSrc) (op : Nat → Nat → Nat → Nat → FpRegs → Nat × FpRegs)
    (skip : Nat → FpRegs → FpRegs) (s : State) : Eff :=
  vecEff p d [a] (secondRegs b) p.active
    (fun v e => op e (elem p.w (v.src 0) e) (secondIn p.w b s.cc v e) (elem p.w v.old e)) skip (fun _ _ => p.tag) s

theorem vecForm_eq (h : Hdr) (p : VForm) (d a : VReg) (b : Option VGSrc) (op : Nat → Nat → Nat → Nat → FpRegs → Nat × FpRegs)
    (skip : Nat → FpRegs → FpRegs) (s : State) :
    vecForm h p d a b op skip s = issueWord h (opV d) (opV a) ((nums b).headD 0)
      (vUses (opV d) p.dstSource (opV a :: nums b) p.km p.fp) (elementsEff p d a b op skip) s := by
  obtain _ | r | r := b <;> rfl

theorem fpElements_of_vecForm {op : Nat → Nat → Nat → Nat → FpRegs → Nat × FpRegs}
    (meaning : ∀ h s, exec (i h) s = vecForm h p d a b op skip s) : FpElements i p d a b op skip := by
  refine completes_of_issueWord (fun h s => (meaning h s).trans (vecForm_eq ..)) fun s ready => ?_
  have hb := reads_secondRegs ready
  obtain ⟨ha, -, hd, ht⟩ := ready
  rw [elementsEff, vecEff_ready ha hb hd ht]
  simp only [active_whole, secondIn_read]
  rfl

/-- A form that leaves the floating-point state alone is a plain map of its elements. -/
theorem elements_of_vecForm {op : Nat → Nat → Nat → Nat}
    (meaning : ∀ h s, exec (i h) s = vecForm h p d a b (fun _ x y z fp => (op x y z, fp)) noSkip s) : Elements i p d a b op := by
  have elements := fpElements_of_vecForm meaning
  simp only [FpElements, mapElems_pure] at elements
  exact elements

end

/-! ## Comparisons into a mask (R268, R273) -/

/-- What a comparison into a mask does where it issues. -/
def maskEff (p : VForm) (d : KReg) (a : VReg) (b : VGSrc) (op : Nat → Nat → FpRegs → Bool × FpRegs) (s : State) : Eff :=
  match openVec p none [a] (secondRegs (some b)) (fun _ _ => false) s with
  | .error e => e.eff s
  | .ok v =>
    let r := mapElems (1024 / p.w) (p.active s.cc v) (fun e => if p.z then 0 else ((s.cc.rdK d).getLsbD e).toNat)
      (fun e fp => ((op (elem p.w (v.src 0) e) (secondIn p.w (some b) s.cc v e) fp).1.toNat,
        (op (elem p.w (v.src 0) e) (secondIn p.w (some b) s.cc v e) fp).2)) (fun _ fp => fp) v.s.cc.regs.fp
    .done (v.s.setCc (((v.s.cc.setFp fun _ => r.2).busyFp p.fp).result s.cc.tmg.clk p.lat
      (.k d (r.1.foldr (fun x (acc : Mask) => (acc <<< 1) ||| BitVec.ofNat 128 x) 0))))

theorem maskForm_eq (h : Hdr) (p : VForm) (d : KReg) (a : VReg) (b : VGSrc) (op : Nat → Nat → FpRegs → Bool × FpRegs) (s : State) :
    maskForm h p d a b op s = issueWord h (opK d) (opV a) (opVG b) (vUses (opK d) p.dstSource [opV a, opVG b] p.km p.fp)
      (maskEff p d a b op) s := by
  cases b <;> rfl

theorem maskElements_of_maskForm {i : Hdr → Instr} {p : VForm} {d : KReg} {a : VReg} {b : VGSrc}
    {op : Nat → Nat → FpRegs → Bool × FpRegs} (meaning : ∀ h s, exec (i h) s = maskForm h p d a b op s) :
    MaskElements i p d a b op := by
  refine completes_of_issueWord (fun h s => (meaning h s).trans (maskForm_eq ..)) fun s ⟨readsA, readsB⟩ => ?_
  have hb : ∀ r ∈ secondRegs (some b), Reads s.cc r p.allowB := by
    cases b with
    | v r => simpa [secondRegs, srcVregs] using readsB
    | g r => simp [secondRegs, srcVregs]
  rw [maskEff, openVec_mask (by simpa [Reads] using readsA) hb]
  simp only [active_whole, secondIn_read]
  rfl

/-! ## Elements as bit vectors of their width (R251, R269) -/

theorem elem_ofElems {w e : Nat} (pos : 0 < w) (inside : (e + 1) * w ≤ 1024) (xs : List Nat) :
    elem w (ofElems w xs) e = xs.getD e 0 % 2 ^ w := by
  refine Nat.eq_of_testBit_eq fun i => ?_
  rw [testBit_elem, getLsbD_ofElems pos, Nat.testBit_mod_two_pow]
  by_cases hi : i < w
  · have below : e * w + i < 1024 := by rw [Nat.succ_mul] at inside; omega
    rw [Nat.mul_comm e w, Nat.mul_add_div pos, Nat.mul_add_mod, Nat.div_eq_of_lt hi, Nat.mod_eq_of_lt hi, Nat.mul_comm w e]
    simp [below]
  · simp [hi]

theorem wrapTo_eq_ofInt (w : Nat) (x : Int) : wrapTo w x = (BitVec.ofInt w x).toNat := by
  simp [wrapTo, BitVec.toNat_ofInt]

theorem signedOf_eq_toInt {w x : Nat} (pos : 0 < w) (small : x < 2 ^ w) : signedOf w x = (BitVec.ofNat w x).toInt := by
  obtain ⟨n, rfl⟩ : ∃ n, w = n + 1 := ⟨w - 1, by omega⟩
  rw [signedOf, BitVec.toInt_eq_toNat_cond, BitVec.toNat_ofNat, Nat.mod_eq_of_lt small, Nat.add_sub_cancel]
  rw [Nat.pow_succ] at small ⊢
  by_cases low : x < 2 ^ n
  · rw [if_neg (by omega), if_pos (by omega)]
  · rw [if_pos (by omega), if_neg (by omega)]
    norm_cast

theorem wrapTo_sub (w x y : Nat) : wrapTo w ((x : Int) - y) = (BitVec.ofNat w x - BitVec.ofNat w y).toNat := by
  rw [wrapTo_eq_ofInt, Int.sub_eq_add_neg, BitVec.ofInt_add, BitVec.ofInt_neg, BitVec.ofInt_natCast, BitVec.ofInt_natCast,
    BitVec.sub_eq_add_neg]

theorem wrapTo_toInt_mul {w : Nat} (a b : BitVec w) : wrapTo w (a.toInt * b.toInt) = (a * b).toNat := by
  rw [wrapTo_eq_ofInt, BitVec.ofInt_mul, BitVec.ofInt_toInt, BitVec.ofInt_toInt]

/-- The floor of a quotient by a power of two is an arithmetic shift. -/
theorem wrapTo_toInt_div {w : Nat} (a : BitVec w) (k : Nat) : wrapTo w (a.toInt / 2 ^ k) = (a.sshiftRight k).toNat := by
  have shifted : a.toInt / 2 ^ k = (a.sshiftRight k).toInt := by
    rw [BitVec.toInt_sshiftRight, Int.shiftRight_eq_div_pow]
    norm_cast
  rw [wrapTo_eq_ofInt, shifted, BitVec.ofInt_toInt]

/-! ## Saturation (R269) -/

/-- The least and the greatest value of an integer format. -/
def Fmt.low (f : Fmt) : Int := if f.signed then -(2 ^ (f.width - 1)) else 0
def Fmt.high (f : Fmt) : Int := (if f.signed then 2 ^ (f.width - 1) else 2 ^ f.width) - 1

theorem Fmt.low_le_high (f : Fmt) : f.low ≤ f.high := by
  have : (0 : Int) < 2 ^ f.width := by positivity
  have : (0 : Int) < 2 ^ (f.width - 1) := by positivity
  simp only [Fmt.low, Fmt.high]
  split <;> omega

theorem Fmt.maxCode_int {f : Fmt} (int : f.kind = .int) : (f.maxCode : Int) = f.high := by
  have : 0 < 2 ^ f.width := Nat.two_pow_pos _
  have : 0 < 2 ^ (f.width - 1) := Nat.two_pow_pos _
  simp only [Fmt.maxCode, int, Fmt.high]
  split <;> push_cast [Nat.cast_sub, *] <;> omega

/-- A value in the format's range is that of its own pattern. -/
theorem intOf_wrapTo {f : Fmt} (pos : 0 < f.width) {v : Int} (low : f.low ≤ v) (high : v ≤ f.high) :
    intOf f (wrapTo f.width v) = v := by
  cases signed : f.signed
  case false =>
    simp only [Fmt.low, Fmt.high, signed, Bool.false_eq_true, if_false] at low high
    simp only [intOf, signed, Bool.false_eq_true, if_false]
    rw [wrapTo, Int.emod_eq_of_lt low (by omega), Int.toNat_of_nonneg low]
  case true =>
    simp only [Fmt.low, Fmt.high, signed, if_true] at low high
    simp only [intOf, signed, if_true]
    rw [wrapTo_eq_ofInt, signedOf_eq_toInt pos (BitVec.isLt _), BitVec.ofNat_toNat, BitVec.setWidth_eq,
      BitVec.toInt_ofInt_eq_self pos low (by omega)]

theorem intOf_satTo {f : Fmt} (int : f.kind = .int) (pos : 0 < f.width) (x : Int) :
    intOf f (satTo f x) = max f.low (min f.high x) := by
  have sat : satTo f x = wrapTo f.width (max f.low (min f.high x)) := by
    rw [← Fmt.maxCode_int int]
    rfl
  rw [sat, intOf_wrapTo pos (le_max_left _ _) (max_le f.low_le_high (min_le_left _ _))]

theorem codeFmt_int : ∀ code ∈ [0x08#6, 0x09#6, 0x0A#6, 0x0B#6, 0x0C#6, 0x0D#6, 0x0E#6, 0x0F#6],
    (codeFmt code).kind = .int ∧ 0 < (codeFmt code).width := by decide

end Sys2Proof.Machine

namespace Sys2Proof
open Machine Claims

/-- R268 to R270: each word is an element-wise form with the operation that is stated. -/
theorem vectorIntegers : Claims.VectorIntegers := by
  intro code d a k b stm km z f w p two
  refine ⟨?vadd, ?vsub, ?vadds, ?vsubs, ?vabs, ?vmul, ?vmulh, ?vmulhn, ?vmin, ?vminn, ?vmax, ?vmaxn, ?vand, ?vor, ?vxor, ?vandn,
    ?vshl, ?vshr, ?vshra, fun cc => ?vcmp⟩
  case vadd => exact elements_of_vecForm (exec_vadd · code d a b stm km z)
  case vsub => exact elements_of_vecForm (exec_vsub · code d a b stm km z)
  case vadds => exact elements_of_vecForm (exec_vadds · code d a b stm km z)
  case vsubs => exact elements_of_vecForm (exec_vsubs · code d a b stm km z)
  case vabs => exact elements_of_vecForm (exec_vabs · code d a stm km z)
  case vmul => exact elements_of_vecForm (exec_vmul · code d a b stm km z)
  case vmulh => exact elements_of_vecForm (exec_vmulh · code d a b stm km z)
  case vmulhn => exact elements_of_vecForm (exec_vmulhn · code d a b stm km z)
  case vmin => exact elements_of_vecForm (exec_vmin · code d a b stm km z)
  case vminn =>
    refine elements_of_vecForm (op := fun x y _ => min x y) fun h s => ?_
    simp only [min_def]
    exact exec_vminn h code d a b stm km z s
  case vmax => exact elements_of_vecForm (exec_vmax · code d a b stm km z)
  case vmaxn =>
    refine elements_of_vecForm (op := fun x y _ => max x y) fun h s => ?_
    simp only [max_def']
    exact exec_vmaxn h code d a b stm km z s
  case vand => exact elements_of_vecForm (exec_vand · code d a b stm km z)
  case vor => exact elements_of_vecForm (exec_vor · code d a b stm km z)
  case vxor => exact elements_of_vecForm (exec_vxor · code d a b stm km z)
  case vandn => exact elements_of_vecForm (exec_vandn · code d a b stm km z)
  case vshl => exact elements_of_vecForm (exec_vshl · code d a b stm km z)
  case vshr => exact elements_of_vecForm (exec_vshr · code d a b stm km z)
  case vshra => exact elements_of_vecForm (exec_vshra · code d a b stm km z)
  case vcmp =>
    refine maskElements_of_maskForm fun h s => (exec_vcmp h code k a b cc stm km z s).trans
      (congrArg (maskForm h p k a b · s) ?_)
    funext x y fp
    simp only [vcmpCond, f]
    split
    case h_2 => simp only [bne, beq_eq_decide, decide_not, ne_eq]
    all_goals rfl

/-- R251, R269: a register bit by bit, the arithmetic as that of bit vectors, and a saturated value as one in range. -/
theorem elementLaws : Claims.ElementLaws := by
  have widths : ∀ w ∈ [8, 16, 32, 64], 0 < w ∧ 1024 / w * w = 1024 := by decide
  refine ⟨fun w xs e hw _ he => ?elem, fun w x hw => ?whole, fun w x y pos hx hy => ?bits, fun code x hc => ?sat, mapElems_pure⟩
  case elem =>
    obtain ⟨pos, whole⟩ := widths w hw
    exact elem_ofElems pos (whole ▸ Nat.mul_le_mul_right w he) xs
  case whole => exact ofElems_elem (widths w hw).2 x
  case bits =>
    rw [signedOf_eq_toInt pos hx, signedOf_eq_toInt pos hy]
    exact ⟨rfl, wrapTo_sub w x y, wrapTo_toInt_mul _ _, wrapTo_toInt_div _⟩
  case sat =>
    obtain ⟨int, pos⟩ := codeFmt_int code hc
    exact intOf_satTo int pos x

/-- Settles O39: the words by the element-wise form that they share, the elements by their bits. -/
theorem vectorIntegerForms : Obligations.VectorIntegerForms := ⟨vectorIntegers, elementLaws⟩

/-- Settles O6: each word is an element-wise form, with the rounding, the flags and the generator's steps that are stated. -/
theorem vectorFloats : Obligations.VectorFloats := by
  intro code d a k b rm cc stm km z f w p rounds moves faithfully
  refine ⟨?vfadd, ?vfsub, ?vfmul, ?vfdiv, ?vfma, ?vfms, ?vfnma, ?vfnms, ?vsqrt, ?vfmin, ?vfmax, ?vfabs, ?vfneg, ?vfclass, ?vfcmp,
    ?vrcp, ?vrsq, ?vexp2, ?vlog2⟩
  case vfadd => exact fpElements_of_vecForm (exec_vfadd · code d a b rm stm km z)
  case vfsub => exact fpElements_of_vecForm (exec_vfsub · code d a b rm stm km z)
  case vfmul => exact fpElements_of_vecForm (exec_vfmul · code d a b rm stm km z)
  case vfdiv => exact fpElements_of_vecForm (exec_vfdiv · code d a b rm stm km z)
  case vfma => exact fpElements_of_vecForm (exec_vfma · code d a b rm stm km z)
  case vfms => exact fpElements_of_vecForm (exec_vfms · code d a b rm stm km z)
  case vfnma => exact fpElements_of_vecForm (exec_vfnma · code d a b rm stm km z)
  case vfnms => exact fpElements_of_vecForm (exec_vfnms · code d a b rm stm km z)
  case vsqrt => exact fpElements_of_vecForm (exec_vsqrt · code d a rm stm km z)
  case vfmin => exact fpElements_of_vecForm (exec_vfmin · code d a b stm km z)
  case vfmax => exact fpElements_of_vecForm (exec_vfmax · code d a b stm km z)
  case vfabs => exact fpElements_of_vecForm (exec_vfabs · code d a stm km z)
  case vfneg => exact fpElements_of_vecForm (exec_vfneg · code d a stm km z)
  case vfclass => exact fpElements_of_vecForm (exec_vfclass · code d a stm km z)
  case vfcmp => exact maskElements_of_maskForm (exec_vfcmp · code k a b cc stm km z)
  case vrcp => exact fpElements_of_vecForm (exec_vrcp · code d a stm km z)
  case vrsq => exact fpElements_of_vecForm (exec_vrsq · code d a stm km z)
  case vexp2 => exact fpElements_of_vecForm (exec_vexp2 · code d a stm km z)
  case vlog2 => exact fpElements_of_vecForm (exec_vlog2 · code d a stm km z)

end Sys2Proof
end

section
/-! Vector moves, lane masks and reductions (R274 to R282), on registers that no stream is bound to. -/
namespace Sys2Proof.Machine
open Sys2Proof Sys2Proof.Claims

/-! ## Permutes and spreads (R275 to R279) -/

theorem permutes_of_permForm {i : Hdr → Instr} {w : Nat} {allowA : Tag → Bool} {d a : VReg} {b : Option VReg} {num : BitVec 7}
    {stm : Bool} {km : KReg} {z : Bool} {f : Core → (Nat → Nat) → (Nat → Nat) → Nat → Nat}
    (meaning : ∀ h s, exec (i h) s = permForm h w allowA d a b.toList num stm km z f s) :
    Permutes i w allowA d a (b.map .v) num stm km z f := by
  refine completes_of_issueWord meaning fun s ready => ?_
  have regs : b.toList = secondRegs (b.map .v) := by cases b <;> rfl
  have src (v : VIn) : elem w (v.src 1) = secondIn w (b.map .v) s.cc v := by cases b <;> rfl
  have hb := reads_secondRegs ready
  obtain ⟨ha, -, hd, ht⟩ := ready
  obtain ⟨unbound, -⟩ := ha a List.mem_cons_self
  dsimp only
  rw [tagOf_unbound unbound, regs, vecEff_ready ha hb hd ht]
  simp only [mapElems_pure, active_whole, src, secondIn_read]
  rfl

theorem spreads_of_issueWord {i : Hdr → Instr} {code : BitVec 6} {d : VReg} {a : GReg} {stm : Bool} {km : KReg} {z : Bool}
    {f : Core → Nat → Nat}
    (meaning : ∀ h s, exec (i h) s = issueWord h (opV d) 0 0 (vUses (opV d) (keepsOld stm km z) [opG a] km 0) (fun s =>
      let p : VForm := { w := (codeFmt code).width, tag := codeTag code, lat := 3, stm := stm, km := km, z := z }
      vecEff p d [] [] p.active (fun _ e fp => (f s.cc e, fp)) noSkip (fun _ _ => p.tag) s) s) :
    Spreads i code d a stm km z f := by
  refine completes_of_issueWord meaning fun s ⟨_, _, hd, ht⟩ => ?_
  dsimp only
  rw [vecEff_ready (by simp) (by simp) hd ht]
  simp only [mapElems_pure, active_whole]
  rfl

/-! ## Single elements and groups (R277, R280) -/

theorem noStream_one {r : VReg} {s : State} (unbound : s.cc.bound r = none) (k : State → Eff) : noStream [opV r] k s = k s :=
  noStream_unbound (rs := [r]) (by simpa using unbound) k

theorem widthOf_pos (wc : BitVec 2) : 0 < widthOf wc := Nat.mul_pos (by decide) (Nat.two_pow_pos _)

/-- How many elements a register has divides 2^64, so that an element's number is that of the exact sum. -/
theorem elemIndex_eq (c : Core) (wc : BitVec 2) (g : GReg) (imm : BitVec 32) :
    c.elemIndex (widthOf wc) g imm = ((c.rdG g).toNat + imm.toNat) % (1024 / widthOf wc) := by
  have divides : ∀ wc, 1024 / widthOf wc ∣ 2 ^ 64 := by decide
  rw [Core.elemIndex, BitVec.toNat_add, Nat.mod_mod_of_dvd _ (divides wc), zextImm, BitVec.toNat_setWidth_of_le (by decide)]

/-- VEXT extends an element as the bit vector of its width. -/
theorem extended_eq {w x : Nat} (pos : 0 < w) (small : x < 2 ^ w) (sgn : Bool) :
    (if sgn then BitVec.ofInt 64 (signedOf w x) else BitVec.ofNat 64 x) =
      if sgn then (BitVec.ofNat w x).signExtend 64 else (BitVec.ofNat w x).setWidth 64 := by
  have same : (BitVec.ofNat w x).setWidth 64 = BitVec.ofNat 64 x := by
    rw [← BitVec.ofNat_toNat, BitVec.toNat_ofNat, Nat.mod_eq_of_lt small]
  rw [signedOf_eq_toInt pos small, same]
  rfl

theorem sixIssues_setCc (s : State) (c : Core) : sixIssues (s.setCc c) = s.setCc (c.setTmg fun m => { m with clk := m.clk + 6 }) := by
  simp [sixIssues]

/-! ## Masks (R281) -/

theorem writes_of_kForm {i : Hdr → Instr} {d : KReg} {srcs : List (BitVec 7)} {v : Core → Mask}
    (meaning : ∀ h s, exec (i h) s = kForm h d srcs v s) : Writes i srcs (opK d) 1 fun c => .k d (v c) :=
  completes_of_scalarForm meaning fun _ _ => rfl

theorem countP_range_min (n m : Nat) (p : Nat → Bool) :
    (List.range (min n m)).countP p = ((List.range m).filter fun i => decide (i < n) && p i).length := by
  rw [List.countP_eq_length_filter, ← List.Ico.zero_bot, Nat.min_comm, ← List.Ico.filter_lt, List.filter_filter, List.Ico.zero_bot]
  simp only [Bool.and_comm]

/-! ## Reductions (R282) -/

/-- The form of a reduction: DST is never read. -/
def reductionForm (code : BitVec 6) (lat fpb : Nat) (stm : Bool) (km : KReg) : VForm :=
  { w := (codeFmt code).width, tag := codeTag code, lat := lat, fp := fpb, stm := stm, km := km, z := true, allowA := hasCode code }

/-- The tree over the active elements of a register. -/
def reduced (w : Nat) (x : VData) (op : Nat → Nat → FpRegs → Nat × FpRegs) (skip : FpRegs → FpRegs) (act : Nat → Bool) (fp : FpRegs) :
    Option Nat × FpRegs :=
  treeReduce op skip (1024 / w).log2 ((List.range (1024 / w)).map fun e => if act e then some (elem w x e) else none) fp

/-- What a reduction does where it issues. -/
def reductionEff (p : VForm) (d a : VReg) (empty : Nat) (op : Nat → Nat → FpRegs → Nat × FpRegs) (skip : FpRegs → FpRegs)
    (s : State) : Eff :=
  match openVec p (some d) [a] [] (fun _ _ => true) s with
  | .error e => e.eff s
  | .ok v =>
    let r := reduced p.w (v.src 0) op skip (p.active s.cc v) v.s.cc.regs.fp
    (putVec d ⟨BitVec.ofNat 1024 (r.1.getD empty), p.tag⟩ s.cc.tmg.clk p.lat (fun _ => true)
      (v.s.setCc ((v.s.cc.setFp fun _ => r.2).busyFp p.fp))).orElse s

theorem redForm_eq (h : Hdr) (code : BitVec 6) (lat fpb : Nat) (d a : VReg) (stm : Bool) (km : KReg) (empty : Fmt → Nat)
    (op : Fmt → Nat → Nat → FpRegs → Nat × FpRegs) (skip : FpRegs → FpRegs) (s : State) :
    redForm h code lat fpb d a stm km empty op skip s =
      issueWord h (opV d) (opV a) 0 (vUses (opV d) false [opV a] km fpb)
        (reductionEff (reductionForm code lat fpb stm km) d a (empty (codeFmt code)) (op (codeFmt code)) skip) s := rfl

theorem reductionEff_ready {p : VForm} {d a : VReg} {empty : Nat} {op : Nat → Nat → FpRegs → Nat × FpRegs} {skip : FpRegs → FpRegs}
    {s : State} (readsA : Reads s.cc a p.allowA) (unbound : s.cc.bound d = none) (unread : p.dstSource = false) :
    reductionEff p d a empty op skip s =
      let r := reduced p.w (s.cc.rdV a).bits op skip (fun e => (s.cc.rdK p.km).getLsbD e) s.cc.regs.fp
      .done (s.setCc (((s.cc.setFp fun _ => r.2).busyFp p.fp).result s.cc.tmg.clk p.lat
        (.v d ⟨BitVec.ofNat 1024 (r.1.getD empty), p.tag⟩))) := by
  rw [reductionEff, openVec_ready (by simpa [Reads] using readsA) (by simp) unbound (by simp [unread])]
  dsimp only
  rw [active_whole, putVec_unbound]
  · simp only [State.cc_setCc, State.setCc_setCc]
    rfl
  · rw [State.cc_setCc, bound_congr (c := s.cc) (by simp), unbound]

end Sys2Proof.Machine

namespace Sys2Proof
open Machine Claims

/-- R274 to R280: the permutes and spreads by their forms, the others by what the checks on registers leave of them. -/
theorem vectorMoves : Claims.VectorMoves := by
  intro code wc d a b g r e stm sgn km z imm w cw shift
  refine ⟨?vsel, ?vbcast, ?vbcastG, ?vperm, ?vslideup, ?vslidedn, ?vext, ?vins, ?viota, ?vmov, ?fromG, ?toG⟩
  case vsel =>
    refine completes_of_issueWord (exec_vsel · code d a b stm km) fun s ⟨ha, hb, hd, ht⟩ => ?_
    obtain ⟨unbound, -⟩ := ha a List.mem_cons_self
    dsimp only
    rw [tagOf_unbound unbound, vecEff_ready ha (by simpa [Reads] using hb) hd ht]
    simp only [mapElems_pure, active_whole, Core.rdK_zero, BitVec.getLsbD_allOnes, decide_eq_true_eq]
    rfl
  case vbcast => exact permutes_of_permForm (b := none) (exec_vbcast · code d stm km z (.v a e))
  case vbcastG => exact spreads_of_issueWord (exec_vbcast · code d stm km z (.g g))
  case vperm => exact permutes_of_permForm (b := some b) (exec_vperm · wc d a b stm km z)
  case vslideup => exact permutes_of_permForm (b := none) (exec_vslideup · wc d a g stm km z imm)
  case vslidedn => exact permutes_of_permForm (b := none) (exec_vslidedn · wc d a g stm km z imm)
  case vext =>
    refine completes_of_issueWord (exec_vext · wc r a g sgn imm) fun s ⟨unbound, sound⟩ => ?_
    rw [noStream_one unbound]
    simp only [poisonCheck_sound 2 sound, elemIndex_eq, extended_eq (widthOf_pos wc) (elem_lt ..)]
    rfl
  case vins =>
    refine completes_of_issueWord (exec_vins · wc d r g imm) fun s ⟨unbound, sound⟩ => ?_
    rw [noStream_one unbound]
    simp only [poisonCheck_sound 1 sound, elemIndex_eq]
    rfl
  case viota => exact spreads_of_issueWord (exec_viota · code d g stm km z imm)
  case vmov =>
    refine completes_of_issueWord (exec_vmov · d a) fun s ⟨⟨unbound, sound⟩, free⟩ => ?_
    dsimp only
    rw [tagOf_unbound unbound, vecEff_ready (by simpa using ⟨unbound, sound⟩) (by simp) free (by simp [VForm.dstSource, keepsOld])]
    dsimp only
    rw [active_whole, mapElems_all (n := 16) (fun e he => s.cc.getLsbD_rdK_zero (by omega)), ofElems_elem rfl]
    rfl
  case fromG =>
    refine completes_of_issueWord (exec_vmovgFromG · code d g) fun s unbound => ?_
    rw [noStream_one unbound]
    simp only [sixIssues_setCc]
    rfl
  case toG =>
    refine completes_of_issueWord (exec_vmovgToG · g a) fun s ⟨unbound, sound⟩ => ?_
    rw [noStream_one unbound]
    simp only [poisonCheck_sound 2 sound, sixIssues_setCc]
    rfl

/-- R281: each word writes one register, with the mask or the count that is stated. -/
theorem masks : Claims.Masks := by
  intro d a b g n hi writes
  refine ⟨?kand, ?kor, ?kxor, ?knot, ?kcnt, ?kk, ?kg, ?gk⟩
  case kand => exact writes_of_kForm (exec_kand · d a b)
  case kor => exact writes_of_kForm (exec_kor · d a b)
  case kxor => exact writes_of_kForm (exec_kxor · d a b)
  case knot => exact writes_of_kForm (exec_knot · d a)
  case kcnt => exact completes_of_scalarForm (exec_kcnt · g a n) fun _ _ => by rw [countP_range_min]
  case kk => exact writes_of_kForm (exec_kmov · (.kk d a))
  case kg => exact writes_of_kForm (exec_kmov · (.kg hi d g))
  case gk => exact completes_of_scalarForm (exec_kmov · (.gk hi g a)) fun _ _ => by cases hi <;> rfl

/-- Settles O40: the moves and the masks, word by word. -/
theorem vectorMovesAndMasks : Obligations.VectorMovesAndMasks := ⟨vectorMoves, masks⟩

/-- Settles O7: the words share one form, whose tree is over the active elements of a register that is read as it stands. -/
theorem reductions : Obligations.Reductions := by
  intro code d a rm stm km f w n reduces lat
  have reduce {i : Hdr → Instr} {lat fp : Nat} {empty : Fmt → Nat} {op : Fmt → Nat → Nat → FpRegs → Nat × FpRegs}
      {skip : FpRegs → FpRegs} (meaning : ∀ h s, exec (i h) s = redForm h code lat fp d a stm km empty op skip s) :
      reduces i lat fp (empty f) (op f) skip := by
    refine completes_of_issueWord (fun h s => (meaning h s).trans (redForm_eq ..)) fun s ⟨readsA, unbound⟩ => ?_
    exact reductionEff_ready (p := reductionForm code lat fp stm km) readsA unbound (by simp [reductionForm, VForm.dstSource, keepsOld])
  clear_value reduces
  refine ⟨?vradd, ?vrmin, ?vrmax, ?vrfadd, ?vrfmin, ?vrfmax⟩
  case vradd => exact reduce (exec_vradd · code d a stm km)
  case vrmin => exact reduce (exec_vrmin · code d a stm km)
  case vrmax => exact reduce (exec_vrmax · code d a stm km)
  case vrfadd => exact reduce (exec_vrfadd · code d a rm stm km)
  case vrfmin => exact reduce (exec_vrfmin · code d a stm km)
  case vrfmax => exact reduce (exec_vrfmax · code d a stm km)

end Sys2Proof
end

section
/-! Streams (R255 to R259, R283 to R285): the port words, the addresses of a stream's elements, and its chunks. -/
namespace Sys2Proof.Machine
open Sys2Proof Sys2Proof.Claims

theorem traps_of_issueCore {i : Hdr → Instr} {d sa sb : BitVec 7} {u : Uses} {P : State → Prop} {k : Cause} {x : State → Word}
    {eff : Core → CoreEff} (meaning : ∀ h s, exec (i h) s = issueCore h d sa sb u eff s)
    (traps : ∀ s, P s → eff s.cc = .trap k (x s)) : Traps i d sa sb u P k x :=
  traps_of_issueWord meaning fun s hP => by
    rw [traps s hP]

/-! ## SCFG (R283) -/

/-- The state in which the 64 bytes of a descriptor have been read. -/
def State.afterRead (s : State) (p : Place) : State :=
  let t := (s.touch s.cur p 64).1
  t.coreRead t.cur (p.home (clusterOf t.cur))

/-- What SCFG does where it issues. -/
def scfgEff (d : VReg) (a : GReg) (port : Fin 4) (imm : BitVec 32) (s : State) : Eff :=
  let x := s.cc.rdG a + sx imm
  if s.cc.regs.strm[port].isSome || (s.cc.bound d).isSome then .trap s .stream (streamVal 4 (opV d)) 0
  else if s.rangeHeld x 64 then holdOn s x 64
  else match s.checkSpad x 64 64 with
    | .error k => .trap s k x 0
    | .ok p =>
      if (s.touch s.cur p 64).2 then .trap (s.touch s.cur p 64).1 .poison x 0
      else match parseDesc (ofBytes 512 ((s.afterRead p).readPlace 64 p)) with
        | none => .trap s .stream (streamVal 5 (opV d)) 0
        | some q => .done ((s.afterRead p).setCc (((s.afterRead p).cc.setPort port (some { reg := d, desc := q })).setTmg
            fun m => { m with slips := m.slips + 1 }))

theorem execScfg_eq (h : Hdr) (d : VReg) (a : GReg) (port : Fin 4) (imm : BitVec 32) (s : State) :
    execScfg h d a port imm s = issueWord h 0 0 0 { srcs := [opG a], dsts := [opV d] } (scfgEff d a port imm) s := rfl

section
variable {d : VReg} {a : GReg} {port : Fin 4} {imm : BitVec 32} {s : State}

theorem scfgEff_taken (taken : s.cc.regs.strm[port] ≠ none ∨ s.cc.bound d ≠ none) :
    scfgEff d a port imm s = .trap s .stream (streamVal 4 (opV d)) 0 :=
  if_pos (by simpa [Option.isSome_iff_ne_none] using taken)

theorem scfgEff_binds {p : Place} {q : StreamDesc} (free : s.cc.regs.strm[port] = none) (unbound : s.cc.bound d = none)
    (held : s.rangeHeld (s.cc.rdG a + sx imm) 64 = false) (ok : s.checkSpad (s.cc.rdG a + sx imm) 64 64 = .ok p)
    (sound : (s.touch s.cur p 64).2 = false) (desc : parseDesc (ofBytes 512 ((s.afterRead p).readPlace 64 p)) = some q) :
    scfgEff d a port imm s = .done ((s.afterRead p).setCc
      (((s.afterRead p).cc.setPort port (some { reg := d, desc := q })).setTmg fun m => { m with slips := m.slips + 1 })) := by
  simp [scfgEff, free, unbound, held, ok, sound, desc]

end

/-! ## The elements of a stream (R256, R257) -/

section
variable {d : StreamDesc} {n m i : Nat} {st tt : BitVec 32}

theorem StreamDesc.addr_nil (hn : d.n = []) (i : Nat) : d.addr i = d.base := by
  simp [StreamDesc.addr, hn]

theorem StreamDesc.addr_one (hn : d.n = [n]) (hs : d.s = [st]) (hi : i < n) :
    d.addr i = d.base + BitVec.ofNat 64 i * st.signExtend 64 := by
  simp [StreamDesc.addr, hn, hs, Nat.mod_eq_of_lt hi]

theorem StreamDesc.addr_two (hn : d.n = [n, m]) (hs : d.s = [st, tt]) (hi : i < n * m) :
    d.addr i = d.base + BitVec.ofNat 64 (i % n) * st.signExtend 64 + BitVec.ofNat 64 (i / n) * tt.signExtend 64 := by
  simp [StreamDesc.addr, hn, hs, Nat.mod_eq_of_lt (Nat.div_lt_of_lt_mul hi)]

end

theorem StreamPort.pos_add_rest_le (p : StreamPort) : p.pos + p.rest ≤ max p.pos p.desc.count := by
  rw [StreamPort.rest]
  omega

/-- Of elements that are left there are chunks left, and the count of a loop level holds their number (R285). -/
theorem chunksLeft_ne_zero {left per : Nat} (more : 0 < left) (pos : 0 < per) (fits : left + per ≤ 2 ^ 64) :
    BitVec.ofNat 64 ((left + per - 1) / per) ≠ 0 := by
  have one : 1 ≤ (left + per - 1) / per := (Nat.one_le_div_iff pos).mpr (by omega)
  have small : (left + per - 1) / per < 2 ^ 64 := (Nat.div_le_self ..).trans_lt (by omega)
  intro none
  have zero : (left + per - 1) / per = 0 := by
    rw [← Nat.mod_eq_of_lt small, ← BitVec.toNat_ofNat, none]
    rfl
  omega

end Sys2Proof.Machine

namespace Sys2Proof
open Machine Claims

/-- R255, R259, R283 to R285: each word by its effect where it issues, on a free port and on a bound one. -/
theorem streams : Claims.Streams := by
  intro d a port imm len
  refine ⟨?scfg, ?taken, ?sfree, ?unbound, fun p => ?vloop, ?unboundLoop⟩
  case scfg =>
    intro h s p q u issues s1 x free unbound held ok q1 sound s2 desc
    exact (exec_scfg h d a port imm s).trans (issueWord_done issues (scfgEff_binds free unbound held ok sound desc))
  case taken =>
    exact traps_of_issueWord (fun h s => (exec_scfg h d a port imm s).trans (execScfg_eq ..)) fun s taken => scfgEff_taken taken
  case sfree =>
    exact completes_of_issueCore (exec_sfree · port) fun s bound => if_pos (Option.isSome_iff_ne_none.mpr bound)
  case unbound =>
    exact traps_of_issueCore (exec_sfree · port) fun s free => if_neg (by simp [free])
  case vloop =>
    refine completes_of_issueWord (exec_vloop · len port) fun s ⟨bound, left, pos, fits, small, free⟩ => ?_
    have per : 0 < 1024 / p.desc.width := Nat.div_pos fits pos
    have most : 1024 / p.desc.width ≤ 1024 := Nat.div_le_self ..
    simp only [bound]
    rw [startLoop_next free len (chunksLeft_ne_zero (Nat.sub_pos_of_lt left) per (by omega))]
    rfl
  case unboundLoop =>
    refine traps_of_issueWord (exec_vloop · len port) fun s free => ?_
    simp only [free]
    rfl

/-- R256 to R258: the addresses by the number of dimensions, the position by what is left, and a chunk that was fetched ahead. -/
theorem streamChunks : Claims.StreamChunks := by
  refine ⟨fun d i hn => StreamDesc.addr_nil hn i, fun d n st i hn hs hi => StreamDesc.addr_one hn hs hi,
    fun d n m st tt i hn hs _ hi => StreamDesc.addr_two hn hs hi,
    fun p => ⟨min_le_left _ _, p.pos_add_rest_le, rfl⟩, fun s p x b rest fetched => ?_⟩
  rw [State.nextChunk, fetched]

/-- Settles O41: the port words by their effects, the chunks by the elements of their stream. -/
theorem streamForms : Obligations.StreamForms := ⟨streams, streamChunks⟩

end Sys2Proof
end

section
/-! Modular words, butterflies and complex products (R287 to R311): what the forms of the class do where they issue, on registers that no
stream is bound to and sets that are loaded. -/
namespace Sys2Proof.Machine
open Sys2Proof Sys2Proof.Claims

/-! ## The checks that the class shares (R295, R311) -/

/-- Operand numbers of which none names a register that is bound to a stream. -/
def StreamFree (c : Core) (xs : List (BitVec 7)) : Prop := ∀ x ∈ xs, isV x = true → c.bound (vOf x) = none

@[simp] theorem streamFree_nil (c : Core) : StreamFree c [] := by simp [StreamFree]

theorem streamFree_cons {c : Core} {x : BitVec 7} {xs : List (BitVec 7)} :
    StreamFree c (x :: xs) ↔ (isV x = true → c.bound (vOf x) = none) ∧ StreamFree c xs := List.forall_mem_cons

@[simp] theorem streamFree_opV {c : Core} {r : VReg} {xs : List (BitVec 7)} :
    StreamFree c (opV r :: xs) ↔ c.bound r = none ∧ StreamFree c xs := by
  simp [streamFree_cons]

@[simp] theorem streamFree_zero {c : Core} {xs : List (BitVec 7)} : StreamFree c (0#7 :: xs) ↔ StreamFree c xs := by
  simp [streamFree_cons, isV]

@[simp] theorem streamFree_opG {c : Core} {r : GReg} {xs : List (BitVec 7)} : StreamFree c (opG r :: xs) ↔ StreamFree c xs := by
  simp [streamFree_cons]

theorem noStream_of_streamFree {s : State} {xs : List (BitVec 7)} (free : StreamFree s.cc xs) (k : State → Eff) :
    noStream xs k s = k s := by
  have none' : s.cc.streamOperand xs = none := by simpa [Core.streamOperand, StreamFree] using free
  rw [noStream, none']

theorem tagBreach_reads {c : Core} {ops : List VOp} (reads : ∀ o ∈ ops, Reads c o.r o.allow) : c.tagBreach ops = none :=
  tagBreach_none fun o ho => by
    obtain ⟨unbound, sound, allowed⟩ := reads o ho
    rw [tagOf_unbound unbound]
    exact ⟨sound, allowed⟩

/-- The effect of a word that uses a set, behind the check that the set is loaded (R290). -/
def withSet (set : Option (Fin 4)) (eff : State → Eff) (s : State) : Eff :=
  match set with
  | some m => if s.cc.regs.mods[m].loaded then eff s else .trap s .modulus (modVal 2 m 0) 0
  | none => eff s

theorem withSet_loaded {set : Option (Fin 4)} {s : State} (loaded : ∀ m, set = some m → s.cc.regs.mods[m].loaded = true)
    (eff : State → Eff) : withSet set eff s = eff s := by
  cases set with
  | none => rfl
  | some m => exact if_pos (loaded m rfl)

theorem withSet_unloaded {m : Fin 4} {s : State} (unloaded : s.cc.regs.mods[m].loaded = false) (eff : State → Eff) :
    withSet (some m) eff s = .trap s .modulus (modVal 2 m 0) 0 :=
  if_neg (by rw [unloaded]; decide)

theorem modWord_eq (h : Hdr) (d a b : BitVec 7) (more : List (BitVec 7)) (u : Uses) (set : Option (Fin 4)) (eff : State → Eff)
    (s : State) : modWord h d a b more u set eff s = issueWord h d a b u (noStream (d :: more ++ [a, b]) (withSet set eff)) s := by
  cases set <;> rfl

section
variable {i : Hdr → Instr} {d a b : BitVec 7} {more : List (BitVec 7)} {u : Uses} {set : Option (Fin 4)} {eff : State → Eff}
  {P : State → Prop}

theorem completes_of_modWord {f : State → State} (meaning : ∀ h s, exec (i h) s = modWord h d a b more u set eff s)
    (free : ∀ s, P s → StreamFree s.cc (d :: more ++ [a, b]))
    (loaded : ∀ s, P s → ∀ m, set = some m → s.cc.regs.mods[m].loaded = true) (done : ∀ s, P s → eff s = .done (f s)) :
    Completes i d a b u P f :=
  completes_of_issueWord (fun h s => (meaning h s).trans (modWord_eq ..)) fun s hP => by
    rw [noStream_of_streamFree (free s hP), withSet_loaded (loaded s hP), done s hP]

theorem completes_of_setless {f : State → State} (meaning : ∀ h s, exec (i h) s = modWord h d a b more u none eff s)
    (free : ∀ s, P s → StreamFree s.cc (d :: more ++ [a, b])) (done : ∀ s, P s → eff s = .done (f s)) : Completes i d a b u P f :=
  completes_of_modWord meaning free (fun _ _ _ none' => nomatch none') done

theorem traps_of_modWord {m : Fin 4} (meaning : ∀ h s, exec (i h) s = modWord h d a b more u (some m) eff s)
    (free : ∀ s, P s → StreamFree s.cc (d :: more ++ [a, b])) (unloaded : ∀ s, P s → s.cc.regs.mods[m].loaded = false) :
    Traps i d a b u P .modulus fun _ => modVal 2 m 0 :=
  traps_of_issueWord (fun h s => (meaning h s).trans (modWord_eq ..)) fun s hP => by
    rw [noStream_of_streamFree (free s hP), withSet_unloaded (unloaded s hP)]

end

/-! ## Element-wise forms (R299 to R301) -/

section
variable {p : VForm} {d a : VReg} {b : Option VGSrc} {s : State}

theorem elementsEff_ready (ready : Ready p d [a] b s) (op : Nat → Nat → Nat → Nat → FpRegs → Nat × FpRegs)
    (skip : Nat → FpRegs → FpRegs) :
    elementsEff p d a b op skip s =
      let r := mapElems (1024 / p.w) (fun e => (s.cc.rdK p.km).getLsbD e) (fun e => if p.z then 0 else elem p.w (s.cc.rdV d).bits e)
        (fun e => op e (elem p.w (s.cc.rdV a).bits e) (second p.w b s.cc e) (elem p.w (s.cc.rdV d).bits e)) skip s.cc.regs.fp
      .done (s.setCc (((s.cc.setFp fun _ => r.2).busyFp p.fp).result s.cc.tmg.clk p.lat (.v d ⟨ofElems p.w r.1, p.tag⟩))) := by
  have hb := reads_secondRegs ready
  obtain ⟨ha, -, hd, ht⟩ := ready
  rw [elementsEff, vecEff_ready ha hb hd ht]
  simp only [active_whole, secondIn_read]
  rfl

theorem streamFree_ready (ready : Ready p d [a] b s) : StreamFree s.cc [opV d, opV a, (nums b).headD 0] := by
  obtain ⟨ha, hb, hd, -⟩ := ready
  obtain ⟨unbound, -⟩ := ha a List.mem_cons_self
  obtain _ | r | r := b
  case none => simp [nums, hd, unbound]
  case some.v =>
    obtain ⟨unboundB, -⟩ := hb
    simp [nums, opVG, hd, unbound, unboundB]
  case some.g => simp [nums, opVG, hd, unbound]

end

/-- Lanes are elements of 64 bits, and a general source is the same in every lane (R299). -/
theorem modForm_eq {p : VForm} (wide : p.w = 64) (h : Hdr) (set : Option (Fin 4)) (d a : VReg) (b : Option VGSrc)
    (op : Core → Nat → Nat → Nat → Nat → Nat) (s : State) :
    modForm h p set d a b op s = modWord h (opV d) (opV a) ((nums b).headD 0) [] (vUses (opV d) p.dstSource (opV a :: nums b) p.km 0)
      set (fun s => elementsEff p d a b (fun l x y o fp => (op s.cc l x y o, fp)) noSkip s) s := by
  simp only [modForm, elementsEff, wide]
  obtain _ | r | r := b
  case none => rfl
  case some.v => rfl
  case some.g =>
    simp only [secondIn, BitVec.toNat_mod_cancel]
    rfl

theorem modElements_of_modForm {i : Hdr → Instr} {p : VForm} {set : Option (Fin 4)} {d a : VReg} {b : Option VGSrc}
    {op : Core → Nat → Nat → Nat → Nat → Nat} (meaning : ∀ h s, exec (i h) s = modForm h p set d a b op s) (wide : p.w = 64)
    (integer : p.fp = 0) : ModElements i p set d a b op := by
  refine completes_of_modWord (fun h s => (meaning h s).trans (modForm_eq wide ..)) (fun s ⟨ready, _⟩ => streamFree_ready ready)
    (fun s ⟨_, loaded⟩ => loaded) fun s ⟨ready, _⟩ => ?_
  rw [elementsEff_ready ready]
  simp only [mapElems_pure, wide, integer]
  rfl

/-! ## Loading a set (R302, R303) -/

theorem completes_of_loadSetWord {i : Hdr → Instr} {a b : BitVec 7} {ops : List VOp} {m : Fin 4} {gap : Nat}
    {bad : Core → Option (Nat × Nat)} {q mu : Core → Nat → Word} {P : State → Prop} {srcs : List (BitVec 7)}
    (meaning : ∀ h s, exec (i h) s = loadSetWord h a b ops m gap bad q mu s) (named : (if b = 0 then [] else [b]) = srcs)
    (free : ∀ s, P s → StreamFree s.cc [0, a, b]) (reads : ∀ s, P s → ∀ o ∈ ops, Reads s.cc o.r o.allow)
    (good : ∀ s, P s → bad s.cc = none) :
    Completes i 0 a b { srcs := a :: srcs, empty := .all } P
      (onCore fun c => (c.loadSet m (q c) (mu c)).setTmg fun t => { t with clk := t.clk + gap }) := by
  subst named
  refine completes_of_setless meaning free fun s hP => ?_
  simp only [tagBreach_reads (reads s hP), good s hP]
  rfl

theorem opV_ne_zero (r : VReg) : opV r ≠ 0 := by revert r; decide

/-! ## The butterfly network (R294) -/

theorem busyNet_setCc (n : Nat) (s : State) (c : Core) :
    busyNet n (s.setCc c) = s.setCc (c.setTmg fun m => { m with netBusy := m.clk + n }) := by
  simp [busyNet]

theorem completes_of_lanePerm {i : Hdr → Instr} {d a : VReg} {src : Nat → Nat} (meaning : ∀ h s, exec (i h) s = lanePerm h d a src s) :
    Completes i (opV d) (opV a) 0 { srcs := [opV a], dsts := [opV d], unit := .net } (fun s => Whole s.cc a ∧ s.cc.bound d = none)
      (onCore fun c =>
        let x := ofLanes fun l => lane (c.rdV a).bits (src l)
        (c.result c.tmg.clk 3 (.v d ⟨x, permTag (c.rdV a).tag c x⟩)).setTmg fun t => { t with netBusy := t.clk + 1 }) := by
  refine completes_of_setless meaning (fun s ⟨⟨ha, _⟩, hd⟩ => by simp [ha, hd]) fun s ⟨⟨_, sound⟩, _⟩ => ?_
  simp only [poisonCheck_sound 2 sound, busyNet_setCc]
  rfl

/-! ## Pairs of registers (R41, R304, R306, R308) -/

section
variable {d : VReg} {a : Option VReg} {allow : Tag → Bool}

/-- The operands whose tags a word on a pair checks, in order: without twiddles both registers carry one tag (R306, R311). -/
def pairOps (allow : Tag → Bool) (d : VReg) (a : Option VReg) (c : Core) : List VOp :=
  (a.map fun r => ⟨2, r, allow⟩).toList ++
    [⟨1, d, allow⟩, ⟨1, pairReg d, fun t => allow t && (a.isSome || t == (c.rdV d).tag)⟩]

/-- What a word on a pair does where it issues with its set loaded. -/
def pairEff (d : VReg) (a : Option VReg) (lat busy : Nat) (allow : Tag → Bool) (f : Core → FpRegs → (VData × VData) × FpRegs)
    (s : State) : Eff :=
  let c := s.cc
  match c.tagBreach (pairOps allow d a c) with
  | some (k, x) => .trap s k x 0
  | none =>
    let r := f c c.regs.fp
    let tag := (c.rdV d).tag
    let c1 := (c.setFp fun _ => r.2).result c.tmg.clk lat (.v d ⟨r.1.1, permTag tag c r.1.1⟩)
    .done (busyNet busy (s.setCc (c1.result c.tmg.clk lat (.v (pairReg d) ⟨r.1.2, permTag tag c r.1.2⟩))))

theorem pairWord_eq (h : Hdr) (km : KReg) (set : Option (Fin 4)) (lat busy : Nat) (f : Core → FpRegs → (VData × VData) × FpRegs)
    (s : State) : pairWord h d a km set lat busy allow f s = modWord h (opV d) ((a.map opV).getD 0) 0 [opV (pairReg d)]
      { srcs := opV d :: opV (pairReg d) :: (a.map opV).toList ++ [opK km], dsts := [opV d, opV (pairReg d)], unit := .net } set
      (pairEff d a lat busy allow f) s := by
  cases a <;> rfl

/-- A pair and its twiddles, if it has any, let a word on them complete. -/
def PairReady (allow : Tag → Bool) (d : VReg) (a : Option VReg) (c : Core) : Prop :=
  Reads c d allow ∧ Reads c (pairReg d) allow ∧
    match a with
    | some r => Reads c r allow
    | none => (c.rdV (pairReg d)).tag = (c.rdV d).tag

theorem streamFree_pair {c : Core} (ready : PairReady allow d a c) :
    StreamFree c [opV d, opV (pairReg d), (a.map opV).getD 0, 0] := by
  obtain ⟨⟨first, -⟩, ⟨second, -⟩, third⟩ := ready
  cases a with
  | none => simp [first, second]
  | some r =>
    obtain ⟨third, -⟩ := third
    simp [first, second, third]

theorem reads_pairOps {c : Core} (ready : PairReady allow d a c) : ∀ o ∈ pairOps allow d a c, Reads c o.r o.allow := by
  obtain ⟨first, second, third⟩ := ready
  cases a with
  | none =>
    obtain ⟨unbound, sound, allowed⟩ := second
    have alike : (c.rdV (pairReg d)).tag = (c.rdV d).tag := third
    simpa [pairOps] using ⟨first, unbound, sound, by simp [← alike, allowed]⟩
  | some r => simpa [pairOps] using ⟨third, first, second⟩

theorem pairs_of_pairWord {i : Hdr → Instr} {km : KReg} {set : Option (Fin 4)} {lat busy : Nat}
    {f : Core → FpRegs → (VData × VData) × FpRegs} {g : Core → (VData × VData) × FpRegs}
    (meaning : ∀ h s, exec (i h) s = pairWord h d a km set lat busy allow f s) (same : ∀ c, f c c.regs.fp = g c) :
    Pairs i d a km set lat busy allow g := by
  refine completes_of_modWord (fun h s => (meaning h s).trans (pairWord_eq ..))
    (fun s ⟨first, second, third, _⟩ => streamFree_pair ⟨first, second, third⟩) (fun s ⟨_, _, _, loaded⟩ => loaded)
    fun s ⟨first, second, third, _⟩ => ?_
  simp only [pairEff, tagBreach_reads (reads_pairOps ⟨first, second, third⟩), busyNet_setCc, same]
  rfl

end

/-! ## VCMUL (R308) -/

/-- The form of VCMUL. -/
def cmulForm (km : KReg) (z : Bool) : VForm :=
  { w := 64, tag := 5#8, lat := 6, km := km, z := z, allowA := isCf32, allowB := isCf32 }

/-- An element of VCMUL from its sources: the real part, then the imaginary part. -/
def cmulElem (rm : BitVec 3) (cj : Bool) (e x y : Nat) (fp : FpRegs) : Nat × FpRegs :=
  let o := roundAll rm (laneOf 64 e) [prodRe false cj y x, prodIm false cj y x] fp
  (o.1.getD 0 0 + 2 ^ 32 * o.1.getD 1 0, o.2)

/-- What VCMUL does where it issues. -/
def cmulEff (d a b : VReg) (rm : BitVec 3) (cj : Bool) (km : KReg) (z : Bool) (s : State) : Eff :=
  match elementsEff (cmulForm km z) d a (some (.v b)) (fun e x y _ => cmulElem rm cj e x y)
    (fun e fp => stepLane rm (laneOf 64 e) 2 fp) s with
  | .done s => .done (busyNet 1 s)
  | e => e

theorem execVcmul_eq (h : Hdr) (d a b : VReg) (rm : BitVec 3) (cj : Bool) (km : KReg) (z : Bool) (s : State) :
    execVcmul h d a b rm cj km z s = modWord h (opV d) (opV a) (opV b) []
      { vUses (opV d) (cmulForm km z).dstSource [opV a, opV b] km 0 with unit := .net } none (cmulEff d a b rm cj km z) s := rfl

/-! ## Residues (R289, R304) -/

/-- A residue of a product of lanes enters a butterfly as it is. -/
theorem cast_modReduce (c : Core) (m : Fin 4) (x y l : Nat) :
    (c.modReduce m (x * y) l : Int) = (x * y : Int) % c.modulus m l := by
  rw [Core.modReduce]
  norm_cast

end Sys2Proof.Machine

namespace Sys2Proof
open Machine Claims

/-- Settles O9: the arithmetic by the element-wise form of the class, the sets by the checks of their lanes. -/
theorem modularArithmetic : Obligations.ModularArithmetic := by
  intro d a b y m nat km z q p two
  refine ⟨?vmadd, ?vmsub, ?vmmul, ?vmneg, ?vmmac, ?vmred, ?vmcvtI64, ?vmcvtMn, ?vmcvtMs, ?mqgen, ?mqld, ?unloaded⟩
  case vmadd => exact modElements_of_modForm (exec_vmadd · d a y m km z) rfl rfl
  case vmsub => exact modElements_of_modForm (exec_vmsub · d a y m km z) rfl rfl
  case vmmul => exact modElements_of_modForm (exec_vmmul · d a y m km z) rfl rfl
  case vmneg => exact modElements_of_modForm (exec_vmneg · d a m km z) rfl rfl
  case vmmac => exact modElements_of_modForm (exec_vmmac · d a y m km z) rfl rfl
  case vmred => exact modElements_of_modForm (exec_vmred · nat d a m km z) rfl rfl
  case vmcvtI64 => exact modElements_of_modForm (exec_vmcvtI64 · d a km z) rfl rfl
  case vmcvtMn => exact modElements_of_modForm (exec_vmcvtMn · d a m km z) rfl rfl
  case vmcvtMs => exact modElements_of_modForm (exec_vmcvtMs · d a m km z) rfl rfl
  case mqgen =>
    refine completes_of_loadSetWord (exec_mqgen · a m) (if_pos rfl) (fun s ⟨⟨ha, _⟩, _⟩ => by simp [ha])
      (fun s ⟨reads, _⟩ => by simpa using reads) fun s ⟨_, ok⟩ => ?_
    have none' : (List.range 16).find? (fun l => !modulusOk (lane (s.cc.rdV a).bits l)) = none :=
      List.find?_eq_none.mpr fun l hl => by simp [ok l (List.mem_range.mp hl)]
    rw [none', Option.map_none]
  case mqld =>
    refine completes_of_loadSetWord (exec_mqld · a b m) (if_neg (opV_ne_zero b)) (fun s ⟨⟨ha, _⟩, ⟨hb, _⟩, _⟩ => by simp [ha, hb])
      (fun s ⟨readsA, readsB, _⟩ => by simpa using ⟨readsA, readsB⟩) fun s ⟨_, _, ok⟩ => ?_
    refine List.findSome?_eq_none_iff.mpr fun l hl => ?_
    obtain ⟨modulus, constant⟩ := ok l (List.mem_range.mp hl)
    simp [modulus, constant]
  case unloaded =>
    refine traps_of_modWord (exec_vmmul · d a y m km z) (fun s ⟨hd, ha, hy, _⟩ => ?_) fun s ⟨_, _, _, unloaded⟩ => unloaded
    cases y with
    | v r => simp [opVG, hd, ha, hy r rfl]
    | g r => simp [opVG, hd, ha]

/-- Settles O10: the butterflies, BPERMX and VFFT2 as words on a pair, BPERM and VBITREV as permutations of one register, VCMUL as an
element-wise form behind which the network is busy. -/
theorem butterflies : Obligations.Butterflies := by
  intro d a b m k n rm cj km z bfly perm
  have butterfly {i : Hdr → Instr} {f : Core → Nat → Nat → Nat → Nat → Nat × Nat} {g : Int → Int → Int → Int → Int × Int}
      (meaning : ∀ h s, exec (i h) s = bflyWord h d a m km f s)
      (residues : ∀ c l (x y w : Nat), let q : Int := c.modulus m l
        f c l x y w = (((g x y w q).1 % q).toNat, ((g x y w q).2 % q).toNat)) : bfly i g := by
    refine pairs_of_pairWord meaning fun c => ?_
    simp only [residues]
    rfl
  clear_value bfly
  refine ⟨?bfly, ?ibfly, ?bperm, ?vbitrev, ?bpermx, ?vfft2, ?vcmul⟩
  case bfly =>
    refine butterfly (exec_bfly · d a m km) fun c l x y w => ?_
    dsimp only
    rw [cast_modReduce]
    rfl
  case ibfly => exact butterfly (exec_ibfly · d a m km) fun c l x y w => rfl
  case bperm => exact completes_of_lanePerm (exec_bperm · d a k)
  case vbitrev => exact completes_of_lanePerm (exec_vbitrev · d a n)
  case bpermx => exact pairs_of_pairWord (exec_bpermx · d k) fun _ => rfl
  case vfft2 => exact pairs_of_pairWord (exec_vfft2 · d a rm cj km) fun _ => rfl
  case vcmul =>
    refine completes_of_setless (fun h s => (exec_vcmul h d a b rm cj km z s).trans (execVcmul_eq ..))
      (fun s ready => streamFree_ready (p := cmulForm km z) (b := some (.v b)) ready)
      fun s (ready : Ready (cmulForm km z) d [a] (some (.v b)) s) => ?_
    rw [cmulEff, elementsEff_ready ready]
    simp only [busyNet_setCc, cmulForm]
    rfl

end Sys2Proof
end

section
/-! Channels (R390 to R396, R408): each word by the branch of its effect. -/
namespace Sys2Proof.Machine
open Sys2Proof Sys2Proof.Claims

theorem State.onComm_setCc (s : State) (c : Core) (f : Comm → Comm) :
    (s.setCc c).onComm s.cur f = s.setCc { c with comm := f c.comm } := by
  rw [State.onComm, State.core_cur_setCc]
  exact s.setCore_setCore ..

section
variable {d b : VReg} {g a : GReg} {ch slot : Fin 16} {s : State} {p : PTag} {x : Chan}

/-- A free channel towards a core that the partition may name is declared (R391). -/
theorem declareEff_declares (free : s.cc.comm.chans[ch] = none) (tag : s.cc.ctag = some p)
    (exists' : s.coreExists (some p) (s.cc.rdG a) = true) (inSet : s.inCoreSet p (s.cc.rdG a).toNat = true) :
    declareEff g a ch slot s =
      let l := (s.cc.rdG a).toNat
      let x : Chan := { dst := l, slot := slot, credit := false, pending := true, decl := s.nextId }
      let c := { s.cc with comm := s.cc.comm.setChan ch (some x) }
      let s1 := s.setCc (c.setTmg fun m => { m with owed := m.owed ++ [opG g] })
      .done (s1.sendLcn s.cur (some p) l s.cc.regs.trap.sup fun t => .channelClaim
        { rel := false, src := s1.lcn s.cur, ch := ch, dst := t, slot := slot, gdst := g, tag := some p, decl := s.nextId }) := by
  have comm (f : Comm → Comm) : s.onComm s.cur f = s.setCc { s.cc with comm := f s.cc.comm } := rfl
  rw [declareEff, free, tag]
  simp only [Option.isSome_none, Bool.false_eq_true, if_false, exists', inSet, Bool.not_true, Bool.or_false, comm, State.cc_setCc]
  rw [State.setCc_setCc]
  rfl

theorem declareEff_taken (taken : s.cc.comm.chans[ch] ≠ none) : declareEff g a ch slot s = .trap s .channel (channelVal 1 ch.val) 0 :=
  if_pos (Option.isSome_iff_ne_none.mpr taken)

end

end Sys2Proof.Machine

namespace Sys2Proof
open Machine Claims

/-- Settles O16: each form by the branch of its effect. -/
theorem channels : Obligations.Channels := by
  intro d b g a ch slot pf x p chan full owned
  have unowned {s : State} (none' : ¬ owned s) : (s.cc.comm.slots[slot.toFin]).owner.isNone = true := by
    simpa [owned] using none'
  have claimed {s : State} (own : owned s) : ¬ (s.cc.comm.slots[slot.toFin]).owner.isNone = true := by
    simpa [owned] using own
  refine ⟨?declares, ?taken, ?releases, ?sends, ?computing, ?receives, ?sleeps, ?polls, ?foreign⟩
  case declares =>
    exact completes_of_issueWord (fun h s => exec_chdecl h g a ch slot s) fun s ⟨free, tag, exists', inSet⟩ =>
      declareEff_declares free tag exists' inSet
  case taken => exact traps_of_issueWord (fun h s => exec_chdecl h g a ch slot s) fun s taken => declareEff_taken taken
  case releases =>
    refine completes_of_issueWord (fun h s => exec_chdeclRel h ch s) fun s ⟨valid, settled, credit⟩ => ?_
    dsimp only
    rw [show s.cc.comm.chans[ch.toFin] = some x from valid]
    simp only [settled, credit]
    rfl
  case sends =>
    refine completes_of_issueWord (fun h s => exec_chsend h b ch s) fun s ⟨⟨unbound, sound⟩, outside, valid, settled, credit⟩ => ?_
    rw [noStream_one unbound, if_neg outside, show s.cc.comm.chans[ch.toFin] = some x from valid]
    simp only [settled, credit, poisonCheck_sound 3 sound, State.messageTime, State.onComm_setCc]
    rfl
  case computing =>
    refine traps_of_issueWord (fun h s => exec_chsend h b ch s) fun s ⟨unbound, compute⟩ => ?_
    rw [noStream_one unbound, if_pos compute]
    rfl
  case receives =>
    refine completes_of_issueWord (fun h s => exec_chrecv h d slot s) fun s ⟨unbound, own, full⟩ => ?_
    rw [noStream_one unbound]
    exact (if_neg (claimed own)).trans (if_pos full)
  case sleeps =>
    intro h s issues s1 unbound own empty stays
    have notBefore : s1.cc.tmg.inside = none :=
      (congrArg (·.tmg.inside) (cc_issued ..)).trans ((s.cc.inside_atIssue h (opV d) 0 0 { dsts := [opV d] }).trans issues.1)
    refine (exec_chrecv h d slot s).trans ((issueWord_sleeps (t := s1.setCc { s1.cc with wait := .slot slot.toFin d }) issues ?_).trans
      ((finish_sleep ?_ ?_).trans ?_))
    · rw [noStream_one unbound]
      exact (if_neg (claimed own)).trans (if_neg (ne_true_of_eq_false empty))
    · rwa [State.cc_setCc]
    · rwa [State.cc_setCc]
    · rw [State.cc_setCc, State.setCc_setCc]
      rfl
  case polls =>
    refine completes_of_issueWord (fun h s => exec_chpoll h d slot pf s) fun s ⟨unbound, own⟩ => ?_
    rw [noStream_one unbound]
    exact if_neg (claimed own)
  case foreign =>
    refine traps_of_issueWord (fun h s => exec_chrecv h d slot s) fun s ⟨unbound, none'⟩ => ?_
    rw [noStream_one unbound]
    exact if_pos (unowned none')

end Sys2Proof
end

section
/-! Timed sends and receives (R387, R400, R403 to R405, R408): the entry of a timed form, and what the word does at its clk. -/
namespace Sys2Proof.Machine
open Sys2Proof Sys2Proof.Claims

section
variable {k : BitVec 8} {send : Bool} {s : State} {go : SchedEntry → Eff} {e : SchedEntry}

/-- XVAL of SLOT for a word at the clk of `s` (R408). -/
def slotXval (k : BitVec 8) (s : State) (reason : Nat) : Word := slotVal (s.cc.tmg.clk - s.cc.comm.t0) reason k.toNat

variable (comm : s.cc.regs.trap.phase = 2)
include comm

theorem timedEntry_none (none' : s.cc.comm.sched[k.toNat]? = none) :
    timedEntry k send s go = .trap s .slot (slotXval k s 0) 0 := by
  rw [timedEntry, if_neg (not_not.mpr comm), none']
  rfl

variable (entry : s.cc.comm.sched[k.toNat]? = some e)
include entry

theorem timedEntry_otherForm (other : e.send ≠ send) : timedEntry k send s go = .trap s .slot (slotXval k s 1) 0 := by
  rw [timedEntry, if_neg (not_not.mpr comm), entry]
  exact if_pos (bne_iff_ne.mpr other)

theorem timedEntry_offTime (form : e.send = send) (late : s.cc.tmg.clk ≠ s.cc.comm.t0 + e.offset) :
    timedEntry k send s go = .trap s .slot (slotXval k s 2) 0 := by
  rw [timedEntry, if_neg (not_not.mpr comm), entry]
  exact (if_neg (by rw [form, bne_self_eq_false]; exact nofun)).trans (if_pos late)

theorem timedEntry_onTime (form : e.send = send) (onTime : s.cc.tmg.clk = s.cc.comm.t0 + e.offset) :
    timedEntry k send s go = go e := by
  rw [timedEntry, if_neg (not_not.mpr comm), entry]
  exact (if_neg (by rw [form, bne_self_eq_false]; exact nofun)).trans (if_neg (not_not.mpr onTime))

end

/-- A timed word outside TIMED mode (R37). -/
theorem timed_untimed {s : State} {r : Host.Outcome State Fault Refusal} (untimed : s.cc.regs.trap.tim = false) :
    (if !s.cc.regs.trap.tim then decodeTrap s .illegalOpc 0x08 else r) = .next (s.takeTrap s.cur .illegalOpc 8 0) :=
  if_pos (by rw [untimed]; rfl)
theorem timed_timed {s : State} {r : Host.Outcome State Fault Refusal} (timed : s.cc.regs.trap.tim = true) :
    (if !s.cc.regs.trap.tim then decodeTrap s .illegalOpc 0x08 else r) = r :=
  if_neg (by rw [timed]; exact nofun)

/-- What a timed send does at its clk (R404). -/
def tsendEff (b : VReg) (s : State) (e : SchedEntry) : Eff :=
  match poisonCheck 3 (s.cc.rdV b) with
  | some y => .trap s .poison y 0
  | none =>
    let r := s.messageTime
    match s.ofLcn s.cc.ctag e.peer with
    | none => .done r.1
    | some t =>
      let T := s.cc.comm.t0 + e.offset + timedLatency s.cur t
      .done (r.1.sendAt T s.cur t s.cc.ptag s.cc.regs.trap.sup (.timedMessageLand t e.land (messageOf (s.lcn s.cur) 0 (s.cc.rdV b) r.2 T)))

/-- What a timed receive does at its clk (R404). -/
def trecvEff (d : VReg) (s : State) (e : SchedEntry) : Eff :=
  match (s.arriving s.cur e.land s.cc.tmg.clk).or (s.cc.comm.landing[e.land]) with
  | some m => .done (s.setCc ({ s.cc with lt := max s.cc.lt m.time }.result s.cc.tmg.clk 3 (.v d (s.cc.messageReg m))))
  | none => .done (s.setCc (s.cc.result s.cc.tmg.clk 3 (.v d ⟨0, poisonTag⟩)))

theorem exec_tsend_timed {h : Hdr} {b : VReg} {k : BitVec 8} {s : State} (timed : s.cc.regs.trap.tim = true) :
    exec (.tsend h b k) s = issueWord h 0 0 (opV b) { srcs := [opV b] }
      (noStream [opV b] fun s => timedEntry k true s (tsendEff b s)) s := timed_timed timed
theorem exec_trecv_timed {h : Hdr} {d : VReg} {k : BitVec 8} {s : State} (timed : s.cc.regs.trap.tim = true) :
    exec (.trecv h d k) s = issueWord h (opV d) 0 0 { dsts := [opV d] }
      (noStream [opV d] fun s => timedEntry k false s (trecvEff d s)) s := timed_timed timed

section
variable {b d : VReg} {s : State} {e : SchedEntry}

theorem tsendEff_sends {peer : Nat} (sound : isPoison (s.cc.rdV b).tag = false) (place : s.ofLcn s.cc.ctag e.peer = some peer) :
    tsendEff b s e =
      let T := s.cc.comm.t0 + e.offset + timedLatency s.cur peer
      .done ((onCore (fun c => { c with lt := c.lt + 1 }) s).sendAt T s.cur peer s.cc.ptag s.cc.regs.trap.sup (.timedMessageLand peer
        e.land { src := s.lcn s.cur, ch := 0, data := (s.cc.rdV b).bits.setWidth 512, tag := (s.cc.rdV b).tag, time := s.cc.lt + 1,
                 clk := T })) := by
  rw [tsendEff, poisonCheck_sound 3 sound, place]
  rfl

/-- A send to a peer outside the package only moves the sender's time. -/
theorem tsendEff_far (sound : isPoison (s.cc.rdV b).tag = false) (place : s.ofLcn s.cc.ctag e.peer = none) :
    tsendEff b s e = .done (onCore (fun c => { c with lt := c.lt + 1 }) s) := by
  rw [tsendEff, poisonCheck_sound 3 sound, place]
  rfl

theorem trecvEff_lands {m : ChanMsg} (there : (s.arriving s.cur e.land s.cc.tmg.clk).or s.cc.comm.landing[e.land] = some m) :
    trecvEff d s e = .done (onCore (fun c => { c with lt := max c.lt m.time }.result c.tmg.clk 3 (.v d (c.messageReg m))) s) := by
  rw [trecvEff, there]
  rfl

theorem trecvEff_poison (none' : (s.arriving s.cur e.land s.cc.tmg.clk).or s.cc.comm.landing[e.land] = none) :
    trecvEff d s e = .done (onCore (fun c => c.result c.tmg.clk 3 (.v d ⟨0, poisonTag⟩)) s) := by
  rw [trecvEff, none']
  rfl

end

end Sys2Proof.Machine

namespace Sys2Proof
open Machine Claims

/-- Settles O17: the words by their entry, and at their clk by what they do there. -/
theorem timedCommunication : Obligations.TimedCommunication := by
  intro d b k e peer m entry onTime slot landed completesTimed trapsTimed sendU recvU
  refine ⟨?sent, ?far, ?landed, ?missing, fun h s untimed => ⟨timed_untimed untimed, timed_untimed untimed⟩, ?noEntrySend,
    ?noEntryReceive, ?receiveEntry, ?sendEntry, ?lateSend, ?lateReceive⟩
  case sent =>
    intro h s timed issues ⟨⟨unbound, sound⟩, ⟨comm, some', form⟩, onTime, place⟩
    refine (exec_tsend_timed timed).trans (issueWord_completes issues ?_)
    rw [noStream_one unbound, timedEntry_onTime comm some' form onTime, tsendEff_sends sound place]
  case far =>
    intro h s timed issues ⟨⟨unbound, sound⟩, ⟨comm, some', form⟩, onTime, place⟩
    refine (exec_tsend_timed timed).trans (issueWord_completes issues ?_)
    rw [noStream_one unbound, timedEntry_onTime comm some' form onTime, tsendEff_far sound place]
  case landed =>
    intro h s timed issues ⟨unbound, ⟨comm, some', form⟩, onTime, there⟩
    refine (exec_trecv_timed timed).trans (issueWord_completes issues ?_)
    rw [noStream_one unbound, timedEntry_onTime comm some' form onTime, trecvEff_lands there]
  case missing =>
    intro h s timed issues ⟨unbound, ⟨comm, some', form⟩, onTime, none'⟩
    refine (exec_trecv_timed timed).trans (issueWord_completes issues ?_)
    rw [noStream_one unbound, timedEntry_onTime comm some' form onTime, trecvEff_poison none']
  case noEntrySend =>
    intro h s timed issues ⟨unbound, comm, none'⟩
    refine (exec_tsend_timed timed).trans (issueWord_traps issues ?_)
    exact (noStream_one unbound _).trans (timedEntry_none comm none')
  case noEntryReceive =>
    intro h s timed issues ⟨unbound, comm, none'⟩
    refine (exec_trecv_timed timed).trans (issueWord_traps issues ?_)
    exact (noStream_one unbound _).trans (timedEntry_none comm none')
  case receiveEntry =>
    intro h s timed issues ⟨unbound, comm, some', form⟩
    refine (exec_tsend_timed timed).trans (issueWord_traps issues ?_)
    exact (noStream_one unbound _).trans (timedEntry_otherForm comm some' (by simp [form]))
  case sendEntry =>
    intro h s timed issues ⟨unbound, comm, some', form⟩
    refine (exec_trecv_timed timed).trans (issueWord_traps issues ?_)
    exact (noStream_one unbound _).trans (timedEntry_otherForm comm some' (by simp [form]))
  case lateSend =>
    intro h s timed issues ⟨unbound, ⟨comm, some', form⟩, late⟩
    refine (exec_tsend_timed timed).trans (issueWord_traps issues ?_)
    exact (noStream_one unbound _).trans (timedEntry_offTime comm some' form late)
  case lateReceive =>
    intro h s timed issues ⟨unbound, ⟨comm, some', form⟩, late⟩
    refine (exec_trecv_timed timed).trans (issueWord_traps issues ?_)
    exact (noStream_one unbound _).trans (timedEntry_offTime comm some' form late)

end Sys2Proof
end

section
/-! The tile and status words of the cluster array (R314, R315, R342 to R348): the check that stands before each, and its effect. -/
namespace Sys2Proof.Machine
open Sys2Proof Sys2Proof.Claims

/-! ## The share and the tile of a form (R314, R315) -/

theorem zownVal_alien (t : Fin 4) : zownVal 1 t.val = 0x100 + BitVec.ofNat 64 t.val := by revert t; decide

section
variable {own : Option (Fin 4)} {k : Fin 2 → State → Eff} {s : State} {sh : Fin 2} {t : Fin 4}

theorem zCheck_shareless (none' : (s.cluster (ownCluster s)).shareOf s.cc.ptag = none) : zCheck own k s = .trap s .zown 0 0 := by
  rw [zCheck, show (s.cluster (clusterOf s.cur)).shareOf s.cc.ptag = none from none']
  rfl

theorem zCheck_shares (shares : Shares s sh) : zCheck none k s = k sh s := by
  rw [zCheck]
  dsimp only
  rw [show (s.cluster (clusterOf s.cur)).shareOf s.cc.ptag = some sh from shares]

theorem zCheck_owns (owns : Owns s sh t) : zCheck (some t) k s = k sh s := by
  obtain ⟨shares, owner⟩ := owns
  rw [zCheck]
  dsimp only
  rw [show (s.cluster (clusterOf s.cur)).shareOf s.cc.ptag = some sh from shares]
  exact if_pos owner

theorem zCheck_alien (shares : Shares s sh) (alien : (tileOf s sh t).owner ≠ some s.cur) :
    zCheck (some t) k s = .trap s .zown (0x100 + BitVec.ofNat 64 t.val) 0 := by
  rw [zCheck]
  dsimp only
  rw [show (s.cluster (clusterOf s.cur)).shareOf s.cc.ptag = some sh from shares, ← zownVal_alien]
  exact if_neg alien

end

/-- A form that asks for its own tile takes ZOWN where the core has no share, and where it does not own the tile. -/
theorem traps_alien {i : Hdr → Instr} {u : Uses} {P : State → Prop} {sh : Fin 2} {t : Fin 4} {k : Fin 2 → State → Eff}
    {eff : State → Eff} (meaning : ∀ h s, exec (i h) s = issueWord h 0 0 0 u eff s) (checks : ∀ s, P s → eff s = zCheck (some t) k s) :
    Traps i 0 0 0 u (fun s => P s ∧ (s.cluster (ownCluster s)).shareOf s.cc.ptag = none) .zown (fun _ => 0) ∧
    Traps i 0 0 0 u (fun s => P s ∧ Shares s sh ∧ (tileOf s sh t).owner ≠ some s.cur) .zown
      (fun _ => 0x100 + BitVec.ofNat 64 t.val) :=
  ⟨traps_of_issueWord meaning fun s ⟨hP, none'⟩ => (checks s hP).trans (zCheck_shareless none'),
    traps_of_issueWord meaning fun s ⟨hP, shares, alien⟩ => (checks s hP).trans (zCheck_alien shares alien)⟩

/-! ## Queued forms (R331) -/

section
variable {s : State} {sh : Fin 2} {t : Fin 4}

theorem notFull_of_room (room : Room s sh) : ¬ (decide (8 ≤ (s.myShare sh).waiting.length) || s.arrayClosed sh) = true := by
  obtain ⟨few, open_⟩ := room
  simp [open_, few]

theorem zQueue_room (k : ZKind) (room : Room s sh) : zQueue sh t k s = .done (queues sh t k s) := if_neg (notFull_of_room room)

/-- A queued form on a tile of the core's own. -/
theorem zQueued (k : ZKind) (owns : Owns s sh t) (room : Room s sh) :
    zCheck (some t) (fun sh => zQueue sh t k) s = .done (queues sh t k s) := (zCheck_owns owns).trans (zQueue_room k room)

end

/-! ## Status words (R348) -/

theorem boolBit_second (sh : Fin 2) : boolBit (sh == 1) 8 = if sh = 1 then 0x100 else 0 := by revert sh; decide

/-- The tile's format suits the one that ZSTORE writes: no format that POISON could be mistaken for (R344). -/
theorem suits_sound {tag dt : Tag} (suits : tag = 0x02#8 ∧ dt ≠ 0x0A#8 ∨ tag = 0x0A#8 ∧ dt = 0x0A#8) :
    ¬ isPoison tag = true ∧ ¬ (!(tag == 0x02#8 && dt != 0x0A#8 || tag == 0x0A#8 && dt == 0x0A#8)) = true := by
  rcases suits with ⟨rfl, float⟩ | ⟨rfl, rfl⟩
  · exact ⟨by decide, by simp [float]⟩
  · exact ⟨by decide, by decide⟩

/-- A group of registers without a stream. -/
theorem noStream_none {xs : List (BitVec 7)} {s : State} (none' : s.cc.streamOperand xs = none) (k : State → Eff) :
    noStream xs k s = k s := by
  rw [noStream, none']

end Sys2Proof.Machine

namespace Sys2Proof
open Machine Claims

/-- R314, R315, R342, R344 to R348: behind the check of the share and the tile, each form does what its branch says. -/
theorem tileForms : Claims.TileForms := by
  intro d g a v t sh i32 sideB clr dt rm c x q j stride imm p fmt rowOf gU mode
  refine ⟨?takes, ?has, ?taken, ?free, ?zero, ?load, ?store, ?read, ?watermark, ?wait, ?scale, ?statT, ?statF, ?statS⟩
  case takes =>
    refine completes_of_issueWord (fun h s => exec_zalloc h d t s) fun s ⟨shares, unowned⟩ => (zCheck_shares shares).trans ?_
    have owner : ((s.myShare sh).tiles[t]).owner = none := unowned
    dsimp only
    rw [owner]
    rfl
  case has =>
    refine completes_of_issueWord (fun h s => exec_zalloc h d t s) fun s ⟨shares, mine⟩ => (zCheck_shares shares).trans ?_
    have owner : ((s.myShare sh).tiles[t]).owner = some s.cur := mine
    dsimp only
    rw [owner, Option.isNone_some, beq_self_eq_true]
    rfl
  case taken =>
    refine completes_of_issueWord (fun h s => exec_zalloc h d t s) fun s ⟨shares, owned, other⟩ => (zCheck_shares shares).trans ?_
    have some' : ((s.myShare sh).tiles[t]).owner.isNone = false := Option.isNone_eq_false_iff.mpr (Option.isSome_iff_ne_none.mpr owned)
    have notMine : (((s.myShare sh).tiles[t]).owner == some s.cur) = false := beq_eq_false_iff_ne.mpr other
    dsimp only
    rw [some', notMine]
    rfl
  case free =>
    exact completes_of_issueWord (fun h s => exec_zfree h t s) fun s ⟨owns, room⟩ =>
        (zCheck_owns owns).trans (if_neg (notFull_of_room room))
  case zero => exact completes_of_issueWord (fun h s => exec_zzero h i32 t s) fun s ⟨owns, room⟩ => zQueued _ owns room
  case load =>
    refine completes_of_issueWord (fun h s => exec_zldc h i32 a t stride s) fun s ⟨owns, room, place⟩ => (zCheck_owns owns).trans ?_
    rw [place]
    exact zQueue_room _ room
  case store =>
    refine completes_of_issueWord (fun h s => exec_zstore h dt a rm t stride s) fun s ⟨owns, room, quiet, suits, place⟩ =>
      (zCheck_owns owns).trans ((if_neg (ne_true_of_eq_false quiet)).trans ?_)
    obtain ⟨sound, same⟩ := suits_sound suits
    refine (if_neg sound).trans ((if_neg same).trans ?_)
    rw [place]
    exact zQueue_room _ room
  case read =>
    refine completes_of_issueWord (fun h s => exec_zread h v a x t c s) fun s ⟨unbound, owns, final, inside, sound⟩ =>
      (noStream_none unbound _).trans ((zCheck_owns owns).trans ?_)
    exact (if_neg (Nat.not_le.mpr inside)).trans ((if_neg (ne_true_of_eq_false sound)).trans (if_neg (Nat.not_le.mpr final)))
  case watermark => exact completes_of_issueWord (fun h s => exec_zwm h g t s) fun s owns => zCheck_owns owns
  case wait =>
    exact completes_of_issueWord (fun h s => exec_zwait h a t imm s) fun s ⟨owns, passed⟩ => (zCheck_owns owns).trans (if_pos passed)
  case scale =>
    refine completes_of_issueWord (fun h s => exec_zscl h a v sideB j q s) fun s ⟨unbound, shares, tagged, quiet⟩ =>
      (noStream_none unbound _).trans ((zCheck_shares shares).trans ?_)
    rw [tagged]
    exact if_neg (ne_true_of_eq_false quiet)
  case statT =>
    refine completes_of_issueWord (fun h s => exec_zstatT h g t clr s) fun s ⟨shares, own⟩ => ?_
    cases clr
    · exact zCheck_shares shares
    · exact zCheck_owns (own rfl)
  case statF => exact completes_of_issueWord (fun h s => exec_zstatF h g clr s) fun s shares => zCheck_shares shares
  case statS =>
    refine completes_of_issueWord (fun h s => exec_zstatS h g s) fun s shares => (zCheck_shares shares).trans ?_
    rw [boolBit_second]
    rfl

/-- R315, R327, R343, R345: without a share or on another core's tile a form traps before anything else; ZREAD by its row and its tile,
ZMMA by the tag that the tile will have. -/
theorem tileTraps : Claims.TileTraps := by
  intro d g a b v t sh sc tag dt rm c x stride imm alien threeU readU noStr
  refine ⟨traps_of_issueWord (fun h s => exec_zalloc h d t s) fun s none' => zCheck_shareless none',
    traps_alien (fun h s => exec_zfree h t s) fun s _ => rfl,
    traps_alien (fun h s => exec_zmma h tag g a b t sc s) fun s _ => rfl,
    traps_alien (fun h s => exec_zmmas h tag g a b t sc s) fun s _ => rfl,
    traps_alien (fun h s => exec_zldc h sc a t stride s) fun s _ => rfl,
    traps_alien (fun h s => exec_zstore h dt a rm t stride s) fun s _ => rfl,
    traps_alien (fun h s => exec_zread h v a x t c s) fun s unbound => noStream_none unbound _,
    traps_alien (fun h s => exec_zwait h a t imm s) fun s _ => rfl, ?beyond, ?poisonRow, ?poisonTile, ?otherFormat⟩
  case beyond =>
    exact traps_of_issueWord (fun h s => exec_zread h v a x t c s) fun s ⟨unbound, owns, beyond⟩ =>
      (noStream_none unbound _).trans ((zCheck_owns owns).trans (if_pos beyond))
  case poisonRow =>
    exact traps_of_issueWord (fun h s => exec_zread h v a x t c s) fun s ⟨unbound, owns, inside, poison⟩ =>
      (noStream_none unbound _).trans ((zCheck_owns owns).trans ((if_neg (Nat.not_le.mpr inside)).trans (if_pos poison)))
  case poisonTile =>
    exact traps_of_issueWord (fun h s => exec_zmma h tag g a b t sc s) fun s ⟨owns, poison⟩ => (zCheck_owns owns).trans (if_pos poison)
  case otherFormat =>
    exact traps_of_issueWord (fun h s => exec_zmma h tag g a b t sc s) fun s ⟨owns, sound, other⟩ =>
      (zCheck_owns owns).trans ((if_neg (ne_true_of_eq_false sound)).trans (if_pos other))

/-- Settles O46: the words by their effects, the traps by the check that each meets first. -/
theorem tileWords : Obligations.TileWords := ⟨tileForms, tileTraps⟩

end Sys2Proof
end

section
/-! ZMMA and ZMMAS (R318, R322, R330, R331, R343): the header reads, the checks on what they return, and acceptance. -/
namespace Sys2Proof.Machine
open Sys2Proof Sys2Proof.Claims

/-! ## A word that goes on waiting inside its effect (R24) -/

@[simp] theorem cc_goingOn (h : Hdr) (s : State) : (goingOn h s).cc = s.cc.goOn h := State.cc_setCc _ _

/-- A word that has waited inside its effect waits another clk there; the operand buffer stays as it was. -/
theorem finish_within_again {h : Hdr} {t x : Nat} {o : List (VReg × Nat)} {s : State} (inside : s.cc.tmg.inside = some x) :
    finish h t ((Eff.within s).unaged o) = .next (s.setCc (s.cc.setTmg fun m => { m with clk := t + 1, obuf := o })) := by
  simp only [Eff.unaged, finish_within, State.cc_setCc, State.setCc_setCc, Core.waitInside, Core.setTmg, inside, Option.getD_some,
    Option.isSome_some, if_true]

/-- A word whose effect waits inside for the first time. -/
theorem issueWord_within {h : Hdr} {d sa sb : BitVec 7} {u : Uses} {eff : State → Eff} {s r : State} (issues : Issues h u s)
    (within : eff (issued h d sa sb u s) = .within r) (first : r.cc.tmg.inside = none) :
    issueWord h d sa sb u eff s = .next (waitsInside s (issued h d sa sb u s).cc.tmg.clk r) := by
  rw [issueWord_of_issues issues, within, cc_issued]
  simp only [Eff.unaged, finish_within, State.cc_setCc, State.setCc_setCc, Core.waitInside, Core.setTmg, first, waitsInside]
  rfl

/-! ## The tile's checks, and the three ways from there -/

/-- The tile and the operands' places are what ZMMA and ZMMAS ask for (R322, R343). -/
def MmaTile (s : State) (sh : Fin 2) (t : Fin 4) (tag : Tag) (a b : GReg) (ca oa cb ob : Nat) : Prop :=
  Owns s sh t ∧ isPoison ((s.myShare sh).pendingTag t) = false ∧ (s.myShare sh).pendingTag t = mxTile tag ∧
    s.operandPlace (s.cc.rdG a) = .ok (ca, oa) ∧ s.operandPlace (s.cc.rdG b) = .ok (cb, ob)

section
variable {sparse sc : Bool} {tag : Tag} {d a b : GReg} {t : Fin 4} {sh : Fin 2} {ca oa cb ob back : Nat} {wa wb : BitVec 128} {s : State}
  (tile : MmaTile s sh t tag a b ca oa cb ob)
include tile

theorem mmaEff_reads (first : s.cc.headsRead = none) (freeA : s.rangeHeld (s.cc.rdG a) 16 = false)
    (freeB : s.rangeHeld (s.cc.rdG b) 16 = false) (clearA : (s.myShare sh).storeCovers (s.myRows sh) ca oa = false)
    (clearB : (s.myShare sh).storeCovers (s.myRows sh) cb ob = false) :
    mmaEff sparse tag d a b t sc s = readHeads (s.cc.rdG a) (s.cc.rdG b) ca oa cb ob s := by
  obtain ⟨owns, sound, same, placeA, placeB⟩ := tile
  refine (zCheck_owns owns).trans ?_
  dsimp only
  rw [if_neg (ne_true_of_eq_false sound), if_neg (not_not.mpr same), placeA, placeB]
  dsimp only
  rw [first]
  dsimp only
  rw [if_neg (ne_true_of_eq_false freeA), if_neg (ne_true_of_eq_false freeB), clearA, clearB]
  rfl

variable (returns : s.cc.headsRead = some (back, wa, wb))
include returns

theorem mmaEff_waits (early : s.cc.tmg.clk < back) : mmaEff sparse tag d a b t sc s = .within s := by
  obtain ⟨owns, sound, same, placeA, placeB⟩ := tile
  refine (zCheck_owns owns).trans ?_
  dsimp only
  rw [if_neg (ne_true_of_eq_false sound), if_neg (not_not.mpr same), placeA, placeB]
  dsimp only
  rw [returns]
  exact if_pos early

theorem mmaEff_returned (late : back ≤ s.cc.tmg.clk) : mmaEff sparse tag d a b t sc s =
    mmaHeads sparse tag d t sc sh (s.cc.rdG a) (s.cc.rdG b) ca oa cb ob (opHeader (toBytes 16 wa)) (opHeader (toBytes 16 wb)) s := by
  obtain ⟨owns, sound, same, placeA, placeB⟩ := tile
  refine (zCheck_owns owns).trans ?_
  dsimp only
  rw [if_neg (ne_true_of_eq_false sound), if_neg (not_not.mpr same), placeA, placeB]
  dsimp only
  rw [returns]
  exact if_neg (Nat.not_lt.mpr late)

end

/-! ## The header reads (R331) -/

section
variable {xa xb : Word} {ca oa cb ob : Nat} {s : State}

/-- What is left of the state by both reads. -/
def State.headsTouched (s : State) (ca oa cb ob : Nat) : State :=
  (((s.touch s.cur (.spad false ca oa) 16).1.coreRead s.cur (.spad ca)).touch s.cur (.spad false cb ob) 16).1.coreRead s.cur (.spad cb)

/-- Headers that read sound are on their way. -/
theorem readHeads_sound (soundA : (s.touch s.cur (.spad false ca oa) 16).2 = false)
    (soundB : (((s.touch s.cur (.spad false ca oa) 16).1.coreRead s.cur (.spad ca)).touch s.cur (.spad false cb ob) 16).2 = false) :
    let s2 := s.headsTouched ca oa cb ob
    let bits (c o : Nat) : BitVec 128 := ofBytes 128 (s2.readPlace 16 (.spad false c o))
    readHeads xa xb ca oa cb ob s = .within ({ s2 with draws := s.draws + 1 }.setCc (s2.cc.setTmg fun m =>
      { m with heads := some (s.cc.tmg.clk + max (s.headClk ca) (s.headClk cb), bits ca oa, bits cb ob) })) :=
  (if_neg (ne_true_of_eq_false soundA)).trans (if_neg (ne_true_of_eq_false soundB))

theorem State.headsTouched_cur : (s.headsTouched ca oa cb ob).cur = s.cur :=
  (State.touch_sameChecks _ s.cur (.spad false cb ob) 16).cur.trans (s.touch_sameChecks s.cur (.spad false ca oa) 16).cur

theorem State.headsTouched_tmg : (s.headsTouched ca oa cb ob).cc.tmg = s.cc.tmg := by
  rw [State.cc, State.headsTouched_cur]
  exact ((State.coreRead_upkeep _ _ _).tmg s.cur).trans ((State.tmg_touch_spad ..).trans
    (((State.coreRead_upkeep _ _ _).tmg s.cur).trans (s.tmg_touch_spad ..)))

end

/-! ## The checks on the headers as they return (R330, R343) -/

section
variable {sparse sc : Bool} {tag : Tag} {d : GReg} {t : Fin 4} {sh : Fin 2} {xa xb : Word} {ca oa cb ob m : Nat} {ha hb : OpHeader}
  {s : State}

theorem aHeaderOk_iff : aHeaderOk ha sparse m oa = true ↔ ha.zero = true ∧ ha.rows = m ∧ ha.cols ≠ 0 ∧
    (if sparse then ha.kind = 1 ∧ (ha.spn = 12 ∨ ha.spn = 8 ∨ ha.spn = 6) ∧ ha.cols % 96 = 0
      else ha.kind = 0 ∧ ha.spn = 0 ∧ ha.cols % 32 = 0) ∧
    oa + aTileBytes m (tagWidth ha.fmt) ha.cols ha.spn ≤ Config.spadBytes := by
  cases sparse <;> simp [aHeaderOk, and_assoc, or_assoc]

theorem bHeaderOk_iff : bHeaderOk hb m ob = true ↔ hb.zero = true ∧ hb.kind = 2 ∧ hb.spn = 0 ∧ hb.rows = m ∧ hb.cols = 256 ∧
    ob + bTileBytes (tagWidth hb.fmt) m ≤ Config.spadBytes := by
  simp [bHeaderOk, and_assoc]

/-- The headers are of the form's format and shape and, with scales, of the sequence that the slots hold. -/
structure MmaHeadersOk (s : State) (sparse sc : Bool) (tag : Tag) (d : GReg) (sh : Fin 2) (oa ob : Nat) (ha hb : OpHeader) : Prop where
  fmtA : ha.fmt = tag
  fmtB : hb.fmt = tag
  shapeA : aHeaderOk ha sparse (s.myRows sh) oa = true
  shapeB : bHeaderOk hb ha.cols ob = true
  scales : sc = true → ha.seq = lo (s.cc.rdG d) ∧ hb.seq = lo (s.cc.rdG d) ∧
    (s.myShare sh).aSlots[slotOf (lo (s.cc.rdG d))].covers (lo (s.cc.rdG d)) ha.cols ((s.myRows sh + 63) / 64) = true ∧
    (s.myShare sh).bSlots[slotOf (lo (s.cc.rdG d))].covers (lo (s.cc.rdG d)) ha.cols 4 = true

/-- The operation of such headers, with the scales as they stand (R330). -/
def mmaOpOf (s : State) (sparse sc : Bool) (tag : Tag) (d : GReg) (sh : Fin 2) (ca oa cb ob : Nat) (ha : OpHeader) : MmaOp :=
  let q := lo (s.cc.rdG d)
  { sparse := sparse, scaled := if sc then some q else none, fmt := tag, aCore := ca, aOff := oa, bCore := cb, bOff := ob,
    k := ha.cols, n := ha.spn, sa := if sc then (s.myShare sh).aSlots[slotOf q] else {},
    sb := if sc then (s.myShare sh).bSlots[slotOf q] else {} }

/-- Headers that pass bring the form to its queue. -/
theorem mmaHeads_ok (ok : MmaHeadersOk s sparse sc tag d sh oa ob ha hb) :
    mmaHeads sparse tag d t sc sh xa xb ca oa cb ob ha hb s = zAccept sh t (.mma (mmaOpOf s sparse sc tag d sh ca oa cb ob ha)) s := by
  obtain ⟨fmtA, fmtB, shapeA, shapeB, scales⟩ := ok
  have unbroken : (if sc then scaleBreach (s.myShare sh) (s.myRows sh) (lo (s.cc.rdG d)) ha hb else none) = none := by
    split
    case isTrue scaled =>
      obtain ⟨seqA, seqB, coversA, coversB⟩ := scales scaled
      rw [scaleBreach, if_neg (not_not.mpr seqA), if_neg (not_not.mpr seqB), coversA, coversB]
      rfl
    case isFalse => rfl
  rw [mmaHeads, if_neg (not_not.mpr fmtA), if_neg (not_not.mpr fmtB), shapeA, shapeB]
  dsimp only
  rw [show (if sc then scaleBreach (s.myShare sh) (s.myRows sh) ((s.cc.rdG d).setWidth 32) ha hb else none) = none from unbroken]
  rfl

theorem zAccept_room {k : ZKind} (room : Room s sh) : zAccept sh t k s = .done (queues sh t k s) := by
  rw [zAccept, zQueue_room k room]
theorem zAccept_full {k : ZKind} (full : ¬ Room s sh) : zAccept sh t k s = .within s := by
  have stalls : zQueue sh t k s = .stall s := by
    refine if_pos ?_
    by_contra open_
    simp only [Bool.or_eq_true, decide_eq_true_eq, not_or, Bool.not_eq_true, not_le] at open_
    exact full open_
  rw [zAccept, stalls]

end

theorem State.headClk_own (s : State) : s.headClk s.cur = 3 := if_pos rfl
theorem State.le_headClk {s : State} {c : Nat} (other : c ≠ s.cur) : 10 ≤ s.headClk c := by
  rw [State.headClk, if_neg other]
  exact Nat.le_add_right _ _

end Sys2Proof.Machine

namespace Sys2Proof
open Machine Claims

/-- Settles O18: the word by what it does as it issues, and by what it does where it goes on. -/
theorem matrixProducts : Obligations.MatrixProducts := by
  intro tag d a b t sh sc sparse ca oa cb ob back wa wb u word ha hb seq x tileOk shapeA shapeB scales returned headersOk op
  have meaning (h : Hdr) (s : State) : exec (word h) s = issueWord h 0 0 0 u (mmaEff sparse tag d a b t sc) s := by
    cases sparse <;> rfl
  have tile {s : State} (ok : tileOk s) : MmaTile s sh t tag a b ca oa cb ob := ok
  have passes {s : State} (ok : headersOk s) : MmaHeadersOk s sparse sc tag d sh oa ob ha hb := by
    obtain ⟨fmtA, fmtB, formA, formB, scaled⟩ := ok
    exact ⟨fmtA, fmtB, aHeaderOk_iff.mpr (by rw [fmtA]; exact formA), bHeaderOk_iff.mpr (by rw [fmtB]; exact formB), scaled⟩
  have atReturn {h : Hdr} {s : State} (inside : s.cc.tmg.inside.isSome = true) :
      (goingOn h s).cc.headsRead = (goingOn h s).cc.tmg.heads := by
    rw [Core.headsRead, cc_goingOn]
    exact if_pos inside
  refine ⟨?reads, fun s c => ⟨s.headClk_own, State.le_headClk⟩, ?accepted, ?waits⟩
  case reads =>
    intro h s issues s1 ra rb s2 bits ok freeA freeB clearA clearB soundA soundB
    have fresh : s1.cc.tmg.inside = none :=
      (congrArg (·.tmg.inside) (cc_issued ..)).trans ((s.cc.inside_atIssue h 0 0 0 u).trans issues.1)
    have first : s1.cc.headsRead = none := if_neg (by rw [fresh]; exact nofun)
    refine (meaning h s).trans (issueWord_within issues ((mmaEff_reads (tile ok) first freeA freeB clearA clearB).trans
      (readHeads_sound soundA soundB)) ?_)
    rw [State.cc_setCc]
    exact (congrArg Timing.inside s1.headsTouched_tmg).trans fresh
  case accepted =>
    intro h s inside ⟨ok, ⟨heads, late⟩, good, room⟩
    obtain ⟨start, atStart⟩ := Option.isSome_iff_exists.mp inside
    have effect := (mmaEff_returned (sparse := sparse) (d := d) (sc := sc) (tile ok) ((atReturn inside).trans heads) late).trans
      ((mmaHeads_ok (passes good)).trans (zAccept_room room))
    rw [meaning, issueWord_goesOn atStart, show mmaEff sparse tag d a b t sc (s.setCc (s.cc.goOn h)) = _ from effect]
    rfl
  case waits =>
    intro h s inside s1 ok heads waiting
    obtain ⟨start, atStart⟩ := Option.isSome_iff_exists.mp inside
    have returns := (atReturn (h := h) inside).trans heads
    have effect : mmaEff sparse tag d a b t sc s1 = .within s1 := by
      by_cases early : s1.cc.tmg.clk < back
      · exact mmaEff_waits (tile ok) returns early
      · obtain ⟨good, full⟩ := waiting.resolve_left early
        exact (mmaEff_returned (tile ok) returns (Nat.not_lt.mp early)).trans ((mmaHeads_ok (passes good)).trans (zAccept_full full))
    have again : s1.cc.tmg.inside = some start := (congrArg (·.tmg.inside) (cc_goingOn h s)).trans atStart
    rw [meaning, issueWord_goesOn atStart, show mmaEff sparse tag d a b t sc (s.setCc (s.cc.goOn h)) = _ from effect,
      finish_within_again again]
    have clk : s1.cc.tmg.clk = s.cc.tmg.clk := congrArg (·.tmg.clk) (cc_goingOn h s)
    rw [← clk]
    rfl

end Sys2Proof
end

section
/-! The array's own steps (R327, R329, R332 to R336, R344): which operation a share takes, which row is written next, and what the
performing of either leaves. -/
namespace Sys2Proof.Machine
open Sys2Proof

/-! ## The operation that a share takes (R332, R335) -/

section
variable {y : Share} {m now j : Nat}

theorem Share.eligible_of_pick (picked : y.pick m now = some j) : y.eligible m j = true ∧ y.dueAt j ≤ now := by
  obtain ⟨d, -, found⟩ := List.exists_of_findSome?_eq_some picked
  obtain ⟨startable, due⟩ := List.mem_filter.mp (List.mem_of_find?_eq_some found)
  exact ⟨(List.mem_filter.mp startable).2, of_decide_eq_true due⟩

/-- An operation that may start is the oldest of its core that has not, with no earlier one on its tile and no earlier store over its
memory, and streams only while none does. -/
theorem Share.eligible_iff : y.eligible m j = true ↔ ∃ q : ZOp, y.queue[j]? = some q ∧ q.started = false ∧
    (∀ q' ∈ y.queue.take j, q'.tile ≠ q.tile ∧ (q'.core = q.core → q'.started = true) ∧ q'.storesOver m (q.ranges m) = false) ∧
    (q.kind.streams = true → ∀ q' ∈ y.queue, q'.streaming = false) := by
  rw [Share.eligible]
  cases op : y.queue[j]? with
  | none => simp
  | some q =>
    simp only [Bool.and_eq_true, Bool.not_eq_true', List.any_eq_false, Bool.or_eq_false_iff, beq_eq_false_iff_ne, and_assoc,
      Bool.not_eq_true, Bool.and_eq_false_imp, beq_iff_eq, Bool.not_eq_false', Option.some.injEq, exists_eq_left']

theorem Share.pick_spec (picked : y.pick m now = some j) : ∃ q : ZOp, y.queue[j]? = some q ∧ q.started = false ∧ q.due ≤ now ∧
    (∀ (k : Nat) (q' : ZOp), k < j → y.queue[k]? = some q' → q'.tile ≠ q.tile ∧ (q'.core = q.core → q'.started = true) ∧
      q'.storesOver m (q.ranges m) = false) ∧
    (q.kind.streams = true → ∀ q' ∈ y.queue, q'.streaming = false) := by
  obtain ⟨eligible, due⟩ := Share.eligible_of_pick picked
  obtain ⟨q, op, fresh, first, alone⟩ := Share.eligible_iff.mp eligible
  rw [Share.dueAt, op] at due
  refine ⟨q, op, fresh, due, fun k q' before there => first q' ?_, alone⟩
  exact List.mem_of_getElem? ((List.getElem?_take_of_lt before).trans there)

end

/-! ## The row that is written next (R332, R333) -/

section
variable (ready : ZOp → Bool)

/-- Of two operations that write rows, the one whose clk is earlier, the older of two alike. -/
def earlierRow (b : Option (ZOp × Nat)) (e : ZOp × Nat) : Option (ZOp × Nat) :=
  if !ready e.1 then b else match b with
    | none => some e
    | some y => if e.1.due < y.1.due then some e else some y

variable {ready}

theorem earlierRow_unready {b : Option (ZOp × Nat)} {e : ZOp × Nat} (unready : ready e.1 = false) : earlierRow ready b e = b :=
  if_pos (by rw [unready]; rfl)

theorem earlierRow_ready {b : Option (ZOp × Nat)} {e : ZOp × Nat} (isReady : ready e.1 = true) : ∃ r, earlierRow ready b e = some r ∧
    (r = e ∨ b = some r) ∧ r.1.due ≤ e.1.due ∧ ∀ y ∈ b, r.1.due ≤ y.1.due := by
  rw [earlierRow.eq_def, isReady]
  cases b with
  | none => exact ⟨e, rfl, .inl rfl, le_rfl, nofun⟩
  | some y =>
    by_cases earlier : e.1.due < y.1.due
    · exact ⟨e, if_pos earlier, .inl rfl, le_rfl, fun z hz => by cases hz; exact earlier.le⟩
    · exact ⟨y, if_neg earlier, .inr rfl, not_lt.mp earlier, fun z hz => by cases hz; exact le_rfl⟩

/-- The first of several is none only where none is ready. -/
theorem foldl_earlierRow_none {xs : List (ZOp × Nat)} {b : Option (ZOp × Nat)} (none' : xs.foldl (earlierRow ready) b = none) :
    b = none ∧ ∀ e ∈ xs, ready e.1 = false := by
  induction xs generalizing b with
  | nil => exact ⟨none', fun _ he => absurd he List.not_mem_nil⟩
  | cons e xs ih =>
    obtain ⟨first, rest⟩ := ih none'
    cases isReady : ready e.1 with
    | true =>
      obtain ⟨r, some', -⟩ := earlierRow_ready (b := b) isReady
      exact absurd (first.symm.trans some') nofun
    | false =>
      rw [earlierRow_unready isReady] at first
      exact ⟨first, List.forall_mem_cons.mpr ⟨isReady, rest⟩⟩

/-- Otherwise it is one of them, and none that is ready is earlier. -/
theorem foldl_earlierRow_some {xs : List (ZOp × Nat)} {b : Option (ZOp × Nat)} {r : ZOp × Nat}
    (first : xs.foldl (earlierRow ready) b = some r) :
    (b = some r ∨ (r ∈ xs ∧ ready r.1 = true)) ∧ (∀ e ∈ xs, ready e.1 = true → r.1.due ≤ e.1.due) ∧
      ∀ y ∈ b, r.1.due ≤ y.1.due := by
  induction xs generalizing b with
  | nil => exact ⟨.inl first, fun _ he => absurd he List.not_mem_nil, fun y hy => by
      rw [show b = some r from first] at hy
      cases hy
      exact le_rfl⟩
  | cons e xs ih =>
    obtain ⟨origin, rest, before⟩ := ih first
    cases isReady : ready e.1 with
    | false =>
      rw [earlierRow_unready isReady] at origin before
      refine ⟨origin.imp_right fun ⟨there, ok⟩ => ⟨List.mem_cons_of_mem _ there, ok⟩, List.forall_mem_cons.mpr ⟨fun h => ?_, rest⟩, before⟩
      exact absurd (isReady.symm.trans h) nofun
    | true =>
      obtain ⟨q, step, from_, leE, leB⟩ := earlierRow_ready (b := b) isReady
      have le : r.1.due ≤ q.1.due := before q step
      refine ⟨?_, List.forall_mem_cons.mpr ⟨fun _ => le.trans leE, rest⟩, fun y hy => le.trans (leB y hy)⟩
      rcases origin with same | ⟨there, ok⟩
      · obtain rfl : q = r := Option.some.inj (step.symm.trans same)
        rcases from_ with rfl | old
        · exact .inr ⟨List.mem_cons_self, isReady⟩
        · exact .inl old
      · exact .inr ⟨List.mem_cons_of_mem _ there, ok⟩

end

/-- An operation writes rows, and has streamed if it streams. -/
def ZOp.writesRows (m : Nat) (o : ZOp) : Bool := o.started && !o.done && !o.streaming && decide (o.next < m)

theorem Share.nextRow_eq (y : Share) (m : Nat) : y.nextRow m = (y.queue.zipIdx.foldl (earlierRow (ZOp.writesRows m)) none).map (·.2) := rfl

theorem Share.nextRow_some {y : Share} {m j : Nat} (next : y.nextRow m = some j) : ∃ q : ZOp, y.queue[j]? = some q ∧
    q.writesRows m = true ∧ ∀ q' ∈ y.queue, q'.writesRows m = true → q.due ≤ q'.due := by
  rw [Share.nextRow_eq, Option.map_eq_some_iff] at next
  obtain ⟨⟨q, i⟩, first, rfl⟩ := next
  obtain ⟨origin, least, -⟩ := foldl_earlierRow_some first
  obtain ⟨there, ready⟩ := origin.resolve_left nofun
  refine ⟨q, List.mem_zipIdx_iff_getElem?.mp there, ready, fun q' hq' ready' => ?_⟩
  obtain ⟨k, hk⟩ := List.mem_iff_getElem?.mp hq'
  exact least (q', k) (List.mem_zipIdx_iff_getElem?.mpr hk) ready'

theorem Share.nextRow_none {y : Share} {m : Nat} (none' : y.nextRow m = none) : ∀ q ∈ y.queue, q.writesRows m = false := by
  rw [Share.nextRow_eq, Option.map_eq_none_iff] at none'
  intro q hq
  obtain ⟨k, hk⟩ := List.mem_iff_getElem?.mp hq
  exact (foldl_earlierRow_none none').2 (q, k) (List.mem_zipIdx_iff_getElem?.mpr hk)

/-! ## Shares after an update -/

section
variable (s : State) (cl : Nat) (sh : Fin 2)

@[simp] theorem State.share_onShare (f : Share → Share) : ((s.onShare cl sh f).cluster cl).share sh = f ((s.cluster cl).share sh) := by
  rw [State.onShare, State.cluster_setCluster]
  exact Vector.getElem_set_self _

/-- An operation put back in its place of the queue stands there. -/
theorem Share.queue_setOp {x : Share} {i : Nat} {p : ZOp} (o : ZOp) (there : x.queue[i]? = some p) : (x.setOp i o).queue[i]? = some o :=
  List.getElem?_set_self (List.getElem?_eq_some_iff.mp there).1

theorem Share.queue_putOff (y : Share) (clk : Nat) (those : ZOp → Bool) {j : Nat} {q : ZOp} (there : y.queue[j]? = some q) :
    (y.putOff clk those).queue[j]? = some (if q.started = false ∧ those q = true then { q with due := max q.due clk } else q) := by
  rw [Share.putOff, List.getElem?_map, there]
  simp

end

/-- From `s` to `t` the clusters stay, and the clk. -/
structure KeepsArrays (s t : State) : Prop where
  clusters : t.clusters = s.clusters
  clk : t.clk = s.clk

theorem KeepsArrays.refl (s : State) : KeepsArrays s s := ⟨rfl, rfl⟩
theorem KeepsArrays.trans {s t u : State} (a : KeepsArrays s t) (b : KeepsArrays t u) : KeepsArrays s u :=
  ⟨b.clusters.trans a.clusters, b.clk.trans a.clk⟩

theorem State.suspect_keepsArrays (s : State) (u : SuspUnit) (k : Nat) : KeepsArrays s (s.suspect u k) := by
  unfold State.suspect
  dsimp only
  split <;> exact ⟨rfl, rfl⟩

theorem State.scan_keepsArrays (s : State) (p : Place) (len : Nat) : KeepsArrays s (s.scan p len).1 := by
  cases p with
  | spad own c off =>
    have suspected (u : Nat → SuspUnit) (ws : List Nat) (t : State) : KeepsArrays t (ws.foldl (fun t w => t.suspect (u w) 1) t) :=
      List.foldlRecOn ws _ (KeepsArrays.refl t) fun r ok w _ => ok.trans (r.suspect_keepsArrays _ _)
    have read : KeepsArrays s (s.setCore c ((s.core c).readWords (wordsOf off len))) := ⟨rfl, rfl⟩
    simp only [State.scan]
    split
    · exact (read.trans (suspected ..)).trans ⟨rfl, rfl⟩
    · exact read.trans (suspected ..)
  | chip d off => exact .refl s
  | evu o => exact .refl s

theorem State.streamRead_keepsArrays (s : State) (m : Nat) (x : MmaOp) (k : Nat) : KeepsArrays s (s.streamRead m x k) := by
  have data (rows : Nat) := (s.scan_keepsArrays (.spad false x.aCore (x.aOff + 16)) (aBytes m (tagWidth x.fmt) (k + 1))).trans
    (State.scan_keepsArrays _ (.spad false x.bCore (x.bOff + 16)) (rows * 32 * tagWidth x.fmt))
  unfold State.streamRead
  dsimp only
  split
  · exact data _
  · exact (data _).trans (State.scan_keepsArrays ..)

/-! ## Owed events alone -/

/-- From `s` to `t` nothing is changed but that more events are owed. -/
structure OwesMore (s t : State) : Prop where
  cores : t.cores = s.cores
  clusters : t.clusters = s.clusters
  pending : ∀ e ∈ s.pending, e ∈ t.pending

theorem OwesMore.refl (s : State) : OwesMore s s := ⟨rfl, rfl, fun _ he => he⟩
theorem OwesMore.trans {s t u : State} (a : OwesMore s t) (b : OwesMore t u) : OwesMore s u :=
  ⟨b.cores.trans a.cores, b.clusters.trans a.clusters, fun e he => b.pending e (a.pending e he)⟩
theorem OwesMore.foldl {α : Type} {f : State → α → State} (step : ∀ s a, OwesMore s (f s a)) (xs : List α) (s : State) :
    OwesMore s (xs.foldl f s) :=
  List.foldlRecOn xs _ (OwesMore.refl s) fun t ok a _ => ok.trans (step t a)
theorem State.owe_owesMore (s : State) (i : Instr) : OwesMore s (s.owe i) := ⟨rfl, rfl, fun _ he => List.mem_append_left _ he⟩

/-- The copies of a cluster's cores that wait for a scale slot go on: they are owed, and nothing else changes. -/
theorem execScaleWriteRelease_owes (cl : Nat) (sh : Fin 2) (s : State) :
    ∃ t, execScaleWriteRelease cl sh s = .next t ∧ OwesMore (s.endStream cl sh) t := by
  refine ⟨_, rfl, .foldl (fun t i => .foldl (fun u c => ?_) _ t) _ _⟩
  split
  · split
    · exact u.owe_owesMore _
    · exact .refl u
  · exact .refl u

end Sys2Proof.Machine
end

section
/-! The events of the cluster array, each by the operation that it finds (R327, R332 to R336, R344). -/
namespace Sys2Proof.Machine
open Sys2Proof

section
variable {s : State} {cl : Nat} {sh : Fin 2} {i : Nat} {o : ZOp}

/-- The share has turned to the core of an operation (R332). -/
def State.serving (s : State) (cl : Nat) (sh : Fin 2) (o : ZOp) : State := s.onShare cl sh fun y => { y with served := indexOf o.core }
/-- The operation as it starts (R245). -/
def State.begun (s : State) (o : ZOp) : ZOp := { o with started := true, time := s.agentStart o.core 2 }
/-- An operation is performed, and is to leave the queue. -/
def State.performed (cl : Nat) (sh : Fin 2) (i : Nat) (o : ZOp) (s : State) : State :=
  (s.onShare cl sh fun y => y.setOp i { o with done := true }).owe (.arrayOpFinish cl sh)

/-- The scratchpads as a product reads them (R206, R249). -/
def State.operandView (s : State) (cl : Nat) (sh : Fin 2) (o : ZOp) (m : MmaOp) : State :=
  (s.serving cl sh o).arrayView [m.aCore, m.bCore] ((s.begun o).time + 1)
/-- What the reads of a product's operands leave, and the time of the last (R245). -/
def State.operandsRead (s : State) (cl : Nat) (sh : Fin 2) (o : ZOp) (m : MmaOp) (steps : Nat) : State × Nat :=
  let s1 : State := { s.serving cl sh o with draws := (s.operandView cl sh o m).draws }
  let ra := s1.readTime ((s.begun o).time + 1) (.spad m.aCore)
  let rb := ra.1.readTime (ra.2 + 1) (.spad m.bCore)
  let r := rb.1.streamRead ((s.cluster cl).shareRows sh) m (steps - 1)
  (r.onCore o.core fun k => { k with eng := { k.eng with zsteps := k.eng.zsteps + steps } }, rb.2)

/-! ## The start of an operation -/

section
variable (picked : ((s.cluster cl).share sh).pick ((s.cluster cl).shareRows sh) s.clk = some i)
  (op : ((s.cluster cl).share sh).queue[i]? = some o)
include picked op

theorem opStart_skips (poison : isPoison (((s.cluster cl).share sh).tiles[o.tile]).tag = true) (adds : o.kind.rewrites = false) :
    s.opStart cl sh = (State.performed cl sh i (s.begun o) ((s.serving cl sh o).setWm cl sh i o.tile ((s.cluster cl).shareRows sh))).owe
      (.scaleWriteRelease cl sh) := by
  rw [State.opStart]
  simp only [picked, op, poison, adds]
  rfl

theorem opStart_zeroes {t : Tag} (kind : o.kind = .zero t) : s.opStart cl sh = State.performed cl sh i (s.begun o)
    (((s.serving cl sh o).onTile cl sh o.tile fun z => { z with rows := [], tag := t }).setWm cl sh i o.tile
      ((s.cluster cl).shareRows sh)) := by
  cases o
  cases kind
  rw [State.opStart]
  simp only [picked, op, ZKind.rewrites, Bool.not_true, Bool.and_false, Bool.false_eq_true, if_false]
  rfl

theorem opStart_frees (kind : o.kind = .free) : s.opStart cl sh = State.performed cl sh i (s.begun o)
    (((s.serving cl sh o).onTile cl sh o.tile fun z => { z with rows := [], tag := 0, flags := 0 }).setWm cl sh i o.tile
      ((s.cluster cl).shareRows sh)) := by
  cases o
  cases kind
  rw [State.opStart]
  simp only [picked, op, ZKind.rewrites, Bool.not_true, Bool.and_false, Bool.false_eq_true, if_false]
  rfl

theorem opStart_stores {dt : Tag} {p : RowPlace} {mode : BitVec 3} {ovt : BitVec 128} (kind : o.kind = .store dt p mode ovt)
    (sound : isPoison (((s.cluster cl).share sh).tiles[o.tile]).tag = false) :
    s.opStart cl sh = { (s.serving cl sh o).onShare cl sh fun y => y.setOp i { s.begun o with due := s.clk + Config.zArrive s.draws } with
      draws := s.draws + 1 } := by
  cases o
  cases kind
  rw [State.opStart]
  simp only [picked, op, sound, Bool.false_and, Bool.false_eq_true, if_false]
  rfl

/-- A product as it starts: its rows are formed from what it reads, and the end of its streaming is due. -/
theorem opStart_streams {m : MmaOp} (kind : o.kind = .mma m)
    (sound : isPoison (((s.cluster cl).share sh).tiles[o.tile]).tag = false) :
    let rows := (s.cluster cl).shareRows sh
    let v := s.operandView cl sh o m
    let stop := v.mmaStop rows m
    let steps := (stop.map (·.1 + 1)).getD m.steps
    let r := s.operandsRead cl sh o m steps
    s.opStart cl sh = r.1.onShare cl sh fun y => y.setOp i { s.begun o with
      rows := if stop.isSome then [] else
        (List.range rows).map fun r => v.mmaRow rows m r ((((s.cluster cl).share sh).tiles[o.tile]).row r),
      time := r.2, due := r.1.clk + steps * stepCost m.fmt - 1, stop := stop.map (·.2) } := by
  cases o
  cases kind
  rw [State.opStart]
  simp only [picked, op, sound, Bool.false_and, Bool.false_eq_true, if_false]
  rfl

end

theorem State.operandsRead_keepsArrays (m : MmaOp) (steps : Nat) :
    KeepsArrays (s.serving cl sh o) (s.operandsRead cl sh o m steps).1 := by
  unfold State.operandsRead
  dsimp only
  generalize (s.operandView cl sh o m).draws = draws
  let s1 : State := { s.serving cl sh o with draws := draws }
  have times (t : State) (lt : Nat) (h : HomeId) : KeepsArrays t (t.readTime lt h).1 := ⟨rfl, rfl⟩
  have counted (t : State) (f : Core → Core) : KeepsArrays t (t.onCore o.core f) := ⟨rfl, rfl⟩
  have drawn : KeepsArrays (s.serving cl sh o) s1 := ⟨rfl, rfl⟩
  exact (((drawn.trans (times ..)).trans (times ..)).trans (State.streamRead_keepsArrays ..)).trans (counted ..)

end

end Sys2Proof.Machine
end

section
/-! The rows of an operation, the end of its streaming, and its end (R327, R333 to R336, R344). -/
namespace Sys2Proof.Machine
open Sys2Proof

section
variable {s : State} {cl : Nat} {sh : Fin 2} {i : Nat} {o : ZOp}

/-! ## Rows -/

section
variable (next : ((s.cluster cl).share sh).nextRow ((s.cluster cl).shareRows sh) = some i)
  (op : ((s.cluster cl).share sh).queue[i]? = some o)
include next op

theorem rowWrite_drains {m : MmaOp} (kind : o.kind = .mma m) :
    let written := (s.onTile cl sh o.tile fun z =>
      { z.setRow o.next (o.rows.getD o.next (0, 0)).1 with flags := z.flags ||| (o.rows.getD o.next (0, 0)).2 }).setWm cl sh i
        o.tile (o.next + 1)
    s.rowWrite cl sh false = if o.next + 1 < (s.cluster cl).shareRows sh then
        written.onShare cl sh fun y => y.setOp i { o with next := o.next + 1, due := o.due + 1 }
      else State.performed cl sh i { o with next := o.next + 1 } written := by
  cases o
  cases kind
  rw [State.rowWrite]
  simp only [next, op, Bool.false_eq_true, if_false]
  rfl

theorem rowWrite_parity {m : MmaOp} (kind : o.kind = .mma m) :
    let owner := (((s.cluster cl).share sh).tiles[o.tile]).owner.getD o.core
    s.rowWrite cl sh true = ((s.opFault cl sh i o 2 o.next 0).postError 2 (s.core owner).ptag owner).suspect (.array cl) 16 := by
  cases o
  cases kind
  rw [State.rowWrite]
  simp only [next, op, if_true]

theorem rowWrite_stores {dt : Tag} {p : RowPlace} {mode : BitVec 3} {ovt : BitVec 128} (kind : o.kind = .store dt p mode ovt)
    (more : o.next + 1 < (s.cluster cl).shareRows sh) :
    let tile := ((s.cluster cl).share sh).tiles[o.tile]
    let b := storeRow tile.tag dt mode ovt (tile.row o.next)
    let w := s.writeTime (o.time + 1) ((p.place o.next).home cl)
    s.rowWrite cl sh false =
      { (w.1.writePlace (p.place o.next) b.1).onTile cl sh o.tile fun z => { z with flags := z.flags ||| b.2 } with
          draws := s.draws + 1 }.onShare cl sh fun y =>
        y.setOp i { o with time := w.2, due := o.due + Config.zArrive s.draws + 1, next := o.next + 1 } := by
  cases o
  cases kind
  rw [State.rowWrite]
  simp only [next, op, show _ < (s.cluster cl).shareRows sh from more, if_true]

end

/-! ## The end of an operation -/

theorem opFinish_leaves (found : ((s.cluster cl).share sh).queue.findIdx? (·.done) = some i)
    (op : ((s.cluster cl).share sh).queue[i]? = some o) :
    let rows := (s.cluster cl).shareRows sh
    let waits (y : ZOp) : Bool := y.tile == o.tile || ({ o with done := false } : ZOp).storesOver rows (y.ranges rows)
    let s1 := s.onShare cl sh fun y => { y with queue := y.queue.eraseIdx i }.putOff (s.clk + 1) waits
    let s2 := s1.onCore o.core fun c => { c with eng := { c.eng with zdone := max c.eng.zdone o.time } }
    s.opFinish cl sh = if o.kind.pulses then s2.matrixPulse cl sh else s2 := by
  rw [State.opFinish]
  simp only [found, op]
  rfl

/-! ## The end of a streaming -/

section
variable (found : ((s.cluster cl).share sh).queue.findIdx? (fun q => q.streaming && decide (q.due ≤ s.clk)) = some i)
  (op : ((s.cluster cl).share sh).queue[i]? = some o)
include found op

/-- What streams next starts a clk later at the earliest (R333). -/
def State.streamsLater (s : State) (cl : Nat) (sh : Fin 2) : State := s.onShare cl sh fun y => y.putOff (s.clk + 1) (·.kind.streams)

theorem endStream_drains (stop : o.stop = none) : s.endStream cl sh =
    (s.streamsLater cl sh).onShare cl sh fun y => y.setOp i { o with streamed := true, due := o.due + 7 } := by
  rw [State.endStream]
  simp only [found, op]
  rw [stop]
  rfl

theorem endStream_stops {row cause group : Nat} (stop : o.stop = some (row, cause, group)) : s.endStream cl sh =
    let f := (s.streamsLater cl sh).opFault cl sh i o (BitVec.ofNat 2 cause) row group
    if cause = 3 then f.postError 1 (f.core o.core).ptag o.core else f := by
  rw [State.endStream]
  simp only [found, op]
  rw [stop]
  rfl

end

end

end Sys2Proof.Machine

namespace Sys2Proof
open Machine

/-- Settles O26: the choices by the lists that they are made from, the steps by the operation that is found. -/
theorem arrayEvents : Obligations.ArrayEvents := by
  intro s cl sh i o t dt m row cause group p mode ovt x rows begun served done picks tile runs slow ready writes ends
  refine ⟨fun none' => ?idle, fun ⟨picked, op⟩ poison adds => ?skips, fun ⟨picked, op⟩ kind => ?zeroes, fun ⟨picked, op⟩ kind => ?frees,
    fun ⟨picked, op⟩ may kind => ?slow, fun ⟨picked, op⟩ kind sound => ?streams, fun y j now => Share.pick_spec,
    fun y j => Share.nextRow_some,
    fun y => Share.nextRow_none, fun none' bad => ?noRow, fun ⟨next, op⟩ kind => ⟨?drains, ?parity⟩, fun ⟨next, op⟩ kind more => ?stores,
    fun none' => ?noneDone, fun found op => ?finishes, fun y clk those j q => y.queue_putOff clk those, ⟨fun ⟨found, op⟩ stop => ?drain,
      fun ⟨found, op⟩ stop other => ?fault, fun ⟨found, op⟩ stop word => ?lost⟩, ?release⟩
  case idle => rw [exec_arrayOpStart, execArrayOpStart, State.opStart, none']
  case skips => exact congrArg Host.Outcome.next (opStart_skips picked op poison adds)
  case zeroes => exact congrArg Host.Outcome.next (opStart_zeroes picked op kind)
  case frees => exact congrArg Host.Outcome.next (opStart_frees picked op kind)
  case slow =>
    have sound : isPoison tile.tag = false := may.resolve_right (by rw [kind]; exact nofun)
    exact congrArg Host.Outcome.next (opStart_stores picked op kind sound)
  case streams =>
    refine ⟨_, rfl, ?_⟩
    intro v stop steps
    have kept := State.operandsRead_keepsArrays (s := s) (cl := cl) (sh := sh) (o := o) m steps
    have queue : (((s.operandsRead cl sh o m steps).1.cluster cl).share sh).queue = x.queue := by
      rw [State.cluster, kept.clusters, ← State.cluster, State.serving, State.share_onShare]
    rw [opStart_streams picked op kind sound, State.share_onShare]
    refine ⟨_, Share.queue_setOp _ ((congrArg (·[i]?) queue).trans op), rfl, rfl, rfl, rfl, rfl, ?_, rfl⟩
    exact congrArg (· + steps * stepCost m.fmt - 1) kept.clk
  case noRow => rw [exec_arrayRowWrite, execArrayRowWrite, State.rowWrite, none']
  case drains => exact congrArg Host.Outcome.next (rowWrite_drains next op kind)
  case parity => exact congrArg Host.Outcome.next (rowWrite_parity next op kind)
  case stores => exact congrArg Host.Outcome.next (rowWrite_stores next op kind more)
  case noneDone => rw [exec_arrayOpFinish, execArrayOpFinish, State.opFinish, none']
  case finishes => exact congrArg Host.Outcome.next (opFinish_leaves found op)
  case drain => exact endStream_drains found op stop
  case fault => exact (endStream_stops found op stop).trans (if_neg other)
  case lost =>
    subst word
    exact (endStream_stops found op stop).trans (if_pos rfl)
  case release =>
    obtain ⟨r, done', owes⟩ := execScaleWriteRelease_owes cl sh s
    exact ⟨r, done', owes.cores, owes.clusters, owes.pending⟩

end Sys2Proof
end

section
/-! Commands in flight: how one runs on, completes and fails (R356, R360, R367, R368). -/
namespace Sys2Proof.Machine
open Sys2Proof

section
variable {s s' : State} {n core seq fuel : Nat} {cls : Fin 4} {c c' : Cmd} {g : Agent}

/-! ## Running on -/

theorem execCommandComplete_absent (absent : s.cmd core cls seq = none) : execCommandComplete core cls seq s = .next s := by
  rw [execCommandComplete, absent]

theorem execCommandComplete_idle (here : s.cmd core cls seq = some c) (idle : c.st ≠ .started ∨ s.hasEngine core c = false) :
    execCommandComplete core cls seq s = .next s := by
  have stays : ¬(c.st = .started ∧ s.hasEngine core c = true) := fun ⟨started, engine⟩ =>
    idle.elim (· started) fun none => by simp [none] at engine
  rw [execCommandComplete, here]
  exact if_neg stays

theorem execCommandComplete_runs (here : s.cmd core cls seq = some c) (started : c.st = .started)
    (engine : s.hasEngine core c = true) :
    execCommandComplete core cls seq s = State.runCmd core (c.work + 2 - c.prog) c s := by
  rw [execCommandComplete, here]
  exact if_pos ⟨started, engine⟩

theorem enginesHeld_of_not_hasEngine (none : s.hasEngine core c = false) :
    c.cls = 0 ∧ c.engine = false ∧ 2 ≤ s.enginesHeld (clusterOf core) := by
  simpa [State.hasEngine, and_assoc, Nat.succ_le_iff] using none

theorem runCmd_done (done : s.dataDone n c = true) : State.runCmd n (fuel + 1) c s = s.completeCmd n c := by
  rw [State.runCmd, if_pos done]

theorem runCmd_goes (more : s.dataDone n c = false) (goes : s.advance n c = .go s' c') :
    State.runCmd n (fuel + 1) c s = State.runCmd n fuel c' (s'.countLine n c c') := by
  rw [State.runCmd, if_neg (ne_true_of_eq_false more), goes]

theorem runCmd_waits (more : s.dataDone n c = false) (waits : s.advance n c = .wait s' c') :
    State.runCmd n (fuel + 1) c s = .next (s'.putCmd n { c' with engine := c'.cls == 0 }) := by
  rw [State.runCmd, if_neg (ne_true_of_eq_false more), waits]

/-! ## Completing -/

theorem ephDenied_of_not_send (other : ∀ q l h w, c.body ≠ .send q l h w) : s.ephDenied c = false := by
  unfold State.ephDenied
  split
  · next h => exact (other _ _ _ _ h).elim
  · rfl

theorem handOver_of_not_send (other : ∀ q l h w, c.body ≠ .send q l h w) : s.handOver c = (s, c) := by
  unfold State.handOver
  split
  · next h => exact (other _ _ _ _ h).elim
  · rfl

theorem handOver_sends {q l e w} (send : c.body = .send q l e w) (unformed : c.formed = false) :
    s.handOver c = (s.report (.netSend (s.cmdVd c) e.toNat w c.out), { c with formed := true }) := by
  rw [State.handOver, send]
  exact if_neg (ne_true_of_eq_false unformed)

theorem handOver_hdr : (s.handOver c).2.hdr = c.hdr := by
  unfold State.handOver
  split
  · split <;> rfl
  · rfl

theorem completeCmd_writes (whole : c.dropped = none) (allowed : s.ephDenied c = false) :
    s.completeCmd n c = (s.handOver c).1.writeDone n (s.handOver c).2 := by
  rw [State.completeCmd, whole]
  split
  · next h => cases h
  · exact if_neg (ne_true_of_eq_false allowed)
  · next h => rw [handOver_of_not_send fun _ _ _ _ send => h _ _ _ _ send]

theorem writeDone_silent (silent : c.hdr.cw = false) : s.writeDone n c = .next (s.signalCmd n c) := by
  rw [State.writeDone, silent]
  rfl

theorem writeDone_written (writes : c.hdr.cw = true)
    (written : s.agentStore (c.agent n) c.hdr.cwa (toBytes 8 c.hdr.cwv) = .ok (s', g)) :
    s.writeDone n c = .next (s'.signalCmd n { c with time := g.time }) := by
  rw [State.writeDone, if_pos writes, written]

theorem signalCmd_silent (noEvent : c.hdr.evl = false) (noPulse : c.hdr.pul = false) :
    s.signalCmd n c = (s.finishCmd n c).leftEngine n c := by
  simp [State.signalCmd, noEvent, noPulse]

theorem signalCmd_pulses (noEvent : c.hdr.evl = false) (pulse : c.hdr.pul = true) :
    s.signalCmd n c =
      ((s.pulse (clusterOf n) (s.clk + 2) (.command c.hdr.ctr c.ptag c.sup)).finishCmd n c).leftEngine n c := by
  simp [State.signalCmd, noEvent, pulse]

/-! ## Leaving the entry -/

/-- A command is in no entry of its core. -/
def State.hasLeft (s : State) (n : Nat) (c : Cmd) : Prop :=
  (s.core n).eng.cmds.all (fun d => !(d.cls == c.cls && d.seq == c.seq)) = true

theorem finishCmd_eng :
    ((s.finishCmd n c).core n).eng =
      { (s.core n).eng with
        cmds := (s.core n).eng.cmds.filter fun d => !(d.cls == c.cls && d.seq == c.seq)
        done := (s.core n).eng.done ++ [(c.cls, c.seq, c.time)]
        heldBy := (s.core n).eng.heldBy.filter (· != (c.cls, c.seq)) } :=
  congrArg Core.eng (State.core_setCore ..)

theorem finishCmd_hasLeft : (s.finishCmd n c).hasLeft n c := by
  rw [State.hasLeft, finishCmd_eng]
  exact List.all_eq_true.mpr fun d found => (List.mem_filter.mp found).2

theorem core_engineFree (cl m : Nat) : (s.engineFree cl).core m = s.core m :=
  List.foldlRecOn (motive := fun t : State => t.core m = s.core m) _ _ rfl fun _ kept _ _ =>
    List.foldlRecOn (motive := fun u : State => u.core m = s.core m) _ _ kept fun _ kept _ _ => kept

theorem core_leftEngine (m : Nat) : (s.leftEngine n c).core m = s.core m := by
  unfold State.leftEngine
  split
  · exact core_engineFree ..
  · rfl

theorem leftEngine_hasLeft : ((s.finishCmd n c).leftEngine n c).hasLeft n c := by
  rw [State.hasLeft, core_leftEngine]
  exact finishCmd_hasLeft

/-! ## Failing -/

/-- The record of a class once a command of it fails (R368). -/
def failedRecord (f : EFault) (k : Cause) (x : Word) (seq : Nat) (clk : Nat) (wid : Word) : EFault :=
  if f.v then { f with more := true }
  else { v := true, more := false, cause := k.code.setWidth 6, seq := BitVec.ofNat 48 seq, val := x, clk := clk, wid := wid }

theorem eng_postError_ite (p : Prop) [Decidable p] (kind : BitVec 6) (tag : PTag) (m : Nat) :
    ((if p then s.postError kind tag n else s).core m).eng = (s.core m).eng := by
  split
  · rw [(State.postError_upkeep ..).core]
  · rfl

theorem execCommandFail_absent (absent : s.cmd core cls seq = none) : execCommandFail core cls seq s = .next s := by
  rw [execCommandFail, absent]

theorem execCommandFail_records {k : Cause} {x : Word} (here : s.cmd core cls seq = some c) (fails : c.st = .failing k x) :
    ∃ t, execCommandFail core cls seq s = .next t ∧ t.hasLeft core c ∧
      (t.core core).eng.efault[cls] =
        failedRecord (s.core core).eng.efault[cls] k x seq s.clk (((s.core core).task.map (·.wid)).getD 0) := by
  rw [execCommandFail, here]
  simp only [fails]
  refine ⟨_, rfl, finishCmd_hasLeft, ?_⟩
  refine (congrArg (·.efault[cls]) finishCmd_eng).trans ((congrArg (·.efault[cls]) (eng_postError_ite _ _ _ core)).trans ?_)
  simp [State.onCore, failedRecord]

end

end Sys2Proof.Machine
end

section
/-! What the engines do for groups and rings: collectives, sparse sums, storage requests and received messages (R369 to R374, R522). -/
namespace Sys2Proof.Machine
open Sys2Proof

section
variable {s s1 s2 s3 : State} {core seq lid vdev : Nat} {gid : BitVec 32} {first : Member} {rest : List Member} {a b : CollArgs}
  {c : Cmd} {g g1 g2 : Agent}

/-! ## Generations -/

theorem withAway_in {p : PTag} (f : State → Host.Outcome State Fault Refusal) (within : s.awayCores p = []) :
    s.withAway p f = f s := by
  simp [State.withAway, within]

theorem execCollectiveGeneration_launch {x : Launch} (found : s.launches.find? (fun x => x.vdev == vdev && x.lid == lid) = some x) :
    execCollectiveGeneration lid vdev gid s = s.withAway (x.hdr.extractLsb' 48 6) fun s => s.tryGeneration (vdev, lid) gid := by
  rw [execCollectiveGeneration, found]

theorem execCollectiveGeneration_live
    (live : ∀ x ∈ s.launches.find? fun x => x.vdev == vdev && x.lid == lid, s.awayCores (x.hdr.extractLsb' 48 6) = []) :
    execCollectiveGeneration lid vdev gid s = s.tryGeneration (vdev, lid) gid := by
  unfold execCollectiveGeneration
  split
  · next x found => exact withAway_in _ (live x found)
  · rfl

theorem tryGeneration_none {l : Nat × Nat} (empty : s.collPending l gid = []) : s.tryGeneration l gid = .next s := by
  rw [State.tryGeneration, empty]

/-- The first P commands are too few, or one of them is parked: nothing forms. -/
theorem tryGeneration_waits {l : Nat × Nat} {h : BitVec 32} (group : s.collPending l gid = first :: rest)
    (args : first.2.coll = some (h, a))
    (waits : (first :: rest).length < a.p ∨ ∃ m ∈ (first :: rest).take a.p, m.2.parked = true) :
    s.tryGeneration l gid = .next s := by
  simp only [State.tryGeneration, group, args]
  refine if_pos ?_
  rw [Bool.or_eq_true, decide_eq_true_iff, List.length_take, List.any_eq_true]
  exact waits.imp (fun few => (min_le_right ..).trans_lt few) id

theorem tryGeneration_forms {l : Nat × Nat} {h : BitVec 32} {xs : List (Member × List Byte)}
    (group : s.collPending l gid = first :: rest) (args : first.2.coll = some (h, a)) (enough : a.p ≤ (first :: rest).length)
    (agree : ∀ m ∈ (first :: rest).take a.p, m.2.parked = false ∧ ∃ b, m.2.coll = some (h, b) ∧ b.op = a.op ∧ b.red = a.red ∧
      b.dfmt = a.dfmt ∧ b.len = a.len ∧ b.p = a.p)
    (read : readMembers (((first :: rest).take a.p).mergeSort fun x y => decide (s.lcn x.1 ≤ s.lcn y.1)) s = .ok (s1, xs)) :
    s.tryGeneration l gid = .next (s1.formGeneration a xs) := by
  have whole : ¬((first :: rest).take a.p).length < a.p := by
    rw [List.length_take, min_eq_left enough]
    exact lt_irrefl _
  simp only [State.tryGeneration, group, args]
  rw [if_neg, if_neg, read]
  · rw [Bool.not_eq_true, List.any_eq_false]
    intro m hm
    obtain ⟨-, b, coll, op, red, fmt, len, p⟩ := agree m hm
    simp [coll, op, red, fmt, len, p]
  · rw [Bool.or_eq_true, decide_eq_true_iff, List.any_eq_true]
    rintro (few | ⟨m, hm, parked⟩)
    · exact whole few
    · exact absurd parked (ne_true_of_eq_false (agree m hm).1)

/-! ## Sparse sums -/

theorem addPair_none (none : s.sumPairs = []) (i : Nat) : s.addPair i = .next s := by
  simp [State.addPair, none]

theorem pairCmd_takes {p : SumPair} (here : s.cmd p.core p.cls p.seq = some c) (tag : c.ptag = p.ptag) (started : c.st = .started) :
    s.pairCmd p = some c := by
  simp [State.pairCmd, here, tag, started]

theorem SumPair.twin_nil (p : SumPair) : p.twin [] = none := rfl

/-- The only pair on its way is added to its entry. -/
theorem addPair_adds {p : SumPair} {bs : List Byte} (only : s.sumPairs = [p]) (takes : s.pairCmd p = some c)
    (args : c.coll = some (gid, a)) :
    let w := (fmtOf a.dfmt).width / 8
    let at_ := a.dsta + BitVec.ofNat 64 (p.idx * w)
    leaves a.dsta at_ = false →
    { s with draws := s.draws + 2 }.agentBytes (c.agent p.core) at_ w = .ok (s1, g, bs) →
    s1.agentStore g at_ (toBytes w (sumVal (fmtOf a.dfmt) (ofBytes 64 bs) p.val)) = .ok (s2, g1) →
    ∀ i, s.addPair i = .next (({ s2 with sumPairs := [] }.putCmd p.core { c with time := g1.time }).owe
      (.commandComplete p.core p.cls p.seq)) := by
  intro w at_ inside read written i
  have ready : ((List.range s.sumPairs.length).filter fun j => (s.sumPairs[j]?.bind s.pairCmd).isSome) = [0] := by
    simp [only, takes, List.range_succ]
  have entry : s.sumPairs[0]? = some p := by rw [only]; rfl
  have behind : s.sumPairs.eraseIdx 0 = [] := by rw [only]; rfl
  have alone : (if decide (Config.mergePick (s.draws + 1) 2 = 1) = true then p.twin [] else none) = none := ite_self _
  rw [State.addPair]
  simp only [ready]
  simp only [List.length_singleton, Nat.mod_one, List.getElem?_cons_zero, entry, behind, Option.bind_some, takes, args, alone]
  rw [if_neg (ne_true_of_eq_false inside), read]
  dsimp only
  rw [written]

/-! ## Rings and storage requests -/

theorem execStorageCompletion_absent {media : Bool} (absent : s.cmd core 2 seq = none) :
    execStorageCompletion core seq media s = .next s := by
  rw [execStorageCompletion, absent]

/-- A request whose work is done now completes, or fails where its completion address is not its own. -/
theorem execStorageCompletion_ends {media : Bool} {v r i status blocks : Nat} {x : BitVec 512} (here : s.cmd core 2 seq = some c)
    (started : c.st = .started) (body : c.body = .storage v r i (some x)) (fresh : c.out = [])
    (works : s.storageWork core c (storageReq x) media = .ok (s2, g, status, blocks)) :
    execStorageCompletion core seq media s =
      s2.storageEnd core { c with time := g.time, out := storageDone (storageReq x) status blocks } (storageReq x) := by
  rw [execStorageCompletion, here]
  simp only [started, body, fresh, works]
  rfl

theorem execStorageCompletion_reads {media : Bool} {v r i : Nat} (here : s.cmd core 2 seq = some c) (started : c.st = .started)
    (body : c.body = .storage v r i none)
    (memory : ∀ pa, s.agentBytes (c.agent core) (BitVec.ofNat 64 ((Tab.get {} (s.vd v).rings r).base.toNat + 64 * i)) 64 ≠
      .error (.noMemory pa)) :
    execStorageCompletion core seq media s = .next (State.readRing v r 128 s) := by
  rw [execStorageCompletion, here]
  simp only [started, body]

theorem storageEnd_denied {r : StorageReq} (denied : s.cplaOk core c r.cpla = false) :
    s.storageEnd core c r = s.stopCmd core c (.fail .bounds r.cpla) :=
  if_pos (by rw [denied]; rfl)

theorem storageEnd_writes {r : StorageReq} (allowed : s.cplaOk core c r.cpla = true)
    (written : s.agentStore (c.agent core) r.cpla c.out = .ok (s1, g)) :
    s.storageEnd core c r = .next (s1.finishCmd core { c with time := g.time }) := by
  rw [State.storageEnd, if_neg (by simp [allowed]), written]

theorem readRing_read {v r : Nat} (none : s.nextUnread v r = none) (fuel : Nat) : State.readRing v r fuel s = s := by
  cases fuel with
  | zero => rfl
  | succ fuel => simp only [State.readRing, none]

theorem readRing_stops {v r : Nat} (next : s.nextUnread v r = some (core, c))
    (stops : s.cmd core c.cls c.seq ≠ some c ∨ c.st ≠ .started) (fuel : Nat) : State.readRing v r fuel s = s := by
  cases fuel with
  | zero => rfl
  | succ fuel =>
    simp only [State.readRing, next]
    split
    · rfl
    · next here =>
      have parked : c.st ≠ .started := stops.resolve_left here
      split
      · next started _ => exact absurd started parked
      · rfl

theorem readRing_goes {v r i : Nat} (next : s.nextUnread v r = some (core, c)) (here : s.cmd core c.cls c.seq = some c)
    (started : c.st = .started) (body : c.body = .storage v r i none) (read : s.readEntry core c v r i = .ok s1) (fuel : Nat) :
    State.readRing v r (fuel + 1) s =
      State.readRing v r fuel (if s1.pending.contains (c.turn core) then s1 else s1.owe (c.turn core)) := by
  have unread : c.unread = some (v, r, i) := by rw [Cmd.unread, body, started]
  simp only [State.readRing, next, here, started, unread, read, ne_eq, not_true_eq_false, if_false]

theorem storageWork_malformed {x : BitVec 512} {media : Bool} (bad : (storageReq x).ok = false) :
    s.storageWork core c (storageReq x) media = .ok (s, c.agent core, 4, 0) := by
  simp [State.storageWork, bad]

/-! ## Received messages -/

section
variable {vd : Fin 32} {ep : Fin 256} {immd : BitVec 64} {data tail : List Byte}
  (valid : (Tab.get 0 (s.vd vd.val).endpoints ep.val).getLsbD 0 = true)
  (agent : s.partAgent ((Tab.get 0 (s.vd vd.val).endpoints ep.val).extractLsb' 8 6) = some g)
  (read : s.agentBytes { g with time := s.portTime, ordered := false }
    ((Tab.get 0 (s.vd vd.val).endpoints ep.val).extractLsb' 448 64) 8 = .ok (s1, g1, tail))
include valid agent read

theorem execNetworkReceive_full
    (full : 2 ^ (((Tab.get 0 (s.vd vd.val).endpoints ep.val).extractLsb' 24 8).toNat) ≤
      Tab.get 0 (s.vd vd.val).received ep.val - (ofBytes 64 tail : Word).toNat) :
    execNetworkReceive vd ep immd data s = .next (s1.report (.notReady vd.val ep.val)) := by
  simp only [execNetworkReceive]
  rw [if_neg (by simpa using valid), agent]
  simp only [Nat.reduceMul, read]
  exact if_pos full

theorem execNetworkReceive_stores :
    let e := Tab.get 0 (s.vd vd.val).endpoints ep.val
    let n := Tab.get 0 (s.vd vd.val).received ep.val
    let ring := 2 ^ ((e.extractLsb' 24 8).toNat)
    let size := 2 ^ ((e.extractLsb' 16 8).toNat)
    n - (ofBytes 64 tail : Word).toNat < ring →
    s1.agentStore g1 (e.extractLsb' 320 64 + BitVec.ofNat 64 (n % ring * size)) (data.take size) = .ok (s2, g2) →
    ∀ {g3}, s2.agentStore g2 (e.extractLsb' 384 64 + BitVec.ofNat 64 (n % ring * 16))
      (rxCompletion immd (data.take size).length n (decide (size < data.length))) = .ok (s3, g3) →
    execNetworkReceive vd ep immd data s =
      .next (s3.onVd vd.val fun d => { d with received := Tab.set d.received ep.val (n + 1) }) := by
  intro e n ring size room message g3 completion
  subst e n ring size
  simp only [execNetworkReceive]
  rw [if_neg (by simpa using valid), agent]
  simp only [Nat.reduceMul, read]
  refine (if_neg (Nat.not_le.mpr room)).trans ?_
  simp only [epField, Nat.reduceMul]
  rw [message]
  dsimp only
  split
  · next stopped => cases stopped.symm.trans completion
  · next done => cases done.symm.trans completion; rfl

end

end

end Sys2Proof.Machine

namespace Sys2Proof
open Machine

/-- Settles O27: each clause is a branch of COMMAND_COMPLETE, COMMAND_FAIL, COLLECTIVE_GENERATION, SPSUM_PAIR_ADD,
STORAGE_COMPLETION or NETWORK_RECEIVE. -/
theorem engineEvents : Obligations.EngineEvents := by
  unfold Obligations.EngineEvents
  intro s core seq cls c k v s1 s2 s3 g g1 g2 g3 lid vdev gid first rest a xs media status blocks x vd ep immd data tail
    here gone kept group live e n ring size
  refine ⟨execCommandComplete_absent, execCommandComplete_idle, enginesHeld_of_not_hasEngine, execCommandComplete_runs,
    fun _ => runCmd_done, fun _ _ => runCmd_goes, fun _ _ => runCmd_waits, ?_,
    fun other => ⟨ephDenied_of_not_send other, handOver_of_not_send other⟩, fun _ _ _ _ => handOver_sends, signalCmd_silent,
    signalCmd_pulses, leftEngine_hasLeft, execCommandFail_absent, execCommandFail_records,
    fun _ => execCollectiveGeneration_launch, fun _ => withAway_in,
    fun in_ none => (execCollectiveGeneration_live in_).trans (tryGeneration_none none),
    fun in_ some args few => (execCollectiveGeneration_live in_).trans (tryGeneration_waits some args (.inl (some ▸ few))),
    fun in_ some args parked => (execCollectiveGeneration_live in_).trans (tryGeneration_waits some args (.inr (some ▸ parked))),
    fun in_ some args enough agree read => (execCollectiveGeneration_live in_).trans
      (tryGeneration_forms some args (some ▸ enough) (some ▸ agree) (some ▸ read)),
    fun none => addPair_none none,
    fun p b only here tag started args => addPair_adds only (pairCmd_takes here tag started) args,
    execStorageCompletion_absent, ?_, fun _ _ _ => execStorageCompletion_reads, fun _ _ fuel none => readRing_read none fuel,
    fun _ _ fuel next stops => readRing_stops next stops fuel,
    fun _ _ _ fuel next here started body read => readRing_goes next here started body read fuel, storageWork_malformed,
    fun valid agent read => ⟨fun room message done => execNetworkReceive_stores valid agent read room message done,
      execNetworkReceive_full valid agent read⟩⟩
  · intro present started engine done left whole allowed
    obtain ⟨fuel, fuel_eq⟩ : ∃ fuel, c.work + 2 - c.prog = fuel + 1 := ⟨_, (Nat.succ_pred_eq_of_pos (Nat.sub_pos_of_lt left)).symm⟩
    have completes : exec (.commandComplete core cls seq) s = (s.handOver c).1.writeDone core (s.handOver c).2 := by
      rw [exec_commandComplete, execCommandComplete_runs present started engine, fuel_eq, runCmd_done done,
        completeCmd_writes whole allowed]
    refine ⟨fun silent => completes.trans (writeDone_silent (handOver_hdr.symm ▸ silent)), fun writes written => completes.trans ?_⟩
    exact writeDone_written (handOver_hdr.symm ▸ writes) (handOver_hdr.symm ▸ written)
  · intro v r i present started body fresh works
    have ends := execStorageCompletion_ends (seq := seq) present started body fresh works
    exact ⟨fun denied => ends.trans (storageEnd_denied denied), fun allowed written => ends.trans (storageEnd_writes allowed written)⟩

end Sys2Proof
end

section
/-! Launches, entries, join blocks and the end of a task (R410, R411, R439 to R443, R449, R571). -/
namespace Sys2Proof.Machine
open Sys2Proof Sys2Proof.Claims

section
variable {s t : State} {n : Nat}

/-! ## LAUNCH (R410, R411, R439) -/

theorem submit_full {v : Nat} {hdr : BitVec 1024} {core : Option Nat} {time : Nat}
    (full : 256 ≤ (s.launches.filter fun y => y.vdev == v && y.state == .pending).length) :
    (s.submit v hdr core time).2 = 0 ∧ (s.submit v hdr core time).1.launches = s.launches := by
  rw [State.submit, if_pos full]
  exact ⟨rfl, rfl⟩

theorem submit_accepted {v : Nat} {hdr : BitVec 1024} {core : Option Nat} {time : Nat} (accepted : (s.submit v hdr core time).2 ≠ 0) :
    (s.submit v hdr core time).2 = (s.vd v).lastLid + 1 ∧ ∃ x, (s.submit v hdr core time).1.launches = s.launches ++ [x] ∧
      x.hdr = hdr ∧ x.vdev = v ∧ x.lid = (s.vd v).lastLid + 1 ∧ x.state = .pending ∧ x.time = time := by
  unfold State.submit at accepted ⊢
  dsimp only at accepted ⊢
  split at accepted
  · exact absurd rfl accepted
  · next room =>
    rw [if_neg room]
    split at accepted
    · exact absurd rfl accepted
    · next writable =>
      rw [if_neg writable]
      exact ⟨rfl, _, rfl, rfl, rfl, rfl, rfl, rfl⟩

/-! ## SPAWN (R440, R449) -/

/-- The queue of a SPAWN. -/
def spawnQueue (loc : Bool) (s : State) : QueueId := if loc then localQueue s.cc.ptag s.cur else s.dieQueue s.cc.ptag s.cur
/-- A SPAWN's first word is a code address, and its queue has room. -/
def SpawnOk (a : GReg) (loc : Bool) (s : State) : Prop :=
  (nth s a 0).toNat % 4 = 0 ∧ (nth s a 0).extractLsb' 56 8 = 0 ∧ (loc = true → (s.queue (spawnQueue loc s)).length < 16)
/-- What a SPAWN of `count` WIDs enqueues. -/
def spawned (a : GReg) (pri : BitVec 3) (loc : Bool) (count : Nat) (s : State) : Except HwErr State :=
  (onCore (fun c => { c with lt := c.lt + 1 }) s).tryEnqueue s.cur s.cc.ptag (spawnQueue loc s)
    { cont := ⟨nth s a 0, nth s a 1, nth s a 2, nth s a 3⟩, left := count, launch := s.cc.lid, prio := s.cc.spawnPrio pri,
      dom := s.cc.innermost, time := s.cc.lt + 1 }

section
variable {a : GReg} {count : Nat} {pri : BitVec 3} {loc : Bool}

theorem spawnEff_align (some : count ≠ 0) (bad : (nth s a 0).toNat % 4 ≠ 0 ∨ (nth s a 0).extractLsb' 56 8 ≠ 0) :
    spawnEff a count pri loc s = .trap s .align (nth s a 0) 0 :=
  (if_neg some).trans (if_pos bad)

theorem spawnEff_enqueues (some : count ≠ 0) (ok : SpawnOk a loc s) (enqueued : spawned a pri loc count s = .ok t) :
    spawnEff a count pri loc s = .done t := by
  obtain ⟨aligned, short, room⟩ := ok
  have space : ¬(loc && decide (16 ≤ (s.queue (spawnQueue loc s)).length)) = true := by simpa using room
  refine (if_neg some).trans ((if_neg (not_or.mpr ⟨not_not.mpr aligned, not_not.mpr short⟩)).trans ((if_neg space).trans ?_))
  dsimp only
  split
  · next stops => cases stops.symm.trans enqueued
  · next done => cases done.symm.trans enqueued; rfl

theorem spawnEff_stops {e : HwErr} (some : count ≠ 0) (ok : SpawnOk a loc s) (stops : spawned a pri loc count s = .error e) :
    spawnEff a count pri loc s = hwStop s s.cc.innermost e := by
  obtain ⟨aligned, short, room⟩ := ok
  have space : ¬(loc && decide (16 ≤ (s.queue (spawnQueue loc s)).length)) = true := by simpa using room
  refine (if_neg some).trans ((if_neg (not_or.mpr ⟨not_not.mpr aligned, not_not.mpr short⟩)).trans ((if_neg space).trans ?_))
  dsimp only
  split
  · next stopped => cases stopped.symm.trans stops; rfl
  · next done => cases done.symm.trans stops

theorem tryEnqueue_free {p : PTag} {q : QueueId} {e : QEntry} (free : e.dom = 0) : s.tryEnqueue n p q e = .ok (s.putEntry p q e) :=
  if_pos free

end

/-! ## JOIN (R441) -/

section
variable {d a : GReg} {ins : Instr} {bs : List Byte}

theorem joinBlock_joins {s0 : State} (joins : Joins d bs s t) : joinBlock d bs s0 s = .done t := by
  rcases joins with ⟨left, rfl⟩ | ⟨done, enqueued⟩
  · exact if_pos left
  · refine (if_neg (not_not.mpr done)).trans ?_
    split
    · next stops => cases stops.symm.trans enqueued
    · next ok => cases ok.symm.trans enqueued; rfl

theorem joinEff_local {p : Place} (free : s.rangeHeld (s.cc.rdG a) 48 = false) (loc : (s.cc.rdG a).getLsbD 56 = true)
    (place : ∀ o, p ≠ .evu o) (checked : s.checkLocal s.cur (!s.cc.regs.trap.sup) (s.cc.rdG a) 48 16 = .ok p)
    (sound : (s.touch s.cur p 48).2 = false)
    (joins : Joins d ((s.touch s.cur p 48).1.readPlace 48 p)
      (storePlace p (toBytes 8 (recGet ((s.touch s.cur p 48).1.readPlace 48 p) 0 8 - 1)) (s.touch s.cur p 48).1) t) :
    joinEff ins d a s = .done t := by
  refine (if_neg (ne_true_of_eq_false free)).trans ((if_pos loc).trans ?_)
  rw [checked]
  cases p with
  | evu o => exact absurd rfl (place o)
  | _ => exact (if_neg (ne_true_of_eq_false sound)).trans (joinBlock_joins joins)

theorem joinEff_global {pa pb pc : Nat} {l1 l2 l3 : BitVec 64} (free : s.rangeHeld (s.cc.rdG a) 48 = false)
    (glob : (s.cc.rdG a).getLsbD 56 = false)
    (first : s.xlateChecked s.cur (s.cc.rdG a) 48 16 .atomic = .ok (pa, l1))
    (second : s.xlateChecked s.cur (s.cc.rdG a + 16) 16 16 .atomic = .ok (pb, l2))
    (third : s.xlateChecked s.cur (s.cc.rdG a + 32) 16 16 .atomic = .ok (pc, l3))
    (held : s.stackLost pa = false ∧ s.stackLost pb = false ∧ s.stackLost pc = false)
    (sound : s.globalBad pa 16 = false ∧ s.globalBad pb 16 = false ∧ s.globalBad pc 16 = false) :
    let s1 := ((s.gain pa (leafPolicy l1) true).gain pb (leafPolicy l2) true).gain pc (leafPolicy l3) true
    let bs := s1.physBytes pa 16 ++ s1.physBytes pb 16 ++ s1.physBytes pc 16
    Joins d bs (s1.storeHome s.cur pa (leafPolicy l1) (toBytes 8 (recGet bs 0 8 - 1))) t → joinEff ins d a s = .done t := by
  intro s1 bs joins
  obtain ⟨heldA, heldB, heldC⟩ := held
  obtain ⟨soundA, soundB, soundC⟩ := sound
  have places : s.joinPlaces s.cur (s.cc.rdG a) = .ok [(pa, leafPolicy l1), (pb, leafPolicy l2), (pc, leafPolicy l3)] := by
    rw [State.joinPlaces, first, second, third]
    rfl
  refine (if_neg (ne_true_of_eq_false free)).trans ((if_neg (ne_true_of_eq_false glob)).trans ?_)
  have none' : [(pa, leafPolicy l1), (pb, leafPolicy l2), (pc, leafPolicy l3)].find? (fun p => s.stackLost p.1) = none := by
    simp [heldA, heldB, heldC]
  have good : ¬([(pa, leafPolicy l1), (pb, leafPolicy l2), (pc, leafPolicy l3)].any fun p => s.globalBad p.1 16) = true := by
    simp [soundA, soundB, soundC]
  have bytes : [(pa, leafPolicy l1), (pb, leafPolicy l2), (pc, leafPolicy l3)].flatMap (fun p => s1.physBytes p.1 16) = bs := by
    simp [bs]
  rw [places]
  dsimp only
  rw [none']
  refine (if_neg good).trans ?_
  have joined := joinBlock_joins (s0 := s) joins
  rw [← bytes] at joined
  exact joined

end

/-! ## The end of a task (R442, R571) -/

/-- From `s` to `t` core `n` neither takes nor leaves a task or a domain, and memory stays. -/
structure RestsAlike (n : Nat) (s t : State) : Prop where
  task : (t.core n).task = (s.core n).task
  doms : (t.core n).doms = (s.core n).doms
  hbm : t.hbm = s.hbm

theorem RestsAlike.refl (s : State) : RestsAlike n s s := ⟨rfl, rfl, rfl⟩
theorem RestsAlike.trans {u : State} (a : RestsAlike n s t) (b : RestsAlike n t u) : RestsAlike n s u :=
  ⟨b.task.trans a.task, b.doms.trans a.doms, b.hbm.trans a.hbm⟩
theorem RestsAlike.foldl {α : Type} {f : State → α → State} (step : ∀ s x, RestsAlike n s (f s x)) (xs : List α) (s : State) :
    RestsAlike n s (xs.foldl f s) :=
  List.foldlRecOn xs _ (RestsAlike.refl s) fun t ok x _ => ok.trans (step t x)
theorem State.owe_restsAlike (s : State) (i : Instr) : RestsAlike n s (s.owe i) := ⟨rfl, rfl, rfl⟩
theorem RestsAlike.setCore {c : Core} (task : c.task = (s.core n).task) (doms : c.doms = (s.core n).doms) :
    RestsAlike n s (s.setCore n c) := by
  refine ⟨?_, ?_, rfl⟩ <;> rwa [State.core_setCore]

theorem State.becameIdle_restsAlike (s : State) (n : Nat) (l : Option (Nat × Nat)) : RestsAlike n s (s.becameIdle n l) := by
  unfold State.becameIdle
  extract_lets c yielded ended
  have toYielded : RestsAlike n s yielded := by
    dsimp only [yielded]
    split
    · exact .setCore rfl rfl
    · exact s.owe_restsAlike _
  have toEnded : RestsAlike n s ended := by
    cases l with
    | none => exact toYielded
    | some l => exact toYielded.trans (yielded.owe_restsAlike _)
  split
  · exact toEnded
  · exact toEnded.trans (.foldl (fun t x => t.owe_restsAlike _) _ _)

theorem State.dissolve_hbm (s : State) (n t gap : Nat) (next : Option Word) : (s.dissolve n t gap next).hbm = s.hbm := by
  unfold State.dissolve
  split
  · refine List.foldlRecOn (motive := fun u : State => u.hbm = s.hbm) _ _ rfl fun u kept j _ => ?_
    dsimp only
    split
    · exact kept
    · split
      · exact kept
      · split <;> exact kept
  · rfl

theorem State.leaveGang_hbm (s : State) (n : Nat) (atWord : Bool) : (s.leaveGang n atWord).hbm = s.hbm := by
  unfold State.leaveGang
  split
  · exact s.dissolve_hbm ..
  · unfold State.leaveLockstep
    split <;> rfl
  · rfl

theorem leaveTask_rests (s : State) (n : Nat) :
    ((s.leaveTask n).core n).task = none ∧ ((s.leaveTask n).core n).doms = [] ∧ (s.leaveTask n).hbm = s.hbm := by
  have ended : ∀ t, RestsAlike n ((s.leaveGang n (!(s.core n).regs.trap.exl)).setCore n
      ((s.leaveGang n (!(s.core n).regs.trap.exl)).core n).endTask) t → (t.core n).task = none ∧ (t.core n).doms = [] ∧ t.hbm = s.hbm :=
    fun t ⟨task, doms, hbm⟩ => by
      rw [State.core_setCore] at task doms
      exact ⟨task, doms, hbm.trans (s.leaveGang_hbm ..)⟩
  refine ended _ ?_
  unfold State.leaveTask
  dsimp only
  split
  · exact .setCore rfl rfl
  · exact State.becameIdle_restsAlike ..

/-- The domain that a core's task counts in, or none. -/
theorem inherited_filter (k : Option Word) : k.filter (· != 0) = if k.getD 0 = 0 then none else some (k.getD 0) := by
  cases k with
  | none => rfl
  | some r => by_cases zero : r = 0 <;> simp [Option.filter, zero]

theorem endTaskEff_free (free : ((s.core n).task.map (·.inherited)).getD 0 = 0) : endTaskEff n s = .done (s.leaveTask n) := by
  rw [endTaskEff, inherited_filter, if_pos free]

theorem endTaskEff_counted (inherits : ((s.core n).task.map (·.inherited)).getD 0 ≠ 0)
    (counts : s.hwEdit n (((s.core n).task.map (·.inherited)).getD 0) (addNtask (-1)) = .ok t) :
    endTaskEff n s = .done (t.leaveTask n) := by
  rw [endTaskEff, inherited_filter, if_neg inherits]
  dsimp only
  rw [counts]

theorem endTaskEff_stops {e : HwErr} (inherits : ((s.core n).task.map (·.inherited)).getD 0 ≠ 0)
    (stops : s.hwEdit n (((s.core n).task.map (·.inherited)).getD 0) (addNtask (-1)) = .error e) :
    endTaskEff n s = hwStop s (((s.core n).task.map (·.inherited)).getD 0) e := by
  rw [endTaskEff, inherited_filter, if_neg inherits]
  dsimp only
  rw [stops]

/-- The trapped task of a core without domains ends, and its launch counts a fault. -/
theorem endTrapped_counts {count : State → State} {fuel : Nat} (doms : (s.core n).doms = []) (ends : endTaskEff n s = .done t) :
    endTrapped n count (fuel + 1) s = .done (count t) := by
  rw [endTrapped, doms]
  dsimp only
  rw [ends]

/-- Its innermost domain is aborted first. -/
theorem endTrapped_aborts {count : State → State} {fuel : Nat} {r : Word} {rest : List Word} (doms : (s.core n).doms = r :: rest)
    {u : State} (aborts : abortEff n r s (endTrapped n count fuel) = .done u) : endTrapped n count (fuel + 1) s = .done u := by
  rw [endTrapped, doms]
  dsimp only
  rw [aborts]

/-- The abort of a domain that no stop meets and no task counts on goes on once its area is restored. -/
theorem abortEff_goes {r : Word} {go : State → Eff} (free : s.abortStop n r = none)
    (uncounted : ∀ bs ∈ (s.abandonDomain (s.core n).ptag n r (some n)).domain? (s.core n).ptag n r, recGet bs 0x50 8 = 0)
    (restored : (s.abandonDomain (s.core n).ptag n r (some n)).restoreAborted n r = (t, true)) : abortEff n r s go = go t := by
  have none' : ¬((s.abandonDomain (s.core n).ptag n r (some n)).domain? (s.core n).ptag n r).any
      (fun bs => recGet bs recNtask 8 != 0) = true := by
    cases found : (s.abandonDomain (s.core n).ptag n r (some n)).domain? (s.core n).ptag n r with
    | none => simp
    | some bs => simpa [recNtask] using uncounted bs found
  unfold abortEff
  rw [free]
  dsimp only
  rw [if_neg none', restored]
  rfl

end

end Sys2Proof.Machine
end

section
/-! The words of tasks: LAUNCH, TEND, and what they read of the task (R439, R442, R443, R571). -/
namespace Sys2Proof.Machine
open Sys2Proof Sys2Proof.Claims

section
variable {s t : State}

/-- The effect of TEND. -/
def tendEff (s : State) : Eff :=
  let n := s.cur
  let c := s.cc
  if c.regs.trap.sup && c.regs.trap.exl then
    endTrapped n (fun s => match c.task with
      | some t => s.onLaunch t.launch (Launch.charged t.wid false)
      | none => s) (c.doms.length + 1) s
  else match c.doms with
    | r :: _ => .trap s .domain (domainVal r 4) 0
    | [] =>
      if (List.finRange 4).any fun (k : Fin 4) => c.eng.retsq k != c.eng.isq[k] then .point s
      else
        let t := (List.finRange 4).foldl (fun (m : Nat) (k : Fin 4) => max m (c.eng.doneTime k c.eng.isq[k])) c.lt
        endTaskEff n (s.setCc { c with lt := t })
theorem exec_tend_eff (h : Hdr) (s : State) : exec (.tend h) s = issueWord h 0 0 0 {} tendEff s := rfl

/-- The core has caught up with its finished commands. -/
def caughtUp : State → State := onCore fun c =>
  { c with lt := (List.finRange 4).foldl (fun m k => max m (c.eng.doneTime k c.eng.isq[k])) c.lt }
/-- The trapped task's launch counts a fault in `t`. -/
def faultCounted (s t : State) : State :=
  match s.cc.task with
  | some k => t.onLaunch k.launch (Launch.charged k.wid false)
  | none => t

theorem tendEff_handler (handler : (s.cc.regs.trap.sup && s.cc.regs.trap.exl) = true) :
    tendEff s = endTrapped s.cur (faultCounted s) (s.cc.doms.length + 1) s := if_pos handler

theorem tendEff_open {r : Word} {rest : List Word} (user : (s.cc.regs.trap.sup && s.cc.regs.trap.exl) = false)
    (doms : s.cc.doms = r :: rest) : tendEff s = .trap s .domain (domainVal r 4) 0 := by
  refine (if_neg (ne_true_of_eq_false user)).trans ?_
  rw [doms]

theorem tendEff_ends (user : (s.cc.regs.trap.sup && s.cc.regs.trap.exl) = false) (doms : s.cc.doms = [])
    (retired : ∀ k : Fin 4, s.cc.eng.retsq k = s.cc.eng.isq[k]) : tendEff s = endTaskEff s.cur (caughtUp s) := by
  have none' : ¬((List.finRange 4).any fun k => s.cc.eng.retsq k != s.cc.eng.isq[k]) = true := by simp [retired]
  refine (if_neg (ne_true_of_eq_false user)).trans ?_
  split
  · next some => cases some.symm.trans doms
  · exact if_neg none'

theorem task_caughtUp : ((caughtUp s).core s.cur).task = s.cc.task := by
  rw [show (caughtUp s).core s.cur = _ from s.core_setCore s.cur _]

end

end Sys2Proof.Machine

namespace Sys2Proof
open Machine Claims

/-- Settles O19: each form by the branch of its effect. -/
theorem taskForms : Obligations.TaskForms := by
  intro d a b imm pri i loc own c off sel p pa pb pc l1 l2 l3 task l w r rest t
    u one answer soon adr queue spawnOk spawned spU block retired handler parent caughtUp counted
  refine ⟨?launch, fun s v hdr core time => submit_full, fun s v hdr core time => submit_accepted, ?spawn, ?spawnR,
    fun s n q e => tryEnqueue_free, ?spawnAccess, ?spawnNone, ?spawnAlign, ?joinLocal, ?joinGlobal, ?wid, ?widFree, ?widf, ?widfFree,
    ?corenum, ?corenumFree, ?numbers, ?tend, ?tendCounted, ?tendAccess, ?tendTrapped, ?tendTrappedCounted, ?tendAborts, leaveTask_rests,
    ?tendOpen⟩
  case launch =>
    refine completes_of_issueWord (fun h s => exec_launch h d a imm s) fun s ⟨free, sound, checked⟩ => ?_
    refine (if_neg (ne_true_of_eq_false free)).trans ?_
    rw [show s.checkSpad (s.cc.addr a imm) 128 128 = _ from State.checkSpad_of_checkLocal checked]
    refine (if_neg (ne_true_of_eq_false sound)).trans (congrArg Eff.done ?_)
    dsimp only
    generalize (s.touch s.cur (.spad own c off) 128).1.coreRead s.cur ((Place.spad own c off).home (clusterOf s.cur)) = s1
    cases s1.vdOf s.cur <;> rfl
  case spawn =>
    exact completes_of_issueWord (fun h s => exec_spawn h a pri loc s) fun s ⟨ok, enqueued⟩ =>
      spawnEff_enqueues one_ne_zero ok enqueued
  case spawnR =>
    exact completes_of_issueWord (fun h s => exec_spawnR h a b pri loc s) fun s ⟨ok, nonzero, enqueued⟩ =>
      spawnEff_enqueues nonzero ok enqueued
  case spawnAccess =>
    exact traps_of_issueWord (fun h s => exec_spawn h a pri loc s) fun s ⟨ok, stops⟩ => spawnEff_stops one_ne_zero ok stops
  case spawnNone =>
    exact completes_of_issueWord (fun h s => exec_spawnR h a b pri loc s) fun s zero =>
      if_pos (congrArg BitVec.toNat zero)
  case spawnAlign =>
    exact traps_of_issueWord (fun h s => exec_spawn h a pri loc s) fun s bad => spawnEff_align one_ne_zero bad
  case joinLocal =>
    intro h s issues ⟨free, loc, place, checked, sound, joins⟩
    exact (exec_join h d a s).trans (issueWord_completes (eff := joinEff (.join h d a) d a) issues
      (joinEff_local free loc place checked sound joins))
  case joinGlobal =>
    intro h s issues ⟨free, glob, first, second, third, heldA, heldB, heldC, soundA, soundB, soundC, joins⟩
    exact (exec_join h d a s).trans (issueWord_completes (eff := joinEff (.join h d a) d a) issues
      (joinEff_global free glob first second third ⟨heldA, heldB, heldC⟩ ⟨soundA, soundB, soundC⟩ joins))
  case wid =>
    refine completes_of_issueWord (fun h s => exec_wid h d s) fun s running => ?_
    rw [running]
    rfl
  case widFree =>
    refine completes_of_issueWord (fun h s => exec_wid h d s) fun s idle => ?_
    rw [idle]
    rfl
  case widf =>
    refine completes_of_issueWord (fun h s => exec_widf h d a i s) fun s found => ?_
    rw [found]
    rfl
  case widfFree =>
    refine completes_of_issueWord (fun h s => exec_widf h d a i s) fun s none => ?_
    rw [none]
    rfl
  case corenum =>
    refine completes_of_issueWord (fun h s => exec_corenum h d sel s) fun s known => ?_
    rw [known]
    rfl
  case corenumFree =>
    refine completes_of_issueWord (fun h s => exec_corenum h d sel s) fun s unknown => ?_
    rw [unknown]
    rfl
  case numbers =>
    intro s
    refine ⟨rfl, fun running => ?_, fun running unranked => ?_⟩
    · have running' : (s.core s.cur).task = some task := running
      cases rank : task.rank <;> simp [State.coreNum, running', rank]
    · have running' : (s.core s.cur).task = some task := running
      simp [State.coreNum, running', unranked]
  case tend =>
    exact completes_of_issueWord exec_tend_eff fun s ⟨user, doms, retired, free⟩ =>
      (tendEff_ends user doms retired).trans (endTaskEff_free (by rw [task_caughtUp]; exact free))
  case tendCounted =>
    refine completes_of_issueWord exec_tend_eff fun s ⟨user, doms, retired, inherits, counts⟩ => ?_
    exact (tendEff_ends user doms retired).trans
      (endTaskEff_counted (by rw [task_caughtUp]; exact inherits) (by rw [task_caughtUp]; exact counts))
  case tendAccess =>
    intro h s issues s1 user doms retired inherits stops
    refine (exec_tend_eff h s).trans (issueWord_traps (r := Machine.caughtUp s1) issues ((tendEff_ends user doms retired).trans ?_))
    exact (endTaskEff_stops (by rw [task_caughtUp]; exact inherits) (by rw [task_caughtUp]; exact stops)).trans
      (by rw [task_caughtUp]; rfl)
  case tendTrapped =>
    refine completes_of_issueWord exec_tend_eff fun s ⟨handler, doms, free⟩ => ?_
    exact (tendEff_handler handler).trans (endTrapped_counts doms (endTaskEff_free free))
  case tendTrappedCounted =>
    refine completes_of_issueWord exec_tend_eff fun s ⟨handler, doms, inherits, counts⟩ => ?_
    exact (tendEff_handler handler).trans (endTrapped_counts doms (endTaskEff_counted inherits counts))
  case tendAborts =>
    refine completes_of_issueWord exec_tend_eff fun s ⟨handler, doms, free, uncounted, restored, cur, gone, unparented⟩ => ?_
    have here : t.core s.cur = t.cc := congrArg t.core cur.symm
    have ends : endTaskEff s.cur t = .done (t.leaveTask s.cur) := endTaskEff_free (by rw [here]; exact unparented)
    have last : endTrapped s.cur (faultCounted s) 1 t = .done (faultCounted s (t.leaveTask s.cur)) :=
      endTrapped_counts (by rw [here]; exact gone) ends
    refine (tendEff_handler handler).trans ?_
    rw [doms]
    exact endTrapped_aborts doms ((abortEff_goes free uncounted restored).trans last)
  case tendOpen =>
    exact traps_of_issueWord exec_tend_eff fun s ⟨user, doms⟩ => tendEff_open user doms

end Sys2Proof
end

section
/-! Containment domains: opening, preserving, signing, closing and aborting (R444 to R449). -/
namespace Sys2Proof.Machine
open Sys2Proof Sys2Proof.Claims

section
variable {s s1 s2 s3 s4 : State} {a b : GReg} {r : Word} {rest : List Word} {rec data : List Byte} {ins : Instr} {snap : Bool}

/-! ## CDOPEN (R444) -/

/-- The effect of CDOPEN. -/
def cdopenEff (a : GReg) (s : State) : Eff :=
  let n := s.cur
  let c := s.cc
  let r := c.rdG a
  if r.extractLsb' 56 8 ≠ 0 ∨ r.toNat % 128 ≠ 0 then .trap s .domain (domainVal r 5) 0
  else if 8 ≤ c.doms.length then .trap s .domain (domainVal r 1) 0
  else match s.hwReadToEdit n r 128 with
    | .error e => hwStop s r e
    | .ok (s1, bs) =>
      if recGet bs recState 1 = 1 then .trap s .domain (domainVal r 0) 0
      else match s1.hwEdit n r (openedRecord c.innermost (s.lcn n)) with
        | .error e => hwStop s r e
        | .ok s2 => .done (s2.setCc { s2.cc with doms := r :: s2.cc.doms })
theorem exec_cdopen_eff (a : GReg) (h : Hdr) (s : State) :
    exec (.cdopen h a) s = issueWord h 0 0 0 { srcs := [opG a] } (cdopenEff a) s := rfl

theorem domainVal_zero (r : Word) : domainVal r 0 = r &&& ~~~0xF#64 := BitVec.or_zero

theorem cdopenEff_misplaced (bad : (s.cc.rdG a).extractLsb' 56 8 ≠ 0 ∨ (s.cc.rdG a).toNat % 128 ≠ 0) :
    cdopenEff a s = .trap s .domain (domainVal (s.cc.rdG a) 5) 0 := if_pos bad

section
variable (short : (s.cc.rdG a).extractLsb' 56 8 = 0) (aligned : (s.cc.rdG a).toNat % 128 = 0)
include short aligned

theorem cdopenEff_deep (deep : 8 ≤ s.cc.doms.length) : cdopenEff a s = .trap s .domain (domainVal (s.cc.rdG a) 1) 0 :=
  (if_neg (not_or.mpr ⟨not_not.mpr short, not_not.mpr aligned⟩)).trans (if_pos deep)

variable (room : s.cc.doms.length < 8) (read : s.hwReadToEdit s.cur (s.cc.rdG a) 128 = .ok (s1, rec))
include room read

theorem cdopenEff_open (open' : recGet rec 0 1 = 1) : cdopenEff a s = .trap s .domain (domainVal (s.cc.rdG a) 0) 0 := by
  refine (if_neg (not_or.mpr ⟨not_not.mpr short, not_not.mpr aligned⟩)).trans ((if_neg (Nat.not_le.mpr room)).trans ?_)
  rw [read]
  exact if_pos open'

theorem cdopenEff_opens (closed : recGet rec 0 1 ≠ 1)
    (written : s1.hwEdit s.cur (s.cc.rdG a) (openedRecord s.cc.innermost (s.lcn s.cur)) = .ok s2) :
    cdopenEff a s = .done (onCore (fun c => { c with doms := s.cc.rdG a :: c.doms }) s2) := by
  refine (if_neg (not_or.mpr ⟨not_not.mpr short, not_not.mpr aligned⟩)).trans ((if_neg (Nat.not_le.mpr room)).trans ?_)
  rw [read]
  refine (if_neg closed).trans ?_
  rw [written]
  rfl

end

/-! ## CDKEEP and CDSIG (R445, R446) -/

/-- A range that loads is what the instruction goes on with, where nothing of its own stops it. -/
theorem loadRange_loads {x : Word} {len : Nat} {go : State → List Byte → Eff} (loads : Loads s x len s1 data) :
    loadRange ins x len none none s go = go s1 data := by
  unfold loadRange
  rcases loads with ⟨empty, rfl, rfl⟩ | ⟨some', free, loc, p, place, checked, sound, rfl, rfl⟩ |
    ⟨some', free, glob, short, run⟩
  · exact if_pos empty
  · refine (if_neg some').trans ((if_neg (ne_true_of_eq_false free)).trans ((if_pos loc).trans ?_))
    rw [checked]
    cases p with
    | evu o => exact absurd rfl (place o)
    | _ => exact if_neg (ne_true_of_eq_false sound)
  · refine (if_neg some').trans ((if_neg (ne_true_of_eq_false free)).trans ((if_neg (ne_true_of_eq_false glob)).trans
      ((if_neg (Nat.not_lt.mpr short)).trans ?_)))
    rw [run]
    rfl

theorem cdkeepEff_none (none' : s.cc.doms = []) : cdkeepEff ins a b snap s = .trap s .domain 2 0 := by
  rw [cdkeepEff, none']

/-- The size of CDKEEP's entry. -/
def keepSize (snap : Bool) (len : Nat) : Nat := 16 + (if snap then 0 else pad16 len)
/-- Where the entry begins. -/
def keepPlace (rec : List Byte) : Word := recGet rec recKeepA 8 + BitVec.ofNat 64 (recGet rec recKeepU 8).toNat
/-- The bytes of the entry. -/
def keepEntry (snap : Bool) (x len : Word) (data : List Byte) : List Byte :=
  toBytes 8 x ++ toBytes 8 (if snap then len ||| (1#64 <<< 63) else len) ++ data ++
    List.replicate (keepSize snap len.toNat - 16 - data.length) 0#8
/-- The entry is written, and the record counts it. -/
def keepPut (snap : Bool) (x len r : Word) (rec : List Byte) (s s2 : State) (data : List Byte) : Eff :=
  match s2.keepWrite s.cur (keepSize snap len.toNat / 16) (keepPlace rec) (keepEntry snap x len data) with
  | .error e => hwStop s (keepPlace rec) e
  | .ok s3 => match s3.hwEdit s.cur r fun bs =>
      recPut bs recKeepU 8 (BitVec.ofNat 64 ((recGet rec recKeepU 8).toNat + keepSize snap len.toNat)) with
    | .error e => hwStop s r e
    | .ok s4 => .done s4

theorem keepPut_done {x len : Word}
    (written : s2.keepWrite s.cur (keepSize snap len.toNat / 16) (keepPlace rec) (keepEntry snap x len data) = .ok s3)
    (counted : s3.hwEdit s.cur r (fun bs => recPut bs recKeepU 8
      (BitVec.ofNat 64 ((recGet rec recKeepU 8).toNat + keepSize snap len.toNat))) = .ok s4) :
    keepPut snap x len r rec s s2 data = .done s4 := by
  rw [keepPut, written]
  dsimp only
  rw [counted]

section
variable (doms : s.cc.doms = r :: rest) (read : s.hwReadToEdit s.cur r 128 = .ok (s1, rec))
include doms read

theorem cdkeepEff_full (full : (recGet rec recKeepL 8).toNat < (recGet rec recKeepU 8).toNat + keepSize snap (s.cc.rdG b).toNat) :
    cdkeepEff ins a b snap s = .trap s .domain (domainVal r 3) 0 := by
  rw [cdkeepEff, doms]
  dsimp only
  rw [read]
  exact if_pos full

theorem cdkeepEff_room (room : (recGet rec recKeepU 8).toNat + keepSize snap (s.cc.rdG b).toNat ≤ (recGet rec recKeepL 8).toNat) :
    cdkeepEff ins a b snap s =
      let bounds := keepBounds (keepPlace rec) (keepSize snap (s.cc.rdG b).toNat) s
      let stop := keepStop s.cur (keepPlace rec) (keepSize snap (s.cc.rdG b).toNat) s
      let put := keepPut snap (s.cc.rdG a) (s.cc.rdG b) r rec s
      if snap then (bounds.or stop).getD (put s1 []) else loadRange ins (s.cc.rdG a) (s.cc.rdG b).toNat bounds stop s1 put := by
  rw [cdkeepEff, doms]
  dsimp only
  rw [read]
  exact if_neg (Nat.not_lt.mpr room)

theorem cdkeepEff_bounds (room : (recGet rec recKeepU 8).toNat + keepSize true (s.cc.rdG b).toNat ≤ (recGet rec recKeepL 8).toNat)
    (outside : (keepPlace rec).extractLsb' 56 8 ≠ 0) :
    cdkeepEff ins a b true s = .trap s .bounds (keepPlace rec) 0 := by
  have stops (size : Nat) : keepBounds (keepPlace rec) size s = some (.trap s .bounds (keepPlace rec) 0) := if_pos (.inl outside)
  rw [cdkeepEff_room doms read room, stops]
  rfl

/-- The entry is written behind those already kept, and the record counts it. -/
theorem cdkeepEff_keeps (room : (recGet rec recKeepU 8).toNat + keepSize snap (s.cc.rdG b).toNat ≤ (recGet rec recKeepL 8).toNat)
    (within : keepBounds (keepPlace rec) (keepSize snap (s.cc.rdG b).toNat) s = none)
    (reached : keepStop s.cur (keepPlace rec) (keepSize snap (s.cc.rdG b).toNat) s = none)
    (snapped : snap = true → s2 = s1 ∧ data = []) (loaded : snap = false → Loads s1 (s.cc.rdG a) (s.cc.rdG b).toNat s2 data)
    (put : keepPut snap (s.cc.rdG a) (s.cc.rdG b) r rec s s2 data = .done s4) : cdkeepEff ins a b snap s = .done s4 := by
  rw [cdkeepEff_room doms read room, within, reached]
  cases snap with
  | true =>
    obtain ⟨rfl, rfl⟩ := snapped rfl
    exact put
  | false => exact (loadRange_loads (loaded rfl)).trans put

end

theorem cdsigEff_none (none' : s.cc.doms = []) : cdsigEff ins a b s = .trap s .domain 2 0 := by
  rw [cdsigEff, none']

section
variable (doms : s.cc.doms = r :: rest)
include doms

theorem cdsigEff_empty (empty : s.cc.rdG b = 0) : cdsigEff ins a b s = .done s := by
  rw [cdsigEff, doms]
  exact if_pos empty

theorem cdsigEff_signs {x : Nat × Policy} (bytes : (s.cc.rdG b).toNat ≠ 0) (reached : s.hwPaEdit s.cur r.toNat = .ok x)
    (loads : Loads s (s.cc.rdG a) (s.cc.rdG b).toNat s1 data)
    (signed : s1.hwEdit s.cur r (fun bs => recPut bs recSig 8 (data.foldl crc64Fold (recGet bs recSig 8))) = .ok s2) :
    cdsigEff ins a b s = .done s2 := by
  have some' : s.cc.rdG b ≠ 0 := fun zero => bytes (congrArg BitVec.toNat zero)
  rw [cdsigEff, doms]
  refine (if_neg some').trans ?_
  rw [reached]
  refine (loadRange_loads loads).trans ?_
  rw [signed]

end

/-! ## CDCLOSE (R447) -/

/-- The effect of CDCLOSE. -/
def cdcloseEff (d : GReg) (s : State) : Eff :=
  let n := s.cur
  match s.cc.doms with
  | [] => .trap s .domain 2 0
  | r :: rest =>
    match s.hwReadToEdit n r 128 with
    | .error e => hwStop s r e
    | .ok (s1, bs) =>
      if recGet bs recNtask 8 ≠ 0 ∨ (s.audits.any fun a => a.ptag == s.cc.ptag && s.descends s.cc.ptag n r chainDepth a.parent) = true then
        .point s
      else
        let sig := recGet bs recSig 8
        match s1.hwEdit n r fun bs => recPut bs recState 1 0 with
        | .error e => hwStop s r e
        | .ok s2 =>
          let up := recGet bs recParent 8
          match (if up = 0 then .ok s2 else s2.hwAtomic n (up + BitVec.ofNat 64 recSig) (· ^^^ sig)) with
          | .error e => hwStop s up e
          | .ok s3 =>
            let s4 := s3.maybeAudit n r bs sig
            let c := s4.cc
            .done (s4.setCc ({ c with doms := rest }.slipResult (.g d sig)))
theorem exec_cdclose_eff (d : GReg) (h : Hdr) (s : State) :
    exec (.cdclose h d) s = issueWord h 0 0 0 { dsts := [opG d] } (cdcloseEff d) s := rfl

theorem cdcloseEff_none {d : GReg} (none' : s.cc.doms = []) : cdcloseEff d s = .trap s .domain 2 0 := by
  rw [cdcloseEff, none']

/-- No task counts on the domain and no audit of a domain below it is open: it closes, and its parent takes its signature. -/
theorem cdcloseEff_closes {d : GReg} (doms : s.cc.doms = r :: rest) (read : s.hwReadToEdit s.cur r 128 = .ok (s1, rec))
    (uncounted : recGet rec recNtask 8 = 0)
    (decided : ∀ x ∈ s.audits, x.ptag = s.cc.ptag → s.descends s.cc.ptag s.cur r chainDepth x.parent = false)
    (closed : s1.hwEdit s.cur r (fun bs => recPut bs recState 1 0) = .ok s2)
    (added : if recGet rec recParent 8 = 0 then s3 = s2
      else s2.hwAtomic s.cur (recGet rec recParent 8 + BitVec.ofNat 64 recSig) (· ^^^ recGet rec recSig 8) = .ok s3) :
    cdcloseEff d s = .done (onCore (fun c => { c with doms := rest }.slipResult (.g d (recGet rec recSig 8)))
      (s3.maybeAudit s.cur r rec (recGet rec recSig 8))) := by
  have free : ¬(recGet rec recNtask 8 ≠ 0 ∨
      (s.audits.any fun a => a.ptag == s.cc.ptag && s.descends s.cc.ptag s.cur r chainDepth a.parent) = true) := by
    rw [not_or, not_not, List.any_eq_true]
    refine ⟨uncounted, fun ⟨x, listed, open'⟩ => ?_⟩
    rw [Bool.and_eq_true, beq_iff_eq] at open'
    exact ne_true_of_eq_false (decided x listed open'.1) open'.2
  have parent : (if recGet rec recParent 8 = 0 then .ok s2
      else s2.hwAtomic s.cur (recGet rec recParent 8 + BitVec.ofNat 64 recSig) (· ^^^ recGet rec recSig 8)) = .ok s3 := by
    split at added <;> simp_all
  rw [cdcloseEff, doms]
  dsimp only
  rw [read]
  refine (if_neg free).trans ?_
  rw [closed]
  dsimp only
  rw [parent]
  rfl

/-! ## CDABORT (R448) -/

/-- The effect of CDABORT. -/
def cdabortEff (s : State) : Eff :=
  match s.cc.doms with
  | [] => .trap s .domain 2 0
  | r :: _ => abortEff s.cur r s .done
theorem exec_cdabort_eff (h : Hdr) (s : State) : exec (.cdabort h) s = issueWord h 0 0 0 {} cdabortEff s := rfl

theorem cdabortEff_none (none' : s.cc.doms = []) : cdabortEff s = .trap s .domain 2 0 := by
  rw [cdabortEff, none']
theorem cdabortEff_some (doms : s.cc.doms = r :: rest) : cdabortEff s = abortEff s.cur r s .done := by
  rw [cdabortEff, doms]

theorem abortStop_free {n : Nat} (read : s.hwReadToEdit n r 128 = .ok (s1, rec))
    (restored : s1.restoreArea (s.core n).ptag n rec = .ok s2) : s.abortStop n r = none := by
  rw [State.abortStop, read]
  dsimp only
  rw [restored]

theorem abortEff_access {n : Nat} {go : State → Eff} (denied : s.hwReadToEdit n r 128 = .error .access) :
    abortEff n r s go = .trap s .access r 0 := by
  rw [abortEff, State.abortStop, denied]
  rfl

theorem restoreAborted_restores {n : Nat} (found : s.domain? (s.core n).ptag n r = some rec)
    (restored : s.restoreArea (s.core n).ptag n rec = .ok s2) :
    s.restoreAborted n r = ((s2.editDomain (s.core n).ptag n r fun bs => recPut bs recState 1 0).onCore n fun c =>
      { c with doms := c.doms.filter (· != r) }, true) := by
  rw [State.restoreAborted, found]
  dsimp only
  rw [restored]

/-- The effect of CDABORT.RETRY. -/
def cdabortRetryEff (s : State) : Eff :=
  match s.cc.doms with
  | [] => .trap s .domain 2 0
  | _ :: _ => .done (s.postError 6 s.cc.ptag s.cur)
theorem exec_cdabortRetry_eff (h : Hdr) (s : State) : exec (.cdabortRetry h) s = issueWord h 0 0 0 {} cdabortRetryEff s := rfl

theorem cdabortRetryEff_none (none' : s.cc.doms = []) : cdabortRetryEff s = .trap s .domain 2 0 := by
  rw [cdabortRetryEff, none']
theorem cdabortRetryEff_posts (doms : s.cc.doms = r :: rest) : cdabortRetryEff s = .done (s.postError 6 s.cc.ptag s.cur) := by
  rw [cdabortRetryEff, doms]

end

end Sys2Proof.Machine

namespace Sys2Proof
open Machine Claims

/-- Settles O20: each form by the branch of its effect. -/
theorem domainForms : Obligations.DomainForms := by
  intro d a b snap r rest s1 s2 s3 s4 rec data x cur used size at_ len two none_
  refine ⟨?opens, ?misplaced, ?deep, ?twice, ?keeps, ?full, ?outside, ?signs, ?signsNone, ?closes, ?aborts, ?retries,
    fun s => restoreAborted_restores, fun s n => abortStop_free, ?denied, ?keepNone, ?signNone, ?closeNone, ?abortNone, ?retryNone⟩
  case opens =>
    exact completes_of_issueWord (exec_cdopen_eff a) fun s ⟨short, aligned, room, read, closed, written⟩ =>
      cdopenEff_opens short aligned room read closed written
  case misplaced => exact traps_of_issueWord (exec_cdopen_eff a) fun s bad => cdopenEff_misplaced bad
  case deep => exact traps_of_issueWord (exec_cdopen_eff a) fun s ⟨short, aligned, full⟩ => cdopenEff_deep short aligned full
  case twice =>
    refine traps_of_issueWord (exec_cdopen_eff a) fun s ⟨short, aligned, room, read, open'⟩ => ?_
    rw [cdopenEff_open short aligned room read open', domainVal_zero]
  case keeps =>
    intro h s issues ⟨⟨doms, read⟩, room, within, reached, snapped, loaded, written, counted⟩
    exact (exec_cdkeep h a b snap s).trans (issueWord_completes (eff := cdkeepEff (.cdkeep h a b snap) a b snap) issues
      (cdkeepEff_keeps doms read room within reached snapped loaded (keepPut_done written counted)))
  case full =>
    intro h s issues ⟨⟨doms, read⟩, full⟩
    exact (exec_cdkeep h a b snap s).trans (issueWord_traps (eff := cdkeepEff (.cdkeep h a b snap) a b snap) issues
      (cdkeepEff_full doms read full))
  case outside =>
    rintro h s issues ⟨rfl, ⟨doms, read⟩, room, outside⟩
    exact (exec_cdkeep h a b true s).trans (issueWord_traps (eff := cdkeepEff (.cdkeep h a b true) a b true) issues
      (cdkeepEff_bounds doms read room outside))
  case signs =>
    intro h s issues ⟨doms, bytes, reached, loads, signed⟩
    exact (exec_cdsig h a b s).trans (issueWord_completes (eff := cdsigEff (.cdsig h a b) a b) issues
      (cdsigEff_signs doms bytes reached loads signed))
  case signsNone =>
    intro h s issues ⟨doms, empty⟩
    exact (exec_cdsig h a b s).trans (issueWord_completes (eff := cdsigEff (.cdsig h a b) a b) issues (cdsigEff_empty doms empty))
  case closes =>
    exact completes_of_issueWord (exec_cdclose_eff d) fun s ⟨⟨doms, read⟩, uncounted, decided, closed, added⟩ =>
      cdcloseEff_closes doms read uncounted decided closed added
  case aborts =>
    exact completes_of_issueWord exec_cdabort_eff fun s ⟨doms, free, uncounted, restored⟩ =>
      (cdabortEff_some doms).trans (abortEff_goes free uncounted restored)
  case retries => exact completes_of_issueWord exec_cdabortRetry_eff fun s doms => cdabortRetryEff_posts doms
  case denied =>
    exact traps_of_issueWord exec_cdabort_eff fun s ⟨doms, denied⟩ => (cdabortEff_some doms).trans (abortEff_access denied)
  case keepNone =>
    intro h s issues none'
    exact (exec_cdkeep h a b snap s).trans (issueWord_traps (eff := cdkeepEff (.cdkeep h a b snap) a b snap) issues
      (cdkeepEff_none none'))
  case signNone =>
    intro h s issues none'
    exact (exec_cdsig h a b s).trans (issueWord_traps (eff := cdsigEff (.cdsig h a b) a b) issues (cdsigEff_none none'))
  case closeNone => exact traps_of_issueWord (exec_cdclose_eff d) fun s none' => cdcloseEff_none none'
  case abortNone => exact traps_of_issueWord exec_cdabort_eff fun s none' => cdabortEff_none none'
  case retryNone => exact traps_of_issueWord exec_cdabortRetry_eff fun s none' => cdabortRetryEff_none none'

end Sys2Proof
end

section
/-! Contexts: saving, loading, yielding and halting (R464 to R470). -/
namespace Sys2Proof.Machine
open Sys2Proof Sys2Proof.Claims

/-- A privileged word that waits inside its effect completes as stated where its effect does. -/
theorem goesOnSup_of_privileged {i : Hdr → Instr} {u : Uses} {P : State → Prop} {f : State → State} {eff : State → Eff}
    (meaning : ∀ h s, exec (i h) s = privileged s (issueWord h 0 0 0 u eff)) (done : ∀ s, P s → eff s = .done (f s)) :
    GoesOnSup i P f := by
  intro h s sup inside hP
  obtain ⟨t, inside⟩ := Option.isSome_iff_exists.mp inside
  rw [meaning, privileged_sup sup, issueWord_goesOn inside, show eff (s.setCc _) = _ from done _ hP]
  rfl

/-- A word waits inside its effect, in the state that the effect reaches. -/
theorem finish_unaged_within {h : Hdr} {t : Nat} {o : List (VReg × Nat)} {s : State} :
    finish h t ((Eff.within s).unaged o) = .next (onCore (fun c => c.setTmg fun m =>
      { m with clk := t + 1, obuf := o, inside := some (m.inside.getD c.lt), began := if m.inside.isSome then m.began else t }) s) := by
  rw [Eff.unaged, finish_within, State.cc_setCc, State.setCc_setCc]
  rfl

section
variable {s s' : State} {d a b : GReg} {swap : Bool} {k since cl : Nat} {x : Ctx} {ps : List (Nat × Nat)} {q : PTag}
  {pages : List (Nat × Policy)} {im : Image}

/-- A context instruction answers a status. -/
def answered (d : GReg) (n : Nat) (s : State) : State :=
  onCore (fun c => { c with saving := none }.slipResult (.g d (BitVec.ofNat 64 n))) s
theorem ctxDone_answers : ctxDone s d k = .done (answered d k s) := rfl

/-! ## CTXSAVE (R464) -/

/-- The effect of CTXSAVE. -/
def ctxsaveEff (d a b : GReg) (swap : Bool) (s : State) : Eff :=
  let n := s.cur
  let cl := clusterOf n
  let p : PTag := (s.cc.rdG a).setWidth 6
  let dest := s.cc.rdG b
  if dest.toNat % 65536 ≠ 0 then .trap s .align dest 0
  else match s.cc.saving with
    | none => match s.saveStatus cl p (dest == 0) swap with
      | some k => ctxDone s d k
      | none =>
        let s := s.setCc { s.cc with saving := some (s.cc.tmg.clk, p) }
        .within ((s.liveIn cl p).foldl (fun (s : State) m => (s.askYield m).tryYield m) s)
    | some (since, _) =>
      if s.saveWaits cl p then .within (s.saveTurn cl p since) else finishSave d dest p swap s
theorem exec_ctxsave_eff (d a b : GReg) (swap : Bool) (h : Hdr) (s : State) :
    exec (.ctxsave h d a b swap) s =
      privileged s (issueWord h 0 0 0 { srcs := [opG a, opG b], dsts := [opG d] } (ctxsaveEff d a b swap)) := rfl

theorem ctxsaveEff_align (bad : (s.cc.rdG b).toNat % 65536 ≠ 0) : ctxsaveEff d a b swap s = .trap s .align (s.cc.rdG b) 0 :=
  if_pos bad

section
variable (aligned : (s.cc.rdG b).toNat % 65536 = 0)
include aligned

theorem ctxsaveEff_refused (first : s.cc.saving = none)
    (refused : s.saveStatus (clusterOf s.cur) ((s.cc.rdG a).setWidth 6) (s.cc.rdG b == 0) swap = some k) :
    ctxsaveEff d a b swap s = .done (answered d k s) := by
  refine (if_neg (not_not.mpr aligned)).trans ?_
  rw [first]
  dsimp only
  rw [refused]
  rfl

theorem ctxsaveEff_begins (first : s.cc.saving = none)
    (accepted : s.saveStatus (clusterOf s.cur) ((s.cc.rdG a).setWidth 6) (s.cc.rdG b == 0) swap = none) :
    let s2 := onCore (fun c => { c with saving := some (c.tmg.clk, (s.cc.rdG a).setWidth 6) }) s
    ctxsaveEff d a b swap s = .within ((s2.liveIn (clusterOf s.cur) ((s.cc.rdG a).setWidth 6)).foldl
      (fun (s : State) m => (s.askYield m).tryYield m) s2) := by
  refine (if_neg (not_not.mpr aligned)).trans ?_
  rw [first]
  dsimp only
  rw [accepted]
  rfl

theorem ctxsaveEff_finishes (begun : s.cc.saving = some (since, q))
    (quiet : s.saveWaits (clusterOf s.cur) ((s.cc.rdG a).setWidth 6) = false) :
    ctxsaveEff d a b swap s = finishSave d (s.cc.rdG b) ((s.cc.rdG a).setWidth 6) swap s := by
  refine (if_neg (not_not.mpr aligned)).trans ?_
  rw [begun]
  exact if_neg (ne_true_of_eq_false quiet)

end

section
variable (accepted : s.saveStatus (clusterOf s.cur) q true swap = none)
include accepted

/-- An empty glen store takes the context. -/
theorem finishSave_glen (empty : (s.cluster (clusterOf s.cur)).glen = none) :
    let t := s.removeCtx (clusterOf s.cur) (s.capture (clusterOf s.cur) q)
    finishSave d 0 q swap s = .done (answered d 0 (t.setCluster (clusterOf s.cur)
      { t.cluster (clusterOf s.cur) with glen := some (s.capture (clusterOf s.cur) q) })) := by
  intro t
  rw [finishSave, if_pos rfl, accepted]
  dsimp only
  rw [empty]
  rfl

/-- A full one changes places with it, where the cluster has places for what it holds. -/
theorem finishSave_swaps (full : (s.cluster (clusterOf s.cur)).glen = some x) :
    let t := s.removeCtx (clusterOf s.cur) (s.capture (clusterOf s.cur) q)
    t.placesOf (clusterOf s.cur) x = some ps → t.anyLive ps = false →
    finishSave d 0 q swap s = .done (answered d 0 ((t.setCluster (clusterOf s.cur)
      { t.cluster (clusterOf s.cur) with glen := some (s.capture (clusterOf s.cur) q) }).restoreCtx
          (clusterOf s.cur) (clusterOf s.cur) x ps)) := by
  intro t places free
  rw [finishSave, if_pos rfl, accepted]
  dsimp only
  rw [full]
  dsimp only
  rw [show (s.removeCtx _ _).placesOf _ x = some ps from places]
  exact if_neg (ne_true_of_eq_false free)

end

theorem finishSave_image {dest : Word} (image : dest ≠ 0) (mapped : s.imagePlaces s.cur dest true = .ok pages) :
    finishSave d dest q swap s = .done (answered d 0
      ((s.writeImage s.cur (clusterOf s.cur) (s.capture (clusterOf s.cur) q) pages).removeCtx
        (clusterOf s.cur) (s.capture (clusterOf s.cur) q))) := by
  refine (if_neg image).trans ?_
  rw [mapped]
  rfl

/-! ## CTXLOAD (R465) -/

theorem loadCtx_loads {old : Nat} {taken : State → State} (places : s.placesOf (clusterOf s.cur) x = some ps)
    (free : s.anyLive ps = false) :
    loadCtx d old x s taken = .done (answered d 0 ((taken s).restoreCtx old (clusterOf s.cur) x ps)) := by
  rw [loadCtx, places]
  exact if_neg (ne_true_of_eq_false free)

theorem loadCtx_live {old : Nat} {taken : State → State} (places : s.placesOf (clusterOf s.cur) x = some ps)
    (live : s.anyLive ps = true) : loadCtx d old x s taken = .done (answered d 3 s) := by
  rw [loadCtx, places]
  exact if_pos live

theorem imageOf_some {bs : List Byte} (known : s.imageOf bs q = some im) :
    recGet bs 0 2 = 1 ∧ recGet bs 2 1 = q.setWidth 64 ∧ recGet bs 0x10 4 = (crc32 (bs.drop 64)).setWidth 64 ∧ im.ctx.ptag = q := by
  unfold State.imageOf at known
  split at known
  · next header =>
    obtain ⟨version, tag, chk⟩ := header
    have named := List.find?_some known
    rw [Bool.and_eq_true, beq_iff_eq] at named
    exact ⟨version, tag, chk, named.1⟩
  · cases known

/-! ## Yield requests and halted partitions (R197, R469, R470) -/

theorem execHaltedPartitionEnd_none {p : Fin 64}
    (none' : ((s.partCores (BitVec.ofNat 6 p.val)).filter fun n => (s.core n).mode == .faulted) = []) :
    execHaltedPartitionEnd p s = .next s := by
  rw [execHaltedPartitionEnd, none']
  rfl

theorem execHaltedPartitionEnd_ends {p : Fin 64}
    (down : ((s.partCores (BitVec.ofNat 6 p.val)).filter fun n => (s.core n).mode == .faulted) ≠ []) :
    execHaltedPartitionEnd p s = .next (((s.partCores (BitVec.ofNat 6 p.val)).filter fun n => (s.core n).mode == .faulted).foldl
      (fun (t : State) n => t.setCore n { t.core n with mode := .faulted })
      ((s.launches.filter fun y => y.ptag == BitVec.ofNat 6 p.val && (y.state == .active || y.state == .pending)).foldl
        (fun (t : State) y => t.endLaunch (y.vdev, y.lid) 5) s)) :=
  if_neg (by simpa using down)

end

end Sys2Proof.Machine

namespace Sys2Proof
open Machine Claims

/-- Settles O23: each form by the branch of its effect. -/
theorem contextForms : Obligations.ContextForms := by
  intro d a b swap k since core cl q x ps pages im p o bs s' u tag adr told idle saved
  refine ⟨?refused, ?begins, ?glen, ?swaps, ?image, ?loads, ?loadsImage, fun s => imageOf_some, ?empty, ?live, ?foreign,
    supOnly_of_privileged (exec_ctxsave_eff d a b swap), supOnly_of_privileged (fun h s => exec_ctxload h d a b s), ?align, ?yields, ?stays,
    fun s => rfl, fun s => ⟨execHaltedPartitionEnd_none, execHaltedPartitionEnd_ends⟩⟩
  case refused =>
    exact completesSup_of_privileged (exec_ctxsave_eff d a b swap) fun s ⟨aligned, first, refused⟩ =>
      ctxsaveEff_refused aligned first refused
  case begins =>
    intro h s sup issues s1 aligned first accepted s2
    refine (exec_ctxsave_eff d a b swap h s).trans ((privileged_sup sup _).trans ?_)
    rw [issueWord_of_issues issues, ctxsaveEff_begins aligned first accepted, finish_unaged_within,
      ← cc_issued h 0 0 0 u s]
    rfl
  case glen =>
    refine goesOnSup_of_privileged (exec_ctxsave_eff d a b swap) fun s ⟨⟨aligned, begun, quiet⟩, zero, empty, accepted⟩ => ?_
    rw [ctxsaveEff_finishes aligned begun quiet, show s.cc.rdG b = 0 from zero]
    exact finishSave_glen accepted empty
  case swaps =>
    refine goesOnSup_of_privileged (exec_ctxsave_eff d a b swap)
      fun s ⟨⟨aligned, begun, quiet⟩, zero, full, accepted, places, free⟩ => ?_
    rw [ctxsaveEff_finishes aligned begun quiet, show s.cc.rdG b = 0 from zero]
    exact finishSave_swaps accepted full places free
  case image =>
    exact goesOnSup_of_privileged (exec_ctxsave_eff d a b swap) fun s ⟨⟨aligned, begun, quiet⟩, image, mapped⟩ =>
      (ctxsaveEff_finishes aligned begun quiet).trans (finishSave_image image mapped)
  case loads =>
    refine completesSup_of_privileged (fun h s => exec_ctxload h d a b s) fun s ⟨zero, holds, tag, places, free⟩ => ?_
    refine (if_pos zero).trans ?_
    rw [show (s.cluster (clusterOf s.cur)).glen = some x from holds]
    exact (if_neg (not_not.mpr tag)).trans (loadCtx_loads places free)
  case live =>
    refine completesSup_of_privileged (fun h s => exec_ctxload h d a b s) fun s ⟨zero, holds, tag, places, live⟩ => ?_
    refine (if_pos zero).trans ?_
    rw [show (s.cluster (clusterOf s.cur)).glen = some x from holds]
    exact (if_neg (not_not.mpr tag)).trans (loadCtx_live places live)
  case empty =>
    refine completesSup_of_privileged (fun h s => exec_ctxload h d a b s) fun s ⟨zero, empty⟩ => ?_
    refine (if_pos zero).trans ?_
    rw [show (s.cluster (clusterOf s.cur)).glen = none from empty]
    rfl
  case loadsImage =>
    refine completesSup_of_privileged (fun h s => exec_ctxload h d a b s)
      fun s ⟨image, aligned, mapped, read, known, places, free⟩ => ?_
    refine (if_neg image).trans ((if_neg (not_not.mpr aligned)).trans ?_)
    rw [show s.imagePlaces s.cur (s.cc.rdG b) false = .ok pages from mapped]
    dsimp only
    rw [read]
    dsimp only [Option.bind_some]
    rw [show s'.imageOf bs _ = some im from known]
    exact loadCtx_loads places free
  case foreign =>
    refine completesSup_of_privileged (fun h s => exec_ctxload h d a b s) fun s ⟨image, aligned, mapped, read, foreign⟩ => ?_
    refine (if_neg image).trans ((if_neg (not_not.mpr aligned)).trans ?_)
    rw [show s.imagePlaces s.cur (s.cc.rdG b) false = .ok pages from mapped]
    dsimp only
    rw [read]
    dsimp only
    rw [show (o.bind fun bs => s'.imageOf bs _) = none from foreign]
    rfl
  case align =>
    intro h s sup issues bad
    exact (exec_ctxsave_eff d a b swap h s).trans ((privileged_sup sup _).trans (issueWord_traps issues (ctxsaveEff_align bad)))
  case yields => exact fun s runs => if_pos runs
  case stays => exact fun s notRunning notIdle => if_neg (not_or.mpr ⟨notRunning, notIdle⟩)

end Sys2Proof
end

section
/-! Launches and queues: the launch window, activation, completion, pops and ageing (R410 to R425, R510, R512). -/
namespace Sys2Proof.Machine
open Sys2Proof

section
variable {s s1 s2 s3 : State} {v : Fin 32} {lid core : Nat} {x : Launch}

/-! ## The launch window (R411, R510, R512) -/

theorem launchWrite_short {n req off : Nat} {data : List Byte} (short : data = [] ∨ off + data.length ≤ 0x78) :
    s.launchWrite n req off data = s.onVd n fun d => { d with window := patchHeader (s.vd n).window off data } :=
  if_pos (by simpa using short)

theorem launchWrite_submits {n req off : Nat} {data : List Byte} (some : data ≠ []) (covers : 0x78 < off + data.length) :
    let w := patchHeader (s.vd n).window off data
    let s0 := s.onVd n fun d => { d with window := w }
    s.launchWrite n req off data = (s0.submit n w none (s0.postedTime req)).1 :=
  if_neg (by simp [some, covers])

/-! ## Activation (R414, R423) -/

section
variable (here : s.launch? (v.val, lid) = some x)
include here

theorem execLaunchActivate_settled (settled : x.state ≠ .pending) : execLaunchActivate v lid s = .next s := by
  rw [execLaunchActivate, here]
  exact if_pos settled

variable (pending : x.state = .pending)
include pending

theorem execLaunchActivate_bad
    (bad : (s.headerBad x (if x.bulk then s.coreSet x else []).length ||
      (x.bulk && x.tooManyBarriers (if x.bulk then s.coreSet x else []))) = true) :
    execLaunchActivate v lid s = .next (s.completing x 2) := by
  rw [execLaunchActivate, here]
  exact (if_neg (not_not.mpr pending)).trans (if_pos bad)

variable (good : (s.headerBad x (if x.bulk then s.coreSet x else []).length ||
    (x.bulk && x.tooManyBarriers (if x.bulk then s.coreSet x else []))) = false)
include good

theorem execLaunchActivate_held
    (held : (s.launches.any (fun y => y.state == .pending && y.ptag == x.ptag && decide (y.order < x.order)) ||
      (x.bulk && !s.setIdle x (if x.bulk then s.coreSet x else []))) = true) :
    execLaunchActivate v lid s = .next s := by
  rw [execLaunchActivate, here]
  exact (if_neg (not_not.mpr pending)).trans ((if_neg (ne_true_of_eq_false good)).trans (if_pos held))

/-- The launch as it becomes active. -/
def State.activated (s : State) (n : Nat) (x : Launch) : Launch :=
  let lcns := (if x.bulk then s.coreSet x else []).map (s.lcnIn (some x.ptag))
  { x with state := .active, activated := true, time := if x.core.isSome then x.time else max x.time s.floor + 1
           tss := (s.guestTimes n).1, tsc := (s.guestTimes n).2, set := lcns, ran := lcns, code := some (s.codeNow x.ptag) }

theorem execLaunchActivate_begins
    (free : (s.launches.any (fun y => y.state == .pending && y.ptag == x.ptag && decide (y.order < x.order)) ||
      (x.bulk && !s.setIdle x (if x.bulk then s.coreSet x else []))) = false) :
    let y := s.activated v.val x
    let s1 := s.putLaunch y
    let s2 := if x.cdrec = 0 then s1 else s1.editDomain x.ptag ((s1.actor x.ptag).getD 0) x.cdrec openForLaunch
    let t := s2.beginWork y (if x.bulk then s.coreSet x else [])
    execLaunchActivate v lid s = .next ((t.launches.filter fun z => z.state == .pending && z.ptag == x.ptag).foldl
      (fun (u : State) z => u.owe (.launchActivate ⟨z.vdev % 32, Nat.mod_lt _ (by decide)⟩ z.lid)) t) := by
  intro y s1 s2 t
  rw [execLaunchActivate, here]
  exact (if_neg (not_not.mpr pending)).trans ((if_neg (ne_true_of_eq_false good)).trans (if_neg (ne_true_of_eq_false free)))

end

/-! ## Completion (R423 to R425) -/

theorem execLaunchComplete_works (here : s.launch? (v.val, lid) = some x)
    (works : ¬(x.state = .completing ∨ (x.state = .active ∧ s.launchDone x = true))) : execLaunchComplete v lid s = .next s := by
  rw [execLaunchComplete, here]
  exact if_neg works

theorem execLaunchComplete_ends (here : s.launch? (v.val, lid) = some x)
    (ends : x.state = .completing ∨ (x.state = .active ∧ s.launchDone x = true)) (undomained : x.cdrec = 0) :
    execLaunchComplete v lid s = (((s.putLaunch { x with state := .completing }).freeTiles (v.val, lid)).freeChannels
      { x with state := .completing }).finishLaunch { x with state := .completing } := by
  rw [execLaunchComplete, here]
  refine (if_pos ends).trans ?_
  dsimp only
  rw [if_pos (.inl (show Launch.cdrec x = 0 from undomained))]
  rfl

/-- The launch with the times of its start, where it was never active. -/
def State.timed (s : State) (x : Launch) : Launch :=
  if x.activated then x else { x with tss := (s.guestTimes x.vdev).1, tsc := (s.guestTimes x.vdev).2 }

theorem finishLaunch_finishes {g g1 g2 g3 : Agent} {bs : List Byte} (agent : s.partAgent ((s.reportTag x).getD 0) = some g) :
    let faults := s.faultyCores x
    let n := x.fcnt + faults.length
    let r := s.guestTimes x.vdev
    let sig : Word := x.hdr.extractLsb' (8 * 0x40) 64
    s.agentStore { g with time := s.maxTime } (x.hdr.extractLsb' (8 * 0x38) 64)
      (completionRecord (s.timed x) (if x.status ≠ 0 then x.status else if n = 0 then 0 else 1) n (x.firstWid faults) r.1 r.2) =
        .ok (s1, g1) →
    s1.agentBytes g1 sig 8 = .ok (s2, g2, bs) → s2.agentStore g2 sig (toBytes 8 (ofBytes 64 bs + 1#64)) = .ok (s3, g3) →
    let t := s3.signalLaunch (s.timed x) g3.time
    s.finishLaunch x = .next ({ t with ownCode := t.ownCode.filter fun z => z.1 != (x.vdev, x.lid) }.putLaunch
      { x with state := .complete, code := none }) := by
  intro faults n r sig recorded read signalled t
  have times : (if !x.activated then { x with tss := r.1, tsc := r.2 } else x) = s.timed x := by
    unfold State.timed
    cases x.activated <;> rfl
  rw [State.finishLaunch, agent]
  dsimp only
  rw [times, show State.agentStore _ _ _ _ = .ok (s1, g1) from recorded]
  dsimp only
  rw [read]
  dsimp only
  rw [signalled]

/-! ## Pops (R413, R419, R422) -/

theorem execTaskPop_busy (busy : s.searching core = none) : execTaskPop core s = .next s := by
  rw [execTaskPop, busy]

section
variable {p : PTag} {q : QueueId} {i : Nat} {e : QEntry} {es : List QEntry}

/-- What a queue offers to a pop. -/
def State.offered (s : State) (q : QueueId) : Option (QueueId × Nat × QEntry) :=
  (bestEntry (s.queue q)).bind fun i => ((s.queue q)[i]?).map fun e => (q, i, e)

theorem offered_empty (empty : (s.queue q).isEmpty = true) : s.offered q = none := by
  rw [State.offered, List.isEmpty_iff.mp empty]
  rfl

theorem execTaskPop_nothing (searching : s.searching core = some p)
    (empty : (s.searchOrder p core (s.core core).widened).all (fun q => (s.queue q).isEmpty) = true) :
    execTaskPop core s = .next s := by
  have none' : (s.searchOrder p core (s.core core).widened).findSome? s.offered = none :=
    List.findSome?_eq_none_iff.mpr fun q listed => offered_empty (List.all_eq_true.mp empty q listed)
  rw [execTaskPop, searching]
  dsimp only
  unfold State.offered at none'
  rw [none']

theorem execTaskPop_pops (searching : s.searching core = some p)
    (first : (s.searchOrder p core (s.core core).widened).find? (fun q => !(s.queue q).isEmpty) = some q)
    (best : bestEntry (s.queue q) = some i) (entry : (s.queue q)[i]? = some e) :
    execTaskPop core s = .next ((s.popAt core p q i e).offer p) := by
  obtain ⟨-, before, after, order, empties⟩ := List.find?_eq_some_iff_append.mp first
  have found : (s.searchOrder p core (s.core core).widened).findSome? s.offered = some (q, i, e) := by
    have here : s.offered q = some (q, i, e) := by simp [State.offered, best, entry]
    have none' : before.findSome? s.offered = none :=
      List.findSome?_eq_none_iff.mpr fun q listed => offered_empty (by simpa using empties q listed)
    rw [order, List.findSome?_append, none', List.findSome?_cons, here]
    rfl
  rw [execTaskPop, searching]
  dsimp only
  unfold State.offered at found
  rw [found]

theorem onLaunch_core (l : Option (Nat × Nat)) (f : Launch → Launch) (n : Nat) : (s.onLaunch l f).core n = s.core n := by
  unfold State.onLaunch
  split <;> rfl
theorem onLaunch_clk (l : Option (Nat × Nat)) (f : Launch → Launch) : (s.onLaunch l f).clk = s.clk := by
  unfold State.onLaunch
  split <;> rfl

theorem popAt_starts : ∃ k, (s.popAt core p q i e).core core = (s.core core).startTask k s.clk ∧ k.wid = e.cont.wid ∧
    k.prio = e.prio ∧ k.entry = e.cont ∧ k.launch = e.launch := by
  unfold State.popAt
  extract_lets es own x grp k skip left cont rest s1 s2 s3 inherited t
  have two : s2.core core = s.core core ∧ s2.clk = s.clk := by
    dsimp only [s2]
    split
    · exact ⟨rfl, rfl⟩
    · exact ⟨onLaunch_core .., onLaunch_clk ..⟩
  have three : s3.core core = s.core core ∧ s3.clk = s.clk :=
    ⟨(onLaunch_core ..).trans two.1, (onLaunch_clk ..).trans two.2⟩
  refine ⟨t, ?_, rfl, rfl, rfl, rfl⟩
  rw [State.core_setCore, three.1, three.2]

theorem bestEntry_best (best : bestEntry es = some i) (entry : es[i]? = some e) :
    (∀ d ∈ es, d.prio ≤ e.prio) ∧ ∀ (j : Nat) (d : QEntry), j < i → es[j]? = some d → d.prio < e.prio := by
  unfold bestEntry at best
  split at best
  · cases best
  · next m most =>
    obtain ⟨listed, isMost⟩ := List.max?_eq_some_iff.mp most
    obtain ⟨bound, hit, before⟩ := List.findIdx?_eq_some_iff_getElem.mp best
    have here : e = es[i] := by
      rw [List.getElem?_eq_getElem bound] at entry
      exact (Option.some.inj entry).symm
    have prio : e.prio = m := by
      rw [here]
      exact beq_iff_eq.mp hit
    have below (d : QEntry) (hd : d ∈ es) : d.prio ≤ e.prio := prio ▸ isMost _ (List.mem_map_of_mem hd)
    refine ⟨below, fun j d lt found => lt_of_le_of_ne (below d (List.mem_of_getElem? found)) fun same => ?_⟩
    obtain ⟨inside, rfl⟩ := List.getElem?_eq_some_iff.mp found
    exact before j lt (beq_iff_eq.mpr (same.trans prio))

/-! ## Widening and ageing (R419, R420) -/

theorem ageQueue_length (ticks limit : Nat) : (ageQueue ticks limit es).length = es.length := by
  rw [ageQueue, List.length_append, List.length_map, add_comm]
  exact (List.length_eq_length_filter_add _).symm

theorem ageQueue_keeps {ticks limit : Nat} {d : QEntry} (listed : d ∈ es) (young : 3 ≤ d.prio ∨ ticks ≤ d.tick + limit) :
    d ∈ ageQueue ticks limit es := by
  refine List.mem_append_left _ (List.mem_filter.mpr ⟨listed, ?_⟩)
  rw [Bool.not_eq_true', Bool.and_eq_false_iff, decide_eq_false_iff_not, decide_eq_false_iff_not, Nat.not_lt, Nat.not_lt]
  exact young

theorem ageQueue_raises {ticks limit : Nat} {d : QEntry} (listed : d ∈ es) (low : d.prio < 3) (late : d.tick + limit < ticks) :
    { d with prio := d.prio + 1, tick := ticks } ∈ ageQueue ticks limit es :=
  List.mem_append_right _ (List.mem_map.mpr ⟨d, List.mem_filter.mpr ⟨listed, by simp [low, late]⟩, rfl⟩)

end

end

end Sys2Proof.Machine

namespace Sys2Proof
open Machine

/-- Settles O28: each clause is a branch of its event; the queues' clauses are about the pop and the ageing of a list of entries. -/
theorem launchEvents : Obligations.LaunchEvents := by
  unfold Obligations.LaunchEvents
  intro s v req off data lid core x p q i e es limit w s0 set here bad held c
  refine ⟨fun busy => ?_, fun idle short => ?_, fun idle some covers => ?_, fun full hdr n t => submit_full full,
    fun absent => ⟨by rw [exec_launchActivate, execLaunchActivate, absent], by rw [exec_launchComplete, execLaunchComplete, absent]⟩,
    execLaunchActivate_settled, execLaunchActivate_bad, execLaunchActivate_held, execLaunchActivate_begins,
    fun single => if_neg (ne_true_of_eq_false single), execLaunchComplete_works, execLaunchComplete_ends,
    fun g s1 g1 s2 g2 bs s3 g3 => finishLaunch_finishes, execTaskPop_busy, execTaskPop_nothing, execTaskPop_pops, popAt_starts,
    bestEntry_best, fun idle late => if_pos ⟨idle, late⟩, fun stays => if_neg stays, rfl,
    ageQueue_length .., fun d => ageQueue_keeps, fun d => ageQueue_raises⟩
  · exact congrArg Host.Outcome.next (if_pos busy)
  · exact congrArg Host.Outcome.next ((if_neg (ne_true_of_eq_false idle)).trans (launchWrite_short short))
  · exact congrArg Host.Outcome.next ((if_neg (ne_true_of_eq_false idle)).trans (launchWrite_submits some covers))

end Sys2Proof
end

section
/-! The line dictionary of a link: what a sender encodes, a receiver in the same state decodes (R504, R505). -/
namespace Sys2Proof.Machine
open Sys2Proof

/-! ## Bytes -/

/-- A value of at most n bytes is its n bytes. -/
theorem ofBytes_toBytes_of_le {w n : Nat} (fits : w ≤ 8 * n) (x : BitVec w) : ofBytes w (toBytes n x) = x := by
  refine BitVec.eq_of_getLsbD_eq fun i hi => ?_
  rw [ofBytes_getLsbD _ _ hi, toBytes_getD x (by omega), BitVec.getLsbD_extractLsb', decide_eq_true (by omega), Bool.true_and]
  congr 1
  omega

/-- A line with byte i replaced. -/
def setByte (y : BitVec 1024) (i : Nat) (b : Byte) : BitVec 1024 := (y &&& ~~~((0xFF#1024) <<< (8 * i))) ||| (b.setWidth 1024 <<< (8 * i))

theorem ff_getLsbD (j : Nat) : (0xFF#1024).getLsbD j = decide (j < 8) := by
  rw [BitVec.getLsbD_ofNat, show 255 = 2 ^ 8 - 1 from rfl, Nat.testBit_two_pow_sub_one, Bool.and_eq_right_iff_imp]
  simpa using fun h : j < 8 => h.trans (by decide)

theorem setByte_getLsbD (y : BitVec 1024) (b : Byte) {i j : Nat} (hj : j < 1024) :
    (setByte y i b).getLsbD j = if j / 8 = i then b.getLsbD (j % 8) else y.getLsbD j := by
  simp only [setByte, BitVec.getLsbD_or, BitVec.getLsbD_and, BitVec.getLsbD_not, BitVec.getLsbD_shiftLeft, BitVec.getLsbD_setWidth,
    ff_getLsbD, hj, decide_true, Bool.true_and]
  split
  · next here =>
    have low : ¬ j < 8 * i := by omega
    have byte : j - 8 * i = j % 8 := by omega
    have small : j % 8 < 8 := by omega
    simp [low, byte, small, show j % 8 < 1024 by omega]
  · next other =>
    by_cases low : j < 8 * i
    · simp [low]
    · have high : 8 ≤ j - 8 * i := by omega
      simp [low, Nat.not_lt.mpr high, BitVec.getLsbD_of_ge b _ high]

/-- Replacing some bytes of a line by those of another. -/
theorem foldl_setByte_getLsbD (x : BitVec 1024) {j : Nat} (hj : j < 1024) (is : List Nat) (y : BitVec 1024) :
    (is.foldl (fun y i => setByte y i (x.extractLsb' (8 * i) 8)) y).getLsbD j = if j / 8 ∈ is then x.getLsbD j else y.getLsbD j := by
  induction is generalizing y with
  | nil => rfl
  | cons i is ih =>
    rw [List.foldl_cons, ih, setByte_getLsbD _ _ hj]
    by_cases here : j / 8 = i
    · subst here
      have bit : 8 * (j / 8) + j % 8 = j := Nat.div_add_mod j 8
      simp [bit, Nat.mod_lt]
    · simp [here]

theorem diffMask_getLsbD (x y : BitVec 1024) {i : Nat} (hi : i < 128) :
    (diffMask x y).getLsbD i = decide (x.extractLsb' (8 * i) 8 ≠ y.extractLsb' (8 * i) 8) := by
  have bits (is : List Nat) (m : BitVec 128) :
      (is.foldl (fun (m : BitVec 128) i =>
        if x.extractLsb' (8 * i) 8 = y.extractLsb' (8 * i) 8 then m else m ||| (1#128 <<< i)) m).getLsbD i =
        (m.getLsbD i || decide (i ∈ is ∧ x.extractLsb' (8 * i) 8 ≠ y.extractLsb' (8 * i) 8)) := by
    induction is generalizing m with
    | nil => simp
    | cons k is ih =>
      rw [List.foldl_cons, ih]
      by_cases here : i = k
      · subst here
        by_cases same : x.extractLsb' (8 * i) 8 = y.extractLsb' (8 * i) 8 <;> simp [same, hi]
      · have away : (1#128 <<< k).getLsbD i = false := by
          rw [BitVec.getLsbD_shiftLeft]
          by_cases low : i < k
          · simp [low]
          · have : i - k ≠ 0 := by omega
            simp [this]
        by_cases same : x.extractLsb' (8 * k) 8 = y.extractLsb' (8 * k) 8 <;> simp [same, here, away]
  rw [diffMask, bits]
  simp [hi]

/-- The bytes of a line under a mask. -/
def maskedBytes (x : BitVec 1024) (m : BitVec 128) : List Byte :=
  ((List.range 128).filter fun i => m.getLsbD i).map fun i => x.extractLsb' (8 * i) 8
theorem maskedBytes_length (x : BitVec 1024) (m : BitVec 128) : (maskedBytes x m).length = maskCount m := List.length_map _

theorem zip_map_self {α β : Type} (f : α → β) (is : List α) : is.zip (is.map f) = is.map fun i => (i, f i) := by
  induction is with
  | nil => rfl
  | cons i is ih => rw [List.map_cons, List.zip_cons_cons, ih, List.map_cons]

/-- A line is another with the bytes in which they differ replaced. -/
theorem patchMask_diff (x y : BitVec 1024) : patchMask y (diffMask y x) (maskedBytes x (diffMask y x)) = some x := by
  unfold patchMask
  rw [if_neg (by simp [maskedBytes]), maskedBytes, zip_map_self, List.foldl_map]
  refine congrArg some (BitVec.eq_of_getLsbD_eq fun j hj => (foldl_setByte_getLsbD x hj _ y).trans ?_)
  split
  · rfl
  · next same =>
    have byte : j / 8 < 128 := by omega
    rw [List.mem_filter, diffMask_getLsbD _ _ byte, decide_eq_true_iff, not_and, not_not] at same
    have bit := congrArg (·.getLsbD (j % 8)) (same (List.mem_range.mpr byte))
    simpa [BitVec.getLsbD_extractLsb', Nat.mod_lt, Nat.div_add_mod] using bit

/-! ## Records -/

theorem Dict.nearest_lt (d : Dict) (x : BitVec 1024) : (d.nearest x).1 < 64 := by
  refine List.foldlRecOn (motive := fun best : Nat × Nat => best.1 < 64) _ _ (by decide) fun best within i listed => ?_
  dsimp only
  split
  · exact List.mem_range.mp listed
  · exact within

/-- A sender's record decodes to its line, in the sender's state. -/
theorem Dict.decode_encode (d : Dict) (raw : Bool) (x : BitVec 1024) : d.decode (d.encode raw x) = some x := by
  unfold Dict.encode
  split
  · next zero => rw [zero, Dict.decode]
  · split
    · rfl
    · split
      · next last => rw [Dict.decode, last]
      · dsimp only
        split
        · next near =>
          have place : (BitVec.ofNat 6 (d.nearest x).1).toNat = (d.nearest x).1 :=
            Nat.mod_eq_of_lt (d.nearest_lt x)
          rw [Dict.decode, place]
          exact patchMask_diff x _
        · rfl

/-- A receiver in the sender's state decodes exactly the lines that were sent, and ends in its state. -/
theorem Dict.decodeAll_encodeAll (raw : Bool) (d : Dict) (items : List FrameItem) :
    d.decodeAll (d.encodeAll raw items).2 = some ((d.encodeAll raw items).1, itemLines items) := by
  induction items generalizing d with
  | nil => rfl
  | cons item items ih =>
    cases item with
    | flit y => exact ih d
    | line x =>
      rw [Dict.encodeAll]
      simp only [Dict.decodeAll, d.decode_encode raw x, ih]
      rfl

end Sys2Proof.Machine
end

section
/-! Frames on the wire: what is sent is what is read of it, where the link turns no bit over (R503, R504). -/
namespace Sys2Proof.Machine
open Sys2Proof

/-! ## The header flit -/

theorem extractLsb'_append_low {n m k : Nat} (x : BitVec n) (y : BitVec m) (a : Nat) (low : a + k ≤ m) :
    (x ++ y).extractLsb' a k = y.extractLsb' a k := by
  refine BitVec.eq_of_getLsbD_eq fun i hi => ?_
  simp [BitVec.getLsbD_append, hi, show a + i < m by omega]

theorem extractLsb'_append_high {n m k : Nat} (x : BitVec n) (y : BitVec m) (a : Nat) :
    (x ++ y).extractLsb' (m + a) k = x.extractLsb' a k := by
  refine BitVec.eq_of_getLsbD_eq fun i hi => ?_
  simp [BitVec.getLsbD_append, hi, Nat.add_assoc]

/-- The 96 bits of a header flit under its FCRC (R503). -/
def headBits (seq acke : BitVec 16) (kind len : BitVec 8) (lcrc : BitVec 32) : BitVec 96 :=
  lcrc ++ (0#16 ++ (len ++ (kind ++ (acke ++ seq))))

section
variable (seq acke : BitVec 16) (kind len : BitVec 8) (lcrc fcrc : BitVec 32)

theorem headBits_seq : (headBits seq acke kind len lcrc).extractLsb' 0 16 = seq :=
  (extractLsb'_append_low lcrc _ 0 (by decide)).trans ((extractLsb'_append_low 0#16 _ 0 (by decide)).trans
    ((extractLsb'_append_low len _ 0 (by decide)).trans ((extractLsb'_append_low kind _ 0 (by decide)).trans
      ((extractLsb'_append_low acke seq 0 (by decide)).trans BitVec.extractLsb'_eq_self))))
theorem headBits_acke : (headBits seq acke kind len lcrc).extractLsb' 16 16 = acke :=
  (extractLsb'_append_low lcrc _ 16 (by decide)).trans ((extractLsb'_append_low 0#16 _ 16 (by decide)).trans
    ((extractLsb'_append_low len _ 16 (by decide)).trans ((extractLsb'_append_low kind _ 16 (by decide)).trans
      ((extractLsb'_append_high acke seq 0).trans BitVec.extractLsb'_eq_self))))
theorem headBits_kind : (headBits seq acke kind len lcrc).extractLsb' 32 8 = kind :=
  (extractLsb'_append_low lcrc _ 32 (by decide)).trans ((extractLsb'_append_low 0#16 _ 32 (by decide)).trans
    ((extractLsb'_append_low len _ 32 (by decide)).trans
      ((extractLsb'_append_high kind (acke ++ seq) 0).trans BitVec.extractLsb'_eq_self)))
theorem headBits_len : (headBits seq acke kind len lcrc).extractLsb' 40 8 = len :=
  (extractLsb'_append_low lcrc _ 40 (by decide)).trans ((extractLsb'_append_low 0#16 _ 40 (by decide)).trans
    ((extractLsb'_append_high len (kind ++ (acke ++ seq)) 0).trans BitVec.extractLsb'_eq_self))
theorem headBits_lcrc : (headBits seq acke kind len lcrc).extractLsb' 64 32 = lcrc :=
  (extractLsb'_append_high lcrc (0#16 ++ (len ++ (kind ++ (acke ++ seq)))) 0).trans BitVec.extractLsb'_eq_self

end

/-- A header flit of its fields, over a payload (R503). -/
def headFlit (seq acke : BitVec 16) (kind len : BitVec 8) (lcrc : BitVec 32) (pay : List Byte) : BitVec 128 :=
  frameCrc (headBits seq acke kind len lcrc) pay ++ headBits seq acke kind len lcrc

theorem dataHead_eq (seq acke : BitVec 16) (lcrc : BitVec 32) (pay : List Byte) :
    dataHead seq acke lcrc pay = headFlit seq acke 0 (BitVec.ofNat 8 (pay.length / 16)) lcrc pay := rfl
theorem controlHead_eq (kind : Nat) (acke : BitVec 16) (pay : List Byte) :
    controlHead kind acke pay = headFlit 0 acke (BitVec.ofNat 8 kind) (BitVec.ofNat 8 (pay.length / 16)) 0 pay := rfl

section
variable (seq acke : BitVec 16) (kind len : BitVec 8) (lcrc : BitVec 32) (pay : List Byte)

theorem headSeq_headFlit : headSeq (headFlit seq acke kind len lcrc pay) = seq :=
  (extractLsb'_append_low _ (headBits seq acke kind len lcrc) 0 (by decide)).trans (headBits_seq ..)
theorem headAcke_headFlit : headAcke (headFlit seq acke kind len lcrc pay) = acke :=
  (extractLsb'_append_low _ (headBits seq acke kind len lcrc) 16 (by decide)).trans (headBits_acke ..)
theorem headKind_headFlit : headKind (headFlit seq acke kind len lcrc pay) = kind :=
  (extractLsb'_append_low _ (headBits seq acke kind len lcrc) 32 (by decide)).trans (headBits_kind ..)
theorem headLen_headFlit : headLen (headFlit seq acke kind len lcrc pay) = len.toNat :=
  congrArg BitVec.toNat ((extractLsb'_append_low _ (headBits seq acke kind len lcrc) 40 (by decide)).trans (headBits_len ..))
theorem headLcrc_headFlit : headLcrc (headFlit seq acke kind len lcrc pay) = lcrc :=
  (extractLsb'_append_low _ (headBits seq acke kind len lcrc) 64 (by decide)).trans (headBits_lcrc ..)
theorem soundFrame_headFlit : soundFrame (headFlit seq acke kind len lcrc pay) pay = true := by
  have bits : (headFlit seq acke kind len lcrc pay).extractLsb' 0 96 = headBits seq acke kind len lcrc :=
    (extractLsb'_append_low _ (headBits seq acke kind len lcrc) 0 (by decide)).trans BitVec.extractLsb'_eq_self
  have crc : headFcrc (headFlit seq acke kind len lcrc pay) = frameCrc (headBits seq acke kind len lcrc) pay :=
    (extractLsb'_append_high _ (headBits seq acke kind len lcrc) 0).trans BitVec.extractLsb'_eq_self
  rw [soundFrame, bits, crc]
  exact beq_self_eq_true _

end

/-! ## Records -/

/-- A record as a sender chooses it: the bytes of a DIFF are those under its mask, which names few. -/
def LineRec.Sent (r : LineRec) : Prop := ∀ i m bs, r = .diff i m bs → bs.length = maskCount m ∧ maskCount m < 96

theorem Dict.nearest_count (d : Dict) (x : BitVec 1024) (near : (d.nearest x).2 < 96) :
    maskCount (diffMask (d.entry (d.nearest x).1) x) < 96 := by
  have counted : (d.nearest x).2 < 129 → maskCount (diffMask (d.entry (d.nearest x).1) x) = (d.nearest x).2 := by
    refine List.foldlRecOn (motive := fun best : Nat × Nat => best.2 < 129 → maskCount (diffMask (d.entry best.1) x) = best.2) _ _
      (fun none => absurd none (by decide)) fun best counted i _ => ?_
    dsimp only
    split
    · exact fun _ => rfl
    · exact counted
  rw [counted (near.trans (by decide))]
  exact near

theorem Dict.encode_sent (d : Dict) (raw : Bool) (x : BitVec 1024) : (d.encode raw x).Sent := by
  intro i m bs diff
  unfold Dict.encode at diff
  split at diff
  · cases diff
  · split at diff
    · cases diff
    · split at diff
      · cases diff
      · dsimp only at diff
        split at diff
        · next near =>
          obtain ⟨-, rfl, rfl⟩ := LineRec.diff.inj diff
          exact ⟨maskedBytes_length x _, d.nearest_count x near⟩
        · cases diff

theorem LineRec.bytes_length (r : LineRec) (sent : r.Sent) : r.bytes.length ≤ 129 := by
  cases r with
  | raw x => simp [LineRec.bytes, lineBytes]
  | zero => simp [LineRec.bytes]
  | diff i m bs =>
    obtain ⟨length, few⟩ := sent i m bs rfl
    simp [LineRec.bytes, length]
    omega
  | rep => simp [LineRec.bytes]

theorem diffCode_kind (i : BitVec 6) : (0x80#8 ||| i.setWidth 8).extractLsb' 6 2 = 2 := by
  revert i
  decide
theorem diffCode_entry (i : BitVec 6) : (0x80#8 ||| i.setWidth 8).extractLsb' 0 6 = i := by
  revert i
  decide

/-- A record is read back from its bytes, whatever follows them. -/
theorem parseRec_bytes (r : LineRec) (sent : r.Sent) (tail : List Byte) : parseRec (r.bytes ++ tail) = some (r, tail) := by
  cases r with
  | raw x =>
    have whole : ofBytes 1024 (toBytes 128 x) = x := ofBytes_toBytes_of_le (by decide) x
    simp [LineRec.bytes, parseRec, lineBytes, whole]
  | zero => rfl
  | diff i m bs =>
    obtain ⟨length, -⟩ := sent i m bs rfl
    have mask : ofBytes 128 (toBytes 16 m) = m := ofBytes_toBytes_of_le (by decide) m
    have rest : (toBytes 16 m ++ (bs ++ tail)).drop (16 + bs.length) = tail := by
      rw [← List.append_assoc]
      exact List.drop_left' (by simp)
    simp [LineRec.bytes, parseRec, diffCode_kind, diffCode_entry, mask, ← length, rest]
  | rep => rfl

/-! ## Payloads -/

/-- The header flits of a frame. -/
def itemFlits (xs : List FrameItem) : List (BitVec 128) := xs.filterMap fun x => match x with
  | .flit y => some y
  | .line _ => none

theorem fillItems_self (xs : List FrameItem) : fillItems xs (itemFlits xs) (itemLines xs) = xs := by
  induction xs with
  | nil => rfl
  | cons x xs ih => cases x <;> exact congrArg _ ih

/-- A payload is read back, whatever follows it. -/
theorem parseItems_itemBytes (raw : Bool) (d : Dict) (xs : List FrameItem) (tail : List Byte) :
    parseItems xs (itemBytes xs (d.encodeAll raw xs).2 ++ tail) = some (itemFlits xs, (d.encodeAll raw xs).2) := by
  induction xs generalizing d with
  | nil => rfl
  | cons x xs ih =>
    cases x with
    | flit y =>
      have flit : ofBytes 128 (toBytes 16 y) = y := ofBytes_toBytes_of_le (by decide) y
      simp [Dict.encodeAll, itemBytes, parseItems, ih d, flit, itemFlits]
    | line y =>
      simp only [Dict.encodeAll, itemBytes, parseItems, List.append_assoc, parseRec_bytes _ (d.encode_sent raw y), ih]
      rfl

/-- What an item may take of a frame. -/
def itemSize : FrameItem → Nat
  | .flit _ => 16
  | .line _ => 129
theorem itemRoom_eq (xs : List FrameItem) : itemRoom xs = (xs.map itemSize).sum := by
  have from_ (xs : List FrameItem) (n : Nat) : xs.foldl (fun n x => n + itemSize x) n = n + (xs.map itemSize).sum := by
    induction xs generalizing n with
    | nil => rfl
    | cons x xs ih => rw [List.foldl_cons, ih, List.map_cons, List.sum_cons, Nat.add_assoc]
  have same : itemRoom xs = xs.foldl (fun n x => n + itemSize x) 0 := by
    unfold itemRoom
    congr 1
  rw [same, from_, Nat.zero_add]

theorem itemBytes_length (raw : Bool) (d : Dict) (xs : List FrameItem) : (itemBytes xs (d.encodeAll raw xs).2).length ≤ itemRoom xs := by
  rw [itemRoom_eq]
  induction xs generalizing d with
  | nil => exact Nat.zero_le _
  | cons x xs ih =>
    cases x with
    | flit y =>
      simp only [Dict.encodeAll, itemBytes, List.length_append, toBytes_length, List.map_cons, List.sum_cons, itemSize]
      exact Nat.add_le_add_left (ih d) 16
    | line y =>
      simp only [Dict.encodeAll, itemBytes, List.length_append, List.map_cons, List.sum_cons, itemSize]
      exact Nat.add_le_add (LineRec.bytes_length _ (d.encode_sent raw y)) (ih _)

/-- A frame that fits holds whole flits, at most 31. -/
theorem padFlits_length {bs : List Byte} (fits : bs.length ≤ 31 * 16) :
    16 * ((padFlits bs).length / 16) = (padFlits bs).length ∧ (padFlits bs).length / 16 < 256 := by
  rw [padFlits, List.length_append, List.length_replicate]
  omega

/-! ## Frames without errors -/

/-- A data frame that arrives as it was sent: its header flit and its payload. -/
theorem arrivedFrame_clean (raw : Bool) (d : Dict) (f : Frame) (acke : BitVec 16) (head : f.headErr = 0) (pay : f.payErr = [])
    (fits : fitsFrame f.items = true) :
    let bytes := padFlits (itemBytes f.items (d.encodeAll raw f.items).2)
    arrivedFrame f { seq := f.seq, items := f.items, recs := (d.encodeAll raw f.items).2 } acke =
      (headFlit f.seq acke 0 (BitVec.ofNat 8 (bytes.length / 16)) (linesCrc (itemLines f.items)) bytes, bytes) := by
  intro bytes
  obtain ⟨whole, few⟩ := padFlits_length ((itemBytes_length raw d f.items).trans (of_decide_eq_true fits))
  have len : (BitVec.ofNat 8 (bytes.length / 16)).toNat = bytes.length / 16 := Nat.mod_eq_of_lt few
  have clean : f.headErr = 0#128 := head
  unfold arrivedFrame
  dsimp only
  rw [clean, pay, BitVec.xor_zero, dataHead_eq, headLen_headFlit, len, whole]
  exact Prod.ext rfl (List.take_length ..)

/-- The fields of a control frame that arrives as it was sent. -/
theorem controlHead_arrives (kind : Nat) (acke : BitVec 16) (pay : List Byte) :
    (ofBytes 128 ((toBytes 16 (controlHead kind acke pay) ++ pay).take 16) = controlHead kind acke pay) ∧
      (toBytes 16 (controlHead kind acke pay) ++ pay).drop 16 = pay := by
  have whole : ofBytes 128 (toBytes 16 (controlHead kind acke pay)) = controlHead kind acke pay := ofBytes_toBytes_of_le (by decide) _
  simp [whole]

end Sys2Proof.Machine
end

section
/-! Links: acceptance, acknowledgement, replay, reset, retraining and routes (R493, R503 to R508). -/
namespace Sys2Proof.Machine
open Sys2Proof

section
variable {s t : State} {i : Nat} {k j : Fin 2}

/-! ## Links and their directions -/

theorem link_onLink (f : Link → Link) : (s.onLink i f).link i = f (s.link i) := Tab.get_set_self ..
theorem linkDir_onDir (f : LinkDir → LinkDir) : (s.onDir i k f).linkDir i k = f (s.linkDir i k) := by
  rw [State.linkDir, State.onDir, link_onLink]
  exact Vector.getElem_set_self _
theorem linkDir_onDir_ne (f : LinkDir → LinkDir) (other : j ≠ k) : (s.onDir i k f).linkDir i j = s.linkDir i j := by
  rw [State.linkDir, State.onDir, link_onLink]
  exact Vector.getElem_set_ne k.isLt j.isLt fun same => other (Fin.ext same.symm)
theorem otherDir_ne (k : Fin 2) : otherDir k ≠ k := by
  revert k
  decide
theorem otherDir_otherDir (k : Fin 2) : otherDir (otherDir k) = k := by
  revert k
  decide

/-- From `d` to `e` a direction's sender stays with its number and encoding state, and its receiver with what it has accepted. -/
structure DirKept (d e : LinkDir) : Prop where
  delivered : e.delivered = d.delivered
  expect : e.expect = d.expect
  dict : e.dict = d.dict
  next : e.next = d.next
  tip : e.tip = d.tip
  noted : d.noted = true → e.noted = true

theorem DirKept.refl (d : LinkDir) : DirKept d d := ⟨rfl, rfl, rfl, rfl, rfl, id⟩
theorem DirKept.trans {d e f : LinkDir} (a : DirKept d e) (b : DirKept e f) : DirKept d f :=
  ⟨b.delivered.trans a.delivered, b.expect.trans a.expect, b.dict.trans a.dict, b.next.trans a.next, b.tip.trans a.tip,
    b.noted ∘ a.noted⟩

theorem LinkDir.commit_kept (d : LinkDir) (a : BitVec 16) : DirKept d (d.commit a) := by
  unfold LinkDir.commit
  split
  · exact ⟨rfl, rfl, rfl, rfl, rfl, id⟩
  · exact .refl d

/-- So do both directions of a link, whose count of resets stays too. -/
structure LinkKept (i : Nat) (s t : State) : Prop where
  dirs : ∀ j, DirKept (s.linkDir i j) (t.linkDir i j)
  resets : (t.link i).resets = (s.link i).resets

theorem LinkKept.refl (i : Nat) (s : State) : LinkKept i s s := ⟨fun _ => .refl _, rfl⟩
theorem LinkKept.trans {u : State} (a : LinkKept i s t) (b : LinkKept i t u) : LinkKept i s u :=
  ⟨fun j => (a.dirs j).trans (b.dirs j), b.resets.trans a.resets⟩
theorem LinkKept.ite {p : Prop} [Decidable p] {u : State} (a : LinkKept i s t) (b : LinkKept i s u) :
    LinkKept i s (if p then t else u) := by
  split <;> assumption
/-- No link changes. -/
theorem LinkKept.of_links (same : t.links = s.links) : LinkKept i s t := by
  have link : t.link i = s.link i := by rw [State.link, State.link, same]
  have dir (j : Fin 2) : t.linkDir i j = s.linkDir i j := by rw [State.linkDir, State.linkDir, link]
  exact ⟨fun j => dir j ▸ .refl _, congrArg Link.resets link⟩
theorem LinkKept.onDir {f : LinkDir → LinkDir} (kept : ∀ d, DirKept d (f d)) : LinkKept i s (s.onDir i k f) := by
  refine ⟨fun j => ?_, by rw [State.onDir, link_onLink]⟩
  by_cases same : j = k
  · rw [same, linkDir_onDir]
    exact kept _
  · rw [linkDir_onDir_ne f same]
    exact .refl _

theorem State.suspect_links (s : State) (u : SuspUnit) (n : Nat) : (s.suspect u n).links = s.links := by
  unfold State.suspect
  dsimp only
  split <;> rfl
theorem State.suspect_linkKept (s : State) (u : SuspUnit) (n : Nat) : LinkKept i s (s.suspect u n) := .of_links (s.suspect_links u n)
theorem State.owe_linkKept (s : State) (e : Instr) : LinkKept i s (s.owe e) := .of_links rfl

end

/-! ## Control frames (R503, R506, R507) -/

section
variable {s : State} {i : Fin 50} {k : Fin 2} {acke : BitVec 16}

theorem acknowledge_linkKept (s : State) (i : Fin 50) (k : Fin 2) (a : BitVec 16) : LinkKept i.val s (s.acknowledge i k a) :=
  .onDir fun d => d.commit_kept a

/-- An acknowledgement concerns the other direction only. -/
theorem linkDir_acknowledge : (s.acknowledge i k acke).linkDir i.val k = s.linkDir i.val k := linkDir_onDir_ne _ (otherDir_ne k).symm

theorem noted_kept (d : LinkDir) : DirKept d { d with noted := true } := ⟨rfl, rfl, rfl, rfl, rfl, fun _ => rfl⟩

theorem controlFrame_linkKept (i : Fin 50) (fuel : Nat) (s : State) (k : Fin 2) (kind : Nat) (acke : BitVec 16) (pay : List Byte) :
    LinkKept i.val s (State.controlFrame fuel s i k kind acke pay) := by
  induction fuel generalizing s k kind acke pay with
  | zero => exact .refl _ s
  | succ fuel ih =>
    have drawn : LinkKept i.val s { s with draws := s.draws + 1 } := .of_links rfl
    have discards (u : State) : LinkKept i.val u (if (u.linkDir i.val k).noted then u else
        State.controlFrame fuel (u.onDir i.val k fun d => { d with noted := true }) i (otherDir k) 2 (u.linkDir i.val k).expect []) :=
      .ite (.refl _ u) ((LinkKept.onDir noted_kept).trans (ih ..))
    rw [State.controlFrame]
    refine .ite (drawn.trans ((State.suspect_linkKept ..).trans (discards _))) ?_
    have acknowledged (a : BitVec 16) := drawn.trans (acknowledge_linkKept { s with draws := s.draws + 1 } i k a)
    dsimp only
    split
    · exact (acknowledged _).trans (State.owe_linkKept ..)
    · exact (acknowledged _).trans (State.owe_linkKept ..)
    · exact (acknowledged _).trans (State.owe_linkKept ..)
    · exact (acknowledged _).trans (State.owe_linkKept ..)
    · exact (acknowledged _).trans (discards _)

theorem sendControl_linkKept (s : State) (i : Fin 50) (k : Fin 2) (kind : Nat) (acke : BitVec 16) (pay : List Byte) :
    LinkKept i.val s (s.sendControl i k kind acke pay) := controlFrame_linkKept i 3 ..

/-- What a control frame asks for (R503). -/
def controlEvent (i : Fin 50) (k : Fin 2) (kind : Nat) (acke : BitVec 16) (pay : List Byte) : Option Instr :=
  match kind with
  | 1 => some (.probe i k)
  | 2 => some (.replayRequest i (otherDir k) acke)
  | 3 => some (.digest i k (ofBytes 16 (pay.take 2)) (ofBytes 64 ((pay.drop 8).take 8)))
  | 4 => some (.resetRequest i (otherDir k) acke)
  | _ => none

/-- A control frame that arrives as it was sent acknowledges, and is what its KIND says. -/
theorem sendControl_arrives {kind : Nat} {pay : List Byte} {e : Instr} (clean : Config.wireErrors s.draws = [])
    (whole : 16 * (pay.length / 16) = pay.length) (few : pay.length / 16 < 256) (asks : controlEvent i k kind acke pay = some e) :
    s.sendControl i k kind acke pay = (State.acknowledge { s with draws := s.draws + 1 } i k acke).owe e := by
  obtain ⟨head, body⟩ := controlHead_arrives kind acke pay
  have len : headLen (controlHead kind acke pay) = pay.length / 16 := (headLen_headFlit ..).trans (Nat.mod_eq_of_lt few)
  have sound : soundFrame (controlHead kind acke pay) pay = true := soundFrame_headFlit ..
  have acks : headAcke (controlHead kind acke pay) = acke := headAcke_headFlit ..
  have names : headKind (controlHead kind acke pay) = BitVec.ofNat 8 kind := headKind_headFlit ..
  rw [State.sendControl, State.controlFrame, clean]
  simp only [flipBytes, List.foldl_nil, head, body, len, whole, List.take_length, sound, acks, names]
  unfold controlEvent at asks
  split at asks
  · cases asks; rfl
  · cases asks; rfl
  · cases asks; rfl
  · cases asks; rfl
  · cases asks

/-! ## Data frames (R506, R507) -/

theorem discardFrame_linkKept (s : State) (i : Fin 50) (k : Fin 2) : LinkKept i.val s (s.discardFrame i k) :=
  .ite (.refl _ s) ((LinkKept.onDir noted_kept).trans (sendControl_linkKept ..))
theorem discardFrame_noted : ((s.discardFrame i k).linkDir i.val k).noted = true := by
  unfold State.discardFrame
  dsimp only
  split
  · next noted => exact noted
  · refine ((sendControl_linkKept ..).dirs k).noted ?_
    rw [linkDir_onDir]

theorem receiveFrame_unsound {shape : List FrameItem} {h : BitVec 128} {pay : List Byte} (bad : soundFrame h pay = false) :
    s.receiveFrame i k shape h pay = (s.suspect (.link i) 16).discardFrame i k :=
  if_pos (by rw [bad]; rfl)
theorem receiveFrame_data {shape : List FrameItem} {h : BitVec 128} {pay : List Byte} (sound : soundFrame h pay = true)
    (kind : headKind h = 0) :
    s.receiveFrame i k shape h pay = (s.acknowledge i k (headAcke h)).receiveData i k shape h pay := by
  rw [State.receiveFrame, if_neg (by simp [sound]), kind]
  rfl

theorem receiveData_other {shape : List FrameItem} {h : BitVec 128} {pay : List Byte}
    (other : headSeq h ≠ (s.linkDir i.val k).expect) : s.receiveData i k shape h pay = s.discardFrame i k := if_pos other

section
variable {shape : List FrameItem} {h : BitVec 128} {pay : List Byte} {flits : List (BitVec 128)} {recs : List LineRec} {dict : Dict}
  {lines : List (BitVec 1024)} (turn : headSeq h = (s.linkDir i.val k).expect) (parsed : parseItems shape pay = some (flits, recs))
  (decoded : (s.linkDir i.val k).dict.decodeAll recs = some (dict, lines))
include turn parsed decoded

theorem receiveData_mismatch (wrong : linesCrc lines ≠ headLcrc h) : s.receiveData i k shape h pay = s.mismatch i k := by
  refine (if_neg (not_not.mpr turn)).trans ?_
  rw [parsed]
  dsimp only
  rw [decoded]
  exact if_pos wrong

/-- The receiver of a frame that it accepts. -/
def LinkDir.accept (d : LinkDir) (seq : BitVec 16) (dict : Dict) (items : List FrameItem) : LinkDir :=
  { d with dict := dict, expect := d.expect + 1, noted := false, delivered := d.delivered ++ items
           digest := if seq.toNat % 256 = 255 then some (seq, dict.digest) else d.digest }

theorem receiveData_accepts (right : linesCrc lines = headLcrc h) :
    s.receiveData i k shape h pay = s.onDir i.val k fun d => d.accept (headSeq h) dict (fillItems shape flits lines) := by
  refine (if_neg (not_not.mpr turn)).trans ?_
  rw [parsed]
  dsimp only
  rw [decoded]
  exact if_neg (not_not.mpr right)

end

/-- The receiver's part of a reset, which is counted. -/
def State.resetDir (s : State) (i : Fin 50) (k : Fin 2) : State :=
  (s.onLink i.val fun l => { l with resets := satInc l.resets }).onDir i.val k fun d => { d with dict := {}, noted := true, digest := none }

theorem mismatch_linkKept (s : State) (i : Fin 50) (k : Fin 2) : LinkKept i.val (s.resetDir i k) (s.mismatch i k) :=
  (State.suspect_linkKept (s.resetDir i k) (.link i) 16).trans
    (sendControl_linkKept ((s.resetDir i k).suspect (.link i) 16) i (otherDir k) 4 ((s.resetDir i k).linkDir i.val k).expect [])

/-- A mismatch resets the receiver's dictionary, and is counted. -/
theorem mismatch_resets (s : State) (i : Fin 50) (k : Fin 2) :
    ((s.mismatch i k).linkDir i.val k).delivered = (s.linkDir i.val k).delivered ∧
      ((s.mismatch i k).linkDir i.val k).expect = (s.linkDir i.val k).expect ∧ ((s.mismatch i k).linkDir i.val k).dict = {} ∧
      ((s.mismatch i k).link i.val).resets = satInc (s.link i.val).resets := by
  have dir : (s.resetDir i k).linkDir i.val k = { s.linkDir i.val k with dict := {}, noted := true, digest := none } := by
    rw [State.resetDir, linkDir_onDir, State.linkDir, State.linkDir, link_onLink]
  have resets : ((s.resetDir i k).link i.val).resets = satInc (s.link i.val).resets := by
    rw [State.resetDir, State.onDir, link_onLink, link_onLink]
  have kept := mismatch_linkKept s i k
  obtain ⟨delivered, expect, dict, -, -, -⟩ := kept.dirs k
  rw [dir] at delivered expect dict
  exact ⟨delivered, expect, dict, kept.resets.trans resets⟩

end

/-! ## A frame that is sent for the first time (R503 to R507) -/

section
variable {s : State} {link : Fin 50} {dir : Fin 2} {f : Frame}

/-- A sender may send a frame: it carries the next number, which none that is kept has, and it fits. -/
def LinkDir.fresh (d : LinkDir) (f : Frame) : Bool :=
  f.seq == d.next && decide (d.unacked.length < 64) && !(d.unacked.any fun k => k.seq == f.seq) && fitsFrame f.items

/-- The frame as its sender keeps it. -/
def LinkDir.sent (d : LinkDir) (f : Frame) : SentFrame := { seq := f.seq, items := f.items, recs := (d.tip.encodeAll false f.items).2 }

theorem LinkDir.fresh_iff {d : LinkDir} : d.fresh f = true ↔
    f.seq = d.next ∧ d.unacked.length < 64 ∧ (∀ k ∈ d.unacked, k.seq ≠ f.seq) ∧ fitsFrame f.items = true := by
  simp [LinkDir.fresh, and_assoc]

theorem LinkDir.find_send {d : LinkDir} (fresh : d.fresh f = true) :
    (d.send f.items).unacked.find? (fun x => x.seq == f.seq) = some (d.sent f) := by
  obtain ⟨number, -, new, -⟩ := LinkDir.fresh_iff.mp fresh
  have before : d.unacked.find? (fun x => x.seq == f.seq) = none := List.find?_eq_none.mpr fun k listed => by simpa using new k listed
  rw [LinkDir.send, List.find?_append, before, ← number]
  simp [LinkDir.sent]

/-- What the receiver makes of it, before its digest is sent. -/
def State.firstFrame (s : State) (link : Fin 50) (dir : Fin 2) (f : Frame) : State :=
  let w := arrivedFrame f ((s.linkDir link.val dir).sent f) (s.linkDir link.val (otherDir dir)).expect
  (s.onDir link.val dir fun d => d.send f.items).receiveFrame link dir f.items w.1 w.2

theorem execDataFrameReceive_first (fresh : (s.linkDir link.val dir).fresh f = true) :
    ∃ t, execDataFrameReceive link dir f s = .next t ∧ LinkKept link.val (s.firstFrame link dir f) t ∧
      (f.seq.toNat % 256 ≠ 255 → t = s.firstFrame link dir f) := by
  have sends : (if (s.linkDir link.val dir).fresh f = true then s.onDir link.val dir fun d => d.send f.items else s) =
      s.onDir link.val dir fun d => d.send f.items := if_pos fresh
  unfold LinkDir.fresh at sends
  unfold execDataFrameReceive
  dsimp only
  rw [sends, linkDir_onDir, LinkDir.find_send fresh]
  refine ⟨_, rfl, ?_, fun middle => if_neg middle⟩
  exact .ite (sendControl_linkKept ..) (.refl _ _)

theorem execDataFrameReceive_unknown (stale : (s.linkDir link.val dir).fresh f = false)
    (free : (s.linkDir link.val dir).unacked.all (fun k => k.seq != f.seq) = true) : execDataFrameReceive link dir f s = .next s := by
  have none' : (s.linkDir link.val dir).unacked.find? (fun x => x.seq == f.seq) = none :=
    List.find?_eq_none.mpr fun k listed => by simpa using List.all_eq_true.mp free k listed
  have stays : (if (s.linkDir link.val dir).fresh f = true then s.onDir link.val dir fun d => d.send f.items else s) = s :=
    if_neg (ne_true_of_eq_false stale)
  unfold LinkDir.fresh at stays
  unfold execDataFrameReceive
  dsimp only
  rw [stays, none']

/-- The direction as the frame leaves its sender and acknowledges the other one. -/
theorem linkDir_sent (a : BitVec 16) :
    (State.acknowledge (s.onDir link.val dir fun d => d.send f.items) link dir a).linkDir link.val dir =
      (s.linkDir link.val dir).send f.items := by
  rw [linkDir_acknowledge, linkDir_onDir]

/-- A frame that arrives as it was sent, at its turn and with the dictionaries alike, is accepted. -/
theorem firstFrame_delivers (fresh : (s.linkDir link.val dir).fresh f = true) (head : f.headErr = 0) (pay : f.payErr = [])
    (turn : f.seq = (s.linkDir link.val dir).expect) (alike : (s.linkDir link.val dir).dict = (s.linkDir link.val dir).tip) :
    (s.firstFrame link dir f).linkDir link.val dir = ((s.linkDir link.val dir).send f.items).accept f.seq
      ((s.linkDir link.val dir).tip.encodeAll false f.items).1 f.items := by
  obtain ⟨-, -, -, fits⟩ := LinkDir.fresh_iff.mp fresh
  have parsed : parseItems f.items (padFlits (itemBytes f.items ((s.linkDir link.val dir).tip.encodeAll false f.items).2)) =
      some (itemFlits f.items, ((s.linkDir link.val dir).tip.encodeAll false f.items).2) :=
    parseItems_itemBytes false (s.linkDir link.val dir).tip f.items _
  have decoded : (s.linkDir link.val dir).dict.decodeAll ((s.linkDir link.val dir).tip.encodeAll false f.items).2 =
      some (((s.linkDir link.val dir).tip.encodeAll false f.items).1, itemLines f.items) := by
    rw [alike]
    exact Dict.decodeAll_encodeAll false (s.linkDir link.val dir).tip f.items
  rw [State.firstFrame, LinkDir.sent, arrivedFrame_clean false _ f _ head pay fits]
  dsimp only
  rw [receiveFrame_data (soundFrame_headFlit ..) (headKind_headFlit ..), headAcke_headFlit,
    receiveData_accepts (by rw [headSeq_headFlit, linkDir_sent]; exact turn) parsed (by rw [linkDir_sent]; exact decoded)
      (headLcrc_headFlit ..).symm,
    linkDir_onDir, linkDir_sent, headSeq_headFlit, fillItems_self]

/-- A frame that is not accepted leaves its receiver as it was, but for the note of the discard. -/
theorem firstFrame_discards
    (bad : let w := arrivedFrame f ((s.linkDir link.val dir).sent f) (s.linkDir link.val (otherDir dir)).expect
      soundFrame w.1 w.2 = false ∨ (soundFrame w.1 w.2 = true ∧ headKind w.1 = 0) ∧ headSeq w.1 ≠ (s.linkDir link.val dir).expect) :
    DirKept ((s.linkDir link.val dir).send f.items) ((s.firstFrame link dir f).linkDir link.val dir) ∧
      ((s.firstFrame link dir f).linkDir link.val dir).noted = true := by
  unfold State.firstFrame
  extract_lets w
  rcases bad with unsound | ⟨⟨sound, kind⟩, other⟩
  · rw [receiveFrame_unsound unsound]
    refine ⟨?_, discardFrame_noted⟩
    have kept := ((State.suspect_linkKept (i := link.val) (s.onDir link.val dir fun d => d.send f.items) (.link link) 16).trans
      (discardFrame_linkKept _ link dir)).dirs dir
    rwa [linkDir_onDir] at kept
  · have away : headSeq w.1 ≠ ((State.acknowledge (s.onDir link.val dir fun d => d.send f.items) link dir
        (headAcke w.1)).linkDir link.val dir).expect := by
      rw [linkDir_sent]
      exact other
    rw [receiveFrame_data sound kind, receiveData_other away]
    refine ⟨?_, discardFrame_noted⟩
    have kept := (discardFrame_linkKept (State.acknowledge (s.onDir link.val dir fun d => d.send f.items) link dir (headAcke w.1))
      link dir).dirs dir
    rwa [linkDir_sent] at kept

/-- A frame at its turn whose lines do not match its LCRC resets the dictionary. -/
theorem firstFrame_resets {flits : List (BitVec 128)} {recs : List LineRec} {dict : Dict} {lines : List (BitVec 1024)} :
    let d := s.linkDir link.val dir
    let w := arrivedFrame f (d.sent f) (s.linkDir link.val (otherDir dir)).expect
    soundFrame w.1 w.2 = true ∧ headKind w.1 = 0 → headSeq w.1 = d.expect → parseItems f.items w.2 = some (flits, recs) →
    d.dict.decodeAll recs = some (dict, lines) → linesCrc lines ≠ headLcrc w.1 →
    let e := (s.firstFrame link dir f).linkDir link.val dir
    e.delivered = d.delivered ∧ e.expect = d.expect ∧ e.dict = {} ∧
      ((s.firstFrame link dir f).link link.val).resets = satInc (s.link link.val).resets := by
  intro d w ⟨sound, kind⟩ turn parsed decoded wrong
  have first : s.firstFrame link dir f =
      (State.acknowledge (s.onDir link.val dir fun d => d.send f.items) link dir (headAcke w.1)).mismatch link dir :=
    (receiveFrame_data sound kind).trans (receiveData_mismatch (by rw [linkDir_sent]; exact turn) parsed
      (by rw [linkDir_sent]; exact decoded) wrong)
  obtain ⟨delivered, expect, reset, resets⟩ :=
    mismatch_resets (State.acknowledge (s.onDir link.val dir fun d => d.send f.items) link dir (headAcke w.1)) link dir
  have sent : ((State.acknowledge (s.onDir link.val dir fun d => d.send f.items) link dir (headAcke w.1)).link link.val).resets =
      (s.link link.val).resets := by
    rw [State.acknowledge, State.onDir, link_onLink, State.onDir, link_onLink]
  rw [linkDir_sent] at delivered expect
  dsimp only
  rw [first]
  exact ⟨delivered, expect, reset, resets.trans (congrArg satInc sent)⟩

end

end Sys2Proof.Machine
end

section
/-! Links, continued: replay, digests, resets and retraining (R506 to R508). -/
namespace Sys2Proof.Machine
open Sys2Proof

section
variable {s : State} {i : Fin 50} {k : Fin 2}

/-- What each step of a fold leaves as it was, the fold does. -/
theorem State.foldl_keeps {α β : Type} {f : State → α → State} (g : State → β) (same : ∀ s x, g (f s x) = g s) (xs : List α)
    (s : State) : g (xs.foldl f s) = g s := by
  induction xs generalizing s with
  | nil => rfl
  | cons x xs ih => exact (ih (f s x)).trans (same s x)

theorem State.resend_links (s : State) (i : Fin 50) (k : Fin 2) : (s.resend i k).links = s.links :=
  State.foldl_keeps (f := fun s (x : SentFrame) => s.owe (.dataFrameReceive i k { seq := x.seq, items := x.items })) State.links
    (fun _ _ => rfl) ..

theorem State.link_of_links {t : State} (same : t.links = s.links) (n : Nat) : t.link n = s.link n := by
  rw [State.link, State.link, same]

theorem replayRequest_resends (acke : BitVec 16) (s : State) : ∃ t, execReplayRequest i k acke s = .next t ∧
    t.linkDir i.val k = ((s.linkDir i.val k).commit acke).reencode false ∧
    (t.link i.val).replays = satInc (s.link i.val).replays ∧ (t.link i.val).up = (s.link i.val).up := by
  refine ⟨_, rfl, ?_⟩
  have link := State.link_of_links (State.resend_links ((s.onLink i.val fun l => { l with replays := satInc l.replays }).onDir i.val k
    fun d => (d.commit acke).reencode false) i k) i.val
  rw [State.linkDir, link]
  refine ⟨?_, ?_, ?_⟩
  · rw [← State.linkDir, linkDir_onDir, State.linkDir, link_onLink]
    rfl
  · rw [State.onDir, link_onLink, link_onLink]
  · rw [State.onDir, link_onLink, link_onLink]

theorem resetRequest_resends (acke : BitVec 16) (s : State) : ∃ t, execResetRequest i k acke s = .next t ∧
    t.linkDir i.val k = LinkDir.reencode { (s.linkDir i.val k).commit acke with base := {} } true := by
  refine ⟨_, rfl, ?_⟩
  rw [State.linkDir, State.link_of_links (State.resend_links ..), ← State.linkDir, linkDir_onDir]

/-! ## Digests (R506, R507) -/

theorem linkDir_back (s : State) (i : Fin 50) (k : Fin 2) :
    (s.acknowledge i k (s.linkDir i.val (otherDir k)).expect).linkDir i.val k = s.linkDir i.val k := linkDir_acknowledge
theorem link_acknowledge_resets (s : State) (i : Fin 50) (k : Fin 2) (a : BitVec 16) :
    ((s.acknowledge i k a).link i.val).resets = (s.link i.val).resets := (acknowledge_linkKept s i k a).resets

theorem execDigest_ignores {dseq : BitVec 16} {dig : BitVec 64} (unknown : (s.linkDir i.val k).digest = none) :
    execDigest i k dseq dig s = .next (s.acknowledge i k (s.linkDir i.val (otherDir k)).expect) := by
  unfold execDigest
  dsimp only
  rw [linkDir_back, unknown]

theorem execDigest_compares {dseq q : BitVec 16} {dig y : BitVec 64} (known : (s.linkDir i.val k).digest = some (q, y)) :
    execDigest i k dseq dig s = .next (if q = dseq ∧ y ≠ dig then
      (s.acknowledge i k (s.linkDir i.val (otherDir k)).expect).mismatch i k
      else s.acknowledge i k (s.linkDir i.val (otherDir k)).expect) := by
  unfold execDigest
  dsimp only
  rw [linkDir_back, known]

theorem execDigest_agrees {dseq q : BitVec 16} {dig y : BitVec 64} (known : (s.linkDir i.val k).digest = some (q, y))
    (agrees : q ≠ dseq ∨ y = dig) : execDigest i k dseq dig s = .next (s.acknowledge i k (s.linkDir i.val (otherDir k)).expect) := by
  refine (execDigest_compares known).trans (congrArg _ (if_neg ?_))
  rintro ⟨named, differs⟩
  exact agrees.elim (· named) differs

theorem execDigest_resets {dseq q : BitVec 16} {dig y : BitVec 64} (known : (s.linkDir i.val k).digest = some (q, y))
    (named : q = dseq) (differs : y ≠ dig) : ∃ t, execDigest i k dseq dig s = .next t ∧ (t.linkDir i.val k).dict = {} ∧
      (t.linkDir i.val k).expect = (s.linkDir i.val k).expect ∧ (t.link i.val).resets = satInc (s.link i.val).resets := by
  refine ⟨_, (execDigest_compares known).trans (congrArg _ (if_pos ⟨named, differs⟩)), ?_⟩
  obtain ⟨-, expect, dict, resets⟩ := mismatch_resets (s.acknowledge i k (s.linkDir i.val (otherDir k)).expect) i k
  rw [linkDir_back] at expect
  rw [link_acknowledge_resets] at resets
  exact ⟨dict, expect, resets⟩

theorem ofBytes_digestPay (dseq : BitVec 16) (dig : Word) : (digestPay dseq dig).length = 16 ∧
    ofBytes 16 ((digestPay dseq dig).take 2) = dseq ∧ ofBytes 64 (((digestPay dseq dig).drop 8).take 8) = dig :=
  ⟨rfl, ofBytes_toBytes_of_le (n := 2) (by decide) dseq, ofBytes_toBytes_of_le (n := 8) (by decide) dig⟩

/-- A digest that arrives as it was sent is compared. -/
theorem sendControl_digest {acke dseq : BitVec 16} {dig : BitVec 64} (clean : Config.wireErrors s.draws = []) :
    s.sendControl i k 3 acke (digestPay dseq dig) =
      (State.acknowledge { s with draws := s.draws + 1 } i k acke).owe (.digest i k dseq dig) := by
  obtain ⟨length, number, value⟩ := ofBytes_digestPay dseq dig
  refine sendControl_arrives clean (by rw [length]) (by rw [length]; decide) ?_
  rw [controlEvent, number, value]

/-! ## Retraining (R508) -/

theorem linkDown_links (s : State) (i : Fin 50) :
    (s.linkDown i).links = (s.onLink i.val fun l => { l with up := false, width := 3 }).links := by
  have owed {p : Prop} [Decidable p] (s : State) (e : Instr) : (if p then s.owe e else s).links = s.links := by split <;> rfl
  unfold State.linkDown
  dsimp only
  rw [owed, owed, owed]
  exact State.foldl_keeps (f := State.loseUnit) State.links (fun _ _ => rfl) ..

theorem laneWidth_eq {n : Nat} (enough : 4 ≤ n) : laneWidth n = if 16 ≤ n then 0 else if 8 ≤ n then 1 else 2 := by
  rw [laneWidth, if_pos enough]

theorem execLinkRetrain_up {lanes : BitVec 16} (enough : 4 ≤ ((List.range 16).filter fun i => lanes.getLsbD i).length) :
    execLinkRetrain i lanes s = .next (s.onLink i.val fun l =>
      { l with up := true, width := if 16 ≤ ((List.range 16).filter fun i => lanes.getLsbD i).length then 0
          else if 8 ≤ ((List.range 16).filter fun i => lanes.getLsbD i).length then 1 else 2 }) := by
  unfold execLinkRetrain
  dsimp only
  rw [laneWidth_eq enough, if_neg]
  split
  · decide
  · split <;> decide

theorem execLinkRetrain_down {lanes : BitVec 16} (few : ((List.range 16).filter fun i => lanes.getLsbD i).length < 4) :
    ∃ t, execLinkRetrain i lanes s = .next t ∧ (t.link i.val).up = false ∧ (t.link i.val).width = 3 ∧
      (t.link i.val).dirs = (s.link i.val).dirs := by
  have narrow : laneWidth ((List.range 16).filter fun i => lanes.getLsbD i).length = 3 := by
    rw [laneWidth, if_neg (by omega), if_neg (by omega), if_neg (by omega)]
  refine ⟨_, congrArg Host.Outcome.next (if_pos narrow), ?_⟩
  rw [State.link_of_links (linkDown_links s i), link_onLink]
  exact ⟨rfl, rfl, rfl⟩

end

/-! ## A data frame that is sent for the first time, as the event shows it -/

section
variable {s : State} {link : Fin 50} {dir : Fin 2} {f : Frame} (fresh : (s.linkDir link.val dir).fresh f = true)
include fresh

theorem dataFrameReceive_delivers (head : f.headErr = 0) (pay : f.payErr = []) (turn : f.seq = (s.linkDir link.val dir).expect)
    (alike : (s.linkDir link.val dir).dict = (s.linkDir link.val dir).tip) :
    ∃ t, execDataFrameReceive link dir f s = .next t ∧ let e := t.linkDir link.val dir
      e.delivered = (s.linkDir link.val dir).delivered ++ f.items ∧ e.expect = (s.linkDir link.val dir).expect + 1 ∧
        e.next = (s.linkDir link.val dir).next + 1 ∧ e.dict = e.tip ∧
        (f.seq.toNat % 256 ≠ 255 → e.noted = false ∧ e.base = (s.linkDir link.val dir).base) := by
  obtain ⟨t, done, kept, middle⟩ := execDataFrameReceive_first fresh
  have accepted := firstFrame_delivers fresh head pay turn alike
  obtain ⟨delivered, expect, dict, next, tip, -⟩ := kept.dirs dir
  rw [accepted] at delivered expect dict next tip
  refine ⟨t, done, delivered, expect, next, dict.trans tip.symm, fun inside => ?_⟩
  rw [middle inside, accepted]
  exact ⟨rfl, rfl⟩

theorem dataFrameReceive_discards
    (bad : let w := arrivedFrame f ((s.linkDir link.val dir).sent f) (s.linkDir link.val (otherDir dir)).expect
      soundFrame w.1 w.2 = false ∨ (soundFrame w.1 w.2 = true ∧ headKind w.1 = 0) ∧ headSeq w.1 ≠ (s.linkDir link.val dir).expect) :
    ∃ t, execDataFrameReceive link dir f s = .next t ∧ let e := t.linkDir link.val dir
      e.delivered = (s.linkDir link.val dir).delivered ∧ e.expect = (s.linkDir link.val dir).expect ∧
        e.next = (s.linkDir link.val dir).next + 1 ∧ e.dict = (s.linkDir link.val dir).dict ∧ e.noted = true := by
  obtain ⟨t, done, kept, -⟩ := execDataFrameReceive_first fresh
  obtain ⟨same, noted⟩ := firstFrame_discards bad
  obtain ⟨delivered, expect, dict, next, -, -⟩ := same.trans (kept.dirs dir)
  exact ⟨t, done, delivered, expect, next, dict, (kept.dirs dir).noted noted⟩

theorem dataFrameReceive_resets {flits : List (BitVec 128)} {recs : List LineRec} {dict : Dict} {lines : List (BitVec 1024)}
    (sound : let w := arrivedFrame f ((s.linkDir link.val dir).sent f) (s.linkDir link.val (otherDir dir)).expect
      soundFrame w.1 w.2 = true ∧ headKind w.1 = 0)
    (turn : let w := arrivedFrame f ((s.linkDir link.val dir).sent f) (s.linkDir link.val (otherDir dir)).expect
      headSeq w.1 = (s.linkDir link.val dir).expect)
    (parsed : let w := arrivedFrame f ((s.linkDir link.val dir).sent f) (s.linkDir link.val (otherDir dir)).expect
      parseItems f.items w.2 = some (flits, recs))
    (decoded : (s.linkDir link.val dir).dict.decodeAll recs = some (dict, lines))
    (wrong : let w := arrivedFrame f ((s.linkDir link.val dir).sent f) (s.linkDir link.val (otherDir dir)).expect
      linesCrc lines ≠ headLcrc w.1) :
    ∃ t, execDataFrameReceive link dir f s = .next t ∧ let e := t.linkDir link.val dir
      e.delivered = (s.linkDir link.val dir).delivered ∧ e.expect = (s.linkDir link.val dir).expect ∧ e.dict = {} ∧
        (t.link link.val).resets = satInc (s.link link.val).resets := by
  obtain ⟨t, done, kept, -⟩ := execDataFrameReceive_first fresh
  obtain ⟨before, number, reset, resets⟩ := firstFrame_resets sound turn parsed decoded wrong
  obtain ⟨delivered, expect, dict, -, -, -⟩ := kept.dirs dir
  exact ⟨t, done, delivered.trans before, expect.trans number, dict.trans reset, kept.resets.trans resets⟩

end

end Sys2Proof.Machine
namespace Sys2Proof
open Machine

/-- Settles O30: the codec's round trip, and the two directions of a link through acknowledgements, control frames and data frames. -/
theorem linkEvents : Obligations.LinkEvents := by
  intro s id link dir f acke dseq q dig y lanes dict items raw flits recs lines
  refine ⟨rfl, Dict.decodeAll_encodeAll raw dict items, execDataFrameReceive_unknown, dataFrameReceive_delivers,
    dataFrameReceive_discards, fun fresh => dataFrameReceive_resets fresh, ⟨linkDir_onDir _, linkDir_back s link dir⟩,
    replayRequest_resends acke s,
    fun empty => ?_, fun kept => ?_, ?_, fun clean => ⟨?_, ?_, sendControl_digest clean, ?_⟩, fun j kind pay => ?_,
    execDigest_ignores, execDigest_agrees, execDigest_resets, resetRequest_resends acke s, execLinkRetrain_up, execLinkRetrain_down, rfl⟩
  · exact congrArg _ (if_pos (List.isEmpty_iff.mpr empty))
  · exact congrArg _ (if_neg fun empty => kept (List.isEmpty_iff.mp empty))
  · exact rfl
  · exact sendControl_arrives clean rfl (by decide) rfl
  · exact sendControl_arrives clean rfl (by decide) rfl
  · exact sendControl_arrives clean rfl (by decide) rfl
  · obtain ⟨delivered, expect, same, next, -, noted⟩ := (sendControl_linkKept s link dir kind acke pay).dirs j
    exact ⟨delivered, expect, same, next, noted⟩

end Sys2Proof
end

section
/-! Losses: votes, takeovers of dies, and what failing units leave (R498 to R502, R529 to R536, R548). -/
namespace Sys2Proof.Machine
open Sys2Proof

section
variable {s : State}

/-! ## What the steps of a loss leave as it was -/

theorem State.setPhysByte_keeps {β : Type} (g : State → β) (memory : ∀ s hbm fabric, g { s with hbm := hbm, fabric := fabric } = g s)
    (s : State) (pa : Nat) (b : Byte) : g (s.setPhysByte pa b) = g s := by
  unfold State.setPhysByte
  split
  · rfl
  · split
    · exact memory s _ s.fabric
    · split
      · exact memory s s.hbm _
      · rfl

theorem State.setPhysBytes_keeps {β : Type} (g : State → β) (memory : ∀ s hbm fabric, g { s with hbm := hbm, fabric := fabric } = g s)
    (bs : List Byte) (s : State) (pa : Nat) : g (s.setPhysBytes pa bs) = g s := by
  induction bs generalizing s pa with
  | nil => rfl
  | cons b bs ih => exact (ih ..).trans (State.setPhysByte_keeps g memory s pa b)

/-- Rewriting the translation entries writes memory and nothing else. -/
theorem State.rewriteXlt_keeps {β : Type} (g : State → β) (memory : ∀ s hbm fabric, g { s with hbm := hbm, fabric := fabric } = g s)
    (s : State) (f : Nat → Option (BitVec 32)) : g (s.rewriteXlt f) = g s := by
  refine State.foldl_keeps g (fun s e => State.foldl_keeps g (fun s i => ?_) ..) ..
  split
  · split
    · split
      · exact State.setPhysBytes_keeps g memory ..
      · rfl
    · rfl
  · rfl

theorem State.remapCore_keeps {β : Type} (g : State → β) (sp : ∀ s sp, g { s with sp := sp } = g s)
    (owe : ∀ s e, g (State.owe s e) = g s) (s : State) (n : Nat) : g (s.remapCore n) = g s := by
  unfold State.remapCore
  dsimp only
  split
  · rfl
  · split
    · exact (owe _ _).trans (sp s _)
    · exact sp s _

theorem State.startSlots_keeps {β : Type} (g : State → β) (cores : ∀ s cores, g { s with cores := cores } = g s)
    (owe : ∀ s e, g (State.owe s e) = g s) (out : ∀ s f, g (State.mapOut s f) = g s) (s : State) (n : Nat) :
    g (s.startSlots n) = g s := by
  unfold State.startSlots
  split
  · split
    · rfl
    · split
      · exact (owe _ _).trans (cores s _)
      · split
        · rfl
        · exact out ..
  · rfl

/-! ## Votes (R535, R548) -/

theorem keepUnit_of_not_link {u : FenceUnit} (other : ∀ i, u ≠ .link i) : s.keepUnit u = s := by
  cases u with
  | link i => exact absurd rfl (other i)
  | _ => rfl

/-! ## Dies (R495 to R502) -/

/-- The state in which a die has just been fenced. -/
def State.fenceDie (s : State) (pdie : Fin 9) : State :=
  { s with fenced := s.fenced ++ [FenceUnit.die pdie], spare := if pdie = 8 then { s.spare with sstate := 3 } else s.spare }

/-- A die whose every place is held by another is fenced, and that is all. -/
theorem execDieTakeover_placeless {pdie : Fin 9} {remote : Option (Fin 16)} (live : s.isFenced (.die pdie) = false)
    (idle : s.takeover = none) (placeless : s.dieMap.findIdx? (fun e => e.v && !e.deg && e.place == pdie.val) = none) :
    execDieTakeover pdie remote s = .next (s.fenceDie pdie) := by
  refine (if_neg (ne_true_of_eq_false live)).trans ((if_neg (by rw [idle]; decide)).trans ?_)
  dsimp only
  rw [placeless]
  rfl

/-- The takeover that the loss of a die with a place begins. -/
def State.beginTakeover (s : State) (pdie : Fin 9) (place : Nat) (remote : Option (Fin 16)) : Takeover :=
  { lost := pdie.val, logical := place, own := (s.spareEntry remote).2, peak := s.peakTime
    map := (s.dieMap.set place (s.spareEntry remote).1).map fun (y : DieEntry) =>
      if y.v && y.deg && y.pdie.toNat == pdie.val then { y with pdie := BitVec.ofNat 4 s.lowestDie } else y }

theorem execDieTakeover_begins {pdie : Fin 9} {remote : Option (Fin 16)} {place : Nat} (live : s.isFenced (.die pdie) = false)
    (idle : s.takeover = none) (held : s.dieMap.findIdx? (fun e => e.v && !e.deg && e.place == pdie.val) = some place) :
    ∃ t, execDieTakeover pdie remote s = .next t ∧ t.takeover = some ((s.fenceDie pdie).beginTakeover pdie place remote) ∧
      t.fenced = (s.fenceDie pdie).fenced ∧ t.spare = (s.fenceDie pdie).spare ∧ t.dieMap = s.dieMap := by
  have step : execDieTakeover pdie remote s = _ := (if_neg (ne_true_of_eq_false live)).trans (if_neg (by rw [idle]; decide))
  rw [step]
  dsimp only
  rw [held]
  by_cases degraded : ((s.fenceDie pdie).spareEntry remote).1.deg = true
  · exact ⟨_, if_pos degraded, rfl, rfl, rfl, rfl⟩
  · refine ⟨_, if_neg degraded, ?_, ?_, ?_, ?_⟩
    · exact State.rewriteXlt_keeps State.takeover (fun _ _ _ => rfl) ..
    · exact State.rewriteXlt_keeps State.fenced (fun _ _ _ => rfl) ..
    · exact State.rewriteXlt_keeps State.spare (fun _ _ _ => rfl) ..
    · exact State.rewriteXlt_keeps State.dieMap (fun _ _ _ => rfl) ..

theorem fenceDie_isFenced (s : State) (pdie : Fin 9) : (s.fenceDie pdie).fenced.contains (.die pdie) = true := by
  simp [State.fenceDie]
theorem fenceDie_spare {pdie : Fin 9} (compute : pdie ≠ 8) :
    s.fenceDie pdie = { s with fenced := s.fenced ++ [FenceUnit.die pdie] } := by
  rw [State.fenceDie, if_neg compute]

/-- The local spare takes the place of a compute die while it is free (R498). -/
theorem spareEntry_fenceDie {pdie : Fin 9} {remote : Option (Fin 16)} (compute : pdie ≠ 8) (free : s.spare.sstate = 0)
    (unfenced : s.isFenced (.die 8) = false) : (s.fenceDie pdie).spareEntry remote = ({ v := true, pdie := 8 }, true) := by
  have still : (s.fenceDie pdie).isFenced (.die 8) = false := by
    have other : (8 : Fin 9) ≠ pdie := compute.symm
    simpa [State.isFenced, State.fenceDie, other] using unfenced
  have idle : (s.fenceDie pdie).spare.sstate = 0 := by
    rw [fenceDie_spare compute]
    exact free
  exact if_pos ⟨idle, by rw [still]; rfl⟩

theorem dieTakeover_begins {pdie : Fin 9} {remote : Option (Fin 16)} {place : Nat} (live : s.isFenced (.die pdie) = false)
    (idle : s.takeover = none) (held : s.dieMap.findIdx? (fun e => e.v && !e.deg && e.place == pdie.val) = some place) :
    ∃ t y, execDieTakeover pdie remote s = .next t ∧ t.takeover = some y ∧ t.isFenced (.die pdie) = true ∧ y.lost = pdie.val ∧
      y.logical = place ∧ y.ticked = false ∧ t.dieMap = s.dieMap ∧ (pdie = 8 → t.spare.sstate = 3) ∧
      (s.spare.sstate = 0 ∧ s.isFenced (.die 8) = false → pdie ≠ 8 → y.own = true ∧
        y.map = (s.dieMap.set place { v := true, pdie := 8 }).map fun (z : DieEntry) => if z.v && z.deg && z.pdie.toNat == pdie.val then
          { z with pdie := BitVec.ofNat 4 (State.lowestDie { s with fenced := s.fenced ++ [FenceUnit.die pdie] }) } else z) := by
  obtain ⟨t, done, begun, fenced, spare, dieMap⟩ := execDieTakeover_begins (remote := remote) live idle held
  refine ⟨t, _, done, begun, ?_, rfl, rfl, rfl, dieMap, fun eighth => ?_, fun ⟨free, unfenced⟩ compute => ?_⟩
  · rw [State.isFenced, fenced]
    exact fenceDie_isFenced s pdie
  · rw [spare, State.fenceDie, if_pos eighth]
  · have entry := spareEntry_fenceDie (remote := remote) compute free unfenced
    rw [State.beginTakeover, entry]
    refine ⟨rfl, ?_⟩
    rw [fenceDie_spare compute]

/-- The two fields that a flip sets. -/
def State.maps (s : State) : List DieEntry × Option Takeover := (s.dieMap, s.takeover)

theorem State.maps_iff {map : List DieEntry} {t : State} : t.maps = (map, none) ↔ t.dieMap = map ∧ t.takeover = none :=
  Prod.ext_iff

theorem execDieMapFlip_flips {x : Takeover} (owed : s.takeover = some x) (ticked : x.ticked = true) :
    ∃ t, execDieMapFlip s = .next t ∧ t.dieMap = x.map ∧ t.takeover = none := by
  have parked (s : State) (y : Park) : State.maps (match y with | .event _ i => s.owe i | _ => s) = s.maps := by cases y <;> rfl
  have installs (m : Nat) (s : State) (y : Nat × Slots) :
      State.maps (if s.isServer m then s else { s with assign := Tab.set s.assign m y.2 }) = s.maps := by split <;> rfl
  unfold execDieMapFlip
  rw [owed]
  dsimp only
  rw [if_neg (by rw [ticked]; decide)]
  simp only [← State.maps_iff]
  split
  · refine ⟨_, rfl, ?_⟩
    refine (State.foldl_keeps State.maps (fun s y => State.remapCore_keeps _ (fun _ _ => rfl) (fun _ _ => rfl) s _) _ _).trans ?_
    refine (State.foldl_keeps State.maps (fun s y => by rfl) _ _).trans ?_
    exact State.foldl_keeps State.maps (fun s y => by rfl) _ _
  · refine ⟨_, rfl, ?_⟩
    refine (State.foldl_keeps State.maps parked _ _).trans ?_
    refine (State.foldl_keeps State.maps (fun s y => by rfl) _ _).trans ?_
    refine (State.foldl_keeps State.maps (fun s y => State.startSlots_keeps _ (fun _ _ => rfl) (fun _ _ => rfl) (fun _ _ => rfl) s _)
      _ _).trans ?_
    refine (State.foldl_keeps State.maps (fun s y => installs _ s y) _ _).trans ?_
    exact State.foldl_keeps State.maps (fun s y => by rfl) _ _

/-! ## Cores and clusters (R529 to R531) -/

theorem fenceCore_mode (s : State) (n : Nat) : ((s.fenceCore n).core n).mode = .fenced :=
  congrArg Core.mode (Tab.get_set_self ..)

theorem execCoreFailure_fences {n : Nat} (live : (s.core n).mode ≠ .fenced) : execCoreFailure n s = .next (
    let t := (s.chargeLost n).postLoss (dieOf n) (s.core n).ptag n
    (State.fenceCore { t with fenced := t.fenced ++ [FenceUnit.core n] } n).remapCore n) :=
  congrArg _ (if_neg live)

theorem remapCore_idle {n : Nat} (free : Slots.valid (Tab.get [] s.assign n) = []) (settled : s.sp.layout = none) :
    s.remapCore n = s := by
  unfold State.remapCore
  simp [free, settled]

/-- A core with a valid slot is to lose it by a layout change. -/
theorem remapCore_remaps {n : Nat} (holds : Slots.valid (Tab.get [] s.assign n) ≠ []) :
    n ∈ (s.remapCore n).sp.remaps ∧ (s.remapCore n).assign = s.assign := by
  refine ⟨?_, State.remapCore_keeps State.assign (fun _ _ => rfl) (fun _ _ => rfl) s n⟩
  unfold State.remapCore
  dsimp only
  split
  · next settled =>
    have listed : s.sp.remaps.contains n = true := by simpa [holds] using settled
    exact List.contains_iff_mem.mp listed
  · split
    · exact List.mem_append_right _ (List.mem_singleton_self n)
    · exact List.mem_append_right _ (List.mem_singleton_self n)

theorem moveSlice_dies (s : State) (die slice : Nat) : (s.moveSlice die slice).dies = s.dies :=
  State.foldl_keeps State.dies (fun _ _ => by rfl) _ _
theorem fenceSlice_dies (s : State) (die : Fin 9) (slice : Fin 48) : (s.fenceSlice die slice).dies = s.dies := by
  unfold State.fenceSlice
  split
  · rfl
  · exact moveSlice_dies ..
theorem State.die_of_dies {t : State} (same : t.dies = s.dies) (n : Nat) : t.die n = s.die n := by
  rw [State.die, State.die, same]

theorem execClusterFailure_fences {cl : Nat} (live : s.isFenced (.cluster cl) = false) :
    ∃ t, execClusterFailure cl s = .next t ∧ cl % 48 ∈ (t.die (clusterDie cl)).chipFenced := by
  refine ⟨_, if_neg (ne_true_of_eq_false live), ?_⟩
  split
  · rw [State.die_of_dies (fenceSlice_dies ..), State.die_setDie]
    exact List.mem_cons_self
  · rw [State.die_of_dies (moveSlice_dies ..), State.die_setDie]
    exact List.mem_cons_self

/-! ## Slices, stacks, I/O dies and packages (R532 to R536) -/

theorem moveSlice_unserved {die slice : Nat} (unserved : ∀ i < 8, s.servingDie i ≠ die) : s.moveSlice die slice = s := by
  have empty : (List.range 8).filter (fun l => s.servingDie l == die) = [] :=
    List.filter_eq_nil_iff.mpr fun l low => by simpa using unserved l (List.mem_range.mp low)
  rw [State.moveSlice, empty]
  rfl
theorem moveSlice_one {die slice l : Nat} (serves : (List.range 8).filter (fun i => s.servingDie i == die) = [l]) :
    s.moveSlice die slice = s.moveHomes l (fun i => s.servingSlice die i == some slice) (s.peakTime + 1) := by
  rw [State.moveSlice, serves]
  rfl

theorem execStackLoss_fences {k : Fin 16} (live : s.isFenced (.stack k) = false) :
    ∃ t, execStackLoss k s = .next t ∧ t.fenced = s.fenced ++ [FenceUnit.stack k] ∧
      t.hbm = s.hbm.filter (fun b => b.1 / 2 ^ 36 != k.val) ∧ t.cores = s.cores ∧ t.launches = s.launches := by
  refine ⟨_, if_neg (ne_true_of_eq_false live), ?_, ?_, ?_, ?_⟩
  · exact State.foldl_keeps State.fenced (fun _ _ => by rfl) _ _
  · exact State.foldl_keeps State.hbm (fun _ _ => by rfl) _ _
  · exact State.foldl_keeps State.cores (fun _ _ => by rfl) _ _
  · exact State.foldl_keeps State.launches (fun _ _ => by rfl) _ _

theorem execIoDieLoss_lost {n : Fin 2} (lost : n ∈ s.ports.ioLost) : execIoDieLoss n s = .next s :=
  if_pos (List.contains_iff_mem.mpr lost)
theorem execIoDieLoss_loses {n : Fin 2} (live : n ∉ s.ports.ioLost) : execIoDieLoss n s = .next (State.owe
    { s with ports := { s.ports with ioLost := n :: s.ports.ioLost }, fenced := s.fenced ++ [FenceUnit.ioDie n] } (.spLoss n)) :=
  if_neg fun lost => live (List.contains_iff_mem.mp lost)

/-- The spare die is free to be lent or to take a place. -/
theorem spareFree_iff : (s.spare.sstate = 0 ∧ s.isFenced (.die 8) = false) ↔
    s.spare.sstate = 0 ∧ (!s.isFenced (.die 8)) = true := by rw [Bool.not_eq_true']

end

end Sys2Proof.Machine
namespace Sys2Proof
open Machine

/-- Settles O31: the votes by the unit's kind, a takeover's start and flip, and what each failing unit leaves. -/
theorem lossEvents : Obligations.LossEvents := by
  intro s u vote0 vote1 peer pdie remote x core cl l place slice k io newId one here enough c hung holds freeSpare
  have votes : enough ↔ (if oneVote u then 1 ≤ here else 2 ≤ here + one (peer == some true)) := by cases u <;> exact Iff.rfl
  have hangs : hung ↔ c.mode = .running ∧ (!c.wait.yieldPoint) = true ∧ c.wait ≠ .halted ∧ c.tmg.clk + 2 ^ 24 ≤ s.now := by
    rw [Bool.not_eq_true']
  refine ⟨fun yes => congrArg _ (if_pos (votes.mp yes)), fun no => congrArg _ (if_neg (no ∘ votes.mpr)), keepUnit_of_not_link, rfl,
    fun lost => if_pos lost, fun live busy => ?_, fun live idle placeless compute => ?_, dieTakeover_begins, fun idle => ?_,
    fun owed early => ?_, execDieMapFlip_flips, fun yes => if_pos (hangs.mp yes), fun no => if_neg (no ∘ hangs.mpr),
    fun lost => congrArg _ (if_pos lost), execCoreFailure_fences, fenceCore_mode s core, remapCore_idle, remapCore_remaps,
    fun lost => if_pos lost, execClusterFailure_fences, fun lost => congrArg _ (if_pos lost),
    fun live => congrArg _ (if_neg (ne_true_of_eq_false live)), moveSlice_unserved, moveSlice_one, fun lost => if_pos lost,
    execStackLoss_fences, execIoDieLoss_lost, execIoDieLoss_loses, fun free => if_pos (spareFree_iff.mp free),
    fun held => if_neg (held ∘ spareFree_iff.mpr), rfl⟩
  · exact (if_neg (ne_true_of_eq_false live)).trans (if_pos busy)
  · refine (execDieTakeover_placeless live idle placeless).trans ?_
    rw [fenceDie_spare compute]
  · exact show execDieMapFlip s = _ by rw [execDieMapFlip, idle]
  · show execDieMapFlip s = _
    rw [execDieMapFlip, owed]
    exact if_pos (by rw [early]; rfl)

end Sys2Proof
end

section
/-! Ports: the peer window, accesses by physical address, and recalls (R510 to R518). -/
namespace Sys2Proof.Machine
open Sys2Proof

section
variable {s : State}

/-! ## The peer window (R511, R512) -/

theorem execPwctlWrite_takes {v : Fin 32} {x : BitVec 64} (own : (s.part (x.extractLsb' 56 6).toNat).v = true ∧
    (s.part (x.extractLsb' 56 6).toNat).vdev.toNat = v.val) :
    execPwctlWrite v x s = .next (s.onVd v.val fun y => { y with pwctl := x &&& 0xBFFFFFFFFFFF0000#64 }) :=
  if_pos (by rw [own.1, own.2]; simp)
theorem execPwctlWrite_refuses {v : Fin 32} {x : BitVec 64} (other : ¬ ((s.part (x.extractLsb' 56 6).toNat).v = true ∧
    (s.part (x.extractLsb' 56 6).toNat).vdev.toNat = v.val)) : execPwctlWrite v x s = .next s :=
  if_neg (by simpa using other)

/-- The address that an access through the peer window names. -/
def State.windowVa (s : State) (q : PortReq) : Word := ((s.vd q.v).pwctl &&& 0x00FFFFFFFFFF0000#64) + BitVec.ofNat 64 q.off
/-- The window is open and covers an access. -/
def State.windowCovers (s : State) (q : PortReq) : Prop :=
  (s.vd q.v).pwctl.getLsbD 63 = true ∧ (s.windowVa q).toNat + accessBytes q.a ≤ 2 ^ 56

theorem windowCovers_iff {q : PortReq} : s.windowCovers q ↔
    ¬ (!(s.vd q.v).pwctl.getLsbD 63 || decide (2 ^ 56 < (s.windowVa q).toNat + accessBytes q.a)) = true := by
  rw [State.windowCovers, Bool.or_eq_true, not_or, Bool.not_eq_true', Bool.not_eq_false, decide_eq_true_iff, Nat.not_lt]

/-- A requester is answered with the data that it read, if any. -/
def State.answerPort (s : State) (req : Nat) : Option (List Byte) → State
  | some bs => s.report (.completion req bs)
  | none => s

section
variable {v : Fin 32} {req : Nat} {q : PortReq} (first : s.ports.queue.find? (fun (y : PortReq) => y.req == req) = some q)
include first

theorem execPostedWriteArrive_launches {bs : List Byte} (launch : q.launch = true) (write : q.a = .write bs) :
    execPostedWriteArrive v req s = .next ((s.launchWrite q.v req q.off bs).popPort req) := by
  rw [execPostedWriteArrive, first]
  dsimp only
  rw [if_pos launch, write]

variable (window : q.launch = false)
include window

theorem execPostedWriteArrive_drops
    (away : ¬ s.windowCovers q ∨ s.partAgent ((s.vd q.v).pwctl.extractLsb' 56 6) = none) :
    execPostedWriteArrive v req s = .next (s.dropPort q) := by
  rw [execPostedWriteArrive, first]
  refine (if_neg (ne_true_of_eq_false window)).trans ?_
  by_cases covers : s.windowCovers q
  · refine (if_neg (windowCovers_iff.mp covers)).trans ?_
    rw [away.resolve_left (not_not.mpr covers)]
  · exact if_pos (not_not.mp (covers ∘ windowCovers_iff.mpr))

variable {g : Agent} (covers : s.windowCovers q) (agent : s.partAgent ((s.vd q.v).pwctl.extractLsb' 56 6) = some g)
include covers agent

theorem execPostedWriteArrive_performs {t : State} {time : Nat} {data : Option (List Byte)}
    (done : s.windowAccess { g with time := max s.portTime (s.postedTime req), ordered := false } (s.windowVa q) q.a =
      .ok (t, time, data)) :
    execPostedWriteArrive v req s = .next (State.answerPort (State.popPort
      { t with ports := { t.ports with posted := Tab.set t.ports.posted req (max time (s.postedTime req)) } } req) req data) := by
  rw [execPostedWriteArrive, first]
  refine (if_neg (ne_true_of_eq_false window)).trans ((if_neg (windowCovers_iff.mp covers)).trans ?_)
  rw [agent]
  unfold State.windowVa at done
  dsimp only
  rw [done]
  cases data <;> rfl

end

theorem windowAccess_write {g g1 : Agent} {va : Word} {bs : List Byte} {t : State} (stored : s.agentStore g va bs = .ok (t, g1)) :
    s.windowAccess g va (.write bs) = .ok (t, g1.time, none) := by
  rw [State.windowAccess, stored]
theorem windowAccess_read {g g1 : Agent} {va : Word} {n : Nat} {bs : List Byte} {t : State}
    (read : s.agentBytes g va n = .ok (t, g1, bs)) : s.windowAccess g va (.read n) = .ok (t, g1.time, some bs) := by
  rw [State.windowAccess, read]

/-! ## Reads at the homes (R199) -/

/-- A read at the homes changes the homes only. -/
theorem physRead_keeps {β : Type} (g : State → β) (homes : ∀ s homes, g { s with homes := homes } = g s) (fuel : Nat) (s : State)
    (t pa n : Nat) : g (s.physRead t pa fuel n).1 = g s := by
  induction fuel generalizing s t pa n with
  | zero => rfl
  | succ fuel ih =>
    rw [State.physRead]
    split
    · rfl
    · exact (ih ..).trans (homes s _)

/-- The lines that are left suffice for the bytes that are left. -/
theorem physRead_length (fuel : Nat) (s : State) (t pa n : Nat) (enough : n = 0 ∨ pa % 128 + n ≤ 128 * fuel) :
    (s.physRead t pa fuel n).2.2.length = n := by
  induction fuel generalizing s t pa n with
  | zero =>
    have nothing : n = 0 := by omega
    exact nothing.symm
  | succ fuel ih =>
    rw [State.physRead]
    split
    · next nothing => exact nothing.symm
    · have rest := ih (s.readTime t (.line (pa / 128))).1 (s.readTime t (.line (pa / 128))).2 (pa + min n (128 - pa % 128))
        (n - min n (128 - pa % 128)) (by omega)
      have chunk : (s.physBytes pa (min n (128 - pa % 128))).length = min n (128 - pa % 128) := by simp [State.physBytes]
      rw [List.length_append, rest, chunk]
      omega

theorem physRead_length_access (s : State) (t pa n : Nat) : (s.physRead t pa (n / 128 + 2) n).2.2.length = n :=
  physRead_length _ s t pa n (by omega)

/-! ## The host's accesses (R513) and those of other packages (R517) -/

theorem accessReads_read (n : Nat) : accessReads (.read n) = true := rfl
theorem accessReads_write (bs : List Byte) : accessReads (.write bs) = false := rfl

/-- The range of CXLHDM covers an access, which starts at physical address `pa`. -/
def State.hostReaches (s : State) (off pa : Nat) (a : PortAccess) : Prop :=
  s.ports.cxlhdm.getLsbD 63 = true ∧ off + accessBytes a ≤ (s.ports.cxlhdm.extractLsb' 40 8).toNat * 2 ^ 30 ∧
    pa + accessBytes a ≤ Config.hbmBytes
/-- The physical address of an access of the host. -/
def State.hostPa (s : State) (off : Nat) : Nat := (s.ports.cxlhdm.extractLsb' 30 10).toNat * 2 ^ 30 + off

theorem hostReaches_iff {off : Nat} {a : PortAccess} : s.hostReaches off (s.hostPa off) a ↔
    ¬ (!s.ports.cxlhdm.getLsbD 63 || decide ((s.ports.cxlhdm.extractLsb' 40 8).toNat * 2 ^ 30 < off + accessBytes a) ||
      decide (Config.hbmBytes < s.hostPa off + accessBytes a)) = true := by
  simp only [State.hostReaches, Bool.or_eq_true, not_or, Bool.not_eq_true', Bool.not_eq_false, decide_eq_true_iff, Nat.not_lt, and_assoc]

theorem execCxlMemAccess_refuses {off : Nat} {a : PortAccess} (away : ¬ s.hostReaches off (s.hostPa off) a) :
    execCxlMemAccess off a s = .next s := if_pos (not_not.mp (away ∘ hostReaches_iff.mpr))

section
variable {off : Nat} {a : PortAccess} (reaches : s.hostReaches off (s.hostPa off) a)
include reaches

theorem execCxlMemAccess_bad (reads : accessReads a = true) (bad : s.globalBad (s.hostPa off) (accessBytes a) = true) :
    execCxlMemAccess off a s = .next (s.report (.errorCompletion Config.package)) :=
  (if_neg (hostReaches_iff.mp reaches)).trans (if_pos (by rw [reads, Bool.true_and]; exact bad))

theorem execCxlMemAccess_writes {bs : List Byte} (write : a = .write bs) :
    execCxlMemAccess off a s = .next (s.physWrite (s.portTime + 1) (s.hostPa off) (bs.length / 128 + 2) bs).1 := by
  subst write
  exact (if_neg (hostReaches_iff.mp reaches)).trans (if_neg (ne_true_of_eq_false (by rw [accessReads_write, Bool.false_and])))

/-- What the host reads it keeps, until it is back-invalidated. -/
theorem execCxlMemAccess_reads {n : Nat} (read : a = .read n) (good : s.globalBad (s.hostPa off) n = false) :
    ∃ t, execCxlMemAccess off a s = .next t ∧ t.hbm = s.hbm ∧
      (∃ data, t.reports = s.reports ++ [.completion 0 data] ∧ data.length = n) ∧
      ∀ i, s.hostPa off / 128 ≤ i → i < (s.hostPa off + n + 127) / 128 → i ∈ t.ports.hostLines := by
  subst read
  refine ⟨_, (if_neg (hostReaches_iff.mp reaches)).trans (if_neg (ne_true_of_eq_false
    (by rw [accessReads_read, Bool.true_and]; exact good))),
    ?_, ⟨(s.physRead (s.portTime + 1) (s.hostPa off) (n / 128 + 2) n).2.2, ?_, physRead_length_access ..⟩, fun i low high => ?_⟩
  · exact physRead_keeps State.hbm (fun _ _ => rfl) ..
  · exact congrArg (· ++ _) (physRead_keeps State.reports (fun _ _ => rfl) ..)
  · refine List.mem_eraseDups.mpr (List.mem_append_left _ (List.mem_map.mpr ⟨i - s.hostPa off / 128, List.mem_range.mpr ?_, ?_⟩))
    · show i - s.hostPa off / 128 < (s.hostPa off + n + 127) / 128 - s.hostPa off / 128
      omega
    · show s.hostPa off / 128 + (i - s.hostPa off / 128) = i
      omega

end

theorem served_iff {pa len : Nat} : (s.exported pa len = true ∧ physOk pa = true) ↔
    ¬ (!s.exported pa len || !physOk pa) = true := by
  rw [Bool.or_eq_true, not_or, Bool.not_eq_true', Bool.not_eq_true', Bool.not_eq_false, Bool.not_eq_false]

section
variable {port : Nat} {pa : BitVec 47} {a : PortAccess}

theorem execRemoteAccessArrive_refuses (away : ¬ (s.exported pa.toNat (accessBytes a) = true ∧ physOk pa.toNat = true)) :
    execRemoteAccessArrive port pa a s =
      .next (State.report { s with ports := { s.ports with xdrop := satInc s.ports.xdrop } } (.errorCompletion port)) :=
  if_pos (not_not.mp (away ∘ served_iff.mpr))

variable (served : s.exported pa.toNat (accessBytes a) = true ∧ physOk pa.toNat = true)
include served

theorem execRemoteAccessArrive_writes {bs : List Byte} (write : a = .write bs) : execRemoteAccessArrive port pa a s =
    .next (s.physWrite (s.portTime + 1) pa.toNat (bs.length / 128 + 2) bs).1 := by
  subst write
  exact (if_neg (served_iff.mp served)).trans (if_neg (ne_true_of_eq_false (by rw [accessReads_write, Bool.false_and])))

theorem execRemoteAccessArrive_reads {n : Nat} (read : a = .read n) (good : s.globalBad pa.toNat n = false) :
    execRemoteAccessArrive port pa a s =
      .next ((s.physRead (s.portTime + 1) pa.toNat (n / 128 + 2) n).1.report
        (.completion port (s.physRead (s.portTime + 1) pa.toNat (n / 128 + 2) n).2.2)) := by
  subst read
  exact (if_neg (served_iff.mp served)).trans (if_neg (ne_true_of_eq_false (by rw [accessReads_read, Bool.true_and]; exact good)))

end

/-! ## Recalls (R517) -/

/-- No L1D of a cluster keeps a copy of a line. -/
def State.NoCopy (s : State) (line cl : Nat) : Prop := ∀ y ∈ (s.cluster cl).l1d, y.line ≠ line

theorem State.NoCopy.of_clusters {t : State} {line cl : Nat} (none' : s.NoCopy line cl) (same : t.clusters = s.clusters) :
    t.NoCopy line cl := by
  have unit : t.cluster cl = s.cluster cl := by rw [State.cluster, State.cluster, same]
  rw [State.NoCopy, unit]
  exact none'

theorem mergeCopy_clusters (s : State) (x : Copy) (lt : Nat) : (s.mergeCopy x lt).1.clusters = s.clusters := by
  have timed : ((s.permit (128 * x.line) true).writeTime lt (.line x.line)).1.clusters = (s.permit (128 * x.line) true).clusters := by
    rw [State.writeTime, State.backInvalidate]
    dsimp only
    split <;> rfl
  rw [State.mergeCopy]
  dsimp only
  rw [State.setPhysBytes_clusters]
  exact timed.trans (State.permit_clusters ..)

/-- The part of a recall at one cluster. -/
def State.dropAt (line : Nat) (back : Bool) (s : State) (e : Nat × Cluster) : State :=
  let mine := (s.cluster e.1).l1d.filter fun k => k.line == line
  let s := (mine.filter fun k => back && k.swm && k.dirty != 0).foldl (fun (s : State) k => (s.mergeCopy k (s.portTime + 1)).1) s
  if mine.isEmpty then s else s.setCluster e.1 { s.cluster e.1 with l1d := (s.cluster e.1).l1d.filter fun k => k.line != line }

theorem dropCopies_eq (s : State) (line : Nat) (back : Bool) : s.dropCopies line back = s.clusters.foldl (State.dropAt line back) s := rfl

theorem dropAt_self (line : Nat) (back : Bool) (s : State) (e : Nat × Cluster) : (State.dropAt line back s e).NoCopy line e.1 := by
  unfold State.dropAt
  extract_lets mine merged
  have clusters : merged.clusters = s.clusters := State.foldl_keeps State.clusters (fun s k => mergeCopy_clusters s k _) _ _
  split
  · next empty =>
    refine State.NoCopy.of_clusters (s := s) (fun y listed same => ?_) clusters
    have found : y ∈ mine := List.mem_filter.mpr ⟨listed, beq_iff_eq.mpr same⟩
    rw [List.isEmpty_iff.mp empty] at found
    cases found
  · intro y listed
    rw [State.cluster_setCluster] at listed
    exact bne_iff_ne.mp (List.mem_filter.mp listed).2

theorem dropAt_noCopy {line cl : Nat} (none' : s.NoCopy line cl) (back : Bool) (e : Nat × Cluster) :
    (State.dropAt line back s e).NoCopy line cl := by
  by_cases same : cl = e.1
  · rw [same]
    exact dropAt_self line back s e
  · unfold State.dropAt
    extract_lets mine merged
    have clusters : merged.clusters = s.clusters := State.foldl_keeps State.clusters (fun s k => mergeCopy_clusters s k _) _ _
    split
    · exact none'.of_clusters clusters
    · rw [State.NoCopy, State.cluster_setCluster_ne _ _ _ _ same]
      exact none'.of_clusters clusters

/-- Once its own cluster has had its turn, or if it has nothing to drop, a cluster keeps no copy. -/
theorem foldl_dropAt_noCopy {line cl : Nat} (back : Bool) (xs : List (Nat × Cluster)) (s : State)
    (reached : s.NoCopy line cl ∨ ∃ e ∈ xs, e.1 = cl) : (xs.foldl (State.dropAt line back) s).NoCopy line cl := by
  induction xs generalizing s with
  | nil => exact reached.resolve_right fun ⟨e, listed, _⟩ => nomatch listed
  | cons x xs ih =>
    refine ih _ ?_
    rcases reached with none' | ⟨e, listed, named⟩
    · exact .inl (dropAt_noCopy none' back x)
    · rcases List.mem_cons.mp listed with rfl | later
      · exact .inl (named ▸ dropAt_self line back s e)
      · exact .inr ⟨e, later, named⟩

theorem Tab.get_unlisted {α : Type} (d : α) (t : List (Nat × α)) (n : Nat) (unlisted : ∀ e ∈ t, e.1 ≠ n) : Tab.get d t n = d := by
  induction t with
  | nil => rfl
  | cons x t ih =>
    exact (if_neg (unlisted x List.mem_cons_self)).trans (ih fun e listed => unlisted e (List.mem_cons_of_mem _ listed))

theorem dropCopies_noCopy (s : State) (line cl : Nat) (back : Bool) : (s.dropCopies line back).NoCopy line cl := by
  rw [dropCopies_eq]
  refine foldl_dropAt_noCopy back _ s ?_
  by_cases listed : ∃ e ∈ s.clusters, e.1 = cl
  · exact .inr listed
  · left
    have fresh : s.cluster cl = {} := Tab.get_unlisted _ _ _ fun e mem same => listed ⟨e, mem, same⟩
    rw [State.NoCopy, fresh]
    exact fun y copy => nomatch copy

/-- Copies that are not written back leave memory as it is. -/
theorem dropCopies_hbm (s : State) (line : Nat) : (s.dropCopies line false).hbm = s.hbm := by
  refine State.foldl_keeps (f := State.dropAt line false) State.hbm (fun s e => ?_) _ _
  unfold State.dropAt
  simp only [Bool.false_and, List.filter_false, List.foldl_nil]
  split <;> rfl

theorem setPhysBytes_fabric_hbm (bs : List Byte) (s : State) (pa : Nat) (fabric : isFabric pa = true) :
    (s.setPhysBytes pa bs).hbm = s.hbm := by
  have far : 2 ^ 51 ≤ pa := of_decide_eq_true fabric
  induction bs generalizing s pa with
  | nil => rfl
  | cons b bs ih =>
    have outside : ¬ pa < Config.hbmBytes := by
      show ¬ pa < 2 ^ 40
      omega
    refine (ih _ (pa + 1) (decide_eq_true (by omega)) (by omega)).trans ?_
    rw [State.setPhysByte, if_neg outside]
    split
    · rfl
    · split <;> rfl

/-- The state after a recall, before it is answered. -/
def State.recalled (s : State) (line : Nat) (inv : Bool) : State :=
  let s1 := s.dropCopies line (!inv)
  let s2 := { s1 with ports := { s1.ports with perms := Tab.erase s1.ports.perms line } }
  if isFabric (128 * line) then s2.setPhysBytes (128 * line) (List.replicate 128 0) else s2

theorem recalled_keeps {β : Type} (g : State → β) (memory : ∀ s hbm fabric, g { s with hbm := hbm, fabric := fabric } = g s)
    (s : State) (line : Nat) (inv : Bool) :
    g (s.recalled line inv) = g (let s1 := s.dropCopies line (!inv)
      { s1 with ports := { s1.ports with perms := Tab.erase s1.ports.perms line } }) := by
  unfold State.recalled
  dsimp only
  split
  · exact State.setPhysBytes_keeps g memory ..
  · rfl

theorem execFabricRecall_recalls (line : Nat) (inv : Bool) (s : State) :
    ∃ t, execFabricRecall line inv s = .next t ∧ (inv = true → t.hbm = s.hbm) ∧
      (∀ cl, ∀ y ∈ (t.cluster cl).l1d, y.line ≠ line) ∧
      t.ports.perms = Tab.erase (s.dropCopies line (!inv)).ports.perms line ∧
      t.reports = (s.dropCopies line (!inv)).reports ++ [.recallAnswer line
        (if inv = false ∧ Tab.get false (s.dropCopies line (!inv)).ports.perms line = true then
          some ((s.dropCopies line (!inv)).physBytes (128 * line) 128) else none)] := by
  refine ⟨_, rfl, ?_, fun cl => ?_, ?_, ?_⟩
  · rintro rfl
    refine Eq.trans (b := (s.recalled line true).hbm) rfl ?_
    rw [State.recalled]
    split
    · next fabric => exact (setPhysBytes_fabric_hbm _ _ _ fabric).trans (dropCopies_hbm s line)
    · exact dropCopies_hbm s line
  · refine State.NoCopy.of_clusters (dropCopies_noCopy s line cl (!inv)) ?_
    exact recalled_keeps State.clusters (fun _ _ _ => rfl) s line inv
  · exact congrArg Ports.perms (recalled_keeps State.ports (fun _ _ _ => rfl) s line inv)
  · have dirty : (!inv && Tab.get false (s.dropCopies line (!inv)).ports.perms line) = true ↔
        inv = false ∧ Tab.get false (s.dropCopies line (!inv)).ports.perms line = true := by
      rw [Bool.and_eq_true, Bool.not_eq_true']
    simp only [← dirty]
    exact congrArg (· ++ _) (recalled_keeps State.reports (fun _ _ _ => rfl) s line inv)

end

end Sys2Proof.Machine
namespace Sys2Proof
open Machine

/-- Settles O32: the peer window's accesses in their turn, those by physical address in their range, and recalls. -/
theorem portEvents : Obligations.PortEvents := by
  intro s v x req off port line n off36 a q g g1 s1 bs inv pa47
  refine ⟨execPwctlWrite_takes, execPwctlWrite_refuses, fun free => ?_, fun busy => ?_, fun none' => ?_,
    fun first => execPostedWriteArrive_launches first, execPostedWriteArrive_drops, fun first window covers agent write stored => ?_,
    fun first window covers agent read got => ?_, execCxlMemAccess_refuses, fun reaches => execCxlMemAccess_writes reaches,
    fun reaches => execCxlMemAccess_reads reaches, execCxlMemAccess_bad, execFabricRecall_recalls line inv s,
    execRemoteAccessArrive_refuses,
    fun served => execRemoteAccessArrive_writes served, fun served => execRemoteAccessArrive_reads served⟩
  · exact congrArg Host.Outcome.next (if_neg (ne_true_of_eq_false free))
  · exact congrArg Host.Outcome.next (if_pos busy)
  · show execPostedWriteArrive v req s = _
    rw [execPostedWriteArrive, none']
  · exact execPostedWriteArrive_performs first window covers agent (by rw [write]; exact windowAccess_write stored)
  · exact execPostedWriteArrive_performs first window covers agent (by rw [read]; exact windowAccess_read got)

end Sys2Proof
end

section
/-! What no end of a task, command or launch changes: the core-assignment table (R473). Only a layout change and a takeover rewrite it. -/
namespace Sys2Proof.Machine
open Sys2Proof
variable {s : State} {tab : List (Nat × Slots)}

/-- The core-assignment table is `tab`. -/
def State.Assigns (tab : List (Nat × Slots)) (s : State) : Prop := s.assign = tab
/-- So it is in the state that a stop carries, where it carries one. -/
def AStop.Assigns (tab : List (Nat × Slots)) : AStop → Prop
  | .failAt s _ _ => s.Assigns tab
  | _ => True
/-- So it is after an agent's access, however the access ends. -/
def AgentAssigns (tab : List (Nat × Slots)) {α : Type} : Except AStop (State × α) → Prop
  | .ok r => r.1.Assigns tab
  | .error e => e.Assigns tab
/-- So it is where a record was reached. -/
def ReachAssigns (tab : List (Nat × Slots)) {ε : Type} : Except ε State → Prop
  | .ok s => s.Assigns tab
  | .error _ => True
/-- So it is after a step of a command's work. -/
def Adv.Assigns (tab : List (Nat × Slots)) : Adv → Prop
  | .go s _ | .wait s _ => s.Assigns tab
  | .stop s _ e => s.Assigns tab ∧ e.Assigns tab

theorem State.Assigns.ite {p : Prop} {_ : Decidable p} {t u : State} (ht : t.Assigns tab) (hu : u.Assigns tab) :
    (if p then t else u).Assigns tab := by
  split <;> assumption
theorem AgentAssigns.ite {α : Type} {p : Prop} {_ : Decidable p} {x y : Except AStop (State × α)} (hx : AgentAssigns tab x)
    (hy : AgentAssigns tab y) : AgentAssigns tab (if p then x else y) := by
  split <;> assumption
theorem ReachAssigns.ite {ε : Type} {p : Prop} {_ : Decidable p} {x y : Except ε State} (hx : ReachAssigns tab x)
    (hy : ReachAssigns tab y) : ReachAssigns tab (if p then x else y) := by
  split <;> assumption
theorem Adv.Assigns.ite {p : Prop} {_ : Decidable p} {x y : Adv} (hx : x.Assigns tab) (hy : y.Assigns tab) :
    (if p then x else y).Assigns tab := by
  split <;> assumption
theorem AgentAssigns.get {α : Type} {x : Except AStop (State × α)} {t : State} {r : α} (h : AgentAssigns tab x) (hr : x = .ok (t, r)) :
    t.Assigns tab := by
  subst hr
  exact h
theorem AgentAssigns.error {α : Type} {x : Except AStop (State × α)} {e : AStop} (h : AgentAssigns tab x) (hr : x = .error e) :
    e.Assigns tab := by
  subst hr
  exact h
theorem State.Assigns.of_pair {α : Type} {x : State × α} {t : State} {r : α} (h : x.1.Assigns tab) (hr : x = (t, r)) : t.Assigns tab := by
  subst hr
  exact h
theorem State.Assigns.foldl {α : Type} {f : State → α → State} {xs : List α} (ok : s.Assigns tab)
    (step : ∀ {s : State} {x : α}, s.Assigns tab → (f s x).Assigns tab) : (xs.foldl f s).Assigns tab :=
  List.foldlRecOn xs f ok fun _ ok _ _ => step ok
theorem State.Assigns.behind {e : AStop} (ok : s.Assigns tab) (bad : e.Assigns tab) : (AStop.behind s e).Assigns tab := by
  cases e with
  | fail c x => exact ok
  | failAt t c x => exact bad
  | _ => trivial
theorem State.Assigns.split {e : AStop} (ok : s.Assigns tab) (bad : e.Assigns tab) : (AStop.split s e).1.Assigns tab := by
  cases e with
  | failAt t c x => exact bad
  | _ => exact ok
theorem State.Assigns.of {c x} (ok : s.Assigns tab) (done : AgentAssigns tab x) : (Adv.of s c x).Assigns tab := by
  cases x with
  | ok r => exact done
  | error e => exact .intro ok done

/-! ## Units, memory and the homes (R184, R199) -/

theorem State.Assigns.setCore {n c} (ok : s.Assigns tab) : (s.setCore n c).Assigns tab := ok
theorem State.Assigns.setCluster {n c} (ok : s.Assigns tab) : (s.setCluster n c).Assigns tab := ok
theorem State.Assigns.setDie {n d} (ok : s.Assigns tab) : (s.setDie n d).Assigns tab := ok
theorem State.Assigns.owe {i} (ok : s.Assigns tab) : (s.owe i).Assigns tab := ok
theorem State.Assigns.report {r} (ok : s.Assigns tab) : (s.report r).Assigns tab := ok

theorem State.Assigns.postErrorFor {kind ptag core x} (ok : s.Assigns tab) : (s.postErrorFor kind ptag core x).Assigns tab := by
  unfold State.postErrorFor
  exact .ite ok ok.setDie.setCore

theorem State.Assigns.postError {kind ptag core} (ok : s.Assigns tab) : (s.postError kind ptag core).Assigns tab := ok.postErrorFor

theorem State.Assigns.suspect {u k} (ok : s.Assigns tab) : (s.suspect u k).Assigns tab := by
  unfold State.suspect
  exact .ite (.owe ok) ok

theorem State.Assigns.mapOut {f} (ok : s.Assigns tab) : (s.mapOut f).Assigns tab := ok

theorem State.Assigns.setPhysBytes {pa bs} (ok : s.Assigns tab) : (s.setPhysBytes pa bs).Assigns tab :=
  (State.setPhysBytes_keeps State.assign (fun _ _ _ => rfl) bs s pa).trans ok

theorem State.Assigns.fillL2 {d e} (ok : s.Assigns tab) : (s.fillL2 d e).Assigns tab := ok.setDie
theorem State.Assigns.setHome {h x} (ok : s.Assigns tab) : (s.setHome h x).Assigns tab := ok
theorem State.Assigns.readTime {lt h} (ok : s.Assigns tab) : (s.readTime lt h).1.Assigns tab := ok.setHome

theorem State.Assigns.backInvalidate {h} (ok : s.Assigns tab) : (s.backInvalidate h).Assigns tab := by
  unfold State.backInvalidate
  dsimp only
  split
  · exact .ite (.report ok) ok
  · exact ok

theorem State.Assigns.writeTime {lt h} (ok : s.Assigns tab) : (s.writeTime lt h).1.Assigns tab := ok.backInvalidate.setHome
theorem State.Assigns.coreRead {n h} (ok : s.Assigns tab) : (s.coreRead n h).Assigns tab := ok.readTime.setCore
theorem State.Assigns.coreWrite {n h} (ok : s.Assigns tab) : (s.coreWrite n h).Assigns tab := ok.writeTime.setCore

theorem State.Assigns.setCopy {cl x} (ok : s.Assigns tab) : (s.setCopy cl x).Assigns tab := by
  unfold State.setCopy
  dsimp only
  split
  · exact ok.setCluster.owe
  · exact ok.setCluster

theorem State.Assigns.writeHome {pa bs} (ok : s.Assigns tab) : (s.writeHome pa bs).Assigns tab := by
  unfold State.writeHome
  dsimp only [State.Assigns]
  exact ok.setPhysBytes

theorem State.Assigns.fetchFabric {line} (ok : s.Assigns tab) : (s.fetchFabric line).Assigns tab := by
  unfold State.fetchFabric
  exact .setPhysBytes (.setHome ok)

theorem State.Assigns.permit {pa write} (ok : s.Assigns tab) : (s.permit pa write).Assigns tab := by
  unfold State.permit
  dsimp only
  split
  · dsimp only [State.Assigns]
    exact State.Assigns.ite ok ok.fetchFabric
  · exact .ite ok ok

theorem State.Assigns.fillSwm {n line} (ok : s.Assigns tab) : (s.fillSwm n line).1.Assigns tab := by
  unfold State.fillSwm
  dsimp only
  split
  · exact ok
  · exact ok.coreRead.setCopy

theorem State.Assigns.gain {pa p write} (ok : s.Assigns tab) : (s.gain pa p write).Assigns tab := .ite ok.fetchFabric ok.permit

theorem State.Assigns.putHome {pa p bs} (ok : s.Assigns tab) : (s.putHome pa p bs).Assigns tab := by
  unfold State.putHome
  exact .ite ok.writeHome.report ok.writeHome

theorem State.Assigns.noteStore {n was m pos old} (ok : s.Assigns tab) : (s.noteStore n was m pos old).Assigns tab := ok

theorem State.Assigns.noteCode {n pa len user} (ok : s.Assigns tab) : (s.noteCode n pa len user).Assigns tab := by
  unfold State.noteCode
  split
  · exact .ite ok ok
  · exact ok

theorem State.Assigns.storeHome {n pa p bs} (ok : s.Assigns tab) : (s.storeHome n pa p bs).Assigns tab :=
  ok.coreWrite.noteStore.noteCode.putHome

theorem State.Assigns.lostWrite {n pa} (ok : s.Assigns tab) : (s.lostWrite n pa).Assigns tab := .ite ok.postError ok

theorem State.Assigns.writeGlobal {n pa p bs} (ok : s.Assigns tab) : (s.writeGlobal n pa p bs).Assigns tab := by
  unfold State.writeGlobal
  dsimp only
  split
  · exact ok.gain.lostWrite
  · split
    · exact ok.gain.lostWrite.fillSwm.noteCode.setCopy
    · exact ok.gain.lostWrite.storeHome

/-! ## Halts, gangs and waits (R147, R196, R238) -/

theorem State.Assigns.leaveLockstep {n} (ok : s.Assigns tab) : (s.leaveLockstep n).Assigns tab := .ite ok.setCore.setCluster ok

theorem State.Assigns.leaveQueues {n} (ok : s.Assigns tab) : (s.leaveQueues n).Assigns tab := by
  unfold State.leaveQueues
  dsimp only
  split
  · exact ok.setCluster
  · exact ok.setCluster
  · exact ok

theorem State.Assigns.haltCore {n m} (ok : s.Assigns tab) : (s.haltCore n m).Assigns tab := ok.leaveQueues.setDie.setCore

theorem State.Assigns.haltGroup {n m} (ok : s.Assigns tab) : (s.haltGroup n m).Assigns tab := by
  unfold State.haltGroup
  exact (ok.foldl fun ok => ok.setCore).foldl fun ok => ok.haltCore

theorem State.Assigns.haltAway {p} (ok : s.Assigns tab) : (s.haltAway p).Assigns tab := ok.mapOut

theorem State.Assigns.haltFaulted {ns} (ok : s.Assigns tab) : (s.haltFaulted ns).Assigns tab := by
  unfold State.haltFaulted
  exact (ok.foldl fun ok => ok.haltGroup).foldl fun ok => ok.haltAway

theorem State.Assigns.faultOnFault {n addr} (ok : s.Assigns tab) : (s.faultOnFault n addr).Assigns tab := ok.haltFaulted.report
theorem State.Assigns.setGang {cl base g} (ok : s.Assigns tab) : (s.setGang cl base g).Assigns tab := ok.setCluster

theorem State.Assigns.dissolve {n t gap next} (ok : s.Assigns tab) : (s.dissolve n t gap next).Assigns tab := by
  unfold State.dissolve
  dsimp only
  split
  · exact ok.setGang.foldl fun ok => .ite ok (.ite ok.setCore (.ite ok.setCore ok))
  · exact ok

theorem State.Assigns.leaveGang {n atWord} (ok : s.Assigns tab) : (s.leaveGang n atWord).Assigns tab := by
  unfold State.leaveGang
  split
  · exact ok.dissolve
  · exact ok.leaveLockstep
  · exact ok

theorem State.Assigns.onBarrier {cl b f} (ok : s.Assigns tab) : (s.onBarrier cl b f).Assigns tab := ok.setCluster

theorem State.Assigns.withdraw {n} (ok : s.Assigns tab) : (s.withdraw n).Assigns tab := by
  unfold State.withdraw
  split
  · exact ok.onBarrier
  · exact ok

theorem State.Assigns.writePlace {p bs} (ok : s.Assigns tab) : (s.writePlace p bs).Assigns tab := by
  unfold State.writePlace
  dsimp only
  split
  · exact ok.setCore
  · exact ok.setDie
  · exact ok

/-! ## Accesses of agents (R191) -/

theorem State.Assigns.scan {p len} (ok : s.Assigns tab) : (s.scan p len).1.Assigns tab := by
  unfold State.scan
  dsimp only
  split
  · exact .ite ((ok.setCore.foldl fun ok => ok.suspect).owe) (ok.setCore.foldl fun ok => ok.suspect)
  · exact ok
  · exact ok

theorem State.Assigns.agentXlate {g va r} (ok : s.Assigns tab) : AgentAssigns tab (s.agentXlate g va r) := by
  unfold State.agentXlate
  extract_lets d found
  have walked : AgentAssigns tab found := by
    dsimp only [found]
    split
    · exact ok
    · split
      · exact ok.fillL2
      · dsimp only [AgentAssigns]
        split <;> trivial
  clear_value found
  split
  · trivial
  · split
    · exact walked
    · exact .ite trivial (.ite trivial walked)

theorem State.Assigns.saw {g m pos now r} (ok : s.Assigns tab) (read : r.1.Assigns tab) : (Agent.saw g s m pos now r).1.Assigns tab := by
  unfold Agent.saw
  extract_lets bs
  split
  · exact read
  · exact ok

theorem State.Assigns.agentRead1 {g a n} (ok : s.Assigns tab) : AgentAssigns tab (s.agentRead1 g a n) := by
  unfold State.agentRead1
  split
  · split
    · trivial
    · trivial
    · dsimp only
      split
      · exact ok.scan
      · split
        · exact ok.scan.saw ok.scan.readTime
        · trivial
  · split
    · trivial
    · split
      · next hr =>
        exact ok.agentXlate.error hr
      · next hr =>
        have ok := ok.agentXlate.get hr
        exact .ite trivial (ok.gain.saw ok.gain.readTime)

theorem State.Assigns.agentWrite1 {g a bs} (ok : s.Assigns tab) : AgentAssigns tab (s.agentWrite1 g a bs) := by
  unfold State.agentWrite1
  dsimp only
  split
  · split
    · trivial
    · trivial
    · exact ok.writeTime.writePlace
  · split
    · trivial
    · split
      · next hr =>
        exact ok.agentXlate.error hr
      · next hr =>
        exact (ok.agentXlate.get hr).gain.writeTime.noteCode.putHome

theorem State.Assigns.agentRead {g a fuel n} (ok : s.Assigns tab) : AgentAssigns tab (s.agentRead g a fuel n) := by
  induction fuel generalizing s g a n with
  | zero => exact ok
  | succ fuel ih =>
    unfold State.agentRead
    split
    · exact ok
    · dsimp only
      split
      · next hr =>
        exact ok.agentRead1.error hr
      · next hr =>
        have read := ok.agentRead1.get hr
        split
        · exact read
        · split
          · next hr1 =>
            exact read.behind ((ih read).error hr1)
          · next hr1 =>
            exact (ih read).get hr1

theorem State.Assigns.agentBytes {g a n} (ok : s.Assigns tab) : AgentAssigns tab (s.agentBytes g a n) := ok.agentRead

theorem State.Assigns.agentWrite {g a fuel bs} (ok : s.Assigns tab) : AgentAssigns tab (s.agentWrite g a fuel bs) := by
  induction fuel generalizing s g a bs with
  | zero => exact ok
  | succ fuel ih =>
    unfold State.agentWrite
    split
    · exact ok
    · dsimp only
      split
      · next hr =>
        exact ok.agentWrite1.error hr
      · next hr =>
        have written := ok.agentWrite1.get hr
        split
        · exact written
        · split
          · next hr1 =>
            exact written.behind ((ih written).error hr1)
          · exact ih written

theorem State.Assigns.agentStore {g a bs} (ok : s.Assigns tab) : AgentAssigns tab (s.agentStore g a bs) := ok.agentWrite
theorem State.Assigns.onShare {cl sh f} (ok : s.Assigns tab) : (s.onShare cl sh f).Assigns tab := ok.setCluster

theorem State.Assigns.scaleWrite {cl sh sideB seq j q v} (ok : s.Assigns tab) : (s.scaleWrite cl sh sideB seq j q v).Assigns tab :=
  ok.onShare

theorem State.Assigns.onCore {n f} (ok : s.Assigns tab) : (s.onCore n f).Assigns tab := ok.setCore
theorem State.Assigns.finishCmd {n c} (ok : s.Assigns tab) : (s.finishCmd n c).Assigns tab := .onCore ok

/-! ## The work of commands (R362 to R366, R382) -/

theorem State.Assigns.engineFree {cl} (ok : s.Assigns tab) : (s.engineFree cl).Assigns tab := ok.foldl fun ok => ok.foldl fun ok => ok.owe
theorem State.Assigns.leftEngine {n c} (ok : s.Assigns tab) : (s.leftEngine n c).Assigns tab := .ite ok.engineFree ok

theorem State.Assigns.readPiece {n c a len} (ok : s.Assigns tab) : AgentAssigns tab (s.readPiece n c a len) := by
  unfold State.readPiece
  dsimp only
  split
  · next hr =>
    exact ok.agentBytes.error hr
  · next hr =>
    show State.Assigns tab _
    dsimp only [State.Assigns]
    exact ok.agentBytes.get hr

theorem State.Assigns.writePiece {n c a bs} (ok : s.Assigns tab) : AgentAssigns tab (s.writePiece n c a bs) := by
  unfold State.writePiece
  dsimp only
  split
  · next hr =>
    exact ok.agentStore.error hr
  · next hr =>
    exact ok.agentStore.get hr

theorem State.Assigns.movePiece {n c srcBase src dstBase dst len} (ok : s.Assigns tab) :
    AgentAssigns tab (s.movePiece n c srcBase src dstBase dst len) := by
  unfold State.movePiece
  split
  · trivial
  · split
    · trivial
    · split
      · next hr =>
        exact ok.readPiece.error hr
      · next hr =>
        split
        · next hr1 =>
          exact (ok.readPiece.get hr).behind ((ok.readPiece.get hr).writePiece.error hr1)
        · next hr1 =>
          exact (ok.readPiece.get hr).writePiece.get hr1

theorem State.Assigns.readRows {n c srca rowBytes stride left i} (ok : s.Assigns tab) :
    AgentAssigns tab (s.readRows n c srca rowBytes stride left i) := by
  induction left generalizing s c i with
  | zero => exact ok
  | succ left ih =>
    unfold State.readRows
    dsimp only
    split
    · trivial
    · split
      · next hr =>
        exact ok.readPiece.error hr
      · next hr =>
        have read := ok.readPiece.get hr
        split
        · next hr1 =>
          exact read.behind ((ih read).error hr1)
        · next hr1 =>
          exact (ih read).get hr1

theorem State.Assigns.tilePiece {n c dsta} (ok : s.Assigns tab) : AgentAssigns tab (s.tilePiece n c dsta) := by
  unfold State.tilePiece
  dsimp only
  split
  · split
    · trivial
    · split
      · next hr =>
        exact ok.writePiece.error hr
      · next hr =>
        exact ok.writePiece.get hr
  · split
    · trivial
    · split
      · next hr =>
        exact ok.writePiece.error hr
      · next hr =>
        exact ok.writePiece.get hr

theorem State.Assigns.scalePiece {n c conv seq sca quarters k} (ok : s.Assigns tab) :
    (s.scalePiece n c conv seq sca quarters k).Assigns tab := by
  unfold State.scalePiece
  dsimp only
  split
  · exact ok
  · split
    · exact ok
    · split
      · exact .intro ok trivial
      · split
        · next hr =>
          exact .intro ok (ok.agentBytes.error hr)
        · next hr =>
          exact (ok.agentBytes.get hr).scaleWrite

theorem State.Assigns.rowPiece {n c scatter tbl lst idxa rowb tstr nrows} (ok : s.Assigns tab) :
    AgentAssigns tab (s.rowPiece n c scatter tbl lst idxa rowb tstr nrows) := by
  unfold State.rowPiece
  extract_lets r o a idx
  have index : AgentAssigns tab idx := by
    dsimp only [idx]
    split
    · exact ok
    · split
      · trivial
      · split
        · next hr =>
          exact ok.agentBytes.error hr
        · next hr =>
          exact ok.agentBytes.get hr
  clear_value idx
  split
  · exact index
  · have ok := State.Assigns.of_pair index rfl
    exact .ite ok (.ite ok.movePiece ok.movePiece)

theorem State.Assigns.advance {n c} (ok : s.Assigns tab) : (s.advance n c).Assigns tab := by
  unfold State.advance
  dsimp only
  split
  · exact ok.of ok.movePiece
  · split
    · split
      · next hr =>
        exact .intro ok (ok.readRows.error hr)
      · next hr =>
        exact ok.readRows.get hr
    · exact .ite (ok.of ok.tilePiece) ok.scalePiece
  · exact ok.of ok.rowPiece
  · split
    · exact .intro ok trivial
    · split
      · next hr =>
        exact .intro ok (ok.writePiece.error hr)
      · next hr =>
        exact ok.writePiece.get hr
  · split
    · exact ok
    · split
      · exact .intro ok trivial
      · split
        · next hr =>
          exact .intro ok (ok.writePiece.error hr)
        · next hr =>
          exact ok.writePiece.get hr
  · split
    · exact .intro ok trivial
    · split
      · exact .intro ok trivial
      · split
        · next hr =>
          exact .intro ok (ok.readPiece.error hr)
        · next hr =>
          exact ok.readPiece.get hr
  · exact ok

theorem State.Assigns.countLine {n before after} (ok : s.Assigns tab) : (s.countLine n before after).Assigns tab := .ite ok.onCore ok

theorem State.Assigns.wakeRing {v r} (ok : s.Assigns tab) : (s.wakeRing v r).Assigns tab := by
  unfold State.wakeRing
  split
  · exact .ite ok.owe ok
  · exact ok

theorem State.Assigns.linesBeforeCancel {n fuel c} (ok : s.Assigns tab) : (State.linesBeforeCancel n fuel c s).1.Assigns tab := by
  induction fuel generalizing s c with
  | zero => exact ok
  | succ fuel ih =>
    unfold State.linesBeforeCancel
    have next : (s.advance n c).Assigns tab := ok.advance
    split
    · exact ok
    · split
      · next hr =>
        rw [hr] at next
        exact ih (State.Assigns.countLine next)
      · exact ok

theorem State.Assigns.ringBehind {c} (ok : s.Assigns tab) : (s.ringBehind c).Assigns tab := by
  unfold State.ringBehind
  split
  · exact ok.wakeRing
  · exact ok

theorem State.Assigns.cancel {n c} (ok : s.Assigns tab) : (s.cancel n c).1.Assigns tab := by
  unfold State.cancel
  dsimp only
  split
  · exact ok.setCluster.finishCmd
  · exact .ringBehind (.leftEngine (.finishCmd (.linesBeforeCancel ok)))
  · exact ok.setDie.finishCmd.ringBehind
  · exact ok.finishCmd
  · exact ok.finishCmd

theorem State.Assigns.putLaunch {x} (ok : s.Assigns tab) : (s.putLaunch x).Assigns tab := ok

/-! ## Domains, tasks and launches (R423, R428, R442) -/

theorem State.Assigns.hwEdit {n r f} (ok : s.Assigns tab) : ReachAssigns tab (s.hwEdit n r f) := by
  unfold State.hwEdit
  dsimp only
  split
  · trivial
  · exact .ite trivial ok.gain.writeGlobal

theorem State.Assigns.recordFault {n a} (ok : s.Assigns tab) : (s.recordFault n a).Assigns tab := ok.haltFaulted.faultOnFault
theorem State.Assigns.haltPartition {p n a} (ok : s.Assigns tab) : (s.haltPartition p n a).Assigns tab := ok.haltFaulted.haltAway.report

theorem State.Assigns.orDouble {n a r} (ok : s.Assigns tab) (written : ReachAssigns tab r) : (s.orDouble n a r).Assigns tab := by
  cases r with
  | ok t => exact written
  | error e => exact ok.recordFault

theorem State.Assigns.editDomain {p n r f} (ok : s.Assigns tab) : (s.editDomain p n r f).Assigns tab := by
  unfold State.editDomain
  split
  · exact ok.orDouble ok.hwEdit
  · split
    · exact ok
    · split
      · next hr =>
        exact (ok.split (ok.agentBytes.error hr)).haltPartition
      · next hr =>
        split
        · next hr1 =>
          exact ((ok.agentBytes.get hr).split ((ok.agentBytes.get hr).agentStore.error hr1)).haltPartition
        · next hr1 =>
          exact (ok.agentBytes.get hr).agentStore.get hr1

theorem State.Assigns.addTasks {p n r k} (ok : s.Assigns tab) : (s.addTasks p n r k).Assigns tab := .ite ok ok.editDomain
theorem State.Assigns.setQueue {q es} (ok : s.Assigns tab) : (s.setQueue q es).Assigns tab := ok

theorem State.Assigns.becameIdle {n l} (ok : s.Assigns tab) : (s.becameIdle n l).Assigns tab := by
  unfold State.becameIdle
  extract_lets c yielded ended
  have yielded_ok : yielded.Assigns tab := .ite ok.setCore ok.owe
  have ended_ok : ended.Assigns tab := by
    cases l with
    | none => exact yielded_ok
    | some l => exact yielded_ok.owe
  split
  · exact ended_ok
  · exact ended_ok.foldl fun ok => ok.owe

theorem State.Assigns.leaveTask {n} (ok : s.Assigns tab) : (s.leaveTask n).Assigns tab := by
  unfold State.leaveTask
  exact .ite ok.leaveGang.setCore.setCore ok.leaveGang.setCore.becameIdle

theorem State.Assigns.endTask {n} (ok : s.Assigns tab) : (s.endTask n).Assigns tab := by
  unfold State.endTask
  refine State.Assigns.leaveTask ?_
  split
  · exact ok.addTasks
  · exact ok

theorem State.Assigns.completing {x status} (ok : s.Assigns tab) : (s.completing x status).Assigns tab := ok.putLaunch.owe

theorem State.Assigns.abandon {n} (ok : s.Assigns tab) : (s.abandon n).Assigns tab := by
  unfold State.abandon
  exact (ok.withdraw.leaveQueues.foldl fun ok => ok.cancel).setDie.setCore.endTask

theorem State.Assigns.dropOut {p n hit} (ok : s.Assigns tab) : (s.dropOut p n hit).Assigns tab := by
  refine State.Assigns.mapOut (ok.foldl fun ok => ?_)
  split
  · exact ok.addTasks
  · exact ok

theorem State.Assigns.removeEntries {l q} (ok : s.Assigns tab) : (s.removeEntries l q).Assigns tab := by
  unfold State.removeEntries
  exact (ok.foldl fun ok => ok.addTasks).setQueue

theorem State.Assigns.endLaunch {l status} (ok : s.Assigns tab) : (s.endLaunch l status).Assigns tab := by
  unfold State.endLaunch
  extract_lets cores abandoned removed ps dropped
  have dropped_ok : dropped.Assigns tab :=
    ((ok.foldl fun ok => ok.abandon).foldl fun ok => ok.removeEntries).foldl fun ok => ok.dropOut
  split
  · exact .ite dropped_ok.completing dropped_ok
  · exact dropped_ok

end Sys2Proof.Machine
end

section
/-! The service processors: layout, protection, mask and attestation requests, the flip, and their losses (R471 to R478, R525, R535, R542,
R543, R550, R552). -/
namespace Sys2Proof.Machine
open Sys2Proof

section
variable {s : State} {sp : Fin 2} {x : Layout}

/-! ## Mailboxes (R475, R525) -/

theorem onMbox_self (f : Mailbox → Mailbox) : (s.onMbox sp f).sp.mbox[sp] = f s.sp.mbox[sp] := Vector.getElem_set_self _
theorem partner_ne (k : Fin 2) : partner k ≠ k := by
  revert k
  decide
theorem onMbox_partner (f : Mailbox → Mailbox) : (s.onMbox sp f).sp.mbox[partner sp] = s.sp.mbox[partner sp] :=
  Vector.getElem_set_ne sp.isLt (partner sp).isLt fun same => partner_ne sp (Fin.ext same.symm)
theorem taken_req : (s.onMbox sp fun y => { y with busy := true }).sp.mbox[sp].req = s.sp.mbox[sp].req := by
  rw [onMbox_self]

/-- A submission behind a busy mailbox, or behind a change in progress, only waits. -/
theorem submitMbox_waits (other : s.sp.mbox[partner sp].busy = true) (free : s.sp.mbox[sp].busy = false) :
    s.submitMbox sp = s.onMbox sp fun y => { y with busy := true } := by
  unfold State.submitMbox
  dsimp only
  rw [if_neg (ne_true_of_eq_false free)]
  exact if_pos (by rw [onMbox_partner, other, Bool.true_or])

section
variable {β : Type} (g : State → β) (memory : ∀ s hbm fabric, g { s with hbm := hbm, fabric := fabric } = g s)
  (mbox : ∀ s sp f, g (State.onMbox s sp f) = g s) (owe : ∀ s e, g (State.owe s e) = g s)
include owe

theorem drainAgain_keeps (s : State) : g s.drainAgain = g s := State.foldl_keeps g (fun s _ => owe s _) _ _

include memory mbox

theorem finishRequest_keeps (s : State) (sp : Fin 2) (q : BitVec 512) (status extra : Nat) :
    g (s.finishRequest sp q status extra) = g s := by
  unfold State.finishRequest
  extract_lets written done o
  have same : g done = g s := (mbox written sp _).trans (State.setPhysBytes_keeps g memory ..)
  split
  · exact (owe ..).trans same
  · exact same

variable (layout : ∀ s x, g (State.setLayout s x) = g s)
include layout

theorem endLayout_keeps (s : State) (x : Layout) (status : Nat) : g (s.endLayout x status) = g s := by
  unfold State.endLayout
  extract_lets cleared remapped ended
  have cleared_same : g cleared = g s := layout s none
  have remapped_same : g remapped = g s := by
    dsimp only [remapped]
    split
    · exact cleared_same
    · exact (owe ..).trans cleared_same
  have ended_same : g ended = g s := by
    dsimp only [ended]
    split
    · split
      · exact (owe ..).trans remapped_same
      · exact remapped_same
    · exact (finishRequest_keeps g memory mbox owe ..).trans remapped_same
  exact (drainAgain_keeps g owe ended).trans ended_same

theorem partnerTakes_keeps (remaps : ∀ s l, g { s with sp := { s.sp with remaps := l } } = g s)
    (dies : ∀ s n d, g (State.setDie s n d) = g s)
    (s : State) (sp : Fin 2) : g (s.partnerTakes sp) = g s := by
  unfold State.partnerTakes
  split
  · rfl
  · split
    · rfl
    · refine (State.foldl_keeps g (fun s d => dies s _ _) _ _).trans ((endLayout_keeps g memory mbox owe layout ..).trans ?_)
      split
      · exact remaps s _
      · rfl

end

/-- The mailbox shows the result of its request. -/
theorem finishRequest_mbox (s : State) (sp : Fin 2) (q : BitVec 512) (status extra : Nat) :
    (s.finishRequest sp q status extra).sp.mbox[sp] =
    { s.sp.mbox[sp] with busy := false, lstat := BitVec.ofNat 8 status, lseq := reqSeq q } := by
  unfold State.finishRequest
  extract_lets written done o
  have same : done.sp.mbox[sp] = { s.sp.mbox[sp] with busy := false, lstat := BitVec.ofNat 8 status, lseq := reqSeq q } := by
    refine (onMbox_self _).trans ?_
    have procs : written.sp = s.sp := State.setPhysBytes_keeps State.sp (fun _ _ _ => rfl) ..
    rw [procs]
  split
  · exact same
  · exact same

/-! ## Layout requests (R475, R476) -/

/-- No change is in progress or owed, and it is this mailbox's turn. -/
def State.layoutIdle (s : State) (sp : Fin 2) : Prop :=
  s.sp.layout = none ∧ s.sp.remaps = [] ∧ (s.sp.mbox[partner sp].busy = false ∨ s.sp.mbox[sp].busy = true)

theorem execLayoutRequest_idle (idle : s.layoutIdle sp) : execLayoutRequest sp s = .next (s.beginLayout sp) := by
  obtain ⟨still, none', turn⟩ := idle
  rw [execLayoutRequest, still]
  dsimp only
  rw [none', if_neg (by decide), if_neg]
  rcases turn with free | mine
  · rw [free, Bool.false_and]
    decide
  · rw [mine, Bool.not_true, Bool.and_false]
    decide

theorem beginLayout_invalid
    (bad : ¬ (layoutRecord s.sp.mbox[sp].req = true ∧ (s.onMbox sp fun y => { y with busy := true }).layoutValid
      ((s.onMbox sp fun y => { y with busy := true }).readLayout sp s.sp.mbox[sp].req) = true)) :
    s.beginLayout sp = (s.onMbox sp fun y => { y with busy := true }).finishRequest sp s.sp.mbox[sp].req 2 0 := by
  unfold State.beginLayout
  dsimp only
  rw [taken_req, if_pos]
  rwa [Bool.or_eq_true, Bool.not_eq_true', Bool.not_eq_true', ← Bool.not_eq_true, ← Bool.not_eq_true, ← not_and_or]

theorem beginLayout_saves
    (valid : layoutRecord s.sp.mbox[sp].req = true ∧ (s.onMbox sp fun y => { y with busy := true }).layoutValid
      ((s.onMbox sp fun y => { y with busy := true }).readLayout sp s.sp.mbox[sp].req) = true)
    (plain : protField s.sp.mbox[sp].req 1 1 = 0) : s.beginLayout sp = (
      let taken := s.onMbox sp fun y => { y with busy := true }
      let table := taken.readLayout sp s.sp.mbox[sp].req
      let ps := taken.affectedBy table
      let t := taken.setLayout (some { table with affected := ps, since := taken.draws })
      ((t.liveDies ps).foldl (fun (u : State) d => u.ringDoor d 0 (layoutArg s.sp.mbox[sp].req 3)) t).owe (.layoutRequest sp)) := by
  unfold State.beginLayout
  dsimp only
  rw [taken_req, valid.1, valid.2, if_neg (by decide), plain, if_neg]
  rintro ⟨forced, -⟩
  cases forced

/-- The processors' own change for failed cores comes first (R502, R530). -/
theorem execLayoutRequest_own (still : s.sp.layout = none) (owed : s.sp.remaps ≠ []) : execLayoutRequest sp s = .next (
    if s.beginOwn.sp.layout = none ∧ s.beginOwn.sp.mbox[sp].busy = true then s.beginOwn.beginLayout sp else s.beginOwn) := by
  have some' : (!s.sp.remaps.isEmpty) = true := by
    rw [Bool.not_eq_true', List.isEmpty_eq_false_iff]
    exact owed
  rw [execLayoutRequest, still]
  dsimp only
  rw [if_pos some']
  exact congrArg _ (if_congr (by rw [Bool.and_eq_true, Option.isNone_iff_eq_none]) rfl rfl)

theorem execLayoutRequest_waits (still : s.sp.layout = none) (none' : s.sp.remaps = []) (other : s.sp.mbox[partner sp].busy = true)
    (free : s.sp.mbox[sp].busy = false) : execLayoutRequest sp s = .next (s.submitMbox sp) := by
  rw [execLayoutRequest, still]
  dsimp only
  rw [none', if_neg (by decide), if_pos]
  rw [other, free]
  rfl

section
variable (runs : s.sp.layout = some x)
include runs

theorem execLayoutRequest_other (other : x.sp ≠ sp) : execLayoutRequest sp s = .next (s.submitMbox sp) := by
  rw [execLayoutRequest, runs]
  exact if_pos other

variable (mine : x.sp = sp)
include mine

theorem execLayoutRequest_saving (step : x.step = .saving) : execLayoutRequest sp s = if (s.liveDies x.affected).isEmpty then
    .next (((s.onJournals fun _ => { prepare := some (journalRecord x.req), commit := none }).setLayout
      (some { x with step := .prepared })).owe (.layoutRequest sp)) else .next s := by
  rw [execLayoutRequest, runs]
  refine (if_neg (not_not.mpr mine)).trans ?_
  rw [step]

theorem execLayoutRequest_prepared (step : x.step = .prepared) : execLayoutRequest sp s =
    .next ((s.onJournals fun j => { j with commit := some (journalRecord x.req) }).setLayout (some { x with step := .committed })) := by
  rw [execLayoutRequest, runs]
  refine (if_neg (not_not.mpr mine)).trans ?_
  rw [step]

theorem execLayoutRequest_committed (step : x.step = .committed) : execLayoutRequest sp s = .next s := by
  rw [execLayoutRequest, runs]
  refine (if_neg (not_not.mpr mine)).trans ?_
  rw [step]

theorem execLayoutRequest_restoring (step : x.step = .restoring) :
    execLayoutRequest sp s = .next (if s.awaitsRestore x then s else s.endLayout x 0) := by
  rw [execLayoutRequest, runs]
  refine (if_neg (not_not.mpr mine)).trans ?_
  rw [step]

end

theorem endLayout_request (own : x.own = false) (k : Nat) : s.endLayout x k =
    (State.finishRequest (if (s.setLayout none).sp.remaps.isEmpty then s.setLayout none
      else (s.setLayout none).owe (.layoutRequest (if (s.setLayout none).sp.lost[0] then 1 else 0))) x.sp x.req k
      (if k = 0 then x.changed else 0)).drainAgain := by
  unfold State.endLayout
  dsimp only
  rw [if_neg (ne_true_of_eq_false own)]

theorem endLayout_settled (none' : s.sp.remaps = []) (own : x.own = false) (k : Nat) : s.endLayout x k =
    ((s.setLayout none).finishRequest x.sp x.req k (if k = 0 then x.changed else 0)).drainAgain := by
  have settled : (s.setLayout none).sp.remaps.isEmpty = true := by
    show s.sp.remaps.isEmpty = true
    rw [none']
    rfl
  rw [endLayout_request own, if_pos settled]

/-- The result is written once the change is over (R475). -/
theorem endLayout_result (own : x.own = false) (k : Nat) : (s.endLayout x k).sp.layout = none ∧
    (s.endLayout x k).sp.mbox[x.sp].busy = false ∧ (s.endLayout x k).sp.mbox[x.sp].lstat = BitVec.ofNat 8 k ∧
    (s.endLayout x k).sp.mbox[x.sp].lseq = reqSeq x.req ∧ (s.endLayout x k).assign = s.assign := by
  rw [endLayout_request own]
  have procs (t : State) : t.drainAgain.sp = t.sp := drainAgain_keeps State.sp (fun _ _ => rfl) t
  rw [procs, finishRequest_mbox]
  refine ⟨?_, rfl, rfl, rfl, ?_⟩
  · refine (finishRequest_keeps (fun t => t.sp.layout) (fun _ _ _ => rfl) (fun _ _ _ => rfl) (fun _ _ => rfl) ..).trans ?_
    split <;> rfl
  · refine (drainAgain_keeps State.assign (fun _ _ => rfl) _).trans
      ((finishRequest_keeps State.assign (fun _ _ _ => rfl) (fun _ _ _ => rfl) (fun _ _ => rfl) ..).trans ?_)
    split <;> rfl

/-! ## The flip (R472, R476) -/

theorem flipTables_assigns (s : State) (x : Layout) : (s.flipTables x).assign = x.assign :=
  State.foldl_keeps State.assign (fun s e => by rfl) _ _
theorem flipOwn_assigns (s : State) (x : Layout) : (s.flipOwn x).assign = x.assign :=
  State.rewriteXlt_keeps State.assign (fun _ _ _ => rfl) _ _
theorem endChanged_assigns (s : State) (ps : List Nat) (gone : Nat → Ctx → Bool) : (s.endChanged ps gone).1.assign = s.assign := by
  have ended {ls : List Launch} : State.Assigns s.assign (ls.foldl (fun (s : State) l => s.endLaunch (l.vdev, l.lid) 3) s) :=
    State.Assigns.foldl rfl fun ok => ok.endLaunch
  exact ended
theorem retagXbars_assign (s : State) (cls : List Nat) : (s.retagXbars cls).assign = s.assign :=
  State.foldl_keeps State.assign (fun s cl => by rfl) _ _
theorem startSlots_assign (s : State) (n : Nat) : (s.startSlots n).assign = s.assign :=
  State.startSlots_keeps State.assign (fun _ _ => rfl) (fun _ _ => rfl) (fun _ _ => rfl) s n

theorem execLayoutFlip_still (still : s.sp.layout = none) : execLayoutFlip s = .next s := by
  rw [execLayoutFlip, still]

theorem execLayoutFlip_early (runs : s.sp.layout = some x) (early : x.step ≠ .committed ∨ x.ticked = false) :
    execLayoutFlip s = .next s := by
  rw [execLayoutFlip, runs]
  exact if_pos (early.imp_right fun no => by rw [no]; rfl)

theorem execLayoutFlip_flips (runs : s.sp.layout = some x) (step : x.step = .committed) (ticked : x.ticked = true) :
    ∃ t, execLayoutFlip s = .next t ∧ t.assign = x.assign ∧
      ∃ n, t.sp.layout = some { x with step := LayoutStep.restoring, changed := n } := by
  have due : ¬ (x.step ≠ .committed ∨ (!x.ticked) = true) := by
    rw [step, ticked]
    decide
  rw [execLayoutFlip, runs]
  refine ⟨_, if_neg due, ?_, _, rfl⟩
  refine (State.foldl_keeps State.assign (fun s y => by rfl) _ _).trans ?_
  refine (State.foldl_keeps State.assign (fun s y => by rfl) _ _).trans ?_
  refine (State.foldl_keeps State.assign startSlots_assign _ _).trans ?_
  split
  · exact (endChanged_assigns ..).trans (flipOwn_assigns s x)
  · exact (retagXbars_assign ..).trans ((endChanged_assigns ..).trans (flipTables_assigns s x))

theorem part_install (cur new : Part) : (cur.install new).words = new.words ∧
    (cur.v = true ∨ new.v = false → (cur.install new).evdrop = cur.evdrop ∧ (cur.install new).tagdrop = cur.tagdrop) ∧
    (cur.v = false → new.v = true → (cur.install new).evdrop = 0 ∧ (cur.install new).tagdrop = 0) := by
  refine ⟨rfl, fun kept => ?_, fun old fresh => ?_⟩
  · have stays : (new.v && !cur.v) = false := by
      rcases kept with was | gone
      · rw [was, Bool.not_true, Bool.and_false]
      · rw [gone, Bool.false_and]
    unfold Part.install
    rw [stays]
    exact ⟨rfl, rfl⟩
  · unfold Part.install
    rw [old, fresh]
    exact ⟨rfl, rfl⟩

/-! ## Protection requests (R542, R543) -/

theorem protReady_iff {q : BitVec 512} {w : BitVec 16} : (protValid q = true ∧ w ≠ 0) ↔ ¬ (!protValid q || w == 0) = true := by
  rw [Bool.or_eq_true, not_or, Bool.not_eq_true', Bool.not_eq_false, beq_iff_eq]

/-- A group that has formed is installed or refused. -/
theorem protOutcome_some {q : BitVec 512} {peers : List ProtReq} {k : Nat} (ends : protOutcome q peers = some k) : k = 0 ∨ k = 4 := by
  unfold protOutcome at ends
  dsimp only at ends
  split at ends
  · exact .inr (Option.some.inj ends).symm
  · split at ends
    · cases ends
    · split at ends
      · exact .inl (Option.some.inj ends).symm
      · exact .inr (Option.some.inj ends).symm

section
variable {peers : List ProtReq}

/-- The state in which a processor has taken a protection request up and no request of its own waits for a group. -/
def State.protTaken (s : State) (sp : Fin 2) (regions : List Region) : State :=
  let taken := s.onMbox sp fun y => { y with busy := true }
  { taken with sp := { taken.sp with regions := regions, prot := s.sp.prot.filter fun w => w.sp != sp } }

/-- The virtual device that a protection request names. -/
def State.protVdev (s : State) (sp : Fin 2) : Nat := (s.part (protField s.sp.mbox[sp].req 3 1)).vdev.toNat
/-- The regions other than the one that a request names. -/
def State.protOthers (s : State) (sp : Fin 2) : List Region :=
  s.sp.regions.filter fun r => !(r.v == s.protVdev sp && protField r.req 2 1 == protField s.sp.mbox[sp].req 2 1)
/-- A request of this processor has waited for its group for a second. -/
def State.protExpired (s : State) (sp : Fin 2) : Bool := s.sp.prot.any fun w => w.sp == sp && decide (w.tick + 1000000 ≤ s.ticks)

theorem execProtectionRequest_refuses
    (bad : ¬ (protValid s.sp.mbox[sp].req = true ∧ (s.vd (s.protVdev sp)).snapp ≠ 0)) :
    execProtectionRequest sp peers s = .next ((s.protTaken sp s.sp.regions).finishRequest sp s.sp.mbox[sp].req 2 0) := by
  unfold execProtectionRequest
  dsimp only
  rw [taken_req]
  exact if_pos (not_not.mp (bad ∘ protReady_iff.mpr))

section
variable (good : protValid s.sp.mbox[sp].req = true ∧ (s.vd (s.protVdev sp)).snapp ≠ 0)
include good

theorem execProtectionRequest_removes (remove : protField s.sp.mbox[sp].req 1 1 = 0) :
    execProtectionRequest sp peers s = .next ((s.protTaken sp (s.protOthers sp)).finishRequest sp s.sp.mbox[sp].req 0 0) := by
  unfold execProtectionRequest
  dsimp only
  rw [taken_req]
  exact (if_neg (protReady_iff.mp good)).trans (if_pos remove)

variable (install : protField s.sp.mbox[sp].req 1 1 ≠ 0)
include install

theorem execProtectionRequest_expires (expired : s.protExpired sp = true) :
    execProtectionRequest sp peers s = .next ((s.protTaken sp s.sp.regions).finishRequest sp s.sp.mbox[sp].req 4 0) := by
  unfold execProtectionRequest
  dsimp only
  rw [taken_req]
  exact (if_neg (protReady_iff.mp good)).trans ((if_neg install).trans (if_pos expired))

theorem execProtectionRequest_installs (timely : s.protExpired sp = false) (alike : protOutcome s.sp.mbox[sp].req peers = some 0) :
    execProtectionRequest sp peers s = .next
      ((s.protTaken sp ({ v := s.protVdev sp, req := s.sp.mbox[sp].req } :: s.protOthers sp)).finishRequest sp s.sp.mbox[sp].req 0 0) := by
  unfold execProtectionRequest
  dsimp only
  rw [taken_req]
  refine (if_neg (protReady_iff.mp good)).trans ((if_neg install).trans ((if_neg (ne_true_of_eq_false timely)).trans ?_))
  rw [alike]
  rfl

theorem execProtectionRequest_disagrees (unlike : protOutcome s.sp.mbox[sp].req peers = some 4) :
    execProtectionRequest sp peers s = .next ((s.protTaken sp s.sp.regions).finishRequest sp s.sp.mbox[sp].req 4 0) := by
  by_cases expired : s.protExpired sp = true
  · exact execProtectionRequest_expires good install expired
  · unfold execProtectionRequest
    dsimp only
    rw [taken_req]
    refine (if_neg (protReady_iff.mp good)).trans ((if_neg install).trans ((if_neg expired).trans ?_))
    rw [unlike]
    rfl

theorem execProtectionRequest_waits (timely : s.protExpired sp = false) (open' : protOutcome s.sp.mbox[sp].req peers = none)
    (first : (s.sp.prot.any fun w => w.sp == sp) = false) : execProtectionRequest sp peers s = .next (
      let taken := s.onMbox sp fun y => { y with busy := true }
      { taken with sp := { taken.sp with
        prot := { sp := sp, req := s.sp.mbox[sp].req, tick := s.ticks } :: s.sp.prot.filter fun w => w.sp != sp } }) := by
  unfold execProtectionRequest
  dsimp only
  rw [taken_req]
  refine (if_neg (protReady_iff.mp good)).trans ((if_neg install).trans ((if_neg (ne_true_of_eq_false timely)).trans ?_))
  rw [open']
  exact if_neg (ne_true_of_eq_false first)

end

/-- A waiting request of a group that a second has passed for. -/
def State.groupLate (s : State) (gid : BitVec 32) (w : ProtWait) : Bool :=
  w.req.extractLsb' (8 * 0x18) 32 == gid && decide (w.tick + 1000000 ≤ s.ticks)

theorem execProtectionGroupTimeout_none {gid : BitVec 32} (early : s.sp.prot.any (s.groupLate gid) = false) :
    execProtectionGroupTimeout gid s = .next s := by
  have timely (w : ProtWait) (waits : w ∈ s.sp.prot) : s.groupLate gid w = false := by
    simpa using List.any_eq_false.mp early w waits
  have due : s.sp.prot.filter (s.groupLate gid) = [] := List.filter_eq_nil_iff.mpr fun w waits => by simp [timely w waits]
  have kept : s.sp.prot.filter (fun w => !s.groupLate gid w) = s.sp.prot := List.filter_eq_self.mpr fun w waits => by simp [timely w waits]
  unfold State.groupLate at due kept
  unfold execProtectionGroupTimeout
  dsimp only
  rw [due, kept]
  rfl

theorem execProtectionGroupTimeout_one {gid : BitVec 32} {w : ProtWait} (due : s.sp.prot.filter (s.groupLate gid) = [w]) :
    execProtectionGroupTimeout gid s = .next (State.finishRequest
      { s with sp := { s.sp with prot := s.sp.prot.filter fun y => !s.groupLate gid y } } w.sp w.req 4 0) := by
  unfold State.groupLate at due
  unfold execProtectionGroupTimeout
  dsimp only
  rw [due]
  rfl

end

/-! ## Masks and attestation (R550, R552) -/

theorem physBytes_onMbox (f : Mailbox → Mailbox) (pa n : Nat) : (s.onMbox sp f).physBytes pa n = s.physBytes pa n := rfl

section
variable {mask : BitVec 10368} (read : mask = ofBytes 10368 (s.physBytes (protField s.sp.mbox[sp].req 8 8) 1296))
include read

theorem execServerMaskRequest_sets
    (good : protField s.sp.mbox[sp].req 0 1 = 4 ∧ reqZero s.sp.mbox[sp].req 1 3 = true ∧ reqZero s.sp.mbox[sp].req 0x10 24 = true ∧
      reqZero s.sp.mbox[sp].req 0x30 16 = true ∧ maskValid mask = true) :
    execServerMaskRequest sp s = .next (State.finishRequest (let taken := s.onMbox sp fun y => { y with busy := true }
      { taken with sp := { taken.sp with bootMask := some mask } }) sp s.sp.mbox[sp].req 0 0) := by
  unfold execServerMaskRequest
  dsimp only
  rw [taken_req, physBytes_onMbox, ← read]
  exact if_pos good

theorem execServerMaskRequest_refuses
    (bad : ¬ (protField s.sp.mbox[sp].req 0 1 = 4 ∧ reqZero s.sp.mbox[sp].req 1 3 = true ∧ reqZero s.sp.mbox[sp].req 0x10 24 = true ∧
      reqZero s.sp.mbox[sp].req 0x30 16 = true ∧ maskValid mask = true)) :
    execServerMaskRequest sp s = .next ((s.onMbox sp fun y => { y with busy := true }).finishRequest sp s.sp.mbox[sp].req 2 0) := by
  unfold execServerMaskRequest
  dsimp only
  rw [taken_req, physBytes_onMbox, ← read]
  exact if_neg bad

end

/-- The record of an attestation request is well formed (R552). -/
def attestRecord (q : BitVec 512) : Prop :=
  protField q 0 1 = 3 ∧ reqZero q 1 3 = true ∧ protField q 0x30 1 < 32 ∧ reqZero q 0x31 15 = true

theorem execAttestationRequest_attests (good : attestRecord s.sp.mbox[sp].req) : execAttestationRequest sp s = .next (
    let taken := s.onMbox sp fun y => { y with busy := true }
    State.finishRequest (taken.setPhysBytes (reqResa s.sp.mbox[sp].req + 16)
      (taken.attestation (s.sp.mbox[sp].req.extractLsb' 64 256) (protField s.sp.mbox[sp].req 0x30 1))) sp s.sp.mbox[sp].req 0 410) := by
  unfold execAttestationRequest
  dsimp only
  rw [taken_req]
  exact if_pos good

theorem execAttestationRequest_refuses (bad : ¬ attestRecord s.sp.mbox[sp].req) : execAttestationRequest sp s =
    .next ((s.onMbox sp fun y => { y with busy := true }).finishRequest sp s.sp.mbox[sp].req 2 0) := by
  unfold execAttestationRequest
  dsimp only
  rw [taken_req]
  exact if_neg bad

theorem attestation_length (s : State) (nonce : BitVec 256) (v : Nat) : (s.attestation nonce v).length = 410 := by
  simp [State.attestation]

/-! ## Resets and losses of the processors (R478, R535) -/

theorem partnerTakes_ends (runs : s.sp.layout = some x) (mine : x.sp = sp) (own : x.own = false) (begun : x.step ≠ .saving)
    (open' : s.committed x.req = false) : s.partnerTakes sp =
      let dies := ((s.outCtxs.filter fun c => x.affected.contains c.2.ptag.toNat).map fun c => clusterDie c.1).eraseDups
      dies.foldl (fun (t : State) d => t.ringDoor d 0 (layoutArg x.req 6)) (s.endLayout x 3) := by
  have goes : ¬ (x.sp ≠ sp ∨ s.committed x.req = true ∨ x.step = .saving) := by
    rintro (other | done | saving)
    · exact other mine
    · exact ne_true_of_eq_false open' done
    · exact begun saving
  unfold State.partnerTakes
  rw [runs]
  refine (if_neg goes).trans ?_
  rw [own]
  rfl

theorem partnerTakes_stays (runs : s.sp.layout = some x) (other : x.sp ≠ sp ∨ x.step = .saving ∨ s.committed x.req = true) :
    s.partnerTakes sp = s := by
  unfold State.partnerTakes
  rw [runs]
  exact if_pos (other.imp_right Or.symm)

theorem committed_iff {q : BitVec 512} : s.committed q = true ↔
    ∃ i : Fin 2, s.sp.journal[i].commit = some (reqSeq q, crc32 (toBytes 64 q)) := by
  rw [State.committed, Vector.any_eq_true]
  constructor
  · rintro ⟨i, low, recorded⟩
    exact ⟨⟨i, low⟩, beq_iff_eq.mp recorded⟩
  · rintro ⟨i, recorded⟩
    exact ⟨i.val, i.isLt, beq_iff_eq.mpr recorded⟩

theorem execSpLoss_loses (sp : Fin 2) (s : State) : ∃ t, execSpLoss sp s = .next t ∧ t.sp.lost[sp] = true ∧
    t.sp.lost[partner sp] = s.sp.lost[partner sp] ∧ t.assign = s.assign ∧ t.parts = s.parts := by
  have lost : (s.partnerTakes sp).sp.lost = s.sp.lost :=
    partnerTakes_keeps (fun t => t.sp.lost) (fun _ _ _ => rfl) (fun _ _ _ => rfl) (fun _ _ => rfl) (fun _ _ => rfl) (fun _ _ => rfl)
      (fun _ _ _ => rfl) s sp
  refine ⟨_, rfl, Vector.getElem_set_self _, ?_, ?_, ?_⟩
  · refine (Vector.getElem_set_ne sp.isLt (partner sp).isLt fun same => partner_ne sp (Fin.ext same.symm)).trans ?_
    rw [lost]
    rfl
  · exact partnerTakes_keeps State.assign (fun _ _ _ => rfl) (fun _ _ _ => rfl) (fun _ _ => rfl) (fun _ _ => rfl) (fun _ _ => rfl)
      (fun _ _ _ => rfl) s sp
  · exact partnerTakes_keeps State.parts (fun _ _ _ => rfl) (fun _ _ _ => rfl) (fun _ _ => rfl) (fun _ _ => rfl) (fun _ _ => rfl)
      (fun _ _ _ => rfl) s sp

end

end Sys2Proof.Machine
namespace Sys2Proof
open Machine

/-- Settles O33: requests by what their records say, a change step by step, the flip, and the resets and losses of the processors. -/
theorem layoutEvents : Obligations.LayoutEvents := by
  intro s sp x peers gid k m q taken runs idle table valid vdev waits others protOk outcome mask maskOk attOk late expired recent noted
  refine ⟨fun quiet bad => ?_, fun quiet good plain => ?_, execLayoutRequest_own,
    fun still none' other free => ⟨execLayoutRequest_waits still none' other free, submitMbox_waits other free⟩,
    execLayoutRequest_other, fun run mine step live => ?_, fun run mine step out => ?_, fun run mine => execLayoutRequest_prepared run mine,
    fun run mine step away => ?_, fun run mine step back => ?_, fun none' own => endLayout_settled none' own k,
    fun run mine own step back => ?_, fun run mine => execLayoutRequest_committed run mine, fun still => ?_, fun run early => ?_,
    execLayoutFlip_flips, part_install, execProtectionRequest_refuses, execProtectionRequest_removes, execProtectionRequest_expires,
    execProtectionRequest_installs, fun good install ends differs => ?_, execProtectionRequest_waits, execProtectionGroupTimeout_none,
    fun w => execProtectionGroupTimeout_one, execServerMaskRequest_sets rfl, execServerMaskRequest_refuses rfl,
    execAttestationRequest_attests, execAttestationRequest_refuses, attestation_length .., fun few => ?_, fun many => ?_,
    partnerTakes_ends, partnerTakes_stays,
    committed_iff, execSpLoss_loses sp s⟩
  · exact (execLayoutRequest_idle quiet).trans (congrArg _ (beginLayout_invalid bad))
  · exact (execLayoutRequest_idle quiet).trans (congrArg _ (beginLayout_saves good plain))
  · exact (execLayoutRequest_saving run mine step).trans (if_neg fun empty => live (List.isEmpty_iff.mp empty))
  · exact (execLayoutRequest_saving run mine step).trans (if_pos (List.isEmpty_iff.mpr out))
  · exact (execLayoutRequest_restoring run mine step).trans (congrArg _ (if_pos away))
  · exact (execLayoutRequest_restoring run mine step).trans (congrArg _ (if_neg (ne_true_of_eq_false back)))
  · subst mine
    exact ⟨_, (execLayoutRequest_restoring run rfl step).trans (congrArg _ (if_neg (ne_true_of_eq_false back))), endLayout_result own 0⟩
  · exact execLayoutFlip_still still
  · exact execLayoutFlip_early run early
  · obtain rfl : k = 4 := (protOutcome_some ends).resolve_left differs
    exact ⟨rfl, execProtectionRequest_disagrees good install ends⟩
  · exact congrArg Host.Outcome.next (if_neg (Nat.not_le.mpr few))
  · exact congrArg Host.Outcome.next (if_pos many)

end Sys2Proof
end
